-- ==== Sys2Proof/Word.lean ====
section
/-! DEFINITION. The word type, places of fields in words (02: bit ranges of R3), and the description of a word table. -/

namespace Sys2Proof

/-- A control word, host-page word, packet word or ring word (32 bits; 00, "Control words and their tables"). -/
abbrev Word := BitVec 32

/-- A field of a word: its word is `base + stride * i` for index `i` below `count`, its bits are [hi:lo] (R3). -/
structure Fld where
  base : Nat
  stride : Nat
  count : Nat
  hi : Nat
  lo : Nat
deriving DecidableEq, Repr

/-- A field that repeats inside `count` words: element n is `width` bits at bit `step * (n % per)` of word `base + n / per`. -/
structure Arr where
  base : Nat
  count : Nat
  width : Nat
  step : Nat
  per : Nat
deriving DecidableEq, Repr

/-- One writable field of a word table with the least and greatest value its encoding admits. -/
structure FldRange where
  hi : Nat
  lo : Nat
  min : Nat
  max : Nat
deriving DecidableEq, Repr

/-- One word table: `count` words from `base`, `stride` apart; the bits of each access code of chapter 00
("Control words and their tables"); the value after a POWER-ON reset (R14, R644); the writable fields in descending order. -/
structure WordFam where
  base : Nat
  stride : Nat
  count : Nat
  rw : Nat
  rwp : Nat
  w1c : Nat
  wo : Nat
  reset : Nat
  fields : List FldRange
deriving DecidableEq, Repr

/-- The table has a word at address `a`. -/
def WordFam.covers (f : WordFam) (a : Nat) : Bool :=
  f.base ≤ a && (a - f.base) % f.stride == 0 && (a - f.base) / f.stride < f.count

/-- Bits [hi:lo] of a word, as a number (R3). -/
def bitsOf (w : Word) (hi lo : Nat) : Nat := (w.toNat >>> lo) % 2 ^ (hi + 1 - lo)

/-- `w` with bits [hi:lo] replaced by the low bits of `v`. -/
def putBits (w : Word) (hi lo v : Nat) : Word :=
  let m := (2 ^ (hi + 1 - lo) - 1) <<< lo
  (w &&& ~~~(BitVec.ofNat 32 m)) ||| BitVec.ofNat 32 ((v % 2 ^ (hi + 1 - lo)) <<< lo)

/-- Bit `n` of a word. -/
def bitOf (w : Word) (n : Nat) : Bool := w.getLsbD n

end Sys2Proof
end

