-- ==== Sys2Proof/Syntax.lean ====
section
/-! DEFINITION. The commands of the block: one constructor for each row of the spec's table of operations and events,
with the row's operands. An operand of an event row carries what the outside world decides (which rail, a measured value). -/

namespace Sys2Proof

/-- Where a command packet comes from: a host queue Q0-Q11 (R389), Purlin through Q18 or Thatch through Q19 (R23). -/
inductive Src where
  | host (q : Fin 12)
  | purlin
  | thatch
deriving DecidableEq, Repr

/-- The header facts of a command packet that has issued (R396): its source, its tag and its QUIET bit. -/
structure Req where
  src : Src
  tag : BitVec 12
  quiet : Bool
deriving DecidableEq, Repr

/-- How a SPI transaction ended (R381, R382): whole words only, or nCS rose inside the access word or inside a later word. -/
inductive SpiEnd where
  | whole | inAccess | inWord
deriving DecidableEq, Repr

/-- A SPI transaction as the host drives it (R380, R381): the fields of the access word, the words that follow it as they
arrived, and how nCS ended it. The access word's KIND is the row's. -/
structure Spi where
  target : BitVec 6
  count : BitVec 8
  rsvd : BitVec 8
  acrc : BitVec 8
  words : List Word
  ends : SpiEnd
deriving DecidableEq, Repr

/-- A memory of R544: TCU SRAM, ACU SRAM, ring SRAM (the queue or ring and the word of it), the trace store, a control word, a
shadow of OTP regions 0-2. -/
inductive Mem where
  | tcu | acu | ring (q : BitVec 5) (k : BitVec 12) | trace | control | shadow
deriving DecidableEq, Repr

/-- What an access to a memory word finds (R544, R545): a good word, a correctable error, an uncorrectable one, or two copies
of a control word that differ (or are both uncorrectable). -/
inductive Found where
  | good | corrected | bad | copies
deriving DecidableEq, Repr


/-- One command of the block: one constructor for each row of the table of operations. -/
inductive Instr where
  /-- R400: Engine command that completes OK with no effect. -/
  | nop (rq : Req)
  /-- R403: Completes once every earlier packet of its queue has completed and holds later packets of that queue until then. -/
  | fence (rq : Req)
  /-- R404: Records the set of visible host packets and holds every other host packet until that set has completed. -/
  | fenceAll (rq : Req)
  /-- R400: Returns its first two parameters in W1 and W2. -/
  | echo (rq : Req) (p0 : Word) (p1 : Word)
  /-- R418: Writes ENG_WEIGHT, which takes effect at the next round-robin round. -/
  | queueCfg (rq : Req) (p0 : Word)
  /-- R418: Empties the tag memories of the queues named in its mask. -/
  | tagFlush (rq : Req) (p0 : Word)
  /-- R654: Returns one control word after holding its page or rail resource. -/
  | regRead (rq : Req) (p0 : Word)
  /-- R420: Writes a control word after the checks of R411; this row also covers every register write that has no row of its own. -/
  | regWrite (rq : Req) (p0 : Word) (p1 : Word)
  /-- R419: Reads, masks and writes a control word atomically and returns the old and new values. -/
  | regRmw (rq : Req) (p0 : Word) (p1 : Word) (p2 : Word)
  /-- R421: Samples up to 255 consecutive control words in one cycle into a Q15 record. -/
  | regReadBlock (rq : Req) (p0 : Word)
  /-- R423: Requests power-up and completes when T0 is fixed. -/
  | seqUp (rq : Req)
  /-- R424: Starts an orderly descent, or an abort during RAMP, and completes when the descent ends. -/
  | seqDown (rq : Req)
  /-- R425: Starts the soft start of a non-sequenced rail in an UP mode. -/
  | railOn (rq : Req) (p0 : Word)
  /-- R170: Starts the soft stop of a non-sequenced rail, subject to the bias interlock. -/
  | railOff (rq : Req) (p0 : Word)
  /-- R427: Writes a rail's VCODE from a set point in mV and moves the reference at SLEW. -/
  | railSetV (rq : Req) (p0 : Word)
  /-- R429: Requests a transition to the target mode of R32, including SERVICE, REPLAY, RETAIN, RUN, BOOT, STANDBY and DORMANT. -/
  | modeSet (rq : Req) (p0 : Word)
  /-- R430: Clears the latch record and the fault records, and enters BOOT from LATCHED. -/
  | latchClear (rq : Req)
  /-- R41: Begins a SOFT reset, whose 200 us count from the gate. -/
  | resetSoft (rq : Req) (p0 : Word)
  /-- R428: Begins a HARD reset in the cycle after the gate and sets HARD_CMD. -/
  | resetHard (rq : Req) (p0 : Word)
  /-- R141: Waits for the drill conditions, runs a soft handover of the spare onto a rail, holds it and releases it. -/
  | spareDrill (rq : Req) (p0 : Word)
  /-- R431: Runs the comparator, ADC calibration, logic and memory, or OTP re-verify test that its test code selects. -/
  | selftest (rq : Req) (p0 : Word) (failed : BitVec 5) (samples : List (BitVec 5 × BitVec 14 × BitVec 14))
  /-- R433: Restarts the charger watchdog. -/
  | chgKick (rq : Req)
  /-- R433: Clears CHG_TIMEOUT and CHG_FAULT and moves a faulted charger to QUALIFY. -/
  | chgClear (rq : Req)
  /-- R654: Returns ROOF_STATUS and LNK_STATUS. -/
  | roofQuery (rq : Req)
  /-- R434: Asks Thatch to obtain a SINK or STANDBY_SOURCE part and completes when the part begins. -/
  | vlyRequest (rq : Req) (p0 : Word) (p1 : Word) (dst : BitVec 3) (cn : BitVec 8)
  /-- R435: Ends this member's valley part as END_REQ does and completes when the part ends. -/
  | vlyEnd (rq : Req)
  /-- R436: Performs n directed conversions of a channel and returns the last result and the mean. -/
  | adcConvert (rq : Req) (p0 : Word)
  /-- R437: Enables or disables the delivery of decimated channel results to Q14. -/
  | adcSubscribe (rq : Req) (params : List Word)
  /-- R469: Returns a sensor's value in use and its raw reading. -/
  | tempRead (rq : Req) (p0 : Word)
  /-- R458: Clears PEND of the masked sources of a class and re-samples the level sources it cleared. -/
  | evtAck (rq : Req) (p0 : Word) (p1 : Word)
  /-- R457: Disables or enables host event delivery; on enable the held backlog is delivered. -/
  | evtGdis (rq : Req) (p0 : Word)
  /-- R439: Halts the RTC, writes date and time, and releases counting on a CK_RTC edge. -/
  | rtcSet (rq : Req) (p0 : Word) (p1 : Word) (edge : Nat)
  /-- R510: Returns the date and time from one CK_RTC count. -/
  | rtcGet (rq : Req) (late : Bool)
  /-- R517: Measures the RTC rate against ZC, PPS or roof time, or loads the factory trim, and sets CAL. -/
  | rtcTrim (rq : Req) (p0 : Word)
  /-- R64: Reads 1 to 62 OTP words from the array through the OTP controller. -/
  | otpRead (rq : Req) (p0 : Word)
  /-- R65: Replaces a region 2 shadow word as a trial override in SERVICE. -/
  | otpShadowWrite (rq : Req) (p0 : Word) (p1 : Word) (p2 : Word)
  /-- R69: Additively programs one OTP word under the programming window. -/
  | otpProgram (rq : Req) (p0 : Word) (p1 : Word) (p2 : Word) (vpre : Nat) (hot : Int)
  /-- R76: Margin-checks a region, burns its digest and then its lock bit. -/
  | otpFinalize (rq : Req) (p0 : Word) (vpre : Nat) (hot : Int)
  /-- R88: Writes a chunk of a truss image into the inactive flash copy, erasing it when the chunk is at offset 0. -/
  | trussStage (rq : Req) (p0 : Word) (data : List Word)
  /-- R443: Runs the validity tests on the staged copy and programs MAGIC when they pass. -/
  | trussCommit (rq : Req)
  /-- R444: Writes a firmware chunk into the inactive bank, erasing each sector as it is begun. -/
  | fwStage (rq : Req) (p0 : Word) (data : List Word)
  /-- R534: Verifies a staged Thatch or Purlin image and activates it, by a live swap or at the next boot. -/
  | fwActivate (rq : Req) (p0 : Word) (vpre : Nat) (hot : Int)
  /-- R528: Kicks the host window watchdog; a kick before 50 % is a window violation. -/
  | wdtKick (rq : Req)
  /-- R567: Freezes the trace store at once and optionally names a capture slot for the copy. -/
  | traceTrigger (rq : Req) (p0 : Word)
  /-- R568: Resumes recording of a frozen trace store. -/
  | traceRearm (rq : Req)
  /-- R579: Streams a capture slot out on the trace port. -/
  | traceStream (rq : Req) (p0 : Word)
  /-- R588: Writes a dump record of all counters to Q15. -/
  | cntSnapshot (rq : Req)
  /-- R448: Clears the masked performance counters. -/
  | cntClear (rq : Req) (p0 : Word) (p1 : Word)
  /-- R383: SPI transaction that samples host-page words and returns them with a CRC. -/
  | hostPageRead (tx : Spi)
  /-- R383: SPI transaction that writes host-page words as a whole after its checks. -/
  | hostPageWrite (tx : Spi)
  /-- R389: SPI transaction that pushes packets into a submission queue, staged or visible. -/
  | push (tx : Spi)
  /-- R393: SPI transaction that returns ring entries and, at nCS rising, advances RD and REL. -/
  | pop (tx : Spi)
  /-- R390: A doorbell write releases the staged packets of the named queues in one cycle. -/
  | hpDoorbell (v : Word)
  /-- R390: A write that clears a STAGE_Q bit releases that queue's staged packets. -/
  | hpSqMode (v : Word)
  /-- R394: A host-page write of RD within its bounds moves the ring read index back for a re-pop. -/
  | rngPtr (r : BitVec 2) (v : Word)
  /-- R460: A read returns the fast PEND bits of the lowest pending group and records it as the acknowledge group. -/
  | evtFpend
  /-- R460: A write acknowledges fast-class sources of the acknowledge group. -/
  | evtFack (v : Word)
  /-- R274: In SERVICE, drops both gauge anchors and resets FCC to FCC_NOM. -/
  | forget (rq : Req)
  /-- R367: A write ends this member's valley part. -/
  | endReq (rq : Req)
  /-- R562: Loads the committed gutter record with the written SEQ into GUT_BUF. -/
  | gutSel (rq : Req) (v : Word)
  /-- R569: Starts the erase of a capture slot. -/
  | capFree (rq : Req) (v : Word)
  /-- R164: A write of HOST_HOLD asserts, or allows the release of, a safe-state output. -/
  | hostHold (rq : Req) (v : Word)
  /-- R220: A write of 1 clears a rail's FAULT_LATCH only when the rail is off and its comparators are inside. -/
  | faultLatch (rq : Req) (n : BitVec 5)
  /-- R511: A write of RTC_TIME takes effect on the next CK_RTC edge, zeroing the prescaler. -/
  | rtcTime (rq : Req) (v : Word)
  /-- R511: A write of RTC_DATE takes effect on the next CK_RTC edge. -/
  | rtcDate (rq : Req) (v : Word)
  /-- R515: A read of W1 removes the oldest timestamp from an event-input FIFO. -/
  | evTs (rq : Req) (x : BitVec 2)
  /-- R291: A read of the low FN word latches the high word. -/
  | lnkFn (rq : Req)
  /-- R582: A read of a counter's low word latches its high bits. -/
  | pcVal (rq : Req) (k : BitVec 6)
  /-- R586: A write of SMP_N restarts packet numbering for precise sampling, or stops it. -/
  | smpN (rq : Req) (v : Word)
  /-- R259: A write of charge settings passes the envelope checks and clears WD_SAFE. -/
  | chgSet (rq : Req) (v : Word)
  /-- R464: A change of the coalescing thresholds delivers at once a group that already meets them. -/
  | evtCoal (rq : Req) (g : BitVec 5) (v : Word)
  /-- R463: Enabling a level source whose condition holds latches it. -/
  | evtEn (rq : Req) (g : BitVec 5) (v : Word)
  /-- R38: HOLD rising above its lockout asserts a POWER-ON reset of everything outside PD_BK. -/
  | powerOnReset (bkCold : Bool)
  /-- R38: The POWER-ON reset releases 100 CK_LPO after the lockout releases, and the straps are sampled; `samples` are ADDR2-ADDR0
  of the last 8 CK_LPO cycles (R618), `testEn` is TEST_EN at the release (R619). -/
  | porRelease (samples : List (BitVec 3)) (testEn : Bool)
  /-- R38: HOLD falling below 4.10 V switches every rail off and resets the device. -/
  | uvlo
  /-- R39: nRST low on 10 consecutive CK_LPO samples begins a HARD reset, or wakes from STANDBY. -/
  | nrst
  /-- R39: The first high sample of nRST releases the HARD reset. -/
  | nrstRelease
  /-- R527: The Purlin hardware watchdog expires after 8 ms without a kick and forces a HARD reset. -/
  | purlinWdt
  /-- R527: A compare mismatch of the TCU cores forces a HARD reset. -/
  | lockstep
  /-- R41: The SOFT reset completes 200 us after the gate and the queues accept pushes again. -/
  | softResetDone
  /-- R44: A held rail outside its window on 2 CK_LPO samples turns off every held rail and asserts all SSOs. -/
  | keeperTrip (n : BitVec 5)
  /-- R593: The PLL locks on the internal oscillator and boot stage 1 begins. -/
  | pllLock (align : Bool)
  /-- R48: The SHA-256 of the Purlin flash area completes and is compared with PURLIN_HASH. -/
  | purlinHashCheck
  /-- R62: All six OTP regions are read, the finalised digests are checked and the truss is selected. -/
  | otpRegionsRead
  /-- R46: The boot self-test of stage 5 ends, setting the passed flag or latching. -/
  | bootSelftestDone (pass : Bool)
  /-- R533: The verification of a Thatch bank completes, with fallback or THATCH_ABSENT. -/
  | thatchVerify
  /-- R523: Thatch reports ready; at boot this makes BOOT ready. -/
  | thatchReady
  /-- R646: An entry to BOOT without reset runs stage 3 and the stages that follow it. -/
  | bootEntry
  /-- R50: 3 ms after a HARD reset is released, Purlin decides the adoption outcome; `crc` is the CRC-16 of the keeper's items as
  it reads them (R43), `samples` a rail, its voltage code and its current code for each sample of R51. -/
  | adoption (crc : BitVec 16) (samples : List (BitVec 5 × BitVec 14 × BitVec 14))
  /-- R36: WAKE0 or WAKE1 holds the selected level for its filter time: a wake, or WKx_SEEN. -/
  | wakePin (x : BitVec 1) (level : Bool) (n : Nat)
  /-- R648: VSUP rises above the wake threshold on 10 samples in STANDBY. -/
  | vsupWake (low : Nat) (high : Nat) (n : Nat)
  /-- R368: A positive differential level held 100 us on the auxiliary pair wakes from STANDBY. -/
  | vauxWake (us : Nat)
  /-- R513: An enabled RTC alarm matches on a prescaler wrap, setting ALMF and possibly waking. -/
  | alarm (a : BitVec 1) (hold : Bool)
  /-- R514: A filtered edge on EVx stores a timestamp and possibly wakes. -/
  | evTimestamp (x : BitVec 2) (rise : Bool) (presc : BitVec 15) (hold : Bool)
  /-- R504: The prescaler wraps and the RTC advances one second. -/
  | rtcSecond
  /-- R506: No CK_RTC edge for 1 ms sets OSC_FAIL and clears TIME_VALID. -/
  | oscFail
  /-- R516: A 32 s calibration cycle starts and applies the CAL in force. -/
  | rtcCalCycle
  /-- R507: VDDIO or HOLD falls, locking PD_BK access and switching it to VBK. -/
  | bkSupplySwitch
  /-- R507: 2,000 CK_LPO after recovery, PD_BK access is unlocked. -/
  | bkReturn
  /-- R517: The RTC trim measurement completes and sets CAL, or fails. -/
  | trimDone (counts : Nat)
  /-- R440: The trim measurement has not completed within twice its nominal length. -/
  | trimTimeout
  /-- R206: A rail comparator's deglitch completes outside its threshold; phases gated, SSOs asserted, action applied. -/
  | comparatorTrip (n : BitVec 5) (k : BitVec 2) (both : Bool)
  /-- R206: A tripped comparator stays inside for its deglitch time and releases. -/
  | comparatorRelease (n : BitVec 5) (k : BitVec 3)
  /-- R210: The current comparator of a rail trips over OC_TH. -/
  | ocTrip (n : BitVec 5)
  /-- R211: ILIM_ACTIVE held for OC_DG is an LDO overcurrent trip. -/
  | ldoOcTrip (n : BitVec 5)
  /-- R213: A rail becomes power-good once its ramp has ended and its pairs report it inside. -/
  | powerGood (n : BitVec 5) (ldin : Bool)
  /-- R215: A PGOOD pin is released after its mask has been power-good for PG_DLY. -/
  | pgoodRelease (k : BitVec 2)
  /-- R165: Purlin releases a pending SSO once all its conditions hold. -/
  | ssoRelease (j : BitVec 2)
  /-- R167: A driven-low SSO has not read back low within 2 us. -/
  | ssoFault (j : BitVec 2)
  /-- R169: A waiting GB rail begins its disable after its SSOs have read back low for 10 us. -/
  | interlockRelease (n : BitVec 5) (low : BitVec 4)
  /-- R176: Roof time reaches T0 plus a rail's on-delay and its soft start begins. -/
  | slotOn (n : BitVec 5)
  /-- R336: Roof time reaches T0 and the device leaves BOOT for RAMP. -/
  | t0Reached
  /-- R180: A ramping rail's power-good timeout expires and a fault descent begins. -/
  | riseFail (mask : Word)
  /-- R426: A RAIL_ON rail does not reach power-good within PG_TO and is gated. -/
  | railOnTimeout (n : BitVec 5)
  /-- R184: T_D plus OFF_DLY is reached and an up rail begins its soft stop unless it is gated. -/
  | offDelay (n : BitVec 5)
  /-- R184: A gated rail's GATE_TO expires and it begins its soft stop. -/
  | gateTimeout (n : BitVec 5)
  /-- R186: A falling rail's undervoltage comparator reports it below OFF_TH. -/
  | railFallen (n : BitVec 5)
  /-- R188: A rail has not fallen within its timeout and its forced discharge begins. -/
  | fallFail (n : BitVec 5)
  /-- R189: 20 ms of forced discharge pass. -/
  | forcedDischargeEnd (n : BitVec 5)
  /-- R197: The retry wait expires and the device enters BOOT with the latch record cleared. -/
  | retryDelay
  /-- R198: 60 s of uninterrupted RUN or EASE clears RETRY_CNT. -/
  | retryCntClear
  /-- R193: t_REST after the last fall elapses, allowing a waiting power-up. -/
  | tRest
  /-- R114: The reference reaches the set point and the regulator leaves diode emulation. -/
  | softStartComplete (n : BitVec 5)
  /-- R115: The reference reaches 0 V and the gate drives go low. -/
  | softStopComplete (n : BitVec 5)
  /-- R207: The reference reaches the new target and the thresholds return to the set point. -/
  | setPointMoveEnd (n : BitVec 5)
  /-- R105: An HC phase failure condition latches and the phase is dropped. -/
  | hcPhaseFail (k : BitVec 2) (cause : BitVec 3)
  /-- R110: No SYNC_IN edge within twice the period; channels slew back to FSW. -/
  | syncLost
  /-- R111: SYNC_IN meets the lock test for 4 periods and channels relock. -/
  | syncRequalify (n : BitVec 5)
  /-- R111: The phase error stays below T/256 for 16 periods. -/
  | syncLocked (n : BitVec 5)
  /-- R605: SYNC_IN has 4 valid consecutive periods. -/
  | syncQualified (periods : List (BitVec 16))
  /-- R112: The output exceeds the brake threshold and the low-side FETs turn off; it has been `below` the re-arm level (R113). -/
  | brakeStart (n : BitVec 5) (below : Bool)
  /-- R112: Braking ends after 2 us or when the output falls below the threshold. -/
  | brakeEnd (n : BitVec 5)
  /-- R126: A cluster phase failure latches; handover or drop follows. -/
  | clusterPhaseFail (fails : List (BitVec 4 × BitVec 3))
  /-- R129: SPA has stayed within 30 mV of the target for 16 cycles and the steering switch begins closing. -/
  | handoverMatch (c : BitVec 1) (m : Nat)
  /-- R129: The steering switch is fully on and the spare takes the failed phase's slot. -/
  | spareEngaged (c : BitVec 1)
  /-- R131: No match by cycle 2,000; the spare is stopped and marked failed. -/
  | handoverFail (c : BitVec 1)
  /-- R135: Every ROT_PERIOD in EASE, the cluster is evaluated for rotating the spare. -/
  | rotationEval (c : BitVec 1)
  /-- R136: After the resting phase has switched 4 periods, the steering switch opens and the spare idles. -/
  | rotationRelease (c : BitVec 1)
  /-- R137: A rail's current stays below 40 % for 1 ms in EASE and it sheds its hottest phase. -/
  | phaseShed (n : BitVec 5)
  /-- R137: A shed phase resumes on a current rise, a phase at IPK, or exit from EASE. -/
  | shedResume (n : BitVec 5)
  /-- R141: The drill conditions are not met within 50 ms. -/
  | drillTimeout (c : BitVec 1)
  /-- R142: The 1 ms drill hold ends and the spare is released and judged. -/
  | drillHoldEnd (c : BitVec 1) (ma : BitVec 16) (opened : Bool)
  /-- R157: IHI reached on 16 half-periods latches a GB short. -/
  | gbShort (k : BitVec 3)
  /-- R158: The peak stays below ILO for 64 half-periods, or no longer does (`present` = false). -/
  | gbOpen (k : BitVec 3) (present : Bool)
  /-- R155: GBIN falls below 4.20 V and the bank's drivers stop. -/
  | gbUvlo (bank : Bool)
  /-- R155: GBIN rises above 4.40 V and the drivers restart with a duty ramp. -/
  | gbUvloRelease (bank : Bool)
  /-- R154: A GB duty ramp completes; on disable both switches go off. -/
  | gbRampDone (k : BitVec 3)
  /-- R160: 100 us after its switches are off, a GB rail with AUX_EN = 0 counts as fallen. -/
  | gbOffCounted (k : BitVec 3)
  /-- R239: VSUP undervoltage for 2 us sets BK to boost and moves the mode to HOLDUP or DESCEND. -/
  | vsupLost (low : Bool)
  /-- R266: During a HARD reset, PD_AON detects VSUP undervoltage on 2 CK_LPO samples and enables boost. -/
  | vsupLostInReset (low energy : Bool)
  /-- R235: VSUP stays above its threshold for 10 ms; HOLDUP ends and handback starts. -/
  | vsupBack
  /-- R243: The 1 ms handback ramp ends and BK becomes IDLE. -/
  | handbackDone
  /-- R243: Charging resumes 100 ms after the handback. -/
  | chargeResume
  /-- R234: HOLD exceeds VSUP by 15 mV and IDG turns off. -/
  | idgReverse (low : Bool)
  /-- R234: VSUP exceeds HOLD by 15 mV and IDG turns on. -/
  | idgForward
  /-- R241: VPACK below CELLS x VCUT for 100 us stops the boost. -/
  | packCutoff
  /-- R241: VPACK above CELLS x (VCUT + 100 mV) for 1 s re-enables boost. -/
  | cutoffReenable
  /-- R262: Pack removal detected: BK stops, the charger enters NOPACK and the gauge drops its anchors. -/
  | packRemoved (ov : Bool)
  /-- R263: The thermistor reads valid for 2 s and the pack qualifies. -/
  | packInserted
  /-- R264: A BK half-bridge stage fault latches; gates go low and the charger enters FAULT. -/
  | bkFault
  /-- R240: VPACK below CELLS x VRSV for 1 ms ends an unanchored HOLDUP. -/
  | unanchoredHoldupEnd
  /-- R267: BK_ILIM held for 1 ms. -/
  | boostIlim (beyond : Bool) (us : Nat)
  /-- R267: INLIM held for 1 s. -/
  | inputLimit
  /-- R248: The 1 s charger tick evaluates the state transitions, zone and timers. -/
  | chargerTick (lim : BitVec 3) (amps : BitVec 10)
  /-- R250: PACK_NTC is converted every 100 ms. -/
  | packNtcConversion (short : Bool)
  /-- R253: The termination count of 64 s completes in CV and the charger enters DONE. -/
  | chgDone (removed : Bool)
  /-- R257: A pre-charge, fast-charge or wall timer expires and CHG_TIMEOUT latches. -/
  | chgTimeout
  /-- R259: The charger watchdog expires and the safe settings apply. -/
  | chgWdExpired
  /-- R269: A 1 ms sigma-delta conversion adds charge to REM and ERR. -/
  | gaugeConversion (nv : Int)
  /-- R270: In quiet mode, a 1 ms conversion every 250 ms with 249 ms extrapolated. -/
  | quietConversion (nv : Int)
  /-- R270: The comparator sees current above I_QUIET for 10 us and the counter leaves quiet mode. -/
  | quietExit
  /-- R273: VPACK above CELLS x (V_EMPTY + 100 mV) for 1 s re-arms the empty anchor. -/
  | emptyRearm
  /-- R276: Every 1 ms the gauge recomputes Q_RSV, USABLE and Q_AVAIL. -/
  | reserveRecompute
  /-- R56: Thatch writes a gauge checkpoint every 60 s. -/
  | gaugeCheckpoint
  /-- R476: A sensor is sampled on its 1 ms or 100 us cadence and its levels are judged. -/
  | thermalSample (mask : Word)
  /-- R499: A conversion ends; the result is scaled, limit and latent checks run, and Q14 is written. -/
  | adcConversionEnd (c : BitVec 2) (v : Int) (beyond : Bool) (req : Option (BitVec 8)) (raw : BitVec 4)
  /-- R491: A converter starts entry 0 of its list and pending list writes take effect. -/
  | adcListPass (c : BitVec 2)
  /-- R494: A converter's 100 ms calibration turn begins. -/
  | adcCalibration (c : BitVec 2)
  /-- R496: Calibration ends; coefficients apply, or it fails and after three failures the converter is retired. -/
  | adcCalibrationEnd (c : BitVec 2) (gain : Int) (offset : Int) (half : BitVec 14)
  /-- R436: A non-pre-empting directed conversion does not finish within 1 ms. -/
  | adcConvertTimeout (ch : BitVec 8)
  /-- R454: TIME_TH passes since a group's first counted latch and the group delivers. -/
  | coalesceTimeout (g : BitVec 5)
  /-- R398: The engine issues an eligible head packet by priority order. -/
  | packetIssue (pick : Nat)
  /-- R402: An issued packet obtains every resource it names and starts. -/
  | packetStart (k : Nat) (env : List Int)
  /-- R406: A held duplicate is judged again when its original completes. -/
  | duplicateRejudge (q : BitVec 4)
  /-- R409: An issue is held 1 ms for want of a Q12 slot. -/
  | completionStall
  /-- R291: The holder drives a frame start every 10 us. -/
  | frameStartTx
  /-- R310: A frame start arrives; roof time is corrected and OFFSET stored. -/
  | frameStartRx (fn : BitVec 64) (off : Int) (spaced : Bool)
  /-- R297: The device sends its slot with the first applicable payload. -/
  | slotTx (abandoned : Bool)
  /-- R318: A slot with a CRC, code or disparity error is discarded and counted. -/
  | slotError (a : BitVec 3) (preempted : Bool)
  /-- R296: A STATUS slot is received and consumed by the link hardware. -/
  | status (a : BitVec 3) (mode : BitVec 4) (flags : BitVec 8) (p1 : BitVec 8)
  /-- R329: A PRESENCE slot is received and the device is judged for participation. -/
  | presence (a : BitVec 3) (mode : BitVec 4) (major : BitVec 8) (compat : BitVec 16) (features : BitVec 16)
  /-- R329: A DIGEST slot is received and the shared digest is compared. -/
  | digest (a : BitVec 3) (mode : BitVec 4) (digest : BitVec 64)
  /-- R307: The holder receives a CAL_REQ and answers with the slot placement error. -/
  | calReq (a : BitVec 3) (mode : BitVec 4) (seq : BitVec 8) (err : Int)
  /-- R306: A joining device receives a CAL_RESP and sets its delay or moves its placement. -/
  | calResp (a : BitVec 3) (mode : BitVec 4) (target : BitVec 8) (kind : BitVec 8) (v : Int)
  /-- R306: A joining device sends its guard comma in its frame. -/
  | guardExchange (a : BitVec 3) (rtt : Int)
  /-- R308: Placement and 16 frames complete and the device is disciplined. -/
  | disciplined
  /-- R313: No frame start within 30 us plus 10 us x address; an eligible device becomes holder. -/
  | holderElection
  /-- R314: After FN mod 16 = 15 the handover target drives the frame start. -/
  | holderHandover
  /-- R315: A frame start and the holder's slot are missing; claims begin. -/
  | holderLost
  /-- R315: At the end of a claim frame the lowest claimant becomes holder. -/
  | holderChange
  /-- R317: No frame start for 16 frames; the device is undisciplined and hunts. -/
  | holdoverLimit
  /-- R318: A member's slot is missing for 3 frames; the holder inserts LOSS. -/
  | memberLost (a : BitVec 3)
  /-- R319: Mismatches in 3 own slots in 16 frames silence the device. -/
  | addrConflict
  /-- R320: The bus is constant for 20 us. -/
  | linkDead
  /-- R302: An originator that lost dominance inserts again after the other insertion. -/
  | urgentReinsert
  /-- R345: A FAULT insertion is received; participants begin a fault descent ending in LATCHED cause 8. -/
  | fault (data : BitVec 8) (fn : Word) (sym : BitVec 8)
  /-- R344: A DESCEND insertion is received; participants begin an orderly descent. -/
  | descendInsertion (data : BitVec 8) (fn : Word) (sym : BitVec 8)
  /-- R374: A LOSS insertion is received, triggering the standby or ending a contract. -/
  | loss (data : BitVec 8) (fn : Word) (sym : BitVec 8)
  /-- R340: A HOLD insertion begins or ends a ramp hold. -/
  | hold (data : BitVec 8) (fn : Word) (sym : BitVec 8)
  /-- R304: An ECHO slot is received and acted on if the insertion was missed. -/
  | echoSlot (a : BitVec 3) (mode : BitVec 4) (kind : BitVec 2) (data : BitVec 8) (fn : Word) (sym : BitVec 8)
  /-- R336: A START announce is received and the participant fixes T0. -/
  | announceStart (a : BitVec 3) (mode : BitVec 4) (w1 : Word) (w2 : Word)
  /-- R343: A STATE announce is received with the phase, masks and feature floor. -/
  | announceState (a : BitVec 3) (mode : BitVec 4) (w1 : Word) (w2 : Word)
  /-- R338: A DOWN announce is received and a descent begins at T_D. -/
  | announceDown (a : BitVec 3) (mode : BitVec 4) (w1 : Word) (w2 : Word)
  /-- R327: An AGREE message is received from a member. -/
  | agree (a : BitVec 3) (mode : BitVec 4) (w1 : Word) (w2 : Word)
  /-- R334: The holder sends START once a request is known and required members are ready. -/
  | startAnnounced
  /-- R335: DEG_WAIT elapses and the holder sends a degraded START. -/
  | degradedStart
  /-- R333: A start request waits START_TO without a START. -/
  | startTimeout
  /-- R341: A hold stays in force 100 us on the holder, which inserts DESCEND. -/
  | timeAbort
  /-- R347: A required participant is non-compliant for 3 frames and the holder acts. -/
  | noncompliant (a : BitVec 3)
  /-- R361: A valley OFFER is received. -/
  | offer (a : BitVec 3) (mode : BitVec 4) (w1 : Word) (w2 : Word)
  /-- R363: A valley REQUEST is received and answered with ACCEPT or REJECT. -/
  | request (a : BitVec 3) (mode : BitVec 4) (w1 : Word) (w2 : Word)
  /-- R360: A valley ACCEPT is received, forming or amending a contract. -/
  | accept (a : BitVec 3) (mode : BitVec 4) (w1 : Word) (w2 : Word)
  /-- R367: A valley REJECT is received, ending or refusing a part. -/
  | reject (a : BitVec 3) (mode : BitVec 4) (w1 : Word) (w2 : Word)
  /-- R370: A SWAP_REQ is received and answered, with collisions settled. -/
  | swapReq (a : BitVec 3) (mode : BitVec 4) (w1 : Word) (w2 : Word)
  /-- R370: A SWAP_ACK is received, fixing T_X. -/
  | swapAck (a : BitVec 3) (mode : BitVec 4) (w1 : Word) (w2 : Word)
  /-- R360: Frame FN_A + 2 starts and the contract or amendment takes effect. -/
  | contractBegin
  /-- R354: The line has read below 0.6 V for 100 us and the SOURCE switch enters SOFTSTART. -/
  | safeLowStart
  /-- R355: VLY comes within 200 mV of HOLD and the switch goes ON. -/
  | softstartDone
  /-- R355: Softstart or the safe-low wait times out and the contract ends with reason 6. -/
  | startFail
  /-- R356: Line current above 1.25 x I_C for 1 ms or a collapsed line turns the switch off. -/
  | vlyOverload
  /-- R357: VLY above VLY_V_MAX for 2 us turns a DIODE switch off. -/
  | vlyOv
  /-- R364: VLY enters the SINK's window and its switch moves to DIODE. -/
  | sinkDiodeClose
  /-- R365: A SINK without backup sees VLY below 0.85 x V_C for 1 ms and descends. -/
  | sinkLineLow
  /-- R373: The line has lain in window for 1 ms and the standby arms. -/
  | fsArmed
  /-- R374: The armed standby sees the line low for 200 ns and closes as SOURCE. -/
  | fastSwap (low : Bool)
  /-- R375: The SOURCE sees the fast-swap threshold or its BK stopping and becomes a SINK. -/
  | sourceToDiode
  /-- R367: Delivered energy reaches E and the SOURCE ends the contract. -/
  | energySpent
  /-- R370: At T_X the incoming switch goes DIODE to ON. -/
  | swapTx
  /-- R370: At T_X + 100 us the outgoing switch goes to DIODE on standby duty. -/
  | swapOutgoing
  /-- R370: At T_X + 200 us the incoming member sends the amendment naming itself SOURCE. -/
  | swapAmend (e : BitVec 16)
  /-- R369: The SOURCE drives a PPS pulse at each 1 s of roof time. -/
  | ppsPulse
  /-- R526: Thatch misses its check-in and is restarted. -/
  | thatchWdt
  /-- R534: 2 ms after a live-swap quiesce request, PD_ACU is reset into the new bank. -/
  | quiesceTimeout
  /-- R535: 60 s of trial without restart confirms the Thatch bank and advances the counter. -/
  | fwConfirmed (vpre : Nat) (hot : Int)
  /-- R535: Every 10 s Purlin retries programming a pending anti-rollback counter. -/
  | arbPending (vpre : Nat) (hot : Int)
  /-- R528: The host window watchdog exceeds its period and takes its action. -/
  | hwdExpired
  /-- R544: A scrubber reads and corrects one memory word. -/
  | scrubAccess (m : Mem) (word : BitVec 24) (found : Found) (fore : Bool) (last : Bool)
  /-- R546: The flash controller erases a superseded gutter sector. -/
  | sectorErase
  /-- R547: Every TLM_PERIOD Thatch writes a telemetry record to Q15. -/
  | telemetryRecord
  /-- R559: A buffered snapshot is programmed into flash with COMMIT last. -/
  | gutterWrite
  /-- R560: HOLD falls below 4.30 V during a record write and the record is abandoned. -/
  | gutAbandoned
  /-- R560: HOLD recovers and the abandoned record is rewritten with REWRITTEN set. -/
  | gutterRewrite
  /-- R562: The gutter buffer fill completes. -/
  | gutBufFilled
  /-- R563: Every CKPT_PERIOD a checkpoint of the core state is taken. -/
  | traceCheckpoint
  /-- R567: POST ms after a trigger, the store freezes. -/
  | trcFrozen
  /-- R568: The capture copy completes and its header is committed. -/
  | trcCopied (more : BitVec 21)
  /-- R569: A capture slot erase completes. -/
  | capFreed (k : BitVec 1)
  /-- R578: At the end of a window or interval the replay digest is compared. -/
  | replayDigest (same : Bool) (interval : Bool) (cycle : BitVec 64) (sub : Bool)
  /-- R578: The capture stream ends without divergence. -/
  | rplDone
  /-- R586: A sampled packet completes and its entry is buffered. -/
  | sampleEntry
  /-- R587: The sample buffer drains to Q15 at 16 entries or after 1 ms. -/
  | sampleDrain
  /-- R588: Every DUMP_PERIOD all counters are dumped to Q15. -/
  | counterDump
  /-- R593: The crystal qualifies for 1,024 cycles and the PLL moves to it. -/
  | xtalOk
  /-- R595: The reference shows no edge for 200 ns; the PLL moves to the internal oscillator. -/
  | refLost
  /-- R595: The crystal meets the test for 10 ms and the PLL returns to it. -/
  | refRestored
  /-- R596: The PLL is lost; the clocks stop and the keeper freezes. -/
  | pllLoss
  /-- R598: The CK_SYS count over 32 CK_LPO lies out of range. -/
  | lpoFault
  /-- R73: A programming window sample lies out of range and the word is stopped. -/
  | otpWindowSample (n : Nat) (vpre : Nat) (hot : Int) (left : BitVec 2)
  /-- R72: A word's programming and margin read complete. -/
  | otpWordDone (miss : BitVec 64) (soft : BitVec 64) (vpre : Nat) (hot : Int)
  /-- R64: The OTP controller completes a read. -/
  | otpReadDone
  /-- R548: Test 1 or 2 conditions do not hold within 50 ms. -/
  | selftestTimeout
  /-- R434: No part begins by the VLY_REQUEST timeout. -/
  | vlyRequestTimeout
  /-- R429: 100 us after a MODE_SET to STANDBY or DORMANT from BOOT passes the gate, the device makes the transition. -/
  | standbyDormantTransition
  /-- R526: Thatch checks in with Purlin, which restarts the Thatch watchdog count. -/
  | thatchCheckIn
  /-- R527: Purlin kicks its hardware watchdog, which restarts the 8,000-cycle count. -/
  | purlinWdtKick
  /-- R523: The ACU takes an unrecoverable exception, and Purlin restarts Thatch. -/
  | acuException
  /-- R523: Thatch requests a restart, and Purlin restarts it under R523. -/
  | thatchRestartRequest
  /-- R23: Thatch places a packet in internal queue Q19, where it becomes eligible for issue. -/
  | thatchSubmit (header : Word) (params : List Word)
  /-- R298: Thatch or Purlin places a message of type 0x6 to 0xD, such as an OFFER, REQUEST or SWAP_REQ, in Q16 for sending. -/
  | q16MessagePlaced (type : BitVec 4) (w1 : Word) (w2 : Word)
  /-- R413: A Thatch-served command that has waited 10 ms at start while Thatch restarts completes with NO_THATCH. -/
  | thatchWaitTimeout
  /-- R235: VSUP is first sampled at or above the undervoltage threshold plus 0.3 V, which clears VSUP_LOW and starts the 10 ms count. -/
  | vsupReturn
  /-- R598: The CK_SYS count over 32 CK_LPO cycles lies within range again, and LPO_BAD clears. -/
  | lpoBadClear
  /-- R507: VDDIO and HOLD recover, and 2 CK_LPO later PD_BK is switched back from VBK. -/
  | pdBkSupplyReturn
  /-- R575: At the end of each 10 us window and each 1 ms interval the recording trace store writes the output digests, and every 1 ms a KEY entry. -/
  | outputDigestRecord (changes : List (BitVec 16 × BitVec 10 × Word))
deriving DecidableEq, Repr

end Sys2Proof
end

