-- ==== Sys2Proof/Decode.lean ====
section
/-! DEFINITION. The decoder of words: the table of operations gives no row any bits (its commands are packets, whose
headers R396 judges, register accesses and events), so no word spells a command. -/

namespace Sys2Proof

/-- No row of the table of operations has bits. -/
def decodeTableWord (_nbits _w : Nat) : Option Instr := none

end Sys2Proof
end

