-- ==== Sys2Proof/Config.lean ====
section
/-! DEFINITION. What the spec leaves open: values it says the block produces without saying which. Each is a constant with
no body, so nothing can be proved of its value (log 7, log 9). -/

namespace Sys2Proof.Config

/-- A measured or unstated number, by the count of free values drawn so far (log 7). -/
opaque freeNat : Nat → Nat

/-- ECDSA P-256 verification of an image against a signature and key: FIPS 186 is named by the spec, not given (log 9).
The arguments are the digest of what is signed, the signature and the key hash of OTP. -/
opaque ecdsaOk : List Nat → List Nat → List Nat → Bool

/-- The link protocol version of the device (R296, R312): the spec gives no number (log 7). -/
opaque linkMajor : Nat
opaque linkMinor : Nat

/-- R565: where in every 512 slots the 8 recorded ones of the decimated profile lie; the spec does not say (log 7). -/
opaque decimatedAt : Nat

end Sys2Proof.Config
end

