-- ==== Sys2Proof/Machine/State.lean ====
section
/-! DEFINITION. The state of the block: the control words and host-page words (one sparse store), and beside them every
piece of state that the spec names and no word holds. All of it is plain data. -/

namespace Sys2Proof.Machine

/-- A store of values by number, in one canonical form: keys strictly rising, no value equal to the default listed. -/
abbrev SMap (α : Type) := List (Nat × α)

/-- The twelve modes of R29. -/
inductive Mode where
  | dormant | standby | boot | ramp | run | ease | holdup | descend | latched | service | replay | retain
deriving DecidableEq, Repr

/-- A reference between two instants of roof time (R114-R116): from `frm` at `start` to `dst` over `dur` ticks of 10 ns,
in tenths of a millivolt; it stands at `dst` when `dur` is 0. -/
structure RefMove where
  frm : Nat := 0
  dst : Nat := 0
  start : Nat := 0
  dur : Nat := 0
deriving DecidableEq, Repr

/-- What a rail's reference is doing: standing, soft start (R114), soft stop (R115), a set-point move (R116). -/
inductive RefPhase where
  | still | rampUp | rampDown | move
deriving DecidableEq, Repr

/-- A rail as the regulators, the sequencer and supervision see it, beside its words (04-08). -/
structure Rail where
  enabled : Bool := false      -- regulator enabled (R114)
  gated : Bool := false        -- gated by a reflex (R218)
  ref : RefMove := {}          -- present reference (R114-R116)
  ph : RefPhase := .still
  live : Nat := 0              -- comparators reporting outside now, 5 bits in the order of R574
  trip : Nat := 0              -- comparators tripped and not released, 5 bits (R206)
  mism : List Nat := [0, 0, 0, 0]   -- latent mismatch counts of the four comparators (R226)
  falling : Bool := false      -- judged against OFF_TH (R186)
  step : Nat := 0              -- step of the present fault descent (R194)
  inDesc : Bool := false       -- member of the present descent (R184, R194)
  rampAt : Nat := 0            -- roof time from which its power-good timeout counts (R180)
  stopStart : Nat := 0         -- roof time from which its fall timeout counts (R186, R188)
  waitBias : Bool := false     -- disable waits under the interlock (R169)
  forced : Bool := false       -- forced discharge under way (R189)
  fallFail : Bool := false     -- failed to fall (R188)
  above : Bool := false        -- failed to fall and still above its off-threshold (R193)
  noSink : Bool := false       -- gated by overvoltage or overcurrent (R219)
  dis : Bool := false          -- discharge switch on (R151, R189)
  pg : Bool := false           -- power-good (R213), and since which roof time (R215)
  pgAt : Nat := 0
  held : Bool := false         -- held by the keeper (R43); the period and the dead time of a held GB driver (R162)
  heldPeriod : Nat := 0
  heldDead : Nat := 0
deriving DecidableEq, Repr

/-- What a descent is (R184, R191, R194, R201, R202). -/
inductive DescKind where
  | orderly | abort | fault | retain | service
deriving DecidableEq, Repr

/-- The descent in progress (07): its kind, T_D, what LATCHED records, the fault step in force. -/
structure Descent where
  kind : DescKind
  tD : Nat
  step : Nat := 0              -- step in force (R195)
  cause : Nat := 0             -- LATCH_CAUSE that LATCHED takes
  next : Mode := .latched      -- mode after it
deriving DecidableEq, Repr

/-- Sequencer facts beside page 0x02 (07). -/
structure SeqSt where
  configured : Nat := 0        -- rails configured, one bit each (R645)
  desc : Option Descent := none
  t0 : Option Nat := none      -- T0 fixed (R177, R336)
  request : Bool := false      -- start request standing (R333)
  reqAt : Nat := 0             -- roof time at which it began (R333, R335)
  retryWait : Bool := false    -- waiting out RETRY_DLY (R197)
  noRetry : Bool := false      -- the retry of this LATCHED was cancelled (R199)
  retryStart : Bool := false   -- this BOOT leads to RAMP whatever AUTO_START holds (R197)
  lastFall : Option Nat := none  -- roof time of the last fall of the preceding descent (R193)
  svcUp : Bool := false        -- power-up of the service-hold rails under way (R202)
  holdFrom : Option Nat := none  -- ramp hold in force since (R183)
  slip : Nat := 0              -- length of the ramp holds since T0 was fixed (R183)
  firstAt : Nat := 0           -- roof time at which SUP_FIRST was loaded (R224)
  latchAt : Nat := 0           -- roof time of the last entry to LATCHED (R197)
deriving DecidableEq, Repr

/-- A spare handover in progress (R129): its kind (1 hard failure, 2 soft failure, 3 rotation, 4 drill), the rail of the
cluster, the phase that leaves, the match cycle once the steering switch closes. -/
structure Handover where
  kind : Nat
  target : Nat
  phase : Option Nat := none
  matched : Option Nat := none
  late : Bool := false         -- out of a rotation or a drill: its cycle 10 comes at cycle 210 (R130, R138)
deriving DecidableEq, Repr

/-- A phase cluster beside page 0x0C (05). -/
structure ClSt where
  ho : Option Handover := none
  again : Option Handover := none  -- soft handover that a HARD reset stopped (R139)
  rest : Option Nat := none     -- phase that rests under rotation (R135)
  trading : Bool := false       -- the resting phase has resumed; the steering switch is still to open (R136)
  next : Option Nat := none     -- phase that rests next, once the spare is idle (R136)
  drill : Option Nat := none    -- rail of the drill accepted and not ended (R141)
  holding : Bool := false       -- the drill's 1 ms hold (R141)
  pgLost : Bool := false        -- the drill's rail stopped being power-good (R142)
deriving DecidableEq, Repr

/-- An event source's record between latch and delivery (R453, R456). -/
structure SrcRec where
  count : Nat := 0
  first : Word := 0#32
  fast : Bool := false
  resampled : Bool := false
deriving DecidableEq, Repr

/-- A group's count and the roof time of its first counted latch (R453, R454). -/
structure GrpRec where
  count : Nat := 0
  start : Nat := 0
  doneC : Option Nat := none   -- CK_SYS cycle of its last delivery (R468)
deriving DecidableEq, Repr

/-- The event controller beside pages 0x11 and 0x12 (16). -/
structure EvSt where
  srcs : SMap SrcRec := []
  groups : SMap GrpRec := []
  levels : SMap Bool := []     -- level sources whose condition holds (R452)
  seqN : Nat := 0              -- delivery sequence, normal class, modulo 256 (R456)
  seqF : Nat := 0
  deliveries : Nat := 0        -- modulo 65,536 (EVT_HSTAT)
  lastN : Option Nat := none   -- CK_SYS cycle D of the last delivery of each class (R456)
  lastF : Option Nat := none
  batch : Nat := 0             -- entries of that cycle at the end of Q13
  ackGroup : Nat := 0          -- acknowledge group (R460)
  due : List Nat := []         -- sources raised inside this step and not yet latched
deriving DecidableEq, Repr

/-- One packet in a submission queue (R389, R396). -/
structure QPkt where
  id : Nat
  header : Word
  params : List Word
  staged : Bool
  vis : Nat := 0               -- CK_SYS cycle at which it became visible (R586)
deriving DecidableEq, Repr

/-- An entry of a tag memory (R405). -/
structure TagEnt where
  id : Nat
  tag : Nat
  crc : Nat
  done : Bool := false
  w1 : Word := 0#32
  w2 : Word := 0#32
  w3 : Word := 0#32
  endC : Nat := 0              -- CK_SYS cycle of its packet's completion, of its own eviction (R407)
  outC : Option Nat := none
deriving DecidableEq, Repr

/-- A command that has issued (R397) or that a command row started, until it completes. -/
structure Cmd where
  id : Nat
  src : Src
  tag : Nat
  quiet : Bool
  op : Nat
  params : List Word
  env : List Int := []         -- facts the outside supplies while it runs (a measured result)
  started : Bool := true
  slot : Bool := false         -- holds a Q12 slot (R397)
  crc : Nat := 0
  startT : Nat := 0            -- roof time of its start
  issueC : Nat := 0            -- CK_SYS cycle of issue, of becoming visible (R586)
  visC : Nat := 0
  num : Nat := 0               -- number of R586
  stall : Nat := 0             -- longest stall cause before issue (R585)
  aux : List Word := []        -- results fixed before its completion
  wait : Nat := 0              -- waits at start: 1 for Thatch (R413), 2 for the OTP controller (R64)
  lost : Bool := false         -- past the gate at a SOFT reset: its completion entry is lost (R41)
deriving DecidableEq, Repr

/-- The FENCE_ALL in force (R404). -/
structure FenceAll where
  id : Nat
  queue : Nat
  set : List Nat
deriving DecidableEq, Repr

/-- A ring Q12-Q15 (R392): the words from REL to WR, and the three indices. -/
structure Ring where
  words : List Word := []
  wr : Nat := 0
  rd : Nat := 0
  rel : Nat := 0
deriving DecidableEq, Repr

/-- The command engine and SPI port beside page 0x18 (14). -/
structure EngSt where
  queues : SMap (List QPkt) := []
  tags : SMap (List TagEnt) := []
  issued : List Cmd := []
  nextId : Nat := 0
  fall : Option FenceAll := none
  rings : SMap Ring := []
  roundUsed : SMap Nat := []   -- packets issued in this round (R398)
  weights : Word := 0x111111#32  -- weights of the round in force (R418)
  bulkLast : Nat := 11         -- last queue of Q8-Q11 that had its turn
  lastNormal : Option Nat := none  -- CK_SYS cycle of the last normal issue, last bulk issue (R399)
  lastBulk : Option Nat := none
  fullFrom : Option Nat := none    -- CK_SYS cycle since which Q12 has no slot to reserve (R409)
  stalled : Bool := false          -- COMPLETION_STALL has been raised for that hold
  accCount : Nat := 0          -- HP_STATUS.ACC_COUNT
  accepted : Bool := false     -- outcome of the previous transaction (R384)
  err : Nat := 0x7F
  spiOut : List Word := []     -- words shifted out in the last transaction (R381)
  coreDone : SMap (List Word) := []  -- last completion returned to Purlin (18), Thatch (19) (R397)
deriving DecidableEq, Repr

/-- Performance counters beside page 0x19 (23). -/
structure PerfSt where
  counters : SMap Nat := []    -- 48 bits each
  highs : SMap Nat := []       -- latched HIGH words (PC_VAL)
  issuedNo : Nat := 0          -- packets numbered under R586
  stalls : SMap (List Nat) := []  -- by queue, the cycles for which each cause has held its head packet (R585)
  due : List (List Word) := [] -- sample entries of completed packets, not yet buffered
  buf : List (Nat × List Word) := []  -- sample buffer (256 entries), oldest first, with the roof time of arrival
  dumpFrom : Nat := 0          -- roof time from which the present dump period counts (R588, R590)
  dumpC : Option (Nat × Nat) := none   -- CK_SYS cycle of the last periodic dump and its Q15 index; of the last CNT_SNAPSHOT (R591)
  snapC : Option Nat := none
  smpSeq : Nat := 0
  dumpSeq : Nat := 0
deriving DecidableEq, Repr

/-- An entry of the trace store's input ring (R563, R572): its stamp in CK_FAST, kind, sub-field and payload bytes. -/
structure TraceEntry where
  stamp : Nat
  kind : Nat
  sub : Nat
  payload : List Nat
deriving DecidableEq, Repr

/-- A block of a checkpoint image (R571): its identifier, the words that the spec gives, and the bytes that follow them, whose
contents it leaves open: how many, and a number that stands for them (log 20). -/
structure CkptBlock where
  ident : Nat
  words : List Word
  more : Nat
  contents : Nat
deriving DecidableEq, Repr

/-- A checkpoint in one of the two areas (R563, R571): its CK_SYS cycle and its image. -/
structure TraceCkpt where
  cycle : Nat
  blocks : List CkptBlock
deriving DecidableEq, Repr

/-- A frozen copy in a capture slot (R568-R570): its checkpoint, none where no checkpoint fits, and the entries of its stream,
newest first. -/
structure Capture where
  ckpt : Option TraceCkpt := none
  entries : List TraceEntry := []
  cause : Nat
  length : Nat
  replayable : Bool
  freezeTime : Nat
  startFast : Nat := 0
  trussId : Nat
  fwP : Word
  fwT : Word
  gutSeq : Word
  profile : Nat
deriving DecidableEq, Repr

/-- A subscription of a channel (R498): decimation, results since the last delivery, sequence. -/
structure Sub where
  dec : Nat
  count : Nat := 0
  seq : Nat := 0
deriving DecidableEq, Repr

/-- Consecutive results of a channel outside, and inside, its limits (R501). -/
structure LimRec where
  out : Nat := 0
  ins : Nat := 0
deriving DecidableEq, Repr

/-- The ADC beside page 0x10 (18). -/
structure AdcSt where
  last : SMap Nat := []        -- latest 14-bit code of each channel (R488)
  doneAt : SMap Nat := []      -- roof time of each channel's latest conversion (R492)
  raw : Nat := 0               -- raw outputs of the four comparators of the rail converted last (R226)
  lists : SMap Word := []      -- slot lists in force, word 52c + j (R491)
  pos : SMap Nat := []         -- next entry of each converter's list
  held : SMap (List Nat) := [] -- channels displaced on each converter, to be converted next (R493)
  cover : List Nat := []       -- channels of a calibrating or retired converter that the others cover (R495)
  subs : SMap (Option Sub) := []
  limits : SMap LimRec := []
  fails : SMap Nat := []       -- consecutive failed calibrations (R496)
  refs : List Nat := [0, 0, 0, 0]   -- consecutive results of 128 outside, inside; of 129 outside, inside (R231, R232)
  imbal : Nat := 0             -- phase current channels 64-77 out of balance, bit channel - 64 (R103, R125)
  calLast : Nat := 3           -- converter whose calibration turn was last, and the roof time at which it began (R494)
  calAt : Nat := 0
  means : SMap (List Int) := []     -- last 16 results of each phase current channel, newest first (R103, R125)
deriving DecidableEq, Repr

/-- The thermal sensors beside page 0x0F (17), by sensor index: values in tenths of a degree, signed. -/
structure ThermSt where
  value : SMap Int := []       -- value in use (R473)
  raw : SMap Int := []
  samples : SMap Nat := []     -- samples since the warm-up began (R55)
  susCnt : SMap Nat := []      -- consecutive samples beyond the suspect threshold (R473)
  okCnt : SMap Nat := []       -- consecutive samples toward release (R475)
  range : Nat := 0             -- sensors suspect under R471, one bit each
  subst : Nat := 0             -- sensors whose value in use is substituted (R474)
  hist : SMap (List (Nat × Int)) := []  -- the last 17 samples, newest first: roof time, value in use (R480)
  calm : SMap Nat := []        -- consecutive samples that ask for no fast cadence (R476)
  hotCnt : SMap Nat := []      -- consecutive samples of a phase sensor at PH_HOT (R126)
  orderly : Option Nat := none -- T_D of the orderly thermal shutdown in progress (R482)
deriving DecidableEq, Repr

/-- An urgent insertion (R300): its kind, its data byte, the frame and the symbol in which its break starts (R304). -/
structure Urg where
  kind : Nat
  data : Nat
  fn : Nat
  sym : Nat
deriving DecidableEq, Repr

/-- What a device knows of another address, from its PRESENCE, DIGEST, STATUS and AGREE slots (R296, R327). -/
structure Peer where
  proto : Option Nat := none       -- link protocol major
  compat : Nat := 0
  features : Nat := 0
  digest : Option Nat := none
  disciplined : Bool := false
  discFrom : Nat := 0              -- frame since which it reports DISCIPLINED
  eligible : Bool := false
  agreed : Bool := false           -- an AGREE has been received
  ready : Bool := false
  startReq : Bool := false
  excluded : Bool := false
  late : Bool := false
  reqAt : Nat := 0                 -- roof time at which its START_REQ was first seen (R335)
deriving DecidableEq, Repr

/-- A CAL_RESP to be sent: target, kind, value in 0.625 ns, sequence (R307). -/
structure CalResp where
  target : Nat
  kind : Nat
  value : Int
  seq : Nat
deriving DecidableEq, Repr

/-- The ridge link beside page 0x15 (11) and the roof's agreement beside page 0x16 (12). -/
structure LinkSt where
  fn : Nat := 0                -- present frame number (R291)
  fnHigh : Nat := 0            -- its high word, latched by a read of the low one
  startAt : Nat := 0           -- roof time at which the link started or the device began to count alone (R309, R313)
  heard : Bool := false        -- a frame start has been received since the link started (R313)
  acq : Option Nat := none     -- frame of acquisition (R306)
  zeroFn : Option Nat := none  -- frame that began the cycle of eight being received, and the frame starts of it so far (R291)
  cycle : Nat := 0
  known : Bool := false        -- the whole of FN is known (R291)
  guardSent : Bool := false
  placed : Nat := 0            -- consecutive placement errors within 2.5 ns (R306)
  calSeq : Nat := 0
  calResp : List CalResp := []
  driven : Nat := 0            -- frame starts driven as holder, up to 17 (R309)
  stepBy : Nat := 0            -- ticks by which roof time steps forward at the next frame boundary (R310)
  half : Bool := false         -- roof time counts at half rate (R310)
  q16 : List (Nat × Word × Word) := []   -- messages to be sent (R298)
  q17 : List (List Word) := []           -- messages received (R299)
  start : Nat × Nat := (0, 0)  -- symbol K28.x and byte of the last frame start driven (R291)
  sent : List Nat := []        -- bytes of the last slot sent: header, P0-P7, CRC (R292)
  urgOut : List Urg := []      -- insertions whose ECHO is still to be sent (R304)
  acted : List Urg := []       -- insertions acted on, newest first (R304)
  errFrames : List Nat := []   -- frames of the slot errors of the last 256 frames (R296, R318)
  burst : Bool := false        -- CRC_BURST raised for the present burst
  peers : SMap Peer := []
  claims : Nat := 0            -- claiming addresses, one bit each (R315)
  handTo : Option Nat := none  -- handover target in force (R314)
  annSeq : Nat := 0            -- announce sequence last sent or received (R326, R327)
  annSeen : Option Nat := none -- sequence of the announce last applied (R328)
  repeatMsg : Option (Word × Word × Nat) := none  -- START or DOWN repeated up to a frame (R328)
  stateMsg : Option (Word × Word) := none         -- fields of the STATE last sent (R328)
  stateAt : Nat := 0           -- frame of the STATE last placed
  agreeMsg : Option (Word × Word) := none         -- fields of the AGREE last placed (R327)
  agreeAt : Nat := 0
  holds : Nat := 0             -- addresses with a HOLD begin without its end (R340)
  ownHold : Bool := false      -- this device has inserted a HOLD begin (R339)
  dropped : Nat := 0           -- optional participants removed until IDLE (R347)
  warned : Nat := 0            -- participants for which the insertion was repeated (R347)
  faultBy : Option Nat := none -- originator of the FAULT that latched the device (R349)
  t0Fn : Option Nat := none    -- FN_T0 of the present power-up's START (R334, R343)
  begun : Bool := false        -- the present power-up has had its START (R337)
  busyTo : Nat := 0            -- roof time up to which an insertion keeps the device from sending (R301)
  phaseLow : Nat := 0          -- data bits [4:0] of the insertion that began the roof phase (R347)
  down : Option (Nat × Nat) := none   -- target and frame of a DOWN whose T_D is to come (R338)
  refused : Bool := false      -- TIME_REFUSE raised since the time disagreement began (R342)
deriving DecidableEq, Repr

/-- A valley contract (R359). -/
structure Contract where
  cn : Nat
  source : Nat
  standby : Option Nat := none
  fsAuth : Bool := false
  sinks : Nat := 0
  iC : Nat := 0
  vC : Nat := 0
  e : Nat := 0
  aux : Nat := 0
  amend : Nat := 0
deriving DecidableEq, Repr

/-- An OFFER received (R362). -/
structure Offer where
  flags : Nat
  iMax : Nat
  vC : Nat
  e : Nat
  aux : Nat
  seq : Nat
deriving DecidableEq, Repr

/-- A planned swap in which this member is the incoming or the outgoing one (R370). -/
structure Swap where
  peer : Nat
  incoming : Bool
  after : Nat := 1             -- outgoing SOURCE's role after: 0 NONE, 1 SINK, 2 STANDBY_SOURCE
  reqTime : Nat := 0           -- P2-P5 of the SWAP_REQ
  seq : Nat := 0
  own : Bool := false          -- this member sent the SWAP_REQ
  tX : Option Nat := none      -- frame of T_X, once acknowledged
deriving DecidableEq, Repr

/-- The valley line beside page 0x17 (13). -/
structure VlySt where
  cur : Option Contract := none
  pend : Option (Contract × Nat) := none  -- contract or amendment and the frame FN_A of its ACCEPT (R360)
  endAt : Option Nat := none   -- frame at whose start this part ends (R367)
  offers : SMap (Option Offer) := []
  energy : Nat := 0            -- energy delivered since the last amendment, in microwatt x 10 ns (R359)
  sampleAt : Nat := 0          -- roof time of the last conversion of VLY (R359)
  owe : Bool := false          -- SINK that was SOURCE until the next amendment: its promise stands (R375)
  proposed : Option Contract := none  -- contract of the ACCEPT that waits in Q16 (R363)
  suspended : Option Nat := none      -- T_X of a swap that suspends this STANDBY_SOURCE (R370)
  cnSeq : Nat := 0
  msgSeq : Nat := 0
  safeFrom : Option Nat := none   -- roof time at which the wait of R364 began
  lowFrom : Option Nat := none    -- roof time since which every conversion of VLY lay below 0.6 V (R354)
  overFrom : Option Nat := none   -- since which the line current has exceeded 1.25 I_C (R356)
  shortFrom : Option Nat := none  -- since which VLY has lain below 0.6 V with the switch ON (R356)
  softAt : Nat := 0               -- roof time at which SOFTSTART began (R355)
  swapFrom : Nat := 0             -- roof time before which no new SWAP_REQ may be sent (R372)
  swap : Option Swap := none
  reqTo : Option Nat := none   -- addressee of the REQUEST in progress (R434)
deriving DecidableEq, Repr

/-- A gauge checkpoint of the permanent-counter flash area with its digest (R56, R275). -/
structure Checkpoint where
  rem : Int
  fcc : Nat
  learned : Bool               -- the capacity was learned (R55)
  anchor : Nat
  err : Nat
  maxI : Nat
  vpack : Nat                  -- code of channel 97
  date : Word                  -- RTC_DATE and RTC_TIME
  time : Word
  digest : Nat := 0
deriving DecidableEq, Repr

/-- The gauge beside page 0x0E (10). Charge is counted in milliampere milliseconds, the error bound in microampere
milliseconds. -/
structure GaugeSt where
  rem : Int := 0
  err : Nat := 0
  below : Nat := 0             -- consecutive conversions below I_QUIET (R270)
  maxI : Nat := 0              -- largest |I| since the last checkpoint, mA (R275)
  lastAt : Nat := 0            -- roof time of the last conversion
  emptyCnt : Nat := 0          -- consecutive samples at the empty voltage (R273)
  emptyArmed : Bool := true
  trav : Int := 0              -- REM at the start of the traversal, mA ms (R281)
  travFcc : Nat := 0
  travFrom : Nat := 0          -- roof time of its start
  ticks : Nat := 0             -- charger ticks of the traversal, and those out of temperature (R282)
  hot : Nat := 0
  restFrom : Option Nat := none
  restTotal : Nat := 0         -- length of the rests longer than 1 h, in ticks of 10 ns
  rests : Nat := 0
  ckpt : Option Checkpoint := none
  removed : Bool := false      -- a removal recorded since the checkpoint (R56)
deriving DecidableEq, Repr

/-- The charger and BK beside page 0x0D (09). -/
structure PowerSt where
  ntc : List Int := []         -- last 4 conversions of PACK_NTC, newest first (R250)
  placed : Bool := false       -- a zone evaluation has been made since POWER-ON or requalification (R250)
  left : Nat := 0              -- state left for SUSPEND (R248)
  ticks4 : Nat := 0            -- consecutive ticks of the condition in force (R248)
  term : Nat := 0              -- termination count, s (R253)
  pre : Nat := 0               -- pre-charge timer, s (R255)
  fast : Nat := 0              -- fast-charge timer, half seconds (R255)
  wall : Nat := 0              -- wall timer, s (R256)
  wdFrom : Nat := 0            -- roof time from which the charger watchdog counts (R258)
  wdOut : Bool := false        -- it has expired since its last restart
  cut : Bool := false          -- boost disabled by the cut-off (R241)
  fault : Bool := false        -- BK stage fault not cleared (R264)
  handWait : Bool := false     -- the 100 ms after a handback (R243)
  safeKeep : Bool := false     -- safe-charge envelope in use since adoption (R53)
  qualifying : Bool := false   -- the qualification in progress follows no removal (R651)
  seated : Bool := false       -- the thermistor has read valid for 2 s since the last removal (R263)
  tickAt : Nat := 0            -- roof time of the last charger tick (R251)
deriving DecidableEq, Repr

/-- The RTC and the backup domain beside page 0x13 (19). -/
structure RtcSt where
  locked : Bool := false       -- access to PD_BK locked (R507)
  onVbk : Bool := false        -- PD_BK supplied from VBK (R507)
  calNow : Nat := 0            -- CAL in force in the present 32 s cycle (R516)
  wrapC : Option Nat := none   -- CK_SYS cycle of the last wrap of the prescaler, and the alarms that have fired at it (R513)
  fired : Nat := 0
  fifos : SMap (List (Word × Word)) := []  -- timestamps of EV0-EV3, oldest first (R515)
deriving DecidableEq, Repr

/-- The ROOF record of a truss (R83). -/
structure RoofRec where
  required : Nat
  optional : Nat
  minCompat : Nat
  proto : Nat
  degraded : Bool
deriving DecidableEq, Repr

/-- An operation of the OTP controller (R64, R69-R73, R76): the command it serves, or none for Purlin's programming of a
counter (R535); the words still to be programmed with their values, the first one in progress since `start` (none for a
read); whether the first is an interruption mark; whether what it programs is settled (steps 1-3 of R76 made); the window
sample before its next word (supply in millivolts, die in tenths of a degree). -/
structure OtpJob where
  cmd : Option Nat := none
  words : List (Nat × Nat) := []
  mark : Bool := false
  begun : Bool := false
  sample : Nat × Int := (0, 0)
  start : Nat := 0
deriving DecidableEq, Repr

/-- What a device is shipped with (R57-R60, R62): regions 0 and 1 locked, their digests, and the hash of the Purlin flash
area; the contents themselves are blank (log 8). -/
def shippedOtp : SMap Nat :=
  [(134, 0xFB7C5F768A233E04), (135, 0xFFC8530EA59625C6), (136, 0xEBB05793A988B1B6), (137, 0x9F58675D7251E2ED),
   (960, 0x3), (961, 0x700086A018BF705F), (962, 0x245A983FCEB95D2F)]

/-- OTP, its shadows and the truss copies beside page 0x14 (03). -/
structure OtpSt where
  array : SMap Nat := shippedOtp     -- 64-bit words 0-1023 (R57); unprogrammed 0
  weak : SMap Nat := []              -- bits that read 1, but 0 at margin (R74)
  shadow : SMap Nat := []            -- words 0-319 (R63)
  kept : SMap Nat := []              -- the array as the last stage 2 read it (R62, R646)
  pendMark : Option Nat := none      -- word whose interruption mark is to be burned (R73)
  line : List OtpJob := []           -- operations of the controller, the first in progress (R64)
  flash0 : SMap Word := []           -- truss copies 0 and 1 by word, erased 0xFFFFFFFF (R86)
  flash1 : SMap Word := []
  permit : Nat := 0                  -- PERMIT record of the active truss (R83)
  roofRec : Option RoofRec := none   -- ROOF record of the active truss (R83)
  digest : Nat := 0                  -- its shared digest (R85)
  refusedDigests : List Nat := []    -- shared digests of candidates rejected with cause 7 (R329)
deriving DecidableEq, Repr

/-- A 4 KiB sector of the gutter log area (R546): its erase count, the locations written since its last erase, the sequence
numbers of its committed records, and whether it is retired. -/
structure Sector where
  erases : Nat := 0
  used : Nat := 0
  seqs : List Nat := []
  retired : Bool := false
deriving DecidableEq, Repr

/-- Gutter log, trace store and replay beside page 0x1A (22). -/
structure LogSt where
  records : SMap (List Word) := []   -- committed records by SEQ, 64 words each
  waiting : List (List Word) := []   -- snapshots waiting, at most 8 (R558)
  abandoned : Option (List Word) := none   -- record abandoned and to be rewritten (R560)
  nextSeq : Nat := 0
  scanned : Bool := false            -- the scan of R559 has been made since the last reset
  secs : SMap Sector := []           -- sectors 0-255 of the log area
  cur : Nat := 0                     -- sector of the next free location
  traceCause : Nat := 0              -- cause of the trigger acted on
  trigAt : Nat := 0                  -- roof time of that trigger
  freezeAt : Nat := 0               -- roof time of the last freeze (R570)
  resetFroze : Bool := false         -- frozen by a HARD reset not yet reported (R566)
  copyTo : Option Nat := none        -- slot the frozen store is being copied into
  wantCopy : Option Nat := none      -- copy that waits for an erase or for PD_ACU
  areas : SMap (Option TraceCkpt) := []    -- the two checkpoint areas (R563)
  ckptArea : Nat := 0                -- area of the next checkpoint
  entries : List TraceEntry := []    -- the input ring, newest first (R563)
  block : Option (Nat × List (Nat × Nat × Nat)) := none   -- block of 8 slots being gathered: results by slot x 4 + converter, channel, word (R573)
  prevRaw : SMap Nat := []           -- each channel's previous result in the stream (R573)
  slots : SMap (Option Capture) := []
  windows : Nat := 0                 -- windows of the present interval digested (R575)
  bytes : List Nat := []             -- descriptions of the changes of those windows
  winDigest : Nat := 0               -- last window digest, last interval digest, last KEY entry (R575, R572)
  intDigest : Nat := 0
  key : Option (Nat × Nat) := none
  replaySlot : Nat := 0
  streamTo : Nat := 0                -- roof time at which the stream on the trace port ends (R579)
  snapAt : Option Nat := none        -- roof time of the last snapshot, and the snapshots of that cycle (R558)
  snapN : Nat := 0
  telemetry : List (List Word) := []   -- telemetry records stored in flash (R547), newest first
deriving DecidableEq, Repr

/-- The host watchdog, the firmware flash areas and Thatch beside page 0x1B (20). -/
structure FwSt where
  hwdBase : Nat := 0           -- CK_SYS cycle from which the host watchdog's period counts
  hwdHeld : Nat := 0           -- elapsed cycles held while it does not count (R528)
  banks : SMap (SMap Word) := []     -- flash by word, erased 0xFFFFFFFF: Thatch banks A (0), B (1), staged Purlin (2), Purlin (3)
  seals : SMap (Option Nat) := []    -- SHA-256 of a bank recorded at its last verification (R523)
  bank : Nat := 0              -- the bank record of the permanent-counter flash area (R533, R536): the active bank, whether it
  onTrial : Bool := false      -- is on trial, a counter still to be programmed (R535), a Purlin image to be copied (R537);
  arbPend : Bool := false      -- TRUST_STATUS shows them once Purlin has read them
  refresh : Bool := false
  prevBank : Nat := 0          -- bank that was active before the trial (R536)
  changed : Bool := false      -- the bank record has changed since Thatch last started (R646)
  trialFrom : Option Nat := none     -- roof time from which the 60 s of a trial count (R535)
  restarts : List Nat := []    -- roof times of the restarts of the last 60 s, newest first (R525)
  twdFrom : Nat := 0           -- roof time of Thatch's last check-in (R526)
  kickAt : Nat := 0            -- roof time of Purlin's last kick of its watchdog (R527)
  arbTarget : Nat := 0         -- anti-rollback value of the Purlin image activated (R537)
  arbAt : Nat := 0             -- roof time of the last attempt to program a counter (R535)
  swapTo : Option Nat := none  -- bank that a live swap in progress goes to (R534)
  swapAt : Nat := 0            -- roof time of its quiesce request
deriving DecidableEq, Repr

/-- How the present BOOT was entered (R46, R50, R646). -/
inductive BootPath where
  | powerOn | wake | hard | again
deriving DecidableEq, Repr

/-- Background tasks beside page 0x03 (21): the roof time at which the present pause of each task began (R479). -/
structure BgSt where
  pausedAt : SMap Nat := []
  tlmSeq : Nat := 0            -- telemetry records made (R547)
  tlmFrom : Nat := 0           -- roof time from which the present telemetry period counts
  stFrom : Nat := 0            -- roof time of the gate of the self-test in progress (R548)
deriving DecidableEq, Repr

/-- Resets, boot and clocks beside page 0x01 (02, 24). -/
structure CoreSt where
  strap : Nat := 0             -- address sampled under R21
  path : BootPath := .powerOn
  recMode : Mode := .boot          -- mode the keeper recorded (R43, R52)
  recFault : Option Nat := none    -- it was DESCEND in a fault descent, with the cause that LATCHED takes (R52)
  recIdent : Nat := 0              -- truss identity the keeper recorded, CRC-16 over its items (R43)
  recCrc : Nat := 0
  tripped : Option Nat := none     -- rail of a keeper trip that no adoption has judged (R44, R50)
  pllLost : Bool := false          -- PLL lost, PLL_LOSS not yet raised (R596)
  clocksOff : Bool := false        -- the clock generator is stopped (R596)
  refLost : Bool := false          -- the reference was lost and has not been taken back (R595)
  wdtReset : Bool := false         -- a reset of the Purlin watchdog that no adoption has reported (R541)
  woken : Bool := false            -- wake from STANDBY or RETAIN whose events are still to be restored (R47)
  sleepTo : Option (Mode × Nat) := none  -- STANDBY or DORMANT to be entered, and the roof time of the gate (R429)
  softAt : Nat := 0                -- roof time of the gate of the SOFT reset in progress (R41)
  porHeld : Bool := false      -- POWER-ON reset asserted (R38)
  testMode : Bool := false     -- TEST_EN read high at the release: the device stays at stage 0 (R619)
  hardHeld : Bool := false     -- HARD reset held (R39)
  softReset : Bool := false    -- within the 200 microseconds of R41
  purlinFail : Bool := false   -- Purlin image hash failed (R48)
  testPassed : Bool := false   -- self-test-passed flag of PD_AON (R46)
  bootReady : Bool := false    -- BOOT ready (R647)
  thatchAbsent : Bool := false -- R49
  relock : Nat := 0            -- rails that move to the synchronised frequency, one bit each (R111)
  pgood : Nat := 0             -- PGOOD0-PGOOD3 released high, 4 bits (R215)
  soFrom : Nat := 0            -- roof time of the last change of SO_SRC (R610)
  ssoAt : List Nat := [0, 0, 0, 0]    -- roof time at which SSOj was first driven low (R171)
  gbLock : Nat := 0            -- bit b: the GB bank on GBIN_A (0) or GBIN_B (1) is in undervoltage lockout (R155)
deriving DecidableEq, Repr

/-- The block beside the queue of commands. -/
structure Device where
  words : SMap Word := []
  mode : Mode := .boot
  prev : Mode := .boot
  roofTime : Nat := 0                -- 64 bits of 10 ns (R310)
  cycles : Nat := 0                  -- CK_SYS cycles since POWER-ON (R570, R586)
  core : CoreSt := {}
  rails : SMap Rail := []
  seq : SeqSt := {}
  cl : SMap ClSt := []               -- clusters A (0) and B (1)
  ev : EvSt := {}
  eng : EngSt := {}
  perf : PerfSt := {}
  adc : AdcSt := {}
  therm : ThermSt := {}
  bg : BgSt := {}
  link : LinkSt := {}
  vly : VlySt := {}
  gauge : GaugeSt := {}
  power : PowerSt := {}
  rtc : RtcSt := {}
  otp : OtpSt := {}
  log : LogSt := {}
  fw : FwSt := {}
  freeN : Nat := 0                   -- the model's own: free values drawn
deriving DecidableEq, Repr

/-- The machine: the commands that wait, first in first out, and the block. -/
structure State where
  pending : List Instr := []
  dev : Device := {}
deriving DecidableEq, Repr

/-- Why a step stops with a fault. No row of the table of operations stops the block, so no command raises one. -/
inductive Fault where
  /-- Raised by nothing: the spec names no happening that stops the block. Safe. -/
  | none
deriving DecidableEq, Repr

/-- Why a command has no meaning. -/
inductive Refusal where
  /-- Raised by the dispatch for a row that has no meaning in the model yet. Safe. -/
  | notModelled (mnemonic : String)
deriving DecidableEq, Repr

/-- R14: the block right after a POWER-ON reset is released: every word at its Reset column, boot stage 0, no rail on,
queues and rings empty, PD_BK still locked (R507). -/
def State.reset : State := { dev := { rtc := { locked := true } } }

end Sys2Proof.Machine
end

