-- ==== Sys2Proof/Machine/Words.lean ====
section
/-! DEFINITION. The word tables of the spec: one constant for each field of each control word and host-page word
(page x 256 + offset; host-page word w at 0x10000 + w, R388), and for each word its access masks and its reset value.
A field whose Reset column says "truss" carries the value of R644. Each section names the chapter its tables stand in. -/

namespace Sys2Proof.W


/-! Tables of chapter 02. -/

def MODE_STATUS_BOOT_STAGE : Fld := ⟨0x100, 1, 1, 19, 16⟩
def MODE_STATUS_HOLDUP_PENDING : Fld := ⟨0x100, 1, 1, 15, 15⟩
def MODE_STATUS_ADOPTING : Fld := ⟨0x100, 1, 1, 14, 14⟩
def MODE_STATUS_LATCH_HELD : Fld := ⟨0x100, 1, 1, 13, 13⟩
def MODE_STATUS_LATCH_CAUSE : Fld := ⟨0x100, 1, 1, 11, 8⟩
def MODE_STATUS_PREV_MODE : Fld := ⟨0x100, 1, 1, 7, 4⟩
def MODE_STATUS_MODE : Fld := ⟨0x100, 1, 1, 3, 0⟩
def MODE_CTRL_DESC_NEXT : Fld := ⟨0x101, 1, 1, 7, 4⟩
def MODE_CTRL_AUTO_START : Fld := ⟨0x101, 1, 1, 3, 3⟩
def MODE_CTRL_INPUT_LOSS_CONT : Fld := ⟨0x101, 1, 1, 2, 2⟩
def RESET_CAUSE_KEEPER_TRIP : Fld := ⟨0x102, 1, 1, 8, 8⟩
def RESET_CAUSE_SOFT_CMD : Fld := ⟨0x102, 1, 1, 7, 7⟩
def RESET_CAUSE_HARD_CMD : Fld := ⟨0x102, 1, 1, 6, 6⟩
def RESET_CAUSE_PURLIN_WDT : Fld := ⟨0x102, 1, 1, 5, 5⟩
def RESET_CAUSE_NRST : Fld := ⟨0x102, 1, 1, 4, 4⟩
def RESET_CAUSE_DORMANT_WAKE : Fld := ⟨0x102, 1, 1, 3, 3⟩
def RESET_CAUSE_STANDBY_WAKE : Fld := ⟨0x102, 1, 1, 2, 2⟩
def RESET_CAUSE_UVLO : Fld := ⟨0x102, 1, 1, 1, 1⟩
def RESET_CAUSE_POR : Fld := ⟨0x102, 1, 1, 0, 0⟩
def ADOPT_FAIL_RAIL_FAIL : Fld := ⟨0x103, 1, 1, 31, 0⟩
def ADOPT_STATUS_ADOPTED_COUNT : Fld := ⟨0x104, 1, 1, 15, 8⟩
def ADOPT_STATUS_RESULT : Fld := ⟨0x104, 1, 1, 7, 4⟩
def ADOPT_STATUS_KEEPER_MODE : Fld := ⟨0x104, 1, 1, 3, 0⟩
def COLD_STATUS_LINK_UNDISCIPLINED : Fld := ⟨0x105, 1, 1, 4, 4⟩
def COLD_STATUS_RTC_FACTORY_TRIM : Fld := ⟨0x105, 1, 1, 3, 3⟩
def COLD_STATUS_THERMAL_WARMUP : Fld := ⟨0x105, 1, 1, 2, 2⟩
def COLD_STATUS_LEARN_NOMINAL : Fld := ⟨0x105, 1, 1, 1, 1⟩
def COLD_STATUS_GAUGE_UNANCHORED : Fld := ⟨0x105, 1, 1, 0, 0⟩
def WAKE_CFG_WK1_SEEN : Fld := ⟨0x106, 1, 1, 17, 17⟩
def WAKE_CFG_WK0_SEEN : Fld := ⟨0x106, 1, 1, 16, 16⟩
def WAKE_CFG_WK1_EN : Fld := ⟨0x106, 1, 1, 15, 15⟩
def WAKE_CFG_WK1_EDGE : Fld := ⟨0x106, 1, 1, 14, 13⟩
def WAKE_CFG_WK1_FILT : Fld := ⟨0x106, 1, 1, 11, 8⟩
def WAKE_CFG_WK0_EN : Fld := ⟨0x106, 1, 1, 7, 7⟩
def WAKE_CFG_WK0_EDGE : Fld := ⟨0x106, 1, 1, 6, 5⟩
def WAKE_CFG_WK0_FILT : Fld := ⟨0x106, 1, 1, 3, 0⟩

/-! Tables of chapter 03. -/

def OTP_STATUS_LOCKED : Fld := ⟨0x1400, 1, 1, 20, 16⟩
def OTP_STATUS_DIGEST_FAIL : Fld := ⟨0x1400, 1, 1, 12, 8⟩
def OTP_STATUS_ENV_UNLOCKED : Fld := ⟨0x1400, 1, 1, 4, 4⟩
def OTP_STATUS_OVR_ACTIVE : Fld := ⟨0x1400, 1, 1, 3, 3⟩
def OTP_STATUS_MARGINAL_SEEN : Fld := ⟨0x1400, 1, 1, 2, 2⟩
def OTP_STATUS_MARK_PENDING : Fld := ⟨0x1400, 1, 1, 1, 1⟩
def OTP_STATUS_BUSY : Fld := ⟨0x1400, 1, 1, 0, 0⟩
def OTP_UID_UID : Fld := ⟨0x1401, 1, 4, 31, 0⟩
def TRUSS_STATUS_REJECT_OTP : Fld := ⟨0x1408, 1, 1, 15, 12⟩
def TRUSS_STATUS_REJECT_1 : Fld := ⟨0x1408, 1, 1, 11, 8⟩
def TRUSS_STATUS_REJECT_0 : Fld := ⟨0x1408, 1, 1, 7, 4⟩
def TRUSS_STATUS_STAGED : Fld := ⟨0x1408, 1, 1, 3, 3⟩
def TRUSS_STATUS_ACTIVE_SRC : Fld := ⟨0x1408, 1, 1, 2, 0⟩
def TRUSS_SEQ_SEQ : Fld := ⟨0x1409, 1, 1, 31, 0⟩
def TRUSS_ID_ID : Fld := ⟨0x140A, 1, 2, 31, 0⟩
def SHARED_DIGEST_DIGEST : Fld := ⟨0x140C, 1, 2, 31, 0⟩

/-! Tables of chapter 04. -/

def HC_CFG_GANG : Fld := ⟨0x400, 32, 4, 29, 28⟩
def HC_CFG_VPRE : Fld := ⟨0x400, 32, 4, 27, 27⟩
def HC_CFG_EXT_FB : Fld := ⟨0x400, 32, 4, 26, 26⟩
def HC_CFG_LIGHT_DE : Fld := ⟨0x400, 32, 4, 25, 25⟩
def HC_CFG_SS_EN : Fld := ⟨0x400, 32, 4, 24, 24⟩
def HC_CFG_PHASE : Fld := ⟨0x400, 32, 4, 23, 20⟩
def HC_CFG_SDIV : Fld := ⟨0x400, 32, 4, 19, 16⟩
def HC_CFG_FSW : Fld := ⟨0x400, 32, 4, 7, 0⟩
def HC_VSET_VCODE : Fld := ⟨0x401, 32, 4, 11, 0⟩
def HC_SLEW_SLEW : Fld := ⟨0x402, 32, 4, 15, 0⟩
def HC_DIV_DIVK : Fld := ⟨0x403, 32, 4, 14, 0⟩
def HC_INJ_RCODE : Fld := ⟨0x404, 32, 4, 4, 0⟩
def HC_ILIM_IVL : Fld := ⟨0x405, 32, 4, 27, 16⟩
def HC_ILIM_IPK : Fld := ⟨0x405, 32, 4, 11, 0⟩
def HC_INEG_INEG : Fld := ⟨0x406, 32, 4, 11, 0⟩
def HC_RSNS_RSNS : Fld := ⟨0x407, 32, 4, 15, 0⟩
def HC_BRAKE_BRAKE_EN : Fld := ⟨0x408, 32, 4, 7, 7⟩
def HC_BRAKE_BTH : Fld := ⟨0x408, 32, 4, 3, 0⟩
def HC_DRV_DTMIN : Fld := ⟨0x409, 32, 4, 3, 0⟩
def HC_STATUS_PH_MASK : Fld := ⟨0x800, 32, 4, 15, 12⟩
def HC_STATUS_PH_DROPPED : Fld := ⟨0x800, 32, 4, 11, 8⟩
def HC_STATUS_GANG_MEMBER : Fld := ⟨0x800, 32, 4, 7, 7⟩
def HC_STATUS_SYNC_LOCKED : Fld := ⟨0x800, 32, 4, 6, 6⟩
def HC_STATUS_SYNC_RANGE : Fld := ⟨0x800, 32, 4, 5, 5⟩
def HC_STATUS_M_LIMIT : Fld := ⟨0x800, 32, 4, 4, 4⟩
def HC_STATUS_DE_ACTIVE : Fld := ⟨0x800, 32, 4, 3, 3⟩
def HC_STATUS_BRAKING : Fld := ⟨0x800, 32, 4, 2, 2⟩
def HC_STATUS_IMBAL : Fld := ⟨0x800, 32, 4, 1, 1⟩
def HC_STATUS_REF_MOVING : Fld := ⟨0x800, 32, 4, 0, 0⟩
def HC_PH_CAUSE_CAUSE : Fld := ⟨0x801, 32, 4, 3, 0⟩
def HC_FREQ_M : Fld := ⟨0x802, 32, 4, 31, 16⟩
def HC_FREQ_FMEAS : Fld := ⟨0x802, 32, 4, 15, 0⟩
def HC_TON_TON : Fld := ⟨0x803, 32, 4, 15, 0⟩
def HC_BRAKE_CNT_BRAKES : Fld := ⟨0x804, 32, 4, 31, 0⟩

/-! Tables of chapter 05. -/

def CL_CFG_LIGHT_DE : Fld := ⟨0x480, 32, 8, 25, 25⟩
def CL_CFG_SS_EN : Fld := ⟨0x480, 32, 8, 24, 24⟩
def CL_CFG_PHASE : Fld := ⟨0x480, 32, 8, 23, 20⟩
def CL_CFG_SDIV : Fld := ⟨0x480, 32, 8, 19, 16⟩
def CL_CFG_FSW : Fld := ⟨0x480, 32, 8, 6, 0⟩
def CL_VSET_VCODE : Fld := ⟨0x481, 32, 8, 9, 0⟩
def CL_SLEW_SLEW : Fld := ⟨0x482, 32, 8, 15, 0⟩
def CL_INJ_RCODE : Fld := ⟨0x483, 32, 8, 4, 0⟩
def CL_ILIM_IVL : Fld := ⟨0x484, 32, 8, 27, 16⟩
def CL_ILIM_IPK : Fld := ⟨0x484, 32, 8, 11, 0⟩
def CL_INEG_INEG : Fld := ⟨0x485, 32, 8, 11, 0⟩
def CL_BRAKE_BRAKE_EN : Fld := ⟨0x486, 32, 8, 7, 7⟩
def CL_BRAKE_BTH : Fld := ⟨0x486, 32, 8, 3, 0⟩
def CL_RSTATUS_SHED_ACTIVE : Fld := ⟨0x880, 32, 8, 18, 18⟩
def CL_RSTATUS_SPARE_ON : Fld := ⟨0x880, 32, 8, 17, 17⟩
def CL_RSTATUS_PH_MASK : Fld := ⟨0x880, 32, 8, 16, 12⟩
def CL_RSTATUS_PH_DROPPED : Fld := ⟨0x880, 32, 8, 11, 7⟩
def CL_RSTATUS_SYNC_LOCKED : Fld := ⟨0x880, 32, 8, 6, 6⟩
def CL_RSTATUS_SYNC_RANGE : Fld := ⟨0x880, 32, 8, 5, 5⟩
def CL_RSTATUS_M_LIMIT : Fld := ⟨0x880, 32, 8, 4, 4⟩
def CL_RSTATUS_DE_ACTIVE : Fld := ⟨0x880, 32, 8, 3, 3⟩
def CL_RSTATUS_BRAKING : Fld := ⟨0x880, 32, 8, 2, 2⟩
def CL_RSTATUS_IMBAL : Fld := ⟨0x880, 32, 8, 1, 1⟩
def CL_RSTATUS_REF_MOVING : Fld := ⟨0x880, 32, 8, 0, 0⟩
def CL_FREQ_M : Fld := ⟨0x881, 32, 8, 31, 16⟩
def CL_FREQ_FMEAS : Fld := ⟨0x881, 32, 8, 15, 0⟩
def CL_TON_TON : Fld := ⟨0x882, 32, 8, 15, 0⟩
def CL_BRAKE_CNT_BRAKES : Fld := ⟨0x883, 32, 8, 31, 0⟩
def PH_CFG_ROLE : Fld := ⟨0xC00, 1, 10, 2, 0⟩
def PH_STATUS_CAUSE : Fld := ⟨0xC10, 1, 10, 15, 12⟩
def PH_STATUS_FAILED : Fld := ⟨0xC10, 1, 10, 11, 11⟩
def PH_STATUS_SERVING_RAIL : Fld := ⟨0xC10, 1, 10, 7, 6⟩
def PH_STATUS_STATE : Fld := ⟨0xC10, 1, 10, 2, 0⟩
def PH_COUNT_ROT_COUNT : Fld := ⟨0xC20, 1, 10, 31, 16⟩
def PH_COUNT_HANDOVERS : Fld := ⟨0xC20, 1, 10, 15, 0⟩
def CL_CTRL_ROT_DELTA : Fld := ⟨0xC30, 1, 2, 23, 20⟩
def CL_CTRL_ROT_PERIOD : Fld := ⟨0xC30, 1, 2, 19, 14⟩
def CL_CTRL_ROT_EN : Fld := ⟨0xC30, 1, 2, 13, 13⟩
def CL_CTRL_SHED_EN : Fld := ⟨0xC30, 1, 2, 12, 12⟩
def CL_CTRL_ARM_RAIL : Fld := ⟨0xC30, 1, 2, 9, 8⟩
def CL_CTRL_PH_HOT : Fld := ⟨0xC30, 1, 2, 7, 4⟩
def CL_STATUS_HO_CYCLES : Fld := ⟨0xC32, 1, 2, 31, 20⟩
def CL_STATUS_HANDOVER_FAIL : Fld := ⟨0xC32, 1, 2, 16, 16⟩
def CL_STATUS_NO_SPARE : Fld := ⟨0xC32, 1, 2, 12, 12⟩
def CL_STATUS_SPARE_FAILED : Fld := ⟨0xC32, 1, 2, 11, 11⟩
def CL_STATUS_DRILL_ACTIVE : Fld := ⟨0xC32, 1, 2, 10, 10⟩
def CL_STATUS_ROT_ACTIVE : Fld := ⟨0xC32, 1, 2, 9, 9⟩
def CL_STATUS_SPARE_ENGAGED : Fld := ⟨0xC32, 1, 2, 8, 8⟩
def CL_STATUS_SPARE_RAIL : Fld := ⟨0xC32, 1, 2, 7, 6⟩
def CL_STATUS_STEER_CLOSED : Fld := ⟨0xC32, 1, 2, 5, 5⟩
def DRILL_RESULT_I_SPARE : Fld := ⟨0xC34, 1, 2, 31, 16⟩
def DRILL_RESULT_MATCH : Fld := ⟨0xC34, 1, 2, 15, 4⟩
def DRILL_RESULT_RESULT : Fld := ⟨0xC34, 1, 2, 3, 0⟩

/-! Tables of chapter 06. -/

def SB_CFG_DIS_EN : Fld := ⟨0x580, 32, 6, 26, 26⟩
def SB_CFG_LIGHT_DE : Fld := ⟨0x580, 32, 6, 25, 25⟩
def SB_CFG_SS_EN : Fld := ⟨0x580, 32, 6, 24, 24⟩
def SB_CFG_PHASE : Fld := ⟨0x580, 32, 6, 23, 20⟩
def SB_CFG_SDIV : Fld := ⟨0x580, 32, 6, 19, 16⟩
def SB_CFG_BRAKE_EN : Fld := ⟨0x580, 32, 6, 15, 15⟩
def SB_CFG_BTH : Fld := ⟨0x580, 32, 6, 11, 8⟩
def SB_CFG_RCODE : Fld := ⟨0x580, 32, 6, 4, 0⟩
def SB_VSET_VCODE : Fld := ⟨0x581, 32, 6, 9, 0⟩
def SB_SLEW_SLEW : Fld := ⟨0x582, 32, 6, 15, 0⟩
def SB_ILIM_INEG : Fld := ⟨0x583, 32, 6, 31, 24⟩
def SB_ILIM_IVL : Fld := ⟨0x583, 32, 6, 23, 12⟩
def SB_ILIM_IPK : Fld := ⟨0x583, 32, 6, 11, 0⟩
def SB_RSTATUS_DROPOUT : Fld := ⟨0x980, 32, 6, 7, 7⟩
def SB_RSTATUS_DIS_ACTIVE : Fld := ⟨0x980, 32, 6, 6, 6⟩
def SB_RSTATUS_SYNC_LOCKED : Fld := ⟨0x980, 32, 6, 5, 5⟩
def SB_RSTATUS_SYNC_RANGE : Fld := ⟨0x980, 32, 6, 4, 4⟩
def SB_RSTATUS_DE_ACTIVE : Fld := ⟨0x980, 32, 6, 3, 3⟩
def SB_RSTATUS_BRAKING : Fld := ⟨0x980, 32, 6, 2, 2⟩
def SB_RSTATUS_M_LIMIT : Fld := ⟨0x980, 32, 6, 1, 1⟩
def SB_RSTATUS_REF_MOVING : Fld := ⟨0x980, 32, 6, 0, 0⟩
def SB_FREQ_M : Fld := ⟨0x981, 32, 6, 31, 16⟩
def SB_FREQ_FMEAS : Fld := ⟨0x981, 32, 6, 15, 0⟩
def LD_CFG_DIS_EN : Fld := ⟨0x640, 32, 6, 11, 11⟩
def LD_CFG_ILIM_SEL : Fld := ⟨0x640, 32, 6, 9, 8⟩
def LD_CFG_VCODE : Fld := ⟨0x640, 32, 6, 7, 0⟩
def LD_SLEW_SLEW : Fld := ⟨0x641, 32, 6, 15, 0⟩
def LD_RSTATUS_DROPOUT : Fld := ⟨0xA40, 32, 6, 3, 3⟩
def LD_RSTATUS_ILIM_ACTIVE : Fld := ⟨0xA40, 32, 6, 2, 2⟩
def LD_RSTATUS_DIS_ACTIVE : Fld := ⟨0xA40, 32, 6, 1, 1⟩
def LD_RSTATUS_REF_MOVING : Fld := ⟨0xA40, 32, 6, 0, 0⟩
def GB_CFG_AUX_EN : Fld := ⟨0x700, 32, 8, 27, 27⟩
def GB_CFG_GB_PHASE : Fld := ⟨0x700, 32, 8, 26, 24⟩
def GB_CFG_DTCODE : Fld := ⟨0x700, 32, 8, 23, 18⟩
def GB_CFG_PCODE : Fld := ⟨0x700, 32, 8, 11, 0⟩
def GB_ILIM_IHI : Fld := ⟨0x701, 32, 8, 27, 16⟩
def GB_ILIM_ILO : Fld := ⟨0x701, 32, 8, 11, 0⟩
def GB_AUX_KAUX : Fld := ⟨0x702, 32, 8, 31, 16⟩
def GB_AUX_VNOM : Fld := ⟨0x702, 32, 8, 15, 0⟩
def GB_RSTATUS_IPEAK : Fld := ⟨0xB00, 32, 8, 31, 20⟩
def GB_RSTATUS_INTERLOCK_WAIT : Fld := ⟨0xB00, 32, 8, 4, 4⟩
def GB_RSTATUS_OPEN : Fld := ⟨0xB00, 32, 8, 3, 3⟩
def GB_RSTATUS_LIMIT : Fld := ⟨0xB00, 32, 8, 2, 2⟩
def GB_RSTATUS_RAMPING : Fld := ⟨0xB00, 32, 8, 1, 1⟩
def GB_RSTATUS_SWITCHING : Fld := ⟨0xB00, 32, 8, 0, 0⟩
def SSO_CTRL_HOST_HOLD : Fld := ⟨0x1D00, 1, 1, 3, 0⟩
def SSO_ASSOC_ASSOC : Arr := ⟨0x1D01, 4, 4, 4, 8⟩
def SSO_STATUS_BY_REFLEX : Fld := ⟨0x1D05, 1, 1, 23, 20⟩
def SSO_STATUS_FAULT : Fld := ⟨0x1D05, 1, 1, 19, 16⟩
def SSO_STATUS_PENDING : Fld := ⟨0x1D05, 1, 1, 15, 12⟩
def SSO_STATUS_PIN : Fld := ⟨0x1D05, 1, 1, 7, 4⟩
def SSO_STATUS_ASSERTED : Fld := ⟨0x1D05, 1, 1, 3, 0⟩

/-! Tables of chapter 07. -/

def SEQ_SLOT_ON_IN_SEQ : Fld := ⟨0x200, 4, 32, 31, 31⟩
def SEQ_SLOT_ON_RAMP : Fld := ⟨0x200, 4, 32, 28, 16⟩
def SEQ_SLOT_ON_ON_DLY : Fld := ⟨0x200, 4, 32, 15, 0⟩
def SEQ_SLOT_OFF_GATED : Fld := ⟨0x201, 4, 32, 31, 31⟩
def SEQ_SLOT_OFF_OFF_TH : Fld := ⟨0x201, 4, 32, 21, 16⟩
def SEQ_SLOT_OFF_OFF_DLY : Fld := ⟨0x201, 4, 32, 15, 0⟩
def SEQ_PRED_PRED : Fld := ⟨0x202, 4, 32, 31, 0⟩
def SEQ_TIMEOUT_GATE_TO : Fld := ⟨0x203, 4, 32, 31, 16⟩
def SEQ_TIMEOUT_PG_TO : Fld := ⟨0x203, 4, 32, 15, 0⟩
def SEQ_CTRL_T_REST : Fld := ⟨0x280, 1, 1, 23, 16⟩
def SEQ_CTRL_RETRY_DLY : Fld := ⟨0x280, 1, 1, 15, 8⟩
def SEQ_CTRL_RETRY_MAX : Fld := ⟨0x280, 1, 1, 2, 0⟩
def SEQ_RETAIN_RETAIN : Fld := ⟨0x281, 1, 1, 31, 0⟩
def SEQ_SVCHOLD_SVCHOLD : Fld := ⟨0x282, 1, 1, 31, 0⟩
def SEQ_STATUS_ELAPSED : Fld := ⟨0x283, 1, 1, 31, 16⟩
def SEQ_STATUS_RETRY_CNT : Fld := ⟨0x283, 1, 1, 10, 8⟩
def SEQ_STATUS_UP_PENDING : Fld := ⟨0x283, 1, 1, 7, 7⟩
def SEQ_STATUS_SEQ_STATE : Fld := ⟨0x283, 1, 1, 3, 0⟩
def SEQ_RSTATE_RSTATE : Arr := ⟨0x284, 4, 4, 4, 8⟩
def SEQ_RISE_FAIL_RISE_FAIL : Fld := ⟨0x288, 1, 1, 31, 0⟩
def SEQ_FALL_FAIL_FALL_FAIL : Fld := ⟨0x289, 1, 1, 31, 0⟩
def SEQ_GATE_TIMEOUT_GATE_TIMEOUT : Fld := ⟨0x28A, 1, 1, 31, 0⟩
def SEQ_T0_T0 : Fld := ⟨0x28B, 1, 2, 31, 0⟩

/-! Tables of chapter 08. -/

def SUP_WIN_OV_TH : Fld := ⟨0x410, 32, 32, 28, 24⟩
def SUP_WIN_UV_TH : Fld := ⟨0x410, 32, 32, 20, 16⟩
def SUP_WIN_OV_DG : Fld := ⟨0x410, 32, 32, 14, 8⟩
def SUP_WIN_UV_DG : Fld := ⟨0x410, 32, 32, 6, 0⟩
def SUP_OC_OC_TH : Fld := ⟨0x411, 32, 32, 29, 16⟩
def SUP_OC_OC_DG : Fld := ⟨0x411, 32, 32, 6, 0⟩
def SUP_ACT_LAT_ACT : Fld := ⟨0x412, 32, 32, 9, 8⟩
def SUP_ACT_OC_ACT : Fld := ⟨0x412, 32, 32, 7, 6⟩
def SUP_ACT_UV_ACT : Fld := ⟨0x412, 32, 32, 5, 4⟩
def SUP_ACT_OV_ACT : Fld := ⟨0x412, 32, 32, 3, 2⟩
def SUP_ACT_OPEN_ACT : Fld := ⟨0x412, 32, 32, 1, 0⟩
def SUP_STATUS_DISAGREE : Fld := ⟨0x810, 32, 32, 23, 23⟩
def SUP_STATUS_FAULT_LATCH : Fld := ⟨0x810, 32, 32, 22, 22⟩
def SUP_STATUS_CMP_FAULT : Fld := ⟨0x810, 32, 32, 21, 18⟩
def SUP_STATUS_OC_LAT : Fld := ⟨0x810, 32, 32, 12, 12⟩
def SUP_STATUS_UV_C_LAT : Fld := ⟨0x810, 32, 32, 11, 11⟩
def SUP_STATUS_UV_P_LAT : Fld := ⟨0x810, 32, 32, 10, 10⟩
def SUP_STATUS_OV_C_LAT : Fld := ⟨0x810, 32, 32, 9, 9⟩
def SUP_STATUS_OV_P_LAT : Fld := ⟨0x810, 32, 32, 8, 8⟩
def SUP_STATUS_OC_LIVE : Fld := ⟨0x810, 32, 32, 5, 5⟩
def SUP_STATUS_UV_C_LIVE : Fld := ⟨0x810, 32, 32, 4, 4⟩
def SUP_STATUS_UV_P_LIVE : Fld := ⟨0x810, 32, 32, 3, 3⟩
def SUP_STATUS_OV_C_LIVE : Fld := ⟨0x810, 32, 32, 2, 2⟩
def SUP_STATUS_OV_P_LIVE : Fld := ⟨0x810, 32, 32, 1, 1⟩
def SUP_STATUS_PG : Fld := ⟨0x810, 32, 32, 0, 0⟩
def SUP_CTRL_LAT_GUARD : Fld := ⟨0x300, 1, 1, 11, 9⟩
def SUP_CTRL_LAT_EN : Fld := ⟨0x300, 1, 1, 8, 8⟩
def SUP_CTRL_REF_ACT : Fld := ⟨0x300, 1, 1, 3, 3⟩
def SUP_GLOBAL_REF_ADC_FAULT : Fld := ⟨0x301, 1, 1, 1, 1⟩
def SUP_GLOBAL_REF_MISMATCH : Fld := ⟨0x301, 1, 1, 0, 0⟩
def SUP_FIRST_VALID : Fld := ⟨0x302, 1, 1, 31, 31⟩
def SUP_FIRST_RAIL : Fld := ⟨0x302, 1, 1, 12, 8⟩
def SUP_FIRST_CAUSE : Fld := ⟨0x302, 1, 1, 3, 0⟩
def CMP_FAULT_SUM_RAILS : Fld := ⟨0x303, 1, 1, 31, 0⟩
def PGOOD_MASK_MASK : Fld := ⟨0x304, 1, 4, 31, 0⟩
def PGOOD_CFG_PG_DLY : Arr := ⟨0x308, 1, 8, 8, 4⟩

/-! Tables of chapter 09. -/

def BK_CFG_HOLD_SET : Fld := ⟨0xD00, 1, 1, 23, 16⟩
def BK_CFG_BK_FSW : Fld := ⟨0xD00, 1, 1, 11, 8⟩
def BK_CFG_BST_IPK : Fld := ⟨0xD00, 1, 1, 7, 0⟩
def BK_SNS_RSNS_IN : Fld := ⟨0xD01, 1, 1, 31, 16⟩
def BK_SNS_RSNS_PK : Fld := ⟨0xD01, 1, 1, 15, 0⟩
def VSUP_CFG_ILIM_IN : Fld := ⟨0xD02, 1, 1, 23, 16⟩
def VSUP_CFG_WAKE_TH : Fld := ⟨0xD02, 1, 1, 15, 8⟩
def VSUP_CFG_UV_TH : Fld := ⟨0xD02, 1, 1, 6, 0⟩
def CHG_SET_CHEM : Fld := ⟨0xD03, 1, 1, 31, 31⟩
def CHG_SET_CELLS : Fld := ⟨0xD03, 1, 1, 27, 26⟩
def CHG_SET_CV : Fld := ⟨0xD03, 1, 1, 25, 16⟩
def CHG_SET_I_FAST : Fld := ⟨0xD03, 1, 1, 9, 0⟩
def CHG_CTRL_FAST_TMR : Fld := ⟨0xD04, 1, 1, 15, 12⟩
def CHG_CTRL_TERM_SEL : Fld := ⟨0xD04, 1, 1, 11, 10⟩
def CHG_CTRL_EASE_GAP : Fld := ⟨0xD04, 1, 1, 7, 4⟩
def CHG_CTRL_CHG_EN : Fld := ⟨0xD04, 1, 1, 0, 0⟩
def CHG_WD_WD_EN : Fld := ⟨0xD05, 1, 1, 8, 8⟩
def CHG_WD_WD_PERIOD : Fld := ⟨0xD05, 1, 1, 7, 0⟩
def PACK_CFG_NTC_B : Fld := ⟨0xD06, 1, 1, 28, 16⟩
def PACK_CFG_NTC_100K : Fld := ⟨0xD06, 1, 1, 15, 15⟩
def PACK_CFG_VCUT : Fld := ⟨0xD06, 1, 1, 14, 8⟩
def PACK_CFG_VRSV : Fld := ⟨0xD06, 1, 1, 7, 0⟩
def BK_STATUS_BK_STATE : Fld := ⟨0xD08, 1, 1, 11, 8⟩
def BK_STATUS_IDG_ON : Fld := ⟨0xD08, 1, 1, 7, 7⟩
def BK_STATUS_VSUP_LOW : Fld := ⟨0xD08, 1, 1, 6, 6⟩
def BK_STATUS_PACK_PRESENT : Fld := ⟨0xD08, 1, 1, 5, 5⟩
def BK_STATUS_INLIM : Fld := ⟨0xD08, 1, 1, 4, 4⟩
def BK_STATUS_HOLD_PRIO : Fld := ⟨0xD08, 1, 1, 3, 3⟩
def BK_STATUS_CUTOFF : Fld := ⟨0xD08, 1, 1, 2, 2⟩
def BK_STATUS_BK_ILIM : Fld := ⟨0xD08, 1, 1, 1, 1⟩
def CHG_STATUS_SUSP_WHY : Fld := ⟨0xD09, 1, 1, 27, 24⟩
def CHG_STATUS_DONE_REDUCED : Fld := ⟨0xD09, 1, 1, 19, 19⟩
def CHG_STATUS_WD_SAFE : Fld := ⟨0xD09, 1, 1, 18, 18⟩
def CHG_STATUS_HALF_RATE : Fld := ⟨0xD09, 1, 1, 17, 17⟩
def CHG_STATUS_TERM_COUNTING : Fld := ⟨0xD09, 1, 1, 16, 16⟩
def CHG_STATUS_ZONE : Fld := ⟨0xD09, 1, 1, 10, 8⟩
def CHG_STATUS_CHG_STATE : Fld := ⟨0xD09, 1, 1, 3, 0⟩
def CHG_TIMER_WALL : Fld := ⟨0xD0A, 1, 1, 31, 16⟩
def CHG_TIMER_SAFETY : Fld := ⟨0xD0A, 1, 1, 15, 0⟩
def CHG_FAULT_NTC_SHORT : Fld := ⟨0xD0B, 1, 1, 7, 7⟩
def CHG_FAULT_BK_FAULT : Fld := ⟨0xD0B, 1, 1, 6, 6⟩
def CHG_FAULT_PACK_OV : Fld := ⟨0xD0B, 1, 1, 5, 5⟩
def CHG_FAULT_REMOVED : Fld := ⟨0xD0B, 1, 1, 4, 4⟩
def CHG_FAULT_WD_EXPIRED : Fld := ⟨0xD0B, 1, 1, 3, 3⟩
def CHG_FAULT_FAST_TIMEOUT : Fld := ⟨0xD0B, 1, 1, 2, 2⟩
def CHG_FAULT_PRE_TIMEOUT : Fld := ⟨0xD0B, 1, 1, 1, 1⟩
def CHG_FAULT_CHG_TIMEOUT : Fld := ⟨0xD0B, 1, 1, 0, 0⟩
def CHG_IEFF_I_TARGET : Fld := ⟨0xD0C, 1, 1, 25, 16⟩
def CHG_IEFF_LIMITER : Fld := ⟨0xD0C, 1, 1, 2, 0⟩

/-! Tables of chapter 10. -/

def GAUGE_CFG_V_EMPTY : Fld := ⟨0xE00, 1, 1, 23, 16⟩
def GAUGE_CFG_I_QUIET : Fld := ⟨0xE00, 1, 1, 13, 8⟩
def GAUGE_CFG_MARGIN_PCT : Fld := ⟨0xE00, 1, 1, 4, 0⟩
def GAUGE_NOM_FCC_NOM : Fld := ⟨0xE01, 1, 1, 19, 0⟩
def GAUGE_DESC_Q_DESC : Fld := ⟨0xE02, 1, 1, 19, 0⟩
def GAUGE_CTRL_FORGET : Fld := ⟨0xE03, 1, 1, 0, 0⟩
def GAUGE_STATUS_USABLE : Fld := ⟨0xE08, 1, 1, 31, 16⟩
def GAUGE_STATUS_RSV_EXCEEDS : Fld := ⟨0xE08, 1, 1, 7, 7⟩
def GAUGE_STATUS_OVERCOUNT : Fld := ⟨0xE08, 1, 1, 6, 6⟩
def GAUGE_STATUS_QUIET : Fld := ⟨0xE08, 1, 1, 5, 5⟩
def GAUGE_STATUS_LEARN_ACTIVE : Fld := ⟨0xE08, 1, 1, 4, 4⟩
def GAUGE_STATUS_LEARN_FROM : Fld := ⟨0xE08, 1, 1, 3, 2⟩
def GAUGE_STATUS_ANCHOR : Fld := ⟨0xE08, 1, 1, 1, 0⟩
def GAUGE_REM_REM : Fld := ⟨0xE09, 1, 1, 31, 0⟩
def GAUGE_FCC_FCC : Fld := ⟨0xE0A, 1, 1, 19, 0⟩
def GAUGE_RSV_Q_RSV : Fld := ⟨0xE0B, 1, 1, 19, 0⟩
def GAUGE_VLY_Q_VLY : Fld := ⟨0xE0C, 1, 1, 19, 0⟩
def GAUGE_AVAIL_Q_AVAIL : Fld := ⟨0xE0D, 1, 1, 19, 0⟩
def GAUGE_ERR_ERR : Fld := ⟨0xE0E, 1, 1, 19, 0⟩
def GAUGE_I_I_PACK : Fld := ⟨0xE0F, 1, 1, 15, 0⟩
def LEARN_DQ_DQ : Fld := ⟨0xE10, 1, 1, 5, 0⟩
def LEARN_LAST_RESULT : Fld := ⟨0xE11, 1, 1, 31, 28⟩
def LEARN_LAST_Q_MEAS : Fld := ⟨0xE11, 1, 1, 19, 0⟩

/-! Tables of chapter 11. -/

def LNK_CTRL_ERR_TH : Fld := ⟨0x1500, 1, 1, 15, 8⟩
def LNK_CTRL_HANDOVER_EN : Fld := ⟨0x1500, 1, 1, 1, 1⟩
def LNK_CTRL_LINK_EN : Fld := ⟨0x1500, 1, 1, 0, 0⟩
def LNK_STATUS_PRESENT : Fld := ⟨0x1501, 1, 1, 31, 24⟩
def LNK_STATUS_HOLDER : Fld := ⟨0x1501, 1, 1, 22, 20⟩
def LNK_STATUS_HOLDER_VALID : Fld := ⟨0x1501, 1, 1, 19, 19⟩
def LNK_STATUS_IS_HOLDER : Fld := ⟨0x1501, 1, 1, 18, 18⟩
def LNK_STATUS_LINK_STATE : Fld := ⟨0x1501, 1, 1, 11, 8⟩
def LNK_STATUS_ADDR_CONFLICT : Fld := ⟨0x1501, 1, 1, 3, 3⟩
def LNK_STATUS_HOLDOVER : Fld := ⟨0x1501, 1, 1, 2, 2⟩
def LNK_STATUS_ELIGIBLE : Fld := ⟨0x1501, 1, 1, 1, 1⟩
def LNK_STATUS_DISCIPLINED : Fld := ⟨0x1501, 1, 1, 0, 0⟩
def LNK_DELAY_RTT : Fld := ⟨0x1502, 1, 1, 15, 0⟩
def LNK_OFFSET_OFFSET : Fld := ⟨0x1503, 1, 1, 31, 0⟩
def LNK_FN_FN : Fld := ⟨0x1504, 1, 2, 31, 0⟩
def LNK_URGENT_FN_LOW : Fld := ⟨0x1506, 1, 1, 31, 24⟩
def LNK_URGENT_DATA : Fld := ⟨0x1506, 1, 1, 23, 16⟩
def LNK_URGENT_KIND : Fld := ⟨0x1506, 1, 1, 3, 2⟩
def LNK_URGENT_VIA_ECHO : Fld := ⟨0x1506, 1, 1, 1, 1⟩
def LNK_URGENT_VALID : Fld := ⟨0x1506, 1, 1, 0, 0⟩
def LNK_TX_URGENT_SENT : Fld := ⟨0x1507, 1, 1, 31, 16⟩
def LNK_TX_ABANDONED : Fld := ⟨0x1507, 1, 1, 15, 0⟩
def LNK_ERRCNT_PREEMPTED : Fld := ⟨0x1510, 1, 8, 31, 16⟩
def LNK_ERRCNT_ERRORS : Fld := ⟨0x1510, 1, 8, 15, 0⟩

/-! Tables of chapter 12. -/

def ROOF_CTRL_START_TO : Fld := ⟨0x1600, 1, 1, 23, 16⟩
def ROOF_CTRL_DEG_WAIT : Fld := ⟨0x1600, 1, 1, 15, 8⟩
def ROOF_CTRL_FOLLOW_RETRY : Fld := ⟨0x1600, 1, 1, 0, 0⟩
def ROOF_STATUS_REQUIRED : Fld := ⟨0x1601, 1, 1, 31, 24⟩
def ROOF_STATUS_OPTIONAL : Fld := ⟨0x1601, 1, 1, 23, 16⟩
def ROOF_STATUS_PHASE : Fld := ⟨0x1601, 1, 1, 15, 12⟩
def ROOF_STATUS_PART : Fld := ⟨0x1601, 1, 1, 11, 8⟩
def ROOF_STATUS_EXCL_CAUSE : Fld := ⟨0x1601, 1, 1, 7, 4⟩
def ROOF_STATUS_TIME_SUSPECT : Fld := ⟨0x1601, 1, 1, 3, 3⟩
def ROOF_STATUS_HOLD_IN_FORCE : Fld := ⟨0x1601, 1, 1, 2, 2⟩
def ROOF_STATUS_DEGRADED : Fld := ⟨0x1601, 1, 1, 1, 1⟩
def ROOF_STATUS_RESIGNED : Fld := ⟨0x1601, 1, 1, 0, 0⟩
def ROOF_MEMBERS_PARTICIPATING : Fld := ⟨0x1602, 1, 1, 31, 24⟩
def ROOF_MEMBERS_EXCLUDED : Fld := ⟨0x1602, 1, 1, 23, 16⟩
def ROOF_MEMBERS_SUSPECT : Fld := ⟨0x1602, 1, 1, 15, 8⟩
def ROOF_MEMBERS_READY : Fld := ⟨0x1602, 1, 1, 7, 0⟩
def ROOF_FLOOR_OWN_FEATURES : Fld := ⟨0x1603, 1, 1, 31, 16⟩
def ROOF_FLOOR_FLOOR : Fld := ⟨0x1603, 1, 1, 15, 0⟩
def ROOF_HOLD_HOLD_TOTAL : Fld := ⟨0x1604, 1, 1, 31, 0⟩
def ROOF_MODES_MODE : Arr := ⟨0x1605, 1, 4, 4, 8⟩
def ROOF_COMPAT_ROOF_MIN_COMPAT : Fld := ⟨0x1606, 1, 1, 31, 16⟩
def ROOF_COMPAT_OWN_COMPAT : Fld := ⟨0x1606, 1, 1, 15, 0⟩

/-! Tables of chapter 13. -/

def VLY_CFG_RSW : Fld := ⟨0x1700, 1, 1, 23, 16⟩
def VLY_CFG_VLY_SLEW : Fld := ⟨0x1700, 1, 1, 15, 12⟩
def VLY_CFG_FS_TH : Fld := ⟨0x1700, 1, 1, 10, 8⟩
def VLY_CFG_VLY_EN : Fld := ⟨0x1700, 1, 1, 0, 0⟩
def VLY_POLICY_OFF_IMAX : Fld := ⟨0x1701, 1, 1, 15, 8⟩
def VLY_POLICY_AUX_PREF : Fld := ⟨0x1701, 1, 1, 7, 6⟩
def VLY_POLICY_FS_OK : Fld := ⟨0x1701, 1, 1, 2, 2⟩
def VLY_POLICY_STANDBY_OK : Fld := ⟨0x1701, 1, 1, 1, 1⟩
def VLY_POLICY_OFFER_EN : Fld := ⟨0x1701, 1, 1, 0, 0⟩
def VLY_CMD_END_REQ : Fld := ⟨0x1702, 1, 1, 0, 0⟩
def VLY_STATUS_CN : Fld := ⟨0x1708, 1, 1, 31, 24⟩
def VLY_STATUS_AUX_MODE : Fld := ⟨0x1708, 1, 1, 13, 12⟩
def VLY_STATUS_SAFE_LOW : Fld := ⟨0x1708, 1, 1, 11, 11⟩
def VLY_STATUS_IN_WINDOW : Fld := ⟨0x1708, 1, 1, 10, 10⟩
def VLY_STATUS_FS_ARMED : Fld := ⟨0x1708, 1, 1, 9, 9⟩
def VLY_STATUS_STBY_DUTY : Fld := ⟨0x1708, 1, 1, 8, 8⟩
def VLY_STATUS_SWAP : Fld := ⟨0x1708, 1, 1, 6, 4⟩
def VLY_STATUS_SW : Fld := ⟨0x1708, 1, 1, 3, 2⟩
def VLY_STATUS_ROLE : Fld := ⟨0x1708, 1, 1, 1, 0⟩
def VLY_CONTRACT_SINKS : Fld := ⟨0x1709, 1, 1, 31, 24⟩
def VLY_CONTRACT_FS_AUTH : Fld := ⟨0x1709, 1, 1, 23, 23⟩
def VLY_CONTRACT_STANDBY : Fld := ⟨0x1709, 1, 1, 22, 20⟩
def VLY_CONTRACT_STANDBY_VALID : Fld := ⟨0x1709, 1, 1, 19, 19⟩
def VLY_CONTRACT_SOURCE : Fld := ⟨0x1709, 1, 1, 18, 16⟩
def VLY_CONTRACT_V_C : Fld := ⟨0x1709, 1, 1, 15, 8⟩
def VLY_CONTRACT_I_C : Fld := ⟨0x1709, 1, 1, 7, 0⟩
def VLY_ENERGY_E : Fld := ⟨0x170A, 1, 1, 31, 16⟩
def VLY_ENERGY_DELIVERED : Fld := ⟨0x170A, 1, 1, 15, 0⟩
def VLY_MEAS_I_VLY : Fld := ⟨0x170B, 1, 1, 31, 16⟩
def VLY_MEAS_V_VLY : Fld := ⟨0x170B, 1, 1, 15, 0⟩
def VLY_LAST_REASON : Fld := ⟨0x170C, 1, 1, 31, 24⟩
def VLY_LAST_CN : Fld := ⟨0x170C, 1, 1, 23, 16⟩
def VLY_LAST_PEER : Fld := ⟨0x170C, 1, 1, 10, 8⟩
def VLY_LAST_SENT : Fld := ⟨0x170C, 1, 1, 0, 0⟩

/-! Tables of chapter 14. -/

def HP_ID_DEVICE_ID : Fld := ⟨0x10000, 1, 1, 31, 16⟩
def HP_ID_REVISION : Fld := ⟨0x10000, 1, 1, 15, 8⟩
def HP_ID_ADDR : Fld := ⟨0x10000, 1, 1, 2, 0⟩
def HP_STATUS_PURLIN_FAIL : Fld := ⟨0x10001, 1, 1, 28, 28⟩
def HP_STATUS_BOOT_STAGE : Fld := ⟨0x10001, 1, 1, 27, 24⟩
def HP_STATUS_MODE : Fld := ⟨0x10001, 1, 1, 23, 20⟩
def HP_STATUS_FIRQ : Fld := ⟨0x10001, 1, 1, 19, 19⟩
def HP_STATUS_IRQ : Fld := ⟨0x10001, 1, 1, 18, 18⟩
def HP_STATUS_RING_NE : Fld := ⟨0x10001, 1, 1, 17, 14⟩
def HP_STATUS_RING_OVF : Fld := ⟨0x10001, 1, 1, 13, 13⟩
def HP_STATUS_SQ_LOW : Fld := ⟨0x10001, 1, 1, 12, 12⟩
def HP_STATUS_THATCH_ABSENT : Fld := ⟨0x10001, 1, 1, 11, 11⟩
def HP_STATUS_ADOPTING : Fld := ⟨0x10001, 1, 1, 10, 10⟩
def HP_STATUS_RESET_SEEN : Fld := ⟨0x10001, 1, 1, 9, 9⟩
def HP_STATUS_ENGINE_READY : Fld := ⟨0x10001, 1, 1, 8, 8⟩
def HP_STATUS_ACC_COUNT : Fld := ⟨0x10001, 1, 1, 7, 0⟩
def HP_DOORBELL_RING_Q : Fld := ⟨0x10002, 1, 1, 11, 0⟩
def HP_SQ_MODE_STAGE_Q : Fld := ⟨0x10003, 1, 1, 11, 0⟩
def SQ_LEVEL_STAGED : Fld := ⟨0x10004, 1, 12, 24, 16⟩
def SQ_LEVEL_FREE : Fld := ⟨0x10004, 1, 12, 8, 0⟩
def RNG_WR_WR : Fld := ⟨0x10010, 1, 4, 15, 0⟩
def RNG_PTR_REL : Fld := ⟨0x10014, 1, 4, 31, 16⟩
def RNG_PTR_RD : Fld := ⟨0x10014, 1, 4, 15, 0⟩
def HP_RING_OVF_OVF : Fld := ⟨0x10018, 1, 1, 2, 0⟩
def DEV_ID_DEVICE_ID : Fld := ⟨0x0, 1, 1, 31, 16⟩
def DEV_ID_REVISION : Fld := ⟨0x0, 1, 1, 15, 8⟩
def DEV_ID_ADDR : Fld := ⟨0x0, 1, 1, 2, 0⟩
def DEV_STATUS_STATUS : Fld := ⟨0x1, 1, 1, 31, 0⟩
def ENG_WEIGHT_W : Arr := ⟨0x1800, 1, 4, 4, 6⟩
def ENG_SPI_CNT_REJECTED : Fld := ⟨0x1801, 1, 1, 31, 16⟩
def ENG_SPI_CNT_CRC_ERR : Fld := ⟨0x1801, 1, 1, 15, 0⟩
def ENG_TAG_CNT_CONFLICTS : Fld := ⟨0x1802, 1, 1, 31, 16⟩
def ENG_TAG_CNT_DUPLICATES : Fld := ⟨0x1802, 1, 1, 15, 0⟩
def ENG_FENCE_FALL_ACTIVE : Fld := ⟨0x1803, 1, 1, 31, 31⟩
def ENG_FENCE_FALL_QUEUE : Fld := ⟨0x1803, 1, 1, 27, 24⟩
def ENG_FENCE_HELD : Fld := ⟨0x1803, 1, 1, 11, 0⟩
def ENG_INFLIGHT_COUNT : Arr := ⟨0x1804, 3, 8, 8, 4⟩

/-! Tables of chapter 16. -/

def EVT_EN_EN : Fld := ⟨0x1100, 1, 28, 31, 0⟩
def EVT_COAL_COUNT_TH : Fld := ⟨0x1120, 1, 28, 31, 24⟩
def EVT_COAL_TIME_TH : Fld := ⟨0x1120, 1, 28, 15, 0⟩
def EVT_PEND_N_PEND : Fld := ⟨0x1140, 1, 28, 31, 0⟩
def EVT_LAT_LAT : Fld := ⟨0x1160, 1, 28, 31, 0⟩
def EVT_CTRL_GDIS : Fld := ⟨0x1180, 1, 1, 0, 0⟩
def EVT_PEND_F_PEND : Fld := ⟨0x1200, 1, 28, 31, 0⟩
def EVT_CLASS_CLASS : Fld := ⟨0x1220, 1, 28, 31, 0⟩
def EVT_SUM_N_GROUPS : Fld := ⟨0x10020, 1, 1, 31, 0⟩
def EVT_SUM_F_GROUPS : Fld := ⟨0x10021, 1, 1, 31, 0⟩
def EVT_FPEND_PEND : Fld := ⟨0x10022, 1, 1, 31, 0⟩
def EVT_FACK_ACK : Fld := ⟨0x10023, 1, 1, 31, 0⟩
def EVT_FGRP_VALID : Fld := ⟨0x10024, 1, 1, 8, 8⟩
def EVT_FGRP_G : Fld := ⟨0x10024, 1, 1, 4, 0⟩
def EVT_HSTAT_DELIVERIES : Fld := ⟨0x10025, 1, 1, 31, 16⟩
def EVT_HSTAT_GDIS : Fld := ⟨0x10025, 1, 1, 0, 0⟩

/-! Tables of chapter 17. -/

def TH_CFG_SUS_DIE : Fld := ⟨0xF00, 1, 1, 19, 16⟩
def TH_CFG_TH_RETRY : Fld := ⟨0xF00, 1, 1, 12, 12⟩
def TH_CFG_T_DESC_EST : Fld := ⟨0xF00, 1, 1, 9, 0⟩
def TH_GAP_GAP_B : Fld := ⟨0xF01, 1, 1, 25, 16⟩
def TH_GAP_GAP_N : Fld := ⟨0xF01, 1, 1, 9, 0⟩
def TX_CFG_TX_EN : Fld := ⟨0xF08, 1, 8, 31, 31⟩
def TX_CFG_TX_100K : Fld := ⟨0xF08, 1, 8, 30, 30⟩
def TX_CFG_TX_B : Fld := ⟨0xF08, 1, 8, 28, 16⟩
def TX_CFG_SUS_TX : Fld := ⟨0xF08, 1, 8, 4, 0⟩
def TX_TH_TX_ABS : Fld := ⟨0xF10, 1, 8, 31, 24⟩
def TX_TH_TX_SHDN : Fld := ⟨0xF10, 1, 8, 23, 16⟩
def TX_TH_TX_THROT : Fld := ⟨0xF10, 1, 8, 15, 8⟩
def TX_TH_TX_WARN : Fld := ⟨0xF10, 1, 8, 7, 0⟩
def TX_NBR_NB2_EN : Fld := ⟨0xF18, 1, 8, 23, 23⟩
def TX_NBR_NB2 : Fld := ⟨0xF18, 1, 8, 20, 16⟩
def TX_NBR_NB1_EN : Fld := ⟨0xF18, 1, 8, 15, 15⟩
def TX_NBR_NB1 : Fld := ⟨0xF18, 1, 8, 12, 8⟩
def TX_NBR_NB0_EN : Fld := ⟨0xF18, 1, 8, 7, 7⟩
def TX_NBR_NB0 : Fld := ⟨0xF18, 1, 8, 4, 0⟩
def TH_STATUS_TH_LATCH : Fld := ⟨0xF20, 1, 1, 31, 31⟩
def TH_STATUS_THROTTLING : Fld := ⟨0xF20, 1, 1, 30, 30⟩
def TH_STATUS_WARNING : Fld := ⟨0xF20, 1, 1, 29, 29⟩
def TH_STATUS_HOT_SENSOR : Fld := ⟨0xF20, 1, 1, 20, 16⟩
def TH_STATUS_HOT_VALUE : Fld := ⟨0xF20, 1, 1, 15, 0⟩
def TH_SUSPECT_SUSPECT : Fld := ⟨0xF21, 1, 1, 31, 0⟩
def TH_FAST_FAST : Fld := ⟨0xF22, 1, 1, 31, 0⟩
def TH_LAST_KIND : Fld := ⟨0xF23, 1, 1, 31, 30⟩
def TH_LAST_SENSOR : Fld := ⟨0xF23, 1, 1, 28, 24⟩
def TH_LAST_T_PRED : Fld := ⟨0xF23, 1, 1, 15, 0⟩

/-! Tables of chapter 18. -/

def ADC_SLOT_E4 : Fld := ⟨0x1000, 1, 208, 29, 24⟩
def ADC_SLOT_E3 : Fld := ⟨0x1000, 1, 208, 23, 18⟩
def ADC_SLOT_E2 : Fld := ⟨0x1000, 1, 208, 17, 12⟩
def ADC_SLOT_E1 : Fld := ⟨0x1000, 1, 208, 11, 6⟩
def ADC_SLOT_E0 : Fld := ⟨0x1000, 1, 208, 5, 0⟩
def ADC_PRIO_PRIO : Arr := ⟨0x10D0, 9, 2, 2, 16⟩
def ADC_LIMSET_HIGH : Fld := ⟨0x10D9, 1, 15, 29, 16⟩
def ADC_LIMSET_LOW : Fld := ⟨0x10D9, 1, 15, 13, 0⟩
def ADC_LIMSEL_SET : Arr := ⟨0x10E8, 17, 4, 4, 8⟩
def ADC_CTRL_CAL_EN : Fld := ⟨0x10F9, 1, 1, 8, 8⟩
def ADC_CTRL_LIM_CNT : Fld := ⟨0x10F9, 1, 1, 2, 0⟩
def ADC_STATUS_SUBS : Fld := ⟨0x10FA, 1, 1, 31, 24⟩
def ADC_STATUS_RETIRED : Fld := ⟨0x10FA, 1, 1, 23, 20⟩
def ADC_STATUS_CAL_FAIL : Fld := ⟨0x10FA, 1, 1, 19, 16⟩
def ADC_STATUS_CALIBRATING : Fld := ⟨0x10FA, 1, 1, 15, 12⟩
def ADC_STATUS_LOW_POWER : Fld := ⟨0x10FA, 1, 1, 8, 8⟩
def ADC_STATUS_LOST : Fld := ⟨0x10FA, 1, 1, 7, 0⟩
def ADC_CAL_GAIN : Fld := ⟨0x10FB, 1, 4, 31, 16⟩
def ADC_CAL_OFFSET : Fld := ⟨0x10FB, 1, 4, 15, 0⟩

/-! Tables of chapter 19. -/

def RTC_DATE_WDAY : Fld := ⟨0x1300, 1, 1, 26, 24⟩
def RTC_DATE_YEAR : Fld := ⟨0x1300, 1, 1, 23, 16⟩
def RTC_DATE_MONTH : Fld := ⟨0x1300, 1, 1, 15, 8⟩
def RTC_DATE_DAY : Fld := ⟨0x1300, 1, 1, 7, 0⟩
def RTC_TIME_HOUR : Fld := ⟨0x1301, 1, 1, 23, 16⟩
def RTC_TIME_MINUTE : Fld := ⟨0x1301, 1, 1, 15, 8⟩
def RTC_TIME_SECOND : Fld := ⟨0x1301, 1, 1, 7, 0⟩
def RTC_SUBSEC_PRESC : Fld := ⟨0x1302, 1, 1, 14, 0⟩
def RTC_CTRL_HALT : Fld := ⟨0x1303, 1, 1, 0, 0⟩
def RTC_CAL_CAL : Fld := ⟨0x1304, 1, 1, 9, 0⟩
def RTC_XTAL_CL_XOUT : Fld := ⟨0x1305, 1, 1, 12, 8⟩
def RTC_XTAL_CL_XIN : Fld := ⟨0x1305, 1, 1, 4, 0⟩
def RTC_STATUS_ALMF : Fld := ⟨0x1306, 1, 1, 7, 6⟩
def RTC_STATUS_TRIM_SRC : Fld := ⟨0x1306, 1, 1, 5, 4⟩
def RTC_STATUS_TRIM_BUSY : Fld := ⟨0x1306, 1, 1, 3, 3⟩
def RTC_STATUS_VBK_LOW : Fld := ⟨0x1306, 1, 1, 2, 2⟩
def RTC_STATUS_OSC_FAIL : Fld := ⟨0x1306, 1, 1, 1, 1⟩
def RTC_STATUS_TIME_VALID : Fld := ⟨0x1306, 1, 1, 0, 0⟩
def RTC_ALM_EN : Fld := ⟨0x1308, 1, 2, 31, 31⟩
def RTC_ALM_WAKE : Fld := ⟨0x1308, 1, 2, 30, 30⟩
def RTC_ALM_M_DAY : Fld := ⟨0x1308, 1, 2, 29, 29⟩
def RTC_ALM_DAY : Fld := ⟨0x1308, 1, 2, 28, 24⟩
def RTC_ALM_M_HOUR : Fld := ⟨0x1308, 1, 2, 23, 23⟩
def RTC_ALM_HOUR : Fld := ⟨0x1308, 1, 2, 20, 16⟩
def RTC_ALM_M_MIN : Fld := ⟨0x1308, 1, 2, 15, 15⟩
def RTC_ALM_MINUTE : Fld := ⟨0x1308, 1, 2, 13, 8⟩
def RTC_ALM_M_SEC : Fld := ⟨0x1308, 1, 2, 7, 7⟩
def RTC_ALM_SECOND : Fld := ⟨0x1308, 1, 2, 5, 0⟩
def EV_CFG_WAKE : Fld := ⟨0x130C, 1, 4, 6, 6⟩
def EV_CFG_EDGE : Fld := ⟨0x130C, 1, 4, 5, 4⟩
def EV_CFG_FILT : Fld := ⟨0x130C, 1, 4, 2, 0⟩
def EV_STATUS_OVF : Fld := ⟨0x1318, 1, 1, 27, 24⟩
def EV_STATUS_LEVEL : Fld := ⟨0x1318, 1, 1, 19, 16⟩
def EV_STATUS_COUNT : Arr := ⟨0x1318, 1, 3, 4, 4⟩
def BK_SCRATCH_DATA : Fld := ⟨0x1320, 1, 16, 31, 0⟩

/-! Tables of chapter 20. -/

def TRUST_STATUS_RESTARTS : Fld := ⟨0x1B00, 1, 1, 23, 20⟩
def TRUST_STATUS_LOCKSTEP : Fld := ⟨0x1B00, 1, 1, 19, 19⟩
def TRUST_STATUS_THATCH_HELD : Fld := ⟨0x1B00, 1, 1, 18, 18⟩
def TRUST_STATUS_ARB_PENDING : Fld := ⟨0x1B00, 1, 1, 17, 17⟩
def TRUST_STATUS_TRIAL : Fld := ⟨0x1B00, 1, 1, 16, 16⟩
def TRUST_STATUS_THATCH_STATE : Fld := ⟨0x1B00, 1, 1, 11, 8⟩
def TRUST_STATUS_PURLIN_REFRESH : Fld := ⟨0x1B00, 1, 1, 1, 1⟩
def TRUST_STATUS_ACTIVE_BANK : Fld := ⟨0x1B00, 1, 1, 0, 0⟩
def FW_VER_PURLIN_VERSION : Fld := ⟨0x1B01, 1, 1, 31, 0⟩
def FW_VER_THATCH_VERSION : Fld := ⟨0x1B02, 1, 1, 31, 0⟩
def FW_ARB_IMG_ARB : Fld := ⟨0x1B03, 1, 1, 22, 16⟩
def FW_ARB_ARB_THATCH : Fld := ⟨0x1B03, 1, 1, 14, 8⟩
def FW_ARB_ARB_PURLIN : Fld := ⟨0x1B03, 1, 1, 6, 0⟩
def HWD_CFG_HWD_EN : Fld := ⟨0x1B04, 1, 1, 31, 31⟩
def HWD_CFG_ACTION : Fld := ⟨0x1B04, 1, 1, 17, 16⟩
def HWD_CFG_PERIOD : Fld := ⟨0x1B04, 1, 1, 15, 0⟩
def HWD_STATUS_EXPIRIES : Fld := ⟨0x1B05, 1, 1, 23, 16⟩
def HWD_STATUS_PROFILE_ACTIVE : Fld := ⟨0x1B05, 1, 1, 8, 8⟩
def HWD_STATUS_ELAPSED : Fld := ⟨0x1B05, 1, 1, 6, 0⟩
def TWD_CFG_TWD_PERIOD : Fld := ⟨0x1B06, 1, 1, 7, 0⟩
def PERM_PERF_READ : Fld := ⟨0x1B07, 1, 1, 0, 0⟩
def FW_LAST_RESULT : Fld := ⟨0x1B08, 1, 1, 31, 28⟩
def FW_LAST_CAUSE : Fld := ⟨0x1B08, 1, 1, 27, 24⟩
def FW_LAST_KIND : Fld := ⟨0x1B08, 1, 1, 1, 1⟩
def FW_LAST_BANK : Fld := ⟨0x1B08, 1, 1, 0, 0⟩
def SAFE_ADDR_VALID : Fld := ⟨0x1B20, 2, 16, 31, 31⟩
def SAFE_ADDR_ADDR : Fld := ⟨0x1B20, 2, 16, 15, 0⟩
def SAFE_VAL_VALUE : Fld := ⟨0x1B21, 2, 16, 31, 0⟩

/-! Tables of chapter 21. -/

def BG_CTRL_TLM_PERIOD : Fld := ⟨0x310, 1, 1, 31, 16⟩
def BG_CTRL_TLM_FLASH : Fld := ⟨0x310, 1, 1, 8, 8⟩
def BG_STATUS_PAUSED : Fld := ⟨0x311, 1, 1, 23, 16⟩
def BG_STATUS_ST_ACTIVE : Fld := ⟨0x311, 1, 1, 11, 8⟩
def BG_ECC_CORRECTED : Fld := ⟨0x312, 1, 1, 31, 16⟩
def BG_ECC_UNCORRECTED : Fld := ⟨0x312, 1, 1, 15, 0⟩
def BG_ECC_LAST_MEM : Fld := ⟨0x313, 1, 1, 31, 28⟩
def BG_ECC_LAST_WORD : Fld := ⟨0x313, 1, 1, 23, 0⟩
def BG_WEAR_READY : Fld := ⟨0x314, 1, 1, 31, 24⟩
def BG_WEAR_MAX_ERASE : Fld := ⟨0x314, 1, 1, 16, 0⟩

/-! Tables of chapter 22. -/

def GUT_STATUS_PENDING : Fld := ⟨0x1A00, 1, 1, 27, 24⟩
def GUT_STATUS_RECORDS : Fld := ⟨0x1A00, 1, 1, 12, 0⟩
def GUT_SEQ_NEWEST : Fld := ⟨0x1A01, 1, 1, 31, 0⟩
def GUT_CNT_ABANDONED : Fld := ⟨0x1A02, 1, 1, 31, 16⟩
def GUT_CNT_DAMAGED : Fld := ⟨0x1A02, 1, 1, 15, 8⟩
def GUT_CNT_DROPPED : Fld := ⟨0x1A02, 1, 1, 7, 0⟩
def GUT_SEL_SEQ : Fld := ⟨0x1A03, 1, 1, 31, 0⟩
def GUT_BUF_STATUS_LOADING : Fld := ⟨0x1A04, 1, 1, 1, 1⟩
def GUT_BUF_STATUS_FOUND : Fld := ⟨0x1A04, 1, 1, 0, 0⟩
def TRC_CFG_TRC_EN : Fld := ⟨0x1A08, 1, 1, 31, 31⟩
def TRC_CFG_PROFILE : Fld := ⟨0x1A08, 1, 1, 30, 30⟩
def TRC_CFG_POST : Fld := ⟨0x1A08, 1, 1, 23, 16⟩
def TRC_CFG_CKPT_PERIOD : Fld := ⟨0x1A08, 1, 1, 15, 8⟩
def TRC_CFG_COPY : Fld := ⟨0x1A08, 1, 1, 7, 6⟩
def TRC_CFG_AUTO_REARM : Fld := ⟨0x1A08, 1, 1, 5, 5⟩
def TRC_CFG_RST_COPY : Fld := ⟨0x1A08, 1, 1, 4, 4⟩
def TRC_TRIG_T_THATCH : Fld := ⟨0x1A09, 1, 1, 12, 12⟩
def TRC_TRIG_T_EV : Fld := ⟨0x1A09, 1, 1, 11, 8⟩
def TRC_TRIG_T_RESET : Fld := ⟨0x1A09, 1, 1, 5, 5⟩
def TRC_TRIG_T_ADOPT : Fld := ⟨0x1A09, 1, 1, 4, 4⟩
def TRC_TRIG_T_URGENT : Fld := ⟨0x1A09, 1, 1, 3, 3⟩
def TRC_TRIG_T_THERMAL : Fld := ⟨0x1A09, 1, 1, 2, 2⟩
def TRC_TRIG_T_FDESC : Fld := ⟨0x1A09, 1, 1, 1, 1⟩
def TRC_TRIG_T_SUP : Fld := ⟨0x1A09, 1, 1, 0, 0⟩
def TRC_STATUS_STATE : Fld := ⟨0x1A0A, 1, 1, 31, 28⟩
def TRC_STATUS_CAUSE : Fld := ⟨0x1A0A, 1, 1, 27, 24⟩
def TRC_STATUS_TRIG_MISSED : Fld := ⟨0x1A0A, 1, 1, 23, 16⟩
def TRC_STATUS_COVERAGE : Fld := ⟨0x1A0A, 1, 1, 15, 0⟩
def TRC_FREEZE_TIME : Fld := ⟨0x1A0B, 1, 1, 31, 0⟩
def CAP_SLOT_VALID : Fld := ⟨0x1A0C, 1, 2, 31, 31⟩
def CAP_SLOT_REPLAYABLE : Fld := ⟨0x1A0C, 1, 2, 30, 30⟩
def CAP_SLOT_ERASING : Fld := ⟨0x1A0C, 1, 2, 29, 29⟩
def CAP_SLOT_CAUSE : Fld := ⟨0x1A0C, 1, 2, 28, 25⟩
def CAP_SLOT_LENGTH : Fld := ⟨0x1A0C, 1, 2, 20, 0⟩
def CAP_FREE_FREE : Fld := ⟨0x1A0E, 1, 1, 1, 0⟩
def RPL_STATUS_RPL_STATE : Fld := ⟨0x1A10, 1, 1, 31, 28⟩
def RPL_STATUS_INPUT_SUB : Fld := ⟨0x1A10, 1, 1, 27, 27⟩
def RPL_STATUS_INTERVALS : Fld := ⟨0x1A10, 1, 1, 15, 0⟩
def RPL_DIV_CYCLE : Fld := ⟨0x1A11, 1, 2, 31, 0⟩
def GUT_BUF_DATA : Fld := ⟨0x1A40, 1, 64, 31, 0⟩

/-! Tables of chapter 23. -/

def PC_CTRL_PC_EN : Fld := ⟨0x1900, 1, 64, 31, 31⟩
def PC_CTRL_PC_EVENT : Fld := ⟨0x1900, 1, 64, 6, 0⟩
def PC_SMP_SMP_OFS : Fld := ⟨0x19C0, 1, 1, 31, 16⟩
def PC_SMP_SMP_N : Fld := ⟨0x19C0, 1, 1, 15, 0⟩
def PC_DUMP_DUMP_PERIOD : Fld := ⟨0x19C1, 1, 1, 16, 0⟩
def PC_STATUS_SMP_LOST : Fld := ⟨0x19C2, 1, 1, 31, 24⟩
def PC_STATUS_DUMP_DROPPED : Fld := ⟨0x19C2, 1, 1, 23, 16⟩
def PC_STATUS_SMP_HELD : Fld := ⟨0x19C2, 1, 1, 8, 0⟩
def PC_OVF_OVF : Fld := ⟨0x19C3, 1, 2, 31, 0⟩

/-! Tables of chapter 24. -/

def CLK_CFG_REF_AUTO : Fld := ⟨0x1C00, 1, 1, 2, 2⟩
def CLK_CFG_REF_SEL : Fld := ⟨0x1C00, 1, 1, 1, 0⟩
def CLK_STATUS_PLL_LOSS : Fld := ⟨0x1C01, 1, 1, 8, 8⟩
def CLK_STATUS_LPO_BAD : Fld := ⟨0x1C01, 1, 1, 7, 7⟩
def CLK_STATUS_ALIGN : Fld := ⟨0x1C01, 1, 1, 6, 6⟩
def CLK_STATUS_XTAL_OK : Fld := ⟨0x1C01, 1, 1, 5, 5⟩
def CLK_STATUS_REF_LOST : Fld := ⟨0x1C01, 1, 1, 4, 4⟩
def CLK_STATUS_REF_ACTIVE : Fld := ⟨0x1C01, 1, 1, 3, 2⟩
def CLK_STATUS_PLL_LOCKED : Fld := ⟨0x1C01, 1, 1, 1, 1⟩
def SYNC_CFG_SYNC_EN : Fld := ⟨0x1C02, 1, 1, 31, 31⟩
def SYNC_CFG_SO_SRC : Fld := ⟨0x1C02, 1, 1, 25, 24⟩
def SYNC_CFG_SO_RAIL : Fld := ⟨0x1C02, 1, 1, 20, 16⟩
def SYNC_CFG_SO_DIV : Fld := ⟨0x1C02, 1, 1, 9, 0⟩
def SYNC_STATUS_SYNC_VALID : Fld := ⟨0x1C03, 1, 1, 31, 31⟩
def SYNC_STATUS_FSYNC : Fld := ⟨0x1C03, 1, 1, 30, 16⟩
def SYNC_STATUS_PERIOD : Fld := ⟨0x1C03, 1, 1, 15, 0⟩
def PD_STATUS_ISO : Fld := ⟨0x1C04, 1, 1, 19, 10⟩
def PD_STATUS_ON : Fld := ⟨0x1C04, 1, 1, 9, 0⟩

/-! Base address of each word. -/

def MODE_STATUS : Nat := 0x100
def MODE_CTRL : Nat := 0x101
def RESET_CAUSE : Nat := 0x102
def ADOPT_FAIL : Nat := 0x103
def ADOPT_STATUS : Nat := 0x104
def COLD_STATUS : Nat := 0x105
def WAKE_CFG : Nat := 0x106
def OTP_STATUS : Nat := 0x1400
def OTP_UID : Nat := 0x1401
def TRUSS_STATUS : Nat := 0x1408
def TRUSS_SEQ : Nat := 0x1409
def TRUSS_ID : Nat := 0x140A
def SHARED_DIGEST : Nat := 0x140C
def HC_CFG : Nat := 0x400
def HC_VSET : Nat := 0x401
def HC_SLEW : Nat := 0x402
def HC_DIV : Nat := 0x403
def HC_INJ : Nat := 0x404
def HC_ILIM : Nat := 0x405
def HC_INEG : Nat := 0x406
def HC_RSNS : Nat := 0x407
def HC_BRAKE : Nat := 0x408
def HC_DRV : Nat := 0x409
def HC_STATUS : Nat := 0x800
def HC_PH_CAUSE : Nat := 0x801
def HC_FREQ : Nat := 0x802
def HC_TON : Nat := 0x803
def HC_BRAKE_CNT : Nat := 0x804
def CL_CFG : Nat := 0x480
def CL_VSET : Nat := 0x481
def CL_SLEW : Nat := 0x482
def CL_INJ : Nat := 0x483
def CL_ILIM : Nat := 0x484
def CL_INEG : Nat := 0x485
def CL_BRAKE : Nat := 0x486
def CL_RSTATUS : Nat := 0x880
def CL_FREQ : Nat := 0x881
def CL_TON : Nat := 0x882
def CL_BRAKE_CNT : Nat := 0x883
def PH_CFG : Nat := 0xC00
def PH_STATUS : Nat := 0xC10
def PH_COUNT : Nat := 0xC20
def CL_CTRL : Nat := 0xC30
def CL_STATUS : Nat := 0xC32
def DRILL_RESULT : Nat := 0xC34
def SB_CFG : Nat := 0x580
def SB_VSET : Nat := 0x581
def SB_SLEW : Nat := 0x582
def SB_ILIM : Nat := 0x583
def SB_RSTATUS : Nat := 0x980
def SB_FREQ : Nat := 0x981
def LD_CFG : Nat := 0x640
def LD_SLEW : Nat := 0x641
def LD_RSTATUS : Nat := 0xA40
def GB_CFG : Nat := 0x700
def GB_ILIM : Nat := 0x701
def GB_AUX : Nat := 0x702
def GB_RSTATUS : Nat := 0xB00
def SSO_CTRL : Nat := 0x1D00
def SSO_ASSOC : Nat := 0x1D01
def SSO_STATUS : Nat := 0x1D05
def SEQ_SLOT_ON : Nat := 0x200
def SEQ_SLOT_OFF : Nat := 0x201
def SEQ_PRED : Nat := 0x202
def SEQ_TIMEOUT : Nat := 0x203
def SEQ_CTRL : Nat := 0x280
def SEQ_RETAIN : Nat := 0x281
def SEQ_SVCHOLD : Nat := 0x282
def SEQ_STATUS : Nat := 0x283
def SEQ_RSTATE : Nat := 0x284
def SEQ_RISE_FAIL : Nat := 0x288
def SEQ_FALL_FAIL : Nat := 0x289
def SEQ_GATE_TIMEOUT : Nat := 0x28A
def SEQ_T0 : Nat := 0x28B
def SUP_WIN : Nat := 0x410
def SUP_OC : Nat := 0x411
def SUP_ACT : Nat := 0x412
def SUP_STATUS : Nat := 0x810
def SUP_CTRL : Nat := 0x300
def SUP_GLOBAL : Nat := 0x301
def SUP_FIRST : Nat := 0x302
def CMP_FAULT_SUM : Nat := 0x303
def PGOOD_MASK : Nat := 0x304
def PGOOD_CFG : Nat := 0x308
def BK_CFG : Nat := 0xD00
def BK_SNS : Nat := 0xD01
def VSUP_CFG : Nat := 0xD02
def CHG_SET : Nat := 0xD03
def CHG_CTRL : Nat := 0xD04
def CHG_WD : Nat := 0xD05
def PACK_CFG : Nat := 0xD06
def BK_STATUS : Nat := 0xD08
def CHG_STATUS : Nat := 0xD09
def CHG_TIMER : Nat := 0xD0A
def CHG_FAULT : Nat := 0xD0B
def CHG_IEFF : Nat := 0xD0C
def GAUGE_CFG : Nat := 0xE00
def GAUGE_NOM : Nat := 0xE01
def GAUGE_DESC : Nat := 0xE02
def GAUGE_CTRL : Nat := 0xE03
def GAUGE_STATUS : Nat := 0xE08
def GAUGE_REM : Nat := 0xE09
def GAUGE_FCC : Nat := 0xE0A
def GAUGE_RSV : Nat := 0xE0B
def GAUGE_VLY : Nat := 0xE0C
def GAUGE_AVAIL : Nat := 0xE0D
def GAUGE_ERR : Nat := 0xE0E
def GAUGE_I : Nat := 0xE0F
def LEARN_DQ : Nat := 0xE10
def LEARN_LAST : Nat := 0xE11
def LNK_CTRL : Nat := 0x1500
def LNK_STATUS : Nat := 0x1501
def LNK_DELAY : Nat := 0x1502
def LNK_OFFSET : Nat := 0x1503
def LNK_FN : Nat := 0x1504
def LNK_URGENT : Nat := 0x1506
def LNK_TX : Nat := 0x1507
def LNK_ERRCNT : Nat := 0x1510
def ROOF_CTRL : Nat := 0x1600
def ROOF_STATUS : Nat := 0x1601
def ROOF_MEMBERS : Nat := 0x1602
def ROOF_FLOOR : Nat := 0x1603
def ROOF_HOLD : Nat := 0x1604
def ROOF_MODES : Nat := 0x1605
def ROOF_COMPAT : Nat := 0x1606
def VLY_CFG : Nat := 0x1700
def VLY_POLICY : Nat := 0x1701
def VLY_CMD : Nat := 0x1702
def VLY_STATUS : Nat := 0x1708
def VLY_CONTRACT : Nat := 0x1709
def VLY_ENERGY : Nat := 0x170A
def VLY_MEAS : Nat := 0x170B
def VLY_LAST : Nat := 0x170C
def HP_ID : Nat := 0x10000
def HP_STATUS : Nat := 0x10001
def HP_DOORBELL : Nat := 0x10002
def HP_SQ_MODE : Nat := 0x10003
def SQ_LEVEL : Nat := 0x10004
def RNG_WR : Nat := 0x10010
def RNG_PTR : Nat := 0x10014
def HP_RING_OVF : Nat := 0x10018
def DEV_ID : Nat := 0x0
def DEV_STATUS : Nat := 0x1
def ENG_WEIGHT : Nat := 0x1800
def ENG_SPI_CNT : Nat := 0x1801
def ENG_TAG_CNT : Nat := 0x1802
def ENG_FENCE : Nat := 0x1803
def ENG_INFLIGHT : Nat := 0x1804
def EVT_EN : Nat := 0x1100
def EVT_COAL : Nat := 0x1120
def EVT_PEND_N : Nat := 0x1140
def EVT_LAT : Nat := 0x1160
def EVT_CTRL : Nat := 0x1180
def EVT_PEND_F : Nat := 0x1200
def EVT_CLASS : Nat := 0x1220
def EVT_SUM_N : Nat := 0x10020
def EVT_SUM_F : Nat := 0x10021
def EVT_FPEND : Nat := 0x10022
def EVT_FACK : Nat := 0x10023
def EVT_FGRP : Nat := 0x10024
def EVT_HSTAT : Nat := 0x10025
def TH_CFG : Nat := 0xF00
def TH_GAP : Nat := 0xF01
def TX_CFG : Nat := 0xF08
def TX_TH : Nat := 0xF10
def TX_NBR : Nat := 0xF18
def TH_STATUS : Nat := 0xF20
def TH_SUSPECT : Nat := 0xF21
def TH_FAST : Nat := 0xF22
def TH_LAST : Nat := 0xF23
def ADC_SLOT : Nat := 0x1000
def ADC_PRIO : Nat := 0x10D0
def ADC_LIMSET : Nat := 0x10D9
def ADC_LIMSEL : Nat := 0x10E8
def ADC_CTRL : Nat := 0x10F9
def ADC_STATUS : Nat := 0x10FA
def ADC_CAL : Nat := 0x10FB
def RTC_DATE : Nat := 0x1300
def RTC_TIME : Nat := 0x1301
def RTC_SUBSEC : Nat := 0x1302
def RTC_CTRL : Nat := 0x1303
def RTC_CAL : Nat := 0x1304
def RTC_XTAL : Nat := 0x1305
def RTC_STATUS : Nat := 0x1306
def RTC_ALM : Nat := 0x1308
def EV_CFG : Nat := 0x130C
def EV_TS : Nat := 0x1310
def EV_STATUS : Nat := 0x1318
def BK_SCRATCH : Nat := 0x1320
def TRUST_STATUS : Nat := 0x1B00
def FW_VER_PURLIN : Nat := 0x1B01
def FW_VER_THATCH : Nat := 0x1B02
def FW_ARB : Nat := 0x1B03
def HWD_CFG : Nat := 0x1B04
def HWD_STATUS : Nat := 0x1B05
def TWD_CFG : Nat := 0x1B06
def PERM : Nat := 0x1B07
def FW_LAST : Nat := 0x1B08
def SAFE_ADDR : Nat := 0x1B20
def SAFE_VAL : Nat := 0x1B21
def BG_CTRL : Nat := 0x310
def BG_STATUS : Nat := 0x311
def BG_ECC : Nat := 0x312
def BG_ECC_LAST : Nat := 0x313
def BG_WEAR : Nat := 0x314
def GUT_STATUS : Nat := 0x1A00
def GUT_SEQ : Nat := 0x1A01
def GUT_CNT : Nat := 0x1A02
def GUT_SEL : Nat := 0x1A03
def GUT_BUF_STATUS : Nat := 0x1A04
def TRC_CFG : Nat := 0x1A08
def TRC_TRIG : Nat := 0x1A09
def TRC_STATUS : Nat := 0x1A0A
def TRC_FREEZE : Nat := 0x1A0B
def CAP_SLOT : Nat := 0x1A0C
def CAP_FREE : Nat := 0x1A0E
def RPL_STATUS : Nat := 0x1A10
def RPL_DIV : Nat := 0x1A11
def GUT_BUF : Nat := 0x1A40
def PC_CTRL : Nat := 0x1900
def PC_VAL : Nat := 0x1940
def PC_SMP : Nat := 0x19C0
def PC_DUMP : Nat := 0x19C1
def PC_STATUS : Nat := 0x19C2
def PC_OVF : Nat := 0x19C3
def CLK_CFG : Nat := 0x1C00
def CLK_STATUS : Nat := 0x1C01
def SYNC_CFG : Nat := 0x1C02
def SYNC_STATUS : Nat := 0x1C03
def PD_STATUS : Nat := 0x1C04

end Sys2Proof.W

namespace Sys2Proof

/-- Words of page 0x00, as the spec's tables list them. -/
def page00Words : List WordFam := [
  ⟨0x0, 1, 1, 0x0, 0x0, 0x0, 0x0, 0x8832B000, []⟩ /- DEV_ID -/,
  ⟨0x1, 1, 1, 0x0, 0x0, 0x0, 0x0, 0x200200, []⟩ /- DEV_STATUS -/]

/-- Words of page 0x01, as the spec's tables list them. -/
def page01Words : List WordFam := [
  ⟨0x100, 1, 1, 0x0, 0x0, 0x0, 0x0, 0x22, []⟩ /- MODE_STATUS -/,
  ⟨0x101, 1, 1, 0xF0, 0xC, 0x0, 0x0, 0x0, [⟨7, 4, 0, 2⟩, ⟨3, 3, 0, 1⟩, ⟨2, 2, 0, 1⟩]⟩ /- MODE_CTRL -/,
  ⟨0x102, 1, 1, 0x0, 0x0, 0x1FF, 0x0, 0x1, []⟩ /- RESET_CAUSE -/,
  ⟨0x103, 1, 1, 0x0, 0x0, 0x0, 0x0, 0x0, []⟩ /- ADOPT_FAIL -/,
  ⟨0x104, 1, 1, 0x0, 0x0, 0x0, 0x0, 0x0, []⟩ /- ADOPT_STATUS -/,
  ⟨0x105, 1, 1, 0x0, 0x0, 0x0, 0x0, 0x1F, []⟩ /- COLD_STATUS -/,
  ⟨0x106, 1, 1, 0xEFEF, 0x0, 0x30000, 0x0, 0x8080, [⟨15, 15, 0, 1⟩, ⟨14, 13, 0, 2⟩, ⟨11, 8, 0, 15⟩, ⟨7, 7, 0, 1⟩, ⟨6, 5, 0, 2⟩, ⟨3, 0, 0, 15⟩]⟩ /- WAKE_CFG -/]

/-- Words of page 0x02, as the spec's tables list them. -/
def page02Words : List WordFam := [
  ⟨0x200, 4, 32, 0x1FFFFFFF, 0x80000000, 0x0, 0x0, 0x50000, [⟨31, 31, 0, 1⟩, ⟨28, 16, 5, 5000⟩, ⟨15, 0, 0, 65535⟩]⟩ /- SEQ_SLOT_ON -/,
  ⟨0x201, 4, 32, 0x803FFFFF, 0x0, 0x0, 0x0, 0x0, [⟨31, 31, 0, 1⟩, ⟨21, 16, 0, 45⟩, ⟨15, 0, 0, 65535⟩]⟩ /- SEQ_SLOT_OFF -/,
  ⟨0x202, 4, 32, 0xFFFFFFFF, 0x0, 0x0, 0x0, 0x0, [⟨31, 0, 0, 4294967295⟩]⟩ /- SEQ_PRED -/,
  ⟨0x203, 4, 32, 0xFFFFFFFF, 0x0, 0x0, 0x0, 0x0, [⟨31, 16, 0, 65535⟩, ⟨15, 0, 0, 65535⟩]⟩ /- SEQ_TIMEOUT -/,
  ⟨0x280, 1, 1, 0xFFFF00, 0x7, 0x0, 0x0, 0x140100, [⟨23, 16, 1, 255⟩, ⟨15, 8, 1, 255⟩, ⟨2, 0, 0, 7⟩]⟩ /- SEQ_CTRL -/,
  ⟨0x281, 1, 1, 0xFFFFFFFF, 0x0, 0x0, 0x0, 0x0, [⟨31, 0, 0, 4294967295⟩]⟩ /- SEQ_RETAIN -/,
  ⟨0x282, 1, 1, 0x0, 0xFFFFFFFF, 0x0, 0x0, 0x0, [⟨31, 0, 0, 4294967295⟩]⟩ /- SEQ_SVCHOLD -/,
  ⟨0x283, 1, 1, 0x0, 0x0, 0x0, 0x0, 0x0, []⟩ /- SEQ_STATUS -/,
  ⟨0x284, 1, 4, 0x0, 0x0, 0x0, 0x0, 0x0, []⟩ /- SEQ_RSTATE -/,
  ⟨0x288, 1, 1, 0x0, 0x0, 0xFFFFFFFF, 0x0, 0x0, []⟩ /- SEQ_RISE_FAIL -/,
  ⟨0x289, 1, 1, 0x0, 0x0, 0xFFFFFFFF, 0x0, 0x0, []⟩ /- SEQ_FALL_FAIL -/,
  ⟨0x28A, 1, 1, 0x0, 0x0, 0xFFFFFFFF, 0x0, 0x0, []⟩ /- SEQ_GATE_TIMEOUT -/,
  ⟨0x28B, 1, 2, 0x0, 0x0, 0x0, 0x0, 0x0, []⟩ /- SEQ_T0 -/]

/-- Words of page 0x03, as the spec's tables list them. -/
def page03Words : List WordFam := [
  ⟨0x300, 1, 1, 0xE00, 0x108, 0x0, 0x0, 0x0, [⟨11, 9, 0, 7⟩, ⟨8, 8, 0, 1⟩, ⟨3, 3, 0, 1⟩]⟩ /- SUP_CTRL -/,
  ⟨0x301, 1, 1, 0x0, 0x0, 0x0, 0x0, 0x0, []⟩ /- SUP_GLOBAL -/,
  ⟨0x302, 1, 1, 0x0, 0x0, 0x0, 0x0, 0x0, []⟩ /- SUP_FIRST -/,
  ⟨0x303, 1, 1, 0x0, 0x0, 0x0, 0x0, 0x0, []⟩ /- CMP_FAULT_SUM -/,
  ⟨0x304, 1, 4, 0xFFFFFFFF, 0x0, 0x0, 0x0, 0x0, [⟨31, 0, 0, 4294967295⟩]⟩ /- PGOOD_MASK -/,
  ⟨0x308, 1, 1, 0xFFFFFFFF, 0x0, 0x0, 0x0, 0x0, [⟨31, 24, 0, 255⟩, ⟨23, 16, 0, 255⟩, ⟨15, 8, 0, 255⟩, ⟨7, 0, 0, 255⟩]⟩ /- PGOOD_CFG -/,
  ⟨0x310, 1, 1, 0xFFFF0100, 0x0, 0x0, 0x0, 0x0, [⟨31, 16, 0, 65535⟩, ⟨8, 8, 0, 1⟩]⟩ /- BG_CTRL -/,
  ⟨0x311, 1, 1, 0x0, 0x0, 0x0, 0x0, 0x0, []⟩ /- BG_STATUS -/,
  ⟨0x312, 1, 1, 0x0, 0x0, 0x0, 0x0, 0x0, []⟩ /- BG_ECC -/,
  ⟨0x313, 1, 1, 0x0, 0x0, 0x0, 0x0, 0x0, []⟩ /- BG_ECC_LAST -/,
  ⟨0x314, 1, 1, 0x0, 0x0, 0x0, 0x0, 0x0, []⟩ /- BG_WEAR -/]

/-- Words of page 0x04, as the spec's tables list them. -/
def page04Words : List WordFam := [
  ⟨0x400, 32, 4, 0x3FF00FF, 0x3C000000, 0x0, 0x0, 0x0, [⟨29, 28, 0, 2⟩, ⟨27, 27, 0, 1⟩, ⟨26, 26, 0, 1⟩, ⟨25, 25, 0, 1⟩, ⟨24, 24, 0, 1⟩, ⟨23, 20, 0, 15⟩, ⟨19, 16, 0, 15⟩, ⟨7, 0, 0, 200⟩]⟩ /- HC_CFG -/,
  ⟨0x401, 32, 4, 0xFFF, 0x0, 0x0, 0x0, 0x0, [⟨11, 0, 80, 2400⟩]⟩ /- HC_VSET -/,
  ⟨0x402, 32, 4, 0xFFFF, 0x0, 0x0, 0x0, 0xFFFF, [⟨15, 0, 1, 65535⟩]⟩ /- HC_SLEW -/,
  ⟨0x403, 32, 4, 0x0, 0x7FFF, 0x0, 0x0, 0x400, [⟨14, 0, 1024, 32767⟩]⟩ /- HC_DIV -/,
  ⟨0x404, 32, 4, 0x1F, 0x0, 0x0, 0x0, 0x0, [⟨4, 0, 0, 31⟩]⟩ /- HC_INJ -/,
  ⟨0x405, 32, 4, 0xFFF0FFF, 0x0, 0x0, 0x0, 0x1, [⟨27, 16, 0, 4095⟩, ⟨11, 0, 1, 2500⟩]⟩ /- HC_ILIM -/,
  ⟨0x406, 32, 4, 0xFFF, 0x0, 0x0, 0x0, 0x0, [⟨11, 0, 0, 1000⟩]⟩ /- HC_INEG -/,
  ⟨0x407, 32, 4, 0x0, 0xFFFF, 0x0, 0x0, 0x32, [⟨15, 0, 50, 10000⟩]⟩ /- HC_RSNS -/,
  ⟨0x408, 32, 4, 0x8F, 0x0, 0x0, 0x0, 0x0, [⟨7, 7, 0, 1⟩, ⟨3, 0, 0, 8⟩]⟩ /- HC_BRAKE -/,
  ⟨0x409, 32, 4, 0x0, 0xF, 0x0, 0x0, 0x0, [⟨3, 0, 0, 15⟩]⟩ /- HC_DRV -/,
  ⟨0x480, 32, 8, 0x3FF007F, 0x0, 0x0, 0x0, 0x0, [⟨25, 25, 0, 1⟩, ⟨24, 24, 0, 1⟩, ⟨23, 20, 0, 15⟩, ⟨19, 16, 0, 15⟩, ⟨6, 0, 0, 66⟩]⟩ /- CL_CFG -/,
  ⟨0x481, 32, 8, 0x3FF, 0x0, 0x0, 0x0, 0x0, [⟨9, 0, 120, 720⟩]⟩ /- CL_VSET -/,
  ⟨0x482, 32, 8, 0xFFFF, 0x0, 0x0, 0x0, 0xFFFF, [⟨15, 0, 1, 65535⟩]⟩ /- CL_SLEW -/,
  ⟨0x483, 32, 8, 0x1F, 0x0, 0x0, 0x0, 0x0, [⟨4, 0, 0, 31⟩]⟩ /- CL_INJ -/,
  ⟨0x484, 32, 8, 0xFFF0FFF, 0x0, 0x0, 0x0, 0x32, [⟨27, 16, 0, 4095⟩, ⟨11, 0, 50, 500⟩]⟩ /- CL_ILIM -/,
  ⟨0x485, 32, 8, 0xFFF, 0x0, 0x0, 0x0, 0x0, [⟨11, 0, 0, 300⟩]⟩ /- CL_INEG -/,
  ⟨0x486, 32, 8, 0x8F, 0x0, 0x0, 0x0, 0x0, [⟨7, 7, 0, 1⟩, ⟨3, 0, 0, 8⟩]⟩ /- CL_BRAKE -/,
  ⟨0x410, 32, 32, 0x1F1F7F7F, 0x0, 0x0, 0x0, 0x0, [⟨28, 24, 0, 20⟩, ⟨20, 16, 0, 20⟩, ⟨14, 8, 0, 127⟩, ⟨6, 0, 0, 127⟩]⟩ /- SUP_WIN -/,
  ⟨0x411, 32, 32, 0x3FFF007F, 0x0, 0x0, 0x0, 0x0, [⟨29, 16, 0, 16383⟩, ⟨6, 0, 0, 127⟩]⟩ /- SUP_OC -/,
  ⟨0x412, 32, 32, 0x0, 0x3FF, 0x0, 0x0, 0x4, [⟨9, 8, 0, 1⟩, ⟨7, 6, 0, 2⟩, ⟨5, 4, 0, 2⟩, ⟨3, 2, 1, 2⟩, ⟨1, 0, 0, 2⟩]⟩ /- SUP_ACT -/]

/-- Words of page 0x05, as the spec's tables list them. -/
def page05Words : List WordFam := [
  ⟨0x580, 32, 6, 0x7FF8F1F, 0x0, 0x0, 0x0, 0x0, [⟨26, 26, 0, 1⟩, ⟨25, 25, 0, 1⟩, ⟨24, 24, 0, 1⟩, ⟨23, 20, 0, 15⟩, ⟨19, 16, 0, 15⟩, ⟨15, 15, 0, 1⟩, ⟨11, 8, 0, 8⟩, ⟨4, 0, 0, 31⟩]⟩ /- SB_CFG -/,
  ⟨0x581, 32, 6, 0x3FF, 0x0, 0x0, 0x0, 0x0, [⟨9, 0, 60, 500⟩]⟩ /- SB_VSET -/,
  ⟨0x582, 32, 6, 0xFFFF, 0x0, 0x0, 0x0, 0xFFFF, [⟨15, 0, 1, 65535⟩]⟩ /- SB_SLEW -/,
  ⟨0x583, 32, 6, 0xFFFFFFFF, 0x0, 0x0, 0x0, 0x14, [⟨31, 24, 0, 100⟩, ⟨23, 12, 0, 4095⟩, ⟨11, 0, 20, 200⟩]⟩ /- SB_ILIM -/]

/-- Words of page 0x06, as the spec's tables list them. -/
def page06Words : List WordFam := [
  ⟨0x640, 32, 6, 0xBFF, 0x0, 0x0, 0x0, 0x0, [⟨11, 11, 0, 1⟩, ⟨9, 8, 0, 2⟩, ⟨7, 0, 32, 200⟩]⟩ /- LD_CFG -/,
  ⟨0x641, 32, 6, 0xFFFF, 0x0, 0x0, 0x0, 0xFFFF, [⟨15, 0, 1, 65535⟩]⟩ /- LD_SLEW -/]

/-- Words of page 0x07, as the spec's tables list them. -/
def page07Words : List WordFam := [
  ⟨0x700, 32, 8, 0x7FC0FFF, 0x8000000, 0x0, 0x0, 0xC8, [⟨27, 27, 0, 1⟩, ⟨26, 24, 0, 7⟩, ⟨23, 18, 0, 36⟩, ⟨11, 0, 200, 2000⟩]⟩ /- GB_CFG -/,
  ⟨0x701, 32, 8, 0xFFF0FFF, 0x0, 0x0, 0x0, 0xA0000, [⟨27, 16, 10, 100⟩, ⟨11, 0, 0, 4095⟩]⟩ /- GB_ILIM -/,
  ⟨0x702, 32, 8, 0xFFFF, 0xFFFF0000, 0x0, 0x0, 0x4000000, [⟨31, 16, 1024, 32767⟩, ⟨15, 0, 100, 4000⟩]⟩ /- GB_AUX -/]

/-- Words of page 0x08, as the spec's tables list them. -/
def page08Words : List WordFam := [
  ⟨0x800, 32, 4, 0x0, 0x0, 0x0, 0x0, 0x0, []⟩ /- HC_STATUS -/,
  ⟨0x801, 32, 4, 0x0, 0x0, 0x0, 0x0, 0x0, []⟩ /- HC_PH_CAUSE -/,
  ⟨0x802, 32, 4, 0x0, 0x0, 0x0, 0x0, 0x0, []⟩ /- HC_FREQ -/,
  ⟨0x803, 32, 4, 0x0, 0x0, 0x0, 0x0, 0x0, []⟩ /- HC_TON -/,
  ⟨0x804, 32, 4, 0x0, 0x0, 0x0, 0x0, 0x0, []⟩ /- HC_BRAKE_CNT -/,
  ⟨0x880, 32, 8, 0x0, 0x0, 0x0, 0x0, 0x0, []⟩ /- CL_RSTATUS -/,
  ⟨0x881, 32, 8, 0x0, 0x0, 0x0, 0x0, 0x0, []⟩ /- CL_FREQ -/,
  ⟨0x882, 32, 8, 0x0, 0x0, 0x0, 0x0, 0x0, []⟩ /- CL_TON -/,
  ⟨0x883, 32, 8, 0x0, 0x0, 0x0, 0x0, 0x0, []⟩ /- CL_BRAKE_CNT -/,
  ⟨0x810, 32, 32, 0x0, 0x0, 0xC01F00, 0x0, 0x0, []⟩ /- SUP_STATUS -/]

/-- Words of page 0x09, as the spec's tables list them. -/
def page09Words : List WordFam := [
  ⟨0x980, 32, 6, 0x0, 0x0, 0x0, 0x0, 0x0, []⟩ /- SB_RSTATUS -/,
  ⟨0x981, 32, 6, 0x0, 0x0, 0x0, 0x0, 0x0, []⟩ /- SB_FREQ -/]

/-- Words of page 0x0A, as the spec's tables list them. -/
def page0AWords : List WordFam := [
  ⟨0xA40, 32, 6, 0x0, 0x0, 0x0, 0x0, 0x0, []⟩ /- LD_RSTATUS -/]

/-- Words of page 0x0B, as the spec's tables list them. -/
def page0BWords : List WordFam := [
  ⟨0xB00, 32, 8, 0x0, 0x0, 0x0, 0x0, 0x0, []⟩ /- GB_RSTATUS -/]

/-- Words of page 0x0C, as the spec's tables list them. -/
def page0CWords : List WordFam := [
  ⟨0xC00, 1, 10, 0x0, 0x7, 0x0, 0x0, 0x0, [⟨2, 0, 0, 7⟩]⟩ /- PH_CFG -/,
  ⟨0xC10, 1, 10, 0x0, 0x0, 0x0, 0x0, 0x0, []⟩ /- PH_STATUS -/,
  ⟨0xC20, 1, 10, 0x0, 0x0, 0x0, 0x0, 0x0, []⟩ /- PH_COUNT -/,
  ⟨0xC30, 1, 2, 0xFFF3F0, 0x0, 0x0, 0x0, 0x0, [⟨23, 20, 0, 15⟩, ⟨19, 14, 0, 63⟩, ⟨13, 13, 0, 1⟩, ⟨12, 12, 0, 1⟩, ⟨9, 8, 0, 3⟩, ⟨7, 4, 0, 12⟩]⟩ /- CL_CTRL -/,
  ⟨0xC32, 1, 2, 0x0, 0x0, 0x10000, 0x0, 0x0, []⟩ /- CL_STATUS -/,
  ⟨0xC34, 1, 2, 0x0, 0x0, 0x0, 0x0, 0x0, []⟩ /- DRILL_RESULT -/]

/-- Words of page 0x0D, as the spec's tables list them. -/
def page0DWords : List WordFam := [
  ⟨0xD00, 1, 1, 0x0, 0xFF0FFF, 0x0, 0x0, 0xA, [⟨23, 16, 0, 200⟩, ⟨11, 8, 0, 8⟩, ⟨7, 0, 10, 250⟩]⟩ /- BK_CFG -/,
  ⟨0xD01, 1, 1, 0x0, 0xFFFFFFFF, 0x0, 0x0, 0x320032, [⟨31, 16, 50, 10000⟩, ⟨15, 0, 50, 10000⟩]⟩ /- BK_SNS -/,
  ⟨0xD02, 1, 1, 0xFFFF00, 0x7F, 0x0, 0x0, 0x0, [⟨23, 16, 0, 250⟩, ⟨15, 8, 0, 75⟩, ⟨6, 0, 0, 75⟩]⟩ /- VSUP_CFG -/,
  ⟨0xD03, 1, 1, 0x8FFF03FF, 0x0, 0x0, 0x0, 0x19A000A, [⟨31, 31, 0, 1⟩, ⟨27, 26, 0, 3⟩, ⟨25, 16, 345, 435⟩, ⟨9, 0, 10, 600⟩]⟩ /- CHG_SET -/,
  ⟨0xD04, 1, 1, 0xCF1, 0xF000, 0x0, 0x0, 0x0, [⟨15, 12, 0, 15⟩, ⟨11, 10, 0, 2⟩, ⟨7, 4, 0, 8⟩, ⟨0, 0, 0, 1⟩]⟩ /- CHG_CTRL -/,
  ⟨0xD05, 1, 1, 0x1FF, 0x0, 0x0, 0x0, 0x10A, [⟨8, 8, 0, 1⟩, ⟨7, 0, 10, 160⟩]⟩ /- CHG_WD -/,
  ⟨0xD06, 1, 1, 0x0, 0x1FFFFFFF, 0x0, 0x0, 0x9C40000, [⟨28, 16, 2500, 4500⟩, ⟨15, 15, 0, 1⟩, ⟨14, 8, 0, 100⟩, ⟨7, 0, 0, 150⟩]⟩ /- PACK_CFG -/,
  ⟨0xD08, 1, 1, 0x0, 0x0, 0x0, 0x0, 0x0, []⟩ /- BK_STATUS -/,
  ⟨0xD09, 1, 1, 0x0, 0x0, 0x0, 0x0, 0x700, []⟩ /- CHG_STATUS -/,
  ⟨0xD0A, 1, 1, 0x0, 0x0, 0x0, 0x0, 0x0, []⟩ /- CHG_TIMER -/,
  ⟨0xD0B, 1, 1, 0x0, 0x0, 0xFE, 0x0, 0x0, []⟩ /- CHG_FAULT -/,
  ⟨0xD0C, 1, 1, 0x0, 0x0, 0x0, 0x0, 0x0, []⟩ /- CHG_IEFF -/]

/-- Words of page 0x0E, as the spec's tables list them. -/
def page0EWords : List WordFam := [
  ⟨0xE00, 1, 1, 0x0, 0xFF3F1F, 0x0, 0x0, 0x100, [⟨23, 16, 0, 200⟩, ⟨13, 8, 1, 50⟩, ⟨4, 0, 0, 20⟩]⟩ /- GAUGE_CFG -/,
  ⟨0xE01, 1, 1, 0x0, 0xFFFFF, 0x0, 0x0, 0x3E8, [⟨19, 0, 1000, 1000000⟩]⟩ /- GAUGE_NOM -/,
  ⟨0xE02, 1, 1, 0x0, 0xFFFFF, 0x0, 0x0, 0x0, [⟨19, 0, 0, 1048575⟩]⟩ /- GAUGE_DESC -/,
  ⟨0xE03, 1, 1, 0x0, 0x0, 0x0, 0x1, 0x0, []⟩ /- GAUGE_CTRL -/,
  ⟨0xE08, 1, 1, 0x0, 0x0, 0x0, 0x0, 0x0, []⟩ /- GAUGE_STATUS -/,
  ⟨0xE09, 1, 1, 0x0, 0x0, 0x0, 0x0, 0x0, []⟩ /- GAUGE_REM -/,
  ⟨0xE0A, 1, 1, 0x0, 0x0, 0x0, 0x0, 0x0, []⟩ /- GAUGE_FCC -/,
  ⟨0xE0B, 1, 1, 0x0, 0x0, 0x0, 0x0, 0x0, []⟩ /- GAUGE_RSV -/,
  ⟨0xE0C, 1, 1, 0x0, 0x0, 0x0, 0x0, 0x0, []⟩ /- GAUGE_VLY -/,
  ⟨0xE0D, 1, 1, 0x0, 0x0, 0x0, 0x0, 0x0, []⟩ /- GAUGE_AVAIL -/,
  ⟨0xE0E, 1, 1, 0x0, 0x0, 0x0, 0x0, 0x0, []⟩ /- GAUGE_ERR -/,
  ⟨0xE0F, 1, 1, 0x0, 0x0, 0x0, 0x0, 0x0, []⟩ /- GAUGE_I -/,
  ⟨0xE10, 1, 1, 0x0, 0x0, 0x0, 0x0, 0x0, []⟩ /- LEARN_DQ -/,
  ⟨0xE11, 1, 1, 0x0, 0x0, 0x0, 0x0, 0x0, []⟩ /- LEARN_LAST -/]

/-- Words of page 0x0F, as the spec's tables list them. -/
def page0FWords : List WordFam := [
  ⟨0xF00, 1, 1, 0xF0000, 0x13FF, 0x0, 0x0, 0x1, [⟨19, 16, 0, 15⟩, ⟨12, 12, 0, 1⟩, ⟨9, 0, 1, 1000⟩]⟩ /- TH_CFG -/,
  ⟨0xF01, 1, 1, 0x3FF03FF, 0x0, 0x0, 0x0, 0x10001, [⟨25, 16, 1, 1000⟩, ⟨9, 0, 1, 1000⟩]⟩ /- TH_GAP -/,
  ⟨0xF08, 1, 8, 0x1F, 0xDFFF0000, 0x0, 0x0, 0x9C40000, [⟨31, 31, 0, 1⟩, ⟨30, 30, 0, 1⟩, ⟨28, 16, 2500, 4500⟩, ⟨4, 0, 0, 31⟩]⟩ /- TX_CFG -/,
  ⟨0xF10, 1, 8, 0xFF, 0xFFFFFF00, 0x0, 0x0, 0x0, [⟨31, 24, 0, 255⟩, ⟨23, 16, 0, 255⟩, ⟨15, 8, 0, 255⟩, ⟨7, 0, 0, 255⟩]⟩ /- TX_TH -/,
  ⟨0xF18, 1, 8, 0x9F9F9F, 0x0, 0x0, 0x0, 0x0, [⟨23, 23, 0, 1⟩, ⟨20, 16, 0, 31⟩, ⟨15, 15, 0, 1⟩, ⟨12, 8, 0, 31⟩, ⟨7, 7, 0, 1⟩, ⟨4, 0, 0, 31⟩]⟩ /- TX_NBR -/,
  ⟨0xF20, 1, 1, 0x0, 0x0, 0x0, 0x0, 0x0, []⟩ /- TH_STATUS -/,
  ⟨0xF21, 1, 1, 0x0, 0x0, 0x0, 0x0, 0x0, []⟩ /- TH_SUSPECT -/,
  ⟨0xF22, 1, 1, 0x0, 0x0, 0x0, 0x0, 0x0, []⟩ /- TH_FAST -/,
  ⟨0xF23, 1, 1, 0x0, 0x0, 0x0, 0x0, 0x0, []⟩ /- TH_LAST -/]

/-- Words of page 0x10, as the spec's tables list them. -/
def page10Words : List WordFam := [
  ⟨0x1000, 1, 208, 0x3FFFFFFF, 0x0, 0x0, 0x0, 0x0, [⟨29, 24, 0, 63⟩, ⟨23, 18, 0, 63⟩, ⟨17, 12, 0, 63⟩, ⟨11, 6, 0, 63⟩, ⟨5, 0, 0, 63⟩]⟩ /- ADC_SLOT -/,
  ⟨0x10D0, 1, 9, 0xFFFFFFFF, 0x0, 0x0, 0x0, 0x0, [⟨31, 30, 0, 3⟩, ⟨29, 28, 0, 3⟩, ⟨27, 26, 0, 3⟩, ⟨25, 24, 0, 3⟩, ⟨23, 22, 0, 3⟩, ⟨21, 20, 0, 3⟩, ⟨19, 18, 0, 3⟩, ⟨17, 16, 0, 3⟩, ⟨15, 14, 0, 3⟩, ⟨13, 12, 0, 3⟩, ⟨11, 10, 0, 3⟩, ⟨9, 8, 0, 3⟩, ⟨7, 6, 0, 3⟩, ⟨5, 4, 0, 3⟩, ⟨3, 2, 0, 3⟩, ⟨1, 0, 0, 3⟩]⟩ /- ADC_PRIO -/,
  ⟨0x10D9, 1, 15, 0x3FFF3FFF, 0x0, 0x0, 0x0, 0x0, [⟨29, 16, 0, 16383⟩, ⟨13, 0, 0, 16383⟩]⟩ /- ADC_LIMSET -/,
  ⟨0x10E8, 1, 17, 0xFFFFFFFF, 0x0, 0x0, 0x0, 0x0, [⟨31, 28, 0, 15⟩, ⟨27, 24, 0, 15⟩, ⟨23, 20, 0, 15⟩, ⟨19, 16, 0, 15⟩, ⟨15, 12, 0, 15⟩, ⟨11, 8, 0, 15⟩, ⟨7, 4, 0, 15⟩, ⟨3, 0, 0, 15⟩]⟩ /- ADC_LIMSEL -/,
  ⟨0x10F9, 1, 1, 0x7, 0x100, 0x0, 0x0, 0x0, [⟨8, 8, 0, 1⟩, ⟨2, 0, 0, 7⟩]⟩ /- ADC_CTRL -/,
  ⟨0x10FA, 1, 1, 0x0, 0x0, 0xF0000, 0x0, 0x0, []⟩ /- ADC_STATUS -/,
  ⟨0x10FB, 1, 4, 0x0, 0x0, 0x0, 0x0, 0x0, []⟩ /- ADC_CAL -/]

/-- Words of page 0x11, as the spec's tables list them. -/
def page11Words : List WordFam := [
  ⟨0x1100, 1, 28, 0xFFFFFFFF, 0x0, 0x0, 0x0, 0x0, [⟨31, 0, 0, 4294967295⟩]⟩ /- EVT_EN -/,
  ⟨0x1120, 1, 28, 0xFF00FFFF, 0x0, 0x0, 0x0, 0x10003E8, [⟨31, 24, 1, 255⟩, ⟨15, 0, 1, 65535⟩]⟩ /- EVT_COAL -/,
  ⟨0x1140, 1, 28, 0x0, 0x0, 0x0, 0x0, 0x0, []⟩ /- EVT_PEND_N -/,
  ⟨0x1160, 1, 28, 0x0, 0x0, 0x0, 0x0, 0x0, []⟩ /- EVT_LAT -/,
  ⟨0x1180, 1, 1, 0x1, 0x0, 0x0, 0x0, 0x0, [⟨0, 0, 0, 1⟩]⟩ /- EVT_CTRL -/]

/-- Words of page 0x12, as the spec's tables list them. -/
def page12Words : List WordFam := [
  ⟨0x1200, 1, 28, 0x0, 0x0, 0x0, 0x0, 0x0, []⟩ /- EVT_PEND_F -/,
  ⟨0x1220, 1, 28, 0xFFFFFFFF, 0x0, 0x0, 0x0, 0x0, [⟨31, 0, 0, 4294967295⟩]⟩ /- EVT_CLASS -/]

/-- Words of page 0x13, as the spec's tables list them. -/
def page13Words : List WordFam := [
  ⟨0x1300, 1, 1, 0xFFFFFF, 0x0, 0x0, 0x0, 0x6000101, [⟨23, 16, 0, 199⟩, ⟨15, 8, 1, 12⟩, ⟨7, 0, 1, 31⟩]⟩ /- RTC_DATE -/,
  ⟨0x1301, 1, 1, 0xFFFFFF, 0x0, 0x0, 0x0, 0x0, [⟨23, 16, 0, 23⟩, ⟨15, 8, 0, 59⟩, ⟨7, 0, 0, 59⟩]⟩ /- RTC_TIME -/,
  ⟨0x1302, 1, 1, 0x0, 0x0, 0x0, 0x0, 0x0, []⟩ /- RTC_SUBSEC -/,
  ⟨0x1303, 1, 1, 0x0, 0x1, 0x0, 0x0, 0x0, [⟨0, 0, 0, 1⟩]⟩ /- RTC_CTRL -/,
  ⟨0x1304, 1, 1, 0x3FF, 0x0, 0x0, 0x0, 0x0, [⟨9, 0, 0, 1023⟩]⟩ /- RTC_CAL -/,
  ⟨0x1305, 1, 1, 0x1F1F, 0x0, 0x0, 0x0, 0x0, [⟨12, 8, 0, 31⟩, ⟨4, 0, 0, 31⟩]⟩ /- RTC_XTAL -/,
  ⟨0x1306, 1, 1, 0x0, 0x0, 0xC2, 0x0, 0x30, []⟩ /- RTC_STATUS -/,
  ⟨0x1308, 1, 2, 0xFF9FBFBF, 0x0, 0x0, 0x0, 0x0, [⟨31, 31, 0, 1⟩, ⟨30, 30, 0, 1⟩, ⟨29, 29, 0, 1⟩, ⟨28, 24, 0, 31⟩, ⟨23, 23, 0, 1⟩, ⟨20, 16, 0, 23⟩, ⟨15, 15, 0, 1⟩, ⟨13, 8, 0, 59⟩, ⟨7, 7, 0, 1⟩, ⟨5, 0, 0, 59⟩]⟩ /- RTC_ALM -/,
  ⟨0x130C, 1, 4, 0x77, 0x0, 0x0, 0x0, 0x0, [⟨6, 6, 0, 1⟩, ⟨5, 4, 0, 3⟩, ⟨2, 0, 0, 7⟩]⟩ /- EV_CFG -/,
  ⟨0x1310, 1, 8, 0x0, 0x0, 0x0, 0x0, 0x0, []⟩ /- EV_TS -/,
  ⟨0x1318, 1, 1, 0x0, 0x0, 0xF000000, 0x0, 0x0, []⟩ /- EV_STATUS -/,
  ⟨0x1320, 1, 16, 0xFFFFFFFF, 0x0, 0x0, 0x0, 0x0, [⟨31, 0, 0, 4294967295⟩]⟩ /- BK_SCRATCH -/]

/-- Words of page 0x14, as the spec's tables list them. -/
def page14Words : List WordFam := [
  ⟨0x1400, 1, 1, 0x0, 0x0, 0x4, 0x0, 0x10, []⟩ /- OTP_STATUS -/,
  ⟨0x1401, 1, 4, 0x0, 0x0, 0x0, 0x0, 0x0, []⟩ /- OTP_UID -/,
  ⟨0x1408, 1, 1, 0x0, 0x0, 0x0, 0x0, 0x0, []⟩ /- TRUSS_STATUS -/,
  ⟨0x1409, 1, 1, 0x0, 0x0, 0x0, 0x0, 0x0, []⟩ /- TRUSS_SEQ -/,
  ⟨0x140A, 1, 2, 0x0, 0x0, 0x0, 0x0, 0x0, []⟩ /- TRUSS_ID -/,
  ⟨0x140C, 1, 2, 0x0, 0x0, 0x0, 0x0, 0x0, []⟩ /- SHARED_DIGEST -/]

/-- Words of page 0x15, as the spec's tables list them. -/
def page15Words : List WordFam := [
  ⟨0x1500, 1, 1, 0xFF02, 0x1, 0x0, 0x0, 0x100, [⟨15, 8, 1, 255⟩, ⟨1, 1, 0, 1⟩, ⟨0, 0, 0, 1⟩]⟩ /- LNK_CTRL -/,
  ⟨0x1501, 1, 1, 0x0, 0x0, 0x0, 0x0, 0x0, []⟩ /- LNK_STATUS -/,
  ⟨0x1502, 1, 1, 0x0, 0x0, 0x0, 0x0, 0x0, []⟩ /- LNK_DELAY -/,
  ⟨0x1503, 1, 1, 0x0, 0x0, 0x0, 0x0, 0x0, []⟩ /- LNK_OFFSET -/,
  ⟨0x1504, 1, 2, 0x0, 0x0, 0x0, 0x0, 0x0, []⟩ /- LNK_FN -/,
  ⟨0x1506, 1, 1, 0x0, 0x0, 0x1, 0x0, 0x0, []⟩ /- LNK_URGENT -/,
  ⟨0x1507, 1, 1, 0x0, 0x0, 0x0, 0x0, 0x0, []⟩ /- LNK_TX -/,
  ⟨0x1510, 1, 8, 0x0, 0x0, 0x0, 0x0, 0x0, []⟩ /- LNK_ERRCNT -/]

/-- Words of page 0x16, as the spec's tables list them. -/
def page16Words : List WordFam := [
  ⟨0x1600, 1, 1, 0xFF0000, 0xFF01, 0x0, 0x0, 0x10100, [⟨23, 16, 1, 255⟩, ⟨15, 8, 1, 255⟩, ⟨0, 0, 0, 1⟩]⟩ /- ROOF_CTRL -/,
  ⟨0x1601, 1, 1, 0x0, 0x0, 0x0, 0x0, 0x0, []⟩ /- ROOF_STATUS -/,
  ⟨0x1602, 1, 1, 0x0, 0x0, 0x0, 0x0, 0x0, []⟩ /- ROOF_MEMBERS -/,
  ⟨0x1603, 1, 1, 0x0, 0x0, 0x0, 0x0, 0x0, []⟩ /- ROOF_FLOOR -/,
  ⟨0x1604, 1, 1, 0x0, 0x0, 0x0, 0x0, 0x0, []⟩ /- ROOF_HOLD -/,
  ⟨0x1605, 1, 1, 0x0, 0x0, 0x0, 0x0, 0x0, []⟩ /- ROOF_MODES -/,
  ⟨0x1606, 1, 1, 0x0, 0x0, 0x0, 0x0, 0x0, []⟩ /- ROOF_COMPAT -/]

/-- Words of page 0x17, as the spec's tables list them. -/
def page17Words : List WordFam := [
  ⟨0x1700, 1, 1, 0x0, 0xFFF701, 0x0, 0x0, 0x10000, [⟨23, 16, 1, 255⟩, ⟨15, 12, 0, 15⟩, ⟨10, 8, 0, 6⟩, ⟨0, 0, 0, 1⟩]⟩ /- VLY_CFG -/,
  ⟨0x1701, 1, 1, 0xFFC7, 0x0, 0x0, 0x0, 0x100, [⟨15, 8, 1, 50⟩, ⟨7, 6, 0, 2⟩, ⟨2, 2, 0, 1⟩, ⟨1, 1, 0, 1⟩, ⟨0, 0, 0, 1⟩]⟩ /- VLY_POLICY -/,
  ⟨0x1702, 1, 1, 0x0, 0x0, 0x0, 0x1, 0x0, []⟩ /- VLY_CMD -/,
  ⟨0x1708, 1, 1, 0x0, 0x0, 0x0, 0x0, 0x0, []⟩ /- VLY_STATUS -/,
  ⟨0x1709, 1, 1, 0x0, 0x0, 0x0, 0x0, 0x0, []⟩ /- VLY_CONTRACT -/,
  ⟨0x170A, 1, 1, 0x0, 0x0, 0x0, 0x0, 0x0, []⟩ /- VLY_ENERGY -/,
  ⟨0x170B, 1, 1, 0x0, 0x0, 0x0, 0x0, 0x0, []⟩ /- VLY_MEAS -/,
  ⟨0x170C, 1, 1, 0x0, 0x0, 0x0, 0x0, 0x0, []⟩ /- VLY_LAST -/]

/-- Words of page 0x18, as the spec's tables list them. -/
def page18Words : List WordFam := [
  ⟨0x1800, 1, 1, 0xFFFFFF, 0x0, 0x0, 0x0, 0x111111, [⟨23, 20, 1, 15⟩, ⟨19, 16, 1, 15⟩, ⟨15, 12, 1, 15⟩, ⟨11, 8, 1, 15⟩, ⟨7, 4, 1, 15⟩, ⟨3, 0, 1, 15⟩]⟩ /- ENG_WEIGHT -/,
  ⟨0x1801, 1, 1, 0x0, 0x0, 0x0, 0x0, 0x0, []⟩ /- ENG_SPI_CNT -/,
  ⟨0x1802, 1, 1, 0x0, 0x0, 0x0, 0x0, 0x0, []⟩ /- ENG_TAG_CNT -/,
  ⟨0x1803, 1, 1, 0x0, 0x0, 0x0, 0x0, 0x0, []⟩ /- ENG_FENCE -/,
  ⟨0x1804, 1, 3, 0x0, 0x0, 0x0, 0x0, 0x0, []⟩ /- ENG_INFLIGHT -/]

/-- Words of page 0x19, as the spec's tables list them. -/
def page19Words : List WordFam := [
  ⟨0x1900, 1, 64, 0x8000007F, 0x0, 0x0, 0x0, 0x0, [⟨31, 31, 0, 1⟩, ⟨6, 0, 0, 127⟩]⟩ /- PC_CTRL -/,
  ⟨0x1940, 1, 128, 0x0, 0x0, 0x0, 0x0, 0x0, []⟩ /- PC_VAL -/,
  ⟨0x19C0, 1, 1, 0xFFFFFFFF, 0x0, 0x0, 0x0, 0x0, [⟨31, 16, 0, 65535⟩, ⟨15, 0, 0, 65535⟩]⟩ /- PC_SMP -/,
  ⟨0x19C1, 1, 1, 0x1FFFF, 0x0, 0x0, 0x0, 0x0, [⟨16, 0, 0, 100000⟩]⟩ /- PC_DUMP -/,
  ⟨0x19C2, 1, 1, 0x0, 0x0, 0x0, 0x0, 0x0, []⟩ /- PC_STATUS -/,
  ⟨0x19C3, 1, 2, 0x0, 0x0, 0xFFFFFFFF, 0x0, 0x0, []⟩ /- PC_OVF -/]

/-- Words of page 0x1A, as the spec's tables list them. -/
def page1AWords : List WordFam := [
  ⟨0x1A00, 1, 1, 0x0, 0x0, 0x0, 0x0, 0x0, []⟩ /- GUT_STATUS -/,
  ⟨0x1A01, 1, 1, 0x0, 0x0, 0x0, 0x0, 0x0, []⟩ /- GUT_SEQ -/,
  ⟨0x1A02, 1, 1, 0x0, 0x0, 0x0, 0x0, 0x0, []⟩ /- GUT_CNT -/,
  ⟨0x1A03, 1, 1, 0xFFFFFFFF, 0x0, 0x0, 0x0, 0x0, [⟨31, 0, 0, 4294967295⟩]⟩ /- GUT_SEL -/,
  ⟨0x1A04, 1, 1, 0x0, 0x0, 0x0, 0x0, 0x0, []⟩ /- GUT_BUF_STATUS -/,
  ⟨0x1A08, 1, 1, 0x40FFFFF0, 0x80000000, 0x0, 0x0, 0x100, [⟨31, 31, 0, 1⟩, ⟨30, 30, 0, 1⟩, ⟨23, 16, 0, 255⟩, ⟨15, 8, 1, 255⟩, ⟨7, 6, 0, 3⟩, ⟨5, 5, 0, 1⟩, ⟨4, 4, 0, 1⟩]⟩ /- TRC_CFG -/,
  ⟨0x1A09, 1, 1, 0x1F3F, 0x0, 0x0, 0x0, 0x0, [⟨12, 12, 0, 1⟩, ⟨11, 8, 0, 15⟩, ⟨5, 5, 0, 1⟩, ⟨4, 4, 0, 1⟩, ⟨3, 3, 0, 1⟩, ⟨2, 2, 0, 1⟩, ⟨1, 1, 0, 1⟩, ⟨0, 0, 0, 1⟩]⟩ /- TRC_TRIG -/,
  ⟨0x1A0A, 1, 1, 0x0, 0x0, 0x0, 0x0, 0x0, []⟩ /- TRC_STATUS -/,
  ⟨0x1A0B, 1, 1, 0x0, 0x0, 0x0, 0x0, 0x0, []⟩ /- TRC_FREEZE -/,
  ⟨0x1A0C, 1, 2, 0x0, 0x0, 0x0, 0x0, 0x0, []⟩ /- CAP_SLOT -/,
  ⟨0x1A0E, 1, 1, 0x0, 0x0, 0x0, 0x3, 0x0, []⟩ /- CAP_FREE -/,
  ⟨0x1A10, 1, 1, 0x0, 0x0, 0x0, 0x0, 0x0, []⟩ /- RPL_STATUS -/,
  ⟨0x1A11, 1, 2, 0x0, 0x0, 0x0, 0x0, 0x0, []⟩ /- RPL_DIV -/,
  ⟨0x1A40, 1, 64, 0x0, 0x0, 0x0, 0x0, 0x0, []⟩ /- GUT_BUF -/]

/-- Words of page 0x1B, as the spec's tables list them. -/
def page1BWords : List WordFam := [
  ⟨0x1B00, 1, 1, 0x0, 0x0, 0x0, 0x0, 0x0, []⟩ /- TRUST_STATUS -/,
  ⟨0x1B01, 1, 1, 0x0, 0x0, 0x0, 0x0, 0x0, []⟩ /- FW_VER_PURLIN -/,
  ⟨0x1B02, 1, 1, 0x0, 0x0, 0x0, 0x0, 0x0, []⟩ /- FW_VER_THATCH -/,
  ⟨0x1B03, 1, 1, 0x0, 0x0, 0x0, 0x0, 0x0, []⟩ /- FW_ARB -/,
  ⟨0x1B04, 1, 1, 0x0, 0x8003FFFF, 0x0, 0x0, 0x1, [⟨31, 31, 0, 1⟩, ⟨17, 16, 0, 3⟩, ⟨15, 0, 1, 65535⟩]⟩ /- HWD_CFG -/,
  ⟨0x1B05, 1, 1, 0x0, 0x0, 0x0, 0x0, 0x0, []⟩ /- HWD_STATUS -/,
  ⟨0x1B06, 1, 1, 0x0, 0xFF, 0x0, 0x0, 0xA, [⟨7, 0, 10, 200⟩]⟩ /- TWD_CFG -/,
  ⟨0x1B07, 1, 1, 0x0, 0x1, 0x0, 0x0, 0x0, [⟨0, 0, 0, 1⟩]⟩ /- PERM -/,
  ⟨0x1B08, 1, 1, 0x0, 0x0, 0x0, 0x0, 0x0, []⟩ /- FW_LAST -/,
  ⟨0x1B20, 2, 16, 0x0, 0x8000FFFF, 0x0, 0x0, 0x0, [⟨31, 31, 0, 1⟩, ⟨15, 0, 0, 65535⟩]⟩ /- SAFE_ADDR -/,
  ⟨0x1B21, 2, 16, 0x0, 0xFFFFFFFF, 0x0, 0x0, 0x0, [⟨31, 0, 0, 4294967295⟩]⟩ /- SAFE_VAL -/]

/-- Words of page 0x1C, as the spec's tables list them. -/
def page1CWords : List WordFam := [
  ⟨0x1C00, 1, 1, 0x0, 0x7, 0x0, 0x0, 0x0, [⟨2, 2, 0, 1⟩, ⟨1, 0, 0, 2⟩]⟩ /- CLK_CFG -/,
  ⟨0x1C01, 1, 1, 0x0, 0x0, 0x110, 0x0, 0x0, []⟩ /- CLK_STATUS -/,
  ⟨0x1C02, 1, 1, 0x831F03FF, 0x0, 0x0, 0x0, 0x9, [⟨31, 31, 0, 1⟩, ⟨25, 24, 0, 3⟩, ⟨20, 16, 0, 17⟩, ⟨9, 0, 9, 999⟩]⟩ /- SYNC_CFG -/,
  ⟨0x1C03, 1, 1, 0x0, 0x0, 0x0, 0x0, 0x0, []⟩ /- SYNC_STATUS -/,
  ⟨0x1C04, 1, 1, 0x0, 0x0, 0x0, 0x0, 0x0, []⟩ /- PD_STATUS -/]

/-- Words of page 0x1D, as the spec's tables list them. -/
def page1DWords : List WordFam := [
  ⟨0x1D00, 1, 1, 0xF, 0x0, 0x0, 0x0, 0xF, [⟨3, 0, 0, 15⟩]⟩ /- SSO_CTRL -/,
  ⟨0x1D01, 1, 4, 0x0, 0xFFFFFFFF, 0x0, 0x0, 0x0, [⟨31, 28, 0, 15⟩, ⟨27, 24, 0, 15⟩, ⟨23, 20, 0, 15⟩, ⟨19, 16, 0, 15⟩, ⟨15, 12, 0, 15⟩, ⟨11, 8, 0, 15⟩, ⟨7, 4, 0, 15⟩, ⟨3, 0, 0, 15⟩]⟩ /- SSO_ASSOC -/,
  ⟨0x1D05, 1, 1, 0x0, 0x0, 0xFF0000, 0x0, 0xF, []⟩ /- SSO_STATUS -/]

/-- Words of the host page (R388), as the spec's tables list them. -/
def hostPageWords : List WordFam := [
  ⟨0x10000, 1, 1, 0x0, 0x0, 0x0, 0x0, 0x8832B000, []⟩ /- HP_ID -/,
  ⟨0x10001, 1, 1, 0x0, 0x0, 0x0, 0x0, 0x200200, []⟩ /- HP_STATUS -/,
  ⟨0x10002, 1, 1, 0x0, 0x0, 0x0, 0xFFF, 0x0, []⟩ /- HP_DOORBELL -/,
  ⟨0x10003, 1, 1, 0xFFF, 0x0, 0x0, 0x0, 0x0, [⟨11, 0, 0, 4095⟩]⟩ /- HP_SQ_MODE -/,
  ⟨0x10004, 1, 12, 0x0, 0x0, 0x0, 0x0, 0x100, []⟩ /- SQ_LEVEL -/,
  ⟨0x10010, 1, 4, 0x0, 0x0, 0x0, 0x0, 0x0, []⟩ /- RNG_WR -/,
  ⟨0x10014, 1, 4, 0xFFFF, 0x0, 0x0, 0x0, 0x0, [⟨15, 0, 0, 65535⟩]⟩ /- RNG_PTR -/,
  ⟨0x10018, 1, 1, 0x0, 0x0, 0x7, 0x0, 0x0, []⟩ /- HP_RING_OVF -/,
  ⟨0x10020, 1, 1, 0x0, 0x0, 0x0, 0x0, 0x0, []⟩ /- EVT_SUM_N -/,
  ⟨0x10021, 1, 1, 0x0, 0x0, 0x0, 0x0, 0x0, []⟩ /- EVT_SUM_F -/,
  ⟨0x10022, 1, 1, 0x0, 0x0, 0x0, 0x0, 0x0, []⟩ /- EVT_FPEND -/,
  ⟨0x10023, 1, 1, 0x0, 0x0, 0x0, 0xFFFFFFFF, 0x0, []⟩ /- EVT_FACK -/,
  ⟨0x10024, 1, 1, 0x0, 0x0, 0x0, 0x0, 0x0, []⟩ /- EVT_FGRP -/,
  ⟨0x10025, 1, 1, 0x0, 0x0, 0x0, 0x0, 0x0, []⟩ /- EVT_HSTAT -/]

/-- The tables that can hold the word at address `a`: the rail words of pages 0x04-0x07 and 0x08-0x0B repeat every
32 words across those pages (05, 06, 08), every other table stays on its page. -/
def famsAt (a : Nat) : List WordFam :=
  match a / 256 with
  | 4 => page04Words
  | 5 => page04Words ++ page05Words
  | 6 => page04Words ++ page05Words ++ page06Words
  | 7 => page04Words ++ page05Words ++ page06Words ++ page07Words
  | 8 => page08Words
  | 9 => page08Words ++ page09Words
  | 10 => page08Words ++ page09Words ++ page0AWords
  | 11 => page08Words ++ page09Words ++ page0AWords ++ page0BWords
  | 0 => page00Words
  | 1 => page01Words
  | 2 => page02Words
  | 3 => page03Words
  | 12 => page0CWords
  | 13 => page0DWords
  | 14 => page0EWords
  | 15 => page0FWords
  | 16 => page10Words
  | 17 => page11Words
  | 18 => page12Words
  | 19 => page13Words
  | 20 => page14Words
  | 21 => page15Words
  | 22 => page16Words
  | 23 => page17Words
  | 24 => page18Words
  | 25 => page19Words
  | 26 => page1AWords
  | 27 => page1BWords
  | 28 => page1CWords
  | 29 => page1DWords
  | 256 => hostPageWords
  | _ => []

/-- The table of the word at `a`, or none where no table lists it (R13). -/
def famOf? (a : Nat) : Option WordFam := (famsAt a).find? (fun f => f.covers a)

/-- Every table, in the order of the pages. -/
def allFams : List WordFam := List.flatten [
  page00Words, page01Words, page02Words, page03Words, page04Words, page05Words, page06Words, page07Words, page08Words,
  page09Words, page0AWords, page0BWords, page0CWords, page0DWords, page0EWords, page0FWords, page10Words, page11Words,
  page12Words, page13Words, page14Words, page15Words, page16Words, page17Words, page18Words, page19Words, page1AWords,
  page1BWords, page1CWords, page1DWords, hostPageWords]

/-- R14: the value of the word at `a` after a POWER-ON reset (R644 for the fields a truss may load). -/
def resetWord (a : Nat) : Word := BitVec.ofNat 32 ((famOf? a).elim 0 (fun f => f.reset))

end Sys2Proof
end

