-- ==== Sys2Proof/Machine/Ops.lean ====
section
/-! DEFINITION. The named operations over the state: the sparse stores, the words and their fields, rails, modes, time,
counters, events, rings. -/

namespace Sys2Proof.Machine

/-! ### Sparse stores -/

/-- The value stored under `k`, or the default. -/
def SMap.get {α : Type} (dflt : Nat → α) (m : SMap α) (k : Nat) : α :=
  match m with
  | [] => dflt k
  | (k', v) :: t => if k' = k then v else SMap.get dflt t k

/-- The store with `v` under `k`, in canonical form: writing the default removes the entry. -/
def SMap.set {α : Type} [DecidableEq α] (dflt : Nat → α) (k : Nat) (v : α) (m : SMap α) : SMap α :=
  match m with
  | [] => if v = dflt k then [] else [(k, v)]
  | (k', v') :: t =>
    if k < k' then (if v = dflt k then (k', v') :: t else (k, v) :: (k', v') :: t)
    else if k = k' then (if v = dflt k then t else (k, v) :: t)
    else (k', v') :: SMap.set dflt k v t

/-- Keys strictly rising from `lo`, and no default listed. -/
def SMap.wfFrom {α : Type} [DecidableEq α] (dflt : Nat → α) (lo : Nat) (m : SMap α) : Bool :=
  match m with
  | [] => true
  | (k, v) :: t => lo ≤ k && v ≠ dflt k && SMap.wfFrom dflt (k + 1) t

/-- The canonical form of a store. -/
def SMap.wf {α : Type} [DecidableEq α] (dflt : Nat → α) (m : SMap α) : Bool := SMap.wfFrom dflt 0 m

/-! ### Words and fields -/

/-- The word held at an address (page x 256 + offset; host-page words from 0x10000). -/
def getW (d : Device) (a : Nat) : Word := SMap.get resetWord d.words a

/-- The block with a word replaced. -/
def setW (d : Device) (a : Nat) (w : Word) : Device := { d with words := SMap.set resetWord a w d.words }

/-- The value of field `f` of the word with index `i`. -/
def fld (d : Device) (f : Fld) (i : Nat := 0) : Nat := bitsOf (getW d (f.base + f.stride * i)) f.hi f.lo

/-- The block with field `f` of the word with index `i` replaced; no word where the table has none with that index. -/
def setFld (d : Device) (f : Fld) (v : Nat) (i : Nat := 0) : Device :=
  if i < f.count then setW d (f.base + f.stride * i) (putBits (getW d (f.base + f.stride * i)) f.hi f.lo v) else d

/-- Field `f` is not 0. -/
def flag (d : Device) (f : Fld) (i : Nat := 0) : Bool := fld d f i != 0

/-- A one-bit field set or cleared. -/
def setFlag (d : Device) (f : Fld) (b : Bool) (i : Nat := 0) : Device := setFld d f (if b then 1 else 0) i

/-- Element `n` of a field that repeats inside words. -/
def arr (d : Device) (a : Arr) (n : Nat) : Nat :=
  bitsOf (getW d (a.base + n / a.per)) (a.step * (n % a.per) + a.width - 1) (a.step * (n % a.per))

/-- The block with element `n` of a repeating field replaced. -/
def setArr (d : Device) (a : Arr) (n v : Nat) : Device :=
  if n / a.per < a.count then
    setW d (a.base + n / a.per)
      (putBits (getW d (a.base + n / a.per)) (a.step * (n % a.per) + a.width - 1) (a.step * (n % a.per)) v)
  else d

/-- The greatest value a field holds. -/
def Fld.top (f : Fld) : Nat := 2 ^ (f.hi + 1 - f.lo) - 1

/-- A saturating counter field advanced by `n`. -/
def addSat (d : Device) (f : Fld) (n : Nat) (i : Nat := 0) : Device :=
  setFld d f (min (fld d f i + n) (Fld.top f)) i

/-- A field that counts modulo its width, advanced by `n`. -/
def addWrap (d : Device) (f : Fld) (n : Nat) (i : Nat := 0) : Device := setFld d f (fld d f i + n) i

/-- Bit `n` of a whole-word mask field's word. -/
def maskBit (d : Device) (a n : Nat) : Bool := bitOf (getW d a) n

/-- The block with the word of field `f` with index `i` replaced. -/
def putWord (d : Device) (f : Fld) (w : Word) (i : Nat := 0) : Device :=
  if i < f.count then setW d (f.base + f.stride * i) w else d

/-- Bit `n` of the word of field `f` with index `i` set or cleared. -/
def setMaskBit (d : Device) (f : Fld) (n : Nat) (b : Bool) (i : Nat := 0) : Device :=
  putWord d f (putBits (getW d (f.base + f.stride * i)) n n (if b then 1 else 0)) i

/-- The numbers below `n` whose bit is set in `m`, in rising order. -/
def bitsIn (m n : Nat) : List Nat := (List.range n).filter (fun i => m.testBit i)

/-- A mask with one bit set or cleared. -/
def setBitNat (m n : Nat) (b : Bool) : Nat := if b then m ||| 2 ^ n else (if m.testBit n then m - 2 ^ n else m)

/-! ### Modes -/

/-- R29: the code of a mode. -/
def Mode.code : Mode → Nat
  | .dormant => 0 | .standby => 1 | .boot => 2 | .ramp => 3 | .run => 4 | .ease => 5
  | .holdup => 6 | .descend => 7 | .latched => 8 | .service => 9 | .replay => 10 | .retain => 11

/-- The mode of a code, or none for 0xC-0xF (R29). -/
def Mode.ofCode : Nat → Option Mode
  | 0 => some .dormant | 1 => some .standby | 2 => some .boot | 3 => some .ramp | 4 => some .run | 5 => some .ease
  | 6 => some .holdup | 7 => some .descend | 8 => some .latched | 9 => some .service | 10 => some .replay
  | 11 => some .retain | _ => none

/-- The mode of the block is one of `ms`. -/
def inMode (d : Device) (ms : List Mode) : Bool := ms.contains d.mode

/-- R414: OPER and UP. -/
def operModes : List Mode := [.ramp, .run, .ease, .holdup, .descend]
def upModes : List Mode := [.run, .ease, .holdup]

/-- R528: the modes in which the host watchdog counts. -/
def hwdCounts (m : Mode) : Bool := [Mode.ramp, .run, .ease, .holdup, .descend, .latched, .service].contains m

/-- R528: CK_SYS cycles elapsed of the host watchdog's period. -/
def hwdElapsed (d : Device) : Nat := if hwdCounts d.mode then d.cycles - d.fw.hwdBase else d.fw.hwdHeld

/-- R29: the mode changes, and MODE_STATUS.PREV_MODE takes the mode before; the host watchdog's count is held or goes on,
and starts anew on an entry to RAMP (R528). -/
def setMode (m : Mode) (d : Device) : Device :=
  if d.mode = m then d
  else
    let e := if m = .ramp then 0 else hwdElapsed d
    { d with prev := d.mode, mode := m, fw := { d.fw with hwdHeld := e, hwdBase := d.cycles - e } }

/-! ### Time -/

/-- Low and high word of a 64-bit number. -/
def lowW (n : Nat) : Word := BitVec.ofNat 32 n
def highW (n : Nat) : Word := BitVec.ofNat 32 (n / 2 ^ 32)

/-- The next free value, and the block with the count of free values advanced (log 7). -/
def freeOf (d : Device) : Nat := Config.freeNat d.freeN
def drawn (d : Device) : Device := { d with freeN := d.freeN + 1 }

/-! ### Rails -/

/-- The rail record of rail index `n`. -/
def rail (d : Device) (n : Nat) : Rail := SMap.get (fun _ => ({} : Rail)) d.rails n

/-- The block with rail index `n`'s record replaced. -/
def setRail (d : Device) (n : Nat) (r : Rail) : Device := { d with rails := SMap.set (fun _ => ({} : Rail)) n r d.rails }

/-- R645: rail index `n` is configured. -/
def configured (d : Device) (n : Nat) : Bool := d.seq.configured.testBit n && n < 32

/-! ### Rings -/

/-- R388-R393: the words a ring holds, and the words of one entry. -/
def ringDepth : Nat → Nat
  | 12 => 4096 | 13 => 1024 | 14 => 4096 | _ => 2048
def ringEntry : Nat → Nat
  | 12 => 4 | 13 => 2 | _ => 1

def ring (d : Device) (q : Nat) : Ring := SMap.get (fun _ => ({} : Ring)) d.eng.rings q
def setRing (d : Device) (q : Nat) (r : Ring) : Device :=
  { d with eng := { d.eng with rings := SMap.set (fun _ => ({} : Ring)) q r d.eng.rings } }

/-- R392: words of room in ring `q`. -/
def ringRoom (d : Device) (q : Nat) : Nat := ringDepth q - ((ring d q).wr + 65536 - (ring d q).rel) % 65536

/-- R392: `ws` written at WR; the caller has seen that there is room. -/
def Ring.push (r : Ring) (ws : List Word) : Ring :=
  { r with words := r.words ++ ws, wr := (r.wr + ws.length) % 65536 }

/-- R392: words not yet popped. -/
def Ring.unpopped (r : Ring) : Nat := (r.wr + 65536 - r.rd) % 65536

/-! ### Performance counters (R582) -/

/-- R582: counter `k` advanced by `n`: wrap at 48 bits sets its PC_OVF bit and makes PC_OVERFLOW due. -/
def bumpOne (n : Nat) (d : Device) (k : Nat) : Device :=
  let v := SMap.get (fun _ => 0) d.perf.counters k + n
  let d1 := { d with perf := { d.perf with counters := SMap.set (fun _ => 0) k (v % 2 ^ 48) d.perf.counters } }
  if v < 2 ^ 48 then d1
  else
    let d2 := setMaskBit d1 W.PC_OVF_OVF (k % 32) true (k / 32)
    { d2 with ev := { d2.ev with due := d2.ev.due ++ [864] } }

/-- The counters whose PC_EN is 1 and whose PC_EVENT is `code` (R582): only a listed word can have PC_EN = 1. -/
def countersOf (code : Nat) (d : Device) : List Nat :=
  (d.words.filter (fun p => W.PC_CTRL ≤ p.1 && p.1 < W.PC_CTRL + 64 && bitOf p.2 31 && bitsOf p.2 6 0 == code)).map
    (fun p => p.1 - W.PC_CTRL)

/-- R582, R583: `n` occurrences of the event `code` of R584; in REPLAY nothing counts. -/
def count (code : Nat) (d : Device) (n : Nat := 1) : Device :=
  if d.mode = .replay ∨ n = 0 then d else (countersOf code d).foldl (bumpOne n) d

/-! ### Event sources (R450-R456) -/

def srcRec (d : Device) (s : Nat) : SrcRec := SMap.get (fun _ => ({} : SrcRec)) d.ev.srcs s
def setSrcRec (d : Device) (s : Nat) (r : SrcRec) : Device :=
  { d with ev := { d.ev with srcs := SMap.set (fun _ => ({} : SrcRec)) s r d.ev.srcs } }
def grpRec (d : Device) (g : Nat) : GrpRec := SMap.get (fun _ => ({} : GrpRec)) d.ev.groups g
def setGrpRec (d : Device) (g : Nat) (r : GrpRec) : Device :=
  { d with ev := { d.ev with groups := SMap.set (fun _ => ({} : GrpRec)) g r d.ev.groups } }

/-- R450: the bits of a source in the words of its group. -/
def evEn (d : Device) (s : Nat) : Bool := maskBit d (W.EVT_EN + s / 32) (s % 32)
def evClass (d : Device) (s : Nat) : Bool := maskBit d (W.EVT_CLASS + s / 32) (s % 32)
def evLat (d : Device) (s : Nat) : Bool := maskBit d (W.EVT_LAT + s / 32) (s % 32)
def evPendN (d : Device) (s : Nat) : Bool := maskBit d (W.EVT_PEND_N + s / 32) (s % 32)
def evPendF (d : Device) (s : Nat) : Bool := maskBit d (W.EVT_PEND_F + s / 32) (s % 32)
def gdis (d : Device) : Bool := flag d W.EVT_CTRL_GDIS

/-- R456: the class delivers, or has delivered, in this CK_SYS cycle. -/
def deliversNow (d : Device) (fast : Bool) : Bool := (if fast then d.ev.lastF else d.ev.lastN) == some d.cycles

/-- R456: the delivery sequence that the entries of this cycle carry. -/
def sequenceOf (d : Device) (fast : Bool) : Nat :=
  ((if fast then d.ev.seqF else d.ev.seqN) + (if deliversNow d fast then 255 else 0)) % 256

/-- R456: the two words of a Q13 entry. -/
def q13Entry (d : Device) (fast : Bool) (s : Nat) : List Word :=
  let r := srcRec d s
  let w0 := s * 2 ^ 22 + (if fast then 2 ^ 21 else 0) + (if r.resampled then 2 ^ 20 else 0) + r.count * 2 ^ 8 + sequenceOf d fast
  [BitVec.ofNat 32 w0, r.first]

/-- R456: an entry's place within its cycle: the fast class first, then groups and sources in ascending order. -/
def entryKey (w0 : Word) : Nat := (if bitOf w0 21 then 0 else 1024) + bitsOf w0 31 22

/-- R456: the entry `e`, `f` put in its place among the entries of its cycle; a source that has an entry there counts once
more in it (R468). -/
def mergeEntry (e f : Word) : List Word → List Word
  | w :: x :: t =>
    if entryKey e < entryKey w then e :: f :: w :: x :: t
    else if entryKey e = entryKey w then putBits w 19 8 (min (bitsOf w 19 8 + bitsOf e 19 8) 4095) :: x :: t
    else w :: x :: mergeEntry e f t
  | _ => [e, f]

/-- R456: the entries of this cycle, from D + 1 on, with one more. -/
def putEntry (ws : List Word) (d : Device) : Device :=
  let r := ring d 13
  let n := if deliversNow d true || deliversNow d false then min (2 * d.ev.batch) r.unpopped else 0
  let k := r.words.length - n
  let tail := mergeEntry (ws.getD 0 0#32) (ws.getD 1 0#32) (r.words.drop k)
  setRing { d with ev := { d.ev with batch := tail.length / 2 } } 13
    { r with words := r.words.take k ++ tail, wr := (r.wr + (tail.length - n)) % 65536 }

/-- R395: an entry for Q13 without room sets OVF bit 0; OVF rising makes Q13_OVF (R409 bit 5) due. -/
def q13Lost (d : Device) : Device :=
  let d := count 0x35 d
  if maskBit d W.HP_RING_OVF 0 then d
  else
    let d := setMaskBit d W.HP_RING_OVF_OVF 0 true
    { d with ev := { d.ev with due := d.ev.due ++ [709] } }

/-- R454, R456: one source of a delivery: its entry, and LAT to PEND. The occurrences of an entry that is lost stay with those of
the next. -/
def deliverOne (fast : Bool) (d : Device) (s : Nat) : Device :=
  let d := if 2 ≤ ringRoom d 13 then setSrcRec (count 0x34 (putEntry (q13Entry d fast s) d)) s {} else q13Lost d
  let d := setMaskBit d W.EVT_LAT_LAT (s % 32) false (s / 32)
  if fast then setMaskBit d W.EVT_PEND_F_PEND (s % 32) true (s / 32) else setMaskBit d W.EVT_PEND_N_PEND (s % 32) true (s / 32)

/-- R456: the class's delivery sequence and the count of host deliveries advance by one for each cycle in which it delivers. -/
def openDelivery (fast : Bool) (d : Device) : Device :=
  if deliversNow d fast then d else
  let ev := d.ev
  let ev := if deliversNow d (!fast) then ev else { ev with batch := 0 }
  let ev := { ev with deliveries := (ev.deliveries + 1) % 65536 }
  count (if fast then 0x31 else 0x30) { d with ev :=
    if fast then { ev with seqF := (ev.seqF + 1) % 256, lastF := some d.cycles }
    else { ev with seqN := (ev.seqN + 1) % 256, lastN := some d.cycles } }

/-- R454, R456: the sources `ss` are delivered in this cycle. -/
def deliver (fast : Bool) (ss : List Nat) (d : Device) : Device :=
  if ss = [] then d else ss.foldl (deliverOne fast) (openDelivery fast d)

/-- What follows takes effect in a later CK_SYS cycle than the deliveries made so far (R457, R459, R460). -/
def laterCycle (d : Device) : Device := { d with ev := { d.ev with lastN := none, lastF := none } }

/-- R454: the normal-class sources of group `g` with LAT set. -/
def groupLatched (d : Device) (g : Nat) : List Nat :=
  ((List.range 32).map (fun b => 32 * g + b)).filter (fun s => evLat d s && !(srcRec d s).fast)

/-- R454: group `g` delivers; its count and timer restart. -/
def deliverGroup (g : Nat) (d : Device) : Device :=
  deliver false (groupLatched d g) (setGrpRec d g { doneC := some d.cycles })

/-- R468: group `g` has delivered in this cycle. -/
def groupDone (d : Device) (g : Nat) : Bool := (grpRec d g).doneC == some d.cycles && deliversNow d false

/-- R454: group `g` has reached COUNT_TH. -/
def countReached (d : Device) (g : Nat) : Bool :=
  0 < (grpRec d g).count && fld d W.EVT_COAL_COUNT_TH g ≤ (grpRec d g).count

/-- R453, R454: source `s` latches. A latch in the cycle of its group's delivery is covered by it (R468). A source with EN = 0, and every source of groups 28-31 (R451), does not latch. A source
that holds LAT or PEND keeps its class (R463). In DORMANT and STANDBY the event controller is off (R27, R466). -/
def latchOne (s : Nat) (resampled : Bool) (d : Device) : Device :=
  if !evEn d s || 896 ≤ s || inMode d [.dormant, .standby] then d else
  let r := srcRec d s
  let was := evLat d s
  let fast := if was then r.fast else if evPendN d s then false else if evPendF d s then true else evClass d s
  let d := setSrcRec d s
    { count := min (r.count + 1) 4095, first := if 0 < r.count then r.first else lowW d.roofTime, fast := fast,
      resampled := r.resampled || resampled }
  let d := setMaskBit d W.EVT_LAT_LAT (s % 32) true (s / 32)
  if fast then (if gdis d then d else deliver true [s] d)
  else if groupDone d (s / 32) && !gdis d then deliver false [s] d
  else
    let g := grpRec d (s / 32)
    let d := setGrpRec d (s / 32) { g with count := g.count + 1, start := if g.count = 0 then d.roofTime else g.start }
    if countReached d (s / 32) && !gdis d then count 0x32 (deliverGroup (s / 32) d) else d

/-- The sources that became due inside a step (R409 bits 5-7, R592) latch after it; `n` bounds how many. -/
def settle (n : Nat) (d : Device) : Device :=
  match n with
  | 0 => d
  | n + 1 =>
    match d.ev.due with
    | [] => d
    | s :: t => settle n (latchOne s false { d with ev := { d.ev with due := t } })

/-- R453: source `s` is raised. -/
def raise (s : Nat) (d : Device) : Device := settle 4 (latchOne s false d)

/-- R452: the condition of a level source rises or falls; a rise latches it. -/
def setLevel (s : Nat) (b : Bool) (d : Device) : Device :=
  let was := SMap.get (fun _ => false) d.ev.levels s
  let d := { d with ev := { d.ev with levels := SMap.set (fun _ => false) s b d.ev.levels } }
  if b && !was then raise s d else d

/-- R452: the condition of level source `s` holds. -/
def levelHolds (d : Device) (s : Nat) : Bool := SMap.get (fun _ => false) d.ev.levels s

/-- R395, R392: a whole record for ring `q` (14 or 15), or nothing of it and its OVF bit. -/
def ringRecord (q : Nat) (ws : List Word) (d : Device) : Device :=
  if ws.length ≤ ringRoom d q then setRing d q ((ring d q).push ws)
  else
    let d := count (if q = 14 then 0x36 else 0x37) d
    if maskBit d W.HP_RING_OVF (q - 13) then d
    else raise (if q = 14 then 710 else 711) (setMaskBit d W.HP_RING_OVF_OVF (q - 13) true)

end Sys2Proof.Machine
end

