-- ==== Sys2Proof/Machine/Operands.lean ====
section
/-! DEFINITION. Packets and their judgement: headers and parameter words (R396), status codes (R410), mode sets (R414),
CRCs (R385, R386), the completion of a command (R397, R405, R586). -/

namespace Sys2Proof.Machine

/-- R410: the status codes. -/
inductive Status where
  | ok | okDuplicate | badCrc | badOpcode | badLength | badParam | deniedEnvelope | deniedMode | deniedPermission
  | deniedInterlock | deniedWindow | busy | tagConflict | noThatch | aborted | timeout | hwFault | progBlockedSupply
deriving DecidableEq, Repr

/-- R410: the code of a status. -/
def Status.code : Status → Nat
  | .ok => 0x00 | .okDuplicate => 0x01 | .badCrc => 0x10 | .badOpcode => 0x11 | .badLength => 0x12 | .badParam => 0x13
  | .deniedEnvelope => 0x20 | .deniedMode => 0x21 | .deniedPermission => 0x22 | .deniedInterlock => 0x23
  | .deniedWindow => 0x24 | .busy => 0x30 | .tagConflict => 0x31 | .noThatch => 0x32 | .aborted => 0x40
  | .timeout => 0x41 | .hwFault => 0x50 | .progBlockedSupply => 0x51

/-- The queue a source's packets come from (R389). -/
def srcQueue : Src → Nat
  | .host q => q.val | .purlin => 18 | .thatch => 19

/-- The source of the packets of queue `q`. -/
def srcOfQueue (q : Nat) : Src := if h : q < 12 then .host ⟨q, h⟩ else if q = 18 then .purlin else .thatch

def srcIsHost : Src → Bool
  | .host _ => true | _ => false

/-- R410 and R396 header fields. -/
def hdrOp (h : Word) : Nat := bitsOf h 31 24
def hdrCount (h : Word) : Nat := bitsOf h 23 16
def hdrTag (h : Word) : Nat := bitsOf h 15 4
def hdrOrd (h : Word) : Bool := bitOf h 3
def hdrQuiet (h : Word) : Bool := bitOf h 2

/-- Parameter word `i` of a command. -/
def Cmd.p (c : Cmd) (i : Nat) : Word := c.params.getD i 0#32

/-- Fact `i` that the outside supplies to a command (log 3). -/
def Cmd.e (c : Cmd) (i : Nat) : Int := c.env.getD i 0

/-! ### CRC-8 and CRC-16 (R385, R386) -/

def crc8Bit (c : Nat) : Nat := if c.testBit 7 then (c * 2 % 256) ^^^ 0x1D else c * 2 % 256
def crc8Byte (c b : Nat) : Nat := crc8Bit (crc8Bit (crc8Bit (crc8Bit (crc8Bit (crc8Bit (crc8Bit (crc8Bit (c ^^^ b))))))))
/-- R386. -/
def crc8 (bs : List Nat) : Nat := bs.foldl crc8Byte 0xFF ^^^ 0xFF

def crc16Bit (c : Nat) : Nat := if c.testBit 15 then (c * 2 % 65536) ^^^ 0x1021 else c * 2 % 65536
def crc16Byte (c b : Nat) : Nat :=
  crc16Bit (crc16Bit (crc16Bit (crc16Bit (crc16Bit (crc16Bit (crc16Bit (crc16Bit (c ^^^ (b * 256)))))))))
/-- R385, R294, over bytes. -/
def crc16 (bs : List Nat) : Nat := bs.foldl crc16Byte 0xFFFF

/-- R385: a word's bytes, most significant first. -/
def wordBytes (w : Word) : List Nat := [bitsOf w 31 24, bitsOf w 23 16, bitsOf w 15 8, bitsOf w 7 0]
/-- Little-endian bytes of a word (00). -/
def wordBytesLE (w : Word) : List Nat := [bitsOf w 7 0, bitsOf w 15 8, bitsOf w 23 16, bitsOf w 31 24]

/-- R385 over words. -/
def crcWords (ws : List Word) : Nat := crc16 (ws.flatMap wordBytes)

/-! ### Judgement (R411, R414, R415) -/

/-- R388: the engine accepts pushes from boot stage 4, except during the 200 microseconds of R41 and under R48; on an entry
to BOOT under R646 it goes on accepting them. -/
def engineReady (d : Device) : Bool :=
  (4 ≤ fld d W.MODE_STATUS_BOOT_STAGE || d.core.path == .again) && !d.core.softReset && !d.core.purlinFail
  && !d.core.hardHeld && !d.core.porHeld && !d.core.clocksOff

/-- R414: the four mode sets. -/
inductive ModeSet where
  | all | live | oper | up
deriving DecidableEq, Repr

def modeOk (s : ModeSet) (d : Device) : Bool :=
  match s with
  | .all => inMode d [.boot, .ramp, .run, .ease, .holdup, .descend, .latched, .service, .replay, .retain]
  | .live => inMode d [.boot, .ramp, .run, .ease, .holdup, .descend, .latched, .service, .retain]
  | .oper => inMode d operModes
  | .up => inMode d upModes

/-- R411: the first check that fails gives the status. -/
def firstFail (cs : List (Bool × Status)) : Option Status :=
  match cs with
  | [] => none
  | (ok, st) :: t => if ok then firstFail t else some st

/-- R408, R397, R586: what a command's completion leaves. `cyc` is the CK_SYS count from the command's start to its
completion, which W3 carries. -/
def sampleWords (c : Cmd) (d : Device) (st : Nat) (q12 : Nat) (cyc : Nat) : List Word :=
  let doneC := d.cycles + cyc
  [BitVec.ofNat 32 (c.op * 2 ^ 24 + srcQueue c.src * 2 ^ 19 + c.stall % 8 * 2 ^ 16 + c.tag * 2 ^ 4),
   BitVec.ofNat 32 (q12 * 2 ^ 16 + st * 2 ^ 8 + min (c.issueC - c.visC) 255),
   lowW c.issueC, lowW doneC, lowW (doneC - c.issueC)]

/-- R586: packet number `k` is sampled. -/
def sampled (d : Device) (k : Nat) : Bool :=
  let n := fld d W.PC_SMP_SMP_N
  0 < n && 0 < k && (k + fld d W.PC_SMP_SMP_OFS) % n == 0

/-- R405: the tag memory of a queue. -/
def tagMem (d : Device) (q : Nat) : List TagEnt := SMap.get (fun _ => []) d.eng.tags q
def setTagMem (d : Device) (q : Nat) (t : List TagEnt) : Device :=
  { d with eng := { d.eng with tags := SMap.set (fun _ => []) q t d.eng.tags } }

/-- R405: a completion's effect on the entry it has: kept with its results on OK, removed otherwise. -/
def settleTag (c : Cmd) (st : Status) (w1 w2 w3 : Word) (d : Device) : Device :=
  if srcIsHost c.src then
    setTagMem d (srcQueue c.src) ((tagMem d (srcQueue c.src)).filterMap (fun e =>
      if e.id = c.id ∧ e.tag = c.tag then
        (if st = .ok then some { e with done := true, w1 := w1, w2 := w2, w3 := w3, endC := d.cycles } else none)
      else some e))
  else d

/-- R397: the words of a completion entry. -/
def completionWords (c : Cmd) (st : Status) (w1 w2 w3 : Word) : List Word :=
  [BitVec.ofNat 32 (st.code * 2 ^ 24 + srcQueue c.src % 16 * 2 ^ 20 + c.tag * 2 ^ 8 + c.op), w1, w2, w3]

/-- R397: an entry enters Q12 unless QUIET silences it (R396); a Q18 or Q19 completion returns to its core. -/
def postEntry (c : Cmd) (st : Status) (ws : List Word) (d : Device) : Device :=
  if srcIsHost c.src then
    if c.quiet && (st == .ok || st == .okDuplicate) then count 0x1F d
    else count 0x1E (setRing d 12 ((ring d 12).push ws))
  else { d with eng := { d.eng with coreDone := SMap.set (fun _ => []) (srcQueue c.src) ws d.eng.coreDone } }

/-- The counter index of a queue (R584). -/
def queueIndex : Src → Nat
  | .host q => q.val | .purlin => 12 | .thatch => 13

/-- R538, R589: the host may use page 0x19. -/
def perfOpen (d : Device) : Bool :=
  flag d W.PERM_PERF_READ && (SMap.get (fun _ => 0) d.otp.shadow 260).testBit 1

/-- R397: no slot of Q12 is left to reserve. -/
def slotsFull (d : Device) : Bool := ringRoom d 12 < 4 * ((d.eng.issued.filter (fun c => c.slot)).length + 1)

/-- R409: the CK_SYS cycle since which no slot is left, kept as long as that lasts. -/
def noteFull (d : Device) : Device :=
  if slotsFull d then (if d.eng.fullFrom.isSome then d else { d with eng := { d.eng with fullFrom := some d.cycles } })
  else { d with eng := { d.eng with fullFrom := none, stalled := false } }

/-- R397: a command completes `cyc` CK_SYS after the present instant, with W1 to W3 given. -/
def completeOne (c : Cmd) (d : Device) (cyc : Nat) (st : Status) (w1 w2 w3 : Word) : Device :=
  if c.lost then noteFull { d with eng := { d.eng with issued := d.eng.issued.filter (fun x => x.id != c.id) } } else
  let ws := completionWords c st w1 w2 w3
  let posted := srcIsHost c.src && !(c.quiet && (st == .ok || st == .okDuplicate))
  let d := { d with eng := { d.eng with issued := d.eng.issued.filter (fun x => x.id != c.id) } }
  let d := settleTag c st w1 w2 w3 d
  let at12 := if posted then (ring d 12).wr else 0xFFFF
  let d := if sampled d c.num && c.src != .purlin && perfOpen d then
      { d with perf := { d.perf with due := d.perf.due ++ [sampleWords c d st.code at12 cyc] } } else d
  let d := noteFull (postEntry c st ws d)
  let d := if c.op = 0x01 && st = .ok then count 0x28 d else if c.op = 0x02 && st = .ok then count 0x29 d else d
  settle 4 (count (0x10 + queueIndex c.src) d)

/-- R403, R404: the fence `c` has nothing left to wait for. -/
def fenceDone (d : Device) (c : Cmd) : Bool :=
  c.started && ((c.op == 0x01 && !d.eng.issued.any (fun x => x.src == c.src && x.id < c.id))
    || (c.op == 0x02 && (match d.eng.fall with
        | some f => f.id == c.id && !d.eng.issued.any (fun x => f.set.contains x.id)
            && !(d.eng.queues.any (fun q => q.2.any (fun p => f.set.contains p.id)))
        | none => false)))

/-- R403, R404: fences complete in the cycle in which the last packet they wait for completes. -/
def settleFences (n cyc : Nat) (d : Device) : Device :=
  match n with
  | 0 => d
  | n + 1 =>
    match d.eng.issued.find? (fenceDone d) with
    | none => d
    | some f =>
      let d := if f.op = 0x02 then { d with eng := { d.eng with fall := none } } else d
      settleFences n cyc (completeOne f d cyc .ok 0#32 0#32 (lowW (d.roofTime + cyc)))

/-- R397: a command completes, and the fences that waited for it with it. -/
def completeWith (c : Cmd) (d : Device) (cyc : Nat) (st : Status) (w1 w2 w3 : Word) : Device :=
  let d := completeOne c d cyc st w1 w2 w3
  settleFences d.eng.issued.length cyc d

/-- R397: a command completes `cyc` CK_SYS after the present instant; W3 is the roof time of that cycle. -/
def complete (c : Cmd) (d : Device) (cyc : Nat) (st : Status) (w1 w2 : Word) : Device :=
  completeWith c d cyc st w1 w2 (lowW (d.roofTime + cyc))

/-- R415: a command that is judged by `cs` and runs `k` when it passes. A refusal of a gate command comes 40 CK_SYS after
start, of another at the end of its count `cyc`, or 3 CK_SYS after start where no count is fixed (`cyc` = 0). -/
def judged (c : Cmd) (d : Device) (gate : Bool) (cyc : Nat) (cs : List (Bool × Status)) (k : Device → Device) : Device :=
  match firstFail cs with
  | some st => complete c d (if gate then 40 else if cyc = 0 then 3 else cyc) st 0#32 0#32
  | none => k d

/-- A command that goes on after this step (until a later event completes it). -/
def keepRunning (c : Cmd) (d : Device) : Device :=
  { d with eng := { d.eng with issued := d.eng.issued.filter (fun x => x.id != c.id) ++ [c] } }

/-- R396: the command of a command row: a packet that has issued and holds its resources. -/
def mkCmd (rq : Req) (op : Nat) (ps : List Word) (env : List Int) (d : Device) : Cmd :=
  { id := d.eng.nextId, src := rq.src, tag := rq.tag.toNat, quiet := rq.quiet, op := op, params := ps, env := env,
    startT := d.roofTime, issueC := d.cycles, visC := d.cycles }

/-- R414, R388: the engine runs: pushes are accepted, and the mode is not one in which its domain is off. -/
def engineOn (d : Device) : Bool := engineReady d && !inMode d [.dormant, .standby]

/-- A command row: `f` runs the packet, which takes the next packet number. Where the engine does not run no packet can have
issued, and the row has no effect (log 4). -/
def runRow (rq : Req) (op : Nat) (ps : List Word) (env : List Int) (f : Cmd → Device → Device) (d : Device) : Device :=
  if engineOn d then f (mkCmd rq op ps env d) { d with eng := { d.eng with nextId := d.eng.nextId + 1 } } else d

/-- The commands in progress with opcode `op`. -/
def running (d : Device) (op : Nat) : List Cmd := d.eng.issued.filter (fun c => c.started && c.op == op)

/-- Every command in progress that `p` selects completes. -/
def completeAll (p : Cmd → Bool) (st : Status) (w1 w2 : Cmd → Word) (d : Device) : Device :=
  (d.eng.issued.filter (fun c => c.started && p c)).foldl (fun d c => complete c d 0 st (w1 c) (w2 c)) d

/-! ### Thatch (R413, R523) -/

/-- TRUST_STATUS.THATCH_STATE reads 2. -/
def thatchReady (d : Device) : Bool := fld d W.TRUST_STATUS_THATCH_STATE == 2

/-- R413: a command that Thatch serves: NO_THATCH (step 2) while Thatch is absent, a wait at start while it restarts, and
otherwise `run`. -/
def served (c : Cmd) (run : Cmd → Device → Device) (d : Device) : Device :=
  if d.core.thatchAbsent then complete c d 40 .noThatch 0#32 0#32
  else if thatchReady d then run { c with wait := 0 } d
  else keepRunning { c with wait := 1 } d

/-! ### Background tasks (R479) -/

/-- R479: background task `t` (0-5 as in PAUSED) may run: no throttling, or held for 10 s. -/
def bgMay (t : Nat) (d : Device) : Bool :=
  !flag d W.TH_STATUS_THROTTLING || SMap.get (fun _ => 0) d.bg.pausedAt t + 1000000000 ≤ d.roofTime

/-- R479: a task has run to completion; while the device throttles, it is paused again. -/
def bgRan (t : Nat) (d : Device) : Device :=
  if flag d W.TH_STATUS_THROTTLING then
    let d := { d with bg := { d.bg with pausedAt := SMap.set (fun _ => 0) t d.roofTime d.bg.pausedAt } }
    setFld d W.BG_STATUS_PAUSED (setBitNat (fld d W.BG_STATUS_PAUSED) t true)
  else d

/-- R479: a task that was held for 10 s begins. -/
def bgBegin (t : Nat) (d : Device) : Device :=
  setFld d W.BG_STATUS_PAUSED (setBitNat (fld d W.BG_STATUS_PAUSED) t false)

/-- The named function of a row on the device, the queue of commands kept. -/
def on (f : Device → Device) (s : State) : Host.Outcome State Fault Refusal := .next { s with dev := f s.dev }

/-- A number as 16 bits, two's complement, in bits [15:0]. -/
def s16 (v : Int) : Word := BitVec.ofNat 32 (v % 65536).toNat

end Sys2Proof.Machine
end

