-- ==== Sys2Proof/Machine/Queues.lean ====
section
/-! DEFINITION. The submission queues and the issue of packets (14): packets, space, holds, the priority order, duplicates. -/

namespace Sys2Proof.Machine

/-! ### Queues (R389-R391) -/

def queue (d : Device) (q : Nat) : List QPkt := SMap.get (fun _ => []) d.eng.queues q
def setQueue (d : Device) (q : Nat) (ps : List QPkt) : Device :=
  { d with eng := { d.eng with queues := SMap.set (fun _ => []) q ps d.eng.queues } }

/-- The cycles for which the head of queue `q` has been held are forgotten (R585). -/
def noStall (q : Nat) (d : Device) : Device :=
  { d with perf := { d.perf with stalls := SMap.set (fun _ => []) q [] d.perf.stalls } }

/-- The packets of queue `q` that have not issued are discarded. -/
def emptyQueue (q : Nat) (d : Device) : Device := noStall q (setQueue d q [])

/-- A packet's words: its header and its parameters. -/
def QPkt.size (p : QPkt) : Nat := 1 + p.params.length
def sizeOf (ps : List QPkt) : Nat := ps.foldl (fun n p => n + p.size) 0
/-- SQ_LEVEL: words of staged packets, and the space left. -/
def stagedWords (d : Device) (q : Nat) : Nat := sizeOf ((queue d q).filter (fun p => p.staged))
def freeWords (d : Device) (q : Nat) : Nat := 256 - sizeOf (queue d q)

/-- R390: every staged packet of Qq becomes visible. -/
def releaseQueue (d : Device) (q : Nat) : Device :=
  setQueue d q ((queue d q).map (fun p => if p.staged then { p with staged := false, vis := d.cycles } else p))

/-- The packets that `ws` holds, with the words after the last whole one. -/
def splitPackets (n : Nat) (ws : List Word) : List (Word × List Word) × Bool :=
  match n, ws with
  | _, [] => ([], true)
  | 0, _ => ([], false)
  | n + 1, h :: t =>
    let k := hdrCount h
    if 62 < k ∨ t.length < k then ([], false)
    else
      let r := splitPackets n (t.drop k)
      ((h, t.take k) :: r.1, r.2)

/-- R389: packets enter a queue in order. -/
def enqueue (q : Nat) (staged : Bool) (ps : List (Word × List Word)) (d : Device) : Device :=
  ps.foldl (fun d p =>
    let e : QPkt := { id := d.eng.nextId, header := p.1, params := p.2, staged := staged, vis := d.cycles }
    setQueue { d with eng := { d.eng with nextId := d.eng.nextId + 1 } } q (queue d q ++ [e])) d

/-! ### Holds (R398, R585) -/

/-- The issued, uncompleted packets of queue `q`. -/
def outstanding (d : Device) (q : Nat) : List Cmd := d.eng.issued.filter (fun c => srcQueue c.src == q)

/-- The packet's CRC as the tag memory keeps it (R387). -/
def QPkt.crc (p : QPkt) : Nat := crcWords (p.header :: p.params)

/-- R405, R407: entry `e` answers for packets that became visible by the CK_SYS cycle `vis`: it stands in the memory, or it was
evicted in the very cycle in which its packet completed, the duplicate having been visible by then. -/
def TagEnt.answers (e : TagEnt) (vis : Nat) : Bool :=
  match e.outC with
  | none => true
  | some t => e.done && e.endC == t && vis ≤ t

/-- R405: the entry of a queue's tag memory for a packet with a tag. -/
def tagEntry (d : Device) (q tag vis : Nat) : Option TagEnt := (tagMem d q).find? (fun e => e.tag == tag && e.answers vis)

/-- R405: the oldest of 64 entries makes room. It goes with the next eviction, so that a duplicate of it can still be judged
under R407. -/
def evictTag (c : Nat) (m : List TagEnt) : List TagEnt :=
  match m.filter (fun e => e.outC.isNone) with
  | [] => []
  | e :: t => if 63 ≤ t.length then { e with outC := some c } :: t else m

/-- R406: a packet is held because its original has not completed. -/
def dupHeld (d : Device) (q : Nat) (p : QPkt) : Bool :=
  q < 12 && hdrTag p.header ≠ 0 &&
    (match tagEntry d q (hdrTag p.header) p.vis with
     | some e => !e.done && e.crc == p.crc
     | none => false)

/-- R399: the CK_SYS cycle before which queue `q` issues nothing, its issues being held apart while the thermal manager
throttles; 0 where they are not. -/
def throttleTo (d : Device) (q : Nat) : Nat :=
  if !flag d W.TH_STATUS_THROTTLING then 0
  else if (2 ≤ q && q ≤ 7) || q = 19 then (d.eng.lastNormal.map (fun t => t + fld d W.TH_GAP_GAP_N * 1000)).getD 0
  else if 8 ≤ q && q ≤ 11 then (d.eng.lastBulk.map (fun t => t + fld d W.TH_GAP_GAP_B * 1000)).getD 0
  else 0

def throttleHeld (d : Device) (q : Nat) : Bool := d.cycles < throttleTo d q

/-- R585: the lowest cause that holds the head packet `p` of queue `q`, or none. -/
def heldBy (d : Device) (q : Nat) (p : QPkt) : Option Nat :=
  if hdrOrd p.header && outstanding d q ≠ [] then some 0
  else if (outstanding d q).any (fun c => c.op == 0x01) then some 1
  else if q < 12 && (match d.eng.fall with
      | some f => !f.set.contains p.id | none => false) then some 2
  else if dupHeld d q p then some 3
  else if throttleHeld d q then some 4
  else if 16 ≤ (outstanding d q).length then some 5
  else if q < 12 && slotsFull d then some 6
  else none

/-- R432: a destructive self-test holds every queue but Q18. -/
def testHolds (d : Device) (q : Nat) : Bool :=
  q ≠ 18 && (running d 0x31).any (fun c => bitsOf (c.p 0) 3 0 == 3 || bitsOf (c.p 0) 3 0 == 4)

/-- The visible head packet of queue `q`. -/
def headOf (d : Device) (q : Nat) : Option QPkt :=
  match queue d q with
  | p :: _ => if p.staged then none else some p
  | [] => none

/-- R398: queue `q` has an eligible head packet. -/
def eligible (d : Device) (q : Nat) : Bool :=
  match headOf d q with
  | some p => (heldBy d q p).isNone && !testHolds d q
  | none => false

/-- ENG_FENCE.HELD: the queues whose head is held by ORD, FENCE, FENCE_ALL or a duplicate. -/
def heldMask (d : Device) : Nat :=
  (List.range 12).foldl (fun m q => match headOf d q with
    | some p => (match heldBy d q p with
        | some k => if k < 4 then m ||| 2 ^ q else m
        | none => m)
    | none => m) 0

/-! ### Time (R310, R584, R585) -/

/-- The queues whose packets issue. -/
def issuingQueues : List Nat := List.range 12 ++ [18, 19]

/-- R585: the cause that holds the head of queue `q`, and the cycles of the next `n` that it does so: to the end of a gap, or
all of them. -/
def stallOf (d : Device) (n q : Nat) : Option (Nat × Nat) :=
  (headOf d q).bind (fun p => (heldBy d q p).map (fun k => (k, if k = 4 then min n (throttleTo d q - d.cycles) else n)))

/-- `xs` with `n` more in place `k` of seven. -/
def addAt (k n : Nat) (xs : List Nat) : List Nat :=
  (List.range 7).map (fun i => xs.getD i 0 + (if i = k then n else 0))

/-- R584, R585: the head of queue `q` is held for its cause's cycles. -/
def countStall (n : Nat) (d : Device) (q : Nat) : Device :=
  match stallOf d n q with
  | none => d
  | some (k, m) =>
    let d := count (0x20 + k) d m
    let held := addAt k m (SMap.get (fun _ => []) d.perf.stalls q)
    { d with perf := { d.perf with stalls := SMap.set (fun _ => []) q held d.perf.stalls } }

/-- R584: the cycles of the next `n` in which a throttle gap holds a head of the queues `qs`. -/
def gapCycles (d : Device) (n : Nat) (qs : List Nat) : Nat :=
  (qs.filterMap (stallOf d n)).foldl (fun m x => if x.1 = 4 then max m x.2 else m) 0

/-- `n` CK_SYS cycles pass (R584, R585). -/
def passCycles (n : Nat) (d : Device) : Device :=
  let waits := (d.eng.issued.filter (fun c => !c.started)).length
  let d := count 0x27 (count 0x56 (count 0x55 d (gapCycles d n [2, 3, 4, 5, 6, 7, 19])) (gapCycles d n [8, 9, 10, 11])) (n * waits)
  let d := issuingQueues.foldl (countStall n) d
  let d := count 0x0F { d with cycles := d.cycles + n } n
  if flag d W.TH_STATUS_THROTTLING then count 0x57 d n else d

/-- Roof time moved on to `t` when that lies ahead; the CK_SYS cycles that pass are counted, twice as many while roof time
counts at half rate (R310, R584; log 6). -/
def advanceTo (t : Nat) (d : Device) : Device :=
  if d.roofTime < t then
    passCycles ((t - d.roofTime) * (if d.link.half then 2 else 1)) { d with roofTime := t }
  else d

/-- R415: a gate command reaches the Purlin gate 40 CK_SYS after it starts. -/
def atGate (d : Device) : Device := advanceTo (d.roofTime + 40) d

/-- A gate command: judged at the gate, then `k`. -/
def gated (c : Cmd) (d : Device) (cs : Device → List (Bool × Status)) (k : Device → Device) : Device :=
  let d := atGate d
  match firstFail (cs d) with
  | some st => complete c d 0 st 0#32 0#32
  | none => k d

/-! ### Arbitration (R398) -/

/-- R398, R418: the weight of a queue of the third entry in the round in force. -/
def weightOf (d : Device) (q : Nat) : Nat := if q = 19 then 4 else bitsOf d.eng.weights (4 * (q - 2) + 3) (4 * (q - 2))

def usedOf (d : Device) (q : Nat) : Nat := SMap.get (fun _ => 0) d.eng.roundUsed q

/-- The queues of the third entry. -/
def normalQueues : List Nat := [2, 3, 4, 5, 6, 7, 19]

/-- R398, R418: a new round, which takes ENG_WEIGHT. -/
def newRound (d : Device) : Device :=
  { d with eng := { d.eng with roundUsed := [], weights := getW d W.ENG_WEIGHT } }

/-- R398: the round ends once no queue has both weight left and an eligible head. -/
def endRound (d : Device) : Device :=
  if normalQueues.any (fun q => usedOf d q < weightOf d q && eligible d q) then d
  else { d with eng := { d.eng with roundUsed := [] } }

/-- R398: the next queue of Q8-Q11 in turn. -/
def bulkTurn (d : Device) : Option Nat :=
  ((List.range 4).map (fun k => 8 + (d.eng.bulkLast - 8 + 1 + k) % 4)).find? (eligible d)

/-- R398: the queue that issues, and the device with its round or turn advanced; `pick` chooses among the queues that the
weighted round robin allows (log 12). -/
def chooseQueue (pick : Nat) (d : Device) : Option (Nat × Device) :=
  if eligible d 18 then some (18, d)
  else if eligible d 0 then some (0, d)
  else if eligible d 1 then some (1, d)
  else
    let es := normalQueues.filter (eligible d)
    if es ≠ [] then
      let d := if d.eng.roundUsed ≠ [] && es.any (fun q => usedOf d q < weightOf d q) then d else newRound d
      let cs := es.filter (fun q => usedOf d q < weightOf d q)
      let q := cs.getD (pick % cs.length) 2
      some (q, { d with eng := { d.eng with roundUsed := SMap.set (fun _ => 0) q (usedOf d q + 1) d.eng.roundUsed,
                                            lastNormal := some d.cycles } })
    else
      match bulkTurn d with
      | some q => some (q, { d with eng := { d.eng with bulkLast := q, lastBulk := some d.cycles } })
      | none => none

/-! ### Issue (R396, R405, R406) -/

/-- R586: the packet takes the next number. -/
def numbered (q : Nat) (d : Device) : Nat × Device :=
  if q = 18 ∨ fld d W.PC_SMP_SMP_N = 0 then (0, d)
  else (d.perf.issuedNo + 1, { d with perf := { d.perf with issuedNo := d.perf.issuedNo + 1 } })

/-- The opcodes of chapter 15 with their least and greatest `PCOUNT`. -/
def opcodes : List (Nat × Nat × Nat) := [
  (0x00, 0, 0), (0x01, 0, 0), (0x02, 0, 0), (0x03, 2, 2), (0x04, 1, 1), (0x05, 1, 1),
  (0x10, 1, 1), (0x11, 2, 2), (0x12, 3, 3), (0x13, 1, 1),
  (0x20, 0, 0), (0x21, 0, 0), (0x22, 1, 1), (0x23, 1, 1), (0x24, 1, 1), (0x25, 1, 1), (0x26, 0, 0), (0x27, 1, 1), (0x28, 1, 1),
  (0x30, 1, 1), (0x31, 1, 1), (0x40, 0, 0), (0x41, 0, 0), (0x50, 0, 0), (0x51, 2, 2), (0x52, 0, 0)] ++ [
  (0x60, 1, 1), (0x61, 1, 32), (0x62, 1, 1), (0x70, 2, 2), (0x71, 1, 1), (0x80, 2, 2), (0x81, 0, 0), (0x82, 1, 1),
  (0x90, 1, 1), (0x91, 3, 3), (0x92, 3, 3), (0x93, 1, 1), (0x94, 2, 62), (0x95, 0, 0),
  (0xA0, 2, 62), (0xA1, 1, 1), (0xA2, 0, 0), (0xB0, 1, 1), (0xB1, 0, 0), (0xB2, 1, 1), (0xB3, 0, 0), (0xB4, 2, 2)]

/-- R396: the status of a packet that its header alone refuses. -/
def frameFault (h : Word) (n : Nat) : Option Status :=
  if bitsOf h 1 0 ≠ 0 then some .badParam
  else match opcodes.find? (fun e => e.1 == hdrOp h) with
    | none => some .badOpcode
    | some e => if n < e.2.1 ∨ e.2.2 < n then some .badLength else none

/-- R405: the tag of an issued packet is recorded; the oldest of 64 entries makes room. -/
def recordTag (c : Cmd) (d : Device) : Device :=
  if !srcIsHost c.src || c.tag = 0 || c.op = 0x05 then d
  else
    setTagMem d (srcQueue c.src) (evictTag d.cycles (tagMem d (srcQueue c.src)) ++ [{ id := c.id, tag := c.tag, crc := c.crc }])

/-- R405, R406: an issued packet against its queue's tag memory; `k` runs what is not a duplicate or a conflict. -/
def judgeTag (c : Cmd) (d : Device) (k : Device → Device) : Device :=
  if !srcIsHost c.src || c.tag = 0 then k d
  else match tagEntry d (srcQueue c.src) c.tag c.visC with
    | none => k (recordTag c d)
    | some e =>
      if e.crc = c.crc then
        let d := count 0x2A (addSat d W.ENG_TAG_CNT_DUPLICATES 1)
        raise 708 (completeWith c d 1 .okDuplicate e.w1 e.w2 e.w3)
      else
        let d := count 0x2B (addSat d W.ENG_TAG_CNT_CONFLICTS 1)
        raise 707 (complete c d 1 .tagConflict 0#32 0#32)

/-- R404: what FENCE_ALL records: every visible host packet that has not completed, but FENCE_ALL packets. -/
def fenceSet (d : Device) (self : Nat) : List Nat :=
  ((List.range 12).flatMap (fun q => ((queue d q).filter (fun p => !p.staged && hdrOp p.header != 0x02)).map (fun p => p.id)))
  ++ ((d.eng.issued.filter (fun c => srcIsHost c.src && c.op != 0x02 && c.id != self)).map (fun c => c.id))

/-- R403: FENCE issues; it waits for the earlier packets of its queue. -/
def opFence (c : Cmd) (d : Device) : Device :=
  let d := keepRunning c d
  settleFences (d.eng.issued.length + 1) 1 d

/-- R404, R412, R577: FENCE_ALL issues. -/
def opFenceAll (c : Cmd) (d : Device) : Device :=
  if c.src = .thatch then complete c d 3 .deniedPermission 0#32 0#32
  else if d.mode = .replay then complete c d 3 .deniedMode 0#32 0#32
  else
    let s := fenceSet d c.id
    let d := keepRunning c { d with eng := { d.eng with fall := some { id := c.id, queue := srcQueue c.src, set := s } } }
    settleFences (d.eng.issued.length + 1) 1 d

/-- R586: the stall cause that held a packet longest, the lowest of several (log 12), where any did. -/
def longestStall (xs : List Nat) : Option Nat :=
  (List.range 7).foldl (fun (m : Option Nat) k =>
    if xs.getD k 0 = 0 then m
    else match m with
      | some j => if xs.getD j 0 < xs.getD k 0 then some k else m
      | none => some k) none

/-- The command of a packet that issues from queue `q`. -/
def issuedCmd (q num stall : Nat) (p : QPkt) (d : Device) : Cmd :=
  { id := p.id, src := srcOfQueue q, tag := hdrTag p.header, quiet := hdrQuiet p.header, op := hdrOp p.header,
    params := p.params, started := false, slot := q < 12, crc := p.crc, startT := d.roofTime, issueC := d.cycles,
    visC := p.vis, num := num, stall := stall }

/-- R398: the head packet `p` of queue `q` issues. Of a sampled packet that nothing has held the spec names no stall cause: a free
value (log 7). -/
def issueHead (q : Nat) (p : QPkt) (d : Device) : Device :=
  let held := longestStall (SMap.get (fun _ => []) d.perf.stalls q)
  let d := noStall q (setQueue d q ((queue d q).drop 1))
  let idx := if q < 12 then q else if q = 18 then 12 else 13
  let d := count 0x0E (count idx d)
  let r := numbered q d
  let d := r.2
  let c := issuedCmd q r.1 (held.getD (freeOf d % 8)) p d
  let d := if held.isNone && sampled d r.1 then drawn d else d
  let d := { d with eng := { d.eng with issued := d.eng.issued ++ [c] } }
  settle 4 (match frameFault p.header p.params.length with
  | some st => complete c (noteFull d) 1 st 0#32 0#32
  | none => judgeTag c d (fun d =>
      if c.op = 0x01 then opFence { c with started := true } d
      else if c.op = 0x02 then opFenceAll { c with started := true } d
      else noteFull d))

/-- R398: one packet issues. -/
def issueOne (pick : Nat) (d : Device) : Device :=
  if !engineOn d then d else
  match chooseQueue pick d with
  | some (q, d) => (match headOf d q with
      | some p => endRound (issueHead q p d)
      | none => d)
  | none => d

/-- R406: the held duplicate at the head of queue `q` is judged again once its original has completed. -/
def rejudge (q : Nat) (d : Device) : Device :=
  if !engineOn d || 12 ≤ q then d else
  match headOf d q with
  | some p => if eligible d q && hdrTag p.header ≠ 0 then issueHead q p d else d
  | none => d

/-! ### Resources (R402, R654) -/

/-- Codes of resources: rails 0-31, ADC channels 32 + c, pages 1000 + p, OTP words 2000 + w. -/
def pageRes (p : Nat) : Nat := 1000 + p
def allRails : List Nat := List.range 32

/-- The resource of a `REG_*` address: a rail on pages 0x04-0x0B, a page elsewhere. -/
def addrRes (a : Nat) : List Nat :=
  let p := a / 256 % 256
  if 4 ≤ p ∧ p < 8 then [(a % 0x10000 - 0x400) / 32]
  else if 8 ≤ p ∧ p < 12 then [(a % 0x10000 - 0x800) / 32]
  else [pageRes p]

/-- R57: first word and number of words of regions 0-5. -/
def regionBase : Nat → Nat
  | 0 => 0 | 1 => 128 | 2 => 192 | 3 => 320 | 4 => 832 | _ => 960
def regionSize : Nat → Nat
  | 0 => 128 | 1 => 64 | 2 => 128 | 3 => 512 | 4 => 128 | _ => 64

/-- R402, R76: OTP_FINALIZE reads every word of its region and programs the region's digest and the lock word. -/
def finalRes (n : Nat) : List Nat :=
  (2000 + 960) :: (2000 + 961 + n) :: ((List.range (regionSize n)).map (fun k => 2000 + regionBase n + k))

/-- R402, R654: the resources a command names. -/
def resources (c : Cmd) : List Nat :=
  let p0 := c.p 0
  match c.op with
  | 0x04 => [pageRes 0x18]
  | 0x10 => addrRes p0.toNat
  | 0x11 => addrRes p0.toNat
  | 0x12 => addrRes p0.toNat
  | 0x13 => ((List.range (bitsOf p0 23 16)).flatMap (fun k => addrRes (bitsOf p0 15 0 + k))).eraseDups
  | 0x20 => allRails | 0x21 => allRails | 0x25 => allRails | 0x26 => allRails
  | 0x22 => [bitsOf p0 4 0] | 0x23 => [bitsOf p0 4 0] | 0x24 => [bitsOf p0 20 16]
  | 0x30 => [4 + 4 * bitsOf p0 8 8 + bitsOf p0 1 0]
  | 0x31 => if bitsOf p0 3 0 = 1 then [bitsOf p0 12 8] else []
  | 0x40 => [pageRes 0x0D] | 0x41 => [pageRes 0x0D]
  | 0x50 => [pageRes 0x15, pageRes 0x16]
  | 0x60 => [32 + bitsOf p0 7 0]
  | 0x61 => (c.params.map (fun w => 32 + bitsOf w 7 0)).eraseDups
  | 0x62 => [pageRes 0x0F]
  | 0x70 => [pageRes 0x11, pageRes 0x12] | 0x71 => [pageRes 0x11]
  | 0x80 => [pageRes 0x13] | 0x81 => [pageRes 0x13]
  | 0x90 => (List.range (bitsOf p0 21 16)).map (fun k => 2000 + bitsOf p0 9 0 + k)
  | 0x91 => [pageRes 0x14] | 0x92 => [2000 + bitsOf p0 9 0]
  | 0x93 => finalRes (bitsOf p0 2 0)
  | 0xA2 => [pageRes 0x1B] | 0xB0 => [pageRes 0x1A] | 0xB1 => [pageRes 0x1A]
  | 0xB3 => [pageRes 0x19] | 0xB4 => [pageRes 0x19]
  | _ => []

/-- R402: an issued packet holds or is granted every resource it names: none is held by a command that has started, nor
claimed by an earlier packet of its own queue that still waits. -/
def mayStart (d : Device) (c : Cmd) : Bool :=
  let rs := resources c
  !d.eng.issued.any (fun x => (x.started || (x.src == c.src && x.id < c.id)) && x.id != c.id
    && (resources x).any (fun r => rs.contains r))

/-- The issued packets that have not started, in issue order. -/
def waitingCmds (d : Device) : List Cmd := d.eng.issued.filter (fun c => !c.started)

end Sys2Proof.Machine
end

