-- ==== Sys2Proof/Machine/LogOps.lean ====
section
/-! DEFINITION. What other chapters leave in the log, the trace store and on the link: gutter snapshots (R556-R558), trace
triggers (R567), urgent insertions (R300). -/

namespace Sys2Proof.Machine

/-- The latest code of ADC channel `ch` (R488). -/
def adcCode (d : Device) (ch : Nat) : Nat := SMap.get (fun _ => 0) d.adc.last ch

/-- R488: the channels whose 14-bit code is signed. -/
def adcSigned (ch : Nat) : Bool :=
  (32 ≤ ch && ch ≤ 55) || (64 ≤ ch && ch ≤ 77) || (86 ≤ ch && ch ≤ 94) || (102 ≤ ch && ch ≤ 127)

/-- The latest value of channel `ch` in its LSB, signed where R488 says so. -/
def adcVal (d : Device) (ch : Nat) : Int :=
  let c := adcCode d ch % 16384
  if adcSigned ch && c.testBit 13 then (c : Int) - 16384 else c

/-- R557: a 14-bit code as 16 bits, sign-extended. -/
def code16 (d : Device) (ch : Nat) : Nat :=
  let c := adcCode d ch % 16384
  if adcSigned ch && c.testBit 13 then c + 0xC000 else c

/-- The value in use of sensor index `i` as 16 bits, two's complement (R473). -/
def temp16 (d : Device) (i : Nat) : Nat := ((SMap.get (fun _ => 0) d.therm.value i) % 65536).toNat

/-- R324, R325: the device takes part in the roof's sequences. -/
def participating (d : Device) : Bool := fld d W.ROOF_STATUS_PART == 2

/-- R504, R512: the prescaler of the RTC: what HALT holds, and otherwise the count that CK_RTC has reached, which no command
fixes (log 7). -/
def prescNow (d : Device) : Nat :=
  if flag d W.RTC_CTRL_HALT then fld d W.RTC_SUBSEC_PRESC else freeOf d % 32768

/-- R556, R557: the record of a cause, 64 little-endian words, without its RCRC and its COMMIT. -/
def gutterRecord (type railNo cause : Nat) (detail : Word) (seq : Nat) (d : Device) : List Word :=
  let flags := (if flag d W.OTP_STATUS_OVR_ACTIVE then 1 else 0) + (if flag d W.RTC_STATUS_TIME_VALID then 2 else 0)
    + (if fld d W.BK_STATUS_BK_STATE = 4 then 4 else 0) + (if participating d then 8 else 0)
  [BitVec.ofNat 32 (type + flags * 2 ^ 8 + (d.mode.code + d.prev.code * 16) * 2 ^ 16 + d.core.strap * 2 ^ 24),
   lowW seq, getW d W.RTC_DATE, getW d W.RTC_TIME, lowW d.roofTime, highW d.roofTime,
   BitVec.ofNat 32 (prescNow d + railNo * 2 ^ 16 + cause * 2 ^ 24), detail]
  ++ (List.range 16).map (fun i => BitVec.ofNat 32 (code16 d (2 * i) + code16 d (2 * i + 1) * 65536))
  ++ (List.range 16).map (fun i => BitVec.ofNat 32 (code16 d (32 + 2 * i) + code16 d (33 + 2 * i) * 65536))
  ++ (List.range 16).map (fun i => BitVec.ofNat 32 (temp16 d (2 * i) + temp16 d (2 * i + 1) * 65536))
  ++ [BitVec.ofNat 32 (code16 d 95 + code16 d 96 * 65536), BitVec.ofNat 32 (code16 d 97),
      getW d W.TRUSS_ID, getW d (W.TRUSS_ID + 1), getW d W.FW_VER_THATCH]

/-- R557: the whole record with RCRC over bytes 0x00-0xF3 and COMMIT. -/
def sealRecord (ws : List Word) : List Word :=
  ws ++ [BitVec.ofNat 32 (crc16 (ws.flatMap wordBytesLE)), 0#32, 0xA5C35A3C#32]

/-- R559: records take sequence numbers from `n` on. -/
def renumber (n : Nat) (ws : List (List Word)) : List (List Word) :=
  match ws with
  | [] => []
  | r :: t => (r.take 1 ++ lowW n :: r.drop 2) :: renumber (n + 1) t

def recordType (r : List Word) : Nat := bitsOf (r.getD 0 0#32) 7 0

/-- R558, R224: a further cause of the type and the cycle of record `r`: RAIL is the lowest, CAUSE of one rail the class that ranks
first, DETAIL that of the rail chosen; SEQ_RISE_FAIL and SEQ_FALL_FAIL (types 2, 3) name every rail. -/
def shareRecord (railNo cause : Nat) (detail : Word) (r : List Word) : List Word :=
  let w := r.getD 6 0#32
  let first := railNo < bitsOf w 23 16 ∨ (railNo = bitsOf w 23 16 ∧ cause < bitsOf w 31 24)
  let r := if first then r.set 6 (putBits (putBits w 23 16 railNo) 31 24 cause) else r
  if first ∨ railNo = bitsOf w 23 16 ∨ recordType r = 2 ∨ recordType r = 3 then r.set 7 detail else r

/-- R558: among the records of one cycle, which stand in ascending type order, a new one takes its place, or shares the one of its
type. -/
def placeRecord (railNo cause : Nat) (detail : Word) (x : List Word) (rs : List (List Word)) : List (List Word) :=
  match rs with
  | [] => [x]
  | r :: t =>
    if recordType r = recordType x then shareRecord railNo cause detail r :: t
    else if recordType x < recordType r then x :: r :: t
    else r :: placeRecord railNo cause detail x t

/-- The snapshots of this cycle that wait, at the end of the buffers. -/
def snapsNow (d : Device) : List (List Word) :=
  if d.log.snapAt = some d.roofTime then d.log.waiting.drop (d.log.waiting.length - d.log.snapN) else []

/-- R558: a cause takes a snapshot into a buffer, or shares the one that its type has in this cycle; with all 8 full it is dropped
and counted. -/
def gutter (type railNo cause : Nat) (detail : Word) (d : Device) : Device :=
  let old := snapsNow d
  if 8 ≤ d.log.waiting.length && !old.any (fun r => recordType r == type) then raise 839 (addSat d W.GUT_CNT_DROPPED 1)
  else
    let x := gutterRecord type railNo cause detail d.log.nextSeq d
    let tail := placeRecord railNo cause detail x old
    let keep := d.log.waiting.take (d.log.waiting.length - old.length)
    let d := drawn { d with log := { d.log with
      waiting := keep ++ renumber (d.log.nextSeq - old.length) tail
      nextSeq := (d.log.nextSeq + (tail.length - old.length)) % 2 ^ 32
      snapAt := some d.roofTime, snapN := tail.length } }
    setFld d W.GUT_STATUS_PENDING d.log.waiting.length

/-! ### The input ring of the trace store (R563-R565, R572) -/

/-- The `n` low bytes of a number, the lowest first. -/
def bytesLE (n v : Nat) : List Nat :=
  match n with
  | 0 => []
  | n + 1 => v % 256 :: bytesLE n (v / 256)

/-- `n` bytes of a slot that the row does not give (log 7). -/
def openBytes (n : Nat) (d : Device) : List Nat := bytesLE n (freeOf d)

/-- R572: unsigned LEB128, in at most `fuel` bytes. -/
def leb128 (fuel n : Nat) : List Nat :=
  match fuel with
  | 0 => []
  | f + 1 => if n < 128 then [n] else (n % 128 + 128) :: leb128 f (n / 128)

/-- R572: the bytes of an entry that follows one stamped `prev`: tag, time delta, payload. -/
def entryBytes (prev : Nat) (e : TraceEntry) : List Nat :=
  (e.kind * 16 + e.sub) :: leb128 10 (e.stamp - prev) ++ e.payload

/-- R563: the newest entries that `room` bytes hold; the list has the newest first. -/
def keepNewest (room : Nat) (es : List TraceEntry) : List TraceEntry :=
  match es with
  | [] => []
  | e :: t =>
    let k := (entryBytes ((t.head?.map (·.stamp)).getD e.stamp) e).length
    if k ≤ room then e :: keepNewest (room - k) t else []

/-- R572: entries stand in stamp order, those of equal stamps in ascending kind. -/
def placeEntry (e : TraceEntry) (es : List TraceEntry) : List TraceEntry :=
  match es with
  | [] => [e]
  | x :: t => if e.stamp < x.stamp ∨ (x.stamp = e.stamp ∧ e.kind < x.kind) then x :: placeEntry e t else e :: es

/-- R563: the store records. -/
def recording (d : Device) : Bool := fld d W.TRC_STATUS_STATE == 1 || fld d W.TRC_STATUS_STATE == 2

/-- R563, R564: while the store records, an entry stamped with a CK_FAST cycle enters the ring of 1,792 KiB. -/
def traceAt (stamp kind sub : Nat) (payload : List Nat) (d : Device) : Device :=
  if recording d then
    { d with log := { d.log with entries := keepNewest 1835008 (placeEntry ⟨stamp, kind, sub, payload⟩ d.log.entries) } }
  else d

/-- An entry stamped with the present CK_FAST cycle. -/
def traceEntry (kind sub : Nat) (payload : List Nat) (d : Device) : Device := traceAt (2 * d.cycles) kind sub payload d

/-- R572, R574: the raw output of comparator `id` went outside or came back inside `ago` CK_FAST before the present cycle, when
the deglitch began that the row completes (log 44). -/
def traceComp (id : Nat) (outside : Bool) (ago : Nat) (d : Device) : Device :=
  traceAt (2 * d.cycles - ago) 2 (if outside then 8 else 0) (leb128 2 id) d

/-- R572: a pin (0 nRST, 1 WAKE0, 2 WAKE1) took a level `samples` CK_LPO samples of 200 CK_FAST before the present cycle. -/
def tracePin (pin : Nat) (level : Bool) (samples : Nat) (d : Device) : Device :=
  traceAt (2 * d.cycles - 200 * samples) 3 (if level then 8 else 0) [pin] d

/-- R572: a write of host-page word `w`. -/
def traceWrite (w : Nat) (v : Word) (d : Device) : Device := traceEntry 5 0 (w :: wordBytesLE v) d

/-- R572, R293: a slot received from address `a`: header byte and P0-P7. -/
def traceSlot (a mode type : Nat) (ps : List Nat) (d : Device) : Device := traceEntry 6 0 ([a, mode * 16 + type] ++ ps) d

/-- The same of a slot whose payload the row gives whole, as two words. -/
def traceWords (a mode type : Nat) (w1 w2 : Word) (d : Device) : Device :=
  traceSlot a mode type (wordBytesLE w1 ++ wordBytesLE w2) d

/-- R300, R572: an insertion received. -/
def traceUrgent (kind data : Nat) (d : Device) : Device := traceEntry 6 1 [kind, data] d

/-! ### ADC results (R573) -/

/-- R573: the zigzag code of a difference, when one nibble below 15 holds it. -/
def nibbleOf (prev raw : Nat) : Nat :=
  if prev ≤ raw then (if raw - prev ≤ 7 then 2 * (raw - prev) else 15)
  else if prev - raw ≤ 7 then 2 * (prev - raw) - 1 else 15

/-- R573: the nibbles of the 32 results of a block, `none` a slot without a conversion, the u16 that follow those of value 15,
and what each channel's previous result is afterwards. -/
def nibblesOf (rs : List (Option (Nat × Nat))) (prev : SMap Nat) : List Nat × List Nat × SMap Nat :=
  match rs with
  | [] => ([], [], prev)
  | none :: t =>
    let r := nibblesOf t prev
    (15 :: r.1, [0, 0x80] ++ r.2.1, r.2.2)
  | some (ch, w) :: t =>
    let k := if w < 16384 then nibbleOf (SMap.get (fun _ => 0) prev ch) w else 15
    let r := nibblesOf t (SMap.set (fun _ => 0) ch (w % 16384) prev)
    (k :: r.1, (if k = 15 then [w % 256, w / 256] else []) ++ r.2.1, r.2.2)

/-- Two nibbles a byte, the low one first. -/
def packNibbles (ns : List Nat) : List Nat :=
  match ns with
  | a :: b :: t => (a + 16 * b) :: packNibbles t
  | [a] => [a]
  | [] => []

/-- R573: the block of results that the store gathers ends and enters the ring at the stamp of its slot 0. How many cycles each
slot's results took to cross, its first byte, is open (log 7). -/
def closeBlock (d : Device) : Device :=
  match d.log.block with
  | none => d
  | some (b, rs) =>
    let r := nibblesOf ((List.range 32).map (fun i => (rs.find? (fun x => x.1 == i)).map Prod.snd)) d.log.prevRaw
    let v := openBytes 1 d
    let d := traceAt (640 * b) 1 0 (v ++ packNibbles r.1 ++ r.2.1) (drawn d)
    { d with log := { d.log with block := none, prevRaw := r.2.2 } }

/-- R565: block `b` of 8 consecutive slots is recorded: every one, or with PROFILE = 1 one of 64. -/
def blockTraced (d : Device) (b : Nat) : Bool :=
  !flag d W.TRC_CFG_PROFILE || (b + Config.decimatedAt) % 64 == 0

/-- R563, R573: a result of channel `ch` on converter `c`, with bit 14 for overrange, joins the block of its slot. -/
def traceResult (c ch code : Nat) (ovr : Bool) (d : Device) : Device :=
  let b := d.cycles / 320
  let d := match d.log.block with
    | some (b', _) => if b' = b then d else closeBlock d
    | none => d
  if recording d && blockTraced d b then
    let x := (d.cycles / 40 % 8 * 4 + c, ch, code + (if ovr then 16384 else 0))
    { d with log := { d.log with block := some (b, ((d.log.block.map Prod.snd).getD []) ++ [x]) } }
  else d

/-- R572: a KEY entry: the CK_FAST count and the roof time. -/
def traceKey (d : Device) : Device :=
  let d := closeBlock d
  let d := { d with log := { d.log with prevRaw := [] } }
  let d := traceEntry 10 0 (wordBytesLE (lowW (2 * d.cycles)) ++ wordBytesLE (highW (2 * d.cycles))
    ++ wordBytesLE (lowW d.roofTime) ++ wordBytesLE (highW d.roofTime)) d
  { d with log := { d.log with key := some (2 * d.cycles, d.roofTime) } }

/-- The present frame: the start last taken, or the roof time's own count where a start is missing (R291, R317, R321). -/
def presentFn (d : Device) : Nat := max d.link.fn (d.roofTime / 1000)

/-- R567: a trigger with freeze cause `cause`; one that meets a store not recording is counted in TRIG_MISSED. -/
def trigger (cause : Nat) (d : Device) : Device :=
  let st := fld d W.TRC_STATUS_STATE
  if st = 1 then
    let d := traceEntry 11 0 [cause] d
    { (setFld d W.TRC_STATUS_STATE 2) with log := { d.log with traceCause := cause, trigAt := d.roofTime } }
  else if st = 0 then d
  else addSat d W.TRC_STATUS_TRIG_MISSED 1

/-- R567: a cause of TRC_TRIG that is enabled triggers. -/
def trigIf (f : Fld) (cause : Nat) (d : Device) : Device := if flag d f then trigger cause d else d

/-- R305: an insertion requested now: its break starts 2 CK_SYS later. -/
def urgOf (kind data : Nat) (d : Device) : Urg :=
  { kind := kind, data := data, fn := (d.roofTime + 2) / 1000 % 2 ^ 32, sym := (d.roofTime + 2) % 1000 / 10 }

/-- The phase `p` begins with an insertion of data bits `low`. -/
def beginPhase (p low : Nat) (d : Device) : Device :=
  if fld d W.ROOF_STATUS_PHASE = p then d
  else { (setFld d W.ROOF_STATUS_PHASE p) with link := { d.link with phaseLow := low } }

/-- R343: the holder's roof phase follows an insertion latched: FAULT (kind 0), DOWN for DESCEND (kind 1). -/
def phaseOn (kind low : Nat) (d : Device) : Device :=
  if !flag d W.LNK_STATUS_IS_HOLDER then d
  else if kind = 0 then beginPhase 5 low d
  else if kind = 1 && fld d W.ROOF_STATUS_PHASE ≠ 5 then beginPhase 4 low d
  else d

/-- R301: an insertion holds the bus until 2 bit times after its data byte, 28 bits after its break began at `brk`. -/
def holdBus (brk : Nat) (d : Device) : Device := { d with link := { d.link with busyTo := max d.link.busyTo (brk + 30) } }

/-- R300, R304, R318, R325, R345: an urgent insertion of a kind (0 FAULT, 1 DESCEND, 2 LOSS, 3 HOLD) with data bits [4:0];
a participant sends them, a holder sends LOSS; the ECHO follows in its next slot. -/
def insertUrgent (kind low : Nat) (d : Device) : Device :=
  if participating d || (kind = 2 && flag d W.LNK_STATUS_IS_HOLDER) then
    let d := { d with link := { d.link with urgOut := d.link.urgOut ++ [urgOf kind (d.core.strap * 32 + low % 32) d] } }
    let d := phaseOn kind (low % 32) (holdBus (d.roofTime + 2) d)
    settle 4 (count 0x48 (addSat d W.LNK_TX_URGENT_SENT 1))
  else d

/-- R345: the low bits of a FAULT insertion: SUP_FIRST.RAIL, or 0. -/
def firstRail (d : Device) : Nat := if flag d W.SUP_FIRST_VALID then fld d W.SUP_FIRST_RAIL else 0

end Sys2Proof.Machine
end

