-- ==== Sys2Proof/Machine/RailOps.lean ====
section
/-! DEFINITION. Operations on one rail and on the safe-state and power-good outputs: set points and slopes (R79, R93, R123,
R147, R161), reference ramps (R114-R116), enabling, soft stop, gating (R218), discharge (R151), power-good (R213-R215),
safe-state outputs (R164). -/

namespace Sys2Proof.Machine

/-! ### Kinds of rail (R16) and their fields -/

inductive RailKind where
  | hc | cl | sb | ld | gb
deriving DecidableEq, Repr

/-- R16: what block rail index `n` names. -/
def railKind (n : Nat) : RailKind :=
  if n < 4 then .hc else if n < 12 then .cl else if n < 18 then .sb else if n < 24 then .ld else .gb

/-- The index of a rail inside its kind. -/
def railIdx (n : Nat) : Nat :=
  match railKind n with
  | .hc => n | .cl => n - 4 | .sb => n - 12 | .ld => n - 18 | .gb => n - 24

/-- R645: the field that holds a rail's set point. -/
def vcodeFld (n : Nat) : Fld :=
  match railKind n with
  | .hc => W.HC_VSET_VCODE | .cl => W.CL_VSET_VCODE | .sb => W.SB_VSET_VCODE | .ld => W.LD_CFG_VCODE | .gb => W.GB_AUX_VNOM

/-- The address of the word with a rail's set point. -/
def vcodeAddr (n : Nat) : Nat := (vcodeFld n).base + (vcodeFld n).stride * railIdx n

/-- R427, R161: one step of the set point, in tenths of a millivolt. -/
def vStep (n : Nat) : Nat :=
  match railKind n with
  | .hc => 100 | .cl => 50 | .sb => 100 | .ld => 250 | .gb => 100

/-- The rail's set-point code in force; a configured channel 0 as the VPRE pre-regulator stands at 500 (R95, R645). -/
def vcode (d : Device) (n : Nat) : Nat :=
  if n = 0 && flag d W.HC_CFG_VPRE && configured d 0 then 500 else fld d (vcodeFld n) (railIdx n)

/-- The rail's set point in tenths of a millivolt. -/
def setPoint (d : Device) (n : Nat) : Nat := vcode d n * vStep n

/-- The rail's own SLEW field, 0.1 mV per microsecond (R116); a GB rail has none. -/
def slewOf (d : Device) (n : Nat) : Nat :=
  match railKind n with
  | .hc => fld d W.HC_SLEW_SLEW (railIdx n) | .cl => fld d W.CL_SLEW_SLEW (railIdx n)
  | .sb => fld d W.SB_SLEW_SLEW (railIdx n) | .ld => fld d W.LD_SLEW_SLEW (railIdx n) | .gb => 65535

/-- 07: a rail's ramp time in ticks; its fall and power-good timeout (R180, R188). -/
def rampTicks (d : Device) (n : Nat) : Nat := fld d W.SEQ_SLOT_ON_RAMP n * 1000
def pgTicks (d : Device) (n : Nat) : Nat :=
  let t := fld d W.SEQ_TIMEOUT_PG_TO n
  if t = 0 then rampTicks d n + 200000 else t * 1000

/-- 07: the rail takes part in power-up. -/
def inSeq (d : Device) (n : Nat) : Bool := flag d W.SEQ_SLOT_ON_IN_SEQ n

/-- The safe-state outputs associated with rail `n` (R164), and whether a GB rail waits for some (R169). -/
def assoc (d : Device) (n : Nat) : Nat := arr d W.SSO_ASSOC_ASSOC n

/-- The rail's state as SEQ_RSTATE codes it (07). -/
def rstate (d : Device) (n : Nat) : Nat := arr d W.SEQ_RSTATE_RSTATE n
def setRstate (n v : Nat) (d : Device) : Device := setArr d W.SEQ_RSTATE_RSTATE n v

/-- A change of a rail's record. -/
def modRail (n : Nat) (f : Rail → Rail) (d : Device) : Device := setRail d n (f (rail d n))

/-! ### References (R114-R117) -/

/-- The reference at roof time `t`, in tenths of a millivolt. -/
def refAt (m : RefMove) (t : Nat) : Nat :=
  if m.dur = 0 || m.start + m.dur ≤ t then m.dst
  else if t ≤ m.start then m.frm
  else if m.frm ≤ m.dst then m.frm + (m.dst - m.frm) * (t - m.start) / m.dur
  else m.frm - (m.frm - m.dst) * (t - m.start) / m.dur

/-- The rail's reference now; a ramp hold keeps it where it stood (R183). -/
def refNow (d : Device) (n : Nat) : Nat :=
  if d.seq.holdFrom.isSome && (rail d n).ph = .rampUp then (rail d n).ref.frm else refAt (rail d n).ref d.roofTime

/-- R116, R427: ticks that a change of `dv` tenths of a millivolt takes at `slew` (0.1 mV per microsecond): |dV| / SLEW, rounded
down, and none for a move shorter than one tick (DESIGN CHOICE, log 22). -/
def slewTicks (dv slew : Nat) : Nat := if slew = 0 then 0 else dv * 100 / slew

/-- REF_MOVING (RAMPING on a GB rail) of a rail's status word. -/
def setMoving (n : Nat) (b : Bool) (d : Device) : Device :=
  match railKind n with
  | .hc => setFlag d W.HC_STATUS_REF_MOVING b (railIdx n)
  | .cl => setFlag d W.CL_RSTATUS_REF_MOVING b (railIdx n)
  | .sb => setFlag d W.SB_RSTATUS_REF_MOVING b (railIdx n)
  | .ld => setFlag d W.LD_RSTATUS_REF_MOVING b (railIdx n)
  | .gb => setFlag d W.GB_RSTATUS_RAMPING b (railIdx n)

/-- DE_ACTIVE of a switching rail (R114). -/
def setDe (n : Nat) (b : Bool) (d : Device) : Device :=
  match railKind n with
  | .hc => setFlag d W.HC_STATUS_DE_ACTIVE b (railIdx n)
  | .cl => setFlag d W.CL_RSTATUS_DE_ACTIVE b (railIdx n)
  | .sb => setFlag d W.SB_RSTATUS_DE_ACTIVE b (railIdx n)
  | .ld => d
  | .gb => d

/-- R114, R115: LIGHT_DE of a switching rail. -/
def lightDe (d : Device) (n : Nat) : Bool :=
  match railKind n with
  | .hc => flag d W.HC_CFG_LIGHT_DE n
  | .cl => flag d W.CL_CFG_LIGHT_DE (n - 4)
  | .sb => flag d W.SB_CFG_LIGHT_DE (n - 12)
  | .ld => false
  | .gb => false

/-- SYNC_LOCKED, SYNC_RANGE (R108-R111), BRAKING (R112) and IMBAL (R103, R125) of a switching rail. -/
def setSyncLocked (n : Nat) (b : Bool) (d : Device) : Device :=
  match railKind n with
  | .hc => setFlag d W.HC_STATUS_SYNC_LOCKED b n
  | .cl => setFlag d W.CL_RSTATUS_SYNC_LOCKED b (n - 4)
  | .sb => setFlag d W.SB_RSTATUS_SYNC_LOCKED b (n - 12)
  | .ld => d
  | .gb => d

def setSyncRange (n : Nat) (b : Bool) (d : Device) : Device :=
  match railKind n with
  | .hc => setFlag d W.HC_STATUS_SYNC_RANGE b n
  | .cl => setFlag d W.CL_RSTATUS_SYNC_RANGE b (n - 4)
  | .sb => setFlag d W.SB_RSTATUS_SYNC_RANGE b (n - 12)
  | .ld => d
  | .gb => d

def setBraking (n : Nat) (b : Bool) (d : Device) : Device :=
  match railKind n with
  | .hc => setFlag d W.HC_STATUS_BRAKING b n
  | .cl => setFlag d W.CL_RSTATUS_BRAKING b (n - 4)
  | .sb => setFlag d W.SB_RSTATUS_BRAKING b (n - 12)
  | .ld => d
  | .gb => d

def setImbal (n : Nat) (b : Bool) (d : Device) : Device :=
  match railKind n with
  | .hc => setFlag d W.HC_STATUS_IMBAL b n
  | .cl => setFlag d W.CL_RSTATUS_IMBAL b (n - 4)
  | .sb => d
  | .ld => d
  | .gb => d


/-- R151: the discharge switch of a small buck or LDO. -/
def setDis (n : Nat) (b : Bool) (d : Device) : Device :=
  match railKind n with
  | .sb => setFlag (modRail n (fun r => { r with dis := b }) d) W.SB_RSTATUS_DIS_ACTIVE b (railIdx n)
  | .ld => setFlag (modRail n (fun r => { r with dis := b }) d) W.LD_RSTATUS_DIS_ACTIVE b (railIdx n)
  | .hc => d
  | .cl => d
  | .gb => d

/-- R151: DIS_EN of the rail. -/
def disEn (d : Device) (n : Nat) : Bool :=
  match railKind n with
  | .sb => flag d W.SB_CFG_DIS_EN (railIdx n)
  | .ld => flag d W.LD_CFG_DIS_EN (railIdx n)
  | .hc => false
  | .cl => false
  | .gb => false

/-! ### Phases of HC channels and clusters (R101, R121, R132) -/

/-- R101: the HC channels that serve rail `n`: its leader's gang, as a mask. -/
def hcGang (d : Device) (n : Nat) : Nat :=
  let g := fld d W.HC_CFG_GANG n
  if n = 0 && g = 1 then 0b0011 else if n = 2 && g = 1 then 0b1100 else if n = 0 && g = 2 then 0b1111 else 2 ^ n

/-- R102: channel `k` is a follower. -/
def hcFollower (d : Device) (k : Nat) : Bool :=
  (k ≠ 0 && (hcGang d 0).testBit k) || (k = 3 && (hcGang d 2).testBit 3)

/-- The leader channel that channel `k` serves. -/
def hcLeader (d : Device) (k : Nat) : Nat :=
  if (hcGang d 0).testBit k then 0 else if k = 3 && (hcGang d 2).testBit 3 then 2 else k

/-- The phase numbers 0-9 of cluster `c` (05). -/
def clPhases (c : Nat) : List Nat := [5 * c, 5 * c + 1, 5 * c + 2, 5 * c + 3, 5 * c + 4]

/-- R121: the phases whose ROLE serves cluster rail `n` (4-11). -/
def rolePhases (d : Device) (n : Nat) : List Nat :=
  (clPhases ((n - 4) / 4)).filter (fun p => fld d W.PH_CFG_ROLE p == (n - 4) % 4)

/-- R121: the spare phase of cluster `c`. -/
def sparePhase (d : Device) (c : Nat) : Option Nat := (clPhases c).find? (fun p => fld d W.PH_CFG_ROLE p == 4)

/-- The mask in cluster terms (bit k for phase k of the cluster) of a list of phase numbers. -/
def phMask (ps : List Nat) : Nat := ps.foldl (fun m p => m ||| 2 ^ (p % 5)) 0

/-- R132, R133: a failed phase returns to its ROLE, with FAILED and CAUSE cleared. -/
def readmitPhase (d : Device) (p : Nat) : Device := setFlag (setFld d W.PH_STATUS_CAUSE 0 p) W.PH_STATUS_FAILED false p

/-- The record of cluster `c` beside its words. -/
def clus (d : Device) (c : Nat) : ClSt := SMap.get (fun _ => ({} : ClSt)) d.cl c
def modClus (c : Nat) (f : ClSt → ClSt) (d : Device) : Device :=
  { d with cl := SMap.set (fun _ => ({} : ClSt)) c (f (clus d c)) d.cl }

/-- A phase of the cluster begins or ends its service of rail `n` (4-11): PH_MASK and PH_STATUS. -/
def putPhase (n p : Nat) (serves : Bool) (state : Nat) (d : Device) : Device :=
  let d := setFld d W.CL_RSTATUS_PH_MASK (setBitNat (fld d W.CL_RSTATUS_PH_MASK (n - 4)) (p % 5) serves) (n - 4)
  setFld (if serves then setFld d W.PH_STATUS_SERVING_RAIL ((n - 4) % 4) p else d) W.PH_STATUS_STATE state p

/-- R132, R129: the spare of cluster `c` leaves every rail and goes back to idle, unless it has failed; the steering switch
opens. -/
def parkSpare (c : Nat) (d : Device) : Device :=
  let d := setFlag (setFlag (setFlag d W.CL_STATUS_SPARE_ENGAGED false c) W.CL_STATUS_STEER_CLOSED false c)
    W.CL_STATUS_ROT_ACTIVE false c
  match sparePhase d c with
  | some p =>
    let d := [0, 1, 2, 3].foldl (fun d r =>
      if flag d W.CL_RSTATUS_SPARE_ON (4 * c + r) then
        let d := setFlag d W.CL_RSTATUS_SPARE_ON false (4 * c + r)
        setFld d W.CL_RSTATUS_PH_MASK (setBitNat (fld d W.CL_RSTATUS_PH_MASK (4 * c + r)) (p % 5) false) (4 * c + r)
      else d) d
    if flag d W.CL_STATUS_SPARE_FAILED c then setFld d W.PH_STATUS_STATE 6 p else setFld d W.PH_STATUS_STATE 2 p
  | none => d

/-- R142, R138: the drill of cluster `c` ends with a result code and a status; a spare that is in its handover or serves it is
released. -/
def endDrill (c result : Nat) (st : Status) (d : Device) : Device :=
  if (clus d c).drill.isSome then
    let moving := match (clus d c).ho with | some { kind := 4, .. } => true | _ => false
    let d := if moving || (clus d c).holding then
        parkSpare c (if moving then modClus c (fun x => { x with ho := none }) d else d) else d
    let d := setFlag (setFld d W.DRILL_RESULT_RESULT result c) W.CL_STATUS_DRILL_ACTIVE false c
    let d := modClus c (fun x => { x with drill := none, holding := false, pgLost := false }) d
    completeAll (fun k => k.op == 0x30 && bitsOf (k.p 0) 8 8 == c) st (fun _ => getW d (W.DRILL_RESULT + c)) (fun _ => 0#32) d
  else d

/-- R136: the resting phase of cluster `c` serves its rail again. -/
def resumeRest (c : Nat) (d : Device) : Device :=
  match (clus d c).rest with
  | some p => modClus c (fun x => { x with rest := none })
      (putPhase (4 + 4 * c + fld d W.PH_CFG_ROLE p) p true 1 d)
  | none => d

/-- R137: the shed phases of rail `n` resume, an engaged spare among them. -/
def resumeShed (n : Nat) (d : Device) : Device :=
  if flag d W.CL_RSTATUS_SHED_ACTIVE (n - 4) then
    let d := ((rolePhases d n).filter (fun p => fld d W.PH_STATUS_STATE p == 7)).foldl (fun d p => putPhase n p true 1 d) d
    let d := match sparePhase d ((n - 4) / 4) with
      | some p => if fld d W.PH_STATUS_STATE p = 7 then
          setFlag (putPhase n p true 4 d) W.CL_RSTATUS_SPARE_ON true (n - 4) else d
      | none => d
    setFlag d W.CL_RSTATUS_SHED_ACTIVE false (n - 4)
  else d

/-- R136, R137: on exit from EASE resting and shed phases resume and a spare in rotation returns to idle. -/
def leaveEase (d : Device) : Device :=
  [0, 1].foldl (fun d c =>
    let x := clus d c
    let d := if x.rest.isSome || x.trading then
        modClus c (fun x => { x with trading := false, next := none }) (parkSpare c (resumeRest c d)) else d
    let d := match (clus d c).ho with
      | some { kind := 3, .. } => parkSpare c (modClus c (fun x => { x with ho := none }) d)
      | _ => d
    [0, 1, 2, 3].foldl (fun d r => resumeShed (4 + 4 * c + r) d) d) d

/-- R132: the cluster's spare serves rail `n` for a failure. -/
def spareEngagedOn (d : Device) (n : Nat) : Bool :=
  let c := (n - 4) / 4
  flag d W.CL_STATUS_SPARE_ENGAGED c && fld d W.CL_STATUS_SPARE_RAIL c == (n - 4) % 4

/-- R138: rail `n` stops: a handover onto it, a rotation on it, a drill on it end, and the spare returns to idle; an engaged spare
stays engaged (R132, R218). -/
def dropSpare (n : Nat) (d : Device) : Device :=
  let c := (n - 4) / 4
  let r := (n - 4) % 4
  let x := clus d c
  let onto := match x.ho with | some h => h.target == r | none => false
  let serves := flag d W.CL_RSTATUS_SPARE_ON (n - 4) && !spareEngagedOn d n
  let d := if x.drill = some r then endDrill c 7 .aborted d else d
  if onto || serves then
    parkSpare c (modClus c (fun x => { x with
      ho := if onto then none else x.ho, rest := if serves then none else x.rest,
      trading := false, next := none }) d)
  else d

/-- R107, R132, R133: what enabling a rail from off does to its phases: dropped and failed phases are admitted again, an
engaged spare returns to idle. -/
def admitPhases (n : Nat) (d : Device) : Device :=
  match railKind n with
  | .hc =>
    let d := setFld (setFld d W.HC_STATUS_PH_DROPPED 0 n) W.HC_STATUS_PH_MASK (hcGang d n) n
    (bitsIn (hcGang d n) 4).foldl (fun d k => setFld d W.HC_PH_CAUSE_CAUSE 0 k) d
  | .cl =>
    let i := n - 4
    let ps := rolePhases d n
    let d := if spareEngagedOn d n then parkSpare (i / 4) d else d
    let d := match sparePhase d (i / 4) with
      | some p => if fld d W.PH_STATUS_STATE p = 0 && !flag d W.CL_STATUS_SPARE_ENGAGED (i / 4) then parkSpare (i / 4) d else d
      | none => d
    let d := ps.foldl readmitPhase d
    let d := ps.foldl (fun d p => setFld (setFld d W.PH_STATUS_STATE 1 p) W.PH_STATUS_SERVING_RAIL (i % 4) p) d
    setFld (setFld d W.CL_RSTATUS_PH_DROPPED 0 i) W.CL_RSTATUS_PH_MASK (phMask ps) i
  | .sb => d
  | .ld => d
  | .gb => d

/-- A rail that stops switching is locked to nothing, brakes nothing and has no phases to compare (phase current channels 64 on,
R103, R125). -/
def stillStatus (n : Nat) (d : Device) : Device :=
  let d := setImbal n false (setBraking n false (setSyncLocked n false d))
  let xs := if n < 4 then (bitsIn (hcGang d n) 4).map (10 + ·) else if n < 12 then rolePhases d n else []
  { d with
    core := { d.core with relock := setBitNat d.core.relock n false }
    adc := { d.adc with imbal := xs.foldl (fun m x => setBitNat m x false) d.adc.imbal } }

/-- R132, R218: the engaged spare of a rail that stops switching is high-impedance, still engaged. -/
def restSpare (n : Nat) (d : Device) : Device :=
  match sparePhase d ((n - 4) / 4) with
  | some p =>
    if spareEngagedOn d n then setFlag (setFld d W.PH_STATUS_STATE 0 p) W.CL_RSTATUS_SPARE_ON false (n - 4) else d
  | none => d

/-- The phases of a rail that stops switching: none serves (R115, R218). A failed phase keeps its state. -/
def idlePhases (n : Nat) (d : Device) : Device :=
  let d := stillStatus n d
  match railKind n with
  | .hc => setFld d W.HC_STATUS_PH_MASK 0 n
  | .cl =>
    let i := n - 4
    let d := restSpare n (dropSpare n d)
    let d := (rolePhases d n).foldl (fun d p => if flag d W.PH_STATUS_FAILED p then d else setFld d W.PH_STATUS_STATE 0 p) d
    setFlag (setFld d W.CL_RSTATUS_PH_MASK 0 i) W.CL_RSTATUS_SHED_ACTIVE false i
  | .sb => d
  | .ld => d
  | .gb => setFlag (setFlag d W.GB_RSTATUS_SWITCHING false (n - 24)) W.GB_RSTATUS_OPEN false (n - 24)

/-- R189: the phases that are not failed or dropped sink at a reference of 0 V, whatever LIGHT_DE holds. -/
def sinkPhases (n : Nat) (d : Device) : Device :=
  match railKind n with
  | .hc => setFld d W.HC_STATUS_PH_MASK (hcGang d n &&& (15 ^^^ fld d W.HC_STATUS_PH_DROPPED n)) n
  | .cl =>
    let d := ((rolePhases d n).filter (fun p => !flag d W.PH_STATUS_FAILED p)).foldl (fun d p => putPhase n p true 1 d) d
    (match sparePhase d ((n - 4) / 4) with
     | some p => if spareEngagedOn d n then setFlag (putPhase n p true 4 d) W.CL_RSTATUS_SPARE_ON true (n - 4) else d
     | none => d)
  | .sb => d
  | .ld => d
  | .gb => d

/-! ### Safe-state outputs (R163-R169) -/

/-- R171: the instant at which an output was first driven low; what driving those of `m` from now leaves. -/
def ssoSince (d : Device) (j : Nat) : Nat := d.core.ssoAt.getD j 0
def markSso (m : Nat) (d : Device) : Device :=
  let new := m &&& (15 ^^^ fld d W.SSO_STATUS_ASSERTED)
  { d with core := { d.core with
      ssoAt := (List.range 4).map (fun j => if new.testBit j then d.roofTime else ssoSince d j) } }

/-- R169, R171: the outputs of `m` are driven, and have read back low, or are in FAULT, for 10 microseconds. -/
def ssoSettled (d : Device) (m : Nat) : Bool :=
  (bitsIn m 4).all (fun j => (fld d W.SSO_STATUS_ASSERTED).testBit j
    && (!(fld d W.SSO_STATUS_PIN).testBit j || (fld d W.SSO_STATUS_FAULT).testBit j) && ssoSince d j + 1000 ≤ d.roofTime)

/-- R164: the outputs of `mask` are driven low; `reflex` for a trip or a GB short. -/
def assertSso (mask : Nat) (reflex : Bool) (d : Device) : Device :=
  let m := mask % 16
  let d := markSso m d
  let d := setFld d W.SSO_STATUS_PIN (fld d W.SSO_STATUS_PIN &&& (15 ^^^ (m &&& (15 ^^^ fld d W.SSO_STATUS_ASSERTED))))
  let d := setFld d W.SSO_STATUS_ASSERTED (fld d W.SSO_STATUS_ASSERTED ||| m)
  if reflex then setFld d W.SSO_STATUS_BY_REFLEX (fld d W.SSO_STATUS_BY_REFLEX ||| m) else d

/-- R165: the outputs that may be released: HOST_HOLD 0, mode RUN, EASE or HOLDUP, every rail that names them power-good
without a latched fault, and no GB rail that names them turning off (or waiting for its gate, R200). -/
def ssoMayRelease (d : Device) (j : Nat) : Bool :=
  !(fld d W.SSO_CTRL_HOST_HOLD).testBit j && inMode d upModes
  && (List.range 32).all (fun n => !(assoc d n).testBit j ||
      ((rail d n).pg && !flag d W.SUP_STATUS_FAULT_LATCH n && !(rail d n).waitBias && (rail d n).ph != .rampDown
        && !(railKind n = .gb && rstate d n = 5)))

/-! ### Power-good (R213-R215) -/

/-- R215: the PGOOD pins whose mask names rail `n` go low. -/
def pgoodLow (n : Nat) (d : Device) : Device :=
  { d with core := { d.core with
      pgood := (List.range 4).foldl (fun m i => if maskBit d (W.PGOOD_MASK + i) n then setBitNat m i false else m) d.core.pgood } }

/-- R213, R214: a rail stops being power-good; unless by its own stop, PG_LOST is raised. -/
def losePg (n : Nat) (own : Bool) (d : Device) : Device :=
  if (rail d n).pg then
    let d := setFlag (modRail n (fun r => { r with pg := false }) d) W.SUP_STATUS_PG false n
    let d := pgoodLow n d
    let d := if railKind n = .cl && (clus d ((n - 4) / 4)).drill = some ((n - 4) % 4) then
        modClus ((n - 4) / 4) (fun x => { x with pgLost := true }) d else d
    if own then d else raise (96 + n) d
  else d

/-- R215: every rail of pin `i`'s mask is power-good, and there is one. -/
def pgoodMet (d : Device) (i : Nat) : Bool :=
  getW d (W.PGOOD_MASK + i) != 0#32 && (List.range 32).all (fun n => !maskBit d (W.PGOOD_MASK + i) n || (rail d n).pg)

/-! ### Enabling, stopping and gating -/

/-- R155: the bank of GB rail `n` is in undervoltage lockout. -/
def gbLocked (d : Device) (n : Nat) : Bool := d.core.gbLock.testBit ((n - 24) / 4)

/-- R114, R149, R154: a rail's soft start: its reference (a GB rail's duty) ramps from 0 to the set point over RAMP. The
drivers of a bank in lockout start when it releases (R155). -/
def startRail (n : Nat) (d : Device) : Device :=
  let d := admitPhases n d
  let d := setDis n false d
  let d := setDe n true (setMoving n (railKind n != .gb || !gbLocked d n) d)
  let d := if railKind n = .gb then
      setFlag (setFlag (setFlag d W.GB_RSTATUS_SWITCHING (!gbLocked d n) (n - 24)) W.GB_RSTATUS_OPEN false (n - 24))
        W.GB_RSTATUS_LIMIT false (n - 24) else d
  let d := modRail n (fun r => { r with
      enabled := true, gated := false, ph := .rampUp, falling := false, waitBias := false, forced := false, fallFail := false,
      above := false, noSink := false, inDesc := false, stopStart := d.roofTime, rampAt := d.roofTime,
      ref := { frm := 0, dst := setPoint d n, start := d.roofTime, dur := rampTicks d n } }) d
  setRstate n 2 d

/-- R115, R186, R191: a rail's soft stop from its present reference; `full` takes the whole ramp time (R115), otherwise the
slope of its own ramp (R191). With LIGHT_DE it sinks nothing. Its fall timeout counts from now. -/
def softStop (n : Nat) (full : Bool) (d : Device) : Device :=
  let d := losePg n true d
  let v := refNow d n
  let sp := setPoint d n
  let dur := if full || sp = 0 then rampTicks d n else rampTicks d n * v / sp
  let d := setDe n (lightDe d n) (setMoving n true d)
  let d := if railKind n = .gb then setFlag d W.GB_RSTATUS_INTERLOCK_WAIT false (n - 24) else d
  let d := modRail n (fun r => { r with
      ph := .rampDown, falling := true, waitBias := false, stopStart := d.roofTime,
      trip := r.trip &&& 0b10011,
      ref := { frm := v, dst := 0, start := d.roofTime, dur := dur } }) d
  setRstate n 6 (setLevel (32 + n) false d)

/-- R169, R187: a rail begins its disable: a GB rail waits until the outputs that it names have read back low for 10 microseconds
(INTERLOCK_RELEASE), unless they have already; any other rail begins its soft stop. -/
def beginStop (n : Nat) (full : Bool) (d : Device) : Device :=
  if railKind n = .gb && !ssoSettled d (assoc d n) then
    setFlag (modRail n (fun r => { r with waitBias := true }) d) W.GB_RSTATUS_INTERLOCK_WAIT true (n - 24)
  else softStop n full d

/-- R115, R151: the reference has reached 0: the regulator is off, and the discharge switch follows DIS_EN. -/
def railOff (n : Nat) (d : Device) : Device :=
  let d := idlePhases n (setDe n false (setMoving n false d))
  let d := modRail n (fun r => { r with enabled := false, ph := .still, ref := { start := d.roofTime } }) d
  if disEn d n then setDis n true d else d

/-- R186: in an orderly descent that includes rail `n`, its fall timeout counts from no earlier than T_D plus its off-delay. -/
def fallFrom (d : Device) (n : Nat) : Nat :=
  match d.seq.desc with
  | some x =>
    if (rail d n).inDesc && x.kind != .fault then max d.roofTime (x.tD + fld d W.SEQ_SLOT_OFF_OFF_DLY n * 1000) else d.roofTime
  | none => d.roofTime

/-- R218: a rail is gated: its switching or pass device stops and its reference is 0; a GB rail begins its disable under the
interlock. `sink` false marks R219. The rail is falling from now (R186). -/
def gateRail (n : Nat) (noSink : Bool) (d : Device) : Device :=
  let d := losePg n false d
  if railKind n = .gb then
    let d := modRail n (fun r => { r with gated := true, noSink := r.noSink || noSink }) d
    if (rail d n).ph = .rampDown || (rail d n).waitBias || !(rail d n).enabled then d else beginStop n true d
  else
    let d := idlePhases n (setDe n false (setMoving n false d))
    let d := modRail n (fun r => { r with
        gated := true, enabled := false, ph := .still, ref := { start := d.roofTime }, falling := true, stopStart := fallFrom d n,
        noSink := r.noSink || noSink, trip := r.trip &&& 0b10011 }) d
    let d := setLevel (32 + n) false d
    setRstate n 6 d

/-- R189: forced discharge: the switch of a small buck or LDO, or the regulator of an HC or cluster rail sinking at reference 0. -/
def forceDischarge (n : Nat) (d : Device) : Device :=
  let d := sinkPhases n (setDe n false d)
  let d := setDis n true (modRail n (fun r => { r with forced := true, fallFail := true, above := true }) d)
  setRstate n 7 d

/-- R189: forced discharge ends: the switches stay off, the discharge switch follows DIS_EN. -/
def endForced (n : Nat) (d : Device) : Device :=
  let d := modRail n (fun r => { r with forced := false, enabled := false, ph := .still, ref := {} }) (idlePhases n d)
  setDis n (disEn d n) (setMoving n false d)

/-- Every rail that is enabled, ramping or up. -/
def enabledRails (d : Device) : List Nat := (List.range 32).filter (fun n => (rail d n).enabled)

/-- R172, R38, R44: every rail is switched off at once, without interlock; a discharge switch that is on stays on (R151). -/
def killRails (d : Device) : Device :=
  (List.range 32).foldl (fun d n =>
    if (rail d n).enabled || (rail d n).falling || (rail d n).waitBias then
      let d := losePg n true d
      let d := idlePhases n (setDe n false (setMoving n false d))
      let d := if railKind n = .gb then setFlag d W.GB_RSTATUS_INTERLOCK_WAIT false (n - 24) else d
      setRstate n 0 (modRail n (fun r => { mism := r.mism, live := r.live, dis := r.dis }) d)
    else d) d

/-- R224: rail `n` was gated in this very cycle. -/
def gatedNow (d : Device) (n : Nat) : Bool := (rail d n).gated && (rail d n).stopStart = d.roofTime

/-- R207: comparator `k` (0 OV primary, 1 OV checker, 2 UV primary, 3 UV checker) of rail `n` acts: the rail is enabled (or
falling, for overvoltage), undervoltage not during soft start or soft stop, not marked faulty (R228), not under test (R225);
a GB rail only with AUX_EN (R159). A rail gated in this very cycle still has its other classes recorded (R224). -/
def compActs (d : Device) (n k : Nat) : Bool :=
  let r := rail d n
  configured d n && (r.enabled || r.falling)
  && !(fld d W.SUP_STATUS_CMP_FAULT n).testBit k
  && (k < 2 || gatedNow d n || (r.enabled && !r.falling && r.ph != .rampUp && r.ph != .rampDown))
  && (railKind n != .gb || flag d W.GB_CFG_AUX_EN (n - 24))
  && !(running d 0x31).any (fun c => bitsOf (c.p 0) 3 0 == 1 && bitsOf (c.p 0) 12 8 == n && bitsOf (c.p 0) 17 16 == k)

/-! ### Self-test 1 in progress (R549, R550) -/

/-- R431: the rail and the comparator (0-3) that a SELFTEST names. -/
def testRail (c : Cmd) : Nat := bitsOf (c.p 0) 12 8
def testComp (c : Cmd) : Nat := bitsOf (c.p 0) 17 16

/-- The comparator test in progress on rail `n`. -/
def compTests (d : Device) (n : Nat) : List Cmd :=
  (running d 0x31).filter (fun c => bitsOf (c.p 0) 3 0 == 1 && testRail c == n)

/-- The results that a running command has fixed so far. -/
def putAux (c : Cmd) (ws : List Word) (d : Device) : Device :=
  { d with eng := { d.eng with issued := d.eng.issued.map (fun x => if x.id = c.id then { x with aux := ws } else x) } }

/-- A self-test ends. -/
def endTest (c : Cmd) (st : Status) (w1 w2 : Nat) (d : Device) : Device :=
  complete c (setFld d W.BG_STATUS_ST_ACTIVE 0) 0 st (BitVec.ofNat 32 w1) (BitVec.ofNat 32 w2)

/-- R550, R554: a comparator test ends with ABORTED: detail 4; no trip delay was measured, and what the delay field reads is
not stated (log 7). -/
def endAborted (c : Cmd) (d : Device) : Device := endTest c .aborted 0 (freeOf d % 65536 * 65536 + 4) (drawn d)

/-- R550: the guarding comparator trips, or the rail's set point changes: the threshold is restored and the test ends. -/
def abortTest (n : Nat) (d : Device) : Device := (compTests d n).foldl (fun d c => endAborted c d) d

/-- R549 steps 1-3: a sample of the rail's voltage while the rail is power-good and its reference has stood for 100
microseconds; with the fourth the threshold is moved. `aux` holds the samples taken, then the instant of the injection. -/
def testSample (n : Nat) (d : Device) : Device :=
  let r := rail d n
  if r.pg && r.ph = .still && r.ref.start + 10000 ≤ d.roofTime then
    (compTests d n).foldl (fun d c => match c.aux with
      | [] => putAux c [1#32] d
      | [k] => putAux c (if 3 ≤ k.toNat then [4#32, lowW d.roofTime] else [k + 1#32]) d
      | _ => d) d
  else d

end Sys2Proof.Machine
end

