-- ==== Sys2Proof/Machine/ValleyOps.lean ====
section
/-! DEFINITION. Reserve, usable and available charge (R276-R280), the device's part in a valley contract and its end (R358,
R367), the queue of link messages (R298). -/

namespace Sys2Proof.Machine

/-! ### The gauge's sums (R276-R279) -/

/-- R649: series cells. -/
def nCells (d : Device) : Nat := fld d W.CHG_SET_CELLS + 1

/-- 10: the empty voltage per cell, in millivolts. -/
def vEmpty (d : Device) : Nat := 2500 + 5 * fld d W.GAUGE_CFG_V_EMPTY

/-- R277: the divisor 0.85 x CELLS x V_EMPTY, as microjoules of 0.1 mAh. -/
def energyUnit (d : Device) : Nat := 306 * nCells d * vEmpty d

/-- The remaining charge in 0.1 mAh. -/
def remUnits (d : Device) : Int := d.gauge.rem / 360000

/-- R359: 10 J in microwatt x 10 ns. -/
def tenJoule : Nat := 1000000000000000

/-- R359: the energy of the contract in microwatt x 10 ns. -/
def contractEnergy (d : Device) : Nat := fld d W.VLY_ENERGY_E * tenJoule

/-- R277: a promise in 0.1 mAh, rounded up. -/
def promiseUnits (d : Device) (e : Nat) : Nat :=
  (e + energyUnit d * 100000000 - 1) / (energyUnit d * 100000000)

def vlyRole (d : Device) : Nat := fld d W.VLY_STATUS_ROLE

/-- R277, R359, R370: the device's promises: SOURCE its E less what it delivered, STANDBY_SOURCE its E, an incoming member
from the acknowledgement E. -/
def qVly (d : Device) : Nat :=
  let own := if vlyRole d = 1 || d.vly.owe then promiseUnits d (contractEnergy d - d.vly.energy)
    else if vlyRole d = 3 then promiseUnits d (contractEnergy d) else 0
  let inc := match d.vly.swap with
    | some x => if x.incoming && x.tX.isSome && vlyRole d != 1 then promiseUnits d (contractEnergy d) else 0
    | none => 0
  own + inc

/-- R276: the reserve. -/
def qRsv (d : Device) : Nat :=
  fld d W.GAUGE_DESC_Q_DESC + qVly d + fld d W.GAUGE_FCC_FCC * fld d W.GAUGE_CFG_MARGIN_PCT / 100

/-- R279: USABLE. -/
def usableOf (d : Device) : Nat :=
  let r := qRsv d
  let fcc := fld d W.GAUGE_FCC_FCC
  if fld d W.GAUGE_STATUS_ANCHOR = 0 ∨ fcc ≤ r then 0
  else min ((remUnits d - r).toNat * 1000 / (fcc - r)) 1000

/-- R279: the available charge. -/
def availOf (d : Device) : Nat := if fld d W.GAUGE_STATUS_ANCHOR = 0 then 0 else (remUnits d - qRsv d).toNat

/-- A flag and the event of its rise. -/
def risingFlag (f : Fld) (src : Nat) (b : Bool) (d : Device) : Device :=
  let was := flag d f
  let d := setFlag d f b
  if b && !was then raise src d else d

/-- R276, R279, R280, R284: Q_RSV, Q_VLY, USABLE, Q_AVAIL, RSV_EXCEEDS, OVERCOUNT and their events. -/
def gaugeSums (d : Device) : Device :=
  let was := fld d W.GAUGE_STATUS_USABLE
  let d := setW d W.GAUGE_REM (BitVec.ofInt 32 (remUnits d))
  let d := setFld d W.GAUGE_VLY_Q_VLY (min (qVly d) (2 ^ 20 - 1))
  let d := setFld d W.GAUGE_RSV_Q_RSV (min (qRsv d) (2 ^ 20 - 1))
  let d := setFld d W.GAUGE_AVAIL_Q_AVAIL (min (availOf d) (2 ^ 20 - 1))
  let d := setFld d W.GAUGE_ERR_ERR (min (d.gauge.err / 360000000) (2 ^ 20 - 1))
  let d := risingFlag W.GAUGE_STATUS_RSV_EXCEEDS 423 (fld d W.GAUGE_FCC_FCC ≤ qRsv d) d
  let d := risingFlag W.GAUGE_STATUS_OVERCOUNT 426 ((fld d W.GAUGE_FCC_FCC : Int) < remUnits d) d
  let now := usableOf d
  let d := setFld d W.GAUGE_STATUS_USABLE now
  if was ≠ 0 ∧ now = 0 then raise 419 d else d

/-- R56: the digest of a checkpoint. DESIGN CHOICE (log 15): the CRC-16 of R385 over its content, as the spec names none. -/
def ckptDigest (k : Checkpoint) : Nat :=
  crcWords [BitVec.ofInt 32 k.rem, BitVec.ofInt 32 (k.rem / 2 ^ 32), BitVec.ofNat 32 k.fcc, BitVec.ofNat 32 (if k.learned then 1 else 0),
    BitVec.ofNat 32 k.anchor, lowW k.err, highW k.err, BitVec.ofNat 32 k.maxI, BitVec.ofNat 32 k.vpack, k.date, k.time]

/-- A checkpoint with its digest. -/
def sealCkpt (k : Checkpoint) : Checkpoint := { k with digest := ckptDigest k }

/-- R56, R275: Thatch writes a gauge checkpoint. -/
def checkpoint (d : Device) : Device :=
  if thatchReady d then
    let g := d.gauge
    { d with gauge := { g with
        ckpt := some (sealCkpt
          { rem := g.rem, fcc := fld d W.GAUGE_FCC_FCC, learned := !flag d W.COLD_STATUS_LEARN_NOMINAL,
            anchor := fld d W.GAUGE_STATUS_ANCHOR, err := g.err, maxI := g.maxI, vpack := adcCode d 97,
            date := getW d W.RTC_DATE, time := getW d W.RTC_TIME }),
        removed := false, maxI := 0 } }
  else d

/-- R268: what of the gauge survives where PD_AFE is off. -/
def keptGauge (g : GaugeSt) : GaugeSt := { ckpt := g.ckpt, removed := g.removed }

/-- R55: the gauge's cold state: UNANCHORED, the nominal capacity. -/
def coldGauge (d : Device) : Device :=
  let d := { d with gauge := { d.gauge with rem := 0, err := 0 } }
  let d := setFlag (setFld d W.GAUGE_STATUS_ANCHOR 0) W.COLD_STATUS_GAUGE_UNANCHORED true
  gaugeSums (setFlag (setFld d W.GAUGE_FCC_FCC (fld d W.GAUGE_NOM_FCC_NOM)) W.COLD_STATUS_LEARN_NOMINAL true)

/-- R268, R27: PD_AFE goes off with the device in operation, in REPLAY: nothing is counted, and the state is lost. -/
def loseGauge (d : Device) : Device :=
  let d := [W.GAUGE_STATUS, W.GAUGE_REM, W.GAUGE_RSV, W.GAUGE_VLY, W.GAUGE_AVAIL, W.GAUGE_ERR, W.GAUGE_I, W.LEARN_DQ,
    W.LEARN_LAST].foldl (fun d a => setW d a (resetWord a)) d
  coldGauge { d with gauge := keptGauge d.gauge }

/-- R30: PD_HCD is on. -/
def hcdOn (d : Device) : Bool :=
  inMode d operModes || d.mode = .retain
  || (inMode d [.boot, .service] && (List.range 4).any (fun n =>
        (rail d n).enabled || (rail d n).falling || (rail d n).held || maskBit d W.SEQ_SVCHOLD n))

/-- R236: BK changes state; BK_ILIM is a matter of its boost direction, INLIM and HOLD_PRIO of its charge direction (R245). -/
def setBk (v : Nat) (d : Device) : Device :=
  let d := setFld d W.BK_STATUS_BK_STATE v
  let d := if 3 ≤ v ∧ v ≤ 6 then d else setFlag d W.BK_STATUS_BK_ILIM false
  if v = 2 then d
  else setFld (setFlag (setFlag d W.BK_STATUS_INLIM false) W.BK_STATUS_HOLD_PRIO false) W.CHG_IEFF_I_TARGET 0

/-- R242, R236: BK follows PD_HCD: it stops with the domain, and is idle, cut off or in fault when the domain comes back. -/
def bkFollow (d : Device) : Device :=
  if !hcdOn d then setBk 0 d
  else if fld d W.BK_STATUS_BK_STATE = 2 && !inMode d [.run, .ease, .retain] then setBk 1 d
  else if fld d W.BK_STATUS_BK_STATE ≠ 0 then d
  else setBk (if d.power.fault then 9 else if d.power.cut then 8 else if flag d W.BK_STATUS_PACK_PRESENT then 1 else 0) d

/-! ### Link messages (R298) -/

/-- R298: a message of types 0x6-0xD enters Q16 (64 entries); without room it is not placed. -/
def placeQ16 (type : Nat) (w1 w2 : Word) (d : Device) : Device :=
  if d.link.q16.length < 64 then { d with link := { d.link with q16 := d.link.q16 ++ [(type, w1, w2)] } } else d

/-- R362: P0-P3 of REJECT. -/
def rejectWord (cn reason peer seq : Nat) : Word :=
  BitVec.ofNat 32 (cn + reason * 2 ^ 8 + peer * 2 ^ 16 + seq % 256 * 2 ^ 24)

/-- VLY_LAST shows a REJECT sent. -/
def noteReject (cn reason peer : Nat) (d : Device) : Device :=
  let d := setFld (setFld d W.VLY_LAST_REASON reason) W.VLY_LAST_CN cn
  setFlag (setFld d W.VLY_LAST_PEER peer) W.VLY_LAST_SENT true

/-- R362: REJECT, and VLY_LAST. -/
def sendReject (cn reason peer seq : Nat) (d : Device) : Device :=
  placeQ16 0xB (rejectWord cn reason peer seq) 0#32 (noteReject cn reason peer d)

/-! ### The device's part (R358, R367-R369, R373) -/

def setRole (r : Nat) (d : Device) : Device := setFld d W.VLY_STATUS_ROLE r
def vlySw (d : Device) : Nat := fld d W.VLY_STATUS_SW
def setSw (v : Nat) (d : Device) : Device := setFld d W.VLY_STATUS_SW v

/-- R369: the auxiliary pair's use changes. -/
def setAux (v : Nat) (d : Device) : Device :=
  if fld d W.VLY_STATUS_AUX_MODE = v then d else raise 524 (setFld d W.VLY_STATUS_AUX_MODE v)

/-- R236: BK leaves STANDBY_BOOST: ARMED while VSUP is undervoltage, IDLE otherwise. -/
def leaveStandbyBoost (d : Device) : Device :=
  if fld d W.BK_STATUS_BK_STATE = 6 then
    setBk (if flag d W.BK_STATUS_VSUP_LOW then 3 else 1) d
  else d

/-- R370, R373: BK enters STANDBY_BOOST, where the pack allows it. -/
def standbyBoost (d : Device) : Device :=
  let s := fld d W.BK_STATUS_BK_STATE
  if 1 ≤ s ∧ s ≤ 5 then setBk 6 d else d

/-- R373: this member's part asks for STANDBY_BOOST by itself. -/
def standsBy (d : Device) : Bool := vlyRole d = 3 && flag d W.VLY_CONTRACT_FS_AUTH

/-- R370, R376: a swap in progress is cancelled: an incoming STANDBY_SOURCE opens its switch again, and BK leaves
STANDBY_BOOST unless its part asks for it. -/
def cancelSwap (d : Device) : Device :=
  match d.vly.swap with
  | some x =>
    let d := gaugeSums { d with vly := { d.vly with swap := none } }
    let d := if x.incoming && x.tX.isSome then
        (let d := if vlyRole d = 3 then setSw 0 d else d
         if standsBy d then d else leaveStandbyBoost d) else d
    raise 519 (setFlag (setFld d W.VLY_STATUS_SWAP 0) W.VLY_STATUS_STBY_DUTY false)
  | none => d

/-- R354: every conversion of VLY over the last 100 microseconds lay below 0.6 V. -/
def safeLow (d : Device) : Bool := match d.vly.lowFrom with | some t => t + 10000 ≤ d.roofTime | none => false

/-- R358, R367, R435: the device's part ends: its switch goes off, its promise leaves the reserve, VLY_END completes. -/
def dropPart (d : Device) : Device :=
  let d := { d with vly := { d.vly with pend := none, endAt := none, safeFrom := none, owe := false, suspended := none } }
  if vlyRole d = 0 then setSw 0 d
  else
    let cn := fld d W.VLY_STATUS_CN
    let d := setSw 0 (setRole 0 (cancelSwap d))
    let d := setFlag (setFlag d W.VLY_STATUS_FS_ARMED false) W.VLY_STATUS_STBY_DUTY false
    let d := setAux 0 (leaveStandbyBoost d)
    let d := gaugeSums { d with vly := { d.vly with cur := none, energy := 0 } }
    completeAll (fun c => c.op == 0x52) .ok (fun _ => BitVec.ofNat 32 cn) (fun _ => 0#32) (raise 513 d)

/-- R367: a SOURCE whose part a change of mode ends sends REJECT reason 0. -/
def sourceLeaves (d : Device) : Device :=
  if vlyRole d = 1 then sendReject (fld d W.VLY_STATUS_CN) 0 (fld d W.VLY_CONTRACT_SOURCE) 0 d else d

/-! ### Backup energy (R238, R365) -/

def vpackMv (d : Device) : Nat := adcCode d 97 * 4

/-- R238: the device's own pack is above reserve. -/
def packReady (d : Device) : Bool :=
  let s := fld d W.BK_STATUS_BK_STATE
  flag d W.BK_STATUS_PACK_PRESENT && !(s = 7 || s = 8 || s = 9)
  && nCells d * (2000 + 10 * fld d W.PACK_CFG_VCUT) ≤ vpackMv d

/-- R365: a SINK draws from the line within its window. -/
def lineReady (d : Device) : Bool := vlyRole d = 2 && vlySw d = 1 && flag d W.VLY_STATUS_IN_WINDOW

/-- R238, R365: backup energy above reserve. -/
def aboveReserve (d : Device) : Bool := packReady d || lineReady d

/-- R365: a SINK without a pack or a working BK rides on the line alone. -/
def ridesLine (d : Device) : Bool :=
  let s := fld d W.BK_STATUS_BK_STATE
  vlyRole d = 2 && (!flag d W.BK_STATUS_PACK_PRESENT || s = 7 || s = 8 || s = 9)

end Sys2Proof.Machine
end

