-- ==== Sys2Proof/Machine/SeqOps.lean ====
section
/-! DEFINITION. Mode transitions (R32), power-up (R177-R182), descents (R184-R196), latching and retries (R197), fault
actions (R216-R221): the shared operations of sequencing and supervision. -/

namespace Sys2Proof.Machine

/-! ### Modes -/

/-- R319: the state in which the link starts or hunts again: a device that found an address conflict stays silent. -/
def huntState (d : Device) : Nat := if flag d W.LNK_STATUS_ADDR_CONFLICT then 8 else 1

/-- R30, R287, R309: PD_LINK is off or LINK_EN is cleared: the device leaves the ridge link and drives nothing; one that runs alone
keeps its time. -/
def linkOff (d : Device) : Device :=
  if flag d W.LNK_CTRL_LINK_EN || fld d W.LNK_STATUS_LINK_STATE ≠ 0 then
    let silent := flag d W.LNK_STATUS_ADDR_CONFLICT
    let d := setFlag (setW (setW d W.LNK_STATUS 0#32) W.LNK_DELAY 0#32) W.LNK_STATUS_ADDR_CONFLICT silent
    let d := setFlag d W.COLD_STATUS_LINK_UNDISCIPLINED true
    let d := setFld (setFld d W.ROOF_STATUS_PART (if flag d W.LNK_CTRL_LINK_EN then 1 else 0)) W.ROOF_STATUS_PHASE 0
    let d := setFlag (setFld d W.ROOF_STATUS_EXCL_CAUSE 0) W.ROOF_STATUS_HOLD_IN_FORCE false
    { (setW d W.ROOF_MEMBERS 0#32) with link := { fnHigh := d.link.fnHigh }, seq := { d.seq with holdFrom := none } }
  else d

/-- R609: the trace store is not retained in RETAIN; it is empty afterwards. -/
def loseTrace (d : Device) : Device :=
  { (setFld d W.TRC_STATUS_STATE 0) with log := { d.log with
      copyTo := none, wantCopy := none, areas := [], key := none, entries := [], block := none, prevRaw := [] } }

/-- R30, R31, R507: in STANDBY and DORMANT the PLL stops; in DORMANT `IDG` is off and PD_BK runs from `VBK`, locked. -/
def fallAsleep (m : Mode) (d : Device) : Device :=
  let d := setFlag d W.CLK_STATUS_PLL_LOCKED false
  if m = .dormant then
    { (setFlag d W.BK_STATUS_IDG_ON false) with rtc := { d.rtc with locked := true, onVbk := true } }
  else d

/-- R164, R242, R358: the effects of entering a mode: every mode but RUN, EASE and HOLDUP asserts all four safe-state
outputs, BK stops in a mode whose PD_HCD is off (R30), a valley part is held only in RAMP-DESCEND, and the gauge is
checkpointed on entry to STANDBY, DORMANT, RETAIN and LATCHED (R56). -/
def enterMode (m : Mode) (d : Device) : Device :=
  let d := if d.mode = .ease ∧ m ≠ .ease then leaveEase d else d
  let d := setMode m d
  let d := if m = .retain then loseTrace (setFlag d W.ADC_STATUS_LOW_POWER true) else d
  let d := if m = .retain ∨ m = .replay ∨ m = .standby ∨ m = .dormant then linkOff d else d
  let d := if m = .run ∨ m = .ease ∨ m = .holdup then d else assertSso 15 false d
  let d := if inMode d operModes then d else dropPart (sourceLeaves d)
  let d := if m = .latched ∨ m = .standby ∨ m = .dormant ∨ m = .retain then checkpoint d else d
  let d := if m = .standby ∨ m = .dormant then fallAsleep m d else d
  let d := if m = .replay then loseGauge d else d
  bkFollow d

/-- R193: the earliest T0. -/
def earliestT0 (d : Device) : Nat :=
  match d.seq.lastFall with
  | some t => t + fld d W.SEQ_CTRL_T_REST * 100000
  | none => 0

/-- SEQ_STATE of a sequencer that does nothing: it rests for t_REST after the last fall (6), or is idle. -/
def restState (d : Device) : Nat := if d.roofTime < earliestT0 d then 6 else 0

/-- R646: an entry to BOOT that follows no reset and no wake: BOOT_STAGE reads 3, and stage 3 runs (BOOT_ENTRY). -/
def enterBoot (d : Device) : Device :=
  let d := enterMode .boot d
  let d := setFld d W.MODE_STATUS_BOOT_STAGE 3
  let d := setFld d W.SEQ_STATUS_SEQ_STATE (restState d)
  { d with core := { d.core with path := .again, bootReady := false, refLost := false } }

/-- The mode that DESC_NEXT names (MODE_CTRL). -/
def descNext (d : Device) : Mode :=
  match fld d W.MODE_CTRL_DESC_NEXT with
  | 0 => .dormant | 1 => .standby | _ => .boot

/-- A transition to a mode of R32 by its entry rules. -/
def goTo (m : Mode) (d : Device) : Device := if m = .boot then enterBoot d else enterMode m d

/-- R43, R197: LATCHED with a cause; an automatic retry is granted for cause 1 (or `retry`) while RETRY_CNT is below
RETRY_MAX, and the device waits for it. A thermal latch that grants none sets TH_LATCH (R483). -/
def enterLatched (cause : Nat) (retry : Bool) (d : Device) : Device :=
  let d := enterMode .latched d
  let d := setFlag (setFld d W.MODE_STATUS_LATCH_CAUSE cause) W.MODE_STATUS_LATCH_HELD true
  let may := (cause = 1 ∨ retry) ∧ fld d W.SEQ_STATUS_RETRY_CNT < fld d W.SEQ_CTRL_RETRY_MAX
  let d := { d with seq := { d.seq with desc := none, t0 := none, request := false, retryWait := decide may, noRetry := false, latchAt := d.roofTime } }
  let d := setFlag d W.SEQ_STATUS_UP_PENDING false
  setFld d W.SEQ_STATUS_SEQ_STATE (if may then 7 else restState d)

/-! ### T0 and power-up (R177-R182, R193) -/

/-- R178, R177: SEQ_T0 takes the instant of T0 or T_D. -/
def putT0 (t : Nat) (d : Device) : Device :=
  setW (setW d W.SEQ_T0 (lowW t)) (W.SEQ_T0 + 1) (highW t)

/-- R177, R333: T0 is fixed at `t`: SEQ_T0, SEQ_STATE, and every waiting SEQ_UP completes with T0. -/
def fixT0 (t : Nat) (d : Device) : Device :=
  let d := setFld (putT0 t d) W.SEQ_STATUS_SEQ_STATE 1
  let d := { d with seq := { d.seq with t0 := some t, slip := 0, request := false, retryStart := false } }
  completeAll (fun c => c.op == 0x20) .ok (fun _ => lowW t) (fun _ => highW t) d

/-- R35, R309: the device runs alone. -/
def alone (d : Device) : Bool := fld d W.ROOF_STATUS_PART == 0

/-- R193: a rail that failed to fall still lies above its off-threshold. -/
def stuckHigh (d : Device) : Bool := (List.range 32).any (fun n => (rail d n).above)

/-- R423, R177, R35: a standing start request on a device that runs alone fixes T0 200 microseconds ahead, no earlier than
R193 allows, once BOOT is ready, roof time is disciplined and no rail is stuck high. -/
def tryStart (d : Device) : Device :=
  if ((d.mode = .boot ∧ d.core.bootReady) ∨ (d.mode = .ramp ∧ fld d W.SEQ_STATUS_SEQ_STATE = 1)) ∧ d.seq.request ∧ d.seq.t0 = none ∧ alone d ∧ flag d W.LNK_STATUS_DISCIPLINED
      ∧ !stuckHigh d then
    fixT0 (max (d.roofTime + 20000) (earliestT0 d)) d
  else d

/-- R179, R201: every rail of the power-up is up, or retained and so counted as up: all of IN_SEQ in RAMP, all service-hold rails
in SERVICE. -/
def rampDone (d : Device) : Bool :=
  (List.range 32).all (fun n =>
    !configured d n || !(if d.mode = .service then maskBit d W.SEQ_SVCHOLD n else inSeq d n) || (rail d n).pg
      || rstate d n = 9)

/-- R32, R33, R478: in RUN and EASE, of the conditions that hold the one whose target comes first: HOLDUP with `VSUP`
undervoltage and backup energy above reserve (with the record of R556), EASE in RUN with a sensor at THROTTLE, RUN in EASE with
none. -/
def settleRun (d : Device) : Device :=
  if (d.mode = .run ∨ d.mode = .ease) ∧ flag d W.BK_STATUS_VSUP_LOW ∧ aboveReserve d then
    gutter 0x09 0xFF 0 (BitVec.ofNat 32 (fld d W.GAUGE_STATUS_USABLE)) (enterMode .holdup d)
  else if d.mode = .run ∧ flag d W.TH_STATUS_THROTTLING then enterMode .ease d
  else if d.mode = .ease ∧ !flag d W.TH_STATUS_THROTTLING then enterMode .run d
  else d

/-! ### Descents -/

/-- R185: predecessor `p` counts as fallen. -/
def predFallen (d : Device) (p : Nat) : Bool :=
  !configured d p || ((rstate d p = 0) && !(rail d p).fallFail)
  || (match d.seq.desc with
      | some x => x.kind = .retain && maskBit d W.SEQ_RETAIN p
      | none => false)

/-- R184: rail `n` waits for no predecessor. -/
def gateOpen (d : Device) (n : Nat) : Bool :=
  !flag d W.SEQ_SLOT_OFF_GATED n ||
    (List.range 32).all (fun p => !maskBit d (W.SEQ_PRED + 4 * n) p || predFallen d p)

/-- R184, R195: a rail whose delay has passed begins its stop, or waits for its gate. -/
def stopOrGate (n : Nat) (d : Device) : Device :=
  if gateOpen d n then beginStop n true d
  else setRstate n 5 (modRail n (fun r => { r with stopStart := d.roofTime }) d)

/-- R194: the on-delay of a rail. -/
def onDly (d : Device) (n : Nat) : Nat := fld d W.SEQ_SLOT_ON_ON_DLY n

/-- R194: the step of rail `n` among the rails `acts` that are up or ramping. -/
def faultStep (d : Device) (acts failed : List Nat) (n : Nat) : Nat :=
  if failed.contains n then 1
  else 1 + (((acts.map (onDly d)).eraseDups).filter (fun x => onDly d n < x)).length

/-- R191, R195 and the timelines of 07: a rail that has begun its ramp and is not up yet, its ramp ended or not, its timeout
run out or not. -/
def ramping (d : Device) (n : Nat) : Bool := (rail d n).ph = .rampUp || rstate d n = 2 || rstate d n = 8

/-- R186, R191, R195: a rail of the step in force: a ramping rail reverses at once, an up rail stops or waits for its gate; the fall
of a rail that was gated before is judged from now. -/
def stepRail (d : Device) (n : Nat) : Device :=
  if (rail d n).falling then (if (rail d n).gated then modRail n (fun r => { r with stopStart := d.roofTime }) d else d)
  else if (rail d n).waitBias || !(rail d n).enabled then d
  else if ramping d n then beginStop n false d
  else stopOrGate n d

/-- R195: step `k` of the fault descent begins. -/
def beginStep (k : Nat) (d : Device) : Device :=
  let d := match d.seq.desc with
    | some x => { d with seq := { d.seq with desc := some { x with step := k } } }
    | none => d
  ((List.range 32).filter (fun n => (rail d n).inDesc && (rail d n).step == k)).foldl stepRail d

/-- R164: the outputs named by the rails of the descent. -/
def descSso (d : Device) : Nat :=
  (List.range 32).foldl (fun m n => if (rail d n).inDesc then m ||| assoc d n else m) 0

/-- R416: the commands that a fault descent ends with ABORTED. -/
def abortedByFault (c : Cmd) : Bool :=
  c.op == 0x20 || c.op == 0x21 || c.op == 0x22 || c.op == 0x23 || c.op == 0x30 || c.op == 0x31
  || (c.op == 0x25 && (bitsOf (c.p 0) 3 0 == 11 || bitsOf (c.p 0) 3 0 == 4))

/-- R416, R555: a self-test in progress ends: its threshold is restored, a calibration it runs is given up. -/
def stopTests (d : Device) : Device :=
  match running d 0x31 with
  | [] => d
  | c :: _ =>
    let d := setFld d W.BG_STATUS_ST_ACTIVE 0
    if bitsOf (c.p 0) 3 0 = 2 && c.aux ≠ [] then
      setFld d W.ADC_STATUS_CALIBRATING (setBitNat (fld d W.ADC_STATUS_CALIBRATING) (bitsOf (c.p 0) 21 20) false)
    else if bitsOf (c.p 0) 3 0 = 1 then endAborted c d
    else d

/-- R185, R190: rails of a descent that have neither fallen nor failed to fall, and those still discharging. -/
def descBusy (d : Device) : List Nat :=
  (List.range 32).filter (fun n => (rail d n).inDesc && !(rail d n).fallFail)
def descForced (d : Device) : List Nat := (List.range 32).filter (fun n => (rail d n).inDesc && (rail d n).forced)

/-- R190, R32: the descent has ended: the transition follows, and the commands that wait for it complete. A request that waited on a
retain descent has no BOOT to start from and falls away (DESIGN CHOICE, log 31). -/
def endDescent (x : Descent) (d : Device) : Device :=
  let d := (List.range 32).foldl (fun d n =>
      if (rail d n).inDesc then setRstate n 0 (modRail n (fun r => { r with inDesc := false, step := 0 }) d) else d) d
  let up := flag d W.SEQ_STATUS_UP_PENDING
  let d := { d with seq := { d.seq with desc := none, request := up, reqAt := d.roofTime } }
  let d := setFld d W.SEQ_STATUS_SEQ_STATE (restState d)
  let sd := fun (_ : Cmd) => lowW x.tD
  let sh := fun (_ : Cmd) => highW x.tD
  let d := completeAll (fun c => c.op == 0x21) .ok sd sh d
  match x.kind with
  | .fault => enterLatched x.cause (x.next = .boot) d
  | .retain =>
    let d := setFlag { d with seq := { d.seq with request := false } } W.SEQ_STATUS_UP_PENDING false
    completeAll (fun c => c.op == 0x25 && bitsOf (c.p 0) 3 0 == 11) .ok (fun c => c.aux.getD 0 0#32) (fun _ => 0#32)
      (enterMode .retain d)
  | .service =>
    completeAll (fun c => c.op == 0x25 && bitsOf (c.p 0) 3 0 == 2) .ok (fun c => c.aux.getD 0 0#32) (fun _ => 0#32)
      (enterBoot d)
  | .orderly =>
    if x.cause ≠ 0 then enterLatched x.cause false d else setFlag (goTo (descNext d) d) W.SEQ_STATUS_UP_PENDING false
  | .abort => setFlag (goTo (descNext d) d) W.SEQ_STATUS_UP_PENDING false

/-- R184, R195, R190: what follows when a rail has fallen or failed to fall: open gates release, the next fault step begins (rails
that were falling before the descent are in no step, R196), the descent ends. -/
def descentProgress (d : Device) : Device :=
  let d := ((List.range 32).filter (fun n => rstate d n == 5)).foldl
    (fun d n => if gateOpen d n && rstate d n == 5 then beginStop n true d else d) d
  match d.seq.desc with
  | none => d
  | some x =>
    let busy := descBusy d
    let steps := busy.filter (fun n => (rail d n).step != 0)
    if busy = [] then (if descForced d = [] then endDescent x d else d)
    else if x.kind = .fault ∧ steps ≠ [] ∧ steps.all (fun n => x.step < (rail d n).step) then
      beginStep (steps.foldl (fun m n => min m (rail d n).step) 1000) d
    else d

/-- The rail is up or ramping: its disable has not begun. One that has fallen with its reference still on the way is neither. -/
def upOrRamping (d : Device) (n : Nat) : Bool :=
  (rail d n).enabled && !(rail d n).falling && !(rail d n).waitBias && (rail d n).ph != .rampDown

/-- R184, R186: a rail becomes a member of a non-fault descent that starts at `tD`: it is one of `rs` that has not fallen, or it is
falling already; the fall timeout of one gated before counts from T_D plus its off-delay. -/
def joinDescent (rs : List Nat) (tD : Nat) (d : Device) (n : Nat) : Device :=
  if (rs.contains n && (upOrRamping d n || (rail d n).waitBias)) || (rail d n).falling then
    let off := fld d W.SEQ_SLOT_OFF_OFF_DLY n * 1000
    modRail n (fun r => { r with
      inDesc := true, step := 0,
      stopStart := if !r.falling then tD else if r.gated then tD + off else r.stopStart }) d
  else d

/-- R184, R191, R201, R202, R178: a non-fault descent starts with the rails `rs`: T_D, the outputs it names, rails not yet
started never start, ramping rails reverse, up rails wait for their off-delay (OFF_DELAY). A `cause` other than 0 lets an
orderly descent end in LATCHED (R52). -/
def startDescentTo (cause : Nat) (kind : DescKind) (rs : List Nat) (d : Device) : Device :=
  let tD := d.roofTime
  let d := { d with seq := { d.seq with desc := some { kind := kind, tD := tD, cause := cause }, t0 := none, svcUp := false, lastFall := none } }
  let d := setFld (putT0 tD d) W.SEQ_STATUS_SEQ_STATE 4
  let d := (List.range 32).foldl (fun d n => if rstate d n = 1 then setRstate n 0 d else d) d
  let d := (List.range 32).foldl (joinDescent rs tD) d
  let d := assertSso (descSso d) false d
  let d := if kind = .service then d else enterMode .descend (setFlag d W.MODE_STATUS_HOLDUP_PENDING false)
  let d := (rs.filter (upOrRamping d)).foldl (fun d n =>
      if ramping d n then beginStop n false d else setRstate n 4 d) d
  descentProgress d

/-- A descent that leads where its kind says. -/
def startDescent (kind : DescKind) (rs : List Nat) (d : Device) : Device := startDescentTo 0 kind rs d

/-- R194, R196: a rail whose disable waits under the interlock or for a gate of the descent before, and that was not gated, waits for
its step again. -/
def recallRail (d : Device) (n : Nat) : Device :=
  if (rail d n).gated then d
  else
    let d := if (rail d n).waitBias then
        setFlag (modRail n (fun r => { r with waitBias := false }) d) W.GB_RSTATUS_INTERLOCK_WAIT false (n - 24) else d
    if rstate d n = 4 || rstate d n = 5 then setRstate n 3 d else d

/-- R224: rails that fail in the cycle in which a fault descent began are failed rails of it: they join step 1. -/
def joinStep1 (failed : List Nat) (d : Device) : Device :=
  failed.foldl (fun d n =>
    if (rail d n).enabled || (rail d n).falling then stepRail (modRail n (fun r => { r with inDesc := true, step := 1 }) d) n
    else d) d

/-- R194-R196, R416, R222: a fault descent starts, or the present descent becomes one, with failed rails `failed`; it ends
in LATCHED with `cause`. `retry` true lets R484 or R349 grant a retry. -/
def faultDescent (failed : List Nat) (cause : Nat) (retry : Bool) (d : Device) : Device :=
  match d.seq.desc with
  | some { kind := .fault, tD := t, .. } => descentProgress (if t = d.roofTime then joinStep1 failed d else d)
  | _ =>
    let d := trigIf W.TRC_TRIG_T_FDESC 2 d
    let tD := d.roofTime
    let d := (List.range 32).foldl recallRail d
    let acts := (List.range 32).filter (upOrRamping d)
    let d := { d with seq := { d.seq with
        desc := some { kind := .fault, tD := tD, step := 0, cause := cause, next := if retry then .boot else .latched },
        t0 := none, svcUp := false, lastFall := none, request := false } }
    let d := setFlag (setFld (putT0 tD d) W.SEQ_STATUS_SEQ_STATE 5) W.SEQ_STATUS_UP_PENDING false
    let d := (List.range 32).foldl (fun d n => if rstate d n = 1 then setRstate n 0 d else d) d
    let d := acts.foldl (fun d n => modRail n (fun r => { r with inDesc := true, step := faultStep d acts failed n }) d) d
    let d := ((List.range 32).filter (fun n => (rail d n).falling || (rail d n).waitBias)).foldl
      (fun d n => modRail n (fun r => { r with
          inDesc := true, step := if failed.contains n then 1 else 0,
          stopStart := if r.gated then tD else r.stopStart }) d) d
    let d := assertSso (descSso d) false d
    let d := enterMode .descend (setFlag d W.MODE_STATUS_HOLDUP_PENDING false)
    let d := endDrill 1 7 .aborted (endDrill 0 7 .aborted d)
    let d := completeAll abortedByFault .aborted (fun _ => 0#32) (fun _ => 0#32) (stopTests d)
    descentProgress (beginStep 1 d)

/-! ### Supervision actions (R216-R221) -/

/-- R22, R223: a rail fault of the supervision paths latches: the first action of its fault descent comes 6 CK_SYS later, unless one
runs already. Rows that follow before roof time moves on belong to the cycle of the latch (R224, log 1). -/
def afterLatch (d : Device) : Device :=
  match d.seq.desc with
  | some { kind := .fault, .. } => d
  | _ =>
    let first := d.seq.firstAt = d.roofTime
    let snap := d.log.snapAt = some d.roofTime
    let d := advanceTo (d.roofTime + 6) d
    let d := if snap then { d with log := { d.log with snapAt := some d.roofTime } } else d
    if first then { d with seq := { d.seq with firstAt := d.roofTime } } else d

/-- R220, R224: the first action since the last accepted LATCH_CLEAR loads SUP_FIRST; of actions in one CK_SYS cycle the
lowest rail, and of one rail the class that ranks first. -/
def loadFirst (n cause : Nat) (d : Device) : Device :=
  let better := d.seq.firstAt = d.roofTime ∧
    (n < fld d W.SUP_FIRST_RAIL ∨ (n = fld d W.SUP_FIRST_RAIL ∧ cause < fld d W.SUP_FIRST_CAUSE))
  if flag d W.SUP_FIRST_VALID ∧ ¬better then d
  else
    let d := setFlag (setFld (setFld d W.SUP_FIRST_RAIL n) W.SUP_FIRST_CAUSE cause) W.SUP_FIRST_VALID true
    { d with seq := { d.seq with firstAt := d.roofTime } }

/-- R220: FAULT_LATCH, the gutter record and SUP_FIRST of a GATE or DESCEND action on rail `n` with cause code `cause`. -/
def recordAction (n cause : Nat) (d : Device) : Device :=
  let d := setFlag d W.SUP_STATUS_FAULT_LATCH true n
  let d := loadFirst n cause d
  let d := gutter 0x01 n cause (BitVec.ofNat 32 (bitsOf (getW d (W.SUP_STATUS + 32 * n)) 12 8)) d
  trigIf W.TRC_TRIG_T_SUP 1 d

/-- R216, R217: the action code `act` (0 REPORT, 1 GATE, 2 DESCEND) on rail `n`: a GATE of a sequenced rail acts as DESCEND;
`noSink` marks an overvoltage or overcurrent (R219). R222 tells the roof. -/
def supAct (n cause act : Nat) (noSink : Bool) (d : Device) : Device :=
  if act = 0 then d
  else
    let d := gateRail n noSink (recordAction n cause d)
    let desc := act = 2 ∨ inSeq d n
    if desc then
      let d := match d.seq.desc with
        | some { kind := .fault, .. } => d
        | _ => insertUrgent 0 (firstRail d) d
      faultDescent [n] 1 false (afterLatch d)
    else
      completeAll (fun c => c.op == 0x22 && bitsOf (c.p 0) 4 0 == n) .hwFault (fun _ => 0#32) (fun _ => 0#32) (descentProgress d)

/-- R106, R133, R216: a rail left with no phase is in fault: its PHASE_FAULT and UV sources and its UV_ACT. -/
def noPhaseLeft (n : Nat) (d : Device) : Device :=
  supAct n 4 (fld d W.SUP_ACT_UV_ACT n) false (raise (32 + n) d)

/-- R184-R190: rail `n` has fallen: it is off, its fall is dated, and what waits on it goes on. -/
def railFallen (n : Nat) (d : Device) : Device :=
  let r := rail d n
  let d := setRstate n 0 (modRail n (fun r => { r with falling := false, above := false }) d)
  let d := if r.forced then endForced n d else d
  let d := modRail n (fun r => { r with inDesc := r.inDesc && r.fallFail }) d
  let d := { d with seq := { d.seq with lastFall := some d.roofTime } }
  let d := completeAll (fun c => c.op == 0x23 && bitsOf (c.p 0) 4 0 == n) .ok (fun _ => lowW r.stopStart) (fun _ => 0#32) d
  descentProgress d

end Sys2Proof.Machine
end

