-- ==== Sys2Proof/Machine/Settings.lean ====
section
/-! DEFINITION. The rules that judge a setting: the OTP envelope (R78, R79), the rules between fields, the rules of each
chapter for a write of its words, in the order of R411 (R420). -/

namespace Sys2Proof.Machine

/-! ### The envelope in force (R78, R63) -/

/-- A 64-bit shadow word of OTP (R63). -/
def shadowW (d : Device) (w : Nat) : Nat := SMap.get (fun _ => 0) d.otp.shadow w

/-- Byte `k` of region 2 (R57), and the little-endian fields of R78. -/
def envByte (d : Device) (k : Nat) : Nat := (shadowW d (192 + k / 8) >>> (8 * (k % 8))) % 256
def envU16 (d : Device) (k : Nat) : Nat := envByte d k + 256 * envByte d (k + 1)
/-- A field whose zero means the rating `r`. -/
def envOr (d : Device) (k r : Nat) : Nat := if envU16 d k = 0 then r else envU16 d k

def envVmin (d : Device) (n : Nat) : Nat := envU16 d (16 * n)
def envVmax (d : Device) (n : Nat) : Nat := envU16 d (16 * n + 2)
def envImax (d : Device) (n : Nat) : Nat := envU16 d (16 * n + 4)
def envSlew (d : Device) (n : Nat) : Nat := envU16 d (16 * n + 6)
def envFlags (d : Device) (n : Nat) : Nat := envU16 d (16 * n + 8)
def railForbidden (d : Device) (n : Nat) : Bool := (envFlags d n).testBit 0
def noServiceHold (d : Device) (n : Nat) : Bool := (envFlags d n).testBit 1
def noRetain (d : Device) (n : Nat) : Bool := (envFlags d n).testBit 2
def roofAddrForbidden (d : Device) : Nat := envByte d 0x200
def roofForbidden (d : Device) : Bool := (envByte d 0x201).testBit 0
/-- R78: `BIAS_PAIR[k]`. -/
def biasPair (d : Device) (k : Nat) : Nat := envByte d (0x204 + k) % 16
def chgCvMax (d : Device) : Nat := envU16 d 0x20C
def chgIMax (d : Device) : Nat := envOr d 0x20E 6000
def chgCellsMax (d : Device) : Nat := if envByte d 0x210 = 0 then 4 else envByte d 0x210
def chgFlags (d : Device) : Nat := envByte d 0x211
def safeCv (d : Device) : Nat := envU16 d 0x212
def safeI (d : Device) : Nat := envU16 d 0x214
def vlyVMax (d : Device) : Nat := envOr d 0x216 16000
def vlyIsrcMax (d : Device) : Nat := envOr d 0x218 5000
def vlyIsnkMax (d : Device) : Nat := envOr d 0x21A 5000
def vlyForbidden (d : Device) : Bool := (envByte d 0x21C).testBit 0
def fastSwapForbidden (d : Device) : Bool := (envByte d 0x21C).testBit 1
def permitChgWd (d : Device) : Bool := (envByte d 0x220).testBit 0

/-! ### The envelope checker (R79) -/

/-- The rail current limit of R79 in 10 mA: R119 (HC), R143 (cluster), the peak limit of a small buck, the limit of R147,
`IHI` of a GB rail. -/
def railLimit (d : Device) (n : Nat) : Nat :=
  match railKind n with
  | .hc =>
    let dropped := fld d W.HC_STATUS_PH_DROPPED n
    (bitsIn (hcGang d n) 4).foldl (fun m k => if dropped.testBit k then m else m + fld d W.HC_ILIM_IPK k) 0
  | .cl =>
    let own := ((rolePhases d n).filter (fun p => !flag d W.PH_STATUS_FAILED p)).length
    (own + (if spareEngagedOn d n then 1 else 0)) * fld d W.CL_ILIM_IPK (n - 4)
  | .sb => fld d W.SB_ILIM_IPK (n - 12)
  | .ld => match fld d W.LD_CFG_ILIM_SEL (n - 18) with | 0 => 10 | 1 => 20 | _ => 35
  | .gb => fld d W.GB_ILIM_IHI (n - 24)

/-- R79: the set point lies within `VMIN`-`VMAX`. -/
def vOk (d : Device) (n : Nat) : Bool :=
  setPoint d n = 0 || (envVmin d n * 10 ≤ setPoint d n && (envVmax d n = 0 || setPoint d n ≤ envVmax d n * 10))
/-- R79: the current limit is at most `IMAX`. -/
def iOk (d : Device) (n : Nat) : Bool := envImax d n = 0 || railLimit d n ≤ envImax d n
/-- R79: the ramp slope is at most the envelope `SLEW`. -/
def rampOk (d : Device) (n : Nat) : Bool :=
  envSlew d n = 0 || setPoint d n ≤ envSlew d n * fld d W.SEQ_SLOT_ON_RAMP n * 10
/-- R79: the change slope is at most the envelope `SLEW`. -/
def slewOk (d : Device) (n : Nat) : Bool := railKind n = .gb || envSlew d n = 0 || slewOf d n ≤ envSlew d n
/-- R79: a configured rail is not `FORBIDDEN`. -/
def allowedRail (d : Device) (n : Nat) : Bool := setPoint d n = 0 || !railForbidden d n

/-! ### Failures (R411, R420) -/

/-- A failed check: its step in R411, its code, and the least significant bit of the failing field, where one fails. -/
structure Fail where
  step : Nat
  st : Status
  lsb : Option Nat := none
deriving DecidableEq, Repr

/-- R411, R420: of two failures the one at the earlier step, then the one of the higher field. -/
def worse (a b : Fail) : Fail :=
  if a.step < b.step then a else if b.step < a.step then b
  else if a.lsb.getD 0 < b.lsb.getD 0 then b else a

def pickFail (fs : List Fail) : Option Fail :=
  match fs with
  | [] => none
  | f :: t => some (t.foldl worse f)

/-- R420: W1 of a refused write. -/
def failW1 (f : Fail) : Word :=
  match f.lsb with
  | some l => if f.st = .badParam ∨ f.st = .deniedEnvelope ∨ f.st = .deniedPermission
      then BitVec.ofNat 32 (2 ^ 31 + l % 32) else 0#32
  | none => 0#32

def failIf (b : Bool) (step : Nat) (st : Status) (lsb : Nat) : List Fail := if b then [⟨step, st, some lsb⟩] else []
def bad (b : Bool) (lsb : Nat) : List Fail := failIf b 3 .badParam lsb
def env (b : Bool) (lsb : Nat) : List Fail := failIf b 6 .deniedEnvelope lsb
def modeFail (b : Bool) : List Fail := if b then [⟨4, .deniedMode, none⟩] else []

/-! ### Rules between fields, judged on the words in force -/

/-- A rail word of pages 0x04-0x07: its rail. -/
def railOfCfg (a : Nat) : Nat := (a - 0x400) / 32

/-- R94: the target of an external divider lies within 0.600-1.200 V. -/
def divOk (c : Device) (n : Nat) : Bool :=
  !flag c W.HC_CFG_EXT_FB n || vcode c n = 0 ||
    (600 * fld c W.HC_DIV_DIVK n ≤ vcode c n * 10240 && vcode c n * 10240 ≤ 1200 * fld c W.HC_DIV_DIVK n)

/-- R92, R119: `IPK` x `RSNS` within 5-100 mV on a channel that serves a configured rail (10 mA x 10 microohm = 0.1 microvolt). -/
def senseOk (c : Device) (k : Nat) : Bool :=
  !configured c (hcLeader c k) ||
    (50000 ≤ fld c W.HC_ILIM_IPK k * fld c W.HC_RSNS_RSNS k && fld c W.HC_ILIM_IPK k * fld c W.HC_RSNS_RSNS k ≤ 1000000)

/-- R101: the ganging combinations. -/
def gangOk (c : Device) (k : Nat) : Bool :=
  let g := fld c W.HC_CFG_GANG k
  if k = 0 then g ≤ 1 || (g = 2 && fld c W.HC_CFG_GANG 2 = 0)
  else if k = 2 then g = 0 || (g = 1 && fld c W.HC_CFG_GANG 0 ≠ 2)
  else g = 0

/-- R93, R427, R645: the set point of a rail within its field's range, 0 and only 0 on an unconfigured rail. -/
def vcodeOk (c : Device) (n : Nat) : Bool :=
  let v := fld c (vcodeFld n) (railIdx n)
  if configured c n then
    match railKind n with
    | .hc => 80 ≤ v && v ≤ (if flag c W.HC_CFG_EXT_FB n then 2400 else 550)
    | .cl => 120 ≤ v && v ≤ 720
    | .sb => 60 ≤ v && v ≤ 500
    | .ld => 32 ≤ v && v ≤ 200
    | .gb => 100 ≤ v && v ≤ 4000
  else v = 0

/-- R79 on a word that holds rail `n`'s set point, with the field's lsb. -/
def setPointFails (c : Device) (n lsb : Nat) : List Fail :=
  bad (!vcodeOk c n) lsb ++ env (!vOk c n || !rampOk c n || !allowedRail c n) lsb

/-- The rules of 04-06 and 08 on the words of rail `n` at offset `o` of its block. -/
def railWordFails (c : Device) (n o : Nat) : List Fail :=
  if o = 17 then bad (n < 12 && railLimit c n < fld c W.SUP_OC_OC_TH n) 16
  else
  match railKind n with
  | .hc =>
    if o = 0 then bad (!gangOk c n) 28 ++ env (!iOk c (hcLeader c n)) 28
    else if o = 1 then setPointFails c n 0 ++ bad (!divOk c n) 0
    else if o = 2 then env (!slewOk c n) 0
    else if o = 3 then bad (!divOk c n) 0
    else if o = 5 then bad (fld c W.HC_ILIM_IPK n ≤ fld c W.HC_ILIM_IVL n) 16 ++ bad (!senseOk c n) 0
      ++ env (!iOk c (hcLeader c n)) 0
    else if o = 7 then bad (!senseOk c n) 0
    else []
  | .cl =>
    if o = 1 then setPointFails c n 0
    else if o = 2 then env (!slewOk c n) 0
    else if o = 4 then bad (fld c W.CL_ILIM_IPK (n - 4) ≤ fld c W.CL_ILIM_IVL (n - 4)) 16 ++ env (!iOk c n) 0
    else []
  | .sb =>
    if o = 1 then setPointFails c n 0
    else if o = 2 then env (!slewOk c n) 0
    else if o = 3 then bad (fld c W.SB_ILIM_IPK (n - 12) ≤ fld c W.SB_ILIM_IVL (n - 12)) 12 ++ env (!iOk c n) 0
    else []
  | .ld =>
    if o = 0 then setPointFails c n 0 ++ env (!iOk c n) 8
    else if o = 1 then env (!slewOk c n) 0
    else []
  | .gb =>
    if o = 1 then bad (fld c W.GB_ILIM_IHI (n - 24) ≤ fld c W.GB_ILIM_ILO (n - 24)) 0 ++ env (!iOk c n) 16
    else if o = 2 then setPointFails c n 0
    else []

/-- The gated rails of a set that still have a predecessor in it: `k` rounds (R174). -/
def stuckGated (c : Device) (k : Nat) (m : List Nat) : List Nat :=
  match k with
  | 0 => m
  | k + 1 => stuckGated c k (m.filter (fun n => m.any (fun p => maskBit c (W.SEQ_PRED + 4 * n) p)))

/-- R174: the `PRED` masks of the gated rails have a cycle. -/
def predCycle (c : Device) : Bool :=
  stuckGated c 32 ((List.range 32).filter (fun n => flag c W.SEQ_SLOT_OFF_GATED n)) ≠ []

/-- R174, R79: the slot-table word `k` (0-3) of rail `n`. -/
def slotFails (c : Device) (n k : Nat) : List Fail :=
  let pg := fld c W.SEQ_TIMEOUT_PG_TO n
  let short := pg ≠ 0 && pg < fld c W.SEQ_SLOT_ON_RAMP n
  let noTo := flag c W.SEQ_SLOT_OFF_GATED n && fld c W.SEQ_TIMEOUT_GATE_TO n = 0
  if k = 0 then bad (inSeq c n && !configured c n) 31 ++ bad short 16 ++ env (!rampOk c n || !allowedRail c n) 16
  else if k = 1 then bad (noTo || predCycle c) 31
  else if k = 2 then bad (maskBit c (W.SEQ_PRED + 4 * n) n || predCycle c) 0
  else bad noTo 16 ++ bad short 0

/-- R121: the roles of cluster `cl`: one spare at most, and a phase for each configured rail. -/
def rolesOk (c : Device) (cl : Nat) : Bool :=
  ((clPhases cl).filter (fun p => fld c W.PH_CFG_ROLE p == 4)).length ≤ 1
  && (List.range 4).all (fun r => !configured c (4 + 4 * cl + r) || rolePhases c (4 + 4 * cl + r) ≠ [])

/-- R265: the cells of the pack. -/
def cells (c : Device) : Nat := fld c W.CHG_SET_CELLS + 1

/-- R265: the charge settings against the envelope and the chemistry. -/
def chgFails (c : Device) : List Fail :=
  let lfp := flag c W.CHG_SET_CHEM
  let cv := fld c W.CHG_SET_CV
  bad (1700 < cells c * cv) 26
  ++ bad (if lfp then cv < 345 || 365 < cv else cv < 410 || 435 < cv) 16
  ++ env ((chgFlags c).testBit (if lfp then 1 else 0)) 31
  ++ env (chgCellsMax c < cells c) 26
  ++ env (chgCvMax c ≠ 0 && chgCvMax c < cv * 10) 16
  ++ env (chgIMax c < fld c W.CHG_SET_I_FAST * 10) 0

/-- R477: an enabled threshold of input `x` lies above every lower enabled one; the lsb of the first that does not. -/
def txThFails (c : Device) (x : Nat) : List Fail :=
  let w := fld c W.TX_TH_TX_WARN x
  let t := fld c W.TX_TH_TX_THROT x
  let s := fld c W.TX_TH_TX_SHDN x
  let a := fld c W.TX_TH_TX_ABS x
  let below := fun (hi : Nat) (los : List Nat) => hi ≠ 255 && los.any (fun l => l ≠ 255 && hi ≤ l)
  bad (below a [s, t, w]) 24 ++ bad (below s [t, w]) 16 ++ bad (below t [w]) 8

/-- R486. -/
def nbrFails (c : Device) (x : Nat) : List Fail :=
  bad (fld c W.TX_NBR_NB2 x == 24 + x) 16 ++ bad (fld c W.TX_NBR_NB1 x == 24 + x) 8 ++ bad (fld c W.TX_NBR_NB0 x == 24 + x) 0

/-- R488, R490: a local index that the table allocates to converter `cv`, or 63. -/
def localOk (cv i : Nat) : Bool :=
  i = 63 || (if cv = 0 then i ≤ 42 else if cv = 1 then i ≤ 33 else if cv = 2 then i ≤ 25 else i ≤ 32)

def leap (y : Nat) : Bool := (2000 + y) % 4 == 0 && ((2000 + y) % 100 != 0 || (2000 + y) % 400 == 0)
/-- R439: days of a month of year 2000 + `y`. -/
def monthDays (y m : Nat) : Nat :=
  if m = 2 then (if leap y then 29 else 28) else if m = 4 ∨ m = 6 ∨ m = 9 ∨ m = 11 then 30 else 31
/-- R439, R511: a date that exists. -/
def dateOk (y m dd : Nat) : Bool := y ≤ 199 && 1 ≤ m && m ≤ 12 && 1 ≤ dd && dd ≤ monthDays y m

/-- Rules between fields for the word at `a`, judged on a device `c` that holds the words as they would stand: those under
which a write completes with `BAD_PARAM` or `DENIED_ENVELOPE` (R86 test 7, R420). -/
def cfgFails (c : Device) (a : Nat) : List Fail :=
  match a / 256 with
  | 2 =>
    if a < 0x280 then slotFails c ((a - 0x200) / 4) ((a - 0x200) % 4)
    else if a = W.SEQ_RETAIN then env ((List.range 32).any (fun n => maskBit c a n && noRetain c n)) 0
    else if a = W.SEQ_SVCHOLD then env ((List.range 32).any (fun n => maskBit c a n && noServiceHold c n)) 0
    else []
  | 3 => if a = W.BG_CTRL then bad (0 < fld c W.BG_CTRL_TLM_PERIOD && fld c W.BG_CTRL_TLM_PERIOD < 10) 16 else []
  | 4 => railWordFails c (railOfCfg a) (a % 32)
  | 5 => railWordFails c (railOfCfg a) (a % 32)
  | 6 => railWordFails c (railOfCfg a) (a % 32)
  | 7 => railWordFails c (railOfCfg a) (a % 32)
  | 12 =>
    if a < W.PH_CFG + 10 then
      let p := a - W.PH_CFG
      bad (fld c W.PH_CFG_ROLE p == 5 || fld c W.PH_CFG_ROLE p == 6 || !rolesOk c (p / 5)) 0
      ++ env ((List.range 4).any (fun r => !iOk c (4 + 4 * (p / 5) + r))) 0
    else []
  | 13 =>
    if a = W.CHG_SET then chgFails c
    else if a = W.PACK_CFG then bad (50 + fld c W.PACK_CFG_VRSV ≤ fld c W.PACK_CFG_VCUT) 0
    else []
  | 14 =>
    if a = W.GAUGE_CFG then
      bad (2500 + 5 * fld c W.GAUGE_CFG_V_EMPTY < 2000 + 10 * fld c W.PACK_CFG_VCUT + 100) 16 else []
  | 15 => if W.TX_NBR ≤ a ∧ a < W.TX_NBR + 8 then nbrFails c (a - W.TX_NBR) else []
  | 16 =>
    if a < W.ADC_SLOT + 208 then
      let w := getW c a
      let cv := (a - W.ADC_SLOT) / 52
      [24, 18, 12, 6, 0].flatMap (fun l => bad (!localOk cv (bitsOf w (l + 5) l)) l)
    else []
  | 19 =>
    if a = W.RTC_DATE then
      bad (!dateOk (fld c W.RTC_DATE_YEAR) (fld c W.RTC_DATE_MONTH) (fld c W.RTC_DATE_DAY)) 0
    else if a = W.RTC_CAL then bad (fld c W.RTC_CAL_CAL == 512) 0
    else []
  | 23 =>
    if a = W.VLY_POLICY then env (vlyIsrcMax c < fld c W.VLY_POLICY_OFF_IMAX * 100) 8 else []
  | 25 =>
    if a = W.PC_SMP then bad (fld c W.PC_SMP_SMP_N ≠ 0 && fld c W.PC_SMP_SMP_N ≤ fld c W.PC_SMP_SMP_OFS) 16 else []
  | 27 => if a = W.HWD_CFG then bad (fld c W.HWD_CFG_ACTION == 3) 16 else []
  | 29 =>
    if W.SSO_ASSOC ≤ a ∧ a < W.SSO_ASSOC + 4 then
      (List.range 8).flatMap (fun k => (env (biasPair c k &&& (15 ^^^ assoc c (24 + k)) ≠ 0) (4 * k)).map
        (fun f => if a = W.SSO_ASSOC + 3 then f else { f with lsb := none }))
    else []
  | _ => []

/-- Rules on the word itself as a write or a `LOAD` sets it: each field within its encoding, a follower's set point (R102),
the order of an input's thresholds (R477). -/
def encFails (c : Device) (a : Nat) : List Fail :=
  let w := getW c a
  let own := match famOf? a with
    | none => []
    | some f => f.fields.flatMap (fun r =>
        let v := bitsOf w r.hi r.lo
        bad (v < r.min || r.max < v) r.lo)
  let sp := (List.range 32).find? (fun n => vcodeAddr n == a)
  match sp with
  | some n =>
    -- the set point's own range is vcodeOk's (R93, R645)
    (own.filter (fun f => f.lsb != some (vcodeFld n).lo)) ++ bad (railKind n = .hc && hcFollower c n) 0
  | none => if W.TX_TH ≤ a ∧ a < W.TX_TH + 8 then own ++ txThFails c (a - W.TX_TH) else own

/-! ### Rules on a change -/

/-- R422: the pages that a Q19 packet may not write. -/
def railPages : List Nat := [2, 3, 4, 5, 6, 7, 12, 29]

/-- R117: rail `n`'s soft-start or soft-stop ramp runs. -/
def rampRuns (d : Device) (n : Nat) : Bool := (rail d n).ph = .rampUp || (rail d n).ph = .rampDown

/-- R507: access to the backup domain is locked. -/
def rtcLocked (d : Device) : Bool := d.rtc.locked

/-- The rules of a write by `src` that turns the word at `a` from `old` into `new`, on the present device. -/
def changeFails (src : Src) (a : Nat) (old new : Word) (d : Device) : List Fail :=
  let page := a / 256
  let perm : List Fail := if src = .thatch ∧ railPages.contains page then [⟨1, .deniedPermission, none⟩] else []
  let rwp := (famOf? a).elim [] (fun f => f.fields.filterMap (fun r =>
      if bitsOf (BitVec.ofNat 32 f.rwp) r.hi r.lo ≠ 0 ∧ bitsOf old r.hi r.lo ≠ bitsOf new r.hi r.lo ∧ src ≠ .purlin
      then some ⟨5, .deniedPermission, some r.lo⟩ else none))
  let busyAdopt : List Fail :=
    if flag d W.MODE_STATUS_ADOPTING ∧ (railPages.contains page ∨ (8 ≤ page ∧ page < 12)) then [⟨8, .busy, none⟩] else []
  let own : List Fail :=
    match page with
    | 2 =>
      modeFail (fld d W.SEQ_STATUS_SEQ_STATE ≠ 0)
      ++ modeFail (a < 0x280 && a % 4 = 0 && bitOf old 31 != bitOf new 31 && (rail d ((a - 0x200) / 4)).enabled)
      ++ modeFail (a = W.SEQ_RETAIN && d.mode = .retain)
    | 4 => if a = W.HC_VSET ∧ flag d W.HC_CFG_VPRE then failIf (bitsOf new 11 0 ≠ 500) 5 .deniedPermission 0 else []
    | 12 =>
      modeFail (a < W.PH_CFG + 10 && old ≠ new
        && (List.range 4).any (fun r => (rail d (4 + 4 * ((a - W.PH_CFG) / 5) + r)).enabled))
    | 13 =>
      if a = W.CHG_SET then
        modeFail ((bitOf old 31 != bitOf new 31 || bitsOf old 27 26 ≠ bitsOf new 27 26)
          && fld d W.CHG_STATUS_CHG_STATE ≠ 0 && fld d W.CHG_STATUS_CHG_STATE ≠ 1)
      else if a = W.CHG_WD then failIf (!bitOf new 8 && !permitChgWd d) 5 .deniedPermission 8
      else []
    | 19 =>
      modeFail (a = W.RTC_XTAL && !inMode d [.boot, .service, .latched])
      ++ (if rtcLocked d then [⟨8, .busy, none⟩] else [])
    | 25 => if srcIsHost src ∧ !perfOpen d then [⟨5, .deniedPermission, none⟩] else []
    | 29 => modeFail (W.SSO_ASSOC ≤ a && a < W.SSO_ASSOC + 4 && old ≠ new && enabledRails d ≠ [])
    | _ => []
  let ramp := (List.range 32).flatMap (fun n =>
      if vcodeAddr n = a ∧ bitsOf old (vcodeFld n).hi (vcodeFld n).lo ≠ bitsOf new (vcodeFld n).hi (vcodeFld n).lo
         ∧ rampRuns d n then [(⟨8, .busy, none⟩ : Fail)] else [])
  perm ++ rwp ++ own ++ ramp ++ busyAdopt

/-- R12: bits that a table gives some of its indices and reserves for the one at `a`: HC_CFG.VPRE on channels 1-3 (04),
SUP_ACT.OPEN_ACT on a rail that is no GB rail (08), the entries after 255 and the channels from 136 on (18). -/
def indexReserved (a : Nat) : Nat :=
  if a = W.HC_CFG + 32 ∨ a = W.HC_CFG + 64 ∨ a = W.HC_CFG + 96 then 0x08000000
  else if W.SUP_ACT ≤ a ∧ a < W.SUP_ACT + 768 ∧ (a - W.SUP_ACT) % 32 = 0 then 0x3
  else if W.ADC_SLOT ≤ a ∧ a < W.ADC_SLOT + 208 ∧ (a - W.ADC_SLOT) % 52 = 51 then 0xFFFFFFC0
  else if a = W.ADC_PRIO + 8 then 0xFFFF0000
  else 0

/-- The RW and RWP bits of the word at `a` of table `f`. -/
def settable (a : Nat) (f : WordFam) : Word := BitVec.ofNat 32 (f.rw ||| f.rwp) &&& ~~~(BitVec.ofNat 32 (indexReserved a))

/-- R11-R13, the access codes: the word that a write of `v` to `a` leaves (W1C bits cleared by ones, RO, WO and reserved bits
kept). A command's write takes effect a fixed number of CK_SYS cycles after its row's cycle (R420), and an event row whose cycle
is that of the write follows it, so that it sets its bit again: R15. -/
def mergeWrite (a : Nat) (f : WordFam) (old v : Word) : Word :=
  let take := settable a f
  ((old &&& ~~~take) ||| (v &&& take)) &&& ~~~(v &&& BitVec.ofNat 32 f.w1c)

end Sys2Proof.Machine
end

