-- ==== Sys2Proof/Machine/Sequencing.lean ====
section
/-! DEFINITION. Sequencing by time slots (07), set points (R427, R116), power-good (R213-R215) and the safe-state outputs
(R165-R169): the commands and the events. -/

namespace Sys2Proof.Machine

/-! ### Shared -/

/-- R344: a local cause of a non-fault descent in RAMP, RUN, EASE or HOLDUP: a participant inserts DESCEND with the reason
of R300 and acts 31 CK_SYS after it latched its cause; in RAMP the descent is an abort (R191). -/
def descendNow (reason : Nat) (d : Device) : Device :=
  let kind := if d.mode = .ramp then DescKind.abort else .orderly
  let d := if participating d then advanceTo (d.roofTime + 31) (insertUrgent 1 reason d) else d
  startDescent kind (enabledRails d) d

/-- R32, R240, R280: in HOLDUP the descent begins with INPUT_LOSS_CONT = 1, and on the device's own pack with the gauge anchored
when usable charge stands at 0 %. -/
def judgeHoldup (d : Device) : Device :=
  if d.mode = .holdup && flag d W.MODE_CTRL_INPUT_LOSS_CONT then descendNow 2 d
  else if d.mode = .holdup && !ridesLine d && fld d W.GAUGE_STATUS_ANCHOR ≠ 0 && fld d W.GAUGE_STATUS_USABLE = 0 then
    descendNow 2 d
  else d

/-- R32, R33: the transitions between RUN, EASE, HOLDUP and DESCEND whose conditions hold. What can make one hold is followed by
this: the entry to such a mode, the thermal level, `VSUP`, the gauge's recomputation, a write of MODE_CTRL. -/
def settleMode (d : Device) : Device := judgeHoldup (settleRun d)

/-- R179, R32: the ramp completes: the device leaves RAMP for RUN, or for HOLDUP when HOLDUP_PENDING is set; a MODE_SET
from RETAIN to RUN completes (R429). -/
def rampComplete (d : Device) : Device :=
  let d := setFld { d with seq := { d.seq with t0 := none, svcUp := false } } W.SEQ_STATUS_SEQ_STATE 0
  let d := (List.range 32).foldl (fun d n => if rstate d n = 9 then setRstate n 3 d else d) d
  if d.mode = .service then d
  else
    let hold := flag d W.MODE_STATUS_HOLDUP_PENDING
    let d := settleMode (enterMode (if hold then .holdup else .run) (setFlag d W.MODE_STATUS_HOLDUP_PENDING false))
    completeAll (fun c => c.op == 0x25 && bitsOf (c.p 0) 3 0 == 4) .ok (fun c => c.aux.getD 0 0#32) (fun _ => 0#32) d

/-- R222, R345: a fault descent of this device's own, told to the roof. -/
def localFault (failed : List Nat) (d : Device) : Device :=
  let d := match d.seq.desc with
    | some { kind := .fault, .. } => d
    | _ => insertUrgent 0 (firstRail d) d
  faultDescent failed 1 false (afterLatch d)

/-- OFFSET (11), in units of 10/16 ns, signed. -/
def linkOffset (d : Device) : Int := (getW d W.LNK_OFFSET).toInt

/-- R342: the time disagreement under which rails and starts are refused. -/
def timeRefused (d : Device) : Bool :=
  !alone d && inMode d upModes && (16000 < (linkOffset d).natAbs || !flag d W.LNK_STATUS_DISCIPLINED)

/-- R342: TIME_REFUSE, once. -/
def noteRefusal (d : Device) : Device :=
  if d.link.refused then d else raise 490 { d with link := { d.link with refused := true } }

/-- A gate command of R342: its refusal for time is told as the last of its checks. -/
def gatedTime (c : Cmd) (d : Device) (cs : Device → List (Bool × Status)) (k : Device → Device) : Device :=
  let d := atGate d
  match firstFail (cs d) with
  | some st => complete c d 0 st 0#32 0#32
  | none => if timeRefused d then complete c (noteRefusal d) 0 .busy 0#32 0#32 else k d

/-- R522: rail resources and pages while adopting. -/
def notAdopting (d : Device) : Bool × Status := (!flag d W.MODE_STATUS_ADOPTING, .busy)

/-- R412. -/
def notThatch (c : Cmd) : Bool × Status := (c.src != .thatch, .deniedPermission)

/-- Bits [31:k] of parameter `i` are 0 (R396, R411 step 3). -/
def highZero (c : Cmd) (i k : Nat) : Bool := bitsOf (c.p i) 31 k = 0

/-! ### SEQ_UP, SEQ_DOWN (R423, R424) -/

/-- R87: a truss is active. -/
def trussActive (d : Device) : Bool := fld d W.TRUSS_STATUS_ACTIVE_SRC ≠ 0

/-- R192: a descent that a SEQ_UP may await: no fault descent, nor one that a HARD reset interrupted (R52). -/
def upMayWait (d : Device) : Bool :=
  match d.seq.desc with
  | some x => x.kind != .fault && x.cause = 0
  | none => true

/-- R423, R192, R199, R325, R87, R62: the modes and states in which SEQ_UP is accepted. -/
def seqUpMode (d : Device) : Bool :=
  trussActive d && fld d W.OTP_STATUS_DIGEST_FAIL = 0
  && !(3 ≤ fld d W.ROOF_STATUS_PART && fld d W.ROOF_STATUS_PART ≤ 5)
  && (d.mode = .boot || (d.mode = .descend && fld d W.MODE_CTRL_DESC_NEXT == 2 && upMayWait d)
    || (d.mode = .latched && d.seq.retryWait))

/-- R423, R182, R192: an accepted SEQ_UP. -/
def seqUpRun (c : Cmd) (d : Device) : Device :=
  if d.mode = .descend then complete c (setFlag d W.SEQ_STATUS_UP_PENDING true) 0 .ok 0#32 0#32
  else match d.seq.t0 with
    | some t => complete c d 0 .ok (lowW t) (highW t)
    | none => tryStart (keepRunning c { d with seq := { d.seq with request := true, reqAt := d.roofTime } })

def opSeqUp (c : Cmd) (d : Device) : Device :=
  gatedTime c d (fun d => [notThatch c, (seqUpMode d, .deniedMode), notAdopting d, (!stuckHigh d, .busy)]) (seqUpRun c)

/-- R199: the wait for a retry ends without a retry; a SEQ_UP that waited on it completes with ABORTED (log 31). -/
def cancelRetry (d : Device) : Device :=
  let d := { d with seq := { d.seq with retryWait := false, noRetry := true, request := false } }
  completeAll (fun c => c.op == 0x20) .aborted (fun _ => 0#32) (fun _ => 0#32)
    (setFld d W.SEQ_STATUS_SEQ_STATE (restState d))

def opSeqDown (c : Cmd) (d : Device) : Device :=
  gated c d (fun d => [notThatch c, (inMode d operModes || (d.mode = .latched && d.seq.retryWait), .deniedMode)])
    (fun d =>
      if d.mode = .latched then complete c (cancelRetry d) 0 .ok 0#32 0#32
      else if d.mode = .descend then keepRunning c d
      else descendNow 0 (keepRunning c d))

/-! ### Single rails (R425, R426, R200) -/

/-- The rail that a RAIL_* command names. -/
def railOf (c : Cmd) : Nat := bitsOf (c.p 0) 4 0

/-- R200: the rail's turn-off is under way: it waits, is in soft stop (below its off-threshold or not), or is in forced
discharge. -/
def turningOff (d : Device) (n : Nat) : Bool :=
  (rail d n).falling || (rail d n).waitBias || rstate d n = 5 || (rail d n).forced
  || ((rail d n).enabled && (rail d n).ph = .rampDown)

/-- The checks that RAIL_ON and RAIL_OFF share (R425, R200). -/
def railChecks (c : Cmd) (d : Device) : List (Bool × Status) :=
  [(highZero c 0 5 && configured d (railOf c), .badParam), (modeOk .up d && !inSeq d (railOf c), .deniedMode)]

def opRailOn (c : Cmd) (d : Device) : Device :=
  let n := railOf c
  gatedTime c d
    (fun d => railChecks c d ++ [(!flag d W.SUP_STATUS_FAULT_LATCH n, .deniedMode), (!turningOff d n, .busy)])
    (fun d =>
      if (rail d n).enabled then complete c d 0 .ok 0#32 0#32
      else keepRunning { c with aux := [lowW d.roofTime] } (startRail n d))

/-- R170: every output that the rail names is asserted. -/
def ssoAsserted (d : Device) (n : Nat) : Bool := assoc d n &&& fld d W.SSO_STATUS_ASSERTED = assoc d n

def opRailOff (c : Cmd) (d : Device) : Device :=
  let n := railOf c
  gatedTime c d (fun d => railChecks c d ++ [(railKind n != .gb || ssoAsserted d n, .deniedInterlock)])
    (fun d =>
      if rstate d n = 0 then complete c d 0 .ok 0#32 0#32
      else
        let d := keepRunning c d
        if turningOff d n then d
        else if gateOpen d n then beginStop n true d
        else setRstate n 5 (modRail n (fun r => { r with stopStart := d.roofTime - (d.cycles - c.issueC) }) d))

/-! ### Set points (R116, R427) -/

/-- The rail is up: enabled, outside soft start and soft stop. -/
def railUp (d : Device) (n : Nat) : Bool :=
  (rail d n).enabled && !(rail d n).falling && ((rail d n).ph = .still || (rail d n).ph = .move)

/-- R116: the set point of rail `n` has changed; on a rail that is up the reference moves toward it from 14 CK_SYS later.
A GB rail has no reference to move (R161). -/
def moveReference (n : Nat) (d : Device) : Device :=
  if railUp d n && railKind n != .gb then
    let d := abortTest n d
    let at_ := d.roofTime + 14
    let v := refAt (rail d n).ref at_
    let dst := setPoint d n
    let dv := (v - dst) + (dst - v)
    setMoving n true (modRail n (fun r => { r with
      ph := .move, ref := { frm := v, dst := dst, start := at_, dur := slewTicks dv (slewOf d n) } }) d)
  else d

/-- The set-point code that RAIL_SET_V asks for. -/
def newCode (c : Cmd) : Nat := bitsOf (c.p 0) 15 0 * 10 / vStep (bitsOf (c.p 0) 20 16)

/-- The device as RAIL_SET_V would leave its set point, for the checks. -/
def withSetPoint (n v : Nat) (d : Device) : Device := setFld d (vcodeFld n) v (railIdx n)

/-- R427. -/
def setVChecks (c : Cmd) (d : Device) : List (Bool × Status) :=
  let n := bitsOf (c.p 0) 20 16
  let e := withSetPoint n (newCode c) d
  let vpre := n = 0 && flag d W.HC_CFG_VPRE
  [(highZero c 0 21 && bitsOf (c.p 0) 15 0 * 10 % vStep n = 0 && railKind n != .gb, .badParam),
   (vpre || (configured d n && newCode c ≤ Fld.top (vcodeFld n) && vcodeOk e n && (railKind n != .hc || divOk e n)), .badParam),
   (modeOk .live d, .deniedMode), (!vpre, .deniedPermission),
   (vOk e n && rampOk e n && slewOk e n && allowedRail e n, .deniedEnvelope),
   (!rampRuns d n, .busy), notAdopting d]

/-- R427: W1, the roof time of the end of the move; 0 on a rail that is off. -/
def moveEnd (n : Nat) (d : Device) : Word :=
  if railUp d n then lowW ((rail d n).ref.start + (rail d n).ref.dur) else 0#32

def opRailSetV (c : Cmd) (d : Device) : Device :=
  let n := bitsOf (c.p 0) 20 16
  judged c d false 15 (setVChecks c d) (fun d =>
    let was := setPoint d n / 10
    let d := moveReference n (withSetPoint n (newCode c) d)
    complete c d 15 .ok (moveEnd n d) (BitVec.ofNat 32 was))

/-- R114: the soft-start ramp of rail `n` ends: the reference stands at the set point. A GB rail has GB_RAMP_DONE. -/
def opSoftStartComplete (n : Nat) (d : Device) : Device :=
  let r := rail d n
  if r.ph = .rampUp && railKind n != .gb && d.seq.holdFrom = none then
    let d := advanceTo (r.ref.start + r.ref.dur) d
    setDe n false (setMoving n false (modRail n (fun r => { r with ph := .still, ref := { dst := r.ref.dst, start := r.ref.start + r.ref.dur } }) d))
  else d

/-- R115, R151: the reference of rail `n` reaches 0 V. -/
def opSoftStopComplete (n : Nat) (d : Device) : Device :=
  let r := rail d n
  if r.ph = .rampDown && railKind n != .gb then railOff n (advanceTo (r.ref.start + r.ref.dur) d) else d

/-- R116, R207: the reference reaches the new set point. -/
def opMoveEnd (n : Nat) (d : Device) : Device :=
  let r := rail d n
  if r.ph = .move then
    let d := advanceTo (r.ref.start + r.ref.dur) d
    setMoving n false (modRail n (fun r => { r with ph := .still, ref := { dst := r.ref.dst, start := r.ref.start + r.ref.dur } }) d)
  else d

/-! ### Power-up (R176-R183) -/

/-- R32, R179: the power-up begins: RAMP, and every sequenced rail waits for its slot; retained rails count as up (R201). -/
def beginRamp (d : Device) : Device :=
  let d := if d.mode = .boot then enterMode .ramp d else d
  let d := setFld d W.SEQ_STATUS_SEQ_STATE (if d.seq.holdFrom.isSome then 3 else 2)
  let d := ((List.range 32).filter (fun n => inSeq d n && configured d n)).foldl
    (fun d n => setRstate n (if (rail d n).enabled then 9 else 1) d) d
  if rampDone d && d.seq.holdFrom = none then rampComplete d else d

/-- R336, R35, R202: roof time reaches T0: the device leaves BOOT for RAMP, its wait in RAMP after RETAIN ends, or the
service-hold rails begin. -/
def opT0Reached (d : Device) : Device :=
  match d.seq.t0 with
  | some t =>
    if (d.mode = .boot || (d.mode = .ramp && fld d W.SEQ_STATUS_SEQ_STATE = 1)) && flag d W.LNK_STATUS_DISCIPLINED then
      beginRamp (advanceTo t d)
    else if d.mode = .service && d.seq.svcUp && fld d W.SEQ_STATUS_SEQ_STATE = 1 then
      setFld (advanceTo t d) W.SEQ_STATUS_SEQ_STATE 2
    else d
  | none => d

/-- R176, R183: the slot of rail `n`, moved by the ramp holds so far, has come: its soft start begins. -/
def opSlotOn (n : Nat) (d : Device) : Device :=
  match d.seq.t0 with
  | some t =>
    if rstate d n = 1 && fld d W.SEQ_STATUS_SEQ_STATE = 2 && d.seq.holdFrom = none then
      startRail n (advanceTo (t + onDly d n * 1000 + d.seq.slip) d)
    else d
  | none => d

/-- R160: a GB rail without an auxiliary winding is judged by its own switching, not by its comparators. -/
def gbTimed (d : Device) (n : Nat) : Bool := railKind n = .gb && !flag d W.GB_CFG_AUX_EN (n - 24)

/-- R213, R160: rail `n` may be power-good: its ramp has ended and no pair reports it outside; a GB rail without AUX_EN switches,
its secondary not open and its current below IHI. -/
def pgReady (d : Device) (n : Nat) : Bool :=
  let r := rail d n
  r.enabled && !r.falling && !r.waitBias && r.ph != .rampUp && r.ph != .rampDown && !r.pg && r.trip = 0
  && r.live &&& (15 ^^^ fld d W.SUP_STATUS_CMP_FAULT n) &&& 15 = 0
  && (!gbTimed d n || (flag d W.GB_RSTATUS_SWITCHING (n - 24) && !flag d W.GB_RSTATUS_OPEN (n - 24)
    && !flag d W.GB_RSTATUS_LIMIT (n - 24)))

/-- R213: rail `n` has become power-good. Environment: its pairs have reported it inside for a deglitch time (R160: 64
half-periods have passed); `ldin`, the supply of an LDO lies 0.25 V above its set point (R150). -/
def opPowerGood (n : Nat) (ldin : Bool) (d : Device) : Device :=
  if pgReady d n && (railKind n != .ld || ldin) then
    let d := setFlag (modRail n (fun r => { r with pg := true, pgAt := d.roofTime }) d) W.SUP_STATUS_PG true n
    let d := if rstate d n = 9 then d else setRstate n 3 d
    let d := completeAll (fun c => c.op == 0x22 && railOf c == n) .ok (fun c => c.aux.getD 0 0#32) (fun _ => 0#32) d
    if (d.mode = .ramp || (d.mode = .service && d.seq.svcUp)) && fld d W.SEQ_STATUS_SEQ_STATE = 2 && rampDone d then
      rampComplete d
    else d
  else d

/-- R180: the roof time at which the power-good timeout of a ramping rail runs out. -/
def riseLimit (d : Device) (n : Nat) : Nat := (rail d n).rampAt + pgTicks d n

/-- R180: a ramping rail of the sequence has a power-good timeout to run out. -/
def riseFailing (d : Device) (n : Nat) : Bool :=
  rstate d n = 2 && !(rail d n).pg && fld d W.SEQ_STATUS_SEQ_STATE = 2
  && (if d.mode = .service then maskBit d W.SEQ_SVCHOLD n else inSeq d n)

/-- R203: an abort that began in this very cycle has reversed rail `n`, whose power-good timeout runs out in it. -/
def riseCut (d : Device) (n : Nat) : Bool :=
  match d.seq.desc with
  | some x => x.kind = .abort && x.tD = d.roofTime && (rail d n).inDesc && rstate d n = 6 && (rail d n).enabled
      && riseLimit d n = d.roofTime
  | none => false

/-- R180, R216, R220: one rail's record of a failure to rise. -/
def recordRiseFail (d : Device) (n : Nat) : Device :=
  let d := setMaskBit d W.SEQ_RISE_FAIL_RISE_FAIL n true
  let d := raise (128 + n) (if rstate d n = 2 then setRstate n 8 d else d)
  loadFirst n 5 (setFlag d W.SUP_STATUS_FAULT_LATCH true n)

/-- R180, R203: the rails of `mask` fail to rise in one cycle, that in which the first of their timeouts runs out: one gutter
record (R558), one fault descent. -/
def opRiseFail (mask : Word) (d : Device) : Device :=
  let all_ := (bitsIn mask.toNat 32).filter (fun n => riseFailing d n || riseCut d n)
  let t := max d.roofTime (all_.foldl (fun t n => min t (riseLimit d n)) (all_.foldl (fun t n => max t (riseLimit d n)) 0))
  let rs := all_.filter (fun n => riseLimit d n ≤ t)
  match rs with
  | [] => d
  | n :: _ =>
    let d := rs.foldl recordRiseFail (advanceTo t d)
    let d := gutter 0x02 n 5 (getW d W.SEQ_RISE_FAIL) d
    localFault rs d

/-- R426: the rail of a RAIL_ON has run out its power-good timeout. -/
def opRailOnTimeout (n : Nat) (d : Device) : Device :=
  if (running d 0x22).any (fun c => railOf c == n) && (rail d n).enabled && !(rail d n).pg then
    let d := advanceTo (riseLimit d n) d
    let d := setFlag (gateRail n false d) W.SUP_STATUS_FAULT_LATCH true n
    let d := raise (128 + n) d
    completeAll (fun c => c.op == 0x22 && railOf c == n) .timeout (fun c => c.aux.getD 0 0#32) (fun _ => 0#32) d
  else d

/-! ### Descents (R184-R190) -/

/-- R184: the off-delay of rail `n` has passed since T_D. -/
def opOffDelay (n : Nat) (d : Device) : Device :=
  match d.seq.desc with
  | some x =>
    if rstate d n = 4 && x.kind != .fault then
      stopOrGate n (advanceTo (x.tD + fld d W.SEQ_SLOT_OFF_OFF_DLY n * 1000) d)
    else d
  | none => d

/-- R184: the gate timeout of rail `n` expires; a predecessor that has fallen opened the gate before (R203). -/
def opGateTimeout (n : Nat) (d : Device) : Device :=
  if rstate d n = 5 && !gateOpen d n then
    let d := advanceTo ((rail d n).stopStart + fld d W.SEQ_TIMEOUT_GATE_TO n * 1000) d
    beginStop n true (setMaskBit d W.SEQ_GATE_TIMEOUT_GATE_TIMEOUT n true)
  else d

/-- R202, R193: the power-up of the service-hold rails that SERVICE awaits gets its T0, unless a rail is stuck high. -/
def startService (d : Device) : Device :=
  if d.mode = .service ∧ d.seq.svcUp ∧ d.seq.t0 = none ∧ !stuckHigh d then
    let t := max d.roofTime (earliestT0 d)
    let d := setFld (putT0 t d) W.SEQ_STATUS_SEQ_STATE (if t = d.roofTime then 2 else 1)
    { d with seq := { d.seq with t0 := some t, slip := 0 } }
  else d

/-- R186, R193: the primary undervoltage comparator reports rail `n` below its off-threshold; with the last rail that failed to
fall the start that waited for it goes on, t_REST later. -/
def opRailFallen (n : Nat) (d : Device) : Device :=
  if (rail d n).falling && !gbTimed d n then railFallen n d
  else if (rail d n).above then
    let d := modRail n (fun r => { r with above := false }) d
    startService (tryStart { d with seq := { d.seq with lastFall := some d.roofTime } })
  else d

/-- R195, R225: rail `n` was gated in a fault descent before its step began. -/
def beforeStep (d : Device) (n : Nat) : Bool :=
  match d.seq.desc with
  | some x => x.kind = .fault && (rail d n).gated && x.step < (rail d n).step
  | none => false

/-- R188, R189, R219: the fall timeout of rail `n` has passed. A gated rail has none outside a descent (R186), nor before its step
(R225). -/
def opFallFail (n : Nat) (d : Device) : Device :=
  let r := rail d n
  if r.falling && !r.fallFail && (r.inDesc || !r.gated) && !beforeStep d n then
    let d := advanceTo (r.stopStart + pgTicks d n) d
    let d := setMaskBit d W.SEQ_FALL_FAIL_FALL_FAIL n true
    let d := raise (224 + n) d
    let d := gutter 0x03 n 6 (getW d W.SEQ_FALL_FAIL) (loadFirst n 6 d)
    let d := if r.noSink && (railKind n = .hc || railKind n = .cl) then
        modRail n (fun r => { r with fallFail := true, above := true }) d
      else forceDischarge n d
    let d := completeAll (fun c => c.op == 0x23 && railOf c == n) .timeout (fun _ => lowW r.stopStart) (fun _ => 0#32) d
    descentProgress d
  else d

/-- R189, R186: 20 ms of forced discharge have passed. -/
def opForcedEnd (n : Nat) (d : Device) : Device :=
  let r := rail d n
  if r.forced then
    let d := advanceTo (r.stopStart + pgTicks d n + 2000000) d
    let d := endForced n d
    let d := if r.inDesc then setRstate n 0 (modRail n (fun r => { r with falling := false }) d) else setRstate n 6 d
    descentProgress d
  else d

/-! ### Retries and rest (R193, R197, R198) -/

/-- R197, R484, R349: the retry wait has passed: the device enters BOOT with the latch record cleared, and leaves it for RAMP
at BOOT ready. -/
def takeRetry (d : Device) : Device :=
  let d := addSat d W.SEQ_STATUS_RETRY_CNT 1
  let d := { d with seq := { d.seq with retryWait := false, retryStart := true } }
  let d := if fld d W.MODE_STATUS_LATCH_CAUSE = 7 then setFlag d W.TH_STATUS_TH_LATCH false else d
  enterBoot (setFld (setFlag d W.MODE_STATUS_LATCH_HELD false) W.MODE_STATUS_LATCH_CAUSE 0)

/-- R197, R193: the retry delay has passed; a rail that is stuck high keeps the retry waiting. -/
def opRetryDelay (d : Device) : Device :=
  if d.mode = .latched && d.seq.retryWait && !stuckHigh d then
    takeRetry (advanceTo (max (d.seq.latchAt + fld d W.SEQ_CTRL_RETRY_DLY * 1000000) (earliestT0 d)) d)
  else d

def opRetryCntClear (d : Device) : Device :=
  if inMode d [.run, .ease] then setFld d W.SEQ_STATUS_RETRY_CNT 0 else d

/-- R193: t_REST has passed since the last fall. -/
def opTRest (d : Device) : Device :=
  if d.seq.lastFall.isSome then
    let d := advanceTo (earliestT0 d) d
    tryStart (if fld d W.SEQ_STATUS_SEQ_STATE = 6 then setFld d W.SEQ_STATUS_SEQ_STATE 0 else d)
  else d

/-! ### PGOOD and safe-state outputs (R165, R167, R169, R215) -/

/-- R215: 3 CK_SYS after the rails of PGOODi have been power-good for PG_DLY_i x 10 microseconds the pin is released. -/
def opPgoodRelease (i : Nat) (d : Device) : Device :=
  if pgoodMet d i then
    let since := (bitsIn (getW d (W.PGOOD_MASK + i)).toNat 32).foldl (fun t n => max t (rail d n).pgAt) 0
    let d := advanceTo (since + arr d W.PGOOD_CFG_PG_DLY i * 1000 + 3) d
    { d with core := { d.core with pgood := setBitNat d.core.pgood i true } }
  else d

/-- R165: SSOj is released. -/
def opSsoRelease (j : Nat) (d : Device) : Device :=
  if (fld d W.SSO_STATUS_ASSERTED).testBit j && ssoMayRelease d j then
    let d := setFld d W.SSO_STATUS_ASSERTED (setBitNat (fld d W.SSO_STATUS_ASSERTED) j false)
    setFld d W.SSO_STATUS_PIN (setBitNat (fld d W.SSO_STATUS_PIN) j true)
  else d

/-- R167: the driven-low SSOj has not read back low within 2 microseconds. -/
def opSsoFault (j : Nat) (d : Device) : Device :=
  if (fld d W.SSO_STATUS_ASSERTED).testBit j then
    let d := setFld d W.SSO_STATUS_FAULT (setBitNat (fld d W.SSO_STATUS_FAULT) j true)
    raise 805 (setFld d W.SSO_STATUS_PIN (setBitNat (fld d W.SSO_STATUS_PIN) j true))
  else d

/-- R169, R171: each output that GB rail `n` names has been driven low for 10 microseconds and has read back `low` for as long,
or is in FAULT: its disable begins, from a ramp at that ramp's slope (R191). -/
def opInterlockRelease (n low : Nat) (d : Device) : Device :=
  let m := assoc d n
  if (rail d n).waitBias && ssoAsserted d n && m &&& (low ||| fld d W.SSO_STATUS_FAULT) = m then
    let d := advanceTo ((bitsIn m 4).foldl (fun t j => max t (ssoSince d j + 1000)) 0) d
    softStop n ((rail d n).ph != .rampUp) d
  else d

/-! ### The rows -/

def execSeqUp (rq : Req) (s : State) : Host.Outcome State Fault Refusal := on (runRow rq 0x20 [] [] opSeqUp) s
def execSeqDown (rq : Req) (s : State) : Host.Outcome State Fault Refusal := on (runRow rq 0x21 [] [] opSeqDown) s
def execRailOn (rq : Req) (p0 : Word) (s : State) : Host.Outcome State Fault Refusal :=
  on (runRow rq 0x22 [p0] [] opRailOn) s
def execRailOff (rq : Req) (p0 : Word) (s : State) : Host.Outcome State Fault Refusal :=
  on (runRow rq 0x23 [p0] [] opRailOff) s
def execRailSetV (rq : Req) (p0 : Word) (s : State) : Host.Outcome State Fault Refusal :=
  on (runRow rq 0x24 [p0] [] opRailSetV) s
def execSoftStartComplete (n : BitVec 5) (s : State) : Host.Outcome State Fault Refusal :=
  on (opSoftStartComplete n.toNat) s
def execSoftStopComplete (n : BitVec 5) (s : State) : Host.Outcome State Fault Refusal :=
  on (opSoftStopComplete n.toNat) s
def execSetPointMoveEnd (n : BitVec 5) (s : State) : Host.Outcome State Fault Refusal := on (opMoveEnd n.toNat) s
def execT0Reached (s : State) : Host.Outcome State Fault Refusal := on opT0Reached s
def execSlotOn (n : BitVec 5) (s : State) : Host.Outcome State Fault Refusal := on (opSlotOn n.toNat) s
def execPowerGood (n : BitVec 5) (ldin : Bool) (s : State) : Host.Outcome State Fault Refusal :=
  on (opPowerGood n.toNat ldin) s
def execRiseFail (mask : Word) (s : State) : Host.Outcome State Fault Refusal := on (opRiseFail mask) s
def execRailOnTimeout (n : BitVec 5) (s : State) : Host.Outcome State Fault Refusal := on (opRailOnTimeout n.toNat) s
def execOffDelay (n : BitVec 5) (s : State) : Host.Outcome State Fault Refusal := on (opOffDelay n.toNat) s
def execGateTimeout (n : BitVec 5) (s : State) : Host.Outcome State Fault Refusal := on (opGateTimeout n.toNat) s
def execRailFallen (n : BitVec 5) (s : State) : Host.Outcome State Fault Refusal :=
  on (fun d => opRailFallen n.toNat (traceComp (5 * n.toNat + 2) true 400 d)) s
def execFallFail (n : BitVec 5) (s : State) : Host.Outcome State Fault Refusal := on (opFallFail n.toNat) s
def execForcedDischargeEnd (n : BitVec 5) (s : State) : Host.Outcome State Fault Refusal := on (opForcedEnd n.toNat) s
def execRetryDelay (s : State) : Host.Outcome State Fault Refusal := on opRetryDelay s
def execRetryCntClear (s : State) : Host.Outcome State Fault Refusal := on opRetryCntClear s
def execTRest (s : State) : Host.Outcome State Fault Refusal := on opTRest s
def execPgoodRelease (i : BitVec 2) (s : State) : Host.Outcome State Fault Refusal := on (opPgoodRelease i.toNat) s
def execSsoRelease (j : BitVec 2) (s : State) : Host.Outcome State Fault Refusal := on (opSsoRelease j.toNat) s
def execSsoFault (j : BitVec 2) (s : State) : Host.Outcome State Fault Refusal := on (opSsoFault j.toNat) s
def execInterlockRelease (n : BitVec 5) (low : BitVec 4) (s : State) : Host.Outcome State Fault Refusal :=
  on (opInterlockRelease n.toNat low.toNat) s

end Sys2Proof.Machine
end

