-- ==== Sys2Proof/Machine/Supervision.lean ====
section
/-! DEFINITION. Supervision (08): comparator and overcurrent trips and releases, latent comparator faults, the reference
cross-check. -/

namespace Sys2Proof.Machine

/-- Comparators are numbered 0 OV primary, 1 OV checker, 2 UV primary, 3 UV checker, 4 overcurrent. A comparator's class:
0 overvoltage, 1 undervoltage, 2 overcurrent; its source is 32 x class + rail (R450). -/
def cmpClass (k : Nat) : Nat := k / 2
/-- The comparators of a class, as a mask. -/
def classMask (cls : Nat) : Nat := if cls = 0 then 0b00011 else if cls = 1 then 0b01100 else 0b10000
/-- SUP_FIRST.CAUSE of a class. -/
def classCause (cls : Nat) : Nat := if cls = 0 then 1 else if cls = 1 then 3 else 2
/-- The action chosen for a class (R216). -/
def classAct (d : Device) (n cls : Nat) : Nat :=
  if cls = 0 then fld d W.SUP_ACT_OV_ACT n else if cls = 1 then fld d W.SUP_ACT_UV_ACT n else fld d W.SUP_ACT_OC_ACT n

/-- R216, R224: the action of a class of rail `n`. On a rail that another class gated in this very cycle the stronger action
applies, and SUP_FIRST takes the class that ranks first. -/
def classFault (n cause act : Nat) (noSink : Bool) (d : Device) : Device :=
  let fault := match d.seq.desc with | some { kind := .fault, .. } => true | _ => false
  if gatedNow d n && (act ≠ 2 || fault) then (if act = 0 then d else loadFirst n cause d) else supAct n cause act noSink d

/-- R208, R212, R216: comparator `k` of rail `n` trips: its latched bit and level, the outputs that the rail names, PGOOD,
and the action of its class on the class's first trip. -/
def tripRail (n k act : Nat) (d : Device) : Device :=
  let cls := cmpClass k
  let fresh := (rail d n).trip &&& classMask cls = 0
  let d := modRail n (fun r => { r with trip := setBitNat r.trip k true }) d
  let d := setMaskBit d W.SUP_STATUS_PG (8 + k) true n
  let d := assertSso (assoc d n) true d
  let d := losePg n false d
  let d := setLevel (32 * cls + n) true d
  if fresh then classFault n (classCause cls) act (cls != 1) d else d

/-! ### Latent faults (R226-R229) -/

/-- R228: comparator `k` (0-3) of rail `n` is marked faulty: its bit, its class's source, LAT_ACT, or DESCEND when both
comparators of the class are faulty. -/
def latentFault (n k : Nat) (d : Device) : Device :=
  let d := setFld d W.SUP_STATUS_CMP_FAULT (setBitNat (fld d W.SUP_STATUS_CMP_FAULT n) k true) n
  let d := modRail n (fun r => { r with trip := setBitNat r.trip k false }) d
  let d := if (rail d n).trip &&& classMask (cmpClass k) = 0 then
      { d with ev := { d.ev with levels := SMap.set (fun _ => false) (32 * cmpClass k + n) false d.ev.levels } } else d
  let d := raise (32 * cmpClass k + n) d
  let both := fld d W.SUP_STATUS_CMP_FAULT n &&& classMask (cmpClass k) = classMask (cmpClass k)
  if fld d W.SUP_ACT_LAT_ACT n = 1 || both then localFault [n] (recordAction n 8 d) else d

/-! ### Self-test 1 (R549, R550) -/

/-- The deglitch time of the tested comparator, in CK_SYS. -/
def testDg (d : Device) (c : Cmd) : Nat :=
  50 * ((if testComp c < 2 then fld d W.SUP_WIN_OV_DG (testRail c) else fld d W.SUP_WIN_UV_DG (testRail c)) + 1)

/-- R549, R550, R554: the comparator test `c` ends with detail `code` and the trip delay: a pass clears the comparator's
CMP_FAULT, a failure acts as a latent fault. -/
def judgeTest (c : Cmd) (delay code : Nat) (d : Device) : Device :=
  let n := testRail c
  let k := testComp c
  let w2 := min delay 65535 * 65536 + code
  if code = 0 then
    endTest c .ok 0 w2 (setFld d W.SUP_STATUS_CMP_FAULT (setBitNat (fld d W.SUP_STATUS_CMP_FAULT n) k false) n)
  else latentFault n k (endTest c .ok 1 w2 d)

/-- CK_SYS since an instant that `aux` holds. -/
def sinceAux (d : Device) (w : Word) : Nat := (lowW d.roofTime - w).toNat

/-- R549 step 4, R550: comparator `k` of rail `n` trips while a test of the rail runs. The delay is counted in CK_FAST, two to
a CK_SYS; which half of the cycle the trip fell in is free (log 7). -/
def testTrip (n k : Nat) (d : Device) : Device :=
  (compTests d n).foldl (fun d c =>
    if k = testComp c then
      match c.aux with
      | [a, t] =>
        let delay := 2 * sinceAux d t + freeOf d % 2
        let d := drawn d
        if 2 * testDg d c ≤ delay && delay ≤ 2 * testDg d c + 8 then
          putAux c [a, BitVec.ofNat 32 delay, lowW d.roofTime] d
        else judgeTest c delay 2 d
      | _ => d
    else if k / 2 = testComp c / 2 && compActs d n k then endAborted c d
    else d) d

/-- R549 step 5: the tested comparator releases, within twice its deglitch time or later. -/
def testRelease (n k : Nat) (d : Device) : Device :=
  (compTests d n).foldl (fun d c =>
    match c.aux with
    | [_, delay, t] =>
      if k = testComp c then judgeTest c delay.toNat (if sinceAux d t ≤ 2 * testDg d c then 0 else 3) d else d
    | _ => d) d

/-! ### Trips and releases -/

/-- R206-R209: the deglitch of comparator `k` (0-3) of rail `n` completes outside; `both` when the other comparator of the
class has reported outside on some sample of the deglitch time. -/
def opComparatorTrip (n k : Nat) (both : Bool) (d : Device) : Device :=
  let d := testTrip n k (modRail n (fun r => { r with live := setBitNat r.live k true }) d)
  if compActs d n k && !(rail d n).trip.testBit k then
    let d := if both then d else setFlag d W.SUP_STATUS_DISAGREE true n
    tripRail n k (classAct d n (cmpClass k)) d
  else d

/-- R210: the current comparator trips. -/
def opOcTrip (n : Nat) (d : Device) : Device :=
  let kind := railKind n
  let d := modRail n (fun r => { r with live := setBitNat r.live 4 true }) d
  if (kind = .hc || kind = .cl || kind = .sb) && fld d W.SUP_OC_OC_TH n != 0 && configured d n
      && ((rail d n).enabled || gatedNow d n) && !(rail d n).trip.testBit 4 then
    tripRail n 4 (classAct d n 2) d
  else d

/-- R211: ILIM_ACTIVE of an LDO, which a read takes from its pass device (log 7), has held for OC_DG. -/
def opLdoOcTrip (n : Nat) (d : Device) : Device :=
  if railKind n = .ld && configured d n && ((rail d n).enabled || gatedNow d n) && !(rail d n).trip.testBit 4 then
    tripRail n 4 (classAct d n 2) (modRail n (fun r => { r with live := setBitNat r.live 4 true }) d)
  else d

/-- R206, R210, R211: comparator `k` (0-4) of rail `n` has stayed inside for its deglitch time. -/
def opComparatorRelease (n k : Nat) (d : Device) : Device :=
  if 4 < k then d else
  let d := modRail n (fun r => { r with live := setBitNat r.live k false, trip := setBitNat r.trip k false }) d
  let d := testRelease n k d
  if (rail d n).trip &&& classMask (cmpClass k) = 0 then setLevel (32 * cmpClass k + n) false d else d

/-! ### Reference cross-check (R231, R232) -/

/-- R231: BGA departs from its nominal code: REF_ACT. The limit source of channel 128 is 672. -/
def refMismatch (d : Device) : Device :=
  let d := setLevel 672 true (setFlag d W.SUP_GLOBAL_REF_MISMATCH true)
  if flag d W.SUP_CTRL_REF_ACT then
    let d := if flag d W.SUP_FIRST_VALID then d
      else setFlag (setFld (setFld d W.SUP_FIRST_RAIL 0) W.SUP_FIRST_CAUSE 9) W.SUP_FIRST_VALID true
    localFault [] (trigIf W.TRC_TRIG_T_SUP 1 (gutter 0x01 0xFF 9 0#32 d))
  else d

/-- R232: BGB departs from its nominal code. -/
def refAdcFault (d : Device) : Device := setLevel 673 true (setFlag d W.SUP_GLOBAL_REF_ADC_FAULT true)

/-- R206, R574: the deglitch time of comparator `k` (0-4) of rail `n`, in CK_FAST. -/
def dgFast (d : Device) (n k : Nat) : Nat :=
  100 * ((if k < 2 then fld d W.SUP_WIN_OV_DG n else if k < 4 then fld d W.SUP_WIN_UV_DG n else fld d W.SUP_OC_OC_DG n) + 1)

/-- R574: the raw output of comparator `k` of rail `n` changed when the deglitch began that completes now. -/
def traceRail (n k : Nat) (outside : Bool) (d : Device) : Device := traceComp (5 * n + k) outside (dgFast d n k) d

/-! ### The rows -/

def execComparatorTrip (n : BitVec 5) (k : BitVec 2) (both : Bool) (s : State) : Host.Outcome State Fault Refusal :=
  on (fun d => opComparatorTrip n.toNat k.toNat both (traceRail n.toNat k.toNat true d)) s
def execComparatorRelease (n : BitVec 5) (k : BitVec 3) (s : State) : Host.Outcome State Fault Refusal :=
  on (fun d => opComparatorRelease n.toNat k.toNat (traceRail n.toNat k.toNat false d)) s
def execOcTrip (n : BitVec 5) (s : State) : Host.Outcome State Fault Refusal := 
  on (fun d => opOcTrip n.toNat (traceRail n.toNat 4 true d)) s
def execLdoOcTrip (n : BitVec 5) (s : State) : Host.Outcome State Fault Refusal := 
  on (fun d => opLdoOcTrip n.toNat (traceRail n.toNat 4 true d)) s

end Sys2Proof.Machine
end

