-- ==== Sys2Proof/Machine/Regulators.lean ====
section
/-! DEFINITION. Events of the regulators: HC phase failures (R103-R107), synchronisation (R108-R111, R605), braking (R112,
R113), the gate-bias drivers (R154-R160). -/

namespace Sys2Proof.Machine

/-! ### HC phases -/

/-- R104-R106: a failure condition of channel `k` latches with its cause (1-6); an open phase is told by another that serves. -/
def opHcPhaseFail (k cause : Nat) (d : Device) : Device :=
  let n := hcLeader d k
  let rest := setBitNat (fld d W.HC_STATUS_PH_MASK n) k false
  if !(fld d W.HC_STATUS_PH_MASK n).testBit k || cause = 0 || cause = 7 || (cause = 1 && rest = 0) then d
  else
    let d := setFld d W.HC_PH_CAUSE_CAUSE cause k
    let d := setFld d W.HC_STATUS_PH_MASK rest n
    let d := setFld d W.HC_STATUS_PH_DROPPED (setBitNat (fld d W.HC_STATUS_PH_DROPPED n) k true) n
    let d := raise (160 + n) d
    if rest = 0 then noPhaseLeft n d else d

/-! ### Synchronisation -/

/-- The switching rails and their fields. -/
def switchingRails : List Nat := List.range 18

/-- The `FSW` frequency of a rail in hertz (04, R123, R144), and its SDIV + 1. -/
def fswHz (d : Device) (n : Nat) : Nat :=
  match railKind n with
  | .hc => 200000 + 10000 * fld d W.HC_CFG_FSW n
  | .cl => 1100000 + 50000 * fld d W.CL_CFG_FSW (n - 4)
  | .sb => 2200000
  | .ld => 0
  | .gb => 0
def syncDiv (d : Device) (n : Nat) : Nat :=
  match railKind n with
  | .hc => fld d W.HC_CFG_SDIV n + 1
  | .cl => fld d W.CL_CFG_SDIV (n - 4) + 1
  | .sb => fld d W.SB_CFG_SDIV (n - 12) + 1
  | .ld => 1
  | .gb => 1

/-- R108: `SYNC_IN` of `period` CK_FAST cycles divided by SDIV + 1 lies within 20 % of the rail's FSW frequency. -/
def inLockRange (d : Device) (n period : Nat) : Bool :=
  let x := fswHz d n * period * syncDiv d n
  8 * x ≤ 2000000000 && 2000000000 ≤ 12 * x

/-- SYNC_RANGE of a switching rail. -/
def syncRange (d : Device) (n : Nat) : Bool :=
  match railKind n with
  | .hc => flag d W.HC_STATUS_SYNC_RANGE n
  | .cl => flag d W.CL_RSTATUS_SYNC_RANGE (n - 4)
  | .sb => flag d W.SB_RSTATUS_SYNC_RANGE (n - 12)
  | .ld => false
  | .gb => false

/-- R108: a rail's range is judged against the present `SYNC_IN`; outside it the rail is not locked, and SYNC_RANGE is raised
when the rail sets its flag. -/
def judgeRange (period : Nat) (d : Device) (n : Nat) : Device :=
  if inLockRange d n period then setSyncRange n false d
  else
    let seen := syncRange d n
    let d := setSyncRange n true (setSyncLocked n false d)
    let d := { d with core := { d.core with relock := setBitNat d.core.relock n false } }
    if seen then d else raise 754 d

/-- R108, R118: what changes FSW or SDIV of the rails `ns` has them judged again. -/
def rejudgeSync (ns : List Nat) (d : Device) : Device :=
  if flag d W.SYNC_STATUS_SYNC_VALID then
    (ns.filter (fun n => n < 18 && configured d n)).foldl (judgeRange (fld d W.SYNC_STATUS_PERIOD)) d
  else d

/-- R605: four `SYNC_IN` periods in CK_FAST cycles, of 100 kHz to 10 MHz and within 1 % of one another. -/
def syncGood (periods : List Nat) : Bool :=
  periods.length == 4 && periods.all (fun p => 40 ≤ p && p ≤ 4000 && periods.all (fun q => 100 * p ≤ 101 * q))

/-- R605: `SYNC_IN` qualifies. DESIGN CHOICE (log 22): FSYNC is the frequency of the last period, rounded down to whole kHz. -/
def opSyncQualified (periods : List Nat) (d : Device) : Device :=
  let period := periods.getLastD 0
  if flag d W.SYNC_CFG_SYNC_EN && !flag d W.SYNC_STATUS_SYNC_VALID && syncGood periods then
    let d := setFld (setFld d W.SYNC_STATUS_PERIOD period) W.SYNC_STATUS_FSYNC (400000 / period)
    let d := raise 752 (setFlag d W.SYNC_STATUS_SYNC_VALID true)
    (switchingRails.filter (configured d)).foldl (judgeRange period) d
  else d

/-- R110, R605: no `SYNC_IN` edge within twice the period: no rail is locked, and there is no frequency to be out of range
(log 22). -/
def opSyncLost (d : Device) : Device :=
  if flag d W.SYNC_STATUS_SYNC_VALID then
    let d := switchingRails.foldl (fun d n => setSyncRange n false (setSyncLocked n false d)) (setFlag d W.SYNC_STATUS_SYNC_VALID false)
    raise 753 { d with core := { d.core with relock := 0 } }
  else d

/-- R108, R111: rail `n` judges the qualified `SYNC_IN`; within its lock range it moves to the synchronised frequency. -/
def opSyncRequalify (n : Nat) (d : Device) : Device :=
  if flag d W.SYNC_STATUS_SYNC_VALID && n < 18 && (rail d n).enabled then
    let d := judgeRange (fld d W.SYNC_STATUS_PERIOD) d n
    if syncRange d n then d else { d with core := { d.core with relock := setBitNat d.core.relock n true } }
  else d

/-- R111: the phase error of rail `n` has stayed below T / 256 for 16 periods. -/
def opSyncLocked (n : Nat) (d : Device) : Device :=
  if d.core.relock.testBit n && (rail d n).enabled then
    setSyncLocked n true { d with core := { d.core with relock := setBitNat d.core.relock n false } }
  else d

/-! ### Braking (R112, R113) -/

def brakeEn (d : Device) (n : Nat) : Bool :=
  match railKind n with
  | .hc => flag d W.HC_BRAKE_BRAKE_EN n
  | .cl => flag d W.CL_BRAKE_BRAKE_EN (n - 4)
  | .sb => flag d W.SB_CFG_BRAKE_EN (n - 12)
  | .ld => false
  | .gb => false

/-- R113: the reference is falling. -/
def refFalling (d : Device) (n : Nat) : Bool :=
  (rail d n).ph = .rampDown || ((rail d n).ph = .move && (rail d n).ref.dst < (rail d n).ref.frm)

/-- BRAKING of a switching rail. -/
def braking (d : Device) (n : Nat) : Bool :=
  match railKind n with
  | .hc => flag d W.HC_STATUS_BRAKING n
  | .cl => flag d W.CL_RSTATUS_BRAKING (n - 4)
  | .sb => flag d W.SB_RSTATUS_BRAKING (n - 12)
  | .ld => false
  | .gb => false

/-- R112, R113: the output of rail `n` exceeds its brake threshold. Environment: it has been `below` the threshold less 0.5 %
of the set point since the last event. -/
def opBrakeStart (n : Nat) (below : Bool) (d : Device) : Device :=
  if brakeEn d n && (rail d n).enabled && (rail d n).ph != .rampUp && !refFalling d n && !braking d n && below then
    let d := setBraking n true d
    match railKind n with
    | .hc => addSat d W.HC_BRAKE_CNT_BRAKES 1 n
    | .cl => addSat d W.CL_BRAKE_CNT_BRAKES 1 (n - 4)
    | .sb => d
    | .ld => d
    | .gb => d
  else d

def opBrakeEnd (n : Nat) (d : Device) : Device := setBraking n false d

/-! ### Gate-bias drivers (R154-R160) -/

/-- R172: the switches of GB rail `n` go off at once, without the interlock; the rail is falling from now. -/
def cutGb (n : Nat) (d : Device) : Device :=
  let d := losePg n false d
  let d := setFlag (setFlag (idlePhases n d) W.GB_RSTATUS_RAMPING false (n - 24)) W.GB_RSTATUS_INTERLOCK_WAIT false (n - 24)
  setRstate n 6 (modRail n (fun r => { r with
    gated := true, noSink := true, enabled := false, waitBias := false, ph := .still, ref := { start := d.roofTime }, falling := true,
    stopStart := d.roofTime }) d)

/-- R157, R211, R216: a GB short is the rail's overcurrent trip, acting as at least GATE. -/
def opGbShort (k : Nat) (d : Device) : Device :=
  let n := 24 + k
  if (rail d n).enabled then
    let d := setFlag (setFlag d W.GB_RSTATUS_LIMIT true k) W.SUP_STATUS_OC_LAT true n
    let d := assertSso (assoc d n) true (cutGb n d)
    let d := raise (64 + n) d
    supAct n 2 (max 1 (fld d W.SUP_ACT_OC_ACT n)) true d
  else d

/-- R158, R216: the condition of an open secondary comes (`present`) or goes. Its coming raises PG_LOST and leaves power-good,
whose losses R213 names, as it is (log 23). -/
def opGbOpen (k : Nat) (present : Bool) (d : Device) : Device :=
  let n := 24 + k
  if !present then setFlag d W.GB_RSTATUS_OPEN false k
  else if (rail d n).enabled && (rail d n).ph = .still && fld d W.GB_ILIM_ILO k != 0 && flag d W.GB_RSTATUS_SWITCHING k
      && !flag d W.GB_RSTATUS_OPEN k then
    supAct n 7 (fld d W.SUP_ACT_OPEN_ACT n) false (raise (96 + n) (setFlag d W.GB_RSTATUS_OPEN true k))
  else d

/-- The GB rails of a bank: 24-27 on `GBIN_A`, 28-31 on `GBIN_B`. -/
def bankRails (b : Bool) : List Nat := if b then [28, 29, 30, 31] else [24, 25, 26, 27]

/-- The lockout bit of a bank. -/
def bankBit (b : Bool) : Nat := if b then 1 else 0

/-- R155, R172: `GBIN` of a bank falls below 4.20 V: every driver of the bank stops, UV of each enabled rail is raised, and the
outputs that it names go low in the same cycle. -/
def opGbUvlo (b : Bool) (d : Device) : Device :=
  if d.core.gbLock.testBit (bankBit b) then d else
  let d := { d with core := { d.core with gbLock := setBitNat d.core.gbLock (bankBit b) true } }
  ((bankRails b).filter (fun n => (rail d n).enabled)).foldl
    (fun d n => raise (32 + n) (assertSso (assoc d n) false
      (setMoving n false (setFlag d W.GB_RSTATUS_SWITCHING false (n - 24))))) d

/-- R155: `GBIN` rises above 4.40 V: the drivers restart with a duty ramp. -/
def opGbUvloRelease (b : Bool) (d : Device) : Device :=
  let d := { d with core := { d.core with gbLock := setBitNat d.core.gbLock (bankBit b) false } }
  ((bankRails b).filter (fun n => (rail d n).enabled && !flag d W.GB_RSTATUS_SWITCHING (n - 24))).foldl
    (fun d n =>
      if (rail d n).falling then d
      else modRail n (fun r => { r with
        ph := .rampUp, ref := { frm := 0, dst := setPoint d n, start := d.roofTime, dur := rampTicks d n } })
        (setMoving n true (setFlag d W.GB_RSTATUS_SWITCHING true (n - 24)))) d

/-- R154: the duty ramp of GB rail 24 + k completes; after a disable both switches are off. -/
def opGbRampDone (k : Nat) (d : Device) : Device :=
  let n := 24 + k
  let r := rail d n
  if r.ph = .rampUp && d.seq.holdFrom = none && !gbLocked d n then
    let d := advanceTo (r.ref.start + r.ref.dur) d
    setMoving n false (modRail n (fun r => { r with ph := .still, ref := { dst := r.ref.dst, start := r.ref.start + r.ref.dur } }) d)
  else if r.ph = .rampDown then railOff n (advanceTo (r.ref.start + r.ref.dur) d)
  else d

/-- R160: 100 microseconds after its switches are off, a GB rail without AUX_EN counts as fallen. -/
def opGbOffCounted (k : Nat) (d : Device) : Device :=
  let n := 24 + k
  if gbTimed d n && !(rail d n).enabled && (rail d n).falling then
    railFallen n (advanceTo ((rail d n).ref.start + 10000) d) else d

/-- R574: the detector `id` of a phase reports cause `cause`: at once, or for a shorted switch 8 CK_FAST before the failure is
declared (R104, R126). A cause that a temperature sensor reports (`own` false) has no detector. -/
def tracePhase (id : Nat) (own : Bool) (cause : Nat) (d : Device) : Device :=
  if own && cause != 0 then traceComp id true (if cause = 2 || cause = 3 then 8 else 0) d else d

/-! ### The rows -/

def execHcPhaseFail (k : BitVec 2) (cause : BitVec 3) (s : State) : Host.Outcome State Fault Refusal :=
  on (fun d => opHcPhaseFail k.toNat cause.toNat (tracePhase (170 + k.toNat) (cause.toNat < 6) cause.toNat d)) s
def execSyncQualified (periods : List (BitVec 16)) (s : State) : Host.Outcome State Fault Refusal :=
  on (opSyncQualified (periods.map (·.toNat))) s
def execSyncLost (s : State) : Host.Outcome State Fault Refusal := on opSyncLost s
def execSyncRequalify (n : BitVec 5) (s : State) : Host.Outcome State Fault Refusal := on (opSyncRequalify n.toNat) s
def execSyncLocked (n : BitVec 5) (s : State) : Host.Outcome State Fault Refusal := on (opSyncLocked n.toNat) s
def execBrakeStart (n : BitVec 5) (below : Bool) (s : State) : Host.Outcome State Fault Refusal :=
  on (opBrakeStart n.toNat below) s
def execBrakeEnd (n : BitVec 5) (s : State) : Host.Outcome State Fault Refusal := on (opBrakeEnd n.toNat) s
def execGbShort (k : BitVec 3) (s : State) : Host.Outcome State Fault Refusal := 
  on (fun d => opGbShort k.toNat (traceComp (174 + k.toNat) true 0 d)) s
def execGbOpen (k : BitVec 3) (present : Bool) (s : State) : Host.Outcome State Fault Refusal :=
  on (opGbOpen k.toNat present) s
def execGbUvlo (bank : Bool) (s : State) : Host.Outcome State Fault Refusal := on (opGbUvlo bank) s
def execGbUvloRelease (bank : Bool) (s : State) : Host.Outcome State Fault Refusal := on (opGbUvloRelease bank) s
def execGbRampDone (k : BitVec 3) (s : State) : Host.Outcome State Fault Refusal := on (opGbRampDone k.toNat) s
def execGbOffCounted (k : BitVec 3) (s : State) : Host.Outcome State Fault Refusal := on (opGbOffCounted k.toNat) s

end Sys2Proof.Machine
end

