-- ==== Sys2Proof/Machine/Clusters.lean ====
section
/-! DEFINITION. Phase clusters (05): phase failures (R126, R127, R133), spare handover (R129-R132), rotation and shedding
(R135-R137), collisions (R138), the spare drill (R140-R142). -/

namespace Sys2Proof.Machine

/-! ### Facts of a cluster -/

/-- The cluster of phase `p`, and the rail that its ROLE serves. -/
def phCluster (p : Nat) : Nat := p / 5
def phRail (d : Device) (p : Nat) : Nat := 4 + 4 * phCluster p + fld d W.PH_CFG_ROLE p

/-- R122: five phases serve rails. -/
def noSpare (d : Device) (c : Nat) : Bool := (clPhases c).all (fun p => fld d W.PH_CFG_ROLE p ≤ 3)

/-- R128: the spare of cluster `c` is idle and healthy. -/
def spareIdle (d : Device) (c : Nat) : Option Nat :=
  match sparePhase d c with
  | some p =>
    if flag d W.CL_STATUS_SPARE_FAILED c || flag d W.CL_STATUS_SPARE_ENGAGED c || flag d W.CL_STATUS_STEER_CLOSED c
       || (clus d c).ho.isSome then none else some p
  | none => none

/-- The phases of rail `n` that serve it now by their ROLE. -/
def servingPhases (d : Device) (n : Nat) : List Nat := (rolePhases d n).filter (fun p => fld d W.PH_STATUS_STATE p == 1)

/-- R138: a failure of a phase of rail `n` is not handed over during a soft stop or after its descent step has begun. -/
def stopBegun (d : Device) (n : Nat) : Bool := (rail d n).falling || (rail d n).waitBias || !(rail d n).enabled

/-- The value in use of the sensor of phase `p`, in tenths of a degree (R473: sensor index p is TSp). -/
def phTemp (d : Device) (p : Nat) : Int := SMap.get (fun _ => 0) d.therm.value p

/-! ### Failure without a spare (R133) -/

/-- R133: phase `p` is dropped from its rail. -/
def dropPhase (p : Nat) (d : Device) : Device :=
  let n := phRail d p
  let d := setFld d W.CL_RSTATUS_PH_DROPPED (setBitNat (fld d W.CL_RSTATUS_PH_DROPPED (n - 4)) (p % 5) true) (n - 4)
  let d := putPhase n p false 6 d
  if fld d W.CL_RSTATUS_PH_MASK (n - 4) = 0 && (rail d n).enabled then noPhaseLeft n d else d

/-- R126: the record of a failed phase; PHASE_FAULT of the rail it serves. -/
def recordFail (p cause : Nat) (d : Device) : Device :=
  setFlag (setFld d W.PH_STATUS_CAUSE cause p) W.PH_STATUS_FAILED true p

/-- The spare of cluster `c` is unusable, with a cause. -/
def failSpare (c cause : Nat) (d : Device) : Device :=
  let d := setFlag d W.CL_STATUS_SPARE_FAILED true c
  match sparePhase d c with
  | some p => setFld (recordFail p cause d) W.PH_STATUS_STATE 6 p
  | none => d

/-! ### Handover (R129-R131) -/

/-- R129: a handover begins; a hard failure is high-impedance at once. -/
def beginHandover (c : Nat) (h : Handover) (d : Device) : Device :=
  let d := modClus c (fun x => { x with ho := some h }) d
  let d := match sparePhase d c with | some p => setFld d W.PH_STATUS_STATE 3 p | none => d
  match h.kind, h.phase with
  | 1, some p => putPhase (4 + 4 * c + h.target) p false 6 d
  | _, _ => d

/-- R138: the spare of cluster `c` serves in rotation or in a drill on another rail than `r`. -/
def spareAway (d : Device) (c r : Nat) : Bool :=
  flag d W.CL_STATUS_STEER_CLOSED c && !flag d W.CL_STATUS_SPARE_ENGAGED c && fld d W.CL_STATUS_SPARE_RAIL c != r

/-- R138: a failure on another rail ends the spare's rotation or drill. -/
def freeSpare (c r : Nat) (d : Device) : Device :=
  if spareAway d c r then
    let d := if (clus d c).drill.isSome then endDrill c 7 .aborted d else d
    parkSpare c (modClus c (fun x => { x with trading := false, next := none }) (resumeRest c d))
  else d

/-- R129, R133, R138: the failure of serving phase `p` (soft or hard) that the spare may take. While a drill holds on the phase's
own rail, which no row of R138 names, the phase is dropped and the drill goes on (DESIGN CHOICE, log 22). -/
def replaceOrDrop (p cause : Nat) (d : Device) : Device :=
  let c := phCluster p
  let n := phRail d p
  let r := fld d W.PH_CFG_ROLE p
  if stopBegun d n then dropPhase p d
  else
    -- a phase of the rail that the spare visits in rotation: the resting phase takes its place, the spare stays (R138)
    let visited := (clus d c).rest.isSome && fld d W.CL_STATUS_SPARE_RAIL c = r && flag d W.CL_STATUS_STEER_CLOSED c
    if visited then
      let d := setFlag (setFlag (resumeRest c d) W.CL_STATUS_ROT_ACTIVE false c) W.CL_STATUS_SPARE_ENGAGED true c
      putPhase n p false 6 (modClus c (fun x => { x with trading := false, next := none }) d)
    else
      let late := spareAway d c r
      let d := freeSpare c r d
      match spareIdle d c with
      | some _ => beginHandover c { kind := if cause ≤ 3 then 1 else 2, target := r, phase := some p, late := late } d
      | none => dropPhase p d

/-- R138: of several phases of a cluster that fail together, the one whose rail would keep fewest phases, the lower number on a
tie. -/
def keeps (d : Device) (fails : List (Nat × Nat)) (p : Nat) : Nat :=
  ((servingPhases d (phRail d p)).filter (fun q => !fails.any (fun f => f.1 == q))).length
def urgentFirst (d : Device) (fails : List (Nat × Nat)) : List (Nat × Nat) :=
  match fails.foldl (fun (b : Option (Nat × Nat)) f => match b with
      | none => some f
      | some g => if keeps d fails f.1 < keeps d fails g.1 || (keeps d fails f.1 == keeps d fails g.1 && f.1 < g.1)
          then some f else some g) none with
  | some f => f :: fails.filter (fun g => g.1 != f.1)
  | none => []

/-- R138: the spare itself fails, idle, in a handover, in rotation, in a drill, or engaged. A drill that so ends completes with
ABORTED and result 7, the spare keeping the cause of its own failure; a handover for a failure ends, the failed phase being
dropped (DESIGN CHOICE, log 22: no row of R138 names either). -/
def spareFails (c p cause : Nat) (d : Device) : Device :=
  let x := clus d c
  let r := fld d W.CL_STATUS_SPARE_RAIL c
  let n := 4 + 4 * c + r
  let engaged := flag d W.CL_STATUS_SPARE_ENGAGED c
  let closed := flag d W.CL_STATUS_STEER_CLOSED c
  let d := if closed then raise (160 + n) d else d
  let d := if x.drill.isSome then endDrill c 7 .aborted d else d
  let d := modClus c (fun x => { x with ho := none, trading := false, next := none }) d
  let d := parkSpare c (resumeRest c (failSpare c cause d))
  let d := match x.ho with
    | some { kind := 1, phase := some q, .. } => dropPhase q d
    | some { kind := 2, phase := some q, .. } => dropPhase q d
    | _ => d
  if engaged then
    let d := setFld d W.CL_RSTATUS_PH_DROPPED (setBitNat (fld d W.CL_RSTATUS_PH_DROPPED (n - 4)) (p % 5) true) (n - 4)
    if fld d W.CL_RSTATUS_PH_MASK (n - 4) = 0 && (rail d n).enabled then noPhaseLeft n d else d
  else d

/-- R126, R125: one failure: its record, its source, what follows. -/
def onePhaseFail (d : Device) (f : Nat × Nat) : Device :=
  let p := f.1
  let c := phCluster p
  let st := fld d W.PH_STATUS_STATE p
  if f.2 = 7 then
    if st = 1 || st = 4 then
      let r := fld d W.PH_STATUS_SERVING_RAIL p
      raise (160 + 4 + 4 * c + r) (setFlag (setFld d W.PH_STATUS_CAUSE 7 p) W.CL_RSTATUS_IMBAL true (4 * c + r))
    else d
  else if sparePhase d c = some p then spareFails c p f.2 d
  else if st = 5 then
    -- R138: a resting phase with a suspect sensor is marked failed, and the spare stays in its place
    let d := raise (160 + phRail d p) (setFld (recordFail p f.2 d) W.PH_STATUS_STATE 6 p)
    let d := setFlag (setFlag d W.CL_STATUS_ROT_ACTIVE false c) W.CL_STATUS_SPARE_ENGAGED true c
    modClus c (fun x => { x with rest := none, trading := false, next := none }) d
  else if st = 1 || st = 7 then
    replaceOrDrop p f.2 (raise (160 + phRail d p) (recordFail p f.2 d))
  else d

/-- R126: an open phase (cause 1) is told by another phase that serves its rail, or on a single-phase rail by the rail. -/
def openTold (d : Device) (p : Nat) : Bool :=
  sparePhase d (phCluster p) = some p || (rolePhases d (phRail d p)).length ≤ 1
  || setBitNat (fld d W.CL_RSTATUS_PH_MASK (phRail d p - 4)) (p % 5) false ≠ 0

/-- R126, R138: phases that fail in one CK_FAST cycle, with their causes. -/
def opPhaseFail (fails : List (Nat × Nat)) (d : Device) : Device :=
  let fs := fails.filter (fun f => f.1 < 10 && f.2 != 0 && fld d W.PH_CFG_ROLE f.1 ≤ 4 && !flag d W.PH_STATUS_FAILED f.1
    && (f.2 != 1 || openTold d f.1))
  (urgentFirst d (fs.filter (fun f => f.1 < 5)) ++ urgentFirst d (fs.filter (fun f => 5 ≤ f.1))).foldl onePhaseFail d

/-- R141: the drill of cluster `c` waits, and its conditions hold: the rail power-good, its reference still for 100
microseconds, its current (channel 32 + rail, 4 mA) at most 1.50 A. -/
def drillMayBegin (d : Device) (c : Nat) : Option Nat :=
  match (clus d c).drill, (clus d c).ho with
  | some r, none =>
    let n := 4 + 4 * c + r
    if !(clus d c).holding && (rail d n).pg && (rail d n).ph = .still && (rail d n).ref.start + 10000 ≤ d.roofTime
        && adcVal d (32 + n) * 4 ≤ 1500 then some r else none
  | _, _ => none

/-- R141: the drill's handover begins once its conditions hold. -/
def startDrill (c : Nat) (d : Device) : Device :=
  match drillMayBegin d c with
  | some r =>
    beginHandover c { kind := 4, target := r }
      (setFlag (modClus c (fun x => { x with pgLost := false }) d) W.CL_STATUS_DRILL_ACTIVE true c)
  | none => d

/-- R129, R131: the match at cycle `m`, in time: the steering switch begins closing. -/
def opHandoverMatch (c m : Nat) (d : Device) : Device :=
  let d := startDrill c d
  match (clus d c).ho with
  | some h => if m ≤ (if h.late then 2200 else 2000) && h.matched.isNone then
      modClus c (fun x => { x with ho := some { h with matched := some m } }) d else d
  | none => d

/-- R129, R135, R141: the steering switch is fully on: the spare serves. A phase that failed while the spare came to let it rest
is not resting: the spare is engaged in its place (DESIGN CHOICE, log 22). -/
def opSpareEngaged (c : Nat) (d : Device) : Device :=
  match (clus d c).ho, sparePhase d c with
  | some h, some sp =>
    match h.matched with
    | some m =>
      let n := 4 + 4 * c + h.target
      let rests := h.kind = 3 && h.phase.all (fun p => !flag d W.PH_STATUS_FAILED p)
      let d := modClus c (fun x => { x with
          ho := none, holding := h.kind == 4, rest := if rests then h.phase else x.rest }) d
      let d := putPhase n sp true 4 d
      let d := setFlag (setFld (setFlag d W.CL_STATUS_STEER_CLOSED true c) W.CL_STATUS_SPARE_RAIL h.target c)
        W.CL_RSTATUS_SPARE_ON true (n - 4)
      let d := setFld d W.CL_STATUS_HO_CYCLES (m + 202) c
      let d := addSat d W.PH_COUNT_HANDOVERS 1 sp
      let d := match h.kind, h.phase with
        | 2, some p => setFlag (putPhase n p false 6 d) W.CL_STATUS_SPARE_ENGAGED true c
        | 3, some p =>
          if rests then setFlag (addSat (putPhase n p false 5 d) W.PH_COUNT_ROT_COUNT 1 p) W.CL_STATUS_ROT_ACTIVE true c
          else setFlag d W.CL_STATUS_SPARE_ENGAGED true c
        | 4, _ => setFld d W.DRILL_RESULT_MATCH m c
        | _, _ => setFlag d W.CL_STATUS_SPARE_ENGAGED true c
      raise (192 + n) d
    | none => d
  | _, _ => d

/-- R131, R142: no match in time. -/
def opHandoverFail (c : Nat) (d : Device) : Device :=
  let d := startDrill c d
  match (clus d c).ho with
  | some h =>
    if h.matched.isSome then d else
    let d := setFlag (modClus c (fun x => { x with ho := none }) d) W.CL_STATUS_HANDOVER_FAIL true c
    let d := failSpare c (if h.kind = 4 then 8 else 9) d
    match h.kind, h.phase with
    | 1, some p => dropPhase p d
    | 2, some p => dropPhase p d
    | 4, _ => endDrill c 2 .hwFault d
    | _, _ => d
  | none => d

/-! ### Rotation and shedding (R135-R137) -/

/-- The hottest of a list of phases, the lower number on a tie. -/
def hottest (d : Device) (ps : List Nat) : Option Nat :=
  ps.foldl (fun b p => match b with
    | none => some p
    | some q => if phTemp d q < phTemp d p then some p else some q) none

/-- The serving phases of cluster `c` by their ROLE. -/
def clServing (d : Device) (c : Nat) : List Nat := (clPhases c).filter (fun p => fld d W.PH_STATUS_STATE p == 1)

/-- R135: ROT_DELTA in tenths of a degree. -/
def rotDelta (d : Device) (c : Nat) : Int := 50 + 10 * fld d W.CL_CTRL_ROT_DELTA c

/-- R135: the spare begins to take the place of phase `p`. -/
def rotate (c p : Nat) (d : Device) : Device :=
  beginHandover c { kind := 3, target := fld d W.PH_CFG_ROLE p, phase := some p } d

/-- R136: a serving phase of cluster `c` that is hotter than every other and the spare by ROT_DELTA. -/
def newHottest (d : Device) (c sp : Nat) : Option Nat :=
  (hottest d (clServing d c)).filter (fun h =>
    (sp :: (clServing d c).filter (· != h)).all (fun p => phTemp d p + rotDelta d c ≤ phTemp d h))

/-- R135, R136: an evaluation of cluster `c`. -/
def opRotationEval (c : Nat) (d : Device) : Device :=
  if !flag d W.CL_CTRL_ROT_EN c || d.mode != .ease then d else
  match sparePhase d c, (clus d c).rest with
  | some sp, none =>
    match hottest d (clServing d c) with
    | some h =>
      if (spareIdle d c).isSome && 1300 ≤ phTemp d h && phTemp d sp + rotDelta d c ≤ phTemp d h then rotate c h d else d
    | none => d
  | some sp, some q =>
    let hot := newHottest d c sp
    if !(clus d c).trading && (phTemp d q + rotDelta d c ≤ phTemp d sp || hot.isSome) then
      modClus c (fun x => { x with trading := true, next := hot }) (resumeRest c d)
    else d
  | none, _ => d

/-- R136: the resumed phase has switched 4 periods: the steering switch opens, the spare is idle; a new hottest phase takes
its turn. -/
def opRotationRelease (c : Nat) (d : Device) : Device :=
  if (clus d c).trading then
    let next := (clus d c).next
    let d := parkSpare c (modClus c (fun x => { x with trading := false, next := none }) d)
    match next with
    | some p => if (spareIdle d c).isSome && fld d W.PH_STATUS_STATE p = 1 then rotate c p d else d
    | none => d
  else d

/-- R137: the phases of rail `n` that may rest: those of its ROLE that serve and an engaged spare. A spare that visits in rotation
counts among the serving ones but is not shed (DESIGN CHOICE, log 22). -/
def shedPhases (d : Device) (n : Nat) : List Nat :=
  servingPhases d n ++ (if spareEngagedOn d n then (sparePhase d ((n - 4) / 4)).toList else [])

/-- R137: rail `n`, with two phases or more in PH_MASK, sheds its hottest phase. -/
def opPhaseShed (n : Nat) (d : Device) : Device :=
  let c := (n - 4) / 4
  if railKind n = .cl && flag d W.CL_CTRL_SHED_EN c && d.mode = .ease && (clus d c).ho.isNone
      && 2 ≤ (bitsIn (fld d W.CL_RSTATUS_PH_MASK (n - 4)) 5).length then
    match hottest d (shedPhases d n) with
    | some p =>
      let d := setFlag (putPhase n p false 7 d) W.CL_RSTATUS_SHED_ACTIVE true (n - 4)
      if sparePhase d c = some p then setFlag d W.CL_RSTATUS_SPARE_ON false (n - 4) else d
    | none => d
  else d

def opShedResume (n : Nat) (d : Device) : Device := if railKind n = .cl then resumeShed n d else d

/-! ### Drill (R140-R142) -/

/-- R140: the spare may be drilled: not engaged, in a handover or in rotation; not failed but with cause 8 or 9. A drill accepted
and not ended, which the rule does not name, gives BUSY too (DESIGN CHOICE, log 22). -/
def drillable (d : Device) (c : Nat) : Bool :=
  match sparePhase d c with
  | some p =>
    !flag d W.CL_STATUS_SPARE_ENGAGED c && (clus d c).ho.isNone && (clus d c).rest.isNone && !(clus d c).trading
    && (clus d c).drill.isNone
    && (!flag d W.CL_STATUS_SPARE_FAILED c || fld d W.PH_STATUS_CAUSE p = 8 || fld d W.PH_STATUS_CAUSE p = 9)
  | none => false

def opSpareDrill (c : Cmd) (d : Device) : Device :=
  let k := bitsOf (c.p 0) 8 8
  gated c d (fun d => [
      (bitsOf (c.p 0) 31 9 = 0 && bitsOf (c.p 0) 7 2 = 0 && !noSpare d k && (sparePhase d k).isSome, .badParam),
      (inMode d [.run, .ease], .deniedMode), (drillable d k, .busy)])
    (fun d => startDrill k
      (keepRunning c (modClus k (fun x => { x with drill := some (bitsOf (c.p 0) 1 0), holding := false, pgLost := false }) d)))

/-- R141, R415: the instant 50 ms after the drill of cluster `c` was accepted at the gate. -/
def drillLimit (d : Device) (c : Nat) : Nat :=
  ((running d 0x30).find? (fun k => bitsOf (k.p 0) 8 8 == c)).elim d.roofTime (fun k => k.startT + 40 + 5000000)

/-- R141: the conditions of the drill have not been met within 50 ms of its acceptance. -/
def opDrillTimeout (c : Nat) (d : Device) : Device :=
  if (clus d c).drill.isSome && (clus d c).ho.isNone && !(clus d c).holding then
    let d := modClus c (fun x => { x with drill := none }) (advanceTo (drillLimit d c) d)
    completeAll (fun k => k.op == 0x30 && bitsOf (k.p 0) 8 8 == c) .timeout (fun _ => getW d (W.DRILL_RESULT + c)) (fun _ => 0#32) d
  else d

/-- R142: the hold has ended with a mean spare current of `ma` mA; `opened` when the steering switch reported open in time. Of
several conditions that fail, RESULT names the first of current, power-good and release (DESIGN CHOICE, log 22). -/
def opDrillHoldEnd (c ma : Nat) (opened : Bool) (d : Device) : Device :=
  if (clus d c).holding then
    let res := if ma < 200 then 3 else if 4500 < ma then 4 else if (clus d c).pgLost then 5 else if opened then 1 else 6
    let d := setFld d W.DRILL_RESULT_I_SPARE ma c
    let d := if res = 1 then
        match sparePhase d c with
        | some p => if fld d W.PH_STATUS_CAUSE p = 8 || fld d W.PH_STATUS_CAUSE p = 9 then
            setFlag (readmitPhase d p) W.CL_STATUS_SPARE_FAILED false c else d
        | none => d
      else failSpare c 8 d
    endDrill c res (if res = 1 then .ok else .hwFault) (parkSpare c d)
  else d

/-- R574: the comparator entries of the cluster phases that fail. -/
def tracePhases (fs : List (Nat × Nat)) (d : Device) : Device :=
  fs.foldl (fun d f => tracePhase (160 + f.1) (f.1 < 10 && f.2 < 5) f.2 d) d

/-! ### The rows -/

def execClusterPhaseFail (fails : List (BitVec 4 × BitVec 3)) (s : State) : Host.Outcome State Fault Refusal :=
  on (fun d =>
    let fs := fails.map (fun f => (f.1.toNat, f.2.toNat))
    opPhaseFail fs (tracePhases fs d)) s
def execHandoverMatch (c : BitVec 1) (m : Nat) (s : State) : Host.Outcome State Fault Refusal :=
  on (opHandoverMatch c.toNat m) s
def execSpareEngaged (c : BitVec 1) (s : State) : Host.Outcome State Fault Refusal := on (opSpareEngaged c.toNat) s
def execHandoverFail (c : BitVec 1) (s : State) : Host.Outcome State Fault Refusal := on (opHandoverFail c.toNat) s
def execRotationEval (c : BitVec 1) (s : State) : Host.Outcome State Fault Refusal := on (opRotationEval c.toNat) s
def execRotationRelease (c : BitVec 1) (s : State) : Host.Outcome State Fault Refusal := on (opRotationRelease c.toNat) s
def execPhaseShed (n : BitVec 5) (s : State) : Host.Outcome State Fault Refusal := on (opPhaseShed n.toNat) s
def execShedResume (n : BitVec 5) (s : State) : Host.Outcome State Fault Refusal := on (opShedResume n.toNat) s
def execSpareDrill (rq : Req) (p0 : Word) (s : State) : Host.Outcome State Fault Refusal :=
  on (runRow rq 0x30 [p0] [] opSpareDrill) s
def execDrillTimeout (c : BitVec 1) (s : State) : Host.Outcome State Fault Refusal := on (opDrillTimeout c.toNat) s
def execDrillHoldEnd (c : BitVec 1) (ma : BitVec 16) (opened : Bool) (s : State) : Host.Outcome State Fault Refusal :=
  on (opDrillHoldEnd c.toNat ma.toNat opened) s

end Sys2Proof.Machine
end

