-- ==== Sys2Proof/Machine/Adc.lean ====
section
/-! DEFINITION. The converters (18): slot lists and the scheduler, directed conversions, results, subscriptions, limit checks
(R501), the latent-fault comparison (R226-R228), the reference cross-check (R230-R232), phase balance (R103, R125),
calibration (R494-R496). -/

namespace Sys2Proof.Machine

/-! ### Channels (R488) -/

/-- Home converter and local index of a channel below 136. -/
def homeOf (ch : Nat) : Nat × Nat :=
  if ch < 32 then (0, ch)
  else if ch < 64 then (1, ch - 32)
  else if ch < 86 then (2, ch - 64)
  else if ch < 95 then (3, ch - 86)
  else if ch < 102 then (0, ch - 63)
  else if ch < 104 then (1, ch - 70)
  else if ch < 128 then (3, ch - 95)
  else if ch < 130 then (0, ch - 89)
  else if ch < 132 then (0, ch - 89)
  else (2, ch - 110)

/-- The channel that a converter's local index names, or none for 63 (free). -/
def channelOf (c loc : Nat) : Option Nat := (List.range 136).find? (fun ch => homeOf ch == (c, loc))

/-- R487, R30: PD_AFE is on and the converters run (R500). -/
def adcOn (d : Device) : Bool :=
  !inMode d [.dormant, .standby, .replay] && 1 ≤ fld d W.MODE_STATUS_BOOT_STAGE && !d.core.hardHeld && !d.core.porHeld

/-- R495, R496: converter `c` converts nothing of its list: it calibrates or is retired. -/
def converterOut (d : Device) (c : Nat) : Bool :=
  (fld d W.ADC_STATUS_CALIBRATING).testBit c || (fld d W.ADC_STATUS_RETIRED).testBit c

/-- R493, R495: the converter that serves a directed conversion of `ch`. -/
def serverOf (d : Device) (ch : Nat) : Nat :=
  let h := (homeOf ch).1
  if converterOut d h then ((List.range 4).find? (fun c => !converterOut d c)).getD h else h

/-! ### Lists (R490-R492) -/

/-- The reset value of a list word in force. -/
def listDflt (k : Nat) : Word := resetWord (W.ADC_SLOT + k)

/-- R491: entry `i` of converter `c`'s list in force, as a channel. -/
def entryOf (d : Device) (c i : Nat) : Option Nat :=
  let w := SMap.get listDflt d.adc.lists (52 * c + i / 5)
  channelOf c (bitsOf w (6 * (i % 5) + 5) (6 * (i % 5)))

/-- R492: the priority of a channel. -/
def adcPrio (d : Device) (ch : Nat) : Nat := arr d W.ADC_PRIO_PRIO ch

def adcPos (d : Device) (c : Nat) : Nat := SMap.get (fun _ => 0) d.adc.pos c
def setAdcPos (c p : Nat) (d : Device) : Device :=
  { d with adc := { d.adc with pos := SMap.set (fun _ => 0) c p d.adc.pos } }

def heldOn (d : Device) (c : Nat) : List Nat := SMap.get (fun _ => []) d.adc.held c
def setHeld (c : Nat) (q : List Nat) (d : Device) : Device :=
  { d with adc := { d.adc with held := SMap.set (fun _ => []) c q d.adc.held } }

/-! ### Results: limits, latent faults, references, balance -/

/-- A code of channel `ch` as a number of its format (R488). -/
def codeVal (ch code : Nat) : Int :=
  if adcSigned ch && (code % 16384).testBit 13 then ((code % 16384 : Nat) : Int) - 16384 else ((code % 16384 : Nat) : Int)

/-- R489: the code of a value in the channel's LSB, and whether it was clamped. -/
def codeOf (ch : Nat) (v : Int) : Nat × Bool :=
  let lo : Int := if adcSigned ch then -8192 else 0
  let hi : Int := if adcSigned ch then 8191 else 16383
  let w := if v < lo then lo else if hi < v then hi else v
  ((w % 16384).toNat, w != v)

def limRec (d : Device) (ch : Nat) : LimRec := SMap.get (fun _ => ({} : LimRec)) d.adc.limits ch
def setLimRec (ch : Nat) (r : LimRec) (d : Device) : Device :=
  { d with adc := { d.adc with limits := SMap.set (fun _ => ({} : LimRec)) ch r d.adc.limits } }

/-- R501: the limit set of a channel; 0 none, and none for channels 128 and 129. -/
def limSet (d : Device) (ch : Nat) : Nat := if ch = 128 ∨ ch = 129 then 0 else arr d W.ADC_LIMSEL_SET ch

/-- R501: the limit check of a result. -/
def checkLimits (ch code : Nat) (d : Device) : Device :=
  let s := limSet d ch
  if s = 0 then d
  else
    let v := codeVal ch code
    let out := v < codeVal ch (fld d W.ADC_LIMSET_LOW (s - 1)) || codeVal ch (fld d W.ADC_LIMSET_HIGH (s - 1)) < v
    let n := fld d W.ADC_CTRL_LIM_CNT + 1
    let r := limRec d ch
    let r := if out then { out := min (r.out + 1) 8, ins := 0 } else { out := 0, ins := min (r.ins + 1) 8 }
    let d := setLimRec ch r d
    if out && n ≤ r.out then setLevel (544 + ch) true d
    else if !out && n ≤ r.ins then setLevel (544 + ch) false d
    else d

/-- R227: the conditions under which a sample of rail `n` counts for comparator `k`. -/
def latentCounts (d : Device) (n k : Nat) : Bool :=
  let r := rail d n
  flag d W.SUP_CTRL_LAT_EN && configured d n && r.enabled && !r.falling && r.ph = .still
  && r.ref.start + 10000 ≤ d.roofTime && !flag d W.SUP_GLOBAL_REF_ADC_FAULT
  && !(fld d W.SUP_STATUS_CMP_FAULT n).testBit k
  && (railKind n != .gb || flag d W.GB_CFG_AUX_EN (n - 24))
  && !(running d 0x31).any (fun c => bitsOf (c.p 0) 3 0 == 1 && bitsOf (c.p 0) 12 8 == n && bitsOf (c.p 0) 17 16 == k)

/-- R488: a rail voltage code in tenths of a millivolt. -/
def railLsb (n : Nat) : Nat := if n < 4 || 24 ≤ n then 20 else 5

/-- R205, R226: the sample `code` of rail `n` mismatches comparator `k`: it lies beyond the threshold widened by the guard
while the comparator's raw output at the conversion reports inside, or inside the threshold narrowed by it while it reports
outside. -/
def latentMismatch (d : Device) (n k code : Nat) : Bool :=
  let v := code * railLsb n * 400
  let sp := setPoint d n
  let g := 2 + fld d W.SUP_CTRL_LAT_GUARD
  let outside := d.adc.raw.testBit k
  if k < 2 then
    let t := 408 + 2 * fld d W.SUP_WIN_OV_TH n
    (!outside && sp * (t + g) < v) || (outside && v < sp * (t - g))
  else
    let t := 392 - 2 * fld d W.SUP_WIN_UV_TH n
    (!outside && v < sp * (t - g)) || (outside && sp * (t + g) < v)

/-- R226-R228: one comparator against one sample of its rail. -/
def checkLatent (n code : Nat) (d : Device) (k : Nat) : Device :=
  if !latentCounts d n k then d
  else
    let m := if latentMismatch d n k code then (rail d n).mism.getD k 0 + 1 else 0
    let d := modRail n (fun r => { r with mism := r.mism.set k (if m = 8 then 0 else m) }) d
    if m = 8 then latentFault n k d else d

/-- Consecutive results of a reference outside and inside: counters `i` and `i + 1`. -/
def refCounts (i : Nat) (out : Bool) (rs : List Nat) : List Nat :=
  if out then (rs.set i (min (rs.getD i 0 + 1) 16)).set (i + 1) 0
  else (rs.set i 0).set (i + 1) (min (rs.getD (i + 1) 0 + 1) 16)

/-- R231, R232: a result of channel 128 or 129. -/
def checkRefs (ch code : Nat) (d : Device) : Device :=
  let off := (code - 8192) + (8192 - code)
  if ch = 128 then
    if flag d W.SUP_GLOBAL_REF_ADC_FAULT then d
    else
      let d := { d with adc := { d.adc with refs := refCounts 0 (82 < off) d.adc.refs } }
      if 4 ≤ d.adc.refs.getD 0 0 then (if flag d W.SUP_GLOBAL_REF_MISMATCH then d else refMismatch d)
      else if 16 ≤ d.adc.refs.getD 1 0 then setLevel 672 false (setFlag d W.SUP_GLOBAL_REF_MISMATCH false)
      else d
  else if ch = 129 then
    let d := { d with adc := { d.adc with refs := refCounts 2 (16 < off) d.adc.refs } }
    if 4 ≤ d.adc.refs.getD 2 0 then (if flag d W.SUP_GLOBAL_REF_ADC_FAULT then d else refAdcFault d)
    else if 16 ≤ d.adc.refs.getD 3 0 then setLevel 673 false (setFlag d W.SUP_GLOBAL_REF_ADC_FAULT false)
    else d
  else d

/-- R509, R520: VBK_LOW follows the results of channel 100 (1 mV). -/
def checkVbk (ch code : Nat) (d : Device) : Device :=
  if ch = 100 then
    let low := decide (code < 2200)
    let was := flag d W.RTC_STATUS_VBK_LOW
    let d := setFlag d W.RTC_STATUS_VBK_LOW low
    if low && !was then raise 745 d else d
  else d

/-- The rail that the phase of channel 64-77 serves now, and its phases as channels less 64: a cluster rail's PH_MASK, a
leader's PH_MASK. -/
def phasePeers (d : Device) (x : Nat) : Option (Nat × List Nat) :=
  if x < 10 then
    ((List.range 4).map (fun r => 4 + 4 * (x / 5) + r)).findSome? (fun n =>
      let m := fld d W.CL_RSTATUS_PH_MASK (n - 4)
      if m.testBit (x % 5) then some (n, (bitsIn m 5).map (fun k => 5 * (x / 5) + k)) else none)
  else
    let n := hcLeader d (x - 10)
    let m := fld d W.HC_STATUS_PH_MASK n
    if m.testBit (x - 10) then some (n, (bitsIn m 4).map (fun k => 10 + k)) else none

def meansOf (d : Device) (x : Nat) : List Int := SMap.get (fun _ => []) d.adc.means x

/-- R103, R125: IMBAL of the rail follows its phases. -/
def putImbal (d : Device) (n : Nat) (xs : List Nat) (x : Nat) : Device :=
  if n < 4 then setFlag d W.HC_STATUS_IMBAL (d.adc.imbal.testBit x) (x - 10)
  else setFlag d W.CL_RSTATUS_IMBAL (xs.any (fun y => d.adc.imbal.testBit y)) (n - 4)

/-- R103, R125: the means of 16 consecutive samples of the phase on channel 64 + `x` and of its rail's phases. -/
def checkBalance (x : Nat) (v : Int) (d : Device) : Device :=
  let d := { d with adc := { d.adc with means := SMap.set (fun _ => []) x ((v :: meansOf d x).take 16) d.adc.means } }
  match phasePeers d x with
  | none => d
  | some (n, xs) =>
    let ys := xs.filter (fun y => (meansOf d y).length == 16)
    if (meansOf d x).length < 16 then d
    else
      let sumOf := fun y => (meansOf d y).foldl (· + ·) (0 : Int)
      let tot := ys.foldl (fun t y => t + sumOf y) (0 : Int)
      let k : Int := ys.length
      let ipk : Int := if x < 10 then fld d W.CL_ILIM_IPK (n - 4) * 10 else fld d W.HC_ILIM_IPK (x - 10)
      let dev := if k * sumOf x < tot then tot - k * sumOf x else k * sumOf x - tot
      let bad := tot < dev * 4 && 16 * k * ipk ≤ tot * 10
      let was := d.adc.imbal.testBit x
      let d := { d with adc := { d.adc with imbal := setBitNat d.adc.imbal x bad } }
      let d := putImbal d n xs x
      if bad && !was then
        raise (160 + n) (if x < 10 then setFld d W.PH_STATUS_CAUSE 7 x else setFld d W.HC_PH_CAUSE_CAUSE 7 (x - 10))
      else d

/-! ### The valley line (R354, R356, R359, R364) -/

/-- The instant since which a condition has held at every conversion. -/
def heldSince (now : Nat) (was : Option Nat) (holds : Bool) : Option Nat := if holds then some (was.getD now) else none

/-- R364: VLY lies within the window of the contract. -/
def inWindow (d : Device) (mv : Nat) : Bool :=
  vlyRole d ≠ 0 && fld d W.VLY_CONTRACT_V_C * 85 ≤ mv && mv ≤ vlyVMax d

/-- R354, R356, R359: a conversion of VLY: the line current by HOLD, how long the line has been low, overloaded or short, and what a
boosting SOURCE has delivered since the last. -/
def vlySample (d : Device) : Device :=
  let v := adcCode d 101 * 4
  let h := adcCode d 96 * 4
  let on_ := 2 ≤ vlySw d
  let i : Int := if on_ then (((h : Int) - v) * 1000) / (max 1 (fld d W.VLY_CFG_RSW) : Nat) else 0
  let d := setFld (setFld d W.VLY_MEAS_V_VLY (min v 65535)) W.VLY_MEAS_I_VLY (i % 65536).toNat
  let d := setFlag d W.VLY_STATUS_IN_WINDOW (inWindow d v)
  let dt := d.roofTime - d.vly.sampleAt
  let d := { d with vly := { d.vly with
    sampleAt := d.roofTime
    lowFrom := heldSince d.roofTime d.vly.lowFrom (v < 600)
    overFrom := heldSince d.roofTime d.vly.overFrom (on_ && (fld d W.VLY_CONTRACT_I_C * 125 : Int) < i)
    shortFrom := heldSince d.roofTime d.vly.shortFrom (vlySw d == 3 && v < 600) } }
  if vlyRole d = 1 && fld d W.BK_STATUS_BK_STATE = 4 && 0 < i then
    let d := { d with vly := { d.vly with energy := d.vly.energy + v * i.toNat * dt } }
    gaugeSums (setFld d W.VLY_ENERGY_DELIVERED (min (d.vly.energy / tenJoule) 65535))
  else d

/-! ### Subscriptions (R497, R498) -/

def subOf (d : Device) (ch : Nat) : Option Sub := SMap.get (fun _ => none) d.adc.subs ch
def setSub (ch : Nat) (x : Option Sub) (d : Device) : Device :=
  { d with adc := { d.adc with subs := SMap.set (fun _ => none) ch x d.adc.subs } }

/-- R497: a result word. -/
def q14Word (ch conv seq code : Nat) (ovr subst : Bool) : Word :=
  BitVec.ofNat 32 (ch * 2 ^ 24 + conv * 2 ^ 22 + (if ovr then 2 ^ 21 else 0) + (if subst then 2 ^ 20 else 0)
    + seq % 64 * 2 ^ 14 + code % 16384)

/-- R498: a result, converted or substituted, of a subscribed channel; every (d + 1)th is delivered. -/
def deliverResult (ch conv code : Nat) (ovr subst : Bool) (d : Device) : Device :=
  match subOf d ch with
  | none => d
  | some x =>
    if x.count < x.dec then setSub ch (some { x with count := x.count + 1 }) d
    else
      let d := setSub ch (some { x with count := 0, seq := (x.seq + 1) % 64 }) d
      ringRecord 14 [q14Word ch conv x.seq code ovr subst] d

/-- R498: a substituted result on converter `c`. -/
def substitute (c ch : Nat) (d : Device) : Device := deliverResult ch c (adcCode d ch) false true d

/-- R499: a converted result of channel `ch` on converter `c`: the checks that follow every result, and Q14 unless the
conversion was directed. -/
def adcResult (c ch code : Nat) (ovr directed : Bool) (d : Device) : Device :=
  let d := { d with adc := { d.adc with 
    last := SMap.set (fun _ => 0) ch code d.adc.last
    doneAt := SMap.set (fun _ => 0) ch d.roofTime d.adc.doneAt } }
  let d := traceResult c ch code ovr d
  let d := checkLimits ch code d
  let d := if ch < 32 then [0, 1, 2, 3].foldl (checkLatent ch code) d else d
  let d := if ch < 32 then testSample ch d else d
  let d := if 36 ≤ ch && ch < 44 then startDrill ((ch - 36) / 4) d else d
  let d := checkVbk ch code (checkRefs ch code d)
  let d := if ch = 101 then vlySample d else d
  let d := if 64 ≤ ch && ch < 78 then checkBalance (ch - 64) (codeVal ch code) d else d
  if directed then d else deliverResult ch c code ovr false d

/-! ### Slots (R492, R493, R495) -/

/-- R493: an entry displaced on converter `c`: with priority 1-3 it is converted in the next free or priority-0 slot, with
priority 0 it is lost. -/
def displaceEntry (c : Nat) (e : Option Nat) (d : Device) : Device :=
  match e with
  | none => d
  | some ch =>
    if adcPrio d ch = 0 then substitute c ch (count (0x38 + c) (addSat d W.ADC_STATUS_LOST 1))
    else setHeld c (heldOn d c ++ [ch]) d

/-- The directed conversions in progress that converter `c` serves, oldest first. -/
def directedOn (d : Device) (c : Nat) (pre : Bool) : List Cmd :=
  (running d 0x60).filter (fun x => bitOf (x.p 0) 12 == pre && serverOf d (bitsOf (x.p 0) 7 0) == c)

/-- R436: the mean of `n` codes, to the nearest; a tie goes as the free value `up` says (log 7). -/
def meanCode (ch : Nat) (codes : List Nat) (up : Bool) : Nat :=
  let t := codes.foldl (fun t x => t + codeVal ch x) (0 : Int)
  let n : Int := codes.length
  let q := t / n
  let r := 2 * (t - q * n)
  ((if r < n then q else if n < r then q + 1 else if up then q + 1 else q) % 16384).toNat

/-- R159: the code of channel 24 + k: that of channel 78 + k (0.25 mV) x KAUX / 1,024 in 2 mV, 0 without AUX_EN. A value between
two codes reads as either (log 7). -/
def auxCode (d : Device) (k : Nat) : Nat × Bool :=
  if !flag d W.GB_CFG_AUX_EN k then (0, false)
  else
    let x := adcCode d (78 + k) * fld d W.GB_AUX_KAUX k
    let q := x / 8192 + (if x % 8192 = 0 then 0 else freeOf d % 2)
    (min q 16383, 16383 < q)

/-- R489, R159: the code of a conversion of channel `ch` and whether it is marked overrange. -/
def resultOf (d : Device) (ch : Nat) (v : Int) (beyond : Bool) : Nat × Bool :=
  if 24 ≤ ch && ch < 32 then auxCode d (ch - 24) else ((codeOf ch v).1, beyond || (codeOf ch v).2)

/-- A conversion of channel `ch` with the code that `resultOf` gives, whose free value is then spent. -/
def takeResult (c ch : Nat) (r : Nat × Bool) (directed : Bool) (d : Device) : Device :=
  adcResult c ch r.1 r.2 directed (if 24 ≤ ch && ch < 32 then drawn d else d)

/-- R436, R493: converter `c` has served one conversion of the directed command `x`. -/
def serveDirected (c : Nat) (x : Cmd) (v : Int) (beyond : Bool) (d : Device) : Device :=
  let ch := bitsOf (x.p 0) 7 0
  let r := resultOf d ch v beyond
  let w := q14Word ch c 0 r.1 r.2 false
  let d := count (0x3C + c) (takeResult c ch r true d)
  let x := { x with aux := x.aux ++ [w] }
  if bitsOf (x.p 0) 10 8 + 1 ≤ x.aux.length then
    let m := meanCode ch (x.aux.map (fun w => bitsOf w 13 0)) (freeOf d % 2 == 1)
    complete x (drawn d) 3 .ok w (BitVec.ofNat 32 m)
  else { d with eng := { d.eng with issued := d.eng.issued.map (fun y => if y.id = x.id then x else y) } }

/-- A conversion of a listed, required, displaced or covered channel. -/
def serveListed (c ch : Nat) (v : Int) (beyond : Bool) (d : Device) : Device :=
  takeResult c ch (resultOf d ch v beyond) false d

/-- R490, R491: entry 0 of converter `c`: the words written since take effect. R495: entries of an absent converter's last
pass that nothing covered are substituted. R502: full rate begins again after RETAIN. -/
def opAdcListPass (c : Nat) (d : Device) : Device :=
  if !adcOn d then d
  else
    let d := (List.range 52).foldl (fun d j =>
      { d with adc := { d.adc with lists := SMap.set listDflt (52 * c + j) (getW d (W.ADC_SLOT + 52 * c + j)) d.adc.lists } }) d
    let d := setAdcPos c 0 d
    let d := if d.mode = .retain then d else setFlag d W.ADC_STATUS_LOW_POWER false
    if converterOut d c then
      let gone := d.adc.cover.filter (fun ch => (homeOf ch).1 == c)
      gone.foldl (fun d ch => substitute c ch d)
        { d with adc := { d.adc with cover := d.adc.cover.filter (fun ch => (homeOf ch).1 != c) } }
    else d

/-- R495: a slot of a converter that calibrates or is retired: its entry of priority 3 or 2 is for the others to cover, of
priority 1 or 0 it is not converted. -/
def slotAbsent (c : Nat) (e : Option Nat) (d : Device) : Device :=
  match e with
  | none => d
  | some ch =>
    if 2 ≤ adcPrio d ch then { d with adc := { d.adc with cover := d.adc.cover ++ [ch] } } else substitute c ch d

/-- R492, R493, R495, R503: one slot of a converter that runs its list, entry `e`; `req` names a required conversion whose
turn it is. -/
def slotRun (c : Nat) (e req : Option Nat) (v : Int) (beyond : Bool) (d : Device) : Device :=
  let open_ := match e with | none => true | some ch => adcPrio d ch == 0
  match directedOn d c true with
  | x :: _ =>
    let d := match req with
      | some ch => count (0x38 + c) (setHeld c (heldOn d c ++ [ch]) d)
      | none => d
    serveDirected c x v beyond (displaceEntry c e d)
  | [] =>
    match req with
    | some ch =>
      let d := if e = some ch || open_ then d else displaceEntry c e d
      serveListed c ch v beyond d
    | none =>
      match open_, heldOn d c, d.adc.cover, e, directedOn d c false with
      | true, ch :: t, _, _, _ => serveListed c ch v beyond (setHeld c t (displaceEntry c e d))
      | true, [], ch :: t, _, _ => serveListed c ch v beyond { d with adc := { d.adc with cover := t } }
      | _, _, _, none, x :: _ => serveDirected c x v beyond d
      | _, _, _, some ch, _ => serveListed c ch v beyond d
      | _, _, _, none, [] => d

/-- R476: the longest time between two samples of sensor index `i`. -/
def sensorPeriod (d : Device) (i : Nat) : Nat := if (fld d W.TH_FAST_FAST).testBit i then 10000 else 100000

/-- R492: the channels that a rule requires at a minimum rate, with the longest time between two conversions: the references
(R230), `PACK_NTC` (R250), `VPACK` (R273), the sensors (R476), `HOLD` and `VLY` while the valley switch conducts (R356), VPRE and
the die sensors while a word of OTP is programmed (R70). -/
def requiredRates (d : Device) : List (Nat × Nat) :=
  [(128, 10000), (129, 10000), (94, 10000000), (97, 100000)]
  ++ (List.range 24).map (fun i => (104 + i, sensorPeriod d i))
  ++ ((List.range 8).filter (fun x => flag d W.TX_CFG_TX_EN x)).map (fun x => (86 + x, sensorPeriod d (24 + x)))
  ++ (if vlySw d = 2 ∨ vlySw d = 3 then [(96, 1000), (101, 1000)] else [])
  ++ (if d.otp.line.any (fun j => j.words != []) then (98, 1000) :: (List.range 24).map (fun i => (104 + i, 1000)) else [])

/-- R492, R503: the required conversion that converter `c` can put off no longer, the earliest deadline first: its next slot would
end too late. -/
def dueNow (d : Device) (c : Nat) : Option Nat :=
  let slot := if flag d W.ADC_STATUS_LOW_POWER then 400 else 40
  let due := fun (p : Nat × Nat) => SMap.get (fun _ => 0) d.adc.doneAt p.1 + p.2
  let mine := (requiredRates d).filter (fun p => serverOf d p.1 == c && due p ≤ d.roofTime + slot)
  (mine.foldl (fun (b : Option (Nat × Nat)) p => match b with
    | none => some p
    | some q => if due p < due q then some p else some q) none).map Prod.fst

/-- R499: a conversion of converter `c` ends with value `v` in the LSB of the channel it converted; `beyond` when the input
lay beyond the converter's range; `raw` the outputs of the comparators of the rail converted (R226). Which channel that was, the
scheduler says: one that can wait no longer, else the required conversion `req` it has chosen, else the list. -/
def opConversionEnd (c : Nat) (v : Int) (beyond : Bool) (req : Option Nat) (raw : Nat) (d : Device) : Device :=
  if !adcOn d then d
  else
    let d := { d with adc := { d.adc with raw := raw } }
    let d := if adcPos d c = 256 then opAdcListPass c d else d
    let e := entryOf d c (adcPos d c)
    let d := setAdcPos c (adcPos d c + 1) d
    let req := match (dueNow d c).or req with
      | some ch => if ch < 136 && ((homeOf ch).1 == c || converterOut d (homeOf ch).1) then some ch else none
      | none => none
    if converterOut d c then slotAbsent c e d else slotRun c e req v beyond d

/-! ### Calibration (R494-R496) -/

/-- R494: the converter whose turn is next: ADC0 to ADC3 in turn, retired ones left out. -/
def nextTurn (d : Device) : Nat :=
  (((List.range 4).map (fun k => (d.adc.calLast + 1 + k) % 4)).find? (fun c =>
    !(fld d W.ADC_STATUS_RETIRED).testBit c)).getD 0

/-- R494, R502, R503, R555: converter `c` may begin its turn. -/
def calMay (d : Device) (c : Nat) : Bool :=
  adcOn d && c == nextTurn d && flag d W.ADC_CTRL_CAL_EN && d.mode != .retain && fld d W.ADC_STATUS_CALIBRATING == 0
  && !(fld d W.ADC_STATUS_RETIRED).testBit c && bgMay 2 d && directedOn d c true == []
  && !(running d 0x31).any (fun x => bitsOf (x.p 0) 3 0 == 2)

/-- R494: a converter begins 256 slots of calibration. -/
def beginCal (c : Nat) (d : Device) : Device :=
  setFld { d with adc := { d.adc with calAt := d.roofTime } } W.ADC_STATUS_CALIBRATING (setBitNat (fld d W.ADC_STATUS_CALIBRATING) c true)

def opCalibration (c : Nat) (d : Device) : Device :=
  if calMay d c then beginCal c (bgBegin 2 { d with adc := { d.adc with calLast := c } }) else d

/-- R496: a fit fails beyond 1.0 % of gain (2^-20 units) or 64 LSB of offset (1/16 LSB units), or at the half-scale point. -/
def fitFails (gain offset : Int) (half : Nat) : Bool :=
  10485 < gain.natAbs || 1024 < offset.natAbs || half < 8188 || 8196 < half

/-- ADC_CAL of a fit. -/
def fitWord (gain offset : Int) : Word := BitVec.ofNat 32 ((gain % 65536).toNat * 65536 + (offset % 65536).toNat)

/-- R496, R551: the fit of converter `c` applies or is rejected; `test` when SELFTEST test 2 ran it. -/
def judgeCal (c : Nat) (gain offset : Int) (half : Nat) (test : Bool) (d : Device) : Device :=
  if fitFails gain offset half then
    let n := SMap.get (fun _ => 0) d.adc.fails c + 1
    let d := { d with adc := { d.adc with fails := SMap.set (fun _ => 0) c (min n 3) d.adc.fails } }
    let d := setFld d W.ADC_STATUS_CAL_FAIL (setBitNat (fld d W.ADC_STATUS_CAL_FAIL) c true)
    let d := if 3 ≤ n then setFld d W.ADC_STATUS_RETIRED (setBitNat (fld d W.ADC_STATUS_RETIRED) c true) else d
    raise 673 d
  else
    let d := { d with adc := { d.adc with fails := SMap.set (fun _ => 0) c 0 d.adc.fails } }
    let d := setFld d W.ADC_STATUS_CAL_FAIL (setBitNat (fld d W.ADC_STATUS_CAL_FAIL) c false)
    let d := putWord d W.ADC_CAL_GAIN (fitWord gain offset) c
    if test then setFld d W.ADC_STATUS_RETIRED (setBitNat (fld d W.ADC_STATUS_RETIRED) c false) else d

/-- R495: what nothing covered of converter `c`'s list is substituted at the end of its absence. -/
def endCover (c : Nat) (d : Device) : Device :=
  if converterOut d c then d
  else
    (d.adc.cover.filter (fun ch => (homeOf ch).1 == c)).foldl (fun d ch => substitute c ch d)
      { d with adc := { d.adc with cover := d.adc.cover.filter (fun ch => (homeOf ch).1 != c) } }

/-- R551: the self-test 2 that waits, or runs on a converter; it runs once its `aux` is not empty. -/
def calTests (d : Device) (begun : Bool) : List Cmd :=
  (running d 0x31).filter (fun x => bitsOf (x.p 0) 3 0 == 2 && (x.aux != []) == begun)

/-- R551: a self-test 2 begins its calibration once no other runs. -/
def beginCalTest (d : Device) : Device :=
  match calTests d false with
  | x :: _ =>
    if fld d W.ADC_STATUS_CALIBRATING = 0 then
      beginCal (bitsOf (x.p 0) 21 20) (putAux x [1#32] d)
    else d
  | [] => d

/-- R494-R496, R551: the calibration of converter `c` ends, 256 slots on, with a fit. -/
def opCalibrationEnd (c : Nat) (gain offset : Int) (half : Nat) (d : Device) : Device :=
  if !(fld d W.ADC_STATUS_CALIBRATING).testBit c then d
  else
    let d := advanceTo (d.adc.calAt + 10240) d
    let test := (calTests d true).find? (fun x => bitsOf (x.p 0) 21 20 == c)
    let d := setFld d W.ADC_STATUS_CALIBRATING (setBitNat (fld d W.ADC_STATUS_CALIBRATING) c false)
    let d := count 0x52 (judgeCal c gain offset half test.isSome d) 256
    let d := endCover c (if test.isSome then d else bgRan 2 d)
    match test with
    | some x =>
      let bad := fitFails gain offset half
      complete x (setFld d W.BG_STATUS_ST_ACTIVE 0) 0 .ok (if bad then 1#32 else 0#32) (fitWord gain offset)
    | none => beginCalTest d

/-! ### ADC_CONVERT, ADC_SUBSCRIBE (R436, R437) -/

def opAdcConvert (c : Cmd) (d : Device) : Device :=
  let p0 := c.p 0
  judged c d false 0 [(bitsOf p0 31 13 = 0 && !bitOf p0 11 && bitsOf p0 7 0 < 136, .badParam), (modeOk .live d, .deniedMode)]
    (keepRunning c)

/-- R436: n conversions have not finished within 1 ms. -/
def opAdcConvertTimeout (ch : Nat) (d : Device) : Device :=
  match (running d 0x60).find? (fun c => bitsOf (c.p 0) 7 0 == ch && !bitOf (c.p 0) 12) with
  | some c => complete c (advanceTo (c.startT + 100000) d) 0 .timeout 0#32 0#32
  | none => d

/-- R437: one word of a packet. -/
def subscribeWord (d : Device) (w : Word) : Device :=
  setSub (bitsOf w 7 0) (if bitOf w 15 then some { dec := bitsOf w 27 16 } else none) d

def opAdcSubscribe (c : Cmd) (d : Device) : Device :=
  let n := c.params.length
  judged c d false (2 + n)
    [(1 ≤ n && n ≤ 32, .badLength),
     (c.params.all (fun w => bitsOf w 31 28 = 0 && bitsOf w 14 8 = 0 && bitsOf w 7 0 < 136), .badParam),
     (modeOk .live d, .deniedMode)]
    (fun d =>
      let d := c.params.foldl subscribeWord d
      let k := (d.adc.subs.filter (fun p => p.2.isSome)).length
      complete c (setFld d W.ADC_STATUS_SUBS k) (2 + n) .ok (BitVec.ofNat 32 k) 0#32)

/-! ### The rows -/

def execAdcConvert (rq : Req) (p0 : Word) (s : State) : Host.Outcome State Fault Refusal :=
  on (runRow rq 0x60 [p0] [] opAdcConvert) s
def execAdcSubscribe (rq : Req) (params : List Word) (s : State) : Host.Outcome State Fault Refusal :=
  on (runRow rq 0x61 params [] opAdcSubscribe) s
def execAdcConversionEnd (c : BitVec 2) (v : Int) (beyond : Bool) (req : Option (BitVec 8)) (raw : BitVec 4) (s : State) :
    Host.Outcome State Fault Refusal := on (opConversionEnd c.toNat v beyond (req.map BitVec.toNat) raw.toNat) s
def execAdcListPass (c : BitVec 2) (s : State) : Host.Outcome State Fault Refusal :=
  on (fun d => if adcPos d c.toNat % 256 = 0 then opAdcListPass c.toNat d else d) s
def execAdcCalibration (c : BitVec 2) (s : State) : Host.Outcome State Fault Refusal := on (opCalibration c.toNat) s
def execAdcCalibrationEnd (c : BitVec 2) (gain offset : Int) (half : BitVec 14) (s : State) :
    Host.Outcome State Fault Refusal := on (opCalibrationEnd c.toNat gain offset half.toNat) s
def execAdcConvertTimeout (ch : BitVec 8) (s : State) : Host.Outcome State Fault Refusal :=
  on (opAdcConvertTimeout ch.toNat) s

end Sys2Proof.Machine
end

