-- ==== Sys2Proof/Machine/Events.lean ====
section
/-! DEFINITION. The event controller (16): acknowledgement, global disable, coalescing, the summary words. -/

namespace Sys2Proof.Machine

/-- R452: the level sources. -/
def isLevel (s : Nat) : Bool :=
  let g := s / 32
  g ≤ 2 || (8 ≤ g && g ≤ 11) || (17 ≤ g && g ≤ 21)

/-- EVT_SUM_N, EVT_SUM_F: bit g while a PEND bit of group g is set. -/
def sumWord (d : Device) (base : Nat) : Nat :=
  (List.range 28).foldl (fun m g => if getW d (base + g) = 0#32 then m else m ||| 2 ^ g) 0
def sumN (d : Device) : Nat := sumWord d W.EVT_PEND_N
def sumF (d : Device) : Nat := sumWord d W.EVT_PEND_F

/-- R455, R48, R31: the interrupt pins are low; in DORMANT they are released. -/
def irqLow (d : Device) : Bool := d.mode != .dormant && (sumN d ≠ 0 || d.core.purlinFail)
def firqLow (d : Device) : Bool := d.mode != .dormant && (sumF d ≠ 0 || d.core.purlinFail)

/-- R460: the lowest group with a fast-class PEND bit. -/
def fastGroup (d : Device) : Option Nat := (List.range 28).find? (fun g => (sumF d).testBit g)

/-- R460: what EVT_FPEND shows. -/
def fpendWord (d : Device) : Word := match fastGroup d with
  | some g => getW d (W.EVT_PEND_F + g)
  | none => 0#32

/-- R460: a read of EVT_FPEND records the acknowledge group. -/
def readFpend (d : Device) : Device := match fastGroup d with
  | some g => { d with ev := { d.ev with ackGroup := g } }
  | none => d

/-- R459: a level source that an acknowledgement cleared is sampled again. -/
def resample (d : Device) (s : Nat) : Device :=
  if isLevel s && levelHolds d s then settle 4 (latchOne s true d) else d

/-- R458, R459: acknowledgement of the sources of `mask` in group `g` and one class. -/
def ackSources (fast : Bool) (g : Nat) (mask : Word) (d : Device) : Device :=
  let a := (if fast then W.EVT_PEND_F else W.EVT_PEND_N) + g
  let hit := getW d a &&& mask
  let left := getW d a &&& ~~~mask
  let d := laterCycle (if fast then putWord d W.EVT_PEND_F_PEND left g else putWord d W.EVT_PEND_N_PEND left g)
  ((bitsIn hit.toNat 32).map (fun b => 32 * g + b)).foldl resample d

/-- R459: the mask bits whose source has LAT or PEND set. -/
def stillPending (g : Nat) (mask : Word) (d : Device) : Word :=
  mask &&& (getW d (W.EVT_LAT + g) ||| getW d (W.EVT_PEND_N + g) ||| getW d (W.EVT_PEND_F + g))

/-- R454: group `g`'s time threshold has passed since its first counted latch. -/
def timeReached (d : Device) (g : Nat) : Bool :=
  0 < (grpRec d g).count && (grpRec d g).start + fld d W.EVT_COAL_TIME_TH g * 100 ≤ d.roofTime

/-- R584: a delivery of group `g` by its count threshold, which names it where both are reached, or by its time threshold. -/
def countDelivery (d : Device) (g : Nat) : Device := count (if countReached d g then 0x32 else 0x33) d

/-- R457: everything that delivery has been held for is delivered in one cycle: fast-class sources, then the groups whose
threshold has been reached. -/
def deliverBacklog (d : Device) : Device :=
  let fasts := (List.range 896).filter (fun s => evLat d s && (srcRec d s).fast)
  let d := deliver true fasts d
  let gs := (List.range 28).filter (fun g => countReached d g || timeReached d g)
  let ss := gs.flatMap (groupLatched d)
  let d := gs.foldl countDelivery d
  settle 4 (deliver false ss (gs.foldl (fun d g => setGrpRec d g { doneC := some d.cycles }) d))

/-- R457: GDIS is written. -/
def putGdis (b : Bool) (d : Device) : Device :=
  let was := gdis d
  let d := laterCycle (setFlag d W.EVT_CTRL_GDIS b)
  if was && !b then deliverBacklog d else d

/-- R464: group `g` delivers at once when it meets its thresholds. -/
def recheckGroup (g : Nat) (d : Device) : Device :=
  if (countReached d g || timeReached d g) && !gdis d then settle 4 (deliverGroup g (countDelivery d g)) else d

/-- R463: sources of group `g` that become enabled while their condition holds latch. -/
def enabledNow (g : Nat) (old new : Word) (d : Device) : Device :=
  ((bitsIn (new &&& ~~~old).toNat 32).map (fun b => 32 * g + b)).foldl
    (fun d s => if isLevel s && levelHolds d s then raise s d else d) d

/-! ### Commands (R438, R457), which the replay monitor does not accept (R577) -/

def opEvtAck (c : Cmd) (d : Device) : Device :=
  let p0 := c.p 0
  let g := bitsOf p0 4 0
  judged c d false 4 [(bitsOf p0 31 9 = 0 && bitsOf p0 7 5 = 0 && g < 28, .badParam), (modeOk .live d, .deniedMode)]
    (fun d =>
      let d := ackSources (bitOf p0 8) g (c.p 1) d
      complete c d 4 .ok (stillPending g (c.p 1) d) 0#32)

def opEvtGdis (c : Cmd) (d : Device) : Device :=
  let p0 := c.p 0
  judged c d false 2 [(bitsOf p0 31 1 = 0, .badParam), (modeOk .live d, .deniedMode)]
    (fun d =>
      let was := fld d W.EVT_CTRL_GDIS
      complete c (putGdis (bitOf p0 0) d) 2 .ok (BitVec.ofNat 32 was) 0#32)

/-- R454: the time threshold of group `g` passes: the group delivers. -/
def opCoalesceTimeout (g : Nat) (d : Device) : Device :=
  if 0 < (grpRec d g).count && !inMode d [.dormant, .standby] then
    let d := advanceTo ((grpRec d g).start + fld d W.EVT_COAL_TIME_TH g * 100) d
    if gdis d then d else settle 4 (deliverGroup g (countDelivery d g))
  else d

/-- R460: a host write of EVT_FACK. -/
def opFack (v : Word) (d : Device) : Device := ackSources true d.ev.ackGroup v d

/-! ### The rows -/

/-- R379: the SPI port and the host page answer: from boot stage 1 on, and in the stage 0 of R48, whose failure the host page
reports (log 15). -/
def portOn (d : Device) : Bool :=
  !inMode d [.dormant, .standby] && (1 ≤ fld d W.MODE_STATUS_BOOT_STAGE || d.core.purlinFail)
  && !d.core.hardHeld && !d.core.porHeld

def execEvtAck (rq : Req) (p0 p1 : Word) (s : State) : Host.Outcome State Fault Refusal :=
  on (runRow rq 0x70 [p0, p1] [] opEvtAck) s
def execEvtGdis (rq : Req) (p0 : Word) (s : State) : Host.Outcome State Fault Refusal :=
  on (runRow rq 0x71 [p0] [] opEvtGdis) s
def execEvtFpend (s : State) : Host.Outcome State Fault Refusal :=
  on (fun d => if portOn d then readFpend d else d) s
def execEvtFack (v : Word) (s : State) : Host.Outcome State Fault Refusal :=
  on (fun d => if portOn d then opFack v (traceWrite 35 v d) else d) s
def execCoalesceTimeout (g : BitVec 5) (s : State) : Host.Outcome State Fault Refusal :=
  on (opCoalesceTimeout g.toNat) s

end Sys2Proof.Machine
end

