-- ==== Sys2Proof/Machine/Rtc.lean ====
section
/-! DEFINITION. The real-time clock and the backup domain (19): counting, setting, trimming, the supply switchover. -/

namespace Sys2Proof.Machine

/-! ### The calendar (R504, R439) -/

/-- Days from 2000-01-01 to a date. -/
def dayNumber (y m dd : Nat) : Nat :=
  y * 365 + (y + 3) / 4 - (y + 99) / 100 + (y + 399) / 400
    + ((List.range (m - 1)).foldl (fun n k => n + monthDays y (k + 1)) 0) + dd - 1

/-- 0 Sunday to 6 Saturday; 2000-01-01 was a Saturday. -/
def weekday (y m dd : Nat) : Nat := (dayNumber y m dd + 6) % 7

/-- A date in RTC_DATE, with its weekday. -/
def putDate (y m dd : Nat) (d : Device) : Device :=
  setW d W.RTC_DATE (BitVec.ofNat 32 (weekday y m dd * 2 ^ 24 + y * 2 ^ 16 + m * 2 ^ 8 + dd))

def putTime (h mi sec : Nat) (d : Device) : Device :=
  setW d W.RTC_TIME (BitVec.ofNat 32 (h * 2 ^ 16 + mi * 2 ^ 8 + sec))

/-- R504: the day after the one in RTC_DATE; 2199-12-31 goes to 2000-01-01. -/
def nextDay (d : Device) : Device :=
  let y := fld d W.RTC_DATE_YEAR
  let m := fld d W.RTC_DATE_MONTH
  let dd := fld d W.RTC_DATE_DAY
  if dd < monthDays y m then putDate y m (dd + 1) d
  else if m < 12 then putDate y (m + 1) 1 d
  else if y < 199 then putDate (y + 1) 1 1 d
  else putDate 0 1 1 d

/-- R504: the prescaler wraps and the time advances by one second. -/
def secondTick (d : Device) : Device :=
  let d := setFld d W.RTC_SUBSEC_PRESC 0
  let s := fld d W.RTC_TIME_SECOND
  let mi := fld d W.RTC_TIME_MINUTE
  let h := fld d W.RTC_TIME_HOUR
  if s < 59 then putTime h mi (s + 1) d
  else if mi < 59 then putTime h (mi + 1) 0 d
  else if h < 23 then putTime (h + 1) 0 0 d
  else nextDay (putTime 0 0 0 d)

/-- R504, R512, R506: a second passes on the CK_RTC count; held while HALT is 1. -/
def opRtcSecond (d : Device) : Device :=
  if flag d W.RTC_CTRL_HALT then d
  else secondTick (traceEntry 7 0 [] { d with rtc := { d.rtc with wrapC := some d.cycles, fired := 0 } })

/-- R511: RTC_TIME written on its CK_RTC edge. -/
def landTime (w : Word) (d : Device) : Device :=
  let d := putTime (bitsOf w 23 16) (bitsOf w 15 8) (bitsOf w 7 0) d
  setFlag (setFld d W.RTC_SUBSEC_PRESC 0) W.RTC_STATUS_TIME_VALID true

/-- R511: RTC_DATE written on its CK_RTC edge. -/
def landDate (w : Word) (d : Device) : Device := putDate (bitsOf w 23 16) (bitsOf w 15 8) (bitsOf w 7 0) d

/-! ### RTC_SET, RTC_GET (R439) -/

/-- R508, R439: locked out. -/
def rtcBusy (d : Device) : Bool × Status := (!rtcLocked d, .busy)

/-- R439: `c.e 0` is the count of CK_SYS from the gate to the CK_RTC edge, at most 4 CK_RTC on. Counting is halted for the write and
released on that edge. -/
def opRtcSet (c : Cmd) (d : Device) : Device :=
  let p0 := c.p 0
  let p1 := c.p 1
  gated c d (fun d => [
      (bitsOf p0 31 24 = 0 && dateOk (bitsOf p0 23 16) (bitsOf p0 15 8) (bitsOf p0 7 0)
        && bitsOf p1 31 24 = 0 && bitsOf p1 23 16 ≤ 23 && bitsOf p1 15 8 ≤ 59 && bitsOf p1 7 0 ≤ 59, .badParam),
      (modeOk .live d, .deniedMode), rtcBusy d])
    (fun d =>
      let d := landTime p1 (landDate p0 (advanceTo (d.roofTime + min (c.e 0).toNat 12207) d))
      complete c (setFlag d W.RTC_CTRL_HALT false) 0 .ok 0#32 0#32)

/-- R439, R510: the date and time of one count; `c.e 0` not 0 for the longer of the two counts. -/
def opRtcGet (c : Cmd) (d : Device) : Device :=
  judged c d false 5 [(modeOk .live d, .deniedMode), rtcBusy d]
    (fun d => complete c d (if c.e 0 = 0 then 5 else 6) .ok (getW d W.RTC_DATE &&& 0xFFFFFF#32) (getW d W.RTC_TIME))

/-! ### Trim (R517, R440) -/

/-- The source of an RTC_TRIM. -/
def trimSrc (c : Cmd) : Nat := bitsOf (c.p 0) 1 0

/-- The trim measurements in progress. -/
def trims (d : Device) : List Cmd := (running d 0x82).filter (fun c => c.wait == 0)

/-- R332: feature bit `k` is in the roof's floor. -/
def featureIn (d : Device) (k : Nat) : Bool := (fld d W.ROOF_FLOOR_FLOOR).testBit k

/-- R518: the factory load-capacitor trim of OTP region 0: its place there is not given (log 7). -/
def factoryLoad (d : Device) : Device :=
  let v := freeOf d
  setFld (setFld (drawn d) W.RTC_XTAL_CL_XIN v) W.RTC_XTAL_CL_XOUT (v / 32)

/-- R440: the checks of RTC_TRIM after the first two of R411. -/
def trimChecks (c : Cmd) (d : Device) : List (Bool × Status) := [
  (bitsOf (c.p 0) 31 2 = 0, .badParam),
  (if trimSrc c = 3 then inMode d [.boot, .service, .latched] else modeOk .up d, .deniedMode),
  (trimSrc c ≠ 2 || featureIn d 4, .deniedPermission),
  (trimSrc c ≠ 2 || flag d W.LNK_STATUS_DISCIPLINED, .busy), rtcBusy d]

/-- R440, R518: RTC_TRIM past R413. -/
def trimRun (c : Cmd) (d : Device) : Device :=
  gated c d (trimChecks c) (fun d =>
    if trimSrc c = 3 then
      let d := setFlag (setFld (setFld (factoryLoad d) W.RTC_CAL_CAL 0) W.RTC_STATUS_TRIM_SRC 3)
        W.COLD_STATUS_RTC_FACTORY_TRIM true
      complete c d 3 .ok 0#32 0#32
    else keepRunning { c with startT := d.roofTime } (setFlag (bgBegin 5 d) W.RTC_STATUS_TRIM_BUSY true))

def opRtcTrim (c : Cmd) (d : Device) : Device := if trimSrc c = 3 then trimRun c d else served c trimRun d

/-- `n / m` to the nearest integer, `m` > 0; a tie goes either way as the free value `up` says (log 7). -/
def nearest (n : Int) (m : Nat) (up : Bool) : Int :=
  let q := n / m
  let r := 2 * (n - q * m)
  if r < m then q else if (m : Int) < r then q + 1 else if up then q + 1 else q

/-- R517: the measured error in steps of 2^-20 from `counts` CK_RTC edges: 64 s of PPS or roof time, or 1,000 mains periods
of 50 or 60 Hz, whichever the mean period lies nearer. -/
def trimError (src counts : Nat) (up : Bool) : Int :=
  if src ≠ 0 then nearest ((counts : Int) - 2097152) 2 up
  else if 600747 ≤ counts then nearest (((counts : Int) - 655360) * 1048576) 655360 up
  else nearest (((counts : Int) * 60 - 32768000) * 1048576) 32768000 up

/-- TRIM_BUSY follows the measurements that go on. -/
def trimIdle (d : Device) : Device := setFlag d W.RTC_STATUS_TRIM_BUSY (trims d ≠ [])

/-- The oldest measurement ends with a status and results. -/
def endTrim (st : Status) (w1 w2 : Word) (d : Device) : Device :=
  match trims d with
  | c :: _ => trimIdle (complete c d 0 st w1 w2)
  | [] => d

/-- R517: the nominal length of a measurement in ticks, where the reference does not give it: 64 s. -/
def trimTicks (c : Cmd) : Nat := if trimSrc c = 0 then 0 else 6400000000

/-- R517: the measurement of the oldest trim completes with `counts` CK_RTC edges; 64 s of roof time are known to have passed. While
the device throttles the task is paused (R479, R543). -/
def opTrimDone (counts : Nat) (d : Device) : Device :=
  match trims d with
  | [] => d
  | c :: _ =>
    if !bgMay 5 d then d else
    let d := bgRan 5 (if trimSrc c = 2 then advanceTo (c.startT + trimTicks c) d else d)
    let e := trimError (trimSrc c) counts (freeOf d % 2 == 1)
    let d := drawn d
    if 511 < e.natAbs then endTrim .hwFault 0#32 (s16 e) (raise 747 d)
    else
      let d := setFld d W.RTC_CAL_CAL ((-e) % 1024).toNat
      let d := setFlag (setFld d W.RTC_STATUS_TRIM_SRC (trimSrc c)) W.COLD_STATUS_RTC_FACTORY_TRIM false
      endTrim .ok (s16 (-e)) (s16 e) (raise 746 d)

/-- R440: twice the nominal length has passed; that of 1,000 mains periods the mains alone tells. -/
def opTrimTimeout (d : Device) : Device :=
  match trims d with
  | [] => d
  | c :: _ => endTrim .timeout 0#32 0#32 (advanceTo (c.startT + 2 * trimTicks c) d)

/-- Every measurement ends with `st` (R519). -/
def endTrims (st : Status) (d : Device) : Device :=
  trimIdle ((trims d).foldl (fun d c => complete c d 0 st 0#32 0#32) d)

/-- R516: a 32 s calibration cycle starts; the CAL word in force applies. -/
def opRtcCalCycle (d : Device) : Device := { d with rtc := { d.rtc with calNow := fld d W.RTC_CAL_CAL } }

/-! ### Oscillator and supply (R506, R507) -/

def opOscFail (d : Device) : Device :=
  let was := flag d W.RTC_STATUS_OSC_FAIL
  let d := setFlag (setFlag d W.RTC_STATUS_OSC_FAIL true) W.RTC_STATUS_TIME_VALID false
  let d := endTrims .hwFault d
  if was then d else raise 743 d

/-- R507: `VDDIO` or `HOLD` fell: access locks, the supply goes to `VBK`; a trim measurement is abandoned (R519). -/
def opBkSupplySwitch (d : Device) : Device :=
  endTrims .aborted <| traceEntry 7 3 [1] { d with rtc := { d.rtc with locked := true, onVbk := true } }

/-- R507: two CK_LPO after recovery the supply is switched back. -/
def opSupplyReturn (d : Device) : Device := { d with rtc := { d.rtc with onVbk := false } }

/-- R507: access unlocks; BK_RETURN. -/
def opBkReturn (d : Device) : Device :=
  if d.rtc.locked && !d.rtc.onVbk then raise 744 (traceEntry 7 3 [0] { d with rtc := { d.rtc with locked := false } }) else d

/-! ### The rows -/

def execRtcSet (rq : Req) (p0 p1 : Word) (edge : Nat) (s : State) : Host.Outcome State Fault Refusal :=
  on (runRow rq 0x80 [p0, p1] [edge] opRtcSet) s
def execRtcGet (rq : Req) (late : Bool) (s : State) : Host.Outcome State Fault Refusal :=
  on (runRow rq 0x81 [] [if late then 1 else 0] opRtcGet) s
def execRtcTrim (rq : Req) (p0 : Word) (s : State) : Host.Outcome State Fault Refusal :=
  on (runRow rq 0x82 [p0] [] opRtcTrim) s
def execRtcSecond (s : State) : Host.Outcome State Fault Refusal := on opRtcSecond s
def execRtcCalCycle (s : State) : Host.Outcome State Fault Refusal := on opRtcCalCycle s
def execOscFail (s : State) : Host.Outcome State Fault Refusal := on opOscFail s
def execBkSupplySwitch (s : State) : Host.Outcome State Fault Refusal := on opBkSupplySwitch s
def execPdBkSupplyReturn (s : State) : Host.Outcome State Fault Refusal := on opSupplyReturn s
def execBkReturn (s : State) : Host.Outcome State Fault Refusal := on opBkReturn s
def execTrimDone (counts : Nat) (s : State) : Host.Outcome State Fault Refusal := on (opTrimDone counts) s
def execTrimTimeout (s : State) : Host.Outcome State Fault Refusal := on opTrimTimeout s

end Sys2Proof.Machine
end

