-- ==== Sys2Proof/Machine/Flags.lean ====
section
/-! DEFINITION. The status words as a read shows them: stored words, overlaid with the fields that copy or compute other
state (HP_STATUS, queue levels, summaries, live comparators, measured values). -/

namespace Sys2Proof.Machine

def ones (bs : List (Bool × Nat)) : Nat := bs.foldl (fun m b => if b.1 then m ||| 2 ^ b.2 else m) 0

/-- HP_STATUS (R388). -/
def hpStatus (d : Device) : Word :=
  BitVec.ofNat 32 (
    ones [(d.core.purlinFail, 28), (firqLow d, 19), (irqLow d, 18),
      ((ring d 12).unpopped ≠ 0, 14), ((ring d 13).unpopped ≠ 0, 15), ((ring d 14).unpopped ≠ 0, 16),
      ((ring d 15).unpopped ≠ 0, 17), (flag d W.HP_RING_OVF_OVF, 13),
      ((List.range 12).any (fun q => freeWords d q < 64), 12), (d.core.thatchAbsent, 11),
      (flag d W.MODE_STATUS_ADOPTING, 10), (getW d W.RESET_CAUSE ≠ 0#32, 9), (engineReady d, 8)]
    + fld d W.MODE_STATUS_BOOT_STAGE * 2 ^ 24 + d.mode.code * 2 ^ 20 + d.eng.accCount % 256)

/-- HP_ID (R388), DEV_ID (R408). -/
def hpId (d : Device) : Word := BitVec.ofNat 32 (0x8832B000 + d.core.strap % 8)

/-- R606, R610: the level of `SYNC_OUT`: low, or the square wave of roof time (high for the first half of its period); low for one
period after a change of its source. Sources 1 and 3 follow a leader's periods and `SYNC_IN`, which no state holds (log 48). -/
def syncOut (d : Device) : Option Bool :=
  let p := fld d W.SYNC_CFG_SO_DIV + 1
  match fld d W.SYNC_CFG_SO_SRC with
  | 0 => some false
  | 2 => some (decide (d.core.soFrom + p ≤ d.roofTime) && decide (2 * (d.roofTime % p) < p))
  | _ => none

/-- R30: the power domains that are on, in the bit order of PD_STATUS (24). -/
def domainsOn (d : Device) : Nat :=
  let acu := fld d W.TRUST_STATUS_THATCH_STATE ≠ 0
  let has := fun (lo hi : Nat) (p : Nat → Bool) => (List.range 32).any (fun n => lo ≤ n && n < hi && p n)
  let held := fun (n : Nat) => (rail d n).enabled || (rail d n).falling || (rail d n).held || maskBit d W.SEQ_SVCHOLD n
  let rails := fun (p : Nat → Bool) => [(has 4 8 p, 7), (has 8 12 p, 8), (has 12 32 p, 9)]
  ones (match d.mode with
    | .dormant => [(true, 0)]
    | .standby => [(true, 0), (true, 1)]
    | .boot => [(true, 0), (true, 1), (true, 2), (acu, 3), (true, 4), (true, 5), (has 0 4 held, 6)] ++ rails held
    | .latched => [(true, 0), (true, 1), (true, 2), (true, 3), (true, 4), (true, 5)]
    | .service => [(true, 0), (true, 1), (true, 2), (true, 3), (true, 4), (true, 5), (has 0 4 held, 6)] ++ rails held
    | .replay => [(true, 0), (true, 1), (true, 2), (true, 3)]
    | .retain => [(true, 0), (true, 1), (true, 4), (true, 6)] ++ rails held
    | .ramp | .run | .ease | .holdup | .descend =>
      [(true, 0), (true, 1), (true, 2), (true, 3), (true, 4), (true, 5), (true, 6)] ++ rails (configured d))

/-- SEQ_STATUS.ELAPSED (07): the time since the last T0 or T_D in 10 microseconds, saturating. -/
def seqElapsed (d : Device) : Nat :=
  let t := (getW d W.SEQ_T0).toNat + (getW d (W.SEQ_T0 + 1)).toNat * 2 ^ 32
  if t = 0 then 0 else min ((d.roofTime - t) / 1000) 65535

/-- R579: a capture leaves on the trace port; TRC_STATUS.STATE shows it (log 44). -/
def streaming (d : Device) : Bool := d.roofTime < d.log.streamTo

/-- PC_VAL: counter k. -/
def counterVal (d : Device) (k : Nat) : Nat := SMap.get (fun _ => 0) d.perf.counters k

/-- R515: the timestamps that an event input holds. -/
def evFifo (d : Device) (x : Nat) : List (Word × Word) := SMap.get (fun _ => []) d.rtc.fifos x

/-- HWD_STATUS.ELAPSED (20): the elapsed share of the period, in percent. -/
def hwdShare (d : Device) : Nat :=
  if flag d W.HWD_CFG_HWD_EN then min 100 (hwdElapsed d * 100 / (fld d W.HWD_CFG_PERIOD * 100000)) else 0

/-- R525: the restarts of Thatch of the last 60 s. -/
def recentRestarts (d : Device) : List Nat := d.fw.restarts.filter (fun t => d.roofTime ≤ t + 6000000000)

/-! ### What a read takes from outside the digital core (log 7) -/

/-- The words of a rail's status page that hold measurements: the rail and 0 its status, 1 its frequency, 2 its on-time. -/
def measuredWord (a : Nat) : Option (Nat × Nat) :=
  let n := (a - 0x800) / 32
  let at_ := fun (ks : List Nat) => (ks.findIdx? (fun k => k == a % 32)).map (fun k => (n, k))
  if 0x800 ≤ a ∧ a < 0x880 then at_ [0, 2, 3]
  else if 0x880 ≤ a ∧ a < 0x980 then at_ [0, 1, 2]
  else if 0x980 ≤ a ∧ a < 0xA40 then at_ [0, 1]
  else if 0xA40 ≤ a ∧ a < 0xC00 then at_ [0]
  else none

/-- The words whose value a read takes from outside the digital core: measurements, pins, and the running prescaler (log 7). -/
def openWord (a : Nat) : Bool := (measuredWord a).isSome || a == W.RTC_SUBSEC || a == W.SSO_STATUS

/-- R97: a frequency word with a multiplier M of 8,192 to 24,576 and any frequency. -/
def freeFreq (f : Nat) : Word := BitVec.ofNat 32 ((8192 + f % 16385) * 2 ^ 16 + f / 16385 % 2 ^ 16)

/-- R96, R123: an on-time word of rail `n` of at least t_on,min: 40 ns, 512 units, on an HC channel, 18 ns, 231, in a cluster. -/
def freeTon (n f : Nat) : Word :=
  let lo := if n < 4 then 512 else 231
  BitVec.ofNat 32 (lo + f % (65536 - lo))

/-- R98, R114: the word `w` of a switching rail with M_LIMIT and DE_ACTIVE at bits `lim` and `de`: M anywhere in its range,
the low-side FET off at no current only where LIGHT_DE allows it; during a ramp DE_ACTIVE is as the ramp left it. -/
def openSwitcher (d : Device) (n lim de : Nat) (w : Word) : Word :=
  let f := freeOf d
  let w := putBits w lim lim (if f % 16385 = 0 ∨ f % 16385 = 16384 then 1 else 0)
  if (rail d n).ph ≠ .rampUp ∧ (rail d n).ph ≠ .rampDown ∧ lightDe d n then putBits w de de (f / 16385) else w

/-- The status word `w` of an enabled rail, its measured bits free: M_LIMIT (R98), light-load emulation (R114), DROPOUT (R145,
R150), an LDO at its limit (R211), the peak of a gate driver and whether it reached IHI (R157). -/
def openStatus (d : Device) (n : Nat) (w : Word) : Word :=
  let f := freeOf d
  match railKind n with
  | .hc => openSwitcher d n 4 3 w
  | .cl => openSwitcher d n 4 3 w
  | .sb => putBits (openSwitcher d n 1 3 w) 7 7 (f / 32770)
  | .ld => putBits (putBits w 3 3 f) 2 2 (f / 2)
  | .gb =>
    if !flag d W.GB_RSTATUS_SWITCHING (railIdx n) then w
    else putBits (putBits w 31 20 f) 2 2 (if fld d W.GB_ILIM_IHI (railIdx n) ≤ f % 4096 then f / 4096 else 0)

/-- A measured word as it reads: of an enabled rail only. -/
def measured (d : Device) (n k : Nat) (w : Word) : Word :=
  match (rail d n).enabled, k with
  | true, 0 => openStatus d n w
  | true, 1 => freeFreq (freeOf d)
  | true, _ => freeTon n (freeOf d)
  | false, 0 => w
  | false, _ => 0#32

/-- R163: PIN as it reads back: low where the device has driven it low, free where the outside may hold or leave it. -/
def pinLevels (d : Device) : Nat :=
  freeOf d &&& (15 ^^^ (fld d W.SSO_STATUS_ASSERTED &&& (15 ^^^ fld d W.SSO_STATUS_PIN)))

/-- R251: in EASE no current is applied in the last EASE_GAP x 125 ms of a tick. -/
def inGap (d : Device) : Bool :=
  d.mode = .ease && fld d W.BK_STATUS_BK_STATE = 2
    && (8 - fld d W.CHG_CTRL_EASE_GAP) * 12500000 ≤ (d.roofTime - d.power.tickAt) % 100000000

/-- R245, R251: CHG_IEFF as it reads now. -/
def chgIeff (d : Device) : Word :=
  let w := getW d W.CHG_IEFF
  if inGap d then putBits (putBits w 25 16 0) 2 0 2 else w

/-- SUP_STATUS: the comparators that report outside now, at bits 5-1 (R574 order). -/
def liveBits (d : Device) (n : Nat) : Nat := (rail d n).live % 32 * 2

/-- The word at `a` as a read returns it. -/
def readW (d : Device) (a : Nat) : Word :=
  let w := getW d a
  if a = 0x000 ∨ a = W.HP_ID then hpId d
  else if a = 0x001 ∨ a = W.HP_STATUS then hpStatus d
  else if a = W.MODE_STATUS then putBits (putBits w 7 4 d.prev.code) 3 0 d.mode.code
  else if a = W.SEQ_STATUS then putBits w 31 16 (seqElapsed d)
  else if 0x800 ≤ a ∧ a < 0x880 ∧ a % 32 = 0 then
    let n := (a - 0x800) / 32
    putBits (measured d n 0 w) 7 7 (if hcFollower d n then 1 else 0)
  else if a = W.CMP_FAULT_SUM then
    BitVec.ofNat 32 ((List.range 32).foldl (fun m n => if flag d W.SUP_STATUS_CMP_FAULT n then m ||| 2 ^ n else m) 0)
  else if a = W.HC_VSET ∧ flag d W.HC_CFG_VPRE then putBits w 11 0 500
  else if 0x810 ≤ a ∧ a < 0xC00 ∧ a % 32 = 0x10 then putBits w 5 1 ((rail d ((a - 0x800) / 32)).live)
  else if a = W.SSO_STATUS then
    putBits (putBits w 7 4 (pinLevels d)) 15 12 (fld d W.SSO_STATUS_ASSERTED &&& (15 ^^^ fld d W.SSO_CTRL_HOST_HOLD))
  else if a = W.VLY_STATUS then putBits w 11 11 (if safeLow d then 1 else 0)
  else if a = W.CHG_IEFF then chgIeff d
  else if a = W.PD_STATUS then
    let on_ := domainsOn d
    BitVec.ofNat 32 (on_ + (1023 - on_) * 1024)
  else if a = W.HWD_STATUS then putBits w 6 0 (hwdShare d)
  else if a = W.TRUST_STATUS then putBits w 23 20 (min 15 (recentRestarts d).length)
  else if a = W.ENG_FENCE then
    BitVec.ofNat 32 (heldMask d + (match d.eng.fall with | some f => 2 ^ 31 + f.queue * 2 ^ 24 | none => 0))
  else if W.ENG_INFLIGHT ≤ a ∧ a < W.ENG_INFLIGHT + 3 then
    BitVec.ofNat 32 ((List.range 4).foldl
      (fun m j => m + (outstanding d (4 * (a - W.ENG_INFLIGHT) + j)).length * 2 ^ (8 * j)) 0)
  else if W.PC_VAL ≤ a ∧ a < W.PC_VAL + 128 then
    let k := (a - W.PC_VAL) / 2
    if (a - W.PC_VAL) % 2 = 0 then lowW (counterVal d k)
    else BitVec.ofNat 32 (SMap.get (fun _ => 0) d.perf.highs k)
  else if a = W.PC_STATUS then putBits w 8 0 d.perf.buf.length
  else if a = W.TRC_STATUS then (if streaming d then putBits w 31 28 5 else w)
  else if W.EV_TS ≤ a ∧ a < W.EV_TS + 8 then
    (match evFifo d ((a - W.EV_TS) / 2) with
     | e :: _ => if (a - W.EV_TS) % 2 = 0 then e.1 else e.2
     | [] => 0#32)
  else if a = W.EV_STATUS then
    BitVec.ofNat 32 (w.toNat / 2 ^ 16 * 2 ^ 16
      + (List.range 4).foldl (fun m x => m + (evFifo d x).length * 2 ^ (4 * x)) 0)
  else if a = W.LNK_FN then lowW (presentFn d)
  else if a = W.LNK_FN + 1 then BitVec.ofNat 32 d.link.fnHigh
  else if W.SQ_LEVEL ≤ a ∧ a < W.SQ_LEVEL + 12 then
    BitVec.ofNat 32 (stagedWords d (a - W.SQ_LEVEL) * 2 ^ 16 + freeWords d (a - W.SQ_LEVEL))
  else if W.RNG_WR ≤ a ∧ a < W.RNG_WR + 4 then BitVec.ofNat 32 (ring d (12 + (a - W.RNG_WR))).wr
  else if W.RNG_PTR ≤ a ∧ a < W.RNG_PTR + 4 then
    let r := ring d (12 + (a - W.RNG_PTR))
    BitVec.ofNat 32 (r.rel * 2 ^ 16 + r.rd)
  else if a = W.EVT_SUM_N then BitVec.ofNat 32 (sumN d)
  else if a = W.EVT_SUM_F then BitVec.ofNat 32 (sumF d)
  else if a = W.EVT_FPEND then fpendWord d
  else if a = W.EVT_FGRP then
    (match fastGroup d with | some g => BitVec.ofNat 32 (256 + g) | none => 0#32)
  else if a = W.EVT_HSTAT then BitVec.ofNat 32 (d.ev.deliveries % 65536 * 2 ^ 16 + fld d W.EVT_CTRL_GDIS)
  else if a = W.RTC_SUBSEC then BitVec.ofNat 32 (prescNow d)
  else match measuredWord a with
    | some (n, k) => measured d n k w
    | none => w

end Sys2Proof.Machine
end

