-- ==== Sys2Proof/Machine/Gauge.lean ====
section
/-! DEFINITION. The backup gauge (10): counting, anchors, learning, the reserve and the end of hold-up; parts in a valley
contract as the gauge and BK meet them (R365, R375). -/

namespace Sys2Proof.Machine

/-! ### Learning (R281-R283) -/

/-- R274, R282: bit `n` of LEARN_DQ is set; R282 sets one in a traversal only. -/
def setDq (n : Nat) (d : Device) : Device := setFld d W.LEARN_DQ_DQ (setBitNat (fld d W.LEARN_DQ_DQ) n true)
def dqBit (n : Nat) (d : Device) : Device := if flag d W.GAUGE_STATUS_LEARN_ACTIVE then setDq n d else d

/-- R281: a traversal starts at an anchor: 1 full, 2 empty. -/
def startTraversal (kind : Nat) (d : Device) : Device :=
  let d := setFld (setFlag (setFld d W.LEARN_DQ_DQ 0) W.GAUGE_STATUS_LEARN_ACTIVE true) W.GAUGE_STATUS_LEARN_FROM kind
  { d with gauge := { d.gauge with
      trav := d.gauge.rem, travFcc := fld d W.GAUGE_FCC_FCC, travFrom := d.roofTime, ticks := 0, hot := 0, rests := 0,
      restTotal := 0 } }

/-- R281: the learned capacity after a traversal of `q`, and whether a limit changed the update. -/
def learned (fcc nom q : Nat) : Nat × Bool :=
  let step := if fcc ≤ q then (q - fcc) / 4 else (fcc - q) / 4
  let lim := min step (fcc / 10)
  let v := if fcc ≤ q then fcc + lim else fcc - lim
  let w := min (max v ((nom + 1) / 2)) (nom * 110 / 100)
  (w, lim != step || w != v)

/-- R282: the length of the rest in progress, as far as it lies in the traversal. -/
def restLen (d : Device) : Nat :=
  match d.gauge.restFrom with
  | some t => d.roofTime - max t d.gauge.travFrom
  | none => 0

/-- R282: a rest longer than 1 h counts, and a third one disqualifies. -/
def countRest (d : Device) : Device :=
  let len := restLen d
  if 360000000000 < len then
    let d := { d with gauge := { d.gauge with rests := d.gauge.rests + 1, restTotal := d.gauge.restTotal + len } }
    if 3 ≤ d.gauge.rests then dqBit 5 d else d
  else d

/-- R282: the bits judged at the ending anchor; a rest in progress ends with the traversal. -/
def judgeRates (q : Nat) (d : Device) : Device :=
  let d := countRest d
  let g := d.gauge
  let active := d.roofTime - g.travFrom - g.restTotal
  let d := if g.ticks < g.hot * 10 then dqBit 0 d else d
  let d := if g.travFcc * active < q * 360000000000 then dqBit 1 d else d
  if q * 18000000000000 < g.travFcc * active then dqBit 2 d else d

/-- R281, R283: a traversal ends at an anchor of the other kind, before that anchor is applied. -/
def endTraversal (d : Device) : Device :=
  let q := ((remUnits d - d.gauge.trav / 360000).natAbs) % 2 ^ 20
  let d := setFld (judgeRates q d) W.LEARN_LAST_Q_MEAS q
  if fld d W.LEARN_DQ_DQ = 0 then
    let r := learned (fld d W.GAUGE_FCC_FCC) (fld d W.GAUGE_NOM_FCC_NOM) q
    let d := setFlag (setFld d W.GAUGE_FCC_FCC r.1) W.COLD_STATUS_LEARN_NOMINAL false
    let d := raise 420 (setFld d W.LEARN_LAST_RESULT (if r.2 then 2 else 1))
    if r.2 then raise 422 d else d
  else raise 421 (setFld d W.LEARN_LAST_RESULT 3)

/-- R281: an anchor of `kind` meets the traversal in progress. -/
def meetTraversal (kind : Nat) (d : Device) : Device :=
  if flag d W.GAUGE_STATUS_LEARN_ACTIVE && fld d W.GAUGE_STATUS_LEARN_FROM ≠ kind then endTraversal d else d

/-! ### Anchors (R272-R274) -/

def putCharge (rem : Int) (d : Device) : Device := { d with gauge := { d.gauge with rem := rem, err := 0 } }

/-- R272: the full anchor. -/
def fullAnchor (d : Device) : Device :=
  let d := meetTraversal 1 d
  let d := putCharge (fld d W.GAUGE_FCC_FCC * 360000) d
  let d := setFlag (setFld d W.GAUGE_STATUS_ANCHOR 1) W.COLD_STATUS_GAUGE_UNANCHORED false
  let d := { d with gauge := { d.gauge with emptyArmed := true } }
  checkpoint (gaugeSums (startTraversal 1 (raise 416 d)))

/-- R273: the empty anchor. -/
def emptyAnchor (d : Device) : Device :=
  let d := putCharge 0 (meetTraversal 2 d)
  let d := { d with gauge := { d.gauge with emptyArmed := false, emptyCnt := 0 } }
  checkpoint (gaugeSums (startTraversal 2 (raise 417 d)))

/-- R274, R56: both anchors drop, with the disqualifying bit: an anchor event, at which a checkpoint is written. -/
def dropAnchors (bit : Nat) (d : Device) : Device :=
  let d := putCharge 0 (setDq bit d)
  let d := setFlag (setFld d W.GAUGE_STATUS_ANCHOR 0) W.COLD_STATUS_GAUGE_UNANCHORED true
  let d := { d with gauge := { d.gauge with removed := d.gauge.removed || bit == 3 } }
  checkpoint (gaugeSums (raise 418 d))

/-- R274: FORGET in SERVICE. -/
def forget (d : Device) : Device :=
  let d := setFlag (setFld d W.GAUGE_FCC_FCC (fld d W.GAUGE_NOM_FCC_NOM)) W.COLD_STATUS_LEARN_NOMINAL true
  dropAnchors 4 d

/-! ### The end of hold-up (R240, R365) -/

/-- R282: a rest passes 1 h, the third of its traversal. -/
def restPassed (d : Device) : Device :=
  if 360000000000 < restLen d && 2 ≤ d.gauge.rests then dqBit 5 d else d

/-- R276, R32: the sums and what follows from them. -/
def recompute (d : Device) : Device := settleMode (gaugeSums (restPassed d))

/-- R240: VPACK below CELLS x VRSV for 1 ms in HOLDUP with the gauge unanchored. -/
def opUnanchoredEnd (d : Device) : Device :=
  if d.mode = .holdup && !ridesLine d && fld d W.GAUGE_STATUS_ANCHOR = 0 then descendNow 2 d else d

/-- R358, R365, R367: the part ends; a SINK that rode on the line leaves HOLDUP. -/
def endPart (d : Device) : Device :=
  let rode := ridesLine d
  let d := dropPart d
  if d.mode = .holdup && rode then descendNow 2 d else d

/-! ### Counting (R269-R271) -/

/-- R268: PD_AFE is on. -/
def gaugeOn (d : Device) : Bool := adcOn d

/-- R270: the quiet threshold in milliamperes. -/
def iQuiet (d : Device) : Nat := fld d W.GAUGE_CFG_I_QUIET * 10

/-- The last converted current (GAUGE_I). -/
def lastI (d : Device) : Int :=
  let w := fld d W.GAUGE_I_I_PACK
  if w < 32768 then w else (w : Int) - 65536

/-- R271: the error bound advances by `n` microampere milliseconds, saturating. -/
def addErr (n : Nat) (d : Device) : Device :=
  { d with gauge := { d.gauge with err := min (d.gauge.err + n) ((2 ^ 20 - 1) * 360000000) } }

/-- R271: the error of one 1 ms conversion. -/
def convErr (d : Device) (ma : Int) : Nat :=
  5 * ma.natAbs + (if fld d W.BK_SNS_RSNS_PK = 0 then 0 else 1000000 / fld d W.BK_SNS_RSNS_PK)

/-- R269: the pack current in milliamperes for a sense voltage of `nv` nanovolts, within the converter's range of 100 mV: the voltage
divided by RSNS_PK (in 10 microohm), rounded down (DESIGN CHOICE, log 29). -/
def packCurrent (nv : Int) (d : Device) : Int :=
  max (-100000000) (min 100000000 nv) / ((10 * fld d W.BK_SNS_RSNS_PK : Nat) : Int)

/-- R269: one 1 ms conversion of `ma` milliamperes. -/
def convert (ma : Int) (d : Device) : Device :=
  let d := addErr (convErr d ma) d
  let g := d.gauge
  let d := { d with gauge := { g with rem := g.rem + ma, maxI := max g.maxI ma.natAbs, lastAt := d.roofTime } }
  setFld d W.GAUGE_I_I_PACK (ma % 65536).toNat

/-- R273: the empty-anchor condition on this sample. -/
def emptySample (ma : Int) (d : Device) : Device :=
  let low := vpackMv d ≤ nCells d * vEmpty d && ma ≤ -(iQuiet d : Int)
  let n := if low then d.gauge.emptyCnt + 1 else 0
  let d := { d with gauge := { d.gauge with emptyCnt := min n 8 } }
  if 8 ≤ n && d.gauge.emptyArmed then emptyAnchor d else d

/-- R270, R282: quiet mode begins or ends. -/
def enterQuiet (d : Device) : Device :=
  { (setFlag d W.GAUGE_STATUS_QUIET true) with gauge := { d.gauge with restFrom := some d.roofTime } }

/-- R282: a rest ends. -/
def leaveQuiet (d : Device) : Device :=
  let d := setFlag (countRest d) W.GAUGE_STATUS_QUIET false
  { d with gauge := { d.gauge with restFrom := none, below := 0 } }

/-- R269-R273: a 1 ms conversion of a sense voltage of `nv` nanovolts outside quiet mode; the 1,000th below I_QUIET enters it. -/
def opGaugeConversion (nv : Int) (d : Device) : Device :=
  if !gaugeOn d then d
  else
    let ma := packCurrent nv d
    let d := convert ma d
    let n := if ma.natAbs < iQuiet d then d.gauge.below + 1 else 0
    let d := { d with gauge := { d.gauge with below := min n 1000 } }
    let d := if 1000 ≤ n && !flag d W.GAUGE_STATUS_QUIET then enterQuiet d else d
    recompute (emptySample ma d)

/-- R270, R271: in quiet mode the last current stands for the 249 ms since its conversion; a new one is converted. -/
def opQuietConversion (nv : Int) (d : Device) : Device :=
  if gaugeOn d && flag d W.GAUGE_STATUS_QUIET then
    let last := lastI d
    let d := addErr (249 * 1000 * (iQuiet d + last.natAbs)) d
    let d := { d with gauge := { d.gauge with rem := d.gauge.rem + last * 249 } }
    recompute (convert (packCurrent nv d) d)
  else d

/-- R270: the comparator ends quiet mode: the last current counts for the time since its conversion. -/
def opQuietExit (d : Device) : Device :=
  if gaugeOn d && flag d W.GAUGE_STATUS_QUIET then
    let t := d.roofTime - d.gauge.lastAt
    let last := lastI d
    let d := addErr ((iQuiet d + last.natAbs) * t / 100) d
    let d := { d with gauge := { d.gauge with rem := d.gauge.rem + last * t / 100000, lastAt := d.roofTime } }
    recompute (leaveQuiet d)
  else d

/-- R273: VPACK has lain at or above CELLS x (V_EMPTY + 100 mV) for 1 s. -/
def opEmptyRearm (d : Device) : Device :=
  if gaugeOn d then { d with gauge := { d.gauge with emptyArmed := true, emptyCnt := 0 } } else d

def opReserveRecompute (d : Device) : Device := if gaugeOn d then recompute d else d

/-- R56: the checkpoint of every 60 s. -/
def opGaugeCheckpoint (d : Device) : Device := if gaugeOn d then checkpoint d else d

/-! ### Messages of the valley line that BK's stops send (R367, R373, R375) -/

/-- R367: this member asks for the end of its part: a SOURCE ends the contract with a reason, another party leaves it by
REJECT reason 0 to the SOURCE. -/
def askEnd (reason : Nat) (d : Device) : Device :=
  if vlyRole d = 0 then d
  else
    let d := cancelSwap d
    let cn := fld d W.VLY_STATUS_CN
    sendReject cn (if vlyRole d = 1 then reason else 0) (fld d W.VLY_CONTRACT_SOURCE) 0 d

/-- R375: the contract has an authorised STANDBY_SOURCE. -/
def standbyAuth (d : Device) : Bool := flag d W.VLY_CONTRACT_STANDBY_VALID && flag d W.VLY_CONTRACT_FS_AUTH

/-- R375: the SOURCE's switch moves to DIODE and the SOURCE becomes a SINK; its promise stands until the amendment. -/
def sourceToSink (d : Device) : Device :=
  setRole 2 (setSw 1 { d with vly := { d.vly with owe := true } })

/-- R373, R375: BK has stopped (state 7, 8 or 9). -/
def bkStopped (d : Device) : Device :=
  let d := if flag d W.VLY_STATUS_FS_ARMED then raise 525 (setFlag d W.VLY_STATUS_FS_ARMED false) else d
  if vlyRole d = 1 && vlySw d = 3 then
    if standbyAuth d then sourceToSink d else askEnd 0 (setSw 1 d)
  else d

/-! ### The rows -/

def execGaugeConversion (nv : Int) (s : State) : Host.Outcome State Fault Refusal := on (opGaugeConversion nv) s
def execQuietConversion (nv : Int) (s : State) : Host.Outcome State Fault Refusal := on (opQuietConversion nv) s
def execQuietExit (s : State) : Host.Outcome State Fault Refusal := on opQuietExit s
def execEmptyRearm (s : State) : Host.Outcome State Fault Refusal := on opEmptyRearm s
def execReserveRecompute (s : State) : Host.Outcome State Fault Refusal := on opReserveRecompute s
def execGaugeCheckpoint (s : State) : Host.Outcome State Fault Refusal := on opGaugeCheckpoint s
def execUnanchoredHoldupEnd (s : State) : Host.Outcome State Fault Refusal := on opUnanchoredEnd s

end Sys2Proof.Machine
end

