-- ==== Sys2Proof/Machine/Power.lean ====
section
/-! DEFINITION. The hold-up power path and the backup charger (09): input loss and return, the states of BK, the charge
cycle with its zones, timers and watchdog, pack removal and reinsertion. -/

namespace Sys2Proof.Machine

def bkState (d : Device) : Nat := fld d W.BK_STATUS_BK_STATE
def chgState (d : Device) : Nat := fld d W.CHG_STATUS_CHG_STATE
def chgZone (d : Device) : Nat := fld d W.CHG_STATUS_ZONE

/-- R248, R267: a change of CHG_STATE raises CHG_PHASE. -/
def chgTo (v : Nat) (d : Device) : Device :=
  if chgState d = v then d
  else
    let d := setFld d W.CHG_STATUS_CHG_STATE v
    let d := { d with power := { d.power with ticks4 := 0 } }
    raise 392 (if v = 8 then d else setFld d W.CHG_STATUS_SUSP_WHY 0)

/-! ### Settings in force (R248, R250, R259, R53) -/

/-- R259, R53: the safe envelope is in force. -/
def safeOn (d : Device) : Bool := flag d W.CHG_STATUS_WD_SAFE || d.power.safeKeep

/-- CV_eff per cell in millivolts (R248, R250, R259); a blank safe envelope caps nothing, it suspends (R259). -/
def cvEff (d : Device) : Nat :=
  let cv := fld d W.CHG_SET_CV * 10
  let cv := if safeOn d && safeCv d != 0 then min cv (safeCv d) else cv
  if chgZone d = 1 ∨ chgZone d = 3 then cv - 100 else cv

/-- The fast-charge current in force, in milliamperes (R259). -/
def iFast (d : Device) : Nat :=
  let i := fld d W.CHG_SET_I_FAST * 10
  if safeOn d && safeI d != 0 then min i (safeI d) else i

/-- R250: the zone ceiling in percent of I_FAST. -/
def zonePct (d : Device) : Nat :=
  match chgZone d with
  | 1 => 25 | 2 => 100 | 3 => 50 | _ => 0

/-- R248: V_PRE per cell in millivolts. -/
def vPre (d : Device) : Nat := if flag d W.CHG_SET_CHEM then 2600 else 3000

/-! ### Zones (R250) -/

/-- R250: the zone of a temperature in tenths of a degree, without hysteresis; `t` is a sum of `n` readings. -/
def zoneDirect (t : Int) (n : Int) : Nat :=
  if t < 0 then 0 else if t < 100 * n then 1 else if t < 450 * n then 2 else if t ≤ 550 * n then 3 else 4

/-- R250: one move of the zone, outward or toward Z2. -/
def zoneStep (t n : Int) (z : Nat) : Nat :=
  match z with
  | 0 => if 30 * n ≤ t then 1 else 0
  | 1 => if t < 0 then 0 else if 130 * n ≤ t then 2 else 1
  | 2 => if t < 100 * n then 1 else if 450 * n ≤ t then 3 else 2
  | 3 => if 550 * n < t then 4 else if t < 420 * n then 2 else 3
  | 4 => if t ≤ 520 * n then 3 else 4
  | z => z

def putZone (z : Nat) (d : Device) : Device :=
  if chgZone d = z then d else raise 394 (setFld d W.CHG_STATUS_ZONE z)

/-- R250: the evaluation at a tick on the mean of the last 4 conversions. -/
def evalZone (d : Device) : Device :=
  match d.power.ntc with
  | [] => d
  | ts =>
    let t := ts.foldl (· + ·) (0 : Int)
    let n : Int := ts.length
    let z := if d.power.placed then zoneStep t n (zoneStep t n (zoneStep t n (zoneStep t n (chgZone d)))) else zoneDirect t n
    putZone z { d with power := { d.power with placed := true } }

/-- R282: a tick of the traversal in progress, and whether the zone temperature lay outside 10.0-40.0 degrees. -/
def travTick (d : Device) : Device :=
  if flag d W.GAUGE_STATUS_LEARN_ACTIVE then
    let t := d.power.ntc.foldl (· + ·) (0 : Int)
    let n : Int := d.power.ntc.length
    let out := t < 100 * n || 400 * n < t
    { d with gauge := { d.gauge with ticks := d.gauge.ticks + 1, hot := d.gauge.hot + (if out then 1 else 0) } }
  else d

/-! ### The charge cycle (R248, R249) -/

/-- R249: the lowest suspension cause that holds, or 0. -/
def suspCause (d : Device) : Nat :=
  let bk := bkState d
  if chgZone d = 0 ∨ chgZone d = 4 then 1
  else if bk = 3 ∨ bk = 4 ∨ bk = 5 then 2
  else if d.power.handWait then 3
  else if safeOn d && (safeCv d = 0 || safeI d = 0) then 4
  else if !inMode d [.run, .ease, .retain] then 5
  else if bk = 6 then 6
  else 0

/-- R236, R245, R248: BK charges in PRE, CC and CV with no cause of suspension, and is idle otherwise. -/
def bkCharge (d : Device) : Device :=
  let may := 3 ≤ chgState d && chgState d ≤ 5 && suspCause d = 0
  if bkState d = 2 && !may then setBk 1 d
  else if bkState d = 1 && may then setBk 2 d
  else d

/-- R248: a charging state, in which a latched fault leads to FAULT. -/
def chargingState (s : Nat) : Bool := 3 ≤ s && s ≤ 8

def chgFaulty (d : Device) : Bool :=
  flag d W.CHG_FAULT_CHG_TIMEOUT || flag d W.CHG_FAULT_PACK_OV || flag d W.CHG_FAULT_NTC_SHORT || bkState d = 9

/-- R255: a new charge cycle restarts the timers. -/
def newCycle (d : Device) : Device :=
  { d with power := { d.power with pre := 0, fast := 0, wall := 0, term := 0 } }

/-- R263, R248, R651: the qualification; a pack that was not present is inserted. -/
def qualify (d : Device) : Device :=
  let v := vpackMv d
  let n := nCells d
  if n * (cvEff d + 50) < v then chgTo 9 (raise 391 (setFlag d W.CHG_FAULT_PACK_OV true))
  else if v < n * 1000 then d
  else
    let d := if d.power.qualifying then d else setFlag d W.CHG_FAULT_CHG_TIMEOUT false
    let new := !flag d W.BK_STATUS_PACK_PRESENT
    let d := setFlag d W.BK_STATUS_PACK_PRESENT true
    let d := { d with power := { d.power with cut := false, placed := false, qualifying := false } }
    let d := setFlag d W.BK_STATUS_CUTOFF false
    let bk := bkState d
    let d := if hcdOn d && !d.power.fault && (bk = 0 || bk = 7 || bk = 8) then setBk 1 d else d
    let d := if new then raise 390 d else d
    bkCharge (chgTo (if v < n * vPre d then 3 else 4) (newCycle d))

/-- R248: a condition that must hold on 4 consecutive ticks. -/
def fourTicks (b : Bool) (k : Device → Device) (d : Device) : Device :=
  if b then
    let n := d.power.ticks4 + 1
    if 4 ≤ n then k { d with power := { d.power with ticks4 := 0 } }
    else { d with power := { d.power with ticks4 := n } }
  else { d with power := { d.power with ticks4 := 0 } }

/-- R248: the transition of a tick, by the present state. -/
def chgMove (d : Device) : Device :=
  let s := chgState d
  let v := vpackMv d
  let n := nCells d
  let cause := suspCause d
  if !flag d W.CHG_CTRL_CHG_EN then chgTo 0 d
  else if chargingState s && chgFaulty d then chgTo 9 d
  else if 3 ≤ s && s ≤ 7 && cause ≠ 0 then
    setFld (chgTo 8 { d with power := { d.power with left := s } }) W.CHG_STATUS_SUSP_WHY cause
  else if s = 8 then
    if cause ≠ 0 then setFld d W.CHG_STATUS_SUSP_WHY cause
    else chgTo (if d.power.left = 6 then 7 else d.power.left) d
  else if s = 2 then qualify d
  else if s = 3 then fourTicks (n * vPre d ≤ v) (chgTo 4) d
  else if s = 4 then (if n * cvEff d ≤ v then chgTo 5 { d with power := { d.power with term := 0 } } else d)
  else if s = 6 then chgTo 7 d
  else if s = 7 then fourTicks (v < n * (cvEff d - 100)) (fun d => chgTo 4 (newCycle d)) d
  else d

/-! ### Timers (R255, R256) and the current target (R245) -/

/-- R255: the mean ceiling over the tick lies below 50 % of I_FAST. -/
def halfRate (d : Device) : Bool :=
  let gap := if d.mode = .ease then fld d W.CHG_CTRL_EASE_GAP else 0
  zonePct d * (8 - gap) < 400

/-- R255, R256: the timers of one tick, and the words that show them. The wall timer runs from the entry to CC: not in a
suspension of PRE. -/
def chgTimers (d : Device) : Device :=
  let s := chgState d
  let half := (s = 4 || s = 5) && halfRate d
  let p := d.power
  let p := if s = 3 then { p with pre := p.pre + 1 } else p
  let p := if s = 4 ∨ s = 5 then { p with fast := p.fast + (if half then 1 else 2) } else p
  let p := if s = 4 ∨ s = 5 ∨ (s = 8 ∧ p.left ≠ 3 ∧ fld d W.CHG_STATUS_SUSP_WHY = 1) then { p with wall := p.wall + 1 } else p
  let d := setFlag { d with power := p } W.CHG_STATUS_HALF_RATE half
  let run := if s = 8 then p.left else s
  let d := if run = 3 then setFld d W.CHG_TIMER_SAFETY (min p.pre 65535)
    else if run = 4 ∨ run = 5 then setFld d W.CHG_TIMER_SAFETY (min (p.fast / 2) 65535) else d
  setFld d W.CHG_TIMER_WALL (min (p.wall / 10) 65535)

/-- R255-R257: the limits of the timers in seconds. -/
def fastLimit (d : Device) : Nat := (fld d W.CHG_CTRL_FAST_TMR + 1) * 3600

/-- R245, R251: the device's own ceiling in milliamperes and the limiter that sets it. -/
def chgCeiling (d : Device) : Nat × Nat :=
  let i := iFast d
  if d.mode = .ease ∧ fld d W.CHG_CTRL_EASE_GAP = 8 then (0, 2)
  else if chgState d = 3 then (i / 10, 5)
  else if zonePct d < 100 then (i * zonePct d / 100, 1)
  else (i, if i < fld d W.CHG_SET_I_FAST * 10 then 7 else 0)

/-- R245: the target: the device's ceiling, or the limit (3 input where ILIM_IN gives one, 4 HOLD, 6 constant voltage) that the
outside makes the least, with its current in 10 mA. -/
def chgTarget (lim amps : Nat) (d : Device) : Device :=
  let c := chgCeiling d
  let outer := ((lim = 3 && fld d W.VSUP_CFG_ILIM_IN ≠ 0) || lim = 4 || (lim = 6 && chgState d = 5)) && amps * 10 < c.1
  let on_ := bkState d = 2
  let l := if outer then lim else c.2
  let i := if outer then amps else c.1 / 10
  let d := setFld (setFld d W.CHG_IEFF_I_TARGET (if on_ then i else 0)) W.CHG_IEFF_LIMITER l
  setFlag (setFlag d W.BK_STATUS_INLIM (on_ && outer && lim = 3)) W.BK_STATUS_HOLD_PRIO (on_ && outer && lim = 4)

/-- R253: the termination count of one tick. -/
def chgTerm (d : Device) : Device :=
  let cv := bkState d = 2 && chgState d = 5 && fld d W.CHG_IEFF_LIMITER = 6
    && !(d.mode = .ease && fld d W.CHG_CTRL_EASE_GAP ≠ 0)
  if cv then
    let frac := match fld d W.CHG_CTRL_TERM_SEL with | 0 => 5 | 1 => 10 | _ => 20
    let below := lastI d * frac < (iFast d : Int)
    setFlag { d with power := { d.power with term := if below then d.power.term + 1 else 0 } } W.CHG_STATUS_TERM_COUNTING below
  else setFlag d W.CHG_STATUS_TERM_COUNTING false

/-- R247: the 1 s tick. -/
def opChargerTick (lim amps : Nat) (d : Device) : Device :=
  if !adcOn d then d
  else
    let d := travTick (evalZone d)
    let d := chgTerm (chgTarget lim amps (bkCharge (chgMove (chgTimers d))))
    { d with power := { d.power with tickAt := d.roofTime } }

/-- R250, R263: a conversion of PACK_NTC; `short` when it reads below 2 % of its bias. -/
def opPackNtcConversion (short : Bool) (d : Device) : Device :=
  if !adcOn d then d
  else if short then
    (if flag d W.CHG_FAULT_NTC_SHORT then d else raise 397 (setFlag d W.CHG_FAULT_NTC_SHORT true))
  else { d with power := { d.power with ntc := (adcVal d 94 :: d.power.ntc).take 4 } }

/-- R261, R262: pack removal, or with `ov` the overvoltage that is none; BK in FAULT stays there (R264). -/
def opPackRemoved (ov : Bool) (d : Device) : Device :=
  if !adcOn d then d
  else if ov then
    if bkState d = 2 then chgTo 9 (setBk 1 (raise 391 (setFlag d W.CHG_FAULT_PACK_OV true))) else d
  else
    let d := if bkState d = 9 then d else setBk (if hcdOn d then 7 else 0) d
    let d := if flag d W.CHG_CTRL_CHG_EN then chgTo 1 d else d
    let d := setFlag (setFlag d W.CHG_FAULT_REMOVED true) W.BK_STATUS_PACK_PRESENT false
    let d := gutter 0x05 0xFF 2 (getW d W.CHG_FAULT) (raise 389 d)
    let d := putZone 7 { d with power := { d.power with ntc := [], placed := false, qualifying := false, seated := false } }
    bkStopped (dropAnchors 3 d)

/-- R253: 64 s of termination have counted, at the CV_eff in force; with a removal on the same tick the removal alone acts
(R284). -/
def opChgDone (removed : Bool) (d : Device) : Device :=
  if removed then opPackRemoved false d
  else if chgState d = 5 && 64 ≤ d.power.term && flag d W.CHG_STATUS_TERM_COUNTING then
    let reduced := chgZone d = 1 || chgZone d = 3
    let d := setFlag (setFlag d W.CHG_STATUS_DONE_REDUCED reduced) W.CHG_STATUS_TERM_COUNTING false
    let d := bkCharge (raise 393 (chgTo 6 d))
    if reduced then d else fullAnchor d
  else d

/-- R255-R257: a safety timer has expired; charging stops at the next tick. -/
def opChgTimeout (d : Device) : Device :=
  let s := chgState d
  let pre := s = 3 && 1800 ≤ d.power.pre
  let wall := (s = 4 || s = 5 || s = 8) && 2 * fastLimit d ≤ d.power.wall
  let fast := ((s = 4 || s = 5) && 2 * fastLimit d ≤ d.power.fast) || wall
  if (pre || fast) && !flag d W.CHG_FAULT_CHG_TIMEOUT then
    let d := setFlag d W.CHG_FAULT_CHG_TIMEOUT true
    let d := if pre then setFlag d W.CHG_FAULT_PRE_TIMEOUT true else setFlag d W.CHG_FAULT_FAST_TIMEOUT true
    gutter 0x05 0xFF 1 (getW d W.CHG_FAULT) (raise 395 d)
  else d

/-! ### The charger watchdog (R258-R260), CHG_KICK and CHG_CLEAR (R433) -/

/-- R258: the watchdog restarts. -/
def wdRestart (d : Device) : Device := { d with power := { d.power with wdFrom := d.roofTime, wdOut := false } }

/-- R258, R53: an accepted charger command or write of page 0x0D: from the host it restarts the watchdog, from Thatch it ends
the safe envelope of an adoption. -/
def chargerTouch (src : Src) (d : Device) : Device :=
  match src with
  | .host _ => wdRestart d
  | .thatch => { d with power := { d.power with safeKeep := false } }
  | .purlin => d

/-- R258, R259: WD_PERIOD seconds have passed without a restart. -/
def opChgWdExpired (d : Device) : Device :=
  if flag d W.CHG_WD_WD_EN && !d.power.wdOut && !inMode d [.dormant, .standby] then
    let d := advanceTo (d.power.wdFrom + fld d W.CHG_WD_WD_PERIOD * 100000000) d
    let d := setFlag (setFlag d W.CHG_STATUS_WD_SAFE true) W.CHG_FAULT_WD_EXPIRED true
    raise 396 { d with power := { d.power with wdOut := true } }
  else d

def opChgKick (c : Cmd) (d : Device) : Device :=
  judged c d false 3 [(modeOk .live d, .deniedMode)]
    (fun d => complete c (chargerTouch c.src d) 3 .ok (BitVec.ofNat 32 (fld d W.CHG_WD_WD_PERIOD)) 0#32)

/-- R433, R248, R266, R264: CHG_CLEAR 2 CK_SYS after the gate: FAULT leads to QUALIFY with the pack there, and to NOPACK without
one (DESIGN CHOICE, log 28: R248 gives no way out of FAULT then). -/
def chgClear (c : Cmd) (d : Device) : Device :=
  let was := getW d W.CHG_FAULT
  let d := setW (chargerTouch c.src d) W.CHG_FAULT 0#32
  let d := if bkState d = 9 then setBk 1 { d with power := { d.power with fault := false } } else d
  let d := if hcdOn d then d else { d with power := { d.power with fault := false } }
  let d := if chgState d = 9 then
      (if d.power.seated then chgTo 2 { d with power := { d.power with qualifying := false } } else chgTo 1 d) else d
  complete c d 2 .ok was 0#32

def opChgClear (c : Cmd) (d : Device) : Device :=
  gated c d (fun d => [(modeOk .live d, .deniedMode),
      (!((bkState d = 9 || d.power.fault) && flag d W.BK_STATUS_VSUP_LOW), .busy)]) (chgClear c)

/-! ### Losing the input and getting it back (R235-R244) -/

/-- R239, R244, R365: BK boosts whatever its state, where the pack may; `low` when HOLD has reached HOLD_SET. -/
def boost (low : Bool) (d : Device) : Device :=
  let s := bkState d
  if hcdOn d && flag d W.BK_STATUS_PACK_PRESENT && !(s = 7 || s = 8 || s = 9) then setBk (if low then 4 else 3) d else d

/-- R243, R373: BK goes back from boosting for the input: IDLE, or STANDBY_BOOST where its part in a contract asks for it. -/
def restBk (d : Device) : Device :=
  let d := setBk 1 d
  if standsBy d then standbyBoost d else d

/-- R32, R239: the mode transitions on input loss: a ramp is given up with INPUT_LOSS_CONT = 1, and goes on with backup energy
above reserve. -/
def inputLost (d : Device) : Device :=
  if d.mode = .ramp then
    if flag d W.MODE_CTRL_INPUT_LOSS_CONT then descendNow 2 d
    else if aboveReserve d then setFlag d W.MODE_STATUS_HOLDUP_PENDING true
    else d
  else settleMode d

/-- R593: CK_FAST is stopped by a HARD reset, held or released with the PLL not yet locked. -/
def fastStopped (d : Device) : Bool :=
  d.core.hardHeld || (d.core.path == .hard && fld d W.MODE_STATUS_BOOT_STAGE == 0)

/-- R235, R239: the undervoltage deglitch of VSUP completes. -/
def opVsupLost (low : Bool) (d : Device) : Device :=
  if inMode d [.dormant, .standby] || fastStopped d || d.core.porHeld then d
  else
    let d := setFlag d W.BK_STATUS_VSUP_LOW true
    inputLost (raise 384 (if aboveReserve d then boost low d else d))

/-- R266: VSUP is undervoltage on 2 CK_LPO samples while CK_FAST is stopped by a HARD reset; adoption goes on as R52 gives for HOLDUP.
`energy` says that VPACK lies at or above CELLS x VCUT, as PD_AON sees it with the ADC off (R238). -/
def opVsupLostInReset (low energy : Bool) (d : Device) : Device :=
  if fastStopped d then
    let d := setFlag d W.BK_STATUS_VSUP_LOW true
    let s := bkState d
    if energy && flag d W.BK_STATUS_PACK_PRESENT && !(s = 7 || s = 8 || s = 9) then
      let d := boost low d
      if d.core.recMode = .run || d.core.recMode = .ease then { d with core := { d.core with recMode := .holdup } } else d
    else d
  else d

/-- R235, R32: VSUP is sampled at or above the threshold plus 0.3 V. -/
def opVsupReturn (d : Device) : Device :=
  if inMode d [.dormant] || d.core.porHeld then d
  else setFlag (setFlag d W.BK_STATUS_VSUP_LOW false) W.MODE_STATUS_HOLDUP_PENDING false

/-- R32, R243: 10 ms without a low sample: HOLDUP ends and BK hands HOLD back; outside HOLDUP a boosting BK becomes idle. -/
def opVsupBack (d : Device) : Device :=
  if flag d W.BK_STATUS_VSUP_LOW then d
  else if d.mode = .holdup then
    let d := enterMode (if flag d W.TH_STATUS_THROTTLING then .ease else .run) (raise 385 d)
    if bkState d = 3 ∨ bkState d = 4 then setBk 5 d else d
  else if bkState d = 3 ∨ bkState d = 4 then restBk d else d

/-- R243: the ramp of 1 ms has ended. -/
def opHandbackDone (d : Device) : Device :=
  if bkState d = 5 then
    raise 388 (restBk { d with power := { d.power with handWait := true } })
  else d

/-- R243: 100 ms after the handback charging resumes in the phase it left. -/
def opChargeResume (d : Device) : Device :=
  if d.power.handWait then
    let d := { d with power := { d.power with handWait := false } }
    let d := if chgState d = 8 && suspCause d = 0 then chgTo (if d.power.left = 6 then 7 else d.power.left) d else d
    bkCharge d
  else d

/-- R234, R650: the ideal diode turns off; BK takes over at HOLD_SET when `low`. -/
def opIdgReverse (low : Bool) (d : Device) : Device :=
  if inMode d [.dormant] then d
  else
    let d := setFlag d W.BK_STATUS_IDG_ON false
    if bkState d = 3 && low then setBk 4 d else d

/-- R234: the ideal diode turns on; HOLD rises above HOLD_SET, so a boosting BK is armed. -/
def opIdgForward (d : Device) : Device :=
  if inMode d [.dormant] then d
  else
    let d := setFlag d W.BK_STATUS_IDG_ON true
    if bkState d = 4 then setBk 3 d else d

/-- R650, R267: in the boost direction the load on HOLD needs more than BST_IPK carries (`beyond`), and has for `us` microseconds. -/
def opBoostIlim (beyond : Bool) (us : Nat) (d : Device) : Device :=
  if 3 ≤ bkState d ∧ bkState d ≤ 6 then
    let d := setFlag d W.BK_STATUS_BK_ILIM beyond
    if beyond && 1000 ≤ us then raise 386 d else d
  else d

/-- R267: INLIM has held for 1 s. -/
def opInputLimit (d : Device) : Device := if flag d W.BK_STATUS_INLIM then raise 398 d else d

/-! ### Cut-off, removal, insertion, stage fault (R241, R261-R264) -/

/-- R241: VPACK has lain below CELLS x VCUT for 100 microseconds in the boost direction. -/
def opPackCutoff (d : Device) : Device :=
  if 3 ≤ bkState d ∧ bkState d ≤ 6 then
    let d := setFlag (setBk 8 d) W.BK_STATUS_CUTOFF true
    bkStopped (raise 387 { d with power := { d.power with cut := true } })
  else d

/-- R241, R249: charging is possible: the charger is enabled, in its cycle and free of faults, and no cause suspends it. -/
def chargingPossible (d : Device) : Bool :=
  flag d W.CHG_CTRL_CHG_EN && 2 ≤ chgState d && chgState d ≤ 8 && !chgFaulty d && suspCause d = 0

/-- R241: 1 s at or above CELLS x (VCUT + 100 mV) with charging possible. -/
def opCutoffReenable (d : Device) : Device :=
  if d.power.cut && chargingPossible d then
    let d := setFlag { d with power := { d.power with cut := false } } W.BK_STATUS_CUTOFF false
    if bkState d = 8 then bkCharge (setBk 1 d) else d
  else d

/-- R263, R651: the thermistor has read valid for 2 s: the pack is there, and an enabled charger in NOPACK qualifies it. -/
def opPackInserted (d : Device) : Device :=
  if adcOn d then
    let d := { d with power := { d.power with seated := true } }
    if chgState d = 1 && flag d W.CHG_CTRL_CHG_EN then qualify (chgTo 2 d) else d
  else d

/-- R264: a stage fault of BK. -/
def opBkFault (d : Device) : Device :=
  if hcdOn d then
    let d := setFlag (setBk 9 { d with power := { d.power with fault := true } }) W.CHG_FAULT_BK_FAULT true
    let d := raise 399 d
    bkStopped (if chargingState (chgState d) then chgTo 9 d else d)
  else d

/-- R261, R574: what has seen the removal: the comparator on VPACK while BK charges, or the thermistor's open detector after
20 microseconds; while BK charges either may have (log 7). -/
def traceRemoval (ov : Bool) (d : Device) : Device :=
  if ov then traceComp 186 true 0 d
  else if bkState d = 2 && freeOf d % 2 = 0 then traceComp 186 true 0 (drawn d)
  else traceComp 187 true 4000 (drawn d)

/-- R264, R574: the detector of one of BK's two stages reports; the row does not tell which (log 7). -/
def traceStage (d : Device) : Device := traceComp (182 + freeOf d % 2) true 8 (drawn d)

/-! ### The rows -/

def execChgKick (rq : Req) (s : State) : Host.Outcome State Fault Refusal := on (runRow rq 0x40 [] [] opChgKick) s
def execChgClear (rq : Req) (s : State) : Host.Outcome State Fault Refusal := on (runRow rq 0x41 [] [] opChgClear) s
def execVsupLost (low : Bool) (s : State) : Host.Outcome State Fault Refusal := 
  on (fun d => opVsupLost low (traceComp 184 true 400 d)) s
def execVsupLostInReset (low energy : Bool) (s : State) : Host.Outcome State Fault Refusal :=
  on (opVsupLostInReset low energy) s
def execVsupReturn (s : State) : Host.Outcome State Fault Refusal := on (fun d => opVsupReturn (traceComp 184 false 0 d)) s
def execVsupBack (s : State) : Host.Outcome State Fault Refusal := on opVsupBack s
def execHandbackDone (s : State) : Host.Outcome State Fault Refusal := on opHandbackDone s
def execChargeResume (s : State) : Host.Outcome State Fault Refusal := on opChargeResume s
def execIdgReverse (low : Bool) (s : State) : Host.Outcome State Fault Refusal := on (opIdgReverse low) s
def execIdgForward (s : State) : Host.Outcome State Fault Refusal := on opIdgForward s
def execPackCutoff (s : State) : Host.Outcome State Fault Refusal := on opPackCutoff s
def execCutoffReenable (s : State) : Host.Outcome State Fault Refusal := on opCutoffReenable s
def execPackRemoved (ov : Bool) (s : State) : Host.Outcome State Fault Refusal := on (fun d => opPackRemoved ov (traceRemoval ov d)) s
def execPackInserted (s : State) : Host.Outcome State Fault Refusal := 
  on (fun d => opPackInserted (traceComp 187 false 400000000 d)) s
def execBkFault (s : State) : Host.Outcome State Fault Refusal := on (fun d => opBkFault (traceStage d)) s
def execBoostIlim (beyond : Bool) (us : Nat) (s : State) : Host.Outcome State Fault Refusal := on (opBoostIlim beyond us) s
def execInputLimit (s : State) : Host.Outcome State Fault Refusal := on opInputLimit s
def execChargerTick (lim : BitVec 3) (amps : BitVec 10) (s : State) : Host.Outcome State Fault Refusal :=
  on (opChargerTick lim.toNat amps.toNat) s
def execPackNtcConversion (short : Bool) (s : State) : Host.Outcome State Fault Refusal := on (opPackNtcConversion short) s
def execChgDone (removed : Bool) (s : State) : Host.Outcome State Fault Refusal := on (opChgDone removed) s
def execChgTimeout (s : State) : Host.Outcome State Fault Refusal := on opChgTimeout s
def execChgWdExpired (s : State) : Host.Outcome State Fault Refusal := on opChgWdExpired s

end Sys2Proof.Machine
end

