-- ==== Sys2Proof/Machine/RoofOps.lean ====
section
/-! DEFINITION. What the ridge link and the roof share (11, 12): participation and judgement (R323-R332), ramp holds
(R339-R341, R183), propagated faults and descents (R344-R346), the roof's phase, masks and messages (R326-R328, R343), what
every received slot does. -/

namespace Sys2Proof.Machine

def strapOf (d : Device) : Nat := d.core.strap % 8
def isHolder (d : Device) : Bool := flag d W.LNK_STATUS_IS_HOLDER
def linkState (d : Device) : Nat := fld d W.LNK_STATUS_LINK_STATE
def setLink (v : Nat) (d : Device) : Device := setFld d W.LNK_STATUS_LINK_STATE v
def disciplined (d : Device) : Bool := flag d W.LNK_STATUS_DISCIPLINED
def roofPhase (d : Device) : Nat := fld d W.ROOF_STATUS_PHASE
def partOf (d : Device) : Nat := fld d W.ROOF_STATUS_PART

def peer (d : Device) (a : Nat) : Peer := SMap.get (fun _ => ({} : Peer)) d.link.peers a
def modPeer (a : Nat) (f : Peer → Peer) (d : Device) : Device :=
  { d with link := { d.link with peers := SMap.set (fun _ => ({} : Peer)) a (f (peer d a)) d.link.peers } }

/-- The last MODE of an address: its own, or what its slots said (ROOF_MODES). -/
def modeOfAddr (d : Device) (a : Nat) : Nat := if a = strapOf d then d.mode.code else arr d W.ROOF_MODES_MODE a

/-! ### Starts and descents of the roof -/

/-- R350: a DESCEND while T0 is fixed and not reached: T0 is cancelled and the device stays in BOOT. -/
def cancelT0 (d : Device) : Device :=
  if d.mode = .boot && d.seq.t0.isSome then
    let d := { d with seq := { d.seq with t0 := none, request := false } }
    completeAll (fun c => c.op == 0x20) .aborted (fun _ => 0#32) (fun _ => 0#32) (setFld d W.SEQ_STATUS_SEQ_STATE (restState d))
  else d

/-- A mode in RAMP-HOLDUP. -/
def rampToHoldup (d : Device) : Bool := inMode d [.ramp, .run, .ease, .holdup]

/-- R556, R567: what an insertion that the device acts on leaves. -/
def roofRecord (kind railNo origin : Nat) (d : Device) : Device :=
  trigIf W.TRC_TRIG_T_URGENT 4 (gutter 0x08 railNo kind (BitVec.ofNat 32 origin) d)

/-- R345: a FAULT of address `o` reaches a participant: a fault descent 6 CK_SYS after the latch. -/
def roofFault (o low : Nat) (d : Device) : Device :=
  let may := rampToHoldup d || (d.mode = .descend && (match d.seq.desc with | some { kind := .fault, .. } => false | _ => true))
  if participating d && may then
    let d := roofRecord 0 low o { d with link := { d.link with faultBy := some o } }
    faultDescent [] 8 false (advanceTo (d.roofTime + 6) d)
  else d

/-- R344, R350: a DESCEND of address `o` reaches a participant: an orderly descent 6 CK_SYS after the latch. -/
def roofDescend (o : Nat) (d : Device) : Device :=
  if !participating d then d
  else if rampToHoldup d then
    let d := roofRecord 1 0xFF o d
    let d := advanceTo (d.roofTime + 6) d
    startDescent (if d.mode = .ramp then .abort else .orderly) (enabledRails d) d
  else cancelT0 d

/-- R347, R348, R341: the holder inserts DESCEND and follows it itself. -/
def holderDescend (reason : Nat) (d : Device) : Device :=
  if rampToHoldup d then descendNow reason d else cancelT0 (insertUrgent 1 reason d)

/-- R347: the holder inserts FAULT and follows it itself. -/
def holderFault (d : Device) : Device := roofFault (strapOf d) 0 (insertUrgent 0 (firstRail d) d)

/-! ### Ramp holds (R183, R339, R340) -/

/-- R183: the references of the ramping rails stand still from now. -/
def freezeRamps (d : Device) : Device :=
  (List.range 32).foldl (fun d n =>
    let r := rail d n
    if r.ph = .rampUp then
      modRail n (fun r => { r with ref := { r.ref with
        frm := refAt r.ref d.roofTime, dur := r.ref.start + r.ref.dur - max d.roofTime r.ref.start, start := d.roofTime } }) d
    else d) d

/-- R183: ramps go on from where they stopped; slot times and power-good timeouts move later by the hold of `len` cycles. -/
def thawRamps (len : Nat) (d : Device) : Device :=
  let d := (List.range 32).foldl (fun d n =>
    let d := if (rail d n).ph = .rampUp then modRail n (fun r => { r with ref := { r.ref with start := d.roofTime } }) d else d
    if rstate d n = 2 then modRail n (fun r => { r with rampAt := r.rampAt + len }) d else d) d
  { d with seq := { d.seq with slip := d.seq.slip + len } }

/-- SEQ_STATE of a power-up that a ramp hold stops (3) or no longer does (2). -/
def holdState (frm dst : Nat) (d : Device) : Device :=
  if fld d W.SEQ_STATUS_SEQ_STATE = frm then setFld d W.SEQ_STATUS_SEQ_STATE dst else d

/-- R179, R183: a hold has ended: a power-up whose rails are all up completes. -/
def rampCheck (d : Device) : Device :=
  if d.mode = .ramp && fld d W.SEQ_STATUS_SEQ_STATE = 2 && rampDone d then rampComplete d else d

/-- R340, R350: the ramp hold follows the open holds, in phases STARTING and RAMP. -/
def applyHold (d : Device) : Device :=
  let on_ := d.link.holds ≠ 0 && (roofPhase d = 1 || roofPhase d = 2)
  match d.seq.holdFrom, on_ with
  | none, true =>
    raise 487 (holdState 2 3
      (setFlag { (freezeRamps d) with seq := { d.seq with holdFrom := some d.cycles } } W.ROOF_STATUS_HOLD_IN_FORCE true))
  | some c, false =>
    let len := d.cycles - c
    let d := setFld d W.ROOF_HOLD_HOLD_TOTAL (min (fld d W.ROOF_HOLD_HOLD_TOTAL + len) (2 ^ 32 - 1))
    let d := thawRamps len { d with seq := { d.seq with holdFrom := none } }
    rampCheck (raise 488 (holdState 3 2 (setFlag d W.ROOF_STATUS_HOLD_IN_FORCE false)))
  | _, _ => d

/-- R340: the hold of address `a` begins or ends. -/
def putHold (a : Nat) (b : Bool) (d : Device) : Device :=
  applyHold { d with link := { d.link with holds := setBitNat d.link.holds a b } }

def setPhase (p : Nat) (d : Device) : Device := applyHold (setFld d W.ROOF_STATUS_PHASE p)

/-- R339, R340: TIME_SUSPECT follows OFFSET and DISCIPLINED; a participant tells the roof by a HOLD insertion and applies its
own hold 25 CK_SYS later. R342's refusal is told anew after an agreement. -/
def updateSuspect (d : Device) : Device :=
  if alone d then d
  else
    let now := 1600 < (linkOffset d).natAbs || !disciplined d
    let d := setFlag d W.ROOF_STATUS_TIME_SUSPECT now
    let d := if (linkOffset d).natAbs ≤ 16000 && disciplined d then { d with link := { d.link with refused := false } } else d
    if now && !d.link.ownHold && participating d && (roofPhase d = 1 || roofPhase d = 2) then
      let d := insertUrgent 3 1 { d with link := { d.link with ownHold := true } }
      putHold (strapOf d) true (advanceTo (d.roofTime + 25) d)
    else if !now && d.link.ownHold then
      let d := insertUrgent 3 0 { d with link := { d.link with ownHold := false } }
      putHold (strapOf d) false (advanceTo (d.roofTime + 25) d)
    else d

/-! ### Participation (R312, R324, R329, R337) -/

/-- R312. -/
def linkEligible (d : Device) : Bool :=
  flag d W.LNK_CTRL_LINK_EN && partOf d ≠ 3 &&
  (match d.otp.roofRec with
   | some r => r.proto == Config.linkMajor && r.minCompat ≤ fld d W.ROOF_COMPAT_OWN_COMPAT
   | none => false)

def putEligible (d : Device) : Device := setFlag d W.LNK_STATUS_ELIGIBLE (linkEligible d)

/-- R324: a change of participation state and its cause, and the event that tells it. -/
def setPart (p cause : Nat) (d : Device) : Device :=
  let was := partOf d
  let d := putEligible (setFld (setFld d W.ROOF_STATUS_PART p) W.ROOF_STATUS_EXCL_CAUSE cause)
  if was = p then d
  else if p = 3 then raise 480 d
  else if p = 4 then raise 482 d
  else if p = 5 then raise 494 d
  else d

/-- R323: the roof's masks from the ROOF record. -/
def requiredMask (d : Device) : Nat := match d.otp.roofRec with | some r => r.required | none => 0
def optionalMask (d : Device) : Nat := match d.otp.roofRec with | some r => r.optional | none => 0

/-- R329: the first row whose condition holds against the holder's protocol major and digest: state and cause. -/
def judgement (d : Device) (proto digest : Nat) : Nat × Nat :=
  let a := strapOf d
  if proto ≠ Config.linkMajor then (4, 0)
  else match d.otp.roofRec with
    | none => (3, 5)
    | some r =>
      if (roofAddrForbidden d).testBit a || roofForbidden d || !((r.required ||| r.optional).testBit a) then (3, 4)
      else if d.otp.refusedDigests.contains digest then (3, 2)
      else if d.otp.digest ≠ digest then (3, 1)
      else if fld d W.ROOF_COMPAT_OWN_COMPAT < r.minCompat then (3, 3)
      else if flag d W.ROOF_STATUS_RESIGNED then (3, 6)
      else (2, 0)

/-- R329, R337, R348: the device is judged against the holder; one that becomes a participant in BOOT while a power-up is
present is LATE. -/
def judge (d : Device) : Device :=
  if partOf d = 0 || !flag d W.LNK_STATUS_HOLDER_VALID then d
  else
    let h := fld d W.LNK_STATUS_HOLDER
    let own := isHolder d
    let p := peer d h
    let d := setFld (setFld d W.ROOF_STATUS_REQUIRED (requiredMask d)) W.ROOF_STATUS_OPTIONAL (optionalMask d)
    match (if own then some Config.linkMajor else p.proto), (if own then some d.otp.digest else p.digest) with
    | some proto, some digest =>
      let j := judgement d proto digest
      if j.1 = 2 then
        if partOf d = 2 || partOf d = 5 then d
        else setPart (if !own && d.mode = .boot && roofPhase d ≠ 0 then 5 else 2) 0 d
      else setPart j.1 j.2 d
    | _, _ => d

/-- R315, R331, R322: the holder is address `h`; the exclusions of causes 1 and 2 are judged afresh. -/
def newHolder (h : Nat) (d : Device) : Device :=
  let same := flag d W.LNK_STATUS_HOLDER_VALID && fld d W.LNK_STATUS_HOLDER = h
  let d := setFlag (setFld d W.LNK_STATUS_HOLDER h) W.LNK_STATUS_HOLDER_VALID true
  let d := { d with link := { d.link with claims := 0, handTo := none } }
  if same then d
  else
    let d := raise 448 d
    let d := if partOf d = 3 && (fld d W.ROOF_STATUS_EXCL_CAUSE = 1 || fld d W.ROOF_STATUS_EXCL_CAUSE = 2) then setPart 1 0 d else d
    judge d

/-- This device becomes holder, on roof time as it counts it. -/
def becomeHolder (d : Device) : Device :=
  let d := setLink 7 (setFlag (setFlag d W.LNK_STATUS_IS_HOLDER true) W.LNK_STATUS_HOLDOVER false)
  let d := setFld (setFld d W.LNK_DELAY_RTT 0) W.LNK_OFFSET_OFFSET 0
  newHolder (strapOf d) { d with link := { d.link with known := true, half := false, driven := 0 } }

/-- This device stops being holder. -/
def stopHolding (d : Device) : Device := setLink 4 (setFlag d W.LNK_STATUS_IS_HOLDER false)

/-! ### The holder's view of the roof (R332, R334, R343) -/

def present (d : Device) (a : Nat) : Bool := a = strapOf d || (fld d W.LNK_STATUS_PRESENT).testBit a

/-- R332, R334: address `a` participates, as the holder knows it. -/
def takesPart (d : Device) (a : Nat) : Bool :=
  if a = strapOf d then participating d
  else
    let p := peer d a
    present d a && p.agreed && !p.excluded && !p.late && p.proto == some Config.linkMajor
    && (requiredMask d ||| optionalMask d).testBit a && !d.link.dropped.testBit a

def maskOf (p : Nat → Bool) : Nat := (List.range 8).foldl (fun m a => if p a then m ||| 2 ^ a else m) 0

/-- R327: READY: BOOT ready, or the wait for T0 after RETAIN (R338). -/
def ownReady (d : Device) : Bool :=
  (d.mode = .boot && d.core.bootReady) || (d.mode = .ramp && fld d W.SEQ_STATUS_SEQ_STATE = 1 && d.seq.t0 = none)

def readyAt (d : Device) (a : Nat) : Bool := if a = strapOf d then ownReady d else (peer d a).ready
def discAt (d : Device) (a : Nat) : Bool := if a = strapOf d then disciplined d else (peer d a).disciplined
def requestAt (d : Device) (a : Nat) : Bool :=
  if a = strapOf d then d.seq.request && d.seq.t0 = none else takesPart d a && (peer d a).startReq

/-- R332: the floor of the participants' feature sets. -/
def featureFloor (d : Device) : Nat :=
  (List.range 8).foldl (fun m a =>
    if takesPart d a then m &&& (if a = strapOf d then fld d W.ROOF_FLOOR_OWN_FEATURES else (peer d a).features) else m) 65535

/-- R343: the phase that follows from the participants' modes at the start of frame `fn`. -/
def phaseNext (d : Device) (fn : Nat) : Nat :=
  let parts := (List.range 8).filter (takesPart d)
  let modes := parts.map (modeOfAddr d)
  let busy := modes.any (fun m => 3 ≤ m && m ≤ 7)
  match roofPhase d with
  | 1 => (match d.link.t0Fn with | some f => if f ≤ fn then 2 else 1 | none => 0)
  | 2 =>
    let fresh := match d.link.t0Fn with | some f => fn < f + 2 | none => false
    if modes.all (fun m => 4 ≤ m && m ≤ 6) then 3 else if busy || fresh then 2 else 0
  | 3 => if busy then 3 else 0
  | 4 => if busy then 4 else 0
  | 5 => if busy then 5 else 0
  | p => p

/-- R337: the roof is in IDLE again: a LATE device participates, removed participants return. -/
def roofIdle (d : Device) : Device :=
  let d := { d with link := { d.link with dropped := 0, warned := 0, t0Fn := none, begun := false } }
  let d := setFlag d W.ROOF_STATUS_DEGRADED false
  if partOf d = 5 then setPart 2 0 d else d

/-! ### ANNOUNCE and AGREE (R326-R328) -/

def announceW1 (kind b1 b2 b3 : Nat) : Word := BitVec.ofNat 32 (kind + b1 * 2 ^ 8 + b2 * 2 ^ 16 + b3 * 2 ^ 24)

/-- R326: STATE, without its sequence. -/
def stateFields (d : Device) : Word × Word :=
  let parts := maskOf (takesPart d)
  (announceW1 1 (roofPhase d) parts (fld d W.ROOF_MEMBERS_EXCLUDED),
   BitVec.ofNat 32 (featureFloor d + d.link.holds * 2 ^ 16))

/-- R326: START and DOWN carry a frame number in P2-P5. -/
def frameFields (kind b1 fn flags : Nat) : Word × Word :=
  (BitVec.ofNat 32 (kind + b1 * 2 ^ 8 + fn % 65536 * 2 ^ 16), BitVec.ofNat 32 (fn / 65536 % 65536 + flags * 2 ^ 16))

/-- R326: an announce takes the next sequence. -/
def placeAnnounce (w1 w2 : Word) (d : Device) : Device :=
  let s := (d.link.annSeq + 1) % 256
  placeQ16 6 w1 (putBits w2 31 24 s) { d with link := { d.link with annSeq := s } }

/-- R328, R332, R351: the holder's STATE in a frame: after a change of its fields, and at least every 16 frames. -/
def sendState (fn : Nat) (d : Device) : Device :=
  let f := stateFields d
  let d := setFld d W.ROOF_MEMBERS_PARTICIPATING (maskOf (takesPart d))
  let was := fld d W.ROOF_FLOOR_FLOOR
  let d := setFld d W.ROOF_FLOOR_FLOOR (featureFloor d)
  let d := if was = featureFloor d then d else raise 483 d
  if d.link.stateMsg = some f && fn < d.link.stateAt + 16 then d
  else placeAnnounce f.1 f.2 { d with link := { d.link with stateMsg := some f, stateAt := fn } }

/-- R327: the fields of AGREE. -/
def agreeFields (d : Device) : Word × Word :=
  let late := partOf d = 5
  let excl := partOf d = 3
  let f := (if ownReady d then 1 else 0) + (if d.seq.request && d.seq.t0 = none then 2 else 0) + (if excl then 4 else 0)
    + (if flag d W.ROOF_STATUS_TIME_SUSPECT then 8 else 0) + (if late then 16 else 0) + (if d.link.ownHold then 32 else 0)
  (announceW1 f (fld d W.ROOF_STATUS_EXCL_CAUSE) (d.link.annSeen.getD 0) 0, 0#32)

/-- The bits of ROOF_MEMBERS that an AGREE of address `a` carries. -/
def putMember (a flags : Nat) (d : Device) : Device :=
  let d := setFld d W.ROOF_MEMBERS_EXCLUDED (setBitNat (fld d W.ROOF_MEMBERS_EXCLUDED) a (flags.testBit 2))
  let d := setFld d W.ROOF_MEMBERS_SUSPECT (setBitNat (fld d W.ROOF_MEMBERS_SUSPECT) a (flags.testBit 3))
  setFld d W.ROOF_MEMBERS_READY (setBitNat (fld d W.ROOF_MEMBERS_READY) a (flags.testBit 0))

/-- R327: this device's AGREE in a frame. -/
def sendAgree (fn : Nat) (d : Device) : Device :=
  let f := agreeFields d
  if d.link.agreeMsg = some f && fn < d.link.agreeAt + 16 then d
  else
    let d := putMember (strapOf d) (bitsOf f.1 7 0) d
    placeQ16 7 f.1 f.2 { d with link := { d.link with agreeMsg := some f, agreeAt := fn } }

/-! ### DOWN (R338) -/

/-- R338, R201: T_D of a DOWN: on the holder the phase is DOWN, and a participant begins the descent. A MODE_SET that can no longer
lead to RETAIN completes with ABORTED. -/
def downNow (target : Nat) (d : Device) : Device :=
  let d := if isHolder d then setPhase 4 d else d
  if !participating d then d
  else if target = 0xB then
    if inMode d upModes then startDescent .retain ((enabledRails d).filter (fun n => !maskBit d W.SEQ_RETAIN n)) d
    else completeAll (fun c => c.op == 0x25 && bitsOf (c.p 0) 3 0 == 11) .aborted (fun _ => 0#32) (fun _ => 0#32) d
  else if rampToHoldup d then startDescent (if d.mode = .ramp then .abort else .orderly) (enabledRails d) d
  else cancelT0 d

/-- The T_D of an announced DOWN has come with the start of frame `fn`. -/
def dueDown (fn : Nat) (d : Device) : Device :=
  match d.link.down with
  | some (target, f) => if f ≤ fn then downNow target { d with link := { d.link with down := none } } else d
  | none => d

/-! ### Every received slot (R296, R346, R349) -/

/-- The device takes in slots (R306, R320). -/
def hears (d : Device) : Bool := 2 ≤ linkState d && linkState d ≤ 8

/-- R346: the mode of a required participant reaches this one without its insertion. -/
def propagate (a mode : Nat) (d : Device) : Device :=
  if participating d && rampToHoldup d && (mode = 7 || mode = 8)
      && (fld d W.ROOF_STATUS_REQUIRED).testBit a && (fld d W.ROOF_MEMBERS_PARTICIPATING).testBit a then
    let d := raise 491 d
    if mode = 8 then roofFault a 0xFF (phaseOn 0 0 d) else roofDescend a (phaseOn 1 4 d)
  else d

/-- R349: the originator of the FAULT that latched this device reports BOOT. -/
def followRetry (a mode : Nat) (d : Device) : Device :=
  if d.mode = .latched && fld d W.MODE_STATUS_LATCH_CAUSE = 8 && flag d W.ROOF_CTRL_FOLLOW_RETRY && mode = 2
      && d.link.faultBy = some a && fld d W.SEQ_STATUS_RETRY_CNT < fld d W.SEQ_CTRL_RETRY_MAX then
    takeRetry { d with link := { d.link with faultBy := none } }
  else d

/-- R317: a frame start that did not come: a follower keeps time on its own CK_SYS, with HOLDOVER set. -/
def noteMissing (d : Device) : Device :=
  if d.link.known && !isHolder d && 2 ≤ linkState d && linkState d ≤ 6 && d.link.fn < d.roofTime / 1000 then
    let d := setFlag d W.LNK_STATUS_HOLDOVER true
    if linkState d = 4 then setLink 5 d else d
  else d

/-- PRESENT and ROOF_MODES: a valid slot of address `a`. -/
def slotPresent (a mode : Nat) (d : Device) : Device :=
  let was := (fld d W.LNK_STATUS_PRESENT).testBit a
  let d := setFld d W.LNK_STATUS_PRESENT (setBitNat (fld d W.LNK_STATUS_PRESENT) a true)
  setArr (if was then d else raise 452 d) W.ROOF_MODES_MODE a mode

/-- A valid slot of address `a` with header `MODE`: `k` takes its payload. A link that was dead hunts from its comma on (R320). -/
def slotSeen (a mode : Nat) (k : Device → Device) (d : Device) : Device :=
  if linkState d = 9 then setLink (huntState d) d
  else if !hears d || a = strapOf d || partOf d = 4 then d
  else k (followRetry a mode (propagate a mode (slotPresent a mode (noteMissing d))))

/-- R299: a message of types 0x6-0xD enters Q17 (64 entries), and is acted on; without room it is dropped. -/
def messageSeen (a mode type : Nat) (w1 w2 : Word) (k : Device → Device) (d : Device) : Device :=
  slotSeen a mode (fun d =>
    if 64 ≤ d.link.q17.length then raise 459 d
    else
      let e := [BitVec.ofNat 32 (presentFn d % 256 * 2 ^ 24 + a * 2 ^ 8 + mode * 2 ^ 4 + type), w1, w2, lowW d.roofTime]
      k { d with link := { d.link with q17 := d.link.q17 ++ [e] } }) d

end Sys2Proof.Machine
end

