-- ==== Sys2Proof/Machine/Valley.lean ====
section
/-! DEFINITION. The valley line (13): the checks of R361, the messages of R362, contracts, amendments and their ends, the
switch, planned swap and fast swap, and the commands ROOF_QUERY, VLY_REQUEST, VLY_END. -/

namespace Sys2Proof.Machine

def floorBit (d : Device) (i : Nat) : Bool := (fld d W.ROOF_FLOOR_FLOOR).testBit i

/-- R363, R632: the contract voltage that this member offers: HOLD_SET in 100 mV. -/
def ownVc (d : Device) : Nat := (6000 + 50 * fld d W.BK_CFG_HOLD_SET) / 100

/-! ### The checks of R361 -/

/-- R361: the reason for which this member may not take on a promise of `e` x 10 J as SOURCE or STANDBY_SOURCE. -/
def sourceBar (d : Device) (e : Nat) (swap : Bool) : Option Nat :=
  let s := bkState d
  if !flag d W.VLY_CFG_VLY_EN || !flag d W.VLY_POLICY_OFFER_EN then some 9
  else if vlyForbidden d then some 2
  else if !floorBit d 0 then some 4
  else if !(inMode d [.run, .ease] || (swap && d.mode = .holdup)) then some 9
  else if fld d W.GAUGE_STATUS_ANCHOR = 0 || !flag d W.BK_STATUS_PACK_PRESENT || s = 7 || s = 8 || s = 9 then some 3
  else if fld d W.GAUGE_AVAIL_Q_AVAIL * energyUnit d < e * 10000000 then some 3
  else none

/-- R361: the envelope bars a contract: its voltage, its current for a SOURCE and for a SINK. -/
def contractBar (d : Device) (c : Contract) : Option Nat :=
  let a := strapOf d
  if vlyVMax d < c.vC * 100 then some 2
  else if c.source = a && vlyIsrcMax d < c.iC * 100 then some 2
  else if c.sinks.testBit a && vlyIsnkMax d < c.iC * 100 then some 2
  else none

/-! ### Words of a contract (R359) -/

/-- R360: this member's part in a contract: 0 NONE, 1 SOURCE, 2 SINK, 3 STANDBY_SOURCE. -/
def partIn (d : Device) (c : Contract) : Nat :=
  let a := strapOf d
  if c.source = a then 1 else if c.sinks.testBit a then 2 else if c.standby = some a then 3 else 0

def putContract (c : Contract) (d : Device) : Device :=
  let d := setFld d W.VLY_STATUS_CN c.cn
  let d := setFld (setFld d W.VLY_CONTRACT_SINKS c.sinks) W.VLY_CONTRACT_SOURCE c.source
  let d := setFlag (setFlag d W.VLY_CONTRACT_FS_AUTH c.fsAuth) W.VLY_CONTRACT_STANDBY_VALID c.standby.isSome
  let d := setFld (setFld d W.VLY_CONTRACT_STANDBY (c.standby.getD 0)) W.VLY_CONTRACT_V_C c.vC
  let d := setFld (setFld d W.VLY_CONTRACT_I_C c.iC) W.VLY_ENERGY_E c.e
  setFld { d with vly := { d.vly with cur := some c, energy := 0, owe := false } } W.VLY_ENERGY_DELIVERED 0

/-- R362: the payload of an ACCEPT. -/
def acceptWords (c : Contract) : Word × Word :=
  (BitVec.ofNat 32 (c.cn + (c.source + (if c.standby.isSome then 8 else 0) + c.standby.getD 0 * 16
      + (if c.fsAuth then 128 else 0)) * 2 ^ 8 + c.sinks * 2 ^ 16 + c.iC * 2 ^ 24),
   BitVec.ofNat 32 (c.vC + c.e % 65536 * 2 ^ 8 + (c.aux % 4 + c.amend % 64 * 4) * 2 ^ 24))

def acceptOf (w1 w2 : Word) : Contract :=
  { cn := bitsOf w1 7 0, source := bitsOf w1 10 8, standby := if bitOf w1 11 then some (bitsOf w1 14 12) else none,
    fsAuth := bitOf w1 15, sinks := bitsOf w1 23 16, iC := bitsOf w1 31 24, vC := bitsOf w2 7 0, e := bitsOf w2 23 8,
    aux := bitsOf w2 25 24, amend := bitsOf w2 31 26 }

/-- R359, R367: the energy left of the contract in 10 J, rounded down. -/
def energyLeft (d : Device) : Nat := (contractEnergy d - d.vly.energy) / tenJoule

/-- An ACCEPT goes into Q16, `first` at its front (R374) while there is room (R298). -/
def placeAccept (c : Contract) (first : Bool) (d : Device) : Device :=
  let w := acceptWords c
  let d := { d with vly := { d.vly with proposed := some c } }
  if !first then placeQ16 0xA w.1 w.2 d
  else if d.link.q16.length < 64 then { d with link := { d.link with q16 := (0xA, w.1, w.2) :: d.link.q16 } } else d

/-- R363, R367: the SOURCE sends an amendment: the contract in force changed by `f`, with the energy left. -/
def amend (f : Contract → Contract) (d : Device) : Device :=
  match (match d.vly.proposed with | some c => some c | none => d.vly.cur) with
  | some c => placeAccept { (f c) with amend := (c.amend + 1) % 64, e := (f { c with e := energyLeft d }).e } false d
  | none => d

/-- R367, R376: the contract without address `a`. -/
def without (a : Nat) (c : Contract) : Contract :=
  { c with sinks := setBitNat c.sinks a false,
           standby := if c.standby = some a then none else c.standby,
           fsAuth := c.fsAuth && c.standby != some a }

/-! ### Parts begin, change and end (R358, R360, R363, R364) -/

/-- R369: the aux use in force. -/
def auxUse (d : Device) (aux : Nat) : Nat :=
  if (aux = 1 && floorBit d 2) || (aux = 2 && floorBit d 3) then aux else 0

/-- R434: VLY_REQUEST completes with the part. -/
def requestDone (d : Device) : Device :=
  let cn := fld d W.VLY_STATUS_CN
  completeAll (fun c => c.op == 0x51) .ok (fun _ => BitVec.ofNat 32 (cn + vlyRole d * 256)) (fun _ => 0#32)
    { d with vly := { d.vly with reqTo := none } }

/-- The switch and BK of a part that a new role asks for, from role `was` (R360, R364, R370, R373). -/
def takeRole (was role : Nat) (d : Device) : Device :=
  let d := setRole role d
  let d := if role = 3 then d else setFlag d W.VLY_STATUS_FS_ARMED false
  let d := if role = 3 && flag d W.VLY_CONTRACT_FS_AUTH then standbyBoost d else leaveStandbyBoost d
  if was = role then d
  else if role = 1 then (if vlySw d = 3 then d else { d with vly := { d.vly with safeFrom := some d.roofTime } })
  else if role = 2 then (if was = 1 && vlySw d = 3 then setSw 1 d else d)
  else setSw 0 d

/-- R360: a contract or amendment takes effect. -/
def beginContract (c : Contract) (d : Device) : Device :=
  let was := vlyRole d
  let role := partIn d c
  if role = 0 then endPart d
  else
    let swapped := d.vly.swap.isSome && fld d W.VLY_CONTRACT_SOURCE ≠ c.source
    let d := takeRole was role (putContract c { d with vly := { d.vly with suspended := none } })
    let d := if swapped then
        raise 518 (setFlag (setFld { d with vly := { d.vly with swap := none } } W.VLY_STATUS_SWAP 0) W.VLY_STATUS_STBY_DUTY false)
      else d
    let d := setAux (auxUse d c.aux) d
    let d := if was = 0 then requestDone (raise 512 d) else raise 514 d
    recompute d

/-- R360: frame FN_A + 2 starts. -/
def opContractBegin (d : Device) : Device :=
  match d.vly.pend with
  | some (c, fnA) =>
    if inMode d operModes then
      beginContract c (advanceTo ((fnA + 2) * 1000) { d with vly := { d.vly with pend := none } })
    else d
  | none => d

/-! ### Messages received (R361-R372) -/

/-- R524: Thatch is not ready: Purlin answers with REJECT reason 5. -/
def busyAnswer (cn a seq : Nat) (d : Device) : Device := sendReject cn 5 a seq d

/-- R362, R524: an OFFER of address `a`. -/
def takeOffer (a : Nat) (w1 w2 : Word) (d : Device) : Device :=
  if !thatchReady d then busyAnswer 0xFF a (bitsOf w2 31 24) d
  else
    let o : Offer := { flags := bitsOf w1 7 0, iMax := bitsOf w1 15 8, vC := bitsOf w1 23 16,
                       e := bitsOf w1 31 24 + 256 * bitsOf w2 7 0, aux := bitsOf w2 15 8, seq := bitsOf w2 31 24 }
    { d with vly := { d.vly with offers := SMap.set (fun _ => none) a (some o) d.vly.offers } }

def offerOf (d : Device) (a : Nat) : Option Offer := SMap.get (fun _ => none) d.vly.offers a

/-- R369: the aux use that a contract between this member and `a` takes: wake where the feature is not in the floor or a party
does not offer it. -/
def auxAgreed (a aux : Nat) (d : Device) : Nat :=
  let able := match offerOf d a with | some o => o.aux.testBit (aux - 1) | none => true
  if able then auxUse d aux else 0

/-- R363: a new contract for a REQUEST of kind 0. -/
def newContract (a cur e aux : Nat) (d : Device) : Contract :=
  { cn := strapOf d * 32 + d.vly.cnSeq % 32, source := strapOf d, sinks := 2 ^ a, iC := cur, vC := ownVc d, e := e
    aux := auxAgreed a aux d }

/-- R363: fast swap may be authorised between this SOURCE and address `a`. -/
def mayFastSwap (d : Device) (a : Nat) : Bool :=
  floorBit d 1 && !fastSwapForbidden d && flag d W.VLY_POLICY_FS_OK
  && (match offerOf d a with | some o => o.flags.testBit 2 | none => false)

/-- R363: the current a SOURCE may promise, in 100 mA. -/
def currentOk (d : Device) (i : Nat) : Bool := i ≤ fld d W.VLY_POLICY_OFF_IMAX && i * 100 ≤ vlyIsrcMax d

/-- R363, R361: a REQUEST of address `a`. -/
def takeRequest (a : Nat) (w1 w2 : Word) (d : Device) : Device :=
  let seq := bitsOf w2 31 24
  let cn := bitsOf w2 15 8
  let kind := bitOf w1 3
  let i := bitsOf w1 15 8
  let e := bitsOf w1 31 16
  let say := fun (r : Nat) => sendReject cn r a seq d
  if bitsOf w1 2 0 ≠ strapOf d then d
  else if !thatchReady d then busyAnswer cn a seq d
  else if d.vly.proposed.isSome || d.vly.pend.isSome || d.vly.swap.isSome then say 5
  else if vlyRole d = 0 then
    if kind || cn ≠ 0xFF then say 9
    else match sourceBar d e false with
      | some r => say r
      | none =>
        if !currentOk d i || vlyVMax d < ownVc d * 100 then say 2
        else placeAccept (newContract a i e (bitsOf w2 7 0) d) false { d with vly := { d.vly with cnSeq := (d.vly.cnSeq + 1) % 32 } }
  else if vlyRole d ≠ 1 || cn ≠ fld d W.VLY_STATUS_CN then say 5
  else if kind then
    (if flag d W.VLY_CONTRACT_STANDBY_VALID then say 5
     else amend (fun c => { c with standby := some a, fsAuth := mayFastSwap d a }) d)
  else
    match sourceBar d e true with
    | some r => say r
    | none =>
      if !currentOk d (fld d W.VLY_CONTRACT_I_C + i) then say 2
      else amend (fun c => { c with sinks := setBitNat c.sinks a true, iC := c.iC + i, e := c.e + e }) d

/-- R360, R361: an ACCEPT sent by address `a` in the present frame. -/
def takeAccept (w1 w2 : Word) (a : Nat) (d : Device) : Device :=
  let c := acceptOf w1 w2
  let role := partIn d c
  let mine := vlyRole d ≠ 0 && fld d W.VLY_STATUS_CN = c.cn
  if (vlyRole d ≠ 0 && !mine) || (vlyRole d = 0 && role = 0) || !inMode d operModes then d
  else
    let bar := if role = 0 || (mine && role = vlyRole d) then none
      else match contractBar d c with
        | some r => some r
        | none => if role = 3 || role = 1 then sourceBar d c.e mine else none
    match bar with
    | some r => sendReject c.cn r a 0 d
    | none => { d with vly := { d.vly with pend := some (c, d.link.fn) } }

/-- R370: the incoming member's promise and boost from the acknowledgement. -/
def acknowledged (tX : Nat) (d : Device) : Device :=
  match d.vly.swap with
  | some x =>
    let d := setFld { d with vly := { d.vly with swap := some { x with tX := some tX } } } W.VLY_STATUS_SWAP 2
    recompute (if x.incoming then standbyBoost d else d)
  | none => d

/-- R434: a REJECT answers a REQUEST of this member. -/
def requestRefused (reason : Nat) (d : Device) : Device :=
  completeAll (fun c => c.op == 0x51) .aborted (fun _ => 0#32) (fun _ => BitVec.ofNat 32 reason)
    { d with vly := { d.vly with reqTo := none } }

/-- R372: a REJECT reason 1 of this member's request: a new one only after (own address + 1) x 100 microseconds. -/
def collided (d : Device) : Device :=
  raise 520 { d with vly := { d.vly with swapFrom := d.roofTime + (strapOf d + 1) * 10000 } }

/-- R370, R372: a REJECT of address `a` with `reason` that answers sequence `seq` ends this member's swap: it cancels it, or refuses
its SWAP_REQ. -/
def swapEnds (a reason seq : Nat) (d : Device) : Bool :=
  match d.vly.swap with
  | some x => x.peer == a && (reason == 7 || (x.own && x.tX.isNone && seq == x.seq))
  | none => false

/-- R367, R372, R373: a REJECT of address `a`. -/
def takeReject (a : Nat) (w1 : Word) (d : Device) : Device :=
  let cn := bitsOf w1 7 0
  let reason := bitsOf w1 15 8
  let toMe := bitsOf w1 18 16 = strapOf d
  let mine := vlyRole d ≠ 0 && cn = fld d W.VLY_STATUS_CN
  let ends := mine && vlyRole d ≠ 1 && a = fld d W.VLY_CONTRACT_SOURCE && (reason = 0 || reason = 6 || reason = 8)
  if !toMe && !ends then d
  else
    let d := setFld (setFld d W.VLY_LAST_REASON reason) W.VLY_LAST_CN cn
    let d := setFlag (setFld d W.VLY_LAST_PEER a) W.VLY_LAST_SENT false
    let d := if toMe then raise 523 d else d
    if ends then
      let d := setFlag (cancelSwap d) W.VLY_STATUS_FS_ARMED false
      { d with vly := { d.vly with endAt := some (d.link.fn + 2) } }
    else
      let d := if reason = 1 && mine then collided d else d
      if mine && vlyRole d = 1 && reason = 0 then amend (without a) d
      else if mine && swapEnds a reason (bitsOf w1 31 24) d then cancelSwap d
      else if d.vly.reqTo = some a then requestRefused reason d
      else d

/-- R372: of two requests the one with the earlier roof time wins, and the lower sender on a tie. -/
def winsOver (t a t' a' : Nat) : Bool := t < t' || (t = t' && a < a')

/-- R370: this member acknowledges the SWAP_REQ of address `a`. -/
def acceptSwap (a after t seq cn : Nat) (d : Device) : Device :=
  let inc := vlyRole d ≠ 1
  let d := { d with vly := { d.vly with swap := some { peer := a, incoming := inc, after := after, reqTime := t, seq := seq } } }
  placeQ16 0xD (BitVec.ofNat 32 (cn + a * 2 ^ 8)) (BitVec.ofNat 32 (seq * 2 ^ 24)) d

/-- R372, R298: a SWAP_REQ whose SWAP_ACK has not been sent yet loses to an earlier one: its queued SWAP_ACK becomes the REJECT. -/
def outrun (cn : Nat) (x : Swap) (d : Device) : Device :=
  let e : Nat × Word × Word := (0xB, rejectWord cn 1 x.peer x.seq, 0#32)
  let d := noteReject cn 1 x.peer d
  { d with link := { d.link with q16 := d.link.q16.map (fun m => if m.1 = 0xD then e else m) } }

/-- R361, R370: the reason for which this member may not be the incoming member of a planned swap. -/
def incomingBar (d : Device) : Option Nat :=
  if vlyIsrcMax d < fld d W.VLY_CONTRACT_I_C * 100 || vlyVMax d < fld d W.VLY_CONTRACT_V_C * 100 then some 2
  else sourceBar d (fld d W.VLY_ENERGY_E) true

/-- R370: a swap runs between the SOURCE and another party. -/
def swapParties (d : Device) (a : Nat) : Bool :=
  if vlyRole d = 1 then
    (fld d W.VLY_CONTRACT_SINKS).testBit a || (flag d W.VLY_CONTRACT_STANDBY_VALID && fld d W.VLY_CONTRACT_STANDBY = a)
  else a = fld d W.VLY_CONTRACT_SOURCE

/-- R370-R372: a SWAP_REQ of address `a`. -/
def takeSwapReq (a : Nat) (w1 w2 : Word) (d : Device) : Device :=
  let cn := bitsOf w1 7 0
  let seq := bitsOf w2 31 24
  let t := bitsOf w1 31 16 + 65536 * bitsOf w2 15 0
  let after := bitsOf w1 12 11
  let say := fun (r : Nat) (d : Device) => sendReject cn r a seq d
  if bitsOf w1 10 8 ≠ strapOf d then d
  else if !thatchReady d then busyAnswer cn a seq d
  else if vlyRole d = 0 || cn ≠ fld d W.VLY_STATUS_CN || after = 3 || !swapParties d a then say 9 d
  else
    let bar := if vlyRole d = 1 then none else incomingBar d
    match bar, d.vly.swap with
    | some r, _ => say r d
    | none, none => acceptSwap a after t seq cn d
    | none, some x =>
      if x.tX.isSome then say 5 d
      else if x.own && x.peer ≠ a && vlyRole d ≠ 1 then say 5 d
      else if winsOver t a x.reqTime (if x.own then strapOf d else x.peer) then
        acceptSwap a after t seq cn (if x.own then d else outrun cn x (raise 520 d))
      else say 1 (raise 520 d)

/-- R370: a SWAP_ACK of address `a`. -/
def takeSwapAck (a : Nat) (w1 w2 : Word) (d : Device) : Device :=
  let cn := bitsOf w1 7 0
  let low := bitsOf w1 31 16 + 65536 * bitsOf w2 15 0
  let tX := d.link.fn + (low + 2 ^ 32 - d.link.fn % 2 ^ 32) % 2 ^ 32
  if vlyRole d = 0 || cn ≠ fld d W.VLY_STATUS_CN then d
  else if bitsOf w1 10 8 ≠ strapOf d then
    (if vlyRole d = 3 && fld d W.VLY_CONTRACT_SOURCE ≠ strapOf d then { d with vly := { d.vly with suspended := some tX } } else d)
  else match d.vly.swap with
    | some x =>
      if x.own && x.peer = a && x.tX.isNone then
        (match (if x.incoming then incomingBar d else none) with
         | some r => cancelSwap (sendReject cn r a (bitsOf w2 31 24) d)
         | none => acknowledged tX d)
      else d
    | none => d

def opOffer (a mode : Nat) (w1 w2 : Word) (d : Device) : Device := messageSeen a mode 8 w1 w2 (takeOffer a w1 w2) d
def opRequest (a mode : Nat) (w1 w2 : Word) (d : Device) : Device := messageSeen a mode 9 w1 w2 (takeRequest a w1 w2) d
def opAccept (a mode : Nat) (w1 w2 : Word) (d : Device) : Device := messageSeen a mode 10 w1 w2 (takeAccept w1 w2 a) d
def opReject (a mode : Nat) (w1 w2 : Word) (d : Device) : Device := messageSeen a mode 11 w1 w2 (takeReject a w1) d
def opSwapReq (a mode : Nat) (w1 w2 : Word) (d : Device) : Device := messageSeen a mode 12 w1 w2 (takeSwapReq a w1 w2) d
def opSwapAck (a mode : Nat) (w1 w2 : Word) (d : Device) : Device := messageSeen a mode 13 w1 w2 (takeSwapAck a w1 w2) d

/-! ### Messages placed and sent (R298, R360, R361) -/

/-- R361, R372: the Purlin gate's check of a message that Thatch places. -/
def gateBars (d : Device) (type : Nat) (w1 w2 : Word) : Bool :=
  match type with
  | 6 => !isHolder d
  | 8 => (sourceBar d 0 false).isSome
  | 10 =>
    let c := acceptOf w1 w2
    (contractBar d c).isSome || (vlyRole d = 0 && (sourceBar d c.e false).isSome)
  | 12 => vlyRole d = 0 || d.vly.swap.isSome || d.roofTime < d.vly.swapFrom || !swapParties d (bitsOf w1 10 8)
      || (vlyRole d ≠ 1 && (incomingBar d).isSome)
  | 13 => d.vly.swap.isNone
  | _ => false

/-- R298, R370: Thatch (types 0x8-0xD) or Purlin places a message; a SWAP_REQ carries the roof time at which it enters. -/
def opMessagePlaced (type : Nat) (w1 w2 : Word) (d : Device) : Device :=
  if linkState d = 0 || type < 6 || 13 < type || (8 ≤ type && !thatchReady d) || gateBars d type w1 w2 then d
  else if type = 12 then
    let t := d.roofTime % 2 ^ 32
    let w1 := putBits w1 31 16 (t % 65536)
    let w2 := putBits w2 15 0 (t / 65536)
    let x : Swap := { peer := bitsOf w1 10 8, incoming := vlyRole d ≠ 1, after := bitsOf w1 12 11, reqTime := t,
                      seq := bitsOf w2 31 24, own := true }
    placeQ16 12 w1 w2 (setFld { d with vly := { d.vly with swap := some x } } W.VLY_STATUS_SWAP 1)
  else if type = 10 then placeAccept (acceptOf w1 w2) false d
  else if type = 9 then placeQ16 9 w1 w2 { d with vly := { d.vly with reqTo := some (bitsOf w1 2 0) } }
  else placeQ16 type w1 w2 d

/-- R370: the SWAP_ACK that leaves in frame `fn` carries FN of T_X. -/
def ackWords (fn : Nat) (w1 w2 : Word) : Word × Word :=
  (putBits w1 31 16 ((fn + 3) % 65536), putBits w2 15 0 ((fn + 3) / 65536 % 65536))

/-- R360, R367, R370: what a message of this member means for itself once its slot of frame `fn` has been sent. -/
def ownSent (type : Nat) (w1 w2 : Word) (fn : Nat) (d : Device) : Device :=
  match type with
  | 10 =>
    if inMode d operModes then { d with vly := { d.vly with pend := some (acceptOf w1 w2, fn), proposed := none } } else d
  | 11 =>
    let reason := bitsOf w1 15 8
    let ends := vlyRole d ≠ 0 && bitsOf w1 7 0 = fld d W.VLY_STATUS_CN
      && (if vlyRole d = 1 then (reason = 0 || reason = 6 || reason = 8) && bitsOf w1 18 16 = strapOf d
          else reason = 0 && bitsOf w1 18 16 = fld d W.VLY_CONTRACT_SOURCE)
    if ends then { d with vly := { d.vly with endAt := some (fn + 2) } } else d
  | 13 => acknowledged (fn + 3) d
  | _ => d

/-! ### The switch (R354-R357, R364, R365) -/

/-- R354, R364: the line has been safe-low for 100 microseconds within the 500 ms that the SOURCE waits. -/
def opSafeLowStart (d : Device) : Device :=
  match d.vly.safeFrom, d.vly.lowFrom with
  | some w, some t =>
    if vlyRole d = 1 && vlySw d = 0 && t + 10000 ≤ w + 50000000 then
      let d := advanceTo (t + 10000) d
      setSw 2 { d with vly := { d.vly with safeFrom := none, softAt := d.roofTime } }
    else d
  | _, _ => d

/-- R355: VLY is within 200 mV of HOLD. -/
def opSoftstartDone (d : Device) : Device := if vlySw d = 2 then raise 516 (setSw 3 d) else d

/-- R355: HOLD divided by the slope of VLY_SLEW, and 2 ms. -/
def softLimit (d : Device) : Nat := adcCode d 96 * 4 * 200 / (fld d W.VLY_CFG_VLY_SLEW + 1) + 200000

/-- R355, R364: softstart, or the wait for a safe-low line, has run out of time. -/
def opStartFail (d : Device) : Device :=
  if vlyRole d = 1 && (vlySw d = 2 || d.vly.safeFrom.isSome) then
    let d := match d.vly.safeFrom with
      | some t => advanceTo (t + 50000000) d
      | none => advanceTo (d.vly.softAt + softLimit d) d
    askEnd 6 (raise 515 (setSw 0 { d with vly := { d.vly with safeFrom := none } }))
  else d

/-- R356: when the line has been overloaded for 1 ms or short for 10 microseconds. -/
def overloadAt (d : Device) : Option Nat :=
  match d.vly.overFrom.map (· + 100000), d.vly.shortFrom.map (· + 1000) with
  | some a, some b => some (min a b)
  | some a, none => some a
  | none, b => b

/-- R356. -/
def opVlyOverload (d : Device) : Device :=
  match overloadAt d with
  | some t =>
    if 2 ≤ vlySw d then
      let d := raise 521 (setSw 0 (advanceTo t d))
      let d := { d with vly := { d.vly with overFrom := none, shortFrom := none } }
      if vlyRole d = 1 then askEnd 8 d else d
    else d
  | none => d

/-- R357. -/
def opVlyOv (d : Device) : Device :=
  if vlySw d = 1 then raise 522 (setSw 0 (setFlag d W.VLY_STATUS_IN_WINDOW false)) else d

/-- This member takes the line through its diode: a SINK, or the incoming member of an acknowledged swap (R364, R370). -/
def mayDiode (d : Device) : Bool :=
  vlyRole d = 2 || (vlyRole d = 3 && (match d.vly.swap with | some x => x.incoming && x.tX.isSome | none => false))

/-- R364, R370: VLY enters the window. -/
def opSinkDiodeClose (d : Device) : Device :=
  if vlyRole d = 0 then d
  else
    let d := setFlag d W.VLY_STATUS_IN_WINDOW true
    if mayDiode d && vlySw d = 0 then setSw 1 d else d

/-- R365: VLY has lain below V_C x 0.85 for 1 ms. -/
def opSinkLineLow (d : Device) : Device :=
  let rode := ridesLine d
  let d := setFlag d W.VLY_STATUS_IN_WINDOW false
  if d.mode = .holdup && rode then descendNow 2 d else d

/-! ### Fast swap (R373-R375) -/

/-- R373: the line has lain in the window for 1 ms. -/
def opFsArmed (d : Device) : Device :=
  if standsBy d && bkState d = 6 then
    setFlag (setFlag d W.VLY_STATUS_IN_WINDOW true) W.VLY_STATUS_FS_ARMED true
  else d

/-- R370: the STANDBY_SOURCE is suspended from T_X + 100 microseconds. -/
def suspendedNow (d : Device) : Bool :=
  match d.vly.suspended with
  | some f => f * 1000 + 10000 ≤ d.roofTime
  | none => false

/-- R374, R377, R371: the closing of an armed standby or of a member on standby duty; `low` when BK has to hold HOLD up. -/
def closeFast (low : Bool) (d : Device) : Device :=
  let old := fld d W.VLY_CONTRACT_SOURCE
  let a := strapOf d
  let d := match d.vly.swap with
    | some x => if !x.own && x.tX.isNone then sendReject (fld d W.VLY_STATUS_CN) 7 x.peer x.seq d else d
    | none => d
  let d := raise 517 (cancelSwap d)
  let d := setFlag (setRole 1 (setSw 3 d)) W.VLY_STATUS_FS_ARMED false
  let d := leaveStandbyBoost { d with vly := { d.vly with energy := 0, sampleAt := d.roofTime, suspended := none } }
  let d := if bkState d = 3 && low then setBk 4 d else d
  let d := match d.vly.cur with
    | some c => placeAccept { c with
        source := a, standby := none, fsAuth := false,
        sinks := (if old = a then setBitNat c.sinks a false else setBitNat (setBitNat c.sinks a false) old true),
        amend := (c.amend + 1) % 64 } true d
    | none => d
  recompute d

/-- R371, R374: armed and not suspended, or on standby duty. -/
def mayClose (d : Device) : Bool :=
  flag d W.VLY_STATUS_STBY_DUTY || (flag d W.VLY_STATUS_FS_ARMED && !suspendedNow d)

/-- R374: the line has been low for 200 ns. -/
def opFastSwap (low : Bool) (d : Device) : Device := if mayClose d then closeFast low d else d

/-- R375: the SOURCE sees the threshold with an armed standby in its contract. -/
def opSourceToDiode (d : Device) : Device :=
  if vlyRole d = 1 && vlySw d = 3 && standbyAuth d then recompute (sourceToSink d) else d

/-- R367: the contract's energy has been delivered. -/
def opEnergySpent (d : Device) : Device :=
  if vlyRole d = 1 && contractEnergy d ≤ d.vly.energy then askEnd 0 d else d

/-! ### Planned swap (R370) -/

/-- R370: T_X. -/
def opSwapTx (d : Device) : Device :=
  match d.vly.swap with
  | some x =>
    match x.incoming, x.tX with
    | true, some f =>
      let d := advanceTo (f * 1000) d
      if vlySw d = 1 then setFld (setSw 3 d) W.VLY_STATUS_SWAP 3
      else cancelSwap (sendReject (fld d W.VLY_STATUS_CN) 7 x.peer x.seq d)
    | _, _ => d
  | none => d

/-- R370: T_X + 100 microseconds. -/
def opSwapOutgoing (d : Device) : Device :=
  match d.vly.swap with
  | some x =>
    match x.incoming, x.tX with
    | false, some f =>
      if vlyRole d = 1 && vlySw d = 3 then
        let d := setSw 1 (advanceTo (f * 1000 + 10000) d)
        setFlag (setFld d W.VLY_STATUS_SWAP 4) W.VLY_STATUS_STBY_DUTY true
      else d
    | _, _ => d
  | none => d

/-- R370: T_X + 200 microseconds: the amendment names the incoming member SOURCE, with the outgoing member's remaining
promise `e` and the role that the SWAP_REQ named. -/
def opSwapAmend (e : Nat) (d : Device) : Device :=
  match d.vly.swap, d.vly.cur with
  | some x, some c =>
    match x.incoming, x.tX with
    | true, some f =>
      if vlySw d = 3 then
        let a := strapOf d
        let o := c.source
        let c := without a c
        placeAccept { c with
          source := a, e := e, amend := (c.amend + 1) % 64,
          sinks := setBitNat c.sinks o (x.after == 1),
          standby := if x.after = 2 then some o else c.standby } false (advanceTo (f * 1000 + 20000) d)
      else d
    | _, _ => d
  | _, _ => d

/-- R369: a PPS pulse at a multiple of 1 s of roof time. -/
def opPpsPulse (d : Device) : Device :=
  if vlyRole d = 1 && fld d W.VLY_STATUS_AUX_MODE = 1 then advanceTo ((d.roofTime / 100000000 + 1) * 100000000) d else d

/-! ### A lost member (R374, R376) -/

/-- R374, R376: address `x` is lost to the line. -/
def valleyLoss (x : Nat) (low : Bool) (d : Device) : Device :=
  let source := fld d W.VLY_CONTRACT_SOURCE
  let past := fun (f k : Nat) => decide (f * 1000 + k ≤ d.roofTime)
  if vlyRole d = 0 then d
  else match d.vly.swap with
  | some y =>
    match y.peer == x, y.incoming, y.tX with
    | true, false, some f =>
      if past f 10000 then cancelSwap (setSw 3 d)
      else cancelSwap (sendReject (fld d W.VLY_STATUS_CN) 7 x y.seq d)
    | true, false, none => amend (without x) (cancelSwap d)
    | true, true, some f => cancelSwap (if past f 0 && vlySw d = 3 then setSw 1 d else d)
    | true, true, none => cancelSwap d
    | false, _, _ => if vlyRole d = 1 then amend (without x) d else d
  | none =>
    let d := { d with vly := { d.vly with suspended := none } }
    if x = source then
      (if flag d W.VLY_STATUS_FS_ARMED then closeFast low d
       else if standbyAuth d && vlyRole d ≠ 3 then d else endPart d)
    else if vlyRole d = 1 && (fld d W.VLY_CONTRACT_SINKS).testBit x
        || (vlyRole d = 1 && flag d W.VLY_CONTRACT_STANDBY_VALID && fld d W.VLY_CONTRACT_STANDBY = x) then amend (without x) d
    else d

/-! ### ROOF_QUERY, VLY_REQUEST, VLY_END (R434, R435) -/

def opRoofQuery (c : Cmd) (d : Device) : Device :=
  judged c d false 4 [(modeOk .all d, .deniedMode)]
    (fun d => complete c d 4 .ok (getW d W.ROOF_STATUS) (getW d W.LNK_STATUS))

/-- R434: the checks of VLY_REQUEST. -/
def requestChecks (c : Cmd) (d : Device) : List (Bool × Status) :=
  let p0 := c.p 0
  let dst := bitsOf (c.p 1) 31 16
  [(bitsOf p0 31 24 = 0 && bitsOf p0 15 10 = 0 && bitsOf p0 7 1 = 0 && bitsOf p0 9 8 ≠ 3 && 1 ≤ dst && dst ≤ 6000, .badParam),
   (rampToHoldup d, .deniedMode),
   (flag d W.VLY_CFG_VLY_EN && !vlyForbidden d && floorBit d 0 && (!bitOf p0 0 || floorBit d 1), .deniedPermission),
   (bitOf p0 0 || bitsOf p0 23 16 * 100 ≤ vlyIsnkMax d, .deniedEnvelope),
   (vlyRole d = 0, .busy)]

/-- R363, R434: Thatch sends the REQUEST to address `to`, if that has offered, to join contract `cn` (0xFF for a new one). -/
def requestRun (dst cn : Nat) (c : Cmd) (d : Device) : Device :=
  gated c d (requestChecks c) (fun d =>
    let p0 := c.p 0
    let kind := bitOf p0 0
    let bar := if !kind then none else match sourceBar d 0 false with
      | some 9 => some 9
      | some _ => some 3
      | none => none
    match bar with
    | some r => complete c d 0 .aborted 0#32 (BitVec.ofNat 32 r)
    | none =>
      let d := keepRunning c d
      if (offerOf d dst).isSome then
        let w1 := BitVec.ofNat 32 (dst + (if kind then 8 else 0) + bitsOf p0 23 16 * 2 ^ 8 + bitsOf (c.p 1) 15 0 * 2 ^ 16)
        let w2 := BitVec.ofNat 32 (bitsOf p0 9 8 + cn * 2 ^ 8 + d.vly.msgSeq % 256 * 2 ^ 24)
        placeQ16 9 w1 w2 { d with vly := { d.vly with msgSeq := (d.vly.msgSeq + 1) % 256, reqTo := some dst } }
      else d)

/-- The addressee and the contract are Thatch's choice (log 3). -/
def opVlyRequest (c : Cmd) (d : Device) : Device :=
  served c (fun c d => requestRun (c.e 0).toNat (c.e 1).toNat c d) d

/-- R434: no part by the timeout. -/
def opVlyRequestTimeout (d : Device) : Device :=
  match (running d 0x51).find? (fun c => c.wait == 0) with
  | some c =>
    let d := advanceTo (c.startT + bitsOf (c.p 1) 31 16 * 1000000) d
    complete c { d with vly := { d.vly with reqTo := none } } 0 .timeout 0#32 0#32
  | none => d

def opVlyEnd (c : Cmd) (d : Device) : Device :=
  served c (fun c d => gated c d (fun d => [(modeOk .live d, .deniedMode)]) (fun d =>
    if vlyRole d = 0 then complete c d 0 .ok 0#32 0#32 else askEnd 0 (keepRunning c d))) d

/-! ### The rows -/

def execRoofQuery (rq : Req) (s : State) : Host.Outcome State Fault Refusal := on (runRow rq 0x50 [] [] opRoofQuery) s
def execVlyRequest (rq : Req) (p0 p1 : Word) (dst : BitVec 3) (cn : BitVec 8) (s : State) : Host.Outcome State Fault Refusal :=
  on (runRow rq 0x51 [p0, p1] [dst.toNat, cn.toNat] opVlyRequest) s
def execVlyEnd (rq : Req) (s : State) : Host.Outcome State Fault Refusal := on (runRow rq 0x52 [] [] opVlyEnd) s
def execVlyRequestTimeout (s : State) : Host.Outcome State Fault Refusal := on opVlyRequestTimeout s
def execOffer (a : BitVec 3) (mode : BitVec 4) (w1 w2 : Word) (s : State) : Host.Outcome State Fault Refusal :=
  on (fun d => opOffer a.toNat mode.toNat w1 w2 (traceWords a.toNat mode.toNat 8 w1 w2 d)) s
def execRequest (a : BitVec 3) (mode : BitVec 4) (w1 w2 : Word) (s : State) : Host.Outcome State Fault Refusal :=
  on (fun d => opRequest a.toNat mode.toNat w1 w2 (traceWords a.toNat mode.toNat 9 w1 w2 d)) s
def execAccept (a : BitVec 3) (mode : BitVec 4) (w1 w2 : Word) (s : State) : Host.Outcome State Fault Refusal :=
  on (fun d => opAccept a.toNat mode.toNat w1 w2 (traceWords a.toNat mode.toNat 10 w1 w2 d)) s
def execReject (a : BitVec 3) (mode : BitVec 4) (w1 w2 : Word) (s : State) : Host.Outcome State Fault Refusal :=
  on (fun d => opReject a.toNat mode.toNat w1 w2 (traceWords a.toNat mode.toNat 11 w1 w2 d)) s
def execSwapReq (a : BitVec 3) (mode : BitVec 4) (w1 w2 : Word) (s : State) : Host.Outcome State Fault Refusal :=
  on (fun d => opSwapReq a.toNat mode.toNat w1 w2 (traceWords a.toNat mode.toNat 12 w1 w2 d)) s
def execSwapAck (a : BitVec 3) (mode : BitVec 4) (w1 w2 : Word) (s : State) : Host.Outcome State Fault Refusal :=
  on (fun d => opSwapAck a.toNat mode.toNat w1 w2 (traceWords a.toNat mode.toNat 13 w1 w2 d)) s
def execQ16MessagePlaced (type : BitVec 4) (w1 w2 : Word) (s : State) : Host.Outcome State Fault Refusal :=
  on (opMessagePlaced type.toNat w1 w2) s
def execContractBegin (s : State) : Host.Outcome State Fault Refusal := on opContractBegin s
def execSafeLowStart (s : State) : Host.Outcome State Fault Refusal := on opSafeLowStart s
def execSoftstartDone (s : State) : Host.Outcome State Fault Refusal := on opSoftstartDone s
def execStartFail (s : State) : Host.Outcome State Fault Refusal := on opStartFail s
def execVlyOverload (s : State) : Host.Outcome State Fault Refusal := on opVlyOverload s
def execVlyOv (s : State) : Host.Outcome State Fault Refusal := on opVlyOv s
def execSinkDiodeClose (s : State) : Host.Outcome State Fault Refusal := on opSinkDiodeClose s
def execSinkLineLow (s : State) : Host.Outcome State Fault Refusal := on opSinkLineLow s
def execFsArmed (s : State) : Host.Outcome State Fault Refusal := on opFsArmed s
def execFastSwap (low : Bool) (s : State) : Host.Outcome State Fault Refusal := 
  on (fun d => opFastSwap low (traceComp 185 true 40 d)) s
def execSourceToDiode (s : State) : Host.Outcome State Fault Refusal := on opSourceToDiode s
def execEnergySpent (s : State) : Host.Outcome State Fault Refusal := on opEnergySpent s
def execSwapTx (s : State) : Host.Outcome State Fault Refusal := on opSwapTx s
def execSwapOutgoing (s : State) : Host.Outcome State Fault Refusal := on opSwapOutgoing s
def execSwapAmend (e : BitVec 16) (s : State) : Host.Outcome State Fault Refusal := on (opSwapAmend e.toNat) s
def execPpsPulse (s : State) : Host.Outcome State Fault Refusal := on opPpsPulse s

end Sys2Proof.Machine
end

