-- ==== Sys2Proof/Machine/Link.lean ====
section
/-! DEFINITION. The ridge link (11): frame starts and roof time (R291, R310), slots sent and received (R297, R318), joining
and calibration (R306-R308), the holder's election, handover and loss (R313-R317), link errors (R319, R320). -/

namespace Sys2Proof.Machine

def linkEn (d : Device) : Bool := flag d W.LNK_CTRL_LINK_EN

/-! ### What a frame start does (R328, R343, R367) -/

/-- R328: the repetition of START or DOWN in this frame. -/
def repeatAnnounce (fn : Nat) (d : Device) : Device :=
  match d.link.repeatMsg with
  | some (w1, w2, last) =>
    if fn ≤ last then placeQ16 6 w1 w2 d else { d with link := { d.link with repeatMsg := none } }
  | none => d

/-- The holder's duties in a frame. -/
def holderFrame (fn : Nat) (d : Device) : Device :=
  if !isHolder d then d
  else
    let p := phaseNext d fn
    let was := roofPhase d
    let d := if p = was then d else setPhase p d
    let d := if p = 0 && was ≠ 0 then roofIdle d else d
    sendState fn (repeatAnnounce fn (putEligible d))

/-- R296, R318: the slot errors of the last 256 frames. -/
def recentErrors (fn : Nat) (d : Device) : List Nat := d.link.errFrames.filter (fun f => fn < f + 256)

/-- The start of frame `fn`: messages of the frame before have been read (log 3), a part whose end is due ends, a DOWN
whose T_D it is begins, messages are placed. -/
def frameTick (fn : Nat) (d : Device) : Device :=
  let d := { d with link := { d.link with fn := fn, q17 := [], errFrames := recentErrors fn d } }
  let d := if d.link.errFrames.length < fld d W.LNK_CTRL_ERR_TH then { d with link := { d.link with burst := false } } else d
  let d := match d.vly.endAt with
    | some f => if f ≤ fn then endPart { d with vly := { d.vly with endAt := none } } else d
    | none => d
  if partOf d = 4 then d else sendAgree fn (holderFrame fn (dueDown fn (applyHold d)))

/-- R291: symbols 0 and 1 of frame `fn`: K28.7 or K28.1, and byte FN mod 8 of FN_c. -/
def startSymbols (fn : Nat) : Nat × Nat := (if fn % 8 = 0 then 7 else 1, (fn - fn % 8) / 2 ^ (8 * (fn % 8)) % 256)

/-- R291, R309: the holder drives the start of its next frame, unless an insertion holds the bus (R301). -/
def opFrameStartTx (d : Device) : Device :=
  if !isHolder d || linkState d = 0 || linkState d = 9 then d
  else
    let t := if d.link.driven = 0 then (d.roofTime + 999) / 1000 * 1000 else (d.roofTime / 1000 + 1) * 1000
    let d := advanceTo t d
    frameTick (t / 1000) (if t < d.link.busyTo then d else { d with link := { d.link with
      driven := min (d.link.driven + 1) 17, start := startSymbols (t / 1000) } })

/-- R291: the frame starts of a cycle of eight that have come without a gap, the present one `fn` counted. -/
def cycleStart (fn : Nat) (l : LinkSt) : LinkSt :=
  if fn % 8 = 0 then { l with zeroFn := some fn, cycle := 1 }
  else if l.zeroFn = some (fn - fn % 8) ∧ l.cycle = fn % 8 then { l with cycle := l.cycle + 1 }
  else { l with zeroFn := none, cycle := 0 }

/-- R306, R291: the frame starts of a joining device: hunt ends on two at the spacing of a frame; FN is known at the end of the
first complete cycle of eight. -/
def joinStart (fn : Nat) (spaced : Bool) (d : Device) : Device :=
  let known := d.link.known || d.link.cycle = 8
  let l := { (cycleStart fn d.link) with heard := true, known := known, guardSent := false }
  if linkState d = 1 && l.heard && spaced then setLink 2 { d with link := { l with acq := some fn, guardSent := false, placed := 0 } }
  else { d with link := l }

/-- R310: roof time goes on to the instant `t`; a step forward that the last frame start asked for is made on the way. -/
def arriveAt (t : Nat) (d : Device) : Device :=
  let by_ := d.link.stepBy
  let d := { d with link := { d.link with stepBy := 0 } }
  if by_ ≠ 0 ∧ d.roofTime < t then passCycles (t - d.roofTime - by_) { d with roofTime := t } else advanceTo t d

/-- R310: a frame start arrives `off` units of 0.625 ns from the holder's roof time: OFFSET, and the correction. -/
def correct (fn : Nat) (off : Int) (d : Device) : Device :=
  let d := setW (arriveAt ((fn : Int) * 1000 + off / 16).toNat d) W.LNK_OFFSET (BitVec.ofInt 32 off)
  if off < -1600 then { d with link := { d.link with stepBy := off.natAbs / 16, half := false } }
  else if 1600 < off then { d with link := { d.link with half := true } }
  else
    let d := if off.natAbs ≤ 16 then { d with link := { d.link with half := false } } else d
    if d.link.half then d
    else if 16 ≤ off then passCycles 1 d
    else if off ≤ -16 then { d with roofTime := d.roofTime + 1 }
    else d

/-- R310, R317, R320: a frame start is received. -/
def opFrameStartRx (fn : Nat) (off : Int) (spaced : Bool) (d : Device) : Device :=
  if linkState d = 0 || isHolder d then d
  else if linkState d = 9 then setLink (huntState d) d
  else
    let d := settle 4 (count 0x4B d)
    let d := joinStart fn spaced d
    let d := setFlag d W.LNK_STATUS_HOLDOVER false
    let d := if (linkState d = 5 || linkState d = 6) && disciplined d then setLink 4 d else d
    if d.link.known then frameTick fn (updateSuspect (correct fn off d)) else d

/-! ### Slots sent (R292-R297) -/

/-- The frame in which the device stands. -/
def frameNow (d : Device) : Nat := d.roofTime / 1000

/-- R296: the payload of STATUS as two words. -/
def statusWords (d : Device) : Word × Word :=
  let claim := linkState d = 6 && linkEligible d
  let hand := isHolder d && d.link.handTo.isSome
  let f := (if isHolder d then 1 else 0) + (if disciplined d then 2 else 0) + (if flag d W.LNK_STATUS_HOLDOVER then 4 else 0)
    + (if linkEligible d then 8 else 0) + (if claim then 16 else 0) + (if hand then 32 else 0)
  let b1 := fld d W.LNK_STATUS_HOLDER + (d.link.handTo.getD 0) % 8 * 8
  let off := (getW d W.LNK_OFFSET).toNat
  (BitVec.ofNat 32 (f + b1 * 2 ^ 8 + off % 65536 * 2 ^ 16),
   BitVec.ofNat 32 (off / 65536 + min d.link.errFrames.length 65535 * 2 ^ 16))

/-- R296: PRESENCE and DIGEST. -/
def presenceWords (d : Device) : Word × Word :=
  (BitVec.ofNat 32 (Config.linkMajor % 256 + Config.linkMinor % 256 * 2 ^ 8 + fld d W.ROOF_COMPAT_OWN_COMPAT * 2 ^ 16),
   BitVec.ofNat 32 (fld d W.ROOF_FLOOR_OWN_FEATURES))

def digestWords (d : Device) : Word × Word := (lowW d.otp.digest, highW d.otp.digest)

/-- R296: ECHO of an insertion. -/
def echoWords (u : Urg) : Word × Word :=
  (BitVec.ofNat 32 (u.kind + u.data * 2 ^ 8 + u.fn % 65536 * 2 ^ 16),
   BitVec.ofNat 32 (u.fn / 65536 % 65536 + u.sym * 2 ^ 16))

/-- R296: CAL_RESP. -/
def calRespWords (c : CalResp) : Word × Word :=
  let v := (c.value % 2 ^ 32).toNat
  (BitVec.ofNat 32 (c.target + c.kind * 2 ^ 8 + v % 65536 * 2 ^ 16), BitVec.ofNat 32 (v / 65536 + c.seq % 256 * 2 ^ 16))

/-- R292-R294: the bytes of a slot: header, P0-P7, CRC. -/
def slotBytes (d : Device) (type : Nat) (w1 w2 : Word) : List Nat :=
  let bs := (d.mode.code * 16 + type) :: (wordBytesLE w1 ++ wordBytesLE w2)
  let c := crc16 bs
  bs ++ [c / 256, c % 256]

/-- R301, R298: a slot of `type` leaves, and `k` follows it; an abandoned one is counted and sent again. -/
def sendSlot (abandoned : Bool) (type : Nat) (w : Word × Word) (k : Device → Device) (d : Device) : Device :=
  if abandoned then settle 4 (count 0x4A (addSat d W.LNK_TX_ABANDONED 1))
  else k { d with link := { d.link with sent := slotBytes d type w.1 w.2 } }

/-- R314: the lowest eligible follower below the holder that has been disciplined for 16 frames. -/
def handTarget (d : Device) : Option Nat :=
  (List.range (strapOf d)).find? (fun a =>
    present d a && (peer d a).eligible && (peer d a).disciplined && (peer d a).discFrom + 16 ≤ d.link.fn)

/-- R314: the holder names its handover target. -/
def chooseTarget (d : Device) : Device :=
  if isHolder d && flag d W.LNK_CTRL_HANDOVER_EN && d.link.handTo.isNone then
    { d with link := { d.link with handTo := handTarget d } }
  else d

/-- R297: the first payload that applies. -/
def fillSlot (abandoned : Bool) (d : Device) : Device :=
  let fn := frameNow d
  match d.link.urgOut, d.link.calResp, isHolder d, linkState d == 3 with
  | u :: t, _, _, _ =>
    sendSlot abandoned 5 (echoWords u) (fun d => { d with link := { d.link with urgOut := t } }) d
  | [], c :: t, true, _ =>
    sendSlot abandoned 3 (calRespWords c) (fun d => { d with link := { d.link with calResp := t } }) d
  | [], _, false, true =>
    sendSlot abandoned 4 (BitVec.ofNat 32 (d.link.calSeq % 256), 0#32)
      (fun d => { d with link := { d.link with calSeq := (d.link.calSeq + 1) % 256 } }) d
  | [], _, _, _ =>
    if fn % 16 = 0 then sendSlot abandoned 1 (presenceWords d) id d
    else if fn % 16 = 8 then sendSlot abandoned 2 (digestWords d) id d
    else match d.link.q16 with
      | (type, w1, w2) :: t =>
        let w := if type = 13 then ackWords fn w1 w2 else (w1, w2)
        sendSlot abandoned type w (fun d => ownSent type w.1 w.2 fn { d with link := { d.link with q16 := t } }) d
      | [] =>
        let d := chooseTarget d
        let claim := linkState d = 6 && linkEligible d
        sendSlot abandoned 0 (statusWords d) (fun d =>
          if claim then { d with link := { d.link with claims := setBitNat d.link.claims (strapOf d) true } } else d) d

/-- R292, R295, R297, R301, R330: the device's slot comes; one whose time an insertion takes is not sent. -/
def opSlotTx (abandoned : Bool) (d : Device) : Device :=
  if linkState d < 3 || linkState d = 8 || linkState d = 9 then d
  else
    let at_ := frameNow d * 1000 + (4 + 12 * strapOf d) * 10
    let d := noteMissing (advanceTo at_ d)
    if at_ < d.link.busyTo then d
    else if partOf d = 4 then sendSlot abandoned 1 (presenceWords d) id d else fillSlot abandoned d

/-! ### Slots received -/

/-- R318, R303: a slot of address `a` is discarded: interrupted by an insertion, or with an error. -/
def opSlotError (a : Nat) (preempted : Bool) (d : Device) : Device :=
  if !hears d then d
  else if preempted then addSat d W.LNK_ERRCNT_PREEMPTED 1 a
  else
    let d := settle 4 (count (0x40 + a) (addSat d W.LNK_ERRCNT_ERRORS 1 a))
    let es := d.link.fn :: recentErrors d.link.fn d
    let d := { d with link := { d.link with errFrames := es } }
    if !d.link.burst && fld d W.LNK_CTRL_ERR_TH ≠ 0 && fld d W.LNK_CTRL_ERR_TH ≤ es.length then
      raise 458 { d with link := { d.link with burst := true } }
    else d

/-- R296, R315, R316: a STATUS of address `a`: flags P0, byte P1. -/
def takeStatus (a flags p1 : Nat) (d : Device) : Device :=
  let was := (peer d a).disciplined
  let now := flags.testBit 1
  let d := modPeer a (fun p => { p with
    disciplined := now, discFrom := if now && !was then d.link.fn else p.discFrom, eligible := flags.testBit 3 }) d
  let d := if flags.testBit 4 then { d with link := { d.link with claims := setBitNat d.link.claims a true } } else d
  let d := if flags.testBit 5 && a = fld d W.LNK_STATUS_HOLDER then { d with link := { d.link with handTo := some (p1 / 8 % 8) } } else d
  if !flags.testBit 0 then d
  else if isHolder d then (if a < strapOf d then newHolder a (stopHolding d) else d)
  else newHolder a d

def opStatus (a mode flags p1 : Nat) (d : Device) : Device := slotSeen a mode (takeStatus a flags p1) d

/-- R329: the holder's PRESENCE or DIGEST judges this device. -/
def judgeBy (a : Nat) (d : Device) : Device :=
  if flag d W.LNK_STATUS_HOLDER_VALID && a = fld d W.LNK_STATUS_HOLDER then judge d else d

/-- R296, R329, R330: a PRESENCE; a PRESENCE_ONLY device takes it too. -/
def opPresence (a mode major compat features : Nat) (d : Device) : Device :=
  let take := fun d => judgeBy a (modPeer a (fun p => { p with proto := some major, compat := compat, features := features }) d)
  if partOf d = 4 then (if hears d && a ≠ strapOf d then take (slotPresent a mode d) else d) else slotSeen a mode take d

/-- R331: on the holder, its digest stands alone while two others share another. -/
def mustResign (d : Device) : Bool :=
  let others := (List.range 8).filter (fun a => a ≠ strapOf d && present d a)
  let ds := others.filterMap (fun a => (peer d a).digest)
  isHolder d && !ds.contains d.otp.digest && ds.any (fun x => 2 ≤ (ds.filter (fun y => y == x)).length)

/-- R331: the holder resigns; at the end of the frame it stops driving frame starts, and the election follows. -/
def resign (d : Device) : Device :=
  if mustResign d then
    let d := setPart 3 6 (setFlag d W.ROOF_STATUS_RESIGNED true)
    setLink 6 (setFlag (stopHolding (raise 493 d)) W.LNK_STATUS_HOLDER_VALID false)
  else d

def opDigest (a mode digest : Nat) (d : Device) : Device :=
  slotSeen a mode (fun d => resign (judgeBy a (modPeer a (fun p => { p with digest := some digest }) d))) d

/-- R307: the holder answers with the slot placement error. -/
def opCalReq (a mode seq : Nat) (err : Int) (d : Device) : Device :=
  slotSeen a mode (fun d =>
    if isHolder d then
      { d with link := { d.link with calResp := d.link.calResp ++ [{ target := a, kind := 1, value := err, seq := seq }] } }
    else d) d

/-- R306: a CAL_RESP of the holder for this device: the round trip, or a placement error. -/
def takeCalResp (kind : Nat) (v : Int) (d : Device) : Device :=
  if kind = 0 then
    (if linkState d = 2 && d.link.guardSent then
      setLink 3 (setFld { d with link := { d.link with placed := 0, calSeq := 0 } } W.LNK_DELAY_RTT (v % 65536).toNat)
     else d)
  else if kind = 1 && linkState d = 3 then
    { d with link := { d.link with placed := if v.natAbs ≤ 4 then min (d.link.placed + 1) 4 else 0 } }
  else d

def opCalResp (a mode target kind : Nat) (v : Int) (d : Device) : Device :=
  slotSeen a mode (fun d =>
    if target = strapOf d && a = fld d W.LNK_STATUS_HOLDER then takeCalResp kind v d else d) d

/-- FN mod 8 of the present frame, once the device knows it (R291). -/
def frameOfEight (d : Device) : Option Nat :=
  if d.link.known then some (d.link.fn % 8)
  else match d.link.cycle with
    | 0 => none
    | n + 1 => some n

/-- R306, R307: the guard exchange of address `a`: the joining device has sent its comma; the holder has measured the round
trip and answers in its slot of this frame. -/
def opGuardExchange (a : Nat) (rtt : Int) (d : Device) : Device :=
  if frameOfEight d ≠ some a then d
  else if isHolder d && a ≠ strapOf d then
    { d with link := { d.link with calResp := { target := a, kind := 0, value := rtt, seq := 0 } :: d.link.calResp } }
  else if linkState d = 2 && a = strapOf d then { d with link := { d.link with guardSent := true } }
  else d

/-! ### Discipline (R308, R309, R317) -/

/-- R308, R55: the device is disciplined. -/
def beDisciplined (d : Device) : Device :=
  let d := setFlag (setFlag d W.LNK_STATUS_DISCIPLINED true) W.COLD_STATUS_LINK_UNDISCIPLINED false
  tryStart (updateSuspect (raise 450 d))

/-- R306, R309: placement and 16 frames are complete; a holder has driven 16 frames; a device alone has counted 16 frame
periods. -/
def opDisciplined (d : Device) : Device :=
  if disciplined d then d
  else if alone d then
    (if 4 ≤ fld d W.MODE_STATUS_BOOT_STAGE && !inMode d [.dormant, .standby] then
      beDisciplined (advanceTo (d.link.startAt + 16000) d) else d)
  else if isHolder d then (if 17 ≤ d.link.driven then beDisciplined d else d)
  else if linkState d = 3 && 4 ≤ d.link.placed && d.link.known
      && (match d.link.acq with | some f => f + 16 ≤ d.link.fn | none => false) then
    beDisciplined (setLink 4 d)
  else d

/-- R308, R317: acquisition is lost: the device is no longer disciplined and hunts. -/
def loseLink (state : Nat) (d : Device) : Device :=
  let d := setFlag (setFlag (setLink state d) W.LNK_STATUS_DISCIPLINED false) W.LNK_STATUS_HOLDOVER false
  let d := setFlag (setFlag d W.LNK_STATUS_HOLDER_VALID false) W.LNK_STATUS_IS_HOLDER false
  let d := setFlag d W.COLD_STATUS_LINK_UNDISCIPLINED true
  let d := { d with link := { d.link with
    acq := none, zeroFn := none, cycle := 0, known := false, guardSent := false, placed := 0, half := false, calResp := [],
    claims := 0, heard := true } }
  updateSuspect d

/-- R317: no frame start has come for 16 frames. -/
def opHoldoverLimit (d : Device) : Device :=
  if isHolder d || linkState d < 2 || 7 ≤ linkState d then d
  else loseLink 1 (raise 451 (if d.link.known then advanceTo ((d.link.fn + 17) * 1000) d else d))

/-! ### Holder election, handover, loss (R313-R317) -/

/-- R313: no frame start since the link start: an eligible device becomes holder with FN and roof time 0. -/
def opHolderElection (d : Device) : Device :=
  if linkEn d && linkState d = 1 && linkEligible d && !d.link.heard then
    let d := advanceTo (d.link.startAt + 3000 + 1000 * strapOf d) d
    becomeHolder { d with roofTime := 0, link := { d.link with fn := 0 } }
  else d

/-- R314: after FN mod 16 = 15 the target drives the frame start. -/
def opHolderHandover (d : Device) : Device :=
  match d.link.handTo with
  | some t =>
    if linkState d = 0 || d.link.fn % 16 ≠ 15 then d
    else if t = strapOf d then
      (let d := becomeHolder d
       { d with link := { d.link with driven := if disciplined d then 17 else 0 } })
    else newHolder t (if isHolder d then stopHolding d else d)
  | none => d

/-- R315: the frame start and the holder's slot are missing. -/
def opHolderLost (d : Device) : Device :=
  if isHolder d || linkState d < 4 || 5 < linkState d then d
  else
    let d := setLink 6 (setFlag (raise 449 d) W.LNK_STATUS_HOLDOVER true)
    { d with link := { d.link with claims := 0, zeroFn := none, cycle := 0 } }

/-- R315: at the end of a frame with claims the lowest claiming address becomes holder. -/
def opHolderChange (d : Device) : Device :=
  match bitsIn d.link.claims 8 with
  | [] => d
  | h :: _ =>
    if linkState d = 0 then d
    else if h = strapOf d then
      (let d := becomeHolder d
       { d with link := { d.link with driven := if disciplined d then 17 else 0 } })
    else newHolder h (if linkState d = 6 then setLink (if disciplined d then 4 else 1) d else d)

/-- R318, R348, R376: a member's slot is missing for 3 frames. -/
def opMemberLost (a : Nat) (d : Device) : Device :=
  if !(fld d W.LNK_STATUS_PRESENT).testBit a then d
  else
    let part := takesPart d a
    let d := setFld d W.LNK_STATUS_PRESENT (setBitNat (fld d W.LNK_STATUS_PRESENT) a false)
    let d := raise 453 (modPeer a (fun p => { p with agreed := false, disciplined := false, startReq := false, ready := false }) d)
    if isHolder d then
      let d := valleyLoss a false (insertUrgent 2 a d)
      if part && (requiredMask d).testBit a && (roofPhase d = 1 || roofPhase d = 2) then holderDescend 4 d else d
    else d

/-! ### Link errors (R319, R320) and lost dominance (R302) -/

def opAddrConflict (d : Device) : Device :=
  if linkState d < 2 || linkState d = 9 then d
  else raise 456 (setLink 8 (setFlag d W.LNK_STATUS_ADDR_CONFLICT true))

def opLinkDead (d : Device) : Device := if linkState d = 0 then d else raise 457 (loseLink 9 d)

/-- R302: the originator inserts again; its ECHO names the new place. -/
def opUrgentReinsert (d : Device) : Device :=
  match d.link.urgOut.reverse with
  | u :: t =>
    let n := urgOf u.kind u.data d
    let d := { d with link := { d.link with urgOut := t.reverse ++ [n] } }
    settle 4 (count 0x48 (addSat d W.LNK_TX_URGENT_SENT 1))
  | [] => d

/-! ### The rows -/

def execFrameStartTx (s : State) : Host.Outcome State Fault Refusal := on opFrameStartTx s
def execFrameStartRx (fn : BitVec 64) (off : Int) (spaced : Bool) (s : State) : Host.Outcome State Fault Refusal :=
  on (fun d => opFrameStartRx fn.toNat off spaced (traceEntry 6 2 (wordBytesLE (BitVec.ofNat 32 (off % 2 ^ 32).toNat)) d)) s
def execSlotTx (abandoned : Bool) (s : State) : Host.Outcome State Fault Refusal := on (opSlotTx abandoned) s
def execSlotError (a : BitVec 3) (preempted : Bool) (s : State) : Host.Outcome State Fault Refusal :=
  on (opSlotError a.toNat preempted) s
def execStatus (a : BitVec 3) (mode : BitVec 4) (flags p1 : BitVec 8) (s : State) : Host.Outcome State Fault Refusal :=
  on (fun d => opStatus a.toNat mode.toNat flags.toNat p1.toNat (traceSlot a.toNat mode.toNat 0
    ([flags.toNat, p1.toNat] ++ openBytes 6 d) (drawn d))) s
def execPresence (a : BitVec 3) (mode : BitVec 4) (major : BitVec 8) (compat features : BitVec 16) (s : State) :
    Host.Outcome State Fault Refusal :=
  on (fun d => opPresence a.toNat mode.toNat major.toNat compat.toNat features.toNat (traceSlot a.toNat mode.toNat 1
    ([major.toNat] ++ openBytes 1 d ++ bytesLE 2 compat.toNat ++ bytesLE 2 features.toNat ++ [0, 0]) (drawn d))) s
def execDigest (a : BitVec 3) (mode : BitVec 4) (digest : BitVec 64) (s : State) : Host.Outcome State Fault Refusal :=
  on (fun d => opDigest a.toNat mode.toNat digest.toNat (traceSlot a.toNat mode.toNat 2 (bytesLE 8 digest.toNat) d)) s
def execCalReq (a : BitVec 3) (mode : BitVec 4) (seq : BitVec 8) (err : Int) (s : State) : Host.Outcome State Fault Refusal :=
  on (fun d => opCalReq a.toNat mode.toNat seq.toNat err (traceSlot a.toNat mode.toNat 4 (seq.toNat :: bytesLE 7 0) d)) s
def execCalResp (a : BitVec 3) (mode : BitVec 4) (target kind : BitVec 8) (v : Int) (s : State) :
    Host.Outcome State Fault Refusal :=
  on (fun d => opCalResp a.toNat mode.toNat target.toNat kind.toNat v (traceSlot a.toNat mode.toNat 3
    ([target.toNat, kind.toNat] ++ bytesLE 4 (v % 2 ^ 32).toNat ++ openBytes 1 d ++ [0]) (drawn d))) s
def execGuardExchange (a : BitVec 3) (rtt : Int) (s : State) : Host.Outcome State Fault Refusal :=
  on (opGuardExchange a.toNat rtt) s
def execDisciplined (s : State) : Host.Outcome State Fault Refusal := on opDisciplined s
def execHolderElection (s : State) : Host.Outcome State Fault Refusal := on opHolderElection s
def execHolderHandover (s : State) : Host.Outcome State Fault Refusal := on opHolderHandover s
def execHolderLost (s : State) : Host.Outcome State Fault Refusal := on opHolderLost s
def execHolderChange (s : State) : Host.Outcome State Fault Refusal := on opHolderChange s
def execHoldoverLimit (s : State) : Host.Outcome State Fault Refusal := on opHoldoverLimit s
def execMemberLost (a : BitVec 3) (s : State) : Host.Outcome State Fault Refusal := on (opMemberLost a.toNat) s
def execAddrConflict (s : State) : Host.Outcome State Fault Refusal := on opAddrConflict s
def execLinkDead (s : State) : Host.Outcome State Fault Refusal := on opLinkDead s
def execUrgentReinsert (s : State) : Host.Outcome State Fault Refusal := on opUrgentReinsert s

end Sys2Proof.Machine
end

