-- ==== Sys2Proof/Machine/Roof.lean ====
section
/-! DEFINITION. Acting as one roof (12): urgent insertions received (R303-R305), announces and agreement, the start of the
roof (R333-R337), time disagreement (R341), non-compliance (R347). -/

namespace Sys2Proof.Machine

/-! ### Urgent insertions (R303-R305, R340, R344, R345, R374) -/

/-- What an insertion of a kind (0 FAULT, 1 DESCEND, 2 LOSS, 3 HOLD) with its data byte asks of this device (R325). -/
def urgentAct (kind data : Nat) (d : Device) : Device :=
  let o := data / 32
  let low := data % 32
  match kind with
  | 0 => roofFault o low (applyHold (phaseOn 0 low d))
  | 1 => roofDescend o (applyHold (phaseOn 1 low d))
  | 2 => valleyLoss (low % 8) false d
  | _ => if participating d then putHold o (low % 2 == 1) d else d

/-- R303, R304: LNK_URGENT and the record of an insertion acted on. -/
def urgentRecord (u : Urg) (echo : Bool) (d : Device) : Device :=
  let d := { d with link := { d.link with acted := (u :: d.link.acted).take 16 } }
  let d := setFld (setFld d W.LNK_URGENT_FN_LOW (u.fn % 256)) W.LNK_URGENT_DATA u.data
  let d := setFlag (setFld d W.LNK_URGENT_KIND u.kind) W.LNK_URGENT_VIA_ECHO echo
  settle 4 (count 0x49 (setFlag d W.LNK_URGENT_VALID true))

/-- R303, R305: an insertion is received; its break began in symbol `sym` of frame `fn`. -/
def opUrgent (u : Urg) (d : Device) : Device :=
  if !hears d then d else urgentAct u.kind u.data (urgentRecord u false (raise 454 (holdBus (d.roofTime - 23) d)))

/-- R304: an ECHO; one whose insertion has been acted on is ignored. -/
def opEcho (a mode : Nat) (u : Urg) (d : Device) : Device :=
  slotSeen a mode (fun d =>
    if d.link.acted.any (fun v => v.fn == u.fn && v.sym == u.sym && v.data == u.data) then d
    else urgentAct u.kind u.data (urgentRecord u true (raise 455 d))) d

/-! ### ANNOUNCE and AGREE received (R326-R328, R336-R338) -/

/-- A 32-bit frame number that an announce carries, seen from the present frame. -/
def fullFn (d : Device) (low : Nat) : Nat := d.link.fn + (low + 2 ^ 32 - d.link.fn % 2 ^ 32) % 2 ^ 32

/-- R326: an ANNOUNCE of the present holder; `k` applies the first copy of each sequence (R328). -/
def announced (a mode seq : Nat) (w1 w2 : Word) (k : Device → Device) (d : Device) : Device :=
  messageSeen a mode 6 w1 w2 (fun d =>
    if !flag d W.LNK_STATUS_HOLDER_VALID || a ≠ fld d W.LNK_STATUS_HOLDER || isHolder d || d.link.annSeen = some seq then d
    else k { d with link := { d.link with annSeen := some seq, annSeq := seq } }) d

/-- R336, R337, R340: a participant fixes T0, or is LATE. -/
def startAt (mask fnT0 : Nat) (degraded : Bool) (d : Device) : Device :=
  if !participating d then d
  else
  let d := setFld { d with link := { d.link with t0Fn := some fnT0 } } W.ROOF_HOLD_HOLD_TOTAL 0
  if mask.testBit (strapOf d) && ownReady d then
    let d := setFlag { d with link := { d.link with begun := true } } W.ROOF_STATUS_DEGRADED degraded
    raise 484 (fixT0 (fnT0 * 1000) (if degraded then raise 486 d else d))
  else if d.mode = .boot then setPart 5 0 d
  else d

/-- R326: the words of START and DOWN as received. -/
def frameOf (w1 w2 : Word) : Nat := bitsOf w1 31 16 + 65536 * bitsOf w2 15 0

def opAnnounceStart (a mode : Nat) (w1 w2 : Word) (d : Device) : Device :=
  announced a mode (bitsOf w2 31 24) w1 w2
    (fun d => startAt (bitsOf w1 15 8) (fullFn d (frameOf w1 w2)) (bitOf w2 16) d) d

/-- R343, R332, R337: STATE. -/
def takeState (phase parts floor : Nat) (d : Device) : Device :=
  let was := roofPhase d
  let d := setFld (setPhase phase d) W.ROOF_MEMBERS_PARTICIPATING parts
  let oldFloor := fld d W.ROOF_FLOOR_FLOOR
  let d := setFld d W.ROOF_FLOOR_FLOOR floor
  let d := if oldFloor = floor then d else raise 483 d
  let d := if phase = 0 && was ≠ 0 then roofIdle d else d
  if phase = 2 && participating d && d.mode = .boot && d.seq.t0 = none then setPart 5 0 d else d

def opAnnounceState (a mode : Nat) (w1 w2 : Word) (d : Device) : Device :=
  announced a mode (bitsOf w2 31 24) w1 w2
    (fun d => updateSuspect (takeState (bitsOf w1 15 8 % 16) (bitsOf w1 23 16) (bitsOf w2 15 0) d)) d

/-- R338: a DOWN is received: its descent begins with the frame it names. -/
def opAnnounceDown (a mode : Nat) (w1 w2 : Word) (d : Device) : Device :=
  announced a mode (bitsOf w2 31 24) w1 w2 
    (fun d => if participating d then { d with link := { d.link with down := some (bitsOf w1 15 8, fullFn d (frameOf w1 w2)) } } else d) d

/-- R343: a mode complies with the phase. -/
def complies (phase m : Nat) : Bool :=
  match phase with
  | 1 => m == 2
  | 2 => 3 ≤ m && m ≤ 6
  | 3 => 4 ≤ m && m ≤ 6
  | 4 => m == 7 || m == 2 || m == 8 || m == 11 || m == 1 || m == 0
  | 5 => m == 7 || m == 8 || m == 2
  | _ => true

/-- R327, R337, R331, R348: an AGREE of address `a`: flags P0, cause P1; it takes part again once its mode complies. -/
def takeAgree (a flags cause : Nat) (d : Device) : Device :=
  let was := peer d a
  let wasExcl := (fld d W.ROOF_MEMBERS_EXCLUDED).testBit a
  let back := complies (roofPhase d) (modeOfAddr d a)
  let d := modPeer a (fun p => { p with
    agreed := p.agreed || back, ready := flags.testBit 0, startReq := flags.testBit 1, excluded := flags.testBit 2
    late := flags.testBit 4, reqAt := if flags.testBit 1 && !was.startReq then d.roofTime else p.reqAt }) d
  let d := putMember a flags d
  let d := if flags.testBit 2 && !wasExcl then raise 481 d else d
  let d := if flags.testBit 4 && !was.late && (fld d W.ROOF_STATUS_REQUIRED).testBit a then raise 494 d else d
  if cause = 6 && !wasExcl then raise 493 d else d

def opAgree (a mode : Nat) (w1 w2 : Word) (d : Device) : Device :=
  messageSeen a mode 7 w1 w2 (takeAgree a (bitsOf w1 7 0) (bitsOf w1 11 8)) d

/-! ### Starting the roof (R333-R335) -/

/-- R334: the START that the holder sends: participants that are READY, T0 at 20 frames from now. -/
def sendStart (degraded : Bool) (d : Device) : Device :=
  let fn := d.link.fn
  let mask := maskOf (fun a => takesPart d a && readyAt d a)
  let w := frameFields 0 mask (fn + 20) (if degraded then 1 else 0)
  let d := placeAnnounce w.1 w.2 d
  let w2 := putBits w.2 31 24 d.link.annSeq
  let d := { d with link := { d.link with repeatMsg := some (w.1, w2, fn + 18) } }
  startAt mask (fn + 20) degraded (setPhase 1 d)

/-- The holder may start the roof: IDLE, and a start request is known. -/
def roofMayStart (d : Device) : Bool :=
  isHolder d && participating d && roofPhase d = 0 && (List.range 8).any (requestAt d)

/-- R334: a required member is participating, disciplined and READY. -/
def memberReady (d : Device) (a : Nat) : Bool := takesPart d a && discAt d a && readyAt d a

def opStartAnnounced (d : Device) : Device :=
  if roofMayStart d && (bitsIn (requiredMask d) 8).all (memberReady d) then sendStart false d else d

/-- R335: a required member whose lack does not block a degraded start: absent, EXCLUDED or PRESENCE_ONLY. -/
def memberMissing (d : Device) (a : Nat) : Bool :=
  !present d a || (peer d a).excluded || (match (peer d a).proto with | some p => p != Config.linkMajor | none => false)

/-- R335: when the oldest start request in force became known. -/
def firstRequest (d : Device) : Nat :=
  let ts := ((List.range 8).filter (requestAt d)).map (fun a => if a = strapOf d then d.seq.reqAt else (peer d a).reqAt)
  ts.tail.foldl min (ts.headD 0)

def opDegradedStart (d : Device) : Device :=
  let may := match d.otp.roofRec with | some r => r.degraded | none => false
  if may && roofMayStart d && (bitsIn (requiredMask d) 8).all (fun a => memberReady d a || memberMissing d a) then
    sendStart true (advanceTo (firstRequest d + fld d W.ROOF_CTRL_DEG_WAIT * 1000000) d)
  else d

/-- R333: START_TO has passed without a START. -/
def opStartTimeout (d : Device) : Device :=
  if d.seq.request && d.seq.t0 = none && !alone d then
    let d := advanceTo (d.seq.reqAt + fld d W.ROOF_CTRL_START_TO * 1000000) d
    let keep := d.seq.retryStart || flag d W.MODE_CTRL_AUTO_START
    let d := raise 485 { d with seq := { d.seq with request := keep } }
    completeAll (fun c => c.op == 0x20) .timeout (fun _ => 0#32) (fun _ => 0#32) d
  else d

/-! ### Time disagreement and non-compliance (R341, R347) -/

/-- R341: the hold has been in force for 100 microseconds on the holder. -/
def opTimeAbort (d : Device) : Device :=
  match d.seq.holdFrom with
  | some c =>
    if isHolder d then holderDescend 0 (raise 489 (advanceTo (d.roofTime + (c + 10000 - d.cycles)) d)) else d
  | none => d

/-- R347: the holder's action on a required participant that reports mode `m`. -/
def nonCompliantAct (a m : Nat) (d : Device) : Device :=
  let p := roofPhase d
  if m = 8 then holderFault d
  else if (p = 4 || p = 5) && 3 ≤ m && m ≤ 6 then
    (if d.link.warned.testBit a then holderFault d
     else
       let d := { d with link := { d.link with warned := setBitNat d.link.warned a true } }
       insertUrgent (if p = 4 then 1 else 0) d.link.phaseLow d)
  else if m = 7 || !(3 ≤ m && m ≤ 6) then holderDescend 4 d
  else if m = 3 && p = 3 then holderDescend 4 d
  else d

/-- R347: address `a` has been non-compliant in 3 consecutive frames. -/
def opNoncompliant (a : Nat) (d : Device) : Device :=
  let m := modeOfAddr d a
  if !isHolder d || a = strapOf d || complies (roofPhase d) m then d
  else if (requiredMask d).testBit a && (takesPart d a || (peer d a).late) then nonCompliantAct a m (raise 492 d)
  else if takesPart d a then { d with link := { d.link with dropped := setBitNat d.link.dropped a true } }
  else d

/-! ### The rows -/

def execFault (data : BitVec 8) (fn : Word) (sym : BitVec 8) (s : State) : Host.Outcome State Fault Refusal :=
  on (fun d => opUrgent { kind := 0, data := data.toNat, fn := fn.toNat, sym := sym.toNat } (traceUrgent 0 data.toNat d)) s
def execDescendInsertion (data : BitVec 8) (fn : Word) (sym : BitVec 8) (s : State) : Host.Outcome State Fault Refusal :=
  on (fun d => opUrgent { kind := 1, data := data.toNat, fn := fn.toNat, sym := sym.toNat } (traceUrgent 1 data.toNat d)) s
def execLoss (data : BitVec 8) (fn : Word) (sym : BitVec 8) (s : State) : Host.Outcome State Fault Refusal :=
  on (fun d => opUrgent { kind := 2, data := data.toNat, fn := fn.toNat, sym := sym.toNat } (traceUrgent 2 data.toNat d)) s
def execHold (data : BitVec 8) (fn : Word) (sym : BitVec 8) (s : State) : Host.Outcome State Fault Refusal :=
  on (fun d => opUrgent { kind := 3, data := data.toNat, fn := fn.toNat, sym := sym.toNat } (traceUrgent 3 data.toNat d)) s
def execEchoSlot (a : BitVec 3) (mode : BitVec 4) (kind : BitVec 2) (data : BitVec 8) (fn : Word) (sym : BitVec 8) (s : State) :
    Host.Outcome State Fault Refusal :=
  on (fun d => opEcho a.toNat mode.toNat { kind := kind.toNat, data := data.toNat, fn := fn.toNat, sym := sym.toNat }
    (traceSlot a.toNat mode.toNat 5 ([kind.toNat, data.toNat] ++ wordBytesLE fn ++ [sym.toNat, 0]) d)) s
def execAnnounceStart (a : BitVec 3) (mode : BitVec 4) (w1 w2 : Word) (s : State) : Host.Outcome State Fault Refusal :=
  on (fun d => opAnnounceStart a.toNat mode.toNat w1 w2 (traceWords a.toNat mode.toNat 6 w1 w2 d)) s
def execAnnounceState (a : BitVec 3) (mode : BitVec 4) (w1 w2 : Word) (s : State) : Host.Outcome State Fault Refusal :=
  on (fun d => opAnnounceState a.toNat mode.toNat w1 w2 (traceWords a.toNat mode.toNat 6 w1 w2 d)) s
def execAnnounceDown (a : BitVec 3) (mode : BitVec 4) (w1 w2 : Word) (s : State) : Host.Outcome State Fault Refusal :=
  on (fun d => opAnnounceDown a.toNat mode.toNat w1 w2 (traceWords a.toNat mode.toNat 6 w1 w2 d)) s
def execAgree (a : BitVec 3) (mode : BitVec 4) (w1 w2 : Word) (s : State) : Host.Outcome State Fault Refusal :=
  on (fun d => opAgree a.toNat mode.toNat w1 w2 (traceWords a.toNat mode.toNat 7 w1 w2 d)) s
def execStartAnnounced (s : State) : Host.Outcome State Fault Refusal := on opStartAnnounced s
def execDegradedStart (s : State) : Host.Outcome State Fault Refusal := on opDegradedStart s
def execStartTimeout (s : State) : Host.Outcome State Fault Refusal := on opStartTimeout s
def execTimeAbort (s : State) : Host.Outcome State Fault Refusal := on opTimeAbort s
def execNoncompliant (a : BitVec 3) (s : State) : Host.Outcome State Fault Refusal := on (opNoncompliant a.toNat) s

end Sys2Proof.Machine
end

