-- ==== Sys2Proof/Machine/Thermal.lean ====
section
/-! DEFINITION. Temperature sensing and thermal management (17): samples, the neighbour cross-check (R471-R475), levels
(R477), throttling (R478, R479), shutdown (R480-R484), TEMP_READ. -/

namespace Sys2Proof.Machine

/-! ### Sensors (R469, R472) -/

/-- R472: the fixed neighbours of TS0-TS23. -/
def dieNeighbours : List (List Nat) :=
  [[1, 2, 21], [0, 2, 3], [1, 3, 21], [1, 2, 4], [2, 3, 21], [6, 7, 21], [5, 7, 8], [6, 8, 21], [6, 7, 9], [7, 8, 21],
   [11, 12, 14], [10, 12, 14]]
  ++ [[10, 11, 13], [11, 12, 19], [10, 11, 23], [16, 19, 23], [15, 17, 20], [16, 18, 20], [13, 16, 17], [13, 15, 20],
   [16, 17, 19], [2, 7, 22], [15, 21, 23], [14, 15, 22]]

/-- Sensor index `i` is enabled: every die sensor, an external input with TX_EN (R470). -/
def sensorOn (d : Device) (i : Nat) : Bool := i < 24 || flag d W.TX_CFG_TX_EN (i - 24)

/-- R472: the neighbours of sensor index `i`. -/
def neighbours (d : Device) (i : Nat) : List Nat :=
  if i < 24 then dieNeighbours.getD i []
  else
    let x := i - 24
    (if flag d W.TX_NBR_NB0_EN x then [fld d W.TX_NBR_NB0 x] else [])
    ++ (if flag d W.TX_NBR_NB1_EN x then [fld d W.TX_NBR_NB1 x] else [])
    ++ (if flag d W.TX_NBR_NB2_EN x then [fld d W.TX_NBR_NB2 x] else [])

def rawOf (d : Device) (i : Nat) : Int := SMap.get (fun _ => 0) d.therm.raw i
def valueOf (d : Device) (i : Nat) : Int := SMap.get (fun _ => 0) d.therm.value i
def samplesOf (d : Device) (i : Nat) : Nat := SMap.get (fun _ => 0) d.therm.samples i
def isSuspect (d : Device) (i : Nat) : Bool := (fld d W.TH_SUSPECT_SUSPECT).testBit i

/-- The ADC channel of sensor index `i` (R469). -/
def sensorChannel (i : Nat) : Nat := if i < 24 then 104 + i else 86 + (i - 24)

/-! ### Thresholds (R477), in tenths of a degree -/

def txCode (c : Nat) : Option Int := if c = 255 then none else some ((c : Int) * 10 - 400)
def warnAt (d : Device) (i : Nat) : Option Int := if i < 24 then some 1300 else txCode (fld d W.TX_TH_TX_WARN (i - 24))
def throtAt (d : Device) (i : Nat) : Option Int := if i < 24 then some 1450 else txCode (fld d W.TX_TH_TX_THROT (i - 24))
def shdnAt (d : Device) (i : Nat) : Option Int := if i < 24 then some 1650 else txCode (fld d W.TX_TH_TX_SHDN (i - 24))
def absAt (d : Device) (i : Nat) : Option Int := if i < 24 then some 1750 else txCode (fld d W.TX_TH_TX_ABS (i - 24))

/-- R473: the suspect threshold. -/
def suspectBy (d : Device) (i : Nat) : Int :=
  60 + 10 * (if i < 24 then fld d W.TH_CFG_SUS_DIE else fld d W.TX_CFG_SUS_TX (i - 24))

/-! ### The neighbour cross-check (R471-R475) -/

/-- The neighbours that take part in a check (enabled, with a reading), and those of them that are not suspect. -/
def checkers (d : Device) (i : Nat) : List Nat := (neighbours d i).filter (fun j => sensorOn d j && samplesOf d j ≠ 0)
def trusted (d : Device) (i : Nat) : List Nat := (checkers d i).filter (fun j => !isSuspect d j)

/-- R473: whether the raw reading lies beyond the threshold from the median of the trusted neighbours; none when fewer than
two are left. -/
def beyondMedian (d : Device) (i : Nat) : Option Bool :=
  let r := rawOf d i
  let t := suspectBy d i
  match (trusted d i).map (rawOf d) with
  | [a, b] => some (decide (2 * t < ((2 * r - (a + b)).natAbs : Int)))
  | [a, b, c] => some (decide (t < ((r - max (min a b) (min (max a b) c)).natAbs : Int)))
  | _ => none

def setSuspect (i : Nat) (b : Bool) (d : Device) : Device := setMaskBit d W.TH_SUSPECT_SUSPECT i b

/-- R473, R126: a sensor becomes suspect; a phase whose sensor it is fails with cause 5. -/
def becomeSuspect (i : Nat) (d : Device) : Device :=
  let d := setLevel (352 + i) true (setSuspect i true d)
  let d := { d with therm := { d.therm with
    okCnt := SMap.set (fun _ => 0) i 0 d.therm.okCnt, susCnt := SMap.set (fun _ => 0) i 0 d.therm.susCnt } }
  if i < 10 then opPhaseFail [(i, 5)] d else d

/-- R475: a sensor is released. -/
def releaseSuspect (i : Nat) (d : Device) : Device :=
  let d := setLevel (352 + i) false (setSuspect i false d)
  { d with therm := { d.therm with range := setBitNat d.therm.range i false, okCnt := SMap.set (fun _ => 0) i 0 d.therm.okCnt } }

/-- R475: one sample toward release, or none. -/
def towardRelease (i : Nat) (ok : Bool) (d : Device) : Device :=
  let n := if ok then SMap.get (fun _ => 0) d.therm.okCnt i + 1 else 0
  let d := { d with therm := { d.therm with okCnt := SMap.set (fun _ => 0) i n d.therm.okCnt } }
  if 64 ≤ n then releaseSuspect i d else d

/-- R471, R473, R475, R55: the check of one sample. -/
def crossCheck (i : Nat) (d : Device) : Device :=
  let r := rawOf d i
  let out := 24 ≤ i && (r < -450 || 2000 < r)
  if out then
    let d := { d with therm := { d.therm with
      range := setBitNat d.therm.range i true, okCnt := SMap.set (fun _ => 0) i 0 d.therm.okCnt } }
    if isSuspect d i then d else becomeSuspect i d
  else if d.therm.range.testBit i then towardRelease i true d
  else if samplesOf d i < 8 then d
  else match beyondMedian d i with
    | none => d
    | some far =>
      if isSuspect d i then towardRelease i (!far) d
      else
        let n := if far then SMap.get (fun _ => 0) d.therm.susCnt i + 1 else 0
        let d := { d with therm := { d.therm with susCnt := SMap.set (fun _ => 0) i n d.therm.susCnt } }
        if 8 ≤ n then becomeSuspect i d else d

/-- The greatest of a list of values, if there is one. -/
def greatest (vs : List Int) : Option Int :=
  match vs with
  | [] => none
  | v :: t => some (t.foldl max v)

/-- R474: the value in use of sensor index `i`; a THROTTLE threshold that is disabled leaves it open (log 7). -/
def putValue (i : Nat) (d : Device) : Device :=
  let r := rawOf d i
  let badNbrs := 2 ≤ ((checkers d i).filter (isSuspect d)).length
  let sus := isSuspect d i
  let floor_ := (throtAt d i).getD (freeOf d)
  let own : Option Int := if sus then greatest ((trusted d i).map (valueOf d)) else some r
  let v : Int := match own with
    | some v => if badNbrs then max v floor_ else v
    | none => floor_
  let d := if (throtAt d i).isNone && (badNbrs || (sus && own.isNone)) then drawn d else d
  { d with therm := { d.therm with
      value := SMap.set (fun _ => 0) i v d.therm.value, subst := setBitNat d.therm.subst i (sus || v != r) } }

/-! ### Levels and throttling (R476-R479) -/

/-- R477: a level of source base `src` with threshold and hysteresis. -/
def putLevel (src i : Nat) (at_ : Option Int) (hyst : Int) (d : Device) : Device :=
  let v := valueOf d i
  match at_ with
  | none => setLevel (src + i) false d
  | some t => if t ≤ v then setLevel (src + i) true d else if v < t - hyst then setLevel (src + i) false d else d

def atThrottle (d : Device) : Bool := (List.range 32).any (fun i => levelHolds d (288 + i))

/-- R476: the cadence. -/
def putCadence (i : Nat) (d : Device) : Device :=
  let v := valueOf d i
  let hot := (match warnAt d i with | some t => decide (t ≤ v) | none => false)
    || (match throtAt d i with | some t => decide (t - 100 ≤ v) | none => false)
  let n := if hot then 0 else SMap.get (fun _ => 0) d.therm.calm i + 1
  let d := { d with therm := { d.therm with calm := SMap.set (fun _ => 0) i (min n 8) d.therm.calm } }
  if hot then setMaskBit d W.TH_FAST_FAST i true else if 8 ≤ n then setMaskBit d W.TH_FAST_FAST i false else d

/-- The enabled sensor with the highest value in use (TH_STATUS). -/
def hotSensor (d : Device) : Nat :=
  ((List.range 32).filter (fun i => sensorOn d i && samplesOf d i ≠ 0)).foldl
    (fun m i => if samplesOf d m = 0 || valueOf d m < valueOf d i then i else m) 0

/-- R478, R479: the summary of the levels; throttling pauses the background tasks. -/
def thermalSummary (d : Device) : Device :=
  let was := flag d W.TH_STATUS_THROTTLING
  let now := atThrottle d
  let h := hotSensor d
  let d := setFlag (setFlag d W.TH_STATUS_THROTTLING now) W.TH_STATUS_WARNING ((List.range 32).any (fun i => levelHolds d (256 + i)))
  let d := setFld (setFld d W.TH_STATUS_HOT_SENSOR h) W.TH_STATUS_HOT_VALUE (valueOf d h % 65536).toNat
  let d := if now && !was then
      { (setFld d W.BG_STATUS_PAUSED 0x3F) with bg := { d.bg with
          pausedAt := (List.range 6).foldl (fun m t => SMap.set (fun _ => 0) t d.roofTime m) d.bg.pausedAt } }
    else if was && !now then setFld d W.BG_STATUS_PAUSED 0 else d
  settleMode d

/-- R126 code 6, R104 code 6: the phases that a sensor judges. -/
def phaseHeat (i : Nat) (d : Device) : Device :=
  let v := valueOf d i
  if i < 10 then
    let hot : Bool := ((1400 + 20 * fld d W.CL_CTRL_PH_HOT (i / 5) : Nat) : Int) ≤ v
    let n := if hot then SMap.get (fun _ => 0) d.therm.hotCnt i + 1 else 0
    let d := { d with therm := { d.therm with hotCnt := SMap.set (fun _ => 0) i (min n 8) d.therm.hotCnt } }
    if 8 ≤ n then opPhaseFail [(i, 6)] d else d
  else if i < 14 && 1650 ≤ v then opHcPhaseFail (i - 10) 6 d
  else d

/-! ### Shutdown (R480-R484) -/

/-- R480: t_PRED as a fraction in ticks of 10 ns, or none when unlimited. -/
def tPred (d : Device) (i : Nat) : Option (Nat × Nat) :=
  let h := SMap.get (fun _ => []) d.therm.hist i
  match absAt d i, h, h.getLast? with
  | none, _, _ => none
  | some _, [], _ => some (0, 1)
  | some _, [_], _ => some (0, 1)
  | some t, (t0, v) :: _ :: _, some (t1, v1) =>
    if v ≤ v1 then none else some ((t - v).toNat * (t0 - t1), (v - v1).toNat)
  | some _, _, none => some (0, 1)

/-- t_PRED as TH_LAST shows it, in 0.1 ms. -/
def tPredField (p : Option (Nat × Nat)) : Nat :=
  match p with
  | none => 65535
  | some (a, b) => min (a / (b * 10000)) 65535

/-- t_PRED exceeds `t` ticks. -/
def predAbove (p : Option (Nat × Nat)) (t : Nat) : Bool :=
  match p with
  | none => true
  | some (a, b) => t * b < a

/-- t_PRED is shorter than `t` ticks. -/
def predBelow (p : Option (Nat × Nat)) (t : Nat) : Bool :=
  match p with
  | none => false
  | some (a, b) => a < t * b

/-- One prediction is shorter than another. -/
def predLess (p q : Option (Nat × Nat)) : Bool :=
  match p, q with
  | some (a, b), some (c, e) => a * e < c * b
  | some _, none => true
  | none, _ => false

/-- R481, R483: the record of a decision of a kind on sensor index `i`. -/
def thermalRecord (kind i : Nat) (d : Device) : Device :=
  let p := tPredField (tPred d i)
  let d := setFld (setFld (setFld d W.TH_LAST_KIND kind) W.TH_LAST_SENSOR i) W.TH_LAST_T_PRED p
  gutter 0x04 i kind (BitVec.ofNat 32 p) (setFlag d W.TH_STATUS_TH_LATCH true)

/-- R481, R345: every rail is switched off at once, and the device latches. -/
def immediateShutdown (kind i : Nat) (d : Device) : Device :=
  let d := thermalRecord kind i (trigIf W.TRC_TRIG_T_THERMAL 3 d)
  let d := insertUrgent 0 (firstRail d) d
  let d := killRails (advanceTo (d.roofTime + 2) d)
  let d := assertSso 15 false { d with core := { d.core with pgood := 0 }, therm := { d.therm with orderly := none } }
  let d := endDrill 1 7 .aborted (endDrill 0 7 .aborted d)
  let d := completeAll abortedByFault .aborted (fun _ => 0#32) (fun _ => 0#32) (stopTests d)
  enterLatched 7 false { d with seq := { d.seq with desc := none, lastFall := none } }

/-- R481, R344: an orderly thermal shutdown. -/
def orderlyShutdown (i : Nat) (d : Device) : Device :=
  let d := thermalRecord 1 i d
  let d := if participating d then descendNow 1 d
    else startDescent .orderly (enabledRails d) (advanceTo (d.roofTime + 6) d)
  { d with therm := { d.therm with orderly := d.seq.desc.map (fun x => x.tD) } }

def estTicks (d : Device) : Nat := fld d W.TH_CFG_T_DESC_EST * 100000

/-- R481: a rail is up in a mode other than RUN-DESCEND. -/
def railsUp (d : Device) : Bool := d.mode = .ramp || d.mode = .retain || enabledRails d ≠ []

/-- R481: the decision on sensor index `i`. -/
def decideShutdown (i : Nat) (d : Device) : Device :=
  let above := predAbove (tPred d i) (estTicks d)
  if inMode d upModes then (if above then orderlyShutdown i d else immediateShutdown 2 i d)
  else if d.mode = .descend then (if above then thermalRecord 1 i d else immediateShutdown 2 i d)
  else if railsUp d then immediateShutdown 2 i d
  else thermalRecord 0 i d

/-- R482: during an orderly thermal shutdown a sensor asks for the immediate one. -/
def overtakes (d : Device) (i : Nat) : Bool :=
  match d.therm.orderly with
  | some tD =>
    d.mode = .descend &&
      ((match absAt d i with | some t => decide (t ≤ valueOf d i) | none => false)
       || predBelow (tPred d i) (estTicks d - (d.roofTime - tD)))
  | none => false

/-- R485: of several sensors the one with the shortest t_PRED, the lowest index on a tie. -/
def firstOf (d : Device) (is : List Nat) : Option Nat :=
  match is with
  | [] => none
  | i :: t => some (t.foldl (fun m j => if predLess (tPred d j) (tPred d m) then j else m) i)

/-- R484: sensor `i` lies below its SHUTDOWN threshold less the hysteresis. -/
def coolAgain (d : Device) (i : Nat) : Bool :=
  !sensorOn d i || (samplesOf d i ≠ 0 && (match shdnAt d i with | some t => decide (valueOf d i < t - 250) | none => true))

/-- R484: a thermal retry is granted once every sensor lies below SHUTDOWN less the hysteresis; its delay counts from now. -/
def thermalRetry (d : Device) : Device :=
  if d.mode = .latched && fld d W.MODE_STATUS_LATCH_CAUSE = 7 && flag d W.TH_CFG_TH_RETRY && !d.seq.retryWait && !d.seq.noRetry
      && fld d W.SEQ_STATUS_RETRY_CNT < fld d W.SEQ_CTRL_RETRY_MAX
      && (List.range 32).all (coolAgain d) then
    setFld { d with seq := { d.seq with retryWait := true, latchAt := d.roofTime } } W.SEQ_STATUS_SEQ_STATE 7
  else d

/-! ### A sample (R476) -/

/-- One sensor's sample, up to its levels. -/
def sampleSensor (d : Device) (i : Nat) : Device :=
  let n := samplesOf d i + 1
  let d := { d with therm := { d.therm with
    raw := SMap.set (fun _ => 0) i (adcVal d (sensorChannel i)) d.therm.raw,
    samples := SMap.set (fun _ => 0) i (min n 17) d.therm.samples } }
  let d := putValue i (crossCheck i d)
  let h := (d.roofTime, valueOf d i) :: SMap.get (fun _ => []) d.therm.hist i
  let d := { d with therm := { d.therm with hist := SMap.set (fun _ => []) i (h.take 17) d.therm.hist } }
  let d := putLevel 288 i (throtAt d i) 100 (putLevel 256 i (warnAt d i) 100 d)
  putCadence i (phaseHeat i d)

/-- R477: the sensor reaches SHUTDOWN at this sample. -/
def reachesShutdown (d : Device) (i : Nat) : Bool :=
  match shdnAt d i with
  | some t => t ≤ valueOf d i && !levelHolds d (320 + i)
  | none => false

/-- R55: every enabled sensor has had 8 samples. -/
def warmUpEnd (d : Device) : Device :=
  if (List.range 32).all (fun i => !sensorOn d i || 8 ≤ samplesOf d i) then setFlag d W.COLD_STATUS_THERMAL_WARMUP false else d

/-- R476-R484: the sensors of `mask` are sampled at one instant. -/
def opThermalSample (mask : Nat) (d : Device) : Device :=
  if !adcOn d then d
  else
    let is := (bitsIn mask 32).filter (sensorOn d)
    let d := warmUpEnd (is.foldl sampleSensor d)
    let reached := is.filter (reachesShutdown d)
    let d := is.foldl (fun d i => putLevel 320 i (shdnAt d i) 250 d) d
    let d := thermalSummary d
    match firstOf d (is.filter (overtakes d)), firstOf d reached with
    | some i, _ => immediateShutdown 3 i d
    | none, some i => decideShutdown i d
    | none, none => thermalRetry d

/-- R485: an input disabled leaves every level. -/
def txDisabled (x : Nat) (d : Device) : Device :=
  let i := 24 + x
  let d := [256, 288, 320, 352].foldl (fun d s => setLevel (s + i) false d) d
  let d := setMaskBit (setSuspect i false d) W.TH_FAST_FAST i false
  thermalSummary { d with therm := { d.therm with range := setBitNat d.therm.range i false } }

/-- R469: TEMP_READ. -/
def opTempRead (c : Cmd) (d : Device) : Device :=
  let i := bitsOf (c.p 0) 4 0
  judged c d false 4 [(highZero c 0 5, .badParam), (modeOk .live d, .deniedMode)] (fun d =>
    let b := fun (x : Bool) (k : Nat) => if x then 2 ^ k else 0
    let w1 := (valueOf d i % 65536).toNat + b (isSuspect d i) 16 + b (d.therm.subst.testBit i) 17 + b (samplesOf d i < 8) 18
    complete c d 4 .ok (BitVec.ofNat 32 w1) (s16 (rawOf d i)))

/-! ### The rows -/

def execThermalSample (mask : Word) (s : State) : Host.Outcome State Fault Refusal := on (opThermalSample mask.toNat) s
def execTempRead (rq : Req) (p0 : Word) (s : State) : Host.Outcome State Fault Refusal :=
  on (runRow rq 0x62 [p0] [] opTempRead) s

end Sys2Proof.Machine
end

