-- ==== Sys2Proof/Machine/Log.lean ====
section
/-! DEFINITION. The gutter log (R556-R562), the trace store (R563-R569), output digests (R575), replay (R576-R578) and
the trace port (R579). -/

namespace Sys2Proof.Machine

/-! ### Gutter log -/

def sector (d : Device) (s : Nat) : Sector := SMap.get (fun _ => ({} : Sector)) d.log.secs s
def setSector (s : Nat) (x : Sector) (d : Device) : Device :=
  { d with log := { d.log with secs := SMap.set (fun _ => ({} : Sector)) s x d.log.secs } }

/-- R557, R559: a record is committed: its COMMIT is present and its RCRC checks. -/
def hasCommit (ws : List Word) : Bool := ws.getD 63 0#32 == 0xA5C35A3C#32
def rcrcOk (ws : List Word) : Bool :=
  bitsOf (ws.getD 61 0#32) 15 0 == crc16 ((ws.take 61).flatMap wordBytesLE)

/-- BG_WEAR, R546: the erased sectors ready for records, and the highest erase count. -/
def wearSummary (d : Device) : Device :=
  let ready := ((List.range 256).filter (fun s => (sector d s).used = 0 && !(sector d s).retired)).length
  let most := (List.range 256).foldl (fun m s => max m (sector d s).erases) 0
  setFld (setFld d W.BG_WEAR_READY (min ready 255)) W.BG_WEAR_MAX_ERASE most

/-- Of the sectors that `p` selects, the one of lowest erase count. -/
def leastWorn (p : Sector → Bool) (d : Device) : Option Nat :=
  (List.range 256).foldl (fun m s =>
    if p (sector d s) && !(sector d s).retired then
      (match m with
       | some t => if (sector d s).erases < (sector d t).erases then some s else m
       | none => some s)
    else m) none

/-- The sector of the next free location: the present one, or an erased one. -/
def nextSector (d : Device) : Nat :=
  if (sector d d.log.cur).used < 16 && !(sector d d.log.cur).retired then d.log.cur
  else (leastWorn (fun x => x.used = 0) d).getD d.log.cur

/-- A location of the log is used, with a committed record or without one. -/
def takeLocation (seq : Option Nat) (d : Device) : Device :=
  let s := nextSector d
  let x := sector d s
  let d := setSector s { x with used := x.used + 1, seqs := x.seqs ++ seq.toList } d
  wearSummary { d with log := { d.log with cur := s } }

/-- GUT_STATUS and GUT_SEQ follow the records held. -/
def gutterSummary (d : Device) : Device :=
  let d := setFld d W.GUT_STATUS_RECORDS (min d.log.records.length 4096)
  setFld d W.GUT_STATUS_PENDING d.log.waiting.length

/-- R559: a record is programmed, its COMMIT last. -/
def commitRecord (ws : List Word) (d : Device) : Device :=
  let seq := (ws.getD 1 0#32).toNat
  let d := takeLocation (some seq) d
  let d := { d with log := { d.log with records := SMap.set (fun _ => []) seq (sealRecord ws) d.log.records } }
  gutterSummary (setW d W.GUT_SEQ (BitVec.ofNat 32 seq))

/-- R30: PD_TCU runs: its flash controller and Purlin work. -/
def tcuOn (d : Device) : Bool :=
  !inMode d [.dormant, .standby, .retain] && !d.core.porHeld && !d.core.hardHeld && !d.core.purlinFail

/-- R543, R584: Purlin's core has worked in the background; for how many cycles the spec does not say (log 7). -/
def purlinWorks (d : Device) : Device := count 0x53 (drawn d) (freeOf d)

/-- R559: the oldest snapshot is written, once the scan has been made and no record is abandoned ahead of it. -/
def opGutterWrite (d : Device) : Device :=
  if tcuOn d && d.log.scanned && d.log.abandoned.isNone then
    match d.log.waiting with
    | ws :: t => commitRecord ws (purlinWorks { d with log := { d.log with waiting := t } })
    | [] => d
  else d

/-- R560: `HOLD` falls below 4.30 V during the write of the oldest snapshot while backup energy is not above reserve. -/
def opGutAbandoned (d : Device) : Device :=
  if tcuOn d && d.log.scanned && d.log.abandoned.isNone && !aboveReserve d then
    match d.log.waiting with
    | ws :: t =>
      let d := takeLocation none { d with log := { d.log with waiting := t, abandoned := some ws } }
      gutterSummary (addSat d W.GUT_CNT_ABANDONED 1)
    | [] => d
  else d

/-- R557: the record with REWRITTEN (bit 4 of FLAGS) set. -/
def rewritten (ws : List Word) : List Word :=
  match ws with
  | w :: t => (w ||| 0x1000#32) :: t
  | [] => []

/-- R560: `HOLD` rises above 4.40 V again: the record is written once more, and GUT_ABANDONED is reported. -/
def opGutterRewrite (d : Device) : Device :=
  match d.log.abandoned with
  | some ws =>
    if tcuOn d then raise 838 (commitRecord (rewritten ws) { d with log := { d.log with abandoned := none } }) else d
  | none => d

/-- R559: Purlin reads every location: the damaged ones are counted and numbering resumes. -/
def gutterScan (d : Device) : Device :=
  let damaged := (d.log.records.filter (fun p => hasCommit p.2 && !rcrcOk p.2)).length
  let good := d.log.records.filter (fun p => hasCommit p.2 && rcrcOk p.2)
  let newest := good.foldl (fun m p => max m p.1) 0
  let next := if good = [] then 0 else newest + 1
  let d := setFld d W.GUT_CNT_DAMAGED (min damaged 255)
  let d := { d with log := { d.log with
      records := good, waiting := renumber next d.log.waiting, nextSeq := next + d.log.waiting.length, scanned := true } }
  let d := wearSummary (gutterSummary (setW d W.GUT_SEQ (BitVec.ofNat 32 newest)))
  if damaged = 0 then d else raise 840 d

/-- R561: `seq` is older than the newest 3,840 committed records. -/
def supersededSeq (d : Device) (seq : Nat) : Bool := 3840 ≤ (d.log.records.filter (fun p => seq < p.1)).length

/-- R546, R561: a sector that holds only superseded records is erased; one that reaches 100,000 erases is retired. -/
def opSectorErase (d : Device) : Device :=
  if tcuOn d && bgMay 3 d && !inMode d [.holdup, .descend] then
    match leastWorn (fun x => x.used ≠ 0 && x.seqs.all (supersededSeq d)) d with
    | some s =>
      let x := sector d s
      let d := { (purlinWorks (bgBegin 3 d)) with log := { d.log with records := d.log.records.filter (fun p => !x.seqs.contains p.1) } }
      gutterSummary (wearSummary (setSector s { erases := x.erases + 1, used := 0, seqs := [], retired := decide (100000 ≤ x.erases + 1) } d))
    | none => d
  else d

/-- R562: GUT_SEL is written: the buffer reads 0 while it is being filled. -/
def gutSelect (d : Device) : Device :=
  let d := (List.range 64).foldl (fun d k => putWord d W.GUT_BUF_DATA 0#32 k) d
  setFlag (setFlag d W.GUT_BUF_STATUS_FOUND false) W.GUT_BUF_STATUS_LOADING true

/-- R562: the buffer is filled with the committed record that GUT_SEL names. -/
def opGutBufFilled (d : Device) : Device :=
  if !flag d W.GUT_BUF_STATUS_LOADING then d
  else
    let d := setFlag d W.GUT_BUF_STATUS_LOADING false
    let ws := SMap.get (fun _ => []) d.log.records (getW d W.GUT_SEL).toNat
    if ws = [] then d
    else
      setFlag ((List.range 64).foldl (fun d k => putWord d W.GUT_BUF_DATA (ws.getD k 0#32) k) d) W.GUT_BUF_STATUS_FOUND true

/-! ### Trace store -/

def trcState (d : Device) : Nat := fld d W.TRC_STATUS_STATE
def setTrc (v : Nat) (d : Device) : Device := setFld d W.TRC_STATUS_STATE v

/-- R30, R523: PD_ACU is on. -/
def acuOn (d : Device) : Bool :=
  tcuOn d && (1 ≤ fld d W.TRUST_STATUS_THATCH_STATE && fld d W.TRUST_STATUS_THATCH_STATE ≤ 4)

/-- R563: TRC_EN as loaded or written: an off store begins to record, a recording store stops. -/
def traceEnable (d : Device) : Device :=
  if flag d W.TRC_CFG_TRC_EN then (if trcState d = 0 && acuOn d then setTrc 1 d else d)
  else if trcState d = 1 || trcState d = 2 then setTrc 0 d else d

/-- R568: a frozen store resumes recording, with an empty ring: no capture spans the gap. -/
def rearm (d : Device) : Device :=
  let d := setTrc 0 d
  traceEnable { d with log := { d.log with entries := [], areas := [], block := none, prevRaw := [] } }

def slotOf (d : Device) (s : Nat) : Option Capture := SMap.get (fun _ => none) d.log.slots s
def setSlot (s : Nat) (x : Option Capture) (d : Device) : Device :=
  { d with log := { d.log with slots := SMap.set (fun _ => none) s x d.log.slots } }
def capErasing (d : Device) (s : Nat) : Bool := flag d W.CAP_SLOT_ERASING s

/-- R568, R569: a slot without a capture and not being erased. -/
def slotFree (d : Device) (s : Nat) : Bool := (slotOf d s).isNone && !capErasing d s

/-- CAP_SLOT shows the capture a slot holds. -/
def showSlot (s : Nat) (d : Device) : Device :=
  match slotOf d s with
  | some x =>
    let d := setFlag (setFlag d W.CAP_SLOT_VALID true s) W.CAP_SLOT_REPLAYABLE (x.replayable && !capErasing d s) s
    setFld (setFld d W.CAP_SLOT_CAUSE x.cause s) W.CAP_SLOT_LENGTH x.length s
  | none =>
    let d := setFlag (setFlag d W.CAP_SLOT_VALID false s) W.CAP_SLOT_REPLAYABLE false s
    setFld (setFld d W.CAP_SLOT_CAUSE 0 s) W.CAP_SLOT_LENGTH 0 s

/-- R568: the slot of a copy choice (0 none, 1 slot 0, 2 slot 1, 3 first free). -/
def copyChoice (d : Device) (c : Nat) : Option Nat :=
  match c with
  | 1 => some 0
  | 2 => some 1
  | 3 => [0, 1].find? (slotFree d)
  | _ => none

/-- R568, R580: the copy into slot `s` starts, waits for the slot's erase, or is not made because the slot is occupied. -/
def startCopy (s : Nat) (d : Device) : Device :=
  if capErasing d s || !acuOn d then { d with log := { d.log with wantCopy := some s } }
  else if (slotOf d s).isSome then raise 834 { d with log := { d.log with wantCopy := none } }
  else setTrc 4 { d with log := { d.log with wantCopy := none, copyTo := some s } }

/-- R568: what follows a freeze: the copy that `choice` asks for. -/
def copyAfter (choice : Nat) (d : Device) : Device :=
  if choice = 0 then d
  else match copyChoice d choice with
    | some s => startCopy s d
    | none => raise 834 d

/-- R567: the trigger commands that wait for a freeze complete at it; the index is the store's own (log 7). -/
def endTriggers (d : Device) : Device :=
  let v := freeOf d
  completeAll (fun c => c.op == 0xB0) .ok (fun _ => BitVec.ofNat 32 v) (fun _ => 0#32) (drawn d)

/-- R567: the store freezes with `cause`: TRC_FREEZE, the gutter record of type TRIGGER, TRC_FROZEN, and the copy. -/
def freezeStore (cause choice : Nat) (d : Device) : Device :=
  let d := traceEntry 11 2 [] (closeBlock d)
  let d := setTrc 3 (setFld d W.TRC_STATUS_CAUSE cause)
  let d := setW { d with log := { d.log with freezeAt := d.roofTime } } W.TRC_FREEZE (lowW d.roofTime)
  let slot := (copyChoice d choice).getD 0xFF
  let d := gutter 0x0B 0xFF cause (BitVec.ofNat 32 slot) d
  copyAfter choice (endTriggers (raise 832 d))

/-- R567: POST milliseconds after the trigger the store freezes. -/
def opTrcFrozen (d : Device) : Device :=
  if trcState d = 2 then
    let d := advanceTo (d.log.trigAt + fld d W.TRC_CFG_POST * 100000) d
    freezeStore d.log.traceCause (fld d W.TRC_CFG_COPY) d
  else d

/-! ### Checkpoints (R563, R571) -/

/-- R571: a block whose words the spec gives whole. -/
def plainBlock (ident : Nat) (ws : List Word) : CkptBlock := { ident := ident, words := ws, more := 0, contents := 0 }

/-- The words that a machine shows of its state: those of the tables of its pages that no one writes. -/
def machineWords (d : Device) (pages : List Nat) : List Word :=
  (allFams.filter (fun f => pages.contains (f.base / 256) && f.rw == 0 && f.rwp == 0 && f.wo == 0)).flatMap
    (fun f => (List.range f.count).map (fun k => readW d (f.base + f.stride * k)))

/-- R571: the pages of the hardware machines: sequencer, supervision, events, engine, charger, gauge, link, roof, valley,
scheduler, keeper. -/
def machinePages : List (List Nat) :=
  [[2], [3, 8, 9, 10, 11], [17, 18], [24], [13], [14], [21], [22], [23], [16], [1]]

/-- R571: a block of `ident` that begins with words of the spec and goes on with open bytes, at most `room` (log 20). -/
def openBlock (ident : Nat) (ws : List Word) (room : Nat) (d : Device) : CkptBlock × Device :=
  ({ ident := ident, words := ws, more := freeOf d % (room / 4 + 1) * 4, contents := freeOf (drawn d) }, drawn (drawn d))

/-- The blocks of the hardware machines from number `m` on. -/
def machineBlocks (m : Nat) (pages : List (List Nat)) (d : Device) : List CkptBlock × Device :=
  match pages with
  | [] => ([], d)
  | ps :: t =>
    let x := openBlock (0x500 + m) (machineWords d ps) 256 d
    let r := machineBlocks (m + 1) t x.2
    (x.1 :: r.1, r.2)

/-- R571: the bytes of an image. -/
def imageBytes (bs : List CkptBlock) : Nat := (bs.map (fun b => 8 + 4 * b.words.length + b.more)).foldl (· + ·) 0

/-- R571: the checkpoint image: the control words, the host page, the shadows, the SRAM of queues and rings, the hardware
machines, and the state segments of the firmware, which an area of 128 KiB holds with the rest. -/
def ckptImage (d : Device) : List CkptBlock × Device :=
  let pages := (List.range 30).map (fun pp => plainBlock (0x100 + pp) ((List.range 256).map (fun k => readW d (256 * pp + k))))
  let host := [plainBlock 0x200 ((List.range 64).map (fun k => readW d (0x10000 + k)))]
  let region := fun n base len => plainBlock (0x300 + n)
    ((List.range len).flatMap (fun k => [lowW (shadowW d (base + k)), highW (shadowW d (base + k))]))
  let sram : CkptBlock := { ident := 0x400, words := [], more := 65536, contents := freeOf d }
  let ms := machineBlocks 0 machinePages (drawn d)
  let bs := pages ++ host ++ [region 0 0 128, region 1 128 64, region 2 192 128, sram] ++ ms.1
  let room := min 49152 ((131072 - imageBytes bs - 16) / 2)
  let p := openBlock 0x600 [] room ms.2
  let t := openBlock 0x700 [] room p.2
  (bs ++ [p.1, t.1], t.2)

def areaOf (d : Device) (k : Nat) : Option TraceCkpt := SMap.get (fun _ => none) d.log.areas k

/-- The checkpoints held, the newest first. -/
def ckptsHeld (d : Device) : List TraceCkpt := (areaOf d (1 - d.log.ckptArea)).toList ++ (areaOf d d.log.ckptArea).toList

/-- R563: a checkpoint is taken every CKPT_PERIOD x 10 ms, into the two areas in turn; the entry after it is a KEY. -/
def opTraceCheckpoint (d : Device) : Device :=
  if recording d then
    let at_ := match (ckptsHeld d).head? with
      | some c => d.roofTime + (c.cycle + fld d W.TRC_CFG_CKPT_PERIOD * 1000000 - d.cycles)
      | none => d.roofTime
    let d := advanceTo at_ d
    let x := ckptImage d
    let d := x.2
    traceKey { d with log := { d.log with
      areas := SMap.set (fun _ => none) d.log.ckptArea (some { cycle := d.cycles, blocks := x.1 }) d.log.areas
      ckptArea := 1 - d.log.ckptArea } }
  else d

/-! ### Captures (R568-R570) -/

/-- R572: the bytes of a stream, its newest entry first. -/
def streamBytes (es : List TraceEntry) : Nat :=
  match es with
  | [] => 0
  | e :: t => (entryBytes ((t.head?.map (·.stamp)).getD e.stamp) e).length + streamBytes t

/-- The stream of the checkpoint `c`: the entries from its cycle on. -/
def streamFrom (d : Device) (c : TraceCkpt) : List TraceEntry := d.log.entries.filter (fun e => 2 * c.cycle ≤ e.stamp)

/-- R568, R570: CAP_LEN of the capture with checkpoint `c`, whose stream has `more` bytes that no row told. -/
def captureBytes (d : Device) (c : TraceCkpt) (more : Nat) : Nat :=
  64 + imageBytes c.blocks + streamBytes (streamFrom d c) + more

/-- R568: the newest checkpoint whose capture fits in 1 MiB. -/
def fittingCkpt (d : Device) (more : Nat) : Option TraceCkpt :=
  (ckptsHeld d).find? (fun c => captureBytes d c more ≤ 1048576)

/-- R580: a MARK of kind 1 stands for a lost region. -/
def lostMark (e : TraceEntry) : Bool := e.kind == 11 && e.sub == 1

/-- R568, R570: the capture of the frozen store; with no checkpoint that fits, the newest 1 MiB of inputs. -/
def captureOf (more : Nat) (d : Device) : Capture :=
  let c := fittingCkpt d more
  let es := match c with
    | some c => streamFrom d c
    | none => keepNewest (1048576 - 64 - more) d.log.entries
  { ckpt := c, entries := es, cause := fld d W.TRC_STATUS_CAUSE
    length := match c with
      | some c => captureBytes d c more
      | none => min 1048576 (64 + streamBytes es + more)
    replayable := c.isSome && !es.any lostMark
    freezeTime := d.log.freezeAt
    startFast := match c with
      | some c => 2 * c.cycle
      | none => (es.getLast?.map (·.stamp)).getD 0
    trussId := (getW d W.TRUSS_ID).toNat + (getW d (W.TRUSS_ID + 1)).toNat * 2 ^ 32
    fwP := getW d W.FW_VER_PURLIN, fwT := getW d W.FW_VER_THATCH
    gutSeq := getW d W.GUT_SEQ, profile := fld d W.TRC_CFG_PROFILE }

/-- R568, R570: the copy completes and its header is committed; the stream has `more` bytes of entries that no row told: crossing
entries (R564). -/
def opTrcCopied (more : Nat) (d : Device) : Device :=
  match d.log.copyTo with
  | some s =>
    if trcState d = 4 then
      let d := setTrc 3 (showSlot s (setSlot s (some (captureOf more d)) { d with log := { d.log with copyTo := none } }))
      let d := raise 833 d
      if flag d W.TRC_CFG_AUTO_REARM then rearm d else d
    else d
  | none => d

/-- R580, R581: an uncorrectable word of the trace store: a MARK with the bytes lost replaces the entries that it held; which
they are, the row does not tell (log 7). -/
def loseEntries (d : Device) : Device :=
  if trcState d = 0 then d
  else
    let k := freeOf d % (d.log.entries.length + 1)
    let m : TraceEntry := match d.log.entries[k]? with
      | some e => { stamp := e.stamp, kind := 11, sub := 1, payload := leb128 4 (entryBytes e.stamp e).length }
      | none => { stamp := 2 * d.cycles, kind := 11, sub := 1, payload := leb128 4 0 }
    let es := if k < d.log.entries.length then d.log.entries.set k m else placeEntry m d.log.entries
    raise 841 { (drawn d) with log := { d.log with entries := es } }

/-- R569: CAP_FREE bit `s` is written: the slot's erase starts. -/
def eraseSlot (s : Nat) (d : Device) : Device :=
  setFlag (showSlot s (setSlot s none d)) W.CAP_SLOT_ERASING true s

/-- R569: the erase of slot `s` completes; a copy that waited for it starts (R580). -/
def opCapFreed (s : Nat) (d : Device) : Device :=
  if capErasing d s && tcuOn d then
    let d := raise 835 (setFlag d W.CAP_SLOT_ERASING false s)
    if d.log.wantCopy = some s && trcState d = 3 then startCopy s d else d
  else d

/-- R566, R568: PD_ACU is on again: a copy that waited for it starts, and an empty store records. -/
def traceAcuOn (d : Device) : Device :=
  let d := traceEnable d
  match d.log.wantCopy with
  | some s => if trcState d = 3 && !capErasing d s then startCopy s d else d
  | none => d

/-! ### Output digests (R575) -/

/-- CRC-32 (IEEE 802.3) over bytes. -/
def crc32Bit (c : Nat) : Nat := if c.testBit 0 then (c >>> 1) ^^^ 0xEDB88320 else c >>> 1
def crc32Byte (c b : Nat) : Nat :=
  crc32Bit (crc32Bit (crc32Bit (crc32Bit (crc32Bit (crc32Bit (crc32Bit (crc32Bit (c ^^^ b))))))))
def crc32 (bs : List Nat) : Nat := bs.foldl crc32Byte 0xFFFFFFFF ^^^ 0xFFFFFFFF

/-- R565: COVERAGE, 1 ms units, saturating, is at most what the ring spans; entries that no row told may shorten it (log 7). -/
def coverageMax (d : Device) : Nat :=
  match d.log.entries.getLast? with
  | some e => min 65535 ((2 * d.cycles - e.stamp) / 200000)
  | none => 0

/-- The 8 bytes that describe an output change, little-endian: identity, cycle within the window, new value. -/
def changeBytes (x : BitVec 16 × BitVec 10 × Word) : List Nat :=
  [x.1.toNat % 256, x.1.toNat / 256, x.2.1.toNat % 256, x.2.1.toNat / 256] ++ wordBytesLE x.2.2

/-- R575, R572: a 10 microsecond window ends with its output changes: its digest, and with the hundredth window the interval
digest and a KEY. -/
def opOutputDigest (changes : List (BitVec 16 × BitVec 10 × Word)) (d : Device) : Device :=
  if recording d then
    let d := advanceTo ((d.roofTime / 1000 + 1) * 1000) d
    let bs := changes.flatMap changeBytes
    let d := { d with log := { d.log with
        winDigest := crc16 bs, bytes := d.log.bytes ++ bs, windows := d.log.windows + 1 } }
    let d := traceEntry 9 0 [d.log.winDigest % 256, d.log.winDigest / 256] d
    if 100 ≤ d.log.windows then
      let d := setFld (drawn d) W.TRC_STATUS_COVERAGE (freeOf d % (coverageMax d + 1))
      let n := d.log.bytes.length / 8
      let x := crc32 d.log.bytes
      traceKey (traceEntry 9 1 (wordBytesLE (lowW x) ++ [n % 256, n / 256 % 256])
        { d with log := { d.log with intDigest := x, bytes := [], windows := 0 } })
    else d
  else d

/-! ### Replay (R576-R578) -/

def rplState (d : Device) : Nat := fld d W.RPL_STATUS_RPL_STATE

/-- R576: a capture that may be replayed. -/
def replayable (d : Device) (s : Nat) : Bool :=
  match slotOf d s with
  | some x => x.replayable && !capErasing d s && x.fwP == getW d W.FW_VER_PURLIN && x.fwT == getW d W.FW_VER_THATCH
      && x.trussId == (getW d W.TRUSS_ID).toNat + (getW d (W.TRUSS_ID + 1)).toNat * 2 ^ 32
  | none => false

/-- R576: the replay of slot `s` loads its checkpoint. -/
def beginReplay (s : Nat) (d : Device) : Device :=
  let d := setW (setW (setW d W.RPL_STATUS 0#32) W.RPL_DIV 0#32) (W.RPL_DIV + 1) 0#32
  setFld { d with log := { d.log with replaySlot := s } } W.RPL_STATUS_RPL_STATE 1

/-- R578: a digest is compared at the end of a window or an interval; `cycle` is the divergence cycle of a mismatch, `sub`
whether an input before it was supplied under R565. -/
def opReplayDigest (same interval : Bool) (cycle : Nat) (sub : Bool) (d : Device) : Device :=
  if d.mode = .replay && (rplState d = 1 || rplState d = 2) then
    let d := setFld d W.RPL_STATUS_RPL_STATE 2
    if same then (if interval then addSat d W.RPL_STATUS_INTERVALS 1 else d)
    else
      let d := setW (setW d W.RPL_DIV (lowW cycle)) (W.RPL_DIV + 1) (highW cycle)
      raise 837 (setFlag (setFld d W.RPL_STATUS_RPL_STATE 3) W.RPL_STATUS_INPUT_SUB sub)
  else d

/-- R578: the stream ends without a mismatch. -/
def opRplDone (d : Device) : Device :=
  if d.mode = .replay && (rplState d = 1 || rplState d = 2) then raise 836 (setFld d W.RPL_STATUS_RPL_STATE 4) else d

/-! ### Commands (R447) -/

/-- R447, R567: TRACE_TRIGGER; one that meets the post-trigger interval is counted and completes at the freeze. -/
def opTraceTrigger (c : Cmd) (d : Device) : Device :=
  let p0 := c.p 0
  let choice := bitsOf p0 1 0
  judged c d false 3 [(bitsOf p0 31 2 = 0 && choice ≠ 3, .badParam), (modeOk .live d, .deniedMode),
      (trcState d = 1 || trcState d = 2, .busy), (choice = 0 || (slotOf d (choice - 1)).isNone, .busy)]
    (fun d =>
      if trcState d = 2 then keepRunning c (addSat d W.TRC_STATUS_TRIG_MISSED 1)
      else freezeStore 0 choice (traceEntry 11 0 [0] (keepRunning c (advanceTo (d.roofTime + 3) d))))

def opTraceRearm (c : Cmd) (d : Device) : Device :=
  judged c d false 3 [(modeOk .live d, .deniedMode), (trcState d ≠ 4 && !streaming d, .busy)]
    (fun d => complete c (if trcState d = 3 then rearm d else d) 3 .ok 0#32 0#32)

/-- R579: the capture leaves on the trace port at 40 ns a byte, 8 bytes of preamble first. -/
def opTraceStream (c : Cmd) (d : Device) : Device :=
  let p0 := c.p 0
  judged c d false 0 [(bitsOf p0 31 1 = 0 && (slotOf d (bitsOf p0 0 0)).isSome, .badParam), (modeOk .live d, .deniedMode)]
    (fun d => match slotOf d (bitsOf p0 0 0) with
      | some x =>
        let n := (x.length + 8) * 4
        let d := { d with log := { d.log with streamTo := max d.log.streamTo (d.roofTime + n) } }
        complete c d n .ok (BitVec.ofNat 32 (x.length / 4)) 0#32
      | none => d)

/-! ### The rows -/

def execTraceTrigger (rq : Req) (p0 : Word) (s : State) : Host.Outcome State Fault Refusal :=
  on (runRow rq 0xB0 [p0] [] opTraceTrigger) s
def execTraceRearm (rq : Req) (s : State) : Host.Outcome State Fault Refusal := on (runRow rq 0xB1 [] [] opTraceRearm) s
def execTraceStream (rq : Req) (p0 : Word) (s : State) : Host.Outcome State Fault Refusal :=
  on (runRow rq 0xB2 [p0] [] opTraceStream) s
def execSectorErase (s : State) : Host.Outcome State Fault Refusal := on opSectorErase s
def execGutterWrite (s : State) : Host.Outcome State Fault Refusal := on opGutterWrite s
def execGutAbandoned (s : State) : Host.Outcome State Fault Refusal := on opGutAbandoned s
def execGutterRewrite (s : State) : Host.Outcome State Fault Refusal := on opGutterRewrite s
def execGutBufFilled (s : State) : Host.Outcome State Fault Refusal := on opGutBufFilled s
def execTraceCheckpoint (s : State) : Host.Outcome State Fault Refusal := on opTraceCheckpoint s
def execTrcFrozen (s : State) : Host.Outcome State Fault Refusal := on opTrcFrozen s
def execTrcCopied (more : BitVec 21) (s : State) : Host.Outcome State Fault Refusal := on (opTrcCopied more.toNat) s
def execCapFreed (i : BitVec 1) (s : State) : Host.Outcome State Fault Refusal := on (opCapFreed i.toNat) s
def execReplayDigest (same interval : Bool) (cycle : BitVec 64) (sub : Bool) (s : State) : Host.Outcome State Fault Refusal :=
  on (opReplayDigest same interval cycle.toNat sub) s
def execRplDone (s : State) : Host.Outcome State Fault Refusal := on opRplDone s
def execOutputDigestRecord (changes : List (BitVec 16 × BitVec 10 × Word)) (s : State) : Host.Outcome State Fault Refusal :=
  on (opOutputDigest changes) s

end Sys2Proof.Machine
end

