-- ==== Sys2Proof/Machine/Registers.lean ====
section
/-! DEFINITION. Access to control words (15, R13, R418-R422): the judgement of a write, what a write or a read of a word does
beside the word, the commands and the rows that name one word. -/

namespace Sys2Proof.Machine

/-! ### What a write does beside its word -/

/-- R122: CL_STATUS.NO_SPARE of both clusters. -/
def putNoSpare (d : Device) : Device :=
  [0, 1].foldl (fun d c => setFlag d W.CL_STATUS_NO_SPARE (noSpare d c) c) d

/-- R121, R132: phase `p` has a new ROLE; the rails of its cluster are off. -/
def roleWritten (p : Nat) (d : Device) : Device :=
  let d := putNoSpare (if flag d W.PH_STATUS_FAILED p then d else setFld d W.PH_STATUS_STATE 0 p)
  if fld d W.PH_CFG_ROLE p = 4 then parkSpare (p / 5) d else d

/-- R215: the PGOOD pins whose mask is no longer met go low. -/
def recheckPgood (d : Device) : Device :=
  { d with core := { d.core with
      pgood := (List.range 4).foldl (fun m i => if pgoodMet d i then m else setBitNat m i false) d.core.pgood } }

/-- R116: a VCODE field of the word at `a` that changed moves its rail's reference. -/
def vcodeRails (a : Nat) (old new : Word) : List Nat :=
  (List.range 32).filter (fun n => vcodeAddr n == a
    && bitsOf old (vcodeFld n).hi (vcodeFld n).lo != bitsOf new (vcodeFld n).hi (vcodeFld n).lo)

/-- R220: FAULT_LATCH written with 1 clears only on a rail that is off with every comparator inside. -/
def faultLatchWritten (n : Nat) (old : Word) (d : Device) : Device :=
  let r := rail d n
  if bitOf old 22 && (r.enabled || r.falling || r.live ≠ 0) then setFlag d W.SUP_STATUS_FAULT_LATCH true n else d

/-- R248: CHG_EN written. -/
def chargerEnabled (old new : Word) (d : Device) : Device :=
  if bitOf old 0 && !bitOf new 0 then bkCharge (chgTo 0 d)
  else if !bitOf old 0 && bitOf new 0 then chgTo (if flag d W.CHG_FAULT_CHG_TIMEOUT then 9 else 1) d
  else d

/-- R501, 18: LIMSET or LIMSEL written: the consecutive counts of the channels it concerns restart. -/
def limitsWritten (a : Nat) (d : Device) : Device :=
  let hit := fun (ch : Nat) => if a < W.ADC_LIMSEL then limSet d ch == a - W.ADC_LIMSET + 1 else ch / 8 == a - W.ADC_LIMSEL
  { d with adc := { d.adc with limits := d.adc.limits.filter (fun p => !hit p.1) } }

/-- R528: HWD_EN set by a write starts the period. -/
def hwdWritten (old new : Word) (d : Device) : Device :=
  if !bitOf old 31 && bitOf new 31 then { d with fw := { d.fw with hwdBase := d.cycles, hwdHeld := 0 } } else d

/-- R569: CAP_FREE. -/
def capFreeWritten (v : Word) (d : Device) : Device :=
  (bitsIn (bitsOf v 1 0) 2).foldl (fun d s => eraseSlot s d) d

/-- R287, R309: LINK_EN is cleared: the device leaves the link and runs alone; it counts as disciplined once 16 frame periods have
passed since BOOT stage 4. -/
def linkAlone (d : Device) : Device :=
  let t := d.link.startAt
  let e := linkOff d
  let e := { e with link := { e.link with startAt := t } }
  if t + 16000 ≤ d.roofTime then setFlag (setFlag e W.LNK_STATUS_DISCIPLINED true) W.COLD_STATUS_LINK_UNDISCIPLINED false else e

/-- What a write of `v` by `src` does beside turning the word at `a` from `old` into `new`, which it holds already. -/
def afterWrite (src : Src) (a : Nat) (old new v : Word) (d : Device) : Device :=
  match a / 256 with
  | 1 => if a = W.MODE_CTRL then settleMode d else d
  | 3 =>
    if W.PGOOD_MASK ≤ a ∧ a < W.PGOOD_MASK + 4 then recheckPgood d
    else if a = W.BG_CTRL ∧ bitsOf old 31 16 ≠ bitsOf new 31 16 then { d with bg := { d.bg with tlmFrom := d.roofTime } }
    else d
  | 8 => if a % 32 = 16 then faultLatchWritten ((a - 0x800) / 32) old d else d
  | 9 => if a % 32 = 16 then faultLatchWritten ((a - 0x800) / 32) old d else d
  | 10 => if a % 32 = 16 then faultLatchWritten ((a - 0x800) / 32) old d else d
  | 11 => if a % 32 = 16 then faultLatchWritten ((a - 0x800) / 32) old d else d
  | 12 => if a < W.PH_CFG + 10 ∧ old ≠ new then roleWritten (a - W.PH_CFG) d else d
  | 13 =>
    let d := chargerTouch src d
    if a = W.CHG_SET then recompute (if srcIsHost src then setFlag d W.CHG_STATUS_WD_SAFE false else d)
    else if a = W.CHG_CTRL then chargerEnabled old new d
    else d
  | 14 => if a = W.GAUGE_CTRL then (if bitOf v 0 then forget d else d) else recompute d
  | 15 => if W.TX_CFG ≤ a ∧ a < W.TX_CFG + 8 ∧ bitOf old 31 ∧ !bitOf new 31 then txDisabled (a - W.TX_CFG) d else d
  | 16 => if W.ADC_LIMSET ≤ a ∧ a < W.ADC_LIMSEL + 17 then limitsWritten a d else d
  | 17 =>
    if W.EVT_EN ≤ a ∧ a < W.EVT_EN + 28 then enabledNow (a - W.EVT_EN) old new d
    else if W.EVT_COAL ≤ a ∧ a < W.EVT_COAL + 28 then recheckGroup (a - W.EVT_COAL) d
    else if a = W.EVT_CTRL ∧ bitOf old 0 ∧ !bitOf new 0 then deliverBacklog d
    else d
  | 19 =>
    if a = W.RTC_TIME then landTime new d
    else if a = W.RTC_DATE then landDate new d
    else if a = W.RTC_CAL then setFld d W.RTC_STATUS_TRIM_SRC 3
    else if a = W.RTC_CTRL ∧ bitOf new 0 ∧ !bitOf old 0 then setFld (drawn d) W.RTC_SUBSEC_PRESC (freeOf d)
    else d
  | 21 => putEligible (if a = W.LNK_CTRL ∧ bitOf old 0 ∧ !bitOf new 0 then linkAlone d else d)
  | 23 => if a = W.VLY_CMD ∧ bitOf v 0 then askEnd 0 d else d
  | 25 =>
    if a = W.PC_SMP then { d with perf := { d.perf with issuedNo := 0 } }
    else if a = W.PC_DUMP then { d with perf := { d.perf with dumpFrom := d.roofTime } }
    else d
  | 26 =>
    if a = W.GUT_SEL then gutSelect d
    else if a = W.TRC_CFG then traceEnable d
    else if a = W.CAP_FREE then capFreeWritten v d
    else d
  | 27 => if a = W.HWD_CFG then hwdWritten old new d else d
  | 28 => if a = W.SYNC_CFG ∧ bitsOf old 25 24 ≠ bitsOf new 25 24 then { d with core := { d.core with soFrom := d.roofTime } } else d
  | 29 => if a = W.SSO_CTRL then assertSso (bitsOf new 3 0 &&& (15 ^^^ bitsOf old 3 0)) false d else d
  | _ =>
    let d := (vcodeRails a old new).foldl (fun d n => moveReference n d) d
    if a / 256 = 4 ∨ a / 256 = 5 then rejudgeSync (if a % 32 = 0 then [railOfCfg a] else []) d else d

/-! ### The judgement of a write (R411, R420) -/

/-- R13, 15: an address word names a listed control word. -/
def addrOk (p0 : Word) : Bool := bitsOf p0 31 16 = 0 && (famOf? (bitsOf p0 15 0)).isSome

/-- The checks that look at the written value: R274 for FORGET, R569 for CAP_FREE of the slot being replayed. -/
def valueFails (a : Nat) (v : Word) (d : Device) : List Fail :=
  if a = W.GAUGE_CTRL then modeFail (bitOf v 0 && d.mode ≠ .service)
  else if a = W.CAP_FREE then
    (if d.mode = .replay ∧ (bitsOf v 1 0).testBit d.log.replaySlot then [⟨8, .busy, none⟩] else [])
  else []

/-- The checks of a write of `v` that would leave `new` at `a`. -/
def writeFails (src : Src) (p0 old new v : Word) (d : Device) : List Fail :=
  let a := bitsOf p0 15 0
  let e := setW d a new
  (if addrOk p0 then [] else [⟨3, .badParam, none⟩]) ++ modeFail (!modeOk .live d)
  ++ encFails e a ++ cfgFails e a ++ changeFails src a old new d ++ valueFails a v d

/-- R511: CK_SYS from the effect of a command to its completion: a write of RTC_TIME or RTC_DATE completes on the next CK_RTC
edge, at most 3,052 CK_SYS on (log 7); one that changes a VCODE after 15. -/
def writeCycles (n a : Nat) (old new : Word) (d : Device) : Nat :=
  if a = W.RTC_TIME ∨ a = W.RTC_DATE then n + freeOf d % 3053
  else if vcodeRails a old new ≠ [] then 15 else n

/-- The write of a word: `n` is its fixed count, `w1` and `w2` its results. -/
def writeWord (c : Cmd) (n : Nat) (old new v w1 w2 : Word) (d : Device) : Device :=
  let a := bitsOf (c.p 0) 15 0
  match pickFail (writeFails c.src (c.p 0) old new v d) with
  | some f => complete c d n f.st (failW1 f) 0#32
  | none =>
    let k := writeCycles n a old new d
    let d := if a = W.RTC_TIME ∨ a = W.RTC_DATE then drawn d else d
    complete c (afterWrite c.src a old new v (setW d a new)) k .ok w1 w2

/-- The word that a write of `v` leaves at `a`. -/
def merged (a : Nat) (old v : Word) : Word := (famOf? a).elim old (fun f => mergeWrite a f old v)

/-- R420. -/
def opRegWrite (c : Cmd) (d : Device) : Device :=
  let a := bitsOf (c.p 0) 15 0
  let old := getW d a
  writeWord c 6 old (merged a old (c.p 1)) (c.p 1) 0#32 0#32 d

/-- R419: the W1C bits of the word at `a`. -/
def w1cBits (a : Nat) : Word := BitVec.ofNat 32 ((famOf? a).elim 0 (fun f => f.w1c))

/-- R419. -/
def opRegRmw (c : Cmd) (d : Device) : Device :=
  let a := bitsOf (c.p 0) 15 0
  let old := readW d a
  let m := c.p 1
  let v := ((old &&& ~~~m) &&& ~~~(w1cBits a)) ||| (c.p 2 &&& m)
  let new := merged a (getW d a) v
  writeWord c 7 (getW d a) new v old new (if openWord a then drawn d else d)

/-! ### Reads -/

/-- What a read of the word at `a` does (R291, R515, R582). -/
def afterRead (a : Nat) (d : Device) : Device :=
  if a = W.LNK_FN then { d with link := { d.link with fnHigh := presentFn d / 2 ^ 32 } }
  else if W.PC_VAL ≤ a ∧ a < W.PC_VAL + 128 ∧ (a - W.PC_VAL) % 2 = 0 then
    let k := (a - W.PC_VAL) / 2
    { d with perf := { d.perf with highs := SMap.set (fun _ => 0) k (counterVal d k / 2 ^ 32) d.perf.highs } }
  else if W.EV_TS ≤ a ∧ a < W.EV_TS + 8 ∧ (a - W.EV_TS) % 2 = 1 then
    let x := (a - W.EV_TS) / 2
    { d with rtc := { d.rtc with fifos := SMap.set (fun _ => []) x ((evFifo d x).drop 1) d.rtc.fifos } }
  else d

/-- R577: in REPLAY every page but 0x00 and the replay words shows the replayed run, whose values the model does not have
(log 7). -/
def shownInReplay (a : Nat) : Bool := a / 256 = 0 || (W.RPL_STATUS ≤ a && a < W.RPL_STATUS + 5)

/-- The value a read of the word at `a` gives, and what it does. -/
def readOf (a : Nat) (d : Device) : Word × Device :=
  if (famOf? a).isNone then (0#32, d)
  else if d.mode = .replay && !shownInReplay a then (BitVec.ofNat 32 (freeOf d), drawn d)
  else (readW d a, afterRead a (if openWord a then drawn d else d))

/-- The checks of a read at `a` after its address: R414, R538, R522, R508. -/
def readChecks (src : Src) (a : Nat) (d : Device) : List (Bool × Status) :=
  let page := a / 256
  [(modeOk .all d, .deniedMode), (page ≠ 25 || !srcIsHost src || perfOpen d, .deniedPermission),
   (!(flag d W.MODE_STATUS_ADOPTING && 4 ≤ page && page < 12), .busy), (page ≠ 19 || !rtcLocked d, .busy)]

def opRegRead (c : Cmd) (d : Device) : Device :=
  let a := bitsOf (c.p 0) 15 0
  judged c d false 4 ((addrOk (c.p 0), .badParam) :: readChecks c.src a d)
    (fun d => let r := readOf a d; complete c r.2 4 .ok r.1 0#32)

/-- R421: the words at `a` and the `n` - 1 that follow, in ascending order. -/
def readBlock (n a : Nat) (d : Device) : List Word × Device :=
  match n with
  | 0 => ([], d)
  | n + 1 =>
    let r := readOf a d
    let t := readBlock n (a + 1) r.2
    (r.1 :: t.1, t.2)

/-- R417: the header of a Q15 record of type `ty` with `n` words. -/
def recordHeader (ty n : Nat) (c : Cmd) : Word :=
  BitVec.ofNat 32 (ty * 2 ^ 24 + n * 2 ^ 16 + c.tag * 2 ^ 4 + srcQueue c.src % 16)

/-- R417: a command's record of `ws`; `k` completes it with the Q15 index of the record's header, or it completes with BUSY
after `cyc`. -/
def withRecord (ty : Nat) (ws : List Word) (c : Cmd) (cyc : Nat) (d : Device) (k : Word → Device → Device) : Device :=
  let fits := ws.length + 1 ≤ ringRoom d 15
  let at_ := BitVec.ofNat 32 (ring d 15).wr
  let d := ringRecord 15 (recordHeader ty ws.length c :: ws) d
  if fits then k at_ d else complete c d cyc .busy 0#32 0#32

def opRegReadBlock (c : Cmd) (d : Device) : Device :=
  let p0 := c.p 0
  let a := bitsOf p0 15 0
  let n := bitsOf p0 23 16
  judged c d false (5 + n)
    ((bitsOf p0 31 24 = 0 && 1 ≤ n && a % 256 + n ≤ 256 && (famOf? a).isSome, .badParam) :: readChecks c.src a d)
    (fun d =>
      let r := readBlock n a d
      withRecord 0x01 r.1 c (5 + n) r.2 (fun at_ d => complete c d (5 + n) .ok (BitVec.ofNat 32 n) at_))

/-! ### The rows -/

/-- A row that writes `v` to the word at `a`. -/
def writeRow (rq : Req) (a : Nat) (v : Word) : Device → Device := runRow rq 0x11 [BitVec.ofNat 32 a, v] [] opRegWrite
/-- A row that reads the word at `a`. -/
def readRow (rq : Req) (a : Nat) : Device → Device := runRow rq 0x10 [BitVec.ofNat 32 a] [] opRegRead

def execRegRead (rq : Req) (p0 : Word) (s : State) : Host.Outcome State Fault Refusal :=
  on (runRow rq 0x10 [p0] [] opRegRead) s
def execRegWrite (rq : Req) (p0 p1 : Word) (s : State) : Host.Outcome State Fault Refusal :=
  on (runRow rq 0x11 [p0, p1] [] opRegWrite) s
def execRegRmw (rq : Req) (p0 p1 p2 : Word) (s : State) : Host.Outcome State Fault Refusal :=
  on (runRow rq 0x12 [p0, p1, p2] [] opRegRmw) s
def execRegReadBlock (rq : Req) (p0 : Word) (s : State) : Host.Outcome State Fault Refusal :=
  on (runRow rq 0x13 [p0] [] opRegReadBlock) s
def execForget (rq : Req) (s : State) : Host.Outcome State Fault Refusal := on (writeRow rq W.GAUGE_CTRL 1#32) s
def execEndReq (rq : Req) (s : State) : Host.Outcome State Fault Refusal := on (writeRow rq W.VLY_CMD 1#32) s
def execGutSel (rq : Req) (v : Word) (s : State) : Host.Outcome State Fault Refusal := on (writeRow rq W.GUT_SEL v) s
def execCapFree (rq : Req) (v : Word) (s : State) : Host.Outcome State Fault Refusal := on (writeRow rq W.CAP_FREE v) s
def execHostHold (rq : Req) (v : Word) (s : State) : Host.Outcome State Fault Refusal := on (writeRow rq W.SSO_CTRL v) s
def execFaultLatch (rq : Req) (n : BitVec 5) (s : State) : Host.Outcome State Fault Refusal :=
  on (writeRow rq (W.SUP_STATUS + 32 * n.toNat) 0x400000#32) s
def execRtcTime (rq : Req) (v : Word) (s : State) : Host.Outcome State Fault Refusal := on (writeRow rq W.RTC_TIME v) s
def execRtcDate (rq : Req) (v : Word) (s : State) : Host.Outcome State Fault Refusal := on (writeRow rq W.RTC_DATE v) s
def execEvTs (rq : Req) (x : BitVec 2) (s : State) : Host.Outcome State Fault Refusal :=
  on (readRow rq (W.EV_TS + 2 * x.toNat + 1)) s
def execLnkFn (rq : Req) (s : State) : Host.Outcome State Fault Refusal := on (readRow rq W.LNK_FN) s
def execPcVal (rq : Req) (k : BitVec 6) (s : State) : Host.Outcome State Fault Refusal :=
  on (readRow rq (W.PC_VAL + 2 * k.toNat)) s
def execSmpN (rq : Req) (v : Word) (s : State) : Host.Outcome State Fault Refusal := on (writeRow rq W.PC_SMP v) s
def execChgSet (rq : Req) (v : Word) (s : State) : Host.Outcome State Fault Refusal := on (writeRow rq W.CHG_SET v) s
def execEvtCoal (rq : Req) (g : BitVec 5) (v : Word) (s : State) : Host.Outcome State Fault Refusal :=
  on (writeRow rq (W.EVT_COAL + g.toNat) v) s
def execEvtEn (rq : Req) (g : BitVec 5) (v : Word) (s : State) : Host.Outcome State Fault Refusal :=
  on (writeRow rq (W.EVT_EN + g.toNat) v) s

end Sys2Proof.Machine
end

