-- ==== Sys2Proof/Machine/Sha.lean ====
section
/-! DEFINITION. SHA-256 (FIPS 180-4, which R61 names), and the digests of R61. -/

namespace Sys2Proof.Machine

/-- The 64 round constants. -/
def shaK : List Word :=
  [0x428A2F98#32, 0x71374491#32, 0xB5C0FBCF#32, 0xE9B5DBA5#32, 0x3956C25B#32, 0x59F111F1#32, 0x923F82A4#32, 0xAB1C5ED5#32] ++
  [0xD807AA98#32, 0x12835B01#32, 0x243185BE#32, 0x550C7DC3#32, 0x72BE5D74#32, 0x80DEB1FE#32, 0x9BDC06A7#32, 0xC19BF174#32] ++
  [0xE49B69C1#32, 0xEFBE4786#32, 0x0FC19DC6#32, 0x240CA1CC#32, 0x2DE92C6F#32, 0x4A7484AA#32, 0x5CB0A9DC#32, 0x76F988DA#32] ++
  [0x983E5152#32, 0xA831C66D#32, 0xB00327C8#32, 0xBF597FC7#32, 0xC6E00BF3#32, 0xD5A79147#32, 0x06CA6351#32, 0x14292967#32] ++
  [0x27B70A85#32, 0x2E1B2138#32, 0x4D2C6DFC#32, 0x53380D13#32, 0x650A7354#32, 0x766A0ABB#32, 0x81C2C92E#32, 0x92722C85#32] ++
  [0xA2BFE8A1#32, 0xA81A664B#32, 0xC24B8B70#32, 0xC76C51A3#32, 0xD192E819#32, 0xD6990624#32, 0xF40E3585#32, 0x106AA070#32] ++
  [0x19A4C116#32, 0x1E376C08#32, 0x2748774C#32, 0x34B0BCB5#32, 0x391C0CB3#32, 0x4ED8AA4A#32, 0x5B9CCA4F#32, 0x682E6FF3#32] ++
  [0x748F82EE#32, 0x78A5636F#32, 0x84C87814#32, 0x8CC70208#32, 0x90BEFFFA#32, 0xA4506CEB#32, 0xBEF9A3F7#32, 0xC67178F2#32]

/-- The initial hash value. -/
def shaInit : List Word := [0x6A09E667#32, 0xBB67AE85#32, 0x3C6EF372#32, 0xA54FF53A#32, 0x510E527F#32, 0x9B05688C#32,
  0x1F83D9AB#32, 0x5BE0CD19#32]

def rotr (n : Nat) (x : Word) : Word := (x >>> n) ||| (x <<< (32 - n))
def shaS0 (x : Word) : Word := rotr 2 x ^^^ rotr 13 x ^^^ rotr 22 x
def shaS1 (x : Word) : Word := rotr 6 x ^^^ rotr 11 x ^^^ rotr 25 x
def shas0 (x : Word) : Word := rotr 7 x ^^^ rotr 18 x ^^^ (x >>> 3)
def shas1 (x : Word) : Word := rotr 17 x ^^^ rotr 19 x ^^^ (x >>> 10)

/-- One more word of the message schedule, which is kept newest first. -/
def shaNext (w : List Word) : List Word :=
  (shas1 (w.getD 1 0#32) + w.getD 6 0#32 + shas0 (w.getD 14 0#32) + w.getD 15 0#32) :: w

/-- The message schedule of a block of 16 words. -/
def shaSchedule (b : List Word) : List Word := ((List.range 48).foldl (fun w _ => shaNext w) b.reverse).reverse

/-- One round on the eight working variables. -/
def shaRound (v : List Word) (kw : Word × Word) : List Word :=
  match v with
  | [a, b, c, d, e, f, g, h] =>
    let t1 := h + shaS1 e + ((e &&& f) ^^^ (~~~e &&& g)) + kw.1 + kw.2
    let t2 := shaS0 a + ((a &&& b) ^^^ (a &&& c) ^^^ (b &&& c))
    [t1 + t2, a, b, c, d + t1, e, f, g]
  | v => v

/-- The hash value after a block. -/
def shaBlock (h b : List Word) : List Word :=
  ((shaK.zip (shaSchedule b)).foldl shaRound h).zip h |>.map (fun p => p.1 + p.2)

/-- The big-endian words of a byte string. -/
def beWords (n : Nat) (bs : List Nat) : List Word :=
  match n with
  | 0 => []
  | n + 1 => BitVec.ofNat 32 (bs.getD 0 0 * 2 ^ 24 + bs.getD 1 0 * 2 ^ 16 + bs.getD 2 0 * 2 ^ 8 + bs.getD 3 0) ::
      beWords n (bs.drop 4)

/-- The blocks of `n` x 16 words. -/
def shaBlocks (n : Nat) (h ws : List Word) : List Word :=
  match n with
  | 0 => h
  | n + 1 => shaBlocks n (shaBlock h (ws.take 16)) (ws.drop 16)

/-- The message padded to whole blocks. -/
def shaPad (bs : List Nat) : List Nat :=
  let l := bs.length
  bs ++ [0x80] ++ List.replicate ((119 - l % 64) % 64) 0
    ++ (List.range 8).map (fun i => l * 8 / 2 ^ (8 * (7 - i)) % 256)

/-- SHA-256 of a byte string, as its 32 bytes. -/
def sha256 (bs : List Nat) : List Nat :=
  let p := shaPad bs
  (shaBlocks (p.length / 64) shaInit (beWords (p.length / 4) p)).flatMap wordBytes

/-- Bytes as a number, byte 0 in the lowest bits. -/
def leNat (bs : List Nat) : Nat := bs.foldr (fun b n => b + 256 * n) 0

/-- R61: the digest of a byte string: the first 8 bytes of its hash, byte 0 in bits [7:0]. -/
def digest64 (bs : List Nat) : Nat := leNat ((sha256 bs).take 8)

/-- The 8 bytes of a 64-bit word, byte 0 in bits [7:0] (R57). -/
def bytes8 (w : Nat) : List Nat := (List.range 8).map (fun i => w / 256 ^ i % 256)

end Sys2Proof.Machine
end

