-- ==== Sys2Proof/Machine/Otp.lean ====
section
/-! DEFINITION. One-time-programmable memory (03, R57-R77, R441, R442): words and margin reads, digests of regions, the
controller and its programming window, reading, overriding, programming and finalising. -/

namespace Sys2Proof.Machine

/-! ### Words and regions (R57, R60) -/

/-- A word as it reads normally, and as it reads at margin (R74). -/
def otpWord (d : Device) (w : Nat) : Nat := SMap.get (fun _ => 0) d.otp.array w
def otpWeak (d : Device) (w : Nat) : Nat := SMap.get (fun _ => 0) d.otp.weak w
def otpMargin (d : Device) (w : Nat) : Nat := otpWord d w ^^^ (otpWord d w &&& otpWeak d w)

/-- The region of a word. -/
def regionOf (w : Nat) : Nat :=
  if w < 128 then 0 else if w < 192 then 1 else if w < 320 then 2 else if w < 832 then 3 else if w < 960 then 4 else 5

/-- R60: the lock bit of region `n`. -/
def otpLocked (d : Device) (n : Nat) : Bool := (otpWord d 960).testBit n

/-- R59, R61: the bytes of region `n` that its digest covers: words 138 and 139 count as zero. -/
def regionBytes (d : Device) (n : Nat) : List Nat :=
  (List.range (regionSize n)).flatMap (fun k =>
    let w := regionBase n + k
    bytes8 (if w = 138 ∨ w = 139 then 0 else otpWord d w))
def regionDigest (d : Device) (n : Nat) : Nat := digest64 (regionBytes d n)

/-- R60: word `w` is marked in `INT_MAP`. -/
def otpMarked (d : Device) (w : Nat) : Bool := (otpWord d (968 + w / 64)).testBit (w % 64)

/-- R58, R59: the value of a thermometer-coded counter word. -/
def bitCount (v : Nat) : Nat := (bitsIn v 64).length

/-- OTP_STATUS.LOCKED, loaded at BOOT and on each finalise, and ENV_UNLOCKED (R77). -/
def loadLocks (d : Device) : Device :=
  let d := setFld d W.OTP_STATUS_LOCKED (otpWord d 960 % 32)
  setFlag d W.OTP_STATUS_ENV_UNLOCKED (!otpLocked d 2)

/-- FW_ARB: the counts of the two counters. -/
def putCounters (d : Device) : Device :=
  setFld (setFld d W.FW_ARB_ARB_PURLIN (bitCount (otpWord d 138))) W.FW_ARB_ARB_THATCH (bitCount (otpWord d 139))

/-! ### The programming window (R70, R71) -/

/-- R70, R71: bit 0 VPRE (millivolts), bit 1 the hottest die sensor (tenths of a degree) outside the window. -/
def windowFlags (vpre : Nat) (hot : Int) : Nat :=
  (if vpre < 4850 ∨ 5150 < vpre then 1 else 0) + (if hot < 100 ∨ 1100 < hot then 2 else 0)

/-- R69: the bits that programming `v` into word `w` blows. -/
def toBlow (d : Device) (w v : Nat) : Nat := v ^^^ (v &&& otpMargin d w)

/-- R72: ticks that programming `v` into word `w` takes. -/
def wordTicks (d : Device) (w v : Nat) : Nat := 4000 + 1200 * bitCount (toBlow d w v)

/-- The bits `hit` of word `w` are blown, those of `soft` to a charge that reads 1 normally and 0 at margin. -/
def blow (w hit soft : Nat) (d : Device) : Device :=
  let weak := otpWeak d w
  { d with otp := { d.otp with
      array := SMap.set (fun _ => 0) w (otpWord d w ||| hit) d.otp.array,
      weak := SMap.set (fun _ => 0) w ((weak ^^^ (weak &&& hit)) ||| (hit &&& soft)) d.otp.weak } }

/-- R76 steps 1-3: the words that finalising region `n` programs, or the word that fails. DESIGN CHOICE (log 18): for step 3 the
spec names no word; it is that of DIGEST[n]. -/
def finalizeWords (n : Nat) (d : Device) : Except Nat (List (Nat × Nat)) :=
  match (List.range (regionSize n)).find? (fun k => otpMargin d (regionBase n + k) != otpWord d (regionBase n + k)) with
  | some k => .error (regionBase n + k)
  | none =>
    let g := regionDigest d n
    let lock := [(960, otpWord d 960 ||| 2 ^ n)]
    if otpWord d (961 + n) = 0 then .ok ((961 + n, g) :: lock)
    else if otpWord d (961 + n) = g then .ok lock
    else .error (961 + n)

/-- R62, R76: ticks that reading region `n` normally and at margin takes. -/
def finalizeTicks (n : Nat) : Nat := 1800 + 600 * regionSize n

/-! ### The controller (R64) -/

def putOtpBusy (d : Device) : Device := setFlag d W.OTP_STATUS_BUSY (d.otp.line ≠ [])
def setLine (js : List OtpJob) (d : Device) : Device := putOtpBusy { d with otp := { d.otp with line := js } }
def setMark (m : Option Nat) (d : Device) : Device :=
  setFlag { d with otp := { d.otp with pendMark := m } } W.OTP_STATUS_MARK_PENDING m.isSome

/-- R535: Purlin's programming of a counter ends: at its value, or blocked by the window or by a failed margin read. -/
def counterEnd (ok : Bool) (d : Device) : Device :=
  let d := putCounters d
  let d := setFlag { d with fw := { d.fw with arbPend := !ok } } W.TRUST_STATUS_ARB_PENDING !ok
  raise (if ok then 777 else 778) d

/-- The operation `j` ends with a status and results. -/
def jobEnd (j : OtpJob) (st : Status) (w1 w2 : Nat) (d : Device) : Device :=
  match j.cmd with
  | some id => (d.eng.issued.filter (fun c => c.id == id)).foldl
      (fun d c => complete c d 0 st (BitVec.ofNat 32 w1) (BitVec.ofNat 32 w2)) d
  | none => counterEnd (st = .ok) d

/-- The OTP_FINALIZE that operation `j` serves. -/
def finalizeOf (d : Device) (j : OtpJob) : Option Cmd := d.eng.issued.find? (fun c => some c.id == j.cmd && c.op == 0x93)

/-- The operation `j` is an OTP_READ: it programs nothing. -/
def isRead (d : Device) (j : OtpJob) : Bool := j.words.isEmpty && !j.mark && (finalizeOf d j).isNone

/-- R76: the words that operation `j` programs and when the first may start; an OTP_FINALIZE reads its region first. -/
def jobWords (d : Device) (j : OtpJob) : Except Nat (List (Nat × Nat)) × Nat :=
  match finalizeOf d j with
  | some c =>
    if j.begun then (.ok j.words, d.roofTime)
    else (finalizeWords (bitsOf (c.p 0) 2 0) d, d.roofTime + finalizeTicks (bitsOf (c.p 0) 2 0))
  | none => (.ok j.words, d.roofTime)

/-- R73: the word of `INT_MAP` that the pending mark is to be burned into, with its new value. -/
def markWord (d : Device) : Option (Nat × Nat) :=
  d.otp.pendMark.map (fun w => (968 + w / 64, otpWord d (968 + w / 64) ||| 2 ^ (w % 64)))

/-- R64, R71, R73, R76: the operation at the head of the line starts, or goes on with its next word: an OTP_READ reads; a
pending mark is burned before anything else; a sample outside the window, or a region that fails step 1 or 3 of R76, ends it
and the next operation starts. `n` bounds how many end. -/
def startLine (n : Nat) (d : Device) : Device :=
  match n, d.otp.line with
  | n + 1, j :: t =>
    let fl := windowFlags j.sample.1 j.sample.2
    if isRead d j then setLine ({ j with start := d.roofTime } :: t) d
    else match markWord d with
    | some m =>
      if fl ≠ 0 then startLine n (jobEnd j .progBlockedSupply fl 0 (setLine t d))
      else setLine ({ j with words := m :: j.words, mark := true, start := d.roofTime } :: t) d
    | none => (match jobWords d j with
      | (.error w, at_) => startLine n (jobEnd j .hwFault w 0 (setLine t (advanceTo at_ d)))
      | (.ok ws, at_) =>
        if fl ≠ 0 then startLine n (jobEnd j .progBlockedSupply fl 0 (setLine t (advanceTo at_ d)))
        else setLine ({ j with words := ws, begun := true, start := at_ } :: t) d)
  | _, _ => putOtpBusy d

/-- R64: an operation reaches the controller. -/
def enqueueJob (j : OtpJob) (d : Device) : Device :=
  let idle := d.otp.line = []
  let d := setLine (d.otp.line ++ [j]) d
  if idle then startLine 1 d else d

/-- The operation at the head of the line has ended; the next starts. -/
def nextJob (d : Device) : Device := startLine (d.otp.line.length + 1) (setLine (d.otp.line.drop 1) d)

/-- R442: the half of word `w` that holds bit `b`, as W1 bit 3, and as W2 at margin. -/
def halfFlag (b : Nat) : Nat := if 32 ≤ b then 8 else 0
def halfOf (d : Device) (w b : Nat) : Nat := otpMargin d w / 2 ^ (32 * (b / 32)) % 2 ^ 32

/-- The lowest bit in which two words differ. -/
def firstDiff (a b : Nat) : Nat := (bitsIn (a ^^^ b) 64).headD 0

/-- R64: the operation `j` has words left: the reads that wait behind it come first, then its next word. -/
def goOn (j : OtpJob) (d : Device) : Device :=
  let t := d.otp.line.drop 1
  let reads := t.takeWhile (isRead d)
  let d := setLine (reads ++ j :: t.drop reads.length) d
  startLine (d.otp.line.length + 1) d

/-- R72, R76: the word `w` of operation `j`, to read `v`, has been programmed and read at margin; `rest` are the words that
follow. W2 carries the margin-read value on a mismatch, and W1 the word number for an OTP_FINALIZE (R76). -/
def wordProgrammed (j : OtpJob) (w v : Nat) (rest : List (Nat × Nat)) (d : Device) : Device :=
  let fin := (finalizeOf d j).isSome
  if otpMargin d w ≠ v then
    let b := firstDiff (otpMargin d w) v
    nextJob (jobEnd j .hwFault (if fin then w else halfFlag b) (halfOf d w b) d)
  else if j.mark then goOn { j with words := rest, mark := false } (setMark none d)
  else if rest = [] then nextJob (jobEnd j .ok 0 (if fin then 0 else halfOf d w 0) (if fin then loadLocks d else d))
  else goOn { j with words := rest } d

/-- R72: the programming and margin read of the word in progress complete; `miss` are the bits that did not blow, `soft` those
that read 1 normally and 0 at margin; `vpre` and `hot` are the sample before the operation's next word (R70). -/
def opOtpWordDone (miss soft vpre : Nat) (hot : Int) (d : Device) : Device :=
  match d.otp.line with
  | j :: _ => (match j.words with
    | (w, v) :: rest =>
      let d := advanceTo (j.start + wordTicks d w v) d
      let b := toBlow d w v
      wordProgrammed { j with sample := (vpre, hot) } w v rest (blow w (b ^^^ (b &&& miss)) soft d)
    | [] => d)
  | [] => d

/-- R73: how many bits of `b` to blow are blown when the word is stopped `us` microseconds after its start. -/
def blownAt (us b : Nat) : Nat := min b ((us - 20) / 12)

/-- R73: sample `s` (every 10 microseconds) of the word in progress lies outside the window: the word is stopped. `left` says
what the pulse in progress left of its bit: 0 nothing, 1 a charge that reads 1 normally and 0 at margin, else a whole bit.
DESIGN CHOICE (log 18): where no pulse was in progress, R442 does not say which half W1 and W2 report; it is that of the next bit
to blow, and after the last one that of the last. -/
def opOtpWindowSample (s vpre : Nat) (hot : Int) (left : Nat) (d : Device) : Device :=
  match d.otp.line with
  | j :: _ => (match j.words with
    | (w, v) :: _ =>
      let fl := windowFlags vpre hot
      if fl = 0 ∨ wordTicks d w v < s * 1000 then d
      else
        let bs := bitsIn (toBlow d w v) 64
        let n := blownAt (s * 10) bs.length
        let done := (bs.take n).foldl (fun m i => m ||| 2 ^ i) 0
        let cut := if 2 ≤ s ∧ n < bs.length ∧ left ≠ 0 then 2 ^ bs.getD n 0 else 0
        let d := advanceTo (j.start + s * 1000 + 2000) d
        let d := blow w (done ||| cut) (if left = 1 then cut else 0) d
        let b := bs.getD n (bs.getLastD 0)
        let d := if j.mark then d else setMark (some w) d
        nextJob (jobEnd j .progBlockedSupply (fl + 4 + halfFlag b) (halfOf d w b) d)
    | [] => d)
  | [] => d

/-! ### Reading (R64, R441) -/

def otpFirst (c : Cmd) : Nat := bitsOf (c.p 0) 9 0
def otpCount (c : Cmd) : Nat := bitsOf (c.p 0) 21 16

def opOtpRead (c : Cmd) (d : Device) : Device :=
  judged c d false 0
    [(bitsOf (c.p 0) 31 22 = 0 && bitsOf (c.p 0) 15 10 = 0 && 1 ≤ otpCount c && otpCount c ≤ 62
        && otpFirst c + otpCount c ≤ 1024, .badParam), (modeOk .all d, .deniedMode)]
    (fun d => enqueueJob { cmd := some c.id } (keepRunning { c with wait := if d.otp.line = [] then 0 else 2 } d))

/-- R64, R441: the read in progress completes. -/
def opOtpReadDone (d : Device) : Device :=
  match d.otp.line with
  | j :: _ =>
    if j.words ≠ [] then d
    else match d.eng.issued.find? (fun c => some c.id == j.cmd) with
      | none => nextJob d
      | some c =>
        let n := otpCount c
        let d := advanceTo (j.start + 1800 + 200 * n + 3) d
        let ws := (List.range n).map (fun k => otpWord d (otpFirst c + k))
        nextJob (if n = 1 then complete c d 0 .ok (lowW (ws.headD 0)) (highW (ws.headD 0))
          else withRecord 0x02 (ws.flatMap (fun w => [lowW w, highW w])) c 0 d
            (fun at_ d => complete c d 0 .ok (BitVec.ofNat 32 n) at_))
  | [] => d

/-! ### Trial overrides (R65-R67) -/

/-- The 64-bit value of P1 and P2. -/
def otpValue (c : Cmd) : Nat := (c.p 1).toNat + (c.p 2).toNat * 2 ^ 32

/-- R66: the present settings of every service-hold rail lie within the envelope in force on `e`. -/
def heldInside (e : Device) : Bool :=
  (List.range 32).all (fun n => !maskBit e W.SEQ_SVCHOLD n
    || (vOk e n && iOk e n && rampOk e n && slewOk e n && allowedRail e n && !noServiceHold e n
        && (railKind n != .gb || biasPair e (n - 24) &&& (15 ^^^ assoc e n) = 0)))

def withShadow (w v : Nat) (d : Device) : Device :=
  { d with otp := { d.otp with shadow := SMap.set (fun _ => 0) w v d.otp.shadow } }

def opOtpShadowWrite (c : Cmd) (d : Device) : Device :=
  let w := otpFirst c
  gated c d (fun d => [
      (bitsOf (c.p 0) 31 10 = 0 && w < 320, .badParam), (inMode d [.service], .deniedMode),
      (c.src != .thatch && 192 ≤ w && !otpLocked d 2 && (!trussActive d || d.otp.permit.testBit 1), .deniedPermission),
      (heldInside (withShadow w (otpValue c) d), .deniedEnvelope)])
    (fun d =>
      let d := advanceTo (d.roofTime + 6) d
      complete c (setFlag (withShadow w (otpValue c) d) W.OTP_STATUS_OVR_ACTIVE true) 0 .ok 0#32 0#32)

/-! ### Programming and finalising (R68-R76) -/

/-- R68: word `w` may be programmed by a command of source `src`. -/
def mayProgram (src : Src) (w : Nat) (d : Device) : Bool :=
  let n := regionOf w
  if w = 138 ∨ w = 139 then src = .purlin else 2 ≤ n && n ≤ 4 && !otpLocked d n

/-- R70: the window sample before a command's first word. -/
def envSample (c : Cmd) : Nat × Int := ((c.e 0).toNat, c.e 1)

def opOtpProgram (c : Cmd) (d : Device) : Device :=
  let w := otpFirst c
  let v := otpValue c
  gated c d (fun d => [
      (bitsOf (c.p 0) 31 10 = 0 && otpWord d w &&& v = otpWord d w, .badParam), (inMode d [.service], .deniedMode),
      (mayProgram c.src w d, .deniedPermission)])
    (fun d => enqueueJob { cmd := some c.id, words := [(w, v)], sample := envSample c }
      (keepRunning { c with wait := if d.otp.line = [] then 0 else 2 } d))

def opOtpFinalize (c : Cmd) (d : Device) : Device :=
  let n := bitsOf (c.p 0) 2 0
  gated c d (fun d => [notThatch c,
      (bitsOf (c.p 0) 31 3 = 0 && 2 ≤ n && n ≤ 4, .badParam), (inMode d [.service], .deniedMode),
      (!otpLocked d n, .deniedPermission)])
    (fun d => enqueueJob { cmd := some c.id, sample := envSample c }
      (keepRunning { c with wait := if d.otp.line = [] then 0 else 2 } d))

/-! ### The rows -/

def execOtpRead (rq : Req) (p0 : Word) (s : State) : Host.Outcome State Fault Refusal :=
  on (runRow rq 0x90 [p0] [] opOtpRead) s
def execOtpShadowWrite (rq : Req) (p0 p1 p2 : Word) (s : State) : Host.Outcome State Fault Refusal :=
  on (runRow rq 0x91 [p0, p1, p2] [] opOtpShadowWrite) s
def execOtpProgram (rq : Req) (p0 p1 p2 : Word) (vpre : Nat) (hot : Int) (s : State) : Host.Outcome State Fault Refusal :=
  on (runRow rq 0x92 [p0, p1, p2] [vpre, hot] opOtpProgram) s
def execOtpFinalize (rq : Req) (p0 : Word) (vpre : Nat) (hot : Int) (s : State) : Host.Outcome State Fault Refusal :=
  on (runRow rq 0x93 [p0] [vpre, hot] opOtpFinalize) s
def execOtpReadDone (s : State) : Host.Outcome State Fault Refusal := on opOtpReadDone s
def execOtpWordDone (miss soft : BitVec 64) (vpre : Nat) (hot : Int) (s : State) : Host.Outcome State Fault Refusal :=
  on (opOtpWordDone miss.toNat soft.toNat vpre hot) s
def execOtpWindowSample (n vpre : Nat) (hot : Int) (left : BitVec 2) (s : State) : Host.Outcome State Fault Refusal :=
  on (opOtpWindowSample n vpre hot left.toNat) s

end Sys2Proof.Machine
end

