-- ==== Sys2Proof/Machine/Truss.lean ====
section
/-! DEFINITION. The truss image (03, R80-R88, R644, R645): its parts, the tests of R86, selection and application, staging and
commit. -/

namespace Sys2Proof.Machine

/-! ### The areas and their bytes -/

def flashDflt (_ : Nat) : Word := 0xFFFFFFFF#32

/-- Word `i` of flash copy 0 or 1. -/
def copyOf (d : Device) (k : Nat) : SMap Word := if k = 0 then d.otp.flash0 else d.otp.flash1
def setCopy (k : Nat) (m : SMap Word) (d : Device) : Device :=
  if k = 0 then { d with otp := { d.otp with flash0 := m } } else { d with otp := { d.otp with flash1 := m } }

/-- The first `n` bytes (a multiple of 8) of candidate `k`: copies 0 and 1, or region 3 of OTP (2). -/
def trussBytes (d : Device) (k n : Nat) : List Nat :=
  if k < 2 then (List.range (n / 4)).flatMap (fun i => wordBytesLE (SMap.get flashDflt (copyOf d k) i))
  else (List.range (n / 8)).flatMap (fun i => bytes8 (otpWord d (320 + i)))

def trussArea (k : Nat) : Nat := if k < 2 then 32768 else 4096
def magicBytes : List Nat := [0x54, 0x52, 0x55, 0x53]

/-- Little-endian fields of a byte string. -/
def u16At (bs : List Nat) (i : Nat) : Nat := leNat ((bs.drop i).take 2)
def u32At (bs : List Nat) (i : Nat) : Nat := leNat ((bs.drop i).take 4)
def u64At (bs : List Nat) (i : Nat) : Nat := leNat ((bs.drop i).take 8)

/-! ### Records (R82, R83) -/

/-- R82: a record: type, instance, flags, its value, and its bytes with the header. -/
structure TrussRec where
  ty : Nat
  inst : Nat
  flags : Nat
  value : List Nat
  raw : List Nat
deriving DecidableEq, Repr

/-- R86 test 3: `n` records that exactly fill `bs`. -/
def parseRecs (n : Nat) (bs : List Nat) : Option (List TrussRec) :=
  match n with
  | 0 => if bs = [] then some [] else none
  | n + 1 =>
    let len := u16At bs 2
    if bs.length < 8 + len then none
    else (parseRecs n (bs.drop (8 + len))).map (fun t =>
      { ty := u16At bs 0, inst := u16At bs 4, flags := u16At bs 6, value := (bs.drop 8).take len, raw := bs.take (8 + len) } :: t)

def TrussRec.shared (r : TrussRec) : Bool := r.flags.testBit 0
def TrussRec.isOptional (r : TrussRec) : Bool := r.flags.testBit 1
/-- R82: the record applies to the device. -/
def TrussRec.applies (d : Device) (r : TrussRec) : Bool := r.inst == 0xFFFF || r.inst == d.core.strap

/-- R84: a `LOAD` may address the word at `a`. -/
def loadable (a : Nat) : Bool :=
  let p := a / 256
  (1 ≤ p && p ≤ 7) || (0x0C ≤ p && p ≤ 0x13) || (0x15 ≤ p && p ≤ 0x19) || (0x1B ≤ p && p ≤ 0x1D)
  || a == W.TRC_CFG || a == W.TRC_TRIG

/-- R83: the words a `LOAD` record writes. -/
def TrussRec.loads (r : TrussRec) : List (Nat × Word) :=
  if r.ty = 1 then
    (List.range (u16At r.value 2)).map (fun k =>
      (r.value.getD 0 0 * 256 + r.value.getD 1 0 + k, BitVec.ofNat 32 (u32At r.value (4 + 4 * k))))
  else []

/-- R84: a word a `LOAD` may write, with no bit set in a reserved, RO or W1C field. -/
def loadWordOk (p : Nat × Word) : Bool :=
  loadable p.1 && (match famOf? p.1 with
    | some f => p.2 &&& ~~~(settable p.1 f ||| BitVec.ofNat 32 f.wo) == 0#32
    | none => false)

/-- R86 test 5 on one record: R82 to R84. -/
def TrussRec.ok (r : TrussRec) : Bool :=
  r.value.length % 4 == 0 && (r.inst == 0xFFFF || r.inst < 8) && r.flags < 4 &&
  (if r.ty = 1 then
     let n := u16At r.value 2
     1 ≤ n && n ≤ 255 && r.value.length == 4 + 4 * n && r.value.getD 1 0 + n ≤ 256 && r.loads.all loadWordOk
   else if r.ty = 2 then r.value.length == 8 && r.shared
   else if r.ty = 3 then r.value.length == 8
   else if r.ty = 4 then r.value.length == 4
   else true)

/-- R82-R84: the records are well formed together: each, at most one `ROOF` and one `PERMIT` that apply, no word loaded twice. -/
def recsOk (d : Device) (rs : List TrussRec) : Bool :=
  let mine := rs.filter (TrussRec.applies d)
  let addrs := (mine.flatMap TrussRec.loads).map (fun p => p.1)
  rs.all TrussRec.ok && (mine.filter (fun r => r.ty == 2)).length ≤ 1 && (mine.filter (fun r => r.ty == 4)).length ≤ 1
  && addrs.eraseDups.length == addrs.length

/-! ### The words in force (R644, R645) -/

/-- R644: the fields of the word at `a` whose Reset column says "truss". -/
def trussMask (a : Nat) : Nat :=
  if 0x10000 ≤ a ∨ a / 256 = 0x13 ∨ a = W.WAKE_CFG ∨ a = W.SSO_CTRL ∨ a = W.EVT_CTRL ∨ a = W.GUT_SEL then 0
  else if a = W.CHG_WD then 0xFF
  else (famOf? a).elim 0 (fun f => f.rw ||| f.rwp)

/-- R644: the `SLEW` word of a rail that has one. -/
def slewAddr (n : Nat) : Option Nat :=
  match railKind n with
  | .hc => some (W.HC_SLEW + 32 * railIdx n) | .cl => some (W.CL_SLEW + 32 * railIdx n)
  | .sb => some (W.SB_SLEW + 32 * railIdx n) | .ld => some (W.LD_SLEW + 32 * railIdx n) | .gb => none

/-- The bits `m` of the word at `a` take those of `w`. -/
def putMasked (a m : Nat) (w : Word) (d : Device) : Device :=
  let k := BitVec.ofNat 32 m
  setW d a ((getW d a &&& ~~~k) ||| (w &&& k))

/-- R644: every "truss" field at the value it has when no truss loads it. -/
def trussDefaults (d : Device) : Device :=
  let d := d.words.foldl (fun d p => putMasked p.1 (trussMask p.1) (resetWord p.1) d) d
  (List.range 32).foldl (fun d n => match slewAddr n with
    | some a => putMasked a 0xFFFF (BitVec.ofNat 32 (if envSlew d n = 0 then 65535 else envSlew d n)) d
    | none => d) d

/-- R84: a `LOAD` of one word. -/
def loadWord (d : Device) (p : Nat × Word) : Device :=
  putMasked p.1 ((famOf? p.1).elim 0 (fun f => f.rw ||| f.rwp)) p.2 d

/-- R645: the rails whose set point a `LOAD` set: the field itself, whatever VPRE makes it read (R95). -/
def configuredMask (d : Device) : Nat :=
  (List.range 32).foldl (fun m n => if fld d (vcodeFld n) (railIdx n) ≠ 0 then m ||| 2 ^ n else m) 0

/-- R86, R87: the device with the words that `loads` leaves in force. -/
def withLoads (loads : List (Nat × Word)) (d : Device) : Device :=
  let e := loads.foldl loadWord (trussDefaults d)
  { e with seq := { e.seq with configured := configuredMask e } }

/-- The addresses of every control word. -/
def allWords : List Nat := (List.range 0x1E00).filter (fun a => (famOf? a).isSome)

/-! ### The tests of R86 -/

/-- The `ROOF` record that applies (R83). -/
def roofOf (d : Device) (rs : List TrussRec) : Option RoofRec :=
  ((rs.filter (TrussRec.applies d)).find? (fun r => r.ty == 2)).map (fun r =>
    { required := r.value.getD 0 0, optional := r.value.getD 1 0, minCompat := u16At r.value 2, proto := r.value.getD 4 0,
      degraded := (r.value.getD 5 0).testBit 0 })

/-- R86 test 7 for `ROOF`: R78's ROOF_FLAGS and ROOF_ADDR_FORBIDDEN. -/
def roofAllowed (d : Device) (rs : List TrussRec) : Bool :=
  match roofOf d rs with
  | some r => !roofForbidden d && (r.required ||| r.optional) &&& roofAddrForbidden d = 0
  | none => true

/-- R86 test 7, R644: the words in force after `loads` meet every rule that refuses a write of them with BAD_PARAM or
DENIED_ENVELOPE, and each loaded word lies within its encodings. The order of R477 is judged on every loaded threshold word, and
on a word taken under R644 where its input is converted: an input with TX_EN = 0 takes part in no check (R470; log 19). -/
def settingsAllowed (loads : List (Nat × Word)) (d : Device) : Bool :=
  let e := withLoads loads d
  (loads.all (fun p => (encFails e p.1).isEmpty)) && allWords.all (fun a => (cfgFails e a).isEmpty)
  && (List.range 8).all (fun x => !flag e W.TX_CFG_TX_EN x || (txThFails e x).isEmpty)

/-- R86 test 8. -/
def envRefOk (d : Device) (rs : List TrussRec) : Bool :=
  (rs.filter (TrussRec.applies d)).all (fun r =>
    r.ty != 3 || u64At r.value 0 = 0 || !otpLocked d 2 || u64At r.value 0 = otpWord d 963)

/-- A candidate's image: its records, what its header and trailer say. -/
structure Image where
  recs : List TrussRec
  seq : Nat
  ident : Nat
deriving DecidableEq, Repr

/-- The bytes of the records of candidate `k` with header `h`, or none where IMAGE_LEN does not fit the area. -/
def recordBytes (d : Device) (k : Nat) (h : List Nat) : Option (List Nat) :=
  let n := u32At h 8
  if n < 64 ∨ trussArea k < n then none
  else some (((trussBytes d k (n + 8)).drop 32).take (n - 64))

/-- The trailer of candidate `k`. -/
def trailerBytes (d : Device) (k : Nat) (h : List Nat) : List Nat :=
  ((trussBytes d k (u32At h 8 + 8)).drop (u32At h 8 - 32)).take 32

/-- R86: candidate `k` judged, its MAGIC taken as present when `commit`: the first failing test, or 0, and the image. -/
def judgeImage (d : Device) (k : Nat) (commit : Bool) : Nat × Image :=
  let none_ : Image := { recs := [], seq := 0, ident := 0 }
  let h := magicBytes ++ (trussBytes d k 32).drop 4
  if !commit && (trussBytes d k 8).take 4 != magicBytes then (1, none_)
  else if u16At h 4 ≠ 2 ∨ u16At h 6 ≠ 32 ∨ (h.drop 24).any (fun b => b != 0) then (2, none_)
  else match recordBytes d k h with
    | none => (3, none_)
    | some body => (match parseRecs (u16At h 18) body with
      | none => (3, none_)
      | some rs =>
        let mine := (rs.filter (TrussRec.applies d)).flatMap TrussRec.loads
        let img : Image := { recs := rs, seq := u32At h 12, ident := u64At (trailerBytes d k h) 0 }
        if sha256 (h ++ body) ≠ trailerBytes d k h then (4, img)
        else if !recsOk d rs then (5, img)
        else if rs.any (fun r => (r.ty = 0 || 5 < r.ty) && !r.isOptional) then (6, img)
        else if !roofAllowed d rs || !settingsAllowed mine d then (7, img)
        else if !envRefOk d rs then (8, img)
        else if fld d W.ROOF_COMPAT_OWN_COMPAT < u16At h 16 then (9, img)
        else (0, img))

/-- R62, R646: the device with the regions as the last stage 2 read them. -/
def asRead (d : Device) : Device := { d with otp := { d.otp with array := d.otp.kept } }

/-- R84, R544: the `LOAD` records in force: those of the active truss that apply to the device. -/
def activeLoads (e : Device) : List (Nat × Word) :=
  let d := asRead e
  let k := fld d W.TRUSS_STATUS_ACTIVE_SRC - 1
  let h := magicBytes ++ (trussBytes d k 32).drop 4
  if fld d W.TRUSS_STATUS_ACTIVE_SRC = 0 then []
  else match recordBytes d k h with
    | none => []
    | some body => (match parseRecs (u16At h 18) body with
      | none => []
      | some rs => (rs.filter (TrussRec.applies d)).flatMap TrussRec.loads)

/-- R85: the shared digest of an image. -/
def sharedDigest (i : Image) : Nat := digest64 ((i.recs.filter TrussRec.shared).flatMap (fun r => r.raw))

/-! ### Selection and application (R87) -/

/-- R87: the candidate that becomes active (0, 1 flash copies, 2 OTP), from the judgements of the three. -/
def bestOf (c0 c1 c2 : Nat × Image) : Option (Nat × Image) :=
  if c0.1 = 0 ∧ (c1.1 ≠ 0 ∨ c1.2.seq ≤ c0.2.seq) then some (0, c0.2)
  else if c1.1 = 0 then some (1, c1.2)
  else if c2.1 = 0 then some (2, c2.2)
  else none

/-- The words of page 0x14 that describe the active truss. -/
def putTrussWords (src seq ident digest : Nat) (d : Device) : Device :=
  let d := setFlag (setFld d W.TRUSS_STATUS_ACTIVE_SRC src) W.TRUSS_STATUS_STAGED false
  let d := setW (setW (setW d W.TRUSS_SEQ (lowW seq)) W.TRUSS_ID (lowW ident)) (W.TRUSS_ID + 1) (highW ident)
  setW (setW d W.SHARED_DIGEST (lowW digest)) (W.SHARED_DIGEST + 1) (highW digest)

/-- The identity of the active truss (R85). -/
def trussIdent (d : Device) : Nat := (getW d W.TRUSS_ID).toNat + (getW d (W.TRUSS_ID + 1)).toNat * 2 ^ 32

/-- R463: groups whose EN words the load changed. -/
def latchEnabled (old : Device) (d : Device) : Device :=
  (List.range 28).foldl (fun d g => enabledNow g (getW old (W.EVT_EN + g)) (getW d (W.EVT_EN + g)) d) d

/-- R122: every BOOT raises PHASE_FAULT of the lowest configured rail of a cluster without a spare. -/
def spareless (d : Device) : Device :=
  let d := putNoSpare d
  [0, 1].foldl (fun d c => match (List.range 4).find? (fun r => configured d (4 + 4 * c + r)) with
    | some r => if noSpare d c then raise (160 + 4 + 4 * c + r) d else d
    | none => d) d

/-- R87, R644: the chosen truss, or none, is applied. -/
def applyTruss (best : Option (Nat × Image)) (d : Device) : Device :=
  let was := d
  let img := (best.map (fun b => b.2)).getD { recs := [], seq := 0, ident := 0 }
  let mine := img.recs.filter (TrussRec.applies d)
  let d := withLoads (mine.flatMap TrussRec.loads) d
  let dig := if best.isSome then sharedDigest img else 0
  let d := { d with otp := { d.otp with
    roofRec := roofOf d img.recs, digest := dig,
    permit := ((mine.find? (fun r => r.ty == 4)).map (fun r => u32At r.value 0)).getD 0 } }
  let d := putTrussWords ((best.map (fun b => b.1 + 1)).getD 0) img.seq img.ident dig d
  let d := if trussIdent was ≠ img.ident then setFlag d W.ROOF_STATUS_RESIGNED false else d
  let d := hwdWritten (getW was W.HWD_CFG) (getW d W.HWD_CFG) d
  let d := if flag d W.CHG_CTRL_CHG_EN && chgState d = 0 then chargerEnabled 0#32 1#32 d else d
  let d := rejudgeSync switchingRails d
  traceEnable (latchEnabled was (spareless (recheckPgood (putEligible d))))

/-- R86, R87, R540: the candidates are judged and the active truss is selected and applied. -/
def selectTruss (d : Device) : Device :=
  let c0 := judgeImage (asRead d) 0 false
  let c1 := judgeImage (asRead d) 1 false
  let c2 := judgeImage (asRead d) 2 false
  let d := setFld (setFld (setFld d W.TRUSS_STATUS_REJECT_0 c0.1) W.TRUSS_STATUS_REJECT_1 c1.1) W.TRUSS_STATUS_REJECT_OTP c2.1
  let refused := ([c0, c1, c2].filter (fun c => c.1 == 7)).map (fun c => sharedDigest c.2)
  let d := applyTruss (bestOf c0 c1 c2) { d with otp := { d.otp with refusedDigests := refused } }
  let d := if c0.1 ≠ 0 then raise 772 d else d
  if c1.1 ≠ 0 then raise 772 d else d

/-! ### TRUSS_STAGE and TRUSS_COMMIT (R88, R443) -/

/-- R88: the copy that TRUSS_STAGE writes. -/
def stageCopy (d : Device) : Nat := if fld d W.TRUSS_STATUS_ACTIVE_SRC = 2 then 0 else 1

/-- R88: `ws` written from word `i` on; word 0 never. -/
def writeWords (i : Nat) (ws : List Word) (m : SMap Word) : SMap Word :=
  match ws with
  | [] => m
  | w :: t => writeWords (i + 1) t (if i = 0 then m else SMap.set flashDflt i w m)

def opTrussStage (c : Cmd) (d : Device) : Device :=
  let off := bitsOf (c.p 0) 14 0
  let ws := c.params.drop 1
  let k := stageCopy d
  judged c d false 0 [notThatch c,
      (bitsOf (c.p 0) 31 15 = 0 && off % 4 = 0 && ws ≠ [] && off + 4 * ws.length ≤ 32768, .badParam),
      (modeOk .live d, .deniedMode)]
    (fun d =>
      let m := if off = 0 then [] else copyOf d k
      let d := if off = 0 then setFlag d W.TRUSS_STATUS_STAGED false else d
      let d := setCopy k (writeWords (off / 4) ws m) d
      complete c d (ws.length * 1000 + (if off = 0 then 4000000 else 0)) .ok
        (BitVec.ofNat 32 (4 * ws.length - (if off = 0 then 4 else 0))) 0#32)

/-- R88: the cause for which a staged copy is not committed, or 0. -/
def commitCause (d : Device) : Nat :=
  let j := judgeImage d (stageCopy d) true
  if j.1 ≠ 0 then j.1 else if trussActive d && j.2.seq ≤ (getW d W.TRUSS_SEQ).toNat then 10 else 0

/-- R443: TRUSS_COMMIT ends within 5 ms of the gate; the instant is not fixed (log 7). -/
def opTrussCommit (c : Cmd) (d : Device) : Device :=
  gated c d (fun d => [notThatch c, (modeOk .live d, .deniedMode)])
    (fun d =>
      let why := commitCause d
      let cyc := freeOf d % 500001
      let d := drawn d
      if why ≠ 0 then complete c d cyc .badParam (BitVec.ofNat 32 why) 0#32
      else
        let k := stageCopy d
        let d := setCopy k (SMap.set flashDflt 0 0x53555254#32 (copyOf d k)) d
        raise 773 (complete c (setFlag d W.TRUSS_STATUS_STAGED true) cyc .ok 0#32 0#32))

def execTrussStage (rq : Req) (p0 : Word) (data : List Word) (s : State) : Host.Outcome State Fault Refusal :=
  on (runRow rq 0x94 (p0 :: data) [] opTrussStage) s
def execTrussCommit (rq : Req) (s : State) : Host.Outcome State Fault Refusal := on (runRow rq 0x95 [] [] opTrussCommit) s

end Sys2Proof.Machine
end

