-- ==== Sys2Proof/Machine/Firmware.lean ====
section
/-! DEFINITION. Firmware (20): flash banks and images, the restart of Thatch, activation, trial and the anti-rollback counters,
the watchdogs. -/

namespace Sys2Proof.Machine

/-! ### Flash areas (R531, R532) -/

def bankMem (d : Device) (k : Nat) : SMap Word := SMap.get (fun _ => []) d.fw.banks k
def setBank (k : Nat) (m : SMap Word) (d : Device) : Device :=
  { d with fw := { d.fw with banks := SMap.set (fun _ => []) k m d.fw.banks } }
def sealOf (d : Device) (k : Nat) : Option Nat := SMap.get (fun _ => none) d.fw.seals k
def setSeal (k : Nat) (x : Option Nat) (d : Device) : Device :=
  { d with fw := { d.fw with seals := SMap.set (fun _ => none) k x d.fw.seals } }

/-- R532: bytes of an area: 1 MiB for a Thatch bank, 512 KiB for Purlin. -/
def bankSize (k : Nat) : Nat := if k < 2 then 1048576 else 524288

/-- The `n` bytes of area `k` from byte `i`, both multiples of 4. -/
def bankBytes (d : Device) (k i n : Nat) : List Nat :=
  (List.range (n / 4)).flatMap (fun j => wordBytesLE (SMap.get flashDflt (bankMem d k) (i / 4 + j)))

/-- The header of the image in area `k`. -/
def fwHeader (d : Device) (k : Nat) : List Nat := bankBytes d k 0 128
def fwLen (d : Device) (k : Nat) : Nat := u32At (fwHeader d k) 8
def fwArb (d : Device) (k : Nat) : Nat := u16At (fwHeader d k) 12
def fwLevel (d : Device) (k : Nat) : Nat := u16At (fwHeader d k) 14
def fwVersion (d : Device) (k : Nat) : Nat := u32At (fwHeader d k) 16

/-- R532 test 3: the header of an image of `kind` in area `k`, and the room it needs. -/
def fwFormed (d : Device) (k kind : Nat) : Bool :=
  let h := fwHeader d k
  h.take 4 == [0x50, 0x56, 0x46, 0x57] && u16At h 4 == 128 && h.getD 6 0 == kind && h.getD 7 0 == 0
  && ((h.drop 20).take 12).all (fun b => b == 0) && (h.drop 96).all (fun b => b == 0)
  && 192 + fwLen d k ≤ bankSize k

/-- The bytes that the signature of the image in area `k` covers. -/
def fwSigned (d : Device) (k : Nat) : List Nat := (bankBytes d k 0 (132 + fwLen d k)).take (128 + fwLen d k)
def fwSignature (d : Device) (k : Nat) : List Nat :=
  ((bankBytes d k 0 (196 + fwLen d k)).drop (128 + fwLen d k)).take 64

/-- R58: FWKEY_HASH and PURLIN_HASH, from the shadows (R63). -/
def keyHash (d : Device) : List Nat := (List.range 4).flatMap (fun i => bytes8 (shadowW d (130 + i)))
def purlinHash (d : Device) : List Nat := (List.range 4).flatMap (fun i => bytes8 (shadowW d (134 + i)))

/-- R532 test 1: the key's hash and the signature (FIPS 186, log 9). -/
def fwGenuine (d : Device) (k : Nat) : Bool :=
  let key := ((fwHeader d k).drop 32).take 64
  sha256 key == keyHash d && Config.ecdsaOk (sha256 (fwSigned d k)) (fwSignature d k) key

/-- R58: the count of the counter of a kind. -/
def arbCount (d : Device) (kind : Nat) : Nat := bitCount (otpWord d (if kind = 0 then 139 else 138))

/-- R532: the reject cause of the image of `kind` in area `k`, or 0. -/
def fwCause (d : Device) (k kind : Nat) : Nat :=
  if !fwFormed d k kind then 3 else if !fwGenuine d k then 1 else if fwArb d k < arbCount d kind then 2 else 0

/-- R523: SHA-256 of a bank, recorded at its verification. -/
def sealBank (k : Nat) (d : Device) : Device := setSeal k (some (leNat (sha256 (fwSigned d k)))) d

def fwLast (result cause kind bank : Nat) (d : Device) : Device :=
  setFld (setFld (setFld (setFld d W.FW_LAST_RESULT result) W.FW_LAST_CAUSE cause) W.FW_LAST_KIND kind) W.FW_LAST_BANK bank

/-- R533: the bank that the bank record names as active. -/
def activeBank (d : Device) : Nat := d.fw.bank

/-- R533, R14: TRUST_STATUS shows the bank record, which Purlin has read. -/
def showRecord (d : Device) : Device :=
  setFlag (setFlag (setFld d W.TRUST_STATUS_ACTIVE_BANK d.fw.bank) W.TRUST_STATUS_TRIAL d.fw.onTrial)
    W.TRUST_STATUS_ARB_PENDING d.fw.arbPend

/-- R535, R536: whether the active bank is on trial, in the record and in TRUST_STATUS. -/
def setTrial (b : Bool) (d : Device) : Device :=
  setFlag { d with fw := { d.fw with onTrial := b } } W.TRUST_STATUS_TRIAL b

/-- Bank `k` is recorded as active: its version and anti-rollback value show. -/
def recordBank (k : Nat) (d : Device) : Device :=
  let d := setFld d W.TRUST_STATUS_ACTIVE_BANK k
  let d := setFld (setW d W.FW_VER_THATCH (BitVec.ofNat 32 (fwVersion d k))) W.FW_ARB_IMG_ARB (fwArb d k)
  { d with fw := { d.fw with changed := true, bank := k } }

/-! ### Thatch (R523-R526, R536) -/

def thatchState (d : Device) : Nat := fld d W.TRUST_STATUS_THATCH_STATE
def putThatch (v : Nat) (d : Device) : Device := setFld d W.TRUST_STATUS_THATCH_STATE v
def setAbsent (b : Bool) (d : Device) : Device := { d with core := { d.core with thatchAbsent := b } }

/-- R524, R586: the sampled packets that Thatch has issued have their completions discarded. -/
def discardedSamples (d : Device) : List (List Word) :=
  (d.eng.issued.filter (fun c => c.src == .thatch && !c.lost && sampled d c.num && perfOpen d)).map
    (fun c => sampleWords c d 0xFF 0xFFFF 0)

/-- R524: PD_ACU is reset: Q19 is emptied; what it issued runs on with its completion discarded. The trace store enters a
crossing entry (R566), whose detail byte the spec does not give (log 7). -/
def acuReset (d : Device) : Device :=
  let d := emptyQueue 19 (drawn (traceEntry 8 2 [freeOf d % 256] d))
  let d := { d with perf := { d.perf with due := d.perf.due ++ discardedSamples d } }
  { d with eng := { d.eng with issued := d.eng.issued.map (fun c => if c.src = .thatch then { c with lost := true } else c) } }

/-- R525: Purlin holds PD_ACU in reset. -/
def holdThatch (d : Device) : Device :=
  raise 780 (setAbsent true (setFlag (putThatch 5 (acuReset d)) W.TRUST_STATUS_THATCH_HELD true))

/-- R536: the trial ends in fallback to the previous bank. -/
def fallBack (d : Device) : Device :=
  let d := recordBank d.fw.prevBank (setTrial false d)
  let d := { d with fw := { d.fw with trialFrom := none } }
  raise 776 (fwLast 3 0 0 (activeBank d) d)

/-- R523-R525, R536, R539: a failure of a Thatch that runs: restart, fallback during a trial, or the hold at the fourth restart
within 60 s. During a quiesce no restart is counted. -/
def restartThatch (d : Device) : Device :=
  if thatchState d = 0 ∨ 4 ≤ thatchState d then d
  else
    let trial := flag d W.TRUST_STATUS_TRIAL
    let recent := recentRestarts d
    if !trial && 3 ≤ recent.length then holdThatch d
    else
      let d := acuReset (putThatch 3 d)
      let d := { d with fw := { d.fw with restarts := (d.roofTime :: recent).take 16 } }
      let d := if trial then fallBack d else d
      trigIf W.TRC_TRIG_T_THATCH 6 (raise 779 d)

/-- R526: Thatch checks in. -/
def opThatchCheckIn (d : Device) : Device :=
  if thatchReady d then { d with fw := { d.fw with twdFrom := d.roofTime } } else d

/-- R526: TWD_PERIOD has passed without a check-in. -/
def opThatchWdt (d : Device) : Device :=
  if thatchReady d then
    restartThatch (raise 804 (advanceTo (d.fw.twdFrom + fld d W.TWD_CFG_TWD_PERIOD * 100000) d))
  else d

/-- R23, R389: Thatch places a packet in Q19 (256 words). -/
def opThatchSubmit (header : Word) (params : List Word) (d : Device) : Device :=
  if thatchReady d && engineOn d && hdrCount header == params.length && params.length ≤ 62
      && 1 + params.length ≤ freeWords d 19 then
    enqueue 19 false [(header, params)] d
  else d

/-! ### Staging and activation (R444, R445, R534-R537) -/

def fwImage (c : Cmd) : Nat := bitsOf (c.p 0) 31 31
def fwOffset (c : Cmd) : Nat := bitsOf (c.p 0) 19 0

/-- The area that FW_STAGE writes. -/
def stageArea (d : Device) (image : Nat) : Nat := if image = 1 then 2 else 1 - activeBank d

/-- Words of a chunk, written from word `i` on; the 4 KiB sector that begins at word `i` is erased first. -/
def stageWords (i : Nat) (ws : List Word) (m : SMap Word) : SMap Word :=
  match ws with
  | [] => m
  | w :: t => stageWords (i + 1) t (SMap.set flashDflt i w m)
def eraseFlash (i n : Nat) (m : SMap Word) : SMap Word := m.filter (fun p => p.1 < i || i + n ≤ p.1)

def opFwStage (c : Cmd) (d : Device) : Device :=
  let off := fwOffset c
  let ws := c.params.drop 1
  let k := stageArea d (fwImage c)
  judged c d false 0 [notThatch c,
      (bitsOf (c.p 0) 30 20 = 0 && off % 4 = 0 && ws ≠ [] && off + 4 * ws.length ≤ bankSize k, .badParam),
      (modeOk .live d, .deniedMode), (fwImage c = 0 || d.mode = .service, .deniedPermission)]
    (fun d =>
      let first := off % 4096 = 0
      let m := if first then eraseFlash (off / 4) 1024 (bankMem d k) else bankMem d k
      let d := setSeal k none (setBank k (stageWords (off / 4) ws m) d)
      complete c d (ws.length * 1000 + (if first then 2500000 else 0)) .ok (BitVec.ofNat 32 (4 * ws.length)) 0#32)

/-- R535, R69: Purlin programs the counter of a kind up to `target`, with the window's samples. -/
def programCounter (kind target vpre : Nat) (hot : Int) (d : Device) : Device :=
  let w := if kind = 0 then 139 else 138
  if target ≤ bitCount (otpWord d w) then d
  else
    let d := { d with fw := { d.fw with arbAt := d.roofTime } }
    enqueueJob { words := [(w, otpWord d w ||| (2 ^ target - 1))], sample := (vpre, hot) } d

/-- R537: SHA-256 of the Purlin area as the staged image would leave it. -/
def refreshHash (d : Device) : List Nat :=
  let n := 192 + fwLen d 2
  sha256 ((bankBytes d 2 0 (n + 4)).take n ++ List.replicate (524288 - n) 0xFF)

/-- R445, R537: FW_ACTIVATE of Purlin; `c.e` are the window's samples. -/
def activatePurlin (c : Cmd) (cyc : Nat) (d : Device) : Device :=
  let why := if fwCause d 2 1 ≠ 0 then fwCause d 2 1 else if refreshHash d ≠ purlinHash d then 1 else 0
  if why ≠ 0 then complete c (fwLast 4 why 1 0 d) cyc .badParam 0#32 (BitVec.ofNat 32 why)
  else
    let d := fwLast 1 0 1 0 (setFlag d W.TRUST_STATUS_PURLIN_REFRESH true)
    let d := { d with fw := { d.fw with arbTarget := fwArb d 2, refresh := true } }
    let d := raise 774 (complete c d cyc .ok (BitVec.ofNat 32 (fwArb d 2)) 0#32)
    programCounter 1 (fwArb d 2) (c.e 0).toNat (c.e 1) d

/-- R534: bank `k` is recorded as active and on trial. -/
def beginTrial (k : Nat) (d : Device) : Device :=
  let old := activeBank d
  let d := recordBank k (setTrial true d)
  { d with fw := { d.fw with prevBank := old, trialFrom := none } }

/-- R525: an accepted FW_ACTIVATE of Thatch ends the hold. -/
def endHold (d : Device) : Device :=
  if flag d W.TRUST_STATUS_THATCH_HELD then
    setAbsent false (putThatch 1 (setFlag d W.TRUST_STATUS_THATCH_HELD false))
  else d

/-- R534: FW_ACTIVATE of Thatch; the verification takes an unstated time within 10 ms (log 7). -/
def activateThatch (c : Cmd) (cyc : Nat) (d : Device) : Device :=
  let k := 1 - activeBank d
  let why := fwCause d k 0
  if why ≠ 0 then complete c (fwLast 4 why 0 k d) cyc .badParam 0#32 (BitVec.ofNat 32 why)
  else
    let d := sealBank k (endHold d)
    if bitOf (c.p 0) 1 then
      keepRunning { c with aux := [BitVec.ofNat 32 (fwArb d k)] }
        (putThatch 4 { d with fw := { d.fw with swapTo := some k, swapAt := d.roofTime + cyc } })
    else
      let d := fwLast 1 0 0 k (beginTrial k d)
      raise 774 (complete c d cyc .ok (BitVec.ofNat 32 (fwArb d k)) 0#32)

def opFwActivate (c : Cmd) (d : Device) : Device :=
  let purlin := bitOf (c.p 0) 0
  gated c d (fun d => [notThatch c,
      (bitsOf (c.p 0) 31 2 = 0 && !(purlin && bitOf (c.p 0) 1), .badParam),
      (if purlin then modeOk .live d else inMode d [.run, .ease, .holdup, .boot, .latched, .service], .deniedMode),
      (!purlin || d.mode = .service, .deniedPermission),
      (thatchState d ≠ 3 && thatchState d ≠ 4, .busy)])
    (fun d =>
      let cyc := freeOf d % 800001
      if purlin then activatePurlin c cyc (drawn d) else activateThatch c cyc (drawn d))

/-- R534: at most 2 ms after the quiesce request Purlin records the bank and resets PD_ACU into it. -/
def opQuiesceTimeout (d : Device) : Device :=
  match d.fw.swapTo with
  | some k =>
    if thatchState d ≠ 4 then d
    else
      let d := checkpoint (advanceTo (d.fw.swapAt + 200000) d)
      let d := beginTrial k d
      setAbsent false (putThatch 3 (acuReset { d with fw := { d.fw with swapTo := none } }))
  | none => d

/-- The time of a trial counts no more. -/
def trialDone (d : Device) : Device := { d with fw := { d.fw with trialFrom := none } }

/-- R535: the trial of the active bank ends in confirmation, and its counter is advanced. -/
def opFwConfirmed (vpre : Nat) (hot : Int) (d : Device) : Device :=
  match d.fw.trialFrom with
  | some t =>
    if flag d W.TRUST_STATUS_TRIAL && thatchReady d then
      let d := advanceTo (t + 6000000000) d
      let d := setTrial false (trialDone d)
      let d := raise 775 (fwLast 2 0 0 (activeBank d) d)
      programCounter 0 (fld d W.FW_ARB_IMG_ARB) vpre hot d
    else d
  | none => d

/-- R535: 10 s after the last attempt Purlin tries again to program the counters that lag. -/
def opArbPending (vpre : Nat) (hot : Int) (d : Device) : Device :=
  if flag d W.TRUST_STATUS_ARB_PENDING then
    let d := advanceTo (d.fw.arbAt + 1000000000) d
    let d := if flag d W.TRUST_STATUS_TRIAL then d else programCounter 0 (fld d W.FW_ARB_IMG_ARB) vpre hot d
    programCounter 1 d.fw.arbTarget vpre hot d
  else d

/-! ### The host window watchdog (R528-R530, R446) -/

/-- R528: the period restarts. -/
def hwdRestart (d : Device) : Device := { d with fw := { d.fw with hwdBase := d.cycles, hwdHeld := 0 } }

/-- R530: entry `k` of the safe profile, judged by both checkers. -/
def profileEntry (d : Device) (k : Nat) : Device :=
  if !flag d W.SAFE_ADDR_VALID k then d
  else
    let a := fld d W.SAFE_ADDR_ADDR k
    let v := getW d (W.SAFE_VAL + 2 * k)
    let p0 := BitVec.ofNat 32 a
    if loadable a && (pickFail (writeFails .purlin p0 (getW d a) (merged a (getW d a) v) v d)).isNone then
      runRow { src := .purlin, tag := 0#12, quiet := false } 0x11 [p0, v] [] opRegWrite d
    else raise 803 d

/-- R530: the safe profile is applied. -/
def applyProfile (d : Device) : Device :=
  raise 802 (setFlag ((List.range 16).foldl profileEntry d) W.HWD_STATUS_PROFILE_ACTIVE true)

/-- R529: the configured action. -/
def hwdAction (d : Device) : Device :=
  match fld d W.HWD_CFG_ACTION with
  | 1 => if flag d W.HWD_STATUS_PROFILE_ACTIVE then d else applyProfile d
  | 2 => if inMode d [.ramp, .run, .ease, .holdup] then descendNow 3 d else d
  | _ => d

/-- The period in CK_SYS cycles. -/
def hwdPeriod (d : Device) : Nat := fld d W.HWD_CFG_PERIOD * 100000

/-- R528, R446: the watchdog disabled, a kick has nothing to violate. -/
def opWdtKick (c : Cmd) (d : Device) : Device :=
  judged c d false 3 [notThatch c, (modeOk .live d, .deniedMode)] (fun d =>
    let share := BitVec.ofNat 32 (hwdShare d)
    if flag d W.HWD_CFG_HWD_EN && 2 * hwdElapsed d < hwdPeriod d then
      let d := gutter 0x0A 0xFF 2 (BitVec.ofNat 32 (fld d W.HWD_CFG_ACTION)) (raise 800 d)
      hwdAction (hwdRestart (complete c d 3 .deniedWindow share 0#32))
    else complete c (hwdRestart (setFlag d W.HWD_STATUS_PROFILE_ACTIVE false)) 3 .ok share 0#32)

/-- R528: the elapsed time exceeds the period. -/
def opHwdExpired (d : Device) : Device :=
  if flag d W.HWD_CFG_HWD_EN && hwdCounts d.mode then
    let left := hwdPeriod d + 1 - hwdElapsed d
    let d := advanceTo (d.roofTime + (if d.link.half then (left + 1) / 2 else left)) d
    let d := addSat (raise 801 d) W.HWD_STATUS_EXPIRIES 1
    let d := gutter 0x0A 0xFF 1 (BitVec.ofNat 32 (fld d W.HWD_CFG_ACTION)) d
    hwdAction (hwdRestart d)
  else d

/-- R527: Purlin kicks its watchdog. -/
def opPurlinWdtKick (d : Device) : Device := { d with fw := { d.fw with kickAt := d.roofTime } }

/-! ### The rows -/

def execFwStage (rq : Req) (p0 : Word) (data : List Word) (s : State) : Host.Outcome State Fault Refusal :=
  on (runRow rq 0xA0 (p0 :: data) [] opFwStage) s
def execFwActivate (rq : Req) (p0 : Word) (vpre : Nat) (hot : Int) (s : State) : Host.Outcome State Fault Refusal :=
  on (runRow rq 0xA1 [p0] [vpre, hot] opFwActivate) s
def execWdtKick (rq : Req) (s : State) : Host.Outcome State Fault Refusal := on (runRow rq 0xA2 [] [] opWdtKick) s
def execThatchWdt (s : State) : Host.Outcome State Fault Refusal := on opThatchWdt s
def execThatchCheckIn (s : State) : Host.Outcome State Fault Refusal := on opThatchCheckIn s
def execAcuException (s : State) : Host.Outcome State Fault Refusal := on restartThatch s
def execThatchRestartRequest (s : State) : Host.Outcome State Fault Refusal :=
  on (fun d => if thatchReady d then restartThatch d else d) s
def execThatchSubmit (header : Word) (params : List Word) (s : State) : Host.Outcome State Fault Refusal :=
  on (opThatchSubmit header params) s
def execQuiesceTimeout (s : State) : Host.Outcome State Fault Refusal := on opQuiesceTimeout s
def execFwConfirmed (vpre : Nat) (hot : Int) (s : State) : Host.Outcome State Fault Refusal := on (opFwConfirmed vpre hot) s
def execArbPending (vpre : Nat) (hot : Int) (s : State) : Host.Outcome State Fault Refusal := on (opArbPending vpre hot) s
def execHwdExpired (s : State) : Host.Outcome State Fault Refusal := on opHwdExpired s
def execPurlinWdtKick (s : State) : Host.Outcome State Fault Refusal := on opPurlinWdtKick s

end Sys2Proof.Machine
end

