-- ==== Sys2Proof/Machine/Resets.lean ====
section
/-! DEFINITION. The three reset levels (R37-R42), the rail keeper (R43-R45), the loss of the PLL (R596), wakes that follow a
sleep (R32, R466, R609, R651, R653). -/

namespace Sys2Proof.Machine

/-! ### Words that a reset keeps -/

/-- The bits of a field. -/
def fldMask (f : Fld) : Nat := (2 ^ (f.hi + 1 - f.lo) - 1) <<< f.lo

/-- The bits that the fields `fs`, each in as many words as given, take of the word at `a`. -/
def keptMask (fs : List (Fld × Nat)) (a : Nat) : Nat :=
  fs.foldl (fun m p =>
    if p.1.base ≤ a ∧ (a - p.1.base) % p.1.stride = 0 ∧ (a - p.1.base) / p.1.stride < p.2 then m ||| fldMask p.1 else m) 0

/-- The words with the bits of `mask` kept and every other bit at its reset value (R14). -/
def keptWords (mask : Nat → Nat) (d : Device) : SMap Word :=
  d.words.foldl (fun m p =>
    let k := BitVec.ofNat 32 (mask p.1)
    SMap.set resetWord p.1 ((p.2 &&& k) ||| (resetWord p.1 &&& ~~~k)) m) []

/-- R512: PD_BK keeps page 0x13 but HALT. -/
def bkMask (a : Nat) : Nat := if a = W.RTC_CTRL then 0xFFFFFFFE else if a / 256 = 0x13 then 0xFFFFFFFF else 0

/-- What any reset keeps of the words: TH_LATCH (R483), RTC_FACTORY_TRIM (R55). -/
def everKept : List (Fld × Nat) := [(W.TH_STATUS_TH_LATCH, 1), (W.COLD_STATUS_RTC_FACTORY_TRIM, 1)]

/-- What PD_AON and the keeper hold through a HARD reset (R37, R43, R18, R596): the causes, the latch record, the phases and the
spares, the safe-state outputs, fault and retry records, the power path and the charger record. -/
def aonKept : List (Fld × Nat) := [
  (W.MODE_STATUS_LATCH_HELD, 1), (W.MODE_STATUS_LATCH_CAUSE, 1), (W.ADOPT_STATUS_ADOPTED_COUNT, 1),
  (W.ADOPT_STATUS_RESULT, 1), (W.ADOPT_STATUS_KEEPER_MODE, 1), (W.CLK_STATUS_PLL_LOSS, 1), (W.TRUST_STATUS_LOCKSTEP, 1),
  (W.HWD_STATUS_EXPIRIES, 1), (W.SEQ_STATUS_RETRY_CNT, 1)] ++ [
  (W.HC_STATUS_PH_MASK, 4), (W.HC_STATUS_PH_DROPPED, 4), (W.HC_PH_CAUSE_CAUSE, 4), (W.HC_BRAKE_CNT_BRAKES, 4),
  (W.CL_RSTATUS_SPARE_ON, 8), (W.CL_RSTATUS_PH_MASK, 8), (W.CL_RSTATUS_PH_DROPPED, 8), (W.CL_BRAKE_CNT_BRAKES, 8),
  (W.PH_STATUS_CAUSE, 10), (W.PH_STATUS_FAILED, 10), (W.PH_STATUS_SERVING_RAIL, 10), (W.PH_STATUS_STATE, 10)] ++ [
  (W.CL_STATUS_SPARE_FAILED, 2), (W.CL_STATUS_SPARE_ENGAGED, 2), (W.CL_STATUS_SPARE_RAIL, 2), (W.CL_STATUS_STEER_CLOSED, 2),
  (W.CL_STATUS_ROT_ACTIVE, 2), (W.SSO_STATUS_ASSERTED, 1), (W.SSO_STATUS_PIN, 1), (W.GB_RSTATUS_SWITCHING, 8),
  (W.SUP_STATUS_FAULT_LATCH, 32),
  (W.SUP_STATUS_CMP_FAULT, 32), (W.SUP_FIRST_VALID, 1), (W.SUP_FIRST_RAIL, 1), (W.SUP_FIRST_CAUSE, 1)] ++ [
  (W.BK_STATUS_BK_STATE, 1), (W.BK_STATUS_IDG_ON, 1), (W.BK_STATUS_VSUP_LOW, 1), (W.BK_STATUS_PACK_PRESENT, 1),
  (W.BK_STATUS_CUTOFF, 1), (W.BK_STATUS_BK_ILIM, 1), (W.CHG_STATUS_CHG_STATE, 1), (W.CHG_STATUS_ZONE, 1),
  (W.CHG_TIMER_SAFETY, 1), (W.CHG_FAULT_CHG_TIMEOUT, 1)]

/-- The bits that a HARD reset keeps; the trace store's words as well (R566). RESET_CAUSE and WAKE_CFG lie in PD_AON. -/
def hardMask (a : Nat) : Nat :=
  if a = W.RESET_CAUSE ∨ a = W.WAKE_CFG ∨ a = W.TRC_STATUS ∨ a = W.TRC_FREEZE then 0xFFFFFFFF
  else bkMask a ||| keptMask (everKept ++ aonKept) a

/-- The bits that a sleep in STANDBY keeps: those of PD_AON and PD_BK, the event controller's (R466, R609), and the counters of
rotations and handovers (R55). -/
def standbyMask (a : Nat) : Nat :=
  if a = W.RESET_CAUSE ∨ a = W.WAKE_CFG ∨ a / 256 = 0x11 ∨ a / 256 = 0x12 ∨ (W.PH_COUNT ≤ a ∧ a < W.PH_COUNT + 10) then 0xFFFFFFFF
  else bkMask a ||| keptMask (everKept ++ aonKept) a

/-- The bits that a POWER-ON reset keeps. -/
def powerMask (a : Nat) : Nat := bkMask a ||| keptMask everKept a

/-! ### What flash and OTP hold through every reset -/

/-- R73, R539: the word being programmed is cut off: the bits reached are blown; what the pulse in progress left of its bit is
not stated (log 7). -/
def cutWord (d : Device) : Device :=
  match d.otp.line with
  | { words := (w, v) :: _, start := t, .. } :: _ =>
    let us := (d.roofTime - t) / 100
    let bs := bitsIn (toBlow d w v) 64
    let n := blownAt us bs.length
    let done := (bs.take n).foldl (fun m i => m ||| 2 ^ i) 0
    let left := freeOf d % 3
    let cut := if 20 < us ∧ n < bs.length ∧ left ≠ 0 then 2 ^ bs.getD n 0 else 0
    blow w (done ||| cut) (if left = 1 then cut else 0) (drawn d)
  | _ => d

def keptOtp (o : OtpSt) : OtpSt := { array := o.array, weak := o.weak, flash0 := o.flash0, flash1 := o.flash1 }
def keptLog (l : LogSt) : LogSt := { records := l.records, secs := l.secs, cur := l.cur, slots := l.slots, telemetry := l.telemetry }
def keptFw (f : FwSt) (now : Nat) : FwSt :=
  { banks := f.banks, bank := f.bank, onTrial := f.onTrial, arbPend := f.arbPend, refresh := f.refresh,
    prevBank := f.prevBank, arbTarget := f.arbTarget, kickAt := now }

/-! ### The keeper (R43) -/

/-- A rail as the keeper holds it, a GB driver with its period and dead time (R162); one whose regulator is off is not held. -/
def heldRail (d : Device) (n : Nat) : Rail :=
  let r := rail d n
  if r.enabled then
    { enabled := true, held := true, ref := { dst := refNow d n }, live := r.live, falling := r.ph = .rampDown,
      heldPeriod := if railKind n = .gb then fld d W.GB_CFG_PCODE (n - 24) else 0
      heldDead := if railKind n = .gb then fld d W.GB_CFG_DTCODE (n - 24) else 0
      ph := if r.ph = .rampUp then .rampUp else if r.ph = .rampDown then .rampDown else .still }
  else {}

/-- The fault descent that the recorded mode stands for (R52). -/
def faultCause (d : Device) : Option Nat :=
  match d.seq.desc with
  | some { kind := .fault, cause := c, .. } => some c
  | _ => none

/-- R43: the items of the keeper's record as words, over which its integrity word is taken: enable, ramp state and reference of
each rail, the phases, the outputs, the power path and the charger, the mode, the latch record, the truss identity. DESIGN CHOICE
(log 15): the order and the packing. -/
def keeperWords (d : Device) : List Word :=
  let rails := (List.range 32).map (fun n =>
    let r := heldRail d n
    BitVec.ofNat 32 ((if r.enabled then 2 ^ 31 else 0)
      + (match r.ph with | .rampUp => 2 ^ 29 | .rampDown => 2 ^ 30 | .still => 0 | .move => 0) + r.ref.dst))
  let phases := (List.range 4).map (fun k => getW d (W.HC_STATUS_PH_MASK.base + W.HC_STATUS_PH_MASK.stride * k))
  let roles := (List.range 10).map (fun p => getW d (W.PH_STATUS + p))
  let rest := [getW d W.CL_STATUS, getW d (W.CL_STATUS + 1), BitVec.ofNat 32 (fld d W.SSO_STATUS_ASSERTED),
    BitVec.ofNat 32 d.core.pgood, getW d W.BK_STATUS, getW d W.CHG_STATUS, getW d W.CHG_TIMER,
    BitVec.ofNat 32 (fld d W.CHG_FAULT_CHG_TIMEOUT), BitVec.ofNat 32 d.mode.code,
    BitVec.ofNat 32 (fld d W.MODE_STATUS_LATCH_CAUSE + (if flag d W.MODE_STATUS_LATCH_HELD then 2 ^ 31 else 0)),
    getW d W.TRUSS_ID, getW d (W.TRUSS_ID + 1)]
  rails ++ phases ++ roles ++ rest

/-- R43, R40, R596: the keeper freezes its items with their CRC-16, unless it holds already. -/
def keeperFreeze (d : Device) : Device :=
  if flag d W.MODE_STATUS_ADOPTING || d.core.clocksOff then d
  else
    { d with
      rails := (List.range 32).foldl (fun m n => SMap.set (fun _ => ({} : Rail)) n (heldRail d n) m) []
      core := { d.core with recMode := d.mode, recFault := faultCause d, recIdent := trussIdent d,
                            recCrc := crcWords (keeperWords d), tripped := none } }

/-- R138, R129: through a HARD reset the spare of a cluster keeps the rail it serves; a handover on its way, a drill or a
change of rotation leaves it idle. -/
def cutCluster (d : Device) (c : Nat) : Device :=
  let x := clus d c
  let d := if x.ho.isSome || x.holding || x.trading then parkSpare c d else d
  modClus c (fun x => {
    again := match x.ho with
      | some { kind := 2, target := t, phase := p, .. } => some { kind := 2, target := t, phase := p }
      | _ => none
    rest := x.rest }) d

/-! ### HARD reset (R37, R18, R19, R266, R566) -/

/-- R566, R567: the trace store freezes with cause 5; a store that does not record counts the trigger. -/
def freezeTrace (d : Device) : Device :=
  let st := trcState d
  if st = 1 ∨ st = 2 then
    let d := traceEntry 11 2 [] (closeBlock d)
    let d := setFld (setTrc 3 (setW d W.TRC_FREEZE (lowW d.roofTime))) W.TRC_STATUS_CAUSE 5
    { d with log := { d.log with resetFroze := true, freezeAt := d.roofTime } }
  else if st = 0 then d
  else setTrc 3 (if flag d W.TRC_TRIG_T_RESET then addSat d W.TRC_STATUS_TRIG_MISSED 1 else d)

/-- The device after a HARD reset, which what precedes it in `d` has prepared. -/
def hardDevice (d : Device) : Device :=
  { words := keptWords hardMask d, mode := .boot, prev := .boot, roofTime := d.roofTime, cycles := d.cycles
    core := { strap := d.core.strap, path := .hard, recMode := d.core.recMode, recFault := d.core.recFault,
              recIdent := d.core.recIdent, recCrc := d.core.recCrc, tripped := d.core.tripped, pllLost := d.core.pllLost,
              wdtReset := d.core.wdtReset, testPassed := d.core.testPassed, pgood := d.core.pgood,
              ssoAt := d.core.ssoAt, gbLock := d.core.gbLock }
    rails := d.rails
    seq := { retryWait := d.seq.retryWait, noRetry := d.seq.noRetry }
    cl := d.cl
    gauge := keptGauge d.gauge
    power := { left := d.power.left, pre := d.power.pre, fast := d.power.fast, wall := d.power.wall, cut := d.power.cut,
               fault := d.power.fault, placed := d.power.placed, qualifying := d.power.qualifying, seated := d.power.seated }
    rtc := d.rtc
    otp := keptOtp d.otp
    log := { keptLog d.log with areas := d.log.areas, ckptArea := d.log.ckptArea, key := d.log.key,
                                entries := d.log.entries, freezeAt := d.log.freezeAt,
                                resetFroze := d.log.resetFroze }
    fw := keptFw d.fw d.roofTime
    freeN := d.freeN }

/-- R37, R39, R40, R42, R43, R428, R527: a HARD reset with its cause. -/
def hardReset (cause : Fld) (lockstep : Bool) (d : Device) : Device :=
  let d := cutWord (freezeTrace (keeperFreeze d))
  let d := cutCluster (cutCluster d 0) 1
  let d := setFlag (setFlag d cause true) W.TRUST_STATUS_LOCKSTEP lockstep
  let d := if fld d W.BK_STATUS_BK_STATE = 2 then setFld d W.BK_STATUS_BK_STATE 1 else d
  let d := hardDevice d
  setFld (setFlag d W.MODE_STATUS_ADOPTING true) W.ADOPT_STATUS_KEEPER_MODE d.core.recMode.code

/-- R527: a HARD reset that counts as an expiry of the Purlin watchdog. -/
def watchdogReset (lockstep : Bool) (d : Device) : Device :=
  hardReset W.RESET_CAUSE_PURLIN_WDT lockstep { d with core := { d.core with wdtReset := true } }

/-! ### POWER-ON reset (R37, R38) -/

/-- R651: the charger starts in NOPACK and judges the pack afresh. -/
def noPack (d : Device) : Device :=
  let d := setFlag (setFld d W.CHG_STATUS_CHG_STATE 1) W.BK_STATUS_PACK_PRESENT false
  { d with power := { d.power with qualifying := true, placed := false, ntc := [] } }

/-- R37, R55, R518: everything outside PD_BK is reset; `bkCold` says that PD_BK lost its supply too. PD_BK is locked until it has
been back for 2 ms (R507). -/
def powerOn (bkCold : Bool) (d : Device) : Device :=
  let d := cutWord d
  let e : Device :=
    { words := keptWords (if bkCold then fun _ => 0 else powerMask) d
      core := { porHeld := true }
      gauge := keptGauge d.gauge
      rtc := { (if bkCold then {} else d.rtc) with locked := true, onVbk := true }
      otp := keptOtp d.otp
      log := keptLog d.log
      fw := keptFw d.fw 0
      freeN := d.freeN }
  if bkCold then factoryLoad e else e

/-- R32, R31: a wake from DORMANT is a POWER-ON reset of all domains except PD_BK. -/
def wakeDormant (bkCold : Bool) (d : Device) : Device :=
  noPack (setFlag (powerOn bkCold d) W.RESET_CAUSE_DORMANT_WAKE true)

/-- R38, R32: `HOLD` rises above its lockout threshold; in DORMANT that is a wake. The lockout that caused a reset stays
recorded. -/
def opPowerOnReset (bkCold : Bool) (d : Device) : Device :=
  if d.mode = .dormant then wakeDormant bkCold d
  else
    let was := d.core.porHeld && flag d W.RESET_CAUSE_UVLO
    setFlag (powerOn bkCold d) W.RESET_CAUSE_UVLO was

/-- R618: each address bit is the majority of its eight samples, and 1 on a tie. -/
def strapBits (samples : List (BitVec 3)) : Nat :=
  (List.range 3).foldl (fun m k => if 4 ≤ ((samples.take 8).filter (fun v => v.getLsbD k)).length then m ||| 2 ^ k else m) 0

/-- R38, R21, R619: the POWER-ON reset is released: the straps are sampled; with `TEST_EN` high the device stays at stage 0. -/
def opPorRelease (samples : List (BitVec 3)) (testEn : Bool) (d : Device) : Device :=
  if d.core.porHeld && !d.core.testMode then
    { d with core := { d.core with porHeld := testEn, testMode := testEn, strap := strapBits samples } }
  else d

/-- R38, R31: `HOLD` falls below 4.10 V. -/
def opUvlo (d : Device) : Device :=
  if d.mode = .dormant then d else setFlag (powerOn false d) W.RESET_CAUSE_UVLO true

/-! ### Wake from STANDBY (R32, R47, R466, R609, R651, R653) -/

/-- The device after a wake from STANDBY, at boot stage 0; `mask` says which bits are kept. -/
def wakeDevice (mask : Nat → Nat) (ev : EvSt) (d : Device) : Device :=
  noPack
    { words := keptWords mask d, mode := .boot, prev := .standby, cycles := d.cycles
      core := { strap := d.core.strap, path := .wake, woken := true, testPassed := d.core.testPassed }
      seq := { retryWait := d.seq.retryWait, noRetry := d.seq.noRetry }
      gauge := keptGauge d.gauge
      power := { pre := d.power.pre, fast := d.power.fast, wall := d.power.wall, left := d.power.left, fault := d.power.fault }
      rtc := d.rtc
      otp := keptOtp d.otp
      log := keptLog d.log
      fw := keptFw d.fw 0
      ev := ev
      freeN := d.freeN }

/-- A wake from STANDBY. -/
def wakeStandby (d : Device) : Device :=
  setFlag (wakeDevice standbyMask { d.ev with levels := [], due := [] } d) W.RESET_CAUSE_STANDBY_WAKE true

/-! ### `nRST` (R39, R45) -/

/-- Ten consecutive low samples: the HARD reset is held; in STANDBY it is the wake, through that reset. -/
def opNrst (d : Device) : Device :=
  if d.mode = .dormant ∨ d.core.porHeld ∨ d.core.hardHeld then d
  else
    let d := if d.mode = .standby then
        let d := setFlag (wakeDevice (fun a => if a = W.TRC_STATUS ∨ a = W.TRC_FREEZE then 0 else hardMask a) {} d)
          W.RESET_CAUSE_STANDBY_WAKE true
        setFlag d W.RESET_CAUSE_NRST true
      else hardReset W.RESET_CAUSE_NRST false d
    { d with core := { d.core with hardHeld := true } }

/-- The first high sample. -/
def opNrstRelease (d : Device) : Device := { d with core := { d.core with hardHeld := false } }

/-! ### Watchdog, lockstep, PLL (R527, R596) -/

/-- Purlin runs on the TCU: from boot stage 2 on. -/
def purlinRuns (d : Device) : Bool := tcuOn d && 2 ≤ fld d W.MODE_STATUS_BOOT_STAGE

/-- R527, R596: 8,000 CK_LPO cycles without a kick; with the clocks stopped no roof time passes. -/
def opPurlinWdt (d : Device) : Device :=
  if d.core.clocksOff && !d.core.hardHeld then watchdogReset false d
  else if purlinRuns d then watchdogReset false (advanceTo (d.fw.kickAt + 800000) d)
  else d

/-- R527: the TCU cores disagree. -/
def opLockstep (d : Device) : Device := if purlinRuns d && !d.core.clocksOff then watchdogReset true d else d

/-- R596: the clock generator stops; the keeper freezes. -/
def opPllLoss (d : Device) : Device :=
  if flag d W.CLK_STATUS_PLL_LOCKED && !inMode d [.dormant, .standby] && !d.core.porHeld && !d.core.hardHeld then
    let d := keeperFreeze d
    let d := setFlag (setFlag d W.CLK_STATUS_PLL_LOCKED false) W.CLK_STATUS_PLL_LOSS true
    { d with core := { d.core with clocksOff := true, pllLost := true } }
  else d

/-- R44: a comparator reports a held rail outside its window on two consecutive samples. -/
def opKeeperTrip (n : Nat) (d : Device) : Device :=
  if (rail d n).held && (flag d W.MODE_STATUS_ADOPTING || d.core.clocksOff) && d.core.tripped.isNone then
    let d := setFlag (assertSso 15 false (killRails d)) W.RESET_CAUSE_KEEPER_TRIP true
    { d with core := { d.core with tripped := some n } }
  else d

/-- R428: RESET_HARD. -/
def opResetHard (c : Cmd) (d : Device) : Device :=
  gated c d (fun d => [notThatch c, (c.p 0 = 0xA5A5#32, .badParam), (modeOk .all d, .deniedMode)])
    (fun d => hardReset W.RESET_CAUSE_HARD_CMD false (advanceTo (d.roofTime + 1) d))

/-! ### SOFT reset (R37, R41, R467, R653) -/

/-- R41: what a SOFT reset leaves of the issued packets: of those past the gate, the effect without the completion. -/
def softIssued (id : Nat) (cs : List Cmd) : List Cmd :=
  cs.filterMap (fun c =>
    if c.src = .purlin then some c
    else if c.id = id ∨ c.op = 0x01 ∨ c.op = 0x02 then none
    else if c.src = .thatch ∨ (c.started ∧ c.wait = 0) then some { c with lost := true }
    else none)

/-- R653: the engine and its host-page words. -/
def softEngine (id : Nat) (d : Device) : Device :=
  let e := d.eng
  let d := { d with eng := { e with
    queues := e.queues.filter (fun q => q.1 == 18), tags := [], issued := softIssued id e.issued, fall := none, rings := [],
    roundUsed := [], lastNormal := none, lastBulk := none, fullFrom := none,
    stalled := false, accepted := false, err := 0x7F, spiOut := [] } }
  setW (setW d W.HP_SQ_MODE 0#32) W.HP_RING_OVF 0#32

/-- R467: the event controller: EN, CLASS and the thresholds stay. -/
def softEvents (d : Device) : Device :=
  let d := (List.range 28).foldl (fun d g =>
    putWord (putWord (putWord d W.EVT_LAT_LAT 0#32 g) W.EVT_PEND_N_PEND 0#32 g) W.EVT_PEND_F_PEND 0#32 g) d
  setFlag { d with ev := { d.ev with srcs := [], groups := [], due := [] } } W.EVT_CTRL_GDIS false

/-- R67, R63: trial overrides are discarded: region 2 is loaded from the array again. -/
def dropOverrides (d : Device) : Device :=
  let sh := (List.range 128).foldl (fun m k => SMap.set (fun _ => 0) (192 + k) (otpWord d (192 + k)) m) d.otp.shadow
  setFlag { d with otp := { d.otp with shadow := sh } } W.OTP_STATUS_OVR_ACTIVE false

/-- R37, R525, R535: PD_ACU is reset and Thatch restarts; the restart is not counted. A live swap takes its effect at that
reset. -/
def softThatch (d : Device) : Device :=
  let st := thatchState d
  if st = 0 ∨ st = 5 then d
  else
    let d := match d.fw.swapTo with
      | some k => beginTrial k { d with fw := { d.fw with swapTo := none } }
      | none => d
    putThatch (if st = 1 then 1 else 3) (acuReset { d with fw := { d.fw with trialFrom := none } })

/-- R37, R321, R377: the messages of Q16 and Q17 are lost; an ACCEPT or a swap request of this member that had not been sent is
forgotten with them. -/
def loseMessages (d : Device) : Device :=
  let unsent := d.link.q16.any (fun m => m.1 == 0xC || m.1 == 0xD)
  let d := { d with
    link := { d.link with q16 := [], q17 := [] }
    vly := { d.vly with proposed := none, swap := if unsent then none else d.vly.swap } }
  if unsent then setFld d W.VLY_STATUS_SWAP 0 else d

/-- R41: the SOFT reset that the command `id` begins at the gate. -/
def softReset (id : Nat) (d : Device) : Device :=
  let d := softEvents (softEngine id (setFlag d W.RESET_CAUSE_SOFT_CMD true))
  let d := softThatch (setMark none (dropOverrides d))
  let d := setFld (setFld (setFld d W.ADC_STATUS_LOST 0) W.ADC_STATUS_SUBS 0) W.BG_ECC_CORRECTED 0
  let d := loseMessages d
  { d with
    adc := { d.adc with subs := [] }
    perf := { d.perf with buf := [], due := [], stalls := [], issuedNo := 0, dumpFrom := d.roofTime }
    core := { d.core with softReset := true, softAt := d.roofTime } }

def opResetSoft (c : Cmd) (d : Device) : Device :=
  gated c d (fun d => [notThatch c, (c.p 0 = 0xA5A5#32, .badParam), (modeOk .live d, .deniedMode)]) (softReset c.id)

/-- R463, R467: every enabled level source whose condition holds latches. -/
def relatchLevels (d : Device) : Device :=
  (d.ev.levels.filter (fun p => p.2)).foldl (fun d p => raise p.1 d) d

/-- R41, R409: 200 microseconds after the gate the queues accept pushes again. -/
def opSoftResetDone (d : Device) : Device :=
  if d.core.softReset then
    let d := advanceTo (d.core.softAt + 20000) d
    let d := relatchLevels { d with core := { d.core with softReset := false } }
    if engineReady d then raise 713 d else d
  else d

/-! ### The rows -/

def execPowerOnReset (bkCold : Bool) (s : State) : Host.Outcome State Fault Refusal := on (opPowerOnReset bkCold) s
def execPorRelease (samples : List (BitVec 3)) (testEn : Bool) (s : State) : Host.Outcome State Fault Refusal :=
  on (opPorRelease samples testEn) s
def execUvlo (s : State) : Host.Outcome State Fault Refusal := on opUvlo s
def execNrst (s : State) : Host.Outcome State Fault Refusal :=
  on (fun d => opNrst (tracePin 0 false 10 d)) s
def execNrstRelease (s : State) : Host.Outcome State Fault Refusal := on opNrstRelease s
def execPurlinWdt (s : State) : Host.Outcome State Fault Refusal := on opPurlinWdt s
def execLockstep (s : State) : Host.Outcome State Fault Refusal := on opLockstep s
def execPllLoss (s : State) : Host.Outcome State Fault Refusal := on opPllLoss s
def execKeeperTrip (n : BitVec 5) (s : State) : Host.Outcome State Fault Refusal := on (opKeeperTrip n.toNat) s
def execResetHard (rq : Req) (p0 : Word) (s : State) : Host.Outcome State Fault Refusal :=
  on (runRow rq 0x28 [p0] [] opResetHard) s
def execResetSoft (rq : Req) (p0 : Word) (s : State) : Host.Outcome State Fault Refusal :=
  on (runRow rq 0x27 [p0] [] opResetSoft) s
def execSoftResetDone (s : State) : Host.Outcome State Fault Refusal := on opSoftResetDone s

end Sys2Proof.Machine
end

