-- ==== Sys2Proof/Machine/Boot.lean ====
section
/-! DEFINITION. The boot order (R46-R49, R62, R593, R646), what BOOT ready leads to (R32, R423), adoption after a HARD reset
(R50-R54, R652), the restore of the gauge (R56, R275). -/

namespace Sys2Proof.Machine

def bootStage (d : Device) : Nat := fld d W.MODE_STATUS_BOOT_STAGE
def setStage (n : Nat) (d : Device) : Device := setFld d W.MODE_STATUS_BOOT_STAGE n

/-! ### Gauge restore (R56, R275) -/

/-- Seconds that date and time words stand for. -/
def secondsOf (date time : Word) : Int :=
  (dayNumber (bitsOf date 23 16) (bitsOf date 15 8) (bitsOf date 7 0) : Int) * 86400
  + bitsOf time 23 16 * 3600 + bitsOf time 15 8 * 60 + bitsOf time 7 0

/-- R56: the checkpoint may be restored: its digest checks, no removal since, less than 30 days by the RTC, `VPACK` within 100 mV
per cell. -/
def checkpointFits (k : Checkpoint) (d : Device) : Bool :=
  k.digest == ckptDigest k && !d.gauge.removed
  && secondsOf (getW d W.RTC_DATE) (getW d W.RTC_TIME) - secondsOf k.date k.time < 2592000
  && ((adcCode d 97 : Int) - k.vpack).natAbs * 4 ≤ 100 * nCells d

/-- R275, R55: the newest checkpoint is restored, or the gauge takes its cold state; counting was interrupted (R282). -/
def restoreGauge (d : Device) : Device :=
  let d := setDq 4 d
  match d.gauge.ckpt with
  | none => coldGauge d
  | some k =>
    if checkpointFits k d then
      let anchored := k.anchor ≠ 0
      let d := { d with gauge := { d.gauge with rem := k.rem, err := k.err + 60000000 * k.maxI } }
      let d := setFld (setFld d W.GAUGE_FCC_FCC k.fcc) W.GAUGE_STATUS_ANCHOR (if anchored then 2 else 0)
      let d := setFlag (setFlag d W.COLD_STATUS_GAUGE_UNANCHORED !anchored) W.COLD_STATUS_LEARN_NOMINAL !k.learned
      raise 424 (gaugeSums d)
    else raise 425 (coldGauge d)

/-- R55, R56, R268: a wake from RETAIN, in which the gauge has counted on: it goes on where the checkpoint is valid, and takes its
cold state otherwise (DEDUCED, log 15). -/
def judgeRetained (d : Device) : Device :=
  match d.gauge.ckpt with
  | none => coldGauge d
  | some k => if checkpointFits k d then d else raise 425 (coldGauge d)

/-! ### Stages 1 to 3 -/

/-- R537: a staged Purlin image is copied into the Purlin area. -/
def refreshPurlin (d : Device) : Device :=
  if d.fw.refresh then
    let d := setFlag (setBank 3 (bankMem d 2) d) W.TRUST_STATUS_PURLIN_REFRESH false
    { d with fw := { d.fw with refresh := false } }
  else d

/-- R63: regions 0, 1 and 2 are copied into the shadows; OTP_UID and the counters show. -/
def loadShadows (d : Device) : Device :=
  let sh := (List.range 320).foldl (fun m w => SMap.set (fun _ => 0) w (otpWord d w) m) []
  let d := { d with otp := { d.otp with shadow := sh } }
  let d := [0, 1].foldl (fun d k =>
    putWord (putWord d W.OTP_UID_UID (lowW (shadowW d (128 + k))) (2 * k)) W.OTP_UID_UID (highW (shadowW d (128 + k))) (2 * k + 1)) d
  putCounters d

/-- R47, R466, R55: after a sleep the groups' timers start from zero, a group that meets its count delivers, and a wake source
that ended it latches its source. -/
def restoreEvents (wake : Bool) (d : Device) : Device :=
  let d := advanceTo (d.roofTime + 40) d
  let d := (List.range 28).foldl (fun d g =>
    if (grpRec d g).count = 0 then d else setGrpRec d g { count := (grpRec d g).count, start := d.roofTime }) d
  let d := (List.range 28).foldl (fun d g => recheckGroup g d) d
  if wake then raise 748 d else d

/-- R593, R309: the PLL locks on the internal oscillator: stage 1 begins, and roof time counts from 0. -/
def opPllLock (align : Bool) (d : Device) : Device :=
  if d.mode = .boot && bootStage d = 0 && d.core.path != .again && !d.core.hardHeld && !d.core.porHeld && !d.core.purlinFail then
    let d := setStage 1 (setFlag (setFlag d W.CLK_STATUS_PLL_LOCKED true) W.CLK_STATUS_ALIGN align)
    let d := { d with roofTime := 0, core := { d.core with clocksOff := false, refLost := false } }
    let d := loadShadows (refreshPurlin d)
    if d.core.woken then restoreEvents true { d with core := { d.core with woken := false } } else d
  else d

/-- R48, R527: Purlin starts when its image passes; otherwise every rail goes off and the device stays in stage 0. -/
def opPurlinHashCheck (d : Device) : Device :=
  if bootStage d = 1 && !d.core.hardHeld && !d.core.porHeld && !d.core.clocksOff then
    if sha256 (bankBytes d 3 0 524288) = purlinHash d then
      let d := setStage 2 (setW d W.FW_VER_PURLIN (BitVec.ofNat 32 (fwVersion d 3)))
      let d := setFld d W.ROOF_COMPAT_OWN_COMPAT (fwLevel d 3)
      { d with fw := { d.fw with kickAt := d.roofTime } }
    else
      let d := setStage 0 (assertSso 15 false (killRails d))
      { d with core := { d.core with purlinFail := true } }
  else d

/-- R62, R553: the regions that are finalised and fail their digest, one bit each. -/
def failedRegions (d : Device) : Nat :=
  (List.range 5).foldl (fun m n =>
    if otpLocked d n && regionDigest d n != otpWord d (961 + n) then m ||| 2 ^ n else m) 0

/-- R62, R646: the digests of the regions as stage 2 read them are compared. -/
def checkDigests (d : Device) : Device :=
  let m := failedRegions (asRead d)
  if m = 0 then d else raise 771 (setFld d W.OTP_STATUS_DIGEST_FAIL m)

/-- R74: the words marked as interrupted are read at margin too. DESIGN CHOICE (log 18): OTP_MARGINAL is raised once in a BOOT,
however many of them differ. -/
def checkMarked (d : Device) : Device :=
  if (d.otp.weak.filter (fun p => otpMarked d p.1 && p.2 != 0)) = [] then d
  else raise 769 (setFlag d W.OTP_STATUS_MARGINAL_SEEN true)

/-- R77: every BOOT tells that region 2 is not finalised. -/
def tellUnlocked (d : Device) : Device :=
  let d := loadLocks d
  if otpLocked d 2 then d else raise 770 d

/-- R55: the learned capacity stands at the truss's nominal value. -/
def nominalFcc (d : Device) : Device :=
  gaugeSums (if flag d W.COLD_STATUS_LEARN_NOMINAL then setFld d W.GAUGE_FCC_FCC (fld d W.GAUGE_NOM_FCC_NOM) else d)

/-- R86, R87: stage 3. -/
def stage3 (d : Device) : Device := nominalFcc (selectTruss d)

/-- R306, R309: the link starts its hunt, or the device runs alone. -/
def linkStart (d : Device) : Device :=
  let d := { d with link := { d.link with startAt := d.roofTime } }
  if flag d W.LNK_CTRL_LINK_EN then setPart 1 0 (setLink (huntState d) d) else setPart 0 0 d

/-! ### What ends a boot -/

/-- R197, R199: the latch record is found set: LATCHED again, a retry granted before waiting anew. -/
def latchAgain (d : Device) : Device :=
  let no := d.seq.noRetry
  let d := enterLatched (fld d W.MODE_STATUS_LATCH_CAUSE) d.seq.retryWait d
  if no then setFld { d with seq := { d.seq with retryWait := false, noRetry := true } } W.SEQ_STATUS_SEQ_STATE (restState d) else d

/-- R32, R62, R483: what BOOT finds that leads to LATCHED. -/
def latchChecks (d : Device) : Device :=
  if d.mode ≠ .boot then d
  else if fld d W.OTP_STATUS_DIGEST_FAIL ≠ 0 then enterLatched 2 false d
  else if flag d W.MODE_STATUS_LATCH_HELD then latchAgain d
  else if flag d W.TH_STATUS_TH_LATCH then enterLatched 7 false d
  else d

/-- R32, R423, R197: BOOT ready: AUTO_START, a granted retry or a waiting SEQ_UP asks for the start. -/
def readyBoot (d : Device) : Device :=
  let d := { d with core := { d.core with bootReady := true } }
  if d.mode = .boot then
    let auto := flag d W.TRUSS_STATUS_ACTIVE_SRC && (flag d W.MODE_CTRL_AUTO_START || d.seq.retryStart)
    tryStart (if auto && !d.seq.request then { d with seq := { d.seq with request := true, reqAt := d.roofTime } } else d)
  else d

/-- R62, R86, R559, R388: all regions are read (stage 3), the engine accepts pushes and the link joins (stage 4), and stage 5
follows unless its test has passed (R46). -/
def opRegionsRead (d : Device) : Device :=
  if bootStage d = 2 && !d.core.hardHeld && !d.core.porHeld && !d.core.clocksOff then
    let d := { d with otp := { d.otp with kept := d.otp.array } }
    let d := stage3 (tellUnlocked (checkMarked (checkDigests d)))
    let d := showSlot 1 (showSlot 0 (gutterScan d))
    let d := linkStart (setStage 4 d)
    let d := if engineReady d then raise 713 d else d
    let d := setStage (if d.core.testPassed then 6 else 5) d
    if d.core.path = .hard then d else latchChecks d
  else d

/-- R46: the boot self-test ends. -/
def opBootSelftestDone (pass : Bool) (d : Device) : Device :=
  if bootStage d = 5 && !d.core.hardHeld && !d.core.porHeld then
    let d := setStage 6 { d with core := { d.core with testPassed := pass } }
    if !pass && d.mode = .boot && !flag d W.MODE_STATUS_ADOPTING then enterLatched 3 false d else d
  else d

/-- R533, R30: bank `k` has been verified: PD_ACU is powered and Thatch starts. -/
def startThatch (k : Nat) (d : Device) : Device :=
  let d := setFld (setW d W.FW_VER_THATCH (BitVec.ofNat 32 (fwVersion d k))) W.FW_ARB_IMG_ARB (fwArb d k)
  traceAcuOn (putThatch 1 (sealBank k (setAbsent false d)))

/-- R533, R49: stage 6. -/
def opThatchVerify (d : Device) : Device :=
  if bootStage d = 6 && thatchState d = 0 && !d.core.hardHeld && !d.core.porHeld then
    let d := showRecord d
    let k := activeBank d
    if fwCause d k 0 = 0 then startThatch k d
    else if fwCause d (1 - k) 0 = 0 then
      let d := recordBank (1 - k) (setTrial false d)
      startThatch (1 - k) (raise 776 (fwLast 3 0 0 (1 - k) d))
    else readyBoot (setAbsent true d)
  else d

/-- R413: the commands that waited at start for Thatch run. -/
def serveWaiting (d : Device) : Device :=
  (d.eng.issued.filter (fun c => c.wait == 1)).foldl (fun d c =>
    if c.op = 0x51 then opVlyRequest c d else if c.op = 0x52 then opVlyEnd c d else if c.op = 0x82 then opRtcTrim c d else d) d

/-- R445, R534: the live swap has ended: FW_ACTIVATE completes. -/
def swapDone (d : Device) : Device :=
  if running d 0xA1 = [] then d
  else
    let d := fwLast 1 0 0 (activeBank d) d
    raise 774 (completeAll (fun c => c.op == 0xA1) .ok (fun c => c.aux.getD 0 0#32) (fun _ => 0#32) d)

/-- R523, R526, R535: Thatch reports ready; at boot that is stage 7. -/
def opThatchReady (d : Device) : Device :=
  if thatchState d = 1 ∨ thatchState d = 3 then
    let d := setFld (putThatch 2 d) W.ROOF_FLOOR_OWN_FEATURES (fwLevel d (activeBank d))
    let d := { d with fw := { d.fw with twdFrom := d.roofTime, changed := false,
                                        trialFrom := if flag d W.TRUST_STATUS_TRIAL then some d.roofTime else none } }
    let d := serveWaiting (swapDone d)
    if bootStage d = 6 then
      let d := setStage 7 d
      readyBoot (if d.core.path = .powerOn ∨ d.core.path = .wake then restoreGauge d else d)
    else d
  else d

/-- R646: stage 3 and the stages after it on an entry to BOOT without a reset. -/
def opBootEntry (d : Device) : Device :=
  if d.mode = .boot && d.core.path = .again && bootStage d = 3 && !d.core.bootReady then
    let d := stage3 (tellUnlocked (checkDigests d))
    let d := if d.prev = .replay then restoreGauge d else d
    let linked := linkState d ≠ 0
    let d := if linked = flag d W.LNK_CTRL_LINK_EN then d else linkStart (setLink 0 d)
    let verify := d.fw.changed || flag d W.TRUST_STATUS_THATCH_HELD
    let d := latchChecks d
    if verify then
      setStage 6 (putThatch 0 (acuReset (setAbsent false (setFlag d W.TRUST_STATUS_THATCH_HELD false))))
    else if thatchState d = 0 && !d.core.thatchAbsent || thatchState d = 1 then setStage 6 d
    else readyBoot (setStage (if d.core.thatchAbsent then 4 else 7) d)
  else d

/-! ### Adoption (R50-R54, R652) -/

/-- R51: the phases serve rail `n` as the truss assigns them, or with the spare in place of one that is marked failed (or rests
under rotation, R135). -/
def phasesMatch (d : Device) (n : Nat) : Bool :=
  match railKind n with
  | .hc => fld d W.HC_STATUS_PH_MASK n == hcGang d n
  | .cl =>
    let out := (rolePhases d n).filter (fun p =>
      !(fld d W.PH_STATUS_SERVING_RAIL p == (n - 4) % 4 && (fld d W.PH_STATUS_STATE p == 1 || fld d W.PH_STATUS_STATE p == 7)))
    let spare := flag d W.CL_RSTATUS_SPARE_ON (n - 4)
    match out with
    | [] => !spare
    | [p] => spare && (flag d W.PH_STATUS_FAILED p || (clus d ((n - 4) / 4)).rest == some p)
    | _ => false
  | .sb | .ld | .gb => true

/-- R51, R79: the held reference lies within the envelope; a GB rail has none. -/
def heldRefOk (d : Device) (n : Nat) : Bool :=
  let v := refNow d n
  railKind n = .gb || (envVmin d n * 10 ≤ v && (envVmax d n = 0 || v ≤ envVmax d n * 10))

/-- A sample of adoption (R51): a rail, the code of its voltage channel, the code of its current channel. -/
abbrev AdoptSample := BitVec 5 × BitVec 14 × BitVec 14

/-- R488: tenths of a millivolt and of a milliampere in an LSB of rail `n`'s channels, and a current code's value. -/
def voltLsb (n : Nat) : Nat := match railKind n with | .hc | .gb => 20 | .cl | .sb | .ld => 5
def ampLsb (n : Nat) : Nat := match railKind n with | .hc => 200 | .cl => 40 | .sb | .gb => 10 | .ld => 1
def ampCode (n : Nat) (v : BitVec 14) : Int := if railKind n = .gb then v.toNat else v.toInt

/-- R51, R205, R159: the voltage code lies inside the window of R205 taken against the held reference; a GB rail has a voltage to
judge only with AUX_EN, and its reference is VNOM. -/
def sampleInside (d : Device) (n : Nat) (v : BitVec 14) : Bool :=
  let r := if railKind n = .gb then setPoint d n else refNow d n
  let u := v.toNat * voltLsb n * 1000
  (railKind n = .gb && !flag d W.GB_CFG_AUX_EN (n - 24))
    || (r * (980 - 5 * fld d W.SUP_WIN_UV_TH n) ≤ u && u ≤ r * (1020 + 5 * fld d W.SUP_WIN_OV_TH n))

/-- R51: the current code lies below the rail's current limit. -/
def sampleBelow (d : Device) (n : Nat) (v : BitVec 14) : Bool :=
  decide (ampCode n v * (ampLsb n : Int) < (railLimit d n * 100 : Nat))

/-- R51: both pairs report rail `n` inside its window; a comparator marked faulty reports nothing (R228). -/
def pairsInside (d : Device) (n : Nat) : Bool :=
  (rail d n).live &&& (15 ^^^ fld d W.SUP_STATUS_CMP_FAULT n) &&& 15 = 0

/-- R51: what `samples` say of rail `n`: the currents of every enabled rail, the voltages and pairs of a rail that is up. -/
def samplesPass (samples : List AdoptSample) (d : Device) (n : Nat) : Bool :=
  let up := (rail d n).ph = .still
  (!up || pairsInside d n) &&
    samples.all (fun s => s.1.toNat != n || (sampleBelow d n s.2.2 && (!up || sampleInside d n s.2.1)))

/-- R51: rail `n` fails: an enabled one by the conditions of the table, one that is off where the recorded mode and the truss
require it. -/
def railFails (samples : List AdoptSample) (d : Device) (n : Nat) : Bool :=
  if (rail d n).enabled then
    !(configured d n && heldRefOk d n && phasesMatch d n && samplesPass samples d n)
  else
    (d.core.recMode = .run || d.core.recMode = .ease || d.core.recMode = .holdup) && configured d n && inSeq d n

/-- The rails that fail, one bit each. -/
def adoptFails (samples : List AdoptSample) (d : Device) : Nat :=
  (List.range 32).foldl (fun m n => if railFails samples d n then m ||| 2 ^ n else m) 0

/-- R50: the first row whose condition holds: ADOPT_STATUS.RESULT; `crc` is the CRC-16 of the record as Purlin reads it. -/
def adoptResult (crc : Nat) (samples : List AdoptSample) (d : Device) : Nat :=
  if crc ≠ d.core.recCrc then 4
  else if d.core.tripped.isSome then 5
  else if fld d W.OTP_STATUS_DIGEST_FAIL ≠ 0 then 6
  else if flag d W.MODE_STATUS_LATCH_HELD then 7
  else if trussIdent d ≠ d.core.recIdent then 2
  else if adoptFails samples d ≠ 0 then 3
  else 1

/-- R52: a rail recorded as falling goes on falling, at the slope of its own ramp from now. -/
def resumeFall (d : Device) (n : Nat) : Device :=
  let d := modRail n (fun r => { r with held := false, heldPeriod := 0, heldDead := 0 }) d
  if (rail d n).ph = .rampDown then softStop n false d
  else if (rail d n).ph = .rampUp then setRstate n 2 d
  else d

/-- R652: the set-point code nearest to the held reference; halfway between two codes, where R652 names neither, the upper one
(DESIGN CHOICE, log 16). -/
def nearestCode (d : Device) (n : Nat) : Nat := (refNow d n + vStep n / 2) / vStep n

/-- R652, R213: a rail that adoption accepted as up: its held reference is its set point, and it is power-good. -/
def adoptRail (d : Device) (n : Nat) : Device :=
  if (rail d n).ph != .still then d
  else
    let d := setFlag (modRail n (fun r => { r with pg := true, pgAt := d.roofTime }) (setRstate n 3 d)) W.SUP_STATUS_PG true n
    if railKind n = .gb || (n = 0 && flag d W.HC_CFG_VPRE) then d
    else
      let d := setFld d (vcodeFld n) (nearestCode d n) (railIdx n)
      if setPoint d n = refNow d n then d else moveReference n d

/-- R139: a soft handover that the reset stopped starts again after a passing adoption, and only then. -/
def resumeHandover (pass : Bool) (d : Device) (c : Nat) : Device :=
  let h := (clus d c).again
  let d := modClus c (fun x => { x with again := none }) d
  match h with
  | some h => if pass then beginHandover c h d else d
  | none => d

/-- R50: with no rail held, the mode that DESC_NEXT names, BOOT going on as it is. -/
def adoptIdle (d : Device) : Device :=
  if descNext d = .boot then assertSso 15 false d else enterMode (descNext d) d

/-- R52: the continuation after a passing adoption. -/
def continueFrom (d : Device) : Device :=
  let rs := enabledRails d
  match d.core.recMode with
  | .run | .ease => settleMode (enterMode .run d)
  | .holdup => settleMode (enterMode .holdup d)
  | .retain => enterMode .retain d
  | .ramp => if rs = [] then adoptIdle d else startDescent .abort rs d
  | .descend =>
    (match d.core.recFault with
     | some c => if rs = [] then enterLatched c false d else startDescentTo c .orderly rs d
     | none => if rs = [] then adoptIdle d else startDescent .orderly rs d)
  | .service => if rs = [] then assertSso 15 false d else startDescent .service rs (enterMode .descend d)
  | .latched => if flag d W.MODE_STATUS_LATCH_HELD then latchAgain d else assertSso 15 false d
  | .boot | .replay | .standby | .dormant => assertSso 15 false d

/-- R50: what each result but 1 leads to. -/
def adoptOutcome (result : Nat) (failed : List Nat) (d : Device) : Device :=
  match result with
  | 4 => if enabledRails d = [] then enterLatched 5 false d else faultDescent [] 5 false d
  | 5 => enterLatched 4 false d
  | 6 => if enabledRails d = [] then enterLatched 2 false d else faultDescent [] 2 false d
  | 7 => latchAgain d
  | 2 => if enabledRails d = [] then adoptIdle d else startDescent .orderly (enabledRails d) d
  | _ => if enabledRails d = [] then enterLatched 6 false d else faultDescent failed 6 false d

/-- R566, R568: a freeze that the reset made is told, and copied where RST_COPY asks for it once adoption has passed. -/
def tellFreeze (pass : Bool) (d : Device) : Device :=
  if d.log.resetFroze then
    let d := { d with log := { d.log with resetFroze := false } }
    let choice := if pass && flag d W.TRC_CFG_RST_COPY then fld d W.TRC_CFG_COPY else 0
    let slot := (copyChoice d choice).getD 0xFF
    copyAfter choice (raise 832 (gutter 0x0B 0xFF 5 (BitVec.ofNat 32 slot) d))
  else d

/-- R541, R611: what adoption tells of the reset before it. -/
def tellReset (d : Device) : Device :=
  let d := if d.core.wdtReset then raise 806 d else d
  let d := if d.core.pllLost then raise 757 d else d
  { d with core := { d.core with wdtReset := false, pllLost := false, tripped := none } }

/-- R567: the freeze cause of T_ADOPT; the list of causes gives five codes for six bits and leaves this one open (log 7). -/
def adoptTrigger (d : Device) : Device :=
  let v := freeOf d % 16
  trigIf W.TRC_TRIG_T_ADOPT v (drawn d)

/-- R50, R53: adoption ends. -/
def opAdoption (crc : Nat) (samples : List AdoptSample) (d : Device) : Device :=
  if flag d W.MODE_STATUS_ADOPTING && 4 ≤ bootStage d && !d.core.hardHeld && !d.core.clocksOff then
    let result := adoptResult crc samples d
    let bad := if result = 3 then adoptFails samples d else 0
    let held := enabledRails d
    let d := setFlag (setW d W.ADOPT_FAIL (BitVec.ofNat 32 bad)) W.MODE_STATUS_ADOPTING false
    let d := setFld (setFld d W.ADOPT_STATUS_RESULT result) W.ADOPT_STATUS_ADOPTED_COUNT (if result = 1 then held.length else 0)
    let d := { d with power := { d.power with safeKeep := true } }
    let d := restoreGauge (held.foldl resumeFall d)
    let d := match d.core.tripped with
      | some n => if flag d W.SUP_FIRST_VALID then d else loadFirst n 10 d
      | none => d
    let d := gutter 0x07 ((bitsIn bad 32).headD 0xFF) result (getW d W.RESET_CAUSE) d
    let d := recheckPgood (if result = 1 then continueFrom ([0, 1].foldl (resumeHandover true) (held.foldl adoptRail d))
      else adoptOutcome result (bitsIn bad 32) ([0, 1].foldl (resumeHandover false) d))
    let d := tellReset (tellFreeze (result = 1) d)
    if result = 1 then d else adoptTrigger d
  else d

/-! ### The rows -/

def execPllLock (align : Bool) (s : State) : Host.Outcome State Fault Refusal := on (opPllLock align) s
def execPurlinHashCheck (s : State) : Host.Outcome State Fault Refusal := on opPurlinHashCheck s
def execOtpRegionsRead (s : State) : Host.Outcome State Fault Refusal := on opRegionsRead s
def execBootSelftestDone (pass : Bool) (s : State) : Host.Outcome State Fault Refusal := on (opBootSelftestDone pass) s
def execThatchVerify (s : State) : Host.Outcome State Fault Refusal := on opThatchVerify s
def execThatchReady (s : State) : Host.Outcome State Fault Refusal := on opThatchReady s
def execBootEntry (s : State) : Host.Outcome State Fault Refusal := on opBootEntry s
def execAdoption (crc : BitVec 16) (samples : List AdoptSample) (s : State) : Host.Outcome State Fault Refusal :=
  on (opAdoption crc.toNat samples) s

end Sys2Proof.Machine
end

