-- ==== Sys2Proof/Machine/Modes.lean ====
section
/-! DEFINITION. MODE_SET and LATCH_CLEAR (R34, R201, R202, R338, R429, R430, R576), the transition to STANDBY and DORMANT, wake
sources (R36, R368, R513-R515, R648) and what they leave in other modes. -/

namespace Sys2Proof.Machine

/-! ### MODE_SET (R429) -/

/-- R32: the targets of MODE_SET in each mode. -/
def modeTargets (m : Mode) : List Nat :=
  match m with
  | .boot => [9, 10, 1, 0]
  | .run => [11]
  | .retain => [4]
  | .service | .replay => [2]
  | .dormant | .standby | .ramp | .ease | .holdup | .descend | .latched => []

/-- A start that BOOT awaits is given up: T0 and the request are gone, a waiting SEQ_UP ends. -/
def cancelStart (d : Device) : Device :=
  let d := setFld { d with seq := { d.seq with t0 := none, request := false, retryStart := false } } W.SEQ_STATUS_SEQ_STATE
    (restState d)
  completeAll (fun c => c.op == 0x20) .aborted (fun _ => 0#32) (fun _ => 0#32) d

/-- R202: the configured service-hold rails. -/
def serviceRails (d : Device) : List Nat := (List.range 32).filter (fun n => maskBit d W.SEQ_SVCHOLD n && configured d n)

/-- R202: SERVICE is entered, and the power-up runs for the service-hold rails alone, from the first T0 that R193 allows. -/
def enterService (d : Device) : Device :=
  let d := enterMode .service (cancelStart d)
  let rs := serviceRails d
  if rs = [] then d
  else startService (rs.foldl (fun d n => setRstate n 1 d) { d with seq := { d.seq with svcUp := true } })

/-- R201: the rails that a retain descent takes down. -/
def retainFalls (d : Device) : List Nat := (enabledRails d).filter (fun n => !maskBit d W.SEQ_RETAIN n)

/-- R338, R201: RETAIN; in a roof DOWN is announced, and the descent begins at the start of frame FN_TD. -/
def beginRetain (d : Device) : Device :=
  if alone d then startDescent .retain (retainFalls d) d
  else
    let fn := d.link.fn + 20
    let w := frameFields 2 0xB fn 0
    let d := placeAnnounce w.1 w.2 d
    let w2 := putBits w.2 31 24 d.link.annSeq
    { d with link := { d.link with repeatMsg := some (w.1, w2, fn - 2), down := some (0xB, fn) } }

/-- R32, R47, R55, R201, R306, R502, R609: RETAIN is left for RAMP: the link starts anew, the thermal checks are cold, the gauge's
checkpoint is judged, the trace store is empty, the event controller restores its state, and the power-up of the other rails awaits a new T0. -/
def leaveRetain (wake : Bool) (d : Device) : Device :=
  let d := setFld (enterMode .ramp d) W.SEQ_STATUS_SEQ_STATE 1
  let d := { d with
    seq := { d.seq with request := true, reqAt := d.roofTime, t0 := none }
    therm := { d.therm with samples := [], hist := [], susCnt := [], okCnt := [] } }
  let d := judgeRetained (setFlag d W.COLD_STATUS_THERMAL_WARMUP true)
  let d := if flag d W.LNK_CTRL_LINK_EN then linkStart d else d
  tryStart (restoreEvents wake (traceEnable d))

/-- R202: SERVICE is left for BOOT, once the service-hold rails have fallen. -/
def leaveService (c : Cmd) (d : Device) : Device :=
  if enabledRails d = [] then
    let d := (serviceRails d).foldl (fun d n => if rstate d n = 1 then setRstate n 0 d else d) d
    complete c (enterBoot { d with seq := { d.seq with t0 := none, svcUp := false } }) 0 .ok (c.aux.getD 0 0#32) 0#32
  else startDescent .service (enabledRails d) (keepRunning c d)

/-- The effect of an accepted MODE_SET; `c.aux` holds the previous mode. -/
def modeSetRun (c : Cmd) (d : Device) : Device :=
  let w1 := c.aux.getD 0 0#32
  match bitsOf (c.p 0) 3 0 with
  | 11 => beginRetain (keepRunning c d)
  | 4 => leaveRetain false (keepRunning c d)
  | 9 => complete c (enterService d) 0 .ok w1 0#32
  | 10 => complete c (beginReplay (bitsOf (c.p 0) 8 8) (enterMode .replay (cancelStart d))) 0 .ok w1 0#32
  | 2 =>
    if d.mode = .service then leaveService c d
    else complete c (enterBoot (setFld d W.RPL_STATUS_RPL_STATE 0)) 0 .ok w1 0#32
  | t =>
    let d := complete c (cancelStart d) 0 .ok w1 0#32
    { d with core := { d.core with sleepTo := some (if t = 1 then .standby else .dormant, d.roofTime) } }

/-- R429, R62, R338: the checks of MODE_SET in their order. -/
def modeChecks (c : Cmd) (d : Device) : List (Bool × Status) :=
  let t := bitsOf (c.p 0) 3 0
  [notThatch c,
    (highZero c 0 9 && bitsOf (c.p 0) 7 4 = 0 && t < 12 && (t ≠ 10 || replayable d (bitsOf (c.p 0) 8 8)), .badParam),
    ((modeTargets d.mode).contains t && (t ≠ 11 || alone d || isHolder d), .deniedMode),
    (t ≠ 9 || fld d W.OTP_STATUS_DIGEST_FAIL = 0 || serviceRails d == [], .deniedMode),
    (t ≠ 9 || d.otp.permit.testBit 0 || !trussActive d, .deniedPermission), notAdopting d]

def opModeSet (c : Cmd) (d : Device) : Device :=
  gatedTime c d (modeChecks c) (fun d => modeSetRun { c with aux := [BitVec.ofNat 32 d.mode.code] } d)

/-- R429: 100 microseconds after the gate the device goes to STANDBY or DORMANT. -/
def opSleep (d : Device) : Device :=
  match d.core.sleepTo with
  | some (m, t) =>
    let d := advanceTo (t + 10000) { d with core := { d.core with sleepTo := none } }
    if d.mode = .boot then enterMode m (cancelStart d) else d
  | none => d

/-! ### LATCH_CLEAR (R430) -/

/-- R430: a thermal zone still lies above SHUTDOWN minus hysteresis. -/
def tooHot (d : Device) : Bool :=
  (List.range 32).any (fun i => sensorOn d i && samplesOf d i ≠ 0 &&
    (match shdnAt d i with | some t => decide (t - 250 < valueOf d i) | none => false))

/-- R107, R132: the phase records are cleared: dropped and failed phases return to their roles, an engaged spare to idle. -/
def clearPhases (d : Device) : Device :=
  let d := (List.range 4).foldl (fun d k => setFld (setFld d W.HC_STATUS_PH_DROPPED 0 k) W.HC_PH_CAUSE_CAUSE 0 k) d
  let d := (List.range 8).foldl (fun d i => setFld d W.CL_RSTATUS_PH_DROPPED 0 i) d
  [0, 1].foldl (fun d c =>
    let d := if flag d W.CL_STATUS_SPARE_ENGAGED c then parkSpare c d else d
    ((clPhases c).filter (fun p => sparePhase d c != some p && flag d W.PH_STATUS_FAILED p)).foldl
      (fun d p => setFld (readmitPhase d p) W.PH_STATUS_STATE 0 p) d) d

/-- R430: the records that LATCH_CLEAR clears. -/
def clearRecords (d : Device) : Device :=
  let d := setFld (setFlag d W.MODE_STATUS_LATCH_HELD false) W.MODE_STATUS_LATCH_CAUSE 0
  let d := setFlag (setFld (setW d W.SUP_FIRST 0#32) W.SEQ_STATUS_RETRY_CNT 0) W.TH_STATUS_TH_LATCH false
  clearPhases ((List.range 32).foldl (fun d n => setFlag d W.SUP_STATUS_FAULT_LATCH false n) d)

/-- R430: the checks of LATCH_CLEAR in their order. -/
def clearChecks (c : Cmd) (d : Device) : List (Bool × Status) :=
  [notThatch c, (inMode d [.boot, .latched], .deniedMode), notAdopting d,
    (fld d W.MODE_STATUS_LATCH_CAUSE ≠ 7 || !tooHot d, .busy)]

def opLatchClear (c : Cmd) (d : Device) : Device :=
  gated c d (clearChecks c)
    (fun d =>
      let cause := BitVec.ofNat 32 (fld d W.MODE_STATUS_LATCH_CAUSE)
      let d := clearRecords d
      let d := if d.mode = .latched then
          enterBoot { d with seq := { d.seq with retryWait := false, noRetry := false } } else d
      complete c d 1 .ok cause 0#32)

/-! ### Wake sources -/

/-- R32: a wake source acts in the mode it finds; `hold` says that `HOLD` lies above its lockout threshold (R31). -/
def wake (hold : Bool) (d : Device) : Device :=
  match d.mode with
  | .standby => wakeStandby d
  | .retain => leaveRetain true d
  | .dormant => if hold then wakeDormant false d else d
  | .boot | .ramp | .run | .ease | .holdup | .descend | .latched | .service | .replay => d

/-- R36: after the opposite level, pin `x` has held `level` on `n` consecutive CK_LPO samples (of 1 microsecond): it is the level
that WKx_EDGE selects, held for the filter time. -/
def pinHeld (x : Nat) (level : Bool) (n : Nat) (d : Device) : Bool :=
  let edge := fld d (if x = 0 then W.WAKE_CFG_WK0_EDGE else W.WAKE_CFG_WK1_EDGE)
  let filt := fld d (if x = 0 then W.WAKE_CFG_WK0_FILT else W.WAKE_CFG_WK1_FILT)
  (edge == 2 || level == (edge == 0)) && 10 * (filt + 1) ≤ n

/-- R36: pin `x` meets its level and filter test: a wake in STANDBY and RETAIN when it is enabled, and elsewhere WKx_SEEN. -/
def opWakePin (x : Nat) (level : Bool) (n : Nat) (d : Device) : Device :=
  if d.mode = .dormant || d.core.porHeld || !pinHeld x level n d then d
  else if inMode d [.standby, .retain] then
    (if flag d (if x = 0 then W.WAKE_CFG_WK0_EN else W.WAKE_CFG_WK1_EN) then wake true d else d)
  else (if x = 0 then setFlag d W.WAKE_CFG_WK0_SEEN true else setFlag d W.WAKE_CFG_WK1_SEEN true)

/-- R648: the wake threshold of `VSUP` in millivolts. -/
def wakeTh (d : Device) : Nat := 4500 + 100 * fld d W.VSUP_CFG_WAKE_TH

/-- R648: in STANDBY `VSUP`, of which a sample of `low` millivolts has been taken in STANDBY, has then lain at `high` or above on
`n` consecutive samples. -/
def opVsupWake (low high n : Nat) (d : Device) : Device :=
  if d.mode = .standby && low < wakeTh d && wakeTh d ≤ high && 10 ≤ n then wake true d else d

/-- R368: the auxiliary pair has held a positive level for `us` microseconds. -/
def opVauxWake (us : Nat) (d : Device) : Device :=
  if inMode d [.standby, .retain] && 100 ≤ us then wake true d else d

/-- R513: alarm `a` matches the time. -/
def alarmMatches (a : Nat) (d : Device) : Bool :=
  flag d W.RTC_ALM_EN a && !flag d W.RTC_CTRL_HALT
  && (flag d W.RTC_ALM_M_DAY a || fld d W.RTC_ALM_DAY a == fld d W.RTC_DATE_DAY)
  && (flag d W.RTC_ALM_M_HOUR a || fld d W.RTC_ALM_HOUR a == fld d W.RTC_TIME_HOUR)
  && (flag d W.RTC_ALM_M_MIN a || fld d W.RTC_ALM_MINUTE a == fld d W.RTC_TIME_MINUTE)
  && (flag d W.RTC_ALM_M_SEC a || fld d W.RTC_ALM_SECOND a == fld d W.RTC_TIME_SECOND)

/-- R513: alarm `a` has not yet been judged on the edge of this cycle, on which the prescaler wrapped. -/
def alarmEdge (a : Nat) (d : Device) : Bool := d.rtc.wrapC == some d.cycles && !d.rtc.fired.testBit a

def opAlarm (a : Nat) (hold : Bool) (d : Device) : Device :=
  if alarmEdge a d && alarmMatches a d then
    let d := { d with rtc := { d.rtc with fired := setBitNat d.rtc.fired a true } }
    let d := setFld d W.RTC_STATUS_ALMF (setBitNat (fld d W.RTC_STATUS_ALMF) a true)
    let d := raise (736 + a) (traceEntry 7 1 [a] d)
    if flag d W.RTC_ALM_WAKE a then wake hold d else d
  else d

/-- EV_TS: the two words of a timestamp; `presc` is the prescaler at the qualifying edge. -/
def timestamp (rise : Bool) (presc : Nat) (d : Device) : Word × Word :=
  let h := flag d W.RTC_CTRL_HALT
  let date := getW d W.RTC_DATE
  let time := getW d W.RTC_TIME
  (BitVec.ofNat 32 (bitsOf date 23 16 * 2 ^ 24 + bitsOf date 15 8 * 2 ^ 16 + bitsOf date 7 0 * 2 ^ 8 + bitsOf time 23 16),
   BitVec.ofNat 32 ((if h then 2 ^ 31 else 0) + (if rise then 2 ^ 30 else 0) + bitsOf time 15 8 * 2 ^ 24 + bitsOf time 7 0 * 2 ^ 16
     + (if h then fld d W.RTC_SUBSEC_PRESC else presc % 32768)))

/-- R514, R515: a timestamp for input `x` is stored, or dropped with OVF. -/
def storeStamp (x : Nat) (ts : Word × Word) (d : Device) : Device :=
  let q := evFifo d x
  if q.length < 4 then
    let d := { d with rtc := { d.rtc with fifos := SMap.set (fun _ => []) x (q ++ [ts]) d.rtc.fifos } }
    let d := raise (738 + x) (traceEntry 7 2 (x :: wordBytesLE ts.2) d)
    if (fld d W.TRC_TRIG_T_EV).testBit x then trigger 7 d else d
  else
    let was := (fld d W.EV_STATUS_OVF).testBit x
    let d := setFld d W.EV_STATUS_OVF (setBitNat (fld d W.EV_STATUS_OVF) x true)
    if was then d else raise 742 d

/-- R514: a change of input `x` counts; `rise` is its new level. A selected edge stores a timestamp, and a stored edge of an
input enabled for it wakes the device. -/
def opEvTimestamp (x : Nat) (rise : Bool) (presc : Nat) (hold : Bool) (d : Device) : Device :=
  let d := setFld d W.EV_STATUS_LEVEL (setBitNat (fld d W.EV_STATUS_LEVEL) x rise)
  if (fld d W.EV_CFG_EDGE x).testBit (if rise then 0 else 1) then
    let stored := (evFifo d x).length < 4
    let d := storeStamp x (timestamp rise presc d) d
    if stored && flag d W.EV_CFG_WAKE x then wake hold d else d
  else d

/-! ### The rows -/

def execModeSet (rq : Req) (p0 : Word) (s : State) : Host.Outcome State Fault Refusal :=
  on (runRow rq 0x25 [p0] [] opModeSet) s
def execLatchClear (rq : Req) (s : State) : Host.Outcome State Fault Refusal := on (runRow rq 0x26 [] [] opLatchClear) s
def execStandbyDormantTransition (s : State) : Host.Outcome State Fault Refusal := on opSleep s
def execWakePin (x : BitVec 1) (level : Bool) (n : Nat) (s : State) : Host.Outcome State Fault Refusal :=
  on (fun d => opWakePin x.toNat level n (tracePin (1 + x.toNat) level n d)) s
def execVsupWake (low high n : Nat) (s : State) : Host.Outcome State Fault Refusal := on (opVsupWake low high n) s
def execVauxWake (us : Nat) (s : State) : Host.Outcome State Fault Refusal := on (opVauxWake us) s
def execAlarm (a : BitVec 1) (hold : Bool) (s : State) : Host.Outcome State Fault Refusal := on (opAlarm a.toNat hold) s
def execEvTimestamp (x : BitVec 2) (rise : Bool) (presc : BitVec 15) (hold : Bool) (s : State) :
    Host.Outcome State Fault Refusal := on (opEvTimestamp x.toNat rise presc.toNat hold) s

end Sys2Proof.Machine
end

