-- ==== Sys2Proof/Machine/Background.lean ====
section
/-! DEFINITION. Background work and self-test (21): the scrubbers, telemetry records, SELFTEST. -/

namespace Sys2Proof.Machine

/-! ### Scrubbing (R544, R545, R63) -/

/-- R544: BG_ECC_LAST.MEM of a memory. -/
def memCode : Mem → Nat
  | .tcu => 0 | .acu => 1 | .ring _ _ => 2 | .trace => 3 | .control => 4 | .shadow => 5

/-- R542, R27: the memory is on. -/
def memOn (d : Device) : Mem → Bool
  | .acu => acuOn d
  | .trace => acuOn d
  | .tcu | .ring _ _ | .control | .shadow => tcuOn d && !d.core.clocksOff

/-- R545: the pages whose words are held twice. -/
def heldTwice (a : Nat) : Bool := (2 ≤ a / 256 && a / 256 ≤ 7) || a / 256 = 0x0C || a / 256 = 0x1D

/-- Words that report what the device is doing; their RO bits are no storage (log 40). -/
def reportWords : List Nat := [W.DEV_STATUS, W.MODE_STATUS, W.ADOPT_STATUS, W.COLD_STATUS, W.BG_STATUS, W.BK_STATUS, W.CHG_STATUS,
  W.GAUGE_STATUS, W.TH_STATUS, W.ADC_STATUS, W.OTP_STATUS, W.TRUSS_STATUS, W.LNK_STATUS, W.ROOF_STATUS] ++
  [W.VLY_STATUS, W.PC_STATUS, W.GUT_STATUS, W.GUT_BUF_STATUS, W.TRC_STATUS, W.RPL_STATUS, W.TRUST_STATUS, W.HWD_STATUS,
   W.CLK_STATUS, W.SYNC_STATUS, W.PD_STATUS]
def isReport (a : Nat) : Bool :=
  reportWords.contains a || (W.HC_STATUS ≤ a && a < 0xC00 && (famOf? a).any (fun f => f.rw ||| f.rwp = 0))

/-- The bits of a report word that hold what was written to it. -/
def storedMask (a : Nat) : Nat := if isReport a then (famOf? a).elim 0 (fun f => f.rw ||| f.rwp ||| f.w1c) else 0xFFFFFFFF

/-- R544: the word at `a` takes its Reset value, then what the applicable `LOAD` records give it. -/
def reloadWord (a : Nat) (d : Device) : Device :=
  if (famOf? a).isNone then d
  else ((activeLoads d).filter (fun p => p.1 == a)).foldl loadWord (putMasked a (storedMask a) (resetWord a) d)

/-- R397, R544: the entry that tells of packets of Qq that were discarded. It takes no slot that an issued packet holds
(log 40). -/
def discardEntry (q : Nat) (d : Device) : Device :=
  let slots := (d.eng.issued.filter (fun c => c.slot)).length
  if ringRoom d 12 < 4 * (slots + 1) then d
  else noteFull (count 0x1E (setRing d 12 ((ring d 12).push
    [BitVec.ofNat 32 (Status.hwFault.code * 2 ^ 24 + q * 2 ^ 20 + 0xFF), 0#32, 0#32, lowW d.roofTime])))

/-- R544: an uncorrectable word of ring SRAM, word `k` of queue or ring `q`. -/
def badRing (q k : Nat) (d : Device) : Device :=
  if q < 12 then
    let d := discardEntry q (emptyQueue q d)
    settleFences (d.eng.issued.length + 1) 0 d
  else if q < 16 then
    let r := ring d q
    setRing d q { r with words := r.words.set k 0xFFFFFFFF#32 }
  else if q = 16 then { d with link := { d.link with q16 := [] } }
  else if q = 17 then { d with link := { d.link with q17 := [] } }
  else if q < 20 then emptyQueue q d
  else d

/-- R63: a shadow word is loaded from the array again. -/
def reloadShadow (w : Nat) (d : Device) : Device :=
  if w < 320 then
    raise 768 { d with otp := { d.otp with shadow := SMap.set (fun _ => 0) w (otpWord d w) d.otp.shadow } }
  else d

/-- R544: what an uncorrectable word leads to. -/
def handleBad (m : Mem) (word : Nat) (d : Device) : Device :=
  match m with
  | .tcu => if purlinRuns d then watchdogReset false (advanceTo (d.roofTime + 100) d) else d
  | .acu => restartThatch d
  | .ring q k => badRing q.toNat k.toNat d
  | .trace => loseEntries d
  | .control => if heldTwice word then d else reloadWord word d
  | .shadow => reloadShadow word d

/-- R544: an uncorrectable word is counted, recorded and handled. -/
def uncorrectable (m : Mem) (word : Nat) (d : Device) : Device :=
  let d := addSat d W.BG_ECC_UNCORRECTED 1
  let d := setFld (setFld d W.BG_ECC_LAST_MEM (memCode m)) W.BG_ECC_LAST_WORD word
  handleBad m word (gutter 0x06 0xFF (memCode m) (getW d W.BG_ECC_LAST) d)

/-- R545, R527: Purlin stops kicking its watchdog, which expires. -/
def copiesDiffer (word : Nat) (d : Device) : Device :=
  if heldTwice word && purlinRuns d then watchdogReset false (advanceTo (d.fw.kickAt + 800000) d) else d

/-- R544, R543, R479: an access to word `word` of memory `m`, by a foreground read or by the scrubber; `last` when it ends the
scrubber's pass. -/
def opScrubAccess (m : Mem) (word : Nat) (found : Found) (fore last : Bool) (d : Device) : Device :=
  let task := if m = .control ∨ m = .shadow then 1 else 0
  if !memOn d m || !(fore || bgMay task d) then d
  else
    let d := if fore then d else count (0x50 + task) (bgBegin task d)
    let d := if !fore && last then bgRan task d else d
    match found with
    | .good => d
    | .corrected => addSat d W.BG_ECC_CORRECTED 1
    | .bad => uncorrectable m word d
    | .copies => if m = .control then copiesDiffer word d else d

/-! ### Telemetry records (R547) -/

/-- R547: the roof time of the newest result that a record uses. -/
def newestUsed (d : Device) : Nat :=
  ((List.range 64) ++ [95, 96, 97, 98]).foldl (fun t ch => max t (SMap.get (fun _ => 0) d.adc.doneAt ch)) 0

/-- R547: the words of a telemetry record. -/
def telemetryWords (d : Device) : List Word :=
  let pair (h l : Nat) : Word := BitVec.ofNat 32 (h % 65536 * 65536 + l % 65536)
  [pair (0x10 * 256 + 36) d.bg.tlmSeq, lowW (newestUsed d)]
  ++ (List.range 32).map (fun n => pair (code16 d n) (code16 d (32 + n)))
  ++ [pair (code16 d 95) (code16 d 96), pair (code16 d 97) (code16 d 98),
      pair (fld d W.GAUGE_STATUS_USABLE) (fld d W.TH_STATUS_HOT_VALUE)]

/-- R547: the record takes its number, and the next period begins. -/
def nextTelemetry (d : Device) : Device := { d with bg := { d.bg with tlmSeq := d.bg.tlmSeq + 1, tlmFrom := d.roofTime } }

/-- R547: every hundredth record goes to the flash as well. -/
def flashTelemetry (ws : List Word) (d : Device) : Device :=
  if flag d W.BG_CTRL_TLM_FLASH && d.bg.tlmSeq % 100 = 0 then { d with log := { d.log with telemetry := ws :: d.log.telemetry } } else d

/-- R547, R479: a telemetry period has passed, and Thatch writes a record. Its cycles are not stated (log 7). -/
def opTelemetryRecord (d : Device) : Device :=
  if fld d W.BG_CTRL_TLM_PERIOD = 0 ∨ !thatchReady d ∨ !acuOn d ∨ !bgMay 4 d then d
  else
    let d := advanceTo (d.bg.tlmFrom + fld d W.BG_CTRL_TLM_PERIOD * 1000000) d
    let ws := telemetryWords d
    let d := bgBegin 4 (nextTelemetry (count 0x54 (drawn d) (freeOf d)))
    bgRan 4 (ringRecord 15 ws (flashTelemetry ws d))

/-! ### SELFTEST (R431, R432, R548-R555) -/

def testCode (c : Cmd) : Nat := bitsOf (c.p 0) 3 0

/-- R431: the modes of a test. -/
def testMode (d : Device) (t : Nat) : Bool :=
  inMode d [.boot, .service] || (t ≤ 2 && modeOk .up d)

/-- R548, R432: a test may run now. -/
def testFree (c : Cmd) (d : Device) : Bool :=
  !(running d 0x31).any (fun x => x.id != c.id) && running d 0x30 == []
  && (testCode c ≠ 1 ||
    ((rail d (testRail c)).pg && !(fld d W.SUP_STATUS_CMP_FAULT (testRail c)).testBit (testComp c ^^^ 1)))

/-- A sample of adoption as an environment fact of a command, and back. -/
def packSample (s : AdoptSample) : Int := ((s.1.toNat * 2 ^ 14 + s.2.1.toNat) * 2 ^ 14 + s.2.2.toNat : Nat)
def unpackSample (x : Int) : AdoptSample :=
  (BitVec.ofNat 5 (x.toNat / 2 ^ 28), BitVec.ofNat 14 (x.toNat / 2 ^ 14), BitVec.ofNat 14 x.toNat)

/-- R552: the keeper holds the rails that are up; after the test Purlin judges them under R50 and R51, on `samples`. -/
def readopt (samples : List AdoptSample) (d : Device) : Device :=
  let held := enabledRails d
  if held = [] then d
  else
    let d := { d with
      rails := (List.range 32).foldl (fun m n => SMap.set (fun _ => ({} : Rail)) n (heldRail d n) m) []
      core := { d.core with recMode := d.mode, recFault := none, recIdent := trussIdent d,
                            recCrc := crcWords (keeperWords d), tripped := none } }
    let result := adoptResult d.core.recCrc samples d
    let bad := if result = 3 then adoptFails samples d else 0
    let d := setW d W.ADOPT_FAIL (BitVec.ofNat 32 bad)
    let d := setFld (setFld d W.ADOPT_STATUS_RESULT result) W.ADOPT_STATUS_ADOPTED_COUNT (if result = 1 then held.length else 0)
    let d := setFld d W.ADOPT_STATUS_KEEPER_MODE d.mode.code
    let d := held.foldl resumeFall d
    let d := gutter 0x07 ((bitsIn bad 32).headD 0xFF) result (getW d W.RESET_CAUSE) d
    if result = 1 then recheckPgood (held.foldl adoptRail d)
    else recheckPgood (adoptOutcome result (bitsIn bad 32) d)

/-- R552, R523: Thatch restarts, its SRAM tested destructively; the restart does not count toward R525. -/
def testedThatch (d : Device) : Device :=
  let st := thatchState d
  if st = 1 ∨ st = 2 ∨ st = 3 then raise 779 (putThatch 3 (acuReset { d with fw := { d.fw with trialFrom := none } })) else d

/-- R552, R554, R432: test 3. Environment: the blocks that fail, one bit each in the order of R554, then the samples on which
adoption judges. The instant of completion within the 7 ms is free (log 7). -/
def logicTest (c : Cmd) (d : Device) : Device :=
  let failed := (c.e 0).toNat % 32
  let t := freeOf d % 700001
  let d := testedThatch (advanceTo (d.roofTime + t) (drawn d))
  if failed = 0 then readopt ((c.env.drop 1).map unpackSample) (complete c d 0 .ok 0#32 0#32)
  else
    let d := complete c d 0 .ok 1#32 (BitVec.ofNat 32 failed)
    if enabledRails d = [] then enterLatched 3 false d else faultDescent [] 3 false d

/-- R74, R553: the words whose reads differ. -/
def softWords (d : Device) : List Nat := (d.otp.weak.filter (fun p => otpMargin d p.1 != otpWord d p.1)).map (fun p => p.1)

/-- R553, R554, R432: test 4. -/
def otpTest (c : Cmd) (d : Device) : Device :=
  let t := freeOf d % 800001
  let d := advanceTo (d.roofTime + t) (drawn d)
  let regions := failedRegions d
  let soft := softWords d
  let d := checkDigests d
  let d := if soft = [] then d else raise 769 (setFlag d W.OTP_STATUS_MARGINAL_SEEN true)
  let d := setFlag (loadShadows d) W.OTP_STATUS_OVR_ACTIVE false
  let w2 := regions * 2 ^ 16 + (match soft with | [] => 0 | w :: _ => 2 ^ 15 + w)
  complete c d 0 .ok (if regions = 0 ∧ soft = [] then 0#32 else 1#32) (BitVec.ofNat 32 w2)

/-- R431, R548; test 1 names a rail and is refused while adopting (R522). -/
def opSelftest (c : Cmd) (d : Device) : Device :=
  let t := testCode c
  let p0 := c.p 0
  gated c d (fun d => [
      (1 ≤ t && t ≤ 4 && bitsOf p0 31 22 = 0 && bitsOf p0 19 18 = 0 && bitsOf p0 15 13 = 0 && bitsOf p0 7 4 = 0, .badParam),
      (testMode d t, .deniedMode), (testFree c d && (t ≠ 1 || !flag d W.MODE_STATUS_ADOPTING), .busy)])
    (fun d =>
      if t = 3 then logicTest c d
      else if t = 4 then otpTest c d
      else
        let d := setFld { d with bg := { d.bg with stFrom := d.roofTime } } W.BG_STATUS_ST_ACTIVE t
        let d := keepRunning { c with aux := [] } d
        if t = 2 then beginCalTest d else d)

/-- R548: what test `c` waits for has not come about in time: its conditions within 50 ms of the gate, the trip within the
window of R549, or the release within twice the deglitch time. -/
def testLate (c : Cmd) (d : Device) : Device :=
  let ovr (d : Device) : Device := endTest c .timeout 0 0 (advanceTo (d.bg.stFrom + 5000000) d)
  if testCode c = 2 then (if c.aux = [] then ovr d else d)
  else match c.aux with
    | [_, t] =>
      let d := advanceTo (d.roofTime - sinceAux d t + testDg d c + 4) d
      judgeTest c (freeOf d % 65536) 1 (drawn d)
    | [_, delay, t] => judgeTest c delay.toNat 3 (advanceTo (d.roofTime - sinceAux d t + 2 * testDg d c) d)
    | _ => ovr d

def opSelftestTimeout (d : Device) : Device :=
  match running d 0x31 with
  | c :: _ => testLate c d
  | [] => d

/-! ### The rows -/

def execSelftest (rq : Req) (p0 : Word) (failed : BitVec 5) (samples : List AdoptSample) (s : State) :
    Host.Outcome State Fault Refusal :=
  on (runRow rq 0x31 [p0] ((failed.toNat : Int) :: samples.map packSample) opSelftest) s
def execSelftestTimeout (s : State) : Host.Outcome State Fault Refusal := on opSelftestTimeout s
def execScrubAccess (m : Mem) (word : BitVec 24) (found : Found) (fore last : Bool) (s : State) :
    Host.Outcome State Fault Refusal := on (opScrubAccess m word.toNat found fore last) s
def execTelemetryRecord (s : State) : Host.Outcome State Fault Refusal := on opTelemetryRecord s

end Sys2Proof.Machine
end

