-- ==== Sys2Proof/Machine/Clocks.lean ====
section
/-! DEFINITION. The reference of the PLL and the check of `CK_LPO` (24). -/

namespace Sys2Proof.Machine

/-- The PLL runs. -/
def pllRuns (d : Device) : Bool := flag d W.CLK_STATUS_PLL_LOCKED && !d.core.clocksOff && !d.core.porHeld && !d.core.hardHeld

/-- R593, R595: the PLL moves to the reference that REF_SEL names. -/
def takeReference (d : Device) : Device :=
  setFld (setFlag d W.CLK_STATUS_XTAL_OK true) W.CLK_STATUS_REF_ACTIVE (fld d W.CLK_CFG_REF_SEL)

/-- R593: after boot stage 3 the crystal or external clock has run for 1,024 cycles within 0.5 %. A reference that was lost is
taken back only under R595. -/
def opXtalOk (d : Device) : Device :=
  if pllRuns d && fld d W.CLK_CFG_REF_SEL ≠ 0 && fld d W.CLK_STATUS_REF_ACTIVE = 0 && 3 ≤ bootStage d && !d.core.refLost then
    takeReference d
  else d

/-- R595: the active reference shows no edge for 200 ns. -/
def opRefLost (d : Device) : Device :=
  if pllRuns d && fld d W.CLK_STATUS_REF_ACTIVE ≠ 0 then
    let d := setFlag (setFld d W.CLK_STATUS_REF_ACTIVE 0) W.CLK_STATUS_XTAL_OK false
    raise 755 (setFlag { d with core := { d.core with refLost := true } } W.CLK_STATUS_REF_LOST true)
  else d

/-- R595: with REF_AUTO the reference has again met the test of R593 for 10 ms. -/
def opRefRestored (d : Device) : Device :=
  if pllRuns d && d.core.refLost && flag d W.CLK_CFG_REF_AUTO && fld d W.CLK_CFG_REF_SEL ≠ 0 then
    raise 756 (takeReference { d with core := { d.core with refLost := false } })
  else d

/-- R598: a count of CK_SYS cycles over 32 CK_LPO lies outside 2,880-3,520. -/
def opLpoFault (d : Device) : Device :=
  if pllRuns d then raise 758 (setFlag d W.CLK_STATUS_LPO_BAD true) else d

/-- R598: a count lies within the range. -/
def opLpoBadClear (d : Device) : Device := if pllRuns d then setFlag d W.CLK_STATUS_LPO_BAD false else d

/-! ### The rows -/

def execXtalOk (s : State) : Host.Outcome State Fault Refusal := on opXtalOk s
def execRefLost (s : State) : Host.Outcome State Fault Refusal := on opRefLost s
def execRefRestored (s : State) : Host.Outcome State Fault Refusal := on opRefRestored s
def execLpoFault (s : State) : Host.Outcome State Fault Refusal := on opLpoFault s
def execLpoBadClear (s : State) : Host.Outcome State Fault Refusal := on opLpoBadClear s

end Sys2Proof.Machine
end

