-- ==== Sys2Proof/Machine/Counters.lean ====
section
/-! DEFINITION. Performance counters (23): snapshots and clears, the sample buffer, periodic dumps. -/

namespace Sys2Proof.Machine

/-- R588: the words of a dump record: header, roof time, the 64 counters with their selections. -/
def dumpWords (d : Device) : List Word :=
  BitVec.ofNat 32 (0x21 * 2 ^ 24 + 130 * 2 ^ 16 + d.perf.dumpSeq % 65536) :: lowW d.roofTime :: highW d.roofTime ::
  (List.range 64).flatMap (fun k =>
    let w := getW d (W.PC_CTRL + k)
    [lowW (counterVal d k),
     BitVec.ofNat 32 (counterVal d k / 2 ^ 32 + bitsOf w 6 0 * 2 ^ 16 + (if bitOf w 31 then 2 ^ 23 else 0))])

/-- R588: a dump record enters Q15, or is dropped whole and counted. -/
def writeDump (d : Device) : Device :=
  let fits := 131 ≤ ringRoom d 15
  let d := ringRecord 15 (dumpWords d) d
  if fits then raise 867 { d with perf := { d.perf with dumpSeq := (d.perf.dumpSeq + 1) % 65536 } }
  else raise 866 (addSat d W.PC_STATUS_DUMP_DROPPED 1)

/-- R591: the Q15 index of the periodic dump of this cycle. -/
def dumpedNow (d : Device) : Option Nat :=
  match d.perf.dumpC with
  | some (t, i) => if t = d.cycles then some i else none
  | none => none

/-- R448, R588, R589, R591: the record is written within 200 CK_SYS, unless a periodic one has the same snapshot cycle; the instant
is not fixed (log 7). -/
def opCntSnapshot (c : Cmd) (d : Device) : Device :=
  judged c d false 0 [(modeOk .live d, .deniedMode), (perfOpen d, .deniedPermission)]
    (fun d =>
      let cyc := freeOf d % 201
      match dumpedNow d with
      | some i => complete c (drawn d) cyc .ok (BitVec.ofNat 32 i) 0#32
      | none =>
        let at_ := BitVec.ofNat 32 (ring d 15).wr
        let fits := 131 ≤ ringRoom d 15
        let d := writeDump (drawn { d with perf := { d.perf with snapC := some d.cycles } })
        if fits then complete c d cyc .ok at_ 0#32 else complete c d cyc .busy 0#32 0#32)

/-- R448, R591: the masked counters are cleared. -/
def clearCounters (m : Nat) (d : Device) : Device :=
  { d with perf := { d.perf with counters := d.perf.counters.filter (fun p => !m.testBit p.1) } }

def opCntClear (c : Cmd) (d : Device) : Device :=
  judged c d false 2 [(modeOk .live d, .deniedMode), (c.src = .thatch || perfOpen d, .deniedPermission)]
    (fun d => complete c (clearCounters ((c.p 0).toNat + (c.p 1).toNat * 2 ^ 32) d) 2 .ok 0#32 0#32)

/-- R586, R587: a sampled packet's entry, which its completion made due, enters the buffer, or is lost. -/
def opSampleEntry (d : Device) : Device :=
  match d.perf.due with
  | [] => d
  | e :: t =>
    let d := { d with perf := { d.perf with due := t } }
    if d.perf.buf.length < 256 then { d with perf := { d.perf with buf := d.perf.buf ++ [(d.roofTime, e)] } }
    else raise 865 (addSat d W.PC_STATUS_SMP_LOST 1)

/-- R587: 16 entries are buffered, or 1 ms has passed since the oldest arrived: up to 16 drain into a record; without room they
stay. -/
def opSampleDrain (d : Device) : Device :=
  match d.perf.buf with
  | [] => d
  | (t, _) :: _ =>
    let d := if 16 ≤ d.perf.buf.length then d else advanceTo (t + 100000) d
    let es := d.perf.buf.take 16
    let ws := BitVec.ofNat 32 (0x20 * 2 ^ 24 + 5 * es.length * 2 ^ 16 + d.perf.smpSeq % 65536) :: es.flatMap (fun e => e.2)
    if perfOpen d && ws.length ≤ ringRoom d 15 then
      let d := ringRecord 15 ws d
      { d with perf := { d.perf with buf := d.perf.buf.drop 16, smpSeq := (d.perf.smpSeq + 1) % 65536 } }
    else d

/-- R588, R589: a dump period has passed. -/
def opCounterDump (d : Device) : Device :=
  let n := fld d W.PC_DUMP_DUMP_PERIOD
  if n = 0 || !engineOn d then d
  else
    let d := advanceTo (d.perf.dumpFrom + n * 10000) d
    let d := { d with perf := { d.perf with dumpFrom := d.roofTime } }
    if !perfOpen d || d.perf.snapC == some d.cycles then d
    else
      let i := (ring d 15).wr
      let fits := 131 ≤ ringRoom d 15
      writeDump { d with perf := { d.perf with dumpC := if fits then some (d.cycles, i) else none } }

def execCntSnapshot (rq : Req) (s : State) : Host.Outcome State Fault Refusal := on (runRow rq 0xB3 [] [] opCntSnapshot) s
def execCntClear (rq : Req) (p0 p1 : Word) (s : State) : Host.Outcome State Fault Refusal :=
  on (runRow rq 0xB4 [p0, p1] [] opCntClear) s
def execSampleEntry (s : State) : Host.Outcome State Fault Refusal := on opSampleEntry s
def execSampleDrain (s : State) : Host.Outcome State Fault Refusal := on opSampleDrain s
def execCounterDump (s : State) : Host.Outcome State Fault Refusal := on opCounterDump s

end Sys2Proof.Machine
end

