-- ==== Sys2Proof/Machine/Engine.lean ====
section
/-! DEFINITION. The command engine (14): its own commands (R400-R404, R418), issue, start and the judgement of duplicates
(R398, R402, R406), the waits for Thatch and for a Q12 slot (R413, R409). -/

namespace Sys2Proof.Machine

/-! ### Engine commands (R400-R404, R418) -/

def opNop (c : Cmd) (d : Device) : Device := complete c d 1 .ok 0#32 0#32

def opEchoCmd (c : Cmd) (d : Device) : Device := complete c d 1 .ok (c.p 0) (c.p 1)

/-- R418: the weights are 1-15, the reserved bits 0. -/
def weightsOk (w : Word) : Bool :=
  bitsOf w 31 24 = 0 && (List.range 6).all (fun k => bitsOf w (4 * k + 3) (4 * k) ≠ 0)

def opQueueCfg (c : Cmd) (d : Device) : Device :=
  judged c d false 3 [notThatch c, (weightsOk (c.p 0), .badParam), (modeOk .live d, .deniedMode)]
    (fun d => complete c (setW d W.ENG_WEIGHT (c.p 0)) 3 .ok (getW d W.ENG_WEIGHT) 0#32)

/-- The tag memories of the queues in `mask` are emptied. -/
def flushTags (mask : Nat) (d : Device) : Device := (bitsIn mask 12).foldl (fun d q => setTagMem d q []) d

def opTagFlush (c : Cmd) (d : Device) : Device :=
  judged c d false 2 [notThatch c, (bitsOf (c.p 0) 31 12 = 0, .badParam), (modeOk .live d, .deniedMode)]
    (fun d => complete c (flushTags (bitsOf (c.p 0) 11 0) d) 2 .ok 0#32 0#32)

/-- R404: at most one FENCE_ALL is issued at a time. -/
def fenceAllHeld (rq : Req) (d : Device) : Bool := srcIsHost rq.src && d.eng.fall.isSome

/-! ### Start (R402, R411) -/

/-- The operation of an opcode of *Command Reference* from 0x00 to 0x3F. -/
def lowOp (op : Nat) : Cmd → Device → Device :=
  match op with
  | 0x00 => opNop | 0x03 => opEchoCmd | 0x04 => opQueueCfg | 0x05 => opTagFlush
  | 0x10 => opRegRead | 0x11 => opRegWrite | 0x12 => opRegRmw | 0x13 => opRegReadBlock
  | 0x20 => opSeqUp | 0x21 => opSeqDown | 0x22 => opRailOn | 0x23 => opRailOff | 0x24 => opRailSetV
  | 0x25 => opModeSet | 0x26 => opLatchClear | 0x27 => opResetSoft | 0x28 => opResetHard
  | 0x30 => opSpareDrill | 0x31 => opSelftest
  | _ => fun _ d => d

/-- The operation of an opcode from 0x40 on. -/
def highOp (op : Nat) : Cmd → Device → Device :=
  match op with
  | 0x40 => opChgKick | 0x41 => opChgClear | 0x50 => opRoofQuery | 0x51 => opVlyRequest | 0x52 => opVlyEnd
  | 0x60 => opAdcConvert | 0x61 => opAdcSubscribe | 0x62 => opTempRead | 0x70 => opEvtAck | 0x71 => opEvtGdis
  | 0x80 => opRtcSet | 0x81 => opRtcGet | 0x82 => opRtcTrim
  | 0x90 => opOtpRead | 0x91 => opOtpShadowWrite | 0x92 => opOtpProgram | 0x93 => opOtpFinalize
  | 0x94 => opTrussStage | 0x95 => opTrussCommit | 0xA0 => opFwStage | 0xA1 => opFwActivate | 0xA2 => opWdtKick
  | 0xB0 => opTraceTrigger | 0xB1 => opTraceRearm | 0xB2 => opTraceStream | 0xB3 => opCntSnapshot | 0xB4 => opCntClear
  | _ => fun _ d => d

/-- R402: command `c`, which has issued, starts; `env` are the facts that the outside supplies (log 3). -/
def startCmd (c : Cmd) (env : List Int) (d : Device) : Device :=
  let c := { c with started := true, startT := d.roofTime, env := env }
  (if c.op < 0x40 then lowOp c.op else highOp c.op) c d

/-- R402: the `k`-th of the issued packets that may start does so. Between queues no order is promised (log 12). -/
def opPacketStart (k : Nat) (env : List Int) (d : Device) : Device :=
  if !engineOn d then d else
  match ((waitingCmds d).filter (mayStart d))[k]? with
  | some c => startCmd c env d
  | none => d

/-! ### Waits (R409, R413) -/

/-- R409: the CK_SYS cycle since which the head of queue `q` is held for want of a Q12 slot. -/
def stallFrom (d : Device) (q : Nat) : Option Nat :=
  match headOf d q, d.eng.fullFrom with
  | some p, some t => if heldBy d q p = some 6 then some (max t p.vis) else none
  | _, _ => none

/-- R409: an issue has been held for 1 ms for want of a Q12 slot; raised once for each such hold. -/
def opCompletionStall (d : Device) : Device :=
  match (List.range 12).filterMap (stallFrom d) with
  | [] => d
  | t :: ts =>
    if !engineOn d || d.eng.stalled then d else
    let due := ts.foldl min t + 100000
    let d := advanceTo (d.roofTime + (due - d.cycles)) d
    raise 712 { d with eng := { d.eng with stalled := true } }

/-- R413: the command that has waited longest for Thatch has waited 10 ms. -/
def opThatchWaitTimeout (d : Device) : Device :=
  match d.eng.issued.filter (fun c => c.wait == 1) with
  | [] => d
  | c :: cs =>
    let c := cs.foldl (fun a b => if b.startT < a.startT then b else a) c
    complete c (advanceTo (c.startT + 1000000) d) 0 .noThatch 0#32 0#32

/-! ### The rows -/

def execNop (rq : Req) (s : State) : Host.Outcome State Fault Refusal := on (runRow rq 0x00 [] [] opNop) s
def execEcho (rq : Req) (p0 p1 : Word) (s : State) : Host.Outcome State Fault Refusal :=
  on (runRow rq 0x03 [p0, p1] [] opEchoCmd) s
def execFence (rq : Req) (s : State) : Host.Outcome State Fault Refusal := on (runRow rq 0x01 [] [] opFence) s
def execFenceAll (rq : Req) (s : State) : Host.Outcome State Fault Refusal :=
  on (fun d => if fenceAllHeld rq d then d else runRow rq 0x02 [] [] opFenceAll d) s
def execQueueCfg (rq : Req) (p0 : Word) (s : State) : Host.Outcome State Fault Refusal :=
  on (runRow rq 0x04 [p0] [] opQueueCfg) s
def execTagFlush (rq : Req) (p0 : Word) (s : State) : Host.Outcome State Fault Refusal :=
  on (runRow rq 0x05 [p0] [] opTagFlush) s
def execPacketIssue (pick : Nat) (s : State) : Host.Outcome State Fault Refusal := on (issueOne pick) s
def execPacketStart (k : Nat) (env : List Int) (s : State) : Host.Outcome State Fault Refusal :=
  on (opPacketStart k env) s
def execDuplicateRejudge (q : BitVec 4) (s : State) : Host.Outcome State Fault Refusal := on (rejudge q.toNat) s
def execCompletionStall (s : State) : Host.Outcome State Fault Refusal := on opCompletionStall s
def execThatchWaitTimeout (s : State) : Host.Outcome State Fault Refusal := on opThatchWaitTimeout s

end Sys2Proof.Machine
end

