-- ==== Sys2Proof/Machine/Spi.lean ====
section
/-! DEFINITION. The SPI port and the host page (14): transactions, their checks, pushes, pops, host-page reads and writes. -/

namespace Sys2Proof.Machine

/-- R380: the access word as the device receives it; `kind` is the row's. -/
def accessWord (kind : Nat) (t : Spi) : Word :=
  BitVec.ofNat 32 (kind * 2 ^ 30 + t.target.toNat * 2 ^ 24 + t.count.toNat * 2 ^ 16 + t.rsvd.toNat * 2 ^ 8 + t.acrc.toNat)

/-- R386: check 1 of R382. -/
def acrcOk (kind : Nat) (t : Spi) : Bool :=
  let w := accessWord kind t
  crc8 [bitsOf w 31 24, bitsOf w 23 16, bitsOf w 15 8] = t.acrc.toNat && t.rsvd.toNat = 0

/-- R384: the status word of the previous transaction, sampled at this one's first edge. -/
def spiStatus (d : Device) : Word :=
  BitVec.ofNat 32 ((if d.eng.accepted then 2 ^ 31 else 0) + d.eng.err % 128 * 2 ^ 24 + bitsOf (hpStatus d) 23 0)

/-- R384, R388, R409: a transaction took effect. -/
def spiAccept (out : List Word) (d : Device) : Device :=
  let eng := d.eng
  settle 4 (count 0x2C { d with eng := { eng with accCount := (eng.accCount + 1) % 256, accepted := true, err := 0, spiOut := out } })

/-- R382, R409: a transaction is rejected with a code; it has no other effect. -/
def spiReject (st : Status) (push : Bool) (out : List Word) (d : Device) : Device :=
  let eng := d.eng
  let d := { d with eng := { eng with accepted := false, err := st.code, spiOut := out } }
  let d := count 0x2D (addSat d W.ENG_SPI_CNT_REJECTED 1)
  let d := raise 704 d
  let d := if st = .badCrc then raise 705 (count 0x2E (addSat d W.ENG_SPI_CNT_CRC_ERR 1)) else d
  if push && st = .busy then raise 706 d else d

/-- All words after the status word carry ones (R382). -/
def onesOut (t : Spi) : List Word := t.words.map (fun _ => 0xFFFFFFFF#32)

/-- R382, checks 1-8 in order: the first that fails, with its code. -/
def spiChecks (cs : List (Bool × Status)) : Option Status := firstFail cs

/-- R381: the length and the end of the transaction. -/
def lengthOk (t : Spi) (extra : Nat) : Bool := t.ends = .whole && t.words.length = t.count.toNat + extra

/-- R387: the CRC word of a write or a push. -/
def crcOk (kind : Nat) (t : Spi) : Bool :=
  let n := t.count.toNat
  t.words.getD n 0#32 = BitVec.ofNat 32 (crcWords (accessWord kind t :: t.words.take n))

/-! ### Host-page reads (R383) -/

/-- What a host-page read returns for word `w` (R388: reserved words read 0). -/
def hostWord (d : Device) (w : Nat) : Word :=
  if (famOf? (0x10000 + w)).isSome then readW d (0x10000 + w) else 0#32

def opHostRead (t : Spi) (d : Device) : Device :=
  let st := spiStatus d
  let n := t.count.toNat
  let a := t.target.toNat
  if t.ends = .inAccess then spiReject .badLength false [st] d
  else if !acrcOk 0 t then spiReject .badCrc false (st :: onesOut t) d
  else if n = 0 then spiReject .badLength false (st :: onesOut t) d
  else if 64 < a + n then spiReject .badParam false (st :: onesOut t) d
  else
    let body := accessWord 0 t :: (List.range n).map (fun k => hostWord d (a + k))
    let out := st :: (body ++ [BitVec.ofNat 32 (crcWords body)]).take t.words.length
    if !lengthOk t 2 then spiReject .badLength false out d
    else
      let d := if a ≤ 34 && 34 < a + n then readFpend d else d
      spiAccept out d

/-! ### Host-page writes (R383, R390, R394) -/

/-- R394: RD of ring `q` may take the value `r`. -/
def rdOk (d : Device) (q r : Nat) : Bool :=
  let g := ring d q
  let x := (r + 65536 - g.rel) % 65536
  x ≤ (g.wr + 65536 - g.rel) % 65536 && x % ringEntry q = 0

/-- R394: RD takes `r`. -/
def putRd (q r : Nat) (d : Device) : Device := setRing d q { ring d q with rd := r }

/-- R390: a doorbell. -/
def opDoorbell (v : Word) (d : Device) : Device :=
  ((List.range 12).filter (fun q => bitOf v q && (queue d q).any (fun p => p.staged))).foldl releaseQueue d

/-- R390: HP_SQ_MODE; the queues whose bit is cleared release their staged packets. -/
def opSqMode (v : Word) (d : Device) : Device :=
  let old := fld d W.HP_SQ_MODE_STAGE_Q
  let d := setFld d W.HP_SQ_MODE_STAGE_Q (bitsOf v 11 0)
  ((List.range 12).filter (fun q => old.testBit q && !bitOf v q)).foldl releaseQueue d

/-- One word of a host-page write takes effect; reserved and RO words ignore it (R388). -/
def hostWrite (w : Nat) (v : Word) (d : Device) : Device :=
  let d := traceWrite w v d
  if w = 2 then opDoorbell v d
  else if w = 3 then opSqMode v d
  else if 20 ≤ w ∧ w < 24 then putRd (w - 8) (bitsOf v 15 0) d
  else if w = 24 then setFld d W.HP_RING_OVF_OVF (fld d W.HP_RING_OVF_OVF &&& (7 ^^^ bitsOf v 2 0))
  else if w = 35 then opFack v d
  else d

/-- The words of a write from word `a` on, in ascending order. -/
def hostWrites (a : Nat) (vs : List Word) (d : Device) : Device :=
  match vs with
  | [] => d
  | v :: t => hostWrites (a + 1) t (hostWrite a v d)

def opHostWrite (t : Spi) (d : Device) : Device :=
  let st := spiStatus d
  let n := t.count.toNat
  let a := t.target.toNat
  let zeros := st :: t.words.map (fun _ => 0#32)
  let vs := t.words.take n
  if t.ends = .inAccess then spiReject .badLength false [st] d
  else if !acrcOk 1 t then spiReject .badCrc false (st :: onesOut t) d
  else
    match spiChecks [(n ≠ 0, .badLength), (a + n ≤ 64, .badParam), (lengthOk t 1, .badLength), (crcOk 1 t, .badCrc),
        ((List.range 4).all (fun r => !(a ≤ 20 + r && 20 + r < a + n) || rdOk d (12 + r) (bitsOf (vs.getD (20 + r - a) 0#32) 15 0)),
          .badParam)] with
    | some e => spiReject e false zeros d
    | none => spiAccept zeros (hostWrites a vs d)

/-! ### Pushes (R389) -/

def opPush (t : Spi) (d : Device) : Device :=
  let st := spiStatus d
  let n := t.count.toNat
  let q := t.target.toNat
  let zeros := st :: t.words.map (fun _ => 0#32)
  let ps := splitPackets n (t.words.take n)
  if t.ends = .inAccess then spiReject .badLength false [st] d
  else if !acrcOk 2 t then spiReject .badCrc false (st :: onesOut t) d
  else
    match spiChecks [(n ≠ 0, .badLength), (q < 12, .badParam), (engineReady d, .deniedMode), (n ≤ freeWords d q, .busy),
        (lengthOk t 1, .badLength), (crcOk 2 t, .badCrc), (ps.2, .badLength)] with
    | some e => spiReject e true zeros d
    | none =>
      let d := traceEntry 4 q (leb128 10 n ++ (t.words.take n).flatMap wordBytesLE) d
      spiAccept zeros (enqueue q ((fld d W.HP_SQ_MODE_STAGE_Q).testBit q) ps.1 d)

/-! ### Pops (R393) -/

def opPop (t : Spi) (d : Device) : Device :=
  let st := spiStatus d
  let n := t.count.toNat
  let q := t.target.toNat
  if t.ends = .inAccess then spiReject .badLength false [st] d
  else if !acrcOk 3 t then spiReject .badCrc false (st :: onesOut t) d
  else if n = 0 then spiReject .badLength false (st :: onesOut t) d
  else if q < 12 || 16 ≤ q || n % ringEntry q ≠ 0 then spiReject .badParam false (st :: onesOut t) d
  else
    let g := ring d q
    let k := min n g.unpopped / ringEntry q * ringEntry q
    let at_ := (g.rd + 65536 - g.rel) % 65536
    let hdr := BitVec.ofNat 32 (g.rd * 2 ^ 16 + k)
    let got := (g.words.drop at_).take k
    let body := hdr :: (got ++ List.replicate (n - got.length) 0#32)
    let out := st :: (body ++ [BitVec.ofNat 32 (crcWords body)]).take t.words.length
    if !lengthOk t 2 then spiReject .badLength false out d
    else
      let d := noteFull (setRing d q { g with words := g.words.drop at_, rel := g.rd, rd := (g.rd + k) % 65536 })
      settle 4 (count 0x2F (spiAccept out d))

/-! ### The rows -/

/-- The port responds (R379). -/
def onPort (f : Device → Device) (s : State) : Host.Outcome State Fault Refusal :=
  on (fun d => if portOn d then f d else d) s

def execHostPageRead (tx : Spi) (s : State) : Host.Outcome State Fault Refusal := onPort (opHostRead tx) s
def execHostPageWrite (tx : Spi) (s : State) : Host.Outcome State Fault Refusal := onPort (opHostWrite tx) s
def execPush (tx : Spi) (s : State) : Host.Outcome State Fault Refusal := onPort (opPush tx) s
def execPop (tx : Spi) (s : State) : Host.Outcome State Fault Refusal := onPort (opPop tx) s
def execHpDoorbell (v : Word) (s : State) : Host.Outcome State Fault Refusal := onPort (fun d => opDoorbell v (traceWrite 2 v d)) s
def execHpSqMode (v : Word) (s : State) : Host.Outcome State Fault Refusal := onPort (fun d => opSqMode v (traceWrite 3 v d)) s
def execRngPtr (r : BitVec 2) (v : Word) (s : State) : Host.Outcome State Fault Refusal :=
  onPort (fun d => if rdOk d (12 + r.toNat) (bitsOf v 15 0) then putRd (12 + r.toNat) (bitsOf v 15 0) (traceWrite (20 + r.toNat) v d) else d) s

end Sys2Proof.Machine
end

