-- ==== Sys2Proof/Machine/Dispatch.lean ====
section
/-! DEFINITION. The dispatch: one arm for each command, a direct call of its meaning. -/

namespace Sys2Proof.Machine

def exec (i : Instr) (s : State) : Host.Outcome State Fault Refusal :=
  match i with
  | .nop rq => Sys2Proof.Machine.execNop rq s
  | .fence rq => Sys2Proof.Machine.execFence rq s
  | .fenceAll rq => Sys2Proof.Machine.execFenceAll rq s
  | .echo rq p0 p1 => Sys2Proof.Machine.execEcho rq p0 p1 s
  | .queueCfg rq p0 => Sys2Proof.Machine.execQueueCfg rq p0 s
  | .tagFlush rq p0 => Sys2Proof.Machine.execTagFlush rq p0 s
  | .regRead rq p0 => Sys2Proof.Machine.execRegRead rq p0 s
  | .regWrite rq p0 p1 => Sys2Proof.Machine.execRegWrite rq p0 p1 s
  | .regRmw rq p0 p1 p2 => Sys2Proof.Machine.execRegRmw rq p0 p1 p2 s
  | .regReadBlock rq p0 => Sys2Proof.Machine.execRegReadBlock rq p0 s
  | .seqUp rq => Sys2Proof.Machine.execSeqUp rq s
  | .seqDown rq => Sys2Proof.Machine.execSeqDown rq s
  | .railOn rq p0 => Sys2Proof.Machine.execRailOn rq p0 s
  | .railOff rq p0 => Sys2Proof.Machine.execRailOff rq p0 s
  | .railSetV rq p0 => Sys2Proof.Machine.execRailSetV rq p0 s
  | .modeSet rq p0 => Sys2Proof.Machine.execModeSet rq p0 s
  | .latchClear rq => Sys2Proof.Machine.execLatchClear rq s
  | .resetSoft rq p0 => Sys2Proof.Machine.execResetSoft rq p0 s
  | .resetHard rq p0 => Sys2Proof.Machine.execResetHard rq p0 s
  | .spareDrill rq p0 => Sys2Proof.Machine.execSpareDrill rq p0 s
  | .selftest rq p0 failed samples => Sys2Proof.Machine.execSelftest rq p0 failed samples s
  | .chgKick rq => Sys2Proof.Machine.execChgKick rq s
  | .chgClear rq => Sys2Proof.Machine.execChgClear rq s
  | .roofQuery rq => Sys2Proof.Machine.execRoofQuery rq s
  | .vlyRequest rq p0 p1 dst cn => Sys2Proof.Machine.execVlyRequest rq p0 p1 dst cn s
  | .vlyEnd rq => Sys2Proof.Machine.execVlyEnd rq s
  | .adcConvert rq p0 => Sys2Proof.Machine.execAdcConvert rq p0 s
  | .adcSubscribe rq params => Sys2Proof.Machine.execAdcSubscribe rq params s
  | .tempRead rq p0 => Sys2Proof.Machine.execTempRead rq p0 s
  | .evtAck rq p0 p1 => Sys2Proof.Machine.execEvtAck rq p0 p1 s
  | .evtGdis rq p0 => Sys2Proof.Machine.execEvtGdis rq p0 s
  | .rtcSet rq p0 p1 edge => Sys2Proof.Machine.execRtcSet rq p0 p1 edge s
  | .rtcGet rq late => Sys2Proof.Machine.execRtcGet rq late s
  | .rtcTrim rq p0 => Sys2Proof.Machine.execRtcTrim rq p0 s
  | .otpRead rq p0 => Sys2Proof.Machine.execOtpRead rq p0 s
  | .otpShadowWrite rq p0 p1 p2 => Sys2Proof.Machine.execOtpShadowWrite rq p0 p1 p2 s
  | .otpProgram rq p0 p1 p2 vpre hot => Sys2Proof.Machine.execOtpProgram rq p0 p1 p2 vpre hot s
  | .otpFinalize rq p0 vpre hot => Sys2Proof.Machine.execOtpFinalize rq p0 vpre hot s
  | .trussStage rq p0 data => Sys2Proof.Machine.execTrussStage rq p0 data s
  | .trussCommit rq => Sys2Proof.Machine.execTrussCommit rq s
  | .fwStage rq p0 data => Sys2Proof.Machine.execFwStage rq p0 data s
  | .fwActivate rq p0 vpre hot => Sys2Proof.Machine.execFwActivate rq p0 vpre hot s
  | .wdtKick rq => Sys2Proof.Machine.execWdtKick rq s
  | .traceTrigger rq p0 => Sys2Proof.Machine.execTraceTrigger rq p0 s
  | .traceRearm rq => Sys2Proof.Machine.execTraceRearm rq s
  | .traceStream rq p0 => Sys2Proof.Machine.execTraceStream rq p0 s
  | .cntSnapshot rq => Sys2Proof.Machine.execCntSnapshot rq s
  | .cntClear rq p0 p1 => Sys2Proof.Machine.execCntClear rq p0 p1 s
  | .hostPageRead tx => Sys2Proof.Machine.execHostPageRead tx s
  | .hostPageWrite tx => Sys2Proof.Machine.execHostPageWrite tx s
  | .push tx => Sys2Proof.Machine.execPush tx s
  | .pop tx => Sys2Proof.Machine.execPop tx s
  | .hpDoorbell v => Sys2Proof.Machine.execHpDoorbell v s
  | .hpSqMode v => Sys2Proof.Machine.execHpSqMode v s
  | .rngPtr r v => Sys2Proof.Machine.execRngPtr r v s
  | .evtFpend => Sys2Proof.Machine.execEvtFpend s
  | .evtFack v => Sys2Proof.Machine.execEvtFack v s
  | .forget rq => Sys2Proof.Machine.execForget rq s
  | .endReq rq => Sys2Proof.Machine.execEndReq rq s
  | .gutSel rq v => Sys2Proof.Machine.execGutSel rq v s
  | .capFree rq v => Sys2Proof.Machine.execCapFree rq v s
  | .hostHold rq v => Sys2Proof.Machine.execHostHold rq v s
  | .faultLatch rq n => Sys2Proof.Machine.execFaultLatch rq n s
  | .rtcTime rq v => Sys2Proof.Machine.execRtcTime rq v s
  | .rtcDate rq v => Sys2Proof.Machine.execRtcDate rq v s
  | .evTs rq x => Sys2Proof.Machine.execEvTs rq x s
  | .lnkFn rq => Sys2Proof.Machine.execLnkFn rq s
  | .pcVal rq k => Sys2Proof.Machine.execPcVal rq k s
  | .smpN rq v => Sys2Proof.Machine.execSmpN rq v s
  | .chgSet rq v => Sys2Proof.Machine.execChgSet rq v s
  | .evtCoal rq g v => Sys2Proof.Machine.execEvtCoal rq g v s
  | .evtEn rq g v => Sys2Proof.Machine.execEvtEn rq g v s
  | .powerOnReset bkCold => Sys2Proof.Machine.execPowerOnReset bkCold s
  | .porRelease samples testEn => Sys2Proof.Machine.execPorRelease samples testEn s
  | .uvlo => Sys2Proof.Machine.execUvlo s
  | .nrst => Sys2Proof.Machine.execNrst s
  | .nrstRelease => Sys2Proof.Machine.execNrstRelease s
  | .purlinWdt => Sys2Proof.Machine.execPurlinWdt s
  | .lockstep => Sys2Proof.Machine.execLockstep s
  | .softResetDone => Sys2Proof.Machine.execSoftResetDone s
  | .keeperTrip n => Sys2Proof.Machine.execKeeperTrip n s
  | .pllLock align => Sys2Proof.Machine.execPllLock align s
  | .purlinHashCheck => Sys2Proof.Machine.execPurlinHashCheck s
  | .otpRegionsRead => Sys2Proof.Machine.execOtpRegionsRead s
  | .bootSelftestDone pass => Sys2Proof.Machine.execBootSelftestDone pass s
  | .thatchVerify => Sys2Proof.Machine.execThatchVerify s
  | .thatchReady => Sys2Proof.Machine.execThatchReady s
  | .bootEntry => Sys2Proof.Machine.execBootEntry s
  | .adoption crc samples => Sys2Proof.Machine.execAdoption crc samples s
  | .wakePin x level n => Sys2Proof.Machine.execWakePin x level n s
  | .vsupWake low high n => Sys2Proof.Machine.execVsupWake low high n s
  | .vauxWake us => Sys2Proof.Machine.execVauxWake us s
  | .alarm a hold => Sys2Proof.Machine.execAlarm a hold s
  | .evTimestamp x rise presc hold => Sys2Proof.Machine.execEvTimestamp x rise presc hold s
  | .rtcSecond => Sys2Proof.Machine.execRtcSecond s
  | .oscFail => Sys2Proof.Machine.execOscFail s
  | .rtcCalCycle => Sys2Proof.Machine.execRtcCalCycle s
  | .bkSupplySwitch => Sys2Proof.Machine.execBkSupplySwitch s
  | .bkReturn => Sys2Proof.Machine.execBkReturn s
  | .trimDone counts => Sys2Proof.Machine.execTrimDone counts s
  | .trimTimeout => Sys2Proof.Machine.execTrimTimeout s
  | .comparatorTrip n k both => Sys2Proof.Machine.execComparatorTrip n k both s
  | .comparatorRelease n k => Sys2Proof.Machine.execComparatorRelease n k s
  | .ocTrip n => Sys2Proof.Machine.execOcTrip n s
  | .ldoOcTrip n => Sys2Proof.Machine.execLdoOcTrip n s
  | .powerGood n ldin => Sys2Proof.Machine.execPowerGood n ldin s
  | .pgoodRelease k => Sys2Proof.Machine.execPgoodRelease k s
  | .ssoRelease j => Sys2Proof.Machine.execSsoRelease j s
  | .ssoFault j => Sys2Proof.Machine.execSsoFault j s
  | .interlockRelease n low => Sys2Proof.Machine.execInterlockRelease n low s
  | .slotOn n => Sys2Proof.Machine.execSlotOn n s
  | .t0Reached => Sys2Proof.Machine.execT0Reached s
  | .riseFail mask => Sys2Proof.Machine.execRiseFail mask s
  | .railOnTimeout n => Sys2Proof.Machine.execRailOnTimeout n s
  | .offDelay n => Sys2Proof.Machine.execOffDelay n s
  | .gateTimeout n => Sys2Proof.Machine.execGateTimeout n s
  | .railFallen n => Sys2Proof.Machine.execRailFallen n s
  | .fallFail n => Sys2Proof.Machine.execFallFail n s
  | .forcedDischargeEnd n => Sys2Proof.Machine.execForcedDischargeEnd n s
  | .retryDelay => Sys2Proof.Machine.execRetryDelay s
  | .retryCntClear => Sys2Proof.Machine.execRetryCntClear s
  | .tRest => Sys2Proof.Machine.execTRest s
  | .softStartComplete n => Sys2Proof.Machine.execSoftStartComplete n s
  | .softStopComplete n => Sys2Proof.Machine.execSoftStopComplete n s
  | .setPointMoveEnd n => Sys2Proof.Machine.execSetPointMoveEnd n s
  | .hcPhaseFail k cause => Sys2Proof.Machine.execHcPhaseFail k cause s
  | .syncLost => Sys2Proof.Machine.execSyncLost s
  | .syncRequalify n => Sys2Proof.Machine.execSyncRequalify n s
  | .syncLocked n => Sys2Proof.Machine.execSyncLocked n s
  | .syncQualified periods => Sys2Proof.Machine.execSyncQualified periods s
  | .brakeStart n below => Sys2Proof.Machine.execBrakeStart n below s
  | .brakeEnd n => Sys2Proof.Machine.execBrakeEnd n s
  | .clusterPhaseFail fails => Sys2Proof.Machine.execClusterPhaseFail fails s
  | .handoverMatch c m => Sys2Proof.Machine.execHandoverMatch c m s
  | .spareEngaged c => Sys2Proof.Machine.execSpareEngaged c s
  | .handoverFail c => Sys2Proof.Machine.execHandoverFail c s
  | .rotationEval c => Sys2Proof.Machine.execRotationEval c s
  | .rotationRelease c => Sys2Proof.Machine.execRotationRelease c s
  | .phaseShed n => Sys2Proof.Machine.execPhaseShed n s
  | .shedResume n => Sys2Proof.Machine.execShedResume n s
  | .drillTimeout c => Sys2Proof.Machine.execDrillTimeout c s
  | .drillHoldEnd c ma opened => Sys2Proof.Machine.execDrillHoldEnd c ma opened s
  | .gbShort k => Sys2Proof.Machine.execGbShort k s
  | .gbOpen k present => Sys2Proof.Machine.execGbOpen k present s
  | .gbUvlo bank => Sys2Proof.Machine.execGbUvlo bank s
  | .gbUvloRelease bank => Sys2Proof.Machine.execGbUvloRelease bank s
  | .gbRampDone k => Sys2Proof.Machine.execGbRampDone k s
  | .gbOffCounted k => Sys2Proof.Machine.execGbOffCounted k s
  | .vsupLost low => Sys2Proof.Machine.execVsupLost low s
  | .vsupLostInReset low energy => Sys2Proof.Machine.execVsupLostInReset low energy s
  | .vsupBack => Sys2Proof.Machine.execVsupBack s
  | .handbackDone => Sys2Proof.Machine.execHandbackDone s
  | .chargeResume => Sys2Proof.Machine.execChargeResume s
  | .idgReverse low => Sys2Proof.Machine.execIdgReverse low s
  | .idgForward => Sys2Proof.Machine.execIdgForward s
  | .packCutoff => Sys2Proof.Machine.execPackCutoff s
  | .cutoffReenable => Sys2Proof.Machine.execCutoffReenable s
  | .packRemoved ov => Sys2Proof.Machine.execPackRemoved ov s
  | .packInserted => Sys2Proof.Machine.execPackInserted s
  | .bkFault => Sys2Proof.Machine.execBkFault s
  | .unanchoredHoldupEnd => Sys2Proof.Machine.execUnanchoredHoldupEnd s
  | .boostIlim beyond us => Sys2Proof.Machine.execBoostIlim beyond us s
  | .inputLimit => Sys2Proof.Machine.execInputLimit s
  | .chargerTick lim amps => Sys2Proof.Machine.execChargerTick lim amps s
  | .packNtcConversion short => Sys2Proof.Machine.execPackNtcConversion short s
  | .chgDone removed => Sys2Proof.Machine.execChgDone removed s
  | .chgTimeout => Sys2Proof.Machine.execChgTimeout s
  | .chgWdExpired => Sys2Proof.Machine.execChgWdExpired s
  | .gaugeConversion nv => Sys2Proof.Machine.execGaugeConversion nv s
  | .quietConversion nv => Sys2Proof.Machine.execQuietConversion nv s
  | .quietExit => Sys2Proof.Machine.execQuietExit s
  | .emptyRearm => Sys2Proof.Machine.execEmptyRearm s
  | .reserveRecompute => Sys2Proof.Machine.execReserveRecompute s
  | .gaugeCheckpoint => Sys2Proof.Machine.execGaugeCheckpoint s
  | .thermalSample mask => Sys2Proof.Machine.execThermalSample mask s
  | .adcConversionEnd c v beyond req raw => Sys2Proof.Machine.execAdcConversionEnd c v beyond req raw s
  | .adcListPass c => Sys2Proof.Machine.execAdcListPass c s
  | .adcCalibration c => Sys2Proof.Machine.execAdcCalibration c s
  | .adcCalibrationEnd c gain offset half => Sys2Proof.Machine.execAdcCalibrationEnd c gain offset half s
  | .adcConvertTimeout ch => Sys2Proof.Machine.execAdcConvertTimeout ch s
  | .coalesceTimeout g => Sys2Proof.Machine.execCoalesceTimeout g s
  | .packetIssue pick => Sys2Proof.Machine.execPacketIssue pick s
  | .packetStart k env => Sys2Proof.Machine.execPacketStart k env s
  | .duplicateRejudge q => Sys2Proof.Machine.execDuplicateRejudge q s
  | .completionStall => Sys2Proof.Machine.execCompletionStall s
  | .frameStartTx => Sys2Proof.Machine.execFrameStartTx s
  | .frameStartRx fn off spaced => Sys2Proof.Machine.execFrameStartRx fn off spaced s
  | .slotTx abandoned => Sys2Proof.Machine.execSlotTx abandoned s
  | .slotError a preempted => Sys2Proof.Machine.execSlotError a preempted s
  | .status a mode flags p1 => Sys2Proof.Machine.execStatus a mode flags p1 s
  | .presence a mode major compat features => Sys2Proof.Machine.execPresence a mode major compat features s
  | .digest a mode digest => Sys2Proof.Machine.execDigest a mode digest s
  | .calReq a mode seq err => Sys2Proof.Machine.execCalReq a mode seq err s
  | .calResp a mode target kind v => Sys2Proof.Machine.execCalResp a mode target kind v s
  | .guardExchange a rtt => Sys2Proof.Machine.execGuardExchange a rtt s
  | .disciplined => Sys2Proof.Machine.execDisciplined s
  | .holderElection => Sys2Proof.Machine.execHolderElection s
  | .holderHandover => Sys2Proof.Machine.execHolderHandover s
  | .holderLost => Sys2Proof.Machine.execHolderLost s
  | .holderChange => Sys2Proof.Machine.execHolderChange s
  | .holdoverLimit => Sys2Proof.Machine.execHoldoverLimit s
  | .memberLost a => Sys2Proof.Machine.execMemberLost a s
  | .addrConflict => Sys2Proof.Machine.execAddrConflict s
  | .linkDead => Sys2Proof.Machine.execLinkDead s
  | .urgentReinsert => Sys2Proof.Machine.execUrgentReinsert s
  | .fault data fn sym => Sys2Proof.Machine.execFault data fn sym s
  | .descendInsertion data fn sym => Sys2Proof.Machine.execDescendInsertion data fn sym s
  | .loss data fn sym => Sys2Proof.Machine.execLoss data fn sym s
  | .hold data fn sym => Sys2Proof.Machine.execHold data fn sym s
  | .echoSlot a mode kind data fn sym => Sys2Proof.Machine.execEchoSlot a mode kind data fn sym s
  | .announceStart a mode w1 w2 => Sys2Proof.Machine.execAnnounceStart a mode w1 w2 s
  | .announceState a mode w1 w2 => Sys2Proof.Machine.execAnnounceState a mode w1 w2 s
  | .announceDown a mode w1 w2 => Sys2Proof.Machine.execAnnounceDown a mode w1 w2 s
  | .agree a mode w1 w2 => Sys2Proof.Machine.execAgree a mode w1 w2 s
  | .startAnnounced => Sys2Proof.Machine.execStartAnnounced s
  | .degradedStart => Sys2Proof.Machine.execDegradedStart s
  | .startTimeout => Sys2Proof.Machine.execStartTimeout s
  | .timeAbort => Sys2Proof.Machine.execTimeAbort s
  | .noncompliant a => Sys2Proof.Machine.execNoncompliant a s
  | .offer a mode w1 w2 => Sys2Proof.Machine.execOffer a mode w1 w2 s
  | .request a mode w1 w2 => Sys2Proof.Machine.execRequest a mode w1 w2 s
  | .accept a mode w1 w2 => Sys2Proof.Machine.execAccept a mode w1 w2 s
  | .reject a mode w1 w2 => Sys2Proof.Machine.execReject a mode w1 w2 s
  | .swapReq a mode w1 w2 => Sys2Proof.Machine.execSwapReq a mode w1 w2 s
  | .swapAck a mode w1 w2 => Sys2Proof.Machine.execSwapAck a mode w1 w2 s
  | .contractBegin => Sys2Proof.Machine.execContractBegin s
  | .safeLowStart => Sys2Proof.Machine.execSafeLowStart s
  | .softstartDone => Sys2Proof.Machine.execSoftstartDone s
  | .startFail => Sys2Proof.Machine.execStartFail s
  | .vlyOverload => Sys2Proof.Machine.execVlyOverload s
  | .vlyOv => Sys2Proof.Machine.execVlyOv s
  | .sinkDiodeClose => Sys2Proof.Machine.execSinkDiodeClose s
  | .sinkLineLow => Sys2Proof.Machine.execSinkLineLow s
  | .fsArmed => Sys2Proof.Machine.execFsArmed s
  | .fastSwap low => Sys2Proof.Machine.execFastSwap low s
  | .sourceToDiode => Sys2Proof.Machine.execSourceToDiode s
  | .energySpent => Sys2Proof.Machine.execEnergySpent s
  | .swapTx => Sys2Proof.Machine.execSwapTx s
  | .swapOutgoing => Sys2Proof.Machine.execSwapOutgoing s
  | .swapAmend e => Sys2Proof.Machine.execSwapAmend e s
  | .ppsPulse => Sys2Proof.Machine.execPpsPulse s
  | .thatchWdt => Sys2Proof.Machine.execThatchWdt s
  | .quiesceTimeout => Sys2Proof.Machine.execQuiesceTimeout s
  | .fwConfirmed vpre hot => Sys2Proof.Machine.execFwConfirmed vpre hot s
  | .arbPending vpre hot => Sys2Proof.Machine.execArbPending vpre hot s
  | .hwdExpired => Sys2Proof.Machine.execHwdExpired s
  | .scrubAccess m word found fore last => Sys2Proof.Machine.execScrubAccess m word found fore last s
  | .sectorErase => Sys2Proof.Machine.execSectorErase s
  | .telemetryRecord => Sys2Proof.Machine.execTelemetryRecord s
  | .gutterWrite => Sys2Proof.Machine.execGutterWrite s
  | .gutAbandoned => Sys2Proof.Machine.execGutAbandoned s
  | .gutterRewrite => Sys2Proof.Machine.execGutterRewrite s
  | .gutBufFilled => Sys2Proof.Machine.execGutBufFilled s
  | .traceCheckpoint => Sys2Proof.Machine.execTraceCheckpoint s
  | .trcFrozen => Sys2Proof.Machine.execTrcFrozen s
  | .trcCopied more => Sys2Proof.Machine.execTrcCopied more s
  | .capFreed k => Sys2Proof.Machine.execCapFreed k s
  | .replayDigest same interval cycle sub => Sys2Proof.Machine.execReplayDigest same interval cycle sub s
  | .rplDone => Sys2Proof.Machine.execRplDone s
  | .sampleEntry => Sys2Proof.Machine.execSampleEntry s
  | .sampleDrain => Sys2Proof.Machine.execSampleDrain s
  | .counterDump => Sys2Proof.Machine.execCounterDump s
  | .xtalOk => Sys2Proof.Machine.execXtalOk s
  | .refLost => Sys2Proof.Machine.execRefLost s
  | .refRestored => Sys2Proof.Machine.execRefRestored s
  | .pllLoss => Sys2Proof.Machine.execPllLoss s
  | .lpoFault => Sys2Proof.Machine.execLpoFault s
  | .otpWindowSample n vpre hot left => Sys2Proof.Machine.execOtpWindowSample n vpre hot left s
  | .otpWordDone miss soft vpre hot => Sys2Proof.Machine.execOtpWordDone miss soft vpre hot s
  | .otpReadDone => Sys2Proof.Machine.execOtpReadDone s
  | .selftestTimeout => Sys2Proof.Machine.execSelftestTimeout s
  | .vlyRequestTimeout => Sys2Proof.Machine.execVlyRequestTimeout s
  | .standbyDormantTransition => Sys2Proof.Machine.execStandbyDormantTransition s
  | .thatchCheckIn => Sys2Proof.Machine.execThatchCheckIn s
  | .purlinWdtKick => Sys2Proof.Machine.execPurlinWdtKick s
  | .acuException => Sys2Proof.Machine.execAcuException s
  | .thatchRestartRequest => Sys2Proof.Machine.execThatchRestartRequest s
  | .thatchSubmit header params => Sys2Proof.Machine.execThatchSubmit header params s
  | .q16MessagePlaced type w1 w2 => Sys2Proof.Machine.execQ16MessagePlaced type w1 w2 s
  | .thatchWaitTimeout => Sys2Proof.Machine.execThatchWaitTimeout s
  | .vsupReturn => Sys2Proof.Machine.execVsupReturn s
  | .lpoBadClear => Sys2Proof.Machine.execLpoBadClear s
  | .pdBkSupplyReturn => Sys2Proof.Machine.execPdBkSupplyReturn s
  | .outputDigestRecord changes => Sys2Proof.Machine.execOutputDigestRecord changes s

end Sys2Proof.Machine
end

