-- ==== Sys2Proof/Machine/Idle.lean ====
section
/-! DEFINITION. What passes when no command waits (log 2). -/

namespace Sys2Proof.Machine

/-- One CK_SYS cycle of 10 ns passes: roof time and the cycle count advance (R310, R584; log 2). Where the PLL is not locked
or the device is in DORMANT or STANDBY, CK_SYS does not run (R593, R596, R30) and nothing passes. -/
def idle (d : Device) : Device :=
  if flag d W.CLK_STATUS_PLL_LOCKED && !inMode d [.dormant, .standby] then advanceTo (d.roofTime + 1) d else d

end Sys2Proof.Machine
end

