-- ==== Sys2Proof/Safety.lean ====
section
/-! DEFINITION. The terms in which claims are stated: the parts of the block and what of them a command leaves alone, the
completion entry of a command, an event source that pends, the invariants that every step keeps. -/

namespace Sys2Proof.Machine

/-- The parts of the block (the fields of `Device`). -/
inductive Part where
  | words | mode | prev | roofTime | cycles | core | rails | seq | cl | ev | eng | perf | adc | therm | bg | link | vly | gauge
  | power | rtc | otp | log | fw | freeN
deriving DecidableEq, Repr

/-- The part `p` is the same in two blocks. -/
def Part.same (p : Part) (d e : Device) : Bool :=
  match p with
  | .words => d.words == e.words
  | .mode => d.mode == e.mode
  | .prev => d.prev == e.prev
  | .roofTime => d.roofTime == e.roofTime
  | .cycles => d.cycles == e.cycles
  | .core => d.core == e.core
  | .rails => d.rails == e.rails
  | .seq => d.seq == e.seq
  | .cl => d.cl == e.cl
  | .ev => d.ev == e.ev
  | .eng => d.eng == e.eng
  | .perf => d.perf == e.perf
  | .adc => d.adc == e.adc
  | .therm => d.therm == e.therm
  | .bg => d.bg == e.bg
  | .link => d.link == e.link
  | .vly => d.vly == e.vly
  | .gauge => d.gauge == e.gauge
  | .power => d.power == e.power
  | .rtc => d.rtc == e.rtc
  | .otp => d.otp == e.otp
  | .log => d.log == e.log
  | .fw => d.fw == e.fw
  | .freeN => d.freeN == e.freeN

/-- Every part of the block. -/
def allParts : List Part := [.words, .mode, .prev, .roofTime, .cycles, .core, .rails, .seq, .cl, .ev, .eng, .perf, .adc,
  .therm, .bg, .link, .vly, .gauge, .power, .rtc, .otp, .log, .fw, .freeN]

/-- From `d` to `e` no part outside `ps` changes. -/
def OnlyParts (ps : List Part) (d e : Device) : Prop := ∀ p ∈ allParts, p ∉ ps → p.same d e = true

/-- The parts that a completion, an event and a free value can change. -/
def common : List Part := [.words, .ev, .eng, .perf, .freeN]
def commonWith (ps : List Part) : List Part := common ++ ps

/-- The word tables that an event can change: LAT, PEND_N and PEND_F of page 0x11, the overflow bits of the rings, PC_OVF. -/
def eventTables : List Nat := [W.EVT_LAT, W.EVT_PEND_N, W.EVT_PEND_F, W.HP_RING_OVF, W.PC_OVF]
def eventsWith (ts : List Nat) : Option (List Nat) := some (eventTables ++ ts)

/-- The word at `a` lies in one of the tables that begin at `ts`. -/
def inTables (ts : List Nat) (a : Nat) : Bool := allFams.any (fun t => ts.contains t.base && t.covers a)

/-- From `d` to `e` no word changes but those of the tables that begin at `ts`; with none named, every word may change. -/
def OnlyTables (ts : Option (List Nat)) (d e : Device) : Prop :=
  match ts with
  | some ts => ∀ a, inTables ts a = false → getW e a = getW d a
  | none => True

/-- Command `i` completes with a next state: the queue of waiting commands is kept, only the parts `ps` and the words of the
tables `ts` change, and `post` holds of the block after it. -/
def Completes (i : Instr) (q : List Instr) (d : Device) (ps : List Part) (ts : Option (List Nat)) (post : Device → Prop) : Prop :=
  ∃ e, exec i { pending := q, dev := d } = .next { pending := q, dev := e } ∧ OnlyParts ps d e ∧ OnlyTables ts d e ∧ post e

/-- The words that entered ring Q12 between `d` and `e`. -/
def newEntries (d e : Device) : List Word := (ring e 12).words.drop (ring d 12).words.length

/-- Among entries of four words, one begins with `h`, `w1`, `w2`. -/
def hasEntry (h w1 w2 : Word) : List Word → Bool
  | a :: b :: c :: _ :: t => (a == h && b == w1 && c == w2) || hasEntry h w1 w2 t
  | _ => false

/-- R397: the completion of command `c` of Purlin or Thatch, with status `st` and the results `w1` and `w2`, is the last one that
its core was given. -/
def returned (c : Cmd) (st : Status) (w1 w2 : Word) (e : Device) : Bool :=
  (SMap.get (fun _ => []) e.eng.coreDone (srcQueue c.src)).take 3 == (completionWords c st w1 w2 0#32).take 3

/-- R397, R396: command `c` completed between `d` and `e` with status `st` and the results `w1` and `w2`: its entry is among those
that entered Q12 behind what Q12 held, unless QUIET silences it. A packet of Purlin or Thatch has its completion given to that core;
a fence of the core that waits then completes behind it. -/
def reply (c : Cmd) (st : Status) (w1 w2 : Word) (d e : Device) : Bool :=
  if srcIsHost c.src then
    (c.quiet && (st == .ok || st == .okDuplicate)) || ((ring d 12).words.isPrefixOf (ring e 12).words
      && hasEntry ((completionWords c st w1 w2 0#32).headD 0#32) w1 w2 (newEntries d e))
  else returned c st w1 w2 e || d.eng.issued.any (fun x => x.src == c.src && x.op == 0x01)

/-- The same of the command of a row with opcode `op`. -/
def answered (rq : Req) (op : Nat) (st : Status) (w1 w2 : Word) (d e : Device) : Bool := reply (mkCmd rq op [] [] d) st w1 w2 d e

/-- The block as the packet of a command row finds it: the packet has taken its number. -/
def begun (d : Device) : Device := { d with eng := { d.eng with nextId := d.eng.nextId + 1 } }

/-- No check refuses a write of `v` to the word at `a` by `src`. -/
def mayWrite (src : Src) (a : Nat) (v : Word) (d : Device) : Bool :=
  (pickFail (writeFails src (BitVec.ofNat 32 a) (getW d a) (merged a (getW d a) v) v (begun d))).isNone

/-- R411: where a check refuses the write of `v` to the word at `a`, the packet completed with the status and the field that the
checks name. -/
def writeRefused (rq : Req) (op a : Nat) (v : Word) (d e : Device) : Bool :=
  (pickFail (writeFails rq.src (BitVec.ofNat 32 a) (getW d a) (merged a (getW d a) v) v (begun d))).all
    (fun f => answered rq op f.st (failW1 f) 0#32 d e)

/-- R76: the word that OTP_FINALIZE names where it cannot go on. -/
def failWord (r : Except Nat (List (Nat × Nat))) : Option Nat :=
  match r with
  | .error y => some y
  | .ok _ => none

/-- Event source `s` is latched or pends. -/
def shows (d : Device) (s : Nat) : Bool := evLat d s || evPendN d s || evPendF d s

/-- R451, R453: source `s` can latch: it is enabled, its group exists, and the event controller is on. -/
def listens (d : Device) (s : Nat) : Bool := evEn d s && s < 896 && !inMode d [.dormant, .standby]

/-- Source `s` shows if it can latch. -/
def raised (s : Nat) (d e : Device) : Bool := !listens d s || shows e s

/-! ### The canonical form of the stores -/

/-- The store of words: addresses strictly rising, no word listed that holds its reset value. -/
def wordsOk (m : SMap Word) : Bool := SMap.wf resetWord m

/-- The same of the stores of each part, by the default of each. -/
def railsOk (m : SMap Rail) : Bool := SMap.wf (fun _ => ({} : Rail)) m
def clOk (m : SMap ClSt) : Bool := SMap.wf (fun _ => ({} : ClSt)) m
def evOk (x : EvSt) : Bool :=
  SMap.wf (fun _ => ({} : SrcRec)) x.srcs && SMap.wf (fun _ => ({} : GrpRec)) x.groups && SMap.wf (fun _ => false) x.levels
def engOk (x : EngSt) : Bool :=
  SMap.wf (fun _ => []) x.queues && SMap.wf (fun _ => []) x.tags && SMap.wf (fun _ => ({} : Ring)) x.rings
  && SMap.wf (fun _ => 0) x.roundUsed && SMap.wf (fun _ => []) x.coreDone
def perfOk (x : PerfSt) : Bool :=
  SMap.wf (fun _ => 0) x.counters && SMap.wf (fun _ => 0) x.highs && SMap.wf (fun _ => []) x.stalls
def adcOk (x : AdcSt) : Bool :=
  SMap.wf (fun _ => 0) x.last && SMap.wf listDflt x.lists && SMap.wf (fun _ => 0) x.pos && SMap.wf (fun _ => []) x.held
  && SMap.wf (fun _ => none) x.subs && SMap.wf (fun _ => ({} : LimRec)) x.limits && SMap.wf (fun _ => 0) x.fails
  && SMap.wf (fun _ => []) x.means && SMap.wf (fun _ => 0) x.doneAt
def thermOk (x : ThermSt) : Bool :=
  SMap.wf (fun _ => 0) x.value && SMap.wf (fun _ => 0) x.raw && SMap.wf (fun _ => 0) x.samples && SMap.wf (fun _ => 0) x.susCnt
  && SMap.wf (fun _ => 0) x.okCnt && SMap.wf (fun _ => []) x.hist && SMap.wf (fun _ => 0) x.calm && SMap.wf (fun _ => 0) x.hotCnt
def bgOk (x : BgSt) : Bool := SMap.wf (fun _ => 0) x.pausedAt
def linkOk (x : LinkSt) : Bool := SMap.wf (fun _ => ({} : Peer)) x.peers
def vlyOk (x : VlySt) : Bool := SMap.wf (fun _ => none) x.offers
def rtcOk (x : RtcSt) : Bool := SMap.wf (fun _ => []) x.fifos
def otpOk (x : OtpSt) : Bool :=
  SMap.wf (fun _ => 0) x.array && SMap.wf (fun _ => 0) x.weak && SMap.wf (fun _ => 0) x.shadow
  && SMap.wf flashDflt x.flash0 && SMap.wf flashDflt x.flash1 && SMap.wf (fun _ => 0) x.kept
def logOk (x : LogSt) : Bool :=
  SMap.wf (fun _ => []) x.records && SMap.wf (fun _ => ({} : Sector)) x.secs && SMap.wf (fun _ => none) x.slots
  && SMap.wf (fun _ => none) x.areas && SMap.wf (fun _ => 0) x.prevRaw
/-- The flash areas, each of which is a store itself. -/
def banksOk (m : SMap (SMap Word)) : Bool := SMap.wf (fun _ => []) m && m.all (fun p => SMap.wf flashDflt p.2)
def fwOk (x : FwSt) : Bool := banksOk x.banks && SMap.wf (fun _ => none) x.seals

/-- Every store of the block is in canonical form. -/
def canonical (d : Device) : Bool :=
  wordsOk d.words && railsOk d.rails && clOk d.cl && evOk d.ev && engOk d.eng && perfOk d.perf && adcOk d.adc && thermOk d.therm
  && bgOk d.bg && linkOk d.link && vlyOk d.vly && rtcOk d.rtc && otpOk d.otp && logOk d.log && fwOk d.fw

/-- R57: an OTP bit reads 1. -/
def otpBit (d : Device) (w b : Nat) : Bool := (SMap.get (fun _ => 0) d.otp.array w).testBit b

end Sys2Proof.Machine
end

