-- ==== Sys2Proof/Certificates/Slice0/Obligations.lean ====
section
/-! DEFINITION. The statements for the provers: what a step does, what reset leaves, what every step keeps, and for every row
of the table of operations where it completes and with what effect. `Completes` (Safety) says of each clause that exec answers
a next state with the queue kept, which parts of the block and which word tables alone can change, and what holds after it. -/

open Sys2Proof Sys2Proof.Machine

/-- For every command and state, a step of the state with the command at the front of its queue is exec of that command on the
state with the queue's rest. (The queue is the model's own, log 2.) -/
def Obligations.StepRunsTheFrontCommand : Prop :=
  ∀ (c : Instr) (s : State), step { s with pending := c :: s.pending } = exec c s

/-- With no command waiting a step answers a next state. While the PLL is locked and the mode is neither DORMANT nor STANDBY,
roof time advances by one tick of 10 ns and the cycle count by one, or two while roof time counts at half rate; beside them
only counters and the events they raise change. While the PLL is not locked, nothing changes. -/
def Obligations.StepWithoutCommandPassesOneCycle : Prop :=
  ∀ d : Device, step { pending := [], dev := d } = .next { pending := [], dev := idle d } ∧
  (flag d W.CLK_STATUS_PLL_LOCKED = true → inMode d [.dormant, .standby] = false →
  (idle d).roofTime = d.roofTime + 1 ∧ (idle d).cycles = d.cycles + (if d.link.half then 2 else 1) ∧
  OnlyParts (commonWith [.roofTime, .cycles]) d (idle d) ∧ OnlyTables (some eventTables) d (idle d)) ∧
  (flag d W.CLK_STATUS_PLL_LOCKED = false → idle d = d)

/-- For every command, queue and block, exec answers a next state with the same queue: no command of the table stops the
block. -/
def Obligations.EveryCommandAnswersANextState : Prop :=
  ∀ (i : Instr) (q : List Instr) (d : Device), ∃ e, exec i { pending := q, dev := d } = .next { pending := q, dev := e }

/-- Every word holds the value of its Reset column (a field loaded from the truss, the value it has without a truss); the mode
is BOOT at stage 0, no rail is enabled, no packet waits, no command is in progress, RESET_CAUSE tells of the POWER-ON reset,
the PLL is not locked, the queue of commands is empty. -/
def Obligations.ResetState : Prop :=
  State.reset.pending = [] ∧ (∀ a, getW State.reset.dev a = resetWord a) ∧ State.reset.dev.mode = .boot ∧
  fld State.reset.dev W.MODE_STATUS_BOOT_STAGE = 0 ∧ (∀ n, (rail State.reset.dev n).enabled = false) ∧
  (∀ q, queue State.reset.dev q = []) ∧ State.reset.dev.eng.issued = [] ∧
  flag State.reset.dev W.RESET_CAUSE_POR = true ∧ flag State.reset.dev W.CLK_STATUS_PLL_LOCKED = false

/-- Every sparse store of the reset state lists its keys in rising order and lists no default value. -/
def Obligations.ResetIsCanonical : Prop :=
  canonical State.reset.dev = true

/-- From every state whose stores (words, rails, queues, rings, tag memories, counters, converter and thermal records, OTP,
flash, log and firmware areas) are in canonical form, a step that answers a next state leaves them all in canonical form,
whatever command runs. So equal contents are equal data in every state a run reaches. -/
def Obligations.StepKeepsTheCanonicalForm : Prop :=
  ∀ s t : State, canonical s.dev = true → step s = .next t → canonical t.dev = true

/-- From every state in which a bit of the OTP array reads 1, every step that answers a next state leaves it reading 1:
programming, interruption, resets, scrubbing and every other command included. -/
def Obligations.StepKeepsBlownBits : Prop :=
  ∀ (s t : State) (w b : Nat), otpBit s.dev w b = true → step s = .next t → otpBit t.dev w b = true

/-- With no fence waiting, a completion removes its command from the commands in progress. Of a host queue's packet it appends
one entry of four words to Q12 and advances WR by four, or leaves Q12 as it is where the packet is QUIET and its status OK or
OK_DUPLICATE. Of a packet of Purlin or Thatch it gives the four words to that core and leaves Q12 as it is. -/
def Obligations.CompletionEntries : Prop :=
  ∀ (c : Cmd) (d : Device) (cyc : Nat) (st : Status) (w1 w2 : Word), canonical d = true → c.lost = false →
  d.eng.issued.any (fun x => x.op == 0x01 || x.op == 0x02) = false →
  (complete c d cyc st w1 w2).eng.issued = d.eng.issued.filter (fun x => x.id != c.id) ∧
  (srcIsHost c.src = true → (c.quiet && (st == .ok || st == .okDuplicate)) = true →
  ring (complete c d cyc st w1 w2) 12 = ring d 12) ∧
  (srcIsHost c.src = true → (c.quiet && (st == .ok || st == .okDuplicate)) = false →
  (ring (complete c d cyc st w1 w2) 12).words =
  (ring d 12).words ++ completionWords c st w1 w2 (lowW (d.roofTime + cyc)) ∧
  (ring (complete c d cyc st w1 w2) 12).wr = ((ring d 12).wr + 4) % 65536) ∧
  (srcIsHost c.src = false → ring (complete c d cyc st w1 w2) 12 = ring d 12 ∧
  SMap.get (fun _ => []) (complete c d cyc st w1 w2).eng.coreDone (srcQueue c.src) =
  completionWords c st w1 w2 (lowW (d.roofTime + cyc)))

/-- A source that is enabled, of a group below 28, with the event controller on, is latched or pends once it is raised. A
source that is not enabled, or of groups 28-31, or raised while the event controller is off, shows after its raising what it
showed before. -/
def Obligations.SourcesLatch : Prop :=
  ∀ (s : Nat) (d : Device), canonical d = true →
  (listens d s = true → shows (raise s d) s = true) ∧ (listens d s = false → shows (raise s d) s = shows d s)

/-- With the engine on, from every source and in every mode in which the engine runs, NOP and ECHO complete OK, ECHO with its
two parameters as results. FENCE completes OK when nothing earlier of its queue is outstanding, and otherwise stays in
progress. FENCE_ALL of the host or Purlin completes OK when there is nothing to wait for, and otherwise stands as the
FENCE_ALL in force with the set of packets it waits for; in REPLAY it completes with DENIED_MODE. QUEUE_CFG of legal weights
writes ENG_WEIGHT and returns the old word, and of others completes with BAD_PARAM. TAG_FLUSH empties the tag memories that
its mask names. Each completes with the status of the first check that fails; a second FENCE_ALL of the host is held while one
is in force. Beside the parts and word tables named, nothing changes. -/
def Obligations.EngineCommandsComplete : Prop :=
  ∀ (q : List Instr) (d : Device), canonical d = true →
    (∀ (rq : Req),
      engineOn d = true →
      Completes (.nop rq) q d common (some eventTables)
        fun e => answered rq 0x00 .ok 0#32 0#32 d e = true) ∧
    (∀ (rq : Req) (p0 p1 : Word),
      engineOn d = true →
      Completes (.echo rq p0 p1) q d common (some eventTables)
        fun e => answered rq 0x03 .ok p0 p1 d e = true) ∧
    (∀ (rq : Req),
      engineOn d = true →
      d.eng.issued.any (fun x => x.src == rq.src && x.id < d.eng.nextId) = false →
      Completes (.fence rq) q d common (some eventTables)
        fun e => answered rq 0x01 .ok 0#32 0#32 d e = true) ∧
    (∀ (rq : Req),
      engineOn d = true →
      d.eng.issued.any (fun x => x.src == rq.src && x.id < d.eng.nextId) = true →
      Completes (.fence rq) q d common (some eventTables)
        fun e => e.eng.issued.any (fun c => c.id == d.eng.nextId && c.op == 0x01 && c.src == rq.src) = true) ∧
    (∀ (rq : Req),
      engineOn d = true →
      rq.src ≠ .thatch →
      fenceAllHeld rq d = false →
      d.mode ≠ .replay →
      fenceSet d d.eng.nextId = [] →
      Completes (.fenceAll rq) q d common (some eventTables)
        fun e => answered rq 0x02 .ok 0#32 0#32 d e = true ∧
          e.eng.fall = none) ∧
    (∀ (rq : Req),
      engineOn d = true →
      rq.src ≠ .thatch →
      fenceAllHeld rq d = false →
      d.mode = .replay →
      Completes (.fenceAll rq) q d common (some eventTables)
        fun e => answered rq 0x02 .deniedMode 0#32 0#32 d e = true ∧
          e.eng.fall = d.eng.fall) ∧
    (∀ (rq : Req),
      engineOn d = true →
      rq.src ≠ .thatch →
      fenceAllHeld rq d = false →
      d.mode ≠ .replay →
      fenceSet d d.eng.nextId ≠ [] →
      Completes (.fenceAll rq) q d common (some eventTables)
        fun e => e.eng.fall = some { id := d.eng.nextId, queue := srcQueue rq.src, set := fenceSet d d.eng.nextId } ∧
          e.eng.issued.any (fun c => c.id == d.eng.nextId && c.op == 0x02) = true) ∧
    (∀ (rq : Req) (p0 : Word),
      engineOn d = true →
      rq.src ≠ .thatch →
      weightsOk p0 = true →
      modeOk .live d = true →
      Completes (.queueCfg rq p0) q d common (eventsWith [W.ENG_WEIGHT])
        fun e => getW e W.ENG_WEIGHT = p0 ∧
          answered rq 0x04 .ok (getW d W.ENG_WEIGHT) 0#32 d e = true) ∧
    (∀ (rq : Req) (p0 : Word),
      engineOn d = true →
      rq.src ≠ .thatch →
      weightsOk p0 = false →
      Completes (.queueCfg rq p0) q d common (eventsWith [W.ENG_WEIGHT])
        fun e => getW e W.ENG_WEIGHT = getW d W.ENG_WEIGHT ∧
          answered rq 0x04 .badParam 0#32 0#32 d e = true) ∧
    (∀ (rq : Req) (p0 : Word),
      engineOn d = true →
      rq.src ≠ .thatch →
      bitsOf p0 31 12 = 0 →
      modeOk .live d = true →
      Completes (.tagFlush rq p0) q d common (some eventTables)
        fun e => ∀ k : Fin 12, bitOf p0 k = true → tagMem e k = [] ∧
          answered rq 0x05 .ok 0#32 0#32 d e = true) ∧
    (∀ (rq : Req),
      engineOn d = true →
      rq.src = .thatch →
      Completes (.fenceAll rq) q d common (some eventTables)
        fun e => answered rq 0x02 .deniedPermission 0#32 0#32 d e = true ∧
          e.eng.fall = d.eng.fall) ∧
    (∀ (rq : Req),
      fenceAllHeld rq d = true →
      Completes (.fenceAll rq) q d common (some eventTables)
        fun e => e = d) ∧
    (∀ (rq : Req) (p0 : Word) (st : Status),
      engineOn d = true →
      firstFail [(rq.src != .thatch, .deniedPermission), (weightsOk p0, .badParam), (modeOk .live d, .deniedMode)] = some st →
      Completes (.queueCfg rq p0) q d common (eventsWith [W.ENG_WEIGHT])
        fun e => answered rq 0x04 st 0#32 0#32 d e = true ∧
          getW e W.ENG_WEIGHT = getW d W.ENG_WEIGHT) ∧
    (∀ (rq : Req) (p0 : Word) (st : Status),
      engineOn d = true →
      firstFail [(rq.src != .thatch, .deniedPermission), (bitsOf p0 31 12 = 0, .badParam), (modeOk .live d, .deniedMode)] =
        some st →
      Completes (.tagFlush rq p0) q d common (some eventTables)
        fun e => answered rq 0x05 st 0#32 0#32 d e = true)

/-- PACKET_ISSUE takes the head packet from the queue that the priority order chooses; a packet that its header alone refuses
completes with the status of R396, and one without tag that is no fence is then issued and not started. A tagged packet whose
tag its queue still holds completes with OK_DUPLICATE and the results kept, or with TAG_CONFLICT where the packets differ; so
does a duplicate that is judged again after its original has ended, and one whose tag is no longer held is issued.
PACKET_START runs the operation of the chosen packet. COMPLETION_STALL raises its source. A command that waited for Thatch
ends with NO_THATCH. Where there is nothing to issue, to start, to judge or to wait for, each does nothing. -/
def Obligations.PacketsIssueAndStart : Prop :=
  ∀ (q : List Instr) (d : Device), canonical d = true →
    (∀ (pick : Nat) (k : Nat) (p : QPkt),
      engineOn d = true →
      (chooseQueue pick d).map (fun r => r.1) = some k →
      headOf d k = some p →
      Completes (.packetIssue pick) q d (commonWith [.freeN]) (eventsWith [W.ENG_TAG_CNT])
        fun e => queue e k = (queue d k).drop 1 ∧
          (frameFault p.header p.params.length).all (fun st => reply (issuedCmd k 0 0 p d) st 0#32 0#32 d e) = true ∧
          (frameFault p.header p.params.length = none → (12 ≤ k ∨ hdrTag p.header = 0 ∨ tagEntry d k (hdrTag p.header) p.vis
            = none) →
      hdrOp p.header ≠ 0x01 → hdrOp p.header ≠ 0x02 → e.eng.issued.any (fun c => c.id == p.id && !c.started) = true) ∧
          (frameFault p.header p.params.length = none → k < 12 → hdrTag p.header ≠ 0 →
      (tagEntry d k (hdrTag p.header) p.vis).all (fun t =>
      reply (issuedCmd k 0 0 p d) (if t.crc = p.crc then .okDuplicate else .tagConflict) (if t.crc = p.crc then t.w1 else
        0#32)
      (if t.crc = p.crc then t.w2 else 0#32) d e) = true) ∧
          (if frameFault p.header p.params.length = none ∧ (12 ≤ k ∨ hdrTag p.header = 0) ∧ (hdrOp p.header = 0x01 ∨ hdrOp
            p.header = 0x02) then
      (e.eng.issued.any (fun c => c.id == p.id && c.started) || [Status.ok, .deniedMode, .deniedPermission].any (fun st =>
        reply (issuedCmd k 0 0 p d) st 0#32 0#32 d e)) = true else True)) ∧
    (∀ (pick : Nat),
      (engineOn d && (chooseQueue pick d).isSome) = false →
      Completes (.packetIssue pick) q d (commonWith [.freeN]) (eventsWith [W.ENG_TAG_CNT])
        fun e => e = d) ∧
    (∀ (k : Nat) (env : List Int),
      (engineOn d && (((waitingCmds d).filter (mayStart d))[k]?).isSome) = false →
      Completes (.packetStart k env) q d (commonWith [.mode, .prev, .roofTime, .cycles, .core, .rails, .seq, .cl, .adc,
        .therm, .bg, .link, .vly, .gauge, .power, .rtc, .otp, .log, .fw, .freeN]) none
        fun e => e = d) ∧
    (∀ (k : Nat) (env : List Int) (c : Cmd),
      engineOn d = true →
      ((waitingCmds d).filter (mayStart d))[k]? = some c →
      Completes (.packetStart k env) q d (commonWith [.mode, .prev, .roofTime, .cycles, .core, .rails, .seq, .cl, .adc,
        .therm, .bg, .link, .vly, .gauge, .power, .rtc, .otp, .log, .fw, .freeN]) none
        fun e => e = startCmd c env d) ∧
    (∀ (k : Nat) (env : List Int) (c : Cmd),
      engineOn d = true →
      ((waitingCmds d).filter (mayStart d))[k]? = some c →
      c.op = 0x03 →
      Completes (.packetStart k env) q d (commonWith [.mode, .prev, .roofTime, .cycles, .core, .rails, .seq, .cl, .adc,
        .therm, .bg, .link, .vly, .gauge, .power, .rtc, .otp, .log, .fw, .freeN]) none
        fun e => (c.lost = true ∨ reply c .ok (c.p 0) (c.p 1) d e = true) ∧
          e.eng.issued.any (fun x => x.id == c.id) = false) ∧
    (∀ (k : BitVec 4) (p : QPkt) (t : TagEnt),
      engineOn d = true →
      k.toNat < 12 →
      headOf d k.toNat = some p →
      eligible d k.toNat = true →
      frameFault p.header p.params.length = none →
      hdrTag p.header ≠ 0 →
      tagEntry d k.toNat (hdrTag p.header) p.vis = some t →
      Completes (.duplicateRejudge k) q d (commonWith [.freeN]) (eventsWith [W.ENG_TAG_CNT])
        fun e => (reply (issuedCmd k.toNat 0 0 p d) (if t.crc = p.crc then .okDuplicate else .tagConflict)
      (if t.crc = p.crc then t.w1 else 0#32) (if t.crc = p.crc then t.w2 else 0#32) d e = true) ∧
          queue e k.toNat = (queue d k.toNat).drop 1) ∧
    (∀ (k : BitVec 4) (p : QPkt),
      engineOn d = true →
      k.toNat < 12 →
      headOf d k.toNat = some p →
      eligible d k.toNat = true →
      frameFault p.header p.params.length = none →
      hdrTag p.header ≠ 0 →
      tagEntry d k.toNat (hdrTag p.header) p.vis = none →
      Completes (.duplicateRejudge k) q d (commonWith [.freeN]) (eventsWith [W.ENG_TAG_CNT])
        fun e => (if hdrOp p.header = 0x01 ∨ hdrOp p.header = 0x02 then (e.eng.issued.any (fun c => c.id == p.id &&
          c.started) || [Status.ok, .deniedMode, .deniedPermission].any (fun st => reply (issuedCmd k.toNat 0 0 p d) st 0#32
          0#32 d e)) = true
      else e.eng.issued.any (fun c => c.id == p.id && !c.started) = true) ∧
          queue e k.toNat = (queue d k.toNat).drop 1) ∧
    (∀ (k : BitVec 4) (p : QPkt) (st : Status),
      engineOn d = true →
      k.toNat < 12 →
      headOf d k.toNat = some p →
      eligible d k.toNat = true →
      frameFault p.header p.params.length = some st →
      hdrTag p.header ≠ 0 →
      Completes (.duplicateRejudge k) q d (commonWith [.freeN]) (eventsWith [W.ENG_TAG_CNT])
        fun e => reply (issuedCmd k.toNat 0 0 p d) st 0#32 0#32 d e = true ∧
          queue e k.toNat = (queue d k.toNat).drop 1) ∧
    (∀ (k : BitVec 4),
      (engineOn d && decide (k.toNat < 12) && (headOf d k.toNat).any (fun p => eligible d k.toNat && hdrTag p.header != 0)) =
        false →
      Completes (.duplicateRejudge k) q d (commonWith [.freeN]) (eventsWith [W.ENG_TAG_CNT])
        fun e => e = d) ∧
    (engineOn d = true →
      d.eng.stalled = false →
      (List.range 12).filterMap (stallFrom d) ≠ [] →
      Completes .completionStall q d (commonWith [.roofTime, .cycles]) (some eventTables)
        fun e => raised 712 d e = true ∧
          e.eng.stalled = true) ∧
    ((engineOn d = false ∨ d.eng.stalled = true ∨ (List.range 12).filterMap (stallFrom d) = []) →
      Completes .completionStall q d (commonWith [.roofTime, .cycles]) (some eventTables)
        fun e => e = d) ∧
    (∀ (c : Cmd),
      d.eng.issued.filter (fun x => x.wait == 1) ≠ [] →
      (d.eng.issued.filter (fun x => x.wait == 1)).tail.foldl (fun a b => if b.startT < a.startT then b else a)
      ((d.eng.issued.filter (fun x => x.wait == 1)).headD c) = c →
      Completes .thatchWaitTimeout q d (commonWith [.roofTime, .cycles]) (some eventTables)
        fun e => (c.lost = true ∨ reply c .noThatch 0#32 0#32 d e = true) ∧
          e.eng.issued.any (fun x => x.id == c.id) = false ∧
          e.roofTime = max d.roofTime (c.startT + 1000000)) ∧
    (d.eng.issued.filter (fun x => x.wait == 1) = [] →
      Completes .thatchWaitTimeout q d (commonWith [.roofTime, .cycles]) (some eventTables)
        fun e => e = d)

/-- A transaction that passes the checks of R382 is accepted and counted. A host-page read shifts out the sampled words; a
host-page write gives RD of each ring it names the value written; a push appends its packets to its queue, staged or visible;
a pop moves REL to the old RD and RD on by the words returned. A doorbell, and a cleared STAGE_Q bit, leaves no staged packet
in the queues it names and no other queue changed. A write of RD within its bounds moves RD alone, and one outside nothing. A
transaction that fails a check is rejected with the code of the first that fails, told, and has no other effect. Where the
port does not respond, nothing happens. -/
def Obligations.SpiTransactions : Prop :=
  ∀ (q : List Instr) (d : Device), canonical d = true →
    (∀ (tx : Spi),
      portOn d = true →
      acrcOk 0 tx = true →
      1 ≤ tx.count.toNat →
      tx.target.toNat + tx.count.toNat ≤ 64 →
      lengthOk tx 2 = true →
      Completes (.hostPageRead tx) q d common (eventsWith [W.ENG_SPI_CNT])
        fun e => e.eng.accepted = true ∧
          e.eng.accCount = (d.eng.accCount + 1) % 256 ∧
          (e.eng.spiOut.drop 2).take tx.count.toNat = (List.range tx.count.toNat).map (fun k => hostWord d (tx.target.toNat +
            k))) ∧
    (∀ (tx : Spi),
      portOn d = true →
      acrcOk 1 tx = true →
      1 ≤ tx.count.toNat →
      tx.target.toNat + tx.count.toNat ≤ 64 →
      lengthOk tx 1 = true →
      crcOk 1 tx = true →
      (List.range 4).all (fun r => !(tx.target.toNat ≤ 20 + r && 20 + r < tx.target.toNat + tx.count.toNat)
      || rdOk d (12 + r) (bitsOf (tx.words.getD (20 + r - tx.target.toNat) 0#32) 15 0)) = true →
      Completes (.hostPageWrite tx) q d (commonWith [.log]) (eventsWith [W.ENG_SPI_CNT, W.HP_SQ_MODE])
        fun e => e.eng.accepted = true ∧
          e.eng.accCount = (d.eng.accCount + 1) % 256 ∧
          (∀ r : Fin 4, tx.target.toNat ≤ 20 + r → 20 + r < tx.target.toNat + tx.count.toNat →
      (ring e (12 + r)).rd = bitsOf (tx.words.getD (20 + r - tx.target.toNat) 0#32) 15 0)) ∧
    (∀ (tx : Spi),
      portOn d = true →
      acrcOk 2 tx = true →
      1 ≤ tx.count.toNat →
      tx.target.toNat < 12 →
      engineReady d = true →
      tx.count.toNat ≤ freeWords d tx.target.toNat →
      lengthOk tx 1 = true →
      crcOk 2 tx = true →
      (splitPackets tx.count.toNat (tx.words.take tx.count.toNat)).2 = true →
      Completes (.push tx) q d (commonWith [.log]) (eventsWith [W.ENG_SPI_CNT])
        fun e => e.eng.accepted = true ∧
          e.eng.accCount = (d.eng.accCount + 1) % 256 ∧
          ((queue e tx.target.toNat).map (fun p => (p.header, p.params)) = (queue d tx.target.toNat).map (fun p => (p.header,
            p.params))
      ++ (splitPackets tx.count.toNat (tx.words.take tx.count.toNat)).1) ∧
          (((queue e tx.target.toNat).drop (queue d tx.target.toNat).length).all
      (fun p => p.staged == (fld d W.HP_SQ_MODE_STAGE_Q).testBit tx.target.toNat) = true)) ∧
    (∀ (tx : Spi),
      portOn d = true →
      acrcOk 3 tx = true →
      1 ≤ tx.count.toNat →
      12 ≤ tx.target.toNat →
      tx.target.toNat < 16 →
      tx.count.toNat % ringEntry tx.target.toNat = 0 →
      lengthOk tx 2 = true →
      Completes (.pop tx) q d common (eventsWith [W.ENG_SPI_CNT])
        fun e => e.eng.accepted = true ∧
          (ring e tx.target.toNat).rel = (ring d tx.target.toNat).rd ∧
          ((ring e tx.target.toNat).rd = ((ring d tx.target.toNat).rd + min tx.count.toNat (ring d tx.target.toNat).unpopped
      / ringEntry tx.target.toNat * ringEntry tx.target.toNat) % 65536)) ∧
    (∀ (v : Word),
      portOn d = true →
      Completes (.hpDoorbell v) q d [.eng, .log] (some [])
        fun e => ∀ k : Fin 12, bitOf v k = true → (queue e k).any (fun p => p.staged) = false ∧
          ∀ k : Fin 12, bitOf v k = false → queue e k = queue d k) ∧
    (∀ (v : Word),
      portOn d = true →
      Completes (.hpSqMode v) q d [.words, .eng, .log] (some [W.HP_SQ_MODE])
        fun e => fld e W.HP_SQ_MODE_STAGE_Q = bitsOf v 11 0 ∧
          (∀ k : Fin 12, (fld d W.HP_SQ_MODE_STAGE_Q).testBit k = true → bitOf v k = false →
      (queue e k).any (fun p => p.staged) = false)) ∧
    (∀ (r : BitVec 2) (v : Word),
      portOn d = true →
      rdOk d (12 + r.toNat) (bitsOf v 15 0) = true →
      Completes (.rngPtr r v) q d [.eng, .log] (some [])
        fun e => ring e (12 + r.toNat) = { ring d (12 + r.toNat) with rd := bitsOf v 15 0 }) ∧
    (∀ (tx : Spi) (st : Status),
      portOn d = true →
      firstFail [(tx.ends != .inAccess, .badLength), (acrcOk 0 tx, .badCrc), (1 ≤ tx.count.toNat, .badLength),
        (tx.target.toNat + tx.count.toNat ≤ 64, .badParam), (lengthOk tx 2, .badLength)] = some st →
      Completes (.hostPageRead tx) q d common (eventsWith [W.ENG_SPI_CNT])
        fun e => e.eng.accepted = false ∧
          e.eng.err = st.code ∧
          e.eng.accCount = d.eng.accCount ∧
          (∀ k : Fin 12, queue e k = queue d k) ∧
          (∀ r : Fin 4, (ring e (12 + r)).rd = (ring d (12 + r)).rd ∧ (ring e (12 + r)).rel = (ring d (12 + r)).rel) ∧
          raised 704 d e = true ∧
          (st ≠ .badCrc ∨ raised 705 d e = true)) ∧
    (∀ (tx : Spi),
      portOn d = false →
      Completes (.hostPageRead tx) q d common (eventsWith [W.ENG_SPI_CNT])
        fun e => e = d) ∧
    (∀ (tx : Spi) (st : Status),
      portOn d = true →
      firstFail [(tx.ends != .inAccess, .badLength), (acrcOk 1 tx, .badCrc), (1 ≤ tx.count.toNat, .badLength),
        (tx.target.toNat + tx.count.toNat ≤ 64, .badParam), (lengthOk tx 1, .badLength), (crcOk 1 tx, .badCrc), ((List.range
        4).all (fun r => !(tx.target.toNat ≤ 20 + r && 20 + r < tx.target.toNat + tx.count.toNat) || rdOk d (12 + r) (bitsOf
        ((tx.words.take tx.count.toNat).getD (20 + r - tx.target.toNat) 0#32) 15 0)), .badParam)] = some st →
      Completes (.hostPageWrite tx) q d (commonWith [.log]) (eventsWith [W.ENG_SPI_CNT, W.HP_SQ_MODE])
        fun e => e.eng.accepted = false ∧
          e.eng.err = st.code ∧
          e.eng.accCount = d.eng.accCount ∧
          (∀ k : Fin 12, queue e k = queue d k) ∧
          (∀ r : Fin 4, (ring e (12 + r)).rd = (ring d (12 + r)).rd ∧ (ring e (12 + r)).rel = (ring d (12 + r)).rel) ∧
          raised 704 d e = true ∧
          (st ≠ .badCrc ∨ raised 705 d e = true)) ∧
    (∀ (tx : Spi),
      portOn d = false →
      Completes (.hostPageWrite tx) q d (commonWith [.log]) (eventsWith [W.ENG_SPI_CNT, W.HP_SQ_MODE])
        fun e => e = d) ∧
    (∀ (tx : Spi) (st : Status),
      portOn d = true →
      firstFail [(tx.ends != .inAccess, .badLength), (acrcOk 2 tx, .badCrc), (1 ≤ tx.count.toNat, .badLength),
        (tx.target.toNat < 12, .badParam), (engineReady d, .deniedMode), (tx.count.toNat ≤ freeWords d tx.target.toNat,
        .busy), (lengthOk tx 1, .badLength), (crcOk 2 tx, .badCrc), ((splitPackets tx.count.toNat (tx.words.take
        tx.count.toNat)).2, .badLength)] = some st →
      Completes (.push tx) q d (commonWith [.log]) (eventsWith [W.ENG_SPI_CNT])
        fun e => e.eng.accepted = false ∧
          e.eng.err = st.code ∧
          e.eng.accCount = d.eng.accCount ∧
          (∀ k : Fin 12, queue e k = queue d k) ∧
          (∀ r : Fin 4, (ring e (12 + r)).rd = (ring d (12 + r)).rd ∧ (ring e (12 + r)).rel = (ring d (12 + r)).rel) ∧
          raised 704 d e = true ∧
          (st ≠ .badCrc ∨ raised 705 d e = true)) ∧
    (∀ (tx : Spi),
      portOn d = false →
      Completes (.push tx) q d (commonWith [.log]) (eventsWith [W.ENG_SPI_CNT])
        fun e => e = d) ∧
    (∀ (tx : Spi) (st : Status),
      portOn d = true →
      firstFail [(tx.ends != .inAccess, .badLength), (acrcOk 3 tx, .badCrc), (1 ≤ tx.count.toNat, .badLength), (decide (12 ≤
        tx.target.toNat) && decide (tx.target.toNat < 16) && tx.count.toNat % ringEntry tx.target.toNat = 0, .badParam),
        (lengthOk tx 2, .badLength)] = some st →
      Completes (.pop tx) q d common (eventsWith [W.ENG_SPI_CNT])
        fun e => e.eng.accepted = false ∧
          e.eng.err = st.code ∧
          e.eng.accCount = d.eng.accCount ∧
          (∀ k : Fin 12, queue e k = queue d k) ∧
          (∀ r : Fin 4, (ring e (12 + r)).rd = (ring d (12 + r)).rd ∧ (ring e (12 + r)).rel = (ring d (12 + r)).rel) ∧
          raised 704 d e = true ∧
          (st ≠ .badCrc ∨ raised 705 d e = true)) ∧
    (∀ (tx : Spi),
      portOn d = false →
      Completes (.pop tx) q d common (eventsWith [W.ENG_SPI_CNT])
        fun e => e = d) ∧
    (∀ (v : Word),
      portOn d = false →
      Completes (.hpDoorbell v) q d [.eng, .log] (some [])
        fun e => e = d) ∧
    (∀ (v : Word),
      portOn d = false →
      Completes (.hpSqMode v) q d [.words, .eng, .log] (some [W.HP_SQ_MODE])
        fun e => e = d) ∧
    (∀ (r : BitVec 2) (v : Word),
      (portOn d && rdOk d (12 + r.toNat) (bitsOf v 15 0)) = false →
      Completes (.rngPtr r v) q d [.eng, .log] (some [])
        fun e => e = d)

/-- From every source and in every mode in which the checks of R411 pass, REG_READ returns the word as a read shows it (in
REPLAY, of the words of the replayed run, a free value, log 7); REG_WRITE and REG_RMW that no check refuses complete OK,
REG_RMW with the old and the new word, and leave the merged word, stated for pages 0x02 and 0x04-0x07; REG_READ_BLOCK puts its
record into Q15 when there is room and completes with BUSY otherwise; a read of the low FN word latches the high word, a read
of PC_VAL latches the high bits, a read of EV_TS W1 removes the oldest timestamp (none of the three in REPLAY), and a write of
PC_SMP restarts the numbering. An access that a check refuses completes with the status, and for a write the field, that the
checks name. -/
def Obligations.RegisterAccess : Prop :=
  ∀ (q : List Instr) (d : Device), canonical d = true →
    (∀ (rq : Req) (p0 : Word),
      engineOn d = true →
      addrOk p0 = true →
      (readChecks rq.src (bitsOf p0 15 0) d).all (fun x => x.1) = true →
      Completes (.regRead rq p0) q d (commonWith [.link, .rtc, .freeN]) (some eventTables)
        fun e => answered rq 0x10 .ok (readOf (bitsOf p0 15 0) (begun d)).1 0#32 d e = true ∧
          (d.mode ≠ .replay → (readOf (bitsOf p0 15 0) (begun d)).1 = readW (begun d) (bitsOf p0 15 0))) ∧
    (∀ (rq : Req) (p0 p1 : Word),
      engineOn d = true →
      pickFail (writeFails rq.src p0 (getW d (bitsOf p0 15 0)) (merged (bitsOf p0 15 0) (getW d (bitsOf p0 15 0)) p1) p1
        (begun d)) = none →
      Completes (.regWrite rq p0 p1) q d (commonWith [.mode, .prev, .roofTime, .cycles, .core, .rails, .seq, .cl, .adc,
        .therm, .bg, .link, .vly, .gauge, .power, .rtc, .log, .fw, .freeN]) none
        fun e => answered rq 0x11 .ok 0#32 0#32 d e = true ∧
          ((bitsOf p0 15 8 = 2 ∨ (4 ≤ bitsOf p0 15 8 ∧ bitsOf p0 15 8 < 8)) →
      getW e (bitsOf p0 15 0) = merged (bitsOf p0 15 0) (getW d (bitsOf p0 15 0)) p1)) ∧
    (∀ (rq : Req) (p0 p1 p2 v : Word),
      engineOn d = true →
      v = ((readW (begun d) (bitsOf p0 15 0) &&& ~~~p1) &&& ~~~(w1cBits (bitsOf p0 15 0))) ||| (p2 &&& p1) →
      pickFail (writeFails rq.src p0 (getW d (bitsOf p0 15 0)) (merged (bitsOf p0 15 0) (getW d (bitsOf p0 15 0)) v) v (begun
        d)) = none →
      Completes (.regRmw rq p0 p1 p2) q d (commonWith [.mode, .prev, .roofTime, .cycles, .core, .rails, .seq, .cl, .adc,
        .therm, .bg, .link, .vly, .gauge, .power, .rtc, .log, .fw, .freeN]) none
        fun e => (answered rq 0x12 .ok (readW (begun d) (bitsOf p0 15 0)) (merged (bitsOf p0 15 0) (getW d (bitsOf p0 15 0))
          v) d e = true) ∧
          ((bitsOf p0 15 8 = 2 ∨ (4 ≤ bitsOf p0 15 8 ∧ bitsOf p0 15 8 < 8)) →
      getW e (bitsOf p0 15 0) = merged (bitsOf p0 15 0) (getW d (bitsOf p0 15 0)) v)) ∧
    (∀ (rq : Req) (p0 : Word),
      engineOn d = true →
      bitsOf p0 31 24 = 0 →
      1 ≤ bitsOf p0 23 16 →
      bitsOf p0 15 0 % 256 + bitsOf p0 23 16 ≤ 256 →
      (famOf? (bitsOf p0 15 0)).isSome = true →
      (readChecks rq.src (bitsOf p0 15 0) d).all (fun x => x.1) = true →
      bitsOf p0 23 16 + 1 ≤ ringRoom d 15 →
      Completes (.regReadBlock rq p0) q d (commonWith [.link, .rtc, .freeN]) (some eventTables)
        fun e => answered rq 0x13 .ok (BitVec.ofNat 32 (bitsOf p0 23 16)) (BitVec.ofNat 32 (ring d 15).wr) d e = true ∧
          (ring e 15).words = (ring d 15).words ++ recordHeader 1 (bitsOf p0 23 16) (mkCmd rq 0x13 [p0] [] d) ::
      (readBlock (bitsOf p0 23 16) (bitsOf p0 15 0) (begun d)).1) ∧
    (∀ (rq : Req) (p0 : Word),
      engineOn d = true →
      bitsOf p0 31 24 = 0 →
      1 ≤ bitsOf p0 23 16 →
      bitsOf p0 15 0 % 256 + bitsOf p0 23 16 ≤ 256 →
      (famOf? (bitsOf p0 15 0)).isSome = true →
      (readChecks rq.src (bitsOf p0 15 0) d).all (fun x => x.1) = true →
      ringRoom d 15 < bitsOf p0 23 16 + 1 →
      Completes (.regReadBlock rq p0) q d (commonWith [.link, .rtc, .freeN]) (some eventTables)
        fun e => answered rq 0x13 .busy 0#32 0#32 d e = true ∧
          (ring e 15).words = (ring d 15).words) ∧
    (∀ (rq : Req),
      engineOn d = true →
      (readChecks rq.src W.LNK_FN d).all (fun x => x.1) = true →
      Completes (.lnkFn rq) q d (commonWith [.link, .rtc, .freeN]) (some eventTables)
        fun e => answered rq 0x10 .ok (readOf W.LNK_FN (begun d)).1 0#32 d e = true ∧
          (d.mode ≠ .replay → e.link.fnHigh = presentFn d / 2 ^ 32 ∧ (readOf W.LNK_FN (begun d)).1 = lowW (presentFn d)) ∧
          (d.mode = .replay → e.link = d.link)) ∧
    (∀ (rq : Req) (k : BitVec 6),
      engineOn d = true →
      (readChecks rq.src (W.PC_VAL + 2 * k.toNat) d).all (fun x => x.1) = true →
      Completes (.pcVal rq k) q d (commonWith [.link, .rtc, .freeN]) (some eventTables)
        fun e => answered rq 0x10 .ok (readOf (W.PC_VAL + 2 * k.toNat) (begun d)).1 0#32 d e = true ∧
          (d.mode ≠ .replay → SMap.get (fun _ => 0) e.perf.highs k.toNat = counterVal d k.toNat / 2 ^ 32 ∧
      (readOf (W.PC_VAL + 2 * k.toNat) (begun d)).1 = lowW (counterVal d k.toNat)) ∧
          (d.mode = .replay → e.perf.highs = d.perf.highs)) ∧
    (∀ (rq : Req) (x : BitVec 2),
      engineOn d = true →
      (readChecks rq.src (W.EV_TS + 2 * x.toNat + 1) d).all (fun r => r.1) = true →
      Completes (.evTs rq x) q d (commonWith [.link, .rtc, .freeN]) (some eventTables)
        fun e => answered rq 0x10 .ok (readOf (W.EV_TS + 2 * x.toNat + 1) (begun d)).1 0#32 d e = true ∧
          (d.mode ≠ .replay → evFifo e x.toNat = (evFifo d x.toNat).drop 1 ∧
      (readOf (W.EV_TS + 2 * x.toNat + 1) (begun d)).1 = ((evFifo d x.toNat).headD (0#32, 0#32)).2) ∧
          (d.mode = .replay → e.rtc = d.rtc)) ∧
    (∀ (rq : Req) (v : Word),
      engineOn d = true →
      pickFail (writeFails rq.src (BitVec.ofNat 32 W.PC_SMP) (getW d W.PC_SMP) (merged W.PC_SMP (getW d W.PC_SMP) v) v (begun
        d)) = none →
      Completes (.smpN rq v) q d (commonWith [.mode, .prev, .roofTime, .cycles, .core, .rails, .seq, .cl, .adc, .therm, .bg,
        .link, .vly, .gauge, .power, .rtc, .log, .fw, .freeN]) none
        fun e => e.perf.issuedNo = 0 ∧
          getW e W.PC_SMP = merged W.PC_SMP (getW d W.PC_SMP) v ∧
          answered rq 0x11 .ok 0#32 0#32 d e = true) ∧
    (∀ (rq : Req) (p0 : Word) (st : Status),
      engineOn d = true →
      firstFail ((addrOk p0, .badParam) :: readChecks rq.src (bitsOf p0 15 0) d) = some st →
      Completes (.regRead rq p0) q d (commonWith [.link, .rtc, .freeN]) (some eventTables)
        fun e => answered rq 0x10 st 0#32 0#32 d e = true) ∧
    (∀ (rq : Req) (p0 p1 : Word) (f : Fail),
      engineOn d = true →
      pickFail (writeFails rq.src p0 (getW d (bitsOf p0 15 0)) (merged (bitsOf p0 15 0) (getW d (bitsOf p0 15 0)) p1) p1
        (begun d)) = some f →
      Completes (.regWrite rq p0 p1) q d (commonWith [.mode, .prev, .roofTime, .cycles, .core, .rails, .seq, .cl, .adc,
        .therm, .bg, .link, .vly, .gauge, .power, .rtc, .log, .fw, .freeN]) none
        fun e => answered rq 0x11 f.st (failW1 f) 0#32 d e = true ∧
          (0x1000 ≤ (bitsOf p0 15 0) ∨ getW e (bitsOf p0 15 0) = getW d (bitsOf p0 15 0))) ∧
    (∀ (rq : Req) (p0 p1 p2 v : Word) (f : Fail),
      engineOn d = true →
      v = ((readW (begun d) (bitsOf p0 15 0) &&& ~~~p1) &&& ~~~(w1cBits (bitsOf p0 15 0))) ||| (p2 &&& p1) →
      pickFail (writeFails rq.src p0 (getW d (bitsOf p0 15 0)) (merged (bitsOf p0 15 0) (getW d (bitsOf p0 15 0)) v) v (begun
        d)) = some f →
      Completes (.regRmw rq p0 p1 p2) q d (commonWith [.mode, .prev, .roofTime, .cycles, .core, .rails, .seq, .cl, .adc,
        .therm, .bg, .link, .vly, .gauge, .power, .rtc, .log, .fw, .freeN]) none
        fun e => answered rq 0x12 f.st (failW1 f) 0#32 d e = true) ∧
    (∀ (rq : Req) (p0 : Word) (st : Status),
      engineOn d = true →
      firstFail ((bitsOf p0 31 24 = 0 && decide (1 ≤ bitsOf p0 23 16) && decide ((bitsOf p0 15 0) % 256 + bitsOf p0 23 16 ≤
        256) && (famOf? (bitsOf p0 15 0)).isSome, .badParam) :: readChecks rq.src (bitsOf p0 15 0) d) = some st →
      Completes (.regReadBlock rq p0) q d (commonWith [.link, .rtc, .freeN]) (some eventTables)
        fun e => answered rq 0x13 st 0#32 0#32 d e = true ∧
          (ring e 15).words = (ring d 15).words) ∧
    (∀ (rq : Req) (k : BitVec 6) (st : Status),
      engineOn d = true →
      firstFail (readChecks rq.src (W.PC_VAL + 2 * k.toNat) d) = some st →
      Completes (.pcVal rq k) q d (commonWith [.link, .rtc, .freeN]) (some eventTables)
        fun e => answered rq 0x10 st 0#32 0#32 d e = true ∧
          e.perf.highs = d.perf.highs) ∧
    (∀ (rq : Req) (x : BitVec 2) (st : Status),
      engineOn d = true →
      firstFail (readChecks rq.src (W.EV_TS + 2 * x.toNat + 1) d) = some st →
      Completes (.evTs rq x) q d (commonWith [.link, .rtc, .freeN]) (some eventTables)
        fun e => answered rq 0x10 st 0#32 0#32 d e = true ∧
          e.rtc = d.rtc) ∧
    (∀ (rq : Req) (v : Word),
      engineOn d = true →
      mayWrite rq.src W.PC_SMP v d = false →
      Completes (.smpN rq v) q d (commonWith [.mode, .prev, .roofTime, .cycles, .core, .rails, .seq, .cl, .adc, .therm, .bg,
        .link, .vly, .gauge, .power, .rtc, .log, .fw, .freeN]) none
        fun e => writeRefused rq 0x11 W.PC_SMP v d e = true ∧
          e.perf.issuedNo = d.perf.issuedNo ∧
          getW e W.PC_SMP = getW d W.PC_SMP)

/-- SEQ_UP on a device that runs alone, in BOOT with BOOT ready and roof time disciplined, fixes T0 200 microseconds after the
gate, no earlier than t_REST allows, and answers with it; before BOOT ready, in a roof, or in a retry wait it stands as a
request; with T0 fixed it answers with it; in a non-fault descent with DESC_NEXT = BOOT it sets UP_PENDING. In another mode or
state it is refused, and with BUSY while adopting or while a rail is stuck high. SEQ_DOWN in RAMP, RUN, EASE and HOLDUP starts
an orderly descent (an abort in RAMP) and waits for its end, which with no rail on is at once; in a descent it only waits; in
a retry wait it cancels the retry; in the other modes it completes with DENIED_MODE. -/
def Obligations.SequencerCommandsComplete : Prop :=
  ∀ (q : List Instr) (d : Device), canonical d = true →
    (∀ (rq : Req),
      engineOn d = true →
      rq.src ≠ .thatch →
      seqUpMode d = true →
      flag d W.MODE_STATUS_ADOPTING = false →
      stuckHigh d = false →
      d.mode = .boot →
      d.seq.t0 = none →
      d.core.bootReady = true →
      alone d = true →
      flag d W.LNK_STATUS_DISCIPLINED = true →
      Completes (.seqUp rq) q d (commonWith [.roofTime, .cycles, .seq, .link]) (eventsWith [W.SEQ_STATUS, W.SEQ_T0])
        fun e => e.seq.t0 = some (max (d.roofTime + 20040) (earliestT0 d)) ∧
          fld e W.SEQ_STATUS_SEQ_STATE = 1 ∧
          (answered rq 0x20 .ok (lowW (max (d.roofTime + 20040) (earliestT0 d))) (highW (max (d.roofTime + 20040) (earliestT0
            d)))
      d e = true) ∧
          e.mode = .boot) ∧
    (∀ (rq : Req),
      engineOn d = true →
      rq.src ≠ .thatch →
      seqUpMode d = true →
      flag d W.MODE_STATUS_ADOPTING = false →
      stuckHigh d = false →
      d.mode ≠ .descend →
      d.seq.t0 = none →
      (d.mode = .latched ∨ d.core.bootReady = false ∨ alone d = false ∨ flag d W.LNK_STATUS_DISCIPLINED = false) →
      Completes (.seqUp rq) q d (commonWith [.roofTime, .cycles, .seq, .link]) (eventsWith [W.SEQ_STATUS, W.SEQ_T0])
        fun e => e.seq.request = true ∧
          e.seq.reqAt = d.roofTime + 40 ∧
          e.seq.t0 = none ∧
          e.eng.issued.any (fun c => c.id == d.eng.nextId && c.op == 0x20) = true) ∧
    (∀ (rq : Req) (t : Nat),
      engineOn d = true →
      rq.src ≠ .thatch →
      seqUpMode d = true →
      flag d W.MODE_STATUS_ADOPTING = false →
      stuckHigh d = false →
      d.mode ≠ .descend →
      d.seq.t0 = some t →
      Completes (.seqUp rq) q d (commonWith [.roofTime, .cycles, .seq, .link]) (eventsWith [W.SEQ_STATUS, W.SEQ_T0])
        fun e => e.seq = d.seq ∧
          answered rq 0x20 .ok (lowW t) (highW t) d e = true) ∧
    (∀ (rq : Req),
      engineOn d = true →
      rq.src ≠ .thatch →
      seqUpMode d = true →
      flag d W.MODE_STATUS_ADOPTING = false →
      stuckHigh d = false →
      d.mode = .descend →
      Completes (.seqUp rq) q d (commonWith [.roofTime, .cycles, .seq, .link]) (eventsWith [W.SEQ_STATUS, W.SEQ_T0])
        fun e => flag e W.SEQ_STATUS_UP_PENDING = true ∧
          e.seq = d.seq ∧
          answered rq 0x20 .ok 0#32 0#32 d e = true) ∧
    (∀ (rq : Req),
      engineOn d = true →
      rq.src ≠ .thatch →
      seqUpMode d = false →
      Completes (.seqUp rq) q d (commonWith [.roofTime, .cycles, .seq, .link]) (eventsWith [W.SEQ_STATUS, W.SEQ_T0])
        fun e => answered rq 0x20 .deniedMode 0#32 0#32 d e = true ∧
          e.seq = d.seq) ∧
    (∀ (rq : Req),
      engineOn d = true →
      rq.src ≠ .thatch →
      seqUpMode d = true →
      flag d W.MODE_STATUS_ADOPTING = true ∨ stuckHigh d = true →
      Completes (.seqUp rq) q d (commonWith [.roofTime, .cycles, .seq, .link]) (eventsWith [W.SEQ_STATUS, W.SEQ_T0])
        fun e => answered rq 0x20 .busy 0#32 0#32 d e = true ∧
          e.seq = d.seq) ∧
    (∀ (rq : Req) (n : Fin 32),
      engineOn d = true →
      rq.src ≠ .thatch →
      inMode d [.ramp, .run, .ease, .holdup] = true →
      (rail d n).enabled = true →
      (rail d n).fallFail = false →
      (rail d n).ph ≠ .rampDown ∨ (rail d n).falling = true →
      Completes (.seqDown rq) q d (commonWith [.mode, .prev, .roofTime, .cycles, .core, .rails, .seq, .cl, .link, .vly,
        .gauge, .rtc, .log, .fw]) none
        fun e => e.mode = .descend ∧
          e.seq.desc.map (fun x => x.kind) = some (if d.mode = .ramp then .abort else .orderly) ∧
          fld e W.SEQ_STATUS_SEQ_STATE = 4 ∧
          e.eng.issued.any (fun c => c.id == d.eng.nextId && c.op == 0x21) = true) ∧
    (∀ (rq : Req),
      engineOn d = true →
      rq.src ≠ .thatch →
      inMode d [.ramp, .run, .ease, .holdup] = true →
      (List.range 32).all (fun n => !(rail d n).enabled && !(rail d n).falling && !(rail d n).waitBias && !(rail d n).inDesc)
        = true →
      Completes (.seqDown rq) q d (commonWith [.mode, .prev, .roofTime, .cycles, .core, .rails, .seq, .cl, .link, .vly,
        .gauge, .rtc, .log, .fw]) none
        fun e => e.seq.desc = none ∧
          inMode e [.boot, .standby, .dormant] = true ∧
          e.eng.issued.any (fun c => c.id == d.eng.nextId) = false) ∧
    (∀ (rq : Req),
      engineOn d = true →
      rq.src ≠ .thatch →
      d.mode = .descend →
      Completes (.seqDown rq) q d (commonWith [.mode, .prev, .roofTime, .cycles, .core, .rails, .seq, .cl, .link, .vly,
        .gauge, .rtc, .log, .fw]) none
        fun e => e.eng.issued.any (fun c => c.id == d.eng.nextId && c.op == 0x21) = true ∧
          e.seq = d.seq ∧
          e.rails = d.rails) ∧
    (∀ (rq : Req),
      engineOn d = true →
      rq.src ≠ .thatch →
      d.mode = .latched →
      d.seq.retryWait = true →
      Completes (.seqDown rq) q d (commonWith [.mode, .prev, .roofTime, .cycles, .core, .rails, .seq, .cl, .link, .vly,
        .gauge, .rtc, .log, .fw]) none
        fun e => e.seq.retryWait = false ∧
          e.mode = .latched ∧
          answered rq 0x21 .ok 0#32 0#32 d e = true) ∧
    (∀ (rq : Req),
      engineOn d = true →
      rq.src ≠ .thatch →
      inMode d [.boot, .latched, .service, .replay, .retain] = true →
      d.mode ≠ .latched ∨ d.seq.retryWait = false →
      Completes (.seqDown rq) q d (commonWith [.mode, .prev, .roofTime, .cycles, .core, .rails, .seq, .cl, .link, .vly,
        .gauge, .rtc, .log, .fw]) none
        fun e => answered rq 0x21 .deniedMode 0#32 0#32 d e = true ∧
          e.seq = d.seq ∧
          e.rails = d.rails)

/-- RAIL_ON of a rail that is off starts its soft start, and answers at once when the rail is on. RAIL_OFF starts the soft
stop of a rail that is on (a GB rail may first wait under the interlock), or waits for its gate; of a rail whose turn-off is
under way it only waits, and of a rail that is off it answers at once. RAIL_SET_V, from every source, writes the set point and
answers with the end of the move and the set point before. Every other rail keeps its record. A command that a check refuses
completes with the status of the first check that fails, and changes no rail. -/
def Obligations.RailCommandsComplete : Prop :=
  ∀ (q : List Instr) (d : Device), canonical d = true →
    (∀ (rq : Req) (p0 : Word) (n : Nat),
      engineOn d = true →
      n = bitsOf p0 4 0 →
      firstFail (railChecks (mkCmd rq 0x22 [p0] [] d) d ++ [(!flag d W.SUP_STATUS_FAULT_LATCH n, .deniedMode), (!turningOff d
        n, .busy)]) = none →
      timeRefused d = false →
      (rail d n).enabled = false →
      Completes (.railOn rq p0) q d (commonWith [.roofTime, .cycles, .rails, .link]) (eventsWith [W.SEQ_RSTATE, W.HC_STATUS,
        W.HC_PH_CAUSE, W.CL_RSTATUS, W.SB_RSTATUS, W.LD_RSTATUS, W.GB_RSTATUS, W.PH_STATUS, W.CL_STATUS])
        fun e => (rail e n).enabled = true ∧
          (rail e n).ph = .rampUp ∧
          (rail e n).ref.dst = setPoint d n ∧
          rstate e n = 2 ∧
          ∀ k : Fin 32, k.val ≠ n → rail e k = rail d k ∧
          e.eng.issued.any (fun c => c.id == d.eng.nextId && c.op == 0x22) = true) ∧
    (∀ (rq : Req) (p0 : Word) (n : Nat),
      engineOn d = true →
      n = bitsOf p0 4 0 →
      firstFail (railChecks (mkCmd rq 0x22 [p0] [] d) d ++ [(!flag d W.SUP_STATUS_FAULT_LATCH n, .deniedMode), (!turningOff d
        n, .busy)]) = none →
      timeRefused d = false →
      (rail d n).enabled = true →
      Completes (.railOn rq p0) q d (commonWith [.roofTime, .cycles, .rails, .link]) (eventsWith [W.SEQ_RSTATE, W.HC_STATUS,
        W.HC_PH_CAUSE, W.CL_RSTATUS, W.SB_RSTATUS, W.LD_RSTATUS, W.GB_RSTATUS, W.PH_STATUS, W.CL_STATUS])
        fun e => answered rq 0x22 .ok 0#32 0#32 d e = true ∧
          e.rails = d.rails) ∧
    (∀ (rq : Req) (p0 : Word) (n : Nat) (st : Status),
      engineOn d = true →
      n = bitsOf p0 4 0 →
      firstFail (railChecks (mkCmd rq 0x22 [p0] [] d) d ++ [(!flag d W.SUP_STATUS_FAULT_LATCH n, .deniedMode), (!turningOff d
        n, .busy)]) = some st →
      Completes (.railOn rq p0) q d (commonWith [.roofTime, .cycles, .rails, .link]) (eventsWith [W.SEQ_RSTATE, W.HC_STATUS,
        W.HC_PH_CAUSE, W.CL_RSTATUS, W.SB_RSTATUS, W.LD_RSTATUS, W.GB_RSTATUS, W.PH_STATUS, W.CL_STATUS])
        fun e => answered rq 0x22 st 0#32 0#32 d e = true ∧
          e.rails = d.rails) ∧
    (∀ (rq : Req) (p0 : Word) (n : Nat),
      engineOn d = true →
      n = bitsOf p0 4 0 →
      firstFail (railChecks (mkCmd rq 0x22 [p0] [] d) d ++ [(!flag d W.SUP_STATUS_FAULT_LATCH n, .deniedMode), (!turningOff d
        n, .busy)]) = none →
      timeRefused d = true →
      Completes (.railOn rq p0) q d (commonWith [.roofTime, .cycles, .rails, .link]) (eventsWith [W.SEQ_RSTATE, W.HC_STATUS,
        W.HC_PH_CAUSE, W.CL_RSTATUS, W.SB_RSTATUS, W.LD_RSTATUS, W.GB_RSTATUS, W.PH_STATUS, W.CL_STATUS])
        fun e => answered rq 0x22 .busy 0#32 0#32 d e = true ∧
          e.rails = d.rails) ∧
    (∀ (rq : Req) (p0 : Word) (n : Nat),
      engineOn d = true →
      n = bitsOf p0 4 0 →
      firstFail (railChecks (mkCmd rq 0x23 [p0] [] d) d ++ [(railKind n != .gb || ssoAsserted d n, .deniedInterlock)]) = none
        →
      timeRefused d = false →
      rstate d n ≠ 0 →
      turningOff d n = false →
      gateOpen d n = true →
      railKind n ≠ .gb →
      Completes (.railOff rq p0) q d (commonWith [.roofTime, .cycles, .core, .rails, .cl, .link]) (eventsWith [W.SEQ_RSTATE,
        W.HC_STATUS, W.CL_RSTATUS, W.SUP_STATUS, W.SB_RSTATUS, W.LD_RSTATUS, W.GB_RSTATUS])
        fun e => (rail e n).falling = true ∧
          (rail e n).ph = .rampDown ∧
          (rail e n).ref.dst = 0 ∧
          rstate e n = 6 ∧
          ∀ k : Fin 32, k.val ≠ n → rail e k = rail d k ∧
          e.eng.issued.any (fun c => c.id == d.eng.nextId && c.op == 0x23) = true) ∧
    (∀ (rq : Req) (p0 : Word) (n : Nat),
      engineOn d = true →
      n = bitsOf p0 4 0 →
      firstFail (railChecks (mkCmd rq 0x23 [p0] [] d) d ++ [(railKind n != .gb || ssoAsserted d n, .deniedInterlock)]) = none
        →
      timeRefused d = false →
      rstate d n ≠ 0 →
      turningOff d n = false →
      gateOpen d n = true →
      railKind n = .gb →
      Completes (.railOff rq p0) q d (commonWith [.roofTime, .cycles, .core, .rails, .cl, .link]) (eventsWith [W.SEQ_RSTATE,
        W.HC_STATUS, W.CL_RSTATUS, W.SUP_STATUS, W.SB_RSTATUS, W.LD_RSTATUS, W.GB_RSTATUS])
        fun e => (((rail e n).waitBias = true ∧ flag e W.GB_RSTATUS_INTERLOCK_WAIT (n - 24) = true) ∨ ((rail e n).falling =
          true ∧ rstate e n = 6)) ∧
          ∀ k : Fin 32, k.val ≠ n → rail e k = rail d k ∧
          e.eng.issued.any (fun c => c.id == d.eng.nextId && c.op == 0x23) = true) ∧
    (∀ (rq : Req) (p0 : Word) (n : Nat),
      engineOn d = true →
      n = bitsOf p0 4 0 →
      firstFail (railChecks (mkCmd rq 0x23 [p0] [] d) d ++ [(railKind n != .gb || ssoAsserted d n, .deniedInterlock)]) = none
        →
      timeRefused d = false →
      rstate d n ≠ 0 →
      turningOff d n = false →
      gateOpen d n = false →
      Completes (.railOff rq p0) q d (commonWith [.roofTime, .cycles, .core, .rails, .cl, .link]) (eventsWith [W.SEQ_RSTATE,
        W.HC_STATUS, W.CL_RSTATUS, W.SUP_STATUS, W.SB_RSTATUS, W.LD_RSTATUS, W.GB_RSTATUS])
        fun e => rstate e n = 5 ∧
          ∀ k : Fin 32, k.val ≠ n → rail e k = rail d k ∧
          e.eng.issued.any (fun c => c.id == d.eng.nextId && c.op == 0x23) = true) ∧
    (∀ (rq : Req) (p0 : Word) (n : Nat),
      engineOn d = true →
      n = bitsOf p0 4 0 →
      firstFail (railChecks (mkCmd rq 0x23 [p0] [] d) d ++ [(railKind n != .gb || ssoAsserted d n, .deniedInterlock)]) = none
        →
      timeRefused d = false →
      rstate d n ≠ 0 →
      turningOff d n = true →
      Completes (.railOff rq p0) q d (commonWith [.roofTime, .cycles, .core, .rails, .cl, .link]) (eventsWith [W.SEQ_RSTATE,
        W.HC_STATUS, W.CL_RSTATUS, W.SUP_STATUS, W.SB_RSTATUS, W.LD_RSTATUS, W.GB_RSTATUS])
        fun e => e.rails = d.rails ∧
          e.eng.issued.any (fun c => c.id == d.eng.nextId && c.op == 0x23) = true) ∧
    (∀ (rq : Req) (p0 : Word) (n : Nat),
      engineOn d = true →
      n = bitsOf p0 4 0 →
      firstFail (railChecks (mkCmd rq 0x23 [p0] [] d) d ++ [(railKind n != .gb || ssoAsserted d n, .deniedInterlock)]) = none
        →
      timeRefused d = false →
      rstate d n = 0 →
      Completes (.railOff rq p0) q d (commonWith [.roofTime, .cycles, .core, .rails, .cl, .link]) (eventsWith [W.SEQ_RSTATE,
        W.HC_STATUS, W.CL_RSTATUS, W.SUP_STATUS, W.SB_RSTATUS, W.LD_RSTATUS, W.GB_RSTATUS])
        fun e => answered rq 0x23 .ok 0#32 0#32 d e = true ∧
          e.rails = d.rails) ∧
    (∀ (rq : Req) (p0 : Word) (n : Nat) (st : Status),
      engineOn d = true →
      n = bitsOf p0 4 0 →
      firstFail (railChecks (mkCmd rq 0x23 [p0] [] d) d ++ [(railKind n != .gb || ssoAsserted d n, .deniedInterlock)]) = some
        st →
      Completes (.railOff rq p0) q d (commonWith [.roofTime, .cycles, .core, .rails, .cl, .link]) (eventsWith [W.SEQ_RSTATE,
        W.HC_STATUS, W.CL_RSTATUS, W.SUP_STATUS, W.SB_RSTATUS, W.LD_RSTATUS, W.GB_RSTATUS])
        fun e => answered rq 0x23 st 0#32 0#32 d e = true ∧
          e.rails = d.rails) ∧
    (∀ (rq : Req) (p0 : Word) (n : Nat),
      engineOn d = true →
      n = bitsOf p0 4 0 →
      firstFail (railChecks (mkCmd rq 0x23 [p0] [] d) d ++ [(railKind n != .gb || ssoAsserted d n, .deniedInterlock)]) = none
        →
      timeRefused d = true →
      Completes (.railOff rq p0) q d (commonWith [.roofTime, .cycles, .core, .rails, .cl, .link]) (eventsWith [W.SEQ_RSTATE,
        W.HC_STATUS, W.CL_RSTATUS, W.SUP_STATUS, W.SB_RSTATUS, W.LD_RSTATUS, W.GB_RSTATUS])
        fun e => answered rq 0x23 .busy 0#32 0#32 d e = true ∧
          e.rails = d.rails) ∧
    (∀ (rq : Req) (p0 : Word) (n v : Nat),
      engineOn d = true →
      n = bitsOf p0 20 16 →
      v = bitsOf p0 15 0 * 10 / vStep n →
      firstFail (setVChecks (mkCmd rq 0x24 [p0] [] d) (begun d)) = none →
      Completes (.railSetV rq p0) q d (commonWith [.rails, .freeN]) (eventsWith [W.BG_STATUS, W.HC_VSET, W.CL_VSET,
        W.SB_VSET, W.LD_CFG, W.GB_AUX, W.HC_STATUS, W.CL_RSTATUS, W.SB_RSTATUS, W.LD_RSTATUS, W.GB_RSTATUS])
        fun e => fld e (vcodeFld n) (railIdx n) = v ∧
          (answered rq 0x24 .ok (moveEnd n (moveReference n (withSetPoint n v (begun d)))) (BitVec.ofNat 32 (setPoint d n /
            10)) d e = true) ∧
          ∀ k : Fin 32, k.val ≠ n → rail e k = rail d k) ∧
    (∀ (rq : Req) (p0 : Word) (st : Status),
      engineOn d = true →
      firstFail (setVChecks (mkCmd rq 0x24 [p0] [] d) (begun d)) = some st →
      Completes (.railSetV rq p0) q d (commonWith [.rails, .freeN]) (eventsWith [W.BG_STATUS, W.HC_VSET, W.CL_VSET,
        W.SB_VSET, W.LD_CFG, W.GB_AUX, W.HC_STATUS, W.CL_RSTATUS, W.SB_RSTATUS, W.LD_RSTATUS, W.GB_RSTATUS])
        fun e => answered rq 0x24 st 0#32 0#32 d e = true ∧
          e.rails = d.rails)

/-- At T0 the device leaves BOOT for RAMP (or goes on in RAMP after RETAIN, or begins the service-hold rails in SERVICE), and
where no rail is to rise the ramp is complete at once; at its slot, moved by the ramp holds, a waiting rail begins its soft
start; soft start, soft stop and set-point moves end with the reference where it was going; a rail becomes power-good, an LDO
only with its supply, and ends its RAIL_ON; a rail that fails to rise, its timeout the first to run out, is recorded, latched
and raises RAMP_FAIL, and a fault descent begins; a RAIL_ON whose rail times out gates and latches the rail and raises
RAMP_FAIL. Out of its place each does nothing. -/
def Obligations.PowerUpEventsComplete : Prop :=
  ∀ (q : List Instr) (d : Device), canonical d = true →
    (∀ (t : Nat),
      d.seq.t0 = some t →
      (d.mode = .boot ∨ (d.mode = .ramp ∧ fld d W.SEQ_STATUS_SEQ_STATE = 1)) →
      flag d W.LNK_STATUS_DISCIPLINED = true →
      ((List.range 32).any (fun n => configured d n && inSeq d n && !(rail d n).pg && !(rail d n).enabled) = true ∨
        d.seq.holdFrom.isSome = true) →
      Completes .t0Reached q d (commonWith [.mode, .prev, .roofTime, .cycles, .core, .rails, .seq, .cl, .link, .vly, .gauge,
        .rtc, .log, .fw, .freeN]) none
        fun e => e.mode = .ramp ∧
          e.prev = (if d.mode = .boot then .boot else d.prev) ∧
          fld e W.SEQ_STATUS_SEQ_STATE = (if d.seq.holdFrom.isSome then 3 else 2) ∧
          (∀ n : Fin 32, configured d n = true → inSeq d n = true → rstate e n = (if (rail d n).enabled then 9 else 1)) ∧
          e.roofTime = max d.roofTime t) ∧
    (∀ (t : Nat),
      d.seq.t0 = some t →
      (d.mode = .boot ∨ (d.mode = .ramp ∧ fld d W.SEQ_STATUS_SEQ_STATE = 1)) →
      flag d W.LNK_STATUS_DISCIPLINED = true →
      (List.range 32).any (fun n => configured d n && inSeq d n && !(rail d n).pg && !(rail d n).enabled) = false →
      d.seq.holdFrom = none →
      Completes .t0Reached q d (commonWith [.mode, .prev, .roofTime, .cycles, .core, .rails, .seq, .cl, .link, .vly, .gauge,
        .rtc, .log, .fw, .freeN]) none
        fun e => inMode e [.boot, .ramp] = false ∧
          e.seq.t0 = none) ∧
    (∀ (t : Nat),
      d.seq.t0 = some t →
      d.mode = .service →
      d.seq.svcUp = true →
      fld d W.SEQ_STATUS_SEQ_STATE = 1 →
      Completes .t0Reached q d (commonWith [.mode, .prev, .roofTime, .cycles, .core, .rails, .seq, .cl, .link, .vly, .gauge,
        .rtc, .log, .fw, .freeN]) none
        fun e => e.mode = .service ∧
          fld e W.SEQ_STATUS_SEQ_STATE = 2 ∧
          e.roofTime = max d.roofTime t) ∧
    (∀ (n : BitVec 5) (t : Nat),
      d.seq.t0 = some t →
      rstate d n.toNat = 1 →
      fld d W.SEQ_STATUS_SEQ_STATE = 2 →
      d.seq.holdFrom = none →
      Completes (.slotOn n) q d [.words, .roofTime, .cycles, .rails, .ev, .perf] (some [W.SEQ_RSTATE, W.HC_STATUS,
        W.HC_PH_CAUSE, W.CL_RSTATUS, W.SB_RSTATUS, W.LD_RSTATUS, W.GB_RSTATUS, W.PH_STATUS, W.CL_STATUS, W.PC_OVF])
        fun e => (rail e n.toNat).enabled = true ∧
          (rail e n.toNat).ph = .rampUp ∧
          (rail e n.toNat).ref.dst = setPoint d n.toNat ∧
          rstate e n.toNat = 2 ∧
          e.roofTime = max d.roofTime (t + onDly d n.toNat * 1000 + d.seq.slip) ∧
          ∀ k : Fin 32, k.val ≠ n.toNat → rail e k = rail d k) ∧
    (∀ (n : BitVec 5),
      (rail d n.toNat).ph = .rampUp →
      railKind n.toNat ≠ .gb →
      d.seq.holdFrom = none →
      Completes (.softStartComplete n) q d [.words, .roofTime, .cycles, .rails, .ev, .perf] (some [W.HC_STATUS, W.CL_RSTATUS,
        W.SB_RSTATUS, W.LD_RSTATUS, W.GB_RSTATUS, W.PC_OVF])
        fun e => (rail e n.toNat).ph = .still ∧
          refNow e n.toNat = (rail d n.toNat).ref.dst ∧
          e.roofTime = max d.roofTime ((rail d n.toNat).ref.start + (rail d n.toNat).ref.dur) ∧
          ∀ k : Fin 32, k.val ≠ n.toNat → rail e k = rail d k) ∧
    (∀ (n : BitVec 5),
      (rail d n.toNat).ph = .rampDown →
      railKind n.toNat ≠ .gb →
      Completes (.softStopComplete n) q d (commonWith [.roofTime, .cycles, .core, .rails, .cl, .adc]) (eventsWith
        [W.HC_STATUS, W.CL_RSTATUS, W.SB_RSTATUS, W.LD_RSTATUS, W.GB_RSTATUS, W.PH_STATUS, W.CL_STATUS, W.DRILL_RESULT])
        fun e => (rail e n.toNat).enabled = false ∧
          (rail e n.toNat).ph = .still ∧
          refNow e n.toNat = 0 ∧
          (disEn d n.toNat = true → (rail e n.toNat).dis = true) ∧
          ∀ k : Fin 32, k.val ≠ n.toNat → rail e k = rail d k) ∧
    (∀ (n : BitVec 5),
      (rail d n.toNat).ph = .move →
      Completes (.setPointMoveEnd n) q d [.words, .roofTime, .cycles, .rails, .ev, .perf] (some [W.HC_STATUS, W.CL_RSTATUS,
        W.SB_RSTATUS, W.LD_RSTATUS, W.GB_RSTATUS, W.PC_OVF])
        fun e => (rail e n.toNat).ph = .still ∧
          refNow e n.toNat = (rail d n.toNat).ref.dst ∧
          ∀ k : Fin 32, k.val ≠ n.toNat → rail e k = rail d k) ∧
    (∀ (n : BitVec 5) (ldin : Bool),
      pgReady d n.toNat = true →
      railKind n.toNat ≠ .ld ∨ ldin = true →
      Completes (.powerGood n ldin) q d (commonWith [.mode, .prev, .roofTime, .cycles, .core, .rails, .seq, .cl, .link, .vly,
        .gauge, .rtc, .log, .fw, .freeN]) none
        fun e => (running e 0x22).any (fun c => railOf c == n.toNat) = false ∧
          ((e.mode ≠ .descend ∨ d.mode = .descend) → (rail e n.toNat).pg = true ∧ flag e W.SUP_STATUS_PG n.toNat = true ∧
      (∀ k : Fin 32, k.val ≠ n.toNat → rail e k = rail d k))) ∧
    (∀ (mask : Word) (n : Fin 32),
      mask.toNat.testBit n = true →
      (riseFailing d n || riseCut d n) = true →
      (List.range 32).all (fun k => !(mask.toNat.testBit k && (riseFailing d k || riseCut d k)) || riseLimit d n ≤ riseLimit
        d k) = true →
      Completes (.riseFail mask) q d (commonWith [.mode, .prev, .roofTime, .cycles, .core, .rails, .seq, .cl, .link, .vly,
        .gauge, .rtc, .log, .fw, .freeN]) none
        fun e => maskBit e W.SEQ_RISE_FAIL n = true ∧
          flag e W.SUP_STATUS_FAULT_LATCH n = true ∧
          raised (128 + n) d e = true ∧
          (d.seq.desc = none → e.mode = .latched ∨ (e.mode = .descend ∧ e.seq.desc.map (fun x => x.kind) = some .fault ∧
      fld e W.SEQ_STATUS_SEQ_STATE = 5))) ∧
    (∀ (n : BitVec 5),
      (running d 0x22).any (fun c => railOf c == n.toNat) = true →
      (rail d n.toNat).enabled = true →
      (rail d n.toNat).pg = false →
      Completes (.railOnTimeout n) q d (commonWith [.roofTime, .cycles, .core, .rails, .cl, .adc]) (eventsWith [W.SEQ_RSTATE,
        W.HC_STATUS, W.CL_RSTATUS, W.SUP_STATUS, W.SB_RSTATUS, W.LD_RSTATUS, W.GB_RSTATUS, W.PH_STATUS, W.CL_STATUS,
        W.DRILL_RESULT])
        fun e => flag e W.SUP_STATUS_FAULT_LATCH n.toNat = true ∧
          (rail e n.toNat).gated = true ∧
          raised (128 + n.toNat) d e = true ∧
          (running e 0x22).any (fun c => railOf c == n.toNat) = false ∧
          ∀ k : Fin 32, k.val ≠ n.toNat → rail e k = rail d k) ∧
    ((d.seq.t0.isSome && (((d.mode = .boot || (d.mode = .ramp && fld d W.SEQ_STATUS_SEQ_STATE = 1)) && flag d
      W.LNK_STATUS_DISCIPLINED) || (d.mode = .service && d.seq.svcUp && fld d W.SEQ_STATUS_SEQ_STATE = 1))) = false →
      Completes .t0Reached q d (commonWith [.mode, .prev, .roofTime, .cycles, .core, .rails, .seq, .cl, .link, .vly, .gauge,
        .rtc, .log, .fw, .freeN]) none
        fun e => e = d) ∧
    (∀ (n : BitVec 5),
      (d.seq.t0.isSome && rstate d n.toNat = 1 && fld d W.SEQ_STATUS_SEQ_STATE = 2 && d.seq.holdFrom.isNone) = false →
      Completes (.slotOn n) q d [.words, .roofTime, .cycles, .rails, .ev, .perf] (some [W.SEQ_RSTATE, W.HC_STATUS,
        W.HC_PH_CAUSE, W.CL_RSTATUS, W.SB_RSTATUS, W.LD_RSTATUS, W.GB_RSTATUS, W.PH_STATUS, W.CL_STATUS, W.PC_OVF])
        fun e => e = d) ∧
    (∀ (n : BitVec 5),
      ((rail d n.toNat).ph ≠ .rampUp ∨ railKind n.toNat = .gb ∨ d.seq.holdFrom ≠ none) →
      Completes (.softStartComplete n) q d [.words, .roofTime, .cycles, .rails, .ev, .perf] (some [W.HC_STATUS, W.CL_RSTATUS,
        W.SB_RSTATUS, W.LD_RSTATUS, W.GB_RSTATUS, W.PC_OVF])
        fun e => e = d) ∧
    (∀ (n : BitVec 5),
      ((rail d n.toNat).ph ≠ .rampDown ∨ railKind n.toNat = .gb) →
      Completes (.softStopComplete n) q d (commonWith [.roofTime, .cycles, .core, .rails, .cl, .adc]) (eventsWith
        [W.HC_STATUS, W.CL_RSTATUS, W.SB_RSTATUS, W.LD_RSTATUS, W.GB_RSTATUS, W.PH_STATUS, W.CL_STATUS, W.DRILL_RESULT])
        fun e => e = d) ∧
    (∀ (n : BitVec 5),
      (rail d n.toNat).ph ≠ .move →
      Completes (.setPointMoveEnd n) q d [.words, .roofTime, .cycles, .rails, .ev, .perf] (some [W.HC_STATUS, W.CL_RSTATUS,
        W.SB_RSTATUS, W.LD_RSTATUS, W.GB_RSTATUS, W.PC_OVF])
        fun e => e = d) ∧
    (∀ (n : BitVec 5) (ldin : Bool),
      (pgReady d n.toNat = false ∨ (railKind n.toNat = .ld ∧ ldin = false)) →
      Completes (.powerGood n ldin) q d (commonWith [.mode, .prev, .roofTime, .cycles, .core, .rails, .seq, .cl, .link, .vly,
        .gauge, .rtc, .log, .fw, .freeN]) none
        fun e => e = d) ∧
    (∀ (mask : Word),
      (List.range 32).all (fun n => !(mask.toNat.testBit n && (riseFailing d n || riseCut d n))) = true →
      Completes (.riseFail mask) q d (commonWith [.mode, .prev, .roofTime, .cycles, .core, .rails, .seq, .cl, .link, .vly,
        .gauge, .rtc, .log, .fw, .freeN]) none
        fun e => e = d) ∧
    (∀ (n : BitVec 5),
      ((running d 0x22).any (fun c => railOf c == n.toNat) && (rail d n.toNat).enabled && !(rail d n.toNat).pg) = false →
      Completes (.railOnTimeout n) q d (commonWith [.roofTime, .cycles, .core, .rails, .cl, .adc]) (eventsWith [W.SEQ_RSTATE,
        W.HC_STATUS, W.CL_RSTATUS, W.SUP_STATUS, W.SB_RSTATUS, W.LD_RSTATUS, W.GB_RSTATUS, W.PH_STATUS, W.CL_STATUS,
        W.DRILL_RESULT])
        fun e => e = d)

/-- A rail whose off-delay has passed begins its soft stop (a GB rail may first wait under the interlock), or waits for its
gate; at the gate timeout the wait is recorded and the rail stops; a rail below its off-threshold has fallen and its fall is
dated, also one that had failed to fall; a rail that fails to fall is recorded, stands above its threshold and raises
DISCHARGE_TIMEOUT; forced discharge ends with the regulator off; a retry, unless a rail is stuck high, enters BOOT with the
latch record cleared and RETRY_CNT advanced; 60 s of RUN or EASE clear RETRY_CNT; t_REST ends the rest; PGOOD pins and safe-
state outputs are released, BY_REFLEX kept; an output that does not read low is recorded; a GB rail whose outputs are
asserted, and each of them reads low or is in FAULT, begins its disable. Out of its place each does nothing. -/
def Obligations.PowerDownEventsComplete : Prop :=
  ∀ (q : List Instr) (d : Device), canonical d = true →
    (∀ (n : BitVec 5) (x : Descent),
      d.seq.desc = some x →
      x.kind ≠ .fault →
      rstate d n.toNat = 4 →
      gateOpen d n.toNat = true →
      Completes (.offDelay n) q d (commonWith [.roofTime, .cycles, .core, .rails, .cl]) (eventsWith [W.SEQ_RSTATE,
        W.HC_STATUS, W.CL_RSTATUS, W.SUP_STATUS, W.SB_RSTATUS, W.LD_RSTATUS, W.GB_RSTATUS])
        fun e => (((rail e n.toNat).falling = true ∧ (rail e n.toNat).ph = .rampDown ∧ rstate e n.toNat = 6) ∨
      (railKind n.toNat = .gb ∧ (rail e n.toNat).waitBias = true ∧ flag e W.GB_RSTATUS_INTERLOCK_WAIT (n.toNat - 24) = true))
        ∧
          e.roofTime = max d.roofTime (x.tD + fld d W.SEQ_SLOT_OFF_OFF_DLY n.toNat * 1000) ∧
          ∀ k : Fin 32, k.val ≠ n.toNat → rail e k = rail d k) ∧
    (∀ (n : BitVec 5) (x : Descent),
      d.seq.desc = some x →
      x.kind ≠ .fault →
      rstate d n.toNat = 4 →
      gateOpen d n.toNat = false →
      Completes (.offDelay n) q d (commonWith [.roofTime, .cycles, .core, .rails, .cl]) (eventsWith [W.SEQ_RSTATE,
        W.HC_STATUS, W.CL_RSTATUS, W.SUP_STATUS, W.SB_RSTATUS, W.LD_RSTATUS, W.GB_RSTATUS])
        fun e => rstate e n.toNat = 5 ∧
          (rail e n.toNat).stopStart = e.roofTime) ∧
    (∀ (n : BitVec 5),
      rstate d n.toNat = 5 →
      gateOpen d n.toNat = false →
      Completes (.gateTimeout n) q d (commonWith [.roofTime, .cycles, .core, .rails, .cl]) (eventsWith [W.SEQ_RSTATE,
        W.SEQ_GATE_TIMEOUT, W.HC_STATUS, W.CL_RSTATUS, W.SUP_STATUS, W.SB_RSTATUS, W.LD_RSTATUS, W.GB_RSTATUS])
        fun e => maskBit e W.SEQ_GATE_TIMEOUT n.toNat = true ∧
          (((rail e n.toNat).falling = true ∧ rstate e n.toNat = 6) ∨
      (railKind n.toNat = .gb ∧ (rail e n.toNat).waitBias = true ∧ flag e W.GB_RSTATUS_INTERLOCK_WAIT (n.toNat - 24) = true))
        ∧
          ∀ k : Fin 32, k.val ≠ n.toNat → rail e k = rail d k) ∧
    (∀ (n : BitVec 5),
      (rail d n.toNat).falling = true →
      gbTimed d n.toNat = false →
      Completes (.railFallen n) q d (commonWith [.mode, .prev, .core, .rails, .seq, .cl, .adc, .link, .vly, .gauge, .rtc,
        .log, .fw]) none
        fun e => (rail e n.toNat).falling = false ∧
          (rail e n.toNat).forced = false ∧
          ((rail d n.toNat).fallFail = false → (rail e n.toNat).inDesc = false) ∧
          rstate e n.toNat = 0 ∧
          e.seq.lastFall = some d.roofTime) ∧
    (∀ (n : BitVec 5),
      ((rail d n.toNat).falling = false ∨ gbTimed d n.toNat = true) →
      (rail d n.toNat).above = true →
      Completes (.railFallen n) q d (commonWith [.mode, .prev, .core, .rails, .seq, .cl, .adc, .link, .vly, .gauge, .rtc,
        .log, .fw]) none
        fun e => (rail e n.toNat).above = false ∧
          e.seq.lastFall = some d.roofTime) ∧
    (∀ (n : BitVec 5),
      (rail d n.toNat).falling = true →
      (rail d n.toNat).fallFail = false →
      ((rail d n.toNat).inDesc = true ∨ (rail d n.toNat).gated = false) →
      beforeStep d n.toNat = false →
      Completes (.fallFail n) q d (commonWith [.mode, .prev, .roofTime, .cycles, .core, .rails, .seq, .cl, .link, .vly,
        .gauge, .rtc, .log, .fw, .freeN]) none
        fun e => maskBit e W.SEQ_FALL_FAIL n.toNat = true ∧
          (rail e n.toNat).fallFail = true ∧
          (rail e n.toNat).above = true ∧
          raised (224 + n.toNat) d e = true) ∧
    (∀ (n : BitVec 5),
      (rail d n.toNat).forced = true →
      Completes (.forcedDischargeEnd n) q d (commonWith [.mode, .prev, .roofTime, .cycles, .core, .rails, .seq, .cl, .adc,
        .link, .vly, .gauge, .rtc, .log, .fw]) none
        fun e => (rail e n.toNat).forced = false ∧
          (rail e n.toNat).enabled = false ∧
          (rail e n.toNat).ref.dst = 0) ∧
    (d.mode = .latched →
      d.seq.retryWait = true →
      stuckHigh d = false →
      Completes .retryDelay q d (commonWith [.mode, .prev, .roofTime, .cycles, .core, .seq, .cl, .link, .vly, .gauge, .rtc,
        .log, .fw]) none
        fun e => e.mode = .boot ∧
          fld e W.MODE_STATUS_BOOT_STAGE = 3 ∧
          flag e W.MODE_STATUS_LATCH_HELD = false ∧
          fld e W.MODE_STATUS_LATCH_CAUSE = 0 ∧
          fld e W.SEQ_STATUS_RETRY_CNT = min (fld d W.SEQ_STATUS_RETRY_CNT + 1) 7 ∧
          e.seq.retryWait = false ∧
          e.seq.retryStart = true) ∧
    (inMode d [.run, .ease] = true →
      Completes .retryCntClear q d [.words] (some [W.SEQ_STATUS])
        fun e => fld e W.SEQ_STATUS_RETRY_CNT = 0) ∧
    (∀ (t : Nat),
      d.seq.lastFall = some t →
      Completes .tRest q d (commonWith [.roofTime, .cycles, .seq]) (eventsWith [W.SEQ_STATUS, W.SEQ_T0])
        fun e => e.roofTime = max d.roofTime (t + fld d W.SEQ_CTRL_T_REST * 100000) ∧
          fld e W.SEQ_STATUS_SEQ_STATE ≠ 6) ∧
    (∀ (k : BitVec 2),
      pgoodMet d k.toNat = true →
      Completes (.pgoodRelease k) q d [.words, .roofTime, .cycles, .core, .ev, .perf] (some [W.PC_OVF])
        fun e => e.core = { d.core with pgood := d.core.pgood ||| 2 ^ k.toNat }) ∧
    (∀ (j : BitVec 2),
      (fld d W.SSO_STATUS_ASSERTED).testBit j.toNat = true →
      ssoMayRelease d j.toNat = true →
      Completes (.ssoRelease j) q d [.words] (some [W.SSO_STATUS])
        fun e => (fld e W.SSO_STATUS_ASSERTED).testBit j.toNat = false ∧
          fld e W.SSO_STATUS_BY_REFLEX = fld d W.SSO_STATUS_BY_REFLEX ∧
          (fld e W.SSO_STATUS_PIN).testBit j.toNat = true ∧
          (∀ k : Fin 4, k.val ≠ j.toNat → (fld e W.SSO_STATUS_ASSERTED).testBit k = (fld d W.SSO_STATUS_ASSERTED).testBit k)) ∧
    (∀ (j : BitVec 2),
      (fld d W.SSO_STATUS_ASSERTED).testBit j.toNat = true →
      Completes (.ssoFault j) q d common (eventsWith [W.SSO_STATUS])
        fun e => (fld e W.SSO_STATUS_FAULT).testBit j.toNat = true ∧
          raised 805 d e = true) ∧
    (∀ (n : BitVec 5) (low : BitVec 4),
      (rail d n.toNat).waitBias = true →
      ssoAsserted d n.toNat = true →
      assoc d n.toNat &&& (low.toNat ||| fld d W.SSO_STATUS_FAULT) = assoc d n.toNat →
      Completes (.interlockRelease n low) q d (commonWith [.roofTime, .cycles, .core, .rails, .cl]) (eventsWith
        [W.SEQ_RSTATE, W.HC_STATUS, W.CL_RSTATUS, W.SUP_STATUS, W.SB_RSTATUS, W.LD_RSTATUS, W.GB_RSTATUS])
        fun e => (rail e n.toNat).waitBias = false ∧
          (rail e n.toNat).falling = true ∧
          (rail e n.toNat).ph = .rampDown ∧
          rstate e n.toNat = 6 ∧
          ∀ k : Fin 32, k.val ≠ n.toNat → rail e k = rail d k) ∧
    (∀ (n : BitVec 5),
      (d.seq.desc.any (fun x => x.kind != .fault) && rstate d n.toNat = 4) = false →
      Completes (.offDelay n) q d (commonWith [.roofTime, .cycles, .core, .rails, .cl]) (eventsWith [W.SEQ_RSTATE,
        W.HC_STATUS, W.CL_RSTATUS, W.SUP_STATUS, W.SB_RSTATUS, W.LD_RSTATUS, W.GB_RSTATUS])
        fun e => e = d) ∧
    (∀ (n : BitVec 5),
      (rstate d n.toNat ≠ 5 ∨ gateOpen d n.toNat = true) →
      Completes (.gateTimeout n) q d (commonWith [.roofTime, .cycles, .core, .rails, .cl]) (eventsWith [W.SEQ_RSTATE,
        W.SEQ_GATE_TIMEOUT, W.HC_STATUS, W.CL_RSTATUS, W.SUP_STATUS, W.SB_RSTATUS, W.LD_RSTATUS, W.GB_RSTATUS])
        fun e => e = d) ∧
    (∀ (n : BitVec 5),
      ((rail d n.toNat).falling = false ∨ gbTimed d n.toNat = true) →
      (rail d n.toNat).above = false →
      Completes (.railFallen n) q d (commonWith [.mode, .prev, .core, .rails, .seq, .cl, .adc, .link, .vly, .gauge, .rtc,
        .log, .fw]) none
        fun e => e.rails = d.rails ∧
          e.seq = d.seq ∧
          e.mode = d.mode) ∧
    (∀ (n : BitVec 5),
      ((rail d n.toNat).falling && !(rail d n.toNat).fallFail && ((rail d n.toNat).inDesc || !(rail d n.toNat).gated) &&
        !beforeStep d n.toNat) = false →
      Completes (.fallFail n) q d (commonWith [.mode, .prev, .roofTime, .cycles, .core, .rails, .seq, .cl, .link, .vly,
        .gauge, .rtc, .log, .fw, .freeN]) none
        fun e => e = d) ∧
    (∀ (n : BitVec 5),
      (rail d n.toNat).forced = false →
      Completes (.forcedDischargeEnd n) q d (commonWith [.mode, .prev, .roofTime, .cycles, .core, .rails, .seq, .cl, .adc,
        .link, .vly, .gauge, .rtc, .log, .fw]) none
        fun e => e = d) ∧
    ((d.mode ≠ .latched ∨ d.seq.retryWait = false ∨ stuckHigh d = true) →
      Completes .retryDelay q d (commonWith [.mode, .prev, .roofTime, .cycles, .core, .seq, .cl, .link, .vly, .gauge, .rtc,
        .log, .fw]) none
        fun e => e = d) ∧
    (inMode d [.run, .ease] = false →
      Completes .retryCntClear q d [.words] (some [W.SEQ_STATUS])
        fun e => e = d) ∧
    (d.seq.lastFall = none →
      Completes .tRest q d (commonWith [.roofTime, .cycles, .seq]) (eventsWith [W.SEQ_STATUS, W.SEQ_T0])
        fun e => e = d) ∧
    (∀ (k : BitVec 2),
      pgoodMet d k.toNat = false →
      Completes (.pgoodRelease k) q d [.words, .roofTime, .cycles, .core, .ev, .perf] (some [W.PC_OVF])
        fun e => e = d) ∧
    (∀ (j : BitVec 2),
      ((fld d W.SSO_STATUS_ASSERTED).testBit j.toNat && ssoMayRelease d j.toNat) = false →
      Completes (.ssoRelease j) q d [.words] (some [W.SSO_STATUS])
        fun e => e = d) ∧
    (∀ (j : BitVec 2),
      (fld d W.SSO_STATUS_ASSERTED).testBit j.toNat = false →
      Completes (.ssoFault j) q d common (eventsWith [W.SSO_STATUS])
        fun e => e = d) ∧
    (∀ (n : BitVec 5) (low : BitVec 4),
      ((rail d n.toNat).waitBias && ssoAsserted d n.toNat && (assoc d n.toNat &&& (low.toNat ||| fld d W.SSO_STATUS_FAULT) =
        assoc d n.toNat)) = false →
      Completes (.interlockRelease n low) q d (commonWith [.roofTime, .cycles, .core, .rails, .cl]) (eventsWith
        [W.SEQ_RSTATE, W.HC_STATUS, W.CL_RSTATUS, W.SUP_STATUS, W.SB_RSTATUS, W.LD_RSTATUS, W.GB_RSTATUS])
        fun e => e = d)

/-- A failing HC phase of a serving channel latches its cause, leaves its rail's mask, counts as dropped and raises the rail's
PHASE_FAULT, and a rail left with no phase raises its UV source and takes its UV action; a channel that does not serve, a
cause that does not exist, and an open phase with no other serving one change nothing. SYNC_IN of four good periods qualifies
with the last period and its frequency, and each configured switching rail is judged against its lock range; it is lost, with
every rail unlocked; a rail judges it again and is locked to, or is out of range and unlocked. A brake event of a rail that
may brake sets BRAKING and is counted; one of a rail in soft start, with a falling reference, already braking or not yet re-
armed does nothing; a brake event ends. Each row says also where it changes nothing. -/
def Obligations.RegulatorEventsComplete : Prop :=
  ∀ (q : List Instr) (d : Device), canonical d = true →
    (∀ (k : BitVec 2) (cause : BitVec 3) (n : Fin 4) (rest : Nat),
      hcLeader d k.toNat = n →
      (fld d W.HC_STATUS_PH_MASK n).testBit k.toNat = true →
      cause ≠ 0#3 →
      cause ≠ 7#3 →
      rest = setBitNat (fld d W.HC_STATUS_PH_MASK n) k.toNat false →
      (cause ≠ 1#3 ∨ rest ≠ 0) →
      Completes (.hcPhaseFail k cause) q d (commonWith [.mode, .prev, .roofTime, .cycles, .core, .rails, .seq, .cl, .adc,
        .link, .vly, .gauge, .rtc, .log, .fw, .freeN]) none
        fun e => fld e W.HC_PH_CAUSE_CAUSE k.toNat = cause.toNat ∧
          fld e W.HC_STATUS_PH_MASK n = rest ∧
          fld e W.HC_STATUS_PH_DROPPED n = setBitNat (fld d W.HC_STATUS_PH_DROPPED n) k.toNat true ∧
          raised (160 + n) d e = true ∧
          (rest ≠ 0 → e.rails = d.rails) ∧
          (rest = 0 → raised (32 + n) d e = true) ∧
          (rest = 0 → fld d W.SUP_ACT_UV_ACT n = 0 ∨ flag e W.SUP_STATUS_FAULT_LATCH n = true)) ∧
    (∀ (k : BitVec 2) (cause : BitVec 3) (n : Fin 4),
      hcLeader d k.toNat = n →
      ((fld d W.HC_STATUS_PH_MASK n).testBit k.toNat = false ∨ cause = 0#3 ∨ cause = 7#3 ∨ (cause = 1#3 ∧ setBitNat (fld d
        W.HC_STATUS_PH_MASK n) k.toNat false = 0)) →
      Completes (.hcPhaseFail k cause) q d (commonWith [.mode, .prev, .roofTime, .cycles, .core, .rails, .seq, .cl, .adc,
        .link, .vly, .gauge, .rtc, .log, .fw, .freeN]) none
        fun e => getW e (W.HC_STATUS + 32 * n) = getW d (W.HC_STATUS + 32 * n) ∧
          fld e W.HC_PH_CAUSE_CAUSE k.toNat = fld d W.HC_PH_CAUSE_CAUSE k.toNat ∧
          e.rails = d.rails ∧
          e.seq = d.seq) ∧
    (∀ (periods : List (BitVec 16)) (p : Nat) (k : Fin 18),
      flag d W.SYNC_CFG_SYNC_EN = true →
      flag d W.SYNC_STATUS_SYNC_VALID = false →
      syncGood (periods.map (·.toNat)) = true →
      p = (periods.map (·.toNat)).getLastD 0 →
      Completes (.syncQualified periods) q d (commonWith [.core]) (eventsWith [W.HC_STATUS, W.CL_RSTATUS, W.SB_RSTATUS,
        W.SYNC_STATUS])
        fun e => flag e W.SYNC_STATUS_SYNC_VALID = true ∧
          fld e W.SYNC_STATUS_PERIOD = p ∧
          fld e W.SYNC_STATUS_FSYNC = 400000 / p ∧
          raised 752 d e = true ∧
          (configured d k = true → syncRange e k = !inLockRange d k p)) ∧
    (∀ (periods : List (BitVec 16)),
      (flag d W.SYNC_CFG_SYNC_EN = false ∨ flag d W.SYNC_STATUS_SYNC_VALID = true ∨ syncGood (periods.map (·.toNat)) = false)
        →
      Completes (.syncQualified periods) q d (commonWith [.core]) (eventsWith [W.HC_STATUS, W.CL_RSTATUS, W.SB_RSTATUS,
        W.SYNC_STATUS])
        fun e => e = d) ∧
    (∀ (k : Fin 4) (j : Fin 8) (m : Fin 6) (n : Fin 18),
      flag d W.SYNC_STATUS_SYNC_VALID = true →
      Completes .syncLost q d (commonWith [.core]) (eventsWith [W.HC_STATUS, W.CL_RSTATUS, W.SB_RSTATUS, W.SYNC_STATUS])
        fun e => flag e W.SYNC_STATUS_SYNC_VALID = false ∧
          e.core.relock = 0 ∧
          flag e W.HC_STATUS_SYNC_LOCKED k = false ∧
          flag e W.CL_RSTATUS_SYNC_LOCKED j = false ∧
          flag e W.SB_RSTATUS_SYNC_LOCKED m = false ∧
          syncRange e n = false ∧
          raised 753 d e = true) ∧
    (flag d W.SYNC_STATUS_SYNC_VALID = false →
      Completes .syncLost q d (commonWith [.core]) (eventsWith [W.HC_STATUS, W.CL_RSTATUS, W.SB_RSTATUS, W.SYNC_STATUS])
        fun e => e = d) ∧
    (∀ (n : BitVec 5),
      flag d W.SYNC_STATUS_SYNC_VALID = true →
      n.toNat < 18 →
      (rail d n.toNat).enabled = true →
      inLockRange d n.toNat (fld d W.SYNC_STATUS_PERIOD) = true →
      Completes (.syncRequalify n) q d (commonWith [.core]) (eventsWith [W.HC_STATUS, W.CL_RSTATUS, W.SB_RSTATUS])
        fun e => e.core.relock.testBit n.toNat = true ∧
          syncRange e n.toNat = false) ∧
    (∀ (n : BitVec 5),
      flag d W.SYNC_STATUS_SYNC_VALID = true →
      n.toNat < 18 →
      (rail d n.toNat).enabled = true →
      inLockRange d n.toNat (fld d W.SYNC_STATUS_PERIOD) = false →
      Completes (.syncRequalify n) q d (commonWith [.core]) (eventsWith [W.HC_STATUS, W.CL_RSTATUS, W.SB_RSTATUS])
        fun e => syncRange e n.toNat = true ∧
          e.core.relock.testBit n.toNat = false ∧
          (n.toNat < 4 → flag e W.HC_STATUS_SYNC_LOCKED n.toNat = false) ∧
          (4 ≤ n.toNat → n.toNat < 12 → flag e W.CL_RSTATUS_SYNC_LOCKED (n.toNat - 4) = false) ∧
          (12 ≤ n.toNat → flag e W.SB_RSTATUS_SYNC_LOCKED (n.toNat - 12) = false) ∧
          (syncRange d n.toNat = true ∨ raised 754 d e = true)) ∧
    (∀ (n : BitVec 5),
      (flag d W.SYNC_STATUS_SYNC_VALID = false ∨ 18 ≤ n.toNat ∨ (rail d n.toNat).enabled = false) →
      Completes (.syncRequalify n) q d (commonWith [.core]) (eventsWith [W.HC_STATUS, W.CL_RSTATUS, W.SB_RSTATUS])
        fun e => e = d) ∧
    (∀ (n : BitVec 5),
      d.core.relock.testBit n.toNat = true →
      (rail d n.toNat).enabled = true →
      Completes (.syncLocked n) q d [.words, .core] (some [W.HC_STATUS, W.CL_RSTATUS, W.SB_RSTATUS])
        fun e => e.core.relock.testBit n.toNat = false ∧
          (n.toNat < 4 → flag e W.HC_STATUS_SYNC_LOCKED n.toNat = true) ∧
          (4 ≤ n.toNat → n.toNat < 12 → flag e W.CL_RSTATUS_SYNC_LOCKED (n.toNat - 4) = true) ∧
          (12 ≤ n.toNat → n.toNat < 18 → flag e W.SB_RSTATUS_SYNC_LOCKED (n.toNat - 12) = true)) ∧
    (∀ (n : BitVec 5),
      (d.core.relock.testBit n.toNat = false ∨ (rail d n.toNat).enabled = false) →
      Completes (.syncLocked n) q d [.words, .core] (some [W.HC_STATUS, W.CL_RSTATUS, W.SB_RSTATUS])
        fun e => e = d) ∧
    (∀ (n : BitVec 5) (below : Bool),
      brakeEn d n.toNat = true →
      (rail d n.toNat).enabled = true →
      (rail d n.toNat).ph ≠ .rampUp →
      refFalling d n.toNat = false →
      braking d n.toNat = false →
      below = true →
      Completes (.brakeStart n below) q d [.words] (some [W.HC_STATUS, W.HC_BRAKE_CNT, W.CL_RSTATUS, W.CL_BRAKE_CNT,
        W.SB_RSTATUS])
        fun e => braking e n.toNat = true ∧
          (n.toNat < 4 → fld e W.HC_BRAKE_CNT_BRAKES n.toNat = min (fld d W.HC_BRAKE_CNT_BRAKES n.toNat + 1) 65535) ∧
          (4 ≤ n.toNat → n.toNat < 12 → fld e W.CL_BRAKE_CNT_BRAKES (n.toNat - 4)
      = min (fld d W.CL_BRAKE_CNT_BRAKES (n.toNat - 4) + 1) 65535)) ∧
    (∀ (n : BitVec 5) (below : Bool),
      (brakeEn d n.toNat = false ∨ (rail d n.toNat).enabled = false ∨ (rail d n.toNat).ph = .rampUp ∨ refFalling d n.toNat =
        true ∨ braking d n.toNat = true ∨ below = false) →
      Completes (.brakeStart n below) q d [.words] (some [W.HC_STATUS, W.HC_BRAKE_CNT, W.CL_RSTATUS, W.CL_BRAKE_CNT,
        W.SB_RSTATUS])
        fun e => e = d) ∧
    (∀ (n : BitVec 5),
      Completes (.brakeEnd n) q d [.words] (some [W.HC_STATUS, W.CL_RSTATUS, W.SB_RSTATUS])
        fun e => braking e n.toNat = false)

/-- A short of an enabled rail latches, gates the rail, raises its OC source and drives its outputs low. An open secondary of
a switching rail sets OPEN and raises PG_LOST; the rail keeps switching under REPORT, and is gated and latched under another
OPEN_ACT; the condition going away clears OPEN. The lockout of a bank stops its enabled drivers, raises their UV sources and
drives their outputs low, and its release starts them again with the duty ramp, those that are falling apart. A duty ramp ends
at the nominal voltage or with the rail off, at its own time. 100 microseconds after its switches are off a GB rail without
auxiliary sense has fallen. Outside these conditions each row changes nothing of the rails. -/
def Obligations.GateBiasEventsComplete : Prop :=
  ∀ (q : List Instr) (d : Device), canonical d = true →
    (∀ (k : BitVec 3) (n : Nat),
      n = 24 + k.toNat →
      (rail d n).enabled = true →
      Completes (.gbShort k) q d (commonWith [.mode, .prev, .roofTime, .cycles, .core, .rails, .seq, .cl, .adc, .link, .vly,
        .gauge, .rtc, .log, .fw, .freeN]) none
        fun e => flag e W.GB_RSTATUS_LIMIT k.toNat = true ∧
          flag e W.SUP_STATUS_OC_LAT n = true ∧
          flag e W.SUP_STATUS_FAULT_LATCH n = true ∧
          (rail e n).enabled = false ∧
          (rail e n).pg = false ∧
          flag e W.GB_RSTATUS_SWITCHING k.toNat = false ∧
          fld e W.SSO_STATUS_ASSERTED &&& assoc d n = assoc d n ∧
          fld e W.SSO_STATUS_BY_REFLEX &&& assoc d n = assoc d n ∧
          raised (64 + n) d e = true) ∧
    (∀ (k : BitVec 3),
      (rail d (24 + k.toNat)).enabled = false →
      Completes (.gbShort k) q d (commonWith [.mode, .prev, .roofTime, .cycles, .core, .rails, .seq, .cl, .adc, .link, .vly,
        .gauge, .rtc, .log, .fw, .freeN]) none
        fun e => e.rails = d.rails ∧
          e.seq = d.seq ∧
          getW e (W.SUP_STATUS + 32 * (24 + k.toNat)) = getW d (W.SUP_STATUS + 32 * (24 + k.toNat))) ∧
    (∀ (k : BitVec 3) (present : Bool) (n : Nat),
      n = 24 + k.toNat →
      present = true →
      (rail d n).enabled = true →
      (rail d n).ph = .still →
      fld d W.GB_ILIM_ILO k.toNat ≠ 0 →
      flag d W.GB_RSTATUS_SWITCHING k.toNat = true →
      flag d W.GB_RSTATUS_OPEN k.toNat = false →
      Completes (.gbOpen k present) q d (commonWith [.mode, .prev, .roofTime, .cycles, .core, .rails, .seq, .cl, .adc, .link,
        .vly, .gauge, .rtc, .log, .fw, .freeN]) none
        fun e => (fld d W.SUP_ACT_OPEN_ACT n = 0 → flag e W.GB_RSTATUS_OPEN k.toNat = true) ∧
          (fld d W.SUP_ACT_OPEN_ACT n = 0 → e.rails = d.rails) ∧
          (fld d W.SUP_ACT_OPEN_ACT n = 0 → flag e W.GB_RSTATUS_SWITCHING k.toNat = true) ∧
          (fld d W.SUP_ACT_OPEN_ACT n ≠ 0 → flag e W.SUP_STATUS_FAULT_LATCH n = true) ∧
          (fld d W.SUP_ACT_OPEN_ACT n ≠ 0 → (rail e n).gated = true) ∧
          raised (96 + n) d e = true) ∧
    (∀ (k : BitVec 3) (present : Bool),
      present = false →
      Completes (.gbOpen k present) q d (commonWith [.mode, .prev, .roofTime, .cycles, .core, .rails, .seq, .cl, .adc, .link,
        .vly, .gauge, .rtc, .log, .fw, .freeN]) none
        fun e => flag e W.GB_RSTATUS_OPEN k.toNat = false ∧
          e.rails = d.rails ∧
          e.seq = d.seq) ∧
    (∀ (k : BitVec 3) (present : Bool) (n : Nat),
      n = 24 + k.toNat →
      present = true →
      ((rail d n).enabled = false ∨ (rail d n).ph ≠ .still ∨ fld d W.GB_ILIM_ILO k.toNat = 0 ∨ flag d W.GB_RSTATUS_SWITCHING
        k.toNat = false ∨ flag d W.GB_RSTATUS_OPEN k.toNat = true) →
      Completes (.gbOpen k present) q d (commonWith [.mode, .prev, .roofTime, .cycles, .core, .rails, .seq, .cl, .adc, .link,
        .vly, .gauge, .rtc, .log, .fw, .freeN]) none
        fun e => e = d) ∧
    (∀ (bank : Bool) (k : Fin 4) (n : Nat),
      n = (if bank then 28 else 24) + k →
      d.core.gbLock.testBit (bankBit bank) = false →
      Completes (.gbUvlo bank) q d (commonWith [.core]) (eventsWith [W.HC_STATUS, W.CL_RSTATUS, W.SB_RSTATUS, W.LD_RSTATUS,
        W.GB_RSTATUS, W.SSO_STATUS])
        fun e => gbLocked e n = true ∧
          ((rail d n).enabled = true → flag e W.GB_RSTATUS_SWITCHING (n - 24) = false) ∧
          ((rail d n).enabled = true → fld e W.SSO_STATUS_ASSERTED &&& assoc d n = assoc d n) ∧
          ((rail d n).enabled = true → raised (32 + n) d e = true) ∧
          e.rails = d.rails) ∧
    (∀ (bank : Bool),
      d.core.gbLock.testBit (bankBit bank) = true →
      Completes (.gbUvlo bank) q d (commonWith [.core]) (eventsWith [W.HC_STATUS, W.CL_RSTATUS, W.SB_RSTATUS, W.LD_RSTATUS,
        W.GB_RSTATUS, W.SSO_STATUS])
        fun e => e = d) ∧
    (∀ (bank : Bool) (k : Fin 4) (n : Nat),
      n = (if bank then 28 else 24) + k →
      (rail d n).enabled = true →
      (rail d n).falling = false →
      flag d W.GB_RSTATUS_SWITCHING (n - 24) = false →
      Completes (.gbUvloRelease bank) q d [.words, .core, .rails] (some [W.HC_STATUS, W.CL_RSTATUS, W.SB_RSTATUS,
        W.LD_RSTATUS, W.GB_RSTATUS])
        fun e => gbLocked e n = false ∧
          flag e W.GB_RSTATUS_SWITCHING (n - 24) = true ∧
          (rail e n).ph = .rampUp ∧
          (rail e n).ref = { frm := 0, dst := setPoint d n, start := d.roofTime, dur := rampTicks d n }) ∧
    (∀ (bank : Bool) (k : Fin 4) (n : Nat),
      n = (if bank then 28 else 24) + k →
      ((rail d n).enabled = false ∨ (rail d n).falling = true ∨ flag d W.GB_RSTATUS_SWITCHING (n - 24) = true) →
      Completes (.gbUvloRelease bank) q d [.words, .core, .rails] (some [W.HC_STATUS, W.CL_RSTATUS, W.SB_RSTATUS,
        W.LD_RSTATUS, W.GB_RSTATUS])
        fun e => gbLocked e n = false ∧
          rail e n = rail d n ∧
          flag e W.GB_RSTATUS_SWITCHING (n - 24) = flag d W.GB_RSTATUS_SWITCHING (n - 24)) ∧
    (∀ (k : BitVec 3) (n : Nat),
      n = 24 + k.toNat →
      (rail d n).ph = .rampUp →
      d.seq.holdFrom = none →
      gbLocked d n = false →
      Completes (.gbRampDone k) q d (commonWith [.roofTime, .cycles, .core, .rails, .cl, .adc]) (eventsWith [W.HC_STATUS,
        W.CL_RSTATUS, W.SB_RSTATUS, W.LD_RSTATUS, W.GB_RSTATUS, W.PH_STATUS, W.CL_STATUS, W.DRILL_RESULT])
        fun e => (rail e n).ph = .still ∧
          refNow e n = (rail d n).ref.dst ∧
          flag e W.GB_RSTATUS_RAMPING k.toNat = false ∧
          e.roofTime = max d.roofTime ((rail d n).ref.start + (rail d n).ref.dur) ∧
          ∀ j : Fin 32, j.val ≠ n → rail e j = rail d j) ∧
    (∀ (k : BitVec 3) (n : Nat),
      n = 24 + k.toNat →
      (rail d n).ph = .rampDown →
      Completes (.gbRampDone k) q d (commonWith [.roofTime, .cycles, .core, .rails, .cl, .adc]) (eventsWith [W.HC_STATUS,
        W.CL_RSTATUS, W.SB_RSTATUS, W.LD_RSTATUS, W.GB_RSTATUS, W.PH_STATUS, W.CL_STATUS, W.DRILL_RESULT])
        fun e => (rail e n).ph = .still ∧
          (rail e n).enabled = false ∧
          flag e W.GB_RSTATUS_SWITCHING k.toNat = false ∧
          e.roofTime = max d.roofTime ((rail d n).ref.start + (rail d n).ref.dur) ∧
          ∀ j : Fin 32, j.val ≠ n → rail e j = rail d j) ∧
    (∀ (k : BitVec 3) (n : Nat),
      n = 24 + k.toNat →
      (rail d n).ph ≠ .rampDown →
      ((rail d n).ph ≠ .rampUp ∨ d.seq.holdFrom ≠ none ∨ gbLocked d n = true) →
      Completes (.gbRampDone k) q d (commonWith [.roofTime, .cycles, .core, .rails, .cl, .adc]) (eventsWith [W.HC_STATUS,
        W.CL_RSTATUS, W.SB_RSTATUS, W.LD_RSTATUS, W.GB_RSTATUS, W.PH_STATUS, W.CL_STATUS, W.DRILL_RESULT])
        fun e => e = d) ∧
    (∀ (k : BitVec 3) (n : Nat),
      n = 24 + k.toNat →
      flag d W.GB_CFG_AUX_EN k.toNat = false →
      (rail d n).enabled = false →
      (rail d n).falling = true →
      Completes (.gbOffCounted k) q d (commonWith [.mode, .prev, .roofTime, .cycles, .core, .rails, .seq, .cl, .adc, .link,
        .vly, .gauge, .rtc, .log, .fw]) none
        fun e => (rail e n).falling = false ∧
          rstate e n = 0 ∧
          e.seq.lastFall = some (max d.roofTime ((rail d n).ref.start + 10000))) ∧
    (∀ (k : BitVec 3),
      (flag d W.GB_CFG_AUX_EN k.toNat = true ∨ (rail d (24 + k.toNat)).enabled = true ∨ (rail d (24 + k.toNat)).falling =
        false) →
      Completes (.gbOffCounted k) q d (commonWith [.mode, .prev, .roofTime, .cycles, .core, .rails, .seq, .cl, .adc, .link,
        .vly, .gauge, .rtc, .log, .fw]) none
        fun e => e = d)

/-- A phase that serves or is shed and fails (causes 1 to 6) is recorded and raises PHASE_FAULT. With the spare idle and no
stop of its rail begun a handover begins, a phase that failed hard being high-impedance at once; a spare away on another rail
is freed first, ending the drill or letting the resting phase serve; a phase of the rail that the spare visits in rotation is
replaced by the resting one, the spare staying engaged; otherwise the phase is dropped from its rail, and a rail left with
none raises its UV source and takes its UV action. Cause 7 only records the imbalance. A resting phase that fails is marked
and the spare stays engaged. A failing spare is marked and leaves whatever it did: an engaged spare counts as dropped from its
rail, a handover for a failure drops the failed phase, a drill ends with result 7. Of phases that fail together the one whose
rail would keep fewest takes the spare. What is no failure (a phase that failed already, has no role, does not work, no such
phase or cause, an open phase that nothing tells) changes nothing. A match counts in time only (2,000 cycles, or 2,200 when
the spare was freed for it) and once, and begins a drill's handover whose conditions hold; the engaged spare serves the rail
and raises SPARE_ENGAGED, as each kind of handover says; without a match HANDOVER_FAIL is set, the spare has failed, with
cause 9 or in a drill 8, and the failed phase is dropped or the drill ends. -/
def Obligations.ClusterFailuresComplete : Prop :=
  ∀ (q : List Instr) (d : Device), canonical d = true →
    (∀ (fails : List (BitVec 4 × BitVec 3)) (p : Fin 10) (cause : Fin 7) (n r sp : Nat),
      fails = [(BitVec.ofNat 4 p, BitVec.ofNat 3 cause)] →
      cause.val ≠ 0 →
      r = fld d W.PH_CFG_ROLE p →
      r < 4 →
      n = 4 + 4 * (p / 5) + r →
      (fld d W.PH_STATUS_STATE p = 1 ∨ fld d W.PH_STATUS_STATE p = 7) →
      flag d W.PH_STATUS_FAILED p = false →
      (cause.val ≠ 1 ∨ openTold d p = true) →
      stopBegun d n = false →
      spareIdle d (p / 5) = some sp →
      Completes (.clusterPhaseFail fails) q d (commonWith [.mode, .prev, .roofTime, .cycles, .core, .rails, .seq, .cl, .adc,
        .link, .vly, .gauge, .rtc, .log, .fw, .freeN]) none
        fun e => flag e W.PH_STATUS_FAILED p = true ∧
          fld e W.PH_STATUS_CAUSE p = cause ∧
          (clus e (p / 5)).ho = some { kind := if cause.val ≤ 3 then 1 else 2, target := r, phase := some p.val } ∧
          fld e W.PH_STATUS_STATE sp = 3 ∧
          (cause.val ≤ 3 → fld e W.PH_STATUS_STATE p = 6) ∧
          (cause.val ≤ 3 → fld e W.CL_RSTATUS_PH_MASK (n - 4) = setBitNat (fld d W.CL_RSTATUS_PH_MASK (n - 4)) (p % 5) false)
            ∧
          (3 < cause.val → fld e W.PH_STATUS_STATE p = fld d W.PH_STATUS_STATE p) ∧
          (3 < cause.val → fld e W.CL_RSTATUS_PH_MASK (n - 4) = fld d W.CL_RSTATUS_PH_MASK (n - 4)) ∧
          raised (160 + n) d e = true ∧
          e.rails = d.rails) ∧
    (∀ (fails : List (BitVec 4 × BitVec 3)) (p : Fin 10) (cause : Fin 7) (n r sp : Nat),
      fails = [(BitVec.ofNat 4 p, BitVec.ofNat 3 cause)] →
      cause.val ≠ 0 →
      r = fld d W.PH_CFG_ROLE p →
      r < 4 →
      n = 4 + 4 * (p / 5) + r →
      (fld d W.PH_STATUS_STATE p = 1 ∨ fld d W.PH_STATUS_STATE p = 7) →
      flag d W.PH_STATUS_FAILED p = false →
      (cause.val ≠ 1 ∨ openTold d p = true) →
      stopBegun d n = false →
      spareAway d (p / 5) r = true →
      sparePhase d (p / 5) = some sp →
      flag d W.CL_STATUS_SPARE_FAILED (p / 5) = false →
      (clus d (p / 5)).ho = none →
      Completes (.clusterPhaseFail fails) q d (commonWith [.mode, .prev, .roofTime, .cycles, .core, .rails, .seq, .cl, .adc,
        .link, .vly, .gauge, .rtc, .log, .fw, .freeN]) none
        fun e => flag e W.PH_STATUS_FAILED p = true ∧
          fld e W.PH_STATUS_CAUSE p = cause ∧
          (clus e (p / 5)).ho = some
            { kind := if cause.val ≤ 3 then 1 else 2, target := r, phase := some p.val, late := true } ∧
          fld e W.PH_STATUS_STATE sp = 3 ∧
          flag e W.CL_STATUS_STEER_CLOSED (p / 5) = false ∧
          (clus e (p / 5)).rest = none ∧
          (clus e (p / 5)).drill = none ∧
          ((clus d (p / 5)).drill = none ∨ fld e W.DRILL_RESULT_RESULT (p / 5) = 7) ∧
          raised (160 + n) d e = true ∧
          e.rails = d.rails) ∧
    (∀ (fails : List (BitVec 4 × BitVec 3)) (p q2 : Fin 10) (cause : Fin 7) (n r : Nat),
      fails = [(BitVec.ofNat 4 p, BitVec.ofNat 3 cause)] →
      cause.val ≠ 0 →
      r = fld d W.PH_CFG_ROLE p →
      r < 4 →
      n = 4 + 4 * (p / 5) + r →
      (fld d W.PH_STATUS_STATE p = 1 ∨ fld d W.PH_STATUS_STATE p = 7) →
      flag d W.PH_STATUS_FAILED p = false →
      (cause.val ≠ 1 ∨ openTold d p = true) →
      stopBegun d n = false →
      (clus d (p / 5)).rest = some q2.val →
      q2 ≠ p →
      flag d W.CL_STATUS_STEER_CLOSED (p / 5) = true →
      fld d W.CL_STATUS_SPARE_RAIL (p / 5) = r →
      Completes (.clusterPhaseFail fails) q d (commonWith [.mode, .prev, .roofTime, .cycles, .core, .rails, .seq, .cl, .adc,
        .link, .vly, .gauge, .rtc, .log, .fw, .freeN]) none
        fun e => flag e W.PH_STATUS_FAILED p = true ∧
          fld e W.PH_STATUS_CAUSE p = cause ∧
          fld e W.PH_STATUS_STATE p = 6 ∧
          (fld e W.CL_RSTATUS_PH_MASK (n - 4)).testBit (p % 5) = false ∧
          fld e W.PH_STATUS_STATE q2 = 1 ∧
          flag e W.CL_STATUS_SPARE_ENGAGED (p / 5) = true ∧
          flag e W.CL_STATUS_ROT_ACTIVE (p / 5) = false ∧
          (clus e (p / 5)).rest = none ∧
          (clus e (p / 5)).trading = false ∧
          raised (160 + n) d e = true ∧
          e.rails = d.rails) ∧
    (∀ (fails : List (BitVec 4 × BitVec 3)) (p : Fin 10) (cause : Fin 7) (n r rest : Nat),
      fails = [(BitVec.ofNat 4 p, BitVec.ofNat 3 cause)] →
      cause.val ≠ 0 →
      r = fld d W.PH_CFG_ROLE p →
      r < 4 →
      n = 4 + 4 * (p / 5) + r →
      (fld d W.PH_STATUS_STATE p = 1 ∨ fld d W.PH_STATUS_STATE p = 7) →
      flag d W.PH_STATUS_FAILED p = false →
      (cause.val ≠ 1 ∨ openTold d p = true) →
      (stopBegun d n = true ∨ (spareIdle d (p / 5) = none ∧ spareAway d (p / 5) r = false ∧ ((clus d (p / 5)).rest = none ∨
        flag d W.CL_STATUS_STEER_CLOSED (p / 5) = false ∨ fld d W.CL_STATUS_SPARE_RAIL (p / 5) ≠ r))) →
      rest = setBitNat (fld d W.CL_RSTATUS_PH_MASK (n - 4)) (p % 5) false →
      Completes (.clusterPhaseFail fails) q d (commonWith [.mode, .prev, .roofTime, .cycles, .core, .rails, .seq, .cl, .adc,
        .link, .vly, .gauge, .rtc, .log, .fw, .freeN]) none
        fun e => flag e W.PH_STATUS_FAILED p = true ∧
          fld e W.PH_STATUS_CAUSE p = cause ∧
          fld e W.PH_STATUS_STATE p = 6 ∧
          (fld e W.CL_RSTATUS_PH_DROPPED (n - 4)).testBit (p % 5) = true ∧
          fld e W.CL_RSTATUS_PH_MASK (n - 4) = rest ∧
          raised (160 + n) d e = true ∧
          ((rest ≠ 0 ∨ (rail d n).enabled = false) → e.rails = d.rails) ∧
          (rest = 0 → (rail d n).enabled = true → raised (32 + n) d e = true) ∧
          (rest = 0 → (rail d n).enabled = true → fld d W.SUP_ACT_UV_ACT n = 0 ∨ flag e W.SUP_STATUS_FAULT_LATCH n = true)) ∧
    (∀ (fails : List (BitVec 4 × BitVec 3)) (p : Fin 10) (i : Nat),
      fails = [(BitVec.ofNat 4 p, 7#3)] →
      flag d W.PH_STATUS_FAILED p = false →
      fld d W.PH_CFG_ROLE p ≤ 4 →
      (fld d W.PH_STATUS_STATE p = 1 ∨ fld d W.PH_STATUS_STATE p = 4) →
      fld d W.PH_STATUS_SERVING_RAIL p < 4 →
      i = 4 * (p / 5) + fld d W.PH_STATUS_SERVING_RAIL p →
      Completes (.clusterPhaseFail fails) q d (commonWith [.mode, .prev, .roofTime, .cycles, .core, .rails, .seq, .cl, .adc,
        .link, .vly, .gauge, .rtc, .log, .fw, .freeN]) none
        fun e => fld e W.PH_STATUS_CAUSE p = 7 ∧
          flag e W.PH_STATUS_FAILED p = false ∧
          fld e W.PH_STATUS_STATE p = fld d W.PH_STATUS_STATE p ∧
          flag e W.CL_RSTATUS_IMBAL i = true ∧
          fld e W.CL_RSTATUS_PH_MASK i = fld d W.CL_RSTATUS_PH_MASK i ∧
          raised (164 + i) d e = true ∧
          e.cl = d.cl ∧
          e.rails = d.rails) ∧
    (∀ (fails : List (BitVec 4 × BitVec 3)) (p : Fin 10) (cause : Fin 7),
      fails = [(BitVec.ofNat 4 p, BitVec.ofNat 3 cause)] →
      cause.val ≠ 0 →
      flag d W.PH_STATUS_FAILED p = false →
      fld d W.PH_CFG_ROLE p < 4 →
      fld d W.PH_STATUS_STATE p = 5 →
      (cause.val ≠ 1 ∨ openTold d p = true) →
      Completes (.clusterPhaseFail fails) q d (commonWith [.mode, .prev, .roofTime, .cycles, .core, .rails, .seq, .cl, .adc,
        .link, .vly, .gauge, .rtc, .log, .fw, .freeN]) none
        fun e => flag e W.PH_STATUS_FAILED p = true ∧
          fld e W.PH_STATUS_CAUSE p = cause ∧
          fld e W.PH_STATUS_STATE p = 6 ∧
          flag e W.CL_STATUS_SPARE_ENGAGED (p / 5) = true ∧
          flag e W.CL_STATUS_ROT_ACTIVE (p / 5) = false ∧
          (clus e (p / 5)).rest = none ∧
          (clus e (p / 5)).trading = false ∧
          raised (160 + phRail d p) d e = true ∧
          e.rails = d.rails) ∧
    (∀ (fails : List (BitVec 4 × BitVec 3)) (p : Fin 10) (cause : Fin 7) (c n : Nat),
      fails = [(BitVec.ofNat 4 p, BitVec.ofNat 3 cause)] →
      cause.val ≠ 0 →
      c = p / 5 →
      n = 4 + 4 * c + fld d W.CL_STATUS_SPARE_RAIL c →
      sparePhase d c = some p.val →
      flag d W.PH_STATUS_FAILED p = false →
      Completes (.clusterPhaseFail fails) q d (commonWith [.mode, .prev, .roofTime, .cycles, .core, .rails, .seq, .cl, .adc,
        .link, .vly, .gauge, .rtc, .log, .fw, .freeN]) none
        fun e => flag e W.PH_STATUS_FAILED p = true ∧
          fld e W.PH_STATUS_CAUSE p = cause ∧
          fld e W.PH_STATUS_STATE p = 6 ∧
          flag e W.CL_STATUS_SPARE_FAILED c = true ∧
          flag e W.CL_STATUS_SPARE_ENGAGED c = false ∧
          flag e W.CL_STATUS_STEER_CLOSED c = false ∧
          (clus e c).ho = none ∧
          (clus e c).rest = none ∧
          (clus e c).drill = none ∧
          ((clus d c).drill = none ∨ fld e W.DRILL_RESULT_RESULT c = 7) ∧
          (flag d W.CL_STATUS_STEER_CLOSED c = true → raised (160 + n) d e = true) ∧
          (flag d W.CL_STATUS_SPARE_ENGAGED c = true → n < 8 + 4 * c → (fld e W.CL_RSTATUS_PH_DROPPED (n - 4)).testBit (p %
            5) = true)) ∧
    (∀ (fails : List (BitVec 4 × BitVec 3)) (p q2 : Fin 10) (cause : Fin 7) (c : Nat) (h : Handover),
      fails = [(BitVec.ofNat 4 p, BitVec.ofNat 3 cause)] →
      cause.val ≠ 0 →
      c = p / 5 →
      sparePhase d c = some p.val →
      flag d W.PH_STATUS_FAILED p = false →
      (clus d c).ho = some h →
      (h.kind = 1 ∨ h.kind = 2) →
      h.phase = some q2.val →
      fld d W.PH_CFG_ROLE q2 < 4 →
      Completes (.clusterPhaseFail fails) q d (commonWith [.mode, .prev, .roofTime, .cycles, .core, .rails, .seq, .cl, .adc,
        .link, .vly, .gauge, .rtc, .log, .fw, .freeN]) none
        fun e => (fld e W.CL_RSTATUS_PH_DROPPED (phRail d q2 - 4)).testBit (q2 % 5) = true ∧
          fld e W.PH_STATUS_STATE q2 = 6 ∧
          (clus e c).ho = none) ∧
    (∀ (fails : List (BitVec 4 × BitVec 3)) (p q2 : Fin 10) (cp cq : Fin 7) (rp rq : Nat),
      fails = [(BitVec.ofNat 4 q2, BitVec.ofNat 3 cq), (BitVec.ofNat 4 p, BitVec.ofNat 3 cp)] →
      (2 ≤ cp.val ∧ 2 ≤ cq.val) →
      p.val / 5 = q2.val / 5 →
      rp = fld d W.PH_CFG_ROLE p →
      rq = fld d W.PH_CFG_ROLE q2 →
      (rp < 4 ∧ rq < 4) →
      (fld d W.PH_STATUS_STATE p = 1 ∧ fld d W.PH_STATUS_STATE q2 = 1) →
      (flag d W.PH_STATUS_FAILED p = false ∧ flag d W.PH_STATUS_FAILED q2 = false) →
      (stopBegun d (phRail d p) = false ∧ stopBegun d (phRail d q2) = false) →
      (spareIdle d (p / 5)).isSome = true →
      (keeps d [(q2, cq), (p, cp)] p < keeps d [(q2, cq), (p, cp)] q2 ∨ (keeps d [(q2, cq), (p, cp)] p = keeps d [(q2, cq),
        (p, cp)] q2 ∧ p < q2)) →
      Completes (.clusterPhaseFail fails) q d (commonWith [.mode, .prev, .roofTime, .cycles, .core, .rails, .seq, .cl, .adc,
        .link, .vly, .gauge, .rtc, .log, .fw, .freeN]) none
        fun e => flag e W.PH_STATUS_FAILED p = true ∧
          flag e W.PH_STATUS_FAILED q2 = true ∧
          (fld e W.CL_RSTATUS_PH_DROPPED (phRail d q2 - 4)).testBit (q2 % 5) = true ∧
          (fld d W.SUP_ACT_UV_ACT (phRail d q2) = 0 → (clus e (p / 5)).ho = some
            { kind := if cp.val ≤ 3 then 1 else 2, target := rp, phase := some p.val })) ∧
    (∀ (fails : List (BitVec 4 × BitVec 3)) (p : BitVec 4) (cause : BitVec 3),
      fails = [(p, cause)] →
      (10 ≤ p.toNat ∨ cause = 0#3 ∨ 4 < fld d W.PH_CFG_ROLE p.toNat ∨ flag d W.PH_STATUS_FAILED p.toNat = true ∨ (cause = 1#3
        ∧ openTold d p.toNat = false) ∨ (cause = 7#3 ∧ fld d W.PH_STATUS_STATE p.toNat ≠ 1 ∧ fld d W.PH_STATUS_STATE p.toNat
        ≠ 4) ∨ (cause ≠ 7#3 ∧ sparePhase d (p.toNat / 5) ≠ some p.toNat ∧ fld d W.PH_STATUS_STATE p.toNat ≠ 1 ∧ fld d
        W.PH_STATUS_STATE p.toNat ≠ 5 ∧ fld d W.PH_STATUS_STATE p.toNat ≠ 7)) →
      Completes (.clusterPhaseFail fails) q d (commonWith [.mode, .prev, .roofTime, .cycles, .core, .rails, .seq, .cl, .adc,
        .link, .vly, .gauge, .rtc, .log, .fw, .freeN]) none
        fun e => e.cl = d.cl ∧
          e.rails = d.rails ∧
          e.seq = d.seq ∧
          getW e (W.PH_STATUS + 32 * p.toNat) = getW d (W.PH_STATUS + 32 * p.toNat)) ∧
    (∀ (c : BitVec 1) (m : Nat) (h : Handover),
      (clus d c.toNat).ho = some h →
      h.matched = none →
      m ≤ (if h.late then 2200 else 2000) →
      Completes (.handoverMatch c m) q d [.words, .cl] (some [W.CL_RSTATUS, W.PH_STATUS, W.CL_STATUS])
        fun e => (clus e c.toNat).ho = some { h with matched := some m } ∧
          clus e (1 - c.toNat) = clus d (1 - c.toNat)) ∧
    (∀ (c : BitVec 1) (m : Nat) (h : Handover),
      (clus d c.toNat).ho = some h →
      (h.matched ≠ none ∨ (if h.late then 2200 else 2000) < m) →
      Completes (.handoverMatch c m) q d [.words, .cl] (some [W.CL_RSTATUS, W.PH_STATUS, W.CL_STATUS])
        fun e => e = d) ∧
    (∀ (c : BitVec 1) (m : Nat) (r sp : Nat),
      drillMayBegin d c.toNat = some r →
      sparePhase d c.toNat = some sp →
      Completes (.handoverMatch c m) q d [.words, .cl] (some [W.CL_RSTATUS, W.PH_STATUS, W.CL_STATUS])
        fun e => (clus e c.toNat).ho = some { kind := 4, target := r, matched := if m ≤ 2000 then some m else none } ∧
          flag e W.CL_STATUS_DRILL_ACTIVE c.toNat = true ∧
          fld e W.PH_STATUS_STATE sp = 3 ∧
          e.rails = d.rails) ∧
    (∀ (c : BitVec 1) (m : Nat),
      (clus d c.toNat).ho = none →
      drillMayBegin d c.toNat = none →
      Completes (.handoverMatch c m) q d [.words, .cl] (some [W.CL_RSTATUS, W.PH_STATUS, W.CL_STATUS])
        fun e => e = d) ∧
    (∀ (c : BitVec 1) (h : Handover) (m sp n : Nat),
      (clus d c.toNat).ho = some h →
      h.matched = some m →
      m ≤ 2200 →
      sparePhase d c.toNat = some sp →
      h.target < 4 →
      n = 4 + 4 * c.toNat + h.target →
      Completes (.spareEngaged c) q d (commonWith [.cl]) (eventsWith [W.CL_RSTATUS, W.PH_STATUS, W.PH_COUNT, W.CL_STATUS,
        W.DRILL_RESULT])
        fun e => flag e W.CL_STATUS_STEER_CLOSED c.toNat = true ∧
          fld e W.CL_STATUS_SPARE_RAIL c.toNat = h.target ∧
          flag e W.CL_RSTATUS_SPARE_ON (n - 4) = true ∧
          (fld e W.CL_RSTATUS_PH_MASK (n - 4)).testBit (sp % 5) = true ∧
          fld e W.PH_STATUS_STATE sp = 4 ∧
          fld e W.CL_STATUS_HO_CYCLES c.toNat = m + 202 ∧
          fld e W.PH_COUNT_HANDOVERS sp = min (fld d W.PH_COUNT_HANDOVERS sp + 1) 65535 ∧
          (clus e c.toNat).ho = none ∧
          (h.kind = 4 → (clus e c.toNat).holding = true) ∧
          (h.kind = 4 → fld e W.DRILL_RESULT_MATCH c.toNat = m) ∧
          ((h.kind = 1 ∨ h.kind = 2) → flag e W.CL_STATUS_SPARE_ENGAGED c.toNat = true) ∧
          raised (192 + n) d e = true ∧
          e.rails = d.rails) ∧
    (∀ (c : BitVec 1) (h : Handover) (m sp n : Nat) (p : Fin 10),
      (clus d c.toNat).ho = some h →
      h.matched = some m →
      sparePhase d c.toNat = some sp →
      h.target < 4 →
      n = 4 + 4 * c.toNat + h.target →
      h.phase = some p.val →
      p.val / 5 = c.toNat →
      p.val ≠ sp →
      Completes (.spareEngaged c) q d (commonWith [.cl]) (eventsWith [W.CL_RSTATUS, W.PH_STATUS, W.PH_COUNT, W.CL_STATUS,
        W.DRILL_RESULT])
        fun e => (h.kind = 2 → fld e W.PH_STATUS_STATE p = 6) ∧
          (h.kind = 2 → (fld e W.CL_RSTATUS_PH_MASK (n - 4)).testBit (p % 5) = false) ∧
          (h.kind = 3 → flag d W.PH_STATUS_FAILED p = false → fld e W.PH_STATUS_STATE p = 5) ∧
          (h.kind = 3 → flag d W.PH_STATUS_FAILED p = false → (fld e W.CL_RSTATUS_PH_MASK (n - 4)).testBit (p % 5) = false) ∧
          (h.kind = 3 → flag d W.PH_STATUS_FAILED p = false → (clus e c.toNat).rest = some p.val) ∧
          (h.kind = 3 → flag d W.PH_STATUS_FAILED p = false → flag e W.CL_STATUS_ROT_ACTIVE c.toNat = true) ∧
          (h.kind = 3 → flag d W.PH_STATUS_FAILED p = false → fld e W.PH_COUNT_ROT_COUNT p = min (fld d W.PH_COUNT_ROT_COUNT
            p + 1) 65535) ∧
          (h.kind = 3 → flag d W.PH_STATUS_FAILED p = true → flag e W.CL_STATUS_SPARE_ENGAGED c.toNat = true)) ∧
    (∀ (c : BitVec 1),
      ((clus d c.toNat).ho.all (fun h => h.matched.isNone) = true ∨ sparePhase d c.toNat = none) →
      Completes (.spareEngaged c) q d (commonWith [.cl]) (eventsWith [W.CL_RSTATUS, W.PH_STATUS, W.PH_COUNT, W.CL_STATUS,
        W.DRILL_RESULT])
        fun e => e = d) ∧
    (∀ (c : BitVec 1) (h : Handover) (sp : Nat),
      (clus d c.toNat).ho = some h →
      h.matched = none →
      sparePhase d c.toNat = some sp →
      Completes (.handoverFail c) q d (commonWith [.mode, .prev, .roofTime, .cycles, .core, .rails, .seq, .cl, .adc, .link,
        .vly, .gauge, .rtc, .log, .fw, .freeN]) none
        fun e => flag e W.CL_STATUS_HANDOVER_FAIL c.toNat = true ∧
          flag e W.CL_STATUS_SPARE_FAILED c.toNat = true ∧
          fld e W.PH_STATUS_CAUSE sp = (if h.kind = 4 then 8 else 9) ∧
          fld e W.PH_STATUS_STATE sp = 6 ∧
          flag e W.PH_STATUS_FAILED sp = true ∧
          (clus e c.toNat).ho = none ∧
          (h.kind = 4 → (clus d c.toNat).drill.isSome = true → fld e W.DRILL_RESULT_RESULT c.toNat = 2) ∧
          (h.kind = 4 → (clus e c.toNat).drill = none) ∧
          ((h.kind = 3 ∨ h.kind = 4) → e.rails = d.rails)) ∧
    (∀ (c : BitVec 1) (h : Handover) (p : Fin 10) (sp rest : Nat),
      (clus d c.toNat).ho = some h →
      h.matched = none →
      (h.kind = 1 ∨ h.kind = 2) →
      h.phase = some p.val →
      fld d W.PH_CFG_ROLE p < 4 →
      sparePhase d c.toNat = some sp →
      rest = setBitNat (fld d W.CL_RSTATUS_PH_MASK (phRail d p - 4)) (p % 5) false →
      Completes (.handoverFail c) q d (commonWith [.mode, .prev, .roofTime, .cycles, .core, .rails, .seq, .cl, .adc, .link,
        .vly, .gauge, .rtc, .log, .fw, .freeN]) none
        fun e => (fld e W.CL_RSTATUS_PH_DROPPED (phRail d p - 4)).testBit (p % 5) = true ∧
          fld e W.CL_RSTATUS_PH_MASK (phRail d p - 4) = rest ∧
          fld e W.PH_STATUS_STATE p = 6 ∧
          (rest = 0 → (rail d (phRail d p)).enabled = true → raised (32 + phRail d p) d e = true) ∧
          (rest = 0 → (rail d (phRail d p)).enabled = true → fld d W.SUP_ACT_UV_ACT (phRail d p) = 0 ∨ flag e
            W.SUP_STATUS_FAULT_LATCH (phRail d p) = true)) ∧
    (∀ (c : BitVec 1) (r sp : Nat) (k : Cmd),
      drillMayBegin d c.toNat = some r →
      sparePhase d c.toNat = some sp →
      d.eng.issued = [k] →
      k.op = 0x30 →
      bitsOf (k.p 0) 8 8 = c.toNat →
      Completes (.handoverFail c) q d (commonWith [.mode, .prev, .roofTime, .cycles, .core, .rails, .seq, .cl, .adc, .link,
        .vly, .gauge, .rtc, .log, .fw, .freeN]) none
        fun e => flag e W.CL_STATUS_HANDOVER_FAIL c.toNat = true ∧
          flag e W.CL_STATUS_SPARE_FAILED c.toNat = true ∧
          fld e W.PH_STATUS_CAUSE sp = 8 ∧
          fld e W.DRILL_RESULT_RESULT c.toNat = 2 ∧
          (clus e c.toNat).drill = none ∧
          reply k .hwFault (getW e (W.DRILL_RESULT + c.toNat)) 0#32 d e = true) ∧
    (∀ (c : BitVec 1),
      drillMayBegin d c.toNat = none →
      (clus d c.toNat).ho.all (fun h => h.matched.isSome) = true →
      Completes (.handoverFail c) q d (commonWith [.mode, .prev, .roofTime, .cycles, .core, .rails, .seq, .cl, .adc, .link,
        .vly, .gauge, .rtc, .log, .fw, .freeN]) none
        fun e => e = d)

/-- In EASE with ROT_EN the idle spare begins to take the hottest phase's place; when the resting phase is cooler than the
spare by ROT_DELTA or another phase is the hottest the resting phase serves again; at the release the spare is idle, or begins
to take the next phase's place. A rail with two phases or more sheds its hottest phase, an engaged spare among them, and
resumes the shed ones. SPARE_DRILL is judged in the gate's order (parameters, mode, a spare that may be drilled); accepted it
waits, or begins at once when its rail is power-good, still and lightly loaded; it times out 50 ms after its acceptance with
TIMEOUT, and its hold ends with the drill's verdict: 3 and 4 current, 5 power-good, 6 release, 1 passed, a failed drill
marking the spare with cause 8 and a passed one clearing causes 8 and 9. Outside these conditions each row changes nothing. -/
def Obligations.RotationAndDrillsComplete : Prop :=
  ∀ (q : List Instr) (d : Device), canonical d = true →
    (∀ (c : BitVec 1) (h sp : Nat),
      flag d W.CL_CTRL_ROT_EN c.toNat = true →
      d.mode = .ease →
      hottest d (clServing d c.toNat) = some h →
      spareIdle d c.toNat = some sp →
      (clus d c.toNat).rest = none →
      1300 ≤ phTemp d h →
      phTemp d sp + rotDelta d c.toNat ≤ phTemp d h →
      Completes (.rotationEval c) q d [.words, .cl] (some [W.CL_RSTATUS, W.PH_STATUS])
        fun e => (clus e c.toNat).ho = some { kind := 3, target := fld d W.PH_CFG_ROLE h, phase := some h } ∧
          fld e W.PH_STATUS_STATE sp = 3 ∧
          e.rails = d.rails) ∧
    (∀ (c : BitVec 1) (sp : Nat) (q2 : Fin 10),
      flag d W.CL_CTRL_ROT_EN c.toNat = true →
      d.mode = .ease →
      sparePhase d c.toNat = some sp →
      (clus d c.toNat).rest = some q2.val →
      q2.val / 5 = c.toNat →
      fld d W.PH_CFG_ROLE q2 < 4 →
      (clus d c.toNat).trading = false →
      (phTemp d q2 + rotDelta d c.toNat ≤ phTemp d sp ∨ (newHottest d c.toNat sp).isSome = true) →
      Completes (.rotationEval c) q d [.words, .cl] (some [W.CL_RSTATUS, W.PH_STATUS])
        fun e => (clus e c.toNat).trading = true ∧
          (clus e c.toNat).next = newHottest d c.toNat sp ∧
          (clus e c.toNat).rest = none ∧
          fld e W.PH_STATUS_STATE q2 = 1 ∧
          (fld e W.CL_RSTATUS_PH_MASK (4 * c.toNat + fld d W.PH_CFG_ROLE q2)).testBit (q2 % 5) = true ∧
          e.rails = d.rails) ∧
    (∀ (c : BitVec 1),
      (flag d W.CL_CTRL_ROT_EN c.toNat = false ∨ d.mode ≠ .ease ∨ sparePhase d c.toNat = none ∨ ((clus d c.toNat).rest = none
        ∧ (spareIdle d c.toNat = none ∨ (hottest d (clServing d c.toNat)).all (fun h => phTemp d h < 1300 || (sparePhase d
        c.toNat).all (fun sp => phTemp d h < phTemp d sp + rotDelta d c.toNat)) = true)) ∨ ((clus d c.toNat).rest ≠ none ∧
        (clus d c.toNat).trading = true)) →
      Completes (.rotationEval c) q d [.words, .cl] (some [W.CL_RSTATUS, W.PH_STATUS])
        fun e => e = d) ∧
    (∀ (c : BitVec 1) (sp : Nat),
      (clus d c.toNat).trading = true →
      (clus d c.toNat).next = none →
      sparePhase d c.toNat = some sp →
      Completes (.rotationRelease c) q d [.words, .cl] (some [W.CL_RSTATUS, W.PH_STATUS, W.CL_STATUS])
        fun e => flag e W.CL_STATUS_STEER_CLOSED c.toNat = false ∧
          flag e W.CL_STATUS_ROT_ACTIVE c.toNat = false ∧
          fld e W.PH_STATUS_STATE sp = (if flag d W.CL_STATUS_SPARE_FAILED c.toNat then 6 else 2) ∧
          (clus e c.toNat).trading = false ∧
          (clus e c.toNat).ho = (clus d c.toNat).ho ∧
          e.rails = d.rails) ∧
    (∀ (c : BitVec 1) (sp : Nat) (p : Fin 10),
      (clus d c.toNat).trading = true →
      (clus d c.toNat).next = some p.val →
      sparePhase d c.toNat = some sp →
      p.val ≠ sp →
      flag d W.CL_STATUS_SPARE_FAILED c.toNat = false →
      (clus d c.toNat).ho = none →
      fld d W.PH_STATUS_STATE p = 1 →
      Completes (.rotationRelease c) q d [.words, .cl] (some [W.CL_RSTATUS, W.PH_STATUS, W.CL_STATUS])
        fun e => (clus e c.toNat).ho = some { kind := 3, target := fld d W.PH_CFG_ROLE p, phase := some p.val } ∧
          fld e W.PH_STATUS_STATE sp = 3 ∧
          (clus e c.toNat).trading = false ∧
          (clus e c.toNat).next = none ∧
          flag e W.CL_STATUS_STEER_CLOSED c.toNat = false ∧
          e.rails = d.rails) ∧
    (∀ (c : BitVec 1) (sp : Nat) (p : Fin 10),
      (clus d c.toNat).trading = true →
      (clus d c.toNat).next = some p.val →
      sparePhase d c.toNat = some sp →
      p.val ≠ sp →
      (flag d W.CL_STATUS_SPARE_FAILED c.toNat = true ∨ (clus d c.toNat).ho ≠ none ∨ fld d W.PH_STATUS_STATE p ≠ 1) →
      Completes (.rotationRelease c) q d [.words, .cl] (some [W.CL_RSTATUS, W.PH_STATUS, W.CL_STATUS])
        fun e => (clus e c.toNat).ho = (clus d c.toNat).ho ∧
          (clus e c.toNat).trading = false ∧
          (clus e c.toNat).next = none ∧
          flag e W.CL_STATUS_STEER_CLOSED c.toNat = false ∧
          e.rails = d.rails) ∧
    (∀ (c : BitVec 1),
      (clus d c.toNat).trading = false →
      Completes (.rotationRelease c) q d [.words, .cl] (some [W.CL_RSTATUS, W.PH_STATUS, W.CL_STATUS])
        fun e => e = d) ∧
    (∀ (n : BitVec 5) (p : Nat),
      railKind n.toNat = .cl →
      flag d W.CL_CTRL_SHED_EN ((n.toNat - 4) / 4) = true →
      d.mode = .ease →
      (clus d ((n.toNat - 4) / 4)).ho = none →
      2 ≤ (bitsIn (fld d W.CL_RSTATUS_PH_MASK (n.toNat - 4)) 5).length →
      hottest d (shedPhases d n.toNat) = some p →
      Completes (.phaseShed n) q d [.words] (some [W.CL_RSTATUS, W.PH_STATUS])
        fun e => fld e W.PH_STATUS_STATE p = 7 ∧
          fld e W.CL_RSTATUS_PH_MASK (n.toNat - 4) = setBitNat (fld d W.CL_RSTATUS_PH_MASK (n.toNat - 4)) (p % 5) false ∧
          flag e W.CL_RSTATUS_SHED_ACTIVE (n.toNat - 4) = true ∧
          (sparePhase d ((n.toNat - 4) / 4) = some p → flag e W.CL_RSTATUS_SPARE_ON (n.toNat - 4) = false) ∧
          e.rails = d.rails) ∧
    (∀ (n : BitVec 5),
      (railKind n.toNat ≠ .cl ∨ flag d W.CL_CTRL_SHED_EN ((n.toNat - 4) / 4) = false ∨ d.mode ≠ .ease ∨ (clus d ((n.toNat -
        4) / 4)).ho ≠ none ∨ (bitsIn (fld d W.CL_RSTATUS_PH_MASK (n.toNat - 4)) 5).length < 2 ∨ hottest d (shedPhases d
        n.toNat) = none) →
      Completes (.phaseShed n) q d [.words] (some [W.CL_RSTATUS, W.PH_STATUS])
        fun e => e = d) ∧
    (∀ (n : BitVec 5) (p : Nat),
      railKind n.toNat = .cl →
      flag d W.CL_RSTATUS_SHED_ACTIVE (n.toNat - 4) = true →
      Completes (.shedResume n) q d [.words] (some [W.CL_RSTATUS, W.PH_STATUS])
        fun e => (p ∈ rolePhases d n.toNat → fld d W.PH_STATUS_STATE p = 7 → fld e W.PH_STATUS_STATE p = 1) ∧
          (p ∈ rolePhases d n.toNat → fld d W.PH_STATUS_STATE p = 7 → (fld e W.CL_RSTATUS_PH_MASK (n.toNat - 4)).testBit (p %
            5) = true) ∧
          (sparePhase d ((n.toNat - 4) / 4) = some p → fld d W.PH_STATUS_STATE p = 7 → fld e W.PH_STATUS_STATE p = 4) ∧
          (sparePhase d ((n.toNat - 4) / 4) = some p → fld d W.PH_STATUS_STATE p = 7 → flag e W.CL_RSTATUS_SPARE_ON (n.toNat
            - 4) = true) ∧
          flag e W.CL_RSTATUS_SHED_ACTIVE (n.toNat - 4) = false ∧
          e.rails = d.rails) ∧
    (∀ (n : BitVec 5),
      (railKind n.toNat ≠ .cl ∨ flag d W.CL_RSTATUS_SHED_ACTIVE (n.toNat - 4) = false) →
      Completes (.shedResume n) q d [.words] (some [W.CL_RSTATUS, W.PH_STATUS])
        fun e => e = d) ∧
    (∀ (rq : Req) (p0 : Word) (c r n : Nat),
      engineOn d = true →
      c = bitsOf p0 8 8 →
      r = bitsOf p0 1 0 →
      n = 4 + 4 * c + r →
      bitsOf p0 31 9 = 0 →
      bitsOf p0 7 2 = 0 →
      noSpare d c = false →
      (sparePhase d c).isSome = true →
      inMode d [.run, .ease] = true →
      drillable d c = true →
      Completes (.spareDrill rq p0) q d (commonWith [.roofTime, .cycles, .cl]) (eventsWith [W.CL_RSTATUS, W.PH_STATUS,
        W.CL_STATUS])
        fun e => (clus e c).drill = some r ∧
          e.eng.issued.any (fun k => k.id == d.eng.nextId && k.op == 0x30) = true ∧
          ((rail d n).pg = true → (rail d n).ph = .still → (rail d n).ref.start + 10000 ≤ d.roofTime → adcVal d (32 + n) * 4
            ≤ 1500 → (clus e c).ho = some { kind := 4, target := r }) ∧
          (((rail d n).pg = false ∨ (rail d n).ph ≠ .still ∨ 1500 < adcVal d (32 + n) * 4) → (clus e c).ho = none) ∧
          e.rails = d.rails) ∧
    (∀ (rq : Req) (p0 : Word) (c : Nat) (st : Status),
      engineOn d = true →
      c = bitsOf p0 8 8 →
      firstFail [(bitsOf p0 31 9 = 0 && bitsOf p0 7 2 = 0 && !noSpare d c && (sparePhase d c).isSome, .badParam), (inMode d
        [.run, .ease], .deniedMode), (drillable d c, .busy)] = some st →
      Completes (.spareDrill rq p0) q d (commonWith [.roofTime, .cycles, .cl]) (eventsWith [W.CL_RSTATUS, W.PH_STATUS,
        W.CL_STATUS])
        fun e => answered rq 0x30 st 0#32 0#32 d e = true ∧
          e.cl = d.cl ∧
          e.rails = d.rails) ∧
    (∀ (c : BitVec 1),
      (clus d c.toNat).drill.isSome = true →
      (clus d c.toNat).ho = none →
      (clus d c.toNat).holding = false →
      Completes (.drillTimeout c) q d (commonWith [.roofTime, .cycles, .cl]) (some eventTables)
        fun e => (clus e c.toNat).drill = none ∧
          e.roofTime = max d.roofTime (drillLimit d c.toNat) ∧
          e.eng.issued.all (fun k => !(k.op == 0x30 && bitsOf (k.p 0) 8 8 == c.toNat)) = true ∧
          e.rails = d.rails) ∧
    (∀ (c : BitVec 1) (k : Cmd),
      (clus d c.toNat).drill.isSome = true →
      (clus d c.toNat).ho = none →
      (clus d c.toNat).holding = false →
      d.eng.issued = [k] →
      k.op = 0x30 →
      bitsOf (k.p 0) 8 8 = c.toNat →
      Completes (.drillTimeout c) q d (commonWith [.roofTime, .cycles, .cl]) (some eventTables)
        fun e => reply k .timeout (getW d (W.DRILL_RESULT + c.toNat)) 0#32 d e = true ∧
          e.roofTime = max d.roofTime (k.startT + 5000040)) ∧
    (∀ (c : BitVec 1),
      ((clus d c.toNat).drill = none ∨ (clus d c.toNat).ho ≠ none ∨ (clus d c.toNat).holding = true) →
      Completes (.drillTimeout c) q d (commonWith [.roofTime, .cycles, .cl]) (some eventTables)
        fun e => e = d) ∧
    (∀ (c : BitVec 1) (ma : BitVec 16) (opened : Bool) (sp : Nat),
      (clus d c.toNat).holding = true →
      (clus d c.toNat).drill.isSome = true →
      (clus d c.toNat).ho = none →
      sparePhase d c.toNat = some sp →
      Completes (.drillHoldEnd c ma opened) q d (commonWith [.cl]) (eventsWith [W.CL_RSTATUS, W.PH_STATUS, W.CL_STATUS,
        W.DRILL_RESULT])
        fun e => fld e W.DRILL_RESULT_I_SPARE c.toNat = ma.toNat ∧
          (fld e W.DRILL_RESULT_RESULT c.toNat = (if ma.toNat < 200 then 3 else if 4500 < ma.toNat then 4 else if (clus d
            c.toNat).pgLost = true then 5 else if opened = true then 1 else 6)) ∧
          flag e W.CL_STATUS_STEER_CLOSED c.toNat = false ∧
          flag e W.CL_STATUS_DRILL_ACTIVE c.toNat = false ∧
          (clus e c.toNat).drill = none ∧
          (clus e c.toNat).holding = false ∧
          (fld e W.DRILL_RESULT_RESULT c.toNat = 1 ∨ fld e W.PH_STATUS_CAUSE sp = 8) ∧
          (fld e W.DRILL_RESULT_RESULT c.toNat = 1 ∨ flag e W.CL_STATUS_SPARE_FAILED c.toNat = true) ∧
          (fld e W.DRILL_RESULT_RESULT c.toNat = 1 → (fld d W.PH_STATUS_CAUSE sp = 8 ∨ fld d W.PH_STATUS_CAUSE sp = 9) → flag
            e W.CL_STATUS_SPARE_FAILED c.toNat = false) ∧
          e.rails = d.rails) ∧
    (∀ (c : BitVec 1) (ma : BitVec 16) (opened : Bool) (k : Cmd) (good : Bool),
      (clus d c.toNat).holding = true →
      (clus d c.toNat).drill.isSome = true →
      (clus d c.toNat).ho = none →
      d.eng.issued = [k] →
      k.op = 0x30 →
      bitsOf (k.p 0) 8 8 = c.toNat →
      good = (200 ≤ ma.toNat && ma.toNat ≤ 4500 && !(clus d c.toNat).pgLost && opened) →
      Completes (.drillHoldEnd c ma opened) q d (commonWith [.cl]) (eventsWith [W.CL_RSTATUS, W.PH_STATUS, W.CL_STATUS,
        W.DRILL_RESULT])
        fun e => reply k (if good then .ok else .hwFault) (getW e (W.DRILL_RESULT + c.toNat)) 0#32 d e = true) ∧
    (∀ (c : BitVec 1) (ma : BitVec 16) (opened : Bool),
      (clus d c.toNat).holding = false →
      Completes (.drillHoldEnd c ma opened) q d (commonWith [.cl]) (eventsWith [W.CL_RSTATUS, W.PH_STATUS, W.CL_STATUS,
        W.DRILL_RESULT])
        fun e => e = d)

/-- A trip of a comparator that acts and has not tripped sets its latched bit, ends power-good, drives the rail's safe-state
outputs low, latches its class's source as a level and, as the first of its class with an action chosen, latches the fault (a
rail gated in this very cycle has recorded it already); a pair that trips alone sets DISAGREE; a comparator that does not act
changes no latched bit. Overcurrent trips of buck rails and of LDOs do the same under OC. A release clears the trip and, with
the class clear, its level. A rail under comparator self-test is stated with the self-tests. -/
def Obligations.SupervisionEventsComplete : Prop :=
  ∀ (q : List Instr) (d : Device), canonical d = true →
    (∀ (n : BitVec 5) (k : BitVec 2) (both : Bool),
      compActs d n.toNat k.toNat = true →
      (rail d n.toNat).trip.testBit k.toNat = false →
      compTests d n.toNat = [] →
      Completes (.comparatorTrip n k both) q d (commonWith [.mode, .prev, .roofTime, .cycles, .core, .rails, .seq, .cl, .adc,
        .link, .vly, .gauge, .rtc, .log, .fw, .freeN]) none
        fun e => maskBit e (W.SUP_STATUS + 32 * n.toNat) (8 + k.toNat) = true ∧
          (rail e n.toNat).pg = false ∧
          fld e W.SSO_STATUS_ASSERTED &&& assoc d n.toNat = assoc d n.toNat ∧
          fld e W.SSO_STATUS_BY_REFLEX &&& assoc d n.toNat = assoc d n.toNat ∧
          (SMap.get (fun _ => false) d.ev.levels (32 * cmpClass k.toNat + n.toNat) = true ∨ raised (32 * cmpClass k.toNat +
            n.toNat) d e = true) ∧
          (both = true ∨ flag e W.SUP_STATUS_DISAGREE n.toNat = true) ∧
          ((rail d n.toNat).trip &&& classMask (cmpClass k.toNat) ≠ 0 ∨ classAct d n.toNat (cmpClass k.toNat) = 0 ∨ gatedNow
            d n.toNat = true ∨ flag e W.SUP_STATUS_FAULT_LATCH n.toNat = true) ∧
          ((rail d n.toNat).trip &&& classMask (cmpClass k.toNat) ≠ 0 ∨ classAct d n.toNat (cmpClass k.toNat) = 0 ∨ (rail e
            n.toNat).gated = true)) ∧
    (∀ (n : BitVec 5) (k : BitVec 2) (both : Bool),
      (compActs d n.toNat k.toNat = false ∨ (rail d n.toNat).trip.testBit k.toNat = true) →
      compTests d n.toNat = [] →
      Completes (.comparatorTrip n k both) q d (commonWith [.mode, .prev, .roofTime, .cycles, .core, .rails, .seq, .cl, .adc,
        .link, .vly, .gauge, .rtc, .log, .fw, .freeN]) none
        fun e => (rail e n.toNat).live.testBit k.toNat = true ∧
          (rail e n.toNat).trip = (rail d n.toNat).trip ∧
          getW e (W.SUP_STATUS + 32 * n.toNat) = getW d (W.SUP_STATUS + 32 * n.toNat) ∧
          e.mode = d.mode) ∧
    (∀ (n : BitVec 5) (k : BitVec 3) (cls : Nat),
      k.toNat ≤ 4 →
      cls = cmpClass k.toNat →
      compTests d n.toNat = [] →
      Completes (.comparatorRelease n k) q d (commonWith [.mode, .prev, .roofTime, .cycles, .core, .rails, .seq, .cl, .link,
        .vly, .gauge, .rtc, .log, .fw, .freeN]) none
        fun e => (rail e n.toNat).live.testBit k.toNat = false ∧
          (rail e n.toNat).trip.testBit k.toNat = false ∧
          ((rail e n.toNat).trip &&& classMask cls ≠ 0 ∨ SMap.get (fun _ => false) e.ev.levels (32 * cls + n.toNat) = false) ∧
          ∀ j : Fin 32, j.val ≠ n.toNat → rail e j = rail d j) ∧
    (∀ (n : BitVec 5) (k : BitVec 3),
      4 < k.toNat →
      Completes (.comparatorRelease n k) q d (commonWith [.mode, .prev, .roofTime, .cycles, .core, .rails, .seq, .cl, .link,
        .vly, .gauge, .rtc, .log, .fw, .freeN]) none
        fun e => e.rails = d.rails ∧
          e.ev = d.ev) ∧
    (∀ (n : BitVec 5),
      n.toNat < 18 →
      fld d W.SUP_OC_OC_TH n.toNat ≠ 0 →
      configured d n.toNat = true →
      ((rail d n.toNat).enabled = true ∨ gatedNow d n.toNat = true) →
      (rail d n.toNat).trip.testBit 4 = false →
      Completes (.ocTrip n) q d (commonWith [.mode, .prev, .roofTime, .cycles, .core, .rails, .seq, .cl, .adc, .link, .vly,
        .gauge, .rtc, .log, .fw, .freeN]) none
        fun e => flag e W.SUP_STATUS_OC_LAT n.toNat = true ∧
          (rail e n.toNat).trip.testBit 4 = true ∧
          (rail e n.toNat).pg = false ∧
          fld e W.SSO_STATUS_ASSERTED &&& assoc d n.toNat = assoc d n.toNat ∧
          (SMap.get (fun _ => false) d.ev.levels (64 + n.toNat) = true ∨ raised (64 + n.toNat) d e = true) ∧
          (fld d W.SUP_ACT_OC_ACT n.toNat = 0 ∨ gatedNow d n.toNat = true ∨ flag e W.SUP_STATUS_FAULT_LATCH n.toNat = true) ∧
          (fld d W.SUP_ACT_OC_ACT n.toNat = 0 ∨ (rail e n.toNat).gated = true)) ∧
    (∀ (n : BitVec 5),
      (18 ≤ n.toNat ∨ fld d W.SUP_OC_OC_TH n.toNat = 0 ∨ configured d n.toNat = false ∨ ((rail d n.toNat).enabled = false ∧
        gatedNow d n.toNat = false) ∨ (rail d n.toNat).trip.testBit 4 = true) →
      Completes (.ocTrip n) q d (commonWith [.mode, .prev, .roofTime, .cycles, .core, .rails, .seq, .cl, .adc, .link, .vly,
        .gauge, .rtc, .log, .fw, .freeN]) none
        fun e => (rail e n.toNat).trip = (rail d n.toNat).trip ∧
          getW e (W.SUP_STATUS + 32 * n.toNat) = getW d (W.SUP_STATUS + 32 * n.toNat) ∧
          e.ev = d.ev ∧
          e.seq = d.seq) ∧
    (∀ (n : BitVec 5),
      18 ≤ n.toNat →
      n.toNat < 24 →
      configured d n.toNat = true →
      ((rail d n.toNat).enabled = true ∨ gatedNow d n.toNat = true) →
      (rail d n.toNat).trip.testBit 4 = false →
      Completes (.ldoOcTrip n) q d (commonWith [.mode, .prev, .roofTime, .cycles, .core, .rails, .seq, .cl, .adc, .link,
        .vly, .gauge, .rtc, .log, .fw, .freeN]) none
        fun e => flag e W.SUP_STATUS_OC_LAT n.toNat = true ∧
          (rail e n.toNat).trip.testBit 4 = true ∧
          (rail e n.toNat).pg = false ∧
          fld e W.SSO_STATUS_ASSERTED &&& assoc d n.toNat = assoc d n.toNat ∧
          (SMap.get (fun _ => false) d.ev.levels (64 + n.toNat) = true ∨ raised (64 + n.toNat) d e = true) ∧
          (fld d W.SUP_ACT_OC_ACT n.toNat = 0 ∨ gatedNow d n.toNat = true ∨ flag e W.SUP_STATUS_FAULT_LATCH n.toNat = true) ∧
          (fld d W.SUP_ACT_OC_ACT n.toNat = 0 ∨ (rail e n.toNat).gated = true)) ∧
    (∀ (n : BitVec 5),
      (n.toNat < 18 ∨ 24 ≤ n.toNat ∨ configured d n.toNat = false ∨ ((rail d n.toNat).enabled = false ∧ gatedNow d n.toNat =
        false) ∨ (rail d n.toNat).trip.testBit 4 = true) →
      Completes (.ldoOcTrip n) q d (commonWith [.mode, .prev, .roofTime, .cycles, .core, .rails, .seq, .cl, .adc, .link,
        .vly, .gauge, .rtc, .log, .fw, .freeN]) none
        fun e => e.rails = d.rails ∧
          getW e (W.SUP_STATUS + 32 * n.toNat) = getW d (W.SUP_STATUS + 32 * n.toNat) ∧
          e.ev = d.ev ∧
          e.seq = d.seq)

/-- The loss of VSUP is latched and raises VSUP_LOST in every mode but DORMANT and STANDBY; with backup energy above reserve a
device whose pack may boosts, RUN and EASE go to HOLDUP (with INPUT_LOSS_CONT, or with an anchored gauge at 0 percent, through
it into DESCEND) and RAMP remembers it or is given up; below reserve the mode stays. While CK_FAST is stopped by a HARD reset
the loss boosts the same way and corrects the recorded mode. The return of VSUP clears VSUP_LOW; 10 ms later HOLDUP ends in
RUN or EASE and a boosting BK hands back, and outside HOLDUP it rests; after the ramp BK is idle or in STANDBY_BOOST and
charging waits 100 ms more, then goes on in the phase it left. The ideal diode's turns move BK between ARMED and BOOSTING; a
limit shows and, held long enough, raises its event. Each row says where it does nothing. -/
def Obligations.InputLossComplete : Prop :=
  ∀ (q : List Instr) (d : Device), canonical d = true →
    (∀ (low : Bool),
      (d.mode = .run ∨ d.mode = .ease) →
      fastStopped d = false →
      d.core.porHeld = false →
      aboveReserve d = true →
      flag d W.MODE_CTRL_INPUT_LOSS_CONT = false →
      (fld d W.GAUGE_STATUS_ANCHOR = 0 ∨ fld d W.GAUGE_STATUS_USABLE ≠ 0 ∨ ridesLine d = true) →
      Completes (.vsupLost low) q d (commonWith [.mode, .prev, .roofTime, .cycles, .core, .rails, .seq, .cl, .link, .vly,
        .gauge, .rtc, .log, .fw, .freeN]) none
        fun e => flag e W.BK_STATUS_VSUP_LOW = true ∧
          (flag d W.BK_STATUS_PACK_PRESENT = true → bkState d < 7 → bkState e = (if low = true then 4 else 3)) ∧
          e.mode = .holdup ∧
          e.prev = d.mode ∧
          raised 384 d e = true) ∧
    (∀ (low : Bool) (n : Fin 32),
      (d.mode = .run ∨ d.mode = .ease) →
      fastStopped d = false →
      d.core.porHeld = false →
      aboveReserve d = true →
      (flag d W.MODE_CTRL_INPUT_LOSS_CONT = true ∨ (fld d W.GAUGE_STATUS_ANCHOR ≠ 0 ∧ fld d W.GAUGE_STATUS_USABLE = 0 ∧
        ridesLine d = false)) →
      (rail d n).enabled = true →
      (rail d n).fallFail = false →
      Completes (.vsupLost low) q d (commonWith [.mode, .prev, .roofTime, .cycles, .core, .rails, .seq, .cl, .link, .vly,
        .gauge, .rtc, .log, .fw, .freeN]) none
        fun e => flag e W.BK_STATUS_VSUP_LOW = true ∧
          e.mode = .descend ∧
          e.prev = .holdup ∧
          e.seq.desc.map (fun x => x.kind) = some .orderly ∧
          raised 384 d e = true) ∧
    (∀ (low : Bool),
      (d.mode = .run ∨ d.mode = .ease) →
      fastStopped d = false →
      d.core.porHeld = false →
      aboveReserve d = false →
      Completes (.vsupLost low) q d (commonWith [.mode, .prev, .roofTime, .cycles, .core, .rails, .seq, .cl, .link, .vly,
        .gauge, .rtc, .log, .fw, .freeN]) none
        fun e => flag e W.BK_STATUS_VSUP_LOW = true ∧
          e.mode = (if flag d W.TH_STATUS_THROTTLING = true then .ease else .run) ∧
          e.rails = d.rails ∧
          raised 384 d e = true) ∧
    (∀ (low : Bool),
      d.mode = .ramp →
      fastStopped d = false →
      d.core.porHeld = false →
      flag d W.MODE_CTRL_INPUT_LOSS_CONT = false →
      Completes (.vsupLost low) q d (commonWith [.mode, .prev, .roofTime, .cycles, .core, .rails, .seq, .cl, .link, .vly,
        .gauge, .rtc, .log, .fw, .freeN]) none
        fun e => flag e W.BK_STATUS_VSUP_LOW = true ∧
          flag e W.MODE_STATUS_HOLDUP_PENDING = (aboveReserve d || flag d W.MODE_STATUS_HOLDUP_PENDING) ∧
          (packReady d = true → bkState e = (if low = true then 4 else 3)) ∧
          e.mode = .ramp ∧
          e.rails = d.rails ∧
          raised 384 d e = true) ∧
    (∀ (low : Bool) (n : Fin 32),
      d.mode = .ramp →
      fastStopped d = false →
      d.core.porHeld = false →
      flag d W.MODE_CTRL_INPUT_LOSS_CONT = true →
      (rail d n).enabled = true →
      (rail d n).fallFail = false →
      Completes (.vsupLost low) q d (commonWith [.mode, .prev, .roofTime, .cycles, .core, .rails, .seq, .cl, .link, .vly,
        .gauge, .rtc, .log, .fw, .freeN]) none
        fun e => flag e W.BK_STATUS_VSUP_LOW = true ∧
          e.mode = .descend ∧
          e.seq.desc.map (fun x => x.kind) = some .abort ∧
          raised 384 d e = true) ∧
    (∀ (low : Bool),
      inMode d [.run, .ease, .ramp, .holdup, .dormant, .standby] = false →
      fastStopped d = false →
      d.core.porHeld = false →
      Completes (.vsupLost low) q d (commonWith [.mode, .prev, .roofTime, .cycles, .core, .rails, .seq, .cl, .link, .vly,
        .gauge, .rtc, .log, .fw, .freeN]) none
        fun e => flag e W.BK_STATUS_VSUP_LOW = true ∧
          (hcdOn d = true → packReady d = true → bkState e = (if low = true then 4 else 3)) ∧
          (aboveReserve d = false → bkState e = bkState d) ∧
          e.mode = d.mode ∧
          e.rails = d.rails ∧
          raised 384 d e = true) ∧
    (∀ (low : Bool),
      d.mode = .holdup →
      fastStopped d = false →
      d.core.porHeld = false →
      flag d W.MODE_CTRL_INPUT_LOSS_CONT = false →
      (fld d W.GAUGE_STATUS_ANCHOR = 0 ∨ fld d W.GAUGE_STATUS_USABLE ≠ 0 ∨ ridesLine d = true) →
      Completes (.vsupLost low) q d (commonWith [.mode, .prev, .roofTime, .cycles, .core, .rails, .seq, .cl, .link, .vly,
        .gauge, .rtc, .log, .fw, .freeN]) none
        fun e => flag e W.BK_STATUS_VSUP_LOW = true ∧
          (packReady d = true → bkState e = (if low = true then 4 else 3)) ∧
          e.mode = .holdup ∧
          raised 384 d e = true) ∧
    (∀ (low : Bool),
      (inMode d [.dormant, .standby] = true ∨ fastStopped d = true ∨ d.core.porHeld = true) →
      Completes (.vsupLost low) q d (commonWith [.mode, .prev, .roofTime, .cycles, .core, .rails, .seq, .cl, .link, .vly,
        .gauge, .rtc, .log, .fw, .freeN]) none
        fun e => getW e W.BK_STATUS = getW d W.BK_STATUS ∧
          e.mode = d.mode ∧
          e.core = d.core ∧
          e.power = d.power) ∧
    (∀ (low energy : Bool),
      fastStopped d = true →
      energy = true →
      flag d W.BK_STATUS_PACK_PRESENT = true →
      (bkState d ≠ 7 ∧ bkState d ≠ 8 ∧ bkState d ≠ 9) →
      Completes (.vsupLostInReset low energy) q d [.words, .core] (some [W.BK_STATUS, W.CHG_IEFF])
        fun e => flag e W.BK_STATUS_VSUP_LOW = true ∧
          bkState e = (if hcdOn d = true then (if low = true then 4 else 3) else bkState d) ∧
          e.core =
            { d.core with recMode := if d.core.recMode = .run ∨ d.core.recMode = .ease then .holdup else d.core.recMode } ∧
          e.mode = d.mode) ∧
    (∀ (low energy : Bool),
      fastStopped d = true →
      (energy = false ∨ flag d W.BK_STATUS_PACK_PRESENT = false ∨ bkState d = 7 ∨ bkState d = 8 ∨ bkState d = 9) →
      Completes (.vsupLostInReset low energy) q d [.words, .core] (some [W.BK_STATUS, W.CHG_IEFF])
        fun e => flag e W.BK_STATUS_VSUP_LOW = true ∧
          bkState e = bkState d ∧
          e.core = d.core) ∧
    (∀ (low energy : Bool),
      fastStopped d = false →
      Completes (.vsupLostInReset low energy) q d [.words, .core] (some [W.BK_STATUS, W.CHG_IEFF])
        fun e => e = d) ∧
    (d.mode ≠ .dormant →
      d.core.porHeld = false →
      Completes .vsupReturn q d [.words, .log] (some [W.MODE_STATUS, W.BK_STATUS])
        fun e => flag e W.BK_STATUS_VSUP_LOW = false ∧
          flag e W.MODE_STATUS_HOLDUP_PENDING = false ∧
          bkState e = bkState d ∧
          e.mode = d.mode) ∧
    ((d.mode = .dormant ∨ d.core.porHeld = true) →
      Completes .vsupReturn q d [.words, .log] (some [W.MODE_STATUS, W.BK_STATUS])
        fun e => getW e W.BK_STATUS = getW d W.BK_STATUS ∧
          getW e W.MODE_STATUS = getW d W.MODE_STATUS ∧
          e.mode = d.mode) ∧
    (flag d W.BK_STATUS_VSUP_LOW = false →
      d.mode = .holdup →
      Completes .vsupBack q d (commonWith [.mode, .prev, .core, .seq, .cl, .link, .vly, .gauge, .rtc, .log, .fw]) none
        fun e => e.mode = (if flag d W.TH_STATUS_THROTTLING = true then .ease else .run) ∧
          e.prev = .holdup ∧
          ((bkState d = 3 ∨ bkState d = 4) → bkState e = 5) ∧
          raised 385 d e = true) ∧
    (flag d W.BK_STATUS_VSUP_LOW = false →
      d.mode ≠ .holdup →
      Completes .vsupBack q d (commonWith [.mode, .prev, .core, .seq, .cl, .link, .vly, .gauge, .rtc, .log, .fw]) none
        fun e => bkState e = (if bkState d = 3 ∨ bkState d = 4 then (if standsBy d = true then 6 else 1) else bkState d) ∧
          e.mode = d.mode ∧
          e.power = d.power) ∧
    (flag d W.BK_STATUS_VSUP_LOW = true →
      Completes .vsupBack q d (commonWith [.mode, .prev, .core, .seq, .cl, .link, .vly, .gauge, .rtc, .log, .fw]) none
        fun e => e = d) ∧
    (bkState d = 5 →
      Completes .handbackDone q d (commonWith [.power]) (eventsWith [W.BK_STATUS, W.CHG_IEFF])
        fun e => bkState e = (if standsBy d = true then 6 else 1) ∧
          e.power = { d.power with handWait := true } ∧
          raised 388 d e = true) ∧
    (bkState d ≠ 5 →
      Completes .handbackDone q d (commonWith [.power]) (eventsWith [W.BK_STATUS, W.CHG_IEFF])
        fun e => e = d) ∧
    (d.power.handWait = true →
      (chgState d ≠ 8 ∨ suspCause { d with power := { d.power with handWait := false } } ≠ 0) →
      Completes .chargeResume q d (commonWith [.power]) (eventsWith [W.BK_STATUS, W.CHG_STATUS, W.CHG_IEFF])
        fun e => e.power = { d.power with handWait := false } ∧
          chgState e = chgState d) ∧
    (d.power.handWait = true →
      chgState d = 8 →
      d.power.left < 8 →
      suspCause { d with power := { d.power with handWait := false } } = 0 →
      Completes .chargeResume q d (commonWith [.power]) (eventsWith [W.BK_STATUS, W.CHG_STATUS, W.CHG_IEFF])
        fun e => chgState e = (if d.power.left = 6 then 7 else d.power.left) ∧
          fld e W.CHG_STATUS_SUSP_WHY = 0 ∧
          (bkState d = 1 → 3 ≤ d.power.left → d.power.left ≤ 5 → bkState e = 2) ∧
          e.power.handWait = false ∧
          raised 392 d e = true) ∧
    (d.power.handWait = false →
      Completes .chargeResume q d (commonWith [.power]) (eventsWith [W.BK_STATUS, W.CHG_STATUS, W.CHG_IEFF])
        fun e => e = d) ∧
    (∀ (low : Bool),
      d.mode ≠ .dormant →
      Completes (.idgReverse low) q d [.words] (some [W.BK_STATUS, W.CHG_IEFF])
        fun e => flag e W.BK_STATUS_IDG_ON = false ∧
          bkState e = (if bkState d = 3 ∧ low = true then 4 else bkState d)) ∧
    (∀ (low : Bool),
      d.mode = .dormant →
      Completes (.idgReverse low) q d [.words] (some [W.BK_STATUS, W.CHG_IEFF])
        fun e => e = d) ∧
    (d.mode ≠ .dormant →
      Completes .idgForward q d [.words] (some [W.BK_STATUS, W.CHG_IEFF])
        fun e => flag e W.BK_STATUS_IDG_ON = true ∧
          bkState e = (if bkState d = 4 then 3 else bkState d)) ∧
    (d.mode = .dormant →
      Completes .idgForward q d [.words] (some [W.BK_STATUS, W.CHG_IEFF])
        fun e => e = d) ∧
    (∀ (beyond : Bool) (us : Nat),
      3 ≤ bkState d →
      bkState d ≤ 6 →
      Completes (.boostIlim beyond us) q d common (eventsWith [W.BK_STATUS])
        fun e => flag e W.BK_STATUS_BK_ILIM = beyond ∧
          bkState e = bkState d ∧
          (beyond = true → 1000 ≤ us → raised 386 d e = true) ∧
          ((beyond = false ∨ us < 1000) → e.ev = d.ev)) ∧
    (∀ (beyond : Bool) (us : Nat),
      (bkState d < 3 ∨ 6 < bkState d) →
      Completes (.boostIlim beyond us) q d common (eventsWith [W.BK_STATUS])
        fun e => e = d) ∧
    (flag d W.BK_STATUS_INLIM = true →
      Completes .inputLimit q d common (some eventTables)
        fun e => raised 398 d e = true) ∧
    (flag d W.BK_STATUS_INLIM = false →
      Completes .inputLimit q d common (some eventTables)
        fun e => e = d)

/-- The cut-off in the boost direction stops BK in state 8 and raises PACK_CUTOFF; it ends when the pack has recovered and
charging is possible. A removal stops BK, takes an enabled charger to NOPACK, drops the gauge's anchors and is recorded, BK in
FAULT staying there; an overvoltage without a sample at or below the constant voltage is PACK_OV while BK charges, and no
removal. A pack that is there is qualified by an enabled charger in NOPACK: below its floor it waits, above its ceiling it is
PACK_OV, and between them it is present and starts a charge cycle. A stage fault of BK is state 9 and takes a charging charger
to FAULT. With the gauge unanchored a low pack ends HOLDUP. Each row says where it does nothing. -/
def Obligations.PackEventsComplete : Prop :=
  ∀ (q : List Instr) (d : Device), canonical d = true →
    (3 ≤ bkState d →
      bkState d ≤ 6 →
      Completes .packCutoff q d (commonWith [.link, .vly, .power]) (eventsWith [W.BK_STATUS, W.CHG_IEFF, W.GAUGE_STATUS,
        W.GAUGE_REM, W.GAUGE_RSV, W.GAUGE_VLY, W.GAUGE_AVAIL, W.GAUGE_ERR, W.VLY_STATUS, W.VLY_LAST])
        fun e => bkState e = 8 ∧
          flag e W.BK_STATUS_CUTOFF = true ∧
          e.power.cut = true ∧
          raised 387 d e = true) ∧
    ((bkState d < 3 ∨ 6 < bkState d) →
      Completes .packCutoff q d (commonWith [.link, .vly, .power]) (eventsWith [W.BK_STATUS, W.CHG_IEFF, W.GAUGE_STATUS,
        W.GAUGE_REM, W.GAUGE_RSV, W.GAUGE_VLY, W.GAUGE_AVAIL, W.GAUGE_ERR, W.VLY_STATUS, W.VLY_LAST])
        fun e => e = d) ∧
    (d.power.cut = true →
      chargingPossible d = true →
      Completes .cutoffReenable q d [.words, .power] (some [W.BK_STATUS, W.CHG_IEFF])
        fun e => e.power = { d.power with cut := false } ∧
          flag e W.BK_STATUS_CUTOFF = false ∧
          bkState e = (if bkState d = 8 then (if 3 ≤ chgState d ∧ chgState d ≤ 5 then 2 else 1) else bkState d)) ∧
    ((d.power.cut = false ∨ chargingPossible d = false) →
      Completes .cutoffReenable q d [.words, .power] (some [W.BK_STATUS, W.CHG_IEFF])
        fun e => e = d) ∧
    (∀ (ov : Bool),
      ov = false →
      adcOn d = true →
      Completes (.packRemoved ov) q d (commonWith [.link, .vly, .gauge, .power, .log, .freeN]) (eventsWith [W.COLD_STATUS,
        W.BK_STATUS, W.CHG_STATUS, W.CHG_FAULT, W.CHG_IEFF, W.GAUGE_STATUS, W.GAUGE_REM, W.GAUGE_RSV, W.GAUGE_VLY,
        W.GAUGE_AVAIL, W.GAUGE_ERR, W.LEARN_DQ, W.VLY_STATUS, W.VLY_LAST, W.GUT_STATUS, W.GUT_CNT])
        fun e => bkState e = (if bkState d = 9 then 9 else if hcdOn d = true then 7 else 0) ∧
          flag e W.BK_STATUS_PACK_PRESENT = false ∧
          flag e W.CHG_FAULT_REMOVED = true ∧
          chgState e = (if flag d W.CHG_CTRL_CHG_EN = true then 1 else chgState d) ∧
          fld e W.GAUGE_STATUS_ANCHOR = 0 ∧
          e.gauge.rem = 0 ∧
          e.power.seated = false ∧
          raised 389 d e = true ∧
          raised 418 d e = true) ∧
    (∀ (ov : Bool),
      ov = true →
      adcOn d = true →
      bkState d = 2 →
      Completes (.packRemoved ov) q d (commonWith [.link, .vly, .gauge, .power, .log, .freeN]) (eventsWith [W.COLD_STATUS,
        W.BK_STATUS, W.CHG_STATUS, W.CHG_FAULT, W.CHG_IEFF, W.GAUGE_STATUS, W.GAUGE_REM, W.GAUGE_RSV, W.GAUGE_VLY,
        W.GAUGE_AVAIL, W.GAUGE_ERR, W.LEARN_DQ, W.VLY_STATUS, W.VLY_LAST, W.GUT_STATUS, W.GUT_CNT])
        fun e => flag e W.CHG_FAULT_PACK_OV = true ∧
          chgState e = 9 ∧
          bkState e = 1 ∧
          e.gauge = d.gauge ∧
          raised 391 d e = true) ∧
    (∀ (ov : Bool),
      (adcOn d = false ∨ (ov = true ∧ bkState d ≠ 2)) →
      Completes (.packRemoved ov) q d (commonWith [.link, .vly, .gauge, .power, .log, .freeN]) (eventsWith [W.COLD_STATUS,
        W.BK_STATUS, W.CHG_STATUS, W.CHG_FAULT, W.CHG_IEFF, W.GAUGE_STATUS, W.GAUGE_REM, W.GAUGE_RSV, W.GAUGE_VLY,
        W.GAUGE_AVAIL, W.GAUGE_ERR, W.LEARN_DQ, W.VLY_STATUS, W.VLY_LAST, W.GUT_STATUS, W.GUT_CNT])
        fun e => getW e W.BK_STATUS = getW d W.BK_STATUS ∧
          getW e W.CHG_STATUS = getW d W.CHG_STATUS ∧
          getW e W.CHG_FAULT = getW d W.CHG_FAULT ∧
          e.gauge = d.gauge ∧
          e.power = d.power) ∧
    (adcOn d = true →
      chgState d = 1 →
      flag d W.CHG_CTRL_CHG_EN = true →
      nCells d * 1000 ≤ vpackMv d →
      vpackMv d ≤ nCells d * (cvEff d + 50) →
      Completes .packInserted q d (commonWith [.power, .log]) (eventsWith [W.BK_STATUS, W.CHG_STATUS, W.CHG_FAULT,
        W.CHG_IEFF])
        fun e => flag e W.BK_STATUS_PACK_PRESENT = true ∧
          chgState e = (if vpackMv d < nCells d * vPre d then 3 else 4) ∧
          (d.power.qualifying = true ∨ flag e W.CHG_FAULT_CHG_TIMEOUT = false) ∧
          (e.power.cut = false ∧ e.power.wall = 0 ∧ e.power.seated = true) ∧
          (hcdOn d = true → d.power.fault = false → (bkState d = 0 ∨ bkState d = 7 ∨ bkState d = 8) → bkState e = (if
            suspCause (setBk 1 d) = 0 then 2 else 1)) ∧
          (flag d W.BK_STATUS_PACK_PRESENT = true ∨ raised 390 d e = true)) ∧
    (adcOn d = true →
      chgState d = 1 →
      flag d W.CHG_CTRL_CHG_EN = true →
      nCells d * (cvEff d + 50) < vpackMv d →
      Completes .packInserted q d (commonWith [.power, .log]) (eventsWith [W.BK_STATUS, W.CHG_STATUS, W.CHG_FAULT,
        W.CHG_IEFF])
        fun e => chgState e = 9 ∧
          flag e W.CHG_FAULT_PACK_OV = true ∧
          e.power.seated = true ∧
          raised 391 d e = true) ∧
    (adcOn d = true →
      chgState d = 1 →
      flag d W.CHG_CTRL_CHG_EN = true →
      vpackMv d ≤ nCells d * (cvEff d + 50) →
      vpackMv d < nCells d * 1000 →
      Completes .packInserted q d (commonWith [.power, .log]) (eventsWith [W.BK_STATUS, W.CHG_STATUS, W.CHG_FAULT,
        W.CHG_IEFF])
        fun e => chgState e = 2 ∧
          flag e W.BK_STATUS_PACK_PRESENT = flag d W.BK_STATUS_PACK_PRESENT ∧
          e.power.seated = true) ∧
    (adcOn d = true →
      (chgState d ≠ 1 ∨ flag d W.CHG_CTRL_CHG_EN = false) →
      Completes .packInserted q d (commonWith [.power, .log]) (eventsWith [W.BK_STATUS, W.CHG_STATUS, W.CHG_FAULT,
        W.CHG_IEFF])
        fun e => e.power = { d.power with seated := true } ∧
          getW e W.BK_STATUS = getW d W.BK_STATUS ∧
          getW e W.CHG_STATUS = getW d W.CHG_STATUS) ∧
    (adcOn d = false →
      Completes .packInserted q d (commonWith [.power, .log]) (eventsWith [W.BK_STATUS, W.CHG_STATUS, W.CHG_FAULT,
        W.CHG_IEFF])
        fun e => e.power = d.power ∧
          getW e W.BK_STATUS = getW d W.BK_STATUS ∧
          getW e W.CHG_STATUS = getW d W.CHG_STATUS) ∧
    (hcdOn d = true →
      Completes .bkFault q d (commonWith [.link, .vly, .power, .log, .freeN]) (eventsWith [W.BK_STATUS, W.CHG_STATUS,
        W.CHG_FAULT, W.CHG_IEFF, W.GAUGE_STATUS, W.GAUGE_REM, W.GAUGE_RSV, W.GAUGE_VLY, W.GAUGE_AVAIL, W.GAUGE_ERR,
        W.VLY_STATUS, W.VLY_LAST])
        fun e => bkState e = 9 ∧
          flag e W.CHG_FAULT_BK_FAULT = true ∧
          e.power.fault = true ∧
          chgState e = (if chargingState (chgState d) = true then 9 else chgState d) ∧
          raised 399 d e = true) ∧
    (hcdOn d = false →
      Completes .bkFault q d (commonWith [.link, .vly, .power, .log, .freeN]) (eventsWith [W.BK_STATUS, W.CHG_STATUS,
        W.CHG_FAULT, W.CHG_IEFF, W.GAUGE_STATUS, W.GAUGE_REM, W.GAUGE_RSV, W.GAUGE_VLY, W.GAUGE_AVAIL, W.GAUGE_ERR,
        W.VLY_STATUS, W.VLY_LAST])
        fun e => getW e W.BK_STATUS = getW d W.BK_STATUS ∧
          getW e W.CHG_STATUS = getW d W.CHG_STATUS ∧
          getW e W.CHG_FAULT = getW d W.CHG_FAULT ∧
          e.power = d.power) ∧
    (∀ (n : Fin 32),
      (rail d n).enabled = true →
      (rail d n).fallFail = false →
      d.mode = .holdup →
      fld d W.GAUGE_STATUS_ANCHOR = 0 →
      ridesLine d = false →
      Completes .unanchoredHoldupEnd q d (commonWith [.mode, .prev, .roofTime, .cycles, .core, .rails, .seq, .cl, .link,
        .vly, .gauge, .rtc, .log, .fw]) none
        fun e => e.mode = .descend ∧
          e.seq.desc.map (fun x => x.kind) = some .orderly) ∧
    ((d.mode ≠ .holdup ∨ fld d W.GAUGE_STATUS_ANCHOR ≠ 0 ∨ ridesLine d = true) →
      Completes .unanchoredHoldupEnd q d (commonWith [.mode, .prev, .roofTime, .cycles, .core, .rails, .seq, .cl, .link,
        .vly, .gauge, .rtc, .log, .fw]) none
        fun e => e = d)

/-- CHG_KICK restarts the watchdog from the host, ends the safe envelope of an adoption from Thatch and answers with
WD_PERIOD; CHG_CLEAR clears the faults and takes FAULT to QUALIFY, or to NOPACK without a pack; both are refused outside their
modes, CHG_CLEAR also of a stage fault with VSUP low. At a tick the charge cycle takes the step of its present state
(disabled, faulty, suspended, resumed, qualifying, PRE, CC, DONE, recharge wait, or none), the zone, the timers, the current
target and the termination are judged. A conversion of PACK_NTC enters the mean or reports a short; 64 s of termination end
the cycle with CHG_DONE and outside the cool and warm zones anchor the gauge, while a removal on that tick acts alone; an
expired safety timer is latched and raised; the watchdog's expiry puts the safe settings in force. Each row says where it does
nothing. -/
def Obligations.ChargerCommandsComplete : Prop :=
  ∀ (q : List Instr) (d : Device), canonical d = true →
    (∀ (rq : Req),
      engineOn d = true →
      modeOk .live d = true →
      Completes (.chgKick rq) q d (commonWith [.power]) (some eventTables)
        fun e => (srcIsHost rq.src = true → e.power = { d.power with wdFrom := d.roofTime, wdOut := false }) ∧
          (rq.src = .thatch → e.power = { d.power with safeKeep := false }) ∧
          (rq.src = .purlin → e.power = d.power) ∧
          answered rq 0x40 .ok (BitVec.ofNat 32 (fld d W.CHG_WD_WD_PERIOD)) 0#32 d e = true ∧
          flag e W.CHG_STATUS_WD_SAFE = flag d W.CHG_STATUS_WD_SAFE) ∧
    (∀ (rq : Req),
      engineOn d = true →
      modeOk .live d = false →
      Completes (.chgKick rq) q d (commonWith [.power]) (some eventTables)
        fun e => e.power = d.power ∧
          answered rq 0x40 .deniedMode 0#32 0#32 d e = true) ∧
    (∀ (rq : Req),
      engineOn d = true →
      modeOk .live d = true →
      (flag d W.BK_STATUS_VSUP_LOW = false ∨ (bkState d ≠ 9 ∧ d.power.fault = false)) →
      Completes (.chgClear rq) q d (commonWith [.roofTime, .cycles, .power]) (eventsWith [W.BK_STATUS, W.CHG_STATUS,
        W.CHG_FAULT, W.CHG_IEFF])
        fun e => getW e W.CHG_FAULT = 0#32 ∧
          bkState e = (if bkState d = 9 then 1 else bkState d) ∧
          chgState e = (if chgState d = 9 then (if d.power.seated = true then 2 else 1) else chgState d) ∧
          answered rq 0x41 .ok (getW d W.CHG_FAULT) 0#32 d e = true) ∧
    (∀ (rq : Req) (st : Status),
      engineOn d = true →
      firstFail [(modeOk .live d, .deniedMode), (!((bkState d = 9 || d.power.fault) && flag d W.BK_STATUS_VSUP_LOW), .busy)]
        = some st →
      Completes (.chgClear rq) q d (commonWith [.roofTime, .cycles, .power]) (eventsWith [W.BK_STATUS, W.CHG_STATUS,
        W.CHG_FAULT, W.CHG_IEFF])
        fun e => getW e W.CHG_FAULT = getW d W.CHG_FAULT ∧
          getW e W.CHG_STATUS = getW d W.CHG_STATUS ∧
          e.power = d.power ∧
          answered rq 0x41 st 0#32 0#32 d e = true) ∧
    (∀ (lim : BitVec 3) (amps : BitVec 10),
      adcOn d = true →
      flag d W.CHG_CTRL_CHG_EN = false →
      Completes (.chargerTick lim amps) q d (commonWith [.gauge, .power]) (eventsWith [W.BK_STATUS, W.CHG_STATUS,
        W.CHG_TIMER, W.CHG_FAULT, W.CHG_IEFF])
        fun e => chgState e = 0 ∧
          bkState e ≠ 2 ∧
          e.power.tickAt = d.roofTime ∧
          (chgState d = 0 ∨ raised 392 d e = true)) ∧
    (∀ (lim : BitVec 3) (amps : BitVec 10),
      adcOn d = true →
      flag d W.CHG_CTRL_CHG_EN = true →
      chargingState (chgState d) = true →
      chgFaulty d = true →
      Completes (.chargerTick lim amps) q d (commonWith [.gauge, .power]) (eventsWith [W.BK_STATUS, W.CHG_STATUS,
        W.CHG_TIMER, W.CHG_FAULT, W.CHG_IEFF])
        fun e => chgState e = 9 ∧
          bkState e ≠ 2 ∧
          raised 392 d e = true) ∧
    (∀ (lim : BitVec 3) (amps : BitVec 10),
      adcOn d = true →
      flag d W.CHG_CTRL_CHG_EN = true →
      3 ≤ chgState d →
      chgState d ≤ 7 →
      chgFaulty d = false →
      suspCause (evalZone d) ≠ 0 →
      Completes (.chargerTick lim amps) q d (commonWith [.gauge, .power]) (eventsWith [W.BK_STATUS, W.CHG_STATUS,
        W.CHG_TIMER, W.CHG_FAULT, W.CHG_IEFF])
        fun e => chgState e = 8 ∧
          fld e W.CHG_STATUS_SUSP_WHY = suspCause (evalZone d) ∧
          e.power.left = chgState d ∧
          bkState e ≠ 2 ∧
          raised 392 d e = true) ∧
    (∀ (lim : BitVec 3) (amps : BitVec 10) (cause : Nat),
      adcOn d = true →
      flag d W.CHG_CTRL_CHG_EN = true →
      chgState d = 8 →
      chgFaulty d = false →
      cause = suspCause (evalZone d) →
      d.power.left < 8 →
      Completes (.chargerTick lim amps) q d (commonWith [.gauge, .power]) (eventsWith [W.BK_STATUS, W.CHG_STATUS,
        W.CHG_TIMER, W.CHG_FAULT, W.CHG_IEFF])
        fun e => (cause ≠ 0 → chgState e = 8) ∧
          (cause ≠ 0 → fld e W.CHG_STATUS_SUSP_WHY = cause) ∧
          (cause = 0 → chgState e = (if d.power.left = 6 then 7 else d.power.left)) ∧
          (cause = 0 → raised 392 d e = true)) ∧
    (∀ (lim : BitVec 3) (amps : BitVec 10),
      adcOn d = true →
      flag d W.CHG_CTRL_CHG_EN = true →
      chgState d = 2 →
      Completes (.chargerTick lim amps) q d (commonWith [.gauge, .power]) (eventsWith [W.BK_STATUS, W.CHG_STATUS,
        W.CHG_TIMER, W.CHG_FAULT, W.CHG_IEFF])
        fun e => (nCells d * (cvEff (evalZone d) + 50) < vpackMv d → chgState e = 9) ∧
          (nCells d * (cvEff (evalZone d) + 50) < vpackMv d → flag e W.CHG_FAULT_PACK_OV = true) ∧
          (vpackMv d ≤ nCells d * (cvEff (evalZone d) + 50) → vpackMv d < nCells d * 1000 → chgState e = 2) ∧
          (vpackMv d ≤ nCells d * (cvEff (evalZone d) + 50) → nCells d * 1000 ≤ vpackMv d → chgState e = (if vpackMv d <
            nCells d * vPre d then 3 else 4)) ∧
          (vpackMv d ≤ nCells d * (cvEff (evalZone d) + 50) → nCells d * 1000 ≤ vpackMv d → flag e W.BK_STATUS_PACK_PRESENT =
            true)) ∧
    (∀ (lim : BitVec 3) (amps : BitVec 10),
      adcOn d = true →
      flag d W.CHG_CTRL_CHG_EN = true →
      chgFaulty d = false →
      suspCause (evalZone d) = 0 →
      Completes (.chargerTick lim amps) q d (commonWith [.gauge, .power]) (eventsWith [W.BK_STATUS, W.CHG_STATUS,
        W.CHG_TIMER, W.CHG_FAULT, W.CHG_IEFF])
        fun e => (chgState d = 3 → chgState e = (if nCells d * vPre d ≤ vpackMv d ∧ 3 ≤ d.power.ticks4 then 4 else 3)) ∧
          (chgState d = 4 → chgState e = (if nCells d * cvEff (evalZone d) ≤ vpackMv d then 5 else 4)) ∧
          (chgState d = 5 → chgState e = 5) ∧
          (chgState d = 6 → chgState e = 7) ∧
          (chgState d = 7 → chgState e = (if vpackMv d < nCells d * (cvEff (evalZone d) - 100) ∧ 3 ≤ d.power.ticks4 then 4
            else 7)) ∧
          ((chgState d = 3 ∨ chgState d = 4 ∨ chgState d = 5) → bkState d = 1 → bkState e = 2) ∧
          (chgState d = 3 → e.power.pre = d.power.pre + 1) ∧
          (chgState d = 5 → e.power.wall = d.power.wall + 1)) ∧
    (∀ (lim : BitVec 3) (amps : BitVec 10),
      adcOn d = true →
      flag d W.CHG_CTRL_CHG_EN = true →
      (chgState d < 2 ∨ 8 < chgState d) →
      Completes (.chargerTick lim amps) q d (commonWith [.gauge, .power]) (eventsWith [W.BK_STATUS, W.CHG_STATUS,
        W.CHG_TIMER, W.CHG_FAULT, W.CHG_IEFF])
        fun e => chgState e = chgState d ∧
          bkState e ≠ 2 ∧
          e.power.tickAt = d.roofTime) ∧
    (∀ (lim : BitVec 3) (amps : BitVec 10) (t n : Int),
      adcOn d = true →
      d.power.ntc ≠ [] →
      t = d.power.ntc.foldl (· + ·) 0 →
      n = d.power.ntc.length →
      d.power.placed = false →
      Completes (.chargerTick lim amps) q d (commonWith [.gauge, .power]) (eventsWith [W.BK_STATUS, W.CHG_STATUS,
        W.CHG_TIMER, W.CHG_FAULT, W.CHG_IEFF])
        fun e => (chgState d ≠ 2 → e.power.placed = true) ∧
          chgZone e = zoneDirect t n ∧
          (chgZone d = zoneDirect t n ∨ raised 394 d e = true)) ∧
    (∀ (lim : BitVec 3) (amps : BitVec 10) (outer : Bool),
      adcOn d = true →
      Completes (.chargerTick lim amps) q d (commonWith [.gauge, .power]) (eventsWith [W.BK_STATUS, W.CHG_STATUS,
        W.CHG_TIMER, W.CHG_FAULT, W.CHG_IEFF])
        fun e => (outer = (((lim.toNat = 3 && fld d W.VSUP_CFG_ILIM_IN ≠ 0) || lim.toNat = 4 || (lim.toNat = 6 && chgState e
          = 5)) && amps.toNat * 10 < (chgCeiling e).1) → fld e W.CHG_IEFF_LIMITER = (if outer then lim.toNat else (chgCeiling
          e).2)) ∧
          (outer = (((lim.toNat = 3 && fld d W.VSUP_CFG_ILIM_IN ≠ 0) || lim.toNat = 4 || (lim.toNat = 6 && chgState e = 5))
            && amps.toNat * 10 < (chgCeiling e).1) → fld e W.CHG_IEFF_I_TARGET = (if bkState e = 2 then (if outer then
            amps.toNat else (chgCeiling e).1 / 10) else 0)) ∧
          (flag e W.CHG_STATUS_TERM_COUNTING = true → (bkState e = 2 ∧ chgState e = 5 ∧ fld e W.CHG_IEFF_LIMITER = 6)) ∧
          (chgState d = 5 → flag e W.CHG_STATUS_TERM_COUNTING = true → e.power.term = d.power.term + 1)) ∧
    (∀ (lim : BitVec 3) (amps : BitVec 10),
      adcOn d = false →
      Completes (.chargerTick lim amps) q d (commonWith [.gauge, .power]) (eventsWith [W.BK_STATUS, W.CHG_STATUS,
        W.CHG_TIMER, W.CHG_FAULT, W.CHG_IEFF])
        fun e => e = d) ∧
    (∀ (short : Bool),
      adcOn d = true →
      short = false →
      Completes (.packNtcConversion short) q d (commonWith [.power]) (eventsWith [W.CHG_FAULT])
        fun e => e.power = { d.power with ntc := (adcVal d 94 :: d.power.ntc).take 4 } ∧
          getW e W.CHG_FAULT = getW d W.CHG_FAULT ∧
          getW e W.CHG_STATUS = getW d W.CHG_STATUS) ∧
    (∀ (short : Bool),
      adcOn d = true →
      short = true →
      Completes (.packNtcConversion short) q d (commonWith [.power]) (eventsWith [W.CHG_FAULT])
        fun e => flag e W.CHG_FAULT_NTC_SHORT = true ∧
          e.power = d.power ∧
          (flag d W.CHG_FAULT_NTC_SHORT = true ∨ raised 397 d e = true)) ∧
    (∀ (short : Bool),
      adcOn d = false →
      Completes (.packNtcConversion short) q d (commonWith [.power]) (eventsWith [W.CHG_FAULT])
        fun e => e = d) ∧
    (∀ (removed : Bool) (reduced : Bool),
      removed = false →
      chgState d = 5 →
      64 ≤ d.power.term →
      flag d W.CHG_STATUS_TERM_COUNTING = true →
      reduced = (chgZone d = 1 || chgZone d = 3) →
      Completes (.chgDone removed) q d (commonWith [.link, .vly, .gauge, .power, .log, .freeN]) (eventsWith [W.COLD_STATUS,
        W.BK_STATUS, W.CHG_STATUS, W.CHG_FAULT, W.CHG_IEFF, W.GAUGE_STATUS, W.GAUGE_REM, W.GAUGE_FCC, W.GAUGE_RSV,
        W.GAUGE_VLY, W.GAUGE_AVAIL, W.GAUGE_ERR, W.LEARN_DQ, W.LEARN_LAST, W.VLY_STATUS, W.VLY_LAST, W.GUT_STATUS, W.GUT_CNT])
        fun e => chgState e = 6 ∧
          flag e W.CHG_STATUS_DONE_REDUCED = reduced ∧
          (reduced = true → e.gauge = d.gauge) ∧
          (reduced = false → e.gauge.rem = fld e W.GAUGE_FCC_FCC * 360000) ∧
          (reduced = false → fld e W.GAUGE_STATUS_ANCHOR = 1) ∧
          (reduced = false → raised 416 d e = true) ∧
          bkState e ≠ 2 ∧
          raised 393 d e = true) ∧
    (∀ (removed : Bool),
      removed = true →
      adcOn d = true →
      Completes (.chgDone removed) q d (commonWith [.link, .vly, .gauge, .power, .log, .freeN]) (eventsWith [W.COLD_STATUS,
        W.BK_STATUS, W.CHG_STATUS, W.CHG_FAULT, W.CHG_IEFF, W.GAUGE_STATUS, W.GAUGE_REM, W.GAUGE_FCC, W.GAUGE_RSV,
        W.GAUGE_VLY, W.GAUGE_AVAIL, W.GAUGE_ERR, W.LEARN_DQ, W.LEARN_LAST, W.VLY_STATUS, W.VLY_LAST, W.GUT_STATUS, W.GUT_CNT])
        fun e => bkState e = (if bkState d = 9 then 9 else if hcdOn d = true then 7 else 0) ∧
          chgState e = (if flag d W.CHG_CTRL_CHG_EN = true then 1 else chgState d) ∧
          flag e W.BK_STATUS_PACK_PRESENT = false ∧
          fld e W.GAUGE_STATUS_ANCHOR = 0 ∧
          raised 389 d e = true ∧
          raised 418 d e = true) ∧
    (∀ (removed : Bool),
      ((removed = true ∧ adcOn d = false) ∨ (removed = false ∧ (chgState d ≠ 5 ∨ d.power.term < 64 ∨ flag d
        W.CHG_STATUS_TERM_COUNTING = false))) →
      Completes (.chgDone removed) q d (commonWith [.link, .vly, .gauge, .power, .log, .freeN]) (eventsWith [W.COLD_STATUS,
        W.BK_STATUS, W.CHG_STATUS, W.CHG_FAULT, W.CHG_IEFF, W.GAUGE_STATUS, W.GAUGE_REM, W.GAUGE_FCC, W.GAUGE_RSV,
        W.GAUGE_VLY, W.GAUGE_AVAIL, W.GAUGE_ERR, W.LEARN_DQ, W.LEARN_LAST, W.VLY_STATUS, W.VLY_LAST, W.GUT_STATUS, W.GUT_CNT])
        fun e => e = d) ∧
    (flag d W.CHG_FAULT_CHG_TIMEOUT = false →
      chgState d = 3 →
      1800 ≤ d.power.pre →
      Completes .chgTimeout q d (commonWith [.log, .freeN]) (eventsWith [W.CHG_FAULT, W.GUT_STATUS, W.GUT_CNT])
        fun e => flag e W.CHG_FAULT_CHG_TIMEOUT = true ∧
          flag e W.CHG_FAULT_PRE_TIMEOUT = true ∧
          chgState e = chgState d ∧
          raised 395 d e = true) ∧
    (flag d W.CHG_FAULT_CHG_TIMEOUT = false →
      (((chgState d = 4 ∨ chgState d = 5) ∧ 2 * fastLimit d ≤ d.power.fast) ∨ ((chgState d = 4 ∨ chgState d = 5 ∨ chgState d
        = 8) ∧ 2 * fastLimit d ≤ d.power.wall)) →
      Completes .chgTimeout q d (commonWith [.log, .freeN]) (eventsWith [W.CHG_FAULT, W.GUT_STATUS, W.GUT_CNT])
        fun e => flag e W.CHG_FAULT_CHG_TIMEOUT = true ∧
          flag e W.CHG_FAULT_FAST_TIMEOUT = true ∧
          chgState e = chgState d ∧
          raised 395 d e = true) ∧
    ((flag d W.CHG_FAULT_CHG_TIMEOUT = true ∨ (chgState d ≠ 3 ∧ chgState d ≠ 4 ∧ chgState d ≠ 5 ∧ chgState d ≠ 8) ∨ (chgState
      d = 3 ∧ d.power.pre < 1800) ∨ ((chgState d = 4 ∨ chgState d = 5) ∧ d.power.fast < 2 * fastLimit d ∧ d.power.wall < 2 *
      fastLimit d) ∨ (chgState d = 8 ∧ d.power.wall < 2 * fastLimit d)) →
      Completes .chgTimeout q d (commonWith [.log, .freeN]) (eventsWith [W.CHG_FAULT, W.GUT_STATUS, W.GUT_CNT])
        fun e => e = d) ∧
    (flag d W.CHG_WD_WD_EN = true →
      d.power.wdOut = false →
      inMode d [.dormant, .standby] = false →
      Completes .chgWdExpired q d (commonWith [.roofTime, .cycles, .power]) (eventsWith [W.CHG_STATUS, W.CHG_FAULT])
        fun e => flag e W.CHG_STATUS_WD_SAFE = true ∧
          flag e W.CHG_FAULT_WD_EXPIRED = true ∧
          e.power = { d.power with wdOut := true } ∧
          e.roofTime = max d.roofTime (d.power.wdFrom + fld d W.CHG_WD_WD_PERIOD * 100000000) ∧
          raised 396 d e = true) ∧
    ((flag d W.CHG_WD_WD_EN = false ∨ d.power.wdOut = true ∨ inMode d [.dormant, .standby] = true) →
      Completes .chgWdExpired q d (commonWith [.roofTime, .cycles, .power]) (eventsWith [W.CHG_STATUS, W.CHG_FAULT])
        fun e => e = d)

/-- A conversion turns its sense voltage into the pack current, adds it to the remaining charge and shows it; the 1,000th
below I_QUIET enters quiet mode, and the eighth low sample in a row is the empty anchor. A quiet conversion adds the last
current for 249 ms and then the new one; the comparator ends quiet mode; the empty anchor is armed again; USABLE, Q_RSV and
Q_AVAIL follow their formulas; a checkpoint records the gauge while Thatch runs. With PD_AFE off, or without their condition,
none of them does anything. -/
def Obligations.GaugeEventsComplete : Prop :=
  ∀ (q : List Instr) (d : Device), canonical d = true →
    (∀ (nv ma : Int) (low : Bool),
      gaugeOn d = true →
      ma = packCurrent nv d →
      low = (vpackMv d ≤ nCells d * vEmpty d && ma ≤ -(iQuiet d : Int)) →
      (low = false ∨ d.gauge.emptyCnt < 7 ∨ d.gauge.emptyArmed = false) →
      Completes (.gaugeConversion nv) q d (commonWith [.mode, .prev, .roofTime, .cycles, .core, .rails, .seq, .cl, .link,
        .vly, .gauge, .rtc, .log, .fw, .freeN]) none
        fun e => e.gauge.rem = d.gauge.rem + ma ∧
          fld e W.GAUGE_I_I_PACK = (ma % 65536).toNat ∧
          e.gauge.below = (if ma.natAbs < iQuiet d then min (d.gauge.below + 1) 1000 else 0) ∧
          e.gauge.emptyCnt = (if low = true then min (d.gauge.emptyCnt + 1) 8 else 0) ∧
          flag e W.GAUGE_STATUS_QUIET = (flag d W.GAUGE_STATUS_QUIET || (ma.natAbs < iQuiet d && 999 ≤ d.gauge.below)) ∧
          getW e W.GAUGE_REM = BitVec.ofInt 32 (remUnits e)) ∧
    (∀ (nv : Int),
      gaugeOn d = true →
      vpackMv d ≤ nCells d * vEmpty d →
      packCurrent nv d ≤ -(iQuiet d : Int) →
      7 ≤ d.gauge.emptyCnt →
      d.gauge.emptyArmed = true →
      Completes (.gaugeConversion nv) q d (commonWith [.mode, .prev, .roofTime, .cycles, .core, .rails, .seq, .cl, .link,
        .vly, .gauge, .rtc, .log, .fw, .freeN]) none
        fun e => e.gauge.rem = 0 ∧
          e.gauge.err = 0 ∧
          e.gauge.emptyArmed = false ∧
          e.gauge.emptyCnt = 0 ∧
          flag e W.GAUGE_STATUS_LEARN_ACTIVE = true ∧
          fld e W.GAUGE_STATUS_LEARN_FROM = 2 ∧
          fld e W.GAUGE_I_I_PACK = (packCurrent nv d % 65536).toNat ∧
          raised 417 d e = true) ∧
    (∀ (nv : Int),
      gaugeOn d = false →
      Completes (.gaugeConversion nv) q d (commonWith [.mode, .prev, .roofTime, .cycles, .core, .rails, .seq, .cl, .link,
        .vly, .gauge, .rtc, .log, .fw, .freeN]) none
        fun e => e = d) ∧
    (∀ (nv ma : Int),
      gaugeOn d = true →
      flag d W.GAUGE_STATUS_QUIET = true →
      ma = packCurrent nv d →
      Completes (.quietConversion nv) q d (commonWith [.mode, .prev, .roofTime, .cycles, .core, .rails, .seq, .cl, .link,
        .vly, .gauge, .rtc, .log, .fw, .freeN]) none
        fun e => e.gauge.rem = d.gauge.rem + lastI d * 249 + ma ∧
          fld e W.GAUGE_I_I_PACK = (ma % 65536).toNat ∧
          e.gauge.lastAt = d.roofTime ∧
          flag e W.GAUGE_STATUS_QUIET = true) ∧
    (∀ (nv : Int),
      (gaugeOn d = false ∨ flag d W.GAUGE_STATUS_QUIET = false) →
      Completes (.quietConversion nv) q d (commonWith [.mode, .prev, .roofTime, .cycles, .core, .rails, .seq, .cl, .link,
        .vly, .gauge, .rtc, .log, .fw, .freeN]) none
        fun e => e = d) ∧
    (gaugeOn d = true →
      flag d W.GAUGE_STATUS_QUIET = true →
      Completes .quietExit q d (commonWith [.mode, .prev, .roofTime, .cycles, .core, .rails, .seq, .cl, .link, .vly, .gauge,
        .rtc, .log, .fw, .freeN]) none
        fun e => flag e W.GAUGE_STATUS_QUIET = false ∧
          e.gauge.rem = d.gauge.rem + lastI d * (d.roofTime - d.gauge.lastAt : Nat) / 100000 ∧
          e.gauge.restFrom = none ∧
          e.gauge.below = 0) ∧
    ((gaugeOn d = false ∨ flag d W.GAUGE_STATUS_QUIET = false) →
      Completes .quietExit q d (commonWith [.mode, .prev, .roofTime, .cycles, .core, .rails, .seq, .cl, .link, .vly, .gauge,
        .rtc, .log, .fw, .freeN]) none
        fun e => e = d) ∧
    (Completes .emptyRearm q d [.gauge] (some [])
        fun e => e = (if gaugeOn d = true then { d with gauge := { d.gauge with emptyArmed := true, emptyCnt := 0 } } else d)) ∧
    (gaugeOn d = true →
      Completes .reserveRecompute q d (commonWith [.mode, .prev, .roofTime, .cycles, .core, .rails, .seq, .cl, .link, .vly,
        .gauge, .rtc, .log, .fw, .freeN]) none
        fun e => getW e W.GAUGE_REM = BitVec.ofInt 32 (remUnits d) ∧
          ((e.mode = d.mode ∨ inMode e operModes = true) → fld e W.GAUGE_RSV_Q_RSV = min (qRsv d) (2 ^ 20 - 1)) ∧
          ((e.mode = d.mode ∨ inMode e operModes = true) → fld e W.GAUGE_AVAIL_Q_AVAIL = min (availOf d) (2 ^ 20 - 1)) ∧
          ((e.mode = d.mode ∨ inMode e operModes = true) → fld e W.GAUGE_STATUS_USABLE = usableOf d) ∧
          (fld d W.GAUGE_STATUS_USABLE = 0 ∨ usableOf d ≠ 0 ∨ raised 419 d e = true)) ∧
    (gaugeOn d = false →
      Completes .reserveRecompute q d (commonWith [.mode, .prev, .roofTime, .cycles, .core, .rails, .seq, .cl, .link, .vly,
        .gauge, .rtc, .log, .fw, .freeN]) none
        fun e => e = d) ∧
    (gaugeOn d = true →
      thatchReady d = true →
      Completes .gaugeCheckpoint q d [.gauge] (some [])
        fun e => e.gauge.ckpt.map (fun k => (k.rem, k.fcc, k.learned, k.anchor, k.err)) = some (d.gauge.rem, fld d
          W.GAUGE_FCC_FCC, !flag d W.COLD_STATUS_LEARN_NOMINAL, fld d W.GAUGE_STATUS_ANCHOR, d.gauge.err) ∧
          e.gauge.ckpt.map (fun k => (k.maxI, k.vpack, k.date, k.time)) = some (d.gauge.maxI, adcCode d 97, getW d
            W.RTC_DATE, getW d W.RTC_TIME) ∧
          e.gauge.removed = false ∧
          e.gauge.maxI = 0 ∧
          e.gauge.rem = d.gauge.rem) ∧
    ((gaugeOn d = false ∨ thatchReady d = false) →
      Completes .gaugeCheckpoint q d [.gauge] (some [])
        fun e => e = d)

/-- The holder drives the next frame start on its roof time, or lets it go while an insertion holds the bus; a frame start
received revives a dead link, ends the hunt when it is spaced, and once FN is known sets OFFSET, corrects roof time and ends
holdover. The device's own slot carries the first payload that applies (ECHO, CAL_RESP of a holder, CAL_REQ while placing,
PRESENCE, DIGEST, the next message, STATUS; PRESENCE alone for a PRESENCE_ONLY device), or is counted as abandoned, or is not
sent. A slot error is counted against its address, and enough of them raise the burst. STATUS, PRESENCE and DIGEST record what
the sender says whatever its mode; the holder answers a CAL_REQ and the guard exchange; a CAL_RESP gives the round trip or
judges the placement. A slot that is not taken in (a link not joined, an own address, a PRESENCE_ONLY device) changes nothing,
and one on a dead link begins the hunt. What a slot's mode starts by R346 can end in a mode without the link, which the
clauses name. -/
def Obligations.FramesAndSlotsComplete : Prop :=
  ∀ (q : List Instr) (d : Device), canonical d = true →
    (∀ (t : Nat),
      isHolder d = true →
      linkState d ≠ 0 →
      linkState d ≠ 9 →
      t = (if d.link.driven = 0 then (d.roofTime + 999) / 1000 * 1000 else (d.roofTime / 1000 + 1) * 1000) →
      d.link.down = none →
      d.vly.endAt = none →
      Completes .frameStartTx q d (commonWith [.mode, .prev, .roofTime, .cycles, .core, .rails, .seq, .cl, .link, .vly,
        .gauge, .rtc, .log, .fw, .freeN]) none
        fun e => t ≤ e.roofTime ∧
          (partOf d = 4 → e.roofTime = t) ∧
          e.link.fn = t / 1000 ∧
          e.link.driven = (if t < d.link.busyTo then d.link.driven else min (d.link.driven + 1) 17) ∧
          e.link.start = (if t < d.link.busyTo then d.link.start else startSymbols (t / 1000)) ∧
          e.link.q17 = []) ∧
    (∀ (t : Nat),
      isHolder d = true →
      linkState d ≠ 0 →
      linkState d ≠ 9 →
      t = (if d.link.driven = 0 then (d.roofTime + 999) / 1000 * 1000 else (d.roofTime / 1000 + 1) * 1000) →
      Completes .frameStartTx q d (commonWith [.mode, .prev, .roofTime, .cycles, .core, .rails, .seq, .cl, .link, .vly,
        .gauge, .rtc, .log, .fw, .freeN]) none
        fun e => t ≤ e.roofTime) ∧
    ((isHolder d = false ∨ linkState d = 0 ∨ linkState d = 9) →
      Completes .frameStartTx q d (commonWith [.mode, .prev, .roofTime, .cycles, .core, .rails, .seq, .cl, .link, .vly,
        .gauge, .rtc, .log, .fw, .freeN]) none
        fun e => e = d) ∧
    (∀ (fn : BitVec 64) (off : Int) (spaced : Bool),
      linkState d ≠ 0 →
      linkState d ≠ 9 →
      isHolder d = false →
      (d.link.known = true ∨ d.link.cycle = 8) →
      (linkState d ≠ 1 ∨ spaced = false) →
      d.link.down = none →
      d.vly.endAt = none →
      Completes (.frameStartRx fn off spaced) q d (commonWith [.mode, .prev, .roofTime, .cycles, .core, .rails, .seq, .cl,
        .link, .vly, .gauge, .rtc, .log, .fw, .freeN]) none
        fun e => getW e W.LNK_OFFSET = BitVec.ofInt 32 off ∧
          e.link.fn = fn.toNat ∧
          e.link.known = true ∧
          e.link.q17 = [] ∧
          flag e W.LNK_STATUS_HOLDOVER = false ∧
          linkState e = (if (linkState d = 5 ∨ linkState d = 6) ∧ disciplined d = true then 4 else linkState d) ∧
          (1600 < off → e.link.half = true) ∧
          (off < -1600 → e.link.stepBy = off.natAbs / 16)) ∧
    (∀ (fn : BitVec 64) (off : Int) (spaced : Bool),
      linkState d ≠ 0 →
      linkState d ≠ 9 →
      isHolder d = false →
      (d.link.known = true ∨ d.link.cycle = 8) →
      Completes (.frameStartRx fn off spaced) q d (commonWith [.mode, .prev, .roofTime, .cycles, .core, .rails, .seq, .cl,
        .link, .vly, .gauge, .rtc, .log, .fw, .freeN]) none
        fun e => d.roofTime ≤ e.roofTime) ∧
    (∀ (fn : BitVec 64) (off : Int) (spaced : Bool),
      linkState d ≠ 0 →
      linkState d ≠ 9 →
      isHolder d = false →
      d.link.known = false →
      d.link.cycle ≠ 8 →
      Completes (.frameStartRx fn off spaced) q d (commonWith [.mode, .prev, .roofTime, .cycles, .core, .rails, .seq, .cl,
        .link, .vly, .gauge, .rtc, .log, .fw, .freeN]) none
        fun e => linkState e = (if linkState d = 1 ∧ spaced = true then 2 else if (linkState d = 5 ∨ linkState d = 6) ∧
          disciplined d = true then 4 else linkState d) ∧
          (linkState d = 1 → spaced = true → e.link.acq = some fn.toNat) ∧
          e.link.cycle = (cycleStart fn.toNat d.link).cycle ∧
          e.link.heard = true ∧
          flag e W.LNK_STATUS_HOLDOVER = false ∧
          e.roofTime = d.roofTime) ∧
    (∀ (fn : BitVec 64) (off : Int) (spaced : Bool),
      linkState d = 9 →
      isHolder d = false →
      Completes (.frameStartRx fn off spaced) q d (commonWith [.mode, .prev, .roofTime, .cycles, .core, .rails, .seq, .cl,
        .link, .vly, .gauge, .rtc, .log, .fw, .freeN]) none
        fun e => linkState e = (if flag d W.LNK_STATUS_ADDR_CONFLICT = true then 8 else 1) ∧
          e.link = d.link) ∧
    (∀ (fn : BitVec 64) (off : Int) (spaced : Bool),
      (linkState d = 0 ∨ isHolder d = true) →
      Completes (.frameStartRx fn off spaced) q d (commonWith [.mode, .prev, .roofTime, .cycles, .core, .rails, .seq, .cl,
        .link, .vly, .gauge, .rtc, .log, .fw, .freeN]) none
        fun e => e.link = d.link ∧
          e.roofTime = d.roofTime ∧
          getW e W.LNK_STATUS = getW d W.LNK_STATUS) ∧
    (∀ (abandoned : Bool) (at_ : Nat),
      (3 ≤ linkState d ∧ linkState d ≤ 7) →
      at_ = d.roofTime / 1000 * 1000 + (4 + 12 * strapOf d) * 10 →
      d.link.busyTo ≤ at_ →
      abandoned = true →
      Completes (.slotTx abandoned) q d (commonWith [.mode, .prev, .roofTime, .cycles, .core, .rails, .seq, .cl, .link, .vly,
        .gauge, .rtc, .log, .fw, .freeN]) none
        fun e => fld e W.LNK_TX_ABANDONED = min (fld d W.LNK_TX_ABANDONED + 1) 65535 ∧
          e.link.sent = d.link.sent ∧
          e.link.q16 = d.link.q16 ∧
          e.link.urgOut = d.link.urgOut ∧
          e.roofTime = max d.roofTime at_) ∧
    (∀ (abandoned : Bool) (at_ : Nat) (u : Urg) (t : List Urg),
      (3 ≤ linkState d ∧ linkState d ≤ 7) →
      at_ = d.roofTime / 1000 * 1000 + (4 + 12 * strapOf d) * 10 →
      d.link.busyTo ≤ at_ →
      partOf d ≠ 4 →
      abandoned = false →
      d.link.urgOut = u :: t →
      Completes (.slotTx abandoned) q d (commonWith [.mode, .prev, .roofTime, .cycles, .core, .rails, .seq, .cl, .link, .vly,
        .gauge, .rtc, .log, .fw, .freeN]) none
        fun e => e.link.urgOut = t ∧
          e.link.sent = slotBytes d 5 (echoWords u).1 (echoWords u).2) ∧
    (∀ (abandoned : Bool) (at_ : Nat) (c : CalResp) (t : List CalResp),
      (3 ≤ linkState d ∧ linkState d ≤ 7) →
      at_ = d.roofTime / 1000 * 1000 + (4 + 12 * strapOf d) * 10 →
      d.link.busyTo ≤ at_ →
      partOf d ≠ 4 →
      abandoned = false →
      d.link.urgOut = [] →
      isHolder d = true →
      d.link.calResp = c :: t →
      Completes (.slotTx abandoned) q d (commonWith [.mode, .prev, .roofTime, .cycles, .core, .rails, .seq, .cl, .link, .vly,
        .gauge, .rtc, .log, .fw, .freeN]) none
        fun e => e.link.calResp = t ∧
          e.link.sent = slotBytes d 3 (calRespWords c).1 (calRespWords c).2) ∧
    (∀ (abandoned : Bool) (at_ : Nat),
      linkState d = 3 →
      at_ = d.roofTime / 1000 * 1000 + (4 + 12 * strapOf d) * 10 →
      d.link.busyTo ≤ at_ →
      partOf d ≠ 4 →
      abandoned = false →
      d.link.urgOut = [] →
      isHolder d = false →
      Completes (.slotTx abandoned) q d (commonWith [.mode, .prev, .roofTime, .cycles, .core, .rails, .seq, .cl, .link, .vly,
        .gauge, .rtc, .log, .fw, .freeN]) none
        fun e => e.link.calSeq = (d.link.calSeq + 1) % 256 ∧
          e.link.sent = slotBytes d 4 (BitVec.ofNat 32 (d.link.calSeq % 256)) 0#32) ∧
    (∀ (abandoned : Bool) (at_ : Nat),
      (3 ≤ linkState d ∧ linkState d ≤ 7) →
      at_ = d.roofTime / 1000 * 1000 + (4 + 12 * strapOf d) * 10 →
      d.link.busyTo ≤ at_ →
      abandoned = false →
      (partOf d = 4 ∨ (d.link.urgOut = [] ∧ (d.link.calResp = [] ∨ isHolder d = false) ∧ (isHolder d = true ∨ linkState d ≠
        3) ∧ max d.roofTime at_ / 1000 % 16 = 0)) →
      Completes (.slotTx abandoned) q d (commonWith [.mode, .prev, .roofTime, .cycles, .core, .rails, .seq, .cl, .link, .vly,
        .gauge, .rtc, .log, .fw, .freeN]) none
        fun e => e.link.sent = slotBytes d 1 (presenceWords d).1 (presenceWords d).2 ∧
          e.link.q16 = d.link.q16) ∧
    (∀ (abandoned : Bool) (at_ : Nat),
      (3 ≤ linkState d ∧ linkState d ≤ 7) →
      at_ = d.roofTime / 1000 * 1000 + (4 + 12 * strapOf d) * 10 →
      d.link.busyTo ≤ at_ →
      abandoned = false →
      partOf d ≠ 4 →
      d.link.urgOut = [] →
      (d.link.calResp = [] ∨ isHolder d = false) →
      (isHolder d = true ∨ linkState d ≠ 3) →
      max d.roofTime at_ / 1000 % 16 = 8 →
      Completes (.slotTx abandoned) q d (commonWith [.mode, .prev, .roofTime, .cycles, .core, .rails, .seq, .cl, .link, .vly,
        .gauge, .rtc, .log, .fw, .freeN]) none
        fun e => e.link.sent = slotBytes d 2 (digestWords d).1 (digestWords d).2 ∧
          e.link.q16 = d.link.q16) ∧
    (∀ (abandoned : Bool) (at_ type fn : Nat) (w1 w2 : Word) (t : List (Nat × Word × Word)),
      (3 ≤ linkState d ∧ linkState d ≤ 7) →
      at_ = d.roofTime / 1000 * 1000 + (4 + 12 * strapOf d) * 10 →
      fn = max d.roofTime at_ / 1000 →
      d.link.busyTo ≤ at_ →
      abandoned = false →
      partOf d ≠ 4 →
      d.link.urgOut = [] →
      (d.link.calResp = [] ∨ isHolder d = false) →
      (isHolder d = true ∨ linkState d ≠ 3) →
      fn % 8 ≠ 0 →
      d.link.q16 = (type, w1, w2) :: t →
      Completes (.slotTx abandoned) q d (commonWith [.mode, .prev, .roofTime, .cycles, .core, .rails, .seq, .cl, .link, .vly,
        .gauge, .rtc, .log, .fw, .freeN]) none
        fun e => (type ≠ 13 → e.link.sent = slotBytes d type w1 w2) ∧
          (type = 13 → e.link.sent = slotBytes d 13 (ackWords fn w1 w2).1 (ackWords fn w1 w2).2) ∧
          ((type ≠ 11 ∧ type ≠ 13) → e.link.q16 = t)) ∧
    (∀ (abandoned : Bool) (at_ : Nat),
      (3 ≤ linkState d ∧ linkState d ≤ 7) →
      at_ = d.roofTime / 1000 * 1000 + (4 + 12 * strapOf d) * 10 →
      d.link.busyTo ≤ at_ →
      abandoned = false →
      partOf d ≠ 4 →
      d.link.urgOut = [] →
      (d.link.calResp = [] ∨ isHolder d = false) →
      (isHolder d = true ∨ linkState d ≠ 3) →
      max d.roofTime at_ / 1000 % 8 ≠ 0 →
      d.link.q16 = [] →
      Completes (.slotTx abandoned) q d (commonWith [.mode, .prev, .roofTime, .cycles, .core, .rails, .seq, .cl, .link, .vly,
        .gauge, .rtc, .log, .fw, .freeN]) none
        fun e => e.link.sent = slotBytes d 0 (statusWords e).1 (statusWords e).2 ∧
          (linkState e = 6 → linkEligible d = true → e.link.claims = setBitNat d.link.claims (strapOf d) true)) ∧
    (∀ (abandoned : Bool),
      (3 ≤ linkState d ∧ linkState d ≤ 7) →
      d.roofTime / 1000 * 1000 + (4 + 12 * strapOf d) * 10 < d.link.busyTo →
      Completes (.slotTx abandoned) q d (commonWith [.mode, .prev, .roofTime, .cycles, .core, .rails, .seq, .cl, .link, .vly,
        .gauge, .rtc, .log, .fw, .freeN]) none
        fun e => e.link.sent = d.link.sent ∧
          e.link.q16 = d.link.q16 ∧
          fld e W.LNK_TX_ABANDONED = fld d W.LNK_TX_ABANDONED) ∧
    (∀ (abandoned : Bool),
      (linkState d < 3 ∨ linkState d = 8 ∨ linkState d = 9) →
      Completes (.slotTx abandoned) q d (commonWith [.mode, .prev, .roofTime, .cycles, .core, .rails, .seq, .cl, .link, .vly,
        .gauge, .rtc, .log, .fw, .freeN]) none
        fun e => e = d) ∧
    (∀ (a : BitVec 3) (preempted : Bool),
      hears d = true →
      Completes (.slotError a preempted) q d (commonWith [.link]) (eventsWith [W.LNK_ERRCNT])
        fun e => fld e W.LNK_ERRCNT_PREEMPTED a.toNat = min (fld d W.LNK_ERRCNT_PREEMPTED a.toNat + (if preempted = true then
          1 else 0)) 65535 ∧
          fld e W.LNK_ERRCNT_ERRORS a.toNat = min (fld d W.LNK_ERRCNT_ERRORS a.toNat + (if preempted = true then 0 else 1))
            65535 ∧
          (preempted = true ∨ d.link.burst = true ∨ fld d W.LNK_CTRL_ERR_TH = 0 ∨ (recentErrors d.link.fn d).length + 1 < fld
            d W.LNK_CTRL_ERR_TH ∨ raised 458 d e = true)) ∧
    (∀ (a : BitVec 3) (preempted : Bool),
      hears d = false →
      Completes (.slotError a preempted) q d (commonWith [.link]) (eventsWith [W.LNK_ERRCNT])
        fun e => e = d) ∧
    (∀ (a : BitVec 3) (mode : BitVec 4) (flags p1 : BitVec 8),
      hears d = true →
      a.toNat ≠ strapOf d →
      partOf d ≠ 4 →
      Completes (.status a mode flags p1) q d (commonWith [.mode, .prev, .roofTime, .cycles, .core, .rails, .seq, .cl, .link,
        .vly, .gauge, .rtc, .log, .fw, .freeN]) none
        fun e => (inMode e [.retain, .standby, .dormant] = true ∨ (fld e W.LNK_STATUS_PRESENT).testBit a.toNat = true) ∧
          (inMode e [.retain, .standby, .dormant] = true ∨ arr e W.ROOF_MODES_MODE a.toNat = mode.toNat) ∧
          (inMode e [.retain, .standby, .dormant] = true ∨ ((peer e a.toNat).disciplined = flags.toNat.testBit 1 ∧ (peer e
            a.toNat).eligible = flags.toNat.testBit 3)) ∧
          (inMode e [.retain, .standby, .dormant] = true ∨ flags.toNat.testBit 0 = false ∨ (isHolder d = true ∧ strapOf d <
            a.toNat) ∨ (fld e W.LNK_STATUS_HOLDER = a.toNat ∧ isHolder e = false)) ∧
          (inMode e [.retain, .standby, .dormant] = true ∨ flags.toNat.testBit 0 = true ∨ flags.toNat.testBit 4 = false ∨
            e.link.claims.testBit a.toNat = true) ∧
          ((fld d W.LNK_STATUS_PRESENT).testBit a.toNat = true ∨ raised 452 d e = true)) ∧
    (∀ (a : BitVec 3) (mode : BitVec 4) (flags p1 : BitVec 8),
      linkState d = 9 →
      Completes (.status a mode flags p1) q d (commonWith [.mode, .prev, .roofTime, .cycles, .core, .rails, .seq, .cl, .link,
        .vly, .gauge, .rtc, .log, .fw, .freeN]) none
        fun e => linkState e = (if flag d W.LNK_STATUS_ADDR_CONFLICT = true then 8 else 1) ∧
          e.link = d.link) ∧
    (∀ (a : BitVec 3) (mode : BitVec 4) (flags p1 : BitVec 8),
      linkState d ≠ 9 →
      (hears d = false ∨ a.toNat = strapOf d ∨ partOf d = 4) →
      Completes (.status a mode flags p1) q d (commonWith [.mode, .prev, .roofTime, .cycles, .core, .rails, .seq, .cl, .link,
        .vly, .gauge, .rtc, .log, .fw, .freeN]) none
        fun e => e.link = d.link ∧
          getW e W.LNK_STATUS = getW d W.LNK_STATUS ∧
          e.mode = d.mode) ∧
    (∀ (a : BitVec 3) (mode : BitVec 4) (major : BitVec 8) (compat features : BitVec 16),
      hears d = true →
      a.toNat ≠ strapOf d →
      Completes (.presence a mode major compat features) q d (commonWith [.mode, .prev, .roofTime, .cycles, .core, .rails,
        .seq, .cl, .link, .vly, .gauge, .rtc, .log, .fw, .freeN]) none
        fun e => (inMode e [.retain, .standby, .dormant] = true ∨ ((peer e a.toNat).proto = some major.toNat ∧ (peer e
          a.toNat).compat = compat.toNat ∧ (peer e a.toNat).features = features.toNat)) ∧
          (inMode e [.retain, .standby, .dormant] = true ∨ (fld e W.LNK_STATUS_PRESENT).testBit a.toNat = true) ∧
          (inMode e [.retain, .standby, .dormant] = true ∨ arr e W.ROOF_MODES_MODE a.toNat = mode.toNat) ∧
          ((fld d W.LNK_STATUS_PRESENT).testBit a.toNat = true ∨ raised 452 d e = true)) ∧
    (∀ (a : BitVec 3) (mode : BitVec 4) (major : BitVec 8) (compat features : BitVec 16),
      linkState d = 9 →
      partOf d ≠ 4 →
      Completes (.presence a mode major compat features) q d (commonWith [.mode, .prev, .roofTime, .cycles, .core, .rails,
        .seq, .cl, .link, .vly, .gauge, .rtc, .log, .fw, .freeN]) none
        fun e => linkState e = (if flag d W.LNK_STATUS_ADDR_CONFLICT = true then 8 else 1) ∧
          e.link = d.link) ∧
    (∀ (a : BitVec 3) (mode : BitVec 4) (major : BitVec 8) (compat features : BitVec 16),
      ((linkState d ≠ 9 ∧ hears d = false) ∨ (linkState d ≠ 9 ∧ a.toNat = strapOf d)) →
      Completes (.presence a mode major compat features) q d (commonWith [.mode, .prev, .roofTime, .cycles, .core, .rails,
        .seq, .cl, .link, .vly, .gauge, .rtc, .log, .fw, .freeN]) none
        fun e => e.link = d.link ∧
          getW e W.LNK_STATUS = getW d W.LNK_STATUS ∧
          e.mode = d.mode) ∧
    (∀ (a : BitVec 3) (mode : BitVec 4) (digest : BitVec 64),
      hears d = true →
      a.toNat ≠ strapOf d →
      partOf d ≠ 4 →
      Completes (.digest a mode digest) q d (commonWith [.mode, .prev, .roofTime, .cycles, .core, .rails, .seq, .cl, .link,
        .vly, .gauge, .rtc, .log, .fw, .freeN]) none
        fun e => (inMode e [.retain, .standby, .dormant] = true ∨ ((peer e a.toNat).digest = some digest.toNat ∧ (fld e
          W.LNK_STATUS_PRESENT).testBit a.toNat = true)) ∧
          (inMode e [.retain, .standby, .dormant] = true ∨ arr e W.ROOF_MODES_MODE a.toNat = mode.toNat) ∧
          ((fld d W.LNK_STATUS_PRESENT).testBit a.toNat = true ∨ raised 452 d e = true)) ∧
    (∀ (a : BitVec 3) (mode : BitVec 4) (digest : BitVec 64) (b : Nat),
      hears d = true →
      a.toNat ≠ strapOf d →
      partOf d ≠ 4 →
      (mode ≠ 7#4 ∧ mode ≠ 8#4 ∧ mode ≠ 2#4) →
      isHolder d = true →
      digest.toNat ≠ d.otp.digest →
      b ≠ strapOf d →
      b ≠ a.toNat →
      b < 8 →
      present d b = true →
      (peer d b).digest = some digest.toNat →
      ((List.range 8).filter (fun x => x ≠ strapOf d && x ≠ a.toNat && present d x)).all (fun x => (peer d x).digest ≠ some
        d.otp.digest) = true →
      Completes (.digest a mode digest) q d (commonWith [.mode, .prev, .roofTime, .cycles, .core, .rails, .seq, .cl, .link,
        .vly, .gauge, .rtc, .log, .fw, .freeN]) none
        fun e => flag e W.ROOF_STATUS_RESIGNED = true ∧
          isHolder e = false ∧
          linkState e = 6 ∧
          flag e W.LNK_STATUS_HOLDER_VALID = false ∧
          partOf e = 3 ∧
          fld e W.ROOF_STATUS_EXCL_CAUSE = 6 ∧
          raised 493 d e = true) ∧
    (∀ (a : BitVec 3) (mode : BitVec 4) (digest : BitVec 64),
      linkState d = 9 →
      Completes (.digest a mode digest) q d (commonWith [.mode, .prev, .roofTime, .cycles, .core, .rails, .seq, .cl, .link,
        .vly, .gauge, .rtc, .log, .fw, .freeN]) none
        fun e => linkState e = (if flag d W.LNK_STATUS_ADDR_CONFLICT = true then 8 else 1) ∧
          e.link = d.link) ∧
    (∀ (a : BitVec 3) (mode : BitVec 4) (digest : BitVec 64),
      linkState d ≠ 9 →
      (hears d = false ∨ a.toNat = strapOf d ∨ partOf d = 4) →
      Completes (.digest a mode digest) q d (commonWith [.mode, .prev, .roofTime, .cycles, .core, .rails, .seq, .cl, .link,
        .vly, .gauge, .rtc, .log, .fw, .freeN]) none
        fun e => e.link = d.link ∧
          getW e W.LNK_STATUS = getW d W.LNK_STATUS ∧
          e.mode = d.mode) ∧
    (∀ (a : BitVec 3) (mode : BitVec 4) (seq : BitVec 8) (err : Int),
      hears d = true →
      a.toNat ≠ strapOf d →
      partOf d ≠ 4 →
      Completes (.calReq a mode seq err) q d (commonWith [.mode, .prev, .roofTime, .cycles, .core, .rails, .seq, .cl, .link,
        .vly, .gauge, .rtc, .log, .fw, .freeN]) none
        fun e => (inMode e [.retain, .standby, .dormant] = true ∨ e.link.calResp = d.link.calResp ++ (if isHolder d = true
          then [{ target := a.toNat, kind := 1, value := err, seq := seq.toNat }] else [])) ∧
          (inMode e [.retain, .standby, .dormant] = true ∨ (fld e W.LNK_STATUS_PRESENT).testBit a.toNat = true)) ∧
    (∀ (a : BitVec 3) (mode : BitVec 4) (seq : BitVec 8) (err : Int),
      linkState d = 9 →
      Completes (.calReq a mode seq err) q d (commonWith [.mode, .prev, .roofTime, .cycles, .core, .rails, .seq, .cl, .link,
        .vly, .gauge, .rtc, .log, .fw, .freeN]) none
        fun e => linkState e = (if flag d W.LNK_STATUS_ADDR_CONFLICT = true then 8 else 1) ∧
          e.link = d.link) ∧
    (∀ (a : BitVec 3) (mode : BitVec 4) (seq : BitVec 8) (err : Int),
      linkState d ≠ 9 →
      (hears d = false ∨ a.toNat = strapOf d ∨ partOf d = 4) →
      Completes (.calReq a mode seq err) q d (commonWith [.mode, .prev, .roofTime, .cycles, .core, .rails, .seq, .cl, .link,
        .vly, .gauge, .rtc, .log, .fw, .freeN]) none
        fun e => e.link = d.link ∧
          e.mode = d.mode) ∧
    (∀ (a : BitVec 3) (mode : BitVec 4) (target kind : BitVec 8) (v : Int),
      linkState d = 3 →
      a.toNat ≠ strapOf d →
      a.toNat = fld d W.LNK_STATUS_HOLDER →
      target.toNat = strapOf d →
      partOf d ≠ 4 →
      kind = 1#8 →
      Completes (.calResp a mode target kind v) q d (commonWith [.mode, .prev, .roofTime, .cycles, .core, .rails, .seq, .cl,
        .link, .vly, .gauge, .rtc, .log, .fw, .freeN]) none
        fun e => (inMode e [.retain, .standby, .dormant] = true ∨ e.link.placed = (if v.natAbs ≤ 4 then min (d.link.placed +
          1) 4 else 0)) ∧
          (inMode e [.retain, .standby, .dormant] = true ∨ linkState e = 3)) ∧
    (∀ (a : BitVec 3) (mode : BitVec 4) (target kind : BitVec 8) (v : Int),
      linkState d = 2 →
      d.link.guardSent = true →
      a.toNat ≠ strapOf d →
      a.toNat = fld d W.LNK_STATUS_HOLDER →
      target.toNat = strapOf d →
      partOf d ≠ 4 →
      kind = 0#8 →
      Completes (.calResp a mode target kind v) q d (commonWith [.mode, .prev, .roofTime, .cycles, .core, .rails, .seq, .cl,
        .link, .vly, .gauge, .rtc, .log, .fw, .freeN]) none
        fun e => (inMode e [.retain, .standby, .dormant] = true ∨ linkState e = 3) ∧
          (inMode e [.retain, .standby, .dormant] = true ∨ fld e W.LNK_DELAY_RTT = (v % 65536).toNat) ∧
          (inMode e [.retain, .standby, .dormant] = true ∨ e.link.placed = 0)) ∧
    (∀ (a : BitVec 3) (mode : BitVec 4) (target kind : BitVec 8) (v : Int),
      hears d = true →
      a.toNat ≠ strapOf d →
      partOf d ≠ 4 →
      (target.toNat ≠ strapOf d ∨ a.toNat ≠ fld d W.LNK_STATUS_HOLDER ∨ 2 ≤ kind.toNat ∨ (kind = 0#8 ∧ (linkState d ≠ 2 ∨
        d.link.guardSent = false)) ∨ (kind = 1#8 ∧ linkState d ≠ 3)) →
      Completes (.calResp a mode target kind v) q d (commonWith [.mode, .prev, .roofTime, .cycles, .core, .rails, .seq, .cl,
        .link, .vly, .gauge, .rtc, .log, .fw, .freeN]) none
        fun e => (inMode e [.retain, .standby, .dormant] = true ∨ (e.link.placed = d.link.placed ∧ fld e W.LNK_DELAY_RTT =
          fld d W.LNK_DELAY_RTT)) ∧
          (inMode e [.retain, .standby, .dormant] = true ∨ (fld e W.LNK_STATUS_PRESENT).testBit a.toNat = true)) ∧
    (∀ (a : BitVec 3) (mode : BitVec 4) (target kind : BitVec 8) (v : Int),
      linkState d = 9 →
      Completes (.calResp a mode target kind v) q d (commonWith [.mode, .prev, .roofTime, .cycles, .core, .rails, .seq, .cl,
        .link, .vly, .gauge, .rtc, .log, .fw, .freeN]) none
        fun e => linkState e = (if flag d W.LNK_STATUS_ADDR_CONFLICT = true then 8 else 1) ∧
          e.link = d.link) ∧
    (∀ (a : BitVec 3) (mode : BitVec 4) (target kind : BitVec 8) (v : Int),
      linkState d ≠ 9 →
      (hears d = false ∨ a.toNat = strapOf d ∨ partOf d = 4) →
      Completes (.calResp a mode target kind v) q d (commonWith [.mode, .prev, .roofTime, .cycles, .core, .rails, .seq, .cl,
        .link, .vly, .gauge, .rtc, .log, .fw, .freeN]) none
        fun e => e.link = d.link ∧
          e.mode = d.mode) ∧
    (∀ (a : BitVec 3) (rtt : Int),
      frameOfEight d = some a.toNat →
      isHolder d = true →
      a.toNat ≠ strapOf d →
      Completes (.guardExchange a rtt) q d [.link] (some [])
        fun e => e =
          { d with link := { d.link with calResp := { target := a.toNat, kind := 0, value := rtt, seq := 0 } :: d.link.calResp } }) ∧
    (∀ (a : BitVec 3) (rtt : Int),
      frameOfEight d = some a.toNat →
      linkState d = 2 →
      a.toNat = strapOf d →
      Completes (.guardExchange a rtt) q d [.link] (some [])
        fun e => e = { d with link := { d.link with guardSent := true } }) ∧
    (∀ (a : BitVec 3) (rtt : Int),
      (frameOfEight d ≠ some a.toNat ∨ (isHolder d = false ∧ linkState d ≠ 2) ∨ (a.toNat = strapOf d ∧ linkState d ≠ 2) ∨
        (isHolder d = false ∧ a.toNat ≠ strapOf d)) →
      Completes (.guardExchange a rtt) q d [.link] (some [])
        fun e => e = d)

/-- A device becomes disciplined after its placement and 16 frames, as a holder that has driven 16 frames, or alone after 16
frame periods; an eligible device that hears no frame start becomes holder with roof time 0; at a handover the target becomes
holder and the old holder stops; a lost holder is followed by the lowest claimant; holdover that runs out and a dead bus undo
discipline; a lost member leaves PRESENT, and the holder inserts LOSS for it; an address conflict silences the device; a lost
urgent symbol is inserted again. Outside its condition each row changes nothing. -/
def Obligations.HoldersAndErrorsComplete : Prop :=
  ∀ (q : List Instr) (d : Device), canonical d = true →
    (flag d W.LNK_STATUS_DISCIPLINED = false →
      alone d = true →
      4 ≤ fld d W.MODE_STATUS_BOOT_STAGE →
      inMode d [.dormant, .standby] = false →
      Completes .disciplined q d (commonWith [.mode, .prev, .roofTime, .cycles, .core, .rails, .seq, .cl, .link, .vly,
        .gauge, .rtc, .log, .fw, .freeN]) none
        fun e => flag e W.LNK_STATUS_DISCIPLINED = true ∧
          flag e W.COLD_STATUS_LINK_UNDISCIPLINED = false ∧
          e.roofTime = max d.roofTime (d.link.startAt + 16000) ∧
          raised 450 d e = true) ∧
    (flag d W.LNK_STATUS_DISCIPLINED = false →
      alone d = false →
      isHolder d = true →
      17 ≤ d.link.driven →
      Completes .disciplined q d (commonWith [.mode, .prev, .roofTime, .cycles, .core, .rails, .seq, .cl, .link, .vly,
        .gauge, .rtc, .log, .fw, .freeN]) none
        fun e => flag e W.LNK_STATUS_DISCIPLINED = true ∧
          flag e W.COLD_STATUS_LINK_UNDISCIPLINED = false ∧
          linkState e = linkState d ∧
          raised 450 d e = true) ∧
    (∀ (f : Nat),
      flag d W.LNK_STATUS_DISCIPLINED = false →
      alone d = false →
      isHolder d = false →
      linkState d = 3 →
      4 ≤ d.link.placed →
      d.link.known = true →
      d.link.acq = some f →
      f + 16 ≤ d.link.fn →
      Completes .disciplined q d (commonWith [.mode, .prev, .roofTime, .cycles, .core, .rails, .seq, .cl, .link, .vly,
        .gauge, .rtc, .log, .fw, .freeN]) none
        fun e => flag e W.LNK_STATUS_DISCIPLINED = true ∧
          flag e W.COLD_STATUS_LINK_UNDISCIPLINED = false ∧
          linkState e = 4 ∧
          raised 450 d e = true) ∧
    ((flag d W.LNK_STATUS_DISCIPLINED = true ∨ (alone d = true ∧ (fld d W.MODE_STATUS_BOOT_STAGE < 4 ∨ inMode d [.dormant,
      .standby] = true)) ∨ (alone d = false ∧ isHolder d = true ∧ d.link.driven < 17) ∨ (alone d = false ∧ isHolder d = false
      ∧ (linkState d ≠ 3 ∨ d.link.placed < 4 ∨ d.link.known = false ∨ d.link.acq.all (fun f => d.link.fn < f + 16) = true))) →
      Completes .disciplined q d (commonWith [.mode, .prev, .roofTime, .cycles, .core, .rails, .seq, .cl, .link, .vly,
        .gauge, .rtc, .log, .fw, .freeN]) none
        fun e => e = d) ∧
    (linkEn d = true →
      linkState d = 1 →
      linkEligible d = true →
      d.link.heard = false →
      Completes .holderElection q d (commonWith [.roofTime, .cycles, .link]) (eventsWith [W.LNK_STATUS, W.LNK_DELAY,
        W.LNK_OFFSET, W.ROOF_STATUS])
        fun e => linkState e = 7 ∧
          isHolder e = true ∧
          fld e W.LNK_STATUS_HOLDER = strapOf d ∧
          flag e W.LNK_STATUS_HOLDER_VALID = true ∧
          e.roofTime = 0 ∧
          e.link.fn = 0 ∧
          e.link.known = true) ∧
    ((linkEn d = false ∨ linkState d ≠ 1 ∨ linkEligible d = false ∨ d.link.heard = true) →
      Completes .holderElection q d (commonWith [.roofTime, .cycles, .link]) (eventsWith [W.LNK_STATUS, W.LNK_DELAY,
        W.LNK_OFFSET, W.ROOF_STATUS])
        fun e => e = d) ∧
    (∀ (t : Nat),
      d.link.handTo = some t →
      t < 8 →
      linkState d ≠ 0 →
      d.link.fn % 16 = 15 →
      t ≠ strapOf d →
      Completes .holderHandover q d (commonWith [.link]) (eventsWith [W.LNK_STATUS, W.LNK_DELAY, W.LNK_OFFSET, W.ROOF_STATUS])
        fun e => isHolder e = false ∧
          (isHolder d = true → linkState e = 4) ∧
          (isHolder d = false → linkState e = linkState d) ∧
          fld e W.LNK_STATUS_HOLDER = t ∧
          e.link.handTo = none ∧
          ((flag d W.LNK_STATUS_HOLDER_VALID = true ∧ fld d W.LNK_STATUS_HOLDER = t) ∨ raised 448 d e = true)) ∧
    (∀ (t : Nat),
      d.link.handTo = some t →
      linkState d ≠ 0 →
      d.link.fn % 16 = 15 →
      t = strapOf d →
      Completes .holderHandover q d (commonWith [.link]) (eventsWith [W.LNK_STATUS, W.LNK_DELAY, W.LNK_OFFSET, W.ROOF_STATUS])
        fun e => isHolder e = true ∧
          linkState e = 7 ∧
          fld e W.LNK_STATUS_HOLDER = strapOf d ∧
          e.link.driven = (if flag d W.LNK_STATUS_DISCIPLINED = true then 17 else 0) ∧
          e.link.handTo = none) ∧
    ((d.link.handTo = none ∨ linkState d = 0 ∨ d.link.fn % 16 ≠ 15) →
      Completes .holderHandover q d (commonWith [.link]) (eventsWith [W.LNK_STATUS, W.LNK_DELAY, W.LNK_OFFSET, W.ROOF_STATUS])
        fun e => e = d) ∧
    (isHolder d = false →
      (linkState d = 4 ∨ linkState d = 5) →
      Completes .holderLost q d (commonWith [.link]) (eventsWith [W.LNK_STATUS])
        fun e => linkState e = 6 ∧
          flag e W.LNK_STATUS_HOLDOVER = true ∧
          e.link.claims = 0 ∧
          e.roofTime = d.roofTime ∧
          raised 449 d e = true) ∧
    ((isHolder d = true ∨ linkState d < 4 ∨ 5 < linkState d) →
      Completes .holderLost q d (commonWith [.link]) (eventsWith [W.LNK_STATUS])
        fun e => e = d) ∧
    (∀ (h : Nat) (t : List Nat),
      bitsIn d.link.claims 8 = h :: t →
      linkState d ≠ 0 →
      h ≠ strapOf d →
      Completes .holderChange q d (commonWith [.link]) (eventsWith [W.LNK_STATUS, W.LNK_DELAY, W.LNK_OFFSET, W.ROOF_STATUS])
        fun e => fld e W.LNK_STATUS_HOLDER = h ∧
          flag e W.LNK_STATUS_HOLDER_VALID = true ∧
          isHolder e = isHolder d ∧
          linkState e = (if linkState d = 6 then (if flag d W.LNK_STATUS_DISCIPLINED = true then 4 else 1) else linkState d) ∧
          e.link.claims = 0) ∧
    (∀ (h : Nat) (t : List Nat),
      bitsIn d.link.claims 8 = h :: t →
      linkState d ≠ 0 →
      h = strapOf d →
      Completes .holderChange q d (commonWith [.link]) (eventsWith [W.LNK_STATUS, W.LNK_DELAY, W.LNK_OFFSET, W.ROOF_STATUS])
        fun e => fld e W.LNK_STATUS_HOLDER = strapOf d ∧
          isHolder e = true ∧
          linkState e = 7 ∧
          e.link.claims = 0 ∧
          e.link.driven = (if flag d W.LNK_STATUS_DISCIPLINED = true then 17 else 0)) ∧
    ((bitsIn d.link.claims 8 = [] ∨ linkState d = 0) →
      Completes .holderChange q d (commonWith [.link]) (eventsWith [W.LNK_STATUS, W.LNK_DELAY, W.LNK_OFFSET, W.ROOF_STATUS])
        fun e => e = d) ∧
    (isHolder d = false →
      (2 ≤ linkState d ∧ linkState d ≤ 6) →
      Completes .holdoverLimit q d (commonWith [.mode, .prev, .roofTime, .cycles, .core, .rails, .seq, .cl, .link, .vly,
        .gauge, .rtc, .log, .fw, .freeN]) none
        fun e => linkState e = 1 ∧
          flag e W.LNK_STATUS_DISCIPLINED = false ∧
          flag e W.LNK_STATUS_HOLDER_VALID = false ∧
          flag e W.COLD_STATUS_LINK_UNDISCIPLINED = true ∧
          e.link.known = false ∧
          raised 451 d e = true) ∧
    ((isHolder d = true ∨ linkState d < 2 ∨ 6 < linkState d) →
      Completes .holdoverLimit q d (commonWith [.mode, .prev, .roofTime, .cycles, .core, .rails, .seq, .cl, .link, .vly,
        .gauge, .rtc, .log, .fw, .freeN]) none
        fun e => e = d) ∧
    (∀ (a : BitVec 3),
      (fld d W.LNK_STATUS_PRESENT).testBit a.toNat = true →
      isHolder d = false →
      Completes (.memberLost a) q d (commonWith [.mode, .prev, .roofTime, .cycles, .core, .rails, .seq, .cl, .link, .vly,
        .gauge, .rtc, .log, .fw, .freeN]) none
        fun e => (fld e W.LNK_STATUS_PRESENT).testBit a.toNat = false ∧
          (peer e a.toNat).agreed = false ∧
          e.mode = d.mode ∧
          e.link.urgOut = d.link.urgOut ∧
          raised 453 d e = true) ∧
    (∀ (a : BitVec 3),
      (fld d W.LNK_STATUS_PRESENT).testBit a.toNat = true →
      isHolder d = true →
      Completes (.memberLost a) q d (commonWith [.mode, .prev, .roofTime, .cycles, .core, .rails, .seq, .cl, .link, .vly,
        .gauge, .rtc, .log, .fw, .freeN]) none
        fun e => (inMode e [.retain, .standby, .dormant] = true ∨ (fld e W.LNK_STATUS_PRESENT).testBit a.toNat = false) ∧
          (inMode e [.retain, .standby, .dormant] = true ∨ (d.link.urgOut ++ [urgOf 2 (d.core.strap * 32 + a.toNat)
            d]).isPrefixOf e.link.urgOut = true) ∧
          raised 453 d e = true) ∧
    (∀ (a : BitVec 3),
      (fld d W.LNK_STATUS_PRESENT).testBit a.toNat = false →
      Completes (.memberLost a) q d (commonWith [.mode, .prev, .roofTime, .cycles, .core, .rails, .seq, .cl, .link, .vly,
        .gauge, .rtc, .log, .fw, .freeN]) none
        fun e => e = d) ∧
    ((2 ≤ linkState d ∧ linkState d ≠ 9) →
      Completes .addrConflict q d common (eventsWith [W.LNK_STATUS])
        fun e => linkState e = 8 ∧
          flag e W.LNK_STATUS_ADDR_CONFLICT = true ∧
          raised 456 d e = true) ∧
    ((linkState d < 2 ∨ linkState d = 9) →
      Completes .addrConflict q d common (eventsWith [W.LNK_STATUS])
        fun e => e = d) ∧
    (linkState d ≠ 0 →
      Completes .linkDead q d (commonWith [.mode, .prev, .roofTime, .cycles, .core, .rails, .seq, .cl, .link, .vly, .gauge,
        .rtc, .log, .fw, .freeN]) none
        fun e => linkState e = 9 ∧
          flag e W.LNK_STATUS_DISCIPLINED = false ∧
          flag e W.LNK_STATUS_IS_HOLDER = false ∧
          raised 457 d e = true) ∧
    (linkState d = 0 →
      Completes .linkDead q d (commonWith [.mode, .prev, .roofTime, .cycles, .core, .rails, .seq, .cl, .link, .vly, .gauge,
        .rtc, .log, .fw, .freeN]) none
        fun e => e = d) ∧
    (∀ (u : Urg) (t : List Urg),
      d.link.urgOut.reverse = u :: t →
      Completes .urgentReinsert q d (commonWith [.link]) (eventsWith [W.LNK_TX])
        fun e => e.link.urgOut = t.reverse ++ [urgOf u.kind u.data d] ∧
          fld e W.LNK_TX_URGENT_SENT = min (fld d W.LNK_TX_URGENT_SENT + 1) 65535) ∧
    (d.link.urgOut = [] →
      Completes .urgentReinsert q d (commonWith [.link]) (eventsWith [W.LNK_TX])
        fun e => e = d)

/-- An insertion received by a device that hears the link is recorded in LNK_URGENT and raises URGENT_RX. FAULT starts a fault
descent of a participant in RAMP to HOLDUP or in a descent that is none, which ends in LATCHED with cause 8; DESCEND an
orderly descent in RAMP to HOLDUP, and cancels a fixed T0 in BOOT; a device that does not participate takes no part in either.
LOSS of the SOURCE ends the part of a member that no standby covers, of another address nothing of it. HOLD begins or ends the
hold of its address at a participant. An ECHO of an insertion that was missed acts like it with VIA_ECHO and URGENT_MISS, and
one acted on is ignored. A device that does not hear the link does nothing, but that a slot revives a dead one. -/
def Obligations.UrgentInsertionsComplete : Prop :=
  ∀ (q : List Instr) (d : Device), canonical d = true →
    (∀ (data : BitVec 8) (fn : Word) (sym : BitVec 8),
      hears d = true →
      Completes (.fault data fn sym) q d (commonWith [.mode, .prev, .roofTime, .cycles, .core, .rails, .seq, .cl, .link,
        .vly, .gauge, .rtc, .log, .fw, .freeN]) none
        fun e => flag e W.LNK_URGENT_VALID = true ∧
          fld e W.LNK_URGENT_KIND = 0 ∧
          fld e W.LNK_URGENT_DATA = data.toNat ∧
          fld e W.LNK_URGENT_FN_LOW = fn.toNat % 256 ∧
          flag e W.LNK_URGENT_VIA_ECHO = false ∧
          raised 454 d e = true) ∧
    (∀ (data : BitVec 8) (fn : Word) (sym : BitVec 8),
      hears d = false →
      Completes (.fault data fn sym) q d (commonWith [.mode, .prev, .roofTime, .cycles, .core, .rails, .seq, .cl, .link,
        .vly, .gauge, .rtc, .log, .fw, .freeN]) none
        fun e => e.link = d.link ∧
          getW e W.LNK_URGENT = getW d W.LNK_URGENT ∧
          e.mode = d.mode ∧
          e.rails = d.rails) ∧
    (∀ (data : BitVec 8) (fn : Word) (sym : BitVec 8),
      hears d = true →
      Completes (.descendInsertion data fn sym) q d (commonWith [.mode, .prev, .roofTime, .cycles, .core, .rails, .seq, .cl,
        .link, .vly, .gauge, .rtc, .log, .fw, .freeN]) none
        fun e => flag e W.LNK_URGENT_VALID = true ∧
          fld e W.LNK_URGENT_KIND = 1 ∧
          fld e W.LNK_URGENT_DATA = data.toNat ∧
          fld e W.LNK_URGENT_FN_LOW = fn.toNat % 256 ∧
          flag e W.LNK_URGENT_VIA_ECHO = false ∧
          raised 454 d e = true) ∧
    (∀ (data : BitVec 8) (fn : Word) (sym : BitVec 8),
      hears d = false →
      Completes (.descendInsertion data fn sym) q d (commonWith [.mode, .prev, .roofTime, .cycles, .core, .rails, .seq, .cl,
        .link, .vly, .gauge, .rtc, .log, .fw, .freeN]) none
        fun e => e.link = d.link ∧
          getW e W.LNK_URGENT = getW d W.LNK_URGENT ∧
          e.mode = d.mode ∧
          e.rails = d.rails) ∧
    (∀ (data : BitVec 8) (fn : Word) (sym : BitVec 8),
      hears d = true →
      Completes (.loss data fn sym) q d (commonWith [.mode, .prev, .roofTime, .cycles, .core, .rails, .seq, .cl, .link, .vly,
        .gauge, .rtc, .log, .fw, .freeN]) none
        fun e => flag e W.LNK_URGENT_VALID = true ∧
          fld e W.LNK_URGENT_KIND = 2 ∧
          fld e W.LNK_URGENT_DATA = data.toNat ∧
          fld e W.LNK_URGENT_FN_LOW = fn.toNat % 256 ∧
          flag e W.LNK_URGENT_VIA_ECHO = false ∧
          raised 454 d e = true) ∧
    (∀ (data : BitVec 8) (fn : Word) (sym : BitVec 8),
      hears d = false →
      Completes (.loss data fn sym) q d (commonWith [.mode, .prev, .roofTime, .cycles, .core, .rails, .seq, .cl, .link, .vly,
        .gauge, .rtc, .log, .fw, .freeN]) none
        fun e => e.link = d.link ∧
          getW e W.LNK_URGENT = getW d W.LNK_URGENT ∧
          e.mode = d.mode ∧
          e.rails = d.rails) ∧
    (∀ (data : BitVec 8) (fn : Word) (sym : BitVec 8),
      hears d = true →
      Completes (.hold data fn sym) q d (commonWith [.mode, .prev, .roofTime, .cycles, .core, .rails, .seq, .cl, .link, .vly,
        .gauge, .rtc, .log, .fw, .freeN]) none
        fun e => flag e W.LNK_URGENT_VALID = true ∧
          fld e W.LNK_URGENT_KIND = 3 ∧
          fld e W.LNK_URGENT_DATA = data.toNat ∧
          fld e W.LNK_URGENT_FN_LOW = fn.toNat % 256 ∧
          flag e W.LNK_URGENT_VIA_ECHO = false ∧
          raised 454 d e = true) ∧
    (∀ (data : BitVec 8) (fn : Word) (sym : BitVec 8),
      hears d = false →
      Completes (.hold data fn sym) q d (commonWith [.mode, .prev, .roofTime, .cycles, .core, .rails, .seq, .cl, .link, .vly,
        .gauge, .rtc, .log, .fw, .freeN]) none
        fun e => e.link = d.link ∧
          getW e W.LNK_URGENT = getW d W.LNK_URGENT ∧
          e.mode = d.mode ∧
          e.rails = d.rails) ∧
    (∀ (data : BitVec 8) (fn : Word) (sym : BitVec 8),
      hears d = true →
      participating d = true →
      (rampToHoldup d = true ∨ d.mode = .descend) →
      d.seq.desc.all (fun x => x.kind ≠ .fault) = true →
      Completes (.fault data fn sym) q d (commonWith [.mode, .prev, .roofTime, .cycles, .core, .rails, .seq, .cl, .link,
        .vly, .gauge, .rtc, .log, .fw, .freeN]) none
        fun e => (e.mode = .descend ∨ e.mode = .latched) ∧
          (e.seq.desc.map (fun x => (x.kind, x.cause)) = some (.fault, 8) ∨ fld e W.MODE_STATUS_LATCH_CAUSE = 8) ∧
          e.link.faultBy = some (data.toNat / 32) ∧
          (isHolder d = false ∨ roofPhase e = 5)) ∧
    (∀ (data : BitVec 8) (fn : Word) (sym : BitVec 8),
      hears d = true →
      (participating d = false ∨ (rampToHoldup d = false ∧ d.mode ≠ .descend)) →
      d.seq.holdFrom = none →
      d.link.holds = 0 →
      Completes (.fault data fn sym) q d (commonWith [.mode, .prev, .roofTime, .cycles, .core, .rails, .seq, .cl, .link,
        .vly, .gauge, .rtc, .log, .fw, .freeN]) none
        fun e => e.mode = d.mode ∧
          e.rails = d.rails ∧
          e.link.faultBy = d.link.faultBy) ∧
    (∀ (data : BitVec 8) (fn : Word) (sym : BitVec 8) (n : Fin 32),
      hears d = true →
      participating d = true →
      rampToHoldup d = true →
      (rail d n).enabled = true →
      (rail d n).fallFail = false →
      Completes (.descendInsertion data fn sym) q d (commonWith [.mode, .prev, .roofTime, .cycles, .core, .rails, .seq, .cl,
        .link, .vly, .gauge, .rtc, .log, .fw, .freeN]) none
        fun e => e.mode = .descend ∧
          (d.seq.holdFrom ≠ none ∨ e.seq.desc.map (fun x => x.kind) = some (if d.mode = .ramp then .abort else .orderly)) ∧
          d.roofTime + 6 ≤ e.roofTime) ∧
    (∀ (data : BitVec 8) (fn : Word) (sym : BitVec 8),
      hears d = true →
      participating d = true →
      d.mode = .boot →
      d.seq.t0.isSome = true →
      Completes (.descendInsertion data fn sym) q d (commonWith [.mode, .prev, .roofTime, .cycles, .core, .rails, .seq, .cl,
        .link, .vly, .gauge, .rtc, .log, .fw, .freeN]) none
        fun e => e.seq.t0 = none ∧
          e.seq.request = false ∧
          e.mode = .boot ∧
          (running e 0x20).isEmpty = true) ∧
    (∀ (data : BitVec 8) (fn : Word) (sym : BitVec 8),
      hears d = true →
      (participating d = false ∨ (rampToHoldup d = false ∧ (d.mode ≠ .boot ∨ d.seq.t0 = none))) →
      d.seq.holdFrom = none →
      d.link.holds = 0 →
      Completes (.descendInsertion data fn sym) q d (commonWith [.mode, .prev, .roofTime, .cycles, .core, .rails, .seq, .cl,
        .link, .vly, .gauge, .rtc, .log, .fw, .freeN]) none
        fun e => e.mode = d.mode ∧
          e.rails = d.rails ∧
          e.seq = d.seq) ∧
    (∀ (data : BitVec 8) (fn : Word) (sym : BitVec 8),
      hears d = true →
      vlyRole d ≠ 0 →
      d.vly.swap = none →
      data.toNat % 8 = fld d W.VLY_CONTRACT_SOURCE →
      flag d W.VLY_STATUS_FS_ARMED = false →
      (standbyAuth d = false ∨ vlyRole d = 3) →
      Completes (.loss data fn sym) q d (commonWith [.mode, .prev, .roofTime, .cycles, .core, .rails, .seq, .cl, .link, .vly,
        .gauge, .rtc, .log, .fw, .freeN]) none
        fun e => vlyRole e = 0 ∧
          raised 513 d e = true) ∧
    (∀ (data : BitVec 8) (fn : Word) (sym : BitVec 8),
      hears d = true →
      (vlyRole d = 0 ∨ (d.vly.swap = none ∧ data.toNat % 8 ≠ fld d W.VLY_CONTRACT_SOURCE ∧ vlyRole d ≠ 1)) →
      Completes (.loss data fn sym) q d (commonWith [.mode, .prev, .roofTime, .cycles, .core, .rails, .seq, .cl, .link, .vly,
        .gauge, .rtc, .log, .fw, .freeN]) none
        fun e => e.mode = d.mode ∧
          e.rails = d.rails ∧
          vlyRole e = vlyRole d) ∧
    (∀ (data : BitVec 8) (fn : Word) (sym : BitVec 8) (c : Contract),
      hears d = true →
      vlyRole d = 1 →
      d.vly.swap = none →
      data.toNat % 8 ≠ fld d W.VLY_CONTRACT_SOURCE →
      (fld d W.VLY_CONTRACT_SINKS).testBit (data.toNat % 8) = true →
      d.vly.proposed = none →
      d.vly.cur = some c →
      d.link.q16.length < 64 →
      Completes (.loss data fn sym) q d (commonWith [.mode, .prev, .roofTime, .cycles, .core, .rails, .seq, .cl, .link, .vly,
        .gauge, .rtc, .log, .fw, .freeN]) none
        fun e => e.vly.proposed.map (fun x => x.sinks) = some (setBitNat c.sinks (data.toNat % 8) false) ∧
          e.vly.proposed.map (fun x => x.amend) = some ((c.amend + 1) % 64) ∧
          e.link.q16.length = d.link.q16.length + 1 ∧
          vlyRole e = 1 ∧
          e.mode = d.mode) ∧
    (∀ (data : BitVec 8) (fn : Word) (sym : BitVec 8),
      hears d = true →
      participating d = true →
      Completes (.hold data fn sym) q d (commonWith [.mode, .prev, .roofTime, .cycles, .core, .rails, .seq, .cl, .link, .vly,
        .gauge, .rtc, .log, .fw, .freeN]) none
        fun e => e.link.holds = setBitNat d.link.holds (data.toNat / 32) (data.toNat % 2 == 1)) ∧
    (∀ (data : BitVec 8) (fn : Word) (sym : BitVec 8),
      hears d = true →
      participating d = true →
      (roofPhase d = 1 ∨ roofPhase d = 2) →
      d.seq.holdFrom = none →
      data.toNat % 2 = 1 →
      Completes (.hold data fn sym) q d (commonWith [.mode, .prev, .roofTime, .cycles, .core, .rails, .seq, .cl, .link, .vly,
        .gauge, .rtc, .log, .fw, .freeN]) none
        fun e => e.seq.holdFrom = some d.cycles ∧
          flag e W.ROOF_STATUS_HOLD_IN_FORCE = true ∧
          e.mode = d.mode ∧
          raised 487 d e = true) ∧
    (∀ (data : BitVec 8) (fn : Word) (sym : BitVec 8) (c : Nat),
      hears d = true →
      participating d = true →
      d.seq.holdFrom = some c →
      setBitNat d.link.holds (data.toNat / 32) false = 0 →
      data.toNat % 2 = 0 →
      Completes (.hold data fn sym) q d (commonWith [.mode, .prev, .roofTime, .cycles, .core, .rails, .seq, .cl, .link, .vly,
        .gauge, .rtc, .log, .fw, .freeN]) none
        fun e => e.seq.holdFrom = none ∧
          flag e W.ROOF_STATUS_HOLD_IN_FORCE = false ∧
          fld e W.ROOF_HOLD_HOLD_TOTAL = min (fld d W.ROOF_HOLD_HOLD_TOTAL + (d.cycles - c)) (2 ^ 32 - 1) ∧
          raised 488 d e = true) ∧
    (∀ (data : BitVec 8) (fn : Word) (sym : BitVec 8),
      hears d = true →
      participating d = false →
      Completes (.hold data fn sym) q d (commonWith [.mode, .prev, .roofTime, .cycles, .core, .rails, .seq, .cl, .link, .vly,
        .gauge, .rtc, .log, .fw, .freeN]) none
        fun e => e.link.holds = d.link.holds ∧
          e.seq = d.seq ∧
          e.mode = d.mode) ∧
    (∀ (a : BitVec 3) (mode : BitVec 4) (kind : BitVec 2) (data : BitVec 8) (fn : Word) (sym : BitVec 8),
      hears d = true →
      a.toNat ≠ strapOf d →
      partOf d ≠ 4 →
      (mode ≠ 7#4 ∧ mode ≠ 8#4) →
      d.link.acted.any (fun v => v.fn == fn.toNat && v.sym == sym.toNat && v.data == data.toNat) = true →
      Completes (.echoSlot a mode kind data fn sym) q d (commonWith [.mode, .prev, .roofTime, .cycles, .core, .rails, .seq,
        .cl, .link, .vly, .gauge, .rtc, .log, .fw, .freeN]) none
        fun e => e.link.acted = d.link.acted ∧
          e.link.holds = d.link.holds ∧
          getW e W.LNK_URGENT = getW d W.LNK_URGENT ∧
          (d.mode = .latched ∨ e.mode = d.mode) ∧
          arr e W.ROOF_MODES_MODE a.toNat = mode.toNat) ∧
    (∀ (a : BitVec 3) (mode : BitVec 4) (kind : BitVec 2) (data : BitVec 8) (fn : Word) (sym : BitVec 8),
      hears d = true →
      a.toNat ≠ strapOf d →
      partOf d ≠ 4 →
      (mode ≠ 7#4 ∧ mode ≠ 8#4) →
      d.link.acted.any (fun v => v.fn == fn.toNat && v.sym == sym.toNat && v.data == data.toNat) = false →
      Completes (.echoSlot a mode kind data fn sym) q d (commonWith [.mode, .prev, .roofTime, .cycles, .core, .rails, .seq,
        .cl, .link, .vly, .gauge, .rtc, .log, .fw, .freeN]) none
        fun e => flag e W.LNK_URGENT_VIA_ECHO = true ∧
          flag e W.LNK_URGENT_VALID = true ∧
          fld e W.LNK_URGENT_KIND = kind.toNat ∧
          fld e W.LNK_URGENT_DATA = data.toNat ∧
          (inMode e [.retain, .standby, .dormant] = true ∨ e.link.acted =
            ({ kind := kind.toNat, data := data.toNat, fn := fn.toNat, sym := sym.toNat } :: d.link.acted).take 16) ∧
          (kind ≠ 3#2 ∨ participating d = false ∨ e.link.holds = setBitNat d.link.holds (data.toNat / 32) (data.toNat % 2 ==
            1)) ∧
          raised 455 d e = true) ∧
    (∀ (a : BitVec 3) (mode : BitVec 4) (kind : BitVec 2) (data : BitVec 8) (fn : Word) (sym : BitVec 8) (n : Fin 32),
      hears d = true →
      a.toNat ≠ strapOf d →
      partOf d ≠ 4 →
      (mode ≠ 7#4 ∧ mode ≠ 8#4) →
      d.link.acted.any (fun v => v.fn == fn.toNat && v.sym == sym.toNat && v.data == data.toNat) = false →
      kind.toNat ≤ 1 →
      participating d = true →
      rampToHoldup d = true →
      (rail d n).enabled = true →
      (rail d n).fallFail = false →
      d.seq.desc = none →
      Completes (.echoSlot a mode kind data fn sym) q d (commonWith [.mode, .prev, .roofTime, .cycles, .core, .rails, .seq,
        .cl, .link, .vly, .gauge, .rtc, .log, .fw, .freeN]) none
        fun e => (e.mode = .descend ∨ (kind = 0#2 ∧ e.mode = .latched))) ∧
    (∀ (a : BitVec 3) (mode : BitVec 4) (kind : BitVec 2) (data : BitVec 8) (fn : Word) (sym : BitVec 8),
      hears d = true →
      a.toNat ≠ strapOf d →
      partOf d ≠ 4 →
      Completes (.echoSlot a mode kind data fn sym) q d (commonWith [.mode, .prev, .roofTime, .cycles, .core, .rails, .seq,
        .cl, .link, .vly, .gauge, .rtc, .log, .fw, .freeN]) none
        fun e => (inMode e [.retain, .standby, .dormant] = true ∨ (fld e W.LNK_STATUS_PRESENT).testBit a.toNat = true) ∧
          (inMode e [.retain, .standby, .dormant] = true ∨ arr e W.ROOF_MODES_MODE a.toNat = mode.toNat)) ∧
    (∀ (a : BitVec 3) (mode : BitVec 4) (kind : BitVec 2) (data : BitVec 8) (fn : Word) (sym : BitVec 8),
      linkState d = 9 →
      Completes (.echoSlot a mode kind data fn sym) q d (commonWith [.mode, .prev, .roofTime, .cycles, .core, .rails, .seq,
        .cl, .link, .vly, .gauge, .rtc, .log, .fw, .freeN]) none
        fun e => linkState e = (if flag d W.LNK_STATUS_ADDR_CONFLICT = true then 8 else 1) ∧
          e.link = d.link) ∧
    (∀ (a : BitVec 3) (mode : BitVec 4) (kind : BitVec 2) (data : BitVec 8) (fn : Word) (sym : BitVec 8),
      linkState d ≠ 9 →
      (hears d = false ∨ a.toNat = strapOf d ∨ partOf d = 4) →
      Completes (.echoSlot a mode kind data fn sym) q d (commonWith [.mode, .prev, .roofTime, .cycles, .core, .rails, .seq,
        .cl, .link, .vly, .gauge, .rtc, .log, .fw, .freeN]) none
        fun e => e.link = d.link ∧
          getW e W.LNK_URGENT = getW d W.LNK_URGENT ∧
          e.mode = d.mode)

/-- A message heard enters Q17, or with Q17 full is dropped and raises its event, whatever its sender's mode. An announce of
the holder acts once for its sequence: a ready participant named in START fixes T0 at the announced frame and one in BOOT that
is not is LATE; STATE sets the phase, the participants and the floor; DOWN is kept for its frame, with which the descent
begins. An AGREE is recorded. The holder starts the roof with every required member ready, and after DEG_WAIT without those
that are missing; a start that finds no START times out; a hold that lasts ends in DESCEND, or cancels T0; a required member
that does not comply makes the holder fault, descend or insert once more as its mode asks, and an optional one is dropped.
Outside its condition each row changes nothing. -/
def Obligations.RoofAgreementComplete : Prop :=
  ∀ (q : List Instr) (d : Device), canonical d = true →
    (∀ (a : BitVec 3) (mode : BitVec 4) (w1 w2 : Word),
      hears d = true →
      a.toNat ≠ strapOf d →
      partOf d ≠ 4 →
      Completes (.announceStart a mode w1 w2) q d (commonWith [.mode, .prev, .roofTime, .cycles, .core, .rails, .seq, .cl,
        .link, .vly, .gauge, .rtc, .log, .fw, .freeN]) none
        fun e => (inMode e [.retain, .standby, .dormant] = true ∨ (fld e W.LNK_STATUS_PRESENT).testBit a.toNat = true) ∧
          (inMode e [.retain, .standby, .dormant] = true ∨ arr e W.ROOF_MODES_MODE a.toNat = mode.toNat) ∧
          (inMode e [.retain, .standby, .dormant] = true ∨ e.link.q17.length = min (d.link.q17.length + 1) (max 64
            d.link.q17.length)) ∧
          (d.link.q17.length < 64 ∨ raised 459 d e = true)) ∧
    (∀ (a : BitVec 3) (mode : BitVec 4) (w1 w2 : Word),
      linkState d = 9 →
      Completes (.announceStart a mode w1 w2) q d (commonWith [.mode, .prev, .roofTime, .cycles, .core, .rails, .seq, .cl,
        .link, .vly, .gauge, .rtc, .log, .fw, .freeN]) none
        fun e => linkState e = (if flag d W.LNK_STATUS_ADDR_CONFLICT = true then 8 else 1) ∧
          e.link = d.link) ∧
    (∀ (a : BitVec 3) (mode : BitVec 4) (w1 w2 : Word),
      linkState d ≠ 9 →
      (hears d = false ∨ a.toNat = strapOf d ∨ partOf d = 4) →
      Completes (.announceStart a mode w1 w2) q d (commonWith [.mode, .prev, .roofTime, .cycles, .core, .rails, .seq, .cl,
        .link, .vly, .gauge, .rtc, .log, .fw, .freeN]) none
        fun e => e.link = d.link ∧
          e.seq = d.seq ∧
          e.mode = d.mode) ∧
    (∀ (a : BitVec 3) (mode : BitVec 4) (w1 w2 : Word),
      hears d = true →
      a.toNat ≠ strapOf d →
      partOf d ≠ 4 →
      Completes (.announceState a mode w1 w2) q d (commonWith [.mode, .prev, .roofTime, .cycles, .core, .rails, .seq, .cl,
        .link, .vly, .gauge, .rtc, .log, .fw, .freeN]) none
        fun e => (inMode e [.retain, .standby, .dormant] = true ∨ (fld e W.LNK_STATUS_PRESENT).testBit a.toNat = true) ∧
          (inMode e [.retain, .standby, .dormant] = true ∨ arr e W.ROOF_MODES_MODE a.toNat = mode.toNat) ∧
          (inMode e [.retain, .standby, .dormant] = true ∨ e.link.q17.length = min (d.link.q17.length + 1) (max 64
            d.link.q17.length)) ∧
          (d.link.q17.length < 64 ∨ raised 459 d e = true)) ∧
    (∀ (a : BitVec 3) (mode : BitVec 4) (w1 w2 : Word),
      linkState d = 9 →
      Completes (.announceState a mode w1 w2) q d (commonWith [.mode, .prev, .roofTime, .cycles, .core, .rails, .seq, .cl,
        .link, .vly, .gauge, .rtc, .log, .fw, .freeN]) none
        fun e => linkState e = (if flag d W.LNK_STATUS_ADDR_CONFLICT = true then 8 else 1) ∧
          e.link = d.link) ∧
    (∀ (a : BitVec 3) (mode : BitVec 4) (w1 w2 : Word),
      linkState d ≠ 9 →
      (hears d = false ∨ a.toNat = strapOf d ∨ partOf d = 4) →
      Completes (.announceState a mode w1 w2) q d (commonWith [.mode, .prev, .roofTime, .cycles, .core, .rails, .seq, .cl,
        .link, .vly, .gauge, .rtc, .log, .fw, .freeN]) none
        fun e => e.link = d.link ∧
          e.seq = d.seq ∧
          e.mode = d.mode) ∧
    (∀ (a : BitVec 3) (mode : BitVec 4) (w1 w2 : Word),
      hears d = true →
      a.toNat ≠ strapOf d →
      partOf d ≠ 4 →
      Completes (.announceDown a mode w1 w2) q d (commonWith [.mode, .prev, .roofTime, .cycles, .core, .rails, .seq, .cl,
        .link, .vly, .gauge, .rtc, .log, .fw, .freeN]) none
        fun e => (inMode e [.retain, .standby, .dormant] = true ∨ (fld e W.LNK_STATUS_PRESENT).testBit a.toNat = true) ∧
          (inMode e [.retain, .standby, .dormant] = true ∨ arr e W.ROOF_MODES_MODE a.toNat = mode.toNat) ∧
          (inMode e [.retain, .standby, .dormant] = true ∨ e.link.q17.length = min (d.link.q17.length + 1) (max 64
            d.link.q17.length)) ∧
          (d.link.q17.length < 64 ∨ raised 459 d e = true)) ∧
    (∀ (a : BitVec 3) (mode : BitVec 4) (w1 w2 : Word),
      linkState d = 9 →
      Completes (.announceDown a mode w1 w2) q d (commonWith [.mode, .prev, .roofTime, .cycles, .core, .rails, .seq, .cl,
        .link, .vly, .gauge, .rtc, .log, .fw, .freeN]) none
        fun e => linkState e = (if flag d W.LNK_STATUS_ADDR_CONFLICT = true then 8 else 1) ∧
          e.link = d.link) ∧
    (∀ (a : BitVec 3) (mode : BitVec 4) (w1 w2 : Word),
      linkState d ≠ 9 →
      (hears d = false ∨ a.toNat = strapOf d ∨ partOf d = 4) →
      Completes (.announceDown a mode w1 w2) q d (commonWith [.mode, .prev, .roofTime, .cycles, .core, .rails, .seq, .cl,
        .link, .vly, .gauge, .rtc, .log, .fw, .freeN]) none
        fun e => e.link = d.link ∧
          e.seq = d.seq ∧
          e.mode = d.mode) ∧
    (∀ (a : BitVec 3) (mode : BitVec 4) (w1 w2 : Word),
      hears d = true →
      a.toNat ≠ strapOf d →
      partOf d ≠ 4 →
      Completes (.agree a mode w1 w2) q d (commonWith [.mode, .prev, .roofTime, .cycles, .core, .rails, .seq, .cl, .link,
        .vly, .gauge, .rtc, .log, .fw, .freeN]) none
        fun e => (inMode e [.retain, .standby, .dormant] = true ∨ (fld e W.LNK_STATUS_PRESENT).testBit a.toNat = true) ∧
          (inMode e [.retain, .standby, .dormant] = true ∨ arr e W.ROOF_MODES_MODE a.toNat = mode.toNat) ∧
          (inMode e [.retain, .standby, .dormant] = true ∨ e.link.q17.length = min (d.link.q17.length + 1) (max 64
            d.link.q17.length)) ∧
          (d.link.q17.length < 64 ∨ raised 459 d e = true)) ∧
    (∀ (a : BitVec 3) (mode : BitVec 4) (w1 w2 : Word),
      linkState d = 9 →
      Completes (.agree a mode w1 w2) q d (commonWith [.mode, .prev, .roofTime, .cycles, .core, .rails, .seq, .cl, .link,
        .vly, .gauge, .rtc, .log, .fw, .freeN]) none
        fun e => linkState e = (if flag d W.LNK_STATUS_ADDR_CONFLICT = true then 8 else 1) ∧
          e.link = d.link) ∧
    (∀ (a : BitVec 3) (mode : BitVec 4) (w1 w2 : Word),
      linkState d ≠ 9 →
      (hears d = false ∨ a.toNat = strapOf d ∨ partOf d = 4) →
      Completes (.agree a mode w1 w2) q d (commonWith [.mode, .prev, .roofTime, .cycles, .core, .rails, .seq, .cl, .link,
        .vly, .gauge, .rtc, .log, .fw, .freeN]) none
        fun e => e.link = d.link ∧
          e.seq = d.seq ∧
          e.mode = d.mode) ∧
    (∀ (a : BitVec 3) (mode : BitVec 4) (w1 w2 : Word),
      hears d = true →
      a.toNat ≠ strapOf d →
      partOf d ≠ 4 →
      (mode ≠ 7#4 ∧ mode ≠ 8#4) →
      d.mode ≠ .latched →
      (64 ≤ d.link.q17.length ∨ flag d W.LNK_STATUS_HOLDER_VALID = false ∨ a.toNat ≠ fld d W.LNK_STATUS_HOLDER ∨ isHolder d =
        true ∨ d.link.annSeen = some (bitsOf w2 31 24)) →
      Completes (.announceStart a mode w1 w2) q d (commonWith [.mode, .prev, .roofTime, .cycles, .core, .rails, .seq, .cl,
        .link, .vly, .gauge, .rtc, .log, .fw, .freeN]) none
        fun e => e.seq = d.seq ∧
          e.rails = d.rails ∧
          roofPhase e = roofPhase d ∧
          e.link.down = d.link.down ∧
          e.mode = d.mode) ∧
    (∀ (a : BitVec 3) (mode : BitVec 4) (w1 w2 : Word),
      hears d = true →
      a.toNat ≠ strapOf d →
      partOf d ≠ 4 →
      (mode ≠ 7#4 ∧ mode ≠ 8#4) →
      d.mode ≠ .latched →
      (64 ≤ d.link.q17.length ∨ flag d W.LNK_STATUS_HOLDER_VALID = false ∨ a.toNat ≠ fld d W.LNK_STATUS_HOLDER ∨ isHolder d =
        true ∨ d.link.annSeen = some (bitsOf w2 31 24)) →
      Completes (.announceState a mode w1 w2) q d (commonWith [.mode, .prev, .roofTime, .cycles, .core, .rails, .seq, .cl,
        .link, .vly, .gauge, .rtc, .log, .fw, .freeN]) none
        fun e => e.seq = d.seq ∧
          e.rails = d.rails ∧
          roofPhase e = roofPhase d ∧
          e.link.down = d.link.down ∧
          e.mode = d.mode) ∧
    (∀ (a : BitVec 3) (mode : BitVec 4) (w1 w2 : Word),
      hears d = true →
      a.toNat ≠ strapOf d →
      partOf d ≠ 4 →
      (mode ≠ 7#4 ∧ mode ≠ 8#4) →
      d.mode ≠ .latched →
      (64 ≤ d.link.q17.length ∨ flag d W.LNK_STATUS_HOLDER_VALID = false ∨ a.toNat ≠ fld d W.LNK_STATUS_HOLDER ∨ isHolder d =
        true ∨ d.link.annSeen = some (bitsOf w2 31 24)) →
      Completes (.announceDown a mode w1 w2) q d (commonWith [.mode, .prev, .roofTime, .cycles, .core, .rails, .seq, .cl,
        .link, .vly, .gauge, .rtc, .log, .fw, .freeN]) none
        fun e => e.seq = d.seq ∧
          e.rails = d.rails ∧
          roofPhase e = roofPhase d ∧
          e.link.down = d.link.down ∧
          e.mode = d.mode) ∧
    (∀ (a : BitVec 3) (mode : BitVec 4) (w1 w2 : Word),
      hears d = true →
      a.toNat ≠ strapOf d →
      partOf d ≠ 4 →
      (mode ≠ 7#4 ∧ mode ≠ 8#4) →
      d.link.q17.length < 64 →
      flag d W.LNK_STATUS_HOLDER_VALID = true →
      a.toNat = fld d W.LNK_STATUS_HOLDER →
      isHolder d = false →
      d.link.annSeen ≠ some (bitsOf w2 31 24) →
      participating d = true →
      (bitsOf w1 15 8).testBit (strapOf d) = true →
      ownReady d = true →
      Completes (.announceStart a mode w1 w2) q d (commonWith [.mode, .prev, .roofTime, .cycles, .core, .rails, .seq, .cl,
        .link, .vly, .gauge, .rtc, .log, .fw, .freeN]) none
        fun e => e.seq.t0 = some (fullFn d (frameOf w1 w2) * 1000) ∧
          fld e W.SEQ_STATUS_SEQ_STATE = 1 ∧
          flag e W.ROOF_STATUS_DEGRADED = bitOf w2 16 ∧
          fld e W.ROOF_HOLD_HOLD_TOTAL = 0 ∧
          e.link.annSeen = some (bitsOf w2 31 24) ∧
          (bitOf w2 16 = false ∨ raised 486 d e = true) ∧
          raised 484 d e = true) ∧
    (∀ (a : BitVec 3) (mode : BitVec 4) (w1 w2 : Word),
      hears d = true →
      a.toNat ≠ strapOf d →
      partOf d ≠ 4 →
      (mode ≠ 7#4 ∧ mode ≠ 8#4) →
      d.link.q17.length < 64 →
      flag d W.LNK_STATUS_HOLDER_VALID = true →
      a.toNat = fld d W.LNK_STATUS_HOLDER →
      isHolder d = false →
      d.link.annSeen ≠ some (bitsOf w2 31 24) →
      participating d = true →
      d.mode = .boot →
      ((bitsOf w1 15 8).testBit (strapOf d) = false ∨ ownReady d = false) →
      Completes (.announceStart a mode w1 w2) q d (commonWith [.mode, .prev, .roofTime, .cycles, .core, .rails, .seq, .cl,
        .link, .vly, .gauge, .rtc, .log, .fw, .freeN]) none
        fun e => partOf e = 5 ∧
          e.seq.t0 = d.seq.t0 ∧
          raised 494 d e = true) ∧
    (∀ (a : BitVec 3) (mode : BitVec 4) (w1 w2 : Word),
      hears d = true →
      a.toNat ≠ strapOf d →
      partOf d ≠ 4 →
      (mode ≠ 7#4 ∧ mode ≠ 8#4) →
      d.link.q17.length < 64 →
      flag d W.LNK_STATUS_HOLDER_VALID = true →
      a.toNat = fld d W.LNK_STATUS_HOLDER →
      isHolder d = false →
      d.link.annSeen ≠ some (bitsOf w2 31 24) →
      d.mode ≠ .latched →
      (participating d = false ∨ (d.mode ≠ .boot ∧ ((bitsOf w1 15 8).testBit (strapOf d) = false ∨ ownReady d = false))) →
      Completes (.announceStart a mode w1 w2) q d (commonWith [.mode, .prev, .roofTime, .cycles, .core, .rails, .seq, .cl,
        .link, .vly, .gauge, .rtc, .log, .fw, .freeN]) none
        fun e => e.seq = d.seq ∧
          partOf e = partOf d ∧
          e.link.annSeen = some (bitsOf w2 31 24)) ∧
    (∀ (a : BitVec 3) (mode : BitVec 4) (w1 w2 : Word),
      hears d = true →
      a.toNat ≠ strapOf d →
      partOf d ≠ 4 →
      (mode ≠ 7#4 ∧ mode ≠ 8#4) →
      d.link.q17.length < 64 →
      flag d W.LNK_STATUS_HOLDER_VALID = true →
      a.toNat = fld d W.LNK_STATUS_HOLDER →
      isHolder d = false →
      d.link.annSeen ≠ some (bitsOf w2 31 24) →
      Completes (.announceState a mode w1 w2) q d (commonWith [.mode, .prev, .roofTime, .cycles, .core, .rails, .seq, .cl,
        .link, .vly, .gauge, .rtc, .log, .fw, .freeN]) none
        fun e => roofPhase e = bitsOf w1 15 8 % 16 ∧
          fld e W.ROOF_MEMBERS_PARTICIPATING = bitsOf w1 23 16 ∧
          fld e W.ROOF_FLOOR_FLOOR = bitsOf w2 15 0 ∧
          e.link.annSeen = some (bitsOf w2 31 24) ∧
          (fld d W.ROOF_FLOOR_FLOOR = bitsOf w2 15 0 ∨ raised 483 d e = true)) ∧
    (∀ (a : BitVec 3) (mode : BitVec 4) (w1 w2 : Word),
      hears d = true →
      a.toNat ≠ strapOf d →
      partOf d ≠ 4 →
      (mode ≠ 7#4 ∧ mode ≠ 8#4) →
      d.link.q17.length < 64 →
      flag d W.LNK_STATUS_HOLDER_VALID = true →
      a.toNat = fld d W.LNK_STATUS_HOLDER →
      isHolder d = false →
      d.link.annSeen ≠ some (bitsOf w2 31 24) →
      participating d = true →
      d.mode = .boot →
      d.seq.t0 = none →
      bitsOf w1 15 8 % 16 = 2 →
      Completes (.announceState a mode w1 w2) q d (commonWith [.mode, .prev, .roofTime, .cycles, .core, .rails, .seq, .cl,
        .link, .vly, .gauge, .rtc, .log, .fw, .freeN]) none
        fun e => partOf e = 5 ∧
          raised 494 d e = true) ∧
    (∀ (a : BitVec 3) (mode : BitVec 4) (w1 w2 : Word),
      hears d = true →
      a.toNat ≠ strapOf d →
      partOf d ≠ 4 →
      (mode ≠ 7#4 ∧ mode ≠ 8#4) →
      d.link.q17.length < 64 →
      flag d W.LNK_STATUS_HOLDER_VALID = true →
      a.toNat = fld d W.LNK_STATUS_HOLDER →
      isHolder d = false →
      d.link.annSeen ≠ some (bitsOf w2 31 24) →
      Completes (.announceDown a mode w1 w2) q d (commonWith [.mode, .prev, .roofTime, .cycles, .core, .rails, .seq, .cl,
        .link, .vly, .gauge, .rtc, .log, .fw, .freeN]) none
        fun e => e.link.down = (if participating d = true then some (bitsOf w1 15 8, fullFn d (frameOf w1 w2)) else
          d.link.down) ∧
          e.link.annSeen = some (bitsOf w2 31 24) ∧
          (d.mode = .latched ∨ e.mode = d.mode)) ∧
    (∀ (fn : BitVec 64) (off : Int) (spaced : Bool) (f : Nat) (n : Fin 32),
      2 ≤ linkState d →
      linkState d ≤ 8 →
      isHolder d = false →
      d.link.known = true →
      participating d = true →
      d.link.down = some (0, f) →
      f ≤ fn.toNat →
      d.vly.endAt = none →
      (d.mode = .run ∨ d.mode = .ease ∨ d.mode = .holdup) →
      (rail d n).enabled = true →
      (rail d n).fallFail = false →
      Completes (.frameStartRx fn off spaced) q d (commonWith [.mode, .prev, .roofTime, .cycles, .core, .rails, .seq, .cl,
        .link, .vly, .gauge, .rtc, .log, .fw, .freeN]) none
        fun e => e.mode = .descend ∧
          e.seq.desc.map (fun x => x.kind) = some .orderly ∧
          e.link.down = none) ∧
    (∀ (a : BitVec 3) (mode : BitVec 4) (w1 w2 : Word),
      hears d = true →
      a.toNat ≠ strapOf d →
      partOf d ≠ 4 →
      (mode ≠ 7#4 ∧ mode ≠ 8#4) →
      d.link.q17.length < 64 →
      Completes (.agree a mode w1 w2) q d (commonWith [.mode, .prev, .roofTime, .cycles, .core, .rails, .seq, .cl, .link,
        .vly, .gauge, .rtc, .log, .fw, .freeN]) none
        fun e => (peer e a.toNat).agreed = ((peer d a.toNat).agreed || complies (roofPhase d) mode.toNat) ∧
          (peer e a.toNat).ready = bitOf w1 0 ∧
          (peer e a.toNat).startReq = bitOf w1 1 ∧
          (peer e a.toNat).excluded = bitOf w1 2 ∧
          (peer e a.toNat).late = bitOf w1 4 ∧
          (fld e W.ROOF_MEMBERS_READY).testBit a.toNat = bitOf w1 0 ∧
          (fld e W.ROOF_MEMBERS_EXCLUDED).testBit a.toNat = bitOf w1 2 ∧
          (fld e W.ROOF_MEMBERS_SUSPECT).testBit a.toNat = bitOf w1 3 ∧
          ((fld d W.ROOF_MEMBERS_EXCLUDED).testBit a.toNat = true ∨ bitOf w1 2 = false ∨ raised 481 d e = true)) ∧
    (roofMayStart d = true →
      (bitsIn (requiredMask d) 8).all (memberReady d) = true →
      Completes .startAnnounced q d (commonWith [.mode, .prev, .roofTime, .cycles, .core, .rails, .seq, .cl, .link, .vly,
        .gauge, .rtc, .log, .fw, .freeN]) none
        fun e => roofPhase e = 1 ∧
          (ownReady d = true → e.seq.t0 = some ((d.link.fn + 20) * 1000)) ∧
          (ownReady d = true → flag e W.ROOF_STATUS_DEGRADED = false) ∧
          (ownReady d = true → raised 484 d e = true) ∧
          (ownReady d = false → d.mode = .boot → partOf e = 5) ∧
          e.link.q16.length = min (d.link.q16.length + 1) (max 64 d.link.q16.length) ∧
          e.link.t0Fn = some (d.link.fn + 20) ∧
          e.link.repeatMsg.map (fun x => x.2.2) = some (d.link.fn + 18)) ∧
    ((roofMayStart d = false ∨ (bitsIn (requiredMask d) 8).all (memberReady d) = false) →
      Completes .startAnnounced q d (commonWith [.mode, .prev, .roofTime, .cycles, .core, .rails, .seq, .cl, .link, .vly,
        .gauge, .rtc, .log, .fw, .freeN]) none
        fun e => e = d) ∧
    (∀ (r : RoofRec),
      d.otp.roofRec = some r →
      r.degraded = true →
      roofMayStart d = true →
      (bitsIn (requiredMask d) 8).all (fun a => memberReady d a || memberMissing d a) = true →
      Completes .degradedStart q d (commonWith [.mode, .prev, .roofTime, .cycles, .core, .rails, .seq, .cl, .link, .vly,
        .gauge, .rtc, .log, .fw, .freeN]) none
        fun e => roofPhase e = 1 ∧
          (ownReady d = true → e.seq.t0 = some ((d.link.fn + 20) * 1000)) ∧
          (ownReady d = true → flag e W.ROOF_STATUS_DEGRADED = true) ∧
          (ownReady d = true → raised 486 d e = true) ∧
          (ownReady d = false → d.mode = .boot → partOf e = 5) ∧
          e.roofTime = max d.roofTime (firstRequest d + fld d W.ROOF_CTRL_DEG_WAIT * 1000000)) ∧
    ((d.otp.roofRec.all (fun r => !r.degraded) = true ∨ roofMayStart d = false ∨ (bitsIn (requiredMask d) 8).all (fun a =>
      memberReady d a || memberMissing d a) = false) →
      Completes .degradedStart q d (commonWith [.mode, .prev, .roofTime, .cycles, .core, .rails, .seq, .cl, .link, .vly,
        .gauge, .rtc, .log, .fw, .freeN]) none
        fun e => e = d) ∧
    (d.seq.request = true →
      d.seq.t0 = none →
      alone d = false →
      Completes .startTimeout q d (commonWith [.roofTime, .cycles, .seq]) (some eventTables)
        fun e => e.seq = { d.seq with request := d.seq.retryStart || flag d W.MODE_CTRL_AUTO_START } ∧
          e.roofTime = max d.roofTime (d.seq.reqAt + fld d W.ROOF_CTRL_START_TO * 1000000) ∧
          (running e 0x20).isEmpty = true ∧
          raised 485 d e = true) ∧
    (∀ (k : Cmd),
      d.seq.request = true →
      d.seq.t0 = none →
      alone d = false →
      d.eng.issued = [k] →
      k.op = 0x20 →
      k.started = true →
      Completes .startTimeout q d (commonWith [.roofTime, .cycles, .seq]) (some eventTables)
        fun e => reply k .timeout 0#32 0#32 d e = true) ∧
    ((d.seq.request = false ∨ d.seq.t0 ≠ none ∨ alone d = true) →
      Completes .startTimeout q d (commonWith [.roofTime, .cycles, .seq]) (some eventTables)
        fun e => e = d) ∧
    (∀ (c : Nat) (n : Fin 32),
      d.seq.holdFrom = some c →
      isHolder d = true →
      rampToHoldup d = true →
      (rail d n).enabled = true →
      (rail d n).fallFail = false →
      Completes .timeAbort q d (commonWith [.mode, .prev, .roofTime, .cycles, .core, .rails, .seq, .cl, .link, .vly, .gauge,
        .rtc, .log, .fw]) none
        fun e => e.mode = .descend ∧
          e.seq.desc.map (fun x => x.kind) = some (if d.mode = .ramp then .abort else .orderly) ∧
          d.roofTime + (c + 10000 - d.cycles) ≤ e.roofTime ∧
          raised 489 d e = true) ∧
    (∀ (c : Nat),
      d.seq.holdFrom = some c →
      isHolder d = true →
      rampToHoldup d = false →
      Completes .timeAbort q d (commonWith [.mode, .prev, .roofTime, .cycles, .core, .rails, .seq, .cl, .link, .vly, .gauge,
        .rtc, .log, .fw]) none
        fun e => e.mode = d.mode ∧
          (d.mode ≠ .boot ∨ e.seq.t0 = none) ∧
          raised 489 d e = true) ∧
    ((d.seq.holdFrom = none ∨ isHolder d = false) →
      Completes .timeAbort q d (commonWith [.mode, .prev, .roofTime, .cycles, .core, .rails, .seq, .cl, .link, .vly, .gauge,
        .rtc, .log, .fw]) none
        fun e => e = d) ∧
    (∀ (a : BitVec 3),
      isHolder d = true →
      a.toNat ≠ strapOf d →
      complies (roofPhase d) (modeOfAddr d a.toNat) = false →
      (requiredMask d).testBit a.toNat = true →
      (takesPart d a.toNat = true ∨ (peer d a.toNat).late = true) →
      Completes (.noncompliant a) q d (commonWith [.mode, .prev, .roofTime, .cycles, .core, .rails, .seq, .cl, .link, .vly,
        .gauge, .rtc, .log, .fw, .freeN]) none
        fun e => raised 492 d e = true) ∧
    (∀ (a : BitVec 3) (n : Fin 32),
      isHolder d = true →
      a.toNat ≠ strapOf d →
      complies (roofPhase d) (modeOfAddr d a.toNat) = false →
      (requiredMask d).testBit a.toNat = true →
      (takesPart d a.toNat = true ∨ (peer d a.toNat).late = true) →
      modeOfAddr d a.toNat ≠ 8 →
      (modeOfAddr d a.toNat < 4 ∨ 6 < modeOfAddr d a.toNat) →
      (modeOfAddr d a.toNat ≠ 3 ∨ roofPhase d = 3) →
      rampToHoldup d = true →
      (rail d n).enabled = true →
      (rail d n).fallFail = false →
      Completes (.noncompliant a) q d (commonWith [.mode, .prev, .roofTime, .cycles, .core, .rails, .seq, .cl, .link, .vly,
        .gauge, .rtc, .log, .fw, .freeN]) none
        fun e => e.mode = .descend ∧
          e.seq.desc.map (fun x => x.kind) = some (if d.mode = .ramp then .abort else .orderly) ∧
          (participating d = false ∨ roofPhase d = 5 ∨ roofPhase e = 4)) ∧
    (∀ (a : BitVec 3),
      isHolder d = true →
      a.toNat ≠ strapOf d →
      complies (roofPhase d) (modeOfAddr d a.toNat) = false →
      (requiredMask d).testBit a.toNat = true →
      (takesPart d a.toNat = true ∨ (peer d a.toNat).late = true) →
      (modeOfAddr d a.toNat = 8 ∨ ((roofPhase d = 4 ∨ roofPhase d = 5) ∧ 3 ≤ modeOfAddr d a.toNat ∧ modeOfAddr d a.toNat ≤ 6
        ∧ d.link.warned.testBit a.toNat = true)) →
      participating d = true →
      (rampToHoldup d = true ∨ d.mode = .descend) →
      d.seq.desc.all (fun x => x.kind ≠ .fault) = true →
      Completes (.noncompliant a) q d (commonWith [.mode, .prev, .roofTime, .cycles, .core, .rails, .seq, .cl, .link, .vly,
        .gauge, .rtc, .log, .fw, .freeN]) none
        fun e => (e.mode = .descend ∨ e.mode = .latched) ∧
          (e.seq.desc.map (fun x => (x.kind, x.cause)) = some (.fault, 8) ∨ fld e W.MODE_STATUS_LATCH_CAUSE = 8) ∧
          e.link.faultBy = some (strapOf d) ∧
          roofPhase e = 5) ∧
    (∀ (a : BitVec 3),
      isHolder d = true →
      a.toNat ≠ strapOf d →
      complies (roofPhase d) (modeOfAddr d a.toNat) = false →
      (requiredMask d).testBit a.toNat = true →
      (takesPart d a.toNat = true ∨ (peer d a.toNat).late = true) →
      (roofPhase d = 4 ∨ roofPhase d = 5) →
      (3 ≤ modeOfAddr d a.toNat ∧ modeOfAddr d a.toNat ≤ 6) →
      d.link.warned.testBit a.toNat = false →
      Completes (.noncompliant a) q d (commonWith [.mode, .prev, .roofTime, .cycles, .core, .rails, .seq, .cl, .link, .vly,
        .gauge, .rtc, .log, .fw, .freeN]) none
        fun e => e.link.warned = setBitNat d.link.warned a.toNat true ∧
          (participating d = false ∨ e.link.urgOut = d.link.urgOut ++ [urgOf (if roofPhase d = 4 then 1 else 0) (d.core.strap
            * 32 + d.link.phaseLow % 32) d]) ∧
          e.mode = d.mode ∧
          e.rails = d.rails) ∧
    (∀ (a : BitVec 3),
      isHolder d = true →
      a.toNat ≠ strapOf d →
      complies (roofPhase d) (modeOfAddr d a.toNat) = false →
      (requiredMask d).testBit a.toNat = false →
      takesPart d a.toNat = true →
      Completes (.noncompliant a) q d (commonWith [.mode, .prev, .roofTime, .cycles, .core, .rails, .seq, .cl, .link, .vly,
        .gauge, .rtc, .log, .fw, .freeN]) none
        fun e => e = { d with link := { d.link with dropped := setBitNat d.link.dropped a.toNat true } }) ∧
    (∀ (a : BitVec 3),
      (isHolder d = false ∨ a.toNat = strapOf d ∨ complies (roofPhase d) (modeOfAddr d a.toNat) = true ∨ (takesPart d a.toNat
        = false ∧ ((requiredMask d).testBit a.toNat = false ∨ (peer d a.toNat).late = false))) →
      Completes (.noncompliant a) q d (commonWith [.mode, .prev, .roofTime, .cycles, .core, .rails, .seq, .cl, .link, .vly,
        .gauge, .rtc, .log, .fw, .freeN]) none
        fun e => e = d)

/-- ROOF_QUERY answers with ROOF_STATUS and LNK_STATUS. VLY_REQUEST and VLY_END complete with NO_THATCH while Thatch is absent
and wait while it restarts. VLY_REQUEST is refused by the gate's checks, ends ABORTED where this device may not stand by, and
otherwise waits, with its REQUEST placed when the addressee has offered; it times out at its instant. VLY_END without a part
answers at once and otherwise asks for the end. A message that the gate lets pass enters Q16 with room, a SWAP_REQ with the
roof time at which it enters; one that it bars does not. A PPS pulse falls on a whole second of roof time. -/
def Obligations.ValleyCommandsComplete : Prop :=
  ∀ (q : List Instr) (d : Device), canonical d = true →
    (∀ (rq : Req),
      engineOn d = true →
      Completes (.roofQuery rq) q d common (some eventTables)
        fun e => answered rq 0x50 .ok (getW d W.ROOF_STATUS) (getW d W.LNK_STATUS) d e = true ∧
          e.link = d.link) ∧
    (∀ (rq : Req) (p0 p1 : Word) (dst : BitVec 3) (cn : BitVec 8),
      engineOn d = true →
      d.core.thatchAbsent = false →
      thatchReady d = true →
      firstFail (requestChecks (mkCmd rq 0x51 [p0, p1] [] d) (begun d)) = none →
      (bitOf p0 0 = false ∨ sourceBar d 0 false = none) →
      (offerOf d dst.toNat).isSome = true →
      Completes (.vlyRequest rq p0 p1 dst cn) q d (commonWith [.roofTime, .cycles, .link, .vly]) (some eventTables)
        fun e => e.vly.reqTo = some dst.toNat ∧
          e.link.q16.length = min (d.link.q16.length + 1) (max 64 d.link.q16.length) ∧
          e.eng.issued.any (fun c => c.id == d.eng.nextId && c.op == 0x51) = true) ∧
    (∀ (rq : Req) (p0 p1 : Word) (dst : BitVec 3) (cn : BitVec 8),
      engineOn d = true →
      d.core.thatchAbsent = false →
      thatchReady d = true →
      firstFail (requestChecks (mkCmd rq 0x51 [p0, p1] [] d) (begun d)) = none →
      (bitOf p0 0 = false ∨ sourceBar d 0 false = none) →
      (offerOf d dst.toNat).isSome = false →
      Completes (.vlyRequest rq p0 p1 dst cn) q d (commonWith [.roofTime, .cycles, .link, .vly]) (some eventTables)
        fun e => e.vly = d.vly ∧
          e.link = d.link ∧
          e.eng.issued.any (fun c => c.id == d.eng.nextId && c.op == 0x51) = true) ∧
    (∀ (rq : Req) (p0 p1 : Word) (dst : BitVec 3) (cn : BitVec 8) (r : Nat),
      engineOn d = true →
      d.core.thatchAbsent = false →
      thatchReady d = true →
      firstFail (requestChecks (mkCmd rq 0x51 [p0, p1] [] d) (begun d)) = none →
      bitOf p0 0 = true →
      sourceBar d 0 false = some r →
      Completes (.vlyRequest rq p0 p1 dst cn) q d (commonWith [.roofTime, .cycles, .link, .vly]) (some eventTables)
        fun e => answered rq 0x51 .aborted 0#32 (if r = 9 then 9#32 else 3#32) d e = true ∧
          e.vly = d.vly ∧
          e.link = d.link) ∧
    (∀ (rq : Req) (p0 p1 : Word) (dst : BitVec 3) (cn : BitVec 8) (st : Status),
      engineOn d = true →
      d.core.thatchAbsent = false →
      thatchReady d = true →
      firstFail (requestChecks (mkCmd rq 0x51 [p0, p1] [] d) (begun d)) = some st →
      Completes (.vlyRequest rq p0 p1 dst cn) q d (commonWith [.roofTime, .cycles, .link, .vly]) (some eventTables)
        fun e => answered rq 0x51 st 0#32 0#32 d e = true ∧
          e.vly = d.vly ∧
          e.link = d.link) ∧
    (∀ (rq : Req) (p0 p1 : Word) (dst : BitVec 3) (cn : BitVec 8),
      engineOn d = true →
      d.core.thatchAbsent = true →
      Completes (.vlyRequest rq p0 p1 dst cn) q d (commonWith [.roofTime, .cycles, .link, .vly]) (some eventTables)
        fun e => answered rq 0x51 .noThatch 0#32 0#32 d e = true ∧
          e.vly = d.vly) ∧
    (∀ (rq : Req) (p0 p1 : Word) (dst : BitVec 3) (cn : BitVec 8),
      engineOn d = true →
      d.core.thatchAbsent = false →
      thatchReady d = false →
      Completes (.vlyRequest rq p0 p1 dst cn) q d (commonWith [.roofTime, .cycles, .link, .vly]) (some eventTables)
        fun e => e.eng.issued.any (fun c => c.id == d.eng.nextId && c.op == 0x51 && c.wait == 1) = true ∧
          e.vly = d.vly) ∧
    (∀ (rq : Req),
      engineOn d = true →
      d.core.thatchAbsent = true →
      Completes (.vlyEnd rq) q d (commonWith [.roofTime, .cycles, .link, .vly]) (eventsWith [W.BK_STATUS, W.CHG_IEFF,
        W.GAUGE_STATUS, W.GAUGE_REM, W.GAUGE_RSV, W.GAUGE_VLY, W.GAUGE_AVAIL, W.GAUGE_ERR, W.VLY_STATUS, W.VLY_LAST])
        fun e => answered rq 0x52 .noThatch 0#32 0#32 d e = true ∧
          e.vly = d.vly) ∧
    (∀ (rq : Req),
      engineOn d = true →
      d.core.thatchAbsent = false →
      thatchReady d = false →
      Completes (.vlyEnd rq) q d (commonWith [.roofTime, .cycles, .link, .vly]) (eventsWith [W.BK_STATUS, W.CHG_IEFF,
        W.GAUGE_STATUS, W.GAUGE_REM, W.GAUGE_RSV, W.GAUGE_VLY, W.GAUGE_AVAIL, W.GAUGE_ERR, W.VLY_STATUS, W.VLY_LAST])
        fun e => e.eng.issued.any (fun c => c.id == d.eng.nextId && c.op == 0x52 && c.wait == 1) = true ∧
          e.vly = d.vly) ∧
    (∀ (rq : Req),
      engineOn d = true →
      d.core.thatchAbsent = false →
      thatchReady d = true →
      modeOk .live d = true →
      vlyRole d = 0 →
      Completes (.vlyEnd rq) q d (commonWith [.roofTime, .cycles, .link, .vly]) (eventsWith [W.BK_STATUS, W.CHG_IEFF,
        W.GAUGE_STATUS, W.GAUGE_REM, W.GAUGE_RSV, W.GAUGE_VLY, W.GAUGE_AVAIL, W.GAUGE_ERR, W.VLY_STATUS, W.VLY_LAST])
        fun e => answered rq 0x52 .ok 0#32 0#32 d e = true ∧
          e.vly = d.vly) ∧
    (∀ (rq : Req),
      engineOn d = true →
      d.core.thatchAbsent = false →
      thatchReady d = true →
      modeOk .live d = false →
      Completes (.vlyEnd rq) q d (commonWith [.roofTime, .cycles, .link, .vly]) (eventsWith [W.BK_STATUS, W.CHG_IEFF,
        W.GAUGE_STATUS, W.GAUGE_REM, W.GAUGE_RSV, W.GAUGE_VLY, W.GAUGE_AVAIL, W.GAUGE_ERR, W.VLY_STATUS, W.VLY_LAST])
        fun e => answered rq 0x52 .deniedMode 0#32 0#32 d e = true ∧
          e.vly = d.vly) ∧
    (∀ (rq : Req),
      engineOn d = true →
      d.core.thatchAbsent = false →
      thatchReady d = true →
      modeOk .live d = true →
      vlyRole d ≠ 0 →
      Completes (.vlyEnd rq) q d (commonWith [.roofTime, .cycles, .link, .vly]) (eventsWith [W.BK_STATUS, W.CHG_IEFF,
        W.GAUGE_STATUS, W.GAUGE_REM, W.GAUGE_RSV, W.GAUGE_VLY, W.GAUGE_AVAIL, W.GAUGE_ERR, W.VLY_STATUS, W.VLY_LAST])
        fun e => vlyRole e = vlyRole d ∧
          e.vly.swap = none ∧
          e.link.q16.length = min (d.link.q16.length + 1) (max 64 d.link.q16.length) ∧
          fld e W.VLY_LAST_REASON = 0 ∧
          fld e W.VLY_LAST_CN = fld d W.VLY_STATUS_CN ∧
          flag e W.VLY_LAST_SENT = true ∧
          e.eng.issued.any (fun c => c.id == d.eng.nextId && c.op == 0x52) = true) ∧
    (∀ (k : Cmd),
      (running d 0x51).find? (fun c => c.wait == 0) = some k →
      Completes .vlyRequestTimeout q d (commonWith [.roofTime, .cycles, .vly]) (some eventTables)
        fun e => e.roofTime = max d.roofTime (k.startT + bitsOf (k.p 1) 31 16 * 1000000) ∧
          e.vly.reqTo = none ∧
          e.eng.issued.all (fun c => c.id ≠ k.id) = true) ∧
    (∀ (k : Cmd),
      d.eng.issued = [k] →
      (k.started = true ∧ k.op = 0x51 ∧ k.wait = 0) →
      Completes .vlyRequestTimeout q d (commonWith [.roofTime, .cycles, .vly]) (some eventTables)
        fun e => reply k .timeout 0#32 0#32 d e = true) ∧
    ((running d 0x51).all (fun c => c.wait ≠ 0) = true →
      Completes .vlyRequestTimeout q d (commonWith [.roofTime, .cycles, .vly]) (some eventTables)
        fun e => e = d) ∧
    (∀ (type : BitVec 4) (w1 w2 : Word),
      linkState d ≠ 0 →
      (6 ≤ type.toNat ∧ type.toNat ≤ 13) →
      (type.toNat < 8 ∨ thatchReady d = true) →
      gateBars d type.toNat w1 w2 = false →
      type ≠ 12#4 →
      Completes (.q16MessagePlaced type w1 w2) q d [.words, .link, .vly] (some [W.VLY_STATUS])
        fun e => e.link.q16 = (if d.link.q16.length < 64 then d.link.q16 ++ [(type.toNat, if type = 10#4 then (acceptWords
          (acceptOf w1 w2)).1 else w1, if type = 10#4 then (acceptWords (acceptOf w1 w2)).2 else w2)] else d.link.q16) ∧
          e.vly.proposed = (if type = 10#4 then some (acceptOf w1 w2) else d.vly.proposed) ∧
          e.vly.reqTo = (if type = 9#4 then some (bitsOf w1 2 0) else d.vly.reqTo) ∧
          e.vly.swap = d.vly.swap) ∧
    (∀ (type : BitVec 4) (w1 w2 : Word),
      linkState d ≠ 0 →
      (6 ≤ type.toNat ∧ type.toNat ≤ 13) →
      (type.toNat < 8 ∨ thatchReady d = true) →
      gateBars d type.toNat w1 w2 = false →
      type = 12#4 →
      Completes (.q16MessagePlaced type w1 w2) q d [.words, .link, .vly] (some [W.VLY_STATUS])
        fun e => e.vly.swap.map (fun x => (x.peer, x.incoming, x.after)) = some (bitsOf w1 10 8, decide (vlyRole d ≠ 1),
          bitsOf w1 12 11) ∧
          e.vly.swap.map (fun x => (x.own, x.tX, x.reqTime)) = some (true, none, d.roofTime % 2 ^ 32) ∧
          fld e W.VLY_STATUS_SWAP = 1 ∧
          e.link.q16.length = min (d.link.q16.length + 1) (max 64 d.link.q16.length)) ∧
    (∀ (type : BitVec 4) (w1 w2 : Word),
      (linkState d = 0 ∨ type.toNat < 6 ∨ 13 < type.toNat ∨ (8 ≤ type.toNat ∧ thatchReady d = false) ∨ gateBars d type.toNat
        w1 w2 = true) →
      Completes (.q16MessagePlaced type w1 w2) q d [.words, .link, .vly] (some [W.VLY_STATUS])
        fun e => e = d) ∧
    (Completes .ppsPulse q d [.words, .roofTime, .cycles, .ev, .perf] (some [W.PC_OVF])
        fun e => e.roofTime = (if vlyRole d = 1 ∧ fld d W.VLY_STATUS_AUX_MODE = 1 then (d.roofTime / 100000000 + 1) *
          100000000 else d.roofTime) ∧
          e.vly = d.vly)

/-- A message heard enters Q17 with room. An OFFER is recorded, and without Thatch answered with REJECT 5. A REQUEST addressed
elsewhere changes nothing; one for this member is rejected with the reason that R361 and R363 give, or answered by an ACCEPT
or an amendment that takes its sender in. An ACCEPT that concerns this member waits for its instant, or is rejected with the
envelope's or the source's reason; another is ignored. A REJECT of the SOURCE ends the part two frames later; one addressed to
this member is shown and raised, releases a party, cancels a swap or ends its request. A SWAP_REQ for this member is rejected
with its reason or acknowledged, an earlier one outrunning a later. A SWAP_ACK that answers this member's request fixes T_X,
or is turned down by the checks of an incoming member; one between others suspends the STANDBY_SOURCE. -/
def Obligations.ValleyMessagesComplete : Prop :=
  ∀ (q : List Instr) (d : Device), canonical d = true →
    (∀ (a : BitVec 3) (mode : BitVec 4) (w1 w2 : Word),
      hears d = true →
      a.toNat ≠ strapOf d →
      partOf d ≠ 4 →
      Completes (.offer a mode w1 w2) q d (commonWith [.mode, .prev, .roofTime, .cycles, .core, .rails, .seq, .cl, .link,
        .vly, .gauge, .rtc, .log, .fw, .freeN]) none
        fun e => (inMode e [.retain, .standby, .dormant] = true ∨ (fld e W.LNK_STATUS_PRESENT).testBit a.toNat = true) ∧
          (inMode e [.retain, .standby, .dormant] = true ∨ e.link.q17.length = min (d.link.q17.length + 1) (max 64
            d.link.q17.length)) ∧
          (d.link.q17.length < 64 ∨ raised 459 d e = true)) ∧
    (∀ (a : BitVec 3) (mode : BitVec 4) (w1 w2 : Word),
      linkState d = 9 →
      Completes (.offer a mode w1 w2) q d (commonWith [.mode, .prev, .roofTime, .cycles, .core, .rails, .seq, .cl, .link,
        .vly, .gauge, .rtc, .log, .fw, .freeN]) none
        fun e => linkState e = (if flag d W.LNK_STATUS_ADDR_CONFLICT = true then 8 else 1) ∧
          e.link = d.link) ∧
    (∀ (a : BitVec 3) (mode : BitVec 4) (w1 w2 : Word),
      linkState d ≠ 9 →
      (hears d = false ∨ a.toNat = strapOf d ∨ partOf d = 4) →
      Completes (.offer a mode w1 w2) q d (commonWith [.mode, .prev, .roofTime, .cycles, .core, .rails, .seq, .cl, .link,
        .vly, .gauge, .rtc, .log, .fw, .freeN]) none
        fun e => e.link = d.link ∧
          e.vly = d.vly) ∧
    (∀ (a : BitVec 3) (mode : BitVec 4) (w1 w2 : Word),
      hears d = true →
      a.toNat ≠ strapOf d →
      partOf d ≠ 4 →
      Completes (.request a mode w1 w2) q d (commonWith [.mode, .prev, .roofTime, .cycles, .core, .rails, .seq, .cl, .link,
        .vly, .gauge, .rtc, .log, .fw, .freeN]) none
        fun e => (inMode e [.retain, .standby, .dormant] = true ∨ (fld e W.LNK_STATUS_PRESENT).testBit a.toNat = true) ∧
          (inMode e [.retain, .standby, .dormant] = true ∨ e.link.q17.length = min (d.link.q17.length + 1) (max 64
            d.link.q17.length)) ∧
          (d.link.q17.length < 64 ∨ raised 459 d e = true)) ∧
    (∀ (a : BitVec 3) (mode : BitVec 4) (w1 w2 : Word),
      linkState d = 9 →
      Completes (.request a mode w1 w2) q d (commonWith [.mode, .prev, .roofTime, .cycles, .core, .rails, .seq, .cl, .link,
        .vly, .gauge, .rtc, .log, .fw, .freeN]) none
        fun e => linkState e = (if flag d W.LNK_STATUS_ADDR_CONFLICT = true then 8 else 1) ∧
          e.link = d.link) ∧
    (∀ (a : BitVec 3) (mode : BitVec 4) (w1 w2 : Word),
      linkState d ≠ 9 →
      (hears d = false ∨ a.toNat = strapOf d ∨ partOf d = 4) →
      Completes (.request a mode w1 w2) q d (commonWith [.mode, .prev, .roofTime, .cycles, .core, .rails, .seq, .cl, .link,
        .vly, .gauge, .rtc, .log, .fw, .freeN]) none
        fun e => e.link = d.link ∧
          e.vly = d.vly) ∧
    (∀ (a : BitVec 3) (mode : BitVec 4) (w1 w2 : Word),
      hears d = true →
      a.toNat ≠ strapOf d →
      partOf d ≠ 4 →
      Completes (.accept a mode w1 w2) q d (commonWith [.mode, .prev, .roofTime, .cycles, .core, .rails, .seq, .cl, .link,
        .vly, .gauge, .rtc, .log, .fw, .freeN]) none
        fun e => (inMode e [.retain, .standby, .dormant] = true ∨ (fld e W.LNK_STATUS_PRESENT).testBit a.toNat = true) ∧
          (inMode e [.retain, .standby, .dormant] = true ∨ e.link.q17.length = min (d.link.q17.length + 1) (max 64
            d.link.q17.length)) ∧
          (d.link.q17.length < 64 ∨ raised 459 d e = true)) ∧
    (∀ (a : BitVec 3) (mode : BitVec 4) (w1 w2 : Word),
      linkState d = 9 →
      Completes (.accept a mode w1 w2) q d (commonWith [.mode, .prev, .roofTime, .cycles, .core, .rails, .seq, .cl, .link,
        .vly, .gauge, .rtc, .log, .fw, .freeN]) none
        fun e => linkState e = (if flag d W.LNK_STATUS_ADDR_CONFLICT = true then 8 else 1) ∧
          e.link = d.link) ∧
    (∀ (a : BitVec 3) (mode : BitVec 4) (w1 w2 : Word),
      linkState d ≠ 9 →
      (hears d = false ∨ a.toNat = strapOf d ∨ partOf d = 4) →
      Completes (.accept a mode w1 w2) q d (commonWith [.mode, .prev, .roofTime, .cycles, .core, .rails, .seq, .cl, .link,
        .vly, .gauge, .rtc, .log, .fw, .freeN]) none
        fun e => e.link = d.link ∧
          e.vly = d.vly) ∧
    (∀ (a : BitVec 3) (mode : BitVec 4) (w1 w2 : Word),
      hears d = true →
      a.toNat ≠ strapOf d →
      partOf d ≠ 4 →
      Completes (.reject a mode w1 w2) q d (commonWith [.mode, .prev, .roofTime, .cycles, .core, .rails, .seq, .cl, .link,
        .vly, .gauge, .rtc, .log, .fw, .freeN]) none
        fun e => (inMode e [.retain, .standby, .dormant] = true ∨ (fld e W.LNK_STATUS_PRESENT).testBit a.toNat = true) ∧
          (inMode e [.retain, .standby, .dormant] = true ∨ e.link.q17.length = min (d.link.q17.length + 1) (max 64
            d.link.q17.length)) ∧
          (d.link.q17.length < 64 ∨ raised 459 d e = true)) ∧
    (∀ (a : BitVec 3) (mode : BitVec 4) (w1 w2 : Word),
      linkState d = 9 →
      Completes (.reject a mode w1 w2) q d (commonWith [.mode, .prev, .roofTime, .cycles, .core, .rails, .seq, .cl, .link,
        .vly, .gauge, .rtc, .log, .fw, .freeN]) none
        fun e => linkState e = (if flag d W.LNK_STATUS_ADDR_CONFLICT = true then 8 else 1) ∧
          e.link = d.link) ∧
    (∀ (a : BitVec 3) (mode : BitVec 4) (w1 w2 : Word),
      linkState d ≠ 9 →
      (hears d = false ∨ a.toNat = strapOf d ∨ partOf d = 4) →
      Completes (.reject a mode w1 w2) q d (commonWith [.mode, .prev, .roofTime, .cycles, .core, .rails, .seq, .cl, .link,
        .vly, .gauge, .rtc, .log, .fw, .freeN]) none
        fun e => e.link = d.link ∧
          e.vly = d.vly) ∧
    (∀ (a : BitVec 3) (mode : BitVec 4) (w1 w2 : Word),
      hears d = true →
      a.toNat ≠ strapOf d →
      partOf d ≠ 4 →
      Completes (.swapReq a mode w1 w2) q d (commonWith [.mode, .prev, .roofTime, .cycles, .core, .rails, .seq, .cl, .link,
        .vly, .gauge, .rtc, .log, .fw, .freeN]) none
        fun e => (inMode e [.retain, .standby, .dormant] = true ∨ (fld e W.LNK_STATUS_PRESENT).testBit a.toNat = true) ∧
          (inMode e [.retain, .standby, .dormant] = true ∨ e.link.q17.length = min (d.link.q17.length + 1) (max 64
            d.link.q17.length)) ∧
          (d.link.q17.length < 64 ∨ raised 459 d e = true)) ∧
    (∀ (a : BitVec 3) (mode : BitVec 4) (w1 w2 : Word),
      linkState d = 9 →
      Completes (.swapReq a mode w1 w2) q d (commonWith [.mode, .prev, .roofTime, .cycles, .core, .rails, .seq, .cl, .link,
        .vly, .gauge, .rtc, .log, .fw, .freeN]) none
        fun e => linkState e = (if flag d W.LNK_STATUS_ADDR_CONFLICT = true then 8 else 1) ∧
          e.link = d.link) ∧
    (∀ (a : BitVec 3) (mode : BitVec 4) (w1 w2 : Word),
      linkState d ≠ 9 →
      (hears d = false ∨ a.toNat = strapOf d ∨ partOf d = 4) →
      Completes (.swapReq a mode w1 w2) q d (commonWith [.mode, .prev, .roofTime, .cycles, .core, .rails, .seq, .cl, .link,
        .vly, .gauge, .rtc, .log, .fw, .freeN]) none
        fun e => e.link = d.link ∧
          e.vly = d.vly) ∧
    (∀ (a : BitVec 3) (mode : BitVec 4) (w1 w2 : Word),
      hears d = true →
      a.toNat ≠ strapOf d →
      partOf d ≠ 4 →
      Completes (.swapAck a mode w1 w2) q d (commonWith [.mode, .prev, .roofTime, .cycles, .core, .rails, .seq, .cl, .link,
        .vly, .gauge, .rtc, .log, .fw, .freeN]) none
        fun e => (inMode e [.retain, .standby, .dormant] = true ∨ (fld e W.LNK_STATUS_PRESENT).testBit a.toNat = true) ∧
          (inMode e [.retain, .standby, .dormant] = true ∨ e.link.q17.length = min (d.link.q17.length + 1) (max 64
            d.link.q17.length)) ∧
          (d.link.q17.length < 64 ∨ raised 459 d e = true)) ∧
    (∀ (a : BitVec 3) (mode : BitVec 4) (w1 w2 : Word),
      linkState d = 9 →
      Completes (.swapAck a mode w1 w2) q d (commonWith [.mode, .prev, .roofTime, .cycles, .core, .rails, .seq, .cl, .link,
        .vly, .gauge, .rtc, .log, .fw, .freeN]) none
        fun e => linkState e = (if flag d W.LNK_STATUS_ADDR_CONFLICT = true then 8 else 1) ∧
          e.link = d.link) ∧
    (∀ (a : BitVec 3) (mode : BitVec 4) (w1 w2 : Word),
      linkState d ≠ 9 →
      (hears d = false ∨ a.toNat = strapOf d ∨ partOf d = 4) →
      Completes (.swapAck a mode w1 w2) q d (commonWith [.mode, .prev, .roofTime, .cycles, .core, .rails, .seq, .cl, .link,
        .vly, .gauge, .rtc, .log, .fw, .freeN]) none
        fun e => e.link = d.link ∧
          e.vly = d.vly) ∧
    (∀ (a : BitVec 3) (mode : BitVec 4) (w1 w2 : Word),
      hears d = true →
      a.toNat ≠ strapOf d →
      partOf d ≠ 4 →
      (mode ≠ 7#4 ∧ mode ≠ 8#4 ∧ (mode ≠ 2#4 ∨ d.mode ≠ .latched)) →
      d.link.q17.length < 64 →
      thatchReady d = true →
      Completes (.offer a mode w1 w2) q d (commonWith [.mode, .prev, .roofTime, .cycles, .core, .rails, .seq, .cl, .link,
        .vly, .gauge, .rtc, .log, .fw, .freeN]) none
        fun e => (offerOf e a.toNat).map (fun o => (o.flags, o.iMax, o.vC)) = some (bitsOf w1 7 0, bitsOf w1 15 8, bitsOf w1
          23 16) ∧
          (offerOf e a.toNat).map (fun o => (o.e, o.aux, o.seq)) = some (bitsOf w1 31 24 + 256 * bitsOf w2 7 0, bitsOf w2 15
            8, bitsOf w2 31 24) ∧
          vlyRole e = vlyRole d) ∧
    (∀ (a : BitVec 3) (mode : BitVec 4) (w1 w2 : Word) (r : Nat),
      hears d = true →
      a.toNat ≠ strapOf d →
      partOf d ≠ 4 →
      (mode ≠ 7#4 ∧ mode ≠ 8#4 ∧ (mode ≠ 2#4 ∨ d.mode ≠ .latched)) →
      d.link.q17.length < 64 →
      thatchReady d = false →
      r = 5 →
      Completes (.offer a mode w1 w2) q d (commonWith [.mode, .prev, .roofTime, .cycles, .core, .rails, .seq, .cl, .link,
        .vly, .gauge, .rtc, .log, .fw, .freeN]) none
        fun e => fld e W.VLY_LAST_REASON = r ∧
          fld e W.VLY_LAST_CN = 255 ∧
          fld e W.VLY_LAST_PEER = a.toNat ∧
          flag e W.VLY_LAST_SENT = true ∧
          e.link.q16.length = min (d.link.q16.length + 1) (max 64 d.link.q16.length) ∧
          vlyRole e = vlyRole d) ∧
    (∀ (a : BitVec 3) (mode : BitVec 4) (w1 w2 : Word),
      hears d = true →
      a.toNat ≠ strapOf d →
      partOf d ≠ 4 →
      (mode ≠ 7#4 ∧ mode ≠ 8#4 ∧ (mode ≠ 2#4 ∨ d.mode ≠ .latched)) →
      d.link.q17.length < 64 →
      bitsOf w1 2 0 ≠ strapOf d →
      Completes (.request a mode w1 w2) q d (commonWith [.mode, .prev, .roofTime, .cycles, .core, .rails, .seq, .cl, .link,
        .vly, .gauge, .rtc, .log, .fw, .freeN]) none
        fun e => e.vly = d.vly ∧
          e.link.q16 = d.link.q16) ∧
    (∀ (a : BitVec 3) (mode : BitVec 4) (w1 w2 : Word) (r : Nat),
      hears d = true →
      a.toNat ≠ strapOf d →
      partOf d ≠ 4 →
      (mode ≠ 7#4 ∧ mode ≠ 8#4 ∧ (mode ≠ 2#4 ∨ d.mode ≠ .latched)) →
      d.link.q17.length < 64 →
      bitsOf w1 2 0 = strapOf d →
      ((thatchReady d = false ∧ r = 5) ∨ (thatchReady d = true ∧ (d.vly.proposed.isSome = true ∨ d.vly.pend.isSome = true ∨
        d.vly.swap.isSome = true) ∧ r = 5)) →
      Completes (.request a mode w1 w2) q d (commonWith [.mode, .prev, .roofTime, .cycles, .core, .rails, .seq, .cl, .link,
        .vly, .gauge, .rtc, .log, .fw, .freeN]) none
        fun e => fld e W.VLY_LAST_REASON = r ∧
          fld e W.VLY_LAST_CN = bitsOf w2 15 8 ∧
          fld e W.VLY_LAST_PEER = a.toNat ∧
          flag e W.VLY_LAST_SENT = true ∧
          e.link.q16.length = min (d.link.q16.length + 1) (max 64 d.link.q16.length) ∧
          vlyRole e = vlyRole d ∧
          e.vly = d.vly) ∧
    (∀ (a : BitVec 3) (mode : BitVec 4) (w1 w2 : Word) (r : Nat),
      hears d = true →
      a.toNat ≠ strapOf d →
      partOf d ≠ 4 →
      (mode ≠ 7#4 ∧ mode ≠ 8#4 ∧ (mode ≠ 2#4 ∨ d.mode ≠ .latched)) →
      d.link.q17.length < 64 →
      bitsOf w1 2 0 = strapOf d →
      thatchReady d = true →
      (d.vly.proposed = none ∧ d.vly.pend = none ∧ d.vly.swap = none) →
      vlyRole d = 0 →
      (((bitOf w1 3 = true ∨ bitsOf w2 15 8 ≠ 0xFF) ∧ r = 9) ∨ (bitOf w1 3 = false ∧ bitsOf w2 15 8 = 0xFF ∧ sourceBar d
        (bitsOf w1 31 16) false = some r) ∨ (bitOf w1 3 = false ∧ bitsOf w2 15 8 = 0xFF ∧ sourceBar d (bitsOf w1 31 16) false
        = none ∧ (currentOk d (bitsOf w1 15 8) = false ∨ vlyVMax d < ownVc d * 100) ∧ r = 2)) →
      Completes (.request a mode w1 w2) q d (commonWith [.mode, .prev, .roofTime, .cycles, .core, .rails, .seq, .cl, .link,
        .vly, .gauge, .rtc, .log, .fw, .freeN]) none
        fun e => fld e W.VLY_LAST_REASON = r ∧
          fld e W.VLY_LAST_CN = bitsOf w2 15 8 ∧
          fld e W.VLY_LAST_PEER = a.toNat ∧
          flag e W.VLY_LAST_SENT = true ∧
          e.link.q16.length = min (d.link.q16.length + 1) (max 64 d.link.q16.length) ∧
          vlyRole e = vlyRole d ∧
          e.vly = d.vly) ∧
    (∀ (a : BitVec 3) (mode : BitVec 4) (w1 w2 : Word),
      hears d = true →
      a.toNat ≠ strapOf d →
      partOf d ≠ 4 →
      (mode ≠ 7#4 ∧ mode ≠ 8#4 ∧ (mode ≠ 2#4 ∨ d.mode ≠ .latched)) →
      d.link.q17.length < 64 →
      bitsOf w1 2 0 = strapOf d →
      thatchReady d = true →
      (d.vly.proposed = none ∧ d.vly.pend = none ∧ d.vly.swap = none) →
      vlyRole d = 0 →
      bitOf w1 3 = false →
      bitsOf w2 15 8 = 0xFF →
      sourceBar d (bitsOf w1 31 16) false = none →
      currentOk d (bitsOf w1 15 8) = true →
      ownVc d * 100 ≤ vlyVMax d →
      Completes (.request a mode w1 w2) q d (commonWith [.mode, .prev, .roofTime, .cycles, .core, .rails, .seq, .cl, .link,
        .vly, .gauge, .rtc, .log, .fw, .freeN]) none
        fun e => e.vly.proposed.map (fun c => (c.source, c.sinks, c.iC, c.e, c.vC)) = some (strapOf d, 2 ^ a.toNat, bitsOf w1
          15 8, bitsOf w1 31 16, ownVc d) ∧
          e.link.q16.length = min (d.link.q16.length + 1) (max 64 d.link.q16.length) ∧
          vlyRole e = 0) ∧
    (∀ (a : BitVec 3) (mode : BitVec 4) (w1 w2 : Word) (r : Nat),
      hears d = true →
      a.toNat ≠ strapOf d →
      partOf d ≠ 4 →
      (mode ≠ 7#4 ∧ mode ≠ 8#4 ∧ (mode ≠ 2#4 ∨ d.mode ≠ .latched)) →
      d.link.q17.length < 64 →
      bitsOf w1 2 0 = strapOf d →
      thatchReady d = true →
      (d.vly.proposed = none ∧ d.vly.pend = none ∧ d.vly.swap = none) →
      vlyRole d ≠ 0 →
      (((vlyRole d ≠ 1 ∨ bitsOf w2 15 8 ≠ fld d W.VLY_STATUS_CN) ∧ r = 5) ∨ (vlyRole d = 1 ∧ bitsOf w2 15 8 = fld d
        W.VLY_STATUS_CN ∧ bitOf w1 3 = true ∧ flag d W.VLY_CONTRACT_STANDBY_VALID = true ∧ r = 5) ∨ (vlyRole d = 1 ∧ bitsOf
        w2 15 8 = fld d W.VLY_STATUS_CN ∧ bitOf w1 3 = false ∧ sourceBar d (bitsOf w1 31 16) true = some r) ∨ (vlyRole d = 1
        ∧ bitsOf w2 15 8 = fld d W.VLY_STATUS_CN ∧ bitOf w1 3 = false ∧ sourceBar d (bitsOf w1 31 16) true = none ∧ currentOk
        d (fld d W.VLY_CONTRACT_I_C + bitsOf w1 15 8) = false ∧ r = 2)) →
      Completes (.request a mode w1 w2) q d (commonWith [.mode, .prev, .roofTime, .cycles, .core, .rails, .seq, .cl, .link,
        .vly, .gauge, .rtc, .log, .fw, .freeN]) none
        fun e => fld e W.VLY_LAST_REASON = r ∧
          fld e W.VLY_LAST_CN = bitsOf w2 15 8 ∧
          fld e W.VLY_LAST_PEER = a.toNat ∧
          flag e W.VLY_LAST_SENT = true ∧
          e.link.q16.length = min (d.link.q16.length + 1) (max 64 d.link.q16.length) ∧
          vlyRole e = vlyRole d ∧
          e.vly = d.vly) ∧
    (∀ (a : BitVec 3) (mode : BitVec 4) (w1 w2 : Word) (c : Contract),
      hears d = true →
      a.toNat ≠ strapOf d →
      partOf d ≠ 4 →
      (mode ≠ 7#4 ∧ mode ≠ 8#4 ∧ (mode ≠ 2#4 ∨ d.mode ≠ .latched)) →
      d.link.q17.length < 64 →
      bitsOf w1 2 0 = strapOf d →
      thatchReady d = true →
      (d.vly.proposed = none ∧ d.vly.pend = none ∧ d.vly.swap = none) →
      d.vly.cur = some c →
      vlyRole d = 1 →
      bitsOf w2 15 8 = fld d W.VLY_STATUS_CN →
      ((bitOf w1 3 = true ∧ flag d W.VLY_CONTRACT_STANDBY_VALID = false) ∨ (bitOf w1 3 = false ∧ sourceBar d (bitsOf w1 31
        16) true = none ∧ currentOk d (fld d W.VLY_CONTRACT_I_C + bitsOf w1 15 8) = true)) →
      Completes (.request a mode w1 w2) q d (commonWith [.mode, .prev, .roofTime, .cycles, .core, .rails, .seq, .cl, .link,
        .vly, .gauge, .rtc, .log, .fw, .freeN]) none
        fun e => e.vly.proposed.map (fun x => (x.cn, x.amend, x.standby)) = some (c.cn, (c.amend + 1) % 64, if bitOf w1 3 =
          true then some a.toNat else c.standby) ∧
          e.vly.proposed.map (fun x => (x.sinks, x.iC, x.e)) = some (if bitOf w1 3 = true then c.sinks else setBitNat c.sinks
            a.toNat true, if bitOf w1 3 = true then c.iC else c.iC + bitsOf w1 15 8, energyLeft d + (if bitOf w1 3 = true
            then 0 else bitsOf w1 31 16)) ∧
          (bitOf w1 3 = false ∨ e.vly.proposed.map (fun x => x.fsAuth) = some (mayFastSwap d a.toNat)) ∧
          e.link.q16.length = min (d.link.q16.length + 1) (max 64 d.link.q16.length) ∧
          vlyRole e = 1) ∧
    (∀ (a : BitVec 3) (mode : BitVec 4) (w1 w2 : Word) (c : Contract) (mine : Bool),
      hears d = true →
      a.toNat ≠ strapOf d →
      partOf d ≠ 4 →
      (mode ≠ 7#4 ∧ mode ≠ 8#4 ∧ (mode ≠ 2#4 ∨ d.mode ≠ .latched)) →
      d.link.q17.length < 64 →
      c = acceptOf w1 w2 →
      mine = (vlyRole d ≠ 0 && fld d W.VLY_STATUS_CN = c.cn) →
      inMode d operModes = true →
      (mine = true ∨ (vlyRole d = 0 ∧ partIn d c ≠ 0)) →
      (partIn d c = 0 ∨ (mine = true ∧ partIn d c = vlyRole d) ∨ (contractBar d c = none ∧ (partIn d c = 2 ∨ sourceBar d c.e
        mine = none))) →
      Completes (.accept a mode w1 w2) q d (commonWith [.mode, .prev, .roofTime, .cycles, .core, .rails, .seq, .cl, .link,
        .vly, .gauge, .rtc, .log, .fw, .freeN]) none
        fun e => e.vly.pend = some (c, d.link.fn) ∧
          vlyRole e = vlyRole d ∧
          e.link.q16 = d.link.q16) ∧
    (∀ (a : BitVec 3) (mode : BitVec 4) (w1 w2 : Word) (c : Contract) (mine : Bool) (r : Nat),
      hears d = true →
      a.toNat ≠ strapOf d →
      partOf d ≠ 4 →
      (mode ≠ 7#4 ∧ mode ≠ 8#4 ∧ (mode ≠ 2#4 ∨ d.mode ≠ .latched)) →
      d.link.q17.length < 64 →
      c = acceptOf w1 w2 →
      mine = (vlyRole d ≠ 0 && fld d W.VLY_STATUS_CN = c.cn) →
      inMode d operModes = true →
      (mine = true ∨ vlyRole d = 0) →
      (partIn d c ≠ 0 ∧ (mine = false ∨ partIn d c ≠ vlyRole d)) →
      (contractBar d c = some r ∨ (contractBar d c = none ∧ partIn d c ≠ 2 ∧ sourceBar d c.e mine = some r)) →
      Completes (.accept a mode w1 w2) q d (commonWith [.mode, .prev, .roofTime, .cycles, .core, .rails, .seq, .cl, .link,
        .vly, .gauge, .rtc, .log, .fw, .freeN]) none
        fun e => fld e W.VLY_LAST_REASON = r ∧
          fld e W.VLY_LAST_CN = bitsOf w1 7 0 ∧
          fld e W.VLY_LAST_PEER = a.toNat ∧
          flag e W.VLY_LAST_SENT = true ∧
          e.link.q16.length = min (d.link.q16.length + 1) (max 64 d.link.q16.length) ∧
          vlyRole e = vlyRole d ∧
          e.vly = d.vly) ∧
    (∀ (a : BitVec 3) (mode : BitVec 4) (w1 w2 : Word) (c : Contract),
      hears d = true →
      a.toNat ≠ strapOf d →
      partOf d ≠ 4 →
      (mode ≠ 7#4 ∧ mode ≠ 8#4 ∧ (mode ≠ 2#4 ∨ d.mode ≠ .latched)) →
      d.link.q17.length < 64 →
      c = acceptOf w1 w2 →
      ((vlyRole d ≠ 0 ∧ fld d W.VLY_STATUS_CN ≠ c.cn) ∨ (vlyRole d = 0 ∧ partIn d c = 0) ∨ inMode d operModes = false) →
      Completes (.accept a mode w1 w2) q d (commonWith [.mode, .prev, .roofTime, .cycles, .core, .rails, .seq, .cl, .link,
        .vly, .gauge, .rtc, .log, .fw, .freeN]) none
        fun e => e.vly = d.vly ∧
          e.link.q16 = d.link.q16) ∧
    (∀ (a : BitVec 3) (mode : BitVec 4) (w1 w2 : Word),
      hears d = true →
      a.toNat ≠ strapOf d →
      partOf d ≠ 4 →
      (mode ≠ 7#4 ∧ mode ≠ 8#4 ∧ (mode ≠ 2#4 ∨ d.mode ≠ .latched)) →
      d.link.q17.length < 64 →
      vlyRole d ≠ 0 →
      vlyRole d ≠ 1 →
      bitsOf w1 7 0 = fld d W.VLY_STATUS_CN →
      a.toNat = fld d W.VLY_CONTRACT_SOURCE →
      (bitsOf w1 15 8 = 0 ∨ bitsOf w1 15 8 = 6 ∨ bitsOf w1 15 8 = 8) →
      Completes (.reject a mode w1 w2) q d (commonWith [.mode, .prev, .roofTime, .cycles, .core, .rails, .seq, .cl, .link,
        .vly, .gauge, .rtc, .log, .fw, .freeN]) none
        fun e => e.vly.endAt = some (d.link.fn + 2) ∧
          e.vly.swap = none ∧
          fld e W.VLY_LAST_REASON = bitsOf w1 15 8 ∧
          flag e W.VLY_LAST_SENT = false ∧
          flag e W.VLY_STATUS_FS_ARMED = false ∧
          vlyRole e = vlyRole d ∧
          (bitsOf w1 18 16 ≠ strapOf d ∨ raised 523 d e = true)) ∧
    (∀ (a : BitVec 3) (mode : BitVec 4) (w1 w2 : Word),
      hears d = true →
      a.toNat ≠ strapOf d →
      partOf d ≠ 4 →
      (mode ≠ 7#4 ∧ mode ≠ 8#4 ∧ (mode ≠ 2#4 ∨ d.mode ≠ .latched)) →
      d.link.q17.length < 64 →
      bitsOf w1 18 16 = strapOf d →
      Completes (.reject a mode w1 w2) q d (commonWith [.mode, .prev, .roofTime, .cycles, .core, .rails, .seq, .cl, .link,
        .vly, .gauge, .rtc, .log, .fw, .freeN]) none
        fun e => fld e W.VLY_LAST_REASON = bitsOf w1 15 8 ∧
          fld e W.VLY_LAST_CN = bitsOf w1 7 0 ∧
          fld e W.VLY_LAST_PEER = a.toNat ∧
          flag e W.VLY_LAST_SENT = false ∧
          (bitsOf w1 15 8 ≠ 1 ∨ vlyRole d = 0 ∨ bitsOf w1 7 0 ≠ fld d W.VLY_STATUS_CN ∨ e.vly.swapFrom = d.roofTime +
            (strapOf d + 1) * 10000) ∧
          raised 523 d e = true) ∧
    (∀ (a : BitVec 3) (mode : BitVec 4) (w1 w2 : Word) (c : Contract),
      hears d = true →
      a.toNat ≠ strapOf d →
      partOf d ≠ 4 →
      (mode ≠ 7#4 ∧ mode ≠ 8#4 ∧ (mode ≠ 2#4 ∨ d.mode ≠ .latched)) →
      d.link.q17.length < 64 →
      bitsOf w1 18 16 = strapOf d →
      vlyRole d = 1 →
      bitsOf w1 7 0 = fld d W.VLY_STATUS_CN →
      bitsOf w1 15 8 = 0 →
      d.vly.proposed = none →
      d.vly.cur = some c →
      Completes (.reject a mode w1 w2) q d (commonWith [.mode, .prev, .roofTime, .cycles, .core, .rails, .seq, .cl, .link,
        .vly, .gauge, .rtc, .log, .fw, .freeN]) none
        fun e => e.vly.proposed.map (fun x => (x.sinks, x.amend)) = some (setBitNat c.sinks a.toNat false, (c.amend + 1) %
          64) ∧
          vlyRole e = 1) ∧
    (∀ (a : BitVec 3) (mode : BitVec 4) (w1 w2 : Word),
      hears d = true →
      a.toNat ≠ strapOf d →
      partOf d ≠ 4 →
      (mode ≠ 7#4 ∧ mode ≠ 8#4 ∧ (mode ≠ 2#4 ∨ d.mode ≠ .latched)) →
      d.link.q17.length < 64 →
      bitsOf w1 18 16 = strapOf d →
      vlyRole d ≠ 0 →
      bitsOf w1 7 0 = fld d W.VLY_STATUS_CN →
      bitsOf w1 15 8 ≠ 0 →
      (vlyRole d = 1 ∨ a.toNat ≠ fld d W.VLY_CONTRACT_SOURCE ∨ (bitsOf w1 15 8 ≠ 6 ∧ bitsOf w1 15 8 ≠ 8)) →
      swapEnds a.toNat (bitsOf w1 15 8) (bitsOf w1 31 24) d = true →
      Completes (.reject a mode w1 w2) q d (commonWith [.mode, .prev, .roofTime, .cycles, .core, .rails, .seq, .cl, .link,
        .vly, .gauge, .rtc, .log, .fw, .freeN]) none
        fun e => e.vly.swap = none ∧
          fld e W.VLY_STATUS_SWAP = 0 ∧
          raised 519 d e = true) ∧
    (∀ (a : BitVec 3) (mode : BitVec 4) (w1 w2 : Word) (k : Cmd),
      hears d = true →
      a.toNat ≠ strapOf d →
      partOf d ≠ 4 →
      (mode ≠ 7#4 ∧ mode ≠ 8#4 ∧ (mode ≠ 2#4 ∨ d.mode ≠ .latched)) →
      d.link.q17.length < 64 →
      bitsOf w1 18 16 = strapOf d →
      vlyRole d = 0 →
      d.vly.reqTo = some a.toNat →
      d.eng.issued = [k] →
      (k.started = true ∧ k.op = 0x51) →
      Completes (.reject a mode w1 w2) q d (commonWith [.mode, .prev, .roofTime, .cycles, .core, .rails, .seq, .cl, .link,
        .vly, .gauge, .rtc, .log, .fw, .freeN]) none
        fun e => e.vly.reqTo = none ∧
          reply k .aborted 0#32 (BitVec.ofNat 32 (bitsOf w1 15 8)) d e = true) ∧
    (∀ (a : BitVec 3) (mode : BitVec 4) (w1 w2 : Word),
      hears d = true →
      a.toNat ≠ strapOf d →
      partOf d ≠ 4 →
      (mode ≠ 7#4 ∧ mode ≠ 8#4 ∧ (mode ≠ 2#4 ∨ d.mode ≠ .latched)) →
      d.link.q17.length < 64 →
      bitsOf w1 18 16 ≠ strapOf d →
      (vlyRole d = 0 ∨ vlyRole d = 1 ∨ bitsOf w1 7 0 ≠ fld d W.VLY_STATUS_CN ∨ a.toNat ≠ fld d W.VLY_CONTRACT_SOURCE ∨
        (bitsOf w1 15 8 ≠ 0 ∧ bitsOf w1 15 8 ≠ 6 ∧ bitsOf w1 15 8 ≠ 8)) →
      Completes (.reject a mode w1 w2) q d (commonWith [.mode, .prev, .roofTime, .cycles, .core, .rails, .seq, .cl, .link,
        .vly, .gauge, .rtc, .log, .fw, .freeN]) none
        fun e => e.vly = d.vly ∧
          getW e W.VLY_LAST = getW d W.VLY_LAST) ∧
    (∀ (a : BitVec 3) (mode : BitVec 4) (w1 w2 : Word),
      hears d = true →
      a.toNat ≠ strapOf d →
      partOf d ≠ 4 →
      (mode ≠ 7#4 ∧ mode ≠ 8#4 ∧ (mode ≠ 2#4 ∨ d.mode ≠ .latched)) →
      d.link.q17.length < 64 →
      bitsOf w1 10 8 ≠ strapOf d →
      Completes (.swapReq a mode w1 w2) q d (commonWith [.mode, .prev, .roofTime, .cycles, .core, .rails, .seq, .cl, .link,
        .vly, .gauge, .rtc, .log, .fw, .freeN]) none
        fun e => e.vly = d.vly ∧
          e.link.q16 = d.link.q16) ∧
    (∀ (a : BitVec 3) (mode : BitVec 4) (w1 w2 : Word) (r : Nat) (bar : Option Nat),
      hears d = true →
      a.toNat ≠ strapOf d →
      partOf d ≠ 4 →
      (mode ≠ 7#4 ∧ mode ≠ 8#4 ∧ (mode ≠ 2#4 ∨ d.mode ≠ .latched)) →
      d.link.q17.length < 64 →
      bitsOf w1 10 8 = strapOf d →
      bar = (if vlyRole d = 1 then none else incomingBar d) →
      ((thatchReady d = false ∧ r = 5) ∨ (thatchReady d = true ∧ (vlyRole d = 0 ∨ bitsOf w1 7 0 ≠ fld d W.VLY_STATUS_CN ∨
        bitsOf w1 12 11 = 3 ∨ swapParties d a.toNat = false) ∧ r = 9) ∨ (thatchReady d = true ∧ vlyRole d ≠ 0 ∧ bitsOf w1 7 0
        = fld d W.VLY_STATUS_CN ∧ bitsOf w1 12 11 ≠ 3 ∧ swapParties d a.toNat = true ∧ bar = some r)) →
      Completes (.swapReq a mode w1 w2) q d (commonWith [.mode, .prev, .roofTime, .cycles, .core, .rails, .seq, .cl, .link,
        .vly, .gauge, .rtc, .log, .fw, .freeN]) none
        fun e => fld e W.VLY_LAST_REASON = r ∧
          fld e W.VLY_LAST_CN = bitsOf w1 7 0 ∧
          fld e W.VLY_LAST_PEER = a.toNat ∧
          flag e W.VLY_LAST_SENT = true ∧
          e.link.q16.length = min (d.link.q16.length + 1) (max 64 d.link.q16.length) ∧
          vlyRole e = vlyRole d ∧
          e.vly = d.vly) ∧
    (∀ (a : BitVec 3) (mode : BitVec 4) (w1 w2 : Word) (r : Nat) (x : Swap),
      hears d = true →
      a.toNat ≠ strapOf d →
      partOf d ≠ 4 →
      (mode ≠ 7#4 ∧ mode ≠ 8#4 ∧ (mode ≠ 2#4 ∨ d.mode ≠ .latched)) →
      d.link.q17.length < 64 →
      bitsOf w1 10 8 = strapOf d →
      thatchReady d = true →
      (vlyRole d = 1 ∨ (vlyRole d ≠ 0 ∧ incomingBar d = none)) →
      bitsOf w1 7 0 = fld d W.VLY_STATUS_CN →
      bitsOf w1 12 11 ≠ 3 →
      swapParties d a.toNat = true →
      d.vly.swap = some x →
      ((x.tX.isSome = true ∧ r = 5) ∨ (x.tX = none ∧ x.own = true ∧ x.peer ≠ a.toNat ∧ vlyRole d ≠ 1 ∧ r = 5) ∨ (x.tX = none
        ∧ (x.own = false ∨ x.peer = a.toNat ∨ vlyRole d = 1) ∧ winsOver (bitsOf w1 31 16 + 65536 * bitsOf w2 15 0) a.toNat
        x.reqTime (if x.own then strapOf d else x.peer) = false ∧ r = 1)) →
      Completes (.swapReq a mode w1 w2) q d (commonWith [.mode, .prev, .roofTime, .cycles, .core, .rails, .seq, .cl, .link,
        .vly, .gauge, .rtc, .log, .fw, .freeN]) none
        fun e => fld e W.VLY_LAST_REASON = r ∧
          fld e W.VLY_LAST_CN = bitsOf w1 7 0 ∧
          fld e W.VLY_LAST_PEER = a.toNat ∧
          flag e W.VLY_LAST_SENT = true ∧
          e.link.q16.length = min (d.link.q16.length + 1) (max 64 d.link.q16.length) ∧
          vlyRole e = vlyRole d ∧
          e.vly = d.vly ∧
          (r ≠ 1 ∨ raised 520 d e = true)) ∧
    (∀ (a : BitVec 3) (mode : BitVec 4) (w1 w2 : Word),
      hears d = true →
      a.toNat ≠ strapOf d →
      partOf d ≠ 4 →
      (mode ≠ 7#4 ∧ mode ≠ 8#4 ∧ (mode ≠ 2#4 ∨ d.mode ≠ .latched)) →
      d.link.q17.length < 64 →
      bitsOf w1 10 8 = strapOf d →
      thatchReady d = true →
      (vlyRole d = 1 ∨ (vlyRole d ≠ 0 ∧ incomingBar d = none)) →
      bitsOf w1 7 0 = fld d W.VLY_STATUS_CN →
      bitsOf w1 12 11 ≠ 3 →
      swapParties d a.toNat = true →
      d.vly.swap.all (fun x => x.tX = none && (!x.own || x.peer = a.toNat || vlyRole d = 1) && winsOver (bitsOf w1 31 16 +
        65536 * bitsOf w2 15 0) a.toNat x.reqTime (if x.own then strapOf d else x.peer)) = true →
      Completes (.swapReq a mode w1 w2) q d (commonWith [.mode, .prev, .roofTime, .cycles, .core, .rails, .seq, .cl, .link,
        .vly, .gauge, .rtc, .log, .fw, .freeN]) none
        fun e => e.vly.swap.map (fun x => (x.peer, x.incoming, x.after, x.tX)) = some (a.toNat, decide (vlyRole d ≠ 1),
          bitsOf w1 12 11, none) ∧
          e.link.q16.length = min (d.link.q16.length + 1) (max 64 d.link.q16.length) ∧
          vlyRole e = vlyRole d) ∧
    (∀ (a : BitVec 3) (mode : BitVec 4) (w1 w2 : Word) (x : Swap),
      hears d = true →
      a.toNat ≠ strapOf d →
      partOf d ≠ 4 →
      (mode ≠ 7#4 ∧ mode ≠ 8#4 ∧ (mode ≠ 2#4 ∨ d.mode ≠ .latched)) →
      d.link.q17.length < 64 →
      vlyRole d ≠ 0 →
      bitsOf w1 7 0 = fld d W.VLY_STATUS_CN →
      bitsOf w1 10 8 = strapOf d →
      d.vly.swap = some x →
      (x.own = true ∧ x.peer = a.toNat ∧ x.tX = none) →
      (x.incoming = false ∨ incomingBar d = none) →
      Completes (.swapAck a mode w1 w2) q d (commonWith [.mode, .prev, .roofTime, .cycles, .core, .rails, .seq, .cl, .link,
        .vly, .gauge, .rtc, .log, .fw, .freeN]) none
        fun e => (inMode e operModes = false ∨ fld e W.VLY_STATUS_SWAP = 2) ∧
          (inMode e operModes = false ∨ e.vly.swap = some
            { x with tX := some (d.link.fn + (bitsOf w1 31 16 + 65536 * bitsOf w2 15 0 + 2 ^ 32 - d.link.fn % 2 ^ 32) % 2 ^ 32) }) ∧
          (inMode e operModes = false ∨ vlySw e = vlySw d)) ∧
    (∀ (a : BitVec 3) (mode : BitVec 4) (w1 w2 : Word) (x : Swap) (r : Nat),
      hears d = true →
      a.toNat ≠ strapOf d →
      partOf d ≠ 4 →
      (mode ≠ 7#4 ∧ mode ≠ 8#4 ∧ (mode ≠ 2#4 ∨ d.mode ≠ .latched)) →
      d.link.q17.length < 64 →
      vlyRole d ≠ 0 →
      bitsOf w1 7 0 = fld d W.VLY_STATUS_CN →
      bitsOf w1 10 8 = strapOf d →
      d.vly.swap = some x →
      (x.own = true ∧ x.peer = a.toNat ∧ x.tX = none) →
      x.incoming = true →
      incomingBar d = some r →
      Completes (.swapAck a mode w1 w2) q d (commonWith [.mode, .prev, .roofTime, .cycles, .core, .rails, .seq, .cl, .link,
        .vly, .gauge, .rtc, .log, .fw, .freeN]) none
        fun e => e.vly.swap = none ∧
          fld e W.VLY_STATUS_SWAP = 0 ∧
          fld e W.VLY_LAST_REASON = r ∧
          flag e W.VLY_LAST_SENT = true ∧
          vlyRole e = vlyRole d ∧
          raised 519 d e = true) ∧
    (∀ (a : BitVec 3) (mode : BitVec 4) (w1 w2 : Word),
      hears d = true →
      a.toNat ≠ strapOf d →
      partOf d ≠ 4 →
      (mode ≠ 7#4 ∧ mode ≠ 8#4 ∧ (mode ≠ 2#4 ∨ d.mode ≠ .latched)) →
      d.link.q17.length < 64 →
      vlyRole d = 3 →
      bitsOf w1 7 0 = fld d W.VLY_STATUS_CN →
      bitsOf w1 10 8 ≠ strapOf d →
      fld d W.VLY_CONTRACT_SOURCE ≠ strapOf d →
      Completes (.swapAck a mode w1 w2) q d (commonWith [.mode, .prev, .roofTime, .cycles, .core, .rails, .seq, .cl, .link,
        .vly, .gauge, .rtc, .log, .fw, .freeN]) none
        fun e => e.vly.suspended = some (d.link.fn + (bitsOf w1 31 16 + 65536 * bitsOf w2 15 0 + 2 ^ 32 - d.link.fn % 2 ^ 32)
          % 2 ^ 32) ∧
          e.vly.swap = d.vly.swap) ∧
    (∀ (a : BitVec 3) (mode : BitVec 4) (w1 w2 : Word),
      hears d = true →
      a.toNat ≠ strapOf d →
      partOf d ≠ 4 →
      (mode ≠ 7#4 ∧ mode ≠ 8#4 ∧ (mode ≠ 2#4 ∨ d.mode ≠ .latched)) →
      d.link.q17.length < 64 →
      (vlyRole d = 0 ∨ bitsOf w1 7 0 ≠ fld d W.VLY_STATUS_CN ∨ (bitsOf w1 10 8 ≠ strapOf d ∧ vlyRole d ≠ 3) ∨ (bitsOf w1 10 8
        = strapOf d ∧ d.vly.swap.all (fun x => !x.own || x.peer ≠ a.toNat || x.tX.isSome) = true)) →
      Completes (.swapAck a mode w1 w2) q d (commonWith [.mode, .prev, .roofTime, .cycles, .core, .rails, .seq, .cl, .link,
        .vly, .gauge, .rtc, .log, .fw, .freeN]) none
        fun e => e.vly = d.vly ∧
          getW e W.VLY_STATUS = getW d W.VLY_STATUS)

/-- A contract takes effect at the start of its frame with the part that it gives, or ends this member's part; the SOURCE's
switch goes through SOFTSTART on a line that has been safe-low in time, or the contract ends with START_FAIL; an overload and
an overvoltage open the switch, a SOURCE asking for the end; a SINK closes its diode in the window and leaves HOLDUP when the
line it rides on is low; the planned swap's steps fall at T_X and after, or are rejected; a standby that BK can serve is
armed, closes and becomes SOURCE, and the failing SOURCE becomes a SINK; a SOURCE that has delivered its energy asks for the
end. Outside its condition each row changes nothing. -/
def Obligations.ValleySwitchComplete : Prop :=
  ∀ (q : List Instr) (d : Device), canonical d = true →
    (∀ (c : Contract) (fnA : Nat),
      d.vly.pend = some (c, fnA) →
      inMode d operModes = true →
      partIn d c ≠ 0 →
      Completes .contractBegin q d (commonWith [.mode, .prev, .roofTime, .cycles, .core, .rails, .seq, .cl, .link, .vly,
        .gauge, .rtc, .log, .fw, .freeN]) none
        fun e => (inMode e operModes = false ∨ vlyRole e = partIn d c) ∧
          (inMode e operModes = false ∨ (fld e W.VLY_CONTRACT_SOURCE = c.source % 8 ∧ fld e W.VLY_CONTRACT_SINKS = c.sinks %
            256 ∧ fld e W.VLY_CONTRACT_I_C = c.iC % 256)) ∧
          (inMode e operModes = false ∨ (fld e W.VLY_CONTRACT_V_C = c.vC % 256 ∧ fld e W.VLY_ENERGY_E = c.e % 65536 ∧ fld e
            W.VLY_STATUS_CN = c.cn % 256)) ∧
          (inMode e operModes = false ∨ e.vly.cur = some c) ∧
          e.vly.pend = none ∧
          max d.roofTime ((fnA + 2) * 1000) ≤ e.roofTime ∧
          raised (if vlyRole d = 0 then 512 else 514) d e = true) ∧
    (∀ (c : Contract) (fnA : Nat),
      d.vly.pend = some (c, fnA) →
      inMode d operModes = true →
      partIn d c = 0 →
      Completes .contractBegin q d (commonWith [.mode, .prev, .roofTime, .cycles, .core, .rails, .seq, .cl, .link, .vly,
        .gauge, .rtc, .log, .fw, .freeN]) none
        fun e => vlyRole e = 0 ∧
          vlySw e = 0 ∧
          e.vly.pend = none ∧
          (vlyRole d = 0 ∨ raised 513 d e = true)) ∧
    ((d.vly.pend = none ∨ inMode d operModes = false) →
      Completes .contractBegin q d (commonWith [.mode, .prev, .roofTime, .cycles, .core, .rails, .seq, .cl, .link, .vly,
        .gauge, .rtc, .log, .fw, .freeN]) none
        fun e => e = d) ∧
    (∀ (since t : Nat),
      d.vly.safeFrom = some since →
      d.vly.lowFrom = some t →
      vlyRole d = 1 →
      vlySw d = 0 →
      t + 10000 ≤ since + 50000000 →
      Completes .safeLowStart q d [.words, .roofTime, .cycles, .ev, .perf, .vly] (some [W.VLY_STATUS, W.PC_OVF])
        fun e => vlySw e = 2 ∧
          e.vly.safeFrom = none ∧
          e.roofTime = max d.roofTime (t + 10000) ∧
          e.vly.softAt = e.roofTime) ∧
    ((vlyRole d ≠ 1 ∨ vlySw d ≠ 0 ∨ d.vly.safeFrom = none ∨ d.vly.lowFrom = none ∨ d.vly.safeFrom.any (fun x =>
      d.vly.lowFrom.any (fun t => x + 50000000 < t + 10000)) = true) →
      Completes .safeLowStart q d [.words, .roofTime, .cycles, .ev, .perf, .vly] (some [W.VLY_STATUS, W.PC_OVF])
        fun e => e = d) ∧
    (vlySw d = 2 →
      Completes .softstartDone q d common (eventsWith [W.VLY_STATUS])
        fun e => vlySw e = 3 ∧
          vlyRole e = vlyRole d ∧
          raised 516 d e = true) ∧
    (vlySw d ≠ 2 →
      Completes .softstartDone q d common (eventsWith [W.VLY_STATUS])
        fun e => e = d) ∧
    (vlyRole d = 1 →
      (vlySw d = 2 ∨ d.vly.safeFrom.isSome = true) →
      Completes .startFail q d (commonWith [.roofTime, .cycles, .link, .vly]) (eventsWith [W.BK_STATUS, W.CHG_IEFF,
        W.GAUGE_STATUS, W.GAUGE_REM, W.GAUGE_RSV, W.GAUGE_VLY, W.GAUGE_AVAIL, W.GAUGE_ERR, W.VLY_STATUS, W.VLY_LAST])
        fun e => vlySw e = 0 ∧
          e.vly.safeFrom = none ∧
          fld e W.VLY_LAST_REASON = 6 ∧
          flag e W.VLY_LAST_SENT = true ∧
          e.link.q16.length = min (d.link.q16.length + 1) (max 64 d.link.q16.length) ∧
          e.roofTime = max d.roofTime (d.vly.safeFrom.elim (d.vly.softAt + softLimit d) (fun t => t + 50000000)) ∧
          raised 515 d e = true) ∧
    ((vlyRole d ≠ 1 ∨ (vlySw d ≠ 2 ∧ d.vly.safeFrom = none)) →
      Completes .startFail q d (commonWith [.roofTime, .cycles, .link, .vly]) (eventsWith [W.BK_STATUS, W.CHG_IEFF,
        W.GAUGE_STATUS, W.GAUGE_REM, W.GAUGE_RSV, W.GAUGE_VLY, W.GAUGE_AVAIL, W.GAUGE_ERR, W.VLY_STATUS, W.VLY_LAST])
        fun e => e = d) ∧
    (∀ (t : Nat),
      overloadAt d = some t →
      2 ≤ vlySw d →
      Completes .vlyOverload q d (commonWith [.roofTime, .cycles, .link, .vly]) (eventsWith [W.BK_STATUS, W.CHG_IEFF,
        W.GAUGE_STATUS, W.GAUGE_REM, W.GAUGE_RSV, W.GAUGE_VLY, W.GAUGE_AVAIL, W.GAUGE_ERR, W.VLY_STATUS, W.VLY_LAST])
        fun e => vlySw e = 0 ∧
          e.roofTime = max d.roofTime t ∧
          (vlyRole d ≠ 1 ∨ (fld e W.VLY_LAST_REASON = 8 ∧ flag e W.VLY_LAST_SENT = true)) ∧
          vlyRole e = vlyRole d ∧
          raised 521 d e = true) ∧
    ((overloadAt d = none ∨ vlySw d < 2) →
      Completes .vlyOverload q d (commonWith [.roofTime, .cycles, .link, .vly]) (eventsWith [W.BK_STATUS, W.CHG_IEFF,
        W.GAUGE_STATUS, W.GAUGE_REM, W.GAUGE_RSV, W.GAUGE_VLY, W.GAUGE_AVAIL, W.GAUGE_ERR, W.VLY_STATUS, W.VLY_LAST])
        fun e => e = d) ∧
    (vlySw d = 1 →
      Completes .vlyOv q d common (eventsWith [W.VLY_STATUS])
        fun e => vlySw e = 0 ∧
          flag e W.VLY_STATUS_IN_WINDOW = false ∧
          vlyRole e = vlyRole d ∧
          raised 522 d e = true) ∧
    (vlySw d ≠ 1 →
      Completes .vlyOv q d common (eventsWith [W.VLY_STATUS])
        fun e => e = d) ∧
    (vlyRole d ≠ 0 →
      Completes .sinkDiodeClose q d [.words] (some [W.VLY_STATUS])
        fun e => vlySw e = (if mayDiode d = true ∧ vlySw d = 0 then 1 else vlySw d) ∧
          flag e W.VLY_STATUS_IN_WINDOW = true) ∧
    (vlyRole d = 0 →
      Completes .sinkDiodeClose q d [.words] (some [W.VLY_STATUS])
        fun e => e = d) ∧
    (∀ (n : Fin 32),
      d.mode = .holdup →
      ridesLine d = true →
      (rail d n).enabled = true →
      (rail d n).fallFail = false →
      Completes .sinkLineLow q d (commonWith [.mode, .prev, .roofTime, .cycles, .core, .rails, .seq, .cl, .link, .vly,
        .gauge, .rtc, .log, .fw]) none
        fun e => e.mode = .descend ∧
          e.seq.desc.map (fun x => x.kind) = some .orderly ∧
          flag e W.VLY_STATUS_IN_WINDOW = false) ∧
    ((d.mode ≠ .holdup ∨ ridesLine d = false) →
      Completes .sinkLineLow q d (commonWith [.mode, .prev, .roofTime, .cycles, .core, .rails, .seq, .cl, .link, .vly,
        .gauge, .rtc, .log, .fw]) none
        fun e => e.mode = d.mode ∧
          flag e W.VLY_STATUS_IN_WINDOW = false ∧
          e.rails = d.rails) ∧
    (standsBy d = true →
      bkState d = 6 →
      Completes .fsArmed q d [.words] (some [W.VLY_STATUS])
        fun e => flag e W.VLY_STATUS_FS_ARMED = true ∧
          flag e W.VLY_STATUS_IN_WINDOW = true) ∧
    ((standsBy d = false ∨ bkState d ≠ 6) →
      Completes .fsArmed q d [.words] (some [W.VLY_STATUS])
        fun e => e = d) ∧
    (∀ (low : Bool),
      mayClose d = true →
      Completes (.fastSwap low) q d (commonWith [.mode, .prev, .roofTime, .cycles, .core, .rails, .seq, .cl, .link, .vly,
        .gauge, .rtc, .log, .fw, .freeN]) none
        fun e => (inMode e operModes = false ∨ vlyRole e = 1) ∧
          (inMode e operModes = false ∨ vlySw e = 3) ∧
          flag e W.VLY_STATUS_FS_ARMED = false ∧
          e.vly.energy = 0 ∧
          e.vly.swap = none ∧
          (d.vly.cur = none ∨ e.vly.proposed.map (fun x => (x.source, x.standby)) = some (strapOf d, none)) ∧
          raised 517 d e = true) ∧
    (∀ (low : Bool),
      mayClose d = false →
      Completes (.fastSwap low) q d (commonWith [.mode, .prev, .roofTime, .cycles, .core, .rails, .seq, .cl, .link, .vly,
        .gauge, .rtc, .log, .fw, .freeN]) none
        fun e => e.vly = d.vly ∧
          getW e W.VLY_STATUS = getW d W.VLY_STATUS ∧
          e.link = d.link) ∧
    (vlyRole d = 1 →
      vlySw d = 3 →
      standbyAuth d = true →
      Completes .sourceToDiode q d (commonWith [.mode, .prev, .roofTime, .cycles, .core, .rails, .seq, .cl, .link, .vly,
        .gauge, .rtc, .log, .fw, .freeN]) none
        fun e => (inMode e operModes = false ∨ vlySw e = 1) ∧
          (inMode e operModes = false ∨ vlyRole e = 2) ∧
          (inMode e operModes = false ∨ e.vly.owe = true)) ∧
    ((vlyRole d ≠ 1 ∨ vlySw d ≠ 3 ∨ standbyAuth d = false) →
      Completes .sourceToDiode q d (commonWith [.mode, .prev, .roofTime, .cycles, .core, .rails, .seq, .cl, .link, .vly,
        .gauge, .rtc, .log, .fw, .freeN]) none
        fun e => e = d) ∧
    (vlyRole d = 1 →
      contractEnergy d ≤ d.vly.energy →
      Completes .energySpent q d (commonWith [.link, .vly]) (eventsWith [W.BK_STATUS, W.CHG_IEFF, W.GAUGE_STATUS,
        W.GAUGE_REM, W.GAUGE_RSV, W.GAUGE_VLY, W.GAUGE_AVAIL, W.GAUGE_ERR, W.VLY_STATUS, W.VLY_LAST])
        fun e => fld e W.VLY_LAST_REASON = 0 ∧
          fld e W.VLY_LAST_CN = fld d W.VLY_STATUS_CN ∧
          flag e W.VLY_LAST_SENT = true ∧
          e.link.q16.length = min (d.link.q16.length + 1) (max 64 d.link.q16.length) ∧
          e.vly.swap = none ∧
          vlyRole e = 1) ∧
    ((vlyRole d ≠ 1 ∨ d.vly.energy < contractEnergy d) →
      Completes .energySpent q d (commonWith [.link, .vly]) (eventsWith [W.BK_STATUS, W.CHG_IEFF, W.GAUGE_STATUS,
        W.GAUGE_REM, W.GAUGE_RSV, W.GAUGE_VLY, W.GAUGE_AVAIL, W.GAUGE_ERR, W.VLY_STATUS, W.VLY_LAST])
        fun e => e = d) ∧
    (∀ (x : Swap) (f : Nat),
      d.vly.swap = some x →
      x.incoming = true →
      x.tX = some f →
      vlySw d = 1 →
      Completes .swapTx q d (commonWith [.roofTime, .cycles, .link, .vly]) (eventsWith [W.BK_STATUS, W.CHG_IEFF,
        W.GAUGE_STATUS, W.GAUGE_REM, W.GAUGE_RSV, W.GAUGE_VLY, W.GAUGE_AVAIL, W.GAUGE_ERR, W.VLY_STATUS, W.VLY_LAST])
        fun e => vlySw e = 3 ∧
          fld e W.VLY_STATUS_SWAP = 3 ∧
          e.roofTime = max d.roofTime (f * 1000)) ∧
    (∀ (x : Swap) (f : Nat),
      d.vly.swap = some x →
      x.incoming = true →
      x.tX = some f →
      vlySw d ≠ 1 →
      Completes .swapTx q d (commonWith [.roofTime, .cycles, .link, .vly]) (eventsWith [W.BK_STATUS, W.CHG_IEFF,
        W.GAUGE_STATUS, W.GAUGE_REM, W.GAUGE_RSV, W.GAUGE_VLY, W.GAUGE_AVAIL, W.GAUGE_ERR, W.VLY_STATUS, W.VLY_LAST])
        fun e => e.vly.swap = none ∧
          fld e W.VLY_STATUS_SWAP = 0 ∧
          fld e W.VLY_LAST_REASON = 7 ∧
          flag e W.VLY_LAST_SENT = true ∧
          e.roofTime = max d.roofTime (f * 1000) ∧
          raised 519 d e = true) ∧
    (d.vly.swap.all (fun x => !x.incoming || x.tX.isNone) = true →
      Completes .swapTx q d (commonWith [.roofTime, .cycles, .link, .vly]) (eventsWith [W.BK_STATUS, W.CHG_IEFF,
        W.GAUGE_STATUS, W.GAUGE_REM, W.GAUGE_RSV, W.GAUGE_VLY, W.GAUGE_AVAIL, W.GAUGE_ERR, W.VLY_STATUS, W.VLY_LAST])
        fun e => e = d) ∧
    (∀ (x : Swap) (f : Nat),
      d.vly.swap = some x →
      x.incoming = false →
      x.tX = some f →
      vlyRole d = 1 →
      vlySw d = 3 →
      Completes .swapOutgoing q d [.words, .roofTime, .cycles, .ev, .perf] (some [W.VLY_STATUS, W.PC_OVF])
        fun e => vlySw e = 1 ∧
          flag e W.VLY_STATUS_STBY_DUTY = true ∧
          fld e W.VLY_STATUS_SWAP = 4 ∧
          e.roofTime = max d.roofTime (f * 1000 + 10000)) ∧
    ((vlyRole d ≠ 1 ∨ vlySw d ≠ 3 ∨ d.vly.swap.all (fun x => x.incoming || x.tX.isNone) = true) →
      Completes .swapOutgoing q d [.words, .roofTime, .cycles, .ev, .perf] (some [W.VLY_STATUS, W.PC_OVF])
        fun e => e = d) ∧
    (∀ (en : BitVec 16) (x : Swap) (f : Nat) (c : Contract),
      d.vly.swap = some x →
      d.vly.cur = some c →
      x.incoming = true →
      x.tX = some f →
      vlySw d = 3 →
      Completes (.swapAmend en) q d [.words, .roofTime, .cycles, .ev, .perf, .link, .vly] (some [W.PC_OVF])
        fun e => e.vly.proposed.map (fun y => (y.source, y.e, y.amend)) = some (strapOf d, en.toNat, (c.amend + 1) % 64) ∧
          e.vly.proposed.map (fun y => y.sinks) = some (setBitNat (setBitNat c.sinks (strapOf d) false) c.source (x.after ==
            1)) ∧
          (x.after ≠ 2 ∨ e.vly.proposed.map (fun y => y.standby) = some (some c.source)) ∧
          e.link.q16.length = min (d.link.q16.length + 1) (max 64 d.link.q16.length) ∧
          e.roofTime = max d.roofTime (f * 1000 + 20000)) ∧
    (∀ (en : BitVec 16),
      (d.vly.cur = none ∨ vlySw d ≠ 3 ∨ d.vly.swap.all (fun x => !x.incoming || x.tX.isNone) = true) →
      Completes (.swapAmend en) q d [.words, .roofTime, .cycles, .ev, .perf, .link, .vly] (some [W.PC_OVF])
        fun e => e = d)

/-- EVT_ACK of a group below 28 clears PEND of its mask in the named class, leaves the unmasked bits set, and answers with
what still pends; a source of a level group whose condition still holds shows again. EVT_GDIS sets GDIS to its bit 0 and
answers with the value before; where that ends the disable, latched fast sources and the latched sources of a group that has
reached a threshold pend. Both are refused by their checks in order. A read of EVT_FPEND records the lowest group with a fast-
class bit, and changes nothing where there is none; a write of EVT_FACK acknowledges the fast-class sources of the recorded
group; neither does anything while the port does not answer. At its time threshold a group that counts delivers what it has
latched, or keeps it while GDIS is set; a group that counts nothing is left alone. A write of EVT_EN enables, and a level
source that holds then shows; one of EVT_COAL delivers a group that meets the new thresholds; one that a check refuses
completes with its status. -/
def Obligations.EventCommandsComplete : Prop :=
  ∀ (q : List Instr) (d : Device), canonical d = true →
    (∀ (rq : Req) (p0 p1 : Word) (st : Status),
      engineOn d = true →
      firstFail [(bitsOf p0 31 9 = 0 && bitsOf p0 7 5 = 0 && bitsOf p0 4 0 < 28, .badParam), (modeOk .live d, .deniedMode)] =
        some st →
      Completes (.evtAck rq p0 p1) q d common (some eventTables)
        fun e => answered rq 0x70 st 0#32 0#32 d e = true) ∧
    (∀ (rq : Req) (p0 p1 : Word),
      engineOn d = true →
      modeOk .live d = true →
      (bitsOf p0 31 9 = 0 ∧ bitsOf p0 7 5 = 0 ∧ bitsOf p0 4 0 < 28) →
      bitOf p0 8 = false →
      (List.range 32).all (fun b => !p1.getLsbD b || !levelHolds d (32 * bitsOf p0 4 0 + b) || !isLevel (32 * bitsOf p0 4 0))
        = true →
      Completes (.evtAck rq p0 p1) q d common (some eventTables)
        fun e => answered rq 0x70 .ok (p1 &&& (getW d (W.EVT_LAT + bitsOf p0 4 0) ||| getW d (W.EVT_PEND_F + bitsOf p0 4 0)))
          0#32 d e = true ∧
          getW d (W.EVT_PEND_N + bitsOf p0 4 0) &&& ~~~p1 &&& ~~~(getW e (W.EVT_PEND_N + bitsOf p0 4 0)) = 0#32 ∧
          (bitsOf p0 4 0 = 22 ∨ bitsOf p0 4 0 = 27 ∨ d.ev.due ≠ [] ∨ getW e (W.EVT_PEND_N + bitsOf p0 4 0) = getW d
            (W.EVT_PEND_N + bitsOf p0 4 0) &&& ~~~p1)) ∧
    (∀ (rq : Req) (p0 p1 : Word),
      engineOn d = true →
      modeOk .live d = true →
      (bitsOf p0 31 9 = 0 ∧ bitsOf p0 7 5 = 0 ∧ bitsOf p0 4 0 < 28) →
      bitOf p0 8 = true →
      (List.range 32).all (fun b => !p1.getLsbD b || !levelHolds d (32 * bitsOf p0 4 0 + b) || !isLevel (32 * bitsOf p0 4 0))
        = true →
      Completes (.evtAck rq p0 p1) q d common (some eventTables)
        fun e => answered rq 0x70 .ok (p1 &&& (getW d (W.EVT_LAT + bitsOf p0 4 0) ||| getW d (W.EVT_PEND_N + bitsOf p0 4 0)))
          0#32 d e = true ∧
          getW d (W.EVT_PEND_F + bitsOf p0 4 0) &&& ~~~p1 &&& ~~~(getW e (W.EVT_PEND_F + bitsOf p0 4 0)) = 0#32 ∧
          (bitsOf p0 4 0 = 22 ∨ bitsOf p0 4 0 = 27 ∨ d.ev.due ≠ [] ∨ getW e (W.EVT_PEND_F + bitsOf p0 4 0) = getW d
            (W.EVT_PEND_F + bitsOf p0 4 0) &&& ~~~p1)) ∧
    (∀ (rq : Req) (p0 p1 : Word) (b : Fin 32),
      engineOn d = true →
      modeOk .live d = true →
      (bitsOf p0 31 9 = 0 ∧ bitsOf p0 7 5 = 0 ∧ bitsOf p0 4 0 < 28) →
      isLevel (32 * bitsOf p0 4 0) = true →
      p1.getLsbD b = true →
      levelHolds d (32 * bitsOf p0 4 0 + b) = true →
      (if bitOf p0 8 then evPendF d (32 * bitsOf p0 4 0 + b) else evPendN d (32 * bitsOf p0 4 0 + b)) = true →
      Completes (.evtAck rq p0 p1) q d common (some eventTables)
        fun e => raised (32 * bitsOf p0 4 0 + b) d e = true ∧
          answered rq 0x70 .ok (stillPending (bitsOf p0 4 0) p1 (ackSources (bitOf p0 8) (bitsOf p0 4 0) p1 (begun d))) 0#32
            d e = true) ∧
    (∀ (rq : Req) (p0 : Word) (st : Status),
      engineOn d = true →
      firstFail [(bitsOf p0 31 1 = 0, .badParam), (modeOk .live d, .deniedMode)] = some st →
      Completes (.evtGdis rq p0) q d common (eventsWith [W.EVT_CTRL])
        fun e => answered rq 0x71 st 0#32 0#32 d e = true ∧
          fld e W.EVT_CTRL_GDIS = fld d W.EVT_CTRL_GDIS) ∧
    (∀ (rq : Req) (p0 : Word),
      engineOn d = true →
      modeOk .live d = true →
      bitsOf p0 31 1 = 0 →
      Completes (.evtGdis rq p0) q d common (eventsWith [W.EVT_CTRL])
        fun e => fld e W.EVT_CTRL_GDIS = bitsOf p0 0 0 ∧
          answered rq 0x71 .ok (BitVec.ofNat 32 (fld d W.EVT_CTRL_GDIS)) 0#32 d e = true) ∧
    (∀ (rq : Req) (p0 : Word) (g : Fin 28) (b : Fin 32),
      engineOn d = true →
      modeOk .live d = true →
      p0 = 0#32 →
      gdis d = true →
      evLat d (32 * g + b) = true →
      ((srcRec d (32 * g + b)).fast = true ∨ countReached d g = true ∨ timeReached d g = true) →
      Completes (.evtGdis rq p0) q d common (eventsWith [W.EVT_CTRL])
        fun e => (if (srcRec d (32 * g + b)).fast then evPendF e (32 * g + b) else evPendN e (32 * g + b)) = true ∧
          (g.val = 22 ∨ g.val = 27 ∨ d.ev.due ≠ [] ∨ evLat e (32 * g + b) = false)) ∧
    (∀ (g : Nat),
      portOn d = true →
      fastGroup d = some g →
      Completes .evtFpend q d [.ev] (some [])
        fun e => e.ev.ackGroup = g ∧
          e.words = d.words) ∧
    ((portOn d = false ∨ fastGroup d = none) →
      Completes .evtFpend q d [.ev] (some [])
        fun e => e = d) ∧
    (∀ (v : Word),
      portOn d = true →
      d.ev.ackGroup < 28 →
      (List.range 32).all (fun b => !v.getLsbD b || !levelHolds d (32 * d.ev.ackGroup + b) || !isLevel (32 * d.ev.ackGroup))
        = true →
      Completes (.evtFack v) q d (commonWith [.log]) (some eventTables)
        fun e => getW d (W.EVT_PEND_F + d.ev.ackGroup) &&& ~~~v &&& ~~~(getW e (W.EVT_PEND_F + d.ev.ackGroup)) = 0#32 ∧
          (d.ev.ackGroup = 27 ∨ d.ev.due ≠ [] ∨ getW e (W.EVT_PEND_F + d.ev.ackGroup) = getW d (W.EVT_PEND_F + d.ev.ackGroup)
            &&& ~~~v) ∧
          getW d (W.EVT_PEND_N + d.ev.ackGroup) &&& ~~~(getW e (W.EVT_PEND_N + d.ev.ackGroup)) = 0#32) ∧
    (∀ (v : Word) (b : Fin 32),
      portOn d = true →
      d.ev.ackGroup < 28 →
      isLevel (32 * d.ev.ackGroup) = true →
      v.getLsbD b = true →
      levelHolds d (32 * d.ev.ackGroup + b) = true →
      evPendF d (32 * d.ev.ackGroup + b) = true →
      Completes (.evtFack v) q d (commonWith [.log]) (some eventTables)
        fun e => raised (32 * d.ev.ackGroup + b) d e = true) ∧
    (∀ (v : Word),
      portOn d = false →
      Completes (.evtFack v) q d (commonWith [.log]) (some eventTables)
        fun e => e = d) ∧
    (∀ (g : BitVec 5) (b : Fin 32),
      0 < (grpRec d g.toNat).count →
      inMode d [.dormant, .standby] = false →
      gdis d = false →
      g.toNat < 28 →
      evLat d (32 * g.toNat + b) = true →
      (srcRec d (32 * g.toNat + b)).fast = false →
      Completes (.coalesceTimeout g) q d (commonWith [.roofTime, .cycles]) (some eventTables)
        fun e => evPendN e (32 * g.toNat + b) = true ∧
          (22 ≤ g.toNat ∨ d.ev.due ≠ [] ∨ (evLat e (32 * g.toNat + b) = false ∧ (grpRec e g.toNat).count = 0)) ∧
          e.roofTime = max d.roofTime ((grpRec d g.toNat).start + fld d W.EVT_COAL_TIME_TH g.toNat * 100)) ∧
    (∀ (g : BitVec 5),
      0 < (grpRec d g.toNat).count →
      inMode d [.dormant, .standby] = false →
      gdis d = true →
      Completes (.coalesceTimeout g) q d (commonWith [.roofTime, .cycles]) (some eventTables)
        fun e => e.roofTime = max d.roofTime ((grpRec d g.toNat).start + fld d W.EVT_COAL_TIME_TH g.toNat * 100) ∧
          (d.ev.due ≠ [] ∨ grpRec e g.toNat = grpRec d g.toNat) ∧
          (d.ev.due ≠ [] ∨ getW e (W.EVT_LAT + g.toNat) = getW d (W.EVT_LAT + g.toNat))) ∧
    (∀ (g : BitVec 5),
      ((grpRec d g.toNat).count = 0 ∨ inMode d [.dormant, .standby] = true) →
      Completes (.coalesceTimeout g) q d (commonWith [.roofTime, .cycles]) (some eventTables)
        fun e => e = d) ∧
    (∀ (rq : Req) (g : BitVec 5) (v : Word),
      engineOn d = true →
      mayWrite rq.src (W.EVT_COAL + g.toNat) v d = true →
      g.toNat < 28 →
      Completes (.evtCoal rq g v) q d (commonWith [.mode, .prev, .roofTime, .cycles, .core, .rails, .seq, .cl, .adc, .therm,
        .bg, .link, .vly, .gauge, .power, .rtc, .log, .fw, .freeN]) none
        fun e => getW e (W.EVT_COAL + g.toNat) = merged (W.EVT_COAL + g.toNat) (getW d (W.EVT_COAL + g.toNat)) v ∧
          answered rq 0x11 .ok 0#32 0#32 d e = true) ∧
    (∀ (rq : Req) (g : Fin 28) (v : Word) (b : Fin 32),
      engineOn d = true →
      mayWrite rq.src (W.EVT_COAL + g) v d = true →
      gdis d = false →
      (countReached (setW d (W.EVT_COAL + g) (merged (W.EVT_COAL + g) (getW d (W.EVT_COAL + g)) v)) g = true ∨ timeReached
        (setW d (W.EVT_COAL + g) (merged (W.EVT_COAL + g) (getW d (W.EVT_COAL + g)) v)) g = true) →
      evLat d (32 * g + b) = true →
      (srcRec d (32 * g + b)).fast = false →
      Completes (.evtCoal rq (BitVec.ofNat 5 g.val) v) q d (commonWith [.mode, .prev, .roofTime, .cycles, .core, .rails,
        .seq, .cl, .adc, .therm, .bg, .link, .vly, .gauge, .power, .rtc, .log, .fw, .freeN]) none
        fun e => evPendN e (32 * g + b) = true) ∧
    (∀ (rq : Req) (g : BitVec 5) (v : Word),
      engineOn d = true →
      mayWrite rq.src (W.EVT_COAL + g.toNat) v d = false →
      Completes (.evtCoal rq g v) q d (commonWith [.mode, .prev, .roofTime, .cycles, .core, .rails, .seq, .cl, .adc, .therm,
        .bg, .link, .vly, .gauge, .power, .rtc, .log, .fw, .freeN]) none
        fun e => writeRefused rq 0x11 (W.EVT_COAL + g.toNat) v d e = true) ∧
    (∀ (rq : Req) (g : BitVec 5) (v : Word),
      engineOn d = true →
      mayWrite rq.src (W.EVT_EN + g.toNat) v d = true →
      g.toNat < 28 →
      Completes (.evtEn rq g v) q d (commonWith [.mode, .prev, .roofTime, .cycles, .core, .rails, .seq, .cl, .adc, .therm,
        .bg, .link, .vly, .gauge, .power, .rtc, .log, .fw, .freeN]) none
        fun e => getW e (W.EVT_EN + g.toNat) = v ∧
          (List.range 32).all (fun b => !v.getLsbD b || evEn d (32 * g.toNat + b) || !isLevel (32 * g.toNat) || !levelHolds d
            (32 * g.toNat + b) || inMode d [.dormant, .standby] || shows e (32 * g.toNat + b)) = true ∧
          answered rq 0x11 .ok 0#32 0#32 d e = true) ∧
    (∀ (rq : Req) (g : BitVec 5) (v : Word),
      engineOn d = true →
      mayWrite rq.src (W.EVT_EN + g.toNat) v d = false →
      Completes (.evtEn rq g v) q d (commonWith [.mode, .prev, .roofTime, .cycles, .core, .rails, .seq, .cl, .adc, .therm,
        .bg, .link, .vly, .gauge, .power, .rtc, .log, .fw, .freeN]) none
        fun e => writeRefused rq 0x11 (W.EVT_EN + g.toNat) v d e = true)

/-- Each completes with OK when no check refuses it, and with the first failing check's status when one does. FORGET drops the
anchors and sets FCC to FCC_NOM; END_REQ sends a REJECT from a party, with reason 0 the end of a SOURCE, and none where there
is no part; GUT_SEL empties the buffer and starts its reading; CAP_FREE starts the erase of the slots named; HOST_HOLD asserts
the outputs whose bit is newly set; FAULT_LATCH clears on a rail that is off and inside, and stands on another; RTC_TIME and
RTC_DATE land on the next edge; CHG_SET takes effect, and from the host clears WD_SAFE and restarts the watchdog. -/
def Obligations.WordRowsComplete : Prop :=
  ∀ (q : List Instr) (d : Device), canonical d = true →
    (∀ (rq : Req),
      engineOn d = true →
      mayWrite rq.src W.GAUGE_CTRL 1#32 d = true →
      Completes (.forget rq) q d (commonWith [.mode, .prev, .roofTime, .cycles, .core, .rails, .seq, .cl, .adc, .therm, .bg,
        .link, .vly, .gauge, .power, .rtc, .log, .fw, .freeN]) none
        fun e => fld e W.GAUGE_FCC_FCC = fld d W.GAUGE_NOM_FCC_NOM ∧
          fld e W.GAUGE_STATUS_ANCHOR = 0 ∧
          e.gauge.rem = 0 ∧
          flag e W.COLD_STATUS_GAUGE_UNANCHORED = true ∧
          answered rq 0x11 .ok 0#32 0#32 d e = true ∧
          raised 418 d e = true) ∧
    (∀ (rq : Req),
      engineOn d = true →
      mayWrite rq.src W.GAUGE_CTRL 1#32 d = false →
      Completes (.forget rq) q d (commonWith [.mode, .prev, .roofTime, .cycles, .core, .rails, .seq, .cl, .adc, .therm, .bg,
        .link, .vly, .gauge, .power, .rtc, .log, .fw, .freeN]) none
        fun e => writeRefused rq 0x11 W.GAUGE_CTRL 1#32 d e = true ∧
          e.gauge = d.gauge) ∧
    (∀ (rq : Req),
      engineOn d = true →
      mayWrite rq.src W.VLY_CMD 1#32 d = true →
      vlyRole d ≠ 0 →
      Completes (.endReq rq) q d (commonWith [.mode, .prev, .roofTime, .cycles, .core, .rails, .seq, .cl, .adc, .therm, .bg,
        .link, .vly, .gauge, .power, .rtc, .log, .fw, .freeN]) none
        fun e => vlyRole e = vlyRole d ∧
          fld e W.VLY_LAST_REASON = 0 ∧
          fld e W.VLY_LAST_CN = fld d W.VLY_STATUS_CN ∧
          flag e W.VLY_LAST_SENT = true ∧
          e.vly.swap = none ∧
          e.link.q16.length = min (d.link.q16.length + 1) (max 64 d.link.q16.length) ∧
          answered rq 0x11 .ok 0#32 0#32 d e = true) ∧
    (∀ (rq : Req),
      engineOn d = true →
      mayWrite rq.src W.VLY_CMD 1#32 d = true →
      vlyRole d = 0 →
      Completes (.endReq rq) q d (commonWith [.mode, .prev, .roofTime, .cycles, .core, .rails, .seq, .cl, .adc, .therm, .bg,
        .link, .vly, .gauge, .power, .rtc, .log, .fw, .freeN]) none
        fun e => e.vly = d.vly ∧
          getW e W.VLY_LAST = getW d W.VLY_LAST ∧
          e.link = d.link ∧
          answered rq 0x11 .ok 0#32 0#32 d e = true) ∧
    (∀ (rq : Req),
      engineOn d = true →
      mayWrite rq.src W.VLY_CMD 1#32 d = false →
      Completes (.endReq rq) q d (commonWith [.mode, .prev, .roofTime, .cycles, .core, .rails, .seq, .cl, .adc, .therm, .bg,
        .link, .vly, .gauge, .power, .rtc, .log, .fw, .freeN]) none
        fun e => writeRefused rq 0x11 W.VLY_CMD 1#32 d e = true ∧
          e.vly = d.vly) ∧
    (∀ (rq : Req) (v : Word),
      engineOn d = true →
      mayWrite rq.src W.GUT_SEL v d = true →
      Completes (.gutSel rq v) q d (commonWith [.mode, .prev, .roofTime, .cycles, .core, .rails, .seq, .cl, .adc, .therm,
        .bg, .link, .vly, .gauge, .power, .rtc, .log, .fw, .freeN]) none
        fun e => answered rq 0x11 .ok 0#32 0#32 d e = true ∧
          getW e W.GUT_SEL = merged W.GUT_SEL (getW d W.GUT_SEL) v ∧
          flag e W.GUT_BUF_STATUS_LOADING = true ∧
          flag e W.GUT_BUF_STATUS_FOUND = false ∧
          (∀ k : Fin 64, getW e (W.GUT_BUF + k) = 0#32)) ∧
    (∀ (rq : Req) (v : Word),
      engineOn d = true →
      mayWrite rq.src W.GUT_SEL v d = false →
      Completes (.gutSel rq v) q d (commonWith [.mode, .prev, .roofTime, .cycles, .core, .rails, .seq, .cl, .adc, .therm,
        .bg, .link, .vly, .gauge, .power, .rtc, .log, .fw, .freeN]) none
        fun e => writeRefused rq 0x11 W.GUT_SEL v d e = true ∧
          getW e W.GUT_BUF_STATUS = getW d W.GUT_BUF_STATUS) ∧
    (∀ (rq : Req) (v : Word),
      engineOn d = true →
      mayWrite rq.src W.CAP_FREE v d = true →
      Completes (.capFree rq v) q d (commonWith [.mode, .prev, .roofTime, .cycles, .core, .rails, .seq, .cl, .adc, .therm,
        .bg, .link, .vly, .gauge, .power, .rtc, .log, .fw, .freeN]) none
        fun e => answered rq 0x11 .ok 0#32 0#32 d e = true ∧
          (∀ j : Fin 2, v.getLsbD j = true → flag e W.CAP_SLOT_ERASING j.val = true ∧ SMap.get (fun _ => none) e.log.slots
            j.val = none) ∧
          (∀ j : Fin 2, v.getLsbD j = false → flag e W.CAP_SLOT_ERASING j.val = flag d W.CAP_SLOT_ERASING j.val ∧ SMap.get
            (fun _ => none) e.log.slots j.val = SMap.get (fun _ => none) d.log.slots j.val)) ∧
    (∀ (rq : Req) (v : Word),
      engineOn d = true →
      mayWrite rq.src W.CAP_FREE v d = false →
      Completes (.capFree rq v) q d (commonWith [.mode, .prev, .roofTime, .cycles, .core, .rails, .seq, .cl, .adc, .therm,
        .bg, .link, .vly, .gauge, .power, .rtc, .log, .fw, .freeN]) none
        fun e => writeRefused rq 0x11 W.CAP_FREE v d e = true ∧
          e.log.slots = d.log.slots) ∧
    (∀ (rq : Req) (v : Word),
      engineOn d = true →
      mayWrite rq.src W.SSO_CTRL v d = true →
      Completes (.hostHold rq v) q d (commonWith [.mode, .prev, .roofTime, .cycles, .core, .rails, .seq, .cl, .adc, .therm,
        .bg, .link, .vly, .gauge, .power, .rtc, .log, .fw, .freeN]) none
        fun e => fld e W.SSO_CTRL_HOST_HOLD = bitsOf v 3 0 ∧
          ∀ j : Fin 4, (bitsOf v 3 0).testBit j = true → (fld d W.SSO_CTRL_HOST_HOLD).testBit j = false → (fld e
            W.SSO_STATUS_ASSERTED).testBit j = true ∧
          ∀ j : Fin 4, (fld d W.SSO_STATUS_ASSERTED).testBit j = true → (fld e W.SSO_STATUS_ASSERTED).testBit j = true ∧
          answered rq 0x11 .ok 0#32 0#32 d e = true) ∧
    (∀ (rq : Req) (v : Word),
      engineOn d = true →
      mayWrite rq.src W.SSO_CTRL v d = false →
      Completes (.hostHold rq v) q d (commonWith [.mode, .prev, .roofTime, .cycles, .core, .rails, .seq, .cl, .adc, .therm,
        .bg, .link, .vly, .gauge, .power, .rtc, .log, .fw, .freeN]) none
        fun e => writeRefused rq 0x11 W.SSO_CTRL v d e = true ∧
          getW e W.SSO_STATUS = getW d W.SSO_STATUS) ∧
    (∀ (rq : Req) (n : BitVec 5),
      engineOn d = true →
      mayWrite rq.src (W.SUP_STATUS + 32 * n.toNat) 0x400000#32 d = true →
      Completes (.faultLatch rq n) q d (commonWith [.mode, .prev, .roofTime, .cycles, .core, .rails, .seq, .cl, .adc, .therm,
        .bg, .link, .vly, .gauge, .power, .rtc, .log, .fw, .freeN]) none
        fun e => flag e W.SUP_STATUS_FAULT_LATCH n.toNat = (flag d W.SUP_STATUS_FAULT_LATCH n.toNat && ((rail d
          n.toNat).enabled || (rail d n.toNat).falling || decide ((rail d n.toNat).live ≠ 0))) ∧
          answered rq 0x11 .ok 0#32 0#32 d e = true) ∧
    (∀ (rq : Req) (n : BitVec 5),
      engineOn d = true →
      mayWrite rq.src (W.SUP_STATUS + 32 * n.toNat) 0x400000#32 d = false →
      Completes (.faultLatch rq n) q d (commonWith [.mode, .prev, .roofTime, .cycles, .core, .rails, .seq, .cl, .adc, .therm,
        .bg, .link, .vly, .gauge, .power, .rtc, .log, .fw, .freeN]) none
        fun e => writeRefused rq 0x11 (W.SUP_STATUS + 32 * n.toNat) 0x400000#32 d e = true ∧
          flag e W.SUP_STATUS_FAULT_LATCH n.toNat = flag d W.SUP_STATUS_FAULT_LATCH n.toNat) ∧
    (∀ (rq : Req) (v : Word),
      engineOn d = true →
      mayWrite rq.src W.RTC_TIME v d = true →
      Completes (.rtcTime rq v) q d (commonWith [.mode, .prev, .roofTime, .cycles, .core, .rails, .seq, .cl, .adc, .therm,
        .bg, .link, .vly, .gauge, .power, .rtc, .log, .fw, .freeN]) none
        fun e => getW e W.RTC_TIME = merged W.RTC_TIME (getW d W.RTC_TIME) v ∧
          fld e W.RTC_SUBSEC_PRESC = 0 ∧
          flag e W.RTC_STATUS_TIME_VALID = true ∧
          answered rq 0x11 .ok 0#32 0#32 d e = true) ∧
    (∀ (rq : Req) (v : Word),
      engineOn d = true →
      mayWrite rq.src W.RTC_TIME v d = false →
      Completes (.rtcTime rq v) q d (commonWith [.mode, .prev, .roofTime, .cycles, .core, .rails, .seq, .cl, .adc, .therm,
        .bg, .link, .vly, .gauge, .power, .rtc, .log, .fw, .freeN]) none
        fun e => writeRefused rq 0x11 W.RTC_TIME v d e = true ∧
          getW e W.RTC_TIME = getW d W.RTC_TIME) ∧
    (∀ (rq : Req) (v : Word),
      engineOn d = true →
      mayWrite rq.src W.RTC_DATE v d = true →
      Completes (.rtcDate rq v) q d (commonWith [.mode, .prev, .roofTime, .cycles, .core, .rails, .seq, .cl, .adc, .therm,
        .bg, .link, .vly, .gauge, .power, .rtc, .log, .fw, .freeN]) none
        fun e => answered rq 0x11 .ok 0#32 0#32 d e = true ∧
          (bitsOf (getW e W.RTC_DATE) 23 16 = bitsOf (merged W.RTC_DATE (getW d W.RTC_DATE) v) 23 16 ∧ bitsOf (getW e
            W.RTC_DATE) 15 8 = bitsOf (merged W.RTC_DATE (getW d W.RTC_DATE) v) 15 8 ∧ bitsOf (getW e W.RTC_DATE) 7 0 =
            bitsOf (merged W.RTC_DATE (getW d W.RTC_DATE) v) 7 0) ∧
          bitsOf (getW e W.RTC_DATE) 31 24 = weekday (bitsOf (merged W.RTC_DATE (getW d W.RTC_DATE) v) 23 16) (bitsOf (merged
            W.RTC_DATE (getW d W.RTC_DATE) v) 15 8) (bitsOf (merged W.RTC_DATE (getW d W.RTC_DATE) v) 7 0)) ∧
    (∀ (rq : Req) (v : Word),
      engineOn d = true →
      mayWrite rq.src W.RTC_DATE v d = false →
      Completes (.rtcDate rq v) q d (commonWith [.mode, .prev, .roofTime, .cycles, .core, .rails, .seq, .cl, .adc, .therm,
        .bg, .link, .vly, .gauge, .power, .rtc, .log, .fw, .freeN]) none
        fun e => writeRefused rq 0x11 W.RTC_DATE v d e = true ∧
          getW e W.RTC_DATE = getW d W.RTC_DATE) ∧
    (∀ (rq : Req) (v : Word),
      engineOn d = true →
      mayWrite rq.src W.CHG_SET v d = true →
      Completes (.chgSet rq v) q d (commonWith [.mode, .prev, .roofTime, .cycles, .core, .rails, .seq, .cl, .adc, .therm,
        .bg, .link, .vly, .gauge, .power, .rtc, .log, .fw, .freeN]) none
        fun e => getW e W.CHG_SET = merged W.CHG_SET (getW d W.CHG_SET) v ∧
          (srcIsHost rq.src = true → flag e W.CHG_STATUS_WD_SAFE = false) ∧
          (srcIsHost rq.src = true → e.power.wdFrom = d.roofTime) ∧
          (srcIsHost rq.src = false → flag e W.CHG_STATUS_WD_SAFE = flag d W.CHG_STATUS_WD_SAFE) ∧
          (srcIsHost rq.src = false → e.power.wdFrom = d.power.wdFrom) ∧
          answered rq 0x11 .ok 0#32 0#32 d e = true) ∧
    (∀ (rq : Req) (v : Word),
      engineOn d = true →
      mayWrite rq.src W.CHG_SET v d = false →
      Completes (.chgSet rq v) q d (commonWith [.mode, .prev, .roofTime, .cycles, .core, .rails, .seq, .cl, .adc, .therm,
        .bg, .link, .vly, .gauge, .power, .rtc, .log, .fw, .freeN]) none
        fun e => writeRefused rq 0x11 W.CHG_SET v d e = true ∧
          getW e W.CHG_SET = getW d W.CHG_SET)

/-- A sample takes the reading of every enabled sensor it names and leaves the others. The value in use is the reading, or for
a suspect sensor the greatest of its trusted neighbours, and not below THROTTLE where two neighbours are suspect; the levels
WARNING and THROTTLE follow it with their hysteresis, and TH_STATUS shows whether any holds. A sensor far from its neighbours
for the eighth time, or an input out of range, becomes suspect; after 64 good samples it is released. A sensor that reaches
SHUTDOWN is recorded: with time enough to descend the descent is orderly, else every rail goes off at once and the device
latches with cause 7; with no rail up it is recorded only. During an orderly thermal shutdown a sensor at its absolute limit
makes it immediate. Once every sensor is cool a retry is granted. With the analogue domain off there is no sample. TEMP_READ
returns the value in use, its marks and the raw reading, and is refused by its checks in order. -/
def Obligations.ThermalComplete : Prop :=
  ∀ (q : List Instr) (d : Device), canonical d = true →
    (∀ (mask : Word) (i : Fin 32),
      adcOn d = true →
      Completes (.thermalSample mask) q d (commonWith [.mode, .prev, .roofTime, .cycles, .core, .rails, .seq, .cl, .adc,
        .therm, .bg, .link, .vly, .gauge, .rtc, .log, .fw, .freeN]) none
        fun e => rawOf e i = (if mask.getLsbD i && sensorOn d i then adcVal d (sensorChannel i) else rawOf d i) ∧
          samplesOf e i = (if mask.getLsbD i && sensorOn d i then min (samplesOf d i + 1) 17 else samplesOf d i) ∧
          (mask.getLsbD i = true ∨ valueOf e i = valueOf d i) ∧
          flag e W.TH_STATUS_THROTTLING = (List.range 32).any (fun k => levelHolds e (288 + k)) ∧
          flag e W.TH_STATUS_WARNING = (List.range 32).any (fun k => levelHolds e (256 + k))) ∧
    (∀ (mask : Word) (i : Fin 32),
      adcOn d = true →
      mask.toNat = 2 ^ i.val →
      sensorOn d i = true →
      Completes (.thermalSample mask) q d (commonWith [.mode, .prev, .roofTime, .cycles, .core, .rails, .seq, .cl, .adc,
        .therm, .bg, .link, .vly, .gauge, .rtc, .log, .fw, .freeN]) none
        fun e => (isSuspect e i = false → (checkers e i).any (isSuspect e) = false → valueOf e i = adcVal d (sensorChannel
          i)) ∧
          (isSuspect e i = true → ((checkers e i).filter (isSuspect e)).length < 2 → (greatest ((trusted e i).map (valueOf
            e))).all (fun v => valueOf e i = v) = true) ∧
          (2 ≤ ((checkers e i).filter (isSuspect e)).length → (throtAt d i).all (fun t => t ≤ valueOf e i) = true) ∧
          ((throtAt d i).all (fun t => levelHolds e (288 + i) == (decide (t ≤ valueOf e i) || (levelHolds d (288 + i) &&
            decide (t - 100 ≤ valueOf e i)))) = true) ∧
          ((warnAt d i).all (fun t => levelHolds e (256 + i) == (decide (t ≤ valueOf e i) || (levelHolds d (256 + i) &&
            decide (t - 100 ≤ valueOf e i)))) = true) ∧
          ((shdnAt d i).all (fun t => levelHolds e (320 + i) == (decide (t ≤ valueOf e i) || (levelHolds d (320 + i) &&
            decide (t - 250 ≤ valueOf e i)))) = true)) ∧
    (∀ (mask : Word) (i : Fin 32),
      adcOn d = true →
      mask.toNat = 2 ^ i.val →
      sensorOn d i = true →
      isSuspect d i = false →
      ((24 ≤ i.val ∧ (adcVal d (sensorChannel i) < -450 ∨ 2000 < adcVal d (sensorChannel i))) ∨ (d.therm.range.testBit i =
        false ∧ 7 ≤ samplesOf d i ∧ 7 ≤ SMap.get (fun _ => 0) d.therm.susCnt i.val ∧ beyondMedian
        { d with therm := { d.therm with raw := SMap.set (fun _ => 0) i.val (adcVal d (sensorChannel i)) d.therm.raw } } i =
        some true)) →
      Completes (.thermalSample mask) q d (commonWith [.mode, .prev, .roofTime, .cycles, .core, .rails, .seq, .cl, .adc,
        .therm, .bg, .link, .vly, .gauge, .rtc, .log, .fw, .freeN]) none
        fun e => isSuspect e i = true ∧
          levelHolds e (352 + i) = true) ∧
    (∀ (mask : Word) (i : Fin 32),
      adcOn d = true →
      mask.toNat = 2 ^ i.val →
      sensorOn d i = true →
      isSuspect d i = true →
      63 ≤ SMap.get (fun _ => 0) d.therm.okCnt i.val →
      (i.val < 24 ∨ (-450 ≤ adcVal d (sensorChannel i) ∧ adcVal d (sensorChannel i) ≤ 2000)) →
      (d.therm.range.testBit i = true ∨ (7 ≤ samplesOf d i ∧ beyondMedian
        { d with therm := { d.therm with raw := SMap.set (fun _ => 0) i.val (adcVal d (sensorChannel i)) d.therm.raw } } i =
        some false)) →
      Completes (.thermalSample mask) q d (commonWith [.mode, .prev, .roofTime, .cycles, .core, .rails, .seq, .cl, .adc,
        .therm, .bg, .link, .vly, .gauge, .rtc, .log, .fw, .freeN]) none
        fun e => isSuspect e i = false ∧
          levelHolds e (352 + i) = false) ∧
    (∀ (mask : Word) (i : Fin 32),
      adcOn d = true →
      mask.toNat = 2 ^ i.val →
      sensorOn d i = true →
      14 ≤ i.val →
      d.therm.orderly = none →
      levelHolds d (320 + i) = false →
      Completes (.thermalSample mask) q d (commonWith [.mode, .prev, .roofTime, .cycles, .core, .rails, .seq, .cl, .adc,
        .therm, .bg, .link, .vly, .gauge, .rtc, .log, .fw, .freeN]) none
        fun e => ((shdnAt d i).any (fun t => decide (t ≤ valueOf e i)) = true → flag e W.TH_STATUS_TH_LATCH = true ∧ fld e
          W.TH_LAST_SENSOR = i.val) ∧
          ((shdnAt d i).any (fun t => decide (t ≤ valueOf e i)) = true → (inMode d upModes = true ∨ d.mode = .descend) → fld
            e W.TH_LAST_KIND = (if predAbove (tPred e i) (estTicks d) then 1 else 2)) ∧
          ((shdnAt d i).any (fun t => decide (t ≤ valueOf e i)) = true → inMode d upModes = false → d.mode ≠ .descend → fld e
            W.TH_LAST_KIND = (if railsUp d then 2 else 0)) ∧
          ((shdnAt d i).any (fun t => decide (t ≤ valueOf e i)) = true → fld e W.TH_LAST_KIND = 2 → e.mode = .latched ∧ fld e
            W.MODE_STATUS_LATCH_CAUSE = 7 ∧ fld e W.SSO_STATUS_ASSERTED = 15) ∧
          ((shdnAt d i).any (fun t => decide (t ≤ valueOf e i)) = true → fld e W.TH_LAST_KIND = 2 → (List.range 32).all (fun
            n => !(rail e n).enabled) = true)) ∧
    (∀ (mask : Word) (i : Fin 14),
      adcOn d = true →
      mask.toNat = 2 ^ i.val →
      d.therm.orderly = none →
      levelHolds d (320 + i) = false →
      Completes (.thermalSample mask) q d (commonWith [.mode, .prev, .roofTime, .cycles, .core, .rails, .seq, .cl, .adc,
        .therm, .bg, .link, .vly, .gauge, .rtc, .log, .fw, .freeN]) none
        fun e => ((shdnAt d i).any (fun t => decide (t ≤ valueOf e i)) = true → flag e W.TH_STATUS_TH_LATCH = true ∧ fld e
          W.TH_LAST_SENSOR = i.val) ∧
          ((shdnAt d i).any (fun t => decide (t ≤ valueOf e i)) = true → fld e W.TH_LAST_KIND = 2 → e.mode = .latched ∧ fld e
            W.MODE_STATUS_LATCH_CAUSE = 7 ∧ fld e W.SSO_STATUS_ASSERTED = 15) ∧
          ((shdnAt d i).any (fun t => decide (t ≤ valueOf e i)) = true → fld e W.TH_LAST_KIND = 2 → (List.range 32).all (fun
            n => !(rail e n).enabled) = true)) ∧
    (∀ (mask : Word) (i : Fin 32) (tD : Nat),
      adcOn d = true →
      mask.toNat = 2 ^ i.val →
      sensorOn d i = true →
      14 ≤ i.val →
      d.therm.orderly = some tD →
      d.mode = .descend →
      Completes (.thermalSample mask) q d (commonWith [.mode, .prev, .roofTime, .cycles, .core, .rails, .seq, .cl, .adc,
        .therm, .bg, .link, .vly, .gauge, .rtc, .log, .fw, .freeN]) none
        fun e => ((absAt d i).any (fun t => decide (t ≤ valueOf e i)) = true → fld e W.TH_LAST_KIND = 3 ∧ e.mode = .latched ∧
          fld e W.MODE_STATUS_LATCH_CAUSE = 7) ∧
          ((absAt d i).any (fun t => decide (t ≤ valueOf e i)) = true → (List.range 32).all (fun n => !(rail e n).enabled) =
            true)) ∧
    (∀ (mask : Word),
      adcOn d = true →
      (List.range 32).all (fun i => !mask.getLsbD i || !sensorOn d i) = true →
      d.mode = .latched →
      fld d W.MODE_STATUS_LATCH_CAUSE = 7 →
      d.seq.noRetry = false →
      Completes (.thermalSample mask) q d (commonWith [.mode, .prev, .roofTime, .cycles, .core, .rails, .seq, .cl, .adc,
        .therm, .bg, .link, .vly, .gauge, .rtc, .log, .fw, .freeN]) none
        fun e => e.seq.retryWait = (d.seq.retryWait || (flag d W.TH_CFG_TH_RETRY && decide (fld d W.SEQ_STATUS_RETRY_CNT <
          fld d W.SEQ_CTRL_RETRY_MAX) && (List.range 32).all (coolAgain d)))) ∧
    (∀ (mask : Word),
      adcOn d = false →
      Completes (.thermalSample mask) q d (commonWith [.mode, .prev, .roofTime, .cycles, .core, .rails, .seq, .cl, .adc,
        .therm, .bg, .link, .vly, .gauge, .rtc, .log, .fw, .freeN]) none
        fun e => e = d) ∧
    (∀ (rq : Req) (p0 : Word),
      engineOn d = true →
      p0.toNat < 32 →
      modeOk .live d = true →
      Completes (.tempRead rq p0) q d common (some eventTables)
        fun e => (answered rq 0x62 .ok (BitVec.ofNat 32 ((valueOf d p0.toNat % 65536).toNat
      + (if isSuspect d p0.toNat then 65536 else 0) + (if d.therm.subst.testBit p0.toNat then 131072 else 0)
      + (if samplesOf d p0.toNat < 8 then 262144 else 0))) (s16 (rawOf d p0.toNat)) d e = true) ∧
          e.therm = d.therm) ∧
    (∀ (rq : Req) (p0 : Word) (st : Status),
      engineOn d = true →
      firstFail [(decide (p0.toNat < 32), .badParam), (modeOk .live d, .deniedMode)] = some st →
      Completes (.tempRead rq p0) q d common (some eventTables)
        fun e => answered rq 0x62 st 0#32 0#32 d e = true ∧
          e.therm = d.therm)

/-- An accepted ADC_CONVERT waits in progress for its conversions, and one that a check refuses completes with its status. A
conversion that a converter takes for it is kept, and the last of its number completes it with the last result word and the
mean of all; one that pre-empts takes any slot, another a slot that is free. One that has waited 1 ms without pre-empting
completes with TIMEOUT, and nothing happens where none waits. ADC_SUBSCRIBE enables each named channel with its decimation or
disables it, leaves the channels it does not name, and answers with the number of channels subscribed, or with the status of
the first check that fails. -/
def Obligations.ConverterCommandsComplete : Prop :=
  ∀ (q : List Instr) (d : Device), canonical d = true →
    (∀ (rq : Req) (p0 : Word),
      engineOn d = true →
      bitsOf p0 31 13 = 0 →
      bitOf p0 11 = false →
      bitsOf p0 7 0 < 136 →
      modeOk .live d = true →
      Completes (.adcConvert rq p0) q d common (some eventTables)
        fun e => e.eng.issued.any (fun c => c.id == d.eng.nextId && c.op == 0x60 && c.params == [p0]) = true ∧
          e.adc = d.adc) ∧
    (∀ (rq : Req) (p0 : Word) (st : Status),
      engineOn d = true →
      firstFail [(bitsOf p0 31 13 = 0 && !bitOf p0 11 && bitsOf p0 7 0 < 136, .badParam), (modeOk .live d, .deniedMode)] =
        some st →
      Completes (.adcConvert rq p0) q d common (some eventTables)
        fun e => answered rq 0x60 st 0#32 0#32 d e = true ∧
          e.adc = d.adc) ∧
    (∀ (c : BitVec 2) (v : Int) (beyond : Bool) (req : Option (BitVec 8)) (raw : BitVec 4) (x : Cmd) (t : List Cmd),
      adcOn d = true →
      adcPos d c.toNat ≠ 256 →
      converterOut d c.toNat = false →
      directedOn d c.toNat true = x :: t →
      bitsOf (x.p 0) 10 8 ≤ x.aux.length →
      Completes (.adcConversionEnd c v beyond req raw) q d (commonWith [.mode, .prev, .roofTime, .cycles, .core, .rails,
        .seq, .cl, .adc, .link, .vly, .gauge, .rtc, .log, .fw, .freeN]) none
        fun e => (x.lost = true ∨ [false, true].any (fun u => reply x .ok (q14Word (bitsOf (x.p 0) 7 0) c.toNat 0 (resultOf d
          (bitsOf (x.p 0) 7 0) v beyond).1 (resultOf d (bitsOf (x.p 0) 7 0) v beyond).2 false) (BitVec.ofNat 32 (meanCode
          (bitsOf (x.p 0) 7 0) ((x.aux ++ [(q14Word (bitsOf (x.p 0) 7 0) c.toNat 0 (resultOf d (bitsOf (x.p 0) 7 0) v
          beyond).1 (resultOf d (bitsOf (x.p 0) 7 0) v beyond).2 false)]).map (fun w => bitsOf w 13 0)) u)) d e) = true) ∧
          e.eng.issued.any (fun y => y.id == x.id) = false ∧
          adcCode e (bitsOf (x.p 0) 7 0) = (resultOf d (bitsOf (x.p 0) 7 0) v beyond).1) ∧
    (∀ (c : BitVec 2) (v : Int) (beyond : Bool) (req : Option (BitVec 8)) (raw : BitVec 4) (x : Cmd) (t : List Cmd),
      adcOn d = true →
      adcPos d c.toNat ≠ 256 →
      converterOut d c.toNat = false →
      directedOn d c.toNat true = x :: t →
      x.aux.length < bitsOf (x.p 0) 10 8 →
      Completes (.adcConversionEnd c v beyond req raw) q d (commonWith [.mode, .prev, .roofTime, .cycles, .core, .rails,
        .seq, .cl, .adc, .link, .vly, .gauge, .rtc, .log, .fw, .freeN]) none
        fun e => e.eng.issued.any (fun y => y.id == x.id && y.aux == x.aux ++ [(q14Word (bitsOf (x.p 0) 7 0) c.toNat 0
          (resultOf d (bitsOf (x.p 0) 7 0) v beyond).1 (resultOf d (bitsOf (x.p 0) 7 0) v beyond).2 false)]) = true ∧
          adcCode e (bitsOf (x.p 0) 7 0) = (resultOf d (bitsOf (x.p 0) 7 0) v beyond).1) ∧
    (∀ (c : BitVec 2) (v : Int) (beyond : Bool) (req : Option (BitVec 8)) (raw : BitVec 4) (x : Cmd) (t : List Cmd),
      adcOn d = true →
      adcPos d c.toNat ≠ 256 →
      converterOut d c.toNat = false →
      directedOn d c.toNat true = [] →
      ((dueNow d c.toNat).or (req.map BitVec.toNat)).all (fun g => decide (136 ≤ g) || !(decide ((homeOf g).1 = c.toNat) ||
        converterOut d (homeOf g).1)) = true →
      entryOf d c.toNat (adcPos d c.toNat) = none →
      heldOn d c.toNat = [] →
      d.adc.cover = [] →
      directedOn d c.toNat false = x :: t →
      bitsOf (x.p 0) 10 8 ≤ x.aux.length →
      Completes (.adcConversionEnd c v beyond req raw) q d (commonWith [.mode, .prev, .roofTime, .cycles, .core, .rails,
        .seq, .cl, .adc, .link, .vly, .gauge, .rtc, .log, .fw, .freeN]) none
        fun e => (x.lost = true ∨ [false, true].any (fun u => reply x .ok (q14Word (bitsOf (x.p 0) 7 0) c.toNat 0 (resultOf d
          (bitsOf (x.p 0) 7 0) v beyond).1 (resultOf d (bitsOf (x.p 0) 7 0) v beyond).2 false) (BitVec.ofNat 32 (meanCode
          (bitsOf (x.p 0) 7 0) ((x.aux ++ [(q14Word (bitsOf (x.p 0) 7 0) c.toNat 0 (resultOf d (bitsOf (x.p 0) 7 0) v
          beyond).1 (resultOf d (bitsOf (x.p 0) 7 0) v beyond).2 false)]).map (fun w => bitsOf w 13 0)) u)) d e) = true) ∧
          e.eng.issued.any (fun y => y.id == x.id) = false ∧
          adcCode e (bitsOf (x.p 0) 7 0) = (resultOf d (bitsOf (x.p 0) 7 0) v beyond).1) ∧
    (∀ (c : BitVec 2) (v : Int) (beyond : Bool) (req : Option (BitVec 8)) (raw : BitVec 4) (x : Cmd) (t : List Cmd),
      adcOn d = true →
      adcPos d c.toNat ≠ 256 →
      converterOut d c.toNat = false →
      directedOn d c.toNat true = [] →
      ((dueNow d c.toNat).or (req.map BitVec.toNat)).all (fun g => decide (136 ≤ g) || !(decide ((homeOf g).1 = c.toNat) ||
        converterOut d (homeOf g).1)) = true →
      entryOf d c.toNat (adcPos d c.toNat) = none →
      heldOn d c.toNat = [] →
      d.adc.cover = [] →
      directedOn d c.toNat false = x :: t →
      x.aux.length < bitsOf (x.p 0) 10 8 →
      Completes (.adcConversionEnd c v beyond req raw) q d (commonWith [.mode, .prev, .roofTime, .cycles, .core, .rails,
        .seq, .cl, .adc, .link, .vly, .gauge, .rtc, .log, .fw, .freeN]) none
        fun e => e.eng.issued.any (fun y => y.id == x.id && y.aux == x.aux ++ [(q14Word (bitsOf (x.p 0) 7 0) c.toNat 0
          (resultOf d (bitsOf (x.p 0) 7 0) v beyond).1 (resultOf d (bitsOf (x.p 0) 7 0) v beyond).2 false)]) = true ∧
          adcCode e (bitsOf (x.p 0) 7 0) = (resultOf d (bitsOf (x.p 0) 7 0) v beyond).1) ∧
    (∀ (ch : BitVec 8) (x : Cmd),
      (running d 0x60).find? (fun c => bitsOf (c.p 0) 7 0 == ch.toNat && !bitOf (c.p 0) 12) = some x →
      Completes (.adcConvertTimeout ch) q d (commonWith [.roofTime, .cycles]) (some eventTables)
        fun e => (x.lost = true ∨ reply x .timeout 0#32 0#32 d e = true) ∧
          e.eng.issued.any (fun y => y.id == x.id) = false ∧
          e.roofTime = max d.roofTime (x.startT + 100000)) ∧
    (∀ (ch : BitVec 8),
      (running d 0x60).find? (fun c => bitsOf (c.p 0) 7 0 == ch.toNat && !bitOf (c.p 0) 12) = none →
      Completes (.adcConvertTimeout ch) q d (commonWith [.roofTime, .cycles]) (some eventTables)
        fun e => e = d) ∧
    (∀ (rq : Req) (ws : List Word) (w : Word),
      engineOn d = true →
      ws.length < 32 →
      (ws ++ [w]).all (fun x => bitsOf x 31 28 = 0 && bitsOf x 14 8 = 0 && bitsOf x 7 0 < 136) = true →
      modeOk .live d = true →
      Completes (.adcSubscribe rq (ws ++ [w])) q d (commonWith [.adc]) (eventsWith [W.ADC_STATUS])
        fun e => subOf e (bitsOf w 7 0) = (if bitOf w 15 then some { dec := bitsOf w 27 16 } else none) ∧
          answered rq 0x61 .ok (BitVec.ofNat 32 (e.adc.subs.filter (fun p => p.2.isSome)).length) 0#32 d e = true ∧
          e.adc.lists = d.adc.lists) ∧
    (∀ (rq : Req) (ps : List Word) (ch : Nat),
      engineOn d = true →
      ps.all (fun x => bitsOf x 7 0 ≠ ch) = true →
      Completes (.adcSubscribe rq ps) q d (commonWith [.adc]) (eventsWith [W.ADC_STATUS])
        fun e => subOf e ch = subOf d ch) ∧
    (∀ (rq : Req) (ps : List Word) (st : Status),
      engineOn d = true →
      firstFail [(decide (1 ≤ ps.length) && decide (ps.length ≤ 32), .badLength), (ps.all (fun w => bitsOf w 31 28 = 0 &&
        bitsOf w 14 8 = 0 && bitsOf w 7 0 < 136), .badParam), (modeOk .live d, .deniedMode)] = some st →
      Completes (.adcSubscribe rq ps) q d (commonWith [.adc]) (eventsWith [W.ADC_STATUS])
        fun e => answered rq 0x61 st 0#32 0#32 d e = true ∧
          e.adc = d.adc)

/-- A conversion of a listed channel stores the clamped code as the channel's latest and moves the converter on to its next
entry; a required conversion whose turn it is, or one displaced earlier or left to cover, takes a slot that it may take. A
subscription with results still to skip counts it, and another takes its number. A converter that calibrates or is retired
converts nothing. At entry 0 the written list words come into force, and what nothing covered is forgotten. A calibration turn
sets CALIBRATING, and does not begin where it may not; a fit within its limits applies and clears CAL_FAIL, and one beyond
them keeps the coefficients, sets CAL_FAIL and raises the source of channel 129, and the third in a row retires the converter;
a self-test of the converter completes with the verdict. Nothing happens while the converters are off. -/
def Obligations.ConverterEventsComplete : Prop :=
  ∀ (q : List Instr) (d : Device), canonical d = true →
    (∀ (c : BitVec 2) (v : Int) (beyond : Bool) (req : Option (BitVec 8)) (raw : BitVec 4),
      adcOn d = true →
      adcPos d c.toNat = 256 →
      Completes (.adcConversionEnd c v beyond req raw) q d (commonWith [.mode, .prev, .roofTime, .cycles, .core, .rails,
        .seq, .cl, .adc, .link, .vly, .gauge, .rtc, .log, .fw, .freeN]) none
        fun e => e = opConversionEnd c.toNat v beyond (req.map BitVec.toNat) raw.toNat (opAdcListPass c.toNat d)) ∧
    (∀ (c : BitVec 2) (v : Int) (beyond : Bool) (req : Option (BitVec 8)) (raw : BitVec 4) (ch : Nat),
      adcOn d = true →
      adcPos d c.toNat ≠ 256 →
      converterOut d c.toNat = false →
      directedOn d c.toNat true = [] →
      (dueNow d c.toNat).or (req.map BitVec.toNat) = some ch →
      (ch < 136 ∧ ((homeOf ch).1 = c.toNat ∨ converterOut d (homeOf ch).1 = true)) →
      entryOf d c.toNat (adcPos d c.toNat) = some ch →
      Completes (.adcConversionEnd c v beyond req raw) q d (commonWith [.mode, .prev, .roofTime, .cycles, .core, .rails,
        .seq, .cl, .adc, .link, .vly, .gauge, .rtc, .log, .fw, .freeN]) none
        fun e => adcCode e ch = (resultOf d ch v beyond).1 ∧
          adcPos e c.toNat = adcPos d c.toNat + 1 ∧
          (subOf d ch).all (fun x => subOf e ch == some (if x.count < x.dec then { x with count := x.count + 1 } else
            { x with count := 0, seq := (x.seq + 1) % 64 })) = true) ∧
    (∀ (c : BitVec 2) (v : Int) (beyond : Bool) (req : Option (BitVec 8)) (raw : BitVec 4) (ch : Nat) (k : Option Nat),
      adcOn d = true →
      adcPos d c.toNat ≠ 256 →
      converterOut d c.toNat = false →
      directedOn d c.toNat true = [] →
      (dueNow d c.toNat).or (req.map BitVec.toNat) = some ch →
      (ch < 136 ∧ ((homeOf ch).1 = c.toNat ∨ converterOut d (homeOf ch).1 = true)) →
      entryOf d c.toNat (adcPos d c.toNat) = k →
      k ≠ some ch →
      Completes (.adcConversionEnd c v beyond req raw) q d (commonWith [.mode, .prev, .roofTime, .cycles, .core, .rails,
        .seq, .cl, .adc, .link, .vly, .gauge, .rtc, .log, .fw, .freeN]) none
        fun e => adcCode e ch = (resultOf d ch v beyond).1 ∧
          adcPos e c.toNat = adcPos d c.toNat + 1 ∧
          (k.any (fun x => adcPrio d x ≠ 0) = true → heldOn e c.toNat = heldOn d c.toNat ++ k.toList)) ∧
    (∀ (c : BitVec 2) (v : Int) (beyond : Bool) (req : Option (BitVec 8)) (raw : BitVec 4) (ch : Nat) (t : List Nat) (k :
      Option Nat),
      adcOn d = true →
      adcPos d c.toNat ≠ 256 →
      converterOut d c.toNat = false →
      directedOn d c.toNat true = [] →
      ((dueNow d c.toNat).or (req.map BitVec.toNat)).all (fun g => decide (136 ≤ g) || !(decide ((homeOf g).1 = c.toNat) ||
        converterOut d (homeOf g).1)) = true →
      entryOf d c.toNat (adcPos d c.toNat) = k →
      k.all (fun x => adcPrio d x == 0) = true →
      heldOn d c.toNat = ch :: t →
      Completes (.adcConversionEnd c v beyond req raw) q d (commonWith [.mode, .prev, .roofTime, .cycles, .core, .rails,
        .seq, .cl, .adc, .link, .vly, .gauge, .rtc, .log, .fw, .freeN]) none
        fun e => adcCode e ch = (resultOf d ch v beyond).1 ∧
          adcPos e c.toNat = adcPos d c.toNat + 1 ∧
          heldOn e c.toNat = t) ∧
    (∀ (c : BitVec 2) (v : Int) (beyond : Bool) (req : Option (BitVec 8)) (raw : BitVec 4) (ch : Nat) (t : List Nat) (k :
      Option Nat),
      adcOn d = true →
      adcPos d c.toNat ≠ 256 →
      converterOut d c.toNat = false →
      directedOn d c.toNat true = [] →
      ((dueNow d c.toNat).or (req.map BitVec.toNat)).all (fun g => decide (136 ≤ g) || !(decide ((homeOf g).1 = c.toNat) ||
        converterOut d (homeOf g).1)) = true →
      entryOf d c.toNat (adcPos d c.toNat) = k →
      k.all (fun x => adcPrio d x == 0) = true →
      heldOn d c.toNat = [] →
      d.adc.cover = ch :: t →
      Completes (.adcConversionEnd c v beyond req raw) q d (commonWith [.mode, .prev, .roofTime, .cycles, .core, .rails,
        .seq, .cl, .adc, .link, .vly, .gauge, .rtc, .log, .fw, .freeN]) none
        fun e => adcCode e ch = (resultOf d ch v beyond).1 ∧
          adcPos e c.toNat = adcPos d c.toNat + 1 ∧
          e.adc.cover = t) ∧
    (∀ (c : BitVec 2) (v : Int) (beyond : Bool) (req : Option (BitVec 8)) (raw : BitVec 4) (ch : Nat),
      adcOn d = true →
      adcPos d c.toNat ≠ 256 →
      converterOut d c.toNat = false →
      directedOn d c.toNat true = [] →
      ((dueNow d c.toNat).or (req.map BitVec.toNat)).all (fun g => decide (136 ≤ g) || !(decide ((homeOf g).1 = c.toNat) ||
        converterOut d (homeOf g).1)) = true →
      entryOf d c.toNat (adcPos d c.toNat) = some ch →
      ((heldOn d c.toNat = [] ∧ d.adc.cover = []) ∨ adcPrio d ch ≠ 0) →
      Completes (.adcConversionEnd c v beyond req raw) q d (commonWith [.mode, .prev, .roofTime, .cycles, .core, .rails,
        .seq, .cl, .adc, .link, .vly, .gauge, .rtc, .log, .fw, .freeN]) none
        fun e => adcCode e ch = (resultOf d ch v beyond).1 ∧
          adcPos e c.toNat = adcPos d c.toNat + 1 ∧
          (subOf d ch).all (fun x => subOf e ch == some (if x.count < x.dec then { x with count := x.count + 1 } else
            { x with count := 0, seq := (x.seq + 1) % 64 })) = true) ∧
    (∀ (c : BitVec 2) (v : Int) (beyond : Bool) (req : Option (BitVec 8)) (raw : BitVec 4),
      adcOn d = true →
      adcPos d c.toNat ≠ 256 →
      converterOut d c.toNat = false →
      directedOn d c.toNat true = [] →
      ((dueNow d c.toNat).or (req.map BitVec.toNat)).all (fun g => decide (136 ≤ g) || !(decide ((homeOf g).1 = c.toNat) ||
        converterOut d (homeOf g).1)) = true →
      entryOf d c.toNat (adcPos d c.toNat) = none →
      heldOn d c.toNat = [] →
      d.adc.cover = [] →
      directedOn d c.toNat false = [] →
      Completes (.adcConversionEnd c v beyond req raw) q d (commonWith [.mode, .prev, .roofTime, .cycles, .core, .rails,
        .seq, .cl, .adc, .link, .vly, .gauge, .rtc, .log, .fw, .freeN]) none
        fun e => e.adc.last = d.adc.last ∧
          adcPos e c.toNat = adcPos d c.toNat + 1) ∧
    (∀ (c : BitVec 2) (v : Int) (beyond : Bool) (req : Option (BitVec 8)) (raw : BitVec 4),
      adcOn d = true →
      adcPos d c.toNat ≠ 256 →
      converterOut d c.toNat = true →
      Completes (.adcConversionEnd c v beyond req raw) q d (commonWith [.mode, .prev, .roofTime, .cycles, .core, .rails,
        .seq, .cl, .adc, .link, .vly, .gauge, .rtc, .log, .fw, .freeN]) none
        fun e => e.adc.last = d.adc.last ∧
          adcPos e c.toNat = adcPos d c.toNat + 1 ∧
          e.adc.cover = d.adc.cover ++ ((entryOf d c.toNat (adcPos d c.toNat)).toList.filter (fun ch => 2 ≤ adcPrio d ch))) ∧
    (∀ (c : BitVec 2) (v : Int) (beyond : Bool) (req : Option (BitVec 8)) (raw : BitVec 4),
      adcOn d = false →
      Completes (.adcConversionEnd c v beyond req raw) q d (commonWith [.mode, .prev, .roofTime, .cycles, .core, .rails,
        .seq, .cl, .adc, .link, .vly, .gauge, .rtc, .log, .fw, .freeN]) none
        fun e => e = d) ∧
    (∀ (c : BitVec 2) (j : Fin 52),
      adcOn d = true →
      adcPos d c.toNat % 256 = 0 →
      Completes (.adcListPass c) q d (commonWith [.adc]) (eventsWith [W.ADC_STATUS])
        fun e => SMap.get listDflt e.adc.lists (52 * c.toNat + j) = getW d (W.ADC_SLOT + 52 * c.toNat + j) ∧
          adcPos e c.toNat = 0 ∧
          (d.mode = .retain ∨ flag e W.ADC_STATUS_LOW_POWER = false) ∧
          e.adc.cover = (if converterOut d c.toNat then d.adc.cover.filter (fun ch => (homeOf ch).1 ≠ c.toNat) else
            d.adc.cover)) ∧
    (∀ (c : BitVec 2),
      (adcOn d = false ∨ adcPos d c.toNat % 256 ≠ 0) →
      Completes (.adcListPass c) q d (commonWith [.adc]) (eventsWith [W.ADC_STATUS])
        fun e => e = d) ∧
    (∀ (c : BitVec 2),
      calMay d c.toNat = true →
      Completes (.adcCalibration c) q d [.words, .adc] (some [W.BG_STATUS, W.ADC_STATUS])
        fun e => (fld e W.ADC_STATUS_CALIBRATING).testBit c.toNat = true ∧
          e.adc = { d.adc with calLast := c.toNat, calAt := d.roofTime }) ∧
    (∀ (c : BitVec 2),
      calMay d c.toNat = false →
      Completes (.adcCalibration c) q d [.words, .adc] (some [W.BG_STATUS, W.ADC_STATUS])
        fun e => e = d) ∧
    (∀ (c : BitVec 2) (gain offset : Int) (half : BitVec 14),
      (fld d W.ADC_STATUS_CALIBRATING).testBit c.toNat = true →
      fitFails gain offset half.toNat = false →
      Completes (.adcCalibrationEnd c gain offset half) q d (commonWith [.roofTime, .cycles, .adc, .bg]) (eventsWith
        [W.BG_STATUS, W.ADC_STATUS, W.ADC_CAL])
        fun e => ((fld e W.ADC_STATUS_CALIBRATING).testBit c.toNat = false ∨ (calTests d false).length ≠ 0) ∧
          (fld e W.ADC_STATUS_CAL_FAIL).testBit c.toNat = false ∧
          getW e (W.ADC_CAL + c.toNat) = fitWord gain offset ∧
          SMap.get (fun _ => 0) e.adc.fails c.toNat = 0 ∧
          e.roofTime = max d.roofTime (d.adc.calAt + 10240)) ∧
    (∀ (c : BitVec 2) (gain offset : Int) (half : BitVec 14),
      (fld d W.ADC_STATUS_CALIBRATING).testBit c.toNat = true →
      fitFails gain offset half.toNat = true →
      Completes (.adcCalibrationEnd c gain offset half) q d (commonWith [.roofTime, .cycles, .adc, .bg]) (eventsWith
        [W.BG_STATUS, W.ADC_STATUS, W.ADC_CAL])
        fun e => (fld e W.ADC_STATUS_CAL_FAIL).testBit c.toNat = true ∧
          getW e (W.ADC_CAL + c.toNat) = getW d (W.ADC_CAL + c.toNat) ∧
          (fld e W.ADC_STATUS_RETIRED).testBit c.toNat = ((fld d W.ADC_STATUS_RETIRED).testBit c.toNat || decide (2 ≤
            SMap.get (fun _ => 0) d.adc.fails c.toNat)) ∧
          raised 673 d e = true) ∧
    (∀ (c : BitVec 2) (gain offset : Int) (half : BitVec 14) (x : Cmd),
      (fld d W.ADC_STATUS_CALIBRATING).testBit c.toNat = true →
      (calTests d true).find? (fun y => bitsOf (y.p 0) 21 20 == c.toNat) = some x →
      Completes (.adcCalibrationEnd c gain offset half) q d (commonWith [.roofTime, .cycles, .adc, .bg]) (eventsWith
        [W.BG_STATUS, W.ADC_STATUS, W.ADC_CAL])
        fun e => (x.lost = true ∨ reply x .ok (if fitFails gain offset half.toNat then 1#32 else 0#32) (fitWord gain offset)
          d e = true) ∧
          e.eng.issued.any (fun y => y.id == x.id) = false ∧
          (fitFails gain offset half.toNat = true ∨ (fld e W.ADC_STATUS_RETIRED).testBit c.toNat = false)) ∧
    (∀ (c : BitVec 2) (gain offset : Int) (half : BitVec 14),
      (fld d W.ADC_STATUS_CALIBRATING).testBit c.toNat = false →
      Completes (.adcCalibrationEnd c gain offset half) q d (commonWith [.roofTime, .cycles, .adc, .bg]) (eventsWith
        [W.BG_STATUS, W.ADC_STATUS, W.ADC_CAL])
        fun e => e = d)

/-- RTC_SET that no check refuses sets date, weekday and time on the RTC edge, zeroes the prescaler, releases HALT and sets
TIME_VALID; RTC_GET returns date and time of one count; each completes with the status of the first check that fails, and then
changes nothing of the clock. RTC_TRIM from the factory loads the trim, clears CAL and marks RTC_FACTORY_TRIM; from each of
the three references it begins a measurement, with Thatch absent it completes with NO_THATCH and while Thatch restarts it
waits. The measurement sets CAL to the negated error and raises TRIM_DONE, or fails beyond 511 steps and leaves CAL, a tie
rounded either way; it does not end while the task is paused. Twice its nominal length ends it with TIMEOUT. With no
measurement nothing ends. -/
def Obligations.ClockCommandsComplete : Prop :=
  ∀ (q : List Instr) (d : Device), canonical d = true →
    (∀ (rq : Req) (p0 p1 : Word) (edge : Nat),
      engineOn d = true →
      firstFail [(bitsOf p0 31 24 = 0 && dateOk (bitsOf p0 23 16) (bitsOf p0 15 8) (bitsOf p0 7 0) && bitsOf p1 31 24 = 0 &&
        bitsOf p1 23 16 ≤ 23 && bitsOf p1 15 8 ≤ 59 && bitsOf p1 7 0 ≤ 59, .badParam), (modeOk .live d, .deniedMode), rtcBusy
        d] = none →
      Completes (.rtcSet rq p0 p1 edge) q d (commonWith [.roofTime, .cycles]) (eventsWith [W.RTC_DATE, W.RTC_TIME,
        W.RTC_SUBSEC, W.RTC_CTRL, W.RTC_STATUS])
        fun e => getW e W.RTC_TIME = p1 ∧
          getW e W.RTC_DATE &&& 0xFFFFFF#32 = p0 ∧
          fld e W.RTC_DATE_WDAY = weekday (bitsOf p0 23 16) (bitsOf p0 15 8) (bitsOf p0 7 0) ∧
          fld e W.RTC_SUBSEC_PRESC = 0 ∧
          flag e W.RTC_STATUS_TIME_VALID = true ∧
          flag e W.RTC_CTRL_HALT = false ∧
          answered rq 0x80 .ok 0#32 0#32 d e = true) ∧
    (∀ (rq : Req) (p0 p1 : Word) (edge : Nat) (st : Status),
      engineOn d = true →
      firstFail [(bitsOf p0 31 24 = 0 && dateOk (bitsOf p0 23 16) (bitsOf p0 15 8) (bitsOf p0 7 0) && bitsOf p1 31 24 = 0 &&
        bitsOf p1 23 16 ≤ 23 && bitsOf p1 15 8 ≤ 59 && bitsOf p1 7 0 ≤ 59, .badParam), (modeOk .live d, .deniedMode), rtcBusy
        d] = some st →
      Completes (.rtcSet rq p0 p1 edge) q d (commonWith [.roofTime, .cycles]) (eventsWith [W.RTC_DATE, W.RTC_TIME,
        W.RTC_SUBSEC, W.RTC_CTRL, W.RTC_STATUS])
        fun e => answered rq 0x80 st 0#32 0#32 d e = true ∧
          getW e W.RTC_TIME = getW d W.RTC_TIME ∧
          getW e W.RTC_DATE = getW d W.RTC_DATE ∧
          e.rtc = d.rtc) ∧
    (∀ (rq : Req) (late : Bool),
      engineOn d = true →
      firstFail [(modeOk .live d, .deniedMode), rtcBusy d] = none →
      Completes (.rtcGet rq late) q d common (some eventTables)
        fun e => answered rq 0x81 .ok (getW d W.RTC_DATE &&& 0xFFFFFF#32) (getW d W.RTC_TIME) d e = true ∧
          e.rtc = d.rtc) ∧
    (∀ (rq : Req) (late : Bool) (st : Status),
      engineOn d = true →
      firstFail [(modeOk .live d, .deniedMode), rtcBusy d] = some st →
      Completes (.rtcGet rq late) q d common (some eventTables)
        fun e => answered rq 0x81 st 0#32 0#32 d e = true ∧
          e.rtc = d.rtc) ∧
    (∀ (rq : Req) (p0 : Word),
      engineOn d = true →
      p0 = 3#32 →
      firstFail (trimChecks (mkCmd rq 0x82 [p0] [] d) d) = none →
      Completes (.rtcTrim rq p0) q d (commonWith [.roofTime, .cycles, .freeN]) (eventsWith [W.COLD_STATUS, W.BG_STATUS,
        W.RTC_CAL, W.RTC_XTAL, W.RTC_STATUS])
        fun e => fld e W.RTC_CAL_CAL = 0 ∧
          fld e W.RTC_STATUS_TRIM_SRC = 3 ∧
          flag e W.COLD_STATUS_RTC_FACTORY_TRIM = true ∧
          answered rq 0x82 .ok 0#32 0#32 d e = true) ∧
    (∀ (rq : Req) (p0 : Word),
      engineOn d = true →
      bitsOf p0 1 0 < 3 →
      d.core.thatchAbsent = false →
      thatchReady d = true →
      firstFail (trimChecks (mkCmd rq 0x82 [p0] [] d) d) = none →
      Completes (.rtcTrim rq p0) q d (commonWith [.roofTime, .cycles, .freeN]) (eventsWith [W.COLD_STATUS, W.BG_STATUS,
        W.RTC_CAL, W.RTC_XTAL, W.RTC_STATUS])
        fun e => flag e W.RTC_STATUS_TRIM_BUSY = true ∧
          e.eng.issued.any (fun c => c.id == d.eng.nextId && c.op == 0x82 && c.wait == 0) = true ∧
          fld e W.RTC_CAL_CAL = fld d W.RTC_CAL_CAL) ∧
    (∀ (rq : Req) (p0 : Word) (st : Status),
      engineOn d = true →
      (bitsOf p0 1 0 = 3 ∨ (d.core.thatchAbsent = false ∧ thatchReady d = true)) →
      firstFail (trimChecks (mkCmd rq 0x82 [p0] [] d) d) = some st →
      Completes (.rtcTrim rq p0) q d (commonWith [.roofTime, .cycles, .freeN]) (eventsWith [W.COLD_STATUS, W.BG_STATUS,
        W.RTC_CAL, W.RTC_XTAL, W.RTC_STATUS])
        fun e => answered rq 0x82 st 0#32 0#32 d e = true ∧
          getW e W.RTC_CAL = getW d W.RTC_CAL ∧
          getW e W.RTC_STATUS = getW d W.RTC_STATUS) ∧
    (∀ (rq : Req) (p0 : Word),
      engineOn d = true →
      bitsOf p0 1 0 < 3 →
      d.core.thatchAbsent = true →
      Completes (.rtcTrim rq p0) q d (commonWith [.roofTime, .cycles, .freeN]) (eventsWith [W.COLD_STATUS, W.BG_STATUS,
        W.RTC_CAL, W.RTC_XTAL, W.RTC_STATUS])
        fun e => answered rq 0x82 .noThatch 0#32 0#32 d e = true ∧
          getW e W.RTC_CAL = getW d W.RTC_CAL) ∧
    (∀ (rq : Req) (p0 : Word),
      engineOn d = true →
      bitsOf p0 1 0 < 3 →
      d.core.thatchAbsent = false →
      thatchReady d = false →
      Completes (.rtcTrim rq p0) q d (commonWith [.roofTime, .cycles, .freeN]) (eventsWith [W.COLD_STATUS, W.BG_STATUS,
        W.RTC_CAL, W.RTC_XTAL, W.RTC_STATUS])
        fun e => e.eng.issued.any (fun c => c.id == d.eng.nextId && c.op == 0x82 && c.wait == 1) = true ∧
          getW e W.RTC_CAL = getW d W.RTC_CAL) ∧
    (∀ (counts : Nat) (c : Cmd) (t : List Cmd),
      trims d = c :: t →
      bgMay 5 d = true →
      Completes (.trimDone counts) q d (commonWith [.roofTime, .cycles, .bg, .freeN]) (eventsWith [W.COLD_STATUS,
        W.BG_STATUS, W.RTC_CAL, W.RTC_STATUS])
        fun e => [false, true].any (fun u => if 511 < (trimError (trimSrc c) counts u).natAbs then
      decide (getW e W.RTC_CAL = getW d W.RTC_CAL) && (c.lost || reply c .hwFault 0#32 (s16 (trimError (trimSrc c) counts u))
        d e) && raised 747 d e
      else decide (fld e W.RTC_CAL_CAL = ((-(trimError (trimSrc c) counts u)) % 1024).toNat) && decide (fld e
        W.RTC_STATUS_TRIM_SRC = trimSrc c)
      && !flag e W.COLD_STATUS_RTC_FACTORY_TRIM && (c.lost || reply c .ok (s16 (-(trimError (trimSrc c) counts u))) (s16
        (trimError (trimSrc c) counts u)) d e) && raised 746 d e) = true ∧
          flag e W.RTC_STATUS_TRIM_BUSY = decide (t ≠ []) ∧
          (trimSrc c ≠ 2 ∨ e.roofTime = max d.roofTime (c.startT + trimTicks c))) ∧
    (∀ (counts : Nat),
      (trims d = [] ∨ bgMay 5 d = false) →
      Completes (.trimDone counts) q d (commonWith [.roofTime, .cycles, .bg, .freeN]) (eventsWith [W.COLD_STATUS,
        W.BG_STATUS, W.RTC_CAL, W.RTC_STATUS])
        fun e => e = d) ∧
    (∀ (c : Cmd) (t : List Cmd),
      trims d = c :: t →
      Completes .trimTimeout q d (commonWith [.roofTime, .cycles]) (eventsWith [W.RTC_STATUS])
        fun e => (c.lost = true ∨ reply c .timeout 0#32 0#32 d e = true) ∧
          getW e W.RTC_CAL = getW d W.RTC_CAL ∧
          flag e W.RTC_STATUS_TRIM_BUSY = decide (t ≠ []) ∧
          e.roofTime = max d.roofTime (c.startT + 2 * trimTicks c)) ∧
    (trims d = [] →
      Completes .trimTimeout q d (commonWith [.roofTime, .cycles]) (eventsWith [W.RTC_STATUS])
        fun e => e = d)

/-- A second advances the time under the calendar to the year 2199, which 2000 follows, and is held under HALT. An oscillator
failure sets OSC_FAIL, clears TIME_VALID and ends the trim measurements with HW_FAULT; a calibration cycle takes the CAL in
force. The fall of a supply locks access and abandons the measurements, the recovery switches back, and the unlock raises
BK_RETURN where access is locked and the supply is back. An alarm that matches on the edge of this cycle sets ALMF and raises
its source, and one that may wake wakes STANDBY and, above the lockout of HOLD, DORMANT into BOOT and RETAIN out of it;
another alarm does nothing. A selected edge stores a timestamp, or is dropped with OVF when four are held, and a stored edge
of an input that may wake wakes likewise; an edge that is not selected moves the level only. -/
def Obligations.BackupDomainComplete : Prop :=
  ∀ (q : List Instr) (d : Device), canonical d = true →
    (flag d W.RTC_CTRL_HALT = false →
      Completes .rtcSecond q d [.words, .rtc, .log] (some [W.RTC_DATE, W.RTC_TIME, W.RTC_SUBSEC])
        fun e => fld e W.RTC_SUBSEC_PRESC = 0 ∧
          e.rtc.wrapC = some d.cycles ∧
          e.rtc.fired = 0 ∧
          (fld d W.RTC_TIME_SECOND < 59 → fld e W.RTC_TIME_SECOND = fld d W.RTC_TIME_SECOND + 1 ∧ fld e W.RTC_TIME_MINUTE =
            fld d W.RTC_TIME_MINUTE ∧ fld e W.RTC_TIME_HOUR = fld d W.RTC_TIME_HOUR ∧ getW e W.RTC_DATE = getW d W.RTC_DATE) ∧
          (59 ≤ fld d W.RTC_TIME_SECOND → fld d W.RTC_TIME_MINUTE < 59 → fld e W.RTC_TIME_SECOND = 0 ∧ fld e
            W.RTC_TIME_MINUTE = fld d W.RTC_TIME_MINUTE + 1 ∧ fld e W.RTC_TIME_HOUR = fld d W.RTC_TIME_HOUR ∧ getW e
            W.RTC_DATE = getW d W.RTC_DATE) ∧
          (59 ≤ fld d W.RTC_TIME_SECOND → 59 ≤ fld d W.RTC_TIME_MINUTE → fld d W.RTC_TIME_HOUR < 23 → getW e W.RTC_TIME =
            BitVec.ofNat 32 ((fld d W.RTC_TIME_HOUR + 1) * 2 ^ 16) ∧ getW e W.RTC_DATE = getW d W.RTC_DATE) ∧
          (59 ≤ fld d W.RTC_TIME_SECOND → 59 ≤ fld d W.RTC_TIME_MINUTE → 23 ≤ fld d W.RTC_TIME_HOUR → getW e W.RTC_TIME =
            0#32)) ∧
    (flag d W.RTC_CTRL_HALT = false →
      (59 ≤ fld d W.RTC_TIME_SECOND ∧ 59 ≤ fld d W.RTC_TIME_MINUTE ∧ 23 ≤ fld d W.RTC_TIME_HOUR) →
      (1 ≤ fld d W.RTC_DATE_MONTH ∧ fld d W.RTC_DATE_MONTH ≤ 12) →
      Completes .rtcSecond q d [.words, .rtc, .log] (some [W.RTC_DATE, W.RTC_TIME, W.RTC_SUBSEC])
        fun e => (fld d W.RTC_DATE_DAY < monthDays (fld d W.RTC_DATE_YEAR) (fld d W.RTC_DATE_MONTH) → fld e W.RTC_DATE_DAY =
          fld d W.RTC_DATE_DAY + 1 ∧ fld e W.RTC_DATE_MONTH = fld d W.RTC_DATE_MONTH ∧ fld e W.RTC_DATE_YEAR = fld d
          W.RTC_DATE_YEAR) ∧
          (monthDays (fld d W.RTC_DATE_YEAR) (fld d W.RTC_DATE_MONTH) ≤ fld d W.RTC_DATE_DAY → fld d W.RTC_DATE_MONTH < 12 →
            fld e W.RTC_DATE_DAY = 1 ∧ fld e W.RTC_DATE_MONTH = fld d W.RTC_DATE_MONTH + 1 ∧ fld e W.RTC_DATE_YEAR = fld d
            W.RTC_DATE_YEAR) ∧
          (monthDays (fld d W.RTC_DATE_YEAR) (fld d W.RTC_DATE_MONTH) ≤ fld d W.RTC_DATE_DAY → fld d W.RTC_DATE_MONTH = 12 →
            fld e W.RTC_DATE_DAY = 1 ∧ fld e W.RTC_DATE_MONTH = 1 ∧ fld e W.RTC_DATE_YEAR = (if fld d W.RTC_DATE_YEAR < 199
            then fld d W.RTC_DATE_YEAR + 1 else 0)) ∧
          fld e W.RTC_DATE_WDAY = weekday (fld e W.RTC_DATE_YEAR) (fld e W.RTC_DATE_MONTH) (fld e W.RTC_DATE_DAY)) ∧
    (flag d W.RTC_CTRL_HALT = true →
      Completes .rtcSecond q d [.words, .rtc, .log] (some [W.RTC_DATE, W.RTC_TIME, W.RTC_SUBSEC])
        fun e => e = d) ∧
    (Completes .oscFail q d common (eventsWith [W.RTC_STATUS])
        fun e => flag e W.RTC_STATUS_OSC_FAIL = true ∧
          flag e W.RTC_STATUS_TIME_VALID = false ∧
          (flag d W.RTC_STATUS_OSC_FAIL = false → raised 743 d e = true) ∧
          trims e = [] ∧
          (trims d).all (fun c => c.lost || reply c .hwFault 0#32 0#32 d e) = true ∧
          flag e W.RTC_STATUS_TRIM_BUSY = false) ∧
    (Completes .rtcCalCycle q d [.rtc] (some [])
        fun e => e.rtc.calNow = fld d W.RTC_CAL_CAL) ∧
    (Completes .bkSupplySwitch q d (commonWith [.rtc, .log]) (eventsWith [W.RTC_STATUS])
        fun e => e.rtc.locked = true ∧
          e.rtc.onVbk = true ∧
          trims e = [] ∧
          (trims d).all (fun c => c.lost || reply c .aborted 0#32 0#32 d e) = true ∧
          getW e W.RTC_CAL = getW d W.RTC_CAL) ∧
    (Completes .pdBkSupplyReturn q d [.rtc] (some [])
        fun e => e.rtc.onVbk = false ∧
          e.rtc.locked = d.rtc.locked) ∧
    (d.rtc.locked = true →
      d.rtc.onVbk = false →
      Completes .bkReturn q d (commonWith [.rtc, .log]) (some eventTables)
        fun e => e.rtc.locked = false ∧
          raised 744 d e = true) ∧
    ((d.rtc.locked = false ∨ d.rtc.onVbk = true) →
      Completes .bkReturn q d (commonWith [.rtc, .log]) (some eventTables)
        fun e => e = d) ∧
    (∀ (a : BitVec 1) (hold : Bool),
      alarmMatches a.toNat d = true →
      alarmEdge a.toNat d = true →
      Completes (.alarm a hold) q d (commonWith [.mode, .prev, .roofTime, .cycles, .core, .rails, .seq, .cl, .adc, .therm,
        .bg, .link, .vly, .gauge, .power, .rtc, .otp, .log, .fw, .freeN]) none
        fun e => (fld e W.RTC_STATUS_ALMF).testBit a.toNat = true ∧
          (inMode d [.standby, .dormant] = true ∨ raised (736 + a.toNat) d e = true) ∧
          (flag d W.RTC_ALM_WAKE a.toNat = false ∨ inMode d [.standby, .retain, .dormant] = false → e.mode = d.mode) ∧
          (flag d W.RTC_ALM_WAKE a.toNat = true → d.mode = .standby → e.mode = .boot ∧ flag e W.RESET_CAUSE_STANDBY_WAKE =
            true) ∧
          (flag d W.RTC_ALM_WAKE a.toNat = true → d.mode = .dormant → hold = true → e.mode = .boot ∧ flag e
            W.RESET_CAUSE_DORMANT_WAKE = true) ∧
          (d.mode = .dormant → hold = false → e.mode = .dormant) ∧
          (flag d W.RTC_ALM_WAKE a.toNat = true → d.mode = .retain → e.mode ≠ .retain)) ∧
    (∀ (a : BitVec 1) (hold : Bool),
      (alarmMatches a.toNat d = false ∨ alarmEdge a.toNat d = false) →
      Completes (.alarm a hold) q d (commonWith [.mode, .prev, .roofTime, .cycles, .core, .rails, .seq, .cl, .adc, .therm,
        .bg, .link, .vly, .gauge, .power, .rtc, .otp, .log, .fw, .freeN]) none
        fun e => e = d) ∧
    (∀ (x : BitVec 2) (rise : Bool) (presc : BitVec 15) (hold : Bool),
      (fld d W.EV_CFG_EDGE x.toNat).testBit (if rise then 0 else 1) = true →
      (evFifo d x.toNat).length < 4 →
      Completes (.evTimestamp x rise presc hold) q d (commonWith [.mode, .prev, .roofTime, .cycles, .core, .rails, .seq, .cl,
        .adc, .therm, .bg, .link, .vly, .gauge, .power, .rtc, .otp, .log, .fw, .freeN]) none
        fun e => evFifo e x.toNat = evFifo d x.toNat ++ [timestamp rise presc.toNat d] ∧
          (fld e W.EV_STATUS_LEVEL).testBit x.toNat = rise ∧
          (inMode d [.standby, .dormant] = true ∨ raised (738 + x.toNat) d e = true) ∧
          (flag d W.EV_CFG_WAKE x.toNat = false ∨ inMode d [.standby, .retain, .dormant] = false → e.mode = d.mode) ∧
          (flag d W.EV_CFG_WAKE x.toNat = true → d.mode = .standby → e.mode = .boot ∧ flag e W.RESET_CAUSE_STANDBY_WAKE =
            true) ∧
          (flag d W.EV_CFG_WAKE x.toNat = true → d.mode = .dormant → hold = true → e.mode = .boot ∧ flag e
            W.RESET_CAUSE_DORMANT_WAKE = true) ∧
          (d.mode = .dormant → hold = false → e.mode = .dormant) ∧
          (flag d W.EV_CFG_WAKE x.toNat = true → d.mode = .retain → e.mode ≠ .retain)) ∧
    (∀ (x : BitVec 2) (rise : Bool) (presc : BitVec 15) (hold : Bool),
      (fld d W.EV_CFG_EDGE x.toNat).testBit (if rise then 0 else 1) = true →
      4 ≤ (evFifo d x.toNat).length →
      Completes (.evTimestamp x rise presc hold) q d (commonWith [.mode, .prev, .roofTime, .cycles, .core, .rails, .seq, .cl,
        .adc, .therm, .bg, .link, .vly, .gauge, .power, .rtc, .otp, .log, .fw, .freeN]) none
        fun e => evFifo e x.toNat = evFifo d x.toNat ∧
          (fld e W.EV_STATUS_OVF).testBit x.toNat = true ∧
          (fld e W.EV_STATUS_LEVEL).testBit x.toNat = rise ∧
          ((fld d W.EV_STATUS_OVF).testBit x.toNat = true ∨ raised 742 d e = true) ∧
          e.mode = d.mode) ∧
    (∀ (x : BitVec 2) (rise : Bool) (presc : BitVec 15) (hold : Bool),
      (fld d W.EV_CFG_EDGE x.toNat).testBit (if rise then 0 else 1) = false →
      Completes (.evTimestamp x rise presc hold) q d (commonWith [.mode, .prev, .roofTime, .cycles, .core, .rails, .seq, .cl,
        .adc, .therm, .bg, .link, .vly, .gauge, .power, .rtc, .otp, .log, .fw, .freeN]) none
        fun e => (fld e W.EV_STATUS_LEVEL).testBit x.toNat = rise ∧
          e.rtc = d.rtc ∧
          e.mode = d.mode)

/-- FW_STAGE that no check refuses writes its words into the bank that is not active, or into the Purlin area, erases the
sector that a chunk begins, forgets the area's verification and leaves the other areas; it and FW_ACTIVATE complete with the
status of the first check that fails. FW_ACTIVATE of Thatch rejects an image that fails R532 with its cause and changes
nothing; one that passes is recorded active and on trial, or with live swap asks Thatch to quiesce and, 2 ms later, changes
banks and restarts. Of Purlin a pass marks the refresh, and an image that is not the one whose hash is programmed is rejected.
A trial whose time has passed is confirmed and clears TRIAL, and ARB_PENDING is tried again without disturbing the trial; with
no trial, no swap and nothing pending they do nothing. -/
def Obligations.FirmwareComplete : Prop :=
  ∀ (q : List Instr) (d : Device), canonical d = true →
    (∀ (rq : Req) (p0 : Word) (ws : List Word) (k : Nat),
      engineOn d = true →
      firstFail [(rq.src != .thatch, .deniedPermission), (bitsOf p0 30 20 = 0 && bitsOf p0 19 0 % 4 = 0 && ws ≠ [] && decide
        (bitsOf p0 19 0 + 4 * ws.length ≤ bankSize (stageArea d (bitsOf p0 31 31))), .badParam), (modeOk .live d,
        .deniedMode), (decide (bitsOf p0 31 31 = 0) || d.mode == .service, .deniedPermission)] = none →
      k = stageArea d (bitsOf p0 31 31) →
      Completes (.fwStage rq p0 ws) q d (commonWith [.fw]) (some eventTables)
        fun e => (List.range ws.length).all (fun j => SMap.get flashDflt (bankMem e k) (bitsOf p0 19 0 / 4 + j) == ws.getD j
          0#32) = true ∧
          sealOf e k = none ∧
          answered rq 0xA0 .ok (BitVec.ofNat 32 (4 * ws.length)) 0#32 d e = true) ∧
    (∀ (rq : Req) (p0 : Word) (ws : List Word) (k j : Nat),
      engineOn d = true →
      firstFail [(rq.src != .thatch, .deniedPermission), (bitsOf p0 30 20 = 0 && bitsOf p0 19 0 % 4 = 0 && ws ≠ [] && decide
        (bitsOf p0 19 0 + 4 * ws.length ≤ bankSize (stageArea d (bitsOf p0 31 31))), .badParam), (modeOk .live d,
        .deniedMode), (decide (bitsOf p0 31 31 = 0) || d.mode == .service, .deniedPermission)] = none →
      (k ≠ stageArea d (bitsOf p0 31 31) ∨ j < bitsOf p0 19 0 / 4 ∨ bitsOf p0 19 0 / 4 + ws.length ≤ j) →
      Completes (.fwStage rq p0 ws) q d (commonWith [.fw]) (some eventTables)
        fun e => SMap.get flashDflt (bankMem e k) j = (if k = stageArea d (bitsOf p0 31 31) ∧ bitsOf p0 19 0 % 4096 = 0 ∧
          bitsOf p0 19 0 / 4 ≤ j ∧ j < bitsOf p0 19 0 / 4 + 1024 then flashDflt j else SMap.get flashDflt (bankMem d k) j) ∧
          (k = stageArea d (bitsOf p0 31 31) ∨ sealOf e k = sealOf d k)) ∧
    (∀ (rq : Req) (p0 : Word) (ws : List Word) (st : Status),
      engineOn d = true →
      firstFail [(rq.src != .thatch, .deniedPermission), (bitsOf p0 30 20 = 0 && bitsOf p0 19 0 % 4 = 0 && ws ≠ [] && decide
        (bitsOf p0 19 0 + 4 * ws.length ≤ bankSize (stageArea d (bitsOf p0 31 31))), .badParam), (modeOk .live d,
        .deniedMode), (decide (bitsOf p0 31 31 = 0) || d.mode == .service, .deniedPermission)] = some st →
      Completes (.fwStage rq p0 ws) q d (commonWith [.fw]) (some eventTables)
        fun e => answered rq 0xA0 st 0#32 0#32 d e = true ∧
          e.fw = d.fw) ∧
    (∀ (rq : Req) (p0 : Word) (vpre : Nat) (hot : Int) (st : Status),
      engineOn d = true →
      firstFail [(rq.src != .thatch, .deniedPermission), (bitsOf p0 31 2 = 0 && !(bitOf p0 0 && bitOf p0 1), .badParam), (if
        bitOf p0 0 then modeOk .live d else inMode d [.run, .ease, .holdup, .boot, .latched, .service], .deniedMode), (!bitOf
        p0 0 || d.mode == .service, .deniedPermission), (thatchState d ≠ 3 && thatchState d ≠ 4, .busy)] = some st →
      Completes (.fwActivate rq p0 vpre hot) q d (commonWith [.roofTime, .cycles, .core, .otp, .fw, .freeN]) (eventsWith
        [W.OTP_STATUS, W.TRUST_STATUS, W.FW_VER_THATCH, W.FW_ARB, W.FW_LAST])
        fun e => answered rq 0xA1 st 0#32 0#32 d e = true ∧
          e.fw = d.fw ∧
          getW e W.TRUST_STATUS = getW d W.TRUST_STATUS) ∧
    (∀ (rq : Req) (p0 : Word) (vpre : Nat) (hot : Int),
      engineOn d = true →
      firstFail [(rq.src != .thatch, .deniedPermission), (bitsOf p0 31 2 = 0 && !(bitOf p0 0 && bitOf p0 1), .badParam), (if
        bitOf p0 0 then modeOk .live d else inMode d [.run, .ease, .holdup, .boot, .latched, .service], .deniedMode), (!bitOf
        p0 0 || d.mode == .service, .deniedPermission), (thatchState d ≠ 3 && thatchState d ≠ 4, .busy)] = none →
      p0 = 0#32 →
      Completes (.fwActivate rq p0 vpre hot) q d (commonWith [.roofTime, .cycles, .core, .otp, .fw, .freeN]) (eventsWith
        [W.OTP_STATUS, W.TRUST_STATUS, W.FW_VER_THATCH, W.FW_ARB, W.FW_LAST])
        fun e => (fwCause d (1 - activeBank d) 0 = 0 → activeBank e = 1 - activeBank d ∧ flag e W.TRUST_STATUS_TRIAL = true ∧
      fld e W.FW_LAST_RESULT = 1 ∧ raised 774 d e = true ∧
      answered rq 0xA1 .ok (BitVec.ofNat 32 (fwArb d (1 - activeBank d))) 0#32 d e = true) ∧
          (fwCause d (1 - activeBank d) 0 = 0 → flag e W.TRUST_STATUS_THATCH_HELD = false) ∧
          (fwCause d (1 - activeBank d) 0 ≠ 0 → getW e W.TRUST_STATUS = getW d W.TRUST_STATUS ∧ fld e W.FW_LAST_RESULT = 4 ∧
      fld e W.FW_LAST_CAUSE = fwCause d (1 - activeBank d) 0 ∧
      answered rq 0xA1 .badParam 0#32 (BitVec.ofNat 32 (fwCause d (1 - activeBank d) 0)) d e = true)) ∧
    (∀ (rq : Req) (p0 : Word) (vpre : Nat) (hot : Int),
      engineOn d = true →
      firstFail [(rq.src != .thatch, .deniedPermission), (bitsOf p0 31 2 = 0 && !(bitOf p0 0 && bitOf p0 1), .badParam), (if
        bitOf p0 0 then modeOk .live d else inMode d [.run, .ease, .holdup, .boot, .latched, .service], .deniedMode), (!bitOf
        p0 0 || d.mode == .service, .deniedPermission), (thatchState d ≠ 3 && thatchState d ≠ 4, .busy)] = none →
      p0 = 2#32 →
      Completes (.fwActivate rq p0 vpre hot) q d (commonWith [.roofTime, .cycles, .core, .otp, .fw, .freeN]) (eventsWith
        [W.OTP_STATUS, W.TRUST_STATUS, W.FW_VER_THATCH, W.FW_ARB, W.FW_LAST])
        fun e => (fwCause d (1 - activeBank d) 0 = 0 → thatchState e = 4 ∧ e.fw.swapTo = some (1 - activeBank d) ∧
      e.eng.issued.any (fun c => c.id == d.eng.nextId && c.op == 0xA1) = true ∧ activeBank e = activeBank d) ∧
          (fwCause d (1 - activeBank d) 0 ≠ 0 → getW e W.TRUST_STATUS = getW d W.TRUST_STATUS ∧ fld e W.FW_LAST_RESULT = 4 ∧
      fld e W.FW_LAST_CAUSE = fwCause d (1 - activeBank d) 0 ∧
      answered rq 0xA1 .badParam 0#32 (BitVec.ofNat 32 (fwCause d (1 - activeBank d) 0)) d e = true)) ∧
    (∀ (rq : Req) (p0 : Word) (vpre : Nat) (hot : Int),
      engineOn d = true →
      firstFail [(rq.src != .thatch, .deniedPermission), (bitsOf p0 31 2 = 0 && !(bitOf p0 0 && bitOf p0 1), .badParam), (if
        bitOf p0 0 then modeOk .live d else inMode d [.run, .ease, .holdup, .boot, .latched, .service], .deniedMode), (!bitOf
        p0 0 || d.mode == .service, .deniedPermission), (thatchState d ≠ 3 && thatchState d ≠ 4, .busy)] = none →
      p0 = 1#32 →
      Completes (.fwActivate rq p0 vpre hot) q d (commonWith [.roofTime, .cycles, .core, .otp, .fw, .freeN]) (eventsWith
        [W.OTP_STATUS, W.TRUST_STATUS, W.FW_VER_THATCH, W.FW_ARB, W.FW_LAST])
        fun e => (fwCause d 2 1 = 0 → refreshHash d = purlinHash d → flag e W.TRUST_STATUS_PURLIN_REFRESH = true ∧
      fld e W.FW_LAST_RESULT = 1 ∧ raised 774 d e = true ∧ answered rq 0xA1 .ok (BitVec.ofNat 32 (fwArb d 2)) 0#32 d e =
        true) ∧
          (fwCause d 2 1 = 0 → refreshHash d ≠ purlinHash d → flag e W.TRUST_STATUS_PURLIN_REFRESH = flag d
            W.TRUST_STATUS_PURLIN_REFRESH ∧
      answered rq 0xA1 .badParam 0#32 1#32 d e = true) ∧
          (fwCause d 2 1 ≠ 0 → flag e W.TRUST_STATUS_PURLIN_REFRESH = flag d W.TRUST_STATUS_PURLIN_REFRESH ∧
      answered rq 0xA1 .badParam 0#32 (BitVec.ofNat 32 (fwCause d 2 1)) d e = true)) ∧
    (∀ (k : Nat),
      d.fw.swapTo = some k →
      thatchState d = 4 →
      Completes .quiesceTimeout q d (commonWith [.roofTime, .cycles, .core, .gauge, .log, .fw, .freeN]) (some [W.PC_OVF,
        W.TRUST_STATUS, W.FW_VER_THATCH, W.FW_ARB])
        fun e => activeBank e = k ∧
          flag e W.TRUST_STATUS_TRIAL = true ∧
          thatchState e = 3 ∧
          e.fw.prevBank = activeBank d ∧
          e.fw.swapTo = none ∧
          e.rails = d.rails ∧
          queue e 19 = [] ∧
          e.roofTime = max d.roofTime (d.fw.swapAt + 200000)) ∧
    ((d.fw.swapTo = none ∨ thatchState d ≠ 4) →
      Completes .quiesceTimeout q d (commonWith [.roofTime, .cycles, .core, .gauge, .log, .fw, .freeN]) (some [W.PC_OVF,
        W.TRUST_STATUS, W.FW_VER_THATCH, W.FW_ARB])
        fun e => e = d) ∧
    (∀ (vpre : Nat) (hot : Int) (t : Nat),
      flag d W.TRUST_STATUS_TRIAL = true →
      thatchReady d = true →
      d.fw.trialFrom = some t →
      Completes (.fwConfirmed vpre hot) q d (commonWith [.roofTime, .cycles, .otp, .fw]) (eventsWith [W.OTP_STATUS,
        W.TRUST_STATUS, W.FW_ARB, W.FW_LAST])
        fun e => flag e W.TRUST_STATUS_TRIAL = false ∧
          e.fw.trialFrom = none ∧
          fld e W.FW_LAST_RESULT = 2 ∧
          raised 775 d e = true ∧
          activeBank e = activeBank d ∧
          t + 6000000000 ≤ e.roofTime) ∧
    (∀ (vpre : Nat) (hot : Int),
      (flag d W.TRUST_STATUS_TRIAL = false ∨ thatchReady d = false ∨ d.fw.trialFrom = none) →
      Completes (.fwConfirmed vpre hot) q d (commonWith [.roofTime, .cycles, .otp, .fw]) (eventsWith [W.OTP_STATUS,
        W.TRUST_STATUS, W.FW_ARB, W.FW_LAST])
        fun e => e = d) ∧
    (∀ (vpre : Nat) (hot : Int),
      flag d W.TRUST_STATUS_ARB_PENDING = true →
      Completes (.arbPending vpre hot) q d (commonWith [.roofTime, .cycles, .otp, .fw]) (eventsWith [W.OTP_STATUS,
        W.TRUST_STATUS, W.FW_ARB])
        fun e => flag e W.TRUST_STATUS_TRIAL = flag d W.TRUST_STATUS_TRIAL ∧
          d.fw.arbAt + 1000000000 ≤ e.roofTime ∧
          e.rails = d.rails ∧
          (bitCount (otpWord d 138) < d.fw.arbTarget → e.fw.arbAt = max d.roofTime (d.fw.arbAt + 1000000000))) ∧
    (∀ (vpre : Nat) (hot : Int),
      flag d W.TRUST_STATUS_ARB_PENDING = false →
      Completes (.arbPending vpre hot) q d (commonWith [.roofTime, .cycles, .otp, .fw]) (eventsWith [W.OTP_STATUS,
        W.TRUST_STATUS, W.FW_ARB])
        fun e => e = d)

/-- A check-in restarts the Thatch watchdog's count. A failure (the watchdog, an exception, Thatch's own request) restarts
Thatch with Q19 emptied; the fourth within 60 s holds it absent; during a trial it falls back to the previous bank; of a
Thatch that does not run it changes nothing. Thatch's packets enter Q19 when there is room. A kick inside the window, or with
the watchdog disabled, completes OK, restarts the period and ends the profile; one before half of the period completes
DENIED_WINDOW and takes the action of an expiry. An expiry is counted and raised and takes its action: none, the safe profile,
or an orderly descent out of RAMP, RUN, EASE or HOLDUP, announced to the roof by a participant. Where the watchdog does not
count there is no expiry. -/
def Obligations.WatchdogsComplete : Prop :=
  ∀ (q : List Instr) (d : Device), canonical d = true →
    (thatchReady d = true →
      Completes .thatchCheckIn q d [.fw] (some [])
        fun e => e.fw.twdFrom = d.roofTime) ∧
    (thatchReady d = false →
      Completes .thatchCheckIn q d [.fw] (some [])
        fun e => e = d) ∧
    (thatchReady d = true →
      flag d W.TRUST_STATUS_TRIAL = false →
      (recentRestarts (advanceTo (d.fw.twdFrom + fld d W.TWD_CFG_TWD_PERIOD * 100000) d)).length < 3 →
      Completes .thatchWdt q d (commonWith [.roofTime, .cycles, .core, .log, .fw, .freeN]) (eventsWith [W.TRC_STATUS,
        W.TRUST_STATUS, W.FW_VER_THATCH, W.FW_ARB, W.FW_LAST])
        fun e => thatchState e = 3 ∧
          e.fw.restarts.length = (recentRestarts (advanceTo (d.fw.twdFrom + fld d W.TWD_CFG_TWD_PERIOD * 100000) d)).length +
            1 ∧
          e.fw.restarts.head? = some e.roofTime ∧
          queue e 19 = [] ∧
          raised 779 d e = true ∧
          raised 804 d e = true ∧
          e.rails = d.rails) ∧
    (thatchReady d = true →
      flag d W.TRUST_STATUS_TRIAL = false →
      3 ≤ (recentRestarts (advanceTo (d.fw.twdFrom + fld d W.TWD_CFG_TWD_PERIOD * 100000) d)).length →
      Completes .thatchWdt q d (commonWith [.roofTime, .cycles, .core, .log, .fw, .freeN]) (eventsWith [W.TRC_STATUS,
        W.TRUST_STATUS, W.FW_VER_THATCH, W.FW_ARB, W.FW_LAST])
        fun e => thatchState e = 5 ∧
          flag e W.TRUST_STATUS_THATCH_HELD = true ∧
          e.core.thatchAbsent = true ∧
          queue e 19 = [] ∧
          raised 780 d e = true ∧
          raised 804 d e = true ∧
          e.rails = d.rails) ∧
    (thatchReady d = true →
      flag d W.TRUST_STATUS_TRIAL = true →
      Completes .thatchWdt q d (commonWith [.roofTime, .cycles, .core, .log, .fw, .freeN]) (eventsWith [W.TRC_STATUS,
        W.TRUST_STATUS, W.FW_VER_THATCH, W.FW_ARB, W.FW_LAST])
        fun e => activeBank e = d.fw.prevBank ∧
          flag e W.TRUST_STATUS_TRIAL = false ∧
          thatchState e = 3 ∧
          fld e W.FW_LAST_RESULT = 3 ∧
          queue e 19 = [] ∧
          raised 776 d e = true ∧
          raised 779 d e = true ∧
          raised 804 d e = true) ∧
    (thatchReady d = false →
      Completes .thatchWdt q d (commonWith [.roofTime, .cycles, .core, .log, .fw, .freeN]) (eventsWith [W.TRC_STATUS,
        W.TRUST_STATUS, W.FW_VER_THATCH, W.FW_ARB, W.FW_LAST])
        fun e => e = d) ∧
    ((1 ≤ thatchState d ∧ thatchState d ≤ 3) →
      flag d W.TRUST_STATUS_TRIAL = false →
      (recentRestarts d).length < 3 →
      Completes .acuException q d (commonWith [.core, .log, .fw, .freeN]) (eventsWith [W.TRC_STATUS, W.TRUST_STATUS,
        W.FW_VER_THATCH, W.FW_ARB, W.FW_LAST])
        fun e => thatchState e = 3 ∧
          e.fw.restarts.length = (recentRestarts d).length + 1 ∧
          e.fw.restarts.head? = some e.roofTime ∧
          queue e 19 = [] ∧
          raised 779 d e = true ∧
          e.rails = d.rails) ∧
    ((1 ≤ thatchState d ∧ thatchState d ≤ 3) →
      flag d W.TRUST_STATUS_TRIAL = false →
      3 ≤ (recentRestarts d).length →
      Completes .acuException q d (commonWith [.core, .log, .fw, .freeN]) (eventsWith [W.TRC_STATUS, W.TRUST_STATUS,
        W.FW_VER_THATCH, W.FW_ARB, W.FW_LAST])
        fun e => thatchState e = 5 ∧
          flag e W.TRUST_STATUS_THATCH_HELD = true ∧
          e.core.thatchAbsent = true ∧
          queue e 19 = [] ∧
          raised 780 d e = true ∧
          e.rails = d.rails) ∧
    ((1 ≤ thatchState d ∧ thatchState d ≤ 3) →
      flag d W.TRUST_STATUS_TRIAL = true →
      Completes .acuException q d (commonWith [.core, .log, .fw, .freeN]) (eventsWith [W.TRC_STATUS, W.TRUST_STATUS,
        W.FW_VER_THATCH, W.FW_ARB, W.FW_LAST])
        fun e => activeBank e = d.fw.prevBank ∧
          flag e W.TRUST_STATUS_TRIAL = false ∧
          thatchState e = 3 ∧
          fld e W.FW_LAST_RESULT = 3 ∧
          queue e 19 = [] ∧
          raised 776 d e = true ∧
          raised 779 d e = true) ∧
    ((thatchState d = 0 ∨ 4 ≤ thatchState d) →
      Completes .acuException q d (commonWith [.core, .log, .fw, .freeN]) (eventsWith [W.TRC_STATUS, W.TRUST_STATUS,
        W.FW_VER_THATCH, W.FW_ARB, W.FW_LAST])
        fun e => e = d) ∧
    (thatchReady d = true →
      flag d W.TRUST_STATUS_TRIAL = false →
      (recentRestarts d).length < 3 →
      Completes .thatchRestartRequest q d (commonWith [.core, .log, .fw, .freeN]) (eventsWith [W.TRC_STATUS, W.TRUST_STATUS,
        W.FW_VER_THATCH, W.FW_ARB, W.FW_LAST])
        fun e => thatchState e = 3 ∧
          e.fw.restarts.length = (recentRestarts d).length + 1 ∧
          e.fw.restarts.head? = some e.roofTime ∧
          queue e 19 = [] ∧
          raised 779 d e = true ∧
          e.rails = d.rails) ∧
    (thatchReady d = true →
      flag d W.TRUST_STATUS_TRIAL = false →
      3 ≤ (recentRestarts d).length →
      Completes .thatchRestartRequest q d (commonWith [.core, .log, .fw, .freeN]) (eventsWith [W.TRC_STATUS, W.TRUST_STATUS,
        W.FW_VER_THATCH, W.FW_ARB, W.FW_LAST])
        fun e => thatchState e = 5 ∧
          flag e W.TRUST_STATUS_THATCH_HELD = true ∧
          e.core.thatchAbsent = true ∧
          queue e 19 = [] ∧
          raised 780 d e = true ∧
          e.rails = d.rails) ∧
    (thatchReady d = true →
      flag d W.TRUST_STATUS_TRIAL = true →
      Completes .thatchRestartRequest q d (commonWith [.core, .log, .fw, .freeN]) (eventsWith [W.TRC_STATUS, W.TRUST_STATUS,
        W.FW_VER_THATCH, W.FW_ARB, W.FW_LAST])
        fun e => activeBank e = d.fw.prevBank ∧
          flag e W.TRUST_STATUS_TRIAL = false ∧
          thatchState e = 3 ∧
          fld e W.FW_LAST_RESULT = 3 ∧
          queue e 19 = [] ∧
          raised 776 d e = true ∧
          raised 779 d e = true) ∧
    (thatchReady d = false →
      Completes .thatchRestartRequest q d (commonWith [.core, .log, .fw, .freeN]) (eventsWith [W.TRC_STATUS, W.TRUST_STATUS,
        W.FW_VER_THATCH, W.FW_ARB, W.FW_LAST])
        fun e => e = d) ∧
    (∀ (header : Word) (params : List Word),
      thatchReady d = true →
      engineOn d = true →
      hdrCount header = params.length →
      params.length ≤ 62 →
      1 + params.length ≤ freeWords d 19 →
      Completes (.thatchSubmit header params) q d [.eng] (some [])
        fun e => (queue e 19).map (fun p => (p.header, p.params)) = (queue d 19).map (fun p => (p.header, p.params)) ++
          [(header, params)]) ∧
    (∀ (header : Word) (params : List Word),
      (thatchReady d = false ∨ engineOn d = false ∨ hdrCount header ≠ params.length ∨ 62 < params.length ∨ freeWords d 19 < 1
        + params.length) →
      Completes (.thatchSubmit header params) q d [.eng] (some [])
        fun e => e = d) ∧
    (∀ (rq : Req) (st : Status),
      engineOn d = true →
      firstFail [(rq.src != .thatch, .deniedPermission), (modeOk .live d, .deniedMode)] = some st →
      Completes (.wdtKick rq) q d (commonWith [.mode, .prev, .roofTime, .cycles, .core, .rails, .seq, .cl, .adc, .therm, .bg,
        .link, .vly, .gauge, .power, .rtc, .log, .fw, .freeN]) none
        fun e => answered rq 0xA2 st 0#32 0#32 d e = true ∧
          e.fw = d.fw) ∧
    (∀ (rq : Req),
      engineOn d = true →
      rq.src ≠ .thatch →
      modeOk .live d = true →
      (flag d W.HWD_CFG_HWD_EN = false ∨ hwdPeriod d ≤ 2 * hwdElapsed d) →
      Completes (.wdtKick rq) q d (commonWith [.mode, .prev, .roofTime, .cycles, .core, .rails, .seq, .cl, .adc, .therm, .bg,
        .link, .vly, .gauge, .power, .rtc, .log, .fw, .freeN]) none
        fun e => answered rq 0xA2 .ok (BitVec.ofNat 32 (hwdShare d)) 0#32 d e = true ∧
          flag e W.HWD_STATUS_PROFILE_ACTIVE = false ∧
          e.fw.hwdBase = d.cycles ∧
          e.fw.hwdHeld = 0) ∧
    (∀ (rq : Req),
      engineOn d = true →
      rq.src ≠ .thatch →
      modeOk .live d = true →
      flag d W.HWD_CFG_HWD_EN = true →
      2 * hwdElapsed d < hwdPeriod d →
      (fld d W.HWD_CFG_ACTION = 0 ∨ fld d W.HWD_CFG_ACTION = 3) →
      Completes (.wdtKick rq) q d (commonWith [.mode, .prev, .roofTime, .cycles, .core, .rails, .seq, .cl, .adc, .therm, .bg,
        .link, .vly, .gauge, .power, .rtc, .log, .fw, .freeN]) none
        fun e => answered rq 0xA2 .deniedWindow (BitVec.ofNat 32 (hwdShare d)) 0#32 d e = true ∧
          raised 800 d e = true ∧
          e.mode = d.mode ∧
          e.rails = d.rails ∧
          flag e W.HWD_STATUS_PROFILE_ACTIVE = flag d W.HWD_STATUS_PROFILE_ACTIVE ∧
          e.fw.hwdHeld = 0) ∧
    (∀ (rq : Req),
      engineOn d = true →
      rq.src ≠ .thatch →
      modeOk .live d = true →
      flag d W.HWD_CFG_HWD_EN = true →
      2 * hwdElapsed d < hwdPeriod d →
      fld d W.HWD_CFG_ACTION = 1 →
      Completes (.wdtKick rq) q d (commonWith [.mode, .prev, .roofTime, .cycles, .core, .rails, .seq, .cl, .adc, .therm, .bg,
        .link, .vly, .gauge, .power, .rtc, .log, .fw, .freeN]) none
        fun e => answered rq 0xA2 .deniedWindow (BitVec.ofNat 32 (hwdShare d)) 0#32 d e = true ∧
          raised 800 d e = true ∧
          flag e W.HWD_STATUS_PROFILE_ACTIVE = true ∧
          (flag d W.HWD_STATUS_PROFILE_ACTIVE = false → raised 802 d e = true)) ∧
    (∀ (rq : Req),
      engineOn d = true →
      rq.src ≠ .thatch →
      modeOk .live d = true →
      flag d W.HWD_CFG_HWD_EN = true →
      2 * hwdElapsed d < hwdPeriod d →
      fld d W.HWD_CFG_ACTION = 2 →
      inMode d [.ramp, .run, .ease, .holdup] = true →
      Completes (.wdtKick rq) q d (commonWith [.mode, .prev, .roofTime, .cycles, .core, .rails, .seq, .cl, .adc, .therm, .bg,
        .link, .vly, .gauge, .power, .rtc, .log, .fw, .freeN]) none
        fun e => answered rq 0xA2 .deniedWindow (BitVec.ofNat 32 (hwdShare d)) 0#32 d e = true ∧
          raised 800 d e = true ∧
          inMode e [.ramp, .run, .ease, .holdup] = false ∧
          (enabledRails d ≠ [] → e.mode = .descend ∧ e.seq.desc.map (fun x => x.kind) = some (if d.mode = .ramp then .abort
            else .orderly)) ∧
          (participating d = true → d.link.urgOut.length < e.link.urgOut.length)) ∧
    (∀ (rq : Req),
      engineOn d = true →
      rq.src ≠ .thatch →
      modeOk .live d = true →
      flag d W.HWD_CFG_HWD_EN = true →
      2 * hwdElapsed d < hwdPeriod d →
      fld d W.HWD_CFG_ACTION = 2 →
      inMode d [.ramp, .run, .ease, .holdup] = false →
      Completes (.wdtKick rq) q d (commonWith [.mode, .prev, .roofTime, .cycles, .core, .rails, .seq, .cl, .adc, .therm, .bg,
        .link, .vly, .gauge, .power, .rtc, .log, .fw, .freeN]) none
        fun e => answered rq 0xA2 .deniedWindow (BitVec.ofNat 32 (hwdShare d)) 0#32 d e = true ∧
          raised 800 d e = true ∧
          e.mode = d.mode ∧
          e.rails = d.rails) ∧
    (flag d W.HWD_CFG_HWD_EN = true →
      hwdCounts d.mode = true →
      (fld d W.HWD_CFG_ACTION = 0 ∨ fld d W.HWD_CFG_ACTION = 3) →
      Completes .hwdExpired q d (commonWith [.mode, .prev, .roofTime, .cycles, .core, .rails, .seq, .cl, .adc, .therm, .bg,
        .link, .vly, .gauge, .power, .rtc, .log, .fw, .freeN]) none
        fun e => fld e W.HWD_STATUS_EXPIRIES = min (fld d W.HWD_STATUS_EXPIRIES + 1) 255 ∧
          raised 801 d e = true ∧
          e.mode = d.mode ∧
          e.rails = d.rails ∧
          flag e W.HWD_STATUS_PROFILE_ACTIVE = flag d W.HWD_STATUS_PROFILE_ACTIVE ∧
          e.fw.hwdHeld = 0) ∧
    (flag d W.HWD_CFG_HWD_EN = true →
      hwdCounts d.mode = true →
      fld d W.HWD_CFG_ACTION = 1 →
      Completes .hwdExpired q d (commonWith [.mode, .prev, .roofTime, .cycles, .core, .rails, .seq, .cl, .adc, .therm, .bg,
        .link, .vly, .gauge, .power, .rtc, .log, .fw, .freeN]) none
        fun e => fld e W.HWD_STATUS_EXPIRIES = min (fld d W.HWD_STATUS_EXPIRIES + 1) 255 ∧
          raised 801 d e = true ∧
          flag e W.HWD_STATUS_PROFILE_ACTIVE = true ∧
          (flag d W.HWD_STATUS_PROFILE_ACTIVE = false → raised 802 d e = true)) ∧
    (flag d W.HWD_CFG_HWD_EN = true →
      hwdCounts d.mode = true →
      fld d W.HWD_CFG_ACTION = 2 →
      inMode d [.ramp, .run, .ease, .holdup] = true →
      Completes .hwdExpired q d (commonWith [.mode, .prev, .roofTime, .cycles, .core, .rails, .seq, .cl, .adc, .therm, .bg,
        .link, .vly, .gauge, .power, .rtc, .log, .fw, .freeN]) none
        fun e => fld e W.HWD_STATUS_EXPIRIES = min (fld d W.HWD_STATUS_EXPIRIES + 1) 255 ∧
          raised 801 d e = true ∧
          inMode e [.ramp, .run, .ease, .holdup] = false ∧
          (enabledRails d ≠ [] → e.mode = .descend ∧ e.seq.desc.map (fun x => x.kind) = some (if d.mode = .ramp then .abort
            else .orderly)) ∧
          (participating d = true → d.link.urgOut.length < e.link.urgOut.length)) ∧
    (flag d W.HWD_CFG_HWD_EN = true →
      hwdCounts d.mode = true →
      fld d W.HWD_CFG_ACTION = 2 →
      inMode d [.ramp, .run, .ease, .holdup] = false →
      Completes .hwdExpired q d (commonWith [.mode, .prev, .roofTime, .cycles, .core, .rails, .seq, .cl, .adc, .therm, .bg,
        .link, .vly, .gauge, .power, .rtc, .log, .fw, .freeN]) none
        fun e => fld e W.HWD_STATUS_EXPIRIES = min (fld d W.HWD_STATUS_EXPIRIES + 1) 255 ∧
          raised 801 d e = true ∧
          e.mode = d.mode ∧
          e.rails = d.rails) ∧
    ((flag d W.HWD_CFG_HWD_EN = false ∨ hwdCounts d.mode = false) →
      Completes .hwdExpired q d (commonWith [.mode, .prev, .roofTime, .cycles, .core, .rails, .seq, .cl, .adc, .therm, .bg,
        .link, .vly, .gauge, .power, .rtc, .log, .fw, .freeN]) none
        fun e => e = d) ∧
    (Completes .purlinWdtKick q d [.fw] (some [])
        fun e => e.fw.kickAt = d.roofTime)

/-- OTP_READ, OTP_PROGRAM and OTP_FINALIZE that no check refuses enter the controller, behind what waits there; each command
completes with the status of the first check that fails. The end of a read answers one word in W1 and W2, or several in a
record of Q15, or BUSY without room. A trial override replaces a shadow word and marks OVR_ACTIVE, leaving the array.
Programming starts when sample and supply lie in the window, a pending mark first, and otherwise ends PROG_BLOCKED_SUPPLY; the
end of a word leaves its bits blown and the others as they were, one whose margin read misses a bit ends HW_FAULT, and a word
that follows starts with a sample of its own. A sample outside the window stops the word and marks it for an interruption
mark; one inside, or after the word, does nothing. OTP_FINALIZE of a region that fails its check ends HW_FAULT with the word,
otherwise its digest and lock are programmed (which word a digest mismatch names is the model's choice, log 18). -/
def Obligations.OtpComplete : Prop :=
  ∀ (q : List Instr) (d : Device), canonical d = true →
    (∀ (rq : Req) (p0 : Word),
      engineOn d = true →
      firstFail [(bitsOf p0 31 22 = 0 && bitsOf p0 15 10 = 0 && decide (1 ≤ bitsOf p0 21 16) && decide (bitsOf p0 21 16 ≤ 62)
        && decide (bitsOf p0 9 0 + bitsOf p0 21 16 ≤ 1024), .badParam), (modeOk .all d, .deniedMode)] = none →
      Completes (.otpRead rq p0) q d (commonWith [.roofTime, .cycles, .otp, .fw]) (eventsWith [W.OTP_STATUS, W.TRUST_STATUS,
        W.FW_ARB])
        fun e => e.otp.line = d.otp.line ++
          [{ cmd := some d.eng.nextId, start := (if d.otp.line = [] then d.roofTime else 0) }] ∧
          flag e W.OTP_STATUS_BUSY = true ∧
          e.eng.issued.any (fun c => c.id == d.eng.nextId && c.op == 0x90) = true ∧
          e.otp.array = d.otp.array) ∧
    (∀ (rq : Req) (p0 : Word) (st : Status),
      engineOn d = true →
      firstFail [(bitsOf p0 31 22 = 0 && bitsOf p0 15 10 = 0 && decide (1 ≤ bitsOf p0 21 16) && decide (bitsOf p0 21 16 ≤ 62)
        && decide (bitsOf p0 9 0 + bitsOf p0 21 16 ≤ 1024), .badParam), (modeOk .all d, .deniedMode)] = some st →
      Completes (.otpRead rq p0) q d (commonWith [.roofTime, .cycles, .otp, .fw]) (eventsWith [W.OTP_STATUS, W.TRUST_STATUS,
        W.FW_ARB])
        fun e => answered rq 0x90 st 0#32 0#32 d e = true ∧
          e.otp = d.otp) ∧
    (∀ (j : OtpJob) (t : List OtpJob) (c : Cmd),
      d.otp.line = j :: t →
      j.words = [] →
      d.eng.issued.find? (fun x => some x.id == j.cmd) = some c →
      Completes .otpReadDone q d (commonWith [.roofTime, .cycles, .otp, .fw]) (eventsWith [W.OTP_STATUS, W.TRUST_STATUS,
        W.FW_ARB])
        fun e => (c.lost = true ∨ bitsOf (c.p 0) 21 16 ≠ 1 ∨ reply c .ok (lowW (otpWord d (bitsOf (c.p 0) 9 0))) (highW
          (otpWord d (bitsOf (c.p 0) 9 0))) d e = true) ∧
          (c.lost = true ∨ bitsOf (c.p 0) 21 16 = 1 ∨ ringRoom d 15 < 2 * bitsOf (c.p 0) 21 16 + 1 ∨ reply c .ok
            (BitVec.ofNat 32 (bitsOf (c.p 0) 21 16)) (BitVec.ofNat 32 (ring d 15).wr) d e = true) ∧
          (c.lost = true ∨ bitsOf (c.p 0) 21 16 = 1 ∨ 2 * bitsOf (c.p 0) 21 16 + 1 ≤ ringRoom d 15 ∨ reply c .busy 0#32 0#32
            d e = true) ∧
          (bitsOf (c.p 0) 21 16 = 1 ∨ ringRoom d 15 < 2 * bitsOf (c.p 0) 21 16 + 1 ∨ (ring e 15).words = (ring d 15).words ++
            recordHeader 2 (2 * bitsOf (c.p 0) 21 16) c :: (List.range (bitsOf (c.p 0) 21 16)).flatMap (fun k => [lowW
            (otpWord d (bitsOf (c.p 0) 9 0 + k)), highW (otpWord d (bitsOf (c.p 0) 9 0 + k))])) ∧
          e.otp.line.length ≤ t.length ∧
          (t ≠ [] ∨ flag e W.OTP_STATUS_BUSY = false) ∧
          e.otp.array = d.otp.array) ∧
    (∀ (j : OtpJob) (t : List OtpJob),
      d.otp.line = j :: t →
      j.words = [] →
      d.eng.issued.find? (fun x => some x.id == j.cmd) = none →
      Completes .otpReadDone q d (commonWith [.roofTime, .cycles, .otp, .fw]) (eventsWith [W.OTP_STATUS, W.TRUST_STATUS,
        W.FW_ARB])
        fun e => e.otp.line.length ≤ t.length ∧
          e.otp.array = d.otp.array) ∧
    (d.otp.line.head?.all (fun j => j.words ≠ []) = true →
      Completes .otpReadDone q d (commonWith [.roofTime, .cycles, .otp, .fw]) (eventsWith [W.OTP_STATUS, W.TRUST_STATUS,
        W.FW_ARB])
        fun e => e = d) ∧
    (∀ (rq : Req) (p0 p1 p2 : Word),
      engineOn d = true →
      firstFail [(bitsOf p0 31 10 = 0 && decide (bitsOf p0 9 0 < 320), .badParam), (d.mode == .service, .deniedMode), (rq.src
        != .thatch && decide (192 ≤ bitsOf p0 9 0) && !otpLocked d 2 && (!trussActive d || d.otp.permit.testBit 1),
        .deniedPermission), (heldInside (withShadow (bitsOf p0 9 0) (p1.toNat + p2.toNat * 2 ^ 32) (atGate (begun d))),
        .deniedEnvelope)] = none →
      Completes (.otpShadowWrite rq p0 p1 p2) q d (commonWith [.roofTime, .cycles, .otp]) (eventsWith [W.OTP_STATUS])
        fun e => SMap.get (fun _ => 0) e.otp.shadow (bitsOf p0 9 0) = (p1.toNat + p2.toNat * 2 ^ 32) ∧
          e.otp.array = d.otp.array ∧
          flag e W.OTP_STATUS_OVR_ACTIVE = true ∧
          answered rq 0x91 .ok 0#32 0#32 d e = true) ∧
    (∀ (rq : Req) (p0 p1 p2 : Word) (st : Status),
      engineOn d = true →
      firstFail [(bitsOf p0 31 10 = 0 && decide (bitsOf p0 9 0 < 320), .badParam), (d.mode == .service, .deniedMode), (rq.src
        != .thatch && decide (192 ≤ bitsOf p0 9 0) && !otpLocked d 2 && (!trussActive d || d.otp.permit.testBit 1),
        .deniedPermission), (heldInside (withShadow (bitsOf p0 9 0) (p1.toNat + p2.toNat * 2 ^ 32) (atGate (begun d))),
        .deniedEnvelope)] = some st →
      Completes (.otpShadowWrite rq p0 p1 p2) q d (commonWith [.roofTime, .cycles, .otp]) (eventsWith [W.OTP_STATUS])
        fun e => answered rq 0x91 st 0#32 0#32 d e = true ∧
          e.otp = d.otp) ∧
    (∀ (rq : Req) (p0 p1 p2 : Word) (vpre : Nat) (hot : Int) (st : Status),
      engineOn d = true →
      firstFail [(bitsOf p0 31 10 = 0 && otpWord d (bitsOf p0 9 0) &&& (p1.toNat + p2.toNat * 2 ^ 32) = otpWord d (bitsOf p0
        9 0), .badParam), (d.mode == .service, .deniedMode), (mayProgram rq.src (bitsOf p0 9 0) d, .deniedPermission)] = some
        st →
      Completes (.otpProgram rq p0 p1 p2 vpre hot) q d (commonWith [.roofTime, .cycles, .otp, .fw]) (eventsWith
        [W.OTP_STATUS, W.TRUST_STATUS, W.FW_ARB])
        fun e => answered rq 0x92 st 0#32 0#32 d e = true ∧
          e.otp = d.otp) ∧
    (∀ (rq : Req) (p0 p1 p2 : Word) (vpre : Nat) (hot : Int),
      engineOn d = true →
      firstFail [(bitsOf p0 31 10 = 0 && otpWord d (bitsOf p0 9 0) &&& (p1.toNat + p2.toNat * 2 ^ 32) = otpWord d (bitsOf p0
        9 0), .badParam), (d.mode == .service, .deniedMode), (mayProgram rq.src (bitsOf p0 9 0) d, .deniedPermission)] = none
        →
      d.otp.line = [] →
      windowFlags vpre hot = 0 →
      Completes (.otpProgram rq p0 p1 p2 vpre hot) q d (commonWith [.roofTime, .cycles, .otp, .fw]) (eventsWith
        [W.OTP_STATUS, W.TRUST_STATUS, W.FW_ARB])
        fun e => e.otp.line.map (fun j => (j.cmd, j.words)) = [(some d.eng.nextId, (markWord d).toList ++ [(bitsOf p0 9 0,
          (p1.toNat + p2.toNat * 2 ^ 32))])] ∧
          flag e W.OTP_STATUS_BUSY = true ∧
          e.otp.array = d.otp.array ∧
          e.otp.pendMark = d.otp.pendMark) ∧
    (∀ (rq : Req) (p0 p1 p2 : Word) (vpre : Nat) (hot : Int),
      engineOn d = true →
      firstFail [(bitsOf p0 31 10 = 0 && otpWord d (bitsOf p0 9 0) &&& (p1.toNat + p2.toNat * 2 ^ 32) = otpWord d (bitsOf p0
        9 0), .badParam), (d.mode == .service, .deniedMode), (mayProgram rq.src (bitsOf p0 9 0) d, .deniedPermission)] = none
        →
      d.otp.line = [] →
      windowFlags vpre hot ≠ 0 →
      Completes (.otpProgram rq p0 p1 p2 vpre hot) q d (commonWith [.roofTime, .cycles, .otp, .fw]) (eventsWith
        [W.OTP_STATUS, W.TRUST_STATUS, W.FW_ARB])
        fun e => answered rq 0x92 .progBlockedSupply (BitVec.ofNat 32 (windowFlags vpre hot)) 0#32 d e = true ∧
          e.otp.line = [] ∧
          e.otp.array = d.otp.array) ∧
    (∀ (rq : Req) (p0 p1 p2 : Word) (vpre : Nat) (hot : Int),
      engineOn d = true →
      firstFail [(bitsOf p0 31 10 = 0 && otpWord d (bitsOf p0 9 0) &&& (p1.toNat + p2.toNat * 2 ^ 32) = otpWord d (bitsOf p0
        9 0), .badParam), (d.mode == .service, .deniedMode), (mayProgram rq.src (bitsOf p0 9 0) d, .deniedPermission)] = none
        →
      d.otp.line ≠ [] →
      Completes (.otpProgram rq p0 p1 p2 vpre hot) q d (commonWith [.roofTime, .cycles, .otp, .fw]) (eventsWith
        [W.OTP_STATUS, W.TRUST_STATUS, W.FW_ARB])
        fun e => e.otp.line.map (fun j => (j.cmd, j.words)) = d.otp.line.map (fun j => (j.cmd, j.words)) ++ [(some
          d.eng.nextId, [(bitsOf p0 9 0, (p1.toNat + p2.toNat * 2 ^ 32))])] ∧
          e.eng.issued.any (fun c => c.id == d.eng.nextId && c.op == 0x92) = true ∧
          e.otp.array = d.otp.array) ∧
    (∀ (miss soft : BitVec 64) (vpre : Nat) (hot : Int) (j : OtpJob) (t : List OtpJob) (w v : Nat) (rest : List (Nat × Nat))
      (x : Nat),
      d.otp.line = j :: t →
      j.words = (w, v) :: rest →
      Completes (.otpWordDone miss soft vpre hot) q d (commonWith [.roofTime, .cycles, .otp, .fw]) (eventsWith [W.OTP_STATUS,
        W.TRUST_STATUS, W.FW_ARB])
        fun e => otpWord e x = (if x = w then otpWord d w ||| (toBlow d w v ^^^ (toBlow d w v &&& miss.toNat)) else otpWord d
          x) ∧
          j.start + wordTicks d w v ≤ e.roofTime) ∧
    (∀ (miss soft : BitVec 64) (vpre : Nat) (hot : Int) (j : OtpJob) (t : List OtpJob) (w v : Nat) (rest : List (Nat × Nat)),
      d.otp.line = j :: t →
      j.words = (w, v) :: rest →
      otpMargin (blow w (toBlow d w v ^^^ (toBlow d w v &&& miss.toNat)) soft.toNat d) w ≠ v →
      Completes (.otpWordDone miss soft vpre hot) q d (commonWith [.roofTime, .cycles, .otp, .fw]) (eventsWith [W.OTP_STATUS,
        W.TRUST_STATUS, W.FW_ARB])
        fun e => (d.eng.issued.filter (fun x => some x.id == j.cmd)).all (fun c => c.lost || reply c .hwFault (BitVec.ofNat
          32 (if (finalizeOf d j).isSome then w else halfFlag (firstDiff (otpMargin (blow w (toBlow d w v ^^^ (toBlow d w v
          &&& miss.toNat)) soft.toNat d) w) v))) (BitVec.ofNat 32 (halfOf (blow w (toBlow d w v ^^^ (toBlow d w v &&&
          miss.toNat)) soft.toNat d) w (firstDiff (otpMargin (blow w (toBlow d w v ^^^ (toBlow d w v &&& miss.toNat))
          soft.toNat d) w) v))) d e) = true ∧
          (j.cmd ≠ none ∨ (flag e W.TRUST_STATUS_ARB_PENDING = true ∧ raised 778 d e = true) ∨ t ≠ []) ∧
          e.otp.line.length ≤ t.length ∧
          e.otp.pendMark = d.otp.pendMark) ∧
    (∀ (miss soft : BitVec 64) (vpre : Nat) (hot : Int) (j : OtpJob) (t : List OtpJob) (w v : Nat) (rest : List (Nat × Nat)),
      d.otp.line = j :: t →
      j.words = (w, v) :: rest →
      otpMargin (blow w (toBlow d w v ^^^ (toBlow d w v &&& miss.toNat)) soft.toNat d) w = v →
      j.mark = true →
      Completes (.otpWordDone miss soft vpre hot) q d (commonWith [.roofTime, .cycles, .otp, .fw]) (eventsWith [W.OTP_STATUS,
        W.TRUST_STATUS, W.FW_ARB])
        fun e => (windowFlags vpre hot ≠ 0 ∨ (isRead d { j with words := rest, mark := false } = true ∨ t.head?.any (isRead
          d) = true) ∨ (finalizeOf d j).isSome ∨ e.otp.line.map (fun x => (x.cmd, x.words)) = (j.cmd, rest) :: t.map (fun x
          => (x.cmd, x.words))) ∧
          (windowFlags vpre hot = 0 ∨ (finalizeOf d j).isSome ∨ t.head?.any (isRead d) = true ∨ (d.eng.issued.filter (fun x
            => some x.id == j.cmd)).all (fun c => c.lost || reply c .progBlockedSupply (BitVec.ofNat 32 (windowFlags vpre
            hot)) 0#32 d e) = true) ∧
          e.otp.pendMark = none ∧
          flag e W.OTP_STATUS_MARK_PENDING = false) ∧
    (∀ (miss soft : BitVec 64) (vpre : Nat) (hot : Int) (j : OtpJob) (t : List OtpJob) (w v : Nat) (rest : List (Nat × Nat)),
      d.otp.line = j :: t →
      j.words = (w, v) :: rest →
      otpMargin (blow w (toBlow d w v ^^^ (toBlow d w v &&& miss.toNat)) soft.toNat d) w = v →
      j.mark = false →
      rest = [] →
      Completes (.otpWordDone miss soft vpre hot) q d (commonWith [.roofTime, .cycles, .otp, .fw]) (eventsWith [W.OTP_STATUS,
        W.TRUST_STATUS, W.FW_ARB])
        fun e => (d.eng.issued.filter (fun x => some x.id == j.cmd)).all (fun c => c.lost || reply c .ok 0#32 (BitVec.ofNat
          32 (if (finalizeOf d j).isSome then 0 else v % 2 ^ 32)) d e) = true ∧
          (j.cmd ≠ none ∨ (flag e W.TRUST_STATUS_ARB_PENDING = false ∧ raised 777 d e = true) ∨ t ≠ []) ∧
          ((finalizeOf d j).isNone ∨ fld e W.OTP_STATUS_LOCKED = otpWord e 960 % 32) ∧
          e.otp.line.length ≤ t.length ∧
          (t ≠ [] ∨ flag e W.OTP_STATUS_BUSY = false)) ∧
    (∀ (miss soft : BitVec 64) (vpre : Nat) (hot : Int) (j : OtpJob) (t : List OtpJob) (w v : Nat) (rest : List (Nat × Nat)),
      d.otp.line = j :: t →
      j.words = (w, v) :: rest →
      otpMargin (blow w (toBlow d w v ^^^ (toBlow d w v &&& miss.toNat)) soft.toNat d) w = v →
      j.mark = false →
      rest ≠ [] →
      d.otp.pendMark = none →
      t.head?.any (isRead d) = false →
      ((finalizeOf d j).isNone ∨ j.begun = true) →
      Completes (.otpWordDone miss soft vpre hot) q d (commonWith [.roofTime, .cycles, .otp, .fw]) (eventsWith [W.OTP_STATUS,
        W.TRUST_STATUS, W.FW_ARB])
        fun e => (windowFlags vpre hot ≠ 0 ∨ e.otp.line.map (fun x => (x.cmd, x.words)) = (j.cmd, rest) :: t.map (fun x =>
          (x.cmd, x.words))) ∧
          (windowFlags vpre hot = 0 ∨ (d.eng.issued.filter (fun x => some x.id == j.cmd)).all (fun c => c.lost || reply c
            .progBlockedSupply (BitVec.ofNat 32 (windowFlags vpre hot)) 0#32 d e) = true) ∧
          (windowFlags vpre hot = 0 ∨ e.otp.line.length ≤ t.length)) ∧
    (∀ (miss soft : BitVec 64) (vpre : Nat) (hot : Int),
      d.otp.line.head?.all (fun j => decide (j.words = [])) = true →
      Completes (.otpWordDone miss soft vpre hot) q d (commonWith [.roofTime, .cycles, .otp, .fw]) (eventsWith [W.OTP_STATUS,
        W.TRUST_STATUS, W.FW_ARB])
        fun e => e = d) ∧
    (∀ (n : Nat) (vpre : Nat) (hot : Int) (left : BitVec 2) (j : OtpJob) (t : List OtpJob) (w v : Nat) (rest : List (Nat ×
      Nat)) (k : Nat),
      d.otp.line = j :: t →
      j.words = (w, v) :: rest →
      windowFlags vpre hot ≠ 0 →
      n * 1000 ≤ wordTicks d w v →
      k = blownAt (n * 10) (bitsIn (toBlow d w v) 64).length →
      Completes (.otpWindowSample n vpre hot left) q d (commonWith [.roofTime, .cycles, .otp, .fw]) (eventsWith
        [W.OTP_STATUS, W.TRUST_STATUS, W.FW_ARB])
        fun e => e.otp.line.length ≤ t.length ∧
          (j.mark = true ∨ (e.otp.pendMark = some w ∧ flag e W.OTP_STATUS_MARK_PENDING = true)) ∧
          (j.mark = false ∨ e.otp.pendMark = d.otp.pendMark) ∧
          otpWord e w = otpWord d w ||| ((bitsIn (toBlow d w v) 64).take k).foldl (fun m i => m ||| 2 ^ i) 0 ||| (if 2 ≤ n ∧
            k < (bitsIn (toBlow d w v) 64).length ∧ left.toNat ≠ 0 then 2 ^ ((bitsIn (toBlow d w v) 64).getD k 0) else 0) ∧
          (d.eng.issued.filter (fun x => some x.id == j.cmd)).all (fun c => c.lost || reply c .progBlockedSupply
            (BitVec.ofNat 32 (windowFlags vpre hot + 4 + halfFlag ((bitsIn (toBlow d w v) 64).getD k ((bitsIn (toBlow d w v)
            64).getLastD 0)))) (BitVec.ofNat 32 (otpMargin e w / 2 ^ (32 * ((bitsIn (toBlow d w v) 64).getD k ((bitsIn
            (toBlow d w v) 64).getLastD 0) / 32)) % 2 ^ 32)) d e) = true ∧
          j.start + n * 1000 + 2000 ≤ e.roofTime) ∧
    (∀ (n : Nat) (vpre : Nat) (hot : Int) (left : BitVec 2),
      d.otp.line.head?.all (fun j => j.words.head?.all (fun p => decide (windowFlags vpre hot = 0) || decide (wordTicks d p.1
        p.2 < n * 1000))) = true →
      Completes (.otpWindowSample n vpre hot left) q d (commonWith [.roofTime, .cycles, .otp, .fw]) (eventsWith
        [W.OTP_STATUS, W.TRUST_STATUS, W.FW_ARB])
        fun e => e = d) ∧
    (∀ (rq : Req) (p0 : Word) (vpre : Nat) (hot : Int) (st : Status),
      engineOn d = true →
      firstFail [(rq.src != .thatch, .deniedPermission), (bitsOf p0 31 3 = 0 && decide (2 ≤ bitsOf p0 2 0) && decide (bitsOf
        p0 2 0 ≤ 4), .badParam), (d.mode == .service, .deniedMode), (!otpLocked d (bitsOf p0 2 0), .deniedPermission)] = some
        st →
      Completes (.otpFinalize rq p0 vpre hot) q d (commonWith [.roofTime, .cycles, .otp, .fw]) (eventsWith [W.OTP_STATUS,
        W.TRUST_STATUS, W.FW_ARB])
        fun e => answered rq 0x93 st 0#32 0#32 d e = true ∧
          e.otp = d.otp) ∧
    (∀ (rq : Req) (p0 : Word) (vpre : Nat) (hot : Int) (ws : List (Nat × Nat)),
      engineOn d = true →
      firstFail [(rq.src != .thatch, .deniedPermission), (bitsOf p0 31 3 = 0 && decide (2 ≤ bitsOf p0 2 0) && decide (bitsOf
        p0 2 0 ≤ 4), .badParam), (d.mode == .service, .deniedMode), (!otpLocked d (bitsOf p0 2 0), .deniedPermission)] = none
        →
      d.otp.line = [] →
      d.otp.pendMark = none →
      (finalizeWords (bitsOf p0 2 0) d).toOption = some ws →
      Completes (.otpFinalize rq p0 vpre hot) q d (commonWith [.roofTime, .cycles, .otp, .fw]) (eventsWith [W.OTP_STATUS,
        W.TRUST_STATUS, W.FW_ARB])
        fun e => (windowFlags vpre hot ≠ 0 ∨ d.eng.issued.any (fun c => c.id == d.eng.nextId) = true ∨ (e.otp.line.map (fun j
          => (j.cmd, j.words)) = [(some d.eng.nextId, ws)] ∧ flag e W.OTP_STATUS_BUSY = true)) ∧
          (windowFlags vpre hot = 0 ∨ d.eng.issued.any (fun c => c.id == d.eng.nextId) = true ∨ (answered rq 0x93
            .progBlockedSupply (BitVec.ofNat 32 (windowFlags vpre hot)) 0#32 d e = true ∧ e.otp.line = [])) ∧
          e.otp.array = d.otp.array) ∧
    (∀ (rq : Req) (p0 : Word) (vpre : Nat) (hot : Int) (x : Nat),
      engineOn d = true →
      firstFail [(rq.src != .thatch, .deniedPermission), (bitsOf p0 31 3 = 0 && decide (2 ≤ bitsOf p0 2 0) && decide (bitsOf
        p0 2 0 ≤ 4), .badParam), (d.mode == .service, .deniedMode), (!otpLocked d (bitsOf p0 2 0), .deniedPermission)] = none
        →
      d.otp.line = [] →
      d.otp.pendMark = none →
      failWord (finalizeWords (bitsOf p0 2 0) d) = some x →
      Completes (.otpFinalize rq p0 vpre hot) q d (commonWith [.roofTime, .cycles, .otp, .fw]) (eventsWith [W.OTP_STATUS,
        W.TRUST_STATUS, W.FW_ARB])
        fun e => (d.eng.issued.any (fun c => c.id == d.eng.nextId) = true ∨ answered rq 0x93 .hwFault (BitVec.ofNat 32 x)
          0#32 d e = true) ∧
          (d.eng.issued.any (fun c => c.id == d.eng.nextId) = true ∨ e.otp.line = []) ∧
          e.otp.array = d.otp.array) ∧
    (∀ (rq : Req) (p0 : Word) (vpre : Nat) (hot : Int) (m : Nat × Nat),
      engineOn d = true →
      firstFail [(rq.src != .thatch, .deniedPermission), (bitsOf p0 31 3 = 0 && decide (2 ≤ bitsOf p0 2 0) && decide (bitsOf
        p0 2 0 ≤ 4), .badParam), (d.mode == .service, .deniedMode), (!otpLocked d (bitsOf p0 2 0), .deniedPermission)] = none
        →
      d.otp.line = [] →
      markWord d = some m →
      Completes (.otpFinalize rq p0 vpre hot) q d (commonWith [.roofTime, .cycles, .otp, .fw]) (eventsWith [W.OTP_STATUS,
        W.TRUST_STATUS, W.FW_ARB])
        fun e => (windowFlags vpre hot ≠ 0 ∨ d.eng.issued.any (fun c => c.id == d.eng.nextId) = true ∨ e.otp.line.map (fun j
          => (j.cmd, j.words, j.mark)) = [(some d.eng.nextId, [m], true)]) ∧
          (windowFlags vpre hot = 0 ∨ d.eng.issued.any (fun c => c.id == d.eng.nextId) = true ∨ (answered rq 0x93
            .progBlockedSupply (BitVec.ofNat 32 (windowFlags vpre hot)) 0#32 d e = true ∧ e.otp.line = [])) ∧
          e.otp.array = d.otp.array) ∧
    (∀ (rq : Req) (p0 : Word) (vpre : Nat) (hot : Int),
      engineOn d = true →
      firstFail [(rq.src != .thatch, .deniedPermission), (bitsOf p0 31 3 = 0 && decide (2 ≤ bitsOf p0 2 0) && decide (bitsOf
        p0 2 0 ≤ 4), .badParam), (d.mode == .service, .deniedMode), (!otpLocked d (bitsOf p0 2 0), .deniedPermission)] = none
        →
      d.otp.line ≠ [] →
      Completes (.otpFinalize rq p0 vpre hot) q d (commonWith [.roofTime, .cycles, .otp, .fw]) (eventsWith [W.OTP_STATUS,
        W.TRUST_STATUS, W.FW_ARB])
        fun e => e.otp.line.map (fun j => (j.cmd, j.words)) = d.otp.line.map (fun j => (j.cmd, j.words)) ++ [(some
          d.eng.nextId, [])] ∧
          e.eng.issued.any (fun c => c.id == d.eng.nextId && c.op == 0x93) = true ∧
          e.otp.array = d.otp.array)

/-- TRUSS_STAGE that no check refuses writes its words into the copy that is not active, never the word of MAGIC; at offset 0
it erases the copy first and clears STAGED. TRUSS_COMMIT of a copy that passes the tests writes MAGIC, sets STAGED and raises
TRUSS_STAGED; of one that fails it completes BAD_PARAM with the failed test and leaves both copies. The words in force and the
other copy stay as they are; each completes with the status of the first check that fails. -/
def Obligations.TrussComplete : Prop :=
  ∀ (q : List Instr) (d : Device), canonical d = true →
    (∀ (rq : Req) (p0 : Word) (ws : List Word) (i : Nat),
      engineOn d = true →
      firstFail [(rq.src != .thatch, .deniedPermission), (bitsOf p0 31 15 = 0 && bitsOf p0 14 0 % 4 = 0 && ws ≠ [] && decide
        (bitsOf p0 14 0 + 4 * ws.length ≤ 32768), .badParam), (modeOk .live d, .deniedMode)] = none →
      i < 8192 →
      Completes (.trussStage rq p0 ws) q d (commonWith [.otp]) (eventsWith [W.TRUSS_STATUS])
        fun e => SMap.get flashDflt (copyOf e (stageCopy d)) i = (if 0 < i ∧ bitsOf p0 14 0 / 4 ≤ i ∧ i < bitsOf p0 14 0 / 4
          + ws.length then ws.getD (i - bitsOf p0 14 0 / 4) 0#32 else if bitsOf p0 14 0 = 0 then flashDflt i else SMap.get
          flashDflt (copyOf d (stageCopy d)) i) ∧
          copyOf e (1 - stageCopy d) = copyOf d (1 - stageCopy d) ∧
          fld e W.TRUSS_STATUS_ACTIVE_SRC = fld d W.TRUSS_STATUS_ACTIVE_SRC ∧
          flag e W.TRUSS_STATUS_STAGED = (bitsOf p0 14 0 ≠ 0 && flag d W.TRUSS_STATUS_STAGED) ∧
          answered rq 0x94 .ok (BitVec.ofNat 32 (4 * ws.length - (if bitsOf p0 14 0 = 0 then 4 else 0))) 0#32 d e = true) ∧
    (∀ (rq : Req) (p0 : Word) (ws : List Word) (st : Status),
      engineOn d = true →
      firstFail [(rq.src != .thatch, .deniedPermission), (bitsOf p0 31 15 = 0 && bitsOf p0 14 0 % 4 = 0 && ws ≠ [] && decide
        (bitsOf p0 14 0 + 4 * ws.length ≤ 32768), .badParam), (modeOk .live d, .deniedMode)] = some st →
      Completes (.trussStage rq p0 ws) q d (commonWith [.otp]) (eventsWith [W.TRUSS_STATUS])
        fun e => answered rq 0x94 st 0#32 0#32 d e = true ∧
          e.otp = d.otp ∧
          getW e W.TRUSS_STATUS = getW d W.TRUSS_STATUS) ∧
    (∀ (rq : Req),
      engineOn d = true →
      rq.src ≠ .thatch →
      modeOk .live d = true →
      Completes (.trussCommit rq) q d (commonWith [.roofTime, .cycles, .otp, .freeN]) (eventsWith [W.TRUSS_STATUS])
        fun e => (commitCause (atGate (begun d)) = 0 → SMap.get flashDflt (copyOf e (stageCopy d)) 0 = 0x53555254#32 ∧
      flag e W.TRUSS_STATUS_STAGED = true ∧ answered rq 0x95 .ok 0#32 0#32 d e = true ∧ raised 773 d e = true) ∧
          (commitCause (atGate (begun d)) ≠ 0 → e.otp = d.otp ∧
      flag e W.TRUSS_STATUS_STAGED = flag d W.TRUSS_STATUS_STAGED ∧
      answered rq 0x95 .badParam (BitVec.ofNat 32 (commitCause (atGate (begun d)))) 0#32 d e = true) ∧
          fld e W.TRUSS_STATUS_ACTIVE_SRC = fld d W.TRUSS_STATUS_ACTIVE_SRC ∧
          copyOf e (1 - stageCopy d) = copyOf d (1 - stageCopy d)) ∧
    (∀ (rq : Req) (st : Status),
      engineOn d = true →
      firstFail [(rq.src != .thatch, .deniedPermission), (modeOk .live d, .deniedMode)] = some st →
      Completes (.trussCommit rq) q d (commonWith [.roofTime, .cycles, .otp, .freeN]) (eventsWith [W.TRUSS_STATUS])
        fun e => answered rq 0x95 st 0#32 0#32 d e = true ∧
          e.otp = d.otp ∧
          getW e W.TRUSS_STATUS = getW d W.TRUSS_STATUS)

/-- SELFTEST that no check refuses shows ST_ACTIVE and stays in progress for a comparator or a converter, and completes with
the status of the first check that fails. The logic test that finds nothing completes OK with W1 0 within 7 ms, Thatch
restarting, leaves mode and rails with no rail up, and otherwise judges the rails held, the verdict in ADOPT_STATUS; one that
finds failing blocks names them in W2 and goes to LATCHED with cause 3, or to a fault descent with a rail up. The OTP test
reloads the shadows, ends the trial overrides and answers the failed regions and the first soft word. While a comparator is
tested, its trip within the window of R549 is noted and a trip outside it fails the test; a trip of the other comparator of
the class that acts aborts the test; the release in time passes and clears its CMP_FAULT, a late one fails. A test whose
conditions never came about ends TIMEOUT, one whose trip or release never came fails with detail 1 or 3, and nothing ends
where none runs or a calibration goes on. -/
def Obligations.SelfTestComplete : Prop :=
  ∀ (q : List Instr) (d : Device), canonical d = true →
    (∀ (rq : Req) (p0 : Word) (failed : BitVec 5) (samples : List AdoptSample),
      engineOn d = true →
      (bitsOf p0 3 0 = 1 ∨ bitsOf p0 3 0 = 2) →
      firstFail [(decide (1 ≤ bitsOf p0 3 0) && decide (bitsOf p0 3 0 ≤ 4) && bitsOf p0 31 22 = 0 && bitsOf p0 19 18 = 0 &&
        bitsOf p0 15 13 = 0 && bitsOf p0 7 4 = 0, .badParam), (testMode d (bitsOf p0 3 0), .deniedMode), (testFree (mkCmd rq
        0x31 [p0] [] d) (begun d) && (decide (bitsOf p0 3 0 ≠ 1) || !flag d W.MODE_STATUS_ADOPTING), .busy)] = none →
      Completes (.selftest rq p0 failed samples) q d (commonWith [.mode, .prev, .roofTime, .cycles, .core, .rails, .seq, .cl,
        .adc, .bg, .link, .vly, .gauge, .rtc, .otp, .log, .fw, .freeN]) none
        fun e => fld e W.BG_STATUS_ST_ACTIVE = bitsOf p0 3 0 ∧
          e.eng.issued.any (fun c => c.id == d.eng.nextId && c.op == 0x31) = true ∧
          e.rails = d.rails ∧
          e.bg.stFrom = d.roofTime + 40) ∧
    (∀ (rq : Req) (p0 : Word) (failed : BitVec 5) (samples : List AdoptSample) (st : Status),
      engineOn d = true →
      firstFail [(decide (1 ≤ bitsOf p0 3 0) && decide (bitsOf p0 3 0 ≤ 4) && bitsOf p0 31 22 = 0 && bitsOf p0 19 18 = 0 &&
        bitsOf p0 15 13 = 0 && bitsOf p0 7 4 = 0, .badParam), (testMode d (bitsOf p0 3 0), .deniedMode), (testFree (mkCmd rq
        0x31 [p0] [] d) (begun d) && (decide (bitsOf p0 3 0 ≠ 1) || !flag d W.MODE_STATUS_ADOPTING), .busy)] = some st →
      Completes (.selftest rq p0 failed samples) q d (commonWith [.mode, .prev, .roofTime, .cycles, .core, .rails, .seq, .cl,
        .adc, .bg, .link, .vly, .gauge, .rtc, .otp, .log, .fw, .freeN]) none
        fun e => answered rq 0x31 st 0#32 0#32 d e = true ∧
          e.rails = d.rails ∧
          e.mode = d.mode) ∧
    (∀ (rq : Req) (p0 : Word) (failed : BitVec 5) (samples : List AdoptSample),
      engineOn d = true →
      bitsOf p0 3 0 = 3 →
      firstFail [(decide (1 ≤ bitsOf p0 3 0) && decide (bitsOf p0 3 0 ≤ 4) && bitsOf p0 31 22 = 0 && bitsOf p0 19 18 = 0 &&
        bitsOf p0 15 13 = 0 && bitsOf p0 7 4 = 0, .badParam), (testMode d (bitsOf p0 3 0), .deniedMode), (testFree (mkCmd rq
        0x31 [p0] [] d) (begun d) && (decide (bitsOf p0 3 0 ≠ 1) || !flag d W.MODE_STATUS_ADOPTING), .busy)] = none →
      failed = 0#5 →
      Completes (.selftest rq p0 failed samples) q d (commonWith [.mode, .prev, .roofTime, .cycles, .core, .rails, .seq, .cl,
        .adc, .bg, .link, .vly, .gauge, .rtc, .otp, .log, .fw, .freeN]) none
        fun e => answered rq 0x31 .ok 0#32 0#32 d e = true ∧
          (enabledRails d ≠ [] ∨ (e.mode = d.mode ∧ e.rails = d.rails ∧ e.roofTime ≤ d.roofTime + 700042)) ∧
          (enabledRails d = [] ∨ fld e W.ADOPT_STATUS_KEEPER_MODE = d.mode.code) ∧
          (enabledRails d = [] ∨ fld e W.ADOPT_STATUS_RESULT ≠ 1 ∨ (e.mode = d.mode ∧ fld e W.ADOPT_STATUS_ADOPTED_COUNT =
            (enabledRails d).length)) ∧
          (thatchState d = 0 ∨ 4 ≤ thatchState d ∨ thatchState e = 3)) ∧
    (∀ (rq : Req) (p0 : Word) (failed : BitVec 5) (samples : List AdoptSample),
      engineOn d = true →
      bitsOf p0 3 0 = 3 →
      firstFail [(decide (1 ≤ bitsOf p0 3 0) && decide (bitsOf p0 3 0 ≤ 4) && bitsOf p0 31 22 = 0 && bitsOf p0 19 18 = 0 &&
        bitsOf p0 15 13 = 0 && bitsOf p0 7 4 = 0, .badParam), (testMode d (bitsOf p0 3 0), .deniedMode), (testFree (mkCmd rq
        0x31 [p0] [] d) (begun d) && (decide (bitsOf p0 3 0 ≠ 1) || !flag d W.MODE_STATUS_ADOPTING), .busy)] = none →
      failed ≠ 0#5 →
      Completes (.selftest rq p0 failed samples) q d (commonWith [.mode, .prev, .roofTime, .cycles, .core, .rails, .seq, .cl,
        .adc, .bg, .link, .vly, .gauge, .rtc, .otp, .log, .fw, .freeN]) none
        fun e => answered rq 0x31 .ok 1#32 (BitVec.ofNat 32 failed.toNat) d e = true ∧
          (enabledRails d ≠ [] ∨ (e.mode = .latched ∧ fld e W.MODE_STATUS_LATCH_CAUSE = 3)) ∧
          (enabledRails d = [] ∨ d.seq.desc.isSome ∨ (enabledRails d).any (fun n => !(rail d n).fallFail) = false ∨ (e.mode =
            .descend ∧ e.seq.desc.map (fun x => (x.kind, x.cause)) = some (.fault, 3)))) ∧
    (∀ (rq : Req) (p0 : Word) (failed : BitVec 5) (samples : List AdoptSample),
      engineOn d = true →
      bitsOf p0 3 0 = 4 →
      firstFail [(decide (1 ≤ bitsOf p0 3 0) && decide (bitsOf p0 3 0 ≤ 4) && bitsOf p0 31 22 = 0 && bitsOf p0 19 18 = 0 &&
        bitsOf p0 15 13 = 0 && bitsOf p0 7 4 = 0, .badParam), (testMode d (bitsOf p0 3 0), .deniedMode), (testFree (mkCmd rq
        0x31 [p0] [] d) (begun d) && (decide (bitsOf p0 3 0 ≠ 1) || !flag d W.MODE_STATUS_ADOPTING), .busy)] = none →
      Completes (.selftest rq p0 failed samples) q d (commonWith [.mode, .prev, .roofTime, .cycles, .core, .rails, .seq, .cl,
        .adc, .bg, .link, .vly, .gauge, .rtc, .otp, .log, .fw, .freeN]) none
        fun e => answered rq 0x31 .ok (if failedRegions d = 0 ∧ softWords d = [] then 0#32 else 1#32) (BitVec.ofNat 32
          (failedRegions d * 2 ^ 16 + (if softWords d = [] then 0 else 2 ^ 15 + (softWords d).headD 0))) d e = true ∧
          flag e W.OTP_STATUS_OVR_ACTIVE = false ∧
          SMap.get (fun _ => 0) e.otp.shadow 192 = otpWord d 192 ∧
          e.otp.array = d.otp.array ∧
          (softWords d = [] ∨ (flag e W.OTP_STATUS_MARGINAL_SEEN = true ∧ raised 769 d e = true)) ∧
          (failedRegions (asRead d) = 0 ∨ (fld e W.OTP_STATUS_DIGEST_FAIL = failedRegions (asRead d) ∧ raised 771 d e =
            true))) ∧
    (∀ (n : BitVec 5) (k : BitVec 2) (both : Bool) (c : Cmd) (a t : Word),
      compTests d n.toNat = [c] →
      k.toNat = testComp c →
      c.aux = [a, t] →
      (compActs d n.toNat k.toNat = false ∨ (rail d n.toNat).trip.testBit k.toNat = true) →
      Completes (.comparatorTrip n k both) q d (commonWith [.mode, .prev, .roofTime, .cycles, .core, .rails, .seq, .cl, .adc,
        .link, .vly, .gauge, .rtc, .log, .fw, .freeN]) none
        fun e => [0, 1].any (fun u => if 2 * testDg d c ≤ 2 * sinceAux d t + u ∧ 2 * sinceAux d t + u ≤ 2 * testDg d c + 8
      then e.eng.issued.any (fun x => x.id == c.id && x.aux == [a, BitVec.ofNat 32 (2 * sinceAux d t + u), lowW d.roofTime])
      else (c.lost || reply c .ok 1#32 (BitVec.ofNat 32 (min (2 * sinceAux d t + u) 65535 * 65536 + 2)) d e) && (fld e
        W.SUP_STATUS_CMP_FAULT n.toNat).testBit k.toNat) = true) ∧
    (∀ (n : BitVec 5) (k : BitVec 2) (both : Bool) (c : Cmd),
      compTests d n.toNat = [c] →
      k.toNat ≠ testComp c →
      k.toNat / 2 = testComp c / 2 →
      compActs d n.toNat k.toNat = true →
      Completes (.comparatorTrip n k both) q d (commonWith [.mode, .prev, .roofTime, .cycles, .core, .rails, .seq, .cl, .adc,
        .link, .vly, .gauge, .rtc, .log, .fw, .freeN]) none
        fun e => (c.lost = true ∨ reply c .aborted 0#32 (BitVec.ofNat 32 (freeOf d % 65536 * 65536 + 4)) d e = true) ∧
          e.eng.issued.any (fun x => x.id == c.id) = false ∧
          ((rail d n.toNat).trip.testBit k.toNat = true ∨ maskBit e (W.SUP_STATUS + 32 * n.toNat) (8 + k.toNat) = true)) ∧
    (∀ (n : BitVec 5) (k : BitVec 3) (c : Cmd) (a delay t : Word),
      compTests d n.toNat = [c] →
      k.toNat = testComp c →
      c.aux = [a, delay, t] →
      Completes (.comparatorRelease n k) q d (commonWith [.mode, .prev, .roofTime, .cycles, .core, .rails, .seq, .cl, .link,
        .vly, .gauge, .rtc, .log, .fw, .freeN]) none
        fun e => (2 * testDg d c < sinceAux d t ∨ c.lost = true ∨ reply c .ok 0#32 (BitVec.ofNat 32 (min delay.toNat 65535 *
          65536)) d e = true) ∧
          (2 * testDg d c < sinceAux d t ∨ (fld e W.SUP_STATUS_CMP_FAULT n.toNat).testBit k.toNat = false) ∧
          (sinceAux d t ≤ 2 * testDg d c ∨ c.lost = true ∨ reply c .ok 1#32 (BitVec.ofNat 32 (min delay.toNat 65535 * 65536 +
            3)) d e = true) ∧
          (sinceAux d t ≤ 2 * testDg d c ∨ (fld e W.SUP_STATUS_CMP_FAULT n.toNat).testBit k.toNat = true) ∧
          e.eng.issued.any (fun x => x.id == c.id) = false) ∧
    (∀ (c : Cmd) (t : List Cmd),
      running d 0x31 = c :: t →
      (if testCode c = 2 then c.aux = [] else c.aux.length < 2 ∨ 3 < c.aux.length) →
      Completes .selftestTimeout q d (commonWith [.mode, .prev, .roofTime, .cycles, .core, .rails, .seq, .cl, .link, .vly,
        .gauge, .rtc, .log, .fw, .freeN]) none
        fun e => (c.lost = true ∨ reply c .timeout 0#32 0#32 d e = true) ∧
          fld e W.BG_STATUS_ST_ACTIVE = 0 ∧
          e.roofTime = max d.roofTime (d.bg.stFrom + 5000000) ∧
          e.rails = d.rails) ∧
    (∀ (c : Cmd) (t : List Cmd) (a x : Word),
      running d 0x31 = c :: t →
      testCode c ≠ 2 →
      c.aux = [a, x] →
      Completes .selftestTimeout q d (commonWith [.mode, .prev, .roofTime, .cycles, .core, .rails, .seq, .cl, .link, .vly,
        .gauge, .rtc, .log, .fw, .freeN]) none
        fun e => (c.lost = true ∨ reply c .ok 1#32 (BitVec.ofNat 32 (freeOf d % 65536 * 65536 + 1)) d e = true) ∧
          (fld e W.SUP_STATUS_CMP_FAULT (testRail c)).testBit (testComp c) = true) ∧
    (∀ (c : Cmd) (t : List Cmd) (a delay x : Word),
      running d 0x31 = c :: t →
      testCode c ≠ 2 →
      c.aux = [a, delay, x] →
      Completes .selftestTimeout q d (commonWith [.mode, .prev, .roofTime, .cycles, .core, .rails, .seq, .cl, .link, .vly,
        .gauge, .rtc, .log, .fw, .freeN]) none
        fun e => (c.lost = true ∨ reply c .ok 1#32 (BitVec.ofNat 32 (min delay.toNat 65535 * 65536 + 3)) d e = true) ∧
          (fld e W.SUP_STATUS_CMP_FAULT (testRail c)).testBit (testComp c) = true) ∧
    ((running d 0x31).head?.all (fun c => decide (testCode c = 2) && c.aux != []) = true →
      Completes .selftestTimeout q d (commonWith [.mode, .prev, .roofTime, .cycles, .core, .rails, .seq, .cl, .link, .vly,
        .gauge, .rtc, .log, .fw, .freeN]) none
        fun e => e = d)

/-- A good access changes no count; a corrected access is counted and changes no content. An uncorrectable word is counted,
recorded in BG_ECC_LAST and in the gutter log, and handled by its memory: a shadow word is loaded from the array, the trace
store loses its stretch, a queue of the host is emptied, a word of a ring reads all ones, Q16 to Q19 are emptied, a control
word that is not held twice takes its reset value and its LOADs, Thatch restarts, the TCU's memory ends in a HARD reset.
Copies that differ end in the watchdog, where the word is held twice. The scrubber does nothing while its task is paused, and
nobody reaches a memory that is off. A telemetry record takes the next sequence number and enters Q15 with room, every
hundredth the flash; without a period, without Thatch or while paused there is none. -/
def Obligations.BackgroundComplete : Prop :=
  ∀ (q : List Instr) (d : Device), canonical d = true →
    (∀ (m : Mem) (word : BitVec 24) (found : Found) (fore : Bool) (last : Bool),
      memOn d m = true →
      (fore = true ∨ bgMay (if m = .control ∨ m = .shadow then 1 else 0) d = true) →
      (found = .corrected ∨ found = .good) →
      Completes (.scrubAccess m word found fore last) q d (commonWith [.mode, .prev, .roofTime, .cycles, .core, .rails, .seq,
        .cl, .adc, .therm, .bg, .link, .vly, .gauge, .power, .otp, .log, .fw, .freeN]) none
        fun e => fld e W.BG_ECC_CORRECTED = (if found = .corrected then min (fld d W.BG_ECC_CORRECTED + 1) 65535 else fld d
          W.BG_ECC_CORRECTED) ∧
          fld e W.BG_ECC_UNCORRECTED = fld d W.BG_ECC_UNCORRECTED ∧
          e.otp = d.otp ∧
          e.rails = d.rails ∧
          e.log = d.log ∧
          e.fw = d.fw) ∧
    (∀ (m : Mem) (word : BitVec 24) (found : Found) (fore : Bool) (last : Bool),
      memOn d m = true →
      (fore = true ∨ bgMay (if m = .control ∨ m = .shadow then 1 else 0) d = true) →
      found = .bad →
      Completes (.scrubAccess m word found fore last) q d (commonWith [.mode, .prev, .roofTime, .cycles, .core, .rails, .seq,
        .cl, .adc, .therm, .bg, .link, .vly, .gauge, .power, .otp, .log, .fw, .freeN]) none
        fun e => fld e W.BG_ECC_UNCORRECTED = min (fld d W.BG_ECC_UNCORRECTED + 1) 65535 ∧
          fld e W.BG_ECC_LAST_MEM = memCode m ∧
          fld e W.BG_ECC_LAST_WORD = word.toNat ∧
          (8 ≤ d.log.waiting.length ∨ snapsNow d ≠ [] ∨ d.log.waiting.length < e.log.waiting.length)) ∧
    (∀ (m : Mem) (word : BitVec 24) (found : Found) (fore : Bool) (last : Bool),
      memOn d m = true →
      (fore = true ∨ bgMay (if m = .control ∨ m = .shadow then 1 else 0) d = true) →
      m = .shadow →
      found = .bad →
      word.toNat < 320 →
      Completes (.scrubAccess m word found fore last) q d (commonWith [.mode, .prev, .roofTime, .cycles, .core, .rails, .seq,
        .cl, .adc, .therm, .bg, .link, .vly, .gauge, .power, .otp, .log, .fw, .freeN]) none
        fun e => SMap.get (fun _ => 0) e.otp.shadow word.toNat = otpWord d word.toNat ∧
          e.otp.array = d.otp.array ∧
          raised 768 d e = true ∧
          e.rails = d.rails) ∧
    (∀ (m : Mem) (word : BitVec 24) (found : Found) (fore : Bool) (last : Bool),
      memOn d m = true →
      (fore = true ∨ bgMay (if m = .control ∨ m = .shadow then 1 else 0) d = true) →
      m = .trace →
      found = .bad →
      trcState d ≠ 0 →
      Completes (.scrubAccess m word found fore last) q d (commonWith [.mode, .prev, .roofTime, .cycles, .core, .rails, .seq,
        .cl, .adc, .therm, .bg, .link, .vly, .gauge, .power, .otp, .log, .fw, .freeN]) none
        fun e => raised 841 d e = true ∧
          e.log.entries.any (fun x => x.kind == 11 && x.sub == 1) = true ∧
          e.rails = d.rails) ∧
    (∀ (m : Mem) (word : BitVec 24) (found : Found) (fore : Bool) (last : Bool),
      memOn d m = true →
      (fore = true ∨ bgMay (if m = .control ∨ m = .shadow then 1 else 0) d = true) →
      m = .acu →
      found = .bad →
      (1 ≤ thatchState d ∧ thatchState d ≤ 3) →
      Completes (.scrubAccess m word found fore last) q d (commonWith [.mode, .prev, .roofTime, .cycles, .core, .rails, .seq,
        .cl, .adc, .therm, .bg, .link, .vly, .gauge, .power, .otp, .log, .fw, .freeN]) none
        fun e => thatchState e = (if flag d W.TRUST_STATUS_TRIAL = false ∧ 3 ≤ (recentRestarts d).length then 5 else 3) ∧
          queue e 19 = [] ∧
          e.rails = d.rails) ∧
    (∀ (word : BitVec 24) (found : Found) (fore : Bool) (last : Bool) (q2 : BitVec 5) (k : BitVec 12),
      memOn d (.ring q2 k) = true →
      (fore = true ∨ bgMay 0 d = true) →
      found = .bad →
      Completes (.scrubAccess (.ring q2 k) word found fore last) q d (commonWith [.mode, .prev, .roofTime, .cycles, .core,
        .rails, .seq, .cl, .adc, .therm, .bg, .link, .vly, .gauge, .power, .otp, .log, .fw, .freeN]) none
        fun e => (12 ≤ q2.toNat ∨ queue e q2.toNat = []) ∧
          (q2.toNat < 12 ∨ 16 ≤ q2.toNat ∨ (ring e q2.toNat).words = (ring d q2.toNat).words.set k.toNat 0xFFFFFFFF#32) ∧
          (q2 ≠ 16#5 ∨ e.link.q16 = []) ∧
          (q2 ≠ 17#5 ∨ e.link.q17 = []) ∧
          ((q2 ≠ 18#5 ∧ q2 ≠ 19#5) ∨ queue e q2.toNat = []) ∧
          e.rails = d.rails) ∧
    (∀ (m : Mem) (word : BitVec 24) (found : Found) (fore : Bool) (last : Bool),
      memOn d m = true →
      (fore = true ∨ bgMay (if m = .control ∨ m = .shadow then 1 else 0) d = true) →
      m = .control →
      found = .bad →
      (heldTwice word.toNat = true ∨ (famOf? word.toNat).isNone) →
      Completes (.scrubAccess m word found fore last) q d (commonWith [.mode, .prev, .roofTime, .cycles, .core, .rails, .seq,
        .cl, .adc, .therm, .bg, .link, .vly, .gauge, .power, .otp, .log, .fw, .freeN]) none
        fun e => e.otp = d.otp ∧
          e.rails = d.rails ∧
          (word.toNat / 256 = 17 ∨ word.toNat / 256 = 26 ∨ word.toNat / 256 = 3 ∨ getW e word.toNat = getW d word.toNat)) ∧
    (∀ (m : Mem) (word : BitVec 24) (found : Found) (fore : Bool) (last : Bool),
      memOn d m = true →
      (fore = true ∨ bgMay (if m = .control ∨ m = .shadow then 1 else 0) d = true) →
      m = .control →
      found = .bad →
      heldTwice word.toNat = false →
      isReport word.toNat = false →
      word.toNat / 256 = 0x0D →
      (activeLoads d).filter (fun p => p.1 == word.toNat) = [] →
      Completes (.scrubAccess m word found fore last) q d (commonWith [.mode, .prev, .roofTime, .cycles, .core, .rails, .seq,
        .cl, .adc, .therm, .bg, .link, .vly, .gauge, .power, .otp, .log, .fw, .freeN]) none
        fun e => ((famOf? word.toNat).isNone ∨ getW e word.toNat = resetWord word.toNat) ∧
          e.rails = d.rails) ∧
    (∀ (m : Mem) (word : BitVec 24) (found : Found) (fore : Bool) (last : Bool),
      memOn d m = true →
      (fore = true ∨ bgMay (if m = .control ∨ m = .shadow then 1 else 0) d = true) →
      m = .tcu →
      found = .bad →
      purlinRuns d = true →
      flag d W.MODE_STATUS_ADOPTING = false →
      Completes (.scrubAccess m word found fore last) q d (commonWith [.mode, .prev, .roofTime, .cycles, .core, .rails, .seq,
        .cl, .adc, .therm, .bg, .link, .vly, .gauge, .power, .otp, .log, .fw, .freeN]) none
        fun e => e.mode = .boot ∧
          flag e W.RESET_CAUSE_PURLIN_WDT = true ∧
          (d.mode = .boot ∨ d.mode = .replay ∨ flag e W.MODE_STATUS_ADOPTING = true) ∧
          (d.mode = .boot ∨ d.mode = .replay ∨ e.core.recMode = d.mode)) ∧
    (∀ (m : Mem) (word : BitVec 24) (found : Found) (fore : Bool) (last : Bool),
      memOn d m = true →
      (fore = true ∨ bgMay (if m = .control ∨ m = .shadow then 1 else 0) d = true) →
      m = .control →
      found = .copies →
      heldTwice word.toNat = true →
      purlinRuns d = true →
      Completes (.scrubAccess m word found fore last) q d (commonWith [.mode, .prev, .roofTime, .cycles, .core, .rails, .seq,
        .cl, .adc, .therm, .bg, .link, .vly, .gauge, .power, .otp, .log, .fw, .freeN]) none
        fun e => e.mode = .boot ∧
          flag e W.RESET_CAUSE_PURLIN_WDT = true ∧
          e.core.wdtReset = true ∧
          d.fw.kickAt + 800000 ≤ e.roofTime) ∧
    (∀ (m : Mem) (word : BitVec 24) (found : Found) (fore : Bool) (last : Bool),
      memOn d m = true →
      (fore = true ∨ bgMay (if m = .control ∨ m = .shadow then 1 else 0) d = true) →
      found = .copies →
      (m ≠ .control ∨ heldTwice word.toNat = false ∨ purlinRuns d = false) →
      Completes (.scrubAccess m word found fore last) q d (commonWith [.mode, .prev, .roofTime, .cycles, .core, .rails, .seq,
        .cl, .adc, .therm, .bg, .link, .vly, .gauge, .power, .otp, .log, .fw, .freeN]) none
        fun e => e.mode = d.mode ∧
          e.rails = d.rails ∧
          getW e W.BG_ECC = getW d W.BG_ECC) ∧
    (∀ (m : Mem) (word : BitVec 24) (found : Found) (fore : Bool) (last : Bool),
      (memOn d m = false ∨ (fore = false ∧ bgMay (if m = .control ∨ m = .shadow then 1 else 0) d = false)) →
      Completes (.scrubAccess m word found fore last) q d (commonWith [.mode, .prev, .roofTime, .cycles, .core, .rails, .seq,
        .cl, .adc, .therm, .bg, .link, .vly, .gauge, .power, .otp, .log, .fw, .freeN]) none
        fun e => e = d) ∧
    (fld d W.BG_CTRL_TLM_PERIOD ≠ 0 →
      thatchReady d = true →
      acuOn d = true →
      bgMay 4 d = true →
      Completes .telemetryRecord q d (commonWith [.roofTime, .cycles, .bg, .log, .freeN]) (eventsWith [W.BG_STATUS])
        fun e => e.bg.tlmSeq = d.bg.tlmSeq + 1 ∧
          e.roofTime = max d.roofTime (d.bg.tlmFrom + fld d W.BG_CTRL_TLM_PERIOD * 1000000) ∧
          e.bg.tlmFrom = e.roofTime ∧
          (ringRoom d 15 < 37 ∨ (ring e 15).words = (ring d 15).words ++ telemetryWords d) ∧
          (37 ≤ ringRoom d 15 ∨ ((ring e 15).words = (ring d 15).words ∧ maskBit e W.HP_RING_OVF 2 = true)) ∧
          e.log.telemetry = (if flag d W.BG_CTRL_TLM_FLASH ∧ d.bg.tlmSeq % 100 = 0 then telemetryWords d :: d.log.telemetry
            else d.log.telemetry) ∧
          e.rails = d.rails) ∧
    ((fld d W.BG_CTRL_TLM_PERIOD = 0 ∨ thatchReady d = false ∨ acuOn d = false ∨ bgMay 4 d = false) →
      Completes .telemetryRecord q d (commonWith [.roofTime, .cycles, .bg, .log, .freeN]) (eventsWith [W.BG_STATUS])
        fun e => e = d)

/-- The oldest snapshot is sealed with RCRC and COMMIT, becomes the record of its sequence number, and leaves the waiting
buffers, once the log has been scanned and with no abandoned record ahead. A write abandoned at a low HOLD is counted and
rewritten later with REWRITTEN set, which raises its event. A sector of only superseded records, the least worn, is erased:
its records are gone and its erase count rises, and at 100,000 it is retired; not in HOLDUP or DESCEND, nor while the task is
paused. GUT_BUF fills with the record that GUT_SEL names, FOUND set, or stays as it is. In the other states, and with PD_TCU
off, nothing happens. -/
def Obligations.GutterLogComplete : Prop :=
  ∀ (q : List Instr) (d : Device), canonical d = true →
    (∀ (ws : List Word) (t : List (List Word)),
      tcuOn d = true →
      d.log.scanned = true →
      d.log.abandoned = none →
      d.log.waiting = ws :: t →
      Completes .gutterWrite q d [.words, .ev, .perf, .log, .freeN] (some [W.BG_WEAR, W.PC_OVF, W.GUT_STATUS, W.GUT_SEQ])
        fun e => SMap.get (fun _ => []) e.log.records (ws.getD 1 0#32).toNat = sealRecord ws ∧
          e.log.waiting = t ∧
          getW e W.GUT_SEQ = ws.getD 1 0#32 ∧
          fld e W.GUT_STATUS_PENDING = t.length % 16 ∧
          fld e W.GUT_STATUS_RECORDS = min e.log.records.length 4096) ∧
    ((tcuOn d = false ∨ d.log.scanned = false ∨ d.log.abandoned ≠ none ∨ d.log.waiting = []) →
      Completes .gutterWrite q d [.words, .ev, .perf, .log, .freeN] (some [W.BG_WEAR, W.PC_OVF, W.GUT_STATUS, W.GUT_SEQ])
        fun e => e = d) ∧
    (∀ (ws : List Word) (t : List (List Word)),
      tcuOn d = true →
      d.log.scanned = true →
      d.log.abandoned = none →
      aboveReserve d = false →
      d.log.waiting = ws :: t →
      Completes .gutAbandoned q d [.words, .log] (some [W.BG_WEAR, W.GUT_STATUS, W.GUT_CNT])
        fun e => e.log.abandoned = some ws ∧
          e.log.waiting = t ∧
          e.log.records = d.log.records ∧
          fld e W.GUT_CNT_ABANDONED = min (fld d W.GUT_CNT_ABANDONED + 1) 65535) ∧
    ((tcuOn d = false ∨ d.log.scanned = false ∨ d.log.abandoned ≠ none ∨ aboveReserve d = true ∨ d.log.waiting = []) →
      Completes .gutAbandoned q d [.words, .log] (some [W.BG_WEAR, W.GUT_STATUS, W.GUT_CNT])
        fun e => e = d) ∧
    (∀ (ws : List Word),
      tcuOn d = true →
      d.log.abandoned = some ws →
      Completes .gutterRewrite q d (commonWith [.log]) (eventsWith [W.BG_WEAR, W.GUT_STATUS, W.GUT_SEQ])
        fun e => SMap.get (fun _ => []) e.log.records ((rewritten ws).getD 1 0#32).toNat = sealRecord (rewritten ws) ∧
          e.log.abandoned = none ∧
          raised 838 d e = true) ∧
    ((tcuOn d = false ∨ d.log.abandoned = none) →
      Completes .gutterRewrite q d (commonWith [.log]) (eventsWith [W.BG_WEAR, W.GUT_STATUS, W.GUT_SEQ])
        fun e => e = d) ∧
    (∀ (s : Nat),
      tcuOn d = true →
      bgMay 3 d = true →
      inMode d [.holdup, .descend] = false →
      leastWorn (fun x => x.used ≠ 0 && x.seqs.all (supersededSeq d)) d = some s →
      Completes .sectorErase q d [.words, .ev, .perf, .log, .freeN] (some [W.BG_STATUS, W.BG_WEAR, W.PC_OVF, W.GUT_STATUS])
        fun e => (sector e s).used = 0 ∧
          (sector e s).erases = (sector d s).erases + 1 ∧
          (sector e s).retired = decide (100000 ≤ (sector d s).erases + 1) ∧
          e.log.records = d.log.records.filter (fun p => !(sector d s).seqs.contains p.1)) ∧
    ((tcuOn d = false ∨ bgMay 3 d = false ∨ inMode d [.holdup, .descend] = true ∨ leastWorn (fun x => x.used ≠ 0 &&
      x.seqs.all (supersededSeq d)) d = none) →
      Completes .sectorErase q d [.words, .ev, .perf, .log, .freeN] (some [W.BG_STATUS, W.BG_WEAR, W.PC_OVF, W.GUT_STATUS])
        fun e => e = d) ∧
    (∀ (k : Fin 64),
      flag d W.GUT_BUF_STATUS_LOADING = true →
      SMap.get (fun _ => []) d.log.records (getW d W.GUT_SEL).toNat ≠ [] →
      Completes .gutBufFilled q d [.words] (some [W.GUT_BUF_STATUS, W.GUT_BUF])
        fun e => getW e (W.GUT_BUF + k) = (SMap.get (fun _ => []) d.log.records (getW d W.GUT_SEL).toNat).getD k 0#32 ∧
          flag e W.GUT_BUF_STATUS_FOUND = true ∧
          flag e W.GUT_BUF_STATUS_LOADING = false) ∧
    (∀ (k : Fin 64),
      flag d W.GUT_BUF_STATUS_LOADING = true →
      SMap.get (fun _ => []) d.log.records (getW d W.GUT_SEL).toNat = [] →
      Completes .gutBufFilled q d [.words] (some [W.GUT_BUF_STATUS, W.GUT_BUF])
        fun e => flag e W.GUT_BUF_STATUS_FOUND = flag d W.GUT_BUF_STATUS_FOUND ∧
          flag e W.GUT_BUF_STATUS_LOADING = false ∧
          getW e (W.GUT_BUF + k) = getW d (W.GUT_BUF + k)) ∧
    (flag d W.GUT_BUF_STATUS_LOADING = false →
      Completes .gutBufFilled q d [.words] (some [W.GUT_BUF_STATUS, W.GUT_BUF])
        fun e => e = d)

/-- TRACE_TRIGGER freezes a recording store with cause 0 and asks for its copy; in the wait after a trigger it is counted and
stays in progress until the freeze; it, TRACE_REARM and TRACE_STREAM complete with the status of the first check that fails.
POST milliseconds after a trigger the store freezes with its cause, takes TRC_FREEZE and raises TRC_FROZEN, and the copy of
TRC_CFG starts, waits for the slot's erase, or is not made. A copy that completes fills its slot with the capture and raises
its event, and AUTO_REARM records again. A slot erased is free again, and a copy that waited for it starts. A checkpoint of
the blocks of R571 enters the older area and restarts the period. A window of output changes gives its CRC-16, and the
hundredth the interval's CRC-32 and COVERAGE. TRACE_REARM of a frozen store records again, of another does nothing;
TRACE_STREAM answers the capture's words. Where there is nothing to freeze, to copy, to erase or to record, nothing happens.
-/
def Obligations.TraceStoreComplete : Prop :=
  ∀ (q : List Instr) (d : Device), canonical d = true →
    (∀ (rq : Req) (p0 : Word),
      engineOn d = true →
      firstFail [(bitsOf p0 31 2 = 0 && decide (bitsOf p0 1 0 ≠ 3), .badParam), (modeOk .live d, .deniedMode), (trcState d =
        1 || trcState d = 2, .busy), (bitsOf p0 1 0 = 0 || (slotOf d (bitsOf p0 1 0 - 1)).isNone, .busy)] = none →
      trcState d = 1 →
      Completes (.traceTrigger rq p0) q d (commonWith [.roofTime, .cycles, .log, .freeN]) (eventsWith [W.GUT_STATUS,
        W.GUT_CNT, W.TRC_STATUS, W.TRC_FREEZE])
        fun e => (bitsOf p0 1 0 = 0 → trcState e = 3) ∧
          (bitsOf p0 1 0 ≠ 0 → if capErasing d (bitsOf p0 1 0 - 1) = true ∨ acuOn d = false then trcState e = 3 ∧
            e.log.wantCopy = some (bitsOf p0 1 0 - 1) else trcState e = 4 ∧ e.log.copyTo = some (bitsOf p0 1 0 - 1)) ∧
          fld e W.TRC_STATUS_CAUSE = 0 ∧
          e.eng.issued.any (fun c => c.op == 0xB0) = false ∧
          raised 832 d e = true ∧
          getW e W.TRC_FREEZE = lowW e.roofTime) ∧
    (∀ (rq : Req) (p0 : Word),
      engineOn d = true →
      firstFail [(bitsOf p0 31 2 = 0 && decide (bitsOf p0 1 0 ≠ 3), .badParam), (modeOk .live d, .deniedMode), (trcState d =
        1 || trcState d = 2, .busy), (bitsOf p0 1 0 = 0 || (slotOf d (bitsOf p0 1 0 - 1)).isNone, .busy)] = none →
      trcState d = 2 →
      Completes (.traceTrigger rq p0) q d (commonWith [.roofTime, .cycles, .log, .freeN]) (eventsWith [W.GUT_STATUS,
        W.GUT_CNT, W.TRC_STATUS, W.TRC_FREEZE])
        fun e => e.eng.issued.any (fun c => c.id == d.eng.nextId && c.op == 0xB0) = true ∧
          fld e W.TRC_STATUS_TRIG_MISSED = min (fld d W.TRC_STATUS_TRIG_MISSED + 1) 255 ∧
          trcState e = 2 ∧
          e.log = d.log) ∧
    (∀ (rq : Req) (p0 : Word) (st : Status),
      engineOn d = true →
      firstFail [(bitsOf p0 31 2 = 0 && decide (bitsOf p0 1 0 ≠ 3), .badParam), (modeOk .live d, .deniedMode), (trcState d =
        1 || trcState d = 2, .busy), (bitsOf p0 1 0 = 0 || (slotOf d (bitsOf p0 1 0 - 1)).isNone, .busy)] = some st →
      Completes (.traceTrigger rq p0) q d (commonWith [.roofTime, .cycles, .log, .freeN]) (eventsWith [W.GUT_STATUS,
        W.GUT_CNT, W.TRC_STATUS, W.TRC_FREEZE])
        fun e => answered rq 0xB0 st 0#32 0#32 d e = true ∧
          e.log = d.log ∧
          trcState e = trcState d) ∧
    (trcState d = 2 →
      Completes .trcFrozen q d (commonWith [.roofTime, .cycles, .log, .freeN]) (eventsWith [W.GUT_STATUS, W.GUT_CNT,
        W.TRC_STATUS, W.TRC_FREEZE])
        fun e => (fld d W.TRC_CFG_COPY = 0 → trcState e = 3) ∧
          (fld d W.TRC_CFG_COPY ≠ 0 → copyChoice d (fld d W.TRC_CFG_COPY) = none → trcState e = 3 ∧ raised 834 d e = true) ∧
          (copyChoice d (fld d W.TRC_CFG_COPY)).all (fun s => if capErasing d s || !acuOn d then trcState e == 3 &&
            e.log.wantCopy == some s else if (slotOf d s).isSome then trcState e == 3 && raised 834 d e else trcState e == 4
            && e.log.copyTo == some s) = true ∧
          fld e W.TRC_STATUS_CAUSE = d.log.traceCause % 16 ∧
          getW e W.TRC_FREEZE = lowW (max d.roofTime (d.log.trigAt + fld d W.TRC_CFG_POST * 100000)) ∧
          e.eng.issued.any (fun c => c.op == 0xB0) = false ∧
          raised 832 d e = true) ∧
    (trcState d ≠ 2 →
      Completes .trcFrozen q d (commonWith [.roofTime, .cycles, .log, .freeN]) (eventsWith [W.GUT_STATUS, W.GUT_CNT,
        W.TRC_STATUS, W.TRC_FREEZE])
        fun e => e = d) ∧
    (∀ (more : BitVec 21) (k : Nat),
      trcState d = 4 →
      d.log.copyTo = some k →
      k < 2 →
      Completes (.trcCopied more) q d (commonWith [.log]) (eventsWith [W.TRC_STATUS, W.CAP_SLOT])
        fun e => slotOf e k = some (captureOf more.toNat d) ∧
          e.log.copyTo = none ∧
          flag e W.CAP_SLOT_VALID k = true ∧
          fld e W.CAP_SLOT_CAUSE k = fld d W.TRC_STATUS_CAUSE ∧
          flag e W.CAP_SLOT_REPLAYABLE k = ((captureOf more.toNat d).replayable && !capErasing d k) ∧
          raised 833 d e = true ∧
          trcState e = (if flag d W.TRC_CFG_AUTO_REARM then (if flag d W.TRC_CFG_TRC_EN ∧ acuOn d = true then 1 else 0) else
            3) ∧
          (flag d W.TRC_CFG_AUTO_REARM = false ∨ e.log.entries = [])) ∧
    (∀ (more : BitVec 21),
      (trcState d ≠ 4 ∨ d.log.copyTo = none) →
      Completes (.trcCopied more) q d (commonWith [.log]) (eventsWith [W.TRC_STATUS, W.CAP_SLOT])
        fun e => e = d) ∧
    (∀ (k : BitVec 1),
      capErasing d k.toNat = true →
      tcuOn d = true →
      Completes (.capFreed k) q d (commonWith [.log]) (eventsWith [W.TRC_STATUS, W.CAP_SLOT])
        fun e => capErasing e k.toNat = false ∧
          raised 835 d e = true ∧
          (d.log.wantCopy ≠ some k.toNat ∨ trcState d ≠ 3 ∨ acuOn d = false ∨ (slotOf d k.toNat).isSome ∨ (trcState e = 4 ∧
            e.log.copyTo = some k.toNat ∧ e.log.wantCopy = none)) ∧
          ((d.log.wantCopy = some k.toNat ∧ trcState d = 3) ∨ (e.log = d.log ∧ trcState e = trcState d))) ∧
    (∀ (k : BitVec 1),
      (capErasing d k.toNat = false ∨ tcuOn d = false) →
      Completes (.capFreed k) q d (commonWith [.log]) (eventsWith [W.TRC_STATUS, W.CAP_SLOT])
        fun e => e = d) ∧
    (recording d = true →
      Completes .traceCheckpoint q d [.words, .roofTime, .cycles, .ev, .perf, .log, .freeN] (some [W.PC_OVF])
        fun e => (areaOf e d.log.ckptArea).map (fun c => (c.cycle, c.blocks.map (fun b => b.ident))) = some (e.cycles,
          (List.range 30).map (fun k => 0x100 + k) ++ [0x200, 0x300, 0x301, 0x302, 0x400] ++ (List.range 11).map (fun k =>
          0x500 + k) ++ [0x600, 0x700]) ∧
          areaOf e (d.log.ckptArea + 1) = areaOf d (d.log.ckptArea + 1) ∧
          e.log.ckptArea = 1 - d.log.ckptArea ∧
          d.cycles ≤ e.cycles) ∧
    (recording d = false →
      Completes .traceCheckpoint q d [.words, .roofTime, .cycles, .ev, .perf, .log, .freeN] (some [W.PC_OVF])
        fun e => e = d) ∧
    (∀ (changes : List (BitVec 16 × BitVec 10 × Word)),
      recording d = true →
      Completes (.outputDigestRecord changes) q d [.words, .roofTime, .cycles, .ev, .perf, .log, .freeN] (some [W.PC_OVF,
        W.TRC_STATUS])
        fun e => e.log.winDigest = crc16 (changes.flatMap changeBytes) ∧
          (99 ≤ d.log.windows ∨ e.log.bytes = d.log.bytes ++ changes.flatMap changeBytes) ∧
          (99 ≤ d.log.windows ∨ e.log.windows = d.log.windows + 1) ∧
          (d.log.windows < 99 ∨ e.log.intDigest = crc32 (d.log.bytes ++ changes.flatMap changeBytes)) ∧
          (d.log.windows < 99 ∨ (e.log.windows = 0 ∧ e.log.bytes = [])) ∧
          (d.log.windows < 99 ∨ fld e W.TRC_STATUS_COVERAGE ≤ coverageMax e) ∧
          d.roofTime / 1000 * 1000 + 1000 = e.roofTime) ∧
    (∀ (changes : List (BitVec 16 × BitVec 10 × Word)),
      recording d = false →
      Completes (.outputDigestRecord changes) q d [.words, .roofTime, .cycles, .ev, .perf, .log, .freeN] (some [W.PC_OVF,
        W.TRC_STATUS])
        fun e => e = d) ∧
    (∀ (rq : Req),
      engineOn d = true →
      firstFail [(modeOk .live d, .deniedMode), (trcState d ≠ 4 && !streaming d, .busy)] = none →
      Completes (.traceRearm rq) q d (commonWith [.log]) (eventsWith [W.TRC_STATUS])
        fun e => trcState e = (if trcState d = 3 then (if flag d W.TRC_CFG_TRC_EN ∧ acuOn d = true then 1 else 0) else
          trcState d) ∧
          (trcState d = 3 ∨ e.log = d.log) ∧
          (trcState d ≠ 3 ∨ (e.log.entries = [] ∧ areaOf e 0 = none ∧ areaOf e 1 = none)) ∧
          answered rq 0xB1 .ok 0#32 0#32 d e = true) ∧
    (∀ (rq : Req) (st : Status),
      engineOn d = true →
      firstFail [(modeOk .live d, .deniedMode), (trcState d ≠ 4 && !streaming d, .busy)] = some st →
      Completes (.traceRearm rq) q d (commonWith [.log]) (eventsWith [W.TRC_STATUS])
        fun e => answered rq 0xB1 st 0#32 0#32 d e = true ∧
          e.log = d.log ∧
          trcState e = trcState d) ∧
    (∀ (rq : Req) (p0 : Word) (x : Capture),
      engineOn d = true →
      modeOk .live d = true →
      bitsOf p0 31 1 = 0 →
      slotOf d (bitsOf p0 0 0) = some x →
      Completes (.traceStream rq p0) q d (commonWith [.log]) (some eventTables)
        fun e => answered rq 0xB2 .ok (BitVec.ofNat 32 (x.length / 4)) 0#32 d e = true ∧
          e.log.streamTo = max d.log.streamTo (d.roofTime + (x.length + 8) * 4) ∧
          e.log.slots = d.log.slots) ∧
    (∀ (rq : Req) (p0 : Word) (st : Status),
      engineOn d = true →
      firstFail [(bitsOf p0 31 1 = 0 && (slotOf d (bitsOf p0 0 0)).isSome, .badParam), (modeOk .live d, .deniedMode)] = some
        st →
      Completes (.traceStream rq p0) q d (commonWith [.log]) (some eventTables)
        fun e => answered rq 0xB2 st 0#32 0#32 d e = true ∧
          e.log = d.log)

/-- A digest that agrees moves the replay on, and at the end of an interval counts it; one that differs ends it DIVERGED, with
the divergence cycle in RPL_DIV and INPUT_SUB, and raises REPLAY_DIVERGED; the stream's end without a mismatch ends it MATCHED
and raises REPLAY_DONE. Outside a replay in progress nothing is compared and none ends. -/
def Obligations.ReplayComplete : Prop :=
  ∀ (q : List Instr) (d : Device), canonical d = true →
    (∀ (same : Bool) (interval : Bool) (cycle : BitVec 64) (sub : Bool),
      d.mode = .replay →
      (rplState d = 1 ∨ rplState d = 2) →
      same = true →
      Completes (.replayDigest same interval cycle sub) q d common (eventsWith [W.RPL_STATUS, W.RPL_DIV])
        fun e => rplState e = 2 ∧
          fld e W.RPL_STATUS_INTERVALS = (if interval then min (fld d W.RPL_STATUS_INTERVALS + 1) 65535 else fld d
            W.RPL_STATUS_INTERVALS) ∧
          e.log = d.log) ∧
    (∀ (same : Bool) (interval : Bool) (cycle : BitVec 64) (sub : Bool),
      d.mode = .replay →
      (rplState d = 1 ∨ rplState d = 2) →
      same = false →
      Completes (.replayDigest same interval cycle sub) q d common (eventsWith [W.RPL_STATUS, W.RPL_DIV])
        fun e => rplState e = 3 ∧
          getW e W.RPL_DIV = BitVec.ofNat 32 (cycle.toNat % 2 ^ 32) ∧
          getW e (W.RPL_DIV + 1) = BitVec.ofNat 32 (cycle.toNat / 2 ^ 32) ∧
          flag e W.RPL_STATUS_INPUT_SUB = sub ∧
          raised 837 d e = true) ∧
    (∀ (same : Bool) (interval : Bool) (cycle : BitVec 64) (sub : Bool),
      (d.mode ≠ .replay ∨ (rplState d ≠ 1 ∧ rplState d ≠ 2)) →
      Completes (.replayDigest same interval cycle sub) q d common (eventsWith [W.RPL_STATUS, W.RPL_DIV])
        fun e => e = d) ∧
    (d.mode = .replay →
      (rplState d = 1 ∨ rplState d = 2) →
      Completes .rplDone q d common (eventsWith [W.RPL_STATUS])
        fun e => rplState e = 4 ∧
          raised 836 d e = true ∧
          e.mode = .replay) ∧
    ((d.mode ≠ .replay ∨ (rplState d ≠ 1 ∧ rplState d ≠ 2)) →
      Completes .rplDone q d common (eventsWith [W.RPL_STATUS])
        fun e => e = d)

/-- CNT_SNAPSHOT writes a dump record into Q15 and answers its index, answers the index of the periodic record of the same
cycle where there is one, or completes BUSY without one when Q15 has no room. CNT_CLEAR sets the masked counters to zero and
no other (an enabled counter counts on from there). Each completes with the status of the first check that fails. A sampled
packet's entry enters the buffer, or is lost and counted when 256 are held. A drain moves up to 16 entries into a record of
Q15, at once when 16 are held and else 1 ms after the oldest arrived; without room or permission they stay. A dump period
writes a dump record, or counts one dropped, or leaves it to the snapshot of the same cycle; without a period there is none.
-/
def Obligations.CountersComplete : Prop :=
  ∀ (q : List Instr) (d : Device), canonical d = true →
    (∀ (rq : Req),
      engineOn d = true →
      modeOk .live d = true →
      perfOpen d = true →
      dumpedNow d = none →
      131 ≤ ringRoom d 15 →
      Completes (.cntSnapshot rq) q d (commonWith [.freeN]) (eventsWith [W.PC_STATUS])
        fun e => (ring e 15).words.take ((ring d 15).words.length + 131) = (ring d 15).words ++ dumpWords (begun d) ∧
          e.perf.dumpSeq = (d.perf.dumpSeq + 1) % 65536 ∧
          e.perf.snapC = some d.cycles ∧
          answered rq 0xB3 .ok (BitVec.ofNat 32 (ring d 15).wr) 0#32 d e = true ∧
          raised 867 d e = true) ∧
    (∀ (rq : Req),
      engineOn d = true →
      modeOk .live d = true →
      perfOpen d = true →
      dumpedNow d = none →
      ringRoom d 15 < 131 →
      Completes (.cntSnapshot rq) q d (commonWith [.freeN]) (eventsWith [W.PC_STATUS])
        fun e => (ring e 15).words = (ring d 15).words ∧
          answered rq 0xB3 .busy 0#32 0#32 d e = true ∧
          fld e W.PC_STATUS_DUMP_DROPPED = min (fld d W.PC_STATUS_DUMP_DROPPED + 1) (Fld.top W.PC_STATUS_DUMP_DROPPED) ∧
          raised 866 d e = true) ∧
    (∀ (rq : Req) (i : Nat),
      engineOn d = true →
      modeOk .live d = true →
      perfOpen d = true →
      dumpedNow d = some i →
      Completes (.cntSnapshot rq) q d (commonWith [.freeN]) (eventsWith [W.PC_STATUS])
        fun e => (ring e 15).words = (ring d 15).words ∧
          answered rq 0xB3 .ok (BitVec.ofNat 32 i) 0#32 d e = true ∧
          e.perf.dumpSeq = d.perf.dumpSeq) ∧
    (∀ (rq : Req) (st : Status),
      engineOn d = true →
      firstFail [(modeOk .live d, .deniedMode), (perfOpen d, .deniedPermission)] = some st →
      Completes (.cntSnapshot rq) q d (commonWith [.freeN]) (eventsWith [W.PC_STATUS])
        fun e => answered rq 0xB3 st 0#32 0#32 d e = true ∧
          (ring e 15).words = (ring d 15).words ∧
          e.perf.dumpSeq = d.perf.dumpSeq) ∧
    (∀ (rq : Req) (p0 : Word) (p1 : Word) (k : Fin 64),
      engineOn d = true →
      modeOk .live d = true →
      (rq.src = .thatch ∨ perfOpen d = true) →
      Completes (.cntClear rq p0 p1) q d common (some eventTables)
        fun e => answered rq 0xB4 .ok 0#32 0#32 d e = true ∧
          (bitOf (getW d (W.PC_CTRL + k)) 31 = true ∨ SMap.get (fun _ => 0) e.perf.counters k =
      if (p0.toNat + p1.toNat * 2 ^ 32).testBit k then 0 else SMap.get (fun _ => 0) d.perf.counters k)) ∧
    (∀ (rq : Req) (p0 : Word) (p1 : Word) (st : Status) (k : Fin 64),
      engineOn d = true →
      firstFail [(modeOk .live d, .deniedMode), (rq.src == .thatch || perfOpen d, .deniedPermission)] = some st →
      Completes (.cntClear rq p0 p1) q d common (some eventTables)
        fun e => answered rq 0xB4 st 0#32 0#32 d e = true ∧
          (bitOf (getW d (W.PC_CTRL + k)) 31 = true ∨ SMap.get (fun _ => 0) e.perf.counters k = SMap.get (fun _ => 0)
            d.perf.counters k)) ∧
    (∀ (x : List Word) (t : List (List Word)),
      d.perf.due = x :: t →
      d.perf.buf.length < 256 →
      Completes .sampleEntry q d common (eventsWith [W.PC_STATUS])
        fun e => e.perf.buf = d.perf.buf ++ [(d.roofTime, x)] ∧
          e.perf.due = t) ∧
    (∀ (x : List Word) (t : List (List Word)),
      d.perf.due = x :: t →
      256 ≤ d.perf.buf.length →
      Completes .sampleEntry q d common (eventsWith [W.PC_STATUS])
        fun e => e.perf.buf = d.perf.buf ∧
          e.perf.due = t ∧
          fld e W.PC_STATUS_SMP_LOST = min (fld d W.PC_STATUS_SMP_LOST + 1) (Fld.top W.PC_STATUS_SMP_LOST) ∧
          raised 865 d e = true) ∧
    (d.perf.due = [] →
      Completes .sampleEntry q d common (eventsWith [W.PC_STATUS])
        fun e => e = d) ∧
    (∀ (t : Nat) (x : List Word) (r : List (Nat × List Word)),
      d.perf.buf = (t, x) :: r →
      perfOpen d = true →
      ((d.perf.buf.take 16).flatMap (fun y => y.2)).length + 1 ≤ ringRoom d 15 →
      Completes .sampleDrain q d (commonWith [.roofTime, .cycles]) (some eventTables)
        fun e => e.perf.buf = d.perf.buf.drop 16 ∧
          e.perf.smpSeq = (d.perf.smpSeq + 1) % 65536 ∧
          (ring e 15).words.drop ((ring d 15).words.length + 1) = (d.perf.buf.take 16).flatMap (fun y => y.2) ∧
          e.roofTime = (if 16 ≤ d.perf.buf.length then d.roofTime else max d.roofTime (t + 100000))) ∧
    (∀ (t : Nat) (x : List Word) (r : List (Nat × List Word)),
      d.perf.buf = (t, x) :: r →
      (perfOpen d = false ∨ ringRoom d 15 < ((d.perf.buf.take 16).flatMap (fun y => y.2)).length + 1) →
      Completes .sampleDrain q d (commonWith [.roofTime, .cycles]) (some eventTables)
        fun e => e.perf.buf = d.perf.buf ∧
          e.perf.smpSeq = d.perf.smpSeq ∧
          (ring e 15).words = (ring d 15).words) ∧
    (d.perf.buf = [] →
      Completes .sampleDrain q d (commonWith [.roofTime, .cycles]) (some eventTables)
        fun e => e = d) ∧
    (∀ (s : Bool),
      0 < fld d W.PC_DUMP_DUMP_PERIOD →
      engineOn d = true →
      perfOpen d = true →
      s = (d.perf.snapC == some (advanceTo (d.perf.dumpFrom + fld d W.PC_DUMP_DUMP_PERIOD * 10000) d).cycles) →
      Completes .counterDump q d (commonWith [.roofTime, .cycles]) (eventsWith [W.PC_STATUS])
        fun e => (s = true ∨ ringRoom d 15 < 131 ∨ (ring e 15).words.length = (ring d 15).words.length + 131) ∧
          (s = true ∨ ringRoom d 15 < 131 ∨ raised 867 d e = true) ∧
          (s = true ∨ 131 ≤ ringRoom d 15 ∨ (raised 866 d e = true ∧ fld e W.PC_STATUS_DUMP_DROPPED = min (fld d
            W.PC_STATUS_DUMP_DROPPED + 1) (Fld.top W.PC_STATUS_DUMP_DROPPED))) ∧
          (s = false ∨ e.perf.dumpSeq = d.perf.dumpSeq) ∧
          e.perf.dumpFrom = e.roofTime ∧
          e.roofTime = max d.roofTime (d.perf.dumpFrom + fld d W.PC_DUMP_DUMP_PERIOD * 10000)) ∧
    (0 < fld d W.PC_DUMP_DUMP_PERIOD →
      engineOn d = true →
      perfOpen d = false →
      Completes .counterDump q d (commonWith [.roofTime, .cycles]) (eventsWith [W.PC_STATUS])
        fun e => (ring e 15).words = (ring d 15).words ∧
          e.perf.dumpSeq = d.perf.dumpSeq ∧
          e.perf.dumpFrom = e.roofTime) ∧
    ((fld d W.PC_DUMP_DUMP_PERIOD = 0 ∨ engineOn d = false) →
      Completes .counterDump q d (commonWith [.roofTime, .cycles]) (eventsWith [W.PC_STATUS])
        fun e => e = d)

/-- A reference that meets its test is taken, XTAL_OK and REF_ACTIVE with it; one that stops is left for the internal
oscillator, REF_LOST set and its source raised; with REF_AUTO it is taken back. The loss of the PLL clears PLL_LOCKED, sets
PLL_LOSS and stops the clocks with the keeper holding the rails. A count of CK_LPO outside its range sets LPO_BAD and raises
LPO_FAULT; one inside clears it. Where the PLL does not run, or there is no reference to take or to lose, nothing changes. -/
def Obligations.ClocksComplete : Prop :=
  ∀ (q : List Instr) (d : Device), canonical d = true →
    (pllRuns d = true →
      fld d W.CLK_CFG_REF_SEL ≠ 0 →
      fld d W.CLK_STATUS_REF_ACTIVE = 0 →
      3 ≤ bootStage d →
      d.core.refLost = false →
      Completes .xtalOk q d [.words] (some [W.CLK_STATUS])
        fun e => flag e W.CLK_STATUS_XTAL_OK = true ∧
          fld e W.CLK_STATUS_REF_ACTIVE = fld d W.CLK_CFG_REF_SEL) ∧
    ((pllRuns d = false ∨ fld d W.CLK_CFG_REF_SEL = 0 ∨ fld d W.CLK_STATUS_REF_ACTIVE ≠ 0 ∨ bootStage d < 3 ∨ d.core.refLost
      = true) →
      Completes .xtalOk q d [.words] (some [W.CLK_STATUS])
        fun e => e = d) ∧
    (pllRuns d = true →
      fld d W.CLK_STATUS_REF_ACTIVE ≠ 0 →
      Completes .refLost q d (commonWith [.core]) (eventsWith [W.CLK_STATUS])
        fun e => fld e W.CLK_STATUS_REF_ACTIVE = 0 ∧
          flag e W.CLK_STATUS_XTAL_OK = false ∧
          flag e W.CLK_STATUS_REF_LOST = true ∧
          e.core.refLost = true ∧
          raised 755 d e = true ∧
          flag e W.CLK_STATUS_PLL_LOCKED = true) ∧
    ((pllRuns d = false ∨ fld d W.CLK_STATUS_REF_ACTIVE = 0) →
      Completes .refLost q d (commonWith [.core]) (eventsWith [W.CLK_STATUS])
        fun e => e = d) ∧
    (pllRuns d = true →
      d.core.refLost = true →
      flag d W.CLK_CFG_REF_AUTO = true →
      fld d W.CLK_CFG_REF_SEL ≠ 0 →
      Completes .refRestored q d (commonWith [.core]) (eventsWith [W.CLK_STATUS])
        fun e => fld e W.CLK_STATUS_REF_ACTIVE = fld d W.CLK_CFG_REF_SEL ∧
          flag e W.CLK_STATUS_XTAL_OK = true ∧
          e.core.refLost = false ∧
          raised 756 d e = true) ∧
    ((pllRuns d = false ∨ d.core.refLost = false ∨ flag d W.CLK_CFG_REF_AUTO = false ∨ fld d W.CLK_CFG_REF_SEL = 0) →
      Completes .refRestored q d (commonWith [.core]) (eventsWith [W.CLK_STATUS])
        fun e => e = d) ∧
    (∀ (n : Fin 32),
      flag d W.CLK_STATUS_PLL_LOCKED = true →
      inMode d [.dormant, .standby] = false →
      d.core.porHeld = false →
      d.core.hardHeld = false →
      Completes .pllLoss q d [.words, .core, .rails] (some [W.CLK_STATUS])
        fun e => flag e W.CLK_STATUS_PLL_LOCKED = false ∧
          flag e W.CLK_STATUS_PLL_LOSS = true ∧
          e.core.clocksOff = true ∧
          (flag d W.MODE_STATUS_ADOPTING = true ∨ d.core.clocksOff = true ∨ e.core.recMode = d.mode) ∧
          (rail e n).enabled = (rail d n).enabled ∧
          (flag d W.MODE_STATUS_ADOPTING = true ∨ d.core.clocksOff = true ∨ (rail e n).held = (rail d n).enabled) ∧
          e.roofTime = d.roofTime) ∧
    ((flag d W.CLK_STATUS_PLL_LOCKED = false ∨ inMode d [.dormant, .standby] = true ∨ d.core.porHeld = true ∨ d.core.hardHeld
      = true) →
      Completes .pllLoss q d [.words, .core, .rails] (some [W.CLK_STATUS])
        fun e => e = d) ∧
    (pllRuns d = true →
      Completes .lpoFault q d common (eventsWith [W.CLK_STATUS])
        fun e => flag e W.CLK_STATUS_LPO_BAD = true ∧
          raised 758 d e = true) ∧
    (pllRuns d = false →
      Completes .lpoFault q d common (eventsWith [W.CLK_STATUS])
        fun e => e = d) ∧
    (pllRuns d = true →
      Completes .lpoBadClear q d [.words] (some [W.CLK_STATUS])
        fun e => flag e W.CLK_STATUS_LPO_BAD = false ∧
          flag e W.CLK_STATUS_PLL_LOCKED = true) ∧
    (pllRuns d = false →
      Completes .lpoBadClear q d [.words] (some [W.CLK_STATUS])
        fun e => e = d)

/-- A POWER-ON reset leaves the block in BOOT at stage 0 with no rail, empty queues and the reset held until its release,
which samples the straps; bits of OTP stay or, in the word being programmed, are blown; flash stays. In DORMANT it is the
wake, and a falling HOLD does nothing. A HARD reset, by nRST, the watchdog, lockstep or RESET_HARD, sets its flag, enters BOOT
with ADOPTING set, and the keeper holds every enabled rail where it stands, or goes on holding what it holds; in STANDBY nRST
wakes; in DORMANT and under a reset that holds it leaves mode and rails alone. A keeper trip turns every rail off. RESET_SOFT
empties the queues of the host and the pending events, keeps mode and rails, and ends after 200 us. RESET_HARD and RESET_SOFT
complete with the status of the first check that fails. -/
def Obligations.ResetsComplete : Prop :=
  ∀ (q : List Instr) (d : Device), canonical d = true →
    (∀ (bkCold : Bool) (k : Fin 1024),
      d.mode ≠ .dormant →
      Completes (.powerOnReset bkCold) q d (commonWith [.mode, .prev, .roofTime, .cycles, .core, .rails, .seq, .cl, .adc,
        .therm, .bg, .link, .vly, .gauge, .power, .rtc, .otp, .log, .fw, .freeN]) none
        fun e => e.mode = .boot ∧
          e.rails = [] ∧
          e.eng = {} ∧
          e.core = { porHeld := true } ∧
          e.roofTime = 0 ∧
          fld e W.MODE_STATUS_BOOT_STAGE = 0 ∧
          flag e W.RESET_CAUSE_POR = true ∧
          flag e W.RESET_CAUSE_UVLO = (d.core.porHeld && flag d W.RESET_CAUSE_UVLO) ∧
          SMap.get (fun _ => 0) e.otp.array k ||| SMap.get (fun _ => 0) d.otp.array k = SMap.get (fun _ => 0) e.otp.array k ∧
          (d.otp.line = [] → SMap.get (fun _ => 0) e.otp.array k = SMap.get (fun _ => 0) d.otp.array k) ∧
          e.log.records = d.log.records ∧
          (bkCold = true ∨ getW e W.RTC_TIME = getW d W.RTC_TIME)) ∧
    (∀ (bkCold : Bool),
      d.mode = .dormant →
      Completes (.powerOnReset bkCold) q d (commonWith [.mode, .prev, .roofTime, .cycles, .core, .rails, .seq, .cl, .adc,
        .therm, .bg, .link, .vly, .gauge, .power, .rtc, .otp, .log, .fw, .freeN]) none
        fun e => e.mode = .boot ∧
          flag e W.RESET_CAUSE_DORMANT_WAKE = true ∧
          e.rails = [] ∧
          (bkCold = true ∨ getW e W.RTC_TIME = getW d W.RTC_TIME) ∧
          fld e W.CHG_STATUS_CHG_STATE = 1 ∧
          e.core = { porHeld := true }) ∧
    (∀ (samples : List (BitVec 3)) (testEn : Bool),
      d.core.porHeld = true →
      d.core.testMode = false →
      Completes (.porRelease samples testEn) q d [.core] (some [])
        fun e => e.core.porHeld = testEn ∧
          e.core.testMode = testEn ∧
          e.core.strap = strapBits samples ∧
          e.words = d.words) ∧
    (∀ (samples : List (BitVec 3)) (testEn : Bool),
      (d.core.porHeld = false ∨ d.core.testMode = true) →
      Completes (.porRelease samples testEn) q d [.core] (some [])
        fun e => e = d) ∧
    (d.mode ≠ .dormant →
      Completes .uvlo q d (commonWith [.mode, .prev, .roofTime, .cycles, .core, .rails, .seq, .cl, .adc, .therm, .bg, .link,
        .vly, .gauge, .power, .rtc, .otp, .log, .fw, .freeN]) none
        fun e => e.mode = .boot ∧
          e.rails = [] ∧
          flag e W.RESET_CAUSE_UVLO = true ∧
          flag e W.RESET_CAUSE_POR = true ∧
          e.core.porHeld = true ∧
          e.eng = {}) ∧
    (d.mode = .dormant →
      Completes .uvlo q d (commonWith [.mode, .prev, .roofTime, .cycles, .core, .rails, .seq, .cl, .adc, .therm, .bg, .link,
        .vly, .gauge, .power, .rtc, .otp, .log, .fw, .freeN]) none
        fun e => e = d) ∧
    (∀ (n : Fin 32),
      inMode d [.dormant, .standby] = false →
      d.core.porHeld = false →
      d.core.hardHeld = false →
      Completes .nrst q d (commonWith [.mode, .prev, .roofTime, .core, .rails, .seq, .cl, .adc, .therm, .bg, .link, .vly,
        .gauge, .power, .otp, .log, .fw, .freeN]) none
        fun e => e.mode = .boot ∧
          fld e W.MODE_STATUS_BOOT_STAGE = 0 ∧
          flag e W.MODE_STATUS_ADOPTING = true ∧
          e.core.recMode = (if flag d W.MODE_STATUS_ADOPTING || d.core.clocksOff then d.core.recMode else d.mode) ∧
          fld e W.ADOPT_STATUS_KEEPER_MODE = e.core.recMode.code ∧
          (rail e n).enabled = (rail d n).enabled ∧
          (rail e n).held = (if flag d W.MODE_STATUS_ADOPTING || d.core.clocksOff then (rail d n).held else (rail d
            n).enabled) ∧
          e.eng = {} ∧
          e.rtc = d.rtc ∧
          e.core.hardHeld = true ∧
          flag e W.RESET_CAUSE_NRST = true ∧
          e.roofTime = d.roofTime) ∧
    (d.mode = .standby →
      d.core.porHeld = false →
      d.core.hardHeld = false →
      Completes .nrst q d (commonWith [.mode, .prev, .roofTime, .core, .rails, .seq, .cl, .adc, .therm, .bg, .link, .vly,
        .gauge, .power, .otp, .log, .fw, .freeN]) none
        fun e => e.mode = .boot ∧
          flag e W.RESET_CAUSE_STANDBY_WAKE = true ∧
          flag e W.RESET_CAUSE_NRST = true ∧
          e.core.hardHeld = true ∧
          e.core.path = .wake ∧
          e.rails = [] ∧
          e.rtc = d.rtc) ∧
    ((d.mode = .dormant ∨ d.core.porHeld = true ∨ d.core.hardHeld = true) →
      Completes .nrst q d (commonWith [.mode, .prev, .roofTime, .core, .rails, .seq, .cl, .adc, .therm, .bg, .link, .vly,
        .gauge, .power, .otp, .log, .fw, .freeN]) none
        fun e => e.mode = d.mode ∧
          e.core = d.core ∧
          e.rails = d.rails ∧
          e.eng = d.eng ∧
          e.roofTime = d.roofTime ∧
          getW e W.RESET_CAUSE = getW d W.RESET_CAUSE) ∧
    (Completes .nrstRelease q d [.core] (some [])
        fun e => e.core.hardHeld = false ∧
          e.words = d.words ∧
          e.rails = d.rails) ∧
    (∀ (n : Fin 32),
      (d.core.clocksOff = false ∨ d.core.hardHeld = true) →
      purlinRuns d = true →
      Completes .purlinWdt q d (commonWith [.mode, .prev, .roofTime, .cycles, .core, .rails, .seq, .cl, .adc, .therm, .bg,
        .link, .vly, .gauge, .power, .otp, .log, .fw, .freeN]) none
        fun e => e.mode = .boot ∧
          fld e W.MODE_STATUS_BOOT_STAGE = 0 ∧
          flag e W.MODE_STATUS_ADOPTING = true ∧
          e.core.recMode = (if flag d W.MODE_STATUS_ADOPTING || d.core.clocksOff then d.core.recMode else d.mode) ∧
          fld e W.ADOPT_STATUS_KEEPER_MODE = e.core.recMode.code ∧
          (rail e n).enabled = (rail d n).enabled ∧
          (rail e n).held = (if flag d W.MODE_STATUS_ADOPTING || d.core.clocksOff then (rail d n).held else (rail d
            n).enabled) ∧
          e.eng = {} ∧
          e.rtc = d.rtc ∧
          flag e W.RESET_CAUSE_PURLIN_WDT = true ∧
          e.core.wdtReset = true ∧
          e.roofTime = max d.roofTime (d.fw.kickAt + 800000)) ∧
    (∀ (n : Fin 32),
      d.core.clocksOff = true →
      d.core.hardHeld = false →
      Completes .purlinWdt q d (commonWith [.mode, .prev, .roofTime, .cycles, .core, .rails, .seq, .cl, .adc, .therm, .bg,
        .link, .vly, .gauge, .power, .otp, .log, .fw, .freeN]) none
        fun e => e.mode = .boot ∧
          fld e W.MODE_STATUS_BOOT_STAGE = 0 ∧
          flag e W.MODE_STATUS_ADOPTING = true ∧
          e.core.recMode = (if flag d W.MODE_STATUS_ADOPTING || d.core.clocksOff then d.core.recMode else d.mode) ∧
          fld e W.ADOPT_STATUS_KEEPER_MODE = e.core.recMode.code ∧
          (rail e n).enabled = (rail d n).enabled ∧
          (rail e n).held = (if flag d W.MODE_STATUS_ADOPTING || d.core.clocksOff then (rail d n).held else (rail d
            n).enabled) ∧
          e.eng = {} ∧
          e.rtc = d.rtc ∧
          flag e W.RESET_CAUSE_PURLIN_WDT = true ∧
          e.core.wdtReset = true ∧
          e.roofTime = d.roofTime) ∧
    ((d.core.clocksOff = false ∨ d.core.hardHeld = true) →
      purlinRuns d = false →
      Completes .purlinWdt q d (commonWith [.mode, .prev, .roofTime, .cycles, .core, .rails, .seq, .cl, .adc, .therm, .bg,
        .link, .vly, .gauge, .power, .otp, .log, .fw, .freeN]) none
        fun e => e = d) ∧
    (∀ (n : Fin 32),
      d.core.clocksOff = false →
      purlinRuns d = true →
      Completes .lockstep q d (commonWith [.mode, .prev, .core, .rails, .seq, .cl, .adc, .therm, .bg, .link, .vly, .gauge,
        .power, .otp, .log, .fw, .freeN]) none
        fun e => e.mode = .boot ∧
          fld e W.MODE_STATUS_BOOT_STAGE = 0 ∧
          flag e W.MODE_STATUS_ADOPTING = true ∧
          e.core.recMode = (if flag d W.MODE_STATUS_ADOPTING || d.core.clocksOff then d.core.recMode else d.mode) ∧
          fld e W.ADOPT_STATUS_KEEPER_MODE = e.core.recMode.code ∧
          (rail e n).enabled = (rail d n).enabled ∧
          (rail e n).held = (if flag d W.MODE_STATUS_ADOPTING || d.core.clocksOff then (rail d n).held else (rail d
            n).enabled) ∧
          e.eng = {} ∧
          e.rtc = d.rtc ∧
          flag e W.TRUST_STATUS_LOCKSTEP = true ∧
          flag e W.RESET_CAUSE_PURLIN_WDT = true ∧
          e.core.wdtReset = true ∧
          e.roofTime = d.roofTime) ∧
    ((d.core.clocksOff = true ∨ purlinRuns d = false) →
      Completes .lockstep q d (commonWith [.mode, .prev, .core, .rails, .seq, .cl, .adc, .therm, .bg, .link, .vly, .gauge,
        .power, .otp, .log, .fw, .freeN]) none
        fun e => e = d) ∧
    (∀ (n : BitVec 5) (k : Fin 32),
      (rail d n.toNat).held = true →
      (flag d W.MODE_STATUS_ADOPTING = true ∨ d.core.clocksOff = true) →
      d.core.tripped = none →
      Completes (.keeperTrip n) q d (commonWith [.core, .rails, .cl, .adc]) (eventsWith [W.RESET_CAUSE, W.SEQ_RSTATE,
        W.HC_STATUS, W.CL_RSTATUS, W.SUP_STATUS, W.SB_RSTATUS, W.LD_RSTATUS, W.GB_RSTATUS, W.PH_STATUS, W.CL_STATUS,
        W.DRILL_RESULT, W.SSO_STATUS])
        fun e => e.core.tripped = some n.toNat ∧
          (rail e k).enabled = false ∧
          flag e W.RESET_CAUSE_KEEPER_TRIP = true ∧
          fld e W.SSO_STATUS_ASSERTED = 15) ∧
    (∀ (n : BitVec 5),
      ((rail d n.toNat).held && (flag d W.MODE_STATUS_ADOPTING || d.core.clocksOff) && d.core.tripped.isNone) = false →
      Completes (.keeperTrip n) q d (commonWith [.core, .rails, .cl, .adc]) (eventsWith [W.RESET_CAUSE, W.SEQ_RSTATE,
        W.HC_STATUS, W.CL_RSTATUS, W.SUP_STATUS, W.SB_RSTATUS, W.LD_RSTATUS, W.GB_RSTATUS, W.PH_STATUS, W.CL_STATUS,
        W.DRILL_RESULT, W.SSO_STATUS])
        fun e => e = d) ∧
    (∀ (rq : Req) (p0 : Word) (n : Fin 32),
      engineOn d = true →
      rq.src ≠ .thatch →
      p0 = 0xA5A5#32 →
      Completes (.resetHard rq p0) q d (commonWith [.mode, .prev, .roofTime, .cycles, .core, .rails, .seq, .cl, .adc, .therm,
        .bg, .link, .vly, .gauge, .power, .otp, .log, .fw, .freeN]) none
        fun e => e.mode = .boot ∧
          fld e W.MODE_STATUS_BOOT_STAGE = 0 ∧
          flag e W.MODE_STATUS_ADOPTING = true ∧
          e.core.recMode = (if flag d W.MODE_STATUS_ADOPTING || d.core.clocksOff then d.core.recMode else d.mode) ∧
          fld e W.ADOPT_STATUS_KEEPER_MODE = e.core.recMode.code ∧
          (rail e n).enabled = (rail d n).enabled ∧
          (rail e n).held = (if flag d W.MODE_STATUS_ADOPTING || d.core.clocksOff then (rail d n).held else (rail d
            n).enabled) ∧
          e.eng = {} ∧
          e.rtc = d.rtc ∧
          flag e W.RESET_CAUSE_HARD_CMD = true) ∧
    (∀ (rq : Req) (p0 : Word) (st : Status),
      engineOn d = true →
      firstFail [(rq.src != .thatch, .deniedPermission), (p0 == 0xA5A5#32, .badParam)] = some st →
      Completes (.resetHard rq p0) q d (commonWith [.mode, .prev, .roofTime, .cycles, .core, .rails, .seq, .cl, .adc, .therm,
        .bg, .link, .vly, .gauge, .power, .otp, .log, .fw, .freeN]) none
        fun e => answered rq 0x28 st 0#32 0#32 d e = true ∧
          e.mode = d.mode ∧
          e.rails = d.rails ∧
          getW e W.RESET_CAUSE = getW d W.RESET_CAUSE) ∧
    (∀ (rq : Req) (p0 : Word) (k : Fin 12),
      engineOn d = true →
      rq.src ≠ .thatch →
      p0 = 0xA5A5#32 →
      modeOk .live d = true →
      Completes (.resetSoft rq p0) q d (commonWith [.roofTime, .cycles, .core, .adc, .link, .vly, .otp, .log, .fw, .freeN])
        (eventsWith [W.RESET_CAUSE, W.BG_ECC, W.ADC_STATUS, W.EVT_CTRL, W.OTP_STATUS, W.VLY_STATUS, W.TRUST_STATUS,
        W.FW_VER_THATCH, W.FW_ARB, W.HP_SQ_MODE])
        fun e => e.mode = d.mode ∧
          e.rails = d.rails ∧
          queue e k = [] ∧
          (ring e 12).words = [] ∧
          flag e W.RESET_CAUSE_SOFT_CMD = true ∧
          e.core.softReset = true ∧
          e.core.softAt = e.roofTime ∧
          getW e W.EVT_LAT = 0#32) ∧
    (∀ (rq : Req) (p0 : Word) (st : Status),
      engineOn d = true →
      firstFail [(rq.src != .thatch, .deniedPermission), (p0 == 0xA5A5#32, .badParam), (modeOk .live d, .deniedMode)] = some
        st →
      Completes (.resetSoft rq p0) q d (commonWith [.roofTime, .cycles, .core, .adc, .link, .vly, .otp, .log, .fw, .freeN])
        (eventsWith [W.RESET_CAUSE, W.BG_ECC, W.ADC_STATUS, W.EVT_CTRL, W.OTP_STATUS, W.VLY_STATUS, W.TRUST_STATUS,
        W.FW_VER_THATCH, W.FW_ARB, W.HP_SQ_MODE])
        fun e => answered rq 0x27 st 0#32 0#32 d e = true ∧
          e.core.softReset = d.core.softReset ∧
          e.rails = d.rails) ∧
    (d.core.softReset = true →
      Completes .softResetDone q d (commonWith [.roofTime, .cycles, .core]) (some eventTables)
        fun e => e.core.softReset = false ∧
          e.roofTime = max d.roofTime (d.core.softAt + 20000) ∧
          (engineReady e = true → raised 713 d e = true) ∧
          e.rails = d.rails) ∧
    (d.core.softReset = false →
      Completes .softResetDone q d (commonWith [.roofTime, .cycles, .core]) (some eventTables)
        fun e => e = d)

/-- The lock of the PLL begins stage 1 with roof time 0 and the shadows loaded, after a sleep with the wake told. Purlin
starts when its image has the recorded hash; otherwise every rail goes off and the block stays at stage 0. When the regions
are read the truss is selected, the log scanned and the queues opened; what BOOT finds may lead to LATCHED. A passing self-
test leads to stage 6, a failing one to LATCHED with cause 3 (while adopting to stage 6 alone). Thatch starts from a bank that
verifies, falls back to the other one, or is absent; its ready message ends the boot. An entry to BOOT without a reset goes on
at once, or through stage 6 where Thatch must be verified. Out of its place each event does nothing. -/
def Obligations.BootComplete : Prop :=
  ∀ (q : List Instr) (d : Device), canonical d = true →
    (∀ (align : Bool) (k : Fin 320),
      d.mode = .boot →
      bootStage d = 0 →
      d.core.path ≠ .again →
      d.core.hardHeld = false →
      d.core.porHeld = false →
      d.core.purlinFail = false →
      Completes (.pllLock align) q d (commonWith [.roofTime, .cycles, .core, .otp, .fw]) (eventsWith [W.MODE_STATUS,
        W.OTP_UID, W.TRUST_STATUS, W.FW_ARB, W.CLK_STATUS])
        fun e => flag e W.CLK_STATUS_PLL_LOCKED = true ∧
          flag e W.CLK_STATUS_ALIGN = align ∧
          bootStage e = 1 ∧
          e.roofTime = (if d.core.woken then 40 else 0) ∧
          (d.core.woken = false ∨ raised 748 d e = true) ∧
          e.core.woken = false ∧
          SMap.get (fun _ => 0) e.otp.shadow k = otpWord d k ∧
          e.core.clocksOff = false) ∧
    (∀ (n : Fin 32),
      bootStage d = 1 →
      d.core.hardHeld = false →
      d.core.porHeld = false →
      d.core.clocksOff = false →
      Completes .purlinHashCheck q d (commonWith [.core, .rails, .cl, .adc, .fw]) (eventsWith [W.MODE_STATUS, W.SEQ_RSTATE,
        W.HC_STATUS, W.CL_RSTATUS, W.SUP_STATUS, W.SB_RSTATUS, W.LD_RSTATUS, W.GB_RSTATUS, W.PH_STATUS, W.CL_STATUS,
        W.DRILL_RESULT, W.ROOF_COMPAT, W.FW_VER_PURLIN, W.SSO_STATUS])
        fun e => (sha256 (bankBytes d 3 0 524288) = purlinHash d → bootStage e = 2 ∧ e.core.purlinFail = d.core.purlinFail ∧
      e.fw.kickAt = d.roofTime ∧ e.rails = d.rails) ∧
          (sha256 (bankBytes d 3 0 524288) ≠ purlinHash d → bootStage e = 0 ∧ e.core.purlinFail = true ∧
      (rail e n).enabled = false ∧ fld e W.SSO_STATUS_ASSERTED = 15)) ∧
    ((bootStage d = 1 && !d.core.hardHeld && !d.core.porHeld && !d.core.clocksOff) = false →
      Completes .purlinHashCheck q d (commonWith [.core, .rails, .cl, .adc, .fw]) (eventsWith [W.MODE_STATUS, W.SEQ_RSTATE,
        W.HC_STATUS, W.CL_RSTATUS, W.SUP_STATUS, W.SB_RSTATUS, W.LD_RSTATUS, W.GB_RSTATUS, W.PH_STATUS, W.CL_STATUS,
        W.DRILL_RESULT, W.ROOF_COMPAT, W.FW_VER_PURLIN, W.SSO_STATUS])
        fun e => e = d) ∧
    (∀ (align : Bool),
      (d.mode = .boot && bootStage d = 0 && d.core.path != .again && !d.core.hardHeld && !d.core.porHeld &&
        !d.core.purlinFail) = false →
      Completes (.pllLock align) q d (commonWith [.roofTime, .cycles, .core, .otp, .fw]) (eventsWith [W.MODE_STATUS,
        W.OTP_UID, W.TRUST_STATUS, W.FW_ARB, W.CLK_STATUS])
        fun e => e = d) ∧
    (bootStage d = 2 →
      d.core.hardHeld = false →
      d.core.porHeld = false →
      d.core.clocksOff = false →
      Completes .otpRegionsRead q d (commonWith [.mode, .prev, .core, .seq, .cl, .link, .vly, .gauge, .power, .rtc, .otp,
        .log, .fw]) none
        fun e => bootStage e = (if d.core.testPassed then 6 else 5) ∧
          e.log.scanned = true ∧
          e.otp.kept = d.otp.array ∧
          flag e W.OTP_STATUS_ENV_UNLOCKED = !otpLocked d 2 ∧
          (failedRegions d ≠ 0 → fld e W.OTP_STATUS_DIGEST_FAIL = failedRegions d) ∧
          (if failedRegions d ≠ 0 ∧ d.mode = .boot ∧ d.core.path ≠ .hard then e.mode = .latched ∧ fld e
            W.MODE_STATUS_LATCH_CAUSE = 2 else True) ∧
          (if (flag d W.MODE_STATUS_LATCH_HELD || flag d W.TH_STATUS_TH_LATCH) = true ∧ d.mode = .boot ∧ d.core.path ≠ .hard
            then e.mode = .latched else True) ∧
          (d.core.path ≠ .hard ∨ e.mode = d.mode)) ∧
    ((bootStage d = 2 && !d.core.hardHeld && !d.core.porHeld && !d.core.clocksOff) = false →
      Completes .otpRegionsRead q d (commonWith [.mode, .prev, .core, .seq, .cl, .link, .vly, .gauge, .power, .rtc, .otp,
        .log, .fw]) none
        fun e => e = d) ∧
    (∀ (pass : Bool),
      bootStage d = 5 →
      d.core.hardHeld = false →
      d.core.porHeld = false →
      pass = true →
      Completes (.bootSelftestDone pass) q d (commonWith [.mode, .prev, .core, .seq, .cl, .link, .vly, .gauge, .rtc, .log,
        .fw]) none
        fun e => bootStage e = 6 ∧
          e.core.testPassed = true ∧
          e.mode = d.mode) ∧
    (∀ (pass : Bool),
      bootStage d = 5 →
      d.core.hardHeld = false →
      d.core.porHeld = false →
      pass = false →
      d.mode = .boot →
      flag d W.MODE_STATUS_ADOPTING = false →
      Completes (.bootSelftestDone pass) q d (commonWith [.mode, .prev, .core, .seq, .cl, .link, .vly, .gauge, .rtc, .log,
        .fw]) none
        fun e => bootStage e = 6 ∧
          e.core.testPassed = false ∧
          e.mode = .latched ∧
          fld e W.MODE_STATUS_LATCH_CAUSE = 3 ∧
          flag e W.MODE_STATUS_LATCH_HELD = true) ∧
    (∀ (pass : Bool),
      bootStage d = 5 →
      d.core.hardHeld = false →
      d.core.porHeld = false →
      pass = false →
      (d.mode ≠ .boot ∨ flag d W.MODE_STATUS_ADOPTING = true) →
      Completes (.bootSelftestDone pass) q d (commonWith [.mode, .prev, .core, .seq, .cl, .link, .vly, .gauge, .rtc, .log,
        .fw]) none
        fun e => bootStage e = 6 ∧
          e.core.testPassed = false ∧
          e.mode = d.mode) ∧
    (∀ (pass : Bool),
      (bootStage d ≠ 5 ∨ d.core.hardHeld = true ∨ d.core.porHeld = true) →
      Completes (.bootSelftestDone pass) q d (commonWith [.mode, .prev, .core, .seq, .cl, .link, .vly, .gauge, .rtc, .log,
        .fw]) none
        fun e => e = d) ∧
    (bootStage d = 6 →
      thatchState d = 0 →
      d.core.hardHeld = false →
      d.core.porHeld = false →
      Completes .thatchVerify q d (commonWith [.core, .seq, .log, .fw]) (eventsWith [W.SEQ_STATUS, W.SEQ_T0, W.TRC_STATUS,
        W.TRUST_STATUS, W.FW_VER_THATCH, W.FW_ARB, W.FW_LAST])
        fun e => (fwCause d (activeBank d) 0 = 0 → thatchState e = 1 ∧ e.core.thatchAbsent = false ∧ activeBank e =
          activeBank d) ∧
          (fwCause d (activeBank d) 0 ≠ 0 → fwCause d (1 - activeBank d) 0 = 0 → thatchState e = 1 ∧
      activeBank e = 1 - activeBank d ∧ flag e W.TRUST_STATUS_TRIAL = false ∧ raised 776 d e = true) ∧
          (fwCause d (activeBank d) 0 ≠ 0 → fwCause d (1 - activeBank d) 0 ≠ 0 → thatchState e = 0 ∧
      e.core.thatchAbsent = true ∧ e.core.bootReady = true)) ∧
    ((bootStage d ≠ 6 ∨ thatchState d ≠ 0 ∨ d.core.hardHeld = true ∨ d.core.porHeld = true) →
      Completes .thatchVerify q d (commonWith [.core, .seq, .log, .fw]) (eventsWith [W.SEQ_STATUS, W.SEQ_T0, W.TRC_STATUS,
        W.TRUST_STATUS, W.FW_VER_THATCH, W.FW_ARB, W.FW_LAST])
        fun e => e = d) ∧
    ((thatchState d = 1 ∨ thatchState d = 3) →
      Completes .thatchReady q d (commonWith [.roofTime, .cycles, .core, .seq, .link, .vly, .gauge, .fw, .freeN]) (eventsWith
        [W.MODE_STATUS, W.COLD_STATUS, W.SEQ_STATUS, W.SEQ_T0, W.BG_STATUS, W.BK_STATUS, W.CHG_IEFF, W.GAUGE_STATUS,
        W.GAUGE_REM, W.GAUGE_FCC, W.GAUGE_RSV, W.GAUGE_VLY, W.GAUGE_AVAIL, W.GAUGE_ERR, W.LEARN_DQ, W.RTC_CAL, W.RTC_XTAL,
        W.RTC_STATUS, W.ROOF_FLOOR, W.VLY_STATUS, W.VLY_LAST, W.TRUST_STATUS, W.FW_LAST])
        fun e => thatchState e = 2 ∧
          e.fw.twdFrom = d.roofTime ∧
          e.fw.trialFrom = (if flag d W.TRUST_STATUS_TRIAL then some d.roofTime else none) ∧
          e.fw.changed = false ∧
          bootStage e = (if bootStage d = 6 then 7 else bootStage d) ∧
          (bootStage d ≠ 6 ∨ e.core.bootReady = true) ∧
          (running d 0xA1 = [] ∨ raised 774 d e = true)) ∧
    ((thatchState d ≠ 1 ∧ thatchState d ≠ 3) →
      Completes .thatchReady q d (commonWith [.roofTime, .cycles, .core, .seq, .link, .vly, .gauge, .fw, .freeN]) (eventsWith
        [W.MODE_STATUS, W.COLD_STATUS, W.SEQ_STATUS, W.SEQ_T0, W.BG_STATUS, W.BK_STATUS, W.CHG_IEFF, W.GAUGE_STATUS,
        W.GAUGE_REM, W.GAUGE_FCC, W.GAUGE_RSV, W.GAUGE_VLY, W.GAUGE_AVAIL, W.GAUGE_ERR, W.LEARN_DQ, W.RTC_CAL, W.RTC_XTAL,
        W.RTC_STATUS, W.ROOF_FLOOR, W.VLY_STATUS, W.VLY_LAST, W.TRUST_STATUS, W.FW_LAST])
        fun e => e = d) ∧
    (∀ (v : Bool),
      d.mode = .boot →
      d.core.path = .again →
      bootStage d = 3 →
      d.core.bootReady = false →
      v = (d.fw.changed || flag d W.TRUST_STATUS_THATCH_HELD) →
      Completes .bootEntry q d (commonWith [.mode, .prev, .core, .seq, .cl, .link, .vly, .gauge, .power, .rtc, .otp, .log,
        .fw, .freeN]) none
        fun e => (v = false ∨ (bootStage e = 6 ∧ thatchState e = 0 ∧ e.core.bootReady = false ∧ e.core.thatchAbsent = false ∧
          flag e W.TRUST_STATUS_THATCH_HELD = false)) ∧
          (v = true ∨ thatchState e = thatchState d) ∧
          (if v = false ∧ (thatchState d = 1 ∨ (thatchState d = 0 ∧ d.core.thatchAbsent = false)) then bootStage e = 6 ∧
            e.core.bootReady = false else True) ∧
          (if v = false ∧ thatchState d ≠ 1 ∧ (thatchState d ≠ 0 ∨ d.core.thatchAbsent = true) then bootStage e = (if
            d.core.thatchAbsent then 4 else 7) ∧ e.core.bootReady = true else True) ∧
          ((flag d W.MODE_STATUS_LATCH_HELD || flag d W.TH_STATUS_TH_LATCH) = false ∨ e.mode = .latched)) ∧
    ((d.mode = .boot && d.core.path = .again && bootStage d = 3 && !d.core.bootReady) = false →
      Completes .bootEntry q d (commonWith [.mode, .prev, .core, .seq, .cl, .link, .vly, .gauge, .power, .rtc, .otp, .log,
        .fw, .freeN]) none
        fun e => e = d)

/-- Adoption ends with ADOPTING clear and its result and the failed rails in ADOPT_STATUS and ADOPT_FAIL, and no rail is held
any longer. With all held rails in order the block goes on from the recorded mode: RUN, EASE and HOLDUP with the rails up and
power-good, RETAIN in RETAIN, RAMP and SERVICE in a descent of the rails, a descent in its descent or in LATCHED, any other
mode in BOOT. A bad keeper record leads to a fault descent to LATCHED with cause 5, or to LATCHED at once with no rail on; a
keeper trip to LATCHED with cause 4; a failed digest the same with cause 2; a latch record to LATCHED again; another truss to
an orderly descent; rails that fail to a fault descent with cause 6. Without a reset to adopt it does nothing. -/
def Obligations.AdoptionComplete : Prop :=
  ∀ (q : List Instr) (d : Device), canonical d = true →
    (∀ (crc : BitVec 16) (samples : List AdoptSample) (n : Fin 32),
      flag d W.MODE_STATUS_ADOPTING = true →
      4 ≤ bootStage d →
      d.core.hardHeld = false →
      d.core.clocksOff = false →
      Completes (.adoption crc samples) q d (commonWith [.mode, .prev, .roofTime, .cycles, .core, .rails, .seq, .cl, .link,
        .vly, .gauge, .power, .rtc, .log, .fw, .freeN]) none
        fun e => flag e W.MODE_STATUS_ADOPTING = false ∧
          fld e W.ADOPT_STATUS_RESULT = adoptResult crc.toNat samples d ∧
          getW e W.ADOPT_FAIL = BitVec.ofNat 32 (if adoptResult crc.toNat samples d = 3 then adoptFails samples d else 0) ∧
          fld e W.ADOPT_STATUS_ADOPTED_COUNT = (if adoptResult crc.toNat samples d = 1 then (enabledRails d).length else 0) ∧
          ((rail d n).enabled = false ∨ (rail e n).held = false) ∧
          e.core.tripped = none ∧
          e.core.wdtReset = false ∧
          e.core.pllLost = false ∧
          (d.core.wdtReset = false ∨ raised 806 d e = true) ∧
          (d.core.pllLost = false ∨ raised 757 d e = true)) ∧
    (∀ (crc : BitVec 16) (samples : List AdoptSample),
      (flag d W.MODE_STATUS_ADOPTING && 4 ≤ bootStage d && !d.core.hardHeld && !d.core.clocksOff) = false →
      Completes (.adoption crc samples) q d (commonWith [.mode, .prev, .roofTime, .cycles, .core, .rails, .seq, .cl, .link,
        .vly, .gauge, .power, .rtc, .log, .fw, .freeN]) none
        fun e => e = d) ∧
    (∀ (crc : BitVec 16) (samples : List AdoptSample) (n : Fin 32),
      flag d W.MODE_STATUS_ADOPTING = true →
      4 ≤ bootStage d →
      d.core.hardHeld = false →
      d.core.clocksOff = false →
      adoptResult crc.toNat samples d = 1 →
      (d.core.recMode = .run ∨ d.core.recMode = .ease ∨ d.core.recMode = .holdup) →
      (rail d n).enabled = true →
      (rail d n).ph = .still →
      (rail d n).fallFail = false →
      (rail d n).falling = false →
      Completes (.adoption crc samples) q d (commonWith [.mode, .prev, .roofTime, .cycles, .core, .rails, .seq, .cl, .link,
        .vly, .gauge, .power, .rtc, .log, .fw, .freeN]) none
        fun e => inMode e [.run, .ease, .holdup, .descend] = true ∧
          (e.mode = .descend ∨ ((rail e n).enabled = true ∧ (rail e n).pg = true ∧ (rail e n).held = false))) ∧
    (∀ (crc : BitVec 16) (samples : List AdoptSample),
      flag d W.MODE_STATUS_ADOPTING = true →
      4 ≤ bootStage d →
      d.core.hardHeld = false →
      d.core.clocksOff = false →
      adoptResult crc.toNat samples d = 1 →
      d.core.recMode = .retain →
      Completes (.adoption crc samples) q d (commonWith [.mode, .prev, .roofTime, .cycles, .core, .rails, .seq, .cl, .link,
        .vly, .gauge, .power, .rtc, .log, .fw, .freeN]) none
        fun e => e.mode = .retain) ∧
    (∀ (crc : BitVec 16) (samples : List AdoptSample),
      flag d W.MODE_STATUS_ADOPTING = true →
      4 ≤ bootStage d →
      d.core.hardHeld = false →
      d.core.clocksOff = false →
      adoptResult crc.toNat samples d = 1 →
      d.core.recMode = .ramp →
      enabledRails d = [] →
      Completes (.adoption crc samples) q d (commonWith [.mode, .prev, .roofTime, .cycles, .core, .rails, .seq, .cl, .link,
        .vly, .gauge, .power, .rtc, .log, .fw, .freeN]) none
        fun e => e.mode = (if descNext d = .boot then d.mode else descNext d)) ∧
    (∀ (crc : BitVec 16) (samples : List AdoptSample) (n : Fin 32),
      flag d W.MODE_STATUS_ADOPTING = true →
      4 ≤ bootStage d →
      d.core.hardHeld = false →
      d.core.clocksOff = false →
      adoptResult crc.toNat samples d = 1 →
      (d.core.recMode = .ramp ∨ d.core.recMode = .service) →
      (rail d n).enabled = true →
      (rail d n).ph = .still →
      (rail d n).fallFail = false →
      (rail d n).falling = false →
      Completes (.adoption crc samples) q d (commonWith [.mode, .prev, .roofTime, .cycles, .core, .rails, .seq, .cl, .link,
        .vly, .gauge, .power, .rtc, .log, .fw, .freeN]) none
        fun e => e.mode = .descend ∧
          e.seq.desc.map (fun x => (x.kind, x.cause)) = some (if d.core.recMode = .ramp then (.abort, 0) else (.service, 0))) ∧
    (∀ (crc : BitVec 16) (samples : List AdoptSample) (c : Nat),
      flag d W.MODE_STATUS_ADOPTING = true →
      4 ≤ bootStage d →
      d.core.hardHeld = false →
      d.core.clocksOff = false →
      adoptResult crc.toNat samples d = 1 →
      d.core.recMode = .descend →
      d.core.recFault = some c →
      enabledRails d = [] →
      Completes (.adoption crc samples) q d (commonWith [.mode, .prev, .roofTime, .cycles, .core, .rails, .seq, .cl, .link,
        .vly, .gauge, .power, .rtc, .log, .fw, .freeN]) none
        fun e => e.mode = .latched ∧
          fld e W.MODE_STATUS_LATCH_CAUSE = c % 16) ∧
    (∀ (crc : BitVec 16) (samples : List AdoptSample) (c : Option Nat) (n : Fin 32),
      flag d W.MODE_STATUS_ADOPTING = true →
      4 ≤ bootStage d →
      d.core.hardHeld = false →
      d.core.clocksOff = false →
      adoptResult crc.toNat samples d = 1 →
      d.core.recMode = .descend →
      d.core.recFault = c →
      (rail d n).enabled = true →
      (rail d n).ph = .still →
      (rail d n).fallFail = false →
      (rail d n).falling = false →
      Completes (.adoption crc samples) q d (commonWith [.mode, .prev, .roofTime, .cycles, .core, .rails, .seq, .cl, .link,
        .vly, .gauge, .power, .rtc, .log, .fw, .freeN]) none
        fun e => e.mode = .descend ∧
          e.seq.desc.map (fun x => (x.kind, x.cause)) = some (.orderly, c.getD 0)) ∧
    (∀ (crc : BitVec 16) (samples : List AdoptSample),
      flag d W.MODE_STATUS_ADOPTING = true →
      4 ≤ bootStage d →
      d.core.hardHeld = false →
      d.core.clocksOff = false →
      adoptResult crc.toNat samples d = 1 →
      d.core.recMode = .descend →
      d.core.recFault = none →
      enabledRails d = [] →
      Completes (.adoption crc samples) q d (commonWith [.mode, .prev, .roofTime, .cycles, .core, .rails, .seq, .cl, .link,
        .vly, .gauge, .power, .rtc, .log, .fw, .freeN]) none
        fun e => e.mode = (if descNext d = .boot then d.mode else descNext d)) ∧
    (∀ (crc : BitVec 16) (samples : List AdoptSample),
      flag d W.MODE_STATUS_ADOPTING = true →
      4 ≤ bootStage d →
      d.core.hardHeld = false →
      d.core.clocksOff = false →
      adoptResult crc.toNat samples d = 1 →
      inMode { d with mode := d.core.recMode } [.boot, .latched, .replay, .standby, .dormant] = true →
      Completes (.adoption crc samples) q d (commonWith [.mode, .prev, .roofTime, .cycles, .core, .rails, .seq, .cl, .link,
        .vly, .gauge, .power, .rtc, .log, .fw, .freeN]) none
        fun e => e.mode = d.mode ∧
          fld e W.SSO_STATUS_ASSERTED = 15) ∧
    (∀ (crc : BitVec 16) (samples : List AdoptSample),
      flag d W.MODE_STATUS_ADOPTING = true →
      4 ≤ bootStage d →
      d.core.hardHeld = false →
      d.core.clocksOff = false →
      adoptResult crc.toNat samples d = 4 →
      Completes (.adoption crc samples) q d (commonWith [.mode, .prev, .roofTime, .cycles, .core, .rails, .seq, .cl, .link,
        .vly, .gauge, .power, .rtc, .log, .fw, .freeN]) none
        fun e => (if enabledRails d = [] then e.mode = .latched else (e.mode = .descend ∨ e.mode = .latched ∨ d.seq.desc ≠
          none)) ∧
          (e.mode ≠ .latched ∨ d.seq.desc ≠ none ∨ fld e W.MODE_STATUS_LATCH_CAUSE = 5)) ∧
    (∀ (crc : BitVec 16) (samples : List AdoptSample) (n : Fin 32),
      flag d W.MODE_STATUS_ADOPTING = true →
      4 ≤ bootStage d →
      d.core.hardHeld = false →
      d.core.clocksOff = false →
      adoptResult crc.toNat samples d = 5 →
      d.core.tripped = some n.val →
      Completes (.adoption crc samples) q d (commonWith [.mode, .prev, .roofTime, .cycles, .core, .rails, .seq, .cl, .link,
        .vly, .gauge, .power, .rtc, .log, .fw, .freeN]) none
        fun e => e.mode = .latched ∧
          fld e W.MODE_STATUS_LATCH_CAUSE = 4 ∧
          (flag d W.SUP_FIRST_VALID = true ∨ (fld e W.SUP_FIRST_RAIL = n ∧ fld e W.SUP_FIRST_CAUSE = 10))) ∧
    (∀ (crc : BitVec 16) (samples : List AdoptSample),
      flag d W.MODE_STATUS_ADOPTING = true →
      4 ≤ bootStage d →
      d.core.hardHeld = false →
      d.core.clocksOff = false →
      adoptResult crc.toNat samples d = 6 →
      Completes (.adoption crc samples) q d (commonWith [.mode, .prev, .roofTime, .cycles, .core, .rails, .seq, .cl, .link,
        .vly, .gauge, .power, .rtc, .log, .fw, .freeN]) none
        fun e => (if enabledRails d = [] then e.mode = .latched else (e.mode = .descend ∨ e.mode = .latched ∨ d.seq.desc ≠
          none)) ∧
          (e.mode ≠ .latched ∨ d.seq.desc ≠ none ∨ fld e W.MODE_STATUS_LATCH_CAUSE = 2)) ∧
    (∀ (crc : BitVec 16) (samples : List AdoptSample),
      flag d W.MODE_STATUS_ADOPTING = true →
      4 ≤ bootStage d →
      d.core.hardHeld = false →
      d.core.clocksOff = false →
      adoptResult crc.toNat samples d = 7 →
      Completes (.adoption crc samples) q d (commonWith [.mode, .prev, .roofTime, .cycles, .core, .rails, .seq, .cl, .link,
        .vly, .gauge, .power, .rtc, .log, .fw, .freeN]) none
        fun e => e.mode = .latched ∧
          fld e W.MODE_STATUS_LATCH_CAUSE = fld d W.MODE_STATUS_LATCH_CAUSE ∧
          flag e W.MODE_STATUS_LATCH_HELD = true) ∧
    (∀ (crc : BitVec 16) (samples : List AdoptSample),
      flag d W.MODE_STATUS_ADOPTING = true →
      4 ≤ bootStage d →
      d.core.hardHeld = false →
      d.core.clocksOff = false →
      adoptResult crc.toNat samples d = 2 →
      enabledRails d = [] →
      Completes (.adoption crc samples) q d (commonWith [.mode, .prev, .roofTime, .cycles, .core, .rails, .seq, .cl, .link,
        .vly, .gauge, .power, .rtc, .log, .fw, .freeN]) none
        fun e => e.mode = (if descNext d = .boot then d.mode else descNext d)) ∧
    (∀ (crc : BitVec 16) (samples : List AdoptSample) (n : Fin 32),
      flag d W.MODE_STATUS_ADOPTING = true →
      4 ≤ bootStage d →
      d.core.hardHeld = false →
      d.core.clocksOff = false →
      adoptResult crc.toNat samples d = 2 →
      (rail d n).enabled = true →
      (rail d n).ph = .still →
      (rail d n).fallFail = false →
      (rail d n).falling = false →
      Completes (.adoption crc samples) q d (commonWith [.mode, .prev, .roofTime, .cycles, .core, .rails, .seq, .cl, .link,
        .vly, .gauge, .power, .rtc, .log, .fw, .freeN]) none
        fun e => e.mode = .descend ∧
          e.seq.desc.map (fun x => (x.kind, x.cause)) = some (.orderly, 0)) ∧
    (∀ (crc : BitVec 16) (samples : List AdoptSample) (r : Nat) (n : Fin 32),
      flag d W.MODE_STATUS_ADOPTING = true →
      4 ≤ bootStage d →
      d.core.hardHeld = false →
      d.core.clocksOff = false →
      adoptResult crc.toNat samples d = r →
      (r = 3 ∨ r = 4 ∨ r = 6) →
      (rail d n).enabled = true →
      (rail d n).ph = .still →
      (rail d n).fallFail = false →
      (rail d n).falling = false →
      d.seq.desc = none →
      Completes (.adoption crc samples) q d (commonWith [.mode, .prev, .roofTime, .cycles, .core, .rails, .seq, .cl, .link,
        .vly, .gauge, .power, .rtc, .log, .fw, .freeN]) none
        fun e => e.mode = .descend ∧
          e.seq.desc.map (fun x => (x.kind, x.cause)) = some (.fault, if r = 3 then 6 else if r = 4 then 5 else 2)) ∧
    (∀ (crc : BitVec 16) (samples : List AdoptSample),
      flag d W.MODE_STATUS_ADOPTING = true →
      4 ≤ bootStage d →
      d.core.hardHeld = false →
      d.core.clocksOff = false →
      adoptResult crc.toNat samples d = 3 →
      enabledRails d = [] →
      Completes (.adoption crc samples) q d (commonWith [.mode, .prev, .roofTime, .cycles, .core, .rails, .seq, .cl, .link,
        .vly, .gauge, .power, .rtc, .log, .fw, .freeN]) none
        fun e => e.mode = .latched ∧
          fld e W.MODE_STATUS_LATCH_CAUSE = 6)

/-- An accepted MODE_SET from BOOT enters SERVICE or REPLAY, or plans STANDBY or DORMANT; from RUN it starts the retain
descent, enters RETAIN at once where no rail has to fall, or in a roof announces it; from RETAIN it enters RAMP and asks for
the start; from SERVICE it returns to BOOT or starts the service descent; from REPLAY it returns to BOOT at stage 3. Each
completes with the previous mode, at once or at the end of the descent or ramp it runs on with. An accepted LATCH_CLEAR clears
the latch record, SUP_FIRST, the retry count and the phase records, and leads from LATCHED to BOOT. Either completes with the
status of the first check that fails. The planned sleep stops the PLL. A wake source that is enabled wakes STANDBY into BOOT
and RETAIN into RAMP; a pin seen in another mode sets its SEEN bit; a level too short, the wrong way or too low does nothing.
-/
def Obligations.ModesComplete : Prop :=
  ∀ (q : List Instr) (d : Device), canonical d = true →
    (∀ (rq : Req) (p0 : Word),
      engineOn d = true →
      firstFail (modeChecks (mkCmd rq 0x25 [p0] [] d) d) = none →
      timeRefused d = false →
      bitsOf p0 3 0 = 9 →
      Completes (.modeSet rq p0) q d (commonWith [.mode, .prev, .roofTime, .cycles, .core, .rails, .seq, .cl, .therm, .link,
        .vly, .gauge, .rtc, .log, .fw]) none
        fun e => e.mode = .service ∧
          fld e W.SSO_STATUS_ASSERTED = 15 ∧
          answered rq 0x25 .ok 2#32 0#32 d e = true ∧
          e.seq.svcUp = (!(serviceRails d == []) || d.seq.svcUp) ∧
          (rail e 0).enabled = (rail d 0).enabled) ∧
    (∀ (rq : Req) (p0 : Word),
      engineOn d = true →
      firstFail (modeChecks (mkCmd rq 0x25 [p0] [] d) d) = none →
      timeRefused d = false →
      (bitsOf p0 3 0 = 1 ∨ bitsOf p0 3 0 = 0) →
      Completes (.modeSet rq p0) q d (commonWith [.mode, .prev, .roofTime, .cycles, .core, .rails, .seq, .cl, .therm, .link,
        .vly, .gauge, .rtc, .log, .fw]) none
        fun e => e.mode = .boot ∧
          e.core.sleepTo = some (if bitsOf p0 3 0 = 1 then .standby else .dormant, d.roofTime + 40) ∧
          answered rq 0x25 .ok 2#32 0#32 d e = true) ∧
    (∀ (rq : Req) (p0 : Word),
      engineOn d = true →
      firstFail (modeChecks (mkCmd rq 0x25 [p0] [] d) d) = none →
      timeRefused d = false →
      bitsOf p0 3 0 = 10 →
      Completes (.modeSet rq p0) q d (commonWith [.mode, .prev, .roofTime, .cycles, .core, .rails, .seq, .cl, .therm, .link,
        .vly, .gauge, .rtc, .log, .fw]) none
        fun e => e.mode = .replay ∧
          rplState e = 1 ∧
          e.log.replaySlot = bitsOf p0 8 8 ∧
          answered rq 0x25 .ok 2#32 0#32 d e = true) ∧
    (∀ (rq : Req) (p0 : Word),
      engineOn d = true →
      firstFail (modeChecks (mkCmd rq 0x25 [p0] [] d) d) = none →
      timeRefused d = false →
      bitsOf p0 3 0 = 11 →
      alone d = true →
      retainFalls d = [] →
      (List.range 32).all (fun n => !(rail d n).falling && !(rail d n).inDesc) = true →
      Completes (.modeSet rq p0) q d (commonWith [.mode, .prev, .roofTime, .cycles, .core, .rails, .seq, .cl, .therm, .link,
        .vly, .gauge, .rtc, .log, .fw]) none
        fun e => e.mode = .retain ∧
          answered rq 0x25 .ok 4#32 0#32 d e = true) ∧
    (∀ (rq : Req) (p0 : Word) (n : Fin 32),
      engineOn d = true →
      firstFail (modeChecks (mkCmd rq 0x25 [p0] [] d) d) = none →
      timeRefused d = false →
      bitsOf p0 3 0 = 11 →
      alone d = true →
      (rail d n).enabled = true →
      (rail d n).fallFail = false →
      (rail d n).ph ≠ .rampDown →
      maskBit d W.SEQ_RETAIN n = false →
      Completes (.modeSet rq p0) q d (commonWith [.mode, .prev, .roofTime, .cycles, .core, .rails, .seq, .cl, .therm, .link,
        .vly, .gauge, .rtc, .log, .fw]) none
        fun e => e.mode = .descend ∧
          e.seq.desc.map (fun x => x.kind) = some .retain ∧
          e.eng.issued.any (fun c => c.id == d.eng.nextId && c.op == 0x25) = true) ∧
    (∀ (rq : Req) (p0 : Word),
      engineOn d = true →
      firstFail (modeChecks (mkCmd rq 0x25 [p0] [] d) d) = none →
      timeRefused d = false →
      bitsOf p0 3 0 = 11 →
      alone d = false →
      Completes (.modeSet rq p0) q d (commonWith [.mode, .prev, .roofTime, .cycles, .core, .rails, .seq, .cl, .therm, .link,
        .vly, .gauge, .rtc, .log, .fw]) none
        fun e => e.mode = .run ∧
          e.link.down = some (0xB, d.link.fn + 20) ∧
          e.rails = d.rails ∧
          e.eng.issued.any (fun c => c.id == d.eng.nextId && c.op == 0x25) = true) ∧
    (∀ (rq : Req) (p0 : Word),
      engineOn d = true →
      firstFail (modeChecks (mkCmd rq 0x25 [p0] [] d) d) = none →
      timeRefused d = true →
      Completes (.modeSet rq p0) q d (commonWith [.mode, .prev, .roofTime, .cycles, .core, .rails, .seq, .cl, .therm, .link,
        .vly, .gauge, .rtc, .log, .fw]) none
        fun e => answered rq 0x25 .busy 0#32 0#32 d e = true ∧
          e.mode = d.mode ∧
          e.rails = d.rails) ∧
    (∀ (rq : Req) (p0 : Word),
      engineOn d = true →
      firstFail (modeChecks (mkCmd rq 0x25 [p0] [] d) d) = none →
      timeRefused d = false →
      bitsOf p0 3 0 = 4 →
      Completes (.modeSet rq p0) q d (commonWith [.mode, .prev, .roofTime, .cycles, .core, .rails, .seq, .cl, .therm, .link,
        .vly, .gauge, .rtc, .log, .fw]) none
        fun e => e.mode = .ramp ∧
          e.seq.request = true ∧
          e.rails = d.rails ∧
          e.eng.issued.any (fun c => c.id == d.eng.nextId && c.op == 0x25) = true) ∧
    (∀ (rq : Req) (p0 : Word),
      engineOn d = true →
      firstFail (modeChecks (mkCmd rq 0x25 [p0] [] d) d) = none →
      timeRefused d = false →
      bitsOf p0 3 0 = 2 →
      d.mode = .service →
      enabledRails d = [] →
      Completes (.modeSet rq p0) q d (commonWith [.mode, .prev, .roofTime, .cycles, .core, .rails, .seq, .cl, .therm, .link,
        .vly, .gauge, .rtc, .log, .fw]) none
        fun e => e.mode = .boot ∧
          bootStage e = 3 ∧
          e.seq.svcUp = false ∧
          e.seq.t0 = none ∧
          answered rq 0x25 .ok 9#32 0#32 d e = true) ∧
    (∀ (rq : Req) (p0 : Word) (n : Fin 32),
      engineOn d = true →
      firstFail (modeChecks (mkCmd rq 0x25 [p0] [] d) d) = none →
      timeRefused d = false →
      bitsOf p0 3 0 = 2 →
      d.mode = .service →
      (rail d n).enabled = true →
      (rail d n).fallFail = false →
      (rail d n).ph ≠ .rampDown →
      Completes (.modeSet rq p0) q d (commonWith [.mode, .prev, .roofTime, .cycles, .core, .rails, .seq, .cl, .therm, .link,
        .vly, .gauge, .rtc, .log, .fw]) none
        fun e => e.mode = .service ∧
          e.seq.desc.map (fun x => x.kind) = some .service ∧
          e.eng.issued.any (fun c => c.id == d.eng.nextId && c.op == 0x25) = true) ∧
    (∀ (rq : Req) (p0 : Word),
      engineOn d = true →
      firstFail (modeChecks (mkCmd rq 0x25 [p0] [] d) d) = none →
      timeRefused d = false →
      bitsOf p0 3 0 = 2 →
      d.mode = .replay →
      Completes (.modeSet rq p0) q d (commonWith [.mode, .prev, .roofTime, .cycles, .core, .rails, .seq, .cl, .therm, .link,
        .vly, .gauge, .rtc, .log, .fw]) none
        fun e => e.mode = .boot ∧
          bootStage e = 3 ∧
          rplState e = 0 ∧
          answered rq 0x25 .ok 10#32 0#32 d e = true) ∧
    (∀ (rq : Req) (p0 : Word) (st : Status),
      engineOn d = true →
      firstFail (modeChecks (mkCmd rq 0x25 [p0] [] d) d) = some st →
      Completes (.modeSet rq p0) q d (commonWith [.mode, .prev, .roofTime, .cycles, .core, .rails, .seq, .cl, .therm, .link,
        .vly, .gauge, .rtc, .log, .fw]) none
        fun e => answered rq 0x25 st 0#32 0#32 d e = true ∧
          e.mode = d.mode ∧
          e.rails = d.rails ∧
          e.seq = d.seq) ∧
    (∀ (rq : Req) (n : Fin 32) (k : Fin 4),
      engineOn d = true →
      firstFail (clearChecks (mkCmd rq 0x26 [] [] d) d) = none →
      Completes (.latchClear rq) q d (commonWith [.mode, .prev, .roofTime, .cycles, .core, .seq, .cl, .link, .vly, .gauge,
        .rtc, .log, .fw]) none
        fun e => e.mode = .boot ∧
          bootStage e = (if d.mode = .latched then 3 else bootStage d) ∧
          flag e W.MODE_STATUS_LATCH_HELD = false ∧
          fld e W.MODE_STATUS_LATCH_CAUSE = 0 ∧
          getW e W.SUP_FIRST = 0#32 ∧
          fld e W.SEQ_STATUS_RETRY_CNT = 0 ∧
          flag e W.SUP_STATUS_FAULT_LATCH n = false ∧
          flag e W.TH_STATUS_TH_LATCH = false ∧
          fld e W.HC_STATUS_PH_DROPPED k = 0 ∧
          (d.mode = .boot ∨ e.seq.retryWait = false) ∧
          answered rq 0x26 .ok (BitVec.ofNat 32 (fld d W.MODE_STATUS_LATCH_CAUSE)) 0#32 d e = true) ∧
    (∀ (rq : Req) (st : Status),
      engineOn d = true →
      firstFail (clearChecks (mkCmd rq 0x26 [] [] d) d) = some st →
      Completes (.latchClear rq) q d (commonWith [.mode, .prev, .roofTime, .cycles, .core, .seq, .cl, .link, .vly, .gauge,
        .rtc, .log, .fw]) none
        fun e => answered rq 0x26 st 0#32 0#32 d e = true ∧
          e.mode = d.mode ∧
          fld e W.MODE_STATUS_LATCH_CAUSE = fld d W.MODE_STATUS_LATCH_CAUSE) ∧
    (∀ (m : Mode) (t : Nat),
      d.core.sleepTo = some (m, t) →
      d.mode = .boot →
      (m = .standby ∨ m = .dormant) →
      Completes .standbyDormantTransition q d (commonWith [.mode, .prev, .roofTime, .cycles, .core, .seq, .cl, .link, .vly,
        .gauge, .rtc, .log, .fw]) none
        fun e => e.mode = m ∧
          e.roofTime = max d.roofTime (t + 10000) ∧
          e.core.sleepTo = none ∧
          flag e W.CLK_STATUS_PLL_LOCKED = false ∧
          fld e W.SSO_STATUS_ASSERTED = 15 ∧
          (m = .dormant → e.rtc.locked = true)) ∧
    (∀ (m : Mode) (t : Nat),
      d.core.sleepTo = some (m, t) →
      d.mode ≠ .boot →
      Completes .standbyDormantTransition q d (commonWith [.mode, .prev, .roofTime, .cycles, .core, .seq, .cl, .link, .vly,
        .gauge, .rtc, .log, .fw]) none
        fun e => e.mode = d.mode ∧
          e.roofTime = max d.roofTime (t + 10000) ∧
          e.core.sleepTo = none ∧
          e.rails = d.rails) ∧
    (d.core.sleepTo = none →
      Completes .standbyDormantTransition q d (commonWith [.mode, .prev, .roofTime, .cycles, .core, .seq, .cl, .link, .vly,
        .gauge, .rtc, .log, .fw]) none
        fun e => e = d) ∧
    (∀ (x : BitVec 1) (level : Bool) (n : Nat),
      d.mode = .standby →
      d.core.porHeld = false →
      pinHeld x.toNat level n d = true →
      flag d (if x.toNat = 0 then W.WAKE_CFG_WK0_EN else W.WAKE_CFG_WK1_EN) = true →
      Completes (.wakePin x level n) q d (commonWith [.mode, .prev, .roofTime, .cycles, .core, .rails, .seq, .cl, .adc,
        .therm, .bg, .link, .vly, .gauge, .power, .rtc, .otp, .log, .fw, .freeN]) none
        fun e => e.mode = .boot ∧
          flag e W.RESET_CAUSE_STANDBY_WAKE = true ∧
          e.core.path = .wake ∧
          e.core.woken = true ∧
          e.rtc = d.rtc ∧
          fld e W.MODE_STATUS_BOOT_STAGE = 0) ∧
    (∀ (x : BitVec 1) (level : Bool) (n : Nat),
      d.mode = .retain →
      d.core.porHeld = false →
      pinHeld x.toNat level n d = true →
      flag d (if x.toNat = 0 then W.WAKE_CFG_WK0_EN else W.WAKE_CFG_WK1_EN) = true →
      Completes (.wakePin x level n) q d (commonWith [.mode, .prev, .roofTime, .cycles, .core, .rails, .seq, .cl, .adc,
        .therm, .bg, .link, .vly, .gauge, .power, .rtc, .otp, .log, .fw, .freeN]) none
        fun e => e.mode = .ramp ∧
          e.seq.request = true ∧
          e.rails = d.rails) ∧
    (∀ (x : BitVec 1) (level : Bool) (n : Nat),
      inMode d [.dormant, .standby, .retain] = false →
      d.core.porHeld = false →
      pinHeld x.toNat level n d = true →
      Completes (.wakePin x level n) q d (commonWith [.mode, .prev, .roofTime, .cycles, .core, .rails, .seq, .cl, .adc,
        .therm, .bg, .link, .vly, .gauge, .power, .rtc, .otp, .log, .fw, .freeN]) none
        fun e => flag e (if x.toNat = 0 then W.WAKE_CFG_WK0_SEEN else W.WAKE_CFG_WK1_SEEN) = true ∧
          e.mode = d.mode ∧
          e.rails = d.rails) ∧
    (∀ (x : BitVec 1) (level : Bool) (n : Nat),
      (d.mode = .dormant ∨ d.core.porHeld = true ∨ pinHeld x.toNat level n d = false ∨ (inMode d [.standby, .retain] && !flag
        d (if x.toNat = 0 then W.WAKE_CFG_WK0_EN else W.WAKE_CFG_WK1_EN)) = true) →
      Completes (.wakePin x level n) q d (commonWith [.mode, .prev, .roofTime, .cycles, .core, .rails, .seq, .cl, .adc,
        .therm, .bg, .link, .vly, .gauge, .power, .rtc, .otp, .log, .fw, .freeN]) none
        fun e => getW e W.WAKE_CFG = getW d W.WAKE_CFG ∧
          e.mode = d.mode ∧
          e.rails = d.rails ∧
          e.core = d.core) ∧
    (∀ (low high n : Nat),
      d.mode = .standby →
      (low < wakeTh d ∧ wakeTh d ≤ high ∧ 10 ≤ n) →
      Completes (.vsupWake low high n) q d (commonWith [.mode, .prev, .roofTime, .cycles, .core, .rails, .seq, .cl, .adc,
        .therm, .bg, .link, .vly, .gauge, .power, .rtc, .otp, .log, .fw, .freeN]) none
        fun e => e.mode = .boot ∧
          flag e W.RESET_CAUSE_STANDBY_WAKE = true ∧
          e.core.path = .wake) ∧
    (∀ (low high n : Nat),
      (d.mode ≠ .standby ∨ wakeTh d ≤ low ∨ high < wakeTh d ∨ n < 10) →
      Completes (.vsupWake low high n) q d (commonWith [.mode, .prev, .roofTime, .cycles, .core, .rails, .seq, .cl, .adc,
        .therm, .bg, .link, .vly, .gauge, .power, .rtc, .otp, .log, .fw, .freeN]) none
        fun e => e = d) ∧
    (∀ (us : Nat),
      d.mode = .retain →
      100 ≤ us →
      Completes (.vauxWake us) q d (commonWith [.mode, .prev, .roofTime, .cycles, .core, .rails, .seq, .cl, .adc, .therm,
        .bg, .link, .vly, .gauge, .power, .rtc, .otp, .log, .fw, .freeN]) none
        fun e => e.mode = .ramp ∧
          e.seq.request = true ∧
          e.rails = d.rails ∧
          (trcState e = 0 ∨ trcState e = 1)) ∧
    (∀ (us : Nat),
      d.mode = .standby →
      100 ≤ us →
      Completes (.vauxWake us) q d (commonWith [.mode, .prev, .roofTime, .cycles, .core, .rails, .seq, .cl, .adc, .therm,
        .bg, .link, .vly, .gauge, .power, .rtc, .otp, .log, .fw, .freeN]) none
        fun e => e.mode = .boot ∧
          flag e W.RESET_CAUSE_STANDBY_WAKE = true ∧
          e.core.path = .wake) ∧
    (∀ (us : Nat),
      (inMode d [.standby, .retain] = false ∨ us < 100) →
      Completes (.vauxWake us) q d (commonWith [.mode, .prev, .roofTime, .cycles, .core, .rails, .seq, .cl, .adc, .therm,
        .bg, .link, .vly, .gauge, .power, .rtc, .otp, .log, .fw, .freeN]) none
        fun e => e = d)

/-- From Q19, FENCE_ALL, QUEUE_CFG, TAG_FLUSH, SEQ_UP, SEQ_DOWN, MODE_SET, LATCH_CLEAR, RESET_SOFT, RESET_HARD, OTP_FINALIZE,
TRUSS_STAGE, TRUSS_COMMIT, FW_STAGE, FW_ACTIVATE and WDT_KICK complete with DENIED_PERMISSION: the completion returns to
Thatch, and beside it only counters, events and the passing of time change. A fence of Thatch that waits would complete behind
it, so none is taken to wait. -/
def Obligations.ThatchDenied : Prop :=
  ∀ (q : List Instr) (d : Device), canonical d = true →
    (∀ (rq : Req),
      engineOn d = true →
      rq.src = .thatch →
      d.eng.issued.any (fun x => x.src == .thatch && x.op == 0x01) = false →
      Completes (.fenceAll rq) q d common (some eventTables)
        fun e => returned (mkCmd rq 0x02 [] [] d) .deniedPermission 0#32 0#32 e = true) ∧
    (∀ (rq : Req) (p0 : Word),
      engineOn d = true →
      rq.src = .thatch →
      d.eng.issued.any (fun x => x.src == .thatch && x.op == 0x01) = false →
      Completes (.queueCfg rq p0) q d common (some eventTables)
        fun e => returned (mkCmd rq 0x04 [] [] d) .deniedPermission 0#32 0#32 e = true) ∧
    (∀ (rq : Req) (p0 : Word),
      engineOn d = true →
      rq.src = .thatch →
      d.eng.issued.any (fun x => x.src == .thatch && x.op == 0x01) = false →
      Completes (.tagFlush rq p0) q d common (some eventTables)
        fun e => returned (mkCmd rq 0x05 [] [] d) .deniedPermission 0#32 0#32 e = true) ∧
    (∀ (rq : Req),
      engineOn d = true →
      rq.src = .thatch →
      d.eng.issued.any (fun x => x.src == .thatch && x.op == 0x01) = false →
      Completes (.seqUp rq) q d (commonWith [.roofTime, .cycles]) (some eventTables)
        fun e => returned (mkCmd rq 0x20 [] [] d) .deniedPermission 0#32 0#32 e = true) ∧
    (∀ (rq : Req),
      engineOn d = true →
      rq.src = .thatch →
      d.eng.issued.any (fun x => x.src == .thatch && x.op == 0x01) = false →
      Completes (.seqDown rq) q d (commonWith [.roofTime, .cycles]) (some eventTables)
        fun e => returned (mkCmd rq 0x21 [] [] d) .deniedPermission 0#32 0#32 e = true) ∧
    (∀ (rq : Req) (p0 : Word),
      engineOn d = true →
      rq.src = .thatch →
      d.eng.issued.any (fun x => x.src == .thatch && x.op == 0x01) = false →
      Completes (.modeSet rq p0) q d (commonWith [.roofTime, .cycles]) (some eventTables)
        fun e => returned (mkCmd rq 0x25 [] [] d) .deniedPermission 0#32 0#32 e = true) ∧
    (∀ (rq : Req),
      engineOn d = true →
      rq.src = .thatch →
      d.eng.issued.any (fun x => x.src == .thatch && x.op == 0x01) = false →
      Completes (.latchClear rq) q d (commonWith [.roofTime, .cycles]) (some eventTables)
        fun e => returned (mkCmd rq 0x26 [] [] d) .deniedPermission 0#32 0#32 e = true) ∧
    (∀ (rq : Req) (p0 : Word),
      engineOn d = true →
      rq.src = .thatch →
      d.eng.issued.any (fun x => x.src == .thatch && x.op == 0x01) = false →
      Completes (.resetSoft rq p0) q d (commonWith [.roofTime, .cycles]) (some eventTables)
        fun e => returned (mkCmd rq 0x27 [] [] d) .deniedPermission 0#32 0#32 e = true) ∧
    (∀ (rq : Req) (p0 : Word),
      engineOn d = true →
      rq.src = .thatch →
      d.eng.issued.any (fun x => x.src == .thatch && x.op == 0x01) = false →
      Completes (.resetHard rq p0) q d (commonWith [.roofTime, .cycles]) (some eventTables)
        fun e => returned (mkCmd rq 0x28 [] [] d) .deniedPermission 0#32 0#32 e = true) ∧
    (∀ (rq : Req) (p0 : Word) (vpre : Nat) (hot : Int),
      engineOn d = true →
      rq.src = .thatch →
      d.eng.issued.any (fun x => x.src == .thatch && x.op == 0x01) = false →
      Completes (.otpFinalize rq p0 vpre hot) q d (commonWith [.roofTime, .cycles]) (some eventTables)
        fun e => returned (mkCmd rq 0x93 [] [] d) .deniedPermission 0#32 0#32 e = true) ∧
    (∀ (rq : Req) (p0 : Word) (data : List Word),
      engineOn d = true →
      rq.src = .thatch →
      d.eng.issued.any (fun x => x.src == .thatch && x.op == 0x01) = false →
      Completes (.trussStage rq p0 data) q d common (some eventTables)
        fun e => returned (mkCmd rq 0x94 [] [] d) .deniedPermission 0#32 0#32 e = true) ∧
    (∀ (rq : Req),
      engineOn d = true →
      rq.src = .thatch →
      d.eng.issued.any (fun x => x.src == .thatch && x.op == 0x01) = false →
      Completes (.trussCommit rq) q d (commonWith [.roofTime, .cycles]) (some eventTables)
        fun e => returned (mkCmd rq 0x95 [] [] d) .deniedPermission 0#32 0#32 e = true) ∧
    (∀ (rq : Req) (p0 : Word) (data : List Word),
      engineOn d = true →
      rq.src = .thatch →
      d.eng.issued.any (fun x => x.src == .thatch && x.op == 0x01) = false →
      Completes (.fwStage rq p0 data) q d common (some eventTables)
        fun e => returned (mkCmd rq 0xA0 [] [] d) .deniedPermission 0#32 0#32 e = true) ∧
    (∀ (rq : Req) (p0 : Word) (vpre : Nat) (hot : Int),
      engineOn d = true →
      rq.src = .thatch →
      d.eng.issued.any (fun x => x.src == .thatch && x.op == 0x01) = false →
      Completes (.fwActivate rq p0 vpre hot) q d (commonWith [.roofTime, .cycles]) (some eventTables)
        fun e => returned (mkCmd rq 0xA1 [] [] d) .deniedPermission 0#32 0#32 e = true) ∧
    (∀ (rq : Req),
      engineOn d = true →
      rq.src = .thatch →
      d.eng.issued.any (fun x => x.src == .thatch && x.op == 0x01) = false →
      Completes (.wdtKick rq) q d common (some eventTables)
        fun e => returned (mkCmd rq 0xA2 [] [] d) .deniedPermission 0#32 0#32 e = true)

/-- REG_READ, REG_READ_BLOCK, and from every source but Thatch REG_WRITE and REG_RMW, that address a reserved page or an
offset that no table lists complete with BAD_PARAM and W1 0; beside the completion nothing changes. (Thatch's writes of the
pages that R422 names complete with DENIED_PERMISSION instead.) -/
def Obligations.UnlistedAddressRefused : Prop :=
  ∀ (q : List Instr) (d : Device), canonical d = true →
    (∀ (rq : Req) (p0 : Word),
      engineOn d = true →
      addrOk p0 = false →
      Completes (.regRead rq p0) q d common (some eventTables)
        fun e => answered rq 0x10 .badParam 0#32 0#32 d e = true) ∧
    (∀ (rq : Req) (p0 : Word),
      engineOn d = true →
      (famOf? (bitsOf p0 15 0)).isSome = false →
      Completes (.regReadBlock rq p0) q d common (some eventTables)
        fun e => answered rq 0x13 .badParam 0#32 0#32 d e = true) ∧
    (∀ (rq : Req) (p0 p1 : Word),
      engineOn d = true →
      rq.src ≠ .thatch →
      addrOk p0 = false →
      Completes (.regWrite rq p0 p1) q d common (some eventTables)
        fun e => answered rq 0x11 .badParam 0#32 0#32 d e = true) ∧
    (∀ (rq : Req) (p0 p1 p2 : Word),
      engineOn d = true →
      rq.src ≠ .thatch →
      addrOk p0 = false →
      Completes (.regRmw rq p0 p1 p2) q d common (some eventTables)
        fun e => answered rq 0x12 .badParam 0#32 0#32 d e = true)

/-- The boot reaches stage 5, in which the self-test runs, only when the flag is clear, and stage 6 otherwise; a POWER-ON
reset clears the flag; a passing self-test sets it. -/
def Obligations.SelfTestFlag : Prop :=
  ∀ (q : List Instr) (d : Device), canonical d = true →
    (bootStage d = 2 →
      d.core.hardHeld = false →
      d.core.porHeld = false →
      d.core.clocksOff = false →
      Completes .otpRegionsRead q d (commonWith [.mode, .prev, .core, .seq, .cl, .link, .vly, .gauge, .power, .rtc, .otp,
        .log, .fw]) none
        fun e => bootStage e = (if d.core.testPassed then 6 else 5)) ∧
    (∀ (bkCold : Bool),
      Completes (.powerOnReset bkCold) q d (commonWith [.mode, .prev, .roofTime, .cycles, .core, .rails, .seq, .cl, .adc,
        .therm, .bg, .link, .vly, .gauge, .power, .rtc, .otp, .log, .fw, .freeN]) none
        fun e => e.core.testPassed = false) ∧
    (d.mode ≠ .dormant →
      Completes .uvlo q d (commonWith [.mode, .prev, .roofTime, .cycles, .core, .rails, .seq, .cl, .adc, .therm, .bg, .link,
        .vly, .gauge, .power, .rtc, .otp, .log, .fw, .freeN]) none
        fun e => e.core.testPassed = false) ∧
    (∀ (pass : Bool),
      bootStage d = 5 →
      d.core.hardHeld = false →
      d.core.porHeld = false →
      pass = true →
      Completes (.bootSelftestDone pass) q d (commonWith [.mode, .prev, .core, .seq, .cl, .link, .vly, .gauge, .rtc, .log,
        .fw]) none
        fun e => e.core.testPassed = true)

/-- While the retry wait runs in LATCHED, SEQ_DOWN cancels the retry, completes OK and leaves the mode; an accepted
LATCH_CLEAR (R430) cancels the wait and enters BOOT in the same step. -/
def Obligations.RetryWaitEnds : Prop :=
  ∀ (q : List Instr) (d : Device), canonical d = true →
    (∀ (rq : Req),
      engineOn d = true →
      rq.src ≠ .thatch →
      d.mode = .latched →
      d.seq.retryWait = true →
      Completes (.seqDown rq) q d (commonWith [.mode, .prev, .roofTime, .cycles, .core, .rails, .seq, .cl, .link, .vly,
        .gauge, .rtc, .log, .fw]) none
        fun e => e.seq.retryWait = false ∧
          e.mode = .latched ∧
          answered rq 0x21 .ok 0#32 0#32 d e = true) ∧
    (∀ (rq : Req),
      engineOn d = true →
      rq.src ≠ .thatch →
      d.mode = .latched →
      d.seq.retryWait = true →
      flag d W.MODE_STATUS_ADOPTING = false →
      fld d W.MODE_STATUS_LATCH_CAUSE ≠ 7 ∨ tooHot d = false →
      Completes (.latchClear rq) q d (commonWith [.mode, .prev, .roofTime, .cycles, .core, .seq, .cl, .link, .vly, .gauge,
        .rtc, .log, .fw]) none
        fun e => e.seq.retryWait = false ∧
          e.mode = .boot)

/-- The row in which the head packet of a queue issues leaves the queue's free words greater by the packet's header and
parameter words, and no roof time and no cycle passes in it. A queue holds at most its 256 words before it. -/
def Obligations.IssueFreesQueueSpace : Prop :=
  ∀ (q : List Instr) (d : Device), canonical d = true →
    (∀ (pick : Nat) (k : Nat) (p : QPkt),
      engineOn d = true →
      (chooseQueue pick d).map (fun r => r.1) = some k →
      headOf d k = some p →
      Machine.sizeOf (queue d k) ≤ 256 →
      Completes (.packetIssue pick) q d (commonWith [.freeN]) (eventsWith [W.ENG_TAG_CNT])
        fun e => freeWords e k = freeWords d k + 1 + p.params.length ∧
          e.roofTime = d.roofTime ∧
          e.cycles = d.cycles)
end

