-- ==== Sys2Proof/Laws/Keeps.lean ====
section
/-! SUPPORT. What an operation keeps: the parts of the block outside a set, the canonical form of the word store, and every
OTP bit that is blown. `Keeps m w d0 d` says it of two blocks; the lemmas of the other Laws files say it of every operation. -/

set_option linter.all false
set_option Elab.async false

namespace Sys2Proof.Machine

/-- The set `a` of parts lies within the set `b`. -/
def Within (a b : Nat) : Prop := ∀ i, a.testBit i = true → b.testBit i = true

theorem Within.bit {a b i} (h : Within a b) (k : a.testBit i = true) : b.testBit i = true := h i k

theorem Within.sub {a b c : Nat} (h : Within b c) (k : a &&& b = a) : Within a c := by
  intro i hi
  apply h
  rw [← k, Nat.testBit_and] at hi
  exact (Bool.and_eq_true_iff.mp hi).2

theorem Within.refl (a : Nat) : Within a a := fun _ h => h

/-- Every OTP bit that reads 1 in `o0` reads 1 in `o`. -/
def Blown (o0 o : SMap Nat) : Prop :=
  ∀ w b, (SMap.get (fun _ => 0) o0 w).testBit b = true → (SMap.get (fun _ => 0) o w).testBit b = true

/-- Every store beside the words is in canonical form. -/
structure PartsOk (d : Device) : Prop where
  rails : railsOk d.rails = true
  cl : clOk d.cl = true
  ev : evOk d.ev = true
  eng : engOk d.eng = true
  perf : perfOk d.perf = true
  adc : adcOk d.adc = true
  therm : thermOk d.therm = true
  bg : bgOk d.bg = true
  link : linkOk d.link = true
  vly : vlyOk d.vly = true
  rtc : rtcOk d.rtc = true
  otp : otpOk d.otp = true
  log : logOk d.log = true
  fw : fwOk d.fw = true

/-- A test that holds holds still after an update of `e`, where the stores of `d0` and `e` are in canonical form. -/
structure Imp (d0 e : Device) (a b : Bool) : Prop where
  imp : PartsOk d0 → PartsOk e → a = true → b = true

theorem Imp.refl {d e : Device} (a : Bool) : Imp d e a a := ⟨fun _ _ h => h⟩

/-- The words of Q12 in `b` are those in `a` with entries of four words behind them. -/
def Grown (a b : EngSt) : Prop :=
  ∃ l, (SMap.get (fun _ => ({} : Ring)) b.rings 12).words = (SMap.get (fun _ => ({} : Ring)) a.rings 12).words ++ l ∧ 4 ∣ l.length

theorem Grown.refl (a : EngSt) : Grown a a := ⟨[], by simp, by simp⟩

theorem Grown.trans {a b c : EngSt} (h : Grown a b) (k : Grown b c) : Grown a c := by
  obtain ⟨l, h1, h2⟩ := h
  obtain ⟨r, k1, k2⟩ := k
  exact ⟨l ++ r, by rw [k1, h1, List.append_assoc], by rw [List.length_append]; exact Nat.dvd_add h2 k2⟩

/-- The word at `a` lies in a table of the set `w`: bit k stands for table k of `allFams`, bit 230 for every address. -/
def famTouch (w a : Nat) : Bool := w.testBit 230 || allFams.zipIdx.any (fun p => w.testBit p.2 && p.1.covers a)

/-- Table `k` is the table of field `f`. -/
def isFam (f : Fld) (k : Nat) : Bool :=
  match allFams[k]? with
  | some x => x.base == f.base && x.stride == f.stride && x.count == f.count && decide (0 < x.stride)
  | none => false

/-- Table `k` holds the word at `a`. -/
def isAt (a k : Nat) : Bool :=
  match allFams[k]? with
  | some x => x.covers a
  | none => false

theorem famTouch_at {w a k : Nat} (h : isAt a k = true) (hw : w.testBit k = true) : famTouch w a = true := by
  unfold isAt at h
  split at h
  · rename_i x hx
    simp only [famTouch, Bool.or_eq_true, List.any_eq_true]
    refine .inr ⟨(x, k), ?_, ?_⟩
    · rw [List.mem_zipIdx_iff_getElem?]
      exact hx
    · simp [hw, h]
  · cases h

theorem isAt_of_fam {f : Fld} {k i : Nat} (h : isFam f k = true) (hi : i < f.count) : isAt (f.base + f.stride * i) k = true := by
  unfold isFam at h
  unfold isAt
  split at h
  · rename_i x hx
    simp only [Bool.and_eq_true, beq_iff_eq, decide_eq_true_eq] at h
    obtain ⟨⟨⟨h1, h2⟩, h3⟩, h4⟩ := h
    simp only [WordFam.covers, h1, h2, h3, Nat.add_sub_cancel_left, Bool.and_eq_true, decide_eq_true_eq, beq_iff_eq]
    refine ⟨⟨by omega, Nat.mul_mod_right _ _⟩, ?_⟩
    rw [Nat.mul_div_cancel_left _ (by omega)]
    exact hi
  · cases h

/-- From `d0` to `d` only the parts in the set `m` change (bit 0 words, 1 mode, 2 prev, 3 roofTime, 4 cycles, 5 core, 6 rails,
7 seq, 8 cl, 9 ev, 10 eng, 11 perf, 12 adc, 13 therm, 14 bg, 15 link, 16 vly, 17 gauge, 18 power, 19 rtc, 20 otp, 21 log, 22 fw,
23 freeN); canonical stores stay canonical, blown OTP bits stay blown, only words in the tables of the set `w` change, and, without
bit 231 of `w`, Q12 only gains entries. -/
structure Keeps (m w : Nat) (d0 d : Device) : Prop where
  words : d.words = d0.words ∨ m.testBit 0 = true
  mode : d.mode = d0.mode ∨ m.testBit 1 = true
  prev : d.prev = d0.prev ∨ m.testBit 2 = true
  roofTime : d.roofTime = d0.roofTime ∨ m.testBit 3 = true
  cycles : d.cycles = d0.cycles ∨ m.testBit 4 = true
  core : d.core = d0.core ∨ m.testBit 5 = true
  rails : d.rails = d0.rails ∨ m.testBit 6 = true
  seq : d.seq = d0.seq ∨ m.testBit 7 = true
  cl : d.cl = d0.cl ∨ m.testBit 8 = true
  ev : d.ev = d0.ev ∨ m.testBit 9 = true
  eng : d.eng = d0.eng ∨ m.testBit 10 = true
  perf : d.perf = d0.perf ∨ m.testBit 11 = true
  adc : d.adc = d0.adc ∨ m.testBit 12 = true
  therm : d.therm = d0.therm ∨ m.testBit 13 = true
  bg : d.bg = d0.bg ∨ m.testBit 14 = true
  link : d.link = d0.link ∨ m.testBit 15 = true
  vly : d.vly = d0.vly ∨ m.testBit 16 = true
  gauge : d.gauge = d0.gauge ∨ m.testBit 17 = true
  power : d.power = d0.power ∨ m.testBit 18 = true
  rtc : d.rtc = d0.rtc ∨ m.testBit 19 = true
  otp : d.otp = d0.otp ∨ m.testBit 20 = true
  log : d.log = d0.log ∨ m.testBit 21 = true
  fw : d.fw = d0.fw ∨ m.testBit 22 = true
  freeN : d.freeN = d0.freeN ∨ m.testBit 23 = true
  canon : SMap.wf resetWord d0.words = true → SMap.wf resetWord d.words = true
  ok : PartsOk d0 → PartsOk d
  blown : Blown d0.otp.array d.otp.array
  frame : ∀ a, famTouch w a = false → getW d a = getW d0 a
  q12 : w.testBit 231 = true ∨ (PartsOk d0 → Grown d0.eng d.eng)

theorem Keeps.refl (m w : Nat) (d : Device) : Keeps m w d d :=
  ⟨.inl rfl, .inl rfl, .inl rfl, .inl rfl, .inl rfl, .inl rfl, .inl rfl, .inl rfl, .inl rfl, .inl rfl, .inl rfl, .inl rfl,
   .inl rfl, .inl rfl, .inl rfl, .inl rfl, .inl rfl, .inl rfl, .inl rfl, .inl rfl, .inl rfl, .inl rfl, .inl rfl, .inl rfl,
   id, id, fun _ _ h => h, fun _ _ => rfl, .inr fun _ => Grown.refl _⟩

theorem eq_or_trans {α : Type} {a b c : α} {p : Prop} (h : a = b ∨ p) (k : b = c ∨ p) : a = c ∨ p := by
  rcases h with h | h
  · rcases k with k | k
    · exact .inl (h.trans k)
    · exact .inr k
  · exact .inr h

/-- `Keeps` of a block written out field by field. -/
def KeepsMk (m w : Nat) (d0 : Device) (ws : SMap Word) (md pv : Mode) (rt cy : Nat) (co : CoreSt) (ra : SMap Rail) (sq : SeqSt)
    (cl : SMap ClSt) (ev : EvSt) (en : EngSt) (pf : PerfSt) (ad : AdcSt) (th : ThermSt) (bg : BgSt) (li : LinkSt) (vl : VlySt)
    (ga : GaugeSt) (po : PowerSt) (rtc : RtcSt) (ot : OtpSt) (lo : LogSt) (fw : FwSt) (fn : Nat) : Prop :=
  Keeps m w d0 ⟨ws, md, pv, rt, cy, co, ra, sq, cl, ev, en, pf, ad, th, bg, li, vl, ga, po, rtc, ot, lo, fw, fn⟩

theorem keepsMk_iff {m w d0 ws md pv rt cy co ra sq cl ev en pf ad th bg li vl ga po rtc ot lo fw fn} :
    Keeps m w d0 ⟨ws, md, pv, rt, cy, co, ra, sq, cl, ev, en, pf, ad, th, bg, li, vl, ga, po, rtc, ot, lo, fw, fn⟩ =
      KeepsMk m w d0 ws md pv rt cy co ra sq cl ev en pf ad th bg li vl ga po rtc ot lo fw fn := rfl

/-- A record update of a block that is kept. -/
theorem keeps_mk {m w d0 e ws md pv rt cy co ra sq cl ev en pf ad th bg li vl ga po rtc ot lo fw fn} (hw : ws = Device.words e)
    (ho : (OtpSt.array ot) = e.otp.array) (hr : w.testBit 231 = true ∨ EngSt.rings en = e.eng.rings) (h : Keeps m w d0 e)
    (h1 : md = e.mode ∨ m.testBit 1 = true) (h2 : pv = e.prev ∨ m.testBit 2 = true)
    (h3 : rt = e.roofTime ∨ m.testBit 3 = true) (h4 : cy = e.cycles ∨ m.testBit 4 = true)
    (h5 : co = e.core ∨ m.testBit 5 = true) (h6 : ra = e.rails ∨ m.testBit 6 = true)
    (h7 : sq = e.seq ∨ m.testBit 7 = true) (h8 : cl = e.cl ∨ m.testBit 8 = true)
    (h9 : ev = e.ev ∨ m.testBit 9 = true) (h10 : en = e.eng ∨ m.testBit 10 = true)
    (h11 : pf = e.perf ∨ m.testBit 11 = true) (h12 : ad = e.adc ∨ m.testBit 12 = true)
    (h13 : th = e.therm ∨ m.testBit 13 = true) (h14 : bg = e.bg ∨ m.testBit 14 = true)
    (h15 : li = e.link ∨ m.testBit 15 = true) (h16 : vl = e.vly ∨ m.testBit 16 = true)
    (h17 : ga = e.gauge ∨ m.testBit 17 = true) (h18 : po = e.power ∨ m.testBit 18 = true)
    (h19 : rtc = e.rtc ∨ m.testBit 19 = true) (h20 : ot = e.otp ∨ m.testBit 20 = true)
    (h21 : lo = e.log ∨ m.testBit 21 = true) (h22 : fw = e.fw ∨ m.testBit 22 = true)
    (h23 : fn = e.freeN ∨ m.testBit 23 = true)
    (k0 : Imp d0 e (railsOk e.rails) (railsOk ra))
    (k1 : Imp d0 e (clOk e.cl) (clOk cl))
    (k2 : Imp d0 e (evOk e.ev) (evOk ev))
    (k3 : Imp d0 e (engOk e.eng) (engOk en))
    (k4 : Imp d0 e (perfOk e.perf) (perfOk pf))
    (k5 : Imp d0 e (adcOk e.adc) (adcOk ad))
    (k6 : Imp d0 e (thermOk e.therm) (thermOk th))
    (k7 : Imp d0 e (bgOk e.bg) (bgOk bg))
    (k8 : Imp d0 e (linkOk e.link) (linkOk li))
    (k9 : Imp d0 e (vlyOk e.vly) (vlyOk vl))
    (k10 : Imp d0 e (rtcOk e.rtc) (rtcOk rtc))
    (k11 : Imp d0 e (otpOk e.otp) (otpOk ot))
    (k12 : Imp d0 e (logOk e.log) (logOk lo))
    (k13 : Imp d0 e (fwOk e.fw) (fwOk fw)) :
    KeepsMk m w d0 ws md pv rt cy co ra sq cl ev en pf ad th bg li vl ga po rtc ot lo fw fn := by
  subst hw
  exact ⟨h.words, eq_or_trans h1 h.mode, eq_or_trans h2 h.prev, eq_or_trans h3 h.roofTime, eq_or_trans h4 h.cycles,
    eq_or_trans h5 h.core, eq_or_trans h6 h.rails, eq_or_trans h7 h.seq, eq_or_trans h8 h.cl, eq_or_trans h9 h.ev,
    eq_or_trans h10 h.eng, eq_or_trans h11 h.perf, eq_or_trans h12 h.adc, eq_or_trans h13 h.therm, eq_or_trans h14 h.bg,
    eq_or_trans h15 h.link, eq_or_trans h16 h.vly, eq_or_trans h17 h.gauge, eq_or_trans h18 h.power, eq_or_trans h19 h.rtc,
    eq_or_trans h20 h.otp, eq_or_trans h21 h.log, eq_or_trans h22 h.fw, eq_or_trans h23 h.freeN, h.canon,
    fun q => let r := h.ok q
      ⟨k0.imp q r r.rails, k1.imp q r r.cl, k2.imp q r r.ev, k3.imp q r r.eng, k4.imp q r r.perf, k5.imp q r r.adc, k6.imp q r r.therm, k7.imp q r r.bg, k8.imp q r r.link, k9.imp q r r.vly, k10.imp q r r.rtc, k11.imp q r r.otp, k12.imp q r r.log, k13.imp q r r.fw⟩,
    by show Blown _ (OtpSt.array ot); rw [ho]; exact h.blown, h.frame,
    hr.elim .inl fun hr => h.q12.imp id fun k p => by
      obtain ⟨l, k1, k2⟩ := k p
      exact ⟨l, by show (SMap.get _ (EngSt.rings en) 12).words = _; rw [hr]; exact k1, k2⟩⟩

/-- A block whose word store has been made anew in canonical form. -/
theorem keeps_mkC {m w d0 e ws md pv rt cy co ra sq cl ev en pf ad th bg li vl ga po rtc ot lo fw fn}
    (hc : SMap.wf resetWord ws = true) (h0 : m.testBit 0 = true) (ha : w.testBit 230 = true) (hb : w.testBit 231 = true)
    (ho : (OtpSt.array ot) = e.otp.array) (h : Keeps m w d0 e)
    (h1 : md = e.mode ∨ m.testBit 1 = true) (h2 : pv = e.prev ∨ m.testBit 2 = true)
    (h3 : rt = e.roofTime ∨ m.testBit 3 = true) (h4 : cy = e.cycles ∨ m.testBit 4 = true)
    (h5 : co = e.core ∨ m.testBit 5 = true) (h6 : ra = e.rails ∨ m.testBit 6 = true)
    (h7 : sq = e.seq ∨ m.testBit 7 = true) (h8 : cl = e.cl ∨ m.testBit 8 = true)
    (h9 : ev = e.ev ∨ m.testBit 9 = true) (h10 : en = e.eng ∨ m.testBit 10 = true)
    (h11 : pf = e.perf ∨ m.testBit 11 = true) (h12 : ad = e.adc ∨ m.testBit 12 = true)
    (h13 : th = e.therm ∨ m.testBit 13 = true) (h14 : bg = e.bg ∨ m.testBit 14 = true)
    (h15 : li = e.link ∨ m.testBit 15 = true) (h16 : vl = e.vly ∨ m.testBit 16 = true)
    (h17 : ga = e.gauge ∨ m.testBit 17 = true) (h18 : po = e.power ∨ m.testBit 18 = true)
    (h19 : rtc = e.rtc ∨ m.testBit 19 = true) (h20 : ot = e.otp ∨ m.testBit 20 = true)
    (h21 : lo = e.log ∨ m.testBit 21 = true) (h22 : fw = e.fw ∨ m.testBit 22 = true)
    (h23 : fn = e.freeN ∨ m.testBit 23 = true)
    (k0 : Imp d0 e (railsOk e.rails) (railsOk ra))
    (k1 : Imp d0 e (clOk e.cl) (clOk cl))
    (k2 : Imp d0 e (evOk e.ev) (evOk ev))
    (k3 : Imp d0 e (engOk e.eng) (engOk en))
    (k4 : Imp d0 e (perfOk e.perf) (perfOk pf))
    (k5 : Imp d0 e (adcOk e.adc) (adcOk ad))
    (k6 : Imp d0 e (thermOk e.therm) (thermOk th))
    (k7 : Imp d0 e (bgOk e.bg) (bgOk bg))
    (k8 : Imp d0 e (linkOk e.link) (linkOk li))
    (k9 : Imp d0 e (vlyOk e.vly) (vlyOk vl))
    (k10 : Imp d0 e (rtcOk e.rtc) (rtcOk rtc))
    (k11 : Imp d0 e (otpOk e.otp) (otpOk ot))
    (k12 : Imp d0 e (logOk e.log) (logOk lo))
    (k13 : Imp d0 e (fwOk e.fw) (fwOk fw)) :
    KeepsMk m w d0 ws md pv rt cy co ra sq cl ev en pf ad th bg li vl ga po rtc ot lo fw fn := by
  exact ⟨.inr h0, eq_or_trans h1 h.mode, eq_or_trans h2 h.prev, eq_or_trans h3 h.roofTime, eq_or_trans h4 h.cycles,
    eq_or_trans h5 h.core, eq_or_trans h6 h.rails, eq_or_trans h7 h.seq, eq_or_trans h8 h.cl, eq_or_trans h9 h.ev,
    eq_or_trans h10 h.eng, eq_or_trans h11 h.perf, eq_or_trans h12 h.adc, eq_or_trans h13 h.therm, eq_or_trans h14 h.bg,
    eq_or_trans h15 h.link, eq_or_trans h16 h.vly, eq_or_trans h17 h.gauge, eq_or_trans h18 h.power, eq_or_trans h19 h.rtc,
    eq_or_trans h20 h.otp, eq_or_trans h21 h.log, eq_or_trans h22 h.fw, eq_or_trans h23 h.freeN, fun _ => hc,
    fun q => let r := h.ok q
      ⟨k0.imp q r r.rails, k1.imp q r r.cl, k2.imp q r r.ev, k3.imp q r r.eng, k4.imp q r r.perf, k5.imp q r r.adc, k6.imp q r r.therm, k7.imp q r r.bg, k8.imp q r r.link, k9.imp q r r.vly, k10.imp q r r.rtc, k11.imp q r r.otp, k12.imp q r r.log, k13.imp q r r.fw⟩,
    by show Blown _ (OtpSt.array ot); rw [ho]; exact h.blown,
    fun a hq => by simp [famTouch, ha] at hq, .inl hb⟩

theorem keeps_ite {m w d0 a b} {c : Prop} [Decidable c] (h1 : Keeps m w d0 a) (h2 : Keeps m w d0 b) :
    Keeps m w d0 (if c then a else b) := by
  split <;> assumption

theorem keeps_id {m w d0 d} (h : Keeps m w d0 d) : Keeps m w d0 (id d) := h

theorem keeps_foldl {m w d0 d} {α : Type} {f : Device → α → Device} {l : List α} (h : Keeps m w d0 d)
    (hf : ∀ e x, Keeps m w d0 e → Keeps m w d0 (f e x)) : Keeps m w d0 (l.foldl f d) := by
  induction l generalizing d with
  | nil => exact h
  | cons x t ih => exact ih (hf _ _ h)

theorem wfFrom_set {α : Type} [DecidableEq α] {dflt : Nat → α} {k : Nat} {v : α} :
    ∀ {m : SMap α} {lo : Nat}, lo ≤ k → SMap.wfFrom dflt lo m = true → SMap.wfFrom dflt lo (SMap.set dflt k v m) = true := by
  intro m
  induction m with
  | nil =>
    intro lo hlo _
    unfold SMap.set
    split
    · rfl
    · rename_i hv
      simp [SMap.wfFrom, hlo, hv]
  | cons p t ih =>
    obtain ⟨k', v'⟩ := p
    intro lo hlo h
    simp only [SMap.wfFrom, Bool.and_eq_true, decide_eq_true_eq] at h
    obtain ⟨⟨h1, h2⟩, h3⟩ := h
    unfold SMap.set
    split
    · rename_i hlt
      split
      · simp [SMap.wfFrom, h1, h2, h3]
      · rename_i hv
        simp [SMap.wfFrom, hlo, hv, h2, h3, Nat.succ_le_of_lt hlt]
    · split
      · rename_i hk
        subst hk
        split
        · cases t with
          | nil => rfl
          | cons q t' =>
            obtain ⟨k2, v2⟩ := q
            simp only [SMap.wfFrom, Bool.and_eq_true, decide_eq_true_eq] at h3 ⊢
            exact ⟨⟨by omega, h3.1.2⟩, h3.2⟩
        · rename_i hv
          simp [SMap.wfFrom, h1, hv, h3]
      · have : k' + 1 ≤ k := by omega
        simp [SMap.wfFrom, h1, h2, ih this h3]

/-- Writing a store keeps its canonical form. -/
@[simp] theorem wf_set {α : Type} [DecidableEq α] {dflt : Nat → α} {k : Nat} {v : α} {m : SMap α} (h : SMap.wf dflt m = true) :
    SMap.wf dflt (SMap.set dflt k v m) = true := wfFrom_set (Nat.zero_le k) h

/-! ### The tests of the stores, part by part -/

@[simp] theorem evOk_iff {x : EvSt} : evOk x = true ↔
    SMap.wf (fun _ => ({} : SrcRec)) x.srcs = true ∧ SMap.wf (fun _ => ({} : GrpRec)) x.groups = true ∧
    SMap.wf (fun _ => false) x.levels = true := by
  simp only [evOk, Bool.and_eq_true, and_assoc]

@[simp] theorem engOk_iff {x : EngSt} : engOk x = true ↔
    SMap.wf (fun _ => []) x.queues = true ∧ SMap.wf (fun _ => []) x.tags = true ∧
    SMap.wf (fun _ => ({} : Ring)) x.rings = true ∧ SMap.wf (fun _ => 0) x.roundUsed = true ∧
    SMap.wf (fun _ => []) x.coreDone = true := by
  simp only [engOk, Bool.and_eq_true, and_assoc]

@[simp] theorem perfOk_iff {x : PerfSt} : perfOk x = true ↔
    SMap.wf (fun _ => 0) x.counters = true ∧ SMap.wf (fun _ => 0) x.highs = true ∧ SMap.wf (fun _ => []) x.stalls = true := by
  simp only [perfOk, Bool.and_eq_true, and_assoc]

@[simp] theorem adcOk_iff {x : AdcSt} : adcOk x = true ↔
    SMap.wf (fun _ => 0) x.last = true ∧ SMap.wf listDflt x.lists = true ∧ SMap.wf (fun _ => 0) x.pos = true ∧
    SMap.wf (fun _ => []) x.held = true ∧ SMap.wf (fun _ => none) x.subs = true ∧
    SMap.wf (fun _ => ({} : LimRec)) x.limits = true ∧ SMap.wf (fun _ => 0) x.fails = true ∧
    SMap.wf (fun _ => []) x.means = true ∧ SMap.wf (fun _ => 0) x.doneAt = true := by
  simp only [adcOk, Bool.and_eq_true, and_assoc]

@[simp] theorem thermOk_iff {x : ThermSt} : thermOk x = true ↔
    SMap.wf (fun _ => 0) x.value = true ∧ SMap.wf (fun _ => 0) x.raw = true ∧ SMap.wf (fun _ => 0) x.samples = true ∧
    SMap.wf (fun _ => 0) x.susCnt = true ∧ SMap.wf (fun _ => 0) x.okCnt = true ∧ SMap.wf (fun _ => []) x.hist = true ∧
    SMap.wf (fun _ => 0) x.calm = true ∧ SMap.wf (fun _ => 0) x.hotCnt = true := by
  simp only [thermOk, Bool.and_eq_true, and_assoc]

@[simp] theorem bgOk_iff {x : BgSt} : bgOk x = true ↔ SMap.wf (fun _ => 0) x.pausedAt = true := by
  simp only [bgOk]

@[simp] theorem linkOk_iff {x : LinkSt} : linkOk x = true ↔ SMap.wf (fun _ => ({} : Peer)) x.peers = true := by
  simp only [linkOk]

@[simp] theorem vlyOk_iff {x : VlySt} : vlyOk x = true ↔ SMap.wf (fun _ => none) x.offers = true := by
  simp only [vlyOk]

@[simp] theorem rtcOk_iff {x : RtcSt} : rtcOk x = true ↔ SMap.wf (fun _ => []) x.fifos = true := by
  simp only [rtcOk]

@[simp] theorem otpOk_iff {x : OtpSt} : otpOk x = true ↔
    SMap.wf (fun _ => 0) x.array = true ∧ SMap.wf (fun _ => 0) x.weak = true ∧ SMap.wf (fun _ => 0) x.shadow = true ∧
    SMap.wf flashDflt x.flash0 = true ∧ SMap.wf flashDflt x.flash1 = true ∧ SMap.wf (fun _ => 0) x.kept = true := by
  simp only [otpOk, Bool.and_eq_true, and_assoc]

@[simp] theorem logOk_iff {x : LogSt} : logOk x = true ↔
    SMap.wf (fun _ => []) x.records = true ∧ SMap.wf (fun _ => ({} : Sector)) x.secs = true ∧
    SMap.wf (fun _ => none) x.slots = true ∧ SMap.wf (fun _ => none) x.areas = true ∧
    SMap.wf (fun _ => 0) x.prevRaw = true := by
  simp only [logOk, Bool.and_eq_true, and_assoc]

@[simp] theorem fwOk_iff {x : FwSt} : fwOk x = true ↔ banksOk x.banks = true ∧ SMap.wf (fun _ => none) x.seals = true := by
  simp only [fwOk, Bool.and_eq_true]

@[simp] theorem railsOk_iff {m : SMap Rail} : railsOk m = true ↔ SMap.wf (fun _ => ({} : Rail)) m = true := Iff.rfl

@[simp] theorem clOk_iff {m : SMap ClSt} : clOk m = true ↔ SMap.wf (fun _ => ({} : ClSt)) m = true := Iff.rfl

theorem partsOk_iff {d : Device} : PartsOk d ↔ railsOk d.rails = true ∧ clOk d.cl = true ∧ evOk d.ev = true ∧
    engOk d.eng = true ∧ perfOk d.perf = true ∧ adcOk d.adc = true ∧ thermOk d.therm = true ∧ bgOk d.bg = true ∧
    linkOk d.link = true ∧ vlyOk d.vly = true ∧ rtcOk d.rtc = true ∧ otpOk d.otp = true ∧ logOk d.log = true ∧
    fwOk d.fw = true :=
  ⟨fun r => ⟨r.rails, r.cl, r.ev, r.eng, r.perf, r.adc, r.therm, r.bg, r.link, r.vly, r.rtc, r.otp, r.log, r.fw⟩,
   fun ⟨a, b, c, e, f, g, h, i, j, k, l, m, n, o⟩ => ⟨a, b, c, e, f, g, h, i, j, k, l, m, n, o⟩⟩

@[simp] theorem wf_nil {α : Type} [DecidableEq α] {dflt : Nat → α} : SMap.wf dflt [] = true := rfl

theorem wfFrom_mono {α : Type} [DecidableEq α] {dflt : Nat → α} :
    ∀ {m : SMap α} {lo hi : Nat}, lo ≤ hi → SMap.wfFrom dflt hi m = true → SMap.wfFrom dflt lo m = true := by
  intro m
  cases m with
  | nil => intros; rfl
  | cons p t =>
    obtain ⟨k, v⟩ := p
    intro lo hi h hw
    simp only [SMap.wfFrom, Bool.and_eq_true, decide_eq_true_eq] at hw ⊢
    exact ⟨⟨by omega, hw.1.2⟩, hw.2⟩

theorem wfFrom_filter {α : Type} [DecidableEq α] {dflt : Nat → α} {f : Nat × α → Bool} :
    ∀ {m : SMap α} {lo : Nat}, SMap.wfFrom dflt lo m = true → SMap.wfFrom dflt lo (m.filter f) = true := by
  intro m
  induction m with
  | nil => intros; rfl
  | cons p t ih =>
    obtain ⟨k, v⟩ := p
    intro lo h
    have h' := h
    simp only [SMap.wfFrom, Bool.and_eq_true, decide_eq_true_eq] at h
    rw [List.filter_cons]
    split
    · simp only [SMap.wfFrom, Bool.and_eq_true, decide_eq_true_eq]
      exact ⟨h.1, ih h.2⟩
    · exact wfFrom_mono (by omega) (ih h.2)

/-- A store with entries taken out stays canonical. -/
@[simp] theorem wf_filter {α : Type} [DecidableEq α] {dflt : Nat → α} {f : Nat × α → Bool} {m : SMap α}
    (h : SMap.wf dflt m = true) : SMap.wf dflt (m.filter f) = true := wfFrom_filter h

/-- A store written by a fold stays canonical. -/
theorem wf_foldl {α β : Type} [DecidableEq α] {dflt : Nat → α} {f : SMap α → β → SMap α} {l : List β}
    (hf : ∀ m x, SMap.wf dflt m = true → SMap.wf dflt (f m x) = true) :
    ∀ {m : SMap α}, SMap.wf dflt m = true → SMap.wf dflt (l.foldl f m) = true := by
  induction l with
  | nil => intro m h; exact h
  | cons x t ih => intro m h; exact ih (hf m x h)

theorem get_set_lt {α : Type} [DecidableEq α] {dflt : Nat → α} {j : Nat} :
    ∀ {m : SMap α} {lo : Nat}, j < lo → SMap.wfFrom dflt lo m = true → SMap.get dflt m j = dflt j := by
  intro m
  induction m with
  | nil => intros; rfl
  | cons p t ih =>
    obtain ⟨k', v'⟩ := p
    intro lo hlo h
    simp only [SMap.wfFrom, Bool.and_eq_true, decide_eq_true_eq] at h
    have hne : k' ≠ j := by omega
    simp only [SMap.get, hne, if_false]
    exact ih (by omega) h.2

/-- Reading a key other than the one written. -/
theorem get_set_ne {α : Type} [DecidableEq α] {dflt : Nat → α} {k j : Nat} {v : α} (hne : j ≠ k) :
    ∀ {m : SMap α}, SMap.get dflt (SMap.set dflt k v m) j = SMap.get dflt m j := by
  intro m
  induction m with
  | nil =>
    unfold SMap.set
    split
    · rfl
    · simp [SMap.get, Ne.symm hne]
  | cons p t ih =>
    obtain ⟨k', v'⟩ := p
    unfold SMap.set
    split
    · split
      · rfl
      · simp [SMap.get, Ne.symm hne]
    · split
      · rename_i hk
        subst hk
        split <;> simp [SMap.get, Ne.symm hne]
      · simp only [SMap.get, ih]

theorem get_set_from {α : Type} [DecidableEq α] {dflt : Nat → α} {k : Nat} {v : α} :
    ∀ {m : SMap α} {lo : Nat}, SMap.wfFrom dflt lo m = true → SMap.get dflt (SMap.set dflt k v m) k = v := by
  intro m
  induction m with
  | nil =>
    intro lo _
    unfold SMap.set
    split
    · rename_i hv; simp [SMap.get, hv]
    · simp [SMap.get]
  | cons p t ih =>
    obtain ⟨k', v'⟩ := p
    intro lo h
    have h' := h
    simp only [SMap.wfFrom, Bool.and_eq_true, decide_eq_true_eq] at h
    unfold SMap.set
    split
    · rename_i hlt
      split
      · rename_i hv
        have hne : k' ≠ k := by omega
        simp only [SMap.get, hne, if_false, hv]
        exact get_set_lt (by omega) h.2
      · simp [SMap.get]
    · split
      · rename_i hk
        subst hk
        split
        · rename_i hv
          rw [hv]
          exact get_set_lt (Nat.lt_succ_self _) h.2
        · simp [SMap.get]
      · rename_i hk
        simp only [SMap.get, Ne.symm hk, if_false]
        exact ih h.2

@[simp] theorem wf_foldl_set {α β : Type} [DecidableEq α] {dflt : Nat → α} {k : β → Nat} {v : β → α} {l : List β} {m : SMap α}
    (h : SMap.wf dflt m = true) : SMap.wf dflt (l.foldl (fun m x => SMap.set dflt (k x) (v x) m) m) = true :=
  wf_foldl (fun _ _ h => wf_set h) h

theorem imp_rails {d0 e : Device} {a : Bool} {β : Type} {k : β → Nat} {v : β → Rail} {l : List β} :
    Imp d0 e a (railsOk (l.foldl (fun m x => SMap.set (fun _ => ({} : Rail)) (k x) (v x) m) [])) :=
  ⟨fun _ _ _ => wf_foldl_set rfl⟩

theorem imp_shadow {d0 e : Device} {o : OtpSt} {β : Type} {k : β → Nat} {v : β → Nat} {l : List β} :
    Imp d0 e (otpOk o) (otpOk { o with shadow := l.foldl (fun m x => SMap.set (fun _ => 0) (k x) (v x) m) [] }) := by
  refine ⟨fun _ _ hq => ?_⟩
  simp only [otpOk_iff] at hq ⊢
  exact ⟨hq.1, hq.2.1, wf_foldl_set rfl, hq.2.2.2⟩

/-- The words that a reset leaves are in canonical form. -/
theorem wf_keptWords {mask : Nat → Nat} {d : Device} : SMap.wf resetWord (keptWords mask d) = true := by
  unfold keptWords
  generalize d.words = ws
  suffices h : ∀ m : SMap Word, SMap.wf resetWord m = true → SMap.wf resetWord (ws.foldl (fun m p =>
      let k := BitVec.ofNat 32 (mask p.1)
      SMap.set resetWord p.1 ((p.2 &&& k) ||| (resetWord p.1 &&& ~~~k)) m) m) = true from h [] rfl
  induction ws with
  | nil => intro m h; exact h
  | cons p t ih => intro m h; exact ih _ (wf_set h)

/-- A write that keeps every bit of the old value loses no bit of the store. -/
theorem blown_set {m : SMap Nat} {k v : Nat}
    (hv : ∀ b, (SMap.get (fun _ => 0) m k).testBit b = true → v.testBit b = true) :
    Blown m (SMap.set (fun _ => 0) k v m) := by
  intro w b hb
  by_cases hw : w = k
  · subst hw
    have hvb := hv b hb
    have hne : v ≠ 0 := by rintro rfl; simp at hvb
    clear hv hb
    induction m with
    | nil => unfold SMap.set; simp [hne, SMap.get, hvb]
    | cons p t ih =>
      obtain ⟨k', v'⟩ := p
      unfold SMap.set
      split
      · simp [SMap.get, hvb]
      · split
        · simp [SMap.get, hvb]
        · rename_i hk
          simp only [SMap.get, Ne.symm hk, if_false]
          exact ih
  · rw [get_set_ne hw]
    exact hb

/-- Reading what was written into a canonical store. -/
theorem get_set_eq {α : Type} [DecidableEq α] {dflt : Nat → α} {k : Nat} {v : α} {m : SMap α} (h : SMap.wf dflt m = true) :
    SMap.get dflt (SMap.set dflt k v m) k = v := get_set_from h

/-- A ring is replaced: another ring than Q12, or one whose words are Q12's with whole entries behind them. -/
theorem setRing_keeps {m u d0 d q r} (hm : Within 1024 m) (_hu : Within 0 u) (h : Keeps m u d0 d)
    (hq : q ≠ 12 ∨ u.testBit 231 = true ∨ ∃ l, r.words = (ring d 12).words ++ l ∧ 4 ∣ l.length) :
    Keeps m u d0 (setRing d q r) := by
  have h10 : m.testBit 10 = true := hm.bit (by decide)
  refine ⟨h.words, h.mode, h.prev, h.roofTime, h.cycles, h.core, h.rails, h.seq, h.cl, h.ev, .inr h10, h.perf, h.adc, h.therm,
    h.bg, h.link, h.vly, h.gauge, h.power, h.rtc, h.otp, h.log, h.fw, h.freeN, h.canon,
    fun p => let r := h.ok p
      ⟨r.rails, r.cl, r.ev, ?_, r.perf, r.adc, r.therm, r.bg, r.link, r.vly, r.rtc, r.otp, r.log, r.fw⟩, h.blown, h.frame, ?_⟩
  · have he := r.eng
    simp only [setRing, engOk_iff] at he ⊢
    exact ⟨he.1, he.2.1, wf_set he.2.2.1, he.2.2.2⟩
  · by_cases hne : q = 12
    · subst hne
      rcases hq with hq | hq | ⟨l, h1, h2⟩
      · exact absurd rfl hq
      · exact .inl hq
      · refine h.q12.imp id fun k p => (k p).trans ⟨l, ?_, h2⟩
        have he := (h.ok p).eng
        simp only [engOk_iff] at he
        simp only [setRing, get_set_eq he.2.2.1, h1, ring]
    · refine h.q12.imp id fun k p => (k p).trans ⟨[], ?_, by simp⟩
      simp only [setRing, get_set_ne (Ne.symm hne), List.append_nil]

end Sys2Proof.Machine
end

