-- ==== Sys2Proof/Laws/Fams.lean ====
section
/-! SUPPORT. Which table of `allFams` each field and address that an operation writes belongs to. -/

set_option linter.all false
set_option Elab.async false


namespace Sys2Proof.Machine

theorem fam_ADC_STATUS_LOST : isFam W.ADC_STATUS_LOST 122 = true := rfl
theorem fam_BG_ECC_CORRECTED : isFam W.BG_ECC_CORRECTED 30 = true := rfl
theorem fam_BG_ECC_UNCORRECTED : isFam W.BG_ECC_UNCORRECTED 30 = true := rfl
theorem fam_CL_BRAKE_CNT_BRAKES : isFam W.CL_BRAKE_CNT_BRAKES 70 = true := rfl
theorem fam_ENG_SPI_CNT_CRC_ERR : isFam W.ENG_SPI_CNT_CRC_ERR 173 = true := rfl
theorem fam_ENG_SPI_CNT_REJECTED : isFam W.ENG_SPI_CNT_REJECTED 173 = true := rfl
theorem fam_ENG_TAG_CNT_CONFLICTS : isFam W.ENG_TAG_CNT_CONFLICTS 174 = true := rfl
theorem fam_ENG_TAG_CNT_DUPLICATES : isFam W.ENG_TAG_CNT_DUPLICATES 174 = true := rfl
theorem fam_GUT_CNT_ABANDONED : isFam W.GUT_CNT_ABANDONED 185 = true := rfl
theorem fam_GUT_CNT_DROPPED : isFam W.GUT_CNT_DROPPED 185 = true := rfl
theorem fam_HC_BRAKE_CNT_BRAKES : isFam W.HC_BRAKE_CNT_BRAKES 66 = true := rfl
theorem fam_HWD_STATUS_EXPIRIES : isFam W.HWD_STATUS_EXPIRIES 202 = true := rfl
theorem fam_LNK_ERRCNT_ERRORS : isFam W.LNK_ERRCNT_ERRORS 156 = true := rfl
theorem fam_LNK_ERRCNT_PREEMPTED : isFam W.LNK_ERRCNT_PREEMPTED 156 = true := rfl
theorem fam_LNK_TX_ABANDONED : isFam W.LNK_TX_ABANDONED 155 = true := rfl
theorem fam_LNK_TX_URGENT_SENT : isFam W.LNK_TX_URGENT_SENT 155 = true := rfl
theorem fam_PC_STATUS_DUMP_DROPPED : isFam W.PC_STATUS_DUMP_DROPPED 181 = true := rfl
theorem fam_PC_STATUS_SMP_LOST : isFam W.PC_STATUS_SMP_LOST 181 = true := rfl
theorem fam_PH_COUNT_HANDOVERS : isFam W.PH_COUNT_HANDOVERS 78 = true := rfl
theorem fam_PH_COUNT_ROT_COUNT : isFam W.PH_COUNT_ROT_COUNT 78 = true := rfl
theorem fam_RPL_STATUS_INTERVALS : isFam W.RPL_STATUS_INTERVALS 194 = true := rfl
theorem fam_SEQ_STATUS_RETRY_CNT : isFam W.SEQ_STATUS_RETRY_CNT 16 = true := rfl
theorem fam_TRC_STATUS_TRIG_MISSED : isFam W.TRC_STATUS_TRIG_MISSED 190 = true := rfl
theorem fam_RESET_CAUSE_HARD_CMD : isFam W.RESET_CAUSE_HARD_CMD 4 = true := rfl
theorem fam_RESET_CAUSE_NRST : isFam W.RESET_CAUSE_NRST 4 = true := rfl
theorem fam_RESET_CAUSE_PURLIN_WDT : isFam W.RESET_CAUSE_PURLIN_WDT 4 = true := rfl
theorem fam_ADC_CAL_GAIN : isFam W.ADC_CAL_GAIN 123 = true := rfl
theorem fam_EVT_LAT_LAT : isFam W.EVT_LAT_LAT 127 = true := rfl
theorem fam_EVT_PEND_F_PEND : isFam W.EVT_PEND_F_PEND 129 = true := rfl
theorem fam_EVT_PEND_N_PEND : isFam W.EVT_PEND_N_PEND 126 = true := rfl
theorem fam_GUT_BUF_DATA : isFam W.GUT_BUF_DATA 196 = true := rfl
theorem fam_OTP_UID_UID : isFam W.OTP_UID_UID 144 = true := rfl
theorem fam_GAUGE_STATUS_OVERCOUNT : isFam W.GAUGE_STATUS_OVERCOUNT 98 = true := rfl
theorem fam_GAUGE_STATUS_RSV_EXCEEDS : isFam W.GAUGE_STATUS_RSV_EXCEEDS 98 = true := rfl
theorem fam_ROOF_MODES_MODE : isFam ⟨W.ROOF_MODES_MODE.base, 1, W.ROOF_MODES_MODE.count, 0, 0⟩ 162 = true := rfl
theorem fam_SEQ_RSTATE_RSTATE : isFam ⟨W.SEQ_RSTATE_RSTATE.base, 1, W.SEQ_RSTATE_RSTATE.count, 0, 0⟩ 17 = true := rfl
theorem fam_ADC_STATUS_LOW_POWER : isFam W.ADC_STATUS_LOW_POWER 122 = true := rfl
theorem fam_BK_STATUS_BK_ILIM : isFam W.BK_STATUS_BK_ILIM 89 = true := rfl
theorem fam_BK_STATUS_CUTOFF : isFam W.BK_STATUS_CUTOFF 89 = true := rfl
theorem fam_BK_STATUS_HOLD_PRIO : isFam W.BK_STATUS_HOLD_PRIO 89 = true := rfl
theorem fam_BK_STATUS_IDG_ON : isFam W.BK_STATUS_IDG_ON 89 = true := rfl
theorem fam_BK_STATUS_INLIM : isFam W.BK_STATUS_INLIM 89 = true := rfl
theorem fam_BK_STATUS_PACK_PRESENT : isFam W.BK_STATUS_PACK_PRESENT 89 = true := rfl
theorem fam_BK_STATUS_VSUP_LOW : isFam W.BK_STATUS_VSUP_LOW 89 = true := rfl
theorem fam_CAP_SLOT_ERASING : isFam W.CAP_SLOT_ERASING 192 = true := rfl
theorem fam_CAP_SLOT_REPLAYABLE : isFam W.CAP_SLOT_REPLAYABLE 192 = true := rfl
theorem fam_CAP_SLOT_VALID : isFam W.CAP_SLOT_VALID 192 = true := rfl
theorem fam_CHG_FAULT_BK_FAULT : isFam W.CHG_FAULT_BK_FAULT 92 = true := rfl
theorem fam_CHG_FAULT_CHG_TIMEOUT : isFam W.CHG_FAULT_CHG_TIMEOUT 92 = true := rfl
theorem fam_CHG_FAULT_FAST_TIMEOUT : isFam W.CHG_FAULT_FAST_TIMEOUT 92 = true := rfl
theorem fam_CHG_FAULT_NTC_SHORT : isFam W.CHG_FAULT_NTC_SHORT 92 = true := rfl
theorem fam_CHG_FAULT_PACK_OV : isFam W.CHG_FAULT_PACK_OV 92 = true := rfl
theorem fam_CHG_FAULT_PRE_TIMEOUT : isFam W.CHG_FAULT_PRE_TIMEOUT 92 = true := rfl
theorem fam_CHG_FAULT_REMOVED : isFam W.CHG_FAULT_REMOVED 92 = true := rfl
theorem fam_CHG_FAULT_WD_EXPIRED : isFam W.CHG_FAULT_WD_EXPIRED 92 = true := rfl
theorem fam_CHG_STATUS_DONE_REDUCED : isFam W.CHG_STATUS_DONE_REDUCED 90 = true := rfl
theorem fam_CHG_STATUS_HALF_RATE : isFam W.CHG_STATUS_HALF_RATE 90 = true := rfl
theorem fam_CHG_STATUS_TERM_COUNTING : isFam W.CHG_STATUS_TERM_COUNTING 90 = true := rfl
theorem fam_CHG_STATUS_WD_SAFE : isFam W.CHG_STATUS_WD_SAFE 90 = true := rfl
theorem fam_CLK_STATUS_ALIGN : isFam W.CLK_STATUS_ALIGN 209 = true := rfl
theorem fam_CLK_STATUS_LPO_BAD : isFam W.CLK_STATUS_LPO_BAD 209 = true := rfl
theorem fam_CLK_STATUS_PLL_LOCKED : isFam W.CLK_STATUS_PLL_LOCKED 209 = true := rfl
theorem fam_CLK_STATUS_PLL_LOSS : isFam W.CLK_STATUS_PLL_LOSS 209 = true := rfl
theorem fam_CLK_STATUS_REF_LOST : isFam W.CLK_STATUS_REF_LOST 209 = true := rfl
theorem fam_CLK_STATUS_XTAL_OK : isFam W.CLK_STATUS_XTAL_OK 209 = true := rfl
theorem fam_CL_RSTATUS_BRAKING : isFam W.CL_RSTATUS_BRAKING 67 = true := rfl
theorem fam_CL_RSTATUS_DE_ACTIVE : isFam W.CL_RSTATUS_DE_ACTIVE 67 = true := rfl
theorem fam_CL_RSTATUS_IMBAL : isFam W.CL_RSTATUS_IMBAL 67 = true := rfl
theorem fam_CL_RSTATUS_REF_MOVING : isFam W.CL_RSTATUS_REF_MOVING 67 = true := rfl
theorem fam_CL_RSTATUS_SHED_ACTIVE : isFam W.CL_RSTATUS_SHED_ACTIVE 67 = true := rfl
theorem fam_CL_RSTATUS_SPARE_ON : isFam W.CL_RSTATUS_SPARE_ON 67 = true := rfl
theorem fam_CL_RSTATUS_SYNC_LOCKED : isFam W.CL_RSTATUS_SYNC_LOCKED 67 = true := rfl
theorem fam_CL_RSTATUS_SYNC_RANGE : isFam W.CL_RSTATUS_SYNC_RANGE 67 = true := rfl
theorem fam_CL_STATUS_DRILL_ACTIVE : isFam W.CL_STATUS_DRILL_ACTIVE 80 = true := rfl
theorem fam_CL_STATUS_HANDOVER_FAIL : isFam W.CL_STATUS_HANDOVER_FAIL 80 = true := rfl
theorem fam_CL_STATUS_NO_SPARE : isFam W.CL_STATUS_NO_SPARE 80 = true := rfl
theorem fam_CL_STATUS_ROT_ACTIVE : isFam W.CL_STATUS_ROT_ACTIVE 80 = true := rfl
theorem fam_CL_STATUS_SPARE_ENGAGED : isFam W.CL_STATUS_SPARE_ENGAGED 80 = true := rfl
theorem fam_CL_STATUS_SPARE_FAILED : isFam W.CL_STATUS_SPARE_FAILED 80 = true := rfl
theorem fam_CL_STATUS_STEER_CLOSED : isFam W.CL_STATUS_STEER_CLOSED 80 = true := rfl
theorem fam_COLD_STATUS_GAUGE_UNANCHORED : isFam W.COLD_STATUS_GAUGE_UNANCHORED 7 = true := rfl
theorem fam_COLD_STATUS_LEARN_NOMINAL : isFam W.COLD_STATUS_LEARN_NOMINAL 7 = true := rfl
theorem fam_COLD_STATUS_LINK_UNDISCIPLINED : isFam W.COLD_STATUS_LINK_UNDISCIPLINED 7 = true := rfl
theorem fam_COLD_STATUS_RTC_FACTORY_TRIM : isFam W.COLD_STATUS_RTC_FACTORY_TRIM 7 = true := rfl
theorem fam_COLD_STATUS_THERMAL_WARMUP : isFam W.COLD_STATUS_THERMAL_WARMUP 7 = true := rfl
theorem fam_EVT_CTRL_GDIS : isFam W.EVT_CTRL_GDIS 128 = true := rfl
theorem fam_GAUGE_STATUS_LEARN_ACTIVE : isFam W.GAUGE_STATUS_LEARN_ACTIVE 98 = true := rfl
theorem fam_GAUGE_STATUS_QUIET : isFam W.GAUGE_STATUS_QUIET 98 = true := rfl
theorem fam_GB_RSTATUS_INTERLOCK_WAIT : isFam W.GB_RSTATUS_INTERLOCK_WAIT 75 = true := rfl
theorem fam_GB_RSTATUS_LIMIT : isFam W.GB_RSTATUS_LIMIT 75 = true := rfl
theorem fam_GB_RSTATUS_OPEN : isFam W.GB_RSTATUS_OPEN 75 = true := rfl
theorem fam_GB_RSTATUS_RAMPING : isFam W.GB_RSTATUS_RAMPING 75 = true := rfl
theorem fam_GB_RSTATUS_SWITCHING : isFam W.GB_RSTATUS_SWITCHING 75 = true := rfl
theorem fam_GUT_BUF_STATUS_FOUND : isFam W.GUT_BUF_STATUS_FOUND 187 = true := rfl
theorem fam_GUT_BUF_STATUS_LOADING : isFam W.GUT_BUF_STATUS_LOADING 187 = true := rfl
theorem fam_HC_STATUS_BRAKING : isFam W.HC_STATUS_BRAKING 62 = true := rfl
theorem fam_HC_STATUS_DE_ACTIVE : isFam W.HC_STATUS_DE_ACTIVE 62 = true := rfl
theorem fam_HC_STATUS_IMBAL : isFam W.HC_STATUS_IMBAL 62 = true := rfl
theorem fam_HC_STATUS_REF_MOVING : isFam W.HC_STATUS_REF_MOVING 62 = true := rfl
theorem fam_HC_STATUS_SYNC_LOCKED : isFam W.HC_STATUS_SYNC_LOCKED 62 = true := rfl
theorem fam_HC_STATUS_SYNC_RANGE : isFam W.HC_STATUS_SYNC_RANGE 62 = true := rfl
theorem fam_HWD_STATUS_PROFILE_ACTIVE : isFam W.HWD_STATUS_PROFILE_ACTIVE 202 = true := rfl
theorem fam_LD_RSTATUS_DIS_ACTIVE : isFam W.LD_RSTATUS_DIS_ACTIVE 74 = true := rfl
theorem fam_LD_RSTATUS_REF_MOVING : isFam W.LD_RSTATUS_REF_MOVING 74 = true := rfl
theorem fam_LNK_STATUS_ADDR_CONFLICT : isFam W.LNK_STATUS_ADDR_CONFLICT 150 = true := rfl
theorem fam_LNK_STATUS_DISCIPLINED : isFam W.LNK_STATUS_DISCIPLINED 150 = true := rfl
theorem fam_LNK_STATUS_ELIGIBLE : isFam W.LNK_STATUS_ELIGIBLE 150 = true := rfl
theorem fam_LNK_STATUS_HOLDER_VALID : isFam W.LNK_STATUS_HOLDER_VALID 150 = true := rfl
theorem fam_LNK_STATUS_HOLDOVER : isFam W.LNK_STATUS_HOLDOVER 150 = true := rfl
theorem fam_LNK_STATUS_IS_HOLDER : isFam W.LNK_STATUS_IS_HOLDER 150 = true := rfl
theorem fam_LNK_URGENT_VALID : isFam W.LNK_URGENT_VALID 154 = true := rfl
theorem fam_LNK_URGENT_VIA_ECHO : isFam W.LNK_URGENT_VIA_ECHO 154 = true := rfl
theorem fam_MODE_STATUS_ADOPTING : isFam W.MODE_STATUS_ADOPTING 2 = true := rfl
theorem fam_MODE_STATUS_HOLDUP_PENDING : isFam W.MODE_STATUS_HOLDUP_PENDING 2 = true := rfl
theorem fam_MODE_STATUS_LATCH_HELD : isFam W.MODE_STATUS_LATCH_HELD 2 = true := rfl
theorem fam_OTP_STATUS_BUSY : isFam W.OTP_STATUS_BUSY 143 = true := rfl
theorem fam_OTP_STATUS_ENV_UNLOCKED : isFam W.OTP_STATUS_ENV_UNLOCKED 143 = true := rfl
theorem fam_OTP_STATUS_MARGINAL_SEEN : isFam W.OTP_STATUS_MARGINAL_SEEN 143 = true := rfl
theorem fam_OTP_STATUS_MARK_PENDING : isFam W.OTP_STATUS_MARK_PENDING 143 = true := rfl
theorem fam_OTP_STATUS_OVR_ACTIVE : isFam W.OTP_STATUS_OVR_ACTIVE 143 = true := rfl
theorem fam_PH_STATUS_FAILED : isFam W.PH_STATUS_FAILED 77 = true := rfl
theorem fam_RESET_CAUSE_DORMANT_WAKE : isFam W.RESET_CAUSE_DORMANT_WAKE 4 = true := rfl
theorem fam_RESET_CAUSE_KEEPER_TRIP : isFam W.RESET_CAUSE_KEEPER_TRIP 4 = true := rfl
theorem fam_RESET_CAUSE_SOFT_CMD : isFam W.RESET_CAUSE_SOFT_CMD 4 = true := rfl
theorem fam_RESET_CAUSE_STANDBY_WAKE : isFam W.RESET_CAUSE_STANDBY_WAKE 4 = true := rfl
theorem fam_RESET_CAUSE_UVLO : isFam W.RESET_CAUSE_UVLO 4 = true := rfl
theorem fam_ROOF_STATUS_DEGRADED : isFam W.ROOF_STATUS_DEGRADED 158 = true := rfl
theorem fam_ROOF_STATUS_HOLD_IN_FORCE : isFam W.ROOF_STATUS_HOLD_IN_FORCE 158 = true := rfl
theorem fam_ROOF_STATUS_RESIGNED : isFam W.ROOF_STATUS_RESIGNED 158 = true := rfl
theorem fam_ROOF_STATUS_TIME_SUSPECT : isFam W.ROOF_STATUS_TIME_SUSPECT 158 = true := rfl
theorem fam_RPL_STATUS_INPUT_SUB : isFam W.RPL_STATUS_INPUT_SUB 194 = true := rfl
theorem fam_RTC_CTRL_HALT : isFam W.RTC_CTRL_HALT 134 = true := rfl
theorem fam_RTC_STATUS_OSC_FAIL : isFam W.RTC_STATUS_OSC_FAIL 137 = true := rfl
theorem fam_RTC_STATUS_TIME_VALID : isFam W.RTC_STATUS_TIME_VALID 137 = true := rfl
theorem fam_RTC_STATUS_TRIM_BUSY : isFam W.RTC_STATUS_TRIM_BUSY 137 = true := rfl
theorem fam_RTC_STATUS_VBK_LOW : isFam W.RTC_STATUS_VBK_LOW 137 = true := rfl
theorem fam_SB_RSTATUS_BRAKING : isFam W.SB_RSTATUS_BRAKING 72 = true := rfl
theorem fam_SB_RSTATUS_DE_ACTIVE : isFam W.SB_RSTATUS_DE_ACTIVE 72 = true := rfl
theorem fam_SB_RSTATUS_DIS_ACTIVE : isFam W.SB_RSTATUS_DIS_ACTIVE 72 = true := rfl
theorem fam_SB_RSTATUS_REF_MOVING : isFam W.SB_RSTATUS_REF_MOVING 72 = true := rfl
theorem fam_SB_RSTATUS_SYNC_LOCKED : isFam W.SB_RSTATUS_SYNC_LOCKED 72 = true := rfl
theorem fam_SB_RSTATUS_SYNC_RANGE : isFam W.SB_RSTATUS_SYNC_RANGE 72 = true := rfl
theorem fam_SEQ_STATUS_UP_PENDING : isFam W.SEQ_STATUS_UP_PENDING 16 = true := rfl
theorem fam_SUP_FIRST_VALID : isFam W.SUP_FIRST_VALID 24 = true := rfl
theorem fam_SUP_GLOBAL_REF_ADC_FAULT : isFam W.SUP_GLOBAL_REF_ADC_FAULT 23 = true := rfl
theorem fam_SUP_GLOBAL_REF_MISMATCH : isFam W.SUP_GLOBAL_REF_MISMATCH 23 = true := rfl
theorem fam_SUP_STATUS_DISAGREE : isFam W.SUP_STATUS_DISAGREE 71 = true := rfl
theorem fam_SUP_STATUS_FAULT_LATCH : isFam W.SUP_STATUS_FAULT_LATCH 71 = true := rfl
theorem fam_SUP_STATUS_OC_LAT : isFam W.SUP_STATUS_OC_LAT 71 = true := rfl
theorem fam_SUP_STATUS_PG : isFam W.SUP_STATUS_PG 71 = true := rfl
theorem fam_SYNC_STATUS_SYNC_VALID : isFam W.SYNC_STATUS_SYNC_VALID 211 = true := rfl
theorem fam_TH_STATUS_THROTTLING : isFam W.TH_STATUS_THROTTLING 113 = true := rfl
theorem fam_TH_STATUS_TH_LATCH : isFam W.TH_STATUS_TH_LATCH 113 = true := rfl
theorem fam_TH_STATUS_WARNING : isFam W.TH_STATUS_WARNING 113 = true := rfl
theorem fam_TRUSS_STATUS_STAGED : isFam W.TRUSS_STATUS_STAGED 145 = true := rfl
theorem fam_TRUST_STATUS_ARB_PENDING : isFam W.TRUST_STATUS_ARB_PENDING 197 = true := rfl
theorem fam_TRUST_STATUS_LOCKSTEP : isFam W.TRUST_STATUS_LOCKSTEP 197 = true := rfl
theorem fam_TRUST_STATUS_PURLIN_REFRESH : isFam W.TRUST_STATUS_PURLIN_REFRESH 197 = true := rfl
theorem fam_TRUST_STATUS_THATCH_HELD : isFam W.TRUST_STATUS_THATCH_HELD 197 = true := rfl
theorem fam_TRUST_STATUS_TRIAL : isFam W.TRUST_STATUS_TRIAL 197 = true := rfl
theorem fam_VLY_CONTRACT_FS_AUTH : isFam W.VLY_CONTRACT_FS_AUTH 168 = true := rfl
theorem fam_VLY_CONTRACT_STANDBY_VALID : isFam W.VLY_CONTRACT_STANDBY_VALID 168 = true := rfl
theorem fam_VLY_LAST_SENT : isFam W.VLY_LAST_SENT 171 = true := rfl
theorem fam_VLY_STATUS_FS_ARMED : isFam W.VLY_STATUS_FS_ARMED 167 = true := rfl
theorem fam_VLY_STATUS_IN_WINDOW : isFam W.VLY_STATUS_IN_WINDOW 167 = true := rfl
theorem fam_VLY_STATUS_STBY_DUTY : isFam W.VLY_STATUS_STBY_DUTY 167 = true := rfl
theorem fam_WAKE_CFG_WK0_SEEN : isFam W.WAKE_CFG_WK0_SEEN 8 = true := rfl
theorem fam_WAKE_CFG_WK1_SEEN : isFam W.WAKE_CFG_WK1_SEEN 8 = true := rfl
theorem fam_ADC_STATUS_CALIBRATING : isFam W.ADC_STATUS_CALIBRATING 122 = true := rfl
theorem fam_ADC_STATUS_CAL_FAIL : isFam W.ADC_STATUS_CAL_FAIL 122 = true := rfl
theorem fam_ADC_STATUS_RETIRED : isFam W.ADC_STATUS_RETIRED 122 = true := rfl
theorem fam_ADC_STATUS_SUBS : isFam W.ADC_STATUS_SUBS 122 = true := rfl
theorem fam_ADOPT_STATUS_ADOPTED_COUNT : isFam W.ADOPT_STATUS_ADOPTED_COUNT 6 = true := rfl
theorem fam_ADOPT_STATUS_KEEPER_MODE : isFam W.ADOPT_STATUS_KEEPER_MODE 6 = true := rfl
theorem fam_ADOPT_STATUS_RESULT : isFam W.ADOPT_STATUS_RESULT 6 = true := rfl
theorem fam_BG_ECC_LAST_MEM : isFam W.BG_ECC_LAST_MEM 31 = true := rfl
theorem fam_BG_ECC_LAST_WORD : isFam W.BG_ECC_LAST_WORD 31 = true := rfl
theorem fam_BG_STATUS_PAUSED : isFam W.BG_STATUS_PAUSED 29 = true := rfl
theorem fam_BG_STATUS_ST_ACTIVE : isFam W.BG_STATUS_ST_ACTIVE 29 = true := rfl
theorem fam_BG_WEAR_MAX_ERASE : isFam W.BG_WEAR_MAX_ERASE 32 = true := rfl
theorem fam_BG_WEAR_READY : isFam W.BG_WEAR_READY 32 = true := rfl
theorem fam_BK_STATUS_BK_STATE : isFam W.BK_STATUS_BK_STATE 89 = true := rfl
theorem fam_CAP_SLOT_CAUSE : isFam W.CAP_SLOT_CAUSE 192 = true := rfl
theorem fam_CAP_SLOT_LENGTH : isFam W.CAP_SLOT_LENGTH 192 = true := rfl
theorem fam_CHG_IEFF_I_TARGET : isFam W.CHG_IEFF_I_TARGET 93 = true := rfl
theorem fam_CHG_IEFF_LIMITER : isFam W.CHG_IEFF_LIMITER 93 = true := rfl
theorem fam_CHG_STATUS_CHG_STATE : isFam W.CHG_STATUS_CHG_STATE 90 = true := rfl
theorem fam_CHG_STATUS_SUSP_WHY : isFam W.CHG_STATUS_SUSP_WHY 90 = true := rfl
theorem fam_CHG_STATUS_ZONE : isFam W.CHG_STATUS_ZONE 90 = true := rfl
theorem fam_CHG_TIMER_SAFETY : isFam W.CHG_TIMER_SAFETY 91 = true := rfl
theorem fam_CHG_TIMER_WALL : isFam W.CHG_TIMER_WALL 91 = true := rfl
theorem fam_CLK_STATUS_REF_ACTIVE : isFam W.CLK_STATUS_REF_ACTIVE 209 = true := rfl
theorem fam_CL_RSTATUS_PH_DROPPED : isFam W.CL_RSTATUS_PH_DROPPED 67 = true := rfl
theorem fam_CL_RSTATUS_PH_MASK : isFam W.CL_RSTATUS_PH_MASK 67 = true := rfl
theorem fam_CL_STATUS_HO_CYCLES : isFam W.CL_STATUS_HO_CYCLES 80 = true := rfl
theorem fam_CL_STATUS_SPARE_RAIL : isFam W.CL_STATUS_SPARE_RAIL 80 = true := rfl
theorem fam_DRILL_RESULT_I_SPARE : isFam W.DRILL_RESULT_I_SPARE 81 = true := rfl
theorem fam_DRILL_RESULT_MATCH : isFam W.DRILL_RESULT_MATCH 81 = true := rfl
theorem fam_DRILL_RESULT_RESULT : isFam W.DRILL_RESULT_RESULT 81 = true := rfl
theorem fam_EV_STATUS_LEVEL : isFam W.EV_STATUS_LEVEL 141 = true := rfl
theorem fam_EV_STATUS_OVF : isFam W.EV_STATUS_OVF 141 = true := rfl
theorem fam_FW_ARB_ARB_PURLIN : isFam W.FW_ARB_ARB_PURLIN 200 = true := rfl
theorem fam_FW_ARB_ARB_THATCH : isFam W.FW_ARB_ARB_THATCH 200 = true := rfl
theorem fam_FW_ARB_IMG_ARB : isFam W.FW_ARB_IMG_ARB 200 = true := rfl
theorem fam_FW_LAST_BANK : isFam W.FW_LAST_BANK 205 = true := rfl
theorem fam_FW_LAST_CAUSE : isFam W.FW_LAST_CAUSE 205 = true := rfl
theorem fam_FW_LAST_KIND : isFam W.FW_LAST_KIND 205 = true := rfl
theorem fam_FW_LAST_RESULT : isFam W.FW_LAST_RESULT 205 = true := rfl
theorem fam_GAUGE_AVAIL_Q_AVAIL : isFam W.GAUGE_AVAIL_Q_AVAIL 103 = true := rfl
theorem fam_GAUGE_ERR_ERR : isFam W.GAUGE_ERR_ERR 104 = true := rfl
theorem fam_GAUGE_FCC_FCC : isFam W.GAUGE_FCC_FCC 100 = true := rfl
theorem fam_GAUGE_I_I_PACK : isFam W.GAUGE_I_I_PACK 105 = true := rfl
theorem fam_GAUGE_RSV_Q_RSV : isFam W.GAUGE_RSV_Q_RSV 101 = true := rfl
theorem fam_GAUGE_STATUS_ANCHOR : isFam W.GAUGE_STATUS_ANCHOR 98 = true := rfl
theorem fam_GAUGE_STATUS_LEARN_FROM : isFam W.GAUGE_STATUS_LEARN_FROM 98 = true := rfl
theorem fam_GAUGE_STATUS_USABLE : isFam W.GAUGE_STATUS_USABLE 98 = true := rfl
theorem fam_GAUGE_VLY_Q_VLY : isFam W.GAUGE_VLY_Q_VLY 102 = true := rfl
theorem fam_GUT_CNT_DAMAGED : isFam W.GUT_CNT_DAMAGED 185 = true := rfl
theorem fam_GUT_STATUS_PENDING : isFam W.GUT_STATUS_PENDING 183 = true := rfl
theorem fam_GUT_STATUS_RECORDS : isFam W.GUT_STATUS_RECORDS 183 = true := rfl
theorem fam_HC_PH_CAUSE_CAUSE : isFam W.HC_PH_CAUSE_CAUSE 63 = true := rfl
theorem fam_HC_STATUS_PH_DROPPED : isFam W.HC_STATUS_PH_DROPPED 62 = true := rfl
theorem fam_HC_STATUS_PH_MASK : isFam W.HC_STATUS_PH_MASK 62 = true := rfl
theorem fam_HP_RING_OVF_OVF : isFam W.HP_RING_OVF_OVF 223 = true := rfl
theorem fam_HP_SQ_MODE_STAGE_Q : isFam W.HP_SQ_MODE_STAGE_Q 219 = true := rfl
theorem fam_LEARN_DQ_DQ : isFam W.LEARN_DQ_DQ 106 = true := rfl
theorem fam_LEARN_LAST_Q_MEAS : isFam W.LEARN_LAST_Q_MEAS 107 = true := rfl
theorem fam_LEARN_LAST_RESULT : isFam W.LEARN_LAST_RESULT 107 = true := rfl
theorem fam_LNK_DELAY_RTT : isFam W.LNK_DELAY_RTT 151 = true := rfl
theorem fam_LNK_OFFSET_OFFSET : isFam W.LNK_OFFSET_OFFSET 152 = true := rfl
theorem fam_LNK_STATUS_HOLDER : isFam W.LNK_STATUS_HOLDER 150 = true := rfl
theorem fam_LNK_STATUS_LINK_STATE : isFam W.LNK_STATUS_LINK_STATE 150 = true := rfl
theorem fam_LNK_STATUS_PRESENT : isFam W.LNK_STATUS_PRESENT 150 = true := rfl
theorem fam_LNK_URGENT_DATA : isFam W.LNK_URGENT_DATA 154 = true := rfl
theorem fam_LNK_URGENT_FN_LOW : isFam W.LNK_URGENT_FN_LOW 154 = true := rfl
theorem fam_LNK_URGENT_KIND : isFam W.LNK_URGENT_KIND 154 = true := rfl
theorem fam_MODE_STATUS_BOOT_STAGE : isFam W.MODE_STATUS_BOOT_STAGE 2 = true := rfl
theorem fam_MODE_STATUS_LATCH_CAUSE : isFam W.MODE_STATUS_LATCH_CAUSE 2 = true := rfl
theorem fam_OTP_STATUS_DIGEST_FAIL : isFam W.OTP_STATUS_DIGEST_FAIL 143 = true := rfl
theorem fam_OTP_STATUS_LOCKED : isFam W.OTP_STATUS_LOCKED 143 = true := rfl
theorem fam_PH_STATUS_CAUSE : isFam W.PH_STATUS_CAUSE 77 = true := rfl
theorem fam_PH_STATUS_SERVING_RAIL : isFam W.PH_STATUS_SERVING_RAIL 77 = true := rfl
theorem fam_PH_STATUS_STATE : isFam W.PH_STATUS_STATE 77 = true := rfl
theorem fam_ROOF_COMPAT_OWN_COMPAT : isFam W.ROOF_COMPAT_OWN_COMPAT 163 = true := rfl
theorem fam_ROOF_FLOOR_FLOOR : isFam W.ROOF_FLOOR_FLOOR 160 = true := rfl
theorem fam_ROOF_FLOOR_OWN_FEATURES : isFam W.ROOF_FLOOR_OWN_FEATURES 160 = true := rfl
theorem fam_ROOF_HOLD_HOLD_TOTAL : isFam W.ROOF_HOLD_HOLD_TOTAL 161 = true := rfl
theorem fam_ROOF_MEMBERS_EXCLUDED : isFam W.ROOF_MEMBERS_EXCLUDED 159 = true := rfl
theorem fam_ROOF_MEMBERS_PARTICIPATING : isFam W.ROOF_MEMBERS_PARTICIPATING 159 = true := rfl
theorem fam_ROOF_MEMBERS_READY : isFam W.ROOF_MEMBERS_READY 159 = true := rfl
theorem fam_ROOF_MEMBERS_SUSPECT : isFam W.ROOF_MEMBERS_SUSPECT 159 = true := rfl
theorem fam_ROOF_STATUS_EXCL_CAUSE : isFam W.ROOF_STATUS_EXCL_CAUSE 158 = true := rfl
theorem fam_ROOF_STATUS_OPTIONAL : isFam W.ROOF_STATUS_OPTIONAL 158 = true := rfl
theorem fam_ROOF_STATUS_PART : isFam W.ROOF_STATUS_PART 158 = true := rfl
theorem fam_ROOF_STATUS_PHASE : isFam W.ROOF_STATUS_PHASE 158 = true := rfl
theorem fam_ROOF_STATUS_REQUIRED : isFam W.ROOF_STATUS_REQUIRED 158 = true := rfl
theorem fam_RPL_STATUS_RPL_STATE : isFam W.RPL_STATUS_RPL_STATE 194 = true := rfl
theorem fam_RTC_CAL_CAL : isFam W.RTC_CAL_CAL 135 = true := rfl
theorem fam_RTC_STATUS_ALMF : isFam W.RTC_STATUS_ALMF 137 = true := rfl
theorem fam_RTC_STATUS_TRIM_SRC : isFam W.RTC_STATUS_TRIM_SRC 137 = true := rfl
theorem fam_RTC_SUBSEC_PRESC : isFam W.RTC_SUBSEC_PRESC 133 = true := rfl
theorem fam_RTC_XTAL_CL_XIN : isFam W.RTC_XTAL_CL_XIN 136 = true := rfl
theorem fam_RTC_XTAL_CL_XOUT : isFam W.RTC_XTAL_CL_XOUT 136 = true := rfl
theorem fam_SEQ_STATUS_SEQ_STATE : isFam W.SEQ_STATUS_SEQ_STATE 16 = true := rfl
theorem fam_SSO_STATUS_ASSERTED : isFam W.SSO_STATUS_ASSERTED 215 = true := rfl
theorem fam_SSO_STATUS_BY_REFLEX : isFam W.SSO_STATUS_BY_REFLEX 215 = true := rfl
theorem fam_SSO_STATUS_FAULT : isFam W.SSO_STATUS_FAULT 215 = true := rfl
theorem fam_SSO_STATUS_PIN : isFam W.SSO_STATUS_PIN 215 = true := rfl
theorem fam_SUP_FIRST_CAUSE : isFam W.SUP_FIRST_CAUSE 24 = true := rfl
theorem fam_SUP_FIRST_RAIL : isFam W.SUP_FIRST_RAIL 24 = true := rfl
theorem fam_SUP_STATUS_CMP_FAULT : isFam W.SUP_STATUS_CMP_FAULT 71 = true := rfl
theorem fam_SYNC_STATUS_FSYNC : isFam W.SYNC_STATUS_FSYNC 211 = true := rfl
theorem fam_SYNC_STATUS_PERIOD : isFam W.SYNC_STATUS_PERIOD 211 = true := rfl
theorem fam_TH_LAST_KIND : isFam W.TH_LAST_KIND 116 = true := rfl
theorem fam_TH_LAST_SENSOR : isFam W.TH_LAST_SENSOR 116 = true := rfl
theorem fam_TH_LAST_T_PRED : isFam W.TH_LAST_T_PRED 116 = true := rfl
theorem fam_TH_STATUS_HOT_SENSOR : isFam W.TH_STATUS_HOT_SENSOR 113 = true := rfl
theorem fam_TH_STATUS_HOT_VALUE : isFam W.TH_STATUS_HOT_VALUE 113 = true := rfl
theorem fam_TRC_STATUS_CAUSE : isFam W.TRC_STATUS_CAUSE 190 = true := rfl
theorem fam_TRC_STATUS_COVERAGE : isFam W.TRC_STATUS_COVERAGE 190 = true := rfl
theorem fam_TRC_STATUS_STATE : isFam W.TRC_STATUS_STATE 190 = true := rfl
theorem fam_TRUSS_STATUS_ACTIVE_SRC : isFam W.TRUSS_STATUS_ACTIVE_SRC 145 = true := rfl
theorem fam_TRUSS_STATUS_REJECT_0 : isFam W.TRUSS_STATUS_REJECT_0 145 = true := rfl
theorem fam_TRUSS_STATUS_REJECT_1 : isFam W.TRUSS_STATUS_REJECT_1 145 = true := rfl
theorem fam_TRUSS_STATUS_REJECT_OTP : isFam W.TRUSS_STATUS_REJECT_OTP 145 = true := rfl
theorem fam_TRUST_STATUS_ACTIVE_BANK : isFam W.TRUST_STATUS_ACTIVE_BANK 197 = true := rfl
theorem fam_TRUST_STATUS_THATCH_STATE : isFam W.TRUST_STATUS_THATCH_STATE 197 = true := rfl
theorem fam_VLY_CONTRACT_I_C : isFam W.VLY_CONTRACT_I_C 168 = true := rfl
theorem fam_VLY_CONTRACT_SINKS : isFam W.VLY_CONTRACT_SINKS 168 = true := rfl
theorem fam_VLY_CONTRACT_SOURCE : isFam W.VLY_CONTRACT_SOURCE 168 = true := rfl
theorem fam_VLY_CONTRACT_STANDBY : isFam W.VLY_CONTRACT_STANDBY 168 = true := rfl
theorem fam_VLY_CONTRACT_V_C : isFam W.VLY_CONTRACT_V_C 168 = true := rfl
theorem fam_VLY_ENERGY_DELIVERED : isFam W.VLY_ENERGY_DELIVERED 169 = true := rfl
theorem fam_VLY_ENERGY_E : isFam W.VLY_ENERGY_E 169 = true := rfl
theorem fam_VLY_LAST_CN : isFam W.VLY_LAST_CN 171 = true := rfl
theorem fam_VLY_LAST_PEER : isFam W.VLY_LAST_PEER 171 = true := rfl
theorem fam_VLY_LAST_REASON : isFam W.VLY_LAST_REASON 171 = true := rfl
theorem fam_VLY_MEAS_I_VLY : isFam W.VLY_MEAS_I_VLY 170 = true := rfl
theorem fam_VLY_MEAS_V_VLY : isFam W.VLY_MEAS_V_VLY 170 = true := rfl
theorem fam_VLY_STATUS_AUX_MODE : isFam W.VLY_STATUS_AUX_MODE 167 = true := rfl
theorem fam_VLY_STATUS_CN : isFam W.VLY_STATUS_CN 167 = true := rfl
theorem fam_VLY_STATUS_ROLE : isFam W.VLY_STATUS_ROLE 167 = true := rfl
theorem fam_VLY_STATUS_SW : isFam W.VLY_STATUS_SW 167 = true := rfl
theorem fam_VLY_STATUS_SWAP : isFam W.VLY_STATUS_SWAP 167 = true := rfl
theorem fam_PC_OVF_OVF : isFam W.PC_OVF_OVF 182 = true := rfl
theorem fam_SEQ_FALL_FAIL_FALL_FAIL : isFam W.SEQ_FALL_FAIL_FALL_FAIL 19 = true := rfl
theorem fam_SEQ_GATE_TIMEOUT_GATE_TIMEOUT : isFam W.SEQ_GATE_TIMEOUT_GATE_TIMEOUT 20 = true := rfl
theorem fam_SEQ_RISE_FAIL_RISE_FAIL : isFam W.SEQ_RISE_FAIL_RISE_FAIL 18 = true := rfl
theorem fam_TH_FAST_FAST : isFam W.TH_FAST_FAST 115 = true := rfl
theorem fam_TH_SUSPECT_SUSPECT : isFam W.TH_SUSPECT_SUSPECT 114 = true := rfl
theorem at_ADOPT_FAIL : isAt W.ADOPT_FAIL 5 = true := rfl
theorem at_CHG_FAULT : isAt W.CHG_FAULT 92 = true := rfl
theorem at_ENG_WEIGHT : isAt W.ENG_WEIGHT 172 = true := rfl
theorem at_FW_VER_PURLIN : isAt W.FW_VER_PURLIN 198 = true := rfl
theorem at_FW_VER_THATCH : isAt W.FW_VER_THATCH 199 = true := rfl
theorem at_GAUGE_REM : isAt W.GAUGE_REM 99 = true := rfl
theorem at_GUT_SEQ : isAt W.GUT_SEQ 184 = true := rfl
theorem at_HP_RING_OVF : isAt W.HP_RING_OVF 223 = true := rfl
theorem at_HP_SQ_MODE : isAt W.HP_SQ_MODE 219 = true := rfl
theorem at_LNK_DELAY : isAt W.LNK_DELAY 151 = true := rfl
theorem at_LNK_OFFSET : isAt W.LNK_OFFSET 152 = true := rfl
theorem at_LNK_STATUS : isAt W.LNK_STATUS 150 = true := rfl
theorem at_ROOF_MEMBERS : isAt W.ROOF_MEMBERS 159 = true := rfl
theorem at_RPL_DIV : isAt W.RPL_DIV 195 = true := rfl
theorem at_RPL_DIV_1 : isAt (W.RPL_DIV + 1) 195 = true := rfl
theorem at_RPL_STATUS : isAt W.RPL_STATUS 194 = true := rfl
theorem at_RTC_DATE : isAt W.RTC_DATE 131 = true := rfl
theorem at_RTC_TIME : isAt W.RTC_TIME 132 = true := rfl
theorem at_SEQ_T0 : isAt W.SEQ_T0 21 = true := rfl
theorem at_SEQ_T0_1 : isAt (W.SEQ_T0 + 1) 21 = true := rfl
theorem at_SHARED_DIGEST : isAt W.SHARED_DIGEST 148 = true := rfl
theorem at_SHARED_DIGEST_1 : isAt (W.SHARED_DIGEST + 1) 148 = true := rfl
theorem at_SUP_FIRST : isAt W.SUP_FIRST 24 = true := rfl
theorem at_TRC_FREEZE : isAt W.TRC_FREEZE 191 = true := rfl
theorem at_TRUSS_ID : isAt W.TRUSS_ID 147 = true := rfl
theorem at_TRUSS_ID_1 : isAt (W.TRUSS_ID + 1) 147 = true := rfl
theorem at_TRUSS_SEQ : isAt W.TRUSS_SEQ 146 = true := rfl
theorem fam_HC_VSET_VCODE : isFam W.HC_VSET_VCODE 34 = true := rfl
theorem fam_CL_VSET_VCODE : isFam W.CL_VSET_VCODE 44 = true := rfl
theorem fam_SB_VSET_VCODE : isFam W.SB_VSET_VCODE 54 = true := rfl
theorem fam_LD_CFG_VCODE : isFam W.LD_CFG_VCODE 57 = true := rfl
theorem fam_GB_AUX_VNOM : isFam W.GB_AUX_VNOM 61 = true := rfl

end Sys2Proof.Machine
end

