-- ==== Sys2Proof/Laws/KOps.lean ====
section
/-! SUPPORT. Every operation of Machine/Ops.lean keeps what it does not change (Laws/Keeps.lean). -/

set_option linter.all false
set_option Elab.async false


namespace Sys2Proof.Machine

theorem setW_keeps {m u d0 d a x k} (ha : isAt a k = true) (hm : Within 1 m) (hu : Within (2 ^ k) u)
    (h : Keeps m u d0 d) : Keeps m u d0 (setW d a x) := by
  have h0 : m.testBit 0 = true := hm.bit (by decide)
  refine ⟨.inr h0, h.mode, h.prev, h.roofTime, h.cycles, h.core, h.rails, h.seq, h.cl, h.ev, h.eng, h.perf, h.adc, h.therm,
    h.bg, h.link, h.vly, h.gauge, h.power, h.rtc, h.otp, h.log, h.fw, h.freeN, fun k => wf_set (h.canon k),
    fun q => let r := h.ok q
      ⟨r.rails, r.cl, r.ev, r.eng, r.perf, r.adc, r.therm, r.bg, r.link, r.vly, r.rtc, r.otp, r.log, r.fw⟩, h.blown, fun b hb => ?_, h.q12⟩
  have hne : b ≠ a := by
    rintro rfl
    rw [famTouch_at ha (hu.bit (by simp [Nat.testBit_two_pow_self]))] at hb
    cases hb
  rw [← h.frame b hb]
  exact get_set_ne hne

/-- A write of a word at any address. -/
theorem setW_any {m u d0 d a x} (hm : Within 1 m) (hu : Within (2 ^ 230) u)
    (h : Keeps m u d0 d) : Keeps m u d0 (setW d a x) := by
  have h0 : m.testBit 0 = true := hm.bit (by decide)
  refine ⟨.inr h0, h.mode, h.prev, h.roofTime, h.cycles, h.core, h.rails, h.seq, h.cl, h.ev, h.eng, h.perf, h.adc, h.therm,
    h.bg, h.link, h.vly, h.gauge, h.power, h.rtc, h.otp, h.log, h.fw, h.freeN, fun k => wf_set (h.canon k),
    fun q => let r := h.ok q
      ⟨r.rails, r.cl, r.ev, r.eng, r.perf, r.adc, r.therm, r.bg, r.link, r.vly, r.rtc, r.otp, r.log, r.fw⟩, h.blown, fun b hb => ?_, h.q12⟩
  have hb' : u.testBit 230 = true := hu.bit (by decide)
  simp [famTouch, hb'] at hb

theorem setFld_keeps {m u d0 d f k v i} (hf : isFam f k = true) (hm : Within 1 m) (hu : Within (2 ^ k) u) (h : Keeps m u d0 d) :
    Keeps m u d0 (setFld d f v i) := by
  unfold setFld
  split
  · rename_i hi
    exact setW_keeps (isAt_of_fam hf hi) hm hu h
  · exact h

theorem setFld_any {m u d0 d f v i} (hm : Within 1 m) (hu : Within (2 ^ 230) u) (h : Keeps m u d0 d) :
    Keeps m u d0 (setFld d f v i) := by
  unfold setFld
  split
  · exact setW_any hm hu h
  · exact h

theorem setFlag_keeps {m u d0 d f k v i} (hf : isFam f k = true) (hm : Within 1 m) (hu : Within (2 ^ k) u) (h : Keeps m u d0 d) :
    Keeps m u d0 (setFlag d f v i) := setFld_keeps hf hm hu h

theorem setFlag_any {m u d0 d f v i} (hm : Within 1 m) (hu : Within (2 ^ 230) u) (h : Keeps m u d0 d) :
    Keeps m u d0 (setFlag d f v i) := setFld_any hm hu h

theorem setArr_keeps {m u d0 d a k n v} (hf : isFam ⟨a.base, 1, a.count, 0, 0⟩ k = true) (hm : Within 1 m)
    (hu : Within (2 ^ k) u) (h : Keeps m u d0 d) : Keeps m u d0 (setArr d a n v) := by
  unfold setArr
  split
  · rename_i hi
    refine setW_keeps (k := k) ?_ hm hu h
    have := isAt_of_fam hf hi
    simpa using this
  · exact h

theorem addSat_keeps {m u d0 d f k n i} (hf : isFam f k = true) (hm : Within 1 m) (hu : Within (2 ^ k) u) (h : Keeps m u d0 d) :
    Keeps m u d0 (addSat d f n i) := setFld_keeps hf hm hu h

theorem addWrap_keeps {m u d0 d f k n i} (hf : isFam f k = true) (hm : Within 1 m) (hu : Within (2 ^ k) u) (h : Keeps m u d0 d) :
    Keeps m u d0 (addWrap d f n i) := setFld_keeps hf hm hu h

theorem putWord_keeps {m u d0 d f k x i} (hf : isFam f k = true) (hm : Within 1 m) (hu : Within (2 ^ k) u) (h : Keeps m u d0 d) :
    Keeps m u d0 (putWord d f x i) := by
  unfold putWord
  split
  · rename_i hi
    exact setW_keeps (isAt_of_fam hf hi) hm hu h
  · exact h

theorem setMaskBit_keeps {m u d0 d f k n b i} (hf : isFam f k = true) (hm : Within 1 m) (hu : Within (2 ^ k) u)
    (h : Keeps m u d0 d) : Keeps m u d0 (setMaskBit d f n b i) := putWord_keeps hf hm hu h

theorem setMode_keeps {m u d0} {x0 d} (hm : Within 4194310 m) (hu : Within 0x0 u) (h : Keeps m u d0 d) :
    Keeps m u d0 (setMode x0 d) := by
  unfold setMode
  repeat' first
    | with_reducible assumption | exact hm.sub (by decide) | exact hu.sub (by decide)
    | (extract_lets +onlyGivenNames y; first | (refine (fun _ => ?_) (?_ : Keeps m u d0 y); clear_value y) | subst y)
    | exact Or.inr (hm.bit (by decide)) | with_reducible exact Or.inl rfl | with_reducible exact Imp.refl _
    | (with_reducible refine Imp.mk (fun _ _ hq => ?_); first | (simp at hq ⊢; done) | (simp at hq ⊢; simp [hq]; done))
    | with_reducible exact Or.inr rfl | with_reducible apply keeps_ite | simp only [keepsMk_iff]
    | with_reducible apply keeps_mk (hw := by with_reducible rfl)

theorem drawn_keeps {m u d0} {d} (hm : Within 8388608 m) (hu : Within 0x0 u) (h : Keeps m u d0 d) :
    Keeps m u d0 (drawn d) := by
  unfold drawn
  repeat' first
    | with_reducible assumption | exact hm.sub (by decide) | exact hu.sub (by decide)
    | exact Or.inr (hm.bit (by decide)) | with_reducible exact Or.inl rfl | with_reducible exact Imp.refl _
    | with_reducible exact Or.inr rfl | simp only [keepsMk_iff]
    | with_reducible apply keeps_mk (hw := by with_reducible rfl)

theorem setRail_keeps {m u d0} {d x1 x2} (hm : Within 64 m) (hu : Within 0x0 u) (h : Keeps m u d0 d) :
    Keeps m u d0 (setRail d x1 x2) := by
  unfold setRail
  repeat' first
    | with_reducible assumption | exact hm.sub (by decide) | exact hu.sub (by decide)
    | exact Or.inr (hm.bit (by decide)) | with_reducible exact Or.inl rfl | with_reducible exact Imp.refl _
    | (with_reducible refine Imp.mk (fun _ _ hq => ?_); first | (simp at hq ⊢; done) | (simp at hq ⊢; simp [hq]; done))
    | with_reducible exact Or.inr rfl | simp only [keepsMk_iff]
    | with_reducible apply keeps_mk (hw := by with_reducible rfl)


theorem bumpOne_keeps {m u d0} {x0 d x2} (hm : Within 2561 m) (hu : Within 0x4000000000000000000000000000000000000000000000 u) (h : Keeps m u d0 d) :
    Keeps m u d0 (bumpOne x0 d x2) := by
  unfold bumpOne
  repeat' first
    | with_reducible assumption | exact hm.sub (by decide) | exact hu.sub (by decide) | intro _ | subst y
    | (extract_lets +onlyGivenNames y; first | (refine (fun _ => ?_) (?_ : Keeps m u d0 y); clear_value y) | subst y)
    | exact Or.inr (hm.bit (by decide)) | with_reducible exact Or.inl rfl | with_reducible exact Imp.refl _
    | (with_reducible refine Imp.mk (fun _ _ hq => ?_); first | (simp at hq ⊢; done) | (simp at hq ⊢; simp [hq]; done))
    | (with_reducible refine Imp.mk (fun q _ hq => ?_); have r := h.ok q; simp [partsOk_iff] at r hq ⊢; simp [r, hq]; done)
    | (rename_i a ha hb; with_reducible refine Imp.mk (fun q _ _ => ?_); have r := ha.ok q; simp [partsOk_iff] at r ⊢; simp [r]; done)
    | with_reducible exact Or.inr rfl | with_reducible apply setMaskBit_keeps fam_PC_OVF_OVF
    | with_reducible apply keeps_ite | with_reducible apply keeps_foldl | simp only [keepsMk_iff]
    | with_reducible apply keeps_mk (hw := by with_reducible rfl) | with_reducible rfl | split

theorem count_keeps {m u d0} {x0 d x2} (hm : Within 2561 m) (hu : Within 0x4000000000000000000000000000000000000000000000 u) (h : Keeps m u d0 d) :
    Keeps m u d0 (count x0 d x2) := by
  unfold count
  repeat' first
    | with_reducible assumption | exact hm.sub (by decide) | exact hu.sub (by decide) | intro _
    | with_reducible apply bumpOne_keeps | with_reducible apply keeps_ite | with_reducible apply keeps_foldl

theorem setSrcRec_keeps {m u d0} {d x1 x2} (hm : Within 512 m) (hu : Within 0x0 u) (h : Keeps m u d0 d) :
    Keeps m u d0 (setSrcRec d x1 x2) := by
  unfold setSrcRec
  repeat' first
    | with_reducible assumption | exact hm.sub (by decide) | exact hu.sub (by decide)
    | (extract_lets +onlyGivenNames y; first | (refine (fun _ => ?_) (?_ : Keeps m u d0 y); clear_value y) | subst y)
    | exact Or.inr (hm.bit (by decide)) | with_reducible exact Or.inl rfl | with_reducible exact Imp.refl _
    | (with_reducible refine Imp.mk (fun _ _ hq => ?_); first | (simp at hq ⊢; done) | (simp at hq ⊢; simp [hq]; done))
    | with_reducible exact Or.inr rfl | simp only [keepsMk_iff]
    | with_reducible apply keeps_mk (hw := by with_reducible rfl)

theorem setGrpRec_keeps {m u d0} {d x1 x2} (hm : Within 512 m) (hu : Within 0x0 u) (h : Keeps m u d0 d) :
    Keeps m u d0 (setGrpRec d x1 x2) := by
  unfold setGrpRec
  repeat' first
    | with_reducible assumption | exact hm.sub (by decide) | exact hu.sub (by decide)
    | (extract_lets +onlyGivenNames y; first | (refine (fun _ => ?_) (?_ : Keeps m u d0 y); clear_value y) | subst y)
    | exact Or.inr (hm.bit (by decide)) | with_reducible exact Or.inl rfl | with_reducible exact Imp.refl _
    | (with_reducible refine Imp.mk (fun _ _ hq => ?_); first | (simp at hq ⊢; done) | (simp at hq ⊢; simp [hq]; done))
    | with_reducible exact Or.inr rfl | simp only [keepsMk_iff]
    | with_reducible apply keeps_mk (hw := by with_reducible rfl)

theorem putEntry_keeps {m u d0} {x0 d} (hm : Within 1536 m) (hu : Within 0x0 u) (h : Keeps m u d0 d) :
    Keeps m u d0 (putEntry x0 d) := by
  unfold putEntry
  repeat' first
    | with_reducible assumption | exact hm.sub (by decide) | exact hu.sub (by decide)
    | (extract_lets +onlyGivenNames y; first | (refine (fun _ => ?_) (?_ : Keeps m u d0 y); clear_value y) | subst y)
    | exact Or.inr (hm.bit (by decide)) | with_reducible exact Or.inl rfl | with_reducible exact Imp.refl _
    | (with_reducible refine Imp.mk (fun _ _ hq => ?_); first | (simp at hq ⊢; done) | (simp at hq ⊢; simp [hq]; done))
    | with_reducible exact Or.inr rfl | (refine Or.inl (?_ : (_ : Nat) ≠ 12); decide)
    | with_reducible apply setRing_keeps | simp only [keepsMk_iff]
    | with_reducible apply keeps_mk (hw := by with_reducible rfl)

theorem q13Lost_keeps {m u d0} {d} (hm : Within 2561 m) (hu : Within 0x80000000004000000000000000000000000000000000000000000000 u) (h : Keeps m u d0 d) :
    Keeps m u d0 (q13Lost d) := by
  unfold q13Lost
  repeat' first
    | with_reducible assumption | exact hm.sub (by decide) | exact hu.sub (by decide) | subst y
    | (extract_lets +onlyGivenNames y; first | (refine (fun _ => ?_) (?_ : Keeps m u d0 y); clear_value y) | subst y)
    | exact Or.inr (hm.bit (by decide)) | with_reducible exact Or.inl rfl | with_reducible exact Imp.refl _
    | (with_reducible refine Imp.mk (fun _ _ hq => ?_); first | (simp at hq ⊢; done) | (simp at hq ⊢; simp [hq]; done))
    | with_reducible exact Or.inr rfl | with_reducible apply setMaskBit_keeps fam_HP_RING_OVF_OVF
    | with_reducible apply count_keeps | with_reducible apply keeps_ite | simp only [keepsMk_iff]
    | with_reducible apply keeps_mk (hw := by with_reducible rfl)

theorem deliverOne_keeps {m u d0} {x0 d x2} (hm : Within 3585 m) (hu : Within 0x800000000040000000000002c0000000000000000000000000000000 u) (h : Keeps m u d0 d) :
    Keeps m u d0 (deliverOne x0 d x2) := by
  unfold deliverOne
  repeat' first
    | with_reducible assumption | exact hm.sub (by decide) | exact hu.sub (by decide) | subst y
    | (extract_lets +onlyGivenNames y; first | (refine (fun _ => ?_) (?_ : Keeps m u d0 y); clear_value y) | subst y)
    | with_reducible apply setMaskBit_keeps fam_EVT_PEND_N_PEND
    | with_reducible apply setMaskBit_keeps fam_EVT_PEND_F_PEND
    | with_reducible apply setMaskBit_keeps fam_EVT_LAT_LAT | with_reducible apply setSrcRec_keeps
    | with_reducible apply count_keeps | with_reducible apply putEntry_keeps | with_reducible apply q13Lost_keeps
    | with_reducible apply keeps_ite

theorem openDelivery_keeps {m u d0} {x0 d} (hm : Within 2561 m) (hu : Within 0x4000000000000000000000000000000000000000000000 u) (h : Keeps m u d0 d) :
    Keeps m u d0 (openDelivery x0 d) := by
  unfold openDelivery
  repeat' first
    | with_reducible assumption | exact hm.sub (by decide) | exact hu.sub (by decide)
    | (extract_lets +onlyGivenNames y; first | (refine (fun _ => ?_) (?_ : Keeps m u d0 y); clear_value y) | subst y)
    | exact Or.inr (hm.bit (by decide)) | with_reducible exact Or.inl rfl | with_reducible exact Imp.refl _
    | (with_reducible refine Imp.mk (fun _ _ hq => ?_); first | (simp at hq ⊢; done) | (simp at hq ⊢; simp [hq]; done))
    | with_reducible exact Or.inr rfl | with_reducible apply count_keeps | with_reducible apply keeps_ite
    | simp only [keepsMk_iff] | with_reducible apply keeps_mk (hw := by with_reducible rfl) | split

theorem deliver_keeps {m u d0} {x0 x1 d} (hm : Within 3585 m) (hu : Within 0x800000000040000000000002c0000000000000000000000000000000 u) (h : Keeps m u d0 d) :
    Keeps m u d0 (deliver x0 x1 d) := by
  unfold deliver
  repeat' first
    | with_reducible assumption | exact hm.sub (by decide) | exact hu.sub (by decide) | intro _
    | with_reducible apply deliverOne_keeps | with_reducible apply openDelivery_keeps | with_reducible apply keeps_ite
    | with_reducible apply keeps_foldl

theorem laterCycle_keeps {m u d0} {d} (hm : Within 512 m) (hu : Within 0x0 u) (h : Keeps m u d0 d) :
    Keeps m u d0 (laterCycle d) := by
  unfold laterCycle
  repeat' first
    | with_reducible assumption | exact hm.sub (by decide) | exact hu.sub (by decide)
    | (extract_lets +onlyGivenNames y; first | (refine (fun _ => ?_) (?_ : Keeps m u d0 y); clear_value y) | subst y)
    | exact Or.inr (hm.bit (by decide)) | with_reducible exact Or.inl rfl | with_reducible exact Imp.refl _
    | (with_reducible refine Imp.mk (fun _ _ hq => ?_); first | (simp at hq ⊢; done) | (simp at hq ⊢; simp [hq]; done))
    | with_reducible exact Or.inr rfl | simp only [keepsMk_iff]
    | with_reducible apply keeps_mk (hw := by with_reducible rfl)

theorem deliverGroup_keeps {m u d0} {x0 d} (hm : Within 3585 m) (hu : Within 0x800000000040000000000002c0000000000000000000000000000000 u) (h : Keeps m u d0 d) :
    Keeps m u d0 (deliverGroup x0 d) := by
  unfold deliverGroup
  repeat' first
    | with_reducible assumption | exact hm.sub (by decide) | exact hu.sub (by decide)
    | with_reducible apply deliver_keeps | with_reducible apply setGrpRec_keeps

theorem latchOne_keeps {m u d0} {x0 x1 d} (hm : Within 3585 m) (hu : Within 0x800000000040000000000002c0000000000000000000000000000000 u) (h : Keeps m u d0 d) :
    Keeps m u d0 (latchOne x0 x1 d) := by
  unfold latchOne
  repeat' first
    | with_reducible assumption | exact hm.sub (by decide) | exact hu.sub (by decide) | subst y
    | (extract_lets +onlyGivenNames y; first | (refine (fun _ => ?_) (?_ : Keeps m u d0 y); clear_value y) | subst y)
    | with_reducible apply setMaskBit_keeps fam_EVT_LAT_LAT | with_reducible apply setSrcRec_keeps
    | with_reducible apply deliver_keeps | with_reducible apply setGrpRec_keeps | with_reducible apply count_keeps
    | with_reducible apply deliverGroup_keeps | with_reducible apply keeps_ite

theorem settle_keeps {m u d0} {n d} (hm : Within 3585 m) (hu : Within 0x800000000040000000000002c0000000000000000000000000000000 u) (h : Keeps m u d0 d) : Keeps m u d0 (settle n d) := by
  induction n generalizing d with
  | zero => exact h
  | succ n ih =>
    unfold settle
    split
    · exact h
    · apply ih
      apply latchOne_keeps (hm.sub (by decide)) (hu.sub (by decide))
      rw [keepsMk_iff]
      apply keeps_mk (hw := rfl) (ho := rfl) (h := h)
      all_goals first | exact Or.inl rfl | exact Or.inr rfl | exact Or.inr (hm.bit (by decide)) | exact Imp.refl _ |
         (refine ⟨fun _ _ hq => ?_⟩; first | (simp at hq ⊢; done) | (simp at hq ⊢; simp [hq]; done))

theorem raise_keeps {m u d0} {x0 d} (hm : Within 3585 m) (hu : Within 0x800000000040000000000002c0000000000000000000000000000000 u) (h : Keeps m u d0 d) :
    Keeps m u d0 (raise x0 d) := by
  unfold raise
  repeat' first
    | with_reducible assumption | exact hm.sub (by decide) | exact hu.sub (by decide)
    | with_reducible apply settle_keeps | with_reducible apply latchOne_keeps

theorem setLevel_keeps {m u d0} {x0 x1 d} (hm : Within 3585 m) (hu : Within 0x800000000040000000000002c0000000000000000000000000000000 u) (h : Keeps m u d0 d) :
    Keeps m u d0 (setLevel x0 x1 d) := by
  unfold setLevel
  repeat' first
    | with_reducible assumption | exact hm.sub (by decide) | exact hu.sub (by decide) | subst y
    | (extract_lets +onlyGivenNames y; first | (refine (fun _ => ?_) (?_ : Keeps m u d0 y); clear_value y) | subst y)
    | exact Or.inr (hm.bit (by decide)) | with_reducible exact Or.inl rfl | with_reducible exact Imp.refl _
    | (with_reducible refine Imp.mk (fun _ _ hq => ?_); first | (simp at hq ⊢; done) | (simp at hq ⊢; simp [hq]; done))
    | with_reducible exact Or.inr rfl | with_reducible apply raise_keeps | with_reducible apply keeps_ite
    | simp only [keepsMk_iff] | with_reducible apply keeps_mk (hw := by with_reducible rfl)

theorem ringRecord_keeps {m u d0} {x0 x1 d} (hm : Within 3585 m) (hu : Within 0x800000000040000000000002c0000000000000000000000000000000 u) (h : Keeps m u d0 d) (hq : x0 ≠ 12) :
    Keeps m u d0 (ringRecord x0 x1 d) := by
  unfold ringRecord
  repeat' first
    | with_reducible assumption | exact hm.sub (by decide) | exact hu.sub (by decide) | subst y
    | (extract_lets +onlyGivenNames y; first | (refine (fun _ => ?_) (?_ : Keeps m u d0 y); clear_value y) | subst y)
    | exact Or.inl hq | with_reducible apply setMaskBit_keeps fam_HP_RING_OVF_OVF | with_reducible apply setRing_keeps
    | with_reducible apply count_keeps | with_reducible apply raise_keeps | with_reducible apply keeps_ite

end Sys2Proof.Machine
end

