-- ==== Sys2Proof/Laws/KOperands.lean ====
section
/-! SUPPORT. Every operation of Machine/Operands.lean keeps what it does not change (Laws/Keeps.lean). -/

set_option linter.all false
set_option Elab.async false


namespace Sys2Proof.Machine

theorem setTagMem_keeps {m u d0} {d x1 x2} (hm : Within 1024 m) (hu : Within 0x0 u) (h : Keeps m u d0 d) :
    Keeps m u d0 (setTagMem d x1 x2) := by
  unfold setTagMem
  repeat' first
    | with_reducible assumption | exact hm.sub (by decide) | exact hu.sub (by decide)
    | (extract_lets +onlyGivenNames y; first | (refine (fun _ => ?_) (?_ : Keeps m u d0 y); clear_value y) | subst y)
    | exact Or.inr (hm.bit (by decide)) | with_reducible exact Or.inl rfl | with_reducible exact Imp.refl _
    | (with_reducible refine Imp.mk (fun _ _ hq => ?_); first | (simp at hq ⊢; done) | (simp at hq ⊢; simp [hq]; done))
    | with_reducible exact Or.inr rfl | simp only [keepsMk_iff]
    | with_reducible apply keeps_mk (hw := by with_reducible rfl)

theorem settleTag_keeps {m u d0} {x0 x1 x2 x3 x4 d} (hm : Within 1024 m) (hu : Within 0x0 u) (h : Keeps m u d0 d) :
    Keeps m u d0 (settleTag x0 x1 x2 x3 x4 d) := by
  unfold settleTag
  repeat' first
    | with_reducible assumption | exact hm.sub (by decide) | exact hu.sub (by decide)
    | with_reducible apply setTagMem_keeps | with_reducible apply keeps_ite

theorem postEntry_keeps {m u d0} {x0 x1 x2 d} (hm : Within 3585 m) (hu : Within 0x4000000000000000000000000000000000000000000000 u) (h : Keeps m u d0 d) (hq : 4 ∣ x2.length) :
    Keeps m u d0 (postEntry x0 x1 x2 d) := by
  unfold postEntry
  repeat' first
    | with_reducible assumption | exact hm.sub (by decide) | exact hu.sub (by decide)
    | (extract_lets +onlyGivenNames y; first | (refine (fun _ => ?_) (?_ : Keeps m u d0 y); clear_value y) | subst y)
    | exact Or.inr (hm.bit (by decide)) | with_reducible exact Or.inl rfl | with_reducible exact Imp.refl _
    | (with_reducible refine Imp.mk (fun _ _ hq => ?_); first | (simp at hq ⊢; done) | (simp at hq ⊢; simp [hq]; done))
    | with_reducible exact Or.inr rfl | exact Or.inr (Or.inr ⟨_, rfl, hq⟩) | with_reducible apply count_keeps
    | with_reducible apply setRing_keeps | with_reducible apply keeps_ite | simp only [keepsMk_iff]
    | with_reducible apply keeps_mk (hw := by with_reducible rfl)

theorem noteFull_keeps {m u d0} {d} (hm : Within 1024 m) (hu : Within 0x0 u) (h : Keeps m u d0 d) :
    Keeps m u d0 (noteFull d) := by
  unfold noteFull
  repeat' first
    | with_reducible assumption | exact hm.sub (by decide) | exact hu.sub (by decide)
    | (extract_lets +onlyGivenNames y; first | (refine (fun _ => ?_) (?_ : Keeps m u d0 y); clear_value y) | subst y)
    | exact Or.inr (hm.bit (by decide)) | with_reducible exact Or.inl rfl | with_reducible exact Imp.refl _
    | (with_reducible refine Imp.mk (fun _ _ hq => ?_); first | (simp at hq ⊢; done) | (simp at hq ⊢; simp [hq]; done))
    | with_reducible exact Or.inr rfl | with_reducible apply keeps_ite | simp only [keepsMk_iff]
    | with_reducible apply keeps_mk (hw := by with_reducible rfl)

theorem completeOne_keeps {m u d0} {x0 d x2 x3 x4 x5 x6} (hm : Within 3585 m) (hu : Within 0x800000000040000000000002c0000000000000000000000000000000 u) (h : Keeps m u d0 d) :
    Keeps m u d0 (completeOne x0 d x2 x3 x4 x5 x6) := by
  unfold completeOne
  repeat' first
    | with_reducible assumption | exact hm.sub (by decide) | exact hu.sub (by decide) | subst y
    | (extract_lets +onlyGivenNames y; first | (refine (fun _ => ?_) (?_ : Keeps m u d0 y); clear_value y) | subst y)
    | exact Or.inr (hm.bit (by decide)) | with_reducible exact Or.inl rfl | with_reducible exact Imp.refl _
    | (with_reducible refine Imp.mk (fun _ _ hq => ?_); first | (simp at hq ⊢; done) | (simp at hq ⊢; simp [hq]; done))
    | with_reducible exact Or.inr rfl | (show 4 ∣ List.length _; exact ⟨1, rfl⟩) | with_reducible apply noteFull_keeps
    | with_reducible apply settleTag_keeps | with_reducible apply postEntry_keeps | with_reducible apply count_keeps
    | with_reducible apply settle_keeps | with_reducible apply keeps_ite | simp only [keepsMk_iff]
    | with_reducible apply keeps_mk (hw := by with_reducible rfl)

theorem settleFences_keeps {m u d0} {n c d} (hm : Within 3585 m) (hu : Within 0x800000000040000000000002c0000000000000000000000000000000 u) (h : Keeps m u d0 d) : Keeps m u d0 (settleFences n c d) := by
  induction n generalizing d with
  | zero => exact h
  | succ n ih =>
    unfold settleFences
    split
    · exact h
    · apply ih
      apply completeOne_keeps (hm.sub (by decide)) (hu.sub (by decide))
      apply keeps_ite _ h
      rw [keepsMk_iff]
      apply keeps_mk (hw := rfl) (ho := rfl) (h := h)
      all_goals first | exact Or.inl rfl | exact Or.inr rfl | exact Or.inr (hm.bit (by decide)) | exact Imp.refl _ |
         (refine ⟨fun _ _ hq => ?_⟩; first | (simp at hq ⊢; done) | (simp at hq ⊢; simp [hq]; done))

theorem completeWith_keeps {m u d0} {x0 d x2 x3 x4 x5 x6} (hm : Within 3585 m) (hu : Within 0x800000000040000000000002c0000000000000000000000000000000 u) (h : Keeps m u d0 d) :
    Keeps m u d0 (completeWith x0 d x2 x3 x4 x5 x6) := by
  unfold completeWith
  repeat' first
    | with_reducible assumption | exact hm.sub (by decide) | exact hu.sub (by decide) | subst y
    | (extract_lets +onlyGivenNames y; first | (refine (fun _ => ?_) (?_ : Keeps m u d0 y); clear_value y) | subst y)
    | with_reducible apply completeOne_keeps | with_reducible apply settleFences_keeps

theorem complete_keeps {m u d0} {x0 d x2 x3 x4 x5} (hm : Within 3585 m) (hu : Within 0x800000000040000000000002c0000000000000000000000000000000 u) (h : Keeps m u d0 d) :
    Keeps m u d0 (complete x0 d x2 x3 x4 x5) := by
  unfold complete
  repeat' first
    | with_reducible assumption | exact hm.sub (by decide) | exact hu.sub (by decide)
    | with_reducible apply completeWith_keeps

theorem judged_keeps {m u d0} {x0 d x2 x3 x4 x5} (hm : Within 3585 m) (hu : Within 0x800000000040000000000002c0000000000000000000000000000000 u) (h : Keeps m u d0 d) (hk : ∀ d, Keeps m u d0 d → Keeps m u d0 (x5 d)) :
    Keeps m u d0 (judged x0 d x2 x3 x4 x5) := by
  unfold judged
  repeat' first
    | with_reducible assumption | exact hm.sub (by decide) | exact hu.sub (by decide) | with_reducible apply hk
    | with_reducible apply complete_keeps | split

theorem keepRunning_keeps {m u d0} {x0 d} (hm : Within 1024 m) (hu : Within 0x0 u) (h : Keeps m u d0 d) :
    Keeps m u d0 (keepRunning x0 d) := by
  unfold keepRunning
  repeat' first
    | with_reducible assumption | exact hm.sub (by decide) | exact hu.sub (by decide)
    | (extract_lets +onlyGivenNames y; first | (refine (fun _ => ?_) (?_ : Keeps m u d0 y); clear_value y) | subst y)
    | exact Or.inr (hm.bit (by decide)) | with_reducible exact Or.inl rfl | with_reducible exact Imp.refl _
    | (with_reducible refine Imp.mk (fun _ _ hq => ?_); first | (simp at hq ⊢; done) | (simp at hq ⊢; simp [hq]; done))
    | with_reducible exact Or.inr rfl | simp only [keepsMk_iff]
    | with_reducible apply keeps_mk (hw := by with_reducible rfl)

theorem runRow_keeps {m u d0} {x0 x1 x2 x3 x4 d} (hm : Within 1024 m) (hu : Within 0x0 u) (h : Keeps m u d0 d) (hk : ∀ y0 d, Keeps m u d0 d → Keeps m u d0 (x4 y0 d)) :
    Keeps m u d0 (runRow x0 x1 x2 x3 x4 d) := by
  unfold runRow
  repeat' first
    | with_reducible assumption | exact hm.sub (by decide) | exact hu.sub (by decide)
    | (extract_lets +onlyGivenNames y; first | (refine (fun _ => ?_) (?_ : Keeps m u d0 y); clear_value y) | subst y)
    | exact Or.inr (hm.bit (by decide)) | with_reducible exact Or.inl rfl | with_reducible exact Imp.refl _
    | (with_reducible refine Imp.mk (fun _ _ hq => ?_); first | (simp at hq ⊢; done) | (simp at hq ⊢; simp [hq]; done))
    | with_reducible exact Or.inr rfl | with_reducible apply hk | with_reducible apply keeps_ite
    | simp only [keepsMk_iff] | with_reducible apply keeps_mk (hw := by with_reducible rfl)

theorem completeAll_keeps {m u d0} {x0 x1 x2 x3 d} (hm : Within 3585 m) (hu : Within 0x800000000040000000000002c0000000000000000000000000000000 u) (h : Keeps m u d0 d) :
    Keeps m u d0 (completeAll x0 x1 x2 x3 d) := by
  unfold completeAll
  repeat' first
    | with_reducible assumption | exact hm.sub (by decide) | exact hu.sub (by decide) | intro _
    | with_reducible apply complete_keeps | with_reducible apply keeps_foldl

theorem served_keeps {m u d0} {x0 x1 d} (hm : Within 3585 m) (hu : Within 0x800000000040000000000002c0000000000000000000000000000000 u) (h : Keeps m u d0 d) (hk : ∀ y0 d, Keeps m u d0 d → Keeps m u d0 (x1 y0 d)) :
    Keeps m u d0 (served x0 x1 d) := by
  unfold served
  repeat' first
    | with_reducible assumption | exact hm.sub (by decide) | exact hu.sub (by decide) | with_reducible apply hk
    | with_reducible apply complete_keeps | with_reducible apply keepRunning_keeps | with_reducible apply keeps_ite

theorem bgRan_keeps {m u d0} {x0 d} (hm : Within 16385 m) (hu : Within 0x20000000 u) (h : Keeps m u d0 d) :
    Keeps m u d0 (bgRan x0 d) := by
  unfold bgRan
  repeat' first
    | with_reducible assumption | exact hm.sub (by decide) | exact hu.sub (by decide) | subst y
    | (extract_lets +onlyGivenNames y; first | (refine (fun _ => ?_) (?_ : Keeps m u d0 y); clear_value y) | subst y)
    | exact Or.inr (hm.bit (by decide)) | with_reducible exact Or.inl rfl | with_reducible exact Imp.refl _
    | (with_reducible refine Imp.mk (fun _ _ hq => ?_); first | (simp at hq ⊢; done) | (simp at hq ⊢; simp [hq]; done))
    | with_reducible exact Or.inr rfl | with_reducible apply setFld_keeps fam_BG_STATUS_PAUSED
    | with_reducible apply keeps_ite | simp only [keepsMk_iff]
    | with_reducible apply keeps_mk (hw := by with_reducible rfl)

theorem bgBegin_keeps {m u d0} {x0 d} (hm : Within 1 m) (hu : Within 0x20000000 u) (h : Keeps m u d0 d) :
    Keeps m u d0 (bgBegin x0 d) := by
  unfold bgBegin
  repeat' first
    | with_reducible assumption | exact hm.sub (by decide) | exact hu.sub (by decide)
    | with_reducible apply setFld_keeps fam_BG_STATUS_PAUSED

end Sys2Proof.Machine
end

