-- ==== Sys2Proof/Laws/KQueues.lean ====
section
/-! SUPPORT. Every operation of Machine/Queues.lean keeps what it does not change (Laws/Keeps.lean). -/

set_option linter.all false
set_option Elab.async false


namespace Sys2Proof.Machine

theorem setQueue_keeps {m u d0} {d x1 x2} (hm : Within 1024 m) (hu : Within 0x0 u) (h : Keeps m u d0 d) :
    Keeps m u d0 (setQueue d x1 x2) := by
  unfold setQueue
  repeat' first
    | with_reducible assumption | exact hm.sub (by decide) | exact hu.sub (by decide)
    | (extract_lets +onlyGivenNames y; first | (refine (fun _ => ?_) (?_ : Keeps m u d0 y); clear_value y) | subst y)
    | exact Or.inr (hm.bit (by decide)) | with_reducible exact Or.inl rfl | with_reducible exact Imp.refl _
    | (with_reducible refine Imp.mk (fun _ _ hq => ?_); first | (simp at hq ⊢; done) | (simp at hq ⊢; simp [hq]; done))
    | with_reducible exact Or.inr rfl | simp only [keepsMk_iff]
    | with_reducible apply keeps_mk (hw := by with_reducible rfl)

theorem noStall_keeps {m u d0} {x0 d} (hm : Within 2048 m) (hu : Within 0x0 u) (h : Keeps m u d0 d) :
    Keeps m u d0 (noStall x0 d) := by
  unfold noStall
  repeat' first
    | with_reducible assumption | exact hm.sub (by decide) | exact hu.sub (by decide)
    | (extract_lets +onlyGivenNames y; first | (refine (fun _ => ?_) (?_ : Keeps m u d0 y); clear_value y) | subst y)
    | exact Or.inr (hm.bit (by decide)) | with_reducible exact Or.inl rfl | with_reducible exact Imp.refl _
    | (with_reducible refine Imp.mk (fun _ _ hq => ?_); first | (simp at hq ⊢; done) | (simp at hq ⊢; simp [hq]; done))
    | with_reducible exact Or.inr rfl | simp only [keepsMk_iff]
    | with_reducible apply keeps_mk (hw := by with_reducible rfl)

theorem emptyQueue_keeps {m u d0} {x0 d} (hm : Within 3072 m) (hu : Within 0x0 u) (h : Keeps m u d0 d) :
    Keeps m u d0 (emptyQueue x0 d) := by
  unfold emptyQueue
  repeat' first
    | with_reducible assumption | exact hm.sub (by decide) | exact hu.sub (by decide)
    | with_reducible apply noStall_keeps | with_reducible apply setQueue_keeps

theorem releaseQueue_keeps {m u d0} {d x1} (hm : Within 1024 m) (hu : Within 0x0 u) (h : Keeps m u d0 d) :
    Keeps m u d0 (releaseQueue d x1) := by
  unfold releaseQueue
  repeat' first
    | with_reducible assumption | exact hm.sub (by decide) | exact hu.sub (by decide)
    | with_reducible apply setQueue_keeps

theorem enqueue_keeps {m u d0} {x0 x1 x2 d} (hm : Within 1024 m) (hu : Within 0x0 u) (h : Keeps m u d0 d) :
    Keeps m u d0 (enqueue x0 x1 x2 d) := by
  unfold enqueue
  repeat' first
    | with_reducible assumption | exact hm.sub (by decide) | exact hu.sub (by decide) | intro _
    | (extract_lets +onlyGivenNames y; first | (refine (fun _ => ?_) (?_ : Keeps m u d0 y); clear_value y) | subst y)
    | exact Or.inr (hm.bit (by decide)) | with_reducible exact Or.inl rfl | with_reducible exact Imp.refl _
    | (with_reducible refine Imp.mk (fun _ _ hq => ?_); first | (simp at hq ⊢; done) | (simp at hq ⊢; simp [hq]; done))
    | with_reducible exact Or.inr rfl | with_reducible apply setQueue_keeps | with_reducible apply keeps_foldl
    | simp only [keepsMk_iff] | with_reducible apply keeps_mk (hw := by with_reducible rfl)

theorem countStall_keeps {m u d0} {x0 d x2} (hm : Within 2561 m) (hu : Within 0x4000000000000000000000000000000000000000000000 u) (h : Keeps m u d0 d) :
    Keeps m u d0 (countStall x0 d x2) := by
  unfold countStall
  repeat' first
    | with_reducible assumption | exact hm.sub (by decide) | exact hu.sub (by decide)
    | exact Or.inr (hm.bit (by decide)) | with_reducible exact Or.inl rfl | with_reducible exact Imp.refl _
    | (with_reducible refine Imp.mk (fun _ _ hq => ?_); first | (simp at hq ⊢; done) | (simp at hq ⊢; simp [hq]; done))
    | with_reducible exact Or.inr rfl | with_reducible apply count_keeps | simp only [keepsMk_iff]
    | with_reducible apply keeps_mk (hw := by with_reducible rfl) | split

theorem passCycles_keeps {m u d0} {x0 d} (hm : Within 2577 m) (hu : Within 0x4000000000000000000000000000000000000000000000 u) (h : Keeps m u d0 d) :
    Keeps m u d0 (passCycles x0 d) := by
  unfold passCycles
  repeat' first
    | with_reducible assumption | exact hm.sub (by decide) | exact hu.sub (by decide) | intro _ | subst y
    | (extract_lets +onlyGivenNames y; first | (refine (fun _ => ?_) (?_ : Keeps m u d0 y); clear_value y) | subst y)
    | exact Or.inr (hm.bit (by decide)) | with_reducible exact Or.inl rfl | with_reducible exact Imp.refl _
    | with_reducible exact Or.inr rfl | with_reducible apply count_keeps | with_reducible apply countStall_keeps
    | with_reducible apply keeps_ite | with_reducible apply keeps_foldl | simp only [keepsMk_iff]
    | with_reducible apply keeps_mk (hw := by with_reducible rfl)

theorem advanceTo_keeps {m u d0} {x0 d} (hm : Within 2585 m) (hu : Within 0x4000000000000000000000000000000000000000000000 u) (h : Keeps m u d0 d) :
    Keeps m u d0 (advanceTo x0 d) := by
  unfold advanceTo
  repeat' first
    | with_reducible assumption | exact hm.sub (by decide) | exact hu.sub (by decide)
    | exact Or.inr (hm.bit (by decide)) | with_reducible exact Or.inl rfl | with_reducible exact Imp.refl _
    | with_reducible exact Or.inr rfl | with_reducible apply passCycles_keeps | with_reducible apply keeps_ite
    | simp only [keepsMk_iff] | with_reducible apply keeps_mk (hw := by with_reducible rfl)

theorem atGate_keeps {m u d0} {d} (hm : Within 2585 m) (hu : Within 0x4000000000000000000000000000000000000000000000 u) (h : Keeps m u d0 d) :
    Keeps m u d0 (atGate d) := by
  unfold atGate
  repeat' first
    | with_reducible assumption | exact hm.sub (by decide) | exact hu.sub (by decide)
    | with_reducible apply advanceTo_keeps

theorem gated_keeps {m u d0} {x0 d x2 x3} (hm : Within 3609 m) (hu : Within 0x800000000040000000000002c0000000000000000000000000000000 u) (h : Keeps m u d0 d) (hk : ∀ d, Keeps m u d0 d → Keeps m u d0 (x3 d)) :
    Keeps m u d0 (gated x0 d x2 x3) := by
  unfold gated
  repeat' first
    | with_reducible assumption | exact hm.sub (by decide) | exact hu.sub (by decide) | subst y
    | (extract_lets +onlyGivenNames y; first | (refine (fun _ => ?_) (?_ : Keeps m u d0 y); clear_value y) | subst y)
    | with_reducible apply hk | with_reducible apply atGate_keeps | with_reducible apply complete_keeps | split

theorem newRound_keeps {m u d0} {d} (hm : Within 1024 m) (hu : Within 0x0 u) (h : Keeps m u d0 d) :
    Keeps m u d0 (newRound d) := by
  unfold newRound
  repeat' first
    | with_reducible assumption | exact hm.sub (by decide) | exact hu.sub (by decide)
    | (extract_lets +onlyGivenNames y; first | (refine (fun _ => ?_) (?_ : Keeps m u d0 y); clear_value y) | subst y)
    | exact Or.inr (hm.bit (by decide)) | with_reducible exact Or.inl rfl | with_reducible exact Imp.refl _
    | (with_reducible refine Imp.mk (fun _ _ hq => ?_); first | (simp at hq ⊢; done) | (simp at hq ⊢; simp [hq]; done))
    | with_reducible exact Or.inr rfl | simp only [keepsMk_iff]
    | with_reducible apply keeps_mk (hw := by with_reducible rfl)

theorem endRound_keeps {m u d0} {d} (hm : Within 1024 m) (hu : Within 0x0 u) (h : Keeps m u d0 d) :
    Keeps m u d0 (endRound d) := by
  unfold endRound
  repeat' first
    | with_reducible assumption | exact hm.sub (by decide) | exact hu.sub (by decide)
    | (extract_lets +onlyGivenNames y; first | (refine (fun _ => ?_) (?_ : Keeps m u d0 y); clear_value y) | subst y)
    | exact Or.inr (hm.bit (by decide)) | with_reducible exact Or.inl rfl | with_reducible exact Imp.refl _
    | (with_reducible refine Imp.mk (fun _ _ hq => ?_); first | (simp at hq ⊢; done) | (simp at hq ⊢; simp [hq]; done))
    | with_reducible exact Or.inr rfl | with_reducible apply keeps_ite | simp only [keepsMk_iff]
    | with_reducible apply keeps_mk (hw := by with_reducible rfl)

theorem recordTag_keeps {m u d0} {x0 d} (hm : Within 1024 m) (hu : Within 0x0 u) (h : Keeps m u d0 d) :
    Keeps m u d0 (recordTag x0 d) := by
  unfold recordTag
  repeat' first
    | with_reducible assumption | exact hm.sub (by decide) | exact hu.sub (by decide)
    | with_reducible apply setTagMem_keeps | with_reducible apply keeps_ite

theorem judgeTag_keeps {m u d0} {x0 d x2} (hm : Within 3585 m) (hu : Within 0x800000000040400000000002c0000000000000000000000000000000 u) (h : Keeps m u d0 d) (hk : ∀ d, Keeps m u d0 d → Keeps m u d0 (x2 d)) :
    Keeps m u d0 (judgeTag x0 d x2) := by
  unfold judgeTag
  repeat' first
    | with_reducible assumption | exact hm.sub (by decide) | exact hu.sub (by decide) | subst y
    | (extract_lets +onlyGivenNames y; first | (refine (fun _ => ?_) (?_ : Keeps m u d0 y); clear_value y) | subst y)
    | with_reducible apply hk | with_reducible apply addSat_keeps fam_ENG_TAG_CNT_CONFLICTS
    | with_reducible apply addSat_keeps fam_ENG_TAG_CNT_DUPLICATES | with_reducible apply recordTag_keeps
    | with_reducible apply count_keeps | with_reducible apply raise_keeps | with_reducible apply completeWith_keeps
    | with_reducible apply complete_keeps | with_reducible apply keeps_ite | split

theorem opFence_keeps {m u d0} {x0 d} (hm : Within 3585 m) (hu : Within 0x800000000040000000000002c0000000000000000000000000000000 u) (h : Keeps m u d0 d) :
    Keeps m u d0 (opFence x0 d) := by
  unfold opFence
  repeat' first
    | with_reducible assumption | exact hm.sub (by decide) | exact hu.sub (by decide) | subst y
    | (extract_lets +onlyGivenNames y; first | (refine (fun _ => ?_) (?_ : Keeps m u d0 y); clear_value y) | subst y)
    | with_reducible apply keepRunning_keeps | with_reducible apply settleFences_keeps

theorem opFenceAll_keeps {m u d0} {x0 d} (hm : Within 3585 m) (hu : Within 0x800000000040000000000002c0000000000000000000000000000000 u) (h : Keeps m u d0 d) :
    Keeps m u d0 (opFenceAll x0 d) := by
  unfold opFenceAll
  repeat' first
    | with_reducible assumption | exact hm.sub (by decide) | exact hu.sub (by decide) | subst y
    | (extract_lets +onlyGivenNames y; first | (refine (fun _ => ?_) (?_ : Keeps m u d0 y); clear_value y) | subst y)
    | exact Or.inr (hm.bit (by decide)) | with_reducible exact Or.inl rfl | with_reducible exact Imp.refl _
    | (with_reducible refine Imp.mk (fun _ _ hq => ?_); first | (simp at hq ⊢; done) | (simp at hq ⊢; simp [hq]; done))
    | with_reducible exact Or.inr rfl | with_reducible apply complete_keeps | with_reducible apply keepRunning_keeps
    | with_reducible apply settleFences_keeps | with_reducible apply keeps_ite | simp only [keepsMk_iff]
    | with_reducible apply keeps_mk (hw := by with_reducible rfl)

theorem numbered_keeps {m u d0} {q d} (hm : Within 2048 m) (hu : Within 0x0 u) (h : Keeps m u d0 d) : Keeps m u d0 (numbered q d).2 := by
  unfold numbered
  split
  · exact h
  · simp only [keepsMk_iff]
    apply keeps_mk (hw := rfl) (ho := rfl) (h := h)
    all_goals first | exact Or.inl rfl | exact Or.inr rfl | exact Or.inr (hm.bit (by decide)) | exact Imp.refl _ |
         (refine ⟨fun _ _ hq => ?_⟩; first | (simp at hq ⊢; done) | (simp at hq ⊢; simp [hq]; done))

theorem issueHead_keeps {m u d0} {x0 x1 d} (hm : Within 8392193 m) (hu : Within 0x800000000040400000000002c0000000000000000000000000000000 u) (h : Keeps m u d0 d) :
    Keeps m u d0 (issueHead x0 x1 d) := by
  unfold issueHead
  dsimp only
  repeat' first
    | with_reducible assumption | exact hm.sub (by decide) | exact hu.sub (by decide) | intro _
    | exact Or.inr (hm.bit (by decide)) | with_reducible exact Or.inl rfl | with_reducible exact Imp.refl _
    | (with_reducible refine Imp.mk (fun _ _ hq => ?_); first | (simp at hq ⊢; done) | (simp at hq ⊢; simp [hq]; done))
    | with_reducible exact Or.inr rfl | with_reducible apply noStall_keeps | with_reducible apply setQueue_keeps
    | with_reducible apply count_keeps | with_reducible apply drawn_keeps | with_reducible apply settle_keeps
    | with_reducible apply complete_keeps | with_reducible apply noteFull_keeps | with_reducible apply judgeTag_keeps
    | with_reducible apply opFence_keeps | with_reducible apply opFenceAll_keeps | with_reducible apply numbered_keeps
    | with_reducible apply keeps_ite | simp only [keepsMk_iff]
    | with_reducible apply keeps_mk (hw := by with_reducible rfl) | split

theorem chooseQueue_keeps {m u d0} {pick d r} (hm : Within 1024 m) (hu : Within 0x0 u) (h : Keeps m u d0 d) (hr : chooseQueue pick d = some r) :
    Keeps m u d0 r.2 := by
  unfold chooseQueue newRound at hr
  repeat' (first | split at hr | (dsimp only at hr; split at hr))
  all_goals first
    | cases hr; exact h
    | (cases hr
       simp only [keepsMk_iff]
       apply keeps_mk (hw := rfl) (ho := rfl) (h := h)
       all_goals first | exact Or.inl rfl | exact Or.inr rfl | exact Or.inr (hm.bit (by decide)) | exact Imp.refl _ |
         (refine ⟨fun _ _ hq => ?_⟩
          simp only [engOk_iff] at hq ⊢
          first | exact ⟨hq.1, hq.2.1, hq.2.2.1, wf_set hq.2.2.2.1, hq.2.2.2.2⟩ | exact ⟨hq.1, hq.2.1, hq.2.2.1, wf_set rfl, hq.2.2.2.2⟩ | exact hq))
    | cases hr

theorem issueOne_keeps {m u d0} {x0 d} (hm : Within 8392193 m) (hu : Within 0x800000000040400000000002c0000000000000000000000000000000 u) (h : Keeps m u d0 d) :
    Keeps m u d0 (issueOne x0 d) := by
  unfold issueOne
  split
  · exact h
  · split
    · rename_i q d' hr
      have h' := chooseQueue_keeps (hm.sub (by decide)) (hu.sub (by decide)) h hr
      split
      · exact endRound_keeps (hm.sub (by decide)) (hu.sub (by decide))
          (issueHead_keeps (hm.sub (by decide)) (hu.sub (by decide)) h')
      · exact h'
    · exact h


theorem rejudge_keeps {m u d0} {x0 d} (hm : Within 8392193 m) (hu : Within 0x800000000040400000000002c0000000000000000000000000000000 u) (h : Keeps m u d0 d) :
    Keeps m u d0 (rejudge x0 d) := by
  unfold rejudge
  repeat' first
    | with_reducible assumption | exact hm.sub (by decide) | exact hu.sub (by decide) | intro _ | subst y
    | (extract_lets +onlyGivenNames y; first | (refine (fun _ => ?_) (?_ : Keeps m u d0 y); clear_value y) | subst y)
    | exact Or.inr (hm.bit (by decide)) | with_reducible exact Or.inl rfl | with_reducible exact Imp.refl _
    | (with_reducible refine Imp.mk (fun _ _ hq => ?_); first | (simp at hq ⊢; done) | (simp at hq ⊢; simp [hq]; done))
    | (with_reducible refine Imp.mk (fun q _ hq => ?_); have r := h.ok q; simp [partsOk_iff] at r hq ⊢; simp [r, hq]; done)
    | (rename_i a ha hb; with_reducible refine Imp.mk (fun q _ _ => ?_); have r := ha.ok q; simp [partsOk_iff] at r ⊢; simp [r]; done)
    | with_reducible exact Or.inr rfl | with_reducible apply issueHead_keeps | with_reducible apply keeps_ite
    | with_reducible apply keeps_foldl | simp only [keepsMk_iff]
    | with_reducible apply keeps_mk (hw := by with_reducible rfl) | with_reducible rfl | split

end Sys2Proof.Machine
end

