-- ==== Sys2Proof/Laws/KLogOps.lean ====
section
/-! SUPPORT. Every operation of Machine/LogOps.lean keeps what it does not change (Laws/Keeps.lean). -/

set_option linter.all false
set_option Elab.async false


namespace Sys2Proof.Machine

theorem gutter_keeps {m u d0} {x0 x1 x2 x3 d} (hm : Within 10489345 m) (hu : Within 0x8000000002c0000000000002c0000000000000000000000000000000 u) (h : Keeps m u d0 d) :
    Keeps m u d0 (gutter x0 x1 x2 x3 d) := by
  unfold gutter
  repeat' first
    | with_reducible assumption | exact hm.sub (by decide) | exact hu.sub (by decide) | subst y
    | (extract_lets +onlyGivenNames y; first | (refine (fun _ => ?_) (?_ : Keeps m u d0 y); clear_value y) | subst y)
    | exact Or.inr (hm.bit (by decide)) | with_reducible exact Or.inl rfl | with_reducible exact Imp.refl _
    | (with_reducible refine Imp.mk (fun _ _ hq => ?_); first | (simp at hq ⊢; done) | (simp at hq ⊢; simp [hq]; done))
    | with_reducible exact Or.inr rfl | with_reducible apply setFld_keeps fam_GUT_STATUS_PENDING
    | with_reducible apply addSat_keeps fam_GUT_CNT_DROPPED | with_reducible apply raise_keeps
    | with_reducible apply drawn_keeps | with_reducible apply keeps_ite | simp only [keepsMk_iff]
    | with_reducible apply keeps_mk (hw := by with_reducible rfl)

theorem traceAt_keeps {m u d0} {x0 x1 x2 x3 d} (hm : Within 2097152 m) (hu : Within 0x0 u) (h : Keeps m u d0 d) :
    Keeps m u d0 (traceAt x0 x1 x2 x3 d) := by
  unfold traceAt
  repeat' first
    | with_reducible assumption | exact hm.sub (by decide) | exact hu.sub (by decide)
    | (extract_lets +onlyGivenNames y; first | (refine (fun _ => ?_) (?_ : Keeps m u d0 y); clear_value y) | subst y)
    | exact Or.inr (hm.bit (by decide)) | with_reducible exact Or.inl rfl | with_reducible exact Imp.refl _
    | (with_reducible refine Imp.mk (fun _ _ hq => ?_); first | (simp at hq ⊢; done) | (simp at hq ⊢; simp [hq]; done))
    | with_reducible exact Or.inr rfl | with_reducible apply keeps_ite | simp only [keepsMk_iff]
    | with_reducible apply keeps_mk (hw := by with_reducible rfl)

theorem traceEntry_keeps {m u d0} {x0 x1 x2 d} (hm : Within 2097152 m) (hu : Within 0x0 u) (h : Keeps m u d0 d) :
    Keeps m u d0 (traceEntry x0 x1 x2 d) := by
  unfold traceEntry
  repeat' first
    | with_reducible assumption | exact hm.sub (by decide) | exact hu.sub (by decide)
    | with_reducible apply traceAt_keeps

theorem traceComp_keeps {m u d0} {x0 x1 x2 d} (hm : Within 2097152 m) (hu : Within 0x0 u) (h : Keeps m u d0 d) :
    Keeps m u d0 (traceComp x0 x1 x2 d) := by
  unfold traceComp
  repeat' first
    | with_reducible assumption | exact hm.sub (by decide) | exact hu.sub (by decide)
    | with_reducible apply traceAt_keeps

theorem tracePin_keeps {m u d0} {x0 x1 x2 d} (hm : Within 2097152 m) (hu : Within 0x0 u) (h : Keeps m u d0 d) :
    Keeps m u d0 (tracePin x0 x1 x2 d) := by
  unfold tracePin
  repeat' first
    | with_reducible assumption | exact hm.sub (by decide) | exact hu.sub (by decide)
    | with_reducible apply traceAt_keeps

theorem traceWrite_keeps {m u d0} {x0 x1 d} (hm : Within 2097152 m) (hu : Within 0x0 u) (h : Keeps m u d0 d) :
    Keeps m u d0 (traceWrite x0 x1 d) := by
  unfold traceWrite
  repeat' first
    | with_reducible assumption | exact hm.sub (by decide) | exact hu.sub (by decide)
    | with_reducible apply traceEntry_keeps

theorem traceSlot_keeps {m u d0} {x0 x1 x2 x3 d} (hm : Within 2097152 m) (hu : Within 0x0 u) (h : Keeps m u d0 d) :
    Keeps m u d0 (traceSlot x0 x1 x2 x3 d) := by
  unfold traceSlot
  repeat' first
    | with_reducible assumption | exact hm.sub (by decide) | exact hu.sub (by decide)
    | with_reducible apply traceEntry_keeps

theorem traceWords_keeps {m u d0} {x0 x1 x2 x3 x4 d} (hm : Within 2097152 m) (hu : Within 0x0 u) (h : Keeps m u d0 d) :
    Keeps m u d0 (traceWords x0 x1 x2 x3 x4 d) := by
  unfold traceWords
  repeat' first
    | with_reducible assumption | exact hm.sub (by decide) | exact hu.sub (by decide)
    | with_reducible apply traceSlot_keeps

theorem traceUrgent_keeps {m u d0} {x0 x1 d} (hm : Within 2097152 m) (hu : Within 0x0 u) (h : Keeps m u d0 d) :
    Keeps m u d0 (traceUrgent x0 x1 d) := by
  unfold traceUrgent
  repeat' first
    | with_reducible assumption | exact hm.sub (by decide) | exact hu.sub (by decide)
    | with_reducible apply traceEntry_keeps

theorem nibblesOf_wf {rs : List (Option (Nat × Nat))} : ∀ {p : SMap Nat}, SMap.wf (fun _ => 0) p = true →
    SMap.wf (fun _ => 0) (nibblesOf rs p).2.2 = true := by
  induction rs with
  | nil => intro _ h; exact h
  | cons x t ih =>
    intro p h
    cases x with
    | none => exact ih h
    | some y => exact ih (wf_set h)

theorem closeBlock_keeps {m u d0} {d} (hm : Within 10485760 m) (hu : Within 0x0 u) (h : Keeps m u d0 d) :
    Keeps m u d0 (closeBlock d) := by
  unfold closeBlock
  split
  · exact h
  · have hd := drawn_keeps (hm.sub (by decide)) (hu.sub (by decide)) h
    extract_lets +onlyGivenNames r v y
    have hy : Keeps m u d0 y := traceAt_keeps (hm.sub (by decide)) (hu.sub (by decide)) hd
    clear_value y
    simp only [keepsMk_iff]
    apply keeps_mk (hw := by with_reducible rfl) (ho := by rfl) (h := hy)
    all_goals first | with_reducible exact Or.inl rfl | with_reducible exact Or.inr rfl | exact Or.inr (hm.bit (by decide)) | with_reducible exact Imp.refl _ | skip
    with_reducible refine Imp.mk (fun q _ hq => ?_)
    have hl := (h.ok q).log
    simp only [logOk_iff] at hl hq ⊢
    exact ⟨hq.1, hq.2.1, hq.2.2.1, hq.2.2.2.1, nibblesOf_wf hl.2.2.2.2⟩


theorem traceResult_keeps {m u d0} {x0 x1 x2 x3 d} (hm : Within 10485760 m) (hu : Within 0x0 u) (h : Keeps m u d0 d) :
    Keeps m u d0 (traceResult x0 x1 x2 x3 d) := by
  unfold traceResult
  repeat' first
    | with_reducible assumption | exact hm.sub (by decide) | exact hu.sub (by decide) | intro _ | subst y
    | (extract_lets +onlyGivenNames y; first | (refine (fun _ => ?_) (?_ : Keeps m u d0 y); clear_value y) | subst y)
    | exact Or.inr (hm.bit (by decide)) | with_reducible exact Or.inl rfl | with_reducible exact Imp.refl _
    | (with_reducible refine Imp.mk (fun _ _ hq => ?_); first | (simp at hq ⊢; done) | (simp at hq ⊢; simp [hq]; done))
    | (with_reducible refine Imp.mk (fun q _ hq => ?_); have r := h.ok q; simp [partsOk_iff] at r hq ⊢; simp [r, hq]; done)
    | (rename_i a ha hb; with_reducible refine Imp.mk (fun q _ _ => ?_); have r := ha.ok q; simp [partsOk_iff] at r ⊢; simp [r]; done)
    | with_reducible exact Or.inr rfl | with_reducible apply closeBlock_keeps | with_reducible apply keeps_ite
    | with_reducible apply keeps_foldl | simp only [keepsMk_iff]
    | with_reducible apply keeps_mk (hw := by with_reducible rfl) | with_reducible rfl | split

theorem traceKey_keeps {m u d0} {d} (hm : Within 10485760 m) (hu : Within 0x0 u) (h : Keeps m u d0 d) :
    Keeps m u d0 (traceKey d) := by
  unfold traceKey
  repeat' first
    | with_reducible assumption | exact hm.sub (by decide) | exact hu.sub (by decide) | subst y
    | (extract_lets +onlyGivenNames y; first | (refine (fun _ => ?_) (?_ : Keeps m u d0 y); clear_value y) | subst y)
    | exact Or.inr (hm.bit (by decide)) | with_reducible exact Or.inl rfl | with_reducible exact Imp.refl _
    | (with_reducible refine Imp.mk (fun _ _ hq => ?_); first | (simp at hq ⊢; done) | (simp at hq ⊢; simp [hq]; done))
    | with_reducible exact Or.inr rfl | with_reducible apply closeBlock_keeps | with_reducible apply traceEntry_keeps
    | simp only [keepsMk_iff] | with_reducible apply keeps_mk (hw := by with_reducible rfl)

theorem trigger_keeps {m u d0} {x0 d} (hm : Within 2097153 m) (hu : Within 0x400000000000000000000000000000000000000000000000 u) (h : Keeps m u d0 d) :
    Keeps m u d0 (trigger x0 d) := by
  unfold trigger
  repeat' first
    | with_reducible assumption | exact hm.sub (by decide) | exact hu.sub (by decide) | subst y
    | (extract_lets +onlyGivenNames y; first | (refine (fun _ => ?_) (?_ : Keeps m u d0 y); clear_value y) | subst y)
    | exact Or.inr (hm.bit (by decide)) | with_reducible exact Or.inl rfl | with_reducible exact Imp.refl _
    | (rename_i a ha hb; with_reducible refine Imp.mk (fun q _ _ => ?_); have r := ha.ok q; simp [partsOk_iff] at r ⊢; simp [r]; done)
    | with_reducible exact Or.inr rfl | with_reducible apply addSat_keeps fam_TRC_STATUS_TRIG_MISSED
    | with_reducible apply setFld_keeps fam_TRC_STATUS_STATE | with_reducible apply traceEntry_keeps
    | with_reducible apply keeps_ite | simp only [keepsMk_iff]
    | with_reducible apply keeps_mk (hw := by with_reducible rfl)

theorem trigIf_keeps {m u d0} {x0 x1 d} (hm : Within 2097153 m) (hu : Within 0x400000000000000000000000000000000000000000000000 u) (h : Keeps m u d0 d) :
    Keeps m u d0 (trigIf x0 x1 d) := by
  unfold trigIf
  repeat' first
    | with_reducible assumption | exact hm.sub (by decide) | exact hu.sub (by decide)
    | with_reducible apply trigger_keeps | with_reducible apply keeps_ite

theorem beginPhase_keeps {m u d0} {x0 x1 d} (hm : Within 32769 m) (hu : Within 0x4000000000000000000000000000000000000000 u) (h : Keeps m u d0 d) :
    Keeps m u d0 (beginPhase x0 x1 d) := by
  unfold beginPhase
  repeat' first
    | with_reducible assumption | exact hm.sub (by decide) | exact hu.sub (by decide) | subst y
    | (extract_lets +onlyGivenNames y; first | (refine (fun _ => ?_) (?_ : Keeps m u d0 y); clear_value y) | subst y)
    | exact Or.inr (hm.bit (by decide)) | with_reducible exact Or.inl rfl | with_reducible exact Imp.refl _
    | (with_reducible refine Imp.mk (fun q _ hq => ?_); have r := h.ok q; simp [partsOk_iff] at r hq ⊢; simp [r, hq]; done)
    | with_reducible exact Or.inr rfl | with_reducible apply setFld_keeps fam_ROOF_STATUS_PHASE
    | with_reducible apply keeps_ite | simp only [keepsMk_iff]
    | with_reducible apply keeps_mk (hw := by with_reducible rfl)

theorem phaseOn_keeps {m u d0} {x0 x1 d} (hm : Within 32769 m) (hu : Within 0x4000000000000000000000000000000000000000 u) (h : Keeps m u d0 d) :
    Keeps m u d0 (phaseOn x0 x1 d) := by
  unfold phaseOn
  repeat' first
    | with_reducible assumption | exact hm.sub (by decide) | exact hu.sub (by decide)
    | with_reducible apply beginPhase_keeps | with_reducible apply keeps_ite

theorem holdBus_keeps {m u d0} {x0 d} (hm : Within 32768 m) (hu : Within 0x0 u) (h : Keeps m u d0 d) :
    Keeps m u d0 (holdBus x0 d) := by
  unfold holdBus
  repeat' first
    | with_reducible assumption | exact hm.sub (by decide) | exact hu.sub (by decide)
    | (extract_lets +onlyGivenNames y; first | (refine (fun _ => ?_) (?_ : Keeps m u d0 y); clear_value y) | subst y)
    | exact Or.inr (hm.bit (by decide)) | with_reducible exact Or.inl rfl | with_reducible exact Imp.refl _
    | (with_reducible refine Imp.mk (fun _ _ hq => ?_); first | (simp at hq ⊢; done) | (simp at hq ⊢; simp [hq]; done))
    | with_reducible exact Or.inr rfl | simp only [keepsMk_iff]
    | with_reducible apply keeps_mk (hw := by with_reducible rfl)

theorem insertUrgent_keeps {m u d0} {x0 x1 d} (hm : Within 36353 m) (hu : Within 0x800000000040000048000002c0000000000000000000000000000000 u) (h : Keeps m u d0 d) :
    Keeps m u d0 (insertUrgent x0 x1 d) := by
  unfold insertUrgent
  repeat' first
    | with_reducible assumption | exact hm.sub (by decide) | exact hu.sub (by decide) | subst y
    | (extract_lets +onlyGivenNames y; first | (refine (fun _ => ?_) (?_ : Keeps m u d0 y); clear_value y) | subst y)
    | exact Or.inr (hm.bit (by decide)) | with_reducible exact Or.inl rfl | with_reducible exact Imp.refl _
    | (with_reducible refine Imp.mk (fun _ _ hq => ?_); first | (simp at hq ⊢; done) | (simp at hq ⊢; simp [hq]; done))
    | with_reducible exact Or.inr rfl | with_reducible apply addSat_keeps fam_LNK_TX_URGENT_SENT
    | with_reducible apply phaseOn_keeps | with_reducible apply holdBus_keeps | with_reducible apply settle_keeps
    | with_reducible apply count_keeps | with_reducible apply keeps_ite | simp only [keepsMk_iff]
    | with_reducible apply keeps_mk (hw := by with_reducible rfl)

end Sys2Proof.Machine
end

