-- ==== Sys2Proof/Laws/KRailOps.lean ====
section
/-! SUPPORT. Every operation of Machine/RailOps.lean keeps what it does not change (Laws/Keeps.lean). -/

set_option linter.all false
set_option Elab.async false


namespace Sys2Proof.Machine

theorem setRstate_keeps {m u d0} {x0 x1 d} (hm : Within 1 m) (hu : Within 0x20000 u) (h : Keeps m u d0 d) :
    Keeps m u d0 (setRstate x0 x1 d) := by
  unfold setRstate
  repeat' first
    | with_reducible assumption | exact hm.sub (by decide) | exact hu.sub (by decide)
    | with_reducible apply setArr_keeps fam_SEQ_RSTATE_RSTATE

theorem modRail_keeps {m u d0} {x0 x1 d} (hm : Within 64 m) (hu : Within 0x0 u) (h : Keeps m u d0 d) :
    Keeps m u d0 (modRail x0 x1 d) := by
  unfold modRail
  repeat' first
    | with_reducible assumption | exact hm.sub (by decide) | exact hu.sub (by decide)
    | with_reducible apply setRail_keeps

theorem setMoving_keeps {m u d0} {x0 x1 d} (hm : Within 1 m) (hu : Within 0xd084000000000000000 u) (h : Keeps m u d0 d) :
    Keeps m u d0 (setMoving x0 x1 d) := by
  unfold setMoving
  repeat' first
    | with_reducible assumption | exact hm.sub (by decide) | exact hu.sub (by decide)
    | with_reducible apply setFlag_keeps fam_GB_RSTATUS_RAMPING
    | with_reducible apply setFlag_keeps fam_LD_RSTATUS_REF_MOVING
    | with_reducible apply setFlag_keeps fam_SB_RSTATUS_REF_MOVING
    | with_reducible apply setFlag_keeps fam_CL_RSTATUS_REF_MOVING
    | with_reducible apply setFlag_keeps fam_HC_STATUS_REF_MOVING | split

theorem setDe_keeps {m u d0} {x0 x1 d} (hm : Within 1 m) (hu : Within 0x1084000000000000000 u) (h : Keeps m u d0 d) :
    Keeps m u d0 (setDe x0 x1 d) := by
  unfold setDe
  repeat' first
    | with_reducible assumption | exact hm.sub (by decide) | exact hu.sub (by decide)
    | with_reducible apply setFlag_keeps fam_SB_RSTATUS_DE_ACTIVE
    | with_reducible apply setFlag_keeps fam_CL_RSTATUS_DE_ACTIVE
    | with_reducible apply setFlag_keeps fam_HC_STATUS_DE_ACTIVE | split

theorem setSyncLocked_keeps {m u d0} {x0 x1 d} (hm : Within 1 m) (hu : Within 0x1084000000000000000 u) (h : Keeps m u d0 d) :
    Keeps m u d0 (setSyncLocked x0 x1 d) := by
  unfold setSyncLocked
  repeat' first
    | with_reducible assumption | exact hm.sub (by decide) | exact hu.sub (by decide)
    | with_reducible apply setFlag_keeps fam_SB_RSTATUS_SYNC_LOCKED
    | with_reducible apply setFlag_keeps fam_CL_RSTATUS_SYNC_LOCKED
    | with_reducible apply setFlag_keeps fam_HC_STATUS_SYNC_LOCKED | split

theorem setSyncRange_keeps {m u d0} {x0 x1 d} (hm : Within 1 m) (hu : Within 0x1084000000000000000 u) (h : Keeps m u d0 d) :
    Keeps m u d0 (setSyncRange x0 x1 d) := by
  unfold setSyncRange
  repeat' first
    | with_reducible assumption | exact hm.sub (by decide) | exact hu.sub (by decide)
    | with_reducible apply setFlag_keeps fam_SB_RSTATUS_SYNC_RANGE
    | with_reducible apply setFlag_keeps fam_CL_RSTATUS_SYNC_RANGE
    | with_reducible apply setFlag_keeps fam_HC_STATUS_SYNC_RANGE | split

theorem setBraking_keeps {m u d0} {x0 x1 d} (hm : Within 1 m) (hu : Within 0x1084000000000000000 u) (h : Keeps m u d0 d) :
    Keeps m u d0 (setBraking x0 x1 d) := by
  unfold setBraking
  repeat' first
    | with_reducible assumption | exact hm.sub (by decide) | exact hu.sub (by decide)
    | with_reducible apply setFlag_keeps fam_SB_RSTATUS_BRAKING
    | with_reducible apply setFlag_keeps fam_CL_RSTATUS_BRAKING
    | with_reducible apply setFlag_keeps fam_HC_STATUS_BRAKING | split

theorem setImbal_keeps {m u d0} {x0 x1 d} (hm : Within 1 m) (hu : Within 0x84000000000000000 u) (h : Keeps m u d0 d) :
    Keeps m u d0 (setImbal x0 x1 d) := by
  unfold setImbal
  repeat' first
    | with_reducible assumption | exact hm.sub (by decide) | exact hu.sub (by decide)
    | with_reducible apply setFlag_keeps fam_CL_RSTATUS_IMBAL | with_reducible apply setFlag_keeps fam_HC_STATUS_IMBAL
    | split

theorem setDis_keeps {m u d0} {x0 x1 d} (hm : Within 65 m) (hu : Within 0x5000000000000000000 u) (h : Keeps m u d0 d) :
    Keeps m u d0 (setDis x0 x1 d) := by
  unfold setDis
  repeat' first
    | with_reducible assumption | exact hm.sub (by decide) | exact hu.sub (by decide)
    | with_reducible apply setFlag_keeps fam_LD_RSTATUS_DIS_ACTIVE
    | with_reducible apply setFlag_keeps fam_SB_RSTATUS_DIS_ACTIVE | with_reducible apply modRail_keeps | split

theorem readmitPhase_keeps {m u d0} {d x1} (hm : Within 1 m) (hu : Within 0x20000000000000000000 u) (h : Keeps m u d0 d) :
    Keeps m u d0 (readmitPhase d x1) := by
  unfold readmitPhase
  repeat' first
    | with_reducible assumption | exact hm.sub (by decide) | exact hu.sub (by decide)
    | with_reducible apply setFld_keeps fam_PH_STATUS_CAUSE | with_reducible apply setFlag_keeps fam_PH_STATUS_FAILED

theorem modClus_keeps {m u d0} {x0 x1 d} (hm : Within 256 m) (hu : Within 0x0 u) (h : Keeps m u d0 d) :
    Keeps m u d0 (modClus x0 x1 d) := by
  unfold modClus
  repeat' first
    | with_reducible assumption | exact hm.sub (by decide) | exact hu.sub (by decide)
    | exact Or.inr (hm.bit (by decide)) | with_reducible exact Or.inl rfl | with_reducible exact Imp.refl _
    | (with_reducible refine Imp.mk (fun _ _ hq => ?_); first | (simp at hq ⊢; done) | (simp at hq ⊢; simp [hq]; done))
    | with_reducible exact Or.inr rfl | simp only [keepsMk_iff]
    | with_reducible apply keeps_mk (hw := by with_reducible rfl)

theorem putPhase_keeps {m u d0} {x0 x1 x2 x3 d} (hm : Within 1 m) (hu : Within 0x20080000000000000000 u) (h : Keeps m u d0 d) :
    Keeps m u d0 (putPhase x0 x1 x2 x3 d) := by
  unfold putPhase
  repeat' first
    | with_reducible assumption | exact hm.sub (by decide) | exact hu.sub (by decide) | subst y
    | (extract_lets +onlyGivenNames y; first | (refine (fun _ => ?_) (?_ : Keeps m u d0 y); clear_value y) | subst y)
    | with_reducible apply setFld_keeps fam_PH_STATUS_SERVING_RAIL
    | with_reducible apply setFld_keeps fam_PH_STATUS_STATE | with_reducible apply setFld_keeps fam_CL_RSTATUS_PH_MASK
    | with_reducible apply keeps_ite

theorem parkSpare_keeps {m u d0} {x0 d} (hm : Within 1 m) (hu : Within 0x120080000000000000000 u) (h : Keeps m u d0 d) :
    Keeps m u d0 (parkSpare x0 d) := by
  unfold parkSpare
  repeat' first
    | with_reducible assumption | exact hm.sub (by decide) | exact hu.sub (by decide) | intro _ | subst y
    | (extract_lets +onlyGivenNames y; first | (refine (fun _ => ?_) (?_ : Keeps m u d0 y); clear_value y) | subst y)
    | with_reducible apply setFld_keeps fam_PH_STATUS_STATE | with_reducible apply setFld_keeps fam_CL_RSTATUS_PH_MASK
    | with_reducible apply setFlag_keeps fam_CL_RSTATUS_SPARE_ON
    | with_reducible apply setFlag_keeps fam_CL_STATUS_SPARE_ENGAGED
    | with_reducible apply setFlag_keeps fam_CL_STATUS_STEER_CLOSED
    | with_reducible apply setFlag_keeps fam_CL_STATUS_ROT_ACTIVE | with_reducible apply keeps_ite
    | with_reducible apply keeps_foldl | simp only [keepsMk_iff] | split

theorem endDrill_keeps {m u d0} {x0 x1 x2 d} (hm : Within 3841 m) (hu : Within 0x800000000040000000000002c0000000000320080000000000000000 u) (h : Keeps m u d0 d) :
    Keeps m u d0 (endDrill x0 x1 x2 d) := by
  unfold endDrill
  repeat' first
    | with_reducible assumption | exact hm.sub (by decide) | exact hu.sub (by decide) | subst y
    | (extract_lets +onlyGivenNames y; first | (refine (fun _ => ?_) (?_ : Keeps m u d0 y); clear_value y) | subst y)
    | with_reducible apply setFld_keeps fam_DRILL_RESULT_RESULT
    | with_reducible apply setFlag_keeps fam_CL_STATUS_DRILL_ACTIVE | with_reducible apply parkSpare_keeps
    | with_reducible apply modClus_keeps | with_reducible apply completeAll_keeps | with_reducible apply keeps_ite

theorem resumeRest_keeps {m u d0} {x0 d} (hm : Within 257 m) (hu : Within 0x20080000000000000000 u) (h : Keeps m u d0 d) :
    Keeps m u d0 (resumeRest x0 d) := by
  unfold resumeRest
  repeat' first
    | with_reducible assumption | exact hm.sub (by decide) | exact hu.sub (by decide)
    | with_reducible apply modClus_keeps | with_reducible apply putPhase_keeps | split

theorem resumeShed_keeps {m u d0} {x0 d} (hm : Within 1 m) (hu : Within 0x20080000000000000000 u) (h : Keeps m u d0 d) :
    Keeps m u d0 (resumeShed x0 d) := by
  unfold resumeShed
  repeat' first
    | with_reducible assumption | exact hm.sub (by decide) | exact hu.sub (by decide) | intro _ | subst y
    | (extract_lets +onlyGivenNames y; first | (refine (fun _ => ?_) (?_ : Keeps m u d0 y); clear_value y) | subst y)
    | with_reducible apply setFlag_keeps fam_CL_RSTATUS_SHED_ACTIVE
    | with_reducible apply setFlag_keeps fam_CL_RSTATUS_SPARE_ON | with_reducible apply putPhase_keeps
    | with_reducible apply keeps_ite | with_reducible apply keeps_foldl | split

theorem leaveEase_keeps {m u d0} {d} (hm : Within 257 m) (hu : Within 0x120080000000000000000 u) (h : Keeps m u d0 d) :
    Keeps m u d0 (leaveEase d) := by
  unfold leaveEase
  repeat' first
    | with_reducible assumption | exact hm.sub (by decide) | exact hu.sub (by decide) | intro _ | subst y
    | (extract_lets +onlyGivenNames y; first | (refine (fun _ => ?_) (?_ : Keeps m u d0 y); clear_value y) | subst y)
    | with_reducible apply modClus_keeps | with_reducible apply parkSpare_keeps
    | with_reducible apply resumeRest_keeps | with_reducible apply resumeShed_keeps | with_reducible apply keeps_ite
    | with_reducible apply keeps_foldl | split

theorem dropSpare_keeps {m u d0} {x0 d} (hm : Within 3841 m) (hu : Within 0x800000000040000000000002c0000000000320080000000000000000 u) (h : Keeps m u d0 d) :
    Keeps m u d0 (dropSpare x0 d) := by
  unfold dropSpare
  repeat' first
    | with_reducible assumption | exact hm.sub (by decide) | exact hu.sub (by decide) | subst y
    | (extract_lets +onlyGivenNames y; first | (refine (fun _ => ?_) (?_ : Keeps m u d0 y); clear_value y) | subst y)
    | with_reducible apply endDrill_keeps | with_reducible apply parkSpare_keeps | with_reducible apply modClus_keeps
    | with_reducible apply keeps_ite

theorem admitPhases_keeps {m u d0} {x0 d} (hm : Within 1 m) (hu : Within 0x12008c000000000000000 u) (h : Keeps m u d0 d) :
    Keeps m u d0 (admitPhases x0 d) := by
  unfold admitPhases
  repeat' first
    | with_reducible assumption | exact hm.sub (by decide) | exact hu.sub (by decide) | intro _ | subst y
    | (extract_lets +onlyGivenNames y; first | (refine (fun _ => ?_) (?_ : Keeps m u d0 y); clear_value y) | subst y)
    | with_reducible apply setFld_keeps fam_CL_RSTATUS_PH_DROPPED
    | with_reducible apply setFld_keeps fam_CL_RSTATUS_PH_MASK | with_reducible apply setFld_keeps fam_PH_STATUS_STATE
    | with_reducible apply setFld_keeps fam_PH_STATUS_SERVING_RAIL
    | with_reducible apply setFld_keeps fam_HC_PH_CAUSE_CAUSE
    | with_reducible apply setFld_keeps fam_HC_STATUS_PH_DROPPED
    | with_reducible apply setFld_keeps fam_HC_STATUS_PH_MASK | with_reducible apply parkSpare_keeps
    | with_reducible apply readmitPhase_keeps | with_reducible apply keeps_ite | with_reducible apply keeps_foldl
    | split

theorem stillStatus_keeps {m u d0} {x0 d} (hm : Within 4129 m) (hu : Within 0x1084000000000000000 u) (h : Keeps m u d0 d) :
    Keeps m u d0 (stillStatus x0 d) := by
  unfold stillStatus
  repeat' first
    | with_reducible assumption | exact hm.sub (by decide) | exact hu.sub (by decide) | subst y
    | (extract_lets +onlyGivenNames y; first | (refine (fun _ => ?_) (?_ : Keeps m u d0 y); clear_value y) | subst y)
    | exact Or.inr (hm.bit (by decide)) | with_reducible exact Or.inl rfl | with_reducible exact Imp.refl _
    | (with_reducible refine Imp.mk (fun _ _ hq => ?_); first | (simp at hq ⊢; done) | (simp at hq ⊢; simp [hq]; done))
    | with_reducible exact Or.inr rfl | with_reducible apply setImbal_keeps | with_reducible apply setBraking_keeps
    | with_reducible apply setSyncLocked_keeps | simp only [keepsMk_iff]
    | with_reducible apply keeps_mk (hw := by with_reducible rfl)

theorem restSpare_keeps {m u d0} {x0 d} (hm : Within 1 m) (hu : Within 0x20080000000000000000 u) (h : Keeps m u d0 d) :
    Keeps m u d0 (restSpare x0 d) := by
  unfold restSpare
  repeat' first
    | with_reducible assumption | exact hm.sub (by decide) | exact hu.sub (by decide)
    | with_reducible apply setFld_keeps fam_PH_STATUS_STATE
    | with_reducible apply setFlag_keeps fam_CL_RSTATUS_SPARE_ON | with_reducible apply keeps_ite | split

theorem idlePhases_keeps {m u d0} {x0 d} (hm : Within 7969 m) (hu : Within 0x800000000040000000000002c0000000000329084000000000000000 u) (h : Keeps m u d0 d) :
    Keeps m u d0 (idlePhases x0 d) := by
  unfold idlePhases
  repeat' first
    | with_reducible assumption | exact hm.sub (by decide) | exact hu.sub (by decide) | intro _ | subst y
    | (extract_lets +onlyGivenNames y; first | (refine (fun _ => ?_) (?_ : Keeps m u d0 y); clear_value y) | subst y)
    | with_reducible apply setFlag_keeps fam_GB_RSTATUS_SWITCHING
    | with_reducible apply setFlag_keeps fam_GB_RSTATUS_OPEN
    | with_reducible apply setFld_keeps fam_CL_RSTATUS_PH_MASK
    | with_reducible apply setFlag_keeps fam_CL_RSTATUS_SHED_ACTIVE
    | with_reducible apply setFld_keeps fam_PH_STATUS_STATE | with_reducible apply setFld_keeps fam_HC_STATUS_PH_MASK
    | with_reducible apply stillStatus_keeps | with_reducible apply restSpare_keeps
    | with_reducible apply dropSpare_keeps | with_reducible apply keeps_ite | with_reducible apply keeps_foldl | split

theorem sinkPhases_keeps {m u d0} {x0 d} (hm : Within 1 m) (hu : Within 0x20084000000000000000 u) (h : Keeps m u d0 d) :
    Keeps m u d0 (sinkPhases x0 d) := by
  unfold sinkPhases
  repeat' first
    | with_reducible assumption | exact hm.sub (by decide) | exact hu.sub (by decide) | intro _ | subst y
    | (extract_lets +onlyGivenNames y; first | (refine (fun _ => ?_) (?_ : Keeps m u d0 y); clear_value y) | subst y)
    | with_reducible apply setFlag_keeps fam_CL_RSTATUS_SPARE_ON
    | with_reducible apply setFld_keeps fam_HC_STATUS_PH_MASK | with_reducible apply putPhase_keeps
    | with_reducible apply keeps_ite | with_reducible apply keeps_foldl | split

theorem markSso_keeps {m u d0} {x0 d} (hm : Within 32 m) (hu : Within 0x0 u) (h : Keeps m u d0 d) :
    Keeps m u d0 (markSso x0 d) := by
  unfold markSso
  repeat' first
    | with_reducible assumption | exact hm.sub (by decide) | exact hu.sub (by decide)
    | (extract_lets +onlyGivenNames y; first | (refine (fun _ => ?_) (?_ : Keeps m u d0 y); clear_value y) | subst y)
    | exact Or.inr (hm.bit (by decide)) | with_reducible exact Or.inl rfl | with_reducible exact Imp.refl _
    | with_reducible exact Or.inr rfl | simp only [keepsMk_iff]
    | with_reducible apply keeps_mk (hw := by with_reducible rfl)

theorem assertSso_keeps {m u d0} {x0 x1 d} (hm : Within 33 m) (hu : Within 0x800000000000000000000000000000000000000000000000000000 u) (h : Keeps m u d0 d) :
    Keeps m u d0 (assertSso x0 x1 d) := by
  unfold assertSso
  repeat' first
    | with_reducible assumption | exact hm.sub (by decide) | exact hu.sub (by decide) | subst y
    | (extract_lets +onlyGivenNames y; first | (refine (fun _ => ?_) (?_ : Keeps m u d0 y); clear_value y) | subst y)
    | with_reducible apply setFld_keeps fam_SSO_STATUS_BY_REFLEX
    | with_reducible apply setFld_keeps fam_SSO_STATUS_ASSERTED | with_reducible apply setFld_keeps fam_SSO_STATUS_PIN
    | with_reducible apply markSso_keeps | with_reducible apply keeps_ite

theorem pgoodLow_keeps {m u d0} {x0 d} (hm : Within 32 m) (hu : Within 0x0 u) (h : Keeps m u d0 d) :
    Keeps m u d0 (pgoodLow x0 d) := by
  unfold pgoodLow
  repeat' first
    | with_reducible assumption | exact hm.sub (by decide) | exact hu.sub (by decide)
    | (extract_lets +onlyGivenNames y; first | (refine (fun _ => ?_) (?_ : Keeps m u d0 y); clear_value y) | subst y)
    | exact Or.inr (hm.bit (by decide)) | with_reducible exact Or.inl rfl | with_reducible exact Imp.refl _
    | with_reducible exact Or.inr rfl | simp only [keepsMk_iff]
    | with_reducible apply keeps_mk (hw := by with_reducible rfl)

theorem losePg_keeps {m u d0} {x0 x1 d} (hm : Within 3937 m) (hu : Within 0x800000000040000000000002c0000000000000800000000000000000 u) (h : Keeps m u d0 d) :
    Keeps m u d0 (losePg x0 x1 d) := by
  unfold losePg
  repeat' first
    | with_reducible assumption | exact hm.sub (by decide) | exact hu.sub (by decide) | subst y
    | (extract_lets +onlyGivenNames y; first | (refine (fun _ => ?_) (?_ : Keeps m u d0 y); clear_value y) | subst y)
    | with_reducible apply setFlag_keeps fam_SUP_STATUS_PG | with_reducible apply modRail_keeps
    | with_reducible apply pgoodLow_keeps | with_reducible apply modClus_keeps | with_reducible apply raise_keeps
    | with_reducible apply keeps_ite

theorem startRail_keeps {m u d0} {x0 d} (hm : Within 65 m) (hu : Within 0x12d08c000000000020000 u) (h : Keeps m u d0 d) :
    Keeps m u d0 (startRail x0 d) := by
  unfold startRail
  repeat' first
    | with_reducible assumption | exact hm.sub (by decide) | exact hu.sub (by decide) | subst y
    | (extract_lets +onlyGivenNames y; first | (refine (fun _ => ?_) (?_ : Keeps m u d0 y); clear_value y) | subst y)
    | with_reducible apply setFlag_keeps fam_GB_RSTATUS_SWITCHING
    | with_reducible apply setFlag_keeps fam_GB_RSTATUS_OPEN | with_reducible apply setFlag_keeps fam_GB_RSTATUS_LIMIT
    | with_reducible apply admitPhases_keeps | with_reducible apply setDis_keeps | with_reducible apply setDe_keeps
    | with_reducible apply setMoving_keeps | with_reducible apply modRail_keeps | with_reducible apply setRstate_keeps
    | with_reducible apply keeps_ite

theorem softStop_keeps {m u d0} {x0 x1 d} (hm : Within 3937 m) (hu : Within 0x800000000040000000000002c000000000000d884000000000020000 u) (h : Keeps m u d0 d) :
    Keeps m u d0 (softStop x0 x1 d) := by
  unfold softStop
  repeat' first
    | with_reducible assumption | exact hm.sub (by decide) | exact hu.sub (by decide) | subst y
    | (extract_lets +onlyGivenNames y; first | (refine (fun _ => ?_) (?_ : Keeps m u d0 y); clear_value y) | subst y)
    | with_reducible apply setFlag_keeps fam_GB_RSTATUS_INTERLOCK_WAIT | with_reducible apply losePg_keeps
    | with_reducible apply setDe_keeps | with_reducible apply setMoving_keeps | with_reducible apply modRail_keeps
    | with_reducible apply setRstate_keeps | with_reducible apply setLevel_keeps | with_reducible apply keeps_ite

theorem beginStop_keeps {m u d0} {x0 x1 d} (hm : Within 3937 m) (hu : Within 0x800000000040000000000002c000000000000d884000000000020000 u) (h : Keeps m u d0 d) :
    Keeps m u d0 (beginStop x0 x1 d) := by
  unfold beginStop
  repeat' first
    | with_reducible assumption | exact hm.sub (by decide) | exact hu.sub (by decide)
    | with_reducible apply setFlag_keeps fam_GB_RSTATUS_INTERLOCK_WAIT | with_reducible apply modRail_keeps
    | with_reducible apply softStop_keeps | with_reducible apply keeps_ite

theorem railOff_keeps {m u d0} {x0 d} (hm : Within 8033 m) (hu : Within 0x800000000040000000000002c000000000032d084000000000000000 u) (h : Keeps m u d0 d) :
    Keeps m u d0 (railOff x0 d) := by
  unfold railOff
  repeat' first
    | with_reducible assumption | exact hm.sub (by decide) | exact hu.sub (by decide) | subst y
    | (extract_lets +onlyGivenNames y; first | (refine (fun _ => ?_) (?_ : Keeps m u d0 y); clear_value y) | subst y)
    | with_reducible apply idlePhases_keeps | with_reducible apply setDe_keeps | with_reducible apply setMoving_keeps
    | with_reducible apply modRail_keeps | with_reducible apply setDis_keeps | with_reducible apply keeps_ite

theorem gateRail_keeps {m u d0} {x0 x1 d} (hm : Within 8033 m) (hu : Within 0x800000000040000000000002c000000000032d884000000000020000 u) (h : Keeps m u d0 d) :
    Keeps m u d0 (gateRail x0 x1 d) := by
  unfold gateRail
  repeat' first
    | with_reducible assumption | exact hm.sub (by decide) | exact hu.sub (by decide) | subst y
    | (extract_lets +onlyGivenNames y; first | (refine (fun _ => ?_) (?_ : Keeps m u d0 y); clear_value y) | subst y)
    | with_reducible apply losePg_keeps | with_reducible apply modRail_keeps | with_reducible apply beginStop_keeps
    | with_reducible apply idlePhases_keeps | with_reducible apply setDe_keeps | with_reducible apply setMoving_keeps
    | with_reducible apply setLevel_keeps | with_reducible apply setRstate_keeps | with_reducible apply keeps_ite

theorem forceDischarge_keeps {m u d0} {x0 d} (hm : Within 65 m) (hu : Within 0x25084000000000020000 u) (h : Keeps m u d0 d) :
    Keeps m u d0 (forceDischarge x0 d) := by
  unfold forceDischarge
  repeat' first
    | with_reducible assumption | exact hm.sub (by decide) | exact hu.sub (by decide) | subst y
    | (extract_lets +onlyGivenNames y; first | (refine (fun _ => ?_) (?_ : Keeps m u d0 y); clear_value y) | subst y)
    | with_reducible apply sinkPhases_keeps | with_reducible apply setDe_keeps | with_reducible apply setDis_keeps
    | with_reducible apply modRail_keeps | with_reducible apply setRstate_keeps

theorem endForced_keeps {m u d0} {x0 d} (hm : Within 8033 m) (hu : Within 0x800000000040000000000002c000000000032d084000000000000000 u) (h : Keeps m u d0 d) :
    Keeps m u d0 (endForced x0 d) := by
  unfold endForced
  repeat' first
    | with_reducible assumption | exact hm.sub (by decide) | exact hu.sub (by decide) | subst y
    | (extract_lets +onlyGivenNames y; first | (refine (fun _ => ?_) (?_ : Keeps m u d0 y); clear_value y) | subst y)
    | with_reducible apply modRail_keeps | with_reducible apply idlePhases_keeps | with_reducible apply setDis_keeps
    | with_reducible apply setMoving_keeps

theorem killRails_keeps {m u d0} {d} (hm : Within 8033 m) (hu : Within 0x800000000040000000000002c000000000032d884000000000020000 u) (h : Keeps m u d0 d) :
    Keeps m u d0 (killRails d) := by
  unfold killRails
  repeat' first
    | with_reducible assumption | exact hm.sub (by decide) | exact hu.sub (by decide) | intro _ | subst y
    | (extract_lets +onlyGivenNames y; first | (refine (fun _ => ?_) (?_ : Keeps m u d0 y); clear_value y) | subst y)
    | with_reducible apply setFlag_keeps fam_GB_RSTATUS_INTERLOCK_WAIT | with_reducible apply losePg_keeps
    | with_reducible apply idlePhases_keeps | with_reducible apply setDe_keeps | with_reducible apply setMoving_keeps
    | with_reducible apply setRstate_keeps | with_reducible apply modRail_keeps | with_reducible apply keeps_ite
    | with_reducible apply keeps_foldl

theorem putAux_keeps {m u d0} {x0 x1 d} (hm : Within 1024 m) (hu : Within 0x0 u) (h : Keeps m u d0 d) :
    Keeps m u d0 (putAux x0 x1 d) := by
  unfold putAux
  repeat' first
    | with_reducible assumption | exact hm.sub (by decide) | exact hu.sub (by decide)
    | (extract_lets +onlyGivenNames y; first | (refine (fun _ => ?_) (?_ : Keeps m u d0 y); clear_value y) | subst y)
    | exact Or.inr (hm.bit (by decide)) | with_reducible exact Or.inl rfl | with_reducible exact Imp.refl _
    | (with_reducible refine Imp.mk (fun _ _ hq => ?_); first | (simp at hq ⊢; done) | (simp at hq ⊢; simp [hq]; done))
    | with_reducible exact Or.inr rfl | simp only [keepsMk_iff]
    | with_reducible apply keeps_mk (hw := by with_reducible rfl)

theorem endTest_keeps {m u d0} {x0 x1 x2 x3 d} (hm : Within 3585 m) (hu : Within 0x800000000040000000000002c0000000000000000000000020000000 u) (h : Keeps m u d0 d) :
    Keeps m u d0 (endTest x0 x1 x2 x3 d) := by
  unfold endTest
  repeat' first
    | with_reducible assumption | exact hm.sub (by decide) | exact hu.sub (by decide)
    | with_reducible apply setFld_keeps fam_BG_STATUS_ST_ACTIVE | with_reducible apply complete_keeps

theorem endAborted_keeps {m u d0} {x0 d} (hm : Within 8392193 m) (hu : Within 0x800000000040000000000002c0000000000000000000000020000000 u) (h : Keeps m u d0 d) :
    Keeps m u d0 (endAborted x0 d) := by
  unfold endAborted
  repeat' first
    | with_reducible assumption | exact hm.sub (by decide) | exact hu.sub (by decide)
    | with_reducible apply endTest_keeps | with_reducible apply drawn_keeps

theorem abortTest_keeps {m u d0} {x0 d} (hm : Within 8392193 m) (hu : Within 0x800000000040000000000002c0000000000000000000000020000000 u) (h : Keeps m u d0 d) :
    Keeps m u d0 (abortTest x0 d) := by
  unfold abortTest
  repeat' first
    | with_reducible assumption | exact hm.sub (by decide) | exact hu.sub (by decide) | intro _
    | with_reducible apply endAborted_keeps | with_reducible apply keeps_foldl

theorem testSample_keeps {m u d0} {x0 d} (hm : Within 1024 m) (hu : Within 0x0 u) (h : Keeps m u d0 d) :
    Keeps m u d0 (testSample x0 d) := by
  unfold testSample
  repeat' first
    | with_reducible assumption | exact hm.sub (by decide) | exact hu.sub (by decide) | intro _
    | (extract_lets +onlyGivenNames y; first | (refine (fun _ => ?_) (?_ : Keeps m u d0 y); clear_value y) | subst y)
    | with_reducible apply putAux_keeps | with_reducible apply keeps_ite | with_reducible apply keeps_foldl | split

end Sys2Proof.Machine
end

