-- ==== Sys2Proof/Laws/KValleyOps.lean ====
section
/-! SUPPORT. Every operation of Machine/ValleyOps.lean keeps what it does not change (Laws/Keeps.lean). -/

set_option linter.all false
set_option Elab.async false


namespace Sys2Proof.Machine

theorem risingFlag_keeps {m u d0 f k src b d} (hf : isFam f k = true) (hm : Within 3585 m) (hu : Within 0x800000000040000000000002c0000000000000000000000000000000 u)
    (hk : Within (2 ^ k) u) (h : Keeps m u d0 d) : Keeps m u d0 (risingFlag f src b d) := by
  unfold risingFlag
  have hy := setFlag_keeps (v := b) (i := 0) hf (hm.sub (by decide)) hk h
  exact keeps_ite (raise_keeps (hm.sub (by decide)) (hu.sub (by decide)) hy) hy

theorem gaugeSums_keeps {m u d0} {d} (hm : Within 3585 m) (hu : Within 0x800000000040000000000002c00001ec000000000000000000000000 u) (h : Keeps m u d0 d) :
    Keeps m u d0 (gaugeSums d) := by
  unfold gaugeSums
  repeat' first
    | with_reducible assumption | exact hm.sub (by decide) | exact hu.sub (by decide) | subst y
    | (extract_lets +onlyGivenNames y; first | (refine (fun _ => ?_) (?_ : Keeps m u d0 y); clear_value y) | subst y)
    | with_reducible apply setFld_keeps fam_GAUGE_STATUS_USABLE
    | with_reducible apply risingFlag_keeps fam_GAUGE_STATUS_OVERCOUNT
    | with_reducible apply risingFlag_keeps fam_GAUGE_STATUS_RSV_EXCEEDS
    | with_reducible apply setFld_keeps fam_GAUGE_ERR_ERR | with_reducible apply setFld_keeps fam_GAUGE_AVAIL_Q_AVAIL
    | with_reducible apply setFld_keeps fam_GAUGE_RSV_Q_RSV | with_reducible apply setFld_keeps fam_GAUGE_VLY_Q_VLY
    | with_reducible apply setW_keeps at_GAUGE_REM | with_reducible apply raise_keeps | with_reducible apply keeps_ite

theorem checkpoint_keeps {m u d0} {d} (hm : Within 131072 m) (hu : Within 0x0 u) (h : Keeps m u d0 d) :
    Keeps m u d0 (checkpoint d) := by
  unfold checkpoint
  repeat' first
    | with_reducible assumption | exact hm.sub (by decide) | exact hu.sub (by decide)
    | (extract_lets +onlyGivenNames y; first | (refine (fun _ => ?_) (?_ : Keeps m u d0 y); clear_value y) | subst y)
    | exact Or.inr (hm.bit (by decide)) | with_reducible exact Or.inl rfl | with_reducible exact Imp.refl _
    | with_reducible exact Or.inr rfl | with_reducible apply keeps_ite | simp only [keepsMk_iff]
    | with_reducible apply keeps_mk (hw := by with_reducible rfl)

theorem coldGauge_keeps {m u d0} {d} (hm : Within 134657 m) (hu : Within 0x800000000040000000000002c00001fc000000000000000000000080 u) (h : Keeps m u d0 d) :
    Keeps m u d0 (coldGauge d) := by
  unfold coldGauge
  repeat' first
    | with_reducible assumption | exact hm.sub (by decide) | exact hu.sub (by decide) | subst y
    | (extract_lets +onlyGivenNames y; first | (refine (fun _ => ?_) (?_ : Keeps m u d0 y); clear_value y) | subst y)
    | exact Or.inr (hm.bit (by decide)) | with_reducible exact Or.inl rfl | with_reducible exact Imp.refl _
    | with_reducible exact Or.inr rfl | with_reducible apply setFld_keeps fam_GAUGE_FCC_FCC
    | with_reducible apply setFlag_keeps fam_COLD_STATUS_LEARN_NOMINAL
    | with_reducible apply setFld_keeps fam_GAUGE_STATUS_ANCHOR
    | with_reducible apply setFlag_keeps fam_COLD_STATUS_GAUGE_UNANCHORED | with_reducible apply gaugeSums_keeps
    | simp only [keepsMk_iff] | with_reducible apply keeps_mk (hw := by with_reducible rfl)

theorem loseGauge_keeps {m u d0} {d} (hm : Within 134657 m) (hu : Within 0x7fffffffffffffffffffffffffffffffffffffffffffffffffffffffff u) (h : Keeps m u d0 d) :
    Keeps m u d0 (loseGauge d) := by
  unfold loseGauge
  repeat' first
    | with_reducible assumption | exact hm.sub (by decide) | exact hu.sub (by decide) | intro _ | subst y
    | (extract_lets +onlyGivenNames y; first | (refine (fun _ => ?_) (?_ : Keeps m u d0 y); clear_value y) | subst y)
    | exact Or.inr (hm.bit (by decide)) | with_reducible exact Or.inl rfl | with_reducible exact Imp.refl _
    | with_reducible exact Or.inr rfl | with_reducible apply setW_any | with_reducible apply coldGauge_keeps
    | with_reducible apply keeps_foldl | simp only [keepsMk_iff]
    | with_reducible apply keeps_mk (hw := by with_reducible rfl)

theorem setBk_keeps {m u d0} {x0 d} (hm : Within 1 m) (hu : Within 0x220000000000000000000000 u) (h : Keeps m u d0 d) :
    Keeps m u d0 (setBk x0 d) := by
  unfold setBk
  repeat' first
    | with_reducible assumption | exact hm.sub (by decide) | exact hu.sub (by decide) | subst y
    | (extract_lets +onlyGivenNames y; first | (refine (fun _ => ?_) (?_ : Keeps m u d0 y); clear_value y) | subst y)
    | with_reducible apply setFlag_keeps fam_BK_STATUS_INLIM
    | with_reducible apply setFlag_keeps fam_BK_STATUS_HOLD_PRIO
    | with_reducible apply setFld_keeps fam_CHG_IEFF_I_TARGET
    | with_reducible apply setFlag_keeps fam_BK_STATUS_BK_ILIM
    | with_reducible apply setFld_keeps fam_BK_STATUS_BK_STATE | with_reducible apply keeps_ite

theorem bkFollow_keeps {m u d0} {d} (hm : Within 1 m) (hu : Within 0x220000000000000000000000 u) (h : Keeps m u d0 d) :
    Keeps m u d0 (bkFollow d) := by
  unfold bkFollow
  repeat' first
    | with_reducible assumption | exact hm.sub (by decide) | exact hu.sub (by decide)
    | with_reducible apply setBk_keeps | with_reducible apply keeps_ite

theorem placeQ16_keeps {m u d0} {x0 x1 x2 d} (hm : Within 32768 m) (hu : Within 0x0 u) (h : Keeps m u d0 d) :
    Keeps m u d0 (placeQ16 x0 x1 x2 d) := by
  unfold placeQ16
  repeat' first
    | with_reducible assumption | exact hm.sub (by decide) | exact hu.sub (by decide)
    | (extract_lets +onlyGivenNames y; first | (refine (fun _ => ?_) (?_ : Keeps m u d0 y); clear_value y) | subst y)
    | exact Or.inr (hm.bit (by decide)) | with_reducible exact Or.inl rfl | with_reducible exact Imp.refl _
    | (with_reducible refine Imp.mk (fun _ _ hq => ?_); first | (simp at hq ⊢; done) | (simp at hq ⊢; simp [hq]; done))
    | with_reducible exact Or.inr rfl | with_reducible apply keeps_ite | simp only [keepsMk_iff]
    | with_reducible apply keeps_mk (hw := by with_reducible rfl)

theorem noteReject_keeps {m u d0} {x0 x1 x2 d} (hm : Within 1 m) (hu : Within 0x8000000000000000000000000000000000000000000 u) (h : Keeps m u d0 d) :
    Keeps m u d0 (noteReject x0 x1 x2 d) := by
  unfold noteReject
  repeat' first
    | with_reducible assumption | exact hm.sub (by decide) | exact hu.sub (by decide) | subst y
    | (extract_lets +onlyGivenNames y; first | (refine (fun _ => ?_) (?_ : Keeps m u d0 y); clear_value y) | subst y)
    | with_reducible apply setFld_keeps fam_VLY_LAST_PEER | with_reducible apply setFlag_keeps fam_VLY_LAST_SENT
    | with_reducible apply setFld_keeps fam_VLY_LAST_REASON | with_reducible apply setFld_keeps fam_VLY_LAST_CN

theorem sendReject_keeps {m u d0} {x0 x1 x2 x3 d} (hm : Within 32769 m) (hu : Within 0x8000000000000000000000000000000000000000000 u) (h : Keeps m u d0 d) :
    Keeps m u d0 (sendReject x0 x1 x2 x3 d) := by
  unfold sendReject
  repeat' first
    | with_reducible assumption | exact hm.sub (by decide) | exact hu.sub (by decide)
    | with_reducible apply placeQ16_keeps | with_reducible apply noteReject_keeps

theorem setRole_keeps {m u d0} {x0 d} (hm : Within 1 m) (hu : Within 0x800000000000000000000000000000000000000000 u) (h : Keeps m u d0 d) :
    Keeps m u d0 (setRole x0 d) := by
  unfold setRole
  repeat' first
    | with_reducible assumption | exact hm.sub (by decide) | exact hu.sub (by decide)
    | with_reducible apply setFld_keeps fam_VLY_STATUS_ROLE

theorem setSw_keeps {m u d0} {x0 d} (hm : Within 1 m) (hu : Within 0x800000000000000000000000000000000000000000 u) (h : Keeps m u d0 d) :
    Keeps m u d0 (setSw x0 d) := by
  unfold setSw
  repeat' first
    | with_reducible assumption | exact hm.sub (by decide) | exact hu.sub (by decide)
    | with_reducible apply setFld_keeps fam_VLY_STATUS_SW

theorem setAux_keeps {m u d0} {x0 d} (hm : Within 3585 m) (hu : Within 0x800000000040008000000002c0000000000000000000000000000000 u) (h : Keeps m u d0 d) :
    Keeps m u d0 (setAux x0 d) := by
  unfold setAux
  repeat' first
    | with_reducible assumption | exact hm.sub (by decide) | exact hu.sub (by decide)
    | with_reducible apply setFld_keeps fam_VLY_STATUS_AUX_MODE | with_reducible apply raise_keeps
    | with_reducible apply keeps_ite

theorem leaveStandbyBoost_keeps {m u d0} {d} (hm : Within 1 m) (hu : Within 0x220000000000000000000000 u) (h : Keeps m u d0 d) :
    Keeps m u d0 (leaveStandbyBoost d) := by
  unfold leaveStandbyBoost
  repeat' first
    | with_reducible assumption | exact hm.sub (by decide) | exact hu.sub (by decide)
    | with_reducible apply setBk_keeps | with_reducible apply keeps_ite

theorem standbyBoost_keeps {m u d0} {d} (hm : Within 1 m) (hu : Within 0x220000000000000000000000 u) (h : Keeps m u d0 d) :
    Keeps m u d0 (standbyBoost d) := by
  unfold standbyBoost
  repeat' first
    | with_reducible assumption | exact hm.sub (by decide) | exact hu.sub (by decide)
    | (extract_lets +onlyGivenNames y; first | (refine (fun _ => ?_) (?_ : Keeps m u d0 y); clear_value y) | subst y)
    | with_reducible apply setBk_keeps | with_reducible apply keeps_ite

theorem cancelSwap_keeps {m u d0} {d} (hm : Within 69121 m) (hu : Within 0x800000000040008000000002c00001ec220000000000000000000000 u) (h : Keeps m u d0 d) :
    Keeps m u d0 (cancelSwap d) := by
  unfold cancelSwap
  repeat' first
    | with_reducible assumption | exact hm.sub (by decide) | exact hu.sub (by decide) | subst y
    | (extract_lets +onlyGivenNames y; first | (refine (fun _ => ?_) (?_ : Keeps m u d0 y); clear_value y) | subst y)
    | exact Or.inr (hm.bit (by decide)) | with_reducible exact Or.inl rfl | with_reducible exact Imp.refl _
    | (with_reducible refine Imp.mk (fun _ _ hq => ?_); first | (simp at hq ⊢; done) | (simp at hq ⊢; simp [hq]; done))
    | with_reducible exact Or.inr rfl | with_reducible apply setFld_keeps fam_VLY_STATUS_SWAP
    | with_reducible apply setFlag_keeps fam_VLY_STATUS_STBY_DUTY | with_reducible apply gaugeSums_keeps
    | with_reducible apply setSw_keeps | with_reducible apply leaveStandbyBoost_keeps
    | with_reducible apply raise_keeps | with_reducible apply keeps_ite | simp only [keepsMk_iff]
    | with_reducible apply keeps_mk (hw := by with_reducible rfl) | split

theorem dropPart_keeps {m u d0} {d} (hm : Within 69121 m) (hu : Within 0x800000000040008000000002c00001ec220000000000000000000000 u) (h : Keeps m u d0 d) :
    Keeps m u d0 (dropPart d) := by
  unfold dropPart
  repeat' first
    | with_reducible assumption | exact hm.sub (by decide) | exact hu.sub (by decide) | subst y
    | (extract_lets +onlyGivenNames y; first | (refine (fun _ => ?_) (?_ : Keeps m u d0 y); clear_value y) | subst y)
    | exact Or.inr (hm.bit (by decide)) | with_reducible exact Or.inl rfl | with_reducible exact Imp.refl _
    | (with_reducible refine Imp.mk (fun _ _ hq => ?_); first | (simp at hq ⊢; done) | (simp at hq ⊢; simp [hq]; done))
    | with_reducible exact Or.inr rfl | with_reducible apply setFlag_keeps fam_VLY_STATUS_FS_ARMED
    | with_reducible apply setFlag_keeps fam_VLY_STATUS_STBY_DUTY | with_reducible apply setSw_keeps
    | with_reducible apply setRole_keeps | with_reducible apply cancelSwap_keeps | with_reducible apply setAux_keeps
    | with_reducible apply leaveStandbyBoost_keeps | with_reducible apply gaugeSums_keeps
    | with_reducible apply completeAll_keeps | with_reducible apply raise_keeps | with_reducible apply keeps_ite
    | simp only [keepsMk_iff] | with_reducible apply keeps_mk (hw := by with_reducible rfl)

theorem sourceLeaves_keeps {m u d0} {d} (hm : Within 32769 m) (hu : Within 0x8000000000000000000000000000000000000000000 u) (h : Keeps m u d0 d) :
    Keeps m u d0 (sourceLeaves d) := by
  unfold sourceLeaves
  repeat' first
    | with_reducible assumption | exact hm.sub (by decide) | exact hu.sub (by decide)
    | with_reducible apply sendReject_keeps | with_reducible apply keeps_ite

end Sys2Proof.Machine
end

