-- ==== Sys2Proof/Laws/KSeqOps.lean ====
section
/-! SUPPORT. Every operation of Machine/SeqOps.lean keeps what it does not change (Laws/Keeps.lean). -/

set_option linter.all false
set_option Elab.async false


namespace Sys2Proof.Machine

theorem linkOff_keeps {m u d0} {d} (hm : Within 32897 m) (hu : Within 0xc0c0000000000000000000000000000000000080 u) (h : Keeps m u d0 d) :
    Keeps m u d0 (linkOff d) := by
  unfold linkOff
  repeat' first
    | with_reducible assumption | exact hm.sub (by decide) | exact hu.sub (by decide) | subst y
    | (extract_lets +onlyGivenNames y; first | (refine (fun _ => ?_) (?_ : Keeps m u d0 y); clear_value y) | subst y)
    | exact Or.inr (hm.bit (by decide)) | with_reducible exact Or.inl rfl | with_reducible exact Imp.refl _
    | (with_reducible refine Imp.mk (fun _ _ hq => ?_); first | (simp at hq ⊢; done) | (simp at hq ⊢; simp [hq]; done))
    | with_reducible exact Or.inr rfl | with_reducible apply setW_keeps at_ROOF_MEMBERS
    | with_reducible apply setFld_keeps fam_ROOF_STATUS_EXCL_CAUSE
    | with_reducible apply setFlag_keeps fam_ROOF_STATUS_HOLD_IN_FORCE
    | with_reducible apply setFld_keeps fam_ROOF_STATUS_PART | with_reducible apply setFld_keeps fam_ROOF_STATUS_PHASE
    | with_reducible apply setFlag_keeps fam_COLD_STATUS_LINK_UNDISCIPLINED
    | with_reducible apply setW_keeps at_LNK_STATUS | with_reducible apply setW_keeps at_LNK_DELAY
    | with_reducible apply setFlag_keeps fam_LNK_STATUS_ADDR_CONFLICT | with_reducible apply keeps_ite
    | simp only [keepsMk_iff] | with_reducible apply keeps_mk (hw := by with_reducible rfl)

theorem loseTrace_keeps {m u d0} {d} (hm : Within 2097153 m) (hu : Within 0x400000000000000000000000000000000000000000000000 u) (h : Keeps m u d0 d) :
    Keeps m u d0 (loseTrace d) := by
  unfold loseTrace
  repeat' first
    | with_reducible assumption | exact hm.sub (by decide) | exact hu.sub (by decide) | subst y
    | (extract_lets +onlyGivenNames y; first | (refine (fun _ => ?_) (?_ : Keeps m u d0 y); clear_value y) | subst y)
    | exact Or.inr (hm.bit (by decide)) | with_reducible exact Or.inl rfl | with_reducible exact Imp.refl _
    | (with_reducible refine Imp.mk (fun q _ hq => ?_); have r := h.ok q; simp [partsOk_iff] at r hq ⊢; simp [r, hq]; done)
    | with_reducible exact Or.inr rfl | with_reducible apply setFld_keeps fam_TRC_STATUS_STATE
    | simp only [keepsMk_iff] | with_reducible apply keeps_mk (hw := by with_reducible rfl)

theorem fallAsleep_keeps {m u d0} {x0 d} (hm : Within 524289 m) (hu : Within 0x20000000000000000000000000000020000000000000000000000 u) (h : Keeps m u d0 d) :
    Keeps m u d0 (fallAsleep x0 d) := by
  unfold fallAsleep
  repeat' first
    | with_reducible assumption | exact hm.sub (by decide) | exact hu.sub (by decide) | subst y
    | (extract_lets +onlyGivenNames y; first | (refine (fun _ => ?_) (?_ : Keeps m u d0 y); clear_value y) | subst y)
    | exact Or.inr (hm.bit (by decide)) | with_reducible exact Or.inl rfl | with_reducible exact Imp.refl _
    | (rename_i a ha hb; with_reducible refine Imp.mk (fun q _ _ => ?_); have r := ha.ok q; simp [partsOk_iff] at r ⊢; simp [r]; done)
    | with_reducible exact Or.inr rfl | with_reducible apply setFlag_keeps fam_BK_STATUS_IDG_ON
    | with_reducible apply setFlag_keeps fam_CLK_STATUS_PLL_LOCKED | with_reducible apply keeps_ite
    | simp only [keepsMk_iff] | with_reducible apply keeps_mk (hw := by with_reducible rfl)

theorem enterMode_keeps {m u d0} {x0 d} (hm : Within 7049127 m) (hu : Within 0x7fffffffffffffffffffffffffffffffffffffffffffffffffffffffff u) (h : Keeps m u d0 d) :
    Keeps m u d0 (enterMode x0 d) := by
  unfold enterMode
  repeat' first
    | with_reducible assumption | exact hm.sub (by decide) | exact hu.sub (by decide) | subst y
    | (extract_lets +onlyGivenNames y; first | (refine (fun _ => ?_) (?_ : Keeps m u d0 y); clear_value y) | subst y)
    | with_reducible apply setFlag_keeps fam_ADC_STATUS_LOW_POWER | with_reducible apply leaveEase_keeps
    | with_reducible apply setMode_keeps | with_reducible apply loseTrace_keeps | with_reducible apply linkOff_keeps
    | with_reducible apply assertSso_keeps | with_reducible apply dropPart_keeps
    | with_reducible apply sourceLeaves_keeps | with_reducible apply checkpoint_keeps
    | with_reducible apply fallAsleep_keeps | with_reducible apply loseGauge_keeps
    | with_reducible apply bkFollow_keeps | with_reducible apply keeps_ite

theorem enterBoot_keeps {m u d0} {d} (hm : Within 7049127 m) (hu : Within 0x7fffffffffffffffffffffffffffffffffffffffffffffffffffffffff u) (h : Keeps m u d0 d) :
    Keeps m u d0 (enterBoot d) := by
  unfold enterBoot
  repeat' first
    | with_reducible assumption | exact hm.sub (by decide) | exact hu.sub (by decide) | subst y
    | (extract_lets +onlyGivenNames y; first | (refine (fun _ => ?_) (?_ : Keeps m u d0 y); clear_value y) | subst y)
    | exact Or.inr (hm.bit (by decide)) | with_reducible exact Or.inl rfl | with_reducible exact Imp.refl _
    | with_reducible exact Or.inr rfl | with_reducible apply setFld_keeps fam_SEQ_STATUS_SEQ_STATE
    | with_reducible apply setFld_keeps fam_MODE_STATUS_BOOT_STAGE | with_reducible apply enterMode_keeps
    | simp only [keepsMk_iff] | with_reducible apply keeps_mk (hw := by with_reducible rfl)

theorem goTo_keeps {m u d0} {x0 d} (hm : Within 7049127 m) (hu : Within 0x7fffffffffffffffffffffffffffffffffffffffffffffffffffffffff u) (h : Keeps m u d0 d) :
    Keeps m u d0 (goTo x0 d) := by
  unfold goTo
  repeat' first
    | with_reducible assumption | exact hm.sub (by decide) | exact hu.sub (by decide)
    | with_reducible apply enterBoot_keeps | with_reducible apply enterMode_keeps | with_reducible apply keeps_ite

theorem enterLatched_keeps {m u d0} {x0 x1 d} (hm : Within 7049127 m) (hu : Within 0x7fffffffffffffffffffffffffffffffffffffffffffffffffffffffff u) (h : Keeps m u d0 d) :
    Keeps m u d0 (enterLatched x0 x1 d) := by
  unfold enterLatched
  repeat' first
    | with_reducible assumption | exact hm.sub (by decide) | exact hu.sub (by decide) | subst y
    | (extract_lets +onlyGivenNames y; first | (refine (fun _ => ?_) (?_ : Keeps m u d0 y); clear_value y) | subst y)
    | exact Or.inr (hm.bit (by decide)) | with_reducible exact Or.inl rfl | with_reducible exact Imp.refl _
    | with_reducible exact Or.inr rfl | with_reducible apply setFld_keeps fam_SEQ_STATUS_SEQ_STATE
    | with_reducible apply setFlag_keeps fam_SEQ_STATUS_UP_PENDING
    | with_reducible apply setFld_keeps fam_MODE_STATUS_LATCH_CAUSE
    | with_reducible apply setFlag_keeps fam_MODE_STATUS_LATCH_HELD | with_reducible apply enterMode_keeps
    | simp only [keepsMk_iff] | with_reducible apply keeps_mk (hw := by with_reducible rfl)

theorem putT0_keeps {m u d0} {x0 d} (hm : Within 1 m) (hu : Within 0x200000 u) (h : Keeps m u d0 d) :
    Keeps m u d0 (putT0 x0 d) := by
  unfold putT0
  repeat' first
    | with_reducible assumption | exact hm.sub (by decide) | exact hu.sub (by decide)
    | with_reducible apply setW_keeps at_SEQ_T0 | with_reducible apply setW_keeps at_SEQ_T0_1

theorem fixT0_keeps {m u d0} {x0 d} (hm : Within 3713 m) (hu : Within 0x800000000040000000000002c0000000000000000000000000210000 u) (h : Keeps m u d0 d) :
    Keeps m u d0 (fixT0 x0 d) := by
  unfold fixT0
  repeat' first
    | with_reducible assumption | exact hm.sub (by decide) | exact hu.sub (by decide) | subst y
    | (extract_lets +onlyGivenNames y; first | (refine (fun _ => ?_) (?_ : Keeps m u d0 y); clear_value y) | subst y)
    | exact Or.inr (hm.bit (by decide)) | with_reducible exact Or.inl rfl | with_reducible exact Imp.refl _
    | with_reducible exact Or.inr rfl | with_reducible apply setFld_keeps fam_SEQ_STATUS_SEQ_STATE
    | with_reducible apply putT0_keeps | with_reducible apply completeAll_keeps | simp only [keepsMk_iff]
    | with_reducible apply keeps_mk (hw := by with_reducible rfl)

theorem tryStart_keeps {m u d0} {d} (hm : Within 3713 m) (hu : Within 0x800000000040000000000002c0000000000000000000000000210000 u) (h : Keeps m u d0 d) :
    Keeps m u d0 (tryStart d) := by
  unfold tryStart
  repeat' first
    | with_reducible assumption | exact hm.sub (by decide) | exact hu.sub (by decide)
    | with_reducible apply fixT0_keeps | with_reducible apply keeps_ite

theorem settleRun_keeps {m u d0} {d} (hm : Within 15437735 m) (hu : Within 0x7fffffffffffffffffffffffffffffffffffffffffffffffffffffffff u) (h : Keeps m u d0 d) :
    Keeps m u d0 (settleRun d) := by
  unfold settleRun
  repeat' first
    | with_reducible assumption | exact hm.sub (by decide) | exact hu.sub (by decide)
    | with_reducible apply gutter_keeps | with_reducible apply enterMode_keeps | with_reducible apply keeps_ite

theorem stopOrGate_keeps {m u d0} {x0 d} (hm : Within 3937 m) (hu : Within 0x800000000040000000000002c000000000000d884000000000020000 u) (h : Keeps m u d0 d) :
    Keeps m u d0 (stopOrGate x0 d) := by
  unfold stopOrGate
  repeat' first
    | with_reducible assumption | exact hm.sub (by decide) | exact hu.sub (by decide)
    | with_reducible apply beginStop_keeps | with_reducible apply setRstate_keeps | with_reducible apply modRail_keeps
    | with_reducible apply keeps_ite

theorem stepRail_keeps {m u d0} {d x1} (hm : Within 3937 m) (hu : Within 0x800000000040000000000002c000000000000d884000000000020000 u) (h : Keeps m u d0 d) :
    Keeps m u d0 (stepRail d x1) := by
  unfold stepRail
  repeat' first
    | with_reducible assumption | exact hm.sub (by decide) | exact hu.sub (by decide)
    | with_reducible apply modRail_keeps | with_reducible apply beginStop_keeps
    | with_reducible apply stopOrGate_keeps | with_reducible apply keeps_ite

theorem beginStep_keeps {m u d0} {x0 d} (hm : Within 4065 m) (hu : Within 0x800000000040000000000002c000000000000d884000000000020000 u) (h : Keeps m u d0 d) :
    Keeps m u d0 (beginStep x0 d) := by
  unfold beginStep
  repeat' first
    | with_reducible assumption | exact hm.sub (by decide) | exact hu.sub (by decide) | intro _ | subst y
    | (extract_lets +onlyGivenNames y; first | (refine (fun _ => ?_) (?_ : Keeps m u d0 y); clear_value y) | subst y)
    | exact Or.inr (hm.bit (by decide)) | with_reducible exact Or.inl rfl | with_reducible exact Imp.refl _
    | with_reducible exact Or.inr rfl | with_reducible apply stepRail_keeps | with_reducible apply keeps_foldl
    | simp only [keepsMk_iff] | with_reducible apply keeps_mk (hw := by with_reducible rfl) | split

theorem stopTests_keeps {m u d0} {d} (hm : Within 8392193 m) (hu : Within 0x800000000040000000000002c4000000000000000000000020000000 u) (h : Keeps m u d0 d) :
    Keeps m u d0 (stopTests d) := by
  unfold stopTests
  repeat' first
    | with_reducible assumption | exact hm.sub (by decide) | exact hu.sub (by decide) | subst y
    | (extract_lets +onlyGivenNames y; first | (refine (fun _ => ?_) (?_ : Keeps m u d0 y); clear_value y) | subst y)
    | with_reducible apply setFld_keeps fam_ADC_STATUS_CALIBRATING
    | with_reducible apply setFld_keeps fam_BG_STATUS_ST_ACTIVE | with_reducible apply endAborted_keeps
    | with_reducible apply keeps_ite | split

theorem endDescent_keeps {m u d0} {x0 d} (hm : Within 7049191 m) (hu : Within 0x7fffffffffffffffffffffffffffffffffffffffffffffffffffffffff u) (h : Keeps m u d0 d) :
    Keeps m u d0 (endDescent x0 d) := by
  unfold endDescent
  repeat' first
    | with_reducible assumption | exact hm.sub (by decide) | exact hu.sub (by decide) | intro _ | subst y
    | (extract_lets +onlyGivenNames y; first | (refine (fun _ => ?_) (?_ : Keeps m u d0 y); clear_value y) | subst y)
    | exact Or.inr (hm.bit (by decide)) | with_reducible exact Or.inl rfl | with_reducible exact Imp.refl _
    | with_reducible exact Or.inr rfl | with_reducible apply setFlag_keeps fam_SEQ_STATUS_UP_PENDING
    | with_reducible apply setFld_keeps fam_SEQ_STATUS_SEQ_STATE | with_reducible apply setRstate_keeps
    | with_reducible apply modRail_keeps | with_reducible apply completeAll_keeps
    | with_reducible apply enterLatched_keeps | with_reducible apply enterMode_keeps
    | with_reducible apply enterBoot_keeps | with_reducible apply goTo_keeps | with_reducible apply keeps_ite
    | with_reducible apply keeps_foldl | simp only [keepsMk_iff]
    | with_reducible apply keeps_mk (hw := by with_reducible rfl) | split

theorem descentProgress_keeps {m u d0} {d} (hm : Within 7049191 m) (hu : Within 0x7fffffffffffffffffffffffffffffffffffffffffffffffffffffffff u) (h : Keeps m u d0 d) :
    Keeps m u d0 (descentProgress d) := by
  unfold descentProgress
  repeat' first
    | with_reducible assumption | exact hm.sub (by decide) | exact hu.sub (by decide) | intro _ | subst y
    | (extract_lets +onlyGivenNames y; first | (refine (fun _ => ?_) (?_ : Keeps m u d0 y); clear_value y) | subst y)
    | with_reducible apply beginStop_keeps | with_reducible apply endDescent_keeps
    | with_reducible apply beginStep_keeps | with_reducible apply keeps_ite | with_reducible apply keeps_foldl | split

theorem joinDescent_keeps {m u d0} {x0 x1 d x3} (hm : Within 64 m) (hu : Within 0x0 u) (h : Keeps m u d0 d) :
    Keeps m u d0 (joinDescent x0 x1 d x3) := by
  unfold joinDescent
  repeat' first
    | with_reducible assumption | exact hm.sub (by decide) | exact hu.sub (by decide)
    | (extract_lets +onlyGivenNames y; first | (refine (fun _ => ?_) (?_ : Keeps m u d0 y); clear_value y) | subst y)
    | with_reducible apply modRail_keeps | with_reducible apply keeps_ite

theorem startDescentTo_keeps {m u d0} {x0 x1 x2 d} (hm : Within 7049191 m) (hu : Within 0x7fffffffffffffffffffffffffffffffffffffffffffffffffffffffff u) (h : Keeps m u d0 d) :
    Keeps m u d0 (startDescentTo x0 x1 x2 d) := by
  unfold startDescentTo
  repeat' first
    | with_reducible assumption | exact hm.sub (by decide) | exact hu.sub (by decide) | intro _ | subst y
    | (extract_lets +onlyGivenNames y; first | (refine (fun _ => ?_) (?_ : Keeps m u d0 y); clear_value y) | subst y)
    | exact Or.inr (hm.bit (by decide)) | with_reducible exact Or.inl rfl | with_reducible exact Imp.refl _
    | with_reducible exact Or.inr rfl | with_reducible apply setFlag_keeps fam_MODE_STATUS_HOLDUP_PENDING
    | with_reducible apply setFld_keeps fam_SEQ_STATUS_SEQ_STATE | with_reducible apply putT0_keeps
    | with_reducible apply setRstate_keeps | with_reducible apply joinDescent_keeps
    | with_reducible apply assertSso_keeps | with_reducible apply enterMode_keeps
    | with_reducible apply beginStop_keeps | with_reducible apply descentProgress_keeps
    | with_reducible apply keeps_ite | with_reducible apply keeps_foldl | simp only [keepsMk_iff]
    | with_reducible apply keeps_mk (hw := by with_reducible rfl)

theorem startDescent_keeps {m u d0} {x0 x1 d} (hm : Within 7049191 m) (hu : Within 0x7fffffffffffffffffffffffffffffffffffffffffffffffffffffffff u) (h : Keeps m u d0 d) :
    Keeps m u d0 (startDescent x0 x1 d) := by
  unfold startDescent
  repeat' first
    | with_reducible assumption | exact hm.sub (by decide) | exact hu.sub (by decide)
    | with_reducible apply startDescentTo_keeps

theorem recallRail_keeps {m u d0} {d x1} (hm : Within 65 m) (hu : Within 0x8000000000000020000 u) (h : Keeps m u d0 d) :
    Keeps m u d0 (recallRail d x1) := by
  unfold recallRail
  repeat' first
    | with_reducible assumption | exact hm.sub (by decide) | exact hu.sub (by decide) | subst y
    | (extract_lets +onlyGivenNames y; first | (refine (fun _ => ?_) (?_ : Keeps m u d0 y); clear_value y) | subst y)
    | with_reducible apply setFlag_keeps fam_GB_RSTATUS_INTERLOCK_WAIT | with_reducible apply modRail_keeps
    | with_reducible apply setRstate_keeps | with_reducible apply keeps_ite

theorem joinStep1_keeps {m u d0} {x0 d} (hm : Within 3937 m) (hu : Within 0x800000000040000000000002c000000000000d884000000000020000 u) (h : Keeps m u d0 d) :
    Keeps m u d0 (joinStep1 x0 d) := by
  unfold joinStep1
  repeat' first
    | with_reducible assumption | exact hm.sub (by decide) | exact hu.sub (by decide) | intro _
    | with_reducible apply stepRail_keeps | with_reducible apply modRail_keeps | with_reducible apply keeps_ite
    | with_reducible apply keeps_foldl

theorem faultDescent_keeps {m u d0} {x0 x1 x2 d} (hm : Within 15437799 m) (hu : Within 0x7fffffffffffffffffffffffffffffffffffffffffffffffffffffffff u) (h : Keeps m u d0 d) :
    Keeps m u d0 (faultDescent x0 x1 x2 d) := by
  unfold faultDescent
  repeat' first
    | with_reducible assumption | exact hm.sub (by decide) | exact hu.sub (by decide) | intro _ | subst y
    | (extract_lets +onlyGivenNames y; first | (refine (fun _ => ?_) (?_ : Keeps m u d0 y); clear_value y) | subst y)
    | exact Or.inr (hm.bit (by decide)) | with_reducible exact Or.inl rfl | with_reducible exact Imp.refl _
    | with_reducible exact Or.inr rfl | with_reducible apply setFlag_keeps fam_MODE_STATUS_HOLDUP_PENDING
    | with_reducible apply setFld_keeps fam_SEQ_STATUS_SEQ_STATE
    | with_reducible apply setFlag_keeps fam_SEQ_STATUS_UP_PENDING | with_reducible apply descentProgress_keeps
    | with_reducible apply joinStep1_keeps | with_reducible apply trigIf_keeps | with_reducible apply recallRail_keeps
    | with_reducible apply putT0_keeps | with_reducible apply setRstate_keeps | with_reducible apply modRail_keeps
    | with_reducible apply assertSso_keeps | with_reducible apply enterMode_keeps
    | with_reducible apply endDrill_keeps | with_reducible apply completeAll_keeps
    | with_reducible apply stopTests_keeps | with_reducible apply beginStep_keeps | with_reducible apply keeps_ite
    | with_reducible apply keeps_foldl | simp only [keepsMk_iff]
    | with_reducible apply keeps_mk (hw := by with_reducible rfl) | split

theorem afterLatch_keeps {m u d0} {d} (hm : Within 2099865 m) (hu : Within 0x4000000000000000000000000000000000000000000000 u) (h : Keeps m u d0 d) :
    Keeps m u d0 (afterLatch d) := by
  unfold afterLatch
  repeat' first
    | with_reducible assumption | exact hm.sub (by decide) | exact hu.sub (by decide) | subst y
    | (extract_lets +onlyGivenNames y; first | (refine (fun _ => ?_) (?_ : Keeps m u d0 y); clear_value y) | subst y)
    | exact Or.inr (hm.bit (by decide)) | with_reducible exact Or.inl rfl | with_reducible exact Imp.refl _
    | (with_reducible refine Imp.mk (fun _ _ hq => ?_); first | (simp at hq ⊢; done) | (simp at hq ⊢; simp [hq]; done))
    | with_reducible exact Or.inr rfl | with_reducible apply advanceTo_keeps | with_reducible apply keeps_ite
    | simp only [keepsMk_iff] | with_reducible apply keeps_mk (hw := by with_reducible rfl) | split

theorem loadFirst_keeps {m u d0} {x0 x1 d} (hm : Within 129 m) (hu : Within 0x1000000 u) (h : Keeps m u d0 d) :
    Keeps m u d0 (loadFirst x0 x1 d) := by
  unfold loadFirst
  repeat' first
    | with_reducible assumption | exact hm.sub (by decide) | exact hu.sub (by decide) | subst y
    | (extract_lets +onlyGivenNames y; first | (refine (fun _ => ?_) (?_ : Keeps m u d0 y); clear_value y) | subst y)
    | exact Or.inr (hm.bit (by decide)) | with_reducible exact Or.inl rfl | with_reducible exact Imp.refl _
    | with_reducible exact Or.inr rfl | with_reducible apply setFld_keeps fam_SUP_FIRST_RAIL
    | with_reducible apply setFld_keeps fam_SUP_FIRST_CAUSE | with_reducible apply setFlag_keeps fam_SUP_FIRST_VALID
    | with_reducible apply keeps_ite | simp only [keepsMk_iff]
    | with_reducible apply keeps_mk (hw := by with_reducible rfl)

theorem recordAction_keeps {m u d0} {x0 x1 d} (hm : Within 10489473 m) (hu : Within 0x8000000042c0000000000002c0000000000000800000000001000000 u) (h : Keeps m u d0 d) :
    Keeps m u d0 (recordAction x0 x1 d) := by
  unfold recordAction
  repeat' first
    | with_reducible assumption | exact hm.sub (by decide) | exact hu.sub (by decide) | subst y
    | (extract_lets +onlyGivenNames y; first | (refine (fun _ => ?_) (?_ : Keeps m u d0 y); clear_value y) | subst y)
    | with_reducible apply setFlag_keeps fam_SUP_STATUS_FAULT_LATCH | with_reducible apply loadFirst_keeps
    | with_reducible apply gutter_keeps | with_reducible apply trigIf_keeps

theorem supAct_keeps {m u d0} {x0 x1 x2 x3 d} (hm : Within 15441919 m) (hu : Within 0x7fffffffffffffffffffffffffffffffffffffffffffffffffffffffff u) (h : Keeps m u d0 d) :
    Keeps m u d0 (supAct x0 x1 x2 x3 d) := by
  unfold supAct
  repeat' first
    | with_reducible assumption | exact hm.sub (by decide) | exact hu.sub (by decide) | subst y
    | (extract_lets +onlyGivenNames y; first | (refine (fun _ => ?_) (?_ : Keeps m u d0 y); clear_value y) | subst y)
    | with_reducible apply gateRail_keeps | with_reducible apply recordAction_keeps
    | with_reducible apply insertUrgent_keeps | with_reducible apply faultDescent_keeps
    | with_reducible apply afterLatch_keeps | with_reducible apply completeAll_keeps
    | with_reducible apply descentProgress_keeps | with_reducible apply keeps_ite | split

theorem noPhaseLeft_keeps {m u d0} {x0 d} (hm : Within 15441919 m) (hu : Within 0x7fffffffffffffffffffffffffffffffffffffffffffffffffffffffff u) (h : Keeps m u d0 d) :
    Keeps m u d0 (noPhaseLeft x0 d) := by
  unfold noPhaseLeft
  repeat' first
    | with_reducible assumption | exact hm.sub (by decide) | exact hu.sub (by decide)
    | with_reducible apply supAct_keeps | with_reducible apply raise_keeps

theorem railFallen_keeps {m u d0} {x0 d} (hm : Within 7053287 m) (hu : Within 0x7fffffffffffffffffffffffffffffffffffffffffffffffffffffffff u) (h : Keeps m u d0 d) :
    Keeps m u d0 (railFallen x0 d) := by
  unfold railFallen
  repeat' first
    | with_reducible assumption | exact hm.sub (by decide) | exact hu.sub (by decide) | subst y
    | (extract_lets +onlyGivenNames y; first | (refine (fun _ => ?_) (?_ : Keeps m u d0 y); clear_value y) | subst y)
    | exact Or.inr (hm.bit (by decide)) | with_reducible exact Or.inl rfl | with_reducible exact Imp.refl _
    | with_reducible exact Or.inr rfl | with_reducible apply setRstate_keeps | with_reducible apply modRail_keeps
    | with_reducible apply endForced_keeps | with_reducible apply completeAll_keeps
    | with_reducible apply descentProgress_keeps | with_reducible apply keeps_ite | simp only [keepsMk_iff]
    | with_reducible apply keeps_mk (hw := by with_reducible rfl)

end Sys2Proof.Machine
end

