-- ==== Sys2Proof/Laws/KSettings.lean ====
section
/-! SUPPORT. Every operation of Machine/Settings.lean keeps what it does not change (Laws/Keeps.lean). -/

set_option linter.all false
set_option Elab.async false


namespace Sys2Proof.Machine


end Sys2Proof.Machine
end

