-- ==== Sys2Proof/Laws/KRtc.lean ====
section
/-! SUPPORT. Every operation of Machine/Rtc.lean keeps what it does not change (Laws/Keeps.lean). -/

set_option linter.all false
set_option Elab.async false


namespace Sys2Proof.Machine

theorem putDate_keeps {m u d0} {x0 x1 x2 d} (hm : Within 1 m) (hu : Within 0x800000000000000000000000000000000 u) (h : Keeps m u d0 d) :
    Keeps m u d0 (putDate x0 x1 x2 d) := by
  unfold putDate
  repeat' first
    | with_reducible assumption | exact hm.sub (by decide) | exact hu.sub (by decide)
    | with_reducible apply setW_keeps at_RTC_DATE

theorem putTime_keeps {m u d0} {x0 x1 x2 d} (hm : Within 1 m) (hu : Within 0x1000000000000000000000000000000000 u) (h : Keeps m u d0 d) :
    Keeps m u d0 (putTime x0 x1 x2 d) := by
  unfold putTime
  repeat' first
    | with_reducible assumption | exact hm.sub (by decide) | exact hu.sub (by decide)
    | with_reducible apply setW_keeps at_RTC_TIME

theorem nextDay_keeps {m u d0} {d} (hm : Within 1 m) (hu : Within 0x800000000000000000000000000000000 u) (h : Keeps m u d0 d) :
    Keeps m u d0 (nextDay d) := by
  unfold nextDay
  repeat' first
    | with_reducible assumption | exact hm.sub (by decide) | exact hu.sub (by decide)
    | (extract_lets +onlyGivenNames y; first | (refine (fun _ => ?_) (?_ : Keeps m u d0 y); clear_value y) | subst y)
    | with_reducible apply putDate_keeps | with_reducible apply keeps_ite

theorem secondTick_keeps {m u d0} {d} (hm : Within 1 m) (hu : Within 0x3800000000000000000000000000000000 u) (h : Keeps m u d0 d) :
    Keeps m u d0 (secondTick d) := by
  unfold secondTick
  repeat' first
    | with_reducible assumption | exact hm.sub (by decide) | exact hu.sub (by decide) | subst y
    | (extract_lets +onlyGivenNames y; first | (refine (fun _ => ?_) (?_ : Keeps m u d0 y); clear_value y) | subst y)
    | with_reducible apply setFld_keeps fam_RTC_SUBSEC_PRESC | with_reducible apply putTime_keeps
    | with_reducible apply nextDay_keeps | with_reducible apply keeps_ite

theorem opRtcSecond_keeps {m u d0} {d} (hm : Within 2621441 m) (hu : Within 0x3800000000000000000000000000000000 u) (h : Keeps m u d0 d) :
    Keeps m u d0 (opRtcSecond d) := by
  unfold opRtcSecond
  repeat' first
    | with_reducible assumption | exact hm.sub (by decide) | exact hu.sub (by decide)
    | (extract_lets +onlyGivenNames y; first | (refine (fun _ => ?_) (?_ : Keeps m u d0 y); clear_value y) | subst y)
    | exact Or.inr (hm.bit (by decide)) | with_reducible exact Or.inl rfl | with_reducible exact Imp.refl _
    | (with_reducible refine Imp.mk (fun _ _ hq => ?_); first | (simp at hq ⊢; done) | (simp at hq ⊢; simp [hq]; done))
    | with_reducible exact Or.inr rfl | with_reducible apply secondTick_keeps | with_reducible apply traceEntry_keeps
    | with_reducible apply keeps_ite | simp only [keepsMk_iff]
    | with_reducible apply keeps_mk (hw := by with_reducible rfl)

theorem landTime_keeps {m u d0} {x0 d} (hm : Within 1 m) (hu : Within 0x23000000000000000000000000000000000 u) (h : Keeps m u d0 d) :
    Keeps m u d0 (landTime x0 d) := by
  unfold landTime
  repeat' first
    | with_reducible assumption | exact hm.sub (by decide) | exact hu.sub (by decide) | subst y
    | (extract_lets +onlyGivenNames y; first | (refine (fun _ => ?_) (?_ : Keeps m u d0 y); clear_value y) | subst y)
    | with_reducible apply setFld_keeps fam_RTC_SUBSEC_PRESC
    | with_reducible apply setFlag_keeps fam_RTC_STATUS_TIME_VALID | with_reducible apply putTime_keeps

theorem landDate_keeps {m u d0} {x0 d} (hm : Within 1 m) (hu : Within 0x800000000000000000000000000000000 u) (h : Keeps m u d0 d) :
    Keeps m u d0 (landDate x0 d) := by
  unfold landDate
  repeat' first
    | with_reducible assumption | exact hm.sub (by decide) | exact hu.sub (by decide)
    | with_reducible apply putDate_keeps

theorem opRtcSet_keeps {m u d0} {x0 d} (hm : Within 3609 m) (hu : Within 0x80000000004000000000027ac0000000000000000000000000000000 u) (h : Keeps m u d0 d) :
    Keeps m u d0 (opRtcSet x0 d) := by
  unfold opRtcSet
  repeat' first
    | with_reducible assumption | exact hm.sub (by decide) | exact hu.sub (by decide) | intro _ | subst y
    | (extract_lets +onlyGivenNames y; first | (refine (fun _ => ?_) (?_ : Keeps m u d0 y); clear_value y) | subst y)
    | with_reducible apply setFlag_keeps fam_RTC_CTRL_HALT | with_reducible apply gated_keeps
    | with_reducible apply landTime_keeps | with_reducible apply landDate_keeps | with_reducible apply advanceTo_keeps
    | with_reducible apply complete_keeps

theorem opRtcGet_keeps {m u d0} {x0 d} (hm : Within 3585 m) (hu : Within 0x800000000040000000000002c0000000000000000000000000000000 u) (h : Keeps m u d0 d) :
    Keeps m u d0 (opRtcGet x0 d) := by
  unfold opRtcGet
  repeat' first
    | with_reducible assumption | exact hm.sub (by decide) | exact hu.sub (by decide) | intro _
    | with_reducible apply judged_keeps | with_reducible apply complete_keeps

theorem factoryLoad_keeps {m u d0} {d} (hm : Within 8388609 m) (hu : Within 0x10000000000000000000000000000000000 u) (h : Keeps m u d0 d) :
    Keeps m u d0 (factoryLoad d) := by
  unfold factoryLoad
  repeat' first
    | with_reducible assumption | exact hm.sub (by decide) | exact hu.sub (by decide)
    | (extract_lets +onlyGivenNames y; first | (refine (fun _ => ?_) (?_ : Keeps m u d0 y); clear_value y) | subst y)
    | with_reducible apply setFld_keeps fam_RTC_XTAL_CL_XIN | with_reducible apply setFld_keeps fam_RTC_XTAL_CL_XOUT
    | with_reducible apply drawn_keeps

theorem trimRun_keeps {m u d0} {x0 d} (hm : Within 8392217 m) (hu : Within 0x800000000040000000000382c0000000000000000000000020000080 u) (h : Keeps m u d0 d) :
    Keeps m u d0 (trimRun x0 d) := by
  unfold trimRun
  repeat' first
    | with_reducible assumption | exact hm.sub (by decide) | exact hu.sub (by decide) | intro _ | subst y
    | (extract_lets +onlyGivenNames y; first | (refine (fun _ => ?_) (?_ : Keeps m u d0 y); clear_value y) | subst y)
    | with_reducible apply setFlag_keeps fam_RTC_STATUS_TRIM_BUSY | with_reducible apply setFld_keeps fam_RTC_CAL_CAL
    | with_reducible apply setFld_keeps fam_RTC_STATUS_TRIM_SRC
    | with_reducible apply setFlag_keeps fam_COLD_STATUS_RTC_FACTORY_TRIM | with_reducible apply gated_keeps
    | with_reducible apply factoryLoad_keeps | with_reducible apply complete_keeps
    | with_reducible apply keepRunning_keeps | with_reducible apply bgBegin_keeps | with_reducible apply keeps_ite

theorem opRtcTrim_keeps {m u d0} {x0 d} (hm : Within 8392217 m) (hu : Within 0x800000000040000000000382c0000000000000000000000020000080 u) (h : Keeps m u d0 d) :
    Keeps m u d0 (opRtcTrim x0 d) := by
  unfold opRtcTrim
  repeat' first
    | with_reducible assumption | exact hm.sub (by decide) | exact hu.sub (by decide) | intro _
    | with_reducible apply trimRun_keeps | with_reducible apply served_keeps | with_reducible apply keeps_ite

theorem trimIdle_keeps {m u d0} {d} (hm : Within 1 m) (hu : Within 0x20000000000000000000000000000000000 u) (h : Keeps m u d0 d) :
    Keeps m u d0 (trimIdle d) := by
  unfold trimIdle
  repeat' first
    | with_reducible assumption | exact hm.sub (by decide) | exact hu.sub (by decide)
    | with_reducible apply setFlag_keeps fam_RTC_STATUS_TRIM_BUSY

theorem endTrim_keeps {m u d0} {x0 x1 x2 d} (hm : Within 3585 m) (hu : Within 0x800000000040000000000202c0000000000000000000000000000000 u) (h : Keeps m u d0 d) :
    Keeps m u d0 (endTrim x0 x1 x2 d) := by
  unfold endTrim
  repeat' first
    | with_reducible assumption | exact hm.sub (by decide) | exact hu.sub (by decide)
    | with_reducible apply trimIdle_keeps | with_reducible apply complete_keeps | split

theorem opTrimDone_keeps {m u d0} {x0 d} (hm : Within 8408601 m) (hu : Within 0x800000000040000000000282c0000000000000000000000020000080 u) (h : Keeps m u d0 d) :
    Keeps m u d0 (opTrimDone x0 d) := by
  unfold opTrimDone
  repeat' first
    | with_reducible assumption | exact hm.sub (by decide) | exact hu.sub (by decide)
    | with_reducible apply setFld_keeps fam_RTC_STATUS_TRIM_SRC
    | with_reducible apply setFlag_keeps fam_COLD_STATUS_RTC_FACTORY_TRIM
    | with_reducible apply setFld_keeps fam_RTC_CAL_CAL | with_reducible apply bgRan_keeps
    | with_reducible apply advanceTo_keeps | with_reducible apply drawn_keeps | with_reducible apply endTrim_keeps
    | with_reducible apply raise_keeps | with_reducible apply keeps_ite | simp only [keepsMk_iff] | split

theorem opTrimTimeout_keeps {m u d0} {d} (hm : Within 3609 m) (hu : Within 0x800000000040000000000202c0000000000000000000000000000000 u) (h : Keeps m u d0 d) :
    Keeps m u d0 (opTrimTimeout d) := by
  unfold opTrimTimeout
  repeat' first
    | with_reducible assumption | exact hm.sub (by decide) | exact hu.sub (by decide)
    | with_reducible apply endTrim_keeps | with_reducible apply advanceTo_keeps | split

theorem endTrims_keeps {m u d0} {x0 d} (hm : Within 3585 m) (hu : Within 0x800000000040000000000202c0000000000000000000000000000000 u) (h : Keeps m u d0 d) :
    Keeps m u d0 (endTrims x0 d) := by
  unfold endTrims
  repeat' first
    | with_reducible assumption | exact hm.sub (by decide) | exact hu.sub (by decide) | intro _
    | with_reducible apply trimIdle_keeps | with_reducible apply complete_keeps | with_reducible apply keeps_foldl

theorem opRtcCalCycle_keeps {m u d0} {d} (hm : Within 524288 m) (hu : Within 0x0 u) (h : Keeps m u d0 d) :
    Keeps m u d0 (opRtcCalCycle d) := by
  unfold opRtcCalCycle
  repeat' first
    | with_reducible assumption | exact hm.sub (by decide) | exact hu.sub (by decide)
    | (extract_lets +onlyGivenNames y; first | (refine (fun _ => ?_) (?_ : Keeps m u d0 y); clear_value y) | subst y)
    | exact Or.inr (hm.bit (by decide)) | with_reducible exact Or.inl rfl | with_reducible exact Imp.refl _
    | (with_reducible refine Imp.mk (fun _ _ hq => ?_); first | (simp at hq ⊢; done) | (simp at hq ⊢; simp [hq]; done))
    | with_reducible exact Or.inr rfl | simp only [keepsMk_iff]
    | with_reducible apply keeps_mk (hw := by with_reducible rfl)

theorem opOscFail_keeps {m u d0} {d} (hm : Within 3585 m) (hu : Within 0x800000000040000000000202c0000000000000000000000000000000 u) (h : Keeps m u d0 d) :
    Keeps m u d0 (opOscFail d) := by
  unfold opOscFail
  repeat' first
    | with_reducible assumption | exact hm.sub (by decide) | exact hu.sub (by decide) | subst y
    | (extract_lets +onlyGivenNames y; first | (refine (fun _ => ?_) (?_ : Keeps m u d0 y); clear_value y) | subst y)
    | with_reducible apply setFlag_keeps fam_RTC_STATUS_OSC_FAIL
    | with_reducible apply setFlag_keeps fam_RTC_STATUS_TIME_VALID | with_reducible apply endTrims_keeps
    | with_reducible apply raise_keeps | with_reducible apply keeps_ite

theorem opBkSupplySwitch_keeps {m u d0} {d} (hm : Within 2625025 m) (hu : Within 0x800000000040000000000202c0000000000000000000000000000000 u) (h : Keeps m u d0 d) :
    Keeps m u d0 (opBkSupplySwitch d) := by
  unfold opBkSupplySwitch
  repeat' first
    | with_reducible assumption | exact hm.sub (by decide) | exact hu.sub (by decide)
    | (extract_lets +onlyGivenNames y; first | (refine (fun _ => ?_) (?_ : Keeps m u d0 y); clear_value y) | subst y)
    | exact Or.inr (hm.bit (by decide)) | with_reducible exact Or.inl rfl | with_reducible exact Imp.refl _
    | (with_reducible refine Imp.mk (fun _ _ hq => ?_); first | (simp at hq ⊢; done) | (simp at hq ⊢; simp [hq]; done))
    | with_reducible exact Or.inr rfl | with_reducible apply endTrims_keeps | with_reducible apply traceEntry_keeps
    | simp only [keepsMk_iff] | with_reducible apply keeps_mk (hw := by with_reducible rfl)

theorem opSupplyReturn_keeps {m u d0} {d} (hm : Within 524288 m) (hu : Within 0x0 u) (h : Keeps m u d0 d) :
    Keeps m u d0 (opSupplyReturn d) := by
  unfold opSupplyReturn
  repeat' first
    | with_reducible assumption | exact hm.sub (by decide) | exact hu.sub (by decide)
    | (extract_lets +onlyGivenNames y; first | (refine (fun _ => ?_) (?_ : Keeps m u d0 y); clear_value y) | subst y)
    | exact Or.inr (hm.bit (by decide)) | with_reducible exact Or.inl rfl | with_reducible exact Imp.refl _
    | (with_reducible refine Imp.mk (fun _ _ hq => ?_); first | (simp at hq ⊢; done) | (simp at hq ⊢; simp [hq]; done))
    | with_reducible exact Or.inr rfl | simp only [keepsMk_iff]
    | with_reducible apply keeps_mk (hw := by with_reducible rfl)

theorem opBkReturn_keeps {m u d0} {d} (hm : Within 2625025 m) (hu : Within 0x800000000040000000000002c0000000000000000000000000000000 u) (h : Keeps m u d0 d) :
    Keeps m u d0 (opBkReturn d) := by
  unfold opBkReturn
  repeat' first
    | with_reducible assumption | exact hm.sub (by decide) | exact hu.sub (by decide)
    | (extract_lets +onlyGivenNames y; first | (refine (fun _ => ?_) (?_ : Keeps m u d0 y); clear_value y) | subst y)
    | exact Or.inr (hm.bit (by decide)) | with_reducible exact Or.inl rfl | with_reducible exact Imp.refl _
    | (with_reducible refine Imp.mk (fun _ _ hq => ?_); first | (simp at hq ⊢; done) | (simp at hq ⊢; simp [hq]; done))
    | with_reducible exact Or.inr rfl | with_reducible apply raise_keeps | with_reducible apply traceEntry_keeps
    | with_reducible apply keeps_ite | simp only [keepsMk_iff]
    | with_reducible apply keeps_mk (hw := by with_reducible rfl)

end Sys2Proof.Machine
end

