-- ==== Sys2Proof/Laws/KEvents.lean ====
section
/-! SUPPORT. Every operation of Machine/Events.lean keeps what it does not change (Laws/Keeps.lean). -/

set_option linter.all false
set_option Elab.async false


namespace Sys2Proof.Machine

theorem readFpend_keeps {m u d0} {d} (hm : Within 512 m) (hu : Within 0x0 u) (h : Keeps m u d0 d) :
    Keeps m u d0 (readFpend d) := by
  unfold readFpend
  repeat' first
    | with_reducible assumption | exact hm.sub (by decide) | exact hu.sub (by decide)
    | (extract_lets +onlyGivenNames y; first | (refine (fun _ => ?_) (?_ : Keeps m u d0 y); clear_value y) | subst y)
    | exact Or.inr (hm.bit (by decide)) | with_reducible exact Or.inl rfl | with_reducible exact Imp.refl _
    | (with_reducible refine Imp.mk (fun _ _ hq => ?_); first | (simp at hq ⊢; done) | (simp at hq ⊢; simp [hq]; done))
    | with_reducible exact Or.inr rfl | simp only [keepsMk_iff]
    | with_reducible apply keeps_mk (hw := by with_reducible rfl) | split

theorem resample_keeps {m u d0} {d x1} (hm : Within 3585 m) (hu : Within 0x800000000040000000000002c0000000000000000000000000000000 u) (h : Keeps m u d0 d) :
    Keeps m u d0 (resample d x1) := by
  unfold resample
  repeat' first
    | with_reducible assumption | exact hm.sub (by decide) | exact hu.sub (by decide)
    | with_reducible apply settle_keeps | with_reducible apply latchOne_keeps | with_reducible apply keeps_ite

theorem ackSources_keeps {m u d0} {x0 x1 x2 d} (hm : Within 3585 m) (hu : Within 0x800000000040000000000002c0000000000000000000000000000000 u) (h : Keeps m u d0 d) :
    Keeps m u d0 (ackSources x0 x1 x2 d) := by
  unfold ackSources
  repeat' first
    | with_reducible assumption | exact hm.sub (by decide) | exact hu.sub (by decide) | intro _ | subst y
    | (extract_lets +onlyGivenNames y; first | (refine (fun _ => ?_) (?_ : Keeps m u d0 y); clear_value y) | subst y)
    | with_reducible apply putWord_keeps fam_EVT_PEND_N_PEND | with_reducible apply putWord_keeps fam_EVT_PEND_F_PEND
    | with_reducible apply laterCycle_keeps | with_reducible apply resample_keeps | with_reducible apply keeps_ite
    | with_reducible apply keeps_foldl

theorem countDelivery_keeps {m u d0} {d x1} (hm : Within 2561 m) (hu : Within 0x4000000000000000000000000000000000000000000000 u) (h : Keeps m u d0 d) :
    Keeps m u d0 (countDelivery d x1) := by
  unfold countDelivery
  repeat' first
    | with_reducible assumption | exact hm.sub (by decide) | exact hu.sub (by decide)
    | with_reducible apply count_keeps

theorem deliverBacklog_keeps {m u d0} {d} (hm : Within 3585 m) (hu : Within 0x800000000040000000000002c0000000000000000000000000000000 u) (h : Keeps m u d0 d) :
    Keeps m u d0 (deliverBacklog d) := by
  unfold deliverBacklog
  repeat' first
    | with_reducible assumption | exact hm.sub (by decide) | exact hu.sub (by decide) | intro _ | subst y
    | (extract_lets +onlyGivenNames y; first | (refine (fun _ => ?_) (?_ : Keeps m u d0 y); clear_value y) | subst y)
    | with_reducible apply deliver_keeps | with_reducible apply countDelivery_keeps
    | with_reducible apply settle_keeps | with_reducible apply setGrpRec_keeps | with_reducible apply keeps_foldl

theorem putGdis_keeps {m u d0} {x0 d} (hm : Within 3585 m) (hu : Within 0x800000000040000000000003c0000000000000000000000000000000 u) (h : Keeps m u d0 d) :
    Keeps m u d0 (putGdis x0 d) := by
  unfold putGdis
  repeat' first
    | with_reducible assumption | exact hm.sub (by decide) | exact hu.sub (by decide) | subst y
    | (extract_lets +onlyGivenNames y; first | (refine (fun _ => ?_) (?_ : Keeps m u d0 y); clear_value y) | subst y)
    | with_reducible apply setFlag_keeps fam_EVT_CTRL_GDIS | with_reducible apply laterCycle_keeps
    | with_reducible apply deliverBacklog_keeps | with_reducible apply keeps_ite

theorem recheckGroup_keeps {m u d0} {x0 d} (hm : Within 3585 m) (hu : Within 0x800000000040000000000002c0000000000000000000000000000000 u) (h : Keeps m u d0 d) :
    Keeps m u d0 (recheckGroup x0 d) := by
  unfold recheckGroup
  repeat' first
    | with_reducible assumption | exact hm.sub (by decide) | exact hu.sub (by decide)
    | with_reducible apply settle_keeps | with_reducible apply deliverGroup_keeps
    | with_reducible apply countDelivery_keeps | with_reducible apply keeps_ite

theorem enabledNow_keeps {m u d0} {x0 x1 x2 d} (hm : Within 3585 m) (hu : Within 0x800000000040000000000002c0000000000000000000000000000000 u) (h : Keeps m u d0 d) :
    Keeps m u d0 (enabledNow x0 x1 x2 d) := by
  unfold enabledNow
  repeat' first
    | with_reducible assumption | exact hm.sub (by decide) | exact hu.sub (by decide) | intro _
    | with_reducible apply raise_keeps | with_reducible apply keeps_ite | with_reducible apply keeps_foldl

theorem opEvtAck_keeps {m u d0} {x0 d} (hm : Within 3585 m) (hu : Within 0x800000000040000000000002c0000000000000000000000000000000 u) (h : Keeps m u d0 d) :
    Keeps m u d0 (opEvtAck x0 d) := by
  unfold opEvtAck
  repeat' first
    | with_reducible assumption | exact hm.sub (by decide) | exact hu.sub (by decide) | intro _ | subst y
    | (extract_lets +onlyGivenNames y; first | (refine (fun _ => ?_) (?_ : Keeps m u d0 y); clear_value y) | subst y)
    | with_reducible apply judged_keeps | with_reducible apply ackSources_keeps | with_reducible apply complete_keeps

theorem opEvtGdis_keeps {m u d0} {x0 d} (hm : Within 3585 m) (hu : Within 0x800000000040000000000003c0000000000000000000000000000000 u) (h : Keeps m u d0 d) :
    Keeps m u d0 (opEvtGdis x0 d) := by
  unfold opEvtGdis
  repeat' first
    | with_reducible assumption | exact hm.sub (by decide) | exact hu.sub (by decide) | intro _
    | (extract_lets +onlyGivenNames y; first | (refine (fun _ => ?_) (?_ : Keeps m u d0 y); clear_value y) | subst y)
    | with_reducible apply judged_keeps | with_reducible apply complete_keeps | with_reducible apply putGdis_keeps

theorem opCoalesceTimeout_keeps {m u d0} {x0 d} (hm : Within 3609 m) (hu : Within 0x800000000040000000000002c0000000000000000000000000000000 u) (h : Keeps m u d0 d) :
    Keeps m u d0 (opCoalesceTimeout x0 d) := by
  unfold opCoalesceTimeout
  repeat' first
    | with_reducible assumption | exact hm.sub (by decide) | exact hu.sub (by decide) | subst y
    | (extract_lets +onlyGivenNames y; first | (refine (fun _ => ?_) (?_ : Keeps m u d0 y); clear_value y) | subst y)
    | with_reducible apply advanceTo_keeps | with_reducible apply settle_keeps
    | with_reducible apply deliverGroup_keeps | with_reducible apply countDelivery_keeps
    | with_reducible apply keeps_ite

theorem opFack_keeps {m u d0} {x0 d} (hm : Within 3585 m) (hu : Within 0x800000000040000000000002c0000000000000000000000000000000 u) (h : Keeps m u d0 d) :
    Keeps m u d0 (opFack x0 d) := by
  unfold opFack
  repeat' first
    | with_reducible assumption | exact hm.sub (by decide) | exact hu.sub (by decide)
    | with_reducible apply ackSources_keeps

end Sys2Proof.Machine
end

