-- ==== Sys2Proof/Laws/KSpi.lean ====
section
/-! SUPPORT. Every operation of Machine/Spi.lean keeps what it does not change (Laws/Keeps.lean). -/

set_option linter.all false
set_option Elab.async false


namespace Sys2Proof.Machine

theorem spiAccept_keeps {m u d0} {x0 d} (hm : Within 3585 m) (hu : Within 0x800000000040000000000002c0000000000000000000000000000000 u) (h : Keeps m u d0 d) :
    Keeps m u d0 (spiAccept x0 d) := by
  unfold spiAccept
  repeat' first
    | with_reducible assumption | exact hm.sub (by decide) | exact hu.sub (by decide)
    | (extract_lets +onlyGivenNames y; first | (refine (fun _ => ?_) (?_ : Keeps m u d0 y); clear_value y) | subst y)
    | exact Or.inr (hm.bit (by decide)) | with_reducible exact Or.inl rfl | with_reducible exact Imp.refl _
    | (with_reducible refine Imp.mk (fun _ _ hq => ?_); first | (simp at hq ⊢; done) | (simp at hq ⊢; simp [hq]; done))
    | with_reducible exact Or.inr rfl | with_reducible apply settle_keeps | with_reducible apply count_keeps
    | simp only [keepsMk_iff] | with_reducible apply keeps_mk (hw := by with_reducible rfl)

theorem spiReject_keeps {m u d0} {x0 x1 x2 d} (hm : Within 3585 m) (hu : Within 0x800000000040200000000002c0000000000000000000000000000000 u) (h : Keeps m u d0 d) :
    Keeps m u d0 (spiReject x0 x1 x2 d) := by
  unfold spiReject
  repeat' first
    | with_reducible assumption | exact hm.sub (by decide) | exact hu.sub (by decide) | subst y
    | (extract_lets +onlyGivenNames y; first | (refine (fun _ => ?_) (?_ : Keeps m u d0 y); clear_value y) | subst y)
    | exact Or.inr (hm.bit (by decide)) | with_reducible exact Or.inl rfl | with_reducible exact Imp.refl _
    | (with_reducible refine Imp.mk (fun _ _ hq => ?_); first | (simp at hq ⊢; done) | (simp at hq ⊢; simp [hq]; done))
    | with_reducible exact Or.inr rfl | with_reducible apply addSat_keeps fam_ENG_SPI_CNT_CRC_ERR
    | with_reducible apply addSat_keeps fam_ENG_SPI_CNT_REJECTED | with_reducible apply count_keeps
    | with_reducible apply raise_keeps | with_reducible apply keeps_ite | simp only [keepsMk_iff]
    | with_reducible apply keeps_mk (hw := by with_reducible rfl)

theorem opHostRead_keeps {m u d0} {x0 d} (hm : Within 3585 m) (hu : Within 0x800000000040200000000002c0000000000000000000000000000000 u) (h : Keeps m u d0 d) :
    Keeps m u d0 (opHostRead x0 d) := by
  unfold opHostRead
  repeat' first
    | with_reducible assumption | exact hm.sub (by decide) | exact hu.sub (by decide) | subst y
    | (extract_lets +onlyGivenNames y; first | (refine (fun _ => ?_) (?_ : Keeps m u d0 y); clear_value y) | subst y)
    | with_reducible apply spiReject_keeps | with_reducible apply readFpend_keeps
    | with_reducible apply spiAccept_keeps | with_reducible apply keeps_ite

theorem putRd_keeps {m u d0} {q r d} (hm : Within 1024 m) (hu : Within 0x0 u) (h : Keeps m u d0 d) : Keeps m u d0 (putRd q r d) := by
  unfold putRd
  refine setRing_keeps (hm.sub (by decide)) (hu.sub (by decide)) h ?_
  by_cases hq : q = 12
  · exact .inr (.inr ⟨[], by simp [hq], by simp⟩)
  · exact .inl hq

theorem opDoorbell_keeps {m u d0} {x0 d} (hm : Within 1024 m) (hu : Within 0x0 u) (h : Keeps m u d0 d) :
    Keeps m u d0 (opDoorbell x0 d) := by
  unfold opDoorbell
  repeat' first
    | with_reducible assumption | exact hm.sub (by decide) | exact hu.sub (by decide) | intro _
    | with_reducible apply releaseQueue_keeps | with_reducible apply keeps_foldl

theorem opSqMode_keeps {m u d0} {x0 d} (hm : Within 1025 m) (hu : Within 0x8000000000000000000000000000000000000000000000000000000 u) (h : Keeps m u d0 d) :
    Keeps m u d0 (opSqMode x0 d) := by
  unfold opSqMode
  repeat' first
    | with_reducible assumption | exact hm.sub (by decide) | exact hu.sub (by decide) | intro _ | subst y
    | (extract_lets +onlyGivenNames y; first | (refine (fun _ => ?_) (?_ : Keeps m u d0 y); clear_value y) | subst y)
    | with_reducible apply setFld_keeps fam_HP_SQ_MODE_STAGE_Q | with_reducible apply releaseQueue_keeps
    | with_reducible apply keeps_foldl

theorem hostWrite_keeps {m u d0} {x0 x1 d} (hm : Within 2100737 m) (hu : Within 0x880000000040000000000002c0000000000000000000000000000000 u) (h : Keeps m u d0 d) :
    Keeps m u d0 (hostWrite x0 x1 d) := by
  unfold hostWrite
  repeat' first
    | with_reducible assumption | exact hm.sub (by decide) | exact hu.sub (by decide) | subst y
    | (extract_lets +onlyGivenNames y; first | (refine (fun _ => ?_) (?_ : Keeps m u d0 y); clear_value y) | subst y)
    | with_reducible apply setFld_keeps fam_HP_RING_OVF_OVF | with_reducible apply traceWrite_keeps
    | with_reducible apply opDoorbell_keeps | with_reducible apply opSqMode_keeps | with_reducible apply putRd_keeps
    | with_reducible apply opFack_keeps | with_reducible apply keeps_ite

theorem hostWrites_keeps {m u d0} {a vs d} (hm : Within 2100737 m) (hu : Within 0x880000000040000000000002c0000000000000000000000000000000 u) (h : Keeps m u d0 d) : Keeps m u d0 (hostWrites a vs d) := by
  induction vs generalizing a d with
  | nil => exact h
  | cons v t ih => exact ih (hostWrite_keeps (hm.sub (by decide)) (hu.sub (by decide)) h)

theorem opHostWrite_keeps {m u d0} {x0 d} (hm : Within 2100737 m) (hu : Within 0x880000000040200000000002c0000000000000000000000000000000 u) (h : Keeps m u d0 d) :
    Keeps m u d0 (opHostWrite x0 d) := by
  unfold opHostWrite
  repeat' first
    | with_reducible assumption | exact hm.sub (by decide) | exact hu.sub (by decide)
    | (extract_lets +onlyGivenNames y; first | (refine (fun _ => ?_) (?_ : Keeps m u d0 y); clear_value y) | subst y)
    | with_reducible apply spiReject_keeps | with_reducible apply spiAccept_keeps
    | with_reducible apply hostWrites_keeps | with_reducible apply keeps_ite | split

theorem opPush_keeps {m u d0} {x0 d} (hm : Within 2100737 m) (hu : Within 0x800000000040200000000002c0000000000000000000000000000000 u) (h : Keeps m u d0 d) :
    Keeps m u d0 (opPush x0 d) := by
  unfold opPush
  repeat' first
    | with_reducible assumption | exact hm.sub (by decide) | exact hu.sub (by decide) | subst y
    | (extract_lets +onlyGivenNames y; first | (refine (fun _ => ?_) (?_ : Keeps m u d0 y); clear_value y) | subst y)
    | with_reducible apply spiReject_keeps | with_reducible apply traceEntry_keeps
    | with_reducible apply spiAccept_keeps | with_reducible apply enqueue_keeps | with_reducible apply keeps_ite
    | split

theorem opPop_keeps {m u d0} {x0 d} (hm : Within 3585 m) (hu : Within 0x80800000000040200000000002c0000000000000000000000000000000 u) (h : Keeps m u d0 d) :
    Keeps m u d0 (opPop x0 d) := by
  unfold opPop
  repeat' first
    | with_reducible assumption | exact hm.sub (by decide) | exact hu.sub (by decide) | subst y
    | (extract_lets +onlyGivenNames y; first | (refine (fun _ => ?_) (?_ : Keeps m u d0 y); clear_value y) | subst y)
    | exact Or.inr (Or.inl (hu.bit (by decide))) | with_reducible apply spiReject_keeps
    | with_reducible apply noteFull_keeps | with_reducible apply setRing_keeps | with_reducible apply settle_keeps
    | with_reducible apply count_keeps | with_reducible apply spiAccept_keeps | with_reducible apply keeps_ite

end Sys2Proof.Machine
end

