-- ==== Sys2Proof/Laws/KSequencing.lean ====
section
/-! SUPPORT. Every operation of Machine/Sequencing.lean keeps what it does not change (Laws/Keeps.lean). -/

set_option linter.all false
set_option Elab.async false


namespace Sys2Proof.Machine

theorem descendNow_keeps {m u d0} {x0 d} (hm : Within 7049215 m) (hu : Within 0x7fffffffffffffffffffffffffffffffffffffffffffffffffffffffff u) (h : Keeps m u d0 d) :
    Keeps m u d0 (descendNow x0 d) := by
  unfold descendNow
  repeat' first
    | with_reducible assumption | exact hm.sub (by decide) | exact hu.sub (by decide) | subst y
    | (extract_lets +onlyGivenNames y; first | (refine (fun _ => ?_) (?_ : Keeps m u d0 y); clear_value y) | subst y)
    | with_reducible apply advanceTo_keeps | with_reducible apply insertUrgent_keeps
    | with_reducible apply startDescent_keeps | with_reducible apply keeps_ite

theorem judgeHoldup_keeps {m u d0} {d} (hm : Within 7049215 m) (hu : Within 0x7fffffffffffffffffffffffffffffffffffffffffffffffffffffffff u) (h : Keeps m u d0 d) :
    Keeps m u d0 (judgeHoldup d) := by
  unfold judgeHoldup
  repeat' first
    | with_reducible assumption | exact hm.sub (by decide) | exact hu.sub (by decide)
    | with_reducible apply descendNow_keeps | with_reducible apply keeps_ite

theorem settleMode_keeps {m u d0} {d} (hm : Within 15437823 m) (hu : Within 0x7fffffffffffffffffffffffffffffffffffffffffffffffffffffffff u) (h : Keeps m u d0 d) :
    Keeps m u d0 (settleMode d) := by
  unfold settleMode
  repeat' first
    | with_reducible assumption | exact hm.sub (by decide) | exact hu.sub (by decide)
    | with_reducible apply judgeHoldup_keeps | with_reducible apply settleRun_keeps

theorem rampComplete_keeps {m u d0} {d} (hm : Within 15437823 m) (hu : Within 0x7fffffffffffffffffffffffffffffffffffffffffffffffffffffffff u) (h : Keeps m u d0 d) :
    Keeps m u d0 (rampComplete d) := by
  unfold rampComplete
  repeat' first
    | with_reducible assumption | exact hm.sub (by decide) | exact hu.sub (by decide) | intro _ | subst y
    | (extract_lets +onlyGivenNames y; first | (refine (fun _ => ?_) (?_ : Keeps m u d0 y); clear_value y) | subst y)
    | exact Or.inr (hm.bit (by decide)) | with_reducible exact Or.inl rfl | with_reducible exact Imp.refl _
    | with_reducible exact Or.inr rfl | with_reducible apply setFlag_keeps fam_MODE_STATUS_HOLDUP_PENDING
    | with_reducible apply setFld_keeps fam_SEQ_STATUS_SEQ_STATE | with_reducible apply setRstate_keeps
    | with_reducible apply settleMode_keeps | with_reducible apply enterMode_keeps
    | with_reducible apply completeAll_keeps | with_reducible apply keeps_ite | with_reducible apply keeps_foldl
    | simp only [keepsMk_iff] | with_reducible apply keeps_mk (hw := by with_reducible rfl)

theorem localFault_keeps {m u d0} {x0 d} (hm : Within 15437823 m) (hu : Within 0x7fffffffffffffffffffffffffffffffffffffffffffffffffffffffff u) (h : Keeps m u d0 d) :
    Keeps m u d0 (localFault x0 d) := by
  unfold localFault
  repeat' first
    | with_reducible assumption | exact hm.sub (by decide) | exact hu.sub (by decide) | subst y
    | (extract_lets +onlyGivenNames y; first | (refine (fun _ => ?_) (?_ : Keeps m u d0 y); clear_value y) | subst y)
    | with_reducible apply insertUrgent_keeps | with_reducible apply faultDescent_keeps
    | with_reducible apply afterLatch_keeps | split

theorem noteRefusal_keeps {m u d0} {d} (hm : Within 36353 m) (hu : Within 0x800000000040000000000002c0000000000000000000000000000000 u) (h : Keeps m u d0 d) :
    Keeps m u d0 (noteRefusal d) := by
  unfold noteRefusal
  repeat' first
    | with_reducible assumption | exact hm.sub (by decide) | exact hu.sub (by decide)
    | (extract_lets +onlyGivenNames y; first | (refine (fun _ => ?_) (?_ : Keeps m u d0 y); clear_value y) | subst y)
    | exact Or.inr (hm.bit (by decide)) | with_reducible exact Or.inl rfl | with_reducible exact Imp.refl _
    | (with_reducible refine Imp.mk (fun _ _ hq => ?_); first | (simp at hq ⊢; done) | (simp at hq ⊢; simp [hq]; done))
    | with_reducible exact Or.inr rfl | with_reducible apply raise_keeps | with_reducible apply keeps_ite
    | simp only [keepsMk_iff] | with_reducible apply keeps_mk (hw := by with_reducible rfl)

theorem gatedTime_keeps {m u d0} {x0 d x2 x3} (hm : Within 36377 m) (hu : Within 0x800000000040000000000002c0000000000000000000000000000000 u) (h : Keeps m u d0 d) (hk : ∀ d, Keeps m u d0 d → Keeps m u d0 (x3 d)) :
    Keeps m u d0 (gatedTime x0 d x2 x3) := by
  unfold gatedTime
  repeat' first
    | with_reducible assumption | exact hm.sub (by decide) | exact hu.sub (by decide) | subst y
    | (extract_lets +onlyGivenNames y; first | (refine (fun _ => ?_) (?_ : Keeps m u d0 y); clear_value y) | subst y)
    | with_reducible apply hk | with_reducible apply atGate_keeps | with_reducible apply complete_keeps
    | with_reducible apply noteRefusal_keeps | with_reducible apply keeps_ite | split

theorem seqUpRun_keeps {m u d0} {x0 d} (hm : Within 3713 m) (hu : Within 0x800000000040000000000002c0000000000000000000000000210000 u) (h : Keeps m u d0 d) :
    Keeps m u d0 (seqUpRun x0 d) := by
  unfold seqUpRun
  repeat' first
    | with_reducible assumption | exact hm.sub (by decide) | exact hu.sub (by decide)
    | (extract_lets +onlyGivenNames y; first | (refine (fun _ => ?_) (?_ : Keeps m u d0 y); clear_value y) | subst y)
    | exact Or.inr (hm.bit (by decide)) | with_reducible exact Or.inl rfl | with_reducible exact Imp.refl _
    | with_reducible exact Or.inr rfl | with_reducible apply setFlag_keeps fam_SEQ_STATUS_UP_PENDING
    | with_reducible apply complete_keeps | with_reducible apply tryStart_keeps
    | with_reducible apply keepRunning_keeps | with_reducible apply keeps_ite | simp only [keepsMk_iff]
    | with_reducible apply keeps_mk (hw := by with_reducible rfl) | split

theorem opSeqUp_keeps {m u d0} {x0 d} (hm : Within 36505 m) (hu : Within 0x800000000040000000000002c0000000000000000000000000210000 u) (h : Keeps m u d0 d) :
    Keeps m u d0 (opSeqUp x0 d) := by
  unfold opSeqUp
  repeat' first
    | with_reducible assumption | exact hm.sub (by decide) | exact hu.sub (by decide) | intro _
    | with_reducible apply gatedTime_keeps | with_reducible apply seqUpRun_keeps

theorem cancelRetry_keeps {m u d0} {d} (hm : Within 3713 m) (hu : Within 0x800000000040000000000002c0000000000000000000000000010000 u) (h : Keeps m u d0 d) :
    Keeps m u d0 (cancelRetry d) := by
  unfold cancelRetry
  repeat' first
    | with_reducible assumption | exact hm.sub (by decide) | exact hu.sub (by decide) | subst y
    | (extract_lets +onlyGivenNames y; first | (refine (fun _ => ?_) (?_ : Keeps m u d0 y); clear_value y) | subst y)
    | exact Or.inr (hm.bit (by decide)) | with_reducible exact Or.inl rfl | with_reducible exact Imp.refl _
    | with_reducible exact Or.inr rfl | with_reducible apply setFld_keeps fam_SEQ_STATUS_SEQ_STATE
    | with_reducible apply completeAll_keeps | simp only [keepsMk_iff]
    | with_reducible apply keeps_mk (hw := by with_reducible rfl)

theorem opSeqDown_keeps {m u d0} {x0 d} (hm : Within 7049215 m) (hu : Within 0x7fffffffffffffffffffffffffffffffffffffffffffffffffffffffff u) (h : Keeps m u d0 d) :
    Keeps m u d0 (opSeqDown x0 d) := by
  unfold opSeqDown
  repeat' first
    | with_reducible assumption | exact hm.sub (by decide) | exact hu.sub (by decide) | intro _
    | with_reducible apply gated_keeps | with_reducible apply complete_keeps | with_reducible apply cancelRetry_keeps
    | with_reducible apply keepRunning_keeps | with_reducible apply descendNow_keeps | with_reducible apply keeps_ite

theorem opRailOn_keeps {m u d0} {x0 d} (hm : Within 36441 m) (hu : Within 0x800000000040000000000002c000000000012d08c000000000020000 u) (h : Keeps m u d0 d) :
    Keeps m u d0 (opRailOn x0 d) := by
  unfold opRailOn
  repeat' first
    | with_reducible assumption | exact hm.sub (by decide) | exact hu.sub (by decide) | intro _
    | (extract_lets +onlyGivenNames y; first | (refine (fun _ => ?_) (?_ : Keeps m u d0 y); clear_value y) | subst y)
    | with_reducible apply gatedTime_keeps | with_reducible apply complete_keeps
    | with_reducible apply keepRunning_keeps | with_reducible apply startRail_keeps | with_reducible apply keeps_ite

theorem opRailOff_keeps {m u d0} {x0 d} (hm : Within 36729 m) (hu : Within 0x800000000040000000000002c000000000000d884000000000020000 u) (h : Keeps m u d0 d) :
    Keeps m u d0 (opRailOff x0 d) := by
  unfold opRailOff
  repeat' first
    | with_reducible assumption | exact hm.sub (by decide) | exact hu.sub (by decide) | intro _ | subst y
    | (extract_lets +onlyGivenNames y; first | (refine (fun _ => ?_) (?_ : Keeps m u d0 y); clear_value y) | subst y)
    | with_reducible apply gatedTime_keeps | with_reducible apply complete_keeps
    | with_reducible apply keepRunning_keeps | with_reducible apply beginStop_keeps
    | with_reducible apply setRstate_keeps | with_reducible apply modRail_keeps | with_reducible apply keeps_ite

theorem moveReference_keeps {m u d0} {x0 d} (hm : Within 8392257 m) (hu : Within 0x800000000040000000000002c000000000000d084000000020000000 u) (h : Keeps m u d0 d) :
    Keeps m u d0 (moveReference x0 d) := by
  unfold moveReference
  repeat' first
    | with_reducible assumption | exact hm.sub (by decide) | exact hu.sub (by decide) | subst y
    | (extract_lets +onlyGivenNames y; first | (refine (fun _ => ?_) (?_ : Keeps m u d0 y); clear_value y) | subst y)
    | with_reducible apply abortTest_keeps | with_reducible apply setMoving_keeps | with_reducible apply modRail_keeps
    | with_reducible apply keeps_ite

theorem setVcode_keeps {m u d0 d n v i} (hm : Within 1 m) (hu : Within 0x2240100400000000 u) (h : Keeps m u d0 d) :
    Keeps m u d0 (setFld d (vcodeFld n) v i) := by
  unfold vcodeFld
  split
  · exact setFld_keeps fam_HC_VSET_VCODE hm (hu.sub (by decide)) h
  · exact setFld_keeps fam_CL_VSET_VCODE hm (hu.sub (by decide)) h
  · exact setFld_keeps fam_SB_VSET_VCODE hm (hu.sub (by decide)) h
  · exact setFld_keeps fam_LD_CFG_VCODE hm (hu.sub (by decide)) h
  · exact setFld_keeps fam_GB_AUX_VNOM hm (hu.sub (by decide)) h

theorem withSetPoint_keeps {m u d0} {x0 x1 d} (hm : Within 1 m) (hu : Within 0x2240100400000000 u) (h : Keeps m u d0 d) :
    Keeps m u d0 (withSetPoint x0 x1 d) := by
  unfold withSetPoint
  repeat' first
    | with_reducible assumption | exact hm.sub (by decide) | exact hu.sub (by decide)
    | with_reducible apply setVcode_keeps

theorem opRailSetV_keeps {m u d0} {x0 d} (hm : Within 8392257 m) (hu : Within 0x800000000040000000000002c000000000000d086240100420000000 u) (h : Keeps m u d0 d) :
    Keeps m u d0 (opRailSetV x0 d) := by
  unfold opRailSetV
  repeat' first
    | with_reducible assumption | exact hm.sub (by decide) | exact hu.sub (by decide) | intro _ | subst y
    | (extract_lets +onlyGivenNames y; first | (refine (fun _ => ?_) (?_ : Keeps m u d0 y); clear_value y) | subst y)
    | with_reducible apply judged_keeps | with_reducible apply moveReference_keeps
    | with_reducible apply withSetPoint_keeps | with_reducible apply complete_keeps

theorem opSoftStartComplete_keeps {m u d0} {x0 d} (hm : Within 2649 m) (hu : Within 0x400000000000000000000000000d084000000000000000 u) (h : Keeps m u d0 d) :
    Keeps m u d0 (opSoftStartComplete x0 d) := by
  unfold opSoftStartComplete
  repeat' first
    | with_reducible assumption | exact hm.sub (by decide) | exact hu.sub (by decide) | subst y
    | (extract_lets +onlyGivenNames y; first | (refine (fun _ => ?_) (?_ : Keeps m u d0 y); clear_value y) | subst y)
    | with_reducible apply advanceTo_keeps | with_reducible apply setDe_keeps | with_reducible apply setMoving_keeps
    | with_reducible apply modRail_keeps | with_reducible apply keeps_ite

theorem opSoftStopComplete_keeps {m u d0} {x0 d} (hm : Within 8057 m) (hu : Within 0x800000000040000000000002c000000000032d084000000000000000 u) (h : Keeps m u d0 d) :
    Keeps m u d0 (opSoftStopComplete x0 d) := by
  unfold opSoftStopComplete
  repeat' first
    | with_reducible assumption | exact hm.sub (by decide) | exact hu.sub (by decide)
    | (extract_lets +onlyGivenNames y; first | (refine (fun _ => ?_) (?_ : Keeps m u d0 y); clear_value y) | subst y)
    | with_reducible apply railOff_keeps | with_reducible apply advanceTo_keeps | with_reducible apply keeps_ite

theorem opMoveEnd_keeps {m u d0} {x0 d} (hm : Within 2649 m) (hu : Within 0x400000000000000000000000000d084000000000000000 u) (h : Keeps m u d0 d) :
    Keeps m u d0 (opMoveEnd x0 d) := by
  unfold opMoveEnd
  repeat' first
    | with_reducible assumption | exact hm.sub (by decide) | exact hu.sub (by decide) | subst y
    | (extract_lets +onlyGivenNames y; first | (refine (fun _ => ?_) (?_ : Keeps m u d0 y); clear_value y) | subst y)
    | with_reducible apply advanceTo_keeps | with_reducible apply setMoving_keeps | with_reducible apply modRail_keeps
    | with_reducible apply keeps_ite

theorem beginRamp_keeps {m u d0} {d} (hm : Within 15437823 m) (hu : Within 0x7fffffffffffffffffffffffffffffffffffffffffffffffffffffffff u) (h : Keeps m u d0 d) :
    Keeps m u d0 (beginRamp d) := by
  unfold beginRamp
  repeat' first
    | with_reducible assumption | exact hm.sub (by decide) | exact hu.sub (by decide) | intro _ | subst y
    | (extract_lets +onlyGivenNames y; first | (refine (fun _ => ?_) (?_ : Keeps m u d0 y); clear_value y) | subst y)
    | with_reducible apply setFld_keeps fam_SEQ_STATUS_SEQ_STATE | with_reducible apply enterMode_keeps
    | with_reducible apply setRstate_keeps | with_reducible apply rampComplete_keeps | with_reducible apply keeps_ite
    | with_reducible apply keeps_foldl

theorem opT0Reached_keeps {m u d0} {d} (hm : Within 15437823 m) (hu : Within 0x7fffffffffffffffffffffffffffffffffffffffffffffffffffffffff u) (h : Keeps m u d0 d) :
    Keeps m u d0 (opT0Reached d) := by
  unfold opT0Reached
  repeat' first
    | with_reducible assumption | exact hm.sub (by decide) | exact hu.sub (by decide)
    | with_reducible apply setFld_keeps fam_SEQ_STATUS_SEQ_STATE | with_reducible apply beginRamp_keeps
    | with_reducible apply advanceTo_keeps | with_reducible apply keeps_ite | split

theorem opSlotOn_keeps {m u d0} {x0 d} (hm : Within 2649 m) (hu : Within 0x400000000000000000000000012d08c000000000020000 u) (h : Keeps m u d0 d) :
    Keeps m u d0 (opSlotOn x0 d) := by
  unfold opSlotOn
  repeat' first
    | with_reducible assumption | exact hm.sub (by decide) | exact hu.sub (by decide)
    | with_reducible apply startRail_keeps | with_reducible apply advanceTo_keeps | with_reducible apply keeps_ite
    | split

theorem opPowerGood_keeps {m u d0} {x0 x1 d} (hm : Within 15437823 m) (hu : Within 0x7fffffffffffffffffffffffffffffffffffffffffffffffffffffffff u) (h : Keeps m u d0 d) :
    Keeps m u d0 (opPowerGood x0 x1 d) := by
  unfold opPowerGood
  repeat' first
    | with_reducible assumption | exact hm.sub (by decide) | exact hu.sub (by decide) | subst y
    | (extract_lets +onlyGivenNames y; first | (refine (fun _ => ?_) (?_ : Keeps m u d0 y); clear_value y) | subst y)
    | with_reducible apply setFlag_keeps fam_SUP_STATUS_PG | with_reducible apply modRail_keeps
    | with_reducible apply setRstate_keeps | with_reducible apply completeAll_keeps
    | with_reducible apply rampComplete_keeps | with_reducible apply keeps_ite

theorem recordRiseFail_keeps {m u d0} {d x1} (hm : Within 3713 m) (hu : Within 0x800000000040000000000002c0000000000000800000000001060000 u) (h : Keeps m u d0 d) :
    Keeps m u d0 (recordRiseFail d x1) := by
  unfold recordRiseFail
  repeat' first
    | with_reducible assumption | exact hm.sub (by decide) | exact hu.sub (by decide) | subst y
    | (extract_lets +onlyGivenNames y; first | (refine (fun _ => ?_) (?_ : Keeps m u d0 y); clear_value y) | subst y)
    | with_reducible apply setFlag_keeps fam_SUP_STATUS_FAULT_LATCH
    | with_reducible apply setMaskBit_keeps fam_SEQ_RISE_FAIL_RISE_FAIL | with_reducible apply raise_keeps
    | with_reducible apply setRstate_keeps | with_reducible apply loadFirst_keeps | with_reducible apply keeps_ite

theorem opRiseFail_keeps {m u d0} {x0 d} (hm : Within 15437823 m) (hu : Within 0x7fffffffffffffffffffffffffffffffffffffffffffffffffffffffff u) (h : Keeps m u d0 d) :
    Keeps m u d0 (opRiseFail x0 d) := by
  unfold opRiseFail
  repeat' first
    | with_reducible assumption | exact hm.sub (by decide) | exact hu.sub (by decide) | intro _ | subst y
    | (extract_lets +onlyGivenNames y; first | (refine (fun _ => ?_) (?_ : Keeps m u d0 y); clear_value y) | subst y)
    | with_reducible apply recordRiseFail_keeps | with_reducible apply advanceTo_keeps
    | with_reducible apply gutter_keeps | with_reducible apply localFault_keeps | with_reducible apply keeps_foldl
    | simp only [keepsMk_iff] | split

theorem opRailOnTimeout_keeps {m u d0} {x0 d} (hm : Within 8057 m) (hu : Within 0x800000000040000000000002c000000000032d884000000000020000 u) (h : Keeps m u d0 d) :
    Keeps m u d0 (opRailOnTimeout x0 d) := by
  unfold opRailOnTimeout
  repeat' first
    | with_reducible assumption | exact hm.sub (by decide) | exact hu.sub (by decide) | subst y
    | (extract_lets +onlyGivenNames y; first | (refine (fun _ => ?_) (?_ : Keeps m u d0 y); clear_value y) | subst y)
    | with_reducible apply setFlag_keeps fam_SUP_STATUS_FAULT_LATCH | with_reducible apply advanceTo_keeps
    | with_reducible apply gateRail_keeps | with_reducible apply raise_keeps | with_reducible apply completeAll_keeps
    | with_reducible apply keeps_ite

theorem opOffDelay_keeps {m u d0} {x0 d} (hm : Within 3961 m) (hu : Within 0x800000000040000000000002c000000000000d884000000000020000 u) (h : Keeps m u d0 d) :
    Keeps m u d0 (opOffDelay x0 d) := by
  unfold opOffDelay
  repeat' first
    | with_reducible assumption | exact hm.sub (by decide) | exact hu.sub (by decide)
    | with_reducible apply stopOrGate_keeps | with_reducible apply advanceTo_keeps | with_reducible apply keeps_ite
    | split

theorem opGateTimeout_keeps {m u d0} {x0 d} (hm : Within 3961 m) (hu : Within 0x800000000040000000000002c000000000000d884000000000120000 u) (h : Keeps m u d0 d) :
    Keeps m u d0 (opGateTimeout x0 d) := by
  unfold opGateTimeout
  repeat' first
    | with_reducible assumption | exact hm.sub (by decide) | exact hu.sub (by decide) | subst y
    | (extract_lets +onlyGivenNames y; first | (refine (fun _ => ?_) (?_ : Keeps m u d0 y); clear_value y) | subst y)
    | with_reducible apply setMaskBit_keeps fam_SEQ_GATE_TIMEOUT_GATE_TIMEOUT | with_reducible apply advanceTo_keeps
    | with_reducible apply beginStop_keeps | with_reducible apply keeps_ite

theorem startService_keeps {m u d0} {d} (hm : Within 129 m) (hu : Within 0x210000 u) (h : Keeps m u d0 d) :
    Keeps m u d0 (startService d) := by
  unfold startService
  repeat' first
    | with_reducible assumption | exact hm.sub (by decide) | exact hu.sub (by decide) | subst y
    | (extract_lets +onlyGivenNames y; first | (refine (fun _ => ?_) (?_ : Keeps m u d0 y); clear_value y) | subst y)
    | exact Or.inr (hm.bit (by decide)) | with_reducible exact Or.inl rfl | with_reducible exact Imp.refl _
    | with_reducible exact Or.inr rfl | with_reducible apply setFld_keeps fam_SEQ_STATUS_SEQ_STATE
    | with_reducible apply putT0_keeps | with_reducible apply keeps_ite | simp only [keepsMk_iff]
    | with_reducible apply keeps_mk (hw := by with_reducible rfl)

theorem opRailFallen_keeps {m u d0} {x0 d} (hm : Within 7053287 m) (hu : Within 0x7fffffffffffffffffffffffffffffffffffffffffffffffffffffffff u) (h : Keeps m u d0 d) :
    Keeps m u d0 (opRailFallen x0 d) := by
  unfold opRailFallen
  repeat' first
    | with_reducible assumption | exact hm.sub (by decide) | exact hu.sub (by decide) | subst y
    | (extract_lets +onlyGivenNames y; first | (refine (fun _ => ?_) (?_ : Keeps m u d0 y); clear_value y) | subst y)
    | exact Or.inr (hm.bit (by decide)) | with_reducible exact Or.inl rfl | with_reducible exact Imp.refl _
    | with_reducible exact Or.inr rfl | with_reducible apply railFallen_keeps | with_reducible apply modRail_keeps
    | with_reducible apply startService_keeps | with_reducible apply tryStart_keeps | with_reducible apply keeps_ite
    | simp only [keepsMk_iff] | with_reducible apply keeps_mk (hw := by with_reducible rfl)

theorem opFallFail_keeps {m u d0} {x0 d} (hm : Within 15437823 m) (hu : Within 0x7fffffffffffffffffffffffffffffffffffffffffffffffffffffffff u) (h : Keeps m u d0 d) :
    Keeps m u d0 (opFallFail x0 d) := by
  unfold opFallFail
  repeat' first
    | with_reducible assumption | exact hm.sub (by decide) | exact hu.sub (by decide) | subst y
    | (extract_lets +onlyGivenNames y; first | (refine (fun _ => ?_) (?_ : Keeps m u d0 y); clear_value y) | subst y)
    | with_reducible apply setMaskBit_keeps fam_SEQ_FALL_FAIL_FALL_FAIL | with_reducible apply advanceTo_keeps
    | with_reducible apply raise_keeps | with_reducible apply gutter_keeps | with_reducible apply loadFirst_keeps
    | with_reducible apply modRail_keeps | with_reducible apply forceDischarge_keeps
    | with_reducible apply completeAll_keeps | with_reducible apply descentProgress_keeps
    | with_reducible apply keeps_ite

theorem opForcedEnd_keeps {m u d0} {x0 d} (hm : Within 7053311 m) (hu : Within 0x7fffffffffffffffffffffffffffffffffffffffffffffffffffffffff u) (h : Keeps m u d0 d) :
    Keeps m u d0 (opForcedEnd x0 d) := by
  unfold opForcedEnd
  repeat' first
    | with_reducible assumption | exact hm.sub (by decide) | exact hu.sub (by decide) | subst y
    | (extract_lets +onlyGivenNames y; first | (refine (fun _ => ?_) (?_ : Keeps m u d0 y); clear_value y) | subst y)
    | with_reducible apply advanceTo_keeps | with_reducible apply endForced_keeps
    | with_reducible apply setRstate_keeps | with_reducible apply modRail_keeps
    | with_reducible apply descentProgress_keeps | with_reducible apply keeps_ite

theorem takeRetry_keeps {m u d0} {d} (hm : Within 7049127 m) (hu : Within 0x7fffffffffffffffffffffffffffffffffffffffffffffffffffffffff u) (h : Keeps m u d0 d) :
    Keeps m u d0 (takeRetry d) := by
  unfold takeRetry
  repeat' first
    | with_reducible assumption | exact hm.sub (by decide) | exact hu.sub (by decide) | subst y
    | (extract_lets +onlyGivenNames y; first | (refine (fun _ => ?_) (?_ : Keeps m u d0 y); clear_value y) | subst y)
    | exact Or.inr (hm.bit (by decide)) | with_reducible exact Or.inl rfl | with_reducible exact Imp.refl _
    | with_reducible exact Or.inr rfl | with_reducible apply setFlag_keeps fam_MODE_STATUS_LATCH_HELD
    | with_reducible apply setFld_keeps fam_MODE_STATUS_LATCH_CAUSE
    | with_reducible apply setFlag_keeps fam_TH_STATUS_TH_LATCH
    | with_reducible apply addSat_keeps fam_SEQ_STATUS_RETRY_CNT | with_reducible apply enterBoot_keeps
    | with_reducible apply keeps_ite | simp only [keepsMk_iff]
    | with_reducible apply keeps_mk (hw := by with_reducible rfl)

theorem opRetryDelay_keeps {m u d0} {d} (hm : Within 7049151 m) (hu : Within 0x7fffffffffffffffffffffffffffffffffffffffffffffffffffffffff u) (h : Keeps m u d0 d) :
    Keeps m u d0 (opRetryDelay d) := by
  unfold opRetryDelay
  repeat' first
    | with_reducible assumption | exact hm.sub (by decide) | exact hu.sub (by decide)
    | with_reducible apply takeRetry_keeps | with_reducible apply advanceTo_keeps | with_reducible apply keeps_ite

theorem opRetryCntClear_keeps {m u d0} {d} (hm : Within 1 m) (hu : Within 0x10000 u) (h : Keeps m u d0 d) :
    Keeps m u d0 (opRetryCntClear d) := by
  unfold opRetryCntClear
  repeat' first
    | with_reducible assumption | exact hm.sub (by decide) | exact hu.sub (by decide)
    | with_reducible apply setFld_keeps fam_SEQ_STATUS_RETRY_CNT | with_reducible apply keeps_ite

theorem opTRest_keeps {m u d0} {d} (hm : Within 3737 m) (hu : Within 0x800000000040000000000002c0000000000000000000000000210000 u) (h : Keeps m u d0 d) :
    Keeps m u d0 (opTRest d) := by
  unfold opTRest
  repeat' first
    | with_reducible assumption | exact hm.sub (by decide) | exact hu.sub (by decide) | subst y
    | (extract_lets +onlyGivenNames y; first | (refine (fun _ => ?_) (?_ : Keeps m u d0 y); clear_value y) | subst y)
    | with_reducible apply setFld_keeps fam_SEQ_STATUS_SEQ_STATE | with_reducible apply advanceTo_keeps
    | with_reducible apply tryStart_keeps | with_reducible apply keeps_ite

theorem opPgoodRelease_keeps {m u d0} {x0 d} (hm : Within 2617 m) (hu : Within 0x4000000000000000000000000000000000000000000000 u) (h : Keeps m u d0 d) :
    Keeps m u d0 (opPgoodRelease x0 d) := by
  unfold opPgoodRelease
  repeat' first
    | with_reducible assumption | exact hm.sub (by decide) | exact hu.sub (by decide) | subst y
    | (extract_lets +onlyGivenNames y; first | (refine (fun _ => ?_) (?_ : Keeps m u d0 y); clear_value y) | subst y)
    | exact Or.inr (hm.bit (by decide)) | with_reducible exact Or.inl rfl | with_reducible exact Imp.refl _
    | with_reducible exact Or.inr rfl | with_reducible apply advanceTo_keeps | with_reducible apply keeps_ite
    | simp only [keepsMk_iff] | with_reducible apply keeps_mk (hw := by with_reducible rfl)

theorem opSsoRelease_keeps {m u d0} {x0 d} (hm : Within 1 m) (hu : Within 0x800000000000000000000000000000000000000000000000000000 u) (h : Keeps m u d0 d) :
    Keeps m u d0 (opSsoRelease x0 d) := by
  unfold opSsoRelease
  repeat' first
    | with_reducible assumption | exact hm.sub (by decide) | exact hu.sub (by decide) | subst y
    | (extract_lets +onlyGivenNames y; first | (refine (fun _ => ?_) (?_ : Keeps m u d0 y); clear_value y) | subst y)
    | with_reducible apply setFld_keeps fam_SSO_STATUS_PIN | with_reducible apply setFld_keeps fam_SSO_STATUS_ASSERTED
    | with_reducible apply keeps_ite

theorem opSsoFault_keeps {m u d0} {x0 d} (hm : Within 3585 m) (hu : Within 0x808000000040000000000002c0000000000000000000000000000000 u) (h : Keeps m u d0 d) :
    Keeps m u d0 (opSsoFault x0 d) := by
  unfold opSsoFault
  repeat' first
    | with_reducible assumption | exact hm.sub (by decide) | exact hu.sub (by decide) | subst y
    | (extract_lets +onlyGivenNames y; first | (refine (fun _ => ?_) (?_ : Keeps m u d0 y); clear_value y) | subst y)
    | with_reducible apply setFld_keeps fam_SSO_STATUS_PIN | with_reducible apply setFld_keeps fam_SSO_STATUS_FAULT
    | with_reducible apply raise_keeps | with_reducible apply keeps_ite

theorem opInterlockRelease_keeps {m u d0} {x0 x1 d} (hm : Within 3961 m) (hu : Within 0x800000000040000000000002c000000000000d884000000000020000 u) (h : Keeps m u d0 d) :
    Keeps m u d0 (opInterlockRelease x0 x1 d) := by
  unfold opInterlockRelease
  repeat' first
    | with_reducible assumption | exact hm.sub (by decide) | exact hu.sub (by decide) | subst y
    | (extract_lets +onlyGivenNames y; first | (refine (fun _ => ?_) (?_ : Keeps m u d0 y); clear_value y) | subst y)
    | with_reducible apply advanceTo_keeps | with_reducible apply softStop_keeps | with_reducible apply keeps_ite

end Sys2Proof.Machine
end

