-- ==== Sys2Proof/Laws/KSupervision.lean ====
section
/-! SUPPORT. Every operation of Machine/Supervision.lean keeps what it does not change (Laws/Keeps.lean). -/

set_option linter.all false
set_option Elab.async false


namespace Sys2Proof.Machine

theorem classFault_keeps {m u d0} {x0 x1 x2 x3 d} (hm : Within 15441919 m) (hu : Within 0x7fffffffffffffffffffffffffffffffffffffffffffffffffffffffff u) (h : Keeps m u d0 d) :
    Keeps m u d0 (classFault x0 x1 x2 x3 d) := by
  unfold classFault
  repeat' first
    | with_reducible assumption | exact hm.sub (by decide) | exact hu.sub (by decide)
    | (extract_lets +onlyGivenNames y; first | (refine (fun _ => ?_) (?_ : Keeps m u d0 y); clear_value y) | subst y)
    | with_reducible apply loadFirst_keeps | with_reducible apply supAct_keeps | with_reducible apply keeps_ite

theorem tripRail_keeps {m u d0} {x0 x1 x2 d} (hm : Within 15441919 m) (hu : Within 0x7fffffffffffffffffffffffffffffffffffffffffffffffffffffffff u) (h : Keeps m u d0 d) :
    Keeps m u d0 (tripRail x0 x1 x2 d) := by
  unfold tripRail
  repeat' first
    | with_reducible assumption | exact hm.sub (by decide) | exact hu.sub (by decide) | subst y
    | (extract_lets +onlyGivenNames y; first | (refine (fun _ => ?_) (?_ : Keeps m u d0 y); clear_value y) | subst y)
    | with_reducible apply setMaskBit_keeps fam_SUP_STATUS_PG | with_reducible apply modRail_keeps
    | with_reducible apply assertSso_keeps | with_reducible apply losePg_keeps | with_reducible apply setLevel_keeps
    | with_reducible apply classFault_keeps | with_reducible apply keeps_ite

theorem latentFault_keeps {m u d0} {x0 x1 d} (hm : Within 15437823 m) (hu : Within 0x7fffffffffffffffffffffffffffffffffffffffffffffffffffffffff u) (h : Keeps m u d0 d) :
    Keeps m u d0 (latentFault x0 x1 d) := by
  unfold latentFault
  repeat' first
    | with_reducible assumption | exact hm.sub (by decide) | exact hu.sub (by decide) | subst y
    | (extract_lets +onlyGivenNames y; first | (refine (fun _ => ?_) (?_ : Keeps m u d0 y); clear_value y) | subst y)
    | exact Or.inr (hm.bit (by decide)) | with_reducible exact Or.inl rfl | with_reducible exact Imp.refl _
    | (with_reducible refine Imp.mk (fun _ _ hq => ?_); first | (simp at hq ⊢; done) | (simp at hq ⊢; simp [hq]; done))
    | with_reducible exact Or.inr rfl | with_reducible apply setFld_keeps fam_SUP_STATUS_CMP_FAULT
    | with_reducible apply modRail_keeps | with_reducible apply raise_keeps | with_reducible apply localFault_keeps
    | with_reducible apply recordAction_keeps | with_reducible apply keeps_ite | simp only [keepsMk_iff]
    | with_reducible apply keeps_mk (hw := by with_reducible rfl)

theorem judgeTest_keeps {m u d0} {x0 x1 x2 d} (hm : Within 15437823 m) (hu : Within 0x7fffffffffffffffffffffffffffffffffffffffffffffffffffffffff u) (h : Keeps m u d0 d) :
    Keeps m u d0 (judgeTest x0 x1 x2 d) := by
  unfold judgeTest
  repeat' first
    | with_reducible assumption | exact hm.sub (by decide) | exact hu.sub (by decide)
    | (extract_lets +onlyGivenNames y; first | (refine (fun _ => ?_) (?_ : Keeps m u d0 y); clear_value y) | subst y)
    | with_reducible apply setFld_keeps fam_SUP_STATUS_CMP_FAULT | with_reducible apply endTest_keeps
    | with_reducible apply latentFault_keeps | with_reducible apply keeps_ite

theorem testTrip_keeps {m u d0} {x0 x1 d} (hm : Within 15437823 m) (hu : Within 0x7fffffffffffffffffffffffffffffffffffffffffffffffffffffffff u) (h : Keeps m u d0 d) :
    Keeps m u d0 (testTrip x0 x1 d) := by
  unfold testTrip
  repeat' first
    | with_reducible assumption | exact hm.sub (by decide) | exact hu.sub (by decide) | intro _ | subst y
    | (extract_lets +onlyGivenNames y; first | (refine (fun _ => ?_) (?_ : Keeps m u d0 y); clear_value y) | subst y)
    | with_reducible apply drawn_keeps | with_reducible apply putAux_keeps | with_reducible apply judgeTest_keeps
    | with_reducible apply endAborted_keeps | with_reducible apply keeps_ite | with_reducible apply keeps_foldl
    | simp only [keepsMk_iff] | split

theorem testRelease_keeps {m u d0} {x0 x1 d} (hm : Within 15437823 m) (hu : Within 0x7fffffffffffffffffffffffffffffffffffffffffffffffffffffffff u) (h : Keeps m u d0 d) :
    Keeps m u d0 (testRelease x0 x1 d) := by
  unfold testRelease
  repeat' first
    | with_reducible assumption | exact hm.sub (by decide) | exact hu.sub (by decide) | intro _
    | with_reducible apply judgeTest_keeps | with_reducible apply keeps_ite | with_reducible apply keeps_foldl | split

theorem opComparatorTrip_keeps {m u d0} {x0 x1 x2 d} (hm : Within 15441919 m) (hu : Within 0x7fffffffffffffffffffffffffffffffffffffffffffffffffffffffff u) (h : Keeps m u d0 d) :
    Keeps m u d0 (opComparatorTrip x0 x1 x2 d) := by
  unfold opComparatorTrip
  repeat' first
    | with_reducible assumption | exact hm.sub (by decide) | exact hu.sub (by decide) | subst y
    | (extract_lets +onlyGivenNames y; first | (refine (fun _ => ?_) (?_ : Keeps m u d0 y); clear_value y) | subst y)
    | with_reducible apply setFlag_keeps fam_SUP_STATUS_DISAGREE | with_reducible apply testTrip_keeps
    | with_reducible apply modRail_keeps | with_reducible apply tripRail_keeps | with_reducible apply keeps_ite

theorem opOcTrip_keeps {m u d0} {x0 d} (hm : Within 15441919 m) (hu : Within 0x7fffffffffffffffffffffffffffffffffffffffffffffffffffffffff u) (h : Keeps m u d0 d) :
    Keeps m u d0 (opOcTrip x0 d) := by
  unfold opOcTrip
  repeat' first
    | with_reducible assumption | exact hm.sub (by decide) | exact hu.sub (by decide) | subst y
    | (extract_lets +onlyGivenNames y; first | (refine (fun _ => ?_) (?_ : Keeps m u d0 y); clear_value y) | subst y)
    | with_reducible apply modRail_keeps | with_reducible apply tripRail_keeps | with_reducible apply keeps_ite

theorem opLdoOcTrip_keeps {m u d0} {x0 d} (hm : Within 15441919 m) (hu : Within 0x7fffffffffffffffffffffffffffffffffffffffffffffffffffffffff u) (h : Keeps m u d0 d) :
    Keeps m u d0 (opLdoOcTrip x0 d) := by
  unfold opLdoOcTrip
  repeat' first
    | with_reducible assumption | exact hm.sub (by decide) | exact hu.sub (by decide)
    | with_reducible apply tripRail_keeps | with_reducible apply modRail_keeps | with_reducible apply keeps_ite

theorem opComparatorRelease_keeps {m u d0} {x0 x1 d} (hm : Within 15437823 m) (hu : Within 0x7fffffffffffffffffffffffffffffffffffffffffffffffffffffffff u) (h : Keeps m u d0 d) :
    Keeps m u d0 (opComparatorRelease x0 x1 d) := by
  unfold opComparatorRelease
  repeat' first
    | with_reducible assumption | exact hm.sub (by decide) | exact hu.sub (by decide) | subst y
    | (extract_lets +onlyGivenNames y; first | (refine (fun _ => ?_) (?_ : Keeps m u d0 y); clear_value y) | subst y)
    | with_reducible apply modRail_keeps | with_reducible apply testRelease_keeps
    | with_reducible apply setLevel_keeps | with_reducible apply keeps_ite

theorem refMismatch_keeps {m u d0} {d} (hm : Within 15437823 m) (hu : Within 0x7fffffffffffffffffffffffffffffffffffffffffffffffffffffffff u) (h : Keeps m u d0 d) :
    Keeps m u d0 (refMismatch d) := by
  unfold refMismatch
  repeat' first
    | with_reducible assumption | exact hm.sub (by decide) | exact hu.sub (by decide) | subst y
    | (extract_lets +onlyGivenNames y; first | (refine (fun _ => ?_) (?_ : Keeps m u d0 y); clear_value y) | subst y)
    | with_reducible apply setFld_keeps fam_SUP_FIRST_RAIL | with_reducible apply setFld_keeps fam_SUP_FIRST_CAUSE
    | with_reducible apply setFlag_keeps fam_SUP_FIRST_VALID
    | with_reducible apply setFlag_keeps fam_SUP_GLOBAL_REF_MISMATCH | with_reducible apply setLevel_keeps
    | with_reducible apply localFault_keeps | with_reducible apply trigIf_keeps | with_reducible apply gutter_keeps
    | with_reducible apply keeps_ite

theorem refAdcFault_keeps {m u d0} {d} (hm : Within 3585 m) (hu : Within 0x800000000040000000000002c0000000000000000000000000800000 u) (h : Keeps m u d0 d) :
    Keeps m u d0 (refAdcFault d) := by
  unfold refAdcFault
  repeat' first
    | with_reducible assumption | exact hm.sub (by decide) | exact hu.sub (by decide)
    | with_reducible apply setFlag_keeps fam_SUP_GLOBAL_REF_ADC_FAULT | with_reducible apply setLevel_keeps

theorem traceRail_keeps {m u d0} {x0 x1 x2 d} (hm : Within 2097152 m) (hu : Within 0x0 u) (h : Keeps m u d0 d) :
    Keeps m u d0 (traceRail x0 x1 x2 d) := by
  unfold traceRail
  repeat' first
    | with_reducible assumption | exact hm.sub (by decide) | exact hu.sub (by decide)
    | with_reducible apply traceComp_keeps

end Sys2Proof.Machine
end

