-- ==== Sys2Proof/Laws/KRegulators.lean ====
section
/-! SUPPORT. Every operation of Machine/Regulators.lean keeps what it does not change (Laws/Keeps.lean). -/

set_option linter.all false
set_option Elab.async false


namespace Sys2Proof.Machine

theorem opHcPhaseFail_keeps {m u d0} {x0 x1 d} (hm : Within 15441919 m) (hu : Within 0x7fffffffffffffffffffffffffffffffffffffffffffffffffffffffff u) (h : Keeps m u d0 d) :
    Keeps m u d0 (opHcPhaseFail x0 x1 d) := by
  unfold opHcPhaseFail
  repeat' first
    | with_reducible assumption | exact hm.sub (by decide) | exact hu.sub (by decide) | subst y
    | (extract_lets +onlyGivenNames y; first | (refine (fun _ => ?_) (?_ : Keeps m u d0 y); clear_value y) | subst y)
    | with_reducible apply setFld_keeps fam_HC_STATUS_PH_DROPPED
    | with_reducible apply setFld_keeps fam_HC_STATUS_PH_MASK
    | with_reducible apply setFld_keeps fam_HC_PH_CAUSE_CAUSE | with_reducible apply raise_keeps
    | with_reducible apply noPhaseLeft_keeps | with_reducible apply keeps_ite

theorem judgeRange_keeps {m u d0} {x0 d x2} (hm : Within 3617 m) (hu : Within 0x800000000040000000000002c0000000000001084000000000000000 u) (h : Keeps m u d0 d) :
    Keeps m u d0 (judgeRange x0 d x2) := by
  unfold judgeRange
  repeat' first
    | with_reducible assumption | exact hm.sub (by decide) | exact hu.sub (by decide) | subst y
    | (extract_lets +onlyGivenNames y; first | (refine (fun _ => ?_) (?_ : Keeps m u d0 y); clear_value y) | subst y)
    | exact Or.inr (hm.bit (by decide)) | with_reducible exact Or.inl rfl | with_reducible exact Imp.refl _
    | with_reducible exact Or.inr rfl | with_reducible apply setSyncRange_keeps
    | with_reducible apply setSyncLocked_keeps | with_reducible apply raise_keeps | with_reducible apply keeps_ite
    | simp only [keepsMk_iff] | with_reducible apply keeps_mk (hw := by with_reducible rfl)

theorem rejudgeSync_keeps {m u d0} {x0 d} (hm : Within 3617 m) (hu : Within 0x800000000040000000000002c0000000000001084000000000000000 u) (h : Keeps m u d0 d) :
    Keeps m u d0 (rejudgeSync x0 d) := by
  unfold rejudgeSync
  repeat' first
    | with_reducible assumption | exact hm.sub (by decide) | exact hu.sub (by decide) | intro _
    | with_reducible apply judgeRange_keeps | with_reducible apply keeps_ite | with_reducible apply keeps_foldl

theorem opSyncQualified_keeps {m u d0} {x0 d} (hm : Within 3617 m) (hu : Within 0x800800000040000000000002c0000000000001084000000000000000 u) (h : Keeps m u d0 d) :
    Keeps m u d0 (opSyncQualified x0 d) := by
  unfold opSyncQualified
  repeat' first
    | with_reducible assumption | exact hm.sub (by decide) | exact hu.sub (by decide) | intro _ | subst y
    | (extract_lets +onlyGivenNames y; first | (refine (fun _ => ?_) (?_ : Keeps m u d0 y); clear_value y) | subst y)
    | with_reducible apply setFlag_keeps fam_SYNC_STATUS_SYNC_VALID
    | with_reducible apply setFld_keeps fam_SYNC_STATUS_PERIOD
    | with_reducible apply setFld_keeps fam_SYNC_STATUS_FSYNC | with_reducible apply raise_keeps
    | with_reducible apply judgeRange_keeps | with_reducible apply keeps_ite | with_reducible apply keeps_foldl

theorem opSyncLost_keeps {m u d0} {d} (hm : Within 3617 m) (hu : Within 0x800800000040000000000002c0000000000001084000000000000000 u) (h : Keeps m u d0 d) :
    Keeps m u d0 (opSyncLost d) := by
  unfold opSyncLost
  repeat' first
    | with_reducible assumption | exact hm.sub (by decide) | exact hu.sub (by decide) | intro _ | subst y
    | (extract_lets +onlyGivenNames y; first | (refine (fun _ => ?_) (?_ : Keeps m u d0 y); clear_value y) | subst y)
    | exact Or.inr (hm.bit (by decide)) | with_reducible exact Or.inl rfl | with_reducible exact Imp.refl _
    | with_reducible exact Or.inr rfl | with_reducible apply setFlag_keeps fam_SYNC_STATUS_SYNC_VALID
    | with_reducible apply setSyncRange_keeps | with_reducible apply setSyncLocked_keeps
    | with_reducible apply raise_keeps | with_reducible apply keeps_ite | with_reducible apply keeps_foldl
    | simp only [keepsMk_iff] | with_reducible apply keeps_mk (hw := by with_reducible rfl)

theorem opSyncRequalify_keeps {m u d0} {x0 d} (hm : Within 3617 m) (hu : Within 0x800000000040000000000002c0000000000001084000000000000000 u) (h : Keeps m u d0 d) :
    Keeps m u d0 (opSyncRequalify x0 d) := by
  unfold opSyncRequalify
  repeat' first
    | with_reducible assumption | exact hm.sub (by decide) | exact hu.sub (by decide) | subst y
    | (extract_lets +onlyGivenNames y; first | (refine (fun _ => ?_) (?_ : Keeps m u d0 y); clear_value y) | subst y)
    | exact Or.inr (hm.bit (by decide)) | with_reducible exact Or.inl rfl | with_reducible exact Imp.refl _
    | with_reducible exact Or.inr rfl | with_reducible apply judgeRange_keeps | with_reducible apply keeps_ite
    | simp only [keepsMk_iff] | with_reducible apply keeps_mk (hw := by with_reducible rfl)

theorem opSyncLocked_keeps {m u d0} {x0 d} (hm : Within 33 m) (hu : Within 0x1084000000000000000 u) (h : Keeps m u d0 d) :
    Keeps m u d0 (opSyncLocked x0 d) := by
  unfold opSyncLocked
  repeat' first
    | with_reducible assumption | exact hm.sub (by decide) | exact hu.sub (by decide)
    | (extract_lets +onlyGivenNames y; first | (refine (fun _ => ?_) (?_ : Keeps m u d0 y); clear_value y) | subst y)
    | exact Or.inr (hm.bit (by decide)) | with_reducible exact Or.inl rfl | with_reducible exact Imp.refl _
    | with_reducible exact Or.inr rfl | with_reducible apply setSyncLocked_keeps | with_reducible apply keeps_ite
    | simp only [keepsMk_iff] | with_reducible apply keeps_mk (hw := by with_reducible rfl)

theorem opBrakeStart_keeps {m u d0} {x0 x1 d} (hm : Within 1 m) (hu : Within 0x14c4000000000000000 u) (h : Keeps m u d0 d) :
    Keeps m u d0 (opBrakeStart x0 x1 d) := by
  unfold opBrakeStart
  repeat' first
    | with_reducible assumption | exact hm.sub (by decide) | exact hu.sub (by decide) | subst y
    | (extract_lets +onlyGivenNames y; first | (refine (fun _ => ?_) (?_ : Keeps m u d0 y); clear_value y) | subst y)
    | with_reducible apply addSat_keeps fam_CL_BRAKE_CNT_BRAKES
    | with_reducible apply addSat_keeps fam_HC_BRAKE_CNT_BRAKES | with_reducible apply setBraking_keeps
    | with_reducible apply keeps_ite | split

theorem opBrakeEnd_keeps {m u d0} {x0 d} (hm : Within 1 m) (hu : Within 0x1084000000000000000 u) (h : Keeps m u d0 d) :
    Keeps m u d0 (opBrakeEnd x0 d) := by
  unfold opBrakeEnd
  repeat' first
    | with_reducible assumption | exact hm.sub (by decide) | exact hu.sub (by decide)
    | with_reducible apply setBraking_keeps

theorem cutGb_keeps {m u d0} {x0 d} (hm : Within 8033 m) (hu : Within 0x800000000040000000000002c0000000000329884000000000020000 u) (h : Keeps m u d0 d) :
    Keeps m u d0 (cutGb x0 d) := by
  unfold cutGb
  repeat' first
    | with_reducible assumption | exact hm.sub (by decide) | exact hu.sub (by decide) | subst y
    | (extract_lets +onlyGivenNames y; first | (refine (fun _ => ?_) (?_ : Keeps m u d0 y); clear_value y) | subst y)
    | with_reducible apply setFlag_keeps fam_GB_RSTATUS_RAMPING
    | with_reducible apply setFlag_keeps fam_GB_RSTATUS_INTERLOCK_WAIT | with_reducible apply losePg_keeps
    | with_reducible apply idlePhases_keeps | with_reducible apply setRstate_keeps
    | with_reducible apply modRail_keeps

theorem opGbShort_keeps {m u d0} {x0 d} (hm : Within 15441919 m) (hu : Within 0x7fffffffffffffffffffffffffffffffffffffffffffffffffffffffff u) (h : Keeps m u d0 d) :
    Keeps m u d0 (opGbShort x0 d) := by
  unfold opGbShort
  repeat' first
    | with_reducible assumption | exact hm.sub (by decide) | exact hu.sub (by decide) | subst y
    | (extract_lets +onlyGivenNames y; first | (refine (fun _ => ?_) (?_ : Keeps m u d0 y); clear_value y) | subst y)
    | with_reducible apply setFlag_keeps fam_GB_RSTATUS_LIMIT
    | with_reducible apply setFlag_keeps fam_SUP_STATUS_OC_LAT | with_reducible apply assertSso_keeps
    | with_reducible apply cutGb_keeps | with_reducible apply raise_keeps | with_reducible apply supAct_keeps
    | with_reducible apply keeps_ite

theorem opGbOpen_keeps {m u d0} {x0 x1 d} (hm : Within 15441919 m) (hu : Within 0x7fffffffffffffffffffffffffffffffffffffffffffffffffffffffff u) (h : Keeps m u d0 d) :
    Keeps m u d0 (opGbOpen x0 x1 d) := by
  unfold opGbOpen
  repeat' first
    | with_reducible assumption | exact hm.sub (by decide) | exact hu.sub (by decide)
    | (extract_lets +onlyGivenNames y; first | (refine (fun _ => ?_) (?_ : Keeps m u d0 y); clear_value y) | subst y)
    | with_reducible apply setFlag_keeps fam_GB_RSTATUS_OPEN | with_reducible apply supAct_keeps
    | with_reducible apply raise_keeps | with_reducible apply keeps_ite

theorem opGbUvlo_keeps {m u d0} {x0 d} (hm : Within 3617 m) (hu : Within 0x808000000040000000000002c000000000000d084000000000000000 u) (h : Keeps m u d0 d) :
    Keeps m u d0 (opGbUvlo x0 d) := by
  unfold opGbUvlo
  repeat' first
    | with_reducible assumption | exact hm.sub (by decide) | exact hu.sub (by decide) | intro _ | subst y
    | (extract_lets +onlyGivenNames y; first | (refine (fun _ => ?_) (?_ : Keeps m u d0 y); clear_value y) | subst y)
    | exact Or.inr (hm.bit (by decide)) | with_reducible exact Or.inl rfl | with_reducible exact Imp.refl _
    | with_reducible exact Or.inr rfl | with_reducible apply setFlag_keeps fam_GB_RSTATUS_SWITCHING
    | with_reducible apply raise_keeps | with_reducible apply assertSso_keeps | with_reducible apply setMoving_keeps
    | with_reducible apply keeps_ite | with_reducible apply keeps_foldl | simp only [keepsMk_iff]
    | with_reducible apply keeps_mk (hw := by with_reducible rfl)

theorem opGbUvloRelease_keeps {m u d0} {x0 d} (hm : Within 97 m) (hu : Within 0xd084000000000000000 u) (h : Keeps m u d0 d) :
    Keeps m u d0 (opGbUvloRelease x0 d) := by
  unfold opGbUvloRelease
  repeat' first
    | with_reducible assumption | exact hm.sub (by decide) | exact hu.sub (by decide) | intro _ | subst y
    | (extract_lets +onlyGivenNames y; first | (refine (fun _ => ?_) (?_ : Keeps m u d0 y); clear_value y) | subst y)
    | exact Or.inr (hm.bit (by decide)) | with_reducible exact Or.inl rfl | with_reducible exact Imp.refl _
    | with_reducible exact Or.inr rfl | with_reducible apply setFlag_keeps fam_GB_RSTATUS_SWITCHING
    | with_reducible apply modRail_keeps | with_reducible apply setMoving_keeps | with_reducible apply keeps_ite
    | with_reducible apply keeps_foldl | simp only [keepsMk_iff]
    | with_reducible apply keeps_mk (hw := by with_reducible rfl)

theorem opGbRampDone_keeps {m u d0} {x0 d} (hm : Within 8057 m) (hu : Within 0x800000000040000000000002c000000000032d084000000000000000 u) (h : Keeps m u d0 d) :
    Keeps m u d0 (opGbRampDone x0 d) := by
  unfold opGbRampDone
  repeat' first
    | with_reducible assumption | exact hm.sub (by decide) | exact hu.sub (by decide) | subst y
    | (extract_lets +onlyGivenNames y; first | (refine (fun _ => ?_) (?_ : Keeps m u d0 y); clear_value y) | subst y)
    | with_reducible apply advanceTo_keeps | with_reducible apply setMoving_keeps | with_reducible apply modRail_keeps
    | with_reducible apply railOff_keeps | with_reducible apply keeps_ite

theorem opGbOffCounted_keeps {m u d0} {x0 d} (hm : Within 7053311 m) (hu : Within 0x7fffffffffffffffffffffffffffffffffffffffffffffffffffffffff u) (h : Keeps m u d0 d) :
    Keeps m u d0 (opGbOffCounted x0 d) := by
  unfold opGbOffCounted
  repeat' first
    | with_reducible assumption | exact hm.sub (by decide) | exact hu.sub (by decide)
    | (extract_lets +onlyGivenNames y; first | (refine (fun _ => ?_) (?_ : Keeps m u d0 y); clear_value y) | subst y)
    | with_reducible apply railFallen_keeps | with_reducible apply advanceTo_keeps | with_reducible apply keeps_ite

theorem tracePhase_keeps {m u d0} {x0 x1 x2 d} (hm : Within 2097152 m) (hu : Within 0x0 u) (h : Keeps m u d0 d) :
    Keeps m u d0 (tracePhase x0 x1 x2 d) := by
  unfold tracePhase
  repeat' first
    | with_reducible assumption | exact hm.sub (by decide) | exact hu.sub (by decide)
    | with_reducible apply traceComp_keeps | with_reducible apply keeps_ite

end Sys2Proof.Machine
end

