-- ==== Sys2Proof/Laws/KClusters.lean ====
section
/-! SUPPORT. Every operation of Machine/Clusters.lean keeps what it does not change (Laws/Keeps.lean). -/

set_option linter.all false
set_option Elab.async false


namespace Sys2Proof.Machine

theorem dropPhase_keeps {m u d0} {x0 d} (hm : Within 15441919 m) (hu : Within 0x7fffffffffffffffffffffffffffffffffffffffffffffffffffffffff u) (h : Keeps m u d0 d) :
    Keeps m u d0 (dropPhase x0 d) := by
  unfold dropPhase
  repeat' first
    | with_reducible assumption | exact hm.sub (by decide) | exact hu.sub (by decide) | subst y
    | (extract_lets +onlyGivenNames y; first | (refine (fun _ => ?_) (?_ : Keeps m u d0 y); clear_value y) | subst y)
    | with_reducible apply setFld_keeps fam_CL_RSTATUS_PH_DROPPED | with_reducible apply putPhase_keeps
    | with_reducible apply noPhaseLeft_keeps | with_reducible apply keeps_ite

theorem recordFail_keeps {m u d0} {x0 x1 d} (hm : Within 1 m) (hu : Within 0x20000000000000000000 u) (h : Keeps m u d0 d) :
    Keeps m u d0 (recordFail x0 x1 d) := by
  unfold recordFail
  repeat' first
    | with_reducible assumption | exact hm.sub (by decide) | exact hu.sub (by decide)
    | with_reducible apply setFld_keeps fam_PH_STATUS_CAUSE | with_reducible apply setFlag_keeps fam_PH_STATUS_FAILED

theorem failSpare_keeps {m u d0} {x0 x1 d} (hm : Within 1 m) (hu : Within 0x120000000000000000000 u) (h : Keeps m u d0 d) :
    Keeps m u d0 (failSpare x0 x1 d) := by
  unfold failSpare
  repeat' first
    | with_reducible assumption | exact hm.sub (by decide) | exact hu.sub (by decide) | subst y
    | (extract_lets +onlyGivenNames y; first | (refine (fun _ => ?_) (?_ : Keeps m u d0 y); clear_value y) | subst y)
    | with_reducible apply setFld_keeps fam_PH_STATUS_STATE
    | with_reducible apply setFlag_keeps fam_CL_STATUS_SPARE_FAILED | with_reducible apply recordFail_keeps | split

theorem beginHandover_keeps {m u d0} {x0 x1 d} (hm : Within 257 m) (hu : Within 0x20080000000000000000 u) (h : Keeps m u d0 d) :
    Keeps m u d0 (beginHandover x0 x1 d) := by
  unfold beginHandover
  repeat' first
    | with_reducible assumption | exact hm.sub (by decide) | exact hu.sub (by decide) | subst y
    | (extract_lets +onlyGivenNames y; first | (refine (fun _ => ?_) (?_ : Keeps m u d0 y); clear_value y) | subst y)
    | with_reducible apply setFld_keeps fam_PH_STATUS_STATE | with_reducible apply modClus_keeps
    | with_reducible apply putPhase_keeps | split

theorem freeSpare_keeps {m u d0} {x0 x1 d} (hm : Within 3841 m) (hu : Within 0x800000000040000000000002c0000000000320080000000000000000 u) (h : Keeps m u d0 d) :
    Keeps m u d0 (freeSpare x0 x1 d) := by
  unfold freeSpare
  repeat' first
    | with_reducible assumption | exact hm.sub (by decide) | exact hu.sub (by decide) | subst y
    | (extract_lets +onlyGivenNames y; first | (refine (fun _ => ?_) (?_ : Keeps m u d0 y); clear_value y) | subst y)
    | with_reducible apply endDrill_keeps | with_reducible apply parkSpare_keeps | with_reducible apply modClus_keeps
    | with_reducible apply resumeRest_keeps | with_reducible apply keeps_ite

theorem replaceOrDrop_keeps {m u d0} {x0 x1 d} (hm : Within 15441919 m) (hu : Within 0x7fffffffffffffffffffffffffffffffffffffffffffffffffffffffff u) (h : Keeps m u d0 d) :
    Keeps m u d0 (replaceOrDrop x0 x1 d) := by
  unfold replaceOrDrop
  repeat' first
    | with_reducible assumption | exact hm.sub (by decide) | exact hu.sub (by decide) | subst y
    | (extract_lets +onlyGivenNames y; first | (refine (fun _ => ?_) (?_ : Keeps m u d0 y); clear_value y) | subst y)
    | with_reducible apply setFlag_keeps fam_CL_STATUS_ROT_ACTIVE
    | with_reducible apply setFlag_keeps fam_CL_STATUS_SPARE_ENGAGED | with_reducible apply dropPhase_keeps
    | with_reducible apply resumeRest_keeps | with_reducible apply putPhase_keeps | with_reducible apply modClus_keeps
    | with_reducible apply freeSpare_keeps | with_reducible apply beginHandover_keeps | with_reducible apply keeps_ite
    | split

theorem spareFails_keeps {m u d0} {x0 x1 x2 d} (hm : Within 15441919 m) (hu : Within 0x7fffffffffffffffffffffffffffffffffffffffffffffffffffffffff u) (h : Keeps m u d0 d) :
    Keeps m u d0 (spareFails x0 x1 x2 d) := by
  unfold spareFails
  repeat' first
    | with_reducible assumption | exact hm.sub (by decide) | exact hu.sub (by decide) | subst y
    | (extract_lets +onlyGivenNames y; first | (refine (fun _ => ?_) (?_ : Keeps m u d0 y); clear_value y) | subst y)
    | with_reducible apply setFld_keeps fam_CL_RSTATUS_PH_DROPPED | with_reducible apply raise_keeps
    | with_reducible apply endDrill_keeps | with_reducible apply modClus_keeps | with_reducible apply parkSpare_keeps
    | with_reducible apply resumeRest_keeps | with_reducible apply failSpare_keeps
    | with_reducible apply dropPhase_keeps | with_reducible apply noPhaseLeft_keeps | with_reducible apply keeps_ite
    | split

theorem onePhaseFail_keeps {m u d0} {d x1} (hm : Within 15441919 m) (hu : Within 0x7fffffffffffffffffffffffffffffffffffffffffffffffffffffffff u) (h : Keeps m u d0 d) :
    Keeps m u d0 (onePhaseFail d x1) := by
  unfold onePhaseFail
  repeat' first
    | with_reducible assumption | exact hm.sub (by decide) | exact hu.sub (by decide) | subst y
    | (extract_lets +onlyGivenNames y; first | (refine (fun _ => ?_) (?_ : Keeps m u d0 y); clear_value y) | subst y)
    | with_reducible apply setFlag_keeps fam_CL_STATUS_ROT_ACTIVE
    | with_reducible apply setFlag_keeps fam_CL_STATUS_SPARE_ENGAGED
    | with_reducible apply setFld_keeps fam_PH_STATUS_STATE | with_reducible apply setFld_keeps fam_PH_STATUS_CAUSE
    | with_reducible apply setFlag_keeps fam_CL_RSTATUS_IMBAL | with_reducible apply raise_keeps
    | with_reducible apply spareFails_keeps | with_reducible apply recordFail_keeps
    | with_reducible apply modClus_keeps | with_reducible apply replaceOrDrop_keeps | with_reducible apply keeps_ite

theorem opPhaseFail_keeps {m u d0} {x0 d} (hm : Within 15441919 m) (hu : Within 0x7fffffffffffffffffffffffffffffffffffffffffffffffffffffffff u) (h : Keeps m u d0 d) :
    Keeps m u d0 (opPhaseFail x0 d) := by
  unfold opPhaseFail
  repeat' first
    | with_reducible assumption | exact hm.sub (by decide) | exact hu.sub (by decide) | intro _
    | (extract_lets +onlyGivenNames y; first | (refine (fun _ => ?_) (?_ : Keeps m u d0 y); clear_value y) | subst y)
    | with_reducible apply onePhaseFail_keeps | with_reducible apply keeps_foldl

theorem startDrill_keeps {m u d0} {x0 d} (hm : Within 257 m) (hu : Within 0x120080000000000000000 u) (h : Keeps m u d0 d) :
    Keeps m u d0 (startDrill x0 d) := by
  unfold startDrill
  repeat' first
    | with_reducible assumption | exact hm.sub (by decide) | exact hu.sub (by decide)
    | with_reducible apply setFlag_keeps fam_CL_STATUS_DRILL_ACTIVE | with_reducible apply beginHandover_keeps
    | with_reducible apply modClus_keeps | split

theorem opHandoverMatch_keeps {m u d0} {x0 x1 d} (hm : Within 257 m) (hu : Within 0x120080000000000000000 u) (h : Keeps m u d0 d) :
    Keeps m u d0 (opHandoverMatch x0 x1 d) := by
  unfold opHandoverMatch
  repeat' first
    | with_reducible assumption | exact hm.sub (by decide) | exact hu.sub (by decide) | subst y
    | (extract_lets +onlyGivenNames y; first | (refine (fun _ => ?_) (?_ : Keeps m u d0 y); clear_value y) | subst y)
    | with_reducible apply startDrill_keeps | with_reducible apply modClus_keeps | with_reducible apply keeps_ite
    | split

theorem opSpareEngaged_keeps {m u d0} {x0 d} (hm : Within 3841 m) (hu : Within 0x800000000040000000000002c0000000000360080000000000000000 u) (h : Keeps m u d0 d) :
    Keeps m u d0 (opSpareEngaged x0 d) := by
  unfold opSpareEngaged
  repeat' first
    | with_reducible assumption | exact hm.sub (by decide) | exact hu.sub (by decide)
    | with_reducible apply setFlag_keeps fam_CL_STATUS_SPARE_ENGAGED
    | with_reducible apply setFld_keeps fam_DRILL_RESULT_MATCH
    | with_reducible apply addSat_keeps fam_PH_COUNT_ROT_COUNT
    | with_reducible apply setFlag_keeps fam_CL_STATUS_ROT_ACTIVE
    | with_reducible apply addSat_keeps fam_PH_COUNT_HANDOVERS
    | with_reducible apply setFld_keeps fam_CL_STATUS_HO_CYCLES
    | with_reducible apply setFlag_keeps fam_CL_STATUS_STEER_CLOSED
    | with_reducible apply setFld_keeps fam_CL_STATUS_SPARE_RAIL
    | with_reducible apply setFlag_keeps fam_CL_RSTATUS_SPARE_ON | with_reducible apply modClus_keeps
    | with_reducible apply putPhase_keeps | with_reducible apply raise_keeps | with_reducible apply keeps_ite
    | simp only [keepsMk_iff] | split

theorem opHandoverFail_keeps {m u d0} {x0 d} (hm : Within 15441919 m) (hu : Within 0x7fffffffffffffffffffffffffffffffffffffffffffffffffffffffff u) (h : Keeps m u d0 d) :
    Keeps m u d0 (opHandoverFail x0 d) := by
  unfold opHandoverFail
  repeat' first
    | with_reducible assumption | exact hm.sub (by decide) | exact hu.sub (by decide) | subst y
    | (extract_lets +onlyGivenNames y; first | (refine (fun _ => ?_) (?_ : Keeps m u d0 y); clear_value y) | subst y)
    | with_reducible apply setFlag_keeps fam_CL_STATUS_HANDOVER_FAIL | with_reducible apply startDrill_keeps
    | with_reducible apply modClus_keeps | with_reducible apply failSpare_keeps | with_reducible apply dropPhase_keeps
    | with_reducible apply endDrill_keeps | with_reducible apply keeps_ite | simp only [keepsMk_iff] | split

theorem rotate_keeps {m u d0} {x0 x1 d} (hm : Within 257 m) (hu : Within 0x20080000000000000000 u) (h : Keeps m u d0 d) :
    Keeps m u d0 (rotate x0 x1 d) := by
  unfold rotate
  repeat' first
    | with_reducible assumption | exact hm.sub (by decide) | exact hu.sub (by decide)
    | with_reducible apply beginHandover_keeps

theorem opRotationEval_keeps {m u d0} {x0 d} (hm : Within 257 m) (hu : Within 0x20080000000000000000 u) (h : Keeps m u d0 d) :
    Keeps m u d0 (opRotationEval x0 d) := by
  unfold opRotationEval
  repeat' first
    | with_reducible assumption | exact hm.sub (by decide) | exact hu.sub (by decide)
    | with_reducible apply rotate_keeps | with_reducible apply modClus_keeps | with_reducible apply resumeRest_keeps
    | with_reducible apply keeps_ite | simp only [keepsMk_iff] | split

theorem opRotationRelease_keeps {m u d0} {x0 d} (hm : Within 257 m) (hu : Within 0x120080000000000000000 u) (h : Keeps m u d0 d) :
    Keeps m u d0 (opRotationRelease x0 d) := by
  unfold opRotationRelease
  repeat' first
    | with_reducible assumption | exact hm.sub (by decide) | exact hu.sub (by decide) | subst y
    | (extract_lets +onlyGivenNames y; first | (refine (fun _ => ?_) (?_ : Keeps m u d0 y); clear_value y) | subst y)
    | with_reducible apply parkSpare_keeps | with_reducible apply modClus_keeps | with_reducible apply rotate_keeps
    | with_reducible apply keeps_ite | split

theorem opPhaseShed_keeps {m u d0} {x0 d} (hm : Within 1 m) (hu : Within 0x20080000000000000000 u) (h : Keeps m u d0 d) :
    Keeps m u d0 (opPhaseShed x0 d) := by
  unfold opPhaseShed
  repeat' first
    | with_reducible assumption | exact hm.sub (by decide) | exact hu.sub (by decide)
    | (extract_lets +onlyGivenNames y; first | (refine (fun _ => ?_) (?_ : Keeps m u d0 y); clear_value y) | subst y)
    | with_reducible apply setFlag_keeps fam_CL_RSTATUS_SPARE_ON
    | with_reducible apply setFlag_keeps fam_CL_RSTATUS_SHED_ACTIVE | with_reducible apply putPhase_keeps
    | with_reducible apply keeps_ite | simp only [keepsMk_iff] | split

theorem opShedResume_keeps {m u d0} {x0 d} (hm : Within 1 m) (hu : Within 0x20080000000000000000 u) (h : Keeps m u d0 d) :
    Keeps m u d0 (opShedResume x0 d) := by
  unfold opShedResume
  repeat' first
    | with_reducible assumption | exact hm.sub (by decide) | exact hu.sub (by decide)
    | with_reducible apply resumeShed_keeps | with_reducible apply keeps_ite

theorem opSpareDrill_keeps {m u d0} {x0 d} (hm : Within 3865 m) (hu : Within 0x800000000040000000000002c0000000000120080000000000000000 u) (h : Keeps m u d0 d) :
    Keeps m u d0 (opSpareDrill x0 d) := by
  unfold opSpareDrill
  repeat' first
    | with_reducible assumption | exact hm.sub (by decide) | exact hu.sub (by decide) | intro _
    | (extract_lets +onlyGivenNames y; first | (refine (fun _ => ?_) (?_ : Keeps m u d0 y); clear_value y) | subst y)
    | with_reducible apply gated_keeps | with_reducible apply startDrill_keeps
    | with_reducible apply keepRunning_keeps | with_reducible apply modClus_keeps

theorem opDrillTimeout_keeps {m u d0} {x0 d} (hm : Within 3865 m) (hu : Within 0x800000000040000000000002c0000000000000000000000000000000 u) (h : Keeps m u d0 d) :
    Keeps m u d0 (opDrillTimeout x0 d) := by
  unfold opDrillTimeout
  repeat' first
    | with_reducible assumption | exact hm.sub (by decide) | exact hu.sub (by decide) | subst y
    | (extract_lets +onlyGivenNames y; first | (refine (fun _ => ?_) (?_ : Keeps m u d0 y); clear_value y) | subst y)
    | with_reducible apply modClus_keeps | with_reducible apply advanceTo_keeps
    | with_reducible apply completeAll_keeps | with_reducible apply keeps_ite

theorem opDrillHoldEnd_keeps {m u d0} {x0 x1 x2 d} (hm : Within 3841 m) (hu : Within 0x800000000040000000000002c0000000000320080000000000000000 u) (h : Keeps m u d0 d) :
    Keeps m u d0 (opDrillHoldEnd x0 x1 x2 d) := by
  unfold opDrillHoldEnd
  repeat' first
    | with_reducible assumption | exact hm.sub (by decide) | exact hu.sub (by decide) | subst y
    | (extract_lets +onlyGivenNames y; first | (refine (fun _ => ?_) (?_ : Keeps m u d0 y); clear_value y) | subst y)
    | with_reducible apply setFlag_keeps fam_CL_STATUS_SPARE_FAILED
    | with_reducible apply setFld_keeps fam_DRILL_RESULT_I_SPARE | with_reducible apply readmitPhase_keeps
    | with_reducible apply failSpare_keeps | with_reducible apply endDrill_keeps
    | with_reducible apply parkSpare_keeps | with_reducible apply keeps_ite | split

theorem tracePhases_keeps {m u d0} {x0 d} (hm : Within 2097152 m) (hu : Within 0x0 u) (h : Keeps m u d0 d) :
    Keeps m u d0 (tracePhases x0 d) := by
  unfold tracePhases
  repeat' first
    | with_reducible assumption | exact hm.sub (by decide) | exact hu.sub (by decide) | intro _
    | with_reducible apply tracePhase_keeps | with_reducible apply keeps_foldl

end Sys2Proof.Machine
end

