-- ==== Sys2Proof/Laws/KAdc.lean ====
section
/-! SUPPORT. Every operation of Machine/Adc.lean keeps what it does not change (Laws/Keeps.lean). -/

set_option linter.all false
set_option Elab.async false


namespace Sys2Proof.Machine

theorem setAdcPos_keeps {m u d0} {x0 x1 d} (hm : Within 4096 m) (hu : Within 0x0 u) (h : Keeps m u d0 d) :
    Keeps m u d0 (setAdcPos x0 x1 d) := by
  unfold setAdcPos
  repeat' first
    | with_reducible assumption | exact hm.sub (by decide) | exact hu.sub (by decide)
    | (extract_lets +onlyGivenNames y; first | (refine (fun _ => ?_) (?_ : Keeps m u d0 y); clear_value y) | subst y)
    | exact Or.inr (hm.bit (by decide)) | with_reducible exact Or.inl rfl | with_reducible exact Imp.refl _
    | (with_reducible refine Imp.mk (fun _ _ hq => ?_); first | (simp at hq ⊢; done) | (simp at hq ⊢; simp [hq]; done))
    | with_reducible exact Or.inr rfl | simp only [keepsMk_iff]
    | with_reducible apply keeps_mk (hw := by with_reducible rfl)

theorem setHeld_keeps {m u d0} {x0 x1 d} (hm : Within 4096 m) (hu : Within 0x0 u) (h : Keeps m u d0 d) :
    Keeps m u d0 (setHeld x0 x1 d) := by
  unfold setHeld
  repeat' first
    | with_reducible assumption | exact hm.sub (by decide) | exact hu.sub (by decide)
    | (extract_lets +onlyGivenNames y; first | (refine (fun _ => ?_) (?_ : Keeps m u d0 y); clear_value y) | subst y)
    | exact Or.inr (hm.bit (by decide)) | with_reducible exact Or.inl rfl | with_reducible exact Imp.refl _
    | (with_reducible refine Imp.mk (fun _ _ hq => ?_); first | (simp at hq ⊢; done) | (simp at hq ⊢; simp [hq]; done))
    | with_reducible exact Or.inr rfl | simp only [keepsMk_iff]
    | with_reducible apply keeps_mk (hw := by with_reducible rfl)

theorem setLimRec_keeps {m u d0} {x0 x1 d} (hm : Within 4096 m) (hu : Within 0x0 u) (h : Keeps m u d0 d) :
    Keeps m u d0 (setLimRec x0 x1 d) := by
  unfold setLimRec
  repeat' first
    | with_reducible assumption | exact hm.sub (by decide) | exact hu.sub (by decide)
    | (extract_lets +onlyGivenNames y; first | (refine (fun _ => ?_) (?_ : Keeps m u d0 y); clear_value y) | subst y)
    | exact Or.inr (hm.bit (by decide)) | with_reducible exact Or.inl rfl | with_reducible exact Imp.refl _
    | (with_reducible refine Imp.mk (fun _ _ hq => ?_); first | (simp at hq ⊢; done) | (simp at hq ⊢; simp [hq]; done))
    | with_reducible exact Or.inr rfl | simp only [keepsMk_iff]
    | with_reducible apply keeps_mk (hw := by with_reducible rfl)

theorem checkLimits_keeps {m u d0} {x0 x1 d} (hm : Within 7681 m) (hu : Within 0x800000000040000000000002c0000000000000000000000000000000 u) (h : Keeps m u d0 d) :
    Keeps m u d0 (checkLimits x0 x1 d) := by
  unfold checkLimits
  repeat' first
    | with_reducible assumption | exact hm.sub (by decide) | exact hu.sub (by decide) | subst y
    | (extract_lets +onlyGivenNames y; first | (refine (fun _ => ?_) (?_ : Keeps m u d0 y); clear_value y) | subst y)
    | with_reducible apply setLimRec_keeps | with_reducible apply setLevel_keeps | with_reducible apply keeps_ite

theorem checkLatent_keeps {m u d0} {x0 x1 d x3} (hm : Within 15437823 m) (hu : Within 0x7fffffffffffffffffffffffffffffffffffffffffffffffffffffffff u) (h : Keeps m u d0 d) :
    Keeps m u d0 (checkLatent x0 x1 d x3) := by
  unfold checkLatent
  repeat' first
    | with_reducible assumption | exact hm.sub (by decide) | exact hu.sub (by decide) | subst y
    | (extract_lets +onlyGivenNames y; first | (refine (fun _ => ?_) (?_ : Keeps m u d0 y); clear_value y) | subst y)
    | with_reducible apply modRail_keeps | with_reducible apply latentFault_keeps | with_reducible apply keeps_ite

theorem checkRefs_keeps {m u d0} {x0 x1 d} (hm : Within 15441919 m) (hu : Within 0x7fffffffffffffffffffffffffffffffffffffffffffffffffffffffff u) (h : Keeps m u d0 d) :
    Keeps m u d0 (checkRefs x0 x1 d) := by
  unfold checkRefs
  repeat' first
    | with_reducible assumption | exact hm.sub (by decide) | exact hu.sub (by decide)
    | (extract_lets +onlyGivenNames y; first | (refine (fun _ => ?_) (?_ : Keeps m u d0 y); clear_value y) | subst y)
    | exact Or.inr (hm.bit (by decide)) | with_reducible exact Or.inl rfl | with_reducible exact Imp.refl _
    | (with_reducible refine Imp.mk (fun _ _ hq => ?_); first | (simp at hq ⊢; done) | (simp at hq ⊢; simp [hq]; done))
    | with_reducible exact Or.inr rfl | with_reducible apply setFlag_keeps fam_SUP_GLOBAL_REF_ADC_FAULT
    | with_reducible apply setFlag_keeps fam_SUP_GLOBAL_REF_MISMATCH | with_reducible apply refMismatch_keeps
    | with_reducible apply setLevel_keeps | with_reducible apply refAdcFault_keeps | with_reducible apply keeps_ite
    | simp only [keepsMk_iff] | with_reducible apply keeps_mk (hw := by with_reducible rfl)

theorem checkVbk_keeps {m u d0} {x0 x1 d} (hm : Within 3585 m) (hu : Within 0x800000000040000000000202c0000000000000000000000000000000 u) (h : Keeps m u d0 d) :
    Keeps m u d0 (checkVbk x0 x1 d) := by
  unfold checkVbk
  repeat' first
    | with_reducible assumption | exact hm.sub (by decide) | exact hu.sub (by decide) | subst y
    | (extract_lets +onlyGivenNames y; first | (refine (fun _ => ?_) (?_ : Keeps m u d0 y); clear_value y) | subst y)
    | with_reducible apply setFlag_keeps fam_RTC_STATUS_VBK_LOW | with_reducible apply raise_keeps
    | with_reducible apply keeps_ite

theorem putImbal_keeps {m u d0} {d x1 x2 x3} (hm : Within 1 m) (hu : Within 0x84000000000000000 u) (h : Keeps m u d0 d) :
    Keeps m u d0 (putImbal d x1 x2 x3) := by
  unfold putImbal
  repeat' first
    | with_reducible assumption | exact hm.sub (by decide) | exact hu.sub (by decide)
    | with_reducible apply setFlag_keeps fam_CL_RSTATUS_IMBAL | with_reducible apply setFlag_keeps fam_HC_STATUS_IMBAL
    | with_reducible apply keeps_ite

theorem checkBalance_keeps {m u d0} {x0 x1 d} (hm : Within 7681 m) (hu : Within 0x800000000040000000000002c000000000002008c000000000000000 u) (h : Keeps m u d0 d) :
    Keeps m u d0 (checkBalance x0 x1 d) := by
  unfold checkBalance
  repeat' first
    | with_reducible assumption | exact hm.sub (by decide) | exact hu.sub (by decide) | subst y
    | (extract_lets +onlyGivenNames y; first | (refine (fun _ => ?_) (?_ : Keeps m u d0 y); clear_value y) | subst y)
    | exact Or.inr (hm.bit (by decide)) | with_reducible exact Or.inl rfl | with_reducible exact Imp.refl _
    | (with_reducible refine Imp.mk (fun _ _ hq => ?_); first | (simp at hq ⊢; done) | (simp at hq ⊢; simp [hq]; done))
    | with_reducible exact Or.inr rfl | with_reducible apply setFld_keeps fam_HC_PH_CAUSE_CAUSE
    | with_reducible apply setFld_keeps fam_PH_STATUS_CAUSE | with_reducible apply putImbal_keeps
    | with_reducible apply raise_keeps | with_reducible apply keeps_ite | simp only [keepsMk_iff]
    | with_reducible apply keeps_mk (hw := by with_reducible rfl) | split

theorem vlySample_keeps {m u d0} {d} (hm : Within 69121 m) (hu : Within 0x800000000040068000000002c00001ec000000000000000000000000 u) (h : Keeps m u d0 d) :
    Keeps m u d0 (vlySample d) := by
  unfold vlySample
  repeat' first
    | with_reducible assumption | exact hm.sub (by decide) | exact hu.sub (by decide) | subst y
    | (extract_lets +onlyGivenNames y; first | (refine (fun _ => ?_) (?_ : Keeps m u d0 y); clear_value y) | subst y)
    | exact Or.inr (hm.bit (by decide)) | with_reducible exact Or.inl rfl | with_reducible exact Imp.refl _
    | (with_reducible refine Imp.mk (fun _ _ hq => ?_); first | (simp at hq ⊢; done) | (simp at hq ⊢; simp [hq]; done))
    | with_reducible exact Or.inr rfl | with_reducible apply setFld_keeps fam_VLY_ENERGY_DELIVERED
    | with_reducible apply setFlag_keeps fam_VLY_STATUS_IN_WINDOW
    | with_reducible apply setFld_keeps fam_VLY_MEAS_V_VLY | with_reducible apply setFld_keeps fam_VLY_MEAS_I_VLY
    | with_reducible apply gaugeSums_keeps | with_reducible apply keeps_ite | simp only [keepsMk_iff]
    | with_reducible apply keeps_mk (hw := by with_reducible rfl)

theorem setSub_keeps {m u d0} {x0 x1 d} (hm : Within 4096 m) (hu : Within 0x0 u) (h : Keeps m u d0 d) :
    Keeps m u d0 (setSub x0 x1 d) := by
  unfold setSub
  repeat' first
    | with_reducible assumption | exact hm.sub (by decide) | exact hu.sub (by decide)
    | (extract_lets +onlyGivenNames y; first | (refine (fun _ => ?_) (?_ : Keeps m u d0 y); clear_value y) | subst y)
    | exact Or.inr (hm.bit (by decide)) | with_reducible exact Or.inl rfl | with_reducible exact Imp.refl _
    | (with_reducible refine Imp.mk (fun _ _ hq => ?_); first | (simp at hq ⊢; done) | (simp at hq ⊢; simp [hq]; done))
    | with_reducible exact Or.inr rfl | simp only [keepsMk_iff]
    | with_reducible apply keeps_mk (hw := by with_reducible rfl)

theorem deliverResult_keeps {m u d0} {x0 x1 x2 x3 x4 d} (hm : Within 7681 m) (hu : Within 0x800000000040000000000002c0000000000000000000000000000000 u) (h : Keeps m u d0 d) :
    Keeps m u d0 (deliverResult x0 x1 x2 x3 x4 d) := by
  unfold deliverResult
  repeat' first
    | (refine (?_ : (_ : Nat) ≠ 12); decide) | with_reducible assumption | exact hm.sub (by decide)
    | exact hu.sub (by decide) | with_reducible apply setSub_keeps | with_reducible apply ringRecord_keeps
    | with_reducible apply keeps_ite | simp only [keepsMk_iff] | split

theorem substitute_keeps {m u d0} {x0 x1 d} (hm : Within 7681 m) (hu : Within 0x800000000040000000000002c0000000000000000000000000000000 u) (h : Keeps m u d0 d) :
    Keeps m u d0 (substitute x0 x1 d) := by
  unfold substitute
  repeat' first
    | with_reducible assumption | exact hm.sub (by decide) | exact hu.sub (by decide)
    | with_reducible apply deliverResult_keeps

theorem adcResult_keeps {m u d0} {x0 x1 x2 x3 x4 d} (hm : Within 15441919 m) (hu : Within 0x7fffffffffffffffffffffffffffffffffffffffffffffffffffffffff u) (h : Keeps m u d0 d) :
    Keeps m u d0 (adcResult x0 x1 x2 x3 x4 d) := by
  unfold adcResult
  repeat' first
    | with_reducible assumption | exact hm.sub (by decide) | exact hu.sub (by decide) | intro _ | subst y
    | (extract_lets +onlyGivenNames y; first | (refine (fun _ => ?_) (?_ : Keeps m u d0 y); clear_value y) | subst y)
    | exact Or.inr (hm.bit (by decide)) | with_reducible exact Or.inl rfl | with_reducible exact Imp.refl _
    | (with_reducible refine Imp.mk (fun _ _ hq => ?_); first | (simp at hq ⊢; done) | (simp at hq ⊢; simp [hq]; done))
    | with_reducible exact Or.inr rfl | with_reducible apply traceResult_keeps
    | with_reducible apply checkLimits_keeps | with_reducible apply checkLatent_keeps
    | with_reducible apply testSample_keeps | with_reducible apply startDrill_keeps
    | with_reducible apply checkVbk_keeps | with_reducible apply checkRefs_keeps
    | with_reducible apply vlySample_keeps | with_reducible apply checkBalance_keeps
    | with_reducible apply deliverResult_keeps | with_reducible apply keeps_ite | with_reducible apply keeps_foldl
    | simp only [keepsMk_iff] | with_reducible apply keeps_mk (hw := by with_reducible rfl)

theorem displaceEntry_keeps {m u d0} {x0 x1 d} (hm : Within 7681 m) (hu : Within 0x800000000040000000000002c4000000000000000000000000000000 u) (h : Keeps m u d0 d) :
    Keeps m u d0 (displaceEntry x0 x1 d) := by
  unfold displaceEntry
  repeat' first
    | with_reducible assumption | exact hm.sub (by decide) | exact hu.sub (by decide)
    | with_reducible apply addSat_keeps fam_ADC_STATUS_LOST | with_reducible apply substitute_keeps
    | with_reducible apply count_keeps | with_reducible apply setHeld_keeps | with_reducible apply keeps_ite | split

theorem takeResult_keeps {m u d0} {x0 x1 x2 x3 d} (hm : Within 15441919 m) (hu : Within 0x7fffffffffffffffffffffffffffffffffffffffffffffffffffffffff u) (h : Keeps m u d0 d) :
    Keeps m u d0 (takeResult x0 x1 x2 x3 d) := by
  unfold takeResult
  repeat' first
    | with_reducible assumption | exact hm.sub (by decide) | exact hu.sub (by decide)
    | with_reducible apply adcResult_keeps | with_reducible apply drawn_keeps | with_reducible apply keeps_ite

theorem serveDirected_keeps {m u d0} {x0 x1 x2 x3 d} (hm : Within 15441919 m) (hu : Within 0x7fffffffffffffffffffffffffffffffffffffffffffffffffffffffff u) (h : Keeps m u d0 d) :
    Keeps m u d0 (serveDirected x0 x1 x2 x3 d) := by
  unfold serveDirected
  repeat' first
    | with_reducible assumption | exact hm.sub (by decide) | exact hu.sub (by decide) | subst y
    | (extract_lets +onlyGivenNames y; first | (refine (fun _ => ?_) (?_ : Keeps m u d0 y); clear_value y) | subst y)
    | exact Or.inr (hm.bit (by decide)) | with_reducible exact Or.inl rfl | with_reducible exact Imp.refl _
    | (with_reducible refine Imp.mk (fun _ _ hq => ?_); first | (simp at hq ⊢; done) | (simp at hq ⊢; simp [hq]; done))
    | with_reducible exact Or.inr rfl | with_reducible apply count_keeps | with_reducible apply takeResult_keeps
    | with_reducible apply complete_keeps | with_reducible apply drawn_keeps | with_reducible apply keeps_ite
    | simp only [keepsMk_iff] | with_reducible apply keeps_mk (hw := by with_reducible rfl)

theorem serveListed_keeps {m u d0} {x0 x1 x2 x3 d} (hm : Within 15441919 m) (hu : Within 0x7fffffffffffffffffffffffffffffffffffffffffffffffffffffffff u) (h : Keeps m u d0 d) :
    Keeps m u d0 (serveListed x0 x1 x2 x3 d) := by
  unfold serveListed
  repeat' first
    | with_reducible assumption | exact hm.sub (by decide) | exact hu.sub (by decide)
    | with_reducible apply takeResult_keeps

theorem opAdcListPass_keeps {m u d0} {x0 d} (hm : Within 7681 m) (hu : Within 0x800000000040000000000002c4000000000000000000000000000000 u) (h : Keeps m u d0 d) :
    Keeps m u d0 (opAdcListPass x0 d) := by
  unfold opAdcListPass
  repeat' first
    | with_reducible assumption | exact hm.sub (by decide) | exact hu.sub (by decide) | intro _ | subst y
    | (extract_lets +onlyGivenNames y; first | (refine (fun _ => ?_) (?_ : Keeps m u d0 y); clear_value y) | subst y)
    | exact Or.inr (hm.bit (by decide)) | with_reducible exact Or.inl rfl | with_reducible exact Imp.refl _
    | (with_reducible refine Imp.mk (fun _ _ hq => ?_); first | (simp at hq ⊢; done) | (simp at hq ⊢; simp [hq]; done))
    | with_reducible exact Or.inr rfl | with_reducible apply setFlag_keeps fam_ADC_STATUS_LOW_POWER
    | with_reducible apply setAdcPos_keeps | with_reducible apply substitute_keeps | with_reducible apply keeps_ite
    | with_reducible apply keeps_foldl | simp only [keepsMk_iff]
    | with_reducible apply keeps_mk (hw := by with_reducible rfl)

theorem slotAbsent_keeps {m u d0} {x0 x1 d} (hm : Within 7681 m) (hu : Within 0x800000000040000000000002c0000000000000000000000000000000 u) (h : Keeps m u d0 d) :
    Keeps m u d0 (slotAbsent x0 x1 d) := by
  unfold slotAbsent
  repeat' first
    | with_reducible assumption | exact hm.sub (by decide) | exact hu.sub (by decide)
    | (extract_lets +onlyGivenNames y; first | (refine (fun _ => ?_) (?_ : Keeps m u d0 y); clear_value y) | subst y)
    | exact Or.inr (hm.bit (by decide)) | with_reducible exact Or.inl rfl | with_reducible exact Imp.refl _
    | (with_reducible refine Imp.mk (fun _ _ hq => ?_); first | (simp at hq ⊢; done) | (simp at hq ⊢; simp [hq]; done))
    | with_reducible exact Or.inr rfl | with_reducible apply substitute_keeps | with_reducible apply keeps_ite
    | simp only [keepsMk_iff] | with_reducible apply keeps_mk (hw := by with_reducible rfl) | split

theorem slotRun_keeps {m u d0} {x0 x1 x2 x3 x4 d} (hm : Within 15441919 m) (hu : Within 0x7fffffffffffffffffffffffffffffffffffffffffffffffffffffffff u) (h : Keeps m u d0 d) :
    Keeps m u d0 (slotRun x0 x1 x2 x3 x4 d) := by
  unfold slotRun
  repeat' first
    | with_reducible assumption | exact hm.sub (by decide) | exact hu.sub (by decide) | subst y
    | (extract_lets +onlyGivenNames y; first | (refine (fun _ => ?_) (?_ : Keeps m u d0 y); clear_value y) | subst y)
    | exact Or.inr (hm.bit (by decide)) | with_reducible exact Or.inl rfl | with_reducible exact Imp.refl _
    | (with_reducible refine Imp.mk (fun _ _ hq => ?_); first | (simp at hq ⊢; done) | (simp at hq ⊢; simp [hq]; done))
    | with_reducible exact Or.inr rfl | with_reducible apply count_keeps | with_reducible apply setHeld_keeps
    | with_reducible apply serveDirected_keeps | with_reducible apply displaceEntry_keeps
    | with_reducible apply serveListed_keeps | with_reducible apply keeps_ite | simp only [keepsMk_iff]
    | with_reducible apply keeps_mk (hw := by with_reducible rfl) | split

theorem opConversionEnd_keeps {m u d0} {x0 x1 x2 x3 x4 d} (hm : Within 15441919 m) (hu : Within 0x7fffffffffffffffffffffffffffffffffffffffffffffffffffffffff u) (h : Keeps m u d0 d) :
    Keeps m u d0 (opConversionEnd x0 x1 x2 x3 x4 d) := by
  unfold opConversionEnd
  repeat' first
    | with_reducible assumption | exact hm.sub (by decide) | exact hu.sub (by decide) | subst y
    | (extract_lets +onlyGivenNames y; first | (refine (fun _ => ?_) (?_ : Keeps m u d0 y); clear_value y) | subst y)
    | exact Or.inr (hm.bit (by decide)) | with_reducible exact Or.inl rfl | with_reducible exact Imp.refl _
    | (with_reducible refine Imp.mk (fun _ _ hq => ?_); first | (simp at hq ⊢; done) | (simp at hq ⊢; simp [hq]; done))
    | with_reducible exact Or.inr rfl | with_reducible apply opAdcListPass_keeps
    | with_reducible apply setAdcPos_keeps | with_reducible apply slotAbsent_keeps
    | with_reducible apply slotRun_keeps | with_reducible apply keeps_ite | simp only [keepsMk_iff]
    | with_reducible apply keeps_mk (hw := by with_reducible rfl)

theorem beginCal_keeps {m u d0} {x0 d} (hm : Within 4097 m) (hu : Within 0x4000000000000000000000000000000 u) (h : Keeps m u d0 d) :
    Keeps m u d0 (beginCal x0 d) := by
  unfold beginCal
  repeat' first
    | with_reducible assumption | exact hm.sub (by decide) | exact hu.sub (by decide)
    | (extract_lets +onlyGivenNames y; first | (refine (fun _ => ?_) (?_ : Keeps m u d0 y); clear_value y) | subst y)
    | exact Or.inr (hm.bit (by decide)) | with_reducible exact Or.inl rfl | with_reducible exact Imp.refl _
    | (with_reducible refine Imp.mk (fun _ _ hq => ?_); first | (simp at hq ⊢; done) | (simp at hq ⊢; simp [hq]; done))
    | with_reducible exact Or.inr rfl | with_reducible apply setFld_keeps fam_ADC_STATUS_CALIBRATING
    | simp only [keepsMk_iff] | with_reducible apply keeps_mk (hw := by with_reducible rfl)

theorem opCalibration_keeps {m u d0} {x0 d} (hm : Within 4097 m) (hu : Within 0x4000000000000000000000020000000 u) (h : Keeps m u d0 d) :
    Keeps m u d0 (opCalibration x0 d) := by
  unfold opCalibration
  repeat' first
    | with_reducible assumption | exact hm.sub (by decide) | exact hu.sub (by decide)
    | (extract_lets +onlyGivenNames y; first | (refine (fun _ => ?_) (?_ : Keeps m u d0 y); clear_value y) | subst y)
    | exact Or.inr (hm.bit (by decide)) | with_reducible exact Or.inl rfl | with_reducible exact Imp.refl _
    | (with_reducible refine Imp.mk (fun _ _ hq => ?_); first | (simp at hq ⊢; done) | (simp at hq ⊢; simp [hq]; done))
    | with_reducible exact Or.inr rfl | with_reducible apply beginCal_keeps | with_reducible apply bgBegin_keeps
    | with_reducible apply keeps_ite | simp only [keepsMk_iff]
    | with_reducible apply keeps_mk (hw := by with_reducible rfl)

theorem judgeCal_keeps {m u d0} {x0 x1 x2 x3 x4 d} (hm : Within 7681 m) (hu : Within 0x800000000040000000000002cc000000000000000000000000000000 u) (h : Keeps m u d0 d) :
    Keeps m u d0 (judgeCal x0 x1 x2 x3 x4 d) := by
  unfold judgeCal
  repeat' first
    | with_reducible assumption | exact hm.sub (by decide) | exact hu.sub (by decide) | subst y
    | (extract_lets +onlyGivenNames y; first | (refine (fun _ => ?_) (?_ : Keeps m u d0 y); clear_value y) | subst y)
    | exact Or.inr (hm.bit (by decide)) | with_reducible exact Or.inl rfl | with_reducible exact Imp.refl _
    | (with_reducible refine Imp.mk (fun _ _ hq => ?_); first | (simp at hq ⊢; done) | (simp at hq ⊢; simp [hq]; done))
    | with_reducible exact Or.inr rfl | with_reducible apply setFld_keeps fam_ADC_STATUS_RETIRED
    | with_reducible apply putWord_keeps fam_ADC_CAL_GAIN | with_reducible apply setFld_keeps fam_ADC_STATUS_CAL_FAIL
    | with_reducible apply raise_keeps | with_reducible apply keeps_ite | simp only [keepsMk_iff]
    | with_reducible apply keeps_mk (hw := by with_reducible rfl)

theorem endCover_keeps {m u d0} {x0 d} (hm : Within 7681 m) (hu : Within 0x800000000040000000000002c0000000000000000000000000000000 u) (h : Keeps m u d0 d) :
    Keeps m u d0 (endCover x0 d) := by
  unfold endCover
  repeat' first
    | with_reducible assumption | exact hm.sub (by decide) | exact hu.sub (by decide) | intro _
    | (extract_lets +onlyGivenNames y; first | (refine (fun _ => ?_) (?_ : Keeps m u d0 y); clear_value y) | subst y)
    | exact Or.inr (hm.bit (by decide)) | with_reducible exact Or.inl rfl | with_reducible exact Imp.refl _
    | (with_reducible refine Imp.mk (fun _ _ hq => ?_); first | (simp at hq ⊢; done) | (simp at hq ⊢; simp [hq]; done))
    | with_reducible exact Or.inr rfl | with_reducible apply substitute_keeps | with_reducible apply keeps_ite
    | with_reducible apply keeps_foldl | simp only [keepsMk_iff]
    | with_reducible apply keeps_mk (hw := by with_reducible rfl)

theorem beginCalTest_keeps {m u d0} {d} (hm : Within 5121 m) (hu : Within 0x4000000000000000000000000000000 u) (h : Keeps m u d0 d) :
    Keeps m u d0 (beginCalTest d) := by
  unfold beginCalTest
  repeat' first
    | with_reducible assumption | exact hm.sub (by decide) | exact hu.sub (by decide)
    | with_reducible apply beginCal_keeps | with_reducible apply putAux_keeps | with_reducible apply keeps_ite | split

theorem opCalibrationEnd_keeps {m u d0} {x0 x1 x2 x3 d} (hm : Within 24089 m) (hu : Within 0x800000000040000000000002cc000000000000000000000020000000 u) (h : Keeps m u d0 d) :
    Keeps m u d0 (opCalibrationEnd x0 x1 x2 x3 d) := by
  unfold opCalibrationEnd
  repeat' first
    | with_reducible assumption | exact hm.sub (by decide) | exact hu.sub (by decide) | subst y
    | (extract_lets +onlyGivenNames y; first | (refine (fun _ => ?_) (?_ : Keeps m u d0 y); clear_value y) | subst y)
    | with_reducible apply setFld_keeps fam_BG_STATUS_ST_ACTIVE
    | with_reducible apply setFld_keeps fam_ADC_STATUS_CALIBRATING | with_reducible apply advanceTo_keeps
    | with_reducible apply count_keeps | with_reducible apply judgeCal_keeps | with_reducible apply endCover_keeps
    | with_reducible apply bgRan_keeps | with_reducible apply complete_keeps | with_reducible apply beginCalTest_keeps
    | with_reducible apply keeps_ite | split

theorem opAdcConvert_keeps {m u d0} {x0 d} (hm : Within 3585 m) (hu : Within 0x800000000040000000000002c0000000000000000000000000000000 u) (h : Keeps m u d0 d) :
    Keeps m u d0 (opAdcConvert x0 d) := by
  unfold opAdcConvert
  repeat' first
    | with_reducible assumption | exact hm.sub (by decide) | exact hu.sub (by decide) | intro _
    | (extract_lets +onlyGivenNames y; first | (refine (fun _ => ?_) (?_ : Keeps m u d0 y); clear_value y) | subst y)
    | with_reducible apply judged_keeps | with_reducible apply keepRunning_keeps

theorem opAdcConvertTimeout_keeps {m u d0} {x0 d} (hm : Within 3609 m) (hu : Within 0x800000000040000000000002c0000000000000000000000000000000 u) (h : Keeps m u d0 d) :
    Keeps m u d0 (opAdcConvertTimeout x0 d) := by
  unfold opAdcConvertTimeout
  repeat' first
    | with_reducible assumption | exact hm.sub (by decide) | exact hu.sub (by decide)
    | with_reducible apply complete_keeps | with_reducible apply advanceTo_keeps | split

theorem subscribeWord_keeps {m u d0} {d x1} (hm : Within 4096 m) (hu : Within 0x0 u) (h : Keeps m u d0 d) :
    Keeps m u d0 (subscribeWord d x1) := by
  unfold subscribeWord
  repeat' first
    | with_reducible assumption | exact hm.sub (by decide) | exact hu.sub (by decide)
    | with_reducible apply setSub_keeps

theorem opAdcSubscribe_keeps {m u d0} {x0 d} (hm : Within 7681 m) (hu : Within 0x800000000040000000000002c4000000000000000000000000000000 u) (h : Keeps m u d0 d) :
    Keeps m u d0 (opAdcSubscribe x0 d) := by
  unfold opAdcSubscribe
  repeat' first
    | with_reducible assumption | exact hm.sub (by decide) | exact hu.sub (by decide) | intro _ | subst y
    | (extract_lets +onlyGivenNames y; first | (refine (fun _ => ?_) (?_ : Keeps m u d0 y); clear_value y) | subst y)
    | with_reducible apply setFld_keeps fam_ADC_STATUS_SUBS | with_reducible apply judged_keeps
    | with_reducible apply subscribeWord_keeps | with_reducible apply complete_keeps
    | with_reducible apply keeps_foldl

end Sys2Proof.Machine
end

