-- ==== Sys2Proof/Laws/KGauge.lean ====
section
/-! SUPPORT. Every operation of Machine/Gauge.lean keeps what it does not change (Laws/Keeps.lean). -/

set_option linter.all false
set_option Elab.async false


namespace Sys2Proof.Machine

theorem setDq_keeps {m u d0} {x0 d} (hm : Within 1 m) (hu : Within 0x400000000000000000000000000 u) (h : Keeps m u d0 d) :
    Keeps m u d0 (setDq x0 d) := by
  unfold setDq
  repeat' first
    | with_reducible assumption | exact hm.sub (by decide) | exact hu.sub (by decide)
    | with_reducible apply setFld_keeps fam_LEARN_DQ_DQ

theorem dqBit_keeps {m u d0} {x0 d} (hm : Within 1 m) (hu : Within 0x400000000000000000000000000 u) (h : Keeps m u d0 d) :
    Keeps m u d0 (dqBit x0 d) := by
  unfold dqBit
  repeat' first
    | with_reducible assumption | exact hm.sub (by decide) | exact hu.sub (by decide)
    | with_reducible apply setDq_keeps | with_reducible apply keeps_ite

theorem startTraversal_keeps {m u d0} {x0 d} (hm : Within 131073 m) (hu : Within 0x404000000000000000000000000 u) (h : Keeps m u d0 d) :
    Keeps m u d0 (startTraversal x0 d) := by
  unfold startTraversal
  repeat' first
    | with_reducible assumption | exact hm.sub (by decide) | exact hu.sub (by decide) | subst y
    | (extract_lets +onlyGivenNames y; first | (refine (fun _ => ?_) (?_ : Keeps m u d0 y); clear_value y) | subst y)
    | exact Or.inr (hm.bit (by decide)) | with_reducible exact Or.inl rfl | with_reducible exact Imp.refl _
    | with_reducible exact Or.inr rfl | with_reducible apply setFld_keeps fam_LEARN_DQ_DQ
    | with_reducible apply setFlag_keeps fam_GAUGE_STATUS_LEARN_ACTIVE
    | with_reducible apply setFld_keeps fam_GAUGE_STATUS_LEARN_FROM | simp only [keepsMk_iff]
    | with_reducible apply keeps_mk (hw := by with_reducible rfl)

theorem countRest_keeps {m u d0} {d} (hm : Within 131073 m) (hu : Within 0x400000000000000000000000000 u) (h : Keeps m u d0 d) :
    Keeps m u d0 (countRest d) := by
  unfold countRest
  repeat' first
    | with_reducible assumption | exact hm.sub (by decide) | exact hu.sub (by decide)
    | (extract_lets +onlyGivenNames y; first | (refine (fun _ => ?_) (?_ : Keeps m u d0 y); clear_value y) | subst y)
    | exact Or.inr (hm.bit (by decide)) | with_reducible exact Or.inl rfl | with_reducible exact Imp.refl _
    | with_reducible exact Or.inr rfl | with_reducible apply dqBit_keeps | with_reducible apply keeps_ite
    | simp only [keepsMk_iff] | with_reducible apply keeps_mk (hw := by with_reducible rfl)

theorem judgeRates_keeps {m u d0} {x0 d} (hm : Within 131073 m) (hu : Within 0x400000000000000000000000000 u) (h : Keeps m u d0 d) :
    Keeps m u d0 (judgeRates x0 d) := by
  unfold judgeRates
  repeat' first
    | with_reducible assumption | exact hm.sub (by decide) | exact hu.sub (by decide) | subst y
    | (extract_lets +onlyGivenNames y; first | (refine (fun _ => ?_) (?_ : Keeps m u d0 y); clear_value y) | subst y)
    | with_reducible apply countRest_keeps | with_reducible apply dqBit_keeps | with_reducible apply keeps_ite

theorem endTraversal_keeps {m u d0} {d} (hm : Within 134657 m) (hu : Within 0x800000000040000000000002c0000c10000000000000000000000080 u) (h : Keeps m u d0 d) :
    Keeps m u d0 (endTraversal d) := by
  unfold endTraversal
  repeat' first
    | with_reducible assumption | exact hm.sub (by decide) | exact hu.sub (by decide) | subst y
    | (extract_lets +onlyGivenNames y; first | (refine (fun _ => ?_) (?_ : Keeps m u d0 y); clear_value y) | subst y)
    | with_reducible apply setFld_keeps fam_LEARN_LAST_RESULT | with_reducible apply setFld_keeps fam_GAUGE_FCC_FCC
    | with_reducible apply setFlag_keeps fam_COLD_STATUS_LEARN_NOMINAL
    | with_reducible apply setFld_keeps fam_LEARN_LAST_Q_MEAS | with_reducible apply judgeRates_keeps
    | with_reducible apply raise_keeps | with_reducible apply keeps_ite

theorem meetTraversal_keeps {m u d0} {x0 d} (hm : Within 134657 m) (hu : Within 0x800000000040000000000002c0000c10000000000000000000000080 u) (h : Keeps m u d0 d) :
    Keeps m u d0 (meetTraversal x0 d) := by
  unfold meetTraversal
  repeat' first
    | with_reducible assumption | exact hm.sub (by decide) | exact hu.sub (by decide)
    | with_reducible apply endTraversal_keeps | with_reducible apply keeps_ite

theorem putCharge_keeps {m u d0} {x0 d} (hm : Within 131072 m) (hu : Within 0x0 u) (h : Keeps m u d0 d) :
    Keeps m u d0 (putCharge x0 d) := by
  unfold putCharge
  repeat' first
    | with_reducible assumption | exact hm.sub (by decide) | exact hu.sub (by decide)
    | (extract_lets +onlyGivenNames y; first | (refine (fun _ => ?_) (?_ : Keeps m u d0 y); clear_value y) | subst y)
    | exact Or.inr (hm.bit (by decide)) | with_reducible exact Or.inl rfl | with_reducible exact Imp.refl _
    | with_reducible exact Or.inr rfl | simp only [keepsMk_iff]
    | with_reducible apply keeps_mk (hw := by with_reducible rfl)

theorem fullAnchor_keeps {m u d0} {d} (hm : Within 134657 m) (hu : Within 0x800000000040000000000002c0000dfc000000000000000000000080 u) (h : Keeps m u d0 d) :
    Keeps m u d0 (fullAnchor d) := by
  unfold fullAnchor
  repeat' first
    | with_reducible assumption | exact hm.sub (by decide) | exact hu.sub (by decide) | subst y
    | (extract_lets +onlyGivenNames y; first | (refine (fun _ => ?_) (?_ : Keeps m u d0 y); clear_value y) | subst y)
    | exact Or.inr (hm.bit (by decide)) | with_reducible exact Or.inl rfl | with_reducible exact Imp.refl _
    | with_reducible exact Or.inr rfl | with_reducible apply setFld_keeps fam_GAUGE_STATUS_ANCHOR
    | with_reducible apply setFlag_keeps fam_COLD_STATUS_GAUGE_UNANCHORED | with_reducible apply meetTraversal_keeps
    | with_reducible apply putCharge_keeps | with_reducible apply checkpoint_keeps
    | with_reducible apply gaugeSums_keeps | with_reducible apply startTraversal_keeps
    | with_reducible apply raise_keeps | simp only [keepsMk_iff]
    | with_reducible apply keeps_mk (hw := by with_reducible rfl)

theorem emptyAnchor_keeps {m u d0} {d} (hm : Within 134657 m) (hu : Within 0x800000000040000000000002c0000dfc000000000000000000000080 u) (h : Keeps m u d0 d) :
    Keeps m u d0 (emptyAnchor d) := by
  unfold emptyAnchor
  repeat' first
    | with_reducible assumption | exact hm.sub (by decide) | exact hu.sub (by decide) | subst y
    | (extract_lets +onlyGivenNames y; first | (refine (fun _ => ?_) (?_ : Keeps m u d0 y); clear_value y) | subst y)
    | exact Or.inr (hm.bit (by decide)) | with_reducible exact Or.inl rfl | with_reducible exact Imp.refl _
    | with_reducible exact Or.inr rfl | with_reducible apply putCharge_keeps
    | with_reducible apply meetTraversal_keeps | with_reducible apply checkpoint_keeps
    | with_reducible apply gaugeSums_keeps | with_reducible apply startTraversal_keeps
    | with_reducible apply raise_keeps | simp only [keepsMk_iff]
    | with_reducible apply keeps_mk (hw := by with_reducible rfl)

theorem dropAnchors_keeps {m u d0} {x0 d} (hm : Within 134657 m) (hu : Within 0x800000000040000000000002c00005ec000000000000000000000080 u) (h : Keeps m u d0 d) :
    Keeps m u d0 (dropAnchors x0 d) := by
  unfold dropAnchors
  repeat' first
    | with_reducible assumption | exact hm.sub (by decide) | exact hu.sub (by decide) | subst y
    | (extract_lets +onlyGivenNames y; first | (refine (fun _ => ?_) (?_ : Keeps m u d0 y); clear_value y) | subst y)
    | exact Or.inr (hm.bit (by decide)) | with_reducible exact Or.inl rfl | with_reducible exact Imp.refl _
    | with_reducible exact Or.inr rfl | with_reducible apply setFld_keeps fam_GAUGE_STATUS_ANCHOR
    | with_reducible apply setFlag_keeps fam_COLD_STATUS_GAUGE_UNANCHORED | with_reducible apply putCharge_keeps
    | with_reducible apply setDq_keeps | with_reducible apply checkpoint_keeps | with_reducible apply gaugeSums_keeps
    | with_reducible apply raise_keeps | simp only [keepsMk_iff]
    | with_reducible apply keeps_mk (hw := by with_reducible rfl)

theorem forget_keeps {m u d0} {d} (hm : Within 134657 m) (hu : Within 0x800000000040000000000002c00005fc000000000000000000000080 u) (h : Keeps m u d0 d) :
    Keeps m u d0 (forget d) := by
  unfold forget
  repeat' first
    | with_reducible assumption | exact hm.sub (by decide) | exact hu.sub (by decide) | subst y
    | (extract_lets +onlyGivenNames y; first | (refine (fun _ => ?_) (?_ : Keeps m u d0 y); clear_value y) | subst y)
    | with_reducible apply setFld_keeps fam_GAUGE_FCC_FCC
    | with_reducible apply setFlag_keeps fam_COLD_STATUS_LEARN_NOMINAL | with_reducible apply dropAnchors_keeps

theorem restPassed_keeps {m u d0} {d} (hm : Within 1 m) (hu : Within 0x400000000000000000000000000 u) (h : Keeps m u d0 d) :
    Keeps m u d0 (restPassed d) := by
  unfold restPassed
  repeat' first
    | with_reducible assumption | exact hm.sub (by decide) | exact hu.sub (by decide)
    | with_reducible apply dqBit_keeps | with_reducible apply keeps_ite

theorem recompute_keeps {m u d0} {d} (hm : Within 15437823 m) (hu : Within 0x7fffffffffffffffffffffffffffffffffffffffffffffffffffffffff u) (h : Keeps m u d0 d) :
    Keeps m u d0 (recompute d) := by
  unfold recompute
  repeat' first
    | with_reducible assumption | exact hm.sub (by decide) | exact hu.sub (by decide)
    | with_reducible apply settleMode_keeps | with_reducible apply gaugeSums_keeps
    | with_reducible apply restPassed_keeps

theorem opUnanchoredEnd_keeps {m u d0} {d} (hm : Within 7049215 m) (hu : Within 0x7fffffffffffffffffffffffffffffffffffffffffffffffffffffffff u) (h : Keeps m u d0 d) :
    Keeps m u d0 (opUnanchoredEnd d) := by
  unfold opUnanchoredEnd
  repeat' first
    | with_reducible assumption | exact hm.sub (by decide) | exact hu.sub (by decide)
    | with_reducible apply descendNow_keeps | with_reducible apply keeps_ite

theorem endPart_keeps {m u d0} {d} (hm : Within 7049215 m) (hu : Within 0x7fffffffffffffffffffffffffffffffffffffffffffffffffffffffff u) (h : Keeps m u d0 d) :
    Keeps m u d0 (endPart d) := by
  unfold endPart
  repeat' first
    | with_reducible assumption | exact hm.sub (by decide) | exact hu.sub (by decide) | subst y
    | (extract_lets +onlyGivenNames y; first | (refine (fun _ => ?_) (?_ : Keeps m u d0 y); clear_value y) | subst y)
    | with_reducible apply dropPart_keeps | with_reducible apply descendNow_keeps | with_reducible apply keeps_ite

theorem addErr_keeps {m u d0} {x0 d} (hm : Within 131072 m) (hu : Within 0x0 u) (h : Keeps m u d0 d) :
    Keeps m u d0 (addErr x0 d) := by
  unfold addErr
  repeat' first
    | with_reducible assumption | exact hm.sub (by decide) | exact hu.sub (by decide)
    | (extract_lets +onlyGivenNames y; first | (refine (fun _ => ?_) (?_ : Keeps m u d0 y); clear_value y) | subst y)
    | exact Or.inr (hm.bit (by decide)) | with_reducible exact Or.inl rfl | with_reducible exact Imp.refl _
    | with_reducible exact Or.inr rfl | simp only [keepsMk_iff]
    | with_reducible apply keeps_mk (hw := by with_reducible rfl)

theorem convert_keeps {m u d0} {x0 d} (hm : Within 131073 m) (hu : Within 0x200000000000000000000000000 u) (h : Keeps m u d0 d) :
    Keeps m u d0 (convert x0 d) := by
  unfold convert
  repeat' first
    | with_reducible assumption | exact hm.sub (by decide) | exact hu.sub (by decide) | subst y
    | (extract_lets +onlyGivenNames y; first | (refine (fun _ => ?_) (?_ : Keeps m u d0 y); clear_value y) | subst y)
    | exact Or.inr (hm.bit (by decide)) | with_reducible exact Or.inl rfl | with_reducible exact Imp.refl _
    | with_reducible exact Or.inr rfl | with_reducible apply setFld_keeps fam_GAUGE_I_I_PACK
    | with_reducible apply addErr_keeps | simp only [keepsMk_iff]
    | with_reducible apply keeps_mk (hw := by with_reducible rfl)

theorem emptySample_keeps {m u d0} {x0 d} (hm : Within 134657 m) (hu : Within 0x800000000040000000000002c0000dfc000000000000000000000080 u) (h : Keeps m u d0 d) :
    Keeps m u d0 (emptySample x0 d) := by
  unfold emptySample
  repeat' first
    | with_reducible assumption | exact hm.sub (by decide) | exact hu.sub (by decide) | subst y
    | (extract_lets +onlyGivenNames y; first | (refine (fun _ => ?_) (?_ : Keeps m u d0 y); clear_value y) | subst y)
    | exact Or.inr (hm.bit (by decide)) | with_reducible exact Or.inl rfl | with_reducible exact Imp.refl _
    | with_reducible exact Or.inr rfl | with_reducible apply emptyAnchor_keeps | with_reducible apply keeps_ite
    | simp only [keepsMk_iff] | with_reducible apply keeps_mk (hw := by with_reducible rfl)

theorem enterQuiet_keeps {m u d0} {d} (hm : Within 131073 m) (hu : Within 0x4000000000000000000000000 u) (h : Keeps m u d0 d) :
    Keeps m u d0 (enterQuiet d) := by
  unfold enterQuiet
  repeat' first
    | with_reducible assumption | exact hm.sub (by decide) | exact hu.sub (by decide) | subst y
    | (extract_lets +onlyGivenNames y; first | (refine (fun _ => ?_) (?_ : Keeps m u d0 y); clear_value y) | subst y)
    | exact Or.inr (hm.bit (by decide)) | with_reducible exact Or.inl rfl | with_reducible exact Imp.refl _
    | with_reducible exact Or.inr rfl | with_reducible apply setFlag_keeps fam_GAUGE_STATUS_QUIET
    | simp only [keepsMk_iff] | with_reducible apply keeps_mk (hw := by with_reducible rfl)

theorem leaveQuiet_keeps {m u d0} {d} (hm : Within 131073 m) (hu : Within 0x404000000000000000000000000 u) (h : Keeps m u d0 d) :
    Keeps m u d0 (leaveQuiet d) := by
  unfold leaveQuiet
  repeat' first
    | with_reducible assumption | exact hm.sub (by decide) | exact hu.sub (by decide) | subst y
    | (extract_lets +onlyGivenNames y; first | (refine (fun _ => ?_) (?_ : Keeps m u d0 y); clear_value y) | subst y)
    | exact Or.inr (hm.bit (by decide)) | with_reducible exact Or.inl rfl | with_reducible exact Imp.refl _
    | with_reducible exact Or.inr rfl | with_reducible apply setFlag_keeps fam_GAUGE_STATUS_QUIET
    | with_reducible apply countRest_keeps | simp only [keepsMk_iff]
    | with_reducible apply keeps_mk (hw := by with_reducible rfl)

theorem opGaugeConversion_keeps {m u d0} {x0 d} (hm : Within 15437823 m) (hu : Within 0x7fffffffffffffffffffffffffffffffffffffffffffffffffffffffff u) (h : Keeps m u d0 d) :
    Keeps m u d0 (opGaugeConversion x0 d) := by
  unfold opGaugeConversion
  repeat' first
    | with_reducible assumption | exact hm.sub (by decide) | exact hu.sub (by decide) | subst y
    | (extract_lets +onlyGivenNames y; first | (refine (fun _ => ?_) (?_ : Keeps m u d0 y); clear_value y) | subst y)
    | exact Or.inr (hm.bit (by decide)) | with_reducible exact Or.inl rfl | with_reducible exact Imp.refl _
    | with_reducible exact Or.inr rfl | with_reducible apply convert_keeps | with_reducible apply enterQuiet_keeps
    | with_reducible apply recompute_keeps | with_reducible apply emptySample_keeps | with_reducible apply keeps_ite
    | simp only [keepsMk_iff] | with_reducible apply keeps_mk (hw := by with_reducible rfl)

theorem opQuietConversion_keeps {m u d0} {x0 d} (hm : Within 15437823 m) (hu : Within 0x7fffffffffffffffffffffffffffffffffffffffffffffffffffffffff u) (h : Keeps m u d0 d) :
    Keeps m u d0 (opQuietConversion x0 d) := by
  unfold opQuietConversion
  repeat' first
    | with_reducible assumption | exact hm.sub (by decide) | exact hu.sub (by decide) | subst y
    | (extract_lets +onlyGivenNames y; first | (refine (fun _ => ?_) (?_ : Keeps m u d0 y); clear_value y) | subst y)
    | exact Or.inr (hm.bit (by decide)) | with_reducible exact Or.inl rfl | with_reducible exact Imp.refl _
    | with_reducible exact Or.inr rfl | with_reducible apply addErr_keeps | with_reducible apply recompute_keeps
    | with_reducible apply convert_keeps | with_reducible apply keeps_ite | simp only [keepsMk_iff]
    | with_reducible apply keeps_mk (hw := by with_reducible rfl)

theorem opQuietExit_keeps {m u d0} {d} (hm : Within 15437823 m) (hu : Within 0x7fffffffffffffffffffffffffffffffffffffffffffffffffffffffff u) (h : Keeps m u d0 d) :
    Keeps m u d0 (opQuietExit d) := by
  unfold opQuietExit
  repeat' first
    | with_reducible assumption | exact hm.sub (by decide) | exact hu.sub (by decide) | subst y
    | (extract_lets +onlyGivenNames y; first | (refine (fun _ => ?_) (?_ : Keeps m u d0 y); clear_value y) | subst y)
    | exact Or.inr (hm.bit (by decide)) | with_reducible exact Or.inl rfl | with_reducible exact Imp.refl _
    | with_reducible exact Or.inr rfl | with_reducible apply addErr_keeps | with_reducible apply recompute_keeps
    | with_reducible apply leaveQuiet_keeps | with_reducible apply keeps_ite | simp only [keepsMk_iff]
    | with_reducible apply keeps_mk (hw := by with_reducible rfl)

theorem opEmptyRearm_keeps {m u d0} {d} (hm : Within 131072 m) (hu : Within 0x0 u) (h : Keeps m u d0 d) :
    Keeps m u d0 (opEmptyRearm d) := by
  unfold opEmptyRearm
  repeat' first
    | with_reducible assumption | exact hm.sub (by decide) | exact hu.sub (by decide)
    | (extract_lets +onlyGivenNames y; first | (refine (fun _ => ?_) (?_ : Keeps m u d0 y); clear_value y) | subst y)
    | exact Or.inr (hm.bit (by decide)) | with_reducible exact Or.inl rfl | with_reducible exact Imp.refl _
    | with_reducible exact Or.inr rfl | with_reducible apply keeps_ite | simp only [keepsMk_iff]
    | with_reducible apply keeps_mk (hw := by with_reducible rfl)

theorem opReserveRecompute_keeps {m u d0} {d} (hm : Within 15437823 m) (hu : Within 0x7fffffffffffffffffffffffffffffffffffffffffffffffffffffffff u) (h : Keeps m u d0 d) :
    Keeps m u d0 (opReserveRecompute d) := by
  unfold opReserveRecompute
  repeat' first
    | with_reducible assumption | exact hm.sub (by decide) | exact hu.sub (by decide)
    | with_reducible apply recompute_keeps | with_reducible apply keeps_ite

theorem opGaugeCheckpoint_keeps {m u d0} {d} (hm : Within 131072 m) (hu : Within 0x0 u) (h : Keeps m u d0 d) :
    Keeps m u d0 (opGaugeCheckpoint d) := by
  unfold opGaugeCheckpoint
  repeat' first
    | with_reducible assumption | exact hm.sub (by decide) | exact hu.sub (by decide)
    | with_reducible apply checkpoint_keeps | with_reducible apply keeps_ite

theorem askEnd_keeps {m u d0} {x0 d} (hm : Within 101889 m) (hu : Within 0x800000000040088000000002c00001ec220000000000000000000000 u) (h : Keeps m u d0 d) :
    Keeps m u d0 (askEnd x0 d) := by
  unfold askEnd
  repeat' first
    | with_reducible assumption | exact hm.sub (by decide) | exact hu.sub (by decide) | subst y
    | (extract_lets +onlyGivenNames y; first | (refine (fun _ => ?_) (?_ : Keeps m u d0 y); clear_value y) | subst y)
    | with_reducible apply cancelSwap_keeps | with_reducible apply sendReject_keeps | with_reducible apply keeps_ite

theorem sourceToSink_keeps {m u d0} {d} (hm : Within 65537 m) (hu : Within 0x800000000000000000000000000000000000000000 u) (h : Keeps m u d0 d) :
    Keeps m u d0 (sourceToSink d) := by
  unfold sourceToSink
  repeat' first
    | with_reducible assumption | exact hm.sub (by decide) | exact hu.sub (by decide)
    | (extract_lets +onlyGivenNames y; first | (refine (fun _ => ?_) (?_ : Keeps m u d0 y); clear_value y) | subst y)
    | exact Or.inr (hm.bit (by decide)) | with_reducible exact Or.inl rfl | with_reducible exact Imp.refl _
    | (with_reducible refine Imp.mk (fun _ _ hq => ?_); first | (simp at hq ⊢; done) | (simp at hq ⊢; simp [hq]; done))
    | with_reducible exact Or.inr rfl | with_reducible apply setRole_keeps | with_reducible apply setSw_keeps
    | simp only [keepsMk_iff] | with_reducible apply keeps_mk (hw := by with_reducible rfl)

theorem bkStopped_keeps {m u d0} {d} (hm : Within 101889 m) (hu : Within 0x800000000040088000000002c00001ec220000000000000000000000 u) (h : Keeps m u d0 d) :
    Keeps m u d0 (bkStopped d) := by
  unfold bkStopped
  repeat' first
    | with_reducible assumption | exact hm.sub (by decide) | exact hu.sub (by decide) | subst y
    | (extract_lets +onlyGivenNames y; first | (refine (fun _ => ?_) (?_ : Keeps m u d0 y); clear_value y) | subst y)
    | with_reducible apply setFlag_keeps fam_VLY_STATUS_FS_ARMED | with_reducible apply raise_keeps
    | with_reducible apply sourceToSink_keeps | with_reducible apply askEnd_keeps | with_reducible apply setSw_keeps
    | with_reducible apply keeps_ite

end Sys2Proof.Machine
end

