-- ==== Sys2Proof/Laws/KPower.lean ====
section
/-! SUPPORT. Every operation of Machine/Power.lean keeps what it does not change (Laws/Keeps.lean). -/

set_option linter.all false
set_option Elab.async false


namespace Sys2Proof.Machine

theorem chgTo_keeps {m u d0} {x0 d} (hm : Within 265729 m) (hu : Within 0x800000000040000000000002c0000000040000000000000000000000 u) (h : Keeps m u d0 d) :
    Keeps m u d0 (chgTo x0 d) := by
  unfold chgTo
  repeat' first
    | with_reducible assumption | exact hm.sub (by decide) | exact hu.sub (by decide) | subst y
    | (extract_lets +onlyGivenNames y; first | (refine (fun _ => ?_) (?_ : Keeps m u d0 y); clear_value y) | subst y)
    | exact Or.inr (hm.bit (by decide)) | with_reducible exact Or.inl rfl | with_reducible exact Imp.refl _
    | with_reducible exact Or.inr rfl | with_reducible apply setFld_keeps fam_CHG_STATUS_SUSP_WHY
    | with_reducible apply setFld_keeps fam_CHG_STATUS_CHG_STATE | with_reducible apply raise_keeps
    | with_reducible apply keeps_ite | simp only [keepsMk_iff]
    | with_reducible apply keeps_mk (hw := by with_reducible rfl)

theorem putZone_keeps {m u d0} {x0 d} (hm : Within 3585 m) (hu : Within 0x800000000040000000000002c0000000040000000000000000000000 u) (h : Keeps m u d0 d) :
    Keeps m u d0 (putZone x0 d) := by
  unfold putZone
  repeat' first
    | with_reducible assumption | exact hm.sub (by decide) | exact hu.sub (by decide)
    | with_reducible apply setFld_keeps fam_CHG_STATUS_ZONE | with_reducible apply raise_keeps
    | with_reducible apply keeps_ite

theorem evalZone_keeps {m u d0} {d} (hm : Within 265729 m) (hu : Within 0x800000000040000000000002c0000000040000000000000000000000 u) (h : Keeps m u d0 d) :
    Keeps m u d0 (evalZone d) := by
  unfold evalZone
  repeat' first
    | with_reducible assumption | exact hm.sub (by decide) | exact hu.sub (by decide)
    | (extract_lets +onlyGivenNames y; first | (refine (fun _ => ?_) (?_ : Keeps m u d0 y); clear_value y) | subst y)
    | exact Or.inr (hm.bit (by decide)) | with_reducible exact Or.inl rfl | with_reducible exact Imp.refl _
    | with_reducible exact Or.inr rfl | with_reducible apply putZone_keeps | simp only [keepsMk_iff]
    | with_reducible apply keeps_mk (hw := by with_reducible rfl) | split

theorem travTick_keeps {m u d0} {d} (hm : Within 131072 m) (hu : Within 0x0 u) (h : Keeps m u d0 d) :
    Keeps m u d0 (travTick d) := by
  unfold travTick
  repeat' first
    | with_reducible assumption | exact hm.sub (by decide) | exact hu.sub (by decide)
    | (extract_lets +onlyGivenNames y; first | (refine (fun _ => ?_) (?_ : Keeps m u d0 y); clear_value y) | subst y)
    | exact Or.inr (hm.bit (by decide)) | with_reducible exact Or.inl rfl | with_reducible exact Imp.refl _
    | with_reducible exact Or.inr rfl | with_reducible apply keeps_ite | simp only [keepsMk_iff]
    | with_reducible apply keeps_mk (hw := by with_reducible rfl)

theorem bkCharge_keeps {m u d0} {d} (hm : Within 1 m) (hu : Within 0x220000000000000000000000 u) (h : Keeps m u d0 d) :
    Keeps m u d0 (bkCharge d) := by
  unfold bkCharge
  repeat' first
    | with_reducible assumption | exact hm.sub (by decide) | exact hu.sub (by decide)
    | (extract_lets +onlyGivenNames y; first | (refine (fun _ => ?_) (?_ : Keeps m u d0 y); clear_value y) | subst y)
    | with_reducible apply setBk_keeps | with_reducible apply keeps_ite

theorem newCycle_keeps {m u d0} {d} (hm : Within 262144 m) (hu : Within 0x0 u) (h : Keeps m u d0 d) :
    Keeps m u d0 (newCycle d) := by
  unfold newCycle
  repeat' first
    | with_reducible assumption | exact hm.sub (by decide) | exact hu.sub (by decide)
    | (extract_lets +onlyGivenNames y; first | (refine (fun _ => ?_) (?_ : Keeps m u d0 y); clear_value y) | subst y)
    | exact Or.inr (hm.bit (by decide)) | with_reducible exact Or.inl rfl | with_reducible exact Imp.refl _
    | with_reducible exact Or.inr rfl | simp only [keepsMk_iff]
    | with_reducible apply keeps_mk (hw := by with_reducible rfl)

theorem qualify_keeps {m u d0} {d} (hm : Within 265729 m) (hu : Within 0x800000000040000000000002c0000000360000000000000000000000 u) (h : Keeps m u d0 d) :
    Keeps m u d0 (qualify d) := by
  unfold qualify
  repeat' first
    | with_reducible assumption | exact hm.sub (by decide) | exact hu.sub (by decide) | subst y
    | (extract_lets +onlyGivenNames y; first | (refine (fun _ => ?_) (?_ : Keeps m u d0 y); clear_value y) | subst y)
    | exact Or.inr (hm.bit (by decide)) | with_reducible exact Or.inl rfl | with_reducible exact Imp.refl _
    | with_reducible exact Or.inr rfl | with_reducible apply setFlag_keeps fam_BK_STATUS_CUTOFF
    | with_reducible apply setFlag_keeps fam_BK_STATUS_PACK_PRESENT
    | with_reducible apply setFlag_keeps fam_CHG_FAULT_CHG_TIMEOUT
    | with_reducible apply setFlag_keeps fam_CHG_FAULT_PACK_OV | with_reducible apply chgTo_keeps
    | with_reducible apply raise_keeps | with_reducible apply setBk_keeps | with_reducible apply bkCharge_keeps
    | with_reducible apply newCycle_keeps | with_reducible apply keeps_ite | simp only [keepsMk_iff]
    | with_reducible apply keeps_mk (hw := by with_reducible rfl)

theorem fourTicks_keeps {m u d0} {x0 x1 d} (hm : Within 262144 m) (hu : Within 0x0 u) (h : Keeps m u d0 d) (hk : ∀ d, Keeps m u d0 d → Keeps m u d0 (x1 d)) :
    Keeps m u d0 (fourTicks x0 x1 d) := by
  unfold fourTicks
  repeat' first
    | with_reducible assumption | exact hm.sub (by decide) | exact hu.sub (by decide)
    | (extract_lets +onlyGivenNames y; first | (refine (fun _ => ?_) (?_ : Keeps m u d0 y); clear_value y) | subst y)
    | exact Or.inr (hm.bit (by decide)) | with_reducible exact Or.inl rfl | with_reducible exact Imp.refl _
    | with_reducible exact Or.inr rfl | with_reducible apply hk | with_reducible apply keeps_ite
    | simp only [keepsMk_iff] | with_reducible apply keeps_mk (hw := by with_reducible rfl)

theorem chgMove_keeps {m u d0} {d} (hm : Within 265729 m) (hu : Within 0x800000000040000000000002c0000000360000000000000000000000 u) (h : Keeps m u d0 d) :
    Keeps m u d0 (chgMove d) := by
  unfold chgMove
  repeat' first
    | with_reducible assumption | exact hm.sub (by decide) | exact hu.sub (by decide) | intro _
    | (extract_lets +onlyGivenNames y; first | (refine (fun _ => ?_) (?_ : Keeps m u d0 y); clear_value y) | subst y)
    | exact Or.inr (hm.bit (by decide)) | with_reducible exact Or.inl rfl | with_reducible exact Imp.refl _
    | with_reducible exact Or.inr rfl | with_reducible apply setFld_keeps fam_CHG_STATUS_SUSP_WHY
    | with_reducible apply chgTo_keeps | with_reducible apply qualify_keeps | with_reducible apply fourTicks_keeps
    | with_reducible apply newCycle_keeps | with_reducible apply keeps_ite | simp only [keepsMk_iff]
    | with_reducible apply keeps_mk (hw := by with_reducible rfl)

theorem chgTimers_keeps {m u d0} {d} (hm : Within 262145 m) (hu : Within 0xc0000000000000000000000 u) (h : Keeps m u d0 d) :
    Keeps m u d0 (chgTimers d) := by
  unfold chgTimers
  repeat' first
    | with_reducible assumption | exact hm.sub (by decide) | exact hu.sub (by decide) | subst y
    | (extract_lets +onlyGivenNames y; first | (refine (fun _ => ?_) (?_ : Keeps m u d0 y); clear_value y) | subst y)
    | exact Or.inr (hm.bit (by decide)) | with_reducible exact Or.inl rfl | with_reducible exact Imp.refl _
    | with_reducible exact Or.inr rfl | with_reducible apply setFld_keeps fam_CHG_TIMER_WALL
    | with_reducible apply setFld_keeps fam_CHG_TIMER_SAFETY
    | with_reducible apply setFlag_keeps fam_CHG_STATUS_HALF_RATE | with_reducible apply keeps_ite
    | simp only [keepsMk_iff] | with_reducible apply keeps_mk (hw := by with_reducible rfl)

theorem chgTarget_keeps {m u d0} {x0 x1 d} (hm : Within 1 m) (hu : Within 0x220000000000000000000000 u) (h : Keeps m u d0 d) :
    Keeps m u d0 (chgTarget x0 x1 d) := by
  unfold chgTarget
  repeat' first
    | with_reducible assumption | exact hm.sub (by decide) | exact hu.sub (by decide) | subst y
    | (extract_lets +onlyGivenNames y; first | (refine (fun _ => ?_) (?_ : Keeps m u d0 y); clear_value y) | subst y)
    | with_reducible apply setFlag_keeps fam_BK_STATUS_INLIM
    | with_reducible apply setFlag_keeps fam_BK_STATUS_HOLD_PRIO
    | with_reducible apply setFld_keeps fam_CHG_IEFF_I_TARGET | with_reducible apply setFld_keeps fam_CHG_IEFF_LIMITER

theorem chgTerm_keeps {m u d0} {d} (hm : Within 262145 m) (hu : Within 0x40000000000000000000000 u) (h : Keeps m u d0 d) :
    Keeps m u d0 (chgTerm d) := by
  unfold chgTerm
  repeat' first
    | with_reducible assumption | exact hm.sub (by decide) | exact hu.sub (by decide)
    | (extract_lets +onlyGivenNames y; first | (refine (fun _ => ?_) (?_ : Keeps m u d0 y); clear_value y) | subst y)
    | exact Or.inr (hm.bit (by decide)) | with_reducible exact Or.inl rfl | with_reducible exact Imp.refl _
    | with_reducible exact Or.inr rfl | with_reducible apply setFlag_keeps fam_CHG_STATUS_TERM_COUNTING
    | with_reducible apply keeps_ite | simp only [keepsMk_iff]
    | with_reducible apply keeps_mk (hw := by with_reducible rfl)

theorem opChargerTick_keeps {m u d0} {x0 x1 d} (hm : Within 396801 m) (hu : Within 0x800000000040000000000002c00000003e0000000000000000000000 u) (h : Keeps m u d0 d) :
    Keeps m u d0 (opChargerTick x0 x1 d) := by
  unfold opChargerTick
  repeat' first
    | with_reducible assumption | exact hm.sub (by decide) | exact hu.sub (by decide) | subst y
    | (extract_lets +onlyGivenNames y; first | (refine (fun _ => ?_) (?_ : Keeps m u d0 y); clear_value y) | subst y)
    | exact Or.inr (hm.bit (by decide)) | with_reducible exact Or.inl rfl | with_reducible exact Imp.refl _
    | with_reducible exact Or.inr rfl | with_reducible apply travTick_keeps | with_reducible apply evalZone_keeps
    | with_reducible apply chgTerm_keeps | with_reducible apply chgTarget_keeps | with_reducible apply bkCharge_keeps
    | with_reducible apply chgMove_keeps | with_reducible apply chgTimers_keeps | with_reducible apply keeps_ite
    | simp only [keepsMk_iff] | with_reducible apply keeps_mk (hw := by with_reducible rfl)

theorem opPackNtcConversion_keeps {m u d0} {x0 d} (hm : Within 265729 m) (hu : Within 0x800000000040000000000002c0000000100000000000000000000000 u) (h : Keeps m u d0 d) :
    Keeps m u d0 (opPackNtcConversion x0 d) := by
  unfold opPackNtcConversion
  repeat' first
    | with_reducible assumption | exact hm.sub (by decide) | exact hu.sub (by decide)
    | (extract_lets +onlyGivenNames y; first | (refine (fun _ => ?_) (?_ : Keeps m u d0 y); clear_value y) | subst y)
    | exact Or.inr (hm.bit (by decide)) | with_reducible exact Or.inl rfl | with_reducible exact Imp.refl _
    | with_reducible exact Or.inr rfl | with_reducible apply setFlag_keeps fam_CHG_FAULT_NTC_SHORT
    | with_reducible apply raise_keeps | with_reducible apply keeps_ite | simp only [keepsMk_iff]
    | with_reducible apply keeps_mk (hw := by with_reducible rfl)

theorem opPackRemoved_keeps {m u d0} {x0 d} (hm : Within 10980865 m) (hu : Within 0x8000000002c0088000000002c00005ec360000000000000000000080 u) (h : Keeps m u d0 d) :
    Keeps m u d0 (opPackRemoved x0 d) := by
  unfold opPackRemoved
  repeat' first
    | with_reducible assumption | exact hm.sub (by decide) | exact hu.sub (by decide) | subst y
    | (extract_lets +onlyGivenNames y; first | (refine (fun _ => ?_) (?_ : Keeps m u d0 y); clear_value y) | subst y)
    | exact Or.inr (hm.bit (by decide)) | with_reducible exact Or.inl rfl | with_reducible exact Imp.refl _
    | with_reducible exact Or.inr rfl | with_reducible apply setFlag_keeps fam_CHG_FAULT_REMOVED
    | with_reducible apply setFlag_keeps fam_BK_STATUS_PACK_PRESENT
    | with_reducible apply setFlag_keeps fam_CHG_FAULT_PACK_OV | with_reducible apply chgTo_keeps
    | with_reducible apply setBk_keeps | with_reducible apply raise_keeps | with_reducible apply gutter_keeps
    | with_reducible apply putZone_keeps | with_reducible apply bkStopped_keeps
    | with_reducible apply dropAnchors_keeps | with_reducible apply keeps_ite | simp only [keepsMk_iff]
    | with_reducible apply keeps_mk (hw := by with_reducible rfl)

theorem opChgDone_keeps {m u d0} {x0 d} (hm : Within 10980865 m) (hu : Within 0x8000000002c0088000000002c0000dfc360000000000000000000080 u) (h : Keeps m u d0 d) :
    Keeps m u d0 (opChgDone x0 d) := by
  unfold opChgDone
  repeat' first
    | with_reducible assumption | exact hm.sub (by decide) | exact hu.sub (by decide) | subst y
    | (extract_lets +onlyGivenNames y; first | (refine (fun _ => ?_) (?_ : Keeps m u d0 y); clear_value y) | subst y)
    | with_reducible apply setFlag_keeps fam_CHG_STATUS_DONE_REDUCED
    | with_reducible apply setFlag_keeps fam_CHG_STATUS_TERM_COUNTING | with_reducible apply opPackRemoved_keeps
    | with_reducible apply bkCharge_keeps | with_reducible apply raise_keeps | with_reducible apply chgTo_keeps
    | with_reducible apply fullAnchor_keeps | with_reducible apply keeps_ite

theorem opChgTimeout_keeps {m u d0} {d} (hm : Within 10489345 m) (hu : Within 0x8000000002c0000000000002c0000000100000000000000000000000 u) (h : Keeps m u d0 d) :
    Keeps m u d0 (opChgTimeout d) := by
  unfold opChgTimeout
  repeat' first
    | with_reducible assumption | exact hm.sub (by decide) | exact hu.sub (by decide) | subst y
    | (extract_lets +onlyGivenNames y; first | (refine (fun _ => ?_) (?_ : Keeps m u d0 y); clear_value y) | subst y)
    | with_reducible apply setFlag_keeps fam_CHG_FAULT_FAST_TIMEOUT
    | with_reducible apply setFlag_keeps fam_CHG_FAULT_PRE_TIMEOUT
    | with_reducible apply setFlag_keeps fam_CHG_FAULT_CHG_TIMEOUT | with_reducible apply gutter_keeps
    | with_reducible apply raise_keeps | with_reducible apply keeps_ite

theorem wdRestart_keeps {m u d0} {d} (hm : Within 262144 m) (hu : Within 0x0 u) (h : Keeps m u d0 d) :
    Keeps m u d0 (wdRestart d) := by
  unfold wdRestart
  repeat' first
    | with_reducible assumption | exact hm.sub (by decide) | exact hu.sub (by decide)
    | (extract_lets +onlyGivenNames y; first | (refine (fun _ => ?_) (?_ : Keeps m u d0 y); clear_value y) | subst y)
    | exact Or.inr (hm.bit (by decide)) | with_reducible exact Or.inl rfl | with_reducible exact Imp.refl _
    | with_reducible exact Or.inr rfl | simp only [keepsMk_iff]
    | with_reducible apply keeps_mk (hw := by with_reducible rfl)

theorem chargerTouch_keeps {m u d0} {x0 d} (hm : Within 262144 m) (hu : Within 0x0 u) (h : Keeps m u d0 d) :
    Keeps m u d0 (chargerTouch x0 d) := by
  unfold chargerTouch
  repeat' first
    | with_reducible assumption | exact hm.sub (by decide) | exact hu.sub (by decide)
    | (extract_lets +onlyGivenNames y; first | (refine (fun _ => ?_) (?_ : Keeps m u d0 y); clear_value y) | subst y)
    | exact Or.inr (hm.bit (by decide)) | with_reducible exact Or.inl rfl | with_reducible exact Imp.refl _
    | with_reducible exact Or.inr rfl | with_reducible apply wdRestart_keeps | simp only [keepsMk_iff]
    | with_reducible apply keeps_mk (hw := by with_reducible rfl) | split

theorem opChgWdExpired_keeps {m u d0} {d} (hm : Within 265753 m) (hu : Within 0x800000000040000000000002c0000000140000000000000000000000 u) (h : Keeps m u d0 d) :
    Keeps m u d0 (opChgWdExpired d) := by
  unfold opChgWdExpired
  repeat' first
    | with_reducible assumption | exact hm.sub (by decide) | exact hu.sub (by decide) | subst y
    | (extract_lets +onlyGivenNames y; first | (refine (fun _ => ?_) (?_ : Keeps m u d0 y); clear_value y) | subst y)
    | exact Or.inr (hm.bit (by decide)) | with_reducible exact Or.inl rfl | with_reducible exact Imp.refl _
    | with_reducible exact Or.inr rfl | with_reducible apply setFlag_keeps fam_CHG_STATUS_WD_SAFE
    | with_reducible apply setFlag_keeps fam_CHG_FAULT_WD_EXPIRED | with_reducible apply advanceTo_keeps
    | with_reducible apply raise_keeps | with_reducible apply keeps_ite | simp only [keepsMk_iff]
    | with_reducible apply keeps_mk (hw := by with_reducible rfl)

theorem opChgKick_keeps {m u d0} {x0 d} (hm : Within 265729 m) (hu : Within 0x800000000040000000000002c0000000000000000000000000000000 u) (h : Keeps m u d0 d) :
    Keeps m u d0 (opChgKick x0 d) := by
  unfold opChgKick
  repeat' first
    | with_reducible assumption | exact hm.sub (by decide) | exact hu.sub (by decide) | intro _
    | with_reducible apply judged_keeps | with_reducible apply complete_keeps
    | with_reducible apply chargerTouch_keeps

theorem chgClear_keeps {m u d0} {x0 d} (hm : Within 265729 m) (hu : Within 0x800000000040000000000002c0000000360000000000000000000000 u) (h : Keeps m u d0 d) :
    Keeps m u d0 (chgClear x0 d) := by
  unfold chgClear
  repeat' first
    | with_reducible assumption | exact hm.sub (by decide) | exact hu.sub (by decide) | subst y
    | (extract_lets +onlyGivenNames y; first | (refine (fun _ => ?_) (?_ : Keeps m u d0 y); clear_value y) | subst y)
    | exact Or.inr (hm.bit (by decide)) | with_reducible exact Or.inl rfl | with_reducible exact Imp.refl _
    | with_reducible exact Or.inr rfl | with_reducible apply setW_keeps at_CHG_FAULT
    | with_reducible apply chargerTouch_keeps | with_reducible apply setBk_keeps | with_reducible apply chgTo_keeps
    | with_reducible apply complete_keeps | with_reducible apply keeps_ite | simp only [keepsMk_iff]
    | with_reducible apply keeps_mk (hw := by with_reducible rfl)

theorem opChgClear_keeps {m u d0} {x0 d} (hm : Within 265753 m) (hu : Within 0x800000000040000000000002c0000000360000000000000000000000 u) (h : Keeps m u d0 d) :
    Keeps m u d0 (opChgClear x0 d) := by
  unfold opChgClear
  repeat' first
    | with_reducible assumption | exact hm.sub (by decide) | exact hu.sub (by decide) | intro _
    | with_reducible apply gated_keeps | with_reducible apply chgClear_keeps

theorem boost_keeps {m u d0} {x0 d} (hm : Within 1 m) (hu : Within 0x220000000000000000000000 u) (h : Keeps m u d0 d) :
    Keeps m u d0 (boost x0 d) := by
  unfold boost
  repeat' first
    | with_reducible assumption | exact hm.sub (by decide) | exact hu.sub (by decide)
    | (extract_lets +onlyGivenNames y; first | (refine (fun _ => ?_) (?_ : Keeps m u d0 y); clear_value y) | subst y)
    | with_reducible apply setBk_keeps | with_reducible apply keeps_ite

theorem restBk_keeps {m u d0} {d} (hm : Within 1 m) (hu : Within 0x220000000000000000000000 u) (h : Keeps m u d0 d) :
    Keeps m u d0 (restBk d) := by
  unfold restBk
  repeat' first
    | with_reducible assumption | exact hm.sub (by decide) | exact hu.sub (by decide) | subst y
    | (extract_lets +onlyGivenNames y; first | (refine (fun _ => ?_) (?_ : Keeps m u d0 y); clear_value y) | subst y)
    | with_reducible apply setBk_keeps | with_reducible apply standbyBoost_keeps | with_reducible apply keeps_ite

theorem inputLost_keeps {m u d0} {d} (hm : Within 15437823 m) (hu : Within 0x7fffffffffffffffffffffffffffffffffffffffffffffffffffffffff u) (h : Keeps m u d0 d) :
    Keeps m u d0 (inputLost d) := by
  unfold inputLost
  repeat' first
    | with_reducible assumption | exact hm.sub (by decide) | exact hu.sub (by decide)
    | with_reducible apply setFlag_keeps fam_MODE_STATUS_HOLDUP_PENDING | with_reducible apply descendNow_keeps
    | with_reducible apply settleMode_keeps | with_reducible apply keeps_ite

theorem opVsupLost_keeps {m u d0} {x0 d} (hm : Within 15437823 m) (hu : Within 0x7fffffffffffffffffffffffffffffffffffffffffffffffffffffffff u) (h : Keeps m u d0 d) :
    Keeps m u d0 (opVsupLost x0 d) := by
  unfold opVsupLost
  repeat' first
    | with_reducible assumption | exact hm.sub (by decide) | exact hu.sub (by decide) | subst y
    | (extract_lets +onlyGivenNames y; first | (refine (fun _ => ?_) (?_ : Keeps m u d0 y); clear_value y) | subst y)
    | with_reducible apply setFlag_keeps fam_BK_STATUS_VSUP_LOW | with_reducible apply inputLost_keeps
    | with_reducible apply raise_keeps | with_reducible apply boost_keeps | with_reducible apply keeps_ite

theorem opVsupLostInReset_keeps {m u d0} {x0 x1 d} (hm : Within 33 m) (hu : Within 0x220000000000000000000000 u) (h : Keeps m u d0 d) :
    Keeps m u d0 (opVsupLostInReset x0 x1 d) := by
  unfold opVsupLostInReset
  repeat' first
    | with_reducible assumption | exact hm.sub (by decide) | exact hu.sub (by decide) | subst y
    | (extract_lets +onlyGivenNames y; first | (refine (fun _ => ?_) (?_ : Keeps m u d0 y); clear_value y) | subst y)
    | exact Or.inr (hm.bit (by decide)) | with_reducible exact Or.inl rfl | with_reducible exact Imp.refl _
    | with_reducible exact Or.inr rfl | with_reducible apply setFlag_keeps fam_BK_STATUS_VSUP_LOW
    | with_reducible apply boost_keeps | with_reducible apply keeps_ite | simp only [keepsMk_iff]
    | with_reducible apply keeps_mk (hw := by with_reducible rfl)

theorem opVsupReturn_keeps {m u d0} {d} (hm : Within 1 m) (hu : Within 0x20000000000000000000004 u) (h : Keeps m u d0 d) :
    Keeps m u d0 (opVsupReturn d) := by
  unfold opVsupReturn
  repeat' first
    | with_reducible assumption | exact hm.sub (by decide) | exact hu.sub (by decide)
    | with_reducible apply setFlag_keeps fam_BK_STATUS_VSUP_LOW
    | with_reducible apply setFlag_keeps fam_MODE_STATUS_HOLDUP_PENDING | with_reducible apply keeps_ite

theorem opVsupBack_keeps {m u d0} {d} (hm : Within 7049127 m) (hu : Within 0x7fffffffffffffffffffffffffffffffffffffffffffffffffffffffff u) (h : Keeps m u d0 d) :
    Keeps m u d0 (opVsupBack d) := by
  unfold opVsupBack
  repeat' first
    | with_reducible assumption | exact hm.sub (by decide) | exact hu.sub (by decide) | subst y
    | (extract_lets +onlyGivenNames y; first | (refine (fun _ => ?_) (?_ : Keeps m u d0 y); clear_value y) | subst y)
    | with_reducible apply enterMode_keeps | with_reducible apply raise_keeps | with_reducible apply setBk_keeps
    | with_reducible apply restBk_keeps | with_reducible apply keeps_ite

theorem opHandbackDone_keeps {m u d0} {d} (hm : Within 265729 m) (hu : Within 0x800000000040000000000002c0000000220000000000000000000000 u) (h : Keeps m u d0 d) :
    Keeps m u d0 (opHandbackDone d) := by
  unfold opHandbackDone
  repeat' first
    | with_reducible assumption | exact hm.sub (by decide) | exact hu.sub (by decide)
    | (extract_lets +onlyGivenNames y; first | (refine (fun _ => ?_) (?_ : Keeps m u d0 y); clear_value y) | subst y)
    | exact Or.inr (hm.bit (by decide)) | with_reducible exact Or.inl rfl | with_reducible exact Imp.refl _
    | with_reducible exact Or.inr rfl | with_reducible apply raise_keeps | with_reducible apply restBk_keeps
    | with_reducible apply keeps_ite | simp only [keepsMk_iff]
    | with_reducible apply keeps_mk (hw := by with_reducible rfl)

theorem opChargeResume_keeps {m u d0} {d} (hm : Within 265729 m) (hu : Within 0x800000000040000000000002c0000000260000000000000000000000 u) (h : Keeps m u d0 d) :
    Keeps m u d0 (opChargeResume d) := by
  unfold opChargeResume
  repeat' first
    | with_reducible assumption | exact hm.sub (by decide) | exact hu.sub (by decide) | subst y
    | (extract_lets +onlyGivenNames y; first | (refine (fun _ => ?_) (?_ : Keeps m u d0 y); clear_value y) | subst y)
    | exact Or.inr (hm.bit (by decide)) | with_reducible exact Or.inl rfl | with_reducible exact Imp.refl _
    | with_reducible exact Or.inr rfl | with_reducible apply chgTo_keeps | with_reducible apply bkCharge_keeps
    | with_reducible apply keeps_ite | simp only [keepsMk_iff]
    | with_reducible apply keeps_mk (hw := by with_reducible rfl)

theorem opIdgReverse_keeps {m u d0} {x0 d} (hm : Within 1 m) (hu : Within 0x220000000000000000000000 u) (h : Keeps m u d0 d) :
    Keeps m u d0 (opIdgReverse x0 d) := by
  unfold opIdgReverse
  repeat' first
    | with_reducible assumption | exact hm.sub (by decide) | exact hu.sub (by decide) | subst y
    | (extract_lets +onlyGivenNames y; first | (refine (fun _ => ?_) (?_ : Keeps m u d0 y); clear_value y) | subst y)
    | with_reducible apply setFlag_keeps fam_BK_STATUS_IDG_ON | with_reducible apply setBk_keeps
    | with_reducible apply keeps_ite

theorem opIdgForward_keeps {m u d0} {d} (hm : Within 1 m) (hu : Within 0x220000000000000000000000 u) (h : Keeps m u d0 d) :
    Keeps m u d0 (opIdgForward d) := by
  unfold opIdgForward
  repeat' first
    | with_reducible assumption | exact hm.sub (by decide) | exact hu.sub (by decide) | subst y
    | (extract_lets +onlyGivenNames y; first | (refine (fun _ => ?_) (?_ : Keeps m u d0 y); clear_value y) | subst y)
    | with_reducible apply setFlag_keeps fam_BK_STATUS_IDG_ON | with_reducible apply setBk_keeps
    | with_reducible apply keeps_ite

theorem opBoostIlim_keeps {m u d0} {x0 x1 d} (hm : Within 3585 m) (hu : Within 0x800000000040000000000002c0000000020000000000000000000000 u) (h : Keeps m u d0 d) :
    Keeps m u d0 (opBoostIlim x0 x1 d) := by
  unfold opBoostIlim
  repeat' first
    | with_reducible assumption | exact hm.sub (by decide) | exact hu.sub (by decide) | subst y
    | (extract_lets +onlyGivenNames y; first | (refine (fun _ => ?_) (?_ : Keeps m u d0 y); clear_value y) | subst y)
    | with_reducible apply setFlag_keeps fam_BK_STATUS_BK_ILIM | with_reducible apply raise_keeps
    | with_reducible apply keeps_ite

theorem opInputLimit_keeps {m u d0} {d} (hm : Within 3585 m) (hu : Within 0x800000000040000000000002c0000000000000000000000000000000 u) (h : Keeps m u d0 d) :
    Keeps m u d0 (opInputLimit d) := by
  unfold opInputLimit
  repeat' first
    | with_reducible assumption | exact hm.sub (by decide) | exact hu.sub (by decide)
    | with_reducible apply raise_keeps | with_reducible apply keeps_ite

theorem opPackCutoff_keeps {m u d0} {d} (hm : Within 364033 m) (hu : Within 0x800000000040088000000002c00001ec220000000000000000000000 u) (h : Keeps m u d0 d) :
    Keeps m u d0 (opPackCutoff d) := by
  unfold opPackCutoff
  repeat' first
    | with_reducible assumption | exact hm.sub (by decide) | exact hu.sub (by decide) | subst y
    | (extract_lets +onlyGivenNames y; first | (refine (fun _ => ?_) (?_ : Keeps m u d0 y); clear_value y) | subst y)
    | exact Or.inr (hm.bit (by decide)) | with_reducible exact Or.inl rfl | with_reducible exact Imp.refl _
    | with_reducible exact Or.inr rfl | with_reducible apply setFlag_keeps fam_BK_STATUS_CUTOFF
    | with_reducible apply setBk_keeps | with_reducible apply bkStopped_keeps | with_reducible apply raise_keeps
    | with_reducible apply keeps_ite | simp only [keepsMk_iff]
    | with_reducible apply keeps_mk (hw := by with_reducible rfl)

theorem opCutoffReenable_keeps {m u d0} {d} (hm : Within 262145 m) (hu : Within 0x220000000000000000000000 u) (h : Keeps m u d0 d) :
    Keeps m u d0 (opCutoffReenable d) := by
  unfold opCutoffReenable
  repeat' first
    | with_reducible assumption | exact hm.sub (by decide) | exact hu.sub (by decide) | subst y
    | (extract_lets +onlyGivenNames y; first | (refine (fun _ => ?_) (?_ : Keeps m u d0 y); clear_value y) | subst y)
    | exact Or.inr (hm.bit (by decide)) | with_reducible exact Or.inl rfl | with_reducible exact Imp.refl _
    | with_reducible exact Or.inr rfl | with_reducible apply setFlag_keeps fam_BK_STATUS_CUTOFF
    | with_reducible apply bkCharge_keeps | with_reducible apply setBk_keeps | with_reducible apply keeps_ite
    | simp only [keepsMk_iff] | with_reducible apply keeps_mk (hw := by with_reducible rfl)

theorem opPackInserted_keeps {m u d0} {d} (hm : Within 265729 m) (hu : Within 0x800000000040000000000002c0000000360000000000000000000000 u) (h : Keeps m u d0 d) :
    Keeps m u d0 (opPackInserted d) := by
  unfold opPackInserted
  repeat' first
    | with_reducible assumption | exact hm.sub (by decide) | exact hu.sub (by decide) | subst y
    | (extract_lets +onlyGivenNames y; first | (refine (fun _ => ?_) (?_ : Keeps m u d0 y); clear_value y) | subst y)
    | exact Or.inr (hm.bit (by decide)) | with_reducible exact Or.inl rfl | with_reducible exact Imp.refl _
    | with_reducible exact Or.inr rfl | with_reducible apply qualify_keeps | with_reducible apply chgTo_keeps
    | with_reducible apply keeps_ite | simp only [keepsMk_iff]
    | with_reducible apply keeps_mk (hw := by with_reducible rfl)

theorem opBkFault_keeps {m u d0} {d} (hm : Within 364033 m) (hu : Within 0x800000000040088000000002c00001ec360000000000000000000000 u) (h : Keeps m u d0 d) :
    Keeps m u d0 (opBkFault d) := by
  unfold opBkFault
  repeat' first
    | with_reducible assumption | exact hm.sub (by decide) | exact hu.sub (by decide) | subst y
    | (extract_lets +onlyGivenNames y; first | (refine (fun _ => ?_) (?_ : Keeps m u d0 y); clear_value y) | subst y)
    | exact Or.inr (hm.bit (by decide)) | with_reducible exact Or.inl rfl | with_reducible exact Imp.refl _
    | with_reducible exact Or.inr rfl | with_reducible apply setFlag_keeps fam_CHG_FAULT_BK_FAULT
    | with_reducible apply setBk_keeps | with_reducible apply raise_keeps | with_reducible apply bkStopped_keeps
    | with_reducible apply chgTo_keeps | with_reducible apply keeps_ite | simp only [keepsMk_iff]
    | with_reducible apply keeps_mk (hw := by with_reducible rfl)

theorem traceRemoval_keeps {m u d0} {x0 d} (hm : Within 10485760 m) (hu : Within 0x0 u) (h : Keeps m u d0 d) :
    Keeps m u d0 (traceRemoval x0 d) := by
  unfold traceRemoval
  repeat' first
    | with_reducible assumption | exact hm.sub (by decide) | exact hu.sub (by decide)
    | with_reducible apply traceComp_keeps | with_reducible apply drawn_keeps | with_reducible apply keeps_ite

theorem traceStage_keeps {m u d0} {d} (hm : Within 10485760 m) (hu : Within 0x0 u) (h : Keeps m u d0 d) :
    Keeps m u d0 (traceStage d) := by
  unfold traceStage
  repeat' first
    | with_reducible assumption | exact hm.sub (by decide) | exact hu.sub (by decide)
    | with_reducible apply traceComp_keeps | with_reducible apply drawn_keeps

end Sys2Proof.Machine
end

