-- ==== Sys2Proof/Laws/KRoofOps.lean ====
section
/-! SUPPORT. Every operation of Machine/RoofOps.lean keeps what it does not change (Laws/Keeps.lean). -/

set_option linter.all false
set_option Elab.async false


namespace Sys2Proof.Machine

theorem setLink_keeps {m u d0} {x0 d} (hm : Within 1 m) (hu : Within 0x40000000000000000000000000000000000000 u) (h : Keeps m u d0 d) :
    Keeps m u d0 (setLink x0 d) := by
  unfold setLink
  repeat' first
    | with_reducible assumption | exact hm.sub (by decide) | exact hu.sub (by decide)
    | with_reducible apply setFld_keeps fam_LNK_STATUS_LINK_STATE

theorem modPeer_keeps {m u d0} {x0 x1 d} (hm : Within 32768 m) (hu : Within 0x0 u) (h : Keeps m u d0 d) :
    Keeps m u d0 (modPeer x0 x1 d) := by
  unfold modPeer
  repeat' first
    | with_reducible assumption | exact hm.sub (by decide) | exact hu.sub (by decide)
    | (extract_lets +onlyGivenNames y; first | (refine (fun _ => ?_) (?_ : Keeps m u d0 y); clear_value y) | subst y)
    | exact Or.inr (hm.bit (by decide)) | with_reducible exact Or.inl rfl | with_reducible exact Imp.refl _
    | (with_reducible refine Imp.mk (fun _ _ hq => ?_); first | (simp at hq ⊢; done) | (simp at hq ⊢; simp [hq]; done))
    | with_reducible exact Or.inr rfl | simp only [keepsMk_iff]
    | with_reducible apply keeps_mk (hw := by with_reducible rfl)

theorem cancelT0_keeps {m u d0} {d} (hm : Within 3713 m) (hu : Within 0x800000000040000000000002c0000000000000000000000000010000 u) (h : Keeps m u d0 d) :
    Keeps m u d0 (cancelT0 d) := by
  unfold cancelT0
  repeat' first
    | with_reducible assumption | exact hm.sub (by decide) | exact hu.sub (by decide) | subst y
    | (extract_lets +onlyGivenNames y; first | (refine (fun _ => ?_) (?_ : Keeps m u d0 y); clear_value y) | subst y)
    | exact Or.inr (hm.bit (by decide)) | with_reducible exact Or.inl rfl | with_reducible exact Imp.refl _
    | with_reducible exact Or.inr rfl | with_reducible apply setFld_keeps fam_SEQ_STATUS_SEQ_STATE
    | with_reducible apply completeAll_keeps | with_reducible apply keeps_ite | simp only [keepsMk_iff]
    | with_reducible apply keeps_mk (hw := by with_reducible rfl)

theorem roofRecord_keeps {m u d0} {x0 x1 x2 d} (hm : Within 10489345 m) (hu : Within 0x8000000042c0000000000002c0000000000000000000000000000000 u) (h : Keeps m u d0 d) :
    Keeps m u d0 (roofRecord x0 x1 x2 d) := by
  unfold roofRecord
  repeat' first
    | with_reducible assumption | exact hm.sub (by decide) | exact hu.sub (by decide)
    | with_reducible apply trigIf_keeps | with_reducible apply gutter_keeps

theorem roofFault_keeps {m u d0} {x0 x1 d} (hm : Within 15437823 m) (hu : Within 0x7fffffffffffffffffffffffffffffffffffffffffffffffffffffffff u) (h : Keeps m u d0 d) :
    Keeps m u d0 (roofFault x0 x1 d) := by
  unfold roofFault
  repeat' first
    | with_reducible assumption | exact hm.sub (by decide) | exact hu.sub (by decide) | subst y
    | (extract_lets +onlyGivenNames y; first | (refine (fun _ => ?_) (?_ : Keeps m u d0 y); clear_value y) | subst y)
    | exact Or.inr (hm.bit (by decide)) | with_reducible exact Or.inl rfl | with_reducible exact Imp.refl _
    | (with_reducible refine Imp.mk (fun _ _ hq => ?_); first | (simp at hq ⊢; done) | (simp at hq ⊢; simp [hq]; done))
    | with_reducible exact Or.inr rfl | with_reducible apply roofRecord_keeps
    | with_reducible apply faultDescent_keeps | with_reducible apply advanceTo_keeps | with_reducible apply keeps_ite
    | simp only [keepsMk_iff] | with_reducible apply keeps_mk (hw := by with_reducible rfl)

theorem roofDescend_keeps {m u d0} {x0 d} (hm : Within 15437823 m) (hu : Within 0x7fffffffffffffffffffffffffffffffffffffffffffffffffffffffff u) (h : Keeps m u d0 d) :
    Keeps m u d0 (roofDescend x0 d) := by
  unfold roofDescend
  repeat' first
    | with_reducible assumption | exact hm.sub (by decide) | exact hu.sub (by decide) | subst y
    | (extract_lets +onlyGivenNames y; first | (refine (fun _ => ?_) (?_ : Keeps m u d0 y); clear_value y) | subst y)
    | with_reducible apply roofRecord_keeps | with_reducible apply advanceTo_keeps
    | with_reducible apply startDescent_keeps | with_reducible apply cancelT0_keeps | with_reducible apply keeps_ite

theorem holderDescend_keeps {m u d0} {x0 d} (hm : Within 7049215 m) (hu : Within 0x7fffffffffffffffffffffffffffffffffffffffffffffffffffffffff u) (h : Keeps m u d0 d) :
    Keeps m u d0 (holderDescend x0 d) := by
  unfold holderDescend
  repeat' first
    | with_reducible assumption | exact hm.sub (by decide) | exact hu.sub (by decide)
    | with_reducible apply descendNow_keeps | with_reducible apply cancelT0_keeps
    | with_reducible apply insertUrgent_keeps | with_reducible apply keeps_ite

theorem holderFault_keeps {m u d0} {d} (hm : Within 15437823 m) (hu : Within 0x7fffffffffffffffffffffffffffffffffffffffffffffffffffffffff u) (h : Keeps m u d0 d) :
    Keeps m u d0 (holderFault d) := by
  unfold holderFault
  repeat' first
    | with_reducible assumption | exact hm.sub (by decide) | exact hu.sub (by decide)
    | with_reducible apply roofFault_keeps | with_reducible apply insertUrgent_keeps

theorem freezeRamps_keeps {m u d0} {d} (hm : Within 64 m) (hu : Within 0x0 u) (h : Keeps m u d0 d) :
    Keeps m u d0 (freezeRamps d) := by
  unfold freezeRamps
  repeat' first
    | with_reducible assumption | exact hm.sub (by decide) | exact hu.sub (by decide) | intro _
    | (extract_lets +onlyGivenNames y; first | (refine (fun _ => ?_) (?_ : Keeps m u d0 y); clear_value y) | subst y)
    | with_reducible apply modRail_keeps | with_reducible apply keeps_ite | with_reducible apply keeps_foldl

theorem thawRamps_keeps {m u d0} {x0 d} (hm : Within 192 m) (hu : Within 0x0 u) (h : Keeps m u d0 d) :
    Keeps m u d0 (thawRamps x0 d) := by
  unfold thawRamps
  repeat' first
    | with_reducible assumption | exact hm.sub (by decide) | exact hu.sub (by decide) | intro _ | subst y
    | (extract_lets +onlyGivenNames y; first | (refine (fun _ => ?_) (?_ : Keeps m u d0 y); clear_value y) | subst y)
    | exact Or.inr (hm.bit (by decide)) | with_reducible exact Or.inl rfl | with_reducible exact Imp.refl _
    | with_reducible exact Or.inr rfl | with_reducible apply modRail_keeps | with_reducible apply keeps_ite
    | with_reducible apply keeps_foldl | simp only [keepsMk_iff]
    | with_reducible apply keeps_mk (hw := by with_reducible rfl)

theorem holdState_keeps {m u d0} {x0 x1 d} (hm : Within 1 m) (hu : Within 0x10000 u) (h : Keeps m u d0 d) :
    Keeps m u d0 (holdState x0 x1 d) := by
  unfold holdState
  repeat' first
    | with_reducible assumption | exact hm.sub (by decide) | exact hu.sub (by decide)
    | with_reducible apply setFld_keeps fam_SEQ_STATUS_SEQ_STATE | with_reducible apply keeps_ite

theorem rampCheck_keeps {m u d0} {d} (hm : Within 15437823 m) (hu : Within 0x7fffffffffffffffffffffffffffffffffffffffffffffffffffffffff u) (h : Keeps m u d0 d) :
    Keeps m u d0 (rampCheck d) := by
  unfold rampCheck
  repeat' first
    | with_reducible assumption | exact hm.sub (by decide) | exact hu.sub (by decide)
    | with_reducible apply rampComplete_keeps | with_reducible apply keeps_ite

theorem applyHold_keeps {m u d0} {d} (hm : Within 15437823 m) (hu : Within 0x7fffffffffffffffffffffffffffffffffffffffffffffffffffffffff u) (h : Keeps m u d0 d) :
    Keeps m u d0 (applyHold d) := by
  unfold applyHold
  repeat' first
    | with_reducible assumption | exact hm.sub (by decide) | exact hu.sub (by decide) | subst y
    | (extract_lets +onlyGivenNames y; first | (refine (fun _ => ?_) (?_ : Keeps m u d0 y); clear_value y) | subst y)
    | exact Or.inr (hm.bit (by decide)) | with_reducible exact Or.inl rfl | with_reducible exact Imp.refl _
    | with_reducible exact Or.inr rfl | with_reducible apply setFlag_keeps fam_ROOF_STATUS_HOLD_IN_FORCE
    | with_reducible apply setFld_keeps fam_ROOF_HOLD_HOLD_TOTAL | with_reducible apply raise_keeps
    | with_reducible apply holdState_keeps | with_reducible apply freezeRamps_keeps
    | with_reducible apply thawRamps_keeps | with_reducible apply rampCheck_keeps | simp only [keepsMk_iff]
    | with_reducible apply keeps_mk (hw := by with_reducible rfl) | split

theorem putHold_keeps {m u d0} {x0 x1 d} (hm : Within 15437823 m) (hu : Within 0x7fffffffffffffffffffffffffffffffffffffffffffffffffffffffff u) (h : Keeps m u d0 d) :
    Keeps m u d0 (putHold x0 x1 d) := by
  unfold putHold
  repeat' first
    | with_reducible assumption | exact hm.sub (by decide) | exact hu.sub (by decide)
    | (extract_lets +onlyGivenNames y; first | (refine (fun _ => ?_) (?_ : Keeps m u d0 y); clear_value y) | subst y)
    | exact Or.inr (hm.bit (by decide)) | with_reducible exact Or.inl rfl | with_reducible exact Imp.refl _
    | (with_reducible refine Imp.mk (fun _ _ hq => ?_); first | (simp at hq ⊢; done) | (simp at hq ⊢; simp [hq]; done))
    | with_reducible exact Or.inr rfl | with_reducible apply applyHold_keeps | simp only [keepsMk_iff]
    | with_reducible apply keeps_mk (hw := by with_reducible rfl)

theorem setPhase_keeps {m u d0} {x0 d} (hm : Within 15437823 m) (hu : Within 0x7fffffffffffffffffffffffffffffffffffffffffffffffffffffffff u) (h : Keeps m u d0 d) :
    Keeps m u d0 (setPhase x0 d) := by
  unfold setPhase
  repeat' first
    | with_reducible assumption | exact hm.sub (by decide) | exact hu.sub (by decide)
    | with_reducible apply setFld_keeps fam_ROOF_STATUS_PHASE | with_reducible apply applyHold_keeps

theorem updateSuspect_keeps {m u d0} {d} (hm : Within 15437823 m) (hu : Within 0x7fffffffffffffffffffffffffffffffffffffffffffffffffffffffff u) (h : Keeps m u d0 d) :
    Keeps m u d0 (updateSuspect d) := by
  unfold updateSuspect
  repeat' first
    | with_reducible assumption | exact hm.sub (by decide) | exact hu.sub (by decide) | subst y
    | (extract_lets +onlyGivenNames y; first | (refine (fun _ => ?_) (?_ : Keeps m u d0 y); clear_value y) | subst y)
    | exact Or.inr (hm.bit (by decide)) | with_reducible exact Or.inl rfl | with_reducible exact Imp.refl _
    | (with_reducible refine Imp.mk (fun _ _ hq => ?_); first | (simp at hq ⊢; done) | (simp at hq ⊢; simp [hq]; done))
    | with_reducible exact Or.inr rfl | with_reducible apply setFlag_keeps fam_ROOF_STATUS_TIME_SUSPECT
    | with_reducible apply insertUrgent_keeps | with_reducible apply putHold_keeps
    | with_reducible apply advanceTo_keeps | with_reducible apply keeps_ite | simp only [keepsMk_iff]
    | with_reducible apply keeps_mk (hw := by with_reducible rfl)

theorem putEligible_keeps {m u d0} {d} (hm : Within 1 m) (hu : Within 0x40000000000000000000000000000000000000 u) (h : Keeps m u d0 d) :
    Keeps m u d0 (putEligible d) := by
  unfold putEligible
  repeat' first
    | with_reducible assumption | exact hm.sub (by decide) | exact hu.sub (by decide)
    | with_reducible apply setFlag_keeps fam_LNK_STATUS_ELIGIBLE

theorem setPart_keeps {m u d0} {x0 x1 d} (hm : Within 3585 m) (hu : Within 0x800000000040000040400002c0000000000000000000000000000000 u) (h : Keeps m u d0 d) :
    Keeps m u d0 (setPart x0 x1 d) := by
  unfold setPart
  repeat' first
    | with_reducible assumption | exact hm.sub (by decide) | exact hu.sub (by decide) | subst y
    | (extract_lets +onlyGivenNames y; first | (refine (fun _ => ?_) (?_ : Keeps m u d0 y); clear_value y) | subst y)
    | with_reducible apply setFld_keeps fam_ROOF_STATUS_PART
    | with_reducible apply setFld_keeps fam_ROOF_STATUS_EXCL_CAUSE | with_reducible apply putEligible_keeps
    | with_reducible apply raise_keeps | with_reducible apply keeps_ite

theorem judge_keeps {m u d0} {d} (hm : Within 3585 m) (hu : Within 0x800000000040000040400002c0000000000000000000000000000000 u) (h : Keeps m u d0 d) :
    Keeps m u d0 (judge d) := by
  unfold judge
  repeat' first
    | with_reducible assumption | exact hm.sub (by decide) | exact hu.sub (by decide) | subst y
    | (extract_lets +onlyGivenNames y; first | (refine (fun _ => ?_) (?_ : Keeps m u d0 y); clear_value y) | subst y)
    | with_reducible apply setFld_keeps fam_ROOF_STATUS_REQUIRED
    | with_reducible apply setFld_keeps fam_ROOF_STATUS_OPTIONAL | with_reducible apply setPart_keeps
    | with_reducible apply keeps_ite | simp only [keepsMk_iff] | split

theorem newHolder_keeps {m u d0} {x0 d} (hm : Within 36353 m) (hu : Within 0x800000000040000040400002c0000000000000000000000000000000 u) (h : Keeps m u d0 d) :
    Keeps m u d0 (newHolder x0 d) := by
  unfold newHolder
  repeat' first
    | with_reducible assumption | exact hm.sub (by decide) | exact hu.sub (by decide) | subst y
    | (extract_lets +onlyGivenNames y; first | (refine (fun _ => ?_) (?_ : Keeps m u d0 y); clear_value y) | subst y)
    | exact Or.inr (hm.bit (by decide)) | with_reducible exact Or.inl rfl | with_reducible exact Imp.refl _
    | (with_reducible refine Imp.mk (fun _ _ hq => ?_); first | (simp at hq ⊢; done) | (simp at hq ⊢; simp [hq]; done))
    | with_reducible exact Or.inr rfl | with_reducible apply setFld_keeps fam_LNK_STATUS_HOLDER
    | with_reducible apply setFlag_keeps fam_LNK_STATUS_HOLDER_VALID | with_reducible apply raise_keeps
    | with_reducible apply setPart_keeps | with_reducible apply judge_keeps | with_reducible apply keeps_ite
    | simp only [keepsMk_iff] | with_reducible apply keeps_mk (hw := by with_reducible rfl)

theorem becomeHolder_keeps {m u d0} {d} (hm : Within 36353 m) (hu : Within 0x800000000040000041c00002c0000000000000000000000000000000 u) (h : Keeps m u d0 d) :
    Keeps m u d0 (becomeHolder d) := by
  unfold becomeHolder
  repeat' first
    | with_reducible assumption | exact hm.sub (by decide) | exact hu.sub (by decide) | subst y
    | (extract_lets +onlyGivenNames y; first | (refine (fun _ => ?_) (?_ : Keeps m u d0 y); clear_value y) | subst y)
    | exact Or.inr (hm.bit (by decide)) | with_reducible exact Or.inl rfl | with_reducible exact Imp.refl _
    | (with_reducible refine Imp.mk (fun _ _ hq => ?_); first | (simp at hq ⊢; done) | (simp at hq ⊢; simp [hq]; done))
    | with_reducible exact Or.inr rfl | with_reducible apply setFld_keeps fam_LNK_DELAY_RTT
    | with_reducible apply setFld_keeps fam_LNK_OFFSET_OFFSET
    | with_reducible apply setFlag_keeps fam_LNK_STATUS_IS_HOLDER
    | with_reducible apply setFlag_keeps fam_LNK_STATUS_HOLDOVER | with_reducible apply setLink_keeps
    | with_reducible apply newHolder_keeps | simp only [keepsMk_iff]
    | with_reducible apply keeps_mk (hw := by with_reducible rfl)

theorem stopHolding_keeps {m u d0} {d} (hm : Within 1 m) (hu : Within 0x40000000000000000000000000000000000000 u) (h : Keeps m u d0 d) :
    Keeps m u d0 (stopHolding d) := by
  unfold stopHolding
  repeat' first
    | with_reducible assumption | exact hm.sub (by decide) | exact hu.sub (by decide)
    | with_reducible apply setFlag_keeps fam_LNK_STATUS_IS_HOLDER | with_reducible apply setLink_keeps

theorem roofIdle_keeps {m u d0} {d} (hm : Within 36353 m) (hu : Within 0x800000000040000040400002c0000000000000000000000000000000 u) (h : Keeps m u d0 d) :
    Keeps m u d0 (roofIdle d) := by
  unfold roofIdle
  repeat' first
    | with_reducible assumption | exact hm.sub (by decide) | exact hu.sub (by decide) | subst y
    | (extract_lets +onlyGivenNames y; first | (refine (fun _ => ?_) (?_ : Keeps m u d0 y); clear_value y) | subst y)
    | exact Or.inr (hm.bit (by decide)) | with_reducible exact Or.inl rfl | with_reducible exact Imp.refl _
    | (with_reducible refine Imp.mk (fun _ _ hq => ?_); first | (simp at hq ⊢; done) | (simp at hq ⊢; simp [hq]; done))
    | with_reducible exact Or.inr rfl | with_reducible apply setFlag_keeps fam_ROOF_STATUS_DEGRADED
    | with_reducible apply setPart_keeps | with_reducible apply keeps_ite | simp only [keepsMk_iff]
    | with_reducible apply keeps_mk (hw := by with_reducible rfl)

theorem placeAnnounce_keeps {m u d0} {x0 x1 d} (hm : Within 32768 m) (hu : Within 0x0 u) (h : Keeps m u d0 d) :
    Keeps m u d0 (placeAnnounce x0 x1 d) := by
  unfold placeAnnounce
  repeat' first
    | with_reducible assumption | exact hm.sub (by decide) | exact hu.sub (by decide)
    | (extract_lets +onlyGivenNames y; first | (refine (fun _ => ?_) (?_ : Keeps m u d0 y); clear_value y) | subst y)
    | exact Or.inr (hm.bit (by decide)) | with_reducible exact Or.inl rfl | with_reducible exact Imp.refl _
    | (with_reducible refine Imp.mk (fun _ _ hq => ?_); first | (simp at hq ⊢; done) | (simp at hq ⊢; simp [hq]; done))
    | with_reducible exact Or.inr rfl | with_reducible apply placeQ16_keeps | simp only [keepsMk_iff]
    | with_reducible apply keeps_mk (hw := by with_reducible rfl)

theorem sendState_keeps {m u d0} {x0 d} (hm : Within 36353 m) (hu : Within 0x800000000040000180000002c0000000000000000000000000000000 u) (h : Keeps m u d0 d) :
    Keeps m u d0 (sendState x0 d) := by
  unfold sendState
  repeat' first
    | with_reducible assumption | exact hm.sub (by decide) | exact hu.sub (by decide) | subst y
    | (extract_lets +onlyGivenNames y; first | (refine (fun _ => ?_) (?_ : Keeps m u d0 y); clear_value y) | subst y)
    | exact Or.inr (hm.bit (by decide)) | with_reducible exact Or.inl rfl | with_reducible exact Imp.refl _
    | (with_reducible refine Imp.mk (fun _ _ hq => ?_); first | (simp at hq ⊢; done) | (simp at hq ⊢; simp [hq]; done))
    | with_reducible exact Or.inr rfl | with_reducible apply setFld_keeps fam_ROOF_FLOOR_FLOOR
    | with_reducible apply setFld_keeps fam_ROOF_MEMBERS_PARTICIPATING | with_reducible apply raise_keeps
    | with_reducible apply placeAnnounce_keeps | with_reducible apply keeps_ite | simp only [keepsMk_iff]
    | with_reducible apply keeps_mk (hw := by with_reducible rfl)

theorem putMember_keeps {m u d0} {x0 x1 d} (hm : Within 1 m) (hu : Within 0x8000000000000000000000000000000000000000 u) (h : Keeps m u d0 d) :
    Keeps m u d0 (putMember x0 x1 d) := by
  unfold putMember
  dsimp only
  repeat' first
    | with_reducible assumption | exact hm.sub (by decide) | exact hu.sub (by decide)
    | with_reducible apply setFld_keeps fam_ROOF_MEMBERS_READY
    | with_reducible apply setFld_keeps fam_ROOF_MEMBERS_SUSPECT
    | with_reducible apply setFld_keeps fam_ROOF_MEMBERS_EXCLUDED

theorem sendAgree_keeps {m u d0} {x0 d} (hm : Within 32769 m) (hu : Within 0x8000000000000000000000000000000000000000 u) (h : Keeps m u d0 d) :
    Keeps m u d0 (sendAgree x0 d) := by
  unfold sendAgree
  repeat' first
    | with_reducible assumption | exact hm.sub (by decide) | exact hu.sub (by decide) | subst y
    | (extract_lets +onlyGivenNames y; first | (refine (fun _ => ?_) (?_ : Keeps m u d0 y); clear_value y) | subst y)
    | exact Or.inr (hm.bit (by decide)) | with_reducible exact Or.inl rfl | with_reducible exact Imp.refl _
    | (with_reducible refine Imp.mk (fun _ _ hq => ?_); first | (simp at hq ⊢; done) | (simp at hq ⊢; simp [hq]; done))
    | with_reducible exact Or.inr rfl | with_reducible apply putMember_keeps | with_reducible apply placeQ16_keeps
    | with_reducible apply keeps_ite | simp only [keepsMk_iff]
    | with_reducible apply keeps_mk (hw := by with_reducible rfl)

theorem downNow_keeps {m u d0} {x0 d} (hm : Within 15437823 m) (hu : Within 0x7fffffffffffffffffffffffffffffffffffffffffffffffffffffffff u) (h : Keeps m u d0 d) :
    Keeps m u d0 (downNow x0 d) := by
  unfold downNow
  repeat' first
    | with_reducible assumption | exact hm.sub (by decide) | exact hu.sub (by decide) | subst y
    | (extract_lets +onlyGivenNames y; first | (refine (fun _ => ?_) (?_ : Keeps m u d0 y); clear_value y) | subst y)
    | with_reducible apply setPhase_keeps | with_reducible apply startDescent_keeps
    | with_reducible apply completeAll_keeps | with_reducible apply cancelT0_keeps | with_reducible apply keeps_ite

theorem dueDown_keeps {m u d0} {x0 d} (hm : Within 15437823 m) (hu : Within 0x7fffffffffffffffffffffffffffffffffffffffffffffffffffffffff u) (h : Keeps m u d0 d) :
    Keeps m u d0 (dueDown x0 d) := by
  unfold dueDown
  repeat' first
    | with_reducible assumption | exact hm.sub (by decide) | exact hu.sub (by decide)
    | (extract_lets +onlyGivenNames y; first | (refine (fun _ => ?_) (?_ : Keeps m u d0 y); clear_value y) | subst y)
    | exact Or.inr (hm.bit (by decide)) | with_reducible exact Or.inl rfl | with_reducible exact Imp.refl _
    | (with_reducible refine Imp.mk (fun _ _ hq => ?_); first | (simp at hq ⊢; done) | (simp at hq ⊢; simp [hq]; done))
    | with_reducible exact Or.inr rfl | with_reducible apply downNow_keeps | with_reducible apply keeps_ite
    | simp only [keepsMk_iff] | with_reducible apply keeps_mk (hw := by with_reducible rfl) | split

theorem propagate_keeps {m u d0} {x0 x1 d} (hm : Within 15437823 m) (hu : Within 0x7fffffffffffffffffffffffffffffffffffffffffffffffffffffffff u) (h : Keeps m u d0 d) :
    Keeps m u d0 (propagate x0 x1 d) := by
  unfold propagate
  repeat' first
    | with_reducible assumption | exact hm.sub (by decide) | exact hu.sub (by decide) | subst y
    | (extract_lets +onlyGivenNames y; first | (refine (fun _ => ?_) (?_ : Keeps m u d0 y); clear_value y) | subst y)
    | with_reducible apply raise_keeps | with_reducible apply roofFault_keeps | with_reducible apply phaseOn_keeps
    | with_reducible apply roofDescend_keeps | with_reducible apply keeps_ite

theorem followRetry_keeps {m u d0} {x0 x1 d} (hm : Within 7049127 m) (hu : Within 0x7fffffffffffffffffffffffffffffffffffffffffffffffffffffffff u) (h : Keeps m u d0 d) :
    Keeps m u d0 (followRetry x0 x1 d) := by
  unfold followRetry
  repeat' first
    | with_reducible assumption | exact hm.sub (by decide) | exact hu.sub (by decide)
    | (extract_lets +onlyGivenNames y; first | (refine (fun _ => ?_) (?_ : Keeps m u d0 y); clear_value y) | subst y)
    | exact Or.inr (hm.bit (by decide)) | with_reducible exact Or.inl rfl | with_reducible exact Imp.refl _
    | (with_reducible refine Imp.mk (fun _ _ hq => ?_); first | (simp at hq ⊢; done) | (simp at hq ⊢; simp [hq]; done))
    | with_reducible exact Or.inr rfl | with_reducible apply takeRetry_keeps | with_reducible apply keeps_ite
    | simp only [keepsMk_iff] | with_reducible apply keeps_mk (hw := by with_reducible rfl)

theorem noteMissing_keeps {m u d0} {d} (hm : Within 1 m) (hu : Within 0x40000000000000000000000000000000000000 u) (h : Keeps m u d0 d) :
    Keeps m u d0 (noteMissing d) := by
  unfold noteMissing
  repeat' first
    | with_reducible assumption | exact hm.sub (by decide) | exact hu.sub (by decide) | subst y
    | (extract_lets +onlyGivenNames y; first | (refine (fun _ => ?_) (?_ : Keeps m u d0 y); clear_value y) | subst y)
    | with_reducible apply setFlag_keeps fam_LNK_STATUS_HOLDOVER | with_reducible apply setLink_keeps
    | with_reducible apply keeps_ite

theorem slotPresent_keeps {m u d0} {x0 x1 d} (hm : Within 3585 m) (hu : Within 0x800000000040000400400002c0000000000000000000000000000000 u) (h : Keeps m u d0 d) :
    Keeps m u d0 (slotPresent x0 x1 d) := by
  unfold slotPresent
  repeat' first
    | with_reducible assumption | exact hm.sub (by decide) | exact hu.sub (by decide) | subst y
    | (extract_lets +onlyGivenNames y; first | (refine (fun _ => ?_) (?_ : Keeps m u d0 y); clear_value y) | subst y)
    | with_reducible apply setArr_keeps fam_ROOF_MODES_MODE | with_reducible apply setFld_keeps fam_LNK_STATUS_PRESENT
    | with_reducible apply raise_keeps | with_reducible apply keeps_ite

theorem slotSeen_keeps {m u d0} {x0 x1 x2 d} (hm : Within 15437823 m) (hu : Within 0x7fffffffffffffffffffffffffffffffffffffffffffffffffffffffff u) (h : Keeps m u d0 d) (hk : ∀ d, Keeps m u d0 d → Keeps m u d0 (x2 d)) :
    Keeps m u d0 (slotSeen x0 x1 x2 d) := by
  unfold slotSeen
  repeat' first
    | with_reducible assumption | exact hm.sub (by decide) | exact hu.sub (by decide) | with_reducible apply hk
    | with_reducible apply setLink_keeps | with_reducible apply followRetry_keeps
    | with_reducible apply propagate_keeps | with_reducible apply slotPresent_keeps
    | with_reducible apply noteMissing_keeps | with_reducible apply keeps_ite

theorem messageSeen_keeps {m u d0} {x0 x1 x2 x3 x4 x5 d} (hm : Within 15437823 m) (hu : Within 0x7fffffffffffffffffffffffffffffffffffffffffffffffffffffffff u) (h : Keeps m u d0 d) (hk : ∀ d, Keeps m u d0 d → Keeps m u d0 (x5 d)) :
    Keeps m u d0 (messageSeen x0 x1 x2 x3 x4 x5 d) := by
  unfold messageSeen
  repeat' first
    | with_reducible assumption | exact hm.sub (by decide) | exact hu.sub (by decide) | intro _
    | (extract_lets +onlyGivenNames y; first | (refine (fun _ => ?_) (?_ : Keeps m u d0 y); clear_value y) | subst y)
    | exact Or.inr (hm.bit (by decide)) | with_reducible exact Or.inl rfl | with_reducible exact Imp.refl _
    | (with_reducible refine Imp.mk (fun _ _ hq => ?_); first | (simp at hq ⊢; done) | (simp at hq ⊢; simp [hq]; done))
    | with_reducible exact Or.inr rfl | with_reducible apply hk | with_reducible apply slotSeen_keeps
    | with_reducible apply raise_keeps | with_reducible apply keeps_ite | simp only [keepsMk_iff]
    | with_reducible apply keeps_mk (hw := by with_reducible rfl)

end Sys2Proof.Machine
end

