-- ==== Sys2Proof/Laws/KValley.lean ====
section
/-! SUPPORT. Every operation of Machine/Valley.lean keeps what it does not change (Laws/Keeps.lean). -/

set_option linter.all false
set_option Elab.async false


namespace Sys2Proof.Machine

theorem putContract_keeps {m u d0} {x0 d} (hm : Within 65537 m) (hu : Within 0x3800000000000000000000000000000000000000000 u) (h : Keeps m u d0 d) :
    Keeps m u d0 (putContract x0 d) := by
  unfold putContract
  repeat' first
    | with_reducible assumption | exact hm.sub (by decide) | exact hu.sub (by decide) | subst y
    | (extract_lets +onlyGivenNames y; first | (refine (fun _ => ?_) (?_ : Keeps m u d0 y); clear_value y) | subst y)
    | exact Or.inr (hm.bit (by decide)) | with_reducible exact Or.inl rfl | with_reducible exact Imp.refl _
    | (with_reducible refine Imp.mk (fun _ _ hq => ?_); first | (simp at hq ⊢; done) | (simp at hq ⊢; simp [hq]; done))
    | with_reducible exact Or.inr rfl | with_reducible apply setFld_keeps fam_VLY_ENERGY_DELIVERED
    | with_reducible apply setFld_keeps fam_VLY_CONTRACT_I_C | with_reducible apply setFld_keeps fam_VLY_ENERGY_E
    | with_reducible apply setFld_keeps fam_VLY_CONTRACT_STANDBY
    | with_reducible apply setFld_keeps fam_VLY_CONTRACT_V_C
    | with_reducible apply setFlag_keeps fam_VLY_CONTRACT_FS_AUTH
    | with_reducible apply setFlag_keeps fam_VLY_CONTRACT_STANDBY_VALID
    | with_reducible apply setFld_keeps fam_VLY_CONTRACT_SINKS
    | with_reducible apply setFld_keeps fam_VLY_CONTRACT_SOURCE | with_reducible apply setFld_keeps fam_VLY_STATUS_CN
    | simp only [keepsMk_iff] | with_reducible apply keeps_mk (hw := by with_reducible rfl)

theorem placeAccept_keeps {m u d0} {x0 x1 d} (hm : Within 98304 m) (hu : Within 0x0 u) (h : Keeps m u d0 d) :
    Keeps m u d0 (placeAccept x0 x1 d) := by
  unfold placeAccept
  repeat' first
    | with_reducible assumption | exact hm.sub (by decide) | exact hu.sub (by decide) | subst y
    | (extract_lets +onlyGivenNames y; first | (refine (fun _ => ?_) (?_ : Keeps m u d0 y); clear_value y) | subst y)
    | exact Or.inr (hm.bit (by decide)) | with_reducible exact Or.inl rfl | with_reducible exact Imp.refl _
    | (with_reducible refine Imp.mk (fun _ _ hq => ?_); first | (simp at hq ⊢; done) | (simp at hq ⊢; simp [hq]; done))
    | with_reducible exact Or.inr rfl | with_reducible apply placeQ16_keeps | with_reducible apply keeps_ite
    | simp only [keepsMk_iff] | with_reducible apply keeps_mk (hw := by with_reducible rfl)

theorem amend_keeps {m u d0} {x0 d} (hm : Within 98304 m) (hu : Within 0x0 u) (h : Keeps m u d0 d) :
    Keeps m u d0 (amend x0 d) := by
  unfold amend
  repeat' first
    | with_reducible assumption | exact hm.sub (by decide) | exact hu.sub (by decide)
    | with_reducible apply placeAccept_keeps | simp only [keepsMk_iff] | split

theorem requestDone_keeps {m u d0} {d} (hm : Within 69121 m) (hu : Within 0x800000000040000000000002c0000000000000000000000000000000 u) (h : Keeps m u d0 d) :
    Keeps m u d0 (requestDone d) := by
  unfold requestDone
  repeat' first
    | with_reducible assumption | exact hm.sub (by decide) | exact hu.sub (by decide)
    | (extract_lets +onlyGivenNames y; first | (refine (fun _ => ?_) (?_ : Keeps m u d0 y); clear_value y) | subst y)
    | exact Or.inr (hm.bit (by decide)) | with_reducible exact Or.inl rfl | with_reducible exact Imp.refl _
    | (with_reducible refine Imp.mk (fun _ _ hq => ?_); first | (simp at hq ⊢; done) | (simp at hq ⊢; simp [hq]; done))
    | with_reducible exact Or.inr rfl | with_reducible apply completeAll_keeps | simp only [keepsMk_iff]
    | with_reducible apply keeps_mk (hw := by with_reducible rfl)

theorem takeRole_keeps {m u d0} {x0 x1 d} (hm : Within 65537 m) (hu : Within 0x800000000000000000220000000000000000000000 u) (h : Keeps m u d0 d) :
    Keeps m u d0 (takeRole x0 x1 d) := by
  unfold takeRole
  repeat' first
    | with_reducible assumption | exact hm.sub (by decide) | exact hu.sub (by decide) | subst y
    | (extract_lets +onlyGivenNames y; first | (refine (fun _ => ?_) (?_ : Keeps m u d0 y); clear_value y) | subst y)
    | exact Or.inr (hm.bit (by decide)) | with_reducible exact Or.inl rfl | with_reducible exact Imp.refl _
    | (with_reducible refine Imp.mk (fun _ _ hq => ?_); first | (simp at hq ⊢; done) | (simp at hq ⊢; simp [hq]; done))
    | with_reducible exact Or.inr rfl | with_reducible apply setFlag_keeps fam_VLY_STATUS_FS_ARMED
    | with_reducible apply setRole_keeps | with_reducible apply standbyBoost_keeps
    | with_reducible apply leaveStandbyBoost_keeps | with_reducible apply setSw_keeps | with_reducible apply keeps_ite
    | simp only [keepsMk_iff] | with_reducible apply keeps_mk (hw := by with_reducible rfl)

theorem beginContract_keeps {m u d0} {x0 d} (hm : Within 15437823 m) (hu : Within 0x7fffffffffffffffffffffffffffffffffffffffffffffffffffffffff u) (h : Keeps m u d0 d) :
    Keeps m u d0 (beginContract x0 d) := by
  unfold beginContract
  repeat' first
    | with_reducible assumption | exact hm.sub (by decide) | exact hu.sub (by decide) | subst y
    | (extract_lets +onlyGivenNames y; first | (refine (fun _ => ?_) (?_ : Keeps m u d0 y); clear_value y) | subst y)
    | exact Or.inr (hm.bit (by decide)) | with_reducible exact Or.inl rfl | with_reducible exact Imp.refl _
    | (with_reducible refine Imp.mk (fun _ _ hq => ?_); first | (simp at hq ⊢; done) | (simp at hq ⊢; simp [hq]; done))
    | with_reducible exact Or.inr rfl | with_reducible apply setFld_keeps fam_VLY_STATUS_SWAP
    | with_reducible apply setFlag_keeps fam_VLY_STATUS_STBY_DUTY | with_reducible apply endPart_keeps
    | with_reducible apply takeRole_keeps | with_reducible apply putContract_keeps | with_reducible apply raise_keeps
    | with_reducible apply setAux_keeps | with_reducible apply requestDone_keeps
    | with_reducible apply recompute_keeps | with_reducible apply keeps_ite | simp only [keepsMk_iff]
    | with_reducible apply keeps_mk (hw := by with_reducible rfl)

theorem opContractBegin_keeps {m u d0} {d} (hm : Within 15437823 m) (hu : Within 0x7fffffffffffffffffffffffffffffffffffffffffffffffffffffffff u) (h : Keeps m u d0 d) :
    Keeps m u d0 (opContractBegin d) := by
  unfold opContractBegin
  repeat' first
    | with_reducible assumption | exact hm.sub (by decide) | exact hu.sub (by decide)
    | (extract_lets +onlyGivenNames y; first | (refine (fun _ => ?_) (?_ : Keeps m u d0 y); clear_value y) | subst y)
    | exact Or.inr (hm.bit (by decide)) | with_reducible exact Or.inl rfl | with_reducible exact Imp.refl _
    | (with_reducible refine Imp.mk (fun _ _ hq => ?_); first | (simp at hq ⊢; done) | (simp at hq ⊢; simp [hq]; done))
    | with_reducible exact Or.inr rfl | with_reducible apply beginContract_keeps
    | with_reducible apply advanceTo_keeps | with_reducible apply keeps_ite | simp only [keepsMk_iff]
    | with_reducible apply keeps_mk (hw := by with_reducible rfl) | split

theorem busyAnswer_keeps {m u d0} {x0 x1 x2 d} (hm : Within 32769 m) (hu : Within 0x8000000000000000000000000000000000000000000 u) (h : Keeps m u d0 d) :
    Keeps m u d0 (busyAnswer x0 x1 x2 d) := by
  unfold busyAnswer
  repeat' first
    | with_reducible assumption | exact hm.sub (by decide) | exact hu.sub (by decide)
    | with_reducible apply sendReject_keeps

theorem takeOffer_keeps {m u d0} {x0 x1 x2 d} (hm : Within 98305 m) (hu : Within 0x8000000000000000000000000000000000000000000 u) (h : Keeps m u d0 d) :
    Keeps m u d0 (takeOffer x0 x1 x2 d) := by
  unfold takeOffer
  repeat' first
    | with_reducible assumption | exact hm.sub (by decide) | exact hu.sub (by decide)
    | (extract_lets +onlyGivenNames y; first | (refine (fun _ => ?_) (?_ : Keeps m u d0 y); clear_value y) | subst y)
    | exact Or.inr (hm.bit (by decide)) | with_reducible exact Or.inl rfl | with_reducible exact Imp.refl _
    | (with_reducible refine Imp.mk (fun _ _ hq => ?_); first | (simp at hq ⊢; done) | (simp at hq ⊢; simp [hq]; done))
    | with_reducible exact Or.inr rfl | with_reducible apply busyAnswer_keeps | with_reducible apply keeps_ite
    | simp only [keepsMk_iff] | with_reducible apply keeps_mk (hw := by with_reducible rfl)

theorem takeRequest_keeps {m u d0} {x0 x1 x2 d} (hm : Within 98305 m) (hu : Within 0x8000000000000000000000000000000000000000000 u) (h : Keeps m u d0 d) :
    Keeps m u d0 (takeRequest x0 x1 x2 d) := by
  unfold takeRequest
  dsimp only
  repeat' first
    | with_reducible assumption | exact hm.sub (by decide) | exact hu.sub (by decide)
    | exact Or.inr (hm.bit (by decide)) | with_reducible exact Or.inl rfl | with_reducible exact Imp.refl _
    | (with_reducible refine Imp.mk (fun _ _ hq => ?_); first | (simp at hq ⊢; done) | (simp at hq ⊢; simp [hq]; done))
    | with_reducible exact Or.inr rfl | with_reducible apply sendReject_keeps | with_reducible apply busyAnswer_keeps
    | with_reducible apply placeAccept_keeps | with_reducible apply amend_keeps | with_reducible apply keeps_ite
    | simp only [keepsMk_iff] | with_reducible apply keeps_mk (hw := by with_reducible rfl) | split

theorem takeAccept_keeps {m u d0} {x0 x1 x2 d} (hm : Within 98305 m) (hu : Within 0x8000000000000000000000000000000000000000000 u) (h : Keeps m u d0 d) :
    Keeps m u d0 (takeAccept x0 x1 x2 d) := by
  unfold takeAccept
  repeat' first
    | with_reducible assumption | exact hm.sub (by decide) | exact hu.sub (by decide)
    | (extract_lets +onlyGivenNames y; first | (refine (fun _ => ?_) (?_ : Keeps m u d0 y); clear_value y) | subst y)
    | exact Or.inr (hm.bit (by decide)) | with_reducible exact Or.inl rfl | with_reducible exact Imp.refl _
    | (with_reducible refine Imp.mk (fun _ _ hq => ?_); first | (simp at hq ⊢; done) | (simp at hq ⊢; simp [hq]; done))
    | with_reducible exact Or.inr rfl | with_reducible apply sendReject_keeps | with_reducible apply keeps_ite
    | simp only [keepsMk_iff] | with_reducible apply keeps_mk (hw := by with_reducible rfl) | split

theorem acknowledged_keeps {m u d0} {x0 d} (hm : Within 15437823 m) (hu : Within 0x7fffffffffffffffffffffffffffffffffffffffffffffffffffffffff u) (h : Keeps m u d0 d) :
    Keeps m u d0 (acknowledged x0 d) := by
  unfold acknowledged
  repeat' first
    | with_reducible assumption | exact hm.sub (by decide) | exact hu.sub (by decide)
    | (extract_lets +onlyGivenNames y; first | (refine (fun _ => ?_) (?_ : Keeps m u d0 y); clear_value y) | subst y)
    | exact Or.inr (hm.bit (by decide)) | with_reducible exact Or.inl rfl | with_reducible exact Imp.refl _
    | (with_reducible refine Imp.mk (fun _ _ hq => ?_); first | (simp at hq ⊢; done) | (simp at hq ⊢; simp [hq]; done))
    | with_reducible exact Or.inr rfl | with_reducible apply setFld_keeps fam_VLY_STATUS_SWAP
    | with_reducible apply recompute_keeps | with_reducible apply standbyBoost_keeps | with_reducible apply keeps_ite
    | simp only [keepsMk_iff] | with_reducible apply keeps_mk (hw := by with_reducible rfl) | split

theorem requestRefused_keeps {m u d0} {x0 d} (hm : Within 69121 m) (hu : Within 0x800000000040000000000002c0000000000000000000000000000000 u) (h : Keeps m u d0 d) :
    Keeps m u d0 (requestRefused x0 d) := by
  unfold requestRefused
  repeat' first
    | with_reducible assumption | exact hm.sub (by decide) | exact hu.sub (by decide)
    | (extract_lets +onlyGivenNames y; first | (refine (fun _ => ?_) (?_ : Keeps m u d0 y); clear_value y) | subst y)
    | exact Or.inr (hm.bit (by decide)) | with_reducible exact Or.inl rfl | with_reducible exact Imp.refl _
    | (with_reducible refine Imp.mk (fun _ _ hq => ?_); first | (simp at hq ⊢; done) | (simp at hq ⊢; simp [hq]; done))
    | with_reducible exact Or.inr rfl | with_reducible apply completeAll_keeps | simp only [keepsMk_iff]
    | with_reducible apply keeps_mk (hw := by with_reducible rfl)

theorem collided_keeps {m u d0} {d} (hm : Within 69121 m) (hu : Within 0x800000000040000000000002c0000000000000000000000000000000 u) (h : Keeps m u d0 d) :
    Keeps m u d0 (collided d) := by
  unfold collided
  repeat' first
    | with_reducible assumption | exact hm.sub (by decide) | exact hu.sub (by decide)
    | (extract_lets +onlyGivenNames y; first | (refine (fun _ => ?_) (?_ : Keeps m u d0 y); clear_value y) | subst y)
    | exact Or.inr (hm.bit (by decide)) | with_reducible exact Or.inl rfl | with_reducible exact Imp.refl _
    | (with_reducible refine Imp.mk (fun _ _ hq => ?_); first | (simp at hq ⊢; done) | (simp at hq ⊢; simp [hq]; done))
    | with_reducible exact Or.inr rfl | with_reducible apply raise_keeps | simp only [keepsMk_iff]
    | with_reducible apply keeps_mk (hw := by with_reducible rfl)

theorem takeReject_keeps {m u d0} {x0 x1 d} (hm : Within 101889 m) (hu : Within 0x800000000040088000000002c00001ec220000000000000000000000 u) (h : Keeps m u d0 d) :
    Keeps m u d0 (takeReject x0 x1 d) := by
  unfold takeReject
  repeat' first
    | with_reducible assumption | exact hm.sub (by decide) | exact hu.sub (by decide) | subst y
    | (extract_lets +onlyGivenNames y; first | (refine (fun _ => ?_) (?_ : Keeps m u d0 y); clear_value y) | subst y)
    | exact Or.inr (hm.bit (by decide)) | with_reducible exact Or.inl rfl | with_reducible exact Imp.refl _
    | (with_reducible refine Imp.mk (fun _ _ hq => ?_); first | (simp at hq ⊢; done) | (simp at hq ⊢; simp [hq]; done))
    | with_reducible exact Or.inr rfl | with_reducible apply setFlag_keeps fam_VLY_STATUS_FS_ARMED
    | with_reducible apply setFld_keeps fam_VLY_LAST_PEER | with_reducible apply setFlag_keeps fam_VLY_LAST_SENT
    | with_reducible apply setFld_keeps fam_VLY_LAST_REASON | with_reducible apply setFld_keeps fam_VLY_LAST_CN
    | with_reducible apply raise_keeps | with_reducible apply cancelSwap_keeps | with_reducible apply collided_keeps
    | with_reducible apply amend_keeps | with_reducible apply requestRefused_keeps | with_reducible apply keeps_ite
    | simp only [keepsMk_iff] | with_reducible apply keeps_mk (hw := by with_reducible rfl)

theorem acceptSwap_keeps {m u d0} {x0 x1 x2 x3 x4 d} (hm : Within 98304 m) (hu : Within 0x0 u) (h : Keeps m u d0 d) :
    Keeps m u d0 (acceptSwap x0 x1 x2 x3 x4 d) := by
  unfold acceptSwap
  repeat' first
    | with_reducible assumption | exact hm.sub (by decide) | exact hu.sub (by decide) | subst y
    | (extract_lets +onlyGivenNames y; first | (refine (fun _ => ?_) (?_ : Keeps m u d0 y); clear_value y) | subst y)
    | exact Or.inr (hm.bit (by decide)) | with_reducible exact Or.inl rfl | with_reducible exact Imp.refl _
    | (with_reducible refine Imp.mk (fun _ _ hq => ?_); first | (simp at hq ⊢; done) | (simp at hq ⊢; simp [hq]; done))
    | with_reducible exact Or.inr rfl | with_reducible apply placeQ16_keeps | simp only [keepsMk_iff]
    | with_reducible apply keeps_mk (hw := by with_reducible rfl)

theorem outrun_keeps {m u d0} {x0 x1 d} (hm : Within 32769 m) (hu : Within 0x8000000000000000000000000000000000000000000 u) (h : Keeps m u d0 d) :
    Keeps m u d0 (outrun x0 x1 d) := by
  unfold outrun
  repeat' first
    | with_reducible assumption | exact hm.sub (by decide) | exact hu.sub (by decide) | subst y
    | (extract_lets +onlyGivenNames y; first | (refine (fun _ => ?_) (?_ : Keeps m u d0 y); clear_value y) | subst y)
    | exact Or.inr (hm.bit (by decide)) | with_reducible exact Or.inl rfl | with_reducible exact Imp.refl _
    | (with_reducible refine Imp.mk (fun _ _ hq => ?_); first | (simp at hq ⊢; done) | (simp at hq ⊢; simp [hq]; done))
    | with_reducible exact Or.inr rfl | with_reducible apply noteReject_keeps | simp only [keepsMk_iff]
    | with_reducible apply keeps_mk (hw := by with_reducible rfl)

theorem takeSwapReq_keeps {m u d0} {x0 x1 x2 d} (hm : Within 101889 m) (hu : Within 0x800000000040080000000002c0000000000000000000000000000000 u) (h : Keeps m u d0 d) :
    Keeps m u d0 (takeSwapReq x0 x1 x2 d) := by
  unfold takeSwapReq
  dsimp only
  repeat' first
    | with_reducible assumption | exact hm.sub (by decide) | exact hu.sub (by decide)
    | with_reducible apply sendReject_keeps | with_reducible apply busyAnswer_keeps
    | with_reducible apply acceptSwap_keeps | with_reducible apply outrun_keeps | with_reducible apply raise_keeps
    | with_reducible apply keeps_ite | split

theorem takeSwapAck_keeps {m u d0} {x0 x1 x2 d} (hm : Within 15437823 m) (hu : Within 0x7fffffffffffffffffffffffffffffffffffffffffffffffffffffffff u) (h : Keeps m u d0 d) :
    Keeps m u d0 (takeSwapAck x0 x1 x2 d) := by
  unfold takeSwapAck
  repeat' first
    | with_reducible assumption | exact hm.sub (by decide) | exact hu.sub (by decide)
    | (extract_lets +onlyGivenNames y; first | (refine (fun _ => ?_) (?_ : Keeps m u d0 y); clear_value y) | subst y)
    | exact Or.inr (hm.bit (by decide)) | with_reducible exact Or.inl rfl | with_reducible exact Imp.refl _
    | (with_reducible refine Imp.mk (fun _ _ hq => ?_); first | (simp at hq ⊢; done) | (simp at hq ⊢; simp [hq]; done))
    | with_reducible exact Or.inr rfl | with_reducible apply cancelSwap_keeps | with_reducible apply sendReject_keeps
    | with_reducible apply acknowledged_keeps | with_reducible apply keeps_ite | simp only [keepsMk_iff]
    | with_reducible apply keeps_mk (hw := by with_reducible rfl) | split

theorem opOffer_keeps {m u d0} {x0 x1 x2 x3 d} (hm : Within 15437823 m) (hu : Within 0x7fffffffffffffffffffffffffffffffffffffffffffffffffffffffff u) (h : Keeps m u d0 d) :
    Keeps m u d0 (opOffer x0 x1 x2 x3 d) := by
  unfold opOffer
  repeat' first
    | with_reducible assumption | exact hm.sub (by decide) | exact hu.sub (by decide) | intro _
    | with_reducible apply messageSeen_keeps | with_reducible apply takeOffer_keeps

theorem opRequest_keeps {m u d0} {x0 x1 x2 x3 d} (hm : Within 15437823 m) (hu : Within 0x7fffffffffffffffffffffffffffffffffffffffffffffffffffffffff u) (h : Keeps m u d0 d) :
    Keeps m u d0 (opRequest x0 x1 x2 x3 d) := by
  unfold opRequest
  repeat' first
    | with_reducible assumption | exact hm.sub (by decide) | exact hu.sub (by decide) | intro _
    | with_reducible apply messageSeen_keeps | with_reducible apply takeRequest_keeps

theorem opAccept_keeps {m u d0} {x0 x1 x2 x3 d} (hm : Within 15437823 m) (hu : Within 0x7fffffffffffffffffffffffffffffffffffffffffffffffffffffffff u) (h : Keeps m u d0 d) :
    Keeps m u d0 (opAccept x0 x1 x2 x3 d) := by
  unfold opAccept
  repeat' first
    | with_reducible assumption | exact hm.sub (by decide) | exact hu.sub (by decide) | intro _
    | with_reducible apply messageSeen_keeps | with_reducible apply takeAccept_keeps

theorem opReject_keeps {m u d0} {x0 x1 x2 x3 d} (hm : Within 15437823 m) (hu : Within 0x7fffffffffffffffffffffffffffffffffffffffffffffffffffffffff u) (h : Keeps m u d0 d) :
    Keeps m u d0 (opReject x0 x1 x2 x3 d) := by
  unfold opReject
  repeat' first
    | with_reducible assumption | exact hm.sub (by decide) | exact hu.sub (by decide) | intro _
    | with_reducible apply messageSeen_keeps | with_reducible apply takeReject_keeps

theorem opSwapReq_keeps {m u d0} {x0 x1 x2 x3 d} (hm : Within 15437823 m) (hu : Within 0x7fffffffffffffffffffffffffffffffffffffffffffffffffffffffff u) (h : Keeps m u d0 d) :
    Keeps m u d0 (opSwapReq x0 x1 x2 x3 d) := by
  unfold opSwapReq
  repeat' first
    | with_reducible assumption | exact hm.sub (by decide) | exact hu.sub (by decide) | intro _
    | with_reducible apply messageSeen_keeps | with_reducible apply takeSwapReq_keeps

theorem opSwapAck_keeps {m u d0} {x0 x1 x2 x3 d} (hm : Within 15437823 m) (hu : Within 0x7fffffffffffffffffffffffffffffffffffffffffffffffffffffffff u) (h : Keeps m u d0 d) :
    Keeps m u d0 (opSwapAck x0 x1 x2 x3 d) := by
  unfold opSwapAck
  repeat' first
    | with_reducible assumption | exact hm.sub (by decide) | exact hu.sub (by decide) | intro _
    | with_reducible apply messageSeen_keeps | with_reducible apply takeSwapAck_keeps

theorem opMessagePlaced_keeps {m u d0} {x0 x1 x2 d} (hm : Within 98305 m) (hu : Within 0x800000000000000000000000000000000000000000 u) (h : Keeps m u d0 d) :
    Keeps m u d0 (opMessagePlaced x0 x1 x2 d) := by
  unfold opMessagePlaced
  repeat' first
    | with_reducible assumption | exact hm.sub (by decide) | exact hu.sub (by decide)
    | (extract_lets +onlyGivenNames y; first | (refine (fun _ => ?_) (?_ : Keeps m u d0 y); clear_value y) | subst y)
    | exact Or.inr (hm.bit (by decide)) | with_reducible exact Or.inl rfl | with_reducible exact Imp.refl _
    | (with_reducible refine Imp.mk (fun _ _ hq => ?_); first | (simp at hq ⊢; done) | (simp at hq ⊢; simp [hq]; done))
    | with_reducible exact Or.inr rfl | with_reducible apply setFld_keeps fam_VLY_STATUS_SWAP
    | with_reducible apply placeQ16_keeps | with_reducible apply placeAccept_keeps | with_reducible apply keeps_ite
    | simp only [keepsMk_iff] | with_reducible apply keeps_mk (hw := by with_reducible rfl)

theorem ownSent_keeps {m u d0} {x0 x1 x2 x3 d} (hm : Within 15437823 m) (hu : Within 0x7fffffffffffffffffffffffffffffffffffffffffffffffffffffffff u) (h : Keeps m u d0 d) :
    Keeps m u d0 (ownSent x0 x1 x2 x3 d) := by
  unfold ownSent
  repeat' first
    | with_reducible assumption | exact hm.sub (by decide) | exact hu.sub (by decide)
    | (extract_lets +onlyGivenNames y; first | (refine (fun _ => ?_) (?_ : Keeps m u d0 y); clear_value y) | subst y)
    | exact Or.inr (hm.bit (by decide)) | with_reducible exact Or.inl rfl | with_reducible exact Imp.refl _
    | (with_reducible refine Imp.mk (fun _ _ hq => ?_); first | (simp at hq ⊢; done) | (simp at hq ⊢; simp [hq]; done))
    | with_reducible exact Or.inr rfl | with_reducible apply acknowledged_keeps | with_reducible apply keeps_ite
    | simp only [keepsMk_iff] | with_reducible apply keeps_mk (hw := by with_reducible rfl) | split

theorem opSafeLowStart_keeps {m u d0} {d} (hm : Within 68121 m) (hu : Within 0x4000800000000000000000000000000000000000000000 u) (h : Keeps m u d0 d) :
    Keeps m u d0 (opSafeLowStart d) := by
  unfold opSafeLowStart
  repeat' first
    | with_reducible assumption | exact hm.sub (by decide) | exact hu.sub (by decide)
    | exact Or.inr (hm.bit (by decide)) | with_reducible exact Or.inl rfl | with_reducible exact Imp.refl _
    | (with_reducible refine Imp.mk (fun _ _ hq => ?_); first | (simp at hq ⊢; done) | (simp at hq ⊢; simp [hq]; done))
    | with_reducible exact Or.inr rfl | with_reducible apply advanceTo_keeps | with_reducible apply setSw_keeps
    | with_reducible apply keeps_ite | simp only [keepsMk_iff]
    | with_reducible apply keeps_mk (hw := by with_reducible rfl) | split

theorem opSoftstartDone_keeps {m u d0} {d} (hm : Within 3585 m) (hu : Within 0x800000000040008000000002c0000000000000000000000000000000 u) (h : Keeps m u d0 d) :
    Keeps m u d0 (opSoftstartDone d) := by
  unfold opSoftstartDone
  repeat' first
    | with_reducible assumption | exact hm.sub (by decide) | exact hu.sub (by decide)
    | with_reducible apply raise_keeps | with_reducible apply setSw_keeps | with_reducible apply keeps_ite

theorem opStartFail_keeps {m u d0} {d} (hm : Within 101913 m) (hu : Within 0x800000000040088000000002c00001ec220000000000000000000000 u) (h : Keeps m u d0 d) :
    Keeps m u d0 (opStartFail d) := by
  unfold opStartFail
  repeat' first
    | with_reducible assumption | exact hm.sub (by decide) | exact hu.sub (by decide) | subst y
    | (extract_lets +onlyGivenNames y; first | (refine (fun _ => ?_) (?_ : Keeps m u d0 y); clear_value y) | subst y)
    | exact Or.inr (hm.bit (by decide)) | with_reducible exact Or.inl rfl | with_reducible exact Imp.refl _
    | (with_reducible refine Imp.mk (fun _ _ hq => ?_); first | (simp at hq ⊢; done) | (simp at hq ⊢; simp [hq]; done))
    | with_reducible exact Or.inr rfl | with_reducible apply advanceTo_keeps | with_reducible apply askEnd_keeps
    | with_reducible apply raise_keeps | with_reducible apply setSw_keeps | with_reducible apply keeps_ite
    | simp only [keepsMk_iff] | with_reducible apply keeps_mk (hw := by with_reducible rfl) | split

theorem opVlyOverload_keeps {m u d0} {d} (hm : Within 101913 m) (hu : Within 0x800000000040088000000002c00001ec220000000000000000000000 u) (h : Keeps m u d0 d) :
    Keeps m u d0 (opVlyOverload d) := by
  unfold opVlyOverload
  repeat' first
    | with_reducible assumption | exact hm.sub (by decide) | exact hu.sub (by decide)
    | exact Or.inr (hm.bit (by decide)) | with_reducible exact Or.inl rfl | with_reducible exact Imp.refl _
    | (with_reducible refine Imp.mk (fun _ _ hq => ?_); first | (simp at hq ⊢; done) | (simp at hq ⊢; simp [hq]; done))
    | with_reducible exact Or.inr rfl | with_reducible apply raise_keeps | with_reducible apply setSw_keeps
    | with_reducible apply advanceTo_keeps | with_reducible apply askEnd_keeps | with_reducible apply keeps_ite
    | simp only [keepsMk_iff] | with_reducible apply keeps_mk (hw := by with_reducible rfl) | split

theorem opVlyOv_keeps {m u d0} {d} (hm : Within 3585 m) (hu : Within 0x800000000040008000000002c0000000000000000000000000000000 u) (h : Keeps m u d0 d) :
    Keeps m u d0 (opVlyOv d) := by
  unfold opVlyOv
  repeat' first
    | with_reducible assumption | exact hm.sub (by decide) | exact hu.sub (by decide)
    | with_reducible apply setFlag_keeps fam_VLY_STATUS_IN_WINDOW | with_reducible apply raise_keeps
    | with_reducible apply setSw_keeps | with_reducible apply keeps_ite

theorem opSinkDiodeClose_keeps {m u d0} {d} (hm : Within 1 m) (hu : Within 0x800000000000000000000000000000000000000000 u) (h : Keeps m u d0 d) :
    Keeps m u d0 (opSinkDiodeClose d) := by
  unfold opSinkDiodeClose
  repeat' first
    | with_reducible assumption | exact hm.sub (by decide) | exact hu.sub (by decide) | subst y
    | (extract_lets +onlyGivenNames y; first | (refine (fun _ => ?_) (?_ : Keeps m u d0 y); clear_value y) | subst y)
    | with_reducible apply setFlag_keeps fam_VLY_STATUS_IN_WINDOW | with_reducible apply setSw_keeps
    | with_reducible apply keeps_ite

theorem opSinkLineLow_keeps {m u d0} {d} (hm : Within 7049215 m) (hu : Within 0x7fffffffffffffffffffffffffffffffffffffffffffffffffffffffff u) (h : Keeps m u d0 d) :
    Keeps m u d0 (opSinkLineLow d) := by
  unfold opSinkLineLow
  repeat' first
    | with_reducible assumption | exact hm.sub (by decide) | exact hu.sub (by decide) | subst y
    | (extract_lets +onlyGivenNames y; first | (refine (fun _ => ?_) (?_ : Keeps m u d0 y); clear_value y) | subst y)
    | with_reducible apply setFlag_keeps fam_VLY_STATUS_IN_WINDOW | with_reducible apply descendNow_keeps
    | with_reducible apply keeps_ite

theorem opFsArmed_keeps {m u d0} {d} (hm : Within 1 m) (hu : Within 0x800000000000000000000000000000000000000000 u) (h : Keeps m u d0 d) :
    Keeps m u d0 (opFsArmed d) := by
  unfold opFsArmed
  repeat' first
    | with_reducible assumption | exact hm.sub (by decide) | exact hu.sub (by decide)
    | with_reducible apply setFlag_keeps fam_VLY_STATUS_IN_WINDOW
    | with_reducible apply setFlag_keeps fam_VLY_STATUS_FS_ARMED | with_reducible apply keeps_ite

theorem closeFast_keeps {m u d0} {x0 d} (hm : Within 15437823 m) (hu : Within 0x7fffffffffffffffffffffffffffffffffffffffffffffffffffffffff u) (h : Keeps m u d0 d) :
    Keeps m u d0 (closeFast x0 d) := by
  unfold closeFast
  repeat' first
    | with_reducible assumption | exact hm.sub (by decide) | exact hu.sub (by decide) | subst y
    | (extract_lets +onlyGivenNames y; first | (refine (fun _ => ?_) (?_ : Keeps m u d0 y); clear_value y) | subst y)
    | exact Or.inr (hm.bit (by decide)) | with_reducible exact Or.inl rfl | with_reducible exact Imp.refl _
    | (with_reducible refine Imp.mk (fun _ _ hq => ?_); first | (simp at hq ⊢; done) | (simp at hq ⊢; simp [hq]; done))
    | with_reducible exact Or.inr rfl | with_reducible apply setFlag_keeps fam_VLY_STATUS_FS_ARMED
    | with_reducible apply sendReject_keeps | with_reducible apply raise_keeps | with_reducible apply cancelSwap_keeps
    | with_reducible apply setRole_keeps | with_reducible apply setSw_keeps
    | with_reducible apply leaveStandbyBoost_keeps | with_reducible apply setBk_keeps
    | with_reducible apply placeAccept_keeps | with_reducible apply recompute_keeps | with_reducible apply keeps_ite
    | simp only [keepsMk_iff] | with_reducible apply keeps_mk (hw := by with_reducible rfl) | split

theorem opFastSwap_keeps {m u d0} {x0 d} (hm : Within 15437823 m) (hu : Within 0x7fffffffffffffffffffffffffffffffffffffffffffffffffffffffff u) (h : Keeps m u d0 d) :
    Keeps m u d0 (opFastSwap x0 d) := by
  unfold opFastSwap
  repeat' first
    | with_reducible assumption | exact hm.sub (by decide) | exact hu.sub (by decide)
    | with_reducible apply closeFast_keeps | with_reducible apply keeps_ite

theorem opSourceToDiode_keeps {m u d0} {d} (hm : Within 15437823 m) (hu : Within 0x7fffffffffffffffffffffffffffffffffffffffffffffffffffffffff u) (h : Keeps m u d0 d) :
    Keeps m u d0 (opSourceToDiode d) := by
  unfold opSourceToDiode
  repeat' first
    | with_reducible assumption | exact hm.sub (by decide) | exact hu.sub (by decide)
    | with_reducible apply recompute_keeps | with_reducible apply sourceToSink_keeps | with_reducible apply keeps_ite

theorem opEnergySpent_keeps {m u d0} {d} (hm : Within 101889 m) (hu : Within 0x800000000040088000000002c00001ec220000000000000000000000 u) (h : Keeps m u d0 d) :
    Keeps m u d0 (opEnergySpent d) := by
  unfold opEnergySpent
  repeat' first
    | with_reducible assumption | exact hm.sub (by decide) | exact hu.sub (by decide)
    | with_reducible apply askEnd_keeps | with_reducible apply keeps_ite

theorem opSwapTx_keeps {m u d0} {d} (hm : Within 101913 m) (hu : Within 0x800000000040088000000002c00001ec220000000000000000000000 u) (h : Keeps m u d0 d) :
    Keeps m u d0 (opSwapTx d) := by
  unfold opSwapTx
  repeat' first
    | with_reducible assumption | exact hm.sub (by decide) | exact hu.sub (by decide)
    | with_reducible apply setFld_keeps fam_VLY_STATUS_SWAP | with_reducible apply advanceTo_keeps
    | with_reducible apply setSw_keeps | with_reducible apply cancelSwap_keeps | with_reducible apply sendReject_keeps
    | with_reducible apply keeps_ite | simp only [keepsMk_iff] | split

theorem opSwapOutgoing_keeps {m u d0} {d} (hm : Within 2585 m) (hu : Within 0x4000800000000000000000000000000000000000000000 u) (h : Keeps m u d0 d) :
    Keeps m u d0 (opSwapOutgoing d) := by
  unfold opSwapOutgoing
  repeat' first
    | with_reducible assumption | exact hm.sub (by decide) | exact hu.sub (by decide)
    | with_reducible apply setFld_keeps fam_VLY_STATUS_SWAP
    | with_reducible apply setFlag_keeps fam_VLY_STATUS_STBY_DUTY | with_reducible apply setSw_keeps
    | with_reducible apply advanceTo_keeps | with_reducible apply keeps_ite | simp only [keepsMk_iff] | split

theorem opSwapAmend_keeps {m u d0} {x0 d} (hm : Within 100889 m) (hu : Within 0x4000000000000000000000000000000000000000000000 u) (h : Keeps m u d0 d) :
    Keeps m u d0 (opSwapAmend x0 d) := by
  unfold opSwapAmend
  repeat' first
    | with_reducible assumption | exact hm.sub (by decide) | exact hu.sub (by decide)
    | (extract_lets +onlyGivenNames y; first | (refine (fun _ => ?_) (?_ : Keeps m u d0 y); clear_value y) | subst y)
    | with_reducible apply placeAccept_keeps | with_reducible apply advanceTo_keeps | with_reducible apply keeps_ite
    | simp only [keepsMk_iff] | split

theorem opPpsPulse_keeps {m u d0} {d} (hm : Within 2585 m) (hu : Within 0x4000000000000000000000000000000000000000000000 u) (h : Keeps m u d0 d) :
    Keeps m u d0 (opPpsPulse d) := by
  unfold opPpsPulse
  repeat' first
    | with_reducible assumption | exact hm.sub (by decide) | exact hu.sub (by decide)
    | with_reducible apply advanceTo_keeps | with_reducible apply keeps_ite

theorem valleyLoss_keeps {m u d0} {x0 x1 d} (hm : Within 15437823 m) (hu : Within 0x7fffffffffffffffffffffffffffffffffffffffffffffffffffffffff u) (h : Keeps m u d0 d) :
    Keeps m u d0 (valleyLoss x0 x1 d) := by
  unfold valleyLoss
  repeat' first
    | with_reducible assumption | exact hm.sub (by decide) | exact hu.sub (by decide) | subst y
    | (extract_lets +onlyGivenNames y; first | (refine (fun _ => ?_) (?_ : Keeps m u d0 y); clear_value y) | subst y)
    | exact Or.inr (hm.bit (by decide)) | with_reducible exact Or.inl rfl | with_reducible exact Imp.refl _
    | (with_reducible refine Imp.mk (fun _ _ hq => ?_); first | (simp at hq ⊢; done) | (simp at hq ⊢; simp [hq]; done))
    | with_reducible exact Or.inr rfl | with_reducible apply cancelSwap_keeps | with_reducible apply setSw_keeps
    | with_reducible apply sendReject_keeps | with_reducible apply amend_keeps | with_reducible apply closeFast_keeps
    | with_reducible apply endPart_keeps | with_reducible apply keeps_ite | simp only [keepsMk_iff]
    | with_reducible apply keeps_mk (hw := by with_reducible rfl) | split

theorem opRoofQuery_keeps {m u d0} {x0 d} (hm : Within 3585 m) (hu : Within 0x800000000040000000000002c0000000000000000000000000000000 u) (h : Keeps m u d0 d) :
    Keeps m u d0 (opRoofQuery x0 d) := by
  unfold opRoofQuery
  repeat' first
    | with_reducible assumption | exact hm.sub (by decide) | exact hu.sub (by decide) | intro _
    | with_reducible apply judged_keeps | with_reducible apply complete_keeps

theorem requestRun_keeps {m u d0} {x0 x1 x2 d} (hm : Within 101913 m) (hu : Within 0x800000000040000000000002c0000000000000000000000000000000 u) (h : Keeps m u d0 d) :
    Keeps m u d0 (requestRun x0 x1 x2 d) := by
  unfold requestRun
  repeat' first
    | with_reducible assumption | exact hm.sub (by decide) | exact hu.sub (by decide) | intro _ | subst y
    | (extract_lets +onlyGivenNames y; first | (refine (fun _ => ?_) (?_ : Keeps m u d0 y); clear_value y) | subst y)
    | exact Or.inr (hm.bit (by decide)) | with_reducible exact Or.inl rfl | with_reducible exact Imp.refl _
    | (with_reducible refine Imp.mk (fun _ _ hq => ?_); first | (simp at hq ⊢; done) | (simp at hq ⊢; simp [hq]; done))
    | with_reducible exact Or.inr rfl | with_reducible apply gated_keeps | with_reducible apply complete_keeps
    | with_reducible apply keepRunning_keeps | with_reducible apply placeQ16_keeps | with_reducible apply keeps_ite
    | simp only [keepsMk_iff] | with_reducible apply keeps_mk (hw := by with_reducible rfl) | split

theorem opVlyRequest_keeps {m u d0} {x0 d} (hm : Within 101913 m) (hu : Within 0x800000000040000000000002c0000000000000000000000000000000 u) (h : Keeps m u d0 d) :
    Keeps m u d0 (opVlyRequest x0 d) := by
  unfold opVlyRequest
  repeat' first
    | with_reducible assumption | exact hm.sub (by decide) | exact hu.sub (by decide) | intro _
    | with_reducible apply served_keeps | with_reducible apply requestRun_keeps

theorem opVlyRequestTimeout_keeps {m u d0} {d} (hm : Within 69145 m) (hu : Within 0x800000000040000000000002c0000000000000000000000000000000 u) (h : Keeps m u d0 d) :
    Keeps m u d0 (opVlyRequestTimeout d) := by
  unfold opVlyRequestTimeout
  have key : ∀ c y, Keeps m u d0 y →
      Keeps m u d0 (complete c { y with vly := { y.vly with reqTo := none } } 0 .timeout 0#32 0#32) := by
    intro c y hy
    apply complete_keeps (hm.sub (by decide)) (hu.sub (by decide))
    rw [keepsMk_iff]
    apply keeps_mk (hw := rfl) (ho := rfl) (h := hy)
    all_goals first | exact Or.inl rfl | exact Or.inr rfl | exact Or.inr (hm.bit (by decide)) | exact Imp.refl _ |
      (refine ⟨fun _ _ hq => ?_⟩; simp at hq ⊢; simp [hq])
  split
  · exact key _ _ (advanceTo_keeps (hm.sub (by decide)) (hu.sub (by decide)) h)
  · exact h


theorem opVlyEnd_keeps {m u d0} {x0 d} (hm : Within 101913 m) (hu : Within 0x800000000040088000000002c00001ec220000000000000000000000 u) (h : Keeps m u d0 d) :
    Keeps m u d0 (opVlyEnd x0 d) := by
  unfold opVlyEnd
  repeat' first
    | with_reducible assumption | exact hm.sub (by decide) | exact hu.sub (by decide) | intro _ | subst y
    | (extract_lets +onlyGivenNames y; first | (refine (fun _ => ?_) (?_ : Keeps m u d0 y); clear_value y) | subst y)
    | exact Or.inr (hm.bit (by decide)) | with_reducible exact Or.inl rfl | with_reducible exact Imp.refl _
    | (with_reducible refine Imp.mk (fun _ _ hq => ?_); first | (simp at hq ⊢; done) | (simp at hq ⊢; simp [hq]; done))
    | (with_reducible refine Imp.mk (fun q _ hq => ?_); have r := h.ok q; simp [partsOk_iff] at r hq ⊢; simp [r, hq]; done)
    | (rename_i a ha hb; with_reducible refine Imp.mk (fun q _ _ => ?_); have r := ha.ok q; simp [partsOk_iff] at r ⊢; simp [r]; done)
    | with_reducible exact Or.inr rfl | with_reducible apply served_keeps | with_reducible apply gated_keeps
    | with_reducible apply complete_keeps | with_reducible apply askEnd_keeps | with_reducible apply keepRunning_keeps
    | with_reducible apply keeps_ite | with_reducible apply keeps_foldl | simp only [keepsMk_iff]
    | with_reducible apply keeps_mk (hw := by with_reducible rfl) | with_reducible rfl | split

end Sys2Proof.Machine
end

