-- ==== Sys2Proof/Laws/KLink.lean ====
section
/-! SUPPORT. Every operation of Machine/Link.lean keeps what it does not change (Laws/Keeps.lean). -/

set_option linter.all false
set_option Elab.async false


namespace Sys2Proof.Machine

theorem repeatAnnounce_keeps {m u d0} {x0 d} (hm : Within 32768 m) (hu : Within 0x0 u) (h : Keeps m u d0 d) :
    Keeps m u d0 (repeatAnnounce x0 d) := by
  unfold repeatAnnounce
  repeat' first
    | with_reducible assumption | exact hm.sub (by decide) | exact hu.sub (by decide)
    | (extract_lets +onlyGivenNames y; first | (refine (fun _ => ?_) (?_ : Keeps m u d0 y); clear_value y) | subst y)
    | exact Or.inr (hm.bit (by decide)) | with_reducible exact Or.inl rfl | with_reducible exact Imp.refl _
    | (with_reducible refine Imp.mk (fun _ _ hq => ?_); first | (simp at hq ⊢; done) | (simp at hq ⊢; simp [hq]; done))
    | with_reducible exact Or.inr rfl | with_reducible apply placeQ16_keeps | with_reducible apply keeps_ite
    | simp only [keepsMk_iff] | with_reducible apply keeps_mk (hw := by with_reducible rfl) | split

theorem holderFrame_keeps {m u d0} {x0 d} (hm : Within 15437823 m) (hu : Within 0x7fffffffffffffffffffffffffffffffffffffffffffffffffffffffff u) (h : Keeps m u d0 d) :
    Keeps m u d0 (holderFrame x0 d) := by
  unfold holderFrame
  repeat' first
    | with_reducible assumption | exact hm.sub (by decide) | exact hu.sub (by decide) | subst y
    | (extract_lets +onlyGivenNames y; first | (refine (fun _ => ?_) (?_ : Keeps m u d0 y); clear_value y) | subst y)
    | with_reducible apply setPhase_keeps | with_reducible apply roofIdle_keeps | with_reducible apply sendState_keeps
    | with_reducible apply repeatAnnounce_keeps | with_reducible apply putEligible_keeps
    | with_reducible apply keeps_ite

theorem frameTick_keeps {m u d0} {x0 d} (hm : Within 15437823 m) (hu : Within 0x7fffffffffffffffffffffffffffffffffffffffffffffffffffffffff u) (h : Keeps m u d0 d) :
    Keeps m u d0 (frameTick x0 d) := by
  unfold frameTick
  repeat' first
    | with_reducible assumption | exact hm.sub (by decide) | exact hu.sub (by decide) | subst y
    | (extract_lets +onlyGivenNames y; first | (refine (fun _ => ?_) (?_ : Keeps m u d0 y); clear_value y) | subst y)
    | exact Or.inr (hm.bit (by decide)) | with_reducible exact Or.inl rfl | with_reducible exact Imp.refl _
    | (with_reducible refine Imp.mk (fun _ _ hq => ?_); first | (simp at hq ⊢; done) | (simp at hq ⊢; simp [hq]; done))
    | with_reducible exact Or.inr rfl | with_reducible apply endPart_keeps | with_reducible apply sendAgree_keeps
    | with_reducible apply holderFrame_keeps | with_reducible apply dueDown_keeps
    | with_reducible apply applyHold_keeps | with_reducible apply keeps_ite | simp only [keepsMk_iff]
    | with_reducible apply keeps_mk (hw := by with_reducible rfl) | split

theorem opFrameStartTx_keeps {m u d0} {d} (hm : Within 15437823 m) (hu : Within 0x7fffffffffffffffffffffffffffffffffffffffffffffffffffffffff u) (h : Keeps m u d0 d) :
    Keeps m u d0 (opFrameStartTx d) := by
  unfold opFrameStartTx
  repeat' first
    | with_reducible assumption | exact hm.sub (by decide) | exact hu.sub (by decide) | subst y
    | (extract_lets +onlyGivenNames y; first | (refine (fun _ => ?_) (?_ : Keeps m u d0 y); clear_value y) | subst y)
    | exact Or.inr (hm.bit (by decide)) | with_reducible exact Or.inl rfl | with_reducible exact Imp.refl _
    | (with_reducible refine Imp.mk (fun _ _ hq => ?_); first | (simp at hq ⊢; done) | (simp at hq ⊢; simp [hq]; done))
    | with_reducible exact Or.inr rfl | with_reducible apply advanceTo_keeps | with_reducible apply frameTick_keeps
    | with_reducible apply keeps_ite | simp only [keepsMk_iff]
    | with_reducible apply keeps_mk (hw := by with_reducible rfl)

@[simp] theorem cycleStart_peers {fn l} : (cycleStart fn l).peers = l.peers := by
  unfold cycleStart
  repeat' split
  all_goals rfl

theorem joinStart_keeps {m u d0} {x0 x1 d} (hm : Within 32769 m) (hu : Within 0x40000000000000000000000000000000000000 u) (h : Keeps m u d0 d) :
    Keeps m u d0 (joinStart x0 x1 d) := by
  unfold joinStart
  repeat' first
    | with_reducible assumption | exact hm.sub (by decide) | exact hu.sub (by decide)
    | (extract_lets +onlyGivenNames y; first | (refine (fun _ => ?_) (?_ : Keeps m u d0 y); clear_value y) | subst y)
    | exact Or.inr (hm.bit (by decide)) | with_reducible exact Or.inl rfl | with_reducible exact Imp.refl _
    | (with_reducible refine Imp.mk (fun _ _ hq => ?_); first | (simp at hq ⊢; done) | (simp at hq ⊢; simp [hq]; done))
    | with_reducible exact Or.inr rfl | with_reducible apply setLink_keeps | with_reducible apply keeps_ite
    | simp only [keepsMk_iff] | with_reducible apply keeps_mk (hw := by with_reducible rfl)

theorem arriveAt_keeps {m u d0} {x0 d} (hm : Within 35353 m) (hu : Within 0x4000000000000000000000000000000000000000000000 u) (h : Keeps m u d0 d) :
    Keeps m u d0 (arriveAt x0 d) := by
  unfold arriveAt
  repeat' first
    | with_reducible assumption | exact hm.sub (by decide) | exact hu.sub (by decide) | subst y
    | (extract_lets +onlyGivenNames y; first | (refine (fun _ => ?_) (?_ : Keeps m u d0 y); clear_value y) | subst y)
    | exact Or.inr (hm.bit (by decide)) | with_reducible exact Or.inl rfl | with_reducible exact Imp.refl _
    | (with_reducible refine Imp.mk (fun _ _ hq => ?_); first | (simp at hq ⊢; done) | (simp at hq ⊢; simp [hq]; done))
    | with_reducible exact Or.inr rfl | with_reducible apply passCycles_keeps | with_reducible apply advanceTo_keeps
    | with_reducible apply keeps_ite | simp only [keepsMk_iff]
    | with_reducible apply keeps_mk (hw := by with_reducible rfl)

theorem correct_keeps {m u d0} {x0 x1 d} (hm : Within 35353 m) (hu : Within 0x4000000100000000000000000000000000000000000000 u) (h : Keeps m u d0 d) :
    Keeps m u d0 (correct x0 x1 d) := by
  unfold correct
  repeat' first
    | with_reducible assumption | exact hm.sub (by decide) | exact hu.sub (by decide) | subst y
    | (extract_lets +onlyGivenNames y; first | (refine (fun _ => ?_) (?_ : Keeps m u d0 y); clear_value y) | subst y)
    | exact Or.inr (hm.bit (by decide)) | with_reducible exact Or.inl rfl | with_reducible exact Imp.refl _
    | (with_reducible refine Imp.mk (fun _ _ hq => ?_); first | (simp at hq ⊢; done) | (simp at hq ⊢; simp [hq]; done))
    | with_reducible exact Or.inr rfl | with_reducible apply setW_keeps at_LNK_OFFSET
    | with_reducible apply arriveAt_keeps | with_reducible apply passCycles_keeps | with_reducible apply keeps_ite
    | simp only [keepsMk_iff] | with_reducible apply keeps_mk (hw := by with_reducible rfl)

theorem opFrameStartRx_keeps {m u d0} {x0 x1 x2 d} (hm : Within 15437823 m) (hu : Within 0x7fffffffffffffffffffffffffffffffffffffffffffffffffffffffff u) (h : Keeps m u d0 d) :
    Keeps m u d0 (opFrameStartRx x0 x1 x2 d) := by
  unfold opFrameStartRx
  repeat' first
    | with_reducible assumption | exact hm.sub (by decide) | exact hu.sub (by decide) | subst y
    | (extract_lets +onlyGivenNames y; first | (refine (fun _ => ?_) (?_ : Keeps m u d0 y); clear_value y) | subst y)
    | with_reducible apply setFlag_keeps fam_LNK_STATUS_HOLDOVER | with_reducible apply setLink_keeps
    | with_reducible apply settle_keeps | with_reducible apply count_keeps | with_reducible apply joinStart_keeps
    | with_reducible apply frameTick_keeps | with_reducible apply updateSuspect_keeps
    | with_reducible apply correct_keeps | with_reducible apply keeps_ite

theorem sendSlot_keeps {m u d0} {x0 x1 x2 x3 d} (hm : Within 36353 m) (hu : Within 0x800000000040000008000002c0000000000000000000000000000000 u) (h : Keeps m u d0 d) (hk : ∀ d, Keeps m u d0 d → Keeps m u d0 (x3 d)) :
    Keeps m u d0 (sendSlot x0 x1 x2 x3 d) := by
  unfold sendSlot
  repeat' first
    | with_reducible assumption | exact hm.sub (by decide) | exact hu.sub (by decide)
    | (extract_lets +onlyGivenNames y; first | (refine (fun _ => ?_) (?_ : Keeps m u d0 y); clear_value y) | subst y)
    | exact Or.inr (hm.bit (by decide)) | with_reducible exact Or.inl rfl | with_reducible exact Imp.refl _
    | (with_reducible refine Imp.mk (fun _ _ hq => ?_); first | (simp at hq ⊢; done) | (simp at hq ⊢; simp [hq]; done))
    | with_reducible exact Or.inr rfl | with_reducible apply hk
    | with_reducible apply addSat_keeps fam_LNK_TX_ABANDONED | with_reducible apply settle_keeps
    | with_reducible apply count_keeps | with_reducible apply keeps_ite | simp only [keepsMk_iff]
    | with_reducible apply keeps_mk (hw := by with_reducible rfl)

theorem chooseTarget_keeps {m u d0} {d} (hm : Within 32768 m) (hu : Within 0x0 u) (h : Keeps m u d0 d) :
    Keeps m u d0 (chooseTarget d) := by
  unfold chooseTarget
  repeat' first
    | with_reducible assumption | exact hm.sub (by decide) | exact hu.sub (by decide)
    | (extract_lets +onlyGivenNames y; first | (refine (fun _ => ?_) (?_ : Keeps m u d0 y); clear_value y) | subst y)
    | exact Or.inr (hm.bit (by decide)) | with_reducible exact Or.inl rfl | with_reducible exact Imp.refl _
    | (with_reducible refine Imp.mk (fun _ _ hq => ?_); first | (simp at hq ⊢; done) | (simp at hq ⊢; simp [hq]; done))
    | with_reducible exact Or.inr rfl | with_reducible apply keeps_ite | simp only [keepsMk_iff]
    | with_reducible apply keeps_mk (hw := by with_reducible rfl)

theorem fillSlot_keeps {m u d0} {x0 d} (hm : Within 15437823 m) (hu : Within 0x7fffffffffffffffffffffffffffffffffffffffffffffffffffffffff u) (h : Keeps m u d0 d) :
    Keeps m u d0 (fillSlot x0 d) := by
  unfold fillSlot
  repeat' first
    | with_reducible assumption | exact hm.sub (by decide) | exact hu.sub (by decide) | intro _ | subst y
    | (extract_lets +onlyGivenNames y; first | (refine (fun _ => ?_) (?_ : Keeps m u d0 y); clear_value y) | subst y)
    | exact Or.inr (hm.bit (by decide)) | with_reducible exact Or.inl rfl | with_reducible exact Imp.refl _
    | (with_reducible refine Imp.mk (fun _ _ hq => ?_); first | (simp at hq ⊢; done) | (simp at hq ⊢; simp [hq]; done))
    | with_reducible exact Or.inr rfl | with_reducible apply sendSlot_keeps | with_reducible apply ownSent_keeps
    | with_reducible apply chooseTarget_keeps | with_reducible apply keeps_id | with_reducible apply keeps_ite
    | simp only [keepsMk_iff] | with_reducible apply keeps_mk (hw := by with_reducible rfl) | split

theorem opSlotTx_keeps {m u d0} {x0 d} (hm : Within 15437823 m) (hu : Within 0x7fffffffffffffffffffffffffffffffffffffffffffffffffffffffff u) (h : Keeps m u d0 d) :
    Keeps m u d0 (opSlotTx x0 d) := by
  unfold opSlotTx
  repeat' first
    | with_reducible assumption | exact hm.sub (by decide) | exact hu.sub (by decide) | intro _ | subst y
    | (extract_lets +onlyGivenNames y; first | (refine (fun _ => ?_) (?_ : Keeps m u d0 y); clear_value y) | subst y)
    | with_reducible apply noteMissing_keeps | with_reducible apply advanceTo_keeps
    | with_reducible apply sendSlot_keeps | with_reducible apply fillSlot_keeps | with_reducible apply keeps_id
    | with_reducible apply keeps_ite

theorem opSlotError_keeps {m u d0} {x0 x1 d} (hm : Within 36353 m) (hu : Within 0x800000000040000010000002c0000000000000000000000000000000 u) (h : Keeps m u d0 d) :
    Keeps m u d0 (opSlotError x0 x1 d) := by
  unfold opSlotError
  repeat' first
    | with_reducible assumption | exact hm.sub (by decide) | exact hu.sub (by decide) | subst y
    | (extract_lets +onlyGivenNames y; first | (refine (fun _ => ?_) (?_ : Keeps m u d0 y); clear_value y) | subst y)
    | exact Or.inr (hm.bit (by decide)) | with_reducible exact Or.inl rfl | with_reducible exact Imp.refl _
    | (with_reducible refine Imp.mk (fun _ _ hq => ?_); first | (simp at hq ⊢; done) | (simp at hq ⊢; simp [hq]; done))
    | with_reducible exact Or.inr rfl | with_reducible apply addSat_keeps fam_LNK_ERRCNT_ERRORS
    | with_reducible apply addSat_keeps fam_LNK_ERRCNT_PREEMPTED | with_reducible apply settle_keeps
    | with_reducible apply count_keeps | with_reducible apply raise_keeps | with_reducible apply keeps_ite
    | simp only [keepsMk_iff] | with_reducible apply keeps_mk (hw := by with_reducible rfl)

theorem takeStatus_keeps {m u d0} {x0 x1 x2 d} (hm : Within 36353 m) (hu : Within 0x800000000040000040400002c0000000000000000000000000000000 u) (h : Keeps m u d0 d) :
    Keeps m u d0 (takeStatus x0 x1 x2 d) := by
  unfold takeStatus
  repeat' first
    | with_reducible assumption | exact hm.sub (by decide) | exact hu.sub (by decide) | subst y
    | (extract_lets +onlyGivenNames y; first | (refine (fun _ => ?_) (?_ : Keeps m u d0 y); clear_value y) | subst y)
    | exact Or.inr (hm.bit (by decide)) | with_reducible exact Or.inl rfl | with_reducible exact Imp.refl _
    | (with_reducible refine Imp.mk (fun _ _ hq => ?_); first | (simp at hq ⊢; done) | (simp at hq ⊢; simp [hq]; done))
    | with_reducible exact Or.inr rfl | with_reducible apply modPeer_keeps | with_reducible apply newHolder_keeps
    | with_reducible apply stopHolding_keeps | with_reducible apply keeps_ite | simp only [keepsMk_iff]
    | with_reducible apply keeps_mk (hw := by with_reducible rfl)

theorem opStatus_keeps {m u d0} {x0 x1 x2 x3 d} (hm : Within 15437823 m) (hu : Within 0x7fffffffffffffffffffffffffffffffffffffffffffffffffffffffff u) (h : Keeps m u d0 d) :
    Keeps m u d0 (opStatus x0 x1 x2 x3 d) := by
  unfold opStatus
  repeat' first
    | with_reducible assumption | exact hm.sub (by decide) | exact hu.sub (by decide) | intro _
    | with_reducible apply slotSeen_keeps | with_reducible apply takeStatus_keeps

theorem judgeBy_keeps {m u d0} {x0 d} (hm : Within 3585 m) (hu : Within 0x800000000040000040400002c0000000000000000000000000000000 u) (h : Keeps m u d0 d) :
    Keeps m u d0 (judgeBy x0 d) := by
  unfold judgeBy
  repeat' first
    | with_reducible assumption | exact hm.sub (by decide) | exact hu.sub (by decide)
    | with_reducible apply judge_keeps | with_reducible apply keeps_ite

theorem opPresence_keeps {m u d0} {x0 x1 x2 x3 x4 d} (hm : Within 15437823 m) (hu : Within 0x7fffffffffffffffffffffffffffffffffffffffffffffffffffffffff u) (h : Keeps m u d0 d) :
    Keeps m u d0 (opPresence x0 x1 x2 x3 x4 d) := by
  unfold opPresence
  dsimp only
  repeat' first
    | with_reducible assumption | exact hm.sub (by decide) | exact hu.sub (by decide) | intro _
    | with_reducible apply judgeBy_keeps | with_reducible apply modPeer_keeps | with_reducible apply slotPresent_keeps
    | with_reducible apply slotSeen_keeps | with_reducible apply keeps_ite

theorem resign_keeps {m u d0} {d} (hm : Within 3585 m) (hu : Within 0x800000000040000040400002c0000000000000000000000000000000 u) (h : Keeps m u d0 d) :
    Keeps m u d0 (resign d) := by
  unfold resign
  repeat' first
    | with_reducible assumption | exact hm.sub (by decide) | exact hu.sub (by decide) | subst y
    | (extract_lets +onlyGivenNames y; first | (refine (fun _ => ?_) (?_ : Keeps m u d0 y); clear_value y) | subst y)
    | with_reducible apply setFlag_keeps fam_LNK_STATUS_HOLDER_VALID
    | with_reducible apply setFlag_keeps fam_ROOF_STATUS_RESIGNED | with_reducible apply setPart_keeps
    | with_reducible apply setLink_keeps | with_reducible apply stopHolding_keeps | with_reducible apply raise_keeps
    | with_reducible apply keeps_ite

theorem opDigest_keeps {m u d0} {x0 x1 x2 d} (hm : Within 15437823 m) (hu : Within 0x7fffffffffffffffffffffffffffffffffffffffffffffffffffffffff u) (h : Keeps m u d0 d) :
    Keeps m u d0 (opDigest x0 x1 x2 d) := by
  unfold opDigest
  repeat' first
    | with_reducible assumption | exact hm.sub (by decide) | exact hu.sub (by decide) | intro _
    | with_reducible apply slotSeen_keeps | with_reducible apply resign_keeps | with_reducible apply judgeBy_keeps
    | with_reducible apply modPeer_keeps

theorem opCalReq_keeps {m u d0} {x0 x1 x2 x3 d} (hm : Within 15437823 m) (hu : Within 0x7fffffffffffffffffffffffffffffffffffffffffffffffffffffffff u) (h : Keeps m u d0 d) :
    Keeps m u d0 (opCalReq x0 x1 x2 x3 d) := by
  unfold opCalReq
  repeat' first
    | with_reducible assumption | exact hm.sub (by decide) | exact hu.sub (by decide) | intro _
    | (extract_lets +onlyGivenNames y; first | (refine (fun _ => ?_) (?_ : Keeps m u d0 y); clear_value y) | subst y)
    | exact Or.inr (hm.bit (by decide)) | with_reducible exact Or.inl rfl | with_reducible exact Imp.refl _
    | (with_reducible refine Imp.mk (fun _ _ hq => ?_); first | (simp at hq ⊢; done) | (simp at hq ⊢; simp [hq]; done))
    | with_reducible exact Or.inr rfl | with_reducible apply slotSeen_keeps | with_reducible apply keeps_ite
    | simp only [keepsMk_iff] | with_reducible apply keeps_mk (hw := by with_reducible rfl)

theorem takeCalResp_keeps {m u d0} {x0 x1 d} (hm : Within 32769 m) (hu : Within 0xc0000000000000000000000000000000000000 u) (h : Keeps m u d0 d) :
    Keeps m u d0 (takeCalResp x0 x1 d) := by
  unfold takeCalResp
  repeat' first
    | with_reducible assumption | exact hm.sub (by decide) | exact hu.sub (by decide)
    | (extract_lets +onlyGivenNames y; first | (refine (fun _ => ?_) (?_ : Keeps m u d0 y); clear_value y) | subst y)
    | exact Or.inr (hm.bit (by decide)) | with_reducible exact Or.inl rfl | with_reducible exact Imp.refl _
    | (with_reducible refine Imp.mk (fun _ _ hq => ?_); first | (simp at hq ⊢; done) | (simp at hq ⊢; simp [hq]; done))
    | with_reducible exact Or.inr rfl | with_reducible apply setFld_keeps fam_LNK_DELAY_RTT
    | with_reducible apply setLink_keeps | with_reducible apply keeps_ite | simp only [keepsMk_iff]
    | with_reducible apply keeps_mk (hw := by with_reducible rfl)

theorem opCalResp_keeps {m u d0} {x0 x1 x2 x3 x4 d} (hm : Within 15437823 m) (hu : Within 0x7fffffffffffffffffffffffffffffffffffffffffffffffffffffffff u) (h : Keeps m u d0 d) :
    Keeps m u d0 (opCalResp x0 x1 x2 x3 x4 d) := by
  unfold opCalResp
  repeat' first
    | with_reducible assumption | exact hm.sub (by decide) | exact hu.sub (by decide) | intro _
    | with_reducible apply slotSeen_keeps | with_reducible apply takeCalResp_keeps | with_reducible apply keeps_ite

theorem opGuardExchange_keeps {m u d0} {x0 x1 d} (hm : Within 32768 m) (hu : Within 0x0 u) (h : Keeps m u d0 d) :
    Keeps m u d0 (opGuardExchange x0 x1 d) := by
  unfold opGuardExchange
  repeat' first
    | with_reducible assumption | exact hm.sub (by decide) | exact hu.sub (by decide)
    | (extract_lets +onlyGivenNames y; first | (refine (fun _ => ?_) (?_ : Keeps m u d0 y); clear_value y) | subst y)
    | exact Or.inr (hm.bit (by decide)) | with_reducible exact Or.inl rfl | with_reducible exact Imp.refl _
    | (with_reducible refine Imp.mk (fun _ _ hq => ?_); first | (simp at hq ⊢; done) | (simp at hq ⊢; simp [hq]; done))
    | with_reducible exact Or.inr rfl | with_reducible apply keeps_ite | simp only [keepsMk_iff]
    | with_reducible apply keeps_mk (hw := by with_reducible rfl)

theorem beDisciplined_keeps {m u d0} {d} (hm : Within 15437823 m) (hu : Within 0x7fffffffffffffffffffffffffffffffffffffffffffffffffffffffff u) (h : Keeps m u d0 d) :
    Keeps m u d0 (beDisciplined d) := by
  unfold beDisciplined
  repeat' first
    | with_reducible assumption | exact hm.sub (by decide) | exact hu.sub (by decide) | subst y
    | (extract_lets +onlyGivenNames y; first | (refine (fun _ => ?_) (?_ : Keeps m u d0 y); clear_value y) | subst y)
    | with_reducible apply setFlag_keeps fam_LNK_STATUS_DISCIPLINED
    | with_reducible apply setFlag_keeps fam_COLD_STATUS_LINK_UNDISCIPLINED | with_reducible apply tryStart_keeps
    | with_reducible apply updateSuspect_keeps | with_reducible apply raise_keeps

theorem opDisciplined_keeps {m u d0} {d} (hm : Within 15437823 m) (hu : Within 0x7fffffffffffffffffffffffffffffffffffffffffffffffffffffffff u) (h : Keeps m u d0 d) :
    Keeps m u d0 (opDisciplined d) := by
  unfold opDisciplined
  repeat' first
    | with_reducible assumption | exact hm.sub (by decide) | exact hu.sub (by decide)
    | with_reducible apply beDisciplined_keeps | with_reducible apply advanceTo_keeps
    | with_reducible apply setLink_keeps | with_reducible apply keeps_ite

theorem loseLink_keeps {m u d0} {x0 d} (hm : Within 15437823 m) (hu : Within 0x7fffffffffffffffffffffffffffffffffffffffffffffffffffffffff u) (h : Keeps m u d0 d) :
    Keeps m u d0 (loseLink x0 d) := by
  unfold loseLink
  repeat' first
    | with_reducible assumption | exact hm.sub (by decide) | exact hu.sub (by decide) | subst y
    | (extract_lets +onlyGivenNames y; first | (refine (fun _ => ?_) (?_ : Keeps m u d0 y); clear_value y) | subst y)
    | exact Or.inr (hm.bit (by decide)) | with_reducible exact Or.inl rfl | with_reducible exact Imp.refl _
    | (with_reducible refine Imp.mk (fun _ _ hq => ?_); first | (simp at hq ⊢; done) | (simp at hq ⊢; simp [hq]; done))
    | with_reducible exact Or.inr rfl | with_reducible apply setFlag_keeps fam_COLD_STATUS_LINK_UNDISCIPLINED
    | with_reducible apply setFlag_keeps fam_LNK_STATUS_HOLDER_VALID
    | with_reducible apply setFlag_keeps fam_LNK_STATUS_IS_HOLDER
    | with_reducible apply setFlag_keeps fam_LNK_STATUS_DISCIPLINED
    | with_reducible apply setFlag_keeps fam_LNK_STATUS_HOLDOVER | with_reducible apply setLink_keeps
    | with_reducible apply updateSuspect_keeps | simp only [keepsMk_iff]
    | with_reducible apply keeps_mk (hw := by with_reducible rfl)

theorem opHoldoverLimit_keeps {m u d0} {d} (hm : Within 15437823 m) (hu : Within 0x7fffffffffffffffffffffffffffffffffffffffffffffffffffffffff u) (h : Keeps m u d0 d) :
    Keeps m u d0 (opHoldoverLimit d) := by
  unfold opHoldoverLimit
  repeat' first
    | with_reducible assumption | exact hm.sub (by decide) | exact hu.sub (by decide)
    | with_reducible apply loseLink_keeps | with_reducible apply raise_keeps | with_reducible apply advanceTo_keeps
    | with_reducible apply keeps_ite

theorem opHolderElection_keeps {m u d0} {d} (hm : Within 36377 m) (hu : Within 0x800000000040000041c00002c0000000000000000000000000000000 u) (h : Keeps m u d0 d) :
    Keeps m u d0 (opHolderElection d) := by
  unfold opHolderElection
  repeat' first
    | with_reducible assumption | exact hm.sub (by decide) | exact hu.sub (by decide) | subst y
    | (extract_lets +onlyGivenNames y; first | (refine (fun _ => ?_) (?_ : Keeps m u d0 y); clear_value y) | subst y)
    | exact Or.inr (hm.bit (by decide)) | with_reducible exact Or.inl rfl | with_reducible exact Imp.refl _
    | (with_reducible refine Imp.mk (fun _ _ hq => ?_); first | (simp at hq ⊢; done) | (simp at hq ⊢; simp [hq]; done))
    | with_reducible exact Or.inr rfl | with_reducible apply advanceTo_keeps | with_reducible apply becomeHolder_keeps
    | with_reducible apply keeps_ite | simp only [keepsMk_iff]
    | with_reducible apply keeps_mk (hw := by with_reducible rfl)

theorem opHolderHandover_keeps {m u d0} {d} (hm : Within 36353 m) (hu : Within 0x800000000040000041c00002c0000000000000000000000000000000 u) (h : Keeps m u d0 d) :
    Keeps m u d0 (opHolderHandover d) := by
  unfold opHolderHandover
  repeat' first
    | with_reducible assumption | exact hm.sub (by decide) | exact hu.sub (by decide) | subst y
    | (extract_lets +onlyGivenNames y; first | (refine (fun _ => ?_) (?_ : Keeps m u d0 y); clear_value y) | subst y)
    | exact Or.inr (hm.bit (by decide)) | with_reducible exact Or.inl rfl | with_reducible exact Imp.refl _
    | (with_reducible refine Imp.mk (fun _ _ hq => ?_); first | (simp at hq ⊢; done) | (simp at hq ⊢; simp [hq]; done))
    | with_reducible exact Or.inr rfl | with_reducible apply becomeHolder_keeps | with_reducible apply newHolder_keeps
    | with_reducible apply stopHolding_keeps | with_reducible apply keeps_ite | simp only [keepsMk_iff]
    | with_reducible apply keeps_mk (hw := by with_reducible rfl) | split

theorem opHolderLost_keeps {m u d0} {d} (hm : Within 36353 m) (hu : Within 0x800000000040000000400002c0000000000000000000000000000000 u) (h : Keeps m u d0 d) :
    Keeps m u d0 (opHolderLost d) := by
  unfold opHolderLost
  repeat' first
    | with_reducible assumption | exact hm.sub (by decide) | exact hu.sub (by decide) | subst y
    | (extract_lets +onlyGivenNames y; first | (refine (fun _ => ?_) (?_ : Keeps m u d0 y); clear_value y) | subst y)
    | exact Or.inr (hm.bit (by decide)) | with_reducible exact Or.inl rfl | with_reducible exact Imp.refl _
    | (with_reducible refine Imp.mk (fun _ _ hq => ?_); first | (simp at hq ⊢; done) | (simp at hq ⊢; simp [hq]; done))
    | with_reducible exact Or.inr rfl | with_reducible apply setFlag_keeps fam_LNK_STATUS_HOLDOVER
    | with_reducible apply setLink_keeps | with_reducible apply raise_keeps | with_reducible apply keeps_ite
    | simp only [keepsMk_iff] | with_reducible apply keeps_mk (hw := by with_reducible rfl)

theorem opHolderChange_keeps {m u d0} {d} (hm : Within 36353 m) (hu : Within 0x800000000040000041c00002c0000000000000000000000000000000 u) (h : Keeps m u d0 d) :
    Keeps m u d0 (opHolderChange d) := by
  unfold opHolderChange
  repeat' first
    | with_reducible assumption | exact hm.sub (by decide) | exact hu.sub (by decide) | subst y
    | (extract_lets +onlyGivenNames y; first | (refine (fun _ => ?_) (?_ : Keeps m u d0 y); clear_value y) | subst y)
    | exact Or.inr (hm.bit (by decide)) | with_reducible exact Or.inl rfl | with_reducible exact Imp.refl _
    | (with_reducible refine Imp.mk (fun _ _ hq => ?_); first | (simp at hq ⊢; done) | (simp at hq ⊢; simp [hq]; done))
    | with_reducible exact Or.inr rfl | with_reducible apply becomeHolder_keeps | with_reducible apply newHolder_keeps
    | with_reducible apply setLink_keeps | with_reducible apply keeps_ite | simp only [keepsMk_iff]
    | with_reducible apply keeps_mk (hw := by with_reducible rfl) | split

theorem opMemberLost_keeps {m u d0} {x0 d} (hm : Within 15437823 m) (hu : Within 0x7fffffffffffffffffffffffffffffffffffffffffffffffffffffffff u) (h : Keeps m u d0 d) :
    Keeps m u d0 (opMemberLost x0 d) := by
  unfold opMemberLost
  repeat' first
    | with_reducible assumption | exact hm.sub (by decide) | exact hu.sub (by decide) | subst y
    | (extract_lets +onlyGivenNames y; first | (refine (fun _ => ?_) (?_ : Keeps m u d0 y); clear_value y) | subst y)
    | with_reducible apply setFld_keeps fam_LNK_STATUS_PRESENT | with_reducible apply raise_keeps
    | with_reducible apply modPeer_keeps | with_reducible apply valleyLoss_keeps
    | with_reducible apply insertUrgent_keeps | with_reducible apply holderDescend_keeps
    | with_reducible apply keeps_ite

theorem opAddrConflict_keeps {m u d0} {d} (hm : Within 3585 m) (hu : Within 0x800000000040000000400002c0000000000000000000000000000000 u) (h : Keeps m u d0 d) :
    Keeps m u d0 (opAddrConflict d) := by
  unfold opAddrConflict
  repeat' first
    | with_reducible assumption | exact hm.sub (by decide) | exact hu.sub (by decide)
    | with_reducible apply setFlag_keeps fam_LNK_STATUS_ADDR_CONFLICT | with_reducible apply raise_keeps
    | with_reducible apply setLink_keeps | with_reducible apply keeps_ite

theorem opLinkDead_keeps {m u d0} {d} (hm : Within 15437823 m) (hu : Within 0x7fffffffffffffffffffffffffffffffffffffffffffffffffffffffff u) (h : Keeps m u d0 d) :
    Keeps m u d0 (opLinkDead d) := by
  unfold opLinkDead
  repeat' first
    | with_reducible assumption | exact hm.sub (by decide) | exact hu.sub (by decide)
    | with_reducible apply raise_keeps | with_reducible apply loseLink_keeps | with_reducible apply keeps_ite

theorem opUrgentReinsert_keeps {m u d0} {d} (hm : Within 36353 m) (hu : Within 0x800000000040000008000002c0000000000000000000000000000000 u) (h : Keeps m u d0 d) :
    Keeps m u d0 (opUrgentReinsert d) := by
  unfold opUrgentReinsert
  repeat' first
    | with_reducible assumption | exact hm.sub (by decide) | exact hu.sub (by decide)
    | (extract_lets +onlyGivenNames y; first | (refine (fun _ => ?_) (?_ : Keeps m u d0 y); clear_value y) | subst y)
    | exact Or.inr (hm.bit (by decide)) | with_reducible exact Or.inl rfl | with_reducible exact Imp.refl _
    | (with_reducible refine Imp.mk (fun _ _ hq => ?_); first | (simp at hq ⊢; done) | (simp at hq ⊢; simp [hq]; done))
    | with_reducible exact Or.inr rfl | with_reducible apply addSat_keeps fam_LNK_TX_URGENT_SENT
    | with_reducible apply settle_keeps | with_reducible apply count_keeps | simp only [keepsMk_iff]
    | with_reducible apply keeps_mk (hw := by with_reducible rfl) | split

end Sys2Proof.Machine
end

