-- ==== Sys2Proof/Laws/KRoof.lean ====
section
/-! SUPPORT. Every operation of Machine/Roof.lean keeps what it does not change (Laws/Keeps.lean). -/

set_option linter.all false
set_option Elab.async false


namespace Sys2Proof.Machine

theorem urgentAct_keeps {m u d0} {x0 x1 d} (hm : Within 15437823 m) (hu : Within 0x7fffffffffffffffffffffffffffffffffffffffffffffffffffffffff u) (h : Keeps m u d0 d) :
    Keeps m u d0 (urgentAct x0 x1 d) := by
  unfold urgentAct
  repeat' first
    | with_reducible assumption | exact hm.sub (by decide) | exact hu.sub (by decide)
    | (extract_lets +onlyGivenNames y; first | (refine (fun _ => ?_) (?_ : Keeps m u d0 y); clear_value y) | subst y)
    | with_reducible apply roofFault_keeps | with_reducible apply applyHold_keeps | with_reducible apply phaseOn_keeps
    | with_reducible apply roofDescend_keeps | with_reducible apply valleyLoss_keeps
    | with_reducible apply putHold_keeps | with_reducible apply keeps_ite | split

theorem urgentRecord_keeps {m u d0} {x0 x1 d} (hm : Within 36353 m) (hu : Within 0x800000000040000004000002c0000000000000000000000000000000 u) (h : Keeps m u d0 d) :
    Keeps m u d0 (urgentRecord x0 x1 d) := by
  unfold urgentRecord
  repeat' first
    | with_reducible assumption | exact hm.sub (by decide) | exact hu.sub (by decide) | subst y
    | (extract_lets +onlyGivenNames y; first | (refine (fun _ => ?_) (?_ : Keeps m u d0 y); clear_value y) | subst y)
    | exact Or.inr (hm.bit (by decide)) | with_reducible exact Or.inl rfl | with_reducible exact Imp.refl _
    | (with_reducible refine Imp.mk (fun _ _ hq => ?_); first | (simp at hq ⊢; done) | (simp at hq ⊢; simp [hq]; done))
    | with_reducible exact Or.inr rfl | with_reducible apply setFlag_keeps fam_LNK_URGENT_VALID
    | with_reducible apply setFld_keeps fam_LNK_URGENT_KIND
    | with_reducible apply setFlag_keeps fam_LNK_URGENT_VIA_ECHO
    | with_reducible apply setFld_keeps fam_LNK_URGENT_FN_LOW | with_reducible apply setFld_keeps fam_LNK_URGENT_DATA
    | with_reducible apply settle_keeps | with_reducible apply count_keeps | simp only [keepsMk_iff]
    | with_reducible apply keeps_mk (hw := by with_reducible rfl)

theorem opUrgent_keeps {m u d0} {x0 d} (hm : Within 15437823 m) (hu : Within 0x7fffffffffffffffffffffffffffffffffffffffffffffffffffffffff u) (h : Keeps m u d0 d) :
    Keeps m u d0 (opUrgent x0 d) := by
  unfold opUrgent
  repeat' first
    | with_reducible assumption | exact hm.sub (by decide) | exact hu.sub (by decide)
    | with_reducible apply urgentAct_keeps | with_reducible apply urgentRecord_keeps
    | with_reducible apply raise_keeps | with_reducible apply holdBus_keeps | with_reducible apply keeps_ite

theorem opEcho_keeps {m u d0} {x0 x1 x2 d} (hm : Within 15437823 m) (hu : Within 0x7fffffffffffffffffffffffffffffffffffffffffffffffffffffffff u) (h : Keeps m u d0 d) :
    Keeps m u d0 (opEcho x0 x1 x2 d) := by
  unfold opEcho
  repeat' first
    | with_reducible assumption | exact hm.sub (by decide) | exact hu.sub (by decide) | intro _
    | with_reducible apply slotSeen_keeps | with_reducible apply urgentAct_keeps
    | with_reducible apply urgentRecord_keeps | with_reducible apply raise_keeps | with_reducible apply keeps_ite

theorem announced_keeps {m u d0} {x0 x1 x2 x3 x4 x5 d} (hm : Within 15437823 m) (hu : Within 0x7fffffffffffffffffffffffffffffffffffffffffffffffffffffffff u) (h : Keeps m u d0 d) (hk : ∀ d, Keeps m u d0 d → Keeps m u d0 (x5 d)) :
    Keeps m u d0 (announced x0 x1 x2 x3 x4 x5 d) := by
  unfold announced
  repeat' first
    | with_reducible assumption | exact hm.sub (by decide) | exact hu.sub (by decide) | intro _
    | (extract_lets +onlyGivenNames y; first | (refine (fun _ => ?_) (?_ : Keeps m u d0 y); clear_value y) | subst y)
    | exact Or.inr (hm.bit (by decide)) | with_reducible exact Or.inl rfl | with_reducible exact Imp.refl _
    | (with_reducible refine Imp.mk (fun _ _ hq => ?_); first | (simp at hq ⊢; done) | (simp at hq ⊢; simp [hq]; done))
    | with_reducible exact Or.inr rfl | with_reducible apply hk | with_reducible apply messageSeen_keeps
    | with_reducible apply keeps_ite | simp only [keepsMk_iff]
    | with_reducible apply keeps_mk (hw := by with_reducible rfl)

theorem startAt_keeps {m u d0} {x0 x1 x2 d} (hm : Within 36481 m) (hu : Within 0x800000000040000240400002c0000000000000000000000000210000 u) (h : Keeps m u d0 d) :
    Keeps m u d0 (startAt x0 x1 x2 d) := by
  unfold startAt
  repeat' first
    | with_reducible assumption | exact hm.sub (by decide) | exact hu.sub (by decide) | subst y
    | (extract_lets +onlyGivenNames y; first | (refine (fun _ => ?_) (?_ : Keeps m u d0 y); clear_value y) | subst y)
    | exact Or.inr (hm.bit (by decide)) | with_reducible exact Or.inl rfl | with_reducible exact Imp.refl _
    | (with_reducible refine Imp.mk (fun _ _ hq => ?_); first | (simp at hq ⊢; done) | (simp at hq ⊢; simp [hq]; done))
    | with_reducible exact Or.inr rfl | with_reducible apply setFlag_keeps fam_ROOF_STATUS_DEGRADED
    | with_reducible apply setFld_keeps fam_ROOF_HOLD_HOLD_TOTAL | with_reducible apply raise_keeps
    | with_reducible apply fixT0_keeps | with_reducible apply setPart_keeps | with_reducible apply keeps_ite
    | simp only [keepsMk_iff] | with_reducible apply keeps_mk (hw := by with_reducible rfl)

theorem opAnnounceStart_keeps {m u d0} {x0 x1 x2 x3 d} (hm : Within 15437823 m) (hu : Within 0x7fffffffffffffffffffffffffffffffffffffffffffffffffffffffff u) (h : Keeps m u d0 d) :
    Keeps m u d0 (opAnnounceStart x0 x1 x2 x3 d) := by
  unfold opAnnounceStart
  repeat' first
    | with_reducible assumption | exact hm.sub (by decide) | exact hu.sub (by decide) | intro _
    | with_reducible apply announced_keeps | with_reducible apply startAt_keeps

theorem takeState_keeps {m u d0} {x0 x1 x2 d} (hm : Within 15437823 m) (hu : Within 0x7fffffffffffffffffffffffffffffffffffffffffffffffffffffffff u) (h : Keeps m u d0 d) :
    Keeps m u d0 (takeState x0 x1 x2 d) := by
  unfold takeState
  repeat' first
    | with_reducible assumption | exact hm.sub (by decide) | exact hu.sub (by decide) | subst y
    | (extract_lets +onlyGivenNames y; first | (refine (fun _ => ?_) (?_ : Keeps m u d0 y); clear_value y) | subst y)
    | with_reducible apply setFld_keeps fam_ROOF_FLOOR_FLOOR
    | with_reducible apply setFld_keeps fam_ROOF_MEMBERS_PARTICIPATING | with_reducible apply setPhase_keeps
    | with_reducible apply raise_keeps | with_reducible apply roofIdle_keeps | with_reducible apply setPart_keeps
    | with_reducible apply keeps_ite

theorem opAnnounceState_keeps {m u d0} {x0 x1 x2 x3 d} (hm : Within 15437823 m) (hu : Within 0x7fffffffffffffffffffffffffffffffffffffffffffffffffffffffff u) (h : Keeps m u d0 d) :
    Keeps m u d0 (opAnnounceState x0 x1 x2 x3 d) := by
  unfold opAnnounceState
  repeat' first
    | with_reducible assumption | exact hm.sub (by decide) | exact hu.sub (by decide) | intro _
    | with_reducible apply announced_keeps | with_reducible apply updateSuspect_keeps
    | with_reducible apply takeState_keeps

theorem opAnnounceDown_keeps {m u d0} {x0 x1 x2 x3 d} (hm : Within 15437823 m) (hu : Within 0x7fffffffffffffffffffffffffffffffffffffffffffffffffffffffff u) (h : Keeps m u d0 d) :
    Keeps m u d0 (opAnnounceDown x0 x1 x2 x3 d) := by
  unfold opAnnounceDown
  repeat' first
    | with_reducible assumption | exact hm.sub (by decide) | exact hu.sub (by decide) | intro _
    | (extract_lets +onlyGivenNames y; first | (refine (fun _ => ?_) (?_ : Keeps m u d0 y); clear_value y) | subst y)
    | exact Or.inr (hm.bit (by decide)) | with_reducible exact Or.inl rfl | with_reducible exact Imp.refl _
    | (with_reducible refine Imp.mk (fun _ _ hq => ?_); first | (simp at hq ⊢; done) | (simp at hq ⊢; simp [hq]; done))
    | with_reducible exact Or.inr rfl | with_reducible apply announced_keeps | with_reducible apply keeps_ite
    | simp only [keepsMk_iff] | with_reducible apply keeps_mk (hw := by with_reducible rfl)

theorem takeAgree_keeps {m u d0} {x0 x1 x2 d} (hm : Within 36353 m) (hu : Within 0x800000000040000080000002c0000000000000000000000000000000 u) (h : Keeps m u d0 d) :
    Keeps m u d0 (takeAgree x0 x1 x2 d) := by
  unfold takeAgree
  repeat' first
    | with_reducible assumption | exact hm.sub (by decide) | exact hu.sub (by decide) | subst y
    | (extract_lets +onlyGivenNames y; first | (refine (fun _ => ?_) (?_ : Keeps m u d0 y); clear_value y) | subst y)
    | with_reducible apply modPeer_keeps | with_reducible apply putMember_keeps | with_reducible apply raise_keeps
    | with_reducible apply keeps_ite

theorem opAgree_keeps {m u d0} {x0 x1 x2 x3 d} (hm : Within 15437823 m) (hu : Within 0x7fffffffffffffffffffffffffffffffffffffffffffffffffffffffff u) (h : Keeps m u d0 d) :
    Keeps m u d0 (opAgree x0 x1 x2 x3 d) := by
  unfold opAgree
  repeat' first
    | with_reducible assumption | exact hm.sub (by decide) | exact hu.sub (by decide) | intro _
    | with_reducible apply messageSeen_keeps | with_reducible apply takeAgree_keeps

theorem sendStart_keeps {m u d0} {x0 d} (hm : Within 15437823 m) (hu : Within 0x7fffffffffffffffffffffffffffffffffffffffffffffffffffffffff u) (h : Keeps m u d0 d) :
    Keeps m u d0 (sendStart x0 d) := by
  unfold sendStart
  repeat' first
    | with_reducible assumption | exact hm.sub (by decide) | exact hu.sub (by decide) | subst y
    | (extract_lets +onlyGivenNames y; first | (refine (fun _ => ?_) (?_ : Keeps m u d0 y); clear_value y) | subst y)
    | exact Or.inr (hm.bit (by decide)) | with_reducible exact Or.inl rfl | with_reducible exact Imp.refl _
    | (with_reducible refine Imp.mk (fun _ _ hq => ?_); first | (simp at hq ⊢; done) | (simp at hq ⊢; simp [hq]; done))
    | with_reducible exact Or.inr rfl | with_reducible apply placeAnnounce_keeps | with_reducible apply startAt_keeps
    | with_reducible apply setPhase_keeps | simp only [keepsMk_iff]
    | with_reducible apply keeps_mk (hw := by with_reducible rfl)

theorem opStartAnnounced_keeps {m u d0} {d} (hm : Within 15437823 m) (hu : Within 0x7fffffffffffffffffffffffffffffffffffffffffffffffffffffffff u) (h : Keeps m u d0 d) :
    Keeps m u d0 (opStartAnnounced d) := by
  unfold opStartAnnounced
  repeat' first
    | with_reducible assumption | exact hm.sub (by decide) | exact hu.sub (by decide)
    | with_reducible apply sendStart_keeps | with_reducible apply keeps_ite

theorem opDegradedStart_keeps {m u d0} {d} (hm : Within 15437823 m) (hu : Within 0x7fffffffffffffffffffffffffffffffffffffffffffffffffffffffff u) (h : Keeps m u d0 d) :
    Keeps m u d0 (opDegradedStart d) := by
  unfold opDegradedStart
  repeat' first
    | with_reducible assumption | exact hm.sub (by decide) | exact hu.sub (by decide)
    | (extract_lets +onlyGivenNames y; first | (refine (fun _ => ?_) (?_ : Keeps m u d0 y); clear_value y) | subst y)
    | with_reducible apply sendStart_keeps | with_reducible apply advanceTo_keeps | with_reducible apply keeps_ite

theorem opStartTimeout_keeps {m u d0} {d} (hm : Within 3737 m) (hu : Within 0x800000000040000000000002c0000000000000000000000000000000 u) (h : Keeps m u d0 d) :
    Keeps m u d0 (opStartTimeout d) := by
  unfold opStartTimeout
  repeat' first
    | with_reducible assumption | exact hm.sub (by decide) | exact hu.sub (by decide) | subst y
    | (extract_lets +onlyGivenNames y; first | (refine (fun _ => ?_) (?_ : Keeps m u d0 y); clear_value y) | subst y)
    | exact Or.inr (hm.bit (by decide)) | with_reducible exact Or.inl rfl | with_reducible exact Imp.refl _
    | with_reducible exact Or.inr rfl | with_reducible apply advanceTo_keeps | with_reducible apply raise_keeps
    | with_reducible apply completeAll_keeps | with_reducible apply keeps_ite | simp only [keepsMk_iff]
    | with_reducible apply keeps_mk (hw := by with_reducible rfl)

theorem opTimeAbort_keeps {m u d0} {d} (hm : Within 7049215 m) (hu : Within 0x7fffffffffffffffffffffffffffffffffffffffffffffffffffffffff u) (h : Keeps m u d0 d) :
    Keeps m u d0 (opTimeAbort d) := by
  unfold opTimeAbort
  repeat' first
    | with_reducible assumption | exact hm.sub (by decide) | exact hu.sub (by decide)
    | with_reducible apply holderDescend_keeps | with_reducible apply raise_keeps
    | with_reducible apply advanceTo_keeps | with_reducible apply keeps_ite | split

theorem nonCompliantAct_keeps {m u d0} {x0 x1 d} (hm : Within 15437823 m) (hu : Within 0x7fffffffffffffffffffffffffffffffffffffffffffffffffffffffff u) (h : Keeps m u d0 d) :
    Keeps m u d0 (nonCompliantAct x0 x1 d) := by
  unfold nonCompliantAct
  repeat' first
    | with_reducible assumption | exact hm.sub (by decide) | exact hu.sub (by decide) | subst y
    | (extract_lets +onlyGivenNames y; first | (refine (fun _ => ?_) (?_ : Keeps m u d0 y); clear_value y) | subst y)
    | exact Or.inr (hm.bit (by decide)) | with_reducible exact Or.inl rfl | with_reducible exact Imp.refl _
    | (with_reducible refine Imp.mk (fun _ _ hq => ?_); first | (simp at hq ⊢; done) | (simp at hq ⊢; simp [hq]; done))
    | with_reducible exact Or.inr rfl | with_reducible apply holderFault_keeps
    | with_reducible apply insertUrgent_keeps | with_reducible apply holderDescend_keeps
    | with_reducible apply keeps_ite | simp only [keepsMk_iff]
    | with_reducible apply keeps_mk (hw := by with_reducible rfl)

theorem opNoncompliant_keeps {m u d0} {x0 d} (hm : Within 15437823 m) (hu : Within 0x7fffffffffffffffffffffffffffffffffffffffffffffffffffffffff u) (h : Keeps m u d0 d) :
    Keeps m u d0 (opNoncompliant x0 d) := by
  unfold opNoncompliant
  repeat' first
    | with_reducible assumption | exact hm.sub (by decide) | exact hu.sub (by decide)
    | (extract_lets +onlyGivenNames y; first | (refine (fun _ => ?_) (?_ : Keeps m u d0 y); clear_value y) | subst y)
    | exact Or.inr (hm.bit (by decide)) | with_reducible exact Or.inl rfl | with_reducible exact Imp.refl _
    | (with_reducible refine Imp.mk (fun _ _ hq => ?_); first | (simp at hq ⊢; done) | (simp at hq ⊢; simp [hq]; done))
    | with_reducible exact Or.inr rfl | with_reducible apply nonCompliantAct_keeps | with_reducible apply raise_keeps
    | with_reducible apply keeps_ite | simp only [keepsMk_iff]
    | with_reducible apply keeps_mk (hw := by with_reducible rfl)

end Sys2Proof.Machine
end

