-- ==== Sys2Proof/Laws/KThermal.lean ====
section
/-! SUPPORT. Every operation of Machine/Thermal.lean keeps what it does not change (Laws/Keeps.lean). -/

set_option linter.all false
set_option Elab.async false


namespace Sys2Proof.Machine

theorem setSuspect_keeps {m u d0} {x0 x1 d} (hm : Within 1 m) (hu : Within 0x40000000000000000000000000000 u) (h : Keeps m u d0 d) :
    Keeps m u d0 (setSuspect x0 x1 d) := by
  unfold setSuspect
  repeat' first
    | with_reducible assumption | exact hm.sub (by decide) | exact hu.sub (by decide)
    | with_reducible apply setMaskBit_keeps fam_TH_SUSPECT_SUSPECT

theorem becomeSuspect_keeps {m u d0} {x0 d} (hm : Within 15450111 m) (hu : Within 0x7fffffffffffffffffffffffffffffffffffffffffffffffffffffffff u) (h : Keeps m u d0 d) :
    Keeps m u d0 (becomeSuspect x0 d) := by
  unfold becomeSuspect
  repeat' first
    | with_reducible assumption | exact hm.sub (by decide) | exact hu.sub (by decide) | subst y
    | (extract_lets +onlyGivenNames y; first | (refine (fun _ => ?_) (?_ : Keeps m u d0 y); clear_value y) | subst y)
    | exact Or.inr (hm.bit (by decide)) | with_reducible exact Or.inl rfl | with_reducible exact Imp.refl _
    | (with_reducible refine Imp.mk (fun _ _ hq => ?_); first | (simp at hq ⊢; done) | (simp at hq ⊢; simp [hq]; done))
    | with_reducible exact Or.inr rfl | with_reducible apply setLevel_keeps | with_reducible apply setSuspect_keeps
    | with_reducible apply opPhaseFail_keeps | with_reducible apply keeps_ite | simp only [keepsMk_iff]
    | with_reducible apply keeps_mk (hw := by with_reducible rfl)

theorem releaseSuspect_keeps {m u d0} {x0 d} (hm : Within 11777 m) (hu : Within 0x800000000040000000000002c0040000000000000000000000000000 u) (h : Keeps m u d0 d) :
    Keeps m u d0 (releaseSuspect x0 d) := by
  unfold releaseSuspect
  repeat' first
    | with_reducible assumption | exact hm.sub (by decide) | exact hu.sub (by decide) | subst y
    | (extract_lets +onlyGivenNames y; first | (refine (fun _ => ?_) (?_ : Keeps m u d0 y); clear_value y) | subst y)
    | exact Or.inr (hm.bit (by decide)) | with_reducible exact Or.inl rfl | with_reducible exact Imp.refl _
    | (with_reducible refine Imp.mk (fun _ _ hq => ?_); first | (simp at hq ⊢; done) | (simp at hq ⊢; simp [hq]; done))
    | with_reducible exact Or.inr rfl | with_reducible apply setLevel_keeps | with_reducible apply setSuspect_keeps
    | simp only [keepsMk_iff] | with_reducible apply keeps_mk (hw := by with_reducible rfl)

theorem towardRelease_keeps {m u d0} {x0 x1 d} (hm : Within 11777 m) (hu : Within 0x800000000040000000000002c0040000000000000000000000000000 u) (h : Keeps m u d0 d) :
    Keeps m u d0 (towardRelease x0 x1 d) := by
  unfold towardRelease
  repeat' first
    | with_reducible assumption | exact hm.sub (by decide) | exact hu.sub (by decide) | subst y
    | (extract_lets +onlyGivenNames y; first | (refine (fun _ => ?_) (?_ : Keeps m u d0 y); clear_value y) | subst y)
    | exact Or.inr (hm.bit (by decide)) | with_reducible exact Or.inl rfl | with_reducible exact Imp.refl _
    | (with_reducible refine Imp.mk (fun _ _ hq => ?_); first | (simp at hq ⊢; done) | (simp at hq ⊢; simp [hq]; done))
    | with_reducible exact Or.inr rfl | with_reducible apply releaseSuspect_keeps | with_reducible apply keeps_ite
    | simp only [keepsMk_iff] | with_reducible apply keeps_mk (hw := by with_reducible rfl)

theorem crossCheck_keeps {m u d0} {x0 d} (hm : Within 15450111 m) (hu : Within 0x7fffffffffffffffffffffffffffffffffffffffffffffffffffffffff u) (h : Keeps m u d0 d) :
    Keeps m u d0 (crossCheck x0 d) := by
  unfold crossCheck
  repeat' first
    | with_reducible assumption | exact hm.sub (by decide) | exact hu.sub (by decide) | subst y
    | (extract_lets +onlyGivenNames y; first | (refine (fun _ => ?_) (?_ : Keeps m u d0 y); clear_value y) | subst y)
    | exact Or.inr (hm.bit (by decide)) | with_reducible exact Or.inl rfl | with_reducible exact Imp.refl _
    | (with_reducible refine Imp.mk (fun _ _ hq => ?_); first | (simp at hq ⊢; done) | (simp at hq ⊢; simp [hq]; done))
    | with_reducible exact Or.inr rfl | with_reducible apply becomeSuspect_keeps
    | with_reducible apply towardRelease_keeps | with_reducible apply keeps_ite | simp only [keepsMk_iff]
    | with_reducible apply keeps_mk (hw := by with_reducible rfl) | split

theorem putValue_keeps {m u d0} {x0 d} (hm : Within 8396800 m) (hu : Within 0x0 u) (h : Keeps m u d0 d) :
    Keeps m u d0 (putValue x0 d) := by
  unfold putValue
  repeat' first
    | with_reducible assumption | exact hm.sub (by decide) | exact hu.sub (by decide) | subst y
    | (extract_lets +onlyGivenNames y; first | (refine (fun _ => ?_) (?_ : Keeps m u d0 y); clear_value y) | subst y)
    | exact Or.inr (hm.bit (by decide)) | with_reducible exact Or.inl rfl | with_reducible exact Imp.refl _
    | (with_reducible refine Imp.mk (fun _ _ hq => ?_); first | (simp at hq ⊢; done) | (simp at hq ⊢; simp [hq]; done))
    | with_reducible exact Or.inr rfl | with_reducible apply drawn_keeps | with_reducible apply keeps_ite
    | simp only [keepsMk_iff] | with_reducible apply keeps_mk (hw := by with_reducible rfl)

theorem putLevel_keeps {m u d0} {x0 x1 x2 x3 d} (hm : Within 3585 m) (hu : Within 0x800000000040000000000002c0000000000000000000000000000000 u) (h : Keeps m u d0 d) :
    Keeps m u d0 (putLevel x0 x1 x2 x3 d) := by
  unfold putLevel
  repeat' first
    | with_reducible assumption | exact hm.sub (by decide) | exact hu.sub (by decide)
    | (extract_lets +onlyGivenNames y; first | (refine (fun _ => ?_) (?_ : Keeps m u d0 y); clear_value y) | subst y)
    | with_reducible apply setLevel_keeps | with_reducible apply keeps_ite | split

theorem putCadence_keeps {m u d0} {x0 d} (hm : Within 8193 m) (hu : Within 0x80000000000000000000000000000 u) (h : Keeps m u d0 d) :
    Keeps m u d0 (putCadence x0 d) := by
  unfold putCadence
  repeat' first
    | with_reducible assumption | exact hm.sub (by decide) | exact hu.sub (by decide) | subst y
    | (extract_lets +onlyGivenNames y; first | (refine (fun _ => ?_) (?_ : Keeps m u d0 y); clear_value y) | subst y)
    | exact Or.inr (hm.bit (by decide)) | with_reducible exact Or.inl rfl | with_reducible exact Imp.refl _
    | (with_reducible refine Imp.mk (fun _ _ hq => ?_); first | (simp at hq ⊢; done) | (simp at hq ⊢; simp [hq]; done))
    | with_reducible exact Or.inr rfl | with_reducible apply setMaskBit_keeps fam_TH_FAST_FAST
    | with_reducible apply keeps_ite | simp only [keepsMk_iff]
    | with_reducible apply keeps_mk (hw := by with_reducible rfl)

theorem thermalSummary_keeps {m u d0} {d} (hm : Within 15454207 m) (hu : Within 0x7fffffffffffffffffffffffffffffffffffffffffffffffffffffffff u) (h : Keeps m u d0 d) :
    Keeps m u d0 (thermalSummary d) := by
  unfold thermalSummary
  repeat' first
    | with_reducible assumption | exact hm.sub (by decide) | exact hu.sub (by decide) | subst y
    | (extract_lets +onlyGivenNames y; first | (refine (fun _ => ?_) (?_ : Keeps m u d0 y); clear_value y) | subst y)
    | exact Or.inr (hm.bit (by decide)) | with_reducible exact Or.inl rfl | with_reducible exact Imp.refl _
    | (rename_i a ha hb; with_reducible refine Imp.mk (fun q _ _ => ?_); have r := ha.ok q; simp [partsOk_iff] at r ⊢; simp [r]; done)
    | with_reducible exact Or.inr rfl | with_reducible apply setFld_keeps fam_BG_STATUS_PAUSED
    | with_reducible apply setFld_keeps fam_TH_STATUS_HOT_SENSOR
    | with_reducible apply setFld_keeps fam_TH_STATUS_HOT_VALUE
    | with_reducible apply setFlag_keeps fam_TH_STATUS_THROTTLING
    | with_reducible apply setFlag_keeps fam_TH_STATUS_WARNING | with_reducible apply settleMode_keeps
    | with_reducible apply keeps_ite | simp only [keepsMk_iff]
    | with_reducible apply keeps_mk (hw := by with_reducible rfl)

theorem phaseHeat_keeps {m u d0} {x0 d} (hm : Within 15450111 m) (hu : Within 0x7fffffffffffffffffffffffffffffffffffffffffffffffffffffffff u) (h : Keeps m u d0 d) :
    Keeps m u d0 (phaseHeat x0 d) := by
  unfold phaseHeat
  repeat' first
    | with_reducible assumption | exact hm.sub (by decide) | exact hu.sub (by decide) | subst y
    | (extract_lets +onlyGivenNames y; first | (refine (fun _ => ?_) (?_ : Keeps m u d0 y); clear_value y) | subst y)
    | exact Or.inr (hm.bit (by decide)) | with_reducible exact Or.inl rfl | with_reducible exact Imp.refl _
    | (with_reducible refine Imp.mk (fun _ _ hq => ?_); first | (simp at hq ⊢; done) | (simp at hq ⊢; simp [hq]; done))
    | with_reducible exact Or.inr rfl | with_reducible apply opPhaseFail_keeps
    | with_reducible apply opHcPhaseFail_keeps | with_reducible apply keeps_ite | simp only [keepsMk_iff]
    | with_reducible apply keeps_mk (hw := by with_reducible rfl)

theorem thermalRecord_keeps {m u d0} {x0 x1 d} (hm : Within 10489345 m) (hu : Within 0x8000000002c0000000000002c0120000000000000000000000000000 u) (h : Keeps m u d0 d) :
    Keeps m u d0 (thermalRecord x0 x1 d) := by
  unfold thermalRecord
  repeat' first
    | with_reducible assumption | exact hm.sub (by decide) | exact hu.sub (by decide) | subst y
    | (extract_lets +onlyGivenNames y; first | (refine (fun _ => ?_) (?_ : Keeps m u d0 y); clear_value y) | subst y)
    | with_reducible apply setFlag_keeps fam_TH_STATUS_TH_LATCH | with_reducible apply setFld_keeps fam_TH_LAST_KIND
    | with_reducible apply setFld_keeps fam_TH_LAST_SENSOR | with_reducible apply setFld_keeps fam_TH_LAST_T_PRED
    | with_reducible apply gutter_keeps

theorem immediateShutdown_keeps {m u d0} {x0 x1 d} (hm : Within 15450111 m) (hu : Within 0x7fffffffffffffffffffffffffffffffffffffffffffffffffffffffff u) (h : Keeps m u d0 d) :
    Keeps m u d0 (immediateShutdown x0 x1 d) := by
  unfold immediateShutdown
  repeat' first
    | with_reducible assumption | exact hm.sub (by decide) | exact hu.sub (by decide) | subst y
    | (extract_lets +onlyGivenNames y; first | (refine (fun _ => ?_) (?_ : Keeps m u d0 y); clear_value y) | subst y)
    | exact Or.inr (hm.bit (by decide)) | with_reducible exact Or.inl rfl | with_reducible exact Imp.refl _
    | (with_reducible refine Imp.mk (fun _ _ hq => ?_); first | (simp at hq ⊢; done) | (simp at hq ⊢; simp [hq]; done))
    | with_reducible exact Or.inr rfl | with_reducible apply thermalRecord_keeps | with_reducible apply trigIf_keeps
    | with_reducible apply insertUrgent_keeps | with_reducible apply killRails_keeps
    | with_reducible apply advanceTo_keeps | with_reducible apply assertSso_keeps
    | with_reducible apply endDrill_keeps | with_reducible apply completeAll_keeps
    | with_reducible apply stopTests_keeps | with_reducible apply enterLatched_keeps | simp only [keepsMk_iff]
    | with_reducible apply keeps_mk (hw := by with_reducible rfl)

theorem orderlyShutdown_keeps {m u d0} {x0 d} (hm : Within 15446015 m) (hu : Within 0x7fffffffffffffffffffffffffffffffffffffffffffffffffffffffff u) (h : Keeps m u d0 d) :
    Keeps m u d0 (orderlyShutdown x0 d) := by
  unfold orderlyShutdown
  repeat' first
    | with_reducible assumption | exact hm.sub (by decide) | exact hu.sub (by decide) | subst y
    | (extract_lets +onlyGivenNames y; first | (refine (fun _ => ?_) (?_ : Keeps m u d0 y); clear_value y) | subst y)
    | exact Or.inr (hm.bit (by decide)) | with_reducible exact Or.inl rfl | with_reducible exact Imp.refl _
    | (with_reducible refine Imp.mk (fun _ _ hq => ?_); first | (simp at hq ⊢; done) | (simp at hq ⊢; simp [hq]; done))
    | with_reducible exact Or.inr rfl | with_reducible apply thermalRecord_keeps
    | with_reducible apply descendNow_keeps | with_reducible apply startDescent_keeps
    | with_reducible apply advanceTo_keeps | with_reducible apply keeps_ite | simp only [keepsMk_iff]
    | with_reducible apply keeps_mk (hw := by with_reducible rfl)

theorem decideShutdown_keeps {m u d0} {x0 d} (hm : Within 15450111 m) (hu : Within 0x7fffffffffffffffffffffffffffffffffffffffffffffffffffffffff u) (h : Keeps m u d0 d) :
    Keeps m u d0 (decideShutdown x0 d) := by
  unfold decideShutdown
  repeat' first
    | with_reducible assumption | exact hm.sub (by decide) | exact hu.sub (by decide)
    | (extract_lets +onlyGivenNames y; first | (refine (fun _ => ?_) (?_ : Keeps m u d0 y); clear_value y) | subst y)
    | with_reducible apply orderlyShutdown_keeps | with_reducible apply immediateShutdown_keeps
    | with_reducible apply thermalRecord_keeps | with_reducible apply keeps_ite

theorem thermalRetry_keeps {m u d0} {d} (hm : Within 129 m) (hu : Within 0x10000 u) (h : Keeps m u d0 d) :
    Keeps m u d0 (thermalRetry d) := by
  unfold thermalRetry
  repeat' first
    | with_reducible assumption | exact hm.sub (by decide) | exact hu.sub (by decide)
    | (extract_lets +onlyGivenNames y; first | (refine (fun _ => ?_) (?_ : Keeps m u d0 y); clear_value y) | subst y)
    | exact Or.inr (hm.bit (by decide)) | with_reducible exact Or.inl rfl | with_reducible exact Imp.refl _
    | with_reducible exact Or.inr rfl | with_reducible apply setFld_keeps fam_SEQ_STATUS_SEQ_STATE
    | with_reducible apply keeps_ite | simp only [keepsMk_iff]
    | with_reducible apply keeps_mk (hw := by with_reducible rfl)

theorem sampleSensor_keeps {m u d0} {d x1} (hm : Within 15450111 m) (hu : Within 0x7fffffffffffffffffffffffffffffffffffffffffffffffffffffffff u) (h : Keeps m u d0 d) :
    Keeps m u d0 (sampleSensor d x1) := by
  unfold sampleSensor
  repeat' first
    | with_reducible assumption | exact hm.sub (by decide) | exact hu.sub (by decide) | subst y
    | (extract_lets +onlyGivenNames y; first | (refine (fun _ => ?_) (?_ : Keeps m u d0 y); clear_value y) | subst y)
    | exact Or.inr (hm.bit (by decide)) | with_reducible exact Or.inl rfl | with_reducible exact Imp.refl _
    | (with_reducible refine Imp.mk (fun _ _ hq => ?_); first | (simp at hq ⊢; done) | (simp at hq ⊢; simp [hq]; done))
    | with_reducible exact Or.inr rfl | with_reducible apply putValue_keeps | with_reducible apply crossCheck_keeps
    | with_reducible apply putLevel_keeps | with_reducible apply putCadence_keeps
    | with_reducible apply phaseHeat_keeps | simp only [keepsMk_iff]
    | with_reducible apply keeps_mk (hw := by with_reducible rfl)

theorem warmUpEnd_keeps {m u d0} {d} (hm : Within 1 m) (hu : Within 0x80 u) (h : Keeps m u d0 d) :
    Keeps m u d0 (warmUpEnd d) := by
  unfold warmUpEnd
  repeat' first
    | with_reducible assumption | exact hm.sub (by decide) | exact hu.sub (by decide)
    | with_reducible apply setFlag_keeps fam_COLD_STATUS_THERMAL_WARMUP | with_reducible apply keeps_ite

theorem opThermalSample_keeps {m u d0} {x0 d} (hm : Within 15466495 m) (hu : Within 0x7fffffffffffffffffffffffffffffffffffffffffffffffffffffffff u) (h : Keeps m u d0 d) :
    Keeps m u d0 (opThermalSample x0 d) := by
  unfold opThermalSample
  repeat' first
    | with_reducible assumption | exact hm.sub (by decide) | exact hu.sub (by decide) | intro _ | subst y
    | (extract_lets +onlyGivenNames y; first | (refine (fun _ => ?_) (?_ : Keeps m u d0 y); clear_value y) | subst y)
    | with_reducible apply warmUpEnd_keeps | with_reducible apply sampleSensor_keeps
    | with_reducible apply putLevel_keeps | with_reducible apply thermalSummary_keeps
    | with_reducible apply immediateShutdown_keeps | with_reducible apply decideShutdown_keeps
    | with_reducible apply thermalRetry_keeps | with_reducible apply keeps_ite | with_reducible apply keeps_foldl
    | split

theorem txDisabled_keeps {m u d0} {x0 d} (hm : Within 15462399 m) (hu : Within 0x7fffffffffffffffffffffffffffffffffffffffffffffffffffffffff u) (h : Keeps m u d0 d) :
    Keeps m u d0 (txDisabled x0 d) := by
  unfold txDisabled
  repeat' first
    | with_reducible assumption | exact hm.sub (by decide) | exact hu.sub (by decide) | intro _ | subst y
    | (extract_lets +onlyGivenNames y; first | (refine (fun _ => ?_) (?_ : Keeps m u d0 y); clear_value y) | subst y)
    | exact Or.inr (hm.bit (by decide)) | with_reducible exact Or.inl rfl | with_reducible exact Imp.refl _
    | (with_reducible refine Imp.mk (fun _ _ hq => ?_); first | (simp at hq ⊢; done) | (simp at hq ⊢; simp [hq]; done))
    | with_reducible exact Or.inr rfl | with_reducible apply setMaskBit_keeps fam_TH_FAST_FAST
    | with_reducible apply setLevel_keeps | with_reducible apply setSuspect_keeps
    | with_reducible apply thermalSummary_keeps | with_reducible apply keeps_foldl | simp only [keepsMk_iff]
    | with_reducible apply keeps_mk (hw := by with_reducible rfl)

theorem opTempRead_keeps {m u d0} {x0 d} (hm : Within 3585 m) (hu : Within 0x800000000040000000000002c0000000000000000000000000000000 u) (h : Keeps m u d0 d) :
    Keeps m u d0 (opTempRead x0 d) := by
  unfold opTempRead
  repeat' first
    | with_reducible assumption | exact hm.sub (by decide) | exact hu.sub (by decide) | intro _
    | (extract_lets +onlyGivenNames y; first | (refine (fun _ => ?_) (?_ : Keeps m u d0 y); clear_value y) | subst y)
    | with_reducible apply judged_keeps | with_reducible apply complete_keeps

end Sys2Proof.Machine
end

