-- ==== Sys2Proof/Laws/KLog.lean ====
section
/-! SUPPORT. Every operation of Machine/Log.lean keeps what it does not change (Laws/Keeps.lean). -/

set_option linter.all false
set_option Elab.async false


namespace Sys2Proof.Machine

theorem setSector_keeps {m u d0} {x0 x1 d} (hm : Within 2097152 m) (hu : Within 0x0 u) (h : Keeps m u d0 d) :
    Keeps m u d0 (setSector x0 x1 d) := by
  unfold setSector
  repeat' first
    | with_reducible assumption | exact hm.sub (by decide) | exact hu.sub (by decide)
    | (extract_lets +onlyGivenNames y; first | (refine (fun _ => ?_) (?_ : Keeps m u d0 y); clear_value y) | subst y)
    | exact Or.inr (hm.bit (by decide)) | with_reducible exact Or.inl rfl | with_reducible exact Imp.refl _
    | (with_reducible refine Imp.mk (fun _ _ hq => ?_); first | (simp at hq ⊢; done) | (simp at hq ⊢; simp [hq]; done))
    | with_reducible exact Or.inr rfl | simp only [keepsMk_iff]
    | with_reducible apply keeps_mk (hw := by with_reducible rfl)

theorem wearSummary_keeps {m u d0} {d} (hm : Within 1 m) (hu : Within 0x100000000 u) (h : Keeps m u d0 d) :
    Keeps m u d0 (wearSummary d) := by
  unfold wearSummary
  repeat' first
    | with_reducible assumption | exact hm.sub (by decide) | exact hu.sub (by decide)
    | (extract_lets +onlyGivenNames y; first | (refine (fun _ => ?_) (?_ : Keeps m u d0 y); clear_value y) | subst y)
    | with_reducible apply setFld_keeps fam_BG_WEAR_READY | with_reducible apply setFld_keeps fam_BG_WEAR_MAX_ERASE

theorem takeLocation_keeps {m u d0} {x0 d} (hm : Within 2097153 m) (hu : Within 0x100000000 u) (h : Keeps m u d0 d) :
    Keeps m u d0 (takeLocation x0 d) := by
  unfold takeLocation
  repeat' first
    | with_reducible assumption | exact hm.sub (by decide) | exact hu.sub (by decide) | subst y
    | (extract_lets +onlyGivenNames y; first | (refine (fun _ => ?_) (?_ : Keeps m u d0 y); clear_value y) | subst y)
    | exact Or.inr (hm.bit (by decide)) | with_reducible exact Or.inl rfl | with_reducible exact Imp.refl _
    | (with_reducible refine Imp.mk (fun _ _ hq => ?_); first | (simp at hq ⊢; done) | (simp at hq ⊢; simp [hq]; done))
    | with_reducible exact Or.inr rfl | with_reducible apply setSector_keeps | with_reducible apply wearSummary_keeps
    | simp only [keepsMk_iff] | with_reducible apply keeps_mk (hw := by with_reducible rfl)

theorem gutterSummary_keeps {m u d0} {d} (hm : Within 1 m) (hu : Within 0x8000000000000000000000000000000000000000000000 u) (h : Keeps m u d0 d) :
    Keeps m u d0 (gutterSummary d) := by
  unfold gutterSummary
  repeat' first
    | with_reducible assumption | exact hm.sub (by decide) | exact hu.sub (by decide) | subst y
    | (extract_lets +onlyGivenNames y; first | (refine (fun _ => ?_) (?_ : Keeps m u d0 y); clear_value y) | subst y)
    | with_reducible apply setFld_keeps fam_GUT_STATUS_PENDING
    | with_reducible apply setFld_keeps fam_GUT_STATUS_RECORDS

theorem commitRecord_keeps {m u d0} {x0 d} (hm : Within 2097153 m) (hu : Within 0x18000000000000000000000000000000000000100000000 u) (h : Keeps m u d0 d) :
    Keeps m u d0 (commitRecord x0 d) := by
  unfold commitRecord
  repeat' first
    | with_reducible assumption | exact hm.sub (by decide) | exact hu.sub (by decide) | subst y
    | (extract_lets +onlyGivenNames y; first | (refine (fun _ => ?_) (?_ : Keeps m u d0 y); clear_value y) | subst y)
    | exact Or.inr (hm.bit (by decide)) | with_reducible exact Or.inl rfl | with_reducible exact Imp.refl _
    | (with_reducible refine Imp.mk (fun _ _ hq => ?_); first | (simp at hq ⊢; done) | (simp at hq ⊢; simp [hq]; done))
    | with_reducible exact Or.inr rfl | with_reducible apply setW_keeps at_GUT_SEQ
    | with_reducible apply takeLocation_keeps | with_reducible apply gutterSummary_keeps | simp only [keepsMk_iff]
    | with_reducible apply keeps_mk (hw := by with_reducible rfl)

theorem purlinWorks_keeps {m u d0} {d} (hm : Within 8391169 m) (hu : Within 0x4000000000000000000000000000000000000000000000 u) (h : Keeps m u d0 d) :
    Keeps m u d0 (purlinWorks d) := by
  unfold purlinWorks
  repeat' first
    | with_reducible assumption | exact hm.sub (by decide) | exact hu.sub (by decide)
    | with_reducible apply count_keeps | with_reducible apply drawn_keeps

theorem opGutterWrite_keeps {m u d0} {d} (hm : Within 10488321 m) (hu : Within 0x1c000000000000000000000000000000000000100000000 u) (h : Keeps m u d0 d) :
    Keeps m u d0 (opGutterWrite d) := by
  unfold opGutterWrite
  repeat' first
    | with_reducible assumption | exact hm.sub (by decide) | exact hu.sub (by decide)
    | (extract_lets +onlyGivenNames y; first | (refine (fun _ => ?_) (?_ : Keeps m u d0 y); clear_value y) | subst y)
    | exact Or.inr (hm.bit (by decide)) | with_reducible exact Or.inl rfl | with_reducible exact Imp.refl _
    | (with_reducible refine Imp.mk (fun _ _ hq => ?_); first | (simp at hq ⊢; done) | (simp at hq ⊢; simp [hq]; done))
    | with_reducible exact Or.inr rfl | with_reducible apply commitRecord_keeps
    | with_reducible apply purlinWorks_keeps | with_reducible apply keeps_ite | simp only [keepsMk_iff]
    | with_reducible apply keeps_mk (hw := by with_reducible rfl) | split

theorem opGutAbandoned_keeps {m u d0} {d} (hm : Within 2097153 m) (hu : Within 0x28000000000000000000000000000000000000100000000 u) (h : Keeps m u d0 d) :
    Keeps m u d0 (opGutAbandoned d) := by
  unfold opGutAbandoned
  repeat' first
    | with_reducible assumption | exact hm.sub (by decide) | exact hu.sub (by decide)
    | (extract_lets +onlyGivenNames y; first | (refine (fun _ => ?_) (?_ : Keeps m u d0 y); clear_value y) | subst y)
    | exact Or.inr (hm.bit (by decide)) | with_reducible exact Or.inl rfl | with_reducible exact Imp.refl _
    | (with_reducible refine Imp.mk (fun _ _ hq => ?_); first | (simp at hq ⊢; done) | (simp at hq ⊢; simp [hq]; done))
    | with_reducible exact Or.inr rfl | with_reducible apply addSat_keeps fam_GUT_CNT_ABANDONED
    | with_reducible apply takeLocation_keeps | with_reducible apply gutterSummary_keeps
    | with_reducible apply keeps_ite | simp only [keepsMk_iff]
    | with_reducible apply keeps_mk (hw := by with_reducible rfl) | split

theorem opGutterRewrite_keeps {m u d0} {d} (hm : Within 2100737 m) (hu : Within 0x8000000001c0000000000002c0000000000000000000000100000000 u) (h : Keeps m u d0 d) :
    Keeps m u d0 (opGutterRewrite d) := by
  unfold opGutterRewrite
  repeat' first
    | with_reducible assumption | exact hm.sub (by decide) | exact hu.sub (by decide)
    | (extract_lets +onlyGivenNames y; first | (refine (fun _ => ?_) (?_ : Keeps m u d0 y); clear_value y) | subst y)
    | exact Or.inr (hm.bit (by decide)) | with_reducible exact Or.inl rfl | with_reducible exact Imp.refl _
    | (with_reducible refine Imp.mk (fun _ _ hq => ?_); first | (simp at hq ⊢; done) | (simp at hq ⊢; simp [hq]; done))
    | with_reducible exact Or.inr rfl | with_reducible apply raise_keeps | with_reducible apply commitRecord_keeps
    | with_reducible apply keeps_ite | simp only [keepsMk_iff]
    | with_reducible apply keeps_mk (hw := by with_reducible rfl) | split

theorem gutterScan_keeps {m u d0} {d} (hm : Within 2100737 m) (hu : Within 0x8000000003c0000000000002c0000000000000000000000100000000 u) (h : Keeps m u d0 d) :
    Keeps m u d0 (gutterScan d) := by
  unfold gutterScan
  repeat' first
    | with_reducible assumption | exact hm.sub (by decide) | exact hu.sub (by decide) | subst y
    | (extract_lets +onlyGivenNames y; first | (refine (fun _ => ?_) (?_ : Keeps m u d0 y); clear_value y) | subst y)
    | exact Or.inr (hm.bit (by decide)) | with_reducible exact Or.inl rfl | with_reducible exact Imp.refl _
    | (with_reducible refine Imp.mk (fun q _ hq => ?_); have r := h.ok q; simp [partsOk_iff] at r hq ⊢; simp [r, hq]; done)
    | with_reducible exact Or.inr rfl | with_reducible apply setW_keeps at_GUT_SEQ
    | with_reducible apply setFld_keeps fam_GUT_CNT_DAMAGED | with_reducible apply wearSummary_keeps
    | with_reducible apply gutterSummary_keeps | with_reducible apply raise_keeps | with_reducible apply keeps_ite
    | simp only [keepsMk_iff] | with_reducible apply keeps_mk (hw := by with_reducible rfl)

theorem opSectorErase_keeps {m u d0} {d} (hm : Within 10488321 m) (hu : Within 0xc000000000000000000000000000000000000120000000 u) (h : Keeps m u d0 d) :
    Keeps m u d0 (opSectorErase d) := by
  unfold opSectorErase
  repeat' first
    | with_reducible assumption | exact hm.sub (by decide) | exact hu.sub (by decide) | subst y
    | (extract_lets +onlyGivenNames y; first | (refine (fun _ => ?_) (?_ : Keeps m u d0 y); clear_value y) | subst y)
    | exact Or.inr (hm.bit (by decide)) | with_reducible exact Or.inl rfl | with_reducible exact Imp.refl _
    | (with_reducible refine Imp.mk (fun q _ hq => ?_); have r := h.ok q; simp [partsOk_iff] at r hq ⊢; simp [r, hq]; done)
    | with_reducible exact Or.inr rfl | with_reducible apply purlinWorks_keeps | with_reducible apply bgBegin_keeps
    | with_reducible apply gutterSummary_keeps | with_reducible apply wearSummary_keeps
    | with_reducible apply setSector_keeps | with_reducible apply keeps_ite | simp only [keepsMk_iff]
    | with_reducible apply keeps_mk (hw := by with_reducible rfl) | split

theorem gutSelect_keeps {m u d0} {d} (hm : Within 1 m) (hu : Within 0x10080000000000000000000000000000000000000000000000 u) (h : Keeps m u d0 d) :
    Keeps m u d0 (gutSelect d) := by
  unfold gutSelect
  repeat' first
    | with_reducible assumption | exact hm.sub (by decide) | exact hu.sub (by decide) | intro _ | subst y
    | (extract_lets +onlyGivenNames y; first | (refine (fun _ => ?_) (?_ : Keeps m u d0 y); clear_value y) | subst y)
    | with_reducible apply setFlag_keeps fam_GUT_BUF_STATUS_FOUND
    | with_reducible apply setFlag_keeps fam_GUT_BUF_STATUS_LOADING
    | with_reducible apply putWord_keeps fam_GUT_BUF_DATA | with_reducible apply keeps_foldl

theorem opGutBufFilled_keeps {m u d0} {d} (hm : Within 1 m) (hu : Within 0x10080000000000000000000000000000000000000000000000 u) (h : Keeps m u d0 d) :
    Keeps m u d0 (opGutBufFilled d) := by
  unfold opGutBufFilled
  repeat' first
    | with_reducible assumption | exact hm.sub (by decide) | exact hu.sub (by decide) | intro _ | subst y
    | (extract_lets +onlyGivenNames y; first | (refine (fun _ => ?_) (?_ : Keeps m u d0 y); clear_value y) | subst y)
    | with_reducible apply putWord_keeps fam_GUT_BUF_DATA
    | with_reducible apply setFlag_keeps fam_GUT_BUF_STATUS_FOUND
    | with_reducible apply setFlag_keeps fam_GUT_BUF_STATUS_LOADING | with_reducible apply keeps_ite
    | with_reducible apply keeps_foldl

theorem setTrc_keeps {m u d0} {x0 d} (hm : Within 1 m) (hu : Within 0x400000000000000000000000000000000000000000000000 u) (h : Keeps m u d0 d) :
    Keeps m u d0 (setTrc x0 d) := by
  unfold setTrc
  repeat' first
    | with_reducible assumption | exact hm.sub (by decide) | exact hu.sub (by decide)
    | with_reducible apply setFld_keeps fam_TRC_STATUS_STATE

theorem traceEnable_keeps {m u d0} {d} (hm : Within 1 m) (hu : Within 0x400000000000000000000000000000000000000000000000 u) (h : Keeps m u d0 d) :
    Keeps m u d0 (traceEnable d) := by
  unfold traceEnable
  repeat' first
    | with_reducible assumption | exact hm.sub (by decide) | exact hu.sub (by decide)
    | with_reducible apply setTrc_keeps | with_reducible apply keeps_ite

theorem rearm_keeps {m u d0} {d} (hm : Within 2097153 m) (hu : Within 0x400000000000000000000000000000000000000000000000 u) (h : Keeps m u d0 d) :
    Keeps m u d0 (rearm d) := by
  unfold rearm
  repeat' first
    | with_reducible assumption | exact hm.sub (by decide) | exact hu.sub (by decide) | subst y
    | (extract_lets +onlyGivenNames y; first | (refine (fun _ => ?_) (?_ : Keeps m u d0 y); clear_value y) | subst y)
    | exact Or.inr (hm.bit (by decide)) | with_reducible exact Or.inl rfl | with_reducible exact Imp.refl _
    | (with_reducible refine Imp.mk (fun _ _ hq => ?_); first | (simp at hq ⊢; done) | (simp at hq ⊢; simp [hq]; done))
    | with_reducible exact Or.inr rfl | with_reducible apply setTrc_keeps | with_reducible apply traceEnable_keeps
    | simp only [keepsMk_iff] | with_reducible apply keeps_mk (hw := by with_reducible rfl)

theorem setSlot_keeps {m u d0} {x0 x1 d} (hm : Within 2097152 m) (hu : Within 0x0 u) (h : Keeps m u d0 d) :
    Keeps m u d0 (setSlot x0 x1 d) := by
  unfold setSlot
  repeat' first
    | with_reducible assumption | exact hm.sub (by decide) | exact hu.sub (by decide)
    | (extract_lets +onlyGivenNames y; first | (refine (fun _ => ?_) (?_ : Keeps m u d0 y); clear_value y) | subst y)
    | exact Or.inr (hm.bit (by decide)) | with_reducible exact Or.inl rfl | with_reducible exact Imp.refl _
    | (with_reducible refine Imp.mk (fun _ _ hq => ?_); first | (simp at hq ⊢; done) | (simp at hq ⊢; simp [hq]; done))
    | with_reducible exact Or.inr rfl | simp only [keepsMk_iff]
    | with_reducible apply keeps_mk (hw := by with_reducible rfl)

theorem showSlot_keeps {m u d0} {x0 d} (hm : Within 1 m) (hu : Within 0x1000000000000000000000000000000000000000000000000 u) (h : Keeps m u d0 d) :
    Keeps m u d0 (showSlot x0 d) := by
  unfold showSlot
  repeat' first
    | with_reducible assumption | exact hm.sub (by decide) | exact hu.sub (by decide) | subst y
    | (extract_lets +onlyGivenNames y; first | (refine (fun _ => ?_) (?_ : Keeps m u d0 y); clear_value y) | subst y)
    | with_reducible apply setFld_keeps fam_CAP_SLOT_CAUSE | with_reducible apply setFld_keeps fam_CAP_SLOT_LENGTH
    | with_reducible apply setFlag_keeps fam_CAP_SLOT_VALID
    | with_reducible apply setFlag_keeps fam_CAP_SLOT_REPLAYABLE | simp only [keepsMk_iff] | split

theorem startCopy_keeps {m u d0} {x0 d} (hm : Within 2100737 m) (hu : Within 0x800000004040000000000002c0000000000000000000000000000000 u) (h : Keeps m u d0 d) :
    Keeps m u d0 (startCopy x0 d) := by
  unfold startCopy
  repeat' first
    | with_reducible assumption | exact hm.sub (by decide) | exact hu.sub (by decide)
    | (extract_lets +onlyGivenNames y; first | (refine (fun _ => ?_) (?_ : Keeps m u d0 y); clear_value y) | subst y)
    | exact Or.inr (hm.bit (by decide)) | with_reducible exact Or.inl rfl | with_reducible exact Imp.refl _
    | (with_reducible refine Imp.mk (fun _ _ hq => ?_); first | (simp at hq ⊢; done) | (simp at hq ⊢; simp [hq]; done))
    | with_reducible exact Or.inr rfl | with_reducible apply raise_keeps | with_reducible apply setTrc_keeps
    | with_reducible apply keeps_ite | simp only [keepsMk_iff]
    | with_reducible apply keeps_mk (hw := by with_reducible rfl)

theorem copyAfter_keeps {m u d0} {x0 d} (hm : Within 2100737 m) (hu : Within 0x800000004040000000000002c0000000000000000000000000000000 u) (h : Keeps m u d0 d) :
    Keeps m u d0 (copyAfter x0 d) := by
  unfold copyAfter
  repeat' first
    | with_reducible assumption | exact hm.sub (by decide) | exact hu.sub (by decide)
    | with_reducible apply startCopy_keeps | with_reducible apply raise_keeps | with_reducible apply keeps_ite | split

theorem endTriggers_keeps {m u d0} {d} (hm : Within 8392193 m) (hu : Within 0x800000000040000000000002c0000000000000000000000000000000 u) (h : Keeps m u d0 d) :
    Keeps m u d0 (endTriggers d) := by
  unfold endTriggers
  repeat' first
    | with_reducible assumption | exact hm.sub (by decide) | exact hu.sub (by decide)
    | (extract_lets +onlyGivenNames y; first | (refine (fun _ => ?_) (?_ : Keeps m u d0 y); clear_value y) | subst y)
    | with_reducible apply completeAll_keeps | with_reducible apply drawn_keeps

theorem freezeStore_keeps {m u d0} {x0 x1 d} (hm : Within 10489345 m) (hu : Within 0x80000000c2c0000000000002c0000000000000000000000000000000 u) (h : Keeps m u d0 d) :
    Keeps m u d0 (freezeStore x0 x1 d) := by
  unfold freezeStore
  repeat' first
    | with_reducible assumption | exact hm.sub (by decide) | exact hu.sub (by decide) | subst y
    | (extract_lets +onlyGivenNames y; first | (refine (fun _ => ?_) (?_ : Keeps m u d0 y); clear_value y) | subst y)
    | exact Or.inr (hm.bit (by decide)) | with_reducible exact Or.inl rfl | with_reducible exact Imp.refl _
    | (with_reducible refine Imp.mk (fun _ _ hq => ?_); first | (simp at hq ⊢; done) | (simp at hq ⊢; simp [hq]; done))
    | with_reducible exact Or.inr rfl | with_reducible apply setW_keeps at_TRC_FREEZE
    | with_reducible apply setFld_keeps fam_TRC_STATUS_CAUSE | with_reducible apply traceEntry_keeps
    | with_reducible apply closeBlock_keeps | with_reducible apply setTrc_keeps | with_reducible apply gutter_keeps
    | with_reducible apply copyAfter_keeps | with_reducible apply endTriggers_keeps | with_reducible apply raise_keeps
    | simp only [keepsMk_iff] | with_reducible apply keeps_mk (hw := by with_reducible rfl)

theorem opTrcFrozen_keeps {m u d0} {d} (hm : Within 10489369 m) (hu : Within 0x80000000c2c0000000000002c0000000000000000000000000000000 u) (h : Keeps m u d0 d) :
    Keeps m u d0 (opTrcFrozen d) := by
  unfold opTrcFrozen
  repeat' first
    | with_reducible assumption | exact hm.sub (by decide) | exact hu.sub (by decide) | subst y
    | (extract_lets +onlyGivenNames y; first | (refine (fun _ => ?_) (?_ : Keeps m u d0 y); clear_value y) | subst y)
    | with_reducible apply advanceTo_keeps | with_reducible apply freezeStore_keeps | with_reducible apply keeps_ite

theorem openBlock_keeps {m u d0} {i ws r d} (hm : Within 8388608 m) (hu : Within 0x0 u) (h : Keeps m u d0 d) :
    Keeps m u d0 (openBlock i ws r d).2 :=
  drawn_keeps (hm.sub (by decide)) (hu.sub (by decide)) (drawn_keeps (hm.sub (by decide)) (hu.sub (by decide)) h)

theorem machineBlocks_keeps {m u d0} {n pages d} (hm : Within 8388608 m) (hu : Within 0x0 u) (h : Keeps m u d0 d) :
    Keeps m u d0 (machineBlocks n pages d).2 := by
  induction pages generalizing n d with
  | nil => exact h
  | cons p t ih => exact ih (openBlock_keeps hm hu h)

theorem ckptImage_keeps {m u d0} {d} (hm : Within 8388608 m) (hu : Within 0x0 u) (h : Keeps m u d0 d) :
    Keeps m u d0 (ckptImage d).2 := by
  have key := fun d h => drawn_keeps (d := d) (hm.sub (by decide)) (hu.sub (by decide)) (d0 := d0) h
  show Keeps m u d0 (drawn (drawn (drawn (drawn (machineBlocks 0 machinePages (drawn d)).2))))
  exact key _ (key _ (key _ (key _ (machineBlocks_keeps hm hu (key _ h)))))

theorem opTraceCheckpoint_keeps {m u d0} {d} (hm : Within 10488345 m) (hu : Within 0x4000000000000000000000000000000000000000000000 u) (h : Keeps m u d0 d) :
    Keeps m u d0 (opTraceCheckpoint d) := by
  unfold opTraceCheckpoint
  repeat' first
    | with_reducible assumption | exact hm.sub (by decide) | exact hu.sub (by decide) | subst y
    | (extract_lets +onlyGivenNames y; first | (refine (fun _ => ?_) (?_ : Keeps m u d0 y); clear_value y) | subst y)
    | exact Or.inr (hm.bit (by decide)) | with_reducible exact Or.inl rfl | with_reducible exact Imp.refl _
    | (with_reducible refine Imp.mk (fun _ _ hq => ?_); first | (simp at hq ⊢; done) | (simp at hq ⊢; simp [hq]; done))
    | with_reducible exact Or.inr rfl | with_reducible apply advanceTo_keeps | with_reducible apply traceKey_keeps
    | with_reducible apply ckptImage_keeps | with_reducible apply keeps_ite | simp only [keepsMk_iff]
    | with_reducible apply keeps_mk (hw := by with_reducible rfl)

theorem opTrcCopied_keeps {m u d0} {x0 d} (hm : Within 2100737 m) (hu : Within 0x800000014040000000000002c0000000000000000000000000000000 u) (h : Keeps m u d0 d) :
    Keeps m u d0 (opTrcCopied x0 d) := by
  unfold opTrcCopied
  repeat' first
    | with_reducible assumption | exact hm.sub (by decide) | exact hu.sub (by decide)
    | (extract_lets +onlyGivenNames y; first | (refine (fun _ => ?_) (?_ : Keeps m u d0 y); clear_value y) | subst y)
    | exact Or.inr (hm.bit (by decide)) | with_reducible exact Or.inl rfl | with_reducible exact Imp.refl _
    | (with_reducible refine Imp.mk (fun _ _ hq => ?_); first | (simp at hq ⊢; done) | (simp at hq ⊢; simp [hq]; done))
    | with_reducible exact Or.inr rfl | with_reducible apply setTrc_keeps | with_reducible apply showSlot_keeps
    | with_reducible apply setSlot_keeps | with_reducible apply raise_keeps | with_reducible apply rearm_keeps
    | with_reducible apply keeps_ite | simp only [keepsMk_iff]
    | with_reducible apply keeps_mk (hw := by with_reducible rfl) | split

theorem loseEntries_keeps {m u d0} {d} (hm : Within 10489345 m) (hu : Within 0x800000000040000000000002c0000000000000000000000000000000 u) (h : Keeps m u d0 d) :
    Keeps m u d0 (loseEntries d) := by
  unfold loseEntries
  repeat' first
    | with_reducible assumption | exact hm.sub (by decide) | exact hu.sub (by decide) | subst y
    | (extract_lets +onlyGivenNames y; first | (refine (fun _ => ?_) (?_ : Keeps m u d0 y); clear_value y) | subst y)
    | exact Or.inr (hm.bit (by decide)) | with_reducible exact Or.inl rfl | with_reducible exact Imp.refl _
    | (with_reducible refine Imp.mk (fun q _ hq => ?_); have r := h.ok q; simp [partsOk_iff] at r hq ⊢; simp [r, hq]; done)
    | with_reducible exact Or.inr rfl | with_reducible apply raise_keeps | with_reducible apply drawn_keeps
    | with_reducible apply keeps_ite | simp only [keepsMk_iff]
    | with_reducible apply keeps_mk (hw := by with_reducible rfl)

theorem eraseSlot_keeps {m u d0} {x0 d} (hm : Within 2097153 m) (hu : Within 0x1000000000000000000000000000000000000000000000000 u) (h : Keeps m u d0 d) :
    Keeps m u d0 (eraseSlot x0 d) := by
  unfold eraseSlot
  repeat' first
    | with_reducible assumption | exact hm.sub (by decide) | exact hu.sub (by decide)
    | with_reducible apply setFlag_keeps fam_CAP_SLOT_ERASING | with_reducible apply showSlot_keeps
    | with_reducible apply setSlot_keeps

theorem opCapFreed_keeps {m u d0} {x0 d} (hm : Within 2100737 m) (hu : Within 0x800000014040000000000002c0000000000000000000000000000000 u) (h : Keeps m u d0 d) :
    Keeps m u d0 (opCapFreed x0 d) := by
  unfold opCapFreed
  repeat' first
    | with_reducible assumption | exact hm.sub (by decide) | exact hu.sub (by decide) | subst y
    | (extract_lets +onlyGivenNames y; first | (refine (fun _ => ?_) (?_ : Keeps m u d0 y); clear_value y) | subst y)
    | with_reducible apply setFlag_keeps fam_CAP_SLOT_ERASING | with_reducible apply raise_keeps
    | with_reducible apply startCopy_keeps | with_reducible apply keeps_ite

theorem traceAcuOn_keeps {m u d0} {d} (hm : Within 2100737 m) (hu : Within 0x800000004040000000000002c0000000000000000000000000000000 u) (h : Keeps m u d0 d) :
    Keeps m u d0 (traceAcuOn d) := by
  unfold traceAcuOn
  repeat' first
    | with_reducible assumption | exact hm.sub (by decide) | exact hu.sub (by decide) | subst y
    | (extract_lets +onlyGivenNames y; first | (refine (fun _ => ?_) (?_ : Keeps m u d0 y); clear_value y) | subst y)
    | with_reducible apply traceEnable_keeps | with_reducible apply startCopy_keeps | with_reducible apply keeps_ite
    | split

theorem opOutputDigest_keeps {m u d0} {x0 d} (hm : Within 10488345 m) (hu : Within 0x404000000000000000000000000000000000000000000000 u) (h : Keeps m u d0 d) :
    Keeps m u d0 (opOutputDigest x0 d) := by
  unfold opOutputDigest
  repeat' first
    | with_reducible assumption | exact hm.sub (by decide) | exact hu.sub (by decide) | subst y
    | (extract_lets +onlyGivenNames y; first | (refine (fun _ => ?_) (?_ : Keeps m u d0 y); clear_value y) | subst y)
    | exact Or.inr (hm.bit (by decide)) | with_reducible exact Or.inl rfl | with_reducible exact Imp.refl _
    | (with_reducible refine Imp.mk (fun _ _ hq => ?_); first | (simp at hq ⊢; done) | (simp at hq ⊢; simp [hq]; done))
    | with_reducible exact Or.inr rfl | with_reducible apply setFld_keeps fam_TRC_STATUS_COVERAGE
    | with_reducible apply advanceTo_keeps | with_reducible apply traceEntry_keeps | with_reducible apply drawn_keeps
    | with_reducible apply traceKey_keeps | with_reducible apply keeps_ite | simp only [keepsMk_iff]
    | with_reducible apply keeps_mk (hw := by with_reducible rfl)

theorem beginReplay_keeps {m u d0} {x0 d} (hm : Within 2097153 m) (hu : Within 0xc000000000000000000000000000000000000000000000000 u) (h : Keeps m u d0 d) :
    Keeps m u d0 (beginReplay x0 d) := by
  unfold beginReplay
  repeat' first
    | with_reducible assumption | exact hm.sub (by decide) | exact hu.sub (by decide) | subst y
    | (extract_lets +onlyGivenNames y; first | (refine (fun _ => ?_) (?_ : Keeps m u d0 y); clear_value y) | subst y)
    | exact Or.inr (hm.bit (by decide)) | with_reducible exact Or.inl rfl | with_reducible exact Imp.refl _
    | (with_reducible refine Imp.mk (fun _ _ hq => ?_); first | (simp at hq ⊢; done) | (simp at hq ⊢; simp [hq]; done))
    | with_reducible exact Or.inr rfl | with_reducible apply setFld_keeps fam_RPL_STATUS_RPL_STATE
    | with_reducible apply setW_keeps at_RPL_STATUS | with_reducible apply setW_keeps at_RPL_DIV
    | with_reducible apply setW_keeps at_RPL_DIV_1 | simp only [keepsMk_iff]
    | with_reducible apply keeps_mk (hw := by with_reducible rfl)

theorem opReplayDigest_keeps {m u d0} {x0 x1 x2 x3 d} (hm : Within 3585 m) (hu : Within 0x8000000c0040000000000002c0000000000000000000000000000000 u) (h : Keeps m u d0 d) :
    Keeps m u d0 (opReplayDigest x0 x1 x2 x3 d) := by
  unfold opReplayDigest
  repeat' first
    | with_reducible assumption | exact hm.sub (by decide) | exact hu.sub (by decide) | subst y
    | (extract_lets +onlyGivenNames y; first | (refine (fun _ => ?_) (?_ : Keeps m u d0 y); clear_value y) | subst y)
    | with_reducible apply setFld_keeps fam_RPL_STATUS_RPL_STATE
    | with_reducible apply setFlag_keeps fam_RPL_STATUS_INPUT_SUB | with_reducible apply setW_keeps at_RPL_DIV
    | with_reducible apply setW_keeps at_RPL_DIV_1 | with_reducible apply addSat_keeps fam_RPL_STATUS_INTERVALS
    | with_reducible apply raise_keeps | with_reducible apply keeps_ite

theorem opRplDone_keeps {m u d0} {d} (hm : Within 3585 m) (hu : Within 0x800000040040000000000002c0000000000000000000000000000000 u) (h : Keeps m u d0 d) :
    Keeps m u d0 (opRplDone d) := by
  unfold opRplDone
  repeat' first
    | with_reducible assumption | exact hm.sub (by decide) | exact hu.sub (by decide)
    | with_reducible apply setFld_keeps fam_RPL_STATUS_RPL_STATE | with_reducible apply raise_keeps
    | with_reducible apply keeps_ite

theorem opTraceTrigger_keeps {m u d0} {x0 d} (hm : Within 10489369 m) (hu : Within 0x80000000c2c0000000000002c0000000000000000000000000000000 u) (h : Keeps m u d0 d) :
    Keeps m u d0 (opTraceTrigger x0 d) := by
  unfold opTraceTrigger
  repeat' first
    | with_reducible assumption | exact hm.sub (by decide) | exact hu.sub (by decide) | intro _
    | (extract_lets +onlyGivenNames y; first | (refine (fun _ => ?_) (?_ : Keeps m u d0 y); clear_value y) | subst y)
    | with_reducible apply addSat_keeps fam_TRC_STATUS_TRIG_MISSED | with_reducible apply judged_keeps
    | with_reducible apply keepRunning_keeps | with_reducible apply freezeStore_keeps
    | with_reducible apply traceEntry_keeps | with_reducible apply advanceTo_keeps | with_reducible apply keeps_ite

theorem opTraceRearm_keeps {m u d0} {x0 d} (hm : Within 2100737 m) (hu : Within 0x800000004040000000000002c0000000000000000000000000000000 u) (h : Keeps m u d0 d) :
    Keeps m u d0 (opTraceRearm x0 d) := by
  unfold opTraceRearm
  repeat' first
    | with_reducible assumption | exact hm.sub (by decide) | exact hu.sub (by decide) | intro _
    | with_reducible apply judged_keeps | with_reducible apply complete_keeps | with_reducible apply rearm_keeps
    | with_reducible apply keeps_ite

theorem opTraceStream_keeps {m u d0} {x0 d} (hm : Within 2100737 m) (hu : Within 0x800000000040000000000002c0000000000000000000000000000000 u) (h : Keeps m u d0 d) :
    Keeps m u d0 (opTraceStream x0 d) := by
  unfold opTraceStream
  repeat' first
    | with_reducible assumption | exact hm.sub (by decide) | exact hu.sub (by decide) | intro _
    | (extract_lets +onlyGivenNames y; first | (refine (fun _ => ?_) (?_ : Keeps m u d0 y); clear_value y) | subst y)
    | exact Or.inr (hm.bit (by decide)) | with_reducible exact Or.inl rfl | with_reducible exact Imp.refl _
    | (with_reducible refine Imp.mk (fun _ _ hq => ?_); first | (simp at hq ⊢; done) | (simp at hq ⊢; simp [hq]; done))
    | with_reducible exact Or.inr rfl | with_reducible apply judged_keeps | with_reducible apply complete_keeps
    | simp only [keepsMk_iff] | with_reducible apply keeps_mk (hw := by with_reducible rfl) | split

end Sys2Proof.Machine
end

