-- ==== Sys2Proof/Laws/KRegisters.lean ====
section
/-! SUPPORT. Every operation of Machine/Registers.lean keeps what it does not change (Laws/Keeps.lean). -/

set_option linter.all false
set_option Elab.async false


namespace Sys2Proof.Machine

theorem putNoSpare_keeps {m u d0} {d} (hm : Within 1 m) (hu : Within 0x100000000000000000000 u) (h : Keeps m u d0 d) :
    Keeps m u d0 (putNoSpare d) := by
  unfold putNoSpare
  repeat' first
    | with_reducible assumption | exact hm.sub (by decide) | exact hu.sub (by decide) | intro _
    | with_reducible apply setFlag_keeps fam_CL_STATUS_NO_SPARE | with_reducible apply keeps_foldl

theorem roleWritten_keeps {m u d0} {x0 d} (hm : Within 1 m) (hu : Within 0x120080000000000000000 u) (h : Keeps m u d0 d) :
    Keeps m u d0 (roleWritten x0 d) := by
  unfold roleWritten
  repeat' first
    | with_reducible assumption | exact hm.sub (by decide) | exact hu.sub (by decide) | subst y
    | (extract_lets +onlyGivenNames y; first | (refine (fun _ => ?_) (?_ : Keeps m u d0 y); clear_value y) | subst y)
    | with_reducible apply setFld_keeps fam_PH_STATUS_STATE | with_reducible apply putNoSpare_keeps
    | with_reducible apply parkSpare_keeps | with_reducible apply keeps_ite

theorem recheckPgood_keeps {m u d0} {d} (hm : Within 32 m) (hu : Within 0x0 u) (h : Keeps m u d0 d) :
    Keeps m u d0 (recheckPgood d) := by
  unfold recheckPgood
  repeat' first
    | with_reducible assumption | exact hm.sub (by decide) | exact hu.sub (by decide)
    | (extract_lets +onlyGivenNames y; first | (refine (fun _ => ?_) (?_ : Keeps m u d0 y); clear_value y) | subst y)
    | exact Or.inr (hm.bit (by decide)) | with_reducible exact Or.inl rfl | with_reducible exact Imp.refl _
    | with_reducible exact Or.inr rfl | simp only [keepsMk_iff]
    | with_reducible apply keeps_mk (hw := by with_reducible rfl)

theorem faultLatchWritten_keeps {m u d0} {x0 x1 d} (hm : Within 1 m) (hu : Within 0x800000000000000000 u) (h : Keeps m u d0 d) :
    Keeps m u d0 (faultLatchWritten x0 x1 d) := by
  unfold faultLatchWritten
  repeat' first
    | with_reducible assumption | exact hm.sub (by decide) | exact hu.sub (by decide)
    | (extract_lets +onlyGivenNames y; first | (refine (fun _ => ?_) (?_ : Keeps m u d0 y); clear_value y) | subst y)
    | with_reducible apply setFlag_keeps fam_SUP_STATUS_FAULT_LATCH | with_reducible apply keeps_ite

theorem chargerEnabled_keeps {m u d0} {x0 x1 d} (hm : Within 265729 m) (hu : Within 0x800000000040000000000002c0000000260000000000000000000000 u) (h : Keeps m u d0 d) :
    Keeps m u d0 (chargerEnabled x0 x1 d) := by
  unfold chargerEnabled
  repeat' first
    | with_reducible assumption | exact hm.sub (by decide) | exact hu.sub (by decide)
    | with_reducible apply bkCharge_keeps | with_reducible apply chgTo_keeps | with_reducible apply keeps_ite

theorem limitsWritten_keeps {m u d0} {x0 d} (hm : Within 4096 m) (hu : Within 0x0 u) (h : Keeps m u d0 d) :
    Keeps m u d0 (limitsWritten x0 d) := by
  unfold limitsWritten
  repeat' first
    | with_reducible assumption | exact hm.sub (by decide) | exact hu.sub (by decide)
    | (extract_lets +onlyGivenNames y; first | (refine (fun _ => ?_) (?_ : Keeps m u d0 y); clear_value y) | subst y)
    | exact Or.inr (hm.bit (by decide)) | with_reducible exact Or.inl rfl | with_reducible exact Imp.refl _
    | (with_reducible refine Imp.mk (fun _ _ hq => ?_); first | (simp at hq ⊢; done) | (simp at hq ⊢; simp [hq]; done))
    | with_reducible exact Or.inr rfl | simp only [keepsMk_iff]
    | with_reducible apply keeps_mk (hw := by with_reducible rfl)

theorem hwdWritten_keeps {m u d0} {x0 x1 d} (hm : Within 4194304 m) (hu : Within 0x0 u) (h : Keeps m u d0 d) :
    Keeps m u d0 (hwdWritten x0 x1 d) := by
  unfold hwdWritten
  repeat' first
    | with_reducible assumption | exact hm.sub (by decide) | exact hu.sub (by decide)
    | (extract_lets +onlyGivenNames y; first | (refine (fun _ => ?_) (?_ : Keeps m u d0 y); clear_value y) | subst y)
    | exact Or.inr (hm.bit (by decide)) | with_reducible exact Or.inl rfl | with_reducible exact Imp.refl _
    | (with_reducible refine Imp.mk (fun _ _ hq => ?_); first | (simp at hq ⊢; done) | (simp at hq ⊢; simp [hq]; done))
    | with_reducible exact Or.inr rfl | with_reducible apply keeps_ite | simp only [keepsMk_iff]
    | with_reducible apply keeps_mk (hw := by with_reducible rfl)

theorem capFreeWritten_keeps {m u d0} {x0 d} (hm : Within 2097153 m) (hu : Within 0x1000000000000000000000000000000000000000000000000 u) (h : Keeps m u d0 d) :
    Keeps m u d0 (capFreeWritten x0 d) := by
  unfold capFreeWritten
  repeat' first
    | with_reducible assumption | exact hm.sub (by decide) | exact hu.sub (by decide) | intro _
    | with_reducible apply eraseSlot_keeps | with_reducible apply keeps_foldl

theorem linkAlone_keeps {m u d0} {d} (hm : Within 32897 m) (hu : Within 0xc0c0000000000000000000000000000000000080 u) (h : Keeps m u d0 d) :
    Keeps m u d0 (linkAlone d) := by
  unfold linkAlone
  repeat' first
    | with_reducible assumption | exact hm.sub (by decide) | exact hu.sub (by decide) | subst y
    | (extract_lets +onlyGivenNames y; first | (refine (fun _ => ?_) (?_ : Keeps m u d0 y); clear_value y) | subst y)
    | exact Or.inr (hm.bit (by decide)) | with_reducible exact Or.inl rfl | with_reducible exact Imp.refl _
    | (with_reducible refine Imp.mk (fun _ _ hq => ?_); first | (simp at hq ⊢; done) | (simp at hq ⊢; simp [hq]; done))
    | with_reducible exact Or.inr rfl | with_reducible apply setFlag_keeps fam_LNK_STATUS_DISCIPLINED
    | with_reducible apply setFlag_keeps fam_COLD_STATUS_LINK_UNDISCIPLINED | with_reducible apply linkOff_keeps
    | with_reducible apply keeps_ite | simp only [keepsMk_iff]
    | with_reducible apply keeps_mk (hw := by with_reducible rfl)

theorem afterWrite_keeps {m u d0} {x0 x1 x2 x3 x4 d} (hm : Within 15728639 m) (hu : Within 0x7fffffffffffffffffffffffffffffffffffffffffffffffffffffffff u) (h : Keeps m u d0 d) :
    Keeps m u d0 (afterWrite x0 x1 x2 x3 x4 d) := by
  unfold afterWrite
  repeat' first
    | with_reducible assumption | exact hm.sub (by decide) | exact hu.sub (by decide) | intro _ | subst y
    | (extract_lets +onlyGivenNames y; first | (refine (fun _ => ?_) (?_ : Keeps m u d0 y); clear_value y) | subst y)
    | exact Or.inr (hm.bit (by decide)) | with_reducible exact Or.inl rfl | with_reducible exact Imp.refl _
    | (with_reducible refine Imp.mk (fun _ _ hq => ?_); first | (simp at hq ⊢; done) | (simp at hq ⊢; simp [hq]; done))
    | with_reducible exact Or.inr rfl | with_reducible apply setFld_keeps fam_RTC_SUBSEC_PRESC
    | with_reducible apply setFld_keeps fam_RTC_STATUS_TRIM_SRC
    | with_reducible apply setFlag_keeps fam_CHG_STATUS_WD_SAFE | with_reducible apply settleMode_keeps
    | with_reducible apply recheckPgood_keeps | with_reducible apply faultLatchWritten_keeps
    | with_reducible apply roleWritten_keeps | with_reducible apply chargerTouch_keeps
    | with_reducible apply recompute_keeps | with_reducible apply chargerEnabled_keeps
    | with_reducible apply forget_keeps | with_reducible apply txDisabled_keeps
    | with_reducible apply limitsWritten_keeps | with_reducible apply enabledNow_keeps
    | with_reducible apply recheckGroup_keeps | with_reducible apply deliverBacklog_keeps
    | with_reducible apply landTime_keeps | with_reducible apply landDate_keeps | with_reducible apply drawn_keeps
    | with_reducible apply putEligible_keeps | with_reducible apply linkAlone_keeps
    | with_reducible apply askEnd_keeps | with_reducible apply gutSelect_keeps
    | with_reducible apply traceEnable_keeps | with_reducible apply capFreeWritten_keeps
    | with_reducible apply hwdWritten_keeps | with_reducible apply assertSso_keeps
    | with_reducible apply moveReference_keeps | with_reducible apply rejudgeSync_keeps
    | with_reducible apply keeps_ite | with_reducible apply keeps_foldl | simp only [keepsMk_iff]
    | with_reducible apply keeps_mk (hw := by with_reducible rfl) | split

theorem writeWord_keeps {m u d0} {x0 x1 x2 x3 x4 x5 x6 d} (hm : Within 15728639 m) (hu : Within 0x7fffffffffffffffffffffffffffffffffffffffffffffffffffffffff u) (h : Keeps m u d0 d) :
    Keeps m u d0 (writeWord x0 x1 x2 x3 x4 x5 x6 d) := by
  unfold writeWord
  repeat' first
    | with_reducible assumption | exact hm.sub (by decide) | exact hu.sub (by decide) | subst y
    | (extract_lets +onlyGivenNames y; first | (refine (fun _ => ?_) (?_ : Keeps m u d0 y); clear_value y) | subst y)
    | with_reducible apply setW_any | with_reducible apply complete_keeps | with_reducible apply drawn_keeps
    | with_reducible apply afterWrite_keeps | with_reducible apply keeps_ite | split

theorem opRegWrite_keeps {m u d0} {x0 d} (hm : Within 15728639 m) (hu : Within 0x7fffffffffffffffffffffffffffffffffffffffffffffffffffffffff u) (h : Keeps m u d0 d) :
    Keeps m u d0 (opRegWrite x0 d) := by
  unfold opRegWrite
  repeat' first
    | with_reducible assumption | exact hm.sub (by decide) | exact hu.sub (by decide)
    | (extract_lets +onlyGivenNames y; first | (refine (fun _ => ?_) (?_ : Keeps m u d0 y); clear_value y) | subst y)
    | with_reducible apply writeWord_keeps

theorem opRegRmw_keeps {m u d0} {x0 d} (hm : Within 15728639 m) (hu : Within 0x7fffffffffffffffffffffffffffffffffffffffffffffffffffffffff u) (h : Keeps m u d0 d) :
    Keeps m u d0 (opRegRmw x0 d) := by
  unfold opRegRmw
  repeat' first
    | with_reducible assumption | exact hm.sub (by decide) | exact hu.sub (by decide)
    | (extract_lets +onlyGivenNames y; first | (refine (fun _ => ?_) (?_ : Keeps m u d0 y); clear_value y) | subst y)
    | with_reducible apply writeWord_keeps | with_reducible apply drawn_keeps | with_reducible apply keeps_ite

theorem afterRead_keeps {m u d0} {x0 d} (hm : Within 559104 m) (hu : Within 0x0 u) (h : Keeps m u d0 d) :
    Keeps m u d0 (afterRead x0 d) := by
  unfold afterRead
  repeat' first
    | with_reducible assumption | exact hm.sub (by decide) | exact hu.sub (by decide)
    | (extract_lets +onlyGivenNames y; first | (refine (fun _ => ?_) (?_ : Keeps m u d0 y); clear_value y) | subst y)
    | exact Or.inr (hm.bit (by decide)) | with_reducible exact Or.inl rfl | with_reducible exact Imp.refl _
    | (with_reducible refine Imp.mk (fun _ _ hq => ?_); first | (simp at hq ⊢; done) | (simp at hq ⊢; simp [hq]; done))
    | with_reducible exact Or.inr rfl | with_reducible apply keeps_ite | simp only [keepsMk_iff]
    | with_reducible apply keeps_mk (hw := by with_reducible rfl)

theorem readOf_keeps {m u d0} {a d} (hm : Within 8949249 m) (hu : Within 0x800000000040000000000002c0000000000000000000000000000000 u) (h : Keeps m u d0 d) : Keeps m u d0 (readOf a d).2 := by
  unfold readOf
  split
  · exact h
  · split
    · exact drawn_keeps (hm.sub (by decide)) (hu.sub (by decide)) h
    · exact afterRead_keeps (hm.sub (by decide)) (hu.sub (by decide)) (keeps_ite (drawn_keeps (hm.sub (by decide)) (hu.sub (by decide)) h) h)

theorem readBlock_keeps {m u d0} {n a d} (hm : Within 8949249 m) (hu : Within 0x800000000040000000000002c0000000000000000000000000000000 u) (h : Keeps m u d0 d) : Keeps m u d0 (readBlock n a d).2 := by
  induction n generalizing a d with
  | zero => exact h
  | succ n ih => exact ih (readOf_keeps hm hu h)

theorem opRegRead_keeps {m u d0} {x0 d} (hm : Within 8949249 m) (hu : Within 0x800000000040000000000002c0000000000000000000000000000000 u) (h : Keeps m u d0 d) :
    Keeps m u d0 (opRegRead x0 d) := by
  unfold opRegRead
  dsimp only
  repeat' first
    | with_reducible assumption | exact hm.sub (by decide) | exact hu.sub (by decide) | intro _
    | with_reducible apply judged_keeps | with_reducible apply complete_keeps | with_reducible apply readOf_keeps

theorem withRecord_keeps {m u d0} {x0 x1 x2 x3 d x5} (hm : Within 3585 m) (hu : Within 0x800000000040000000000002c0000000000000000000000000000000 u) (h : Keeps m u d0 d) (hk : ∀ y0 d, Keeps m u d0 d → Keeps m u d0 (x5 y0 d)) :
    Keeps m u d0 (withRecord x0 x1 x2 x3 d x5) := by
  unfold withRecord
  repeat' first
    | (refine (?_ : (_ : Nat) ≠ 12); decide) | with_reducible assumption | exact hm.sub (by decide)
    | exact hu.sub (by decide) | subst y
    | (extract_lets +onlyGivenNames y; first | (refine (fun _ => ?_) (?_ : Keeps m u d0 y); clear_value y) | subst y)
    | with_reducible apply hk | with_reducible apply ringRecord_keeps | with_reducible apply complete_keeps
    | with_reducible apply keeps_ite

theorem opRegReadBlock_keeps {m u d0} {x0 d} (hm : Within 8949249 m) (hu : Within 0x800000000040000000000002c0000000000000000000000000000000 u) (h : Keeps m u d0 d) :
    Keeps m u d0 (opRegReadBlock x0 d) := by
  unfold opRegReadBlock
  dsimp only
  repeat' first
    | with_reducible assumption | exact hm.sub (by decide) | exact hu.sub (by decide) | intro _
    | with_reducible apply judged_keeps | with_reducible apply withRecord_keeps | with_reducible apply complete_keeps
    | with_reducible apply readBlock_keeps

theorem writeRow_keeps {m u d0} {x0 x1 x2 d} (hm : Within 15728639 m) (hu : Within 0x7fffffffffffffffffffffffffffffffffffffffffffffffffffffffff u) (h : Keeps m u d0 d) :
    Keeps m u d0 (writeRow x0 x1 x2 d) := by
  unfold writeRow
  repeat' first
    | with_reducible assumption | exact hm.sub (by decide) | exact hu.sub (by decide) | intro _
    | with_reducible apply runRow_keeps | with_reducible apply opRegWrite_keeps

theorem readRow_keeps {m u d0} {x0 x1 d} (hm : Within 8949249 m) (hu : Within 0x800000000040000000000002c0000000000000000000000000000000 u) (h : Keeps m u d0 d) :
    Keeps m u d0 (readRow x0 x1 d) := by
  unfold readRow
  repeat' first
    | with_reducible assumption | exact hm.sub (by decide) | exact hu.sub (by decide) | intro _
    | with_reducible apply runRow_keeps | with_reducible apply opRegRead_keeps

end Sys2Proof.Machine
end

