-- ==== Sys2Proof/Laws/KOtp.lean ====
section
/-! SUPPORT. Every operation of Machine/Otp.lean keeps what it does not change (Laws/Keeps.lean). -/

set_option linter.all false
set_option Elab.async false


namespace Sys2Proof.Machine

theorem loadLocks_keeps {m u d0} {d} (hm : Within 1 m) (hu : Within 0x800000000000000000000000000000000000 u) (h : Keeps m u d0 d) :
    Keeps m u d0 (loadLocks d) := by
  unfold loadLocks
  repeat' first
    | with_reducible assumption | exact hm.sub (by decide) | exact hu.sub (by decide) | subst y
    | (extract_lets +onlyGivenNames y; first | (refine (fun _ => ?_) (?_ : Keeps m u d0 y); clear_value y) | subst y)
    | with_reducible apply setFlag_keeps fam_OTP_STATUS_ENV_UNLOCKED
    | with_reducible apply setFld_keeps fam_OTP_STATUS_LOCKED

theorem putCounters_keeps {m u d0} {d} (hm : Within 1 m) (hu : Within 0x100000000000000000000000000000000000000000000000000 u) (h : Keeps m u d0 d) :
    Keeps m u d0 (putCounters d) := by
  unfold putCounters
  repeat' first
    | with_reducible assumption | exact hm.sub (by decide) | exact hu.sub (by decide)
    | with_reducible apply setFld_keeps fam_FW_ARB_ARB_PURLIN
    | with_reducible apply setFld_keeps fam_FW_ARB_ARB_THATCH

theorem blow_keeps {m u d0} {w hit soft d} (hm : Within 1048576 m) (hu : Within 0x0 u) (h : Keeps m u d0 d) : Keeps m u d0 (blow w hit soft d) := by
  have h20 : m.testBit 20 = true := hm.bit (by decide)
  refine ⟨h.words, h.mode, h.prev, h.roofTime, h.cycles, h.core, h.rails, h.seq, h.cl, h.ev, h.eng, h.perf, h.adc, h.therm,
    h.bg, h.link, h.vly, h.gauge, h.power, h.rtc, .inr h20, h.log, h.fw, h.freeN, h.canon,
    fun q => let r := h.ok q
      ⟨r.rails, r.cl, r.ev, r.eng, r.perf, r.adc, r.therm, r.bg, r.link, r.vly, r.rtc, ?_, r.log, r.fw⟩, ?_, h.frame, h.q12⟩
  · have hq := r.otp
    simp [blow] at hq ⊢
    simp [hq]
  intro k b hb
  refine blown_set ?_ k b (h.blown k b hb)
  intro b hb
  simp only [otpWord, Nat.testBit_or, hb, Bool.true_or]

theorem putOtpBusy_keeps {m u d0} {d} (hm : Within 1 m) (hu : Within 0x800000000000000000000000000000000000 u) (h : Keeps m u d0 d) :
    Keeps m u d0 (putOtpBusy d) := by
  unfold putOtpBusy
  repeat' first
    | with_reducible assumption | exact hm.sub (by decide) | exact hu.sub (by decide)
    | with_reducible apply setFlag_keeps fam_OTP_STATUS_BUSY

theorem setLine_keeps {m u d0} {x0 d} (hm : Within 1048577 m) (hu : Within 0x800000000000000000000000000000000000 u) (h : Keeps m u d0 d) :
    Keeps m u d0 (setLine x0 d) := by
  unfold setLine
  dsimp only
  repeat' first
    | with_reducible assumption | exact hm.sub (by decide) | exact hu.sub (by decide)
    | exact Or.inr (hm.bit (by decide)) | with_reducible exact Or.inl rfl | with_reducible exact Imp.refl _
    | (with_reducible refine Imp.mk (fun _ _ hq => ?_); first | (simp at hq ⊢; done) | (simp at hq ⊢; simp [hq]; done))
    | with_reducible exact Or.inr rfl | with_reducible apply putOtpBusy_keeps | simp only [keepsMk_iff]
    | with_reducible apply keeps_mk (hw := by with_reducible rfl)

theorem setMark_keeps {m u d0} {x0 d} (hm : Within 1048577 m) (hu : Within 0x800000000000000000000000000000000000 u) (h : Keeps m u d0 d) :
    Keeps m u d0 (setMark x0 d) := by
  unfold setMark
  dsimp only
  repeat' first
    | with_reducible assumption | exact hm.sub (by decide) | exact hu.sub (by decide)
    | exact Or.inr (hm.bit (by decide)) | with_reducible exact Or.inl rfl | with_reducible exact Imp.refl _
    | (with_reducible refine Imp.mk (fun _ _ hq => ?_); first | (simp at hq ⊢; done) | (simp at hq ⊢; simp [hq]; done))
    | with_reducible exact Or.inr rfl | with_reducible apply setFlag_keeps fam_OTP_STATUS_MARK_PENDING
    | simp only [keepsMk_iff] | with_reducible apply keeps_mk (hw := by with_reducible rfl)

theorem counterEnd_keeps {m u d0} {x0 d} (hm : Within 4197889 m) (hu : Within 0x800001200040000000000002c0000000000000000000000000000000 u) (h : Keeps m u d0 d) :
    Keeps m u d0 (counterEnd x0 d) := by
  unfold counterEnd
  repeat' first
    | with_reducible assumption | exact hm.sub (by decide) | exact hu.sub (by decide) | subst y
    | (extract_lets +onlyGivenNames y; first | (refine (fun _ => ?_) (?_ : Keeps m u d0 y); clear_value y) | subst y)
    | exact Or.inr (hm.bit (by decide)) | with_reducible exact Or.inl rfl | with_reducible exact Imp.refl _
    | (with_reducible refine Imp.mk (fun _ _ hq => ?_); first | (simp at hq ⊢; done) | (simp at hq ⊢; simp [hq]; done))
    | with_reducible exact Or.inr rfl | with_reducible apply setFlag_keeps fam_TRUST_STATUS_ARB_PENDING
    | with_reducible apply putCounters_keeps | with_reducible apply raise_keeps | simp only [keepsMk_iff]
    | with_reducible apply keeps_mk (hw := by with_reducible rfl)

theorem jobEnd_keeps {m u d0} {x0 x1 x2 x3 d} (hm : Within 4197889 m) (hu : Within 0x800001200040000000000002c0000000000000000000000000000000 u) (h : Keeps m u d0 d) :
    Keeps m u d0 (jobEnd x0 x1 x2 x3 d) := by
  unfold jobEnd
  repeat' first
    | with_reducible assumption | exact hm.sub (by decide) | exact hu.sub (by decide) | intro _
    | with_reducible apply complete_keeps | with_reducible apply counterEnd_keeps | with_reducible apply keeps_foldl
    | split

theorem startLine_keeps {m u d0} {n d} (hm : Within 5246489 m) (hu : Within 0x800001200040000000008002c0000000000000000000000000000000 u) (h : Keeps m u d0 d) : Keeps m u d0 (startLine n d) := by
  have hl : ∀ js d, Keeps m u d0 d → Keeps m u d0 (setLine js d) :=
    fun _ _ h => setLine_keeps (hm.sub (by decide)) (hu.sub (by decide)) h
  have he : ∀ j st w1 w2 d, Keeps m u d0 d → Keeps m u d0 (jobEnd j st w1 w2 d) :=
    fun _ _ _ _ _ h => jobEnd_keeps (hm.sub (by decide)) (hu.sub (by decide)) h
  have ha : ∀ t d, Keeps m u d0 d → Keeps m u d0 (advanceTo t d) :=
    fun _ _ h => advanceTo_keeps (hm.sub (by decide)) (hu.sub (by decide)) h
  induction n generalizing d with
  | zero => unfold startLine; exact putOtpBusy_keeps (hm.sub (by decide)) (hu.sub (by decide)) h
  | succ n ih =>
    unfold startLine
    split
    · rename_i e _
      cases e
      dsimp only
      repeat' split
      all_goals first
        | exact hl _ _ h
        | exact ih (he _ _ _ _ _ (hl _ _ h))
        | exact ih (he _ _ _ _ _ (hl _ _ (ha _ _ h)))
    · exact putOtpBusy_keeps (hm.sub (by decide)) (hu.sub (by decide)) h

theorem enqueueJob_keeps {m u d0} {x0 d} (hm : Within 5246489 m) (hu : Within 0x800001200040000000008002c0000000000000000000000000000000 u) (h : Keeps m u d0 d) :
    Keeps m u d0 (enqueueJob x0 d) := by
  unfold enqueueJob
  repeat' first
    | with_reducible assumption | exact hm.sub (by decide) | exact hu.sub (by decide) | subst y
    | (extract_lets +onlyGivenNames y; first | (refine (fun _ => ?_) (?_ : Keeps m u d0 y); clear_value y) | subst y)
    | with_reducible apply setLine_keeps | with_reducible apply startLine_keeps | with_reducible apply keeps_ite

theorem nextJob_keeps {m u d0} {d} (hm : Within 5246489 m) (hu : Within 0x800001200040000000008002c0000000000000000000000000000000 u) (h : Keeps m u d0 d) :
    Keeps m u d0 (nextJob d) := by
  unfold nextJob
  repeat' first
    | with_reducible assumption | exact hm.sub (by decide) | exact hu.sub (by decide)
    | with_reducible apply startLine_keeps | with_reducible apply setLine_keeps

theorem goOn_keeps {m u d0} {x0 d} (hm : Within 5246489 m) (hu : Within 0x800001200040000000008002c0000000000000000000000000000000 u) (h : Keeps m u d0 d) :
    Keeps m u d0 (goOn x0 d) := by
  unfold goOn
  repeat' first
    | with_reducible assumption | exact hm.sub (by decide) | exact hu.sub (by decide) | subst y
    | (extract_lets +onlyGivenNames y; first | (refine (fun _ => ?_) (?_ : Keeps m u d0 y); clear_value y) | subst y)
    | with_reducible apply setLine_keeps | with_reducible apply startLine_keeps

theorem wordProgrammed_keeps {m u d0} {x0 x1 x2 x3 d} (hm : Within 5246489 m) (hu : Within 0x800001200040000000008002c0000000000000000000000000000000 u) (h : Keeps m u d0 d) :
    Keeps m u d0 (wordProgrammed x0 x1 x2 x3 d) := by
  unfold wordProgrammed
  repeat' first
    | with_reducible assumption | exact hm.sub (by decide) | exact hu.sub (by decide)
    | (extract_lets +onlyGivenNames y; first | (refine (fun _ => ?_) (?_ : Keeps m u d0 y); clear_value y) | subst y)
    | with_reducible apply nextJob_keeps | with_reducible apply jobEnd_keeps | with_reducible apply goOn_keeps
    | with_reducible apply setMark_keeps | with_reducible apply loadLocks_keeps | with_reducible apply keeps_ite

theorem opOtpWordDone_keeps {m u d0} {x0 x1 x2 x3 d} (hm : Within 5246489 m) (hu : Within 0x800001200040000000008002c0000000000000000000000000000000 u) (h : Keeps m u d0 d) :
    Keeps m u d0 (opOtpWordDone x0 x1 x2 x3 d) := by
  unfold opOtpWordDone
  repeat' first
    | with_reducible assumption | exact hm.sub (by decide) | exact hu.sub (by decide)
    | with_reducible apply advanceTo_keeps | with_reducible apply wordProgrammed_keeps
    | with_reducible apply blow_keeps | simp only [keepsMk_iff] | split

theorem opOtpWindowSample_keeps {m u d0} {x0 x1 x2 x3 d} (hm : Within 5246489 m) (hu : Within 0x800001200040000000008002c0000000000000000000000000000000 u) (h : Keeps m u d0 d) :
    Keeps m u d0 (opOtpWindowSample x0 x1 x2 x3 d) := by
  unfold opOtpWindowSample
  repeat' first
    | with_reducible assumption | exact hm.sub (by decide) | exact hu.sub (by decide)
    | (extract_lets +onlyGivenNames y; first | (refine (fun _ => ?_) (?_ : Keeps m u d0 y); clear_value y) | subst y)
    | with_reducible apply advanceTo_keeps | with_reducible apply blow_keeps | with_reducible apply setMark_keeps
    | with_reducible apply nextJob_keeps | with_reducible apply jobEnd_keeps | with_reducible apply keeps_ite
    | simp only [keepsMk_iff] | split

theorem opOtpRead_keeps {m u d0} {x0 d} (hm : Within 5246489 m) (hu : Within 0x800001200040000000008002c0000000000000000000000000000000 u) (h : Keeps m u d0 d) :
    Keeps m u d0 (opOtpRead x0 d) := by
  unfold opOtpRead
  repeat' first
    | with_reducible assumption | exact hm.sub (by decide) | exact hu.sub (by decide) | intro _
    | with_reducible apply judged_keeps | with_reducible apply enqueueJob_keeps
    | with_reducible apply keepRunning_keeps

theorem opOtpReadDone_keeps {m u d0} {d} (hm : Within 5246489 m) (hu : Within 0x800001200040000000008002c0000000000000000000000000000000 u) (h : Keeps m u d0 d) :
    Keeps m u d0 (opOtpReadDone d) := by
  unfold opOtpReadDone
  repeat' first
    | with_reducible assumption | exact hm.sub (by decide) | exact hu.sub (by decide) | intro _
    | with_reducible apply nextJob_keeps | with_reducible apply advanceTo_keeps | with_reducible apply complete_keeps
    | with_reducible apply withRecord_keeps | with_reducible apply keeps_ite | simp only [keepsMk_iff] | split

theorem withShadow_keeps {m u d0} {x0 x1 d} (hm : Within 1048576 m) (hu : Within 0x0 u) (h : Keeps m u d0 d) :
    Keeps m u d0 (withShadow x0 x1 d) := by
  unfold withShadow
  dsimp only
  repeat' first
    | with_reducible assumption | exact hm.sub (by decide) | exact hu.sub (by decide)
    | exact Or.inr (hm.bit (by decide)) | with_reducible exact Or.inl rfl | with_reducible exact Imp.refl _
    | (with_reducible refine Imp.mk (fun _ _ hq => ?_); first | (simp at hq ⊢; done) | (simp at hq ⊢; simp [hq]; done))
    | with_reducible exact Or.inr rfl | simp only [keepsMk_iff]
    | with_reducible apply keeps_mk (hw := by with_reducible rfl)

theorem opOtpShadowWrite_keeps {m u d0} {x0 d} (hm : Within 1052185 m) (hu : Within 0x800000000040000000008002c0000000000000000000000000000000 u) (h : Keeps m u d0 d) :
    Keeps m u d0 (opOtpShadowWrite x0 d) := by
  unfold opOtpShadowWrite
  repeat' first
    | with_reducible assumption | exact hm.sub (by decide) | exact hu.sub (by decide) | intro _ | subst y
    | (extract_lets +onlyGivenNames y; first | (refine (fun _ => ?_) (?_ : Keeps m u d0 y); clear_value y) | subst y)
    | with_reducible apply setFlag_keeps fam_OTP_STATUS_OVR_ACTIVE | with_reducible apply gated_keeps
    | with_reducible apply withShadow_keeps | with_reducible apply advanceTo_keeps
    | with_reducible apply complete_keeps

theorem opOtpProgram_keeps {m u d0} {x0 d} (hm : Within 5246489 m) (hu : Within 0x800001200040000000008002c0000000000000000000000000000000 u) (h : Keeps m u d0 d) :
    Keeps m u d0 (opOtpProgram x0 d) := by
  unfold opOtpProgram
  repeat' first
    | with_reducible assumption | exact hm.sub (by decide) | exact hu.sub (by decide) | intro _
    | (extract_lets +onlyGivenNames y; first | (refine (fun _ => ?_) (?_ : Keeps m u d0 y); clear_value y) | subst y)
    | with_reducible apply gated_keeps | with_reducible apply enqueueJob_keeps
    | with_reducible apply keepRunning_keeps

theorem opOtpFinalize_keeps {m u d0} {x0 d} (hm : Within 5246489 m) (hu : Within 0x800001200040000000008002c0000000000000000000000000000000 u) (h : Keeps m u d0 d) :
    Keeps m u d0 (opOtpFinalize x0 d) := by
  unfold opOtpFinalize
  repeat' first
    | with_reducible assumption | exact hm.sub (by decide) | exact hu.sub (by decide) | intro _
    | (extract_lets +onlyGivenNames y; first | (refine (fun _ => ?_) (?_ : Keeps m u d0 y); clear_value y) | subst y)
    | with_reducible apply gated_keeps | with_reducible apply enqueueJob_keeps
    | with_reducible apply keepRunning_keeps

end Sys2Proof.Machine
end

