-- ==== Sys2Proof/Laws/KTruss.lean ====
section
/-! SUPPORT. Every operation of Machine/Truss.lean keeps what it does not change (Laws/Keeps.lean). -/

set_option linter.all false
set_option Elab.async false


namespace Sys2Proof.Machine

theorem setCopy_keeps {m u d0} {k w d} (hm : Within 1048576 m) (hu : Within 0x0 u) (h : Keeps m u d0 d)
    (hw : PartsOk d0 → SMap.wf flashDflt w = true) : Keeps m u d0 (setCopy k w d) := by
  unfold setCopy
  split
  all_goals
    simp only [keepsMk_iff]
    apply keeps_mk (hw := by with_reducible rfl) (ho := by rfl) (h := h)
    all_goals first | exact Or.inl rfl | exact Or.inr rfl | exact Or.inr (hm.bit (by decide)) | exact Imp.refl _ |
      (refine ⟨fun q _ hq => ?_⟩; simp at hq ⊢; simp [hq, hw q])

theorem copyOf_wf {d : Device} {k : Nat} (h : PartsOk d) : SMap.wf flashDflt (copyOf d k) = true := by
  have hq := h.otp
  simp at hq
  unfold copyOf
  split
  · exact hq.2.2.2.1
  · exact hq.2.2.2.2.1

theorem writeWords_wf {ws : List Word} : ∀ {i : Nat} {w : SMap Word}, SMap.wf flashDflt w = true →
    SMap.wf flashDflt (writeWords i ws w) = true := by
  induction ws with
  | nil => intro _ _ h; exact h
  | cons x t ih =>
    intro i w h
    unfold writeWords
    split
    · exact ih h
    · exact ih (wf_set h)

theorem putMasked_keeps {m u d0} {x0 x1 x2 d} (hm : Within 1 m) (hu : Within 0x7fffffffffffffffffffffffffffffffffffffffffffffffffffffffff u) (h : Keeps m u d0 d) :
    Keeps m u d0 (putMasked x0 x1 x2 d) := by
  unfold putMasked
  repeat' first
    | with_reducible assumption | exact hm.sub (by decide) | exact hu.sub (by decide)
    | (extract_lets +onlyGivenNames y; first | (refine (fun _ => ?_) (?_ : Keeps m u d0 y); clear_value y) | subst y)
    | with_reducible apply setW_any

theorem trussDefaults_keeps {m u d0} {d} (hm : Within 1 m) (hu : Within 0x7fffffffffffffffffffffffffffffffffffffffffffffffffffffffff u) (h : Keeps m u d0 d) :
    Keeps m u d0 (trussDefaults d) := by
  unfold trussDefaults
  repeat' first
    | with_reducible assumption | exact hm.sub (by decide) | exact hu.sub (by decide) | intro _ | subst y
    | (extract_lets +onlyGivenNames y; first | (refine (fun _ => ?_) (?_ : Keeps m u d0 y); clear_value y) | subst y)
    | with_reducible apply putMasked_keeps | with_reducible apply keeps_foldl | split

theorem loadWord_keeps {m u d0} {d x1} (hm : Within 1 m) (hu : Within 0x7fffffffffffffffffffffffffffffffffffffffffffffffffffffffff u) (h : Keeps m u d0 d) :
    Keeps m u d0 (loadWord d x1) := by
  unfold loadWord
  repeat' first
    | with_reducible assumption | exact hm.sub (by decide) | exact hu.sub (by decide)
    | with_reducible apply putMasked_keeps

theorem withLoads_keeps {m u d0} {x0 d} (hm : Within 129 m) (hu : Within 0x7fffffffffffffffffffffffffffffffffffffffffffffffffffffffff u) (h : Keeps m u d0 d) :
    Keeps m u d0 (withLoads x0 d) := by
  unfold withLoads
  repeat' first
    | with_reducible assumption | exact hm.sub (by decide) | exact hu.sub (by decide) | intro _ | subst y
    | (extract_lets +onlyGivenNames y; first | (refine (fun _ => ?_) (?_ : Keeps m u d0 y); clear_value y) | subst y)
    | exact Or.inr (hm.bit (by decide)) | with_reducible exact Or.inl rfl | with_reducible exact Imp.refl _
    | with_reducible exact Or.inr rfl | with_reducible apply loadWord_keeps | with_reducible apply trussDefaults_keeps
    | with_reducible apply keeps_foldl | simp only [keepsMk_iff]
    | with_reducible apply keeps_mk (hw := by with_reducible rfl)

theorem putTrussWords_keeps {m u d0} {x0 x1 x2 x3 d} (hm : Within 1 m) (hu : Within 0x1e000000000000000000000000000000000000 u) (h : Keeps m u d0 d) :
    Keeps m u d0 (putTrussWords x0 x1 x2 x3 d) := by
  unfold putTrussWords
  repeat' first
    | with_reducible assumption | exact hm.sub (by decide) | exact hu.sub (by decide) | subst y
    | (extract_lets +onlyGivenNames y; first | (refine (fun _ => ?_) (?_ : Keeps m u d0 y); clear_value y) | subst y)
    | with_reducible apply setW_keeps at_SHARED_DIGEST | with_reducible apply setW_keeps at_SHARED_DIGEST_1
    | with_reducible apply setW_keeps at_TRUSS_SEQ | with_reducible apply setW_keeps at_TRUSS_ID
    | with_reducible apply setW_keeps at_TRUSS_ID_1 | with_reducible apply setFld_keeps fam_TRUSS_STATUS_ACTIVE_SRC
    | with_reducible apply setFlag_keeps fam_TRUSS_STATUS_STAGED

theorem latchEnabled_keeps {m u d0} {x0 d} (hm : Within 3585 m) (hu : Within 0x800000000040000000000002c0000000000000000000000000000000 u) (h : Keeps m u d0 d) :
    Keeps m u d0 (latchEnabled x0 d) := by
  unfold latchEnabled
  repeat' first
    | with_reducible assumption | exact hm.sub (by decide) | exact hu.sub (by decide) | intro _
    | with_reducible apply enabledNow_keeps | with_reducible apply keeps_foldl

theorem spareless_keeps {m u d0} {d} (hm : Within 3585 m) (hu : Within 0x800000000040000000000002c0000000000100000000000000000000 u) (h : Keeps m u d0 d) :
    Keeps m u d0 (spareless d) := by
  unfold spareless
  repeat' first
    | with_reducible assumption | exact hm.sub (by decide) | exact hu.sub (by decide) | intro _ | subst y
    | (extract_lets +onlyGivenNames y; first | (refine (fun _ => ?_) (?_ : Keeps m u d0 y); clear_value y) | subst y)
    | with_reducible apply putNoSpare_keeps | with_reducible apply raise_keeps | with_reducible apply keeps_ite
    | with_reducible apply keeps_foldl | split

theorem applyTruss_keeps {m u d0} {x0 d} (hm : Within 5508769 m) (hu : Within 0x7fffffffffffffffffffffffffffffffffffffffffffffffffffffffff u) (h : Keeps m u d0 d) :
    Keeps m u d0 (applyTruss x0 d) := by
  unfold applyTruss
  repeat' first
    | with_reducible assumption | exact hm.sub (by decide) | exact hu.sub (by decide) | subst y
    | (extract_lets +onlyGivenNames y; first | (refine (fun _ => ?_) (?_ : Keeps m u d0 y); clear_value y) | subst y)
    | exact Or.inr (hm.bit (by decide)) | with_reducible exact Or.inl rfl | with_reducible exact Imp.refl _
    | (with_reducible refine Imp.mk (fun _ _ hq => ?_); first | (simp at hq ⊢; done) | (simp at hq ⊢; simp [hq]; done))
    | with_reducible exact Or.inr rfl | with_reducible apply setFlag_keeps fam_ROOF_STATUS_RESIGNED
    | with_reducible apply withLoads_keeps | with_reducible apply putTrussWords_keeps
    | with_reducible apply hwdWritten_keeps | with_reducible apply chargerEnabled_keeps
    | with_reducible apply rejudgeSync_keeps | with_reducible apply traceEnable_keeps
    | with_reducible apply latchEnabled_keeps | with_reducible apply spareless_keeps
    | with_reducible apply recheckPgood_keeps | with_reducible apply putEligible_keeps
    | with_reducible apply keeps_ite | simp only [keepsMk_iff]
    | with_reducible apply keeps_mk (hw := by with_reducible rfl)

theorem selectTruss_keeps {m u d0} {d} (hm : Within 5508769 m) (hu : Within 0x7fffffffffffffffffffffffffffffffffffffffffffffffffffffffff u) (h : Keeps m u d0 d) :
    Keeps m u d0 (selectTruss d) := by
  unfold selectTruss
  repeat' first
    | with_reducible assumption | exact hm.sub (by decide) | exact hu.sub (by decide) | subst y
    | (extract_lets +onlyGivenNames y; first | (refine (fun _ => ?_) (?_ : Keeps m u d0 y); clear_value y) | subst y)
    | exact Or.inr (hm.bit (by decide)) | with_reducible exact Or.inl rfl | with_reducible exact Imp.refl _
    | (with_reducible refine Imp.mk (fun _ _ hq => ?_); first | (simp at hq ⊢; done) | (simp at hq ⊢; simp [hq]; done))
    | with_reducible exact Or.inr rfl | with_reducible apply setFld_keeps fam_TRUSS_STATUS_REJECT_0
    | with_reducible apply setFld_keeps fam_TRUSS_STATUS_REJECT_1
    | with_reducible apply setFld_keeps fam_TRUSS_STATUS_REJECT_OTP | with_reducible apply applyTruss_keeps
    | with_reducible apply raise_keeps | with_reducible apply keeps_ite | simp only [keepsMk_iff]
    | with_reducible apply keeps_mk (hw := by with_reducible rfl)

theorem opTrussStage_keeps {m u d0} {x0 d} (hm : Within 1052161 m) (hu : Within 0x800000000040000000020002c0000000000000000000000000000000 u) (h : Keeps m u d0 d) :
    Keeps m u d0 (opTrussStage x0 d) := by
  unfold opTrussStage
  refine judged_keeps (hm.sub (by decide)) (hu.sub (by decide)) h (fun d h => ?_)
  refine complete_keeps (hm.sub (by decide)) (hu.sub (by decide)) (setCopy_keeps (hm.sub (by decide)) (hu.sub (by decide)) (keeps_ite (setFlag_keeps fam_TRUSS_STATUS_STAGED (hm.sub (by decide)) (hu.sub (by decide)) h) h)
    (fun q => writeWords_wf ?_))
  split
  · rfl
  · exact copyOf_wf (h.ok q)


theorem opTrussCommit_keeps {m u d0} {x0 d} (hm : Within 9440793 m) (hu : Within 0x800000000040000000020002c0000000000000000000000000000000 u) (h : Keeps m u d0 d) :
    Keeps m u d0 (opTrussCommit x0 d) := by
  unfold opTrussCommit
  refine gated_keeps (hm.sub (by decide)) (hu.sub (by decide)) h (fun d h => ?_)
  have hy := drawn_keeps (hm.sub (by decide)) (hu.sub (by decide)) h
  refine keeps_ite (complete_keeps (hm.sub (by decide)) (hu.sub (by decide)) hy) ?_
  refine raise_keeps (hm.sub (by decide)) (hu.sub (by decide)) (complete_keeps (hm.sub (by decide)) (hu.sub (by decide)) (setFlag_keeps fam_TRUSS_STATUS_STAGED (hm.sub (by decide)) (hu.sub (by decide))
    (setCopy_keeps (hm.sub (by decide)) (hu.sub (by decide)) hy (fun q => wf_set (copyOf_wf (hy.ok q))))))


end Sys2Proof.Machine
end

