-- ==== Sys2Proof/Laws/KFirmware.lean ====
section
/-! SUPPORT. Every operation of Machine/Firmware.lean keeps what it does not change (Laws/Keeps.lean). -/

set_option linter.all false
set_option Elab.async false


namespace Sys2Proof.Machine

theorem banksOk_iff {b : SMap (SMap Word)} : banksOk b = true ↔
    SMap.wf (fun _ => []) b = true ∧ ∀ p ∈ b, SMap.wf flashDflt p.2 = true := by
  simp only [banksOk, Bool.and_eq_true, List.all_eq_true]

theorem mem_set {α : Type} [DecidableEq α] {dflt : Nat → α} {k : Nat} {v : α} {p : Nat × α} :
    ∀ {b : SMap α}, p ∈ SMap.set dflt k v b → p = (k, v) ∨ p ∈ b := by
  intro b
  induction b with
  | nil =>
    unfold SMap.set
    split
    · intro h; cases h
    · intro h; exact .inl (List.mem_singleton.mp h)
  | cons q t ih =>
    obtain ⟨k', v'⟩ := q
    unfold SMap.set
    split
    · split
      · exact .inr
      · intro h
        rcases List.mem_cons.mp h with h | h
        · exact .inl h
        · exact .inr h
    · split
      · split
        · exact fun h => .inr (List.mem_cons_of_mem _ h)
        · intro h
          rcases List.mem_cons.mp h with h | h
          · exact .inl h
          · exact .inr (List.mem_cons_of_mem _ h)
      · intro h
        rcases List.mem_cons.mp h with h | h
        · exact .inr (h ▸ List.mem_cons_self)
        · rcases ih h with h | h
          · exact .inl h
          · exact .inr (List.mem_cons_of_mem _ h)

theorem get_mem {α : Type} [DecidableEq α] {dflt : Nat → α} {k : Nat} :
    ∀ {b : SMap α}, SMap.get dflt b k = dflt k ∨ (k, SMap.get dflt b k) ∈ b := by
  intro b
  induction b with
  | nil => exact .inl rfl
  | cons q t ih =>
    obtain ⟨k', v'⟩ := q
    unfold SMap.get
    split
    · rename_i hk
      exact .inr (hk ▸ List.mem_cons_self)
    · rcases ih with h | h
      · exact .inl h
      · exact .inr (List.mem_cons_of_mem _ h)

theorem bankMem_wf {d : Device} {k : Nat} (h : PartsOk d) : SMap.wf flashDflt (bankMem d k) = true := by
  have hq := h.fw
  simp only [fwOk_iff, banksOk_iff] at hq
  rcases get_mem (dflt := fun _ => ([] : SMap Word)) (b := d.fw.banks) (k := k) with hk | hk
  · unfold bankMem
    rw [hk]
    rfl
  · exact hq.1.2 _ hk

theorem setBank_keeps {m u d0} {k w d} (hm : Within 4194304 m) (hu : Within 0x0 u) (h : Keeps m u d0 d)
    (hw : PartsOk d0 → SMap.wf flashDflt w = true) : Keeps m u d0 (setBank k w d) := by
  unfold setBank
  simp only [keepsMk_iff]
  apply keeps_mk (hw := by with_reducible rfl) (ho := by rfl) (h := h)
  all_goals first | exact Or.inl rfl | exact Or.inr rfl | exact Or.inr (hm.bit (by decide)) | exact Imp.refl _ | skip
  refine ⟨fun q _ hq => ?_⟩
  simp only [fwOk_iff, banksOk_iff] at hq ⊢
  refine ⟨⟨wf_set hq.1.1, fun p hp => ?_⟩, hq.2⟩
  rcases mem_set hp with hp | hp
  · exact hp ▸ hw q
  · exact hq.1.2 p hp

theorem setSeal_keeps {m u d0} {x0 x1 d} (hm : Within 4194304 m) (hu : Within 0x0 u) (h : Keeps m u d0 d) :
    Keeps m u d0 (setSeal x0 x1 d) := by
  unfold setSeal
  repeat' first
    | with_reducible assumption | exact hm.sub (by decide) | exact hu.sub (by decide)
    | (extract_lets +onlyGivenNames y; first | (refine (fun _ => ?_) (?_ : Keeps m u d0 y); clear_value y) | subst y)
    | exact Or.inr (hm.bit (by decide)) | with_reducible exact Or.inl rfl | with_reducible exact Imp.refl _
    | (with_reducible refine Imp.mk (fun _ _ hq => ?_); first | (simp at hq ⊢; done) | (simp at hq ⊢; simp [hq]; done))
    | with_reducible exact Or.inr rfl | simp only [keepsMk_iff]
    | with_reducible apply keeps_mk (hw := by with_reducible rfl)

theorem sealBank_keeps {m u d0} {x0 d} (hm : Within 4194304 m) (hu : Within 0x0 u) (h : Keeps m u d0 d) :
    Keeps m u d0 (sealBank x0 d) := by
  unfold sealBank
  repeat' first
    | with_reducible assumption | exact hm.sub (by decide) | exact hu.sub (by decide)
    | with_reducible apply setSeal_keeps

theorem fwLast_keeps {m u d0} {x0 x1 x2 x3 d} (hm : Within 1 m) (hu : Within 0x2000000000000000000000000000000000000000000000000000 u) (h : Keeps m u d0 d) :
    Keeps m u d0 (fwLast x0 x1 x2 x3 d) := by
  unfold fwLast
  repeat' first
    | with_reducible assumption | exact hm.sub (by decide) | exact hu.sub (by decide)
    | with_reducible apply setFld_keeps fam_FW_LAST_RESULT | with_reducible apply setFld_keeps fam_FW_LAST_CAUSE
    | with_reducible apply setFld_keeps fam_FW_LAST_KIND | with_reducible apply setFld_keeps fam_FW_LAST_BANK

theorem showRecord_keeps {m u d0} {d} (hm : Within 1 m) (hu : Within 0x20000000000000000000000000000000000000000000000000 u) (h : Keeps m u d0 d) :
    Keeps m u d0 (showRecord d) := by
  unfold showRecord
  repeat' first
    | with_reducible assumption | exact hm.sub (by decide) | exact hu.sub (by decide)
    | with_reducible apply setFld_keeps fam_TRUST_STATUS_ACTIVE_BANK
    | with_reducible apply setFlag_keeps fam_TRUST_STATUS_TRIAL
    | with_reducible apply setFlag_keeps fam_TRUST_STATUS_ARB_PENDING

theorem setTrial_keeps {m u d0} {x0 d} (hm : Within 4194305 m) (hu : Within 0x20000000000000000000000000000000000000000000000000 u) (h : Keeps m u d0 d) :
    Keeps m u d0 (setTrial x0 d) := by
  unfold setTrial
  repeat' first
    | with_reducible assumption | exact hm.sub (by decide) | exact hu.sub (by decide)
    | (extract_lets +onlyGivenNames y; first | (refine (fun _ => ?_) (?_ : Keeps m u d0 y); clear_value y) | subst y)
    | exact Or.inr (hm.bit (by decide)) | with_reducible exact Or.inl rfl | with_reducible exact Imp.refl _
    | (with_reducible refine Imp.mk (fun _ _ hq => ?_); first | (simp at hq ⊢; done) | (simp at hq ⊢; simp [hq]; done))
    | with_reducible exact Or.inr rfl | with_reducible apply setFlag_keeps fam_TRUST_STATUS_TRIAL
    | simp only [keepsMk_iff] | with_reducible apply keeps_mk (hw := by with_reducible rfl)

theorem recordBank_keeps {m u d0} {x0 d} (hm : Within 4194305 m) (hu : Within 0x1a0000000000000000000000000000000000000000000000000 u) (h : Keeps m u d0 d) :
    Keeps m u d0 (recordBank x0 d) := by
  unfold recordBank
  repeat' first
    | with_reducible assumption | exact hm.sub (by decide) | exact hu.sub (by decide) | subst y
    | (extract_lets +onlyGivenNames y; first | (refine (fun _ => ?_) (?_ : Keeps m u d0 y); clear_value y) | subst y)
    | exact Or.inr (hm.bit (by decide)) | with_reducible exact Or.inl rfl | with_reducible exact Imp.refl _
    | (with_reducible refine Imp.mk (fun _ _ hq => ?_); first | (simp at hq ⊢; done) | (simp at hq ⊢; simp [hq]; done))
    | with_reducible exact Or.inr rfl | with_reducible apply setW_keeps at_FW_VER_THATCH
    | with_reducible apply setFld_keeps fam_FW_ARB_IMG_ARB
    | with_reducible apply setFld_keeps fam_TRUST_STATUS_ACTIVE_BANK | simp only [keepsMk_iff]
    | with_reducible apply keeps_mk (hw := by with_reducible rfl)

theorem putThatch_keeps {m u d0} {x0 d} (hm : Within 1 m) (hu : Within 0x20000000000000000000000000000000000000000000000000 u) (h : Keeps m u d0 d) :
    Keeps m u d0 (putThatch x0 d) := by
  unfold putThatch
  repeat' first
    | with_reducible assumption | exact hm.sub (by decide) | exact hu.sub (by decide)
    | with_reducible apply setFld_keeps fam_TRUST_STATUS_THATCH_STATE

theorem setAbsent_keeps {m u d0} {x0 d} (hm : Within 32 m) (hu : Within 0x0 u) (h : Keeps m u d0 d) :
    Keeps m u d0 (setAbsent x0 d) := by
  unfold setAbsent
  repeat' first
    | with_reducible assumption | exact hm.sub (by decide) | exact hu.sub (by decide)
    | (extract_lets +onlyGivenNames y; first | (refine (fun _ => ?_) (?_ : Keeps m u d0 y); clear_value y) | subst y)
    | exact Or.inr (hm.bit (by decide)) | with_reducible exact Or.inl rfl | with_reducible exact Imp.refl _
    | with_reducible exact Or.inr rfl | simp only [keepsMk_iff]
    | with_reducible apply keeps_mk (hw := by with_reducible rfl)

theorem acuReset_keeps {m u d0} {d} (hm : Within 10488832 m) (hu : Within 0x0 u) (h : Keeps m u d0 d) :
    Keeps m u d0 (acuReset d) := by
  unfold acuReset
  repeat' first
    | with_reducible assumption | exact hm.sub (by decide) | exact hu.sub (by decide) | subst y
    | (extract_lets +onlyGivenNames y; first | (refine (fun _ => ?_) (?_ : Keeps m u d0 y); clear_value y) | subst y)
    | exact Or.inr (hm.bit (by decide)) | with_reducible exact Or.inl rfl | with_reducible exact Imp.refl _
    | (with_reducible refine Imp.mk (fun _ _ hq => ?_); first | (simp at hq ⊢; done) | (simp at hq ⊢; simp [hq]; done))
    | with_reducible exact Or.inr rfl | with_reducible apply emptyQueue_keeps | with_reducible apply drawn_keeps
    | with_reducible apply traceEntry_keeps | simp only [keepsMk_iff]
    | with_reducible apply keeps_mk (hw := by with_reducible rfl)

theorem holdThatch_keeps {m u d0} {d} (hm : Within 10489377 m) (hu : Within 0x800000200040000000000002c0000000000000000000000000000000 u) (h : Keeps m u d0 d) :
    Keeps m u d0 (holdThatch d) := by
  unfold holdThatch
  repeat' first
    | with_reducible assumption | exact hm.sub (by decide) | exact hu.sub (by decide)
    | with_reducible apply setFlag_keeps fam_TRUST_STATUS_THATCH_HELD | with_reducible apply raise_keeps
    | with_reducible apply setAbsent_keeps | with_reducible apply putThatch_keeps
    | with_reducible apply acuReset_keeps

theorem fallBack_keeps {m u d0} {d} (hm : Within 4197889 m) (hu : Within 0x800021a00040000000000002c0000000000000000000000000000000 u) (h : Keeps m u d0 d) :
    Keeps m u d0 (fallBack d) := by
  unfold fallBack
  repeat' first
    | with_reducible assumption | exact hm.sub (by decide) | exact hu.sub (by decide) | subst y
    | (extract_lets +onlyGivenNames y; first | (refine (fun _ => ?_) (?_ : Keeps m u d0 y); clear_value y) | subst y)
    | exact Or.inr (hm.bit (by decide)) | with_reducible exact Or.inl rfl | with_reducible exact Imp.refl _
    | (with_reducible refine Imp.mk (fun _ _ hq => ?_); first | (simp at hq ⊢; done) | (simp at hq ⊢; simp [hq]; done))
    | with_reducible exact Or.inr rfl | with_reducible apply recordBank_keeps | with_reducible apply setTrial_keeps
    | with_reducible apply raise_keeps | with_reducible apply fwLast_keeps | simp only [keepsMk_iff]
    | with_reducible apply keeps_mk (hw := by with_reducible rfl)

theorem restartThatch_keeps {m u d0} {d} (hm : Within 14683681 m) (hu : Within 0x800021a04040000000000002c0000000000000000000000000000000 u) (h : Keeps m u d0 d) :
    Keeps m u d0 (restartThatch d) := by
  unfold restartThatch
  repeat' first
    | with_reducible assumption | exact hm.sub (by decide) | exact hu.sub (by decide) | subst y
    | (extract_lets +onlyGivenNames y; first | (refine (fun _ => ?_) (?_ : Keeps m u d0 y); clear_value y) | subst y)
    | exact Or.inr (hm.bit (by decide)) | with_reducible exact Or.inl rfl | with_reducible exact Imp.refl _
    | (with_reducible refine Imp.mk (fun _ _ hq => ?_); first | (simp at hq ⊢; done) | (simp at hq ⊢; simp [hq]; done))
    | with_reducible exact Or.inr rfl | with_reducible apply holdThatch_keeps | with_reducible apply acuReset_keeps
    | with_reducible apply putThatch_keeps | with_reducible apply fallBack_keeps | with_reducible apply trigIf_keeps
    | with_reducible apply raise_keeps | with_reducible apply keeps_ite | simp only [keepsMk_iff]
    | with_reducible apply keeps_mk (hw := by with_reducible rfl)

theorem opThatchCheckIn_keeps {m u d0} {d} (hm : Within 4194304 m) (hu : Within 0x0 u) (h : Keeps m u d0 d) :
    Keeps m u d0 (opThatchCheckIn d) := by
  unfold opThatchCheckIn
  repeat' first
    | with_reducible assumption | exact hm.sub (by decide) | exact hu.sub (by decide)
    | (extract_lets +onlyGivenNames y; first | (refine (fun _ => ?_) (?_ : Keeps m u d0 y); clear_value y) | subst y)
    | exact Or.inr (hm.bit (by decide)) | with_reducible exact Or.inl rfl | with_reducible exact Imp.refl _
    | (with_reducible refine Imp.mk (fun _ _ hq => ?_); first | (simp at hq ⊢; done) | (simp at hq ⊢; simp [hq]; done))
    | with_reducible exact Or.inr rfl | with_reducible apply keeps_ite | simp only [keepsMk_iff]
    | with_reducible apply keeps_mk (hw := by with_reducible rfl)

theorem opThatchWdt_keeps {m u d0} {d} (hm : Within 14683705 m) (hu : Within 0x800021a04040000000000002c0000000000000000000000000000000 u) (h : Keeps m u d0 d) :
    Keeps m u d0 (opThatchWdt d) := by
  unfold opThatchWdt
  repeat' first
    | with_reducible assumption | exact hm.sub (by decide) | exact hu.sub (by decide)
    | with_reducible apply restartThatch_keeps | with_reducible apply raise_keeps
    | with_reducible apply advanceTo_keeps | with_reducible apply keeps_ite

theorem opThatchSubmit_keeps {m u d0} {x0 x1 d} (hm : Within 1024 m) (hu : Within 0x0 u) (h : Keeps m u d0 d) :
    Keeps m u d0 (opThatchSubmit x0 x1 d) := by
  unfold opThatchSubmit
  repeat' first
    | with_reducible assumption | exact hm.sub (by decide) | exact hu.sub (by decide)
    | with_reducible apply enqueue_keeps | with_reducible apply keeps_ite

theorem stageWords_wf {ws : List Word} : ∀ {i : Nat} {w : SMap Word}, SMap.wf flashDflt w = true →
    SMap.wf flashDflt (stageWords i ws w) = true := by
  induction ws with
  | nil => intro _ _ h; exact h
  | cons x t ih => intro i w h; exact ih (wf_set h)

theorem opFwStage_keeps {m u d0} {x0 d} (hm : Within 4197889 m) (hu : Within 0x800000000040000000000002c0000000000000000000000000000000 u) (h : Keeps m u d0 d) :
    Keeps m u d0 (opFwStage x0 d) := by
  unfold opFwStage
  refine judged_keeps (hm.sub (by decide)) (hu.sub (by decide)) h (fun d h => ?_)
  refine complete_keeps (hm.sub (by decide)) (hu.sub (by decide)) (setSeal_keeps (hm.sub (by decide)) (hu.sub (by decide)) (setBank_keeps (hm.sub (by decide)) (hu.sub (by decide)) h
    (fun q => stageWords_wf ?_)))
  split
  · exact wf_filter (bankMem_wf (h.ok q))
  · exact bankMem_wf (h.ok q)


theorem programCounter_keeps {m u d0} {x0 x1 x2 x3 d} (hm : Within 5246489 m) (hu : Within 0x800001200040000000008002c0000000000000000000000000000000 u) (h : Keeps m u d0 d) :
    Keeps m u d0 (programCounter x0 x1 x2 x3 d) := by
  unfold programCounter
  repeat' first
    | with_reducible assumption | exact hm.sub (by decide) | exact hu.sub (by decide) | intro _ | subst y
    | (extract_lets +onlyGivenNames y; first | (refine (fun _ => ?_) (?_ : Keeps m u d0 y); clear_value y) | subst y)
    | exact Or.inr (hm.bit (by decide)) | with_reducible exact Or.inl rfl | with_reducible exact Imp.refl _
    | (with_reducible refine Imp.mk (fun _ _ hq => ?_); first | (simp at hq ⊢; done) | (simp at hq ⊢; simp [hq]; done))
    | (with_reducible refine Imp.mk (fun q _ hq => ?_); have r := h.ok q; simp [partsOk_iff] at r hq ⊢; simp [r, hq]; done)
    | (rename_i a ha hb; with_reducible refine Imp.mk (fun q _ _ => ?_); have r := ha.ok q; simp [partsOk_iff] at r ⊢; simp [r]; done)
    | with_reducible exact Or.inr rfl | with_reducible apply enqueueJob_keeps | with_reducible apply keeps_ite
    | with_reducible apply keeps_foldl | simp only [keepsMk_iff]
    | with_reducible apply keeps_mk (hw := by with_reducible rfl) | with_reducible rfl | split

theorem activatePurlin_keeps {m u d0} {x0 x1 d} (hm : Within 5246489 m) (hu : Within 0x800021200040000000008002c0000000000000000000000000000000 u) (h : Keeps m u d0 d) :
    Keeps m u d0 (activatePurlin x0 x1 d) := by
  unfold activatePurlin
  repeat' first
    | with_reducible assumption | exact hm.sub (by decide) | exact hu.sub (by decide) | subst y
    | (extract_lets +onlyGivenNames y; first | (refine (fun _ => ?_) (?_ : Keeps m u d0 y); clear_value y) | subst y)
    | exact Or.inr (hm.bit (by decide)) | with_reducible exact Or.inl rfl | with_reducible exact Imp.refl _
    | (with_reducible refine Imp.mk (fun _ _ hq => ?_); first | (simp at hq ⊢; done) | (simp at hq ⊢; simp [hq]; done))
    | with_reducible exact Or.inr rfl | with_reducible apply setFlag_keeps fam_TRUST_STATUS_PURLIN_REFRESH
    | with_reducible apply complete_keeps | with_reducible apply fwLast_keeps | with_reducible apply raise_keeps
    | with_reducible apply programCounter_keeps | with_reducible apply keeps_ite | simp only [keepsMk_iff]
    | with_reducible apply keeps_mk (hw := by with_reducible rfl)

theorem beginTrial_keeps {m u d0} {x0 d} (hm : Within 4194305 m) (hu : Within 0x1a0000000000000000000000000000000000000000000000000 u) (h : Keeps m u d0 d) :
    Keeps m u d0 (beginTrial x0 d) := by
  unfold beginTrial
  repeat' first
    | with_reducible assumption | exact hm.sub (by decide) | exact hu.sub (by decide) | subst y
    | (extract_lets +onlyGivenNames y; first | (refine (fun _ => ?_) (?_ : Keeps m u d0 y); clear_value y) | subst y)
    | exact Or.inr (hm.bit (by decide)) | with_reducible exact Or.inl rfl | with_reducible exact Imp.refl _
    | (with_reducible refine Imp.mk (fun _ _ hq => ?_); first | (simp at hq ⊢; done) | (simp at hq ⊢; simp [hq]; done))
    | with_reducible exact Or.inr rfl | with_reducible apply recordBank_keeps | with_reducible apply setTrial_keeps
    | simp only [keepsMk_iff] | with_reducible apply keeps_mk (hw := by with_reducible rfl)

theorem endHold_keeps {m u d0} {d} (hm : Within 33 m) (hu : Within 0x20000000000000000000000000000000000000000000000000 u) (h : Keeps m u d0 d) :
    Keeps m u d0 (endHold d) := by
  unfold endHold
  repeat' first
    | with_reducible assumption | exact hm.sub (by decide) | exact hu.sub (by decide)
    | with_reducible apply setFlag_keeps fam_TRUST_STATUS_THATCH_HELD | with_reducible apply setAbsent_keeps
    | with_reducible apply putThatch_keeps | with_reducible apply keeps_ite

theorem activateThatch_keeps {m u d0} {x0 x1 d} (hm : Within 4197921 m) (hu : Within 0x800021a00040000000000002c0000000000000000000000000000000 u) (h : Keeps m u d0 d) :
    Keeps m u d0 (activateThatch x0 x1 d) := by
  unfold activateThatch
  repeat' first
    | with_reducible assumption | exact hm.sub (by decide) | exact hu.sub (by decide) | subst y
    | (extract_lets +onlyGivenNames y; first | (refine (fun _ => ?_) (?_ : Keeps m u d0 y); clear_value y) | subst y)
    | exact Or.inr (hm.bit (by decide)) | with_reducible exact Or.inl rfl | with_reducible exact Imp.refl _
    | (with_reducible refine Imp.mk (fun _ _ hq => ?_); first | (simp at hq ⊢; done) | (simp at hq ⊢; simp [hq]; done))
    | with_reducible exact Or.inr rfl | with_reducible apply complete_keeps | with_reducible apply fwLast_keeps
    | with_reducible apply sealBank_keeps | with_reducible apply endHold_keeps
    | with_reducible apply keepRunning_keeps | with_reducible apply putThatch_keeps
    | with_reducible apply beginTrial_keeps | with_reducible apply raise_keeps | with_reducible apply keeps_ite
    | simp only [keepsMk_iff] | with_reducible apply keeps_mk (hw := by with_reducible rfl)

theorem opFwActivate_keeps {m u d0} {x0 d} (hm : Within 13635129 m) (hu : Within 0x800021a00040000000008002c0000000000000000000000000000000 u) (h : Keeps m u d0 d) :
    Keeps m u d0 (opFwActivate x0 d) := by
  unfold opFwActivate
  repeat' first
    | with_reducible assumption | exact hm.sub (by decide) | exact hu.sub (by decide) | intro _
    | (extract_lets +onlyGivenNames y; first | (refine (fun _ => ?_) (?_ : Keeps m u d0 y); clear_value y) | subst y)
    | with_reducible apply gated_keeps | with_reducible apply activatePurlin_keeps | with_reducible apply drawn_keeps
    | with_reducible apply activateThatch_keeps | with_reducible apply keeps_ite

theorem opQuiesceTimeout_keeps {m u d0} {d} (hm : Within 14814777 m) (hu : Within 0x1a0004000000000000000000000000000000000000000000000 u) (h : Keeps m u d0 d) :
    Keeps m u d0 (opQuiesceTimeout d) := by
  unfold opQuiesceTimeout
  repeat' first
    | with_reducible assumption | exact hm.sub (by decide) | exact hu.sub (by decide) | subst y
    | (extract_lets +onlyGivenNames y; first | (refine (fun _ => ?_) (?_ : Keeps m u d0 y); clear_value y) | subst y)
    | exact Or.inr (hm.bit (by decide)) | with_reducible exact Or.inl rfl | with_reducible exact Imp.refl _
    | (with_reducible refine Imp.mk (fun _ _ hq => ?_); first | (simp at hq ⊢; done) | (simp at hq ⊢; simp [hq]; done))
    | with_reducible exact Or.inr rfl | with_reducible apply checkpoint_keeps | with_reducible apply advanceTo_keeps
    | with_reducible apply beginTrial_keeps | with_reducible apply setAbsent_keeps
    | with_reducible apply putThatch_keeps | with_reducible apply acuReset_keeps | with_reducible apply keeps_ite
    | simp only [keepsMk_iff] | with_reducible apply keeps_mk (hw := by with_reducible rfl) | split

theorem trialDone_keeps {m u d0} {d} (hm : Within 4194304 m) (hu : Within 0x0 u) (h : Keeps m u d0 d) :
    Keeps m u d0 (trialDone d) := by
  unfold trialDone
  repeat' first
    | with_reducible assumption | exact hm.sub (by decide) | exact hu.sub (by decide)
    | (extract_lets +onlyGivenNames y; first | (refine (fun _ => ?_) (?_ : Keeps m u d0 y); clear_value y) | subst y)
    | exact Or.inr (hm.bit (by decide)) | with_reducible exact Or.inl rfl | with_reducible exact Imp.refl _
    | (with_reducible refine Imp.mk (fun _ _ hq => ?_); first | (simp at hq ⊢; done) | (simp at hq ⊢; simp [hq]; done))
    | with_reducible exact Or.inr rfl | simp only [keepsMk_iff]
    | with_reducible apply keeps_mk (hw := by with_reducible rfl)

theorem opFwConfirmed_keeps {m u d0} {x0 x1 d} (hm : Within 5246489 m) (hu : Within 0x800021200040000000008002c0000000000000000000000000000000 u) (h : Keeps m u d0 d) :
    Keeps m u d0 (opFwConfirmed x0 x1 d) := by
  unfold opFwConfirmed
  repeat' first
    | with_reducible assumption | exact hm.sub (by decide) | exact hu.sub (by decide)
    | with_reducible apply advanceTo_keeps | with_reducible apply setTrial_keeps
    | with_reducible apply trialDone_keeps | with_reducible apply raise_keeps | with_reducible apply fwLast_keeps
    | with_reducible apply programCounter_keeps | with_reducible apply keeps_ite | simp only [keepsMk_iff] | split

theorem opArbPending_keeps {m u d0} {x0 x1 d} (hm : Within 5246489 m) (hu : Within 0x800001200040000000008002c0000000000000000000000000000000 u) (h : Keeps m u d0 d) :
    Keeps m u d0 (opArbPending x0 x1 d) := by
  unfold opArbPending
  repeat' first
    | with_reducible assumption | exact hm.sub (by decide) | exact hu.sub (by decide) | subst y
    | (extract_lets +onlyGivenNames y; first | (refine (fun _ => ?_) (?_ : Keeps m u d0 y); clear_value y) | subst y)
    | with_reducible apply advanceTo_keeps | with_reducible apply programCounter_keeps
    | with_reducible apply keeps_ite

theorem hwdRestart_keeps {m u d0} {d} (hm : Within 4194304 m) (hu : Within 0x0 u) (h : Keeps m u d0 d) :
    Keeps m u d0 (hwdRestart d) := by
  unfold hwdRestart
  repeat' first
    | with_reducible assumption | exact hm.sub (by decide) | exact hu.sub (by decide)
    | (extract_lets +onlyGivenNames y; first | (refine (fun _ => ?_) (?_ : Keeps m u d0 y); clear_value y) | subst y)
    | exact Or.inr (hm.bit (by decide)) | with_reducible exact Or.inl rfl | with_reducible exact Imp.refl _
    | (with_reducible refine Imp.mk (fun _ _ hq => ?_); first | (simp at hq ⊢; done) | (simp at hq ⊢; simp [hq]; done))
    | with_reducible exact Or.inr rfl | simp only [keepsMk_iff]
    | with_reducible apply keeps_mk (hw := by with_reducible rfl)

theorem profileEntry_keeps {m u d0} {d x1} (hm : Within 15728639 m) (hu : Within 0x7fffffffffffffffffffffffffffffffffffffffffffffffffffffffff u) (h : Keeps m u d0 d) :
    Keeps m u d0 (profileEntry d x1) := by
  unfold profileEntry
  repeat' first
    | with_reducible assumption | exact hm.sub (by decide) | exact hu.sub (by decide) | intro _
    | (extract_lets +onlyGivenNames y; first | (refine (fun _ => ?_) (?_ : Keeps m u d0 y); clear_value y) | subst y)
    | with_reducible apply runRow_keeps | with_reducible apply opRegWrite_keeps | with_reducible apply raise_keeps
    | with_reducible apply keeps_ite

theorem applyProfile_keeps {m u d0} {d} (hm : Within 15728639 m) (hu : Within 0x7fffffffffffffffffffffffffffffffffffffffffffffffffffffffff u) (h : Keeps m u d0 d) :
    Keeps m u d0 (applyProfile d) := by
  unfold applyProfile
  repeat' first
    | with_reducible assumption | exact hm.sub (by decide) | exact hu.sub (by decide) | intro _
    | with_reducible apply setFlag_keeps fam_HWD_STATUS_PROFILE_ACTIVE | with_reducible apply raise_keeps
    | with_reducible apply profileEntry_keeps | with_reducible apply keeps_foldl

theorem hwdAction_keeps {m u d0} {d} (hm : Within 15728639 m) (hu : Within 0x7fffffffffffffffffffffffffffffffffffffffffffffffffffffffff u) (h : Keeps m u d0 d) :
    Keeps m u d0 (hwdAction d) := by
  unfold hwdAction
  repeat' first
    | with_reducible assumption | exact hm.sub (by decide) | exact hu.sub (by decide)
    | with_reducible apply applyProfile_keeps | with_reducible apply descendNow_keeps | with_reducible apply keeps_ite
    | split

theorem opWdtKick_keeps {m u d0} {x0 d} (hm : Within 15728639 m) (hu : Within 0x7fffffffffffffffffffffffffffffffffffffffffffffffffffffffff u) (h : Keeps m u d0 d) :
    Keeps m u d0 (opWdtKick x0 d) := by
  unfold opWdtKick
  repeat' first
    | with_reducible assumption | exact hm.sub (by decide) | exact hu.sub (by decide) | intro _ | subst y
    | (extract_lets +onlyGivenNames y; first | (refine (fun _ => ?_) (?_ : Keeps m u d0 y); clear_value y) | subst y)
    | with_reducible apply setFlag_keeps fam_HWD_STATUS_PROFILE_ACTIVE | with_reducible apply judged_keeps
    | with_reducible apply gutter_keeps | with_reducible apply raise_keeps | with_reducible apply hwdAction_keeps
    | with_reducible apply hwdRestart_keeps | with_reducible apply complete_keeps | with_reducible apply keeps_ite

theorem opHwdExpired_keeps {m u d0} {d} (hm : Within 15728639 m) (hu : Within 0x7fffffffffffffffffffffffffffffffffffffffffffffffffffffffff u) (h : Keeps m u d0 d) :
    Keeps m u d0 (opHwdExpired d) := by
  unfold opHwdExpired
  repeat' first
    | with_reducible assumption | exact hm.sub (by decide) | exact hu.sub (by decide) | subst y
    | (extract_lets +onlyGivenNames y; first | (refine (fun _ => ?_) (?_ : Keeps m u d0 y); clear_value y) | subst y)
    | with_reducible apply addSat_keeps fam_HWD_STATUS_EXPIRIES | with_reducible apply advanceTo_keeps
    | with_reducible apply raise_keeps | with_reducible apply gutter_keeps | with_reducible apply hwdAction_keeps
    | with_reducible apply hwdRestart_keeps | with_reducible apply keeps_ite

theorem opPurlinWdtKick_keeps {m u d0} {d} (hm : Within 4194304 m) (hu : Within 0x0 u) (h : Keeps m u d0 d) :
    Keeps m u d0 (opPurlinWdtKick d) := by
  unfold opPurlinWdtKick
  repeat' first
    | with_reducible assumption | exact hm.sub (by decide) | exact hu.sub (by decide)
    | (extract_lets +onlyGivenNames y; first | (refine (fun _ => ?_) (?_ : Keeps m u d0 y); clear_value y) | subst y)
    | exact Or.inr (hm.bit (by decide)) | with_reducible exact Or.inl rfl | with_reducible exact Imp.refl _
    | (with_reducible refine Imp.mk (fun _ _ hq => ?_); first | (simp at hq ⊢; done) | (simp at hq ⊢; simp [hq]; done))
    | with_reducible exact Or.inr rfl | simp only [keepsMk_iff]
    | with_reducible apply keeps_mk (hw := by with_reducible rfl)

end Sys2Proof.Machine
end

