-- ==== Sys2Proof/Laws/KResets.lean ====
section
/-! SUPPORT. Every operation of Machine/Resets.lean keeps what it does not change (Laws/Keeps.lean). -/

set_option linter.all false
set_option Elab.async false


namespace Sys2Proof.Machine

theorem cutWord_keeps {m u d0} {d} (hm : Within 9437184 m) (hu : Within 0x0 u) (h : Keeps m u d0 d) :
    Keeps m u d0 (cutWord d) := by
  unfold cutWord
  repeat' first
    | with_reducible assumption | exact hm.sub (by decide) | exact hu.sub (by decide)
    | (extract_lets +onlyGivenNames y; first | (refine (fun _ => ?_) (?_ : Keeps m u d0 y); clear_value y) | subst y)
    | with_reducible apply blow_keeps | with_reducible apply drawn_keeps | simp only [keepsMk_iff] | split

theorem keeperFreeze_keeps {m u d0} {d} (hm : Within 96 m) (hu : Within 0x0 u) (h : Keeps m u d0 d) :
    Keeps m u d0 (keeperFreeze d) := by
  unfold keeperFreeze
  repeat' first
    | with_reducible assumption | exact hm.sub (by decide) | exact hu.sub (by decide)
    | (extract_lets +onlyGivenNames y; first | (refine (fun _ => ?_) (?_ : Keeps m u d0 y); clear_value y) | subst y)
    | exact Or.inr (hm.bit (by decide)) | with_reducible exact Or.inl rfl | with_reducible exact Imp.refl _
    | with_reducible exact Or.inr rfl | with_reducible apply imp_rails | with_reducible apply keeps_ite
    | simp only [keepsMk_iff] | with_reducible apply keeps_mk (hw := by with_reducible rfl)

theorem cutCluster_keeps {m u d0} {d x1} (hm : Within 257 m) (hu : Within 0x120080000000000000000 u) (h : Keeps m u d0 d) :
    Keeps m u d0 (cutCluster d x1) := by
  unfold cutCluster
  repeat' first
    | with_reducible assumption | exact hm.sub (by decide) | exact hu.sub (by decide) | subst y
    | (extract_lets +onlyGivenNames y; first | (refine (fun _ => ?_) (?_ : Keeps m u d0 y); clear_value y) | subst y)
    | with_reducible apply parkSpare_keeps | with_reducible apply modClus_keeps | with_reducible apply keeps_ite

theorem freezeTrace_keeps {m u d0} {d} (hm : Within 10485761 m) (hu : Within 0xc00000000000000000000000000000000000000000000000 u) (h : Keeps m u d0 d) :
    Keeps m u d0 (freezeTrace d) := by
  unfold freezeTrace
  repeat' first
    | with_reducible assumption | exact hm.sub (by decide) | exact hu.sub (by decide) | subst y
    | (extract_lets +onlyGivenNames y; first | (refine (fun _ => ?_) (?_ : Keeps m u d0 y); clear_value y) | subst y)
    | exact Or.inr (hm.bit (by decide)) | with_reducible exact Or.inl rfl | with_reducible exact Imp.refl _
    | (with_reducible refine Imp.mk (fun _ _ hq => ?_); first | (simp at hq ⊢; done) | (simp at hq ⊢; simp [hq]; done))
    | with_reducible exact Or.inr rfl | with_reducible apply addSat_keeps fam_TRC_STATUS_TRIG_MISSED
    | with_reducible apply setW_keeps at_TRC_FREEZE | with_reducible apply setFld_keeps fam_TRC_STATUS_CAUSE
    | with_reducible apply traceEntry_keeps | with_reducible apply closeBlock_keeps
    | with_reducible apply setTrc_keeps | with_reducible apply keeps_ite | simp only [keepsMk_iff]
    | with_reducible apply keeps_mk (hw := by with_reducible rfl)

theorem hardDevice_keeps {m u d0} {d} (hm : Within 7863975 m) (hu : Within 0xffffffffffffffffffffffffffffffffffffffffffffffffffffffffff u) (h : Keeps m u d0 d) :
    Keeps m u d0 (hardDevice d) := by
  unfold hardDevice
  rw [keepsMk_iff]
  refine keeps_mkC wf_keptWords (hm.bit (by decide)) (hu.bit (by decide)) (hu.bit (by decide)) (e := d) ?_ h ?_ ?_ ?_ ?_ ?_ ?_ ?_ ?_ ?_ ?_ ?_ ?_ ?_ ?_ ?_ ?_ ?_  ?_ ?_ ?_ ?_ ?_ ?_ ?_ ?_ ?_ ?_ ?_ ?_ ?_ ?_ ?_ ?_ ?_ ?_ ?_ ?_
  all_goals first | exact Or.inr (hm.bit (by decide)) | exact Or.inl rfl | rfl | exact Imp.refl _ | (refine ⟨fun _ _ hq => ?_⟩; first | (simp at hq ⊢; done) | (simp [keptOtp, keptLog, keptFw] at hq ⊢; done) | (simp [keptOtp, keptLog, keptFw] at hq ⊢; simp [hq]; done))


theorem hardReset_keeps {m u d0} {x0 x1 d} (hm : Within 16252903 m) (hu : Within 0xffffffffffffffffffffffffffffffffffffffffffffffffffffffffff u) (h : Keeps m u d0 d) :
    Keeps m u d0 (hardReset x0 x1 d) := by
  unfold hardReset
  repeat' first
    | with_reducible assumption | exact hm.sub (by decide) | exact hu.sub (by decide) | intro _ | subst y
    | (extract_lets +onlyGivenNames y; first | (refine (fun _ => ?_) (?_ : Keeps m u d0 y); clear_value y) | subst y)
    | exact Or.inr (hm.bit (by decide)) | with_reducible exact Or.inl rfl | with_reducible exact Imp.refl _
    | (with_reducible refine Imp.mk (fun _ _ hq => ?_); first | (simp at hq ⊢; done) | (simp at hq ⊢; simp [hq]; done))
    | (with_reducible refine Imp.mk (fun q _ hq => ?_); have r := h.ok q; simp [partsOk_iff] at r hq ⊢; simp [r, hq]; done)
    | (rename_i a ha hb; with_reducible refine Imp.mk (fun q _ _ => ?_); have r := ha.ok q; simp [partsOk_iff] at r ⊢; simp [r]; done)
    | with_reducible exact Or.inr rfl | with_reducible apply setFlag_keeps fam_MODE_STATUS_ADOPTING
    | with_reducible apply setFld_keeps fam_ADOPT_STATUS_KEEPER_MODE
    | with_reducible apply setFld_keeps fam_BK_STATUS_BK_STATE | with_reducible apply setFlag_any
    | with_reducible apply setFlag_keeps fam_TRUST_STATUS_LOCKSTEP | with_reducible apply cutWord_keeps
    | with_reducible apply freezeTrace_keeps | with_reducible apply keeperFreeze_keeps
    | with_reducible apply cutCluster_keeps | with_reducible apply hardDevice_keeps | with_reducible apply keeps_ite
    | with_reducible apply keeps_foldl | simp only [keepsMk_iff]
    | with_reducible apply keeps_mk (hw := by with_reducible rfl) | with_reducible rfl | split

theorem watchdogReset_keeps {m u d0} {x0 d} (hm : Within 16252903 m) (hu : Within 0xffffffffffffffffffffffffffffffffffffffffffffffffffffffffff u) (h : Keeps m u d0 d) :
    Keeps m u d0 (watchdogReset x0 d) := by
  unfold watchdogReset
  repeat' first
    | with_reducible assumption | exact hm.sub (by decide) | exact hu.sub (by decide)
    | (extract_lets +onlyGivenNames y; first | (refine (fun _ => ?_) (?_ : Keeps m u d0 y); clear_value y) | subst y)
    | exact Or.inr (hm.bit (by decide)) | with_reducible exact Or.inl rfl | with_reducible exact Imp.refl _
    | with_reducible exact Or.inr rfl | with_reducible apply hardReset_keeps | simp only [keepsMk_iff]
    | with_reducible apply keeps_mk (hw := by with_reducible rfl)

theorem noPack_keeps {m u d0} {d} (hm : Within 262145 m) (hu : Within 0x60000000000000000000000 u) (h : Keeps m u d0 d) :
    Keeps m u d0 (noPack d) := by
  unfold noPack
  repeat' first
    | with_reducible assumption | exact hm.sub (by decide) | exact hu.sub (by decide) | subst y
    | (extract_lets +onlyGivenNames y; first | (refine (fun _ => ?_) (?_ : Keeps m u d0 y); clear_value y) | subst y)
    | exact Or.inr (hm.bit (by decide)) | with_reducible exact Or.inl rfl | with_reducible exact Imp.refl _
    | with_reducible exact Or.inr rfl | with_reducible apply setFld_keeps fam_CHG_STATUS_CHG_STATE
    | with_reducible apply setFlag_keeps fam_BK_STATUS_PACK_PRESENT | simp only [keepsMk_iff]
    | with_reducible apply keeps_mk (hw := by with_reducible rfl)

theorem powerOn_keeps {m u d0} {x0 d} (hm : Within 16777215 m) (hu : Within 0xffffffffffffffffffffffffffffffffffffffffffffffffffffffffff u) (h : Keeps m u d0 d) :
    Keeps m u d0 (powerOn x0 d) := by
  unfold powerOn
  extract_lets +onlyGivenNames y
  have hy : Keeps m u d0 y := cutWord_keeps (hm.sub (by decide)) (hu.sub (by decide)) h
  clear_value y
  have he : ∀ w r, SMap.wf resetWord w = true → Imp d0 y (rtcOk y.rtc) (rtcOk r) → Keeps m u d0
      { words := w, core := { porHeld := true }, gauge := keptGauge y.gauge, rtc := r, otp := keptOtp y.otp,
        log := keptLog y.log, fw := keptFw y.fw 0, freeN := y.freeN } := by
    intro w r hw hr
    rw [keepsMk_iff]
    refine keeps_mkC hw (hm.bit (by decide)) (hu.bit (by decide)) (hu.bit (by decide)) (e := y) ?_ hy ?_ ?_ ?_ ?_ ?_ ?_ ?_ ?_ ?_ ?_ ?_ ?_ ?_ ?_ ?_ ?_ ?_  ?_ ?_ ?_ ?_ ?_ ?_ ?_ ?_ ?_ ?_ ?_ ?_ ?_ ?_ ?_ ?_ ?_ ?_ ?_ ?_
    all_goals first | exact Or.inr (hm.bit (by decide)) | exact Or.inl rfl | rfl | exact Imp.refl _ | exact hr | (refine ⟨fun _ _ hq => ?_⟩; first | (simp at hq ⊢; done) | (simp [keptOtp, keptLog, keptFw] at hq ⊢; done) | (simp [keptOtp, keptLog, keptFw] at hq ⊢; simp [hq]; done))
  apply keeps_ite
  · exact factoryLoad_keeps (hm.sub (by decide)) (hu.sub (by decide)) (he _ _ wf_keptWords ⟨fun _ _ hq => by simp at hq ⊢; split <;> simp [hq]⟩)
  · exact he _ _ wf_keptWords ⟨fun _ _ hq => by simp at hq ⊢; split <;> simp [hq]⟩


theorem wakeDormant_keeps {m u d0} {x0 d} (hm : Within 16777215 m) (hu : Within 0xffffffffffffffffffffffffffffffffffffffffffffffffffffffffff u) (h : Keeps m u d0 d) :
    Keeps m u d0 (wakeDormant x0 d) := by
  unfold wakeDormant
  repeat' first
    | with_reducible assumption | exact hm.sub (by decide) | exact hu.sub (by decide) | intro _ | subst y
    | (extract_lets +onlyGivenNames y; first | (refine (fun _ => ?_) (?_ : Keeps m u d0 y); clear_value y) | subst y)
    | exact Or.inr (hm.bit (by decide)) | with_reducible exact Or.inl rfl | with_reducible exact Imp.refl _
    | (with_reducible refine Imp.mk (fun _ _ hq => ?_); first | (simp at hq ⊢; done) | (simp at hq ⊢; simp [hq]; done))
    | (with_reducible refine Imp.mk (fun q _ hq => ?_); have r := h.ok q; simp [partsOk_iff] at r hq ⊢; simp [r, hq]; done)
    | (rename_i a ha hb; with_reducible refine Imp.mk (fun q _ _ => ?_); have r := ha.ok q; simp [partsOk_iff] at r ⊢; simp [r]; done)
    | with_reducible exact Or.inr rfl | with_reducible apply setFlag_keeps fam_RESET_CAUSE_DORMANT_WAKE
    | with_reducible apply noPack_keeps | with_reducible apply powerOn_keeps | with_reducible apply keeps_ite
    | with_reducible apply keeps_foldl | simp only [keepsMk_iff]
    | with_reducible apply keeps_mk (hw := by with_reducible rfl) | with_reducible rfl | split

theorem opPowerOnReset_keeps {m u d0} {x0 d} (hm : Within 16777215 m) (hu : Within 0xffffffffffffffffffffffffffffffffffffffffffffffffffffffffff u) (h : Keeps m u d0 d) :
    Keeps m u d0 (opPowerOnReset x0 d) := by
  unfold opPowerOnReset
  repeat' first
    | with_reducible assumption | exact hm.sub (by decide) | exact hu.sub (by decide)
    | (extract_lets +onlyGivenNames y; first | (refine (fun _ => ?_) (?_ : Keeps m u d0 y); clear_value y) | subst y)
    | with_reducible apply setFlag_keeps fam_RESET_CAUSE_UVLO | with_reducible apply wakeDormant_keeps
    | with_reducible apply powerOn_keeps | with_reducible apply keeps_ite

theorem opPorRelease_keeps {m u d0} {x0 x1 d} (hm : Within 32 m) (hu : Within 0x0 u) (h : Keeps m u d0 d) :
    Keeps m u d0 (opPorRelease x0 x1 d) := by
  unfold opPorRelease
  repeat' first
    | with_reducible assumption | exact hm.sub (by decide) | exact hu.sub (by decide)
    | (extract_lets +onlyGivenNames y; first | (refine (fun _ => ?_) (?_ : Keeps m u d0 y); clear_value y) | subst y)
    | exact Or.inr (hm.bit (by decide)) | with_reducible exact Or.inl rfl | with_reducible exact Imp.refl _
    | with_reducible exact Or.inr rfl | with_reducible apply keeps_ite | simp only [keepsMk_iff]
    | with_reducible apply keeps_mk (hw := by with_reducible rfl)

theorem opUvlo_keeps {m u d0} {d} (hm : Within 16777215 m) (hu : Within 0xffffffffffffffffffffffffffffffffffffffffffffffffffffffffff u) (h : Keeps m u d0 d) :
    Keeps m u d0 (opUvlo d) := by
  unfold opUvlo
  repeat' first
    | with_reducible assumption | exact hm.sub (by decide) | exact hu.sub (by decide)
    | with_reducible apply setFlag_keeps fam_RESET_CAUSE_UVLO | with_reducible apply powerOn_keeps
    | with_reducible apply keeps_ite

theorem wakeDevice_keeps {m u d0} {mask ev d} (hm : Within 7864303 m) (hu : Within 0xffffffffffffffffffffffffffffffffffffffffffffffffffffffffff u) (h : Keeps m u d0 d)
    (hv : Imp d0 d (evOk d.ev) (evOk ev)) : Keeps m u d0 (wakeDevice mask ev d) := by
  unfold wakeDevice
  apply noPack_keeps (hm.sub (by decide)) (hu.sub (by decide))
  rw [keepsMk_iff]
  refine keeps_mkC wf_keptWords (hm.bit (by decide)) (hu.bit (by decide)) (hu.bit (by decide)) (e := d) ?_ h ?_ ?_ ?_ ?_ ?_ ?_ ?_ ?_ ?_ ?_ ?_ ?_ ?_ ?_ ?_ ?_ ?_  ?_ ?_ ?_ ?_ ?_ ?_ ?_ ?_ ?_ ?_ ?_ ?_ ?_ ?_ ?_ ?_ ?_ ?_ ?_ ?_
  all_goals first | exact Or.inr (hm.bit (by decide)) | exact Or.inl rfl | rfl | exact Imp.refl _ | exact hv | (refine ⟨fun _ _ hq => ?_⟩; first | (simp at hq ⊢; done) | (simp [keptOtp, keptLog, keptFw] at hq ⊢; done) | (simp [keptOtp, keptLog, keptFw] at hq ⊢; simp [hq]; done))

theorem wakeStandby_keeps {m u d0} {d} (hm : Within 7864303 m) (hu : Within 0xffffffffffffffffffffffffffffffffffffffffffffffffffffffffff u) (h : Keeps m u d0 d) :
    Keeps m u d0 (wakeStandby d) := by
  unfold wakeStandby
  repeat' first
    | with_reducible assumption | exact hm.sub (by decide) | exact hu.sub (by decide)
    | (extract_lets +onlyGivenNames y; first | (refine (fun _ => ?_) (?_ : Keeps m u d0 y); clear_value y) | subst y)
    | (with_reducible refine Imp.mk (fun _ _ hq => ?_); first | (simp at hq ⊢; done) | (simp at hq ⊢; simp [hq]; done))
    | with_reducible apply setFlag_keeps fam_RESET_CAUSE_STANDBY_WAKE | with_reducible apply wakeDevice_keeps

theorem opNrst_keeps {m u d0} {d} (hm : Within 16252911 m) (hu : Within 0xffffffffffffffffffffffffffffffffffffffffffffffffffffffffff u) (h : Keeps m u d0 d) :
    Keeps m u d0 (opNrst d) := by
  unfold opNrst
  repeat' first
    | with_reducible assumption | exact hm.sub (by decide) | exact hu.sub (by decide) | subst y
    | (extract_lets +onlyGivenNames y; first | (refine (fun _ => ?_) (?_ : Keeps m u d0 y); clear_value y) | subst y)
    | exact Or.inr (hm.bit (by decide)) | with_reducible exact Or.inl rfl | with_reducible exact Imp.refl _
    | (with_reducible refine Imp.mk (fun _ _ hq => ?_); first | (simp at hq ⊢; done) | (simp at hq ⊢; simp [hq]; done))
    | with_reducible exact Or.inr rfl | with_reducible apply setFlag_keeps fam_RESET_CAUSE_NRST
    | with_reducible apply setFlag_keeps fam_RESET_CAUSE_STANDBY_WAKE | with_reducible apply wakeDevice_keeps
    | with_reducible apply hardReset_keeps | with_reducible apply keeps_ite | simp only [keepsMk_iff]
    | with_reducible apply keeps_mk (hw := by with_reducible rfl)

theorem opNrstRelease_keeps {m u d0} {d} (hm : Within 32 m) (hu : Within 0x0 u) (h : Keeps m u d0 d) :
    Keeps m u d0 (opNrstRelease d) := by
  unfold opNrstRelease
  repeat' first
    | with_reducible assumption | exact hm.sub (by decide) | exact hu.sub (by decide)
    | (extract_lets +onlyGivenNames y; first | (refine (fun _ => ?_) (?_ : Keeps m u d0 y); clear_value y) | subst y)
    | exact Or.inr (hm.bit (by decide)) | with_reducible exact Or.inl rfl | with_reducible exact Imp.refl _
    | with_reducible exact Or.inr rfl | simp only [keepsMk_iff]
    | with_reducible apply keeps_mk (hw := by with_reducible rfl)

theorem opPurlinWdt_keeps {m u d0} {d} (hm : Within 16252927 m) (hu : Within 0xffffffffffffffffffffffffffffffffffffffffffffffffffffffffff u) (h : Keeps m u d0 d) :
    Keeps m u d0 (opPurlinWdt d) := by
  unfold opPurlinWdt
  repeat' first
    | with_reducible assumption | exact hm.sub (by decide) | exact hu.sub (by decide)
    | with_reducible apply watchdogReset_keeps | with_reducible apply advanceTo_keeps | with_reducible apply keeps_ite

theorem opLockstep_keeps {m u d0} {d} (hm : Within 16252903 m) (hu : Within 0xffffffffffffffffffffffffffffffffffffffffffffffffffffffffff u) (h : Keeps m u d0 d) :
    Keeps m u d0 (opLockstep d) := by
  unfold opLockstep
  repeat' first
    | with_reducible assumption | exact hm.sub (by decide) | exact hu.sub (by decide)
    | with_reducible apply watchdogReset_keeps | with_reducible apply keeps_ite

theorem opPllLoss_keeps {m u d0} {d} (hm : Within 97 m) (hu : Within 0x20000000000000000000000000000000000000000000000000000 u) (h : Keeps m u d0 d) :
    Keeps m u d0 (opPllLoss d) := by
  unfold opPllLoss
  repeat' first
    | with_reducible assumption | exact hm.sub (by decide) | exact hu.sub (by decide) | subst y
    | (extract_lets +onlyGivenNames y; first | (refine (fun _ => ?_) (?_ : Keeps m u d0 y); clear_value y) | subst y)
    | exact Or.inr (hm.bit (by decide)) | with_reducible exact Or.inl rfl | with_reducible exact Imp.refl _
    | with_reducible exact Or.inr rfl | with_reducible apply setFlag_keeps fam_CLK_STATUS_PLL_LOCKED
    | with_reducible apply setFlag_keeps fam_CLK_STATUS_PLL_LOSS | with_reducible apply keeperFreeze_keeps
    | with_reducible apply keeps_ite | simp only [keepsMk_iff]
    | with_reducible apply keeps_mk (hw := by with_reducible rfl)

theorem opKeeperTrip_keeps {m u d0} {x0 d} (hm : Within 8033 m) (hu : Within 0x808000000040000000000002c000000000032d884000000000020010 u) (h : Keeps m u d0 d) :
    Keeps m u d0 (opKeeperTrip x0 d) := by
  unfold opKeeperTrip
  repeat' first
    | with_reducible assumption | exact hm.sub (by decide) | exact hu.sub (by decide) | subst y
    | (extract_lets +onlyGivenNames y; first | (refine (fun _ => ?_) (?_ : Keeps m u d0 y); clear_value y) | subst y)
    | exact Or.inr (hm.bit (by decide)) | with_reducible exact Or.inl rfl | with_reducible exact Imp.refl _
    | with_reducible exact Or.inr rfl | with_reducible apply setFlag_keeps fam_RESET_CAUSE_KEEPER_TRIP
    | with_reducible apply assertSso_keeps | with_reducible apply killRails_keeps | with_reducible apply keeps_ite
    | simp only [keepsMk_iff] | with_reducible apply keeps_mk (hw := by with_reducible rfl)

theorem opResetHard_keeps {m u d0} {x0 d} (hm : Within 16252927 m) (hu : Within 0xffffffffffffffffffffffffffffffffffffffffffffffffffffffffff u) (h : Keeps m u d0 d) :
    Keeps m u d0 (opResetHard x0 d) := by
  unfold opResetHard
  repeat' first
    | with_reducible assumption | exact hm.sub (by decide) | exact hu.sub (by decide) | intro _
    | with_reducible apply gated_keeps | with_reducible apply hardReset_keeps | with_reducible apply advanceTo_keeps

theorem softEngine_keeps {m u d0} {x0 d} (hm : Within 1025 m) (hu : Within 0x8088000000000000000000000000000000000000000000000000000000 u) (h : Keeps m u d0 d) :
    Keeps m u d0 (softEngine x0 d) := by
  unfold softEngine
  repeat' first
    | with_reducible assumption | exact hm.sub (by decide) | exact hu.sub (by decide) | subst y
    | (extract_lets +onlyGivenNames y; first | (refine (fun _ => ?_) (?_ : Keeps m u d0 y); clear_value y) | subst y)
    | exact Or.inr (hm.bit (by decide)) | with_reducible exact Or.inl rfl | with_reducible exact Imp.refl _
    | (with_reducible refine Imp.mk (fun _ _ hq => ?_); first | (simp at hq ⊢; done) | (simp at hq ⊢; simp [hq]; done))
    | exact Or.inl (hu.bit (by decide)) | with_reducible apply setW_keeps at_HP_SQ_MODE
    | with_reducible apply setW_keeps at_HP_RING_OVF | simp only [keepsMk_iff]
    | with_reducible apply keeps_mk (hw := by with_reducible rfl)

theorem softEvents_keeps {m u d0} {d} (hm : Within 513 m) (hu : Within 0x3c0000000000000000000000000000000 u) (h : Keeps m u d0 d) :
    Keeps m u d0 (softEvents d) := by
  unfold softEvents
  repeat' first
    | with_reducible assumption | exact hm.sub (by decide) | exact hu.sub (by decide) | intro _ | subst y
    | (extract_lets +onlyGivenNames y; first | (refine (fun _ => ?_) (?_ : Keeps m u d0 y); clear_value y) | subst y)
    | exact Or.inr (hm.bit (by decide)) | with_reducible exact Or.inl rfl | with_reducible exact Imp.refl _
    | (with_reducible refine Imp.mk (fun _ _ hq => ?_); first | (simp at hq ⊢; done) | (simp at hq ⊢; simp [hq]; done))
    | with_reducible exact Or.inr rfl | with_reducible apply setFlag_keeps fam_EVT_CTRL_GDIS
    | with_reducible apply putWord_keeps fam_EVT_LAT_LAT | with_reducible apply putWord_keeps fam_EVT_PEND_N_PEND
    | with_reducible apply putWord_keeps fam_EVT_PEND_F_PEND | with_reducible apply keeps_foldl
    | simp only [keepsMk_iff] | with_reducible apply keeps_mk (hw := by with_reducible rfl)

theorem dropOverrides_keeps {m u d0} {d} (hm : Within 1048577 m) (hu : Within 0x800000000000000000000000000000000000 u) (h : Keeps m u d0 d) :
    Keeps m u d0 (dropOverrides d) := by
  unfold dropOverrides
  dsimp only
  repeat' first
    | with_reducible assumption | exact hm.sub (by decide) | exact hu.sub (by decide)
    | exact Or.inr (hm.bit (by decide)) | with_reducible exact Or.inl rfl | with_reducible exact Imp.refl _
    | (with_reducible refine Imp.mk (fun _ _ hq => ?_); first | (simp at hq ⊢; done) | (simp at hq ⊢; simp [hq]; done))
    | with_reducible exact Or.inr rfl | with_reducible apply setFlag_keeps fam_OTP_STATUS_OVR_ACTIVE
    | simp only [keepsMk_iff] | with_reducible apply keeps_mk (hw := by with_reducible rfl)

theorem softThatch_keeps {m u d0} {d} (hm : Within 14683137 m) (hu : Within 0x1a0000000000000000000000000000000000000000000000000 u) (h : Keeps m u d0 d) :
    Keeps m u d0 (softThatch d) := by
  unfold softThatch
  repeat' first
    | with_reducible assumption | exact hm.sub (by decide) | exact hu.sub (by decide) | subst y
    | (extract_lets +onlyGivenNames y; first | (refine (fun _ => ?_) (?_ : Keeps m u d0 y); clear_value y) | subst y)
    | exact Or.inr (hm.bit (by decide)) | with_reducible exact Or.inl rfl | with_reducible exact Imp.refl _
    | (with_reducible refine Imp.mk (fun _ _ hq => ?_); first | (simp at hq ⊢; done) | (simp at hq ⊢; simp [hq]; done))
    | with_reducible exact Or.inr rfl | with_reducible apply beginTrial_keeps | with_reducible apply putThatch_keeps
    | with_reducible apply acuReset_keeps | with_reducible apply keeps_ite | simp only [keepsMk_iff]
    | with_reducible apply keeps_mk (hw := by with_reducible rfl) | split

theorem loseMessages_keeps {m u d0} {d} (hm : Within 98305 m) (hu : Within 0x800000000000000000000000000000000000000000 u) (h : Keeps m u d0 d) :
    Keeps m u d0 (loseMessages d) := by
  unfold loseMessages
  repeat' first
    | with_reducible assumption | exact hm.sub (by decide) | exact hu.sub (by decide) | subst y
    | (extract_lets +onlyGivenNames y; first | (refine (fun _ => ?_) (?_ : Keeps m u d0 y); clear_value y) | subst y)
    | exact Or.inr (hm.bit (by decide)) | with_reducible exact Or.inl rfl | with_reducible exact Imp.refl _
    | (with_reducible refine Imp.mk (fun _ _ hq => ?_); first | (simp at hq ⊢; done) | (simp at hq ⊢; simp [hq]; done))
    | with_reducible exact Or.inr rfl | with_reducible apply setFld_keeps fam_VLY_STATUS_SWAP
    | with_reducible apply keeps_ite | simp only [keepsMk_iff]
    | with_reducible apply keeps_mk (hw := by with_reducible rfl)

theorem softReset_keeps {m u d0} {x0 d} (hm : Within 15834657 m) (hu : Within 0x80880001a00000008000008003c4000000000000000000000040000010 u) (h : Keeps m u d0 d) :
    Keeps m u d0 (softReset x0 d) := by
  unfold softReset
  repeat' first
    | with_reducible assumption | exact hm.sub (by decide) | exact hu.sub (by decide) | subst y
    | (extract_lets +onlyGivenNames y; first | (refine (fun _ => ?_) (?_ : Keeps m u d0 y); clear_value y) | subst y)
    | exact Or.inr (hm.bit (by decide)) | with_reducible exact Or.inl rfl | with_reducible exact Imp.refl _
    | (with_reducible refine Imp.mk (fun _ _ hq => ?_); first | (simp at hq ⊢; done) | (simp at hq ⊢; simp [hq]; done))
    | with_reducible exact Or.inr rfl | with_reducible apply setFld_keeps fam_ADC_STATUS_LOST
    | with_reducible apply setFld_keeps fam_ADC_STATUS_SUBS | with_reducible apply setFld_keeps fam_BG_ECC_CORRECTED
    | with_reducible apply setFlag_keeps fam_RESET_CAUSE_SOFT_CMD | with_reducible apply softEvents_keeps
    | with_reducible apply softEngine_keeps | with_reducible apply softThatch_keeps
    | with_reducible apply setMark_keeps | with_reducible apply dropOverrides_keeps
    | with_reducible apply loseMessages_keeps | simp only [keepsMk_iff]
    | with_reducible apply keeps_mk (hw := by with_reducible rfl)

theorem opResetSoft_keeps {m u d0} {x0 d} (hm : Within 15834681 m) (hu : Within 0x80880001a00040008000008003c4000000000000000000000040000010 u) (h : Keeps m u d0 d) :
    Keeps m u d0 (opResetSoft x0 d) := by
  unfold opResetSoft
  repeat' first
    | with_reducible assumption | exact hm.sub (by decide) | exact hu.sub (by decide) | intro _
    | with_reducible apply gated_keeps | with_reducible apply softReset_keeps

theorem relatchLevels_keeps {m u d0} {d} (hm : Within 3585 m) (hu : Within 0x800000000040000000000002c0000000000000000000000000000000 u) (h : Keeps m u d0 d) :
    Keeps m u d0 (relatchLevels d) := by
  unfold relatchLevels
  repeat' first
    | with_reducible assumption | exact hm.sub (by decide) | exact hu.sub (by decide) | intro _
    | with_reducible apply raise_keeps | with_reducible apply keeps_foldl

theorem opSoftResetDone_keeps {m u d0} {d} (hm : Within 3641 m) (hu : Within 0x800000000040000000000002c0000000000000000000000000000000 u) (h : Keeps m u d0 d) :
    Keeps m u d0 (opSoftResetDone d) := by
  unfold opSoftResetDone
  repeat' first
    | with_reducible assumption | exact hm.sub (by decide) | exact hu.sub (by decide) | subst y
    | (extract_lets +onlyGivenNames y; first | (refine (fun _ => ?_) (?_ : Keeps m u d0 y); clear_value y) | subst y)
    | exact Or.inr (hm.bit (by decide)) | with_reducible exact Or.inl rfl | with_reducible exact Imp.refl _
    | with_reducible exact Or.inr rfl | with_reducible apply advanceTo_keeps
    | with_reducible apply relatchLevels_keeps | with_reducible apply raise_keeps | with_reducible apply keeps_ite
    | simp only [keepsMk_iff] | with_reducible apply keeps_mk (hw := by with_reducible rfl)

end Sys2Proof.Machine
end

