-- ==== Sys2Proof/Laws/KIdle.lean ====
section
/-! SUPPORT. Every operation of Machine/Idle.lean keeps what it does not change (Laws/Keeps.lean). -/

set_option linter.all false
set_option Elab.async false


namespace Sys2Proof.Machine

theorem idle_keeps {m u d0} {d} (hm : Within 2585 m) (hu : Within 0x4000000000000000000000000000000000000000000000 u) (h : Keeps m u d0 d) :
    Keeps m u d0 (idle d) := by
  unfold idle
  repeat' first
    | with_reducible assumption | exact hm.sub (by decide) | exact hu.sub (by decide)
    | with_reducible apply advanceTo_keeps | with_reducible apply keeps_ite

end Sys2Proof.Machine
end

