-- ==== Sys2Proof/Laws/KBoot.lean ====
section
/-! SUPPORT. Every operation of Machine/Boot.lean keeps what it does not change (Laws/Keeps.lean). -/

set_option linter.all false
set_option Elab.async false


namespace Sys2Proof.Machine

theorem setStage_keeps {m u d0} {x0 d} (hm : Within 1 m) (hu : Within 0x4 u) (h : Keeps m u d0 d) :
    Keeps m u d0 (setStage x0 d) := by
  unfold setStage
  repeat' first
    | with_reducible assumption | exact hm.sub (by decide) | exact hu.sub (by decide)
    | with_reducible apply setFld_keeps fam_MODE_STATUS_BOOT_STAGE

theorem restoreGauge_keeps {m u d0} {d} (hm : Within 134657 m) (hu : Within 0x800000000040000000000002c00005fc000000000000000000000080 u) (h : Keeps m u d0 d) :
    Keeps m u d0 (restoreGauge d) := by
  unfold restoreGauge
  repeat' first
    | with_reducible assumption | exact hm.sub (by decide) | exact hu.sub (by decide) | subst y
    | (extract_lets +onlyGivenNames y; first | (refine (fun _ => ?_) (?_ : Keeps m u d0 y); clear_value y) | subst y)
    | exact Or.inr (hm.bit (by decide)) | with_reducible exact Or.inl rfl | with_reducible exact Imp.refl _
    | with_reducible exact Or.inr rfl | with_reducible apply setFlag_keeps fam_COLD_STATUS_GAUGE_UNANCHORED
    | with_reducible apply setFlag_keeps fam_COLD_STATUS_LEARN_NOMINAL
    | with_reducible apply setFld_keeps fam_GAUGE_FCC_FCC | with_reducible apply setFld_keeps fam_GAUGE_STATUS_ANCHOR
    | with_reducible apply setDq_keeps | with_reducible apply coldGauge_keeps | with_reducible apply raise_keeps
    | with_reducible apply gaugeSums_keeps | with_reducible apply keeps_ite | simp only [keepsMk_iff]
    | with_reducible apply keeps_mk (hw := by with_reducible rfl) | split

theorem judgeRetained_keeps {m u d0} {d} (hm : Within 134657 m) (hu : Within 0x800000000040000000000002c00001fc000000000000000000000080 u) (h : Keeps m u d0 d) :
    Keeps m u d0 (judgeRetained d) := by
  unfold judgeRetained
  repeat' first
    | with_reducible assumption | exact hm.sub (by decide) | exact hu.sub (by decide)
    | with_reducible apply coldGauge_keeps | with_reducible apply raise_keeps | with_reducible apply keeps_ite | split

theorem refreshPurlin_keeps {m u d0} {d} (hm : Within 4194305 m) (hu : Within 0x20000000000000000000000000000000000000000000000000 u) (h : Keeps m u d0 d) :
    Keeps m u d0 (refreshPurlin d) := by
  unfold refreshPurlin
  refine keeps_ite ?_ h
  extract_lets y
  have hy : Keeps m u d0 y := setFlag_keeps fam_TRUST_STATUS_PURLIN_REFRESH (hm.sub (by decide)) (hu.sub (by decide))
    (setBank_keeps (hm.sub (by decide)) (hu.sub (by decide)) h (fun q => bankMem_wf (h.ok q)))
  clear_value y
  simp only [keepsMk_iff]
  apply keeps_mk (hw := by with_reducible rfl) (ho := by rfl) (h := hy)
  all_goals first | with_reducible exact Or.inl rfl | with_reducible exact Or.inr rfl | exact Or.inr (hm.bit (by decide)) | with_reducible exact Imp.refl _ |
    (with_reducible refine Imp.mk (fun q _ hq => ?_); simp only [fwOk_iff] at hq ⊢; exact hq)


theorem loadShadows_keeps {m u d0} {d} (hm : Within 1048577 m) (hu : Within 0x100000000000001000000000000000000000000000000000000 u) (h : Keeps m u d0 d) :
    Keeps m u d0 (loadShadows d) := by
  unfold loadShadows
  dsimp only
  repeat' first
    | with_reducible assumption | exact hm.sub (by decide) | exact hu.sub (by decide) | intro _
    | exact Or.inr (hm.bit (by decide)) | with_reducible exact Or.inl rfl | with_reducible exact Imp.refl _
    | (with_reducible refine Imp.mk (fun _ _ hq => ?_); first | (simp at hq ⊢; done) | (simp at hq ⊢; simp [hq]; done))
    | (with_reducible refine Imp.mk (fun q _ hq => ?_); have r := h.ok q; simp [partsOk_iff] at r hq ⊢; simp [r, hq]; done)
    | (rename_i a ha hb; with_reducible refine Imp.mk (fun q _ _ => ?_); have r := ha.ok q; simp [partsOk_iff] at r ⊢; simp [r]; done)
    | with_reducible exact Or.inr rfl | with_reducible apply putWord_keeps fam_OTP_UID_UID
    | with_reducible apply putCounters_keeps | with_reducible apply imp_shadow | with_reducible apply keeps_ite
    | with_reducible apply keeps_foldl | simp only [keepsMk_iff]
    | with_reducible apply keeps_mk (hw := by with_reducible rfl) | with_reducible rfl | split

theorem restoreEvents_keeps {m u d0} {x0 d} (hm : Within 3609 m) (hu : Within 0x800000000040000000000002c0000000000000000000000000000000 u) (h : Keeps m u d0 d) :
    Keeps m u d0 (restoreEvents x0 d) := by
  unfold restoreEvents
  repeat' first
    | with_reducible assumption | exact hm.sub (by decide) | exact hu.sub (by decide) | intro _ | subst y
    | (extract_lets +onlyGivenNames y; first | (refine (fun _ => ?_) (?_ : Keeps m u d0 y); clear_value y) | subst y)
    | with_reducible apply advanceTo_keeps | with_reducible apply setGrpRec_keeps
    | with_reducible apply recheckGroup_keeps | with_reducible apply raise_keeps | with_reducible apply keeps_ite
    | with_reducible apply keeps_foldl

theorem opPllLock_keeps {m u d0} {x0 d} (hm : Within 5246521 m) (hu : Within 0x800201200040000000010002c0000000000000000000000000000004 u) (h : Keeps m u d0 d) :
    Keeps m u d0 (opPllLock x0 d) := by
  unfold opPllLock
  repeat' first
    | with_reducible assumption | exact hm.sub (by decide) | exact hu.sub (by decide) | subst y
    | (extract_lets +onlyGivenNames y; first | (refine (fun _ => ?_) (?_ : Keeps m u d0 y); clear_value y) | subst y)
    | exact Or.inr (hm.bit (by decide)) | with_reducible exact Or.inl rfl | with_reducible exact Imp.refl _
    | with_reducible exact Or.inr rfl | with_reducible apply setFlag_keeps fam_CLK_STATUS_PLL_LOCKED
    | with_reducible apply setFlag_keeps fam_CLK_STATUS_ALIGN | with_reducible apply setStage_keeps
    | with_reducible apply loadShadows_keeps | with_reducible apply refreshPurlin_keeps
    | with_reducible apply restoreEvents_keeps | with_reducible apply keeps_ite | simp only [keepsMk_iff]
    | with_reducible apply keeps_mk (hw := by with_reducible rfl)

theorem opPurlinHashCheck_keeps {m u d0} {d} (hm : Within 4202337 m) (hu : Within 0x808000400040000800000002c000000000032d884000000000020004 u) (h : Keeps m u d0 d) :
    Keeps m u d0 (opPurlinHashCheck d) := by
  unfold opPurlinHashCheck
  repeat' first
    | with_reducible assumption | exact hm.sub (by decide) | exact hu.sub (by decide) | subst y
    | (extract_lets +onlyGivenNames y; first | (refine (fun _ => ?_) (?_ : Keeps m u d0 y); clear_value y) | subst y)
    | exact Or.inr (hm.bit (by decide)) | with_reducible exact Or.inl rfl | with_reducible exact Imp.refl _
    | (with_reducible refine Imp.mk (fun _ _ hq => ?_); first | (simp at hq ⊢; done) | (simp at hq ⊢; simp [hq]; done))
    | with_reducible exact Or.inr rfl | with_reducible apply setFld_keeps fam_ROOF_COMPAT_OWN_COMPAT
    | with_reducible apply setW_keeps at_FW_VER_PURLIN | with_reducible apply setStage_keeps
    | with_reducible apply assertSso_keeps | with_reducible apply killRails_keeps | with_reducible apply keeps_ite
    | simp only [keepsMk_iff] | with_reducible apply keeps_mk (hw := by with_reducible rfl)

theorem checkDigests_keeps {m u d0} {d} (hm : Within 3585 m) (hu : Within 0x800000000040000000008002c0000000000000000000000000000000 u) (h : Keeps m u d0 d) :
    Keeps m u d0 (checkDigests d) := by
  unfold checkDigests
  repeat' first
    | with_reducible assumption | exact hm.sub (by decide) | exact hu.sub (by decide)
    | (extract_lets +onlyGivenNames y; first | (refine (fun _ => ?_) (?_ : Keeps m u d0 y); clear_value y) | subst y)
    | with_reducible apply setFld_keeps fam_OTP_STATUS_DIGEST_FAIL | with_reducible apply raise_keeps
    | with_reducible apply keeps_ite

theorem checkMarked_keeps {m u d0} {d} (hm : Within 3585 m) (hu : Within 0x800000000040000000008002c0000000000000000000000000000000 u) (h : Keeps m u d0 d) :
    Keeps m u d0 (checkMarked d) := by
  unfold checkMarked
  repeat' first
    | with_reducible assumption | exact hm.sub (by decide) | exact hu.sub (by decide)
    | with_reducible apply setFlag_keeps fam_OTP_STATUS_MARGINAL_SEEN | with_reducible apply raise_keeps
    | with_reducible apply keeps_ite

theorem tellUnlocked_keeps {m u d0} {d} (hm : Within 3585 m) (hu : Within 0x800000000040000000008002c0000000000000000000000000000000 u) (h : Keeps m u d0 d) :
    Keeps m u d0 (tellUnlocked d) := by
  unfold tellUnlocked
  repeat' first
    | with_reducible assumption | exact hm.sub (by decide) | exact hu.sub (by decide) | subst y
    | (extract_lets +onlyGivenNames y; first | (refine (fun _ => ?_) (?_ : Keeps m u d0 y); clear_value y) | subst y)
    | with_reducible apply loadLocks_keeps | with_reducible apply raise_keeps | with_reducible apply keeps_ite

theorem nominalFcc_keeps {m u d0} {d} (hm : Within 3585 m) (hu : Within 0x800000000040000000000002c00001fc000000000000000000000000 u) (h : Keeps m u d0 d) :
    Keeps m u d0 (nominalFcc d) := by
  unfold nominalFcc
  repeat' first
    | with_reducible assumption | exact hm.sub (by decide) | exact hu.sub (by decide)
    | with_reducible apply setFld_keeps fam_GAUGE_FCC_FCC | with_reducible apply gaugeSums_keeps
    | with_reducible apply keeps_ite

theorem stage3_keeps {m u d0} {d} (hm : Within 5508769 m) (hu : Within 0x7fffffffffffffffffffffffffffffffffffffffffffffffffffffffff u) (h : Keeps m u d0 d) :
    Keeps m u d0 (stage3 d) := by
  unfold stage3
  repeat' first
    | with_reducible assumption | exact hm.sub (by decide) | exact hu.sub (by decide)
    | with_reducible apply nominalFcc_keeps | with_reducible apply selectTruss_keeps

theorem linkStart_keeps {m u d0} {d} (hm : Within 36353 m) (hu : Within 0x800000000040000040400002c0000000000000000000000000000000 u) (h : Keeps m u d0 d) :
    Keeps m u d0 (linkStart d) := by
  unfold linkStart
  repeat' first
    | with_reducible assumption | exact hm.sub (by decide) | exact hu.sub (by decide) | subst y
    | (extract_lets +onlyGivenNames y; first | (refine (fun _ => ?_) (?_ : Keeps m u d0 y); clear_value y) | subst y)
    | exact Or.inr (hm.bit (by decide)) | with_reducible exact Or.inl rfl | with_reducible exact Imp.refl _
    | (with_reducible refine Imp.mk (fun _ _ hq => ?_); first | (simp at hq ⊢; done) | (simp at hq ⊢; simp [hq]; done))
    | with_reducible exact Or.inr rfl | with_reducible apply setPart_keeps | with_reducible apply setLink_keeps
    | with_reducible apply keeps_ite | simp only [keepsMk_iff]
    | with_reducible apply keeps_mk (hw := by with_reducible rfl)

theorem latchAgain_keeps {m u d0} {d} (hm : Within 7049127 m) (hu : Within 0x7fffffffffffffffffffffffffffffffffffffffffffffffffffffffff u) (h : Keeps m u d0 d) :
    Keeps m u d0 (latchAgain d) := by
  unfold latchAgain
  repeat' first
    | with_reducible assumption | exact hm.sub (by decide) | exact hu.sub (by decide) | subst y
    | (extract_lets +onlyGivenNames y; first | (refine (fun _ => ?_) (?_ : Keeps m u d0 y); clear_value y) | subst y)
    | exact Or.inr (hm.bit (by decide)) | with_reducible exact Or.inl rfl | with_reducible exact Imp.refl _
    | with_reducible exact Or.inr rfl | with_reducible apply setFld_keeps fam_SEQ_STATUS_SEQ_STATE
    | with_reducible apply enterLatched_keeps | with_reducible apply keeps_ite | simp only [keepsMk_iff]
    | with_reducible apply keeps_mk (hw := by with_reducible rfl)

theorem latchChecks_keeps {m u d0} {d} (hm : Within 7049127 m) (hu : Within 0x7fffffffffffffffffffffffffffffffffffffffffffffffffffffffff u) (h : Keeps m u d0 d) :
    Keeps m u d0 (latchChecks d) := by
  unfold latchChecks
  repeat' first
    | with_reducible assumption | exact hm.sub (by decide) | exact hu.sub (by decide)
    | with_reducible apply enterLatched_keeps | with_reducible apply latchAgain_keeps | with_reducible apply keeps_ite

theorem readyBoot_keeps {m u d0} {d} (hm : Within 3745 m) (hu : Within 0x800000000040000000000002c0000000000000000000000000210000 u) (h : Keeps m u d0 d) :
    Keeps m u d0 (readyBoot d) := by
  unfold readyBoot
  repeat' first
    | with_reducible assumption | exact hm.sub (by decide) | exact hu.sub (by decide)
    | (extract_lets +onlyGivenNames y; first | (refine (fun _ => ?_) (?_ : Keeps m u d0 y); clear_value y) | subst y)
    | exact Or.inr (hm.bit (by decide)) | with_reducible exact Or.inl rfl | with_reducible exact Imp.refl _
    | with_reducible exact Or.inr rfl | with_reducible apply tryStart_keeps | with_reducible apply keeps_ite
    | simp only [keepsMk_iff] | with_reducible apply keeps_mk (hw := by with_reducible rfl)

theorem opRegionsRead_keeps {m u d0} {d} (hm : Within 8359847 m) (hu : Within 0x7fffffffffffffffffffffffffffffffffffffffffffffffffffffffff u) (h : Keeps m u d0 d) :
    Keeps m u d0 (opRegionsRead d) := by
  unfold opRegionsRead
  repeat' first
    | with_reducible assumption | exact hm.sub (by decide) | exact hu.sub (by decide) | subst y
    | (extract_lets +onlyGivenNames y; first | (refine (fun _ => ?_) (?_ : Keeps m u d0 y); clear_value y) | subst y)
    | exact Or.inr (hm.bit (by decide)) | with_reducible exact Or.inl rfl | with_reducible exact Imp.refl _
    | (with_reducible refine Imp.mk (fun _ _ hq => ?_); first | (simp at hq ⊢; done) | (simp at hq ⊢; simp [hq]; done))
    | with_reducible exact Or.inr rfl | with_reducible apply stage3_keeps | with_reducible apply tellUnlocked_keeps
    | with_reducible apply checkMarked_keeps | with_reducible apply checkDigests_keeps
    | with_reducible apply showSlot_keeps | with_reducible apply gutterScan_keeps
    | with_reducible apply linkStart_keeps | with_reducible apply setStage_keeps | with_reducible apply raise_keeps
    | with_reducible apply latchChecks_keeps | with_reducible apply keeps_ite | simp only [keepsMk_iff]
    | with_reducible apply keeps_mk (hw := by with_reducible rfl)

theorem opBootSelftestDone_keeps {m u d0} {x0 d} (hm : Within 7049127 m) (hu : Within 0x7fffffffffffffffffffffffffffffffffffffffffffffffffffffffff u) (h : Keeps m u d0 d) :
    Keeps m u d0 (opBootSelftestDone x0 d) := by
  unfold opBootSelftestDone
  repeat' first
    | with_reducible assumption | exact hm.sub (by decide) | exact hu.sub (by decide) | subst y
    | (extract_lets +onlyGivenNames y; first | (refine (fun _ => ?_) (?_ : Keeps m u d0 y); clear_value y) | subst y)
    | exact Or.inr (hm.bit (by decide)) | with_reducible exact Or.inl rfl | with_reducible exact Imp.refl _
    | with_reducible exact Or.inr rfl | with_reducible apply setStage_keeps | with_reducible apply enterLatched_keeps
    | with_reducible apply keeps_ite | simp only [keepsMk_iff]
    | with_reducible apply keeps_mk (hw := by with_reducible rfl)

theorem startThatch_keeps {m u d0} {x0 d} (hm : Within 6295073 m) (hu : Within 0x800001a04040000000000002c0000000000000000000000000000000 u) (h : Keeps m u d0 d) :
    Keeps m u d0 (startThatch x0 d) := by
  unfold startThatch
  repeat' first
    | with_reducible assumption | exact hm.sub (by decide) | exact hu.sub (by decide) | subst y
    | (extract_lets +onlyGivenNames y; first | (refine (fun _ => ?_) (?_ : Keeps m u d0 y); clear_value y) | subst y)
    | with_reducible apply setW_keeps at_FW_VER_THATCH | with_reducible apply setFld_keeps fam_FW_ARB_IMG_ARB
    | with_reducible apply traceAcuOn_keeps | with_reducible apply putThatch_keeps
    | with_reducible apply sealBank_keeps | with_reducible apply setAbsent_keeps

theorem opThatchVerify_keeps {m u d0} {d} (hm : Within 6295201 m) (hu : Within 0x800021a04040000000000002c0000000000000000000000000210000 u) (h : Keeps m u d0 d) :
    Keeps m u d0 (opThatchVerify d) := by
  unfold opThatchVerify
  repeat' first
    | with_reducible assumption | exact hm.sub (by decide) | exact hu.sub (by decide) | subst y
    | (extract_lets +onlyGivenNames y; first | (refine (fun _ => ?_) (?_ : Keeps m u d0 y); clear_value y) | subst y)
    | with_reducible apply showRecord_keeps | with_reducible apply startThatch_keeps
    | with_reducible apply recordBank_keeps | with_reducible apply setTrial_keeps | with_reducible apply raise_keeps
    | with_reducible apply fwLast_keeps | with_reducible apply readyBoot_keeps | with_reducible apply setAbsent_keeps
    | with_reducible apply keeps_ite

theorem serveWaiting_keeps {m u d0} {d} (hm : Within 8490521 m) (hu : Within 0x800000000040088000000382c00001ec220000000000000020000080 u) (h : Keeps m u d0 d) :
    Keeps m u d0 (serveWaiting d) := by
  unfold serveWaiting
  repeat' first
    | with_reducible assumption | exact hm.sub (by decide) | exact hu.sub (by decide) | intro _
    | with_reducible apply opVlyRequest_keeps | with_reducible apply opVlyEnd_keeps
    | with_reducible apply opRtcTrim_keeps | with_reducible apply keeps_ite | with_reducible apply keeps_foldl

theorem swapDone_keeps {m u d0} {d} (hm : Within 3585 m) (hu : Within 0x800020000040000000000002c0000000000000000000000000000000 u) (h : Keeps m u d0 d) :
    Keeps m u d0 (swapDone d) := by
  unfold swapDone
  repeat' first
    | with_reducible assumption | exact hm.sub (by decide) | exact hu.sub (by decide) | subst y
    | (extract_lets +onlyGivenNames y; first | (refine (fun _ => ?_) (?_ : Keeps m u d0 y); clear_value y) | subst y)
    | with_reducible apply fwLast_keeps | with_reducible apply raise_keeps | with_reducible apply completeAll_keeps
    | with_reducible apply keeps_ite

theorem opThatchReady_keeps {m u d0} {d} (hm : Within 12816057 m) (hu : Within 0x800020200040088100000382c00005fc220000000000000020210084 u) (h : Keeps m u d0 d) :
    Keeps m u d0 (opThatchReady d) := by
  unfold opThatchReady
  repeat' first
    | with_reducible assumption | exact hm.sub (by decide) | exact hu.sub (by decide) | subst y
    | (extract_lets +onlyGivenNames y; first | (refine (fun _ => ?_) (?_ : Keeps m u d0 y); clear_value y) | subst y)
    | exact Or.inr (hm.bit (by decide)) | with_reducible exact Or.inl rfl | with_reducible exact Imp.refl _
    | (with_reducible refine Imp.mk (fun _ _ hq => ?_); first | (simp at hq ⊢; done) | (simp at hq ⊢; simp [hq]; done))
    | with_reducible exact Or.inr rfl | with_reducible apply setFld_keeps fam_ROOF_FLOOR_OWN_FEATURES
    | with_reducible apply putThatch_keeps | with_reducible apply serveWaiting_keeps
    | with_reducible apply swapDone_keeps | with_reducible apply setStage_keeps | with_reducible apply readyBoot_keeps
    | with_reducible apply restoreGauge_keeps | with_reducible apply keeps_ite | simp only [keepsMk_iff]
    | with_reducible apply keeps_mk (hw := by with_reducible rfl)

theorem opBootEntry_keeps {m u d0} {d} (hm : Within 16748455 m) (hu : Within 0x7fffffffffffffffffffffffffffffffffffffffffffffffffffffffff u) (h : Keeps m u d0 d) :
    Keeps m u d0 (opBootEntry d) := by
  unfold opBootEntry
  repeat' first
    | with_reducible assumption | exact hm.sub (by decide) | exact hu.sub (by decide) | subst y
    | (extract_lets +onlyGivenNames y; first | (refine (fun _ => ?_) (?_ : Keeps m u d0 y); clear_value y) | subst y)
    | with_reducible apply setFlag_keeps fam_TRUST_STATUS_THATCH_HELD | with_reducible apply stage3_keeps
    | with_reducible apply tellUnlocked_keeps | with_reducible apply checkDigests_keeps
    | with_reducible apply restoreGauge_keeps | with_reducible apply linkStart_keeps
    | with_reducible apply setLink_keeps | with_reducible apply latchChecks_keeps
    | with_reducible apply setStage_keeps | with_reducible apply putThatch_keeps | with_reducible apply acuReset_keeps
    | with_reducible apply setAbsent_keeps | with_reducible apply readyBoot_keeps | with_reducible apply keeps_ite

theorem resumeFall_keeps {m u d0} {d x1} (hm : Within 3937 m) (hu : Within 0x800000000040000000000002c000000000000d884000000000020000 u) (h : Keeps m u d0 d) :
    Keeps m u d0 (resumeFall d x1) := by
  unfold resumeFall
  repeat' first
    | with_reducible assumption | exact hm.sub (by decide) | exact hu.sub (by decide) | subst y
    | (extract_lets +onlyGivenNames y; first | (refine (fun _ => ?_) (?_ : Keeps m u d0 y); clear_value y) | subst y)
    | with_reducible apply modRail_keeps | with_reducible apply softStop_keeps | with_reducible apply setRstate_keeps
    | with_reducible apply keeps_ite

theorem adoptRail_keeps {m u d0} {d x1} (hm : Within 8392257 m) (hu : Within 0x800000000040000000000002c000000000000d886240100420020000 u) (h : Keeps m u d0 d) :
    Keeps m u d0 (adoptRail d x1) := by
  unfold adoptRail
  repeat' first
    | with_reducible assumption | exact hm.sub (by decide) | exact hu.sub (by decide) | subst y
    | (extract_lets +onlyGivenNames y; first | (refine (fun _ => ?_) (?_ : Keeps m u d0 y); clear_value y) | subst y)
    | with_reducible apply setVcode_keeps | with_reducible apply setFlag_keeps fam_SUP_STATUS_PG
    | with_reducible apply modRail_keeps | with_reducible apply setRstate_keeps
    | with_reducible apply moveReference_keeps | with_reducible apply keeps_ite

theorem resumeHandover_keeps {m u d0} {x0 d x2} (hm : Within 257 m) (hu : Within 0x20080000000000000000 u) (h : Keeps m u d0 d) :
    Keeps m u d0 (resumeHandover x0 d x2) := by
  unfold resumeHandover
  repeat' first
    | with_reducible assumption | exact hm.sub (by decide) | exact hu.sub (by decide) | subst y
    | (extract_lets +onlyGivenNames y; first | (refine (fun _ => ?_) (?_ : Keeps m u d0 y); clear_value y) | subst y)
    | with_reducible apply modClus_keeps | with_reducible apply beginHandover_keeps | with_reducible apply keeps_ite
    | split

theorem adoptIdle_keeps {m u d0} {d} (hm : Within 7049127 m) (hu : Within 0x7fffffffffffffffffffffffffffffffffffffffffffffffffffffffff u) (h : Keeps m u d0 d) :
    Keeps m u d0 (adoptIdle d) := by
  unfold adoptIdle
  repeat' first
    | with_reducible assumption | exact hm.sub (by decide) | exact hu.sub (by decide)
    | with_reducible apply assertSso_keeps | with_reducible apply enterMode_keeps | with_reducible apply keeps_ite

theorem continueFrom_keeps {m u d0} {d} (hm : Within 15437823 m) (hu : Within 0x7fffffffffffffffffffffffffffffffffffffffffffffffffffffffff u) (h : Keeps m u d0 d) :
    Keeps m u d0 (continueFrom d) := by
  unfold continueFrom
  repeat' first
    | with_reducible assumption | exact hm.sub (by decide) | exact hu.sub (by decide)
    | (extract_lets +onlyGivenNames y; first | (refine (fun _ => ?_) (?_ : Keeps m u d0 y); clear_value y) | subst y)
    | with_reducible apply settleMode_keeps | with_reducible apply enterMode_keeps
    | with_reducible apply adoptIdle_keeps | with_reducible apply startDescent_keeps
    | with_reducible apply enterLatched_keeps | with_reducible apply startDescentTo_keeps
    | with_reducible apply assertSso_keeps | with_reducible apply latchAgain_keeps | with_reducible apply keeps_ite
    | split

theorem adoptOutcome_keeps {m u d0} {x0 x1 d} (hm : Within 15437799 m) (hu : Within 0x7fffffffffffffffffffffffffffffffffffffffffffffffffffffffff u) (h : Keeps m u d0 d) :
    Keeps m u d0 (adoptOutcome x0 x1 d) := by
  unfold adoptOutcome
  repeat' first
    | with_reducible assumption | exact hm.sub (by decide) | exact hu.sub (by decide)
    | with_reducible apply enterLatched_keeps | with_reducible apply faultDescent_keeps
    | with_reducible apply latchAgain_keeps | with_reducible apply adoptIdle_keeps
    | with_reducible apply startDescent_keeps | with_reducible apply keeps_ite | split

theorem tellFreeze_keeps {m u d0} {x0 d} (hm : Within 10489345 m) (hu : Within 0x8000000042c0000000000002c0000000000000000000000000000000 u) (h : Keeps m u d0 d) :
    Keeps m u d0 (tellFreeze x0 d) := by
  unfold tellFreeze
  repeat' first
    | with_reducible assumption | exact hm.sub (by decide) | exact hu.sub (by decide) | subst y
    | (extract_lets +onlyGivenNames y; first | (refine (fun _ => ?_) (?_ : Keeps m u d0 y); clear_value y) | subst y)
    | exact Or.inr (hm.bit (by decide)) | with_reducible exact Or.inl rfl | with_reducible exact Imp.refl _
    | (with_reducible refine Imp.mk (fun _ _ hq => ?_); first | (simp at hq ⊢; done) | (simp at hq ⊢; simp [hq]; done))
    | with_reducible exact Or.inr rfl | with_reducible apply copyAfter_keeps | with_reducible apply raise_keeps
    | with_reducible apply gutter_keeps | with_reducible apply keeps_ite | simp only [keepsMk_iff]
    | with_reducible apply keeps_mk (hw := by with_reducible rfl)

theorem tellReset_keeps {m u d0} {d} (hm : Within 3617 m) (hu : Within 0x800000000040000000000002c0000000000000000000000000000000 u) (h : Keeps m u d0 d) :
    Keeps m u d0 (tellReset d) := by
  unfold tellReset
  repeat' first
    | with_reducible assumption | exact hm.sub (by decide) | exact hu.sub (by decide) | subst y
    | (extract_lets +onlyGivenNames y; first | (refine (fun _ => ?_) (?_ : Keeps m u d0 y); clear_value y) | subst y)
    | exact Or.inr (hm.bit (by decide)) | with_reducible exact Or.inl rfl | with_reducible exact Imp.refl _
    | with_reducible exact Or.inr rfl | with_reducible apply raise_keeps | with_reducible apply keeps_ite
    | simp only [keepsMk_iff] | with_reducible apply keeps_mk (hw := by with_reducible rfl)

theorem adoptTrigger_keeps {m u d0} {d} (hm : Within 10485761 m) (hu : Within 0x400000000000000000000000000000000000000000000000 u) (h : Keeps m u d0 d) :
    Keeps m u d0 (adoptTrigger d) := by
  unfold adoptTrigger
  repeat' first
    | with_reducible assumption | exact hm.sub (by decide) | exact hu.sub (by decide)
    | (extract_lets +onlyGivenNames y; first | (refine (fun _ => ?_) (?_ : Keeps m u d0 y); clear_value y) | subst y)
    | with_reducible apply trigIf_keeps | with_reducible apply drawn_keeps

theorem opAdoption_keeps {m u d0} {x0 x1 d} (hm : Within 15699967 m) (hu : Within 0x7fffffffffffffffffffffffffffffffffffffffffffffffffffffffff u) (h : Keeps m u d0 d) :
    Keeps m u d0 (opAdoption x0 x1 d) := by
  unfold opAdoption
  repeat' first
    | with_reducible assumption | exact hm.sub (by decide) | exact hu.sub (by decide) | intro _ | subst y
    | (extract_lets +onlyGivenNames y; first | (refine (fun _ => ?_) (?_ : Keeps m u d0 y); clear_value y) | subst y)
    | exact Or.inr (hm.bit (by decide)) | with_reducible exact Or.inl rfl | with_reducible exact Imp.refl _
    | with_reducible exact Or.inr rfl | with_reducible apply setFld_keeps fam_ADOPT_STATUS_RESULT
    | with_reducible apply setFld_keeps fam_ADOPT_STATUS_ADOPTED_COUNT | with_reducible apply setW_keeps at_ADOPT_FAIL
    | with_reducible apply setFlag_keeps fam_MODE_STATUS_ADOPTING | with_reducible apply restoreGauge_keeps
    | with_reducible apply resumeFall_keeps | with_reducible apply loadFirst_keeps | with_reducible apply gutter_keeps
    | with_reducible apply recheckPgood_keeps | with_reducible apply continueFrom_keeps
    | with_reducible apply resumeHandover_keeps | with_reducible apply adoptRail_keeps
    | with_reducible apply adoptOutcome_keeps | with_reducible apply tellReset_keeps
    | with_reducible apply tellFreeze_keeps | with_reducible apply adoptTrigger_keeps | with_reducible apply keeps_ite
    | with_reducible apply keeps_foldl | simp only [keepsMk_iff]
    | with_reducible apply keeps_mk (hw := by with_reducible rfl) | split

end Sys2Proof.Machine
end

