-- ==== Sys2Proof/Laws/KModes.lean ====
section
/-! SUPPORT. Every operation of Machine/Modes.lean keeps what it does not change (Laws/Keeps.lean). -/

set_option linter.all false
set_option Elab.async false


namespace Sys2Proof.Machine

theorem cancelStart_keeps {m u d0} {d} (hm : Within 3713 m) (hu : Within 0x800000000040000000000002c0000000000000000000000000010000 u) (h : Keeps m u d0 d) :
    Keeps m u d0 (cancelStart d) := by
  unfold cancelStart
  repeat' first
    | with_reducible assumption | exact hm.sub (by decide) | exact hu.sub (by decide) | subst y
    | (extract_lets +onlyGivenNames y; first | (refine (fun _ => ?_) (?_ : Keeps m u d0 y); clear_value y) | subst y)
    | exact Or.inr (hm.bit (by decide)) | with_reducible exact Or.inl rfl | with_reducible exact Imp.refl _
    | with_reducible exact Or.inr rfl | with_reducible apply setFld_keeps fam_SEQ_STATUS_SEQ_STATE
    | with_reducible apply completeAll_keeps | simp only [keepsMk_iff]
    | with_reducible apply keeps_mk (hw := by with_reducible rfl)

theorem enterService_keeps {m u d0} {d} (hm : Within 7049127 m) (hu : Within 0x7fffffffffffffffffffffffffffffffffffffffffffffffffffffffff u) (h : Keeps m u d0 d) :
    Keeps m u d0 (enterService d) := by
  unfold enterService
  repeat' first
    | with_reducible assumption | exact hm.sub (by decide) | exact hu.sub (by decide) | intro _ | subst y
    | (extract_lets +onlyGivenNames y; first | (refine (fun _ => ?_) (?_ : Keeps m u d0 y); clear_value y) | subst y)
    | exact Or.inr (hm.bit (by decide)) | with_reducible exact Or.inl rfl | with_reducible exact Imp.refl _
    | with_reducible exact Or.inr rfl | with_reducible apply enterMode_keeps | with_reducible apply cancelStart_keeps
    | with_reducible apply startService_keeps | with_reducible apply setRstate_keeps | with_reducible apply keeps_ite
    | with_reducible apply keeps_foldl | simp only [keepsMk_iff]
    | with_reducible apply keeps_mk (hw := by with_reducible rfl)

theorem beginRetain_keeps {m u d0} {d} (hm : Within 7049191 m) (hu : Within 0x7fffffffffffffffffffffffffffffffffffffffffffffffffffffffff u) (h : Keeps m u d0 d) :
    Keeps m u d0 (beginRetain d) := by
  unfold beginRetain
  repeat' first
    | with_reducible assumption | exact hm.sub (by decide) | exact hu.sub (by decide) | subst y
    | (extract_lets +onlyGivenNames y; first | (refine (fun _ => ?_) (?_ : Keeps m u d0 y); clear_value y) | subst y)
    | exact Or.inr (hm.bit (by decide)) | with_reducible exact Or.inl rfl | with_reducible exact Imp.refl _
    | (with_reducible refine Imp.mk (fun _ _ hq => ?_); first | (simp at hq ⊢; done) | (simp at hq ⊢; simp [hq]; done))
    | with_reducible exact Or.inr rfl | with_reducible apply startDescent_keeps
    | with_reducible apply placeAnnounce_keeps | with_reducible apply keeps_ite | simp only [keepsMk_iff]
    | with_reducible apply keeps_mk (hw := by with_reducible rfl)

theorem leaveRetain_keeps {m u d0} {x0 d} (hm : Within 7057343 m) (hu : Within 0x7fffffffffffffffffffffffffffffffffffffffffffffffffffffffff u) (h : Keeps m u d0 d) :
    Keeps m u d0 (leaveRetain x0 d) := by
  unfold leaveRetain
  repeat' first
    | with_reducible assumption | exact hm.sub (by decide) | exact hu.sub (by decide) | subst y
    | (extract_lets +onlyGivenNames y; first | (refine (fun _ => ?_) (?_ : Keeps m u d0 y); clear_value y) | subst y)
    | exact Or.inr (hm.bit (by decide)) | with_reducible exact Or.inl rfl | with_reducible exact Imp.refl _
    | (with_reducible refine Imp.mk (fun _ _ hq => ?_); first | (simp at hq ⊢; done) | (simp at hq ⊢; simp [hq]; done))
    | with_reducible exact Or.inr rfl | with_reducible apply setFlag_keeps fam_COLD_STATUS_THERMAL_WARMUP
    | with_reducible apply setFld_keeps fam_SEQ_STATUS_SEQ_STATE | with_reducible apply enterMode_keeps
    | with_reducible apply judgeRetained_keeps | with_reducible apply linkStart_keeps
    | with_reducible apply tryStart_keeps | with_reducible apply restoreEvents_keeps
    | with_reducible apply traceEnable_keeps | with_reducible apply keeps_ite | simp only [keepsMk_iff]
    | with_reducible apply keeps_mk (hw := by with_reducible rfl)

theorem leaveService_keeps {m u d0} {x0 d} (hm : Within 7049191 m) (hu : Within 0x7fffffffffffffffffffffffffffffffffffffffffffffffffffffffff u) (h : Keeps m u d0 d) :
    Keeps m u d0 (leaveService x0 d) := by
  unfold leaveService
  repeat' first
    | with_reducible assumption | exact hm.sub (by decide) | exact hu.sub (by decide) | intro _ | subst y
    | (extract_lets +onlyGivenNames y; first | (refine (fun _ => ?_) (?_ : Keeps m u d0 y); clear_value y) | subst y)
    | exact Or.inr (hm.bit (by decide)) | with_reducible exact Or.inl rfl | with_reducible exact Imp.refl _
    | with_reducible exact Or.inr rfl | with_reducible apply setRstate_keeps | with_reducible apply complete_keeps
    | with_reducible apply enterBoot_keeps | with_reducible apply startDescent_keeps
    | with_reducible apply keepRunning_keeps | with_reducible apply keeps_ite | with_reducible apply keeps_foldl
    | simp only [keepsMk_iff] | with_reducible apply keeps_mk (hw := by with_reducible rfl)

theorem modeSetRun_keeps {m u d0} {x0 d} (hm : Within 7057407 m) (hu : Within 0x7fffffffffffffffffffffffffffffffffffffffffffffffffffffffff u) (h : Keeps m u d0 d) :
    Keeps m u d0 (modeSetRun x0 d) := by
  unfold modeSetRun
  repeat' first
    | with_reducible assumption | exact hm.sub (by decide) | exact hu.sub (by decide) | subst y
    | (extract_lets +onlyGivenNames y; first | (refine (fun _ => ?_) (?_ : Keeps m u d0 y); clear_value y) | subst y)
    | exact Or.inr (hm.bit (by decide)) | with_reducible exact Or.inl rfl | with_reducible exact Imp.refl _
    | with_reducible exact Or.inr rfl | with_reducible apply setFld_keeps fam_RPL_STATUS_RPL_STATE
    | with_reducible apply beginRetain_keeps | with_reducible apply keepRunning_keeps
    | with_reducible apply leaveRetain_keeps | with_reducible apply complete_keeps
    | with_reducible apply enterService_keeps | with_reducible apply beginReplay_keeps
    | with_reducible apply enterMode_keeps | with_reducible apply cancelStart_keeps
    | with_reducible apply leaveService_keeps | with_reducible apply enterBoot_keeps | with_reducible apply keeps_ite
    | simp only [keepsMk_iff] | with_reducible apply keeps_mk (hw := by with_reducible rfl) | split

theorem opModeSet_keeps {m u d0} {x0 d} (hm : Within 7057407 m) (hu : Within 0x7fffffffffffffffffffffffffffffffffffffffffffffffffffffffff u) (h : Keeps m u d0 d) :
    Keeps m u d0 (opModeSet x0 d) := by
  unfold opModeSet
  repeat' first
    | with_reducible assumption | exact hm.sub (by decide) | exact hu.sub (by decide) | intro _
    | with_reducible apply gatedTime_keeps | with_reducible apply modeSetRun_keeps

theorem opSleep_keeps {m u d0} {d} (hm : Within 7049151 m) (hu : Within 0x7fffffffffffffffffffffffffffffffffffffffffffffffffffffffff u) (h : Keeps m u d0 d) :
    Keeps m u d0 (opSleep d) := by
  unfold opSleep
  repeat' first
    | with_reducible assumption | exact hm.sub (by decide) | exact hu.sub (by decide)
    | (extract_lets +onlyGivenNames y; first | (refine (fun _ => ?_) (?_ : Keeps m u d0 y); clear_value y) | subst y)
    | exact Or.inr (hm.bit (by decide)) | with_reducible exact Or.inl rfl | with_reducible exact Imp.refl _
    | with_reducible exact Or.inr rfl | with_reducible apply advanceTo_keeps | with_reducible apply enterMode_keeps
    | with_reducible apply cancelStart_keeps | with_reducible apply keeps_ite | simp only [keepsMk_iff]
    | with_reducible apply keeps_mk (hw := by with_reducible rfl) | split

theorem clearPhases_keeps {m u d0} {d} (hm : Within 1 m) (hu : Within 0x12008c000000000000000 u) (h : Keeps m u d0 d) :
    Keeps m u d0 (clearPhases d) := by
  unfold clearPhases
  repeat' first
    | with_reducible assumption | exact hm.sub (by decide) | exact hu.sub (by decide) | intro _ | subst y
    | (extract_lets +onlyGivenNames y; first | (refine (fun _ => ?_) (?_ : Keeps m u d0 y); clear_value y) | subst y)
    | with_reducible apply setFld_keeps fam_PH_STATUS_STATE
    | with_reducible apply setFld_keeps fam_CL_RSTATUS_PH_DROPPED
    | with_reducible apply setFld_keeps fam_HC_STATUS_PH_DROPPED
    | with_reducible apply setFld_keeps fam_HC_PH_CAUSE_CAUSE | with_reducible apply parkSpare_keeps
    | with_reducible apply readmitPhase_keeps | with_reducible apply keeps_ite | with_reducible apply keeps_foldl

theorem clearRecords_keeps {m u d0} {d} (hm : Within 1 m) (hu : Within 0x2000000012088c000000001010004 u) (h : Keeps m u d0 d) :
    Keeps m u d0 (clearRecords d) := by
  unfold clearRecords
  repeat' first
    | with_reducible assumption | exact hm.sub (by decide) | exact hu.sub (by decide) | intro _ | subst y
    | (extract_lets +onlyGivenNames y; first | (refine (fun _ => ?_) (?_ : Keeps m u d0 y); clear_value y) | subst y)
    | with_reducible apply setFlag_keeps fam_SUP_STATUS_FAULT_LATCH | with_reducible apply setW_keeps at_SUP_FIRST
    | with_reducible apply setFld_keeps fam_SEQ_STATUS_RETRY_CNT
    | with_reducible apply setFlag_keeps fam_TH_STATUS_TH_LATCH
    | with_reducible apply setFlag_keeps fam_MODE_STATUS_LATCH_HELD
    | with_reducible apply setFld_keeps fam_MODE_STATUS_LATCH_CAUSE | with_reducible apply clearPhases_keeps
    | with_reducible apply keeps_foldl

theorem opLatchClear_keeps {m u d0} {x0 d} (hm : Within 7049151 m) (hu : Within 0x7fffffffffffffffffffffffffffffffffffffffffffffffffffffffff u) (h : Keeps m u d0 d) :
    Keeps m u d0 (opLatchClear x0 d) := by
  unfold opLatchClear
  repeat' first
    | with_reducible assumption | exact hm.sub (by decide) | exact hu.sub (by decide) | intro _ | subst y
    | (extract_lets +onlyGivenNames y; first | (refine (fun _ => ?_) (?_ : Keeps m u d0 y); clear_value y) | subst y)
    | exact Or.inr (hm.bit (by decide)) | with_reducible exact Or.inl rfl | with_reducible exact Imp.refl _
    | with_reducible exact Or.inr rfl | with_reducible apply gated_keeps | with_reducible apply clearRecords_keeps
    | with_reducible apply enterBoot_keeps | with_reducible apply complete_keeps | with_reducible apply keeps_ite
    | simp only [keepsMk_iff] | with_reducible apply keeps_mk (hw := by with_reducible rfl)

theorem wake_keeps {m u d0} {x0 d} (hm : Within 16777215 m) (hu : Within 0xffffffffffffffffffffffffffffffffffffffffffffffffffffffffff u) (h : Keeps m u d0 d) :
    Keeps m u d0 (wake x0 d) := by
  unfold wake
  repeat' first
    | with_reducible assumption | exact hm.sub (by decide) | exact hu.sub (by decide)
    | with_reducible apply wakeStandby_keeps | with_reducible apply leaveRetain_keeps
    | with_reducible apply wakeDormant_keeps | with_reducible apply keeps_ite | split

theorem opWakePin_keeps {m u d0} {x0 x1 x2 d} (hm : Within 16777215 m) (hu : Within 0xffffffffffffffffffffffffffffffffffffffffffffffffffffffffff u) (h : Keeps m u d0 d) :
    Keeps m u d0 (opWakePin x0 x1 x2 d) := by
  unfold opWakePin
  repeat' first
    | with_reducible assumption | exact hm.sub (by decide) | exact hu.sub (by decide)
    | with_reducible apply setFlag_keeps fam_WAKE_CFG_WK1_SEEN
    | with_reducible apply setFlag_keeps fam_WAKE_CFG_WK0_SEEN | with_reducible apply wake_keeps
    | with_reducible apply keeps_ite

theorem opVsupWake_keeps {m u d0} {x0 x1 x2 d} (hm : Within 16777215 m) (hu : Within 0xffffffffffffffffffffffffffffffffffffffffffffffffffffffffff u) (h : Keeps m u d0 d) :
    Keeps m u d0 (opVsupWake x0 x1 x2 d) := by
  unfold opVsupWake
  repeat' first
    | with_reducible assumption | exact hm.sub (by decide) | exact hu.sub (by decide)
    | with_reducible apply wake_keeps | with_reducible apply keeps_ite

theorem opVauxWake_keeps {m u d0} {x0 d} (hm : Within 16777215 m) (hu : Within 0xffffffffffffffffffffffffffffffffffffffffffffffffffffffffff u) (h : Keeps m u d0 d) :
    Keeps m u d0 (opVauxWake x0 d) := by
  unfold opVauxWake
  repeat' first
    | with_reducible assumption | exact hm.sub (by decide) | exact hu.sub (by decide)
    | with_reducible apply wake_keeps | with_reducible apply keeps_ite

theorem opAlarm_keeps {m u d0} {x0 x1 d} (hm : Within 16777215 m) (hu : Within 0xffffffffffffffffffffffffffffffffffffffffffffffffffffffffff u) (h : Keeps m u d0 d) :
    Keeps m u d0 (opAlarm x0 x1 d) := by
  unfold opAlarm
  repeat' first
    | with_reducible assumption | exact hm.sub (by decide) | exact hu.sub (by decide) | subst y
    | (extract_lets +onlyGivenNames y; first | (refine (fun _ => ?_) (?_ : Keeps m u d0 y); clear_value y) | subst y)
    | exact Or.inr (hm.bit (by decide)) | with_reducible exact Imp.refl _
    | (with_reducible refine Imp.mk (fun _ _ hq => ?_); first | (simp at hq ⊢; done) | (simp at hq ⊢; simp [hq]; done))
    | with_reducible exact Or.inr rfl | with_reducible apply setFld_keeps fam_RTC_STATUS_ALMF
    | with_reducible apply raise_keeps | with_reducible apply traceEntry_keeps | with_reducible apply wake_keeps
    | with_reducible apply keeps_ite | simp only [keepsMk_iff]
    | with_reducible apply keeps_mk (hw := by with_reducible rfl)

theorem storeStamp_keeps {m u d0} {x0 x1 d} (hm : Within 2625025 m) (hu : Within 0x800000004040000000002002c0000000000000000000000000000000 u) (h : Keeps m u d0 d) :
    Keeps m u d0 (storeStamp x0 x1 d) := by
  unfold storeStamp
  repeat' first
    | with_reducible assumption | exact hm.sub (by decide) | exact hu.sub (by decide) | subst y
    | (extract_lets +onlyGivenNames y; first | (refine (fun _ => ?_) (?_ : Keeps m u d0 y); clear_value y) | subst y)
    | exact Or.inr (hm.bit (by decide)) | with_reducible exact Or.inl rfl | with_reducible exact Imp.refl _
    | (with_reducible refine Imp.mk (fun _ _ hq => ?_); first | (simp at hq ⊢; done) | (simp at hq ⊢; simp [hq]; done))
    | with_reducible exact Or.inr rfl | with_reducible apply setFld_keeps fam_EV_STATUS_OVF
    | with_reducible apply raise_keeps | with_reducible apply traceEntry_keeps | with_reducible apply trigger_keeps
    | with_reducible apply keeps_ite | simp only [keepsMk_iff]
    | with_reducible apply keeps_mk (hw := by with_reducible rfl)

theorem opEvTimestamp_keeps {m u d0} {x0 x1 x2 x3 d} (hm : Within 16777215 m) (hu : Within 0xffffffffffffffffffffffffffffffffffffffffffffffffffffffffff u) (h : Keeps m u d0 d) :
    Keeps m u d0 (opEvTimestamp x0 x1 x2 x3 d) := by
  unfold opEvTimestamp
  repeat' first
    | with_reducible assumption | exact hm.sub (by decide) | exact hu.sub (by decide) | subst y
    | (extract_lets +onlyGivenNames y; first | (refine (fun _ => ?_) (?_ : Keeps m u d0 y); clear_value y) | subst y)
    | with_reducible apply setFld_keeps fam_EV_STATUS_LEVEL | with_reducible apply storeStamp_keeps
    | with_reducible apply wake_keeps | with_reducible apply keeps_ite

end Sys2Proof.Machine
end

