-- ==== Sys2Proof/Laws/KBackground.lean ====
section
/-! SUPPORT. Every operation of Machine/Background.lean keeps what it does not change (Laws/Keeps.lean). -/

set_option linter.all false
set_option Elab.async false


namespace Sys2Proof.Machine

theorem reloadWord_keeps {m u d0} {x0 d} (hm : Within 1 m) (hu : Within 0x7fffffffffffffffffffffffffffffffffffffffffffffffffffffffff u) (h : Keeps m u d0 d) :
    Keeps m u d0 (reloadWord x0 d) := by
  unfold reloadWord
  repeat' first
    | with_reducible assumption | exact hm.sub (by decide) | exact hu.sub (by decide) | intro _
    | with_reducible apply loadWord_keeps | with_reducible apply putMasked_keeps | with_reducible apply keeps_ite
    | with_reducible apply keeps_foldl

theorem discardEntry_keeps {m u d0} {x0 d} (hm : Within 3585 m) (hu : Within 0x4000000000000000000000000000000000000000000000 u) (h : Keeps m u d0 d) :
    Keeps m u d0 (discardEntry x0 d) := by
  unfold discardEntry
  repeat' first
    | with_reducible assumption | exact hm.sub (by decide) | exact hu.sub (by decide)
    | (extract_lets +onlyGivenNames y; first | (refine (fun _ => ?_) (?_ : Keeps m u d0 y); clear_value y) | subst y)
    | exact Or.inr (Or.inr ⟨_, rfl, ⟨1, rfl⟩⟩) | with_reducible apply noteFull_keeps
    | with_reducible apply count_keeps | with_reducible apply setRing_keeps | with_reducible apply keeps_ite

theorem badRing_keeps {m u d0} {x0 x1 d} (hm : Within 36353 m) (hu : Within 0x80800000000040000000000002c0000000000000000000000000000000 u) (h : Keeps m u d0 d) :
    Keeps m u d0 (badRing x0 x1 d) := by
  unfold badRing
  repeat' first
    | with_reducible assumption | exact hm.sub (by decide) | exact hu.sub (by decide) | subst y
    | (extract_lets +onlyGivenNames y; first | (refine (fun _ => ?_) (?_ : Keeps m u d0 y); clear_value y) | subst y)
    | exact Or.inr (hm.bit (by decide)) | with_reducible exact Or.inl rfl | with_reducible exact Imp.refl _
    | (with_reducible refine Imp.mk (fun _ _ hq => ?_); first | (simp at hq ⊢; done) | (simp at hq ⊢; simp [hq]; done))
    | with_reducible exact Or.inr rfl | exact Or.inr (Or.inl (hu.bit (by decide)))
    | with_reducible apply discardEntry_keeps | with_reducible apply emptyQueue_keeps
    | with_reducible apply settleFences_keeps | with_reducible apply setRing_keeps | with_reducible apply keeps_ite
    | simp only [keepsMk_iff] | with_reducible apply keeps_mk (hw := by with_reducible rfl)

theorem reloadShadow_keeps {m u d0} {x0 d} (hm : Within 1052161 m) (hu : Within 0x800000000040000000000002c0000000000000000000000000000000 u) (h : Keeps m u d0 d) :
    Keeps m u d0 (reloadShadow x0 d) := by
  unfold reloadShadow
  dsimp only
  repeat' first
    | with_reducible assumption | exact hm.sub (by decide) | exact hu.sub (by decide)
    | exact Or.inr (hm.bit (by decide)) | with_reducible exact Or.inl rfl | with_reducible exact Imp.refl _
    | (with_reducible refine Imp.mk (fun _ _ hq => ?_); first | (simp at hq ⊢; done) | (simp at hq ⊢; simp [hq]; done))
    | with_reducible exact Or.inr rfl | with_reducible apply raise_keeps | with_reducible apply keeps_ite
    | simp only [keepsMk_iff] | with_reducible apply keeps_mk (hw := by with_reducible rfl)

theorem handleBad_keeps {m u d0} {x0 x1 d} (hm : Within 16252927 m) (hu : Within 0xffffffffffffffffffffffffffffffffffffffffffffffffffffffffff u) (h : Keeps m u d0 d) :
    Keeps m u d0 (handleBad x0 x1 d) := by
  unfold handleBad
  repeat' first
    | with_reducible assumption | exact hm.sub (by decide) | exact hu.sub (by decide)
    | with_reducible apply watchdogReset_keeps | with_reducible apply advanceTo_keeps
    | with_reducible apply restartThatch_keeps | with_reducible apply badRing_keeps
    | with_reducible apply loseEntries_keeps | with_reducible apply reloadWord_keeps
    | with_reducible apply reloadShadow_keeps | with_reducible apply keeps_ite | split

theorem uncorrectable_keeps {m u d0} {x0 x1 d} (hm : Within 16252927 m) (hu : Within 0xffffffffffffffffffffffffffffffffffffffffffffffffffffffffff u) (h : Keeps m u d0 d) :
    Keeps m u d0 (uncorrectable x0 x1 d) := by
  unfold uncorrectable
  repeat' first
    | with_reducible assumption | exact hm.sub (by decide) | exact hu.sub (by decide) | subst y
    | (extract_lets +onlyGivenNames y; first | (refine (fun _ => ?_) (?_ : Keeps m u d0 y); clear_value y) | subst y)
    | with_reducible apply setFld_keeps fam_BG_ECC_LAST_MEM | with_reducible apply setFld_keeps fam_BG_ECC_LAST_WORD
    | with_reducible apply addSat_keeps fam_BG_ECC_UNCORRECTED | with_reducible apply handleBad_keeps
    | with_reducible apply gutter_keeps

theorem copiesDiffer_keeps {m u d0} {x0 d} (hm : Within 16252927 m) (hu : Within 0xffffffffffffffffffffffffffffffffffffffffffffffffffffffffff u) (h : Keeps m u d0 d) :
    Keeps m u d0 (copiesDiffer x0 d) := by
  unfold copiesDiffer
  repeat' first
    | with_reducible assumption | exact hm.sub (by decide) | exact hu.sub (by decide)
    | with_reducible apply watchdogReset_keeps | with_reducible apply advanceTo_keeps | with_reducible apply keeps_ite

theorem opScrubAccess_keeps {m u d0} {x0 x1 x2 x3 x4 d} (hm : Within 16252927 m) (hu : Within 0xffffffffffffffffffffffffffffffffffffffffffffffffffffffffff u) (h : Keeps m u d0 d) :
    Keeps m u d0 (opScrubAccess x0 x1 x2 x3 x4 d) := by
  unfold opScrubAccess
  repeat' first
    | with_reducible assumption | exact hm.sub (by decide) | exact hu.sub (by decide) | subst y
    | (extract_lets +onlyGivenNames y; first | (refine (fun _ => ?_) (?_ : Keeps m u d0 y); clear_value y) | subst y)
    | with_reducible apply addSat_keeps fam_BG_ECC_CORRECTED | with_reducible apply count_keeps
    | with_reducible apply bgBegin_keeps | with_reducible apply bgRan_keeps | with_reducible apply uncorrectable_keeps
    | with_reducible apply copiesDiffer_keeps | with_reducible apply keeps_ite | split

theorem nextTelemetry_keeps {m u d0} {d} (hm : Within 16384 m) (hu : Within 0x0 u) (h : Keeps m u d0 d) :
    Keeps m u d0 (nextTelemetry d) := by
  unfold nextTelemetry
  repeat' first
    | with_reducible assumption | exact hm.sub (by decide) | exact hu.sub (by decide)
    | (extract_lets +onlyGivenNames y; first | (refine (fun _ => ?_) (?_ : Keeps m u d0 y); clear_value y) | subst y)
    | exact Or.inr (hm.bit (by decide)) | with_reducible exact Or.inl rfl | with_reducible exact Imp.refl _
    | (with_reducible refine Imp.mk (fun _ _ hq => ?_); first | (simp at hq ⊢; done) | (simp at hq ⊢; simp [hq]; done))
    | with_reducible exact Or.inr rfl | simp only [keepsMk_iff]
    | with_reducible apply keeps_mk (hw := by with_reducible rfl)

theorem flashTelemetry_keeps {m u d0} {x0 d} (hm : Within 2097152 m) (hu : Within 0x0 u) (h : Keeps m u d0 d) :
    Keeps m u d0 (flashTelemetry x0 d) := by
  unfold flashTelemetry
  repeat' first
    | with_reducible assumption | exact hm.sub (by decide) | exact hu.sub (by decide)
    | (extract_lets +onlyGivenNames y; first | (refine (fun _ => ?_) (?_ : Keeps m u d0 y); clear_value y) | subst y)
    | exact Or.inr (hm.bit (by decide)) | with_reducible exact Or.inl rfl | with_reducible exact Imp.refl _
    | (with_reducible refine Imp.mk (fun _ _ hq => ?_); first | (simp at hq ⊢; done) | (simp at hq ⊢; simp [hq]; done))
    | with_reducible exact Or.inr rfl | with_reducible apply keeps_ite | simp only [keepsMk_iff]
    | with_reducible apply keeps_mk (hw := by with_reducible rfl)

theorem opTelemetryRecord_keeps {m u d0} {d} (hm : Within 10505753 m) (hu : Within 0x800000000040000000000002c0000000000000000000000020000000 u) (h : Keeps m u d0 d) :
    Keeps m u d0 (opTelemetryRecord d) := by
  unfold opTelemetryRecord
  repeat' first
    | (refine (?_ : (_ : Nat) ≠ 12); decide) | with_reducible assumption | exact hm.sub (by decide)
    | exact hu.sub (by decide) | subst y
    | (extract_lets +onlyGivenNames y; first | (refine (fun _ => ?_) (?_ : Keeps m u d0 y); clear_value y) | subst y)
    | with_reducible apply advanceTo_keeps | with_reducible apply bgBegin_keeps
    | with_reducible apply nextTelemetry_keeps | with_reducible apply count_keeps | with_reducible apply drawn_keeps
    | with_reducible apply bgRan_keeps | with_reducible apply ringRecord_keeps
    | with_reducible apply flashTelemetry_keeps | with_reducible apply keeps_ite

theorem readopt_keeps {m u d0} {x0 d} (hm : Within 15437799 m) (hu : Within 0x7fffffffffffffffffffffffffffffffffffffffffffffffffffffffff u) (h : Keeps m u d0 d) :
    Keeps m u d0 (readopt x0 d) := by
  unfold readopt
  repeat' first
    | with_reducible assumption | exact hm.sub (by decide) | exact hu.sub (by decide) | intro _ | subst y
    | (extract_lets +onlyGivenNames y; first | (refine (fun _ => ?_) (?_ : Keeps m u d0 y); clear_value y) | subst y)
    | exact Or.inr (hm.bit (by decide)) | with_reducible exact Or.inl rfl | with_reducible exact Imp.refl _
    | with_reducible exact Or.inr rfl | with_reducible apply setFld_keeps fam_ADOPT_STATUS_KEEPER_MODE
    | with_reducible apply setFld_keeps fam_ADOPT_STATUS_RESULT
    | with_reducible apply setFld_keeps fam_ADOPT_STATUS_ADOPTED_COUNT | with_reducible apply setW_keeps at_ADOPT_FAIL
    | with_reducible apply resumeFall_keeps | with_reducible apply gutter_keeps
    | with_reducible apply recheckPgood_keeps | with_reducible apply adoptRail_keeps
    | with_reducible apply adoptOutcome_keeps | with_reducible apply imp_rails | with_reducible apply keeps_ite
    | with_reducible apply keeps_foldl | simp only [keepsMk_iff]
    | with_reducible apply keeps_mk (hw := by with_reducible rfl)

theorem testedThatch_keeps {m u d0} {d} (hm : Within 14683649 m) (hu : Within 0x800000200040000000000002c0000000000000000000000000000000 u) (h : Keeps m u d0 d) :
    Keeps m u d0 (testedThatch d) := by
  unfold testedThatch
  repeat' first
    | with_reducible assumption | exact hm.sub (by decide) | exact hu.sub (by decide)
    | (extract_lets +onlyGivenNames y; first | (refine (fun _ => ?_) (?_ : Keeps m u d0 y); clear_value y) | subst y)
    | exact Or.inr (hm.bit (by decide)) | with_reducible exact Or.inl rfl | with_reducible exact Imp.refl _
    | (with_reducible refine Imp.mk (fun _ _ hq => ?_); first | (simp at hq ⊢; done) | (simp at hq ⊢; simp [hq]; done))
    | with_reducible exact Or.inr rfl | with_reducible apply raise_keeps | with_reducible apply putThatch_keeps
    | with_reducible apply acuReset_keeps | with_reducible apply keeps_ite | simp only [keepsMk_iff]
    | with_reducible apply keeps_mk (hw := by with_reducible rfl)

theorem logicTest_keeps {m u d0} {x0 d} (hm : Within 15437823 m) (hu : Within 0x7fffffffffffffffffffffffffffffffffffffffffffffffffffffffff u) (h : Keeps m u d0 d) :
    Keeps m u d0 (logicTest x0 d) := by
  unfold logicTest
  repeat' first
    | with_reducible assumption | exact hm.sub (by decide) | exact hu.sub (by decide) | subst y
    | (extract_lets +onlyGivenNames y; first | (refine (fun _ => ?_) (?_ : Keeps m u d0 y); clear_value y) | subst y)
    | with_reducible apply testedThatch_keeps | with_reducible apply advanceTo_keeps
    | with_reducible apply drawn_keeps | with_reducible apply readopt_keeps | with_reducible apply complete_keeps
    | with_reducible apply enterLatched_keeps | with_reducible apply faultDescent_keeps
    | with_reducible apply keeps_ite

theorem otpTest_keeps {m u d0} {x0 d} (hm : Within 9440793 m) (hu : Within 0x800001000040000000018002c0000000000000000000000000000000 u) (h : Keeps m u d0 d) :
    Keeps m u d0 (otpTest x0 d) := by
  unfold otpTest
  repeat' first
    | with_reducible assumption | exact hm.sub (by decide) | exact hu.sub (by decide) | subst y
    | (extract_lets +onlyGivenNames y; first | (refine (fun _ => ?_) (?_ : Keeps m u d0 y); clear_value y) | subst y)
    | with_reducible apply setFlag_keeps fam_OTP_STATUS_OVR_ACTIVE
    | with_reducible apply setFlag_keeps fam_OTP_STATUS_MARGINAL_SEEN | with_reducible apply advanceTo_keeps
    | with_reducible apply drawn_keeps | with_reducible apply checkDigests_keeps | with_reducible apply raise_keeps
    | with_reducible apply loadShadows_keeps | with_reducible apply complete_keeps | with_reducible apply keeps_ite

theorem opSelftest_keeps {m u d0} {x0 d} (hm : Within 16506879 m) (hu : Within 0x7fffffffffffffffffffffffffffffffffffffffffffffffffffffffff u) (h : Keeps m u d0 d) :
    Keeps m u d0 (opSelftest x0 d) := by
  unfold opSelftest
  repeat' first
    | with_reducible assumption | exact hm.sub (by decide) | exact hu.sub (by decide) | intro _ | subst y
    | (extract_lets +onlyGivenNames y; first | (refine (fun _ => ?_) (?_ : Keeps m u d0 y); clear_value y) | subst y)
    | exact Or.inr (hm.bit (by decide)) | with_reducible exact Or.inl rfl | with_reducible exact Imp.refl _
    | (with_reducible refine Imp.mk (fun _ _ hq => ?_); first | (simp at hq ⊢; done) | (simp at hq ⊢; simp [hq]; done))
    | with_reducible exact Or.inr rfl | with_reducible apply setFld_keeps fam_BG_STATUS_ST_ACTIVE
    | with_reducible apply gated_keeps | with_reducible apply logicTest_keeps | with_reducible apply otpTest_keeps
    | with_reducible apply keepRunning_keeps | with_reducible apply beginCalTest_keeps
    | with_reducible apply keeps_ite | simp only [keepsMk_iff]
    | with_reducible apply keeps_mk (hw := by with_reducible rfl)

theorem testLate_keeps {m u d0} {x0 d} (hm : Within 15437823 m) (hu : Within 0x7fffffffffffffffffffffffffffffffffffffffffffffffffffffffff u) (h : Keeps m u d0 d) :
    Keeps m u d0 (testLate x0 d) := by
  unfold testLate
  dsimp only
  repeat' first
    | with_reducible assumption | exact hm.sub (by decide) | exact hu.sub (by decide)
    | with_reducible apply endTest_keeps | with_reducible apply advanceTo_keeps | with_reducible apply judgeTest_keeps
    | with_reducible apply drawn_keeps | with_reducible apply keeps_ite | split

theorem opSelftestTimeout_keeps {m u d0} {d} (hm : Within 15437823 m) (hu : Within 0x7fffffffffffffffffffffffffffffffffffffffffffffffffffffffff u) (h : Keeps m u d0 d) :
    Keeps m u d0 (opSelftestTimeout d) := by
  unfold opSelftestTimeout
  repeat' first
    | with_reducible assumption | exact hm.sub (by decide) | exact hu.sub (by decide)
    | with_reducible apply testLate_keeps | split

end Sys2Proof.Machine
end

