-- ==== Sys2Proof/Laws/KClocks.lean ====
section
/-! SUPPORT. Every operation of Machine/Clocks.lean keeps what it does not change (Laws/Keeps.lean). -/

set_option linter.all false
set_option Elab.async false


namespace Sys2Proof.Machine

theorem takeReference_keeps {m u d0} {d} (hm : Within 1 m) (hu : Within 0x20000000000000000000000000000000000000000000000000000 u) (h : Keeps m u d0 d) :
    Keeps m u d0 (takeReference d) := by
  unfold takeReference
  repeat' first
    | with_reducible assumption | exact hm.sub (by decide) | exact hu.sub (by decide)
    | with_reducible apply setFlag_keeps fam_CLK_STATUS_XTAL_OK
    | with_reducible apply setFld_keeps fam_CLK_STATUS_REF_ACTIVE

theorem opXtalOk_keeps {m u d0} {d} (hm : Within 1 m) (hu : Within 0x20000000000000000000000000000000000000000000000000000 u) (h : Keeps m u d0 d) :
    Keeps m u d0 (opXtalOk d) := by
  unfold opXtalOk
  repeat' first
    | with_reducible assumption | exact hm.sub (by decide) | exact hu.sub (by decide)
    | with_reducible apply takeReference_keeps | with_reducible apply keeps_ite

theorem opRefLost_keeps {m u d0} {d} (hm : Within 3617 m) (hu : Within 0x800200000040000000000002c0000000000000000000000000000000 u) (h : Keeps m u d0 d) :
    Keeps m u d0 (opRefLost d) := by
  unfold opRefLost
  repeat' first
    | with_reducible assumption | exact hm.sub (by decide) | exact hu.sub (by decide) | subst y
    | (extract_lets +onlyGivenNames y; first | (refine (fun _ => ?_) (?_ : Keeps m u d0 y); clear_value y) | subst y)
    | exact Or.inr (hm.bit (by decide)) | with_reducible exact Or.inl rfl | with_reducible exact Imp.refl _
    | with_reducible exact Or.inr rfl | with_reducible apply setFlag_keeps fam_CLK_STATUS_REF_LOST
    | with_reducible apply setFld_keeps fam_CLK_STATUS_REF_ACTIVE
    | with_reducible apply setFlag_keeps fam_CLK_STATUS_XTAL_OK | with_reducible apply raise_keeps
    | with_reducible apply keeps_ite | simp only [keepsMk_iff]
    | with_reducible apply keeps_mk (hw := by with_reducible rfl)

theorem opRefRestored_keeps {m u d0} {d} (hm : Within 3617 m) (hu : Within 0x800200000040000000000002c0000000000000000000000000000000 u) (h : Keeps m u d0 d) :
    Keeps m u d0 (opRefRestored d) := by
  unfold opRefRestored
  repeat' first
    | with_reducible assumption | exact hm.sub (by decide) | exact hu.sub (by decide)
    | (extract_lets +onlyGivenNames y; first | (refine (fun _ => ?_) (?_ : Keeps m u d0 y); clear_value y) | subst y)
    | exact Or.inr (hm.bit (by decide)) | with_reducible exact Or.inl rfl | with_reducible exact Imp.refl _
    | with_reducible exact Or.inr rfl | with_reducible apply raise_keeps | with_reducible apply takeReference_keeps
    | with_reducible apply keeps_ite | simp only [keepsMk_iff]
    | with_reducible apply keeps_mk (hw := by with_reducible rfl)

theorem opLpoFault_keeps {m u d0} {d} (hm : Within 3585 m) (hu : Within 0x800200000040000000000002c0000000000000000000000000000000 u) (h : Keeps m u d0 d) :
    Keeps m u d0 (opLpoFault d) := by
  unfold opLpoFault
  repeat' first
    | with_reducible assumption | exact hm.sub (by decide) | exact hu.sub (by decide)
    | with_reducible apply setFlag_keeps fam_CLK_STATUS_LPO_BAD | with_reducible apply raise_keeps
    | with_reducible apply keeps_ite

theorem opLpoBadClear_keeps {m u d0} {d} (hm : Within 1 m) (hu : Within 0x20000000000000000000000000000000000000000000000000000 u) (h : Keeps m u d0 d) :
    Keeps m u d0 (opLpoBadClear d) := by
  unfold opLpoBadClear
  repeat' first
    | with_reducible assumption | exact hm.sub (by decide) | exact hu.sub (by decide)
    | with_reducible apply setFlag_keeps fam_CLK_STATUS_LPO_BAD | with_reducible apply keeps_ite

end Sys2Proof.Machine
end

