-- ==== Sys2Proof/Laws/KEngine.lean ====
section
/-! SUPPORT. Every operation of Machine/Engine.lean keeps what it does not change (Laws/Keeps.lean). -/

set_option linter.all false
set_option Elab.async false


namespace Sys2Proof.Machine

theorem opNop_keeps {m u d0} {x0 d} (hm : Within 3585 m) (hu : Within 0x800000000040000000000002c0000000000000000000000000000000 u) (h : Keeps m u d0 d) :
    Keeps m u d0 (opNop x0 d) := by
  unfold opNop
  repeat' first
    | with_reducible assumption | exact hm.sub (by decide) | exact hu.sub (by decide)
    | with_reducible apply complete_keeps

theorem opEchoCmd_keeps {m u d0} {x0 d} (hm : Within 3585 m) (hu : Within 0x800000000040000000000002c0000000000000000000000000000000 u) (h : Keeps m u d0 d) :
    Keeps m u d0 (opEchoCmd x0 d) := by
  unfold opEchoCmd
  repeat' first
    | with_reducible assumption | exact hm.sub (by decide) | exact hu.sub (by decide)
    | with_reducible apply complete_keeps

theorem opQueueCfg_keeps {m u d0} {x0 d} (hm : Within 3585 m) (hu : Within 0x800000000040100000000002c0000000000000000000000000000000 u) (h : Keeps m u d0 d) :
    Keeps m u d0 (opQueueCfg x0 d) := by
  unfold opQueueCfg
  repeat' first
    | with_reducible assumption | exact hm.sub (by decide) | exact hu.sub (by decide) | intro _
    | with_reducible apply setW_keeps at_ENG_WEIGHT | with_reducible apply judged_keeps
    | with_reducible apply complete_keeps

theorem flushTags_keeps {m u d0} {x0 d} (hm : Within 1024 m) (hu : Within 0x0 u) (h : Keeps m u d0 d) :
    Keeps m u d0 (flushTags x0 d) := by
  unfold flushTags
  repeat' first
    | with_reducible assumption | exact hm.sub (by decide) | exact hu.sub (by decide) | intro _
    | with_reducible apply setTagMem_keeps | with_reducible apply keeps_foldl

theorem opTagFlush_keeps {m u d0} {x0 d} (hm : Within 3585 m) (hu : Within 0x800000000040000000000002c0000000000000000000000000000000 u) (h : Keeps m u d0 d) :
    Keeps m u d0 (opTagFlush x0 d) := by
  unfold opTagFlush
  repeat' first
    | with_reducible assumption | exact hm.sub (by decide) | exact hu.sub (by decide) | intro _
    | with_reducible apply judged_keeps | with_reducible apply complete_keeps | with_reducible apply flushTags_keeps

theorem lowOp_keeps {m u d0} {x0 x1 d} (hm : Within 16777215 m) (hu : Within 0xffffffffffffffffffffffffffffffffffffffffffffffffffffffffff u) (h : Keeps m u d0 d) :
    Keeps m u d0 (lowOp x0 x1 d) := by
  unfold lowOp
  repeat' first
    | with_reducible assumption | exact hm.sub (by decide) | exact hu.sub (by decide)
    | with_reducible apply opNop_keeps | with_reducible apply opEchoCmd_keeps | with_reducible apply opQueueCfg_keeps
    | with_reducible apply opTagFlush_keeps | with_reducible apply opRegRead_keeps
    | with_reducible apply opRegWrite_keeps | with_reducible apply opRegRmw_keeps
    | with_reducible apply opRegReadBlock_keeps | with_reducible apply opSeqUp_keeps
    | with_reducible apply opSeqDown_keeps | with_reducible apply opRailOn_keeps
    | with_reducible apply opRailOff_keeps | with_reducible apply opRailSetV_keeps
    | with_reducible apply opModeSet_keeps | with_reducible apply opLatchClear_keeps
    | with_reducible apply opResetSoft_keeps | with_reducible apply opResetHard_keeps
    | with_reducible apply opSpareDrill_keeps | with_reducible apply opSelftest_keeps | split

theorem highOp_keeps {m u d0} {x0 x1 d} (hm : Within 16777215 m) (hu : Within 0x7fffffffffffffffffffffffffffffffffffffffffffffffffffffffff u) (h : Keeps m u d0 d) :
    Keeps m u d0 (highOp x0 x1 d) := by
  unfold highOp
  repeat' first
    | with_reducible assumption | exact hm.sub (by decide) | exact hu.sub (by decide)
    | with_reducible apply opChgKick_keeps | with_reducible apply opChgClear_keeps
    | with_reducible apply opRoofQuery_keeps | with_reducible apply opVlyRequest_keeps
    | with_reducible apply opVlyEnd_keeps | with_reducible apply opAdcConvert_keeps
    | with_reducible apply opAdcSubscribe_keeps | with_reducible apply opTempRead_keeps
    | with_reducible apply opEvtAck_keeps | with_reducible apply opEvtGdis_keeps | with_reducible apply opRtcSet_keeps
    | with_reducible apply opRtcGet_keeps | with_reducible apply opRtcTrim_keeps
    | with_reducible apply opOtpRead_keeps | with_reducible apply opOtpShadowWrite_keeps
    | with_reducible apply opOtpProgram_keeps | with_reducible apply opOtpFinalize_keeps
    | with_reducible apply opTrussStage_keeps | with_reducible apply opTrussCommit_keeps
    | with_reducible apply opFwStage_keeps | with_reducible apply opFwActivate_keeps
    | with_reducible apply opWdtKick_keeps | with_reducible apply opTraceTrigger_keeps
    | with_reducible apply opTraceRearm_keeps | with_reducible apply opTraceStream_keeps
    | with_reducible apply opCntSnapshot_keeps | with_reducible apply opCntClear_keeps | split

theorem startCmd_keeps {m u d0} {x0 x1 d} (hm : Within 16777215 m) (hu : Within 0xffffffffffffffffffffffffffffffffffffffffffffffffffffffffff u) (h : Keeps m u d0 d) :
    Keeps m u d0 (startCmd x0 x1 d) := by
  unfold startCmd
  repeat' first
    | with_reducible assumption | exact hm.sub (by decide) | exact hu.sub (by decide)
    | (extract_lets +onlyGivenNames y; first | (refine (fun _ => ?_) (?_ : Keeps m u d0 y); clear_value y) | subst y)
    | with_reducible apply lowOp_keeps | with_reducible apply highOp_keeps | simp only [keepsMk_iff] | split

theorem opPacketStart_keeps {m u d0} {x0 x1 d} (hm : Within 16777215 m) (hu : Within 0xffffffffffffffffffffffffffffffffffffffffffffffffffffffffff u) (h : Keeps m u d0 d) :
    Keeps m u d0 (opPacketStart x0 x1 d) := by
  unfold opPacketStart
  repeat' first
    | with_reducible assumption | exact hm.sub (by decide) | exact hu.sub (by decide)
    | with_reducible apply startCmd_keeps | with_reducible apply keeps_ite | split

theorem opCompletionStall_keeps {m u d0} {d} (hm : Within 3609 m) (hu : Within 0x800000000040000000000002c0000000000000000000000000000000 u) (h : Keeps m u d0 d) :
    Keeps m u d0 (opCompletionStall d) := by
  unfold opCompletionStall
  repeat' first
    | with_reducible assumption | exact hm.sub (by decide) | exact hu.sub (by decide)
    | exact Or.inr (hm.bit (by decide)) | with_reducible exact Or.inl rfl | with_reducible exact Imp.refl _
    | (with_reducible refine Imp.mk (fun _ _ hq => ?_); first | (simp at hq ⊢; done) | (simp at hq ⊢; simp [hq]; done))
    | with_reducible exact Or.inr rfl | with_reducible apply advanceTo_keeps | with_reducible apply raise_keeps
    | with_reducible apply keeps_ite | simp only [keepsMk_iff]
    | with_reducible apply keeps_mk (hw := by with_reducible rfl) | split

theorem opThatchWaitTimeout_keeps {m u d0} {d} (hm : Within 3609 m) (hu : Within 0x800000000040000000000002c0000000000000000000000000000000 u) (h : Keeps m u d0 d) :
    Keeps m u d0 (opThatchWaitTimeout d) := by
  unfold opThatchWaitTimeout
  repeat' first
    | with_reducible assumption | exact hm.sub (by decide) | exact hu.sub (by decide)
    | with_reducible apply complete_keeps | with_reducible apply advanceTo_keeps | simp only [keepsMk_iff] | split

end Sys2Proof.Machine
end

