-- ==== Sys2Proof/Laws/Rows.lean ====
section
/-! SUPPORT. What each command can change of the block (Laws/Keeps.lean), one lemma for each row of the table. -/

set_option linter.all false
set_option Elab.async false


namespace Sys2Proof.Machine

/-- The row `i` answers a next state with its queue kept, and only the parts of the set `m` and the words in the tables of the set `u`
change. -/
def RowKeeps (m u : Nat) (i : Instr) (s : State) : Prop := ∃ d, exec i s = .next { s with dev := d } ∧ Keeps m u s.dev d

theorem keeps_nop (rq s) : RowKeeps 3585 0x800000000040000000000002c0000000000000000000000000000000 (.nop rq) s := by
  refine ⟨_, rfl, ?_⟩
  have hm := Within.refl 3585
  have hu := Within.refl 0x800000000040000000000002c0000000000000000000000000000000
  have h := Keeps.refl 3585 0x800000000040000000000002c0000000000000000000000000000000 s.dev
  repeat' first
    | with_reducible assumption | exact hm.sub (by decide) | exact hu.sub (by decide) | intro _
    | with_reducible apply runRow_keeps | with_reducible apply opNop_keeps | with_reducible apply keeps_ite | split

theorem keeps_fence (rq s) : RowKeeps 3585 0x800000000040000000000002c0000000000000000000000000000000 (.fence rq) s := by
  refine ⟨_, rfl, ?_⟩
  have hm := Within.refl 3585
  have hu := Within.refl 0x800000000040000000000002c0000000000000000000000000000000
  have h := Keeps.refl 3585 0x800000000040000000000002c0000000000000000000000000000000 s.dev
  repeat' first
    | with_reducible assumption | exact hm.sub (by decide) | exact hu.sub (by decide) | intro _
    | with_reducible apply runRow_keeps | with_reducible apply opFence_keeps | with_reducible apply keeps_ite | split

theorem keeps_fenceAll (rq s) : RowKeeps 3585 0x800000000040000000000002c0000000000000000000000000000000 (.fenceAll rq) s := by
  refine ⟨_, rfl, ?_⟩
  have hm := Within.refl 3585
  have hu := Within.refl 0x800000000040000000000002c0000000000000000000000000000000
  have h := Keeps.refl 3585 0x800000000040000000000002c0000000000000000000000000000000 s.dev
  repeat' first
    | with_reducible assumption | exact hm.sub (by decide) | exact hu.sub (by decide) | intro _
    | with_reducible apply runRow_keeps | with_reducible apply opFenceAll_keeps | with_reducible apply keeps_ite | split

theorem keeps_echo (rq p0 p1 s) : RowKeeps 3585 0x800000000040000000000002c0000000000000000000000000000000 (.echo rq p0 p1) s := by
  refine ⟨_, rfl, ?_⟩
  have hm := Within.refl 3585
  have hu := Within.refl 0x800000000040000000000002c0000000000000000000000000000000
  have h := Keeps.refl 3585 0x800000000040000000000002c0000000000000000000000000000000 s.dev
  repeat' first
    | with_reducible assumption | exact hm.sub (by decide) | exact hu.sub (by decide) | intro _
    | with_reducible apply runRow_keeps | with_reducible apply opEchoCmd_keeps | with_reducible apply keeps_ite | split

theorem keeps_queueCfg (rq p0 s) : RowKeeps 3585 0x800000000040100000000002c0000000000000000000000000000000 (.queueCfg rq p0) s := by
  refine ⟨_, rfl, ?_⟩
  have hm := Within.refl 3585
  have hu := Within.refl 0x800000000040100000000002c0000000000000000000000000000000
  have h := Keeps.refl 3585 0x800000000040100000000002c0000000000000000000000000000000 s.dev
  repeat' first
    | with_reducible assumption | exact hm.sub (by decide) | exact hu.sub (by decide) | intro _
    | with_reducible apply runRow_keeps | with_reducible apply opQueueCfg_keeps | with_reducible apply keeps_ite | split

theorem keeps_tagFlush (rq p0 s) : RowKeeps 3585 0x800000000040000000000002c0000000000000000000000000000000 (.tagFlush rq p0) s := by
  refine ⟨_, rfl, ?_⟩
  have hm := Within.refl 3585
  have hu := Within.refl 0x800000000040000000000002c0000000000000000000000000000000
  have h := Keeps.refl 3585 0x800000000040000000000002c0000000000000000000000000000000 s.dev
  repeat' first
    | with_reducible assumption | exact hm.sub (by decide) | exact hu.sub (by decide) | intro _
    | with_reducible apply runRow_keeps | with_reducible apply opTagFlush_keeps | with_reducible apply keeps_ite | split

theorem keeps_regRead (rq p0 s) : RowKeeps 8949249 0x800000000040000000000002c0000000000000000000000000000000 (.regRead rq p0) s := by
  refine ⟨_, rfl, ?_⟩
  have hm := Within.refl 8949249
  have hu := Within.refl 0x800000000040000000000002c0000000000000000000000000000000
  have h := Keeps.refl 8949249 0x800000000040000000000002c0000000000000000000000000000000 s.dev
  repeat' first
    | with_reducible assumption | exact hm.sub (by decide) | exact hu.sub (by decide) | intro _
    | with_reducible apply runRow_keeps | with_reducible apply opRegRead_keeps | with_reducible apply keeps_ite | split

theorem keeps_regWrite (rq p0 p1 s) : RowKeeps 15728639 0x7fffffffffffffffffffffffffffffffffffffffffffffffffffffffff (.regWrite rq p0 p1) s := by
  refine ⟨_, rfl, ?_⟩
  have hm := Within.refl 15728639
  have hu := Within.refl 0x7fffffffffffffffffffffffffffffffffffffffffffffffffffffffff
  have h := Keeps.refl 15728639 0x7fffffffffffffffffffffffffffffffffffffffffffffffffffffffff s.dev
  repeat' first
    | with_reducible assumption | exact hm.sub (by decide) | exact hu.sub (by decide) | intro _
    | with_reducible apply runRow_keeps | with_reducible apply opRegWrite_keeps | with_reducible apply keeps_ite | split

theorem keeps_regRmw (rq p0 p1 p2 s) : RowKeeps 15728639 0x7fffffffffffffffffffffffffffffffffffffffffffffffffffffffff (.regRmw rq p0 p1 p2) s := by
  refine ⟨_, rfl, ?_⟩
  have hm := Within.refl 15728639
  have hu := Within.refl 0x7fffffffffffffffffffffffffffffffffffffffffffffffffffffffff
  have h := Keeps.refl 15728639 0x7fffffffffffffffffffffffffffffffffffffffffffffffffffffffff s.dev
  repeat' first
    | with_reducible assumption | exact hm.sub (by decide) | exact hu.sub (by decide) | intro _
    | with_reducible apply runRow_keeps | with_reducible apply opRegRmw_keeps | with_reducible apply keeps_ite | split

theorem keeps_regReadBlock (rq p0 s) : RowKeeps 8949249 0x800000000040000000000002c0000000000000000000000000000000 (.regReadBlock rq p0) s := by
  refine ⟨_, rfl, ?_⟩
  have hm := Within.refl 8949249
  have hu := Within.refl 0x800000000040000000000002c0000000000000000000000000000000
  have h := Keeps.refl 8949249 0x800000000040000000000002c0000000000000000000000000000000 s.dev
  repeat' first
    | with_reducible assumption | exact hm.sub (by decide) | exact hu.sub (by decide) | intro _
    | with_reducible apply runRow_keeps | with_reducible apply opRegReadBlock_keeps | with_reducible apply keeps_ite | split

theorem keeps_seqUp (rq s) : RowKeeps 36505 0x800000000040000000000002c0000000000000000000000000210000 (.seqUp rq) s := by
  refine ⟨_, rfl, ?_⟩
  have hm := Within.refl 36505
  have hu := Within.refl 0x800000000040000000000002c0000000000000000000000000210000
  have h := Keeps.refl 36505 0x800000000040000000000002c0000000000000000000000000210000 s.dev
  repeat' first
    | with_reducible assumption | exact hm.sub (by decide) | exact hu.sub (by decide) | intro _
    | with_reducible apply runRow_keeps | with_reducible apply opSeqUp_keeps | with_reducible apply keeps_ite | split

theorem keeps_seqDown (rq s) : RowKeeps 7049215 0x7fffffffffffffffffffffffffffffffffffffffffffffffffffffffff (.seqDown rq) s := by
  refine ⟨_, rfl, ?_⟩
  have hm := Within.refl 7049215
  have hu := Within.refl 0x7fffffffffffffffffffffffffffffffffffffffffffffffffffffffff
  have h := Keeps.refl 7049215 0x7fffffffffffffffffffffffffffffffffffffffffffffffffffffffff s.dev
  repeat' first
    | with_reducible assumption | exact hm.sub (by decide) | exact hu.sub (by decide) | intro _
    | with_reducible apply runRow_keeps | with_reducible apply opSeqDown_keeps | with_reducible apply keeps_ite | split

theorem keeps_railOn (rq p0 s) : RowKeeps 36441 0x800000000040000000000002c000000000012d08c000000000020000 (.railOn rq p0) s := by
  refine ⟨_, rfl, ?_⟩
  have hm := Within.refl 36441
  have hu := Within.refl 0x800000000040000000000002c000000000012d08c000000000020000
  have h := Keeps.refl 36441 0x800000000040000000000002c000000000012d08c000000000020000 s.dev
  repeat' first
    | with_reducible assumption | exact hm.sub (by decide) | exact hu.sub (by decide) | intro _
    | with_reducible apply runRow_keeps | with_reducible apply opRailOn_keeps | with_reducible apply keeps_ite | split

theorem keeps_railOff (rq p0 s) : RowKeeps 36729 0x800000000040000000000002c000000000000d884000000000020000 (.railOff rq p0) s := by
  refine ⟨_, rfl, ?_⟩
  have hm := Within.refl 36729
  have hu := Within.refl 0x800000000040000000000002c000000000000d884000000000020000
  have h := Keeps.refl 36729 0x800000000040000000000002c000000000000d884000000000020000 s.dev
  repeat' first
    | with_reducible assumption | exact hm.sub (by decide) | exact hu.sub (by decide) | intro _
    | with_reducible apply runRow_keeps | with_reducible apply opRailOff_keeps | with_reducible apply keeps_ite | split

theorem keeps_railSetV (rq p0 s) : RowKeeps 8392257 0x800000000040000000000002c000000000000d086240100420000000 (.railSetV rq p0) s := by
  refine ⟨_, rfl, ?_⟩
  have hm := Within.refl 8392257
  have hu := Within.refl 0x800000000040000000000002c000000000000d086240100420000000
  have h := Keeps.refl 8392257 0x800000000040000000000002c000000000000d086240100420000000 s.dev
  repeat' first
    | with_reducible assumption | exact hm.sub (by decide) | exact hu.sub (by decide) | intro _
    | with_reducible apply runRow_keeps | with_reducible apply opRailSetV_keeps | with_reducible apply keeps_ite | split

theorem keeps_modeSet (rq p0 s) : RowKeeps 7057407 0x7fffffffffffffffffffffffffffffffffffffffffffffffffffffffff (.modeSet rq p0) s := by
  refine ⟨_, rfl, ?_⟩
  have hm := Within.refl 7057407
  have hu := Within.refl 0x7fffffffffffffffffffffffffffffffffffffffffffffffffffffffff
  have h := Keeps.refl 7057407 0x7fffffffffffffffffffffffffffffffffffffffffffffffffffffffff s.dev
  repeat' first
    | with_reducible assumption | exact hm.sub (by decide) | exact hu.sub (by decide) | intro _
    | with_reducible apply runRow_keeps | with_reducible apply opModeSet_keeps | with_reducible apply keeps_ite | split

theorem keeps_latchClear (rq s) : RowKeeps 7049151 0x7fffffffffffffffffffffffffffffffffffffffffffffffffffffffff (.latchClear rq) s := by
  refine ⟨_, rfl, ?_⟩
  have hm := Within.refl 7049151
  have hu := Within.refl 0x7fffffffffffffffffffffffffffffffffffffffffffffffffffffffff
  have h := Keeps.refl 7049151 0x7fffffffffffffffffffffffffffffffffffffffffffffffffffffffff s.dev
  repeat' first
    | with_reducible assumption | exact hm.sub (by decide) | exact hu.sub (by decide) | intro _
    | with_reducible apply runRow_keeps | with_reducible apply opLatchClear_keeps | with_reducible apply keeps_ite | split

theorem keeps_resetSoft (rq p0 s) : RowKeeps 15834681 0x80880001a00040008000008003c4000000000000000000000040000010 (.resetSoft rq p0) s := by
  refine ⟨_, rfl, ?_⟩
  have hm := Within.refl 15834681
  have hu := Within.refl 0x80880001a00040008000008003c4000000000000000000000040000010
  have h := Keeps.refl 15834681 0x80880001a00040008000008003c4000000000000000000000040000010 s.dev
  repeat' first
    | with_reducible assumption | exact hm.sub (by decide) | exact hu.sub (by decide) | intro _
    | with_reducible apply runRow_keeps | with_reducible apply opResetSoft_keeps | with_reducible apply keeps_ite | split

theorem keeps_resetHard (rq p0 s) : RowKeeps 16252927 0xffffffffffffffffffffffffffffffffffffffffffffffffffffffffff (.resetHard rq p0) s := by
  refine ⟨_, rfl, ?_⟩
  have hm := Within.refl 16252927
  have hu := Within.refl 0xffffffffffffffffffffffffffffffffffffffffffffffffffffffffff
  have h := Keeps.refl 16252927 0xffffffffffffffffffffffffffffffffffffffffffffffffffffffffff s.dev
  repeat' first
    | with_reducible assumption | exact hm.sub (by decide) | exact hu.sub (by decide) | intro _
    | with_reducible apply runRow_keeps | with_reducible apply opResetHard_keeps | with_reducible apply keeps_ite | split

theorem keeps_spareDrill (rq p0 s) : RowKeeps 3865 0x800000000040000000000002c0000000000120080000000000000000 (.spareDrill rq p0) s := by
  refine ⟨_, rfl, ?_⟩
  have hm := Within.refl 3865
  have hu := Within.refl 0x800000000040000000000002c0000000000120080000000000000000
  have h := Keeps.refl 3865 0x800000000040000000000002c0000000000120080000000000000000 s.dev
  repeat' first
    | with_reducible assumption | exact hm.sub (by decide) | exact hu.sub (by decide) | intro _
    | with_reducible apply runRow_keeps | with_reducible apply opSpareDrill_keeps | with_reducible apply keeps_ite | split

theorem keeps_selftest (rq p0 failed samples s) : RowKeeps 16506879 0x7fffffffffffffffffffffffffffffffffffffffffffffffffffffffff (.selftest rq p0 failed samples) s := by
  refine ⟨_, rfl, ?_⟩
  have hm := Within.refl 16506879
  have hu := Within.refl 0x7fffffffffffffffffffffffffffffffffffffffffffffffffffffffff
  have h := Keeps.refl 16506879 0x7fffffffffffffffffffffffffffffffffffffffffffffffffffffffff s.dev
  repeat' first
    | with_reducible assumption | exact hm.sub (by decide) | exact hu.sub (by decide) | intro _
    | with_reducible apply runRow_keeps | with_reducible apply opSelftest_keeps | with_reducible apply keeps_ite | split

theorem keeps_chgKick (rq s) : RowKeeps 265729 0x800000000040000000000002c0000000000000000000000000000000 (.chgKick rq) s := by
  refine ⟨_, rfl, ?_⟩
  have hm := Within.refl 265729
  have hu := Within.refl 0x800000000040000000000002c0000000000000000000000000000000
  have h := Keeps.refl 265729 0x800000000040000000000002c0000000000000000000000000000000 s.dev
  repeat' first
    | with_reducible assumption | exact hm.sub (by decide) | exact hu.sub (by decide) | intro _
    | with_reducible apply runRow_keeps | with_reducible apply opChgKick_keeps | with_reducible apply keeps_ite | split

theorem keeps_chgClear (rq s) : RowKeeps 265753 0x800000000040000000000002c0000000360000000000000000000000 (.chgClear rq) s := by
  refine ⟨_, rfl, ?_⟩
  have hm := Within.refl 265753
  have hu := Within.refl 0x800000000040000000000002c0000000360000000000000000000000
  have h := Keeps.refl 265753 0x800000000040000000000002c0000000360000000000000000000000 s.dev
  repeat' first
    | with_reducible assumption | exact hm.sub (by decide) | exact hu.sub (by decide) | intro _
    | with_reducible apply runRow_keeps | with_reducible apply opChgClear_keeps | with_reducible apply keeps_ite | split

theorem keeps_roofQuery (rq s) : RowKeeps 3585 0x800000000040000000000002c0000000000000000000000000000000 (.roofQuery rq) s := by
  refine ⟨_, rfl, ?_⟩
  have hm := Within.refl 3585
  have hu := Within.refl 0x800000000040000000000002c0000000000000000000000000000000
  have h := Keeps.refl 3585 0x800000000040000000000002c0000000000000000000000000000000 s.dev
  repeat' first
    | with_reducible assumption | exact hm.sub (by decide) | exact hu.sub (by decide) | intro _
    | with_reducible apply runRow_keeps | with_reducible apply opRoofQuery_keeps | with_reducible apply keeps_ite | split

theorem keeps_vlyRequest (rq p0 p1 dst cn s) : RowKeeps 101913 0x800000000040000000000002c0000000000000000000000000000000 (.vlyRequest rq p0 p1 dst cn) s := by
  refine ⟨_, rfl, ?_⟩
  have hm := Within.refl 101913
  have hu := Within.refl 0x800000000040000000000002c0000000000000000000000000000000
  have h := Keeps.refl 101913 0x800000000040000000000002c0000000000000000000000000000000 s.dev
  repeat' first
    | with_reducible assumption | exact hm.sub (by decide) | exact hu.sub (by decide) | intro _
    | with_reducible apply runRow_keeps | with_reducible apply opVlyRequest_keeps | with_reducible apply keeps_ite | split

theorem keeps_vlyEnd (rq s) : RowKeeps 101913 0x800000000040088000000002c00001ec220000000000000000000000 (.vlyEnd rq) s := by
  refine ⟨_, rfl, ?_⟩
  have hm := Within.refl 101913
  have hu := Within.refl 0x800000000040088000000002c00001ec220000000000000000000000
  have h := Keeps.refl 101913 0x800000000040088000000002c00001ec220000000000000000000000 s.dev
  repeat' first
    | with_reducible assumption | exact hm.sub (by decide) | exact hu.sub (by decide) | intro _
    | with_reducible apply runRow_keeps | with_reducible apply opVlyEnd_keeps | with_reducible apply keeps_ite | split

theorem keeps_adcConvert (rq p0 s) : RowKeeps 3585 0x800000000040000000000002c0000000000000000000000000000000 (.adcConvert rq p0) s := by
  refine ⟨_, rfl, ?_⟩
  have hm := Within.refl 3585
  have hu := Within.refl 0x800000000040000000000002c0000000000000000000000000000000
  have h := Keeps.refl 3585 0x800000000040000000000002c0000000000000000000000000000000 s.dev
  repeat' first
    | with_reducible assumption | exact hm.sub (by decide) | exact hu.sub (by decide) | intro _
    | with_reducible apply runRow_keeps | with_reducible apply opAdcConvert_keeps | with_reducible apply keeps_ite | split

theorem keeps_adcSubscribe (rq params s) : RowKeeps 7681 0x800000000040000000000002c4000000000000000000000000000000 (.adcSubscribe rq params) s := by
  refine ⟨_, rfl, ?_⟩
  have hm := Within.refl 7681
  have hu := Within.refl 0x800000000040000000000002c4000000000000000000000000000000
  have h := Keeps.refl 7681 0x800000000040000000000002c4000000000000000000000000000000 s.dev
  repeat' first
    | with_reducible assumption | exact hm.sub (by decide) | exact hu.sub (by decide) | intro _
    | with_reducible apply runRow_keeps | with_reducible apply opAdcSubscribe_keeps | with_reducible apply keeps_ite | split

theorem keeps_tempRead (rq p0 s) : RowKeeps 3585 0x800000000040000000000002c0000000000000000000000000000000 (.tempRead rq p0) s := by
  refine ⟨_, rfl, ?_⟩
  have hm := Within.refl 3585
  have hu := Within.refl 0x800000000040000000000002c0000000000000000000000000000000
  have h := Keeps.refl 3585 0x800000000040000000000002c0000000000000000000000000000000 s.dev
  repeat' first
    | with_reducible assumption | exact hm.sub (by decide) | exact hu.sub (by decide) | intro _
    | with_reducible apply runRow_keeps | with_reducible apply opTempRead_keeps | with_reducible apply keeps_ite | split

theorem keeps_evtAck (rq p0 p1 s) : RowKeeps 3585 0x800000000040000000000002c0000000000000000000000000000000 (.evtAck rq p0 p1) s := by
  refine ⟨_, rfl, ?_⟩
  have hm := Within.refl 3585
  have hu := Within.refl 0x800000000040000000000002c0000000000000000000000000000000
  have h := Keeps.refl 3585 0x800000000040000000000002c0000000000000000000000000000000 s.dev
  repeat' first
    | with_reducible assumption | exact hm.sub (by decide) | exact hu.sub (by decide) | intro _
    | with_reducible apply runRow_keeps | with_reducible apply opEvtAck_keeps | with_reducible apply keeps_ite | split

theorem keeps_evtGdis (rq p0 s) : RowKeeps 3585 0x800000000040000000000003c0000000000000000000000000000000 (.evtGdis rq p0) s := by
  refine ⟨_, rfl, ?_⟩
  have hm := Within.refl 3585
  have hu := Within.refl 0x800000000040000000000003c0000000000000000000000000000000
  have h := Keeps.refl 3585 0x800000000040000000000003c0000000000000000000000000000000 s.dev
  repeat' first
    | with_reducible assumption | exact hm.sub (by decide) | exact hu.sub (by decide) | intro _
    | with_reducible apply runRow_keeps | with_reducible apply opEvtGdis_keeps | with_reducible apply keeps_ite | split

theorem keeps_rtcSet (rq p0 p1 edge s) : RowKeeps 3609 0x80000000004000000000027ac0000000000000000000000000000000 (.rtcSet rq p0 p1 edge) s := by
  refine ⟨_, rfl, ?_⟩
  have hm := Within.refl 3609
  have hu := Within.refl 0x80000000004000000000027ac0000000000000000000000000000000
  have h := Keeps.refl 3609 0x80000000004000000000027ac0000000000000000000000000000000 s.dev
  repeat' first
    | with_reducible assumption | exact hm.sub (by decide) | exact hu.sub (by decide) | intro _
    | with_reducible apply runRow_keeps | with_reducible apply opRtcSet_keeps | with_reducible apply keeps_ite | split

theorem keeps_rtcGet (rq late s) : RowKeeps 3585 0x800000000040000000000002c0000000000000000000000000000000 (.rtcGet rq late) s := by
  refine ⟨_, rfl, ?_⟩
  have hm := Within.refl 3585
  have hu := Within.refl 0x800000000040000000000002c0000000000000000000000000000000
  have h := Keeps.refl 3585 0x800000000040000000000002c0000000000000000000000000000000 s.dev
  repeat' first
    | with_reducible assumption | exact hm.sub (by decide) | exact hu.sub (by decide) | intro _
    | with_reducible apply runRow_keeps | with_reducible apply opRtcGet_keeps | with_reducible apply keeps_ite | split

theorem keeps_rtcTrim (rq p0 s) : RowKeeps 8392217 0x800000000040000000000382c0000000000000000000000020000080 (.rtcTrim rq p0) s := by
  refine ⟨_, rfl, ?_⟩
  have hm := Within.refl 8392217
  have hu := Within.refl 0x800000000040000000000382c0000000000000000000000020000080
  have h := Keeps.refl 8392217 0x800000000040000000000382c0000000000000000000000020000080 s.dev
  repeat' first
    | with_reducible assumption | exact hm.sub (by decide) | exact hu.sub (by decide) | intro _
    | with_reducible apply runRow_keeps | with_reducible apply opRtcTrim_keeps | with_reducible apply keeps_ite | split

theorem keeps_otpRead (rq p0 s) : RowKeeps 5246489 0x800001200040000000008002c0000000000000000000000000000000 (.otpRead rq p0) s := by
  refine ⟨_, rfl, ?_⟩
  have hm := Within.refl 5246489
  have hu := Within.refl 0x800001200040000000008002c0000000000000000000000000000000
  have h := Keeps.refl 5246489 0x800001200040000000008002c0000000000000000000000000000000 s.dev
  repeat' first
    | with_reducible assumption | exact hm.sub (by decide) | exact hu.sub (by decide) | intro _
    | with_reducible apply runRow_keeps | with_reducible apply opOtpRead_keeps | with_reducible apply keeps_ite | split

theorem keeps_otpShadowWrite (rq p0 p1 p2 s) : RowKeeps 1052185 0x800000000040000000008002c0000000000000000000000000000000 (.otpShadowWrite rq p0 p1 p2) s := by
  refine ⟨_, rfl, ?_⟩
  have hm := Within.refl 1052185
  have hu := Within.refl 0x800000000040000000008002c0000000000000000000000000000000
  have h := Keeps.refl 1052185 0x800000000040000000008002c0000000000000000000000000000000 s.dev
  repeat' first
    | with_reducible assumption | exact hm.sub (by decide) | exact hu.sub (by decide) | intro _
    | with_reducible apply runRow_keeps | with_reducible apply opOtpShadowWrite_keeps | with_reducible apply keeps_ite | split

theorem keeps_otpProgram (rq p0 p1 p2 vpre hot s) : RowKeeps 5246489 0x800001200040000000008002c0000000000000000000000000000000 (.otpProgram rq p0 p1 p2 vpre hot) s := by
  refine ⟨_, rfl, ?_⟩
  have hm := Within.refl 5246489
  have hu := Within.refl 0x800001200040000000008002c0000000000000000000000000000000
  have h := Keeps.refl 5246489 0x800001200040000000008002c0000000000000000000000000000000 s.dev
  repeat' first
    | with_reducible assumption | exact hm.sub (by decide) | exact hu.sub (by decide) | intro _
    | with_reducible apply runRow_keeps | with_reducible apply opOtpProgram_keeps | with_reducible apply keeps_ite | split

theorem keeps_otpFinalize (rq p0 vpre hot s) : RowKeeps 5246489 0x800001200040000000008002c0000000000000000000000000000000 (.otpFinalize rq p0 vpre hot) s := by
  refine ⟨_, rfl, ?_⟩
  have hm := Within.refl 5246489
  have hu := Within.refl 0x800001200040000000008002c0000000000000000000000000000000
  have h := Keeps.refl 5246489 0x800001200040000000008002c0000000000000000000000000000000 s.dev
  repeat' first
    | with_reducible assumption | exact hm.sub (by decide) | exact hu.sub (by decide) | intro _
    | with_reducible apply runRow_keeps | with_reducible apply opOtpFinalize_keeps | with_reducible apply keeps_ite | split

theorem keeps_trussStage (rq p0 data s) : RowKeeps 1052161 0x800000000040000000020002c0000000000000000000000000000000 (.trussStage rq p0 data) s := by
  refine ⟨_, rfl, ?_⟩
  have hm := Within.refl 1052161
  have hu := Within.refl 0x800000000040000000020002c0000000000000000000000000000000
  have h := Keeps.refl 1052161 0x800000000040000000020002c0000000000000000000000000000000 s.dev
  repeat' first
    | with_reducible assumption | exact hm.sub (by decide) | exact hu.sub (by decide) | intro _
    | with_reducible apply runRow_keeps | with_reducible apply opTrussStage_keeps | with_reducible apply keeps_ite | split

theorem keeps_trussCommit (rq s) : RowKeeps 9440793 0x800000000040000000020002c0000000000000000000000000000000 (.trussCommit rq) s := by
  refine ⟨_, rfl, ?_⟩
  have hm := Within.refl 9440793
  have hu := Within.refl 0x800000000040000000020002c0000000000000000000000000000000
  have h := Keeps.refl 9440793 0x800000000040000000020002c0000000000000000000000000000000 s.dev
  repeat' first
    | with_reducible assumption | exact hm.sub (by decide) | exact hu.sub (by decide) | intro _
    | with_reducible apply runRow_keeps | with_reducible apply opTrussCommit_keeps | with_reducible apply keeps_ite | split

theorem keeps_fwStage (rq p0 data s) : RowKeeps 4197889 0x800000000040000000000002c0000000000000000000000000000000 (.fwStage rq p0 data) s := by
  refine ⟨_, rfl, ?_⟩
  have hm := Within.refl 4197889
  have hu := Within.refl 0x800000000040000000000002c0000000000000000000000000000000
  have h := Keeps.refl 4197889 0x800000000040000000000002c0000000000000000000000000000000 s.dev
  repeat' first
    | with_reducible assumption | exact hm.sub (by decide) | exact hu.sub (by decide) | intro _
    | with_reducible apply runRow_keeps | with_reducible apply opFwStage_keeps | with_reducible apply keeps_ite | split

theorem keeps_fwActivate (rq p0 vpre hot s) : RowKeeps 13635129 0x800021a00040000000008002c0000000000000000000000000000000 (.fwActivate rq p0 vpre hot) s := by
  refine ⟨_, rfl, ?_⟩
  have hm := Within.refl 13635129
  have hu := Within.refl 0x800021a00040000000008002c0000000000000000000000000000000
  have h := Keeps.refl 13635129 0x800021a00040000000008002c0000000000000000000000000000000 s.dev
  repeat' first
    | with_reducible assumption | exact hm.sub (by decide) | exact hu.sub (by decide) | intro _
    | with_reducible apply runRow_keeps | with_reducible apply opFwActivate_keeps | with_reducible apply keeps_ite | split

theorem keeps_wdtKick (rq s) : RowKeeps 15728639 0x7fffffffffffffffffffffffffffffffffffffffffffffffffffffffff (.wdtKick rq) s := by
  refine ⟨_, rfl, ?_⟩
  have hm := Within.refl 15728639
  have hu := Within.refl 0x7fffffffffffffffffffffffffffffffffffffffffffffffffffffffff
  have h := Keeps.refl 15728639 0x7fffffffffffffffffffffffffffffffffffffffffffffffffffffffff s.dev
  repeat' first
    | with_reducible assumption | exact hm.sub (by decide) | exact hu.sub (by decide) | intro _
    | with_reducible apply runRow_keeps | with_reducible apply opWdtKick_keeps | with_reducible apply keeps_ite | split

theorem keeps_traceTrigger (rq p0 s) : RowKeeps 10489369 0x80000000c2c0000000000002c0000000000000000000000000000000 (.traceTrigger rq p0) s := by
  refine ⟨_, rfl, ?_⟩
  have hm := Within.refl 10489369
  have hu := Within.refl 0x80000000c2c0000000000002c0000000000000000000000000000000
  have h := Keeps.refl 10489369 0x80000000c2c0000000000002c0000000000000000000000000000000 s.dev
  repeat' first
    | with_reducible assumption | exact hm.sub (by decide) | exact hu.sub (by decide) | intro _
    | with_reducible apply runRow_keeps | with_reducible apply opTraceTrigger_keeps | with_reducible apply keeps_ite | split

theorem keeps_traceRearm (rq s) : RowKeeps 2100737 0x800000004040000000000002c0000000000000000000000000000000 (.traceRearm rq) s := by
  refine ⟨_, rfl, ?_⟩
  have hm := Within.refl 2100737
  have hu := Within.refl 0x800000004040000000000002c0000000000000000000000000000000
  have h := Keeps.refl 2100737 0x800000004040000000000002c0000000000000000000000000000000 s.dev
  repeat' first
    | with_reducible assumption | exact hm.sub (by decide) | exact hu.sub (by decide) | intro _
    | with_reducible apply runRow_keeps | with_reducible apply opTraceRearm_keeps | with_reducible apply keeps_ite | split

theorem keeps_traceStream (rq p0 s) : RowKeeps 2100737 0x800000000040000000000002c0000000000000000000000000000000 (.traceStream rq p0) s := by
  refine ⟨_, rfl, ?_⟩
  have hm := Within.refl 2100737
  have hu := Within.refl 0x800000000040000000000002c0000000000000000000000000000000
  have h := Keeps.refl 2100737 0x800000000040000000000002c0000000000000000000000000000000 s.dev
  repeat' first
    | with_reducible assumption | exact hm.sub (by decide) | exact hu.sub (by decide) | intro _
    | with_reducible apply runRow_keeps | with_reducible apply opTraceStream_keeps | with_reducible apply keeps_ite | split

theorem keeps_cntSnapshot (rq s) : RowKeeps 8392193 0x800000000060000000000002c0000000000000000000000000000000 (.cntSnapshot rq) s := by
  refine ⟨_, rfl, ?_⟩
  have hm := Within.refl 8392193
  have hu := Within.refl 0x800000000060000000000002c0000000000000000000000000000000
  have h := Keeps.refl 8392193 0x800000000060000000000002c0000000000000000000000000000000 s.dev
  repeat' first
    | with_reducible assumption | exact hm.sub (by decide) | exact hu.sub (by decide) | intro _
    | with_reducible apply runRow_keeps | with_reducible apply opCntSnapshot_keeps | with_reducible apply keeps_ite | split

theorem keeps_cntClear (rq p0 p1 s) : RowKeeps 3585 0x800000000040000000000002c0000000000000000000000000000000 (.cntClear rq p0 p1) s := by
  refine ⟨_, rfl, ?_⟩
  have hm := Within.refl 3585
  have hu := Within.refl 0x800000000040000000000002c0000000000000000000000000000000
  have h := Keeps.refl 3585 0x800000000040000000000002c0000000000000000000000000000000 s.dev
  repeat' first
    | with_reducible assumption | exact hm.sub (by decide) | exact hu.sub (by decide) | intro _
    | with_reducible apply runRow_keeps | with_reducible apply opCntClear_keeps | with_reducible apply keeps_ite | split

theorem keeps_hostPageRead (tx s) : RowKeeps 3585 0x800000000040200000000002c0000000000000000000000000000000 (.hostPageRead tx) s := by
  refine ⟨_, rfl, ?_⟩
  have hm := Within.refl 3585
  have hu := Within.refl 0x800000000040200000000002c0000000000000000000000000000000
  have h := Keeps.refl 3585 0x800000000040200000000002c0000000000000000000000000000000 s.dev
  repeat' first
    | with_reducible assumption | exact hm.sub (by decide) | exact hu.sub (by decide) | intro _
    | with_reducible apply opHostRead_keeps | with_reducible apply keeps_ite | split

theorem keeps_hostPageWrite (tx s) : RowKeeps 2100737 0x880000000040200000000002c0000000000000000000000000000000 (.hostPageWrite tx) s := by
  refine ⟨_, rfl, ?_⟩
  have hm := Within.refl 2100737
  have hu := Within.refl 0x880000000040200000000002c0000000000000000000000000000000
  have h := Keeps.refl 2100737 0x880000000040200000000002c0000000000000000000000000000000 s.dev
  repeat' first
    | with_reducible assumption | exact hm.sub (by decide) | exact hu.sub (by decide) | intro _
    | with_reducible apply opHostWrite_keeps | with_reducible apply keeps_ite | split

theorem keeps_push (tx s) : RowKeeps 2100737 0x800000000040200000000002c0000000000000000000000000000000 (.push tx) s := by
  refine ⟨_, rfl, ?_⟩
  have hm := Within.refl 2100737
  have hu := Within.refl 0x800000000040200000000002c0000000000000000000000000000000
  have h := Keeps.refl 2100737 0x800000000040200000000002c0000000000000000000000000000000 s.dev
  repeat' first
    | with_reducible assumption | exact hm.sub (by decide) | exact hu.sub (by decide) | intro _
    | with_reducible apply opPush_keeps | with_reducible apply keeps_ite | split

theorem keeps_pop (tx s) : RowKeeps 3585 0x80800000000040200000000002c0000000000000000000000000000000 (.pop tx) s := by
  refine ⟨_, rfl, ?_⟩
  have hm := Within.refl 3585
  have hu := Within.refl 0x80800000000040200000000002c0000000000000000000000000000000
  have h := Keeps.refl 3585 0x80800000000040200000000002c0000000000000000000000000000000 s.dev
  repeat' first
    | with_reducible assumption | exact hm.sub (by decide) | exact hu.sub (by decide) | intro _
    | with_reducible apply opPop_keeps | with_reducible apply keeps_ite | split

theorem keeps_hpDoorbell (v s) : RowKeeps 2098176 0x0 (.hpDoorbell v) s := by
  refine ⟨_, rfl, ?_⟩
  have hm := Within.refl 2098176
  have hu := Within.refl 0x0
  have h := Keeps.refl 2098176 0x0 s.dev
  repeat' first
    | with_reducible assumption | exact hm.sub (by decide) | exact hu.sub (by decide) | intro _
    | with_reducible apply opDoorbell_keeps | with_reducible apply traceWrite_keeps | with_reducible apply keeps_ite | split

theorem keeps_hpSqMode (v s) : RowKeeps 2098177 0x8000000000000000000000000000000000000000000000000000000 (.hpSqMode v) s := by
  refine ⟨_, rfl, ?_⟩
  have hm := Within.refl 2098177
  have hu := Within.refl 0x8000000000000000000000000000000000000000000000000000000
  have h := Keeps.refl 2098177 0x8000000000000000000000000000000000000000000000000000000 s.dev
  repeat' first
    | with_reducible assumption | exact hm.sub (by decide) | exact hu.sub (by decide) | intro _
    | with_reducible apply opSqMode_keeps | with_reducible apply traceWrite_keeps | with_reducible apply keeps_ite | split

theorem keeps_rngPtr (r v s) : RowKeeps 2098176 0x0 (.rngPtr r v) s := by
  refine ⟨_, rfl, ?_⟩
  have hm := Within.refl 2098176
  have hu := Within.refl 0x0
  have h := Keeps.refl 2098176 0x0 s.dev
  repeat' first
    | with_reducible assumption | exact hm.sub (by decide) | exact hu.sub (by decide) | intro _
    | with_reducible apply putRd_keeps | with_reducible apply traceWrite_keeps | with_reducible apply keeps_ite | split

theorem keeps_evtFpend (s) : RowKeeps 512 0x0 .evtFpend s := by
  refine ⟨_, rfl, ?_⟩
  have hm := Within.refl 512
  have hu := Within.refl 0x0
  have h := Keeps.refl 512 0x0 s.dev
  repeat' first
    | with_reducible assumption | exact hm.sub (by decide) | exact hu.sub (by decide) | intro _
    | with_reducible apply readFpend_keeps | with_reducible apply keeps_ite | split

theorem keeps_evtFack (v s) : RowKeeps 2100737 0x800000000040000000000002c0000000000000000000000000000000 (.evtFack v) s := by
  refine ⟨_, rfl, ?_⟩
  have hm := Within.refl 2100737
  have hu := Within.refl 0x800000000040000000000002c0000000000000000000000000000000
  have h := Keeps.refl 2100737 0x800000000040000000000002c0000000000000000000000000000000 s.dev
  repeat' first
    | with_reducible assumption | exact hm.sub (by decide) | exact hu.sub (by decide) | intro _
    | with_reducible apply opFack_keeps | with_reducible apply traceWrite_keeps | with_reducible apply keeps_ite | split

theorem keeps_forget (rq s) : RowKeeps 15728639 0x7fffffffffffffffffffffffffffffffffffffffffffffffffffffffff (.forget rq) s := by
  refine ⟨_, rfl, ?_⟩
  have hm := Within.refl 15728639
  have hu := Within.refl 0x7fffffffffffffffffffffffffffffffffffffffffffffffffffffffff
  have h := Keeps.refl 15728639 0x7fffffffffffffffffffffffffffffffffffffffffffffffffffffffff s.dev
  repeat' first
    | with_reducible assumption | exact hm.sub (by decide) | exact hu.sub (by decide) | intro _
    | with_reducible apply writeRow_keeps | with_reducible apply keeps_ite | split

theorem keeps_endReq (rq s) : RowKeeps 15728639 0x7fffffffffffffffffffffffffffffffffffffffffffffffffffffffff (.endReq rq) s := by
  refine ⟨_, rfl, ?_⟩
  have hm := Within.refl 15728639
  have hu := Within.refl 0x7fffffffffffffffffffffffffffffffffffffffffffffffffffffffff
  have h := Keeps.refl 15728639 0x7fffffffffffffffffffffffffffffffffffffffffffffffffffffffff s.dev
  repeat' first
    | with_reducible assumption | exact hm.sub (by decide) | exact hu.sub (by decide) | intro _
    | with_reducible apply writeRow_keeps | with_reducible apply keeps_ite | split

theorem keeps_gutSel (rq v s) : RowKeeps 15728639 0x7fffffffffffffffffffffffffffffffffffffffffffffffffffffffff (.gutSel rq v) s := by
  refine ⟨_, rfl, ?_⟩
  have hm := Within.refl 15728639
  have hu := Within.refl 0x7fffffffffffffffffffffffffffffffffffffffffffffffffffffffff
  have h := Keeps.refl 15728639 0x7fffffffffffffffffffffffffffffffffffffffffffffffffffffffff s.dev
  repeat' first
    | with_reducible assumption | exact hm.sub (by decide) | exact hu.sub (by decide) | intro _
    | with_reducible apply writeRow_keeps | with_reducible apply keeps_ite | split

theorem keeps_capFree (rq v s) : RowKeeps 15728639 0x7fffffffffffffffffffffffffffffffffffffffffffffffffffffffff (.capFree rq v) s := by
  refine ⟨_, rfl, ?_⟩
  have hm := Within.refl 15728639
  have hu := Within.refl 0x7fffffffffffffffffffffffffffffffffffffffffffffffffffffffff
  have h := Keeps.refl 15728639 0x7fffffffffffffffffffffffffffffffffffffffffffffffffffffffff s.dev
  repeat' first
    | with_reducible assumption | exact hm.sub (by decide) | exact hu.sub (by decide) | intro _
    | with_reducible apply writeRow_keeps | with_reducible apply keeps_ite | split

theorem keeps_hostHold (rq v s) : RowKeeps 15728639 0x7fffffffffffffffffffffffffffffffffffffffffffffffffffffffff (.hostHold rq v) s := by
  refine ⟨_, rfl, ?_⟩
  have hm := Within.refl 15728639
  have hu := Within.refl 0x7fffffffffffffffffffffffffffffffffffffffffffffffffffffffff
  have h := Keeps.refl 15728639 0x7fffffffffffffffffffffffffffffffffffffffffffffffffffffffff s.dev
  repeat' first
    | with_reducible assumption | exact hm.sub (by decide) | exact hu.sub (by decide) | intro _
    | with_reducible apply writeRow_keeps | with_reducible apply keeps_ite | split

theorem keeps_faultLatch (rq n s) : RowKeeps 15728639 0x7fffffffffffffffffffffffffffffffffffffffffffffffffffffffff (.faultLatch rq n) s := by
  refine ⟨_, rfl, ?_⟩
  have hm := Within.refl 15728639
  have hu := Within.refl 0x7fffffffffffffffffffffffffffffffffffffffffffffffffffffffff
  have h := Keeps.refl 15728639 0x7fffffffffffffffffffffffffffffffffffffffffffffffffffffffff s.dev
  repeat' first
    | with_reducible assumption | exact hm.sub (by decide) | exact hu.sub (by decide) | intro _
    | with_reducible apply writeRow_keeps | with_reducible apply keeps_ite | split

theorem keeps_rtcTime (rq v s) : RowKeeps 15728639 0x7fffffffffffffffffffffffffffffffffffffffffffffffffffffffff (.rtcTime rq v) s := by
  refine ⟨_, rfl, ?_⟩
  have hm := Within.refl 15728639
  have hu := Within.refl 0x7fffffffffffffffffffffffffffffffffffffffffffffffffffffffff
  have h := Keeps.refl 15728639 0x7fffffffffffffffffffffffffffffffffffffffffffffffffffffffff s.dev
  repeat' first
    | with_reducible assumption | exact hm.sub (by decide) | exact hu.sub (by decide) | intro _
    | with_reducible apply writeRow_keeps | with_reducible apply keeps_ite | split

theorem keeps_rtcDate (rq v s) : RowKeeps 15728639 0x7fffffffffffffffffffffffffffffffffffffffffffffffffffffffff (.rtcDate rq v) s := by
  refine ⟨_, rfl, ?_⟩
  have hm := Within.refl 15728639
  have hu := Within.refl 0x7fffffffffffffffffffffffffffffffffffffffffffffffffffffffff
  have h := Keeps.refl 15728639 0x7fffffffffffffffffffffffffffffffffffffffffffffffffffffffff s.dev
  repeat' first
    | with_reducible assumption | exact hm.sub (by decide) | exact hu.sub (by decide) | intro _
    | with_reducible apply writeRow_keeps | with_reducible apply keeps_ite | split

theorem keeps_evTs (rq x s) : RowKeeps 8949249 0x800000000040000000000002c0000000000000000000000000000000 (.evTs rq x) s := by
  refine ⟨_, rfl, ?_⟩
  have hm := Within.refl 8949249
  have hu := Within.refl 0x800000000040000000000002c0000000000000000000000000000000
  have h := Keeps.refl 8949249 0x800000000040000000000002c0000000000000000000000000000000 s.dev
  repeat' first
    | with_reducible assumption | exact hm.sub (by decide) | exact hu.sub (by decide) | intro _
    | with_reducible apply readRow_keeps | with_reducible apply keeps_ite | split

theorem keeps_lnkFn (rq s) : RowKeeps 8949249 0x800000000040000000000002c0000000000000000000000000000000 (.lnkFn rq) s := by
  refine ⟨_, rfl, ?_⟩
  have hm := Within.refl 8949249
  have hu := Within.refl 0x800000000040000000000002c0000000000000000000000000000000
  have h := Keeps.refl 8949249 0x800000000040000000000002c0000000000000000000000000000000 s.dev
  repeat' first
    | with_reducible assumption | exact hm.sub (by decide) | exact hu.sub (by decide) | intro _
    | with_reducible apply readRow_keeps | with_reducible apply keeps_ite | split

theorem keeps_pcVal (rq k s) : RowKeeps 8949249 0x800000000040000000000002c0000000000000000000000000000000 (.pcVal rq k) s := by
  refine ⟨_, rfl, ?_⟩
  have hm := Within.refl 8949249
  have hu := Within.refl 0x800000000040000000000002c0000000000000000000000000000000
  have h := Keeps.refl 8949249 0x800000000040000000000002c0000000000000000000000000000000 s.dev
  repeat' first
    | with_reducible assumption | exact hm.sub (by decide) | exact hu.sub (by decide) | intro _
    | with_reducible apply readRow_keeps | with_reducible apply keeps_ite | split

theorem keeps_smpN (rq v s) : RowKeeps 15728639 0x7fffffffffffffffffffffffffffffffffffffffffffffffffffffffff (.smpN rq v) s := by
  refine ⟨_, rfl, ?_⟩
  have hm := Within.refl 15728639
  have hu := Within.refl 0x7fffffffffffffffffffffffffffffffffffffffffffffffffffffffff
  have h := Keeps.refl 15728639 0x7fffffffffffffffffffffffffffffffffffffffffffffffffffffffff s.dev
  repeat' first
    | with_reducible assumption | exact hm.sub (by decide) | exact hu.sub (by decide) | intro _
    | with_reducible apply writeRow_keeps | with_reducible apply keeps_ite | split

theorem keeps_chgSet (rq v s) : RowKeeps 15728639 0x7fffffffffffffffffffffffffffffffffffffffffffffffffffffffff (.chgSet rq v) s := by
  refine ⟨_, rfl, ?_⟩
  have hm := Within.refl 15728639
  have hu := Within.refl 0x7fffffffffffffffffffffffffffffffffffffffffffffffffffffffff
  have h := Keeps.refl 15728639 0x7fffffffffffffffffffffffffffffffffffffffffffffffffffffffff s.dev
  repeat' first
    | with_reducible assumption | exact hm.sub (by decide) | exact hu.sub (by decide) | intro _
    | with_reducible apply writeRow_keeps | with_reducible apply keeps_ite | split

theorem keeps_evtCoal (rq g v s) : RowKeeps 15728639 0x7fffffffffffffffffffffffffffffffffffffffffffffffffffffffff (.evtCoal rq g v) s := by
  refine ⟨_, rfl, ?_⟩
  have hm := Within.refl 15728639
  have hu := Within.refl 0x7fffffffffffffffffffffffffffffffffffffffffffffffffffffffff
  have h := Keeps.refl 15728639 0x7fffffffffffffffffffffffffffffffffffffffffffffffffffffffff s.dev
  repeat' first
    | with_reducible assumption | exact hm.sub (by decide) | exact hu.sub (by decide) | intro _
    | with_reducible apply writeRow_keeps | with_reducible apply keeps_ite | split

theorem keeps_evtEn (rq g v s) : RowKeeps 15728639 0x7fffffffffffffffffffffffffffffffffffffffffffffffffffffffff (.evtEn rq g v) s := by
  refine ⟨_, rfl, ?_⟩
  have hm := Within.refl 15728639
  have hu := Within.refl 0x7fffffffffffffffffffffffffffffffffffffffffffffffffffffffff
  have h := Keeps.refl 15728639 0x7fffffffffffffffffffffffffffffffffffffffffffffffffffffffff s.dev
  repeat' first
    | with_reducible assumption | exact hm.sub (by decide) | exact hu.sub (by decide) | intro _
    | with_reducible apply writeRow_keeps | with_reducible apply keeps_ite | split

theorem keeps_powerOnReset (bkCold s) : RowKeeps 16777215 0xffffffffffffffffffffffffffffffffffffffffffffffffffffffffff (.powerOnReset bkCold) s := by
  refine ⟨_, rfl, ?_⟩
  have hm := Within.refl 16777215
  have hu := Within.refl 0xffffffffffffffffffffffffffffffffffffffffffffffffffffffffff
  have h := Keeps.refl 16777215 0xffffffffffffffffffffffffffffffffffffffffffffffffffffffffff s.dev
  repeat' first
    | with_reducible assumption | exact hm.sub (by decide) | exact hu.sub (by decide) | intro _
    | with_reducible apply opPowerOnReset_keeps | with_reducible apply keeps_ite | split

theorem keeps_porRelease (samples testEn s) : RowKeeps 32 0x0 (.porRelease samples testEn) s := by
  refine ⟨_, rfl, ?_⟩
  have hm := Within.refl 32
  have hu := Within.refl 0x0
  have h := Keeps.refl 32 0x0 s.dev
  repeat' first
    | with_reducible assumption | exact hm.sub (by decide) | exact hu.sub (by decide) | intro _
    | with_reducible apply opPorRelease_keeps | with_reducible apply keeps_ite | split

theorem keeps_uvlo (s) : RowKeeps 16777215 0xffffffffffffffffffffffffffffffffffffffffffffffffffffffffff .uvlo s := by
  refine ⟨_, rfl, ?_⟩
  have hm := Within.refl 16777215
  have hu := Within.refl 0xffffffffffffffffffffffffffffffffffffffffffffffffffffffffff
  have h := Keeps.refl 16777215 0xffffffffffffffffffffffffffffffffffffffffffffffffffffffffff s.dev
  repeat' first
    | with_reducible assumption | exact hm.sub (by decide) | exact hu.sub (by decide) | intro _
    | with_reducible apply opUvlo_keeps | with_reducible apply keeps_ite | split

theorem keeps_nrst (s) : RowKeeps 16252911 0xffffffffffffffffffffffffffffffffffffffffffffffffffffffffff .nrst s := by
  refine ⟨_, rfl, ?_⟩
  have hm := Within.refl 16252911
  have hu := Within.refl 0xffffffffffffffffffffffffffffffffffffffffffffffffffffffffff
  have h := Keeps.refl 16252911 0xffffffffffffffffffffffffffffffffffffffffffffffffffffffffff s.dev
  repeat' first
    | with_reducible assumption | exact hm.sub (by decide) | exact hu.sub (by decide) | intro _
    | with_reducible apply opNrst_keeps | with_reducible apply tracePin_keeps | with_reducible apply keeps_ite | split

theorem keeps_nrstRelease (s) : RowKeeps 32 0x0 .nrstRelease s := by
  refine ⟨_, rfl, ?_⟩
  have hm := Within.refl 32
  have hu := Within.refl 0x0
  have h := Keeps.refl 32 0x0 s.dev
  repeat' first
    | with_reducible assumption | exact hm.sub (by decide) | exact hu.sub (by decide) | intro _
    | with_reducible apply opNrstRelease_keeps | with_reducible apply keeps_ite | split

theorem keeps_purlinWdt (s) : RowKeeps 16252927 0xffffffffffffffffffffffffffffffffffffffffffffffffffffffffff .purlinWdt s := by
  refine ⟨_, rfl, ?_⟩
  have hm := Within.refl 16252927
  have hu := Within.refl 0xffffffffffffffffffffffffffffffffffffffffffffffffffffffffff
  have h := Keeps.refl 16252927 0xffffffffffffffffffffffffffffffffffffffffffffffffffffffffff s.dev
  repeat' first
    | with_reducible assumption | exact hm.sub (by decide) | exact hu.sub (by decide) | intro _
    | with_reducible apply opPurlinWdt_keeps | with_reducible apply keeps_ite | split

theorem keeps_lockstep (s) : RowKeeps 16252903 0xffffffffffffffffffffffffffffffffffffffffffffffffffffffffff .lockstep s := by
  refine ⟨_, rfl, ?_⟩
  have hm := Within.refl 16252903
  have hu := Within.refl 0xffffffffffffffffffffffffffffffffffffffffffffffffffffffffff
  have h := Keeps.refl 16252903 0xffffffffffffffffffffffffffffffffffffffffffffffffffffffffff s.dev
  repeat' first
    | with_reducible assumption | exact hm.sub (by decide) | exact hu.sub (by decide) | intro _
    | with_reducible apply opLockstep_keeps | with_reducible apply keeps_ite | split

theorem keeps_softResetDone (s) : RowKeeps 3641 0x800000000040000000000002c0000000000000000000000000000000 .softResetDone s := by
  refine ⟨_, rfl, ?_⟩
  have hm := Within.refl 3641
  have hu := Within.refl 0x800000000040000000000002c0000000000000000000000000000000
  have h := Keeps.refl 3641 0x800000000040000000000002c0000000000000000000000000000000 s.dev
  repeat' first
    | with_reducible assumption | exact hm.sub (by decide) | exact hu.sub (by decide) | intro _
    | with_reducible apply opSoftResetDone_keeps | with_reducible apply keeps_ite | split

theorem keeps_keeperTrip (n s) : RowKeeps 8033 0x808000000040000000000002c000000000032d884000000000020010 (.keeperTrip n) s := by
  refine ⟨_, rfl, ?_⟩
  have hm := Within.refl 8033
  have hu := Within.refl 0x808000000040000000000002c000000000032d884000000000020010
  have h := Keeps.refl 8033 0x808000000040000000000002c000000000032d884000000000020010 s.dev
  repeat' first
    | with_reducible assumption | exact hm.sub (by decide) | exact hu.sub (by decide) | intro _
    | with_reducible apply opKeeperTrip_keeps | with_reducible apply keeps_ite | split

theorem keeps_pllLock (align s) : RowKeeps 5246521 0x800201200040000000010002c0000000000000000000000000000004 (.pllLock align) s := by
  refine ⟨_, rfl, ?_⟩
  have hm := Within.refl 5246521
  have hu := Within.refl 0x800201200040000000010002c0000000000000000000000000000004
  have h := Keeps.refl 5246521 0x800201200040000000010002c0000000000000000000000000000004 s.dev
  repeat' first
    | with_reducible assumption | exact hm.sub (by decide) | exact hu.sub (by decide) | intro _
    | with_reducible apply opPllLock_keeps | with_reducible apply keeps_ite | split

theorem keeps_purlinHashCheck (s) : RowKeeps 4202337 0x808000400040000800000002c000000000032d884000000000020004 .purlinHashCheck s := by
  refine ⟨_, rfl, ?_⟩
  have hm := Within.refl 4202337
  have hu := Within.refl 0x808000400040000800000002c000000000032d884000000000020004
  have h := Keeps.refl 4202337 0x808000400040000800000002c000000000032d884000000000020004 s.dev
  repeat' first
    | with_reducible assumption | exact hm.sub (by decide) | exact hu.sub (by decide) | intro _
    | with_reducible apply opPurlinHashCheck_keeps | with_reducible apply keeps_ite | split

theorem keeps_otpRegionsRead (s) : RowKeeps 8359847 0x7fffffffffffffffffffffffffffffffffffffffffffffffffffffffff .otpRegionsRead s := by
  refine ⟨_, rfl, ?_⟩
  have hm := Within.refl 8359847
  have hu := Within.refl 0x7fffffffffffffffffffffffffffffffffffffffffffffffffffffffff
  have h := Keeps.refl 8359847 0x7fffffffffffffffffffffffffffffffffffffffffffffffffffffffff s.dev
  repeat' first
    | with_reducible assumption | exact hm.sub (by decide) | exact hu.sub (by decide) | intro _
    | with_reducible apply opRegionsRead_keeps | with_reducible apply keeps_ite | split

theorem keeps_bootSelftestDone (pass s) : RowKeeps 7049127 0x7fffffffffffffffffffffffffffffffffffffffffffffffffffffffff (.bootSelftestDone pass) s := by
  refine ⟨_, rfl, ?_⟩
  have hm := Within.refl 7049127
  have hu := Within.refl 0x7fffffffffffffffffffffffffffffffffffffffffffffffffffffffff
  have h := Keeps.refl 7049127 0x7fffffffffffffffffffffffffffffffffffffffffffffffffffffffff s.dev
  repeat' first
    | with_reducible assumption | exact hm.sub (by decide) | exact hu.sub (by decide) | intro _
    | with_reducible apply opBootSelftestDone_keeps | with_reducible apply keeps_ite | split

theorem keeps_thatchVerify (s) : RowKeeps 6295201 0x800021a04040000000000002c0000000000000000000000000210000 .thatchVerify s := by
  refine ⟨_, rfl, ?_⟩
  have hm := Within.refl 6295201
  have hu := Within.refl 0x800021a04040000000000002c0000000000000000000000000210000
  have h := Keeps.refl 6295201 0x800021a04040000000000002c0000000000000000000000000210000 s.dev
  repeat' first
    | with_reducible assumption | exact hm.sub (by decide) | exact hu.sub (by decide) | intro _
    | with_reducible apply opThatchVerify_keeps | with_reducible apply keeps_ite | split

theorem keeps_thatchReady (s) : RowKeeps 12816057 0x800020200040088100000382c00005fc220000000000000020210084 .thatchReady s := by
  refine ⟨_, rfl, ?_⟩
  have hm := Within.refl 12816057
  have hu := Within.refl 0x800020200040088100000382c00005fc220000000000000020210084
  have h := Keeps.refl 12816057 0x800020200040088100000382c00005fc220000000000000020210084 s.dev
  repeat' first
    | with_reducible assumption | exact hm.sub (by decide) | exact hu.sub (by decide) | intro _
    | with_reducible apply opThatchReady_keeps | with_reducible apply keeps_ite | split

theorem keeps_bootEntry (s) : RowKeeps 16748455 0x7fffffffffffffffffffffffffffffffffffffffffffffffffffffffff .bootEntry s := by
  refine ⟨_, rfl, ?_⟩
  have hm := Within.refl 16748455
  have hu := Within.refl 0x7fffffffffffffffffffffffffffffffffffffffffffffffffffffffff
  have h := Keeps.refl 16748455 0x7fffffffffffffffffffffffffffffffffffffffffffffffffffffffff s.dev
  repeat' first
    | with_reducible assumption | exact hm.sub (by decide) | exact hu.sub (by decide) | intro _
    | with_reducible apply opBootEntry_keeps | with_reducible apply keeps_ite | split

theorem keeps_adoption (crc samples s) : RowKeeps 15699967 0x7fffffffffffffffffffffffffffffffffffffffffffffffffffffffff (.adoption crc samples) s := by
  refine ⟨_, rfl, ?_⟩
  have hm := Within.refl 15699967
  have hu := Within.refl 0x7fffffffffffffffffffffffffffffffffffffffffffffffffffffffff
  have h := Keeps.refl 15699967 0x7fffffffffffffffffffffffffffffffffffffffffffffffffffffffff s.dev
  repeat' first
    | with_reducible assumption | exact hm.sub (by decide) | exact hu.sub (by decide) | intro _
    | with_reducible apply opAdoption_keeps | with_reducible apply keeps_ite | split

theorem keeps_wakePin (x level n s) : RowKeeps 16777215 0xffffffffffffffffffffffffffffffffffffffffffffffffffffffffff (.wakePin x level n) s := by
  refine ⟨_, rfl, ?_⟩
  have hm := Within.refl 16777215
  have hu := Within.refl 0xffffffffffffffffffffffffffffffffffffffffffffffffffffffffff
  have h := Keeps.refl 16777215 0xffffffffffffffffffffffffffffffffffffffffffffffffffffffffff s.dev
  repeat' first
    | with_reducible assumption | exact hm.sub (by decide) | exact hu.sub (by decide) | intro _
    | with_reducible apply opWakePin_keeps | with_reducible apply tracePin_keeps | with_reducible apply keeps_ite | split

theorem keeps_vsupWake (low high n s) : RowKeeps 16777215 0xffffffffffffffffffffffffffffffffffffffffffffffffffffffffff (.vsupWake low high n) s := by
  refine ⟨_, rfl, ?_⟩
  have hm := Within.refl 16777215
  have hu := Within.refl 0xffffffffffffffffffffffffffffffffffffffffffffffffffffffffff
  have h := Keeps.refl 16777215 0xffffffffffffffffffffffffffffffffffffffffffffffffffffffffff s.dev
  repeat' first
    | with_reducible assumption | exact hm.sub (by decide) | exact hu.sub (by decide) | intro _
    | with_reducible apply opVsupWake_keeps | with_reducible apply keeps_ite | split

theorem keeps_vauxWake (us s) : RowKeeps 16777215 0xffffffffffffffffffffffffffffffffffffffffffffffffffffffffff (.vauxWake us) s := by
  refine ⟨_, rfl, ?_⟩
  have hm := Within.refl 16777215
  have hu := Within.refl 0xffffffffffffffffffffffffffffffffffffffffffffffffffffffffff
  have h := Keeps.refl 16777215 0xffffffffffffffffffffffffffffffffffffffffffffffffffffffffff s.dev
  repeat' first
    | with_reducible assumption | exact hm.sub (by decide) | exact hu.sub (by decide) | intro _
    | with_reducible apply opVauxWake_keeps | with_reducible apply keeps_ite | split

theorem keeps_alarm (a hold s) : RowKeeps 16777215 0xffffffffffffffffffffffffffffffffffffffffffffffffffffffffff (.alarm a hold) s := by
  refine ⟨_, rfl, ?_⟩
  have hm := Within.refl 16777215
  have hu := Within.refl 0xffffffffffffffffffffffffffffffffffffffffffffffffffffffffff
  have h := Keeps.refl 16777215 0xffffffffffffffffffffffffffffffffffffffffffffffffffffffffff s.dev
  repeat' first
    | with_reducible assumption | exact hm.sub (by decide) | exact hu.sub (by decide) | intro _
    | with_reducible apply opAlarm_keeps | with_reducible apply keeps_ite | split

theorem keeps_evTimestamp (x rise presc hold s) : RowKeeps 16777215 0xffffffffffffffffffffffffffffffffffffffffffffffffffffffffff (.evTimestamp x rise presc hold) s := by
  refine ⟨_, rfl, ?_⟩
  have hm := Within.refl 16777215
  have hu := Within.refl 0xffffffffffffffffffffffffffffffffffffffffffffffffffffffffff
  have h := Keeps.refl 16777215 0xffffffffffffffffffffffffffffffffffffffffffffffffffffffffff s.dev
  repeat' first
    | with_reducible assumption | exact hm.sub (by decide) | exact hu.sub (by decide) | intro _
    | with_reducible apply opEvTimestamp_keeps | with_reducible apply keeps_ite | split

theorem keeps_rtcSecond (s) : RowKeeps 2621441 0x3800000000000000000000000000000000 .rtcSecond s := by
  refine ⟨_, rfl, ?_⟩
  have hm := Within.refl 2621441
  have hu := Within.refl 0x3800000000000000000000000000000000
  have h := Keeps.refl 2621441 0x3800000000000000000000000000000000 s.dev
  repeat' first
    | with_reducible assumption | exact hm.sub (by decide) | exact hu.sub (by decide) | intro _
    | with_reducible apply opRtcSecond_keeps | with_reducible apply keeps_ite | split

theorem keeps_oscFail (s) : RowKeeps 3585 0x800000000040000000000202c0000000000000000000000000000000 .oscFail s := by
  refine ⟨_, rfl, ?_⟩
  have hm := Within.refl 3585
  have hu := Within.refl 0x800000000040000000000202c0000000000000000000000000000000
  have h := Keeps.refl 3585 0x800000000040000000000202c0000000000000000000000000000000 s.dev
  repeat' first
    | with_reducible assumption | exact hm.sub (by decide) | exact hu.sub (by decide) | intro _
    | with_reducible apply opOscFail_keeps | with_reducible apply keeps_ite | split

theorem keeps_rtcCalCycle (s) : RowKeeps 524288 0x0 .rtcCalCycle s := by
  refine ⟨_, rfl, ?_⟩
  have hm := Within.refl 524288
  have hu := Within.refl 0x0
  have h := Keeps.refl 524288 0x0 s.dev
  repeat' first
    | with_reducible assumption | exact hm.sub (by decide) | exact hu.sub (by decide) | intro _
    | with_reducible apply opRtcCalCycle_keeps | with_reducible apply keeps_ite | split

theorem keeps_bkSupplySwitch (s) : RowKeeps 2625025 0x800000000040000000000202c0000000000000000000000000000000 .bkSupplySwitch s := by
  refine ⟨_, rfl, ?_⟩
  have hm := Within.refl 2625025
  have hu := Within.refl 0x800000000040000000000202c0000000000000000000000000000000
  have h := Keeps.refl 2625025 0x800000000040000000000202c0000000000000000000000000000000 s.dev
  repeat' first
    | with_reducible assumption | exact hm.sub (by decide) | exact hu.sub (by decide) | intro _
    | with_reducible apply opBkSupplySwitch_keeps | with_reducible apply keeps_ite | split

theorem keeps_bkReturn (s) : RowKeeps 2625025 0x800000000040000000000002c0000000000000000000000000000000 .bkReturn s := by
  refine ⟨_, rfl, ?_⟩
  have hm := Within.refl 2625025
  have hu := Within.refl 0x800000000040000000000002c0000000000000000000000000000000
  have h := Keeps.refl 2625025 0x800000000040000000000002c0000000000000000000000000000000 s.dev
  repeat' first
    | with_reducible assumption | exact hm.sub (by decide) | exact hu.sub (by decide) | intro _
    | with_reducible apply opBkReturn_keeps | with_reducible apply keeps_ite | split

theorem keeps_trimDone (counts s) : RowKeeps 8408601 0x800000000040000000000282c0000000000000000000000020000080 (.trimDone counts) s := by
  refine ⟨_, rfl, ?_⟩
  have hm := Within.refl 8408601
  have hu := Within.refl 0x800000000040000000000282c0000000000000000000000020000080
  have h := Keeps.refl 8408601 0x800000000040000000000282c0000000000000000000000020000080 s.dev
  repeat' first
    | with_reducible assumption | exact hm.sub (by decide) | exact hu.sub (by decide) | intro _
    | with_reducible apply opTrimDone_keeps | with_reducible apply keeps_ite | split

theorem keeps_trimTimeout (s) : RowKeeps 3609 0x800000000040000000000202c0000000000000000000000000000000 .trimTimeout s := by
  refine ⟨_, rfl, ?_⟩
  have hm := Within.refl 3609
  have hu := Within.refl 0x800000000040000000000202c0000000000000000000000000000000
  have h := Keeps.refl 3609 0x800000000040000000000202c0000000000000000000000000000000 s.dev
  repeat' first
    | with_reducible assumption | exact hm.sub (by decide) | exact hu.sub (by decide) | intro _
    | with_reducible apply opTrimTimeout_keeps | with_reducible apply keeps_ite | split

theorem keeps_comparatorTrip (n k both s) : RowKeeps 15441919 0x7fffffffffffffffffffffffffffffffffffffffffffffffffffffffff (.comparatorTrip n k both) s := by
  refine ⟨_, rfl, ?_⟩
  have hm := Within.refl 15441919
  have hu := Within.refl 0x7fffffffffffffffffffffffffffffffffffffffffffffffffffffffff
  have h := Keeps.refl 15441919 0x7fffffffffffffffffffffffffffffffffffffffffffffffffffffffff s.dev
  repeat' first
    | with_reducible assumption | exact hm.sub (by decide) | exact hu.sub (by decide) | intro _
    | with_reducible apply opComparatorTrip_keeps | with_reducible apply traceRail_keeps | with_reducible apply keeps_ite | split

theorem keeps_comparatorRelease (n k s) : RowKeeps 15437823 0x7fffffffffffffffffffffffffffffffffffffffffffffffffffffffff (.comparatorRelease n k) s := by
  refine ⟨_, rfl, ?_⟩
  have hm := Within.refl 15437823
  have hu := Within.refl 0x7fffffffffffffffffffffffffffffffffffffffffffffffffffffffff
  have h := Keeps.refl 15437823 0x7fffffffffffffffffffffffffffffffffffffffffffffffffffffffff s.dev
  repeat' first
    | with_reducible assumption | exact hm.sub (by decide) | exact hu.sub (by decide) | intro _
    | with_reducible apply opComparatorRelease_keeps | with_reducible apply traceRail_keeps | with_reducible apply keeps_ite | split

theorem keeps_ocTrip (n s) : RowKeeps 15441919 0x7fffffffffffffffffffffffffffffffffffffffffffffffffffffffff (.ocTrip n) s := by
  refine ⟨_, rfl, ?_⟩
  have hm := Within.refl 15441919
  have hu := Within.refl 0x7fffffffffffffffffffffffffffffffffffffffffffffffffffffffff
  have h := Keeps.refl 15441919 0x7fffffffffffffffffffffffffffffffffffffffffffffffffffffffff s.dev
  repeat' first
    | with_reducible assumption | exact hm.sub (by decide) | exact hu.sub (by decide) | intro _
    | with_reducible apply opOcTrip_keeps | with_reducible apply traceRail_keeps | with_reducible apply keeps_ite | split

theorem keeps_ldoOcTrip (n s) : RowKeeps 15441919 0x7fffffffffffffffffffffffffffffffffffffffffffffffffffffffff (.ldoOcTrip n) s := by
  refine ⟨_, rfl, ?_⟩
  have hm := Within.refl 15441919
  have hu := Within.refl 0x7fffffffffffffffffffffffffffffffffffffffffffffffffffffffff
  have h := Keeps.refl 15441919 0x7fffffffffffffffffffffffffffffffffffffffffffffffffffffffff s.dev
  repeat' first
    | with_reducible assumption | exact hm.sub (by decide) | exact hu.sub (by decide) | intro _
    | with_reducible apply opLdoOcTrip_keeps | with_reducible apply traceRail_keeps | with_reducible apply keeps_ite | split

theorem keeps_powerGood (n ldin s) : RowKeeps 15437823 0x7fffffffffffffffffffffffffffffffffffffffffffffffffffffffff (.powerGood n ldin) s := by
  refine ⟨_, rfl, ?_⟩
  have hm := Within.refl 15437823
  have hu := Within.refl 0x7fffffffffffffffffffffffffffffffffffffffffffffffffffffffff
  have h := Keeps.refl 15437823 0x7fffffffffffffffffffffffffffffffffffffffffffffffffffffffff s.dev
  repeat' first
    | with_reducible assumption | exact hm.sub (by decide) | exact hu.sub (by decide) | intro _
    | with_reducible apply opPowerGood_keeps | with_reducible apply keeps_ite | split

theorem keeps_pgoodRelease (k s) : RowKeeps 2617 0x4000000000000000000000000000000000000000000000 (.pgoodRelease k) s := by
  refine ⟨_, rfl, ?_⟩
  have hm := Within.refl 2617
  have hu := Within.refl 0x4000000000000000000000000000000000000000000000
  have h := Keeps.refl 2617 0x4000000000000000000000000000000000000000000000 s.dev
  repeat' first
    | with_reducible assumption | exact hm.sub (by decide) | exact hu.sub (by decide) | intro _
    | with_reducible apply opPgoodRelease_keeps | with_reducible apply keeps_ite | split

theorem keeps_ssoRelease (j s) : RowKeeps 1 0x800000000000000000000000000000000000000000000000000000 (.ssoRelease j) s := by
  refine ⟨_, rfl, ?_⟩
  have hm := Within.refl 1
  have hu := Within.refl 0x800000000000000000000000000000000000000000000000000000
  have h := Keeps.refl 1 0x800000000000000000000000000000000000000000000000000000 s.dev
  repeat' first
    | with_reducible assumption | exact hm.sub (by decide) | exact hu.sub (by decide) | intro _
    | with_reducible apply opSsoRelease_keeps | with_reducible apply keeps_ite | split

theorem keeps_ssoFault (j s) : RowKeeps 3585 0x808000000040000000000002c0000000000000000000000000000000 (.ssoFault j) s := by
  refine ⟨_, rfl, ?_⟩
  have hm := Within.refl 3585
  have hu := Within.refl 0x808000000040000000000002c0000000000000000000000000000000
  have h := Keeps.refl 3585 0x808000000040000000000002c0000000000000000000000000000000 s.dev
  repeat' first
    | with_reducible assumption | exact hm.sub (by decide) | exact hu.sub (by decide) | intro _
    | with_reducible apply opSsoFault_keeps | with_reducible apply keeps_ite | split

theorem keeps_interlockRelease (n low s) : RowKeeps 3961 0x800000000040000000000002c000000000000d884000000000020000 (.interlockRelease n low) s := by
  refine ⟨_, rfl, ?_⟩
  have hm := Within.refl 3961
  have hu := Within.refl 0x800000000040000000000002c000000000000d884000000000020000
  have h := Keeps.refl 3961 0x800000000040000000000002c000000000000d884000000000020000 s.dev
  repeat' first
    | with_reducible assumption | exact hm.sub (by decide) | exact hu.sub (by decide) | intro _
    | with_reducible apply opInterlockRelease_keeps | with_reducible apply keeps_ite | split

theorem keeps_slotOn (n s) : RowKeeps 2649 0x400000000000000000000000012d08c000000000020000 (.slotOn n) s := by
  refine ⟨_, rfl, ?_⟩
  have hm := Within.refl 2649
  have hu := Within.refl 0x400000000000000000000000012d08c000000000020000
  have h := Keeps.refl 2649 0x400000000000000000000000012d08c000000000020000 s.dev
  repeat' first
    | with_reducible assumption | exact hm.sub (by decide) | exact hu.sub (by decide) | intro _
    | with_reducible apply opSlotOn_keeps | with_reducible apply keeps_ite | split

theorem keeps_t0Reached (s) : RowKeeps 15437823 0x7fffffffffffffffffffffffffffffffffffffffffffffffffffffffff .t0Reached s := by
  refine ⟨_, rfl, ?_⟩
  have hm := Within.refl 15437823
  have hu := Within.refl 0x7fffffffffffffffffffffffffffffffffffffffffffffffffffffffff
  have h := Keeps.refl 15437823 0x7fffffffffffffffffffffffffffffffffffffffffffffffffffffffff s.dev
  repeat' first
    | with_reducible assumption | exact hm.sub (by decide) | exact hu.sub (by decide) | intro _
    | with_reducible apply opT0Reached_keeps | with_reducible apply keeps_ite | split

theorem keeps_riseFail (mask s) : RowKeeps 15437823 0x7fffffffffffffffffffffffffffffffffffffffffffffffffffffffff (.riseFail mask) s := by
  refine ⟨_, rfl, ?_⟩
  have hm := Within.refl 15437823
  have hu := Within.refl 0x7fffffffffffffffffffffffffffffffffffffffffffffffffffffffff
  have h := Keeps.refl 15437823 0x7fffffffffffffffffffffffffffffffffffffffffffffffffffffffff s.dev
  repeat' first
    | with_reducible assumption | exact hm.sub (by decide) | exact hu.sub (by decide) | intro _
    | with_reducible apply opRiseFail_keeps | with_reducible apply keeps_ite | split

theorem keeps_railOnTimeout (n s) : RowKeeps 8057 0x800000000040000000000002c000000000032d884000000000020000 (.railOnTimeout n) s := by
  refine ⟨_, rfl, ?_⟩
  have hm := Within.refl 8057
  have hu := Within.refl 0x800000000040000000000002c000000000032d884000000000020000
  have h := Keeps.refl 8057 0x800000000040000000000002c000000000032d884000000000020000 s.dev
  repeat' first
    | with_reducible assumption | exact hm.sub (by decide) | exact hu.sub (by decide) | intro _
    | with_reducible apply opRailOnTimeout_keeps | with_reducible apply keeps_ite | split

theorem keeps_offDelay (n s) : RowKeeps 3961 0x800000000040000000000002c000000000000d884000000000020000 (.offDelay n) s := by
  refine ⟨_, rfl, ?_⟩
  have hm := Within.refl 3961
  have hu := Within.refl 0x800000000040000000000002c000000000000d884000000000020000
  have h := Keeps.refl 3961 0x800000000040000000000002c000000000000d884000000000020000 s.dev
  repeat' first
    | with_reducible assumption | exact hm.sub (by decide) | exact hu.sub (by decide) | intro _
    | with_reducible apply opOffDelay_keeps | with_reducible apply keeps_ite | split

theorem keeps_gateTimeout (n s) : RowKeeps 3961 0x800000000040000000000002c000000000000d884000000000120000 (.gateTimeout n) s := by
  refine ⟨_, rfl, ?_⟩
  have hm := Within.refl 3961
  have hu := Within.refl 0x800000000040000000000002c000000000000d884000000000120000
  have h := Keeps.refl 3961 0x800000000040000000000002c000000000000d884000000000120000 s.dev
  repeat' first
    | with_reducible assumption | exact hm.sub (by decide) | exact hu.sub (by decide) | intro _
    | with_reducible apply opGateTimeout_keeps | with_reducible apply keeps_ite | split

theorem keeps_railFallen (n s) : RowKeeps 7053287 0x7fffffffffffffffffffffffffffffffffffffffffffffffffffffffff (.railFallen n) s := by
  refine ⟨_, rfl, ?_⟩
  have hm := Within.refl 7053287
  have hu := Within.refl 0x7fffffffffffffffffffffffffffffffffffffffffffffffffffffffff
  have h := Keeps.refl 7053287 0x7fffffffffffffffffffffffffffffffffffffffffffffffffffffffff s.dev
  repeat' first
    | with_reducible assumption | exact hm.sub (by decide) | exact hu.sub (by decide) | intro _
    | with_reducible apply opRailFallen_keeps | with_reducible apply traceComp_keeps | with_reducible apply keeps_ite | split

theorem keeps_fallFail (n s) : RowKeeps 15437823 0x7fffffffffffffffffffffffffffffffffffffffffffffffffffffffff (.fallFail n) s := by
  refine ⟨_, rfl, ?_⟩
  have hm := Within.refl 15437823
  have hu := Within.refl 0x7fffffffffffffffffffffffffffffffffffffffffffffffffffffffff
  have h := Keeps.refl 15437823 0x7fffffffffffffffffffffffffffffffffffffffffffffffffffffffff s.dev
  repeat' first
    | with_reducible assumption | exact hm.sub (by decide) | exact hu.sub (by decide) | intro _
    | with_reducible apply opFallFail_keeps | with_reducible apply keeps_ite | split

theorem keeps_forcedDischargeEnd (n s) : RowKeeps 7053311 0x7fffffffffffffffffffffffffffffffffffffffffffffffffffffffff (.forcedDischargeEnd n) s := by
  refine ⟨_, rfl, ?_⟩
  have hm := Within.refl 7053311
  have hu := Within.refl 0x7fffffffffffffffffffffffffffffffffffffffffffffffffffffffff
  have h := Keeps.refl 7053311 0x7fffffffffffffffffffffffffffffffffffffffffffffffffffffffff s.dev
  repeat' first
    | with_reducible assumption | exact hm.sub (by decide) | exact hu.sub (by decide) | intro _
    | with_reducible apply opForcedEnd_keeps | with_reducible apply keeps_ite | split

theorem keeps_retryDelay (s) : RowKeeps 7049151 0x7fffffffffffffffffffffffffffffffffffffffffffffffffffffffff .retryDelay s := by
  refine ⟨_, rfl, ?_⟩
  have hm := Within.refl 7049151
  have hu := Within.refl 0x7fffffffffffffffffffffffffffffffffffffffffffffffffffffffff
  have h := Keeps.refl 7049151 0x7fffffffffffffffffffffffffffffffffffffffffffffffffffffffff s.dev
  repeat' first
    | with_reducible assumption | exact hm.sub (by decide) | exact hu.sub (by decide) | intro _
    | with_reducible apply opRetryDelay_keeps | with_reducible apply keeps_ite | split

theorem keeps_retryCntClear (s) : RowKeeps 1 0x10000 .retryCntClear s := by
  refine ⟨_, rfl, ?_⟩
  have hm := Within.refl 1
  have hu := Within.refl 0x10000
  have h := Keeps.refl 1 0x10000 s.dev
  repeat' first
    | with_reducible assumption | exact hm.sub (by decide) | exact hu.sub (by decide) | intro _
    | with_reducible apply opRetryCntClear_keeps | with_reducible apply keeps_ite | split

theorem keeps_tRest (s) : RowKeeps 3737 0x800000000040000000000002c0000000000000000000000000210000 .tRest s := by
  refine ⟨_, rfl, ?_⟩
  have hm := Within.refl 3737
  have hu := Within.refl 0x800000000040000000000002c0000000000000000000000000210000
  have h := Keeps.refl 3737 0x800000000040000000000002c0000000000000000000000000210000 s.dev
  repeat' first
    | with_reducible assumption | exact hm.sub (by decide) | exact hu.sub (by decide) | intro _
    | with_reducible apply opTRest_keeps | with_reducible apply keeps_ite | split

theorem keeps_softStartComplete (n s) : RowKeeps 2649 0x400000000000000000000000000d084000000000000000 (.softStartComplete n) s := by
  refine ⟨_, rfl, ?_⟩
  have hm := Within.refl 2649
  have hu := Within.refl 0x400000000000000000000000000d084000000000000000
  have h := Keeps.refl 2649 0x400000000000000000000000000d084000000000000000 s.dev
  repeat' first
    | with_reducible assumption | exact hm.sub (by decide) | exact hu.sub (by decide) | intro _
    | with_reducible apply opSoftStartComplete_keeps | with_reducible apply keeps_ite | split

theorem keeps_softStopComplete (n s) : RowKeeps 8057 0x800000000040000000000002c000000000032d084000000000000000 (.softStopComplete n) s := by
  refine ⟨_, rfl, ?_⟩
  have hm := Within.refl 8057
  have hu := Within.refl 0x800000000040000000000002c000000000032d084000000000000000
  have h := Keeps.refl 8057 0x800000000040000000000002c000000000032d084000000000000000 s.dev
  repeat' first
    | with_reducible assumption | exact hm.sub (by decide) | exact hu.sub (by decide) | intro _
    | with_reducible apply opSoftStopComplete_keeps | with_reducible apply keeps_ite | split

theorem keeps_setPointMoveEnd (n s) : RowKeeps 2649 0x400000000000000000000000000d084000000000000000 (.setPointMoveEnd n) s := by
  refine ⟨_, rfl, ?_⟩
  have hm := Within.refl 2649
  have hu := Within.refl 0x400000000000000000000000000d084000000000000000
  have h := Keeps.refl 2649 0x400000000000000000000000000d084000000000000000 s.dev
  repeat' first
    | with_reducible assumption | exact hm.sub (by decide) | exact hu.sub (by decide) | intro _
    | with_reducible apply opMoveEnd_keeps | with_reducible apply keeps_ite | split

theorem keeps_hcPhaseFail (k cause s) : RowKeeps 15441919 0x7fffffffffffffffffffffffffffffffffffffffffffffffffffffffff (.hcPhaseFail k cause) s := by
  refine ⟨_, rfl, ?_⟩
  have hm := Within.refl 15441919
  have hu := Within.refl 0x7fffffffffffffffffffffffffffffffffffffffffffffffffffffffff
  have h := Keeps.refl 15441919 0x7fffffffffffffffffffffffffffffffffffffffffffffffffffffffff s.dev
  repeat' first
    | with_reducible assumption | exact hm.sub (by decide) | exact hu.sub (by decide) | intro _
    | with_reducible apply opHcPhaseFail_keeps | with_reducible apply tracePhase_keeps | with_reducible apply keeps_ite | split

theorem keeps_syncLost (s) : RowKeeps 3617 0x800800000040000000000002c0000000000001084000000000000000 .syncLost s := by
  refine ⟨_, rfl, ?_⟩
  have hm := Within.refl 3617
  have hu := Within.refl 0x800800000040000000000002c0000000000001084000000000000000
  have h := Keeps.refl 3617 0x800800000040000000000002c0000000000001084000000000000000 s.dev
  repeat' first
    | with_reducible assumption | exact hm.sub (by decide) | exact hu.sub (by decide) | intro _
    | with_reducible apply opSyncLost_keeps | with_reducible apply keeps_ite | split

theorem keeps_syncRequalify (n s) : RowKeeps 3617 0x800000000040000000000002c0000000000001084000000000000000 (.syncRequalify n) s := by
  refine ⟨_, rfl, ?_⟩
  have hm := Within.refl 3617
  have hu := Within.refl 0x800000000040000000000002c0000000000001084000000000000000
  have h := Keeps.refl 3617 0x800000000040000000000002c0000000000001084000000000000000 s.dev
  repeat' first
    | with_reducible assumption | exact hm.sub (by decide) | exact hu.sub (by decide) | intro _
    | with_reducible apply opSyncRequalify_keeps | with_reducible apply keeps_ite | split

theorem keeps_syncLocked (n s) : RowKeeps 33 0x1084000000000000000 (.syncLocked n) s := by
  refine ⟨_, rfl, ?_⟩
  have hm := Within.refl 33
  have hu := Within.refl 0x1084000000000000000
  have h := Keeps.refl 33 0x1084000000000000000 s.dev
  repeat' first
    | with_reducible assumption | exact hm.sub (by decide) | exact hu.sub (by decide) | intro _
    | with_reducible apply opSyncLocked_keeps | with_reducible apply keeps_ite | split

theorem keeps_syncQualified (periods s) : RowKeeps 3617 0x800800000040000000000002c0000000000001084000000000000000 (.syncQualified periods) s := by
  refine ⟨_, rfl, ?_⟩
  have hm := Within.refl 3617
  have hu := Within.refl 0x800800000040000000000002c0000000000001084000000000000000
  have h := Keeps.refl 3617 0x800800000040000000000002c0000000000001084000000000000000 s.dev
  repeat' first
    | with_reducible assumption | exact hm.sub (by decide) | exact hu.sub (by decide) | intro _
    | with_reducible apply opSyncQualified_keeps | with_reducible apply keeps_ite | split

theorem keeps_brakeStart (n below s) : RowKeeps 1 0x14c4000000000000000 (.brakeStart n below) s := by
  refine ⟨_, rfl, ?_⟩
  have hm := Within.refl 1
  have hu := Within.refl 0x14c4000000000000000
  have h := Keeps.refl 1 0x14c4000000000000000 s.dev
  repeat' first
    | with_reducible assumption | exact hm.sub (by decide) | exact hu.sub (by decide) | intro _
    | with_reducible apply opBrakeStart_keeps | with_reducible apply keeps_ite | split

theorem keeps_brakeEnd (n s) : RowKeeps 1 0x1084000000000000000 (.brakeEnd n) s := by
  refine ⟨_, rfl, ?_⟩
  have hm := Within.refl 1
  have hu := Within.refl 0x1084000000000000000
  have h := Keeps.refl 1 0x1084000000000000000 s.dev
  repeat' first
    | with_reducible assumption | exact hm.sub (by decide) | exact hu.sub (by decide) | intro _
    | with_reducible apply opBrakeEnd_keeps | with_reducible apply keeps_ite | split

theorem keeps_clusterPhaseFail (fails s) : RowKeeps 15441919 0x7fffffffffffffffffffffffffffffffffffffffffffffffffffffffff (.clusterPhaseFail fails) s := by
  refine ⟨_, rfl, ?_⟩
  have hm := Within.refl 15441919
  have hu := Within.refl 0x7fffffffffffffffffffffffffffffffffffffffffffffffffffffffff
  have h := Keeps.refl 15441919 0x7fffffffffffffffffffffffffffffffffffffffffffffffffffffffff s.dev
  repeat' first
    | with_reducible assumption | exact hm.sub (by decide) | exact hu.sub (by decide) | intro _
    | with_reducible apply opPhaseFail_keeps | with_reducible apply tracePhases_keeps | with_reducible apply keeps_ite | split

theorem keeps_handoverMatch (c m s) : RowKeeps 257 0x120080000000000000000 (.handoverMatch c m) s := by
  refine ⟨_, rfl, ?_⟩
  have hm := Within.refl 257
  have hu := Within.refl 0x120080000000000000000
  have h := Keeps.refl 257 0x120080000000000000000 s.dev
  repeat' first
    | with_reducible assumption | exact hm.sub (by decide) | exact hu.sub (by decide) | intro _
    | with_reducible apply opHandoverMatch_keeps | with_reducible apply keeps_ite | split

theorem keeps_spareEngaged (c s) : RowKeeps 3841 0x800000000040000000000002c0000000000360080000000000000000 (.spareEngaged c) s := by
  refine ⟨_, rfl, ?_⟩
  have hm := Within.refl 3841
  have hu := Within.refl 0x800000000040000000000002c0000000000360080000000000000000
  have h := Keeps.refl 3841 0x800000000040000000000002c0000000000360080000000000000000 s.dev
  repeat' first
    | with_reducible assumption | exact hm.sub (by decide) | exact hu.sub (by decide) | intro _
    | with_reducible apply opSpareEngaged_keeps | with_reducible apply keeps_ite | split

theorem keeps_handoverFail (c s) : RowKeeps 15441919 0x7fffffffffffffffffffffffffffffffffffffffffffffffffffffffff (.handoverFail c) s := by
  refine ⟨_, rfl, ?_⟩
  have hm := Within.refl 15441919
  have hu := Within.refl 0x7fffffffffffffffffffffffffffffffffffffffffffffffffffffffff
  have h := Keeps.refl 15441919 0x7fffffffffffffffffffffffffffffffffffffffffffffffffffffffff s.dev
  repeat' first
    | with_reducible assumption | exact hm.sub (by decide) | exact hu.sub (by decide) | intro _
    | with_reducible apply opHandoverFail_keeps | with_reducible apply keeps_ite | split

theorem keeps_rotationEval (c s) : RowKeeps 257 0x20080000000000000000 (.rotationEval c) s := by
  refine ⟨_, rfl, ?_⟩
  have hm := Within.refl 257
  have hu := Within.refl 0x20080000000000000000
  have h := Keeps.refl 257 0x20080000000000000000 s.dev
  repeat' first
    | with_reducible assumption | exact hm.sub (by decide) | exact hu.sub (by decide) | intro _
    | with_reducible apply opRotationEval_keeps | with_reducible apply keeps_ite | split

theorem keeps_rotationRelease (c s) : RowKeeps 257 0x120080000000000000000 (.rotationRelease c) s := by
  refine ⟨_, rfl, ?_⟩
  have hm := Within.refl 257
  have hu := Within.refl 0x120080000000000000000
  have h := Keeps.refl 257 0x120080000000000000000 s.dev
  repeat' first
    | with_reducible assumption | exact hm.sub (by decide) | exact hu.sub (by decide) | intro _
    | with_reducible apply opRotationRelease_keeps | with_reducible apply keeps_ite | split

theorem keeps_phaseShed (n s) : RowKeeps 1 0x20080000000000000000 (.phaseShed n) s := by
  refine ⟨_, rfl, ?_⟩
  have hm := Within.refl 1
  have hu := Within.refl 0x20080000000000000000
  have h := Keeps.refl 1 0x20080000000000000000 s.dev
  repeat' first
    | with_reducible assumption | exact hm.sub (by decide) | exact hu.sub (by decide) | intro _
    | with_reducible apply opPhaseShed_keeps | with_reducible apply keeps_ite | split

theorem keeps_shedResume (n s) : RowKeeps 1 0x20080000000000000000 (.shedResume n) s := by
  refine ⟨_, rfl, ?_⟩
  have hm := Within.refl 1
  have hu := Within.refl 0x20080000000000000000
  have h := Keeps.refl 1 0x20080000000000000000 s.dev
  repeat' first
    | with_reducible assumption | exact hm.sub (by decide) | exact hu.sub (by decide) | intro _
    | with_reducible apply opShedResume_keeps | with_reducible apply keeps_ite | split

theorem keeps_drillTimeout (c s) : RowKeeps 3865 0x800000000040000000000002c0000000000000000000000000000000 (.drillTimeout c) s := by
  refine ⟨_, rfl, ?_⟩
  have hm := Within.refl 3865
  have hu := Within.refl 0x800000000040000000000002c0000000000000000000000000000000
  have h := Keeps.refl 3865 0x800000000040000000000002c0000000000000000000000000000000 s.dev
  repeat' first
    | with_reducible assumption | exact hm.sub (by decide) | exact hu.sub (by decide) | intro _
    | with_reducible apply opDrillTimeout_keeps | with_reducible apply keeps_ite | split

theorem keeps_drillHoldEnd (c ma opened s) : RowKeeps 3841 0x800000000040000000000002c0000000000320080000000000000000 (.drillHoldEnd c ma opened) s := by
  refine ⟨_, rfl, ?_⟩
  have hm := Within.refl 3841
  have hu := Within.refl 0x800000000040000000000002c0000000000320080000000000000000
  have h := Keeps.refl 3841 0x800000000040000000000002c0000000000320080000000000000000 s.dev
  repeat' first
    | with_reducible assumption | exact hm.sub (by decide) | exact hu.sub (by decide) | intro _
    | with_reducible apply opDrillHoldEnd_keeps | with_reducible apply keeps_ite | split

theorem keeps_gbShort (k s) : RowKeeps 15441919 0x7fffffffffffffffffffffffffffffffffffffffffffffffffffffffff (.gbShort k) s := by
  refine ⟨_, rfl, ?_⟩
  have hm := Within.refl 15441919
  have hu := Within.refl 0x7fffffffffffffffffffffffffffffffffffffffffffffffffffffffff
  have h := Keeps.refl 15441919 0x7fffffffffffffffffffffffffffffffffffffffffffffffffffffffff s.dev
  repeat' first
    | with_reducible assumption | exact hm.sub (by decide) | exact hu.sub (by decide) | intro _
    | with_reducible apply opGbShort_keeps | with_reducible apply traceComp_keeps | with_reducible apply keeps_ite | split

theorem keeps_gbOpen (k present s) : RowKeeps 15441919 0x7fffffffffffffffffffffffffffffffffffffffffffffffffffffffff (.gbOpen k present) s := by
  refine ⟨_, rfl, ?_⟩
  have hm := Within.refl 15441919
  have hu := Within.refl 0x7fffffffffffffffffffffffffffffffffffffffffffffffffffffffff
  have h := Keeps.refl 15441919 0x7fffffffffffffffffffffffffffffffffffffffffffffffffffffffff s.dev
  repeat' first
    | with_reducible assumption | exact hm.sub (by decide) | exact hu.sub (by decide) | intro _
    | with_reducible apply opGbOpen_keeps | with_reducible apply keeps_ite | split

theorem keeps_gbUvlo (bank s) : RowKeeps 3617 0x808000000040000000000002c000000000000d084000000000000000 (.gbUvlo bank) s := by
  refine ⟨_, rfl, ?_⟩
  have hm := Within.refl 3617
  have hu := Within.refl 0x808000000040000000000002c000000000000d084000000000000000
  have h := Keeps.refl 3617 0x808000000040000000000002c000000000000d084000000000000000 s.dev
  repeat' first
    | with_reducible assumption | exact hm.sub (by decide) | exact hu.sub (by decide) | intro _
    | with_reducible apply opGbUvlo_keeps | with_reducible apply keeps_ite | split

theorem keeps_gbUvloRelease (bank s) : RowKeeps 97 0xd084000000000000000 (.gbUvloRelease bank) s := by
  refine ⟨_, rfl, ?_⟩
  have hm := Within.refl 97
  have hu := Within.refl 0xd084000000000000000
  have h := Keeps.refl 97 0xd084000000000000000 s.dev
  repeat' first
    | with_reducible assumption | exact hm.sub (by decide) | exact hu.sub (by decide) | intro _
    | with_reducible apply opGbUvloRelease_keeps | with_reducible apply keeps_ite | split

theorem keeps_gbRampDone (k s) : RowKeeps 8057 0x800000000040000000000002c000000000032d084000000000000000 (.gbRampDone k) s := by
  refine ⟨_, rfl, ?_⟩
  have hm := Within.refl 8057
  have hu := Within.refl 0x800000000040000000000002c000000000032d084000000000000000
  have h := Keeps.refl 8057 0x800000000040000000000002c000000000032d084000000000000000 s.dev
  repeat' first
    | with_reducible assumption | exact hm.sub (by decide) | exact hu.sub (by decide) | intro _
    | with_reducible apply opGbRampDone_keeps | with_reducible apply keeps_ite | split

theorem keeps_gbOffCounted (k s) : RowKeeps 7053311 0x7fffffffffffffffffffffffffffffffffffffffffffffffffffffffff (.gbOffCounted k) s := by
  refine ⟨_, rfl, ?_⟩
  have hm := Within.refl 7053311
  have hu := Within.refl 0x7fffffffffffffffffffffffffffffffffffffffffffffffffffffffff
  have h := Keeps.refl 7053311 0x7fffffffffffffffffffffffffffffffffffffffffffffffffffffffff s.dev
  repeat' first
    | with_reducible assumption | exact hm.sub (by decide) | exact hu.sub (by decide) | intro _
    | with_reducible apply opGbOffCounted_keeps | with_reducible apply keeps_ite | split

theorem keeps_vsupLost (low s) : RowKeeps 15437823 0x7fffffffffffffffffffffffffffffffffffffffffffffffffffffffff (.vsupLost low) s := by
  refine ⟨_, rfl, ?_⟩
  have hm := Within.refl 15437823
  have hu := Within.refl 0x7fffffffffffffffffffffffffffffffffffffffffffffffffffffffff
  have h := Keeps.refl 15437823 0x7fffffffffffffffffffffffffffffffffffffffffffffffffffffffff s.dev
  repeat' first
    | with_reducible assumption | exact hm.sub (by decide) | exact hu.sub (by decide) | intro _
    | with_reducible apply opVsupLost_keeps | with_reducible apply traceComp_keeps | with_reducible apply keeps_ite | split

theorem keeps_vsupLostInReset (low energy s) : RowKeeps 33 0x220000000000000000000000 (.vsupLostInReset low energy) s := by
  refine ⟨_, rfl, ?_⟩
  have hm := Within.refl 33
  have hu := Within.refl 0x220000000000000000000000
  have h := Keeps.refl 33 0x220000000000000000000000 s.dev
  repeat' first
    | with_reducible assumption | exact hm.sub (by decide) | exact hu.sub (by decide) | intro _
    | with_reducible apply opVsupLostInReset_keeps | with_reducible apply keeps_ite | split

theorem keeps_vsupBack (s) : RowKeeps 7049127 0x7fffffffffffffffffffffffffffffffffffffffffffffffffffffffff .vsupBack s := by
  refine ⟨_, rfl, ?_⟩
  have hm := Within.refl 7049127
  have hu := Within.refl 0x7fffffffffffffffffffffffffffffffffffffffffffffffffffffffff
  have h := Keeps.refl 7049127 0x7fffffffffffffffffffffffffffffffffffffffffffffffffffffffff s.dev
  repeat' first
    | with_reducible assumption | exact hm.sub (by decide) | exact hu.sub (by decide) | intro _
    | with_reducible apply opVsupBack_keeps | with_reducible apply keeps_ite | split

theorem keeps_handbackDone (s) : RowKeeps 265729 0x800000000040000000000002c0000000220000000000000000000000 .handbackDone s := by
  refine ⟨_, rfl, ?_⟩
  have hm := Within.refl 265729
  have hu := Within.refl 0x800000000040000000000002c0000000220000000000000000000000
  have h := Keeps.refl 265729 0x800000000040000000000002c0000000220000000000000000000000 s.dev
  repeat' first
    | with_reducible assumption | exact hm.sub (by decide) | exact hu.sub (by decide) | intro _
    | with_reducible apply opHandbackDone_keeps | with_reducible apply keeps_ite | split

theorem keeps_chargeResume (s) : RowKeeps 265729 0x800000000040000000000002c0000000260000000000000000000000 .chargeResume s := by
  refine ⟨_, rfl, ?_⟩
  have hm := Within.refl 265729
  have hu := Within.refl 0x800000000040000000000002c0000000260000000000000000000000
  have h := Keeps.refl 265729 0x800000000040000000000002c0000000260000000000000000000000 s.dev
  repeat' first
    | with_reducible assumption | exact hm.sub (by decide) | exact hu.sub (by decide) | intro _
    | with_reducible apply opChargeResume_keeps | with_reducible apply keeps_ite | split

theorem keeps_idgReverse (low s) : RowKeeps 1 0x220000000000000000000000 (.idgReverse low) s := by
  refine ⟨_, rfl, ?_⟩
  have hm := Within.refl 1
  have hu := Within.refl 0x220000000000000000000000
  have h := Keeps.refl 1 0x220000000000000000000000 s.dev
  repeat' first
    | with_reducible assumption | exact hm.sub (by decide) | exact hu.sub (by decide) | intro _
    | with_reducible apply opIdgReverse_keeps | with_reducible apply keeps_ite | split

theorem keeps_idgForward (s) : RowKeeps 1 0x220000000000000000000000 .idgForward s := by
  refine ⟨_, rfl, ?_⟩
  have hm := Within.refl 1
  have hu := Within.refl 0x220000000000000000000000
  have h := Keeps.refl 1 0x220000000000000000000000 s.dev
  repeat' first
    | with_reducible assumption | exact hm.sub (by decide) | exact hu.sub (by decide) | intro _
    | with_reducible apply opIdgForward_keeps | with_reducible apply keeps_ite | split

theorem keeps_packCutoff (s) : RowKeeps 364033 0x800000000040088000000002c00001ec220000000000000000000000 .packCutoff s := by
  refine ⟨_, rfl, ?_⟩
  have hm := Within.refl 364033
  have hu := Within.refl 0x800000000040088000000002c00001ec220000000000000000000000
  have h := Keeps.refl 364033 0x800000000040088000000002c00001ec220000000000000000000000 s.dev
  repeat' first
    | with_reducible assumption | exact hm.sub (by decide) | exact hu.sub (by decide) | intro _
    | with_reducible apply opPackCutoff_keeps | with_reducible apply keeps_ite | split

theorem keeps_cutoffReenable (s) : RowKeeps 262145 0x220000000000000000000000 .cutoffReenable s := by
  refine ⟨_, rfl, ?_⟩
  have hm := Within.refl 262145
  have hu := Within.refl 0x220000000000000000000000
  have h := Keeps.refl 262145 0x220000000000000000000000 s.dev
  repeat' first
    | with_reducible assumption | exact hm.sub (by decide) | exact hu.sub (by decide) | intro _
    | with_reducible apply opCutoffReenable_keeps | with_reducible apply keeps_ite | split

theorem keeps_packRemoved (ov s) : RowKeeps 10980865 0x8000000002c0088000000002c00005ec360000000000000000000080 (.packRemoved ov) s := by
  refine ⟨_, rfl, ?_⟩
  have hm := Within.refl 10980865
  have hu := Within.refl 0x8000000002c0088000000002c00005ec360000000000000000000080
  have h := Keeps.refl 10980865 0x8000000002c0088000000002c00005ec360000000000000000000080 s.dev
  repeat' first
    | with_reducible assumption | exact hm.sub (by decide) | exact hu.sub (by decide) | intro _
    | with_reducible apply opPackRemoved_keeps | with_reducible apply traceRemoval_keeps | with_reducible apply keeps_ite | split

theorem keeps_packInserted (s) : RowKeeps 2362881 0x800000000040000000000002c0000000360000000000000000000000 .packInserted s := by
  refine ⟨_, rfl, ?_⟩
  have hm := Within.refl 2362881
  have hu := Within.refl 0x800000000040000000000002c0000000360000000000000000000000
  have h := Keeps.refl 2362881 0x800000000040000000000002c0000000360000000000000000000000 s.dev
  repeat' first
    | with_reducible assumption | exact hm.sub (by decide) | exact hu.sub (by decide) | intro _
    | with_reducible apply opPackInserted_keeps | with_reducible apply traceComp_keeps | with_reducible apply keeps_ite | split

theorem keeps_bkFault (s) : RowKeeps 10849793 0x800000000040088000000002c00001ec360000000000000000000000 .bkFault s := by
  refine ⟨_, rfl, ?_⟩
  have hm := Within.refl 10849793
  have hu := Within.refl 0x800000000040088000000002c00001ec360000000000000000000000
  have h := Keeps.refl 10849793 0x800000000040088000000002c00001ec360000000000000000000000 s.dev
  repeat' first
    | with_reducible assumption | exact hm.sub (by decide) | exact hu.sub (by decide) | intro _
    | with_reducible apply opBkFault_keeps | with_reducible apply traceStage_keeps | with_reducible apply keeps_ite | split

theorem keeps_unanchoredHoldupEnd (s) : RowKeeps 7049215 0x7fffffffffffffffffffffffffffffffffffffffffffffffffffffffff .unanchoredHoldupEnd s := by
  refine ⟨_, rfl, ?_⟩
  have hm := Within.refl 7049215
  have hu := Within.refl 0x7fffffffffffffffffffffffffffffffffffffffffffffffffffffffff
  have h := Keeps.refl 7049215 0x7fffffffffffffffffffffffffffffffffffffffffffffffffffffffff s.dev
  repeat' first
    | with_reducible assumption | exact hm.sub (by decide) | exact hu.sub (by decide) | intro _
    | with_reducible apply opUnanchoredEnd_keeps | with_reducible apply keeps_ite | split

theorem keeps_boostIlim (beyond us s) : RowKeeps 3585 0x800000000040000000000002c0000000020000000000000000000000 (.boostIlim beyond us) s := by
  refine ⟨_, rfl, ?_⟩
  have hm := Within.refl 3585
  have hu := Within.refl 0x800000000040000000000002c0000000020000000000000000000000
  have h := Keeps.refl 3585 0x800000000040000000000002c0000000020000000000000000000000 s.dev
  repeat' first
    | with_reducible assumption | exact hm.sub (by decide) | exact hu.sub (by decide) | intro _
    | with_reducible apply opBoostIlim_keeps | with_reducible apply keeps_ite | split

theorem keeps_inputLimit (s) : RowKeeps 3585 0x800000000040000000000002c0000000000000000000000000000000 .inputLimit s := by
  refine ⟨_, rfl, ?_⟩
  have hm := Within.refl 3585
  have hu := Within.refl 0x800000000040000000000002c0000000000000000000000000000000
  have h := Keeps.refl 3585 0x800000000040000000000002c0000000000000000000000000000000 s.dev
  repeat' first
    | with_reducible assumption | exact hm.sub (by decide) | exact hu.sub (by decide) | intro _
    | with_reducible apply opInputLimit_keeps | with_reducible apply keeps_ite | split

theorem keeps_chargerTick (lim amps s) : RowKeeps 396801 0x800000000040000000000002c00000003e0000000000000000000000 (.chargerTick lim amps) s := by
  refine ⟨_, rfl, ?_⟩
  have hm := Within.refl 396801
  have hu := Within.refl 0x800000000040000000000002c00000003e0000000000000000000000
  have h := Keeps.refl 396801 0x800000000040000000000002c00000003e0000000000000000000000 s.dev
  repeat' first
    | with_reducible assumption | exact hm.sub (by decide) | exact hu.sub (by decide) | intro _
    | with_reducible apply opChargerTick_keeps | with_reducible apply keeps_ite | split

theorem keeps_packNtcConversion (short s) : RowKeeps 265729 0x800000000040000000000002c0000000100000000000000000000000 (.packNtcConversion short) s := by
  refine ⟨_, rfl, ?_⟩
  have hm := Within.refl 265729
  have hu := Within.refl 0x800000000040000000000002c0000000100000000000000000000000
  have h := Keeps.refl 265729 0x800000000040000000000002c0000000100000000000000000000000 s.dev
  repeat' first
    | with_reducible assumption | exact hm.sub (by decide) | exact hu.sub (by decide) | intro _
    | with_reducible apply opPackNtcConversion_keeps | with_reducible apply keeps_ite | split

theorem keeps_chgDone (removed s) : RowKeeps 10980865 0x8000000002c0088000000002c0000dfc360000000000000000000080 (.chgDone removed) s := by
  refine ⟨_, rfl, ?_⟩
  have hm := Within.refl 10980865
  have hu := Within.refl 0x8000000002c0088000000002c0000dfc360000000000000000000080
  have h := Keeps.refl 10980865 0x8000000002c0088000000002c0000dfc360000000000000000000080 s.dev
  repeat' first
    | with_reducible assumption | exact hm.sub (by decide) | exact hu.sub (by decide) | intro _
    | with_reducible apply opChgDone_keeps | with_reducible apply keeps_ite | split

theorem keeps_chgTimeout (s) : RowKeeps 10489345 0x8000000002c0000000000002c0000000100000000000000000000000 .chgTimeout s := by
  refine ⟨_, rfl, ?_⟩
  have hm := Within.refl 10489345
  have hu := Within.refl 0x8000000002c0000000000002c0000000100000000000000000000000
  have h := Keeps.refl 10489345 0x8000000002c0000000000002c0000000100000000000000000000000 s.dev
  repeat' first
    | with_reducible assumption | exact hm.sub (by decide) | exact hu.sub (by decide) | intro _
    | with_reducible apply opChgTimeout_keeps | with_reducible apply keeps_ite | split

theorem keeps_chgWdExpired (s) : RowKeeps 265753 0x800000000040000000000002c0000000140000000000000000000000 .chgWdExpired s := by
  refine ⟨_, rfl, ?_⟩
  have hm := Within.refl 265753
  have hu := Within.refl 0x800000000040000000000002c0000000140000000000000000000000
  have h := Keeps.refl 265753 0x800000000040000000000002c0000000140000000000000000000000 s.dev
  repeat' first
    | with_reducible assumption | exact hm.sub (by decide) | exact hu.sub (by decide) | intro _
    | with_reducible apply opChgWdExpired_keeps | with_reducible apply keeps_ite | split

theorem keeps_gaugeConversion (nv s) : RowKeeps 15437823 0x7fffffffffffffffffffffffffffffffffffffffffffffffffffffffff (.gaugeConversion nv) s := by
  refine ⟨_, rfl, ?_⟩
  have hm := Within.refl 15437823
  have hu := Within.refl 0x7fffffffffffffffffffffffffffffffffffffffffffffffffffffffff
  have h := Keeps.refl 15437823 0x7fffffffffffffffffffffffffffffffffffffffffffffffffffffffff s.dev
  repeat' first
    | with_reducible assumption | exact hm.sub (by decide) | exact hu.sub (by decide) | intro _
    | with_reducible apply opGaugeConversion_keeps | with_reducible apply keeps_ite | split

theorem keeps_quietConversion (nv s) : RowKeeps 15437823 0x7fffffffffffffffffffffffffffffffffffffffffffffffffffffffff (.quietConversion nv) s := by
  refine ⟨_, rfl, ?_⟩
  have hm := Within.refl 15437823
  have hu := Within.refl 0x7fffffffffffffffffffffffffffffffffffffffffffffffffffffffff
  have h := Keeps.refl 15437823 0x7fffffffffffffffffffffffffffffffffffffffffffffffffffffffff s.dev
  repeat' first
    | with_reducible assumption | exact hm.sub (by decide) | exact hu.sub (by decide) | intro _
    | with_reducible apply opQuietConversion_keeps | with_reducible apply keeps_ite | split

theorem keeps_quietExit (s) : RowKeeps 15437823 0x7fffffffffffffffffffffffffffffffffffffffffffffffffffffffff .quietExit s := by
  refine ⟨_, rfl, ?_⟩
  have hm := Within.refl 15437823
  have hu := Within.refl 0x7fffffffffffffffffffffffffffffffffffffffffffffffffffffffff
  have h := Keeps.refl 15437823 0x7fffffffffffffffffffffffffffffffffffffffffffffffffffffffff s.dev
  repeat' first
    | with_reducible assumption | exact hm.sub (by decide) | exact hu.sub (by decide) | intro _
    | with_reducible apply opQuietExit_keeps | with_reducible apply keeps_ite | split

theorem keeps_emptyRearm (s) : RowKeeps 131072 0x0 .emptyRearm s := by
  refine ⟨_, rfl, ?_⟩
  have hm := Within.refl 131072
  have hu := Within.refl 0x0
  have h := Keeps.refl 131072 0x0 s.dev
  repeat' first
    | with_reducible assumption | exact hm.sub (by decide) | exact hu.sub (by decide) | intro _
    | with_reducible apply opEmptyRearm_keeps | with_reducible apply keeps_ite | split

theorem keeps_reserveRecompute (s) : RowKeeps 15437823 0x7fffffffffffffffffffffffffffffffffffffffffffffffffffffffff .reserveRecompute s := by
  refine ⟨_, rfl, ?_⟩
  have hm := Within.refl 15437823
  have hu := Within.refl 0x7fffffffffffffffffffffffffffffffffffffffffffffffffffffffff
  have h := Keeps.refl 15437823 0x7fffffffffffffffffffffffffffffffffffffffffffffffffffffffff s.dev
  repeat' first
    | with_reducible assumption | exact hm.sub (by decide) | exact hu.sub (by decide) | intro _
    | with_reducible apply opReserveRecompute_keeps | with_reducible apply keeps_ite | split

theorem keeps_gaugeCheckpoint (s) : RowKeeps 131072 0x0 .gaugeCheckpoint s := by
  refine ⟨_, rfl, ?_⟩
  have hm := Within.refl 131072
  have hu := Within.refl 0x0
  have h := Keeps.refl 131072 0x0 s.dev
  repeat' first
    | with_reducible assumption | exact hm.sub (by decide) | exact hu.sub (by decide) | intro _
    | with_reducible apply opGaugeCheckpoint_keeps | with_reducible apply keeps_ite | split

theorem keeps_thermalSample (mask s) : RowKeeps 15466495 0x7fffffffffffffffffffffffffffffffffffffffffffffffffffffffff (.thermalSample mask) s := by
  refine ⟨_, rfl, ?_⟩
  have hm := Within.refl 15466495
  have hu := Within.refl 0x7fffffffffffffffffffffffffffffffffffffffffffffffffffffffff
  have h := Keeps.refl 15466495 0x7fffffffffffffffffffffffffffffffffffffffffffffffffffffffff s.dev
  repeat' first
    | with_reducible assumption | exact hm.sub (by decide) | exact hu.sub (by decide) | intro _
    | with_reducible apply opThermalSample_keeps | with_reducible apply keeps_ite | split

theorem keeps_adcConversionEnd (c v beyond req raw s) : RowKeeps 15441919 0x7fffffffffffffffffffffffffffffffffffffffffffffffffffffffff (.adcConversionEnd c v beyond req raw) s := by
  refine ⟨_, rfl, ?_⟩
  have hm := Within.refl 15441919
  have hu := Within.refl 0x7fffffffffffffffffffffffffffffffffffffffffffffffffffffffff
  have h := Keeps.refl 15441919 0x7fffffffffffffffffffffffffffffffffffffffffffffffffffffffff s.dev
  repeat' first
    | with_reducible assumption | exact hm.sub (by decide) | exact hu.sub (by decide) | intro _
    | with_reducible apply opConversionEnd_keeps | with_reducible apply keeps_ite | split

theorem keeps_adcListPass (c s) : RowKeeps 7681 0x800000000040000000000002c4000000000000000000000000000000 (.adcListPass c) s := by
  refine ⟨_, rfl, ?_⟩
  have hm := Within.refl 7681
  have hu := Within.refl 0x800000000040000000000002c4000000000000000000000000000000
  have h := Keeps.refl 7681 0x800000000040000000000002c4000000000000000000000000000000 s.dev
  repeat' first
    | with_reducible assumption | exact hm.sub (by decide) | exact hu.sub (by decide) | intro _
    | with_reducible apply opAdcListPass_keeps | with_reducible apply keeps_ite | split

theorem keeps_adcCalibration (c s) : RowKeeps 4097 0x4000000000000000000000020000000 (.adcCalibration c) s := by
  refine ⟨_, rfl, ?_⟩
  have hm := Within.refl 4097
  have hu := Within.refl 0x4000000000000000000000020000000
  have h := Keeps.refl 4097 0x4000000000000000000000020000000 s.dev
  repeat' first
    | with_reducible assumption | exact hm.sub (by decide) | exact hu.sub (by decide) | intro _
    | with_reducible apply opCalibration_keeps | with_reducible apply keeps_ite | split

theorem keeps_adcCalibrationEnd (c gain offset half s) : RowKeeps 24089 0x800000000040000000000002cc000000000000000000000020000000 (.adcCalibrationEnd c gain offset half) s := by
  refine ⟨_, rfl, ?_⟩
  have hm := Within.refl 24089
  have hu := Within.refl 0x800000000040000000000002cc000000000000000000000020000000
  have h := Keeps.refl 24089 0x800000000040000000000002cc000000000000000000000020000000 s.dev
  repeat' first
    | with_reducible assumption | exact hm.sub (by decide) | exact hu.sub (by decide) | intro _
    | with_reducible apply opCalibrationEnd_keeps | with_reducible apply keeps_ite | split

theorem keeps_adcConvertTimeout (ch s) : RowKeeps 3609 0x800000000040000000000002c0000000000000000000000000000000 (.adcConvertTimeout ch) s := by
  refine ⟨_, rfl, ?_⟩
  have hm := Within.refl 3609
  have hu := Within.refl 0x800000000040000000000002c0000000000000000000000000000000
  have h := Keeps.refl 3609 0x800000000040000000000002c0000000000000000000000000000000 s.dev
  repeat' first
    | with_reducible assumption | exact hm.sub (by decide) | exact hu.sub (by decide) | intro _
    | with_reducible apply opAdcConvertTimeout_keeps | with_reducible apply keeps_ite | split

theorem keeps_coalesceTimeout (g s) : RowKeeps 3609 0x800000000040000000000002c0000000000000000000000000000000 (.coalesceTimeout g) s := by
  refine ⟨_, rfl, ?_⟩
  have hm := Within.refl 3609
  have hu := Within.refl 0x800000000040000000000002c0000000000000000000000000000000
  have h := Keeps.refl 3609 0x800000000040000000000002c0000000000000000000000000000000 s.dev
  repeat' first
    | with_reducible assumption | exact hm.sub (by decide) | exact hu.sub (by decide) | intro _
    | with_reducible apply opCoalesceTimeout_keeps | with_reducible apply keeps_ite | split

theorem keeps_packetIssue (pick s) : RowKeeps 8392193 0x800000000040400000000002c0000000000000000000000000000000 (.packetIssue pick) s := by
  refine ⟨_, rfl, ?_⟩
  have hm := Within.refl 8392193
  have hu := Within.refl 0x800000000040400000000002c0000000000000000000000000000000
  have h := Keeps.refl 8392193 0x800000000040400000000002c0000000000000000000000000000000 s.dev
  repeat' first
    | with_reducible assumption | exact hm.sub (by decide) | exact hu.sub (by decide) | intro _
    | with_reducible apply issueOne_keeps | with_reducible apply keeps_ite | split

theorem keeps_packetStart (k env s) : RowKeeps 16777215 0xffffffffffffffffffffffffffffffffffffffffffffffffffffffffff (.packetStart k env) s := by
  refine ⟨_, rfl, ?_⟩
  have hm := Within.refl 16777215
  have hu := Within.refl 0xffffffffffffffffffffffffffffffffffffffffffffffffffffffffff
  have h := Keeps.refl 16777215 0xffffffffffffffffffffffffffffffffffffffffffffffffffffffffff s.dev
  repeat' first
    | with_reducible assumption | exact hm.sub (by decide) | exact hu.sub (by decide) | intro _
    | with_reducible apply opPacketStart_keeps | with_reducible apply keeps_ite | split

theorem keeps_duplicateRejudge (q s) : RowKeeps 8392193 0x800000000040400000000002c0000000000000000000000000000000 (.duplicateRejudge q) s := by
  refine ⟨_, rfl, ?_⟩
  have hm := Within.refl 8392193
  have hu := Within.refl 0x800000000040400000000002c0000000000000000000000000000000
  have h := Keeps.refl 8392193 0x800000000040400000000002c0000000000000000000000000000000 s.dev
  repeat' first
    | with_reducible assumption | exact hm.sub (by decide) | exact hu.sub (by decide) | intro _
    | with_reducible apply rejudge_keeps | with_reducible apply keeps_ite | split

theorem keeps_completionStall (s) : RowKeeps 3609 0x800000000040000000000002c0000000000000000000000000000000 .completionStall s := by
  refine ⟨_, rfl, ?_⟩
  have hm := Within.refl 3609
  have hu := Within.refl 0x800000000040000000000002c0000000000000000000000000000000
  have h := Keeps.refl 3609 0x800000000040000000000002c0000000000000000000000000000000 s.dev
  repeat' first
    | with_reducible assumption | exact hm.sub (by decide) | exact hu.sub (by decide) | intro _
    | with_reducible apply opCompletionStall_keeps | with_reducible apply keeps_ite | split

theorem keeps_frameStartTx (s) : RowKeeps 15437823 0x7fffffffffffffffffffffffffffffffffffffffffffffffffffffffff .frameStartTx s := by
  refine ⟨_, rfl, ?_⟩
  have hm := Within.refl 15437823
  have hu := Within.refl 0x7fffffffffffffffffffffffffffffffffffffffffffffffffffffffff
  have h := Keeps.refl 15437823 0x7fffffffffffffffffffffffffffffffffffffffffffffffffffffffff s.dev
  repeat' first
    | with_reducible assumption | exact hm.sub (by decide) | exact hu.sub (by decide) | intro _
    | with_reducible apply opFrameStartTx_keeps | with_reducible apply keeps_ite | split

theorem keeps_frameStartRx (fn off spaced s) : RowKeeps 15437823 0x7fffffffffffffffffffffffffffffffffffffffffffffffffffffffff (.frameStartRx fn off spaced) s := by
  refine ⟨_, rfl, ?_⟩
  have hm := Within.refl 15437823
  have hu := Within.refl 0x7fffffffffffffffffffffffffffffffffffffffffffffffffffffffff
  have h := Keeps.refl 15437823 0x7fffffffffffffffffffffffffffffffffffffffffffffffffffffffff s.dev
  repeat' first
    | with_reducible assumption | exact hm.sub (by decide) | exact hu.sub (by decide) | intro _
    | with_reducible apply opFrameStartRx_keeps | with_reducible apply traceEntry_keeps | with_reducible apply keeps_ite | split

theorem keeps_slotTx (abandoned s) : RowKeeps 15437823 0x7fffffffffffffffffffffffffffffffffffffffffffffffffffffffff (.slotTx abandoned) s := by
  refine ⟨_, rfl, ?_⟩
  have hm := Within.refl 15437823
  have hu := Within.refl 0x7fffffffffffffffffffffffffffffffffffffffffffffffffffffffff
  have h := Keeps.refl 15437823 0x7fffffffffffffffffffffffffffffffffffffffffffffffffffffffff s.dev
  repeat' first
    | with_reducible assumption | exact hm.sub (by decide) | exact hu.sub (by decide) | intro _
    | with_reducible apply opSlotTx_keeps | with_reducible apply keeps_ite | split

theorem keeps_slotError (a preempted s) : RowKeeps 36353 0x800000000040000010000002c0000000000000000000000000000000 (.slotError a preempted) s := by
  refine ⟨_, rfl, ?_⟩
  have hm := Within.refl 36353
  have hu := Within.refl 0x800000000040000010000002c0000000000000000000000000000000
  have h := Keeps.refl 36353 0x800000000040000010000002c0000000000000000000000000000000 s.dev
  repeat' first
    | with_reducible assumption | exact hm.sub (by decide) | exact hu.sub (by decide) | intro _
    | with_reducible apply opSlotError_keeps | with_reducible apply keeps_ite | split

theorem keeps_status (a mode flags p1 s) : RowKeeps 15437823 0x7fffffffffffffffffffffffffffffffffffffffffffffffffffffffff (.status a mode flags p1) s := by
  refine ⟨_, rfl, ?_⟩
  have hm := Within.refl 15437823
  have hu := Within.refl 0x7fffffffffffffffffffffffffffffffffffffffffffffffffffffffff
  have h := Keeps.refl 15437823 0x7fffffffffffffffffffffffffffffffffffffffffffffffffffffffff s.dev
  repeat' first
    | with_reducible assumption | exact hm.sub (by decide) | exact hu.sub (by decide) | intro _
    | with_reducible apply opStatus_keeps | with_reducible apply traceSlot_keeps | with_reducible apply drawn_keeps | with_reducible apply keeps_ite | split

theorem keeps_presence (a mode major compat features s) : RowKeeps 15437823 0x7fffffffffffffffffffffffffffffffffffffffffffffffffffffffff (.presence a mode major compat features) s := by
  refine ⟨_, rfl, ?_⟩
  have hm := Within.refl 15437823
  have hu := Within.refl 0x7fffffffffffffffffffffffffffffffffffffffffffffffffffffffff
  have h := Keeps.refl 15437823 0x7fffffffffffffffffffffffffffffffffffffffffffffffffffffffff s.dev
  repeat' first
    | with_reducible assumption | exact hm.sub (by decide) | exact hu.sub (by decide) | intro _
    | with_reducible apply opPresence_keeps | with_reducible apply traceSlot_keeps | with_reducible apply drawn_keeps | with_reducible apply keeps_ite | split

theorem keeps_digest (a mode digest s) : RowKeeps 15437823 0x7fffffffffffffffffffffffffffffffffffffffffffffffffffffffff (.digest a mode digest) s := by
  refine ⟨_, rfl, ?_⟩
  have hm := Within.refl 15437823
  have hu := Within.refl 0x7fffffffffffffffffffffffffffffffffffffffffffffffffffffffff
  have h := Keeps.refl 15437823 0x7fffffffffffffffffffffffffffffffffffffffffffffffffffffffff s.dev
  repeat' first
    | with_reducible assumption | exact hm.sub (by decide) | exact hu.sub (by decide) | intro _
    | with_reducible apply opDigest_keeps | with_reducible apply traceSlot_keeps | with_reducible apply keeps_ite | split

theorem keeps_calReq (a mode seq err s) : RowKeeps 15437823 0x7fffffffffffffffffffffffffffffffffffffffffffffffffffffffff (.calReq a mode seq err) s := by
  refine ⟨_, rfl, ?_⟩
  have hm := Within.refl 15437823
  have hu := Within.refl 0x7fffffffffffffffffffffffffffffffffffffffffffffffffffffffff
  have h := Keeps.refl 15437823 0x7fffffffffffffffffffffffffffffffffffffffffffffffffffffffff s.dev
  repeat' first
    | with_reducible assumption | exact hm.sub (by decide) | exact hu.sub (by decide) | intro _
    | with_reducible apply opCalReq_keeps | with_reducible apply traceSlot_keeps | with_reducible apply keeps_ite | split

theorem keeps_calResp (a mode target kind v s) : RowKeeps 15437823 0x7fffffffffffffffffffffffffffffffffffffffffffffffffffffffff (.calResp a mode target kind v) s := by
  refine ⟨_, rfl, ?_⟩
  have hm := Within.refl 15437823
  have hu := Within.refl 0x7fffffffffffffffffffffffffffffffffffffffffffffffffffffffff
  have h := Keeps.refl 15437823 0x7fffffffffffffffffffffffffffffffffffffffffffffffffffffffff s.dev
  repeat' first
    | with_reducible assumption | exact hm.sub (by decide) | exact hu.sub (by decide) | intro _
    | with_reducible apply opCalResp_keeps | with_reducible apply traceSlot_keeps | with_reducible apply drawn_keeps | with_reducible apply keeps_ite | split

theorem keeps_guardExchange (a rtt s) : RowKeeps 32768 0x0 (.guardExchange a rtt) s := by
  refine ⟨_, rfl, ?_⟩
  have hm := Within.refl 32768
  have hu := Within.refl 0x0
  have h := Keeps.refl 32768 0x0 s.dev
  repeat' first
    | with_reducible assumption | exact hm.sub (by decide) | exact hu.sub (by decide) | intro _
    | with_reducible apply opGuardExchange_keeps | with_reducible apply keeps_ite | split

theorem keeps_disciplined (s) : RowKeeps 15437823 0x7fffffffffffffffffffffffffffffffffffffffffffffffffffffffff .disciplined s := by
  refine ⟨_, rfl, ?_⟩
  have hm := Within.refl 15437823
  have hu := Within.refl 0x7fffffffffffffffffffffffffffffffffffffffffffffffffffffffff
  have h := Keeps.refl 15437823 0x7fffffffffffffffffffffffffffffffffffffffffffffffffffffffff s.dev
  repeat' first
    | with_reducible assumption | exact hm.sub (by decide) | exact hu.sub (by decide) | intro _
    | with_reducible apply opDisciplined_keeps | with_reducible apply keeps_ite | split

theorem keeps_holderElection (s) : RowKeeps 36377 0x800000000040000041c00002c0000000000000000000000000000000 .holderElection s := by
  refine ⟨_, rfl, ?_⟩
  have hm := Within.refl 36377
  have hu := Within.refl 0x800000000040000041c00002c0000000000000000000000000000000
  have h := Keeps.refl 36377 0x800000000040000041c00002c0000000000000000000000000000000 s.dev
  repeat' first
    | with_reducible assumption | exact hm.sub (by decide) | exact hu.sub (by decide) | intro _
    | with_reducible apply opHolderElection_keeps | with_reducible apply keeps_ite | split

theorem keeps_holderHandover (s) : RowKeeps 36353 0x800000000040000041c00002c0000000000000000000000000000000 .holderHandover s := by
  refine ⟨_, rfl, ?_⟩
  have hm := Within.refl 36353
  have hu := Within.refl 0x800000000040000041c00002c0000000000000000000000000000000
  have h := Keeps.refl 36353 0x800000000040000041c00002c0000000000000000000000000000000 s.dev
  repeat' first
    | with_reducible assumption | exact hm.sub (by decide) | exact hu.sub (by decide) | intro _
    | with_reducible apply opHolderHandover_keeps | with_reducible apply keeps_ite | split

theorem keeps_holderLost (s) : RowKeeps 36353 0x800000000040000000400002c0000000000000000000000000000000 .holderLost s := by
  refine ⟨_, rfl, ?_⟩
  have hm := Within.refl 36353
  have hu := Within.refl 0x800000000040000000400002c0000000000000000000000000000000
  have h := Keeps.refl 36353 0x800000000040000000400002c0000000000000000000000000000000 s.dev
  repeat' first
    | with_reducible assumption | exact hm.sub (by decide) | exact hu.sub (by decide) | intro _
    | with_reducible apply opHolderLost_keeps | with_reducible apply keeps_ite | split

theorem keeps_holderChange (s) : RowKeeps 36353 0x800000000040000041c00002c0000000000000000000000000000000 .holderChange s := by
  refine ⟨_, rfl, ?_⟩
  have hm := Within.refl 36353
  have hu := Within.refl 0x800000000040000041c00002c0000000000000000000000000000000
  have h := Keeps.refl 36353 0x800000000040000041c00002c0000000000000000000000000000000 s.dev
  repeat' first
    | with_reducible assumption | exact hm.sub (by decide) | exact hu.sub (by decide) | intro _
    | with_reducible apply opHolderChange_keeps | with_reducible apply keeps_ite | split

theorem keeps_holdoverLimit (s) : RowKeeps 15437823 0x7fffffffffffffffffffffffffffffffffffffffffffffffffffffffff .holdoverLimit s := by
  refine ⟨_, rfl, ?_⟩
  have hm := Within.refl 15437823
  have hu := Within.refl 0x7fffffffffffffffffffffffffffffffffffffffffffffffffffffffff
  have h := Keeps.refl 15437823 0x7fffffffffffffffffffffffffffffffffffffffffffffffffffffffff s.dev
  repeat' first
    | with_reducible assumption | exact hm.sub (by decide) | exact hu.sub (by decide) | intro _
    | with_reducible apply opHoldoverLimit_keeps | with_reducible apply keeps_ite | split

theorem keeps_memberLost (a s) : RowKeeps 15437823 0x7fffffffffffffffffffffffffffffffffffffffffffffffffffffffff (.memberLost a) s := by
  refine ⟨_, rfl, ?_⟩
  have hm := Within.refl 15437823
  have hu := Within.refl 0x7fffffffffffffffffffffffffffffffffffffffffffffffffffffffff
  have h := Keeps.refl 15437823 0x7fffffffffffffffffffffffffffffffffffffffffffffffffffffffff s.dev
  repeat' first
    | with_reducible assumption | exact hm.sub (by decide) | exact hu.sub (by decide) | intro _
    | with_reducible apply opMemberLost_keeps | with_reducible apply keeps_ite | split

theorem keeps_addrConflict (s) : RowKeeps 3585 0x800000000040000000400002c0000000000000000000000000000000 .addrConflict s := by
  refine ⟨_, rfl, ?_⟩
  have hm := Within.refl 3585
  have hu := Within.refl 0x800000000040000000400002c0000000000000000000000000000000
  have h := Keeps.refl 3585 0x800000000040000000400002c0000000000000000000000000000000 s.dev
  repeat' first
    | with_reducible assumption | exact hm.sub (by decide) | exact hu.sub (by decide) | intro _
    | with_reducible apply opAddrConflict_keeps | with_reducible apply keeps_ite | split

theorem keeps_linkDead (s) : RowKeeps 15437823 0x7fffffffffffffffffffffffffffffffffffffffffffffffffffffffff .linkDead s := by
  refine ⟨_, rfl, ?_⟩
  have hm := Within.refl 15437823
  have hu := Within.refl 0x7fffffffffffffffffffffffffffffffffffffffffffffffffffffffff
  have h := Keeps.refl 15437823 0x7fffffffffffffffffffffffffffffffffffffffffffffffffffffffff s.dev
  repeat' first
    | with_reducible assumption | exact hm.sub (by decide) | exact hu.sub (by decide) | intro _
    | with_reducible apply opLinkDead_keeps | with_reducible apply keeps_ite | split

theorem keeps_urgentReinsert (s) : RowKeeps 36353 0x800000000040000008000002c0000000000000000000000000000000 .urgentReinsert s := by
  refine ⟨_, rfl, ?_⟩
  have hm := Within.refl 36353
  have hu := Within.refl 0x800000000040000008000002c0000000000000000000000000000000
  have h := Keeps.refl 36353 0x800000000040000008000002c0000000000000000000000000000000 s.dev
  repeat' first
    | with_reducible assumption | exact hm.sub (by decide) | exact hu.sub (by decide) | intro _
    | with_reducible apply opUrgentReinsert_keeps | with_reducible apply keeps_ite | split

theorem keeps_fault (data fn sym s) : RowKeeps 15437823 0x7fffffffffffffffffffffffffffffffffffffffffffffffffffffffff (.fault data fn sym) s := by
  refine ⟨_, rfl, ?_⟩
  have hm := Within.refl 15437823
  have hu := Within.refl 0x7fffffffffffffffffffffffffffffffffffffffffffffffffffffffff
  have h := Keeps.refl 15437823 0x7fffffffffffffffffffffffffffffffffffffffffffffffffffffffff s.dev
  repeat' first
    | with_reducible assumption | exact hm.sub (by decide) | exact hu.sub (by decide) | intro _
    | with_reducible apply opUrgent_keeps | with_reducible apply traceUrgent_keeps | with_reducible apply keeps_ite | split

theorem keeps_descendInsertion (data fn sym s) : RowKeeps 15437823 0x7fffffffffffffffffffffffffffffffffffffffffffffffffffffffff (.descendInsertion data fn sym) s := by
  refine ⟨_, rfl, ?_⟩
  have hm := Within.refl 15437823
  have hu := Within.refl 0x7fffffffffffffffffffffffffffffffffffffffffffffffffffffffff
  have h := Keeps.refl 15437823 0x7fffffffffffffffffffffffffffffffffffffffffffffffffffffffff s.dev
  repeat' first
    | with_reducible assumption | exact hm.sub (by decide) | exact hu.sub (by decide) | intro _
    | with_reducible apply opUrgent_keeps | with_reducible apply traceUrgent_keeps | with_reducible apply keeps_ite | split

theorem keeps_loss (data fn sym s) : RowKeeps 15437823 0x7fffffffffffffffffffffffffffffffffffffffffffffffffffffffff (.loss data fn sym) s := by
  refine ⟨_, rfl, ?_⟩
  have hm := Within.refl 15437823
  have hu := Within.refl 0x7fffffffffffffffffffffffffffffffffffffffffffffffffffffffff
  have h := Keeps.refl 15437823 0x7fffffffffffffffffffffffffffffffffffffffffffffffffffffffff s.dev
  repeat' first
    | with_reducible assumption | exact hm.sub (by decide) | exact hu.sub (by decide) | intro _
    | with_reducible apply opUrgent_keeps | with_reducible apply traceUrgent_keeps | with_reducible apply keeps_ite | split

theorem keeps_hold (data fn sym s) : RowKeeps 15437823 0x7fffffffffffffffffffffffffffffffffffffffffffffffffffffffff (.hold data fn sym) s := by
  refine ⟨_, rfl, ?_⟩
  have hm := Within.refl 15437823
  have hu := Within.refl 0x7fffffffffffffffffffffffffffffffffffffffffffffffffffffffff
  have h := Keeps.refl 15437823 0x7fffffffffffffffffffffffffffffffffffffffffffffffffffffffff s.dev
  repeat' first
    | with_reducible assumption | exact hm.sub (by decide) | exact hu.sub (by decide) | intro _
    | with_reducible apply opUrgent_keeps | with_reducible apply traceUrgent_keeps | with_reducible apply keeps_ite | split

theorem keeps_echoSlot (a mode kind data fn sym s) : RowKeeps 15437823 0x7fffffffffffffffffffffffffffffffffffffffffffffffffffffffff (.echoSlot a mode kind data fn sym) s := by
  refine ⟨_, rfl, ?_⟩
  have hm := Within.refl 15437823
  have hu := Within.refl 0x7fffffffffffffffffffffffffffffffffffffffffffffffffffffffff
  have h := Keeps.refl 15437823 0x7fffffffffffffffffffffffffffffffffffffffffffffffffffffffff s.dev
  repeat' first
    | with_reducible assumption | exact hm.sub (by decide) | exact hu.sub (by decide) | intro _
    | with_reducible apply opEcho_keeps | with_reducible apply traceSlot_keeps | with_reducible apply keeps_ite | split

theorem keeps_announceStart (a mode w1 w2 s) : RowKeeps 15437823 0x7fffffffffffffffffffffffffffffffffffffffffffffffffffffffff (.announceStart a mode w1 w2) s := by
  refine ⟨_, rfl, ?_⟩
  have hm := Within.refl 15437823
  have hu := Within.refl 0x7fffffffffffffffffffffffffffffffffffffffffffffffffffffffff
  have h := Keeps.refl 15437823 0x7fffffffffffffffffffffffffffffffffffffffffffffffffffffffff s.dev
  repeat' first
    | with_reducible assumption | exact hm.sub (by decide) | exact hu.sub (by decide) | intro _
    | with_reducible apply opAnnounceStart_keeps | with_reducible apply traceWords_keeps | with_reducible apply keeps_ite | split

theorem keeps_announceState (a mode w1 w2 s) : RowKeeps 15437823 0x7fffffffffffffffffffffffffffffffffffffffffffffffffffffffff (.announceState a mode w1 w2) s := by
  refine ⟨_, rfl, ?_⟩
  have hm := Within.refl 15437823
  have hu := Within.refl 0x7fffffffffffffffffffffffffffffffffffffffffffffffffffffffff
  have h := Keeps.refl 15437823 0x7fffffffffffffffffffffffffffffffffffffffffffffffffffffffff s.dev
  repeat' first
    | with_reducible assumption | exact hm.sub (by decide) | exact hu.sub (by decide) | intro _
    | with_reducible apply opAnnounceState_keeps | with_reducible apply traceWords_keeps | with_reducible apply keeps_ite | split

theorem keeps_announceDown (a mode w1 w2 s) : RowKeeps 15437823 0x7fffffffffffffffffffffffffffffffffffffffffffffffffffffffff (.announceDown a mode w1 w2) s := by
  refine ⟨_, rfl, ?_⟩
  have hm := Within.refl 15437823
  have hu := Within.refl 0x7fffffffffffffffffffffffffffffffffffffffffffffffffffffffff
  have h := Keeps.refl 15437823 0x7fffffffffffffffffffffffffffffffffffffffffffffffffffffffff s.dev
  repeat' first
    | with_reducible assumption | exact hm.sub (by decide) | exact hu.sub (by decide) | intro _
    | with_reducible apply opAnnounceDown_keeps | with_reducible apply traceWords_keeps | with_reducible apply keeps_ite | split

theorem keeps_agree (a mode w1 w2 s) : RowKeeps 15437823 0x7fffffffffffffffffffffffffffffffffffffffffffffffffffffffff (.agree a mode w1 w2) s := by
  refine ⟨_, rfl, ?_⟩
  have hm := Within.refl 15437823
  have hu := Within.refl 0x7fffffffffffffffffffffffffffffffffffffffffffffffffffffffff
  have h := Keeps.refl 15437823 0x7fffffffffffffffffffffffffffffffffffffffffffffffffffffffff s.dev
  repeat' first
    | with_reducible assumption | exact hm.sub (by decide) | exact hu.sub (by decide) | intro _
    | with_reducible apply opAgree_keeps | with_reducible apply traceWords_keeps | with_reducible apply keeps_ite | split

theorem keeps_startAnnounced (s) : RowKeeps 15437823 0x7fffffffffffffffffffffffffffffffffffffffffffffffffffffffff .startAnnounced s := by
  refine ⟨_, rfl, ?_⟩
  have hm := Within.refl 15437823
  have hu := Within.refl 0x7fffffffffffffffffffffffffffffffffffffffffffffffffffffffff
  have h := Keeps.refl 15437823 0x7fffffffffffffffffffffffffffffffffffffffffffffffffffffffff s.dev
  repeat' first
    | with_reducible assumption | exact hm.sub (by decide) | exact hu.sub (by decide) | intro _
    | with_reducible apply opStartAnnounced_keeps | with_reducible apply keeps_ite | split

theorem keeps_degradedStart (s) : RowKeeps 15437823 0x7fffffffffffffffffffffffffffffffffffffffffffffffffffffffff .degradedStart s := by
  refine ⟨_, rfl, ?_⟩
  have hm := Within.refl 15437823
  have hu := Within.refl 0x7fffffffffffffffffffffffffffffffffffffffffffffffffffffffff
  have h := Keeps.refl 15437823 0x7fffffffffffffffffffffffffffffffffffffffffffffffffffffffff s.dev
  repeat' first
    | with_reducible assumption | exact hm.sub (by decide) | exact hu.sub (by decide) | intro _
    | with_reducible apply opDegradedStart_keeps | with_reducible apply keeps_ite | split

theorem keeps_startTimeout (s) : RowKeeps 3737 0x800000000040000000000002c0000000000000000000000000000000 .startTimeout s := by
  refine ⟨_, rfl, ?_⟩
  have hm := Within.refl 3737
  have hu := Within.refl 0x800000000040000000000002c0000000000000000000000000000000
  have h := Keeps.refl 3737 0x800000000040000000000002c0000000000000000000000000000000 s.dev
  repeat' first
    | with_reducible assumption | exact hm.sub (by decide) | exact hu.sub (by decide) | intro _
    | with_reducible apply opStartTimeout_keeps | with_reducible apply keeps_ite | split

theorem keeps_timeAbort (s) : RowKeeps 7049215 0x7fffffffffffffffffffffffffffffffffffffffffffffffffffffffff .timeAbort s := by
  refine ⟨_, rfl, ?_⟩
  have hm := Within.refl 7049215
  have hu := Within.refl 0x7fffffffffffffffffffffffffffffffffffffffffffffffffffffffff
  have h := Keeps.refl 7049215 0x7fffffffffffffffffffffffffffffffffffffffffffffffffffffffff s.dev
  repeat' first
    | with_reducible assumption | exact hm.sub (by decide) | exact hu.sub (by decide) | intro _
    | with_reducible apply opTimeAbort_keeps | with_reducible apply keeps_ite | split

theorem keeps_noncompliant (a s) : RowKeeps 15437823 0x7fffffffffffffffffffffffffffffffffffffffffffffffffffffffff (.noncompliant a) s := by
  refine ⟨_, rfl, ?_⟩
  have hm := Within.refl 15437823
  have hu := Within.refl 0x7fffffffffffffffffffffffffffffffffffffffffffffffffffffffff
  have h := Keeps.refl 15437823 0x7fffffffffffffffffffffffffffffffffffffffffffffffffffffffff s.dev
  repeat' first
    | with_reducible assumption | exact hm.sub (by decide) | exact hu.sub (by decide) | intro _
    | with_reducible apply opNoncompliant_keeps | with_reducible apply keeps_ite | split

theorem keeps_offer (a mode w1 w2 s) : RowKeeps 15437823 0x7fffffffffffffffffffffffffffffffffffffffffffffffffffffffff (.offer a mode w1 w2) s := by
  refine ⟨_, rfl, ?_⟩
  have hm := Within.refl 15437823
  have hu := Within.refl 0x7fffffffffffffffffffffffffffffffffffffffffffffffffffffffff
  have h := Keeps.refl 15437823 0x7fffffffffffffffffffffffffffffffffffffffffffffffffffffffff s.dev
  repeat' first
    | with_reducible assumption | exact hm.sub (by decide) | exact hu.sub (by decide) | intro _
    | with_reducible apply opOffer_keeps | with_reducible apply traceWords_keeps | with_reducible apply keeps_ite | split

theorem keeps_request (a mode w1 w2 s) : RowKeeps 15437823 0x7fffffffffffffffffffffffffffffffffffffffffffffffffffffffff (.request a mode w1 w2) s := by
  refine ⟨_, rfl, ?_⟩
  have hm := Within.refl 15437823
  have hu := Within.refl 0x7fffffffffffffffffffffffffffffffffffffffffffffffffffffffff
  have h := Keeps.refl 15437823 0x7fffffffffffffffffffffffffffffffffffffffffffffffffffffffff s.dev
  repeat' first
    | with_reducible assumption | exact hm.sub (by decide) | exact hu.sub (by decide) | intro _
    | with_reducible apply opRequest_keeps | with_reducible apply traceWords_keeps | with_reducible apply keeps_ite | split

theorem keeps_accept (a mode w1 w2 s) : RowKeeps 15437823 0x7fffffffffffffffffffffffffffffffffffffffffffffffffffffffff (.accept a mode w1 w2) s := by
  refine ⟨_, rfl, ?_⟩
  have hm := Within.refl 15437823
  have hu := Within.refl 0x7fffffffffffffffffffffffffffffffffffffffffffffffffffffffff
  have h := Keeps.refl 15437823 0x7fffffffffffffffffffffffffffffffffffffffffffffffffffffffff s.dev
  repeat' first
    | with_reducible assumption | exact hm.sub (by decide) | exact hu.sub (by decide) | intro _
    | with_reducible apply opAccept_keeps | with_reducible apply traceWords_keeps | with_reducible apply keeps_ite | split

theorem keeps_reject (a mode w1 w2 s) : RowKeeps 15437823 0x7fffffffffffffffffffffffffffffffffffffffffffffffffffffffff (.reject a mode w1 w2) s := by
  refine ⟨_, rfl, ?_⟩
  have hm := Within.refl 15437823
  have hu := Within.refl 0x7fffffffffffffffffffffffffffffffffffffffffffffffffffffffff
  have h := Keeps.refl 15437823 0x7fffffffffffffffffffffffffffffffffffffffffffffffffffffffff s.dev
  repeat' first
    | with_reducible assumption | exact hm.sub (by decide) | exact hu.sub (by decide) | intro _
    | with_reducible apply opReject_keeps | with_reducible apply traceWords_keeps | with_reducible apply keeps_ite | split

theorem keeps_swapReq (a mode w1 w2 s) : RowKeeps 15437823 0x7fffffffffffffffffffffffffffffffffffffffffffffffffffffffff (.swapReq a mode w1 w2) s := by
  refine ⟨_, rfl, ?_⟩
  have hm := Within.refl 15437823
  have hu := Within.refl 0x7fffffffffffffffffffffffffffffffffffffffffffffffffffffffff
  have h := Keeps.refl 15437823 0x7fffffffffffffffffffffffffffffffffffffffffffffffffffffffff s.dev
  repeat' first
    | with_reducible assumption | exact hm.sub (by decide) | exact hu.sub (by decide) | intro _
    | with_reducible apply opSwapReq_keeps | with_reducible apply traceWords_keeps | with_reducible apply keeps_ite | split

theorem keeps_swapAck (a mode w1 w2 s) : RowKeeps 15437823 0x7fffffffffffffffffffffffffffffffffffffffffffffffffffffffff (.swapAck a mode w1 w2) s := by
  refine ⟨_, rfl, ?_⟩
  have hm := Within.refl 15437823
  have hu := Within.refl 0x7fffffffffffffffffffffffffffffffffffffffffffffffffffffffff
  have h := Keeps.refl 15437823 0x7fffffffffffffffffffffffffffffffffffffffffffffffffffffffff s.dev
  repeat' first
    | with_reducible assumption | exact hm.sub (by decide) | exact hu.sub (by decide) | intro _
    | with_reducible apply opSwapAck_keeps | with_reducible apply traceWords_keeps | with_reducible apply keeps_ite | split

theorem keeps_contractBegin (s) : RowKeeps 15437823 0x7fffffffffffffffffffffffffffffffffffffffffffffffffffffffff .contractBegin s := by
  refine ⟨_, rfl, ?_⟩
  have hm := Within.refl 15437823
  have hu := Within.refl 0x7fffffffffffffffffffffffffffffffffffffffffffffffffffffffff
  have h := Keeps.refl 15437823 0x7fffffffffffffffffffffffffffffffffffffffffffffffffffffffff s.dev
  repeat' first
    | with_reducible assumption | exact hm.sub (by decide) | exact hu.sub (by decide) | intro _
    | with_reducible apply opContractBegin_keeps | with_reducible apply keeps_ite | split

theorem keeps_safeLowStart (s) : RowKeeps 68121 0x4000800000000000000000000000000000000000000000 .safeLowStart s := by
  refine ⟨_, rfl, ?_⟩
  have hm := Within.refl 68121
  have hu := Within.refl 0x4000800000000000000000000000000000000000000000
  have h := Keeps.refl 68121 0x4000800000000000000000000000000000000000000000 s.dev
  repeat' first
    | with_reducible assumption | exact hm.sub (by decide) | exact hu.sub (by decide) | intro _
    | with_reducible apply opSafeLowStart_keeps | with_reducible apply keeps_ite | split

theorem keeps_softstartDone (s) : RowKeeps 3585 0x800000000040008000000002c0000000000000000000000000000000 .softstartDone s := by
  refine ⟨_, rfl, ?_⟩
  have hm := Within.refl 3585
  have hu := Within.refl 0x800000000040008000000002c0000000000000000000000000000000
  have h := Keeps.refl 3585 0x800000000040008000000002c0000000000000000000000000000000 s.dev
  repeat' first
    | with_reducible assumption | exact hm.sub (by decide) | exact hu.sub (by decide) | intro _
    | with_reducible apply opSoftstartDone_keeps | with_reducible apply keeps_ite | split

theorem keeps_startFail (s) : RowKeeps 101913 0x800000000040088000000002c00001ec220000000000000000000000 .startFail s := by
  refine ⟨_, rfl, ?_⟩
  have hm := Within.refl 101913
  have hu := Within.refl 0x800000000040088000000002c00001ec220000000000000000000000
  have h := Keeps.refl 101913 0x800000000040088000000002c00001ec220000000000000000000000 s.dev
  repeat' first
    | with_reducible assumption | exact hm.sub (by decide) | exact hu.sub (by decide) | intro _
    | with_reducible apply opStartFail_keeps | with_reducible apply keeps_ite | split

theorem keeps_vlyOverload (s) : RowKeeps 101913 0x800000000040088000000002c00001ec220000000000000000000000 .vlyOverload s := by
  refine ⟨_, rfl, ?_⟩
  have hm := Within.refl 101913
  have hu := Within.refl 0x800000000040088000000002c00001ec220000000000000000000000
  have h := Keeps.refl 101913 0x800000000040088000000002c00001ec220000000000000000000000 s.dev
  repeat' first
    | with_reducible assumption | exact hm.sub (by decide) | exact hu.sub (by decide) | intro _
    | with_reducible apply opVlyOverload_keeps | with_reducible apply keeps_ite | split

theorem keeps_vlyOv (s) : RowKeeps 3585 0x800000000040008000000002c0000000000000000000000000000000 .vlyOv s := by
  refine ⟨_, rfl, ?_⟩
  have hm := Within.refl 3585
  have hu := Within.refl 0x800000000040008000000002c0000000000000000000000000000000
  have h := Keeps.refl 3585 0x800000000040008000000002c0000000000000000000000000000000 s.dev
  repeat' first
    | with_reducible assumption | exact hm.sub (by decide) | exact hu.sub (by decide) | intro _
    | with_reducible apply opVlyOv_keeps | with_reducible apply keeps_ite | split

theorem keeps_sinkDiodeClose (s) : RowKeeps 1 0x800000000000000000000000000000000000000000 .sinkDiodeClose s := by
  refine ⟨_, rfl, ?_⟩
  have hm := Within.refl 1
  have hu := Within.refl 0x800000000000000000000000000000000000000000
  have h := Keeps.refl 1 0x800000000000000000000000000000000000000000 s.dev
  repeat' first
    | with_reducible assumption | exact hm.sub (by decide) | exact hu.sub (by decide) | intro _
    | with_reducible apply opSinkDiodeClose_keeps | with_reducible apply keeps_ite | split

theorem keeps_sinkLineLow (s) : RowKeeps 7049215 0x7fffffffffffffffffffffffffffffffffffffffffffffffffffffffff .sinkLineLow s := by
  refine ⟨_, rfl, ?_⟩
  have hm := Within.refl 7049215
  have hu := Within.refl 0x7fffffffffffffffffffffffffffffffffffffffffffffffffffffffff
  have h := Keeps.refl 7049215 0x7fffffffffffffffffffffffffffffffffffffffffffffffffffffffff s.dev
  repeat' first
    | with_reducible assumption | exact hm.sub (by decide) | exact hu.sub (by decide) | intro _
    | with_reducible apply opSinkLineLow_keeps | with_reducible apply keeps_ite | split

theorem keeps_fsArmed (s) : RowKeeps 1 0x800000000000000000000000000000000000000000 .fsArmed s := by
  refine ⟨_, rfl, ?_⟩
  have hm := Within.refl 1
  have hu := Within.refl 0x800000000000000000000000000000000000000000
  have h := Keeps.refl 1 0x800000000000000000000000000000000000000000 s.dev
  repeat' first
    | with_reducible assumption | exact hm.sub (by decide) | exact hu.sub (by decide) | intro _
    | with_reducible apply opFsArmed_keeps | with_reducible apply keeps_ite | split

theorem keeps_fastSwap (low s) : RowKeeps 15437823 0x7fffffffffffffffffffffffffffffffffffffffffffffffffffffffff (.fastSwap low) s := by
  refine ⟨_, rfl, ?_⟩
  have hm := Within.refl 15437823
  have hu := Within.refl 0x7fffffffffffffffffffffffffffffffffffffffffffffffffffffffff
  have h := Keeps.refl 15437823 0x7fffffffffffffffffffffffffffffffffffffffffffffffffffffffff s.dev
  repeat' first
    | with_reducible assumption | exact hm.sub (by decide) | exact hu.sub (by decide) | intro _
    | with_reducible apply opFastSwap_keeps | with_reducible apply traceComp_keeps | with_reducible apply keeps_ite | split

theorem keeps_sourceToDiode (s) : RowKeeps 15437823 0x7fffffffffffffffffffffffffffffffffffffffffffffffffffffffff .sourceToDiode s := by
  refine ⟨_, rfl, ?_⟩
  have hm := Within.refl 15437823
  have hu := Within.refl 0x7fffffffffffffffffffffffffffffffffffffffffffffffffffffffff
  have h := Keeps.refl 15437823 0x7fffffffffffffffffffffffffffffffffffffffffffffffffffffffff s.dev
  repeat' first
    | with_reducible assumption | exact hm.sub (by decide) | exact hu.sub (by decide) | intro _
    | with_reducible apply opSourceToDiode_keeps | with_reducible apply keeps_ite | split

theorem keeps_energySpent (s) : RowKeeps 101889 0x800000000040088000000002c00001ec220000000000000000000000 .energySpent s := by
  refine ⟨_, rfl, ?_⟩
  have hm := Within.refl 101889
  have hu := Within.refl 0x800000000040088000000002c00001ec220000000000000000000000
  have h := Keeps.refl 101889 0x800000000040088000000002c00001ec220000000000000000000000 s.dev
  repeat' first
    | with_reducible assumption | exact hm.sub (by decide) | exact hu.sub (by decide) | intro _
    | with_reducible apply opEnergySpent_keeps | with_reducible apply keeps_ite | split

theorem keeps_swapTx (s) : RowKeeps 101913 0x800000000040088000000002c00001ec220000000000000000000000 .swapTx s := by
  refine ⟨_, rfl, ?_⟩
  have hm := Within.refl 101913
  have hu := Within.refl 0x800000000040088000000002c00001ec220000000000000000000000
  have h := Keeps.refl 101913 0x800000000040088000000002c00001ec220000000000000000000000 s.dev
  repeat' first
    | with_reducible assumption | exact hm.sub (by decide) | exact hu.sub (by decide) | intro _
    | with_reducible apply opSwapTx_keeps | with_reducible apply keeps_ite | split

theorem keeps_swapOutgoing (s) : RowKeeps 2585 0x4000800000000000000000000000000000000000000000 .swapOutgoing s := by
  refine ⟨_, rfl, ?_⟩
  have hm := Within.refl 2585
  have hu := Within.refl 0x4000800000000000000000000000000000000000000000
  have h := Keeps.refl 2585 0x4000800000000000000000000000000000000000000000 s.dev
  repeat' first
    | with_reducible assumption | exact hm.sub (by decide) | exact hu.sub (by decide) | intro _
    | with_reducible apply opSwapOutgoing_keeps | with_reducible apply keeps_ite | split

theorem keeps_swapAmend (e s) : RowKeeps 100889 0x4000000000000000000000000000000000000000000000 (.swapAmend e) s := by
  refine ⟨_, rfl, ?_⟩
  have hm := Within.refl 100889
  have hu := Within.refl 0x4000000000000000000000000000000000000000000000
  have h := Keeps.refl 100889 0x4000000000000000000000000000000000000000000000 s.dev
  repeat' first
    | with_reducible assumption | exact hm.sub (by decide) | exact hu.sub (by decide) | intro _
    | with_reducible apply opSwapAmend_keeps | with_reducible apply keeps_ite | split

theorem keeps_ppsPulse (s) : RowKeeps 2585 0x4000000000000000000000000000000000000000000000 .ppsPulse s := by
  refine ⟨_, rfl, ?_⟩
  have hm := Within.refl 2585
  have hu := Within.refl 0x4000000000000000000000000000000000000000000000
  have h := Keeps.refl 2585 0x4000000000000000000000000000000000000000000000 s.dev
  repeat' first
    | with_reducible assumption | exact hm.sub (by decide) | exact hu.sub (by decide) | intro _
    | with_reducible apply opPpsPulse_keeps | with_reducible apply keeps_ite | split

theorem keeps_thatchWdt (s) : RowKeeps 14683705 0x800021a04040000000000002c0000000000000000000000000000000 .thatchWdt s := by
  refine ⟨_, rfl, ?_⟩
  have hm := Within.refl 14683705
  have hu := Within.refl 0x800021a04040000000000002c0000000000000000000000000000000
  have h := Keeps.refl 14683705 0x800021a04040000000000002c0000000000000000000000000000000 s.dev
  repeat' first
    | with_reducible assumption | exact hm.sub (by decide) | exact hu.sub (by decide) | intro _
    | with_reducible apply opThatchWdt_keeps | with_reducible apply keeps_ite | split

theorem keeps_quiesceTimeout (s) : RowKeeps 14814777 0x1a0004000000000000000000000000000000000000000000000 .quiesceTimeout s := by
  refine ⟨_, rfl, ?_⟩
  have hm := Within.refl 14814777
  have hu := Within.refl 0x1a0004000000000000000000000000000000000000000000000
  have h := Keeps.refl 14814777 0x1a0004000000000000000000000000000000000000000000000 s.dev
  repeat' first
    | with_reducible assumption | exact hm.sub (by decide) | exact hu.sub (by decide) | intro _
    | with_reducible apply opQuiesceTimeout_keeps | with_reducible apply keeps_ite | split

theorem keeps_fwConfirmed (vpre hot s) : RowKeeps 5246489 0x800021200040000000008002c0000000000000000000000000000000 (.fwConfirmed vpre hot) s := by
  refine ⟨_, rfl, ?_⟩
  have hm := Within.refl 5246489
  have hu := Within.refl 0x800021200040000000008002c0000000000000000000000000000000
  have h := Keeps.refl 5246489 0x800021200040000000008002c0000000000000000000000000000000 s.dev
  repeat' first
    | with_reducible assumption | exact hm.sub (by decide) | exact hu.sub (by decide) | intro _
    | with_reducible apply opFwConfirmed_keeps | with_reducible apply keeps_ite | split

theorem keeps_arbPending (vpre hot s) : RowKeeps 5246489 0x800001200040000000008002c0000000000000000000000000000000 (.arbPending vpre hot) s := by
  refine ⟨_, rfl, ?_⟩
  have hm := Within.refl 5246489
  have hu := Within.refl 0x800001200040000000008002c0000000000000000000000000000000
  have h := Keeps.refl 5246489 0x800001200040000000008002c0000000000000000000000000000000 s.dev
  repeat' first
    | with_reducible assumption | exact hm.sub (by decide) | exact hu.sub (by decide) | intro _
    | with_reducible apply opArbPending_keeps | with_reducible apply keeps_ite | split

theorem keeps_hwdExpired (s) : RowKeeps 15728639 0x7fffffffffffffffffffffffffffffffffffffffffffffffffffffffff .hwdExpired s := by
  refine ⟨_, rfl, ?_⟩
  have hm := Within.refl 15728639
  have hu := Within.refl 0x7fffffffffffffffffffffffffffffffffffffffffffffffffffffffff
  have h := Keeps.refl 15728639 0x7fffffffffffffffffffffffffffffffffffffffffffffffffffffffff s.dev
  repeat' first
    | with_reducible assumption | exact hm.sub (by decide) | exact hu.sub (by decide) | intro _
    | with_reducible apply opHwdExpired_keeps | with_reducible apply keeps_ite | split

theorem keeps_scrubAccess (m word found fore last s) : RowKeeps 16252927 0xffffffffffffffffffffffffffffffffffffffffffffffffffffffffff (.scrubAccess m word found fore last) s := by
  refine ⟨_, rfl, ?_⟩
  have hm := Within.refl 16252927
  have hu := Within.refl 0xffffffffffffffffffffffffffffffffffffffffffffffffffffffffff
  have h := Keeps.refl 16252927 0xffffffffffffffffffffffffffffffffffffffffffffffffffffffffff s.dev
  repeat' first
    | with_reducible assumption | exact hm.sub (by decide) | exact hu.sub (by decide) | intro _
    | with_reducible apply opScrubAccess_keeps | with_reducible apply keeps_ite | split

theorem keeps_sectorErase (s) : RowKeeps 10488321 0xc000000000000000000000000000000000000120000000 .sectorErase s := by
  refine ⟨_, rfl, ?_⟩
  have hm := Within.refl 10488321
  have hu := Within.refl 0xc000000000000000000000000000000000000120000000
  have h := Keeps.refl 10488321 0xc000000000000000000000000000000000000120000000 s.dev
  repeat' first
    | with_reducible assumption | exact hm.sub (by decide) | exact hu.sub (by decide) | intro _
    | with_reducible apply opSectorErase_keeps | with_reducible apply keeps_ite | split

theorem keeps_telemetryRecord (s) : RowKeeps 10505753 0x800000000040000000000002c0000000000000000000000020000000 .telemetryRecord s := by
  refine ⟨_, rfl, ?_⟩
  have hm := Within.refl 10505753
  have hu := Within.refl 0x800000000040000000000002c0000000000000000000000020000000
  have h := Keeps.refl 10505753 0x800000000040000000000002c0000000000000000000000020000000 s.dev
  repeat' first
    | with_reducible assumption | exact hm.sub (by decide) | exact hu.sub (by decide) | intro _
    | with_reducible apply opTelemetryRecord_keeps | with_reducible apply keeps_ite | split

theorem keeps_gutterWrite (s) : RowKeeps 10488321 0x1c000000000000000000000000000000000000100000000 .gutterWrite s := by
  refine ⟨_, rfl, ?_⟩
  have hm := Within.refl 10488321
  have hu := Within.refl 0x1c000000000000000000000000000000000000100000000
  have h := Keeps.refl 10488321 0x1c000000000000000000000000000000000000100000000 s.dev
  repeat' first
    | with_reducible assumption | exact hm.sub (by decide) | exact hu.sub (by decide) | intro _
    | with_reducible apply opGutterWrite_keeps | with_reducible apply keeps_ite | split

theorem keeps_gutAbandoned (s) : RowKeeps 2097153 0x28000000000000000000000000000000000000100000000 .gutAbandoned s := by
  refine ⟨_, rfl, ?_⟩
  have hm := Within.refl 2097153
  have hu := Within.refl 0x28000000000000000000000000000000000000100000000
  have h := Keeps.refl 2097153 0x28000000000000000000000000000000000000100000000 s.dev
  repeat' first
    | with_reducible assumption | exact hm.sub (by decide) | exact hu.sub (by decide) | intro _
    | with_reducible apply opGutAbandoned_keeps | with_reducible apply keeps_ite | split

theorem keeps_gutterRewrite (s) : RowKeeps 2100737 0x8000000001c0000000000002c0000000000000000000000100000000 .gutterRewrite s := by
  refine ⟨_, rfl, ?_⟩
  have hm := Within.refl 2100737
  have hu := Within.refl 0x8000000001c0000000000002c0000000000000000000000100000000
  have h := Keeps.refl 2100737 0x8000000001c0000000000002c0000000000000000000000100000000 s.dev
  repeat' first
    | with_reducible assumption | exact hm.sub (by decide) | exact hu.sub (by decide) | intro _
    | with_reducible apply opGutterRewrite_keeps | with_reducible apply keeps_ite | split

theorem keeps_gutBufFilled (s) : RowKeeps 1 0x10080000000000000000000000000000000000000000000000 .gutBufFilled s := by
  refine ⟨_, rfl, ?_⟩
  have hm := Within.refl 1
  have hu := Within.refl 0x10080000000000000000000000000000000000000000000000
  have h := Keeps.refl 1 0x10080000000000000000000000000000000000000000000000 s.dev
  repeat' first
    | with_reducible assumption | exact hm.sub (by decide) | exact hu.sub (by decide) | intro _
    | with_reducible apply opGutBufFilled_keeps | with_reducible apply keeps_ite | split

theorem keeps_traceCheckpoint (s) : RowKeeps 10488345 0x4000000000000000000000000000000000000000000000 .traceCheckpoint s := by
  refine ⟨_, rfl, ?_⟩
  have hm := Within.refl 10488345
  have hu := Within.refl 0x4000000000000000000000000000000000000000000000
  have h := Keeps.refl 10488345 0x4000000000000000000000000000000000000000000000 s.dev
  repeat' first
    | with_reducible assumption | exact hm.sub (by decide) | exact hu.sub (by decide) | intro _
    | with_reducible apply opTraceCheckpoint_keeps | with_reducible apply keeps_ite | split

theorem keeps_trcFrozen (s) : RowKeeps 10489369 0x80000000c2c0000000000002c0000000000000000000000000000000 .trcFrozen s := by
  refine ⟨_, rfl, ?_⟩
  have hm := Within.refl 10489369
  have hu := Within.refl 0x80000000c2c0000000000002c0000000000000000000000000000000
  have h := Keeps.refl 10489369 0x80000000c2c0000000000002c0000000000000000000000000000000 s.dev
  repeat' first
    | with_reducible assumption | exact hm.sub (by decide) | exact hu.sub (by decide) | intro _
    | with_reducible apply opTrcFrozen_keeps | with_reducible apply keeps_ite | split

theorem keeps_trcCopied (more s) : RowKeeps 2100737 0x800000014040000000000002c0000000000000000000000000000000 (.trcCopied more) s := by
  refine ⟨_, rfl, ?_⟩
  have hm := Within.refl 2100737
  have hu := Within.refl 0x800000014040000000000002c0000000000000000000000000000000
  have h := Keeps.refl 2100737 0x800000014040000000000002c0000000000000000000000000000000 s.dev
  repeat' first
    | with_reducible assumption | exact hm.sub (by decide) | exact hu.sub (by decide) | intro _
    | with_reducible apply opTrcCopied_keeps | with_reducible apply keeps_ite | split

theorem keeps_capFreed (k s) : RowKeeps 2100737 0x800000014040000000000002c0000000000000000000000000000000 (.capFreed k) s := by
  refine ⟨_, rfl, ?_⟩
  have hm := Within.refl 2100737
  have hu := Within.refl 0x800000014040000000000002c0000000000000000000000000000000
  have h := Keeps.refl 2100737 0x800000014040000000000002c0000000000000000000000000000000 s.dev
  repeat' first
    | with_reducible assumption | exact hm.sub (by decide) | exact hu.sub (by decide) | intro _
    | with_reducible apply opCapFreed_keeps | with_reducible apply keeps_ite | split

theorem keeps_replayDigest (same interval cycle sub s) : RowKeeps 3585 0x8000000c0040000000000002c0000000000000000000000000000000 (.replayDigest same interval cycle sub) s := by
  refine ⟨_, rfl, ?_⟩
  have hm := Within.refl 3585
  have hu := Within.refl 0x8000000c0040000000000002c0000000000000000000000000000000
  have h := Keeps.refl 3585 0x8000000c0040000000000002c0000000000000000000000000000000 s.dev
  repeat' first
    | with_reducible assumption | exact hm.sub (by decide) | exact hu.sub (by decide) | intro _
    | with_reducible apply opReplayDigest_keeps | with_reducible apply keeps_ite | split

theorem keeps_rplDone (s) : RowKeeps 3585 0x800000040040000000000002c0000000000000000000000000000000 .rplDone s := by
  refine ⟨_, rfl, ?_⟩
  have hm := Within.refl 3585
  have hu := Within.refl 0x800000040040000000000002c0000000000000000000000000000000
  have h := Keeps.refl 3585 0x800000040040000000000002c0000000000000000000000000000000 s.dev
  repeat' first
    | with_reducible assumption | exact hm.sub (by decide) | exact hu.sub (by decide) | intro _
    | with_reducible apply opRplDone_keeps | with_reducible apply keeps_ite | split

theorem keeps_sampleEntry (s) : RowKeeps 3585 0x800000000060000000000002c0000000000000000000000000000000 .sampleEntry s := by
  refine ⟨_, rfl, ?_⟩
  have hm := Within.refl 3585
  have hu := Within.refl 0x800000000060000000000002c0000000000000000000000000000000
  have h := Keeps.refl 3585 0x800000000060000000000002c0000000000000000000000000000000 s.dev
  repeat' first
    | with_reducible assumption | exact hm.sub (by decide) | exact hu.sub (by decide) | intro _
    | with_reducible apply opSampleEntry_keeps | with_reducible apply keeps_ite | split

theorem keeps_sampleDrain (s) : RowKeeps 3609 0x800000000040000000000002c0000000000000000000000000000000 .sampleDrain s := by
  refine ⟨_, rfl, ?_⟩
  have hm := Within.refl 3609
  have hu := Within.refl 0x800000000040000000000002c0000000000000000000000000000000
  have h := Keeps.refl 3609 0x800000000040000000000002c0000000000000000000000000000000 s.dev
  repeat' first
    | with_reducible assumption | exact hm.sub (by decide) | exact hu.sub (by decide) | intro _
    | with_reducible apply opSampleDrain_keeps | with_reducible apply keeps_ite | split

theorem keeps_counterDump (s) : RowKeeps 3609 0x800000000060000000000002c0000000000000000000000000000000 .counterDump s := by
  refine ⟨_, rfl, ?_⟩
  have hm := Within.refl 3609
  have hu := Within.refl 0x800000000060000000000002c0000000000000000000000000000000
  have h := Keeps.refl 3609 0x800000000060000000000002c0000000000000000000000000000000 s.dev
  repeat' first
    | with_reducible assumption | exact hm.sub (by decide) | exact hu.sub (by decide) | intro _
    | with_reducible apply opCounterDump_keeps | with_reducible apply keeps_ite | split

theorem keeps_xtalOk (s) : RowKeeps 1 0x20000000000000000000000000000000000000000000000000000 .xtalOk s := by
  refine ⟨_, rfl, ?_⟩
  have hm := Within.refl 1
  have hu := Within.refl 0x20000000000000000000000000000000000000000000000000000
  have h := Keeps.refl 1 0x20000000000000000000000000000000000000000000000000000 s.dev
  repeat' first
    | with_reducible assumption | exact hm.sub (by decide) | exact hu.sub (by decide) | intro _
    | with_reducible apply opXtalOk_keeps | with_reducible apply keeps_ite | split

theorem keeps_refLost (s) : RowKeeps 3617 0x800200000040000000000002c0000000000000000000000000000000 .refLost s := by
  refine ⟨_, rfl, ?_⟩
  have hm := Within.refl 3617
  have hu := Within.refl 0x800200000040000000000002c0000000000000000000000000000000
  have h := Keeps.refl 3617 0x800200000040000000000002c0000000000000000000000000000000 s.dev
  repeat' first
    | with_reducible assumption | exact hm.sub (by decide) | exact hu.sub (by decide) | intro _
    | with_reducible apply opRefLost_keeps | with_reducible apply keeps_ite | split

theorem keeps_refRestored (s) : RowKeeps 3617 0x800200000040000000000002c0000000000000000000000000000000 .refRestored s := by
  refine ⟨_, rfl, ?_⟩
  have hm := Within.refl 3617
  have hu := Within.refl 0x800200000040000000000002c0000000000000000000000000000000
  have h := Keeps.refl 3617 0x800200000040000000000002c0000000000000000000000000000000 s.dev
  repeat' first
    | with_reducible assumption | exact hm.sub (by decide) | exact hu.sub (by decide) | intro _
    | with_reducible apply opRefRestored_keeps | with_reducible apply keeps_ite | split

theorem keeps_pllLoss (s) : RowKeeps 97 0x20000000000000000000000000000000000000000000000000000 .pllLoss s := by
  refine ⟨_, rfl, ?_⟩
  have hm := Within.refl 97
  have hu := Within.refl 0x20000000000000000000000000000000000000000000000000000
  have h := Keeps.refl 97 0x20000000000000000000000000000000000000000000000000000 s.dev
  repeat' first
    | with_reducible assumption | exact hm.sub (by decide) | exact hu.sub (by decide) | intro _
    | with_reducible apply opPllLoss_keeps | with_reducible apply keeps_ite | split

theorem keeps_lpoFault (s) : RowKeeps 3585 0x800200000040000000000002c0000000000000000000000000000000 .lpoFault s := by
  refine ⟨_, rfl, ?_⟩
  have hm := Within.refl 3585
  have hu := Within.refl 0x800200000040000000000002c0000000000000000000000000000000
  have h := Keeps.refl 3585 0x800200000040000000000002c0000000000000000000000000000000 s.dev
  repeat' first
    | with_reducible assumption | exact hm.sub (by decide) | exact hu.sub (by decide) | intro _
    | with_reducible apply opLpoFault_keeps | with_reducible apply keeps_ite | split

theorem keeps_otpWindowSample (n vpre hot left s) : RowKeeps 5246489 0x800001200040000000008002c0000000000000000000000000000000 (.otpWindowSample n vpre hot left) s := by
  refine ⟨_, rfl, ?_⟩
  have hm := Within.refl 5246489
  have hu := Within.refl 0x800001200040000000008002c0000000000000000000000000000000
  have h := Keeps.refl 5246489 0x800001200040000000008002c0000000000000000000000000000000 s.dev
  repeat' first
    | with_reducible assumption | exact hm.sub (by decide) | exact hu.sub (by decide) | intro _
    | with_reducible apply opOtpWindowSample_keeps | with_reducible apply keeps_ite | split

theorem keeps_otpWordDone (miss soft vpre hot s) : RowKeeps 5246489 0x800001200040000000008002c0000000000000000000000000000000 (.otpWordDone miss soft vpre hot) s := by
  refine ⟨_, rfl, ?_⟩
  have hm := Within.refl 5246489
  have hu := Within.refl 0x800001200040000000008002c0000000000000000000000000000000
  have h := Keeps.refl 5246489 0x800001200040000000008002c0000000000000000000000000000000 s.dev
  repeat' first
    | with_reducible assumption | exact hm.sub (by decide) | exact hu.sub (by decide) | intro _
    | with_reducible apply opOtpWordDone_keeps | with_reducible apply keeps_ite | split

theorem keeps_otpReadDone (s) : RowKeeps 5246489 0x800001200040000000008002c0000000000000000000000000000000 .otpReadDone s := by
  refine ⟨_, rfl, ?_⟩
  have hm := Within.refl 5246489
  have hu := Within.refl 0x800001200040000000008002c0000000000000000000000000000000
  have h := Keeps.refl 5246489 0x800001200040000000008002c0000000000000000000000000000000 s.dev
  repeat' first
    | with_reducible assumption | exact hm.sub (by decide) | exact hu.sub (by decide) | intro _
    | with_reducible apply opOtpReadDone_keeps | with_reducible apply keeps_ite | split

theorem keeps_selftestTimeout (s) : RowKeeps 15437823 0x7fffffffffffffffffffffffffffffffffffffffffffffffffffffffff .selftestTimeout s := by
  refine ⟨_, rfl, ?_⟩
  have hm := Within.refl 15437823
  have hu := Within.refl 0x7fffffffffffffffffffffffffffffffffffffffffffffffffffffffff
  have h := Keeps.refl 15437823 0x7fffffffffffffffffffffffffffffffffffffffffffffffffffffffff s.dev
  repeat' first
    | with_reducible assumption | exact hm.sub (by decide) | exact hu.sub (by decide) | intro _
    | with_reducible apply opSelftestTimeout_keeps | with_reducible apply keeps_ite | split

theorem keeps_vlyRequestTimeout (s) : RowKeeps 69145 0x800000000040000000000002c0000000000000000000000000000000 .vlyRequestTimeout s := by
  refine ⟨_, rfl, ?_⟩
  have hm := Within.refl 69145
  have hu := Within.refl 0x800000000040000000000002c0000000000000000000000000000000
  have h := Keeps.refl 69145 0x800000000040000000000002c0000000000000000000000000000000 s.dev
  repeat' first
    | with_reducible assumption | exact hm.sub (by decide) | exact hu.sub (by decide) | intro _
    | with_reducible apply opVlyRequestTimeout_keeps | with_reducible apply keeps_ite | split

theorem keeps_standbyDormantTransition (s) : RowKeeps 7049151 0x7fffffffffffffffffffffffffffffffffffffffffffffffffffffffff .standbyDormantTransition s := by
  refine ⟨_, rfl, ?_⟩
  have hm := Within.refl 7049151
  have hu := Within.refl 0x7fffffffffffffffffffffffffffffffffffffffffffffffffffffffff
  have h := Keeps.refl 7049151 0x7fffffffffffffffffffffffffffffffffffffffffffffffffffffffff s.dev
  repeat' first
    | with_reducible assumption | exact hm.sub (by decide) | exact hu.sub (by decide) | intro _
    | with_reducible apply opSleep_keeps | with_reducible apply keeps_ite | split

theorem keeps_thatchCheckIn (s) : RowKeeps 4194304 0x0 .thatchCheckIn s := by
  refine ⟨_, rfl, ?_⟩
  have hm := Within.refl 4194304
  have hu := Within.refl 0x0
  have h := Keeps.refl 4194304 0x0 s.dev
  repeat' first
    | with_reducible assumption | exact hm.sub (by decide) | exact hu.sub (by decide) | intro _
    | with_reducible apply opThatchCheckIn_keeps | with_reducible apply keeps_ite | split

theorem keeps_purlinWdtKick (s) : RowKeeps 4194304 0x0 .purlinWdtKick s := by
  refine ⟨_, rfl, ?_⟩
  have hm := Within.refl 4194304
  have hu := Within.refl 0x0
  have h := Keeps.refl 4194304 0x0 s.dev
  repeat' first
    | with_reducible assumption | exact hm.sub (by decide) | exact hu.sub (by decide) | intro _
    | with_reducible apply opPurlinWdtKick_keeps | with_reducible apply keeps_ite | split

theorem keeps_acuException (s) : RowKeeps 14683681 0x800021a04040000000000002c0000000000000000000000000000000 .acuException s := by
  refine ⟨_, rfl, ?_⟩
  have hm := Within.refl 14683681
  have hu := Within.refl 0x800021a04040000000000002c0000000000000000000000000000000
  have h := Keeps.refl 14683681 0x800021a04040000000000002c0000000000000000000000000000000 s.dev
  repeat' first
    | with_reducible assumption | exact hm.sub (by decide) | exact hu.sub (by decide) | intro _
    | with_reducible apply restartThatch_keeps | with_reducible apply keeps_ite | split

theorem keeps_thatchRestartRequest (s) : RowKeeps 14683681 0x800021a04040000000000002c0000000000000000000000000000000 .thatchRestartRequest s := by
  refine ⟨_, rfl, ?_⟩
  have hm := Within.refl 14683681
  have hu := Within.refl 0x800021a04040000000000002c0000000000000000000000000000000
  have h := Keeps.refl 14683681 0x800021a04040000000000002c0000000000000000000000000000000 s.dev
  repeat' first
    | with_reducible assumption | exact hm.sub (by decide) | exact hu.sub (by decide) | intro _
    | with_reducible apply restartThatch_keeps | with_reducible apply keeps_ite | split

theorem keeps_thatchSubmit (header params s) : RowKeeps 1024 0x0 (.thatchSubmit header params) s := by
  refine ⟨_, rfl, ?_⟩
  have hm := Within.refl 1024
  have hu := Within.refl 0x0
  have h := Keeps.refl 1024 0x0 s.dev
  repeat' first
    | with_reducible assumption | exact hm.sub (by decide) | exact hu.sub (by decide) | intro _
    | with_reducible apply opThatchSubmit_keeps | with_reducible apply keeps_ite | split

theorem keeps_q16MessagePlaced (type w1 w2 s) : RowKeeps 98305 0x800000000000000000000000000000000000000000 (.q16MessagePlaced type w1 w2) s := by
  refine ⟨_, rfl, ?_⟩
  have hm := Within.refl 98305
  have hu := Within.refl 0x800000000000000000000000000000000000000000
  have h := Keeps.refl 98305 0x800000000000000000000000000000000000000000 s.dev
  repeat' first
    | with_reducible assumption | exact hm.sub (by decide) | exact hu.sub (by decide) | intro _
    | with_reducible apply opMessagePlaced_keeps | with_reducible apply keeps_ite | split

theorem keeps_thatchWaitTimeout (s) : RowKeeps 3609 0x800000000040000000000002c0000000000000000000000000000000 .thatchWaitTimeout s := by
  refine ⟨_, rfl, ?_⟩
  have hm := Within.refl 3609
  have hu := Within.refl 0x800000000040000000000002c0000000000000000000000000000000
  have h := Keeps.refl 3609 0x800000000040000000000002c0000000000000000000000000000000 s.dev
  repeat' first
    | with_reducible assumption | exact hm.sub (by decide) | exact hu.sub (by decide) | intro _
    | with_reducible apply opThatchWaitTimeout_keeps | with_reducible apply keeps_ite | split

theorem keeps_vsupReturn (s) : RowKeeps 2097153 0x20000000000000000000004 .vsupReturn s := by
  refine ⟨_, rfl, ?_⟩
  have hm := Within.refl 2097153
  have hu := Within.refl 0x20000000000000000000004
  have h := Keeps.refl 2097153 0x20000000000000000000004 s.dev
  repeat' first
    | with_reducible assumption | exact hm.sub (by decide) | exact hu.sub (by decide) | intro _
    | with_reducible apply opVsupReturn_keeps | with_reducible apply traceComp_keeps | with_reducible apply keeps_ite | split

theorem keeps_lpoBadClear (s) : RowKeeps 1 0x20000000000000000000000000000000000000000000000000000 .lpoBadClear s := by
  refine ⟨_, rfl, ?_⟩
  have hm := Within.refl 1
  have hu := Within.refl 0x20000000000000000000000000000000000000000000000000000
  have h := Keeps.refl 1 0x20000000000000000000000000000000000000000000000000000 s.dev
  repeat' first
    | with_reducible assumption | exact hm.sub (by decide) | exact hu.sub (by decide) | intro _
    | with_reducible apply opLpoBadClear_keeps | with_reducible apply keeps_ite | split

theorem keeps_pdBkSupplyReturn (s) : RowKeeps 524288 0x0 .pdBkSupplyReturn s := by
  refine ⟨_, rfl, ?_⟩
  have hm := Within.refl 524288
  have hu := Within.refl 0x0
  have h := Keeps.refl 524288 0x0 s.dev
  repeat' first
    | with_reducible assumption | exact hm.sub (by decide) | exact hu.sub (by decide) | intro _
    | with_reducible apply opSupplyReturn_keeps | with_reducible apply keeps_ite | split

theorem keeps_outputDigestRecord (changes s) : RowKeeps 10488345 0x404000000000000000000000000000000000000000000000 (.outputDigestRecord changes) s := by
  refine ⟨_, rfl, ?_⟩
  have hm := Within.refl 10488345
  have hu := Within.refl 0x404000000000000000000000000000000000000000000000
  have h := Keeps.refl 10488345 0x404000000000000000000000000000000000000000000000 s.dev
  repeat' first
    | with_reducible assumption | exact hm.sub (by decide) | exact hu.sub (by decide) | intro _
    | with_reducible apply opOutputDigest_keeps | with_reducible apply keeps_ite | split

end Sys2Proof.Machine
end

