-- ==== Sys2Proof/Laws/Frames.lean ====
section
/-! SUPPORT. From `Keeps` (Laws/Keeps.lean, Laws/Rows.lean) to the terms of Safety: the canonical form, the parts and the word
tables that alone change; reads of stores, words and fields that have been written. -/

set_option linter.all false
set_option Elab.async false

namespace Sys2Proof.Machine

/-! ### Reads after writes -/

theorem getW_setW_eq {d : Device} {a : Nat} {w : Word} (h : wordsOk d.words = true) : getW (setW d a w) a = w := get_set_eq h

@[simp] theorem getW_setW_ne {d : Device} {a b : Nat} {w : Word} (h : b ≠ a) : getW (setW d a w) b = getW d b := get_set_ne h

theorem wordsOk_setW {d : Device} {a : Nat} {w : Word} (h : wordsOk d.words = true) : wordsOk (setW d a w).words = true := wf_set h

theorem wordsOk_setFld {d : Device} {f : Fld} {v i : Nat} (h : wordsOk d.words = true) :
    wordsOk (setFld d f v i).words = true := by
  unfold setFld
  split
  · exact wordsOk_setW h
  · exact h

theorem testBit_mask (hi lo j : Nat) :
    ((2 ^ (hi + 1 - lo) - 1) <<< lo).testBit j = (decide (lo ≤ j) && decide (j - lo < hi + 1 - lo)) := by
  rw [Nat.testBit_shiftLeft, Nat.testBit_two_pow_sub_one]

theorem putBits_bit {w : Word} {hi lo v k : Nat} (hk : k < 32) :
    (putBits w hi lo v).getLsbD k = if lo ≤ k ∧ k - lo < hi + 1 - lo then v.testBit (k - lo) else w.getLsbD k := by
  unfold putBits
  simp only []
  rw [BitVec.getLsbD_or, BitVec.getLsbD_and, BitVec.getLsbD_not, BitVec.getLsbD_ofNat, BitVec.getLsbD_ofNat, testBit_mask,
    Nat.testBit_shiftLeft, Nat.testBit_mod_two_pow]
  by_cases h1 : lo ≤ k <;> by_cases h2 : k - lo < hi + 1 - lo <;> simp [h1, h2, hk]

theorem bitsOf_bit {w : Word} {hi lo j : Nat} : (bitsOf w hi lo).testBit j = (decide (j < hi + 1 - lo) && w.getLsbD (lo + j)) := by
  unfold bitsOf
  rw [Nat.testBit_mod_two_pow, Nat.testBit_shiftRight]
  rfl

/-- A field reads the value written to it. -/
theorem bitsOf_putBits {w : Word} {hi lo v : Nat} (hlo : lo ≤ hi) (hhi : hi < 32) :
    bitsOf (putBits w hi lo v) hi lo = v % 2 ^ (hi + 1 - lo) := by
  apply Nat.eq_of_testBit_eq
  intro j
  rw [bitsOf_bit, Nat.testBit_mod_two_pow]
  by_cases hj : j < hi + 1 - lo
  · rw [putBits_bit (by omega), if_pos ⟨by omega, by omega⟩, Nat.add_sub_cancel_left]
  · simp [hj]

/-- A field reads as before once another field of its word is written. -/
theorem bitsOf_putBits_ne {w : Word} {hi lo v hi' lo' : Nat} (h : hi' < lo ∨ hi < lo') :
    bitsOf (putBits w hi lo v) hi' lo' = bitsOf w hi' lo' := by
  apply Nat.eq_of_testBit_eq
  intro j
  rw [bitsOf_bit, bitsOf_bit]
  by_cases hj : j < hi' + 1 - lo'
  · by_cases hm : lo' + j < 32
    · rw [putBits_bit hm, if_neg (by omega)]
    · rw [BitVec.getLsbD_of_ge _ _ (Nat.le_of_not_lt hm), BitVec.getLsbD_of_ge _ _ (Nat.le_of_not_lt hm)]
  · simp [hj]

theorem fld_setFld {d : Device} {f : Fld} {v i : Nat} (h : wordsOk d.words = true) (hi : i < f.count) (hlo : f.lo ≤ f.hi)
    (hhi : f.hi < 32) : fld (setFld d f v i) f i = v % 2 ^ (f.hi + 1 - f.lo) := by
  simp only [fld, setFld, hi, if_true]
  rw [getW_setW_eq h, bitsOf_putBits hlo hhi]

/-- A field of another word reads as before. -/
theorem fld_setFld_word {d : Device} {f g : Fld} {v i j : Nat} (h : g.base + g.stride * j ≠ f.base + f.stride * i) :
    fld (setFld d f v i) g j = fld d g j := by
  simp only [fld, setFld]
  split
  · rw [getW_setW_ne h]
  · rfl

/-- Another field of the same word reads as before. -/
theorem fld_setFld_ne {d : Device} {f g : Fld} {v i j : Nat} (h : wordsOk d.words = true)
    (hw : g.base + g.stride * j = f.base + f.stride * i) (hb : g.hi < f.lo ∨ f.hi < g.lo) :
    fld (setFld d f v i) g j = fld d g j := by
  simp only [fld, setFld]
  split
  · rw [hw, getW_setW_eq h, bitsOf_putBits_ne hb]
  · rfl

theorem rail_setRail {d : Device} {n : Nat} {r : Rail} (h : railsOk d.rails = true) : rail (setRail d n r) n = r := get_set_eq h
@[simp] theorem rail_setRail_ne {d : Device} {n k : Nat} {r : Rail} (h : k ≠ n) : rail (setRail d n r) k = rail d k := get_set_ne h
@[simp] theorem ring_setRing_ne {d : Device} {q k : Nat} {r : Ring} (h : k ≠ q) : ring (setRing d q r) k = ring d k := get_set_ne h
@[simp] theorem queue_setQueue_ne {d : Device} {q k : Nat} {ps : List QPkt} (h : k ≠ q) : queue (setQueue d q ps) k = queue d k :=
  get_set_ne h

/-! ### What `Keeps` gives -/

theorem canonical_iff {d : Device} : canonical d = true ↔ wordsOk d.words = true ∧ PartsOk d := by
  simp only [canonical, Bool.and_eq_true, partsOk_iff, and_assoc]

theorem ring_setRing {d : Device} {q : Nat} {r : Ring} (h : canonical d = true) : ring (setRing d q r) q = r := by
  have he := (canonical_iff.mp h).2.eng
  simp only [engOk, Bool.and_eq_true] at he
  exact get_set_eq he.1.1.2

theorem queue_setQueue {d : Device} {q : Nat} {ps : List QPkt} (h : canonical d = true) : queue (setQueue d q ps) q = ps := by
  have he := (canonical_iff.mp h).2.eng
  simp only [engOk, Bool.and_eq_true] at he
  exact get_set_eq he.1.1.1.1

theorem Keeps.canonicalAfter {m w d0 d} (h : Keeps m w d0 d) (c : canonical d0 = true) : canonical d = true := by
  rw [canonical_iff] at c ⊢
  exact ⟨h.canon c.1, h.ok c.2⟩

/-- The number of a part in the sets of `Keeps`. -/
def Part.bit : Part → Nat
  | .words => 0 | .mode => 1 | .prev => 2 | .roofTime => 3 | .cycles => 4 | .core => 5 | .rails => 6 | .seq => 7 | .cl => 8
  | .ev => 9 | .eng => 10 | .perf => 11 | .adc => 12 | .therm => 13 | .bg => 14 | .link => 15 | .vly => 16 | .gauge => 17
  | .power => 18 | .rtc => 19 | .otp => 20 | .log => 21 | .fw => 22 | .freeN => 23

theorem Keeps.same {m w d0 d} (h : Keeps m w d0 d) (p : Part) (hp : m.testBit p.bit = false) : p.same d0 d = true := by
  obtain ⟨h0, h1, h2, h3, h4, h5, h6, h7, h8, h9, h10, h11, h12, h13, h14, h15, h16, h17, h18, h19, h20, h21, h22, h23, -⟩ := h
  cases p <;> simp only [Part.same, beq_iff_eq, Part.bit] at hp ⊢ <;> simp_all

/-- Only the parts `ps` change where the set `m` names no other. -/
theorem Keeps.onlyParts {m w d0 d} (h : Keeps m w d0 d) {ps : List Part}
    (k : allParts.all (fun p => ps.contains p || !m.testBit p.bit) = true) : OnlyParts ps d0 d := by
  intro p hp hn
  have hk := List.all_eq_true.mp k p hp
  apply h.same p
  cases hb : m.testBit p.bit
  · rfl
  · rw [hb] at hk
    simp [hn] at hk

/-- Only words of the tables `ts` change where the set `w` names no other. -/
theorem Keeps.onlyTables {m w d0 d} (h : Keeps m w d0 d) {ts : List Nat} (h230 : w.testBit 230 = false)
    (k : allFams.zipIdx.all (fun p => !w.testBit p.2 || ts.contains p.1.base) = true) : OnlyTables (some ts) d0 d := by
  intro a ha
  apply h.frame a
  unfold famTouch
  rw [h230, Bool.false_or, List.any_eq_false]
  intro p hp hc
  rw [Bool.and_eq_true] at hc
  have hk := List.all_eq_true.mp k p hp
  rw [hc.1, Bool.not_true, Bool.false_or] at hk
  unfold inTables at ha
  rw [List.any_eq_false] at ha
  apply ha p.1
  · obtain ⟨x, i⟩ := p
    rw [List.mem_zipIdx_iff_getElem?] at hp
    exact List.mem_of_getElem? hp
  · rw [hk, hc.2]
    rfl

/-- A row that keeps what `RowKeeps` says answers a next state with the queue kept, of which the frame holds. -/
theorem RowKeeps.frame {m u : Nat} {i : Instr} {q : List Instr} {d : Device} (h : RowKeeps m u i { pending := q, dev := d }) :
    ∃ e, exec i { pending := q, dev := d } = .next { pending := q, dev := e } ∧ Keeps m u d e := h

end Sys2Proof.Machine
end

