-- ==== Sys2Proof/WellFormed.lean ====
section
/-! DEFINITION. Which commands are well formed: what an operand's Lean type does not say of what the bus or the device can
present. Every command runs; a command that is not well formed stands for nothing that can happen. -/

namespace Sys2Proof

/-- R396: a packet has at most 62 parameter words. -/
def paramsFit (ps : List Word) : Bool := ps.length ≤ 62

/-- R396, R443, R444: the data of a staging packet follow one parameter word. -/
def dataFit (ps : List Word) : Bool := ps.length ≤ 61

/-- R488: the ADC channels are 0-135. -/
def channelFit (ch : Option (BitVec 8)) : Bool := ch.all (fun c => c.toNat < 136)

/-- R126: the phases of the clusters are numbered 0-9, the causes of a failure 1-6. -/
def phasesFit (fs : List (BitVec 4 × BitVec 3)) : Bool :=
  fs.all (fun f => f.1.toNat < 10 && 1 ≤ f.2.toNat && f.2.toNat ≤ 6)

/-- R70: a supply in millivolts and a temperature in tenths of a degree, as 16-bit results (R473). -/
def sampleFit (vpre : Nat) (hot : Int) : Bool := vpre < 65536 && -32768 ≤ hot && hot < 32768

/-- A command that can happen. -/
def Instr.wellFormed : Instr → Bool
  | .adcSubscribe _ ps => paramsFit ps
  | .thatchSubmit _ ps => paramsFit ps
  | .trussStage _ _ data => dataFit data
  | .fwStage _ _ data => dataFit data
  | .adcConversionEnd _ _ _ req _ => channelFit req
  | .clusterPhaseFail fails => phasesFit fails
  | .otpProgram _ _ _ _ vpre hot => sampleFit vpre hot
  | .otpFinalize _ _ vpre hot => sampleFit vpre hot
  | .otpWordDone _ _ vpre hot => sampleFit vpre hot
  | .otpWindowSample _ vpre hot _ => sampleFit vpre hot
  | .fwActivate _ _ vpre hot => sampleFit vpre hot
  | .fwConfirmed vpre hot => sampleFit vpre hot
  | .arbPending vpre hot => sampleFit vpre hot
  | _ => true

end Sys2Proof
end

