-- ==== Sys2Proof/Laws/PerInstr.lean ====
section
/-! SUPPORT. One lemma for each row of the table of operations: a command is well formed whatever its operands, but for the rows
that carry a list of words or a measured value. -/

set_option linter.all false
set_option Elab.async false


namespace Sys2Proof.Laws.Wf

/-- The rows with an operand that WellFormed judges: a list of words, a channel, a list of phases, a supply and a temperature. -/
def judged : Instr → Bool
  | .adcSubscribe .. => true
  | .otpProgram .. => true
  | .otpFinalize .. => true
  | .trussStage .. => true
  | .fwStage .. => true
  | .fwActivate .. => true
  | .clusterPhaseFail .. => true
  | .adcConversionEnd .. => true
  | .fwConfirmed .. => true
  | .arbPending .. => true
  | .otpWindowSample .. => true
  | .otpWordDone .. => true
  | .thatchSubmit .. => true
  | _ => false

/-- A command without such an operand is well formed. -/
def Statement (i : Instr) : Prop := judged i = false → i.wellFormed = true

theorem nop rq : Statement (.nop rq) := fun _ => rfl
theorem fence rq : Statement (.fence rq) := fun _ => rfl
theorem fenceAll rq : Statement (.fenceAll rq) := fun _ => rfl
theorem echo rq p0 p1 : Statement (.echo rq p0 p1) := fun _ => rfl
theorem queueCfg rq p0 : Statement (.queueCfg rq p0) := fun _ => rfl
theorem tagFlush rq p0 : Statement (.tagFlush rq p0) := fun _ => rfl
theorem regRead rq p0 : Statement (.regRead rq p0) := fun _ => rfl
theorem regWrite rq p0 p1 : Statement (.regWrite rq p0 p1) := fun _ => rfl
theorem regRmw rq p0 p1 p2 : Statement (.regRmw rq p0 p1 p2) := fun _ => rfl
theorem regReadBlock rq p0 : Statement (.regReadBlock rq p0) := fun _ => rfl
theorem seqUp rq : Statement (.seqUp rq) := fun _ => rfl
theorem seqDown rq : Statement (.seqDown rq) := fun _ => rfl
theorem railOn rq p0 : Statement (.railOn rq p0) := fun _ => rfl
theorem railOff rq p0 : Statement (.railOff rq p0) := fun _ => rfl
theorem railSetV rq p0 : Statement (.railSetV rq p0) := fun _ => rfl
theorem modeSet rq p0 : Statement (.modeSet rq p0) := fun _ => rfl
theorem latchClear rq : Statement (.latchClear rq) := fun _ => rfl
theorem resetSoft rq p0 : Statement (.resetSoft rq p0) := fun _ => rfl
theorem resetHard rq p0 : Statement (.resetHard rq p0) := fun _ => rfl
theorem spareDrill rq p0 : Statement (.spareDrill rq p0) := fun _ => rfl
theorem selftest rq p0 failed samples : Statement (.selftest rq p0 failed samples) := fun _ => rfl
theorem chgKick rq : Statement (.chgKick rq) := fun _ => rfl
theorem chgClear rq : Statement (.chgClear rq) := fun _ => rfl
theorem roofQuery rq : Statement (.roofQuery rq) := fun _ => rfl
theorem vlyRequest rq p0 p1 dst cn : Statement (.vlyRequest rq p0 p1 dst cn) := fun _ => rfl
theorem vlyEnd rq : Statement (.vlyEnd rq) := fun _ => rfl
theorem adcConvert rq p0 : Statement (.adcConvert rq p0) := fun _ => rfl
theorem adcSubscribe rq params : Statement (.adcSubscribe rq params) := fun h => nomatch h
theorem tempRead rq p0 : Statement (.tempRead rq p0) := fun _ => rfl
theorem evtAck rq p0 p1 : Statement (.evtAck rq p0 p1) := fun _ => rfl
theorem evtGdis rq p0 : Statement (.evtGdis rq p0) := fun _ => rfl
theorem rtcSet rq p0 p1 edge : Statement (.rtcSet rq p0 p1 edge) := fun _ => rfl
theorem rtcGet rq late : Statement (.rtcGet rq late) := fun _ => rfl
theorem rtcTrim rq p0 : Statement (.rtcTrim rq p0) := fun _ => rfl
theorem otpRead rq p0 : Statement (.otpRead rq p0) := fun _ => rfl
theorem otpShadowWrite rq p0 p1 p2 : Statement (.otpShadowWrite rq p0 p1 p2) := fun _ => rfl
theorem otpProgram rq p0 p1 p2 vpre hot : Statement (.otpProgram rq p0 p1 p2 vpre hot) := fun h => nomatch h
theorem otpFinalize rq p0 vpre hot : Statement (.otpFinalize rq p0 vpre hot) := fun h => nomatch h
theorem trussStage rq p0 data : Statement (.trussStage rq p0 data) := fun h => nomatch h
theorem trussCommit rq : Statement (.trussCommit rq) := fun _ => rfl
theorem fwStage rq p0 data : Statement (.fwStage rq p0 data) := fun h => nomatch h
theorem fwActivate rq p0 vpre hot : Statement (.fwActivate rq p0 vpre hot) := fun h => nomatch h
theorem wdtKick rq : Statement (.wdtKick rq) := fun _ => rfl
theorem traceTrigger rq p0 : Statement (.traceTrigger rq p0) := fun _ => rfl
theorem traceRearm rq : Statement (.traceRearm rq) := fun _ => rfl
theorem traceStream rq p0 : Statement (.traceStream rq p0) := fun _ => rfl
theorem cntSnapshot rq : Statement (.cntSnapshot rq) := fun _ => rfl
theorem cntClear rq p0 p1 : Statement (.cntClear rq p0 p1) := fun _ => rfl
theorem hostPageRead tx : Statement (.hostPageRead tx) := fun _ => rfl
theorem hostPageWrite tx : Statement (.hostPageWrite tx) := fun _ => rfl
theorem push tx : Statement (.push tx) := fun _ => rfl
theorem pop tx : Statement (.pop tx) := fun _ => rfl
theorem hpDoorbell v : Statement (.hpDoorbell v) := fun _ => rfl
theorem hpSqMode v : Statement (.hpSqMode v) := fun _ => rfl
theorem rngPtr r v : Statement (.rngPtr r v) := fun _ => rfl
theorem evtFpend : Statement .evtFpend := fun _ => rfl
theorem evtFack v : Statement (.evtFack v) := fun _ => rfl
theorem forget rq : Statement (.forget rq) := fun _ => rfl
theorem endReq rq : Statement (.endReq rq) := fun _ => rfl
theorem gutSel rq v : Statement (.gutSel rq v) := fun _ => rfl
theorem capFree rq v : Statement (.capFree rq v) := fun _ => rfl
theorem hostHold rq v : Statement (.hostHold rq v) := fun _ => rfl
theorem faultLatch rq n : Statement (.faultLatch rq n) := fun _ => rfl
theorem rtcTime rq v : Statement (.rtcTime rq v) := fun _ => rfl
theorem rtcDate rq v : Statement (.rtcDate rq v) := fun _ => rfl
theorem evTs rq x : Statement (.evTs rq x) := fun _ => rfl
theorem lnkFn rq : Statement (.lnkFn rq) := fun _ => rfl
theorem pcVal rq k : Statement (.pcVal rq k) := fun _ => rfl
theorem smpN rq v : Statement (.smpN rq v) := fun _ => rfl
theorem chgSet rq v : Statement (.chgSet rq v) := fun _ => rfl
theorem evtCoal rq g v : Statement (.evtCoal rq g v) := fun _ => rfl
theorem evtEn rq g v : Statement (.evtEn rq g v) := fun _ => rfl
theorem powerOnReset bkCold : Statement (.powerOnReset bkCold) := fun _ => rfl
theorem porRelease samples testEn : Statement (.porRelease samples testEn) := fun _ => rfl
theorem uvlo : Statement .uvlo := fun _ => rfl
theorem nrst : Statement .nrst := fun _ => rfl
theorem nrstRelease : Statement .nrstRelease := fun _ => rfl
theorem purlinWdt : Statement .purlinWdt := fun _ => rfl
theorem lockstep : Statement .lockstep := fun _ => rfl
theorem softResetDone : Statement .softResetDone := fun _ => rfl
theorem keeperTrip n : Statement (.keeperTrip n) := fun _ => rfl
theorem pllLock align : Statement (.pllLock align) := fun _ => rfl
theorem purlinHashCheck : Statement .purlinHashCheck := fun _ => rfl
theorem otpRegionsRead : Statement .otpRegionsRead := fun _ => rfl
theorem bootSelftestDone pass : Statement (.bootSelftestDone pass) := fun _ => rfl
theorem thatchVerify : Statement .thatchVerify := fun _ => rfl
theorem thatchReady : Statement .thatchReady := fun _ => rfl
theorem bootEntry : Statement .bootEntry := fun _ => rfl
theorem adoption crc samples : Statement (.adoption crc samples) := fun _ => rfl
theorem wakePin x level n : Statement (.wakePin x level n) := fun _ => rfl
theorem vsupWake low high n : Statement (.vsupWake low high n) := fun _ => rfl
theorem vauxWake us : Statement (.vauxWake us) := fun _ => rfl
theorem alarm a hold : Statement (.alarm a hold) := fun _ => rfl
theorem evTimestamp x rise presc hold : Statement (.evTimestamp x rise presc hold) := fun _ => rfl
theorem rtcSecond : Statement .rtcSecond := fun _ => rfl
theorem oscFail : Statement .oscFail := fun _ => rfl
theorem rtcCalCycle : Statement .rtcCalCycle := fun _ => rfl
theorem bkSupplySwitch : Statement .bkSupplySwitch := fun _ => rfl
theorem bkReturn : Statement .bkReturn := fun _ => rfl
theorem trimDone counts : Statement (.trimDone counts) := fun _ => rfl
theorem trimTimeout : Statement .trimTimeout := fun _ => rfl
theorem comparatorTrip n k both : Statement (.comparatorTrip n k both) := fun _ => rfl
theorem comparatorRelease n k : Statement (.comparatorRelease n k) := fun _ => rfl
theorem ocTrip n : Statement (.ocTrip n) := fun _ => rfl
theorem ldoOcTrip n : Statement (.ldoOcTrip n) := fun _ => rfl
theorem powerGood n ldin : Statement (.powerGood n ldin) := fun _ => rfl
theorem pgoodRelease k : Statement (.pgoodRelease k) := fun _ => rfl
theorem ssoRelease j : Statement (.ssoRelease j) := fun _ => rfl
theorem ssoFault j : Statement (.ssoFault j) := fun _ => rfl
theorem interlockRelease n low : Statement (.interlockRelease n low) := fun _ => rfl
theorem slotOn n : Statement (.slotOn n) := fun _ => rfl
theorem t0Reached : Statement .t0Reached := fun _ => rfl
theorem riseFail mask : Statement (.riseFail mask) := fun _ => rfl
theorem railOnTimeout n : Statement (.railOnTimeout n) := fun _ => rfl
theorem offDelay n : Statement (.offDelay n) := fun _ => rfl
theorem gateTimeout n : Statement (.gateTimeout n) := fun _ => rfl
theorem railFallen n : Statement (.railFallen n) := fun _ => rfl
theorem fallFail n : Statement (.fallFail n) := fun _ => rfl
theorem forcedDischargeEnd n : Statement (.forcedDischargeEnd n) := fun _ => rfl
theorem retryDelay : Statement .retryDelay := fun _ => rfl
theorem retryCntClear : Statement .retryCntClear := fun _ => rfl
theorem tRest : Statement .tRest := fun _ => rfl
theorem softStartComplete n : Statement (.softStartComplete n) := fun _ => rfl
theorem softStopComplete n : Statement (.softStopComplete n) := fun _ => rfl
theorem setPointMoveEnd n : Statement (.setPointMoveEnd n) := fun _ => rfl
theorem hcPhaseFail k cause : Statement (.hcPhaseFail k cause) := fun _ => rfl
theorem syncLost : Statement .syncLost := fun _ => rfl
theorem syncRequalify n : Statement (.syncRequalify n) := fun _ => rfl
theorem syncLocked n : Statement (.syncLocked n) := fun _ => rfl
theorem syncQualified periods : Statement (.syncQualified periods) := fun _ => rfl
theorem brakeStart n below : Statement (.brakeStart n below) := fun _ => rfl
theorem brakeEnd n : Statement (.brakeEnd n) := fun _ => rfl
theorem clusterPhaseFail fails : Statement (.clusterPhaseFail fails) := fun h => nomatch h
theorem handoverMatch c m : Statement (.handoverMatch c m) := fun _ => rfl
theorem spareEngaged c : Statement (.spareEngaged c) := fun _ => rfl
theorem handoverFail c : Statement (.handoverFail c) := fun _ => rfl
theorem rotationEval c : Statement (.rotationEval c) := fun _ => rfl
theorem rotationRelease c : Statement (.rotationRelease c) := fun _ => rfl
theorem phaseShed n : Statement (.phaseShed n) := fun _ => rfl
theorem shedResume n : Statement (.shedResume n) := fun _ => rfl
theorem drillTimeout c : Statement (.drillTimeout c) := fun _ => rfl
theorem drillHoldEnd c ma opened : Statement (.drillHoldEnd c ma opened) := fun _ => rfl
theorem gbShort k : Statement (.gbShort k) := fun _ => rfl
theorem gbOpen k present : Statement (.gbOpen k present) := fun _ => rfl
theorem gbUvlo bank : Statement (.gbUvlo bank) := fun _ => rfl
theorem gbUvloRelease bank : Statement (.gbUvloRelease bank) := fun _ => rfl
theorem gbRampDone k : Statement (.gbRampDone k) := fun _ => rfl
theorem gbOffCounted k : Statement (.gbOffCounted k) := fun _ => rfl
theorem vsupLost low : Statement (.vsupLost low) := fun _ => rfl
theorem vsupLostInReset low energy : Statement (.vsupLostInReset low energy) := fun _ => rfl
theorem vsupBack : Statement .vsupBack := fun _ => rfl
theorem handbackDone : Statement .handbackDone := fun _ => rfl
theorem chargeResume : Statement .chargeResume := fun _ => rfl
theorem idgReverse low : Statement (.idgReverse low) := fun _ => rfl
theorem idgForward : Statement .idgForward := fun _ => rfl
theorem packCutoff : Statement .packCutoff := fun _ => rfl
theorem cutoffReenable : Statement .cutoffReenable := fun _ => rfl
theorem packRemoved ov : Statement (.packRemoved ov) := fun _ => rfl
theorem packInserted : Statement .packInserted := fun _ => rfl
theorem bkFault : Statement .bkFault := fun _ => rfl
theorem unanchoredHoldupEnd : Statement .unanchoredHoldupEnd := fun _ => rfl
theorem boostIlim beyond us : Statement (.boostIlim beyond us) := fun _ => rfl
theorem inputLimit : Statement .inputLimit := fun _ => rfl
theorem chargerTick lim amps : Statement (.chargerTick lim amps) := fun _ => rfl
theorem packNtcConversion short : Statement (.packNtcConversion short) := fun _ => rfl
theorem chgDone removed : Statement (.chgDone removed) := fun _ => rfl
theorem chgTimeout : Statement .chgTimeout := fun _ => rfl
theorem chgWdExpired : Statement .chgWdExpired := fun _ => rfl
theorem gaugeConversion nv : Statement (.gaugeConversion nv) := fun _ => rfl
theorem quietConversion nv : Statement (.quietConversion nv) := fun _ => rfl
theorem quietExit : Statement .quietExit := fun _ => rfl
theorem emptyRearm : Statement .emptyRearm := fun _ => rfl
theorem reserveRecompute : Statement .reserveRecompute := fun _ => rfl
theorem gaugeCheckpoint : Statement .gaugeCheckpoint := fun _ => rfl
theorem thermalSample mask : Statement (.thermalSample mask) := fun _ => rfl
theorem adcConversionEnd c v beyond req raw : Statement (.adcConversionEnd c v beyond req raw) := fun h => nomatch h
theorem adcListPass c : Statement (.adcListPass c) := fun _ => rfl
theorem adcCalibration c : Statement (.adcCalibration c) := fun _ => rfl
theorem adcCalibrationEnd c gain offset half : Statement (.adcCalibrationEnd c gain offset half) := fun _ => rfl
theorem adcConvertTimeout ch : Statement (.adcConvertTimeout ch) := fun _ => rfl
theorem coalesceTimeout g : Statement (.coalesceTimeout g) := fun _ => rfl
theorem packetIssue pick : Statement (.packetIssue pick) := fun _ => rfl
theorem packetStart k env : Statement (.packetStart k env) := fun _ => rfl
theorem duplicateRejudge q : Statement (.duplicateRejudge q) := fun _ => rfl
theorem completionStall : Statement .completionStall := fun _ => rfl
theorem frameStartTx : Statement .frameStartTx := fun _ => rfl
theorem frameStartRx fn off spaced : Statement (.frameStartRx fn off spaced) := fun _ => rfl
theorem slotTx abandoned : Statement (.slotTx abandoned) := fun _ => rfl
theorem slotError a preempted : Statement (.slotError a preempted) := fun _ => rfl
theorem status a mode flags p1 : Statement (.status a mode flags p1) := fun _ => rfl
theorem presence a mode major compat features : Statement (.presence a mode major compat features) := fun _ => rfl
theorem digest a mode digest : Statement (.digest a mode digest) := fun _ => rfl
theorem calReq a mode seq err : Statement (.calReq a mode seq err) := fun _ => rfl
theorem calResp a mode target kind v : Statement (.calResp a mode target kind v) := fun _ => rfl
theorem guardExchange a rtt : Statement (.guardExchange a rtt) := fun _ => rfl
theorem disciplined : Statement .disciplined := fun _ => rfl
theorem holderElection : Statement .holderElection := fun _ => rfl
theorem holderHandover : Statement .holderHandover := fun _ => rfl
theorem holderLost : Statement .holderLost := fun _ => rfl
theorem holderChange : Statement .holderChange := fun _ => rfl
theorem holdoverLimit : Statement .holdoverLimit := fun _ => rfl
theorem memberLost a : Statement (.memberLost a) := fun _ => rfl
theorem addrConflict : Statement .addrConflict := fun _ => rfl
theorem linkDead : Statement .linkDead := fun _ => rfl
theorem urgentReinsert : Statement .urgentReinsert := fun _ => rfl
theorem fault data fn sym : Statement (.fault data fn sym) := fun _ => rfl
theorem descendInsertion data fn sym : Statement (.descendInsertion data fn sym) := fun _ => rfl
theorem loss data fn sym : Statement (.loss data fn sym) := fun _ => rfl
theorem hold data fn sym : Statement (.hold data fn sym) := fun _ => rfl
theorem echoSlot a mode kind data fn sym : Statement (.echoSlot a mode kind data fn sym) := fun _ => rfl
theorem announceStart a mode w1 w2 : Statement (.announceStart a mode w1 w2) := fun _ => rfl
theorem announceState a mode w1 w2 : Statement (.announceState a mode w1 w2) := fun _ => rfl
theorem announceDown a mode w1 w2 : Statement (.announceDown a mode w1 w2) := fun _ => rfl
theorem agree a mode w1 w2 : Statement (.agree a mode w1 w2) := fun _ => rfl
theorem startAnnounced : Statement .startAnnounced := fun _ => rfl
theorem degradedStart : Statement .degradedStart := fun _ => rfl
theorem startTimeout : Statement .startTimeout := fun _ => rfl
theorem timeAbort : Statement .timeAbort := fun _ => rfl
theorem noncompliant a : Statement (.noncompliant a) := fun _ => rfl
theorem offer a mode w1 w2 : Statement (.offer a mode w1 w2) := fun _ => rfl
theorem request a mode w1 w2 : Statement (.request a mode w1 w2) := fun _ => rfl
theorem accept a mode w1 w2 : Statement (.accept a mode w1 w2) := fun _ => rfl
theorem reject a mode w1 w2 : Statement (.reject a mode w1 w2) := fun _ => rfl
theorem swapReq a mode w1 w2 : Statement (.swapReq a mode w1 w2) := fun _ => rfl
theorem swapAck a mode w1 w2 : Statement (.swapAck a mode w1 w2) := fun _ => rfl
theorem contractBegin : Statement .contractBegin := fun _ => rfl
theorem safeLowStart : Statement .safeLowStart := fun _ => rfl
theorem softstartDone : Statement .softstartDone := fun _ => rfl
theorem startFail : Statement .startFail := fun _ => rfl
theorem vlyOverload : Statement .vlyOverload := fun _ => rfl
theorem vlyOv : Statement .vlyOv := fun _ => rfl
theorem sinkDiodeClose : Statement .sinkDiodeClose := fun _ => rfl
theorem sinkLineLow : Statement .sinkLineLow := fun _ => rfl
theorem fsArmed : Statement .fsArmed := fun _ => rfl
theorem fastSwap low : Statement (.fastSwap low) := fun _ => rfl
theorem sourceToDiode : Statement .sourceToDiode := fun _ => rfl
theorem energySpent : Statement .energySpent := fun _ => rfl
theorem swapTx : Statement .swapTx := fun _ => rfl
theorem swapOutgoing : Statement .swapOutgoing := fun _ => rfl
theorem swapAmend e : Statement (.swapAmend e) := fun _ => rfl
theorem ppsPulse : Statement .ppsPulse := fun _ => rfl
theorem thatchWdt : Statement .thatchWdt := fun _ => rfl
theorem quiesceTimeout : Statement .quiesceTimeout := fun _ => rfl
theorem fwConfirmed vpre hot : Statement (.fwConfirmed vpre hot) := fun h => nomatch h
theorem arbPending vpre hot : Statement (.arbPending vpre hot) := fun h => nomatch h
theorem hwdExpired : Statement .hwdExpired := fun _ => rfl
theorem scrubAccess m word found fore last : Statement (.scrubAccess m word found fore last) := fun _ => rfl
theorem sectorErase : Statement .sectorErase := fun _ => rfl
theorem telemetryRecord : Statement .telemetryRecord := fun _ => rfl
theorem gutterWrite : Statement .gutterWrite := fun _ => rfl
theorem gutAbandoned : Statement .gutAbandoned := fun _ => rfl
theorem gutterRewrite : Statement .gutterRewrite := fun _ => rfl
theorem gutBufFilled : Statement .gutBufFilled := fun _ => rfl
theorem traceCheckpoint : Statement .traceCheckpoint := fun _ => rfl
theorem trcFrozen : Statement .trcFrozen := fun _ => rfl
theorem trcCopied more : Statement (.trcCopied more) := fun _ => rfl
theorem capFreed k : Statement (.capFreed k) := fun _ => rfl
theorem replayDigest same interval cycle sub : Statement (.replayDigest same interval cycle sub) := fun _ => rfl
theorem rplDone : Statement .rplDone := fun _ => rfl
theorem sampleEntry : Statement .sampleEntry := fun _ => rfl
theorem sampleDrain : Statement .sampleDrain := fun _ => rfl
theorem counterDump : Statement .counterDump := fun _ => rfl
theorem xtalOk : Statement .xtalOk := fun _ => rfl
theorem refLost : Statement .refLost := fun _ => rfl
theorem refRestored : Statement .refRestored := fun _ => rfl
theorem pllLoss : Statement .pllLoss := fun _ => rfl
theorem lpoFault : Statement .lpoFault := fun _ => rfl
theorem otpWindowSample n vpre hot left : Statement (.otpWindowSample n vpre hot left) := fun h => nomatch h
theorem otpWordDone miss soft vpre hot : Statement (.otpWordDone miss soft vpre hot) := fun h => nomatch h
theorem otpReadDone : Statement .otpReadDone := fun _ => rfl
theorem selftestTimeout : Statement .selftestTimeout := fun _ => rfl
theorem vlyRequestTimeout : Statement .vlyRequestTimeout := fun _ => rfl
theorem standbyDormantTransition : Statement .standbyDormantTransition := fun _ => rfl
theorem thatchCheckIn : Statement .thatchCheckIn := fun _ => rfl
theorem purlinWdtKick : Statement .purlinWdtKick := fun _ => rfl
theorem acuException : Statement .acuException := fun _ => rfl
theorem thatchRestartRequest : Statement .thatchRestartRequest := fun _ => rfl
theorem thatchSubmit header params : Statement (.thatchSubmit header params) := fun h => nomatch h
theorem q16MessagePlaced type w1 w2 : Statement (.q16MessagePlaced type w1 w2) := fun _ => rfl
theorem thatchWaitTimeout : Statement .thatchWaitTimeout := fun _ => rfl
theorem vsupReturn : Statement .vsupReturn := fun _ => rfl
theorem lpoBadClear : Statement .lpoBadClear := fun _ => rfl
theorem pdBkSupplyReturn : Statement .pdBkSupplyReturn := fun _ => rfl
theorem outputDigestRecord changes : Statement (.outputDigestRecord changes) := fun _ => rfl

end Sys2Proof.Laws.Wf
end

