-- ==== Sys2Proof/Laws/State.lean ====
section
/-! SUPPORT. The updates of the block: each leaves every part but its own, one lemma for each part. -/

set_option linter.all false
set_option Elab.async false


namespace Sys2Proof.Machine

/-! ### `setW` -/

@[simp] theorem setW_mode (d : Device) (a : Nat) (w : Word) : (setW d a w).mode = d.mode := rfl
@[simp] theorem setW_prev (d : Device) (a : Nat) (w : Word) : (setW d a w).prev = d.prev := rfl
@[simp] theorem setW_roofTime (d : Device) (a : Nat) (w : Word) : (setW d a w).roofTime = d.roofTime := rfl
@[simp] theorem setW_cycles (d : Device) (a : Nat) (w : Word) : (setW d a w).cycles = d.cycles := rfl
@[simp] theorem setW_core (d : Device) (a : Nat) (w : Word) : (setW d a w).core = d.core := rfl
@[simp] theorem setW_rails (d : Device) (a : Nat) (w : Word) : (setW d a w).rails = d.rails := rfl
@[simp] theorem setW_seq (d : Device) (a : Nat) (w : Word) : (setW d a w).seq = d.seq := rfl
@[simp] theorem setW_cl (d : Device) (a : Nat) (w : Word) : (setW d a w).cl = d.cl := rfl
@[simp] theorem setW_ev (d : Device) (a : Nat) (w : Word) : (setW d a w).ev = d.ev := rfl
@[simp] theorem setW_eng (d : Device) (a : Nat) (w : Word) : (setW d a w).eng = d.eng := rfl
@[simp] theorem setW_perf (d : Device) (a : Nat) (w : Word) : (setW d a w).perf = d.perf := rfl
@[simp] theorem setW_adc (d : Device) (a : Nat) (w : Word) : (setW d a w).adc = d.adc := rfl
@[simp] theorem setW_therm (d : Device) (a : Nat) (w : Word) : (setW d a w).therm = d.therm := rfl
@[simp] theorem setW_bg (d : Device) (a : Nat) (w : Word) : (setW d a w).bg = d.bg := rfl
@[simp] theorem setW_link (d : Device) (a : Nat) (w : Word) : (setW d a w).link = d.link := rfl
@[simp] theorem setW_vly (d : Device) (a : Nat) (w : Word) : (setW d a w).vly = d.vly := rfl
@[simp] theorem setW_gauge (d : Device) (a : Nat) (w : Word) : (setW d a w).gauge = d.gauge := rfl
@[simp] theorem setW_power (d : Device) (a : Nat) (w : Word) : (setW d a w).power = d.power := rfl
@[simp] theorem setW_rtc (d : Device) (a : Nat) (w : Word) : (setW d a w).rtc = d.rtc := rfl
@[simp] theorem setW_otp (d : Device) (a : Nat) (w : Word) : (setW d a w).otp = d.otp := rfl
@[simp] theorem setW_log (d : Device) (a : Nat) (w : Word) : (setW d a w).log = d.log := rfl
@[simp] theorem setW_fw (d : Device) (a : Nat) (w : Word) : (setW d a w).fw = d.fw := rfl
@[simp] theorem setW_freeN (d : Device) (a : Nat) (w : Word) : (setW d a w).freeN = d.freeN := rfl

/-! ### `setFld` -/

@[simp] theorem setFld_mode (d : Device) (f : Fld) (v i : Nat) : (setFld d f v i).mode = d.mode := by unfold setFld; split <;> rfl
@[simp] theorem setFld_prev (d : Device) (f : Fld) (v i : Nat) : (setFld d f v i).prev = d.prev := by unfold setFld; split <;> rfl
@[simp] theorem setFld_roofTime (d : Device) (f : Fld) (v i : Nat) : (setFld d f v i).roofTime = d.roofTime := by unfold setFld; split <;> rfl
@[simp] theorem setFld_cycles (d : Device) (f : Fld) (v i : Nat) : (setFld d f v i).cycles = d.cycles := by unfold setFld; split <;> rfl
@[simp] theorem setFld_core (d : Device) (f : Fld) (v i : Nat) : (setFld d f v i).core = d.core := by unfold setFld; split <;> rfl
@[simp] theorem setFld_rails (d : Device) (f : Fld) (v i : Nat) : (setFld d f v i).rails = d.rails := by unfold setFld; split <;> rfl
@[simp] theorem setFld_seq (d : Device) (f : Fld) (v i : Nat) : (setFld d f v i).seq = d.seq := by unfold setFld; split <;> rfl
@[simp] theorem setFld_cl (d : Device) (f : Fld) (v i : Nat) : (setFld d f v i).cl = d.cl := by unfold setFld; split <;> rfl
@[simp] theorem setFld_ev (d : Device) (f : Fld) (v i : Nat) : (setFld d f v i).ev = d.ev := by unfold setFld; split <;> rfl
@[simp] theorem setFld_eng (d : Device) (f : Fld) (v i : Nat) : (setFld d f v i).eng = d.eng := by unfold setFld; split <;> rfl
@[simp] theorem setFld_perf (d : Device) (f : Fld) (v i : Nat) : (setFld d f v i).perf = d.perf := by unfold setFld; split <;> rfl
@[simp] theorem setFld_adc (d : Device) (f : Fld) (v i : Nat) : (setFld d f v i).adc = d.adc := by unfold setFld; split <;> rfl
@[simp] theorem setFld_therm (d : Device) (f : Fld) (v i : Nat) : (setFld d f v i).therm = d.therm := by unfold setFld; split <;> rfl
@[simp] theorem setFld_bg (d : Device) (f : Fld) (v i : Nat) : (setFld d f v i).bg = d.bg := by unfold setFld; split <;> rfl
@[simp] theorem setFld_link (d : Device) (f : Fld) (v i : Nat) : (setFld d f v i).link = d.link := by unfold setFld; split <;> rfl
@[simp] theorem setFld_vly (d : Device) (f : Fld) (v i : Nat) : (setFld d f v i).vly = d.vly := by unfold setFld; split <;> rfl
@[simp] theorem setFld_gauge (d : Device) (f : Fld) (v i : Nat) : (setFld d f v i).gauge = d.gauge := by unfold setFld; split <;> rfl
@[simp] theorem setFld_power (d : Device) (f : Fld) (v i : Nat) : (setFld d f v i).power = d.power := by unfold setFld; split <;> rfl
@[simp] theorem setFld_rtc (d : Device) (f : Fld) (v i : Nat) : (setFld d f v i).rtc = d.rtc := by unfold setFld; split <;> rfl
@[simp] theorem setFld_otp (d : Device) (f : Fld) (v i : Nat) : (setFld d f v i).otp = d.otp := by unfold setFld; split <;> rfl
@[simp] theorem setFld_log (d : Device) (f : Fld) (v i : Nat) : (setFld d f v i).log = d.log := by unfold setFld; split <;> rfl
@[simp] theorem setFld_fw (d : Device) (f : Fld) (v i : Nat) : (setFld d f v i).fw = d.fw := by unfold setFld; split <;> rfl
@[simp] theorem setFld_freeN (d : Device) (f : Fld) (v i : Nat) : (setFld d f v i).freeN = d.freeN := by unfold setFld; split <;> rfl

/-! ### `setFlag` -/

@[simp] theorem setFlag_mode (d : Device) (f : Fld) (b : Bool) (i : Nat) : (setFlag d f b i).mode = d.mode := setFld_mode d f _ i
@[simp] theorem setFlag_prev (d : Device) (f : Fld) (b : Bool) (i : Nat) : (setFlag d f b i).prev = d.prev := setFld_prev d f _ i
@[simp] theorem setFlag_roofTime (d : Device) (f : Fld) (b : Bool) (i : Nat) : (setFlag d f b i).roofTime = d.roofTime := setFld_roofTime d f _ i
@[simp] theorem setFlag_cycles (d : Device) (f : Fld) (b : Bool) (i : Nat) : (setFlag d f b i).cycles = d.cycles := setFld_cycles d f _ i
@[simp] theorem setFlag_core (d : Device) (f : Fld) (b : Bool) (i : Nat) : (setFlag d f b i).core = d.core := setFld_core d f _ i
@[simp] theorem setFlag_rails (d : Device) (f : Fld) (b : Bool) (i : Nat) : (setFlag d f b i).rails = d.rails := setFld_rails d f _ i
@[simp] theorem setFlag_seq (d : Device) (f : Fld) (b : Bool) (i : Nat) : (setFlag d f b i).seq = d.seq := setFld_seq d f _ i
@[simp] theorem setFlag_cl (d : Device) (f : Fld) (b : Bool) (i : Nat) : (setFlag d f b i).cl = d.cl := setFld_cl d f _ i
@[simp] theorem setFlag_ev (d : Device) (f : Fld) (b : Bool) (i : Nat) : (setFlag d f b i).ev = d.ev := setFld_ev d f _ i
@[simp] theorem setFlag_eng (d : Device) (f : Fld) (b : Bool) (i : Nat) : (setFlag d f b i).eng = d.eng := setFld_eng d f _ i
@[simp] theorem setFlag_perf (d : Device) (f : Fld) (b : Bool) (i : Nat) : (setFlag d f b i).perf = d.perf := setFld_perf d f _ i
@[simp] theorem setFlag_adc (d : Device) (f : Fld) (b : Bool) (i : Nat) : (setFlag d f b i).adc = d.adc := setFld_adc d f _ i
@[simp] theorem setFlag_therm (d : Device) (f : Fld) (b : Bool) (i : Nat) : (setFlag d f b i).therm = d.therm := setFld_therm d f _ i
@[simp] theorem setFlag_bg (d : Device) (f : Fld) (b : Bool) (i : Nat) : (setFlag d f b i).bg = d.bg := setFld_bg d f _ i
@[simp] theorem setFlag_link (d : Device) (f : Fld) (b : Bool) (i : Nat) : (setFlag d f b i).link = d.link := setFld_link d f _ i
@[simp] theorem setFlag_vly (d : Device) (f : Fld) (b : Bool) (i : Nat) : (setFlag d f b i).vly = d.vly := setFld_vly d f _ i
@[simp] theorem setFlag_gauge (d : Device) (f : Fld) (b : Bool) (i : Nat) : (setFlag d f b i).gauge = d.gauge := setFld_gauge d f _ i
@[simp] theorem setFlag_power (d : Device) (f : Fld) (b : Bool) (i : Nat) : (setFlag d f b i).power = d.power := setFld_power d f _ i
@[simp] theorem setFlag_rtc (d : Device) (f : Fld) (b : Bool) (i : Nat) : (setFlag d f b i).rtc = d.rtc := setFld_rtc d f _ i
@[simp] theorem setFlag_otp (d : Device) (f : Fld) (b : Bool) (i : Nat) : (setFlag d f b i).otp = d.otp := setFld_otp d f _ i
@[simp] theorem setFlag_log (d : Device) (f : Fld) (b : Bool) (i : Nat) : (setFlag d f b i).log = d.log := setFld_log d f _ i
@[simp] theorem setFlag_fw (d : Device) (f : Fld) (b : Bool) (i : Nat) : (setFlag d f b i).fw = d.fw := setFld_fw d f _ i
@[simp] theorem setFlag_freeN (d : Device) (f : Fld) (b : Bool) (i : Nat) : (setFlag d f b i).freeN = d.freeN := setFld_freeN d f _ i

/-! ### `putWord` -/

@[simp] theorem putWord_mode (d : Device) (f : Fld) (v : Word) (i : Nat) : (putWord d f v i).mode = d.mode := by unfold putWord; split <;> rfl
@[simp] theorem putWord_prev (d : Device) (f : Fld) (v : Word) (i : Nat) : (putWord d f v i).prev = d.prev := by unfold putWord; split <;> rfl
@[simp] theorem putWord_roofTime (d : Device) (f : Fld) (v : Word) (i : Nat) : (putWord d f v i).roofTime = d.roofTime := by unfold putWord; split <;> rfl
@[simp] theorem putWord_cycles (d : Device) (f : Fld) (v : Word) (i : Nat) : (putWord d f v i).cycles = d.cycles := by unfold putWord; split <;> rfl
@[simp] theorem putWord_core (d : Device) (f : Fld) (v : Word) (i : Nat) : (putWord d f v i).core = d.core := by unfold putWord; split <;> rfl
@[simp] theorem putWord_rails (d : Device) (f : Fld) (v : Word) (i : Nat) : (putWord d f v i).rails = d.rails := by unfold putWord; split <;> rfl
@[simp] theorem putWord_seq (d : Device) (f : Fld) (v : Word) (i : Nat) : (putWord d f v i).seq = d.seq := by unfold putWord; split <;> rfl
@[simp] theorem putWord_cl (d : Device) (f : Fld) (v : Word) (i : Nat) : (putWord d f v i).cl = d.cl := by unfold putWord; split <;> rfl
@[simp] theorem putWord_ev (d : Device) (f : Fld) (v : Word) (i : Nat) : (putWord d f v i).ev = d.ev := by unfold putWord; split <;> rfl
@[simp] theorem putWord_eng (d : Device) (f : Fld) (v : Word) (i : Nat) : (putWord d f v i).eng = d.eng := by unfold putWord; split <;> rfl
@[simp] theorem putWord_perf (d : Device) (f : Fld) (v : Word) (i : Nat) : (putWord d f v i).perf = d.perf := by unfold putWord; split <;> rfl
@[simp] theorem putWord_adc (d : Device) (f : Fld) (v : Word) (i : Nat) : (putWord d f v i).adc = d.adc := by unfold putWord; split <;> rfl
@[simp] theorem putWord_therm (d : Device) (f : Fld) (v : Word) (i : Nat) : (putWord d f v i).therm = d.therm := by unfold putWord; split <;> rfl
@[simp] theorem putWord_bg (d : Device) (f : Fld) (v : Word) (i : Nat) : (putWord d f v i).bg = d.bg := by unfold putWord; split <;> rfl
@[simp] theorem putWord_link (d : Device) (f : Fld) (v : Word) (i : Nat) : (putWord d f v i).link = d.link := by unfold putWord; split <;> rfl
@[simp] theorem putWord_vly (d : Device) (f : Fld) (v : Word) (i : Nat) : (putWord d f v i).vly = d.vly := by unfold putWord; split <;> rfl
@[simp] theorem putWord_gauge (d : Device) (f : Fld) (v : Word) (i : Nat) : (putWord d f v i).gauge = d.gauge := by unfold putWord; split <;> rfl
@[simp] theorem putWord_power (d : Device) (f : Fld) (v : Word) (i : Nat) : (putWord d f v i).power = d.power := by unfold putWord; split <;> rfl
@[simp] theorem putWord_rtc (d : Device) (f : Fld) (v : Word) (i : Nat) : (putWord d f v i).rtc = d.rtc := by unfold putWord; split <;> rfl
@[simp] theorem putWord_otp (d : Device) (f : Fld) (v : Word) (i : Nat) : (putWord d f v i).otp = d.otp := by unfold putWord; split <;> rfl
@[simp] theorem putWord_log (d : Device) (f : Fld) (v : Word) (i : Nat) : (putWord d f v i).log = d.log := by unfold putWord; split <;> rfl
@[simp] theorem putWord_fw (d : Device) (f : Fld) (v : Word) (i : Nat) : (putWord d f v i).fw = d.fw := by unfold putWord; split <;> rfl
@[simp] theorem putWord_freeN (d : Device) (f : Fld) (v : Word) (i : Nat) : (putWord d f v i).freeN = d.freeN := by unfold putWord; split <;> rfl

/-! ### `setMaskBit` -/

@[simp] theorem setMaskBit_mode (d : Device) (f : Fld) (n : Nat) (b : Bool) (i : Nat) : (setMaskBit d f n b i).mode = d.mode := putWord_mode d f _ i
@[simp] theorem setMaskBit_prev (d : Device) (f : Fld) (n : Nat) (b : Bool) (i : Nat) : (setMaskBit d f n b i).prev = d.prev := putWord_prev d f _ i
@[simp] theorem setMaskBit_roofTime (d : Device) (f : Fld) (n : Nat) (b : Bool) (i : Nat) : (setMaskBit d f n b i).roofTime = d.roofTime := putWord_roofTime d f _ i
@[simp] theorem setMaskBit_cycles (d : Device) (f : Fld) (n : Nat) (b : Bool) (i : Nat) : (setMaskBit d f n b i).cycles = d.cycles := putWord_cycles d f _ i
@[simp] theorem setMaskBit_core (d : Device) (f : Fld) (n : Nat) (b : Bool) (i : Nat) : (setMaskBit d f n b i).core = d.core := putWord_core d f _ i
@[simp] theorem setMaskBit_rails (d : Device) (f : Fld) (n : Nat) (b : Bool) (i : Nat) : (setMaskBit d f n b i).rails = d.rails := putWord_rails d f _ i
@[simp] theorem setMaskBit_seq (d : Device) (f : Fld) (n : Nat) (b : Bool) (i : Nat) : (setMaskBit d f n b i).seq = d.seq := putWord_seq d f _ i
@[simp] theorem setMaskBit_cl (d : Device) (f : Fld) (n : Nat) (b : Bool) (i : Nat) : (setMaskBit d f n b i).cl = d.cl := putWord_cl d f _ i
@[simp] theorem setMaskBit_ev (d : Device) (f : Fld) (n : Nat) (b : Bool) (i : Nat) : (setMaskBit d f n b i).ev = d.ev := putWord_ev d f _ i
@[simp] theorem setMaskBit_eng (d : Device) (f : Fld) (n : Nat) (b : Bool) (i : Nat) : (setMaskBit d f n b i).eng = d.eng := putWord_eng d f _ i
@[simp] theorem setMaskBit_perf (d : Device) (f : Fld) (n : Nat) (b : Bool) (i : Nat) : (setMaskBit d f n b i).perf = d.perf := putWord_perf d f _ i
@[simp] theorem setMaskBit_adc (d : Device) (f : Fld) (n : Nat) (b : Bool) (i : Nat) : (setMaskBit d f n b i).adc = d.adc := putWord_adc d f _ i
@[simp] theorem setMaskBit_therm (d : Device) (f : Fld) (n : Nat) (b : Bool) (i : Nat) : (setMaskBit d f n b i).therm = d.therm := putWord_therm d f _ i
@[simp] theorem setMaskBit_bg (d : Device) (f : Fld) (n : Nat) (b : Bool) (i : Nat) : (setMaskBit d f n b i).bg = d.bg := putWord_bg d f _ i
@[simp] theorem setMaskBit_link (d : Device) (f : Fld) (n : Nat) (b : Bool) (i : Nat) : (setMaskBit d f n b i).link = d.link := putWord_link d f _ i
@[simp] theorem setMaskBit_vly (d : Device) (f : Fld) (n : Nat) (b : Bool) (i : Nat) : (setMaskBit d f n b i).vly = d.vly := putWord_vly d f _ i
@[simp] theorem setMaskBit_gauge (d : Device) (f : Fld) (n : Nat) (b : Bool) (i : Nat) : (setMaskBit d f n b i).gauge = d.gauge := putWord_gauge d f _ i
@[simp] theorem setMaskBit_power (d : Device) (f : Fld) (n : Nat) (b : Bool) (i : Nat) : (setMaskBit d f n b i).power = d.power := putWord_power d f _ i
@[simp] theorem setMaskBit_rtc (d : Device) (f : Fld) (n : Nat) (b : Bool) (i : Nat) : (setMaskBit d f n b i).rtc = d.rtc := putWord_rtc d f _ i
@[simp] theorem setMaskBit_otp (d : Device) (f : Fld) (n : Nat) (b : Bool) (i : Nat) : (setMaskBit d f n b i).otp = d.otp := putWord_otp d f _ i
@[simp] theorem setMaskBit_log (d : Device) (f : Fld) (n : Nat) (b : Bool) (i : Nat) : (setMaskBit d f n b i).log = d.log := putWord_log d f _ i
@[simp] theorem setMaskBit_fw (d : Device) (f : Fld) (n : Nat) (b : Bool) (i : Nat) : (setMaskBit d f n b i).fw = d.fw := putWord_fw d f _ i
@[simp] theorem setMaskBit_freeN (d : Device) (f : Fld) (n : Nat) (b : Bool) (i : Nat) : (setMaskBit d f n b i).freeN = d.freeN := putWord_freeN d f _ i

/-! ### `setArr` -/

@[simp] theorem setArr_mode (d : Device) (a : Arr) (n v : Nat) : (setArr d a n v).mode = d.mode := by unfold setArr; split <;> rfl
@[simp] theorem setArr_prev (d : Device) (a : Arr) (n v : Nat) : (setArr d a n v).prev = d.prev := by unfold setArr; split <;> rfl
@[simp] theorem setArr_roofTime (d : Device) (a : Arr) (n v : Nat) : (setArr d a n v).roofTime = d.roofTime := by unfold setArr; split <;> rfl
@[simp] theorem setArr_cycles (d : Device) (a : Arr) (n v : Nat) : (setArr d a n v).cycles = d.cycles := by unfold setArr; split <;> rfl
@[simp] theorem setArr_core (d : Device) (a : Arr) (n v : Nat) : (setArr d a n v).core = d.core := by unfold setArr; split <;> rfl
@[simp] theorem setArr_rails (d : Device) (a : Arr) (n v : Nat) : (setArr d a n v).rails = d.rails := by unfold setArr; split <;> rfl
@[simp] theorem setArr_seq (d : Device) (a : Arr) (n v : Nat) : (setArr d a n v).seq = d.seq := by unfold setArr; split <;> rfl
@[simp] theorem setArr_cl (d : Device) (a : Arr) (n v : Nat) : (setArr d a n v).cl = d.cl := by unfold setArr; split <;> rfl
@[simp] theorem setArr_ev (d : Device) (a : Arr) (n v : Nat) : (setArr d a n v).ev = d.ev := by unfold setArr; split <;> rfl
@[simp] theorem setArr_eng (d : Device) (a : Arr) (n v : Nat) : (setArr d a n v).eng = d.eng := by unfold setArr; split <;> rfl
@[simp] theorem setArr_perf (d : Device) (a : Arr) (n v : Nat) : (setArr d a n v).perf = d.perf := by unfold setArr; split <;> rfl
@[simp] theorem setArr_adc (d : Device) (a : Arr) (n v : Nat) : (setArr d a n v).adc = d.adc := by unfold setArr; split <;> rfl
@[simp] theorem setArr_therm (d : Device) (a : Arr) (n v : Nat) : (setArr d a n v).therm = d.therm := by unfold setArr; split <;> rfl
@[simp] theorem setArr_bg (d : Device) (a : Arr) (n v : Nat) : (setArr d a n v).bg = d.bg := by unfold setArr; split <;> rfl
@[simp] theorem setArr_link (d : Device) (a : Arr) (n v : Nat) : (setArr d a n v).link = d.link := by unfold setArr; split <;> rfl
@[simp] theorem setArr_vly (d : Device) (a : Arr) (n v : Nat) : (setArr d a n v).vly = d.vly := by unfold setArr; split <;> rfl
@[simp] theorem setArr_gauge (d : Device) (a : Arr) (n v : Nat) : (setArr d a n v).gauge = d.gauge := by unfold setArr; split <;> rfl
@[simp] theorem setArr_power (d : Device) (a : Arr) (n v : Nat) : (setArr d a n v).power = d.power := by unfold setArr; split <;> rfl
@[simp] theorem setArr_rtc (d : Device) (a : Arr) (n v : Nat) : (setArr d a n v).rtc = d.rtc := by unfold setArr; split <;> rfl
@[simp] theorem setArr_otp (d : Device) (a : Arr) (n v : Nat) : (setArr d a n v).otp = d.otp := by unfold setArr; split <;> rfl
@[simp] theorem setArr_log (d : Device) (a : Arr) (n v : Nat) : (setArr d a n v).log = d.log := by unfold setArr; split <;> rfl
@[simp] theorem setArr_fw (d : Device) (a : Arr) (n v : Nat) : (setArr d a n v).fw = d.fw := by unfold setArr; split <;> rfl
@[simp] theorem setArr_freeN (d : Device) (a : Arr) (n v : Nat) : (setArr d a n v).freeN = d.freeN := by unfold setArr; split <;> rfl

/-! ### `setRail` -/

@[simp] theorem setRail_words (d : Device) (n : Nat) (r : Rail) : (setRail d n r).words = d.words := rfl
@[simp] theorem setRail_mode (d : Device) (n : Nat) (r : Rail) : (setRail d n r).mode = d.mode := rfl
@[simp] theorem setRail_prev (d : Device) (n : Nat) (r : Rail) : (setRail d n r).prev = d.prev := rfl
@[simp] theorem setRail_roofTime (d : Device) (n : Nat) (r : Rail) : (setRail d n r).roofTime = d.roofTime := rfl
@[simp] theorem setRail_cycles (d : Device) (n : Nat) (r : Rail) : (setRail d n r).cycles = d.cycles := rfl
@[simp] theorem setRail_core (d : Device) (n : Nat) (r : Rail) : (setRail d n r).core = d.core := rfl
@[simp] theorem setRail_seq (d : Device) (n : Nat) (r : Rail) : (setRail d n r).seq = d.seq := rfl
@[simp] theorem setRail_cl (d : Device) (n : Nat) (r : Rail) : (setRail d n r).cl = d.cl := rfl
@[simp] theorem setRail_ev (d : Device) (n : Nat) (r : Rail) : (setRail d n r).ev = d.ev := rfl
@[simp] theorem setRail_eng (d : Device) (n : Nat) (r : Rail) : (setRail d n r).eng = d.eng := rfl
@[simp] theorem setRail_perf (d : Device) (n : Nat) (r : Rail) : (setRail d n r).perf = d.perf := rfl
@[simp] theorem setRail_adc (d : Device) (n : Nat) (r : Rail) : (setRail d n r).adc = d.adc := rfl
@[simp] theorem setRail_therm (d : Device) (n : Nat) (r : Rail) : (setRail d n r).therm = d.therm := rfl
@[simp] theorem setRail_bg (d : Device) (n : Nat) (r : Rail) : (setRail d n r).bg = d.bg := rfl
@[simp] theorem setRail_link (d : Device) (n : Nat) (r : Rail) : (setRail d n r).link = d.link := rfl
@[simp] theorem setRail_vly (d : Device) (n : Nat) (r : Rail) : (setRail d n r).vly = d.vly := rfl
@[simp] theorem setRail_gauge (d : Device) (n : Nat) (r : Rail) : (setRail d n r).gauge = d.gauge := rfl
@[simp] theorem setRail_power (d : Device) (n : Nat) (r : Rail) : (setRail d n r).power = d.power := rfl
@[simp] theorem setRail_rtc (d : Device) (n : Nat) (r : Rail) : (setRail d n r).rtc = d.rtc := rfl
@[simp] theorem setRail_otp (d : Device) (n : Nat) (r : Rail) : (setRail d n r).otp = d.otp := rfl
@[simp] theorem setRail_log (d : Device) (n : Nat) (r : Rail) : (setRail d n r).log = d.log := rfl
@[simp] theorem setRail_fw (d : Device) (n : Nat) (r : Rail) : (setRail d n r).fw = d.fw := rfl
@[simp] theorem setRail_freeN (d : Device) (n : Nat) (r : Rail) : (setRail d n r).freeN = d.freeN := rfl

/-! ### `modRail` -/

@[simp] theorem modRail_words (n : Nat) (f : Rail → Rail) (d : Device) : (modRail n f d).words = d.words := rfl
@[simp] theorem modRail_mode (n : Nat) (f : Rail → Rail) (d : Device) : (modRail n f d).mode = d.mode := rfl
@[simp] theorem modRail_prev (n : Nat) (f : Rail → Rail) (d : Device) : (modRail n f d).prev = d.prev := rfl
@[simp] theorem modRail_roofTime (n : Nat) (f : Rail → Rail) (d : Device) : (modRail n f d).roofTime = d.roofTime := rfl
@[simp] theorem modRail_cycles (n : Nat) (f : Rail → Rail) (d : Device) : (modRail n f d).cycles = d.cycles := rfl
@[simp] theorem modRail_core (n : Nat) (f : Rail → Rail) (d : Device) : (modRail n f d).core = d.core := rfl
@[simp] theorem modRail_seq (n : Nat) (f : Rail → Rail) (d : Device) : (modRail n f d).seq = d.seq := rfl
@[simp] theorem modRail_cl (n : Nat) (f : Rail → Rail) (d : Device) : (modRail n f d).cl = d.cl := rfl
@[simp] theorem modRail_ev (n : Nat) (f : Rail → Rail) (d : Device) : (modRail n f d).ev = d.ev := rfl
@[simp] theorem modRail_eng (n : Nat) (f : Rail → Rail) (d : Device) : (modRail n f d).eng = d.eng := rfl
@[simp] theorem modRail_perf (n : Nat) (f : Rail → Rail) (d : Device) : (modRail n f d).perf = d.perf := rfl
@[simp] theorem modRail_adc (n : Nat) (f : Rail → Rail) (d : Device) : (modRail n f d).adc = d.adc := rfl
@[simp] theorem modRail_therm (n : Nat) (f : Rail → Rail) (d : Device) : (modRail n f d).therm = d.therm := rfl
@[simp] theorem modRail_bg (n : Nat) (f : Rail → Rail) (d : Device) : (modRail n f d).bg = d.bg := rfl
@[simp] theorem modRail_link (n : Nat) (f : Rail → Rail) (d : Device) : (modRail n f d).link = d.link := rfl
@[simp] theorem modRail_vly (n : Nat) (f : Rail → Rail) (d : Device) : (modRail n f d).vly = d.vly := rfl
@[simp] theorem modRail_gauge (n : Nat) (f : Rail → Rail) (d : Device) : (modRail n f d).gauge = d.gauge := rfl
@[simp] theorem modRail_power (n : Nat) (f : Rail → Rail) (d : Device) : (modRail n f d).power = d.power := rfl
@[simp] theorem modRail_rtc (n : Nat) (f : Rail → Rail) (d : Device) : (modRail n f d).rtc = d.rtc := rfl
@[simp] theorem modRail_otp (n : Nat) (f : Rail → Rail) (d : Device) : (modRail n f d).otp = d.otp := rfl
@[simp] theorem modRail_log (n : Nat) (f : Rail → Rail) (d : Device) : (modRail n f d).log = d.log := rfl
@[simp] theorem modRail_fw (n : Nat) (f : Rail → Rail) (d : Device) : (modRail n f d).fw = d.fw := rfl
@[simp] theorem modRail_freeN (n : Nat) (f : Rail → Rail) (d : Device) : (modRail n f d).freeN = d.freeN := rfl

/-! ### `setRing` -/

@[simp] theorem setRing_words (d : Device) (q : Nat) (r : Ring) : (setRing d q r).words = d.words := rfl
@[simp] theorem setRing_mode (d : Device) (q : Nat) (r : Ring) : (setRing d q r).mode = d.mode := rfl
@[simp] theorem setRing_prev (d : Device) (q : Nat) (r : Ring) : (setRing d q r).prev = d.prev := rfl
@[simp] theorem setRing_roofTime (d : Device) (q : Nat) (r : Ring) : (setRing d q r).roofTime = d.roofTime := rfl
@[simp] theorem setRing_cycles (d : Device) (q : Nat) (r : Ring) : (setRing d q r).cycles = d.cycles := rfl
@[simp] theorem setRing_core (d : Device) (q : Nat) (r : Ring) : (setRing d q r).core = d.core := rfl
@[simp] theorem setRing_rails (d : Device) (q : Nat) (r : Ring) : (setRing d q r).rails = d.rails := rfl
@[simp] theorem setRing_seq (d : Device) (q : Nat) (r : Ring) : (setRing d q r).seq = d.seq := rfl
@[simp] theorem setRing_cl (d : Device) (q : Nat) (r : Ring) : (setRing d q r).cl = d.cl := rfl
@[simp] theorem setRing_ev (d : Device) (q : Nat) (r : Ring) : (setRing d q r).ev = d.ev := rfl
@[simp] theorem setRing_perf (d : Device) (q : Nat) (r : Ring) : (setRing d q r).perf = d.perf := rfl
@[simp] theorem setRing_adc (d : Device) (q : Nat) (r : Ring) : (setRing d q r).adc = d.adc := rfl
@[simp] theorem setRing_therm (d : Device) (q : Nat) (r : Ring) : (setRing d q r).therm = d.therm := rfl
@[simp] theorem setRing_bg (d : Device) (q : Nat) (r : Ring) : (setRing d q r).bg = d.bg := rfl
@[simp] theorem setRing_link (d : Device) (q : Nat) (r : Ring) : (setRing d q r).link = d.link := rfl
@[simp] theorem setRing_vly (d : Device) (q : Nat) (r : Ring) : (setRing d q r).vly = d.vly := rfl
@[simp] theorem setRing_gauge (d : Device) (q : Nat) (r : Ring) : (setRing d q r).gauge = d.gauge := rfl
@[simp] theorem setRing_power (d : Device) (q : Nat) (r : Ring) : (setRing d q r).power = d.power := rfl
@[simp] theorem setRing_rtc (d : Device) (q : Nat) (r : Ring) : (setRing d q r).rtc = d.rtc := rfl
@[simp] theorem setRing_otp (d : Device) (q : Nat) (r : Ring) : (setRing d q r).otp = d.otp := rfl
@[simp] theorem setRing_log (d : Device) (q : Nat) (r : Ring) : (setRing d q r).log = d.log := rfl
@[simp] theorem setRing_fw (d : Device) (q : Nat) (r : Ring) : (setRing d q r).fw = d.fw := rfl
@[simp] theorem setRing_freeN (d : Device) (q : Nat) (r : Ring) : (setRing d q r).freeN = d.freeN := rfl

/-! ### `setQueue` -/

@[simp] theorem setQueue_words (d : Device) (q : Nat) (ps : List QPkt) : (setQueue d q ps).words = d.words := rfl
@[simp] theorem setQueue_mode (d : Device) (q : Nat) (ps : List QPkt) : (setQueue d q ps).mode = d.mode := rfl
@[simp] theorem setQueue_prev (d : Device) (q : Nat) (ps : List QPkt) : (setQueue d q ps).prev = d.prev := rfl
@[simp] theorem setQueue_roofTime (d : Device) (q : Nat) (ps : List QPkt) : (setQueue d q ps).roofTime = d.roofTime := rfl
@[simp] theorem setQueue_cycles (d : Device) (q : Nat) (ps : List QPkt) : (setQueue d q ps).cycles = d.cycles := rfl
@[simp] theorem setQueue_core (d : Device) (q : Nat) (ps : List QPkt) : (setQueue d q ps).core = d.core := rfl
@[simp] theorem setQueue_rails (d : Device) (q : Nat) (ps : List QPkt) : (setQueue d q ps).rails = d.rails := rfl
@[simp] theorem setQueue_seq (d : Device) (q : Nat) (ps : List QPkt) : (setQueue d q ps).seq = d.seq := rfl
@[simp] theorem setQueue_cl (d : Device) (q : Nat) (ps : List QPkt) : (setQueue d q ps).cl = d.cl := rfl
@[simp] theorem setQueue_ev (d : Device) (q : Nat) (ps : List QPkt) : (setQueue d q ps).ev = d.ev := rfl
@[simp] theorem setQueue_perf (d : Device) (q : Nat) (ps : List QPkt) : (setQueue d q ps).perf = d.perf := rfl
@[simp] theorem setQueue_adc (d : Device) (q : Nat) (ps : List QPkt) : (setQueue d q ps).adc = d.adc := rfl
@[simp] theorem setQueue_therm (d : Device) (q : Nat) (ps : List QPkt) : (setQueue d q ps).therm = d.therm := rfl
@[simp] theorem setQueue_bg (d : Device) (q : Nat) (ps : List QPkt) : (setQueue d q ps).bg = d.bg := rfl
@[simp] theorem setQueue_link (d : Device) (q : Nat) (ps : List QPkt) : (setQueue d q ps).link = d.link := rfl
@[simp] theorem setQueue_vly (d : Device) (q : Nat) (ps : List QPkt) : (setQueue d q ps).vly = d.vly := rfl
@[simp] theorem setQueue_gauge (d : Device) (q : Nat) (ps : List QPkt) : (setQueue d q ps).gauge = d.gauge := rfl
@[simp] theorem setQueue_power (d : Device) (q : Nat) (ps : List QPkt) : (setQueue d q ps).power = d.power := rfl
@[simp] theorem setQueue_rtc (d : Device) (q : Nat) (ps : List QPkt) : (setQueue d q ps).rtc = d.rtc := rfl
@[simp] theorem setQueue_otp (d : Device) (q : Nat) (ps : List QPkt) : (setQueue d q ps).otp = d.otp := rfl
@[simp] theorem setQueue_log (d : Device) (q : Nat) (ps : List QPkt) : (setQueue d q ps).log = d.log := rfl
@[simp] theorem setQueue_fw (d : Device) (q : Nat) (ps : List QPkt) : (setQueue d q ps).fw = d.fw := rfl
@[simp] theorem setQueue_freeN (d : Device) (q : Nat) (ps : List QPkt) : (setQueue d q ps).freeN = d.freeN := rfl

/-! ### `setTagMem` -/

@[simp] theorem setTagMem_words (d : Device) (q : Nat) (t : List TagEnt) : (setTagMem d q t).words = d.words := rfl
@[simp] theorem setTagMem_mode (d : Device) (q : Nat) (t : List TagEnt) : (setTagMem d q t).mode = d.mode := rfl
@[simp] theorem setTagMem_prev (d : Device) (q : Nat) (t : List TagEnt) : (setTagMem d q t).prev = d.prev := rfl
@[simp] theorem setTagMem_roofTime (d : Device) (q : Nat) (t : List TagEnt) : (setTagMem d q t).roofTime = d.roofTime := rfl
@[simp] theorem setTagMem_cycles (d : Device) (q : Nat) (t : List TagEnt) : (setTagMem d q t).cycles = d.cycles := rfl
@[simp] theorem setTagMem_core (d : Device) (q : Nat) (t : List TagEnt) : (setTagMem d q t).core = d.core := rfl
@[simp] theorem setTagMem_rails (d : Device) (q : Nat) (t : List TagEnt) : (setTagMem d q t).rails = d.rails := rfl
@[simp] theorem setTagMem_seq (d : Device) (q : Nat) (t : List TagEnt) : (setTagMem d q t).seq = d.seq := rfl
@[simp] theorem setTagMem_cl (d : Device) (q : Nat) (t : List TagEnt) : (setTagMem d q t).cl = d.cl := rfl
@[simp] theorem setTagMem_ev (d : Device) (q : Nat) (t : List TagEnt) : (setTagMem d q t).ev = d.ev := rfl
@[simp] theorem setTagMem_perf (d : Device) (q : Nat) (t : List TagEnt) : (setTagMem d q t).perf = d.perf := rfl
@[simp] theorem setTagMem_adc (d : Device) (q : Nat) (t : List TagEnt) : (setTagMem d q t).adc = d.adc := rfl
@[simp] theorem setTagMem_therm (d : Device) (q : Nat) (t : List TagEnt) : (setTagMem d q t).therm = d.therm := rfl
@[simp] theorem setTagMem_bg (d : Device) (q : Nat) (t : List TagEnt) : (setTagMem d q t).bg = d.bg := rfl
@[simp] theorem setTagMem_link (d : Device) (q : Nat) (t : List TagEnt) : (setTagMem d q t).link = d.link := rfl
@[simp] theorem setTagMem_vly (d : Device) (q : Nat) (t : List TagEnt) : (setTagMem d q t).vly = d.vly := rfl
@[simp] theorem setTagMem_gauge (d : Device) (q : Nat) (t : List TagEnt) : (setTagMem d q t).gauge = d.gauge := rfl
@[simp] theorem setTagMem_power (d : Device) (q : Nat) (t : List TagEnt) : (setTagMem d q t).power = d.power := rfl
@[simp] theorem setTagMem_rtc (d : Device) (q : Nat) (t : List TagEnt) : (setTagMem d q t).rtc = d.rtc := rfl
@[simp] theorem setTagMem_otp (d : Device) (q : Nat) (t : List TagEnt) : (setTagMem d q t).otp = d.otp := rfl
@[simp] theorem setTagMem_log (d : Device) (q : Nat) (t : List TagEnt) : (setTagMem d q t).log = d.log := rfl
@[simp] theorem setTagMem_fw (d : Device) (q : Nat) (t : List TagEnt) : (setTagMem d q t).fw = d.fw := rfl
@[simp] theorem setTagMem_freeN (d : Device) (q : Nat) (t : List TagEnt) : (setTagMem d q t).freeN = d.freeN := rfl

/-! ### `keepRunning` -/

@[simp] theorem keepRunning_words (c : Cmd) (d : Device) : (keepRunning c d).words = d.words := rfl
@[simp] theorem keepRunning_mode (c : Cmd) (d : Device) : (keepRunning c d).mode = d.mode := rfl
@[simp] theorem keepRunning_prev (c : Cmd) (d : Device) : (keepRunning c d).prev = d.prev := rfl
@[simp] theorem keepRunning_roofTime (c : Cmd) (d : Device) : (keepRunning c d).roofTime = d.roofTime := rfl
@[simp] theorem keepRunning_cycles (c : Cmd) (d : Device) : (keepRunning c d).cycles = d.cycles := rfl
@[simp] theorem keepRunning_core (c : Cmd) (d : Device) : (keepRunning c d).core = d.core := rfl
@[simp] theorem keepRunning_rails (c : Cmd) (d : Device) : (keepRunning c d).rails = d.rails := rfl
@[simp] theorem keepRunning_seq (c : Cmd) (d : Device) : (keepRunning c d).seq = d.seq := rfl
@[simp] theorem keepRunning_cl (c : Cmd) (d : Device) : (keepRunning c d).cl = d.cl := rfl
@[simp] theorem keepRunning_ev (c : Cmd) (d : Device) : (keepRunning c d).ev = d.ev := rfl
@[simp] theorem keepRunning_perf (c : Cmd) (d : Device) : (keepRunning c d).perf = d.perf := rfl
@[simp] theorem keepRunning_adc (c : Cmd) (d : Device) : (keepRunning c d).adc = d.adc := rfl
@[simp] theorem keepRunning_therm (c : Cmd) (d : Device) : (keepRunning c d).therm = d.therm := rfl
@[simp] theorem keepRunning_bg (c : Cmd) (d : Device) : (keepRunning c d).bg = d.bg := rfl
@[simp] theorem keepRunning_link (c : Cmd) (d : Device) : (keepRunning c d).link = d.link := rfl
@[simp] theorem keepRunning_vly (c : Cmd) (d : Device) : (keepRunning c d).vly = d.vly := rfl
@[simp] theorem keepRunning_gauge (c : Cmd) (d : Device) : (keepRunning c d).gauge = d.gauge := rfl
@[simp] theorem keepRunning_power (c : Cmd) (d : Device) : (keepRunning c d).power = d.power := rfl
@[simp] theorem keepRunning_rtc (c : Cmd) (d : Device) : (keepRunning c d).rtc = d.rtc := rfl
@[simp] theorem keepRunning_otp (c : Cmd) (d : Device) : (keepRunning c d).otp = d.otp := rfl
@[simp] theorem keepRunning_log (c : Cmd) (d : Device) : (keepRunning c d).log = d.log := rfl
@[simp] theorem keepRunning_fw (c : Cmd) (d : Device) : (keepRunning c d).fw = d.fw := rfl
@[simp] theorem keepRunning_freeN (c : Cmd) (d : Device) : (keepRunning c d).freeN = d.freeN := rfl

/-! ### `drawn` -/

@[simp] theorem drawn_words (d : Device) : (drawn d).words = d.words := rfl
@[simp] theorem drawn_mode (d : Device) : (drawn d).mode = d.mode := rfl
@[simp] theorem drawn_prev (d : Device) : (drawn d).prev = d.prev := rfl
@[simp] theorem drawn_roofTime (d : Device) : (drawn d).roofTime = d.roofTime := rfl
@[simp] theorem drawn_cycles (d : Device) : (drawn d).cycles = d.cycles := rfl
@[simp] theorem drawn_core (d : Device) : (drawn d).core = d.core := rfl
@[simp] theorem drawn_rails (d : Device) : (drawn d).rails = d.rails := rfl
@[simp] theorem drawn_seq (d : Device) : (drawn d).seq = d.seq := rfl
@[simp] theorem drawn_cl (d : Device) : (drawn d).cl = d.cl := rfl
@[simp] theorem drawn_ev (d : Device) : (drawn d).ev = d.ev := rfl
@[simp] theorem drawn_eng (d : Device) : (drawn d).eng = d.eng := rfl
@[simp] theorem drawn_perf (d : Device) : (drawn d).perf = d.perf := rfl
@[simp] theorem drawn_adc (d : Device) : (drawn d).adc = d.adc := rfl
@[simp] theorem drawn_therm (d : Device) : (drawn d).therm = d.therm := rfl
@[simp] theorem drawn_bg (d : Device) : (drawn d).bg = d.bg := rfl
@[simp] theorem drawn_link (d : Device) : (drawn d).link = d.link := rfl
@[simp] theorem drawn_vly (d : Device) : (drawn d).vly = d.vly := rfl
@[simp] theorem drawn_gauge (d : Device) : (drawn d).gauge = d.gauge := rfl
@[simp] theorem drawn_power (d : Device) : (drawn d).power = d.power := rfl
@[simp] theorem drawn_rtc (d : Device) : (drawn d).rtc = d.rtc := rfl
@[simp] theorem drawn_otp (d : Device) : (drawn d).otp = d.otp := rfl
@[simp] theorem drawn_log (d : Device) : (drawn d).log = d.log := rfl
@[simp] theorem drawn_fw (d : Device) : (drawn d).fw = d.fw := rfl

/-! ### `begun` -/

@[simp] theorem begun_words (d : Device) : (begun d).words = d.words := rfl
@[simp] theorem begun_mode (d : Device) : (begun d).mode = d.mode := rfl
@[simp] theorem begun_prev (d : Device) : (begun d).prev = d.prev := rfl
@[simp] theorem begun_roofTime (d : Device) : (begun d).roofTime = d.roofTime := rfl
@[simp] theorem begun_cycles (d : Device) : (begun d).cycles = d.cycles := rfl
@[simp] theorem begun_core (d : Device) : (begun d).core = d.core := rfl
@[simp] theorem begun_rails (d : Device) : (begun d).rails = d.rails := rfl
@[simp] theorem begun_seq (d : Device) : (begun d).seq = d.seq := rfl
@[simp] theorem begun_cl (d : Device) : (begun d).cl = d.cl := rfl
@[simp] theorem begun_ev (d : Device) : (begun d).ev = d.ev := rfl
@[simp] theorem begun_perf (d : Device) : (begun d).perf = d.perf := rfl
@[simp] theorem begun_adc (d : Device) : (begun d).adc = d.adc := rfl
@[simp] theorem begun_therm (d : Device) : (begun d).therm = d.therm := rfl
@[simp] theorem begun_bg (d : Device) : (begun d).bg = d.bg := rfl
@[simp] theorem begun_link (d : Device) : (begun d).link = d.link := rfl
@[simp] theorem begun_vly (d : Device) : (begun d).vly = d.vly := rfl
@[simp] theorem begun_gauge (d : Device) : (begun d).gauge = d.gauge := rfl
@[simp] theorem begun_power (d : Device) : (begun d).power = d.power := rfl
@[simp] theorem begun_rtc (d : Device) : (begun d).rtc = d.rtc := rfl
@[simp] theorem begun_otp (d : Device) : (begun d).otp = d.otp := rfl
@[simp] theorem begun_log (d : Device) : (begun d).log = d.log := rfl
@[simp] theorem begun_fw (d : Device) : (begun d).fw = d.fw := rfl
@[simp] theorem begun_freeN (d : Device) : (begun d).freeN = d.freeN := rfl

/-! ### `setSrcRec` -/

@[simp] theorem setSrcRec_words (d : Device) (s : Nat) (r : SrcRec) : (setSrcRec d s r).words = d.words := rfl
@[simp] theorem setSrcRec_mode (d : Device) (s : Nat) (r : SrcRec) : (setSrcRec d s r).mode = d.mode := rfl
@[simp] theorem setSrcRec_prev (d : Device) (s : Nat) (r : SrcRec) : (setSrcRec d s r).prev = d.prev := rfl
@[simp] theorem setSrcRec_roofTime (d : Device) (s : Nat) (r : SrcRec) : (setSrcRec d s r).roofTime = d.roofTime := rfl
@[simp] theorem setSrcRec_cycles (d : Device) (s : Nat) (r : SrcRec) : (setSrcRec d s r).cycles = d.cycles := rfl
@[simp] theorem setSrcRec_core (d : Device) (s : Nat) (r : SrcRec) : (setSrcRec d s r).core = d.core := rfl
@[simp] theorem setSrcRec_rails (d : Device) (s : Nat) (r : SrcRec) : (setSrcRec d s r).rails = d.rails := rfl
@[simp] theorem setSrcRec_seq (d : Device) (s : Nat) (r : SrcRec) : (setSrcRec d s r).seq = d.seq := rfl
@[simp] theorem setSrcRec_cl (d : Device) (s : Nat) (r : SrcRec) : (setSrcRec d s r).cl = d.cl := rfl
@[simp] theorem setSrcRec_eng (d : Device) (s : Nat) (r : SrcRec) : (setSrcRec d s r).eng = d.eng := rfl
@[simp] theorem setSrcRec_perf (d : Device) (s : Nat) (r : SrcRec) : (setSrcRec d s r).perf = d.perf := rfl
@[simp] theorem setSrcRec_adc (d : Device) (s : Nat) (r : SrcRec) : (setSrcRec d s r).adc = d.adc := rfl
@[simp] theorem setSrcRec_therm (d : Device) (s : Nat) (r : SrcRec) : (setSrcRec d s r).therm = d.therm := rfl
@[simp] theorem setSrcRec_bg (d : Device) (s : Nat) (r : SrcRec) : (setSrcRec d s r).bg = d.bg := rfl
@[simp] theorem setSrcRec_link (d : Device) (s : Nat) (r : SrcRec) : (setSrcRec d s r).link = d.link := rfl
@[simp] theorem setSrcRec_vly (d : Device) (s : Nat) (r : SrcRec) : (setSrcRec d s r).vly = d.vly := rfl
@[simp] theorem setSrcRec_gauge (d : Device) (s : Nat) (r : SrcRec) : (setSrcRec d s r).gauge = d.gauge := rfl
@[simp] theorem setSrcRec_power (d : Device) (s : Nat) (r : SrcRec) : (setSrcRec d s r).power = d.power := rfl
@[simp] theorem setSrcRec_rtc (d : Device) (s : Nat) (r : SrcRec) : (setSrcRec d s r).rtc = d.rtc := rfl
@[simp] theorem setSrcRec_otp (d : Device) (s : Nat) (r : SrcRec) : (setSrcRec d s r).otp = d.otp := rfl
@[simp] theorem setSrcRec_log (d : Device) (s : Nat) (r : SrcRec) : (setSrcRec d s r).log = d.log := rfl
@[simp] theorem setSrcRec_fw (d : Device) (s : Nat) (r : SrcRec) : (setSrcRec d s r).fw = d.fw := rfl
@[simp] theorem setSrcRec_freeN (d : Device) (s : Nat) (r : SrcRec) : (setSrcRec d s r).freeN = d.freeN := rfl

/-! ### `setGrpRec` -/

@[simp] theorem setGrpRec_words (d : Device) (g : Nat) (r : GrpRec) : (setGrpRec d g r).words = d.words := rfl
@[simp] theorem setGrpRec_mode (d : Device) (g : Nat) (r : GrpRec) : (setGrpRec d g r).mode = d.mode := rfl
@[simp] theorem setGrpRec_prev (d : Device) (g : Nat) (r : GrpRec) : (setGrpRec d g r).prev = d.prev := rfl
@[simp] theorem setGrpRec_roofTime (d : Device) (g : Nat) (r : GrpRec) : (setGrpRec d g r).roofTime = d.roofTime := rfl
@[simp] theorem setGrpRec_cycles (d : Device) (g : Nat) (r : GrpRec) : (setGrpRec d g r).cycles = d.cycles := rfl
@[simp] theorem setGrpRec_core (d : Device) (g : Nat) (r : GrpRec) : (setGrpRec d g r).core = d.core := rfl
@[simp] theorem setGrpRec_rails (d : Device) (g : Nat) (r : GrpRec) : (setGrpRec d g r).rails = d.rails := rfl
@[simp] theorem setGrpRec_seq (d : Device) (g : Nat) (r : GrpRec) : (setGrpRec d g r).seq = d.seq := rfl
@[simp] theorem setGrpRec_cl (d : Device) (g : Nat) (r : GrpRec) : (setGrpRec d g r).cl = d.cl := rfl
@[simp] theorem setGrpRec_eng (d : Device) (g : Nat) (r : GrpRec) : (setGrpRec d g r).eng = d.eng := rfl
@[simp] theorem setGrpRec_perf (d : Device) (g : Nat) (r : GrpRec) : (setGrpRec d g r).perf = d.perf := rfl
@[simp] theorem setGrpRec_adc (d : Device) (g : Nat) (r : GrpRec) : (setGrpRec d g r).adc = d.adc := rfl
@[simp] theorem setGrpRec_therm (d : Device) (g : Nat) (r : GrpRec) : (setGrpRec d g r).therm = d.therm := rfl
@[simp] theorem setGrpRec_bg (d : Device) (g : Nat) (r : GrpRec) : (setGrpRec d g r).bg = d.bg := rfl
@[simp] theorem setGrpRec_link (d : Device) (g : Nat) (r : GrpRec) : (setGrpRec d g r).link = d.link := rfl
@[simp] theorem setGrpRec_vly (d : Device) (g : Nat) (r : GrpRec) : (setGrpRec d g r).vly = d.vly := rfl
@[simp] theorem setGrpRec_gauge (d : Device) (g : Nat) (r : GrpRec) : (setGrpRec d g r).gauge = d.gauge := rfl
@[simp] theorem setGrpRec_power (d : Device) (g : Nat) (r : GrpRec) : (setGrpRec d g r).power = d.power := rfl
@[simp] theorem setGrpRec_rtc (d : Device) (g : Nat) (r : GrpRec) : (setGrpRec d g r).rtc = d.rtc := rfl
@[simp] theorem setGrpRec_otp (d : Device) (g : Nat) (r : GrpRec) : (setGrpRec d g r).otp = d.otp := rfl
@[simp] theorem setGrpRec_log (d : Device) (g : Nat) (r : GrpRec) : (setGrpRec d g r).log = d.log := rfl
@[simp] theorem setGrpRec_fw (d : Device) (g : Nat) (r : GrpRec) : (setGrpRec d g r).fw = d.fw := rfl
@[simp] theorem setGrpRec_freeN (d : Device) (g : Nat) (r : GrpRec) : (setGrpRec d g r).freeN = d.freeN := rfl

/-! ### `modClus` -/

@[simp] theorem modClus_words (c : Nat) (f : ClSt → ClSt) (d : Device) : (modClus c f d).words = d.words := rfl
@[simp] theorem modClus_mode (c : Nat) (f : ClSt → ClSt) (d : Device) : (modClus c f d).mode = d.mode := rfl
@[simp] theorem modClus_prev (c : Nat) (f : ClSt → ClSt) (d : Device) : (modClus c f d).prev = d.prev := rfl
@[simp] theorem modClus_roofTime (c : Nat) (f : ClSt → ClSt) (d : Device) : (modClus c f d).roofTime = d.roofTime := rfl
@[simp] theorem modClus_cycles (c : Nat) (f : ClSt → ClSt) (d : Device) : (modClus c f d).cycles = d.cycles := rfl
@[simp] theorem modClus_core (c : Nat) (f : ClSt → ClSt) (d : Device) : (modClus c f d).core = d.core := rfl
@[simp] theorem modClus_rails (c : Nat) (f : ClSt → ClSt) (d : Device) : (modClus c f d).rails = d.rails := rfl
@[simp] theorem modClus_seq (c : Nat) (f : ClSt → ClSt) (d : Device) : (modClus c f d).seq = d.seq := rfl
@[simp] theorem modClus_ev (c : Nat) (f : ClSt → ClSt) (d : Device) : (modClus c f d).ev = d.ev := rfl
@[simp] theorem modClus_eng (c : Nat) (f : ClSt → ClSt) (d : Device) : (modClus c f d).eng = d.eng := rfl
@[simp] theorem modClus_perf (c : Nat) (f : ClSt → ClSt) (d : Device) : (modClus c f d).perf = d.perf := rfl
@[simp] theorem modClus_adc (c : Nat) (f : ClSt → ClSt) (d : Device) : (modClus c f d).adc = d.adc := rfl
@[simp] theorem modClus_therm (c : Nat) (f : ClSt → ClSt) (d : Device) : (modClus c f d).therm = d.therm := rfl
@[simp] theorem modClus_bg (c : Nat) (f : ClSt → ClSt) (d : Device) : (modClus c f d).bg = d.bg := rfl
@[simp] theorem modClus_link (c : Nat) (f : ClSt → ClSt) (d : Device) : (modClus c f d).link = d.link := rfl
@[simp] theorem modClus_vly (c : Nat) (f : ClSt → ClSt) (d : Device) : (modClus c f d).vly = d.vly := rfl
@[simp] theorem modClus_gauge (c : Nat) (f : ClSt → ClSt) (d : Device) : (modClus c f d).gauge = d.gauge := rfl
@[simp] theorem modClus_power (c : Nat) (f : ClSt → ClSt) (d : Device) : (modClus c f d).power = d.power := rfl
@[simp] theorem modClus_rtc (c : Nat) (f : ClSt → ClSt) (d : Device) : (modClus c f d).rtc = d.rtc := rfl
@[simp] theorem modClus_otp (c : Nat) (f : ClSt → ClSt) (d : Device) : (modClus c f d).otp = d.otp := rfl
@[simp] theorem modClus_log (c : Nat) (f : ClSt → ClSt) (d : Device) : (modClus c f d).log = d.log := rfl
@[simp] theorem modClus_fw (c : Nat) (f : ClSt → ClSt) (d : Device) : (modClus c f d).fw = d.fw := rfl
@[simp] theorem modClus_freeN (c : Nat) (f : ClSt → ClSt) (d : Device) : (modClus c f d).freeN = d.freeN := rfl

/-! ### `withShadow` -/

@[simp] theorem withShadow_words (w v : Nat) (d : Device) : (withShadow w v d).words = d.words := rfl
@[simp] theorem withShadow_mode (w v : Nat) (d : Device) : (withShadow w v d).mode = d.mode := rfl
@[simp] theorem withShadow_prev (w v : Nat) (d : Device) : (withShadow w v d).prev = d.prev := rfl
@[simp] theorem withShadow_roofTime (w v : Nat) (d : Device) : (withShadow w v d).roofTime = d.roofTime := rfl
@[simp] theorem withShadow_cycles (w v : Nat) (d : Device) : (withShadow w v d).cycles = d.cycles := rfl
@[simp] theorem withShadow_core (w v : Nat) (d : Device) : (withShadow w v d).core = d.core := rfl
@[simp] theorem withShadow_rails (w v : Nat) (d : Device) : (withShadow w v d).rails = d.rails := rfl
@[simp] theorem withShadow_seq (w v : Nat) (d : Device) : (withShadow w v d).seq = d.seq := rfl
@[simp] theorem withShadow_cl (w v : Nat) (d : Device) : (withShadow w v d).cl = d.cl := rfl
@[simp] theorem withShadow_ev (w v : Nat) (d : Device) : (withShadow w v d).ev = d.ev := rfl
@[simp] theorem withShadow_eng (w v : Nat) (d : Device) : (withShadow w v d).eng = d.eng := rfl
@[simp] theorem withShadow_perf (w v : Nat) (d : Device) : (withShadow w v d).perf = d.perf := rfl
@[simp] theorem withShadow_adc (w v : Nat) (d : Device) : (withShadow w v d).adc = d.adc := rfl
@[simp] theorem withShadow_therm (w v : Nat) (d : Device) : (withShadow w v d).therm = d.therm := rfl
@[simp] theorem withShadow_bg (w v : Nat) (d : Device) : (withShadow w v d).bg = d.bg := rfl
@[simp] theorem withShadow_link (w v : Nat) (d : Device) : (withShadow w v d).link = d.link := rfl
@[simp] theorem withShadow_vly (w v : Nat) (d : Device) : (withShadow w v d).vly = d.vly := rfl
@[simp] theorem withShadow_gauge (w v : Nat) (d : Device) : (withShadow w v d).gauge = d.gauge := rfl
@[simp] theorem withShadow_power (w v : Nat) (d : Device) : (withShadow w v d).power = d.power := rfl
@[simp] theorem withShadow_rtc (w v : Nat) (d : Device) : (withShadow w v d).rtc = d.rtc := rfl
@[simp] theorem withShadow_log (w v : Nat) (d : Device) : (withShadow w v d).log = d.log := rfl
@[simp] theorem withShadow_fw (w v : Nat) (d : Device) : (withShadow w v d).fw = d.fw := rfl
@[simp] theorem withShadow_freeN (w v : Nat) (d : Device) : (withShadow w v d).freeN = d.freeN := rfl

end Sys2Proof.Machine
end

