-- ==== Sys2Proof/Laws/Specs.lean ====
section
/-! SUPPORT. What the shared operations of the command rows answer: the judgement of a command (R411, R415), the gate, the
passing of time, ring records. -/

set_option linter.all false
set_option Elab.async false

namespace Sys2Proof.Machine

/-! ### Judgement -/

theorem firstFail_none {cs : List (Bool × Status)} : firstFail cs = none ↔ cs.all (fun x => x.1) = true := by
  induction cs with
  | nil => simp [firstFail]
  | cons c t ih =>
    obtain ⟨ok, st⟩ := c
    cases ok <;> simp [firstFail, ih]

/-- The first failing check of a list that begins with checks that pass. -/
theorem firstFail_append {cs ds : List (Bool × Status)} (h : cs.all (fun x => x.1) = true) : firstFail (cs ++ ds) = firstFail ds := by
  induction cs with
  | nil => rfl
  | cons c t ih =>
    obtain ⟨ok, st⟩ := c
    simp only [List.all_cons, Bool.and_eq_true] at h
    simp [firstFail, h.1, ih h.2]

/-- A row runs its packet where the engine runs, and has no effect elsewhere. -/
theorem runRow_on {rq : Req} {op : Nat} {ps : List Word} {env : List Int} {f : Cmd → Device → Device} {d : Device}
    (h : engineOn d = true) : runRow rq op ps env f d = f (mkCmd rq op ps env d) (begun d) := by simp [runRow, h, begun]

theorem runRow_off {rq : Req} {op : Nat} {ps : List Word} {env : List Int} {f : Cmd → Device → Device} {d : Device}
    (h : engineOn d = false) : runRow rq op ps env f d = d := by simp [runRow, h]

theorem judged_pass {c : Cmd} {d : Device} {gate : Bool} {cyc : Nat} {cs : List (Bool × Status)} {k : Device → Device}
    (h : cs.all (fun x => x.1) = true) : judged c d gate cyc cs k = k d := by simp [judged, firstFail_none.mpr h]

theorem judged_fail {c : Cmd} {d : Device} {cyc : Nat} {cs : List (Bool × Status)} {k : Device → Device} {st : Status}
    (h : firstFail cs = some st) :
    judged c d false cyc cs k = complete c d (if cyc = 0 then 3 else cyc) st 0#32 0#32 := by simp [judged, h]

theorem gated_pass {c : Cmd} {d : Device} {cs : Device → List (Bool × Status)} {k : Device → Device}
    (h : (cs (atGate d)).all (fun x => x.1) = true) : gated c d cs k = k (atGate d) := by
  simp [gated, firstFail_none.mpr h]

theorem gated_fail {c : Cmd} {d : Device} {cs : Device → List (Bool × Status)} {k : Device → Device} {st : Status}
    (h : firstFail (cs (atGate d)) = some st) : gated c d cs k = complete c (atGate d) 0 st 0#32 0#32 := by
  simp [gated, h]

/-! ### Time -/

theorem bumpOne_time {n : Nat} {d : Device} {k : Nat} :
    (bumpOne n d k).roofTime = d.roofTime ∧ (bumpOne n d k).cycles = d.cycles := by
  unfold bumpOne
  simp only []
  split
  · exact ⟨rfl, rfl⟩
  · exact ⟨setMaskBit_roofTime _ _ _ _ _, setMaskBit_cycles _ _ _ _ _⟩

theorem bumpAll_time {n : Nat} {ks : List Nat} {d : Device} :
    (ks.foldl (bumpOne n) d).roofTime = d.roofTime ∧ (ks.foldl (bumpOne n) d).cycles = d.cycles := by
  induction ks generalizing d with
  | nil => exact ⟨rfl, rfl⟩
  | cons k t ih =>
    have h := @bumpOne_time n d k
    have h2 := @ih (bumpOne n d k)
    exact ⟨h2.1.trans h.1, h2.2.trans h.2⟩

theorem count_time {code : Nat} {d : Device} {n : Nat} :
    (count code d n).roofTime = d.roofTime ∧ (count code d n).cycles = d.cycles := by
  unfold count
  split
  · exact ⟨rfl, rfl⟩
  · exact bumpAll_time

theorem countStall_time {n : Nat} {d : Device} {q : Nat} :
    (countStall n d q).roofTime = d.roofTime ∧ (countStall n d q).cycles = d.cycles := by
  unfold countStall
  split
  · exact ⟨rfl, rfl⟩
  · exact count_time

theorem countStalls_time {n : Nat} {qs : List Nat} {d : Device} :
    (qs.foldl (countStall n) d).roofTime = d.roofTime ∧ (qs.foldl (countStall n) d).cycles = d.cycles := by
  induction qs generalizing d with
  | nil => exact ⟨rfl, rfl⟩
  | cons q t ih =>
    have h := @countStall_time n d q
    have h2 := @ih (countStall n d q)
    exact ⟨h2.1.trans h.1, h2.2.trans h.2⟩

theorem passCycles_time {n : Nat} {d : Device} :
    (passCycles n d).roofTime = d.roofTime ∧ (passCycles n d).cycles = d.cycles + n := by
  have h : ∀ (e f : Device), f = count 0x0F { e with cycles := e.cycles + n } n →
      (if flag f W.TH_STATUS_THROTTLING then count 0x57 f n else f).roofTime = e.roofTime ∧
      (if flag f W.TH_STATUS_THROTTLING then count 0x57 f n else f).cycles = e.cycles + n := by
    intro e f hf
    have h1 : f.roofTime = e.roofTime ∧ f.cycles = e.cycles + n := by rw [hf]; exact count_time
    split
    · exact ⟨count_time.1.trans h1.1, count_time.2.trans h1.2⟩
    · exact h1
  unfold passCycles
  refine ⟨(h _ _ rfl).1.trans ?_, (h _ _ rfl).2.trans (congrArg (· + n) ?_)⟩
  · rw [countStalls_time.1, count_time.1, count_time.1, count_time.1]
  · rw [countStalls_time.2, count_time.2, count_time.2, count_time.2]

/-- Roof time never goes back at an instant that a row names. -/
theorem advanceTo_roofTime {t : Nat} {d : Device} : (advanceTo t d).roofTime = max d.roofTime t := by
  unfold advanceTo
  split
  · rw [passCycles_time.1]
    show t = _
    omega
  · omega

@[simp] theorem atGate_roofTime {d : Device} : (atGate d).roofTime = d.roofTime + 40 := by
  unfold atGate
  rw [advanceTo_roofTime]
  omega

/-! ### Rings -/

/-- R392: a record with room enters its ring whole. -/
theorem ringRecord_fits {q : Nat} {ws : List Word} {d : Device} (h : ws.length ≤ ringRoom d q) :
    ringRecord q ws d = setRing d q ((ring d q).push ws) := by simp [ringRecord, h]

@[simp] theorem push_words {r : Ring} {ws : List Word} : (r.push ws).words = r.words ++ ws := rfl
@[simp] theorem push_wr {r : Ring} {ws : List Word} : (r.push ws).wr = (r.wr + ws.length) % 65536 := rfl

end Sys2Proof.Machine
end

