-- ==== Sys2Proof/Tests/Slice0.lean ====
section
/-! SUPPORT. Tests: terms that WellFormed refuses, values that the spec states, and for every statement of
Certificates/Slice0/Obligations.lean with premises a concrete block and operands that meet them. -/

set_option Elab.async false

open Sys2Proof Sys2Proof.Machine

namespace Sys2Proof.Tests

/-! ### Blocks for the tests -/

/-- A block in mode `m` whose boot is over. -/
def up (m : Mode) : Device := setFld { State.reset.dev with mode := m } W.MODE_STATUS_BOOT_STAGE 7

/-- The same with the backup domain unlocked. -/
def unlocked (m : Mode) : Device := { up m with rtc := {} }

/-- A block with fields of words set: field, index, value. -/
def has (l : List (Fld × Nat × Nat)) (d : Device) : Device := l.foldl (fun d x => setFld d x.1 x.2.2 x.2.1) d

/-- A packet of Q2 with a tag. -/
def rq0 : Req := { src := .host 2, tag := 0x2A5#12, quiet := false }

/-- A command in progress of Q2. -/
def cmd0 : Cmd := { id := 0, src := .host 2, tag := 0, quiet := false, op := 0, params := [] }

/-- A block with a command in progress. -/
def busyWith (d : Device) (c : Cmd) : Device := { d with eng := { d.eng with issued := [c], nextId := 1 } }

/-- A packet in a queue: a NOP with a tag. -/
def pkt0 : QPkt := { id := 3, header := 0xFFF0#32, params := [], staged := false }

/-- A transaction of `n` words and `extra` zeros behind them, with the right ACRC. -/
def spiOf (kind target n extra : Nat) : Spi :=
  let t : Spi := ⟨BitVec.ofNat 6 target, BitVec.ofNat 8 n, 0, 0, List.replicate (n + extra) 0#32, .whole⟩
  let w := accessWord kind t
  { t with acrc := BitVec.ofNat 8 (crc8 [bitsOf w 31 24, bitsOf w 23 16, bitsOf w 15 8]) }

/-- The same with its CRC word behind the words. -/
def withCrc (kind : Nat) (t : Spi) : Spi :=
  { t with words := t.words ++ [BitVec.ofNat 32 (crcWords (accessWord kind t :: t.words))] }

/-- A block whose host may use page 0x19. -/
def perfOpened (d : Device) : Device :=
  let d := setFlag d W.PERM_PERF_READ true
  { d with otp := { d.otp with shadow := SMap.set (fun _ => 0) 260 2 d.otp.shadow } }

/-- A block with every rail configured and rail `n` as given. -/
def withRail (n : Nat) (r : Rail) (d : Device) : Device :=
  { setRail d n r with seq := { d.seq with configured := 0xFFFFFFFF } }

/-- A block with address 3 on the link, in a link state, with slots of address 5 present. -/
def linked (st : Nat) (m : Mode) : Device :=
  { (has [(W.LNK_CTRL_LINK_EN, 0, 1), (W.LNK_STATUS_LINK_STATE, 0, st), (W.LNK_STATUS_DISCIPLINED, 0, if st = 4 then 1 else 0),
      (W.LNK_STATUS_PRESENT, 0, 32), (W.LNK_STATUS_HOLDER_VALID, 0, 1), (W.LNK_STATUS_HOLDER, 0, 5),
      (W.ROOF_STATUS_PART, 0, 1)] (up m)) with core := { strap := 3 } }

/-- The same as a participant of a roof in a phase. -/
def member (phase : Nat) (m : Mode) : Device :=
  has [(W.ROOF_STATUS_PART, 0, 2), (W.ROOF_STATUS_PHASE, 0, phase)] (linked 4 m)

/-- The same as the holder. -/
def holding (phase : Nat) (m : Mode) : Device :=
  has [(W.LNK_STATUS_IS_HOLDER, 0, 1), (W.LNK_STATUS_HOLDER, 0, 3), (W.LNK_STATUS_LINK_STATE, 0, 7)] (member phase m)

/-- An insertion of address 5. -/
def urg (kind low : Nat) : Urg := { kind := kind, data := 160 + low, fn := 7, sym := 9 }

/-- A contract of address 3 with sink 5. -/
def contract3 : Contract := { cn := 97, source := 3, sinks := 32, iC := 30, vC := 90, e := 120 }

/-- A block with a part in a contract and a switch state. -/
def partner (role sw : Nat) (d : Device) : Device :=
  { (has [(W.VLY_STATUS_ROLE, 0, role), (W.VLY_STATUS_SW, 0, sw), (W.VLY_STATUS_CN, 0, 97), (W.VLY_CONTRACT_SOURCE, 0, if role = 1 then 3 else 5),
      (W.VLY_CONTRACT_SINKS, 0, 32), (W.VLY_ENERGY_E, 0, 120)] d) with vly := { cur := some contract3 } }

/-- A block whose Thatch runs. -/
def served2 (d : Device) : Device := has [(W.TRUST_STATUS_THATCH_STATE, 0, 2)] d

/-! ### Commands that cannot happen -/

theorem test_wellFormed_parameters : (Instr.thatchSubmit 0#32 (List.replicate 63 0#32)).wellFormed = false := by decide
theorem test_wellFormed_subscribe : (Instr.adcSubscribe rq0 (List.replicate 63 0#32)).wellFormed = false := by decide
theorem test_wellFormed_data : (Instr.fwStage rq0 0#32 (List.replicate 62 0#32)).wellFormed = false := by decide
theorem test_wellFormed_channel : (Instr.adcConversionEnd 0#2 0 false (some 136#8) 0#4).wellFormed = false := by decide
theorem test_wellFormed_phase : (Instr.clusterPhaseFail [(10#4, 1#3)]).wellFormed = false := by decide
theorem test_wellFormed_cause : (Instr.clusterPhaseFail [(9#4, 0#3)]).wellFormed = false := by decide
theorem test_wellFormed_supply : (Instr.arbPending 65536 0).wellFormed = false := by decide
theorem test_wellFormed_die : (Instr.fwConfirmed 5000 (-32769)).wellFormed = false := by decide
theorem test_wellFormed_good : (Instr.clusterPhaseFail [(9#4, 6#3)]).wellFormed = true := by decide

/-! ### Values that the spec states -/

/-- R294, R385: the check value of "123456789". -/
theorem test_crc16 : crc16 [0x31, 0x32, 0x33, 0x34, 0x35, 0x36, 0x37, 0x38, 0x39] = 0x29B1 := by decide +kernel
/-- R386: the check value of "123456789". -/
theorem test_crc8 : crc8 [0x31, 0x32, 0x33, 0x34, 0x35, 0x36, 0x37, 0x38, 0x39] = 0x4B := by decide +kernel
/-- 14, the example behind R386: a push of 3 words to Q2. -/
theorem test_acrc : crc8 [0x82, 0x03, 0x00] = 0xE6 := by decide +kernel
/-- 22, the example behind R572: 130 codes as 0x82 0x01. -/
theorem test_leb128 : leb128 10 130 = [0x82, 0x01] := by decide +kernel
/-- 19, the example behind R517: over 64 PPS seconds 2,097,210 edges are 29 steps fast. -/
theorem test_trim : trimError 1 2097210 false = 29 := by decide +kernel
/-- FIPS 180-4 (R61): the hash of "abc" begins 0xBA7816BF. -/
theorem test_sha256 : (sha256 [0x61, 0x62, 0x63]).take 4 = [0xBA, 0x78, 0x16, 0xBF] := by decide +kernel
/-- 23, the example behind R588: one dump is 131 words, so Q15 holds 15 of them. -/
theorem test_dump : (dumpWords (up .run)).length = 131 ∧ ringDepth 15 / 131 = 15 := by decide +kernel
/-- R57, R60: regions 0 and 1 are locked at shipment. -/
theorem test_shipped : otpLocked State.reset.dev 0 = true ∧ otpLocked State.reset.dev 1 = true ∧ otpLocked State.reset.dev 2 = false := by
  decide +kernel
/-- Log 2: the table of operations spells no command in bits. -/
theorem test_noWord : decodeTableWord 32 0 = none := by decide


/-! ### Witnesses -/

/-- Blocks that meet the premises of `Obligations.StepWithoutCommandPassesOneCycle`. -/
theorem witness_StepWithoutCommandPassesOneCycle :
    (flag (has [(W.CLK_STATUS_PLL_LOCKED, 0, 1)] (up .run)) W.CLK_STATUS_PLL_LOCKED = true ∧
      inMode (has [(W.CLK_STATUS_PLL_LOCKED, 0, 1)] (up .run)) [.dormant, .standby] = false) ∧
    flag State.reset.dev W.CLK_STATUS_PLL_LOCKED = false := by
  decide +kernel

/-- A state that meets the premises of `Obligations.StepKeepsTheCanonicalForm` and of `Obligations.StepKeepsBlownBits`. -/
theorem witness_StepKeepsTheCanonicalForm :
    canonical State.reset.dev = true ∧ step State.reset = .next { pending := [], dev := idle State.reset.dev } ∧
      otpBit State.reset.dev 960 1 = true := by
  refine ⟨by decide +kernel, rfl, by decide +kernel⟩

/-- Commands and a block that meet the premises of each clause of `Obligations.CompletionEntries`. -/
theorem witness_CompletionEntries :
    (canonical (up .run) = true ∧ cmd0.lost = false ∧
      (up .run).eng.issued.any (fun x => x.op == 0x01 || x.op == 0x02) = false) ∧
    (srcIsHost cmd0.src = true ∧ (cmd0.quiet && (Status.ok == .ok || Status.ok == .okDuplicate)) = false) ∧
    (srcIsHost cmd0.src = true ∧ ({ cmd0 with quiet := true }.quiet && (Status.okDuplicate == .ok || Status.okDuplicate == .okDuplicate)) = true) ∧
    srcIsHost { cmd0 with src := .thatch }.src = false := by
  decide +kernel

/-- Blocks that meet the premises of each clause of `Obligations.SourcesLatch`. -/
theorem witness_SourcesLatch :
    (canonical (setW (up .run) (W.EVT_EN + 27) 0x80000000#32) = true ∧
      listens (setW (up .run) (W.EVT_EN + 27) 0x80000000#32) 895 = true) ∧
    (canonical (up .run) = true ∧ listens (up .run) 896 = false) := by
  decide +kernel

def wEngineCommandsComplete0 : Device := up .run
def wEngineCommandsComplete1 : Device := up .replay
def wEngineCommandsComplete2 : Device := up .boot
def wEngineCommandsComplete3 : Device := busyWith (up .latched) cmd0
def wEngineCommandsComplete6 : Device := busyWith (up .run) cmd0
def wEngineCommandsComplete9 : Device := setTagMem (up .run) 11 [{ id := 0, tag := 5, crc := 7 }]
def wEngineCommandsComplete11 : Device := { up .run with eng := { fall := some { id := 0, queue := 2, set := [1] } } }

/-- Blocks and operands that meet the premises of the clauses of `Obligations.EngineCommandsComplete`, part 1 of 2. -/
theorem witness_EngineCommandsComplete_part1 :
    (canonical wEngineCommandsComplete0 = true ∧
      engineOn wEngineCommandsComplete0 = true) ∧
    (canonical wEngineCommandsComplete1 = true ∧
      engineOn wEngineCommandsComplete1 = true) ∧
    (canonical wEngineCommandsComplete2 = true ∧
      engineOn wEngineCommandsComplete2 = true ∧
      wEngineCommandsComplete2.eng.issued.any (fun x => x.src == (rq0 : Req).src && x.id <
        wEngineCommandsComplete2.eng.nextId) = false) ∧
    (canonical wEngineCommandsComplete3 = true ∧
      engineOn wEngineCommandsComplete3 = true ∧
      wEngineCommandsComplete3.eng.issued.any (fun x => x.src == (rq0 : Req).src && x.id <
        wEngineCommandsComplete3.eng.nextId) = true) ∧
    (canonical wEngineCommandsComplete0 = true ∧
      engineOn wEngineCommandsComplete0 = true ∧
      (rq0 : Req).src ≠ .thatch ∧
      fenceAllHeld (rq0 : Req) wEngineCommandsComplete0 = false ∧
      wEngineCommandsComplete0.mode ≠ .replay ∧
      fenceSet wEngineCommandsComplete0 wEngineCommandsComplete0.eng.nextId = []) ∧
    (canonical wEngineCommandsComplete1 = true ∧
      engineOn wEngineCommandsComplete1 = true ∧
      (rq0 : Req).src ≠ .thatch ∧
      fenceAllHeld (rq0 : Req) wEngineCommandsComplete1 = false ∧
      wEngineCommandsComplete1.mode = .replay) ∧
    (canonical wEngineCommandsComplete6 = true ∧
      engineOn wEngineCommandsComplete6 = true ∧
      (rq0 : Req).src ≠ .thatch ∧
      fenceAllHeld (rq0 : Req) wEngineCommandsComplete6 = false ∧
      wEngineCommandsComplete6.mode ≠ .replay ∧
      fenceSet wEngineCommandsComplete6 wEngineCommandsComplete6.eng.nextId ≠ []) ∧
    (canonical wEngineCommandsComplete0 = true ∧
      engineOn wEngineCommandsComplete0 = true ∧
      (rq0 : Req).src ≠ .thatch ∧
      weightsOk (0xF11111#32 : Word) = true ∧
      modeOk .live wEngineCommandsComplete0 = true) ∧
    (canonical wEngineCommandsComplete0 = true ∧
      engineOn wEngineCommandsComplete0 = true ∧
      (rq0 : Req).src ≠ .thatch ∧
      weightsOk (0xF01111#32 : Word) = false) := by
  decide +kernel

/-- Blocks and operands that meet the premises of the clauses of `Obligations.EngineCommandsComplete`, part 2 of 2. -/
theorem witness_EngineCommandsComplete_part2 :
    (canonical wEngineCommandsComplete9 = true ∧
      engineOn wEngineCommandsComplete9 = true ∧
      (rq0 : Req).src ≠ .thatch ∧
      bitsOf (0xFFF#32 : Word) 31 12 = 0 ∧
      modeOk .live wEngineCommandsComplete9 = true) ∧
    (canonical wEngineCommandsComplete0 = true ∧
      engineOn wEngineCommandsComplete0 = true ∧
      ({ rq0 with src := .thatch } : Req).src = .thatch) ∧
    (canonical wEngineCommandsComplete11 = true ∧
      fenceAllHeld (rq0 : Req) wEngineCommandsComplete11 = true) ∧
    (canonical wEngineCommandsComplete1 = true ∧
      engineOn wEngineCommandsComplete1 = true ∧
      firstFail [((rq0 : Req).src != .thatch, .deniedPermission), (weightsOk (0xF11111#32 : Word), .badParam), (modeOk .live
        wEngineCommandsComplete1, .deniedMode)] = some (.deniedMode : Status)) ∧
    (canonical wEngineCommandsComplete9 = true ∧
      engineOn wEngineCommandsComplete9 = true ∧
      firstFail [((rq0 : Req).src != .thatch, .deniedPermission), (bitsOf (0x1FFF#32 : Word) 31 12 = 0, .badParam), (modeOk
        .live wEngineCommandsComplete9, .deniedMode)] = some (.badParam : Status)) := by
  decide +kernel


def wPacketsIssueAndStart0 : Device := setQueue (up .run) 19 [{ id := 3, header := 0#32, params := [], staged := false }]
def wPacketsIssueAndStart1 : Device := up .run
def wPacketsIssueAndStart3 : Device := busyWith (up .run) { cmd0 with started := false, op := 0x70, params := [1#32, 2#32] }
def wPacketsIssueAndStart4 : Device := busyWith (up .run) { cmd0 with started := false, op := 0x03, params := [1#32, 2#32] }
def wPacketsIssueAndStart5 : Device := setTagMem (setQueue (up .run) 11 [pkt0]) 11 [{ id := 0, tag := 0xFFF, crc := pkt0.crc, done := true, w1 := 7#32 }]
def wPacketsIssueAndStart6 : Device := setQueue (up .run) 11 [pkt0]
def wPacketsIssueAndStart7 : Device := setQueue (up .run) 11 [{ pkt0 with params := [1#32] }]
def wPacketsIssueAndStart9 : Device := setRing (setQueue { up .run with eng := { fullFrom := some 0 } } 0 [pkt0]) 12 { wr := 4096 }
def wPacketsIssueAndStart11 : Device := busyWith (up .run) { cmd0 with wait := 1 }
def wPacketsIssueAndStart12 : Device := busyWith (up .run) cmd0

/-- Blocks and operands that meet the premises of the clauses of `Obligations.PacketsIssueAndStart`, part 1 of 2. -/
theorem witness_PacketsIssueAndStart_part1 :
    (canonical wPacketsIssueAndStart0 = true ∧
      engineOn wPacketsIssueAndStart0 = true ∧
      (chooseQueue (5 : Nat) wPacketsIssueAndStart0).map (fun r => r.1) = some (19 : Nat) ∧
      headOf wPacketsIssueAndStart0 (19 : Nat) = some ({ id := 3, header := 0#32, params := [], staged := false } : QPkt)) ∧
    (canonical wPacketsIssueAndStart1 = true ∧
      (engineOn wPacketsIssueAndStart1 && (chooseQueue (3 : Nat) wPacketsIssueAndStart1).isSome) = false) ∧
    (canonical wPacketsIssueAndStart1 = true ∧
      (engineOn wPacketsIssueAndStart1 && (((waitingCmds wPacketsIssueAndStart1).filter (mayStart wPacketsIssueAndStart1))[(0
        : Nat)]?).isSome) = false) ∧
    (canonical wPacketsIssueAndStart3 = true ∧
      engineOn wPacketsIssueAndStart3 = true ∧
      ((waitingCmds wPacketsIssueAndStart3).filter (mayStart wPacketsIssueAndStart3))[(0 : Nat)]? = some
        ({ cmd0 with started := false, op := 0x70, params := [1#32, 2#32] } : Cmd)) ∧
    (canonical wPacketsIssueAndStart4 = true ∧
      engineOn wPacketsIssueAndStart4 = true ∧
      ((waitingCmds wPacketsIssueAndStart4).filter (mayStart wPacketsIssueAndStart4))[(0 : Nat)]? = some
        ({ cmd0 with started := false, op := 0x03, params := [1#32, 2#32] } : Cmd) ∧
      ({ cmd0 with started := false, op := 0x03, params := [1#32, 2#32] } : Cmd).op = 0x03) ∧
    (canonical wPacketsIssueAndStart5 = true ∧
      engineOn wPacketsIssueAndStart5 = true ∧
      (11#4 : BitVec 4).toNat < 12 ∧
      headOf wPacketsIssueAndStart5 (11#4 : BitVec 4).toNat = some (pkt0 : QPkt) ∧
      eligible wPacketsIssueAndStart5 (11#4 : BitVec 4).toNat = true ∧
      frameFault (pkt0 : QPkt).header (pkt0 : QPkt).params.length = none ∧
      hdrTag (pkt0 : QPkt).header ≠ 0 ∧
      tagEntry wPacketsIssueAndStart5 (11#4 : BitVec 4).toNat (hdrTag (pkt0 : QPkt).header) (pkt0 : QPkt).vis = some
        ({ id := 0, tag := 0xFFF, crc := pkt0.crc, done := true, w1 := 7#32 } : TagEnt)) ∧
    (canonical wPacketsIssueAndStart6 = true ∧
      engineOn wPacketsIssueAndStart6 = true ∧
      (11#4 : BitVec 4).toNat < 12 ∧
      headOf wPacketsIssueAndStart6 (11#4 : BitVec 4).toNat = some (pkt0 : QPkt) ∧
      eligible wPacketsIssueAndStart6 (11#4 : BitVec 4).toNat = true ∧
      frameFault (pkt0 : QPkt).header (pkt0 : QPkt).params.length = none ∧
      hdrTag (pkt0 : QPkt).header ≠ 0 ∧
      tagEntry wPacketsIssueAndStart6 (11#4 : BitVec 4).toNat (hdrTag (pkt0 : QPkt).header) (pkt0 : QPkt).vis = none) := by
  decide +kernel

/-- Blocks and operands that meet the premises of the clauses of `Obligations.PacketsIssueAndStart`, part 2 of 2. -/
theorem witness_PacketsIssueAndStart_part2 :
    (canonical wPacketsIssueAndStart7 = true ∧
      engineOn wPacketsIssueAndStart7 = true ∧
      (11#4 : BitVec 4).toNat < 12 ∧
      headOf wPacketsIssueAndStart7 (11#4 : BitVec 4).toNat = some ({ pkt0 with params := [1#32] } : QPkt) ∧
      eligible wPacketsIssueAndStart7 (11#4 : BitVec 4).toNat = true ∧
      frameFault ({ pkt0 with params := [1#32] } : QPkt).header ({ pkt0 with params := [1#32] } : QPkt).params.length = some
        (.badLength : Status) ∧
      hdrTag ({ pkt0 with params := [1#32] } : QPkt).header ≠ 0) ∧
    (canonical wPacketsIssueAndStart1 = true ∧
      (engineOn wPacketsIssueAndStart1 && decide ((11#4 : BitVec 4).toNat < 12) && (headOf wPacketsIssueAndStart1 (11#4 :
        BitVec 4).toNat).any (fun p => eligible wPacketsIssueAndStart1 (11#4 : BitVec 4).toNat && hdrTag p.header != 0)) =
        false) ∧
    (canonical wPacketsIssueAndStart9 = true ∧
      engineOn wPacketsIssueAndStart9 = true ∧
      wPacketsIssueAndStart9.eng.stalled = false ∧
      (List.range 12).filterMap (stallFrom wPacketsIssueAndStart9) ≠ []) ∧
    (canonical wPacketsIssueAndStart1 = true ∧
      ((engineOn wPacketsIssueAndStart1 = false ∨ wPacketsIssueAndStart1.eng.stalled = true ∨ (List.range 12).filterMap
        (stallFrom wPacketsIssueAndStart1) = []))) ∧
    (canonical wPacketsIssueAndStart11 = true ∧
      wPacketsIssueAndStart11.eng.issued.filter (fun x => x.wait == 1) ≠ [] ∧
      (wPacketsIssueAndStart11.eng.issued.filter (fun x => x.wait == 1)).tail.foldl (fun a b => if b.startT < a.startT then b
        else a)
      ((wPacketsIssueAndStart11.eng.issued.filter (fun x => x.wait == 1)).headD ({ cmd0 with wait := 1 } : Cmd)) =
        ({ cmd0 with wait := 1 } : Cmd)) ∧
    (canonical wPacketsIssueAndStart12 = true ∧
      wPacketsIssueAndStart12.eng.issued.filter (fun x => x.wait == 1) = []) := by
  decide +kernel


def wSpiTransactions0 : Device := up .latched
def wSpiTransactions1 : Device := up .run
def wSpiTransactions2 : Device := up .replay
def wSpiTransactions3 : Device := setRing (up .run) 15 { words := [9#32], wr := 0, rd := 65535, rel := 65535 }
def wSpiTransactions4 : Device := setQueue (up .run) 11 [{ pkt0 with staged := true }]
def wSpiTransactions5 : Device := setFld (setQueue (up .run) 11 [{ pkt0 with staged := true }]) W.HP_SQ_MODE_STAGE_Q 0x800
def wSpiTransactions6 : Device := setRing (up .run) 15 { words := [9#32], wr := 0, rd := 0, rel := 65535 }
def wSpiTransactions8 : Device := State.reset.dev

/-- Blocks and operands that meet the premises of the clauses of `Obligations.SpiTransactions`, part 1 of 2. -/
theorem witness_SpiTransactions_part1 :
    (canonical wSpiTransactions0 = true ∧
      portOn wSpiTransactions0 = true ∧
      acrcOk 0 (spiOf 0 63 1 2 : Spi) = true ∧
      1 ≤ (spiOf 0 63 1 2 : Spi).count.toNat ∧
      (spiOf 0 63 1 2 : Spi).target.toNat + (spiOf 0 63 1 2 : Spi).count.toNat ≤ 64 ∧
      lengthOk (spiOf 0 63 1 2 : Spi) 2 = true) ∧
    (canonical wSpiTransactions1 = true ∧
      portOn wSpiTransactions1 = true ∧
      acrcOk 1 (withCrc 1 (spiOf 1 23 1 0) : Spi) = true ∧
      1 ≤ (withCrc 1 (spiOf 1 23 1 0) : Spi).count.toNat ∧
      (withCrc 1 (spiOf 1 23 1 0) : Spi).target.toNat + (withCrc 1 (spiOf 1 23 1 0) : Spi).count.toNat ≤ 64 ∧
      lengthOk (withCrc 1 (spiOf 1 23 1 0) : Spi) 1 = true ∧
      crcOk 1 (withCrc 1 (spiOf 1 23 1 0) : Spi) = true ∧
      (List.range 4).all (fun r => !((withCrc 1 (spiOf 1 23 1 0) : Spi).target.toNat ≤ 20 + r && 20 + r < (withCrc 1 (spiOf 1
        23 1 0) : Spi).target.toNat + (withCrc 1 (spiOf 1 23 1 0) : Spi).count.toNat)
      || rdOk wSpiTransactions1 (12 + r) (bitsOf ((withCrc 1 (spiOf 1 23 1 0) : Spi).words.getD (20 + r - (withCrc 1 (spiOf 1
        23 1 0) : Spi).target.toNat) 0#32) 15 0)) = true) ∧
    (canonical wSpiTransactions2 = true ∧
      portOn wSpiTransactions2 = true ∧
      acrcOk 2 (withCrc 2 (spiOf 2 11 1 0) : Spi) = true ∧
      1 ≤ (withCrc 2 (spiOf 2 11 1 0) : Spi).count.toNat ∧
      (withCrc 2 (spiOf 2 11 1 0) : Spi).target.toNat < 12 ∧
      engineReady wSpiTransactions2 = true ∧
      (withCrc 2 (spiOf 2 11 1 0) : Spi).count.toNat ≤ freeWords wSpiTransactions2 (withCrc 2 (spiOf 2 11 1 0) :
        Spi).target.toNat ∧
      lengthOk (withCrc 2 (spiOf 2 11 1 0) : Spi) 1 = true ∧
      crcOk 2 (withCrc 2 (spiOf 2 11 1 0) : Spi) = true ∧
      (splitPackets (withCrc 2 (spiOf 2 11 1 0) : Spi).count.toNat ((withCrc 2 (spiOf 2 11 1 0) : Spi).words.take (withCrc 2
        (spiOf 2 11 1 0) : Spi).count.toNat)).2 = true) ∧
    (canonical wSpiTransactions3 = true ∧
      portOn wSpiTransactions3 = true ∧
      acrcOk 3 (spiOf 3 15 255 2 : Spi) = true ∧
      1 ≤ (spiOf 3 15 255 2 : Spi).count.toNat ∧
      12 ≤ (spiOf 3 15 255 2 : Spi).target.toNat ∧
      (spiOf 3 15 255 2 : Spi).target.toNat < 16 ∧
      (spiOf 3 15 255 2 : Spi).count.toNat % ringEntry (spiOf 3 15 255 2 : Spi).target.toNat = 0 ∧
      lengthOk (spiOf 3 15 255 2 : Spi) 2 = true) ∧
    (canonical wSpiTransactions4 = true ∧
      portOn wSpiTransactions4 = true) ∧
    (canonical wSpiTransactions5 = true ∧
      portOn wSpiTransactions5 = true) := by
  decide +kernel

/-- Blocks and operands that meet the premises of the clauses of `Obligations.SpiTransactions`, part 2 of 2. -/
theorem witness_SpiTransactions_part2 :
    (canonical wSpiTransactions6 = true ∧
      portOn wSpiTransactions6 = true ∧
      rdOk wSpiTransactions6 (12 + (3#2 : BitVec 2).toNat) (bitsOf (0xFFFF#32 : Word) 15 0) = true) ∧
    (canonical wSpiTransactions1 = true ∧
      portOn wSpiTransactions1 = true ∧
      firstFail [((spiOf 0 63 2 2 : Spi).ends != .inAccess, .badLength), (acrcOk 0 (spiOf 0 63 2 2 : Spi), .badCrc), (1 ≤
        (spiOf 0 63 2 2 : Spi).count.toNat, .badLength), ((spiOf 0 63 2 2 : Spi).target.toNat + (spiOf 0 63 2 2 :
        Spi).count.toNat ≤ 64, .badParam), (lengthOk (spiOf 0 63 2 2 : Spi) 2, .badLength)] = some (.badParam : Status)) ∧
    (canonical wSpiTransactions8 = true ∧
      portOn wSpiTransactions8 = false) ∧
    (canonical wSpiTransactions1 = true ∧
      portOn wSpiTransactions1 = true ∧
      firstFail [((spiOf 1 23 1 1 : Spi).ends != .inAccess, .badLength), (acrcOk 1 (spiOf 1 23 1 1 : Spi), .badCrc), (1 ≤
        (spiOf 1 23 1 1 : Spi).count.toNat, .badLength), ((spiOf 1 23 1 1 : Spi).target.toNat + (spiOf 1 23 1 1 :
        Spi).count.toNat ≤ 64, .badParam), (lengthOk (spiOf 1 23 1 1 : Spi) 1, .badLength), (crcOk 1 (spiOf 1 23 1 1 : Spi),
        .badCrc), ((List.range 4).all (fun r => !((spiOf 1 23 1 1 : Spi).target.toNat ≤ 20 + r && 20 + r < (spiOf 1 23 1 1 :
        Spi).target.toNat + (spiOf 1 23 1 1 : Spi).count.toNat) || rdOk wSpiTransactions1 (12 + r) (bitsOf (((spiOf 1 23 1 1
        : Spi).words.take (spiOf 1 23 1 1 : Spi).count.toNat).getD (20 + r - (spiOf 1 23 1 1 : Spi).target.toNat) 0#32) 15
        0)), .badParam)] = some (.badCrc : Status)) ∧
    (canonical wSpiTransactions8 = true ∧
      portOn wSpiTransactions8 = false) ∧
    (canonical wSpiTransactions1 = true ∧
      portOn wSpiTransactions1 = true ∧
      firstFail [((withCrc 2 (spiOf 2 12 1 0) : Spi).ends != .inAccess, .badLength), (acrcOk 2 (withCrc 2 (spiOf 2 12 1 0) :
        Spi), .badCrc), (1 ≤ (withCrc 2 (spiOf 2 12 1 0) : Spi).count.toNat, .badLength), ((withCrc 2 (spiOf 2 12 1 0) :
        Spi).target.toNat < 12, .badParam), (engineReady wSpiTransactions1, .deniedMode), ((withCrc 2 (spiOf 2 12 1 0) :
        Spi).count.toNat ≤ freeWords wSpiTransactions1 (withCrc 2 (spiOf 2 12 1 0) : Spi).target.toNat, .busy), (lengthOk
        (withCrc 2 (spiOf 2 12 1 0) : Spi) 1, .badLength), (crcOk 2 (withCrc 2 (spiOf 2 12 1 0) : Spi), .badCrc),
        ((splitPackets (withCrc 2 (spiOf 2 12 1 0) : Spi).count.toNat ((withCrc 2 (spiOf 2 12 1 0) : Spi).words.take (withCrc
        2 (spiOf 2 12 1 0) : Spi).count.toNat)).2, .badLength)] = some (.badParam : Status)) ∧
    (canonical wSpiTransactions8 = true ∧
      portOn wSpiTransactions8 = false) ∧
    (canonical wSpiTransactions1 = true ∧
      portOn wSpiTransactions1 = true ∧
      firstFail [(({ spiOf 3 15 255 2 with rsvd := 1 } : Spi).ends != .inAccess, .badLength), (acrcOk 3
        ({ spiOf 3 15 255 2 with rsvd := 1 } : Spi), .badCrc), (1 ≤ ({ spiOf 3 15 255 2 with rsvd := 1 } : Spi).count.toNat,
        .badLength), (decide (12 ≤ ({ spiOf 3 15 255 2 with rsvd := 1 } : Spi).target.toNat) && decide
        (({ spiOf 3 15 255 2 with rsvd := 1 } : Spi).target.toNat < 16) && ({ spiOf 3 15 255 2 with rsvd := 1 } :
        Spi).count.toNat % ringEntry ({ spiOf 3 15 255 2 with rsvd := 1 } : Spi).target.toNat = 0, .badParam), (lengthOk
        ({ spiOf 3 15 255 2 with rsvd := 1 } : Spi) 2, .badLength)] = some (.badCrc : Status)) ∧
    (canonical wSpiTransactions8 = true ∧
      portOn wSpiTransactions8 = false) ∧
    (canonical wSpiTransactions8 = true ∧
      portOn wSpiTransactions8 = false) ∧
    (canonical wSpiTransactions8 = true ∧
      portOn wSpiTransactions8 = false) ∧
    (canonical wSpiTransactions1 = true ∧
      (portOn wSpiTransactions1 && rdOk wSpiTransactions1 (12 + (3#2 : BitVec 2).toNat) (bitsOf (0xFFFF#32 : Word) 15 0)) =
        false) := by
  decide +kernel


def wRegisterAccess0 : Device := up .run
def wRegisterAccess4 : Device := setRing (up .run) 15 { wr := 8192 }
def wRegisterAccess5 : Device := up .retain
def wRegisterAccess7 : Device := { (unlocked .run) with rtc := { fifos := [(3, [(1#32, 2#32)])] } }
def wRegisterAccess8 : Device := perfOpened (up .run)
def wRegisterAccess11 : Device := up .replay

/-- Blocks and operands that meet the premises of the clauses of `Obligations.RegisterAccess`, part 1 of 2. -/
theorem witness_RegisterAccess_part1 :
    (canonical wRegisterAccess0 = true ∧
      engineOn wRegisterAccess0 = true ∧
      addrOk (0x0100#32 : Word) = true ∧
      (readChecks (rq0 : Req).src (bitsOf (0x0100#32 : Word) 15 0) wRegisterAccess0).all (fun x => x.1) = true) ∧
    (canonical wRegisterAccess0 = true ∧
      engineOn wRegisterAccess0 = true ∧
      pickFail (writeFails (rq0 : Req).src (0x0281#32 : Word) (getW wRegisterAccess0 (bitsOf (0x0281#32 : Word) 15 0))
        (merged (bitsOf (0x0281#32 : Word) 15 0) (getW wRegisterAccess0 (bitsOf (0x0281#32 : Word) 15 0)) (0x0#32 : Word))
        (0x0#32 : Word) (begun wRegisterAccess0)) = none) ∧
    (canonical wRegisterAccess0 = true ∧
      engineOn wRegisterAccess0 = true ∧
      (((readW (begun (up .run)) 0x281 &&& ~~~0xF#32) &&& ~~~(w1cBits 0x281)) ||| (0#32 &&& 0xF#32) : Word) = ((readW (begun
        wRegisterAccess0) (bitsOf (0x0281#32 : Word) 15 0) &&& ~~~(0xF#32 : Word)) &&& ~~~(w1cBits (bitsOf (0x0281#32 : Word)
        15 0))) ||| ((0x0#32 : Word) &&& (0xF#32 : Word)) ∧
      pickFail (writeFails (rq0 : Req).src (0x0281#32 : Word) (getW wRegisterAccess0 (bitsOf (0x0281#32 : Word) 15 0))
        (merged (bitsOf (0x0281#32 : Word) 15 0) (getW wRegisterAccess0 (bitsOf (0x0281#32 : Word) 15 0)) (((readW (begun (up
        .run)) 0x281 &&& ~~~0xF#32) &&& ~~~(w1cBits 0x281)) ||| (0#32 &&& 0xF#32) : Word)) (((readW (begun (up .run)) 0x281
        &&& ~~~0xF#32) &&& ~~~(w1cBits 0x281)) ||| (0#32 &&& 0xF#32) : Word) (begun wRegisterAccess0)) = none) ∧
    (canonical wRegisterAccess0 = true ∧
      engineOn wRegisterAccess0 = true ∧
      bitsOf (0x00FF0100#32 : Word) 31 24 = 0 ∧
      1 ≤ bitsOf (0x00FF0100#32 : Word) 23 16 ∧
      bitsOf (0x00FF0100#32 : Word) 15 0 % 256 + bitsOf (0x00FF0100#32 : Word) 23 16 ≤ 256 ∧
      (famOf? (bitsOf (0x00FF0100#32 : Word) 15 0)).isSome = true ∧
      (readChecks (rq0 : Req).src (bitsOf (0x00FF0100#32 : Word) 15 0) wRegisterAccess0).all (fun x => x.1) = true ∧
      bitsOf (0x00FF0100#32 : Word) 23 16 + 1 ≤ ringRoom wRegisterAccess0 15) ∧
    (canonical wRegisterAccess4 = true ∧
      engineOn wRegisterAccess4 = true ∧
      bitsOf (0x00FF0100#32 : Word) 31 24 = 0 ∧
      1 ≤ bitsOf (0x00FF0100#32 : Word) 23 16 ∧
      bitsOf (0x00FF0100#32 : Word) 15 0 % 256 + bitsOf (0x00FF0100#32 : Word) 23 16 ≤ 256 ∧
      (famOf? (bitsOf (0x00FF0100#32 : Word) 15 0)).isSome = true ∧
      (readChecks (rq0 : Req).src (bitsOf (0x00FF0100#32 : Word) 15 0) wRegisterAccess4).all (fun x => x.1) = true ∧
      ringRoom wRegisterAccess4 15 < bitsOf (0x00FF0100#32 : Word) 23 16 + 1) ∧
    (canonical wRegisterAccess5 = true ∧
      engineOn wRegisterAccess5 = true ∧
      (readChecks (rq0 : Req).src W.LNK_FN wRegisterAccess5).all (fun x => x.1) = true) ∧
    (canonical wRegisterAccess0 = true ∧
      engineOn wRegisterAccess0 = true ∧
      (readChecks ({ rq0 with src := .purlin } : Req).src (W.PC_VAL + 2 * (63#6 : BitVec 6).toNat) wRegisterAccess0).all (fun
        x => x.1) = true) ∧
    (canonical wRegisterAccess7 = true ∧
      engineOn wRegisterAccess7 = true ∧
      (readChecks (rq0 : Req).src (W.EV_TS + 2 * (3#2 : BitVec 2).toNat + 1) wRegisterAccess7).all (fun r => r.1) = true) := by
  decide +kernel

/-- Blocks and operands that meet the premises of the clauses of `Obligations.RegisterAccess`, part 2 of 2. -/
theorem witness_RegisterAccess_part2 :
    (canonical wRegisterAccess8 = true ∧
      engineOn wRegisterAccess8 = true ∧
      pickFail (writeFails (rq0 : Req).src (BitVec.ofNat 32 W.PC_SMP) (getW wRegisterAccess8 W.PC_SMP) (merged W.PC_SMP (getW
        wRegisterAccess8 W.PC_SMP) (0x10#32 : Word)) (0x10#32 : Word) (begun wRegisterAccess8)) = none) ∧
    (canonical wRegisterAccess0 = true ∧
      engineOn wRegisterAccess0 = true ∧
      firstFail ((addrOk (0x1900#32 : Word), .badParam) :: readChecks (rq0 : Req).src (bitsOf (0x1900#32 : Word) 15 0)
        wRegisterAccess0) = some (.deniedPermission : Status)) ∧
    (canonical wRegisterAccess0 = true ∧
      engineOn wRegisterAccess0 = true ∧
      pickFail (writeFails (rq0 : Req).src (0x12345#32 : Word) (getW wRegisterAccess0 (bitsOf (0x12345#32 : Word) 15 0))
        (merged (bitsOf (0x12345#32 : Word) 15 0) (getW wRegisterAccess0 (bitsOf (0x12345#32 : Word) 15 0)) (7#32 : Word))
        (7#32 : Word) (begun wRegisterAccess0)) = some (⟨3, .badParam, none⟩ : Fail)) ∧
    (canonical wRegisterAccess11 = true ∧
      engineOn wRegisterAccess11 = true ∧
      (((readW (begun (up .replay)) 0x281 &&& ~~~0xF#32) &&& ~~~(w1cBits 0x281)) ||| (0#32 &&& 0xF#32) : Word) = ((readW
        (begun wRegisterAccess11) (bitsOf (0x0281#32 : Word) 15 0) &&& ~~~(0xF#32 : Word)) &&& ~~~(w1cBits (bitsOf (0x0281#32
        : Word) 15 0))) ||| ((0x0#32 : Word) &&& (0xF#32 : Word)) ∧
      pickFail (writeFails (rq0 : Req).src (0x0281#32 : Word) (getW wRegisterAccess11 (bitsOf (0x0281#32 : Word) 15 0))
        (merged (bitsOf (0x0281#32 : Word) 15 0) (getW wRegisterAccess11 (bitsOf (0x0281#32 : Word) 15 0)) (((readW (begun
        (up .replay)) 0x281 &&& ~~~0xF#32) &&& ~~~(w1cBits 0x281)) ||| (0#32 &&& 0xF#32) : Word)) (((readW (begun (up
        .replay)) 0x281 &&& ~~~0xF#32) &&& ~~~(w1cBits 0x281)) ||| (0#32 &&& 0xF#32) : Word) (begun wRegisterAccess11)) =
        some (⟨4, .deniedMode, none⟩ : Fail)) ∧
    (canonical wRegisterAccess0 = true ∧
      engineOn wRegisterAccess0 = true ∧
      firstFail ((bitsOf (0x00000100#32 : Word) 31 24 = 0 && decide (1 ≤ bitsOf (0x00000100#32 : Word) 23 16) && decide
        ((bitsOf (0x00000100#32 : Word) 15 0) % 256 + bitsOf (0x00000100#32 : Word) 23 16 ≤ 256) && (famOf? (bitsOf
        (0x00000100#32 : Word) 15 0)).isSome, .badParam) :: readChecks (rq0 : Req).src (bitsOf (0x00000100#32 : Word) 15 0)
        wRegisterAccess0) = some (.badParam : Status)) ∧
    (canonical wRegisterAccess0 = true ∧
      engineOn wRegisterAccess0 = true ∧
      firstFail (readChecks (rq0 : Req).src (W.PC_VAL + 2 * (63#6 : BitVec 6).toNat) wRegisterAccess0) = some
        (.deniedPermission : Status)) ∧
    (canonical wRegisterAccess0 = true ∧
      engineOn wRegisterAccess0 = true ∧
      firstFail (readChecks (rq0 : Req).src (W.EV_TS + 2 * (3#2 : BitVec 2).toNat + 1) wRegisterAccess0) = some (.busy :
        Status)) ∧
    (canonical wRegisterAccess11 = true ∧
      engineOn wRegisterAccess11 = true ∧
      mayWrite (rq0 : Req).src W.PC_SMP (0x10#32 : Word) wRegisterAccess11 = false) := by
  decide +kernel


def wSequencerCommandsComplete0 : Device := { (has [(W.TRUSS_STATUS_ACTIVE_SRC, 0, 1), (W.LNK_STATUS_DISCIPLINED, 0, 1)] (up .boot)) with core := { bootReady := true } }
def wSequencerCommandsComplete1 : Device := has [(W.TRUSS_STATUS_ACTIVE_SRC, 0, 1)] (up .boot)
def wSequencerCommandsComplete2 : Device := { (has [(W.TRUSS_STATUS_ACTIVE_SRC, 0, 1)] (up .boot)) with seq := { t0 := some 0x123456789A } }
def wSequencerCommandsComplete3 : Device := has [(W.TRUSS_STATUS_ACTIVE_SRC, 0, 1), (W.MODE_CTRL_DESC_NEXT, 0, 2)] (up .descend)
def wSequencerCommandsComplete4 : Device := up .run
def wSequencerCommandsComplete5 : Device := has [(W.TRUSS_STATUS_ACTIVE_SRC, 0, 1)] (withRail 3 { above := true } (up .boot))
def wSequencerCommandsComplete6 : Device := withRail 31 { enabled := true } (up .ramp)
def wSequencerCommandsComplete8 : Device := up .descend
def wSequencerCommandsComplete9 : Device := { up .latched with seq := { retryWait := true } }
def wSequencerCommandsComplete10 : Device := up .service

/-- Blocks and operands that meet the premises of the clauses of `Obligations.SequencerCommandsComplete`, part 1 of 2. -/
theorem witness_SequencerCommandsComplete_part1 :
    (canonical wSequencerCommandsComplete0 = true ∧
      engineOn wSequencerCommandsComplete0 = true ∧
      (rq0 : Req).src ≠ .thatch ∧
      seqUpMode wSequencerCommandsComplete0 = true ∧
      flag wSequencerCommandsComplete0 W.MODE_STATUS_ADOPTING = false ∧
      stuckHigh wSequencerCommandsComplete0 = false ∧
      wSequencerCommandsComplete0.mode = .boot ∧
      wSequencerCommandsComplete0.seq.t0 = none ∧
      wSequencerCommandsComplete0.core.bootReady = true ∧
      alone wSequencerCommandsComplete0 = true ∧
      flag wSequencerCommandsComplete0 W.LNK_STATUS_DISCIPLINED = true) ∧
    (canonical wSequencerCommandsComplete1 = true ∧
      engineOn wSequencerCommandsComplete1 = true ∧
      (rq0 : Req).src ≠ .thatch ∧
      seqUpMode wSequencerCommandsComplete1 = true ∧
      flag wSequencerCommandsComplete1 W.MODE_STATUS_ADOPTING = false ∧
      stuckHigh wSequencerCommandsComplete1 = false ∧
      wSequencerCommandsComplete1.mode ≠ .descend ∧
      wSequencerCommandsComplete1.seq.t0 = none ∧
      ((wSequencerCommandsComplete1.mode = .latched ∨ wSequencerCommandsComplete1.core.bootReady = false ∨ alone
        wSequencerCommandsComplete1 = false ∨ flag wSequencerCommandsComplete1 W.LNK_STATUS_DISCIPLINED = false))) ∧
    (canonical wSequencerCommandsComplete2 = true ∧
      engineOn wSequencerCommandsComplete2 = true ∧
      (rq0 : Req).src ≠ .thatch ∧
      seqUpMode wSequencerCommandsComplete2 = true ∧
      flag wSequencerCommandsComplete2 W.MODE_STATUS_ADOPTING = false ∧
      stuckHigh wSequencerCommandsComplete2 = false ∧
      wSequencerCommandsComplete2.mode ≠ .descend ∧
      wSequencerCommandsComplete2.seq.t0 = some (0x123456789A : Nat)) ∧
    (canonical wSequencerCommandsComplete3 = true ∧
      engineOn wSequencerCommandsComplete3 = true ∧
      (rq0 : Req).src ≠ .thatch ∧
      seqUpMode wSequencerCommandsComplete3 = true ∧
      flag wSequencerCommandsComplete3 W.MODE_STATUS_ADOPTING = false ∧
      stuckHigh wSequencerCommandsComplete3 = false ∧
      wSequencerCommandsComplete3.mode = .descend) := by
  decide +kernel

/-- Blocks and operands that meet the premises of the clauses of `Obligations.SequencerCommandsComplete`, part 2 of 2. -/
theorem witness_SequencerCommandsComplete_part2 :
    (canonical wSequencerCommandsComplete4 = true ∧
      engineOn wSequencerCommandsComplete4 = true ∧
      (rq0 : Req).src ≠ .thatch ∧
      seqUpMode wSequencerCommandsComplete4 = false) ∧
    (canonical wSequencerCommandsComplete5 = true ∧
      engineOn wSequencerCommandsComplete5 = true ∧
      (rq0 : Req).src ≠ .thatch ∧
      seqUpMode wSequencerCommandsComplete5 = true ∧
      (flag wSequencerCommandsComplete5 W.MODE_STATUS_ADOPTING = true ∨ stuckHigh wSequencerCommandsComplete5 = true)) ∧
    (canonical wSequencerCommandsComplete6 = true ∧
      engineOn wSequencerCommandsComplete6 = true ∧
      (rq0 : Req).src ≠ .thatch ∧
      inMode wSequencerCommandsComplete6 [.ramp, .run, .ease, .holdup] = true ∧
      (rail wSequencerCommandsComplete6 (31 : Fin 32)).enabled = true ∧
      (rail wSequencerCommandsComplete6 (31 : Fin 32)).fallFail = false ∧
      ((rail wSequencerCommandsComplete6 (31 : Fin 32)).ph ≠ .rampDown ∨ (rail wSequencerCommandsComplete6 (31 : Fin
        32)).falling = true)) ∧
    (canonical wSequencerCommandsComplete4 = true ∧
      engineOn wSequencerCommandsComplete4 = true ∧
      (rq0 : Req).src ≠ .thatch ∧
      inMode wSequencerCommandsComplete4 [.ramp, .run, .ease, .holdup] = true ∧
      (List.range 32).all (fun n => !(rail wSequencerCommandsComplete4 n).enabled && !(rail wSequencerCommandsComplete4
        n).falling && !(rail wSequencerCommandsComplete4 n).waitBias && !(rail wSequencerCommandsComplete4 n).inDesc) = true) ∧
    (canonical wSequencerCommandsComplete8 = true ∧
      engineOn wSequencerCommandsComplete8 = true ∧
      (rq0 : Req).src ≠ .thatch ∧
      wSequencerCommandsComplete8.mode = .descend) ∧
    (canonical wSequencerCommandsComplete9 = true ∧
      engineOn wSequencerCommandsComplete9 = true ∧
      (rq0 : Req).src ≠ .thatch ∧
      wSequencerCommandsComplete9.mode = .latched ∧
      wSequencerCommandsComplete9.seq.retryWait = true) ∧
    (canonical wSequencerCommandsComplete10 = true ∧
      engineOn wSequencerCommandsComplete10 = true ∧
      (rq0 : Req).src ≠ .thatch ∧
      inMode wSequencerCommandsComplete10 [.boot, .latched, .service, .replay, .retain] = true ∧
      (wSequencerCommandsComplete10.mode ≠ .latched ∨ wSequencerCommandsComplete10.seq.retryWait = false)) := by
  decide +kernel


def wRailCommandsComplete0 : Device := withRail 17 {} (up .run)
def wRailCommandsComplete1 : Device := withRail 0 { enabled := true } (up .holdup)
def wRailCommandsComplete2 : Device := has [(W.SUP_STATUS_FAULT_LATCH, 31, 1)] (withRail 31 {} (up .run))
def wRailCommandsComplete3 : Device := has [(W.LNK_STATUS_DISCIPLINED, 0, 0)] { member 4 .run with seq := { configured := 0xFFFFFFFF } }
def wRailCommandsComplete4 : Device := setRstate 23 3 (withRail 23 { enabled := true } (up .ease))
def wRailCommandsComplete5 : Device := setRstate 24 3 (setArr (has [(W.SSO_STATUS_ASSERTED, 0, 15)] (withRail 24 { enabled := true } (up .run))) W.SSO_ASSOC_ASSOC 24 1)
def wRailCommandsComplete6 : Device := setRstate 0 3 (setRstate 31 3 (setW (has [(W.SEQ_SLOT_OFF_GATED, 0, 1)] (withRail 0 { enabled := true } (up .run))) W.SEQ_PRED 0x80000000#32))
def wRailCommandsComplete7 : Device := setRstate 11 6 (withRail 11 { enabled := true, falling := true, ph := .rampDown } (up .run))
def wRailCommandsComplete8 : Device := withRail 12 {} (up .run)
def wRailCommandsComplete9 : Device := setArr (has [(W.SSO_STATUS_ASSERTED, 0, 0)] (withRail 24 { enabled := true } (up .run))) W.SSO_ASSOC_ASSOC 24 1
def wRailCommandsComplete11 : Device := has [(W.CL_SLEW_SLEW, 0, 50), (W.SEQ_SLOT_ON_RAMP, 4, 100)] (withRail 4 { enabled := true } (up .run))
def wRailCommandsComplete12 : Device := up .run

/-- Blocks and operands that meet the premises of the clauses of `Obligations.RailCommandsComplete`, part 1 of 3. -/
theorem witness_RailCommandsComplete_part1 :
    (canonical wRailCommandsComplete0 = true ∧
      engineOn wRailCommandsComplete0 = true ∧
      (17 : Nat) = bitsOf (17#32 : Word) 4 0 ∧
      firstFail (railChecks (mkCmd (rq0 : Req) 0x22 [(17#32 : Word)] [] wRailCommandsComplete0) wRailCommandsComplete0 ++
        [(!flag wRailCommandsComplete0 W.SUP_STATUS_FAULT_LATCH (17 : Nat), .deniedMode), (!turningOff wRailCommandsComplete0
        (17 : Nat), .busy)]) = none ∧
      timeRefused wRailCommandsComplete0 = false ∧
      (rail wRailCommandsComplete0 (17 : Nat)).enabled = false) ∧
    (canonical wRailCommandsComplete1 = true ∧
      engineOn wRailCommandsComplete1 = true ∧
      (0 : Nat) = bitsOf (0#32 : Word) 4 0 ∧
      firstFail (railChecks (mkCmd (rq0 : Req) 0x22 [(0#32 : Word)] [] wRailCommandsComplete1) wRailCommandsComplete1 ++
        [(!flag wRailCommandsComplete1 W.SUP_STATUS_FAULT_LATCH (0 : Nat), .deniedMode), (!turningOff wRailCommandsComplete1
        (0 : Nat), .busy)]) = none ∧
      timeRefused wRailCommandsComplete1 = false ∧
      (rail wRailCommandsComplete1 (0 : Nat)).enabled = true) ∧
    (canonical wRailCommandsComplete2 = true ∧
      engineOn wRailCommandsComplete2 = true ∧
      (31 : Nat) = bitsOf (31#32 : Word) 4 0 ∧
      firstFail (railChecks (mkCmd (rq0 : Req) 0x22 [(31#32 : Word)] [] wRailCommandsComplete2) wRailCommandsComplete2 ++
        [(!flag wRailCommandsComplete2 W.SUP_STATUS_FAULT_LATCH (31 : Nat), .deniedMode), (!turningOff wRailCommandsComplete2
        (31 : Nat), .busy)]) = some (.deniedMode : Status)) ∧
    (canonical wRailCommandsComplete3 = true ∧
      engineOn wRailCommandsComplete3 = true ∧
      (31 : Nat) = bitsOf (31#32 : Word) 4 0 ∧
      firstFail (railChecks (mkCmd (rq0 : Req) 0x22 [(31#32 : Word)] [] wRailCommandsComplete3) wRailCommandsComplete3 ++
        [(!flag wRailCommandsComplete3 W.SUP_STATUS_FAULT_LATCH (31 : Nat), .deniedMode), (!turningOff wRailCommandsComplete3
        (31 : Nat), .busy)]) = none ∧
      timeRefused wRailCommandsComplete3 = true) ∧
    (canonical wRailCommandsComplete4 = true ∧
      engineOn wRailCommandsComplete4 = true ∧
      (23 : Nat) = bitsOf (23#32 : Word) 4 0 ∧
      firstFail (railChecks (mkCmd (rq0 : Req) 0x23 [(23#32 : Word)] [] wRailCommandsComplete4) wRailCommandsComplete4 ++
        [(railKind (23 : Nat) != .gb || ssoAsserted wRailCommandsComplete4 (23 : Nat), .deniedInterlock)]) = none ∧
      timeRefused wRailCommandsComplete4 = false ∧
      rstate wRailCommandsComplete4 (23 : Nat) ≠ 0 ∧
      turningOff wRailCommandsComplete4 (23 : Nat) = false ∧
      gateOpen wRailCommandsComplete4 (23 : Nat) = true ∧
      railKind (23 : Nat) ≠ .gb) := by
  decide +kernel

/-- Blocks and operands that meet the premises of the clauses of `Obligations.RailCommandsComplete`, part 2 of 3. -/
theorem witness_RailCommandsComplete_part2 :
    (canonical wRailCommandsComplete5 = true ∧
      engineOn wRailCommandsComplete5 = true ∧
      (24 : Nat) = bitsOf (24#32 : Word) 4 0 ∧
      firstFail (railChecks (mkCmd (rq0 : Req) 0x23 [(24#32 : Word)] [] wRailCommandsComplete5) wRailCommandsComplete5 ++
        [(railKind (24 : Nat) != .gb || ssoAsserted wRailCommandsComplete5 (24 : Nat), .deniedInterlock)]) = none ∧
      timeRefused wRailCommandsComplete5 = false ∧
      rstate wRailCommandsComplete5 (24 : Nat) ≠ 0 ∧
      turningOff wRailCommandsComplete5 (24 : Nat) = false ∧
      gateOpen wRailCommandsComplete5 (24 : Nat) = true ∧
      railKind (24 : Nat) = .gb) ∧
    (canonical wRailCommandsComplete6 = true ∧
      engineOn wRailCommandsComplete6 = true ∧
      (0 : Nat) = bitsOf (0#32 : Word) 4 0 ∧
      firstFail (railChecks (mkCmd (rq0 : Req) 0x23 [(0#32 : Word)] [] wRailCommandsComplete6) wRailCommandsComplete6 ++
        [(railKind (0 : Nat) != .gb || ssoAsserted wRailCommandsComplete6 (0 : Nat), .deniedInterlock)]) = none ∧
      timeRefused wRailCommandsComplete6 = false ∧
      rstate wRailCommandsComplete6 (0 : Nat) ≠ 0 ∧
      turningOff wRailCommandsComplete6 (0 : Nat) = false ∧
      gateOpen wRailCommandsComplete6 (0 : Nat) = false) ∧
    (canonical wRailCommandsComplete7 = true ∧
      engineOn wRailCommandsComplete7 = true ∧
      (11 : Nat) = bitsOf (11#32 : Word) 4 0 ∧
      firstFail (railChecks (mkCmd (rq0 : Req) 0x23 [(11#32 : Word)] [] wRailCommandsComplete7) wRailCommandsComplete7 ++
        [(railKind (11 : Nat) != .gb || ssoAsserted wRailCommandsComplete7 (11 : Nat), .deniedInterlock)]) = none ∧
      timeRefused wRailCommandsComplete7 = false ∧
      rstate wRailCommandsComplete7 (11 : Nat) ≠ 0 ∧
      turningOff wRailCommandsComplete7 (11 : Nat) = true) ∧
    (canonical wRailCommandsComplete8 = true ∧
      engineOn wRailCommandsComplete8 = true ∧
      (12 : Nat) = bitsOf (12#32 : Word) 4 0 ∧
      firstFail (railChecks (mkCmd (rq0 : Req) 0x23 [(12#32 : Word)] [] wRailCommandsComplete8) wRailCommandsComplete8 ++
        [(railKind (12 : Nat) != .gb || ssoAsserted wRailCommandsComplete8 (12 : Nat), .deniedInterlock)]) = none ∧
      timeRefused wRailCommandsComplete8 = false ∧
      rstate wRailCommandsComplete8 (12 : Nat) = 0) ∧
    (canonical wRailCommandsComplete9 = true ∧
      engineOn wRailCommandsComplete9 = true ∧
      (24 : Nat) = bitsOf (24#32 : Word) 4 0 ∧
      firstFail (railChecks (mkCmd (rq0 : Req) 0x23 [(24#32 : Word)] [] wRailCommandsComplete9) wRailCommandsComplete9 ++
        [(railKind (24 : Nat) != .gb || ssoAsserted wRailCommandsComplete9 (24 : Nat), .deniedInterlock)]) = some
        (.deniedInterlock : Status)) := by
  decide +kernel

/-- Blocks and operands that meet the premises of the clauses of `Obligations.RailCommandsComplete`, part 3 of 3. -/
theorem witness_RailCommandsComplete_part3 :
    (canonical wRailCommandsComplete3 = true ∧
      engineOn wRailCommandsComplete3 = true ∧
      (23 : Nat) = bitsOf (23#32 : Word) 4 0 ∧
      firstFail (railChecks (mkCmd (rq0 : Req) 0x23 [(23#32 : Word)] [] wRailCommandsComplete3) wRailCommandsComplete3 ++
        [(railKind (23 : Nat) != .gb || ssoAsserted wRailCommandsComplete3 (23 : Nat), .deniedInterlock)]) = none ∧
      timeRefused wRailCommandsComplete3 = true) ∧
    (canonical wRailCommandsComplete11 = true ∧
      engineOn wRailCommandsComplete11 = true ∧
      (4 : Nat) = bitsOf (0x00040514#32 : Word) 20 16 ∧
      (260 : Nat) = bitsOf (0x00040514#32 : Word) 15 0 * 10 / vStep (4 : Nat) ∧
      firstFail (setVChecks (mkCmd (rq0 : Req) 0x24 [(0x00040514#32 : Word)] [] wRailCommandsComplete11) (begun
        wRailCommandsComplete11)) = none) ∧
    (canonical wRailCommandsComplete12 = true ∧
      engineOn wRailCommandsComplete12 = true ∧
      firstFail (setVChecks (mkCmd (rq0 : Req) 0x24 [(0x00180514#32 : Word)] [] wRailCommandsComplete12) (begun
        wRailCommandsComplete12)) = some (.badParam : Status)) := by
  decide +kernel


def wPowerUpEventsComplete0 : Device := has [(W.LNK_STATUS_DISCIPLINED, 0, 1), (W.SEQ_SLOT_ON_IN_SEQ, 31, 1)] { withRail 31 {} (up .boot) with seq := { configured := 0xFFFFFFFF, t0 := some 20000 } }
def wPowerUpEventsComplete1 : Device := has [(W.LNK_STATUS_DISCIPLINED, 0, 1)] { up .boot with seq := { t0 := some 7 } }
def wPowerUpEventsComplete2 : Device := has [(W.SEQ_STATUS_SEQ_STATE, 0, 1)] { up .service with seq := { t0 := some 7, svcUp := true } }
def wPowerUpEventsComplete3 : Device := setRstate 31 1 (has [(W.SEQ_STATUS_SEQ_STATE, 0, 2), (W.SEQ_SLOT_ON_ON_DLY, 31, 65535)] { up .ramp with seq := { t0 := some 5, slip := 9 } })
def wPowerUpEventsComplete4 : Device := withRail 23 { enabled := true, ph := .rampUp, ref := { dst := 9000, dur := 1000 } } (up .ramp)
def wPowerUpEventsComplete5 : Device := withRail 0 { enabled := true, ph := .rampDown, falling := true, ref := { frm := 9000, dur := 1000 } } (up .descend)
def wPowerUpEventsComplete6 : Device := withRail 11 { enabled := true, ph := .move, ref := { frm := 9000, dst := 9500, dur := 1000 } } (up .run)
def wPowerUpEventsComplete7 : Device := has [(W.GB_RSTATUS_SWITCHING, 7, 1)] (withRail 31 { enabled := true } (up .ramp))
def wPowerUpEventsComplete8 : Device := setRstate 5 2 (has [(W.SEQ_STATUS_SEQ_STATE, 0, 2), (W.SEQ_SLOT_ON_IN_SEQ, 5, 1)] (withRail 5 { enabled := true } (up .ramp)))
def wPowerUpEventsComplete9 : Device := busyWith (withRail 17 { enabled := true } (up .run)) { cmd0 with op := 0x22, params := [17#32] }
def wPowerUpEventsComplete10 : Device := { up .boot with seq := { t0 := some 7 } }
def wPowerUpEventsComplete11 : Device := setRstate 31 1 (has [(W.SEQ_STATUS_SEQ_STATE, 0, 2)] { up .ramp with seq := { t0 := some 5, holdFrom := some 9 } })
def wPowerUpEventsComplete12 : Device := withRail 23 { enabled := true } (up .run)
def wPowerUpEventsComplete15 : Device := withRail 18 { enabled := true } (up .run)

/-- Blocks and operands that meet the premises of the clauses of `Obligations.PowerUpEventsComplete`, part 1 of 2. -/
theorem witness_PowerUpEventsComplete_part1 :
    (canonical wPowerUpEventsComplete0 = true ∧
      wPowerUpEventsComplete0.seq.t0 = some (20000 : Nat) ∧
      ((wPowerUpEventsComplete0.mode = .boot ∨ (wPowerUpEventsComplete0.mode = .ramp ∧ fld wPowerUpEventsComplete0
        W.SEQ_STATUS_SEQ_STATE = 1))) ∧
      flag wPowerUpEventsComplete0 W.LNK_STATUS_DISCIPLINED = true ∧
      (((List.range 32).any (fun n => configured wPowerUpEventsComplete0 n && inSeq wPowerUpEventsComplete0 n && !(rail
        wPowerUpEventsComplete0 n).pg && !(rail wPowerUpEventsComplete0 n).enabled) = true ∨
        wPowerUpEventsComplete0.seq.holdFrom.isSome = true))) ∧
    (canonical wPowerUpEventsComplete1 = true ∧
      wPowerUpEventsComplete1.seq.t0 = some (7 : Nat) ∧
      ((wPowerUpEventsComplete1.mode = .boot ∨ (wPowerUpEventsComplete1.mode = .ramp ∧ fld wPowerUpEventsComplete1
        W.SEQ_STATUS_SEQ_STATE = 1))) ∧
      flag wPowerUpEventsComplete1 W.LNK_STATUS_DISCIPLINED = true ∧
      (List.range 32).any (fun n => configured wPowerUpEventsComplete1 n && inSeq wPowerUpEventsComplete1 n && !(rail
        wPowerUpEventsComplete1 n).pg && !(rail wPowerUpEventsComplete1 n).enabled) = false ∧
      wPowerUpEventsComplete1.seq.holdFrom = none) ∧
    (canonical wPowerUpEventsComplete2 = true ∧
      wPowerUpEventsComplete2.seq.t0 = some (7 : Nat) ∧
      wPowerUpEventsComplete2.mode = .service ∧
      wPowerUpEventsComplete2.seq.svcUp = true ∧
      fld wPowerUpEventsComplete2 W.SEQ_STATUS_SEQ_STATE = 1) ∧
    (canonical wPowerUpEventsComplete3 = true ∧
      wPowerUpEventsComplete3.seq.t0 = some (5 : Nat) ∧
      rstate wPowerUpEventsComplete3 (31#5 : BitVec 5).toNat = 1 ∧
      fld wPowerUpEventsComplete3 W.SEQ_STATUS_SEQ_STATE = 2 ∧
      wPowerUpEventsComplete3.seq.holdFrom = none) ∧
    (canonical wPowerUpEventsComplete4 = true ∧
      (rail wPowerUpEventsComplete4 (23#5 : BitVec 5).toNat).ph = .rampUp ∧
      railKind (23#5 : BitVec 5).toNat ≠ .gb ∧
      wPowerUpEventsComplete4.seq.holdFrom = none) ∧
    (canonical wPowerUpEventsComplete5 = true ∧
      (rail wPowerUpEventsComplete5 (0#5 : BitVec 5).toNat).ph = .rampDown ∧
      railKind (0#5 : BitVec 5).toNat ≠ .gb) ∧
    (canonical wPowerUpEventsComplete6 = true ∧
      (rail wPowerUpEventsComplete6 (11#5 : BitVec 5).toNat).ph = .move) ∧
    (canonical wPowerUpEventsComplete7 = true ∧
      pgReady wPowerUpEventsComplete7 (31#5 : BitVec 5).toNat = true ∧
      (railKind (31#5 : BitVec 5).toNat ≠ .ld ∨ (false : Bool) = true)) := by
  decide +kernel

/-- Blocks and operands that meet the premises of the clauses of `Obligations.PowerUpEventsComplete`, part 2 of 2. -/
theorem witness_PowerUpEventsComplete_part2 :
    (canonical wPowerUpEventsComplete8 = true ∧
      (0x20#32 : Word).toNat.testBit (5 : Fin 32) = true ∧
      (riseFailing wPowerUpEventsComplete8 (5 : Fin 32) || riseCut wPowerUpEventsComplete8 (5 : Fin 32)) = true ∧
      (List.range 32).all (fun k => !((0x20#32 : Word).toNat.testBit k && (riseFailing wPowerUpEventsComplete8 k || riseCut
        wPowerUpEventsComplete8 k)) || riseLimit wPowerUpEventsComplete8 (5 : Fin 32) ≤ riseLimit wPowerUpEventsComplete8 k)
        = true) ∧
    (canonical wPowerUpEventsComplete9 = true ∧
      (running wPowerUpEventsComplete9 0x22).any (fun c => railOf c == (17#5 : BitVec 5).toNat) = true ∧
      (rail wPowerUpEventsComplete9 (17#5 : BitVec 5).toNat).enabled = true ∧
      (rail wPowerUpEventsComplete9 (17#5 : BitVec 5).toNat).pg = false) ∧
    (canonical wPowerUpEventsComplete10 = true ∧
      (wPowerUpEventsComplete10.seq.t0.isSome && (((wPowerUpEventsComplete10.mode = .boot || (wPowerUpEventsComplete10.mode =
        .ramp && fld wPowerUpEventsComplete10 W.SEQ_STATUS_SEQ_STATE = 1)) && flag wPowerUpEventsComplete10
        W.LNK_STATUS_DISCIPLINED) || (wPowerUpEventsComplete10.mode = .service && wPowerUpEventsComplete10.seq.svcUp && fld
        wPowerUpEventsComplete10 W.SEQ_STATUS_SEQ_STATE = 1))) = false) ∧
    (canonical wPowerUpEventsComplete11 = true ∧
      (wPowerUpEventsComplete11.seq.t0.isSome && rstate wPowerUpEventsComplete11 (31#5 : BitVec 5).toNat = 1 && fld
        wPowerUpEventsComplete11 W.SEQ_STATUS_SEQ_STATE = 2 && wPowerUpEventsComplete11.seq.holdFrom.isNone) = false) ∧
    (canonical wPowerUpEventsComplete12 = true ∧
      (((rail wPowerUpEventsComplete12 (23#5 : BitVec 5).toNat).ph ≠ .rampUp ∨ railKind (23#5 : BitVec 5).toNat = .gb ∨
        wPowerUpEventsComplete12.seq.holdFrom ≠ none))) ∧
    (canonical wPowerUpEventsComplete12 = true ∧
      (((rail wPowerUpEventsComplete12 (23#5 : BitVec 5).toNat).ph ≠ .rampDown ∨ railKind (23#5 : BitVec 5).toNat = .gb))) ∧
    (canonical wPowerUpEventsComplete12 = true ∧
      (rail wPowerUpEventsComplete12 (23#5 : BitVec 5).toNat).ph ≠ .move) ∧
    (canonical wPowerUpEventsComplete15 = true ∧
      ((pgReady wPowerUpEventsComplete15 (18#5 : BitVec 5).toNat = false ∨ (railKind (18#5 : BitVec 5).toNat = .ld ∧ (false :
        Bool) = false)))) ∧
    (canonical wPowerUpEventsComplete15 = true ∧
      (List.range 32).all (fun n => !((0xFFFFFFFF#32 : Word).toNat.testBit n && (riseFailing wPowerUpEventsComplete15 n ||
        riseCut wPowerUpEventsComplete15 n))) = true) ∧
    (canonical wPowerUpEventsComplete15 = true ∧
      ((running wPowerUpEventsComplete15 0x22).any (fun c => railOf c == (18#5 : BitVec 5).toNat) && (rail
        wPowerUpEventsComplete15 (18#5 : BitVec 5).toNat).enabled && !(rail wPowerUpEventsComplete15 (18#5 : BitVec
        5).toNat).pg) = false) := by
  decide +kernel


def wPowerDownEventsComplete0 : Device := setRstate 0 4 (has [(W.SEQ_SLOT_OFF_OFF_DLY, 0, 65535)] { withRail 0 { enabled := true } (up .descend) with seq := { desc := some { kind := .orderly, tD := 5 } } })
def wPowerDownEventsComplete1 : Device := setRstate 0 4 (setRstate 31 3 (setW (has [(W.SEQ_SLOT_OFF_GATED, 0, 1)] { withRail 31 { enabled := true } (up .descend) with seq := { configured := 0xFFFFFFFF, desc := some { kind := .orderly, tD := 5 } } }) W.SEQ_PRED 0x80000000#32))
def wPowerDownEventsComplete2 : Device := setRstate 0 5 (setRstate 31 3 (setW (has [(W.SEQ_SLOT_OFF_GATED, 0, 1)] { withRail 31 { enabled := true } (up .descend) with seq := { configured := 0xFFFFFFFF } }) W.SEQ_PRED 0x80000000#32))
def wPowerDownEventsComplete3 : Device := setRstate 23 6 (withRail 23 { falling := true, inDesc := true } (up .descend))
def wPowerDownEventsComplete4 : Device := withRail 12 { above := true, fallFail := true } (up .latched)
def wPowerDownEventsComplete5 : Device := setRstate 5 6 (withRail 5 { falling := true, inDesc := true } (up .descend))
def wPowerDownEventsComplete6 : Device := setRstate 12 7 (withRail 12 { falling := true, forced := true, fallFail := true, inDesc := true } (up .descend))
def wPowerDownEventsComplete7 : Device := has [(W.MODE_STATUS_LATCH_HELD, 0, 1), (W.MODE_STATUS_LATCH_CAUSE, 0, 1), (W.SEQ_STATUS_RETRY_CNT, 0, 6)] { up .latched with seq := { retryWait := true } }
def wPowerDownEventsComplete8 : Device := has [(W.SEQ_STATUS_RETRY_CNT, 0, 7)] (up .ease)
def wPowerDownEventsComplete9 : Device := has [(W.SEQ_STATUS_SEQ_STATE, 0, 6), (W.SEQ_CTRL_T_REST, 0, 255)] { up .boot with seq := { lastFall := some 7 } }
def wPowerDownEventsComplete10 : Device := setW (withRail 31 { pg := true } (up .run)) (W.PGOOD_MASK + 3) 0x80000000#32
def wPowerDownEventsComplete11 : Device := has [(W.SSO_STATUS_ASSERTED, 0, 15), (W.SSO_STATUS_BY_REFLEX, 0, 15), (W.SSO_CTRL_HOST_HOLD, 0, 0)] (up .run)
def wPowerDownEventsComplete12 : Device := has [(W.SSO_STATUS_ASSERTED, 0, 8)] (up .run)
def wPowerDownEventsComplete13 : Device := setArr (has [(W.SSO_STATUS_ASSERTED, 0, 15)] (withRail 31 { enabled := true, waitBias := true } (up .run))) W.SSO_ASSOC_ASSOC 31 9
def wPowerDownEventsComplete14 : Device := setRstate 0 4 (up .run)
def wPowerDownEventsComplete15 : Device := setRstate 0 5 (up .run)
def wPowerDownEventsComplete16 : Device := withRail 12 { fallFail := true } (up .latched)
def wPowerDownEventsComplete17 : Device := up .run
def wPowerDownEventsComplete19 : Device := withRail 3 { above := true } { up .latched with seq := { retryWait := true } }
def wPowerDownEventsComplete20 : Device := has [(W.SEQ_STATUS_RETRY_CNT, 0, 7)] (up .holdup)
def wPowerDownEventsComplete21 : Device := has [(W.SEQ_STATUS_SEQ_STATE, 0, 6)] (up .boot)
def wPowerDownEventsComplete23 : Device := up .boot
def wPowerDownEventsComplete24 : Device := has [(W.SSO_STATUS_ASSERTED, 0, 7)] (up .run)

/-- Blocks and operands that meet the premises of the clauses of `Obligations.PowerDownEventsComplete`, part 1 of 2. -/
theorem witness_PowerDownEventsComplete_part1 :
    (canonical wPowerDownEventsComplete0 = true ∧
      wPowerDownEventsComplete0.seq.desc = some ({ kind := .orderly, tD := 5 } : Descent) ∧
      ({ kind := .orderly, tD := 5 } : Descent).kind ≠ .fault ∧
      rstate wPowerDownEventsComplete0 (0#5 : BitVec 5).toNat = 4 ∧
      gateOpen wPowerDownEventsComplete0 (0#5 : BitVec 5).toNat = true) ∧
    (canonical wPowerDownEventsComplete1 = true ∧
      wPowerDownEventsComplete1.seq.desc = some ({ kind := .orderly, tD := 5 } : Descent) ∧
      ({ kind := .orderly, tD := 5 } : Descent).kind ≠ .fault ∧
      rstate wPowerDownEventsComplete1 (0#5 : BitVec 5).toNat = 4 ∧
      gateOpen wPowerDownEventsComplete1 (0#5 : BitVec 5).toNat = false) ∧
    (canonical wPowerDownEventsComplete2 = true ∧
      rstate wPowerDownEventsComplete2 (0#5 : BitVec 5).toNat = 5 ∧
      gateOpen wPowerDownEventsComplete2 (0#5 : BitVec 5).toNat = false) ∧
    (canonical wPowerDownEventsComplete3 = true ∧
      (rail wPowerDownEventsComplete3 (23#5 : BitVec 5).toNat).falling = true ∧
      gbTimed wPowerDownEventsComplete3 (23#5 : BitVec 5).toNat = false) ∧
    (canonical wPowerDownEventsComplete4 = true ∧
      (((rail wPowerDownEventsComplete4 (12#5 : BitVec 5).toNat).falling = false ∨ gbTimed wPowerDownEventsComplete4 (12#5 :
        BitVec 5).toNat = true)) ∧
      (rail wPowerDownEventsComplete4 (12#5 : BitVec 5).toNat).above = true) ∧
    (canonical wPowerDownEventsComplete5 = true ∧
      (rail wPowerDownEventsComplete5 (5#5 : BitVec 5).toNat).falling = true ∧
      (rail wPowerDownEventsComplete5 (5#5 : BitVec 5).toNat).fallFail = false ∧
      (((rail wPowerDownEventsComplete5 (5#5 : BitVec 5).toNat).inDesc = true ∨ (rail wPowerDownEventsComplete5 (5#5 : BitVec
        5).toNat).gated = false)) ∧
      beforeStep wPowerDownEventsComplete5 (5#5 : BitVec 5).toNat = false) ∧
    (canonical wPowerDownEventsComplete6 = true ∧
      (rail wPowerDownEventsComplete6 (12#5 : BitVec 5).toNat).forced = true) ∧
    (canonical wPowerDownEventsComplete7 = true ∧
      wPowerDownEventsComplete7.mode = .latched ∧
      wPowerDownEventsComplete7.seq.retryWait = true ∧
      stuckHigh wPowerDownEventsComplete7 = false) ∧
    (canonical wPowerDownEventsComplete8 = true ∧
      inMode wPowerDownEventsComplete8 [.run, .ease] = true) ∧
    (canonical wPowerDownEventsComplete9 = true ∧
      wPowerDownEventsComplete9.seq.lastFall = some (7 : Nat)) ∧
    (canonical wPowerDownEventsComplete10 = true ∧
      pgoodMet wPowerDownEventsComplete10 (3#2 : BitVec 2).toNat = true) := by
  decide +kernel

/-- Blocks and operands that meet the premises of the clauses of `Obligations.PowerDownEventsComplete`, part 2 of 2. -/
theorem witness_PowerDownEventsComplete_part2 :
    (canonical wPowerDownEventsComplete11 = true ∧
      (fld wPowerDownEventsComplete11 W.SSO_STATUS_ASSERTED).testBit (3#2 : BitVec 2).toNat = true ∧
      ssoMayRelease wPowerDownEventsComplete11 (3#2 : BitVec 2).toNat = true) ∧
    (canonical wPowerDownEventsComplete12 = true ∧
      (fld wPowerDownEventsComplete12 W.SSO_STATUS_ASSERTED).testBit (3#2 : BitVec 2).toNat = true) ∧
    (canonical wPowerDownEventsComplete13 = true ∧
      (rail wPowerDownEventsComplete13 (31#5 : BitVec 5).toNat).waitBias = true ∧
      ssoAsserted wPowerDownEventsComplete13 (31#5 : BitVec 5).toNat = true ∧
      assoc wPowerDownEventsComplete13 (31#5 : BitVec 5).toNat &&& ((9#4 : BitVec 4).toNat ||| fld wPowerDownEventsComplete13
        W.SSO_STATUS_FAULT) = assoc wPowerDownEventsComplete13 (31#5 : BitVec 5).toNat) ∧
    (canonical wPowerDownEventsComplete14 = true ∧
      (wPowerDownEventsComplete14.seq.desc.any (fun x => x.kind != .fault) && rstate wPowerDownEventsComplete14 (0#5 : BitVec
        5).toNat = 4) = false) ∧
    (canonical wPowerDownEventsComplete15 = true ∧
      ((rstate wPowerDownEventsComplete15 (0#5 : BitVec 5).toNat ≠ 5 ∨ gateOpen wPowerDownEventsComplete15 (0#5 : BitVec
        5).toNat = true))) ∧
    (canonical wPowerDownEventsComplete16 = true ∧
      (((rail wPowerDownEventsComplete16 (12#5 : BitVec 5).toNat).falling = false ∨ gbTimed wPowerDownEventsComplete16 (12#5
        : BitVec 5).toNat = true)) ∧
      (rail wPowerDownEventsComplete16 (12#5 : BitVec 5).toNat).above = false) ∧
    (canonical wPowerDownEventsComplete17 = true ∧
      ((rail wPowerDownEventsComplete17 (0#5 : BitVec 5).toNat).falling && !(rail wPowerDownEventsComplete17 (0#5 : BitVec
        5).toNat).fallFail && ((rail wPowerDownEventsComplete17 (0#5 : BitVec 5).toNat).inDesc || !(rail
        wPowerDownEventsComplete17 (0#5 : BitVec 5).toNat).gated) && !beforeStep wPowerDownEventsComplete17 (0#5 : BitVec
        5).toNat) = false) ∧
    (canonical wPowerDownEventsComplete17 = true ∧
      (rail wPowerDownEventsComplete17 (0#5 : BitVec 5).toNat).forced = false) ∧
    (canonical wPowerDownEventsComplete19 = true ∧
      ((wPowerDownEventsComplete19.mode ≠ .latched ∨ wPowerDownEventsComplete19.seq.retryWait = false ∨ stuckHigh
        wPowerDownEventsComplete19 = true))) ∧
    (canonical wPowerDownEventsComplete20 = true ∧
      inMode wPowerDownEventsComplete20 [.run, .ease] = false) ∧
    (canonical wPowerDownEventsComplete21 = true ∧
      wPowerDownEventsComplete21.seq.lastFall = none) ∧
    (canonical wPowerDownEventsComplete17 = true ∧
      pgoodMet wPowerDownEventsComplete17 (3#2 : BitVec 2).toNat = false) ∧
    (canonical wPowerDownEventsComplete23 = true ∧
      ((fld wPowerDownEventsComplete23 W.SSO_STATUS_ASSERTED).testBit (3#2 : BitVec 2).toNat && ssoMayRelease
        wPowerDownEventsComplete23 (3#2 : BitVec 2).toNat) = false) ∧
    (canonical wPowerDownEventsComplete24 = true ∧
      (fld wPowerDownEventsComplete24 W.SSO_STATUS_ASSERTED).testBit (3#2 : BitVec 2).toNat = false) ∧
    (canonical wPowerDownEventsComplete13 = true ∧
      ((rail wPowerDownEventsComplete13 (31#5 : BitVec 5).toNat).waitBias && ssoAsserted wPowerDownEventsComplete13 (31#5 :
        BitVec 5).toNat && (assoc wPowerDownEventsComplete13 (31#5 : BitVec 5).toNat &&& ((8#4 : BitVec 4).toNat ||| fld
        wPowerDownEventsComplete13 W.SSO_STATUS_FAULT) = assoc wPowerDownEventsComplete13 (31#5 : BitVec 5).toNat)) = false) := by
  decide +kernel


def wRegulatorEventsComplete0 : Device := has [(W.HC_CFG_GANG, 2, 1), (W.HC_STATUS_PH_MASK, 2, 12)] (withRail 2 { enabled := true } (up .run))
def wRegulatorEventsComplete1 : Device := has [(W.HC_STATUS_PH_MASK, 3, 8)] (withRail 3 { enabled := true } (up .run))
def wRegulatorEventsComplete2 : Device := has [(W.SYNC_CFG_SYNC_EN, 0, 1)] (withRail 17 {} (up .run))
def wRegulatorEventsComplete4 : Device := has [(W.SYNC_STATUS_SYNC_VALID, 0, 1), (W.HC_STATUS_SYNC_LOCKED, 3, 1), (W.SB_RSTATUS_SYNC_RANGE, 5, 1)] (up .run)
def wRegulatorEventsComplete5 : Device := up .run
def wRegulatorEventsComplete6 : Device := has [(W.SYNC_STATUS_SYNC_VALID, 0, 1), (W.SYNC_STATUS_PERIOD, 0, 91)] (withRail 17 { enabled := true } (up .run))
def wRegulatorEventsComplete7 : Device := has [(W.SYNC_STATUS_SYNC_VALID, 0, 1), (W.SYNC_STATUS_PERIOD, 0, 40)] (withRail 11 { enabled := true } (up .run))
def wRegulatorEventsComplete9 : Device := { withRail 3 { enabled := true } (up .run) with core := { relock := 15 } }
def wRegulatorEventsComplete11 : Device := has [(W.HC_BRAKE_BRAKE_EN, 3, 1)] (withRail 3 { enabled := true } (up .run))
def wRegulatorEventsComplete12 : Device := withRail 3 { enabled := true, ph := .rampDown } (up .run)
def wRegulatorEventsComplete13 : Device := has [(W.HC_STATUS_BRAKING, 0, 1)] (up .run)

/-- Blocks and operands that meet the premises of the clauses of `Obligations.RegulatorEventsComplete`, part 1 of 2. -/
theorem witness_RegulatorEventsComplete_part1 :
    (canonical wRegulatorEventsComplete0 = true ∧
      hcLeader wRegulatorEventsComplete0 (3#2 : BitVec 2).toNat = (2 : Fin 4) ∧
      (fld wRegulatorEventsComplete0 W.HC_STATUS_PH_MASK (2 : Fin 4)).testBit (3#2 : BitVec 2).toNat = true ∧
      (6#3 : BitVec 3) ≠ 0#3 ∧
      (6#3 : BitVec 3) ≠ 7#3 ∧
      (4 : Nat) = setBitNat (fld wRegulatorEventsComplete0 W.HC_STATUS_PH_MASK (2 : Fin 4)) (3#2 : BitVec 2).toNat false ∧
      (((6#3 : BitVec 3) ≠ 1#3 ∨ (4 : Nat) ≠ 0))) ∧
    (canonical wRegulatorEventsComplete1 = true ∧
      hcLeader wRegulatorEventsComplete1 (3#2 : BitVec 2).toNat = (3 : Fin 4) ∧
      (((fld wRegulatorEventsComplete1 W.HC_STATUS_PH_MASK (3 : Fin 4)).testBit (3#2 : BitVec 2).toNat = false ∨ (1#3 :
        BitVec 3) = 0#3 ∨ (1#3 : BitVec 3) = 7#3 ∨ ((1#3 : BitVec 3) = 1#3 ∧ setBitNat (fld wRegulatorEventsComplete1
        W.HC_STATUS_PH_MASK (3 : Fin 4)) (3#2 : BitVec 2).toNat false = 0)))) ∧
    (canonical wRegulatorEventsComplete2 = true ∧
      flag wRegulatorEventsComplete2 W.SYNC_CFG_SYNC_EN = true ∧
      flag wRegulatorEventsComplete2 W.SYNC_STATUS_SYNC_VALID = false ∧
      syncGood (([181#16, 182#16, 182#16, 181#16] : List (BitVec 16)).map (·.toNat)) = true ∧
      (181 : Nat) = (([181#16, 182#16, 182#16, 181#16] : List (BitVec 16)).map (·.toNat)).getLastD 0) ∧
    (canonical wRegulatorEventsComplete2 = true ∧
      ((flag wRegulatorEventsComplete2 W.SYNC_CFG_SYNC_EN = false ∨ flag wRegulatorEventsComplete2 W.SYNC_STATUS_SYNC_VALID =
        true ∨ syncGood (([181#16, 182#16, 182#16, 184#16] : List (BitVec 16)).map (·.toNat)) = false))) ∧
    (canonical wRegulatorEventsComplete4 = true ∧
      flag wRegulatorEventsComplete4 W.SYNC_STATUS_SYNC_VALID = true) ∧
    (canonical wRegulatorEventsComplete5 = true ∧
      flag wRegulatorEventsComplete5 W.SYNC_STATUS_SYNC_VALID = false) ∧
    (canonical wRegulatorEventsComplete6 = true ∧
      flag wRegulatorEventsComplete6 W.SYNC_STATUS_SYNC_VALID = true ∧
      (17#5 : BitVec 5).toNat < 18 ∧
      (rail wRegulatorEventsComplete6 (17#5 : BitVec 5).toNat).enabled = true ∧
      inLockRange wRegulatorEventsComplete6 (17#5 : BitVec 5).toNat (fld wRegulatorEventsComplete6 W.SYNC_STATUS_PERIOD) =
        true) ∧
    (canonical wRegulatorEventsComplete7 = true ∧
      flag wRegulatorEventsComplete7 W.SYNC_STATUS_SYNC_VALID = true ∧
      (11#5 : BitVec 5).toNat < 18 ∧
      (rail wRegulatorEventsComplete7 (11#5 : BitVec 5).toNat).enabled = true ∧
      inLockRange wRegulatorEventsComplete7 (11#5 : BitVec 5).toNat (fld wRegulatorEventsComplete7 W.SYNC_STATUS_PERIOD) =
        false) ∧
    (canonical wRegulatorEventsComplete5 = true ∧
      ((flag wRegulatorEventsComplete5 W.SYNC_STATUS_SYNC_VALID = false ∨ 18 ≤ (11#5 : BitVec 5).toNat ∨ (rail
        wRegulatorEventsComplete5 (11#5 : BitVec 5).toNat).enabled = false))) := by
  decide +kernel

/-- Blocks and operands that meet the premises of the clauses of `Obligations.RegulatorEventsComplete`, part 2 of 2. -/
theorem witness_RegulatorEventsComplete_part2 :
    (canonical wRegulatorEventsComplete9 = true ∧
      wRegulatorEventsComplete9.core.relock.testBit (3#5 : BitVec 5).toNat = true ∧
      (rail wRegulatorEventsComplete9 (3#5 : BitVec 5).toNat).enabled = true) ∧
    (canonical wRegulatorEventsComplete5 = true ∧
      ((wRegulatorEventsComplete5.core.relock.testBit (3#5 : BitVec 5).toNat = false ∨ (rail wRegulatorEventsComplete5 (3#5 :
        BitVec 5).toNat).enabled = false))) ∧
    (canonical wRegulatorEventsComplete11 = true ∧
      brakeEn wRegulatorEventsComplete11 (3#5 : BitVec 5).toNat = true ∧
      (rail wRegulatorEventsComplete11 (3#5 : BitVec 5).toNat).enabled = true ∧
      (rail wRegulatorEventsComplete11 (3#5 : BitVec 5).toNat).ph ≠ .rampUp ∧
      refFalling wRegulatorEventsComplete11 (3#5 : BitVec 5).toNat = false ∧
      braking wRegulatorEventsComplete11 (3#5 : BitVec 5).toNat = false ∧
      (true : Bool) = true) ∧
    (canonical wRegulatorEventsComplete12 = true ∧
      ((brakeEn wRegulatorEventsComplete12 (3#5 : BitVec 5).toNat = false ∨ (rail wRegulatorEventsComplete12 (3#5 : BitVec
        5).toNat).enabled = false ∨ (rail wRegulatorEventsComplete12 (3#5 : BitVec 5).toNat).ph = .rampUp ∨ refFalling
        wRegulatorEventsComplete12 (3#5 : BitVec 5).toNat = true ∨ braking wRegulatorEventsComplete12 (3#5 : BitVec 5).toNat
        = true ∨ (true : Bool) = false))) ∧
    (canonical wRegulatorEventsComplete13 = true) := by
  decide +kernel


def wGateBiasEventsComplete0 : Device := has [(W.SUP_ACT_OC_ACT, 31, 1)] (setArr (withRail 31 { enabled := true, pg := true } (up .run)) W.SSO_ASSOC_ASSOC 31 9)
def wGateBiasEventsComplete1 : Device := up .run
def wGateBiasEventsComplete2 : Device := has [(W.GB_ILIM_ILO, 7, 5), (W.GB_RSTATUS_SWITCHING, 7, 1)] (withRail 31 { enabled := true } (up .run))
def wGateBiasEventsComplete3 : Device := has [(W.GB_RSTATUS_OPEN, 7, 1)] (withRail 31 { enabled := true } (up .run))
def wGateBiasEventsComplete4 : Device := has [(W.GB_ILIM_ILO, 7, 5)] (withRail 31 { enabled := true } (up .run))
def wGateBiasEventsComplete5 : Device := has [(W.GB_RSTATUS_SWITCHING, 7, 1), (W.SSO_STATUS_ASSERTED, 0, 0)] (setArr (withRail 31 { enabled := true } (up .run)) W.SSO_ASSOC_ASSOC 31 9)
def wGateBiasEventsComplete6 : Device := { withRail 24 { enabled := true } (up .run) with core := { gbLock := 3 } }
def wGateBiasEventsComplete8 : Device := { withRail 24 { enabled := true, falling := true } (up .run) with core := { gbLock := 3 } }
def wGateBiasEventsComplete9 : Device := withRail 31 { enabled := true, ph := .rampUp, ref := { dst := 9000, dur := 1000 } } (up .run)
def wGateBiasEventsComplete10 : Device := withRail 24 { enabled := true, ph := .rampDown, ref := { frm := 9000, dur := 1000 } } (up .descend)
def wGateBiasEventsComplete11 : Device := { withRail 24 { enabled := true, ph := .rampUp } (up .run) with core := { gbLock := 3 } }
def wGateBiasEventsComplete12 : Device := setRstate 31 6 (withRail 31 { falling := true, inDesc := true } (up .descend))

/-- Blocks and operands that meet the premises of the clauses of `Obligations.GateBiasEventsComplete`, part 1 of 2. -/
theorem witness_GateBiasEventsComplete_part1 :
    (canonical wGateBiasEventsComplete0 = true ∧
      (31 : Nat) = 24 + (7#3 : BitVec 3).toNat ∧
      (rail wGateBiasEventsComplete0 (31 : Nat)).enabled = true) ∧
    (canonical wGateBiasEventsComplete1 = true ∧
      (rail wGateBiasEventsComplete1 (24 + (7#3 : BitVec 3).toNat)).enabled = false) ∧
    (canonical wGateBiasEventsComplete2 = true ∧
      (31 : Nat) = 24 + (7#3 : BitVec 3).toNat ∧
      (true : Bool) = true ∧
      (rail wGateBiasEventsComplete2 (31 : Nat)).enabled = true ∧
      (rail wGateBiasEventsComplete2 (31 : Nat)).ph = .still ∧
      fld wGateBiasEventsComplete2 W.GB_ILIM_ILO (7#3 : BitVec 3).toNat ≠ 0 ∧
      flag wGateBiasEventsComplete2 W.GB_RSTATUS_SWITCHING (7#3 : BitVec 3).toNat = true ∧
      flag wGateBiasEventsComplete2 W.GB_RSTATUS_OPEN (7#3 : BitVec 3).toNat = false) ∧
    (canonical wGateBiasEventsComplete3 = true ∧
      (false : Bool) = false) ∧
    (canonical wGateBiasEventsComplete4 = true ∧
      (31 : Nat) = 24 + (7#3 : BitVec 3).toNat ∧
      (true : Bool) = true ∧
      (((rail wGateBiasEventsComplete4 (31 : Nat)).enabled = false ∨ (rail wGateBiasEventsComplete4 (31 : Nat)).ph ≠ .still ∨
        fld wGateBiasEventsComplete4 W.GB_ILIM_ILO (7#3 : BitVec 3).toNat = 0 ∨ flag wGateBiasEventsComplete4
        W.GB_RSTATUS_SWITCHING (7#3 : BitVec 3).toNat = false ∨ flag wGateBiasEventsComplete4 W.GB_RSTATUS_OPEN (7#3 : BitVec
        3).toNat = true))) ∧
    (canonical wGateBiasEventsComplete5 = true ∧
      (31 : Nat) = (if (true : Bool) then 28 else 24) + (3 : Fin 4) ∧
      wGateBiasEventsComplete5.core.gbLock.testBit (bankBit (true : Bool)) = false) ∧
    (canonical wGateBiasEventsComplete6 = true ∧
      wGateBiasEventsComplete6.core.gbLock.testBit (bankBit (true : Bool)) = true) ∧
    (canonical wGateBiasEventsComplete6 = true ∧
      (24 : Nat) = (if (false : Bool) then 28 else 24) + (0 : Fin 4) ∧
      (rail wGateBiasEventsComplete6 (24 : Nat)).enabled = true ∧
      (rail wGateBiasEventsComplete6 (24 : Nat)).falling = false ∧
      flag wGateBiasEventsComplete6 W.GB_RSTATUS_SWITCHING ((24 : Nat) - 24) = false) ∧
    (canonical wGateBiasEventsComplete8 = true ∧
      (24 : Nat) = (if (false : Bool) then 28 else 24) + (0 : Fin 4) ∧
      (((rail wGateBiasEventsComplete8 (24 : Nat)).enabled = false ∨ (rail wGateBiasEventsComplete8 (24 : Nat)).falling =
        true ∨ flag wGateBiasEventsComplete8 W.GB_RSTATUS_SWITCHING ((24 : Nat) - 24) = true))) := by
  decide +kernel

/-- Blocks and operands that meet the premises of the clauses of `Obligations.GateBiasEventsComplete`, part 2 of 2. -/
theorem witness_GateBiasEventsComplete_part2 :
    (canonical wGateBiasEventsComplete9 = true ∧
      (31 : Nat) = 24 + (7#3 : BitVec 3).toNat ∧
      (rail wGateBiasEventsComplete9 (31 : Nat)).ph = .rampUp ∧
      wGateBiasEventsComplete9.seq.holdFrom = none ∧
      gbLocked wGateBiasEventsComplete9 (31 : Nat) = false) ∧
    (canonical wGateBiasEventsComplete10 = true ∧
      (24 : Nat) = 24 + (0#3 : BitVec 3).toNat ∧
      (rail wGateBiasEventsComplete10 (24 : Nat)).ph = .rampDown) ∧
    (canonical wGateBiasEventsComplete11 = true ∧
      (24 : Nat) = 24 + (0#3 : BitVec 3).toNat ∧
      (rail wGateBiasEventsComplete11 (24 : Nat)).ph ≠ .rampDown ∧
      (((rail wGateBiasEventsComplete11 (24 : Nat)).ph ≠ .rampUp ∨ wGateBiasEventsComplete11.seq.holdFrom ≠ none ∨ gbLocked
        wGateBiasEventsComplete11 (24 : Nat) = true))) ∧
    (canonical wGateBiasEventsComplete12 = true ∧
      (31 : Nat) = 24 + (7#3 : BitVec 3).toNat ∧
      flag wGateBiasEventsComplete12 W.GB_CFG_AUX_EN (7#3 : BitVec 3).toNat = false ∧
      (rail wGateBiasEventsComplete12 (31 : Nat)).enabled = false ∧
      (rail wGateBiasEventsComplete12 (31 : Nat)).falling = true) ∧
    (canonical wGateBiasEventsComplete1 = true ∧
      ((flag wGateBiasEventsComplete1 W.GB_CFG_AUX_EN (7#3 : BitVec 3).toNat = true ∨ (rail wGateBiasEventsComplete1 (24 +
        (7#3 : BitVec 3).toNat)).enabled = true ∨ (rail wGateBiasEventsComplete1 (24 + (7#3 : BitVec 3).toNat)).falling =
        false))) := by
  decide +kernel


def wClusterFailuresComplete0 : Device := has [(W.PH_CFG_ROLE, 0, 0), (W.PH_CFG_ROLE, 1, 1), (W.PH_CFG_ROLE, 2, 2), (W.PH_CFG_ROLE, 3, 3), (W.PH_CFG_ROLE, 4, 4), (W.PH_STATUS_STATE, 3, 1), (W.CL_RSTATUS_PH_MASK, 3, 8)] (withRail 7 { enabled := true } (up .run))
def wClusterFailuresComplete1 : Device := has [(W.PH_CFG_ROLE, 0, 0), (W.PH_CFG_ROLE, 1, 1), (W.PH_CFG_ROLE, 2, 2), (W.PH_CFG_ROLE, 3, 3), (W.PH_CFG_ROLE, 4, 4), (W.PH_STATUS_STATE, 3, 1), (W.CL_RSTATUS_PH_MASK, 3, 8), (W.CL_STATUS_STEER_CLOSED, 0, 1), (W.CL_STATUS_SPARE_RAIL, 0, 1)] (modClus 0 (fun x => { x with drill := some 1, holding := true }) (withRail 7 { enabled := true } (up .run)))
def wClusterFailuresComplete2 : Device := has [(W.PH_CFG_ROLE, 0, 3), (W.PH_CFG_ROLE, 3, 3), (W.PH_CFG_ROLE, 4, 4), (W.PH_STATUS_STATE, 3, 1), (W.PH_STATUS_STATE, 0, 5), (W.CL_RSTATUS_PH_MASK, 3, 24), (W.CL_STATUS_STEER_CLOSED, 0, 1), (W.CL_STATUS_SPARE_RAIL, 0, 3)] (modClus 0 (fun x => { x with rest := some 0 }) (withRail 7 { enabled := true } (up .ease)))
def wClusterFailuresComplete3 : Device := has [(W.PH_CFG_ROLE, 9, 3), (W.PH_STATUS_STATE, 9, 1), (W.CL_RSTATUS_PH_MASK, 7, 24)] (withRail 11 { enabled := true } (up .run))
def wClusterFailuresComplete4 : Device := has [(W.PH_CFG_ROLE, 9, 3), (W.PH_STATUS_STATE, 9, 1), (W.PH_STATUS_SERVING_RAIL, 9, 3)] (withRail 11 { enabled := true } (up .run))
def wClusterFailuresComplete5 : Device := has [(W.PH_CFG_ROLE, 9, 3), (W.PH_STATUS_STATE, 9, 5), (W.CL_STATUS_ROT_ACTIVE, 1, 1)] (modClus 1 (fun x => { x with rest := some 9 }) (withRail 11 { enabled := true } (up .ease)))
def wClusterFailuresComplete6 : Device := has [(W.PH_CFG_ROLE, 9, 4), (W.PH_STATUS_STATE, 9, 4), (W.CL_STATUS_STEER_CLOSED, 1, 1), (W.CL_STATUS_SPARE_ENGAGED, 1, 1), (W.CL_STATUS_SPARE_RAIL, 1, 3), (W.CL_RSTATUS_SPARE_ON, 7, 1), (W.CL_RSTATUS_PH_MASK, 7, 24)] (withRail 11 { enabled := true } (up .run))
def wClusterFailuresComplete7 : Device := has [(W.PH_CFG_ROLE, 9, 4), (W.PH_CFG_ROLE, 8, 3), (W.PH_STATUS_STATE, 9, 3)] (modClus 1 (fun x => { x with ho := some { kind := 2, target := 3, phase := some 8 } }) (withRail 11 { enabled := true } (up .run)))
def wClusterFailuresComplete8 : Device := has [(W.PH_CFG_ROLE, 0, 0), (W.PH_CFG_ROLE, 1, 1), (W.PH_CFG_ROLE, 2, 1), (W.PH_CFG_ROLE, 3, 3), (W.PH_CFG_ROLE, 4, 4), (W.PH_STATUS_STATE, 0, 1), (W.PH_STATUS_STATE, 1, 1), (W.PH_STATUS_STATE, 2, 1), (W.CL_RSTATUS_PH_MASK, 0, 1), (W.CL_RSTATUS_PH_MASK, 1, 6)] (setRail (withRail 4 { enabled := true } (up .run)) 5 { enabled := true })
def wClusterFailuresComplete9 : Device := up .run
def wClusterFailuresComplete10 : Device := modClus 1 (fun x => { x with ho := some { kind := 1, target := 3, phase := some 9 } }) (up .run)
def wClusterFailuresComplete12 : Device := has [(W.PH_CFG_ROLE, 9, 4)] (modClus 1 (fun x => { x with drill := some 3 }) { withRail 11 { enabled := true, pg := true } (up .run) with roofTime := 10000 })
def wClusterFailuresComplete14 : Device := has [(W.PH_CFG_ROLE, 9, 4)] (modClus 1 (fun x => { x with ho := some { kind := 1, target := 3, phase := some 8, matched := some 2000 } }) (up .run))
def wClusterFailuresComplete15 : Device := has [(W.PH_CFG_ROLE, 9, 4)] (modClus 1 (fun x => { x with ho := some { kind := 3, target := 3, phase := some 8, matched := some 2000 } }) (up .ease))
def wClusterFailuresComplete17 : Device := has [(W.PH_CFG_ROLE, 9, 4)] (modClus 1 (fun x => { x with ho := some { kind := 4, target := 3 }, drill := some 3 }) (up .run))
def wClusterFailuresComplete18 : Device := has [(W.PH_CFG_ROLE, 9, 4), (W.PH_CFG_ROLE, 8, 3)] (modClus 1 (fun x => { x with ho := some { kind := 2, target := 3, phase := some 8 } }) (up .run))
def wClusterFailuresComplete19 : Device := busyWith (has [(W.PH_CFG_ROLE, 9, 4)] (modClus 1 (fun x => { x with drill := some 3 }) { withRail 11 { enabled := true, pg := true } (up .run) with roofTime := 10000 })) { cmd0 with op := 0x30, params := [0x103#32] }

/-- Blocks and operands that meet the premises of the clauses of `Obligations.ClusterFailuresComplete`, part 1 of 6. -/
theorem witness_ClusterFailuresComplete_part1 :
    (canonical wClusterFailuresComplete0 = true ∧
      ([(3#4, 2#3)] : List (BitVec 4 × BitVec 3)) = [(BitVec.ofNat 4 (3 : Fin 10), BitVec.ofNat 3 (2 : Fin 7))] ∧
      (2 : Fin 7).val ≠ 0 ∧
      (3 : Nat) = fld wClusterFailuresComplete0 W.PH_CFG_ROLE (3 : Fin 10) ∧
      (3 : Nat) < 4 ∧
      (7 : Nat) = 4 + 4 * ((3 : Fin 10) / 5) + (3 : Nat) ∧
      ((fld wClusterFailuresComplete0 W.PH_STATUS_STATE (3 : Fin 10) = 1 ∨ fld wClusterFailuresComplete0 W.PH_STATUS_STATE (3
        : Fin 10) = 7)) ∧
      flag wClusterFailuresComplete0 W.PH_STATUS_FAILED (3 : Fin 10) = false ∧
      (((2 : Fin 7).val ≠ 1 ∨ openTold wClusterFailuresComplete0 (3 : Fin 10) = true)) ∧
      stopBegun wClusterFailuresComplete0 (7 : Nat) = false ∧
      spareIdle wClusterFailuresComplete0 ((3 : Fin 10) / 5) = some (4 : Nat)) ∧
    (canonical wClusterFailuresComplete1 = true ∧
      ([(3#4, 2#3)] : List (BitVec 4 × BitVec 3)) = [(BitVec.ofNat 4 (3 : Fin 10), BitVec.ofNat 3 (2 : Fin 7))] ∧
      (2 : Fin 7).val ≠ 0 ∧
      (3 : Nat) = fld wClusterFailuresComplete1 W.PH_CFG_ROLE (3 : Fin 10) ∧
      (3 : Nat) < 4 ∧
      (7 : Nat) = 4 + 4 * ((3 : Fin 10) / 5) + (3 : Nat) ∧
      ((fld wClusterFailuresComplete1 W.PH_STATUS_STATE (3 : Fin 10) = 1 ∨ fld wClusterFailuresComplete1 W.PH_STATUS_STATE (3
        : Fin 10) = 7)) ∧
      flag wClusterFailuresComplete1 W.PH_STATUS_FAILED (3 : Fin 10) = false ∧
      (((2 : Fin 7).val ≠ 1 ∨ openTold wClusterFailuresComplete1 (3 : Fin 10) = true)) ∧
      stopBegun wClusterFailuresComplete1 (7 : Nat) = false ∧
      spareAway wClusterFailuresComplete1 ((3 : Fin 10) / 5) (3 : Nat) = true ∧
      sparePhase wClusterFailuresComplete1 ((3 : Fin 10) / 5) = some (4 : Nat) ∧
      flag wClusterFailuresComplete1 W.CL_STATUS_SPARE_FAILED ((3 : Fin 10) / 5) = false ∧
      (clus wClusterFailuresComplete1 ((3 : Fin 10) / 5)).ho = none) := by
  decide +kernel

/-- Blocks and operands that meet the premises of the clauses of `Obligations.ClusterFailuresComplete`, part 2 of 6. -/
theorem witness_ClusterFailuresComplete_part2 :
    (canonical wClusterFailuresComplete2 = true ∧
      ([(3#4, 2#3)] : List (BitVec 4 × BitVec 3)) = [(BitVec.ofNat 4 (3 : Fin 10), BitVec.ofNat 3 (2 : Fin 7))] ∧
      (2 : Fin 7).val ≠ 0 ∧
      (3 : Nat) = fld wClusterFailuresComplete2 W.PH_CFG_ROLE (3 : Fin 10) ∧
      (3 : Nat) < 4 ∧
      (7 : Nat) = 4 + 4 * ((3 : Fin 10) / 5) + (3 : Nat) ∧
      ((fld wClusterFailuresComplete2 W.PH_STATUS_STATE (3 : Fin 10) = 1 ∨ fld wClusterFailuresComplete2 W.PH_STATUS_STATE (3
        : Fin 10) = 7)) ∧
      flag wClusterFailuresComplete2 W.PH_STATUS_FAILED (3 : Fin 10) = false ∧
      (((2 : Fin 7).val ≠ 1 ∨ openTold wClusterFailuresComplete2 (3 : Fin 10) = true)) ∧
      stopBegun wClusterFailuresComplete2 (7 : Nat) = false ∧
      (clus wClusterFailuresComplete2 ((3 : Fin 10) / 5)).rest = some (0 : Fin 10).val ∧
      (0 : Fin 10) ≠ (3 : Fin 10) ∧
      flag wClusterFailuresComplete2 W.CL_STATUS_STEER_CLOSED ((3 : Fin 10) / 5) = true ∧
      fld wClusterFailuresComplete2 W.CL_STATUS_SPARE_RAIL ((3 : Fin 10) / 5) = (3 : Nat)) ∧
    (canonical wClusterFailuresComplete3 = true ∧
      ([(9#4, 4#3)] : List (BitVec 4 × BitVec 3)) = [(BitVec.ofNat 4 (9 : Fin 10), BitVec.ofNat 3 (4 : Fin 7))] ∧
      (4 : Fin 7).val ≠ 0 ∧
      (3 : Nat) = fld wClusterFailuresComplete3 W.PH_CFG_ROLE (9 : Fin 10) ∧
      (3 : Nat) < 4 ∧
      (11 : Nat) = 4 + 4 * ((9 : Fin 10) / 5) + (3 : Nat) ∧
      ((fld wClusterFailuresComplete3 W.PH_STATUS_STATE (9 : Fin 10) = 1 ∨ fld wClusterFailuresComplete3 W.PH_STATUS_STATE (9
        : Fin 10) = 7)) ∧
      flag wClusterFailuresComplete3 W.PH_STATUS_FAILED (9 : Fin 10) = false ∧
      (((4 : Fin 7).val ≠ 1 ∨ openTold wClusterFailuresComplete3 (9 : Fin 10) = true)) ∧
      ((stopBegun wClusterFailuresComplete3 (11 : Nat) = true ∨ (spareIdle wClusterFailuresComplete3 ((9 : Fin 10) / 5) =
        none ∧ spareAway wClusterFailuresComplete3 ((9 : Fin 10) / 5) (3 : Nat) = false ∧ ((clus wClusterFailuresComplete3
        ((9 : Fin 10) / 5)).rest = none ∨ flag wClusterFailuresComplete3 W.CL_STATUS_STEER_CLOSED ((9 : Fin 10) / 5) = false
        ∨ fld wClusterFailuresComplete3 W.CL_STATUS_SPARE_RAIL ((9 : Fin 10) / 5) ≠ (3 : Nat))))) ∧
      (8 : Nat) = setBitNat (fld wClusterFailuresComplete3 W.CL_RSTATUS_PH_MASK ((11 : Nat) - 4)) ((9 : Fin 10) % 5) false) ∧
    (canonical wClusterFailuresComplete4 = true ∧
      ([(9#4, 7#3)] : List (BitVec 4 × BitVec 3)) = [(BitVec.ofNat 4 (9 : Fin 10), 7#3)] ∧
      flag wClusterFailuresComplete4 W.PH_STATUS_FAILED (9 : Fin 10) = false ∧
      fld wClusterFailuresComplete4 W.PH_CFG_ROLE (9 : Fin 10) ≤ 4 ∧
      ((fld wClusterFailuresComplete4 W.PH_STATUS_STATE (9 : Fin 10) = 1 ∨ fld wClusterFailuresComplete4 W.PH_STATUS_STATE (9
        : Fin 10) = 4)) ∧
      fld wClusterFailuresComplete4 W.PH_STATUS_SERVING_RAIL (9 : Fin 10) < 4 ∧
      (7 : Nat) = 4 * ((9 : Fin 10) / 5) + fld wClusterFailuresComplete4 W.PH_STATUS_SERVING_RAIL (9 : Fin 10)) := by
  decide +kernel

/-- Blocks and operands that meet the premises of the clauses of `Obligations.ClusterFailuresComplete`, part 3 of 6. -/
theorem witness_ClusterFailuresComplete_part3 :
    (canonical wClusterFailuresComplete5 = true ∧
      ([(9#4, 6#3)] : List (BitVec 4 × BitVec 3)) = [(BitVec.ofNat 4 (9 : Fin 10), BitVec.ofNat 3 (6 : Fin 7))] ∧
      (6 : Fin 7).val ≠ 0 ∧
      flag wClusterFailuresComplete5 W.PH_STATUS_FAILED (9 : Fin 10) = false ∧
      fld wClusterFailuresComplete5 W.PH_CFG_ROLE (9 : Fin 10) < 4 ∧
      fld wClusterFailuresComplete5 W.PH_STATUS_STATE (9 : Fin 10) = 5 ∧
      (((6 : Fin 7).val ≠ 1 ∨ openTold wClusterFailuresComplete5 (9 : Fin 10) = true))) ∧
    (canonical wClusterFailuresComplete6 = true ∧
      ([(9#4, 6#3)] : List (BitVec 4 × BitVec 3)) = [(BitVec.ofNat 4 (9 : Fin 10), BitVec.ofNat 3 (6 : Fin 7))] ∧
      (6 : Fin 7).val ≠ 0 ∧
      (1 : Nat) = (9 : Fin 10) / 5 ∧
      (11 : Nat) = 4 + 4 * (1 : Nat) + fld wClusterFailuresComplete6 W.CL_STATUS_SPARE_RAIL (1 : Nat) ∧
      sparePhase wClusterFailuresComplete6 (1 : Nat) = some (9 : Fin 10).val ∧
      flag wClusterFailuresComplete6 W.PH_STATUS_FAILED (9 : Fin 10) = false) ∧
    (canonical wClusterFailuresComplete7 = true ∧
      ([(9#4, 6#3)] : List (BitVec 4 × BitVec 3)) = [(BitVec.ofNat 4 (9 : Fin 10), BitVec.ofNat 3 (6 : Fin 7))] ∧
      (6 : Fin 7).val ≠ 0 ∧
      (1 : Nat) = (9 : Fin 10) / 5 ∧
      sparePhase wClusterFailuresComplete7 (1 : Nat) = some (9 : Fin 10).val ∧
      flag wClusterFailuresComplete7 W.PH_STATUS_FAILED (9 : Fin 10) = false ∧
      (clus wClusterFailuresComplete7 (1 : Nat)).ho = some ({ kind := 2, target := 3, phase := some 8 } : Handover) ∧
      ((({ kind := 2, target := 3, phase := some 8 } : Handover).kind = 1 ∨ ({ kind := 2, target := 3, phase := some 8 } :
        Handover).kind = 2)) ∧
      ({ kind := 2, target := 3, phase := some 8 } : Handover).phase = some (8 : Fin 10).val ∧
      fld wClusterFailuresComplete7 W.PH_CFG_ROLE (8 : Fin 10) < 4) := by
  decide +kernel

/-- Blocks and operands that meet the premises of the clauses of `Obligations.ClusterFailuresComplete`, part 4 of 6. -/
theorem witness_ClusterFailuresComplete_part4 :
    (canonical wClusterFailuresComplete8 = true ∧
      ([(1#4, 2#3), (0#4, 4#3)] : List (BitVec 4 × BitVec 3)) = [(BitVec.ofNat 4 (1 : Fin 10), BitVec.ofNat 3 (2 : Fin 7)),
        (BitVec.ofNat 4 (0 : Fin 10), BitVec.ofNat 3 (4 : Fin 7))] ∧
      (2 ≤ (4 : Fin 7).val ∧ 2 ≤ (2 : Fin 7).val) ∧
      (0 : Fin 10).val / 5 = (1 : Fin 10).val / 5 ∧
      (0 : Nat) = fld wClusterFailuresComplete8 W.PH_CFG_ROLE (0 : Fin 10) ∧
      (1 : Nat) = fld wClusterFailuresComplete8 W.PH_CFG_ROLE (1 : Fin 10) ∧
      ((0 : Nat) < 4 ∧ (1 : Nat) < 4) ∧
      (fld wClusterFailuresComplete8 W.PH_STATUS_STATE (0 : Fin 10) = 1 ∧ fld wClusterFailuresComplete8 W.PH_STATUS_STATE (1
        : Fin 10) = 1) ∧
      (flag wClusterFailuresComplete8 W.PH_STATUS_FAILED (0 : Fin 10) = false ∧ flag wClusterFailuresComplete8
        W.PH_STATUS_FAILED (1 : Fin 10) = false) ∧
      (stopBegun wClusterFailuresComplete8 (phRail wClusterFailuresComplete8 (0 : Fin 10)) = false ∧ stopBegun
        wClusterFailuresComplete8 (phRail wClusterFailuresComplete8 (1 : Fin 10)) = false) ∧
      (spareIdle wClusterFailuresComplete8 ((0 : Fin 10) / 5)).isSome = true ∧
      ((keeps wClusterFailuresComplete8 [((1 : Fin 10), (2 : Fin 7)), ((0 : Fin 10), (4 : Fin 7))] (0 : Fin 10) < keeps
        wClusterFailuresComplete8 [((1 : Fin 10), (2 : Fin 7)), ((0 : Fin 10), (4 : Fin 7))] (1 : Fin 10) ∨ (keeps
        wClusterFailuresComplete8 [((1 : Fin 10), (2 : Fin 7)), ((0 : Fin 10), (4 : Fin 7))] (0 : Fin 10) = keeps
        wClusterFailuresComplete8 [((1 : Fin 10), (2 : Fin 7)), ((0 : Fin 10), (4 : Fin 7))] (1 : Fin 10) ∧ (0 : Fin 10) < (1
        : Fin 10))))) ∧
    (canonical wClusterFailuresComplete9 = true ∧
      ([(9#4, 6#3)] : List (BitVec 4 × BitVec 3)) = [((9#4 : BitVec 4), (6#3 : BitVec 3))] ∧
      ((10 ≤ (9#4 : BitVec 4).toNat ∨ (6#3 : BitVec 3) = 0#3 ∨ 4 < fld wClusterFailuresComplete9 W.PH_CFG_ROLE (9#4 : BitVec
        4).toNat ∨ flag wClusterFailuresComplete9 W.PH_STATUS_FAILED (9#4 : BitVec 4).toNat = true ∨ ((6#3 : BitVec 3) = 1#3
        ∧ openTold wClusterFailuresComplete9 (9#4 : BitVec 4).toNat = false) ∨ ((6#3 : BitVec 3) = 7#3 ∧ fld
        wClusterFailuresComplete9 W.PH_STATUS_STATE (9#4 : BitVec 4).toNat ≠ 1 ∧ fld wClusterFailuresComplete9
        W.PH_STATUS_STATE (9#4 : BitVec 4).toNat ≠ 4) ∨ ((6#3 : BitVec 3) ≠ 7#3 ∧ sparePhase wClusterFailuresComplete9 ((9#4
        : BitVec 4).toNat / 5) ≠ some (9#4 : BitVec 4).toNat ∧ fld wClusterFailuresComplete9 W.PH_STATUS_STATE (9#4 : BitVec
        4).toNat ≠ 1 ∧ fld wClusterFailuresComplete9 W.PH_STATUS_STATE (9#4 : BitVec 4).toNat ≠ 5 ∧ fld
        wClusterFailuresComplete9 W.PH_STATUS_STATE (9#4 : BitVec 4).toNat ≠ 7)))) ∧
    (canonical wClusterFailuresComplete10 = true ∧
      (clus wClusterFailuresComplete10 (1#1 : BitVec 1).toNat).ho = some ({ kind := 1, target := 3, phase := some 9 } :
        Handover) ∧
      ({ kind := 1, target := 3, phase := some 9 } : Handover).matched = none ∧
      (2000 : Nat) ≤ (if ({ kind := 1, target := 3, phase := some 9 } : Handover).late then 2200 else 2000)) ∧
    (canonical wClusterFailuresComplete10 = true ∧
      (clus wClusterFailuresComplete10 (1#1 : BitVec 1).toNat).ho = some ({ kind := 1, target := 3, phase := some 9 } :
        Handover) ∧
      ((({ kind := 1, target := 3, phase := some 9 } : Handover).matched ≠ none ∨ (if
        ({ kind := 1, target := 3, phase := some 9 } : Handover).late then 2200 else 2000) < (2001 : Nat)))) := by
  decide +kernel

/-- Blocks and operands that meet the premises of the clauses of `Obligations.ClusterFailuresComplete`, part 5 of 6. -/
theorem witness_ClusterFailuresComplete_part5 :
    (canonical wClusterFailuresComplete12 = true ∧
      drillMayBegin wClusterFailuresComplete12 (1#1 : BitVec 1).toNat = some (3 : Nat) ∧
      sparePhase wClusterFailuresComplete12 (1#1 : BitVec 1).toNat = some (9 : Nat)) ∧
    (canonical wClusterFailuresComplete9 = true ∧
      (clus wClusterFailuresComplete9 (1#1 : BitVec 1).toNat).ho = none ∧
      drillMayBegin wClusterFailuresComplete9 (1#1 : BitVec 1).toNat = none) ∧
    (canonical wClusterFailuresComplete14 = true ∧
      (clus wClusterFailuresComplete14 (1#1 : BitVec 1).toNat).ho = some
        ({ kind := 1, target := 3, phase := some 8, matched := some 2000 } : Handover) ∧
      ({ kind := 1, target := 3, phase := some 8, matched := some 2000 } : Handover).matched = some (2000 : Nat) ∧
      (2000 : Nat) ≤ 2200 ∧
      sparePhase wClusterFailuresComplete14 (1#1 : BitVec 1).toNat = some (9 : Nat) ∧
      ({ kind := 1, target := 3, phase := some 8, matched := some 2000 } : Handover).target < 4 ∧
      (11 : Nat) = 4 + 4 * (1#1 : BitVec 1).toNat + ({ kind := 1, target := 3, phase := some 8, matched := some 2000 } :
        Handover).target) ∧
    (canonical wClusterFailuresComplete15 = true ∧
      (clus wClusterFailuresComplete15 (1#1 : BitVec 1).toNat).ho = some
        ({ kind := 3, target := 3, phase := some 8, matched := some 2000 } : Handover) ∧
      ({ kind := 3, target := 3, phase := some 8, matched := some 2000 } : Handover).matched = some (2000 : Nat) ∧
      sparePhase wClusterFailuresComplete15 (1#1 : BitVec 1).toNat = some (9 : Nat) ∧
      ({ kind := 3, target := 3, phase := some 8, matched := some 2000 } : Handover).target < 4 ∧
      (11 : Nat) = 4 + 4 * (1#1 : BitVec 1).toNat + ({ kind := 3, target := 3, phase := some 8, matched := some 2000 } :
        Handover).target ∧
      ({ kind := 3, target := 3, phase := some 8, matched := some 2000 } : Handover).phase = some (8 : Fin 10).val ∧
      (8 : Fin 10).val / 5 = (1#1 : BitVec 1).toNat ∧
      (8 : Fin 10).val ≠ (9 : Nat)) ∧
    (canonical wClusterFailuresComplete9 = true ∧
      (((clus wClusterFailuresComplete9 (1#1 : BitVec 1).toNat).ho.all (fun h => h.matched.isNone) = true ∨ sparePhase
        wClusterFailuresComplete9 (1#1 : BitVec 1).toNat = none))) ∧
    (canonical wClusterFailuresComplete17 = true ∧
      (clus wClusterFailuresComplete17 (1#1 : BitVec 1).toNat).ho = some ({ kind := 4, target := 3 } : Handover) ∧
      ({ kind := 4, target := 3 } : Handover).matched = none ∧
      sparePhase wClusterFailuresComplete17 (1#1 : BitVec 1).toNat = some (9 : Nat)) ∧
    (canonical wClusterFailuresComplete18 = true ∧
      (clus wClusterFailuresComplete18 (1#1 : BitVec 1).toNat).ho = some ({ kind := 2, target := 3, phase := some 8 } :
        Handover) ∧
      ({ kind := 2, target := 3, phase := some 8 } : Handover).matched = none ∧
      ((({ kind := 2, target := 3, phase := some 8 } : Handover).kind = 1 ∨ ({ kind := 2, target := 3, phase := some 8 } :
        Handover).kind = 2)) ∧
      ({ kind := 2, target := 3, phase := some 8 } : Handover).phase = some (8 : Fin 10).val ∧
      fld wClusterFailuresComplete18 W.PH_CFG_ROLE (8 : Fin 10) < 4 ∧
      sparePhase wClusterFailuresComplete18 (1#1 : BitVec 1).toNat = some (9 : Nat) ∧
      (0 : Nat) = setBitNat (fld wClusterFailuresComplete18 W.CL_RSTATUS_PH_MASK (phRail wClusterFailuresComplete18 (8 : Fin
        10) - 4)) ((8 : Fin 10) % 5) false) := by
  decide +kernel

/-- Blocks and operands that meet the premises of the clauses of `Obligations.ClusterFailuresComplete`, part 6 of 6. -/
theorem witness_ClusterFailuresComplete_part6 :
    (canonical wClusterFailuresComplete19 = true ∧
      drillMayBegin wClusterFailuresComplete19 (1#1 : BitVec 1).toNat = some (3 : Nat) ∧
      sparePhase wClusterFailuresComplete19 (1#1 : BitVec 1).toNat = some (9 : Nat) ∧
      wClusterFailuresComplete19.eng.issued = [({ cmd0 with op := 0x30, params := [0x103#32] } : Cmd)] ∧
      ({ cmd0 with op := 0x30, params := [0x103#32] } : Cmd).op = 0x30 ∧
      bitsOf (({ cmd0 with op := 0x30, params := [0x103#32] } : Cmd).p 0) 8 8 = (1#1 : BitVec 1).toNat) ∧
    (canonical wClusterFailuresComplete9 = true ∧
      drillMayBegin wClusterFailuresComplete9 (1#1 : BitVec 1).toNat = none ∧
      (clus wClusterFailuresComplete9 (1#1 : BitVec 1).toNat).ho.all (fun h => h.matched.isSome) = true) := by
  decide +kernel


def wRotationAndDrillsComplete0 : Device := has [(W.CL_CTRL_ROT_EN, 1, 1), (W.PH_CFG_ROLE, 9, 4), (W.PH_CFG_ROLE, 8, 3), (W.PH_STATUS_STATE, 8, 1)] { up .ease with therm := { value := [(8, 1300)] } }
def wRotationAndDrillsComplete1 : Device := has [(W.CL_CTRL_ROT_EN, 1, 1), (W.PH_CFG_ROLE, 9, 4), (W.PH_CFG_ROLE, 8, 3), (W.PH_STATUS_STATE, 8, 5)] (modClus 1 (fun x => { x with rest := some 8 }) { up .ease with therm := { value := [(9, 1300)] } })
def wRotationAndDrillsComplete2 : Device := up .run
def wRotationAndDrillsComplete3 : Device := has [(W.PH_CFG_ROLE, 9, 4), (W.CL_STATUS_STEER_CLOSED, 1, 1), (W.CL_STATUS_ROT_ACTIVE, 1, 1)] (modClus 1 (fun x => { x with trading := true }) (up .ease))
def wRotationAndDrillsComplete4 : Device := has [(W.PH_CFG_ROLE, 9, 4), (W.CL_STATUS_STEER_CLOSED, 1, 1), (W.CL_STATUS_ROT_ACTIVE, 1, 1), (W.PH_STATUS_STATE, 7, 1)] (modClus 1 (fun x => { x with trading := true, next := some 7 }) (up .ease))
def wRotationAndDrillsComplete5 : Device := has [(W.PH_CFG_ROLE, 9, 4), (W.CL_STATUS_STEER_CLOSED, 1, 1), (W.PH_STATUS_STATE, 7, 6)] (modClus 1 (fun x => { x with trading := true, next := some 7 }) (up .ease))
def wRotationAndDrillsComplete6 : Device := up .ease
def wRotationAndDrillsComplete7 : Device := has [(W.CL_CTRL_SHED_EN, 1, 1), (W.PH_CFG_ROLE, 9, 3), (W.PH_CFG_ROLE, 8, 3), (W.PH_STATUS_STATE, 8, 1), (W.PH_STATUS_STATE, 9, 1), (W.CL_RSTATUS_PH_MASK, 7, 24)] { up .ease with therm := { value := [(9, 1300)] } }
def wRotationAndDrillsComplete9 : Device := has [(W.PH_CFG_ROLE, 9, 3), (W.PH_STATUS_STATE, 9, 7), (W.CL_RSTATUS_SHED_ACTIVE, 7, 1)] (up .ease)
def wRotationAndDrillsComplete11 : Device := has [(W.PH_CFG_ROLE, 9, 4)] (up .run)
def wRotationAndDrillsComplete12 : Device := has [(W.PH_CFG_ROLE, 9, 4), (W.CL_STATUS_SPARE_ENGAGED, 1, 1)] (up .run)
def wRotationAndDrillsComplete13 : Device := busyWith (modClus 1 (fun x => { x with drill := some 3 }) (up .run)) { cmd0 with op := 0x30, params := [0x103#32] }
def wRotationAndDrillsComplete16 : Device := has [(W.PH_CFG_ROLE, 9, 4), (W.CL_STATUS_STEER_CLOSED, 1, 1)] (modClus 1 (fun x => { x with drill := some 3, holding := true }) (up .run))
def wRotationAndDrillsComplete17 : Device := busyWith (modClus 1 (fun x => { x with drill := some 3, holding := true }) (up .run)) { cmd0 with op := 0x30, params := [0x103#32] }

/-- Blocks and operands that meet the premises of the clauses of `Obligations.RotationAndDrillsComplete`, part 1 of 3. -/
theorem witness_RotationAndDrillsComplete_part1 :
    (canonical wRotationAndDrillsComplete0 = true ∧
      flag wRotationAndDrillsComplete0 W.CL_CTRL_ROT_EN (1#1 : BitVec 1).toNat = true ∧
      wRotationAndDrillsComplete0.mode = .ease ∧
      hottest wRotationAndDrillsComplete0 (clServing wRotationAndDrillsComplete0 (1#1 : BitVec 1).toNat) = some (8 : Nat) ∧
      spareIdle wRotationAndDrillsComplete0 (1#1 : BitVec 1).toNat = some (9 : Nat) ∧
      (clus wRotationAndDrillsComplete0 (1#1 : BitVec 1).toNat).rest = none ∧
      1300 ≤ phTemp wRotationAndDrillsComplete0 (8 : Nat) ∧
      phTemp wRotationAndDrillsComplete0 (9 : Nat) + rotDelta wRotationAndDrillsComplete0 (1#1 : BitVec 1).toNat ≤ phTemp
        wRotationAndDrillsComplete0 (8 : Nat)) ∧
    (canonical wRotationAndDrillsComplete1 = true ∧
      flag wRotationAndDrillsComplete1 W.CL_CTRL_ROT_EN (1#1 : BitVec 1).toNat = true ∧
      wRotationAndDrillsComplete1.mode = .ease ∧
      sparePhase wRotationAndDrillsComplete1 (1#1 : BitVec 1).toNat = some (9 : Nat) ∧
      (clus wRotationAndDrillsComplete1 (1#1 : BitVec 1).toNat).rest = some (8 : Fin 10).val ∧
      (8 : Fin 10).val / 5 = (1#1 : BitVec 1).toNat ∧
      fld wRotationAndDrillsComplete1 W.PH_CFG_ROLE (8 : Fin 10) < 4 ∧
      (clus wRotationAndDrillsComplete1 (1#1 : BitVec 1).toNat).trading = false ∧
      ((phTemp wRotationAndDrillsComplete1 (8 : Fin 10) + rotDelta wRotationAndDrillsComplete1 (1#1 : BitVec 1).toNat ≤
        phTemp wRotationAndDrillsComplete1 (9 : Nat) ∨ (newHottest wRotationAndDrillsComplete1 (1#1 : BitVec 1).toNat (9 :
        Nat)).isSome = true))) ∧
    (canonical wRotationAndDrillsComplete2 = true ∧
      ((flag wRotationAndDrillsComplete2 W.CL_CTRL_ROT_EN (1#1 : BitVec 1).toNat = false ∨ wRotationAndDrillsComplete2.mode ≠
        .ease ∨ sparePhase wRotationAndDrillsComplete2 (1#1 : BitVec 1).toNat = none ∨ ((clus wRotationAndDrillsComplete2
        (1#1 : BitVec 1).toNat).rest = none ∧ (spareIdle wRotationAndDrillsComplete2 (1#1 : BitVec 1).toNat = none ∨ (hottest
        wRotationAndDrillsComplete2 (clServing wRotationAndDrillsComplete2 (1#1 : BitVec 1).toNat)).all (fun h => phTemp
        wRotationAndDrillsComplete2 h < 1300 || (sparePhase wRotationAndDrillsComplete2 (1#1 : BitVec 1).toNat).all (fun sp
        => phTemp wRotationAndDrillsComplete2 h < phTemp wRotationAndDrillsComplete2 sp + rotDelta
        wRotationAndDrillsComplete2 (1#1 : BitVec 1).toNat)) = true)) ∨ ((clus wRotationAndDrillsComplete2 (1#1 : BitVec
        1).toNat).rest ≠ none ∧ (clus wRotationAndDrillsComplete2 (1#1 : BitVec 1).toNat).trading = true)))) ∧
    (canonical wRotationAndDrillsComplete3 = true ∧
      (clus wRotationAndDrillsComplete3 (1#1 : BitVec 1).toNat).trading = true ∧
      (clus wRotationAndDrillsComplete3 (1#1 : BitVec 1).toNat).next = none ∧
      sparePhase wRotationAndDrillsComplete3 (1#1 : BitVec 1).toNat = some (9 : Nat)) ∧
    (canonical wRotationAndDrillsComplete4 = true ∧
      (clus wRotationAndDrillsComplete4 (1#1 : BitVec 1).toNat).trading = true ∧
      (clus wRotationAndDrillsComplete4 (1#1 : BitVec 1).toNat).next = some (7 : Fin 10).val ∧
      sparePhase wRotationAndDrillsComplete4 (1#1 : BitVec 1).toNat = some (9 : Nat) ∧
      (7 : Fin 10).val ≠ (9 : Nat) ∧
      flag wRotationAndDrillsComplete4 W.CL_STATUS_SPARE_FAILED (1#1 : BitVec 1).toNat = false ∧
      (clus wRotationAndDrillsComplete4 (1#1 : BitVec 1).toNat).ho = none ∧
      fld wRotationAndDrillsComplete4 W.PH_STATUS_STATE (7 : Fin 10) = 1) := by
  decide +kernel

/-- Blocks and operands that meet the premises of the clauses of `Obligations.RotationAndDrillsComplete`, part 2 of 3. -/
theorem witness_RotationAndDrillsComplete_part2 :
    (canonical wRotationAndDrillsComplete5 = true ∧
      (clus wRotationAndDrillsComplete5 (1#1 : BitVec 1).toNat).trading = true ∧
      (clus wRotationAndDrillsComplete5 (1#1 : BitVec 1).toNat).next = some (7 : Fin 10).val ∧
      sparePhase wRotationAndDrillsComplete5 (1#1 : BitVec 1).toNat = some (9 : Nat) ∧
      (7 : Fin 10).val ≠ (9 : Nat) ∧
      ((flag wRotationAndDrillsComplete5 W.CL_STATUS_SPARE_FAILED (1#1 : BitVec 1).toNat = true ∨ (clus
        wRotationAndDrillsComplete5 (1#1 : BitVec 1).toNat).ho ≠ none ∨ fld wRotationAndDrillsComplete5 W.PH_STATUS_STATE (7
        : Fin 10) ≠ 1))) ∧
    (canonical wRotationAndDrillsComplete6 = true ∧
      (clus wRotationAndDrillsComplete6 (1#1 : BitVec 1).toNat).trading = false) ∧
    (canonical wRotationAndDrillsComplete7 = true ∧
      railKind (11#5 : BitVec 5).toNat = .cl ∧
      flag wRotationAndDrillsComplete7 W.CL_CTRL_SHED_EN (((11#5 : BitVec 5).toNat - 4) / 4) = true ∧
      wRotationAndDrillsComplete7.mode = .ease ∧
      (clus wRotationAndDrillsComplete7 (((11#5 : BitVec 5).toNat - 4) / 4)).ho = none ∧
      2 ≤ (bitsIn (fld wRotationAndDrillsComplete7 W.CL_RSTATUS_PH_MASK ((11#5 : BitVec 5).toNat - 4)) 5).length ∧
      hottest wRotationAndDrillsComplete7 (shedPhases wRotationAndDrillsComplete7 (11#5 : BitVec 5).toNat) = some (9 : Nat)) ∧
    (canonical wRotationAndDrillsComplete2 = true ∧
      ((railKind (11#5 : BitVec 5).toNat ≠ .cl ∨ flag wRotationAndDrillsComplete2 W.CL_CTRL_SHED_EN (((11#5 : BitVec 5).toNat
        - 4) / 4) = false ∨ wRotationAndDrillsComplete2.mode ≠ .ease ∨ (clus wRotationAndDrillsComplete2 (((11#5 : BitVec
        5).toNat - 4) / 4)).ho ≠ none ∨ (bitsIn (fld wRotationAndDrillsComplete2 W.CL_RSTATUS_PH_MASK ((11#5 : BitVec
        5).toNat - 4)) 5).length < 2 ∨ hottest wRotationAndDrillsComplete2 (shedPhases wRotationAndDrillsComplete2 (11#5 :
        BitVec 5).toNat) = none))) ∧
    (canonical wRotationAndDrillsComplete9 = true ∧
      railKind (11#5 : BitVec 5).toNat = .cl ∧
      flag wRotationAndDrillsComplete9 W.CL_RSTATUS_SHED_ACTIVE ((11#5 : BitVec 5).toNat - 4) = true) ∧
    (canonical wRotationAndDrillsComplete6 = true ∧
      ((railKind (11#5 : BitVec 5).toNat ≠ .cl ∨ flag wRotationAndDrillsComplete6 W.CL_RSTATUS_SHED_ACTIVE ((11#5 : BitVec
        5).toNat - 4) = false))) ∧
    (canonical wRotationAndDrillsComplete11 = true ∧
      engineOn wRotationAndDrillsComplete11 = true ∧
      (1 : Nat) = bitsOf (0x103#32 : Word) 8 8 ∧
      (3 : Nat) = bitsOf (0x103#32 : Word) 1 0 ∧
      (11 : Nat) = 4 + 4 * (1 : Nat) + (3 : Nat) ∧
      bitsOf (0x103#32 : Word) 31 9 = 0 ∧
      bitsOf (0x103#32 : Word) 7 2 = 0 ∧
      noSpare wRotationAndDrillsComplete11 (1 : Nat) = false ∧
      (sparePhase wRotationAndDrillsComplete11 (1 : Nat)).isSome = true ∧
      inMode wRotationAndDrillsComplete11 [.run, .ease] = true ∧
      drillable wRotationAndDrillsComplete11 (1 : Nat) = true) := by
  decide +kernel

/-- Blocks and operands that meet the premises of the clauses of `Obligations.RotationAndDrillsComplete`, part 3 of 3. -/
theorem witness_RotationAndDrillsComplete_part3 :
    (canonical wRotationAndDrillsComplete12 = true ∧
      engineOn wRotationAndDrillsComplete12 = true ∧
      (1 : Nat) = bitsOf (0x103#32 : Word) 8 8 ∧
      firstFail [(bitsOf (0x103#32 : Word) 31 9 = 0 && bitsOf (0x103#32 : Word) 7 2 = 0 && !noSpare
        wRotationAndDrillsComplete12 (1 : Nat) && (sparePhase wRotationAndDrillsComplete12 (1 : Nat)).isSome, .badParam),
        (inMode wRotationAndDrillsComplete12 [.run, .ease], .deniedMode), (drillable wRotationAndDrillsComplete12 (1 : Nat),
        .busy)] = some (.busy : Status)) ∧
    (canonical wRotationAndDrillsComplete13 = true ∧
      (clus wRotationAndDrillsComplete13 (1#1 : BitVec 1).toNat).drill.isSome = true ∧
      (clus wRotationAndDrillsComplete13 (1#1 : BitVec 1).toNat).ho = none ∧
      (clus wRotationAndDrillsComplete13 (1#1 : BitVec 1).toNat).holding = false) ∧
    (canonical wRotationAndDrillsComplete13 = true ∧
      (clus wRotationAndDrillsComplete13 (1#1 : BitVec 1).toNat).drill.isSome = true ∧
      (clus wRotationAndDrillsComplete13 (1#1 : BitVec 1).toNat).ho = none ∧
      (clus wRotationAndDrillsComplete13 (1#1 : BitVec 1).toNat).holding = false ∧
      wRotationAndDrillsComplete13.eng.issued = [({ cmd0 with op := 0x30, params := [0x103#32] } : Cmd)] ∧
      ({ cmd0 with op := 0x30, params := [0x103#32] } : Cmd).op = 0x30 ∧
      bitsOf (({ cmd0 with op := 0x30, params := [0x103#32] } : Cmd).p 0) 8 8 = (1#1 : BitVec 1).toNat) ∧
    (canonical wRotationAndDrillsComplete2 = true ∧
      (((clus wRotationAndDrillsComplete2 (1#1 : BitVec 1).toNat).drill = none ∨ (clus wRotationAndDrillsComplete2 (1#1 :
        BitVec 1).toNat).ho ≠ none ∨ (clus wRotationAndDrillsComplete2 (1#1 : BitVec 1).toNat).holding = true))) ∧
    (canonical wRotationAndDrillsComplete16 = true ∧
      (clus wRotationAndDrillsComplete16 (1#1 : BitVec 1).toNat).holding = true ∧
      (clus wRotationAndDrillsComplete16 (1#1 : BitVec 1).toNat).drill.isSome = true ∧
      (clus wRotationAndDrillsComplete16 (1#1 : BitVec 1).toNat).ho = none ∧
      sparePhase wRotationAndDrillsComplete16 (1#1 : BitVec 1).toNat = some (9 : Nat)) ∧
    (canonical wRotationAndDrillsComplete17 = true ∧
      (clus wRotationAndDrillsComplete17 (1#1 : BitVec 1).toNat).holding = true ∧
      (clus wRotationAndDrillsComplete17 (1#1 : BitVec 1).toNat).drill.isSome = true ∧
      (clus wRotationAndDrillsComplete17 (1#1 : BitVec 1).toNat).ho = none ∧
      wRotationAndDrillsComplete17.eng.issued = [({ cmd0 with op := 0x30, params := [0x103#32] } : Cmd)] ∧
      ({ cmd0 with op := 0x30, params := [0x103#32] } : Cmd).op = 0x30 ∧
      bitsOf (({ cmd0 with op := 0x30, params := [0x103#32] } : Cmd).p 0) 8 8 = (1#1 : BitVec 1).toNat ∧
      (true : Bool) = (200 ≤ (4500#16 : BitVec 16).toNat && (4500#16 : BitVec 16).toNat ≤ 4500 && !(clus
        wRotationAndDrillsComplete17 (1#1 : BitVec 1).toNat).pgLost && (true : Bool))) ∧
    (canonical wRotationAndDrillsComplete2 = true ∧
      (clus wRotationAndDrillsComplete2 (1#1 : BitVec 1).toNat).holding = false) := by
  decide +kernel


def wSupervisionEventsComplete0 : Device := has [(W.SUP_ACT_UV_ACT, 17, 1), (W.SSO_STATUS_ASSERTED, 0, 0)] (setArr (withRail 17 { enabled := true, pg := true } (up .run)) W.SSO_ASSOC_ASSOC 17 5)
def wSupervisionEventsComplete1 : Device := withRail 17 { ph := .rampUp, enabled := true } (up .run)
def wSupervisionEventsComplete2 : Device := withRail 31 { enabled := true, trip := 4, live := 4 } (up .run)
def wSupervisionEventsComplete4 : Device := has [(W.SUP_ACT_OC_ACT, 17, 1), (W.SUP_OC_OC_TH, 17, 1)] (setArr (withRail 17 { enabled := true, pg := true } (up .run)) W.SSO_ASSOC_ASSOC 17 5)
def wSupervisionEventsComplete5 : Device := withRail 17 { enabled := true } (up .run)
def wSupervisionEventsComplete6 : Device := has [(W.SUP_ACT_OC_ACT, 23, 2)] (setArr (withRail 23 { enabled := true, pg := true } (up .run)) W.SSO_ASSOC_ASSOC 23 5)
def wSupervisionEventsComplete7 : Device := withRail 23 {} (up .run)

/-- Blocks and operands that meet the premises of the clauses of `Obligations.SupervisionEventsComplete`. -/
theorem witness_SupervisionEventsComplete :
    (canonical wSupervisionEventsComplete0 = true ∧
      compActs wSupervisionEventsComplete0 (17#5 : BitVec 5).toNat (3#2 : BitVec 2).toNat = true ∧
      (rail wSupervisionEventsComplete0 (17#5 : BitVec 5).toNat).trip.testBit (3#2 : BitVec 2).toNat = false ∧
      compTests wSupervisionEventsComplete0 (17#5 : BitVec 5).toNat = []) ∧
    (canonical wSupervisionEventsComplete1 = true ∧
      ((compActs wSupervisionEventsComplete1 (17#5 : BitVec 5).toNat (3#2 : BitVec 2).toNat = false ∨ (rail
        wSupervisionEventsComplete1 (17#5 : BitVec 5).toNat).trip.testBit (3#2 : BitVec 2).toNat = true)) ∧
      compTests wSupervisionEventsComplete1 (17#5 : BitVec 5).toNat = []) ∧
    (canonical wSupervisionEventsComplete2 = true ∧
      (2#3 : BitVec 3).toNat ≤ 4 ∧
      (1 : Nat) = cmpClass (2#3 : BitVec 3).toNat ∧
      compTests wSupervisionEventsComplete2 (31#5 : BitVec 5).toNat = []) ∧
    (canonical wSupervisionEventsComplete2 = true ∧
      4 < (5#3 : BitVec 3).toNat) ∧
    (canonical wSupervisionEventsComplete4 = true ∧
      (17#5 : BitVec 5).toNat < 18 ∧
      fld wSupervisionEventsComplete4 W.SUP_OC_OC_TH (17#5 : BitVec 5).toNat ≠ 0 ∧
      configured wSupervisionEventsComplete4 (17#5 : BitVec 5).toNat = true ∧
      (((rail wSupervisionEventsComplete4 (17#5 : BitVec 5).toNat).enabled = true ∨ gatedNow wSupervisionEventsComplete4
        (17#5 : BitVec 5).toNat = true)) ∧
      (rail wSupervisionEventsComplete4 (17#5 : BitVec 5).toNat).trip.testBit 4 = false) ∧
    (canonical wSupervisionEventsComplete5 = true ∧
      ((18 ≤ (17#5 : BitVec 5).toNat ∨ fld wSupervisionEventsComplete5 W.SUP_OC_OC_TH (17#5 : BitVec 5).toNat = 0 ∨
        configured wSupervisionEventsComplete5 (17#5 : BitVec 5).toNat = false ∨ ((rail wSupervisionEventsComplete5 (17#5 :
        BitVec 5).toNat).enabled = false ∧ gatedNow wSupervisionEventsComplete5 (17#5 : BitVec 5).toNat = false) ∨ (rail
        wSupervisionEventsComplete5 (17#5 : BitVec 5).toNat).trip.testBit 4 = true))) ∧
    (canonical wSupervisionEventsComplete6 = true ∧
      18 ≤ (23#5 : BitVec 5).toNat ∧
      (23#5 : BitVec 5).toNat < 24 ∧
      configured wSupervisionEventsComplete6 (23#5 : BitVec 5).toNat = true ∧
      (((rail wSupervisionEventsComplete6 (23#5 : BitVec 5).toNat).enabled = true ∨ gatedNow wSupervisionEventsComplete6
        (23#5 : BitVec 5).toNat = true)) ∧
      (rail wSupervisionEventsComplete6 (23#5 : BitVec 5).toNat).trip.testBit 4 = false) ∧
    (canonical wSupervisionEventsComplete7 = true ∧
      (((23#5 : BitVec 5).toNat < 18 ∨ 24 ≤ (23#5 : BitVec 5).toNat ∨ configured wSupervisionEventsComplete7 (23#5 : BitVec
        5).toNat = false ∨ ((rail wSupervisionEventsComplete7 (23#5 : BitVec 5).toNat).enabled = false ∧ gatedNow
        wSupervisionEventsComplete7 (23#5 : BitVec 5).toNat = false) ∨ (rail wSupervisionEventsComplete7 (23#5 : BitVec
        5).toNat).trip.testBit 4 = true))) := by
  decide +kernel


def wInputLossComplete0 : Device := has [(W.BK_STATUS_PACK_PRESENT, 0, 1), (W.BK_STATUS_BK_STATE, 0, 2)] { up .run with adc := { last := [(97, 10000)] } }
def wInputLossComplete1 : Device := has [(W.BK_STATUS_PACK_PRESENT, 0, 1), (W.BK_STATUS_BK_STATE, 0, 2), (W.MODE_CTRL_INPUT_LOSS_CONT, 0, 1)] { withRail 31 { enabled := true } (up .run) with adc := { last := [(97, 10000)] } }
def wInputLossComplete2 : Device := up .run
def wInputLossComplete3 : Device := has [(W.BK_STATUS_PACK_PRESENT, 0, 1), (W.BK_STATUS_BK_STATE, 0, 2)] { up .ramp with adc := { last := [(97, 10000)] } }
def wInputLossComplete4 : Device := has [(W.MODE_CTRL_INPUT_LOSS_CONT, 0, 1)] (withRail 31 { enabled := true } (up .ramp))
def wInputLossComplete5 : Device := has [(W.BK_STATUS_PACK_PRESENT, 0, 1), (W.BK_STATUS_BK_STATE, 0, 2)] { up .retain with adc := { last := [(97, 10000)] } }
def wInputLossComplete6 : Device := has [(W.BK_STATUS_PACK_PRESENT, 0, 1), (W.BK_STATUS_BK_STATE, 0, 5)] { up .holdup with adc := { last := [(97, 10000)] } }
def wInputLossComplete7 : Device := up .standby
def wInputLossComplete8 : Device := has [(W.BK_STATUS_PACK_PRESENT, 0, 1), (W.BK_STATUS_BK_STATE, 0, 2)] { withRail 0 { held := true } (up .boot) with adc := { last := [(97, 10000)] }, core := { hardHeld := true, recMode := .ease } }
def wInputLossComplete9 : Device := { up .boot with core := { hardHeld := true, recMode := .ease } }
def wInputLossComplete10 : Device := up .boot
def wInputLossComplete11 : Device := has [(W.BK_STATUS_VSUP_LOW, 0, 1), (W.MODE_STATUS_HOLDUP_PENDING, 0, 1)] (up .holdup)
def wInputLossComplete12 : Device := up .dormant
def wInputLossComplete13 : Device := has [(W.BK_STATUS_BK_STATE, 0, 4)] (up .holdup)
def wInputLossComplete14 : Device := has [(W.BK_STATUS_BK_STATE, 0, 4)] (up .retain)
def wInputLossComplete15 : Device := has [(W.BK_STATUS_BK_STATE, 0, 4), (W.BK_STATUS_VSUP_LOW, 0, 1)] (up .holdup)
def wInputLossComplete16 : Device := has [(W.BK_STATUS_BK_STATE, 0, 5)] (up .run)
def wInputLossComplete17 : Device := has [(W.BK_STATUS_BK_STATE, 0, 4)] (up .run)
def wInputLossComplete18 : Device := has [(W.BK_STATUS_BK_STATE, 0, 1)] { up .run with power := { handWait := true } }
def wInputLossComplete19 : Device := has [(W.BK_STATUS_BK_STATE, 0, 1), (W.CHG_STATUS_CHG_STATE, 0, 8), (W.CHG_STATUS_ZONE, 0, 2)] { up .run with power := { handWait := true, left := 4 } }
def wInputLossComplete21 : Device := has [(W.BK_STATUS_BK_STATE, 0, 3), (W.BK_STATUS_IDG_ON, 0, 1)] (up .holdup)
def wInputLossComplete26 : Device := up .holdup
def wInputLossComplete27 : Device := has [(W.BK_STATUS_INLIM, 0, 1)] (up .run)

/-- Blocks and operands that meet the premises of the clauses of `Obligations.InputLossComplete`, part 1 of 3. -/
theorem witness_InputLossComplete_part1 :
    (canonical wInputLossComplete0 = true ∧
      ((wInputLossComplete0.mode = .run ∨ wInputLossComplete0.mode = .ease)) ∧
      fastStopped wInputLossComplete0 = false ∧
      wInputLossComplete0.core.porHeld = false ∧
      aboveReserve wInputLossComplete0 = true ∧
      flag wInputLossComplete0 W.MODE_CTRL_INPUT_LOSS_CONT = false ∧
      ((fld wInputLossComplete0 W.GAUGE_STATUS_ANCHOR = 0 ∨ fld wInputLossComplete0 W.GAUGE_STATUS_USABLE ≠ 0 ∨ ridesLine
        wInputLossComplete0 = true))) ∧
    (canonical wInputLossComplete1 = true ∧
      ((wInputLossComplete1.mode = .run ∨ wInputLossComplete1.mode = .ease)) ∧
      fastStopped wInputLossComplete1 = false ∧
      wInputLossComplete1.core.porHeld = false ∧
      aboveReserve wInputLossComplete1 = true ∧
      ((flag wInputLossComplete1 W.MODE_CTRL_INPUT_LOSS_CONT = true ∨ (fld wInputLossComplete1 W.GAUGE_STATUS_ANCHOR ≠ 0 ∧
        fld wInputLossComplete1 W.GAUGE_STATUS_USABLE = 0 ∧ ridesLine wInputLossComplete1 = false))) ∧
      (rail wInputLossComplete1 (31 : Fin 32)).enabled = true ∧
      (rail wInputLossComplete1 (31 : Fin 32)).fallFail = false) ∧
    (canonical wInputLossComplete2 = true ∧
      ((wInputLossComplete2.mode = .run ∨ wInputLossComplete2.mode = .ease)) ∧
      fastStopped wInputLossComplete2 = false ∧
      wInputLossComplete2.core.porHeld = false ∧
      aboveReserve wInputLossComplete2 = false) ∧
    (canonical wInputLossComplete3 = true ∧
      wInputLossComplete3.mode = .ramp ∧
      fastStopped wInputLossComplete3 = false ∧
      wInputLossComplete3.core.porHeld = false ∧
      flag wInputLossComplete3 W.MODE_CTRL_INPUT_LOSS_CONT = false) ∧
    (canonical wInputLossComplete4 = true ∧
      wInputLossComplete4.mode = .ramp ∧
      fastStopped wInputLossComplete4 = false ∧
      wInputLossComplete4.core.porHeld = false ∧
      flag wInputLossComplete4 W.MODE_CTRL_INPUT_LOSS_CONT = true ∧
      (rail wInputLossComplete4 (31 : Fin 32)).enabled = true ∧
      (rail wInputLossComplete4 (31 : Fin 32)).fallFail = false) := by
  decide +kernel

/-- Blocks and operands that meet the premises of the clauses of `Obligations.InputLossComplete`, part 2 of 3. -/
theorem witness_InputLossComplete_part2 :
    (canonical wInputLossComplete5 = true ∧
      inMode wInputLossComplete5 [.run, .ease, .ramp, .holdup, .dormant, .standby] = false ∧
      fastStopped wInputLossComplete5 = false ∧
      wInputLossComplete5.core.porHeld = false) ∧
    (canonical wInputLossComplete6 = true ∧
      wInputLossComplete6.mode = .holdup ∧
      fastStopped wInputLossComplete6 = false ∧
      wInputLossComplete6.core.porHeld = false ∧
      flag wInputLossComplete6 W.MODE_CTRL_INPUT_LOSS_CONT = false ∧
      ((fld wInputLossComplete6 W.GAUGE_STATUS_ANCHOR = 0 ∨ fld wInputLossComplete6 W.GAUGE_STATUS_USABLE ≠ 0 ∨ ridesLine
        wInputLossComplete6 = true))) ∧
    (canonical wInputLossComplete7 = true ∧
      ((inMode wInputLossComplete7 [.dormant, .standby] = true ∨ fastStopped wInputLossComplete7 = true ∨
        wInputLossComplete7.core.porHeld = true))) ∧
    (canonical wInputLossComplete8 = true ∧
      fastStopped wInputLossComplete8 = true ∧
      (true : Bool) = true ∧
      flag wInputLossComplete8 W.BK_STATUS_PACK_PRESENT = true ∧
      (bkState wInputLossComplete8 ≠ 7 ∧ bkState wInputLossComplete8 ≠ 8 ∧ bkState wInputLossComplete8 ≠ 9)) ∧
    (canonical wInputLossComplete9 = true ∧
      fastStopped wInputLossComplete9 = true ∧
      (((true : Bool) = false ∨ flag wInputLossComplete9 W.BK_STATUS_PACK_PRESENT = false ∨ bkState wInputLossComplete9 = 7 ∨
        bkState wInputLossComplete9 = 8 ∨ bkState wInputLossComplete9 = 9))) ∧
    (canonical wInputLossComplete10 = true ∧
      fastStopped wInputLossComplete10 = false) ∧
    (canonical wInputLossComplete11 = true ∧
      wInputLossComplete11.mode ≠ .dormant ∧
      wInputLossComplete11.core.porHeld = false) ∧
    (canonical wInputLossComplete12 = true ∧
      ((wInputLossComplete12.mode = .dormant ∨ wInputLossComplete12.core.porHeld = true))) ∧
    (canonical wInputLossComplete13 = true ∧
      flag wInputLossComplete13 W.BK_STATUS_VSUP_LOW = false ∧
      wInputLossComplete13.mode = .holdup) ∧
    (canonical wInputLossComplete14 = true ∧
      flag wInputLossComplete14 W.BK_STATUS_VSUP_LOW = false ∧
      wInputLossComplete14.mode ≠ .holdup) := by
  decide +kernel

/-- Blocks and operands that meet the premises of the clauses of `Obligations.InputLossComplete`, part 3 of 3. -/
theorem witness_InputLossComplete_part3 :
    (canonical wInputLossComplete15 = true ∧
      flag wInputLossComplete15 W.BK_STATUS_VSUP_LOW = true) ∧
    (canonical wInputLossComplete16 = true ∧
      bkState wInputLossComplete16 = 5) ∧
    (canonical wInputLossComplete17 = true ∧
      bkState wInputLossComplete17 ≠ 5) ∧
    (canonical wInputLossComplete18 = true ∧
      wInputLossComplete18.power.handWait = true ∧
      ((chgState wInputLossComplete18 ≠ 8 ∨ suspCause
        { wInputLossComplete18 with power := { wInputLossComplete18.power with handWait := false } } ≠ 0))) ∧
    (canonical wInputLossComplete19 = true ∧
      wInputLossComplete19.power.handWait = true ∧
      chgState wInputLossComplete19 = 8 ∧
      wInputLossComplete19.power.left < 8 ∧
      suspCause { wInputLossComplete19 with power := { wInputLossComplete19.power with handWait := false } } = 0) ∧
    (canonical wInputLossComplete2 = true ∧
      wInputLossComplete2.power.handWait = false) ∧
    (canonical wInputLossComplete21 = true ∧
      wInputLossComplete21.mode ≠ .dormant) ∧
    (canonical wInputLossComplete12 = true ∧
      wInputLossComplete12.mode = .dormant) ∧
    (canonical wInputLossComplete13 = true ∧
      wInputLossComplete13.mode ≠ .dormant) ∧
    (canonical wInputLossComplete12 = true ∧
      wInputLossComplete12.mode = .dormant) ∧
    (canonical wInputLossComplete13 = true ∧
      3 ≤ bkState wInputLossComplete13 ∧
      bkState wInputLossComplete13 ≤ 6) ∧
    (canonical wInputLossComplete26 = true ∧
      ((bkState wInputLossComplete26 < 3 ∨ 6 < bkState wInputLossComplete26))) ∧
    (canonical wInputLossComplete27 = true ∧
      flag wInputLossComplete27 W.BK_STATUS_INLIM = true) ∧
    (canonical wInputLossComplete2 = true ∧
      flag wInputLossComplete2 W.BK_STATUS_INLIM = false) := by
  decide +kernel


def wPackEventsComplete0 : Device := has [(W.BK_STATUS_BK_STATE, 0, 6)] (up .run)
def wPackEventsComplete1 : Device := up .run
def wPackEventsComplete2 : Device := has [(W.BK_STATUS_BK_STATE, 0, 8), (W.BK_STATUS_CUTOFF, 0, 1), (W.CHG_CTRL_CHG_EN, 0, 1), (W.CHG_STATUS_CHG_STATE, 0, 4), (W.CHG_STATUS_ZONE, 0, 2)] { up .run with power := { cut := true } }
def wPackEventsComplete4 : Device := has [(W.BK_STATUS_BK_STATE, 0, 2), (W.BK_STATUS_PACK_PRESENT, 0, 1), (W.CHG_CTRL_CHG_EN, 0, 1), (W.CHG_STATUS_CHG_STATE, 0, 4), (W.GAUGE_STATUS_ANCHOR, 0, 1)] { up .run with gauge := { rem := 360000000 } }
def wPackEventsComplete5 : Device := has [(W.BK_STATUS_BK_STATE, 0, 2), (W.CHG_STATUS_CHG_STATE, 0, 4)] (up .run)
def wPackEventsComplete6 : Device := up .standby
def wPackEventsComplete7 : Device := has [(W.BK_STATUS_BK_STATE, 0, 7), (W.CHG_STATUS_CHG_STATE, 0, 1), (W.CHG_CTRL_CHG_EN, 0, 1), (W.CHG_SET_CV, 0, 410), (W.CHG_FAULT_CHG_TIMEOUT, 0, 1)] { up .run with adc := { last := [(97, 900)] } }
def wPackEventsComplete8 : Device := has [(W.CHG_STATUS_CHG_STATE, 0, 1), (W.CHG_CTRL_CHG_EN, 0, 1), (W.CHG_SET_CV, 0, 410)] { up .run with adc := { last := [(97, 2000)] } }
def wPackEventsComplete9 : Device := has [(W.CHG_STATUS_CHG_STATE, 0, 1), (W.CHG_CTRL_CHG_EN, 0, 1), (W.CHG_SET_CV, 0, 410)] { up .run with adc := { last := [(97, 20)] } }
def wPackEventsComplete13 : Device := up .boot
def wPackEventsComplete14 : Device := withRail 31 { enabled := true } (up .holdup)
def wPackEventsComplete15 : Device := has [(W.GAUGE_STATUS_ANCHOR, 0, 2)] (up .holdup)

/-- Blocks and operands that meet the premises of the clauses of `Obligations.PackEventsComplete`, part 1 of 2. -/
theorem witness_PackEventsComplete_part1 :
    (canonical wPackEventsComplete0 = true ∧
      3 ≤ bkState wPackEventsComplete0 ∧
      bkState wPackEventsComplete0 ≤ 6) ∧
    (canonical wPackEventsComplete1 = true ∧
      ((bkState wPackEventsComplete1 < 3 ∨ 6 < bkState wPackEventsComplete1))) ∧
    (canonical wPackEventsComplete2 = true ∧
      wPackEventsComplete2.power.cut = true ∧
      chargingPossible wPackEventsComplete2 = true) ∧
    (canonical wPackEventsComplete1 = true ∧
      ((wPackEventsComplete1.power.cut = false ∨ chargingPossible wPackEventsComplete1 = false))) ∧
    (canonical wPackEventsComplete4 = true ∧
      (false : Bool) = false ∧
      adcOn wPackEventsComplete4 = true) ∧
    (canonical wPackEventsComplete5 = true ∧
      (true : Bool) = true ∧
      adcOn wPackEventsComplete5 = true ∧
      bkState wPackEventsComplete5 = 2) ∧
    (canonical wPackEventsComplete6 = true ∧
      ((adcOn wPackEventsComplete6 = false ∨ ((true : Bool) = true ∧ bkState wPackEventsComplete6 ≠ 2)))) ∧
    (canonical wPackEventsComplete7 = true ∧
      adcOn wPackEventsComplete7 = true ∧
      chgState wPackEventsComplete7 = 1 ∧
      flag wPackEventsComplete7 W.CHG_CTRL_CHG_EN = true ∧
      nCells wPackEventsComplete7 * 1000 ≤ vpackMv wPackEventsComplete7 ∧
      vpackMv wPackEventsComplete7 ≤ nCells wPackEventsComplete7 * (cvEff wPackEventsComplete7 + 50)) ∧
    (canonical wPackEventsComplete8 = true ∧
      adcOn wPackEventsComplete8 = true ∧
      chgState wPackEventsComplete8 = 1 ∧
      flag wPackEventsComplete8 W.CHG_CTRL_CHG_EN = true ∧
      nCells wPackEventsComplete8 * (cvEff wPackEventsComplete8 + 50) < vpackMv wPackEventsComplete8) := by
  decide +kernel

/-- Blocks and operands that meet the premises of the clauses of `Obligations.PackEventsComplete`, part 2 of 2. -/
theorem witness_PackEventsComplete_part2 :
    (canonical wPackEventsComplete9 = true ∧
      adcOn wPackEventsComplete9 = true ∧
      chgState wPackEventsComplete9 = 1 ∧
      flag wPackEventsComplete9 W.CHG_CTRL_CHG_EN = true ∧
      vpackMv wPackEventsComplete9 ≤ nCells wPackEventsComplete9 * (cvEff wPackEventsComplete9 + 50) ∧
      vpackMv wPackEventsComplete9 < nCells wPackEventsComplete9 * 1000) ∧
    (canonical wPackEventsComplete1 = true ∧
      adcOn wPackEventsComplete1 = true ∧
      ((chgState wPackEventsComplete1 ≠ 1 ∨ flag wPackEventsComplete1 W.CHG_CTRL_CHG_EN = false))) ∧
    (canonical wPackEventsComplete6 = true ∧
      adcOn wPackEventsComplete6 = false) ∧
    (canonical wPackEventsComplete5 = true ∧
      hcdOn wPackEventsComplete5 = true) ∧
    (canonical wPackEventsComplete13 = true ∧
      hcdOn wPackEventsComplete13 = false) ∧
    (canonical wPackEventsComplete14 = true ∧
      (rail wPackEventsComplete14 (31 : Fin 32)).enabled = true ∧
      (rail wPackEventsComplete14 (31 : Fin 32)).fallFail = false ∧
      wPackEventsComplete14.mode = .holdup ∧
      fld wPackEventsComplete14 W.GAUGE_STATUS_ANCHOR = 0 ∧
      ridesLine wPackEventsComplete14 = false) ∧
    (canonical wPackEventsComplete15 = true ∧
      ((wPackEventsComplete15.mode ≠ .holdup ∨ fld wPackEventsComplete15 W.GAUGE_STATUS_ANCHOR ≠ 0 ∨ ridesLine
        wPackEventsComplete15 = true))) := by
  decide +kernel


def wChargerCommandsComplete0 : Device := has [(W.CHG_WD_WD_PERIOD, 0, 160), (W.CHG_STATUS_WD_SAFE, 0, 1)] { up .run with power := { wdOut := true } }
def wChargerCommandsComplete1 : Device := { up .replay with power := { wdOut := true } }
def wChargerCommandsComplete2 : Device := has [(W.CHG_FAULT_BK_FAULT, 0, 1), (W.BK_STATUS_BK_STATE, 0, 9), (W.CHG_STATUS_CHG_STATE, 0, 9)] { up .run with power := { fault := true } }
def wChargerCommandsComplete3 : Device := has [(W.BK_STATUS_BK_STATE, 0, 9), (W.BK_STATUS_VSUP_LOW, 0, 1)] (up .run)
def wChargerCommandsComplete4 : Device := has [(W.CHG_STATUS_CHG_STATE, 0, 5), (W.BK_STATUS_BK_STATE, 0, 2)] (up .run)
def wChargerCommandsComplete5 : Device := has [(W.CHG_CTRL_CHG_EN, 0, 1), (W.CHG_STATUS_CHG_STATE, 0, 4), (W.CHG_FAULT_CHG_TIMEOUT, 0, 1), (W.CHG_STATUS_ZONE, 0, 2), (W.BK_STATUS_BK_STATE, 0, 2)] (up .run)
def wChargerCommandsComplete6 : Device := has [(W.CHG_CTRL_CHG_EN, 0, 1), (W.CHG_STATUS_CHG_STATE, 0, 5), (W.CHG_STATUS_ZONE, 0, 2), (W.BK_STATUS_BK_STATE, 0, 2)] (up .holdup)
def wChargerCommandsComplete7 : Device := has [(W.CHG_CTRL_CHG_EN, 0, 1), (W.CHG_STATUS_CHG_STATE, 0, 8), (W.CHG_STATUS_ZONE, 0, 2)] { up .run with power := { left := 4 } }
def wChargerCommandsComplete8 : Device := has [(W.CHG_CTRL_CHG_EN, 0, 1), (W.CHG_STATUS_CHG_STATE, 0, 2), (W.CHG_SET_CV, 0, 410)] { up .run with adc := { last := [(97, 900)] } }
def wChargerCommandsComplete9 : Device := has [(W.CHG_CTRL_CHG_EN, 0, 1), (W.CHG_STATUS_CHG_STATE, 0, 3), (W.CHG_STATUS_ZONE, 0, 2), (W.BK_STATUS_BK_STATE, 0, 1)] { up .run with power := { ticks4 := 3 } }
def wChargerCommandsComplete10 : Device := has [(W.CHG_CTRL_CHG_EN, 0, 1), (W.CHG_STATUS_CHG_STATE, 0, 1)] (up .run)
def wChargerCommandsComplete11 : Device := { up .run with power := { ntc := [250, 251] } }
def wChargerCommandsComplete12 : Device := up .run
def wChargerCommandsComplete13 : Device := up .standby
def wChargerCommandsComplete14 : Device := { up .run with power := { ntc := [250, 251, 252, 253] } }
def wChargerCommandsComplete17 : Device := has [(W.CHG_STATUS_CHG_STATE, 0, 5), (W.CHG_STATUS_TERM_COUNTING, 0, 1), (W.CHG_STATUS_ZONE, 0, 2), (W.GAUGE_FCC_FCC, 0, 20000), (W.BK_STATUS_BK_STATE, 0, 2)] { up .run with power := { term := 64 } }
def wChargerCommandsComplete18 : Device := has [(W.CHG_STATUS_CHG_STATE, 0, 5), (W.CHG_STATUS_TERM_COUNTING, 0, 1), (W.CHG_STATUS_ZONE, 0, 2), (W.BK_STATUS_BK_STATE, 0, 2)] { up .run with power := { term := 64 } }
def wChargerCommandsComplete20 : Device := has [(W.CHG_STATUS_CHG_STATE, 0, 3)] { up .run with power := { pre := 1800 } }
def wChargerCommandsComplete21 : Device := has [(W.CHG_STATUS_CHG_STATE, 0, 8), (W.CHG_CTRL_FAST_TMR, 0, 0)] { up .run with power := { wall := 7200 } }
def wChargerCommandsComplete22 : Device := has [(W.CHG_STATUS_CHG_STATE, 0, 3)] { up .run with power := { pre := 1799 } }
def wChargerCommandsComplete23 : Device := has [(W.CHG_WD_WD_EN, 0, 1), (W.CHG_WD_WD_PERIOD, 0, 10)] (up .run)
def wChargerCommandsComplete24 : Device := { up .run with power := { wdOut := true } }

/-- Blocks and operands that meet the premises of the clauses of `Obligations.ChargerCommandsComplete`, part 1 of 4. -/
theorem witness_ChargerCommandsComplete_part1 :
    (canonical wChargerCommandsComplete0 = true ∧
      engineOn wChargerCommandsComplete0 = true ∧
      modeOk .live wChargerCommandsComplete0 = true) ∧
    (canonical wChargerCommandsComplete1 = true ∧
      engineOn wChargerCommandsComplete1 = true ∧
      modeOk .live wChargerCommandsComplete1 = false) ∧
    (canonical wChargerCommandsComplete2 = true ∧
      engineOn wChargerCommandsComplete2 = true ∧
      modeOk .live wChargerCommandsComplete2 = true ∧
      ((flag wChargerCommandsComplete2 W.BK_STATUS_VSUP_LOW = false ∨ (bkState wChargerCommandsComplete2 ≠ 9 ∧
        wChargerCommandsComplete2.power.fault = false)))) ∧
    (canonical wChargerCommandsComplete3 = true ∧
      engineOn wChargerCommandsComplete3 = true ∧
      firstFail [(modeOk .live wChargerCommandsComplete3, .deniedMode), (!((bkState wChargerCommandsComplete3 = 9 ||
        wChargerCommandsComplete3.power.fault) && flag wChargerCommandsComplete3 W.BK_STATUS_VSUP_LOW), .busy)] = some (.busy
        : Status)) ∧
    (canonical wChargerCommandsComplete4 = true ∧
      adcOn wChargerCommandsComplete4 = true ∧
      flag wChargerCommandsComplete4 W.CHG_CTRL_CHG_EN = false) ∧
    (canonical wChargerCommandsComplete5 = true ∧
      adcOn wChargerCommandsComplete5 = true ∧
      flag wChargerCommandsComplete5 W.CHG_CTRL_CHG_EN = true ∧
      chargingState (chgState wChargerCommandsComplete5) = true ∧
      chgFaulty wChargerCommandsComplete5 = true) ∧
    (canonical wChargerCommandsComplete6 = true ∧
      adcOn wChargerCommandsComplete6 = true ∧
      flag wChargerCommandsComplete6 W.CHG_CTRL_CHG_EN = true ∧
      3 ≤ chgState wChargerCommandsComplete6 ∧
      chgState wChargerCommandsComplete6 ≤ 7 ∧
      chgFaulty wChargerCommandsComplete6 = false ∧
      suspCause (evalZone wChargerCommandsComplete6) ≠ 0) ∧
    (canonical wChargerCommandsComplete7 = true ∧
      adcOn wChargerCommandsComplete7 = true ∧
      flag wChargerCommandsComplete7 W.CHG_CTRL_CHG_EN = true ∧
      chgState wChargerCommandsComplete7 = 8 ∧
      chgFaulty wChargerCommandsComplete7 = false ∧
      (0 : Nat) = suspCause (evalZone wChargerCommandsComplete7) ∧
      wChargerCommandsComplete7.power.left < 8) := by
  decide +kernel

/-- Blocks and operands that meet the premises of the clauses of `Obligations.ChargerCommandsComplete`, part 2 of 4. -/
theorem witness_ChargerCommandsComplete_part2 :
    (canonical wChargerCommandsComplete8 = true ∧
      adcOn wChargerCommandsComplete8 = true ∧
      flag wChargerCommandsComplete8 W.CHG_CTRL_CHG_EN = true ∧
      chgState wChargerCommandsComplete8 = 2) ∧
    (canonical wChargerCommandsComplete9 = true ∧
      adcOn wChargerCommandsComplete9 = true ∧
      flag wChargerCommandsComplete9 W.CHG_CTRL_CHG_EN = true ∧
      chgFaulty wChargerCommandsComplete9 = false ∧
      suspCause (evalZone wChargerCommandsComplete9) = 0) ∧
    (canonical wChargerCommandsComplete10 = true ∧
      adcOn wChargerCommandsComplete10 = true ∧
      flag wChargerCommandsComplete10 W.CHG_CTRL_CHG_EN = true ∧
      ((chgState wChargerCommandsComplete10 < 2 ∨ 8 < chgState wChargerCommandsComplete10))) ∧
    (canonical wChargerCommandsComplete11 = true ∧
      adcOn wChargerCommandsComplete11 = true ∧
      wChargerCommandsComplete11.power.ntc ≠ [] ∧
      (501 : Int) = wChargerCommandsComplete11.power.ntc.foldl (· + ·) 0 ∧
      (2 : Int) = wChargerCommandsComplete11.power.ntc.length ∧
      wChargerCommandsComplete11.power.placed = false) ∧
    (canonical wChargerCommandsComplete12 = true ∧
      adcOn wChargerCommandsComplete12 = true) ∧
    (canonical wChargerCommandsComplete13 = true ∧
      adcOn wChargerCommandsComplete13 = false) ∧
    (canonical wChargerCommandsComplete14 = true ∧
      adcOn wChargerCommandsComplete14 = true ∧
      (false : Bool) = false) ∧
    (canonical wChargerCommandsComplete12 = true ∧
      adcOn wChargerCommandsComplete12 = true ∧
      (true : Bool) = true) ∧
    (canonical wChargerCommandsComplete13 = true ∧
      adcOn wChargerCommandsComplete13 = false) := by
  decide +kernel

/-- Blocks and operands that meet the premises of the clauses of `Obligations.ChargerCommandsComplete`, part 3 of 4. -/
theorem witness_ChargerCommandsComplete_part3 :
    (canonical wChargerCommandsComplete17 = true ∧
      (false : Bool) = false ∧
      chgState wChargerCommandsComplete17 = 5 ∧
      64 ≤ wChargerCommandsComplete17.power.term ∧
      flag wChargerCommandsComplete17 W.CHG_STATUS_TERM_COUNTING = true ∧
      (false : Bool) = (chgZone wChargerCommandsComplete17 = 1 || chgZone wChargerCommandsComplete17 = 3)) ∧
    (canonical wChargerCommandsComplete18 = true ∧
      (true : Bool) = true ∧
      adcOn wChargerCommandsComplete18 = true) ∧
    (canonical wChargerCommandsComplete12 = true ∧
      ((((false : Bool) = true ∧ adcOn wChargerCommandsComplete12 = false) ∨ ((false : Bool) = false ∧ (chgState
        wChargerCommandsComplete12 ≠ 5 ∨ wChargerCommandsComplete12.power.term < 64 ∨ flag wChargerCommandsComplete12
        W.CHG_STATUS_TERM_COUNTING = false))))) ∧
    (canonical wChargerCommandsComplete20 = true ∧
      flag wChargerCommandsComplete20 W.CHG_FAULT_CHG_TIMEOUT = false ∧
      chgState wChargerCommandsComplete20 = 3 ∧
      1800 ≤ wChargerCommandsComplete20.power.pre) ∧
    (canonical wChargerCommandsComplete21 = true ∧
      flag wChargerCommandsComplete21 W.CHG_FAULT_CHG_TIMEOUT = false ∧
      ((((chgState wChargerCommandsComplete21 = 4 ∨ chgState wChargerCommandsComplete21 = 5) ∧ 2 * fastLimit
        wChargerCommandsComplete21 ≤ wChargerCommandsComplete21.power.fast) ∨ ((chgState wChargerCommandsComplete21 = 4 ∨
        chgState wChargerCommandsComplete21 = 5 ∨ chgState wChargerCommandsComplete21 = 8) ∧ 2 * fastLimit
        wChargerCommandsComplete21 ≤ wChargerCommandsComplete21.power.wall)))) ∧
    (canonical wChargerCommandsComplete22 = true ∧
      ((flag wChargerCommandsComplete22 W.CHG_FAULT_CHG_TIMEOUT = true ∨ (chgState wChargerCommandsComplete22 ≠ 3 ∧ chgState
        wChargerCommandsComplete22 ≠ 4 ∧ chgState wChargerCommandsComplete22 ≠ 5 ∧ chgState wChargerCommandsComplete22 ≠ 8) ∨
        (chgState wChargerCommandsComplete22 = 3 ∧ wChargerCommandsComplete22.power.pre < 1800) ∨ ((chgState
        wChargerCommandsComplete22 = 4 ∨ chgState wChargerCommandsComplete22 = 5) ∧ wChargerCommandsComplete22.power.fast < 2
        * fastLimit wChargerCommandsComplete22 ∧ wChargerCommandsComplete22.power.wall < 2 * fastLimit
        wChargerCommandsComplete22) ∨ (chgState wChargerCommandsComplete22 = 8 ∧ wChargerCommandsComplete22.power.wall < 2 *
        fastLimit wChargerCommandsComplete22)))) ∧
    (canonical wChargerCommandsComplete23 = true ∧
      flag wChargerCommandsComplete23 W.CHG_WD_WD_EN = true ∧
      wChargerCommandsComplete23.power.wdOut = false ∧
      inMode wChargerCommandsComplete23 [.dormant, .standby] = false) := by
  decide +kernel

/-- Blocks and operands that meet the premises of the clauses of `Obligations.ChargerCommandsComplete`, part 4 of 4. -/
theorem witness_ChargerCommandsComplete_part4 :
    (canonical wChargerCommandsComplete24 = true ∧
      ((flag wChargerCommandsComplete24 W.CHG_WD_WD_EN = false ∨ wChargerCommandsComplete24.power.wdOut = true ∨ inMode
        wChargerCommandsComplete24 [.dormant, .standby] = true))) := by
  decide +kernel


def wGaugeEventsComplete0 : Device := has [(W.GAUGE_CFG_I_QUIET, 0, 2), (W.BK_SNS_RSNS_PK, 0, 100)] { up .run with gauge := { rem := -5, below := 999 } }
def wGaugeEventsComplete1 : Device := has [(W.BK_SNS_RSNS_PK, 0, 100)] { up .run with gauge := { rem := 5, emptyCnt := 7, emptyArmed := true } }
def wGaugeEventsComplete2 : Device := up .standby
def wGaugeEventsComplete3 : Device := has [(W.GAUGE_CFG_I_QUIET, 0, 2), (W.BK_SNS_RSNS_PK, 0, 100), (W.GAUGE_STATUS_QUIET, 0, 1), (W.GAUGE_I_I_PACK, 0, 65533)] (up .run)
def wGaugeEventsComplete4 : Device := up .run
def wGaugeEventsComplete5 : Device := has [(W.GAUGE_STATUS_QUIET, 0, 1), (W.GAUGE_I_I_PACK, 0, 65533)] { up .run with roofTime := 400000000000, gauge := { restFrom := some 1, rests := 2 } }
def wGaugeEventsComplete7 : Device := { up .run with gauge := { emptyArmed := false } }
def wGaugeEventsComplete8 : Device := has [(W.GAUGE_FCC_FCC, 0, 20000), (W.GAUGE_CFG_MARGIN_PCT, 0, 5), (W.GAUGE_STATUS_ANCHOR, 0, 1)] { up .run with gauge := { rem := 5040000000 } }
def wGaugeEventsComplete10 : Device := has [(W.TRUST_STATUS_THATCH_STATE, 0, 2), (W.GAUGE_FCC_FCC, 0, 20000)] { up .run with gauge := { rem := 7, removed := true, maxI := 3 } }

/-- Blocks and operands that meet the premises of the clauses of `Obligations.GaugeEventsComplete`. -/
theorem witness_GaugeEventsComplete :
    (canonical wGaugeEventsComplete0 = true ∧
      gaugeOn wGaugeEventsComplete0 = true ∧
      (-19 : Int) = packCurrent (-19000 : Int) wGaugeEventsComplete0 ∧
      (false : Bool) = (vpackMv wGaugeEventsComplete0 ≤ nCells wGaugeEventsComplete0 * vEmpty wGaugeEventsComplete0 && (-19 :
        Int) ≤ -(iQuiet wGaugeEventsComplete0 : Int)) ∧
      (((false : Bool) = false ∨ wGaugeEventsComplete0.gauge.emptyCnt < 7 ∨ wGaugeEventsComplete0.gauge.emptyArmed = false))) ∧
    (canonical wGaugeEventsComplete1 = true ∧
      gaugeOn wGaugeEventsComplete1 = true ∧
      vpackMv wGaugeEventsComplete1 ≤ nCells wGaugeEventsComplete1 * vEmpty wGaugeEventsComplete1 ∧
      packCurrent (-19000 : Int) wGaugeEventsComplete1 ≤ -(iQuiet wGaugeEventsComplete1 : Int) ∧
      7 ≤ wGaugeEventsComplete1.gauge.emptyCnt ∧
      wGaugeEventsComplete1.gauge.emptyArmed = true) ∧
    (canonical wGaugeEventsComplete2 = true ∧
      gaugeOn wGaugeEventsComplete2 = false) ∧
    (canonical wGaugeEventsComplete3 = true ∧
      gaugeOn wGaugeEventsComplete3 = true ∧
      flag wGaugeEventsComplete3 W.GAUGE_STATUS_QUIET = true ∧
      (-3 : Int) = packCurrent (-3000 : Int) wGaugeEventsComplete3) ∧
    (canonical wGaugeEventsComplete4 = true ∧
      ((gaugeOn wGaugeEventsComplete4 = false ∨ flag wGaugeEventsComplete4 W.GAUGE_STATUS_QUIET = false))) ∧
    (canonical wGaugeEventsComplete5 = true ∧
      gaugeOn wGaugeEventsComplete5 = true ∧
      flag wGaugeEventsComplete5 W.GAUGE_STATUS_QUIET = true) ∧
    (canonical wGaugeEventsComplete4 = true ∧
      ((gaugeOn wGaugeEventsComplete4 = false ∨ flag wGaugeEventsComplete4 W.GAUGE_STATUS_QUIET = false))) ∧
    (canonical wGaugeEventsComplete7 = true) ∧
    (canonical wGaugeEventsComplete8 = true ∧
      gaugeOn wGaugeEventsComplete8 = true) ∧
    (canonical wGaugeEventsComplete2 = true ∧
      gaugeOn wGaugeEventsComplete2 = false) ∧
    (canonical wGaugeEventsComplete10 = true ∧
      gaugeOn wGaugeEventsComplete10 = true ∧
      thatchReady wGaugeEventsComplete10 = true) ∧
    (canonical wGaugeEventsComplete4 = true ∧
      ((gaugeOn wGaugeEventsComplete4 = false ∨ thatchReady wGaugeEventsComplete4 = false))) := by
  decide +kernel


def wFramesAndSlotsComplete0 : Device := has [(W.ROOF_STATUS_PART, 0, 4)] { holding 0 .run with roofTime := 12345, link := { driven := 17 } }
def wFramesAndSlotsComplete1 : Device := { holding 0 .run with roofTime := 12345, link := { driven := 17, down := some (2, 13) } }
def wFramesAndSlotsComplete2 : Device := linked 4 .run
def wFramesAndSlotsComplete3 : Device := has [(W.ROOF_STATUS_PART, 0, 4), (W.LNK_STATUS_HOLDOVER, 0, 1)] { linked 4 .run with link := { known := true } }
def wFramesAndSlotsComplete5 : Device := { linked 1 .run with link := { heard := true } }
def wFramesAndSlotsComplete6 : Device := linked 9 .run
def wFramesAndSlotsComplete7 : Device := holding 0 .run
def wFramesAndSlotsComplete8 : Device := has [(W.ROOF_STATUS_PART, 0, 4), (W.LNK_TX_ABANDONED, 0, 65535)] { linked 4 .run with roofTime := 5000 }
def wFramesAndSlotsComplete9 : Device := { linked 4 .run with link := { urgOut := [urg 1 0, urg 0 3] } }
def wFramesAndSlotsComplete10 : Device := { holding 0 .run with link := { calResp := [{ target := 6, kind := 1, value := -5, seq := 255 }] } }
def wFramesAndSlotsComplete11 : Device := { linked 3 .boot with link := { calSeq := 255 } }
def wFramesAndSlotsComplete12 : Device := { linked 4 .run with roofTime := 16000 }
def wFramesAndSlotsComplete13 : Device := { linked 4 .run with roofTime := 8000 }
def wFramesAndSlotsComplete14 : Device := { linked 4 .run with roofTime := 1000, link := { q16 := [(10, 1#32, 2#32)] } }
def wFramesAndSlotsComplete15 : Device := { linked 4 .run with roofTime := 1000 }
def wFramesAndSlotsComplete16 : Device := { linked 4 .run with roofTime := 1000, link := { busyTo := 2000 } }
def wFramesAndSlotsComplete17 : Device := linked 1 .run
def wFramesAndSlotsComplete18 : Device := has [(W.LNK_CTRL_ERR_TH, 0, 1), (W.LNK_ERRCNT_ERRORS, 7, 65534)] (linked 4 .run)
def wFramesAndSlotsComplete27 : Device := { holding 0 .run with link := { peers := [(5, { digest := some 7 })] } }
def wFramesAndSlotsComplete33 : Device := { linked 3 .run with link := { placed := 3 } }
def wFramesAndSlotsComplete34 : Device := { linked 2 .run with link := { placed := 3, guardSent := true } }
def wFramesAndSlotsComplete38 : Device := { holding 0 .run with link := { known := true, fn := 14 } }
def wFramesAndSlotsComplete39 : Device := { linked 2 .run with link := { cycle := 4 } }
def wFramesAndSlotsComplete40 : Device := linked 2 .run

/-- Blocks and operands that meet the premises of the clauses of `Obligations.FramesAndSlotsComplete`, part 1 of 7. -/
theorem witness_FramesAndSlotsComplete_part1 :
    (canonical wFramesAndSlotsComplete0 = true ∧
      isHolder wFramesAndSlotsComplete0 = true ∧
      linkState wFramesAndSlotsComplete0 ≠ 0 ∧
      linkState wFramesAndSlotsComplete0 ≠ 9 ∧
      (13000 : Nat) = (if wFramesAndSlotsComplete0.link.driven = 0 then (wFramesAndSlotsComplete0.roofTime + 999) / 1000 *
        1000 else (wFramesAndSlotsComplete0.roofTime / 1000 + 1) * 1000) ∧
      wFramesAndSlotsComplete0.link.down = none ∧
      wFramesAndSlotsComplete0.vly.endAt = none) ∧
    (canonical wFramesAndSlotsComplete1 = true ∧
      isHolder wFramesAndSlotsComplete1 = true ∧
      linkState wFramesAndSlotsComplete1 ≠ 0 ∧
      linkState wFramesAndSlotsComplete1 ≠ 9 ∧
      (13000 : Nat) = (if wFramesAndSlotsComplete1.link.driven = 0 then (wFramesAndSlotsComplete1.roofTime + 999) / 1000 *
        1000 else (wFramesAndSlotsComplete1.roofTime / 1000 + 1) * 1000)) ∧
    (canonical wFramesAndSlotsComplete2 = true ∧
      ((isHolder wFramesAndSlotsComplete2 = false ∨ linkState wFramesAndSlotsComplete2 = 0 ∨ linkState
        wFramesAndSlotsComplete2 = 9))) ∧
    (canonical wFramesAndSlotsComplete3 = true ∧
      linkState wFramesAndSlotsComplete3 ≠ 0 ∧
      linkState wFramesAndSlotsComplete3 ≠ 9 ∧
      isHolder wFramesAndSlotsComplete3 = false ∧
      ((wFramesAndSlotsComplete3.link.known = true ∨ wFramesAndSlotsComplete3.link.cycle = 8)) ∧
      ((linkState wFramesAndSlotsComplete3 ≠ 1 ∨ (true : Bool) = false)) ∧
      wFramesAndSlotsComplete3.link.down = none ∧
      wFramesAndSlotsComplete3.vly.endAt = none) ∧
    (canonical wFramesAndSlotsComplete3 = true ∧
      linkState wFramesAndSlotsComplete3 ≠ 0 ∧
      linkState wFramesAndSlotsComplete3 ≠ 9 ∧
      isHolder wFramesAndSlotsComplete3 = false ∧
      ((wFramesAndSlotsComplete3.link.known = true ∨ wFramesAndSlotsComplete3.link.cycle = 8))) ∧
    (canonical wFramesAndSlotsComplete5 = true ∧
      linkState wFramesAndSlotsComplete5 ≠ 0 ∧
      linkState wFramesAndSlotsComplete5 ≠ 9 ∧
      isHolder wFramesAndSlotsComplete5 = false ∧
      wFramesAndSlotsComplete5.link.known = false ∧
      wFramesAndSlotsComplete5.link.cycle ≠ 8) ∧
    (canonical wFramesAndSlotsComplete6 = true ∧
      linkState wFramesAndSlotsComplete6 = 9 ∧
      isHolder wFramesAndSlotsComplete6 = false) := by
  decide +kernel

/-- Blocks and operands that meet the premises of the clauses of `Obligations.FramesAndSlotsComplete`, part 2 of 7. -/
theorem witness_FramesAndSlotsComplete_part2 :
    (canonical wFramesAndSlotsComplete7 = true ∧
      ((linkState wFramesAndSlotsComplete7 = 0 ∨ isHolder wFramesAndSlotsComplete7 = true))) ∧
    (canonical wFramesAndSlotsComplete8 = true ∧
      (3 ≤ linkState wFramesAndSlotsComplete8 ∧ linkState wFramesAndSlotsComplete8 ≤ 7) ∧
      (5400 : Nat) = wFramesAndSlotsComplete8.roofTime / 1000 * 1000 + (4 + 12 * strapOf wFramesAndSlotsComplete8) * 10 ∧
      wFramesAndSlotsComplete8.link.busyTo ≤ (5400 : Nat) ∧
      (true : Bool) = true) ∧
    (canonical wFramesAndSlotsComplete9 = true ∧
      (3 ≤ linkState wFramesAndSlotsComplete9 ∧ linkState wFramesAndSlotsComplete9 ≤ 7) ∧
      (400 : Nat) = wFramesAndSlotsComplete9.roofTime / 1000 * 1000 + (4 + 12 * strapOf wFramesAndSlotsComplete9) * 10 ∧
      wFramesAndSlotsComplete9.link.busyTo ≤ (400 : Nat) ∧
      partOf wFramesAndSlotsComplete9 ≠ 4 ∧
      (false : Bool) = false ∧
      wFramesAndSlotsComplete9.link.urgOut = (urg 1 0 : Urg) :: ([urg 0 3] : List Urg)) ∧
    (canonical wFramesAndSlotsComplete10 = true ∧
      (3 ≤ linkState wFramesAndSlotsComplete10 ∧ linkState wFramesAndSlotsComplete10 ≤ 7) ∧
      (400 : Nat) = wFramesAndSlotsComplete10.roofTime / 1000 * 1000 + (4 + 12 * strapOf wFramesAndSlotsComplete10) * 10 ∧
      wFramesAndSlotsComplete10.link.busyTo ≤ (400 : Nat) ∧
      partOf wFramesAndSlotsComplete10 ≠ 4 ∧
      (false : Bool) = false ∧
      wFramesAndSlotsComplete10.link.urgOut = [] ∧
      isHolder wFramesAndSlotsComplete10 = true ∧
      wFramesAndSlotsComplete10.link.calResp = ({ target := 6, kind := 1, value := -5, seq := 255 } : CalResp) :: ([] : List
        CalResp)) ∧
    (canonical wFramesAndSlotsComplete11 = true ∧
      linkState wFramesAndSlotsComplete11 = 3 ∧
      (400 : Nat) = wFramesAndSlotsComplete11.roofTime / 1000 * 1000 + (4 + 12 * strapOf wFramesAndSlotsComplete11) * 10 ∧
      wFramesAndSlotsComplete11.link.busyTo ≤ (400 : Nat) ∧
      partOf wFramesAndSlotsComplete11 ≠ 4 ∧
      (false : Bool) = false ∧
      wFramesAndSlotsComplete11.link.urgOut = [] ∧
      isHolder wFramesAndSlotsComplete11 = false) := by
  decide +kernel

/-- Blocks and operands that meet the premises of the clauses of `Obligations.FramesAndSlotsComplete`, part 3 of 7. -/
theorem witness_FramesAndSlotsComplete_part3 :
    (canonical wFramesAndSlotsComplete12 = true ∧
      (3 ≤ linkState wFramesAndSlotsComplete12 ∧ linkState wFramesAndSlotsComplete12 ≤ 7) ∧
      (16400 : Nat) = wFramesAndSlotsComplete12.roofTime / 1000 * 1000 + (4 + 12 * strapOf wFramesAndSlotsComplete12) * 10 ∧
      wFramesAndSlotsComplete12.link.busyTo ≤ (16400 : Nat) ∧
      (false : Bool) = false ∧
      ((partOf wFramesAndSlotsComplete12 = 4 ∨ (wFramesAndSlotsComplete12.link.urgOut = [] ∧
        (wFramesAndSlotsComplete12.link.calResp = [] ∨ isHolder wFramesAndSlotsComplete12 = false) ∧ (isHolder
        wFramesAndSlotsComplete12 = true ∨ linkState wFramesAndSlotsComplete12 ≠ 3) ∧ max wFramesAndSlotsComplete12.roofTime
        (16400 : Nat) / 1000 % 16 = 0)))) ∧
    (canonical wFramesAndSlotsComplete13 = true ∧
      (3 ≤ linkState wFramesAndSlotsComplete13 ∧ linkState wFramesAndSlotsComplete13 ≤ 7) ∧
      (8400 : Nat) = wFramesAndSlotsComplete13.roofTime / 1000 * 1000 + (4 + 12 * strapOf wFramesAndSlotsComplete13) * 10 ∧
      wFramesAndSlotsComplete13.link.busyTo ≤ (8400 : Nat) ∧
      (false : Bool) = false ∧
      partOf wFramesAndSlotsComplete13 ≠ 4 ∧
      wFramesAndSlotsComplete13.link.urgOut = [] ∧
      ((wFramesAndSlotsComplete13.link.calResp = [] ∨ isHolder wFramesAndSlotsComplete13 = false)) ∧
      ((isHolder wFramesAndSlotsComplete13 = true ∨ linkState wFramesAndSlotsComplete13 ≠ 3)) ∧
      max wFramesAndSlotsComplete13.roofTime (8400 : Nat) / 1000 % 16 = 8) ∧
    (canonical wFramesAndSlotsComplete14 = true ∧
      (3 ≤ linkState wFramesAndSlotsComplete14 ∧ linkState wFramesAndSlotsComplete14 ≤ 7) ∧
      (1400 : Nat) = wFramesAndSlotsComplete14.roofTime / 1000 * 1000 + (4 + 12 * strapOf wFramesAndSlotsComplete14) * 10 ∧
      (1 : Nat) = max wFramesAndSlotsComplete14.roofTime (1400 : Nat) / 1000 ∧
      wFramesAndSlotsComplete14.link.busyTo ≤ (1400 : Nat) ∧
      (false : Bool) = false ∧
      partOf wFramesAndSlotsComplete14 ≠ 4 ∧
      wFramesAndSlotsComplete14.link.urgOut = [] ∧
      ((wFramesAndSlotsComplete14.link.calResp = [] ∨ isHolder wFramesAndSlotsComplete14 = false)) ∧
      ((isHolder wFramesAndSlotsComplete14 = true ∨ linkState wFramesAndSlotsComplete14 ≠ 3)) ∧
      (1 : Nat) % 8 ≠ 0 ∧
      wFramesAndSlotsComplete14.link.q16 = ((10 : Nat), (1#32 : Word), (2#32 : Word)) :: ([] : List (Nat × Word × Word))) := by
  decide +kernel

/-- Blocks and operands that meet the premises of the clauses of `Obligations.FramesAndSlotsComplete`, part 4 of 7. -/
theorem witness_FramesAndSlotsComplete_part4 :
    (canonical wFramesAndSlotsComplete15 = true ∧
      (3 ≤ linkState wFramesAndSlotsComplete15 ∧ linkState wFramesAndSlotsComplete15 ≤ 7) ∧
      (1400 : Nat) = wFramesAndSlotsComplete15.roofTime / 1000 * 1000 + (4 + 12 * strapOf wFramesAndSlotsComplete15) * 10 ∧
      wFramesAndSlotsComplete15.link.busyTo ≤ (1400 : Nat) ∧
      (false : Bool) = false ∧
      partOf wFramesAndSlotsComplete15 ≠ 4 ∧
      wFramesAndSlotsComplete15.link.urgOut = [] ∧
      ((wFramesAndSlotsComplete15.link.calResp = [] ∨ isHolder wFramesAndSlotsComplete15 = false)) ∧
      ((isHolder wFramesAndSlotsComplete15 = true ∨ linkState wFramesAndSlotsComplete15 ≠ 3)) ∧
      max wFramesAndSlotsComplete15.roofTime (1400 : Nat) / 1000 % 8 ≠ 0 ∧
      wFramesAndSlotsComplete15.link.q16 = []) ∧
    (canonical wFramesAndSlotsComplete16 = true ∧
      (3 ≤ linkState wFramesAndSlotsComplete16 ∧ linkState wFramesAndSlotsComplete16 ≤ 7) ∧
      wFramesAndSlotsComplete16.roofTime / 1000 * 1000 + (4 + 12 * strapOf wFramesAndSlotsComplete16) * 10 <
        wFramesAndSlotsComplete16.link.busyTo) ∧
    (canonical wFramesAndSlotsComplete17 = true ∧
      ((linkState wFramesAndSlotsComplete17 < 3 ∨ linkState wFramesAndSlotsComplete17 = 8 ∨ linkState
        wFramesAndSlotsComplete17 = 9))) ∧
    (canonical wFramesAndSlotsComplete18 = true ∧
      hears wFramesAndSlotsComplete18 = true) ∧
    (canonical wFramesAndSlotsComplete17 = true ∧
      hears wFramesAndSlotsComplete17 = false) ∧
    (canonical wFramesAndSlotsComplete2 = true ∧
      hears wFramesAndSlotsComplete2 = true ∧
      (6#3 : BitVec 3).toNat ≠ strapOf wFramesAndSlotsComplete2 ∧
      partOf wFramesAndSlotsComplete2 ≠ 4) ∧
    (canonical wFramesAndSlotsComplete6 = true ∧
      linkState wFramesAndSlotsComplete6 = 9) ∧
    (canonical wFramesAndSlotsComplete17 = true ∧
      linkState wFramesAndSlotsComplete17 ≠ 9 ∧
      ((hears wFramesAndSlotsComplete17 = false ∨ (6#3 : BitVec 3).toNat = strapOf wFramesAndSlotsComplete17 ∨ partOf
        wFramesAndSlotsComplete17 = 4))) ∧
    (canonical wFramesAndSlotsComplete2 = true ∧
      hears wFramesAndSlotsComplete2 = true ∧
      (6#3 : BitVec 3).toNat ≠ strapOf wFramesAndSlotsComplete2) := by
  decide +kernel

/-- Blocks and operands that meet the premises of the clauses of `Obligations.FramesAndSlotsComplete`, part 5 of 7. -/
theorem witness_FramesAndSlotsComplete_part5 :
    (canonical wFramesAndSlotsComplete6 = true ∧
      linkState wFramesAndSlotsComplete6 = 9 ∧
      partOf wFramesAndSlotsComplete6 ≠ 4) ∧
    (canonical wFramesAndSlotsComplete17 = true ∧
      (((linkState wFramesAndSlotsComplete17 ≠ 9 ∧ hears wFramesAndSlotsComplete17 = false) ∨ (linkState
        wFramesAndSlotsComplete17 ≠ 9 ∧ (6#3 : BitVec 3).toNat = strapOf wFramesAndSlotsComplete17)))) ∧
    (canonical wFramesAndSlotsComplete2 = true ∧
      hears wFramesAndSlotsComplete2 = true ∧
      (6#3 : BitVec 3).toNat ≠ strapOf wFramesAndSlotsComplete2 ∧
      partOf wFramesAndSlotsComplete2 ≠ 4) ∧
    (canonical wFramesAndSlotsComplete27 = true ∧
      hears wFramesAndSlotsComplete27 = true ∧
      (6#3 : BitVec 3).toNat ≠ strapOf wFramesAndSlotsComplete27 ∧
      partOf wFramesAndSlotsComplete27 ≠ 4 ∧
      ((4#4 : BitVec 4) ≠ 7#4 ∧ (4#4 : BitVec 4) ≠ 8#4 ∧ (4#4 : BitVec 4) ≠ 2#4) ∧
      isHolder wFramesAndSlotsComplete27 = true ∧
      (7#64 : BitVec 64).toNat ≠ wFramesAndSlotsComplete27.otp.digest ∧
      (5 : Nat) ≠ strapOf wFramesAndSlotsComplete27 ∧
      (5 : Nat) ≠ (6#3 : BitVec 3).toNat ∧
      (5 : Nat) < 8 ∧
      present wFramesAndSlotsComplete27 (5 : Nat) = true ∧
      (peer wFramesAndSlotsComplete27 (5 : Nat)).digest = some (7#64 : BitVec 64).toNat ∧
      ((List.range 8).filter (fun x => x ≠ strapOf wFramesAndSlotsComplete27 && x ≠ (6#3 : BitVec 3).toNat && present
        wFramesAndSlotsComplete27 x)).all (fun x => (peer wFramesAndSlotsComplete27 x).digest ≠ some
        wFramesAndSlotsComplete27.otp.digest) = true) ∧
    (canonical wFramesAndSlotsComplete6 = true ∧
      linkState wFramesAndSlotsComplete6 = 9) ∧
    (canonical wFramesAndSlotsComplete17 = true ∧
      linkState wFramesAndSlotsComplete17 ≠ 9 ∧
      ((hears wFramesAndSlotsComplete17 = false ∨ (6#3 : BitVec 3).toNat = strapOf wFramesAndSlotsComplete17 ∨ partOf
        wFramesAndSlotsComplete17 = 4))) ∧
    (canonical wFramesAndSlotsComplete7 = true ∧
      hears wFramesAndSlotsComplete7 = true ∧
      (6#3 : BitVec 3).toNat ≠ strapOf wFramesAndSlotsComplete7 ∧
      partOf wFramesAndSlotsComplete7 ≠ 4) := by
  decide +kernel

/-- Blocks and operands that meet the premises of the clauses of `Obligations.FramesAndSlotsComplete`, part 6 of 7. -/
theorem witness_FramesAndSlotsComplete_part6 :
    (canonical wFramesAndSlotsComplete6 = true ∧
      linkState wFramesAndSlotsComplete6 = 9) ∧
    (canonical wFramesAndSlotsComplete17 = true ∧
      linkState wFramesAndSlotsComplete17 ≠ 9 ∧
      ((hears wFramesAndSlotsComplete17 = false ∨ (6#3 : BitVec 3).toNat = strapOf wFramesAndSlotsComplete17 ∨ partOf
        wFramesAndSlotsComplete17 = 4))) ∧
    (canonical wFramesAndSlotsComplete33 = true ∧
      linkState wFramesAndSlotsComplete33 = 3 ∧
      (5#3 : BitVec 3).toNat ≠ strapOf wFramesAndSlotsComplete33 ∧
      (5#3 : BitVec 3).toNat = fld wFramesAndSlotsComplete33 W.LNK_STATUS_HOLDER ∧
      (3#8 : BitVec 8).toNat = strapOf wFramesAndSlotsComplete33 ∧
      partOf wFramesAndSlotsComplete33 ≠ 4 ∧
      (1#8 : BitVec 8) = 1#8) ∧
    (canonical wFramesAndSlotsComplete34 = true ∧
      linkState wFramesAndSlotsComplete34 = 2 ∧
      wFramesAndSlotsComplete34.link.guardSent = true ∧
      (5#3 : BitVec 3).toNat ≠ strapOf wFramesAndSlotsComplete34 ∧
      (5#3 : BitVec 3).toNat = fld wFramesAndSlotsComplete34 W.LNK_STATUS_HOLDER ∧
      (3#8 : BitVec 8).toNat = strapOf wFramesAndSlotsComplete34 ∧
      partOf wFramesAndSlotsComplete34 ≠ 4 ∧
      (0#8 : BitVec 8) = 0#8) ∧
    (canonical wFramesAndSlotsComplete33 = true ∧
      hears wFramesAndSlotsComplete33 = true ∧
      (5#3 : BitVec 3).toNat ≠ strapOf wFramesAndSlotsComplete33 ∧
      partOf wFramesAndSlotsComplete33 ≠ 4 ∧
      (((4#8 : BitVec 8).toNat ≠ strapOf wFramesAndSlotsComplete33 ∨ (5#3 : BitVec 3).toNat ≠ fld wFramesAndSlotsComplete33
        W.LNK_STATUS_HOLDER ∨ 2 ≤ (1#8 : BitVec 8).toNat ∨ ((1#8 : BitVec 8) = 0#8 ∧ (linkState wFramesAndSlotsComplete33 ≠ 2
        ∨ wFramesAndSlotsComplete33.link.guardSent = false)) ∨ ((1#8 : BitVec 8) = 1#8 ∧ linkState wFramesAndSlotsComplete33
        ≠ 3)))) ∧
    (canonical wFramesAndSlotsComplete6 = true ∧
      linkState wFramesAndSlotsComplete6 = 9) ∧
    (canonical wFramesAndSlotsComplete17 = true ∧
      linkState wFramesAndSlotsComplete17 ≠ 9 ∧
      ((hears wFramesAndSlotsComplete17 = false ∨ (5#3 : BitVec 3).toNat = strapOf wFramesAndSlotsComplete17 ∨ partOf
        wFramesAndSlotsComplete17 = 4))) ∧
    (canonical wFramesAndSlotsComplete38 = true ∧
      frameOfEight wFramesAndSlotsComplete38 = some (6#3 : BitVec 3).toNat ∧
      isHolder wFramesAndSlotsComplete38 = true ∧
      (6#3 : BitVec 3).toNat ≠ strapOf wFramesAndSlotsComplete38) := by
  decide +kernel

/-- Blocks and operands that meet the premises of the clauses of `Obligations.FramesAndSlotsComplete`, part 7 of 7. -/
theorem witness_FramesAndSlotsComplete_part7 :
    (canonical wFramesAndSlotsComplete39 = true ∧
      frameOfEight wFramesAndSlotsComplete39 = some (3#3 : BitVec 3).toNat ∧
      linkState wFramesAndSlotsComplete39 = 2 ∧
      (3#3 : BitVec 3).toNat = strapOf wFramesAndSlotsComplete39) ∧
    (canonical wFramesAndSlotsComplete40 = true ∧
      ((frameOfEight wFramesAndSlotsComplete40 ≠ some (3#3 : BitVec 3).toNat ∨ (isHolder wFramesAndSlotsComplete40 = false ∧
        linkState wFramesAndSlotsComplete40 ≠ 2) ∨ ((3#3 : BitVec 3).toNat = strapOf wFramesAndSlotsComplete40 ∧ linkState
        wFramesAndSlotsComplete40 ≠ 2) ∨ (isHolder wFramesAndSlotsComplete40 = false ∧ (3#3 : BitVec 3).toNat ≠ strapOf
        wFramesAndSlotsComplete40)))) := by
  decide +kernel


def wHoldersAndErrorsComplete0 : Device := has [(W.COLD_STATUS_LINK_UNDISCIPLINED, 0, 1)] { up .boot with link := { startAt := 9 } }
def wHoldersAndErrorsComplete1 : Device := { has [(W.LNK_STATUS_DISCIPLINED, 0, 0)] (holding 0 .boot) with link := { driven := 17 } }
def wHoldersAndErrorsComplete2 : Device := { linked 3 .boot with link := { placed := 4, known := true, acq := some 5, fn := 21 } }
def wHoldersAndErrorsComplete3 : Device := { linked 3 .boot with link := { placed := 3 } }
def wHoldersAndErrorsComplete4 : Device := has [(W.ROOF_STATUS_PART, 0, 0)] { linked 1 .boot with otp := { State.reset.dev.otp with roofRec := some { required := 8, optional := 0, minCompat := 0, proto := Config.linkMajor, degraded := false } } }
def wHoldersAndErrorsComplete5 : Device := linked 4 .run
def wHoldersAndErrorsComplete6 : Device := { holding 0 .run with link := { handTo := some 1, fn := 31 } }
def wHoldersAndErrorsComplete7 : Device := { linked 4 .run with link := { handTo := some 3, fn := 31 } }
def wHoldersAndErrorsComplete9 : Device := { linked 4 .run with link := { claims := 255 } }
def wHoldersAndErrorsComplete10 : Device := linked 3 .run
def wHoldersAndErrorsComplete11 : Device := has [(W.LNK_STATUS_DISCIPLINED, 0, 1)] { linked 6 .run with link := { claims := 12 } }
def wHoldersAndErrorsComplete12 : Device := has [(W.LNK_STATUS_DISCIPLINED, 0, 1)] { linked 6 .run with link := { claims := 24 } }
def wHoldersAndErrorsComplete13 : Device := linked 6 .run
def wHoldersAndErrorsComplete14 : Device := has [(W.LNK_STATUS_DISCIPLINED, 0, 1)] (linked 5 .run)
def wHoldersAndErrorsComplete15 : Device := linked 1 .run
def wHoldersAndErrorsComplete17 : Device := holding 3 .run
def wHoldersAndErrorsComplete22 : Device := up .run
def wHoldersAndErrorsComplete23 : Device := has [(W.LNK_TX_URGENT_SENT, 0, 65535)] { linked 4 .run with link := { urgOut := [urg 1 0] }, roofTime := 999 }

/-- Blocks and operands that meet the premises of the clauses of `Obligations.HoldersAndErrorsComplete`, part 1 of 3. -/
theorem witness_HoldersAndErrorsComplete_part1 :
    (canonical wHoldersAndErrorsComplete0 = true ∧
      flag wHoldersAndErrorsComplete0 W.LNK_STATUS_DISCIPLINED = false ∧
      alone wHoldersAndErrorsComplete0 = true ∧
      4 ≤ fld wHoldersAndErrorsComplete0 W.MODE_STATUS_BOOT_STAGE ∧
      inMode wHoldersAndErrorsComplete0 [.dormant, .standby] = false) ∧
    (canonical wHoldersAndErrorsComplete1 = true ∧
      flag wHoldersAndErrorsComplete1 W.LNK_STATUS_DISCIPLINED = false ∧
      alone wHoldersAndErrorsComplete1 = false ∧
      isHolder wHoldersAndErrorsComplete1 = true ∧
      17 ≤ wHoldersAndErrorsComplete1.link.driven) ∧
    (canonical wHoldersAndErrorsComplete2 = true ∧
      flag wHoldersAndErrorsComplete2 W.LNK_STATUS_DISCIPLINED = false ∧
      alone wHoldersAndErrorsComplete2 = false ∧
      isHolder wHoldersAndErrorsComplete2 = false ∧
      linkState wHoldersAndErrorsComplete2 = 3 ∧
      4 ≤ wHoldersAndErrorsComplete2.link.placed ∧
      wHoldersAndErrorsComplete2.link.known = true ∧
      wHoldersAndErrorsComplete2.link.acq = some (5 : Nat) ∧
      (5 : Nat) + 16 ≤ wHoldersAndErrorsComplete2.link.fn) ∧
    (canonical wHoldersAndErrorsComplete3 = true ∧
      ((flag wHoldersAndErrorsComplete3 W.LNK_STATUS_DISCIPLINED = true ∨ (alone wHoldersAndErrorsComplete3 = true ∧ (fld
        wHoldersAndErrorsComplete3 W.MODE_STATUS_BOOT_STAGE < 4 ∨ inMode wHoldersAndErrorsComplete3 [.dormant, .standby] =
        true)) ∨ (alone wHoldersAndErrorsComplete3 = false ∧ isHolder wHoldersAndErrorsComplete3 = true ∧
        wHoldersAndErrorsComplete3.link.driven < 17) ∨ (alone wHoldersAndErrorsComplete3 = false ∧ isHolder
        wHoldersAndErrorsComplete3 = false ∧ (linkState wHoldersAndErrorsComplete3 ≠ 3 ∨
        wHoldersAndErrorsComplete3.link.placed < 4 ∨ wHoldersAndErrorsComplete3.link.known = false ∨
        wHoldersAndErrorsComplete3.link.acq.all (fun f => wHoldersAndErrorsComplete3.link.fn < f + 16) = true))))) ∧
    (canonical wHoldersAndErrorsComplete5 = true ∧
      ((linkEn wHoldersAndErrorsComplete5 = false ∨ linkState wHoldersAndErrorsComplete5 ≠ 1 ∨ linkEligible
        wHoldersAndErrorsComplete5 = false ∨ wHoldersAndErrorsComplete5.link.heard = true))) ∧
    (canonical wHoldersAndErrorsComplete6 = true ∧
      wHoldersAndErrorsComplete6.link.handTo = some (1 : Nat) ∧
      (1 : Nat) < 8 ∧
      linkState wHoldersAndErrorsComplete6 ≠ 0 ∧
      wHoldersAndErrorsComplete6.link.fn % 16 = 15 ∧
      (1 : Nat) ≠ strapOf wHoldersAndErrorsComplete6) := by
  decide +kernel

/-- Blocks and operands that meet the premises of the clauses of `Obligations.HoldersAndErrorsComplete`, part 2 of 3. -/
theorem witness_HoldersAndErrorsComplete_part2 :
    (canonical wHoldersAndErrorsComplete7 = true ∧
      wHoldersAndErrorsComplete7.link.handTo = some (3 : Nat) ∧
      linkState wHoldersAndErrorsComplete7 ≠ 0 ∧
      wHoldersAndErrorsComplete7.link.fn % 16 = 15 ∧
      (3 : Nat) = strapOf wHoldersAndErrorsComplete7) ∧
    (canonical wHoldersAndErrorsComplete5 = true ∧
      ((wHoldersAndErrorsComplete5.link.handTo = none ∨ linkState wHoldersAndErrorsComplete5 = 0 ∨
        wHoldersAndErrorsComplete5.link.fn % 16 ≠ 15))) ∧
    (canonical wHoldersAndErrorsComplete9 = true ∧
      isHolder wHoldersAndErrorsComplete9 = false ∧
      ((linkState wHoldersAndErrorsComplete9 = 4 ∨ linkState wHoldersAndErrorsComplete9 = 5))) ∧
    (canonical wHoldersAndErrorsComplete10 = true ∧
      ((isHolder wHoldersAndErrorsComplete10 = true ∨ linkState wHoldersAndErrorsComplete10 < 4 ∨ 5 < linkState
        wHoldersAndErrorsComplete10))) ∧
    (canonical wHoldersAndErrorsComplete11 = true ∧
      bitsIn wHoldersAndErrorsComplete11.link.claims 8 = (2 : Nat) :: ([3] : List Nat) ∧
      linkState wHoldersAndErrorsComplete11 ≠ 0 ∧
      (2 : Nat) ≠ strapOf wHoldersAndErrorsComplete11) ∧
    (canonical wHoldersAndErrorsComplete12 = true ∧
      bitsIn wHoldersAndErrorsComplete12.link.claims 8 = (3 : Nat) :: ([4] : List Nat) ∧
      linkState wHoldersAndErrorsComplete12 ≠ 0 ∧
      (3 : Nat) = strapOf wHoldersAndErrorsComplete12) ∧
    (canonical wHoldersAndErrorsComplete13 = true ∧
      ((bitsIn wHoldersAndErrorsComplete13.link.claims 8 = [] ∨ linkState wHoldersAndErrorsComplete13 = 0))) ∧
    (canonical wHoldersAndErrorsComplete14 = true ∧
      isHolder wHoldersAndErrorsComplete14 = false ∧
      (2 ≤ linkState wHoldersAndErrorsComplete14 ∧ linkState wHoldersAndErrorsComplete14 ≤ 6)) ∧
    (canonical wHoldersAndErrorsComplete15 = true ∧
      ((isHolder wHoldersAndErrorsComplete15 = true ∨ linkState wHoldersAndErrorsComplete15 < 2 ∨ 6 < linkState
        wHoldersAndErrorsComplete15))) ∧
    (canonical wHoldersAndErrorsComplete5 = true ∧
      (fld wHoldersAndErrorsComplete5 W.LNK_STATUS_PRESENT).testBit (5#3 : BitVec 3).toNat = true ∧
      isHolder wHoldersAndErrorsComplete5 = false) ∧
    (canonical wHoldersAndErrorsComplete17 = true ∧
      (fld wHoldersAndErrorsComplete17 W.LNK_STATUS_PRESENT).testBit (5#3 : BitVec 3).toNat = true ∧
      isHolder wHoldersAndErrorsComplete17 = true) ∧
    (canonical wHoldersAndErrorsComplete5 = true ∧
      (fld wHoldersAndErrorsComplete5 W.LNK_STATUS_PRESENT).testBit (6#3 : BitVec 3).toNat = false) := by
  decide +kernel

/-- Blocks and operands that meet the premises of the clauses of `Obligations.HoldersAndErrorsComplete`, part 3 of 3. -/
theorem witness_HoldersAndErrorsComplete_part3 :
    (canonical wHoldersAndErrorsComplete5 = true ∧
      (2 ≤ linkState wHoldersAndErrorsComplete5 ∧ linkState wHoldersAndErrorsComplete5 ≠ 9)) ∧
    (canonical wHoldersAndErrorsComplete15 = true ∧
      ((linkState wHoldersAndErrorsComplete15 < 2 ∨ linkState wHoldersAndErrorsComplete15 = 9))) ∧
    (canonical wHoldersAndErrorsComplete5 = true ∧
      linkState wHoldersAndErrorsComplete5 ≠ 0) ∧
    (canonical wHoldersAndErrorsComplete22 = true ∧
      linkState wHoldersAndErrorsComplete22 = 0) ∧
    (canonical wHoldersAndErrorsComplete23 = true ∧
      wHoldersAndErrorsComplete23.link.urgOut.reverse = (urg 1 0 : Urg) :: ([] : List Urg)) ∧
    (canonical wHoldersAndErrorsComplete5 = true ∧
      wHoldersAndErrorsComplete5.link.urgOut = []) := by
  decide +kernel

/-- The same of its clause 5. -/
theorem witness_HoldersAndErrorsComplete_5 :
    canonical wHoldersAndErrorsComplete4 = true ∧
      linkEn wHoldersAndErrorsComplete4 = true ∧
      linkState wHoldersAndErrorsComplete4 = 1 ∧
      linkEligible wHoldersAndErrorsComplete4 = true ∧
      wHoldersAndErrorsComplete4.link.heard = false := by
  have h1 : flag wHoldersAndErrorsComplete4 W.LNK_CTRL_LINK_EN = true := by decide +kernel
  have h2 : partOf wHoldersAndErrorsComplete4 ≠ 3 := by decide +kernel
  have h3 : wHoldersAndErrorsComplete4.otp.roofRec =
      some { required := 8, optional := 0, minCompat := 0, proto := Config.linkMajor, degraded := false } := rfl
  refine ⟨by decide +kernel, by decide +kernel, by decide +kernel, ?_, by decide +kernel⟩
  simp [linkEligible, h1, h2, h3]

def wUrgentInsertionsComplete0 : Device := withRail 5 { enabled := true, pg := true } (member 3 .run)
def wUrgentInsertionsComplete1 : Device := linked 1 .run
def wUrgentInsertionsComplete9 : Device := withRail 5 { enabled := true, pg := true } (linked 4 .run)
def wUrgentInsertionsComplete10 : Device := withRail 5 { enabled := true, pg := true } (member 3 .ease)
def wUrgentInsertionsComplete11 : Device := { member 1 .boot with seq := { t0 := some 7000 } }
def wUrgentInsertionsComplete13 : Device := partner 2 1 (member 3 .run)
def wUrgentInsertionsComplete14 : Device := member 3 .run
def wUrgentInsertionsComplete15 : Device := partner 1 3 (member 3 .run)
def wUrgentInsertionsComplete16 : Device := member 2 .ramp
def wUrgentInsertionsComplete18 : Device := has [(W.ROOF_STATUS_HOLD_IN_FORCE, 0, 1)] { member 2 .ramp with link := { holds := 32 }, seq := { holdFrom := some 5, t0 := some 1 }, cycles := 9 }
def wUrgentInsertionsComplete19 : Device := linked 4 .run
def wUrgentInsertionsComplete20 : Device := { member 3 .run with link := { acted := [urg 1 0] } }
def wUrgentInsertionsComplete24 : Device := linked 9 .run

/-- Blocks and operands that meet the premises of the clauses of `Obligations.UrgentInsertionsComplete`, part 1 of 4. -/
theorem witness_UrgentInsertionsComplete_part1 :
    (canonical wUrgentInsertionsComplete0 = true ∧
      hears wUrgentInsertionsComplete0 = true) ∧
    (canonical wUrgentInsertionsComplete1 = true ∧
      hears wUrgentInsertionsComplete1 = false) ∧
    (canonical wUrgentInsertionsComplete0 = true ∧
      hears wUrgentInsertionsComplete0 = true) ∧
    (canonical wUrgentInsertionsComplete1 = true ∧
      hears wUrgentInsertionsComplete1 = false) ∧
    (canonical wUrgentInsertionsComplete0 = true ∧
      hears wUrgentInsertionsComplete0 = true) ∧
    (canonical wUrgentInsertionsComplete1 = true ∧
      hears wUrgentInsertionsComplete1 = false) ∧
    (canonical wUrgentInsertionsComplete0 = true ∧
      hears wUrgentInsertionsComplete0 = true) ∧
    (canonical wUrgentInsertionsComplete1 = true ∧
      hears wUrgentInsertionsComplete1 = false) ∧
    (canonical wUrgentInsertionsComplete0 = true ∧
      hears wUrgentInsertionsComplete0 = true ∧
      participating wUrgentInsertionsComplete0 = true ∧
      ((rampToHoldup wUrgentInsertionsComplete0 = true ∨ wUrgentInsertionsComplete0.mode = .descend)) ∧
      wUrgentInsertionsComplete0.seq.desc.all (fun x => x.kind ≠ .fault) = true) ∧
    (canonical wUrgentInsertionsComplete9 = true ∧
      hears wUrgentInsertionsComplete9 = true ∧
      ((participating wUrgentInsertionsComplete9 = false ∨ (rampToHoldup wUrgentInsertionsComplete9 = false ∧
        wUrgentInsertionsComplete9.mode ≠ .descend))) ∧
      wUrgentInsertionsComplete9.seq.holdFrom = none ∧
      wUrgentInsertionsComplete9.link.holds = 0) ∧
    (canonical wUrgentInsertionsComplete10 = true ∧
      hears wUrgentInsertionsComplete10 = true ∧
      participating wUrgentInsertionsComplete10 = true ∧
      rampToHoldup wUrgentInsertionsComplete10 = true ∧
      (rail wUrgentInsertionsComplete10 (5 : Fin 32)).enabled = true ∧
      (rail wUrgentInsertionsComplete10 (5 : Fin 32)).fallFail = false) := by
  decide +kernel

/-- Blocks and operands that meet the premises of the clauses of `Obligations.UrgentInsertionsComplete`, part 2 of 4. -/
theorem witness_UrgentInsertionsComplete_part2 :
    (canonical wUrgentInsertionsComplete11 = true ∧
      hears wUrgentInsertionsComplete11 = true ∧
      participating wUrgentInsertionsComplete11 = true ∧
      wUrgentInsertionsComplete11.mode = .boot ∧
      wUrgentInsertionsComplete11.seq.t0.isSome = true) ∧
    (canonical wUrgentInsertionsComplete9 = true ∧
      hears wUrgentInsertionsComplete9 = true ∧
      ((participating wUrgentInsertionsComplete9 = false ∨ (rampToHoldup wUrgentInsertionsComplete9 = false ∧
        (wUrgentInsertionsComplete9.mode ≠ .boot ∨ wUrgentInsertionsComplete9.seq.t0 = none)))) ∧
      wUrgentInsertionsComplete9.seq.holdFrom = none ∧
      wUrgentInsertionsComplete9.link.holds = 0) ∧
    (canonical wUrgentInsertionsComplete13 = true ∧
      hears wUrgentInsertionsComplete13 = true ∧
      vlyRole wUrgentInsertionsComplete13 ≠ 0 ∧
      wUrgentInsertionsComplete13.vly.swap = none ∧
      (0xA5#8 : BitVec 8).toNat % 8 = fld wUrgentInsertionsComplete13 W.VLY_CONTRACT_SOURCE ∧
      flag wUrgentInsertionsComplete13 W.VLY_STATUS_FS_ARMED = false ∧
      ((standbyAuth wUrgentInsertionsComplete13 = false ∨ vlyRole wUrgentInsertionsComplete13 = 3))) ∧
    (canonical wUrgentInsertionsComplete14 = true ∧
      hears wUrgentInsertionsComplete14 = true ∧
      ((vlyRole wUrgentInsertionsComplete14 = 0 ∨ (wUrgentInsertionsComplete14.vly.swap = none ∧ (0xA5#8 : BitVec 8).toNat %
        8 ≠ fld wUrgentInsertionsComplete14 W.VLY_CONTRACT_SOURCE ∧ vlyRole wUrgentInsertionsComplete14 ≠ 1)))) ∧
    (canonical wUrgentInsertionsComplete15 = true ∧
      hears wUrgentInsertionsComplete15 = true ∧
      vlyRole wUrgentInsertionsComplete15 = 1 ∧
      wUrgentInsertionsComplete15.vly.swap = none ∧
      (0xA5#8 : BitVec 8).toNat % 8 ≠ fld wUrgentInsertionsComplete15 W.VLY_CONTRACT_SOURCE ∧
      (fld wUrgentInsertionsComplete15 W.VLY_CONTRACT_SINKS).testBit ((0xA5#8 : BitVec 8).toNat % 8) = true ∧
      wUrgentInsertionsComplete15.vly.proposed = none ∧
      wUrgentInsertionsComplete15.vly.cur = some (contract3 : Contract) ∧
      wUrgentInsertionsComplete15.link.q16.length < 64) ∧
    (canonical wUrgentInsertionsComplete16 = true ∧
      hears wUrgentInsertionsComplete16 = true ∧
      participating wUrgentInsertionsComplete16 = true) := by
  decide +kernel

/-- Blocks and operands that meet the premises of the clauses of `Obligations.UrgentInsertionsComplete`, part 3 of 4. -/
theorem witness_UrgentInsertionsComplete_part3 :
    (canonical wUrgentInsertionsComplete16 = true ∧
      hears wUrgentInsertionsComplete16 = true ∧
      participating wUrgentInsertionsComplete16 = true ∧
      ((roofPhase wUrgentInsertionsComplete16 = 1 ∨ roofPhase wUrgentInsertionsComplete16 = 2)) ∧
      wUrgentInsertionsComplete16.seq.holdFrom = none ∧
      (0xA1#8 : BitVec 8).toNat % 2 = 1) ∧
    (canonical wUrgentInsertionsComplete18 = true ∧
      hears wUrgentInsertionsComplete18 = true ∧
      participating wUrgentInsertionsComplete18 = true ∧
      wUrgentInsertionsComplete18.seq.holdFrom = some (5 : Nat) ∧
      setBitNat wUrgentInsertionsComplete18.link.holds ((0xA0#8 : BitVec 8).toNat / 32) false = 0 ∧
      (0xA0#8 : BitVec 8).toNat % 2 = 0) ∧
    (canonical wUrgentInsertionsComplete19 = true ∧
      hears wUrgentInsertionsComplete19 = true ∧
      participating wUrgentInsertionsComplete19 = false) ∧
    (canonical wUrgentInsertionsComplete20 = true ∧
      hears wUrgentInsertionsComplete20 = true ∧
      (5#3 : BitVec 3).toNat ≠ strapOf wUrgentInsertionsComplete20 ∧
      partOf wUrgentInsertionsComplete20 ≠ 4 ∧
      ((4#4 : BitVec 4) ≠ 7#4 ∧ (4#4 : BitVec 4) ≠ 8#4) ∧
      wUrgentInsertionsComplete20.link.acted.any (fun v => v.fn == (7#32 : Word).toNat && v.sym == (9#8 : BitVec 8).toNat &&
        v.data == (160#8 : BitVec 8).toNat) = true) ∧
    (canonical wUrgentInsertionsComplete19 = true ∧
      hears wUrgentInsertionsComplete19 = true ∧
      (5#3 : BitVec 3).toNat ≠ strapOf wUrgentInsertionsComplete19 ∧
      partOf wUrgentInsertionsComplete19 ≠ 4 ∧
      ((4#4 : BitVec 4) ≠ 7#4 ∧ (4#4 : BitVec 4) ≠ 8#4) ∧
      wUrgentInsertionsComplete19.link.acted.any (fun v => v.fn == (7#32 : Word).toNat && v.sym == (9#8 : BitVec 8).toNat &&
        v.data == (160#8 : BitVec 8).toNat) = false) := by
  decide +kernel

/-- Blocks and operands that meet the premises of the clauses of `Obligations.UrgentInsertionsComplete`, part 4 of 4. -/
theorem witness_UrgentInsertionsComplete_part4 :
    (canonical wUrgentInsertionsComplete10 = true ∧
      hears wUrgentInsertionsComplete10 = true ∧
      (5#3 : BitVec 3).toNat ≠ strapOf wUrgentInsertionsComplete10 ∧
      partOf wUrgentInsertionsComplete10 ≠ 4 ∧
      ((4#4 : BitVec 4) ≠ 7#4 ∧ (4#4 : BitVec 4) ≠ 8#4) ∧
      wUrgentInsertionsComplete10.link.acted.any (fun v => v.fn == (7#32 : Word).toNat && v.sym == (9#8 : BitVec 8).toNat &&
        v.data == (160#8 : BitVec 8).toNat) = false ∧
      (1#2 : BitVec 2).toNat ≤ 1 ∧
      participating wUrgentInsertionsComplete10 = true ∧
      rampToHoldup wUrgentInsertionsComplete10 = true ∧
      (rail wUrgentInsertionsComplete10 (5 : Fin 32)).enabled = true ∧
      (rail wUrgentInsertionsComplete10 (5 : Fin 32)).fallFail = false ∧
      wUrgentInsertionsComplete10.seq.desc = none) ∧
    (canonical wUrgentInsertionsComplete19 = true ∧
      hears wUrgentInsertionsComplete19 = true ∧
      (5#3 : BitVec 3).toNat ≠ strapOf wUrgentInsertionsComplete19 ∧
      partOf wUrgentInsertionsComplete19 ≠ 4) ∧
    (canonical wUrgentInsertionsComplete24 = true ∧
      linkState wUrgentInsertionsComplete24 = 9) ∧
    (canonical wUrgentInsertionsComplete1 = true ∧
      linkState wUrgentInsertionsComplete1 ≠ 9 ∧
      ((hears wUrgentInsertionsComplete1 = false ∨ (5#3 : BitVec 3).toNat = strapOf wUrgentInsertionsComplete1 ∨ partOf
        wUrgentInsertionsComplete1 = 4))) := by
  decide +kernel


def wRoofAgreementComplete0 : Device := linked 4 .run
def wRoofAgreementComplete1 : Device := linked 9 .run
def wRoofAgreementComplete2 : Device := linked 1 .run
def wRoofAgreementComplete15 : Device := { member 0 .boot with core := { strap := 3, bootReady := true }, link := { fn := 4294967290, annSeen := some 6 } }
def wRoofAgreementComplete16 : Device := member 0 .boot
def wRoofAgreementComplete18 : Device := member 2 .run
def wRoofAgreementComplete19 : Device := member 1 .boot
def wRoofAgreementComplete20 : Device := withRail 5 { enabled := true, pg := true } (member 3 .run)
def wRoofAgreementComplete21 : Device := withRail 5 { enabled := true, pg := true } { member 3 .run with link := { known := true, down := some (0, 7) } }
def wRoofAgreementComplete23 : Device := has [(W.LNK_STATUS_DISCIPLINED, 0, 1)] { holding 0 .boot with core := { strap := 3, bootReady := true }, seq := { request := true }, otp := { State.reset.dev.otp with roofRec := some { required := 8, optional := 0, minCompat := 0, proto := 1, degraded := false } } }
def wRoofAgreementComplete25 : Device := has [(W.LNK_STATUS_DISCIPLINED, 0, 1), (W.ROOF_CTRL_DEG_WAIT, 0, 255)] { holding 0 .boot with core := { strap := 3, bootReady := true }, seq := { request := true }, otp := { State.reset.dev.otp with roofRec := some { required := 8, optional := 0, minCompat := 0, proto := 1, degraded := true } } }
def wRoofAgreementComplete27 : Device := busyWith (has [(W.ROOF_CTRL_START_TO, 0, 255)] { member 0 .boot with seq := { request := true } }) { cmd0 with op := 0x20 }
def wRoofAgreementComplete30 : Device := withRail 5 { enabled := true, ph := .rampUp } { holding 2 .ramp with seq := { holdFrom := some 7, t0 := some 1 }, cycles := 9, link := { holds := 32 } }
def wRoofAgreementComplete31 : Device := { holding 1 .boot with seq := { holdFrom := some 7, t0 := some 1 }, cycles := 9, link := { holds := 32 } }
def wRoofAgreementComplete33 : Device := withRail 5 { enabled := true } (setArr { holding 3 .run with link := { peers := [(5, { late := true })] }, otp := { State.reset.dev.otp with roofRec := some { required := 40, optional := 0, minCompat := 0, proto := 1, degraded := true } } } W.ROOF_MODES_MODE 5 7)
def wRoofAgreementComplete35 : Device := withRail 5 { enabled := true } (setArr { holding 3 .run with link := { peers := [(5, { late := true })] }, otp := { State.reset.dev.otp with roofRec := some { required := 40, optional := 0, minCompat := 0, proto := 1, degraded := true } } } W.ROOF_MODES_MODE 5 8)
def wRoofAgreementComplete36 : Device := withRail 5 { enabled := true } (setArr { holding 4 .run with link := { peers := [(5, { late := true })] }, otp := { State.reset.dev.otp with roofRec := some { required := 40, optional := 0, minCompat := 0, proto := 1, degraded := true } } } W.ROOF_MODES_MODE 5 4)
def wRoofAgreementComplete37 : Device := setArr { holding 3 .run with link := { peers := [(5, { agreed := true, proto := some Config.linkMajor })] }, otp := { State.reset.dev.otp with roofRec := some { required := 8, optional := 32, minCompat := 0, proto := 1, degraded := true } } } W.ROOF_MODES_MODE 5 7
def wRoofAgreementComplete38 : Device := setArr (holding 3 .run) W.ROOF_MODES_MODE 5 6

/-- Blocks and operands that meet the premises of the clauses of `Obligations.RoofAgreementComplete`, part 1 of 9. -/
theorem witness_RoofAgreementComplete_part1 :
    (canonical wRoofAgreementComplete0 = true ∧
      hears wRoofAgreementComplete0 = true ∧
      (5#3 : BitVec 3).toNat ≠ strapOf wRoofAgreementComplete0 ∧
      partOf wRoofAgreementComplete0 ≠ 4) ∧
    (canonical wRoofAgreementComplete1 = true ∧
      linkState wRoofAgreementComplete1 = 9) ∧
    (canonical wRoofAgreementComplete2 = true ∧
      linkState wRoofAgreementComplete2 ≠ 9 ∧
      ((hears wRoofAgreementComplete2 = false ∨ (5#3 : BitVec 3).toNat = strapOf wRoofAgreementComplete2 ∨ partOf
        wRoofAgreementComplete2 = 4))) ∧
    (canonical wRoofAgreementComplete0 = true ∧
      hears wRoofAgreementComplete0 = true ∧
      (5#3 : BitVec 3).toNat ≠ strapOf wRoofAgreementComplete0 ∧
      partOf wRoofAgreementComplete0 ≠ 4) ∧
    (canonical wRoofAgreementComplete1 = true ∧
      linkState wRoofAgreementComplete1 = 9) ∧
    (canonical wRoofAgreementComplete2 = true ∧
      linkState wRoofAgreementComplete2 ≠ 9 ∧
      ((hears wRoofAgreementComplete2 = false ∨ (5#3 : BitVec 3).toNat = strapOf wRoofAgreementComplete2 ∨ partOf
        wRoofAgreementComplete2 = 4))) ∧
    (canonical wRoofAgreementComplete0 = true ∧
      hears wRoofAgreementComplete0 = true ∧
      (5#3 : BitVec 3).toNat ≠ strapOf wRoofAgreementComplete0 ∧
      partOf wRoofAgreementComplete0 ≠ 4) ∧
    (canonical wRoofAgreementComplete1 = true ∧
      linkState wRoofAgreementComplete1 = 9) ∧
    (canonical wRoofAgreementComplete2 = true ∧
      linkState wRoofAgreementComplete2 ≠ 9 ∧
      ((hears wRoofAgreementComplete2 = false ∨ (5#3 : BitVec 3).toNat = strapOf wRoofAgreementComplete2 ∨ partOf
        wRoofAgreementComplete2 = 4))) ∧
    (canonical wRoofAgreementComplete0 = true ∧
      hears wRoofAgreementComplete0 = true ∧
      (6#3 : BitVec 3).toNat ≠ strapOf wRoofAgreementComplete0 ∧
      partOf wRoofAgreementComplete0 ≠ 4) ∧
    (canonical wRoofAgreementComplete1 = true ∧
      linkState wRoofAgreementComplete1 = 9) ∧
    (canonical wRoofAgreementComplete2 = true ∧
      linkState wRoofAgreementComplete2 ≠ 9 ∧
      ((hears wRoofAgreementComplete2 = false ∨ (6#3 : BitVec 3).toNat = strapOf wRoofAgreementComplete2 ∨ partOf
        wRoofAgreementComplete2 = 4))) := by
  decide +kernel

/-- Blocks and operands that meet the premises of the clauses of `Obligations.RoofAgreementComplete`, part 2 of 9. -/
theorem witness_RoofAgreementComplete_part2 :
    (canonical wRoofAgreementComplete0 = true ∧
      hears wRoofAgreementComplete0 = true ∧
      (6#3 : BitVec 3).toNat ≠ strapOf wRoofAgreementComplete0 ∧
      partOf wRoofAgreementComplete0 ≠ 4 ∧
      ((2#4 : BitVec 4) ≠ 7#4 ∧ (2#4 : BitVec 4) ≠ 8#4) ∧
      wRoofAgreementComplete0.mode ≠ .latched ∧
      ((64 ≤ wRoofAgreementComplete0.link.q17.length ∨ flag wRoofAgreementComplete0 W.LNK_STATUS_HOLDER_VALID = false ∨ (6#3
        : BitVec 3).toNat ≠ fld wRoofAgreementComplete0 W.LNK_STATUS_HOLDER ∨ isHolder wRoofAgreementComplete0 = true ∨
        wRoofAgreementComplete0.link.annSeen = some (bitsOf (0x07010000#32 : Word) 31 24)))) ∧
    (canonical wRoofAgreementComplete0 = true ∧
      hears wRoofAgreementComplete0 = true ∧
      (6#3 : BitVec 3).toNat ≠ strapOf wRoofAgreementComplete0 ∧
      partOf wRoofAgreementComplete0 ≠ 4 ∧
      ((4#4 : BitVec 4) ≠ 7#4 ∧ (4#4 : BitVec 4) ≠ 8#4) ∧
      wRoofAgreementComplete0.mode ≠ .latched ∧
      ((64 ≤ wRoofAgreementComplete0.link.q17.length ∨ flag wRoofAgreementComplete0 W.LNK_STATUS_HOLDER_VALID = false ∨ (6#3
        : BitVec 3).toNat ≠ fld wRoofAgreementComplete0 W.LNK_STATUS_HOLDER ∨ isHolder wRoofAgreementComplete0 = true ∨
        wRoofAgreementComplete0.link.annSeen = some (bitsOf (0x0800FFFF#32 : Word) 31 24)))) ∧
    (canonical wRoofAgreementComplete0 = true ∧
      hears wRoofAgreementComplete0 = true ∧
      (6#3 : BitVec 3).toNat ≠ strapOf wRoofAgreementComplete0 ∧
      partOf wRoofAgreementComplete0 ≠ 4 ∧
      ((4#4 : BitVec 4) ≠ 7#4 ∧ (4#4 : BitVec 4) ≠ 8#4) ∧
      wRoofAgreementComplete0.mode ≠ .latched ∧
      ((64 ≤ wRoofAgreementComplete0.link.q17.length ∨ flag wRoofAgreementComplete0 W.LNK_STATUS_HOLDER_VALID = false ∨ (6#3
        : BitVec 3).toNat ≠ fld wRoofAgreementComplete0 W.LNK_STATUS_HOLDER ∨ isHolder wRoofAgreementComplete0 = true ∨
        wRoofAgreementComplete0.link.annSeen = some (bitsOf (0x08000000#32 : Word) 31 24)))) := by
  decide +kernel

/-- Blocks and operands that meet the premises of the clauses of `Obligations.RoofAgreementComplete`, part 3 of 9. -/
theorem witness_RoofAgreementComplete_part3 :
    (canonical wRoofAgreementComplete15 = true ∧
      hears wRoofAgreementComplete15 = true ∧
      (5#3 : BitVec 3).toNat ≠ strapOf wRoofAgreementComplete15 ∧
      partOf wRoofAgreementComplete15 ≠ 4 ∧
      ((2#4 : BitVec 4) ≠ 7#4 ∧ (2#4 : BitVec 4) ≠ 8#4) ∧
      wRoofAgreementComplete15.link.q17.length < 64 ∧
      flag wRoofAgreementComplete15 W.LNK_STATUS_HOLDER_VALID = true ∧
      (5#3 : BitVec 3).toNat = fld wRoofAgreementComplete15 W.LNK_STATUS_HOLDER ∧
      isHolder wRoofAgreementComplete15 = false ∧
      wRoofAgreementComplete15.link.annSeen ≠ some (bitsOf (0x07010000#32 : Word) 31 24) ∧
      participating wRoofAgreementComplete15 = true ∧
      (bitsOf (0x00040800#32 : Word) 15 8).testBit (strapOf wRoofAgreementComplete15) = true ∧
      ownReady wRoofAgreementComplete15 = true) ∧
    (canonical wRoofAgreementComplete16 = true ∧
      hears wRoofAgreementComplete16 = true ∧
      (5#3 : BitVec 3).toNat ≠ strapOf wRoofAgreementComplete16 ∧
      partOf wRoofAgreementComplete16 ≠ 4 ∧
      ((2#4 : BitVec 4) ≠ 7#4 ∧ (2#4 : BitVec 4) ≠ 8#4) ∧
      wRoofAgreementComplete16.link.q17.length < 64 ∧
      flag wRoofAgreementComplete16 W.LNK_STATUS_HOLDER_VALID = true ∧
      (5#3 : BitVec 3).toNat = fld wRoofAgreementComplete16 W.LNK_STATUS_HOLDER ∧
      isHolder wRoofAgreementComplete16 = false ∧
      wRoofAgreementComplete16.link.annSeen ≠ some (bitsOf (0x07010000#32 : Word) 31 24) ∧
      participating wRoofAgreementComplete16 = true ∧
      wRoofAgreementComplete16.mode = .boot ∧
      (((bitsOf (0x00040800#32 : Word) 15 8).testBit (strapOf wRoofAgreementComplete16) = false ∨ ownReady
        wRoofAgreementComplete16 = false))) := by
  decide +kernel

/-- Blocks and operands that meet the premises of the clauses of `Obligations.RoofAgreementComplete`, part 4 of 9. -/
theorem witness_RoofAgreementComplete_part4 :
    (canonical wRoofAgreementComplete0 = true ∧
      hears wRoofAgreementComplete0 = true ∧
      (5#3 : BitVec 3).toNat ≠ strapOf wRoofAgreementComplete0 ∧
      partOf wRoofAgreementComplete0 ≠ 4 ∧
      ((2#4 : BitVec 4) ≠ 7#4 ∧ (2#4 : BitVec 4) ≠ 8#4) ∧
      wRoofAgreementComplete0.link.q17.length < 64 ∧
      flag wRoofAgreementComplete0 W.LNK_STATUS_HOLDER_VALID = true ∧
      (5#3 : BitVec 3).toNat = fld wRoofAgreementComplete0 W.LNK_STATUS_HOLDER ∧
      isHolder wRoofAgreementComplete0 = false ∧
      wRoofAgreementComplete0.link.annSeen ≠ some (bitsOf (0x07010000#32 : Word) 31 24) ∧
      wRoofAgreementComplete0.mode ≠ .latched ∧
      ((participating wRoofAgreementComplete0 = false ∨ (wRoofAgreementComplete0.mode ≠ .boot ∧ ((bitsOf (0x00040800#32 :
        Word) 15 8).testBit (strapOf wRoofAgreementComplete0) = false ∨ ownReady wRoofAgreementComplete0 = false))))) ∧
    (canonical wRoofAgreementComplete18 = true ∧
      hears wRoofAgreementComplete18 = true ∧
      (5#3 : BitVec 3).toNat ≠ strapOf wRoofAgreementComplete18 ∧
      partOf wRoofAgreementComplete18 ≠ 4 ∧
      ((4#4 : BitVec 4) ≠ 7#4 ∧ (4#4 : BitVec 4) ≠ 8#4) ∧
      wRoofAgreementComplete18.link.q17.length < 64 ∧
      flag wRoofAgreementComplete18 W.LNK_STATUS_HOLDER_VALID = true ∧
      (5#3 : BitVec 3).toNat = fld wRoofAgreementComplete18 W.LNK_STATUS_HOLDER ∧
      isHolder wRoofAgreementComplete18 = false ∧
      wRoofAgreementComplete18.link.annSeen ≠ some (bitsOf (0x0800FFFF#32 : Word) 31 24)) := by
  decide +kernel

/-- Blocks and operands that meet the premises of the clauses of `Obligations.RoofAgreementComplete`, part 5 of 9. -/
theorem witness_RoofAgreementComplete_part5 :
    (canonical wRoofAgreementComplete19 = true ∧
      hears wRoofAgreementComplete19 = true ∧
      (5#3 : BitVec 3).toNat ≠ strapOf wRoofAgreementComplete19 ∧
      partOf wRoofAgreementComplete19 ≠ 4 ∧
      ((4#4 : BitVec 4) ≠ 7#4 ∧ (4#4 : BitVec 4) ≠ 8#4) ∧
      wRoofAgreementComplete19.link.q17.length < 64 ∧
      flag wRoofAgreementComplete19 W.LNK_STATUS_HOLDER_VALID = true ∧
      (5#3 : BitVec 3).toNat = fld wRoofAgreementComplete19 W.LNK_STATUS_HOLDER ∧
      isHolder wRoofAgreementComplete19 = false ∧
      wRoofAgreementComplete19.link.annSeen ≠ some (bitsOf (0x0800FFFF#32 : Word) 31 24) ∧
      participating wRoofAgreementComplete19 = true ∧
      wRoofAgreementComplete19.mode = .boot ∧
      wRoofAgreementComplete19.seq.t0 = none ∧
      bitsOf (0xFF280201#32 : Word) 15 8 % 16 = 2) ∧
    (canonical wRoofAgreementComplete20 = true ∧
      hears wRoofAgreementComplete20 = true ∧
      (5#3 : BitVec 3).toNat ≠ strapOf wRoofAgreementComplete20 ∧
      partOf wRoofAgreementComplete20 ≠ 4 ∧
      ((4#4 : BitVec 4) ≠ 7#4 ∧ (4#4 : BitVec 4) ≠ 8#4) ∧
      wRoofAgreementComplete20.link.q17.length < 64 ∧
      flag wRoofAgreementComplete20 W.LNK_STATUS_HOLDER_VALID = true ∧
      (5#3 : BitVec 3).toNat = fld wRoofAgreementComplete20 W.LNK_STATUS_HOLDER ∧
      isHolder wRoofAgreementComplete20 = false ∧
      wRoofAgreementComplete20.link.annSeen ≠ some (bitsOf (0x08000000#32 : Word) 31 24)) := by
  decide +kernel

/-- Blocks and operands that meet the premises of the clauses of `Obligations.RoofAgreementComplete`, part 6 of 9. -/
theorem witness_RoofAgreementComplete_part6 :
    (canonical wRoofAgreementComplete21 = true ∧
      2 ≤ linkState wRoofAgreementComplete21 ∧
      linkState wRoofAgreementComplete21 ≤ 8 ∧
      isHolder wRoofAgreementComplete21 = false ∧
      wRoofAgreementComplete21.link.known = true ∧
      participating wRoofAgreementComplete21 = true ∧
      wRoofAgreementComplete21.link.down = some (0, (7 : Nat)) ∧
      (7 : Nat) ≤ (7#64 : BitVec 64).toNat ∧
      wRoofAgreementComplete21.vly.endAt = none ∧
      ((wRoofAgreementComplete21.mode = .run ∨ wRoofAgreementComplete21.mode = .ease ∨ wRoofAgreementComplete21.mode =
        .holdup)) ∧
      (rail wRoofAgreementComplete21 (5 : Fin 32)).enabled = true ∧
      (rail wRoofAgreementComplete21 (5 : Fin 32)).fallFail = false) ∧
    (canonical wRoofAgreementComplete16 = true ∧
      hears wRoofAgreementComplete16 = true ∧
      (6#3 : BitVec 3).toNat ≠ strapOf wRoofAgreementComplete16 ∧
      partOf wRoofAgreementComplete16 ≠ 4 ∧
      ((2#4 : BitVec 4) ≠ 7#4 ∧ (2#4 : BitVec 4) ≠ 8#4) ∧
      wRoofAgreementComplete16.link.q17.length < 64) ∧
    (canonical wRoofAgreementComplete23 = true ∧
      roofMayStart wRoofAgreementComplete23 = true ∧
      (bitsIn (requiredMask wRoofAgreementComplete23) 8).all (memberReady wRoofAgreementComplete23) = true) ∧
    (canonical wRoofAgreementComplete16 = true ∧
      ((roofMayStart wRoofAgreementComplete16 = false ∨ (bitsIn (requiredMask wRoofAgreementComplete16) 8).all (memberReady
        wRoofAgreementComplete16) = false))) ∧
    (canonical wRoofAgreementComplete25 = true ∧
      wRoofAgreementComplete25.otp.roofRec = some
        ({ required := 8, optional := 0, minCompat := 0, proto := 1, degraded := true } : RoofRec) ∧
      ({ required := 8, optional := 0, minCompat := 0, proto := 1, degraded := true } : RoofRec).degraded = true ∧
      roofMayStart wRoofAgreementComplete25 = true ∧
      (bitsIn (requiredMask wRoofAgreementComplete25) 8).all (fun a => memberReady wRoofAgreementComplete25 a ||
        memberMissing wRoofAgreementComplete25 a) = true) ∧
    (canonical wRoofAgreementComplete16 = true ∧
      ((wRoofAgreementComplete16.otp.roofRec.all (fun r => !r.degraded) = true ∨ roofMayStart wRoofAgreementComplete16 =
        false ∨ (bitsIn (requiredMask wRoofAgreementComplete16) 8).all (fun a => memberReady wRoofAgreementComplete16 a ||
        memberMissing wRoofAgreementComplete16 a) = false))) ∧
    (canonical wRoofAgreementComplete27 = true ∧
      wRoofAgreementComplete27.seq.request = true ∧
      wRoofAgreementComplete27.seq.t0 = none ∧
      alone wRoofAgreementComplete27 = false) := by
  decide +kernel

/-- Blocks and operands that meet the premises of the clauses of `Obligations.RoofAgreementComplete`, part 7 of 9. -/
theorem witness_RoofAgreementComplete_part7 :
    (canonical wRoofAgreementComplete27 = true ∧
      wRoofAgreementComplete27.seq.request = true ∧
      wRoofAgreementComplete27.seq.t0 = none ∧
      alone wRoofAgreementComplete27 = false ∧
      wRoofAgreementComplete27.eng.issued = [({ cmd0 with op := 0x20 } : Cmd)] ∧
      ({ cmd0 with op := 0x20 } : Cmd).op = 0x20 ∧
      ({ cmd0 with op := 0x20 } : Cmd).started = true) ∧
    (canonical wRoofAgreementComplete16 = true ∧
      ((wRoofAgreementComplete16.seq.request = false ∨ wRoofAgreementComplete16.seq.t0 ≠ none ∨ alone
        wRoofAgreementComplete16 = true))) ∧
    (canonical wRoofAgreementComplete30 = true ∧
      wRoofAgreementComplete30.seq.holdFrom = some (7 : Nat) ∧
      isHolder wRoofAgreementComplete30 = true ∧
      rampToHoldup wRoofAgreementComplete30 = true ∧
      (rail wRoofAgreementComplete30 (5 : Fin 32)).enabled = true ∧
      (rail wRoofAgreementComplete30 (5 : Fin 32)).fallFail = false) ∧
    (canonical wRoofAgreementComplete31 = true ∧
      wRoofAgreementComplete31.seq.holdFrom = some (7 : Nat) ∧
      isHolder wRoofAgreementComplete31 = true ∧
      rampToHoldup wRoofAgreementComplete31 = false) ∧
    (canonical wRoofAgreementComplete16 = true ∧
      ((wRoofAgreementComplete16.seq.holdFrom = none ∨ isHolder wRoofAgreementComplete16 = false))) ∧
    (canonical wRoofAgreementComplete33 = true ∧
      isHolder wRoofAgreementComplete33 = true ∧
      (5#3 : BitVec 3).toNat ≠ strapOf wRoofAgreementComplete33 ∧
      complies (roofPhase wRoofAgreementComplete33) (modeOfAddr wRoofAgreementComplete33 (5#3 : BitVec 3).toNat) = false ∧
      (requiredMask wRoofAgreementComplete33).testBit (5#3 : BitVec 3).toNat = true ∧
      ((takesPart wRoofAgreementComplete33 (5#3 : BitVec 3).toNat = true ∨ (peer wRoofAgreementComplete33 (5#3 : BitVec
        3).toNat).late = true))) := by
  decide +kernel

/-- Blocks and operands that meet the premises of the clauses of `Obligations.RoofAgreementComplete`, part 8 of 9. -/
theorem witness_RoofAgreementComplete_part8 :
    (canonical wRoofAgreementComplete33 = true ∧
      isHolder wRoofAgreementComplete33 = true ∧
      (5#3 : BitVec 3).toNat ≠ strapOf wRoofAgreementComplete33 ∧
      complies (roofPhase wRoofAgreementComplete33) (modeOfAddr wRoofAgreementComplete33 (5#3 : BitVec 3).toNat) = false ∧
      (requiredMask wRoofAgreementComplete33).testBit (5#3 : BitVec 3).toNat = true ∧
      ((takesPart wRoofAgreementComplete33 (5#3 : BitVec 3).toNat = true ∨ (peer wRoofAgreementComplete33 (5#3 : BitVec
        3).toNat).late = true)) ∧
      modeOfAddr wRoofAgreementComplete33 (5#3 : BitVec 3).toNat ≠ 8 ∧
      ((modeOfAddr wRoofAgreementComplete33 (5#3 : BitVec 3).toNat < 4 ∨ 6 < modeOfAddr wRoofAgreementComplete33 (5#3 :
        BitVec 3).toNat)) ∧
      ((modeOfAddr wRoofAgreementComplete33 (5#3 : BitVec 3).toNat ≠ 3 ∨ roofPhase wRoofAgreementComplete33 = 3)) ∧
      rampToHoldup wRoofAgreementComplete33 = true ∧
      (rail wRoofAgreementComplete33 (5 : Fin 32)).enabled = true ∧
      (rail wRoofAgreementComplete33 (5 : Fin 32)).fallFail = false) ∧
    (canonical wRoofAgreementComplete35 = true ∧
      isHolder wRoofAgreementComplete35 = true ∧
      (5#3 : BitVec 3).toNat ≠ strapOf wRoofAgreementComplete35 ∧
      complies (roofPhase wRoofAgreementComplete35) (modeOfAddr wRoofAgreementComplete35 (5#3 : BitVec 3).toNat) = false ∧
      (requiredMask wRoofAgreementComplete35).testBit (5#3 : BitVec 3).toNat = true ∧
      ((takesPart wRoofAgreementComplete35 (5#3 : BitVec 3).toNat = true ∨ (peer wRoofAgreementComplete35 (5#3 : BitVec
        3).toNat).late = true)) ∧
      ((modeOfAddr wRoofAgreementComplete35 (5#3 : BitVec 3).toNat = 8 ∨ ((roofPhase wRoofAgreementComplete35 = 4 ∨ roofPhase
        wRoofAgreementComplete35 = 5) ∧ 3 ≤ modeOfAddr wRoofAgreementComplete35 (5#3 : BitVec 3).toNat ∧ modeOfAddr
        wRoofAgreementComplete35 (5#3 : BitVec 3).toNat ≤ 6 ∧ wRoofAgreementComplete35.link.warned.testBit (5#3 : BitVec
        3).toNat = true))) ∧
      participating wRoofAgreementComplete35 = true ∧
      ((rampToHoldup wRoofAgreementComplete35 = true ∨ wRoofAgreementComplete35.mode = .descend)) ∧
      wRoofAgreementComplete35.seq.desc.all (fun x => x.kind ≠ .fault) = true) ∧
    (canonical wRoofAgreementComplete36 = true ∧
      isHolder wRoofAgreementComplete36 = true ∧
      (5#3 : BitVec 3).toNat ≠ strapOf wRoofAgreementComplete36 ∧
      complies (roofPhase wRoofAgreementComplete36) (modeOfAddr wRoofAgreementComplete36 (5#3 : BitVec 3).toNat) = false ∧
      (requiredMask wRoofAgreementComplete36).testBit (5#3 : BitVec 3).toNat = true ∧
      ((takesPart wRoofAgreementComplete36 (5#3 : BitVec 3).toNat = true ∨ (peer wRoofAgreementComplete36 (5#3 : BitVec
        3).toNat).late = true)) ∧
      ((roofPhase wRoofAgreementComplete36 = 4 ∨ roofPhase wRoofAgreementComplete36 = 5)) ∧
      (3 ≤ modeOfAddr wRoofAgreementComplete36 (5#3 : BitVec 3).toNat ∧ modeOfAddr wRoofAgreementComplete36 (5#3 : BitVec
        3).toNat ≤ 6) ∧
      wRoofAgreementComplete36.link.warned.testBit (5#3 : BitVec 3).toNat = false) := by
  decide +kernel

/-- Blocks and operands that meet the premises of the clauses of `Obligations.RoofAgreementComplete`, part 9 of 9. -/
theorem witness_RoofAgreementComplete_part9 :
    (canonical wRoofAgreementComplete38 = true ∧
      ((isHolder wRoofAgreementComplete38 = false ∨ (5#3 : BitVec 3).toNat = strapOf wRoofAgreementComplete38 ∨ complies
        (roofPhase wRoofAgreementComplete38) (modeOfAddr wRoofAgreementComplete38 (5#3 : BitVec 3).toNat) = true ∨ (takesPart
        wRoofAgreementComplete38 (5#3 : BitVec 3).toNat = false ∧ ((requiredMask wRoofAgreementComplete38).testBit (5#3 :
        BitVec 3).toNat = false ∨ (peer wRoofAgreementComplete38 (5#3 : BitVec 3).toNat).late = false))))) := by
  decide +kernel

/-- The same of its clause 38. -/
theorem witness_RoofAgreementComplete_38 :
    canonical wRoofAgreementComplete37 = true ∧
      isHolder wRoofAgreementComplete37 = true ∧
      (5#3 : BitVec 3).toNat ≠ strapOf wRoofAgreementComplete37 ∧
      complies (roofPhase wRoofAgreementComplete37) (modeOfAddr wRoofAgreementComplete37 (5#3 : BitVec 3).toNat) = false ∧
      (requiredMask wRoofAgreementComplete37).testBit (5#3 : BitVec 3).toNat = false ∧
      takesPart wRoofAgreementComplete37 (5#3 : BitVec 3).toNat = true := by
  have hp : peer wRoofAgreementComplete37 (5#3 : BitVec 3).toNat = { agreed := true, proto := some Config.linkMajor } := rfl
  have hs : (5#3 : BitVec 3).toNat ≠ strapOf wRoofAgreementComplete37 := by decide +kernel
  have h1 : present wRoofAgreementComplete37 (5#3 : BitVec 3).toNat = true := by decide +kernel
  have h2 : (requiredMask wRoofAgreementComplete37 ||| optionalMask wRoofAgreementComplete37).testBit (5#3 : BitVec 3).toNat = true := by decide +kernel
  have h3 : wRoofAgreementComplete37.link.dropped.testBit (5#3 : BitVec 3).toNat = false := by decide +kernel
  refine ⟨by decide +kernel, by decide +kernel, by decide +kernel, by decide +kernel, by decide +kernel, ?_⟩
  simp only [takesPart, if_neg hs, hp, h1, h2, h3]
  simp

def wValleyCommandsComplete0 : Device := member 3 .run
def wValleyCommandsComplete1 : Device := served2 (has [(W.VLY_CFG_VLY_EN, 0, 1), (W.ROOF_FLOOR_FLOOR, 0, 1)] { member 3 .run with vly := { offers := [(5, some { flags := 1, iMax := 50, vC := 90, e := 100, aux := 0, seq := 0 })] } })
def wValleyCommandsComplete2 : Device := served2 (has [(W.VLY_CFG_VLY_EN, 0, 1), (W.ROOF_FLOOR_FLOOR, 0, 1)] (member 3 .run))
def wValleyCommandsComplete3 : Device := served2 (has [(W.VLY_CFG_VLY_EN, 0, 1), (W.ROOF_FLOOR_FLOOR, 0, 3)] (member 3 .run))
def wValleyCommandsComplete4 : Device := served2 (member 3 .run)
def wValleyCommandsComplete5 : Device := { member 3 .run with core := { strap := 3, thatchAbsent := true } }
def wValleyCommandsComplete10 : Device := served2 (member 3 .replay)
def wValleyCommandsComplete11 : Device := served2 (partner 2 1 (member 3 .run))
def wValleyCommandsComplete12 : Device := busyWith { member 3 .run with vly := { reqTo := some 5 } } { cmd0 with op := 0x51, params := [0#32, 0x17700064#32], startT := 9 }
def wValleyCommandsComplete16 : Device := served2 (partner 1 3 (member 3 .run))
def wValleyCommandsComplete18 : Device := has [(W.VLY_STATUS_AUX_MODE, 0, 1)] (partner 1 3 (member 3 .run))

/-- Blocks and operands that meet the premises of the clauses of `Obligations.ValleyCommandsComplete`, part 1 of 3. -/
theorem witness_ValleyCommandsComplete_part1 :
    (canonical wValleyCommandsComplete0 = true ∧
      engineOn wValleyCommandsComplete0 = true) ∧
    (canonical wValleyCommandsComplete1 = true ∧
      engineOn wValleyCommandsComplete1 = true ∧
      wValleyCommandsComplete1.core.thatchAbsent = false ∧
      thatchReady wValleyCommandsComplete1 = true ∧
      firstFail (requestChecks (mkCmd (rq0 : Req) 0x51 [(0x000A0000#32 : Word), (0x17700064#32 : Word)] []
        wValleyCommandsComplete1) (begun wValleyCommandsComplete1)) = none ∧
      ((bitOf (0x000A0000#32 : Word) 0 = false ∨ sourceBar wValleyCommandsComplete1 0 false = none)) ∧
      (offerOf wValleyCommandsComplete1 (5#3 : BitVec 3).toNat).isSome = true) ∧
    (canonical wValleyCommandsComplete2 = true ∧
      engineOn wValleyCommandsComplete2 = true ∧
      wValleyCommandsComplete2.core.thatchAbsent = false ∧
      thatchReady wValleyCommandsComplete2 = true ∧
      firstFail (requestChecks (mkCmd (rq0 : Req) 0x51 [(0x000A0000#32 : Word), (0x17700064#32 : Word)] []
        wValleyCommandsComplete2) (begun wValleyCommandsComplete2)) = none ∧
      ((bitOf (0x000A0000#32 : Word) 0 = false ∨ sourceBar wValleyCommandsComplete2 0 false = none)) ∧
      (offerOf wValleyCommandsComplete2 (5#3 : BitVec 3).toNat).isSome = false) ∧
    (canonical wValleyCommandsComplete3 = true ∧
      engineOn wValleyCommandsComplete3 = true ∧
      wValleyCommandsComplete3.core.thatchAbsent = false ∧
      thatchReady wValleyCommandsComplete3 = true ∧
      firstFail (requestChecks (mkCmd (rq0 : Req) 0x51 [(0x000A0001#32 : Word), (0x17700064#32 : Word)] []
        wValleyCommandsComplete3) (begun wValleyCommandsComplete3)) = none ∧
      bitOf (0x000A0001#32 : Word) 0 = true ∧
      sourceBar wValleyCommandsComplete3 0 false = some (9 : Nat)) ∧
    (canonical wValleyCommandsComplete4 = true ∧
      engineOn wValleyCommandsComplete4 = true ∧
      wValleyCommandsComplete4.core.thatchAbsent = false ∧
      thatchReady wValleyCommandsComplete4 = true ∧
      firstFail (requestChecks (mkCmd (rq0 : Req) 0x51 [(0x000A0000#32 : Word), (0x17700064#32 : Word)] []
        wValleyCommandsComplete4) (begun wValleyCommandsComplete4)) = some (.deniedPermission : Status)) ∧
    (canonical wValleyCommandsComplete5 = true ∧
      engineOn wValleyCommandsComplete5 = true ∧
      wValleyCommandsComplete5.core.thatchAbsent = true) ∧
    (canonical wValleyCommandsComplete0 = true ∧
      engineOn wValleyCommandsComplete0 = true ∧
      wValleyCommandsComplete0.core.thatchAbsent = false ∧
      thatchReady wValleyCommandsComplete0 = false) := by
  decide +kernel

/-- Blocks and operands that meet the premises of the clauses of `Obligations.ValleyCommandsComplete`, part 2 of 3. -/
theorem witness_ValleyCommandsComplete_part2 :
    (canonical wValleyCommandsComplete5 = true ∧
      engineOn wValleyCommandsComplete5 = true ∧
      wValleyCommandsComplete5.core.thatchAbsent = true) ∧
    (canonical wValleyCommandsComplete0 = true ∧
      engineOn wValleyCommandsComplete0 = true ∧
      wValleyCommandsComplete0.core.thatchAbsent = false ∧
      thatchReady wValleyCommandsComplete0 = false) ∧
    (canonical wValleyCommandsComplete4 = true ∧
      engineOn wValleyCommandsComplete4 = true ∧
      wValleyCommandsComplete4.core.thatchAbsent = false ∧
      thatchReady wValleyCommandsComplete4 = true ∧
      modeOk .live wValleyCommandsComplete4 = true ∧
      vlyRole wValleyCommandsComplete4 = 0) ∧
    (canonical wValleyCommandsComplete10 = true ∧
      engineOn wValleyCommandsComplete10 = true ∧
      wValleyCommandsComplete10.core.thatchAbsent = false ∧
      thatchReady wValleyCommandsComplete10 = true ∧
      modeOk .live wValleyCommandsComplete10 = false) ∧
    (canonical wValleyCommandsComplete11 = true ∧
      engineOn wValleyCommandsComplete11 = true ∧
      wValleyCommandsComplete11.core.thatchAbsent = false ∧
      thatchReady wValleyCommandsComplete11 = true ∧
      modeOk .live wValleyCommandsComplete11 = true ∧
      vlyRole wValleyCommandsComplete11 ≠ 0) ∧
    (canonical wValleyCommandsComplete12 = true ∧
      (running wValleyCommandsComplete12 0x51).find? (fun c => c.wait == 0) = some
        ({ cmd0 with op := 0x51, params := [0#32, 0x17700064#32], startT := 9 } : Cmd)) ∧
    (canonical wValleyCommandsComplete12 = true ∧
      wValleyCommandsComplete12.eng.issued = [({ cmd0 with op := 0x51, params := [0#32, 0x17700064#32], startT := 9 } : Cmd)]
        ∧
      (({ cmd0 with op := 0x51, params := [0#32, 0x17700064#32], startT := 9 } : Cmd).started = true ∧
        ({ cmd0 with op := 0x51, params := [0#32, 0x17700064#32], startT := 9 } : Cmd).op = 0x51 ∧
        ({ cmd0 with op := 0x51, params := [0#32, 0x17700064#32], startT := 9 } : Cmd).wait = 0)) ∧
    (canonical wValleyCommandsComplete0 = true ∧
      (running wValleyCommandsComplete0 0x51).all (fun c => c.wait ≠ 0) = true) := by
  decide +kernel

/-- Blocks and operands that meet the premises of the clauses of `Obligations.ValleyCommandsComplete`, part 3 of 3. -/
theorem witness_ValleyCommandsComplete_part3 :
    (canonical wValleyCommandsComplete4 = true ∧
      linkState wValleyCommandsComplete4 ≠ 0 ∧
      (6 ≤ (11#4 : BitVec 4).toNat ∧ (11#4 : BitVec 4).toNat ≤ 13) ∧
      (((11#4 : BitVec 4).toNat < 8 ∨ thatchReady wValleyCommandsComplete4 = true)) ∧
      gateBars wValleyCommandsComplete4 (11#4 : BitVec 4).toNat (0x00050061#32 : Word) (0#32 : Word) = false ∧
      (11#4 : BitVec 4) ≠ 12#4) ∧
    (canonical wValleyCommandsComplete16 = true ∧
      linkState wValleyCommandsComplete16 ≠ 0 ∧
      (6 ≤ (12#4 : BitVec 4).toNat ∧ (12#4 : BitVec 4).toNat ≤ 13) ∧
      (((12#4 : BitVec 4).toNat < 8 ∨ thatchReady wValleyCommandsComplete16 = true)) ∧
      gateBars wValleyCommandsComplete16 (12#4 : BitVec 4).toNat (0x00001561#32 : Word) (0x07000000#32 : Word) = false ∧
      (12#4 : BitVec 4) = 12#4) ∧
    (canonical wValleyCommandsComplete0 = true ∧
      ((linkState wValleyCommandsComplete0 = 0 ∨ (8#4 : BitVec 4).toNat < 6 ∨ 13 < (8#4 : BitVec 4).toNat ∨ (8 ≤ (8#4 :
        BitVec 4).toNat ∧ thatchReady wValleyCommandsComplete0 = false) ∨ gateBars wValleyCommandsComplete0 (8#4 : BitVec
        4).toNat (0#32 : Word) (0#32 : Word) = true))) ∧
    (canonical wValleyCommandsComplete18 = true) := by
  decide +kernel


def wValleyMessagesComplete0 : Device := linked 4 .run
def wValleyMessagesComplete1 : Device := linked 9 .run
def wValleyMessagesComplete2 : Device := linked 1 .run
def wValleyMessagesComplete18 : Device := served2 (member 3 .run)
def wValleyMessagesComplete19 : Device := member 3 .run
def wValleyMessagesComplete23 : Device := served2 (has [(W.VLY_CFG_VLY_EN, 0, 1), (W.VLY_POLICY_OFFER_EN, 0, 1), (W.VLY_POLICY_OFF_IMAX, 0, 50), (W.ROOF_FLOOR_FLOOR, 0, 1), (W.GAUGE_STATUS_ANCHOR, 0, 1), (W.BK_STATUS_PACK_PRESENT, 0, 1), (W.BK_STATUS_BK_STATE, 0, 1), (W.GAUGE_AVAIL_Q_AVAIL, 0, 20000), (W.GAUGE_CFG_V_EMPTY, 0, 140)] (member 3 .run))
def wValleyMessagesComplete24 : Device := served2 (partner 2 1 (member 3 .run))
def wValleyMessagesComplete25 : Device := served2 (partner 1 3 (member 3 .run))
def wValleyMessagesComplete26 : Device := partner 2 1 { member 3 .run with link := { fn := 9 } }
def wValleyMessagesComplete31 : Device := partner 1 3 (member 3 .run)
def wValleyMessagesComplete32 : Device := { partner 1 3 (member 3 .run) with vly := { cur := some contract3, swap := some { peer := 5, incoming := false, own := true } } }
def wValleyMessagesComplete33 : Device := busyWith { member 3 .run with vly := { reqTo := some 5 } } { cmd0 with op := 0x51, params := [0#32, 0x17700064#32], startT := 9 }
def wValleyMessagesComplete37 : Device := served2 { partner 1 3 (member 3 .run) with vly := { cur := some contract3, swap := some { peer := 5, incoming := false, tX := some 9 } } }
def wValleyMessagesComplete40 : Device := { partner 2 1 (member 3 .run) with vly := { cur := some contract3, swap := some { peer := 5, incoming := true, own := true } } }
def wValleyMessagesComplete41 : Device := partner 3 0 (member 3 .run)

/-- Blocks and operands that meet the premises of the clauses of `Obligations.ValleyMessagesComplete`, part 1 of 16. -/
theorem witness_ValleyMessagesComplete_part1 :
    (canonical wValleyMessagesComplete0 = true ∧
      hears wValleyMessagesComplete0 = true ∧
      (6#3 : BitVec 3).toNat ≠ strapOf wValleyMessagesComplete0 ∧
      partOf wValleyMessagesComplete0 ≠ 4) ∧
    (canonical wValleyMessagesComplete1 = true ∧
      linkState wValleyMessagesComplete1 = 9) ∧
    (canonical wValleyMessagesComplete2 = true ∧
      linkState wValleyMessagesComplete2 ≠ 9 ∧
      ((hears wValleyMessagesComplete2 = false ∨ (6#3 : BitVec 3).toNat = strapOf wValleyMessagesComplete2 ∨ partOf
        wValleyMessagesComplete2 = 4))) ∧
    (canonical wValleyMessagesComplete0 = true ∧
      hears wValleyMessagesComplete0 = true ∧
      (6#3 : BitVec 3).toNat ≠ strapOf wValleyMessagesComplete0 ∧
      partOf wValleyMessagesComplete0 ≠ 4) ∧
    (canonical wValleyMessagesComplete1 = true ∧
      linkState wValleyMessagesComplete1 = 9) ∧
    (canonical wValleyMessagesComplete2 = true ∧
      linkState wValleyMessagesComplete2 ≠ 9 ∧
      ((hears wValleyMessagesComplete2 = false ∨ (6#3 : BitVec 3).toNat = strapOf wValleyMessagesComplete2 ∨ partOf
        wValleyMessagesComplete2 = 4))) ∧
    (canonical wValleyMessagesComplete0 = true ∧
      hears wValleyMessagesComplete0 = true ∧
      (5#3 : BitVec 3).toNat ≠ strapOf wValleyMessagesComplete0 ∧
      partOf wValleyMessagesComplete0 ≠ 4) ∧
    (canonical wValleyMessagesComplete1 = true ∧
      linkState wValleyMessagesComplete1 = 9) ∧
    (canonical wValleyMessagesComplete2 = true ∧
      linkState wValleyMessagesComplete2 ≠ 9 ∧
      ((hears wValleyMessagesComplete2 = false ∨ (5#3 : BitVec 3).toNat = strapOf wValleyMessagesComplete2 ∨ partOf
        wValleyMessagesComplete2 = 4))) ∧
    (canonical wValleyMessagesComplete0 = true ∧
      hears wValleyMessagesComplete0 = true ∧
      (5#3 : BitVec 3).toNat ≠ strapOf wValleyMessagesComplete0 ∧
      partOf wValleyMessagesComplete0 ≠ 4) ∧
    (canonical wValleyMessagesComplete1 = true ∧
      linkState wValleyMessagesComplete1 = 9) ∧
    (canonical wValleyMessagesComplete2 = true ∧
      linkState wValleyMessagesComplete2 ≠ 9 ∧
      ((hears wValleyMessagesComplete2 = false ∨ (5#3 : BitVec 3).toNat = strapOf wValleyMessagesComplete2 ∨ partOf
        wValleyMessagesComplete2 = 4))) := by
  decide +kernel

/-- Blocks and operands that meet the premises of the clauses of `Obligations.ValleyMessagesComplete`, part 2 of 16. -/
theorem witness_ValleyMessagesComplete_part2 :
    (canonical wValleyMessagesComplete0 = true ∧
      hears wValleyMessagesComplete0 = true ∧
      (5#3 : BitVec 3).toNat ≠ strapOf wValleyMessagesComplete0 ∧
      partOf wValleyMessagesComplete0 ≠ 4) ∧
    (canonical wValleyMessagesComplete1 = true ∧
      linkState wValleyMessagesComplete1 = 9) ∧
    (canonical wValleyMessagesComplete2 = true ∧
      linkState wValleyMessagesComplete2 ≠ 9 ∧
      ((hears wValleyMessagesComplete2 = false ∨ (5#3 : BitVec 3).toNat = strapOf wValleyMessagesComplete2 ∨ partOf
        wValleyMessagesComplete2 = 4))) ∧
    (canonical wValleyMessagesComplete0 = true ∧
      hears wValleyMessagesComplete0 = true ∧
      (5#3 : BitVec 3).toNat ≠ strapOf wValleyMessagesComplete0 ∧
      partOf wValleyMessagesComplete0 ≠ 4) ∧
    (canonical wValleyMessagesComplete1 = true ∧
      linkState wValleyMessagesComplete1 = 9) ∧
    (canonical wValleyMessagesComplete2 = true ∧
      linkState wValleyMessagesComplete2 ≠ 9 ∧
      ((hears wValleyMessagesComplete2 = false ∨ (5#3 : BitVec 3).toNat = strapOf wValleyMessagesComplete2 ∨ partOf
        wValleyMessagesComplete2 = 4))) ∧
    (canonical wValleyMessagesComplete18 = true ∧
      hears wValleyMessagesComplete18 = true ∧
      (6#3 : BitVec 3).toNat ≠ strapOf wValleyMessagesComplete18 ∧
      partOf wValleyMessagesComplete18 ≠ 4 ∧
      (((4#4 : BitVec 4) ≠ 7#4 ∧ (4#4 : BitVec 4) ≠ 8#4 ∧ ((4#4 : BitVec 4) ≠ 2#4 ∨ wValleyMessagesComplete18.mode ≠
        .latched))) ∧
      wValleyMessagesComplete18.link.q17.length < 64 ∧
      thatchReady wValleyMessagesComplete18 = true) := by
  decide +kernel

/-- Blocks and operands that meet the premises of the clauses of `Obligations.ValleyMessagesComplete`, part 3 of 16. -/
theorem witness_ValleyMessagesComplete_part3 :
    (canonical wValleyMessagesComplete19 = true ∧
      hears wValleyMessagesComplete19 = true ∧
      (6#3 : BitVec 3).toNat ≠ strapOf wValleyMessagesComplete19 ∧
      partOf wValleyMessagesComplete19 ≠ 4 ∧
      (((4#4 : BitVec 4) ≠ 7#4 ∧ (4#4 : BitVec 4) ≠ 8#4 ∧ ((4#4 : BitVec 4) ≠ 2#4 ∨ wValleyMessagesComplete19.mode ≠
        .latched))) ∧
      wValleyMessagesComplete19.link.q17.length < 64 ∧
      thatchReady wValleyMessagesComplete19 = false ∧
      (5 : Nat) = 5) ∧
    (canonical wValleyMessagesComplete18 = true ∧
      hears wValleyMessagesComplete18 = true ∧
      (6#3 : BitVec 3).toNat ≠ strapOf wValleyMessagesComplete18 ∧
      partOf wValleyMessagesComplete18 ≠ 4 ∧
      (((4#4 : BitVec 4) ≠ 7#4 ∧ (4#4 : BitVec 4) ≠ 8#4 ∧ ((4#4 : BitVec 4) ≠ 2#4 ∨ wValleyMessagesComplete18.mode ≠
        .latched))) ∧
      wValleyMessagesComplete18.link.q17.length < 64 ∧
      bitsOf (0x00640A04#32 : Word) 2 0 ≠ strapOf wValleyMessagesComplete18) ∧
    (canonical wValleyMessagesComplete19 = true ∧
      hears wValleyMessagesComplete19 = true ∧
      (6#3 : BitVec 3).toNat ≠ strapOf wValleyMessagesComplete19 ∧
      partOf wValleyMessagesComplete19 ≠ 4 ∧
      (((4#4 : BitVec 4) ≠ 7#4 ∧ (4#4 : BitVec 4) ≠ 8#4 ∧ ((4#4 : BitVec 4) ≠ 2#4 ∨ wValleyMessagesComplete19.mode ≠
        .latched))) ∧
      wValleyMessagesComplete19.link.q17.length < 64 ∧
      bitsOf (0x00640A03#32 : Word) 2 0 = strapOf wValleyMessagesComplete19 ∧
      (((thatchReady wValleyMessagesComplete19 = false ∧ (5 : Nat) = 5) ∨ (thatchReady wValleyMessagesComplete19 = true ∧
        (wValleyMessagesComplete19.vly.proposed.isSome = true ∨ wValleyMessagesComplete19.vly.pend.isSome = true ∨
        wValleyMessagesComplete19.vly.swap.isSome = true) ∧ (5 : Nat) = 5)))) := by
  decide +kernel

/-- Blocks and operands that meet the premises of the clauses of `Obligations.ValleyMessagesComplete`, part 4 of 16. -/
theorem witness_ValleyMessagesComplete_part4 :
    (canonical wValleyMessagesComplete18 = true ∧
      hears wValleyMessagesComplete18 = true ∧
      (6#3 : BitVec 3).toNat ≠ strapOf wValleyMessagesComplete18 ∧
      partOf wValleyMessagesComplete18 ≠ 4 ∧
      (((4#4 : BitVec 4) ≠ 7#4 ∧ (4#4 : BitVec 4) ≠ 8#4 ∧ ((4#4 : BitVec 4) ≠ 2#4 ∨ wValleyMessagesComplete18.mode ≠
        .latched))) ∧
      wValleyMessagesComplete18.link.q17.length < 64 ∧
      bitsOf (0x00640A03#32 : Word) 2 0 = strapOf wValleyMessagesComplete18 ∧
      thatchReady wValleyMessagesComplete18 = true ∧
      (wValleyMessagesComplete18.vly.proposed = none ∧ wValleyMessagesComplete18.vly.pend = none ∧
        wValleyMessagesComplete18.vly.swap = none) ∧
      vlyRole wValleyMessagesComplete18 = 0 ∧
      ((((bitOf (0x00640A03#32 : Word) 3 = true ∨ bitsOf (0x0100FF00#32 : Word) 15 8 ≠ 0xFF) ∧ (9 : Nat) = 9) ∨ (bitOf
        (0x00640A03#32 : Word) 3 = false ∧ bitsOf (0x0100FF00#32 : Word) 15 8 = 0xFF ∧ sourceBar wValleyMessagesComplete18
        (bitsOf (0x00640A03#32 : Word) 31 16) false = some (9 : Nat)) ∨ (bitOf (0x00640A03#32 : Word) 3 = false ∧ bitsOf
        (0x0100FF00#32 : Word) 15 8 = 0xFF ∧ sourceBar wValleyMessagesComplete18 (bitsOf (0x00640A03#32 : Word) 31 16) false
        = none ∧ (currentOk wValleyMessagesComplete18 (bitsOf (0x00640A03#32 : Word) 15 8) = false ∨ vlyVMax
        wValleyMessagesComplete18 < ownVc wValleyMessagesComplete18 * 100) ∧ (9 : Nat) = 2)))) := by
  decide +kernel

/-- Blocks and operands that meet the premises of the clauses of `Obligations.ValleyMessagesComplete`, part 5 of 16. -/
theorem witness_ValleyMessagesComplete_part5 :
    (canonical wValleyMessagesComplete23 = true ∧
      hears wValleyMessagesComplete23 = true ∧
      (6#3 : BitVec 3).toNat ≠ strapOf wValleyMessagesComplete23 ∧
      partOf wValleyMessagesComplete23 ≠ 4 ∧
      (((4#4 : BitVec 4) ≠ 7#4 ∧ (4#4 : BitVec 4) ≠ 8#4 ∧ ((4#4 : BitVec 4) ≠ 2#4 ∨ wValleyMessagesComplete23.mode ≠
        .latched))) ∧
      wValleyMessagesComplete23.link.q17.length < 64 ∧
      bitsOf (0x00640A03#32 : Word) 2 0 = strapOf wValleyMessagesComplete23 ∧
      thatchReady wValleyMessagesComplete23 = true ∧
      (wValleyMessagesComplete23.vly.proposed = none ∧ wValleyMessagesComplete23.vly.pend = none ∧
        wValleyMessagesComplete23.vly.swap = none) ∧
      vlyRole wValleyMessagesComplete23 = 0 ∧
      bitOf (0x00640A03#32 : Word) 3 = false ∧
      bitsOf (0x0100FF00#32 : Word) 15 8 = 0xFF ∧
      sourceBar wValleyMessagesComplete23 (bitsOf (0x00640A03#32 : Word) 31 16) false = none ∧
      currentOk wValleyMessagesComplete23 (bitsOf (0x00640A03#32 : Word) 15 8) = true ∧
      ownVc wValleyMessagesComplete23 * 100 ≤ vlyVMax wValleyMessagesComplete23) := by
  decide +kernel

/-- Blocks and operands that meet the premises of the clauses of `Obligations.ValleyMessagesComplete`, part 6 of 16. -/
theorem witness_ValleyMessagesComplete_part6 :
    (canonical wValleyMessagesComplete24 = true ∧
      hears wValleyMessagesComplete24 = true ∧
      (6#3 : BitVec 3).toNat ≠ strapOf wValleyMessagesComplete24 ∧
      partOf wValleyMessagesComplete24 ≠ 4 ∧
      (((4#4 : BitVec 4) ≠ 7#4 ∧ (4#4 : BitVec 4) ≠ 8#4 ∧ ((4#4 : BitVec 4) ≠ 2#4 ∨ wValleyMessagesComplete24.mode ≠
        .latched))) ∧
      wValleyMessagesComplete24.link.q17.length < 64 ∧
      bitsOf (0x00640A03#32 : Word) 2 0 = strapOf wValleyMessagesComplete24 ∧
      thatchReady wValleyMessagesComplete24 = true ∧
      (wValleyMessagesComplete24.vly.proposed = none ∧ wValleyMessagesComplete24.vly.pend = none ∧
        wValleyMessagesComplete24.vly.swap = none) ∧
      vlyRole wValleyMessagesComplete24 ≠ 0 ∧
      ((((vlyRole wValleyMessagesComplete24 ≠ 1 ∨ bitsOf (0x0100FF00#32 : Word) 15 8 ≠ fld wValleyMessagesComplete24
        W.VLY_STATUS_CN) ∧ (5 : Nat) = 5) ∨ (vlyRole wValleyMessagesComplete24 = 1 ∧ bitsOf (0x0100FF00#32 : Word) 15 8 = fld
        wValleyMessagesComplete24 W.VLY_STATUS_CN ∧ bitOf (0x00640A03#32 : Word) 3 = true ∧ flag wValleyMessagesComplete24
        W.VLY_CONTRACT_STANDBY_VALID = true ∧ (5 : Nat) = 5) ∨ (vlyRole wValleyMessagesComplete24 = 1 ∧ bitsOf (0x0100FF00#32
        : Word) 15 8 = fld wValleyMessagesComplete24 W.VLY_STATUS_CN ∧ bitOf (0x00640A03#32 : Word) 3 = false ∧ sourceBar
        wValleyMessagesComplete24 (bitsOf (0x00640A03#32 : Word) 31 16) true = some (5 : Nat)) ∨ (vlyRole
        wValleyMessagesComplete24 = 1 ∧ bitsOf (0x0100FF00#32 : Word) 15 8 = fld wValleyMessagesComplete24 W.VLY_STATUS_CN ∧
        bitOf (0x00640A03#32 : Word) 3 = false ∧ sourceBar wValleyMessagesComplete24 (bitsOf (0x00640A03#32 : Word) 31 16)
        true = none ∧ currentOk wValleyMessagesComplete24 (fld wValleyMessagesComplete24 W.VLY_CONTRACT_I_C + bitsOf
        (0x00640A03#32 : Word) 15 8) = false ∧ (5 : Nat) = 2)))) := by
  decide +kernel

/-- Blocks and operands that meet the premises of the clauses of `Obligations.ValleyMessagesComplete`, part 7 of 16. -/
theorem witness_ValleyMessagesComplete_part7 :
    (canonical wValleyMessagesComplete25 = true ∧
      hears wValleyMessagesComplete25 = true ∧
      (6#3 : BitVec 3).toNat ≠ strapOf wValleyMessagesComplete25 ∧
      partOf wValleyMessagesComplete25 ≠ 4 ∧
      (((4#4 : BitVec 4) ≠ 7#4 ∧ (4#4 : BitVec 4) ≠ 8#4 ∧ ((4#4 : BitVec 4) ≠ 2#4 ∨ wValleyMessagesComplete25.mode ≠
        .latched))) ∧
      wValleyMessagesComplete25.link.q17.length < 64 ∧
      bitsOf (0x00640A0B#32 : Word) 2 0 = strapOf wValleyMessagesComplete25 ∧
      thatchReady wValleyMessagesComplete25 = true ∧
      (wValleyMessagesComplete25.vly.proposed = none ∧ wValleyMessagesComplete25.vly.pend = none ∧
        wValleyMessagesComplete25.vly.swap = none) ∧
      wValleyMessagesComplete25.vly.cur = some (contract3 : Contract) ∧
      vlyRole wValleyMessagesComplete25 = 1 ∧
      bitsOf (0x01006100#32 : Word) 15 8 = fld wValleyMessagesComplete25 W.VLY_STATUS_CN ∧
      (((bitOf (0x00640A0B#32 : Word) 3 = true ∧ flag wValleyMessagesComplete25 W.VLY_CONTRACT_STANDBY_VALID = false) ∨
        (bitOf (0x00640A0B#32 : Word) 3 = false ∧ sourceBar wValleyMessagesComplete25 (bitsOf (0x00640A0B#32 : Word) 31 16)
        true = none ∧ currentOk wValleyMessagesComplete25 (fld wValleyMessagesComplete25 W.VLY_CONTRACT_I_C + bitsOf
        (0x00640A0B#32 : Word) 15 8) = true)))) ∧
    (canonical wValleyMessagesComplete26 = true ∧
      hears wValleyMessagesComplete26 = true ∧
      (5#3 : BitVec 3).toNat ≠ strapOf wValleyMessagesComplete26 ∧
      partOf wValleyMessagesComplete26 ≠ 4 ∧
      (((4#4 : BitVec 4) ≠ 7#4 ∧ (4#4 : BitVec 4) ≠ 8#4 ∧ ((4#4 : BitVec 4) ≠ 2#4 ∨ wValleyMessagesComplete26.mode ≠
        .latched))) ∧
      wValleyMessagesComplete26.link.q17.length < 64 ∧
      (acceptOf 0x1E080561#32 0x04007890#32 : Contract) = acceptOf (0x1E080561#32 : Word) (0x04007890#32 : Word) ∧
      (true : Bool) = (vlyRole wValleyMessagesComplete26 ≠ 0 && fld wValleyMessagesComplete26 W.VLY_STATUS_CN = (acceptOf
        0x1E080561#32 0x04007890#32 : Contract).cn) ∧
      inMode wValleyMessagesComplete26 operModes = true ∧
      (((true : Bool) = true ∨ (vlyRole wValleyMessagesComplete26 = 0 ∧ partIn wValleyMessagesComplete26 (acceptOf
        0x1E080561#32 0x04007890#32 : Contract) ≠ 0))) ∧
      ((partIn wValleyMessagesComplete26 (acceptOf 0x1E080561#32 0x04007890#32 : Contract) = 0 ∨ ((true : Bool) = true ∧
        partIn wValleyMessagesComplete26 (acceptOf 0x1E080561#32 0x04007890#32 : Contract) = vlyRole
        wValleyMessagesComplete26) ∨ (contractBar wValleyMessagesComplete26 (acceptOf 0x1E080561#32 0x04007890#32 : Contract)
        = none ∧ (partIn wValleyMessagesComplete26 (acceptOf 0x1E080561#32 0x04007890#32 : Contract) = 2 ∨ sourceBar
        wValleyMessagesComplete26 (acceptOf 0x1E080561#32 0x04007890#32 : Contract).e (true : Bool) = none))))) := by
  decide +kernel

/-- Blocks and operands that meet the premises of the clauses of `Obligations.ValleyMessagesComplete`, part 8 of 16. -/
theorem witness_ValleyMessagesComplete_part8 :
    (canonical wValleyMessagesComplete18 = true ∧
      hears wValleyMessagesComplete18 = true ∧
      (5#3 : BitVec 3).toNat ≠ strapOf wValleyMessagesComplete18 ∧
      partOf wValleyMessagesComplete18 ≠ 4 ∧
      (((4#4 : BitVec 4) ≠ 7#4 ∧ (4#4 : BitVec 4) ≠ 8#4 ∧ ((4#4 : BitVec 4) ≠ 2#4 ∨ wValleyMessagesComplete18.mode ≠
        .latched))) ∧
      wValleyMessagesComplete18.link.q17.length < 64 ∧
      (acceptOf 0x1E200361#32 0x04007890#32 : Contract) = acceptOf (0x1E200361#32 : Word) (0x04007890#32 : Word) ∧
      (false : Bool) = (vlyRole wValleyMessagesComplete18 ≠ 0 && fld wValleyMessagesComplete18 W.VLY_STATUS_CN = (acceptOf
        0x1E200361#32 0x04007890#32 : Contract).cn) ∧
      inMode wValleyMessagesComplete18 operModes = true ∧
      (((false : Bool) = true ∨ vlyRole wValleyMessagesComplete18 = 0)) ∧
      ((partIn wValleyMessagesComplete18 (acceptOf 0x1E200361#32 0x04007890#32 : Contract) ≠ 0 ∧ ((false : Bool) = false ∨
        partIn wValleyMessagesComplete18 (acceptOf 0x1E200361#32 0x04007890#32 : Contract) ≠ vlyRole
        wValleyMessagesComplete18))) ∧
      ((contractBar wValleyMessagesComplete18 (acceptOf 0x1E200361#32 0x04007890#32 : Contract) = some (9 : Nat) ∨
        (contractBar wValleyMessagesComplete18 (acceptOf 0x1E200361#32 0x04007890#32 : Contract) = none ∧ partIn
        wValleyMessagesComplete18 (acceptOf 0x1E200361#32 0x04007890#32 : Contract) ≠ 2 ∧ sourceBar wValleyMessagesComplete18
        (acceptOf 0x1E200361#32 0x04007890#32 : Contract).e (false : Bool) = some (9 : Nat))))) ∧
    (canonical wValleyMessagesComplete19 = true ∧
      hears wValleyMessagesComplete19 = true ∧
      (5#3 : BitVec 3).toNat ≠ strapOf wValleyMessagesComplete19 ∧
      partOf wValleyMessagesComplete19 ≠ 4 ∧
      (((4#4 : BitVec 4) ≠ 7#4 ∧ (4#4 : BitVec 4) ≠ 8#4 ∧ ((4#4 : BitVec 4) ≠ 2#4 ∨ wValleyMessagesComplete19.mode ≠
        .latched))) ∧
      wValleyMessagesComplete19.link.q17.length < 64 ∧
      (acceptOf 0x1E200561#32 0x04007890#32 : Contract) = acceptOf (0x1E200561#32 : Word) (0x04007890#32 : Word) ∧
      (((vlyRole wValleyMessagesComplete19 ≠ 0 ∧ fld wValleyMessagesComplete19 W.VLY_STATUS_CN ≠ (acceptOf 0x1E200561#32
        0x04007890#32 : Contract).cn) ∨ (vlyRole wValleyMessagesComplete19 = 0 ∧ partIn wValleyMessagesComplete19 (acceptOf
        0x1E200561#32 0x04007890#32 : Contract) = 0) ∨ inMode wValleyMessagesComplete19 operModes = false))) := by
  decide +kernel

/-- Blocks and operands that meet the premises of the clauses of `Obligations.ValleyMessagesComplete`, part 9 of 16. -/
theorem witness_ValleyMessagesComplete_part9 :
    (canonical wValleyMessagesComplete26 = true ∧
      hears wValleyMessagesComplete26 = true ∧
      (5#3 : BitVec 3).toNat ≠ strapOf wValleyMessagesComplete26 ∧
      partOf wValleyMessagesComplete26 ≠ 4 ∧
      (((4#4 : BitVec 4) ≠ 7#4 ∧ (4#4 : BitVec 4) ≠ 8#4 ∧ ((4#4 : BitVec 4) ≠ 2#4 ∨ wValleyMessagesComplete26.mode ≠
        .latched))) ∧
      wValleyMessagesComplete26.link.q17.length < 64 ∧
      vlyRole wValleyMessagesComplete26 ≠ 0 ∧
      vlyRole wValleyMessagesComplete26 ≠ 1 ∧
      bitsOf (0x00050061#32 : Word) 7 0 = fld wValleyMessagesComplete26 W.VLY_STATUS_CN ∧
      (5#3 : BitVec 3).toNat = fld wValleyMessagesComplete26 W.VLY_CONTRACT_SOURCE ∧
      ((bitsOf (0x00050061#32 : Word) 15 8 = 0 ∨ bitsOf (0x00050061#32 : Word) 15 8 = 6 ∨ bitsOf (0x00050061#32 : Word) 15 8
        = 8))) ∧
    (canonical wValleyMessagesComplete19 = true ∧
      hears wValleyMessagesComplete19 = true ∧
      (5#3 : BitVec 3).toNat ≠ strapOf wValleyMessagesComplete19 ∧
      partOf wValleyMessagesComplete19 ≠ 4 ∧
      (((4#4 : BitVec 4) ≠ 7#4 ∧ (4#4 : BitVec 4) ≠ 8#4 ∧ ((4#4 : BitVec 4) ≠ 2#4 ∨ wValleyMessagesComplete19.mode ≠
        .latched))) ∧
      wValleyMessagesComplete19.link.q17.length < 64 ∧
      bitsOf (0x00030061#32 : Word) 18 16 = strapOf wValleyMessagesComplete19) ∧
    (canonical wValleyMessagesComplete31 = true ∧
      hears wValleyMessagesComplete31 = true ∧
      (5#3 : BitVec 3).toNat ≠ strapOf wValleyMessagesComplete31 ∧
      partOf wValleyMessagesComplete31 ≠ 4 ∧
      (((4#4 : BitVec 4) ≠ 7#4 ∧ (4#4 : BitVec 4) ≠ 8#4 ∧ ((4#4 : BitVec 4) ≠ 2#4 ∨ wValleyMessagesComplete31.mode ≠
        .latched))) ∧
      wValleyMessagesComplete31.link.q17.length < 64 ∧
      bitsOf (0x00030061#32 : Word) 18 16 = strapOf wValleyMessagesComplete31 ∧
      vlyRole wValleyMessagesComplete31 = 1 ∧
      bitsOf (0x00030061#32 : Word) 7 0 = fld wValleyMessagesComplete31 W.VLY_STATUS_CN ∧
      bitsOf (0x00030061#32 : Word) 15 8 = 0 ∧
      wValleyMessagesComplete31.vly.proposed = none ∧
      wValleyMessagesComplete31.vly.cur = some (contract3 : Contract)) := by
  decide +kernel

/-- Blocks and operands that meet the premises of the clauses of `Obligations.ValleyMessagesComplete`, part 10 of 16. -/
theorem witness_ValleyMessagesComplete_part10 :
    (canonical wValleyMessagesComplete32 = true ∧
      hears wValleyMessagesComplete32 = true ∧
      (5#3 : BitVec 3).toNat ≠ strapOf wValleyMessagesComplete32 ∧
      partOf wValleyMessagesComplete32 ≠ 4 ∧
      (((4#4 : BitVec 4) ≠ 7#4 ∧ (4#4 : BitVec 4) ≠ 8#4 ∧ ((4#4 : BitVec 4) ≠ 2#4 ∨ wValleyMessagesComplete32.mode ≠
        .latched))) ∧
      wValleyMessagesComplete32.link.q17.length < 64 ∧
      bitsOf (0x00030561#32 : Word) 18 16 = strapOf wValleyMessagesComplete32 ∧
      vlyRole wValleyMessagesComplete32 ≠ 0 ∧
      bitsOf (0x00030561#32 : Word) 7 0 = fld wValleyMessagesComplete32 W.VLY_STATUS_CN ∧
      bitsOf (0x00030561#32 : Word) 15 8 ≠ 0 ∧
      ((vlyRole wValleyMessagesComplete32 = 1 ∨ (5#3 : BitVec 3).toNat ≠ fld wValleyMessagesComplete32 W.VLY_CONTRACT_SOURCE
        ∨ (bitsOf (0x00030561#32 : Word) 15 8 ≠ 6 ∧ bitsOf (0x00030561#32 : Word) 15 8 ≠ 8))) ∧
      swapEnds (5#3 : BitVec 3).toNat (bitsOf (0x00030561#32 : Word) 15 8) (bitsOf (0x00030561#32 : Word) 31 24)
        wValleyMessagesComplete32 = true) ∧
    (canonical wValleyMessagesComplete33 = true ∧
      hears wValleyMessagesComplete33 = true ∧
      (5#3 : BitVec 3).toNat ≠ strapOf wValleyMessagesComplete33 ∧
      partOf wValleyMessagesComplete33 ≠ 4 ∧
      (((4#4 : BitVec 4) ≠ 7#4 ∧ (4#4 : BitVec 4) ≠ 8#4 ∧ ((4#4 : BitVec 4) ≠ 2#4 ∨ wValleyMessagesComplete33.mode ≠
        .latched))) ∧
      wValleyMessagesComplete33.link.q17.length < 64 ∧
      bitsOf (0x00030561#32 : Word) 18 16 = strapOf wValleyMessagesComplete33 ∧
      vlyRole wValleyMessagesComplete33 = 0 ∧
      wValleyMessagesComplete33.vly.reqTo = some (5#3 : BitVec 3).toNat ∧
      wValleyMessagesComplete33.eng.issued = [({ cmd0 with op := 0x51, params := [0#32, 0x17700064#32], startT := 9 } : Cmd)]
        ∧
      (({ cmd0 with op := 0x51, params := [0#32, 0x17700064#32], startT := 9 } : Cmd).started = true ∧
        ({ cmd0 with op := 0x51, params := [0#32, 0x17700064#32], startT := 9 } : Cmd).op = 0x51)) := by
  decide +kernel

/-- Blocks and operands that meet the premises of the clauses of `Obligations.ValleyMessagesComplete`, part 11 of 16. -/
theorem witness_ValleyMessagesComplete_part11 :
    (canonical wValleyMessagesComplete19 = true ∧
      hears wValleyMessagesComplete19 = true ∧
      (5#3 : BitVec 3).toNat ≠ strapOf wValleyMessagesComplete19 ∧
      partOf wValleyMessagesComplete19 ≠ 4 ∧
      (((4#4 : BitVec 4) ≠ 7#4 ∧ (4#4 : BitVec 4) ≠ 8#4 ∧ ((4#4 : BitVec 4) ≠ 2#4 ∨ wValleyMessagesComplete19.mode ≠
        .latched))) ∧
      wValleyMessagesComplete19.link.q17.length < 64 ∧
      bitsOf (0x00050061#32 : Word) 18 16 ≠ strapOf wValleyMessagesComplete19 ∧
      ((vlyRole wValleyMessagesComplete19 = 0 ∨ vlyRole wValleyMessagesComplete19 = 1 ∨ bitsOf (0x00050061#32 : Word) 7 0 ≠
        fld wValleyMessagesComplete19 W.VLY_STATUS_CN ∨ (5#3 : BitVec 3).toNat ≠ fld wValleyMessagesComplete19
        W.VLY_CONTRACT_SOURCE ∨ (bitsOf (0x00050061#32 : Word) 15 8 ≠ 0 ∧ bitsOf (0x00050061#32 : Word) 15 8 ≠ 6 ∧ bitsOf
        (0x00050061#32 : Word) 15 8 ≠ 8)))) ∧
    (canonical wValleyMessagesComplete19 = true ∧
      hears wValleyMessagesComplete19 = true ∧
      (5#3 : BitVec 3).toNat ≠ strapOf wValleyMessagesComplete19 ∧
      partOf wValleyMessagesComplete19 ≠ 4 ∧
      (((4#4 : BitVec 4) ≠ 7#4 ∧ (4#4 : BitVec 4) ≠ 8#4 ∧ ((4#4 : BitVec 4) ≠ 2#4 ∨ wValleyMessagesComplete19.mode ≠
        .latched))) ∧
      wValleyMessagesComplete19.link.q17.length < 64 ∧
      bitsOf (0x00001461#32 : Word) 10 8 ≠ strapOf wValleyMessagesComplete19) := by
  decide +kernel

/-- Blocks and operands that meet the premises of the clauses of `Obligations.ValleyMessagesComplete`, part 12 of 16. -/
theorem witness_ValleyMessagesComplete_part12 :
    (canonical wValleyMessagesComplete19 = true ∧
      hears wValleyMessagesComplete19 = true ∧
      (5#3 : BitVec 3).toNat ≠ strapOf wValleyMessagesComplete19 ∧
      partOf wValleyMessagesComplete19 ≠ 4 ∧
      (((4#4 : BitVec 4) ≠ 7#4 ∧ (4#4 : BitVec 4) ≠ 8#4 ∧ ((4#4 : BitVec 4) ≠ 2#4 ∨ wValleyMessagesComplete19.mode ≠
        .latched))) ∧
      wValleyMessagesComplete19.link.q17.length < 64 ∧
      bitsOf (0x00001361#32 : Word) 10 8 = strapOf wValleyMessagesComplete19 ∧
      (incomingBar (member 3 .run) : Option Nat) = (if vlyRole wValleyMessagesComplete19 = 1 then none else incomingBar
        wValleyMessagesComplete19) ∧
      (((thatchReady wValleyMessagesComplete19 = false ∧ (5 : Nat) = 5) ∨ (thatchReady wValleyMessagesComplete19 = true ∧
        (vlyRole wValleyMessagesComplete19 = 0 ∨ bitsOf (0x00001361#32 : Word) 7 0 ≠ fld wValleyMessagesComplete19
        W.VLY_STATUS_CN ∨ bitsOf (0x00001361#32 : Word) 12 11 = 3 ∨ swapParties wValleyMessagesComplete19 (5#3 : BitVec
        3).toNat = false) ∧ (5 : Nat) = 9) ∨ (thatchReady wValleyMessagesComplete19 = true ∧ vlyRole
        wValleyMessagesComplete19 ≠ 0 ∧ bitsOf (0x00001361#32 : Word) 7 0 = fld wValleyMessagesComplete19 W.VLY_STATUS_CN ∧
        bitsOf (0x00001361#32 : Word) 12 11 ≠ 3 ∧ swapParties wValleyMessagesComplete19 (5#3 : BitVec 3).toNat = true ∧
        (incomingBar (member 3 .run) : Option Nat) = some (5 : Nat))))) := by
  decide +kernel

/-- Blocks and operands that meet the premises of the clauses of `Obligations.ValleyMessagesComplete`, part 13 of 16. -/
theorem witness_ValleyMessagesComplete_part13 :
    (canonical wValleyMessagesComplete37 = true ∧
      hears wValleyMessagesComplete37 = true ∧
      (5#3 : BitVec 3).toNat ≠ strapOf wValleyMessagesComplete37 ∧
      partOf wValleyMessagesComplete37 ≠ 4 ∧
      (((4#4 : BitVec 4) ≠ 7#4 ∧ (4#4 : BitVec 4) ≠ 8#4 ∧ ((4#4 : BitVec 4) ≠ 2#4 ∨ wValleyMessagesComplete37.mode ≠
        .latched))) ∧
      wValleyMessagesComplete37.link.q17.length < 64 ∧
      bitsOf (0x00001361#32 : Word) 10 8 = strapOf wValleyMessagesComplete37 ∧
      thatchReady wValleyMessagesComplete37 = true ∧
      ((vlyRole wValleyMessagesComplete37 = 1 ∨ (vlyRole wValleyMessagesComplete37 ≠ 0 ∧ incomingBar
        wValleyMessagesComplete37 = none))) ∧
      bitsOf (0x00001361#32 : Word) 7 0 = fld wValleyMessagesComplete37 W.VLY_STATUS_CN ∧
      bitsOf (0x00001361#32 : Word) 12 11 ≠ 3 ∧
      swapParties wValleyMessagesComplete37 (5#3 : BitVec 3).toNat = true ∧
      wValleyMessagesComplete37.vly.swap = some ({ peer := 5, incoming := false, tX := some 9 } : Swap) ∧
      (((({ peer := 5, incoming := false, tX := some 9 } : Swap).tX.isSome = true ∧ (5 : Nat) = 5) ∨
        (({ peer := 5, incoming := false, tX := some 9 } : Swap).tX = none ∧ ({ peer := 5, incoming := false, tX := some 9 }
        : Swap).own = true ∧ ({ peer := 5, incoming := false, tX := some 9 } : Swap).peer ≠ (5#3 : BitVec 3).toNat ∧ vlyRole
        wValleyMessagesComplete37 ≠ 1 ∧ (5 : Nat) = 5) ∨ (({ peer := 5, incoming := false, tX := some 9 } : Swap).tX = none ∧
        (({ peer := 5, incoming := false, tX := some 9 } : Swap).own = false ∨
        ({ peer := 5, incoming := false, tX := some 9 } : Swap).peer = (5#3 : BitVec 3).toNat ∨ vlyRole
        wValleyMessagesComplete37 = 1) ∧ winsOver (bitsOf (0x00001361#32 : Word) 31 16 + 65536 * bitsOf (0x07000000#32 :
        Word) 15 0) (5#3 : BitVec 3).toNat ({ peer := 5, incoming := false, tX := some 9 } : Swap).reqTime (if
        ({ peer := 5, incoming := false, tX := some 9 } : Swap).own then strapOf wValleyMessagesComplete37 else
        ({ peer := 5, incoming := false, tX := some 9 } : Swap).peer) = false ∧ (5 : Nat) = 1)))) := by
  decide +kernel

/-- Blocks and operands that meet the premises of the clauses of `Obligations.ValleyMessagesComplete`, part 14 of 16. -/
theorem witness_ValleyMessagesComplete_part14 :
    (canonical wValleyMessagesComplete25 = true ∧
      hears wValleyMessagesComplete25 = true ∧
      (5#3 : BitVec 3).toNat ≠ strapOf wValleyMessagesComplete25 ∧
      partOf wValleyMessagesComplete25 ≠ 4 ∧
      (((4#4 : BitVec 4) ≠ 7#4 ∧ (4#4 : BitVec 4) ≠ 8#4 ∧ ((4#4 : BitVec 4) ≠ 2#4 ∨ wValleyMessagesComplete25.mode ≠
        .latched))) ∧
      wValleyMessagesComplete25.link.q17.length < 64 ∧
      bitsOf (0x00001361#32 : Word) 10 8 = strapOf wValleyMessagesComplete25 ∧
      thatchReady wValleyMessagesComplete25 = true ∧
      ((vlyRole wValleyMessagesComplete25 = 1 ∨ (vlyRole wValleyMessagesComplete25 ≠ 0 ∧ incomingBar
        wValleyMessagesComplete25 = none))) ∧
      bitsOf (0x00001361#32 : Word) 7 0 = fld wValleyMessagesComplete25 W.VLY_STATUS_CN ∧
      bitsOf (0x00001361#32 : Word) 12 11 ≠ 3 ∧
      swapParties wValleyMessagesComplete25 (5#3 : BitVec 3).toNat = true ∧
      wValleyMessagesComplete25.vly.swap.all (fun x => x.tX = none && (!x.own || x.peer = (5#3 : BitVec 3).toNat || vlyRole
        wValleyMessagesComplete25 = 1) && winsOver (bitsOf (0x00001361#32 : Word) 31 16 + 65536 * bitsOf (0x07000000#32 :
        Word) 15 0) (5#3 : BitVec 3).toNat x.reqTime (if x.own then strapOf wValleyMessagesComplete25 else x.peer)) = true) ∧
    (canonical wValleyMessagesComplete32 = true ∧
      hears wValleyMessagesComplete32 = true ∧
      (5#3 : BitVec 3).toNat ≠ strapOf wValleyMessagesComplete32 ∧
      partOf wValleyMessagesComplete32 ≠ 4 ∧
      (((4#4 : BitVec 4) ≠ 7#4 ∧ (4#4 : BitVec 4) ≠ 8#4 ∧ ((4#4 : BitVec 4) ≠ 2#4 ∨ wValleyMessagesComplete32.mode ≠
        .latched))) ∧
      wValleyMessagesComplete32.link.q17.length < 64 ∧
      vlyRole wValleyMessagesComplete32 ≠ 0 ∧
      bitsOf (0x000C0361#32 : Word) 7 0 = fld wValleyMessagesComplete32 W.VLY_STATUS_CN ∧
      bitsOf (0x000C0361#32 : Word) 10 8 = strapOf wValleyMessagesComplete32 ∧
      wValleyMessagesComplete32.vly.swap = some ({ peer := 5, incoming := false, own := true } : Swap) ∧
      (({ peer := 5, incoming := false, own := true } : Swap).own = true ∧ ({ peer := 5, incoming := false, own := true } :
        Swap).peer = (5#3 : BitVec 3).toNat ∧ ({ peer := 5, incoming := false, own := true } : Swap).tX = none) ∧
      ((({ peer := 5, incoming := false, own := true } : Swap).incoming = false ∨ incomingBar wValleyMessagesComplete32 =
        none))) := by
  decide +kernel

/-- Blocks and operands that meet the premises of the clauses of `Obligations.ValleyMessagesComplete`, part 15 of 16. -/
theorem witness_ValleyMessagesComplete_part15 :
    (canonical wValleyMessagesComplete40 = true ∧
      hears wValleyMessagesComplete40 = true ∧
      (5#3 : BitVec 3).toNat ≠ strapOf wValleyMessagesComplete40 ∧
      partOf wValleyMessagesComplete40 ≠ 4 ∧
      (((4#4 : BitVec 4) ≠ 7#4 ∧ (4#4 : BitVec 4) ≠ 8#4 ∧ ((4#4 : BitVec 4) ≠ 2#4 ∨ wValleyMessagesComplete40.mode ≠
        .latched))) ∧
      wValleyMessagesComplete40.link.q17.length < 64 ∧
      vlyRole wValleyMessagesComplete40 ≠ 0 ∧
      bitsOf (0x000C0361#32 : Word) 7 0 = fld wValleyMessagesComplete40 W.VLY_STATUS_CN ∧
      bitsOf (0x000C0361#32 : Word) 10 8 = strapOf wValleyMessagesComplete40 ∧
      wValleyMessagesComplete40.vly.swap = some ({ peer := 5, incoming := true, own := true } : Swap) ∧
      (({ peer := 5, incoming := true, own := true } : Swap).own = true ∧ ({ peer := 5, incoming := true, own := true } :
        Swap).peer = (5#3 : BitVec 3).toNat ∧ ({ peer := 5, incoming := true, own := true } : Swap).tX = none) ∧
      ({ peer := 5, incoming := true, own := true } : Swap).incoming = true ∧
      incomingBar wValleyMessagesComplete40 = some (9 : Nat)) ∧
    (canonical wValleyMessagesComplete41 = true ∧
      hears wValleyMessagesComplete41 = true ∧
      (5#3 : BitVec 3).toNat ≠ strapOf wValleyMessagesComplete41 ∧
      partOf wValleyMessagesComplete41 ≠ 4 ∧
      (((4#4 : BitVec 4) ≠ 7#4 ∧ (4#4 : BitVec 4) ≠ 8#4 ∧ ((4#4 : BitVec 4) ≠ 2#4 ∨ wValleyMessagesComplete41.mode ≠
        .latched))) ∧
      wValleyMessagesComplete41.link.q17.length < 64 ∧
      vlyRole wValleyMessagesComplete41 = 3 ∧
      bitsOf (0x000C0661#32 : Word) 7 0 = fld wValleyMessagesComplete41 W.VLY_STATUS_CN ∧
      bitsOf (0x000C0661#32 : Word) 10 8 ≠ strapOf wValleyMessagesComplete41 ∧
      fld wValleyMessagesComplete41 W.VLY_CONTRACT_SOURCE ≠ strapOf wValleyMessagesComplete41) := by
  decide +kernel

/-- Blocks and operands that meet the premises of the clauses of `Obligations.ValleyMessagesComplete`, part 16 of 16. -/
theorem witness_ValleyMessagesComplete_part16 :
    (canonical wValleyMessagesComplete19 = true ∧
      hears wValleyMessagesComplete19 = true ∧
      (5#3 : BitVec 3).toNat ≠ strapOf wValleyMessagesComplete19 ∧
      partOf wValleyMessagesComplete19 ≠ 4 ∧
      (((4#4 : BitVec 4) ≠ 7#4 ∧ (4#4 : BitVec 4) ≠ 8#4 ∧ ((4#4 : BitVec 4) ≠ 2#4 ∨ wValleyMessagesComplete19.mode ≠
        .latched))) ∧
      wValleyMessagesComplete19.link.q17.length < 64 ∧
      ((vlyRole wValleyMessagesComplete19 = 0 ∨ bitsOf (0x000C0661#32 : Word) 7 0 ≠ fld wValleyMessagesComplete19
        W.VLY_STATUS_CN ∨ (bitsOf (0x000C0661#32 : Word) 10 8 ≠ strapOf wValleyMessagesComplete19 ∧ vlyRole
        wValleyMessagesComplete19 ≠ 3) ∨ (bitsOf (0x000C0661#32 : Word) 10 8 = strapOf wValleyMessagesComplete19 ∧
        wValleyMessagesComplete19.vly.swap.all (fun x => !x.own || x.peer ≠ (5#3 : BitVec 3).toNat || x.tX.isSome) = true)))) := by
  decide +kernel


def wValleySwitchComplete0 : Device := { member 3 .run with vly := { pend := some ({ cn := 97, source := 5, sinks := 8, e := 120 }, 9) } }
def wValleySwitchComplete1 : Device := { partner 2 1 (member 3 .run) with vly := { pend := some ({ cn := 97, source := 5, sinks := 16, e := 120 }, 9) } }
def wValleySwitchComplete2 : Device := member 3 .run
def wValleySwitchComplete3 : Device := { partner 1 0 (member 3 .run) with vly := { safeFrom := some 7, lowFrom := some 9 } }
def wValleySwitchComplete4 : Device := partner 1 3 (member 3 .run)
def wValleySwitchComplete5 : Device := partner 1 2 (member 3 .run)
def wValleySwitchComplete9 : Device := { partner 1 3 (member 3 .run) with vly := { overFrom := some 7 } }
def wValleySwitchComplete11 : Device := partner 2 1 (member 3 .run)
def wValleySwitchComplete13 : Device := partner 2 0 (member 3 .run)
def wValleySwitchComplete15 : Device := withRail 5 { enabled := true } (partner 2 1 (member 3 .holdup))
def wValleySwitchComplete16 : Device := has [(W.VLY_STATUS_IN_WINDOW, 0, 1)] (partner 2 1 (member 3 .run))
def wValleySwitchComplete17 : Device := has [(W.VLY_CONTRACT_FS_AUTH, 0, 1), (W.BK_STATUS_BK_STATE, 0, 6)] (partner 3 0 (member 3 .run))
def wValleySwitchComplete19 : Device := has [(W.VLY_STATUS_FS_ARMED, 0, 1), (W.VLY_CONTRACT_FS_AUTH, 0, 1), (W.BK_STATUS_BK_STATE, 0, 6)] (partner 3 0 (member 3 .run))
def wValleySwitchComplete20 : Device := has [(W.VLY_CONTRACT_FS_AUTH, 0, 1)] (partner 3 0 (member 3 .run))
def wValleySwitchComplete21 : Device := has [(W.VLY_CONTRACT_FS_AUTH, 0, 1), (W.VLY_CONTRACT_STANDBY_VALID, 0, 1)] (partner 1 3 (member 3 .run))
def wValleySwitchComplete23 : Device := { partner 1 3 (member 3 .run) with vly := { energy := 120 * tenJoule } }
def wValleySwitchComplete25 : Device := { partner 2 1 (member 3 .run) with vly := { swap := some { peer := 5, incoming := true, tX := some 12 } } }
def wValleySwitchComplete26 : Device := { partner 2 0 (member 3 .run) with vly := { swap := some { peer := 5, incoming := true, tX := some 12 } } }
def wValleySwitchComplete28 : Device := { partner 1 3 (member 3 .run) with vly := { swap := some { peer := 5, incoming := false, tX := some 12 } } }
def wValleySwitchComplete30 : Device := { partner 2 3 (member 3 .run) with vly := { cur := some { contract3 with source := 5, sinks := 8 }, swap := some { peer := 5, incoming := true, tX := some 12 } } }

/-- Blocks and operands that meet the premises of the clauses of `Obligations.ValleySwitchComplete`, part 1 of 3. -/
theorem witness_ValleySwitchComplete_part1 :
    (canonical wValleySwitchComplete0 = true ∧
      wValleySwitchComplete0.vly.pend = some (({ cn := 97, source := 5, sinks := 8, e := 120 } : Contract), (9 : Nat)) ∧
      inMode wValleySwitchComplete0 operModes = true ∧
      partIn wValleySwitchComplete0 ({ cn := 97, source := 5, sinks := 8, e := 120 } : Contract) ≠ 0) ∧
    (canonical wValleySwitchComplete1 = true ∧
      wValleySwitchComplete1.vly.pend = some (({ cn := 97, source := 5, sinks := 16, e := 120 } : Contract), (9 : Nat)) ∧
      inMode wValleySwitchComplete1 operModes = true ∧
      partIn wValleySwitchComplete1 ({ cn := 97, source := 5, sinks := 16, e := 120 } : Contract) = 0) ∧
    (canonical wValleySwitchComplete2 = true ∧
      ((wValleySwitchComplete2.vly.pend = none ∨ inMode wValleySwitchComplete2 operModes = false))) ∧
    (canonical wValleySwitchComplete3 = true ∧
      wValleySwitchComplete3.vly.safeFrom = some (7 : Nat) ∧
      wValleySwitchComplete3.vly.lowFrom = some (9 : Nat) ∧
      vlyRole wValleySwitchComplete3 = 1 ∧
      vlySw wValleySwitchComplete3 = 0 ∧
      (9 : Nat) + 10000 ≤ (7 : Nat) + 50000000) ∧
    (canonical wValleySwitchComplete4 = true ∧
      ((vlyRole wValleySwitchComplete4 ≠ 1 ∨ vlySw wValleySwitchComplete4 ≠ 0 ∨ wValleySwitchComplete4.vly.safeFrom = none ∨
        wValleySwitchComplete4.vly.lowFrom = none ∨ wValleySwitchComplete4.vly.safeFrom.any (fun x =>
        wValleySwitchComplete4.vly.lowFrom.any (fun t => x + 50000000 < t + 10000)) = true))) ∧
    (canonical wValleySwitchComplete5 = true ∧
      vlySw wValleySwitchComplete5 = 2) ∧
    (canonical wValleySwitchComplete4 = true ∧
      vlySw wValleySwitchComplete4 ≠ 2) ∧
    (canonical wValleySwitchComplete5 = true ∧
      vlyRole wValleySwitchComplete5 = 1 ∧
      ((vlySw wValleySwitchComplete5 = 2 ∨ wValleySwitchComplete5.vly.safeFrom.isSome = true))) ∧
    (canonical wValleySwitchComplete4 = true ∧
      ((vlyRole wValleySwitchComplete4 ≠ 1 ∨ (vlySw wValleySwitchComplete4 ≠ 2 ∧ wValleySwitchComplete4.vly.safeFrom = none)))) ∧
    (canonical wValleySwitchComplete9 = true ∧
      overloadAt wValleySwitchComplete9 = some (100007 : Nat) ∧
      2 ≤ vlySw wValleySwitchComplete9) ∧
    (canonical wValleySwitchComplete4 = true ∧
      ((overloadAt wValleySwitchComplete4 = none ∨ vlySw wValleySwitchComplete4 < 2))) ∧
    (canonical wValleySwitchComplete11 = true ∧
      vlySw wValleySwitchComplete11 = 1) := by
  decide +kernel

/-- Blocks and operands that meet the premises of the clauses of `Obligations.ValleySwitchComplete`, part 2 of 3. -/
theorem witness_ValleySwitchComplete_part2 :
    (canonical wValleySwitchComplete4 = true ∧
      vlySw wValleySwitchComplete4 ≠ 1) ∧
    (canonical wValleySwitchComplete13 = true ∧
      vlyRole wValleySwitchComplete13 ≠ 0) ∧
    (canonical wValleySwitchComplete2 = true ∧
      vlyRole wValleySwitchComplete2 = 0) ∧
    (canonical wValleySwitchComplete15 = true ∧
      wValleySwitchComplete15.mode = .holdup ∧
      ridesLine wValleySwitchComplete15 = true ∧
      (rail wValleySwitchComplete15 (5 : Fin 32)).enabled = true ∧
      (rail wValleySwitchComplete15 (5 : Fin 32)).fallFail = false) ∧
    (canonical wValleySwitchComplete16 = true ∧
      ((wValleySwitchComplete16.mode ≠ .holdup ∨ ridesLine wValleySwitchComplete16 = false))) ∧
    (canonical wValleySwitchComplete17 = true ∧
      standsBy wValleySwitchComplete17 = true ∧
      bkState wValleySwitchComplete17 = 6) ∧
    (canonical wValleySwitchComplete11 = true ∧
      ((standsBy wValleySwitchComplete11 = false ∨ bkState wValleySwitchComplete11 ≠ 6))) ∧
    (canonical wValleySwitchComplete19 = true ∧
      mayClose wValleySwitchComplete19 = true) ∧
    (canonical wValleySwitchComplete20 = true ∧
      mayClose wValleySwitchComplete20 = false) ∧
    (canonical wValleySwitchComplete21 = true ∧
      vlyRole wValleySwitchComplete21 = 1 ∧
      vlySw wValleySwitchComplete21 = 3 ∧
      standbyAuth wValleySwitchComplete21 = true) ∧
    (canonical wValleySwitchComplete4 = true ∧
      ((vlyRole wValleySwitchComplete4 ≠ 1 ∨ vlySw wValleySwitchComplete4 ≠ 3 ∨ standbyAuth wValleySwitchComplete4 = false))) ∧
    (canonical wValleySwitchComplete23 = true ∧
      vlyRole wValleySwitchComplete23 = 1 ∧
      contractEnergy wValleySwitchComplete23 ≤ wValleySwitchComplete23.vly.energy) ∧
    (canonical wValleySwitchComplete4 = true ∧
      ((vlyRole wValleySwitchComplete4 ≠ 1 ∨ wValleySwitchComplete4.vly.energy < contractEnergy wValleySwitchComplete4))) := by
  decide +kernel

/-- Blocks and operands that meet the premises of the clauses of `Obligations.ValleySwitchComplete`, part 3 of 3. -/
theorem witness_ValleySwitchComplete_part3 :
    (canonical wValleySwitchComplete25 = true ∧
      wValleySwitchComplete25.vly.swap = some ({ peer := 5, incoming := true, tX := some 12 } : Swap) ∧
      ({ peer := 5, incoming := true, tX := some 12 } : Swap).incoming = true ∧
      ({ peer := 5, incoming := true, tX := some 12 } : Swap).tX = some (12 : Nat) ∧
      vlySw wValleySwitchComplete25 = 1) ∧
    (canonical wValleySwitchComplete26 = true ∧
      wValleySwitchComplete26.vly.swap = some ({ peer := 5, incoming := true, tX := some 12 } : Swap) ∧
      ({ peer := 5, incoming := true, tX := some 12 } : Swap).incoming = true ∧
      ({ peer := 5, incoming := true, tX := some 12 } : Swap).tX = some (12 : Nat) ∧
      vlySw wValleySwitchComplete26 ≠ 1) ∧
    (canonical wValleySwitchComplete2 = true ∧
      wValleySwitchComplete2.vly.swap.all (fun x => !x.incoming || x.tX.isNone) = true) ∧
    (canonical wValleySwitchComplete28 = true ∧
      wValleySwitchComplete28.vly.swap = some ({ peer := 5, incoming := false, tX := some 12 } : Swap) ∧
      ({ peer := 5, incoming := false, tX := some 12 } : Swap).incoming = false ∧
      ({ peer := 5, incoming := false, tX := some 12 } : Swap).tX = some (12 : Nat) ∧
      vlyRole wValleySwitchComplete28 = 1 ∧
      vlySw wValleySwitchComplete28 = 3) ∧
    (canonical wValleySwitchComplete2 = true ∧
      ((vlyRole wValleySwitchComplete2 ≠ 1 ∨ vlySw wValleySwitchComplete2 ≠ 3 ∨ wValleySwitchComplete2.vly.swap.all (fun x =>
        x.incoming || x.tX.isNone) = true))) ∧
    (canonical wValleySwitchComplete30 = true ∧
      wValleySwitchComplete30.vly.swap = some ({ peer := 5, incoming := true, tX := some 12 } : Swap) ∧
      wValleySwitchComplete30.vly.cur = some ({ contract3 with source := 5, sinks := 8 } : Contract) ∧
      ({ peer := 5, incoming := true, tX := some 12 } : Swap).incoming = true ∧
      ({ peer := 5, incoming := true, tX := some 12 } : Swap).tX = some (12 : Nat) ∧
      vlySw wValleySwitchComplete30 = 3) ∧
    (canonical wValleySwitchComplete2 = true ∧
      ((wValleySwitchComplete2.vly.cur = none ∨ vlySw wValleySwitchComplete2 ≠ 3 ∨ wValleySwitchComplete2.vly.swap.all (fun x
        => !x.incoming || x.tX.isNone) = true))) := by
  decide +kernel


def wEventCommandsComplete0 : Device := up .run
def wEventCommandsComplete1 : Device := setW (up .run) (W.EVT_PEND_N + 12) 0xFF#32
def wEventCommandsComplete2 : Device := setW (up .run) (W.EVT_PEND_F + 27) 0x80000001#32
def wEventCommandsComplete3 : Device := { setW (setW (up .run) (W.EVT_PEND_N + 2) 0xFF#32) (W.EVT_EN + 2) 0x80#32 with ev := { levels := [(71, true)] } }
def wEventCommandsComplete6 : Device := has [(W.EVT_CTRL_GDIS, 0, 1)] (setW { up .run with ev := { srcs := [(895, { count := 1, fast := true })] } } (W.EVT_LAT + 27) 0x80000000#32)
def wEventCommandsComplete7 : Device := setW (up .run) (W.EVT_PEND_F + 27) 1#32
def wEventCommandsComplete9 : Device := setW { up .run with ev := { ackGroup := 27 } } (W.EVT_PEND_F + 27) 3#32
def wEventCommandsComplete10 : Device := { setW (setW (up .run) (W.EVT_PEND_F + 2) 0xFF#32) (W.EVT_EN + 2) 0x80#32 with ev := { levels := [(71, true)], ackGroup := 2 } }
def wEventCommandsComplete11 : Device := up .dormant
def wEventCommandsComplete12 : Device := setW { up .run with ev := { groups := [(8, { count := 1, start := 5 })] } } (W.EVT_LAT + 8) 0x80000000#32
def wEventCommandsComplete13 : Device := has [(W.EVT_CTRL_GDIS, 0, 1)] (setW { up .run with ev := { groups := [(8, { count := 1, start := 5 })] } } (W.EVT_LAT + 8) 0x80000000#32)
def wEventCommandsComplete18 : Device := { up .run with ev := { levels := [(71, true)] } }

/-- Blocks and operands that meet the premises of the clauses of `Obligations.EventCommandsComplete`, part 1 of 3. -/
theorem witness_EventCommandsComplete_part1 :
    (canonical wEventCommandsComplete0 = true ∧
      engineOn wEventCommandsComplete0 = true ∧
      firstFail [(bitsOf (28#32 : Word) 31 9 = 0 && bitsOf (28#32 : Word) 7 5 = 0 && bitsOf (28#32 : Word) 4 0 < 28,
        .badParam), (modeOk .live wEventCommandsComplete0, .deniedMode)] = some (.badParam : Status)) ∧
    (canonical wEventCommandsComplete1 = true ∧
      engineOn wEventCommandsComplete1 = true ∧
      modeOk .live wEventCommandsComplete1 = true ∧
      (bitsOf (12#32 : Word) 31 9 = 0 ∧ bitsOf (12#32 : Word) 7 5 = 0 ∧ bitsOf (12#32 : Word) 4 0 < 28) ∧
      bitOf (12#32 : Word) 8 = false ∧
      (List.range 32).all (fun b => !(0x3#32 : Word).getLsbD b || !levelHolds wEventCommandsComplete1 (32 * bitsOf (12#32 :
        Word) 4 0 + b) || !isLevel (32 * bitsOf (12#32 : Word) 4 0)) = true) ∧
    (canonical wEventCommandsComplete2 = true ∧
      engineOn wEventCommandsComplete2 = true ∧
      modeOk .live wEventCommandsComplete2 = true ∧
      (bitsOf (0x11B#32 : Word) 31 9 = 0 ∧ bitsOf (0x11B#32 : Word) 7 5 = 0 ∧ bitsOf (0x11B#32 : Word) 4 0 < 28) ∧
      bitOf (0x11B#32 : Word) 8 = true ∧
      (List.range 32).all (fun b => !(0x80000000#32 : Word).getLsbD b || !levelHolds wEventCommandsComplete2 (32 * bitsOf
        (0x11B#32 : Word) 4 0 + b) || !isLevel (32 * bitsOf (0x11B#32 : Word) 4 0)) = true) ∧
    (canonical wEventCommandsComplete3 = true ∧
      engineOn wEventCommandsComplete3 = true ∧
      modeOk .live wEventCommandsComplete3 = true ∧
      (bitsOf (2#32 : Word) 31 9 = 0 ∧ bitsOf (2#32 : Word) 7 5 = 0 ∧ bitsOf (2#32 : Word) 4 0 < 28) ∧
      isLevel (32 * bitsOf (2#32 : Word) 4 0) = true ∧
      (0x80#32 : Word).getLsbD (7 : Fin 32) = true ∧
      levelHolds wEventCommandsComplete3 (32 * bitsOf (2#32 : Word) 4 0 + (7 : Fin 32)) = true ∧
      (if bitOf (2#32 : Word) 8 then evPendF wEventCommandsComplete3 (32 * bitsOf (2#32 : Word) 4 0 + (7 : Fin 32)) else
        evPendN wEventCommandsComplete3 (32 * bitsOf (2#32 : Word) 4 0 + (7 : Fin 32))) = true) ∧
    (canonical wEventCommandsComplete0 = true ∧
      engineOn wEventCommandsComplete0 = true ∧
      firstFail [(bitsOf (2#32 : Word) 31 1 = 0, .badParam), (modeOk .live wEventCommandsComplete0, .deniedMode)] = some
        (.badParam : Status)) ∧
    (canonical wEventCommandsComplete0 = true ∧
      engineOn wEventCommandsComplete0 = true ∧
      modeOk .live wEventCommandsComplete0 = true ∧
      bitsOf (1#32 : Word) 31 1 = 0) := by
  decide +kernel

/-- Blocks and operands that meet the premises of the clauses of `Obligations.EventCommandsComplete`, part 2 of 3. -/
theorem witness_EventCommandsComplete_part2 :
    (canonical wEventCommandsComplete6 = true ∧
      engineOn wEventCommandsComplete6 = true ∧
      modeOk .live wEventCommandsComplete6 = true ∧
      (0#32 : Word) = 0#32 ∧
      gdis wEventCommandsComplete6 = true ∧
      evLat wEventCommandsComplete6 (32 * (27 : Fin 28) + (31 : Fin 32)) = true ∧
      (((srcRec wEventCommandsComplete6 (32 * (27 : Fin 28) + (31 : Fin 32))).fast = true ∨ countReached
        wEventCommandsComplete6 (27 : Fin 28) = true ∨ timeReached wEventCommandsComplete6 (27 : Fin 28) = true))) ∧
    (canonical wEventCommandsComplete7 = true ∧
      portOn wEventCommandsComplete7 = true ∧
      fastGroup wEventCommandsComplete7 = some (27 : Nat)) ∧
    (canonical wEventCommandsComplete0 = true ∧
      ((portOn wEventCommandsComplete0 = false ∨ fastGroup wEventCommandsComplete0 = none))) ∧
    (canonical wEventCommandsComplete9 = true ∧
      portOn wEventCommandsComplete9 = true ∧
      wEventCommandsComplete9.ev.ackGroup < 28 ∧
      (List.range 32).all (fun b => !(1#32 : Word).getLsbD b || !levelHolds wEventCommandsComplete9 (32 *
        wEventCommandsComplete9.ev.ackGroup + b) || !isLevel (32 * wEventCommandsComplete9.ev.ackGroup)) = true) ∧
    (canonical wEventCommandsComplete10 = true ∧
      portOn wEventCommandsComplete10 = true ∧
      wEventCommandsComplete10.ev.ackGroup < 28 ∧
      isLevel (32 * wEventCommandsComplete10.ev.ackGroup) = true ∧
      (0x80#32 : Word).getLsbD (7 : Fin 32) = true ∧
      levelHolds wEventCommandsComplete10 (32 * wEventCommandsComplete10.ev.ackGroup + (7 : Fin 32)) = true ∧
      evPendF wEventCommandsComplete10 (32 * wEventCommandsComplete10.ev.ackGroup + (7 : Fin 32)) = true) ∧
    (canonical wEventCommandsComplete11 = true ∧
      portOn wEventCommandsComplete11 = false) ∧
    (canonical wEventCommandsComplete12 = true ∧
      0 < (grpRec wEventCommandsComplete12 (8#5 : BitVec 5).toNat).count ∧
      inMode wEventCommandsComplete12 [.dormant, .standby] = false ∧
      gdis wEventCommandsComplete12 = false ∧
      (8#5 : BitVec 5).toNat < 28 ∧
      evLat wEventCommandsComplete12 (32 * (8#5 : BitVec 5).toNat + (31 : Fin 32)) = true ∧
      (srcRec wEventCommandsComplete12 (32 * (8#5 : BitVec 5).toNat + (31 : Fin 32))).fast = false) ∧
    (canonical wEventCommandsComplete13 = true ∧
      0 < (grpRec wEventCommandsComplete13 (8#5 : BitVec 5).toNat).count ∧
      inMode wEventCommandsComplete13 [.dormant, .standby] = false ∧
      gdis wEventCommandsComplete13 = true) := by
  decide +kernel

/-- Blocks and operands that meet the premises of the clauses of `Obligations.EventCommandsComplete`, part 3 of 3. -/
theorem witness_EventCommandsComplete_part3 :
    (canonical wEventCommandsComplete0 = true ∧
      (((grpRec wEventCommandsComplete0 (8#5 : BitVec 5).toNat).count = 0 ∨ inMode wEventCommandsComplete0 [.dormant,
        .standby] = true))) ∧
    (canonical wEventCommandsComplete0 = true ∧
      engineOn wEventCommandsComplete0 = true ∧
      mayWrite (rq0 : Req).src (W.EVT_COAL + (27#5 : BitVec 5).toNat) (0xFF00FFFF#32 : Word) wEventCommandsComplete0 = true ∧
      (27#5 : BitVec 5).toNat < 28) ∧
    (canonical wEventCommandsComplete12 = true ∧
      engineOn wEventCommandsComplete12 = true ∧
      mayWrite (rq0 : Req).src (W.EVT_COAL + (8 : Fin 28)) (0x01000064#32 : Word) wEventCommandsComplete12 = true ∧
      gdis wEventCommandsComplete12 = false ∧
      ((countReached (setW wEventCommandsComplete12 (W.EVT_COAL + (8 : Fin 28)) (merged (W.EVT_COAL + (8 : Fin 28)) (getW
        wEventCommandsComplete12 (W.EVT_COAL + (8 : Fin 28))) (0x01000064#32 : Word))) (8 : Fin 28) = true ∨ timeReached
        (setW wEventCommandsComplete12 (W.EVT_COAL + (8 : Fin 28)) (merged (W.EVT_COAL + (8 : Fin 28)) (getW
        wEventCommandsComplete12 (W.EVT_COAL + (8 : Fin 28))) (0x01000064#32 : Word))) (8 : Fin 28) = true)) ∧
      evLat wEventCommandsComplete12 (32 * (8 : Fin 28) + (31 : Fin 32)) = true ∧
      (srcRec wEventCommandsComplete12 (32 * (8 : Fin 28) + (31 : Fin 32))).fast = false) ∧
    (canonical wEventCommandsComplete0 = true ∧
      engineOn wEventCommandsComplete0 = true ∧
      mayWrite (rq0 : Req).src (W.EVT_COAL + (31#5 : BitVec 5).toNat) (0#32 : Word) wEventCommandsComplete0 = false) ∧
    (canonical wEventCommandsComplete18 = true ∧
      engineOn wEventCommandsComplete18 = true ∧
      mayWrite (rq0 : Req).src (W.EVT_EN + (2#5 : BitVec 5).toNat) (0xFFFFFFFF#32 : Word) wEventCommandsComplete18 = true ∧
      (2#5 : BitVec 5).toNat < 28) ∧
    (canonical wEventCommandsComplete0 = true ∧
      engineOn wEventCommandsComplete0 = true ∧
      mayWrite (rq0 : Req).src (W.EVT_EN + (31#5 : BitVec 5).toNat) (0#32 : Word) wEventCommandsComplete0 = false) := by
  decide +kernel


def wWordRowsComplete0 : Device := has [(W.GAUGE_NOM_FCC_NOM, 0, 20000), (W.GAUGE_FCC_FCC, 0, 19000), (W.GAUGE_STATUS_ANCHOR, 0, 1)] { up .service with gauge := { rem := 99 } }
def wWordRowsComplete1 : Device := up .run
def wWordRowsComplete2 : Device := partner 1 3 (member 3 .run)
def wWordRowsComplete3 : Device := member 3 .run
def wWordRowsComplete4 : Device := up .replay
def wWordRowsComplete9 : Device := has [(W.SSO_CTRL_HOST_HOLD, 0, 1), (W.SSO_STATUS_ASSERTED, 0, 0)] (up .run)
def wWordRowsComplete11 : Device := has [(W.SUP_STATUS_FAULT_LATCH, 31, 1)] (withRail 31 { live := 1 } (up .run))
def wWordRowsComplete12 : Device := has [(W.SUP_STATUS_FAULT_LATCH, 31, 1)] (up .replay)
def wWordRowsComplete13 : Device := unlocked .run
def wWordRowsComplete17 : Device := has [(W.CHG_STATUS_WD_SAFE, 0, 1)] (up .run)

/-- Blocks and operands that meet the premises of the clauses of `Obligations.WordRowsComplete`, part 1 of 2. -/
theorem witness_WordRowsComplete_part1 :
    (canonical wWordRowsComplete0 = true ∧
      engineOn wWordRowsComplete0 = true ∧
      mayWrite (rq0 : Req).src W.GAUGE_CTRL 1#32 wWordRowsComplete0 = true) ∧
    (canonical wWordRowsComplete1 = true ∧
      engineOn wWordRowsComplete1 = true ∧
      mayWrite (rq0 : Req).src W.GAUGE_CTRL 1#32 wWordRowsComplete1 = false) ∧
    (canonical wWordRowsComplete2 = true ∧
      engineOn wWordRowsComplete2 = true ∧
      mayWrite (rq0 : Req).src W.VLY_CMD 1#32 wWordRowsComplete2 = true ∧
      vlyRole wWordRowsComplete2 ≠ 0) ∧
    (canonical wWordRowsComplete3 = true ∧
      engineOn wWordRowsComplete3 = true ∧
      mayWrite (rq0 : Req).src W.VLY_CMD 1#32 wWordRowsComplete3 = true ∧
      vlyRole wWordRowsComplete3 = 0) ∧
    (canonical wWordRowsComplete4 = true ∧
      engineOn wWordRowsComplete4 = true ∧
      mayWrite (rq0 : Req).src W.VLY_CMD 1#32 wWordRowsComplete4 = false) ∧
    (canonical wWordRowsComplete1 = true ∧
      engineOn wWordRowsComplete1 = true ∧
      mayWrite (rq0 : Req).src W.GUT_SEL (5#32 : Word) wWordRowsComplete1 = true) ∧
    (canonical wWordRowsComplete4 = true ∧
      engineOn wWordRowsComplete4 = true ∧
      mayWrite (rq0 : Req).src W.GUT_SEL (5#32 : Word) wWordRowsComplete4 = false) ∧
    (canonical wWordRowsComplete1 = true ∧
      engineOn wWordRowsComplete1 = true ∧
      mayWrite (rq0 : Req).src W.CAP_FREE (2#32 : Word) wWordRowsComplete1 = true) ∧
    (canonical wWordRowsComplete4 = true ∧
      engineOn wWordRowsComplete4 = true ∧
      mayWrite (rq0 : Req).src W.CAP_FREE (3#32 : Word) wWordRowsComplete4 = false) ∧
    (canonical wWordRowsComplete9 = true ∧
      engineOn wWordRowsComplete9 = true ∧
      mayWrite (rq0 : Req).src W.SSO_CTRL (0xA#32 : Word) wWordRowsComplete9 = true) ∧
    (canonical wWordRowsComplete4 = true ∧
      engineOn wWordRowsComplete4 = true ∧
      mayWrite (rq0 : Req).src W.SSO_CTRL (3#32 : Word) wWordRowsComplete4 = false) := by
  decide +kernel

/-- Blocks and operands that meet the premises of the clauses of `Obligations.WordRowsComplete`, part 2 of 2. -/
theorem witness_WordRowsComplete_part2 :
    (canonical wWordRowsComplete11 = true ∧
      engineOn wWordRowsComplete11 = true ∧
      mayWrite (rq0 : Req).src (W.SUP_STATUS + 32 * (31#5 : BitVec 5).toNat) 0x400000#32 wWordRowsComplete11 = true) ∧
    (canonical wWordRowsComplete12 = true ∧
      engineOn wWordRowsComplete12 = true ∧
      mayWrite (rq0 : Req).src (W.SUP_STATUS + 32 * (31#5 : BitVec 5).toNat) 0x400000#32 wWordRowsComplete12 = false) ∧
    (canonical wWordRowsComplete13 = true ∧
      engineOn wWordRowsComplete13 = true ∧
      mayWrite (rq0 : Req).src W.RTC_TIME (0x00173B3B#32 : Word) wWordRowsComplete13 = true) ∧
    (canonical wWordRowsComplete13 = true ∧
      engineOn wWordRowsComplete13 = true ∧
      mayWrite (rq0 : Req).src W.RTC_TIME (0x00183B3B#32 : Word) wWordRowsComplete13 = false) ∧
    (canonical wWordRowsComplete13 = true ∧
      engineOn wWordRowsComplete13 = true ∧
      mayWrite (rq0 : Req).src W.RTC_DATE (0x00240101#32 : Word) wWordRowsComplete13 = true) ∧
    (canonical wWordRowsComplete13 = true ∧
      engineOn wWordRowsComplete13 = true ∧
      mayWrite (rq0 : Req).src W.RTC_DATE (0x00240D01#32 : Word) wWordRowsComplete13 = false) ∧
    (canonical wWordRowsComplete17 = true ∧
      engineOn wWordRowsComplete17 = true ∧
      mayWrite (rq0 : Req).src W.CHG_SET (0x019A0064#32 : Word) wWordRowsComplete17 = true) ∧
    (canonical wWordRowsComplete4 = true ∧
      engineOn wWordRowsComplete4 = true ∧
      mayWrite (rq0 : Req).src W.CHG_SET (0x019A0064#32 : Word) wWordRowsComplete4 = false) := by
  decide +kernel


def wThermalComplete0 : Device := { up .service with adc := { last := [(127, 1450)] } }
def wThermalComplete1 : Device := { up .run with adc := { last := [(127, 1450)] }, therm := { samples := [(21, 3)] } }
def wThermalComplete2 : Device := { has [(W.TX_CFG_TX_EN, 7, 1)] (up .run) with adc := { last := [(93, 8191)] } }
def wThermalComplete3 : Device := { has [(W.TX_CFG_TX_EN, 7, 1), (W.TH_SUSPECT_SUSPECT, 0, 0x80000000)] (up .run) with adc := { last := [(93, 250)] }, therm := { okCnt := [(31, 63)], range := 0x80000000 } }
def wThermalComplete4 : Device := withRail 4 { enabled := true } { up .ramp with adc := { last := [(127, 1650)] } }
def wThermalComplete5 : Device := withRail 4 { enabled := true } { up .ramp with adc := { last := [(104, 1650)] } }
def wThermalComplete6 : Device := withRail 4 { enabled := true } { up .descend with adc := { last := [(127, 1750)] }, therm := { orderly := some 5 } }
def wThermalComplete7 : Device := has [(W.MODE_STATUS_LATCH_CAUSE, 0, 7)] (up .latched)
def wThermalComplete8 : Device := up .replay
def wThermalComplete9 : Device := has [(W.TH_SUSPECT_SUSPECT, 0, 0x80000000)] { up .run with therm := { value := [(31, -450)], raw := [(31, 2001)], subst := 0x80000000 } }

/-- Blocks and operands that meet the premises of the clauses of `Obligations.ThermalComplete`, part 1 of 2. -/
theorem witness_ThermalComplete_part1 :
    (canonical wThermalComplete0 = true ∧
      adcOn wThermalComplete0 = true) ∧
    (canonical wThermalComplete1 = true ∧
      adcOn wThermalComplete1 = true ∧
      (0x800000#32 : Word).toNat = 2 ^ (23 : Fin 32).val ∧
      sensorOn wThermalComplete1 (23 : Fin 32) = true) ∧
    (canonical wThermalComplete2 = true ∧
      adcOn wThermalComplete2 = true ∧
      (0x80000000#32 : Word).toNat = 2 ^ (31 : Fin 32).val ∧
      sensorOn wThermalComplete2 (31 : Fin 32) = true ∧
      isSuspect wThermalComplete2 (31 : Fin 32) = false ∧
      (((24 ≤ (31 : Fin 32).val ∧ (adcVal wThermalComplete2 (sensorChannel (31 : Fin 32)) < -450 ∨ 2000 < adcVal
        wThermalComplete2 (sensorChannel (31 : Fin 32)))) ∨ (wThermalComplete2.therm.range.testBit (31 : Fin 32) = false ∧ 7
        ≤ samplesOf wThermalComplete2 (31 : Fin 32) ∧ 7 ≤ SMap.get (fun _ => 0) wThermalComplete2.therm.susCnt (31 : Fin
        32).val ∧ beyondMedian
        { wThermalComplete2 with therm := { wThermalComplete2.therm with raw := SMap.set (fun _ => 0) (31 : Fin 32).val (adcVal wThermalComplete2 (sensorChannel (31 : Fin 32))) wThermalComplete2.therm.raw } } (31 : Fin 32) = some true)))) ∧
    (canonical wThermalComplete3 = true ∧
      adcOn wThermalComplete3 = true ∧
      (0x80000000#32 : Word).toNat = 2 ^ (31 : Fin 32).val ∧
      sensorOn wThermalComplete3 (31 : Fin 32) = true ∧
      isSuspect wThermalComplete3 (31 : Fin 32) = true ∧
      63 ≤ SMap.get (fun _ => 0) wThermalComplete3.therm.okCnt (31 : Fin 32).val ∧
      (((31 : Fin 32).val < 24 ∨ (-450 ≤ adcVal wThermalComplete3 (sensorChannel (31 : Fin 32)) ∧ adcVal wThermalComplete3
        (sensorChannel (31 : Fin 32)) ≤ 2000))) ∧
      ((wThermalComplete3.therm.range.testBit (31 : Fin 32) = true ∨ (7 ≤ samplesOf wThermalComplete3 (31 : Fin 32) ∧
        beyondMedian
        { wThermalComplete3 with therm := { wThermalComplete3.therm with raw := SMap.set (fun _ => 0) (31 : Fin 32).val (adcVal wThermalComplete3 (sensorChannel (31 : Fin 32))) wThermalComplete3.therm.raw } } (31 : Fin 32) = some false)))) ∧
    (canonical wThermalComplete4 = true ∧
      adcOn wThermalComplete4 = true ∧
      (0x800000#32 : Word).toNat = 2 ^ (23 : Fin 32).val ∧
      sensorOn wThermalComplete4 (23 : Fin 32) = true ∧
      14 ≤ (23 : Fin 32).val ∧
      wThermalComplete4.therm.orderly = none ∧
      levelHolds wThermalComplete4 (320 + (23 : Fin 32)) = false) := by
  decide +kernel

/-- Blocks and operands that meet the premises of the clauses of `Obligations.ThermalComplete`, part 2 of 2. -/
theorem witness_ThermalComplete_part2 :
    (canonical wThermalComplete5 = true ∧
      adcOn wThermalComplete5 = true ∧
      (1#32 : Word).toNat = 2 ^ (0 : Fin 14).val ∧
      wThermalComplete5.therm.orderly = none ∧
      levelHolds wThermalComplete5 (320 + (0 : Fin 14)) = false) ∧
    (canonical wThermalComplete6 = true ∧
      adcOn wThermalComplete6 = true ∧
      (0x800000#32 : Word).toNat = 2 ^ (23 : Fin 32).val ∧
      sensorOn wThermalComplete6 (23 : Fin 32) = true ∧
      14 ≤ (23 : Fin 32).val ∧
      wThermalComplete6.therm.orderly = some (5 : Nat) ∧
      wThermalComplete6.mode = .descend) ∧
    (canonical wThermalComplete7 = true ∧
      adcOn wThermalComplete7 = true ∧
      (List.range 32).all (fun i => !(0#32 : Word).getLsbD i || !sensorOn wThermalComplete7 i) = true ∧
      wThermalComplete7.mode = .latched ∧
      fld wThermalComplete7 W.MODE_STATUS_LATCH_CAUSE = 7 ∧
      wThermalComplete7.seq.noRetry = false) ∧
    (canonical wThermalComplete8 = true ∧
      adcOn wThermalComplete8 = false) ∧
    (canonical wThermalComplete9 = true ∧
      engineOn wThermalComplete9 = true ∧
      (31#32 : Word).toNat < 32 ∧
      modeOk .live wThermalComplete9 = true) ∧
    (canonical wThermalComplete8 = true ∧
      engineOn wThermalComplete8 = true ∧
      firstFail [(decide ((31#32 : Word).toNat < 32), .badParam), (modeOk .live wThermalComplete8, .deniedMode)] = some
        (.deniedMode : Status)) := by
  decide +kernel


def wConverterCommandsComplete0 : Device := up .retain
def wConverterCommandsComplete1 : Device := up .run
def wConverterCommandsComplete2 : Device := busyWith (up .run) { cmd0 with op := 0x60, params := [0x1024#32] }
def wConverterCommandsComplete3 : Device := busyWith (up .run) { cmd0 with op := 0x60, params := [0x1124#32] }
def wConverterCommandsComplete4 : Device := busyWith { up .run with adc := { lists := [(52, 0x3FFFFFFF#32)] } } { cmd0 with op := 0x60, params := [0x24#32] }
def wConverterCommandsComplete5 : Device := busyWith { up .run with adc := { lists := [(52, 0x3FFFFFFF#32)] } } { cmd0 with op := 0x60, params := [0x124#32] }
def wConverterCommandsComplete6 : Device := busyWith (up .run) { cmd0 with op := 0x60, params := [0x87#32] }
def wConverterCommandsComplete7 : Device := busyWith (up .run) { cmd0 with op := 0x60, params := [0x1087#32] }
def wConverterCommandsComplete9 : Device := { up .run with adc := { subs := [(68, some { dec := 9 })] } }

/-- Blocks and operands that meet the premises of the clauses of `Obligations.ConverterCommandsComplete`, part 1 of 2. -/
theorem witness_ConverterCommandsComplete_part1 :
    (canonical wConverterCommandsComplete0 = true ∧
      engineOn wConverterCommandsComplete0 = true ∧
      bitsOf (0x1787#32 : Word) 31 13 = 0 ∧
      bitOf (0x1787#32 : Word) 11 = false ∧
      bitsOf (0x1787#32 : Word) 7 0 < 136 ∧
      modeOk .live wConverterCommandsComplete0 = true) ∧
    (canonical wConverterCommandsComplete1 = true ∧
      engineOn wConverterCommandsComplete1 = true ∧
      firstFail [(bitsOf (136#32 : Word) 31 13 = 0 && !bitOf (136#32 : Word) 11 && bitsOf (136#32 : Word) 7 0 < 136,
        .badParam), (modeOk .live wConverterCommandsComplete1, .deniedMode)] = some (.badParam : Status)) ∧
    (canonical wConverterCommandsComplete2 = true ∧
      adcOn wConverterCommandsComplete2 = true ∧
      adcPos wConverterCommandsComplete2 (1#2 : BitVec 2).toNat ≠ 256 ∧
      converterOut wConverterCommandsComplete2 (1#2 : BitVec 2).toNat = false ∧
      directedOn wConverterCommandsComplete2 (1#2 : BitVec 2).toNat true = ({ cmd0 with op := 0x60, params := [0x1024#32] } :
        Cmd) :: ([] : List Cmd) ∧
      bitsOf (({ cmd0 with op := 0x60, params := [0x1024#32] } : Cmd).p 0) 10 8 ≤
        ({ cmd0 with op := 0x60, params := [0x1024#32] } : Cmd).aux.length) ∧
    (canonical wConverterCommandsComplete3 = true ∧
      adcOn wConverterCommandsComplete3 = true ∧
      adcPos wConverterCommandsComplete3 (1#2 : BitVec 2).toNat ≠ 256 ∧
      converterOut wConverterCommandsComplete3 (1#2 : BitVec 2).toNat = false ∧
      directedOn wConverterCommandsComplete3 (1#2 : BitVec 2).toNat true = ({ cmd0 with op := 0x60, params := [0x1124#32] } :
        Cmd) :: ([] : List Cmd) ∧
      ({ cmd0 with op := 0x60, params := [0x1124#32] } : Cmd).aux.length < bitsOf
        (({ cmd0 with op := 0x60, params := [0x1124#32] } : Cmd).p 0) 10 8) ∧
    (canonical wConverterCommandsComplete4 = true ∧
      adcOn wConverterCommandsComplete4 = true ∧
      adcPos wConverterCommandsComplete4 (1#2 : BitVec 2).toNat ≠ 256 ∧
      converterOut wConverterCommandsComplete4 (1#2 : BitVec 2).toNat = false ∧
      directedOn wConverterCommandsComplete4 (1#2 : BitVec 2).toNat true = [] ∧
      ((dueNow wConverterCommandsComplete4 (1#2 : BitVec 2).toNat).or ((none : Option (BitVec 8)).map BitVec.toNat)).all (fun
        g => decide (136 ≤ g) || !(decide ((homeOf g).1 = (1#2 : BitVec 2).toNat) || converterOut wConverterCommandsComplete4
        (homeOf g).1)) = true ∧
      entryOf wConverterCommandsComplete4 (1#2 : BitVec 2).toNat (adcPos wConverterCommandsComplete4 (1#2 : BitVec 2).toNat)
        = none ∧
      heldOn wConverterCommandsComplete4 (1#2 : BitVec 2).toNat = [] ∧
      wConverterCommandsComplete4.adc.cover = [] ∧
      directedOn wConverterCommandsComplete4 (1#2 : BitVec 2).toNat false = ({ cmd0 with op := 0x60, params := [0x24#32] } :
        Cmd) :: ([] : List Cmd) ∧
      bitsOf (({ cmd0 with op := 0x60, params := [0x24#32] } : Cmd).p 0) 10 8 ≤
        ({ cmd0 with op := 0x60, params := [0x24#32] } : Cmd).aux.length) := by
  decide +kernel

/-- Blocks and operands that meet the premises of the clauses of `Obligations.ConverterCommandsComplete`, part 2 of 2. -/
theorem witness_ConverterCommandsComplete_part2 :
    (canonical wConverterCommandsComplete5 = true ∧
      adcOn wConverterCommandsComplete5 = true ∧
      adcPos wConverterCommandsComplete5 (1#2 : BitVec 2).toNat ≠ 256 ∧
      converterOut wConverterCommandsComplete5 (1#2 : BitVec 2).toNat = false ∧
      directedOn wConverterCommandsComplete5 (1#2 : BitVec 2).toNat true = [] ∧
      ((dueNow wConverterCommandsComplete5 (1#2 : BitVec 2).toNat).or ((none : Option (BitVec 8)).map BitVec.toNat)).all (fun
        g => decide (136 ≤ g) || !(decide ((homeOf g).1 = (1#2 : BitVec 2).toNat) || converterOut wConverterCommandsComplete5
        (homeOf g).1)) = true ∧
      entryOf wConverterCommandsComplete5 (1#2 : BitVec 2).toNat (adcPos wConverterCommandsComplete5 (1#2 : BitVec 2).toNat)
        = none ∧
      heldOn wConverterCommandsComplete5 (1#2 : BitVec 2).toNat = [] ∧
      wConverterCommandsComplete5.adc.cover = [] ∧
      directedOn wConverterCommandsComplete5 (1#2 : BitVec 2).toNat false = ({ cmd0 with op := 0x60, params := [0x124#32] } :
        Cmd) :: ([] : List Cmd) ∧
      ({ cmd0 with op := 0x60, params := [0x124#32] } : Cmd).aux.length < bitsOf
        (({ cmd0 with op := 0x60, params := [0x124#32] } : Cmd).p 0) 10 8) ∧
    (canonical wConverterCommandsComplete6 = true ∧
      (running wConverterCommandsComplete6 0x60).find? (fun c => bitsOf (c.p 0) 7 0 == (0x87#8 : BitVec 8).toNat && !bitOf
        (c.p 0) 12) = some ({ cmd0 with op := 0x60, params := [0x87#32] } : Cmd)) ∧
    (canonical wConverterCommandsComplete7 = true ∧
      (running wConverterCommandsComplete7 0x60).find? (fun c => bitsOf (c.p 0) 7 0 == (0x87#8 : BitVec 8).toNat && !bitOf
        (c.p 0) 12) = none) ∧
    (canonical wConverterCommandsComplete1 = true ∧
      engineOn wConverterCommandsComplete1 = true ∧
      ([0x00098024#32] : List Word).length < 32 ∧
      (([0x00098024#32] : List Word) ++ [(0x0FFF8087#32 : Word)]).all (fun x => bitsOf x 31 28 = 0 && bitsOf x 14 8 = 0 &&
        bitsOf x 7 0 < 136) = true ∧
      modeOk .live wConverterCommandsComplete1 = true) ∧
    (canonical wConverterCommandsComplete9 = true ∧
      engineOn wConverterCommandsComplete9 = true ∧
      ([0x00098024#32] : List Word).all (fun x => bitsOf x 7 0 ≠ (68 : Nat)) = true) ∧
    (canonical wConverterCommandsComplete1 = true ∧
      engineOn wConverterCommandsComplete1 = true ∧
      firstFail [(decide (1 ≤ ([0x10098024#32] : List Word).length) && decide (([0x10098024#32] : List Word).length ≤ 32),
        .badLength), (([0x10098024#32] : List Word).all (fun w => bitsOf w 31 28 = 0 && bitsOf w 14 8 = 0 && bitsOf w 7 0 <
        136), .badParam), (modeOk .live wConverterCommandsComplete1, .deniedMode)] = some (.badParam : Status)) := by
  decide +kernel


def wConverterEventsComplete0 : Device := { up .run with adc := { pos := [(2, 256)] } }
def wConverterEventsComplete1 : Device := { up .run with adc := { lists := [(153, 4#32)], pos := [(2, 245)], subs := [(68, some { dec := 9 })] } }
def wConverterEventsComplete2 : Device := { up .run with adc := { lists := [(153, 4#32)], pos := [(2, 245)] } }
def wConverterEventsComplete3 : Device := { up .run with adc := { lists := [(153, 63#32)], pos := [(2, 245)], held := [(2, [70, 71])] } }
def wConverterEventsComplete4 : Device := { up .run with adc := { lists := [(153, 63#32)], pos := [(2, 245)], cover := [70, 71] } }
def wConverterEventsComplete6 : Device := { up .run with adc := { lists := [(153, 63#32)], pos := [(2, 245)] } }
def wConverterEventsComplete7 : Device := has [(W.ADC_STATUS_RETIRED, 0, 8)] (up .run)
def wConverterEventsComplete8 : Device := up .replay
def wConverterEventsComplete9 : Device := { setW (up .run) (W.ADC_SLOT + 207) 0x3F#32 with adc := { pos := [(3, 256)] } }
def wConverterEventsComplete10 : Device := { up .run with adc := { pos := [(3, 255)] } }
def wConverterEventsComplete11 : Device := has [(W.ADC_CTRL_CAL_EN, 0, 1)] { up .run with adc := { calLast := 2 } }
def wConverterEventsComplete12 : Device := up .run
def wConverterEventsComplete13 : Device := has [(W.ADC_STATUS_CALIBRATING, 0, 4), (W.ADC_STATUS_CAL_FAIL, 0, 12)] (up .run)
def wConverterEventsComplete14 : Device := { has [(W.ADC_STATUS_CALIBRATING, 0, 4)] (up .run) with adc := { fails := [(2, 2)] } }
def wConverterEventsComplete15 : Device := has [(W.ADC_STATUS_CALIBRATING, 0, 4), (W.ADC_STATUS_RETIRED, 0, 4)] (busyWith (up .run) { cmd0 with op := 0x31, params := [0x200002#32], aux := [1#32] })

/-- Blocks and operands that meet the premises of the clauses of `Obligations.ConverterEventsComplete`, part 1 of 3. -/
theorem witness_ConverterEventsComplete_part1 :
    (canonical wConverterEventsComplete0 = true ∧
      adcOn wConverterEventsComplete0 = true ∧
      adcPos wConverterEventsComplete0 (2#2 : BitVec 2).toNat = 256) ∧
    (canonical wConverterEventsComplete1 = true ∧
      adcOn wConverterEventsComplete1 = true ∧
      adcPos wConverterEventsComplete1 (2#2 : BitVec 2).toNat ≠ 256 ∧
      converterOut wConverterEventsComplete1 (2#2 : BitVec 2).toNat = false ∧
      directedOn wConverterEventsComplete1 (2#2 : BitVec 2).toNat true = [] ∧
      (dueNow wConverterEventsComplete1 (2#2 : BitVec 2).toNat).or ((some 68#8 : Option (BitVec 8)).map BitVec.toNat) = some
        (68 : Nat) ∧
      (((68 : Nat) < 136 ∧ ((homeOf (68 : Nat)).1 = (2#2 : BitVec 2).toNat ∨ converterOut wConverterEventsComplete1 (homeOf
        (68 : Nat)).1 = true))) ∧
      entryOf wConverterEventsComplete1 (2#2 : BitVec 2).toNat (adcPos wConverterEventsComplete1 (2#2 : BitVec 2).toNat) =
        some (68 : Nat)) ∧
    (canonical wConverterEventsComplete2 = true ∧
      adcOn wConverterEventsComplete2 = true ∧
      adcPos wConverterEventsComplete2 (2#2 : BitVec 2).toNat ≠ 256 ∧
      converterOut wConverterEventsComplete2 (2#2 : BitVec 2).toNat = false ∧
      directedOn wConverterEventsComplete2 (2#2 : BitVec 2).toNat true = [] ∧
      (dueNow wConverterEventsComplete2 (2#2 : BitVec 2).toNat).or ((some 70#8 : Option (BitVec 8)).map BitVec.toNat) = some
        (70 : Nat) ∧
      (((70 : Nat) < 136 ∧ ((homeOf (70 : Nat)).1 = (2#2 : BitVec 2).toNat ∨ converterOut wConverterEventsComplete2 (homeOf
        (70 : Nat)).1 = true))) ∧
      entryOf wConverterEventsComplete2 (2#2 : BitVec 2).toNat (adcPos wConverterEventsComplete2 (2#2 : BitVec 2).toNat) =
        (some 68 : Option Nat) ∧
      (some 68 : Option Nat) ≠ some (70 : Nat)) ∧
    (canonical wConverterEventsComplete3 = true ∧
      adcOn wConverterEventsComplete3 = true ∧
      adcPos wConverterEventsComplete3 (2#2 : BitVec 2).toNat ≠ 256 ∧
      converterOut wConverterEventsComplete3 (2#2 : BitVec 2).toNat = false ∧
      directedOn wConverterEventsComplete3 (2#2 : BitVec 2).toNat true = [] ∧
      ((dueNow wConverterEventsComplete3 (2#2 : BitVec 2).toNat).or ((none : Option (BitVec 8)).map BitVec.toNat)).all (fun g
        => decide (136 ≤ g) || !(decide ((homeOf g).1 = (2#2 : BitVec 2).toNat) || converterOut wConverterEventsComplete3
        (homeOf g).1)) = true ∧
      entryOf wConverterEventsComplete3 (2#2 : BitVec 2).toNat (adcPos wConverterEventsComplete3 (2#2 : BitVec 2).toNat) =
        (none : Option Nat) ∧
      (none : Option Nat).all (fun x => adcPrio wConverterEventsComplete3 x == 0) = true ∧
      heldOn wConverterEventsComplete3 (2#2 : BitVec 2).toNat = (70 : Nat) :: ([71] : List Nat)) := by
  decide +kernel

/-- Blocks and operands that meet the premises of the clauses of `Obligations.ConverterEventsComplete`, part 2 of 3. -/
theorem witness_ConverterEventsComplete_part2 :
    (canonical wConverterEventsComplete4 = true ∧
      adcOn wConverterEventsComplete4 = true ∧
      adcPos wConverterEventsComplete4 (2#2 : BitVec 2).toNat ≠ 256 ∧
      converterOut wConverterEventsComplete4 (2#2 : BitVec 2).toNat = false ∧
      directedOn wConverterEventsComplete4 (2#2 : BitVec 2).toNat true = [] ∧
      ((dueNow wConverterEventsComplete4 (2#2 : BitVec 2).toNat).or ((none : Option (BitVec 8)).map BitVec.toNat)).all (fun g
        => decide (136 ≤ g) || !(decide ((homeOf g).1 = (2#2 : BitVec 2).toNat) || converterOut wConverterEventsComplete4
        (homeOf g).1)) = true ∧
      entryOf wConverterEventsComplete4 (2#2 : BitVec 2).toNat (adcPos wConverterEventsComplete4 (2#2 : BitVec 2).toNat) =
        (none : Option Nat) ∧
      (none : Option Nat).all (fun x => adcPrio wConverterEventsComplete4 x == 0) = true ∧
      heldOn wConverterEventsComplete4 (2#2 : BitVec 2).toNat = [] ∧
      wConverterEventsComplete4.adc.cover = (70 : Nat) :: ([71] : List Nat)) ∧
    (canonical wConverterEventsComplete1 = true ∧
      adcOn wConverterEventsComplete1 = true ∧
      adcPos wConverterEventsComplete1 (2#2 : BitVec 2).toNat ≠ 256 ∧
      converterOut wConverterEventsComplete1 (2#2 : BitVec 2).toNat = false ∧
      directedOn wConverterEventsComplete1 (2#2 : BitVec 2).toNat true = [] ∧
      ((dueNow wConverterEventsComplete1 (2#2 : BitVec 2).toNat).or ((none : Option (BitVec 8)).map BitVec.toNat)).all (fun g
        => decide (136 ≤ g) || !(decide ((homeOf g).1 = (2#2 : BitVec 2).toNat) || converterOut wConverterEventsComplete1
        (homeOf g).1)) = true ∧
      entryOf wConverterEventsComplete1 (2#2 : BitVec 2).toNat (adcPos wConverterEventsComplete1 (2#2 : BitVec 2).toNat) =
        some (68 : Nat) ∧
      (((heldOn wConverterEventsComplete1 (2#2 : BitVec 2).toNat = [] ∧ wConverterEventsComplete1.adc.cover = []) ∨ adcPrio
        wConverterEventsComplete1 (68 : Nat) ≠ 0))) ∧
    (canonical wConverterEventsComplete6 = true ∧
      adcOn wConverterEventsComplete6 = true ∧
      adcPos wConverterEventsComplete6 (2#2 : BitVec 2).toNat ≠ 256 ∧
      converterOut wConverterEventsComplete6 (2#2 : BitVec 2).toNat = false ∧
      directedOn wConverterEventsComplete6 (2#2 : BitVec 2).toNat true = [] ∧
      ((dueNow wConverterEventsComplete6 (2#2 : BitVec 2).toNat).or ((none : Option (BitVec 8)).map BitVec.toNat)).all (fun g
        => decide (136 ≤ g) || !(decide ((homeOf g).1 = (2#2 : BitVec 2).toNat) || converterOut wConverterEventsComplete6
        (homeOf g).1)) = true ∧
      entryOf wConverterEventsComplete6 (2#2 : BitVec 2).toNat (adcPos wConverterEventsComplete6 (2#2 : BitVec 2).toNat) =
        none ∧
      heldOn wConverterEventsComplete6 (2#2 : BitVec 2).toNat = [] ∧
      wConverterEventsComplete6.adc.cover = [] ∧
      directedOn wConverterEventsComplete6 (2#2 : BitVec 2).toNat false = []) ∧
    (canonical wConverterEventsComplete7 = true ∧
      adcOn wConverterEventsComplete7 = true ∧
      adcPos wConverterEventsComplete7 (3#2 : BitVec 2).toNat ≠ 256 ∧
      converterOut wConverterEventsComplete7 (3#2 : BitVec 2).toNat = true) ∧
    (canonical wConverterEventsComplete8 = true ∧
      adcOn wConverterEventsComplete8 = false) := by
  decide +kernel

/-- Blocks and operands that meet the premises of the clauses of `Obligations.ConverterEventsComplete`, part 3 of 3. -/
theorem witness_ConverterEventsComplete_part3 :
    (canonical wConverterEventsComplete9 = true ∧
      adcOn wConverterEventsComplete9 = true ∧
      adcPos wConverterEventsComplete9 (3#2 : BitVec 2).toNat % 256 = 0) ∧
    (canonical wConverterEventsComplete10 = true ∧
      ((adcOn wConverterEventsComplete10 = false ∨ adcPos wConverterEventsComplete10 (3#2 : BitVec 2).toNat % 256 ≠ 0))) ∧
    (canonical wConverterEventsComplete11 = true ∧
      calMay wConverterEventsComplete11 (3#2 : BitVec 2).toNat = true) ∧
    (canonical wConverterEventsComplete12 = true ∧
      calMay wConverterEventsComplete12 (3#2 : BitVec 2).toNat = false) ∧
    (canonical wConverterEventsComplete13 = true ∧
      (fld wConverterEventsComplete13 W.ADC_STATUS_CALIBRATING).testBit (2#2 : BitVec 2).toNat = true ∧
      fitFails (-10485 : Int) (1024 : Int) (8196#14 : BitVec 14).toNat = false) ∧
    (canonical wConverterEventsComplete14 = true ∧
      (fld wConverterEventsComplete14 W.ADC_STATUS_CALIBRATING).testBit (2#2 : BitVec 2).toNat = true ∧
      fitFails (10486 : Int) (0 : Int) (8192#14 : BitVec 14).toNat = true) ∧
    (canonical wConverterEventsComplete15 = true ∧
      (fld wConverterEventsComplete15 W.ADC_STATUS_CALIBRATING).testBit (2#2 : BitVec 2).toNat = true ∧
      (calTests wConverterEventsComplete15 true).find? (fun y => bitsOf (y.p 0) 21 20 == (2#2 : BitVec 2).toNat) = some
        ({ cmd0 with op := 0x31, params := [0x200002#32], aux := [1#32] } : Cmd)) ∧
    (canonical wConverterEventsComplete12 = true ∧
      (fld wConverterEventsComplete12 W.ADC_STATUS_CALIBRATING).testBit (2#2 : BitVec 2).toNat = false) := by
  decide +kernel


def wClockCommandsComplete0 : Device := unlocked .service
def wClockCommandsComplete1 : Device := { up .run with rtc := { locked := true } }
def wClockCommandsComplete2 : Device := setW (unlocked .retain) W.RTC_TIME 0x00010203#32
def wClockCommandsComplete4 : Device := has [(W.RTC_CAL_CAL, 0, 5), (W.RTC_STATUS_TRIM_SRC, 0, 1)] (unlocked .latched)
def wClockCommandsComplete5 : Device := has [(W.ROOF_FLOOR_FLOOR, 0, 16), (W.LNK_STATUS_DISCIPLINED, 0, 1)] (served2 (unlocked .ease))
def wClockCommandsComplete6 : Device := served2 (unlocked .ease)
def wClockCommandsComplete7 : Device := { unlocked .ease with core := { thatchAbsent := true } }
def wClockCommandsComplete8 : Device := unlocked .ease
def wClockCommandsComplete9 : Device := busyWith (unlocked .run) { cmd0 with op := 0x82, params := [1#32] }
def wClockCommandsComplete10 : Device := has [(W.TH_STATUS_THROTTLING, 0, 1)] (busyWith (unlocked .run) { cmd0 with op := 0x82, params := [1#32] })
def wClockCommandsComplete11 : Device := has [(W.RTC_STATUS_TRIM_BUSY, 0, 1)] (busyWith (unlocked .run) { cmd0 with op := 0x82 })
def wClockCommandsComplete12 : Device := unlocked .run

/-- Blocks and operands that meet the premises of the clauses of `Obligations.ClockCommandsComplete`, part 1 of 2. -/
theorem witness_ClockCommandsComplete_part1 :
    (canonical wClockCommandsComplete0 = true ∧
      engineOn wClockCommandsComplete0 = true ∧
      firstFail [(bitsOf (0x00C70C1F#32 : Word) 31 24 = 0 && dateOk (bitsOf (0x00C70C1F#32 : Word) 23 16) (bitsOf
        (0x00C70C1F#32 : Word) 15 8) (bitsOf (0x00C70C1F#32 : Word) 7 0) && bitsOf (0x00173B3B#32 : Word) 31 24 = 0 && bitsOf
        (0x00173B3B#32 : Word) 23 16 ≤ 23 && bitsOf (0x00173B3B#32 : Word) 15 8 ≤ 59 && bitsOf (0x00173B3B#32 : Word) 7 0 ≤
        59, .badParam), (modeOk .live wClockCommandsComplete0, .deniedMode), rtcBusy wClockCommandsComplete0] = none) ∧
    (canonical wClockCommandsComplete1 = true ∧
      engineOn wClockCommandsComplete1 = true ∧
      firstFail [(bitsOf (0x00180101#32 : Word) 31 24 = 0 && dateOk (bitsOf (0x00180101#32 : Word) 23 16) (bitsOf
        (0x00180101#32 : Word) 15 8) (bitsOf (0x00180101#32 : Word) 7 0) && bitsOf (0#32 : Word) 31 24 = 0 && bitsOf (0#32 :
        Word) 23 16 ≤ 23 && bitsOf (0#32 : Word) 15 8 ≤ 59 && bitsOf (0#32 : Word) 7 0 ≤ 59, .badParam), (modeOk .live
        wClockCommandsComplete1, .deniedMode), rtcBusy wClockCommandsComplete1] = some (.busy : Status)) ∧
    (canonical wClockCommandsComplete2 = true ∧
      engineOn wClockCommandsComplete2 = true ∧
      firstFail [(modeOk .live wClockCommandsComplete2, .deniedMode), rtcBusy wClockCommandsComplete2] = none) ∧
    (canonical wClockCommandsComplete1 = true ∧
      engineOn wClockCommandsComplete1 = true ∧
      firstFail [(modeOk .live wClockCommandsComplete1, .deniedMode), rtcBusy wClockCommandsComplete1] = some (.busy : Status)) ∧
    (canonical wClockCommandsComplete4 = true ∧
      engineOn wClockCommandsComplete4 = true ∧
      (3#32 : Word) = 3#32 ∧
      firstFail (trimChecks (mkCmd (rq0 : Req) 0x82 [(3#32 : Word)] [] wClockCommandsComplete4) wClockCommandsComplete4) =
        none) ∧
    (canonical wClockCommandsComplete5 = true ∧
      engineOn wClockCommandsComplete5 = true ∧
      bitsOf (2#32 : Word) 1 0 < 3 ∧
      wClockCommandsComplete5.core.thatchAbsent = false ∧
      thatchReady wClockCommandsComplete5 = true ∧
      firstFail (trimChecks (mkCmd (rq0 : Req) 0x82 [(2#32 : Word)] [] wClockCommandsComplete5) wClockCommandsComplete5) =
        none) ∧
    (canonical wClockCommandsComplete6 = true ∧
      engineOn wClockCommandsComplete6 = true ∧
      ((bitsOf (2#32 : Word) 1 0 = 3 ∨ (wClockCommandsComplete6.core.thatchAbsent = false ∧ thatchReady
        wClockCommandsComplete6 = true))) ∧
      firstFail (trimChecks (mkCmd (rq0 : Req) 0x82 [(2#32 : Word)] [] wClockCommandsComplete6) wClockCommandsComplete6) =
        some (.deniedPermission : Status)) ∧
    (canonical wClockCommandsComplete7 = true ∧
      engineOn wClockCommandsComplete7 = true ∧
      bitsOf (1#32 : Word) 1 0 < 3 ∧
      wClockCommandsComplete7.core.thatchAbsent = true) ∧
    (canonical wClockCommandsComplete8 = true ∧
      engineOn wClockCommandsComplete8 = true ∧
      bitsOf (0#32 : Word) 1 0 < 3 ∧
      wClockCommandsComplete8.core.thatchAbsent = false ∧
      thatchReady wClockCommandsComplete8 = false) := by
  decide +kernel

/-- Blocks and operands that meet the premises of the clauses of `Obligations.ClockCommandsComplete`, part 2 of 2. -/
theorem witness_ClockCommandsComplete_part2 :
    (canonical wClockCommandsComplete9 = true ∧
      trims wClockCommandsComplete9 = ({ cmd0 with op := 0x82, params := [1#32] } : Cmd) :: ([] : List Cmd) ∧
      bgMay 5 wClockCommandsComplete9 = true) ∧
    (canonical wClockCommandsComplete10 = true ∧
      ((trims wClockCommandsComplete10 = [] ∨ bgMay 5 wClockCommandsComplete10 = false))) ∧
    (canonical wClockCommandsComplete11 = true ∧
      trims wClockCommandsComplete11 = ({ cmd0 with op := 0x82 } : Cmd) :: ([] : List Cmd)) ∧
    (canonical wClockCommandsComplete12 = true ∧
      trims wClockCommandsComplete12 = []) := by
  decide +kernel


def wBackupDomainComplete0 : Device := setW (unlocked .dormant) W.RTC_TIME 0x00173B3A#32
def wBackupDomainComplete1 : Device := setW (setW (unlocked .run) W.RTC_TIME 0x00173B3B#32) W.RTC_DATE 0x02C70C1F#32
def wBackupDomainComplete2 : Device := has [(W.RTC_CTRL_HALT, 0, 1)] (unlocked .run)
def wBackupDomainComplete3 : Device := has [(W.RTC_STATUS_TIME_VALID, 0, 1)] (busyWith (unlocked .run) { cmd0 with op := 0x82 })
def wBackupDomainComplete4 : Device := has [(W.RTC_CAL_CAL, 0, 1023)] (unlocked .run)
def wBackupDomainComplete5 : Device := busyWith (unlocked .run) { cmd0 with op := 0x82 }
def wBackupDomainComplete6 : Device := { up .run with rtc := { locked := true, onVbk := true } }
def wBackupDomainComplete7 : Device := { up .run with rtc := { locked := true, onVbk := false } }
def wBackupDomainComplete9 : Device := has [(W.RTC_ALM_EN, 1, 1), (W.RTC_ALM_M_DAY, 1, 1), (W.RTC_ALM_M_HOUR, 1, 1), (W.RTC_ALM_M_MIN, 1, 1), (W.RTC_ALM_M_SEC, 1, 1), (W.RTC_ALM_WAKE, 1, 1)] { up .standby with rtc := { wrapC := some 0 } }
def wBackupDomainComplete10 : Device := has [(W.RTC_ALM_EN, 0, 1), (W.RTC_ALM_WAKE, 0, 1), (W.RTC_ALM_DAY, 0, 1)] (unlocked .standby)
def wBackupDomainComplete11 : Device := has [(W.EV_CFG_EDGE, 3, 3), (W.EV_CFG_WAKE, 3, 1)] (unlocked .standby)
def wBackupDomainComplete12 : Device := { (has [(W.EV_CFG_EDGE, 2, 2)] (up .run)) with rtc := { fifos := [(2, [(1, 1), (2, 2), (3, 3), (4, 4)])] } }
def wBackupDomainComplete13 : Device := has [(W.EV_CFG_EDGE, 2, 2)] (up .run)

/-- Blocks and operands that meet the premises of the clauses of `Obligations.BackupDomainComplete`. -/
theorem witness_BackupDomainComplete :
    (canonical wBackupDomainComplete0 = true ∧
      flag wBackupDomainComplete0 W.RTC_CTRL_HALT = false) ∧
    (canonical wBackupDomainComplete1 = true ∧
      flag wBackupDomainComplete1 W.RTC_CTRL_HALT = false ∧
      (59 ≤ fld wBackupDomainComplete1 W.RTC_TIME_SECOND ∧ 59 ≤ fld wBackupDomainComplete1 W.RTC_TIME_MINUTE ∧ 23 ≤ fld
        wBackupDomainComplete1 W.RTC_TIME_HOUR) ∧
      (1 ≤ fld wBackupDomainComplete1 W.RTC_DATE_MONTH ∧ fld wBackupDomainComplete1 W.RTC_DATE_MONTH ≤ 12)) ∧
    (canonical wBackupDomainComplete2 = true ∧
      flag wBackupDomainComplete2 W.RTC_CTRL_HALT = true) ∧
    (canonical wBackupDomainComplete3 = true) ∧
    (canonical wBackupDomainComplete4 = true) ∧
    (canonical wBackupDomainComplete5 = true) ∧
    (canonical wBackupDomainComplete6 = true) ∧
    (canonical wBackupDomainComplete7 = true ∧
      wBackupDomainComplete7.rtc.locked = true ∧
      wBackupDomainComplete7.rtc.onVbk = false) ∧
    (canonical wBackupDomainComplete6 = true ∧
      ((wBackupDomainComplete6.rtc.locked = false ∨ wBackupDomainComplete6.rtc.onVbk = true))) ∧
    (canonical wBackupDomainComplete9 = true ∧
      alarmMatches (1#1 : BitVec 1).toNat wBackupDomainComplete9 = true ∧
      alarmEdge (1#1 : BitVec 1).toNat wBackupDomainComplete9 = true) ∧
    (canonical wBackupDomainComplete10 = true ∧
      ((alarmMatches (0#1 : BitVec 1).toNat wBackupDomainComplete10 = false ∨ alarmEdge (0#1 : BitVec 1).toNat
        wBackupDomainComplete10 = false))) ∧
    (canonical wBackupDomainComplete11 = true ∧
      (fld wBackupDomainComplete11 W.EV_CFG_EDGE (3#2 : BitVec 2).toNat).testBit (if (true : Bool) then 0 else 1) = true ∧
      (evFifo wBackupDomainComplete11 (3#2 : BitVec 2).toNat).length < 4) ∧
    (canonical wBackupDomainComplete12 = true ∧
      (fld wBackupDomainComplete12 W.EV_CFG_EDGE (2#2 : BitVec 2).toNat).testBit (if (false : Bool) then 0 else 1) = true ∧
      4 ≤ (evFifo wBackupDomainComplete12 (2#2 : BitVec 2).toNat).length) ∧
    (canonical wBackupDomainComplete13 = true ∧
      (fld wBackupDomainComplete13 W.EV_CFG_EDGE (2#2 : BitVec 2).toNat).testBit (if (true : Bool) then 0 else 1) = false) := by
  decide +kernel


def wFirmwareComplete0 : Device := up .run
def wFirmwareComplete1 : Device := { up .service with fw := { banks := [(2, [(1030, 5#32)])] } }
def wFirmwareComplete3 : Device := up .ramp
def wFirmwareComplete4 : Device := served2 (up .run)
def wFirmwareComplete5 : Device := served2 (up .latched)
def wFirmwareComplete6 : Device := served2 (up .service)
def wFirmwareComplete7 : Device := has [(W.TRUST_STATUS_THATCH_STATE, 0, 4)] { up .run with fw := { swapTo := some 1 } }
def wFirmwareComplete8 : Device := { up .run with fw := { swapTo := some 1 } }
def wFirmwareComplete9 : Device := has [(W.TRUST_STATUS_TRIAL, 0, 1), (W.FW_ARB_IMG_ARB, 0, 5)] (served2 { up .run with fw := { trialFrom := some 10 } })
def wFirmwareComplete10 : Device := has [(W.TRUST_STATUS_TRIAL, 0, 1)] { up .run with fw := { trialFrom := some 10 } }
def wFirmwareComplete11 : Device := has [(W.TRUST_STATUS_ARB_PENDING, 0, 1), (W.FW_ARB_IMG_ARB, 0, 5)] (served2 (up .run))

/-- Blocks and operands that meet the premises of the clauses of `Obligations.FirmwareComplete`, part 1 of 2. -/
theorem witness_FirmwareComplete_part1 :
    (canonical wFirmwareComplete0 = true ∧
      engineOn wFirmwareComplete0 = true ∧
      firstFail [((rq0 : Req).src != .thatch, .deniedPermission), (bitsOf (0xFF000#32 : Word) 30 20 = 0 && bitsOf (0xFF000#32
        : Word) 19 0 % 4 = 0 && ([0xDEADBEEF#32, 1#32, 2#32] : List Word) ≠ [] && decide (bitsOf (0xFF000#32 : Word) 19 0 + 4
        * ([0xDEADBEEF#32, 1#32, 2#32] : List Word).length ≤ bankSize (stageArea wFirmwareComplete0 (bitsOf (0xFF000#32 :
        Word) 31 31))), .badParam), (modeOk .live wFirmwareComplete0, .deniedMode), (decide (bitsOf (0xFF000#32 : Word) 31 31
        = 0) || wFirmwareComplete0.mode == .service, .deniedPermission)] = none ∧
      (1 : Nat) = stageArea wFirmwareComplete0 (bitsOf (0xFF000#32 : Word) 31 31)) ∧
    (canonical wFirmwareComplete1 = true ∧
      engineOn wFirmwareComplete1 = true ∧
      firstFail [((rq0 : Req).src != .thatch, .deniedPermission), (bitsOf (0x80001000#32 : Word) 30 20 = 0 && bitsOf
        (0x80001000#32 : Word) 19 0 % 4 = 0 && ([0xDEADBEEF#32, 1#32, 2#32] : List Word) ≠ [] && decide (bitsOf
        (0x80001000#32 : Word) 19 0 + 4 * ([0xDEADBEEF#32, 1#32, 2#32] : List Word).length ≤ bankSize (stageArea
        wFirmwareComplete1 (bitsOf (0x80001000#32 : Word) 31 31))), .badParam), (modeOk .live wFirmwareComplete1,
        .deniedMode), (decide (bitsOf (0x80001000#32 : Word) 31 31 = 0) || wFirmwareComplete1.mode == .service,
        .deniedPermission)] = none ∧
      (((2 : Nat) ≠ stageArea wFirmwareComplete1 (bitsOf (0x80001000#32 : Word) 31 31) ∨ (1030 : Nat) < bitsOf (0x80001000#32
        : Word) 19 0 / 4 ∨ bitsOf (0x80001000#32 : Word) 19 0 / 4 + ([0xDEADBEEF#32, 1#32, 2#32] : List Word).length ≤ (1030
        : Nat)))) ∧
    (canonical wFirmwareComplete0 = true ∧
      engineOn wFirmwareComplete0 = true ∧
      firstFail [((rq0 : Req).src != .thatch, .deniedPermission), (bitsOf (0x80001000#32 : Word) 30 20 = 0 && bitsOf
        (0x80001000#32 : Word) 19 0 % 4 = 0 && ([0xDEADBEEF#32] : List Word) ≠ [] && decide (bitsOf (0x80001000#32 : Word) 19
        0 + 4 * ([0xDEADBEEF#32] : List Word).length ≤ bankSize (stageArea wFirmwareComplete0 (bitsOf (0x80001000#32 : Word)
        31 31))), .badParam), (modeOk .live wFirmwareComplete0, .deniedMode), (decide (bitsOf (0x80001000#32 : Word) 31 31 =
        0) || wFirmwareComplete0.mode == .service, .deniedPermission)] = some (.deniedPermission : Status)) ∧
    (canonical wFirmwareComplete3 = true ∧
      engineOn wFirmwareComplete3 = true ∧
      firstFail [((rq0 : Req).src != .thatch, .deniedPermission), (bitsOf (0#32 : Word) 31 2 = 0 && !(bitOf (0#32 : Word) 0
        && bitOf (0#32 : Word) 1), .badParam), (if bitOf (0#32 : Word) 0 then modeOk .live wFirmwareComplete3 else inMode
        wFirmwareComplete3 [.run, .ease, .holdup, .boot, .latched, .service], .deniedMode), (!bitOf (0#32 : Word) 0 ||
        wFirmwareComplete3.mode == .service, .deniedPermission), (thatchState wFirmwareComplete3 ≠ 3 && thatchState
        wFirmwareComplete3 ≠ 4, .busy)] = some (.deniedMode : Status)) ∧
    (canonical wFirmwareComplete4 = true ∧
      engineOn wFirmwareComplete4 = true ∧
      firstFail [((rq0 : Req).src != .thatch, .deniedPermission), (bitsOf (0#32 : Word) 31 2 = 0 && !(bitOf (0#32 : Word) 0
        && bitOf (0#32 : Word) 1), .badParam), (if bitOf (0#32 : Word) 0 then modeOk .live wFirmwareComplete4 else inMode
        wFirmwareComplete4 [.run, .ease, .holdup, .boot, .latched, .service], .deniedMode), (!bitOf (0#32 : Word) 0 ||
        wFirmwareComplete4.mode == .service, .deniedPermission), (thatchState wFirmwareComplete4 ≠ 3 && thatchState
        wFirmwareComplete4 ≠ 4, .busy)] = none ∧
      (0#32 : Word) = 0#32) ∧
    (canonical wFirmwareComplete5 = true ∧
      engineOn wFirmwareComplete5 = true ∧
      firstFail [((rq0 : Req).src != .thatch, .deniedPermission), (bitsOf (2#32 : Word) 31 2 = 0 && !(bitOf (2#32 : Word) 0
        && bitOf (2#32 : Word) 1), .badParam), (if bitOf (2#32 : Word) 0 then modeOk .live wFirmwareComplete5 else inMode
        wFirmwareComplete5 [.run, .ease, .holdup, .boot, .latched, .service], .deniedMode), (!bitOf (2#32 : Word) 0 ||
        wFirmwareComplete5.mode == .service, .deniedPermission), (thatchState wFirmwareComplete5 ≠ 3 && thatchState
        wFirmwareComplete5 ≠ 4, .busy)] = none ∧
      (2#32 : Word) = 2#32) ∧
    (canonical wFirmwareComplete6 = true ∧
      engineOn wFirmwareComplete6 = true ∧
      firstFail [((rq0 : Req).src != .thatch, .deniedPermission), (bitsOf (1#32 : Word) 31 2 = 0 && !(bitOf (1#32 : Word) 0
        && bitOf (1#32 : Word) 1), .badParam), (if bitOf (1#32 : Word) 0 then modeOk .live wFirmwareComplete6 else inMode
        wFirmwareComplete6 [.run, .ease, .holdup, .boot, .latched, .service], .deniedMode), (!bitOf (1#32 : Word) 0 ||
        wFirmwareComplete6.mode == .service, .deniedPermission), (thatchState wFirmwareComplete6 ≠ 3 && thatchState
        wFirmwareComplete6 ≠ 4, .busy)] = none ∧
      (1#32 : Word) = 1#32) ∧
    (canonical wFirmwareComplete7 = true ∧
      wFirmwareComplete7.fw.swapTo = some (1 : Nat) ∧
      thatchState wFirmwareComplete7 = 4) ∧
    (canonical wFirmwareComplete8 = true ∧
      ((wFirmwareComplete8.fw.swapTo = none ∨ thatchState wFirmwareComplete8 ≠ 4))) ∧
    (canonical wFirmwareComplete9 = true ∧
      flag wFirmwareComplete9 W.TRUST_STATUS_TRIAL = true ∧
      thatchReady wFirmwareComplete9 = true ∧
      wFirmwareComplete9.fw.trialFrom = some (10 : Nat)) := by
  decide +kernel

/-- Blocks and operands that meet the premises of the clauses of `Obligations.FirmwareComplete`, part 2 of 2. -/
theorem witness_FirmwareComplete_part2 :
    (canonical wFirmwareComplete10 = true ∧
      ((flag wFirmwareComplete10 W.TRUST_STATUS_TRIAL = false ∨ thatchReady wFirmwareComplete10 = false ∨
        wFirmwareComplete10.fw.trialFrom = none))) ∧
    (canonical wFirmwareComplete11 = true ∧
      flag wFirmwareComplete11 W.TRUST_STATUS_ARB_PENDING = true) ∧
    (canonical wFirmwareComplete4 = true ∧
      flag wFirmwareComplete4 W.TRUST_STATUS_ARB_PENDING = false) := by
  decide +kernel


def wWatchdogsComplete0 : Device := served2 { up .run with roofTime := 77 }
def wWatchdogsComplete1 : Device := { up .run with roofTime := 77 }
def wWatchdogsComplete2 : Device := served2 { up .run with eng := { queues := [(19, [pkt0])] } }
def wWatchdogsComplete3 : Device := served2 { up .run with roofTime := 5000000000, fw := { restarts := [3, 2, 1] } }
def wWatchdogsComplete4 : Device := has [(W.TRUST_STATUS_TRIAL, 0, 1)] (served2 { up .run with fw := { prevBank := 1, restarts := [3, 2, 1] } })
def wWatchdogsComplete5 : Device := up .run
def wWatchdogsComplete9 : Device := has [(W.TRUST_STATUS_THATCH_STATE, 0, 4)] (up .run)
def wWatchdogsComplete13 : Device := has [(W.TRUST_STATUS_THATCH_STATE, 0, 3)] (up .run)
def wWatchdogsComplete14 : Device := served2 (up .run)
def wWatchdogsComplete16 : Device := up .replay
def wWatchdogsComplete17 : Device := has [(W.HWD_CFG_HWD_EN, 0, 1), (W.HWD_CFG_PERIOD, 0, 1), (W.HWD_STATUS_PROFILE_ACTIVE, 0, 1)] { up .run with cycles := 50000 }
def wWatchdogsComplete18 : Device := has [(W.HWD_CFG_HWD_EN, 0, 1), (W.HWD_CFG_PERIOD, 0, 1), (W.HWD_CFG_ACTION, 0, 0)] (withRail 9 { enabled := true } { up .run with cycles := 49999 })
def wWatchdogsComplete19 : Device := has [(W.HWD_CFG_HWD_EN, 0, 1), (W.HWD_CFG_PERIOD, 0, 1), (W.HWD_CFG_ACTION, 0, 1)] (withRail 9 { enabled := true } { up .run with cycles := 49999 })
def wWatchdogsComplete20 : Device := has [(W.HWD_CFG_HWD_EN, 0, 1), (W.HWD_CFG_PERIOD, 0, 1), (W.HWD_CFG_ACTION, 0, 2)] (withRail 9 { enabled := true } { up .run with cycles := 49999 })
def wWatchdogsComplete21 : Device := has [(W.HWD_CFG_HWD_EN, 0, 1), (W.HWD_CFG_PERIOD, 0, 1), (W.HWD_CFG_ACTION, 0, 2)] (withRail 9 { enabled := true } { up .latched with cycles := 49999 })
def wWatchdogsComplete22 : Device := has [(W.HWD_CFG_HWD_EN, 0, 1), (W.HWD_CFG_ACTION, 0, 0), (W.HWD_STATUS_EXPIRIES, 0, 255)] (withRail 9 { enabled := true } (up .run))
def wWatchdogsComplete23 : Device := has [(W.HWD_CFG_HWD_EN, 0, 1), (W.HWD_CFG_ACTION, 0, 1), (W.HWD_STATUS_EXPIRIES, 0, 255)] (withRail 9 { enabled := true } (up .run))
def wWatchdogsComplete24 : Device := has [(W.HWD_CFG_HWD_EN, 0, 1), (W.HWD_CFG_ACTION, 0, 2), (W.HWD_STATUS_EXPIRIES, 0, 255)] (withRail 9 { enabled := true } (up .run))
def wWatchdogsComplete25 : Device := has [(W.HWD_CFG_HWD_EN, 0, 1), (W.HWD_CFG_ACTION, 0, 2), (W.HWD_STATUS_EXPIRIES, 0, 255)] (withRail 9 { enabled := true } (up .latched))
def wWatchdogsComplete26 : Device := has [(W.HWD_CFG_HWD_EN, 0, 1)] (up .boot)
def wWatchdogsComplete27 : Device := { up .run with roofTime := 9 }

/-- Blocks and operands that meet the premises of the clauses of `Obligations.WatchdogsComplete`, part 1 of 4. -/
theorem witness_WatchdogsComplete_part1 :
    (canonical wWatchdogsComplete0 = true ∧
      thatchReady wWatchdogsComplete0 = true) ∧
    (canonical wWatchdogsComplete1 = true ∧
      thatchReady wWatchdogsComplete1 = false) ∧
    (canonical wWatchdogsComplete2 = true ∧
      thatchReady wWatchdogsComplete2 = true ∧
      flag wWatchdogsComplete2 W.TRUST_STATUS_TRIAL = false ∧
      (recentRestarts (advanceTo (wWatchdogsComplete2.fw.twdFrom + fld wWatchdogsComplete2 W.TWD_CFG_TWD_PERIOD * 100000)
        wWatchdogsComplete2)).length < 3) ∧
    (canonical wWatchdogsComplete3 = true ∧
      thatchReady wWatchdogsComplete3 = true ∧
      flag wWatchdogsComplete3 W.TRUST_STATUS_TRIAL = false ∧
      3 ≤ (recentRestarts (advanceTo (wWatchdogsComplete3.fw.twdFrom + fld wWatchdogsComplete3 W.TWD_CFG_TWD_PERIOD * 100000)
        wWatchdogsComplete3)).length) ∧
    (canonical wWatchdogsComplete4 = true ∧
      thatchReady wWatchdogsComplete4 = true ∧
      flag wWatchdogsComplete4 W.TRUST_STATUS_TRIAL = true) ∧
    (canonical wWatchdogsComplete5 = true ∧
      thatchReady wWatchdogsComplete5 = false) ∧
    (canonical wWatchdogsComplete2 = true ∧
      (1 ≤ thatchState wWatchdogsComplete2 ∧ thatchState wWatchdogsComplete2 ≤ 3) ∧
      flag wWatchdogsComplete2 W.TRUST_STATUS_TRIAL = false ∧
      (recentRestarts wWatchdogsComplete2).length < 3) ∧
    (canonical wWatchdogsComplete3 = true ∧
      (1 ≤ thatchState wWatchdogsComplete3 ∧ thatchState wWatchdogsComplete3 ≤ 3) ∧
      flag wWatchdogsComplete3 W.TRUST_STATUS_TRIAL = false ∧
      3 ≤ (recentRestarts wWatchdogsComplete3).length) ∧
    (canonical wWatchdogsComplete4 = true ∧
      (1 ≤ thatchState wWatchdogsComplete4 ∧ thatchState wWatchdogsComplete4 ≤ 3) ∧
      flag wWatchdogsComplete4 W.TRUST_STATUS_TRIAL = true) ∧
    (canonical wWatchdogsComplete9 = true ∧
      ((thatchState wWatchdogsComplete9 = 0 ∨ 4 ≤ thatchState wWatchdogsComplete9))) := by
  decide +kernel

/-- Blocks and operands that meet the premises of the clauses of `Obligations.WatchdogsComplete`, part 2 of 4. -/
theorem witness_WatchdogsComplete_part2 :
    (canonical wWatchdogsComplete2 = true ∧
      thatchReady wWatchdogsComplete2 = true ∧
      flag wWatchdogsComplete2 W.TRUST_STATUS_TRIAL = false ∧
      (recentRestarts wWatchdogsComplete2).length < 3) ∧
    (canonical wWatchdogsComplete3 = true ∧
      thatchReady wWatchdogsComplete3 = true ∧
      flag wWatchdogsComplete3 W.TRUST_STATUS_TRIAL = false ∧
      3 ≤ (recentRestarts wWatchdogsComplete3).length) ∧
    (canonical wWatchdogsComplete4 = true ∧
      thatchReady wWatchdogsComplete4 = true ∧
      flag wWatchdogsComplete4 W.TRUST_STATUS_TRIAL = true) ∧
    (canonical wWatchdogsComplete13 = true ∧
      thatchReady wWatchdogsComplete13 = false) ∧
    (canonical wWatchdogsComplete14 = true ∧
      thatchReady wWatchdogsComplete14 = true ∧
      engineOn wWatchdogsComplete14 = true ∧
      hdrCount (0x12020120#32 : Word) = ([1#32, 2#32] : List Word).length ∧
      ([1#32, 2#32] : List Word).length ≤ 62 ∧
      1 + ([1#32, 2#32] : List Word).length ≤ freeWords wWatchdogsComplete14 19) ∧
    (canonical wWatchdogsComplete14 = true ∧
      ((thatchReady wWatchdogsComplete14 = false ∨ engineOn wWatchdogsComplete14 = false ∨ hdrCount (0x12020120#32 : Word) ≠
        ([1#32] : List Word).length ∨ 62 < ([1#32] : List Word).length ∨ freeWords wWatchdogsComplete14 19 < 1 + ([1#32] :
        List Word).length))) ∧
    (canonical wWatchdogsComplete16 = true ∧
      engineOn wWatchdogsComplete16 = true ∧
      firstFail [((rq0 : Req).src != .thatch, .deniedPermission), (modeOk .live wWatchdogsComplete16, .deniedMode)] = some
        (.deniedMode : Status)) ∧
    (canonical wWatchdogsComplete17 = true ∧
      engineOn wWatchdogsComplete17 = true ∧
      (rq0 : Req).src ≠ .thatch ∧
      modeOk .live wWatchdogsComplete17 = true ∧
      ((flag wWatchdogsComplete17 W.HWD_CFG_HWD_EN = false ∨ hwdPeriod wWatchdogsComplete17 ≤ 2 * hwdElapsed
        wWatchdogsComplete17))) ∧
    (canonical wWatchdogsComplete18 = true ∧
      engineOn wWatchdogsComplete18 = true ∧
      (rq0 : Req).src ≠ .thatch ∧
      modeOk .live wWatchdogsComplete18 = true ∧
      flag wWatchdogsComplete18 W.HWD_CFG_HWD_EN = true ∧
      2 * hwdElapsed wWatchdogsComplete18 < hwdPeriod wWatchdogsComplete18 ∧
      ((fld wWatchdogsComplete18 W.HWD_CFG_ACTION = 0 ∨ fld wWatchdogsComplete18 W.HWD_CFG_ACTION = 3))) := by
  decide +kernel

/-- Blocks and operands that meet the premises of the clauses of `Obligations.WatchdogsComplete`, part 3 of 4. -/
theorem witness_WatchdogsComplete_part3 :
    (canonical wWatchdogsComplete19 = true ∧
      engineOn wWatchdogsComplete19 = true ∧
      (rq0 : Req).src ≠ .thatch ∧
      modeOk .live wWatchdogsComplete19 = true ∧
      flag wWatchdogsComplete19 W.HWD_CFG_HWD_EN = true ∧
      2 * hwdElapsed wWatchdogsComplete19 < hwdPeriod wWatchdogsComplete19 ∧
      fld wWatchdogsComplete19 W.HWD_CFG_ACTION = 1) ∧
    (canonical wWatchdogsComplete20 = true ∧
      engineOn wWatchdogsComplete20 = true ∧
      (rq0 : Req).src ≠ .thatch ∧
      modeOk .live wWatchdogsComplete20 = true ∧
      flag wWatchdogsComplete20 W.HWD_CFG_HWD_EN = true ∧
      2 * hwdElapsed wWatchdogsComplete20 < hwdPeriod wWatchdogsComplete20 ∧
      fld wWatchdogsComplete20 W.HWD_CFG_ACTION = 2 ∧
      inMode wWatchdogsComplete20 [.ramp, .run, .ease, .holdup] = true) ∧
    (canonical wWatchdogsComplete21 = true ∧
      engineOn wWatchdogsComplete21 = true ∧
      (rq0 : Req).src ≠ .thatch ∧
      modeOk .live wWatchdogsComplete21 = true ∧
      flag wWatchdogsComplete21 W.HWD_CFG_HWD_EN = true ∧
      2 * hwdElapsed wWatchdogsComplete21 < hwdPeriod wWatchdogsComplete21 ∧
      fld wWatchdogsComplete21 W.HWD_CFG_ACTION = 2 ∧
      inMode wWatchdogsComplete21 [.ramp, .run, .ease, .holdup] = false) ∧
    (canonical wWatchdogsComplete22 = true ∧
      flag wWatchdogsComplete22 W.HWD_CFG_HWD_EN = true ∧
      hwdCounts wWatchdogsComplete22.mode = true ∧
      ((fld wWatchdogsComplete22 W.HWD_CFG_ACTION = 0 ∨ fld wWatchdogsComplete22 W.HWD_CFG_ACTION = 3))) ∧
    (canonical wWatchdogsComplete23 = true ∧
      flag wWatchdogsComplete23 W.HWD_CFG_HWD_EN = true ∧
      hwdCounts wWatchdogsComplete23.mode = true ∧
      fld wWatchdogsComplete23 W.HWD_CFG_ACTION = 1) ∧
    (canonical wWatchdogsComplete24 = true ∧
      flag wWatchdogsComplete24 W.HWD_CFG_HWD_EN = true ∧
      hwdCounts wWatchdogsComplete24.mode = true ∧
      fld wWatchdogsComplete24 W.HWD_CFG_ACTION = 2 ∧
      inMode wWatchdogsComplete24 [.ramp, .run, .ease, .holdup] = true) := by
  decide +kernel

/-- Blocks and operands that meet the premises of the clauses of `Obligations.WatchdogsComplete`, part 4 of 4. -/
theorem witness_WatchdogsComplete_part4 :
    (canonical wWatchdogsComplete25 = true ∧
      flag wWatchdogsComplete25 W.HWD_CFG_HWD_EN = true ∧
      hwdCounts wWatchdogsComplete25.mode = true ∧
      fld wWatchdogsComplete25 W.HWD_CFG_ACTION = 2 ∧
      inMode wWatchdogsComplete25 [.ramp, .run, .ease, .holdup] = false) ∧
    (canonical wWatchdogsComplete26 = true ∧
      ((flag wWatchdogsComplete26 W.HWD_CFG_HWD_EN = false ∨ hwdCounts wWatchdogsComplete26.mode = false))) ∧
    (canonical wWatchdogsComplete27 = true) := by
  decide +kernel


def wOtpComplete0 : Device := up .replay
def wOtpComplete2 : Device := busyWith { up .run with otp := { line := [{ cmd := some 0 }] } } { cmd0 with op := 0x90, params := [0x000203C0#32] }
def wOtpComplete3 : Device := { up .run with otp := { line := [{ cmd := some 0 }] } }
def wOtpComplete4 : Device := { up .run with otp := { line := [{ cmd := some 0, words := [(832, 1)] }] } }
def wOtpComplete5 : Device := up .service
def wOtpComplete10 : Device := { up .service with otp := { line := [{ words := [(139, 1)] }] } }
def wOtpComplete11 : Device := busyWith { up .service with otp := { array := SMap.set (fun _ => 0) 832 0x10 shippedOtp, line := [{ cmd := some 0, words := [(832, 0x1F000000F1)] }] } } { cmd0 with op := 0x92 }
def wOtpComplete13 : Device := busyWith { up .service with otp := { pendMark := some 833, line := [{ cmd := some 0, words := [(981, 2), (832, 1)], mark := true }] } } { cmd0 with op := 0x92 }
def wOtpComplete15 : Device := busyWith { up .service with otp := { line := [{ cmd := some 0, words := [(963, 7), (960, 19)], begun := true }] } } { cmd0 with op := 0x93 }
def wOtpComplete16 : Device := up .run
def wOtpComplete17 : Device := busyWith { up .service with otp := { line := [{ cmd := some 0, words := [(833, 0x30)] }] } } { cmd0 with op := 0x92 }
def wOtpComplete21 : Device := { up .service with otp := { array := SMap.set (fun _ => 0) 965 1 shippedOtp } }
def wOtpComplete22 : Device := { up .service with otp := { pendMark := some 833 } }

/-- Blocks and operands that meet the premises of the clauses of `Obligations.OtpComplete`, part 1 of 3. -/
theorem witness_OtpComplete_part1 :
    (canonical wOtpComplete0 = true ∧
      engineOn wOtpComplete0 = true ∧
      firstFail [(bitsOf (0x000103FF#32 : Word) 31 22 = 0 && bitsOf (0x000103FF#32 : Word) 15 10 = 0 && decide (1 ≤ bitsOf
        (0x000103FF#32 : Word) 21 16) && decide (bitsOf (0x000103FF#32 : Word) 21 16 ≤ 62) && decide (bitsOf (0x000103FF#32 :
        Word) 9 0 + bitsOf (0x000103FF#32 : Word) 21 16 ≤ 1024), .badParam), (modeOk .all wOtpComplete0, .deniedMode)] = none) ∧
    (canonical wOtpComplete0 = true ∧
      engineOn wOtpComplete0 = true ∧
      firstFail [(bitsOf (0x000203FF#32 : Word) 31 22 = 0 && bitsOf (0x000203FF#32 : Word) 15 10 = 0 && decide (1 ≤ bitsOf
        (0x000203FF#32 : Word) 21 16) && decide (bitsOf (0x000203FF#32 : Word) 21 16 ≤ 62) && decide (bitsOf (0x000203FF#32 :
        Word) 9 0 + bitsOf (0x000203FF#32 : Word) 21 16 ≤ 1024), .badParam), (modeOk .all wOtpComplete0, .deniedMode)] = some
        (.badParam : Status)) ∧
    (canonical wOtpComplete2 = true ∧
      wOtpComplete2.otp.line = ({ cmd := some 0 } : OtpJob) :: ([] : List OtpJob) ∧
      ({ cmd := some 0 } : OtpJob).words = [] ∧
      wOtpComplete2.eng.issued.find? (fun x => some x.id == ({ cmd := some 0 } : OtpJob).cmd) = some
        ({ cmd0 with op := 0x90, params := [0x000203C0#32] } : Cmd)) ∧
    (canonical wOtpComplete3 = true ∧
      wOtpComplete3.otp.line = ({ cmd := some 0 } : OtpJob) :: ([] : List OtpJob) ∧
      ({ cmd := some 0 } : OtpJob).words = [] ∧
      wOtpComplete3.eng.issued.find? (fun x => some x.id == ({ cmd := some 0 } : OtpJob).cmd) = none) ∧
    (canonical wOtpComplete4 = true ∧
      wOtpComplete4.otp.line.head?.all (fun j => j.words ≠ []) = true) ∧
    (canonical wOtpComplete5 = true ∧
      engineOn wOtpComplete5 = true ∧
      firstFail [(bitsOf (192#32 : Word) 31 10 = 0 && decide (bitsOf (192#32 : Word) 9 0 < 320), .badParam),
        (wOtpComplete5.mode == .service, .deniedMode), ((rq0 : Req).src != .thatch && decide (192 ≤ bitsOf (192#32 : Word) 9
        0) && !otpLocked wOtpComplete5 2 && (!trussActive wOtpComplete5 || wOtpComplete5.otp.permit.testBit 1),
        .deniedPermission), (heldInside (withShadow (bitsOf (192#32 : Word) 9 0) ((5#32 : Word).toNat + (6#32 : Word).toNat *
        2 ^ 32) (atGate (begun wOtpComplete5))), .deniedEnvelope)] = none) ∧
    (canonical wOtpComplete5 = true ∧
      engineOn wOtpComplete5 = true ∧
      firstFail [(bitsOf (191#32 : Word) 31 10 = 0 && decide (bitsOf (191#32 : Word) 9 0 < 320), .badParam),
        (wOtpComplete5.mode == .service, .deniedMode), ((rq0 : Req).src != .thatch && decide (192 ≤ bitsOf (191#32 : Word) 9
        0) && !otpLocked wOtpComplete5 2 && (!trussActive wOtpComplete5 || wOtpComplete5.otp.permit.testBit 1),
        .deniedPermission), (heldInside (withShadow (bitsOf (191#32 : Word) 9 0) ((5#32 : Word).toNat + (6#32 : Word).toNat *
        2 ^ 32) (atGate (begun wOtpComplete5))), .deniedEnvelope)] = some (.deniedPermission : Status)) ∧
    (canonical wOtpComplete5 = true ∧
      engineOn wOtpComplete5 = true ∧
      firstFail [(bitsOf (1#32 : Word) 31 10 = 0 && otpWord wOtpComplete5 (bitsOf (1#32 : Word) 9 0) &&& ((5#32 : Word).toNat
        + (6#32 : Word).toNat * 2 ^ 32) = otpWord wOtpComplete5 (bitsOf (1#32 : Word) 9 0), .badParam), (wOtpComplete5.mode
        == .service, .deniedMode), (mayProgram (rq0 : Req).src (bitsOf (1#32 : Word) 9 0) wOtpComplete5, .deniedPermission)]
        = some (.deniedPermission : Status)) ∧
    (canonical wOtpComplete5 = true ∧
      engineOn wOtpComplete5 = true ∧
      firstFail [(bitsOf (832#32 : Word) 31 10 = 0 && otpWord wOtpComplete5 (bitsOf (832#32 : Word) 9 0) &&& ((0xF0F0#32 :
        Word).toNat + (0x1#32 : Word).toNat * 2 ^ 32) = otpWord wOtpComplete5 (bitsOf (832#32 : Word) 9 0), .badParam),
        (wOtpComplete5.mode == .service, .deniedMode), (mayProgram (rq0 : Req).src (bitsOf (832#32 : Word) 9 0)
        wOtpComplete5, .deniedPermission)] = none ∧
      wOtpComplete5.otp.line = [] ∧
      windowFlags (5150 : Nat) (100 : Int) = 0) ∧
    (canonical wOtpComplete5 = true ∧
      engineOn wOtpComplete5 = true ∧
      firstFail [(bitsOf (832#32 : Word) 31 10 = 0 && otpWord wOtpComplete5 (bitsOf (832#32 : Word) 9 0) &&& ((0xF0F0#32 :
        Word).toNat + (0x1#32 : Word).toNat * 2 ^ 32) = otpWord wOtpComplete5 (bitsOf (832#32 : Word) 9 0), .badParam),
        (wOtpComplete5.mode == .service, .deniedMode), (mayProgram (rq0 : Req).src (bitsOf (832#32 : Word) 9 0)
        wOtpComplete5, .deniedPermission)] = none ∧
      wOtpComplete5.otp.line = [] ∧
      windowFlags (5151 : Nat) (1101 : Int) ≠ 0) := by
  decide +kernel

/-- Blocks and operands that meet the premises of the clauses of `Obligations.OtpComplete`, part 2 of 3. -/
theorem witness_OtpComplete_part2 :
    (canonical wOtpComplete10 = true ∧
      engineOn wOtpComplete10 = true ∧
      firstFail [(bitsOf (832#32 : Word) 31 10 = 0 && otpWord wOtpComplete10 (bitsOf (832#32 : Word) 9 0) &&& ((0xF0F0#32 :
        Word).toNat + (0x1#32 : Word).toNat * 2 ^ 32) = otpWord wOtpComplete10 (bitsOf (832#32 : Word) 9 0), .badParam),
        (wOtpComplete10.mode == .service, .deniedMode), (mayProgram (rq0 : Req).src (bitsOf (832#32 : Word) 9 0)
        wOtpComplete10, .deniedPermission)] = none ∧
      wOtpComplete10.otp.line ≠ []) ∧
    (canonical wOtpComplete11 = true ∧
      wOtpComplete11.otp.line = ({ cmd := some 0, words := [(832, 0x1F000000F1)] } : OtpJob) :: ([] : List OtpJob) ∧
      ({ cmd := some 0, words := [(832, 0x1F000000F1)] } : OtpJob).words = ((832 : Nat), (0x1F000000F1 : Nat)) :: ([] : List
        (Nat × Nat))) ∧
    (canonical wOtpComplete11 = true ∧
      wOtpComplete11.otp.line = ({ cmd := some 0, words := [(832, 0x1F000000F1)] } : OtpJob) :: ([] : List OtpJob) ∧
      ({ cmd := some 0, words := [(832, 0x1F000000F1)] } : OtpJob).words = ((832 : Nat), (0x1F000000F1 : Nat)) :: ([] : List
        (Nat × Nat)) ∧
      otpMargin (blow (832 : Nat) (toBlow wOtpComplete11 (832 : Nat) (0x1F000000F1 : Nat) ^^^ (toBlow wOtpComplete11 (832 :
        Nat) (0x1F000000F1 : Nat) &&& (0x1000000000#64 : BitVec 64).toNat)) (0#64 : BitVec 64).toNat wOtpComplete11) (832 :
        Nat) ≠ (0x1F000000F1 : Nat)) ∧
    (canonical wOtpComplete13 = true ∧
      wOtpComplete13.otp.line = ({ cmd := some 0, words := [(981, 2), (832, 1)], mark := true } : OtpJob) :: ([] : List
        OtpJob) ∧
      ({ cmd := some 0, words := [(981, 2), (832, 1)], mark := true } : OtpJob).words = ((981 : Nat), (2 : Nat)) :: ([(832,
        1)] : List (Nat × Nat)) ∧
      otpMargin (blow (981 : Nat) (toBlow wOtpComplete13 (981 : Nat) (2 : Nat) ^^^ (toBlow wOtpComplete13 (981 : Nat) (2 :
        Nat) &&& (0#64 : BitVec 64).toNat)) (0#64 : BitVec 64).toNat wOtpComplete13) (981 : Nat) = (2 : Nat) ∧
      ({ cmd := some 0, words := [(981, 2), (832, 1)], mark := true } : OtpJob).mark = true) ∧
    (canonical wOtpComplete11 = true ∧
      wOtpComplete11.otp.line = ({ cmd := some 0, words := [(832, 0x1F000000F1)] } : OtpJob) :: ([] : List OtpJob) ∧
      ({ cmd := some 0, words := [(832, 0x1F000000F1)] } : OtpJob).words = ((832 : Nat), (0x1F000000F1 : Nat)) :: ([] : List
        (Nat × Nat)) ∧
      otpMargin (blow (832 : Nat) (toBlow wOtpComplete11 (832 : Nat) (0x1F000000F1 : Nat) ^^^ (toBlow wOtpComplete11 (832 :
        Nat) (0x1F000000F1 : Nat) &&& (0#64 : BitVec 64).toNat)) (0#64 : BitVec 64).toNat wOtpComplete11) (832 : Nat) =
        (0x1F000000F1 : Nat) ∧
      ({ cmd := some 0, words := [(832, 0x1F000000F1)] } : OtpJob).mark = false ∧
      ([] : List (Nat × Nat)) = []) ∧
    (canonical wOtpComplete15 = true ∧
      wOtpComplete15.otp.line = ({ cmd := some 0, words := [(963, 7), (960, 19)], begun := true } : OtpJob) :: ([] : List
        OtpJob) ∧
      ({ cmd := some 0, words := [(963, 7), (960, 19)], begun := true } : OtpJob).words = ((963 : Nat), (7 : Nat)) :: ([(960,
        19)] : List (Nat × Nat)) ∧
      otpMargin (blow (963 : Nat) (toBlow wOtpComplete15 (963 : Nat) (7 : Nat) ^^^ (toBlow wOtpComplete15 (963 : Nat) (7 :
        Nat) &&& (0#64 : BitVec 64).toNat)) (0#64 : BitVec 64).toNat wOtpComplete15) (963 : Nat) = (7 : Nat) ∧
      ({ cmd := some 0, words := [(963, 7), (960, 19)], begun := true } : OtpJob).mark = false ∧
      ([(960, 19)] : List (Nat × Nat)) ≠ [] ∧
      wOtpComplete15.otp.pendMark = none ∧
      ([] : List OtpJob).head?.any (isRead wOtpComplete15) = false ∧
      (((finalizeOf wOtpComplete15 ({ cmd := some 0, words := [(963, 7), (960, 19)], begun := true } : OtpJob)).isNone ∨
        ({ cmd := some 0, words := [(963, 7), (960, 19)], begun := true } : OtpJob).begun = true))) ∧
    (canonical wOtpComplete16 = true ∧
      wOtpComplete16.otp.line.head?.all (fun j => decide (j.words = [])) = true) := by
  decide +kernel

/-- Blocks and operands that meet the premises of the clauses of `Obligations.OtpComplete`, part 3 of 3. -/
theorem witness_OtpComplete_part3 :
    (canonical wOtpComplete17 = true ∧
      wOtpComplete17.otp.line = ({ cmd := some 0, words := [(833, 0x30)] } : OtpJob) :: ([] : List OtpJob) ∧
      ({ cmd := some 0, words := [(833, 0x30)] } : OtpJob).words = ((833 : Nat), (0x30 : Nat)) :: ([] : List (Nat × Nat)) ∧
      windowFlags (4849 : Nat) (300 : Int) ≠ 0 ∧
      (4 : Nat) * 1000 ≤ wordTicks wOtpComplete17 (833 : Nat) (0x30 : Nat) ∧
      (1 : Nat) = blownAt ((4 : Nat) * 10) (bitsIn (toBlow wOtpComplete17 (833 : Nat) (0x30 : Nat)) 64).length) ∧
    (canonical wOtpComplete17 = true ∧
      wOtpComplete17.otp.line.head?.all (fun j => j.words.head?.all (fun p => decide (windowFlags (4850 : Nat) (300 : Int) =
        0) || decide (wordTicks wOtpComplete17 p.1 p.2 < (4 : Nat) * 1000))) = true) ∧
    (canonical wOtpComplete5 = true ∧
      engineOn wOtpComplete5 = true ∧
      firstFail [((rq0 : Req).src != .thatch, .deniedPermission), (bitsOf (1#32 : Word) 31 3 = 0 && decide (2 ≤ bitsOf (1#32
        : Word) 2 0) && decide (bitsOf (1#32 : Word) 2 0 ≤ 4), .badParam), (wOtpComplete5.mode == .service, .deniedMode),
        (!otpLocked wOtpComplete5 (bitsOf (1#32 : Word) 2 0), .deniedPermission)] = some (.badParam : Status)) ∧
    (canonical wOtpComplete5 = true ∧
      engineOn wOtpComplete5 = true ∧
      firstFail [((rq0 : Req).src != .thatch, .deniedPermission), (bitsOf (4#32 : Word) 31 3 = 0 && decide (2 ≤ bitsOf (4#32
        : Word) 2 0) && decide (bitsOf (4#32 : Word) 2 0 ≤ 4), .badParam), (wOtpComplete5.mode == .service, .deniedMode),
        (!otpLocked wOtpComplete5 (bitsOf (4#32 : Word) 2 0), .deniedPermission)] = none ∧
      wOtpComplete5.otp.line = [] ∧
      wOtpComplete5.otp.pendMark = none ∧
      (finalizeWords (bitsOf (4#32 : Word) 2 0) wOtpComplete5).toOption = some ([(965, 8070598554416017503), (960, 19)] :
        List (Nat × Nat))) ∧
    (canonical wOtpComplete21 = true ∧
      engineOn wOtpComplete21 = true ∧
      firstFail [((rq0 : Req).src != .thatch, .deniedPermission), (bitsOf (4#32 : Word) 31 3 = 0 && decide (2 ≤ bitsOf (4#32
        : Word) 2 0) && decide (bitsOf (4#32 : Word) 2 0 ≤ 4), .badParam), (wOtpComplete21.mode == .service, .deniedMode),
        (!otpLocked wOtpComplete21 (bitsOf (4#32 : Word) 2 0), .deniedPermission)] = none ∧
      wOtpComplete21.otp.line = [] ∧
      wOtpComplete21.otp.pendMark = none ∧
      failWord (finalizeWords (bitsOf (4#32 : Word) 2 0) wOtpComplete21) = some (965 : Nat)) ∧
    (canonical wOtpComplete22 = true ∧
      engineOn wOtpComplete22 = true ∧
      firstFail [((rq0 : Req).src != .thatch, .deniedPermission), (bitsOf (4#32 : Word) 31 3 = 0 && decide (2 ≤ bitsOf (4#32
        : Word) 2 0) && decide (bitsOf (4#32 : Word) 2 0 ≤ 4), .badParam), (wOtpComplete22.mode == .service, .deniedMode),
        (!otpLocked wOtpComplete22 (bitsOf (4#32 : Word) 2 0), .deniedPermission)] = none ∧
      wOtpComplete22.otp.line = [] ∧
      markWord wOtpComplete22 = some ((981, 2) : Nat × Nat)) ∧
    (canonical wOtpComplete10 = true ∧
      engineOn wOtpComplete10 = true ∧
      firstFail [((rq0 : Req).src != .thatch, .deniedPermission), (bitsOf (4#32 : Word) 31 3 = 0 && decide (2 ≤ bitsOf (4#32
        : Word) 2 0) && decide (bitsOf (4#32 : Word) 2 0 ≤ 4), .badParam), (wOtpComplete10.mode == .service, .deniedMode),
        (!otpLocked wOtpComplete10 (bitsOf (4#32 : Word) 2 0), .deniedPermission)] = none ∧
      wOtpComplete10.otp.line ≠ []) := by
  decide +kernel


def wTrussComplete0 : Device := has [(W.TRUSS_STATUS_ACTIVE_SRC, 0, 2)] (up .run)
def wTrussComplete1 : Device := up .run
def wTrussComplete3 : Device := up .replay

/-- Blocks and operands that meet the premises of the clauses of `Obligations.TrussComplete`. -/
theorem witness_TrussComplete :
    (canonical wTrussComplete0 = true ∧
      engineOn wTrussComplete0 = true ∧
      firstFail [((rq0 : Req).src != .thatch, .deniedPermission), (bitsOf (32764#32 : Word) 31 15 = 0 && bitsOf (32764#32 :
        Word) 14 0 % 4 = 0 && ([0xDEADBEEF#32] : List Word) ≠ [] && decide (bitsOf (32764#32 : Word) 14 0 + 4 *
        ([0xDEADBEEF#32] : List Word).length ≤ 32768), .badParam), (modeOk .live wTrussComplete0, .deniedMode)] = none ∧
      (8191 : Nat) < 8192) ∧
    (canonical wTrussComplete1 = true ∧
      engineOn wTrussComplete1 = true ∧
      firstFail [((rq0 : Req).src != .thatch, .deniedPermission), (bitsOf (32764#32 : Word) 31 15 = 0 && bitsOf (32764#32 :
        Word) 14 0 % 4 = 0 && ([0xDEADBEEF#32, 0#32] : List Word) ≠ [] && decide (bitsOf (32764#32 : Word) 14 0 + 4 *
        ([0xDEADBEEF#32, 0#32] : List Word).length ≤ 32768), .badParam), (modeOk .live wTrussComplete1, .deniedMode)] = some
        (.badParam : Status)) ∧
    (canonical wTrussComplete1 = true ∧
      engineOn wTrussComplete1 = true ∧
      (rq0 : Req).src ≠ .thatch ∧
      modeOk .live wTrussComplete1 = true) ∧
    (canonical wTrussComplete3 = true ∧
      engineOn wTrussComplete3 = true ∧
      firstFail [((rq0 : Req).src != .thatch, .deniedPermission), (modeOk .live wTrussComplete3, .deniedMode)] = some
        (.deniedMode : Status)) := by
  decide +kernel


def wSelfTestComplete0 : Device := withRail 5 { enabled := true, pg := true } (up .run)
def wSelfTestComplete1 : Device := up .run
def wSelfTestComplete2 : Device := served2 (withRail 5 { enabled := true, pg := true, ref := { dst := 18000 } } (up .service))
def wSelfTestComplete3 : Device := withRail 5 { enabled := true, pg := true } (up .service)
def wSelfTestComplete4 : Device := has [(W.OTP_STATUS_OVR_ACTIVE, 0, 1)] { up .service with otp := { shadow := [(192, 9)] } }
def wSelfTestComplete5 : Device := busyWith (withRail 5 { enabled := true, pg := true } { up .run with roofTime := 900 }) { cmd0 with op := 0x31, params := [0x00000501#32], aux := [4#32, 849#32] }
def wSelfTestComplete6 : Device := busyWith (withRail 5 { enabled := true, pg := true } (up .run)) { cmd0 with op := 0x31, params := [0x00000501#32], aux := [4#32, 0#32] }
def wSelfTestComplete7 : Device := has [(W.SUP_STATUS_CMP_FAULT, 5, 1)] (busyWith (withRail 5 { enabled := true, pg := true } { up .run with roofTime := 950 }) { cmd0 with op := 0x31, params := [0x00000501#32], aux := [4#32, 102#32, 900#32] })
def wSelfTestComplete8 : Device := busyWith (up .run) { cmd0 with op := 0x31, params := [0x00100002#32] }
def wSelfTestComplete10 : Device := busyWith (withRail 5 { enabled := true, pg := true } (up .run)) { cmd0 with op := 0x31, params := [0x00000501#32], aux := [4#32, 102#32, 0#32] }
def wSelfTestComplete11 : Device := busyWith (up .run) { cmd0 with op := 0x31, params := [0x00100002#32], aux := [1#32] }

/-- Blocks and operands that meet the premises of the clauses of `Obligations.SelfTestComplete`, part 1 of 2. -/
theorem witness_SelfTestComplete_part1 :
    (canonical wSelfTestComplete0 = true ∧
      engineOn wSelfTestComplete0 = true ∧
      ((bitsOf (0x00000501#32 : Word) 3 0 = 1 ∨ bitsOf (0x00000501#32 : Word) 3 0 = 2)) ∧
      firstFail [(decide (1 ≤ bitsOf (0x00000501#32 : Word) 3 0) && decide (bitsOf (0x00000501#32 : Word) 3 0 ≤ 4) && bitsOf
        (0x00000501#32 : Word) 31 22 = 0 && bitsOf (0x00000501#32 : Word) 19 18 = 0 && bitsOf (0x00000501#32 : Word) 15 13 =
        0 && bitsOf (0x00000501#32 : Word) 7 4 = 0, .badParam), (testMode wSelfTestComplete0 (bitsOf (0x00000501#32 : Word) 3
        0), .deniedMode), (testFree (mkCmd (rq0 : Req) 0x31 [(0x00000501#32 : Word)] [] wSelfTestComplete0) (begun
        wSelfTestComplete0) && (decide (bitsOf (0x00000501#32 : Word) 3 0 ≠ 1) || !flag wSelfTestComplete0
        W.MODE_STATUS_ADOPTING), .busy)] = none) ∧
    (canonical wSelfTestComplete1 = true ∧
      engineOn wSelfTestComplete1 = true ∧
      firstFail [(decide (1 ≤ bitsOf (0x00000501#32 : Word) 3 0) && decide (bitsOf (0x00000501#32 : Word) 3 0 ≤ 4) && bitsOf
        (0x00000501#32 : Word) 31 22 = 0 && bitsOf (0x00000501#32 : Word) 19 18 = 0 && bitsOf (0x00000501#32 : Word) 15 13 =
        0 && bitsOf (0x00000501#32 : Word) 7 4 = 0, .badParam), (testMode wSelfTestComplete1 (bitsOf (0x00000501#32 : Word) 3
        0), .deniedMode), (testFree (mkCmd (rq0 : Req) 0x31 [(0x00000501#32 : Word)] [] wSelfTestComplete1) (begun
        wSelfTestComplete1) && (decide (bitsOf (0x00000501#32 : Word) 3 0 ≠ 1) || !flag wSelfTestComplete1
        W.MODE_STATUS_ADOPTING), .busy)] = some (.busy : Status)) ∧
    (canonical wSelfTestComplete2 = true ∧
      engineOn wSelfTestComplete2 = true ∧
      bitsOf (3#32 : Word) 3 0 = 3 ∧
      firstFail [(decide (1 ≤ bitsOf (3#32 : Word) 3 0) && decide (bitsOf (3#32 : Word) 3 0 ≤ 4) && bitsOf (3#32 : Word) 31
        22 = 0 && bitsOf (3#32 : Word) 19 18 = 0 && bitsOf (3#32 : Word) 15 13 = 0 && bitsOf (3#32 : Word) 7 4 = 0,
        .badParam), (testMode wSelfTestComplete2 (bitsOf (3#32 : Word) 3 0), .deniedMode), (testFree (mkCmd (rq0 : Req) 0x31
        [(3#32 : Word)] [] wSelfTestComplete2) (begun wSelfTestComplete2) && (decide (bitsOf (3#32 : Word) 3 0 ≠ 1) || !flag
        wSelfTestComplete2 W.MODE_STATUS_ADOPTING), .busy)] = none ∧
      (0#5 : BitVec 5) = 0#5) ∧
    (canonical wSelfTestComplete3 = true ∧
      engineOn wSelfTestComplete3 = true ∧
      bitsOf (3#32 : Word) 3 0 = 3 ∧
      firstFail [(decide (1 ≤ bitsOf (3#32 : Word) 3 0) && decide (bitsOf (3#32 : Word) 3 0 ≤ 4) && bitsOf (3#32 : Word) 31
        22 = 0 && bitsOf (3#32 : Word) 19 18 = 0 && bitsOf (3#32 : Word) 15 13 = 0 && bitsOf (3#32 : Word) 7 4 = 0,
        .badParam), (testMode wSelfTestComplete3 (bitsOf (3#32 : Word) 3 0), .deniedMode), (testFree (mkCmd (rq0 : Req) 0x31
        [(3#32 : Word)] [] wSelfTestComplete3) (begun wSelfTestComplete3) && (decide (bitsOf (3#32 : Word) 3 0 ≠ 1) || !flag
        wSelfTestComplete3 W.MODE_STATUS_ADOPTING), .busy)] = none ∧
      (0b10010#5 : BitVec 5) ≠ 0#5) ∧
    (canonical wSelfTestComplete4 = true ∧
      engineOn wSelfTestComplete4 = true ∧
      bitsOf (4#32 : Word) 3 0 = 4 ∧
      firstFail [(decide (1 ≤ bitsOf (4#32 : Word) 3 0) && decide (bitsOf (4#32 : Word) 3 0 ≤ 4) && bitsOf (4#32 : Word) 31
        22 = 0 && bitsOf (4#32 : Word) 19 18 = 0 && bitsOf (4#32 : Word) 15 13 = 0 && bitsOf (4#32 : Word) 7 4 = 0,
        .badParam), (testMode wSelfTestComplete4 (bitsOf (4#32 : Word) 3 0), .deniedMode), (testFree (mkCmd (rq0 : Req) 0x31
        [(4#32 : Word)] [] wSelfTestComplete4) (begun wSelfTestComplete4) && (decide (bitsOf (4#32 : Word) 3 0 ≠ 1) || !flag
        wSelfTestComplete4 W.MODE_STATUS_ADOPTING), .busy)] = none) ∧
    (canonical wSelfTestComplete5 = true ∧
      compTests wSelfTestComplete5 (5#5 : BitVec 5).toNat =
        [({ cmd0 with op := 0x31, params := [0x00000501#32], aux := [4#32, 849#32] } : Cmd)] ∧
      (0#2 : BitVec 2).toNat = testComp ({ cmd0 with op := 0x31, params := [0x00000501#32], aux := [4#32, 849#32] } : Cmd) ∧
      ({ cmd0 with op := 0x31, params := [0x00000501#32], aux := [4#32, 849#32] } : Cmd).aux = [(4#32 : Word), (849#32 :
        Word)] ∧
      ((compActs wSelfTestComplete5 (5#5 : BitVec 5).toNat (0#2 : BitVec 2).toNat = false ∨ (rail wSelfTestComplete5 (5#5 :
        BitVec 5).toNat).trip.testBit (0#2 : BitVec 2).toNat = true))) ∧
    (canonical wSelfTestComplete6 = true ∧
      compTests wSelfTestComplete6 (5#5 : BitVec 5).toNat =
        [({ cmd0 with op := 0x31, params := [0x00000501#32], aux := [4#32, 0#32] } : Cmd)] ∧
      (1#2 : BitVec 2).toNat ≠ testComp ({ cmd0 with op := 0x31, params := [0x00000501#32], aux := [4#32, 0#32] } : Cmd) ∧
      (1#2 : BitVec 2).toNat / 2 = testComp ({ cmd0 with op := 0x31, params := [0x00000501#32], aux := [4#32, 0#32] } : Cmd)
        / 2 ∧
      compActs wSelfTestComplete6 (5#5 : BitVec 5).toNat (1#2 : BitVec 2).toNat = true) ∧
    (canonical wSelfTestComplete7 = true ∧
      compTests wSelfTestComplete7 (5#5 : BitVec 5).toNat =
        [({ cmd0 with op := 0x31, params := [0x00000501#32], aux := [4#32, 102#32, 900#32] } : Cmd)] ∧
      (0#3 : BitVec 3).toNat = testComp ({ cmd0 with op := 0x31, params := [0x00000501#32], aux := [4#32, 102#32, 900#32] } :
        Cmd) ∧
      ({ cmd0 with op := 0x31, params := [0x00000501#32], aux := [4#32, 102#32, 900#32] } : Cmd).aux = [(4#32 : Word),
        (102#32 : Word), (900#32 : Word)]) := by
  decide +kernel

/-- Blocks and operands that meet the premises of the clauses of `Obligations.SelfTestComplete`, part 2 of 2. -/
theorem witness_SelfTestComplete_part2 :
    (canonical wSelfTestComplete8 = true ∧
      running wSelfTestComplete8 0x31 = ({ cmd0 with op := 0x31, params := [0x00100002#32] } : Cmd) :: ([] : List Cmd) ∧
      ((if testCode ({ cmd0 with op := 0x31, params := [0x00100002#32] } : Cmd) = 2 then
        ({ cmd0 with op := 0x31, params := [0x00100002#32] } : Cmd).aux = [] else
        ({ cmd0 with op := 0x31, params := [0x00100002#32] } : Cmd).aux.length < 2 ∨ 3 <
        ({ cmd0 with op := 0x31, params := [0x00100002#32] } : Cmd).aux.length))) ∧
    (canonical wSelfTestComplete6 = true ∧
      running wSelfTestComplete6 0x31 = ({ cmd0 with op := 0x31, params := [0x00000501#32], aux := [4#32, 0#32] } : Cmd) ::
        ([] : List Cmd) ∧
      testCode ({ cmd0 with op := 0x31, params := [0x00000501#32], aux := [4#32, 0#32] } : Cmd) ≠ 2 ∧
      ({ cmd0 with op := 0x31, params := [0x00000501#32], aux := [4#32, 0#32] } : Cmd).aux = [(4#32 : Word), (0#32 : Word)]) ∧
    (canonical wSelfTestComplete10 = true ∧
      running wSelfTestComplete10 0x31 = ({ cmd0 with op := 0x31, params := [0x00000501#32], aux := [4#32, 102#32, 0#32] } :
        Cmd) :: ([] : List Cmd) ∧
      testCode ({ cmd0 with op := 0x31, params := [0x00000501#32], aux := [4#32, 102#32, 0#32] } : Cmd) ≠ 2 ∧
      ({ cmd0 with op := 0x31, params := [0x00000501#32], aux := [4#32, 102#32, 0#32] } : Cmd).aux = [(4#32 : Word), (102#32
        : Word), (0#32 : Word)]) ∧
    (canonical wSelfTestComplete11 = true ∧
      (running wSelfTestComplete11 0x31).head?.all (fun c => decide (testCode c = 2) && c.aux != []) = true) := by
  decide +kernel


def wBackgroundComplete0 : Device := has [(W.BG_ECC_CORRECTED, 0, 65535)] (up .run)
def wBackgroundComplete1 : Device := served2 (up .run)
def wBackgroundComplete2 : Device := { up .run with otp := { shadow := [(319, 9)] } }
def wBackgroundComplete3 : Device := { has [(W.TRC_STATUS_STATE, 0, 1)] (served2 (up .run)) with log := { entries := [{ stamp := 9, kind := 7, sub := 0, payload := [] }] } }
def wBackgroundComplete4 : Device := served2 { up .run with eng := { queues := [(19, [pkt0])] } }
def wBackgroundComplete5 : Device := { up .run with eng := { queues := [(2, [pkt0])] } }
def wBackgroundComplete6 : Device := up .run
def wBackgroundComplete7 : Device := setW (up .run) W.CHG_SET 0x019A0064#32
def wBackgroundComplete11 : Device := has [(W.TH_STATUS_THROTTLING, 0, 1)] (up .run)
def wBackgroundComplete12 : Device := has [(W.BG_CTRL_TLM_PERIOD, 0, 1)] (served2 { up .run with bg := { tlmSeq := 99 } })
def wBackgroundComplete13 : Device := has [(W.BG_CTRL_TLM_PERIOD, 0, 1)] (up .run)

/-- Blocks and operands that meet the premises of the clauses of `Obligations.BackgroundComplete`, part 1 of 3. -/
theorem witness_BackgroundComplete_part1 :
    (canonical wBackgroundComplete0 = true ∧
      memOn wBackgroundComplete0 (.control : Mem) = true ∧
      (((false : Bool) = true ∨ bgMay (if (.control : Mem) = .control ∨ (.control : Mem) = .shadow then 1 else 0)
        wBackgroundComplete0 = true)) ∧
      (((.corrected : Found) = .corrected ∨ (.corrected : Found) = .good))) ∧
    (canonical wBackgroundComplete1 = true ∧
      memOn wBackgroundComplete1 (.trace : Mem) = true ∧
      (((true : Bool) = true ∨ bgMay (if (.trace : Mem) = .control ∨ (.trace : Mem) = .shadow then 1 else 0)
        wBackgroundComplete1 = true)) ∧
      (.bad : Found) = .bad) ∧
    (canonical wBackgroundComplete2 = true ∧
      memOn wBackgroundComplete2 (.shadow : Mem) = true ∧
      (((true : Bool) = true ∨ bgMay (if (.shadow : Mem) = .control ∨ (.shadow : Mem) = .shadow then 1 else 0)
        wBackgroundComplete2 = true)) ∧
      (.shadow : Mem) = .shadow ∧
      (.bad : Found) = .bad ∧
      (319#24 : BitVec 24).toNat < 320) ∧
    (canonical wBackgroundComplete3 = true ∧
      memOn wBackgroundComplete3 (.trace : Mem) = true ∧
      (((true : Bool) = true ∨ bgMay (if (.trace : Mem) = .control ∨ (.trace : Mem) = .shadow then 1 else 0)
        wBackgroundComplete3 = true)) ∧
      (.trace : Mem) = .trace ∧
      (.bad : Found) = .bad ∧
      trcState wBackgroundComplete3 ≠ 0) ∧
    (canonical wBackgroundComplete4 = true ∧
      memOn wBackgroundComplete4 (.acu : Mem) = true ∧
      (((true : Bool) = true ∨ bgMay (if (.acu : Mem) = .control ∨ (.acu : Mem) = .shadow then 1 else 0) wBackgroundComplete4
        = true)) ∧
      (.acu : Mem) = .acu ∧
      (.bad : Found) = .bad ∧
      (1 ≤ thatchState wBackgroundComplete4 ∧ thatchState wBackgroundComplete4 ≤ 3)) ∧
    (canonical wBackgroundComplete5 = true ∧
      memOn wBackgroundComplete5 (.ring (2#5 : BitVec 5) (0#12 : BitVec 12)) = true ∧
      (((true : Bool) = true ∨ bgMay 0 wBackgroundComplete5 = true)) ∧
      (.bad : Found) = .bad) := by
  decide +kernel

/-- Blocks and operands that meet the premises of the clauses of `Obligations.BackgroundComplete`, part 2 of 3. -/
theorem witness_BackgroundComplete_part2 :
    (canonical wBackgroundComplete6 = true ∧
      memOn wBackgroundComplete6 (.control : Mem) = true ∧
      (((true : Bool) = true ∨ bgMay (if (.control : Mem) = .control ∨ (.control : Mem) = .shadow then 1 else 0)
        wBackgroundComplete6 = true)) ∧
      (.control : Mem) = .control ∧
      (.bad : Found) = .bad ∧
      ((heldTwice (0x281#24 : BitVec 24).toNat = true ∨ (famOf? (0x281#24 : BitVec 24).toNat).isNone))) ∧
    (canonical wBackgroundComplete7 = true ∧
      memOn wBackgroundComplete7 (.control : Mem) = true ∧
      (((true : Bool) = true ∨ bgMay (if (.control : Mem) = .control ∨ (.control : Mem) = .shadow then 1 else 0)
        wBackgroundComplete7 = true)) ∧
      (.control : Mem) = .control ∧
      (.bad : Found) = .bad ∧
      heldTwice ((BitVec.ofNat 24 W.CHG_SET) : BitVec 24).toNat = false ∧
      isReport ((BitVec.ofNat 24 W.CHG_SET) : BitVec 24).toNat = false ∧
      ((BitVec.ofNat 24 W.CHG_SET) : BitVec 24).toNat / 256 = 0x0D ∧
      (activeLoads wBackgroundComplete7).filter (fun p => p.1 == ((BitVec.ofNat 24 W.CHG_SET) : BitVec 24).toNat) = []) ∧
    (canonical wBackgroundComplete6 = true ∧
      memOn wBackgroundComplete6 (.tcu : Mem) = true ∧
      (((true : Bool) = true ∨ bgMay (if (.tcu : Mem) = .control ∨ (.tcu : Mem) = .shadow then 1 else 0) wBackgroundComplete6
        = true)) ∧
      (.tcu : Mem) = .tcu ∧
      (.bad : Found) = .bad ∧
      purlinRuns wBackgroundComplete6 = true ∧
      flag wBackgroundComplete6 W.MODE_STATUS_ADOPTING = false) ∧
    (canonical wBackgroundComplete6 = true ∧
      memOn wBackgroundComplete6 (.control : Mem) = true ∧
      (((true : Bool) = true ∨ bgMay (if (.control : Mem) = .control ∨ (.control : Mem) = .shadow then 1 else 0)
        wBackgroundComplete6 = true)) ∧
      (.control : Mem) = .control ∧
      (.copies : Found) = .copies ∧
      heldTwice (0x200#24 : BitVec 24).toNat = true ∧
      purlinRuns wBackgroundComplete6 = true) ∧
    (canonical wBackgroundComplete6 = true ∧
      memOn wBackgroundComplete6 (.control : Mem) = true ∧
      (((true : Bool) = true ∨ bgMay (if (.control : Mem) = .control ∨ (.control : Mem) = .shadow then 1 else 0)
        wBackgroundComplete6 = true)) ∧
      (.copies : Found) = .copies ∧
      (((.control : Mem) ≠ .control ∨ heldTwice (0x100#24 : BitVec 24).toNat = false ∨ purlinRuns wBackgroundComplete6 =
        false))) := by
  decide +kernel

/-- Blocks and operands that meet the premises of the clauses of `Obligations.BackgroundComplete`, part 3 of 3. -/
theorem witness_BackgroundComplete_part3 :
    (canonical wBackgroundComplete11 = true ∧
      ((memOn wBackgroundComplete11 (.control : Mem) = false ∨ ((false : Bool) = false ∧ bgMay (if (.control : Mem) =
        .control ∨ (.control : Mem) = .shadow then 1 else 0) wBackgroundComplete11 = false)))) ∧
    (canonical wBackgroundComplete12 = true ∧
      fld wBackgroundComplete12 W.BG_CTRL_TLM_PERIOD ≠ 0 ∧
      thatchReady wBackgroundComplete12 = true ∧
      acuOn wBackgroundComplete12 = true ∧
      bgMay 4 wBackgroundComplete12 = true) ∧
    (canonical wBackgroundComplete13 = true ∧
      ((fld wBackgroundComplete13 W.BG_CTRL_TLM_PERIOD = 0 ∨ thatchReady wBackgroundComplete13 = false ∨ acuOn
        wBackgroundComplete13 = false ∨ bgMay 4 wBackgroundComplete13 = false))) := by
  decide +kernel


def wGutterLogComplete0 : Device := { up .latched with log := { scanned := true, waiting := [List.replicate 61 7#32, [1#32]] } }
def wGutterLogComplete1 : Device := { up .latched with log := { waiting := [List.replicate 61 7#32] } }
def wGutterLogComplete2 : Device := { up .latched with log := { scanned := true, waiting := [List.replicate 61 7#32] } }
def wGutterLogComplete4 : Device := { up .latched with log := { abandoned := some (List.replicate 61 7#32) } }
def wGutterLogComplete5 : Device := { up .standby with log := { abandoned := some (List.replicate 61 7#32) } }
def wGutterLogComplete6 : Device := { up .run with log := { secs := [(3, { used := 16, erases := 5 })] } }
def wGutterLogComplete7 : Device := { up .holdup with log := { secs := [(3, { used := 16, erases := 5 })] } }
def wGutterLogComplete8 : Device := setW (has [(W.GUT_BUF_STATUS_LOADING, 0, 1)] { up .run with log := { records := [(5, List.replicate 64 9#32)] } }) W.GUT_SEL 5#32
def wGutterLogComplete9 : Device := has [(W.GUT_BUF_STATUS_LOADING, 0, 1)] (up .run)
def wGutterLogComplete10 : Device := up .run

/-- Blocks and operands that meet the premises of the clauses of `Obligations.GutterLogComplete`. -/
theorem witness_GutterLogComplete :
    (canonical wGutterLogComplete0 = true ∧
      tcuOn wGutterLogComplete0 = true ∧
      wGutterLogComplete0.log.scanned = true ∧
      wGutterLogComplete0.log.abandoned = none ∧
      wGutterLogComplete0.log.waiting = (List.replicate 61 7#32 : List Word) :: ([[1#32]] : List (List Word))) ∧
    (canonical wGutterLogComplete1 = true ∧
      ((tcuOn wGutterLogComplete1 = false ∨ wGutterLogComplete1.log.scanned = false ∨ wGutterLogComplete1.log.abandoned ≠
        none ∨ wGutterLogComplete1.log.waiting = []))) ∧
    (canonical wGutterLogComplete2 = true ∧
      tcuOn wGutterLogComplete2 = true ∧
      wGutterLogComplete2.log.scanned = true ∧
      wGutterLogComplete2.log.abandoned = none ∧
      aboveReserve wGutterLogComplete2 = false ∧
      wGutterLogComplete2.log.waiting = (List.replicate 61 7#32 : List Word) :: ([] : List (List Word))) ∧
    (canonical wGutterLogComplete1 = true ∧
      ((tcuOn wGutterLogComplete1 = false ∨ wGutterLogComplete1.log.scanned = false ∨ wGutterLogComplete1.log.abandoned ≠
        none ∨ aboveReserve wGutterLogComplete1 = true ∨ wGutterLogComplete1.log.waiting = []))) ∧
    (canonical wGutterLogComplete4 = true ∧
      tcuOn wGutterLogComplete4 = true ∧
      wGutterLogComplete4.log.abandoned = some (List.replicate 61 7#32 : List Word)) ∧
    (canonical wGutterLogComplete5 = true ∧
      ((tcuOn wGutterLogComplete5 = false ∨ wGutterLogComplete5.log.abandoned = none))) ∧
    (canonical wGutterLogComplete6 = true ∧
      tcuOn wGutterLogComplete6 = true ∧
      bgMay 3 wGutterLogComplete6 = true ∧
      inMode wGutterLogComplete6 [.holdup, .descend] = false ∧
      leastWorn (fun x => x.used ≠ 0 && x.seqs.all (supersededSeq wGutterLogComplete6)) wGutterLogComplete6 = some (3 : Nat)) ∧
    (canonical wGutterLogComplete7 = true ∧
      ((tcuOn wGutterLogComplete7 = false ∨ bgMay 3 wGutterLogComplete7 = false ∨ inMode wGutterLogComplete7 [.holdup,
        .descend] = true ∨ leastWorn (fun x => x.used ≠ 0 && x.seqs.all (supersededSeq wGutterLogComplete7))
        wGutterLogComplete7 = none))) ∧
    (canonical wGutterLogComplete8 = true ∧
      flag wGutterLogComplete8 W.GUT_BUF_STATUS_LOADING = true ∧
      SMap.get (fun _ => []) wGutterLogComplete8.log.records (getW wGutterLogComplete8 W.GUT_SEL).toNat ≠ []) ∧
    (canonical wGutterLogComplete9 = true ∧
      flag wGutterLogComplete9 W.GUT_BUF_STATUS_LOADING = true ∧
      SMap.get (fun _ => []) wGutterLogComplete9.log.records (getW wGutterLogComplete9 W.GUT_SEL).toNat = []) ∧
    (canonical wGutterLogComplete10 = true ∧
      flag wGutterLogComplete10 W.GUT_BUF_STATUS_LOADING = false) := by
  decide +kernel


def wTraceStoreComplete0 : Device := has [(W.TRC_STATUS_STATE, 0, 1), (W.TRC_STATUS_CAUSE, 0, 9)] (served2 (up .run))
def wTraceStoreComplete1 : Device := has [(W.TRC_STATUS_STATE, 0, 2)] (up .run)
def wTraceStoreComplete2 : Device := up .run
def wTraceStoreComplete3 : Device := has [(W.TRC_STATUS_STATE, 0, 2), (W.TRC_CFG_POST, 0, 3), (W.TRC_CFG_COPY, 0, 3)] (served2 { up .run with log := { traceCause := 4, trigAt := 50 } })
def wTraceStoreComplete5 : Device := has [(W.TRC_STATUS_STATE, 0, 4), (W.TRC_STATUS_CAUSE, 0, 7)] { up .run with log := { copyTo := some 1 } }
def wTraceStoreComplete6 : Device := { up .run with log := { copyTo := some 1 } }
def wTraceStoreComplete7 : Device := has [(W.CAP_SLOT_ERASING, 1, 1), (W.TRC_STATUS_STATE, 0, 3)] (served2 { up .run with log := { wantCopy := some 1 } })
def wTraceStoreComplete8 : Device := has [(W.CAP_SLOT_ERASING, 0, 1)] (up .run)
def wTraceStoreComplete9 : Device := has [(W.TRC_STATUS_STATE, 0, 1)] { up .run with cycles := 77 }
def wTraceStoreComplete11 : Device := has [(W.TRC_STATUS_STATE, 0, 1)] { up .run with log := { bytes := [1, 2, 3, 4, 5, 6, 7, 8], windows := 99 } }
def wTraceStoreComplete13 : Device := has [(W.TRC_STATUS_STATE, 0, 3), (W.TRC_CFG_TRC_EN, 0, 1)] (served2 (up .run))
def wTraceStoreComplete14 : Device := has [(W.TRC_STATUS_STATE, 0, 4)] (up .run)
def wTraceStoreComplete15 : Device := { up .run with log := { slots := [(1, some { ckpt := none, entries := [], cause := 4, length := 4096, replayable := false, freezeTime := 0, startFast := 0, trussId := 0, fwP := 0#32, fwT := 0#32, gutSeq := 0#32, profile := 0 })] } }

/-- Blocks and operands that meet the premises of the clauses of `Obligations.TraceStoreComplete`, part 1 of 2. -/
theorem witness_TraceStoreComplete_part1 :
    (canonical wTraceStoreComplete0 = true ∧
      engineOn wTraceStoreComplete0 = true ∧
      firstFail [(bitsOf (2#32 : Word) 31 2 = 0 && decide (bitsOf (2#32 : Word) 1 0 ≠ 3), .badParam), (modeOk .live
        wTraceStoreComplete0, .deniedMode), (trcState wTraceStoreComplete0 = 1 || trcState wTraceStoreComplete0 = 2, .busy),
        (bitsOf (2#32 : Word) 1 0 = 0 || (slotOf wTraceStoreComplete0 (bitsOf (2#32 : Word) 1 0 - 1)).isNone, .busy)] = none ∧
      trcState wTraceStoreComplete0 = 1) ∧
    (canonical wTraceStoreComplete1 = true ∧
      engineOn wTraceStoreComplete1 = true ∧
      firstFail [(bitsOf (1#32 : Word) 31 2 = 0 && decide (bitsOf (1#32 : Word) 1 0 ≠ 3), .badParam), (modeOk .live
        wTraceStoreComplete1, .deniedMode), (trcState wTraceStoreComplete1 = 1 || trcState wTraceStoreComplete1 = 2, .busy),
        (bitsOf (1#32 : Word) 1 0 = 0 || (slotOf wTraceStoreComplete1 (bitsOf (1#32 : Word) 1 0 - 1)).isNone, .busy)] = none ∧
      trcState wTraceStoreComplete1 = 2) ∧
    (canonical wTraceStoreComplete2 = true ∧
      engineOn wTraceStoreComplete2 = true ∧
      firstFail [(bitsOf (3#32 : Word) 31 2 = 0 && decide (bitsOf (3#32 : Word) 1 0 ≠ 3), .badParam), (modeOk .live
        wTraceStoreComplete2, .deniedMode), (trcState wTraceStoreComplete2 = 1 || trcState wTraceStoreComplete2 = 2, .busy),
        (bitsOf (3#32 : Word) 1 0 = 0 || (slotOf wTraceStoreComplete2 (bitsOf (3#32 : Word) 1 0 - 1)).isNone, .busy)] = some
        (.badParam : Status)) ∧
    (canonical wTraceStoreComplete3 = true ∧
      trcState wTraceStoreComplete3 = 2) ∧
    (canonical wTraceStoreComplete2 = true ∧
      trcState wTraceStoreComplete2 ≠ 2) ∧
    (canonical wTraceStoreComplete5 = true ∧
      trcState wTraceStoreComplete5 = 4 ∧
      wTraceStoreComplete5.log.copyTo = some (1 : Nat) ∧
      (1 : Nat) < 2) ∧
    (canonical wTraceStoreComplete6 = true ∧
      ((trcState wTraceStoreComplete6 ≠ 4 ∨ wTraceStoreComplete6.log.copyTo = none))) ∧
    (canonical wTraceStoreComplete7 = true ∧
      capErasing wTraceStoreComplete7 (1#1 : BitVec 1).toNat = true ∧
      tcuOn wTraceStoreComplete7 = true) ∧
    (canonical wTraceStoreComplete8 = true ∧
      ((capErasing wTraceStoreComplete8 (1#1 : BitVec 1).toNat = false ∨ tcuOn wTraceStoreComplete8 = false))) ∧
    (canonical wTraceStoreComplete9 = true ∧
      recording wTraceStoreComplete9 = true) ∧
    (canonical wTraceStoreComplete2 = true ∧
      recording wTraceStoreComplete2 = false) ∧
    (canonical wTraceStoreComplete11 = true ∧
      recording wTraceStoreComplete11 = true) ∧
    (canonical wTraceStoreComplete2 = true ∧
      recording wTraceStoreComplete2 = false) := by
  decide +kernel

/-- Blocks and operands that meet the premises of the clauses of `Obligations.TraceStoreComplete`, part 2 of 2. -/
theorem witness_TraceStoreComplete_part2 :
    (canonical wTraceStoreComplete13 = true ∧
      engineOn wTraceStoreComplete13 = true ∧
      firstFail [(modeOk .live wTraceStoreComplete13, .deniedMode), (trcState wTraceStoreComplete13 ≠ 4 && !streaming
        wTraceStoreComplete13, .busy)] = none) ∧
    (canonical wTraceStoreComplete14 = true ∧
      engineOn wTraceStoreComplete14 = true ∧
      firstFail [(modeOk .live wTraceStoreComplete14, .deniedMode), (trcState wTraceStoreComplete14 ≠ 4 && !streaming
        wTraceStoreComplete14, .busy)] = some (.busy : Status)) ∧
    (canonical wTraceStoreComplete15 = true ∧
      engineOn wTraceStoreComplete15 = true ∧
      modeOk .live wTraceStoreComplete15 = true ∧
      bitsOf (1#32 : Word) 31 1 = 0 ∧
      slotOf wTraceStoreComplete15 (bitsOf (1#32 : Word) 0 0) = some
        ({ ckpt := none, entries := [], cause := 4, length := 4096, replayable := false, freezeTime := 0, startFast := 0, trussId := 0, fwP := 0#32, fwT := 0#32, gutSeq := 0#32, profile := 0 } : Capture)) ∧
    (canonical wTraceStoreComplete2 = true ∧
      engineOn wTraceStoreComplete2 = true ∧
      firstFail [(bitsOf (1#32 : Word) 31 1 = 0 && (slotOf wTraceStoreComplete2 (bitsOf (1#32 : Word) 0 0)).isSome,
        .badParam), (modeOk .live wTraceStoreComplete2, .deniedMode)] = some (.badParam : Status)) := by
  decide +kernel


def wReplayComplete0 : Device := has [(W.RPL_STATUS_RPL_STATE, 0, 1)] (up .replay)
def wReplayComplete1 : Device := has [(W.RPL_STATUS_RPL_STATE, 0, 2)] (up .replay)
def wReplayComplete2 : Device := up .replay

/-- Blocks and operands that meet the premises of the clauses of `Obligations.ReplayComplete`. -/
theorem witness_ReplayComplete :
    (canonical wReplayComplete0 = true ∧
      wReplayComplete0.mode = .replay ∧
      ((rplState wReplayComplete0 = 1 ∨ rplState wReplayComplete0 = 2)) ∧
      (true : Bool) = true) ∧
    (canonical wReplayComplete1 = true ∧
      wReplayComplete1.mode = .replay ∧
      ((rplState wReplayComplete1 = 1 ∨ rplState wReplayComplete1 = 2)) ∧
      (false : Bool) = false) ∧
    (canonical wReplayComplete2 = true ∧
      ((wReplayComplete2.mode ≠ .replay ∨ (rplState wReplayComplete2 ≠ 1 ∧ rplState wReplayComplete2 ≠ 2)))) ∧
    (canonical wReplayComplete1 = true ∧
      wReplayComplete1.mode = .replay ∧
      ((rplState wReplayComplete1 = 1 ∨ rplState wReplayComplete1 = 2))) ∧
    (canonical wReplayComplete2 = true ∧
      ((wReplayComplete2.mode ≠ .replay ∨ (rplState wReplayComplete2 ≠ 1 ∧ rplState wReplayComplete2 ≠ 2)))) := by
  decide +kernel


def wCountersComplete0 : Device := perfOpened (up .run)
def wCountersComplete1 : Device := { perfOpened (up .run) with eng := { rings := [(15, ({} : Ring).push (List.replicate 4000 1#32))] } }
def wCountersComplete2 : Device := perfOpened { up .run with perf := { dumpC := some (0, 7) } }
def wCountersComplete3 : Device := up .run
def wCountersComplete4 : Device := { perfOpened (up .run) with perf := { counters := [(62, 8), (63, 9)] } }
def wCountersComplete5 : Device := { up .run with perf := { counters := [(62, 8), (63, 9)] } }
def wCountersComplete6 : Device := { up .run with perf := { due := [[1#32]], buf := List.replicate 255 (0, []) } }
def wCountersComplete7 : Device := { up .run with perf := { due := [[1#32]], buf := List.replicate 256 (0, []) } }
def wCountersComplete9 : Device := { perfOpened (up .run) with perf := { buf := List.replicate 17 (0, List.replicate 5 3#32) } }
def wCountersComplete10 : Device := { up .run with perf := { buf := List.replicate 17 (0, List.replicate 5 3#32) } }
def wCountersComplete12 : Device := has [(W.PC_DUMP_DUMP_PERIOD, 0, 2)] (perfOpened (up .run))
def wCountersComplete13 : Device := has [(W.PC_DUMP_DUMP_PERIOD, 0, 2)] (up .run)

/-- Blocks and operands that meet the premises of the clauses of `Obligations.CountersComplete`, part 1 of 2. -/
theorem witness_CountersComplete_part1 :
    (canonical wCountersComplete0 = true ∧
      engineOn wCountersComplete0 = true ∧
      modeOk .live wCountersComplete0 = true ∧
      perfOpen wCountersComplete0 = true ∧
      dumpedNow wCountersComplete0 = none ∧
      131 ≤ ringRoom wCountersComplete0 15) ∧
    (canonical wCountersComplete1 = true ∧
      engineOn wCountersComplete1 = true ∧
      modeOk .live wCountersComplete1 = true ∧
      perfOpen wCountersComplete1 = true ∧
      dumpedNow wCountersComplete1 = none ∧
      ringRoom wCountersComplete1 15 < 131) ∧
    (canonical wCountersComplete2 = true ∧
      engineOn wCountersComplete2 = true ∧
      modeOk .live wCountersComplete2 = true ∧
      perfOpen wCountersComplete2 = true ∧
      dumpedNow wCountersComplete2 = some (7 : Nat)) ∧
    (canonical wCountersComplete3 = true ∧
      engineOn wCountersComplete3 = true ∧
      firstFail [(modeOk .live wCountersComplete3, .deniedMode), (perfOpen wCountersComplete3, .deniedPermission)] = some
        (.deniedPermission : Status)) ∧
    (canonical wCountersComplete4 = true ∧
      engineOn wCountersComplete4 = true ∧
      modeOk .live wCountersComplete4 = true ∧
      (((rq0 : Req).src = .thatch ∨ perfOpen wCountersComplete4 = true))) ∧
    (canonical wCountersComplete5 = true ∧
      engineOn wCountersComplete5 = true ∧
      firstFail [(modeOk .live wCountersComplete5, .deniedMode), ((rq0 : Req).src == .thatch || perfOpen wCountersComplete5,
        .deniedPermission)] = some (.deniedPermission : Status)) ∧
    (canonical wCountersComplete6 = true ∧
      wCountersComplete6.perf.due = ([1#32] : List Word) :: ([] : List (List Word)) ∧
      wCountersComplete6.perf.buf.length < 256) ∧
    (canonical wCountersComplete7 = true ∧
      wCountersComplete7.perf.due = ([1#32] : List Word) :: ([] : List (List Word)) ∧
      256 ≤ wCountersComplete7.perf.buf.length) ∧
    (canonical wCountersComplete3 = true ∧
      wCountersComplete3.perf.due = []) := by
  decide +kernel

/-- Blocks and operands that meet the premises of the clauses of `Obligations.CountersComplete`, part 2 of 2. -/
theorem witness_CountersComplete_part2 :
    (canonical wCountersComplete9 = true ∧
      wCountersComplete9.perf.buf = ((0 : Nat), (List.replicate 5 3#32 : List Word)) :: (List.replicate 16 (0, List.replicate
        5 3#32) : List (Nat × List Word)) ∧
      perfOpen wCountersComplete9 = true ∧
      ((wCountersComplete9.perf.buf.take 16).flatMap (fun y => y.2)).length + 1 ≤ ringRoom wCountersComplete9 15) ∧
    (canonical wCountersComplete10 = true ∧
      wCountersComplete10.perf.buf = ((0 : Nat), (List.replicate 5 3#32 : List Word)) :: (List.replicate 16 (0,
        List.replicate 5 3#32) : List (Nat × List Word)) ∧
      ((perfOpen wCountersComplete10 = false ∨ ringRoom wCountersComplete10 15 < ((wCountersComplete10.perf.buf.take
        16).flatMap (fun y => y.2)).length + 1))) ∧
    (canonical wCountersComplete3 = true ∧
      wCountersComplete3.perf.buf = []) ∧
    (canonical wCountersComplete12 = true ∧
      0 < fld wCountersComplete12 W.PC_DUMP_DUMP_PERIOD ∧
      engineOn wCountersComplete12 = true ∧
      perfOpen wCountersComplete12 = true ∧
      (false : Bool) = (wCountersComplete12.perf.snapC == some (advanceTo (wCountersComplete12.perf.dumpFrom + fld
        wCountersComplete12 W.PC_DUMP_DUMP_PERIOD * 10000) wCountersComplete12).cycles)) ∧
    (canonical wCountersComplete13 = true ∧
      0 < fld wCountersComplete13 W.PC_DUMP_DUMP_PERIOD ∧
      engineOn wCountersComplete13 = true ∧
      perfOpen wCountersComplete13 = false) ∧
    (canonical wCountersComplete3 = true ∧
      ((fld wCountersComplete3 W.PC_DUMP_DUMP_PERIOD = 0 ∨ engineOn wCountersComplete3 = false))) := by
  decide +kernel


def wClocksComplete0 : Device := has [(W.CLK_STATUS_PLL_LOCKED, 0, 1), (W.CLK_CFG_REF_SEL, 0, 2)] (up .run)
def wClocksComplete1 : Device := has [(W.CLK_STATUS_PLL_LOCKED, 0, 1), (W.CLK_CFG_REF_SEL, 0, 2)] { up .run with core := { refLost := true } }
def wClocksComplete2 : Device := has [(W.CLK_STATUS_PLL_LOCKED, 0, 1), (W.CLK_CFG_REF_SEL, 0, 1), (W.CLK_STATUS_REF_ACTIVE, 0, 1)] (up .run)
def wClocksComplete3 : Device := has [(W.CLK_STATUS_PLL_LOCKED, 0, 1)] (up .run)
def wClocksComplete4 : Device := has [(W.CLK_STATUS_PLL_LOCKED, 0, 1), (W.CLK_CFG_REF_SEL, 0, 1), (W.CLK_CFG_REF_AUTO, 0, 1)] { up .run with core := { refLost := true } }
def wClocksComplete5 : Device := has [(W.CLK_STATUS_PLL_LOCKED, 0, 1), (W.CLK_CFG_REF_SEL, 0, 1)] { up .run with core := { refLost := true } }
def wClocksComplete6 : Device := has [(W.CLK_STATUS_PLL_LOCKED, 0, 1)] (withRail 7 { enabled := true } (up .run))
def wClocksComplete7 : Device := up .run
def wClocksComplete8 : Device := has [(W.CLK_STATUS_PLL_LOCKED, 0, 1)] (up .retain)
def wClocksComplete9 : Device := up .retain
def wClocksComplete10 : Device := has [(W.CLK_STATUS_PLL_LOCKED, 0, 1), (W.CLK_STATUS_LPO_BAD, 0, 1)] (up .latched)
def wClocksComplete11 : Device := has [(W.CLK_STATUS_LPO_BAD, 0, 1)] (up .latched)

/-- Blocks and operands that meet the premises of the clauses of `Obligations.ClocksComplete`. -/
theorem witness_ClocksComplete :
    (canonical wClocksComplete0 = true ∧
      pllRuns wClocksComplete0 = true ∧
      fld wClocksComplete0 W.CLK_CFG_REF_SEL ≠ 0 ∧
      fld wClocksComplete0 W.CLK_STATUS_REF_ACTIVE = 0 ∧
      3 ≤ bootStage wClocksComplete0 ∧
      wClocksComplete0.core.refLost = false) ∧
    (canonical wClocksComplete1 = true ∧
      ((pllRuns wClocksComplete1 = false ∨ fld wClocksComplete1 W.CLK_CFG_REF_SEL = 0 ∨ fld wClocksComplete1
        W.CLK_STATUS_REF_ACTIVE ≠ 0 ∨ bootStage wClocksComplete1 < 3 ∨ wClocksComplete1.core.refLost = true))) ∧
    (canonical wClocksComplete2 = true ∧
      pllRuns wClocksComplete2 = true ∧
      fld wClocksComplete2 W.CLK_STATUS_REF_ACTIVE ≠ 0) ∧
    (canonical wClocksComplete3 = true ∧
      ((pllRuns wClocksComplete3 = false ∨ fld wClocksComplete3 W.CLK_STATUS_REF_ACTIVE = 0))) ∧
    (canonical wClocksComplete4 = true ∧
      pllRuns wClocksComplete4 = true ∧
      wClocksComplete4.core.refLost = true ∧
      flag wClocksComplete4 W.CLK_CFG_REF_AUTO = true ∧
      fld wClocksComplete4 W.CLK_CFG_REF_SEL ≠ 0) ∧
    (canonical wClocksComplete5 = true ∧
      ((pllRuns wClocksComplete5 = false ∨ wClocksComplete5.core.refLost = false ∨ flag wClocksComplete5 W.CLK_CFG_REF_AUTO =
        false ∨ fld wClocksComplete5 W.CLK_CFG_REF_SEL = 0))) ∧
    (canonical wClocksComplete6 = true ∧
      flag wClocksComplete6 W.CLK_STATUS_PLL_LOCKED = true ∧
      inMode wClocksComplete6 [.dormant, .standby] = false ∧
      wClocksComplete6.core.porHeld = false ∧
      wClocksComplete6.core.hardHeld = false) ∧
    (canonical wClocksComplete7 = true ∧
      ((flag wClocksComplete7 W.CLK_STATUS_PLL_LOCKED = false ∨ inMode wClocksComplete7 [.dormant, .standby] = true ∨
        wClocksComplete7.core.porHeld = true ∨ wClocksComplete7.core.hardHeld = true))) ∧
    (canonical wClocksComplete8 = true ∧
      pllRuns wClocksComplete8 = true) ∧
    (canonical wClocksComplete9 = true ∧
      pllRuns wClocksComplete9 = false) ∧
    (canonical wClocksComplete10 = true ∧
      pllRuns wClocksComplete10 = true) ∧
    (canonical wClocksComplete11 = true ∧
      pllRuns wClocksComplete11 = false) := by
  decide +kernel


def wResetsComplete0 : Device := has [(W.RESET_CAUSE_UVLO, 0, 1)] (withRail 3 { enabled := true } { up .run with roofTime := 5 })
def wResetsComplete1 : Device := setW { State.reset.dev with mode := .dormant } W.RTC_TIME 0x00010203#32
def wResetsComplete2 : Device := { State.reset.dev with core := { porHeld := true } }
def wResetsComplete3 : Device := up .run
def wResetsComplete4 : Device := withRail 3 { enabled := true } (up .run)
def wResetsComplete5 : Device := { State.reset.dev with mode := .dormant }
def wResetsComplete6 : Device := withRail 7 { enabled := true, ref := { dst := 33000 } } (up .run)
def wResetsComplete7 : Device := up .standby
def wResetsComplete9 : Device := { up .boot with core := { hardHeld := true } }
def wResetsComplete10 : Device := withRail 7 { enabled := true } (up .run)
def wResetsComplete11 : Device := withRail 7 { enabled := true, held := true } { up .run with core := { clocksOff := true, recMode := .run } }
def wResetsComplete13 : Device := withRail 7 { enabled := true } (up .ease)
def wResetsComplete15 : Device := has [(W.MODE_STATUS_ADOPTING, 0, 1)] (withRail 7 { enabled := true, held := true } (up .boot))
def wResetsComplete19 : Device := withRail 7 { enabled := true } { up .run with eng := { queues := [(2, [pkt0])] } }
def wResetsComplete20 : Device := up .replay
def wResetsComplete21 : Device := { up .run with core := { softReset := true } }

/-- Blocks and operands that meet the premises of the clauses of `Obligations.ResetsComplete`, part 1 of 2. -/
theorem witness_ResetsComplete_part1 :
    (canonical wResetsComplete0 = true ∧
      wResetsComplete0.mode ≠ .dormant) ∧
    (canonical wResetsComplete1 = true ∧
      wResetsComplete1.mode = .dormant) ∧
    (canonical wResetsComplete2 = true ∧
      wResetsComplete2.core.porHeld = true ∧
      wResetsComplete2.core.testMode = false) ∧
    (canonical wResetsComplete3 = true ∧
      ((wResetsComplete3.core.porHeld = false ∨ wResetsComplete3.core.testMode = true))) ∧
    (canonical wResetsComplete4 = true ∧
      wResetsComplete4.mode ≠ .dormant) ∧
    (canonical wResetsComplete5 = true ∧
      wResetsComplete5.mode = .dormant) ∧
    (canonical wResetsComplete6 = true ∧
      inMode wResetsComplete6 [.dormant, .standby] = false ∧
      wResetsComplete6.core.porHeld = false ∧
      wResetsComplete6.core.hardHeld = false) ∧
    (canonical wResetsComplete7 = true ∧
      wResetsComplete7.mode = .standby ∧
      wResetsComplete7.core.porHeld = false ∧
      wResetsComplete7.core.hardHeld = false) ∧
    (canonical wResetsComplete5 = true ∧
      ((wResetsComplete5.mode = .dormant ∨ wResetsComplete5.core.porHeld = true ∨ wResetsComplete5.core.hardHeld = true))) ∧
    (canonical wResetsComplete9 = true) ∧
    (canonical wResetsComplete10 = true ∧
      ((wResetsComplete10.core.clocksOff = false ∨ wResetsComplete10.core.hardHeld = true)) ∧
      purlinRuns wResetsComplete10 = true) ∧
    (canonical wResetsComplete11 = true ∧
      wResetsComplete11.core.clocksOff = true ∧
      wResetsComplete11.core.hardHeld = false) ∧
    (canonical wResetsComplete7 = true ∧
      ((wResetsComplete7.core.clocksOff = false ∨ wResetsComplete7.core.hardHeld = true)) ∧
      purlinRuns wResetsComplete7 = false) ∧
    (canonical wResetsComplete13 = true ∧
      wResetsComplete13.core.clocksOff = false ∧
      purlinRuns wResetsComplete13 = true) := by
  decide +kernel

/-- Blocks and operands that meet the premises of the clauses of `Obligations.ResetsComplete`, part 2 of 2. -/
theorem witness_ResetsComplete_part2 :
    (canonical wResetsComplete7 = true ∧
      ((wResetsComplete7.core.clocksOff = true ∨ purlinRuns wResetsComplete7 = false))) ∧
    (canonical wResetsComplete15 = true ∧
      (rail wResetsComplete15 (7#5 : BitVec 5).toNat).held = true ∧
      ((flag wResetsComplete15 W.MODE_STATUS_ADOPTING = true ∨ wResetsComplete15.core.clocksOff = true)) ∧
      wResetsComplete15.core.tripped = none) ∧
    (canonical wResetsComplete3 = true ∧
      ((rail wResetsComplete3 (7#5 : BitVec 5).toNat).held && (flag wResetsComplete3 W.MODE_STATUS_ADOPTING ||
        wResetsComplete3.core.clocksOff) && wResetsComplete3.core.tripped.isNone) = false) ∧
    (canonical wResetsComplete10 = true ∧
      engineOn wResetsComplete10 = true ∧
      (rq0 : Req).src ≠ .thatch ∧
      (0xA5A5#32 : Word) = 0xA5A5#32) ∧
    (canonical wResetsComplete3 = true ∧
      engineOn wResetsComplete3 = true ∧
      firstFail [((rq0 : Req).src != .thatch, .deniedPermission), ((0xA5A4#32 : Word) == 0xA5A5#32, .badParam)] = some
        (.badParam : Status)) ∧
    (canonical wResetsComplete19 = true ∧
      engineOn wResetsComplete19 = true ∧
      (rq0 : Req).src ≠ .thatch ∧
      (0xA5A5#32 : Word) = 0xA5A5#32 ∧
      modeOk .live wResetsComplete19 = true) ∧
    (canonical wResetsComplete20 = true ∧
      engineOn wResetsComplete20 = true ∧
      firstFail [((rq0 : Req).src != .thatch, .deniedPermission), ((0xA5A5#32 : Word) == 0xA5A5#32, .badParam), (modeOk .live
        wResetsComplete20, .deniedMode)] = some (.deniedMode : Status)) ∧
    (canonical wResetsComplete21 = true ∧
      wResetsComplete21.core.softReset = true) ∧
    (canonical wResetsComplete3 = true ∧
      wResetsComplete3.core.softReset = false) := by
  decide +kernel


def wBootComplete0 : Device := { State.reset.dev with roofTime := 9 }
def wBootComplete1 : Device := has [(W.MODE_STATUS_BOOT_STAGE, 0, 1)] (withRail 4 { enabled := true } (up .boot))
def wBootComplete2 : Device := up .run
def wBootComplete4 : Device := has [(W.MODE_STATUS_BOOT_STAGE, 0, 2)] (up .boot)
def wBootComplete6 : Device := has [(W.MODE_STATUS_BOOT_STAGE, 0, 5)] (up .boot)
def wBootComplete8 : Device := has [(W.MODE_STATUS_BOOT_STAGE, 0, 5), (W.MODE_STATUS_ADOPTING, 0, 1)] (up .boot)
def wBootComplete10 : Device := has [(W.MODE_STATUS_BOOT_STAGE, 0, 6)] (up .boot)
def wBootComplete12 : Device := has [(W.TRUST_STATUS_THATCH_STATE, 0, 3)] (up .run)
def wBootComplete13 : Device := served2 (up .run)
def wBootComplete14 : Device := has [(W.MODE_STATUS_BOOT_STAGE, 0, 3)] (served2 { up .boot with core := { path := .again } })

/-- Blocks and operands that meet the premises of the clauses of `Obligations.BootComplete`, part 1 of 2. -/
theorem witness_BootComplete_part1 :
    (canonical wBootComplete0 = true ∧
      wBootComplete0.mode = .boot ∧
      bootStage wBootComplete0 = 0 ∧
      wBootComplete0.core.path ≠ .again ∧
      wBootComplete0.core.hardHeld = false ∧
      wBootComplete0.core.porHeld = false ∧
      wBootComplete0.core.purlinFail = false) ∧
    (canonical wBootComplete1 = true ∧
      bootStage wBootComplete1 = 1 ∧
      wBootComplete1.core.hardHeld = false ∧
      wBootComplete1.core.porHeld = false ∧
      wBootComplete1.core.clocksOff = false) ∧
    (canonical wBootComplete2 = true ∧
      (bootStage wBootComplete2 = 1 && !wBootComplete2.core.hardHeld && !wBootComplete2.core.porHeld &&
        !wBootComplete2.core.clocksOff) = false) ∧
    (canonical wBootComplete2 = true ∧
      (wBootComplete2.mode = .boot && bootStage wBootComplete2 = 0 && wBootComplete2.core.path != .again &&
        !wBootComplete2.core.hardHeld && !wBootComplete2.core.porHeld && !wBootComplete2.core.purlinFail) = false) ∧
    (canonical wBootComplete4 = true ∧
      bootStage wBootComplete4 = 2 ∧
      wBootComplete4.core.hardHeld = false ∧
      wBootComplete4.core.porHeld = false ∧
      wBootComplete4.core.clocksOff = false) ∧
    (canonical wBootComplete2 = true ∧
      (bootStage wBootComplete2 = 2 && !wBootComplete2.core.hardHeld && !wBootComplete2.core.porHeld &&
        !wBootComplete2.core.clocksOff) = false) ∧
    (canonical wBootComplete6 = true ∧
      bootStage wBootComplete6 = 5 ∧
      wBootComplete6.core.hardHeld = false ∧
      wBootComplete6.core.porHeld = false ∧
      (true : Bool) = true) ∧
    (canonical wBootComplete6 = true ∧
      bootStage wBootComplete6 = 5 ∧
      wBootComplete6.core.hardHeld = false ∧
      wBootComplete6.core.porHeld = false ∧
      (false : Bool) = false ∧
      wBootComplete6.mode = .boot ∧
      flag wBootComplete6 W.MODE_STATUS_ADOPTING = false) := by
  decide +kernel

/-- Blocks and operands that meet the premises of the clauses of `Obligations.BootComplete`, part 2 of 2. -/
theorem witness_BootComplete_part2 :
    (canonical wBootComplete8 = true ∧
      bootStage wBootComplete8 = 5 ∧
      wBootComplete8.core.hardHeld = false ∧
      wBootComplete8.core.porHeld = false ∧
      (false : Bool) = false ∧
      ((wBootComplete8.mode ≠ .boot ∨ flag wBootComplete8 W.MODE_STATUS_ADOPTING = true))) ∧
    (canonical wBootComplete2 = true ∧
      ((bootStage wBootComplete2 ≠ 5 ∨ wBootComplete2.core.hardHeld = true ∨ wBootComplete2.core.porHeld = true))) ∧
    (canonical wBootComplete10 = true ∧
      bootStage wBootComplete10 = 6 ∧
      thatchState wBootComplete10 = 0 ∧
      wBootComplete10.core.hardHeld = false ∧
      wBootComplete10.core.porHeld = false) ∧
    (canonical wBootComplete2 = true ∧
      ((bootStage wBootComplete2 ≠ 6 ∨ thatchState wBootComplete2 ≠ 0 ∨ wBootComplete2.core.hardHeld = true ∨
        wBootComplete2.core.porHeld = true))) ∧
    (canonical wBootComplete12 = true ∧
      ((thatchState wBootComplete12 = 1 ∨ thatchState wBootComplete12 = 3))) ∧
    (canonical wBootComplete13 = true ∧
      (thatchState wBootComplete13 ≠ 1 ∧ thatchState wBootComplete13 ≠ 3)) ∧
    (canonical wBootComplete14 = true ∧
      wBootComplete14.mode = .boot ∧
      wBootComplete14.core.path = .again ∧
      bootStage wBootComplete14 = 3 ∧
      wBootComplete14.core.bootReady = false ∧
      (false : Bool) = (wBootComplete14.fw.changed || flag wBootComplete14 W.TRUST_STATUS_THATCH_HELD)) ∧
    (canonical wBootComplete2 = true ∧
      (wBootComplete2.mode = .boot && wBootComplete2.core.path = .again && bootStage wBootComplete2 = 3 &&
        !wBootComplete2.core.bootReady) = false) := by
  decide +kernel


def wAdoptionComplete0 : Device := has [(W.MODE_STATUS_ADOPTING, 0, 1)] (withRail 14 { enabled := true, held := true, ref := { dst := 18000 } } { up .boot with core := { path := .hard, recMode := .run, wdtReset := true } })
def wAdoptionComplete1 : Device := up .run
def wAdoptionComplete2 : Device := has [(W.MODE_STATUS_ADOPTING, 0, 1)] (withRail 14 { enabled := true, held := true, ref := { dst := 18000 } } { up .boot with core := { path := .hard, recMode := .run } })
def wAdoptionComplete3 : Device := has [(W.MODE_STATUS_ADOPTING, 0, 1)] { up .boot with core := { path := .hard, recMode := .retain } }
def wAdoptionComplete4 : Device := has [(W.MODE_STATUS_ADOPTING, 0, 1), (W.MODE_CTRL_DESC_NEXT, 0, 1)] { up .boot with core := { path := .hard, recMode := .ramp } }
def wAdoptionComplete5 : Device := has [(W.MODE_STATUS_ADOPTING, 0, 1)] (withRail 14 { enabled := true, held := true, ref := { dst := 18000 } } { up .boot with core := { path := .hard, recMode := .ramp } })
def wAdoptionComplete6 : Device := has [(W.MODE_STATUS_ADOPTING, 0, 1)] { up .boot with core := { path := .hard, recMode := .descend, recFault := some 7 } }
def wAdoptionComplete7 : Device := has [(W.MODE_STATUS_ADOPTING, 0, 1)] (withRail 14 { enabled := true, held := true, ref := { dst := 18000 } } { up .boot with core := { path := .hard, recMode := .descend, recFault := some 7 } })
def wAdoptionComplete8 : Device := has [(W.MODE_STATUS_ADOPTING, 0, 1), (W.MODE_CTRL_DESC_NEXT, 0, 1)] { up .boot with core := { path := .hard, recMode := .descend } }
def wAdoptionComplete9 : Device := has [(W.MODE_STATUS_ADOPTING, 0, 1)] { up .boot with core := { path := .hard, recMode := .boot } }
def wAdoptionComplete10 : Device := has [(W.MODE_STATUS_ADOPTING, 0, 1)] { up .boot with core := { path := .hard, recMode := .run } }
def wAdoptionComplete11 : Device := has [(W.MODE_STATUS_ADOPTING, 0, 1)] { up .boot with core := { path := .hard, recMode := .run, tripped := some 31 } }
def wAdoptionComplete12 : Device := has [(W.MODE_STATUS_ADOPTING, 0, 1), (W.OTP_STATUS_DIGEST_FAIL, 0, 4)] { up .boot with core := { path := .hard, recMode := .run } }
def wAdoptionComplete13 : Device := has [(W.MODE_STATUS_ADOPTING, 0, 1), (W.MODE_STATUS_LATCH_HELD, 0, 1), (W.MODE_STATUS_LATCH_CAUSE, 0, 7)] { up .boot with core := { path := .hard, recMode := .latched } }
def wAdoptionComplete14 : Device := has [(W.MODE_STATUS_ADOPTING, 0, 1), (W.MODE_CTRL_DESC_NEXT, 0, 1)] { up .boot with core := { path := .hard, recMode := .run, recIdent := 1 } }
def wAdoptionComplete15 : Device := has [(W.MODE_STATUS_ADOPTING, 0, 1)] (withRail 14 { enabled := true, held := true, ref := { dst := 18000 } } { up .boot with core := { path := .hard, recMode := .run, recIdent := 1 } })
def wAdoptionComplete17 : Device := has [(W.MODE_STATUS_ADOPTING, 0, 1), (W.SEQ_SLOT_ON_IN_SEQ, 14, 1)] (withRail 14 {} { up .boot with core := { path := .hard, recMode := .run } })

/-- Blocks and operands that meet the premises of the clauses of `Obligations.AdoptionComplete`, part 1 of 5. -/
theorem witness_AdoptionComplete_part1 :
    (canonical wAdoptionComplete0 = true ∧
      flag wAdoptionComplete0 W.MODE_STATUS_ADOPTING = true ∧
      4 ≤ bootStage wAdoptionComplete0 ∧
      wAdoptionComplete0.core.hardHeld = false ∧
      wAdoptionComplete0.core.clocksOff = false) ∧
    (canonical wAdoptionComplete1 = true ∧
      (flag wAdoptionComplete1 W.MODE_STATUS_ADOPTING && 4 ≤ bootStage wAdoptionComplete1 &&
        !wAdoptionComplete1.core.hardHeld && !wAdoptionComplete1.core.clocksOff) = false) ∧
    (canonical wAdoptionComplete2 = true ∧
      flag wAdoptionComplete2 W.MODE_STATUS_ADOPTING = true ∧
      4 ≤ bootStage wAdoptionComplete2 ∧
      wAdoptionComplete2.core.hardHeld = false ∧
      wAdoptionComplete2.core.clocksOff = false ∧
      adoptResult (0#16 : BitVec 16).toNat ([(14#5, 3600#14, 0#14)] : List AdoptSample) wAdoptionComplete2 = 1 ∧
      ((wAdoptionComplete2.core.recMode = .run ∨ wAdoptionComplete2.core.recMode = .ease ∨ wAdoptionComplete2.core.recMode =
        .holdup)) ∧
      (rail wAdoptionComplete2 (14 : Fin 32)).enabled = true ∧
      (rail wAdoptionComplete2 (14 : Fin 32)).ph = .still ∧
      (rail wAdoptionComplete2 (14 : Fin 32)).fallFail = false ∧
      (rail wAdoptionComplete2 (14 : Fin 32)).falling = false) ∧
    (canonical wAdoptionComplete3 = true ∧
      flag wAdoptionComplete3 W.MODE_STATUS_ADOPTING = true ∧
      4 ≤ bootStage wAdoptionComplete3 ∧
      wAdoptionComplete3.core.hardHeld = false ∧
      wAdoptionComplete3.core.clocksOff = false ∧
      adoptResult (0#16 : BitVec 16).toNat ([] : List AdoptSample) wAdoptionComplete3 = 1 ∧
      wAdoptionComplete3.core.recMode = .retain) ∧
    (canonical wAdoptionComplete4 = true ∧
      flag wAdoptionComplete4 W.MODE_STATUS_ADOPTING = true ∧
      4 ≤ bootStage wAdoptionComplete4 ∧
      wAdoptionComplete4.core.hardHeld = false ∧
      wAdoptionComplete4.core.clocksOff = false ∧
      adoptResult (0#16 : BitVec 16).toNat ([] : List AdoptSample) wAdoptionComplete4 = 1 ∧
      wAdoptionComplete4.core.recMode = .ramp ∧
      enabledRails wAdoptionComplete4 = []) := by
  decide +kernel

/-- Blocks and operands that meet the premises of the clauses of `Obligations.AdoptionComplete`, part 2 of 5. -/
theorem witness_AdoptionComplete_part2 :
    (canonical wAdoptionComplete5 = true ∧
      flag wAdoptionComplete5 W.MODE_STATUS_ADOPTING = true ∧
      4 ≤ bootStage wAdoptionComplete5 ∧
      wAdoptionComplete5.core.hardHeld = false ∧
      wAdoptionComplete5.core.clocksOff = false ∧
      adoptResult (0#16 : BitVec 16).toNat ([] : List AdoptSample) wAdoptionComplete5 = 1 ∧
      ((wAdoptionComplete5.core.recMode = .ramp ∨ wAdoptionComplete5.core.recMode = .service)) ∧
      (rail wAdoptionComplete5 (14 : Fin 32)).enabled = true ∧
      (rail wAdoptionComplete5 (14 : Fin 32)).ph = .still ∧
      (rail wAdoptionComplete5 (14 : Fin 32)).fallFail = false ∧
      (rail wAdoptionComplete5 (14 : Fin 32)).falling = false) ∧
    (canonical wAdoptionComplete6 = true ∧
      flag wAdoptionComplete6 W.MODE_STATUS_ADOPTING = true ∧
      4 ≤ bootStage wAdoptionComplete6 ∧
      wAdoptionComplete6.core.hardHeld = false ∧
      wAdoptionComplete6.core.clocksOff = false ∧
      adoptResult (0#16 : BitVec 16).toNat ([] : List AdoptSample) wAdoptionComplete6 = 1 ∧
      wAdoptionComplete6.core.recMode = .descend ∧
      wAdoptionComplete6.core.recFault = some (7 : Nat) ∧
      enabledRails wAdoptionComplete6 = []) ∧
    (canonical wAdoptionComplete7 = true ∧
      flag wAdoptionComplete7 W.MODE_STATUS_ADOPTING = true ∧
      4 ≤ bootStage wAdoptionComplete7 ∧
      wAdoptionComplete7.core.hardHeld = false ∧
      wAdoptionComplete7.core.clocksOff = false ∧
      adoptResult (0#16 : BitVec 16).toNat ([] : List AdoptSample) wAdoptionComplete7 = 1 ∧
      wAdoptionComplete7.core.recMode = .descend ∧
      wAdoptionComplete7.core.recFault = (some 7 : Option Nat) ∧
      (rail wAdoptionComplete7 (14 : Fin 32)).enabled = true ∧
      (rail wAdoptionComplete7 (14 : Fin 32)).ph = .still ∧
      (rail wAdoptionComplete7 (14 : Fin 32)).fallFail = false ∧
      (rail wAdoptionComplete7 (14 : Fin 32)).falling = false) := by
  decide +kernel

/-- Blocks and operands that meet the premises of the clauses of `Obligations.AdoptionComplete`, part 3 of 5. -/
theorem witness_AdoptionComplete_part3 :
    (canonical wAdoptionComplete8 = true ∧
      flag wAdoptionComplete8 W.MODE_STATUS_ADOPTING = true ∧
      4 ≤ bootStage wAdoptionComplete8 ∧
      wAdoptionComplete8.core.hardHeld = false ∧
      wAdoptionComplete8.core.clocksOff = false ∧
      adoptResult (0#16 : BitVec 16).toNat ([] : List AdoptSample) wAdoptionComplete8 = 1 ∧
      wAdoptionComplete8.core.recMode = .descend ∧
      wAdoptionComplete8.core.recFault = none ∧
      enabledRails wAdoptionComplete8 = []) ∧
    (canonical wAdoptionComplete9 = true ∧
      flag wAdoptionComplete9 W.MODE_STATUS_ADOPTING = true ∧
      4 ≤ bootStage wAdoptionComplete9 ∧
      wAdoptionComplete9.core.hardHeld = false ∧
      wAdoptionComplete9.core.clocksOff = false ∧
      adoptResult (0#16 : BitVec 16).toNat ([] : List AdoptSample) wAdoptionComplete9 = 1 ∧
      inMode { wAdoptionComplete9 with mode := wAdoptionComplete9.core.recMode } [.boot, .latched, .replay, .standby,
        .dormant] = true) ∧
    (canonical wAdoptionComplete10 = true ∧
      flag wAdoptionComplete10 W.MODE_STATUS_ADOPTING = true ∧
      4 ≤ bootStage wAdoptionComplete10 ∧
      wAdoptionComplete10.core.hardHeld = false ∧
      wAdoptionComplete10.core.clocksOff = false ∧
      adoptResult (1#16 : BitVec 16).toNat ([] : List AdoptSample) wAdoptionComplete10 = 4) ∧
    (canonical wAdoptionComplete11 = true ∧
      flag wAdoptionComplete11 W.MODE_STATUS_ADOPTING = true ∧
      4 ≤ bootStage wAdoptionComplete11 ∧
      wAdoptionComplete11.core.hardHeld = false ∧
      wAdoptionComplete11.core.clocksOff = false ∧
      adoptResult (0#16 : BitVec 16).toNat ([] : List AdoptSample) wAdoptionComplete11 = 5 ∧
      wAdoptionComplete11.core.tripped = some (31 : Fin 32).val) ∧
    (canonical wAdoptionComplete12 = true ∧
      flag wAdoptionComplete12 W.MODE_STATUS_ADOPTING = true ∧
      4 ≤ bootStage wAdoptionComplete12 ∧
      wAdoptionComplete12.core.hardHeld = false ∧
      wAdoptionComplete12.core.clocksOff = false ∧
      adoptResult (0#16 : BitVec 16).toNat ([] : List AdoptSample) wAdoptionComplete12 = 6) := by
  decide +kernel

/-- Blocks and operands that meet the premises of the clauses of `Obligations.AdoptionComplete`, part 4 of 5. -/
theorem witness_AdoptionComplete_part4 :
    (canonical wAdoptionComplete13 = true ∧
      flag wAdoptionComplete13 W.MODE_STATUS_ADOPTING = true ∧
      4 ≤ bootStage wAdoptionComplete13 ∧
      wAdoptionComplete13.core.hardHeld = false ∧
      wAdoptionComplete13.core.clocksOff = false ∧
      adoptResult (0#16 : BitVec 16).toNat ([] : List AdoptSample) wAdoptionComplete13 = 7) ∧
    (canonical wAdoptionComplete14 = true ∧
      flag wAdoptionComplete14 W.MODE_STATUS_ADOPTING = true ∧
      4 ≤ bootStage wAdoptionComplete14 ∧
      wAdoptionComplete14.core.hardHeld = false ∧
      wAdoptionComplete14.core.clocksOff = false ∧
      adoptResult (0#16 : BitVec 16).toNat ([] : List AdoptSample) wAdoptionComplete14 = 2 ∧
      enabledRails wAdoptionComplete14 = []) ∧
    (canonical wAdoptionComplete15 = true ∧
      flag wAdoptionComplete15 W.MODE_STATUS_ADOPTING = true ∧
      4 ≤ bootStage wAdoptionComplete15 ∧
      wAdoptionComplete15.core.hardHeld = false ∧
      wAdoptionComplete15.core.clocksOff = false ∧
      adoptResult (0#16 : BitVec 16).toNat ([] : List AdoptSample) wAdoptionComplete15 = 2 ∧
      (rail wAdoptionComplete15 (14 : Fin 32)).enabled = true ∧
      (rail wAdoptionComplete15 (14 : Fin 32)).ph = .still ∧
      (rail wAdoptionComplete15 (14 : Fin 32)).fallFail = false ∧
      (rail wAdoptionComplete15 (14 : Fin 32)).falling = false) ∧
    (canonical wAdoptionComplete2 = true ∧
      flag wAdoptionComplete2 W.MODE_STATUS_ADOPTING = true ∧
      4 ≤ bootStage wAdoptionComplete2 ∧
      wAdoptionComplete2.core.hardHeld = false ∧
      wAdoptionComplete2.core.clocksOff = false ∧
      adoptResult (0#16 : BitVec 16).toNat ([(14#5, 0#14, 0#14)] : List AdoptSample) wAdoptionComplete2 = (3 : Nat) ∧
      (((3 : Nat) = 3 ∨ (3 : Nat) = 4 ∨ (3 : Nat) = 6)) ∧
      (rail wAdoptionComplete2 (14 : Fin 32)).enabled = true ∧
      (rail wAdoptionComplete2 (14 : Fin 32)).ph = .still ∧
      (rail wAdoptionComplete2 (14 : Fin 32)).fallFail = false ∧
      (rail wAdoptionComplete2 (14 : Fin 32)).falling = false ∧
      wAdoptionComplete2.seq.desc = none) := by
  decide +kernel

/-- Blocks and operands that meet the premises of the clauses of `Obligations.AdoptionComplete`, part 5 of 5. -/
theorem witness_AdoptionComplete_part5 :
    (canonical wAdoptionComplete17 = true ∧
      flag wAdoptionComplete17 W.MODE_STATUS_ADOPTING = true ∧
      4 ≤ bootStage wAdoptionComplete17 ∧
      wAdoptionComplete17.core.hardHeld = false ∧
      wAdoptionComplete17.core.clocksOff = false ∧
      adoptResult (0#16 : BitVec 16).toNat ([] : List AdoptSample) wAdoptionComplete17 = 3 ∧
      enabledRails wAdoptionComplete17 = []) := by
  decide +kernel


def wModesComplete0 : Device := up .boot
def wModesComplete2 : Device := { up .boot with log := { slots := [(1, some { ckpt := none, entries := [], cause := 4, length := 4096, replayable := true, freezeTime := 0, startFast := 0, trussId := 0, fwP := 0#32, fwT := 0#32, gutSeq := 0#32, profile := 0 })] } }
def wModesComplete3 : Device := up .run
def wModesComplete4 : Device := withRail 9 { enabled := true } (up .run)
def wModesComplete5 : Device := holding 4 .run
def wModesComplete6 : Device := has [(W.LNK_STATUS_DISCIPLINED, 0, 0)] (holding 4 .run)
def wModesComplete7 : Device := withRail 9 { enabled := true } (up .retain)
def wModesComplete8 : Device := up .service
def wModesComplete9 : Device := withRail 9 { enabled := true } (up .service)
def wModesComplete10 : Device := has [(W.RPL_STATUS_RPL_STATE, 0, 4)] (up .replay)
def wModesComplete12 : Device := has [(W.MODE_STATUS_LATCH_HELD, 0, 1), (W.MODE_STATUS_LATCH_CAUSE, 0, 4), (W.SUP_STATUS_FAULT_LATCH, 7, 1), (W.SUP_FIRST_VALID, 0, 1), (W.SEQ_STATUS_RETRY_CNT, 0, 3)] (up .latched)
def wModesComplete14 : Device := has [(W.CLK_STATUS_PLL_LOCKED, 0, 1)] { up .boot with core := { sleepTo := some (.dormant, 40) } }
def wModesComplete15 : Device := { up .latched with core := { sleepTo := some (.dormant, 40) } }
def wModesComplete17 : Device := has [(W.WAKE_CFG_WK1_EN, 0, 1), (W.WAKE_CFG_WK1_EDGE, 0, 1), (W.WAKE_CFG_WK1_FILT, 0, 2)] (up .standby)
def wModesComplete18 : Device := has [(W.WAKE_CFG_WK0_EN, 0, 1)] (withRail 9 { enabled := true } (up .retain))
def wModesComplete21 : Device := has [(W.VSUP_CFG_WAKE_TH, 0, 3)] (up .standby)
def wModesComplete22 : Device := up .retain
def wModesComplete23 : Device := withRail 3 { enabled := true } (up .retain)
def wModesComplete24 : Device := up .standby

/-- Blocks and operands that meet the premises of the clauses of `Obligations.ModesComplete`, part 1 of 4. -/
theorem witness_ModesComplete_part1 :
    (canonical wModesComplete0 = true ∧
      engineOn wModesComplete0 = true ∧
      firstFail (modeChecks (mkCmd (rq0 : Req) 0x25 [(9#32 : Word)] [] wModesComplete0) wModesComplete0) = none ∧
      timeRefused wModesComplete0 = false ∧
      bitsOf (9#32 : Word) 3 0 = 9) ∧
    (canonical wModesComplete0 = true ∧
      engineOn wModesComplete0 = true ∧
      firstFail (modeChecks (mkCmd (rq0 : Req) 0x25 [(0#32 : Word)] [] wModesComplete0) wModesComplete0) = none ∧
      timeRefused wModesComplete0 = false ∧
      ((bitsOf (0#32 : Word) 3 0 = 1 ∨ bitsOf (0#32 : Word) 3 0 = 0))) ∧
    (canonical wModesComplete2 = true ∧
      engineOn wModesComplete2 = true ∧
      firstFail (modeChecks (mkCmd (rq0 : Req) 0x25 [(0x10A#32 : Word)] [] wModesComplete2) wModesComplete2) = none ∧
      timeRefused wModesComplete2 = false ∧
      bitsOf (0x10A#32 : Word) 3 0 = 10) ∧
    (canonical wModesComplete3 = true ∧
      engineOn wModesComplete3 = true ∧
      firstFail (modeChecks (mkCmd (rq0 : Req) 0x25 [(11#32 : Word)] [] wModesComplete3) wModesComplete3) = none ∧
      timeRefused wModesComplete3 = false ∧
      bitsOf (11#32 : Word) 3 0 = 11 ∧
      alone wModesComplete3 = true ∧
      retainFalls wModesComplete3 = [] ∧
      (List.range 32).all (fun n => !(rail wModesComplete3 n).falling && !(rail wModesComplete3 n).inDesc) = true) ∧
    (canonical wModesComplete4 = true ∧
      engineOn wModesComplete4 = true ∧
      firstFail (modeChecks (mkCmd (rq0 : Req) 0x25 [(11#32 : Word)] [] wModesComplete4) wModesComplete4) = none ∧
      timeRefused wModesComplete4 = false ∧
      bitsOf (11#32 : Word) 3 0 = 11 ∧
      alone wModesComplete4 = true ∧
      (rail wModesComplete4 (9 : Fin 32)).enabled = true ∧
      (rail wModesComplete4 (9 : Fin 32)).fallFail = false ∧
      (rail wModesComplete4 (9 : Fin 32)).ph ≠ .rampDown ∧
      maskBit wModesComplete4 W.SEQ_RETAIN (9 : Fin 32) = false) := by
  decide +kernel

/-- Blocks and operands that meet the premises of the clauses of `Obligations.ModesComplete`, part 2 of 4. -/
theorem witness_ModesComplete_part2 :
    (canonical wModesComplete5 = true ∧
      engineOn wModesComplete5 = true ∧
      firstFail (modeChecks (mkCmd (rq0 : Req) 0x25 [(11#32 : Word)] [] wModesComplete5) wModesComplete5) = none ∧
      timeRefused wModesComplete5 = false ∧
      bitsOf (11#32 : Word) 3 0 = 11 ∧
      alone wModesComplete5 = false) ∧
    (canonical wModesComplete6 = true ∧
      engineOn wModesComplete6 = true ∧
      firstFail (modeChecks (mkCmd (rq0 : Req) 0x25 [(11#32 : Word)] [] wModesComplete6) wModesComplete6) = none ∧
      timeRefused wModesComplete6 = true) ∧
    (canonical wModesComplete7 = true ∧
      engineOn wModesComplete7 = true ∧
      firstFail (modeChecks (mkCmd (rq0 : Req) 0x25 [(4#32 : Word)] [] wModesComplete7) wModesComplete7) = none ∧
      timeRefused wModesComplete7 = false ∧
      bitsOf (4#32 : Word) 3 0 = 4) ∧
    (canonical wModesComplete8 = true ∧
      engineOn wModesComplete8 = true ∧
      firstFail (modeChecks (mkCmd (rq0 : Req) 0x25 [(2#32 : Word)] [] wModesComplete8) wModesComplete8) = none ∧
      timeRefused wModesComplete8 = false ∧
      bitsOf (2#32 : Word) 3 0 = 2 ∧
      wModesComplete8.mode = .service ∧
      enabledRails wModesComplete8 = []) ∧
    (canonical wModesComplete9 = true ∧
      engineOn wModesComplete9 = true ∧
      firstFail (modeChecks (mkCmd (rq0 : Req) 0x25 [(2#32 : Word)] [] wModesComplete9) wModesComplete9) = none ∧
      timeRefused wModesComplete9 = false ∧
      bitsOf (2#32 : Word) 3 0 = 2 ∧
      wModesComplete9.mode = .service ∧
      (rail wModesComplete9 (9 : Fin 32)).enabled = true ∧
      (rail wModesComplete9 (9 : Fin 32)).fallFail = false ∧
      (rail wModesComplete9 (9 : Fin 32)).ph ≠ .rampDown) := by
  decide +kernel

/-- Blocks and operands that meet the premises of the clauses of `Obligations.ModesComplete`, part 3 of 4. -/
theorem witness_ModesComplete_part3 :
    (canonical wModesComplete10 = true ∧
      engineOn wModesComplete10 = true ∧
      firstFail (modeChecks (mkCmd (rq0 : Req) 0x25 [(2#32 : Word)] [] wModesComplete10) wModesComplete10) = none ∧
      timeRefused wModesComplete10 = false ∧
      bitsOf (2#32 : Word) 3 0 = 2 ∧
      wModesComplete10.mode = .replay) ∧
    (canonical wModesComplete0 = true ∧
      engineOn wModesComplete0 = true ∧
      firstFail (modeChecks (mkCmd (rq0 : Req) 0x25 [(4#32 : Word)] [] wModesComplete0) wModesComplete0) = some (.deniedMode
        : Status)) ∧
    (canonical wModesComplete12 = true ∧
      engineOn wModesComplete12 = true ∧
      firstFail (clearChecks (mkCmd (rq0 : Req) 0x26 [] [] wModesComplete12) wModesComplete12) = none) ∧
    (canonical wModesComplete3 = true ∧
      engineOn wModesComplete3 = true ∧
      firstFail (clearChecks (mkCmd (rq0 : Req) 0x26 [] [] wModesComplete3) wModesComplete3) = some (.deniedMode : Status)) ∧
    (canonical wModesComplete14 = true ∧
      wModesComplete14.core.sleepTo = some ((.dormant : Mode), (40 : Nat)) ∧
      wModesComplete14.mode = .boot ∧
      (((.dormant : Mode) = .standby ∨ (.dormant : Mode) = .dormant))) ∧
    (canonical wModesComplete15 = true ∧
      wModesComplete15.core.sleepTo = some ((.dormant : Mode), (40 : Nat)) ∧
      wModesComplete15.mode ≠ .boot) ∧
    (canonical wModesComplete0 = true ∧
      wModesComplete0.core.sleepTo = none) ∧
    (canonical wModesComplete17 = true ∧
      wModesComplete17.mode = .standby ∧
      wModesComplete17.core.porHeld = false ∧
      pinHeld (1#1 : BitVec 1).toNat (false : Bool) (30 : Nat) wModesComplete17 = true ∧
      flag wModesComplete17 (if (1#1 : BitVec 1).toNat = 0 then W.WAKE_CFG_WK0_EN else W.WAKE_CFG_WK1_EN) = true) ∧
    (canonical wModesComplete18 = true ∧
      wModesComplete18.mode = .retain ∧
      wModesComplete18.core.porHeld = false ∧
      pinHeld (0#1 : BitVec 1).toNat (true : Bool) (10 : Nat) wModesComplete18 = true ∧
      flag wModesComplete18 (if (0#1 : BitVec 1).toNat = 0 then W.WAKE_CFG_WK0_EN else W.WAKE_CFG_WK1_EN) = true) := by
  decide +kernel

/-- Blocks and operands that meet the premises of the clauses of `Obligations.ModesComplete`, part 4 of 4. -/
theorem witness_ModesComplete_part4 :
    (canonical wModesComplete3 = true ∧
      inMode wModesComplete3 [.dormant, .standby, .retain] = false ∧
      wModesComplete3.core.porHeld = false ∧
      pinHeld (0#1 : BitVec 1).toNat (true : Bool) (10 : Nat) wModesComplete3 = true) ∧
    (canonical wModesComplete3 = true ∧
      ((wModesComplete3.mode = .dormant ∨ wModesComplete3.core.porHeld = true ∨ pinHeld (0#1 : BitVec 1).toNat (true : Bool)
        (9 : Nat) wModesComplete3 = false ∨ (inMode wModesComplete3 [.standby, .retain] && !flag wModesComplete3 (if (0#1 :
        BitVec 1).toNat = 0 then W.WAKE_CFG_WK0_EN else W.WAKE_CFG_WK1_EN)) = true))) ∧
    (canonical wModesComplete21 = true ∧
      wModesComplete21.mode = .standby ∧
      ((4799 : Nat) < wakeTh wModesComplete21 ∧ wakeTh wModesComplete21 ≤ (4800 : Nat) ∧ 10 ≤ (10 : Nat))) ∧
    (canonical wModesComplete22 = true ∧
      ((wModesComplete22.mode ≠ .standby ∨ wakeTh wModesComplete22 ≤ (0 : Nat) ∨ (9000 : Nat) < wakeTh wModesComplete22 ∨ (10
        : Nat) < 10))) ∧
    (canonical wModesComplete23 = true ∧
      wModesComplete23.mode = .retain ∧
      100 ≤ (100 : Nat)) ∧
    (canonical wModesComplete24 = true ∧
      wModesComplete24.mode = .standby ∧
      100 ≤ (100 : Nat)) ∧
    (canonical wModesComplete22 = true ∧
      ((inMode wModesComplete22 [.standby, .retain] = false ∨ (99 : Nat) < 100))) := by
  decide +kernel


def wThatchDenied0 : Device := up .run

/-- Blocks and operands that meet the premises of the clauses of `Obligations.ThatchDenied`, part 1 of 2. -/
theorem witness_ThatchDenied_part1 :
    (canonical wThatchDenied0 = true ∧
      engineOn wThatchDenied0 = true ∧
      ({ rq0 with src := .thatch } : Req).src = .thatch ∧
      wThatchDenied0.eng.issued.any (fun x => x.src == .thatch && x.op == 0x01) = false) ∧
    (canonical wThatchDenied0 = true ∧
      engineOn wThatchDenied0 = true ∧
      ({ rq0 with src := .thatch } : Req).src = .thatch ∧
      wThatchDenied0.eng.issued.any (fun x => x.src == .thatch && x.op == 0x01) = false) ∧
    (canonical wThatchDenied0 = true ∧
      engineOn wThatchDenied0 = true ∧
      ({ rq0 with src := .thatch } : Req).src = .thatch ∧
      wThatchDenied0.eng.issued.any (fun x => x.src == .thatch && x.op == 0x01) = false) ∧
    (canonical wThatchDenied0 = true ∧
      engineOn wThatchDenied0 = true ∧
      ({ rq0 with src := .thatch } : Req).src = .thatch ∧
      wThatchDenied0.eng.issued.any (fun x => x.src == .thatch && x.op == 0x01) = false) ∧
    (canonical wThatchDenied0 = true ∧
      engineOn wThatchDenied0 = true ∧
      ({ rq0 with src := .thatch } : Req).src = .thatch ∧
      wThatchDenied0.eng.issued.any (fun x => x.src == .thatch && x.op == 0x01) = false) ∧
    (canonical wThatchDenied0 = true ∧
      engineOn wThatchDenied0 = true ∧
      ({ rq0 with src := .thatch } : Req).src = .thatch ∧
      wThatchDenied0.eng.issued.any (fun x => x.src == .thatch && x.op == 0x01) = false) ∧
    (canonical wThatchDenied0 = true ∧
      engineOn wThatchDenied0 = true ∧
      ({ rq0 with src := .thatch } : Req).src = .thatch ∧
      wThatchDenied0.eng.issued.any (fun x => x.src == .thatch && x.op == 0x01) = false) ∧
    (canonical wThatchDenied0 = true ∧
      engineOn wThatchDenied0 = true ∧
      ({ rq0 with src := .thatch } : Req).src = .thatch ∧
      wThatchDenied0.eng.issued.any (fun x => x.src == .thatch && x.op == 0x01) = false) ∧
    (canonical wThatchDenied0 = true ∧
      engineOn wThatchDenied0 = true ∧
      ({ rq0 with src := .thatch } : Req).src = .thatch ∧
      wThatchDenied0.eng.issued.any (fun x => x.src == .thatch && x.op == 0x01) = false) := by
  decide +kernel

/-- Blocks and operands that meet the premises of the clauses of `Obligations.ThatchDenied`, part 2 of 2. -/
theorem witness_ThatchDenied_part2 :
    (canonical wThatchDenied0 = true ∧
      engineOn wThatchDenied0 = true ∧
      ({ rq0 with src := .thatch } : Req).src = .thatch ∧
      wThatchDenied0.eng.issued.any (fun x => x.src == .thatch && x.op == 0x01) = false) ∧
    (canonical wThatchDenied0 = true ∧
      engineOn wThatchDenied0 = true ∧
      ({ rq0 with src := .thatch } : Req).src = .thatch ∧
      wThatchDenied0.eng.issued.any (fun x => x.src == .thatch && x.op == 0x01) = false) ∧
    (canonical wThatchDenied0 = true ∧
      engineOn wThatchDenied0 = true ∧
      ({ rq0 with src := .thatch } : Req).src = .thatch ∧
      wThatchDenied0.eng.issued.any (fun x => x.src == .thatch && x.op == 0x01) = false) ∧
    (canonical wThatchDenied0 = true ∧
      engineOn wThatchDenied0 = true ∧
      ({ rq0 with src := .thatch } : Req).src = .thatch ∧
      wThatchDenied0.eng.issued.any (fun x => x.src == .thatch && x.op == 0x01) = false) ∧
    (canonical wThatchDenied0 = true ∧
      engineOn wThatchDenied0 = true ∧
      ({ rq0 with src := .thatch } : Req).src = .thatch ∧
      wThatchDenied0.eng.issued.any (fun x => x.src == .thatch && x.op == 0x01) = false) ∧
    (canonical wThatchDenied0 = true ∧
      engineOn wThatchDenied0 = true ∧
      ({ rq0 with src := .thatch } : Req).src = .thatch ∧
      wThatchDenied0.eng.issued.any (fun x => x.src == .thatch && x.op == 0x01) = false) := by
  decide +kernel


def wUnlistedAddressRefused0 : Device := up .run
def wUnlistedAddressRefused1 : Device := up .replay
def wUnlistedAddressRefused2 : Device := up .retain

/-- Blocks and operands that meet the premises of the clauses of `Obligations.UnlistedAddressRefused`. -/
theorem witness_UnlistedAddressRefused :
    (canonical wUnlistedAddressRefused0 = true ∧
      engineOn wUnlistedAddressRefused0 = true ∧
      addrOk (0x1E00#32 : Word) = false) ∧
    (canonical wUnlistedAddressRefused1 = true ∧
      engineOn wUnlistedAddressRefused1 = true ∧
      (famOf? (bitsOf (0x00011E00#32 : Word) 15 0)).isSome = false) ∧
    (canonical wUnlistedAddressRefused2 = true ∧
      engineOn wUnlistedAddressRefused2 = true ∧
      (rq0 : Req).src ≠ .thatch ∧
      addrOk (0x12345#32 : Word) = false) ∧
    (canonical wUnlistedAddressRefused0 = true ∧
      engineOn wUnlistedAddressRefused0 = true ∧
      (rq0 : Req).src ≠ .thatch ∧
      addrOk (0xFF00#32 : Word) = false) := by
  decide +kernel


def wSelfTestFlag0 : Device := has [(W.MODE_STATUS_BOOT_STAGE, 0, 2)] { up .boot with core := { testPassed := true } }
def wSelfTestFlag1 : Device := { up .boot with core := { testPassed := true } }
def wSelfTestFlag2 : Device := { up .run with core := { testPassed := true } }
def wSelfTestFlag3 : Device := has [(W.MODE_STATUS_BOOT_STAGE, 0, 5)] (up .boot)

/-- Blocks and operands that meet the premises of the clauses of `Obligations.SelfTestFlag`. -/
theorem witness_SelfTestFlag :
    (canonical wSelfTestFlag0 = true ∧
      bootStage wSelfTestFlag0 = 2 ∧
      wSelfTestFlag0.core.hardHeld = false ∧
      wSelfTestFlag0.core.porHeld = false ∧
      wSelfTestFlag0.core.clocksOff = false) ∧
    (canonical wSelfTestFlag1 = true) ∧
    (canonical wSelfTestFlag2 = true ∧
      wSelfTestFlag2.mode ≠ .dormant) ∧
    (canonical wSelfTestFlag3 = true ∧
      bootStage wSelfTestFlag3 = 5 ∧
      wSelfTestFlag3.core.hardHeld = false ∧
      wSelfTestFlag3.core.porHeld = false ∧
      (true : Bool) = true) := by
  decide +kernel


def wRetryWaitEnds0 : Device := { up .latched with seq := { retryWait := true } }
def wRetryWaitEnds1 : Device := has [(W.MODE_STATUS_LATCH_CAUSE, 0, 7)] { up .latched with seq := { retryWait := true } }

/-- Blocks and operands that meet the premises of the clauses of `Obligations.RetryWaitEnds`. -/
theorem witness_RetryWaitEnds :
    (canonical wRetryWaitEnds0 = true ∧
      engineOn wRetryWaitEnds0 = true ∧
      (rq0 : Req).src ≠ .thatch ∧
      wRetryWaitEnds0.mode = .latched ∧
      wRetryWaitEnds0.seq.retryWait = true) ∧
    (canonical wRetryWaitEnds1 = true ∧
      engineOn wRetryWaitEnds1 = true ∧
      (rq0 : Req).src ≠ .thatch ∧
      wRetryWaitEnds1.mode = .latched ∧
      wRetryWaitEnds1.seq.retryWait = true ∧
      flag wRetryWaitEnds1 W.MODE_STATUS_ADOPTING = false ∧
      (fld wRetryWaitEnds1 W.MODE_STATUS_LATCH_CAUSE ≠ 7 ∨ tooHot wRetryWaitEnds1 = false)) := by
  decide +kernel


def wIssueFreesQueueSpace0 : Device := setQueue (up .run) 19 [{ id := 3, header := 0x00030000#32, params := [1#32, 2#32, 3#32], staged := false }]

/-- Blocks and operands that meet the premises of the clauses of `Obligations.IssueFreesQueueSpace`. -/
theorem witness_IssueFreesQueueSpace :
    (canonical wIssueFreesQueueSpace0 = true ∧
      engineOn wIssueFreesQueueSpace0 = true ∧
      (chooseQueue (5 : Nat) wIssueFreesQueueSpace0).map (fun r => r.1) = some (19 : Nat) ∧
      headOf wIssueFreesQueueSpace0 (19 : Nat) = some
        ({ id := 3, header := 0x00030000#32, params := [1#32, 2#32, 3#32], staged := false } : QPkt) ∧
      Machine.sizeOf (queue wIssueFreesQueueSpace0 (19 : Nat)) ≤ 256) := by
  decide +kernel


end Sys2Proof.Tests
end

/-! # The scope of the block: every step keeps canonical form, the state after reset, REG_READ with a FENCE_ALL due

What every row of the table of operations keeps is proved row by row in Laws/Rows.lean; here it is gathered into one statement
over all commands, and the invariant of the canonical form follows for every step. -/

namespace Sys2Proof.Machine

/-! ### Every step -/

/-- Whatever the command, exec answers a next state with the queue kept, in which only some set of parts and words changed. -/
theorem everyRow_keeps (i : Instr) (s : State) : ∃ m u, RowKeeps m u i s :=
  match i with
  | .nop rq => ⟨_, _, keeps_nop rq s⟩
  | .fence rq => ⟨_, _, keeps_fence rq s⟩
  | .fenceAll rq => ⟨_, _, keeps_fenceAll rq s⟩
  | .echo rq p0 p1 => ⟨_, _, keeps_echo rq p0 p1 s⟩
  | .queueCfg rq p0 => ⟨_, _, keeps_queueCfg rq p0 s⟩
  | .tagFlush rq p0 => ⟨_, _, keeps_tagFlush rq p0 s⟩
  | .regRead rq p0 => ⟨_, _, keeps_regRead rq p0 s⟩
  | .regWrite rq p0 p1 => ⟨_, _, keeps_regWrite rq p0 p1 s⟩
  | .regRmw rq p0 p1 p2 => ⟨_, _, keeps_regRmw rq p0 p1 p2 s⟩
  | .regReadBlock rq p0 => ⟨_, _, keeps_regReadBlock rq p0 s⟩
  | .seqUp rq => ⟨_, _, keeps_seqUp rq s⟩
  | .seqDown rq => ⟨_, _, keeps_seqDown rq s⟩
  | .railOn rq p0 => ⟨_, _, keeps_railOn rq p0 s⟩
  | .railOff rq p0 => ⟨_, _, keeps_railOff rq p0 s⟩
  | .railSetV rq p0 => ⟨_, _, keeps_railSetV rq p0 s⟩
  | .modeSet rq p0 => ⟨_, _, keeps_modeSet rq p0 s⟩
  | .latchClear rq => ⟨_, _, keeps_latchClear rq s⟩
  | .resetSoft rq p0 => ⟨_, _, keeps_resetSoft rq p0 s⟩
  | .resetHard rq p0 => ⟨_, _, keeps_resetHard rq p0 s⟩
  | .spareDrill rq p0 => ⟨_, _, keeps_spareDrill rq p0 s⟩
  | .selftest rq p0 failed samples => ⟨_, _, keeps_selftest rq p0 failed samples s⟩
  | .chgKick rq => ⟨_, _, keeps_chgKick rq s⟩
  | .chgClear rq => ⟨_, _, keeps_chgClear rq s⟩
  | .roofQuery rq => ⟨_, _, keeps_roofQuery rq s⟩
  | .vlyRequest rq p0 p1 dst cn => ⟨_, _, keeps_vlyRequest rq p0 p1 dst cn s⟩
  | .vlyEnd rq => ⟨_, _, keeps_vlyEnd rq s⟩
  | .adcConvert rq p0 => ⟨_, _, keeps_adcConvert rq p0 s⟩
  | .adcSubscribe rq params => ⟨_, _, keeps_adcSubscribe rq params s⟩
  | .tempRead rq p0 => ⟨_, _, keeps_tempRead rq p0 s⟩
  | .evtAck rq p0 p1 => ⟨_, _, keeps_evtAck rq p0 p1 s⟩
  | .evtGdis rq p0 => ⟨_, _, keeps_evtGdis rq p0 s⟩
  | .rtcSet rq p0 p1 edge => ⟨_, _, keeps_rtcSet rq p0 p1 edge s⟩
  | .rtcGet rq late => ⟨_, _, keeps_rtcGet rq late s⟩
  | .rtcTrim rq p0 => ⟨_, _, keeps_rtcTrim rq p0 s⟩
  | .otpRead rq p0 => ⟨_, _, keeps_otpRead rq p0 s⟩
  | .otpShadowWrite rq p0 p1 p2 => ⟨_, _, keeps_otpShadowWrite rq p0 p1 p2 s⟩
  | .otpProgram rq p0 p1 p2 vpre hot => ⟨_, _, keeps_otpProgram rq p0 p1 p2 vpre hot s⟩
  | .otpFinalize rq p0 vpre hot => ⟨_, _, keeps_otpFinalize rq p0 vpre hot s⟩
  | .trussStage rq p0 data => ⟨_, _, keeps_trussStage rq p0 data s⟩
  | .trussCommit rq => ⟨_, _, keeps_trussCommit rq s⟩
  | .fwStage rq p0 data => ⟨_, _, keeps_fwStage rq p0 data s⟩
  | .fwActivate rq p0 vpre hot => ⟨_, _, keeps_fwActivate rq p0 vpre hot s⟩
  | .wdtKick rq => ⟨_, _, keeps_wdtKick rq s⟩
  | .traceTrigger rq p0 => ⟨_, _, keeps_traceTrigger rq p0 s⟩
  | .traceRearm rq => ⟨_, _, keeps_traceRearm rq s⟩
  | .traceStream rq p0 => ⟨_, _, keeps_traceStream rq p0 s⟩
  | .cntSnapshot rq => ⟨_, _, keeps_cntSnapshot rq s⟩
  | .cntClear rq p0 p1 => ⟨_, _, keeps_cntClear rq p0 p1 s⟩
  | .hostPageRead tx => ⟨_, _, keeps_hostPageRead tx s⟩
  | .hostPageWrite tx => ⟨_, _, keeps_hostPageWrite tx s⟩
  | .push tx => ⟨_, _, keeps_push tx s⟩
  | .pop tx => ⟨_, _, keeps_pop tx s⟩
  | .hpDoorbell v => ⟨_, _, keeps_hpDoorbell v s⟩
  | .hpSqMode v => ⟨_, _, keeps_hpSqMode v s⟩
  | .rngPtr r v => ⟨_, _, keeps_rngPtr r v s⟩
  | .evtFpend => ⟨_, _, keeps_evtFpend s⟩
  | .evtFack v => ⟨_, _, keeps_evtFack v s⟩
  | .forget rq => ⟨_, _, keeps_forget rq s⟩
  | .endReq rq => ⟨_, _, keeps_endReq rq s⟩
  | .gutSel rq v => ⟨_, _, keeps_gutSel rq v s⟩
  | .capFree rq v => ⟨_, _, keeps_capFree rq v s⟩
  | .hostHold rq v => ⟨_, _, keeps_hostHold rq v s⟩
  | .faultLatch rq n => ⟨_, _, keeps_faultLatch rq n s⟩
  | .rtcTime rq v => ⟨_, _, keeps_rtcTime rq v s⟩
  | .rtcDate rq v => ⟨_, _, keeps_rtcDate rq v s⟩
  | .evTs rq x => ⟨_, _, keeps_evTs rq x s⟩
  | .lnkFn rq => ⟨_, _, keeps_lnkFn rq s⟩
  | .pcVal rq k => ⟨_, _, keeps_pcVal rq k s⟩
  | .smpN rq v => ⟨_, _, keeps_smpN rq v s⟩
  | .chgSet rq v => ⟨_, _, keeps_chgSet rq v s⟩
  | .evtCoal rq g v => ⟨_, _, keeps_evtCoal rq g v s⟩
  | .evtEn rq g v => ⟨_, _, keeps_evtEn rq g v s⟩
  | .powerOnReset bkCold => ⟨_, _, keeps_powerOnReset bkCold s⟩
  | .porRelease samples testEn => ⟨_, _, keeps_porRelease samples testEn s⟩
  | .uvlo => ⟨_, _, keeps_uvlo s⟩
  | .nrst => ⟨_, _, keeps_nrst s⟩
  | .nrstRelease => ⟨_, _, keeps_nrstRelease s⟩
  | .purlinWdt => ⟨_, _, keeps_purlinWdt s⟩
  | .lockstep => ⟨_, _, keeps_lockstep s⟩
  | .softResetDone => ⟨_, _, keeps_softResetDone s⟩
  | .keeperTrip n => ⟨_, _, keeps_keeperTrip n s⟩
  | .pllLock align => ⟨_, _, keeps_pllLock align s⟩
  | .purlinHashCheck => ⟨_, _, keeps_purlinHashCheck s⟩
  | .otpRegionsRead => ⟨_, _, keeps_otpRegionsRead s⟩
  | .bootSelftestDone pass => ⟨_, _, keeps_bootSelftestDone pass s⟩
  | .thatchVerify => ⟨_, _, keeps_thatchVerify s⟩
  | .thatchReady => ⟨_, _, keeps_thatchReady s⟩
  | .bootEntry => ⟨_, _, keeps_bootEntry s⟩
  | .adoption crc samples => ⟨_, _, keeps_adoption crc samples s⟩
  | .wakePin x level n => ⟨_, _, keeps_wakePin x level n s⟩
  | .vsupWake low high n => ⟨_, _, keeps_vsupWake low high n s⟩
  | .vauxWake us => ⟨_, _, keeps_vauxWake us s⟩
  | .alarm a hold => ⟨_, _, keeps_alarm a hold s⟩
  | .evTimestamp x rise presc hold => ⟨_, _, keeps_evTimestamp x rise presc hold s⟩
  | .rtcSecond => ⟨_, _, keeps_rtcSecond s⟩
  | .oscFail => ⟨_, _, keeps_oscFail s⟩
  | .rtcCalCycle => ⟨_, _, keeps_rtcCalCycle s⟩
  | .bkSupplySwitch => ⟨_, _, keeps_bkSupplySwitch s⟩
  | .bkReturn => ⟨_, _, keeps_bkReturn s⟩
  | .trimDone counts => ⟨_, _, keeps_trimDone counts s⟩
  | .trimTimeout => ⟨_, _, keeps_trimTimeout s⟩
  | .comparatorTrip n k both => ⟨_, _, keeps_comparatorTrip n k both s⟩
  | .comparatorRelease n k => ⟨_, _, keeps_comparatorRelease n k s⟩
  | .ocTrip n => ⟨_, _, keeps_ocTrip n s⟩
  | .ldoOcTrip n => ⟨_, _, keeps_ldoOcTrip n s⟩
  | .powerGood n ldin => ⟨_, _, keeps_powerGood n ldin s⟩
  | .pgoodRelease k => ⟨_, _, keeps_pgoodRelease k s⟩
  | .ssoRelease j => ⟨_, _, keeps_ssoRelease j s⟩
  | .ssoFault j => ⟨_, _, keeps_ssoFault j s⟩
  | .interlockRelease n low => ⟨_, _, keeps_interlockRelease n low s⟩
  | .slotOn n => ⟨_, _, keeps_slotOn n s⟩
  | .t0Reached => ⟨_, _, keeps_t0Reached s⟩
  | .riseFail mask => ⟨_, _, keeps_riseFail mask s⟩
  | .railOnTimeout n => ⟨_, _, keeps_railOnTimeout n s⟩
  | .offDelay n => ⟨_, _, keeps_offDelay n s⟩
  | .gateTimeout n => ⟨_, _, keeps_gateTimeout n s⟩
  | .railFallen n => ⟨_, _, keeps_railFallen n s⟩
  | .fallFail n => ⟨_, _, keeps_fallFail n s⟩
  | .forcedDischargeEnd n => ⟨_, _, keeps_forcedDischargeEnd n s⟩
  | .retryDelay => ⟨_, _, keeps_retryDelay s⟩
  | .retryCntClear => ⟨_, _, keeps_retryCntClear s⟩
  | .tRest => ⟨_, _, keeps_tRest s⟩
  | .softStartComplete n => ⟨_, _, keeps_softStartComplete n s⟩
  | .softStopComplete n => ⟨_, _, keeps_softStopComplete n s⟩
  | .setPointMoveEnd n => ⟨_, _, keeps_setPointMoveEnd n s⟩
  | .hcPhaseFail k cause => ⟨_, _, keeps_hcPhaseFail k cause s⟩
  | .syncLost => ⟨_, _, keeps_syncLost s⟩
  | .syncRequalify n => ⟨_, _, keeps_syncRequalify n s⟩
  | .syncLocked n => ⟨_, _, keeps_syncLocked n s⟩
  | .syncQualified periods => ⟨_, _, keeps_syncQualified periods s⟩
  | .brakeStart n below => ⟨_, _, keeps_brakeStart n below s⟩
  | .brakeEnd n => ⟨_, _, keeps_brakeEnd n s⟩
  | .clusterPhaseFail fails => ⟨_, _, keeps_clusterPhaseFail fails s⟩
  | .handoverMatch c m => ⟨_, _, keeps_handoverMatch c m s⟩
  | .spareEngaged c => ⟨_, _, keeps_spareEngaged c s⟩
  | .handoverFail c => ⟨_, _, keeps_handoverFail c s⟩
  | .rotationEval c => ⟨_, _, keeps_rotationEval c s⟩
  | .rotationRelease c => ⟨_, _, keeps_rotationRelease c s⟩
  | .phaseShed n => ⟨_, _, keeps_phaseShed n s⟩
  | .shedResume n => ⟨_, _, keeps_shedResume n s⟩
  | .drillTimeout c => ⟨_, _, keeps_drillTimeout c s⟩
  | .drillHoldEnd c ma opened => ⟨_, _, keeps_drillHoldEnd c ma opened s⟩
  | .gbShort k => ⟨_, _, keeps_gbShort k s⟩
  | .gbOpen k present => ⟨_, _, keeps_gbOpen k present s⟩
  | .gbUvlo bank => ⟨_, _, keeps_gbUvlo bank s⟩
  | .gbUvloRelease bank => ⟨_, _, keeps_gbUvloRelease bank s⟩
  | .gbRampDone k => ⟨_, _, keeps_gbRampDone k s⟩
  | .gbOffCounted k => ⟨_, _, keeps_gbOffCounted k s⟩
  | .vsupLost low => ⟨_, _, keeps_vsupLost low s⟩
  | .vsupLostInReset low energy => ⟨_, _, keeps_vsupLostInReset low energy s⟩
  | .vsupBack => ⟨_, _, keeps_vsupBack s⟩
  | .handbackDone => ⟨_, _, keeps_handbackDone s⟩
  | .chargeResume => ⟨_, _, keeps_chargeResume s⟩
  | .idgReverse low => ⟨_, _, keeps_idgReverse low s⟩
  | .idgForward => ⟨_, _, keeps_idgForward s⟩
  | .packCutoff => ⟨_, _, keeps_packCutoff s⟩
  | .cutoffReenable => ⟨_, _, keeps_cutoffReenable s⟩
  | .packRemoved ov => ⟨_, _, keeps_packRemoved ov s⟩
  | .packInserted => ⟨_, _, keeps_packInserted s⟩
  | .bkFault => ⟨_, _, keeps_bkFault s⟩
  | .unanchoredHoldupEnd => ⟨_, _, keeps_unanchoredHoldupEnd s⟩
  | .boostIlim beyond us => ⟨_, _, keeps_boostIlim beyond us s⟩
  | .inputLimit => ⟨_, _, keeps_inputLimit s⟩
  | .chargerTick lim amps => ⟨_, _, keeps_chargerTick lim amps s⟩
  | .packNtcConversion short => ⟨_, _, keeps_packNtcConversion short s⟩
  | .chgDone removed => ⟨_, _, keeps_chgDone removed s⟩
  | .chgTimeout => ⟨_, _, keeps_chgTimeout s⟩
  | .chgWdExpired => ⟨_, _, keeps_chgWdExpired s⟩
  | .gaugeConversion nv => ⟨_, _, keeps_gaugeConversion nv s⟩
  | .quietConversion nv => ⟨_, _, keeps_quietConversion nv s⟩
  | .quietExit => ⟨_, _, keeps_quietExit s⟩
  | .emptyRearm => ⟨_, _, keeps_emptyRearm s⟩
  | .reserveRecompute => ⟨_, _, keeps_reserveRecompute s⟩
  | .gaugeCheckpoint => ⟨_, _, keeps_gaugeCheckpoint s⟩
  | .thermalSample mask => ⟨_, _, keeps_thermalSample mask s⟩
  | .adcConversionEnd c v beyond req raw => ⟨_, _, keeps_adcConversionEnd c v beyond req raw s⟩
  | .adcListPass c => ⟨_, _, keeps_adcListPass c s⟩
  | .adcCalibration c => ⟨_, _, keeps_adcCalibration c s⟩
  | .adcCalibrationEnd c gain offset half => ⟨_, _, keeps_adcCalibrationEnd c gain offset half s⟩
  | .adcConvertTimeout ch => ⟨_, _, keeps_adcConvertTimeout ch s⟩
  | .coalesceTimeout g => ⟨_, _, keeps_coalesceTimeout g s⟩
  | .packetIssue pick => ⟨_, _, keeps_packetIssue pick s⟩
  | .packetStart k env => ⟨_, _, keeps_packetStart k env s⟩
  | .duplicateRejudge q => ⟨_, _, keeps_duplicateRejudge q s⟩
  | .completionStall => ⟨_, _, keeps_completionStall s⟩
  | .frameStartTx => ⟨_, _, keeps_frameStartTx s⟩
  | .frameStartRx fn off spaced => ⟨_, _, keeps_frameStartRx fn off spaced s⟩
  | .slotTx abandoned => ⟨_, _, keeps_slotTx abandoned s⟩
  | .slotError a preempted => ⟨_, _, keeps_slotError a preempted s⟩
  | .status a mode flags p1 => ⟨_, _, keeps_status a mode flags p1 s⟩
  | .presence a mode major compat features => ⟨_, _, keeps_presence a mode major compat features s⟩
  | .digest a mode digest => ⟨_, _, keeps_digest a mode digest s⟩
  | .calReq a mode seq err => ⟨_, _, keeps_calReq a mode seq err s⟩
  | .calResp a mode target kind v => ⟨_, _, keeps_calResp a mode target kind v s⟩
  | .guardExchange a rtt => ⟨_, _, keeps_guardExchange a rtt s⟩
  | .disciplined => ⟨_, _, keeps_disciplined s⟩
  | .holderElection => ⟨_, _, keeps_holderElection s⟩
  | .holderHandover => ⟨_, _, keeps_holderHandover s⟩
  | .holderLost => ⟨_, _, keeps_holderLost s⟩
  | .holderChange => ⟨_, _, keeps_holderChange s⟩
  | .holdoverLimit => ⟨_, _, keeps_holdoverLimit s⟩
  | .memberLost a => ⟨_, _, keeps_memberLost a s⟩
  | .addrConflict => ⟨_, _, keeps_addrConflict s⟩
  | .linkDead => ⟨_, _, keeps_linkDead s⟩
  | .urgentReinsert => ⟨_, _, keeps_urgentReinsert s⟩
  | .fault data fn sym => ⟨_, _, keeps_fault data fn sym s⟩
  | .descendInsertion data fn sym => ⟨_, _, keeps_descendInsertion data fn sym s⟩
  | .loss data fn sym => ⟨_, _, keeps_loss data fn sym s⟩
  | .hold data fn sym => ⟨_, _, keeps_hold data fn sym s⟩
  | .echoSlot a mode kind data fn sym => ⟨_, _, keeps_echoSlot a mode kind data fn sym s⟩
  | .announceStart a mode w1 w2 => ⟨_, _, keeps_announceStart a mode w1 w2 s⟩
  | .announceState a mode w1 w2 => ⟨_, _, keeps_announceState a mode w1 w2 s⟩
  | .announceDown a mode w1 w2 => ⟨_, _, keeps_announceDown a mode w1 w2 s⟩
  | .agree a mode w1 w2 => ⟨_, _, keeps_agree a mode w1 w2 s⟩
  | .startAnnounced => ⟨_, _, keeps_startAnnounced s⟩
  | .degradedStart => ⟨_, _, keeps_degradedStart s⟩
  | .startTimeout => ⟨_, _, keeps_startTimeout s⟩
  | .timeAbort => ⟨_, _, keeps_timeAbort s⟩
  | .noncompliant a => ⟨_, _, keeps_noncompliant a s⟩
  | .offer a mode w1 w2 => ⟨_, _, keeps_offer a mode w1 w2 s⟩
  | .request a mode w1 w2 => ⟨_, _, keeps_request a mode w1 w2 s⟩
  | .accept a mode w1 w2 => ⟨_, _, keeps_accept a mode w1 w2 s⟩
  | .reject a mode w1 w2 => ⟨_, _, keeps_reject a mode w1 w2 s⟩
  | .swapReq a mode w1 w2 => ⟨_, _, keeps_swapReq a mode w1 w2 s⟩
  | .swapAck a mode w1 w2 => ⟨_, _, keeps_swapAck a mode w1 w2 s⟩
  | .contractBegin => ⟨_, _, keeps_contractBegin s⟩
  | .safeLowStart => ⟨_, _, keeps_safeLowStart s⟩
  | .softstartDone => ⟨_, _, keeps_softstartDone s⟩
  | .startFail => ⟨_, _, keeps_startFail s⟩
  | .vlyOverload => ⟨_, _, keeps_vlyOverload s⟩
  | .vlyOv => ⟨_, _, keeps_vlyOv s⟩
  | .sinkDiodeClose => ⟨_, _, keeps_sinkDiodeClose s⟩
  | .sinkLineLow => ⟨_, _, keeps_sinkLineLow s⟩
  | .fsArmed => ⟨_, _, keeps_fsArmed s⟩
  | .fastSwap low => ⟨_, _, keeps_fastSwap low s⟩
  | .sourceToDiode => ⟨_, _, keeps_sourceToDiode s⟩
  | .energySpent => ⟨_, _, keeps_energySpent s⟩
  | .swapTx => ⟨_, _, keeps_swapTx s⟩
  | .swapOutgoing => ⟨_, _, keeps_swapOutgoing s⟩
  | .swapAmend e => ⟨_, _, keeps_swapAmend e s⟩
  | .ppsPulse => ⟨_, _, keeps_ppsPulse s⟩
  | .thatchWdt => ⟨_, _, keeps_thatchWdt s⟩
  | .quiesceTimeout => ⟨_, _, keeps_quiesceTimeout s⟩
  | .fwConfirmed vpre hot => ⟨_, _, keeps_fwConfirmed vpre hot s⟩
  | .arbPending vpre hot => ⟨_, _, keeps_arbPending vpre hot s⟩
  | .hwdExpired => ⟨_, _, keeps_hwdExpired s⟩
  | .scrubAccess m word found fore last => ⟨_, _, keeps_scrubAccess m word found fore last s⟩
  | .sectorErase => ⟨_, _, keeps_sectorErase s⟩
  | .telemetryRecord => ⟨_, _, keeps_telemetryRecord s⟩
  | .gutterWrite => ⟨_, _, keeps_gutterWrite s⟩
  | .gutAbandoned => ⟨_, _, keeps_gutAbandoned s⟩
  | .gutterRewrite => ⟨_, _, keeps_gutterRewrite s⟩
  | .gutBufFilled => ⟨_, _, keeps_gutBufFilled s⟩
  | .traceCheckpoint => ⟨_, _, keeps_traceCheckpoint s⟩
  | .trcFrozen => ⟨_, _, keeps_trcFrozen s⟩
  | .trcCopied more => ⟨_, _, keeps_trcCopied more s⟩
  | .capFreed k => ⟨_, _, keeps_capFreed k s⟩
  | .replayDigest same interval cycle sub => ⟨_, _, keeps_replayDigest same interval cycle sub s⟩
  | .rplDone => ⟨_, _, keeps_rplDone s⟩
  | .sampleEntry => ⟨_, _, keeps_sampleEntry s⟩
  | .sampleDrain => ⟨_, _, keeps_sampleDrain s⟩
  | .counterDump => ⟨_, _, keeps_counterDump s⟩
  | .xtalOk => ⟨_, _, keeps_xtalOk s⟩
  | .refLost => ⟨_, _, keeps_refLost s⟩
  | .refRestored => ⟨_, _, keeps_refRestored s⟩
  | .pllLoss => ⟨_, _, keeps_pllLoss s⟩
  | .lpoFault => ⟨_, _, keeps_lpoFault s⟩
  | .otpWindowSample n vpre hot left => ⟨_, _, keeps_otpWindowSample n vpre hot left s⟩
  | .otpWordDone miss soft vpre hot => ⟨_, _, keeps_otpWordDone miss soft vpre hot s⟩
  | .otpReadDone => ⟨_, _, keeps_otpReadDone s⟩
  | .selftestTimeout => ⟨_, _, keeps_selftestTimeout s⟩
  | .vlyRequestTimeout => ⟨_, _, keeps_vlyRequestTimeout s⟩
  | .standbyDormantTransition => ⟨_, _, keeps_standbyDormantTransition s⟩
  | .thatchCheckIn => ⟨_, _, keeps_thatchCheckIn s⟩
  | .purlinWdtKick => ⟨_, _, keeps_purlinWdtKick s⟩
  | .acuException => ⟨_, _, keeps_acuException s⟩
  | .thatchRestartRequest => ⟨_, _, keeps_thatchRestartRequest s⟩
  | .thatchSubmit header params => ⟨_, _, keeps_thatchSubmit header params s⟩
  | .q16MessagePlaced type w1 w2 => ⟨_, _, keeps_q16MessagePlaced type w1 w2 s⟩
  | .thatchWaitTimeout => ⟨_, _, keeps_thatchWaitTimeout s⟩
  | .vsupReturn => ⟨_, _, keeps_vsupReturn s⟩
  | .lpoBadClear => ⟨_, _, keeps_lpoBadClear s⟩
  | .pdBkSupplyReturn => ⟨_, _, keeps_pdBkSupplyReturn s⟩
  | .outputDigestRecord changes => ⟨_, _, keeps_outputDigestRecord changes s⟩

theorem exec_keeps_canonical {i : Instr} {s t : State} (hs : canonical s.dev = true) (h : exec i s = .next t) :
    canonical t.dev = true := by
  obtain ⟨m, u, d, hd, hk⟩ := everyRow_keeps i s
  cases hd.symm.trans h
  exact hk.canonicalAfter hs

theorem idle_keeps_canonical {d : Device} (h : canonical d = true) : canonical (idle d) = true :=
  (idle_keeps (Within.refl _) (Within.refl _) (Keeps.refl _ _ d)).canonicalAfter h

/-- Settles O6: a step is either the cycle that passes on an empty queue or exec of the front command, and each keeps the
canonical form. -/
theorem stepKeepsTheCanonicalForm : Obligations.StepKeepsTheCanonicalForm := by
  rintro ⟨pending, d⟩ t hd h
  cases pending with
  | nil =>
    cases h
    exact idle_keeps_canonical hd
  | cons i rest => exact exec_keeps_canonical (s := { pending := rest, dev := d }) hd h

/-! ### The state after reset -/

/-- Settles O4: the stores of the reset state list nothing, so every read of one gives the default; the fields named are read off
the Reset column. -/
theorem resetState : Obligations.ResetState := by
  have reads : ∀ a, getW State.reset.dev a = resetWord a := fun _ => rfl
  have rails : ∀ n, (rail State.reset.dev n).enabled = false := fun _ => rfl
  have queues : ∀ q, queue State.reset.dev q = [] := fun _ => rfl
  exact ⟨rfl, reads, rfl, by decide, rails, queues, rfl, by decide, by decide⟩

/-- Settles O5: but for the OTP array as shipped, which lists its words in rising order, every store is empty. -/
theorem resetIsCanonical : Obligations.ResetIsCanonical := by
  unfold Obligations.ResetIsCanonical
  decide

/-! ### A REG_READ of Purlin with a FENCE_ALL of Purlin due

`answered` asks of a command of Purlin that its completion be the last one that Purlin was given, unless a FENCE (opcode 0x01) of
Purlin is in progress. It makes no exception for a FENCE_ALL (0x02) of Purlin, which R404 completes behind the command just as
well, and `canonical` and `engineOn` do not exclude a block in which one is due. (It is not claimed that a run from reset comes
to such a block: the statements speak of every canonical one.) -/

/-- A REG_READ that completes as stated leaves a block of which the stated effect holds. -/
theorem Completes.regRead_post {rq : Req} {p0 : Word} {q : List Instr} {d : Device} {ps : List Part}
    {ts : Option (List Nat)} {post : Device → Prop} (h : Completes (.regRead rq p0) q d ps ts post) :
    post (runRow rq 0x10 [p0] [] opRegRead d) := by
  obtain ⟨e, he, -, -, hp⟩ := h
  have hd : runRow rq 0x10 [p0] [] opRegRead d = e := congrArg State.dev (Host.Outcome.next.inj he)
  rwa [hd]

/-- An untagged packet of Purlin. -/
def purlinReq : Req := { src := .purlin, tag := 0#12, quiet := false }

/-- A FENCE_ALL of Purlin in progress. -/
def purlinFenceAll : Cmd := { id := 0, src := .purlin, tag := 0, quiet := false, op := 0x02, params := [] }

/-- A block in RUN, its boot over, in which the FENCE_ALL in force, one of Purlin, waits for no packet any more: the next
completion, whatever command it is of, brings that of the FENCE_ALL behind it (R404). -/
def fenceAllDue : Device :=
  { setFld State.reset.dev W.MODE_STATUS_BOOT_STAGE 7 with
    mode := .run
    eng := { issued := [purlinFenceAll], nextId := 1, fall := some { id := 0, queue := 18, set := [] } } }

theorem fenceAllDue_canonical : canonical fenceAllDue = true := by decide

theorem fenceAllDue_engineOn : engineOn fenceAllDue = true := by decide

/-- Refutes O13 by its first clause: Purlin reads MODE_STATUS (0x0100) in the block `fenceAllDue`; the last completion that Purlin is
given is that of its FENCE_ALL, not the one with the word read. The clause lacks the premise that no FENCE_ALL of the packet's
core is in progress. -/
theorem not_registerAccess : ¬ Obligations.RegisterAccess := by
  intro h
  obtain ⟨hread, -⟩ := h [] fenceAllDue fenceAllDue_canonical
  obtain ⟨hans, -⟩ := (hread purlinReq 0x0100#32 fenceAllDue_engineOn (by decide) (by decide)).regRead_post
  exact absurd hans (by decide)

/-- Refutes O57 by its first clause: Purlin reads the reserved page 0xFF in the block `fenceAllDue`; the last completion that
Purlin is given is that of its FENCE_ALL, not BAD_PARAM. The clause lacks the same premise. -/
theorem not_unlistedAddressRefused : ¬ Obligations.UnlistedAddressRefused := by
  intro h
  obtain ⟨hread, -⟩ := h [] fenceAllDue fenceAllDue_canonical
  have hans := (hread purlinReq 0xFF00#32 fenceAllDue_engineOn (by decide)).regRead_post
  exact absurd hans (by decide)

end Sys2Proof.Machine

section
/-! # A command that Thatch may not send, with a FENCE_ALL of Thatch due (O56)

The premise of each clause of `Obligations.ThatchDenied` excludes a FENCE (opcode 0x01) of Thatch in progress, because its completion
would follow that of the denied command. A FENCE_ALL (0x02) whose packets have all completed follows it in the same way
(`fenceDone`, R404), and neither the premise nor `canonical` nor `engineOn` excludes one that is Thatch's. (`opFenceAll` refuses Thatch's
FENCE_ALL, R412, so no run from reset is claimed to come to such a block: the statement speaks of every canonical one.) -/

namespace Sys2Proof.Machine

/-- The stated effect of a command that completes holds of the block that exec answers. -/
theorem Completes.post_of_exec {i : Instr} {q : List Instr} {d e : Device} {ps : List Part} {ts : Option (List Nat)}
    {post : Device → Prop} (h : Completes i q d ps ts post)
    (he : exec i { pending := q, dev := d } = .next { pending := q, dev := e }) : post e := by
  obtain ⟨e', he', -, -, hp⟩ := h
  have heq : e' = e := congrArg State.dev (Host.Outcome.next.inj (he'.symm.trans he))
  rwa [← heq]

/-- An untagged packet of Thatch. -/
def thatchReq : Req := { src := .thatch, tag := 0#12, quiet := false }

/-- A FENCE_ALL of Thatch in progress. -/
def thatchFenceAll : Cmd := { purlinFenceAll with src := .thatch }

/-- The block `fenceAllDue` with Thatch in Purlin's place: the FENCE_ALL in force is one of Thatch and waits for no packet any
more. -/
def thatchFenceAllDue : Device :=
  { fenceAllDue with
    eng := { issued := [thatchFenceAll], nextId := 1, fall := some { id := 0, queue := 19, set := [] } } }

theorem thatchFenceAllDue_canonical : canonical thatchFenceAllDue = true := by decide

theorem thatchFenceAllDue_engineOn : engineOn thatchFenceAllDue = true := by decide

/-- No FENCE of Thatch is in progress in `thatchFenceAllDue`: the premise of each clause. -/
theorem thatchFenceAllDue_no_fence :
    thatchFenceAllDue.eng.issued.any (fun x => x.src == .thatch && x.op == 0x01) = false := by decide

/-- The block after a QUEUE_CFG of Thatch with the parameter 0. -/
def afterThatchQueueCfg : Device := runRow thatchReq 0x04 [0#32] [] opQueueCfg thatchFenceAllDue

/-- R404: the completion that Thatch is given last is the OK of its FENCE_ALL. -/
theorem thatchFenceAll_returned_last : returned thatchFenceAll .ok 0#32 0#32 afterThatchQueueCfg = true := by decide

/-- R397: hence the DENIED_PERMISSION of Thatch's QUEUE_CFG is not given last; the two completions differ in the header. -/
theorem thatchQueueCfg_not_returned_last :
    returned (mkCmd thatchReq 0x04 [] [] thatchFenceAllDue) .deniedPermission 0#32 0#32 afterThatchQueueCfg = false := by
  have hlast := thatchFenceAll_returned_last
  simp only [returned, beq_iff_eq] at hlast
  have hqueue : srcQueue (mkCmd thatchReq 0x04 [] [] thatchFenceAllDue).src = srcQueue thatchFenceAll.src := rfl
  rw [returned, hqueue, hlast]
  decide

/-- Refutes O56 by its clause for QUEUE_CFG: Thatch sends QUEUE_CFG in the block `thatchFenceAllDue`; the completion that Thatch is given
last is the OK of its FENCE_ALL, not DENIED_PERMISSION. The clauses lack the premise that no FENCE_ALL of Thatch is in
progress. -/
theorem not_thatchDenied : ¬ Obligations.ThatchDenied := by
  intro h
  obtain ⟨-, hcfg, -⟩ := h [] thatchFenceAllDue thatchFenceAllDue_canonical
  have hret := (hcfg thatchReq 0#32 thatchFenceAllDue_engineOn rfl thatchFenceAllDue_no_fence).post_of_exec
    (e := afterThatchQueueCfg) rfl
  exact absurd (thatchQueueCfg_not_returned_last.symm.trans hret) Bool.false_ne_true

end Sys2Proof.Machine
end

section
/-! # Blown OTP bits (O7)

`Keeps` of Laws/Keeps.lean carries `Blown`, the order of OTP arrays by their bits; `everyRow_keeps` gives it for every command. -/

namespace Sys2Proof.Machine

theorem exec_keeps_blown {i : Instr} {s t : State} (h : exec i s = .next t) : Blown s.dev.otp.array t.dev.otp.array := by
  obtain ⟨m, u, d, hd, hk⟩ := everyRow_keeps i s
  cases hd.symm.trans h
  exact hk.blown

theorem idle_keeps_blown (d : Device) : Blown d.otp.array (idle d).otp.array :=
  (idle_keeps (Within.refl _) (Within.refl _) (Keeps.refl _ _ d)).blown

/-- R57: whatever command runs, or a cycle passes on an empty queue, no bit of the OTP array goes back to 0. -/
theorem step_keeps_blown {s t : State} (h : step s = .next t) : Blown s.dev.otp.array t.dev.otp.array := by
  obtain ⟨pending, d⟩ := s
  cases pending with
  | nil =>
    cases h
    exact idle_keeps_blown d
  | cons i rest => exact exec_keeps_blown (s := { pending := rest, dev := d }) h

/-- Settles O7: `otpBit` reads the array, whose bits a step never takes back. -/
theorem stepKeepsBlownBits : Obligations.StepKeepsBlownBits :=
  fun _ _ w b hb h => step_keeps_blown h w b hb

end Sys2Proof.Machine
end

section
/-! # An OTP_READ that ends with an OTP_PROGRAM of the same core behind it (O43)

The clause on the end of a read asks that the read's completion be the last one that Purlin was given. Where a command of Purlin
waits behind the read, it starts as the read ends (R64), and one whose sample lies outside the window ends then and there (R70):
its completion is the last one. The block is one that two commands of Purlin bring about in SERVICE. -/

namespace Sys2Proof.Machine

/-- A block in mode `m`, its boot over. -/
def bootOver (m : Mode) : Device := { setFld State.reset.dev W.MODE_STATUS_BOOT_STAGE 7 with mode := m }

/-- Purlin's OTP_READ of word 0 is in progress. -/
def readBegun : Device := runRow purlinReq 0x90 [0x00010000#32] [] opOtpRead (bootOver .service)

/-- Behind it waits Purlin's OTP_PROGRAM of bit 0 of word 192, whose sample shows no programming supply: 0 mV. -/
def programWaits : Device := runRow purlinReq 0x92 [192#32, 1#32, 0#32] [0, 250] opOtpProgram readBegun

/-- The OTP_READ in progress in `programWaits`. -/
def readInProgress : Cmd := mkCmd purlinReq 0x90 [0x00010000#32] [] (bootOver .service)

theorem programWaits_canonical : canonical programWaits = true := by decide

theorem programWaits_line :
    programWaits.otp.line = [{ cmd := some 0 }, { cmd := some 1, words := [(192, 1)], sample := (0, 250) }] := by decide

theorem programWaits_finds_read :
    programWaits.eng.issued.find? (fun x => some x.id == some 0) = some readInProgress := by decide

/-- R397: after the end of the read the last completion of Purlin is not that of the read. -/
theorem read_not_returned_last : reply readInProgress .ok (lowW (otpWord programWaits 0)) (highW (otpWord programWaits 0))
    programWaits (opOtpReadDone programWaits) = false := by decide +kernel

/-- Refutes O43 by its clause for the end of a read of one word: in the block `programWaits` the read ends, the OTP_PROGRAM behind
it starts and ends with PROG_BLOCKED_SUPPLY, and that is the completion Purlin is given last. -/
theorem not_otpComplete : ¬ Obligations.OtpComplete := by
  intro h
  obtain ⟨-, -, hend, -⟩ := h [] programWaits programWaits_canonical
  obtain ⟨hone, -⟩ := (hend _ _ _ programWaits_line rfl programWaits_finds_read).post_of_exec
    (e := opOtpReadDone programWaits) rfl
  rcases hone with hlost | hcount | hreply
  · exact absurd hlost (by decide)
  · exact absurd hcount (by decide)
  · exact absurd (read_not_returned_last.symm.trans hreply) Bool.false_ne_true

end Sys2Proof.Machine
end

section
/-! # A refused TRUSS_STAGE with a FENCE_ALL of Purlin due (O44)

The clauses of `Obligations.TrussComplete` ask of a command of Purlin what the statement of O13 asks: that its completion be the last
one that Purlin was given. The block `fenceAllDue` serves here as well, and as there it is not claimed that a run comes to it. -/

namespace Sys2Proof.Machine

/-- The block after a TRUSS_STAGE of Purlin without a data word in `fenceAllDue`. -/
def afterEmptyStage : Device := runRow purlinReq 0x94 [0#32] [] opTrussStage fenceAllDue

/-- R397, R404: the OK of the FENCE_ALL follows the BAD_PARAM of the TRUSS_STAGE, which is not given last; no FENCE stands that would
excuse it. -/
theorem afterEmptyStage_not_answered :
    answered purlinReq 0x94 .badParam 0#32 0#32 fenceAllDue afterEmptyStage = false := by decide

/-- Refutes O44 by its second clause: Purlin sends a TRUSS_STAGE without data (BAD_PARAM) in the block `fenceAllDue`; the last
completion that Purlin is given is that of its FENCE_ALL, not the refusal. The clause lacks the premise that no FENCE_ALL of the
packet's core is in progress. -/
theorem not_trussComplete : ¬ Obligations.TrussComplete := by
  intro h
  obtain ⟨-, hrefused, -⟩ := h [] fenceAllDue fenceAllDue_canonical
  obtain ⟨hans, -⟩ := (hrefused purlinReq 0#32 [] .badParam fenceAllDue_engineOn (by decide)).post_of_exec
    (e := afterEmptyStage) rfl
  exact absurd (afterEmptyStage_not_answered.symm.trans hans) Bool.false_ne_true

end Sys2Proof.Machine
end

section
/-! # The count of uncorrectable words and the HARD reset (O46)

BG_ECC is a word of page 0x03, which no reset keeps (R14, R37): the HARD reset that an uncorrectable word of the TCU's memory leads
to (R544) takes the count with it. -/

namespace Sys2Proof.Machine

/-- R14: a reset that carries one more word over leaves a word of which it keeps no bit at its Reset value. -/
theorem get_carryWord {mask : Nat → Nat} {a k : Nat} {v : Word} {m : SMap Word} (hmask : mask a = 0)
    (hwf : SMap.wf resetWord m = true) (hm : SMap.get resetWord m a = resetWord a) :
    SMap.get resetWord (SMap.set resetWord k
      ((v &&& BitVec.ofNat 32 (mask k)) ||| (resetWord k &&& ~~~BitVec.ofNat 32 (mask k))) m) a = resetWord a := by
  by_cases hk : a = k
  · subst hk
    rw [get_set_eq hwf, hmask, BitVec.and_zero, BitVec.not_zero, BitVec.and_allOnes, BitVec.zero_or]
  · rw [get_set_ne hk, hm]

/-- R14: after a reset a word of which it keeps no bit holds its Reset value. -/
theorem get_keptWords {mask : Nat → Nat} {a : Nat} {d : Device} (hmask : mask a = 0) :
    SMap.get resetWord (keptWords mask d) a = resetWord a := by
  unfold keptWords
  generalize d.words = ws
  suffices h : ∀ m : SMap Word, SMap.wf resetWord m = true → SMap.get resetWord m a = resetWord a →
      SMap.get resetWord (ws.foldl (fun m p =>
        let k := BitVec.ofNat 32 (mask p.1)
        SMap.set resetWord p.1 ((p.2 &&& k) ||| (resetWord p.1 &&& ~~~k)) m) m) a = resetWord a from h [] rfl rfl
  induction ws with
  | nil => exact fun _ _ hm => hm
  | cons p t ih => exact fun m hwf hm => ih _ (wf_set hwf) (get_carryWord hmask hwf hm)

/-- R37, R14: a HARD reset sets the count of uncorrectable words to 0. -/
theorem hardReset_uncorrected {cause : Fld} {lockstep : Bool} {d : Device} :
    fld (hardReset cause lockstep d) W.BG_ECC_UNCORRECTED = 0 := by
  simp only [hardReset, setFlag]
  rw [fld_setFld_word (by decide), fld_setFld_word (by decide), fld, getW, hardDevice, get_keptWords (by decide)]
  decide

/-- R544: where Purlin runs, an uncorrectable word of the TCU's memory ends in a HARD reset. -/
theorem handleBad_tcu_uncorrected {word : Nat} {d : Device} (h : purlinRuns d = true) :
    fld (handleBad .tcu word d) W.BG_ECC_UNCORRECTED = 0 := by
  simp only [handleBad, h, if_true, watchdogReset, hardReset_uncorrected]

/-- A block in RUN, its boot over, once an uncorrectable word 0 of the TCU's memory has been counted and recorded. -/
def tcuWordRecorded : Device :=
  let d := setFld (setFld (addSat (bootOver .run) W.BG_ECC_UNCORRECTED 1) W.BG_ECC_LAST_MEM 0) W.BG_ECC_LAST_WORD 0
  gutter 0x06 0xFF 0 (getW d W.BG_ECC_LAST) d

/-- R544: a foreground read that finds the word counts and records it before the word is handled. -/
theorem scrub_tcu_run : opScrubAccess .tcu 0 .bad true false (bootOver .run) = handleBad .tcu 0 tcuWordRecorded := rfl

/-- Refutes O46 by its second clause: in a block in RUN a foreground read finds word 0 of the TCU's memory uncorrectable. The
word is counted, and the HARD reset that follows clears the count, which the clause states to be 1 afterwards. The clause lacks the
premise that the memory is not the TCU's. -/
theorem not_backgroundComplete : ¬ Obligations.BackgroundComplete := by
  intro h
  obtain ⟨-, hbad, -⟩ := h [] (bootOver .run) (by decide)
  obtain ⟨hcount, -⟩ := (hbad .tcu 0#24 .bad true false (by decide) (.inl rfl) rfl).post_of_exec
    (e := opScrubAccess .tcu 0 .bad true false (bootOver .run)) rfl
  rw [scrub_tcu_run, handleBad_tcu_uncorrected (by decide)] at hcount
  exact absurd hcount (by decide)

end Sys2Proof.Machine
end

section
/-! # A refused RAIL_ON with a FENCE_ALL of Purlin due (O15)

The clauses of `Obligations.RailCommandsComplete` that state an answer ask of a command of Purlin what the statement of O13 asks: that
its completion be the last one that Purlin was given, unless a FENCE of Purlin stands. The block `fenceAllDue` serves here as well,
and as there it is not claimed that a run comes to it. -/

namespace Sys2Proof.Machine

/-- The block after a RAIL_ON of Purlin in `fenceAllDue`; it names rail 0, which is not configured there. -/
def afterUnconfiguredRailOn : Device := runRow purlinReq 0x22 [0#32] [] opRailOn fenceAllDue

/-- R425: the first check of RAIL_ON fails. -/
theorem unconfiguredRailOn_refused :
    firstFail (railChecks (mkCmd purlinReq 0x22 [0#32] [] fenceAllDue) fenceAllDue ++
      [(!flag fenceAllDue W.SUP_STATUS_FAULT_LATCH 0, .deniedMode), (!turningOff fenceAllDue 0, .busy)]) =
      some .badParam := by decide

/-- R397, R404: the OK of the FENCE_ALL follows the BAD_PARAM of the RAIL_ON, which is not given last; no FENCE stands that would
excuse it. -/
theorem afterUnconfiguredRailOn_not_answered :
    answered purlinReq 0x22 .badParam 0#32 0#32 fenceAllDue afterUnconfiguredRailOn = false := by decide

/-- Refutes O15 by its third clause: Purlin sends a RAIL_ON of an unconfigured rail (BAD_PARAM) in the block `fenceAllDue`; the last
completion that Purlin is given is that of its FENCE_ALL, not the refusal. The clause lacks the premise that no FENCE_ALL of the
packet's core is in progress. -/
theorem not_railCommandsComplete : ¬ Obligations.RailCommandsComplete := by
  intro h
  obtain ⟨-, -, hrefused, -⟩ := h [] fenceAllDue fenceAllDue_canonical
  obtain ⟨hans, -⟩ := (hrefused purlinReq 0#32 0 .badParam fenceAllDue_engineOn rfl unconfiguredRailOn_refused).post_of_exec
    (e := afterUnconfiguredRailOn) rfl
  exact absurd (afterUnconfiguredRailOn_not_answered.symm.trans hans) Bool.false_ne_true

end Sys2Proof.Machine
end

section
/-! # A power-up without rails that leads back to BOOT (O16)

The clause on a T0 at which no rail is to rise asks that the device have left BOOT and RAMP. The ramp is complete at once, and where
it was going on backup energy HOLDUP follows it (R179); with INPUT_LOSS_CONT the descent begins in HOLDUP at once (R32), and with no
rail up it ends at once (R190) in the mode that DESC_NEXT names, which may be BOOT. -/

namespace Sys2Proof.Machine

/-- A block in RAMP after RETAIN, its T0 fixed and no rail configured, whose ramp goes on upon backup energy; the input loss is
now to lead to a descent, and a descent to BOOT. -/
def emptyRampOnBackup : Device :=
  let d := setFld (setFlag (bootOver .ramp) W.LNK_STATUS_DISCIPLINED true) W.SEQ_STATUS_SEQ_STATE 1
  let d := setFlag (setFlag d W.MODE_STATUS_HOLDUP_PENDING true) W.MODE_CTRL_INPUT_LOSS_CONT true
  let d := setFld d W.MODE_CTRL_DESC_NEXT 2
  { d with seq := { d.seq with t0 := some 0 } }

theorem emptyRampOnBackup_canonical : canonical emptyRampOnBackup = true := by decide

/-- No rail is to rise. -/
theorem emptyRampOnBackup_no_rail :
    (List.range 32).any (fun n => configured emptyRampOnBackup n && inSeq emptyRampOnBackup n && !(rail emptyRampOnBackup n).pg
      && !(rail emptyRampOnBackup n).enabled) = false := by decide

/-- R179, R32, R190: T0 leads through HOLDUP and DESCEND to BOOT. -/
theorem t0Reached_emptyRampOnBackup_mode : (opT0Reached emptyRampOnBackup).mode = .boot := by decide +kernel

/-- Refutes O16 by its second clause: in the block `emptyRampOnBackup` the device is in BOOT after T0. The clause lacks the premise
that the mode which the completed ramp leads to is not left at once. -/
theorem not_powerUpEventsComplete : ¬ Obligations.PowerUpEventsComplete := by
  intro h
  obtain ⟨-, hempty, -⟩ := h [] emptyRampOnBackup emptyRampOnBackup_canonical
  obtain ⟨hleft, -⟩ := (hempty 0 rfl (.inr (by decide)) (by decide) emptyRampOnBackup_no_rail rfl).post_of_exec
    (e := opT0Reached emptyRampOnBackup) rfl
  rw [inMode, t0Reached_emptyRampOnBackup_mode] at hleft
  exact absurd hleft (by decide)

end Sys2Proof.Machine
end

section
/-! # The count of brake events past 65535 (O18)

BRAKES of HC_BRAKE_CNT is a whole word that saturates at 0xFFFF_FFFF (04); the clause on a brake event states the count of an HC or
cluster rail as if it saturated at 65535. -/

namespace Sys2Proof.Machine

/-- 04: a brake event of an HC rail is counted, up to 0xFFFF_FFFF. -/
theorem opBrakeStart_hc_count {d : Device} {n : Nat} (hwords : wordsOk d.words = true) (hn : n < 4)
    (hen : brakeEn d n = true) (hon : (rail d n).enabled = true) (hph : (rail d n).ph ≠ .rampUp)
    (hfall : refFalling d n = false) (hbrake : braking d n = false) :
    fld (opBrakeStart n true d) W.HC_BRAKE_CNT_BRAKES n = min (fld d W.HC_BRAKE_CNT_BRAKES n + 1) 0xFFFFFFFF := by
  have hkind : railKind n = .hc := by simp [railKind, hn]
  have hother : fld (setBraking n true d) W.HC_BRAKE_CNT_BRAKES n = fld d W.HC_BRAKE_CNT_BRAKES n := by
    simp only [setBraking, hkind, setFlag]
    exact fld_setFld_word (by simp only [W.HC_BRAKE_CNT_BRAKES, W.HC_STATUS_BRAKING]; omega)
  have hwords' : wordsOk (setBraking n true d).words = true := by
    simp only [setBraking, hkind]
    exact wordsOk_setFld hwords
  simp only [opBrakeStart, hkind, hen, hon, hfall, hbrake, bne_iff_ne.mpr hph, Bool.not_false, Bool.and_true, if_true, addSat]
  rw [fld_setFld hwords' hn (by decide) (by decide), hother]
  exact Nat.mod_eq_of_lt (Nat.lt_of_le_of_lt (Nat.min_le_right _ _) (by decide))

/-- A block in RUN, rail 0 up and enabled to brake, with 65535 brake events counted of it. -/
def manyBrakes : Device :=
  let d := setFld (setFlag (bootOver .run) W.HC_BRAKE_BRAKE_EN true) W.HC_BRAKE_CNT_BRAKES 65535
  setRail d 0 { enabled := true }

theorem manyBrakes_canonical : canonical manyBrakes = true := by decide

/-- The next brake event is the 65536th that is counted. -/
theorem brakeStart_manyBrakes_count : fld (opBrakeStart 0 true manyBrakes) W.HC_BRAKE_CNT_BRAKES = 65536 := by
  rw [opBrakeStart_hc_count] <;> decide

/-- Refutes O18 by its clause for the start of a brake event: in the block `manyBrakes` the count of rail 0 goes on from 65535 to
65536, where the clause has it stand at 65535. The bound of the clause should be 0xFFFF_FFFF. -/
theorem not_regulatorEventsComplete : ¬ Obligations.RegulatorEventsComplete := by
  intro h
  obtain ⟨-, -, -, -, -, -, -, -, -, -, -, hbrake, -⟩ := h [] manyBrakes manyBrakes_canonical
  obtain ⟨-, hcount, -⟩ := (hbrake 0#5 true (by decide) (by decide) (by decide) (by decide) (by decide) rfl).post_of_exec
    (e := opBrakeStart 0 true manyBrakes) rfl
  exact absurd (brakeStart_manyBrakes_count.symm.trans (hcount (by decide))) (by decide)

end Sys2Proof.Machine
end

section
/-! # A spare drill whose completion entry a SOFT reset took (O20, O21)

R41: a command that has passed the gate before a SOFT reset takes its effect, but its completion entry is lost. A SPARE_DRILL that
waits for its conditions (R141) is such a command: the drill goes on after the reset, and how it ends is told to nobody. The clauses
of `Obligations.ClusterFailuresComplete` and `Obligations.RotationAndDrillsComplete` on the completion of a drill ask that an entry
enter Q12, and lack the premise that the command has not been lost. The blocks are ones that SPARE_DRILL, RESET_SOFT and the end of
the reset bring about, each by its row. -/

namespace Sys2Proof.Machine

/-- R397: where Q12 is the same after a command of a host queue that is not quiet, no completion entry answers it. -/
theorem reply_eq_false_of_ring_eq {c : Cmd} {st : Status} {w1 w2 : Word} {d e : Device} (hhost : srcIsHost c.src = true)
    (hquiet : c.quiet = false) (hring : ring e 12 = ring d 12) : reply c st w1 w2 d e = false := by
  have hnew : newEntries d e = [] := by rw [newEntries, hring, List.drop_length]
  simp [reply, hhost, hquiet, hnew, hasEntry]

/-- A tagged packet of Q2. -/
def hostReq : Req := { src := .host 2, tag := 0x2A5#12, quiet := false }

/-- A block in RUN, its boot over: phase 9 is the spare of cluster 1, and rail 11, the last one of that cluster, is as given. -/
def spareFor (r : Rail) : Device := setRail (setFld (bootOver .run) W.PH_CFG_ROLE 4 9) 11 r

/-- The host's SPARE_DRILL on rail 11 is accepted, and waits. -/
def drillAsked (r : Rail) : Device := runRow hostReq 0x30 [0x103#32] [] opSpareDrill (spareFor r)

/-- Purlin's RESET_SOFT follows, and its 200 microseconds pass. -/
def drillAfterReset (r : Rail) : Device := opSoftResetDone (runRow purlinReq 0x27 [0xA5A5#32] [] opResetSoft (drillAsked r))

/-- The SPARE_DRILL of `drillAsked` after the reset. -/
def lostDrill : Cmd := { mkCmd hostReq 0x30 [0x103#32] [] (spareFor {}) with lost := true }

/-! ### The handover of the drill fails (O20) -/

theorem exec_handoverFail (c : BitVec 1) (q : List Instr) (d : Device) :
    exec (.handoverFail c) { pending := q, dev := d } = .next { pending := q, dev := opHandoverFail c.toNat d } := rfl

/-- Rail 11 is power-good, and its reference has stood for less than the 100 microseconds of R141 when the drill is asked for, and for
more when the reset is over: the drill may begin now. -/
def drillDue : Device := drillAfterReset { enabled := true, pg := true }

theorem drillDue_canonical : canonical drillDue = true := by decide +kernel

theorem drillDue_issued : drillDue.eng.issued = [lostDrill] := by decide +kernel

theorem drillDue_mayBegin : drillMayBegin drillDue 1 = some 3 := by decide +kernel

theorem drillDue_spare : sparePhase drillDue 1 = some 9 := by decide +kernel

/-- R131, R142, R41: the drill finds no match and ends, and nothing enters Q12. -/
theorem handoverFail_drillDue_ring : ring (opHandoverFail 1 drillDue) 12 = ring drillDue 12 := by decide +kernel

/-- Refutes O20 by its clause for a drill's handover without a match whose SPARE_DRILL is in progress: in the block `drillDue` that
command was past the gate at the SOFT reset, and its HW_FAULT enters no ring, as R41 has it. -/
theorem not_clusterFailuresComplete : ¬ Obligations.ClusterFailuresComplete := by
  intro h
  obtain ⟨-, -, -, -, -, -, -, -, -, -, -, -, -, -, -, -, -, -, -, hdrill, -⟩ := h [] drillDue drillDue_canonical
  obtain ⟨-, -, -, -, -, hreply⟩ := (hdrill 1#1 3 9 lostDrill drillDue_mayBegin drillDue_spare drillDue_issued rfl
    (by decide)).post_of_exec (exec_handoverFail 1#1 [] drillDue)
  exact absurd ((reply_eq_false_of_ring_eq rfl rfl handoverFail_drillDue_ring).symm.trans hreply) Bool.false_ne_true

/-! ### The drill waits in vain (O21) -/

theorem exec_drillTimeout (c : BitVec 1) (q : List Instr) (d : Device) :
    exec (.drillTimeout c) { pending := q, dev := d } = .next { pending := q, dev := opDrillTimeout c.toNat d } := rfl

/-- Rail 11 is off: the conditions of the drill do not come to hold. -/
def drillInVain : Device := drillAfterReset {}

theorem drillInVain_canonical : canonical drillInVain = true := by decide +kernel

theorem drillInVain_issued : drillInVain.eng.issued = [lostDrill] := by decide +kernel

/-- The drill stands, neither its handover nor its hold begun. -/
theorem drillInVain_clus : clus drillInVain 1 = { drill := some 3 } := by decide +kernel

/-- R141, R41: the drill ends 50 ms after its acceptance, and nothing enters Q12. -/
theorem drillTimeout_drillInVain_ring : ring (opDrillTimeout 1 drillInVain) 12 = ring drillInVain 12 := by decide +kernel

/-- Refutes O21 by its clause for the timeout of a drill whose SPARE_DRILL is in progress: in the block `drillInVain` that command was
past the gate at the SOFT reset, and its TIMEOUT enters no ring, as R41 has it. -/
theorem not_rotationAndDrillsComplete : ¬ Obligations.RotationAndDrillsComplete := by
  intro h
  obtain ⟨-, -, -, -, -, -, -, -, -, -, -, -, -, -, htimeout, -⟩ := h [] drillInVain drillInVain_canonical
  obtain ⟨hreply, -⟩ := (htimeout 1#1 lostDrill (congrArg (·.drill.isSome) drillInVain_clus) (congrArg (·.ho) drillInVain_clus)
    (congrArg (·.holding) drillInVain_clus) drillInVain_issued rfl (by decide)).post_of_exec
    (exec_drillTimeout 1#1 [] drillInVain)
  exact absurd ((reply_eq_false_of_ring_eq rfl rfl drillTimeout_drillInVain_ring).symm.trans hreply) Bool.false_ne_true

end Sys2Proof.Machine
end

section
/-! # A SEQ_DOWN in a retry wait with a FENCE_ALL of Purlin due (O14, O59)

The clause on SEQ_DOWN during a retry wait, the same in `Obligations.SequencerCommandsComplete` and `Obligations.RetryWaitEnds`, asks of
a command of Purlin what the statement of O13 asks: that its completion be the last one that Purlin was given, unless a FENCE of
Purlin stands. With the FENCE_ALL of `fenceAllDue` in progress, R404 completes that one behind the SEQ_DOWN. As there, it is not claimed
that a run comes to such a block: the statements speak of every canonical one. -/

namespace Sys2Proof.Machine

/-- The block `fenceAllDue` in LATCHED, waiting for its retry (R197). -/
def fenceAllDueInRetryWait : Device := { fenceAllDue with mode := .latched, seq := { retryWait := true } }

theorem fenceAllDueInRetryWait_canonical : canonical fenceAllDueInRetryWait = true := by decide

theorem fenceAllDueInRetryWait_engineOn : engineOn fenceAllDueInRetryWait = true := by decide

/-- No FENCE of Purlin is in progress that would excuse a completion behind that of the SEQ_DOWN. -/
theorem fenceAllDueInRetryWait_no_fence :
    fenceAllDueInRetryWait.eng.issued.any (fun x => x.src == .purlin && x.op == 0x01) = false := by decide

/-- The block after Purlin's SEQ_DOWN, which cancels the retry (R199). -/
def afterRetryCancelled : Device := runRow purlinReq 0x21 [] [] opSeqDown fenceAllDueInRetryWait

/-- R404: the completion that Purlin is given last is the OK of its FENCE_ALL. -/
theorem purlinFenceAll_returned_last : returned purlinFenceAll .ok 0#32 0#32 afterRetryCancelled = true := by decide

/-- R397: hence the OK of the SEQ_DOWN is not given last; the two completions differ in the opcode of the header. -/
theorem purlinSeqDown_not_returned_last :
    returned (mkCmd purlinReq 0x21 [] [] fenceAllDueInRetryWait) .ok 0#32 0#32 afterRetryCancelled = false := by
  have hlast := purlinFenceAll_returned_last
  simp only [returned, beq_iff_eq] at hlast
  have hqueue : srcQueue (mkCmd purlinReq 0x21 [] [] fenceAllDueInRetryWait).src = srcQueue purlinFenceAll.src := rfl
  rw [returned, hqueue, hlast]
  decide

/-- A command of Purlin is answered by the last completion that Purlin was given, or a FENCE of Purlin excuses it. -/
theorem answered_purlinReq {op : Nat} {st : Status} {w1 w2 : Word} {d e : Device} :
    answered purlinReq op st w1 w2 d e = (returned (mkCmd purlinReq op [] [] d) st w1 w2 e
      || d.eng.issued.any (fun x => x.src == .purlin && x.op == 0x01)) := rfl

/-- The SEQ_DOWN of Purlin is not answered with OK as `answered` has it. -/
theorem afterRetryCancelled_not_answered :
    answered purlinReq 0x21 .ok 0#32 0#32 fenceAllDueInRetryWait afterRetryCancelled = false := by
  rw [answered_purlinReq, purlinSeqDown_not_returned_last, fenceAllDueInRetryWait_no_fence, Bool.or_false]

/-- Refutes O14 by its clause for SEQ_DOWN in a retry wait: Purlin sends it in the block `fenceAllDueInRetryWait`; the last completion
that Purlin is given is that of its FENCE_ALL, not the OK of the SEQ_DOWN. The clause lacks the premise that no FENCE_ALL of the
packet's core is in progress. -/
theorem not_sequencerCommandsComplete : ¬ Obligations.SequencerCommandsComplete := by
  intro h
  obtain ⟨-, -, -, -, -, -, -, -, -, hretry, -⟩ := h [] fenceAllDueInRetryWait fenceAllDueInRetryWait_canonical
  obtain ⟨-, -, hans⟩ := (hretry purlinReq fenceAllDueInRetryWait_engineOn (by decide) rfl rfl).post_of_exec
    (e := afterRetryCancelled) rfl
  exact absurd (afterRetryCancelled_not_answered.symm.trans hans) Bool.false_ne_true

/-- Refutes O59 by its first clause, which is that clause of O14. -/
theorem not_retryWaitEnds : ¬ Obligations.RetryWaitEnds := by
  intro h
  obtain ⟨hretry, -⟩ := h [] fenceAllDueInRetryWait fenceAllDueInRetryWait_canonical
  obtain ⟨-, -, hans⟩ := (hretry purlinReq fenceAllDueInRetryWait_engineOn (by decide) rfl rfl).post_of_exec
    (e := afterRetryCancelled) rfl
  exact absurd (afterRetryCancelled_not_answered.symm.trans hans) Bool.false_ne_true

end Sys2Proof.Machine
end

section
/-! # The end of hold-up with one enabled rail that has fallen (O24)

R186 has a rail fallen once it lies below its off-threshold, which may come before its reference has reached 0 (R115): until then the
rail is still enabled. A descent does not take such a rail in, and R190 ends a descent without rails at once, in the mode that
DESC_NEXT names. The clause of `Obligations.PackEventsComplete` on the end of hold-up asks for an enabled rail only, and states that the
descent is still under way. The block is one that RAIL_OFF and the fall of the rail bring about in HOLDUP, each by its row. -/

namespace Sys2Proof.Machine

/-- A block in HOLDUP with the gauge unanchored; rail 12, in no slot of the sequence, is the only one up. -/
def soleRailUp : Device :=
  setRstate 12 3 (setRail { bootOver .holdup with seq := { configured := 2 ^ 12 } } 12 { enabled := true, pg := true })

/-- Purlin's RAIL_OFF begins the soft stop of rail 12 (R200). -/
def soleRailStopping : Device := runRow purlinReq 0x23 [12#32] [] opRailOff soleRailUp

/-- Rail 12 has fallen (R186) before its reference has reached 0. -/
def soleRailFallen : Device := opRailFallen 12 (traceComp (5 * 12 + 2) true 400 soleRailStopping)

theorem exec_railFallen_soleRailStopping (q : List Instr) :
    exec (.railFallen 12#5) { pending := q, dev := soleRailStopping } = .next { pending := q, dev := soleRailFallen } := rfl

theorem soleRailFallen_canonical : canonical soleRailFallen = true := by decide +kernel

/-- Its regulator still runs, and its discharge has not failed: the premises of the clause on the rail. -/
theorem soleRailFallen_rail : (rail soleRailFallen (12 : Fin 32)).enabled = true
    ∧ (rail soleRailFallen (12 : Fin 32)).fallFail = false := by decide +kernel

/-- R240: hold-up is the device's own, and the gauge is unanchored. -/
theorem soleRailFallen_holdup : soleRailFallen.mode = .holdup ∧ fld soleRailFallen W.GAUGE_STATUS_ANCHOR = 0
    ∧ ridesLine soleRailFallen = false := by decide +kernel

theorem exec_unanchoredHoldupEnd (q : List Instr) (d : Device) :
    exec .unanchoredHoldupEnd { pending := q, dev := d } = .next { pending := q, dev := opUnanchoredEnd d } := rfl

/-- R190: the descent has no rail to wait for and has ended in DORMANT, which DESC_NEXT names. -/
theorem unanchoredEnd_soleRailFallen_mode : (opUnanchoredEnd soleRailFallen).mode = .dormant := by decide +kernel

/-- Refutes O24 by its clause for the end of hold-up with the gauge unanchored: in the block `soleRailFallen` the descent is over
within the row, and the mode is not DESCEND. The clause lacks the premise that the rail is up or ramping (`upOrRamping`). -/
theorem not_packEventsComplete : ¬ Obligations.PackEventsComplete := by
  intro h
  obtain ⟨-, -, -, -, -, -, -, -, -, -, -, -, -, -, hend, -⟩ := h [] soleRailFallen soleRailFallen_canonical
  obtain ⟨henabled, hfall⟩ := soleRailFallen_rail
  obtain ⟨hmode, hanchor, hline⟩ := soleRailFallen_holdup
  obtain ⟨hdescend, -⟩ := (hend 12 henabled hfall hmode hanchor hline).post_of_exec
    (exec_unanchoredHoldupEnd [] soleRailFallen)
  exact absurd (unanchoredEnd_soleRailFallen_mode.symm.trans hdescend) (by decide)

end Sys2Proof.Machine
end

section
/-! # A CHG_KICK with a FENCE_ALL of Purlin due (O25)

The clauses of `Obligations.ChargerCommandsComplete` that state an answer ask of a command of Purlin what the statement of O13 asks: that
its completion be the last one that Purlin was given, unless a FENCE of Purlin stands. The block `fenceAllDue` serves here as well, and
as there it is not claimed that a run comes to it. -/

namespace Sys2Proof.Machine

/-- R397: where the OK of the FENCE_ALL is the completion that Purlin was given last, a command of Purlin with another entry is not
answered, unless a FENCE of Purlin stands. -/
theorem not_answered_of_fenceAll_last {op : Nat} {st : Status} {w1 w2 : Word} {d e : Device}
    (hlast : returned purlinFenceAll .ok 0#32 0#32 e = true)
    (hfence : d.eng.issued.any (fun x => x.src == .purlin && x.op == 0x01) = false)
    (hentry : (completionWords purlinFenceAll .ok 0#32 0#32 0#32).take 3 ≠
      (completionWords (mkCmd purlinReq op [] [] d) st w1 w2 0#32).take 3) :
    answered purlinReq op st w1 w2 d e = false := by
  simp only [returned, beq_iff_eq] at hlast
  have hqueue : srcQueue (mkCmd purlinReq op [] [] d).src = srcQueue purlinFenceAll.src := rfl
  rw [answered_purlinReq, hfence, Bool.or_false, returned, hqueue, hlast, beq_eq_false_iff_ne]
  exact hentry

/-- The block after a CHG_KICK of Purlin in `fenceAllDue`. -/
def afterChgKick : Device := runRow purlinReq 0x40 [] [] opChgKick fenceAllDue

/-- R404: the completion that Purlin is given last is the OK of its FENCE_ALL. -/
theorem afterChgKick_fenceAll_last : returned purlinFenceAll .ok 0#32 0#32 afterChgKick = true := by decide

/-- R397: the answer of R433, OK with WD_PERIOD, is not given last: the two entries differ in the opcode of the header. -/
theorem afterChgKick_not_answered : answered purlinReq 0x40 .ok
    (BitVec.ofNat 32 (fld fenceAllDue W.CHG_WD_WD_PERIOD)) 0#32 fenceAllDue afterChgKick = false :=
  not_answered_of_fenceAll_last afterChgKick_fenceAll_last (by decide) (by decide)

/-- Refutes O25 by its first clause: Purlin sends a CHG_KICK in the block `fenceAllDue`; the last completion that Purlin is given is
that of its FENCE_ALL, not the OK of the CHG_KICK. The clause lacks the premise that no FENCE_ALL of the packet's core is in
progress. -/
theorem not_chargerCommandsComplete : ¬ Obligations.ChargerCommandsComplete := by
  intro h
  obtain ⟨hkick, -⟩ := h [] fenceAllDue fenceAllDue_canonical
  obtain ⟨-, -, -, hans, -⟩ := (hkick purlinReq fenceAllDue_engineOn (by decide)).post_of_exec (e := afterChgKick) rfl
  exact absurd (afterChgKick_not_answered.symm.trans hans) Bool.false_ne_true

end Sys2Proof.Machine
end

section
/-! # A ramp hold that ends where no rail is left to rise (O27, O28, O29)

The end of a ramp hold completes a power-up whose rails are all up (R183, R179). Where the ramp was going on upon backup energy, HOLDUP
follows it; with INPUT_LOSS_CONT the descent begins in HOLDUP at once (R32), and with no rail up it ends at once (R190) in the mode
that DESC_NEXT names. In STANDBY and DORMANT PD_LINK is off (R30), and the link's state goes with it. A frame start received, the
return of discipline and a FAULT heard by the holder can each end the hold, but the clauses on them state the link, or the mode, as
if the device stayed on the link. The blocks meet the premises of those clauses; it is not claimed that a run comes to them. -/

namespace Sys2Proof.Machine

/- The evaluation of a whole row nests deeper than the default allows. -/
set_option maxRecDepth 2000

/-- A participant in RAMP, in phase RAMP of the roof, held by a ramp hold of its own (R339) and joined to the link as given; no rail
is configured. The ramp is going on upon backup energy, and the input loss leads to a descent and on to STANDBY. -/
def heldRamp (link : LinkSt) : Device :=
  let d := setFlag (setFlag (bootOver .ramp) W.MODE_STATUS_HOLDUP_PENDING true) W.MODE_CTRL_INPUT_LOSS_CONT true
  let d := setFld (setFld d W.MODE_CTRL_DESC_NEXT 1) W.SEQ_STATUS_SEQ_STATE 3
  let d := setFld (setFld (setFlag d W.LNK_CTRL_LINK_EN true) W.ROOF_STATUS_PART 2) W.ROOF_STATUS_PHASE 2
  { d with seq := { d.seq with holdFrom := some 0 }, link := { link with ownHold := true, holds := 1 } }

/-! ### A frame start brings the time back (O27) -/

/-- A disciplined follower that knows FN. -/
def heldFollower : Device :=
  setFlag (setLink 4 (heldRamp { known := true })) W.LNK_STATUS_DISCIPLINED true

theorem heldFollower_canonical : canonical heldFollower = true := by decide

/-- The start of frame 0, received with no offset. -/
def heldFollowerAfterFrame : Device :=
  opFrameStartRx 0 0 false (traceEntry 6 2 (wordBytesLE 0#32) heldFollower)

theorem exec_frameStartRx_heldFollower (q : List Instr) :
    exec (.frameStartRx 0#64 0 false) { pending := q, dev := heldFollower } =
      .next { pending := q, dev := heldFollowerAfterFrame } := rfl

/-- R340, R30: the frame start ends the hold, the device goes on to STANDBY, and FN is no longer known. -/
theorem heldFollowerAfterFrame_known : heldFollowerAfterFrame.link.known = false := by decide

/-- Refutes O27 by its clause for a frame start received once FN is known: in the block `heldFollower` it leads to STANDBY, where the
link is off and FN is not known. The clause lacks the exception for a mode without the link that the clauses on slots make. -/
theorem not_framesAndSlotsComplete : ¬ Obligations.FramesAndSlotsComplete := by
  intro h
  obtain ⟨-, -, -, hframe, -⟩ := h [] heldFollower heldFollower_canonical
  obtain ⟨-, -, hknown, -⟩ := (hframe 0#64 0 false (by decide) (by decide) (by decide) (.inl rfl) (.inr rfl) rfl
    rfl).post_of_exec (exec_frameStartRx_heldFollower [])
  exact absurd (heldFollowerAfterFrame_known.symm.trans hknown) Bool.false_ne_true

/-! ### The device is disciplined again (O28) -/

/-- A device that has completed its placement and 16 frames since its acquisition (R308). -/
def heldJoiner : Device := setLink 3 (heldRamp { known := true, placed := 4, acq := some 0, fn := 16 })

theorem heldJoiner_canonical : canonical heldJoiner = true := by decide

theorem exec_disciplined (q : List Instr) (d : Device) :
    exec .disciplined { pending := q, dev := d } = .next { pending := q, dev := opDisciplined d } := rfl

/-- R308, R340, R30: discipline ends the hold, the device goes on to STANDBY, and discipline is lost with the link. -/
theorem disciplined_heldJoiner_flag : flag (opDisciplined heldJoiner) W.LNK_STATUS_DISCIPLINED = false := by decide

/-- Refutes O28 by its clause for a follower that becomes disciplined: in the block `heldJoiner` this leads to STANDBY within the row,
and DISCIPLINED reads 0 after it. The clause lacks the premise that no ramp hold ends with it. -/
theorem not_holdersAndErrorsComplete : ¬ Obligations.HoldersAndErrorsComplete := by
  intro h
  obtain ⟨-, -, hfollower, -⟩ := h [] heldJoiner heldJoiner_canonical
  obtain ⟨hflag, -⟩ := (hfollower 0 (by decide) (by decide) (by decide) (by decide) (by decide) rfl rfl
    (by decide)).post_of_exec (exec_disciplined [] heldJoiner)
  exact absurd (disciplined_heldJoiner_flag.symm.trans hflag) Bool.false_ne_true

/-! ### The holder hears a FAULT (O29) -/

/-- The holder of the roof. -/
def heldHolder : Device := setFlag (setLink 7 (heldRamp {})) W.LNK_STATUS_IS_HOLDER true

theorem heldHolder_canonical : canonical heldHolder = true := by decide

/-- A FAULT of address 1 is received, its break in symbol 0 of frame 0. -/
def heldHolderAfterFault : Device :=
  opUrgent { kind := 0, data := 32, fn := 0, sym := 0 } (traceUrgent 0 32 heldHolder)

theorem exec_fault_heldHolder (q : List Instr) :
    exec (.fault 32#8 0#32 0#8) { pending := q, dev := heldHolder } =
      .next { pending := q, dev := heldHolderAfterFault } := rfl

/-- R343, R340, R345: with the FAULT the roof's phase leaves RAMP, which ends the hold and leads to STANDBY before the FAULT is acted
on; from there no fault descent starts. -/
theorem heldHolderAfterFault_mode : heldHolderAfterFault.mode = .standby := by decide

/-- Refutes O29 by its clause for a FAULT that reaches a participant in RAMP to HOLDUP: in the block `heldHolder` the device is in
STANDBY after it, neither in DESCEND nor in LATCHED. The clause lacks the premise that no ramp hold is in force. -/
theorem not_urgentInsertionsComplete : ¬ Obligations.UrgentInsertionsComplete := by
  intro h
  obtain ⟨-, -, -, -, -, -, -, -, hfault, -⟩ := h [] heldHolder heldHolder_canonical
  obtain ⟨hmode, -⟩ := (hfault 32#8 0#32 0#8 (by decide) (by decide) (.inl (by decide)) rfl).post_of_exec
    (exec_fault_heldHolder [])
  rw [heldHolderAfterFault_mode] at hmode
  exact absurd hmode (by decide)

end Sys2Proof.Machine
end

section
/-! # A message that meets a full Q17 and takes the device off the link (O30, O32)

A slot's mode is acted on before its payload (R346): DESCEND of a required participant starts a descent here too, which with no rail
up ends at once (R190) in the mode that DESC_NEXT names. In STANDBY PD_LINK is off (R30), and Q17 is empty: the message that follows
finds room, and Q17_OVERFLOW (source 459) is not raised. Every clause of `Obligations.RoofAgreementComplete` and
`Obligations.ValleyMessagesComplete` on a message heard excepts a mode without the link from what it says of Q17, but not from what it
says of the event. -/

namespace Sys2Proof.Machine

/- The evaluation of a whole row nests deeper than the default allows. -/
set_option maxRecDepth 2000

/-- A participant in RUN that follows on the link, with 64 messages in Q17 and source 459 enabled; no rail is up, and a descent leads
to STANDBY. Address 1 is a required member and participates. -/
def fullQ17 : Device :=
  let d := setMaskBit (setFld (bootOver .run) W.MODE_CTRL_DESC_NEXT 1) W.EVT_EN_EN (459 % 32) true (459 / 32)
  let d := setFld (setLink 4 (setFlag d W.LNK_CTRL_LINK_EN true)) W.ROOF_STATUS_PART 2
  let d := setFld (setFld d W.ROOF_STATUS_REQUIRED 2) W.ROOF_MEMBERS_PARTICIPATING 2
  { d with link := { q17 := List.replicate 64 [] } }

theorem fullQ17_canonical : canonical fullQ17 = true := by decide

theorem fullQ17_length : ¬ fullQ17.link.q17.length < 64 := by decide

theorem fullQ17_listens : listens fullQ17 459 = true := by decide

/-- A source that can latch and does not show has not been raised. -/
theorem not_raised_of_not_shows {s : Nat} {d e : Device} (hlistens : listens d s = true) (hshows : shows e s = false) :
    raised s d e = false := by
  rw [raised, hlistens, hshows]
  rfl

/-! ### An announce (O30) -/

/-- A START of address 1 comes in a slot with mode DESCEND. -/
def fullQ17AfterStart : Device := opAnnounceStart 1 7 0#32 0#32 (traceWords 1 7 6 0#32 0#32 fullQ17)

theorem exec_announceStart_fullQ17 (q : List Instr) :
    exec (.announceStart 1#3 7#4 0#32 0#32) { pending := q, dev := fullQ17 } =
      .next { pending := q, dev := fullQ17AfterStart } := rfl

theorem fullQ17AfterStart_shows : shows fullQ17AfterStart 459 = false := by decide

/-- Refutes O30 by its first clause: in the block `fullQ17` a START of address 1, whose mode is DESCEND, leads to STANDBY and raises no
Q17_OVERFLOW, though Q17 was full. -/
theorem not_roofAgreementComplete : ¬ Obligations.RoofAgreementComplete := by
  intro h
  obtain ⟨hstart, -⟩ := h [] fullQ17 fullQ17_canonical
  obtain ⟨-, -, -, hroom⟩ := (hstart 1#3 7#4 0#32 0#32 (by decide) (by decide) (by decide)).post_of_exec
    (exec_announceStart_fullQ17 [])
  have hraised := hroom.resolve_left fullQ17_length
  exact absurd ((not_raised_of_not_shows fullQ17_listens fullQ17AfterStart_shows).symm.trans hraised) Bool.false_ne_true

/-! ### A valley message (O32) -/

/-- An OFFER of address 1 comes in a slot with mode DESCEND. -/
def fullQ17AfterOffer : Device := opOffer 1 7 0#32 0#32 (traceWords 1 7 8 0#32 0#32 fullQ17)

theorem exec_offer_fullQ17 (q : List Instr) :
    exec (.offer 1#3 7#4 0#32 0#32) { pending := q, dev := fullQ17 } =
      .next { pending := q, dev := fullQ17AfterOffer } := rfl

theorem fullQ17AfterOffer_shows : shows fullQ17AfterOffer 459 = false := by decide

/-- Refutes O32 by its first clause: in the block `fullQ17` an OFFER of address 1, whose mode is DESCEND, leads to STANDBY and raises no
Q17_OVERFLOW, though Q17 was full. -/
theorem not_valleyMessagesComplete : ¬ Obligations.ValleyMessagesComplete := by
  intro h
  obtain ⟨hoffer, -⟩ := h [] fullQ17 fullQ17_canonical
  obtain ⟨-, -, hroom⟩ := (hoffer 1#3 7#4 0#32 0#32 (by decide) (by decide) (by decide)).post_of_exec
    (exec_offer_fullQ17 [])
  have hraised := hroom.resolve_left fullQ17_length
  exact absurd ((not_raised_of_not_shows fullQ17_listens fullQ17AfterOffer_shows).symm.trans hraised) Bool.false_ne_true

end Sys2Proof.Machine
end

section
/-! # A VLY_REQUEST whose completion entry a SOFT reset took (O31)

R41, as for the spare drills of O20 and O21: a VLY_REQUEST that waits for its part (R434) has passed the gate; after a SOFT reset it
goes on, and its timeout is told to nobody. The clause of `Obligations.ValleyCommandsComplete` on the completion of one that runs out of
time lacks the premise that the command has not been lost. VLY_REQUEST, RESET_SOFT and the end of the reset bring the block about, each
by its row. -/

namespace Sys2Proof.Machine

/- The evaluation of a whole row nests deeper than the default allows. -/
set_option maxRecDepth 2000

/-- A block in RUN, its boot over, with Thatch ready and the valley line enabled and in the roof's floor. -/
def mayRequest : Device :=
  setFld (setFld (setFlag (bootOver .run) W.VLY_CFG_VLY_EN true) W.ROOF_FLOOR_FLOOR 1) W.TRUST_STATUS_THATCH_STATE 2

/-- The parameters of the request: no current, no energy, 10 ms to wait. -/
def requestParams : List Word := [0#32, 0x10000#32]

/-- The host's VLY_REQUEST to address 5 is accepted, and waits for an OFFER. -/
def requestWaits : Device := runRow hostReq 0x51 requestParams [5, 0xFF] opVlyRequest mayRequest

/-- Purlin's RESET_SOFT follows, and its 200 microseconds pass. -/
def requestLost : Device := opSoftResetDone (runRow purlinReq 0x27 [0xA5A5#32] [] opResetSoft requestWaits)

/-- The VLY_REQUEST of `requestWaits` after the reset. -/
def lostRequest : Cmd := { mkCmd hostReq 0x51 requestParams [5, 0xFF] mayRequest with lost := true }

theorem requestLost_canonical : canonical requestLost = true := by decide

theorem requestLost_issued : requestLost.eng.issued = [lostRequest] := by decide

theorem exec_vlyRequestTimeout (q : List Instr) (d : Device) :
    exec .vlyRequestTimeout { pending := q, dev := d } = .next { pending := q, dev := opVlyRequestTimeout d } := rfl

/-- R434, R41: the request runs out of time, and nothing enters Q12. -/
theorem vlyRequestTimeout_requestLost_ring : ring (opVlyRequestTimeout requestLost) 12 = ring requestLost 12 := by decide

/-- Refutes O31 by its clause for the timeout of the only VLY_REQUEST in progress: in the block `requestLost` that command was past
the gate at the SOFT reset, and its TIMEOUT enters no ring, as R41 has it. -/
theorem not_valleyCommandsComplete : ¬ Obligations.ValleyCommandsComplete := by
  intro h
  obtain ⟨-, -, -, -, -, -, -, -, -, -, -, -, -, htimeout, -⟩ := h [] requestLost requestLost_canonical
  have hreply := (htimeout lostRequest requestLost_issued ⟨rfl, rfl, rfl⟩).post_of_exec
    (exec_vlyRequestTimeout [] requestLost)
  exact absurd ((reply_eq_false_of_ring_eq rfl rfl vlyRequestTimeout_requestLost_ring).symm.trans hreply) Bool.false_ne_true

end Sys2Proof.Machine
end

section
/-! # A line gone low in HOLDUP with one enabled rail that has fallen (O33)

As in O24, R190 ends a descent at once where the only enabled rail has fallen already (R186) while its reference is still on the way
(R115). The clause of `Obligations.ValleySwitchComplete` on a SINK that rides on the line asks for an enabled rail only, and states that
the descent which the low line starts (R365) is still under way. The block is one that RAIL_OFF and the fall of the rail bring about in
HOLDUP, each by its row. -/

namespace Sys2Proof.Machine

/-- The block `soleRailUp` as a SINK without a pack, which rides on the line: its diode is closed, and the line is in the window. -/
def sinkRailUp : Device := setFlag (setSw 1 (setRole 2 soleRailUp)) W.VLY_STATUS_IN_WINDOW true

/-- Purlin's RAIL_OFF begins the soft stop of rail 12 (R200). -/
def sinkRailStopping : Device := runRow purlinReq 0x23 [12#32] [] opRailOff sinkRailUp

/-- Rail 12 has fallen (R186) before its reference has reached 0. -/
def sinkRailFallen : Device := opRailFallen 12 (traceComp (5 * 12 + 2) true 400 sinkRailStopping)

theorem exec_railOff_sinkRailUp (q : List Instr) :
    exec (.railOff purlinReq 12#32) { pending := q, dev := sinkRailUp } =
      .next { pending := q, dev := sinkRailStopping } := rfl

theorem exec_railFallen_sinkRailStopping (q : List Instr) :
    exec (.railFallen 12#5) { pending := q, dev := sinkRailStopping } = .next { pending := q, dev := sinkRailFallen } := rfl

theorem sinkRailFallen_canonical : canonical sinkRailFallen = true := by decide +kernel

/-- Its regulator still runs, and its discharge has not failed: the premises of the clause on the rail. -/
theorem sinkRailFallen_rail : (rail sinkRailFallen (12 : Fin 32)).enabled = true
    ∧ (rail sinkRailFallen (12 : Fin 32)).fallFail = false := by decide +kernel

/-- R365: in HOLDUP the device draws from the line alone. -/
theorem sinkRailFallen_ridesLine : sinkRailFallen.mode = .holdup ∧ ridesLine sinkRailFallen = true := by decide +kernel

theorem exec_sinkLineLow (q : List Instr) (d : Device) :
    exec .sinkLineLow { pending := q, dev := d } = .next { pending := q, dev := opSinkLineLow d } := rfl

/-- R190: the descent has no rail to wait for and has ended in DORMANT, which DESC_NEXT names. -/
theorem sinkLineLow_sinkRailFallen_mode : (opSinkLineLow sinkRailFallen).mode = .dormant := by decide +kernel

/-- Refutes O33 by its clause for a SINK that rides on a line gone low: in the block `sinkRailFallen` the descent is over within the
row, and the mode is not DESCEND. The clause lacks the premise that the rail is up or ramping (`upOrRamping`). -/
theorem not_valleySwitchComplete : ¬ Obligations.ValleySwitchComplete := by
  intro h
  obtain ⟨-, -, -, -, -, -, -, -, -, -, -, -, -, -, -, hlow, -⟩ := h [] sinkRailFallen sinkRailFallen_canonical
  obtain ⟨henabled, hfall⟩ := sinkRailFallen_rail
  obtain ⟨hmode, hrides⟩ := sinkRailFallen_ridesLine
  obtain ⟨hdescend, -⟩ := (hlow 12 hmode hrides henabled hfall).post_of_exec (exec_sinkLineLow [] sinkRailFallen)
  exact absurd (sinkLineLow_sinkRailFallen_mode.symm.trans hdescend) (by decide)

end Sys2Proof.Machine
end

section
/-! # A step and its command (O1, O3) -/

set_option Elab.async false

namespace Sys2Proof.Machine

/-- Settles O1: `step` is so defined. -/
theorem stepRunsTheFrontCommand : Obligations.StepRunsTheFrontCommand := fun _ _ => rfl

/-- Settles O3: every row answers a next state (`everyRow_keeps`), and none touches the queue of waiting commands. -/
theorem everyCommandAnswersANextState : Obligations.EveryCommandAnswersANextState := by
  intro i q d
  obtain ⟨m, u, e, he, -⟩ := everyRow_keeps i { pending := q, dev := d }
  exact ⟨e, he⟩

end Sys2Proof.Machine
end

section
/-! # Event entries write ring Q13 alone

R453, R454, R456: a source that latches reaches the engine only through its entry in Q13. `latchOne_cases` says once what a latch can
do; every row that raises a source uses it through `raise_q13Only`. -/

set_option Elab.async false

namespace Sys2Proof.Machine

/-- What an event entry can do to the engine: write ring Q13 at WR. Every other ring, the indices REL and RD of Q13, and the rest of
the engine stay. -/
structure Q13Only (a b : EngSt) : Prop where
  rest : b = { a with rings := b.rings }
  canon : SMap.wf (fun _ => ({} : Ring)) a.rings = true → SMap.wf (fun _ => ({} : Ring)) b.rings = true
  other : ∀ q, q ≠ 13 → SMap.get (fun _ => ({} : Ring)) b.rings q = SMap.get (fun _ => ({} : Ring)) a.rings q
  indices : SMap.wf (fun _ => ({} : Ring)) a.rings = true →
    (SMap.get (fun _ => ({} : Ring)) b.rings 13).rd = (SMap.get (fun _ => ({} : Ring)) a.rings 13).rd ∧
    (SMap.get (fun _ => ({} : Ring)) b.rings 13).rel = (SMap.get (fun _ => ({} : Ring)) a.rings 13).rel

theorem Q13Only.refl (a : EngSt) : Q13Only a a := ⟨rfl, id, fun _ _ => rfl, fun _ => ⟨rfl, rfl⟩⟩

theorem Q13Only.of_eq {a b : EngSt} (h : b = a) : Q13Only a b := h ▸ Q13Only.refl a

theorem Q13Only.trans {a b c : EngSt} (h : Q13Only a b) (k : Q13Only b c) : Q13Only a c where
  rest := by rw [k.rest, h.rest]
  canon := k.canon ∘ h.canon
  other q hq := (k.other q hq).trans (h.other q hq)
  indices hw := by
    obtain ⟨hrd, hrel⟩ := h.indices hw
    obtain ⟨krd, krel⟩ := k.indices (h.canon hw)
    exact ⟨krd.trans hrd, krel.trans hrel⟩

/-- A write of ring Q13 that keeps its indices. -/
theorem q13Only_setRing {d : Device} {r : Ring} (hrd : r.rd = (ring d 13).rd) (hrel : r.rel = (ring d 13).rel) :
    Q13Only d.eng (setRing d 13 r).eng where
  rest := rfl
  canon hw := wf_set hw
  other _ hq := get_set_ne hq
  indices hw := by
    have hget : SMap.get (fun _ => ({} : Ring)) (setRing d 13 r).eng.rings 13 = r := get_set_eq hw
    rw [hget]
    exact ⟨hrd, hrel⟩

/-! ### Counters -/

@[simp] theorem bumpOne_eng {n : Nat} {d : Device} {k : Nat} : (bumpOne n d k).eng = d.eng := by
  unfold bumpOne
  dsimp only
  split
  · rfl
  · exact setMaskBit_eng _ _ _ _ _

theorem bumpAll_eng {n : Nat} {ks : List Nat} {d : Device} : (ks.foldl (bumpOne n) d).eng = d.eng := by
  induction ks generalizing d with
  | nil => rfl
  | cons k t ih => rw [List.foldl_cons, ih, bumpOne_eng]

@[simp] theorem count_eng {code : Nat} {d : Device} {n : Nat} : (count code d n).eng = d.eng := by
  unfold count
  split
  · rfl
  · exact bumpAll_eng

/-! ### Deliveries (R454, R456) -/

theorem putEntry_q13Only {ws : List Word} {d : Device} : Q13Only d.eng (putEntry ws d).eng := q13Only_setRing rfl rfl

@[simp] theorem q13Lost_eng {d : Device} : (q13Lost d).eng = d.eng := by
  unfold q13Lost
  dsimp only
  split
  · exact count_eng
  · exact (setMaskBit_eng _ _ _ _ _).trans count_eng

theorem deliverOne_q13Only {fast : Bool} {d : Device} {s : Nat} : Q13Only d.eng (deliverOne fast d s).eng := by
  unfold deliverOne
  dsimp only
  have hentry : Q13Only d.eng
      (if 2 ≤ ringRoom d 13 then setSrcRec (count 0x34 (putEntry (q13Entry d fast s) d)) s {} else q13Lost d).eng := by
    split
    · rw [setSrcRec_eng, count_eng]
      exact putEntry_q13Only
    · exact .of_eq q13Lost_eng
  split <;> simpa only [setMaskBit_eng] using hentry

@[simp] theorem openDelivery_eng {fast : Bool} {d : Device} : (openDelivery fast d).eng = d.eng := by
  unfold openDelivery
  split
  · rfl
  · exact count_eng

theorem deliverAll_q13Only {fast : Bool} {ss : List Nat} {d : Device} : Q13Only d.eng (ss.foldl (deliverOne fast) d).eng := by
  induction ss generalizing d with
  | nil => exact .refl _
  | cons s t ih => exact deliverOne_q13Only.trans ih

theorem deliver_q13Only {fast : Bool} {ss : List Nat} {d : Device} : Q13Only d.eng (deliver fast ss d).eng := by
  unfold deliver
  split
  · exact .refl _
  · exact (Q13Only.of_eq openDelivery_eng).trans deliverAll_q13Only

theorem deliverGroup_q13Only {g : Nat} {d : Device} : Q13Only d.eng (deliverGroup g d).eng :=
  (Q13Only.of_eq (setGrpRec_eng _ _ _)).trans deliver_q13Only

/-! ### Latching (R453) -/

/-- Source `s` with LAT set and the record `r`. -/
def latched (s : Nat) (r : SrcRec) (d : Device) : Device := setMaskBit (setSrcRec d s r) W.EVT_LAT_LAT (s % 32) true (s / 32)

@[simp] theorem latched_eng {s : Nat} {r : SrcRec} {d : Device} : (latched s r d).eng = d.eng := setMaskBit_eng _ _ _ _ _

/-- A source that cannot latch (R451, R453, R466) is left alone; another takes LAT, and then stays so, or is delivered, or counts in
its group, which may reach its threshold. -/
theorem latchOne_cases (s : Nat) (resampled : Bool) (d : Device) :
    (listens d s = false ∧ latchOne s resampled d = d) ∨
    (listens d s = true ∧ ∃ r, latchOne s resampled d = latched s r d ∨
      (∃ fast, latchOne s resampled d = deliver fast [s] (latched s r d)) ∨
      (∃ g, latchOne s resampled d = setGrpRec (latched s r d) (s / 32) g) ∨
      ∃ g, latchOne s resampled d = count 0x32 (deliverGroup (s / 32) (setGrpRec (latched s r d) (s / 32) g))) := by
  unfold latchOne
  split
  case isTrue hoff =>
    refine .inl ⟨?_, rfl⟩
    simp only [Bool.or_eq_true, Bool.not_eq_true', decide_eq_true_eq] at hoff
    simp only [listens, Bool.and_eq_false_iff, decide_eq_false_iff_not, Nat.not_lt, Bool.not_eq_false']
    exact hoff
  case isFalse hon =>
    refine .inr ⟨?_, ?_⟩
    · simp only [Bool.or_eq_true, Bool.not_eq_true', decide_eq_true_eq, not_or, Nat.not_le, Bool.not_eq_false,
        Bool.not_eq_true] at hon
      simpa only [listens, Bool.and_eq_true, decide_eq_true_eq, Bool.not_eq_true'] using hon
    · extract_lets r was fast e d1 g d2
      split
      · split
        · exact ⟨_, .inl rfl⟩
        · exact ⟨_, .inr (.inl ⟨true, rfl⟩)⟩
      · split
        · exact ⟨_, .inr (.inl ⟨false, rfl⟩)⟩
        · split
          · exact ⟨_, .inr (.inr (.inr ⟨_, rfl⟩))⟩
          · exact ⟨_, .inr (.inr (.inl ⟨_, rfl⟩))⟩

theorem latchOne_q13Only {s : Nat} {resampled : Bool} {d : Device} : Q13Only d.eng (latchOne s resampled d).eng := by
  rcases latchOne_cases s resampled d with ⟨-, h⟩ | ⟨-, r, h | ⟨fast, h⟩ | ⟨g, h⟩ | ⟨g, h⟩⟩ <;> rw [h]
  · exact .refl _
  · exact .of_eq latched_eng
  · exact (Q13Only.of_eq latched_eng).trans deliver_q13Only
  · exact .of_eq ((setGrpRec_eng _ _ _).trans latched_eng)
  · rw [count_eng]
    exact (Q13Only.of_eq ((setGrpRec_eng _ _ _).trans latched_eng)).trans deliverGroup_q13Only

theorem settle_q13Only {n : Nat} {d : Device} : Q13Only d.eng (settle n d).eng := by
  induction n generalizing d with
  | zero => exact .refl _
  | succ n ih =>
    unfold settle
    split
    · exact .refl _
    next s t _ => exact (latchOne_q13Only (d := { d with ev := { d.ev with due := t } })).trans ih

theorem raise_q13Only {s : Nat} {d : Device} : Q13Only d.eng (raise s d).eng := latchOne_q13Only.trans settle_q13Only

end Sys2Proof.Machine
end

section
/-! # What shows goes on showing

R453, R454, R463: a latch sets LAT, a delivery moves LAT to PEND, and neither hides a source: `StillShows` says so of two blocks. A row
that raises a source with `listens` unchanged therefore has it `raised`, whatever else latches or is delivered behind it. -/

set_option Elab.async false

namespace Sys2Proof.Machine

/-- From `a` to `b` the store of words stays canonical, and no source that shows stops to. -/
structure StillShows (a b : Device) : Prop where
  canon : wordsOk a.words = true → wordsOk b.words = true
  shows : wordsOk a.words = true → ∀ s, s < 896 → shows a s = true → shows b s = true

theorem StillShows.refl (a : Device) : StillShows a a := ⟨id, fun _ _ _ h => h⟩

theorem StillShows.trans {a b c : Device} (h : StillShows a b) (k : StillShows b c) : StillShows a c where
  canon := k.canon ∘ h.canon
  shows hw s hs hshows := k.shows (h.canon hw) s hs (h.shows hw s hs hshows)

/-- The words from which `shows` reads. -/
def shownWords : List Nat := (List.range 28).flatMap (fun g => [W.EVT_LAT + g, W.EVT_PEND_N + g, W.EVT_PEND_F + g])

theorem mem_shownWords {g : Nat} (hg : g < 28) :
    W.EVT_LAT + g ∈ shownWords ∧ W.EVT_PEND_N + g ∈ shownWords ∧ W.EVT_PEND_F + g ∈ shownWords := by
  simp only [shownWords, List.mem_flatMap, List.mem_range]
  exact ⟨⟨g, hg, by simp⟩, ⟨g, hg, by simp⟩, ⟨g, hg, by simp⟩⟩

theorem shows_congr {a b : Device} (h : ∀ x ∈ shownWords, getW b x = getW a x) {s : Nat} (hs : s < 896) : shows b s = shows a s := by
  obtain ⟨hlat, hpendN, hpendF⟩ := mem_shownWords (show s / 32 < 28 by omega)
  simp only [shows, evLat, evPendN, evPendF, maskBit, h _ hlat, h _ hpendN, h _ hpendF]

/-- An operation that writes none of the words of LAT and PEND hides nothing. -/
theorem Keeps.stillShows {m w : Nat} {a b : Device} (h : Keeps m w a b) (hw : shownWords.all (fun x => !famTouch w x) = true) :
    StillShows a b where
  canon := h.canon
  shows _ s hs hshows := by
    rw [shows_congr (fun x hx => h.frame x ?_) hs]
    · exact hshows
    · simpa using List.all_eq_true.mp hw x hx

theorem StillShows.of_words {a b : Device} (h : b.words = a.words) : StillShows a b where
  canon hw := by rwa [h]
  shows _ s hs hshows := by
    rwa [shows_congr (a := a) (fun x _ => by simp only [getW, h]) hs]

/-! ### One bit of one word -/

theorem bitOf_putBit {w : Word} {n k : Nat} {b : Bool} (hk : k < 32) :
    bitOf (putBits w n n (if b then 1 else 0)) k = if k = n then b else bitOf w k := by
  rw [bitOf, putBits_bit hk]
  by_cases hkn : k = n
  · subst hkn
    cases b <;> simp
  · rw [if_neg (by omega), if_neg hkn, bitOf]

theorem wordsOk_setMaskBit {d : Device} {f : Fld} {n i : Nat} {b : Bool} (h : wordsOk d.words = true) :
    wordsOk (setMaskBit d f n b i).words = true := by
  unfold setMaskBit putWord
  split
  · exact wordsOk_setW h
  · exact h

/-- The bits of a word in which one bit of a table has been set or cleared. -/
theorem maskBit_setMaskBit {d : Device} {f : Fld} {n i a k : Nat} {b : Bool} (h : wordsOk d.words = true) (hk : k < 32) :
    maskBit (setMaskBit d f n b i) a k =
      if i < f.count ∧ a = f.base + f.stride * i ∧ k = n then b else maskBit d a k := by
  unfold setMaskBit putWord
  by_cases hi : i < f.count
  · rw [if_pos hi]
    by_cases ha : a = f.base + f.stride * i
    · rw [maskBit, ha, getW_setW_eq h, bitOf_putBit hk]
      simp [hi, maskBit]
    · rw [maskBit, getW_setW_ne ha]
      simp [ha, maskBit]
  · rw [if_neg hi, if_neg (by simp [hi])]

/-- The tables of LAT and PEND. -/
def isShownTable (f : Fld) : Prop := f = W.EVT_LAT_LAT ∨ f = W.EVT_PEND_N_PEND ∨ f = W.EVT_PEND_F_PEND

/-- Another source's bit of LAT or PEND changes nothing of what `s` shows. -/
theorem shows_setMaskBit_ne {d : Device} {f : Fld} {s t : Nat} {b : Bool} (hf : isShownTable f) (h : wordsOk d.words = true)
    (hs : s < 896) (hst : s ≠ t) : shows (setMaskBit d f (t % 32) b (t / 32)) s = shows d s := by
  have hsame : ∀ a, a = W.EVT_LAT ∨ a = W.EVT_PEND_N ∨ a = W.EVT_PEND_F →
      maskBit (setMaskBit d f (t % 32) b (t / 32)) (a + s / 32) (s % 32) = maskBit d (a + s / 32) (s % 32) := by
    intro a ha
    rw [maskBit_setMaskBit h (Nat.mod_lt _ (by decide)), if_neg]
    rcases hf with rfl | rfl | rfl <;>
      simp only [W.EVT_LAT, W.EVT_LAT_LAT, W.EVT_PEND_N, W.EVT_PEND_N_PEND, W.EVT_PEND_F, W.EVT_PEND_F_PEND] at * <;> omega
  simp only [shows, evLat, evPendN, evPendF, hsame W.EVT_LAT (.inl rfl), hsame W.EVT_PEND_N (.inr (.inl rfl)),
    hsame W.EVT_PEND_F (.inr (.inr rfl))]

/-- A source whose bit of LAT or PEND is set shows. -/
theorem shows_setMaskBit_true {d : Device} {f : Fld} {s : Nat} (hf : isShownTable f) (h : wordsOk d.words = true) (hs : s < 896) :
    shows (setMaskBit d f (s % 32) true (s / 32)) s = true := by
  have hset : ∀ a, a = f.base + f.stride * (s / 32) → maskBit (setMaskBit d f (s % 32) true (s / 32)) a (s % 32) = true := by
    rintro a rfl
    rw [maskBit_setMaskBit h (Nat.mod_lt _ (by decide)), if_pos]
    rcases hf with rfl | rfl | rfl <;> exact ⟨by show s / 32 < 28; omega, rfl, rfl⟩
  simp only [shows, evLat, evPendN, evPendF, Bool.or_eq_true]
  rcases hf with rfl | rfl | rfl
  · exact .inl (.inl (hset _ (by simp [W.EVT_LAT, W.EVT_LAT_LAT])))
  · exact .inl (.inr (hset _ (by simp [W.EVT_PEND_N, W.EVT_PEND_N_PEND])))
  · exact .inr (hset _ (by simp [W.EVT_PEND_F, W.EVT_PEND_F_PEND]))

theorem setMaskBit_true_stillShows {d : Device} {f : Fld} {t : Nat} (hf : isShownTable f) :
    StillShows d (setMaskBit d f (t % 32) true (t / 32)) where
  canon := wordsOk_setMaskBit
  shows h s hs hshows := by
    by_cases hst : s = t
    · rw [hst] at hs ⊢
      exact shows_setMaskBit_true hf h hs
    · rwa [shows_setMaskBit_ne hf h hs hst]

/-- R454: a source leaves LAT for PEND, and goes on showing. -/
theorem movedToPend_stillShows {d : Device} {f : Fld} {t : Nat} (hf : isShownTable f) :
    StillShows d (setMaskBit (setMaskBit d W.EVT_LAT_LAT (t % 32) false (t / 32)) f (t % 32) true (t / 32)) where
  canon h := wordsOk_setMaskBit (wordsOk_setMaskBit h)
  shows h s hs hshows := by
    have h1 : wordsOk (setMaskBit d W.EVT_LAT_LAT (t % 32) false (t / 32)).words = true := wordsOk_setMaskBit h
    by_cases hst : s = t
    · rw [hst] at hs ⊢
      exact shows_setMaskBit_true hf h1 hs
    · rwa [shows_setMaskBit_ne hf h1 hs hst, shows_setMaskBit_ne (.inl rfl) h hs hst]

/-! ### Latches and deliveries -/

theorem count_stillShows {code n : Nat} {d : Device} : StillShows d (count code d n) :=
  (count_keeps (Within.refl _) (Within.refl _) (Keeps.refl _ _ d)).stillShows (by decide +kernel)

theorem deliverOne_stillShows {fast : Bool} {d : Device} {t : Nat} : StillShows d (deliverOne fast d t) := by
  unfold deliverOne
  dsimp only
  have hentry : StillShows d
      (if 2 ≤ ringRoom d 13 then setSrcRec (count 0x34 (putEntry (q13Entry d fast t) d)) t {} else q13Lost d) := by
    split
    · have hput : StillShows d (putEntry (q13Entry d fast t) d) := .of_words rfl
      exact (hput.trans count_stillShows).trans (.of_words rfl)
    · exact (q13Lost_keeps (Within.refl _) (Within.refl _) (Keeps.refl _ _ d)).stillShows (by decide +kernel)
  split
  · exact hentry.trans (movedToPend_stillShows (.inr (.inr rfl)))
  · exact hentry.trans (movedToPend_stillShows (.inr (.inl rfl)))

theorem openDelivery_stillShows {fast : Bool} {d : Device} : StillShows d (openDelivery fast d) :=
  (openDelivery_keeps (Within.refl _) (Within.refl _) (Keeps.refl _ _ d)).stillShows (by decide +kernel)

theorem deliver_stillShows {fast : Bool} {ss : List Nat} {d : Device} : StillShows d (deliver fast ss d) := by
  have hall : ∀ (ss : List Nat) (e : Device), StillShows e (ss.foldl (deliverOne fast) e) := by
    intro ss
    induction ss with
    | nil => exact fun e => .refl e
    | cons t ts ih => exact fun e => deliverOne_stillShows.trans (ih _)
  unfold deliver
  split
  · exact .refl _
  · exact openDelivery_stillShows.trans (hall _ _)

theorem deliverGroup_stillShows {g : Nat} {d : Device} : StillShows d (deliverGroup g d) :=
  (StillShows.of_words (a := d) (b := setGrpRec d g { doneC := some d.cycles }) rfl).trans deliver_stillShows

/-- R453: what a source does once it has latched. -/
theorem afterLatch_stillShows {s : Nat} {resampled : Bool} {d : Device} {r : SrcRec}
    (h : latchOne s resampled d = latched s r d ∨ (∃ fast, latchOne s resampled d = deliver fast [s] (latched s r d)) ∨
      (∃ g, latchOne s resampled d = setGrpRec (latched s r d) (s / 32) g) ∨
      ∃ g, latchOne s resampled d = count 0x32 (deliverGroup (s / 32) (setGrpRec (latched s r d) (s / 32) g))) :
    StillShows (latched s r d) (latchOne s resampled d) := by
  rcases h with h | ⟨fast, h⟩ | ⟨g, h⟩ | ⟨g, h⟩ <;> rw [h]
  · exact .refl _
  · exact deliver_stillShows
  · exact .of_words rfl
  · have hcount : StillShows (latched s r d) (setGrpRec (latched s r d) (s / 32) g) := .of_words rfl
    exact (hcount.trans deliverGroup_stillShows).trans count_stillShows

theorem latched_stillShows {s : Nat} {r : SrcRec} {d : Device} : StillShows d (latched s r d) :=
  (StillShows.of_words (a := d) (b := setSrcRec d s r) rfl).trans (setMaskBit_true_stillShows (.inl rfl))

theorem latchOne_stillShows {s : Nat} {resampled : Bool} {d : Device} : StillShows d (latchOne s resampled d) := by
  rcases latchOne_cases s resampled d with ⟨-, h⟩ | ⟨-, r, h⟩
  · rw [h]
    exact .refl _
  · exact latched_stillShows.trans (afterLatch_stillShows h)

/-- R453: a source that can latch shows once it has. -/
theorem shows_latchOne {s : Nat} {resampled : Bool} {d : Device} (hw : wordsOk d.words = true) (hlistens : listens d s = true) :
    shows (latchOne s resampled d) s = true := by
  rcases latchOne_cases s resampled d with ⟨hdeaf, -⟩ | ⟨-, r, h⟩
  · exact absurd (hdeaf.symm.trans hlistens) Bool.false_ne_true
  · have hs : s < 896 := by
      simp only [listens, Bool.and_eq_true, decide_eq_true_eq] at hlistens
      exact hlistens.1.2
    have hw1 : wordsOk (setSrcRec d s r).words = true := hw
    exact (afterLatch_stillShows h).shows (latched_stillShows.canon hw) s hs (shows_setMaskBit_true (.inl rfl) hw1 hs)

theorem settle_stillShows {n : Nat} {d : Device} : StillShows d (settle n d) := by
  induction n generalizing d with
  | zero => exact .refl _
  | succ n ih =>
    unfold settle
    split
    · exact .refl _
    next t ts _ =>
      have hdue : StillShows d { d with ev := { d.ev with due := ts } } := .of_words rfl
      exact (hdue.trans latchOne_stillShows).trans ih

theorem raise_stillShows {s : Nat} {d : Device} : StillShows d (raise s d) := latchOne_stillShows.trans settle_stillShows

/-! ### A row that raises a source -/

theorem listens_lt {d : Device} {s : Nat} (h : listens d s = true) : s < 896 := by
  simp only [listens, Bool.and_eq_true, decide_eq_true_eq] at h
  exact h.1.2

/-- Whether a source can latch depends on its enable bit and on the mode. -/
theorem listens_congr {d e : Device} (hmode : e.mode = d.mode) (hwords : ∀ g, g < 28 → getW e (W.EVT_EN + g) = getW d (W.EVT_EN + g))
    (s : Nat) : listens e s = listens d s := by
  unfold listens
  by_cases hs : s < 896
  · have hmodes : inMode e [.dormant, .standby] = inMode d [.dormant, .standby] := by simp only [inMode, hmode]
    rw [evEn, evEn, maskBit, maskBit, hwords (s / 32) (by omega), hmodes]
  · simp [hs]

/-- R453: raised on the way from `d` to `e`, with enables and mode as `d` has them. -/
theorem raised_raise {s : Nat} {d e : Device} (hw : wordsOk e.words = true) (hlistens : listens e s = listens d s) :
    raised s d (raise s e) = true := by
  cases h : listens d s
  · simp [raised, h]
  · rw [raised, h, Bool.not_true, Bool.false_or]
    have hs := listens_lt h
    exact settle_stillShows.shows (latchOne_stillShows.canon hw) s hs (shows_latchOne hw (hlistens.trans h))

/-- What was raised stays so where what shows goes on showing. -/
theorem StillShows.raised {s : Nat} {d e f : Device} (h : StillShows e f) (hw : wordsOk e.words = true)
    (hraised : Machine.raised s d e = true) : Machine.raised s d f = true := by
  cases hl : listens d s
  · simp [Machine.raised, hl]
  · rw [Machine.raised, hl, Bool.not_true, Bool.false_or] at hraised ⊢
    exact h.shows hw s (listens_lt hl) hraised

end Sys2Proof.Machine
end

section
/-! # Rows, their frames, and what a raise leaves -/

set_option Elab.async false

namespace Sys2Proof.Machine

/-- A row completes whose frame `keeps_<row>` gives, with what is shown of the block after it. -/
theorem RowKeeps.completes {m u : Nat} {i : Instr} {q : List Instr} {d e : Device} {ps : List Part} {ts : List Nat}
    {post : Device → Prop} (hrow : RowKeeps m u i { pending := q, dev := d })
    (hexec : exec i { pending := q, dev := d } = .next { pending := q, dev := e })
    (hparts : allParts.all (fun p => ps.contains p || !m.testBit p.bit) = true) (h230 : u.testBit 230 = false)
    (htables : allFams.zipIdx.all (fun p => !u.testBit p.2 || ts.contains p.1.base) = true) (hpost : post e) :
    Completes i q d ps (some ts) post := by
  obtain ⟨x, hx, hkeeps⟩ := hrow.frame
  rw [hexec] at hx
  cases hx
  exact ⟨e, hexec, hkeeps.onlyParts hparts, hkeeps.onlyTables h230 htables, hpost⟩

theorem raise_self_keeps (s : Nat) (d : Device) :
    Keeps 3585 0x800000000040000000000002c0000000000000000000000000000000 d (raise s d) :=
  raise_keeps (Within.refl _) (Within.refl _) (Keeps.refl _ _ d)

/-- A raise leaves every word that is neither a source's nor a counter's. -/
theorem getW_raise {s a : Nat} {d : Device} (ha : famTouch 0x800000000040000000000002c0000000000000000000000000000000 a = false) :
    getW (raise s d) a = getW d a := (raise_self_keeps s d).frame a ha

theorem fld_raise {s i : Nat} {d : Device} {f : Fld}
    (ha : famTouch 0x800000000040000000000002c0000000000000000000000000000000 (f.base + f.stride * i) = false) :
    fld (raise s d) f i = fld d f i := by rw [fld, fld, getW_raise ha]

theorem flag_raise {s i : Nat} {d : Device} {f : Fld}
    (ha : famTouch 0x800000000040000000000002c0000000000000000000000000000000 (f.base + f.stride * i) = false) :
    flag (raise s d) f i = flag d f i := by rw [flag, flag, fld_raise ha]

/-! ### Fields of one word -/

theorem getW_setFld_ne {d : Device} {f : Fld} {v i a : Nat} (h : a ≠ f.base + f.stride * i) :
    getW (setFld d f v i) a = getW d a := by
  unfold setFld
  split
  · exact getW_setW_ne h
  · rfl

theorem fld_lt {d : Device} {f : Fld} {i : Nat} : fld d f i < 2 ^ (f.hi + 1 - f.lo) := Nat.mod_lt _ (Nat.two_pow_pos _)

/-- A flag reads what was written. -/
theorem flag_setFlag {d : Device} {f : Fld} {b : Bool} {i : Nat} (h : wordsOk d.words = true) (hi : i < f.count) (hlo : f.lo ≤ f.hi)
    (hhi : f.hi < 32) : flag (setFlag d f b i) f i = b := by
  have hpow : 2 ≤ 2 ^ (f.hi + 1 - f.lo) := Nat.le_self_pow (by omega) 2
  rw [flag, setFlag, fld_setFld h hi hlo hhi]
  cases b
  · simp
  · rw [if_pos rfl, Nat.mod_eq_of_lt (by omega)]
    rfl

/-- A flag of the same word reads as before. -/
theorem flag_setFld_ne {d : Device} {f g : Fld} {v i j : Nat} (h : wordsOk d.words = true)
    (hw : g.base + g.stride * j = f.base + f.stride * i) (hb : g.hi < f.lo ∨ f.hi < g.lo) :
    flag (setFld d f v i) g j = flag d g j := by rw [flag, flag, fld_setFld_ne h hw hb]

theorem fld_addSat {d : Device} {f : Fld} {n i : Nat} (h : wordsOk d.words = true) (hi : i < f.count) (hlo : f.lo ≤ f.hi)
    (hhi : f.hi < 32) : fld (addSat d f n i) f i = min (fld d f i + n) (Fld.top f) := by
  have htop : Fld.top f < 2 ^ (f.hi + 1 - f.lo) := Nat.sub_lt (Nat.two_pow_pos _) Nat.one_pos
  rw [addSat, fld_setFld h hi hlo hhi, Nat.mod_eq_of_lt (by omega)]

end Sys2Proof.Machine
end

section
/-! # Where a completion goes (O8)

R396, R397: `Posted` is what the entry of one completion does to the engine; beside it a completion only raises events, which write Q13. -/

set_option Elab.async false

namespace Sys2Proof.Machine

/-! ### The parts of the engine that a completion leaves -/

theorem Q13Only.issued {a b : EngSt} (h : Q13Only a b) : b.issued = a.issued := by rw [h.rest]

theorem Q13Only.queues {a b : EngSt} (h : Q13Only a b) : b.queues = a.queues := by rw [h.rest]

theorem Q13Only.fall {a b : EngSt} (h : Q13Only a b) : b.fall = a.fall := by rw [h.rest]

theorem Q13Only.coreDone {a b : EngSt} (h : Q13Only a b) : b.coreDone = a.coreDone := by rw [h.rest]

/-- `noteFull` notes the instant since which Q12 is full, and changes nothing else of the engine. -/
theorem noteFull_eng (d : Device) : ∃ from_ stalled, (noteFull d).eng = { d.eng with fullFrom := from_, stalled := stalled } := by
  unfold noteFull
  split
  · split <;> exact ⟨_, _, rfl⟩
  · exact ⟨_, _, rfl⟩

/-- `settleTag` changes the tag memories alone. -/
theorem settleTag_eng (c : Cmd) (st : Status) (w1 w2 w3 : Word) (d : Device) :
    ∃ tags, (settleTag c st w1 w2 w3 d).eng = { d.eng with tags := tags } := by
  unfold settleTag
  split
  · exact ⟨_, rfl⟩
  · exact ⟨_, rfl⟩

/-- R396: QUIET silences the completion of a host queue's packet. -/
def silent (c : Cmd) (st : Status) : Bool := c.quiet && (st == .ok || st == .okDuplicate)

/-- R397: where the entry of a completion goes. -/
theorem postEntry_eng (c : Cmd) (st : Status) (ws : List Word) (d : Device) : (postEntry c st ws d).eng =
    if srcIsHost c.src then (if silent c st then d.eng else (setRing d 12 ((ring d 12).push ws)).eng)
    else { d.eng with coreDone := SMap.set (fun _ => []) (srcQueue c.src) ws d.eng.coreDone } := by
  unfold postEntry silent
  split
  · split <;> exact count_eng
  · rfl

/-- The engine once command `c` has left the commands in progress and its entry has been posted. -/
structure Posted (c : Cmd) (st : Status) (ws : List Word) (a b : EngSt) : Prop where
  issued : b.issued = a.issued.filter (fun x => x.id != c.id)
  fall : b.fall = a.fall
  queues : b.queues = a.queues
  rings : b.rings = if srcIsHost c.src && !silent c st then
    SMap.set (fun _ => ({} : Ring)) 12 ((SMap.get (fun _ => ({} : Ring)) a.rings 12).push ws) a.rings else a.rings
  coreDone : b.coreDone = if srcIsHost c.src then a.coreDone else SMap.set (fun _ => []) (srcQueue c.src) ws a.coreDone

theorem posted {c : Cmd} {st : Status} {ws : List Word} {w1 w2 w3 : Word} {d e : Device}
    (he : e.eng = (settleTag c st w1 w2 w3
      { d with eng := { d.eng with issued := d.eng.issued.filter (fun x => x.id != c.id) } }).eng) :
    Posted c st ws d.eng (noteFull (postEntry c st ws e)).eng := by
  obtain ⟨t, ht⟩ := settleTag_eng c st w1 w2 w3
    { d with eng := { d.eng with issued := d.eng.issued.filter (fun x => x.id != c.id) } }
  obtain ⟨f, s, hn⟩ := noteFull_eng (postEntry c st ws e)
  rw [hn, postEntry_eng]
  rw [ht] at he
  cases hh : srcIsHost c.src <;> cases hq : silent c st <;>
    constructor <;> simp [hh, hq, setRing, ring, he]

/-- A completion whose entry is not lost posts it; beside that only the events that it raises touch the engine. -/
theorem completeOne_posted {c : Cmd} {d : Device} {cyc : Nat} {st : Status} {w1 w2 w3 : Word} (hlost : c.lost = false) :
    ∃ b, Posted c st (completionWords c st w1 w2 w3) d.eng b ∧ Q13Only b (completeOne c d cyc st w1 w2 w3).eng := by
  unfold completeOne
  rw [if_neg (by simp [hlost])]
  extract_lets _ _ _ _ d2 _ _ d3 d4 d5
  have h3 : d3.eng = d2.eng := by
    show (if _ then _ else d2 : Device).eng = _
    split <;> rfl
  have h5 : d5.eng = d4.eng := by
    show (if _ then _ else if _ then _ else d4 : Device).eng = _
    split
    · exact count_eng
    · split
      · exact count_eng
      · rfl
  refine ⟨d4.eng, posted (w1 := w1) (w2 := w2) (w3 := w3) h3, ?_⟩
  exact (Q13Only.of_eq (count_eng.trans h5)).trans settle_q13Only

/-- A completion takes its command out of those in progress, and leaves the queues and the FENCE_ALL in force. -/
theorem completeOne_eng {c : Cmd} {d : Device} {cyc : Nat} {st : Status} {w1 w2 w3 : Word} :
    (completeOne c d cyc st w1 w2 w3).eng.issued = d.eng.issued.filter (fun x => x.id != c.id) ∧
    (completeOne c d cyc st w1 w2 w3).eng.queues = d.eng.queues ∧ (completeOne c d cyc st w1 w2 w3).eng.fall = d.eng.fall := by
  cases hlost : c.lost with
  | false =>
    obtain ⟨b, hb, hq⟩ := completeOne_posted (d := d) (cyc := cyc) (st := st) (w1 := w1) (w2 := w2) (w3 := w3) hlost
    rw [hq.issued, hb.issued, hq.queues, hb.queues, hq.fall, hb.fall]
    exact ⟨rfl, rfl, rfl⟩
  | true =>
    unfold completeOne
    rw [if_pos hlost]
    obtain ⟨f, s, hn⟩ := noteFull_eng { d with eng := { d.eng with issued := d.eng.issued.filter (fun x => x.id != c.id) } }
    rw [hn]
    exact ⟨rfl, rfl, rfl⟩

theorem completeOne_issued {c : Cmd} {d : Device} {cyc : Nat} {st : Status} {w1 w2 w3 : Word} :
    (completeOne c d cyc st w1 w2 w3).eng.issued = d.eng.issued.filter (fun x => x.id != c.id) := completeOne_eng.1

/-- R403, R404: where no fence is in progress, none completes. -/
theorem settleFences_of_no_fence {n cyc : Nat} {d : Device}
    (h : d.eng.issued.any (fun x => x.op == 0x01 || x.op == 0x02) = false) : settleFences n cyc d = d := by
  cases n with
  | zero => rfl
  | succ n =>
    have hfind : d.eng.issued.find? (fenceDone d) = none := by
      rw [List.find?_eq_none]
      intro x hx hdone
      have hop := List.any_eq_false.mp h x hx
      simp only [Bool.or_eq_true, not_or, Bool.not_eq_true] at hop
      simp [fenceDone, hop.1, hop.2] at hdone
    simp only [settleFences, hfind]

/-- Without a fence in progress a completion is that of its command alone. -/
theorem complete_of_no_fence {c : Cmd} {d : Device} {cyc : Nat} {st : Status} {w1 w2 : Word}
    (h : d.eng.issued.any (fun x => x.op == 0x01 || x.op == 0x02) = false) :
    complete c d cyc st w1 w2 = completeOne c d cyc st w1 w2 (lowW (d.roofTime + cyc)) := by
  refine settleFences_of_no_fence ?_
  rw [completeOne_issued, List.any_eq_false]
  exact fun x hx => List.any_eq_false.mp h x (List.mem_filter.mp hx).1

/-- Settles O8: `complete_of_no_fence` leaves the one entry, and `Posted` says where it goes. -/
theorem completionEntries : Obligations.CompletionEntries := by
  intro c d cyc st w1 w2 hcanon hlost hfence
  rw [complete_of_no_fence hfence]
  obtain ⟨b, hb, hq⟩ := completeOne_posted (d := d) (cyc := cyc) (st := st) (w1 := w1) (w2 := w2)
    (w3 := lowW (d.roofTime + cyc)) hlost
  obtain ⟨hrings, hcore⟩ : SMap.wf (fun _ => ({} : Ring)) d.eng.rings = true ∧ SMap.wf (fun _ => []) d.eng.coreDone = true := by
    have hok := (canonical_iff.mp hcanon).2.eng
    simp only [engOk, Bool.and_eq_true] at hok
    exact ⟨hok.1.1.2, hok.2⟩
  have hring : ring (completeOne c d cyc st w1 w2 (lowW (d.roofTime + cyc))) 12 = SMap.get (fun _ => ({} : Ring)) b.rings 12 :=
    hq.other 12 (by decide)
  rw [hring, hb.rings, completeOne_issued, hq.coreDone, hb.coreDone]
  refine ⟨rfl, fun hhost hquiet => ?_, fun hhost hquiet => ?_, fun hcoreSrc => ⟨?_, ?_⟩⟩
  · rw [hhost, silent, hquiet]
    rfl
  · rw [hhost, silent, hquiet]
    simp only [Bool.not_false, Bool.and_self, if_true, get_set_eq hrings]
    exact ⟨rfl, rfl⟩
  · rw [hcoreSrc]
    rfl
  · rw [hcoreSrc]
    exact get_set_eq hcore

end Sys2Proof.Machine
end

section
/-! # A packet that issues frees its words (O60)

R391: the head leaves its queue, and nothing else of the row touches a queue: a completion, a fence, the tag memories, the round. -/

set_option Elab.async false

namespace Sys2Proof.Machine

/-! ### What leaves the queues alone -/

theorem completeOne_queues {c : Cmd} {d : Device} {cyc : Nat} {st : Status} {w1 w2 w3 : Word} :
    (completeOne c d cyc st w1 w2 w3).eng.queues = d.eng.queues := completeOne_eng.2.1

theorem settleFences_queues {n cyc : Nat} {d : Device} : (settleFences n cyc d).eng.queues = d.eng.queues := by
  induction n generalizing d with
  | zero => rfl
  | succ n ih =>
    unfold settleFences
    split
    · rfl
    · rw [ih, completeOne_queues]
      split <;> rfl

theorem completeWith_queues {c : Cmd} {d : Device} {cyc : Nat} {st : Status} {w1 w2 w3 : Word} :
    (completeWith c d cyc st w1 w2 w3).eng.queues = d.eng.queues := settleFences_queues.trans completeOne_queues

theorem complete_queues {c : Cmd} {d : Device} {cyc : Nat} {st : Status} {w1 w2 : Word} :
    (complete c d cyc st w1 w2).eng.queues = d.eng.queues := completeWith_queues

theorem noteFull_queues {d : Device} : (noteFull d).eng.queues = d.eng.queues := by
  obtain ⟨f, s, hn⟩ := noteFull_eng d
  rw [hn]

theorem opFence_queues {c : Cmd} {d : Device} : (opFence c d).eng.queues = d.eng.queues := settleFences_queues

theorem opFenceAll_queues {c : Cmd} {d : Device} : (opFenceAll c d).eng.queues = d.eng.queues := by
  unfold opFenceAll
  split
  · exact complete_queues
  · split
    · exact complete_queues
    · exact settleFences_queues

theorem recordTag_queues {c : Cmd} {d : Device} : (recordTag c d).eng.queues = d.eng.queues := by
  unfold recordTag
  split <;> rfl

/-- A packet judged against its tag memory leaves the queues to what it runs. -/
theorem judgeTag_queues {c : Cmd} {d : Device} {k : Device → Device} (hk : ∀ e, (k e).eng.queues = e.eng.queues) :
    (judgeTag c d k).eng.queues = d.eng.queues := by
  unfold judgeTag
  split
  · exact hk d
  · split
    · rw [hk, recordTag_queues]
    · dsimp only
      split <;> rw [raise_q13Only.queues]
      · rw [completeWith_queues, count_eng, addSat, setFld_eng]
      · rw [complete_queues, count_eng, addSat, setFld_eng]

theorem numbered_eng (q : Nat) (d : Device) : (numbered q d).2.eng = d.eng := by
  unfold numbered
  split <;> rfl

theorem issueHead_queues {q : Nat} {p : QPkt} {d : Device} :
    (issueHead q p d).eng.queues = (setQueue d q ((queue d q).drop 1)).eng.queues := by
  unfold issueHead
  extract_lets _ d1 idx d2 _ d3 c d4 _ d5
  have h5 : d5.eng.queues = (setQueue d q ((queue d q).drop 1)).eng.queues := by
    show d4.eng.queues = _
    have h4 : d4.eng = d3.eng := by
      show (if _ then drawn d3 else d3).eng = _
      split <;> rfl
    rw [h4]
    show (numbered q d2).2.eng.queues = _
    rw [numbered_eng]
    show (count 0x0E (count idx d1)).eng.queues = _
    rw [count_eng, count_eng]
    rfl
  rw [settle_q13Only.queues, ← h5]
  split
  · rw [complete_queues, noteFull_queues]
  · refine judgeTag_queues (fun e => ?_)
    split
    · exact opFence_queues
    · split
      · exact opFenceAll_queues
      · exact noteFull_queues

theorem chooseQueue_queues {pick k : Nat} {d e : Device} (h : chooseQueue pick d = some (k, e)) : e.eng.queues = d.eng.queues := by
  unfold chooseQueue at h
  split at h
  · cases h; rfl
  · split at h
    · cases h; rfl
    · split at h
      · cases h; rfl
      · dsimp only at h
        split at h
        · cases h
          dsimp only
          split <;> rfl
        · split at h
          · cases h; rfl
          · cases h

theorem endRound_queues {d : Device} : (endRound d).eng.queues = d.eng.queues := by
  unfold endRound
  split <;> rfl

/-! ### The head leaves -/

theorem headOf_congr {d e : Device} (h : e.eng.queues = d.eng.queues) (k : Nat) : headOf e k = headOf d k := by
  simp only [headOf, queue, h]

theorem queue_of_headOf {d : Device} {k : Nat} {p : QPkt} (h : headOf d k = some p) : queue d k = p :: (queue d k).drop 1 := by
  unfold headOf at h
  split at h
  next p' t hq =>
    split at h
    · cases h
    · cases h
      rw [hq]
      rfl
  next => cases h

theorem wf_queues {d : Device} (h : canonical d = true) : SMap.wf (fun _ => ([] : List QPkt)) d.eng.queues = true := by
  have hok := (canonical_iff.mp h).2.eng
  simp only [engOk, Bool.and_eq_true] at hok
  exact hok.1.1.1.1

/-- R398: the queue that issues is left with what stood behind its head. -/
theorem queue_issueOne {pick k : Nat} {p : QPkt} {d : Device} (hcanon : canonical d = true) (hon : engineOn d = true)
    (hchoice : (chooseQueue pick d).map (fun r => r.1) = some k) (hhead : headOf d k = some p) :
    queue (issueOne pick d) k = (queue d k).drop 1 := by
  obtain ⟨⟨k', e⟩, hchosen, rfl⟩ := Option.map_eq_some_iff.mp hchoice
  have hqueues := chooseQueue_queues hchosen
  have hsame : queue e k' = queue d k' := by simp only [queue, hqueues]
  have hissue : issueOne pick d = endRound (issueHead k' p e) := by
    simp [issueOne, hon, hchosen, headOf_congr hqueues, hhead]
  rw [hissue, queue, endRound_queues, issueHead_queues]
  show SMap.get _ (SMap.set _ k' ((queue e k').drop 1) e.eng.queues) k' = _
  rw [hqueues, get_set_eq (wf_queues hcanon), hsame]

theorem sizeOf_eq (ps : List QPkt) : sizeOf ps = (ps.map QPkt.size).sum := by
  have h : ∀ (ps : List QPkt) (n : Nat), ps.foldl (fun n p => n + p.size) n = n + (ps.map QPkt.size).sum := by
    intro ps
    induction ps with
    | nil => exact fun n => rfl
    | cons p t ih =>
      intro n
      rw [List.foldl_cons, ih, List.map_cons, List.sum_cons, Nat.add_assoc]
  rw [sizeOf, h, Nat.zero_add]

theorem sizeOf_cons (p : QPkt) (t : List QPkt) : sizeOf (p :: t) = 1 + p.params.length + sizeOf t := by
  rw [sizeOf_eq, List.map_cons, List.sum_cons, ← sizeOf_eq, QPkt.size]

/-- Settles O60: the queue loses its head (`queue_issueOne`), and the row passes no time. -/
theorem issueFreesQueueSpace : Obligations.IssueFreesQueueSpace := by
  intro q d hcanon pick k p hon hchoice hhead hsize
  obtain ⟨e, hexec, hkeeps⟩ := (keeps_packetIssue pick { pending := q, dev := d }).frame
  have he : e = issueOne pick d := by
    have hrun : exec (.packetIssue pick) { pending := q, dev := d } = .next { pending := q, dev := issueOne pick d } := rfl
    rw [hrun] at hexec
    cases hexec
    rfl
  refine ⟨e, hexec, hkeeps.onlyParts (by decide), hkeeps.onlyTables (by decide) (by decide +kernel), ?_,
    hkeeps.roofTime.resolve_right (by decide), hkeeps.cycles.resolve_right (by decide)⟩
  have hqueue := queue_issueOne hcanon hon hchoice hhead
  have hwords : sizeOf (queue d k) = 1 + p.params.length + sizeOf ((queue d k).drop 1) :=
    (congrArg sizeOf (queue_of_headOf hhead)).trans (sizeOf_cons p _)
  rw [freeWords, freeWords, he, hqueue]
  omega

end Sys2Proof.Machine
end

section
/-! # The SPI port (O12)

R382: a transaction is accepted or rejected as a whole. Of the engine both change what they tell the host and, through the events they
raise, ring Q13 at WR (`Q13Only`); what a push, a pop, a doorbell or a write of RD changes beside is said by the lemmas below. -/

set_option Elab.async false

namespace Sys2Proof.Machine

/-! ### The rows and their frames -/

theorem completes_hostPageRead {tx : Spi} {q : List Instr} {d : Device} {post : Device → Prop}
    (h : post (if portOn d then opHostRead tx d else d)) :
    Completes (.hostPageRead tx) q d common (eventsWith [W.ENG_SPI_CNT]) post :=
  (keeps_hostPageRead tx _).completes rfl (by decide) (by decide) (by decide +kernel) h

theorem completes_hostPageWrite {tx : Spi} {q : List Instr} {d : Device} {post : Device → Prop}
    (h : post (if portOn d then opHostWrite tx d else d)) :
    Completes (.hostPageWrite tx) q d (commonWith [.log]) (eventsWith [W.ENG_SPI_CNT, W.HP_SQ_MODE]) post :=
  (keeps_hostPageWrite tx _).completes rfl (by decide) (by decide) (by decide +kernel) h

theorem completes_push {tx : Spi} {q : List Instr} {d : Device} {post : Device → Prop}
    (h : post (if portOn d then opPush tx d else d)) :
    Completes (.push tx) q d (commonWith [.log]) (eventsWith [W.ENG_SPI_CNT]) post :=
  (keeps_push tx _).completes rfl (by decide) (by decide) (by decide +kernel) h

theorem completes_pop {tx : Spi} {q : List Instr} {d : Device} {post : Device → Prop}
    (h : post (if portOn d then opPop tx d else d)) :
    Completes (.pop tx) q d common (eventsWith [W.ENG_SPI_CNT]) post :=
  (keeps_pop tx _).completes rfl (by decide) (by decide) (by decide +kernel) h

theorem completes_hpDoorbell {v : Word} {q : List Instr} {d : Device} {post : Device → Prop}
    (h : post (if portOn d then opDoorbell v (traceWrite 2 v d) else d)) :
    Completes (.hpDoorbell v) q d [.eng, .log] (some []) post :=
  (keeps_hpDoorbell v _).completes rfl (by decide) (by decide) (by decide +kernel) h

theorem completes_hpSqMode {v : Word} {q : List Instr} {d : Device} {post : Device → Prop}
    (h : post (if portOn d then opSqMode v (traceWrite 3 v d) else d)) :
    Completes (.hpSqMode v) q d [.words, .eng, .log] (some [W.HP_SQ_MODE]) post :=
  (keeps_hpSqMode v _).completes rfl (by decide) (by decide) (by decide +kernel) h

/-- R394: a write of RD, where the ring may take it. -/
def writeRd (r : BitVec 2) (v : Word) (d : Device) : Device :=
  if rdOk d (12 + r.toNat) (bitsOf v 15 0) then putRd (12 + r.toNat) (bitsOf v 15 0) (traceWrite (20 + r.toNat) v d) else d

theorem completes_rngPtr {r : BitVec 2} {v : Word} {q : List Instr} {d : Device} {post : Device → Prop}
    (h : post (if portOn d then writeRd r v d else d)) : Completes (.rngPtr r v) q d [.eng, .log] (some []) post :=
  (keeps_rngPtr r v _).completes rfl (by decide) (by decide) (by decide +kernel) h

/-! ### Rings and the trace -/

theorem wf_rings {d : Device} (h : canonical d = true) : SMap.wf (fun _ => ({} : Ring)) d.eng.rings = true := by
  have hok := (canonical_iff.mp h).2.eng
  simp only [engOk, Bool.and_eq_true] at hok
  exact hok.1.1.2

/-- RD and REL of every ring stay. -/
theorem Q13Only.pointers {a b : EngSt} (h : Q13Only a b) (hw : SMap.wf (fun _ => ({} : Ring)) a.rings = true) (k : Nat) :
    (SMap.get (fun _ => ({} : Ring)) b.rings k).rd = (SMap.get (fun _ => ({} : Ring)) a.rings k).rd ∧
    (SMap.get (fun _ => ({} : Ring)) b.rings k).rel = (SMap.get (fun _ => ({} : Ring)) a.rings k).rel := by
  by_cases hk : k = 13
  · rw [hk]
    exact h.indices hw
  · rw [h.other k hk]
    exact ⟨rfl, rfl⟩

theorem traceEntry_self_keeps (kind sub : Nat) (ps : List Nat) (d : Device) : Keeps 2097152 0 d (traceEntry kind sub ps d) :=
  traceEntry_keeps (Within.refl _) (Within.refl _) (Keeps.refl _ _ d)

@[simp] theorem traceEntry_eng (kind sub : Nat) (ps : List Nat) (d : Device) : (traceEntry kind sub ps d).eng = d.eng :=
  (traceEntry_self_keeps kind sub ps d).eng.resolve_right (by decide)

@[simp] theorem traceEntry_words (kind sub : Nat) (ps : List Nat) (d : Device) : (traceEntry kind sub ps d).words = d.words :=
  (traceEntry_self_keeps kind sub ps d).words.resolve_right (by decide)

@[simp] theorem traceWrite_eng (w : Nat) (v : Word) (d : Device) : (traceWrite w v d).eng = d.eng := traceEntry_eng ..

@[simp] theorem traceWrite_words (w : Nat) (v : Word) (d : Device) : (traceWrite w v d).words = d.words := traceEntry_words ..

/-! ### Accepted and rejected (R382, R384) -/

/-- What an accepted transaction tells. -/
def accepted (out : List Word) (a : EngSt) : EngSt :=
  { a with accCount := (a.accCount + 1) % 256, accepted := true, err := 0, spiOut := out }

theorem spiAccept_q13Only {out : List Word} {d : Device} : Q13Only (accepted out d.eng) (spiAccept out d).eng :=
  (Q13Only.of_eq (count_eng (d := { d with eng := accepted out d.eng }))).trans settle_q13Only

theorem spiAccept_tells {out : List Word} {d : Device} :
    (spiAccept out d).eng.accepted = true ∧ (spiAccept out d).eng.accCount = (d.eng.accCount + 1) % 256 ∧
    (spiAccept out d).eng.spiOut = out := by
  rw [(spiAccept_q13Only (out := out) (d := d)).rest]
  exact ⟨rfl, rfl, rfl⟩

theorem spiAccept_queues {out : List Word} {d : Device} : (spiAccept out d).eng.queues = d.eng.queues :=
  spiAccept_q13Only.queues

/-- R382: what a rejection with `st` leaves: the host is told, and nothing else takes effect. -/
def Rejected (st : Status) (d e : Device) : Prop :=
  e.eng.accepted = false ∧ e.eng.err = st.code ∧ e.eng.accCount = d.eng.accCount ∧ (∀ k : Fin 12, queue e k = queue d k) ∧
  (∀ r : Fin 4, (ring e (12 + r)).rd = (ring d (12 + r)).rd ∧ (ring e (12 + r)).rel = (ring d (12 + r)).rel) ∧
  raised 704 d e = true ∧ (st ≠ .badCrc ∨ raised 705 d e = true)

/-- The words of page 0x18 that count rejections are no source's enable. -/
theorem listens_counted {d e : Device} {code : Nat} {f : Fld} {n s : Nat} (hf : f = W.ENG_SPI_CNT_REJECTED ∨ f = W.ENG_SPI_CNT_CRC_ERR)
    (h : listens e s = listens d s) : listens (count code (addSat e f n)) s = listens d s := by
  have hkeeps : Keeps 2561 0x4000000000000000000000000000000000000000000000 (addSat e f n) (count code (addSat e f n)) :=
    count_keeps (Within.refl _) (Within.refl _) (Keeps.refl _ _ _)
  have henables : ∀ g, g < 28 → famTouch 0x4000000000000000000000000000000000000000000000 (W.EVT_EN + g) = false := by decide +kernel
  refine (listens_congr ?_ (fun g hg => ?_) s).trans h
  · rw [hkeeps.mode.resolve_right (by decide), addSat, setFld_mode]
  · rw [hkeeps.frame _ (henables g hg), addSat, getW_setFld_ne]
    rcases hf with rfl | rfl <;> simp only [W.EVT_EN, W.ENG_SPI_CNT_REJECTED, W.ENG_SPI_CNT_CRC_ERR] <;> omega

/-- A raise changes no enable and no mode. -/
theorem listens_raise {t s : Nat} {d : Device} : listens (raise t d) s = listens d s := by
  have henables : ∀ g, g < 28 → famTouch 0x800000000040000000000002c0000000000000000000000000000000 (W.EVT_EN + g) = false := by
    decide +kernel
  exact listens_congr ((raise_self_keeps t d).mode.resolve_right (by decide)) (fun g hg => getW_raise (henables g hg)) s

theorem count_words {code n : Nat} {d : Device} (hw : wordsOk d.words = true) : wordsOk (count code d n).words = true :=
  count_stillShows.canon hw

/-- R409: a rejection is counted. -/
def rejectCounted (d : Device) : Device := raise 704 (count 0x2D (addSat d W.ENG_SPI_CNT_REJECTED 1))

/-- R409: a CRC error is counted once more. -/
def crcCounted (d : Device) : Device := raise 705 (count 0x2E (addSat d W.ENG_SPI_CNT_CRC_ERR 1))

theorem rejectCounted_q13Only {d : Device} : Q13Only d.eng (rejectCounted d).eng :=
  (Q13Only.of_eq (count_eng.trans (setFld_eng ..))).trans raise_q13Only

theorem crcCounted_q13Only {d : Device} : Q13Only d.eng (crcCounted d).eng :=
  (Q13Only.of_eq (count_eng.trans (setFld_eng ..))).trans raise_q13Only

theorem rejectCounted_raised {d : Device} (hw : wordsOk d.words = true) : raised 704 d (rejectCounted d) = true :=
  raised_raise (count_words (wordsOk_setFld hw)) (listens_counted (.inl rfl) rfl)

theorem rejectCounted_words {d : Device} (hw : wordsOk d.words = true) : wordsOk (rejectCounted d).words = true :=
  raise_stillShows.canon (count_words (wordsOk_setFld hw))

theorem crcCounted_raised {d e : Device} (hw : wordsOk e.words = true) (h : listens e 705 = listens d 705) :
    raised 705 d (crcCounted e) = true := raised_raise (count_words (wordsOk_setFld hw)) (listens_counted (.inr rfl) h)

theorem crcCounted_stillShows {d : Device} : StillShows d (crcCounted d) := by
  have hadd : Keeps 1 (2 ^ 173) d (addSat d W.ENG_SPI_CNT_CRC_ERR 1) :=
    addSat_keeps fam_ENG_SPI_CNT_CRC_ERR (Within.refl _) (Within.refl _) (Keeps.refl _ _ d)
  exact ((hadd.stillShows (by decide +kernel)).trans count_stillShows).trans raise_stillShows

theorem listens_rejectCounted {s : Nat} {d : Device} : listens (rejectCounted d) s = listens d s :=
  listens_raise.trans (listens_counted (.inl rfl) rfl)

theorem rejected_spiReject {st : Status} {push : Bool} {out : List Word} {d : Device} (hcanon : canonical d = true) :
    Rejected st d (spiReject st push out d) := by
  let d0 : Device := { d with eng := { d.eng with accepted := false, err := st.code, spiOut := out } }
  have hw : wordsOk d0.words = true := (canonical_iff.mp hcanon).1
  let e1 := rejectCounted d0
  let e2 := if st = .badCrc then crcCounted e1 else e1
  have hw1 : wordsOk e1.words = true := rejectCounted_words hw
  have hraised : raised 704 d e1 = true := rejectCounted_raised (d := d0) hw
  obtain ⟨hq2, hs2, hcrc⟩ : Q13Only e1.eng e2.eng ∧ StillShows e1 e2 ∧ (st ≠ .badCrc ∨ raised 705 d e2 = true) := by
    by_cases hst : st = .badCrc
    · rw [show e2 = crcCounted e1 from if_pos hst]
      exact ⟨crcCounted_q13Only, crcCounted_stillShows, .inr (crcCounted_raised hw1 listens_rejectCounted)⟩
    · rw [show e2 = e1 from if_neg hst]
      exact ⟨.refl _, .refl _, .inl hst⟩
  obtain ⟨hq3, hs3⟩ : Q13Only e2.eng (spiReject st push out d).eng ∧ StillShows e2 (spiReject st push out d) := by
    rw [show spiReject st push out d = if push && st = .busy then raise 706 e2 else e2 from rfl]
    split
    · exact ⟨raise_q13Only, raise_stillShows⟩
    · exact ⟨.refl _, .refl _⟩
  have hq : Q13Only d0.eng (spiReject st push out d).eng := (rejectCounted_q13Only.trans hq2).trans hq3
  refine ⟨by rw [hq.rest], by rw [hq.rest], by rw [hq.rest], fun k => ?_, fun r => hq.pointers (wf_rings hcanon) _,
    (hs2.trans hs3).raised hw1 hraised, ?_⟩
  · rw [queue, hq.queues]
    rfl
  · exact hcrc.imp id (hs3.raised (hs2.canon hw1))

/-- The checks of the access word (R382), which every transaction passes first: what follows them rejects as they do. -/
theorem accessChecks {kind : Nat} {t : Spi} {cs : List (Bool × Status)} {st : Status} {d x : Device} {o1 o2 : List Word}
    (h : firstFail ((t.ends != .inAccess, .badLength) :: (acrcOk kind t, .badCrc) :: cs) = some st)
    (hrest : firstFail cs = some st → ∃ push out, x = spiReject st push out d) :
    ∃ push out, (if t.ends = .inAccess then spiReject .badLength false o1 d
      else if !acrcOk kind t then spiReject .badCrc false o2 d else x) = spiReject st push out d := by
  rw [firstFail] at h
  split at h
  next hends =>
    rw [if_neg (by simpa using hends)]
    rw [firstFail] at h
    split at h
    next hacrc =>
      rw [hacrc, Bool.not_true, if_neg Bool.false_ne_true]
      exact hrest h
    next hacrc =>
      cases h
      exact ⟨_, _, if_pos (by simp [hacrc])⟩
  next hends =>
    cases h
    exact ⟨_, _, if_pos (by simpa using hends)⟩

/-! ### Host-page reads (R383) -/

@[simp] theorem readFpend_eng (d : Device) : (readFpend d).eng = d.eng := by
  unfold readFpend
  split <;> rfl

/-- The words that the host takes for those read: behind the status and the access word. -/
theorem read_out (st a x : Word) (ws : List Word) : ((st :: (a :: ws ++ [x]).take (ws.length + 2)).drop 2).take ws.length = ws := by
  simp [List.take_take]

theorem opHostRead_passed {t : Spi} {d : Device} (hacrc : acrcOk 0 t = true) (hcount : 1 ≤ t.count.toNat)
    (hrange : t.target.toNat + t.count.toNat ≤ 64) (hlen : lengthOk t 2 = true) :
    ∃ out e, opHostRead t d = spiAccept out e ∧ e.eng = d.eng ∧
      (out.drop 2).take t.count.toNat = (List.range t.count.toNat).map (fun k => hostWord d (t.target.toNat + k)) := by
  obtain ⟨hends, hwords⟩ : t.ends = .whole ∧ t.words.length = t.count.toNat + 2 := by simpa [lengthOk] using hlen
  have hout := read_out (spiStatus d) (accessWord 0 t) (BitVec.ofNat 32 (crcWords (accessWord 0 t ::
    (List.range t.count.toNat).map (fun k => hostWord d (t.target.toNat + k)))))
    ((List.range t.count.toNat).map (fun k => hostWord d (t.target.toNat + k)))
  simp only [List.length_map, List.length_range, ← hwords] at hout
  refine ⟨_, if t.target.toNat ≤ 34 && 34 < t.target.toNat + t.count.toNat then readFpend d else d, ?_, ?_, hout⟩
  · unfold opHostRead
    simp only [hends, hacrc, hlen, reduceCtorEq, if_false, Bool.not_true, Bool.false_eq_true]
    rw [if_neg (by omega), if_neg (by omega)]
  · split
    · exact readFpend_eng d
    · rfl

theorem opHostRead_rejected {t : Spi} {d : Device} {st : Status}
    (h : firstFail [(t.ends != .inAccess, .badLength), (acrcOk 0 t, .badCrc), (1 ≤ t.count.toNat, .badLength),
      (t.target.toNat + t.count.toNat ≤ 64, .badParam), (lengthOk t 2, .badLength)] = some st) :
    ∃ push out, opHostRead t d = spiReject st push out d := by
  refine accessChecks h (fun hfail => ?_)
  simp only [firstFail, decide_eq_true_eq] at hfail
  split at hfail
  next hcount =>
    rw [if_neg (by omega)]
    split at hfail
    next hrange =>
      rw [if_neg (by omega)]
      split at hfail
      next => cases hfail
      next hlen =>
        cases hfail
        exact ⟨_, _, if_pos (by simp [hlen])⟩
    next hrange =>
      cases hfail
      exact ⟨_, _, if_pos (by omega)⟩
  next hcount =>
    cases hfail
    exact ⟨_, _, if_pos (by omega)⟩

/-! ### Releases (R390) -/

/-- Releasing queues changes the queues alone. -/
theorem releaseAll_eng (qs : List Nat) (d : Device) : ∃ x, (qs.foldl releaseQueue d).eng = { d.eng with queues := x } := by
  induction qs generalizing d with
  | nil => exact ⟨_, rfl⟩
  | cons q t ih =>
    obtain ⟨x, hx⟩ := ih (releaseQueue d q)
    exact ⟨x, hx⟩

theorem releaseAll_words (qs : List Nat) (d : Device) : (qs.foldl releaseQueue d).words = d.words := by
  induction qs generalizing d with
  | nil => rfl
  | cons q t ih => exact ih (releaseQueue d q)

theorem queue_releaseAll_of_not_mem {qs : List Nat} {k : Nat} {d : Device} (hk : k ∉ qs) :
    queue (qs.foldl releaseQueue d) k = queue d k := by
  induction qs generalizing d with
  | nil => rfl
  | cons q t ih =>
    obtain ⟨hkq, hkt⟩ : k ≠ q ∧ k ∉ t := by simpa using hk
    rw [List.foldl_cons, ih hkt, releaseQueue, queue_setQueue_ne hkq]

theorem released_not_staged (ps : List QPkt) (c : Nat) :
    (ps.map (fun p => if p.staged then { p with staged := false, vis := c } else p)).any (fun p => p.staged) = false := by
  rw [List.any_eq_false]
  intro p hp
  obtain ⟨x, -, rfl⟩ := List.mem_map.mp hp
  split
  · exact Bool.false_ne_true
  · assumption

/-- A released queue holds no staged packet. -/
theorem queue_releaseAll_of_mem {qs : List Nat} {k : Nat} {d : Device} (hw : SMap.wf (fun _ => ([] : List QPkt)) d.eng.queues = true)
    (hk : k ∈ qs) : (queue (qs.foldl releaseQueue d) k).any (fun p => p.staged) = false := by
  induction qs generalizing d with
  | nil => cases hk
  | cons q t ih =>
    have hw1 : SMap.wf (fun _ => ([] : List QPkt)) (releaseQueue d q).eng.queues = true := wf_set hw
    by_cases hkt : k ∈ t
    · exact ih hw1 hkt
    · have hkq : k = q := (List.mem_cons.mp hk).resolve_right hkt
      have hget : queue (releaseQueue d q) q = (queue d q).map
          (fun p => if p.staged then { p with staged := false, vis := d.cycles } else p) := get_set_eq hw
      rw [List.foldl_cons, queue_releaseAll_of_not_mem hkt, hkq, hget]
      exact released_not_staged _ _

theorem queue_congr {d e : Device} (h : e.eng = d.eng) (k : Nat) : queue e k = queue d k := by simp only [queue, h]

theorem ring_congr {d e : Device} (h : e.eng = d.eng) (k : Nat) : ring e k = ring d k := by simp only [ring, h]

/-- A doorbell leaves no staged packet in the queues it names, and every other queue as it was. -/
theorem opDoorbell_queues {v : Word} {d e : Device} (heng : e.eng = d.eng) (hcanon : canonical d = true) :
    (∀ k : Fin 12, bitOf v k = true → (queue (opDoorbell v e) k).any (fun p => p.staged) = false) ∧
    (∀ k : Fin 12, bitOf v k = false → queue (opDoorbell v e) k = queue d k) := by
  have hw : SMap.wf (fun _ => ([] : List QPkt)) e.eng.queues = true := by rw [heng]; exact wf_queues hcanon
  unfold opDoorbell
  refine ⟨fun k hk => ?_, fun k hk => ?_⟩
  · by_cases hstaged : (queue e k).any (fun p => p.staged) = true
    · exact queue_releaseAll_of_mem hw (List.mem_filter.mpr ⟨List.mem_range.mpr k.isLt, by simp only [hk, hstaged, Bool.and_self]⟩)
    · rw [queue_releaseAll_of_not_mem]
      · exact Bool.not_eq_true _ ▸ hstaged
      · intro hmem
        have hboth := (List.mem_filter.mp hmem).2
        simp only [Bool.and_eq_true] at hboth
        exact hstaged hboth.2
  · rw [queue_releaseAll_of_not_mem, queue_congr heng]
    intro hmem
    have hboth := (List.mem_filter.mp hmem).2
    simp only [hk, Bool.false_and, Bool.false_eq_true] at hboth

/-- HP_SQ_MODE takes its bits, and a queue whose bit they clear is released. -/
theorem opSqMode_post {v : Word} {d e : Device} (heng : e.eng = d.eng) (hwords : e.words = d.words) (hcanon : canonical d = true) :
    fld (opSqMode v e) W.HP_SQ_MODE_STAGE_Q = bitsOf v 11 0 ∧
    (∀ k : Fin 12, (fld d W.HP_SQ_MODE_STAGE_Q).testBit k = true → bitOf v k = false →
      (queue (opSqMode v e) k).any (fun p => p.staged) = false) := by
  have hw : wordsOk e.words = true := by rw [hwords]; exact (canonical_iff.mp hcanon).1
  have hq : SMap.wf (fun _ => ([] : List QPkt)) (setFld e W.HP_SQ_MODE_STAGE_Q (bitsOf v 11 0)).eng.queues = true := by
    rw [setFld_eng, heng]
    exact wf_queues hcanon
  have hold : fld e W.HP_SQ_MODE_STAGE_Q = fld d W.HP_SQ_MODE_STAGE_Q := by simp only [fld, getW, hwords]
  unfold opSqMode
  refine ⟨?_, fun k hset hclear => ?_⟩
  · have hv : bitsOf v 11 0 < 4096 := Nat.mod_lt _ (by decide)
    rw [fld, getW, releaseAll_words]
    exact (fld_setFld hw (by decide) (by decide) (by decide)).trans (Nat.mod_eq_of_lt hv)
  · refine queue_releaseAll_of_mem hq (List.mem_filter.mpr ⟨List.mem_range.mpr k.isLt, ?_⟩)
    simp only [hold, hset, hclear, Bool.not_false, Bool.and_self]

/-! ### Host-page writes (R383, R394) -/

theorem resample_q13Only {d : Device} {s : Nat} : Q13Only d.eng (resample d s).eng := by
  unfold resample
  split
  · exact latchOne_q13Only.trans settle_q13Only
  · exact .refl _

theorem ackSources_q13Only {fast : Bool} {g : Nat} {mask : Word} {d : Device} : Q13Only d.eng (ackSources fast g mask d).eng := by
  have hall : ∀ (ss : List Nat) (e : Device), Q13Only e.eng (ss.foldl resample e).eng := by
    intro ss
    induction ss with
    | nil => exact fun e => .refl _
    | cons s t ih => exact fun e => resample_q13Only.trans (ih _)
  unfold ackSources
  dsimp only
  refine Q13Only.trans (.of_eq ?_) (hall _ _)
  show (if fast then putWord d _ _ g else putWord d _ _ g).eng = d.eng
  split <;> exact putWord_eng ..

/-- R394: a word of the host page moves RD of the ring whose word it is, and no other ring's. -/
theorem hostWrite_eng {w : Nat} {v : Word} {d : Device} (hcanon : canonical d = true) :
    (hostWrite w v d).eng.accCount = d.eng.accCount ∧
    ∀ r < 4, (ring (hostWrite w v d) (12 + r)).rd = if w = 20 + r then bitsOf v 15 0 else (ring d (12 + r)).rd := by
  have hrings := wf_rings hcanon
  have heng := traceWrite_eng w v d
  unfold hostWrite
  dsimp only
  generalize traceWrite w v d = e at heng
  have hkept : ∀ f : Device, f.eng.accCount = e.eng.accCount → f.eng.rings = e.eng.rings → w < 20 ∨ 24 ≤ w →
      f.eng.accCount = d.eng.accCount ∧ ∀ r < 4, (ring f (12 + r)).rd = if w = 20 + r then bitsOf v 15 0 else (ring d (12 + r)).rd := by
    intro f hacc hsame hout
    refine ⟨by rw [hacc, heng], fun r hr => ?_⟩
    rw [if_neg (by omega), ring, hsame, heng]
    rfl
  split
  case isTrue hw =>
    obtain ⟨x, hx⟩ := releaseAll_eng ((List.range 12).filter (fun q => bitOf v q && (queue e q).any (fun p => p.staged))) e
    exact hkept _ (by rw [opDoorbell, hx]) (by rw [opDoorbell, hx]) (by omega)
  case isFalse =>
    split
    case isTrue hw =>
      obtain ⟨x, hx⟩ := releaseAll_eng ((List.range 12).filter (fun q => (fld e W.HP_SQ_MODE_STAGE_Q).testBit q && !bitOf v q))
        (setFld e W.HP_SQ_MODE_STAGE_Q (bitsOf v 11 0))
      rw [setFld_eng] at hx
      exact hkept _ (by rw [opSqMode, hx]) (by rw [opSqMode, hx]) (by omega)
    case isFalse =>
      split
      case isTrue hw =>
        refine ⟨by rw [← heng]; rfl, fun r hr => ?_⟩
        by_cases hwr : w = 20 + r
        · have hget : ring (putRd (w - 8) (bitsOf v 15 0) e) (12 + r) = { ring e (w - 8) with rd := bitsOf v 15 0 } := by
            rw [show 12 + r = w - 8 by omega]
            exact get_set_eq (by rw [heng]; exact hrings)
          rw [if_pos hwr, hget]
        · rw [if_neg hwr, putRd, ring_setRing_ne (by omega), ring_congr heng]
      case isFalse hring =>
        split
        case isTrue hw => exact hkept _ (by rw [setFld_eng]) (by rw [setFld_eng]) (by omega)
        case isFalse =>
          split
          case isTrue hw =>
            have hack : Q13Only e.eng (opFack v e).eng := ackSources_q13Only
            refine ⟨by rw [hack.rest, heng], fun r hr => ?_⟩
            rw [if_neg (by omega)]
            exact (hack.pointers (by rw [heng]; exact hrings) _).1.trans (by rw [heng]; rfl)
          case isFalse => exact hkept e rfl rfl (by omega)

theorem hostWrite_canonical {w : Nat} {v : Word} {d : Device} (hcanon : canonical d = true) : canonical (hostWrite w v d) = true :=
  (hostWrite_keeps (Within.refl _) (Within.refl _) (Keeps.refl _ _ d)).canonicalAfter hcanon

/-- R383: the words of a write take effect one after another, and each ring's RD is that of its own word. -/
theorem hostWrites_eng {a : Nat} {vs : List Word} {d : Device} (hcanon : canonical d = true) :
    (hostWrites a vs d).eng.accCount = d.eng.accCount ∧
    ∀ r < 4, (ring (hostWrites a vs d) (12 + r)).rd =
      if a ≤ 20 + r ∧ 20 + r < a + vs.length then bitsOf (vs.getD (20 + r - a) 0#32) 15 0 else (ring d (12 + r)).rd := by
  induction vs generalizing a d with
  | nil => exact ⟨rfl, fun r hr => by rw [if_neg (by simp)]; rfl⟩
  | cons v t ih =>
    obtain ⟨hacc, hrd⟩ := hostWrite_eng (w := a) (v := v) hcanon
    obtain ⟨hacc', hrd'⟩ := ih (a := a + 1) (hostWrite_canonical (w := a) (v := v) hcanon)
    refine ⟨hacc'.trans hacc, fun r hr => ?_⟩
    rw [hostWrites, hrd' r hr, hrd r hr, List.length_cons]
    by_cases hfirst : a = 20 + r
    · rw [if_neg (by omega), if_pos hfirst, if_pos (by omega), hfirst, Nat.sub_self]
      rfl
    · by_cases hlater : a + 1 ≤ 20 + r ∧ 20 + r < a + 1 + t.length
      · rw [if_pos hlater, if_pos (by omega), show 20 + r - a = (20 + r - (a + 1)) + 1 by omega]
        rfl
      · rw [if_neg hlater, if_neg hfirst, if_neg (by omega)]

theorem hostWrites_canonical {a : Nat} {vs : List Word} {d : Device} (hcanon : canonical d = true) :
    canonical (hostWrites a vs d) = true :=
  (hostWrites_keeps (Within.refl _) (Within.refl _) (Keeps.refl _ _ d)).canonicalAfter hcanon

/-- The checks of R382 on a host-page write, behind those of the access word. -/
def writeChecks (t : Spi) (d : Device) : List (Bool × Status) :=
  [(t.count.toNat ≠ 0, .badLength), (t.target.toNat + t.count.toNat ≤ 64, .badParam), (lengthOk t 1, .badLength),
    (crcOk 1 t, .badCrc),
    ((List.range 4).all (fun r => !(t.target.toNat ≤ 20 + r && 20 + r < t.target.toNat + t.count.toNat) ||
      rdOk d (12 + r) (bitsOf ((t.words.take t.count.toNat).getD (20 + r - t.target.toNat) 0#32) 15 0)), .badParam)]

theorem opHostWrite_eq (t : Spi) (d : Device) : opHostWrite t d =
    if t.ends = .inAccess then spiReject .badLength false [spiStatus d] d
    else if !acrcOk 1 t then spiReject .badCrc false (spiStatus d :: onesOut t) d
    else match firstFail (writeChecks t d) with
      | some e => spiReject e false (spiStatus d :: t.words.map (fun _ => 0#32)) d
      | none => spiAccept (spiStatus d :: t.words.map (fun _ => 0#32)) (hostWrites t.target.toNat (t.words.take t.count.toNat) d) :=
  rfl

theorem opHostWrite_rejected {t : Spi} {d : Device} {st : Status}
    (h : firstFail ((t.ends != .inAccess, .badLength) :: (acrcOk 1 t, .badCrc) :: writeChecks t d) = some st) :
    ∃ push out, opHostWrite t d = spiReject st push out d := by
  rw [opHostWrite_eq]
  refine accessChecks h (fun hfail => ?_)
  rw [hfail]
  exact ⟨_, _, rfl⟩

theorem opHostWrite_passed {t : Spi} {d : Device} (hends : t.ends = .whole) (hacrc : acrcOk 1 t = true)
    (hpass : firstFail (writeChecks t d) = none) :
    opHostWrite t d =
      spiAccept (spiStatus d :: t.words.map (fun _ => 0#32)) (hostWrites t.target.toNat (t.words.take t.count.toNat) d) := by
  rw [opHostWrite_eq, hends, if_neg (by decide), hacrc, Bool.not_true, if_neg Bool.false_ne_true, hpass]

/-- The word of a write behind word `k` is one of those sent. -/
theorem getD_take {ws : List Word} {n k : Nat} (hk : k < n) : (ws.take n).getD k 0#32 = ws.getD k 0#32 := by
  simp [List.getD_eq_getElem?_getD, List.getElem?_take_of_lt hk]

theorem rdChecks_take {ws : List Word} {n a : Nat} {d : Device} :
    (List.range 4).all (fun r => !(a ≤ 20 + r && 20 + r < a + n) ||
      rdOk d (12 + r) (bitsOf ((ws.take n).getD (20 + r - a) 0#32) 15 0)) =
    (List.range 4).all (fun r => !(a ≤ 20 + r && 20 + r < a + n) || rdOk d (12 + r) (bitsOf (ws.getD (20 + r - a) 0#32) 15 0)) := by
  congr 1
  funext r
  by_cases hr : 20 + r - a < n
  · rw [getD_take hr]
  · have hout : (decide (a ≤ 20 + r) && decide (20 + r < a + n)) = false := by
      simp only [Bool.and_eq_false_iff, decide_eq_false_iff_not]
      omega
    rw [hout, Bool.not_false, Bool.true_or, Bool.true_or]

theorem hostWrite_accepted {t : Spi} {d : Device} {out : List Word} (hcanon : canonical d = true)
    (hlen : t.words.length = t.count.toNat + 1) :
    let e := spiAccept out (hostWrites t.target.toNat (t.words.take t.count.toNat) d)
    e.eng.accepted = true ∧ e.eng.accCount = (d.eng.accCount + 1) % 256 ∧
    ∀ r : Fin 4, t.target.toNat ≤ 20 + r → 20 + r < t.target.toNat + t.count.toNat →
      (ring e (12 + r)).rd = bitsOf (t.words.getD (20 + r - t.target.toNat) 0#32) 15 0 := by
  obtain ⟨hacc, hrd⟩ := hostWrites_eng (a := t.target.toNat) (vs := t.words.take t.count.toNat) hcanon
  have hrings := wf_rings (hostWrites_canonical (a := t.target.toNat) (vs := t.words.take t.count.toNat) hcanon)
  generalize hostWrites t.target.toNat (t.words.take t.count.toNat) d = e at hacc hrd hrings
  obtain ⟨hyes, hcount, -⟩ := spiAccept_tells (out := out) (d := e)
  refine ⟨hyes, by rw [hcount, hacc], fun r hlow hhigh => ?_⟩
  have hrange : t.target.toNat ≤ 20 + r.val ∧ 20 + r.val < t.target.toNat + (t.words.take t.count.toNat).length := by
    rw [List.length_take, hlen]
    omega
  have hword := hrd r.val r.isLt
  rw [if_pos hrange, getD_take (by omega)] at hword
  exact ((spiAccept_q13Only (out := out) (d := e)).pointers hrings _).1.trans hword

/-! ### Pushes (R389) -/

/-- A push appends its packets in order, all staged or none, and counts no transaction itself. -/
theorem enqueue_post {q : Nat} {b : Bool} {ps : List (Word × List Word)} {d : Device}
    (hw : SMap.wf (fun _ => ([] : List QPkt)) d.eng.queues = true) :
    (enqueue q b ps d).eng.accCount = d.eng.accCount ∧
    ∃ new, queue (enqueue q b ps d) q = queue d q ++ new ∧ new.map (fun p => (p.header, p.params)) = ps ∧
      new.all (fun p => p.staged == b) = true := by
  induction ps generalizing d with
  | nil => exact ⟨rfl, [], (List.append_nil _).symm, rfl, rfl⟩
  | cons p t ih =>
    let x : QPkt := { id := d.eng.nextId, header := p.1, params := p.2, staged := b, vis := d.cycles }
    let d1 := setQueue { d with eng := { d.eng with nextId := d.eng.nextId + 1 } } q (queue d q ++ [x])
    have hget : queue d1 q = queue d q ++ [x] := get_set_eq hw
    obtain ⟨hacc, new, hqueue, hmap, hall⟩ := ih (d := d1) (wf_set hw)
    refine ⟨hacc, x :: new, ?_, ?_, ?_⟩
    · rw [show enqueue q b (p :: t) d = enqueue q b t d1 from rfl, hqueue, hget, List.append_assoc]
      rfl
    · rw [List.map_cons, hmap]
    · rw [List.all_cons, hall, Bool.and_true]
      exact beq_self_eq_true b

/-- The checks of R382 on a push, behind those of the access word. -/
def pushChecks (t : Spi) (d : Device) : List (Bool × Status) :=
  [(t.count.toNat ≠ 0, .badLength), (t.target.toNat < 12, .badParam), (engineReady d, .deniedMode),
    (t.count.toNat ≤ freeWords d t.target.toNat, .busy), (lengthOk t 1, .badLength), (crcOk 2 t, .badCrc),
    ((splitPackets t.count.toNat (t.words.take t.count.toNat)).2, .badLength)]

/-- The block with the push's packets in their queue. -/
def pushed (t : Spi) (d : Device) : Device :=
  let e := traceEntry 4 t.target.toNat (leb128 10 t.count.toNat ++ (t.words.take t.count.toNat).flatMap wordBytesLE) d
  enqueue t.target.toNat ((fld e W.HP_SQ_MODE_STAGE_Q).testBit t.target.toNat)
    (splitPackets t.count.toNat (t.words.take t.count.toNat)).1 e

theorem opPush_eq (t : Spi) (d : Device) : opPush t d =
    if t.ends = .inAccess then spiReject .badLength false [spiStatus d] d
    else if !acrcOk 2 t then spiReject .badCrc false (spiStatus d :: onesOut t) d
    else match firstFail (pushChecks t d) with
      | some e => spiReject e true (spiStatus d :: t.words.map (fun _ => 0#32)) d
      | none => spiAccept (spiStatus d :: t.words.map (fun _ => 0#32)) (pushed t d) := rfl

theorem opPush_rejected {t : Spi} {d : Device} {st : Status}
    (h : firstFail ((t.ends != .inAccess, .badLength) :: (acrcOk 2 t, .badCrc) :: pushChecks t d) = some st) :
    ∃ push out, opPush t d = spiReject st push out d := by
  rw [opPush_eq]
  refine accessChecks h (fun hfail => ?_)
  rw [hfail]
  exact ⟨_, _, rfl⟩

theorem opPush_passed {t : Spi} {d : Device} (hends : t.ends = .whole) (hacrc : acrcOk 2 t = true)
    (hpass : firstFail (pushChecks t d) = none) :
    opPush t d = spiAccept (spiStatus d :: t.words.map (fun _ => 0#32)) (pushed t d) := by
  rw [opPush_eq, hends, if_neg (by decide), hacrc, Bool.not_true, if_neg Bool.false_ne_true, hpass]

theorem push_accepted {t : Spi} {d : Device} {out : List Word} (hcanon : canonical d = true) :
    let e := spiAccept out (pushed t d)
    e.eng.accepted = true ∧ e.eng.accCount = (d.eng.accCount + 1) % 256 ∧
    (queue e t.target.toNat).map (fun p => (p.header, p.params)) =
      (queue d t.target.toNat).map (fun p => (p.header, p.params)) ++
        (splitPackets t.count.toNat (t.words.take t.count.toNat)).1 ∧
    ((queue e t.target.toNat).drop (queue d t.target.toNat).length).all
      (fun p => p.staged == (fld d W.HP_SQ_MODE_STAGE_Q).testBit t.target.toNat) = true := by
  let d1 := traceEntry 4 t.target.toNat (leb128 10 t.count.toNat ++ (t.words.take t.count.toNat).flatMap wordBytesLE) d
  have heng : d1.eng = d.eng := traceEntry_eng ..
  have hmode : fld d1 W.HP_SQ_MODE_STAGE_Q = fld d W.HP_SQ_MODE_STAGE_Q := by
    simp only [fld, getW, show d1.words = d.words from traceEntry_words ..]
  obtain ⟨hacc, new, hqueue, hmap, hall⟩ := enqueue_post (q := t.target.toNat)
    (b := (fld d1 W.HP_SQ_MODE_STAGE_Q).testBit t.target.toNat) (ps := (splitPackets t.count.toNat (t.words.take t.count.toNat)).1)
    (d := d1) (by rw [heng]; exact wf_queues hcanon)
  obtain ⟨hyes, hcount, -⟩ := spiAccept_tells (out := out) (d := pushed t d)
  have hafter : queue (spiAccept out (pushed t d)) t.target.toNat = queue d t.target.toNat ++ new := by
    rw [queue, spiAccept_queues, ← queue_congr heng]
    exact hqueue
  refine ⟨hyes, ?_, ?_, ?_⟩
  · rw [hcount, show (pushed t d).eng.accCount = d1.eng.accCount from hacc, heng]
  · rw [hafter, List.map_append, hmap]
  · rw [hafter, List.drop_left, ← hmode]
    exact hall

/-! ### Pops (R393) -/

/-- R393: the words that a pop returns, whole entries only. -/
def poppedWords (n q : Nat) (g : Ring) : Nat := min n g.unpopped / ringEntry q * ringEntry q

/-- R393: REL takes the old RD, and RD moves on by the words returned. -/
def poppedRing (n q : Nat) (g : Ring) : Ring :=
  { g with words := g.words.drop ((g.rd + 65536 - g.rel) % 65536), rel := g.rd, rd := (g.rd + poppedWords n q g) % 65536 }

theorem opPop_passed {t : Spi} {d : Device} (hacrc : acrcOk 3 t = true) (hcount : 1 ≤ t.count.toNat) (hlow : 12 ≤ t.target.toNat)
    (hhigh : t.target.toNat < 16) (hwhole : t.count.toNat % ringEntry t.target.toNat = 0) (hlen : lengthOk t 2 = true) :
    ∃ out, opPop t d = settle 4 (count 0x2F (spiAccept out
      (noteFull (setRing d t.target.toNat (poppedRing t.count.toNat t.target.toNat (ring d t.target.toNat)))))) := by
  obtain ⟨hends, -⟩ : t.ends = .whole ∧ t.words.length = t.count.toNat + 2 := by simpa [lengthOk] using hlen
  have hrange : (t.target.toNat < 12 || 16 ≤ t.target.toNat || t.count.toNat % ringEntry t.target.toNat ≠ 0) = false := by
    simp only [hwhole, Bool.or_eq_false_iff, decide_eq_false_iff_not]
    exact ⟨⟨by omega, by omega⟩, by simp⟩
  unfold opPop
  simp only [hends, hacrc, hlen, hrange, reduceCtorEq, if_false, Bool.not_true, Bool.false_eq_true]
  rw [if_neg (by omega)]
  exact ⟨_, rfl⟩

theorem opPop_rejected {t : Spi} {d : Device} {st : Status}
    (h : firstFail [(t.ends != .inAccess, .badLength), (acrcOk 3 t, .badCrc), (1 ≤ t.count.toNat, .badLength),
      (decide (12 ≤ t.target.toNat) && decide (t.target.toNat < 16) && t.count.toNat % ringEntry t.target.toNat = 0, .badParam),
      (lengthOk t 2, .badLength)] = some st) :
    ∃ push out, opPop t d = spiReject st push out d := by
  refine accessChecks h (fun hfail => ?_)
  simp only [firstFail, Bool.and_eq_true, decide_eq_true_eq] at hfail
  split at hfail
  next hcount =>
    rw [if_neg (by omega)]
    split at hfail
    next hrange =>
      obtain ⟨⟨hlow, hhigh⟩, hwhole⟩ := hrange
      rw [if_neg (by simp only [Bool.or_eq_true, decide_eq_true_eq]; omega)]
      split at hfail
      next => cases hfail
      next hlen =>
        cases hfail
        exact ⟨_, _, if_pos (by simp [hlen])⟩
    next hrange =>
      cases hfail
      exact ⟨_, _, if_pos (by simp only [Bool.or_eq_true, decide_eq_true_eq]; omega)⟩
  next hcount =>
    cases hfail
    exact ⟨_, _, if_pos (by omega)⟩

theorem pop_accepted {n q : Nat} {d : Device} {out : List Word} (hcanon : canonical d = true) :
    let e := settle 4 (count 0x2F (spiAccept out (noteFull (setRing d q (poppedRing n q (ring d q))))))
    e.eng.accepted = true ∧ (ring e q).rel = (ring d q).rd ∧
    (ring e q).rd = ((ring d q).rd + min n (ring d q).unpopped / ringEntry q * ringEntry q) % 65536 := by
  obtain ⟨from_, stalled, hfull⟩ := noteFull_eng (setRing d q (poppedRing n q (ring d q)))
  generalize noteFull (setRing d q (poppedRing n q (ring d q))) = x at hfull
  have hq : Q13Only (accepted out x.eng) (settle 4 (count 0x2F (spiAccept out x))).eng :=
    (spiAccept_q13Only.trans (.of_eq count_eng)).trans settle_q13Only
  have hrings : x.eng.rings = SMap.set (fun _ => ({} : Ring)) q (poppedRing n q (ring d q)) d.eng.rings := by rw [hfull]; rfl
  have hw : SMap.wf (fun _ => ({} : Ring)) x.eng.rings = true := by
    rw [hrings]
    exact wf_set (wf_rings hcanon)
  obtain ⟨hrd, hrel⟩ := hq.pointers hw q
  have hget : SMap.get (fun _ => ({} : Ring)) (accepted out x.eng).rings q = poppedRing n q (ring d q) :=
    (congrArg (fun m => SMap.get _ m q) hrings).trans (get_set_eq (wf_rings hcanon))
  rw [hget] at hrd hrel
  exact ⟨by rw [hq.rest]; rfl, hrel, hrd⟩

/-! ### The obligation -/

theorem writeRd_moved {r : BitVec 2} {v : Word} {d : Device} (hcanon : canonical d = true)
    (hok : rdOk d (12 + r.toNat) (bitsOf v 15 0) = true) :
    ring (writeRd r v d) (12 + r.toNat) = { ring d (12 + r.toNat) with rd := bitsOf v 15 0 } := by
  have heng := traceWrite_eng (20 + r.toNat) v d
  rw [writeRd, if_pos hok, putRd, ring_congr heng]
  exact get_set_eq (by rw [heng]; exact wf_rings hcanon)

/-- A row of the port that rejects. -/
theorem rejected_of_port {st : Status} {d x : Device} (hcanon : canonical d = true) (hon : portOn d = true)
    (h : ∃ push out, x = spiReject st push out d) : Rejected st d (if portOn d then x else d) := by
  obtain ⟨push, out, rfl⟩ := h
  rw [if_pos hon]
  exact rejected_spiReject hcanon

theorem silent_port {d x : Device} (h : portOn d = false) : (if portOn d then x else d) = d := if_neg (by simp [h])

/-- Settles O12: an accepted transaction is told and does its work (`hostWrites_eng`, `enqueue_post`, `pop_accepted`), a rejected one is
told alone (`rejected_spiReject`). -/
theorem spiTransactions : Obligations.SpiTransactions := by
  intro q d hcanon
  refine ⟨?_, ?_, ?_, ?_, ?_, ?_, ?_, ?_, ?_, ?_, ?_, ?_, ?_, ?_, ?_, ?_, ?_, ?_⟩
  · intro tx hon hacrc hcount hrange hlen
    refine completes_hostPageRead ?_
    obtain ⟨out, e, hop, heng, hout⟩ := opHostRead_passed (d := d) hacrc hcount hrange hlen
    obtain ⟨hyes, hacc, htold⟩ := spiAccept_tells (out := out) (d := e)
    rw [if_pos hon, hop, htold, hacc, heng]
    exact ⟨hyes, rfl, hout⟩
  · intro tx hon hacrc hcount hrange hlen hcrc hrds
    refine completes_hostPageWrite ?_
    obtain ⟨hends, hwords⟩ : tx.ends = .whole ∧ tx.words.length = tx.count.toNat + 1 := by simpa [lengthOk] using hlen
    have hpass : firstFail (writeChecks tx d) = none := by
      rw [← rdChecks_take] at hrds
      simp only [writeChecks, firstFail, hrds, hlen, hcrc, hrange, decide_true, if_true]
      simp [Nat.one_le_iff_ne_zero.mp hcount]
    rw [if_pos hon, opHostWrite_passed hends hacrc hpass]
    exact hostWrite_accepted hcanon hwords
  · intro tx hon hacrc hcount htarget hready hroom hlen hcrc hsplit
    refine completes_push ?_
    obtain ⟨hends, -⟩ : tx.ends = .whole ∧ tx.words.length = tx.count.toNat + 1 := by simpa [lengthOk] using hlen
    have hpass : firstFail (pushChecks tx d) = none := by
      simp [pushChecks, firstFail, htarget, hready, hroom, hlen, hcrc, hsplit, Nat.one_le_iff_ne_zero.mp hcount]
    rw [if_pos hon, opPush_passed hends hacrc hpass]
    exact push_accepted hcanon
  · intro tx hon hacrc hcount hlow hhigh hwhole hlen
    refine completes_pop ?_
    obtain ⟨out, hop⟩ := opPop_passed (d := d) hacrc hcount hlow hhigh hwhole hlen
    rw [if_pos hon, hop]
    exact pop_accepted hcanon
  · intro v hon
    refine completes_hpDoorbell ?_
    obtain ⟨hnamed, hother⟩ := opDoorbell_queues (v := v) (traceWrite_eng 2 v d) hcanon
    rw [if_pos hon]
    exact fun k hk => ⟨hnamed k hk, hother⟩
  · intro v hon
    refine completes_hpSqMode ?_
    rw [if_pos hon]
    exact opSqMode_post (traceWrite_eng 3 v d) (traceWrite_words 3 v d) hcanon
  · intro r v hon hok
    refine completes_rngPtr ?_
    rw [if_pos hon]
    exact writeRd_moved hcanon hok
  · exact fun tx st hon hfail => completes_hostPageRead (rejected_of_port hcanon hon (opHostRead_rejected hfail))
  · exact fun tx hoff => completes_hostPageRead (silent_port hoff)
  · intro tx st hon hfail
    refine completes_hostPageWrite (rejected_of_port hcanon hon (opHostWrite_rejected ?_))
    simpa [writeChecks, Nat.one_le_iff_ne_zero] using hfail
  · exact fun tx hoff => completes_hostPageWrite (silent_port hoff)
  · intro tx st hon hfail
    refine completes_push (rejected_of_port hcanon hon (opPush_rejected ?_))
    simpa [pushChecks, Nat.one_le_iff_ne_zero] using hfail
  · exact fun tx hoff => completes_push (silent_port hoff)
  · exact fun tx st hon hfail => completes_pop (rejected_of_port hcanon hon (opPop_rejected hfail))
  · exact fun tx hoff => completes_pop (silent_port hoff)
  · exact fun v hoff => completes_hpDoorbell (silent_port hoff)
  · exact fun v hoff => completes_hpSqMode (silent_port hoff)
  · intro r v hoff
    refine completes_rngPtr ?_
    rcases Bool.and_eq_false_iff.mp hoff with hport | hrd
    · exact silent_port hport
    · have hkept : writeRd r v d = d := if_neg (by simp [hrd])
      rw [hkept]
      exact ite_self d

end Sys2Proof.Machine
end

section
/-! # The gutter log (O47)

R557-R562: the log's own part changes through `takeLocation`, `commitRecord` and `setSector`; its words are those of `gutterSummary` and
`wearSummary`. -/

set_option Elab.async false

namespace Sys2Proof.Machine

/-! ### The rows and their frames -/

theorem completes_gutterWrite {q : List Instr} {d : Device} {post : Device → Prop} (h : post (opGutterWrite d)) :
    Completes .gutterWrite q d [.words, .ev, .perf, .log, .freeN] (some [W.BG_WEAR, W.PC_OVF, W.GUT_STATUS, W.GUT_SEQ]) post :=
  (keeps_gutterWrite _).completes rfl (by decide) (by decide) (by decide +kernel) h

theorem completes_gutAbandoned {q : List Instr} {d : Device} {post : Device → Prop} (h : post (opGutAbandoned d)) :
    Completes .gutAbandoned q d [.words, .log] (some [W.BG_WEAR, W.GUT_STATUS, W.GUT_CNT]) post :=
  (keeps_gutAbandoned _).completes rfl (by decide) (by decide) (by decide +kernel) h

theorem completes_gutterRewrite {q : List Instr} {d : Device} {post : Device → Prop} (h : post (opGutterRewrite d)) :
    Completes .gutterRewrite q d (commonWith [.log]) (eventsWith [W.BG_WEAR, W.GUT_STATUS, W.GUT_SEQ]) post :=
  (keeps_gutterRewrite _).completes rfl (by decide) (by decide) (by decide +kernel) h

theorem completes_sectorErase {q : List Instr} {d : Device} {post : Device → Prop} (h : post (opSectorErase d)) :
    Completes .sectorErase q d [.words, .ev, .perf, .log, .freeN] (some [W.BG_STATUS, W.BG_WEAR, W.PC_OVF, W.GUT_STATUS]) post :=
  (keeps_sectorErase _).completes rfl (by decide) (by decide) (by decide +kernel) h

theorem completes_gutBufFilled {q : List Instr} {d : Device} {post : Device → Prop} (h : post (opGutBufFilled d)) :
    Completes .gutBufFilled q d [.words] (some [W.GUT_BUF_STATUS, W.GUT_BUF]) post :=
  (keeps_gutBufFilled _).completes rfl (by decide) (by decide) (by decide +kernel) h

/-! ### The stores of the log -/

theorem logStores_wf {d : Device} (h : canonical d = true) :
    SMap.wf (fun _ => []) d.log.records = true ∧ SMap.wf (fun _ => ({} : Sector)) d.log.secs = true := by
  have hok := (canonical_iff.mp h).2.log
  simp only [logOk, Bool.and_eq_true] at hok
  exact ⟨hok.1.1.1.1, hok.1.1.1.2⟩

@[simp] theorem wearSummary_log (d : Device) : (wearSummary d).log = d.log := by simp [wearSummary]

@[simp] theorem gutterSummary_log (d : Device) : (gutterSummary d).log = d.log := by simp [gutterSummary]

theorem takeLocation_log (seq : Option Nat) (d : Device) :
    (takeLocation seq d).log.records = d.log.records ∧ (takeLocation seq d).log.waiting = d.log.waiting ∧
    (takeLocation seq d).log.abandoned = d.log.abandoned := by simp [takeLocation, setSector]

/-- The words of the record count and of the snapshots that wait. -/
theorem gutterSummary_fields {d : Device} (hw : wordsOk d.words = true) :
    fld (gutterSummary d) W.GUT_STATUS_RECORDS = min d.log.records.length 4096 ∧
    fld (gutterSummary d) W.GUT_STATUS_PENDING = d.log.waiting.length % 16 := by
  have hw1 : wordsOk (setFld d W.GUT_STATUS_RECORDS (min d.log.records.length 4096)).words = true := wordsOk_setFld hw
  have htop : min d.log.records.length 4096 < 8192 := by omega
  unfold gutterSummary
  constructor
  · rw [fld_setFld_ne hw1 (by rfl) (by decide), fld_setFld hw (by decide) (by decide) (by decide)]
    exact Nat.mod_eq_of_lt htop
  · rw [fld_setFld hw1 (by decide) (by decide) (by decide), setFld_log]
    rfl

/-- A word other than GUT_STATUS. -/
theorem getW_gutterSummary {d : Device} {a : Nat} (h : a ≠ 0x1A00) : getW (gutterSummary d) a = getW d a := by
  unfold gutterSummary
  rw [getW_setFld_ne h, getW_setFld_ne h]

theorem takeLocation_self_keeps (seq : Option Nat) (d : Device) : Keeps 2097153 0x100000000 d (takeLocation seq d) :=
  takeLocation_keeps (Within.refl _) (Within.refl _) (Keeps.refl _ _ d)

theorem commitRecord_self_keeps (ws : List Word) (d : Device) :
    Keeps 2097153 0x18000000000000000000000000000000000000100000000 d (commitRecord ws d) :=
  commitRecord_keeps (Within.refl _) (Within.refl _) (Keeps.refl _ _ d)

/-- R559: the block with the record stored, its summary still to follow. -/
def recordStored (ws : List Word) (d : Device) : Device :=
  let seq := (ws.getD 1 0#32).toNat
  let d := takeLocation (some seq) d
  let d := { d with log := { d.log with records := SMap.set (fun _ => []) seq (sealRecord ws) d.log.records } }
  setW d W.GUT_SEQ (BitVec.ofNat 32 seq)

theorem commitRecord_eq (ws : List Word) (d : Device) : commitRecord ws d = gutterSummary (recordStored ws d) := rfl

theorem recordStored_log (ws : List Word) (d : Device) :
    (recordStored ws d).log.records = SMap.set (fun _ => []) (ws.getD 1 0#32).toNat (sealRecord ws) d.log.records ∧
    (recordStored ws d).log.waiting = d.log.waiting ∧ (recordStored ws d).log.abandoned = d.log.abandoned := by
  obtain ⟨hrecords, hwaiting, habandoned⟩ := takeLocation_log (some (ws.getD 1 0#32).toNat) d
  unfold recordStored
  rw [setW_log]
  exact ⟨by rw [← hrecords], hwaiting, habandoned⟩

theorem recordStored_words {ws : List Word} {d : Device} (hw : wordsOk d.words = true) :
    wordsOk (recordStored ws d).words = true ∧ getW (recordStored ws d) W.GUT_SEQ = ws.getD 1 0#32 := by
  have hw1 : wordsOk (takeLocation (some (ws.getD 1 0#32).toNat) d).words = true := (takeLocation_self_keeps _ d).canon hw
  unfold recordStored
  refine ⟨wordsOk_setW hw1, (getW_setW_eq ?_).trans ?_⟩
  · exact hw1
  · rw [BitVec.ofNat_toNat, BitVec.setWidth_eq]

/-- R559: what a committed record leaves. -/
theorem commitRecord_log (ws : List Word) (d : Device) :
    (commitRecord ws d).log.records = SMap.set (fun _ => []) (ws.getD 1 0#32).toNat (sealRecord ws) d.log.records ∧
    (commitRecord ws d).log.waiting = d.log.waiting ∧ (commitRecord ws d).log.abandoned = d.log.abandoned := by
  rw [commitRecord_eq, gutterSummary_log]
  exact recordStored_log ws d

theorem commitRecord_fields {ws : List Word} {d : Device} (hw : wordsOk d.words = true) :
    getW (commitRecord ws d) W.GUT_SEQ = ws.getD 1 0#32 ∧
    fld (commitRecord ws d) W.GUT_STATUS_PENDING = d.log.waiting.length % 16 ∧
    fld (commitRecord ws d) W.GUT_STATUS_RECORDS = min (commitRecord ws d).log.records.length 4096 := by
  obtain ⟨hw1, hseq⟩ := recordStored_words (ws := ws) hw
  obtain ⟨-, hwaiting, -⟩ := recordStored_log ws d
  obtain ⟨hrecords, hpending⟩ := gutterSummary_fields hw1
  rw [commitRecord_eq, gutterSummary_log, getW_gutterSummary (by decide)]
  exact ⟨hseq, by rw [hpending, hwaiting], hrecords⟩

/-! ### Writing, abandoning, rewriting -/

@[simp] theorem purlinWorks_log (d : Device) : (purlinWorks d).log = d.log :=
  (purlinWorks_keeps (Within.refl _) (Within.refl _) (Keeps.refl _ _ d)).log.resolve_right (by decide)

theorem purlinWorks_words {d : Device} (hw : wordsOk d.words = true) : wordsOk (purlinWorks d).words = true :=
  (purlinWorks_keeps (Within.refl _) (Within.refl _) (Keeps.refl _ _ d)).canon hw

theorem opGutterWrite_oldest {d : Device} {ws : List Word} {t : List (List Word)} (hon : tcuOn d = true) (hscan : d.log.scanned = true)
    (hfree : d.log.abandoned = none) (hwaiting : d.log.waiting = ws :: t) :
    opGutterWrite d = commitRecord ws (purlinWorks { d with log := { d.log with waiting := t } }) := by
  simp [opGutterWrite, hon, hscan, hfree, hwaiting]

theorem opGutterWrite_idle {d : Device}
    (h : tcuOn d = false ∨ d.log.scanned = false ∨ d.log.abandoned ≠ none ∨ d.log.waiting = []) : opGutterWrite d = d := by
  unfold opGutterWrite
  rcases h with h | h | h | h
  · rw [if_neg (by simp [h])]
  · rw [if_neg (by simp [h])]
  · rw [if_neg (by simp [Option.isNone_iff_eq_none, h])]
  · rw [h]
    exact ite_self d

/-- R559: the oldest snapshot becomes the record of its number. -/
theorem gutterWrite_post {d : Device} {ws : List Word} {t : List (List Word)} (hcanon : canonical d = true) :
    let e := commitRecord ws (purlinWorks { d with log := { d.log with waiting := t } })
    SMap.get (fun _ => []) e.log.records (ws.getD 1 0#32).toNat = sealRecord ws ∧ e.log.waiting = t ∧
    getW e W.GUT_SEQ = ws.getD 1 0#32 ∧ fld e W.GUT_STATUS_PENDING = t.length % 16 ∧
    fld e W.GUT_STATUS_RECORDS = min e.log.records.length 4096 := by
  intro e
  have hw : wordsOk (purlinWorks { d with log := { d.log with waiting := t } }).words = true :=
    purlinWorks_words (canonical_iff.mp hcanon).1
  obtain ⟨hrecords, hwaiting, -⟩ := commitRecord_log ws (purlinWorks { d with log := { d.log with waiting := t } })
  obtain ⟨hseq, hpending, hcount⟩ := commitRecord_fields (ws := ws) hw
  rw [purlinWorks_log] at hrecords hwaiting hpending
  exact ⟨by rw [hrecords, get_set_eq (logStores_wf hcanon).1], hwaiting, hseq, hpending, hcount⟩

/-- R560: the block once the write of the oldest snapshot `ws` has been abandoned. -/
def writeAbandoned (ws : List Word) (t : List (List Word)) (d : Device) : Device :=
  gutterSummary (addSat (takeLocation none { d with log := { d.log with waiting := t, abandoned := some ws } }) W.GUT_CNT_ABANDONED 1)

theorem opGutAbandoned_oldest {d : Device} {ws : List Word} {t : List (List Word)} (hon : tcuOn d = true) (hscan : d.log.scanned = true)
    (hfree : d.log.abandoned = none) (hreserve : aboveReserve d = false) (hwaiting : d.log.waiting = ws :: t) :
    opGutAbandoned d = writeAbandoned ws t d := by
  simp [opGutAbandoned, writeAbandoned, hon, hscan, hfree, hreserve, hwaiting]

theorem opGutAbandoned_idle {d : Device} (h : tcuOn d = false ∨ d.log.scanned = false ∨ d.log.abandoned ≠ none ∨
    aboveReserve d = true ∨ d.log.waiting = []) : opGutAbandoned d = d := by
  unfold opGutAbandoned
  rcases h with h | h | h | h | h
  · rw [if_neg (by simp [h])]
  · rw [if_neg (by simp [h])]
  · rw [if_neg (by simp [Option.isNone_iff_eq_none, h])]
  · rw [if_neg (by simp [h])]
  · rw [h]
    exact ite_self d

theorem writeAbandoned_post {d : Device} {ws : List Word} {t : List (List Word)} (hw : wordsOk d.words = true) :
    (writeAbandoned ws t d).log.abandoned = some ws ∧ (writeAbandoned ws t d).log.waiting = t ∧
    (writeAbandoned ws t d).log.records = d.log.records ∧
    fld (writeAbandoned ws t d) W.GUT_CNT_ABANDONED = min (fld d W.GUT_CNT_ABANDONED + 1) 65535 := by
  let d1 : Device := { d with log := { d.log with waiting := t, abandoned := some ws } }
  have hkeeps := takeLocation_self_keeps none d1
  obtain ⟨hrecords, hwaiting, habandoned⟩ := takeLocation_log none d1
  have hlog : (writeAbandoned ws t d).log = (takeLocation none d1).log := by
    rw [writeAbandoned, gutterSummary_log, addSat, setFld_log]
  have hword : getW (takeLocation none d1) W.GUT_CNT = getW d W.GUT_CNT := hkeeps.frame _ (by decide +kernel)
  have hcount : fld (takeLocation none d1) W.GUT_CNT_ABANDONED = fld d W.GUT_CNT_ABANDONED :=
    congrArg (fun w => bitsOf w 31 16) hword
  rw [hlog]
  refine ⟨habandoned, hwaiting, hrecords, ?_⟩
  rw [writeAbandoned, fld, getW_gutterSummary (by decide), ← fld,
    fld_addSat (hkeeps.canon hw) (by decide) (by decide) (by decide), hcount]
  rfl

theorem opGutterRewrite_abandoned {d : Device} {ws : List Word} (hon : tcuOn d = true) (h : d.log.abandoned = some ws) :
    opGutterRewrite d = raise 838 (commitRecord (rewritten ws) { d with log := { d.log with abandoned := none } }) := by
  simp [opGutterRewrite, hon, h]

theorem opGutterRewrite_idle {d : Device} (h : tcuOn d = false ∨ d.log.abandoned = none) : opGutterRewrite d = d := by
  unfold opGutterRewrite
  rcases h with h | h
  · split
    · rw [h, if_neg Bool.false_ne_true]
    · rfl
  · rw [h]

/-- R560: the abandoned record is written once more. -/
theorem gutterRewrite_post {d : Device} {ws : List Word} (hcanon : canonical d = true) :
    let e := raise 838 (commitRecord (rewritten ws) { d with log := { d.log with abandoned := none } })
    SMap.get (fun _ => []) e.log.records ((rewritten ws).getD 1 0#32).toNat = sealRecord (rewritten ws) ∧
    e.log.abandoned = none ∧ raised 838 d e = true := by
  intro e
  have hkeeps := commitRecord_self_keeps (rewritten ws) { d with log := { d.log with abandoned := none } }
  obtain ⟨hrecords, -, habandoned⟩ := commitRecord_log (rewritten ws) { d with log := { d.log with abandoned := none } }
  have hlog : e.log = (commitRecord (rewritten ws) { d with log := { d.log with abandoned := none } }).log :=
    (raise_self_keeps 838 _).log.resolve_right (by decide)
  rw [hlog]
  refine ⟨by rw [hrecords, get_set_eq (logStores_wf hcanon).1], habandoned, ?_⟩
  have henables : ∀ g, g < 28 → famTouch 0x18000000000000000000000000000000000000100000000 (W.EVT_EN + g) = false := by decide +kernel
  exact raised_raise (hkeeps.canon (canonical_iff.mp hcanon).1)
    (listens_congr (hkeeps.mode.resolve_right (by decide)) (fun g hg => hkeeps.frame _ (henables g hg)) 838)

/-! ### Erasing -/

/-- R546, R561: the block once sector `s` has been erased. -/
def sectorErased (s : Nat) (d : Device) : Device :=
  let x := sector d s
  let d := { (purlinWorks (bgBegin 3 d)) with log := { d.log with records := d.log.records.filter (fun p => !x.seqs.contains p.1) } }
  gutterSummary (wearSummary (setSector s
    { erases := x.erases + 1, used := 0, seqs := [], retired := decide (100000 ≤ x.erases + 1) } d))

theorem opSectorErase_worn {d : Device} {s : Nat} (hon : tcuOn d = true) (hmay : bgMay 3 d = true)
    (hmode : inMode d [.holdup, .descend] = false)
    (hworn : leastWorn (fun x => x.used ≠ 0 && x.seqs.all (supersededSeq d)) d = some s) : opSectorErase d = sectorErased s d := by
  simp only [opSectorErase, hon, hmay, hmode, Bool.not_false, Bool.and_self, if_true, hworn, sectorErased]

theorem opSectorErase_idle {d : Device} (h : tcuOn d = false ∨ bgMay 3 d = false ∨ inMode d [.holdup, .descend] = true ∨
    leastWorn (fun x => x.used ≠ 0 && x.seqs.all (supersededSeq d)) d = none) : opSectorErase d = d := by
  unfold opSectorErase
  rcases h with h | h | h | h
  · rw [if_neg (by simp [h])]
  · rw [if_neg (by simp [h])]
  · rw [if_neg (by simp [h])]
  · rw [h]
    exact ite_self d

theorem sectorErased_post {d : Device} {s : Nat} (hcanon : canonical d = true) :
    (sector (sectorErased s d) s).used = 0 ∧ (sector (sectorErased s d) s).erases = (sector d s).erases + 1 ∧
    (sector (sectorErased s d) s).retired = decide (100000 ≤ (sector d s).erases + 1) ∧
    (sectorErased s d).log.records = d.log.records.filter (fun p => !(sector d s).seqs.contains p.1) := by
  have hlog : (sectorErased s d).log = (setSector s
      { erases := (sector d s).erases + 1, used := 0, seqs := [], retired := decide (100000 ≤ (sector d s).erases + 1) }
      { d with log := { d.log with records := d.log.records.filter (fun p => !(sector d s).seqs.contains p.1) } }).log := by
    rw [sectorErased, gutterSummary_log, wearSummary_log]
    rfl
  have hsector : sector (sectorErased s d) s =
      { erases := (sector d s).erases + 1, used := 0, seqs := [], retired := decide (100000 ≤ (sector d s).erases + 1) } := by
    rw [sector, hlog]
    exact get_set_eq (logStores_wf hcanon).2
  rw [hsector, hlog]
  exact ⟨rfl, rfl, rfl, rfl⟩

/-! ### Reading (R562) -/

/-- R562: the buffer takes the words of a record. -/
def fillBuffer (ws : List Word) (d : Device) : Device := (List.range 64).foldl (fun d k => putWord d W.GUT_BUF_DATA (ws.getD k 0#32) k) d

theorem fillBuffer_step {ws : List Word} {n : Nat} {d : Device} (hw : wordsOk d.words = true) (hn : n ≤ 64) :
    let e := (List.range n).foldl (fun d k => putWord d W.GUT_BUF_DATA (ws.getD k 0#32) k) d
    wordsOk e.words = true ∧ (∀ k < n, getW e (W.GUT_BUF + k) = ws.getD k 0#32) ∧
    ∀ a, a < W.GUT_BUF → getW e a = getW d a := by
  induction n with
  | zero => exact ⟨hw, fun k hk => absurd hk (Nat.not_lt_zero k), fun _ _ => rfl⟩
  | succ n ih =>
    obtain ⟨hwords, hfilled, hbelow⟩ := ih (by omega)
    rw [List.range_succ, List.foldl_append, List.foldl_cons, List.foldl_nil]
    generalize (List.range n).foldl (fun d k => putWord d W.GUT_BUF_DATA (ws.getD k 0#32) k) d = e at *
    have hput : putWord e W.GUT_BUF_DATA (ws.getD n 0#32) n = setW e (W.GUT_BUF + n) (ws.getD n 0#32) := by
      rw [putWord, if_pos (by show n < 64; omega)]
      simp [W.GUT_BUF_DATA, W.GUT_BUF]
    rw [hput]
    refine ⟨wordsOk_setW hwords, fun k hk => ?_, fun a ha => ?_⟩
    · by_cases hkn : k = n
      · rw [hkn, getW_setW_eq hwords]
      · rw [getW_setW_ne (by omega), hfilled k (by omega)]
    · rw [getW_setW_ne (by omega), hbelow a ha]

theorem opGutBufFilled_found {d : Device} {ws : List Word} (hload : flag d W.GUT_BUF_STATUS_LOADING = true)
    (hget : SMap.get (fun _ => []) d.log.records (getW d W.GUT_SEL).toNat = ws) (hne : ws ≠ []) :
    opGutBufFilled d =
      setFlag (fillBuffer ws (setFlag d W.GUT_BUF_STATUS_LOADING false)) W.GUT_BUF_STATUS_FOUND true := by
  have hsel : getW (setFlag d W.GUT_BUF_STATUS_LOADING false) W.GUT_SEL = getW d W.GUT_SEL := getW_setFld_ne (by decide)
  simp [opGutBufFilled, fillBuffer, hload, hsel, hget, hne]

theorem opGutBufFilled_missing {d : Device} (hload : flag d W.GUT_BUF_STATUS_LOADING = true)
    (hget : SMap.get (fun _ => []) d.log.records (getW d W.GUT_SEL).toNat = []) :
    opGutBufFilled d = setFlag d W.GUT_BUF_STATUS_LOADING false := by
  have hsel : getW (setFlag d W.GUT_BUF_STATUS_LOADING false) W.GUT_SEL = getW d W.GUT_SEL := getW_setFld_ne (by decide)
  simp [opGutBufFilled, hload, hsel, hget]

theorem gutBufFilled_found {d : Device} {ws : List Word} (hw : wordsOk d.words = true) (k : Fin 64) :
    let e := setFlag (fillBuffer ws (setFlag d W.GUT_BUF_STATUS_LOADING false)) W.GUT_BUF_STATUS_FOUND true
    getW e (W.GUT_BUF + k) = ws.getD k 0#32 ∧ flag e W.GUT_BUF_STATUS_FOUND = true ∧ flag e W.GUT_BUF_STATUS_LOADING = false := by
  have hw1 : wordsOk (setFlag d W.GUT_BUF_STATUS_LOADING false).words = true := wordsOk_setFld hw
  obtain ⟨hwords, hfilled, hbelow⟩ := fillBuffer_step (ws := ws) hw1 (Nat.le_refl 64)
  intro e
  refine ⟨?_, flag_setFlag hwords (by decide) (by decide) (by decide), ?_⟩
  · exact (getW_setFld_ne (by simp only [W.GUT_BUF, W.GUT_BUF_STATUS_FOUND]; omega)).trans (hfilled k k.isLt)
  · have hkept : fld (fillBuffer ws (setFlag d W.GUT_BUF_STATUS_LOADING false)) W.GUT_BUF_STATUS_LOADING =
        fld (setFlag d W.GUT_BUF_STATUS_LOADING false) W.GUT_BUF_STATUS_LOADING := by
      rw [fld, fld]
      exact congrArg (fun w => bitsOf w 1 1) (hbelow _ (by decide))
    have hsame : flag e W.GUT_BUF_STATUS_LOADING = flag (fillBuffer ws (setFlag d W.GUT_BUF_STATUS_LOADING false))
        W.GUT_BUF_STATUS_LOADING := flag_setFld_ne hwords (by rfl) (by decide)
    rw [hsame, flag, hkept]
    exact flag_setFlag hw (by decide) (by decide) (by decide)

theorem gutBufFilled_missing {d : Device} (hw : wordsOk d.words = true) (k : Fin 64) :
    flag (setFlag d W.GUT_BUF_STATUS_LOADING false) W.GUT_BUF_STATUS_FOUND = flag d W.GUT_BUF_STATUS_FOUND ∧
    flag (setFlag d W.GUT_BUF_STATUS_LOADING false) W.GUT_BUF_STATUS_LOADING = false ∧
    getW (setFlag d W.GUT_BUF_STATUS_LOADING false) (W.GUT_BUF + k) = getW d (W.GUT_BUF + k) :=
  ⟨flag_setFld_ne hw (by rfl) (by decide), flag_setFlag hw (by decide) (by decide) (by decide),
    getW_setFld_ne (by simp only [W.GUT_BUF, W.GUT_BUF_STATUS_LOADING]; omega)⟩

/-- Settles O47: each row is one of the operations above, or does nothing. -/
theorem gutterLogComplete : Obligations.GutterLogComplete := by
  intro q d hcanon
  have hw := (canonical_iff.mp hcanon).1
  refine ⟨?_, ?_, ?_, ?_, ?_, ?_, ?_, ?_, ?_, ?_, ?_⟩
  · intro ws t hon hscan hfree hwaiting
    refine completes_gutterWrite ?_
    rw [opGutterWrite_oldest hon hscan hfree hwaiting]
    exact gutterWrite_post hcanon
  · exact fun h => completes_gutterWrite (opGutterWrite_idle h)
  · intro ws t hon hscan hfree hreserve hwaiting
    refine completes_gutAbandoned ?_
    rw [opGutAbandoned_oldest hon hscan hfree hreserve hwaiting]
    exact writeAbandoned_post hw
  · exact fun h => completes_gutAbandoned (opGutAbandoned_idle h)
  · intro ws hon habandoned
    refine completes_gutterRewrite ?_
    rw [opGutterRewrite_abandoned hon habandoned]
    exact gutterRewrite_post hcanon
  · exact fun h => completes_gutterRewrite (opGutterRewrite_idle h)
  · intro s hon hmay hmode hworn
    refine completes_sectorErase ?_
    rw [opSectorErase_worn hon hmay hmode hworn]
    exact sectorErased_post hcanon
  · exact fun h => completes_sectorErase (opSectorErase_idle h)
  · intro k hload hrecord
    refine completes_gutBufFilled ?_
    rw [opGutBufFilled_found hload rfl hrecord]
    exact gutBufFilled_found hw k
  · intro k hload hrecord
    refine completes_gutBufFilled ?_
    rw [opGutBufFilled_missing hload hrecord]
    exact gutBufFilled_missing hw k
  · exact fun hload => completes_gutBufFilled (if_pos (by rw [hload]; rfl))

end Sys2Proof.Machine
end

section
/-! # The comparisons of a replay (O49) -/

set_option Elab.async false

namespace Sys2Proof.Machine

/-- R576: a replay is in progress. -/
def replaying (d : Device) : Bool := d.mode = .replay && (rplState d = 1 || rplState d = 2)

theorem replaying_iff {d : Device} : replaying d = true ↔ d.mode = .replay ∧ (rplState d = 1 ∨ rplState d = 2) := by
  simp [replaying]

theorem not_replaying_of {d : Device} (h : d.mode ≠ .replay ∨ (rplState d ≠ 1 ∧ rplState d ≠ 2)) : replaying d = false := by
  rw [Bool.eq_false_iff, Ne, replaying_iff]
  rintro ⟨hmode, hstate⟩
  rcases h with h | ⟨h1, h2⟩
  · exact h hmode
  · exact hstate.elim h1 h2

theorem completes_replayDigest {same interval sub : Bool} {cycle : BitVec 64} {q : List Instr} {d : Device} {post : Device → Prop}
    (h : post (opReplayDigest same interval cycle.toNat sub d)) :
    Completes (.replayDigest same interval cycle sub) q d common (eventsWith [W.RPL_STATUS, W.RPL_DIV]) post :=
  (keeps_replayDigest same interval cycle sub _).completes rfl (by decide) (by decide) (by decide +kernel) h

theorem completes_rplDone {q : List Instr} {d : Device} {post : Device → Prop} (h : post (opRplDone d)) :
    Completes .rplDone q d common (eventsWith [W.RPL_STATUS]) post :=
  (keeps_rplDone _).completes rfl (by decide) (by decide) (by decide +kernel) h

/-! ### The digest compared -/

theorem opReplayDigest_same {interval sub : Bool} {cycle : Nat} {d : Device} (h : replaying d = true) :
    opReplayDigest true interval cycle sub d =
      if interval then addSat (setFld d W.RPL_STATUS_RPL_STATE 2) W.RPL_STATUS_INTERVALS 1 else setFld d W.RPL_STATUS_RPL_STATE 2 := by
  unfold replaying at h
  simp [opReplayDigest, h]

/-- R578: the words of a mismatch. -/
def divergence (cycle : Nat) (d : Device) : Device :=
  setW (setW (setFld d W.RPL_STATUS_RPL_STATE 2) W.RPL_DIV (lowW cycle)) (W.RPL_DIV + 1) (highW cycle)

theorem opReplayDigest_differs {interval sub : Bool} {cycle : Nat} {d : Device} (h : replaying d = true) :
    opReplayDigest false interval cycle sub d =
      raise 837 (setFlag (setFld (divergence cycle d) W.RPL_STATUS_RPL_STATE 3) W.RPL_STATUS_INPUT_SUB sub) := by
  unfold replaying at h
  simp [opReplayDigest, divergence, h]

theorem opReplayDigest_idle {same interval sub : Bool} {cycle : Nat} {d : Device} (h : replaying d = false) :
    opReplayDigest same interval cycle sub d = d := by
  unfold replaying at h
  simp [opReplayDigest, h]

theorem opRplDone_running {d : Device} (h : replaying d = true) :
    opRplDone d = raise 836 (setFld d W.RPL_STATUS_RPL_STATE 4) := by
  unfold replaying at h
  simp [opRplDone, h]

theorem opRplDone_idle {d : Device} (h : replaying d = false) : opRplDone d = d := by
  unfold replaying at h
  simp [opRplDone, h]

theorem rplState_setFld {d : Device} {v : Nat} (h : wordsOk d.words = true) (hv : v < 16) :
    rplState (setFld d W.RPL_STATUS_RPL_STATE v) = v :=
  (fld_setFld h (by decide) (by decide) (by decide)).trans (Nat.mod_eq_of_lt hv)

/-- R578: an agreement moves the replay on, and at the end of an interval counts it. -/
theorem replayDigest_same {interval sub : Bool} {cycle : Nat} {d : Device} (h : replaying d = true) (hw : wordsOk d.words = true) :
    rplState (opReplayDigest true interval cycle sub d) = 2 ∧
    fld (opReplayDigest true interval cycle sub d) W.RPL_STATUS_INTERVALS =
      (if interval then min (fld d W.RPL_STATUS_INTERVALS + 1) 65535 else fld d W.RPL_STATUS_INTERVALS) ∧
    (opReplayDigest true interval cycle sub d).log = d.log := by
  have hw1 : wordsOk (setFld d W.RPL_STATUS_RPL_STATE 2).words = true := wordsOk_setFld hw
  have hcount : fld (setFld d W.RPL_STATUS_RPL_STATE 2) W.RPL_STATUS_INTERVALS = fld d W.RPL_STATUS_INTERVALS :=
    fld_setFld_ne hw rfl (by decide)
  rw [opReplayDigest_same h]
  cases interval with
  | false =>
    simp only [Bool.false_eq_true, if_false]
    exact ⟨rplState_setFld hw (by decide), hcount, setFld_log ..⟩
  | true =>
    simp only [if_true]
    refine ⟨?_, ?_, ?_⟩
    · rw [rplState, addSat, fld_setFld_ne hw1 (by rfl) (by decide)]
      exact rplState_setFld hw (by decide)
    · rw [fld_addSat hw1 (by decide) (by decide) (by decide), hcount]
      rfl
    · rw [addSat, setFld_log, setFld_log]

/-- R578: a mismatch ends the replay with its cycle recorded. -/
theorem replayDigest_differs {interval sub : Bool} {cycle : BitVec 64} {d : Device} (h : replaying d = true)
    (hw : wordsOk d.words = true) :
    rplState (opReplayDigest false interval cycle.toNat sub d) = 3 ∧
    getW (opReplayDigest false interval cycle.toNat sub d) W.RPL_DIV = BitVec.ofNat 32 (cycle.toNat % 2 ^ 32) ∧
    getW (opReplayDigest false interval cycle.toNat sub d) (W.RPL_DIV + 1) = BitVec.ofNat 32 (cycle.toNat / 2 ^ 32) ∧
    flag (opReplayDigest false interval cycle.toNat sub d) W.RPL_STATUS_INPUT_SUB = sub ∧
    raised 837 d (opReplayDigest false interval cycle.toNat sub d) = true := by
  have hw0 : wordsOk (setW (setFld d W.RPL_STATUS_RPL_STATE 2) W.RPL_DIV (lowW cycle.toNat)).words = true :=
    wordsOk_setW (wordsOk_setFld hw)
  have hw1 : wordsOk (divergence cycle.toNat d).words = true := wordsOk_setW hw0
  have hw2 : wordsOk (setFld (divergence cycle.toNat d) W.RPL_STATUS_RPL_STATE 3).words = true := wordsOk_setFld hw1
  rw [opReplayDigest_differs h]
  refine ⟨?_, ?_, ?_, ?_, ?_⟩
  · rw [rplState, fld_raise (by decide +kernel), setFlag, fld_setFld_ne hw2 (by rfl) (by decide)]
    exact rplState_setFld hw1 (by decide)
  · rw [getW_raise (by decide +kernel), setFlag, getW_setFld_ne (by decide), getW_setFld_ne (by decide), divergence,
      getW_setW_ne (by decide), getW_setW_eq (wordsOk_setFld hw)]
    exact BitVec.eq_of_toNat_eq (by simp [lowW])
  · rw [getW_raise (by decide +kernel), setFlag, getW_setFld_ne (by decide), getW_setFld_ne (by decide), divergence, getW_setW_eq hw0]
    rfl
  · rw [flag_raise (by decide +kernel), flag_setFlag hw2 (by decide) (by decide) (by decide)]
  · refine raised_raise (wordsOk_setFld hw2) (listens_congr ?_ (fun g hg => ?_) 837)
    · simp [setFlag, divergence]
    · rw [setFlag, getW_setFld_ne, getW_setFld_ne, divergence, getW_setW_ne, getW_setW_ne, getW_setFld_ne] <;>
        simp only [W.EVT_EN, W.RPL_DIV, W.RPL_STATUS_RPL_STATE, W.RPL_STATUS_INPUT_SUB] <;> omega

/-- R578: the stream's end without a mismatch. -/
theorem rplDone_running {d : Device} (h : replaying d = true) (hw : wordsOk d.words = true) :
    rplState (opRplDone d) = 4 ∧ raised 836 d (opRplDone d) = true ∧ (opRplDone d).mode = d.mode := by
  rw [opRplDone_running h]
  refine ⟨?_, ?_, ?_⟩
  · rw [rplState, fld_raise (by decide +kernel)]
    exact rplState_setFld hw (by decide)
  · refine raised_raise (wordsOk_setFld hw) (listens_congr (setFld_mode ..) (fun g hg => ?_) 836)
    exact getW_setFld_ne (by simp only [W.EVT_EN, W.RPL_STATUS_RPL_STATE]; omega)
  · exact ((raise_self_keeps _ _).mode.resolve_right (by decide)).trans (setFld_mode ..)

/-- Settles O49: the words are those that `opReplayDigest` and `opRplDone` write, and a raise leaves them. -/
theorem replayComplete : Obligations.ReplayComplete := by
  intro q d hcanon
  have hw := (canonical_iff.mp hcanon).1
  refine ⟨?_, ?_, ?_, ?_, ?_⟩
  · rintro same interval cycle sub hmode hstate rfl
    exact completes_replayDigest (replayDigest_same (replaying_iff.mpr ⟨hmode, hstate⟩) hw)
  · rintro same interval cycle sub hmode hstate rfl
    exact completes_replayDigest (replayDigest_differs (replaying_iff.mpr ⟨hmode, hstate⟩) hw)
  · intro same interval cycle sub h
    exact completes_replayDigest (opReplayDigest_idle (not_replaying_of h))
  · intro hmode hstate
    obtain ⟨hdone, hraised, hkept⟩ := rplDone_running (replaying_iff.mpr ⟨hmode, hstate⟩) hw
    exact completes_rplDone ⟨hdone, hraised, hkept.trans hmode⟩
  · intro h
    exact completes_rplDone (opRplDone_idle (not_replaying_of h))

end Sys2Proof.Machine
end

section
/-! # The reference of the PLL and the check of CK_LPO (O51) -/

set_option Elab.async false

namespace Sys2Proof.Machine

/-! ### The rows and their frames -/

theorem completes_xtalOk {q : List Instr} {d : Device} {post : Device → Prop} (h : post (opXtalOk d)) :
    Completes .xtalOk q d [.words] (some [W.CLK_STATUS]) post :=
  (keeps_xtalOk _).completes rfl (by decide) (by decide) (by decide +kernel) h

theorem completes_refLost {q : List Instr} {d : Device} {post : Device → Prop} (h : post (opRefLost d)) :
    Completes .refLost q d (commonWith [.core]) (eventsWith [W.CLK_STATUS]) post :=
  (keeps_refLost _).completes rfl (by decide) (by decide) (by decide +kernel) h

theorem completes_refRestored {q : List Instr} {d : Device} {post : Device → Prop} (h : post (opRefRestored d)) :
    Completes .refRestored q d (commonWith [.core]) (eventsWith [W.CLK_STATUS]) post :=
  (keeps_refRestored _).completes rfl (by decide) (by decide) (by decide +kernel) h

theorem completes_pllLoss {q : List Instr} {d : Device} {post : Device → Prop} (h : post (opPllLoss d)) :
    Completes .pllLoss q d [.words, .core, .rails] (some [W.CLK_STATUS]) post :=
  (keeps_pllLoss _).completes rfl (by decide) (by decide) (by decide +kernel) h

theorem completes_lpoFault {q : List Instr} {d : Device} {post : Device → Prop} (h : post (opLpoFault d)) :
    Completes .lpoFault q d common (eventsWith [W.CLK_STATUS]) post :=
  (keeps_lpoFault _).completes rfl (by decide) (by decide) (by decide +kernel) h

theorem completes_lpoBadClear {q : List Instr} {d : Device} {post : Device → Prop} (h : post (opLpoBadClear d)) :
    Completes .lpoBadClear q d [.words] (some [W.CLK_STATUS]) post :=
  (keeps_lpoBadClear _).completes rfl (by decide) (by decide) (by decide +kernel) h

/-! ### The reference -/

/-- R593: the PLL runs from the reference that REF_SEL names. -/
theorem takeReference_fields {d : Device} (hw : wordsOk d.words = true) :
    flag (takeReference d) W.CLK_STATUS_XTAL_OK = true ∧
    fld (takeReference d) W.CLK_STATUS_REF_ACTIVE = fld d W.CLK_CFG_REF_SEL := by
  have hw1 : wordsOk (setFlag d W.CLK_STATUS_XTAL_OK true).words = true := wordsOk_setFld hw
  have hsel : fld d W.CLK_CFG_REF_SEL < 4 := fld_lt
  unfold takeReference
  constructor
  · rw [flag_setFld_ne hw1 (by rfl) (by decide), flag_setFlag hw (by decide) (by decide) (by decide)]
  · rw [fld_setFld hw1 (by decide) (by decide) (by decide)]
    exact Nat.mod_eq_of_lt hsel

theorem opXtalOk_taken {d : Device} (hruns : pllRuns d = true) (hsel : fld d W.CLK_CFG_REF_SEL ≠ 0)
    (hidle : fld d W.CLK_STATUS_REF_ACTIVE = 0) (hstage : 3 ≤ bootStage d) (hlost : d.core.refLost = false) :
    opXtalOk d = takeReference d := by simp [opXtalOk, hruns, hsel, hidle, hstage, hlost]

theorem opXtalOk_idle {d : Device} (h : pllRuns d = false ∨ fld d W.CLK_CFG_REF_SEL = 0 ∨ fld d W.CLK_STATUS_REF_ACTIVE ≠ 0 ∨
    bootStage d < 3 ∨ d.core.refLost = true) : opXtalOk d = d := by
  unfold opXtalOk
  rw [if_neg]
  simp only [Bool.and_eq_true, decide_eq_true_eq, Bool.not_eq_true']
  rintro ⟨⟨⟨⟨hruns, hsel⟩, hidle⟩, hstage⟩, hlost⟩
  rcases h with h | h | h | h | h
  · exact Bool.false_ne_true (h.symm.trans hruns)
  · exact hsel h
  · exact h hidle
  · omega
  · exact Bool.false_ne_true (hlost.symm.trans h)

/-- R595: the words of the active reference once the internal oscillator has taken over. -/
def referenceInactive (d : Device) : Device := setFlag (setFld d W.CLK_STATUS_REF_ACTIVE 0) W.CLK_STATUS_XTAL_OK false

/-- R595: the same block with the loss noted. -/
def lossNoted (d : Device) : Device := { d with core := { d.core with refLost := true } }

/-- R595: the block once the internal oscillator has taken over. -/
def referenceLeft (d : Device) : Device := setFlag (lossNoted (referenceInactive d)) W.CLK_STATUS_REF_LOST true

/-- R595: the block once the reference has been taken back. -/
def referenceBack (d : Device) : Device := takeReference { d with core := { d.core with refLost := false } }

theorem opRefLost_lost {d : Device} (hruns : pllRuns d = true) (hactive : fld d W.CLK_STATUS_REF_ACTIVE ≠ 0) :
    opRefLost d = raise 755 (referenceLeft d) := by
  simp only [opRefLost, hruns, hactive, ne_eq, not_false_eq_true, decide_true, Bool.and_self, if_true]
  rfl

theorem opRefLost_idle {d : Device} (h : pllRuns d = false ∨ fld d W.CLK_STATUS_REF_ACTIVE = 0) : opRefLost d = d := by
  rcases h with h | h <;> simp [opRefLost, h]

theorem opRefRestored_back {d : Device} (hruns : pllRuns d = true) (hlost : d.core.refLost = true)
    (hauto : flag d W.CLK_CFG_REF_AUTO = true) (hsel : fld d W.CLK_CFG_REF_SEL ≠ 0) :
    opRefRestored d = raise 756 (referenceBack d) := by simp [opRefRestored, referenceBack, hruns, hlost, hauto, hsel]

theorem opRefRestored_idle {d : Device} (h : pllRuns d = false ∨ d.core.refLost = false ∨ flag d W.CLK_CFG_REF_AUTO = false ∨
    fld d W.CLK_CFG_REF_SEL = 0) : opRefRestored d = d := by
  rcases h with h | h | h | h <;> simp [opRefRestored, h]

/-- A raise leaves the words of page 0x1C and the clocks. -/
theorem clock_raise (s : Nat) (d : Device) :
    getW (raise s d) W.CLK_STATUS = getW d W.CLK_STATUS ∧ (raise s d).core = d.core :=
  ⟨getW_raise (by decide +kernel), (raise_self_keeps s d).core.resolve_right (by decide)⟩

/-- CLK_STATUS holds no source's enable. -/
theorem listens_setClkStatus {d e : Device} {f : Fld} {v : Nat} (hf : f.base + f.stride * 0 = W.CLK_STATUS) {s : Nat}
    (h : listens e s = listens d s) : listens (setFld e f v) s = listens d s := by
  refine (listens_congr (setFld_mode ..) (fun g hg => getW_setFld_ne ?_) s).trans h
  rw [hf]
  simp only [W.EVT_EN, W.CLK_STATUS]
  omega

/-- The note of the loss touches no word. -/
theorem lossNoted_words {d : Device} : (∀ f : Fld, fld (lossNoted d) f = fld d f) ∧ (∀ f : Fld, flag (lossNoted d) f = flag d f) :=
  ⟨fun _ => rfl, fun _ => rfl⟩

theorem referenceInactive_fields {d : Device} (hw : wordsOk d.words = true) :
    wordsOk (referenceInactive d).words = true ∧ fld (referenceInactive d) W.CLK_STATUS_REF_ACTIVE = 0 ∧
    flag (referenceInactive d) W.CLK_STATUS_XTAL_OK = false ∧
    flag (referenceInactive d) W.CLK_STATUS_PLL_LOCKED = flag d W.CLK_STATUS_PLL_LOCKED := by
  have hw1 : wordsOk (setFld d W.CLK_STATUS_REF_ACTIVE 0).words = true := wordsOk_setFld hw
  unfold referenceInactive
  refine ⟨wordsOk_setFld hw1, ?_, ?_, ?_⟩
  · rw [setFlag, fld_setFld_ne hw1 (by rfl) (by decide), fld_setFld hw (by decide) (by decide) (by decide)]
    rfl
  · rw [flag_setFlag hw1 (by decide) (by decide) (by decide)]
  · rw [setFlag, flag_setFld_ne hw1 (by rfl) (by decide), flag_setFld_ne hw (by rfl) (by decide)]

theorem refLost_post {d : Device} (hw : wordsOk d.words = true) (hruns : pllRuns d = true) :
    fld (raise 755 (referenceLeft d)) W.CLK_STATUS_REF_ACTIVE = 0 ∧
    flag (raise 755 (referenceLeft d)) W.CLK_STATUS_XTAL_OK = false ∧
    flag (raise 755 (referenceLeft d)) W.CLK_STATUS_REF_LOST = true ∧
    (raise 755 (referenceLeft d)).core.refLost = true ∧
    raised 755 d (raise 755 (referenceLeft d)) = true ∧
    flag (raise 755 (referenceLeft d)) W.CLK_STATUS_PLL_LOCKED = true := by
  have hlocked : flag d W.CLK_STATUS_PLL_LOCKED = true := by
    simp only [pllRuns, Bool.and_eq_true] at hruns
    exact hruns.1.1.1
  obtain ⟨hw2, hactive, hxtal, hpll⟩ := referenceInactive_fields hw
  have hw3 : wordsOk (lossNoted (referenceInactive d)).words = true := hw2
  obtain ⟨hfld, hflag⟩ := lossNoted_words (d := referenceInactive d)
  refine ⟨?_, ?_, ?_, ?_, ?_, ?_⟩
  · rw [fld_raise (by decide +kernel), referenceLeft, setFlag, fld_setFld_ne hw3 (by rfl) (by decide), hfld, hactive]
  · rw [flag_raise (by decide +kernel), referenceLeft, setFlag, flag_setFld_ne hw3 (by rfl) (by decide), hflag, hxtal]
  · rw [flag_raise (by decide +kernel), referenceLeft, flag_setFlag hw3 (by decide) (by decide) (by decide)]
  · rw [(clock_raise _ _).2, referenceLeft, setFlag, setFld_core]
    rfl
  · refine raised_raise (wordsOk_setFld hw3) (listens_setClkStatus rfl ?_)
    exact listens_setClkStatus (e := setFld d W.CLK_STATUS_REF_ACTIVE 0) rfl (listens_setClkStatus rfl rfl)
  · rw [flag_raise (by decide +kernel), referenceLeft, setFlag, flag_setFld_ne hw3 (by rfl) (by decide), hflag, hpll, hlocked]

theorem refRestored_post {d : Device} (hw : wordsOk d.words = true) :
    fld (raise 756 (referenceBack d)) W.CLK_STATUS_REF_ACTIVE = fld d W.CLK_CFG_REF_SEL ∧
    flag (raise 756 (referenceBack d)) W.CLK_STATUS_XTAL_OK = true ∧
    (raise 756 (referenceBack d)).core.refLost = false ∧
    raised 756 d (raise 756 (referenceBack d)) = true := by
  have hw0 : wordsOk ({ d with core := { d.core with refLost := false } } : Device).words = true := hw
  obtain ⟨hok, hactive⟩ := takeReference_fields hw0
  refine ⟨?_, ?_, ?_, ?_⟩
  · rw [fld_raise (by decide +kernel)]
    exact hactive
  · rw [flag_raise (by decide +kernel)]
    exact hok
  · rw [(clock_raise _ _).2, referenceBack, takeReference, setFlag, setFld_core, setFld_core]
  · exact raised_raise (wordsOk_setFld (wordsOk_setFld hw0)) (listens_setClkStatus rfl (listens_setClkStatus rfl rfl))

/-! ### The loss of the PLL -/

/-- A store filled number by number reads what was stored. -/
theorem get_foldl_set {α : Type} [DecidableEq α] {dflt f : Nat → α} {n k : Nat} (hk : k < n) :
    SMap.get dflt ((List.range n).foldl (fun m i => SMap.set dflt i (f i) m) []) k = f k := by
  have hwf : ∀ n, SMap.wf dflt ((List.range n).foldl (fun m i => SMap.set dflt i (f i) m) []) = true := by
    intro n
    induction n with
    | zero => rfl
    | succ n ih =>
      rw [List.range_succ, List.foldl_append]
      exact wf_set ih
  induction n with
  | zero => omega
  | succ n ih =>
    rw [List.range_succ, List.foldl_append, List.foldl_cons, List.foldl_nil]
    by_cases hkn : k = n
    · rw [hkn, get_set_eq (hwf n)]
    · rw [get_set_ne hkn, ih (by omega)]

theorem heldRail_enabled {d : Device} {n : Nat} :
    (heldRail d n).enabled = (rail d n).enabled ∧ (heldRail d n).held = (rail d n).enabled := by
  unfold heldRail
  dsimp only
  split
  next h => exact ⟨h.symm, h.symm⟩
  next h =>
    rw [Bool.not_eq_true] at h
    exact ⟨h.symm, h.symm⟩

/-- R43: the keeper goes on holding what it holds, or else takes the mode and every rail. -/
theorem keeperFreeze_cases (d : Device) :
    ((flag d W.MODE_STATUS_ADOPTING = true ∨ d.core.clocksOff = true) ∧ keeperFreeze d = d) ∨
    ((keeperFreeze d).core.recMode = d.mode ∧
      (keeperFreeze d).rails = (List.range 32).foldl (fun m n => SMap.set (fun _ => ({} : Rail)) n (heldRail d n) m) []) := by
  unfold keeperFreeze
  by_cases h : (flag d W.MODE_STATUS_ADOPTING || d.core.clocksOff) = true
  · rw [if_pos h]
    exact .inl ⟨by simpa using h, rfl⟩
  · rw [if_neg h]
    exact .inr ⟨rfl, by dsimp only⟩

theorem keeperFreeze_words (d : Device) : (keeperFreeze d).words = d.words ∧ (keeperFreeze d).roofTime = d.roofTime := by
  unfold keeperFreeze
  split <;> exact ⟨rfl, rfl⟩

theorem opPllLoss_idle {d : Device} (h : flag d W.CLK_STATUS_PLL_LOCKED = false ∨ inMode d [.dormant, .standby] = true ∨
    d.core.porHeld = true ∨ d.core.hardHeld = true) : opPllLoss d = d := by
  rcases h with h | h | h | h <;> simp [opPllLoss, h]

/-- R596: the words and the clocks once the PLL is lost. -/
def clocksStopped (d : Device) : Device :=
  let d := setFlag (setFlag d W.CLK_STATUS_PLL_LOCKED false) W.CLK_STATUS_PLL_LOSS true
  { d with core := { d.core with clocksOff := true, pllLost := true } }

theorem opPllLoss_lost {d : Device} (hlocked : flag d W.CLK_STATUS_PLL_LOCKED = true) (hmode : inMode d [.dormant, .standby] = false)
    (hpor : d.core.porHeld = false) (hhard : d.core.hardHeld = false) : opPllLoss d = clocksStopped (keeperFreeze d) := by
  simp [opPllLoss, clocksStopped, hlocked, hmode, hpor, hhard]

theorem clocksStopped_fields {d : Device} (hw : wordsOk d.words = true) :
    flag (clocksStopped d) W.CLK_STATUS_PLL_LOCKED = false ∧ flag (clocksStopped d) W.CLK_STATUS_PLL_LOSS = true := by
  have hw1 : wordsOk (setFlag d W.CLK_STATUS_PLL_LOCKED false).words = true := wordsOk_setFld hw
  have hflag : ∀ f, flag (clocksStopped d) f =
      flag (setFlag (setFlag d W.CLK_STATUS_PLL_LOCKED false) W.CLK_STATUS_PLL_LOSS true) f := fun _ => rfl
  rw [hflag, hflag]
  constructor
  · rw [setFlag, flag_setFld_ne hw1 (by rfl) (by decide), flag_setFlag hw (by decide) (by decide) (by decide)]
  · rw [flag_setFlag hw1 (by decide) (by decide) (by decide)]

theorem clocksStopped_rail {d : Device} {n : Nat} : rail (clocksStopped d) n = rail d n := by
  simp [clocksStopped, rail, setFlag]

theorem clocksStopped_core {d : Device} : (clocksStopped d).core = { d.core with clocksOff := true, pllLost := true } := by
  simp [clocksStopped, setFlag]

theorem pllLoss_post {d : Device} (hw : wordsOk d.words = true) (n : Fin 32) :
    flag (clocksStopped (keeperFreeze d)) W.CLK_STATUS_PLL_LOCKED = false ∧
    flag (clocksStopped (keeperFreeze d)) W.CLK_STATUS_PLL_LOSS = true ∧
    (clocksStopped (keeperFreeze d)).core.clocksOff = true ∧
    (flag d W.MODE_STATUS_ADOPTING = true ∨ d.core.clocksOff = true ∨ (clocksStopped (keeperFreeze d)).core.recMode = d.mode) ∧
    (rail (clocksStopped (keeperFreeze d)) n).enabled = (rail d n).enabled ∧
    (flag d W.MODE_STATUS_ADOPTING = true ∨ d.core.clocksOff = true ∨
      (rail (clocksStopped (keeperFreeze d)) n).held = (rail d n).enabled) ∧
    (clocksStopped (keeperFreeze d)).roofTime = d.roofTime := by
  obtain ⟨hwords, htime⟩ := keeperFreeze_words d
  obtain ⟨hlocked, hloss⟩ := clocksStopped_fields (d := keeperFreeze d) (by rwa [hwords])
  have hroof : (clocksStopped (keeperFreeze d)).roofTime = d.roofTime := by simp [clocksStopped, setFlag, htime]
  rw [clocksStopped_rail, clocksStopped_core]
  rcases keeperFreeze_cases d with ⟨hheld, hsame⟩ | ⟨hrec, hrails⟩
  · rw [hsame] at hlocked hloss hroof ⊢
    exact ⟨hlocked, hloss, rfl, or_assoc.mp (.inl hheld), rfl, or_assoc.mp (.inl hheld), hroof⟩
  · rw [rail, hrails, get_foldl_set n.isLt]
    exact ⟨hlocked, hloss, rfl, .inr (.inr hrec), heldRail_enabled.1, .inr (.inr heldRail_enabled.2), hroof⟩

/-! ### CK_LPO -/

theorem opLpoFault_runs {d : Device} (h : pllRuns d = true) : opLpoFault d = raise 758 (setFlag d W.CLK_STATUS_LPO_BAD true) :=
  if_pos h

theorem opLpoBadClear_runs {d : Device} (h : pllRuns d = true) : opLpoBadClear d = setFlag d W.CLK_STATUS_LPO_BAD false := if_pos h

theorem lpoFault_post {d : Device} (hw : wordsOk d.words = true) :
    flag (raise 758 (setFlag d W.CLK_STATUS_LPO_BAD true)) W.CLK_STATUS_LPO_BAD = true ∧
    raised 758 d (raise 758 (setFlag d W.CLK_STATUS_LPO_BAD true)) = true :=
  ⟨by rw [flag_raise (by decide +kernel), flag_setFlag hw (by decide) (by decide) (by decide)],
    raised_raise (wordsOk_setFld hw) (listens_setClkStatus rfl rfl)⟩

/-- Settles O51: every field named is one of CLK_STATUS, which a raise leaves; the rails of a lost PLL are those of the keeper. -/
theorem clocksComplete : Obligations.ClocksComplete := by
  intro q d hcanon
  have hw := (canonical_iff.mp hcanon).1
  refine ⟨?_, ?_, ?_, ?_, ?_, ?_, ?_, ?_, ?_, ?_, ?_, ?_⟩
  · intro hruns hsel hidle hstage hlost
    refine completes_xtalOk ?_
    rw [opXtalOk_taken hruns hsel hidle hstage hlost]
    exact takeReference_fields hw
  · exact fun h => completes_xtalOk (opXtalOk_idle h)
  · intro hruns hactive
    refine completes_refLost ?_
    rw [opRefLost_lost hruns hactive]
    exact refLost_post hw hruns
  · exact fun h => completes_refLost (opRefLost_idle h)
  · intro hruns hlost hauto hsel
    refine completes_refRestored ?_
    rw [opRefRestored_back hruns hlost hauto hsel]
    exact refRestored_post hw
  · exact fun h => completes_refRestored (opRefRestored_idle h)
  · intro n hlocked hmode hpor hhard
    refine completes_pllLoss ?_
    rw [opPllLoss_lost hlocked hmode hpor hhard]
    exact pllLoss_post hw n
  · exact fun h => completes_pllLoss (opPllLoss_idle h)
  · intro hruns
    refine completes_lpoFault ?_
    rw [opLpoFault_runs hruns]
    exact lpoFault_post hw
  · exact fun h => completes_lpoFault (if_neg (by simp [h]))
  · intro hruns
    refine completes_lpoBadClear ?_
    have hlocked : flag d W.CLK_STATUS_PLL_LOCKED = true := by
      simp only [pllRuns, Bool.and_eq_true] at hruns
      exact hruns.1.1.1
    rw [opLpoBadClear_runs hruns]
    refine ⟨flag_setFlag hw (by decide) (by decide) (by decide), ?_⟩
    rw [setFlag, flag_setFld_ne hw (by rfl) (by decide)]
    exact hlocked
  · exact fun h => completes_lpoBadClear (if_neg (by simp [h]))

end Sys2Proof.Machine
end

section
/-! # Commands of Purlin with a FENCE_ALL of Purlin due (O10, O11, O34, O37, O38, O39, O41, O50)

R397 gives a completion of a packet of Purlin to that core, which keeps the last one. R404 completes a FENCE_ALL that waits for nothing
behind the next completion. `reply` excuses a completion of Purlin behind which a FENCE completes, and not one behind which a FENCE_ALL
does: in the block `fenceAllDue`, which is canonical, a clause that states the reply of a packet of Purlin fails. -/

set_option Elab.async false

namespace Sys2Proof.Machine

theorem completeOne_fall {c : Cmd} {d : Device} {cyc : Nat} {st : Status} {w1 w2 w3 : Word} :
    (completeOne c d cyc st w1 w2 w3).eng.fall = d.eng.fall := completeOne_eng.2.2

theorem completeOne_canonical {c : Cmd} {d : Device} {cyc : Nat} {st : Status} {w1 w2 w3 : Word} (h : canonical d = true) :
    canonical (completeOne c d cyc st w1 w2 w3) = true :=
  (completeOne_keeps (Within.refl _) (Within.refl _) (Keeps.refl _ _ d)).canonicalAfter h

/-- R404: where a FENCE_ALL of Purlin that waits for nothing is all that a completion leaves in progress, it completes behind it, and
its OK is the completion that Purlin is given last. -/
theorem fenceAll_returned_last {c : Cmd} {d : Device} {cyc : Nat} {st : Status} {w1 w2 : Word} (hcanon : canonical d = true)
    (hleft : d.eng.issued.filter (fun x => x.id != c.id) = [purlinFenceAll])
    (hfall : d.eng.fall = some { id := 0, queue := 18, set := [] }) :
    returned purlinFenceAll .ok 0#32 0#32 (complete c d cyc st w1 w2) = true := by
  unfold complete completeWith
  dsimp only
  generalize hw : lowW (d.roofTime + cyc) = w3
  have hcanon1 : canonical (completeOne c d cyc st w1 w2 w3) = true := completeOne_canonical hcanon
  have hissued : (completeOne c d cyc st w1 w2 w3).eng.issued = [purlinFenceAll] := completeOne_issued.trans hleft
  have hfall1 := (completeOne_fall (c := c) (d := d) (cyc := cyc) (st := st) (w1 := w1) (w2 := w2) (w3 := w3)).trans hfall
  generalize completeOne c d cyc st w1 w2 w3 = e at hcanon1 hissued hfall1
  have hdone : fenceDone e purlinFenceAll = true := by simp [fenceDone, hfall1, purlinFenceAll]
  have hfind : e.eng.issued.find? (fenceDone e) = some purlinFenceAll := by rw [hissued, List.find?_cons_of_pos hdone]
  rw [hissued]
  simp only [List.length_singleton, settleFences, hfind]
  show returned purlinFenceAll .ok 0#32 0#32 (completeOne purlinFenceAll { e with eng := { e.eng with fall := none } } cyc .ok 0#32
    0#32 (lowW (e.roofTime + cyc))) = true
  obtain ⟨b, hb, hq⟩ := completeOne_posted (c := purlinFenceAll) (d := { e with eng := { e.eng with fall := none } }) (cyc := cyc)
    (st := .ok) (w1 := 0#32) (w2 := 0#32) (w3 := lowW (e.roofTime + cyc)) rfl
  have hcore : SMap.wf (fun _ => ([] : List Word)) e.eng.coreDone = true := by
    have hok := (canonical_iff.mp hcanon1).2.eng
    simp only [engOk, Bool.and_eq_true] at hok
    exact hok.2
  rw [returned, hq.coreDone, hb.coreDone, if_neg (by decide), get_set_eq hcore]
  exact beq_self_eq_true _

theorem begun_fenceAllDue_canonical : canonical (begun fenceAllDue) = true := by decide

/-- R397, R404: in the block `fenceAllDue` the completion of a row of Purlin, whose entry differs from that of the FENCE_ALL, is not the
one that Purlin is given last; and no FENCE stands that would excuse it. -/
theorem row_not_answered {op : Nat} {ps : List Word} {env : List Int} {f : Cmd → Device → Device} {cyc : Nat} {st : Status}
    {w1 w2 : Word} (hrun : f (mkCmd purlinReq op ps env fenceAllDue) (begun fenceAllDue) =
      complete (mkCmd purlinReq op ps env fenceAllDue) (begun fenceAllDue) cyc st w1 w2)
    (hentry : (completionWords purlinFenceAll .ok 0#32 0#32 0#32).take 3 ≠
      (completionWords (mkCmd purlinReq op [] [] fenceAllDue) st w1 w2 0#32).take 3) :
    answered purlinReq op st w1 w2 fenceAllDue (runRow purlinReq op ps env f fenceAllDue) = false := by
  rw [runRow_on fenceAllDue_engineOn, hrun]
  exact not_answered_of_fenceAll_last (fenceAll_returned_last begun_fenceAllDue_canonical rfl rfl) (by decide) hentry

/-- R397: where the OK of the FENCE_ALL is the completion that Purlin was given last, no command of Purlin with another entry has its
reply, unless a FENCE of Purlin stands. -/
theorem reply_eq_false_of_fenceAll_last {c : Cmd} {st : Status} {w1 w2 : Word} {d e : Device} (hsrc : c.src = .purlin)
    (hlast : returned purlinFenceAll .ok 0#32 0#32 e = true)
    (hfence : d.eng.issued.any (fun x => x.src == .purlin && x.op == 0x01) = false)
    (hentry : (completionWords purlinFenceAll .ok 0#32 0#32 0#32).take 3 ≠ (completionWords c st w1 w2 0#32).take 3) :
    reply c st w1 w2 d e = false := by
  simp only [returned, beq_iff_eq] at hlast
  have hqueue : srcQueue c.src = srcQueue purlinFenceAll.src := by rw [hsrc]; rfl
  have hcore : srcIsHost c.src = false := by rw [hsrc]; rfl
  rw [reply, hcore, if_neg Bool.false_ne_true, hsrc, hfence, Bool.or_false, returned, hqueue, hlast, beq_eq_false_iff_ne]
  exact hentry

/-- Purlin's ECHO, issued and not yet started. -/
def purlinEcho : Cmd := { id := 1, src := .purlin, tag := 0, quiet := false, op := 0x03, params := [5#32, 7#32], started := false }

/-- The block `fenceAllDue` in which Purlin's ECHO has issued. -/
def echoIssued : Device :=
  { fenceAllDue with eng := { fenceAllDue.eng with issued := [purlinFenceAll, purlinEcho], nextId := 2 } }

theorem echoIssued_canonical : canonical echoIssued = true := by decide

theorem echoIssued_engineOn : engineOn echoIssued = true := by decide

theorem echoIssued_pick : ((waitingCmds echoIssued).filter (mayStart echoIssued))[0]? = some purlinEcho := by decide

theorem exec_packetStart (k : Nat) (env : List Int) (q : List Instr) (d : Device) :
    exec (.packetStart k env) { pending := q, dev := d } = .next { pending := q, dev := opPacketStart k env d } := rfl

/-- R402: the packet that may start and is chosen runs. -/
theorem opPacketStart_of_pick {k : Nat} {env : List Int} {c : Cmd} {d : Device} (hon : engineOn d = true)
    (hpick : ((waitingCmds d).filter (mayStart d))[k]? = some c) : opPacketStart k env d = startCmd c env d := by
  simp [opPacketStart, hon, hpick]

theorem packetStart_echoIssued_fenceAll_last : returned purlinFenceAll .ok 0#32 0#32 (opPacketStart 0 [] echoIssued) = true := by
  rw [opPacketStart_of_pick echoIssued_engineOn echoIssued_pick]
  exact fenceAll_returned_last echoIssued_canonical rfl rfl

/-- Refutes O11 by its clause for an ECHO that starts: in the block `echoIssued` the ECHO completes, and behind it the FENCE_ALL,
whose OK Purlin is given last (R404). The clause lacks the premise that no FENCE_ALL of the packet's core is in progress. -/
theorem not_packetsIssueAndStart : ¬ Obligations.PacketsIssueAndStart := by
  intro h
  obtain ⟨-, -, -, -, hecho, -⟩ := h [] echoIssued echoIssued_canonical
  obtain ⟨hreply, -⟩ := (hecho 0 [] purlinEcho echoIssued_engineOn echoIssued_pick rfl).post_of_exec
    (exec_packetStart 0 [] [] echoIssued)
  have hfalse := reply_eq_false_of_fenceAll_last (c := purlinEcho) (st := .ok) (w1 := purlinEcho.p 0) (w2 := purlinEcho.p 1)
    (d := echoIssued) rfl packetStart_echoIssued_fenceAll_last (by decide) (by decide)
  rcases hreply with hlost | hreply
  · exact absurd hlost (by decide)
  · exact absurd (hfalse.symm.trans hreply) Bool.false_ne_true

theorem nop_not_answered :
    answered purlinReq 0x00 .ok 0#32 0#32 fenceAllDue (runRow purlinReq 0x00 [] [] opNop fenceAllDue) = false :=
  row_not_answered (cyc := 1) (rfl) (by decide)

/-- Refutes O10 by its clause for NOP: in the block `fenceAllDue` the FENCE_ALL completes behind Purlin's NOP, and its OK is what
Purlin is given last (R404). The clause lacks the premise that no FENCE_ALL of the packet's core is in progress. -/
theorem not_engineCommandsComplete : ¬ Obligations.EngineCommandsComplete := by
  intro h
  obtain ⟨hnop, -⟩ := h [] fenceAllDue fenceAllDue_canonical
  have hans := (hnop purlinReq fenceAllDue_engineOn).post_of_exec
    (e := runRow purlinReq 0x00 [] [] opNop fenceAllDue) rfl
  exact absurd (nop_not_answered.symm.trans hans) Bool.false_ne_true

/-- R411, R457: an EVT_ACK of group 28 is refused. -/
theorem evtAck_refused :
    opEvtAck (mkCmd purlinReq 0x70 [28#32, 0#32] [] fenceAllDue) (begun fenceAllDue) =
      complete (mkCmd purlinReq 0x70 [28#32, 0#32] [] fenceAllDue) (begun fenceAllDue) 4 .badParam 0#32 0#32 := by
  unfold opEvtAck
  dsimp only
  rw [judged_fail (st := .badParam) ?h]
  · rfl
  · decide

theorem evtAck_not_answered :
    answered purlinReq 0x70 .badParam 0#32 0#32 fenceAllDue (runRow purlinReq 0x70 [28#32, 0#32] [] opEvtAck fenceAllDue) = false :=
  row_not_answered evtAck_refused (by decide)

/-- Refutes O34 by its clause on the status of a refused EVT_ACK: in the block `fenceAllDue` the FENCE_ALL completes behind Purlin's
packet, and its OK is what Purlin is given last (R404). The clause lacks the premise that no FENCE_ALL of the packet's core is in
progress. -/
theorem not_eventCommandsComplete : ¬ Obligations.EventCommandsComplete := by
  intro h
  obtain ⟨hrefused, -⟩ := h [] fenceAllDue fenceAllDue_canonical
  have hans := (hrefused purlinReq 28#32 0#32 .badParam fenceAllDue_engineOn (by decide)).post_of_exec
    (e := runRow purlinReq 0x70 [28#32, 0#32] [] opEvtAck fenceAllDue) rfl
  exact absurd (evtAck_not_answered.symm.trans hans) Bool.false_ne_true

/-- R411, R436: an ADC_CONVERT with a reserved bit set is refused. -/
theorem adcConvert_refused :
    opAdcConvert (mkCmd purlinReq 0x60 [0x800#32] [] fenceAllDue) (begun fenceAllDue) =
      complete (mkCmd purlinReq 0x60 [0x800#32] [] fenceAllDue) (begun fenceAllDue) 3 .badParam 0#32 0#32 := by
  unfold opAdcConvert
  dsimp only
  rw [judged_fail (st := .badParam) ?h]
  · rfl
  · decide

theorem adcConvert_not_answered :
    answered purlinReq 0x60 .badParam 0#32 0#32 fenceAllDue (runRow purlinReq 0x60 [0x800#32] [] opAdcConvert fenceAllDue) = false :=
  row_not_answered adcConvert_refused (by decide)

/-- Refutes O37 by its clause on the status of a refused ADC_CONVERT: in the block `fenceAllDue` the FENCE_ALL completes behind
Purlin's packet, and its OK is what Purlin is given last (R404). The clause lacks the premise that no FENCE_ALL of the packet's core
is in progress. -/
theorem not_converterCommandsComplete : ¬ Obligations.ConverterCommandsComplete := by
  intro h
  obtain ⟨-, hrefused, -⟩ := h [] fenceAllDue fenceAllDue_canonical
  obtain ⟨hans, -⟩ := (hrefused purlinReq 0x800#32 .badParam fenceAllDue_engineOn (by decide)).post_of_exec
    (e := runRow purlinReq 0x60 [0x800#32] [] opAdcConvert fenceAllDue) rfl
  exact absurd (adcConvert_not_answered.symm.trans hans) Bool.false_ne_true

theorem rtcGet_not_answered :
    answered purlinReq 0x81 .busy 0#32 0#32 fenceAllDue (runRow purlinReq 0x81 [] [0] opRtcGet fenceAllDue) = false :=
  row_not_answered (cyc := 5) (judged_fail (by decide)) (by decide)

/-- Refutes O39 by its clause on the status of a refused RTC_GET: in the block `fenceAllDue` the FENCE_ALL completes behind Purlin's
packet, and its OK is what Purlin is given last (R404). The clause lacks the premise that no FENCE_ALL of the packet's core is in
progress. -/
theorem not_clockCommandsComplete : ¬ Obligations.ClockCommandsComplete := by
  intro h
  obtain ⟨-, -, -, hrefused, -⟩ := h [] fenceAllDue fenceAllDue_canonical
  obtain ⟨hans, -⟩ := (hrefused purlinReq false .busy fenceAllDue_engineOn (by decide)).post_of_exec
    (e := runRow purlinReq 0x81 [] [0] opRtcGet fenceAllDue) rfl
  exact absurd (rtcGet_not_answered.symm.trans hans) Bool.false_ne_true

/-- R411, R444: an FW_STAGE of no words is refused. -/
theorem fwStage_refused :
    opFwStage (mkCmd purlinReq 0xA0 [0#32] [] fenceAllDue) (begun fenceAllDue) =
      complete (mkCmd purlinReq 0xA0 [0#32] [] fenceAllDue) (begun fenceAllDue) 3 .badParam 0#32 0#32 := by
  unfold opFwStage
  dsimp only
  rw [judged_fail (st := .badParam) ?h]
  · rfl
  · decide

theorem fwStage_not_answered :
    answered purlinReq 0xA0 .badParam 0#32 0#32 fenceAllDue (runRow purlinReq 0xA0 [0#32] [] opFwStage fenceAllDue) = false :=
  row_not_answered fwStage_refused (by decide)

/-- Refutes O41 by its clause on the status of a refused FW_STAGE: in the block `fenceAllDue` the FENCE_ALL completes behind Purlin's
packet, and its OK is what Purlin is given last (R404). The clause lacks the premise that no FENCE_ALL of the packet's core is in
progress. -/
theorem not_firmwareComplete : ¬ Obligations.FirmwareComplete := by
  intro h
  obtain ⟨-, -, hrefused, -⟩ := h [] fenceAllDue fenceAllDue_canonical
  obtain ⟨hans, -⟩ := (hrefused purlinReq 0#32 [] .badParam fenceAllDue_engineOn (by decide)).post_of_exec
    (e := runRow purlinReq 0xA0 [0#32] [] opFwStage fenceAllDue) rfl
  exact absurd (fwStage_not_answered.symm.trans hans) Bool.false_ne_true

theorem cntSnapshot_not_answered :
    answered purlinReq 0xB3 .deniedPermission 0#32 0#32 fenceAllDue (runRow purlinReq 0xB3 [] [] opCntSnapshot fenceAllDue) = false :=
  row_not_answered (cyc := 3) (judged_fail (by decide)) (by decide)

/-- Refutes O50 by its clause on the status of a refused CNT_SNAPSHOT: in the block `fenceAllDue` the FENCE_ALL completes behind
Purlin's packet, and its OK is what Purlin is given last (R404). The clause lacks the premise that no FENCE_ALL of the packet's core
is in progress. -/
theorem not_countersComplete : ¬ Obligations.CountersComplete := by
  intro h
  obtain ⟨-, -, -, hrefused, -⟩ := h [] fenceAllDue fenceAllDue_canonical
  obtain ⟨hans, -⟩ := (hrefused purlinReq .deniedPermission fenceAllDue_engineOn (by decide)).post_of_exec
    (e := runRow purlinReq 0xB3 [] [] opCntSnapshot fenceAllDue) rfl
  exact absurd (cntSnapshot_not_answered.symm.trans hans) Bool.false_ne_true

/-! ### A self-test of a converter (O38) -/

/-- Purlin's SELFTEST 2 of converter 0, its calibration begun. -/
def purlinCalTest : Cmd :=
  { id := 1, src := .purlin, tag := 0, quiet := false, op := 0x31, params := [2#32], aux := [1#32] }

/-- The block `fenceAllDue` with the calibration of converter 0 under way for that self-test. -/
def calTestBehindFenceAll : Device :=
  { setFld fenceAllDue W.ADC_STATUS_CALIBRATING 1 with
    eng := { fenceAllDue.eng with issued := [purlinFenceAll, purlinCalTest], nextId := 2 } }

theorem calTestBehindFenceAll_canonical : canonical calTestBehindFenceAll = true := by decide +kernel

theorem exec_adcCalibrationEnd (c : BitVec 2) (gain offset : Int) (half : BitVec 14) (q : List Instr) (d : Device) :
    exec (.adcCalibrationEnd c gain offset half) { pending := q, dev := d } =
      .next { pending := q, dev := opCalibrationEnd c.toNat gain offset half.toNat d } := rfl

theorem calibrationEnd_fenceAll_last :
    returned purlinFenceAll .ok 0#32 0#32 (opCalibrationEnd (0#2).toNat 0 0 (0#14).toNat calTestBehindFenceAll) = true := by decide +kernel

theorem calTestBehindFenceAll_calibrating :
    (fld calTestBehindFenceAll W.ADC_STATUS_CALIBRATING).testBit (0#2).toNat = true := by decide +kernel

/-- The calibration of converter 0 is that of the self-test. -/
theorem calTestBehindFenceAll_test :
    (calTests calTestBehindFenceAll true).find? (fun y => bitsOf (y.p 0) 21 20 == (0#2).toNat) = some purlinCalTest := by decide +kernel

/-- Refutes O38 by its clause for the self-test of a converter: in the block `calTestBehindFenceAll` the SELFTEST completes, and
behind it the FENCE_ALL, whose OK Purlin is given last (R404). The clause lacks the premise that no FENCE_ALL of the packet's core is
in progress. -/
theorem not_converterEventsComplete : ¬ Obligations.ConverterEventsComplete := by
  intro h
  obtain ⟨-, -, -, -, -, -, -, -, -, -, -, -, -, -, -, htest, -⟩ := h [] calTestBehindFenceAll calTestBehindFenceAll_canonical
  obtain ⟨hreply, -, -⟩ := (htest 0#2 0 0 0#14 purlinCalTest calTestBehindFenceAll_calibrating calTestBehindFenceAll_test).post_of_exec
    (exec_adcCalibrationEnd 0#2 0 0 0#14 [] calTestBehindFenceAll)
  have hfalse : reply purlinCalTest .ok (if fitFails 0 0 (0#14).toNat then 1#32 else 0#32) (fitWord 0 0) calTestBehindFenceAll
      (opCalibrationEnd (0#2).toNat 0 0 (0#14).toNat calTestBehindFenceAll) = false :=
    reply_eq_false_of_fenceAll_last rfl calibrationEnd_fenceAll_last (by decide) (by decide)
  rcases hreply with hlost | hreply
  · exact absurd hlost (by decide)
  · exact absurd (hfalse.symm.trans hreply) Bool.false_ne_true

end Sys2Proof.Machine
end

section
/-! # A number past the last source (O9) -/

set_option Elab.async false

namespace Sys2Proof.Machine

/-- A block in RUN in which source 0, enabled and in a group of two (COUNT_TH), became due inside a step and has still to latch. -/
def dueBehind : Device :=
  setW (setW { bootOver .run with ev := { due := [0] } } W.EVT_EN 1#32) W.EVT_COAL 0x02000000#32

theorem dueBehind_canonical : canonical dueBehind = true := by decide +kernel

/-- R451: 1024 is past the last source. -/
theorem dueBehind_deaf : listens dueBehind 1024 = false := by decide +kernel

/-- The latch of source 0, which follows, sets bit 0 of EVT_LAT: the word 32 past EVT_PEND_N, where source 1024 would pend. -/
theorem raise_dueBehind_shows : shows (raise 1024 dueBehind) 1024 = true ∧ shows dueBehind 1024 = false := by decide +kernel

/-- Refutes O9 by its second half at the number 1024, which is no source: the words from which `shows` would read it are those of
other sources, and source 0, due in the block `dueBehind`, latches there behind it. The statement lacks the bound `s < 1024`. -/
theorem not_sourcesLatch : ¬ Obligations.SourcesLatch := by
  intro h
  obtain ⟨-, hdeaf⟩ := h 1024 dueBehind dueBehind_canonical
  obtain ⟨hafter, hbefore⟩ := raise_dueBehind_shows
  exact absurd (hafter.symm.trans ((hdeaf dueBehind_deaf).trans hbefore)) (by decide)

end Sys2Proof.Machine
end

section
/-! # A freeze with a TRACE_TRIGGER that has not started (O48) -/

set_option Elab.async false

namespace Sys2Proof.Machine

/-- A TRACE_TRIGGER of Q2 that has issued and not yet started. -/
def triggerWaits : Cmd := { id := 0, src := .host 2, tag := 0, quiet := false, op := 0xB0, params := [0#32], started := false }

/-- The trace store waits after a trigger (R567), and a TRACE_TRIGGER has not started yet. -/
def postTrigger : Device :=
  setTrc 2 { bootOver .run with eng := { issued := [triggerWaits], nextId := 1 } }

theorem postTrigger_canonical : canonical postTrigger = true := by decide +kernel

theorem postTrigger_state : trcState postTrigger = 2 := by decide +kernel

theorem exec_trcFrozen (q : List Instr) (d : Device) :
    exec .trcFrozen { pending := q, dev := d } = .next { pending := q, dev := opTrcFrozen d } := rfl

/-- R402: a packet that has not started does not complete. -/
theorem trcFrozen_postTrigger_issued : (opTrcFrozen postTrigger).eng.issued.any (fun c => c.op == 0xB0) = true := by
  decide +kernel

/-- Refutes O48 by its clause for a freeze: in the block `postTrigger` the TRACE_TRIGGER that has not started stays in progress, while
the clause states that none is. It lacks the premise that each one has started. -/
theorem not_traceStoreComplete : ¬ Obligations.TraceStoreComplete := by
  intro h
  obtain ⟨-, -, -, hfrozen, -⟩ := h [] postTrigger postTrigger_canonical
  obtain ⟨-, -, -, -, -, hnone, -⟩ := (hfrozen postTrigger_state).post_of_exec (exec_trcFrozen [] postTrigger)
  exact absurd (trcFrozen_postTrigger_issued.symm.trans hnone) (by decide)

end Sys2Proof.Machine
end

section
/-! # An early kick of Purlin that applies the safe profile (O42) -/

set_option Elab.async false

namespace Sys2Proof.Machine

/-- A block in RUN with the host watchdog on, its action the safe profile, and one entry in the profile: EVT_EN of group 0. -/
def safeProfile : Device :=
  setW (setW (setW (bootOver .run) W.HWD_CFG 0x80010001#32) W.SAFE_ADDR 0x80001100#32) W.SAFE_VAL 1#32

theorem safeProfile_canonical : canonical safeProfile = true := by decide +kernel

theorem safeProfile_early : flag safeProfile W.HWD_CFG_HWD_EN = true ∧ 2 * hwdElapsed safeProfile < hwdPeriod safeProfile ∧
    fld safeProfile W.HWD_CFG_ACTION = 1 := by decide +kernel

theorem safeProfile_on : engineOn safeProfile = true ∧ modeOk .live safeProfile = true := by decide +kernel

/-- R530: the profile's entry is applied as a REG_WRITE of Purlin, whose completion is given to Purlin behind that of the WDT_KICK. -/
theorem wdtKick_safeProfile_not_answered :
    answered purlinReq 0xA2 .deniedWindow (BitVec.ofNat 32 (hwdShare safeProfile)) 0#32 safeProfile
      (runRow purlinReq 0xA2 [] [] opWdtKick safeProfile) = false := by decide +kernel

/-- Refutes O42 by its clause for an early WDT_KICK with the safe profile for its action: in the block `safeProfile` Purlin is given
the completion of the profile's REG_WRITE last. The clause lacks the premise that the packet is the host's. -/
theorem not_watchdogsComplete : ¬ Obligations.WatchdogsComplete := by
  intro h
  obtain ⟨-, -, -, -, -, -, -, -, -, -, -, -, -, -, -, -, -, -, -, hprofile, -⟩ := h [] safeProfile safeProfile_canonical
  obtain ⟨hon, hlive⟩ := safeProfile_on
  obtain ⟨hen, hearly, haction⟩ := safeProfile_early
  obtain ⟨hans, -⟩ := (hprofile purlinReq hon (by decide) hlive hen hearly haction).post_of_exec
    (e := runRow purlinReq 0xA2 [] [] opWdtKick safeProfile) rfl
  exact absurd (wdtKick_safeProfile_not_answered.symm.trans hans) Bool.false_ne_true

end Sys2Proof.Machine
end
